-- ==== Sys2Proof/Word.lean ====
section
/-! DEFINITION. The words of the block: bytes, ticks and the names the spec gives to fixed sets of things
(ports, processing elements, device states, parameter blocks). -/

namespace Sys2Proof

/-- A byte of an envelope, a record or a parameter block. -/
abbrev Byte := BitVec 8

/-- A postmark or a duration in ticks of 12.5 ns (R32). The 64-bit counter never wraps in use (02, after R32), so a
postmark is a count. Marks: DEDUCED (log 8). -/
abbrev Tick := Nat

/-- The three host ports, in the port order of R355. -/
inductive Port where
  | spi | uart | tunnel
deriving DecidableEq, Repr, Inhabited

/-- The processing elements, numbered as in "Fault Handling and Safe States". -/
inductive Element where
  | enclave | pair | field | control | gnss
deriving DecidableEq, Repr, Inhabited

/-- The nine device states of R23. -/
inductive DevState where
  | off | start | quarantine | standby | armed | manual | coast | safe | latched
deriving DecidableEq, Repr, Inhabited

/-- The blocks of R12. -/
inductive Block where
  | sys | time | gnss | pos | impl | fe | map | vdr | pwu | ce | pif | lsw | ths | can | host | sec | safe | pwr
deriving DecidableEq, Repr, Inhabited

/-- The statuses of R378. -/
inductive Status where
  | ok | accepted | badOpcode | badLength | badCrc | badParam | range | state | busy | noCredit
  | sealedWorld | authFail | versionMismatch | faulted | quarantined
deriving DecidableEq, Repr, Inhabited

/-- Position quality levels (04, "Quality levels"). -/
inductive Quality where
  | lost | dr | solo | float | fix
deriving DecidableEq, Repr, Inhabited

end Sys2Proof
end

