-- ==== Sys2Proof/Syntax.lean ====
section
/-! DEFINITION. The commands of the block: one constructor of `Instr` per row of the table, with the operands its
rules name. A host request carries its envelope; a row that reports the outside world carries what was measured. -/

namespace Sys2Proof

/-- A request envelope as the port receives it (R352). OPCODE is fixed by the command, LENGTH is the length of
`payload`, and the sync bytes have been found by the hunt of R354. `firstPm` is the postmark at which the first sync
byte was sampled (R49). -/
structure Env where
  port : Port := .spi
  version : BitVec 8 := 1
  sealedBit : Bool := false
  noticeBit : Bool := false
  moreBit : Bool := false
  rsvdA : BitVec 5 := 0
  seq : BitVec 16 := 0
  session : BitVec 16 := 0
  grant : BitVec 8 := 0
  rsvdB : BitVec 8 := 0
  hdrCrc : BitVec 16 := 0
  payload : List Byte := []
  payCrc : BitVec 32 := 0
  tag : BitVec 128 := 0
  firstPm : Tick := 0
deriving DecidableEq, Repr, Inhabited

/-- One increment of the IMU over 20,000 ticks, on the module's axes (R83): angle in 10⁻⁹ °, velocity in 1 nm/s, and whether an
axis saturated. -/
structure ImuInc where
  ang : Int × Int × Int := (0, 0, 0)
  vel : Int × Int × Int := (0, 0, 0)
  sat : Bool := false
deriving DecidableEq, Repr, Inhabited

/-- The regions of R177 in which an ECC error can lie. -/
inductive EccRegion where
  | coverage | tint | mask | polygon | log
deriving DecidableEq, Repr, Inhabited

/-- A word of map DRAM in error (R176, R177): the region, the tile key and the 64-bit word of the tile, the map address
reported, and whether two bits are wrong. -/
structure EccIn where
  region : EccRegion := .coverage
  layer : Fin 4 := 0
  tx : Int := 0
  ty : Int := 0
  word : Nat := 0
  addr : BitVec 32 := 0
  double : Bool := false
deriving DecidableEq, Repr, Inhabited

/-- The inputs frozen at a frame edge that no other command has brought in (R15, R35, R83). -/
structure Freeze where
  /-- the increments over [E − 40,000, E − 20,000) and [E − 20,000, E) (R83) -/
  imu0 : ImuInc := {}
  imu1 : ImuInc := {}
  /-- the IMU's self-check fails (R102) -/
  imuFail : Bool := false
  /-- converter output energy of the frame, µJ (R204) -/
  eConv : Int := 0
  /-- energy drawn through the bank feeds, µJ (R204) -/
  eFeed : Nat := 0
  /-- VBST at the edge, 10 mV (R204) -/
  vbst : Nat := 0
  /-- VBAT at the edge, 10 mV (R202) -/
  vbat : Nat := 0
  /-- latest internal measurement of each load switch: current in 10 mA and switch temperature in 0.1 °C (R297, R307) -/
  lsw : Vector (Nat × Int) 16 := Vector.replicate 16 (0, 0)
  /-- the levels on SEL3 to SEL0 (R297) -/
  sel : BitVec 4 := 0
  /-- bit errors that have come about in map DRAM since the last edge (R176) -/
  upsets : List EccIn := []
deriving DecidableEq, Repr, Inhabited

/-- One satellite of a measurement epoch as the channel measured it (R69). -/
structure SatMeas where
  channel : Fin 24 := 0
  codeValid : Bool := false
  dopplerValid : Bool := false
  pr : BitVec 40 := 0
  carrier : BitVec 40 := 0
  doppler : BitVec 32 := 0
  cn0 : BitVec 8 := 0
  elev : Int := 0
  azim : BitVec 16 := 0
  prSigma : BitVec 16 := 0
  /-- code phase, half chips (R58) -/
  code : Nat := 0
  /-- carrier phase less its aided prediction, 2⁻⁸ cycle (R61) -/
  innov : Int := 0
  /-- code at the wide spacing of its monitor less the code at DLL_SPACING, 1 mm (R62) -/
  wide : Int := 0
  /-- range-rate residual, 1 mm/s (R70) -/
  rateRes : Int := 0
  /-- the residual tests single it out (R72) -/
  suspect : Bool := false
deriving DecidableEq, Repr, Inhabited

/-- A measurement epoch as latched (R67, R68): the receiver's clock solution (time of week in ps at EPOCH_PM) and what the
channels measured. -/
structure EpochIn where
  towPs : Nat := 0
  clockValid : Bool := false
  clkBias : Int := 0
  clkDrift : Int := 0
  agc : BitVec 16 := 0
  sats : List SatMeas := []
  /-- normalised pseudorange residual statistic (R70) -/
  resStat : Nat := 0
  /-- GNSS horizontal speed, 1 mm/s (R70) -/
  speed : Nat := 0
  /-- estimated 1σ error of the model, ns (R44) -/
  errNs : BitVec 32 := 0
  /-- the antenna's position: latitude and longitude, 10⁻¹³ °, height, 2⁻¹⁶ mm (R75) -/
  ant : Int × Int × Int := (0, 0, 0)
deriving DecidableEq, Repr, Inhabited

/-- What the cells of a dwell hold at its end (R54, R55, R58): its strongest cell, and the sum of its 16 noise cells. -/
structure DwellIn where
  peak : Nat := 0
  noise : Nat := 0
  /-- code phase, half chips -/
  code : Nat := 0
  /-- Doppler, Hz -/
  doppler : Int := 0
  /-- level as C/N0, 0.25 dB-Hz -/
  cn0 : Nat := 0
deriving DecidableEq, Repr, Inhabited

/-- The words a preamble search ends on (R63): the TLM word with the last two bits before it, the HOW, and the word that
begins 300 bits after the TLM word. -/
structure FrameIn where
  d29 : Bool := false
  d30 : Bool := false
  tlm : BitVec 30 := 0
  how : BitVec 30 := 0
  again : BitVec 30 := 0
deriving DecidableEq, Repr, Inhabited

/-- A frame on a CAN bus as received (R328, R329). -/
structure CanFrame where
  id : BitVec 29 := 0
  ide : Bool := false
  fdf : Bool := false
  brs : Bool := false
  esi : Bool := false
  dlc : BitVec 4 := 0
  data : List Byte := []
  /-- start-of-frame postmark -/
  sofPm : Tick := 0
deriving DecidableEq, Repr, Inhabited

/-- How a transmission ended (R332, R334, R326). `tdcv` is the measured transmitter delay where one was measured, in a frame
that failed past its res bit too; `tecUp` and `recUp` are the counter steps of ISO 11898-1. -/
inductive TxResult where
  | sent (sofPm eofPm : Tick) (tdcv : Option Nat)
  | arbLost
  | error (sofPm : Tick) (dataBit : Bool) (tecUp : Nat) (tdcv : Option Nat)
deriving DecidableEq, Repr, Inhabited

/-- A signature in the residual as the bank ADC samples it (R206 to R208), mA: the sample of the extremum with the one before
and the one after it, the extremum before it, the residual at the confirmation, which is now, and whether the current limit
or the hold regulation forced the current. -/
structure SigIn where
  sample : Tick := 0
  before : Int := 0
  at_ : Int := 0
  after : Int := 0
  prior : Int := 0
  later : Int := 0
  forced : Bool := false
deriving DecidableEq, Repr, Inhabited

/-- What a retry delay of R223 runs for. -/
inductive RetryTarget where
  | channel (c : Fin 96)
  | bank (b : Fin 12)
deriving DecidableEq, Repr, Inhabited

/-- Verdicts of one image bank at verification (R415): the header signature and digest check. -/
structure BankVerdict where
  sigOk : Bool := true
  imageOk : Bool := true
deriving DecidableEq, Repr, Inhabited

/-- The commands: the rows of spec/opcode_table.json in the table's order. -/
inductive Instr where
  | sysNop (e : Env)
  | sysStatus (e : Env)
  | sysIdentity (e : Env)
  | sysLinkReset (e : Env)
  | sysArm (e : Env)
  | sysManual (e : Env)
  | sysDisarm (e : Env)
  | sysClearFault (e : Env)
  | sysReset (e : Env)
  | sysSubscribe (e : Env)
  | sysWakeSet (e : Env)
  | pbRead (e : Env)
  | pbWrite (e : Env)
  | pbCommit (e : Env)
  | pbRevert (e : Env)
  | tcxoClear
  | relearn (c : Fin 96)
  | implWrite (e : Env)
  | implRead (e : Env)
  | implCommit (e : Env)
  | implRevert (e : Env)
  | mapStatus (e : Env)
  | mapLoadBegin (e : Env)
  | mapLoadData (e : Env)
  | mapLoadEnd (e : Env)
  | mapLoadAbort (e : Env)
  | mapExportBegin (e : Env)
  | mapExportRead (e : Env)
  | mapExportAck (e : Env)
  | mapClear (e : Env)
  | mapLogRead (e : Env)
  | mapLogAck (e : Env)
  | feDirected (e : Env)
  | feDirectedClear (e : Env)
  | actEvent (e : Env)
  | actDuty (e : Env)
  | actFineCmp (e : Env)
  | actClearFault (e : Env)
  | ceSetpoint (e : Env)
  | ceOutput (e : Env)
  | ceTableWrite (e : Env)
  | ceTableRead (e : Env)
  | ceLoopReset (e : Env)
  | timeGet (e : Env)
  | timeStepConfirm (e : Env)
  | gnssRtcm (e : Env)
  | gnssMeasGet (e : Env)
  | posGet (e : Env)
  | lswSet (e : Env)
  | lswClearFault (e : Env)
  | pifEncSet (e : Env)
  | pifEventsRead (e : Env)
  | canPhConfig (e : Env)
  | canRxRead (e : Env)
  | canTx (e : Env)
  | canTxAbort (e : Env)
  | canRecover (e : Env)
  | secSessionOpen (e : Env)
  | secSessionClose (e : Env)
  | secServiceChallenge (e : Env)
  | secServiceResponse (e : Env)
  | secAttest (e : Env)
  | secImageBegin (e : Env)
  | secImageData (e : Env)
  | secImageEnd (e : Env)
  | secActivate (e : Env)
  | secImageStatus (e : Env)
  | diagRead (e : Env)
  | badHeader (p : Port)
  | noticeEnvelope (p : Port)
  | linkLost (p : Port)
  | pbHostApply
  | resetAfterReply
  | frameEdge (f : Freeze)
  | decisionPhase
  | commitPhase (agree : Bool)
  | loggingPhase
  | vkeyHigh
  | vkeyLow
  | keyOffDelayExpiry
  | wakeAlarm
  | vbatStartBand
  | brownOut
  | lowSupply
  | lowSupplyExit
  | powerCycle
  | lossOfGround
  | groundRestored
  | reverseBattery
  | loadDump
  | timeResetRelease
  | imageSetSelect (v0 v1 : Vector BankVerdict 5)
  | domainPowerUp
  | hostPortAlive
  | selftestComplete (failed : List Nat)
  | powerDomainSwitch (d : Fin 12) (on : Bool)
  | dramTestDone (retired : Vector Nat 3)
  | pairCheck
  | ceCheck
  | gnssCheck
  | enclaveCheck
  | clockElement (el : Element)
  | clockBase (clock : BitVec 8)
  | clockBaseRestored
  | pllRelock (el : Element) (ok : Bool)
  | coastExpired
  | elementRestartComplete (el : Element)
  | safeIn
  | rowBusoffGraceExpiry
  | boost
  | boostRetry (ok : Bool)
  | measurementEpoch (m : EpochIn)
  | holdoverEntry
  | holdoverLimitExpiry
  | ppsPulse
  | ppsPulseEnd
  | tcxoTempUpdate (t : Int)
  | acqDwellEnd (d : DwellIn)
  | warmSearchTimer
  | pullInTimeout (c : Fin 24)
  | bitSync (c : Fin 24) (changes : List Nat)
  | frameSync (c : Fin 24) (f : FrameIn)
  | lnavWord (c : Fin 24) (w : BitVec 30)
  | ephemerisAccept (prn : Fin 32)
  | channelLoss (c : Fin 24)
  | antOpen (ma : Nat)
  | antShort (ma : Nat)
  | antBiasRetry (ma : Nat)
  | rtcmFrame
  | rtcmTimeout
  | ambiguityCandidate (sats : BitVec 32) (ints : List Int) (ratio : Nat)
  | odoStale (k : Fin 4)
  | eventExecute (b : Fin 12)
  | reservedStart (c : Fin 96)
  | feedToVbst (b : Fin 12)
  | windowEnd (b : Fin 12)
  | guardEnd (b : Fin 12)
  | pullInEnd (c : Fin 96) (l0 : Nat)
  | fastDecayEnd (c : Fin 96) (energy : Nat)
  | decayEnd (c : Fin 96) (energy : Nat)
  | openingSignature (c : Fin 96) (g : SigIn)
  | closingSignature (c : Fin 96) (g : SigIn) (energy : Nat)
  | openingSearchEnd (c : Fin 96)
  | boostLimit (avgMw : Nat)
  | vbstSag (vbst : Nat)
  | returnSuspended (vbat : Nat)
  | recoveryDivert (vbst : Nat)
  | openLoad (c : Fin 96) (ma : Nat)
  | offStateTest (c : Fin 96) (low : Bool) (excessMa : Nat)
  | overcurrent (c : Fin 96)
  | overload (c : Fin 96) (meanMa : Nat)
  | stageHot (c : Fin 96) (t : Int)
  | feedOc (b : Fin 12)
  | retryRelease (t : RetryTarget)
  | coilResistanceMeasure (c : Fin 96) (r first second : Nat)
  | coilCooled (c : Fin 96)
  | bankReconnectTestEnd (b : Fin 12) (short : Option (Fin 8))
  | bankBoundary (b : Fin 12)
  | gridOpening (c : Fin 96)
  | gridClosing (c : Fin 96)
  | finePeriodStart (g : Fin 8)
  | gateTransition (g : Fin 8) (rising : Bool) (cross : Option Nat)
  | trigOutPulse (j : Fin 4)
  | trigOutPulseEnd (j : Fin 4)
  | loopEvaluation (k : Fin 16)
  | deadlineMiss (k : Fin 16)
  | flowImbalance (j : Fin 4)
  | encoderTransition (i : Fin 4) (ba : BitVec 2)
  | index (i : Fin 4) (ba : BitVec 2)
  | hallTransition (i : Fin 4) (wvu : BitVec 3)
  | hallIllegal (i : Fin 4)
  | freqEdge (i : Fin 16)
  | eventEdge (i : Fin 8) (falling : Bool)
  | analogConversion (i : Fin 32) (mv : BitVec 16)
  | emuOutputStep (x : Fin 2)
  | inrushStep (c : Fin 16)
  | lswOpenLoad (c : Fin 16) (present : Bool)
  | lswShortBat (c : Fin 16) (present : Bool)
  | lswShort (c : Fin 16)
  | lswOverload (c : Fin 16)
  | lswOvertemp (c : Fin 16) (t : Int)
  | thermLatchRelease (c : Fin 16) (t : Int)
  | aggregate (meanMa : Nat)
  | aggregateShedStep (meanMa : Nat)
  | lswRetryDue (c : Fin 16)
  | lswPulseOpening (c : Fin 16)
  | lswPulseClosing (c : Fin 16)
  | offAfterExpiry (c : Fin 16)
  | keyoffHoldEnd (c : Fin 16)
  | warn (z : Fin 10) (sensor : Fin 20) (t : Int)
  | throttle (z : Fin 10) (sensor : Fin 20) (t : Int)
  | sensorBroken (z : Fin 10) (sensor : Fin 20)
  | rateTrip (z : Fin 10) (sensor : Fin 20) (t : Int)
  | shutdown (z : Fin 10) (sensor : Fin 20) (t : Int)
  | canFrameReceive (x : Fin 3) (f : CanFrame)
  | canTxStart (x : Fin 3)
  | canTxEnd (x : Fin 3) (r : TxResult)
  | canDeadlineExpiry (x : Fin 3) (slot : Fin 32)
  | busoffRecoveryComplete (x : Fin 3)
  | busRejoin (x : Fin 3)
  | addressClaim
  | addressClaimTimer
  | sync
  | allOffRepeat
  | reportWaitExpiry
  | rowNodeLost (n : Fin 32)
  | scrub (errs : List EccIn)
  | dirtyWriteback
  | maskBuilt
  | loadTimeout
  | exportTimeout
  | logSeal
  | trackRecord
  | latencySave
  | activationPrepared
  | trialPassed (i : Fin 5)
  | serviceSessionExpiry
  | tamper
  | safeInRelease
  | badOpcode (op : BitVec 16) (e : Env)
  | imageVerified
  | stageHotRelease (c : Fin 96) (t : Int)
  | pullInComplete (c : Fin 24)
  | phaseLock (c : Fin 24) (mean : Int)
  | receiveError (x : Fin 3) (recUp : Nat)
  | acqIdleGate
deriving DecidableEq, Repr

end Sys2Proof
end

