-- ==== Sys2Proof/Decode.lean ====
section
/-! DEFINITION. The commands of this block have no bits in the table: a host request reaches a port as an envelope
(R352), and every other row is an event. -/

namespace Sys2Proof

/-- The command a word spells by the table's bits. No row of the table gives bits, so no word spells one. Marks:
DESIGN CHOICE (log 6). -/
def decodeTableWord (_nbits _w : Nat) : Option Instr := none

end Sys2Proof
end

