-- ==== Sys2Proof/Config.lean ====
section
/-! DEFINITION. What the spec names and does not compute: primitives it takes from other standards, geometry at "full
internal precision", and the values it leaves open. Every one is opaque: nothing can be proved about its value
(log entry 4). -/

namespace Sys2Proof

/-- The carrier as the filter of POS needs it (R82): antenna and module from the CRP, carrier axes, 1 mm. -/
structure Carrier where
  ant : Int × Int × Int := (0, 0, 0)
  mod : Int × Int × Int := (0, 0, 0)
deriving DecidableEq, Repr, Inhabited

/-- What the filter of POS estimates of the CRP ("Fusion" of 04): latitude and longitude in 10⁻¹³ °, height in 2⁻¹⁶ mm;
velocity east, north, up in 2⁻¹⁶ mm/s; along-track acceleration in 2⁻¹⁶ mm/s²; angles in 2⁻³² turn, yaw rate per second; biases,
misalignment, the scale factor of each odometry source with its 1σ in 0.001 %, the receiver clock, float ambiguities; variances
of position in mm², 1σ of the heading in 0.001°, and what else the covariance holds. -/
structure FilterSt where
  lat : Int := 0
  lon : Int := 0
  h : Int := 0
  vel : Int × Int × Int := (0, 0, 0)
  accel : Int := 0
  roll : Int := 0
  pitch : Int := 0
  heading : Int := 0
  yaw : Int := 0
  gyro : Int × Int × Int := (0, 0, 0)
  accBias : Int × Int × Int := (0, 0, 0)
  misalign : Int × Int × Int := (0, 0, 0)
  scale : Vector Nat 4 := Vector.replicate 4 0
  scaleSd : Vector Nat 4 := Vector.replicate 4 100000
  clk : Int × Int := (0, 0)
  amb : List (Nat × Int) := []
  varE : Nat := 1000000000000
  varN : Nat := 1000000000000
  varU : Nat := 1000000000000
  headSd : Nat := 180000
  cov : List Int := []
deriving DecidableEq, Repr, Inhabited

/-- One input of the filter (R84). -/
inductive FilterIn where
  /-- an IMU increment on carrier axes (R83) -/
  | imu (ang vel : Int × Int × Int)
  /-- 20,000 ticks without the IMU (R97) -/
  | coast
  /-- a measurement record, its satellites with SLIP, and the 1004 messages of the base epoch paired with it -/
  | epoch (bytes : List Byte) (base : List (List Byte))
  /-- the speed of a source in mm/s as formed with its factor in use (2⁻¹⁶ count/m), the point it measures, its 1σ in 0.1 % -/
  | odo (k : Fin 4) (speed : Int) (factor : Nat) (x y : Int) (sigma : Nat)
  /-- zero side slip and vertical velocity; zero velocity -/
  | nhc
  | zupt
  /-- standstill: gyro biases, roll and pitch from gravity (R88, R91) -/
  | still
  /-- the course of a straight line driven is the heading (R91) -/
  | align
  /-- the integer ambiguities of a set of PRNs; a set of PRNs whose ambiguities are float again (R96) -/
  | fix (sats : BitVec 32) (ints : List Int)
  | release (sats : BitVec 32)
  /-- the heading, where one is given, and its 1σ as R92 sets them -/
  | heading (h : Option Int) (sd : Nat)
  /-- position and heading held at standstill as in this state (R88) -/
  | hold (old : FilterSt)
deriving DecidableEq, Repr, Inhabited

end Sys2Proof

namespace Sys2Proof.Config

/-! ### Cryptography (FIPS 180-4, FIPS 186, SP 800-38B; 00_scope) -/

/-- SHA-256 of a byte string. Marks: DESIGN CHOICE (log 4). -/
opaque sha256 : List Byte → BitVec 256
/-- AES-CMAC-128 under a key (R369). Marks: DESIGN CHOICE (log 4). -/
opaque cmac : BitVec 128 → List Byte → BitVec 128
/-- The ECDSA P-256 signature of a hash under a private key, r then s. Marks: DESIGN CHOICE (log 4). -/
opaque ecdsaSign : BitVec 256 → BitVec 256 → BitVec 512
/-- DEVICE_SEED, as the OTP holds it (R403). Marks: DESIGN CHOICE (log 69). -/
opaque deviceSeed : BitVec 256
/-- Does a signature of a hash verify under a vendor key (0, 1 image keys A, B; 2, 3 service keys A, B)? Marks: DESIGN
CHOICE (log 4). -/
opaque ecdsaOk : Nat → BitVec 256 → BitVec 512 → Bool
/-- The x and y coordinates of the public key of an ephemeral secret (R368). Marks: DESIGN CHOICE (log 4). -/
opaque ephemeralPoint : BitVec 256 → BitVec 512
/-- ECDH of an ephemeral secret with the owner public key (x, parity of y) (R368). Marks: DESIGN CHOICE (log 4). -/
opaque ecdh : BitVec 256 → BitVec 256 → Bool → BitVec 256
/-- The device's public keys, attestation and log, and its certificate (OTP, R403). Marks: DESIGN CHOICE (log 69). -/
opaque attestPub : BitVec 512
/-- Marks: DESIGN CHOICE (log 69). -/
opaque logPub : BitVec 512
/-- Marks: DESIGN CHOICE (log 69). -/
opaque certificate : BitVec 512
/-- HW_REV of SYS_IDENTITY. Marks: DESIGN CHOICE (log 69). -/
opaque hwRev : BitVec 32
/-- Is a number the x coordinate of a P-256 point (R406)? Marks: DESIGN CHOICE (log 4). -/
opaque isPointX : BitVec 256 → Bool
/-- The n-th draw of the random generator. Marks: DESIGN CHOICE (log 4). -/
opaque rand : Nat → BitVec 256

/-! ### Free values -/

/-- The n-th free number: a value the spec leaves open. Marks: DESIGN CHOICE (log 4). -/
opaque freeNat : Nat → Nat

/-- One step of a first-order filter: state, input, time constant and interval in µs. The spec names the filter and
not its arithmetic (R258, R268). Marks: DESIGN CHOICE (log 23). -/
opaque firstOrder : Int → Int → Nat → Nat → Int

/-- The cubic fit over the filled bins of the TCXO model, at a temperature in 0.1 °C (R319). Marks: DESIGN CHOICE (log
23). -/
opaque cubicFit : List (Int × Int) → Int → Int
/-- The fit of the ageing term after one more epoch: the fit before it, PD0's time, what the drift exceeds its bin's
mean by; and the term it gives at a time (R319). Marks: DESIGN CHOICE (log 23). -/
opaque ageFit : Int → Nat → Int → Int
/-- Marks: DESIGN CHOICE (log 23). -/
opaque ageTerm : Int → Nat → Int
/-- Distance in m, at a postmark, between the satellite positions two ephemerides give (R65). Marks: DESIGN CHOICE
(log 23). -/
opaque ephDistance : List Nat → List Nat → Tick → Nat
/-- Elevation in 0.01° and Doppler in Hz of the satellite with these orbit words at a GNSS time in ms, seen from
latitude and longitude in 10⁻¹⁰ ° (R56). Marks: DESIGN CHOICE (log 23). -/
opaque satPredict : List Nat → Nat → Int × Int → Int × Int
/-- The factor, in 0.001, by which a cell must exceed the mean noise cell of a dwell of so many passes (R55). Marks:
DESIGN CHOICE (log 23). -/
opaque acqFactor : Nat → Nat
/-- The χ² threshold of the pseudorange residual test with so many satellites (R70). Marks: DESIGN CHOICE (log 23). -/
opaque residualLimit : Nat → Nat

/-! ### The filter of POS: an error-state Kalman filter whose arithmetic the spec does not give (04) -/

/-- One input applied. Marks: DESIGN CHOICE (log 35). -/
opaque filter : Carrier → FilterSt → FilterIn → FilterSt
/-- The normalised innovation of a record against a state passes its χ² test (R93). Marks: DESIGN CHOICE (log 35). -/
opaque innovationOk : Carrier → FilterSt → List Byte → Bool
/-- The double-differenced phase residual of a PRN with these integers, 2⁻⁸ cycle (R89, R96). Marks: DESIGN CHOICE
(log 35). -/
opaque phaseResidual : Carrier → FilterSt → List Byte → List (List Byte) → List Int → Nat → Int
/-- The fixed phase residuals pass their χ² test (R96). Marks: DESIGN CHOICE (log 35). -/
opaque phaseOk : Carrier → FilterSt → List Byte → List (List Byte) → BitVec 32 → Bool

end Sys2Proof.Config
end

