-- ==== Sys2Proof/Machine/Bits.lean ====
section
/-! DEFINITION. Bit fields, byte lists, the two CRCs of R353, saturation and the small list and vector helpers that
the other machine files share. -/

namespace Sys2Proof.Machine

/-! ### Bits and bytes (R3, R4, R5) -/

/-- Bits `[lo+w-1:lo]` of a number. -/
def bits (n lo w : Nat) : Nat := (n >>> lo) % 2 ^ w

/-- Bit `b` of a number. -/
def bitN (n b : Nat) : Bool := (n >>> b) % 2 == 1

/-- Replace bits `[lo+w-1:lo]` of a number. -/
def setBits (n lo w v : Nat) : Nat :=
  (n >>> (lo + w)) <<< (lo + w) ||| ((v % 2 ^ w) <<< lo) ||| (n % 2 ^ lo)

/-- A number read as two's complement in `w` bits (R5). -/
def sint (w n : Nat) : Int :=
  if n % 2 ^ w < 2 ^ (w - 1) then (n % 2 ^ w : Nat) else ((n % 2 ^ w : Nat) : Int) - (2 ^ w : Nat)

/-- The two's complement code of an integer in `w` bits (R5). -/
def uint (w : Nat) (v : Int) : Nat := (v % (2 ^ w : Nat)).toNat

/-- Little-endian bytes to a number (R4). -/
def leNat : List Byte → Nat
  | [] => 0
  | b :: bs => b.toNat + 256 * leNat bs

/-- The `n` little-endian bytes of a number (R4). -/
def leBytes : Nat → Nat → List Byte
  | 0, _ => []
  | n + 1, v => BitVec.ofNat 8 v :: leBytes n (v / 256)

def b2n (b : Bool) : Nat := if b then 1 else 0

/-- Clamp to the unsigned range of `w` bits. -/
def satU (w v : Nat) : Nat := if v < 2 ^ w then v else 2 ^ w - 1

/-- Clamp to the signed range of `w` bits. -/
def satS (w : Nat) (v : Int) : Int :=
  let m : Int := (2 ^ (w - 1) : Nat)
  if v < -m then -m else if v ≥ m then m - 1 else v

def clampI (lo hi v : Int) : Int := if v < lo then lo else if v > hi then hi else v

/-- Addition modulo 2^w of a counter. -/
def incMod (w v k : Nat) : Nat := (v + k) % 2 ^ w

/-- Round to nearest, halves up: ⌊(2a + b) / 2b⌋ for `b > 0`. -/
def roundDiv (a : Int) (b : Nat) : Int := (2 * a + b) / (2 * b : Nat)

/-! ### Exponential decay (R226) -/

/-- e^(−x), `x` with weight 2⁻³², the result with weight 2⁻⁴⁰: twelve terms of the series, and e⁻¹ for each whole unit. -/
def expNeg (x : Nat) : Nat :=
  let y : Int := (256 * (x % 4294967296) : Nat)
  let f := [12, 11, 10, 9, 8, 7, 6, 5, 4, 3, 2, 1].foldl (fun (t : Int) d => 1099511627776 - y * t / (d * 1099511627776)) 1099511627776
  (List.range (min 64 (x / 4294967296))).foldl (fun a _ => a * 404487723188 / 1099511627776) f.toNat

/-! ### CRCs (R353) -/

/-- One bit step of CRC-16/CCITT, most significant bit first. -/
def crc16Step (c : Nat) : Nat :=
  if c ≥ 0x8000 then ((c * 2) % 0x10000) ^^^ 0x1021 else c * 2

def crc16Byte (c : Nat) (b : Byte) : Nat :=
  crc16Step <| crc16Step <| crc16Step <| crc16Step <| crc16Step <| crc16Step <| crc16Step <| crc16Step (c ^^^ (b.toNat <<< 8))

/-- CRC-16/CCITT: polynomial 0x1021, initial value 0xFFFF, no reflection, no final XOR (R353). -/
def crc16 (bs : List Byte) : Nat := bs.foldl crc16Byte 0xFFFF

/-- One bit step of the reflected CRC-32. -/
def crc32Step (c : Nat) : Nat := if c % 2 = 1 then (c / 2) ^^^ 0xEDB88320 else c / 2

def crc32Byte (c : Nat) (b : Byte) : Nat :=
  crc32Step <| crc32Step <| crc32Step <| crc32Step <| crc32Step <| crc32Step <| crc32Step <| crc32Step (c ^^^ b.toNat)

/-- CRC-32: polynomial 0x04C11DB7 reflected, initial value and final XOR 0xFFFFFFFF (R353). -/
def crc32 (bs : List Byte) : Nat := (bs.foldl crc32Byte 0xFFFFFFFF) ^^^ 0xFFFFFFFF

/-- CRC-32 of a payload; 0 for an empty one (R353). -/
def payloadCrc (bs : List Byte) : Nat := if bs = [] then 0 else crc32 bs

/-! ### Lists and vectors -/

/-- Bytes `[off, off+n)` of a list. -/
def slice {α : Type} (l : List α) (off n : Nat) : List α := (l.drop off).take n

/-- A list padded at its end with `x` to at least `n` items. -/
def padTo {α : Type} (n : Nat) (x : α) (l : List α) : List α := l ++ List.replicate (n - l.length) x

/-- Replace item `i` of a vector by a function of it. -/
def vmod {α : Type} {n : Nat} (v : Vector α n) (i : Fin n) (f : α → α) : Vector α n := v.set i (f v[i])

/-- Apply a function to every item of a vector. -/
def vmap {α β : Type} {n : Nat} (v : Vector α n) (f : α → β) : Vector β n := Vector.ofFn fun i => f v[i]

/-- Apply a function of index and item to every item of a vector. -/
def vmapIdx {α β : Type} {n : Nat} (v : Vector α n) (f : Fin n → α → β) : Vector β n := Vector.ofFn fun i => f i v[i]

/-- The items of a vector in index order. -/
def vlist {α : Type} {n : Nat} (v : Vector α n) : List α := (List.finRange n).map fun i => v[i]

/-- How many items meet a test. -/
def vcount {α : Type} {n : Nat} (v : Vector α n) (p : α → Bool) : Nat := ((vlist v).filter p).length

/-- Does some item meet a test? -/
def vany {α : Type} {n : Nat} (v : Vector α n) (p : α → Bool) : Bool := (vlist v).any p

/-- The word whose bit `i` is `p i`, for `i < n`. -/
def bitWord (n : Nat) (p : Nat → Bool) : Nat :=
  ((List.range n).map fun i => if p i then 2 ^ i else 0).sum

/-- A number as an index of `n` objects, where it is one (R6). -/
def idx? (n k : Nat) : Option (Fin n) := if h : k < n then some ⟨k, h⟩ else none

/-- Lookup in an association list. -/
def assoc {κ α : Type} [BEq κ] (l : List (κ × α)) (k : κ) : Option α := (l.find? fun p => p.1 == k).map (·.2)

/-- Chunks of `n` items (fuel `f`). -/
def chunksAux {α : Type} (n : Nat) : Nat → List α → List (List α)
  | 0, _ => []
  | _ + 1, [] => []
  | f + 1, l => l.take n :: chunksAux n f (l.drop n)

def chunks {α : Type} (n : Nat) (l : List α) : List (List α) := chunksAux n (l.length + 1) l

/-- Insert into a list kept in order of a key, after the items of the same key. -/
def insertBy {α : Type} (key : α → Nat) (x : α) : List α → List α
  | [] => [x]
  | y :: ys => if key x < key y then x :: y :: ys else y :: insertBy key x ys

/-- First item of a list that meets a test, with the list without it. -/
def takeFirst {α : Type} (p : α → Bool) : List α → Option (α × List α)
  | [] => none
  | x :: xs => if p x then some (x, xs) else (takeFirst p xs).map fun r => (r.1, x :: r.2)

/-- Every item of a list satisfies a test and no two share a key. -/
def noDup (l : List Nat) : Bool :=
  match l with
  | [] => true
  | x :: xs => !xs.contains x && noDup xs

/-! ### Ticks (R34, R37) -/

/-- 80,000 ticks per millisecond (R37). -/
def msTicks (ms : Nat) : Tick := 80000 * ms
/-- 80 ticks per microsecond. -/
def usTicks (us : Nat) : Tick := 80 * us
/-- The field frame, 500 µs (R34). -/
def frameTicks : Tick := 40000
/-- The frame edge at or before a postmark (R34). -/
def edgeOf (pm : Tick) : Tick := pm / 40000 * 40000
/-- The first frame edge after a postmark (R21). -/
def nextEdge (pm : Tick) : Tick := (pm / 40000 + 1) * 40000
/-- The frame number, 32 bits (R34). -/
def frameNo (pm : Tick) : Nat := pm / 40000 % 2 ^ 32
/-- R36: frame `a` is later than frame `b`. -/
def frameLater (a b : BitVec 32) : Bool := 0 < (a - b).toInt
/-- R37: a postmark lies in the half-open window [start, end). -/
def inWindow (start stop pm : Tick) : Bool := start ≤ pm && pm < stop

end Sys2Proof.Machine
end

