-- ==== Sys2Proof/Machine/Params.lean ====
section
/-! DEFINITION. The parameter blocks of R381 as images, with the field tables their chapters give (bits, access code,
reset value, own range or encodings), and one accessor form for a field of an image. The W1C bits of R7 and R10 stand
in status records, which no command writes (log entry 9). -/

namespace Sys2Proof.Machine

/-- Access codes of R7 that occur in parameter blocks. -/
inductive Access where
  | rw | rws | ro | wo
deriving DecidableEq, Repr

/-- A field's own check at PB_WRITE (R382): an encoding not listed gives BAD_PARAM, a value outside its range RANGE. -/
inductive FieldCheck where
  | any
  | enc (allowed : List Nat)
  | nat (lo hi : Nat)
  | sgn (lo hi : Int)
deriving DecidableEq, Repr

/-- One named field of a parameter block. -/
structure Field where
  lo : Nat
  w : Nat
  acc : Access := .rw
  reset : Nat := 0
  chk : FieldCheck := .any
deriving DecidableEq, Repr

/-- Parameter-block IDs of R12. -/
def blockId : Block → Nat
  | .sys => 1 | .time => 2 | .gnss => 3 | .pos => 4 | .impl => 5 | .fe => 6 | .map => 7 | .vdr => 8 | .pwu => 9
  | .ce => 10 | .pif => 11 | .lsw => 12 | .ths => 13 | .can => 14 | .host => 15 | .sec => 16 | .safe => 17 | .pwr => 18

def allBlocks : List Block :=
  [.sys, .time, .gnss, .pos, .impl, .fe, .map, .vdr, .pwu, .ce, .pif, .lsw, .ths, .can, .host, .sec, .safe, .pwr]

/-- The block an ID names; `none` for any other ID (R12). -/
def blockOfId (n : Nat) : Option Block := allBlocks.find? fun b => blockId b == n

/-- Bytes of each parameter block (R381); the implement model has none. -/
def pbBytes : Block → Nat
  | .sys => 8 | .time => 8 | .gnss => 16 | .pos => 32 | .impl => 0 | .fe => 48 | .map => 32 | .vdr => 1588 | .pwu => 192
  | .ce => 2080 | .pif => 464 | .lsw => 384 | .ths => 12 | .can => 108 | .host => 40 | .sec => 64 | .safe => 64 | .pwr => 32


/-- PB.SYS (17, after R379). -/
def fieldsSys : List Field := [⟨0, 16, .rw, 500, .nat 100 60000⟩]

/-- PB.TIME (02, after R41). -/
def fieldsTime : List Field :=
  [⟨0, 32, .rw, 600000, .nat 10000 3600000⟩, ⟨32, 16, .rw, 10000, .nat 1 50000⟩, ⟨48, 1, .rw, 1, .any⟩,
   ⟨49, 1, .rw, 0, .any⟩, ⟨50, 1, .rw, 0, .any⟩, ⟨51, 1, .rw, 0, .any⟩]

/-- PB.GNSS (R53). -/
def fieldsGnss : List Field :=
  [⟨0, 2, .rw, 2, .enc [0, 1, 2]⟩, ⟨8, 8, .rw, 3, .nat 1 20⟩, ⟨16, 8, .rw, 80, .nat 30 110⟩, ⟨24, 6, .rw, 4, .nat 1 32⟩,
   ⟨32, 8, .rw, 100, .nat 20 250⟩, ⟨40, 8, .rw, 50, .nat 5 200⟩, ⟨48, 8, .rw, 16, .nat 1 64⟩, ⟨56, 8, .rw, 10, .nat 0 45⟩,
   ⟨64, 8, .rw, 120, .nat 80 160⟩, ⟨72, 8, .rw, 10, .nat 1 60⟩, ⟨80, 1, .rw, 1, .any⟩, ⟨96, 32, .rw, 0, .any⟩]

/-- PB.POS (R103). -/
def fieldsPos : List Field :=
  [⟨0, 16, .rw, 3000, .nat 100 30000⟩, ⟨16, 16, .rw, 1000, .nat 100 10000⟩, ⟨32, 8, .rw, 200, .nat 10 250⟩,
   ⟨40, 8, .rw, 30, .nat 20 100⟩, ⟨48, 8, .rw, 5, .nat 1 50⟩, ⟨64, 32, .rw, 0, .any⟩, ⟨96, 32, .rw, 0, .any⟩,
   ⟨128, 32, .rw, 0, .any⟩, ⟨160, 1, .ro, 0, .any⟩, ⟨161, 1, .rw, 1, .any⟩, ⟨162, 1, .rw, 1, .any⟩, ⟨163, 1, .rw, 1, .any⟩,
   ⟨192, 16, .rw, 100, .nat 20 1000⟩, ⟨208, 16, .rw, 500, .nat 100 5000⟩, ⟨224, 16, .rw, 5000, .nat 1000 20000⟩]

/-- PB.FE (R151). -/
def fieldsFe : List Field :=
  [⟨0, 2, .rw, 0, .enc [0, 1]⟩, ⟨2, 1, .rw, 1, .any⟩, ⟨3, 1, .rw, 0, .any⟩, ⟨4, 1, .rw, 1, .any⟩, ⟨5, 1, .rw, 1, .any⟩,
   ⟨8, 8, .rw, 128, .nat 1 255⟩, ⟨16, 8, .rw, 13, .nat 0 64⟩, ⟨24, 8, .rw, 128, .nat 1 255⟩, ⟨32, 8, .rw, 1, .nat 1 255⟩,
   ⟨48, 16, .rw, 100, .nat 0 2000⟩, ⟨64, 16, .rw, 100, .nat 0 2000⟩, ⟨80, 16, .rw, 500, .nat 0 2000⟩, ⟨96, 2, .rw, 0, .any⟩,
   ⟨98, 2, .rw, 0, .any⟩, ⟨100, 2, .rw, 0, .any⟩, ⟨102, 2, .rw, 1, .any⟩, ⟨112, 16, .rw, 300, .nat 50 5000⟩,
   ⟨128, 16, .rw, 3277, .nat 0 32768⟩, ⟨144, 16, .rw, 65535, .nat 32768 65535⟩, ⟨160, 16, .rw, 100, .nat 0 1000⟩]
  ++ ((List.range 4).flatMap fun j =>
    [⟨32 * j + 192, 16, .rw, 0, .any⟩, ⟨32 * j + 208, 8, .rw, 30, .nat 5 200⟩, ⟨32 * j + 216, 4, .rw, 15, .any⟩])
  ++ [⟨320, 32, .rw, 0, .any⟩]

/-- PB.MAP (R179). CELL_j 0b11 gives RANGE. -/
def fieldsMap : List Field :=
  ((List.range 4).flatMap fun j => [⟨8 * j, 2, .rw, 1, .nat 0 2⟩, ⟨8 * j + 2, 1, .rw, 0, .any⟩])
  ++ ((List.range 4).map fun j => ⟨4 * j + 32, 4, .rw, 5, .nat 1 10⟩)
  ++ [⟨48, 2, .rw, 2, .any⟩, ⟨50, 1, .rw, 0, .any⟩]
  ++ ((List.range 4).map fun j => ⟨16 * j + 64, 16, .rw, 0, .nat 0 6144⟩)
  ++ [⟨128, 16, .rw, 256, .nat 0 3072⟩, ⟨144, 16, .rw, 500, .nat 50 2000⟩, ⟨160, 16, .rw, 60, .nat 10 3600⟩,
      ⟨176, 16, .rw, 60, .nat 1 600⟩, ⟨192, 16, .rw, 100, .nat 10 6000⟩]

/-- PB.VDR: device fields and channel m at 64m + 384 (R186), protection fields and coil references at 64m + 6560
(R219). -/
def fieldsVdr : List Field :=
  [⟨0, 8, .rw, 96, .nat 48 144⟩, ⟨8, 8, .rw, 20, .nat 5 100⟩, ⟨16, 8, .rw, 24, .nat 12 36⟩, ⟨32, 16, .rw, 200, .nat 50 2000⟩,
   ⟨48, 16, .rw, 200, .nat 0 1000⟩, ⟨64, 16, .rw, 100, .nat 10 1000⟩, ⟨80, 16, .rw, 2000, .nat 100 5000⟩,
   ⟨96, 16, .rw, 2000, .nat 100 5000⟩, ⟨112, 1, .rw, 1, .any⟩, ⟨113, 1, .rw, 1, .any⟩, ⟨114, 1, .rw, 1, .any⟩,
   ⟨128, 16, .rw, 50, .nat 5 1000⟩, ⟨144, 16, .rw, 470, .nat 470 4700⟩]
  ++ ((List.range 12).map fun k => ⟨16 * k + 192, 2, .rw, 0, .enc [0, 1, 2]⟩)
  ++ ((List.range 96).flatMap fun m =>
    [⟨64 * m + 384, 16, .rw, 150, .nat 10 2000⟩, ⟨64 * m + 400, 16, .rw, 80, .nat 10 65535⟩,
     ⟨64 * m + 416, 8, .rw, 125, .nat 10 150⟩, ⟨64 * m + 424, 8, .rw, 50, .nat 5 150⟩, ⟨64 * m + 432, 6, .rw, 20, .any⟩,
     ⟨64 * m + 438, 1, .rw, 0, .any⟩, ⟨64 * m + 439, 1, .rw, 1, .any⟩, ⟨64 * m + 440, 8, .rw, 8, .nat 2 100⟩])
  ++ [⟨6528, 8, .rw, 20, .nat 5 100⟩, ⟨6536, 4, .rw, 3, .any⟩, ⟨6540, 4, .rw, 3, .nat 1 8⟩, ⟨6544, 8, .rw, 30, .nat 3 255⟩,
      ⟨6552, 1, .rw, 1, .any⟩]
  ++ ((List.range 96).flatMap fun m =>
    [⟨64 * m + 6560, 16, .rw, 0, .any⟩, ⟨64 * m + 6576, 16, .rw, 0, .any⟩, ⟨64 * m + 6592, 1, .wo, 0, .any⟩])

/-- PB.PWU (R239, R248). -/
def fieldsPwu : List Field :=
  ((List.range 12).map fun k => ⟨32 * k, 32, .rw, 5333333, .nat 800000 8000000⟩)
  ++ ((List.range 8).flatMap fun n =>
    [⟨128 * n + 384, 24, .rw, 20000, .nat 800 8000000⟩, ⟨128 * n + 408, 1, .rw, 0, .any⟩, ⟨128 * n + 409, 1, .rw, 0, .any⟩,
     ⟨128 * n + 410, 1, .rw, 1, .any⟩, ⟨128 * n + 416, 16, .rw, 1280, .nat 64 25600⟩, ⟨128 * n + 432, 16, .rw, 12800, .nat 64 25600⟩,
     ⟨128 * n + 448, 16, .rw, 256, .nat 0 6400⟩, ⟨128 * n + 464, 16, .rw, 200, .nat 0 4000⟩, ⟨128 * n + 480, 3, .rw, 0, .any⟩,
     ⟨128 * n + 484, 4, .rw, 0, .any⟩])
  ++ ((List.range 4).flatMap fun j =>
    [⟨32 * j + 1408, 3, .rw, 0, .any⟩, ⟨32 * j + 1411, 1, .rw, 0, .any⟩, ⟨32 * j + 1412, 7, .rw, 0, .any⟩,
     ⟨32 * j + 1424, 8, .rw, 10, .nat 1 255⟩, ⟨32 * j + 1432, 4, .rw, 0, .any⟩])

/-- PB.CE: loop k at 1024k, layer j at 64j + 16384 (R253, R268). -/
def fieldsCe : List Field :=
  ((List.range 16).flatMap fun k => (fun (c : Nat) =>
    [⟨c, 2, .rw, 0, .any⟩, ⟨c + 2, 2, .rw, 0, .any⟩, ⟨c + 4, 2, .rw, 0, .any⟩, ⟨c + 6, 2, .rw, 0, .any⟩,
     ⟨c + 8, 3, .rw, 0, .enc [0, 1, 2, 3, 4, 5, 6]⟩, ⟨c + 11, 5, .rw, 0, .any⟩, ⟨c + 16, 3, .rw, 0, .enc [0, 1, 2, 3, 4]⟩,
     ⟨c + 19, 5, .rw, 0, .any⟩, ⟨c + 24, 3, .rw, 0, .enc [0, 1, 2, 3]⟩, ⟨c + 27, 5, .rw, 0, .any⟩,
     ⟨c + 32, 32, .rw, 65536, .any⟩, ⟨c + 64, 32, .rw, 0, .any⟩, ⟨c + 96, 32, .rw, 0, .any⟩, ⟨c + 128, 16, .rw, 6000, .nat 800 10000⟩,
     ⟨c + 144, 2, .rw, 0, .any⟩, ⟨c + 146, 2, .rw, 0, .any⟩, ⟨c + 148, 5, .rw, 0, .any⟩, ⟨c + 153, 1, .rw, 0, .any⟩,
     ⟨c + 154, 1, .rw, 0, .any⟩, ⟨c + 155, 3, .rw, 0, .enc [0, 1, 2]⟩, ⟨c + 158, 2, .rw, 0, .enc [0, 1, 2]⟩,
     ⟨c + 160, 2, .rw, 0, .any⟩, ⟨c + 176, 16, .rw, 0, .any⟩, ⟨c + 192, 32, .rw, 0, .sgn (-65536) 65536⟩,
     ⟨c + 224, 32, .rw, 65536, .sgn (-65536) 65536⟩, ⟨c + 256, 32, .rw, 4294901760, .any⟩, ⟨c + 288, 32, .rw, 65536, .any⟩,
     ⟨c + 320, 32, .rw, 0, .any⟩, ⟨c + 352, 16, .rw, 0, .any⟩, ⟨c + 368, 16, .rw, 1000, .nat 125 65535⟩,
     ⟨c + 384, 32, .rw, 0x7FFFFFFD, .any⟩, ⟨c + 416, 32, .rw, 0x7FFFFFFE, .any⟩, ⟨c + 448, 32, .rw, 0x7FFFFFFF, .any⟩,
     ⟨c + 480, 32, .rw, 0, .any⟩]
    ++ ((List.range 16).map fun g => ⟨c + 512 + 32 * g, 32, .rw, 0, .any⟩)) (1024 * k))
  ++ ((List.range 4).flatMap fun j =>
    [⟨64 * j + 16384, 4, .rw, 0, .any⟩, ⟨64 * j + 16388, 1, .rw, 0, .any⟩, ⟨64 * j + 16392, 8, .rw, 50, .nat 0 200⟩,
     ⟨64 * j + 16400, 8, .rw, 4, .nat 1 100⟩, ⟨64 * j + 16408, 8, .rw, 5, .any⟩, ⟨64 * j + 16416, 32, .rw, 153600, .any⟩])

/-- PB.PIF (R287). -/
def fieldsPif : List Field :=
  ((List.range 4).flatMap fun e =>
    [⟨128 * e, 8, .rw, 8, .nat 2 255⟩, ⟨128 * e + 8, 1, .rw, 0, .any⟩, ⟨128 * e + 9, 2, .rw, 0, .any⟩, ⟨128 * e + 11, 1, .rw, 0, .any⟩,
     ⟨128 * e + 12, 2, .rw, 0, .any⟩, ⟨128 * e + 16, 16, .rw, 100, .nat 10 10000⟩, ⟨128 * e + 32, 16, .rw, 100, .nat 1 10000⟩,
     ⟨128 * e + 64, 32, .rw, 0, .any⟩])
  ++ ((List.range 4).flatMap fun h =>
    [⟨64 * h + 512, 8, .rw, 8, .nat 2 255⟩, ⟨64 * h + 520, 1, .rw, 0, .any⟩, ⟨64 * h + 528, 16, .rw, 100, .nat 10 10000⟩,
     ⟨64 * h + 544, 16, .rw, 100, .nat 1 10000⟩])
  ++ ((List.range 16).flatMap fun q =>
    [⟨32 * q + 768, 8, .rw, 80, .nat 2 255⟩, ⟨32 * q + 776, 1, .rw, 0, .any⟩, ⟨32 * q + 784, 16, .rw, 100, .nat 1 1000⟩])
  ++ ((List.range 8).flatMap fun v =>
    [⟨16 * v + 1280, 8, .rw, 80, .nat 2 255⟩, ⟨16 * v + 1288, 2, .rw, 0, .any⟩, ⟨16 * v + 1290, 1, .rw, 1, .any⟩])
  ++ ((List.range 2).flatMap fun x =>
    [⟨128 * x + 1408, 2, .rw, 0, .enc [0, 1, 2]⟩, ⟨128 * x + 1410, 2, .rw, 0, .any⟩, ⟨128 * x + 1412, 1, .rw, 0, .any⟩,
     ⟨128 * x + 1424, 16, .rw, 100, .nat 1 65535⟩, ⟨128 * x + 1440, 16, .rw, 1, .any⟩, ⟨128 * x + 1456, 16, .rw, 1, .any⟩,
     ⟨128 * x + 1472, 16, .rw, 0, .any⟩, ⟨128 * x + 1488, 32, .rw, 0, .any⟩])
  ++ ((List.range 32).flatMap fun k =>
    [⟨64 * k + 1664, 1, .rw, 0, .any⟩, ⟨64 * k + 1665, 1, .rw, 0, .any⟩, ⟨64 * k + 1666, 3, .rw, 0, .any⟩,
     ⟨64 * k + 1680, 16, .rw, 0, .any⟩, ⟨64 * k + 1696, 16, .rw, 65535, .any⟩])

/-- PB.LSW: channel c at 128c (R295), user profile u at 128u + 2048 (R292). TYPE 0x5 to 0x7 are not used. -/
def fieldsLsw : List Field :=
  ((List.range 16).flatMap fun c =>
    [⟨128 * c, 4, .rw, 0, .enc [0, 1, 2, 3, 4, 8, 9, 10, 11, 12, 13, 14, 15]⟩, ⟨128 * c + 4, 2, .rw, 0, .enc [0, 1, 2]⟩,
     ⟨128 * c + 6, 1, .rw, 0, .any⟩, ⟨128 * c + 7, 1, .rw, 0, .any⟩, ⟨128 * c + 8, 2, .rw, 0, .enc [0, 1, 2]⟩,
     ⟨128 * c + 10, 2, .rw, 0, .enc [0, 1]⟩, ⟨128 * c + 12, 2, .rw, 1, .enc [0, 1, 2]⟩, ⟨128 * c + 14, 1, .rw, 0, .any⟩,
     ⟨128 * c + 16, 8, .rw, 0, .any⟩, ⟨128 * c + 32, 16, .rw, 100, .nat 1 200⟩, ⟨128 * c + 48, 16, .rw, 0, .any⟩,
     ⟨128 * c + 64, 32, .rw, 800000, .nat 40000 1600000⟩])
  ++ ((List.range 8).flatMap fun u =>
    [⟨128 * u + 2048, 8, .rw, 10, .nat 1 50⟩, ⟨128 * u + 2056, 8, .rw, 48, .nat 4 60⟩, ⟨128 * u + 2064, 8, .rw, 48, .nat 4 160⟩,
     ⟨128 * u + 2072, 3, .rw, 0, .any⟩, ⟨128 * u + 2080, 16, .rw, 100, .nat 1 10000⟩, ⟨128 * u + 2096, 16, .rw, 100, .nat 10 50000⟩,
     ⟨128 * u + 2112, 8, .rw, 20, .nat 1 200⟩, ⟨128 * u + 2120, 8, .rw, 0, .nat 0 50⟩, ⟨128 * u + 2128, 16, .rw, 100, .nat 10 10000⟩,
     ⟨128 * u + 2144, 4, .rw, 3, .any⟩])

/-- PB.THS (R321). Ranges that name another field are checked at PB_COMMIT. -/
def fieldsThs : List Field :=
  [⟨0, 8, .rws, 115, .nat 60 115⟩, ⟨8, 8, .rws, 120, .nat 0 120⟩, ⟨16, 8, .rws, 135, .nat 0 135⟩, ⟨24, 8, .rws, 145, .nat 80 145⟩,
   ⟨32, 8, .rws, 150, .nat 0 150⟩, ⟨40, 8, .rws, 170, .nat 0 170⟩, ⟨48, 8, .rw, 85, .nat 50 85⟩, ⟨56, 8, .rw, 95, .nat 0 95⟩,
   ⟨64, 1, .wo, 0, .any⟩]

/-- PB.CAN: controller x at 256x, then the device fields (R327). -/
def fieldsCan : List Field :=
  ((List.range 3).flatMap fun x =>
    [⟨256 * x, 1, .rw, 0, .any⟩, ⟨256 * x + 1, 1, .rw, 0, .any⟩, ⟨256 * x + 2, 1, .rw, 0, .any⟩, ⟨256 * x + 3, 1, .rw, 1, .any⟩,
     ⟨256 * x + 4, 1, .rw, 1, .any⟩, ⟨256 * x + 5, 1, .rw, 0, .any⟩, ⟨256 * x + 6, 1, .rw, 0, .any⟩, ⟨256 * x + 8, 6, .rw, 8, .nat 1 32⟩,
     ⟨256 * x + 16, 9, .rw, 34, .nat 1 256⟩, ⟨256 * x + 32, 7, .rw, 5, .nat 1 127⟩, ⟨256 * x + 40, 7, .rw, 5, .nat 1 127⟩,
     ⟨256 * x + 48, 6, .rw, 1, .nat 1 32⟩, ⟨256 * x + 56, 6, .rw, 7, .nat 1 32⟩, ⟨256 * x + 64, 5, .rw, 2, .nat 1 16⟩,
     ⟨256 * x + 72, 5, .rw, 2, .nat 1 31⟩, ⟨256 * x + 80, 7, .rw, 8, .any⟩])
  ++ [⟨768, 8, .rw, 0xFF, .any⟩, ⟨776, 1, .rw, 0, .any⟩, ⟨777, 1, .rw, 0, .any⟩, ⟨784, 11, .rw, 0x080, .nat 0 0x700⟩,
      ⟨800, 8, .rw, 16, .nat 1 24⟩, ⟨808, 8, .rw, 10, .nat 1 100⟩, ⟨816, 16, .rw, 250, .nat 50 1000⟩, ⟨832, 16, .rw, 20, .nat 5 500⟩]

/-- PB.HOST (R373). NOTICE_MASK_p is bits 1 to 18 of its word; the others are reserved (R8). -/
def fieldsHost : List Field :=
  [⟨0, 1, .rw, 1, .any⟩, ⟨1, 1, .rw, 1, .any⟩, ⟨2, 2, .rw, 0, .enc [0, 1, 2]⟩, ⟨4, 1, .rw, 0, .any⟩, ⟨5, 3, .rw, 1, .any⟩,
   ⟨8, 24, .rw, 921600, .nat 115200 3000000⟩, ⟨32, 8, .rw, 0, .any⟩, ⟨40, 5, .rw, 0, .nat 0 30⟩, ⟨45, 1, .rw, 0, .any⟩,
   ⟨46, 1, .rw, 0, .any⟩, ⟨48, 29, .rw, 0, .any⟩, ⟨80, 29, .rw, 0, .any⟩]
  ++ ((List.range 3).flatMap fun p =>
    [⟨32 * p + 128, 16, .rw, 500, .nat 20 5000⟩, ⟨32 * p + 144, 1, .rw, 1, .any⟩])
  ++ ((List.range 3).map fun p => ⟨32 * p + 224, 32, .rw, 0x0007FFFE, .any⟩)

/-- PB.SEC (R422). -/
def fieldsSec : List Field :=
  [⟨0, 256, .rws, 0, .any⟩, ⟨256, 1, .rws, 0, .any⟩, ⟨257, 1, .ro, 0, .any⟩, ⟨258, 1, .rws, 1, .any⟩, ⟨259, 1, .rws, 0, .any⟩,
   ⟨264, 8, .rws, 60, .nat 6 255⟩]

/-- PB.SAFE (R436). -/
def fieldsSafe : List Field :=
  [⟨0, 16, .rw, 0, .any⟩, ⟨16, 2, .rw, 0, .enc [0, 1]⟩, ⟨18, 1, .rws, 1, .any⟩, ⟨19, 1, .rws, 0, .any⟩, ⟨20, 1, .rw, 0, .any⟩,
   ⟨21, 1, .rw, 0, .any⟩, ⟨24, 8, .rws, 10, .nat 1 100⟩, ⟨32, 4, .rws, 3, .nat 1 8⟩, ⟨40, 8, .rws, 10, .nat 1 60⟩,
   ⟨48, 16, .rw, 200, .nat 0 1000⟩, ⟨64, 4, .rw, 0, .nat 0 12⟩]

/-- PB.PWR (R456). The read-only fields report status. -/
def fieldsPwr : List Field :=
  [⟨0, 8, .rw, 10, .nat 1 100⟩, ⟨8, 1, .rw, 1, .any⟩, ⟨16, 12, .ro, 0, .any⟩, ⟨32, 4, .ro, 0, .any⟩, ⟨40, 8, .ro, 0, .any⟩,
   ⟨64, 32, .ro, 0, .any⟩, ⟨96, 32, .ro, 0, .any⟩, ⟨128, 16, .ro, 0, .any⟩, ⟨144, 16, .ro, 0, .any⟩, ⟨160, 32, .ro, 0, .any⟩]

/-- The field table of a block; the implement model has none (R381). -/
def fieldsOf : Block → List Field
  | .sys => fieldsSys | .time => fieldsTime | .gnss => fieldsGnss | .pos => fieldsPos | .impl => [] | .fe => fieldsFe
  | .map => fieldsMap | .vdr => fieldsVdr | .pwu => fieldsPwu | .ce => fieldsCe | .pif => fieldsPif | .lsw => fieldsLsw
  | .ths => fieldsThs | .can => fieldsCan | .host => fieldsHost | .sec => fieldsSec | .safe => fieldsSafe | .pwr => fieldsPwr

/-- The image of a field table's reset values. -/
def resetImage (fs : List Field) : Nat := fs.foldl (fun n f => n ||| (f.reset <<< f.lo)) 0

/-- One copy of the parameter blocks (R381), each an image whose bit 0 is bit 0 of its first byte (R376). -/
structure Params where
  sys : BitVec 64
  time : BitVec 64
  gnss : BitVec 128
  pos : BitVec 256
  fe : BitVec 384
  map : BitVec 256
  vdr : BitVec 12704
  pwu : BitVec 1536
  ce : BitVec 16640
  pif : BitVec 3712
  lsw : BitVec 3072
  ths : BitVec 96
  can : BitVec 864
  host : BitVec 320
  sec : BitVec 512
  safe : BitVec 512
  pwr : BitVec 256
deriving DecidableEq, Repr

/-- Both copies of every block at the field maps' reset values. -/
def Params.reset : Params where
  sys := BitVec.ofNat _ (resetImage fieldsSys)
  time := BitVec.ofNat _ (resetImage fieldsTime)
  gnss := BitVec.ofNat _ (resetImage fieldsGnss)
  pos := BitVec.ofNat _ (resetImage fieldsPos)
  fe := BitVec.ofNat _ (resetImage fieldsFe)
  map := BitVec.ofNat _ (resetImage fieldsMap)
  vdr := BitVec.ofNat _ (resetImage fieldsVdr)
  pwu := BitVec.ofNat _ (resetImage fieldsPwu)
  ce := BitVec.ofNat _ (resetImage fieldsCe)
  pif := BitVec.ofNat _ (resetImage fieldsPif)
  lsw := BitVec.ofNat _ (resetImage fieldsLsw)
  ths := BitVec.ofNat _ (resetImage fieldsThs)
  can := BitVec.ofNat _ (resetImage fieldsCan)
  host := BitVec.ofNat _ (resetImage fieldsHost)
  sec := BitVec.ofNat _ (resetImage fieldsSec)
  safe := BitVec.ofNat _ (resetImage fieldsSafe)
  pwr := BitVec.ofNat _ (resetImage fieldsPwr)

/-- The image of a block as a number. -/
def Params.image (p : Params) : Block → Nat
  | .sys => p.sys.toNat | .time => p.time.toNat | .gnss => p.gnss.toNat | .pos => p.pos.toNat | .impl => 0
  | .fe => p.fe.toNat | .map => p.map.toNat | .vdr => p.vdr.toNat | .pwu => p.pwu.toNat | .ce => p.ce.toNat
  | .pif => p.pif.toNat | .lsw => p.lsw.toNat | .ths => p.ths.toNat | .can => p.can.toNat | .host => p.host.toNat
  | .sec => p.sec.toNat | .safe => p.safe.toNat | .pwr => p.pwr.toNat

/-- Replace the image of a block. -/
def Params.setImage (p : Params) (b : Block) (n : Nat) : Params :=
  match b with
  | .sys => { p with sys := BitVec.ofNat _ n } | .time => { p with time := BitVec.ofNat _ n }
  | .gnss => { p with gnss := BitVec.ofNat _ n } | .pos => { p with pos := BitVec.ofNat _ n } | .impl => p
  | .fe => { p with fe := BitVec.ofNat _ n } | .map => { p with map := BitVec.ofNat _ n }
  | .vdr => { p with vdr := BitVec.ofNat _ n } | .pwu => { p with pwu := BitVec.ofNat _ n }
  | .ce => { p with ce := BitVec.ofNat _ n } | .pif => { p with pif := BitVec.ofNat _ n }
  | .lsw => { p with lsw := BitVec.ofNat _ n } | .ths => { p with ths := BitVec.ofNat _ n }
  | .can => { p with can := BitVec.ofNat _ n } | .host => { p with host := BitVec.ofNat _ n }
  | .sec => { p with sec := BitVec.ofNat _ n } | .safe => { p with safe := BitVec.ofNat _ n }
  | .pwr => { p with pwr := BitVec.ofNat _ n }

/-- Field `[lo+w-1:lo]` of a block's image, unsigned. -/
def Params.fld (p : Params) (b : Block) (lo w : Nat) : Nat := bits (p.image b) lo w

/-- Field `[lo+w-1:lo]` of a block's image, two's complement. -/
def Params.fldS (p : Params) (b : Block) (lo w : Nat) : Int := sint w (bits (p.image b) lo w)

/-- A one-bit field. -/
def Params.flag (p : Params) (b : Block) (lo : Nat) : Bool := bitN (p.image b) lo

/-- Write a field of an image (an internal writer, R20). -/
def Params.put (p : Params) (b : Block) (lo w v : Nat) : Params := p.setImage b (setBits (p.image b) lo w v)

/-- Fields committed only in STANDBY (R381 and the chapters), as (lo, width). -/
def standbyOnly : Block → List (Nat × Nat)
  | .pos => [(64, 32), (96, 32), (128, 32)]
  | .map => [(0, 3), (8, 3), (16, 3), (24, 3), (48, 2)]
  | .ths => [(64, 1)]
  | .sec => [(0, 256), (256, 1)]
  | .can => [(776, 1), (777, 1), (784, 11), (800, 8)]
  | .host => [(2, 2), (32, 8), (40, 5), (45, 1), (46, 1), (48, 29), (80, 29)]
  | .safe => [(18, 1), (19, 1), (20, 1)]
  | .pwr => [(0, 8)]
  | _ => []

end Sys2Proof.Machine
end

