-- ==== Sys2Proof/Machine/Types.lean ====
section
/-! DEFINITION. The parts of the state, block by block, as plain data: every register, store, queue, timer and counter
the chapters give, each with its reset value as the field's default (the value the spec states, or the one
log entry 3 names). -/

namespace Sys2Proof.Machine

/-! ### Notices and the fault log -/

/-- A notice record (R361): block ID, code, first postmark, occurrences, lowest index, body. -/
structure Notice where
  blk : Nat := 0
  code : Nat := 0
  pm : Tick := 0
  count : Nat := 1
  idx : Nat := 0xFFFF
  body : List Byte := []
deriving DecidableEq, Repr, Inhabited

/-- The rate limiter of R217 for one code of one block: when its last notice was queued, and the merge waiting. -/
structure Limiter where
  blk : Nat := 0
  code : Nat := 0
  last : Tick := 0
  waiting : Option Notice := none
deriving DecidableEq, Repr, Inhabited

/-- A fault log entry (R434). -/
structure FaultEntry where
  cause : Nat := 0
  blk : Nat := 0
  index : Nat := 0xFFFF
  pm : Tick := 0
  boot : Nat := 0
  state : Nat := 0
  reaction : Nat := 0
  restarts : Nat := 0
  count : Nat := 0
  detail : Nat := 0
  endPm : Tick := 0
deriving DecidableEq, Repr, Inhabited

/-! ### The host ports (16) -/

/-- A session of a port (R368 to R370). `service` is the scope of a service session (R410). -/
structure Session where
  id : BitVec 16 := 0
  key : BitVec 128 := 0
  service : Option (BitVec 32) := none
  rxLast : Option Nat := none
  txCount : Nat := 0
  opened : Tick := 0
deriving DecidableEq, Repr, Inhabited

/-- What an outbound envelope carries. -/
inductive OutBody where
  | reply (status : Status) (effectPm : Tick) (data : List Byte)
  | more (data : List Byte)
  | notices (recs : List Notice)
  | telemetry (sub : Nat) (data : List Byte)
deriving DecidableEq, Repr, Inhabited

/-- An outbound envelope waiting in a port's path. `grant` is its CREDIT_GRANT; `credit` is what the port's own count
gets back when the envelope has left (R357, R359). -/
structure OutEnv where
  opcode : BitVec 16 := 0
  seq : BitVec 16 := 0
  session : BitVec 16 := 0
  sealedBit : Bool := false
  moreBit : Bool := false
  grant : Nat := 0
  credit : Nat := 0
  tag : BitVec 128 := 0
  body : OutBody := .more []
deriving DecidableEq, Repr, Inhabited

/-- An executed request as R357 records it. `reply` is kept when it fitted in one envelope. -/
structure Replay where
  seq : BitVec 16 := 0
  hdrCrc : BitVec 16 := 0
  payCrc : BitVec 32 := 0
  counter : Nat := 0
  reply : Option OutEnv := none
deriving DecidableEq, Repr, Inhabited

/-- A request held through a pair or enclave restart (R358), with its franking counter. -/
structure HeldReq where
  opcode : BitVec 16 := 0
  env : Env := {}
  counter : Nat := 0
  at_ : Tick := 0
deriving DecidableEq, Repr, Inhabited

/-- A subscription (R364) with its counters (R366, R475). `records` are the firing records kept for item 0x0D. -/
structure Sub where
  enable : Bool := false
  item : Nat := 0
  first : Nat := 0
  count : Nat := 1
  decim : Nat := 1
  skipped : Nat := 0
  traceLost : Nat := 0
  records : List (BitVec 128) := []
deriving DecidableEq, Repr, Inhabited

/-- One host port (R348 to R374). -/
structure PortSt where
  credits : Nat := 8
  noticeCredits : Nat := 0
  lastSeq : Option (BitVec 16) := none
  replay : List Replay := []
  held : List HeldReq := []
  notices : List Notice := []
  noticesLost : Nat := 0
  /-- the postmark of the first of them (R361) -/
  lostPm : Tick := 0
  seqGap : Nat := 0
  badHeader : Nat := 0
  outSeq : BitVec 16 := 0
  subs : Vector Sub 16 := Vector.replicate 16 {}
  session : Option Session := none
  authFails : Nat := 0
  linkArmed : Bool := false
  linkFrom : Tick := 0
  linkLost : Bool := false
  out : List OutEnv := []
  /-- tunnel port: next segment counter expected and sent, bytes of the envelope in progress (R350) -/
  tunRx : Option (BitVec 4) := none
  tunTx : BitVec 4 := 0
  tunBytes : List Byte := []
  /-- tunnel port: the header of that envelope has passed its checks (R354) -/
  tunHead : Bool := false
  /-- tunnel port: bytes of the outbound envelope not yet in a transmit slot, and its subscription where it is telemetry (R366) -/
  tunOut : List Byte := []
  tunSub : Option Nat := none
deriving DecidableEq, Repr, Inhabited

/-- HOST: the three ports, a PB.HOST image whose reply has not left its port yet (R373), a SYS_RESET whose reply has not
(R379), and the requests whose reply waits for a bank's reconnection test (R230). -/
structure HostSt where
  port : Vector PortSt 3 := Vector.replicate 3 {}
  applyWait : Option (Port × Nat) := none
  awaiting : List (Fin 12 × HeldReq) := []
  resetWait : Option Port := none
deriving DecidableEq, Repr, Inhabited


/-! ### Map store (07) -/

/-- A coverage swatch (R154, R155, R158): cell `k` of depth `d` occupies bits `[d·k+d-1 : d·k]` of `cells`. -/
structure Swatch where
  layer : Nat := 0
  tx : Int := 0
  ty : Int := 0
  pages : List Nat := []
  cells : BitVec 131072 := 0
  dirty : Bool := false
  lastPaint : Tick := 0
  named : Tick := 0
  stale : Bool := false
deriving DecidableEq, Repr, Inhabited

/-- A tint tile of 64 × 64 cells of u16 (R162). -/
structure Tint where
  layer : Nat := 0
  tx : Int := 0
  ty : Int := 0
  page : Nat := 0
  cells : BitVec 65536 := 0
  stale : Bool := false
deriving DecidableEq, Repr, Inhabited

/-- A polygon of the store (R163). Vertices are (latitude, longitude), 10⁻⁷°. -/
structure Polygon where
  index : Nat := 0
  exclusion : Bool := false
  vertices : List (Int × Int) := []
deriving DecidableEq, Repr, Inhabited

/-- The device origin: latitude, longitude (10⁻⁷°) and height (1 mm) (R80). -/
structure Origin where
  lat : Int := 0
  lon : Int := 0
  h : Int := 0
deriving DecidableEq, Repr, Inhabited

/-- A mask raster (R164), held as what it was built from; `bad` are cell words with an uncorrectable error (R177),
as (TX, TY, word, map address). `tiles` are the tiles that take a page, `pages` the pages they lie on. -/
structure Mask where
  polys : List Polygon := []
  origin : Option Origin := none
  cell : Nat := 2
  tiles : List (Int × Int) := []
  pages : List Nat := []
  entries : Nat := 0
  bad : List (Int × Int × Nat × Nat) := []
deriving DecidableEq, Repr, Inhabited

/-- A page pool: pages freed and not yet zeroed, pages retired, the page being copied with its new place (R160), and those
that wait to be (R178). -/
structure Pool where
  zeroing : List Nat := []
  retired : List Nat := []
  migrating : Option (Nat × Nat) := none
  leaving : List Nat := []
deriving DecidableEq, Repr, Inhabited

/-- What a cache line of R165 holds: a coverage page or a half of a mask tile. -/
inductive LineKey where
  | cover (layer : Nat) (tx ty : Int) (part : Nat)
  | mask (tx ty : Int) (part : Nat)
deriving DecidableEq, Repr, Inhabited

structure Line where
  key : LineKey := default
  dirty : Bool := false
  lastUse : Tick := 0
  named : Tick := 0
deriving DecidableEq, Repr, Inhabited

/-- An open import (R171, R173, R387). -/
structure Load where
  header : List Byte := []
  data : List Byte := []
  lastPm : Tick := 0
  /-- complete, waiting for its frame edge (R173) -/
  ending : Bool := false
deriving DecidableEq, Repr, Inhabited

/-- An open export (R174, R388): the tiles fixed at `created`, each with its bytes once copied. `edgeTiles` are the
tiles' records as they stood at the last frame edge. -/
structure Exp where
  kind : Nat := 0
  layer : Nat := 0
  dirtyOnly : Bool := false
  created : Tick := 0
  fixed : Bool := false
  header : List Byte := []
  keys : List (Int × Int) := []
  edgeTiles : List (List Byte) := []
  copied : List (Nat × List Byte × Tick) := []
  lastPm : Tick := 0
deriving DecidableEq, Repr, Inhabited

/-- Paints dropped while the map is not ready or a layer is stale (R153, R175). -/
structure Gap where
  first : Tick := 0
  last : Tick := 0
  count : Nat := 0
deriving DecidableEq, Repr, Inhabited

/-- A sealed block of the as-applied log (R181). -/
structure LogBlock where
  seq : Nat := 0
  boot : Nat := 0
  firstPm : Tick := 0
  lastPm : Tick := 0
  prevHash : BitVec 256 := 0
  records : List (BitVec 256) := []
  count : Nat := 0
  sig : BitVec 512 := 0
  acked : Bool := false
  damaged : Bool := false
deriving DecidableEq, Repr, Inhabited

/-- MAP. `log` is the open block's records; `stage` holds appends while the enclave restarts (R425's table). -/
structure MapSt where
  swatches : List Swatch := []
  tints : List Tint := []
  polys : List Polygon := []
  polyDamaged : Bool := false
  mask : Mask := {}
  building : Option Mask := none
  built : Option Mask := none
  cov : Pool := {}
  tint : Pool := {}
  maskPool : Pool := {}
  cache : List Line := []
  misses : Nat := 0
  load : Option Load := none
  exp : Option Exp := none
  gap : Option Gap := none
  staleGap : Vector (Option Gap) 4 := Vector.replicate 4 none
  /-- bit errors in the DRAM that no access has met yet, and the words in which one has been corrected (R176, R178) -/
  upsets : List EccIn := []
  mended : List EccIn := []
  /-- FREE lies below LOW_WATER and POOL_LOW has been raised (R184) -/
  low : Bool := false
  eccCorr : Nat := 0
  eccUnc : Nat := 0
  lastScrub : Tick := 0
  log : List (BitVec 256) := []
  logFirst : Tick := 0
  ring : List LogBlock := []
  stage : List (BitVec 256) := []
  logHigh : Bool := false
  trackAt : Tick := 0
deriving DecidableEq, Repr, Inhabited

/-! ### Valve drive and protection (08, 09) -/

/-- An event (R141) in a bank queue or on its way to a row node. `stale`: enqueued after its due postmark (R201). -/
structure Ev where
  due : Tick := 0
  ctx : Nat := 0
  on : Bool := false
  batPred : Bool := false
  startPred : Nat := 0
  cause : Nat := 0
  /-- the tick it was enqueued on -/
  at_ : Tick := 0
  shift : Int := 0
  frame : Nat := 0
  host : Bool := false
  stale : Bool := false
  rate : Nat := 0
deriving DecidableEq, Repr, Inhabited

/-- A firing record (R209). -/
structure Firing where
  pm : Tick := 0
  ctx : Nat := 0
  closing : Bool := false
  battery : Bool := false
  noSig : Bool := false
  cut : Bool := false
  deferred : Bool := false
  held : Bool := false
  recommand : Bool := false
  overDmax : Bool := false
  latency : Nat := 0
  /-- the first opening after an ON event: it begins a run (R167) -/
  fresh : Bool := false
deriving DecidableEq, Repr, Inhabited

/-- Channel states (R190). -/
inductive ChState where
  | off | pending | pullIn | hold | decay
deriving DecidableEq, Repr, Inhabited

/-- What a pull-in or a decay completes under: the values PB.VDR had as it began (R186). Search limits and T_off_min in
ticks, SIG_MIN in 5 mA, I_PULL in 20 mA, I_TAIL in 5 mA, CLAMP_V in V. Hold takes its values as they are (R192). -/
structure Drive where
  searchWin : Tick := 0
  sigMin : Nat := 0
  sig : Bool := false
  iPull : Nat := 0
  offMin : Tick := 0
  iTail : Nat := 0
  clampV : Nat := 0
deriving DecidableEq, Repr, Inhabited

/-- One valve channel's sequencer. `onSet` are the values of its pull-in, `offSet` those of its decay. -/
structure Chan where
  st : ChState := .off
  onSet : Drive := {}
  offSet : Drive := {}
  /-- reserved or actual start of the pull-in, its due postmark, and the end of the pull-in -/
  startAt : Tick := 0
  dueAt : Tick := 0
  pullEnd : Tick := 0
  /-- feed class of the start: battery-fed (R200) -/
  battery : Bool := false
  opener : Bool := false
  cut : Bool := false
  deferred : Bool := false
  overDmax : Bool := false
  recommand : Bool := false
  held : Bool := false
  /-- a start queued in DECAY (R198); `unplaced`: its decay has ended and its due postmark is still to come (R194) -/
  queued : Bool := false
  unplaced : Bool := false
  searching : Bool := false
  confirmed : Bool := false
  indeterminate : Bool := false
  /-- start of the decay, its feed class, fast phase still running, recovered into VBST -/
  offPm : Tick := 0
  offBattery : Bool := false
  fast : Bool := false
  recover : Bool := false
  /-- the recovery has been cut short by the clamp (R431); the tick the channel entered OFF (R221) -/
  clampNow : Bool := false
  offSince : Tick := 0
  closeSearch : Bool := false
  /-- the firing was ended by a stage fault (R229) -/
  faulted : Bool := false
  /-- an ON event has started the generator and no opening has followed yet (R167) -/
  fresh : Bool := false
deriving DecidableEq, Repr, Inhabited

/-- Bank feed states (R188). -/
inductive FeedState where
  | bat | bst | guard
deriving DecidableEq, Repr, Inhabited

/-- A bank window [start, stop) (R188), the guard gap it was opened with (R186), the channel that opened it and how many
joined. -/
structure Win where
  start : Tick := 0
  stop : Tick := 0
  guard : Tick := 16000
  opener : Nat := 0
  joined : Nat := 0
deriving DecidableEq, Repr, Inhabited

/-- One bank. `isolated`: 0 no, 1 by SHORT_GND, 2 by FEED_OC (R222); `feedAt`: since when its feed has been switched on
(R221), `offVbst`: the end of the last window that is done with (R224). -/
structure Bank where
  feed : FeedState := .bat
  onVbst : Bool := false
  windows : List Win := []
  queue : List Ev := []
  store : List Firing := []
  /-- discarded postmarks whose interval painting has still to leave out (R14) -/
  dropped : List Firing := []
  paintLost : Nat := 0
  isolated : Nat := 0
  isolAt : Tick := 0
  reconnect : Option Tick := none
  feedAt : Tick := 0
  offVbst : Tick := 0
deriving DecidableEq, Repr, Inhabited

/-- A learned-latency record (R210), values at 2⁻⁴ tick in the order of R210. `dev` sums the deviating measurements of
the current drift run (R212). -/
structure Lat where
  val : Vector Nat 4 := #v[3840000, 2560000, 8960000, 2560000]
  driftRun : Vector Nat 4 := Vector.replicate 4 0
  dev : Vector Nat 4 := Vector.replicate 4 0
  drift : Vector Bool 4 := Vector.replicate 4 false
  missRun : Nat := 0
  noMotion : Bool := false
  openings : Nat := 0
  misses : Nat := 0
deriving DecidableEq, Repr, Inhabited

/-- A channel's protection state (R231 and the working values of R220 to R228). -/
structure Prot where
  openLoad : Bool := false
  overcurrent : Bool := false
  shortGnd : Bool := false
  overload : Bool := false
  stageHot : Bool := false
  coilWarm : Bool := false
  coilHot : Bool := false
  shortedTurns : Bool := false
  /-- latched off by OVERCURRENT or OVERLOAD since `tripAt` (R223), by COIL_HOT (R227) -/
  tripLatch : Bool := false
  tripAt : Tick := 0
  retrying : Bool := false
  coilLatch : Bool := false
  tempValid : Bool := false
  /-- the coil temperature has been measured; the last measured value, 0.1 °C, the off time since then up to `tempAt`, at which the
  present off time began, and the estimate held while the channel is on (R226) -/
  tempSeen : Bool := false
  coilTemp : Int := 0
  coolTime : Tick := 0
  tempAt : Tick := 0
  coilHeld : Int := 0
  rMeas : Nat := 0
  lowR : Nat := 0
  lowL : Nat := 0
  lSum : Nat := 0
  lCount : Nat := 0
  /-- OPEN_LOAD clearing (R220): an on-drive later than `openAt` passed; off-state test passing since -/
  onPass : Bool := false
  openAt : Tick := 0
  offPassFrom : Option Tick := none
  firstOn : Option Tick := none
deriving DecidableEq, Repr, Inhabited

/-- The converter and its conditions (R202, R203, R426 BOOST); `vbst` and `vbat` are the rails as last measured, 10 mV. -/
structure Conv where
  on : Bool := false
  vbst : Nat := 0
  vbat : Nat := 0
  boostLimit : Bool := false
  sag : Bool := false
  returnSusp : Bool := false
  divert : Bool := false
  fault : Bool := false
  retryAt : Tick := 0
  stopping : Bool := false
deriving DecidableEq, Repr, Inhabited

/-- The VBST ledger record (R204). -/
structure Ledger where
  edgePm : Tick := 0
  eConv : Int := 0
  eFeed : Nat := 0
  eRecover : Nat := 0
  eCap : Int := 0
  residual : Int := 0
  pending : Nat := 0
  mismatch : Bool := false
  vbst : Nat := 0
  vbat : Nat := 0
deriving DecidableEq, Repr, Inhabited

/-- VDR. `booked` is the energy booked since the last edge; `hist` the residuals the mismatch test still needs, newest
first, as (edge, pending, residual) (R205). `shed` is the reduction r of each valve die, 1/65,536 (R216). -/
structure VdrSt where
  ch : Vector Chan 96 := Vector.replicate 96 {}
  bank : Vector Bank 12 := Vector.replicate 12 {}
  lat : Vector Lat 160 := Vector.replicate 160 {}
  prot : Vector Prot 96 := Vector.replicate 96 {}
  conv : Conv := {}
  ledger : Ledger := {}
  booked : Nat := 0
  hist : List (Tick × Nat × Int) := []
  shed : Vector Nat 6 := Vector.replicate 6 0
  latSaved : Tick := 0
deriving DecidableEq, Repr, Inhabited

/-! ### PWM unit (10) -/

/-- A nozzle generator (R235 to R239). `writes` are the shadow duty writes not yet taken, as (W, value). -/
structure Noz where
  running : Bool := false
  acc : Nat := 0
  duty : Nat := 0
  /-- the duty last taken, and DUTY_ACTIVE: that duty after the scaling of R239 -/
  active : Nat := 0
  scaledDuty : Nat := 0
  writes : List (Tick × Nat) := []
  merged : Bool := false
  scaled : Bool := false
  /-- grid openings before this tick have been issued or lie before the start -/
  nextOpen : Tick := 0
  /-- the opening, or ON event, the present period began with, and the closing of its pulse until it is judged -/
  openAt : Tick := 0
  closeAt : Option Tick := none
  /-- on-time of the current channel period -/
  onTime : Nat := 0
deriving DecidableEq, Repr, Inhabited

/-- A bank grid (R234, R238): the last boundary, the period and phases in force, and changes waiting with their
effective ticks. -/
structure Grid where
  b : Tick := 0
  period : Nat := 5333333
  phases : Vector Nat 8 := Vector.replicate 8 0
  waitPeriod : List (Tick × Nat) := []
  waitPhases : List (Tick × Vector Nat 8) := []
  scale : Nat := 65536
  scaleAt : Tick := 0
  scalePrev : Nat := 65536
deriving DecidableEq, Repr, Inhabited

/-- A fine generator (R240 to R245). Times in 2.5 ns counts, five to the tick. Marks: DEDUCED (log 9). -/
structure Fine where
  running : Bool := false
  periodActive : Nat := 0
  centre : Bool := false
  cmpActive : Nat := 0
  cmpWait : List (Nat × Nat) := []
  pairWait : List (Nat × Nat × Bool) := []
  startAt : Nat := 0
  splitUpdate : Bool := false
  bootRefresh : Bool := false
  refreshRun : Bool := false
  noCross : Bool := false
  dtFall : Nat := 0
  dtRise : Nat := 0
  periods : Nat := 0
  trigCount : Nat := 0
  /-- postmark and tap of the last event delivered (R245) -/
  trigAt : Option Tick := none
  trigTap : Nat := 0
  /-- the peak of the present CENTRE period has been delivered (R245) -/
  peakDone : Bool := false
  /-- the node target, and the instant of its last transition, 78.125 ps (R240) -/
  target : Bool := false
  lastEdge : Nat := 0
  gh : Bool := false
  gl : Bool := false
deriving DecidableEq, Repr, Inhabited

/-- A trigger output (R246). -/
structure TrigOut where
  active : Bool := false
  endAt : Tick := 0
  count : Nat := 0
  missed : Nat := 0
  /-- a pulse whose leading edge is due (two ticks after its source instant) -/
  pulseAt : Option Tick := none
  /-- the place of the edge in its tick, 78.125 ps, for fine sources -/
  tap : Nat := 0
  width : Nat := 80
  /-- the pulse is active low: POL as it began -/
  low : Bool := false
deriving DecidableEq, Repr, Inhabited

/-- PWU. -/
structure PwuSt where
  noz : Vector Noz 96 := Vector.replicate 96 {}
  grid : Vector Grid 12 := Vector.replicate 12 {}
  fine : Vector Fine 8 := Vector.replicate 8 {}
  trig : Vector TrigOut 4 := Vector.replicate 4 {}
deriving DecidableEq, Repr, Inhabited


/-! ### Device time (02) -/

/-- The GNSS time model (R38): anchor postmark, time of week in ps, full week, rate and slew of weight 2⁻⁴⁰. -/
structure TimeModel where
  refPm : Tick := 0
  tow : Nat := 0
  week : Nat := 0
  rate : Int := 0
  slew : Int := 0
deriving DecidableEq, Repr, Inhabited

/-- TIME states (R40). -/
inductive TState where
  | unset | locked | holdover | free
deriving DecidableEq, Repr, Inhabited

/-- A step determined under R46: the return error in ps, the corrected model, whether STEP_GATE holds it, and the earliest
postmark of its edge. -/
structure Step where
  err : Int := 0
  model : TimeModel := {}
  held : Bool := false
  earliest : Tick := 0
deriving DecidableEq, Repr, Inhabited

/-- A time message (R44), before it is queued. -/
structure TimeMsg where
  pm : Tick := 0
  bytes : List Byte := []
deriving DecidableEq, Repr, Inhabited

/-- TIME. `lastGood` is the last accepted epoch (L of R40), `goodEpochs` the run of valid clock estimates up to
`lastValid`, `lastClear` the last of them that no anomaly barred; `ppsFrom` the earliest leading edge (R42), `ppsSec`
the last whole second that had a pulse, in seconds since week 0. Marks: DESIGN CHOICE (log 30). -/
structure TimeSt where
  model : TimeModel := {}
  st : TState := .unset
  goodEpochs : Nat := 0
  lastValid : Tick := 0
  lastClear : Tick := 0
  lastGood : Tick := 0
  step : Option Step := none
  ppsFrom : Tick := 0
  ppsOut : Bool := false
  ppsLow : Bool := false
  ppsEnd : Tick := 0
  ppsSec : Option Nat := none
  pulses : BitVec 32 := 0
  msgs : List TimeMsg := []
  leap : Int := 0
  leapValid : Bool := false
  errNs : BitVec 32 := 0
  tcxoTemp : Int := 0
deriving DecidableEq, Repr, Inhabited

/-! ### GNSS receiver (03) -/

/-- Stages of a tracking channel (R60); a monitor follows a PRN that another channel tracks (R62). -/
inductive ChanStage where
  | free | fll | pll | tracking | monitor
deriving DecidableEq, Repr, Inhabited

/-- A tracking channel (R59 to R64). `lost`: phase lock was lost since the previous epoch; `wordIx` is the place of the
next word in its subframe, `words` those of the subframe so far, none where one failed, `subs` the newest whole subframes
1 to 3, `badRun` the subframes in a row that held a failed word. -/
structure GChan where
  prn : Fin 32 := 0
  stage : ChanStage := .free
  since : Tick := 0
  phaseLock : Bool := false
  lockAt : Tick := 0
  lost : Bool := false
  /-- the TOW of a HOW has been taken on this signal (R63, R76) -/
  towKnown : Bool := false
  bitSync : Bool := false
  frameSync : Bool := false
  halfCycle : Bool := false
  inverted : Bool := false
  cn0 : Nat := 0
  /-- C/N0 of the newest ten epochs, newest first (R61, R70) -/
  cn0s : List Nat := []
  /-- since when the C/N0 averaged over 1 s has stayed below 23 dB-Hz (R61) -/
  weakFrom : Option Tick := none
  /-- epochs in a row above 55 dB-Hz, and with a range-rate residual above 0.5 m/s (R70) -/
  hot : Nat := 0
  rateRun : Nat := 0
  /-- elevation, 0.01° -/
  elev : Int := 0
  /-- wide minus narrow code of the newest ten epochs with a monitor, 1 mm (R62) -/
  wide : List Int := []
  /-- code phase, half chips -/
  code : Nat := 0
  /-- Doppler, 1 mHz, and its change in 100 ms -/
  doppler : Int := 0
  dopRate : Int := 0
  /-- since when phase lock has held without a slip; none before the first (R61, R69) -/
  lockFrom : Option Tick := none
  slipCount : BitVec 16 := 0
  parityFails : Nat := 0
  duplicate : Bool := false
  d29 : Bool := false
  d30 : Bool := false
  wordIx : Nat := 0
  badRun : Nat := 0
  words : List (Option (BitVec 24)) := []
  subs : Vector (List (BitVec 24)) 3 := Vector.replicate 3 []
deriving DecidableEq, Repr, Inhabited

/-- The ephemerides of one PRN (R65, R76): the set in use with its words, from LNAV or RTCM 1019, what each source gave,
the IODE refused by EPH_JUMP and the one EPH_MISMATCH was raised on. -/
structure Eph where
  valid : Bool := false
  iode : Nat := 0
  week10 : Nat := 0
  health : Nat := 0
  ura : Nat := 0
  orbit : List Nat := []
  lnav : Option (Nat × List (BitVec 24)) := none
  rtcm : Option (Nat × List Byte) := none
  jump : Option Nat := none
  mismatch : Option Nat := none
deriving DecidableEq, Repr, Inhabited

/-- A base-station observation epoch (R75): its GNSS time in ms since week 0, when it completed, the satellites and the
1004 messages. -/
structure BaseEpoch where
  gms : Nat := 0
  done : Option Tick := none
  prns : List Nat := []
  msgs : List (List Byte) := []
deriving DecidableEq, Repr, Inhabited

/-- A detection: PRN, code phase in half chips, Doppler in Hz and the lowest Doppler of its 500 Hz bin (R55). -/
structure Search where
  prn : Fin 32 := 0
  code : Nat := 0
  doppler : Int := 0
  bin : Int := 0
deriving DecidableEq, Repr, Inhabited

/-- What a dwell is for (R56, R57). -/
inductive DwellMode where
  | verify | reacq | search
deriving DecidableEq, Repr, Inhabited

/-- The dwell in progress (R54): its PRN, the lowest Doppler of its span in Hz, when it began and its passes of 1 ms. -/
structure Dwell where
  mode : DwellMode := .search
  prn : Fin 32 := 0
  low : Int := 0
  start : Tick := 0
  passes : Nat := 16
deriving DecidableEq, Repr, Inhabited

/-- A REACQ request (R56): the PRN, when it was lost, its Doppler then in mHz and the change of it in 100 ms. -/
structure Reacq where
  prn : Fin 32 := 0
  lost : Tick := 0
  doppler : Int := 0
  rate : Int := 0
deriving DecidableEq, Repr, Inhabited

/-- A satellite of the latest record, as POS takes it (R69). -/
structure MSat where
  prn : Nat := 0
  code : Bool := false
  phase : Bool := false
  slip : Bool := false
  excluded : Bool := false
deriving DecidableEq, Repr, Inhabited

/-- GNSS. `verify` is a detection to be verified, `search` the dwells left of the search in progress. `record` is the
latest measurement record, complete at `recAt` and not yet taken by POS while that is present; `anomSeen` is when each
check last held, `checkRun` the epochs in a row in which its condition held, `clockOnly` since when the clock
consistency anomaly has stood alone (R71), `dupRaised` a DUPLICATE_PRN no epoch has shown yet (R58). `tow` is the
receiver's time of week in ms at a tick, `week` the full week at that tick (R63, R66). `agcHist` holds AGC and mean
C/N0 of the epochs of 10 min, newest first (R70). Marks: DESIGN CHOICE (log 30), DESIGN CHOICE (log 90). -/
structure GnssSt where
  bias : Bool := true
  antOpen : Bool := false
  antShort : Bool := false
  antRetries : Nat := 0
  antRetryAt : Tick := 0
  antMa : Nat := 0
  chan : Vector GChan 24 := Vector.replicate 24 {}
  reacq : List Reacq := []
  search : List (Fin 32 × Int) := []
  warmAt : Tick := 0
  verify : Option Search := none
  dwell : Option Dwell := none
  xcorr : BitVec 16 := 0
  eph : Vector Eph 32 := Vector.replicate 32 {}
  alm : Vector (List (BitVec 24)) 32 := Vector.replicate 32 []
  iono : List Int := []
  weekRef : Nat := 0
  week : Option Nat := none
  tow : Option (Nat × Tick) := none
  anom : BitVec 16 := 0
  anomSeen : Vector Tick 16 := Vector.replicate 16 0
  checkRun : Vector Nat 16 := Vector.replicate 16 0
  dupRaised : Bool := false
  agcHist : List (Nat × Nat) := []
  driftHist : List Int := []
  clockOnly : Option Tick := none
  anomMask : BitVec 32 := 0
  record : List Byte := List.replicate 32 0
  recAt : Option Tick := none
  epochPm : Tick := 0
  sats : List MSat := []
  seq : BitVec 16 := 0
  firstHandoff : Option Tick := none
  rtkRange : Bool := false
  paired : Option BaseEpoch := none
  corrAge : Nat := 0xFFFF
  baseChanged : Bool := false
  rtcmBuf : List Byte := []
  rtcmLast : Tick := 0
  rtcmCrc : BitVec 32 := 0
  rtcmTimeouts : BitVec 32 := 0
  rtcmOther : BitVec 32 := 0
  rtcmNoTime : BitVec 32 := 0
  /-- epoch time of the base epoch last counted in RTCM_NO_TIME (R75) -/
  noTimeTow : Option Nat := none
  station : Option Nat := none
  arp : Int × Int × Int := (0, 0, 0)
  antHeight : Nat := 0
  antDesc : List Byte := []
  bases : List BaseEpoch := []
deriving DecidableEq, Repr, Inhabited

/-! ### Position engine (04) -/

/-- The pose as the field engine uses it, beyond the resolution of the record (R104): position 2⁻¹⁶ mm in the local plane,
angles 2⁻³² turn, speed 2⁻¹⁶ mm/s, along-track acceleration 2⁻¹⁶ mm/s², yaw rate 2⁻³² turn/s. -/
structure FinePose where
  e : Int := 0
  n : Int := 0
  heading : Int := 0
  roll : Int := 0
  pitch : Int := 0
  speed : Int := 0
  accel : Int := 0
  yaw : Int := 0
deriving DecidableEq, Repr, Inhabited

/-- What a pose says of the carrier, at the record's resolution: lengths 1 mm, speeds 1 mm/s, angles 2⁻¹⁶ turn, yaw rate
0.01 °/s, errors as in R104, latitude and longitude 10⁻¹⁰ °. -/
structure PoseEst where
  east : Int := 0
  north : Int := 0
  up : Int := 0
  velE : Int := 0
  velN : Int := 0
  velU : Int := 0
  speed : Int := 0
  lateral : Int := 0
  roll : Int := 0
  pitch : Int := 0
  heading : Int := 0
  yawRate : Int := 0
  hErr : Nat := 0
  vErr : Nat := 0
  headingErr : Nat := 0
  lat : Int := 0
  lon : Int := 0
  height : Int := 0
  fine : FinePose := {}
deriving DecidableEq, Repr, Inhabited

/-- The pose record (R104). -/
structure Pose where
  pm : Tick := 0
  quality : Quality := .lost
  aligned : Bool := false
  step : Bool := false
  stationary : Bool := false
  headingRestored : Bool := false
  imuOnly : Bool := false
  satsUsed : Nat := 0
  fixedAmb : Nat := 0
  integrity : BitVec 16 := 0
  drTime : Nat := 0
  est : PoseEst := {}
  corrAge : Nat := 0xFFFF
  odoState : BitVec 16 := 0
  stepMm : Nat := 0
  /-- body angles of the frame (R115), 10⁻² · 2⁻²⁴ ° -/
  angles : Vector Int 4 := Vector.replicate 4 0
deriving DecidableEq, Repr, Inhabited

/-- One odometry source (R84 to R88). `speed` in mm/s; `signed`: its sign is its own (R86). -/
structure Odo where
  slipSince : Option Tick := none
  okSince : Option Tick := none
  slipping : Bool := false
  stale : Bool := true
  lastPm : Tick := 0
  speed : Int := 0
  signed : Bool := false
  sa : Option Nat := none
  dist : Nat := 0
  /-- PULSES and LAST_PM of a frequency input at the last update (R280) -/
  seen : Option (BitVec 32 × Tick) := none
deriving DecidableEq, Repr, Inhabited

/-- An IMU increment at its midpoint (R83); `ok`: not with IMU_FAULT (R97). -/
structure ImuRec where
  pm : Tick := 0
  inc : ImuInc := {}
  ok : Bool := true
deriving DecidableEq, Repr, Inhabited

/-- An input of the filter at its postmark; `rank` orders those of one postmark (R84). -/
structure FilterEv where
  pm : Tick := 0
  rank : Nat := 0
  input : FilterIn := .coast
deriving DecidableEq, Repr, Inhabited

/-- POS. `accRun` counts accepted epochs in a row with at least 4 satellites used (R94); `fixed` are the PRNs with integer
ambiguities and `ints` their integers, `cand` a candidate set with its integers and the epochs it has passed (R89). `kept` are the
states of the last 16 edges, `inputs` what was applied in them beside the increments, `imu` the increments of 0.5 s, newest
first (R83, R85, R88). -/
structure PosSt where
  pose : Pose := {}
  lastAcc : Option Tick := none
  accRun : Nat := 0
  rejected : Bool := false
  corrStale : Bool := false
  rtkRange : Bool := false
  anomaly : Bool := false
  noOdoSince : Option Tick := none
  wrongFixUntil : Tick := 0
  sideSince : Option Tick := none
  cand : Option (BitVec 32 × List Int × Nat) := none
  candNew : Option (BitVec 32 × List Int) := none
  fixed : BitVec 32 := 0
  ints : List Int := []
  kept : List (Tick × FilterSt) := []
  inputs : List FilterEv := []
  imu : List ImuRec := []
  /-- distance driven in a line at SOLO grade, 0.5 µm (R91) -/
  lineDist : Nat := 0
  badPrev : BitVec 32 := 0
  odo : Vector Odo 4 := Vector.replicate 4 {}
  stillSince : Option Tick := none
  restored : Bool := false
  restoredDist : Nat := 0
  /-- the heading restore of this START has been judged (R92) -/
  restoreTried : Bool := false
  faulty : Bool := false
  /-- the IMU failed its self-check at START (R453) -/
  selfFail : Bool := false
  /-- corrected speed of the odometry in use at the last 100 Hz update, 1 mm/s (R70) -/
  odoSpeed : Option Int := none
  trail : List Pose := []
  origin : Option Origin := none
deriving DecidableEq, Repr, Inhabited

/-! ### Implement model (05) -/

/-- One implement set (R105, R107): records of contexts, sections, bodies, transport-time tables, implement, machine. -/
structure ImplSet where
  ctx : Vector (BitVec 256) 160
  sec : Vector (BitVec 64) 32
  body : Vector (BitVec 256) 4
  tt : Vector (BitVec 128) 8
  impl : BitVec 384
  mach : BitVec 1024
deriving DecidableEq, Repr

/-- Field-map reset values of a context description (R111); REMOTE reads 1 from CTX96 on. -/
def ctxReset (i : Nat) : BitVec 256 := BitVec.ofNat 256 <|
  ((if i ≥ 96 then 2 else 0) ||| 8 ||| (0xFF <<< 8) ||| (500 <<< 128) ||| (100 <<< 144)
    ||| (3000 <<< 192) ||| (2000 <<< 208) ||| (7000 <<< 224) ||| (2000 <<< 240))
/-- Field-map reset values of a body description (R114). -/
def bodyReset : BitVec 256 := BitVec.ofNat 256 ((7 <<< 1) ||| (uint 16 (-9000) <<< 160) ||| (9000 <<< 176))
/-- Field-map reset values of a transport-time table (R121): SPEED_i is 10,000 × i. -/
def ttReset : BitVec 128 := BitVec.ofNat 128 ((10000 <<< 32) ||| (20000 <<< 64) ||| (30000 <<< 96))
/-- Field-map reset values of the implement description (R123). -/
def implReset : BitVec 384 := BitVec.ofNat 384
  ((65536 <<< 96) ||| (65536 <<< 160) ||| (65536 <<< 224) ||| (65536 <<< 288))
/-- Field-map reset values of the machine description (R124). -/
def machReset : BitVec 1024 := BitVec.ofNat 1024
  ((0x80 <<< 200) ||| (10 <<< 512) ||| (10 <<< 672) ||| (10 <<< 832) ||| (10 <<< 992))

/-- The field maps' reset values (R105). -/
def ImplSet.reset : ImplSet where
  ctx := Vector.ofFn fun i => ctxReset i.val
  sec := Vector.replicate 32 0
  body := Vector.replicate 4 bodyReset
  tt := Vector.replicate 8 ttReset
  impl := implReset
  mach := machReset

/-- A body's angle (R115, R116), 10⁻² · 2⁻²⁴ °; `hold` is ANGLE_HOLD, `lost` ANGLE_LOST. -/
structure BodySt where
  angle : Int := 0
  hold : Bool := false
  lost : Bool := false
  invalidSince : Option Tick := none
  validSince : Option Tick := none
deriving DecidableEq, Repr, Inhabited

/-- IMPL. `active` is none from START until the first commit takes effect (R107). -/
structure ImplSt where
  active : Option ImplSet := none
  shadow : ImplSet := ImplSet.reset
  restored : ImplSet := ImplSet.reset
  body : Vector BodySt 4 := Vector.replicate 4 {}
deriving DecidableEq, Repr

/-! ### Field engine (06) -/

/-- One test's hysteresis state (R130). -/
structure TestSt where
  blocking : Bool := false
  sawLow : Bool := true
  sawHigh : Bool := true
deriving DecidableEq, Repr, Inhabited

/-- One context in the field engine. `lastCov`, `lastBnd`, `lastExc` and `conds` are the counts and the conditions
(bit per cause code) of its last evaluation, at edge `lastEval`. `qf` has weight 2⁻¹⁶ thousandth of the layer unit per
minute. Of the painted run: its start, the postmark painted to, the opening not yet counted into the quantity, the
last closing. Marks: DEDUCED (log 49). -/
structure FeCtx where
  sched : Bool := false
  cov : TestSt := {}
  bnd : TestSt := {}
  exc : TestSt := {}
  lastEval : Option Tick := none
  lastCov : Nat := 0
  lastBnd : Nat := 0
  lastExc : Nat := 0
  conds : Nat := 0
  /-- the condition whose change brought the change a frame wanted and has not made yet (R137) -/
  wants : Option Nat := none
  turnStop : Bool := false
  acted : Option (Tick × Bool) := none
  duty : Nat := 0
  qf : Nat := 0
  rate : Nat := 0
  runFrom : Option Tick := none
  paintTo : Tick := 0
  painted : List (Int × Int) := []
  openFrom : Option Tick := none
  closed : Option Tick := none
  unmeasured : Bool := false
deriving DecidableEq, Repr, Inhabited

/-- A DIRECTED record (R144). -/
structure Directed where
  ground : Tick := 0
  section_ : Nat := 0
  on : Bool := false
  rate : Option Nat := none
deriving DecidableEq, Repr, Inhabited

/-- A section's run in the as-applied log (R180): cells painted in mm², open time × qf in tick · 2⁻¹⁶ thousandth of the layer
unit per minute; the members whose runs are open; the latest end of a member's run so far, its place in 2⁻¹⁶ mm and whether
that closing was placed. -/
structure SecRun where
  from_ : Tick := 0
  layer : Nat := 0
  area : Nat := 0
  quantity : Nat := 0
  commanded : Bool := false
  members : List Nat := []
  endAt : Tick := 0
  endPlace : Int × Int := (0, 0)
  unmeasured : Bool := false
deriving DecidableEq, Repr, Inhabited

/-- Paint of one context waiting to be applied: context, layer, cells. -/
structure Paint where
  ctx : Nat := 0
  layer : Nat := 0
  cells : List (Int × Int) := []
deriving DecidableEq, Repr, Inhabited

/-- What the lanes have formed in a frame and commit if they agree (R149). `taken` are the postmarks taken from the bank
stores and the remote edges. -/
structure Batch where
  edge : Tick := 0
  events : List Ev := []
  duties : List (Nat × Nat) := []
  demand : Vector Nat 4 := Vector.replicate 4 0
  ctx : Vector FeCtx 160 := Vector.replicate 160 {}
  paints : List Paint := []
  waiting : List Paint := []
  taken : List Firing := []
  /-- marks of discarded postmarks the painting has left out (R14), and the end of runs it has dealt with (R180) -/
  cut : List Firing := []
  ending : Option Tick := none
  gaps : List (Nat × Tick × Tick × Nat) := []
  notices : List Notice := []
  /-- the notices of late edges of remote contexts, for those that find a slot (R137, R143) -/
  lates : List (Nat × Notice) := []
  records : List (BitVec 256) := []
  secRun : Vector (Option SecRun) 33 := Vector.replicate 33 none
  secOn : Vector Bool 32 := Vector.replicate 32 false
  secGround : Vector (Option Tick) 32 := Vector.replicate 32 none
  secRate : Vector (Option Nat) 32 := Vector.replicate 32 none
  directed : List Directed := []
deriving DecidableEq, Repr

/-- What FE reads of VDR and CE at a freeze: learned latencies, the mode each bank works in, loop feedbacks, the channels
that are LATCHED_OFF (R126, R127, R139, R186, R229). -/
structure FeFrozen where
  lat : Vector (Vector Nat 4) 160 := Vector.replicate 160 #v[3840000, 2560000, 8960000, 2560000]
  feed : Vector Nat 12 := Vector.replicate 12 0
  press : Vector Int 16 := Vector.replicate 16 0
  latched : Vector Bool 96 := Vector.replicate 96 false
deriving DecidableEq, Repr, Inhabited

/-- FE. `armedAt` is the edge of the first frame FE decides after an entry to ARMED, until that is committed; `remote` are measured and
commanded edges of remote contexts to be painted; `rowEvents` the host's remote events waiting for a freeze (R391);
`paints` those that met a miss (R165). -/
structure FeSt where
  ctx : Vector FeCtx 160 := Vector.replicate 160 {}
  frz : FeFrozen := {}
  /-- the postmark at which drive was left with section runs still to be ended there (R180) -/
  ending : Option Tick := none
  directed : List Directed := []
  waiting : List Directed := []
  clearMask : Nat := 0
  secOn : Vector Bool 32 := Vector.replicate 32 false
  secGround : Vector (Option Tick) 32 := Vector.replicate 32 none
  secRate : Vector (Option Nat) 32 := Vector.replicate 32 none
  secRun : Vector (Option SecRun) 33 := Vector.replicate 33 none
  batch : Option Batch := none
  /-- the edge of the frame the lanes work on, until they have committed it in agreement (R17) -/
  work : Option Tick := none
  demand : Vector Nat 4 := Vector.replicate 4 0
  demandPrev : Vector Nat 4 := Vector.replicate 4 0
  armedAt : Option Tick := none
  stopped : Vector Bool 96 := Vector.replicate 96 false
  remote : List Firing := []
  rowEvents : List Ev := []
  paints : List Paint := []
  records : List (BitVec 256) := []
deriving DecidableEq, Repr

/-! ### Control engine (11) -/

/-- The gains of a region: KP, KI, KD, KFF (R253). -/
structure Gains where
  kp : Int := 0
  ki : Int := 0
  kd : Int := 0
  kff : Int := 0
deriving DecidableEq, Repr, Inhabited

/-- A loop's status (R270) and working state. `integ` has weight 2⁻³² of full scale, `deriv` 2⁻¹⁶ feedback unit per
second; `started`: an evaluation has run since the loop's last start; `lastFb` is y of the last completed evaluation,
`heldSp` and `heldFf` the last setpoint and feedforward taken; `evalFor` is the sample instant of the last evaluation
completed or missed. Marks: DEDUCED (log 9). -/
structure Loop where
  feedback : Int := 0
  setpoint : Int := 0
  output : Int := 0
  integ : Int := 0
  deriv : Int := 0
  region : Nat := 0
  miss : Bool := false
  missRun : Nat := 0
  fault : Bool := false
  satHi : Bool := false
  satLo : Bool := false
  iClamp : Bool := false
  bumpClamped : Bool := false
  cogSuspended : Bool := false
  heldSrc : Bool := false
  misses : BitVec 32 := 0
  started : Bool := false
  heldSp : Int := 0
  heldFf : Int := 0
  hostSet : Option Int := none
  hostOut : Option Int := none
  evalFor : Option Tick := none
  /-- started after SAFE: the previous output is 0 (R267) -/
  fromZero : Bool := false
  /-- sample instants from here on count: since its commit, its reset, or the return from SAFE (R264, R266, R267) -/
  since : Tick := 0
  /-- the gains in force before a commit changed them, until the next evaluation (R262) -/
  oldGains : Option Gains := none
deriving DecidableEq, Repr, Inhabited

/-- The flow balance of a layer (R268, R269); `hist` are the demands committed in the frames before, newest first. -/
structure Flow where
  rho : Int := 0
  imbalance : Bool := false
  overSince : Option Tick := none
  underSince : Option Tick := none
  suspendUntil : Tick := 0
  hist : List Nat := []
deriving DecidableEq, Repr, Inhabited

/-- Friction tables of 32 points (speed, output), cogging tables of 256 values (R259, R260). -/
structure Tables where
  friction : Vector (List Int) 16 := Vector.replicate 16 (List.replicate 64 0)
  cogging : Vector (List Int) 16 := Vector.replicate 16 (List.replicate 256 0)
deriving DecidableEq, Repr

/-- CE. `lastMiss` is the sample instant of the last miss counted (R267). -/
structure CeSt where
  loop : Vector Loop 16 := Vector.replicate 16 {}
  tables : Tables := {}
  shadow : Tables := {}
  flow : Vector Flow 4 := Vector.replicate 4 {}
  lastMiss : Option Tick := none
deriving DecidableEq, Repr

/-! ### Position inputs (12) -/

/-- What an encoder or hall interface reports but for its speed (R288). -/
structure EncVals where
  count : Int := 0
  upos : Int := 0
  lastPm : Tick := 0
  indexCount : Int := 0
  indexPm : Tick := 0
  illegal : BitVec 16 := 0
  uncertain : Bool := false
  indexSeen : Bool := false
  stopped : Bool := true
  hallSkip : Bool := false
  hallIllegal : Bool := false
  invalid : Bool := false
  state : Nat := 0
deriving DecidableEq, Repr, Inhabited

/-- An encoder or hall interface (R273 to R279). `upos` is the count without wraps, settings and resets; `hist` are
the changes the speed estimator can still use, newest first: a legal one with its upos, none for an illegal sample;
`past` are the latest values with the postmark each holds from, newest first, for inputs taken before an instant (R35,
R254); `taken` are the values taken at the last freeze. `state` is (B, A) or the hall state, `lastValid` the last
valid hall state. `idxArm`: the next index resets COUNT under mode 0b11; `idxFresh`: an index has been seen since
START and since POSITION_UNCERTAIN (R260). Marks: DEDUCED (log 9). -/
structure Enc where
  count : Int := 0
  upos : Int := 0
  state : Nat := 0
  lastValid : Nat := 0
  speed : Int := 0
  lastPm : Tick := 0
  indexCount : Int := 0
  indexPm : Tick := 0
  illegal : BitVec 16 := 0
  uncertain : Bool := false
  indexSeen : Bool := false
  idxArm : Bool := true
  idxFresh : Bool := false
  stopped : Bool := true
  hallSkip : Bool := false
  hallIllegal : Bool := false
  illegalAt : Tick := 0
  invalid : Bool := false
  hist : List (Tick × Option Int) := []
  /-- the edge at which the host last set COUNT, and the postmark of the last index that did (R275, R276) -/
  setAt : Option Tick := none
  resetPm : Option Tick := none
  /-- when each line was last accepted changed: A, B and, active, Z; or U, V and W (R272) -/
  accepted : Vector (Option Tick) 3 := Vector.replicate 3 none
  past : List (Tick × EncVals) := []
  taken : EncVals := {}
deriving DecidableEq, Repr, Inhabited

/-- What a frequency input reports but for FREQ (R288). -/
structure FreqVals where
  pulses : BitVec 32 := 0
  lastPm : Tick := 0
  stopped : Bool := true
  overrange : Bool := false
deriving DecidableEq, Repr, Inhabited

/-- A frequency input (R280); `edges` are the edges its estimate can still use, newest first; `past` and `taken` as
for encoders. Marks: DEDUCED (log 9). -/
structure Freq where
  freq : Nat := 0
  pulses : BitVec 32 := 0
  lastPm : Tick := 0
  stopped : Bool := true
  overrange : Bool := false
  edges : List Tick := []
  /-- the line's level, and when it was last accepted changed (R272) -/
  level : Bool := false
  acceptedAt : Option Tick := none
  past : List (Tick × FreqVals) := []
  taken : FreqVals := {}
deriving DecidableEq, Repr, Inhabited

/-- An event record (R281). -/
structure EvtRec where
  pm : Tick := 0
  input : Nat := 0
  falling : Bool := false
  seq : BitVec 16 := 0
deriving DecidableEq, Repr, Inhabited

structure EvtIn where
  fifo : List EvtRec := []
  seq : BitVec 16 := 0
  lost : Nat := 0
  acceptedAt : Option Tick := none
deriving DecidableEq, Repr, Inhabited

/-- A conversion of an analog input (R282). -/
structure AinVal where
  pm : Tick := 0
  value : Nat := 0
  invalid : Bool := false
deriving DecidableEq, Repr, Inhabited

/-- An analog input: its latest conversion; the latest ones with their postmarks, newest first, for inputs taken before
an instant (R254); the one taken at the last freeze (R288); and the edge of the commit that last changed what triggers
it. -/
structure Ain where
  cur : AinVal := {}
  past : List (Tick × AinVal) := []
  taken : AinVal := {}
  since : Tick := 0
deriving DecidableEq, Repr, Inhabited

/-- What an emulation output reports (R288). -/
structure EmuVals where
  count : Int := 0
  deficit : Nat := 0
  sat : Bool := false
  noSpeed : Bool := false
  dropped : BitVec 32 := 0
deriving DecidableEq, Repr, Inhabited

/-- An emulation output (R283 to R286). `acc` is what is due and not yet emitted, in 1/`unit` count, as of `accAt`, and
grows by `rate` a tick; `nextRate` applies from its tick on. `steps` counts since the start of emulation. -/
structure Emu where
  count : Int := 0
  deficit : Nat := 0
  sat : Bool := false
  noSpeed : Bool := false
  dropped : BitVec 32 := 0
  acc : Int := 0
  accAt : Tick := 0
  rate : Int := 0
  nextRate : Option (Tick × Int) := none
  frac : Int := 0
  lastStep : Option Tick := none
  steps : Int := 0
  /-- since when counts have been due -/
  dueAt : Option Tick := none
  past : List (Tick × EmuVals) := []
  taken : EmuVals := {}
deriving DecidableEq, Repr, Inhabited

/-- Marks: DESIGN CHOICE (log 3). -/
structure PifSt where
  enc : Vector Enc 4 := Vector.replicate 4 {}
  hall : Vector Enc 4 := Vector.replicate 4 {}
  freq : Vector Freq 16 := Vector.replicate 16 {}
  evt : Vector EvtIn 8 := Vector.replicate 8 {}
  ain : Vector Ain 32 := Vector.replicate 32 {}
  emu : Vector Emu 2 := Vector.replicate 2 {}
deriving DecidableEq, Repr, Inhabited

/-! ### Load switches (13) -/

/-- States of a load switch (R293, R298). -/
inductive LswState where
  | off | inrush | on | latched
deriving DecidableEq, Repr, Inhabited

/-- A switch profile (R292), in the units of its record. -/
structure Profile where
  slew : Nat := 10
  iLim : Nat := 48
  iInrush : Nat := 48
  steps : Nat := 0
  tStep : Nat := 0
  tLimit : Nat := 100
  openMa : Nat := 20
  clamp : Nat := 0
  retryDelay : Nat := 100
  retry : Nat := 3
deriving DecidableEq, Repr, Inhabited

/-- One load switch. `profile` is the one its last turn-on began with (R294). `pulsing`: its pulse generator drives it
(R296, R302); `pulseB`, `pulseP`, `pulsePhase` are its grid, with changes waiting in `waitGrid`; `duties` are duty writes
not yet taken by an opening, `dutyAct` the duty in force. `coastDiff`: its output differed from its commanded state during
COAST (R304). -/
structure Lsw where
  st : LswState := .off
  openLoad : Bool := false
  shortBat : Bool := false
  short : Bool := false
  overload : Bool := false
  overtemp : Bool := false
  thermLatch : Bool := false
  aggregate : Bool := false
  gndLoss : Bool := false
  exhausted : Bool := false
  resumeWait : Bool := false
  current : Nat := 0
  temp : Int := 0
  step : Nat := 0
  stepEnd : Tick := 0
  tripAt : Tick := 0
  thermAt : Tick := 0
  profile : Profile := {}
  pulsing : Bool := false
  pulseB : Tick := 0
  pulseP : Nat := 800000
  pulsePhase : Nat := 0
  waitGrid : List (Tick × Nat × Nat) := []
  lastOpen : Tick := 0
  closeAt : Option Tick := none
  firstPulse : Bool := true
  duties : List (Tick × Nat) := []
  dutyAct : Nat := 0
  scaled : Bool := false
  safeHold : Bool := false
  coastDiff : Bool := false
  /-- MODE as a key-off hold took it over (R305), and whether the channel is driven on under reverse battery: TYPE RES or
  LAMP when its domain last had power (R306) -/
  holdPulse : Bool := false
  resLamp : Bool := true
deriving DecidableEq, Repr, Inhabited

/-- LSW; `sel` are the levels on SEL3 to SEL0 (R297). -/
structure LswSt where
  ls : Vector Lsw 16 := Vector.replicate 16 {}
  sel : BitVec 4 := 0
  shedding : Bool := false
  lastShed : Tick := 0
deriving DecidableEq, Repr, Inhabited

/-! ### Thermal supervisor (14) -/

/-- A temperature sensor (R309 to R314): its readings of the last millisecond, newest first, and the one before them. -/
structure Sens where
  hist : List (Tick × Int) := []
  fast : Bool := false
  broken : Bool := false
deriving DecidableEq, Repr, Inhabited

/-- A zone (R309, R322). `hotRun` counts its consecutive samples at or above SHUTDOWN (R318). -/
structure Zone where
  sens : Vector Sens 20 := Vector.replicate 20 {}
  temp : Int := 0
  reduction : Nat := 0
  warn : Bool := false
  throttling : Bool := false
  fast : Bool := false
  broken : Bool := false
  hotSensor : Nat := 0
  brokenCount : Nat := 0
  rateTrips : Nat := 0
  hotRun : Nat := 0
deriving DecidableEq, Repr, Inhabited

/-- Marks: DESIGN CHOICE (log 3). -/
structure ThsSt where
  zone : Vector Zone 10 := Vector.replicate 10 {}
  pairMhz : Nat := 400
  acqShare : Nat := 256
deriving DecidableEq, Repr, Inhabited

/-! ### CAN (15) -/

/-- CAN controller states as R396 codes them. -/
inductive CanState where
  | active | warning | passive | busOff | recovering | offBus
deriving DecidableEq, Repr, Inhabited

/-- A pigeonhole in use: its filter (R328) with the one in force before the postmark `since` (R395), its receive record
(R329), and whether it has turned NEW since the last RX notice. -/
structure Pigeon where
  ix : Nat := 0
  filter : BitVec 64 := 0
  prev : BitVec 64 := 0
  since : Tick := 0
  record : BitVec 672 := 0
  fresh : Bool := false
  /-- the tick on which the frame held was stored (R20) -/
  storedAt : Option Tick := none
deriving DecidableEq, Repr, Inhabited

/-- What a transmit slot holds (R330). -/
inductive SlotState where
  | free | pending | active
deriving DecidableEq, Repr, Inhabited

/-- Whose frame a slot carries. -/
inductive SlotOwner where
  | host | row | iso | tunnel
deriving DecidableEq, Repr, Inhabited

/-- A transmit slot (R330 to R334). `subAt` is the tick it was submitted on, `collAt` the errors it had when an identifier
collision was found. -/
structure Slot where
  st : SlotState := .free
  desc : BitVec 640 := 0
  errors : Nat := 0
  dataErrs : Nat := 0
  collision : Bool := false
  collAt : Nat := 0
  aborting : Bool := false
  sofPm : Tick := 0
  subAt : Tick := 0
  owner : SlotOwner := .host
deriving DecidableEq, Repr, Inhabited

structure CanCtl where
  st : CanState := .offBus
  tec : Nat := 0
  rec_ : Nat := 0
  tdcv : Nat := 0
  tdcSat : Bool := false
  unmatched : BitVec 32 := 0
  holes : List Pigeon := []
  slots : Vector Slot 32 := Vector.replicate 32 {}
  busOffAt : Tick := 0
deriving DecidableEq, Repr, Inhabited

/-- A row node (R339 to R347). -/
structure Node where
  synced : Bool := false
  seen : Bool := false
  lastReport : Tick := 0
  lost : Bool := false
  measures : Bool := false
  fault : Bool := false
  seq : BitVec 8 := 0
  lastCmd : Tick := 0
  rowOn : BitVec 16 := 0
deriving DecidableEq, Repr, Inhabited

/-- An event sent to a row node and not yet reported (R346): `slot` while its ROW_CMD waits in a transmit slot; its cause, and
the DIRECTED record its context had acted on before it (R343). -/
structure RowEv where
  node : Nat := 0
  row : Nat := 0
  ctx : Nat := 0
  seq : Nat := 0
  due : Tick := 0
  on : Bool := false
  slot : Option Nat := none
  cause : Nat := 0
  acted : Option (Tick × Bool) := none
deriving DecidableEq, Repr, Inhabited

/-- A ROW_CMD loaded at `at_` and not yet delivered: its slot, its node, and its rate entries as (context, rate, speed) (R342). -/
structure RowMsg where
  slot : Nat := 0
  node : Nat := 0
  at_ : Tick := 0
  rates : List (Fin 64 × Nat × Nat) := []
deriving DecidableEq, Repr, Inhabited

/-- The rate and footprint speed last sent for a remote context (R342). -/
structure RowRate where
  rate : Nat := 0
  speed : Nat := 0
  at_ : Option Tick := none
deriving DecidableEq, Repr, Inhabited

/-- CAN. `addr` is the claimed address, `cand` the one being claimed since `claimAt`, `claimWait` a claim that waits for
slot 31, `heard` the addresses other nodes have claimed; `failed` are row events whose message was not delivered,
`allOffWait` the nodes whose ALL_OFF waits for a slot, `rowMsgs` the row commands on their way. -/
structure CanSt where
  ctl : Vector CanCtl 3 := Vector.replicate 3 {}
  addr : Nat := 0xFE
  cand : Nat := 0xFE
  claimAt : Option Tick := none
  claimed : Bool := false
  claimWait : Bool := false
  heard : List Nat := []
  node : Vector Node 32 := Vector.replicate 32 {}
  rowRate : Vector RowRate 64 := Vector.replicate 64 {}
  syncSeq : BitVec 8 := 0
  syncAt : Tick := 0
  rowEvents : List RowEv := []
  failed : List RowEv := []
  rowMsgs : List RowMsg := []
  allOffAt : Option Tick := none
  allOffWait : List Nat := []
  graceFrom : Option Tick := none
deriving DecidableEq, Repr, Inhabited

/-! ### Security and update (18) -/

/-- One bank of an image: what its header gives (R414), its verdict (R415), whether it has run and has passed its
trial (R418). `partners` are the rows (image, lowest, highest version). Marks: DESIGN CHOICE (log 3). -/
structure ImgBank where
  version : Nat := 0
  svn : Nat := 0
  keyB : Bool := false
  revokeOther : Bool := false
  stateReset : Bool := false
  weekRef : Nat := 0
  partners : List (Nat × Nat × Nat) := []
  digest : BitVec 256 := 0
  verified : Bool := false
  rejected : Bool := false
  ran : Bool := false
  passed : Bool := false
  bytes : List Byte := []
deriving DecidableEq, Repr, Inhabited

/-- A bank as delivered: verified, run, and a partner of every image at every version. Marks: DESIGN CHOICE (log 69).
-/
def ImgBank.factory : ImgBank :=
  { verified := true, ran := true, passed := true, partners := (List.range 5).map fun k => (k, 0, 2 ^ 32 - 1) }

/-- One image (R413 to R419): two banks, which runs, its rollback floor, since when the running bank has run in this
START, and the restarts its element needed in the trial. -/
structure Image where
  bank0 : ImgBank := ImgBank.factory
  bank1 : ImgBank := {}
  running : Bool := false
  lastRun : Bool := false
  floor : Nat := 0
  since : Tick := 0
  trialRestarts : Nat := 0
deriving DecidableEq, Repr, Inhabited

/-- An open image load (R398). -/
structure ImgLoad where
  image : Nat := 0
  size : Nat := 0
  data : List Byte := []
deriving DecidableEq, Repr, Inhabited

/-- A live activation (R420, R421): the images, when it was accepted, when its preparation was complete, the edge of the
switch, the elements that have not yet had a clean frame after it. -/
structure Activation where
  images : BitVec 5 := 0
  since : Tick := 0
  ready : Option Tick := none
  switchAt : Option Tick := none
  waits : List Element := []
deriving DecidableEq, Repr, Inhabited

/-- SEC. `mlog` are the measurement log entries: the first 16 bytes of an entry and its value (R408); `nonce` the open
challenge and when it was issued. Marks: DESIGN CHOICE (log 3). -/
structure SecSt where
  mr : Vector (BitVec 256) 8 := Vector.replicate 8 0
  mlog : List (Nat × BitVec 256) := []
  mlogFull : Bool := false
  nonce : Option (BitVec 128 × Tick) := none
  image : Vector Image 5 := Vector.replicate 5 {}
  load : Option ImgLoad := none
  verifying : Option Nat := none
  activation : Option Activation := none
  deviceId : BitVec 128 := 0
  revoked : BitVec 4 := 0
  svcPort : Bool := false
  worldViolations : Nat := 0
deriving DecidableEq, Repr, Inhabited

/-! ### Safety, power, system -/

/-- An element's fault (R26, R425): its cause, whether it is restarting, the postmark its restart completed. -/
structure ElemSt where
  restarts : List Tick := []
  cause : Option Nat := none
  restarting : Bool := false
  doneAt : Option Tick := none
  clean : Bool := false
  clockBad : Bool := false
  relockAt : Tick := 0
deriving DecidableEq, Repr, Inhabited

/-- SAFE. -/
structure SafeSt where
  elem : Vector ElemSt 5 := Vector.replicate 5 {}
  safeIn : Bool := false
  safeInStart : Bool := false
  faultOut : Bool := false
  coastExpired : Bool := false
deriving DecidableEq, Repr, Inhabited

/-- PWR, the supply and the key. Marks: DESIGN CHOICE (log 3). -/
structure PwrSt where
  vkey : Bool := true
  vkeyLowAt : Option Tick := none
  vbatOk : Bool := true
  lowSupply : Bool := false
  groundLost : Bool := false
  groundBack : Option Tick := none
  reverseBatt : Bool := false
  loadDump : Bool := false
  /-- VLS is above 36 V (R298) -/
  over36 : Bool := false
  domains : BitVec 12 := 3
  startCause : Nat := 0
  flushed : BitVec 32 := 0
  stallErr : BitVec 32 := 0
  clkFails : BitVec 16 := 0
  bootUs : Nat := 0
  wakeAt : Tick := 0
  secureTried : Bool := false
  clkBaseBad : Bool := false
  clkBase : BitVec 8 := 0
  onBko : Bool := false
  acqIdleSince : Option Tick := none
  /-- the device was OFF for at least 2 h before this START, and the baseplate temperature read at START (R225) -/
  longOff : Bool := false
  tbStart : Int := 0
deriving DecidableEq, Repr, Inhabited

/-- The TCXO model (R319, R41): 192 bins of (sum of drifts, count), time learned in ticks, baseplate span seen. -/
structure Tcxo where
  bins : Vector (Int × Nat) 192 := Vector.replicate 192 (0, 0)
  /-- the fit of the ageing term over the learning history -/
  age : Int := 0
  learned : Tick := 0
  minT : Option Int := none
  maxT : Option Int := none
deriving DecidableEq, Repr, Inhabited

/-- The thermal latch record (R318); `reported`: its SHUTDOWN notice has been queued in a later START (R323). -/
structure ThermLatch where
  reported : Bool := false
  zone : Nat := 0
  sensor : Nat := 0
  temp : Int := 0
  pm : Tick := 0
  boot : Nat := 0
deriving DecidableEq, Repr, Inhabited

/-- PD0 (R441): what survives everything but a power cycle. Marks: DESIGN CHOICE (log 3), DESIGN CHOICE (log 5). -/
structure Pd0St where
  now : Nat := 0
  bootCount : Nat := 1
  latch : Option ThermLatch := none
  chRetries : Vector Nat 96 := Vector.replicate 96 3
  bankRetries : Vector Nat 12 := Vector.replicate 12 3
  lswRetries : Vector Nat 16 := Vector.replicate 16 3
  lswOn : Vector Bool 16 := Vector.replicate 16 false
  lswDuty : Vector Nat 16 := Vector.replicate 16 0
  keyOffHold : Vector (Option Nat) 16 := Vector.replicate 16 none
  tcxo : Tcxo := {}
  pose : Option Pose := none
  odoScale : Vector Nat 4 := Vector.replicate 4 0
  odoCal : Vector Bool 4 := Vector.replicate 4 false
  chainHash : BitVec 256 := 0
  blockSeq : Nat := 0
  trialRun : Vector Tick 5 := Vector.replicate 5 0
  faultLog : List FaultEntry := []
  wakeAlarm : Option Nat := none
  /-- the real-time clock: GNSS time in ms since week 0 at a value of `now` (R66) -/
  rtc : Option (Nat × Nat) := none
  tamper : BitVec 16 := 0
  offAt : Nat := 0
  /-- PD0 has lost power since the last START -/
  fresh : Bool := false
deriving DecidableEq, Repr, Inhabited

/-- The configuration area of the in-package NOR: copies restored at START (R441, R214, R219, R107, R405). Marks:
DESIGN CHOICE (log 3), DESIGN CHOICE (log 5). -/
structure NorSt where
  bootCount : Nat := 1
  tcxo : Tcxo := {}
  odoScale : Vector Nat 4 := Vector.replicate 4 0
  odoCal : Vector Bool 4 := Vector.replicate 4 false
  trialRun : Vector Tick 5 := Vector.replicate 5 0
  faultLog : List FaultEntry := []
  lat : Vector Lat 160 := Vector.replicate 160 {}
  params : Params := Params.reset
  impl : ImplSet := ImplSet.reset
deriving DecidableEq, Repr

/-- Effects accepted and waiting for a frame edge (R21, R377). -/
inductive EdgeAct where
  | arm | manual | disarm | clearFault
  | commit (images : List (Block × Nat)) (tables : Option Tables)
  | implCommit (set : ImplSet)
  | subscribe (p : Port) (k : Fin 16) (sub : Sub)
  | mapClear (target layer : Nat)
  | mapApply
  | expFix
  | setpoint (k : Fin 16) (v : Int)
  | output (k : Fin 16) (v : Int)
  | loopReset (k : Fin 16)
  | lswSet (c : Fin 16) (on : Bool) (duty : Option Nat)
  | duty (c : Fin 96) (v : Nat)
  | lswResume (c : Fin 16)
  | encSet (i : Fin 8) (v : Int)
  | canFilter (x : Fin 3) (ph : Nat) (f : BitVec 64)
deriving DecidableEq, Repr

/-- One such effect with the request it came from. -/
structure EdgeItem where
  opcode : BitVec 16 := 0
  seq : BitVec 16 := 0
  port : Port := .spi
  edge : Tick := 0
  act : EdgeAct := .arm
deriving DecidableEq, Repr

/-- Phases of the field frame (R15). -/
inductive Phase where
  | freeze | decision | commit | logging
deriving DecidableEq, Repr, Inhabited

/-- SYS. -/
structure SysSt where
  dev : DevState := .start
  prev : DevState := .off
  cause : Nat := 0x02
  /-- the state left to enter the last START, and the cause of that start (R474) -/
  startPrev : DevState := .off
  startCause : Nat := 0x02
  transitions : Nat := 0
  mapReady : Bool := false
  coastFromArmed : Bool := false
  coastFromManual : Bool := false
  coastEntry : Tick := 0
  coastBack : DevState := .standby
  coastCause : Nat := 0
  bootStage : Nat := 1
  stageAt : Tick := 0
  standbyAt : Tick := 0
  quarCause : Nat := 0
  selftestFail : Nat := 0
  dramTest : Nat := 0
  hostAlive : Bool := false
  edgeQ : List EdgeItem := []
  limiter : List Limiter := []
  lastEdge : Option Tick := none
  phase : Option Phase := none
  selftested : Bool := false
  imagesOk : Bool := false
  powered : Bool := false
deriving DecidableEq, Repr

end Sys2Proof.Machine
end

