-- ==== Sys2Proof/Machine/State.lean ====
section
/-! DEFINITION. The state of the device: plain data, everything the spec gives it, the queue of waiting commands, and
the state right after reset. -/

namespace Sys2Proof.Machine

/-- The state. `pm` is the postmark counter (R32) and `running` says that TIME has left reset; `free` counts the free
values drawn (the model's own field, log entry 4). `act` and `shd` are the active and shadow parameter blocks (R381). -/
structure State where
  pending : List Instr := []
  pm : Tick := 0
  running : Bool := false
  free : Nat := 0
  sys : SysSt := {}
  pwr : PwrSt := {}
  pd0 : Pd0St := {}
  nor : NorSt := {}
  act : Params := Params.reset
  shd : Params := Params.reset
  host : HostSt := {}
  safe : SafeSt := {}
  time : TimeSt := {}
  gnss : GnssSt := {}
  pos : PosSt := {}
  impl : ImplSt := {}
  fe : FeSt := {}
  map : MapSt := {}
  vdr : VdrSt := {}
  pwu : PwuSt := {}
  ce : CeSt := {}
  pif : PifSt := {}
  lsw : LswSt := {}
  ths : ThsSt := {}
  can : CanSt := {}
  sec : SecSt := {}
deriving DecidableEq, Repr

/-- Reasons for a step to stop with a fault. No command of the table stops so: the spec gives every one an effect. -/
inductive Fault where
  /-- Raised by nothing: the model has no command whose effect the spec leaves to a fault. Safe. -/
  | noFault
deriving DecidableEq, Repr

/-- Reasons for a refusal by the model. -/
inductive Refusal where
  /-- Raised by the dispatch for a command without a meaning yet. Safe: the run stops. -/
  | notModelled (mnemonic : String)
deriving DecidableEq, Repr

/-- What a meaning answers. -/
abbrev Result := Host.Outcome State Fault Refusal

/-- The entry to the first START after PD0 lost power (R474): START, PREV_STATE OFF, CAUSE 0x02, no transition
counted, the postmark counter held at 0 until TIME leaves reset, every block at its reset values, nothing waiting.
Marks: DESIGN CHOICE (log 3). -/
def State.reset : State := {}

/-! ### Changing one part -/

/-- Change `sys` alone. -/
def State.onSys (s : State) (f : SysSt → SysSt) : State := { s with sys := f s.sys }
/-- Change `pwr` alone. -/
def State.onPwr (s : State) (f : PwrSt → PwrSt) : State := { s with pwr := f s.pwr }
/-- Change `pd0` alone. -/
def State.onPd0 (s : State) (f : Pd0St → Pd0St) : State := { s with pd0 := f s.pd0 }
/-- Change `nor` alone. -/
def State.onNor (s : State) (f : NorSt → NorSt) : State := { s with nor := f s.nor }
/-- Change `act` alone. -/
def State.onAct (s : State) (f : Params → Params) : State := { s with act := f s.act }
/-- Change `shd` alone. -/
def State.onShd (s : State) (f : Params → Params) : State := { s with shd := f s.shd }
/-- Change `host` alone. -/
def State.onHost (s : State) (f : HostSt → HostSt) : State := { s with host := f s.host }
/-- Change `safe` alone. -/
def State.onSafe (s : State) (f : SafeSt → SafeSt) : State := { s with safe := f s.safe }
/-- Change `time` alone. -/
def State.onTime (s : State) (f : TimeSt → TimeSt) : State := { s with time := f s.time }
/-- Change `gnss` alone. -/
def State.onGnss (s : State) (f : GnssSt → GnssSt) : State := { s with gnss := f s.gnss }
/-- Change `pos` alone. -/
def State.onPos (s : State) (f : PosSt → PosSt) : State := { s with pos := f s.pos }
/-- Change `impl` alone. -/
def State.onImpl (s : State) (f : ImplSt → ImplSt) : State := { s with impl := f s.impl }
/-- Change `fe` alone. -/
def State.onFe (s : State) (f : FeSt → FeSt) : State := { s with fe := f s.fe }
/-- Change `map` alone. -/
def State.onMap (s : State) (f : MapSt → MapSt) : State := { s with map := f s.map }
/-- Change `vdr` alone. -/
def State.onVdr (s : State) (f : VdrSt → VdrSt) : State := { s with vdr := f s.vdr }
/-- Change `pwu` alone. -/
def State.onPwu (s : State) (f : PwuSt → PwuSt) : State := { s with pwu := f s.pwu }
/-- Change `ce` alone. -/
def State.onCe (s : State) (f : CeSt → CeSt) : State := { s with ce := f s.ce }
/-- Change `pif` alone. -/
def State.onPif (s : State) (f : PifSt → PifSt) : State := { s with pif := f s.pif }
/-- Change `lsw` alone. -/
def State.onLsw (s : State) (f : LswSt → LswSt) : State := { s with lsw := f s.lsw }
/-- Change `ths` alone. -/
def State.onThs (s : State) (f : ThsSt → ThsSt) : State := { s with ths := f s.ths }
/-- Change `can` alone. -/
def State.onCan (s : State) (f : CanSt → CanSt) : State := { s with can := f s.can }
/-- Change `sec` alone. -/
def State.onSec (s : State) (f : SecSt → SecSt) : State := { s with sec := f s.sec }

end Sys2Proof.Machine
end

