-- ==== Sys2Proof/Machine/Ops.lean ====
section
/-! DEFINITION. The shared operations: notices and their limiter, the fault log, the as-applied log, effects waiting for
a frame edge, outbound envelopes. -/

namespace Sys2Proof.Machine

/-- What comes about at postmark `t`, where the command that brings it runs later. -/
def asAt (t : Tick) (f : State → State) (s : State) : State := { f { s with pm := t } with pm := s.pm }

/-! ### Codes -/

/-- Device state codes (R23). -/
def devCode : DevState → Nat
  | .off => 0 | .start => 1 | .quarantine => 2 | .standby => 3 | .armed => 4 | .manual => 5 | .coast => 6 | .safe => 7
  | .latched => 8

/-- Element numbers (19). -/
def elemIx : Element → Fin 5
  | .enclave => 0 | .pair => 1 | .field => 2 | .control => 3 | .gnss => 4

/-- Port numbers (R373). -/
def portIx : Port → Fin 3
  | .spi => 0 | .uart => 1 | .tunnel => 2

/-- Status codes (R378). -/
def statusCode : Status → Nat
  | .ok => 0x00 | .accepted => 0x01 | .badOpcode => 0x10 | .badLength => 0x11 | .badCrc => 0x12 | .badParam => 0x13
  | .range => 0x14 | .state => 0x15 | .busy => 0x16 | .noCredit => 0x17 | .sealedWorld => 0x20 | .authFail => 0x21
  | .versionMismatch => 0x22 | .faulted => 0x30 | .quarantined => 0x31

/-- Quality codes (R104). -/
def qualityCode : Quality → Nat
  | .lost => 0 | .dr => 1 | .solo => 2 | .float => 3 | .fix => 4

/-- Is the element restarting? -/
def State.restarting (s : State) (el : Element) : Bool := s.safe.elem[elemIx el].restarting

/-! ### Notices (R217, R361, R362) -/

/-- Bytes a notice record takes in a queue: its head and its padded body (R361). -/
def Notice.size (n : Notice) : Nat := 16 + (n.body.length + 3) / 4 * 4

def noticesSize (l : List Notice) : Nat := (l.map Notice.size).sum

/-- A notice record as bytes (R361). -/
def Notice.bytes (n : Notice) : List Byte :=
  leBytes 1 n.blk ++ leBytes 1 n.code ++ leBytes 2 n.body.length ++ leBytes 8 n.pm ++ leBytes 2 (satU 16 n.count)
    ++ leBytes 2 n.idx ++ padTo ((n.body.length + 3) / 4 * 4) 0 n.body

/-- NOTICE_MASK of a port lets notices of this block ID through (R362). -/
def noticeWanted (s : State) (p : Fin 3) (blk : Nat) : Bool := bitN (s.act.fld .host (32 * p.val + 224) 32) blk

/-- A port takes a record into its 16 KiB queue, or discards and counts it, from its first discard on (R361, R362).
Marks: DEDUCED (log 65). -/
def PortSt.take (q : PortSt) (now : Tick) (n : Notice) : PortSt :=
  if noticesSize q.notices + n.size ≤ 16384 then { q with notices := q.notices ++ [n] }
  else { q with noticesLost := q.noticesLost + 1, lostPm := if q.noticesLost = 0 then now else q.lostPm }

/-- LINK_LOST goes to every other port (R371). -/
def Notice.skips (n : Notice) (p : Fin 3) : Bool := n.blk == 0x0F && n.code == 0x05 && n.idx == p.val

/-- Queue a record on every port that wants its block (R362). -/
def queueNotice (n : Notice) (s : State) : State :=
  s.onHost fun h => { h with port := vmapIdx h.port fun p q => if noticeWanted s p n.blk && !n.skips p then q.take s.pm n else q }

/-- Merge an occurrence into a waiting notice: the first postmark, one more occurrence, the lower index, the latest body
(R217); FE's LATE_EDGE and DIRECTED_LATE keep the largest lateness (R151). -/
def Notice.merge (w n : Notice) : Notice :=
  { w with count := w.count + n.count, idx := min w.idx n.idx,
           body := if n.blk = 0x06 ∧ (n.code = 0x01 ∨ n.code = 0x06) ∧ leNat n.body < leNat w.body then w.body else n.body }

/-- The interval of R217. -/
def noticeGap : Tick := 8000000

/-- One occurrence against the limiter of its code: the new limiter, and what is queued now. -/
def Limiter.offer (l : Limiter) (now : Tick) (n : Notice) : Limiter × Option Notice :=
  match l.waiting with
  | none => if now < l.last + noticeGap then ({ l with waiting := some n }, none) else ({ l with last := now }, some n)
  | some w =>
    if now < l.last + noticeGap then ({ l with waiting := some (w.merge n) }, none)
    else ({ l with waiting := none, last := now }, some (w.merge n))

/-- The limiters after an occurrence, and what is queued now. A code without a limiter queues at once. -/
def offerNotice (now : Tick) (n : Notice) : List Limiter → List Limiter × Option Notice
  | [] => ([{ blk := n.blk, code := n.code, last := now, waiting := none }], some n)
  | l :: ls =>
    if l.blk = n.blk ∧ l.code = n.code then (let r := l.offer now n; (r.1 :: ls, r.2))
    else (let r := offerNotice now n ls; (l :: r.1, r.2))

/-- A notice under the limits and contents of R217. -/
def noticeAt (b : Block) (code idx : Nat) (pm : Tick) (body : List Byte) (s : State) : State :=
  let n : Notice := { blk := blockId b, code := code, pm := pm, idx := idx, body := body }
  let r := offerNotice s.pm n s.sys.limiter
  let s1 := s.onSys fun y => { y with limiter := r.1 }
  match r.2 with
  | none => s1
  | some m => queueNotice m s1

/-- A notice of the present postmark. Marks: DEDUCED (log 85). -/
def notice (b : Block) (code idx : Nat) (body : List Byte) (s : State) : State := noticeAt b code idx s.pm body s

/-- A notice exempt from the rate limit. Marks: DEDUCED (log 85). -/
def noticeNow (b : Block) (code idx : Nat) (pm : Tick) (body : List Byte) (s : State) : State :=
  queueNotice { blk := blockId b, code := code, pm := pm, idx := idx, body := body } s

/-- Queue the merged notices whose interval has passed (R217). -/
def flushNotices (s : State) : State :=
  let due := s.sys.limiter.filterMap fun l => if s.pm < l.last + noticeGap then none else l.waiting
  let ls := s.sys.limiter.map fun l =>
    if s.pm < l.last + noticeGap then l else match l.waiting with | none => l | some _ => { l with last := s.pm, waiting := none }
  due.foldl (fun t n => queueNotice n t) (s.onSys fun y => { y with limiter := ls })

/-! ### The fault log (R434, R435) -/

/-- A fault log entry as bytes (R434). -/
def FaultEntry.bytes (f : FaultEntry) : List Byte :=
  leBytes 1 f.cause ++ leBytes 1 f.blk ++ leBytes 2 f.index ++ leBytes 8 f.pm ++ leBytes 4 f.boot
    ++ leBytes 1 (f.state % 16 + 16 * (f.reaction % 16)) ++ leBytes 1 f.restarts ++ leBytes 2 (satU 16 f.count)
    ++ leBytes 4 f.detail ++ leBytes 8 f.endPm

/-- Reactions of R434. -/
def reactReport : Nat := 0
def reactCoast : Nat := 1
def reactSafe : Nat := 2
def reactContext : Nat := 3
def reactLatched : Nat := 4

/-- An entry still active that names this cause and index. Marks: DEDUCED (log 15). -/
def FaultEntry.activeFor (f : FaultEntry) (cause index : Nat) : Bool :=
  f.cause == cause && f.index == index && f.endPm == 0

/-- One more repeat of an active entry. -/
def FaultEntry.repeatFor (cause index : Nat) (f : FaultEntry) : FaultEntry :=
  if f.activeFor cause index then { f with count := min (f.count + 1) 65535 } else f

/-- The entry with END_PM written, where it is active for this cause and index. -/
def FaultEntry.endFor (cause index : Nat) (pm : Tick) (f : FaultEntry) : FaultEntry :=
  if f.activeFor cause index then { f with endPm := pm } else f

/-- The place of a new entry, newest first: a report-only one stands behind the report-only ones of its tick with a greater
cause code (R427). -/
def placeFault (f : FaultEntry) : List FaultEntry → List FaultEntry
  | [] => [f]
  | g :: l =>
    if f.reaction = reactReport ∧ g.reaction = reactReport ∧ g.pm = f.pm ∧ g.boot = f.boot ∧ f.cause < g.cause then g :: placeFault f l
    else f :: g :: l

/-- Record a fault (R434): a report-only fault that repeats an active entry counts in it; every other writes a new
entry at the front of the 64 and queues FAULT. Marks: DESIGN CHOICE (log 12), DEDUCED (log 15). -/
def logFault (cause : Nat) (b : Block) (index reaction restarts detail : Nat) (s : State) : State :=
  if reaction = reactReport ∧ s.pd0.faultLog.any (fun f => f.activeFor cause index) then
    s.onPd0 fun d => { d with faultLog := d.faultLog.map (FaultEntry.repeatFor cause index) }
  else
    let f : FaultEntry := { cause := cause, blk := blockId b, index := index, pm := s.pm, boot := s.pd0.bootCount,
                            state := devCode s.sys.dev, reaction := reaction, restarts := restarts, detail := detail }
    let s1 := s.onPd0 fun d => { d with faultLog := placeFault f (d.faultLog.take 63) }
    if reaction = reactCoast ∨ reaction = reactSafe then noticeNow .safe 0x01 index s.pm f.bytes s1
    else notice .safe 0x01 index f.bytes s1

/-- The fault of this cause and index has ended: END_PM is written and FAULT_END queued (R434, R435). -/
def endFault (cause index : Nat) (s : State) : State :=
  let ended := (s.pd0.faultLog.filter fun f => f.activeFor cause index).map (FaultEntry.endFor cause index s.pm)
  let s1 := s.onPd0 fun d => { d with faultLog := d.faultLog.map (FaultEntry.endFor cause index s.pm) }
  ended.foldl (fun t f => notice .safe 0x02 index f.bytes t) s1

/-- The fault of this cause is active at some index. -/
def State.faultActive (s : State) (cause : Nat) : Bool := s.pd0.faultLog.any fun f => f.cause == cause && f.endPm == 0

/-! ### The as-applied log (R179 to R183) -/

/-- A log record of R179. -/
def logRecord (type index flags : Nat) (pm : Tick) (rest : Nat) : BitVec 256 :=
  BitVec.ofNat 256 (type % 256 ||| (index % 256) <<< 8 ||| (flags % 65536) <<< 16 ||| (pm % 2 ^ 64) <<< 32 ||| rest <<< 96)

/-- Bytes 0 to 4,031 of a block (R181); a block sealed early is filled with EMPTY records. -/
def LogBlock.signedBytes (b : LogBlock) : List Byte :=
  padTo 3968 0 (b.records.flatMap fun r => leBytes 32 r.toNat) ++ leBytes 4 b.seq ++ leBytes 4 b.boot ++ leBytes 8 b.firstPm
    ++ leBytes 8 b.lastPm ++ leBytes 32 b.prevHash.toNat ++ leBytes 2 b.count ++ List.replicate 6 0

/-- The 4,096 bytes of a block (R181). -/
def LogBlock.bytes (b : LogBlock) : List Byte := b.signedBytes ++ leBytes 64 b.sig.toNat

/-- Blocks not yet exported. -/
def unexported (m : MapSt) : Nat := (m.ring.filter fun b => !b.acked).length

/-- The order n of the P-256 group (R404; FIPS 186). -/
def groupOrder : Nat := 0xFFFFFFFF00000000FFFFFFFFFFFFFFFFBCE6FAADA7179E84F3B9CAC2FC632551

/-- A device private key: the first SHA-256(DEVICE_SEED ‖ label ‖ c), read big-endian, that lies in [1, n − 1] (R404). -/
def deriveKey (label : List Byte) : BitVec 256 :=
  let draw (c : Nat) : Nat := leNat (leBytes 32 (Config.sha256 (leBytes 32 Config.deviceSeed.toNat ++ label ++ leBytes 1 c)).toNat).reverse
  BitVec.ofNat 256 ((((List.range 256).map draw).find? fun d => decide (1 ≤ d ∧ d < groupOrder)).getD 0)

/-- The keys of the labels "ATTEST" and "LOG" (R404). -/
def attestKey : BitVec 256 := deriveKey [0x41, 0x54, 0x54, 0x45, 0x53, 0x54]
def logKey : BitVec 256 := deriveKey [0x4C, 0x4F, 0x47]

/-- The enclave seals the open block, where it holds a record: hash, signature and chain (R181, R182). LOG_HIGH is queued
when the unexported blocks reach 384 (R183). -/
def sealBlock (s : State) : State :=
  if s.map.log = [] then s
  else
    let b0 : LogBlock :=
      { seq := s.pd0.blockSeq, boot := s.pd0.bootCount, firstPm := s.map.logFirst,
        lastPm := bits ((s.map.log.getLast?.getD 0).toNat) 32 64, prevHash := s.pd0.chainHash, records := s.map.log,
        count := s.map.log.length }
    let h := Config.sha256 b0.signedBytes
    let b := { b0 with sig := Config.ecdsaSign logKey h }
    let s1 := (s.onMap fun m => { m with log := [], ring := m.ring ++ [b] }).onPd0 fun d =>
      { d with chainHash := h, blockSeq := incMod 32 d.blockSeq 1 }
    if unexported s1.map = 384 ∧ unexported s.map < 384 then notice .map 0x0A 0xFFFF [] s1 else s1

/-- The ring makes room for the block that opens (R183). Marks: DEDUCED (log 53). -/
def openBlock (s : State) : State :=
  match s.map.ring with
  | [] => s
  | b :: bs =>
    if s.map.ring.length < 512 then s
    else
      let s1 := s.onMap fun m => { m with ring := bs }
      if b.acked then s1 else notice .map 0x0B 0xFFFF [] s1

/-- Append a record to the open block; a full block is sealed (R181). -/
def appendRecord (r : BitVec 256) (s : State) : State :=
  let s0 := if s.map.log = [] then openBlock s else s
  let s1 := s0.onMap fun m =>
    { m with logFirst := if m.log = [] then bits r.toNat 32 64 else m.logFirst, log := m.log ++ [r] }
  if s1.map.log.length ≥ 124 then sealBlock s1 else s1

/-- Write a log record (R153, R179): the log is written once the device has entered STANDBY; while the enclave
restarts appends are staged in order, up to 128 (19). Marks: DEDUCED (log 53). -/
def writeLog (r : BitVec 256) (s : State) : State :=
  if s.sys.bootStage ≠ 4 then s
  else if s.restarting .enclave then
    (if s.map.stage.length < 128 then s.onMap fun m => { m with stage := m.stage ++ [r] } else s)
  else appendRecord r s

/-- The staged appends reach the open block once the enclave is back. -/
def drainStage (s : State) : State :=
  s.map.stage.foldl (fun t r => appendRecord r t) (s.onMap fun m => { m with stage := [] })

/-- A PAINT_GAP record (R179). -/
def paintGap (index reason : Nat) (first last count : Nat) (s : State) : State :=
  writeLog (logRecord 0x05 index reason first (count % 2 ^ 32 ||| (last % 2 ^ 64) <<< 32)) s

/-! ### Effects waiting for a frame edge (R21, R377) -/

/-- Put effects of one request in the queue of its frame edge. -/
def waitEdge (opcode : BitVec 16) (e : Env) (acts : List EdgeAct) (s : State) : State :=
  s.onSys fun y => { y with edgeQ := y.edgeQ ++ acts.map fun a =>
    { opcode := opcode, seq := e.seq, port := e.port, edge := nextEdge s.pm, act := a } }

/-- The requests behind waiting effects, each once, in order. -/
def edgeRequests (l : List EdgeItem) : List (BitVec 16 × BitVec 16 × Port × Tick) :=
  (l.map fun i => (i.opcode, i.seq, i.port, i.edge)).eraseDups

/-- Every command waiting for a frame edge is cancelled and SYS CMD_CANCELLED queued for each (R377, R380); no load switch
waits for one any more. -/
def cancelEdges (s : State) : State :=
  (edgeRequests s.sys.edgeQ).foldl
    (fun t r => noticeNow .sys 0x03 0xFFFF r.2.2.2 (leBytes 2 r.1.toNat ++ leBytes 2 r.2.1.toNat) t)
    ((s.onSys fun y => { y with edgeQ := [] }).onLsw fun v => { v with ls := vmap v.ls fun l => { l with resumeWait := false } })

/-! ### What a request is answered with (R356) -/

/-- Status, EFFECT_PM and reply data of a request. `wait`: the reply follows when this bank's reconnection test ends
(R230). -/
structure Answer where
  status : Status := .ok
  effectPm : Tick := 0
  data : List Byte := []
  wait : Option (Fin 12) := none
deriving DecidableEq, Repr, Inhabited

/-- Refuse with a status and change nothing. -/
def deny (st : Status) (s : State) : State × Answer := (s, { status := st })
/-- Executed, nothing more to say. -/
def done (s : State) : State × Answer := (s, {})
/-- Executed, with reply data. -/
def doneWith (d : List Byte) (s : State) : State × Answer := (s, { data := d })
/-- Accepted for the frame edge after now. -/
def doneEdge (s0 s : State) : State × Answer := (s, { effectPm := nextEdge s0.pm })

end Sys2Proof.Machine
end

