-- ==== Sys2Proof/Machine/Heat.lean ====
section
/-! DEFINITION. Thresholds, reductions and consumer shares of the thermal supervisor (14). Temperatures are in 0.1 °C,
reductions in 1/256. -/

namespace Sys2Proof.Machine

/-- Keep the items later than `now − keep`, and the first one before. -/
def keepRecent {α : Type} (now keep : Tick) : List (Tick × α) → List (Tick × α)
  | [] => []
  | (t, v) :: l => if now < t + keep then (t, v) :: keepRecent now keep l else [(t, v)]

/-- Threshold classes of the zones (R309): Z0 logic, Z1 to Z8 power, zone 9 the baseplate. -/
inductive ThermClass where
  | logic | power | baseplate
deriving DecidableEq, Repr

def zoneClass (z : Fin 10) : ThermClass := if z = 0 then .logic else if z = 9 then .baseplate else .power

/-- WARN of a class; the baseplate has none (R310, R321). -/
def warnAt (s : State) : ThermClass → Option Int
  | .logic => some (10 * s.act.fld .ths 0 8)
  | .power => some (10 * s.act.fld .ths 24 8)
  | .baseplate => none

/-- THROTTLE of a class; BP_THR for the baseplate. -/
def throttleAt (s : State) : ThermClass → Int
  | .logic => 10 * s.act.fld .ths 8 8
  | .power => 10 * s.act.fld .ths 32 8
  | .baseplate => 10 * s.act.fld .ths 48 8

/-- SHUTDOWN of a class; BP_FULL, which shuts nothing down, for the baseplate. -/
def shutdownAt (s : State) : ThermClass → Int
  | .logic => 10 * s.act.fld .ths 16 8
  | .power => 10 * s.act.fld .ths 40 8
  | .baseplate => 10 * s.act.fld .ths 56 8

/-- T_TRIP = min(160 °C, SD_P − 10 K) (R310). -/
def tTrip (s : State) : Int := min 1600 (shutdownAt s .power - 100)
/-- The release temperature of a stage (R310). -/
def tRelease (s : State) : Int := tTrip s - 200

/-! ### Sensors (R309, R311, R314) -/

/-- Sensors of a zone: Z0 four, a valve die its 16 stages and 4 feed switches, Z7 and the baseplate two, Z8 sixteen. -/
def sensorCount (z : Fin 10) : Nat := if z = 0 then 4 else if z = 7 ∨ z = 9 then 2 else if z = 8 then 16 else 20

/-- The neighbours of a sensor (R314). -/
def neighbours (z : Fin 10) (k : Nat) : List Nat :=
  if z = 0 then [0, 1, 2, 3].filter (· != k)
  else if z = 7 ∨ z = 9 then [1 - k]
  else if z = 8 then [k - 1, k + 1].filter fun j => j != k && decide (j < 16)
  else if k < 16 then ([k - 1, k + 1].filter fun j => j != k && decide (j < 16)) ++ [16 + k / 8 * 2, 17 + k / 8 * 2]
  else (if k % 2 = 0 then k + 1 else k - 1) :: (List.range 8).map (· + 8 * ((k - 16) / 2))

/-- The latest reading of a sensor that is not broken. -/
def Sens.valid (x : Sens) : Option Int := if x.broken then none else x.hist.head?.map (·.2)

/-- The valid readings of a sensor's neighbours; with both baseplate sensors broken, the lowest power-die zone value. -/
def neighbourTemps (s : State) (z : Fin 10) (k : Nat) : List Int :=
  let v := (neighbours z k).filterMap fun j => (idx? 20 j).bind fun j => s.ths.zone[z].sens[j].valid
  if z = 9 ∧ s.ths.zone[z].sens[(0 : Fin 20)].broken ∧ s.ths.zone[z].sens[(1 : Fin 20)].broken then
    (((List.range 8).filterMap fun d => (idx? 10 (d + 1)).map fun y => s.ths.zone[y].temp).min?).toList
  else v

/-- What stands for a broken sensor: its class THROTTLE, or the highest valid reading among its neighbours plus 10 K (R314). -/
def standsFor (s : State) (z : Fin 10) (k : Nat) : Int :=
  match (neighbourTemps s z k).max? with
  | some t => max (throttleAt s (zoneClass z)) (t + 100)
  | none => throttleAt s (zoneClass z)

/-- A reading `t` of a sensor as every threshold takes it: replaced where the sensor is broken (R314). -/
def reading (s : State) (z : Fin 10) (k : Fin 20) (t : Int) : Int := if s.ths.zone[z].sens[k].broken then standsFor s z k.val else t

/-- A sample of a sensor: it is sampled at 16 kHz from THROTTLE − 10 K on, at 1 kHz below THROTTLE − 12 K (R311). -/
def Sens.sample (now : Tick) (thr t : Int) (x : Sens) : Sens :=
  { x with hist := keepRecent now 80000 ((now, t) :: x.hist),
           fast := x.broken || (if thr - 100 ≤ t then true else if t < thr - 120 then false else x.fast) }

/-- A rise of more than 10 K over the 1 ms before a sample `t` (R312). -/
def Sens.rises (now : Tick) (t : Int) (x : Sens) : Bool :=
  !x.broken && match x.hist.find? fun h => h.1 + 80000 ≤ now with
    | some h => decide (t - h.2 > 100)
    | none => false

/-- The reduction a zone value calls for (R315). -/
def reductionAt (s : State) (c : ThermClass) (t : Int) : Nat :=
  let lo := throttleAt s c
  let hi := shutdownAt s c
  if hi ≤ lo then (if t ≥ lo then 256 else 0) else (clampI 0 256 ((t - lo) * 256 / (hi - lo))).toNat

/-- The applied value after a sample: it rises at once, and falls no lower than the value of T + 2 K (R315). -/
def appliedReduction (s : State) (c : ThermClass) (old : Nat) (t : Int) : Nat :=
  let r := reductionAt s c t
  if r ≥ old then r else min old (reductionAt s c (t + 20))

/-- The share of a consumer: the larger of its zone's reduction and the baseplate's within the consumer's band
[a, b) of quarters (R315). -/
def consumerR (s : State) (z : Fin 10) (a b : Nat) : Nat :=
  let rm := s.ths.zone[(9 : Fin 10)].reduction
  let band := if rm ≤ 64 * a then 0 else min 256 ((rm - 64 * a) * 4 / (b - a))
  max s.ths.zone[z].reduction band

/-- Load switches: Z8, band [0, ½). -/
def lswR (s : State) : Nat := consumerR s 8 0 2
/-- GNSS acquisition and the pair clock: Z0, band [½, ¾). -/
def logicR (s : State) : Nat := consumerR s 0 2 3
/-- A valve die: Z1 to Z6, band [¾, 1]. -/
def valveR (s : State) (d : Fin 6) : Nat := consumerR s ⟨d.val + 1, by omega⟩ 3 4
/-- The boost converter: Z7, band [¾, 1]. -/
def boostR (s : State) : Nat := consumerR s 7 3 4

end Sys2Proof.Machine
end

