-- ==== Sys2Proof/Machine/Operands.lean ====
section
/-! DEFINITION. Reading the parameters of a request from its payload (R376), and the operand forms the commands share. -/

namespace Sys2Proof.Machine

/-- Bits `[lo+w-1:lo]` of the parameters, unsigned (R376). -/
def arg (e : Env) (lo w : Nat) : Nat := bits (leNat (slice e.payload (lo / 8) ((w + 15) / 8 + 1))) (lo % 8) w

/-- Bits `[lo+w-1:lo]` of the parameters, two's complement. -/
def argS (e : Env) (lo w : Nat) : Int := sint w (arg e lo w)

/-- A one-bit parameter. -/
def argB (e : Env) (lo : Nat) : Bool := arg e lo 1 == 1

/-- Bits `[lo+w-1:lo]` of a record. -/
def recN (r : List Byte) (lo w : Nat) : Nat := bits (leNat r) lo w
def recS (r : List Byte) (lo w : Nat) : Int := sint w (recN r lo w)

/-- The entries of `n` bytes from byte `off` on. -/
def entries (e : Env) (off n : Nat) : List (List Byte) := chunks n (e.payload.drop off)

/-- The first status other than OK of a list of checks (R375). -/
def firstBad : List (Bool × Status) → Option Status
  | [] => none
  | (bad, st) :: l => if bad then some st else firstBad l

/-- Mode of a loop: 0 OFF, 1 MONITOR, 2 OPEN, 3 CLOSED (R253). -/
def loopMode (s : State) (k : Nat) : Nat := s.act.fld .ce (1024 * k) 2

/-- A loop in OPEN or CLOSED has this destination; a pair takes its second generator too (R263). -/
def loopDrives (s : State) (dest ix : Nat) : Bool :=
  (List.range 16).any fun k =>
    let d := s.act.fld .ce (1024 * k + 24) 3
    let i := s.act.fld .ce (1024 * k + 27) 5
    loopMode s k ≥ 2 && ((d == dest && i == ix) || (dest == 1 && d == 2 && (i == ix || i + 1 == ix)))

end Sys2Proof.Machine
end

