-- ==== Sys2Proof/Machine/Vdr.lean ====
section
/-! DEFINITION. VDR's shared operations: firing records, latency learning, bank arbitration, start and off requests,
isolation (08, 09). A request acts on the tick of its due postmark, those of one tick in the order of R189, which is
the order of the queue; the drive of R192 and R196, the sampling of R206 and R218 and the elements of R185 show in the
state only through the channel states and the measurements of the commands. -/

namespace Sys2Proof.Machine

/-! ### Parameters of PB.VDR, durations in ticks (R186, R219) -/

def tPull (s : State) (c : Nat) : Tick := 800 * s.act.fld .vdr (64 * c + 384) 16
def tPullMin (s : State) (c : Nat) : Tick := 800 * s.act.fld .vdr (64 * c + 400) 16
def sigEn (s : State) (c : Nat) : Bool := s.act.flag .vdr (64 * c + 439)
/-- Signature depth, 5 mA. -/
def sigMin (s : State) (c : Nat) : Nat := s.act.fld .vdr (64 * c + 440) 8
def guardGap (s : State) : Tick := usTicks (s.act.fld .vdr 32 16)
def dMax (s : State) : Tick := 800 * s.act.fld .vdr 48 16
def tOffMin (s : State) : Tick := 800 * s.act.fld .vdr 64 16
def sigOnWin (s : State) : Tick := 800 * s.act.fld .vdr 80 16
def sigOffWin (s : State) : Tick := 800 * s.act.fld .vdr 96 16
def boostEn (s : State) : Bool := s.act.flag .vdr 112
def returnEn (s : State) : Bool := s.act.flag .vdr 113
def driftSnap (s : State) : Bool := s.act.flag .vdr 114
def r20Of (s : State) (c : Nat) : Nat := s.act.fld .vdr (64 * c + 6560) 16
def lRefOf (s : State) (c : Nat) : Nat := s.act.fld .vdr (64 * c + 6576) 16

/-- Current limit, 20 mA. -/
def iPull (s : State) (c : Nat) : Nat := s.act.fld .vdr (64 * c + 416) 8
/-- Hold current, 10 mA. -/
def iHold (s : State) (c : Nat) : Nat := s.act.fld .vdr (64 * c + 424) 8
def holdFull (s : State) (c : Nat) : Bool := s.act.flag .vdr (64 * c + 438)

/-- The values a pull-in or a decay that begins now completes under (R186). -/
def driveNow (s : State) (c : Nat) (window : Tick) : Drive :=
  { searchWin := window, sigMin := sigMin s c, sig := sigEn s c
    iPull := iPull s c, offMin := tOffMin s, iTail := s.act.fld .vdr (64 * c + 432) 6, clampV := s.act.fld .vdr 16 8 }

/-- The bank of a channel (R19). -/
def bankOf (c : Fin 96) : Fin 12 := ⟨c.val / 8, by omega⟩
/-- The valve die of a bank (R309): Z(b/2 + 1). -/
def dieOf (b : Fin 12) : Fin 6 := ⟨b.val / 2, by omega⟩
/-- The context of a channel (R19). -/
def ctxOf (c : Fin 96) : Fin 160 := ⟨c.val, by omega⟩

/-- Bits of a context's record in the active implement set; the field map's reset values while no set is active. -/
def ctxFld (s : State) (i : Fin 160) (lo w : Nat) : Nat :=
  match s.impl.active with
  | some a => bits a.ctx[i].toNat lo w
  | none => bits (ctxReset i.val).toNat lo w

def ctxEnabled (s : State) (i : Fin 160) : Bool := s.impl.active.isSome && ctxFld s i 0 1 == 1

/-- The mode a bank works in (R187, R203, R216, R426 BOOST): 0 AUTO, 1 BATTERY, 2 BOOST_ALWAYS. -/
def feedMode (s : State) (b : Fin 12) : Nat :=
  let m := s.act.fld .vdr (16 * b.val + 192) 2
  if !boostEn s || s.vdr.conv.fault then 1
  else if m = 0 ∧ (s.vdr.conv.sag ∨ 3 * s.vdr.shed[dieOf b] ≥ 65536) then 1
  else m

/-- The channel refuses starts (R220, R222, R223, R227, R231). -/
def latchedOff (s : State) (c : Fin 96) : Bool :=
  s.vdr.prot[c].tripLatch || s.vdr.prot[c].stageHot || s.vdr.prot[c].coilLatch || s.vdr.bank[bankOf c].isolated != 0

/-! ### Changing one channel, bank, record -/

def modCh (c : Fin 96) (f : Chan → Chan) (s : State) : State := s.onVdr fun v => { v with ch := vmod v.ch c f }
def modBank (b : Fin 12) (f : Bank → Bank) (s : State) : State := s.onVdr fun v => { v with bank := vmod v.bank b f }
def modLat (i : Fin 160) (f : Lat → Lat) (s : State) : State := s.onVdr fun v => { v with lat := vmod v.lat i f }
def modProt (c : Fin 96) (f : Prot → Prot) (s : State) : State := s.onVdr fun v => { v with prot := vmod v.prot c f }
def modNoz (c : Fin 96) (f : Noz → Noz) (s : State) : State := s.onPwu fun v => { v with noz := vmod v.noz c f }

/-! ### Firing records (R209, R14, R475) -/

/-- A firing record as its 16 bytes (R209). -/
def Firing.code (f : Firing) : BitVec 128 := BitVec.ofNat 128 <|
  f.pm % 2 ^ 64 ||| f.ctx <<< 64 ||| b2n f.closing <<< 72 ||| b2n f.battery <<< 73 ||| b2n f.noSig <<< 74 ||| b2n f.cut <<< 75
    ||| b2n f.deferred <<< 76 ||| b2n f.held <<< 77 ||| b2n f.recommand <<< 78 ||| b2n f.overDmax <<< 79
    ||| (f.latency % 2 ^ 32) <<< 80

/-- A subscription to the firing trace keeps a record of its channels, at most 1,024 (R475). -/
def Sub.trace (f : Firing) (u : Sub) : Sub :=
  if u.enable && u.item == 0x0D && u.first ≤ f.ctx && f.ctx < u.first + u.count then
    (if u.records.length < 1024 then { u with records := u.records ++ [f.code] }
     else { u with records := u.records.drop 1 ++ [f.code], traceLost := incMod 32 u.traceLost 1 })
  else u

/-- Write a firing record: into the bank store of 64, whose oldest makes room and is counted (R14), and into the
firing trace. Painting leaves the discarded interval out. Marks: DEDUCED (log 55). -/
def writeFiring (c : Fin 96) (f0 : Firing) (s : State) : State :=
  let b := bankOf c
  let st := s.vdr.bank[b].store
  let f := { f0 with fresh := !f0.closing && s.vdr.ch[c].fresh }
  let s0 := if f.fresh then modCh c (fun h => { h with fresh := false }) s else s
  let s1 := modBank b (fun k => if st.length < 64 then { k with store := k.store ++ [f] }
    else { k with
      store := k.store.drop 1 ++ [f], paintLost := k.paintLost + 1
      dropped := k.dropped ++ (st.take 1).filter fun o => !k.dropped.any fun x => x.ctx == o.ctx }) s0
  let s2 := s1.onHost fun h => { h with port := vmap h.port fun q => { q with subs := vmap q.subs (Sub.trace f) } }
  match st with
  | [] => s2
  | o :: _ =>
    if st.length < 64 then s2 else paintGap b.val 0 o.pm o.pm 1 (notice .vdr 0x0A b.val [] s2)

/-- VDR writes a coil reference itself: both copies and the NOR (R219, R20). -/
def putCoil (lo v : Nat) (s : State) : State :=
  ((s.onAct fun a => a.put .vdr lo 16 v).onShd fun a => a.put .vdr lo 16 v).onNor fun n => { n with params := n.params.put .vdr lo 16 v }

/-! ### Learned latencies (R210 to R213) -/

/-- One value after a measurement of `m` ticks: the update of R211 at 2⁻⁴ tick, truncated toward zero. -/
def learnValue (val m : Nat) : Nat := ((val : Int) + ((16 * m : Int) - val).tdiv 16).toNat

/-- The measurement deviates by more than 0.3·λ (R212). -/
def deviates (val m : Nat) : Bool := 10 * ((16 * m : Int) - val).natAbs > 3 * val

/-- Apply a measured latency to value `k` of context `i` (R211, R212). -/
def learn (i : Fin 160) (k : Fin 4) (m : Nat) (s : State) : State :=
  let l := s.vdr.lat[i]
  let val := l.val[k]
  if deviates val m then
    let run := l.driftRun[k] + 1
    let dev := l.dev[k] + 16 * m
    if run ≥ 8 then
      let val' := if driftSnap s then dev / 8 else learnValue val m
      notice .vdr 0x01 i.val (leBytes 4 k.val ++ leBytes 4 val')
        (modLat i (fun l => { l with val := l.val.set k val', driftRun := l.driftRun.set k 0, dev := l.dev.set k 0,
                                     drift := l.drift.set k true }) s)
    else modLat i (fun l => { l with val := l.val.set k (learnValue val m), driftRun := l.driftRun.set k run,
                                     dev := l.dev.set k dev }) s
  else modLat i (fun l => { l with val := l.val.set k (learnValue val m), driftRun := l.driftRun.set k 0,
                                   dev := l.dev.set k 0 }) s

/-- The value a firing updates: on or off, boost or battery (R210). -/
def latKind (off battery : Bool) : Fin 4 :=
  if off then (if battery then 3 else 1) else (if battery then 2 else 0)

/-- Learned latency in ticks, rounded to the nearest, a tie up (R210). -/
def latTicks (s : State) (i : Fin 160) (k : Fin 4) : Tick := (s.vdr.lat[i].val[k] + 8) / 16

/-- Battery latencies are not updated in LOW_SUPPLY (R463). -/
def learnAllowed (s : State) (k : Fin 4) : Bool := !(s.pwr.lowSupply && (k == 2 || k == 3))

/-- Context faults stop a local context under CTX_FAULT_ACTION 0b01 (R428): the reaction of R434. -/
def contextReaction (s : State) : Nat := if s.act.fld .safe 16 2 = 1 then reactContext else reactReport

/-- A channel's NO_MOTION, SHORTED_TURNS or OPEN_LOAD is recorded as a context fault; the context stops at the next freeze
where CTX_FAULT_ACTION says so (R426, R428). -/
def contextFault (c : Fin 96) (detail : Nat) (s : State) : State := logFault 0x1F .vdr c.val (contextReaction s) 0 detail s

/-- A miss of an opening (R213); the fourth in a row sets NO_MOTION. -/
def countMiss (c : Fin 96) (s : State) : State :=
  let i := ctxOf c
  let run := s.vdr.lat[i].missRun + 1
  let s1 := modLat i (fun l => { l with missRun := min run 4, misses := incMod 32 l.misses 1 }) s
  if run = 4 then
    contextFault c 0x02 (notice .vdr 0x02 c.val [] (modLat i (fun l => { l with noMotion := true }) s1))
  else s1

/-- The opening search of a start ends without a signature at tick `t` (R207, R213): an unmeasured opening is written,
and the start is a miss, or indeterminate and changes nothing. -/
def endSearch (c : Fin 96) (t : Tick) (s : State) : State :=
  let h := s.vdr.ch[c]
  if h.searching then
    let s1 := writeFiring c { pm := h.startAt, ctx := c.val, battery := h.battery, noSig := true, cut := h.cut,
                              deferred := h.deferred, recommand := h.recommand, overDmax := h.overDmax } 
                (modCh c (fun h => { h with searching := false, confirmed := false }) s)
    let lrn := s.vdr.lat[ctxOf c].val[latKind false h.battery]
    let full := t ≥ h.startAt + h.onSet.searchWin || 16 * t > 16 * h.startAt + 2 * lrn
    if h.indeterminate || h.faulted || s.vdr.prot[c].openLoad || !full then s1 else countMiss c s1
  else s

/-! ### Windows and arbitration (R188, R194, R195) -/

/-- The window of a bank that holds `t`, its guard gap included (R194). -/
def windowAt (ws : List Win) (t : Tick) : Option Win := ws.find? fun w => w.start ≤ t && t < w.stop + w.guard

/-- The feed state a bank is left in at `t` with these windows (R188). -/
def feedFor (ws : List Win) (t : Tick) : FeedState :=
  if ws.any fun w => w.start ≤ t + 320 && t < w.stop then .bst
  else if ws.any fun w => w.stop ≤ t && t < w.stop + w.guard then .guard
  else .bat

/-- What arbitration gives a start: its tick, its pull-in time, and whether it opens or joins a window. -/
structure Grant where
  at_ : Tick := 0
  len : Tick := 0
  opens : Bool := false
  joins : Option Tick := none
deriving DecidableEq, Repr, Inhabited

/-- The loop of R194 from tick `t`, at most `n` steps (each leaves one window behind). -/
def arbitrateFrom (ws : List Win) (tp tmin : Tick) : Nat → Tick → Grant
  | 0, t => { at_ := t, len := tp, opens := true }
  | n + 1, t =>
    match windowAt ws t with
    | none => { at_ := t, len := tp, opens := true }
    | some w =>
      if t < w.stop ∧ w.stop - t ≥ tmin then { at_ := t, len := min tp (w.stop - t), joins := some w.start }
      else arbitrateFrom ws tp tmin n (w.stop + w.guard)

/-- The grant for channel `c` due at `d` in its bank's windows. -/
def arbitrate (s : State) (c : Fin 96) (d : Tick) : Grant :=
  let ws := s.vdr.bank[bankOf c].windows
  arbitrateFrom ws (tPull s c.val) (tPullMin s c.val) (ws.length + 1) d

/-- The channel's low side drives its coil. -/
def chanOn (h : Chan) : Bool := h.st == .pullIn || h.st == .hold

/-- The coil temperature at `t`, 0.1 °C: 0 before any measurement; held while the channel is on; while it is off it
falls from the last measured value towards the baseplate's with TAU_COIL, over the off time since then (R226, R231).
Marks: DEDUCED (log 58). -/
def coilEstimate (s : State) (c : Fin 96) (t : Tick) : Int :=
  let p := s.vdr.prot[c]
  if !p.tempSeen then 0
  else if chanOn s.vdr.ch[c] then p.coilHeld
  else
    let tb := s.ths.zone[(9 : Fin 10)].temp
    tb + roundDiv ((p.coilTemp - tb) * expNeg ((p.coolTime + (t - p.tempAt)) * 4294967296 / (800000000 * max 1 (s.act.fld .vdr 6544 8)))) 1099511627776

/-- The pull-in of channel `c` begins at `t`. With SIG_EN = 0 no search runs and the opening is recorded unmeasured
(R213). Marks: DEDUCED (log 55). -/
def beginPullIn (c : Fin 96) (t : Tick) (s : State) : State :=
  let h := s.vdr.ch[c]
  let temp := coilEstimate s c t
  let s1 := modProt c (fun p => { p with firstOn := some (p.firstOn.getD t), offPassFrom := none, coilHeld := temp, coolTime := p.coolTime + (t - p.tempAt), tempAt := t })
    (modCh c (fun h => { h with st := .pullIn, startAt := t, searching := sigEn s c.val, confirmed := false, faulted := false,
                                onSet := driveNow s c.val (sigOnWin s) }) s)
  if sigEn s c.val then s1
  else writeFiring c { pm := t, ctx := c.val, battery := h.battery, noSig := true, cut := h.cut, deferred := h.deferred,
                       recommand := h.recommand, overDmax := h.overDmax } s1

/-- Reserve or begin a start at `t` for `len` (R190, R191). -/
def placeStart (c : Fin 96) (d t len : Tick) (battery opener cut beyond recommand indet : Bool) (s : State) : State :=
  let s1 := modCh c (fun h => { h with
    st := .pending, startAt := t, dueAt := d, pullEnd := t + len, battery := battery, opener := opener, cut := cut,
    deferred := decide (t > d), overDmax := beyond, recommand := recommand, held := false, queued := false, unplaced := false,
    indeterminate := indet }) s
  if t ≤ s.pm then beginPullIn c t s1 else s1

/-- A start request that meets its channel in OFF, due at `d` (R194, R195, R199). The tick granted is the second
component. -/
def startChannel (c : Fin 96) (d : Tick) (recommand indet : Bool) (s : State) : State × Tick :=
  let b := bankOf c
  let tp := tPull s c.val
  match feedMode s b with
  | 0 =>
    let g := arbitrate s c d
    let late := g.at_ - d > dMax s
    if late ∧ ctxFld s (ctxOf c) 3 1 = 1 then (placeStart c d d tp true false false false recommand indet s, d)
    else
      let w : List Win := if g.opens then
          insertBy Win.start { start := g.at_, stop := g.at_ + g.len, guard := guardGap s, opener := c.val } s.vdr.bank[b].windows
        else s.vdr.bank[b].windows.map fun w => if some w.start = g.joins then { w with joined := w.joined + 1 } else w
      let s1 := modBank b (fun k => { k with windows := w,
                                             feed := if g.opens ∧ g.at_ ≤ s.pm then .bst else k.feed,
                                             onVbst := if g.opens ∧ g.at_ ≤ s.pm then true else k.onVbst }) s
      let s2 := if late then notice .vdr 0x03 c.val [] s1 else s1
      (placeStart c d g.at_ g.len false g.opens (decide (g.len < tp)) (decide late) recommand indet s2, g.at_)
  | 2 => (placeStart c d d tp false false false false recommand indet s, d)
  | _ => (placeStart c d d tp true false false false recommand indet s, d)

/-! ### Off requests and decays (R193, R197, R198, R200) -/

/-- The feed of a bank is on VBST at `t`: in BOOST_ALWAYS or inside a window (R200). -/
def feedBoost (s : State) (b : Fin 12) (t : Tick) : Bool :=
  feedMode s b == 2 || s.vdr.bank[b].windows.any fun w => inWindow w.start w.stop t

/-- The feed of a bank is connected to VBST at `t`: in BOOST_ALWAYS, inside a window, or in the lead before one (R187,
R188). -/
def feedOnVbst (s : State) (b : Fin 12) (t : Tick) : Bool :=
  feedMode s b == 2 || s.vdr.bank[b].windows.any fun w => w.start ≤ t + 320 && t < w.stop

/-- VBST lies at least 12 V above VBAT, both as last measured, 10 mV. Marks: DESIGN CHOICE (log 56). -/
def recoveryMargin (s : State) : Bool := s.vdr.conv.vbst ≥ s.vdr.conv.vbat + 1200

/-- A decay of channel `c` starts at `t` (R193): recovered with the feed on VBAT, the margin there and nothing
diverted. `clamp` forces the clamp; `stage` marks a firing ended by a fault. Marks: DESIGN CHOICE (log 56). -/
def beginDecay (c : Fin 96) (t : Tick) (wasHeld clamp stage : Bool) (s : State) : State :=
  let boost := feedBoost s (bankOf c) t
  let s0 := if stage then modCh c (fun h => { h with faulted := true }) s else s
  modCh c (fun h => { h with
    st := .decay, offPm := t, offBattery := !boost, fast := true, held := wasHeld, queued := false,
    recover := !clamp && !feedOnVbst s (bankOf c) t && recoveryMargin s && !s.vdr.conv.divert, clampNow := false
    closeSearch := sigEn s c.val, offSet := driveNow s c.val (sigOffWin s) })
    (modProt c (fun p => { p with tempAt := t }) (endSearch c t s0))

/-- A bank's windows without one; a feed it had already called to VBST goes back (R188, R197). -/
def Bank.dropWindow (k : Bank) (now : Tick) (p : Win → Bool) : Bank :=
  let ws := k.windows.filter fun w => !p w
  if k.windows.any p && k.feed == .bst then
    { k with windows := ws, feed := feedFor ws now, onVbst := feedFor ws now == .bst, offVbst := max k.offVbst now }
  else { k with windows := ws }

/-- An off request cancels a reserved start; a window it opened and nobody joined goes with it (R197). Marks: DEDUCED
(log 54). -/
def cancelStart (c : Fin 96) (s : State) : State :=
  let h := s.vdr.ch[c]
  let s1 := modCh c (fun h => { h with st := .off, queued := false, unplaced := false, offSince := s.pm }) s
  if h.opener && !h.unplaced then
    modBank (bankOf c) (fun k => k.dropWindow s.pm fun w => w.opener == c.val && w.start == h.startAt && w.joined == 0) s1
  else s1

/-- The start of a PENDING channel comes due: its pull-in begins, or a start that waited for T_off_min is arbitrated
now (R190, R194, R198). The second component is the start tick granted. Marks: DEDUCED (log 54). -/
def dueStart (c : Fin 96) (s : State) : State × Option Tick :=
  let h := s.vdr.ch[c]
  if h.unplaced then
    (if latchedOff s c || s.pwr.groundLost || s.pwr.reverseBatt then (modCh c (fun h => { h with st := .off, unplaced := false, offSince := s.pm }) s, none)
     else (let r := startChannel c h.dueAt true h.indeterminate s; (r.1, some r.2)))
  else (beginPullIn c h.startAt s, none)

/-- An off request for channel `c` at `t` (R198); a reserved start whose tick has come is a pull-in. Marks: DEDUCED
(log 54). -/
def offRequest (c : Fin 96) (t : Tick) (stage : Bool) (s : State) : State :=
  match s.vdr.ch[c].st with
  | .off => s
  | .pending =>
    if s.vdr.ch[c].startAt ≤ t then
      let s1 := (dueStart c s).1
      if s1.vdr.ch[c].st = .pullIn then modCh c (fun h => { h with held := true, faulted := h.faulted || stage }) s1
      else if s1.vdr.ch[c].st = .pending then cancelStart c s1
      else s1
    else cancelStart c s
  | .pullIn => modCh c (fun h => { h with held := true, faulted := h.faulted || stage }) s
  | .hold => beginDecay c t false false stage s
  | .decay => modCh c (fun h => { h with queued := false }) s

/-- The low side goes off at once at `t`, with a clamp decay (R229, R431, R464). A recovery in progress goes on by the
clamp; what it has recovered is booked with the end of its fast phase (R205). Marks: DESIGN CHOICE (log 56). -/
def forceOff (c : Fin 96) (t : Tick) (s : State) : State :=
  match s.vdr.ch[c].st with
  | .off => s
  | .pending => cancelStart c s
  | .pullIn | .hold => beginDecay c t false true true s
  | .decay => modCh c (fun h => { h with queued := false, clampNow := true }) s

/-- Starts act: ground present, no reverse battery (R465, R466). -/
def startsAct (s : State) : Bool := !s.pwr.groundLost && !s.pwr.reverseBatt

/-- A start request for channel `c`, due at `d` (R198, R229). The second component is the start tick granted, where the
request is granted one now. -/
def startRequest (c : Fin 96) (d : Tick) (s : State) : State × Option Tick :=
  if latchedOff s c || !startsAct s then (s, none)
  else
    match s.vdr.ch[c].st with
    | .off => (let r := startChannel c d false false s; (r.1, some r.2))
    | .pending => (s, some s.vdr.ch[c].startAt)
    | .pullIn => (modCh c (fun h => { h with held := false }) s, some d)
    | .hold => (s, some d)
    | .decay => (modCh c (fun h => { h with queued := true }) s, none)

/-- A closing record for the decay of channel `c` (R209): CUT, DEFERRED, RECOMMAND and OVER_DMAX belong to the record
of a start, HELD to that of an off (R195, R198). Marks: DEDUCED (log 55). -/
def closingRecord (h : Chan) (c : Fin 96) (pm : Tick) (noSig : Bool) : Firing :=
  { pm := pm, ctx := c.val, closing := true, battery := h.offBattery, noSig := noSig, held := h.held,
    latency := if noSig then 0 else pm - h.offPm }

/-- The context fault of a channel ends once none of its conditions is left (R434). -/
def contextClear (c : Fin 96) (s : State) : State :=
  let p := s.vdr.prot[c]
  if p.openLoad || p.overcurrent || p.shortGnd || p.overload || p.stageHot || p.coilHot || p.shortedTurns
      || s.vdr.lat[ctxOf c].noMotion then s
  else endFault 0x1F c.val s

/-- A retry that completes without a trip clears its fault bits (R223). -/
def finishRetry (c : Fin 96) (s : State) : State :=
  let p := s.vdr.prot[c]
  if p.retrying ∧ !p.tripLatch then
    contextClear c (modProt c (fun p => { p with retrying := false, overcurrent := false, overload := false }) s)
  else s

/-- The converter runs in STANDBY, ARMED, MANUAL and COAST, unless BOOST_EN or a fault keeps it off; in SAFE it goes on while
it has a decay to wait for (R202, R426 BOOST). -/
def convRuns (s : State) : Bool :=
  boostEn s && !s.vdr.conv.fault && (match s.sys.dev with
    | .standby | .armed | .manual | .coast => true
    | .safe => s.vdr.conv.stopping
    | _ => false)

/-- The converter follows what allows it to run. -/
def syncConv (s : State) : State := s.onVdr fun v => { v with conv := { v.conv with on := convRuns s } }

/-- A decay is in progress or still to come: of a channel that is on. -/
def anyDecay (s : State) : Bool := vany s.vdr.ch fun h => h.st == .decay || chanOn h

/-- In SAFE the converter keeps VBST until the last decay has ended, then returns what is stored and stops (R202). -/
def settleConv (s : State) : State :=
  if s.vdr.conv.stopping ∧ !anyDecay s then s.onVdr fun v => { v with conv := { v.conv with on := false, stopping := false } } else s

/-- The decay of channel `c` ends at `t` (R193, R198): OFF, or the start queued in it is arbitrated on the tick of its due
postmark, until which the channel is PENDING (R194). `measured`: its closing was confirmed. The second component is the
start tick granted. -/
def finishDecay (c : Fin 96) (t : Tick) (measured : Bool) (s : State) : State × Option Tick :=
  let h := s.vdr.ch[c]
  let s1 := settleConv (finishRetry c (modCh c (fun h => { h with st := .off, fast := false, closeSearch := false, queued := false, offSince := t }) s))
  let d := max t (h.offPm + h.offSet.offMin)
  if h.queued ∧ !(latchedOff s1 c) ∧ startsAct s1 then
    if d ≤ s.pm then (let r := startChannel c d true (!measured) s1; (r.1, some r.2))
    else (modCh c (fun h => { h with
      st := .pending, unplaced := true, startAt := d, dueAt := d, opener := false, indeterminate := !measured }) s1, none)
  else (s1, none)

/-- Banks whose feed a change takes from BOOST_ALWAYS have lain on VBST until `t` (R187, R224). -/
def leaveVbst (was : State) (t : Tick) (s : State) : State :=
  let left (b : Fin 12) : Bool := feedMode was b == 2 && feedMode s b != 2
  s.onVdr fun v => { v with bank := vmapIdx v.bank fun b k => if left b then { k with offVbst := t } else k }

/-! ### Isolation (R222) -/

def allCh : List (Fin 96) := List.finRange 96
/-- The channels of a bank (R19). -/
def bankChans (b : Fin 12) : List (Fin 96) := allCh.filter fun c => bankOf c == b

/-- Both feed switches off: every channel of the bank goes off through its clamp, windows and reserved starts are
removed. Marks: DEDUCED (log 59). -/
def isolateBank (b : Fin 12) (cause : Nat) (s : State) : State :=
  let s1 := (bankChans b).foldl (fun t c => forceOff c t.pm t) s
  let s2 := modBank b (fun k => { k with windows := [], isolated := cause, isolAt := s.pm, feed := .bat, onVbst := false,
                                         offVbst := s.pm, reconnect := none }) s1
  notice .vdr 0x10 b.val (leBytes 4 cause) s2

def isolatedBanks (s : State) : Nat := vcount s.vdr.bank fun k => k.isolated != 0

/-! ### The rail (R202, R203, R216), 10 mV -/

/-- The target of R202 before any lowering: max(VBST_SET, VBAT + 12 V), at most 72 V; 70 V under a load dump (R203). -/
def rawTarget (s : State) (vbat : Nat) : Nat :=
  if s.pwr.loadDump then 7000 else min 7200 (max (50 * s.act.fld .vdr 0 8) (vbat + 1200))

/-- The target with the lowest of the banks' thermal lowerings (R216): linear for r below 1/3; from there on the share no
longer counts (R317). -/
def vbstTarget (s : State) (vbat : Nat) : Nat :=
  let t := rawTarget s vbat
  let floor := max 2400 (vbat + 1200)
  let low (r : Nat) : Nat := if floor ≥ t ∨ 3 * r ≥ 65536 then t else t - (t - floor) * (3 * r) / 65536
  (vlist s.vdr.shed).foldl (fun m r => min m (low r)) t

end Sys2Proof.Machine
end

