-- ==== Sys2Proof/Machine/Pwm.lean ====
section
/-! DEFINITION. PWU: bank grids, nozzle generators, fine generators, trigger outputs, and their commands (10). PB.PWU
follows R233, the notices are those of R249. -/

namespace Sys2Proof.Machine

def modGrid (b : Fin 12) (f : Grid → Grid) (s : State) : State := s.onPwu fun v => { v with grid := vmod v.grid b f }
def modFine (g : Fin 8) (f : Fine → Fine) (s : State) : State := s.onPwu fun v => { v with fine := vmod v.fine g f }
def modTrig (j : Fin 4) (f : TrigOut → TrigOut) (s : State) : State := s.onPwu fun v => { v with trig := vmod v.trig j f }

/-! ### Trigger outputs (R246) -/

def trigKind (s : State) (j : Fin 4) : Nat := s.act.fld .pwu (32 * j.val + 1408) 3
def trigIndex (s : State) (j : Fin 4) : Nat := s.act.fld .pwu (32 * j.val + 1412) 7
def trigWidth (s : State) (j : Fin 4) : Tick := 8 * s.act.fld .pwu (32 * j.val + 1424) 8
def trigPresc (s : State) (j : Fin 4) : Nat := s.act.fld .pwu (32 * j.val + 1432) 4

/-- POL: active low. -/
def trigLow (s : State) (j : Fin 4) : Bool := s.act.flag .pwu (32 * j.val + 1411)

/-- Trigger outputs run from STANDBY on, SAFE and COAST included (R247). -/
def trigRuns (s : State) : Bool :=
  match s.sys.dev with
  | .standby | .armed | .manual | .coast | .safe => true
  | _ => false

/-- A source instant of a trigger output: counted by the prescaler; every (PRESC + 1)-th gives a pulse two ticks later; an
instant within a pulse gives none and is missed. `tap` places a fine source within its tick. -/
def trigCount (j : Fin 4) (t : Tick) (tap : Nat) (s : State) : State :=
  let o := s.pwu.trig[j]
  let inPulse := (o.active && decide (t < o.endAt)) || (match o.pulseAt with
    | some p => o.count == 0 || decide (p ≤ t)
    | none => false)
  let s1 := modTrig j (fun o => { o with count := if o.count = 0 then trigPresc s j else o.count - 1 }) s
  if inPulse then notice .pwu 0x04 j.val [] (modTrig j (fun o => { o with missed := o.missed + 1 }) s1)
  else if o.count = 0 then modTrig j (fun o => { o with pulseAt := some (t + 2), tap := tap, width := trigWidth s j }) s1
  else s1

/-- An instant of source `kind` with index `k` reaches the trigger outputs bound to it. -/
def trigSource (kind k : Nat) (t : Tick) (tap : Nat) (s : State) : State :=
  (List.finRange 4).foldl (fun u j =>
    if trigRuns u ∧ trigKind u j = kind ∧ (kind = 7 ∨ trigIndex u j = k) then trigCount j t tap u else u) s

/-! ### Bank grids (R234, R238) -/

/-- The write in force among those with effective tick below the limit; writes of one tick are ordered by arrival
(R237). -/
def latestWrite {α : Type} (before : Tick → Bool) (ws : List (Tick × α)) : Option α :=
  (ws.foldl (fun (acc : Option (Tick × α)) w =>
    if before w.1 then
      match acc with
      | some a => if a.1 ≤ w.1 then some w else acc
      | none => some w
    else acc) none).map (·.2)

def pendingAfter {α : Type} (before : Tick → Bool) (ws : List (Tick × α)) : List (Tick × α) := ws.filter fun w => !before w.1

/-- Position of a channel within its bank. -/
def slotOf (c : Fin 96) : Fin 8 := ⟨c.val % 8, by omega⟩

/-- The opening of a channel in the bank period begun at the last boundary: B + floor(PHASE × P / 256). -/
def openingOf (s : State) (c : Fin 96) : Tick :=
  let g := s.pwu.grid[bankOf c]
  g.b + g.phases[slotOf c] * g.period / 256

/-- The channel's first opening after tick `t`: in the present bank period, or in the next one with the period and phase it
will take at the boundary (R238). -/
def nextOpening (s : State) (c : Fin 96) (t : Tick) : Tick :=
  let g := s.pwu.grid[bankOf c]
  let o := openingOf s c
  if o > t then o
  else
    let nb := g.b + g.period
    let p := (latestWrite (fun w => w < nb) g.waitPeriod).getD g.period
    let ph := (latestWrite (fun w => w < nb) g.waitPhases).getD g.phases
    nb + ph[slotOf c] * p / 256

/-- BANK_BOUNDARY: the boundary B + P takes every period and phase change effective before it (R234, R238). -/
def execBankBoundary (b : Fin 12) (s : State) : Result :=
  let g := s.pwu.grid[b]
  let nb := g.b + g.period
  if trigRuns s ∧ nb ≤ s.pm then
    .next (trigSource 6 b.val nb 0 (modGrid b (fun g => { g with
      b := nb
      period := (latestWrite (fun w => w < nb) g.waitPeriod).getD g.period
      phases := (latestWrite (fun w => w < nb) g.waitPhases).getD g.phases
      waitPeriod := pendingAfter (fun w => w < nb) g.waitPeriod
      waitPhases := pendingAfter (fun w => w < nb) g.waitPhases }) s))
  else .next s

/-! ### Nozzle generators (R235, R236, R239) -/

/-- A duty write with its effective tick (R237). Marks: DEDUCED (log 73). -/
def writeDuty (c : Fin 96) (w : Tick) (d : Nat) (s : State) : State :=
  modNoz c (fun n => { n with writes := n.writes ++ [(w, d)], duty := d }) s

/-- The duty scale THS requires of a bank at an opening on tick `o` (R237, R239). -/
def scaleAt (s : State) (b : Fin 12) (o : Tick) : Nat :=
  let g := s.pwu.grid[b]
  if g.scaleAt < o then g.scale else g.scalePrev

/-- One on-time computation (R235): on-time and the next accumulator. Marks: DEDUCED (log 73). -/
def onTime (period acc duty : Nat) : Tick × Nat :=
  let x := acc + duty % 16
  (period * (duty / 16 + x / 16) / 4096, x % 16)

/-- Reload duty, scale and on-time at tick `t`; a start takes writes effective at `t`, an opening those before it. -/
def reloadNoz (c : Fin 96) (t : Tick) (start : Bool) (s : State) : State :=
  let before : Tick → Bool := fun w => if start then w ≤ t else w < t
  let n := s.pwu.noz[c]
  let b := bankOf c
  let shadow := (latestWrite before n.writes).getD n.active
  let k := scaleAt s b (if start then t + 1 else t)
  let d := if k < 65536 then shadow * k / 65536 else shadow
  let r := onTime s.pwu.grid[b].period (if start then 0 else n.acc) d
  modNoz c (fun n => { n with active := shadow, scaledDuty := d, writes := pendingAfter before n.writes, acc := r.2, onTime := r.1,
                              scaled := decide (k < 65536) }) s

/-- The closing of a pulse granted at `t` in the period begun at `o`; whether it merges is judged when it comes (R236, R238). -/
def scheduleClose (c : Fin 96) (t o : Tick) (s : State) : State :=
  modNoz c (fun n => { n with closeAt := some (t + n.onTime), openAt := o, merged := false }) s

/-- A closing at `cl` merges into the channel's next opening after that of its period (R236, R238). -/
def merges (s : State) (c : Fin 96) (cl : Tick) : Bool := decide (nextOpening s c s.pwu.noz[c].openAt < cl + tOffMin s)

/-- A start request of a generator at `t`, with the closing that belongs to it. Marks: DEDUCED (log 73). -/
def genStart (c : Fin 96) (t : Tick) (s : State) : State :=
  let r := startRequest c t s
  match r.2 with
  | some g => scheduleClose c g t r.1
  | none => modNoz c (fun n => { n with closeAt := none }) r.1

/-- An ON event at `d` starts the generator with a pull-in at `d`, whatever the on-time (R134, R236). Marks: DEDUCED
(log 54). -/
def genOn (c : Fin 96) (d : Tick) (s : State) : State :=
  let st := s.vdr.ch[c].st
  let fresh := !s.pwu.noz[c].running && st != .pullIn && st != .hold
  genStart c d (modCh c (fun h => { h with fresh := h.fresh || fresh }) <| modNoz c (fun n => { n with running := true, nextOpen := d + 1, closeAt := none, merged := false })
    (reloadNoz c d true s))

/-- An OFF event stops the generator (R236). -/
def genOff (c : Fin 96) (s : State) : State := modNoz c (fun n => { n with running := false, closeAt := none, merged := false }) s

/-- A merge holds the channel open into a period of zero on-time; a closing still to come at its opening has merged (R236). -/
def heldByMerge (s : State) (c : Fin 96) : Bool :=
  (s.pwu.noz[c].merged || s.pwu.noz[c].closeAt.isSome) && (s.vdr.ch[c].st == .hold || s.vdr.ch[c].st == .pullIn)

/-- GRID_OPENING: at its opening a running generator takes its values and issues a start request; a period of zero
on-time issues none, and closes a channel a merge held open, under the merge rule (R236). Marks: DEDUCED (log 2). -/
def execGridOpening (c : Fin 96) (s : State) : Result :=
  let o := openingOf s c
  let n := s.pwu.noz[c]
  if n.running ∧ n.nextOpen ≤ o ∧ o ≤ s.pm then
    let held := heldByMerge s c
    let s1 := modNoz c (fun n => { n with nextOpen := o + 1, openAt := o, closeAt := none }) (reloadNoz c o false s)
    if s1.pwu.noz[c].onTime = 0 then
      if held then
        if merges s1 c o then .next (modNoz c (fun n => { n with merged := true }) s1)
        else .next (trigSource 5 c.val o 0 (offRequest c o false (modNoz c (fun n => { n with merged := false }) s1)))
      else .next (modNoz c (fun n => { n with merged := false }) s1)
    else .next (trigSource 4 c.val o 0 (genStart c o s1))
  else .next s

/-- GRID_CLOSING: the closing of a pulse comes: it merges into the next opening, or its off request is issued (R236,
R238). Marks: DEDUCED (log 73). -/
def execGridClosing (c : Fin 96) (s : State) : Result :=
  match s.pwu.noz[c].closeAt with
  | some t =>
    if s.pwu.noz[c].running ∧ t ≤ s.pm then
      if merges s c t then .next (modNoz c (fun n => { n with closeAt := none, merged := true }) s)
      else .next (trigSource 5 c.val t 0 (offRequest c t false (modNoz c (fun n => { n with closeAt := none }) s)))
    else .next s
  | none => .next s

/-! ### Fine generators (R240 to R245) -/

def fineLo (g : Fin 8) : Nat := 128 * g.val + 384
def adaptEn (s : State) (g : Fin 8) : Bool := s.act.flag .pwu (fineLo g + 26)
def dtMin (s : State) (g : Fin 8) : Nat := s.act.fld .pwu (fineLo g + 32) 16
def dtMax (s : State) (g : Fin 8) : Nat := s.act.fld .pwu (fineLo g + 48) 16
def dtMargin (s : State) (g : Fin 8) : Nat := s.act.fld .pwu (fineLo g + 64) 16
def bootMin (s : State) (g : Fin 8) : Nat := s.act.fld .pwu (fineLo g + 80) 16
def trigSel (s : State) (g : Fin 8) : Nat := s.act.fld .pwu (fineLo g + 96) 3

/-- Counts of a period (R240). -/
def periodCounts (period : Nat) (centre : Bool) : Nat := if centre then 2 * period else period
/-- H_MAX, 78.125 ps (R240). -/
def hMax (period : Nat) (centre : Bool) : Nat := 32 * periodCounts period centre

/-- H_MAX of a generator's present period; of PERIOD_F and MODE while it does not run. -/
def fineHMax (s : State) (g : Fin 8) : Nat :=
  let f := s.pwu.fine[g]
  if f.running then hMax f.periodActive f.centre else hMax (s.act.fld .pwu (fineLo g) 24) (s.act.flag .pwu (fineLo g + 25))

/-- The gates may switch: the states of R247 with ground and polarity right. -/
def gatesAllowed (s : State) : Bool :=
  (match s.sys.dev with
   | .standby | .armed | .manual | .coast => true
   | _ => false) && startsAct s

/-- An internal trigger event of a generator at instant `u`, 78.125 ps, passes its prescaler and is delivered with its
postmark and tap (R245). -/
def fineTrigger (g : Fin 8) (kind u : Nat) (s : State) : State :=
  let t := u / 160
  let s1 := trigSource (kind + 1) g.val t (u % 160) s
  if bitN (trigSel s g) kind then
    let f := s.pwu.fine[g]
    if f.trigCount = 0 then
      modFine g (fun f => { f with trigCount := s.act.fld .pwu (fineLo g + 100) 4, trigAt := some t, trigTap := u % 32 }) s1
    else modFine g (fun f => { f with trigCount := f.trigCount - 1 }) s1
  else s1

/-- A CMP write arrives (R237, R263): it waits for the next period start. A CMP above H_MAX is clamped (R240). -/
def writeCmp (g : Fin 8) (v : Nat) (s : State) : State := modFine g (fun f => { f with cmpWait := f.cmpWait ++ [(5 * s.pm, v)] }) s

/-- Reload at a period start on count `r` (R237, R244). Marks: DEDUCED (log 73). -/
def Fine.reload (f : Fine) (r : Nat) : Fine :=
  let before : Nat → Bool := fun w => w < r
  let pair := latestWrite before f.pairWait
  let p := (pair.map (·.1)).getD f.periodActive
  let m := (pair.map (·.2)).getD f.centre
  let cmp := latestWrite before f.cmpWait
  let raw := cmp.getD f.cmpActive
  let beyond := decide (raw > hMax p m)
  let split := beyond && cmp.isSome && pair.isSome && decide (raw ≤ hMax f.periodActive f.centre)
  { f with periodActive := p, centre := m, cmpActive := min raw (hMax p m),
           cmpWait := pendingAfter before f.cmpWait, pairWait := pendingAfter before f.pairWait,
           splitUpdate := f.splitUpdate || split, startAt := r, periods := incMod 32 f.periods 1, peakDone := false }

/-- The reload on count `r` clamps a CMP that its own change of the pair has brought beyond H_MAX (R244). -/
def Fine.splits (f : Fine) (r : Nat) : Bool := ({ f with splitUpdate := false }.reload r).splitUpdate

/-- A period start on count `r` that repeats the last CMP and PERIOD_F, while CE restarts (R247). -/
def Fine.repeated (f : Fine) (r : Nat) : Fine := { f with startAt := r, peakDone := false, periods := incMod 32 f.periods 1 }

/-- GL would be on for less than BOOT_MIN in a period (R243). -/
def needsRefresh (boot : Nat) (f : Fine) : Bool := decide (f.cmpActive + 32 * boot > hMax f.periodActive f.centre) && boot != 0

/-- Where the node target of the present period rises, 78.125 ps: at the start, or half of CMP before the peak (R240). -/
def Fine.riseAt (f : Fine) : Nat :=
  if f.centre then 32 * (f.startAt + f.periodActive) - f.cmpActive / 2 else 32 * f.startAt
/-- Where it falls. -/
def Fine.fallAt (f : Fine) : Nat := f.riseAt + f.cmpActive
/-- Where the period ends. -/
def Fine.endAt (f : Fine) : Nat := 32 * (f.startAt + periodCounts f.periodActive f.centre)
/-- Where GH goes off: with the target, or earlier, so that GL is on for BOOT_MIN before the period ends (R241, R243). -/
def Fine.offAt (boot : Nat) (f : Fine) : Nat := if needsRefresh boot f then f.endAt - 32 * boot else f.fallAt
/-- The target has stayed high to the end of the last period and is low from the start of this one, a CENTRE period (R240). -/
def Fine.dropsAtStart (f : Fine) : Bool := f.target && decide (f.lastEdge < 32 * f.startAt) && decide (32 * f.startAt < f.riseAt)
/-- Where a high target, or GH, next goes low. -/
def Fine.lowAt (boot : Nat) (f : Fine) : Nat := if f.dropsAtStart then 32 * f.startAt else f.offAt boot

/-- A transition is due by the end of the tick of `t`: rising once a period where CMP is not 0; falling where the
target, or GH for the refresh, does not stay high to the period's end (R240, R243). Marks: DEDUCED (log 73). -/
def transitionDue (s : State) (g : Fin 8) (rising : Bool) : Bool :=
  let f := s.pwu.fine[g]
  let off := f.offAt (bootMin s g)
  let low := f.lowAt (bootMin s g)
  if rising then !f.target && decide (f.riseAt < 160 * (s.pm + 1)) && decide (f.lastEdge ≤ f.riseAt) && decide (f.riseAt < off)
  else f.target && decide (low < 160 * (s.pm + 1)) && decide (low < f.endAt)

/-- The peak of a CENTRE period is an event of its own once it has come (R245). Marks: DEDUCED (log 73). -/
def finePeak (g : Fin 8) (s : State) : State :=
  let f := s.pwu.fine[g]
  let u := 32 * (f.startAt + f.periodActive)
  if f.running ∧ f.centre ∧ !f.peakDone ∧ u < 160 * (s.pm + 1) then fineTrigger g 1 u (modFine g (fun f => { f with peakDone := true }) s)
  else s

/-- The peaks that have come, of every generator. -/
def finePeaks (s : State) : State := (List.finRange 8).foldl (fun t g => finePeak g t) s

/-- TRIG_OUT_PULSE: the leading edge falls due. Marks: DEDUCED (log 73). -/
def execTrigOutPulse (j : Fin 4) (s0 : State) : Result :=
  let s := finePeaks s0
  match s.pwu.trig[j].pulseAt with
  | some t => if t ≤ s.pm then
      .next (modTrig j (fun o => { o with active := true, pulseAt := none, endAt := t + o.width, low := trigLow s j }) s) else .next s0
  | none => .next s0

/-- TRIG_OUT_PULSE_END: the trailing edge, WIDTH × 8 ticks after the leading one. -/
def execTrigOutPulseEnd (j : Fin 4) (s : State) : Result :=
  let o := s.pwu.trig[j]
  if o.active ∧ o.endAt ≤ s.pm then .next (modTrig j (fun o => { o with active := false }) s) else .next s

/-- A period of generator `g` has begun on count `r`: the notices of R249 and the zero event (R245). `was` is the generator
before. -/
def finePeriodBegun (g : Fin 8) (was : Fine) (split : Bool) (r : Nat) (s : State) : State :=
  let f := s.pwu.fine[g]
  let s1 := if split then notice .pwu 0x01 g.val [] s else s
  let s2 := if f.refreshRun ∧ !was.refreshRun then notice .pwu 0x03 g.val [] s1 else s1
  fineTrigger g 0 (32 * r) s2

/-- The generator in a period whose values are in force: BOOT_REFRESH where GH must end early (R243). -/
def Fine.judged (boot : Nat) (f : Fine) : Fine :=
  { f with bootRefresh := f.bootRefresh || needsRefresh boot f, refreshRun := needsRefresh boot f }

/-- FINE_PERIOD_START: a period ends and the next begins with the values waiting for it; the period event, or a peak not
delivered yet, comes before the zero event (R243 to R245). -/
def execFinePeriodStart (g : Fin 8) (s0 : State) : Result :=
  let s := finePeak g s0
  let f := s.pwu.fine[g]
  let r := f.startAt + periodCounts f.periodActive f.centre
  if f.running ∧ r < 5 * (s.pm + 1) then
    let f1 := (if s.restarting .control then f.repeated r else f.reload r).judged (bootMin s g)
    let split := !s.restarting .control && f.splits r
    let s1 := if f.centre then s else fineTrigger g 1 (32 * r) s
    let s2 := modFine g (fun x => { f1 with trigCount := x.trigCount, trigAt := x.trigAt, trigTap := x.trigTap }) s1
    .next (finePeriodBegun g f split r s2)
  else .next s0

/-- The dead time of a transition (R241). -/
def deadTime (s : State) (g : Fin 8) (cross : Option Nat) : Nat :=
  if adaptEn s g then
    match cross with
    | some x => max (dtMin s g) (min (dtMax s g) (x + dtMargin s g))
    | none => dtMax s g
  else dtMax s g

/-- The target's transition where the gates may not switch: they stay off (R247). -/
def Fine.targetOnly (rising : Bool) (at_ : Nat) (f : Fine) : Fine := { f with target := rising, lastEdge := at_ }

/-- GATE_TRANSITION: the node target rises or falls, or GH ends early for the refresh. One gate goes off at once, the
other on after the dead time, so the two are never on together (R241, R242); where the gates may not switch, the
target and its compare event go on (R245, R247). `cross` is when HBn_SW crossed half of VBAT, 78.125 ps after it,
where it did. Marks: DESIGN CHOICE (log 7), DEDUCED (log 73). -/
def execGateTransition (g : Fin 8) (rising : Bool) (cross : Option Nat) (s0 : State) : Result :=
  let s := finePeak g s0
  let f := s.pwu.fine[g]
  if f.running ∧ transitionDue s g rising then
    let low := f.lowAt (bootMin s g)
    let at_ := if rising then f.riseAt else low
    let fall := if f.dropsAtStart then low else f.fallAt
    let compare (t : State) : State := if rising ∨ f.endAt ≤ fall then t else fineTrigger g 2 fall t
    if gatesAllowed s then
      let dt := deadTime s g cross
      let no := adaptEn s g && (match cross with | some x => decide (x ≥ dtMax s g) | none => true)
      let s1 := modFine g (fun f => if rising then { f.targetOnly true at_ with gh := true, gl := false, dtRise := dt, noCross := f.noCross || no }
        else { f.targetOnly false at_ with gh := false, gl := true, dtFall := dt, noCross := f.noCross || no }) s
      .next (compare (if no then notice .pwu 0x02 g.val [] s1 else s1))
    else .next (compare (modFine g (fun f => f.targetOnly rising at_) s))
  else .next s0

/-- GH and GL off on every half-bridge (R247). -/
def gatesOff (s : State) : State :=
  s.onPwu fun v => { v with fine := vmap v.fine fun f => { f with gh := false, gl := false } }

/-- The trigger outputs inactive (R247). -/
def trigsOff (s : State) : State :=
  s.onPwu fun v => { v with trig := vmap v.trig fun o => { o with active := false, pulseAt := none } }

/-- Every nozzle generator STOPPED (R247). -/
def stopNozzles (s : State) : State :=
  s.onPwu fun v => { v with noz := vmap v.noz fun n => { n with running := false, closeAt := none, merged := false } }

/-! ### Commits of PB.PWU at frame edge `e` (R237, R238, R240, R244, R246) -/

/-- A fine generator under a commit: enabled, it starts from 0 with the values waiting for it; disabled, both gates go off;
while it runs, a changed pair waits for the next period start. -/
def commitFine (e : Tick) (old new : Params) (g : Fin 8) (f : Fine) : Fine :=
  let p := new.fld .pwu (fineLo g) 24
  let m := new.flag .pwu (fineLo g + 25)
  let en := new.flag .pwu (fineLo g + 24)
  let f1 := if old.fld .pwu (fineLo g + 96) 8 ≠ new.fld .pwu (fineLo g + 96) 8 then { f with trigCount := 0 } else f
  if en ∧ !f.running then
    let c := (latestWrite (fun _ => true) f.cmpWait).getD f.cmpActive
    { f1 with running := true, startAt := 5 * e, lastEdge := 160 * e, periodActive := p, centre := m, cmpActive := min c (hMax p m),
              cmpWait := [], pairWait := [], periods := 0, peakDone := false }.judged (new.fld .pwu (fineLo g + 80) 16)
  else if !en then
    { f1 with running := false, target := false, gh := false, gl := false, pairWait := [], refreshRun := false }
  else if old.fld .pwu (fineLo g) 24 ≠ p ∨ old.flag .pwu (fineLo g + 25) ≠ m then { f1 with pairWait := f1.pairWait ++ [(5 * e, p, m)] }
  else f1

/-- PB.PWU becomes active at edge `e`; a generator it enables begins its first period there (R240, R245). -/
def commitPwu (e : Tick) (old : Params) (s : State) : State :=
  let was := s.pwu.fine
  let s1 := s.onPwu fun v => { v with
    grid := vmapIdx v.grid fun b g =>
      let p := s.act.fld .pwu (32 * b.val) 32
      if old.fld .pwu (32 * b.val) 32 ≠ p then { g with waitPeriod := g.waitPeriod ++ [(e, p)] } else g
    fine := vmapIdx v.fine fun g f => commitFine e old s.act g f
    trig := vmapIdx v.trig fun j o =>
      if old.fld .pwu (32 * j.val + 1408) 32 ≠ s.act.fld .pwu (32 * j.val + 1408) 32 then { o with count := 0 } else o }
  (List.finRange 8).foldl (fun t g =>
    if s1.pwu.fine[g].running ∧ !was[g].running then finePeriodBegun g was[g] false (5 * e) t else t) s1

end Sys2Proof.Machine
end

