-- ==== Sys2Proof/Machine/Inputs.lean ====
section
/-! DEFINITION. Encoders, halls, frequency, event and analog inputs, encoder emulation, and their requests (12). A
command here is the acceptance of a change, on the tick of its FILTER-th sample; its postmark is that of the first one
(R33, R272). The notices are those of R289. -/

namespace Sys2Proof.Machine

def modEnc (i : Fin 4) (f : Enc → Enc) (s : State) : State := s.onPif fun v => { v with enc := vmod v.enc i f }
def modHall (i : Fin 4) (f : Enc → Enc) (s : State) : State := s.onPif fun v => { v with hall := vmod v.hall i f }
def modFreq (i : Fin 16) (f : Freq → Freq) (s : State) : State := s.onPif fun v => { v with freq := vmod v.freq i f }
def modEvt (i : Fin 8) (f : EvtIn → EvtIn) (s : State) : State := s.onPif fun v => { v with evt := vmod v.evt i f }
def modAin (i : Fin 32) (f : Ain → Ain) (s : State) : State := s.onPif fun v => { v with ain := vmod v.ain i f }
def modEmu (x : Fin 2) (f : Emu → Emu) (s : State) : State := s.onPif fun v => { v with emu := vmod v.emu x f }

/-- PD9 is powered: the interfaces count and postmark (12). -/
def pifRuns (s : State) : Bool := trigRuns s

/-! ### Parameters (R287) -/

/-- FILTER of an encoder, hall, frequency or event input. -/
def encFilter (s : State) (i : Fin 4) : Nat := s.act.fld .pif (128 * i.val) 8
def hallFilter (s : State) (i : Fin 4) : Nat := s.act.fld .pif (64 * i.val + 512) 8
def freqFilter (s : State) (i : Fin 16) : Nat := s.act.fld .pif (32 * i.val + 768) 8
def evtFilter (s : State) (i : Fin 8) : Nat := s.act.fld .pif (16 * i.val + 1280) 8

/-- The postmark of a change accepted now: the first of the FILTER samples that showed the new level (R33, R272).
Marks: DEDUCED (log 75). -/
def acceptedPm (s : State) (filter : Nat) : Tick := s.pm - (filter - 1)

/-- A line's new level has stood for FILTER samples since its last accepted change; a shorter pulse is rejected
(R272). Marks: DEDUCED (log 75). -/
def lineReady (s : State) (filter : Nat) (o : Option Tick) : Bool := o.all fun t => decide (t + filter ≤ s.pm)

/-- Each line that `chg` names is ready. -/
def linesReady (s : State) (filter chg : Nat) (v : Vector (Option Tick) 3) : Bool :=
  (List.finRange 3).all fun i => !bitN chg i.val || lineReady s filter v[i]

/-- Those lines are accepted now. -/
def acceptLines (now : Tick) (chg : Nat) (v : Vector (Option Tick) 3) : Vector (Option Tick) 3 :=
  vmapIdx v fun i o => if bitN chg i.val then some now else o

def encDirInv (s : State) (i : Fin 4) : Bool := s.act.flag .pif (128 * i.val + 8)
def indexMode (s : State) (i : Fin 4) : Nat := s.act.fld .pif (128 * i.val + 9) 2
def gateEn (s : State) (i : Fin 4) : Bool := s.act.flag .pif (128 * i.val + 11)
def gateAb (s : State) (i : Fin 4) : Nat := s.act.fld .pif (128 * i.val + 12) 2
def encWin (s : State) (i : Fin 4) : Tick := 800 * s.act.fld .pif (128 * i.val + 16) 16
def encStop (s : State) (i : Fin 4) : Tick := msTicks (s.act.fld .pif (128 * i.val + 32) 16)
def indexValue (s : State) (i : Fin 4) : Int := s.act.fldS .pif (128 * i.val + 64) 32
def hallDirInv (s : State) (i : Fin 4) : Bool := s.act.flag .pif (64 * i.val + 520)
def hallWin (s : State) (i : Fin 4) : Tick := 800 * s.act.fld .pif (64 * i.val + 528) 16
def hallStop (s : State) (i : Fin 4) : Tick := msTicks (s.act.fld .pif (64 * i.val + 544) 16)
def freqGate (s : State) (i : Fin 16) : Tick := msTicks (s.act.fld .pif (32 * i.val + 784) 16)
/-- EDGE: the falling edges are counted, else the rising ones (R280). -/
def freqFalling (s : State) (i : Fin 16) : Bool := s.act.flag .pif (32 * i.val + 776)
def evtEdges (s : State) (i : Fin 8) : Nat := s.act.fld .pif (16 * i.val + 1288) 2
def evtNotify (s : State) (i : Fin 8) : Bool := s.act.flag .pif (16 * i.val + 1290)
def emuSource (s : State) (x : Fin 2) : Nat := s.act.fld .pif (128 * x.val + 1408) 2
def emuEnc (s : State) (x : Fin 2) : Nat := s.act.fld .pif (128 * x.val + 1410) 2
def emuInv (s : State) (x : Fin 2) : Bool := s.act.flag .pif (128 * x.val + 1412)
def emuPpm (s : State) (x : Fin 2) : Nat := s.act.fld .pif (128 * x.val + 1424) 16
def emuNum (s : State) (x : Fin 2) : Nat := s.act.fld .pif (128 * x.val + 1440) 16
def emuDen (s : State) (x : Fin 2) : Nat := s.act.fld .pif (128 * x.val + 1456) 16
def emuIndexDiv (s : State) (x : Fin 2) : Nat := s.act.fld .pif (128 * x.val + 1472) 16
def emuPointY (s : State) (x : Fin 2) : Int := s.act.fldS .pif (128 * x.val + 1488) 32
/-- The highest value, mV, of the range RANGE selects (R282). -/
def ainTop (s : State) (i : Fin 32) : Nat := if s.act.flag .pif (64 * i.val + 1664) then 32000 else 5000
def ainTrigEn (s : State) (i : Fin 32) : Bool := s.act.flag .pif (64 * i.val + 1665)
def ainTrigGen (s : State) (i : Fin 32) : Nat := s.act.fld .pif (64 * i.val + 1666) 3
def ainLo (s : State) (i : Fin 32) : Nat := s.act.fld .pif (64 * i.val + 1680) 16
def ainHi (s : State) (i : Fin 32) : Nat := s.act.fld .pif (64 * i.val + 1696) 16

/-! ### Counts (R273 to R279) -/

/-- COUNT is s32 and wraps. -/
def wrap32 (v : Int) : Int := sint 32 (uint 32 v)

/-- The values an interface reports. -/
def Enc.vals (e : Enc) : EncVals :=
  { count := e.count, upos := e.upos, lastPm := e.lastPm, indexCount := e.indexCount, indexPm := e.indexPm, illegal := e.illegal
    uncertain := e.uncertain, indexSeen := e.indexSeen, stopped := e.stopped, hallSkip := e.hallSkip, hallIllegal := e.hallIllegal
    invalid := e.invalid, state := e.state }

/-- The interface changed at `t`: its values hold from there. -/
def Enc.note (t : Tick) (e : Enc) : Enc := { e with past := keepRecent t 40000 ((t, e.vals) :: e.past) }

/-- The values as the changes before `t` left them (R35, R254); those of reset before the first. -/
def Enc.before (t : Tick) (e : Enc) : EncVals :=
  match e.past.find? fun r => r.1 < t with
  | some r => r.2
  | none => if e.past = [] then e.vals else {}

/-- COUNT at the last change before `t` (R254). -/
def Enc.countBefore (t : Tick) (e : Enc) : Int := (e.before t).count

/-- COUNT becomes `v`. -/
def Enc.setCount (v : Int) (e : Enc) : Enc := { e with count := wrap32 v }

/-- A change of postmark `t` belongs to the COUNT of before the host's last set: it is not added to the new one (R276). -/
def Enc.superseded (t : Tick) (e : Enc) : Bool := e.setAt.any (t < ·)

/-- `d` counts of postmark `t` (R276). -/
def Enc.add (t : Tick) (d : Int) (e : Enc) : Enc := if e.superseded t then e else e.setCount (e.count + d)

/-- The longest SPEED_WIN, and the longest GATE (R277, R280, R287). -/
def longestWin : Tick := 8000000
def longestGate : Tick := 80000000

/-- A legal change of `d` counts at `t` (R273, R278). -/
def Enc.legal (t : Tick) (d : Int) (e : Enc) : Enc :=
  { e.add t d with upos := e.upos + d, lastPm := t, stopped := false, hist := keepRecent t (longestWin + 1) ((t, some (e.upos + d)) :: e.hist) }

/-- An illegal transition, skip or illegal state at `t`: the estimator starts again behind it (R274, R277). -/
def Enc.drop (t : Tick) (e : Enc) : Enc := { e with hist := keepRecent t (longestWin + 1) ((t, none) :: e.hist), illegal := e.illegal + 1 }

/-- POSITION_UNCERTAIN is set (R274, R275, R260). -/
def Enc.unsure (e : Enc) : Enc := { e with uncertain := true, idxArm := true, idxFresh := false }

/-- Place of a (B, A) state in the forward sequence 00, 01, 11, 10 (R273). -/
def quadPos (ba : Nat) : Nat := if ba = 0 then 0 else if ba = 1 then 1 else if ba = 3 then 2 else 3
/-- Place of a hall state in the forward sequence 1, 3, 2, 6, 4, 5 (R278). -/
def hallPos (w : Nat) : Nat := if w = 1 then 0 else if w = 3 then 1 else if w = 2 then 2 else if w = 6 then 3 else if w = 4 then 4 else 5

/-! ### Emulation: what an encoder or the ground adds (R283, R284, R285) -/

/-- One count of `acc`: 80,000,000 ticks of 1 count/s, in mm and cycles. -/
def emuUnit : Int := 80000000000

/-- Emulation runs (R286). -/
def emuRuns (s : State) (x : Fin 2) : Bool := pifRuns s && emuSource s x != 0 && startsAct s

/-- Carry what is due to `now`: the pose's rate, and the next one from its tick on. -/
def Emu.carry (now : Tick) (m : Emu) : Emu :=
  match m.nextRate with
  | some (t, r) =>
    if t ≤ now then
      { m with acc := m.acc + m.rate * (t - m.accAt : Nat) + r * (now - max t m.accAt : Nat), accAt := now, rate := r, nextRate := none }
    else { m with acc := m.acc + m.rate * (now - m.accAt : Nat), accAt := now }
  | none => { m with acc := m.acc + m.rate * (now - m.accAt : Nat), accAt := now }

/-- Whole counts due. -/
def Emu.whole (m : Emu) : Int := m.acc.tdiv emuUnit

/-- The changes the cap has allowed by `now` of those due since `d`: one at once, 160 ticks after the change before at
the earliest, and one every 160 ticks (R285). Marks: DEDUCED (log 75). -/
def Emu.allowed (now d : Tick) (m : Emu) : Nat :=
  let first := match m.lastStep with
    | some t => max d (t + 160)
    | none => d
  if first ≤ now then (now - first) / 160 + 1 else 0

/-- What exceeds the cap is DEFICIT; beyond 65,535 counts it is dropped and counted (R285). Time in which nothing was due
allows nothing. -/
def Emu.settle (now : Tick) (m : Emu) : Emu :=
  let d := m.dueAt.getD now
  let n := m.whole.natAbs - m.allowed now d
  let beyond := n - 65535
  { m with acc := m.acc - m.whole.sign * beyond * emuUnit, dropped := m.dropped + BitVec.ofNat 32 beyond,
           deficit := min n 65535, sat := decide (min n 65535 > 0), dueAt := if m.whole = 0 then none else some d }

/-- The values an output reports. -/
def Emu.vals (m : Emu) : EmuVals := { count := m.count, deficit := m.deficit, sat := m.sat, noSpeed := m.noSpeed, dropped := m.dropped }

/-- The output changed at `t`: its values hold from there. -/
def Emu.note (t : Tick) (m : Emu) : Emu := { m with past := keepRecent t 40000 ((t, m.vals) :: m.past) }

/-- The values as they stood before `t` (R35, R288). -/
def Emu.before (t : Tick) (m : Emu) : EmuVals :=
  match m.past.find? fun r => r.1 < t with
  | some r => r.2
  | none => if m.past = [] then m.vals else {}

/-- Carry and settle an emulation output, with EMU_SAT's notice at its rise. -/
def emuUpdate (x : Fin 2) (f : Emu → Emu) (s : State) : State :=
  let m := s.pif.emu[x]
  let m' := ((f (m.carry s.pm)).settle s.pm).note s.pm
  let s1 := modEmu x (fun _ => m') s
  if m'.sat ∧ !m.sat then notice .pif 0x06 x.val [] s1 else s1

/-- A legal change of encoder `i` adds ±NUM / DEN counts to the outputs that follow it, with the fraction carried (R284). -/
def emuFollow (i : Fin 4) (d : Int) (s : State) : State :=
  (List.finRange 2).foldl (fun t x =>
    if emuRuns t x ∧ emuSource t x = 2 ∧ emuEnc t x = i.val then
      emuUpdate x (fun m =>
        let n := m.frac + d * emuNum t x
        let q := n.tdiv (emuDen t x)
        { m with frac := n - q * emuDen t x, acc := m.acc + q * emuUnit }) t
    else t) s

/-- EMU_OUTPUT_STEP: one quadrature change, at least 160 ticks after the one before (R285). -/
def execEmuOutputStep (x : Fin 2) (s : State) : Result :=
  if emuRuns s x then
    let s1 := emuUpdate x id s
    let m := s1.pif.emu[x]
    let free : Bool := match m.lastStep with
      | some t => decide (t + 160 ≤ s.pm)
      | none => true
    if m.whole ≠ 0 ∧ free then
      let d := m.whole.sign * (if emuInv s x then -1 else 1)
      .next (emuUpdate x (fun m => { m with acc := m.acc - m.whole.sign * emuUnit, count := wrap32 (m.count + d),
                                            steps := m.steps + d, lastStep := some s.pm }) s1)
    else .next s1
  else .next s

/-- The emulation rates of edge `e`: 4 × PPM counts a metre of the point's speed, from E + 8,000 on; 0 while
STATIONARY and at LOST (R283). The rate is in mm/s × counts per metre; ω is in 0.01 °/s, and π is taken as
3.141592654. Marks: DESIGN CHOICE (log 22). -/
def emuRate (s : State) (x : Fin 2) : Int :=
  let p := s.pos.pose
  if p.stationary || p.quality == .lost then 0
  else 4 * emuPpm s x * (p.est.speed - (p.est.yawRate * emuPointY s x * 3141592654).tdiv 18000000000000)

def emuAtEdge (e : Tick) (s : State) : State :=
  (List.finRange 2).foldl (fun t x =>
    if emuRuns t x ∧ emuSource t x = 1 then
      let lost := t.pos.pose.quality == .lost
      let t1 := modEmu x (fun m => ({ m.carry s.pm with nextRate := some (e + 8000, emuRate t x), noSpeed := lost }).note s.pm) t
      if lost ∧ !t.pif.emu[x].noSpeed then notice .pif 0x07 x.val [] t1 else t1
    else modEmu x (fun m => { m with rate := 0, nextRate := none, accAt := s.pm }) t) s

/-- Emulation starts afresh where its source is switched on. -/
def emuRestart (x : Fin 2) (s : State) : State :=
  modEmu x (fun m => ({ m with acc := 0, accAt := s.pm, rate := 0, nextRate := none, frac := 0, steps := 0, deficit := 0, sat := false, dueAt := none }).note s.pm) s

/-! ### Encoders and halls -/

/-- A change of the (B, A) state of postmark `t` (R273, R274). -/
def quadStep (i : Fin 4) (t : Tick) (ba : Nat) (s : State) : State :=
  let e := s.pif.enc[i]
  let k := (quadPos ba + 4 - quadPos e.state) % 4
  let s1 := modEnc i (fun e => { e with state := ba, accepted := acceptLines s.pm (ba ^^^ e.state) e.accepted }) s
  if k = 0 then modEnc i (Enc.note t) s1
  else if k = 2 then noticeAt .pif 0x01 i.val t [] (modEnc i (fun e => (e.drop t).unsure.note t) s1)
  else
    let d : Int := (if k = 1 then 1 else -1) * (if encDirInv s i then -1 else 1)
    emuFollow i d (modEnc i (fun e => (e.legal t d).note t) s1)

/-- ENCODER_TRANSITION: accepted changes of A and B of one postmark lead to the state (B, A). -/
def execEncoderTransition (i : Fin 4) (ba : BitVec 2) (s : State) : Result :=
  let e := s.pif.enc[i]
  if pifRuns s ∧ linesReady s (encFilter s i) (ba.toNat ^^^ e.state) e.accepted then
    .next (quadStep i (acceptedPm s (encFilter s i)) ba.toNat s)
  else .next s

/-- INDEX: Z is accepted active at state (B, A), its inactive level accepted before. A count change of the same sample
comes first (R272, R275). Marks: DEDUCED (log 75). -/
def execIndex (i : Fin 4) (ba : BitVec 2) (s : State) : Result :=
  let e0 := s.pif.enc[i]
  if pifRuns s ∧ linesReady s (encFilter s i) (ba.toNat ^^^ e0.state) e0.accepted ∧ lineReady s (2 * encFilter s i) e0.accepted[(2 : Fin 3)] then
    let t := acceptedPm s (encFilter s i)
    let s1 := modEnc i (fun e => { e with accepted := acceptLines s.pm 4 e.accepted }) (quadStep i t ba.toNat s)
    let mode := indexMode s i
    if mode = 0 ∨ (gateEn s i ∧ gateAb s i ≠ ba.toNat) then .next s1
    else
      .next (modEnc i (fun e =>
        let e1 := { e with indexCount := e.count, indexPm := t, indexSeen := true, idxFresh := true, idxArm := false }
        let e2 := if (mode = 2 ∨ (mode = 3 ∧ e.idxArm)) ∧ !e.setAt.any (t ≤ ·) then { e1.setCount (indexValue s i) with resetPm := some t } else e1
        (if mode ≥ 2 then { e2 with uncertain := false } else e2).note t) s1)
  else .next s

/-- A valid hall state of postmark `t` after the last valid one (R278). -/
def hallStep (i : Fin 4) (at_ : Tick) (w : Nat) (s : State) : State :=
  let e := s.pif.hall[i]
  let s1 := modHall i (fun e => { e with lastValid := w, hallIllegal := false, invalid := false }) s
  if e.lastValid = 0 then modHall i (Enc.note at_) s1
  else
    let k := (hallPos w + 6 - hallPos e.lastValid) % 6
    let sg : Int := if hallDirInv s i then -1 else 1
    let skip (d : Int) (t : State) : State :=
      noticeAt .pif 0x02 i.val at_ [] (modHall i (fun e => { (e.add at_ d).drop at_ with upos := e.upos + d, hallSkip := true }) t)
    modHall i (Enc.note at_) (match k with
      | 0 => s1
      | 1 => modHall i (Enc.legal at_ sg) s1
      | 5 => modHall i (Enc.legal at_ (-sg)) s1
      | 2 => skip (2 * sg) s1
      | 4 => skip (-2 * sg) s1
      | _ => modHall i Enc.unsure (skip 0 s1))

/-- HALL_TRANSITION: the filtered lines give the state S = 4W + 2V + U (R278, R279). -/
def execHallTransition (i : Fin 4) (wvu : BitVec 3) (s : State) : Result :=
  let e0 := s.pif.hall[i]
  let chg := wvu.toNat ^^^ e0.state
  if pifRuns s ∧ linesReady s (hallFilter s i) chg e0.accepted then
    let t := acceptedPm s (hallFilter s i)
    let s1 := modHall i (fun e => { e with state := wvu.toNat, accepted := acceptLines s.pm chg e.accepted }) s
    if wvu = 0 ∨ wvu = 7 then
      .next (modHall i (fun e => (if e.hallIllegal then e else { e.drop t with hallIllegal := true, illegalAt := t }).note t) s1)
    else .next (hallStep i t wvu.toNat s1)
  else .next s

/-- HALL_ILLEGAL: an illegal state has lasted 1 ms (R279). -/
def execHallIllegal (i : Fin 4) (s : State) : Result :=
  let e := s.pif.hall[i]
  if e.hallIllegal ∧ !e.invalid ∧ e.illegalAt + 80000 ≤ s.pm then
    .next (notice .pif 0x03 i.val [] (modHall i (fun e => ({ e with invalid := true }).note s.pm) s))
  else .next s

/-- The legal changes before `e` that no illegal sample follows, newest first (R277). -/
def Enc.changes (e : Tick) (x : Enc) : List (Tick × Int) :=
  ((x.hist.filter fun h => h.1 < e).takeWhile fun h => h.2.isSome).filterMap fun h => h.2.map fun p => (h.1, p)

/-- SPEED at the freeze of edge `e`, 2⁻⁴ count/s, while the interface is not stopped (R277). -/
def Enc.speedAt (e win : Tick) (x : Enc) : Int :=
  match x.changes e with
  | (t1, p1) :: (t', p') :: l =>
    let inWin := ((t', p') :: l).filter fun h => t1 ≤ h.1 + win
    let (t0, p0) := inWin.getLast?.getD (t', p')
    let v := ((p1 - p0) * 1280000000).tdiv (t1 - t0 : Nat)
    let cap : Int := (1280000000 / (e - t1) : Nat)
    if e - t1 > t1 - t0 then clampI (-cap) cap v else v
  | _ => x.speed

/-- The freeze of edge `e`: the values as the samples before E left them, with the speed estimator's (R35, R277, R288). -/
def Enc.freeze (e : Tick) (win stop : Tick) (x : Enc) : Enc :=
  let v := x.before e
  let st := v.stopped || decide (v.lastPm + stop ≤ e)
  { x with speed := if st then 0 else x.speedAt e win, stopped := if x.lastPm < e then st else x.stopped, taken := { v with stopped := st } }

/-! ### Frequency, event and analog inputs (R280 to R282) -/

/-- The values a frequency input reports. -/
def Freq.vals (f : Freq) : FreqVals := { pulses := f.pulses, lastPm := f.lastPm, stopped := f.stopped, overrange := f.overrange }

/-- The input changed at `t`: its values hold from there. -/
def Freq.note (t : Tick) (f : Freq) : Freq := { f with past := keepRecent t 40000 ((t, f.vals) :: f.past) }

/-- The values as the edges before `t` left them (R35). -/
def Freq.before (t : Tick) (f : Freq) : FreqVals :=
  match f.past.find? fun r => r.1 < t with
  | some r => r.2
  | none => if f.past = [] then f.vals else {}

/-- FREQ_EDGE: the line changes its level; the edge is counted where it is the one EDGE selects (R280). Marks: DEDUCED
(log 75). -/
def execFreqEdge (i : Fin 16) (s0 : State) : Result :=
  let f := s0.pif.freq[i]
  if pifRuns s0 ∧ lineReady s0 (freqFilter s0 i) f.acceptedAt then
    let now := acceptedPm s0 (freqFilter s0 i)
    let s := modFreq i (fun f => { f with level := !f.level, acceptedAt := some s0.pm }) s0
    if f.level ≠ freqFalling s i then .next s else
    let fast : Bool := match f.edges with
      | t :: _ => decide (now < t + 1600)
      | [] => false
    let s1 := modFreq i (fun f => Freq.note now { f with
      pulses := f.pulses + 1, lastPm := now, stopped := false, overrange := f.overrange || fast
      edges := (keepRecent now (longestGate + 1) ((now :: f.edges).map fun t => (t, ()))).map (·.1) }) s
    .next (if fast ∧ !f.overrange then noticeAt .pif 0x05 i.val now [] s1 else s1)
  else .next s0

/-- FREQ at the freeze of edge `e`, 2⁻¹⁰ Hz, while edges come (R280). -/
def Freq.freqAt (e gate : Tick) (x : Freq) : Nat :=
  match x.edges.filter fun t => t < e with
  | tl :: tp :: l =>
    let inGate := (tp :: l).filter fun t => tl ≤ t + gate
    let (n, tf) := match inGate.getLast? with
      | some t => (inGate.length, t)
      | none => (1, tp)
    let v := n * 81920000000 / (tl - tf)
    if e - tl > tl - tp then min v (81920000000 / (e - tl)) else v
  | _ => x.freq

/-- The freeze of edge `e`: the values as the edges before E left them (R35, R280, R288). -/
def Freq.freeze (e gate : Tick) (x : Freq) : Freq :=
  let v := x.before e
  let st := v.stopped || decide (v.lastPm + 800000000 ≤ e)
  { x with freq := if st then 0 else x.freqAt e gate, stopped := if x.lastPm < e then st else x.stopped, taken := { v with stopped := st } }

/-- EVENT_EDGE: an accepted edge that EDGES selects is recorded, or lost where the FIFO is full (R281). Marks: DEDUCED
(log 75). -/
def execEventEdge (i : Fin 8) (falling : Bool) (s0 : State) : Result :=
  if pifRuns s0 ∧ lineReady s0 (evtFilter s0 i) s0.pif.evt[i].acceptedAt then
    let s := modEvt i (fun v => { v with acceptedAt := some s0.pm }) s0
    if !bitN (evtEdges s i) (if falling then 1 else 0) then .next s else
    let q := s.pif.evt[i].seq + 1
    let s1 := modEvt i (fun v => { v with seq := q }) s
    if s.pif.evt[i].fifo.length < 32 then
      .next (modEvt i (fun v => { v with fifo := v.fifo ++ [{ pm := acceptedPm s (evtFilter s i), input := i.val, falling := falling, seq := q }] }) s1)
    else .next (notice .pif 0x04 i.val [] (modEvt i (fun v => { v with lost := v.lost + 1 }) s1))
  else .next s0

/-- An event record as its 16 bytes (R281). -/
def EvtRec.bytes (r : EvtRec) : List Byte :=
  leBytes 8 r.pm ++ leBytes 2 (r.input ||| b2n r.falling <<< 3) ++ leBytes 2 r.seq.toNat ++ leBytes 4 0

/-- The event notices of the logging phase of edge `e`: records before E, up to 8 a notice, and removed (R281). -/
def eventNotices (e : Tick) (s : State) : State :=
  (List.finRange 8).foldl (fun t i =>
    if evtNotify t i then
      let out := t.pif.evt[i].fifo.filter fun r => r.pm < e
      (chunks 8 out).foldl (fun u c => noticeNow .pif 0x10 i.val ((c.head?.map (·.pm)).getD e) (c.flatMap EvtRec.bytes) u)
        (modEvt i (fun v => { v with fifo := v.fifo.filter fun r => decide (e ≤ r.pm) }) t)
    else t) s

/-- ANALOG_CONVERSION: due once for each sub-slot start, or once for each trigger of its fine generator, and
postmarked there; `mv` is the pin, read over the range RANGE selects (R282). Marks: DEDUCED (log 75). -/
def execAnalogConversion (i : Fin 32) (mv : BitVec 16) (s0 : State) : Result :=
  let s := finePeaks s0
  let at_ : Option Tick :=
    if ainTrigEn s i then
      match idx? 8 (ainTrigGen s i) with
      | some g => s.pwu.fine[g].trigAt
      | none => none
    else some (s.pm / 10000 * 10000)
  match at_ with
  | some t =>
    let a := s.pif.ain[i]
    if pifRuns s ∧ a.since ≤ t ∧ a.past.all (·.1 < t) then
      let v := min mv.toNat (ainTop s i)
      let bad := decide (v < ainLo s i) || decide (ainHi s i < v)
      let c : AinVal := { pm := t, value := v, invalid := bad }
      let s1 := modAin i (fun a => { a with cur := c, past := keepRecent t 40000 ((t, c) :: a.past) }) s
      .next (if bad ∧ !a.cur.invalid then notice .pif 0x08 i.val [] s1 else s1)
    else .next s0
  | none => .next s0

/-- The latest value of an analog input postmarked before `t` (R254); that of reset before the first. -/
def Ain.before (t : Tick) (a : Ain) : AinVal := ((a.past.find? fun r => r.1 < t).map (·.2)).getD {}

/-- PIF at the freeze of edge `e`. -/
def pifFreeze (e : Tick) (s : State) : State :=
  s.onPif fun v => { v with
    enc := vmapIdx v.enc fun i x => x.freeze e (encWin s i) (encStop s i)
    hall := vmapIdx v.hall fun i x => x.freeze e (hallWin s i) (hallStop s i)
    freq := vmapIdx v.freq fun i x => x.freeze e (freqGate s i)
    ain := vmap v.ain fun a => { a with taken := a.before e }
    emu := vmap v.emu fun m => { m with taken := m.before e } }

/-- A commit of PB.PIF at edge `e`: an emulation whose SOURCE changed starts afresh, and an input converts at what triggers
it from E on. -/
def commitPif (e : Tick) (old : Params) (s : State) : State :=
  let other (i : Fin 32) : Bool := old.fld .pif (64 * i.val + 1665) 4 != s.act.fld .pif (64 * i.val + 1665) 4
  let s1 := s.onPif fun v => { v with ain := vmapIdx v.ain fun i a => if other i then { a with since := e } else a }
  (List.finRange 2).foldl (fun t x =>
    if old.fld .pif (128 * x.val + 1408) 2 ≠ emuSource t x then emuRestart x t else t) s1

/-! ### Requests (R276, R394) -/

def opPifEncSet (e : Env) (s : State) : State × Answer :=
  if arg e 3 29 ≠ 0 then deny .badParam s
  else match idx? 8 (arg e 0 3) with
    | some i => doneEdge s (waitEdge 0x0802 e [.encSet i (argS e 32 32)] s)
    | none => deny .range s

/-- The host sets COUNT to `v` at edge `e`: changes postmarked at E or later are added to it. An index reset at E or
before no longer acts, one after it stands; an index latched since then latched the new COUNT (R275, R276). Marks:
DEDUCED (log 75). -/
def Enc.set (v : Int) (e : Tick) (x : Enc) : Enc :=
  let y := { x with uncertain := false, setAt := some e
                    indexCount := if x.indexSeen ∧ e ≤ x.indexPm then wrap32 (x.indexCount + (v - x.countBefore e)) else x.indexCount }
  if x.resetPm.any (e < ·) then y else y.setCount (v + (x.upos - (x.before e).upos))

/-- PIF_ENC_SET at its edge `e` (R276, R394). -/
def applyEncSet (i : Fin 8) (v : Int) (e : Tick) (s : State) : State :=
  let f (x : Enc) : Enc := (x.set v e).note s.pm
  if h : i.val < 4 then modEnc ⟨i.val, h⟩ f s else modHall ⟨i.val - 4, by omega⟩ f s

/-- PIF_EVENTS_READ: the records taken at a freeze (R281). -/
def opPifEventsRead (e : Env) (s : State) : State × Answer :=
  let n := arg e 8 8
  if arg e 3 5 ≠ 0 then deny .badParam s
  else if n = 0 ∨ n > 32 then deny .range s
  else match idx? 8 (arg e 0 3) with
    | none => deny .range s
    | some i =>
      if evtNotify s i then deny .state s
      else
        let q := s.pif.evt[i].fifo
        let out := (q.takeWhile fun r => s.sys.lastEdge.any (r.pm < ·)).take n
        doneWith (leBytes 4 out.length ++ out.flatMap EvtRec.bytes) (modEvt i (fun v => { v with fifo := q.drop out.length }) s)

end Sys2Proof.Machine
end

