-- ==== Sys2Proof/Machine/Implement.lean ====
section
/-! DEFINITION. IMPL (05): the implement set, its commands and checks, and the body angles. Bodies, contexts and
sections stand in the levels of R18; R112 and R113 say what of a context counts where it is remote or disabled. -/

namespace Sys2Proof.Machine

/-! ### Record kinds (R384) -/

/-- Bytes of one record of a kind. -/
def recSize : Nat → Nat
  | 0 => 32 | 1 => 8 | 2 => 32 | 3 => 16 | 4 => 48 | _ => 128

/-- Instances of a kind. -/
def recCount : Nat → Nat
  | 0 => 160 | 1 => 32 | 2 => 4 | 3 => 8 | _ => 1

/-- Record `k` of a kind in a set, as a number. -/
def ImplSet.get (i : ImplSet) (type k : Nat) : Nat :=
  match type with
  | 0 => (i.ctx[k]?.getD 0).toNat
  | 1 => (i.sec[k]?.getD 0).toNat
  | 2 => (i.body[k]?.getD 0).toNat
  | 3 => (i.tt[k]?.getD 0).toNat
  | 4 => i.impl.toNat
  | _ => i.mach.toNat

/-- Replace record `k` of a kind. -/
def ImplSet.put (i : ImplSet) (type k v : Nat) : ImplSet :=
  match type with
  | 0 => { i with ctx := i.ctx.setIfInBounds k (BitVec.ofNat _ v) }
  | 1 => { i with sec := i.sec.setIfInBounds k (BitVec.ofNat _ v) }
  | 2 => { i with body := i.body.setIfInBounds k (BitVec.ofNat _ v) }
  | 3 => { i with tt := i.tt.setIfInBounds k (BitVec.ofNat _ v) }
  | 4 => { i with impl := BitVec.ofNat _ v }
  | _ => { i with mach := BitVec.ofNat _ v }

/-- Reserved fields of a record, as (lo, width) (R8). -/
def recReserved : Nat → List (Nat × Nat)
  | 0 => [(6, 2), (23, 1), (187, 1)]
  | 1 => [(1, 15)]
  | 2 => [(192, 64)]
  | 3 => []
  | 4 => [(4, 28), (66, 14), (130, 14), (194, 14), (258, 14), (320, 64)]
  | _ => [(208, 48), (320, 64), (520, 24), (680, 24), (840, 24), (1000, 24)]

/-- Read-only fields of a record, which a write leaves as they are (R384). -/
def recRo : Nat → List (Nat × Nat)
  | 0 => [(1, 1)] | 1 => [(32, 32)] | 4 => [(32, 32)] | _ => []

/-- Structural fields of a record (R108). -/
def recStructural : Nat → List (Nat × Nat)
  | 0 => [(0, 1), (4, 2), (8, 8), (16, 2), (18, 5), (188, 4)]
  | 1 => [(0, 1)]
  | 2 => [(0, 1), (1, 3), (4, 2), (6, 2), (8, 8)]
  | 3 => []
  | 4 => [(0, 2), (2, 2)]
  | _ => [(0, 1024)]

/-! ### Fields of the records -/

def ImplSet.ctxN (i : ImplSet) (k lo w : Nat) : Nat := bits (i.get 0 k) lo w
def ImplSet.ctxS (i : ImplSet) (k lo w : Nat) : Int := sint w (i.ctxN k lo w)
def ImplSet.bodyN (i : ImplSet) (k lo w : Nat) : Nat := bits (i.get 2 k) lo w
def ImplSet.bodyS (i : ImplSet) (k lo w : Nat) : Int := sint w (i.bodyN k lo w)
def ImplSet.ctxOn (i : ImplSet) (k : Nat) : Bool := i.ctxN k 0 1 == 1
def ImplSet.bodyOn (i : ImplSet) (k : Nat) : Bool := i.bodyN k 0 1 == 1
/-- Layers in use. -/
def ImplSet.layers (i : ImplSet) : Nat := bits (i.get 4 0) 2 2 + 1

/-- A body's pivot resolved to carrier axes at zero angles, up the chain of parents (R115). -/
def ImplSet.origin0 (i : ImplSet) : Nat → Nat → Int × Int × Int
  | 0, _ => (0, 0, 0)
  | f + 1, b =>
    if b < 4 then
      let r := i.origin0 f (i.bodyN b 1 3)
      (r.1 + i.bodyS b 16 32, r.2.1 + i.bodyS b 48 32, r.2.2 + i.bodyS b 80 32)
    else (0, 0, 0)

/-- A context's release point at zero body angles (R115). -/
def ImplSet.point0 (i : ImplSet) (k : Nat) : Int × Int × Int :=
  let r := i.origin0 5 (i.ctxN k 4 2)
  (r.1 + i.ctxS k 32 32, r.2.1 + i.ctxS k 64 32, r.2.2 + i.ctxS k 96 32)

/-! ### Validation (R110) -/

/-- Every field within its stated range (R111, R114, R123, R124). An input index is held to its objects while the
source names one. Marks: DEDUCED (log 38). -/
def ImplSet.inRange (i : ImplSet) (type k : Nat) : Bool :=
  let r := i.get type k
  let f (lo w : Nat) : Nat := bits r lo w
  match type with
  | 0 => (f 8 8 < 32 || f 8 8 == 255) && 10 ≤ f 128 16 && f 128 16 ≤ 2000 && f 144 16 ≤ 2000 && f 176 8 ≤ 200
          && f 192 16 ≤ 50000 && f 208 16 ≤ 50000 && f 224 16 ≤ 50000 && f 240 16 ≤ 50000
  | 2 => (f 1 3 < 4 || f 1 3 == 7) && f 4 2 < 3
          && (f 6 2 == 0 || f 8 8 < (if f 6 2 = 1 then 32 else if f 6 2 = 2 then 4 else 16))
          && (sint 16 (f 160 16)).natAbs ≤ 9000 && (sint 16 (f 176 16)).natAbs ≤ 9000
  | 4 => (List.range 4).all fun j => f (64 * j + 64) 2 < 3
  | 5 => f 192 8 < 24 && (List.range 4).all fun j =>
          f (160 * j + 384) 8 < 5 && (f (160 * j + 384) 8 != 1 || f (160 * j + 392) 8 < 4)
            && (f (160 * j + 384) 8 != 2 || f (160 * j + 392) 8 < 16)
  | _ => true

/-- The first record, lowest TYPE first and then lowest index, that fails a test. -/
def firstRecord (bad : Nat → Nat → Bool) : Option (Nat × Nat) :=
  ((List.range 6).flatMap fun t => (List.range (recCount t)).map fun k => (t, k)).find? fun p => bad p.1 p.2

/-- The first context that fails a test. -/
def firstCtx (bad : Nat → Bool) : Option (Nat × Nat) := ((List.range 160).find? bad).map fun k => (0, k)

/-- The higher context of the first pair of enabled remote contexts on one NODE and ROW. -/
def dupRow (i : ImplSet) : Option (Nat × Nat) :=
  let remote := (List.range 64).map (· + 96) |>.filter i.ctxOn
  let row (k : Nat) : Nat × Nat := (i.ctxN k 18 5, i.ctxN k 188 4)
  (remote.findSome? fun a => (remote.find? fun b => a < b && row a == row b)).map fun k => (0, k)

/-- Checks 2 to 11 of R110 in order: the first that fails, with the record it names. -/
def implCheck (s : State) : Option (Status × Nat × Nat) :=
  let n := s.impl.shadow
  let old := s.impl.active.getD s.impl.restored
  let found (st : Status) (r : Option (Nat × Nat)) : Option (Status × Nat × Nat) := r.map fun p => (st, p)
  let structural := if s.sys.dev = .standby then none
    else firstRecord fun t k => (recStructural t).any fun f => bits (n.get t k) f.1 f.2 != bits (old.get t k) f.1 f.2
  let far (k : Nat) : Bool := let p := n.point0 k; p.1 * p.1 + p.2.1 * p.2.1 + p.2.2 * p.2.2 > 1600000000
  [ found .state structural,
    found .range (firstRecord fun t k => !n.inRange t k),
    found .badParam (firstCtx fun k => n.ctxOn k && !n.bodyOn (n.ctxN k 4 2)),
    found .badParam (firstCtx fun k => n.ctxOn k && n.ctxN k 8 8 != 255 && bits (n.get 1 (n.ctxN k 8 8)) 0 1 == 0),
    found .badParam (((List.range 4).find? fun b =>
      n.bodyOn b && n.bodyN b 1 3 != 7 && !(n.bodyN b 1 3 < b && n.bodyOn (n.bodyN b 1 3))).map fun b => (2, b)),
    found .badParam (firstCtx fun k => n.ctxOn k && n.ctxN k 16 2 ≥ n.layers),
    found .badParam (dupRow n),
    found .badParam (((List.range 8).find? fun t =>
      let v (j : Nat) : Nat := bits (n.get 3 t) (32 * j) 16
      !(v 0 < v 1 && v 1 < v 2 && v 2 < v 3)).map fun t => (3, t)),
    found .badParam (((List.range 4).find? fun b => n.bodyOn b && !(n.bodyS b 160 16 < n.bodyS b 176 16)).map fun b => (2, b)),
    found .range (firstCtx fun k => n.ctxOn k && far k) ].findSome? id

/-! ### What a commit computes (R122, R123) -/

/-- Extent across carrier y of the footprints of some contexts at zero angles, 1 mm. Marks: DEDUCED (log 38). -/
def ImplSet.width (i : ImplSet) (ks : List Nat) : Nat :=
  let y (k : Nat) : Int := 2 * (i.point0 k).2.1
  let w (k : Nat) : Int := i.ctxN k 128 16
  match ks with
  | [] => 0
  | k :: l =>
    let hi := l.foldl (fun m k => max m (y k + w k)) (y k + w k)
    let lo := l.foldl (fun m k => min m (y k - w k)) (y k - w k)
    ((hi - lo) / 2).toNat

/-- The set with MEMBERS and WIDTH computed. Marks: DEDUCED (log 38). -/
def ImplSet.computed (i : ImplSet) : ImplSet :=
  let on := (List.range 160).filter i.ctxOn
  let members (c : Nat) : List Nat := on.filter fun k => i.ctxN k 8 8 == c
  let s1 := (List.range 32).foldl (fun (j : ImplSet) c =>
    j.put 1 c (setBits (setBits (j.get 1 c) 32 8 (members c).length) 40 24 (i.width (members c)))) i
  s1.put 4 0 (setBits (s1.get 4 0) 32 32 (i.width on))

/-! ### Taking effect (R107, R109) -/

/-- LAT_ fields of a context in the order of the learned values (R210): on and off by boost, on and off by battery. -/
def ImplSet.lats (i : ImplSet) (k : Nat) : List Nat := [i.ctxN k 192 16, i.ctxN k 208 16, i.ctxN k 224 16, i.ctxN k 240 16]

/-- A learned-latency record seeded from LAT_ fields: 1 µs is 80 ticks, 2⁻⁴ tick a step (R109, R211). -/
def Lat.seed (l : Lat) (v : List Nat) : Lat :=
  { l with val := Vector.ofFn fun j => 1280 * v.getD j.val 0, driftRun := Vector.replicate 4 0, dev := Vector.replicate 4 0,
           drift := Vector.replicate 4 false, missRun := 0, noMotion := false }

/-- Seeding a context clears NO_MOTION, and with it a context fault that rests on nothing else. -/
def seedCtx (i : Fin 160) (v : List Nat) (s : State) : State :=
  let s1 := modLat i (fun l => l.seed v) s
  match idx? 96 i.val with
  | some c => if s.vdr.lat[i].noMotion then contextClear c s1 else s1
  | none => if s.vdr.lat[i].noMotion then endFault 0x1F i.val s1 else s1

/-- The committed set becomes active at its frame edge, is stored in the NOR, and seeds latencies (R107, R109, R214). -/
def applyImpl (n : ImplSet) (s : State) : State :=
  let old := s.impl.active.getD s.impl.restored
  let s1 := (s.onImpl fun v => { v with active := some n }).onNor fun m => { m with impl := n }
  (List.finRange 160).foldl (fun t i =>
    if (n.ctxOn i.val && !old.ctxOn i.val) || n.lats i.val != old.lats i.val then seedCtx i (n.lats i.val) t else t) s1

/-! ### Commands (R384, R105, R106) -/

/-- Records of a payload of IMPL_WRITE written into the shadow set from `first` on; read-only fields stay. -/
def writeRecords (type : Nat) : Nat → List (List Byte) → ImplSet → ImplSet
  | _, [], i => i
  | k, r :: rs, i =>
    let v := (recRo type).foldl (fun v f => setBits v f.1 f.2 (bits (i.get type k) f.1 f.2)) (leNat r)
    writeRecords type (k + 1) rs (i.put type k v)

/-- IMPL_WRITE. -/
def opImplWrite (e : Env) (s : State) : State × Answer :=
  let type := arg e 0 8
  let first := arg e 8 8
  let recs := entries e 4 (recSize type)
  match firstBad [
      (arg e 24 8 != 0 || type > 5, .badParam),
      (recs.any fun r => (recReserved type).any fun f => recN r f.1 f.2 != 0, .badParam),
      (first + arg e 16 8 > recCount type, .range)] with
  | some st => deny st s
  | none => done (s.onImpl fun v => { v with shadow := writeRecords type first recs v.shadow })

/-- IMPL_READ. -/
def opImplRead (e : Env) (s : State) : State × Answer :=
  let type := arg e 0 8
  let first := arg e 8 8
  let n := arg e 16 8
  match firstBad [
      (arg e 25 7 != 0 || type > 5, .badParam),
      (first + n > recCount type || n * recSize type > 4084, .range)] with
  | some st => deny st s
  | none =>
    let out (i : ImplSet) : List Byte := (List.range n).flatMap fun k => leBytes (recSize type) (i.get type (first + k))
    if argB e 24 then doneWith (out s.impl.shadow) s
    else match s.impl.active with
      | some i => doneWith (out i) s
      | none => deny .state s

/-- A commit of the implement set waits for its frame edge. -/
def implWaiting (s : State) : Bool := s.sys.edgeQ.any fun i => match i.act with | .implCommit _ => true | _ => false

/-- IMPL_COMMIT. -/
def opImplCommit (e : Env) (s : State) : State × Answer :=
  if implWaiting s then (s, { status := .busy, data := [0xFF, 0xFF] })
  else match implCheck s with
    | some (st, t, k) => (s, { status := st, data := leBytes 1 t ++ leBytes 1 k })
    | none => (waitEdge 0x0202 e [.implCommit s.impl.shadow.computed] s, { effectPm := nextEdge s.pm, data := [0xFF, 0xFF] })

/-- IMPL_REVERT. -/
def opImplRevert (_e : Env) (s : State) : State × Answer :=
  done (s.onImpl fun v => { v with shadow := v.active.getD v.restored })

/-! ### Body angles (R115, R116) -/

/-- The raw value of a body's source at the freeze of edge `e`, and whether its CE loop gives a valid one. -/
def bodyRaw (e : Tick) (s : State) (i : ImplSet) (b : Fin 4) : Int × Bool :=
  let ix := i.bodyN b.val 8 8
  match i.bodyN b.val 6 2 with
  | 1 => match idx? 32 ix with
    | some a => (((s.pif.ain[a].before e).value : Nat), true)
    | none => (0, true)
  | 2 => match idx? 4 ix with
    | some a => (s.pif.enc[a].countBefore e, true)
    | none => (0, true)
  | 3 => match idx? 16 ix with
    | some k => (s.ce.loop[k].feedback, !s.restarting .control && !s.ce.loop[k].fault)
    | none => (0, true)
  | _ => (0, true)

/-- One unit of 0.01 ° in the unit of a body's angle. -/
def centiDeg : Int := 16777216

/-- Body of an IMPL notice (R117). Marks: DEDUCED (log 38). -/
def angleBody (angle : Int) (flag : Bool) : List Byte := leBytes 4 (uint 16 (angle / centiDeg) ||| b2n flag <<< 16)

/-- A body at the freeze of edge `e` (R115, R116). -/
def bodyFreeze (e : Tick) (i : ImplSet) (b : Fin 4) (s : State) : State :=
  let x := s.impl.body[b]
  let (raw, ok) := bodyRaw e s i b
  let a := i.bodyS b.val 112 16 * centiDeg + raw * i.bodyS b.val 128 32 * 100
  let valid := ok && i.bodyS b.val 160 16 * centiDeg ≤ a && a ≤ i.bodyS b.val 176 16 * centiDeg
  let restart := i.bodyN b.val 6 2 == 3 && s.restarting .control
  let set (y : BodySt) (t : State) : State := t.onImpl fun v => { v with body := v.body.set b y }
  if valid then
    let from_ := x.validSince.getD e
    let clear := from_ + 8000000 ≤ e || !(x.hold || x.lost)
    let y : BodySt := { angle := a, hold := x.hold && !clear, lost := x.lost && !clear, invalidSince := none,
                        validSince := some from_ }
    let s1 := set y s
    if x.lost && clear then noticeAt .impl 0x02 b.val e (angleBody a false) s1 else s1
  else
    let from_ := x.invalidSince.getD e
    let lost := x.lost || from_ + 16000000 ≤ e
    let s1 := set { x with hold := true, lost := lost, invalidSince := some from_, validSince := none } s
    if lost && !x.lost then noticeAt .impl 0x01 b.val e (angleBody x.angle restart) s1 else s1

/-- IMPL at the freeze of edge `e`: every enabled body. -/
def implFreeze (e : Tick) (s : State) : State :=
  match s.impl.active with
  | some i => (List.finRange 4).foldl (fun t b => if i.bodyOn b.val then bodyFreeze e i b t else t) s
  | none => s

/-- A body or one of its ancestors is ANGLE_LOST (R116). -/
def angleLost (s : State) (i : ImplSet) : Nat → Nat → Bool
  | 0, _ => false
  | f + 1, b => match idx? 4 b with
    | some k => s.impl.body[k].lost || angleLost s i f (i.bodyN b 1 3)
    | none => false

end Sys2Proof.Machine
end

