-- ==== Sys2Proof/Machine/Plane.lean ====
section
/-! DEFINITION. WGS-84 and the local plane of R80: roots and sines in fixed point, ECEF positions, the east–north–up rotation of
a difference. Latitude and longitude are in 10⁻¹³ °, lengths in 2⁻¹⁶ mm, sines with weight 2⁻⁸⁰ (log entry 22). -/

namespace Sys2Proof.Machine

/-! ### Roots -/

/-- Bits of the integer square root of `n` below bit `k`, above those of `r`. -/
def isqrtFrom (n : Nat) : Nat → Nat → Nat
  | 0, r => r
  | k + 1, r => isqrtFrom n k (if (r + 2 ^ k) * (r + 2 ^ k) ≤ n then r + 2 ^ k else r)

/-- Integer square root, rounded down. -/
def isqrt (n : Nat) : Nat := isqrtFrom n (n.log2 / 2 + 1) 0

/-! ### Sines of geodetic angles -/

def one80 : Int := 1208925819614629174706176

/-- Sine of `r` · 2⁻⁶⁴ turn, 0 ≤ r ≤ 2⁶²: fourteen terms of the series. -/
def sinQuarterW (r : Int) : Int :=
  let x := r * 1898976236818169290393997 / 4611686018427387904
  let x2 := x * x / one80
  let t := [702, 600, 506, 420, 342, 272, 210, 156, 110, 72, 42, 20, 6].foldl (fun (t : Int) d => one80 - x2 * t / (d * one80)) one80
  x * t / one80

/-- Sine of an angle in 2⁻⁶⁴ turn. Marks: DESIGN CHOICE (log 22). -/
def sinW (a : Int) : Int :=
  let m := a % 18446744073709551616
  let r := m % 4611686018427387904
  match (m / 4611686018427387904).toNat with
  | 0 => sinQuarterW r
  | 1 => sinQuarterW (4611686018427387904 - r)
  | 2 => -sinQuarterW r
  | _ => -sinQuarterW (4611686018427387904 - r)

def cosW (a : Int) : Int := sinW (a + 4611686018427387904)

/-- An angle in 10⁻¹³ ° as 2⁻⁶⁴ turn. -/
def degTurn (v : Int) : Int := v * 18446744073709551616 / 3600000000000000

/-- A length times a sine, to the nearest. -/
def mulW (v s : Int) : Int := (v * s + 604462909807314587353088) / one80

/-! ### ECEF and the plane (R80) -/

/-- First eccentricity squared of WGS-84, as a fraction. -/
def ecc2Num : Int := 595514447126000000000
def ecc2Den : Int := 88957371407509362414969

/-- ECEF position of a geodetic one (WGS-84). Marks: DESIGN CHOICE (log 22). -/
def ecefOf (lat lon h : Int) : Int × Int × Int :=
  let sp := sinW (degTurn lat)
  let cp := cosW (degTurn lat)
  let root : Int := isqrt ((one80 - sp * sp / one80 * ecc2Num / ecc2Den) * one80).toNat
  let n := 6378137000 * 65536 * one80 / root
  let p := mulW (n + h) cp
  (mulW p (cosW (degTurn lon)), mulW p (sinW (degTurn lon)), mulW (n - n * ecc2Num / ecc2Den + h) sp)

def ecefDiff (a b : Int × Int × Int) : Int × Int × Int := (a.1 - b.1, a.2.1 - b.2.1, a.2.2 - b.2.2)

/-- An ECEF difference turned to east, north, up at a latitude and longitude. -/
def enuTurn (lat lon : Int) (d : Int × Int × Int) : Int × Int × Int :=
  let sp := sinW (degTurn lat)
  let cp := cosW (degTurn lat)
  let sl := sinW (degTurn lon)
  let cl := cosW (degTurn lon)
  let r := mulW d.1 cl + mulW d.2.1 sl
  (mulW d.2.1 cl - mulW d.1 sl, mulW d.2.2 cp - mulW r sp, mulW r cp + mulW d.2.2 sp)

/-- East, north and up of a point in the local plane of an origin: latitude and longitude 10⁻⁷ °, height 1 mm (R80). -/
def localOf (lat lon h : Int) (p : Int × Int × Int) : Int × Int × Int :=
  enuTurn (1000000 * lat) (1000000 * lon) (ecefDiff (ecefOf p.1 p.2.1 p.2.2) (ecefOf (1000000 * lat) (1000000 * lon) (65536 * h)))

end Sys2Proof.Machine
end

