-- ==== Sys2Proof/Machine/MapStore.lean ====
section
/-! DEFINITION. The map store: pools, swatches, tints, masks, cache, imports and exports, and the as-applied log's
requests and timers (07, and R385 to R389). The pools are those of R152, the notices those of R184. -/

namespace Sys2Proof.Machine

/-! ### Cells and tiles (R154, R155, R162) -/

/-- Coverage cell in mm (R156). -/
def cellMm (s : State) (j : Nat) : Nat := 50 * 2 ^ s.act.fld .map (8 * j) 2
/-- Bits of a coverage cell of layer `j`: 1 or 2. -/
def depthOf (s : State) (j : Nat) : Nat := 1 + s.act.fld .map (8 * j + 2) 1
def tintCellMm (s : State) (j : Nat) : Nat := 1000 * s.act.fld .map (4 * j + 32) 4
/-- Mask cell in mm for a MASK_CELL code. -/
def maskCellMm (code : Nat) : Nat := 50 * 2 ^ code
def evictClean (s : State) : Bool := s.act.flag .map 50
def quota (s : State) (j : Nat) : Nat := s.act.fld .map (16 * j + 64) 16
def lowWater (s : State) : Nat := s.act.fld .map 128 16

/-- Tile index of a cell index in tiles of `w` cells (R154). -/
def tileOf (w : Nat) (i : Int) : Int := i / w
/-- Number `k` of cell (i, j) in its tile of `w × w` (R154). -/
def cellNo (w : Nat) (i j : Int) : Nat := w * (j % w).toNat + (i % w).toNat

def Swatch.is (w : Swatch) (layer : Nat) (tx ty : Int) : Bool := w.layer == layer && w.tx == tx && w.ty == ty
def Tint.is (w : Tint) (layer : Nat) (tx ty : Int) : Bool := w.layer == layer && w.tx == tx && w.ty == ty

/-- Change one swatch; change one tint tile. -/
def onSwatch (layer : Nat) (tx ty : Int) (f : Swatch → Swatch) (s : State) : State :=
  s.onMap fun m => { m with swatches := m.swatches.map fun w => bif w.is layer tx ty then f w else w }
def onTint (layer : Nat) (tx ty : Int) (f : Tint → Tint) (s : State) : State :=
  s.onMap fun m => { m with tints := m.tints.map fun w => bif w.is layer tx ty then f w else w }

def findSwatch (m : MapSt) (layer : Nat) (tx ty : Int) : Option Swatch := m.swatches.find? fun w => w.is layer tx ty

/-- Value of cell `k` at depth `d` in a tile image (R154). -/
def cellVal (img d k : Nat) : Nat := bits img (d * k) d

/-- Coverage of cell (i, j) of a layer: 0 where never allocated, stale, or the map is not ready (R153, R158, R175). -/
def coverAt (s : State) (layer : Nat) (i j : Int) : Nat :=
  if !s.sys.mapReady then 0
  else match findSwatch s.map layer (tileOf 256 i) (tileOf 256 j) with
    | some w => if w.stale then 0 else cellVal w.cells.toNat (depthOf s layer) (cellNo 256 i j)
    | none => 0

/-- Tint of the cell that holds a point, mm: 0xFFFF where none is loaded (R153, R162, R175). -/
def tintAt (s : State) (layer : Nat) (east north : Int) : Nat :=
  let c := tintCellMm s layer
  let i := east / c
  let j := north / c
  if !s.sys.mapReady then 0xFFFF
  else match s.map.tints.find? fun w => w.is layer (tileOf 64 i) (tileOf 64 j) with
    | some w => if w.stale then 0xFFFF else cellVal w.cells.toNat 16 (cellNo 64 i j)
    | none => 0xFFFF

/-! ### Masks (R164) -/

/-- Twice the signed area of (a, b, p). -/
def cross2 (a b p : Int × Int) : Int := (b.1 - a.1) * (p.2 - a.2) - (b.2 - a.2) * (p.1 - a.1)

def onEdge (a b p : Int × Int) : Bool :=
  cross2 a b p == 0 && min a.1 b.1 ≤ p.1 && p.1 ≤ max a.1 b.1 && min a.2 b.2 ≤ p.2 && p.2 ≤ max a.2 b.2

/-- The edge crosses the ray from the point to the east (even-odd rule). -/
def crosses (a b p : Int × Int) : Bool :=
  (decide (a.2 > p.2) != decide (b.2 > p.2)) && (if b.2 > a.2 then decide (cross2 a b p > 0) else decide (cross2 a b p < 0))

/-- The edges of a closed polygon. -/
def edgesOf (v : List (Int × Int)) : List ((Int × Int) × (Int × Int)) :=
  match v with
  | [] => []
  | a :: l => List.zip v (l ++ [a])

def onBorder (v : List (Int × Int)) (p : Int × Int) : Bool := (edgesOf v).any fun e => onEdge e.1 e.2 p
def insideEvenOdd (v : List (Int × Int)) (p : Int × Int) : Bool :=
  ((edgesOf v).filter fun e => crosses e.1 e.2 p).length % 2 == 1

/-- A polygon's vertices in the local plane, 2⁻¹⁶ mm, at the height of its origin (R80). Marks: DESIGN CHOICE (log
22). -/
def planeVertices (o : Origin) (g : Polygon) : List (Int × Int) :=
  g.vertices.map fun v =>
    let p := localOf o.lat o.lon o.h (1000000 * v.1, 1000000 * v.2, 65536 * o.h)
    (p.1, p.2.1)

/-- Class of a point, 2⁻¹⁶ mm, in a polygon set: 0 UNMAPPED, 1 INSIDE, 2 OUTSIDE, 3 EXCLUDED (R164). -/
def classAt (o : Origin) (polys : List Polygon) (p : Int × Int) : Nat :=
  let ex := polys.any fun g => g.exclusion && (onBorder (planeVertices o g) p || insideEvenOdd (planeVertices o g) p)
  let bs := polys.filter fun g => !g.exclusion
  if ex then 3
  else if bs.any fun g => insideEvenOdd (planeVertices o g) p && !onBorder (planeVertices o g) p then 1
  else if bs ≠ [] then 2 else 0

/-- Class of mask cell (i, j): its centre's; EXCLUDED where its word is damaged (R177); UNMAPPED while the map is not
ready (R153). -/
def maskAt (s : State) (i j : Int) : Nat :=
  let m := s.map.mask
  let c : Int := maskCellMm m.cell
  if !s.sys.mapReady then 0
  else if m.bad.any (fun b => b.1 == tileOf 256 i && b.2.1 == tileOf 256 j && b.2.2.1 == cellNo 256 i j / 32) then 3
  else match m.origin with
    | some o => classAt o m.polys ((2 * i + 1) * c * 32768, (2 * j + 1) * c * 32768)
    | none => 0

/-! ### Pools (R158, R160) -/

def usedCov (m : MapSt) : Nat := (m.swatches.map fun w => w.pages.length).sum + (if m.cov.migrating.isSome then 1 else 0)
def usedTint (m : MapSt) : Nat := m.tints.length + (if m.tint.migrating.isSome then 1 else 0)
/-- A raster being built is none of the pool's pages (R164). Marks: DESIGN CHOICE (log 51). -/
def usedMask (m : MapSt) : Nat := m.mask.pages.length + (if m.maskPool.migrating.isSome then 1 else 0)

/-- FREE of a pool of `total` pages, from USED + FREE + ZEROING + RETIRED = total + MIGRATING (R160). -/
def freeOf (total used : Nat) (p : Pool) : Nat :=
  total + (if p.migrating.isSome then 1 else 0) - used - p.zeroing.length - p.retired.length

def freeCov (m : MapSt) : Nat := freeOf 6144 (usedCov m) m.cov
def freeTint (m : MapSt) : Nat := freeOf 1024 (usedTint m) m.tint
def freeMask (m : MapSt) : Nat := freeOf 256 (usedMask m) m.maskPool

/-- The lowest page from `p` on that is not taken. Marks: DESIGN CHOICE (log 51). -/
def firstFree (taken : List Nat) : Nat → Nat → Option Nat
  | 0, _ => none
  | n + 1, p => if taken.contains p then firstFree taken n (p + 1) else some p

/-- Coverage pages that cannot be allocated. -/
def takenCov (m : MapSt) : List Nat :=
  (m.swatches.flatMap fun w => w.pages) ++ m.cov.zeroing ++ m.cov.retired ++ (m.cov.migrating.map (·.2)).toList

/-- `n` zeroed free pages, lowest first (R158). Marks: DESIGN CHOICE (log 51). -/
def freePages (taken : List Nat) (total : Nat) : Nat → List Nat → Option (List Nat)
  | 0, acc => some acc
  | n + 1, acc =>
    match firstFree (acc ++ taken) total 0 with
    | some p => freePages taken total n (acc ++ [p])
    | none => none

/-- POOL_LOW at the instant FREE comes to lie below LOW_WATER (R184). -/
def poolLow (s : State) : State :=
  let now := decide (freeCov s.map < lowWater s)
  let s1 := s.onMap fun m => { m with low := now }
  if now ∧ !s.map.low then notice .map 0x01 0xFFFF [] s1 else s1

def layerPages (m : MapSt) (j : Nat) : Nat := ((m.swatches.filter fun w => w.layer == j).map fun w => w.pages.length).sum

/-- Allocate a swatch: its pages, within the layer's quota (R158); none where the pool is full for the layer. -/
def allocSwatch (layer : Nat) (tx ty : Int) (s : State) : Option State :=
  let d := depthOf s layer
  if quota s layer ≠ 0 ∧ layerPages s.map layer + d > quota s layer then none
  else
    match freePages (takenCov s.map) 6144 d [] with
    | none => none
    | some ps =>
      some (poolLow (s.onMap fun m => { m with swatches := m.swatches ++ [{ layer := layer, tx := tx, ty := ty, pages := ps }] }))

/-! ### The cache (R165, R166) -/

/-- Bring a line into the cache: a hit, or the replacement of the least recently used line not named in this frame or the
last. -/
def touchLine (k : LineKey) (dirty : Bool) (s : State) : State :=
  if s.map.cache.any fun l => l.key == k then
    s.onMap fun m => { m with cache := m.cache.map fun l => if l.key = k then { l with dirty := l.dirty || dirty, lastUse := s.pm } else l }
  else
    let l : Line := { key := k, dirty := dirty, lastUse := s.pm }
    if s.map.cache.length < 128 then s.onMap fun m => { m with cache := m.cache ++ [l] }
    else
      let free := s.map.cache.filter fun x => x.named + 2 * frameTicks ≤ s.pm
      match free with
      | [] => s
      | x :: xs =>
        let v := xs.foldl (fun a b => if b.lastUse < a.lastUse then b else a) x
        s.onMap fun m => { m with cache := (m.cache.filter fun y => y.key != v.key) ++ [l] }

/-- A line can be brought in: there is room, or a line that may be replaced (R166). -/
def lineRoom (s : State) : Bool :=
  decide (s.map.cache.length < 128) || s.map.cache.any fun x => decide (x.named + 2 * frameTicks ≤ s.pm)

/-- A demand read of a line: up to 8 misses are served in a decision phase, where a line can be brought in; the second
component says whether the line is there (R165). -/
def demandLine (k : LineKey) (s : State) : State × Bool :=
  if s.map.cache.any fun l => l.key == k then (touchLine k false s, true)
  else if s.map.misses < 8 ∧ lineRoom s then (touchLine k false (s.onMap fun m => { m with misses := m.misses + 1 }), true)
  else (s, false)

/-- The cache line of a coverage cell, and of a mask cell. -/
def coverLine (s : State) (layer : Nat) (i j : Int) : LineKey :=
  .cover layer (tileOf 256 i) (tileOf 256 j) (cellNo 256 i j * depthOf s layer / 65536)
def maskLine (i j : Int) : LineKey := .mask (tileOf 256 i) (tileOf 256 j) (cellNo 256 i j / 32768)

/-- Freed pages wait to be zeroed, those to be retired are (R158, R178). -/
def Pool.free (p : Pool) (ps : List Nat) : Pool :=
  { p with zeroing := p.zeroing ++ ps.filter (fun n => !p.leaving.contains n)
           retired := p.retired ++ ps.filter (fun n => p.leaving.contains n)
           leaving := p.leaving.filter fun n => !ps.contains n }

/-! ### Mask builds (R164) -/

/-- The origin the device works with, or zeros. -/
def originOf (s : State) : Origin := s.pos.origin.getD {}

/-- The class every cell of a mask tile has, where they all have one. -/
def tileClass (o : Origin) (polys : List Polygon) (cell : Nat) (tx ty : Int) : Option Nat :=
  let at_ (k : Nat) : Nat := classAt o polys ((2 * (256 * tx + (k % 256 : Nat)) + 1) * cell * 32768, (2 * (256 * ty + (k / 256 : Nat)) + 1) * cell * 32768)
  if (List.range 65536).all fun k => at_ k == at_ 0 then some (at_ 0) else none

/-- The tiles the polygons' vertices span. -/
def spannedTiles (o : Origin) (polys : List Polygon) (cell : Nat) : List (Int × Int) :=
  match polys.flatMap (planeVertices o) with
  | [] => []
  | v :: l =>
    let u : Int := 65536 * 256 * cell
    let x0 := l.foldl (fun m p => min m (p.1 / u)) (v.1 / u)
    let x1 := l.foldl (fun m p => max m (p.1 / u)) (v.1 / u)
    let y0 := l.foldl (fun m p => min m (p.2 / u)) (v.2 / u)
    let y1 := l.foldl (fun m p => max m (p.2 / u)) (v.2 / u)
    (List.range (y1 - y0 + 1).toNat).flatMap fun (j : Nat) => (List.range (x1 - x0 + 1).toNat).map fun (i : Nat) => (x0 + i, y0 + j)

/-- Tiles with a page of their own, those whose cells differ in class, and the number of directory entries: these and
the uniform tiles of a class other than that beyond every polygon. Marks: DESIGN CHOICE (log 51). -/
def maskTiles (o : Origin) (polys : List Polygon) (cell : Nat) : List (Int × Int) × Nat :=
  let beyond : Nat := if polys.any fun g => !g.exclusion then 2 else 0
  let ts := spannedTiles o polys cell
  (ts.filter fun t => (tileClass o polys cell t.1 t.2).isNone,
   (ts.filter fun t => tileClass o polys cell t.1 t.2 != some beyond).length)

/-- A mask build starts from the stored polygons (R164). -/
def startBuild (s : State) : State :=
  let cell := s.act.fld .map 48 2
  let sz := maskTiles (originOf s) s.map.polys (maskCellMm cell)
  s.onMap fun m => { m with building := some { polys := m.polys, origin := some (originOf s), cell := cell, tiles := sz.1, entries := sz.2 } }

/-! ### ECC and migration (R161, R176 to R178) -/

/-- Tint and mask pages that cannot be allocated. -/
def takenTint (m : MapSt) : List Nat := m.tints.map (·.page) ++ m.tint.zeroing ++ m.tint.retired ++ (m.tint.migrating.map (·.2)).toList
def takenMask (m : MapSt) : List Nat := m.mask.pages ++ m.maskPool.zeroing ++ m.maskPool.retired ++ (m.maskPool.migrating.map (·.2)).toList

/-- A page is to be migrated and retired, once. -/
def Pool.leave (p : Pool) (n : Nat) : Pool :=
  if p.leaving.contains n || p.retired.contains n || p.migrating.any (fun m => m.1 == n) then p else { p with leaving := p.leaving ++ [n] }

/-- The first page that waits begins to be copied to the lowest free page. -/
def Pool.startMove (p : Pool) (taken : List Nat) (total : Nat) : Option Pool :=
  match p.leaving, firstFree taken total 0 with
  | n :: l, some q => some { p with migrating := some (n, q), leaving := l }
  | _, _ => none

/-- The old page of a migration that has ended is retired. -/
def Pool.endMove (p : Pool) (old : Nat) : Pool := { p with migrating := none, retired := p.retired ++ [old] }

/-- The line holds the page a pool is migrating. -/
def holdsPage (m : MapSt) (p : Pool) (k : LineKey) : Bool :=
  match k, p.migrating with
  | .cover j tx ty part, some (n, _) => (findSwatch m j tx ty).any fun w => w.pages[part]? == some n
  | _, _ => false

/-- The error lies in the word of cell (i, j), in tiles of `w × w` with `n` cells to the word. -/
def inTile (x : EccIn) (w n : Nat) (i j : Int) : Bool :=
  x.tx == tileOf w i && x.ty == tileOf w j && x.word == cellNo w i j / n

/-- The page an error lies in is to be migrated (R178): 1,024 words to a page of 8 KiB. -/
def retirePage (x : EccIn) (s : State) : State :=
  match x.region with
  | .coverage => match (findSwatch s.map x.layer.val x.tx x.ty).bind fun w => w.pages[x.word / 1024]? with
    | some p => s.onMap fun m => { m with cov := m.cov.leave p }
    | none => s
  | .tint => match s.map.tints.find? fun w => w.is x.layer.val x.tx x.ty with
    | some w => s.onMap fun m => { m with tint := m.tint.leave w.page }
    | none => s
  | .mask => match (List.zip s.map.mask.tiles s.map.mask.pages).find? fun t => t.1 == (x.tx, x.ty) with
    | some t => s.onMap fun m => { m with maskPool := m.maskPool.leave t.2 }
    | none => s
  | _ => s

/-- Pages retired since `old`: PAGE_RETIRED for each, DEGRADED where more than 61 of the coverage pool have come to be (R178). -/
def noteRetired (old : MapSt) (s : State) : State :=
  let count (m : MapSt) : Nat := m.cov.retired.length + m.tint.retired.length + m.maskPool.retired.length
  let s1 := (List.range (count s.map - count old)).foldl (fun t _ => notice .map 0x07 0xFFFF [] t) s
  if old.cov.retired.length ≤ 61 ∧ 61 < s.map.cov.retired.length then notice .map 0x0D 0xFFFF [] s1 else s1

/-- Words that are written anew, or whose page is given up: no error is known in them any more. -/
def forgetErrors (hit : EccIn → Bool) (m : MapSt) : MapSt :=
  { m with upsets := m.upsets.filter fun x => !hit x, mended := m.mended.filter fun x => !hit x }

/-- The error lies in a page that is being copied (R161). -/
def inMove (m : MapSt) (x : EccIn) : Bool :=
  match x.region with
  | .coverage => m.cov.migrating.any fun p => ((findSwatch m x.layer.val x.tx x.ty).bind fun w => w.pages[x.word / 1024]?) == some p.1
  | .tint => m.tint.migrating.any fun p => m.tints.any fun w => w.is x.layer.val x.tx x.ty && w.page == p.1
  | .mask => m.maskPool.migrating.any fun p => (List.zip m.mask.tiles m.mask.pages).any fun t => t.1 == (x.tx, x.ty) && t.2 == p.1
  | _ => false

/-- The error lies in a page or half tile that a cache line holds (R165). -/
def inLine (k : LineKey) (x : EccIn) : Bool :=
  match k, x.region with
  | .cover j tx ty part, .coverage => x.layer.val == j && x.tx == tx && x.ty == ty && x.word / 1024 == part
  | .mask tx ty part, .mask => x.tx == tx && x.ty == ty && x.word / 1024 == part
  | _, _ => false

/-- A corrected error has been seen in this word before. -/
def recurs (x : EccIn) (s : State) : Bool := s.map.mended.contains { x with double := false, addr := 0 }

/-- One word in error (R176 to R178): corrected and counted, or lost with the effect its region gives; its page is retired
where the error recurs or is lost. -/
def eccWord (x : EccIn) (s : State) : State :=
  if !x.double then
    let s1 := notice .map 0x05 0xFFFF [] (s.onMap fun m => { m with eccCorr := m.eccCorr + 1 })
    if recurs x s then retirePage x (s1.onMap fun m => { m with mended := m.mended.filter (· != { x with double := false, addr := 0 }) })
    else s1.onMap fun m => { m with mended := m.mended ++ [{ x with double := false, addr := 0 }] }
  else
    let s1 := notice .map 0x06 0xFFFF (leBytes 4 x.addr.toNat)
      (logFault 0x22 .map 0xFFFF reactReport 0 0x06 (s.onMap fun m => { m with eccUnc := m.eccUnc + 1 }))
    let s2 := retirePage x s1
    match x.region with
    | .coverage => onSwatch x.layer.val x.tx x.ty
        (fun w => { w with cells := BitVec.ofNat _ (setBits w.cells.toNat (64 * x.word) 64 0) }) s2
    | .tint => onTint x.layer.val x.tx x.ty
        (fun w => { w with cells := BitVec.ofNat _ (setBits w.cells.toNat (64 * x.word) 64 (2 ^ 64 - 1)) }) s2
    | .mask => startBuild (s2.onMap fun m => { m with mask := { m.mask with bad := m.mask.bad ++ [(x.tx, x.ty, x.word, x.addr.toNat)] } })
    | .polygon => s2.onMap fun m => { m with polyDamaged := true }
    | .log => s2.onMap fun m => { m with ring := m.ring.map fun b =>
        if b.seq = x.word then { b with damaged := true, records := b.records.map fun r => r ^^^ 1 } else b }

/-- An access meets the errors among the words it reads: each is handled (R176, R177). The second component are the map
addresses of the uncorrectable ones. -/
def meetErrors (hit : EccIn → Bool) (s : State) : State × List Nat :=
  let hits := s.map.upsets.filter hit
  if hits = [] then (s, [])
  else (hits.foldl (fun t x => eccWord x t) (s.onMap fun m => { m with upsets := m.upsets.filter fun x => !hit x }),
        (hits.filter (·.double)).map (·.addr.toNat))

/-- The lines that came into the cache from `old` to `fetched` were read from the DRAM: the errors in them are met (R176). -/
def meetLines (old fetched s : State) : State :=
  (meetErrors (fun x => fetched.map.cache.any fun l => inLine l.key x && !(old.map.cache.any fun o => o.key == l.key)) s).1
/-- The same where nothing else has been done since. -/
def meetFetched (old s : State) : State := meetLines old s s

/-! ### Painting (R155, R159, R168) -/

/-- One more application of cell `k`: 1 at depth 1; up to 3 at depth 2. -/
def paintCell (d k img : Nat) : Nat :=
  let v := cellVal img d k
  setBits img (d * k) d (if d = 1 then 1 else min 3 (v + 1))

/-- Extend a gap of dropped paints (R153, R175). -/
def Gap.extend (g : Option Gap) (pm : Tick) (n : Nat) : Option Gap :=
  match g with
  | some g => some { g with last := pm, count := g.count + n }
  | none => some { first := pm, last := pm, count := n }

/-- The clean swatch painted least recently and not named by prefetch within PREFETCH_MS, of one layer where its quota
blocks (R159). Marks: DEDUCED (log 50). -/
def evictable (only : Option Nat) (s : State) : Option Swatch :=
  let c := s.map.swatches.filter fun w => !w.dirty && w.named + msTicks (s.act.fld .map 144 16) ≤ s.pm
    && (match only with
      | some j => w.layer == j
      | none => true)
  match c with
  | [] => none
  | x :: xs => some (xs.foldl (fun a b => if b.lastPaint < a.lastPaint then b else a) x)

/-- The line of cell `k` of a coverage tile. -/
def tileLine (s : State) (layer : Nat) (tx ty : Int) (k : Nat) : LineKey := .cover layer tx ty (k * depthOf s layer / 65536)

/-- Paint cells of one swatch: errors in the words written are met, and the lines become dirty (R165, R176). -/
def paintInto (layer : Nat) (tx ty : Int) (ks : List Nat) (s0 : State) : State :=
  let s := (meetErrors (fun x => x.region == .coverage && x.layer.val == layer && x.tx == tx && x.ty == ty
    && ks.any fun k => k * depthOf s0 layer / 64 == x.word) s0).1
  let s1 := onSwatch layer tx ty (fun w => { w with
    cells := BitVec.ofNat _ (ks.foldl (fun img k => paintCell (depthOf s layer) k img) w.cells.toNat)
    dirty := true, lastPaint := s.pm }) s
  ((ks.map (tileLine s layer tx ty)).eraseDups).foldl (fun t l => touchLine l true t) s1

/-- Evict until `d` pages can be had within the layer's quota: the state and the pages freed; none where that is not
possible (R159). Marks: DEDUCED (log 50). -/
def evictFor (layer d : Nat) : Nat → State → List Nat → Option (State × List Nat)
  | 0, _, _ => none
  | n + 1, s, freed =>
    let atQuota := quota s layer ≠ 0 ∧ layerPages s.map layer + d > quota s layer
    if !atQuota ∧ (freePages (freed ++ takenCov s.map) 6144 (d - freed.length) []).isSome then some (s, freed)
    else match evictable (if atQuota then some layer else none) s with
      | some v => evictFor layer d n (notice .map 0x03 v.layer [] (s.onMap fun m => { m with
          swatches := m.swatches.filter fun w => !(w.is v.layer v.tx v.ty) })) (freed ++ v.pages)
      | none => none

/-- A swatch on pages an eviction freed, and free ones where those do not suffice; a page left over is zeroed in the
background. Its paint waits, so it is not clean. Marks: DEDUCED (log 50). -/
def allocEvicted (layer : Nat) (tx ty : Int) (s : State) : Option State :=
  let d := depthOf s layer
  match (if evictClean s then evictFor layer d (s.map.swatches.length + 1) s [] else none) with
  | none => none
  | some r =>
    let more := (freePages (r.2 ++ takenCov r.1.map) 6144 (d - r.2.length) []).getD []
    some (noteRetired r.1.map <| poolLow (r.1.onMap fun m => { m with
      swatches := m.swatches ++ [{ layer := layer, tx := tx, ty := ty, pages := r.2.take d ++ more, dirty := true, lastPaint := s.pm }]
      cov := m.cov.free (r.2.drop d) }))

/-- Paint cells of one tile. Where no swatch can be had, a clean one is evicted and the paint waits for the next
frame, or the paint is dropped with POOL_FULL and a PAINT_GAP record (R159). The second component: paint left waiting.
Marks: DEDUCED (log 48), DEDUCED (log 50). -/
def paintTile (layer : Nat) (tx ty : Int) (ks : List Nat) (s : State) : State × Bool :=
  match findSwatch s.map layer tx ty with
  | some _ => (paintInto layer tx ty ks s, false)
  | none =>
    match allocSwatch layer tx ty s with
    | some s1 => (paintInto layer tx ty ks s1, false)
    | none =>
      match allocEvicted layer tx ty s with
      | some s1 => (s1, true)
      | none => (paintGap 0xFF 2 s.pm s.pm ks.length (notice .map 0x02 layer [] s), false)

/-- The tiles a list of cells falls into, each once. -/
def tilesOf (cells : List (Int × Int)) : List (Int × Int) := (cells.map fun c => (tileOf 256 c.1, tileOf 256 c.2)).eraseDups

/-- Paint cells (i, j) of a layer (R168). The second component are the cells left waiting. -/
def paint (layer : Nat) (cells : List (Int × Int)) (s : State) : State × List (Int × Int) :=
  if cells = [] then (s, [])
  else if !s.sys.mapReady then (s.onMap fun m => { m with gap := Gap.extend m.gap s.pm 1 }, [])
  else if s.map.swatches.any fun w => w.layer == layer && w.stale then
    (s.onMap fun m => { m with staleGap := match idx? 4 layer with
      | some j => m.staleGap.set j (Gap.extend m.staleGap[j] s.pm 1)
      | none => m.staleGap }, [])
  else
    (tilesOf cells).foldl (fun (acc : State × List (Int × Int)) t =>
      let here := cells.filter fun c => tileOf 256 c.1 == t.1 && tileOf 256 c.2 == t.2
      let r := paintTile layer t.1 t.2 (here.map fun c => cellNo 256 c.1 c.2) acc.1
      (r.1, if r.2 then acc.2 ++ here else acc.2)) (s, [])

/-! ### Streams (R171, R172) -/

/-- A stream header (R171). -/
def streamHeader (kind layer depth merge cell : Nat) (o : Origin) (records created boot : Nat) : List Byte :=
  let b := leBytes 4 0x4D524C47 ++ leBytes 2 1 ++ leBytes 1 kind ++ leBytes 1 (layer ||| depth <<< 2 ||| merge <<< 3) ++ leBytes 2 cell
    ++ leBytes 2 0 ++ leBytes 4 (uint 32 o.lat) ++ leBytes 4 (uint 32 o.lon) ++ leBytes 4 (uint 32 o.h) ++ leBytes 4 records
    ++ leBytes 8 created ++ leBytes 4 boot ++ List.replicate 20 0
  b ++ leBytes 4 (crc32 b)

/-- A tile record with raw data (R172). -/
def tileRecord (tx ty : Int) (data : List Byte) : List Byte :=
  leBytes 2 (uint 16 tx) ++ leBytes 2 (uint 16 ty) ++ leBytes 4 0 ++ leBytes 4 data.length ++ leBytes 4 (crc32 data) ++ data

/-- Run-length data: the tile image of 65,536 cells at depth `d`; none where the runs do not add up or a value does not
fit. -/
def decodeRle (d : Nat) : List Byte → Nat → Nat → Option Nat
  | lo :: hi :: l, k, img =>
    let t := lo.toNat + 256 * hi.toNat
    let v := t / 16384
    let n := t % 16384 + 1
    if k + n > 65536 ∨ v ≥ 2 ^ d then none
    else decodeRle d l (k + n) (img ||| (v * ((2 ^ (d * n) - 1) / (2 ^ d - 1))) <<< (d * k))
  | [], k, img => if k = 65536 then some img else none
  | [_], _, _ => none

/-- The image of `n` cells of `d` bits that all hold `v`. -/
def uniformImage (d n v : Nat) : Nat := v * ((2 ^ (d * n) - 1) / (2 ^ d - 1))

/-- The data of a tile record of kind 1 (coverage, depth `d`) or 2 (tint) as an image. -/
def decodeTile (kind d enc : Nat) (data : List Byte) : Option Nat :=
  if kind = 1 then
    match enc with
    | 0 => if data.length = 8192 * d then some (leNat data) else none
    | 1 => decodeRle d data 0 0
    | 2 => if data.length = 2 ∧ leNat data < 2 ^ d then some (uniformImage d 65536 (leNat data)) else none
    | _ => none
  else
    match enc with
    | 0 => if data.length = 8192 then some (leNat data) else none
    | 2 => if data.length = 2 then some (uniformImage 16 4096 (leNat data)) else none
    | _ => none

/-- The tile records of an import; a left value is the number of the first record that fails. Marks: DEDUCED (log 52).
-/
def parseTiles (kind d : Nat) : Nat → Nat → List Byte → Except Nat (List (Int × Int × Nat))
  | 0, _, _ => .ok []
  | n + 1, k, bs =>
    if bs.length < 16 then .error k
    else
      let h := bs.take 16
      let len := recN h 64 32
      let data := slice bs 16 len
      if recN h 34 30 ≠ 0 ∨ data.length < len ∨ crc32 data ≠ recN h 96 32 then .error k
      else
        match decodeTile kind d (recN h 32 2) data with
        | none => .error k
        | some img =>
          match parseTiles kind d n (k + 1) (bs.drop (16 + len)) with
          | .error e => .error e
          | .ok l => .ok ((recS h 0 16, recS h 16 16, img) :: l)

/-- Polygon records (R163, R172). Marks: DEDUCED (log 52). -/
def parsePolys : Nat → Nat → List Byte → Except Nat (List Polygon)
  | 0, _, _ => .ok []
  | n + 1, k, bs =>
    if bs.length < 16 then .error k
    else
      let h := bs.take 16
      let verts := recN h 32 32
      let len := recN h 64 32
      let data := slice bs 16 len
      if recN h 9 23 ≠ 0 ∨ recN h 0 8 > 63 ∨ verts < 3 ∨ len ≠ 8 * verts ∨ data.length < len ∨ crc32 data ≠ recN h 96 32 then .error k
      else
        match parsePolys n (k + 1) (bs.drop (16 + len)) with
        | .error e => .error e
        | .ok l => .ok ({ index := recN h 0 8, exclusion := recN h 8 1 == 1,
                          vertices := (chunks 8 data).map fun c => (recS c 0 32, recS c 32 32) } :: l)

/-- Bytes the records of a stream take, whole, from the front; used to see that none follows the last (R173). -/
def recordBytes : Nat → List Byte → Nat
  | 0, _ => 0
  | n + 1, bs => let len := 16 + recN (bs.take 16) 64 32; len + recordBytes n (bs.drop len)

/-! ### Applying an import (R173) -/

/-- Cell by cell the larger of two images of depth `d`. -/
def mergeCells (d : Nat) (a b : BitVec 131072) : BitVec 131072 :=
  if d = 1 then a ||| b
  else
    let l : BitVec 131072 := BitVec.ofNat _ ((2 ^ 131072 - 1) / 3)
    let ah := (a >>> 1) &&& l
    let al := a &&& l
    let bh := (b >>> 1) &&& l
    let bl := b &&& l
    let ge := ((ah &&& ~~~bh) ||| (~~~(ah ^^^ bh) &&& (al ||| ~~~bl))) &&& l
    let full := ge ||| (ge <<< 1)
    (a &&& full) ||| (b &&& ~~~full)

/-- All words of a coverage tile are read: the errors in them are met (R176). -/
def meetTile (layer : Nat) (tx ty : Int) (s : State) : State :=
  (meetErrors (fun x => x.region == .coverage && x.layer.val == layer && x.tx == tx && x.ty == ty) s).1

/-- One imported coverage tile: merged into its swatch, whose words are read, or which is allocated where it is missing
(R173, R176). -/
def applyCover (layer : Nat) (t : Int × Int × Nat) (s : State) : Option State :=
  let s1 := match findSwatch s.map layer t.1 t.2.1 with
    | some _ => some (meetTile layer t.1 t.2.1 s)
    | none => allocSwatch layer t.1 t.2.1 s
  s1.map (onSwatch layer t.1 t.2.1 fun w =>
    { w with cells := mergeCells (depthOf s layer) w.cells (BitVec.ofNat _ t.2.2), dirty := true })

/-- One imported tint tile replaces the named tile. -/
def applyTint (layer : Nat) (t : Int × Int × Nat) (s : State) : Option State :=
  if s.map.tints.any fun w => w.is layer t.1 t.2.1 then
    some (onTint layer t.1 t.2.1 (fun w => { w with cells := BitVec.ofNat _ t.2.2, stale := false })
      (s.onMap (forgetErrors fun (x : EccIn) => x.region == .tint && x.layer.val == layer && x.tx == t.1 && x.ty == t.2.1)))
  else
    (firstFree (takenTint s.map) 1024 0).map fun p =>
      s.onMap fun m => { m with tints := m.tints ++ [{ layer := layer, tx := t.1, ty := t.2.1, page := p, cells := BitVec.ofNat _ t.2.2 }] }

/-- Fold a partial update over a list. -/
def applyAll {α : Type} (f : α → State → Option State) : List α → State → Option State
  | [], s => some s
  | x :: xs, s => match f x s with
    | some t => applyAll f xs t
    | none => none

/-- Free a layer's swatches into ZEROING; a gap of paints dropped while it was stale is recorded (R158, R175, R389). -/
def clearCover (layer : Nat) (s : State) : State :=
  let freed := (s.map.swatches.filter fun w => w.layer == layer).flatMap fun w => w.pages
  let g := match idx? 4 layer with
    | some j => s.map.staleGap[j]
    | none => none
  let s1 := noteRetired s.map <| (s.onMap (forgetErrors fun x => x.region == .coverage && x.layer.val == layer)).onMap fun m => { m with
    swatches := m.swatches.filter fun w => w.layer != layer
    cov := m.cov.free freed
    staleGap := match idx? 4 layer with
      | some j => m.staleGap.set j none
      | none => m.staleGap }
  match g with
  | some g => paintGap 0xFF 4 g.first g.last g.count s1
  | none => s1

def clearTint (layer : Nat) (s : State) : State :=
  noteRetired s.map <| (s.onMap (forgetErrors fun x => x.region == .tint && x.layer.val == layer)).onMap fun m => { m with
    tints := m.tints.filter (fun w => w.layer != layer)
    tint := m.tint.free ((m.tints.filter fun w => w.layer == layer).map (·.page)) }

/-- The polygons are dropped and the mask's pages freed (R389). -/
def clearMask (m : MapSt) : MapSt :=
  { m with polys := [], polyDamaged := false, building := none, built := none, maskPool := m.maskPool.free m.mask.pages
           mask := { m.mask with polys := [], tiles := [], pages := [], entries := 0, bad := [] } }

/-- LOAD_DONE with a status (R173). -/
def loadDone (st : Status) (s : State) : State := notice .map 0x09 0xFFFF (leBytes 4 (statusCode st)) s

/-- What a complete import does to the map (R173); none where a record fails or an allocation is not possible. Marks:
DEDUCED (log 52). -/
def importResult (l : Load) (s : State) : Except (Status × Nat) State :=
  let h := l.header
  let kind := recN h 48 8
  let layer := recN h 56 2
  let n := recN h 192 32
  if kind = 3 then
    match parsePolys n 0 l.data with
    | .error k => .error (.badParam, k)
    | .ok ps =>
      if recordBytes n l.data ≠ l.data.length then .error (.badParam, n)
      else if n > 64 ∨ (ps.map fun g => g.vertices.length).sum > 65536 then .error (.range, 0xFFFFFFFF)
      else .ok (startBuild (s.onMap fun m => { m with polys := ps, polyDamaged := false }))
  else
    match parseTiles kind (depthOf s layer) n 0 l.data with
    | .error k => .error (.badParam, k)
    | .ok ts =>
      if recordBytes n l.data ≠ l.data.length then .error (.badParam, n)
      else if kind = 1 then
        let s0 := if recN h 59 1 = 0 then clearCover layer s else s
        match applyAll (applyCover layer) ts s0 with
        | some t => .ok t
        | none => .error (.range, 0xFFFFFFFF)
      else
        match applyAll (applyTint layer) ts s with
        | some t => .ok t
        | none => .error (.range, 0xFFFFFFFF)

/-- The device state allows the import: coverage replaces only in STANDBY, merges in STANDBY, ARMED and MANUAL and in
a COAST from them (R173). Marks: DEDUCED (log 52). -/
def importAllowed (h : List Byte) (s : State) : Bool :=
  recN h 48 8 != 1 || s.sys.dev == .standby
    || (recN h 59 1 == 1 && (s.sys.dev == .armed || s.sys.dev == .manual || s.sys.dev == .coast))

/-- The completed import at its frame edge. -/
def applyImport (s : State) : State :=
  match s.map.load with
  | none => s
  | some l =>
    let s0 := s.onMap fun m => { m with load := none }
    if !importAllowed l.header s then loadDone .state s0
    else match importResult l s0 with
    | .ok t => loadDone .ok t
    | .error (st, _) => loadDone st s0

/-! ### The map requests (R385 to R389) -/

/-- Map status (R386). Marks: DEDUCED (log 53). -/
def mapStatusBytes (s : State) : List Byte :=
  let m := s.map
  let pool (used free : Nat) (p : Pool) := leBytes 2 used ++ leBytes 2 free ++ leBytes 2 p.zeroing.length ++ leBytes 2 p.retired.length
  let count (j : Nat) := (m.swatches.filter fun w => w.layer == j).length
  pool (usedCov m) (freeCov m) m.cov ++ pool (usedTint m) (freeTint m) m.tint ++ pool (usedMask m) (freeMask m) m.maskPool
    ++ leBytes 1 (b2n m.cov.migrating.isSome ||| b2n m.tint.migrating.isSome <<< 1 ||| b2n m.maskPool.migrating.isSome <<< 2
      ||| b2n s.sys.mapReady <<< 3 ||| b2n m.load.isSome <<< 4 ||| b2n m.exp.isSome <<< 5 ||| b2n m.polyDamaged <<< 6)
    ++ leBytes 1 s.sys.dramTest ++ leBytes 2 (count 0) ++ leBytes 2 (count 1) ++ leBytes 2 (count 2) ++ leBytes 2 (count 3)
    ++ leBytes 2 (unexported m) ++ leBytes 4 s.pd0.blockSeq

def opMapStatus (_e : Env) (s : State) : State × Answer := doneWith (mapStatusBytes s) s

/-- The origin of a stream matches the device's within 10⁻⁷° and 1 mm (R171). Marks: DEDUCED (log 37). -/
def originMatches (s : State) (h : List Byte) : Bool :=
  match s.pos.origin with
  | none => false
  | some o => (recS h 96 32 - o.lat).natAbs ≤ 1 && (recS h 128 32 - o.lon).natAbs ≤ 1 && (recS h 160 32 - o.h).natAbs ≤ 1

/-- The cell size a stream of a kind and layer must carry, mm (R171). -/
def streamCell (s : State) (kind layer : Nat) : Nat :=
  match kind with
  | 1 => cellMm s layer
  | 2 => tintCellMm s layer
  | 4 => maskCellMm s.map.mask.cell
  | _ => 0

/-- MAP_LOAD_BEGIN's checks (R171, R173, R375, R387). -/
def loadBeginBad (e : Env) (s : State) : Option Status :=
  let h := e.payload
  let kind := recN h 48 8
  let layer := recN h 56 2
  firstBad
    [ (recN h 60 4 ≠ 0 || recN h 80 16 ≠ 0 || recN h 320 160 ≠ 0 || kind = 0 || kind > 4, .badParam),
      (!s.sys.mapReady, .busy),
      (s.map.load.isSome, .busy),
      (recN h 480 32 ≠ crc32 (h.take 60) || recN h 0 32 ≠ 0x4D524C47 || recN h 32 16 ≠ 1 || kind = 4, .badParam),
      (!originMatches s h, .badParam),
      (recN h 64 16 ≠ streamCell s kind layer || (kind = 1 && recN h 58 1 + 1 ≠ depthOf s layer) || (kind = 3 && layer ≠ 0), .badParam),
      (!importAllowed h s, .state) ]

def opMapLoadBegin (e : Env) (s : State) : State × Answer :=
  match loadBeginBad e s with
  | some st => deny st s
  | none => done (s.onMap fun m => { m with load := some { header := e.payload, lastPm := s.pm } })

def opMapLoadData (e : Env) (s : State) : State × Answer :=
  if !s.sys.mapReady then deny .busy s
  else match s.map.load with
    | none => deny .state s
    | some l =>
      if l.ending then deny .state s
      else if arg e 0 32 ≠ l.data.length then (s, { status := .badParam, data := leBytes 4 l.data.length })
      else
        let l1 := { l with data := l.data ++ e.payload.drop 4, lastPm := s.pm }
        doneWith (leBytes 4 l1.data.length) (s.onMap fun m => { m with load := some l1 })

/-- MAP_LOAD_END (R173, R387): every record is checked now; a good import waits for its frame edge. Marks: DEDUCED
(log 52). -/
def opMapLoadEnd (e : Env) (s : State) : State × Answer :=
  if !s.sys.mapReady then (s, { status := .busy, data := leBytes 4 0xFFFFFFFF })
  else match s.map.load with
    | none => (s, { status := .state, data := leBytes 4 0xFFFFFFFF })
    | some l =>
      if l.ending ∨ !importAllowed l.header s then (s, { status := .state, data := leBytes 4 0xFFFFFFFF })
      else match importResult l s with
        | .error (st, k) => (loadDone st (s.onMap fun m => { m with load := none }), { status := st, data := leBytes 4 k })
        | .ok _ =>
          (waitEdge 0x0303 e [.mapApply] (s.onMap fun m => { m with load := some { l with ending := true } }),
           { status := if recN l.header 48 8 = 3 then .accepted else .ok, effectPm := nextEdge s.pm, data := leBytes 4 0xFFFFFFFF })

def opMapLoadAbort (_e : Env) (s : State) : State × Answer :=
  if !s.sys.mapReady then deny .busy s
  else match s.map.load with
    | none => deny .state s
    | some _ => done (s.onSys (fun y => { y with edgeQ := y.edgeQ.filter fun i => i.act != .mapApply }) |>.onMap fun m => { m with load := none })

/-- The tiles an export of a kind takes, in store order (R174, R388). -/
def exportKeys (s : State) (kind layer : Nat) (dirty : Bool) : List (Int × Int) :=
  match kind with
  | 1 => (s.map.swatches.filter fun w => w.layer == layer && (!dirty || w.dirty)).map fun w => (w.tx, w.ty)
  | 2 => (s.map.tints.filter fun w => w.layer == layer).map fun w => (w.tx, w.ty)
  | 3 => s.map.polys.map fun g => ((g.index : Int), 0)
  | _ => s.map.mask.tiles

/-- The record of one exported tile, raw (the model's choice of encoding). Marks: DESIGN CHOICE (log 51). -/
def exportTile (s : State) (kind layer : Nat) (k : Int × Int) : List Byte :=
  match kind with
  | 1 => match findSwatch s.map layer k.1 k.2 with
    | some w => tileRecord k.1 k.2 (leBytes (8192 * depthOf s layer) w.cells.toNat)
    | none => tileRecord k.1 k.2 (List.replicate (8192 * depthOf s layer) 0)
  | 2 => match s.map.tints.find? fun w => w.is layer k.1 k.2 with
    | some w => tileRecord k.1 k.2 (leBytes 8192 w.cells.toNat)
    | none => tileRecord k.1 k.2 (List.replicate 8192 0xFF)
  | 3 => match s.map.polys.find? fun g => (g.index : Int) == k.1 with
    | some g =>
      let d := g.vertices.flatMap fun v => leBytes 4 (uint 32 v.1) ++ leBytes 4 (uint 32 v.2)
      leBytes 1 g.index ++ leBytes 1 (b2n g.exclusion) ++ leBytes 2 0 ++ leBytes 4 g.vertices.length ++ leBytes 4 d.length
        ++ leBytes 4 (crc32 d) ++ d
    | none => []
  | _ =>
    let img := (List.range 65536).foldl (fun n c => n ||| maskAt s (k.1 * 256 + (c % 256 : Nat)) (k.2 * 256 + (c / 256 : Nat)) <<< (2 * c)) 0
    tileRecord k.1 k.2 (leBytes 16384 img)

/-- Bytes of one record of an export. -/
def exportSize (s : State) (kind layer : Nat) (k : Int × Int) : Nat :=
  match kind with
  | 1 => 16 + 8192 * depthOf s layer
  | 2 => 16 + 8192
  | 3 => (exportTile s 3 layer k).length
  | _ => 16 + 16384

def opMapExportBegin (e : Env) (s : State) : State × Answer :=
  let kind := arg e 0 8
  let layer := arg e 8 2
  let dirty := argB e 10
  match firstBad [(arg e 11 21 ≠ 0 || kind = 0 || kind > 4 || (dirty && kind ≠ 1), .badParam), (!s.sys.mapReady, .busy),
                  (s.map.exp.isSome, .busy)] with
  | some st => deny st s
  | none =>
    let keys := exportKeys s kind layer dirty
    let total := (keys.map (exportSize s kind layer)).sum
    let l := if kind = 1 ∨ kind = 2 then layer else 0
    let h := streamHeader kind l (if kind = 1 then depthOf s layer - 1 else 0) 0 (streamCell s kind layer) (originOf s) keys.length
               (nextEdge s.pm) s.pd0.bootCount
    let x : Exp := { kind := kind, layer := layer, dirtyOnly := dirty, created := nextEdge s.pm, header := h, keys := keys, lastPm := s.pm }
    (waitEdge 0x0305 e [.expFix] (s.onMap fun m => { m with exp := some x }),
     { effectPm := nextEdge s.pm, data := h ++ leBytes 4 total })

/-- The export's tile set is fixed at its frame edge (R388). -/
def fixExport (s : State) : State :=
  match s.map.exp with
  | none => s
  | some x => s.onMap fun m => { m with exp := some { x with fixed := true, keys := exportKeys s x.kind x.layer x.dirtyOnly } }

/-- At every frame edge an open export keeps the tiles as they stand, from which a read copies those it first reaches
(R174). -/
def snapshotExport (s : State) : State :=
  match s.map.exp with
  | none => s
  | some x => if x.fixed then s.onMap fun m => { m with exp := some { x with edgeTiles := x.keys.map (exportTile s x.kind x.layer) } } else s

/-- Copies with the tiles of record numbers `ks` that have not been copied yet. -/
def copyTiles (x : Exp) (pm : Tick) (ks : List Nat) : List (Nat × List Byte × Tick) :=
  ks.foldl (fun c k => if c.any (fun t => t.1 == k) then c else c ++ [(k, (x.edgeTiles[k]?).getD [], pm)]) x.copied

/-- The error lies in a tile of the export. -/
def Exp.holds (x : Exp) (k : Int × Int) (y : EccIn) : Bool :=
  match y.region with
  | .coverage => x.kind == 1 && y.layer.val == x.layer && (y.tx, y.ty) == k
  | .tint => x.kind == 2 && y.layer.val == x.layer && (y.tx, y.ty) == k
  | .mask => x.kind == 4 && (y.tx, y.ty) == k
  | .polygon => x.kind == 3
  | .log => false

/-- A tile's record with a lost word as its region leaves it (R177). -/
def patchRecord (k : Int × Int) (y : EccIn) (r : List Byte) : List Byte :=
  let d := r.drop 16
  tileRecord k.1 k.2 (d.take (8 * y.word) ++ List.replicate (min 8 (d.length - 8 * y.word)) (if y.region = .coverage then 0 else 0xFF)
    ++ d.drop (8 * y.word + 8))

/-- An export reads the tiles of record numbers `ks` that are not copied yet: errors met are handled, and lost words go out as
they are left (R176, R177). The second component are the export's tiles. -/
def readTiles (x : Exp) (ks : List Nat) (s : State) : State × List (List Byte) :=
  let new := ks.filter fun k => !x.copied.any fun t => t.1 == k
  let keys := new.filterMap fun k => (x.keys[k]?).map fun t => (k, t)
  let hits := s.map.upsets.filter fun y => keys.any fun t => x.holds t.2 y
  let tiles := keys.foldl (fun (l : List (List Byte)) t =>
    (hits.filter fun y => y.double && x.kind != 3 && x.holds t.2 y).foldl (fun l y => l.set t.1 (patchRecord t.2 y ((l[t.1]?).getD []))) l) x.edgeTiles
  ((meetErrors (fun y => keys.any fun t => x.holds t.2 y) s).1, tiles)

/-- First byte of every record, and the record's bytes. -/
def recordStarts : List Nat → Nat → List (Nat × Nat)
  | [], _ => []
  | n :: l, o => (o, n) :: recordStarts l (o + n)

/-- Marks: DESIGN CHOICE (log 51). -/
def opMapExportRead (e : Env) (s : State) : State × Answer :=
  let off := arg e 0 32
  let len := arg e 32 16
  if len = 0 ∨ len > 4084 then deny .range s
  else if !s.sys.mapReady then deny .busy s
  else match s.map.exp with
    | none => deny .state s
    | some x =>
      if !x.fixed then deny .busy s
      else
        let starts := recordStarts (x.edgeTiles.map List.length) 0
        let total := (x.edgeTiles.map List.length).sum
        if off + len > total then deny .range s
        else
          let ks := (List.range starts.length).filter fun k =>
            match starts[k]? with
            | some (o, n) => decide (o < off + len) && decide (off < o + n)
            | none => false
          let r := readTiles x ks s
          let x1 : Exp := { x with lastPm := s.pm, copied := copyTiles { x with edgeTiles := r.2 } (edgeOf s.pm) ks }
          let bytes := (List.range starts.length).flatMap fun k =>
            match x1.copied.find? fun t => t.1 == k with
            | some t => t.2.1
            | none => (x.edgeTiles[k]?).getD []
          doneWith (slice bytes off len) (r.1.onMap fun m => { m with exp := some x1 })

/-- The exported swatches not painted since their snapshot become clean (R174). -/
def markClean (x : Exp) (s : State) : State :=
  if x.kind ≠ 1 then s
  else s.onMap fun m => { m with
    swatches := m.swatches.map fun w =>
      if w.layer == x.layer && x.copied.any fun t => x.keys[t.1]? == some (w.tx, w.ty) && decide (w.lastPaint < t.2.2 ∨ w.lastPaint = 0)
    then { w with dirty := false } else w }

def opMapExportAck (e : Env) (s : State) : State × Answer :=
  let c := arg e 0 64
  if !s.sys.mapReady then deny .busy s
  else match s.map.exp with
    | none => deny .badParam s
    | some x =>
      if c ≠ 0 ∧ c ≠ x.created then deny .badParam s
      else done ((if c = 0 then s else markClean x s).onMap fun m => { m with exp := none })

def opMapClear (e : Env) (s : State) : State × Answer :=
  let t := arg e 0 8
  match firstBad [(arg e 10 22 ≠ 0 || t = 0 || t > 3, .badParam), (!s.sys.mapReady, .busy),
                  ((t = 1 || t = 3) && s.sys.dev ≠ .standby, .state)] with
  | some st => deny st s
  | none => doneEdge s (waitEdge 0x0308 e [.mapClear t (arg e 8 2)] s)

/-- MAP_CLEAR at its frame edge (R389). -/
def applyClear (target layer : Nat) (s : State) : State :=
  match target with
  | 1 => clearCover layer s
  | 2 => clearTint layer s
  | _ => noteRetired s.map (s.onMap fun m => clearMask (forgetErrors (fun x => x.region == .mask || x.region == .polygon) m))

/-- MAP_LOG_READ: reading the block meets the errors in it (R176, R177, R388). -/
def opMapLogRead (e : Env) (s : State) : State × Answer :=
  let q := arg e 0 32
  let b := if q = 0xFFFFFFFF then s.map.ring.find? fun b => !b.acked else s.map.ring.find? fun b => b.seq == q
  if !s.sys.mapReady then deny .busy s
  else match b with
    | some b =>
      let s1 := (meetErrors (fun x => x.region == .log && x.word == b.seq) s).1
      doneWith ((s1.map.ring.find? fun c => c.seq == b.seq).getD b).bytes s1
    | none => if q = s.pd0.blockSeq ∧ s.map.log ≠ [] then deny .busy s else deny .range s

/-- Marks: DESIGN CHOICE (log 51). -/
def opMapLogAck (e : Env) (s : State) : State × Answer :=
  let q := arg e 0 32
  if !s.sys.mapReady then deny .busy s
  else if s.map.ring.any fun b => b.seq == q then
    done (s.onMap fun m => { m with ring := (m.ring.takeWhile fun b => b.seq != q).map (fun b => { b with acked := true })
      ++ (match m.ring.dropWhile fun b => b.seq != q with
          | b :: l => { b with acked := true } :: l
          | [] => []) })
  else deny .range s

/-! ### ECC, scrub, write-back, builds and timers -/

/-- The words of the page whose copy begins are read: their errors are met (R161, R176). -/
def meetCopied (s : State) : State := (meetErrors (inMove s.map) s).1

/-- The copy of a page begins with the logging phase: one page at a time, of the coverage pool first, to the lowest
free page (R161). The line that holds it dirty is written to the new place. Marks: DESIGN CHOICE (log 51). -/
def startMigration (s : State) : State :=
  if s.map.cov.migrating.isSome ∨ s.map.tint.migrating.isSome ∨ s.map.maskPool.migrating.isSome then s
  else match s.map.cov.startMove (takenCov s.map) 6144, s.map.tint.startMove (takenTint s.map) 1024,
      s.map.maskPool.startMove (takenMask s.map) 256 with
    | some p, _, _ => meetCopied <| poolLow (s.onMap fun m => { m with cov := p, cache := m.cache.map fun l => if holdsPage m p l.key then { l with dirty := false } else l })
    | none, some p, _ => meetCopied (s.onMap fun m => { m with tint := p })
    | none, none, some p => meetCopied (s.onMap fun m => { m with maskPool := p })
    | none, none, none => s

/-- The migration in progress ends with the logging and slack phase: the directory moves and the old page is retired
(R161, R178). What was corrected in the old page is not held against the new one. -/
def finishMigration (s0 : State) : State :=
  let s := s0.onMap fun m => { m with mended := m.mended.filter fun x => !inMove m x }
  match s.map.cov.migrating, s.map.tint.migrating, s.map.maskPool.migrating with
  | some (p, q), _, _ =>
    let s1 := s.onMap fun m => { m with
      swatches := m.swatches.map fun w => { w with pages := w.pages.map fun x => if x = p then q else x }
      cov := m.cov.endMove p }
    noteRetired s.map (poolLow s1)
  | none, some (p, q), _ => noteRetired s.map (s.onMap fun m => { m with
      tints := m.tints.map fun w => if w.page = p then { w with page := q } else w
      tint := m.tint.endMove p })
  | none, none, some (p, q) => noteRetired s.map (s.onMap fun m => { m with
      mask := { m.mask with pages := m.mask.pages.map fun x => if x = p then q else x }
      maskPool := m.maskPool.endMove p })
  | none, none, none => s

/-- SCRUB: every SCRUB_S the scrub reads all map DRAM; the words in error, those it brings and those no access has met, are
handled (R176). -/
def execScrub (errs : List EccIn) (s : State) : Result :=
  if s.sys.mapReady ∧ s.map.lastScrub + msTicks (1000 * s.act.fld .map 160 16) ≤ s.pm then
    .next (meetErrors (fun _ => true) (s.onMap fun m => { m with lastScrub := s.pm, upsets := m.upsets ++ errs })).1
  else .next s

/-- DIRTY_WRITEBACK: every dirty line is written back (R165). -/
def execDirtyWriteback (s : State) : Result :=
  .next (s.onMap fun m => { m with cache := m.cache.map fun l => { l with dirty := false } })

/-- MASK_BUILT: the build ends; a complete one waits for the next frame edge, a failed one leaves the old mask in
force (R164). The build has read the polygon store, whose errors are met (R176, R177). Builds pause while the pair
restarts. Marks: DESIGN CHOICE (log 51). -/
def execMaskBuilt (s0 : State) : Result :=
  match s0.map.building with
  | none => .next s0
  | some m =>
    if s0.restarting .pair then .next s0
    else
      let s := (meetErrors (fun x => x.region == .polygon) s0).1
      let st : Status := if s.map.polyDamaged then .faulted
        else if m.tiles.length > 256 - s.map.maskPool.retired.length ∨ m.entries > 16384 then .range else .ok
      let s1 := s.onMap fun x => { x with building := none, built := if st = .ok then some m else x.built }
      .next (notice .map 0x08 0xFFFF (leBytes 4 (statusCode st)) s1)

/-- LOAD_TIMEOUT: a load with no MAP_LOAD_DATA for 10 s is aborted, reported with BUSY (R387). -/
def execLoadTimeout (s : State) : Result :=
  match s.map.load with
  | none => .next s
  | some l =>
    if l.ending = false ∧ l.lastPm + 800000000 ≤ s.pm then .next (loadDone .busy (s.onMap fun m => { m with load := none })) else .next s

/-- EXPORT_TIMEOUT: an export with no read for 60 s is closed (R388). -/
def execExportTimeout (s : State) : Result :=
  match s.map.exp with
  | none => .next s
  | some x => if x.lastPm + 4800000000 ≤ s.pm then .next (s.onMap fun m => { m with exp := none }) else .next s

/-- LOG_SEAL: SEAL_INTERVAL has passed since the block's first record (R181). -/
def execLogSeal (s : State) : Result :=
  if s.map.log ≠ [] ∧ !s.restarting .enclave ∧ s.map.logFirst + msTicks (1000 * s.act.fld .map 176 16) ≤ s.pm then .next (sealBlock s)
  else .next s

/-- Bits of a section's description in the active set. -/
def sectionOf (s : State) (i : Fin 160) : Nat := ctxFld' s i
where ctxFld' (s : State) (i : Fin 160) : Nat :=
  match s.impl.active with
  | some a => bits a.ctx[i].toNat 8 8
  | none => 0xFF

/-- One bit for each section with a member scheduled on (R179 TRACK). -/
def sectionsOn (s : State) : Nat :=
  bitWord 32 fun k => (List.finRange 160).any fun i => s.fe.ctx[i].sched && sectionOf s i == k

/-- TRACK counts from the entry to a state that writes it (R180). -/
def trackFrom (t : Tick) (s : State) : State := s.onMap fun m => { m with trackAt := max m.trackAt (t - 1) }

/-- TRACK_RECORD: at every multiple of TRACK_INTERVAL in ARMED and MANUAL (R180). -/
def execTrackRecord (s : State) : Result :=
  let t := msTicks (10 * s.act.fld .map 192 16)
  let due := s.pm / t * t
  if (s.sys.dev = .armed ∨ s.sys.dev = .manual) ∧ s.map.trackAt < due then
    let p := s.pos.pose
    .next (writeLog (logRecord 0x08 0 (qualityCode p.quality) due
        (uint 32 p.est.east ||| uint 32 p.est.north <<< 32 ||| uint 16 p.est.heading <<< 64 ||| satU 16 p.est.hErr <<< 80
          ||| sectionsOn s <<< 96)) (s.onMap fun m => { m with trackAt := due }))
  else .next s

/-- The background zeroing of a frame: 16 pages of each pool (R158). -/
def zeroPages (s : State) : State :=
  s.onMap fun m => { m with cov := { m.cov with zeroing := m.cov.zeroing.drop 16 }, tint := { m.tint with zeroing := m.tint.zeroing.drop 16 },
                            maskPool := { m.maskPool with zeroing := m.maskPool.zeroing.drop 16 } }

/-- The map becomes ready (R153): the paints dropped until then are accounted for. -/
def mapBecomesReady (s : State) : State :=
  let s1 := s.onSys fun y => { y with mapReady := true, dramTest := 100 }
  match s.map.gap with
  | some g => paintGap 0xFF 3 g.first g.last g.count (s1.onMap fun m => { m with gap := none })
  | none => s1

/-- A new origin: swatches and tints go stale, the mask is rebuilt, an ORIGIN record is written (R81, R175). -/
def changeOrigin (o : Origin) (s : State) : State :=
  let s1 := (s.onPos fun p => { p with origin := some o }).onMap fun m => { m with
    swatches := m.swatches.map fun w => { w with stale := true }
    tints := m.tints.map fun w => { w with stale := true } }
  let s3 := if s.map.polys ≠ [] then startBuild s1 else s1
  writeLog (logRecord 0x07 0 0 s.pm (uint 32 o.lat ||| uint 32 o.lon <<< 32 ||| uint 32 o.h <<< 64)) s3

end Sys2Proof.Machine
end

