-- ==== Sys2Proof/Machine/Geometry.lean ====
section
/-! DEFINITION. The geometry of FE: rotations, projection of the carrier and of the contexts, transport times, footprints
and swept cells. Lengths are in 2⁻¹⁶ mm, angles in 2⁻³² turn, sines with weight 2⁻⁴⁰ (log entry 22). -/

namespace Sys2Proof.Machine

/-! ### Sines -/

def one40 : Int := 1099511627776
/-- π/2 and 2π, weight 2⁻⁴⁰. -/
def halfPi : Int := 1727108826179
def twoPi : Int := 6908435304715

/-- Sine of `r` · 2⁻³² turn, 0 ≤ r ≤ 2³⁰: ten terms of the series. -/
def sinQuarter (r : Int) : Int :=
  let x := r * halfPi / 1073741824
  let x2 := x * x / one40
  let t := [342, 272, 210, 156, 110, 72, 42, 20, 6].foldl (fun (t : Int) d => one40 - x2 * t / (d * one40)) one40
  x * t / one40

/-- Sine of an angle in 2⁻³² turn. Marks: DESIGN CHOICE (log 22). -/
def sinT (a : Int) : Int :=
  let m := a % 4294967296
  let r := m % 1073741824
  match (m / 1073741824).toNat with
  | 0 => sinQuarter r
  | 1 => sinQuarter (1073741824 - r)
  | 2 => -sinQuarter r
  | _ => -sinQuarter (1073741824 - r)

def cosT (a : Int) : Int := sinT (a + 1073741824)

/-- A length times a sine, to the nearest. Marks: DESIGN CHOICE (log 22). -/
def mulS (v s : Int) : Int := (v * s + 549755813888) / one40

/-- The turn from angle `b` to angle `a` the short way, 2⁻³² turn. -/
def turnDiff (a b : Int) : Int := (a - b + 2147483648) % 4294967296 - 2147483648

/-! ### Bodies and contexts (R115, R118, R119) -/

abbrev Vec3 := Int × Int × Int

/-- Rotation by `a` about a body axis: 0 x, 1 y, 2 z, by the right-hand rule. -/
def rotAxis (axis : Nat) (a : Int) (p : Vec3) : Vec3 :=
  let s := sinT a
  let c := cosT a
  match axis with
  | 0 => (p.1, mulS p.2.1 c - mulS p.2.2 s, mulS p.2.1 s + mulS p.2.2 c)
  | 1 => (mulS p.1 c + mulS p.2.2 s, p.2.1, mulS p.2.2 c - mulS p.1 s)
  | _ => (mulS p.1 c - mulS p.2.1 s, mulS p.1 s + mulS p.2.1 c, p.2.2)

/-- A body's angle in 2⁻³² turn. -/
def bodyTurn (angles : Vector Int 4) (b : Nat) : Int :=
  match idx? 4 b with
  | some k => roundDiv (angles[k] * 8) 1125
  | none => 0

/-- The loop of R115, at most `n` bodies up. -/
def resolveUp (i : ImplSet) (angles : Vector Int 4) : Nat → Nat → Vec3 → Vec3
  | 0, _, p => p
  | n + 1, b, p =>
    if b < 4 then
      let q := rotAxis (i.bodyN b 4 2) (bodyTurn angles b) p
      resolveUp i angles n (i.bodyN b 1 3)
        (q.1 + 65536 * i.bodyS b 16 32, q.2.1 + 65536 * i.bodyS b 48 32, q.2.2 + 65536 * i.bodyS b 80 32)
    else p

/-- The release point of context `k` on carrier axes (R115). -/
def releasePoint (i : ImplSet) (angles : Vector Int 4) (k : Nat) : Vec3 :=
  resolveUp i angles 5 (i.ctxN k 4 2) (65536 * i.ctxS k 32 32, 65536 * i.ctxS k 64 32, 65536 * i.ctxS k 96 32)

/-- The release projection of context `k` on carrier axes, in the target plane (R118). -/
def releaseProj (i : ImplSet) (angles : Vector Int 4) (k : Nat) : Int × Int :=
  let p := releasePoint i angles k
  (p.1 + 65536 * i.ctxS k 160 16, p.2.1)

/-- Yaw articulation of a body and its ancestors, 2⁻³² turn (R120). -/
def yawTurn (i : ImplSet) (angles : Vector Int 4) : Nat → Nat → Int
  | 0, _ => 0
  | n + 1, b =>
    if b < 4 then (if i.bodyN b 4 2 = 2 then bodyTurn angles b else 0) + yawTurn i angles n (i.bodyN b 1 3) else 0

/-- Transport time in ticks at a ground speed in 2⁻¹⁶ mm/s (R119): 0.1 ms is 8,000 ticks. Marks: DEDUCED (log 40). -/
def transport (i : ImplSet) (k : Nat) (v : Nat) : Tick :=
  let t := i.ctxN k 184 3
  let sp (j : Nat) : Int := 65536 * bits (i.get 3 t) (32 * j) 16
  let tm (j : Nat) : Int := bits (i.get 3 t) (32 * j + 16) 16
  let seg (j : Nat) : Tick :=
    (roundDiv (8000 * (tm j * (sp (j + 1) - sp j) + (tm (j + 1) - tm j) * (v - sp j))) (sp (j + 1) - sp j).toNat).toNat
  if (v : Int) ≤ sp 0 then 8000 * (tm 0).toNat
  else if v < sp 1 then seg 0
  else if v < sp 2 then seg 1
  else if v < sp 3 then seg 2
  else 8000 * (tm 3).toNat

/-! ### The carrier's motion (R128) -/

/-- Where the carrier is, how it heads and moves. -/
structure Motion where
  e : Int := 0
  n : Int := 0
  heading : Int := 0
  speed : Int := 0
deriving DecidableEq, Repr, Inhabited

/-- Ticks until a decelerating carrier stands. -/
def stopTicks (f : FinePose) : Option Int :=
  if f.speed * f.accel < 0 then some (f.speed.natAbs * 80000000 / f.accel.natAbs : Nat) else none

/-- The carrier `dt` ticks after the pose, its speed, acceleration and yaw rate held; it stays where its speed falls
to zero (R128, R131). The path is summed by Simpson's rule over eight parts. Marks: DESIGN CHOICE (log 22). -/
def travel (f : FinePose) (dt0 : Int) : Motion :=
  let dt := match stopTicks f with
    | some t => min t dt0
    | none => dt0
  let stopped := dt < dt0
  let at8 (j : Int) : Int := dt * j / 8
  let v (t : Int) : Int := f.speed + f.accel * t / 80000000
  let psi (t : Int) : Int := f.heading + f.yaw * t / 80000000
  let w : List (Int × Int) := [(0, 1), (1, 4), (2, 2), (3, 4), (4, 2), (5, 4), (6, 2), (7, 4), (8, 1)]
  let sumE := (w.map fun p => p.2 * mulS (v (at8 p.1)) (sinT (psi (at8 p.1)))).foldl (· + ·) 0
  let sumN := (w.map fun p => p.2 * mulS (v (at8 p.1)) (cosT (psi (at8 p.1)))).foldl (· + ·) 0
  { e := f.e + sumE * dt / 1920000000, n := f.n + sumN * dt / 1920000000, heading := psi dt,
    speed := if stopped then 0 else v dt }

/-- Carrier coordinates in the plane to east and north, with the pose's roll and pitch (R118). -/
def toGround (f : FinePose) (heading : Int) (p : Int × Int) : Int × Int :=
  let sr := sinT f.roll
  let cr := cosT f.roll
  let sp := sinT f.pitch
  let cp := cosT f.pitch
  let sh := sinT heading
  let ch := cosT heading
  let x := mulS p.1 cp
  let y1 := mulS (mulS p.2 sr) sp
  let y2 := mulS p.2 cr
  (mulS x sh + mulS y1 sh + mulS y2 ch, mulS x ch + mulS y1 ch - mulS y2 sh)

/-- Carrier coordinates to east and north in the level plane. -/
def toLevel (heading : Int) (p : Int × Int) : Int × Int :=
  (mulS p.1 (sinT heading) + mulS p.2 (cosT heading), mulS p.1 (cosT heading) - mulS p.2 (sinT heading))

/-- ω·r: a yaw rate in 2⁻³² turn/s times a length, as a speed. -/
def omegaTimes (yaw r : Int) : Int := r * yaw * twoPi / 4722366482869645213696

/-- Ground velocity of a point fixed on the carrier, on carrier axes; turn terms are included (R118). -/
def groundVel (speed yaw : Int) (p : Int × Int) : Int × Int := (speed - omegaTimes yaw p.2, omegaTimes yaw p.1)

/-! ### Impact points and footprints (R118, R120, R126) -/

/-- An impact point: its place, the footprint's length axis, its place on carrier axes relative to the CRP, and the
transport time. -/
structure Impact where
  e : Int := 0
  n : Int := 0
  axis : Int := 0
  cx : Int := 0
  cy : Int := 0
  ttr : Tick := 0
deriving DecidableEq, Repr, Inhabited

/-- Carry of a velocity over a transport time, on carrier axes (R118). Marks: DEDUCED (log 40). -/
def carryOf (i : ImplSet) (k : Nat) (v : Int × Int) (t : Tick) : Int × Int :=
  (v.1 * t * i.ctxN k 176 8 / 16000000000, v.2 * t * i.ctxN k 176 8 / 16000000000)

/-- |V| of a velocity. -/
def speedOf (v : Int × Int) : Nat := isqrt (v.1 * v.1 + v.2 * v.2).toNat

/-- The impact point of product released `dt` ticks after the pose (R126). Marks: DESIGN CHOICE (log 22). -/
def impactAt (i : ImplSet) (f : FinePose) (angles : Vector Int 4) (k : Nat) (dt : Int) : Impact :=
  let m := travel f dt
  let r := releaseProj i angles k
  let v := groundVel m.speed f.yaw r
  let t := transport i k (speedOf v)
  let c := carryOf i k v t
  let g := toGround f m.heading r
  let h := toLevel m.heading c
  { e := m.e + g.1 + h.1, n := m.n + g.2 + h.2, axis := m.heading + yawTurn i angles 5 (i.ctxN k 4 2),
    cx := r.1 + c.1, cy := r.2 + c.2, ttr := t }

/-- A point of a footprint from its offsets along and across. -/
def footPoint (p : Impact) (a b : Int) : Int × Int :=
  (p.e + mulS a (sinT p.axis) + mulS b (cosT p.axis), p.n + mulS a (cosT p.axis) - mulS b (sinT p.axis))

/-- The lattice of R129: 8 points across by 32 along, at the centres of 256 equal parts. -/
def lattice (i : ImplSet) (k : Nat) (p : Impact) : List (Int × Int) :=
  let w : Int := 65536 * i.ctxN k 128 16
  let l : Int := 65536 * i.ctxN k 144 16
  (List.range 32).flatMap fun (j : Nat) => (List.range 8).map fun (c : Nat) =>
    footPoint p ((2 * j - 31) * l / 64) ((2 * c - 7) * w / 16)

/-- Offset of a point from another along an axis. -/
def along (axis : Int) (p q : Int × Int) : Int := mulS (p.1 - q.1) (sinT axis) + mulS (p.2 - q.2) (cosT axis)
def across (axis : Int) (p q : Int × Int) : Int := mulS (p.1 - q.1) (cosT axis) - mulS (p.2 - q.2) (sinT axis)

/-- Component of the impact point's ground velocity along the footprint's length axis (R139). -/
def footSpeed (i : ImplSet) (f : FinePose) (angles : Vector Int 4) (k : Nat) (p : Impact) : Int :=
  let v := groundVel f.speed f.yaw (p.cx, p.cy)
  let b := yawTurn i angles 5 (i.ctxN k 4 2)
  mulS v.1 (cosT b) + mulS v.2 (sinT b)

/-! ### Swept cells (R168) -/

/-- The shares λ of a step, weight 2⁻³⁰, for which lo ≤ x − λ·d ≤ hi. -/
def shareRange (x d lo hi : Int) : Option (Int × Int) :=
  let w : Int := 1073741824
  if d = 0 then (if lo ≤ x ∧ x ≤ hi then some (0, w) else none)
  else
    let a := if d > 0 then -((hi - x) * w / d) else -((x - lo) * w / -d)
    let b := if d > 0 then (x - lo) * w / d else (hi - x) * w / -d
    if max a 0 ≤ min b w then some (max a 0, min b w) else none

/-- Is a point swept by the footprint, half-open across and held along `axis`, as it moves from `p` to before `q`? -/
def inSweep (w l : Int) (axis : Int) (p q : Impact) (c : Int × Int) : Bool :=
  let a := along axis c (p.e, p.n)
  let b := across axis c (p.e, p.n)
  let da := along axis (q.e, q.n) (p.e, p.n)
  let db := across axis (q.e, q.n) (p.e, p.n)
  match shareRange (2 * a) (2 * da) (-l) l, shareRange (2 * b) (2 * db) (-w) (w - 1) with
  | some x, some y => max x.1 y.1 ≤ min x.2 y.2 && max x.1 y.1 < 1073741824
  | _, _ => false

/-- The cells of side `cell` mm whose centres lie in a box. -/
def cellsIn (cell : Int) (e0 e1 n0 n1 : Int) : List (Int × Int) :=
  let u := 65536 * cell
  let i0 := e0 / u
  let j0 := n0 / u
  (List.range (n1 / u - j0 + 1).toNat).flatMap fun (j : Nat) => (List.range (e1 / u - i0 + 1).toNat).map fun (i : Nat) => (i0 + i, j0 + j)

/-- The centre of a cell. -/
def cellCentre (cell : Int) (c : Int × Int) : Int × Int := ((2 * c.1 + 1) * 32768 * cell, (2 * c.2 + 1) * 32768 * cell)

/-- The cells swept from `p` to before `q`, along the axes of both ends and of the way between (R168). Marks: DESIGN
CHOICE (log 22). -/
def sweptCells (cell w l : Int) (p q : Impact) : List (Int × Int) :=
  let r := (w + l) / 2
  (cellsIn cell (min p.e q.e - r) (max p.e q.e + r) (min p.n q.n - r) (max p.n q.n + r)).filter fun c =>
    let x := cellCentre cell c
    [0, 1, 2, 3, 4].any fun (j : Int) => inSweep w l (p.axis + turnDiff q.axis p.axis * j / 4) p q x

end Sys2Proof.Machine
end

