-- ==== Sys2Proof/Machine/Decide.lean ====
section
/-! DEFINITION. FE's decision (06): tests and their hysteresis, rates and duties, crossings, causes, and the placement of
starts in the banks. -/

namespace Sys2Proof.Machine

/-! ### Parameters of PB.FE (R150) -/

def feMode (s : State) : Nat := s.act.fld .fe 0 2
def boundRequired (s : State) : Bool := s.act.flag .fe 3
def directedMasks (s : State) : Bool := s.act.flag .fe 4
def turnComp (s : State) : Bool := s.act.flag .fe 5
def testHyst (s : State) : Nat := s.act.fld .fe 16 8
def minGap (s : State) : Int := 65536 * s.act.fld .fe 48 16
def minRun (s : State) : Int := 65536 * s.act.fld .fe 64 16
def shiftMax (s : State) : Tick := usTicks (s.act.fld .fe 80 16)
def onErrLimit (s : State) : Nat := s.act.fld .fe 112 16
def dutyMin (s : State) : Nat := s.act.fld .fe 128 16
def dutyMax (s : State) : Nat := s.act.fld .fe 144 16
def turnStopSpeed (s : State) : Int := 65536 * s.act.fld .fe 160 16
def q100 (s : State) (j : Nat) : Nat := s.act.fld .fe (32 * j + 192) 16
def pRef (s : State) (j : Nat) : Nat := s.act.fld .fe (32 * j + 208) 8
def pLoop (s : State) (j : Nat) : Nat := s.act.fld .fe (32 * j + 216) 4
def secInhibit (s : State) (sec : Nat) : Bool := sec < 32 && s.act.flag .fe (320 + sec)

/-- The policy of a quality level (R147): 0 NORMAL, 1 GUARDED, 2 FREEZE, 3 OFF. -/
def policyOf (s : State) : Quality → Nat
  | .fix => s.act.fld .fe 96 2 | .float => s.act.fld .fe 98 2 | .solo => s.act.fld .fe 100 2 | .dr => s.act.fld .fe 102 2
  | .lost => 3

/-- FE as it looks at a frame: its edge, the active set, the pose, the body angles and what holds for every context. -/
structure FeView where
  e : Tick
  i : ImplSet
  f : FinePose
  ang : Vector Int 4
  pol : Nat
  guarded : Bool
  directed : Bool
  masks : Bool
  arming : Bool

/-- First and last due postmark of the scan interval (R127). Marks: DEDUCED (log 84). -/
def FeView.start (v : FeView) : Tick := v.e + 80000
/-- Marks: DEDUCED (log 84). -/
def FeView.stop (v : FeView) (s : State) : Tick := v.e + 120000 + shiftMax s - 1
def FeView.section_ (v : FeView) (k : Nat) : Nat := v.i.ctxN k 8 8
def FeView.layer (v : FeView) (k : Nat) : Nat := v.i.ctxN k 16 2
def FeView.impact (v : FeView) (k : Nat) (t : Tick) : Impact := impactAt v.i v.f v.ang k ((t : Int) - v.e)

/-! ### Shares of a footprint (R129) -/

/-- The three counts. -/
structure Shares where
  c : Nat := 0
  b : Nat := 0
  x : Nat := 0
deriving DecidableEq, Repr, Inhabited

/-- Cell index of a coordinate in 2⁻¹⁶ mm. -/
def cellIx (mm : Nat) (x : Int) : Int := x / (65536 * mm : Nat)

/-- A lattice point lies behind the line through I(E) (R129): against the impact point's motion along the length axis,
at standstill towards carrier −x. Marks: DEDUCED (log 41). -/
def behind (v : FeView) (k : Nat) (q : Int × Int) : Bool :=
  let p := v.impact k v.e
  let a := along p.axis q (p.e, p.n)
  let s := footSpeed v.i v.f v.ang k p
  if s < 0 ∨ (s = 0 ∧ cosT (p.axis - v.f.heading) < 0) then 0 < a else a < 0

/-- The counts of context `k` with its footprint at `p`; a context scheduled on leaves out what lies behind (R129).
Marks: DEDUCED (log 41). -/
def sharesAt (v : FeView) (s : State) (k : Nat) (sched : Bool) (p : Impact) : Shares :=
  let pts := lattice v.i k p
  let cm := cellMm s (v.layer k)
  let mm := maskCellMm s.map.mask.cell
  let seen := if sched then pts.filter fun q => !behind v k q else pts
  let cov := (seen.filter fun q => coverAt s (v.layer k) (cellIx cm q.1) (cellIx cm q.2) != 0).length
  let cls := pts.map fun q => maskAt s (cellIx mm q.1) (cellIx mm q.2)
  { c := if seen.length = 0 then 0 else (roundDiv (256 * cov) seen.length).toNat
    b := (cls.filter fun z => z == 2 || (z == 0 && boundRequired s)).length
    x := (cls.filter fun z => z == 3).length }

/-- The cache lines a footprint's points read: those of allocated pages (R165). -/
def linesAt (v : FeView) (s : State) (k : Nat) (p : Impact) : List LineKey :=
  let cm := cellMm s (v.layer k)
  let mm := maskCellMm s.map.mask.cell
  ((lattice v.i k p).flatMap fun q =>
    let ci := cellIx cm q.1
    let cj := cellIx cm q.2
    let mi := cellIx mm q.1
    let mj := cellIx mm q.2
    (if (findSwatch s.map (v.layer k) (tileOf 256 ci) (tileOf 256 cj)).isSome then [coverLine s (v.layer k) ci cj] else [])
    ++ (if s.map.mask.tiles.contains (tileOf 256 mi, tileOf 256 mj) then [maskLine mi mj] else [])).eraseDups

/-- Demand lines in order; the second component: every one is there (R165). -/
def demandLines (ks : List LineKey) (s : State) : State × Bool :=
  ks.foldl (fun (r : State × Bool) k => let d := demandLine k r.1; (d.1, r.2 && d.2)) (s, true)

/-- The word of the map an error lies in is read for a footprint: coverage of the layer or mask, where a point of its
lattice lies in it. -/
def footReads (v : FeView) (s : State) (k : Nat) (ps : List Impact) (x : EccIn) : Bool :=
  let cm := cellMm s (v.layer k)
  let mm := maskCellMm s.map.mask.cell
  ps.any fun p => (lattice v.i k p).any fun q => match x.region with
    | .coverage => x.layer.val == v.layer k && inTile x 256 (64 / depthOf s (v.layer k)) (cellIx cm q.1) (cellIx cm q.2)
    | .mask => inTile x 256 32 (cellIx mm q.1) (cellIx mm q.2)
    | _ => false

/-- The map addresses of the damaged mask words under footprints (R132). -/
def readErr (v : FeView) (s : State) (k : Nat) (ps : List Impact) : List Nat :=
  let mm := maskCellMm s.map.mask.cell
  ((ps.flatMap fun p => lattice v.i k p).filterMap fun q =>
    let i := cellIx mm q.1
    let j := cellIx mm q.2
    (s.map.mask.bad.find? fun b => b.1 == tileOf 256 i && b.2.1 == tileOf 256 j && b.2.2.1 == cellNo 256 i j / 32).map (·.2.2.2)).eraseDups

/-- FE reads the words under footprints: errors met are handled (R176, R177), and the uncorrectable ones give the addresses
of MAP_READ_ERR (R132). -/
def readFoot (v : FeView) (k : Nat) (ps : List Impact) (s : State) : State × List Nat :=
  let r := meetErrors (footReads v s k ps) s
  (r.1, (r.2 ++ readErr v r.1 k ps).eraseDups)

/-- The rest of the lines fetched for a footprint has been read too: from the state before the fetch, that after it, and what
reading the footprint gave (R176). -/
def readLines (before fetched : State) (r : State × List Nat) : State × List Nat :=
  (meetLines before fetched r.1, r.2)

/-- FE reads the tint word of a context's rate (R138). -/
def readTint (v : FeView) (k : Nat) (s : State) : State × List Nat :=
  let p := v.impact k v.start
  let c := tintCellMm s (v.layer k)
  meetErrors (fun x => x.region == .tint && x.layer.val == v.layer k && inTile x 64 4 (cellIx 1 p.e / c) (cellIx 1 p.n / c)) s

/-! ### Hysteresis (R130) -/

def loOf (t h : Nat) : Nat := t - 1 - h
def hiOf (t h : Nat) : Nat := min 256 (t + h)

/-- Does a test block at count `n`? -/
def TestSt.blocks (x : TestSt) (t h n : Nat) : Bool :=
  if x.blocking then !(n ≤ loOf t h || (n + 1 ≤ t && x.sawHigh)) else n ≥ hiOf t h || (n ≥ t && x.sawLow)

/-- The test after the evaluation of the frame at the scan-interval start. -/
def TestSt.update (x : TestSt) (t h n : Nat) : TestSt :=
  let b := x.blocks t h n
  let lo := decide (n ≤ loOf t h)
  let hi := decide (n ≥ hiOf t h)
  if b = x.blocking then { x with sawLow := x.sawLow || lo, sawHigh := x.sawHigh || hi }
  else { blocking := b, sawLow := lo, sawHigh := hi }

/-- Twice the switching level. -/
def TestSt.level2 (x : TestSt) (t h : Nat) : Int :=
  if x.blocking then (if x.sawHigh then 2 * t - 1 else 2 * loOf t h + 1) else (if x.sawLow then 2 * t - 1 else 2 * hiOf t h - 1)

/-- The postmark at which the line from (ta, na) to (tb, nb) reaches half a level; the nearest tick, a tie to the
earlier (R127). Marks: DEDUCED (log 42). -/
def crossAt (level2 : Int) (ta tb na nb : Nat) : Tick :=
  if na = nb then ta
  else
    let num := (level2 - 2 * na) * ((tb : Int) - ta)
    let den := 2 * ((nb : Int) - na)
    let num' := if den < 0 then -num else num
    ((ta : Int) - roundDiv (-num') den.natAbs).toNat

def thrCov (s : State) : Nat := s.act.fld .fe 8 8
def thrBnd (s : State) : Nat := s.act.fld .fe 24 8
def thrExc (s : State) : Nat := s.act.fld .fe 32 8

/-! ### Latencies (R126, R127) -/

/-- A learned latency as it stood at the freeze, rounded to the nearest tick, a tie up (R126, R210). -/
def frozenLat (s : State) (k : Fin 160) (i : Fin 4) : Tick := (s.fe.frz.lat[k][i] + 8) / 16

/-- T_lat of context `k` in ticks. -/
def latOf (s : State) (k : Fin 160) (on battery : Bool) : Tick :=
  frozenLat s k (latKind (!on) (battery && k.val < 96))

/-- The mode a bank worked in at the freeze (R127). -/
def feFeed (s : State) (b : Fin 12) : Nat := s.fe.frz.feed[b]

/-! ### DIRECTED records (R144, R145) -/

/-- Wanted due postmark of a record for a context whose transport time is `ttr`. -/
def directedDue (s : State) (k : Fin 160) (battery : Bool) (ttr : Tick) (r : Directed) : Int :=
  (r.ground : Int) - ttr - latOf s k r.on battery

/-- The records held for a section in order of GROUND_PM. -/
def sectionRecords (s : State) (sec : Nat) : List Directed := s.fe.directed.filter fun r => r.section_ == sec

/-- A record as a context sees it: its wanted due postmark (none where it counts as in force already), the postmark from
which it is in force, and what it says. -/
structure DirEdge where
  want : Option Int := none
  from_ : Int := 0
  on : Bool := false
  ground : Option Tick := none
  rate : Option Nat := none
deriving DecidableEq, Repr

/-- The record has been acted on for a context: an event for it is committed, at its wanted due postmark or, by
placement, ahead of it (R136). Marks: DEDUCED (log 44). -/
def actedOn (acted : Option (Tick × Bool)) (r : Directed) : Bool :=
  match acted with
  | some a => decide (r.ground < a.1) || (r.ground == a.1 && r.on == a.2)
  | none => false

/-- What the DIRECTED records say to context `k`, the state in force first: in order of GROUND_PM, none in force
before an earlier one, each with the latency of its own kind on the feed predicted for it (R126, R145). Marks: DEDUCED
(log 44). -/
def directedEdges (s : State) (k : Fin 160) (sec : Nat) (batt : Bool → Bool) (ttr : Tick) (acted : Option (Tick × Bool)) : List DirEdge :=
  match idx? 32 sec with
  | none => [{}]
  | some c =>
    let head : DirEdge := { want := s.fe.secGround[c].map fun (g : Tick) => (g : Int) - ttr - latOf s k s.fe.secOn[c] (batt s.fe.secOn[c])
                            on := s.fe.secOn[c], ground := s.fe.secGround[c], rate := s.fe.secRate[c] }
    (sectionRecords s sec).foldl (fun l r =>
      let prev := (l.getLast?.map (·.from_)).getD 0
      let due := directedDue s k (batt r.on) ttr r
      l ++ [if actedOn acted r then { want := none, from_ := prev, on := r.on, ground := some r.ground, rate := r.rate }
            else { want := some due, from_ := max prev due, on := r.on, ground := some r.ground, rate := r.rate }]) [head]

/-- The records in force at due postmark `t`, the last of them deciding. Marks: DEDUCED (log 44). -/
def inForce (l : List DirEdge) (t : Tick) : List DirEdge := l.takeWhile fun d => d.from_ ≤ t

/-- State and rate at due postmark `t`. -/
def directedAt (l : List DirEdge) (t : Tick) : Bool × Option Nat :=
  match (inForce l t).getLast? with
  | some d => (d.on, d.rate)
  | none => (false, none)

/-- The record by which the records in force last came to say `on`. -/
def changeEdge (on : Bool) (l : List DirEdge) : Option DirEdge :=
  (l.foldl (fun (a : Option DirEdge × Option DirEdge) d =>
    (some d, if d.on == on then (match a.1 with
      | some p => if p.on == on then a.2 else some d
      | none => if d.ground.isSome then some d else none) else a.2)) (none, none)).2

/-- GROUND_PM and STATE of a record. -/
def DirEdge.key (d : DirEdge) : Option (Tick × Bool) := d.ground.map fun g => (g, d.on)

/-! ### Rate, speed and duty (R138, R139) -/

/-- Pressure of a layer in units of 0.01 bar as the loop gave it at the freeze, and P_REF in the same unit: (p, p_ref). -/
def pressures (s : State) (j : Nat) : Nat × Nat :=
  let r := 10 * pRef s j
  match idx? 16 (pLoop s j) with
  | some k => if pLoop s j = 15 then (r, r) else (s.fe.frz.press[k].toNat, r)
  | none => (r, r)

/-- q100·√(p/p_ref), 2⁻¹⁶ thousandth of the layer unit per minute. Marks: DEDUCED (log 47). -/
def qfOf (s : State) (j : Nat) : Nat :=
  let p := pressures s j
  isqrt (q100 s j * q100 s j * 4294967296 * p.1 / (max 1 p.2))

/-- q / qf on the u16 grid, to the nearest count, a tie up; none for an unbounded quotient (R139). Marks: DEDUCED (log
47). -/
def dutyRaw (s : State) (j count scale width : Nat) (speed : Int) : Option Nat :=
  let p := pressures s j
  let num := count * scale * width * speed.toNat * 60
  let den := 655360000000 * q100 s j
  if p.1 = 0 then (if num = 0 then some 0 else none)
  else some ((isqrt (4 * num * num * p.2 / (den * den * p.1)) + 1) / 2)

/-- Rate of the frame in tint counts (R138, R144). -/
def rateOf (v : FeView) (s : State) (k : Nat) (beyond : Option Nat) (p : Impact) : Nat :=
  let t := tintAt s (v.layer k) (cellIx 1 p.e) (cellIx 1 p.n)
  match beyond with
  | some r => if v.directed then r else if t = 0xFFFF then bits (v.i.get 4 0) (64 * v.layer k + 80) 16 else t
  | none => if t = 0xFFFF then bits (v.i.get 4 0) (64 * v.layer k + 80) 16 else t

/-- Footprint speed of a context (R139). -/
def siOf (v : FeView) (s : State) (k : Nat) (p : Impact) : Int :=
  if turnComp s then footSpeed v.i v.f v.ang k p else v.f.speed

/-- Turn stop of R139: from below TURN_STOP_SPEED until twice that. Marks: DEDUCED (log 46). -/
def turnStopped (s : State) (was : Bool) (si : Int) : Bool :=
  if was then si < 2 * turnStopSpeed s else si < turnStopSpeed s

/-- An FE notice formed by the lanes; its postmark is that of the commit in which it takes effect (R149). Marks:
DEDUCED (log 48). -/
def feNote (code idx : Nat) (body : List Byte) : Notice := { blk := 6, code := code, idx := idx, body := body }

/-- RATE_SCALE of a layer (R123). -/
def rateScale (v : FeView) (j : Nat) : Nat := bits (v.i.get 4 0) (64 * j + 96) 32

/-- The rate of a context is zero: its count or its layer's scale is (R138). -/
def zeroRate (v : FeView) (k : Nat) (x : FeCtx) : Bool := x.rate == 0 || rateScale v (v.layer k) == 0

/-- The context with the frame's rate, turn stop and duty, and the notices they raise (R138, R139). Marks: DEDUCED
(log 47). -/
def rateStep (v : FeView) (s : State) (k : Nat) (beyond : Option Nat) (x : FeCtx) : FeCtx × List Notice :=
  let p := v.impact k v.start
  let si := siOf v s k p
  let rate := rateOf v s k beyond p
  let stop := turnStopped s x.turnStop si
  let j := v.layer k
  let raw := dutyRaw s j rate (rateScale v j) (v.i.ctxN k 128 16) si
  let high := match raw with
    | some d => decide (d > dutyMax s)
    | none => true
  let low := match raw with
    | some d => decide (d < dutyMin s)
    | none => false
  let flows := k < 96 && q100 s j != 0
  let duty := if q100 s j = 0 then dutyMax s else if high then dutyMax s else if low then dutyMin s else raw.getD 0
  ({ x with rate := rate, turnStop := stop, duty := duty, qf := qfOf s j },
   (if stop && !x.turnStop then [feNote 0x05 k []] else [])
   ++ (if flows && high then [feNote 0x03 k []] else [])
   ++ (if flows && low && !high then [feNote 0x04 k []] else []))

/-! ### The decision (R133) -/

/-- A change a context wants: its wanted due postmark, its cause, and how late it is (R137); `directed`: the lateness is a
directed edge's; `record`: the DIRECTED record it acts on. -/
structure Change where
  k : Fin 160
  on : Bool
  due : Tick
  cause : Nat := 0
  late : Option Tick := none
  directed : Bool := false
  record : Option (Tick × Bool) := none
deriving DecidableEq, Repr

/-- The conditions that keep a context off, bit per cause code of R141 (bit 9: ANGLE_LOST). Marks: DEDUCED (log 82).
-/
def condWord (v : FeView) (s : State) (k : Nat) (x : FeCtx) (sh : Shares) (dirOn : Bool) : Nat :=
  let h := testHyst s
  bitWord 10 fun b => match b with
    | 0 => !v.directed && x.cov.blocks (thrCov s) h sh.c
    | 1 => v.masks && x.bnd.blocks (thrBnd s) h sh.b
    | 2 => v.masks && x.exc.blocks (thrExc s) h sh.x
    | 3 => v.directed && !dirOn
    | 4 => secInhibit s (v.section_ k)
    | 5 => v.pol == 3 || (!x.sched && v.guarded)
    | 6 => x.turnStop
    | 8 => zeroRate v k x
    | 9 => !x.sched && angleLost s v.i 5 (v.i.ctxN k 4 2)
    | _ => false

/-- Lowest set bit of a word of ten. -/
def lowBit (w : Nat) : Option Nat := (List.range 10).find? fun b => bitN w b

/-- Ticks the footprint needs from `dt` after the pose to move on by `dist`; to where the path stops, if sooner
(R131). Marks: DEDUCED (log 42). -/
def aheadTicks (f : FinePose) (dt dist : Int) : Tick :=
  let v := (travel f dt).speed
  let a := if v < 0 then -f.accel else f.accel
  let u : Int := v.natAbs
  let rad := u * u + 2 * a * dist
  if v = 0 then 0
  else if rad < 0 then (u * 80000000 / -a).toNat
  else (2 * dist * 80000000 / (u + isqrt rad.toNat)).toNat

/-- The crossings of the tests whose outcome differs between the two ends, as (cause, postmark) (R127, R141). Marks:
DEDUCED (log 42). -/
def crossings (v : FeView) (s : State) (x : FeCtx) (a b : Shares) (wa wb : Nat) : List (Nat × Tick) :=
  let h := testHyst s
  let one (c : Nat) (t : TestSt) (thr na nb : Nat) : List (Nat × Tick) :=
    if bitN wa c != bitN wb c then [(c, crossAt (t.level2 thr h) v.start (v.stop s) na nb)] else []
  one 0 x.cov (thrCov s) a.c b.c ++ one 1 x.bnd (thrBnd s) a.b b.b ++ one 2 x.exc (thrExc s) a.x b.x

/-- Lateness of a test edge due already at the scan start (R137): `x` is the test before the frame's update; an ON
waits for its count to fall to the level, an OFF for it to rise. Marks: DEDUCED (log 43). -/
def testLate (v : FeView) (s : State) (evaluated on : Bool) (x : TestSt) (thr na nb : Nat) : Tick :=
  let l := x.level2 thr (testHyst s)
  let beyond := if on then decide (2 * (na : Int) ≤ l) else decide (l ≤ 2 * na)
  if !evaluated || beyond then 40000 else v.start - crossAt l (v.e + 40000) v.start na nb

/-- Earliest crossing, then lowest code. Marks: DEDUCED (log 42). -/
def firstCross : List (Nat × Tick) → Option (Nat × Tick)
  | [] => none
  | p :: l => some (l.foldl (fun a b => if b.2 < a.2 then b else a) p)

/-- A context that was stopped or latched off at the freeze is scheduled off and gets no event (R229, R428). -/
def feBarred (s : State) (k : Fin 160) : Bool :=
  match idx? 96 k.val with
  | some c => s.fe.stopped[c] || s.fe.frz.latched[c]
  | none => false

/-- The condition a change already due is held to come from: the lowest that changed now; for a change an earlier
frame wanted and did not make, the one it came from then; else the lowest that stands, or what FE decides by (R137).
Marks: DEDUCED (log 43). -/
def lateCause (moved standing : Nat) (held : Option Nat) (base : Nat) : Nat :=
  ((lowBit moved).or held).getD ((lowBit standing).getD base)

/-- One context's evaluation in a frame: state (cache), context, wanted change, notices. Marks: DEDUCED (log 42),
DEDUCED (log 43), DEDUCED (log 82). -/
def evalCtx (v : FeView) (k : Fin 160) (battOff : Bool) (x0 : FeCtx) (s : State) : State × FeCtx × Option Change × List Notice :=
  let on := !x0.sched
  let batt := match idx? 96 k.val with
    | some c => if on then feFeed s (bankOf c) == 1 else battOff
    | none => false
  let lat := latOf s k on batt
  let ttr := transport v.i k.val (siOf v s k.val (v.impact k.val v.start)).natAbs
  let sec := v.section_ k.val
  let dirs := directedEdges s k sec (fun o => match idx? 96 k.val with
    | some c => if o then feFeed s (bankOf c) == 1 else battOff
    | none => false) ttr x0.acted
  let dirA := directedAt dirs v.start
  let dirB := directedAt dirs (v.stop s)
  let recA := if v.directed then changeEdge on (inForce dirs v.start) else none
  let recB := changeEdge on (inForce dirs (v.stop s))
  let r := rateStep v s k.val dirA.2 x0
  let x1 := r.1
  if feBarred s k then (s, { x1 with sched := false, lastEval := none, wants := none }, none, r.2)
  else if v.pol = 2 then (s, { x0 with lastEval := none }, none, [])
  else
    let pa := v.impact k.val (v.start + lat)
    let pb := v.impact k.val (v.stop s + lat)
    let d0 := demandLines ((linesAt v s k.val pa ++ linesAt v s k.val pb).eraseDups) s
    if !d0.2 then (notice .map 0x04 k.val [] (meetFetched s d0.1), { x1 with lastEval := none }, none, r.2)
    else
      let d := readLines s d0.1 (readFoot v k.val [pa, pb] d0.1)
      let a := sharesAt v d.1 k.val x1.sched pa
      let b := sharesAt v d.1 k.val x1.sched pb
      let h := testHyst s
      let evaluated := x0.lastEval == some (v.e - 40000)
      let x2 := { x1 with cov := x1.cov.update (thrCov s) h a.c, bnd := x1.bnd.update (thrBnd s) h a.b,
                          exc := x1.exc.update (thrExc s) h a.x }
      let wa := condWord v s k.val x2 a dirA.1
      let wb := condWord v s k.val x2 b dirB.1
      let moved := (wa ^^^ x0.conds) &&& (if on then x0.conds else wa)
      let base := if v.directed then 3 else 0
      let cause := lateCause moved wa x0.wants base
      let x3 := { x2 with lastEval := some v.e, lastCov := a.c, lastBnd := a.b, lastExc := a.x, conds := wa
                          wants := if (wa == 0) != x1.sched then some cause else none }
      let errs (l : List Nat) : List Notice := l.map fun adr => feNote 0x08 k.val (leBytes 4 adr)
      let notes := r.2 ++ errs d.2
      let change : Option Change :=
        if (wa == 0) != x1.sched then
          let c0 := if v.arming then 7 else (lowBit (moved &&& 0x17F)).getD base
          let late : Option Tick :=
            if v.arming then none
            else match cause with
              | 0 => some (testLate v s evaluated on x0.cov (thrCov s) x0.lastCov a.c)
              | 1 => some (testLate v s evaluated on x0.bnd (thrBnd s) x0.lastBnd a.b)
              | 2 => some (testLate v s evaluated on x0.exc (thrExc s) x0.lastExc a.x)
              | 3 => match recA with
                | some r => r.want.bind fun w => if w < v.start then some ((v.start : Int) - w).toNat else none
                | none => some 40000
              | _ => none
          some { k := k, on := on, due := v.start, cause := c0, late := late, directed := cause == 3, record := recA.bind (·.key) }
        else if (wb == 0) != x1.sched then
          let moves := bitN wa 3 != bitN wb 3
          let cs := crossings v s x2 a b wa wb ++ (match recB with
            | some r => if moves then [(3, max v.start r.from_.toNat)] else []
            | none => [])
          match firstCross cs with
          | some p => some { k := k, on := on, due := if on then cs.foldl (fun m q => max m q.2) p.2 else p.2, cause := p.1
                             record := if moves then recB.bind (·.key) else none }
          | none => none
        else none
      match change with
      | none => (d.1, x3, none, notes)
      | some c =>
        let only := !on && (if c.due = v.start then wa == 1 else wb == 1)
        if on || only then
          let dt := (c.due : Int) + lat - v.e
          let q := v.impact k.val (c.due + lat + aheadTicks v.f dt (if on then minRun s else minGap s))
          let d2 := demandLines (linesAt v s k.val q) d.1
          if !d2.2 then (notice .map 0x04 k.val [] (meetFetched d.1 d2.1), { x1 with lastEval := none }, none, r.2)
          else
            let d3 := readLines d.1 d2.1 (readFoot v k.val [q] d2.1)
            let w := condWord v d3.1 k.val x2 (sharesAt v d3.1 k.val x1.sched q) true
            (d3.1, x3, if (w == 0) == on then some c else none, notes ++ errs d3.2)
        else (d.1, x3, some c, notes)

/-! ### The bank model and placement (R134, R136, R142) -/

/-- The on-time FE predicts for a channel's opening at `o` from accumulator `acc`, and the next accumulator: the duty in
force there, under the duty scale of THS (R235, R237, R239). -/
def onTimeAt (s : State) (c : Fin 96) (acc : Nat) (o : Tick) : Tick × Nat :=
  let n := s.pwu.noz[c]
  let b := bankOf c
  let shadow := (latestWrite (fun x => x < o) n.writes).getD n.active
  onTime s.pwu.grid[b].period acc (shadow * scaleAt s b o / 65536)

/-- The end FE predicts for a decay of channel `c` that starts at `t` with feed class `battery`: its learned closing. -/
def decayOver (s : State) (c : Fin 96) (battery : Bool) (t : Tick) : Tick := t + frozenLat s (ctxOf c) (latKind true battery)

/-- The feed of a bank at a tick to come, as its windows stand: battery outside them (R200). -/
def feedAhead (s : State) (b : Fin 12) (t : Tick) : Bool :=
  match feFeed s b with
  | 0 => !(s.vdr.bank[b].windows.any fun w => inWindow w.start w.stop t)
  | 2 => false
  | _ => true

/-- The start of the decay FE predicts for a channel before tick `t`, with its feed class: the one in progress, or
that of the OFF or the closing still to come, no earlier than the end of the pull-in (R193, R198). Marks: DEDUCED (log
94). -/
def decayAhead (s : State) (c : Fin 96) (t : Tick) : Option (Tick × Bool) :=
  let h := s.vdr.ch[c]
  let offs := ((s.vdr.bank[bankOf c].queue.filter fun ev => ev.ctx == c.val && !ev.on && decide (ev.due ≤ t)).map (·.due))
    ++ (match s.pwu.noz[c].closeAt with | some cl => if cl ≤ t then [cl] else [] | none => [])
    ++ (if h.held then [h.pullEnd] else [])
  match h.st with
  | .off => none
  | .decay => some (h.offPm, h.offBattery)
  | _ => match offs with
    | [] => none
    | o :: l => (let d := max (l.foldl min o) h.pullEnd; some (d, feedAhead s (bankOf c) d))

/-- A start request at `t` meets its channel in OFF, as FE predicts it (R136, R189). Marks: DEDUCED (log 94). -/
def meetsOff (s : State) (c : Fin 96) (t : Tick) : Bool :=
  match decayAhead s c t with
  | some d => decide (decayOver s c d.2 d.1 ≤ t)
  | none => s.vdr.ch[c].st == .off

/-- The due postmark with which a start asked for at `t` is arbitrated: later where it meets a decay (R198). Marks:
DEDUCED (log 94). -/
def startDue (s : State) (c : Fin 96) (t : Tick) : Tick :=
  match decayAhead s c t with
  | some d => if decayOver s c d.2 d.1 ≤ t then t else max (max t (decayOver s c d.2 d.1)) (d.1 + tOffMin s)
  | none => t

/-- Openings of a bank's channels that will ask for a pull-in up to a horizon, from what is queued and running (R136):
an opening counts where no OFF comes before it, where it does not merge, finds its channel in OFF and its on-time is
not 0; a start queued in DECAY and a reserved start without a window count at their due postmarks. Marks: DEDUCED (log
94). -/
def bankDemands (s : State) (b : Fin 12) (horizon : Tick) : List (Tick × Fin 96) :=
  let all := (bankChans b).flatMap fun c =>
    let mine := s.vdr.bank[b].queue.filter fun ev => ev.ctx == c.val
    let offIn (t o : Tick) : Bool := mine.any fun ev => !ev.on && decide (t ≤ ev.due) && decide (ev.due ≤ o)
    let n := s.pwu.noz[c]
    let ons := (mine.filter (·.on)).flatMap fun ev =>
      let g := nextOpening s c ev.due
      let d := startDue s c ev.due
      let w := onTimeAt s c 0 (ev.due + 1)
      (d, c) :: (if d + w.1 + tOffMin s ≤ g ∧ decayOver s c (feedAhead s b (d + w.1)) (d + w.1) ≤ g ∧ !offIn ev.due g
          ∧ (onTimeAt s c w.2 g).1 ≠ 0 then [(g, c)] else [])
    let o := nextOpening s c s.pm
    let free := match n.closeAt with
      | some cl => decide (cl + tOffMin s ≤ o)
      | none => true
    let h := s.vdr.ch[c]
    ons ++ (if n.running && !n.merged && free && meetsOff s c o && !offIn 0 o && (onTimeAt s c n.acc o).1 != 0 then [(o, c)] else [])
      ++ (if h.st == .pending && h.unplaced && !offIn 0 h.startAt then [(h.startAt, c)] else [])
      ++ (if h.st == .decay && h.queued && !offIn 0 (startDue s c s.pm) then [(startDue s c s.pm, c)] else [])
  (all.filter fun p => p.1 ≤ horizon).foldl (fun l p => insertBy (fun q => q.1 * 128 + q.2.val) p l) []

/-- FE's model of a bank: its windows, and the pull-ins as (channel, start, end). -/
structure BankModel where
  ws : List Win := []
  pulls : List (Fin 96 × Tick × Tick) := []
deriving DecidableEq, Repr, Inhabited

/-- The bank as VDR has it. -/
def modelNow (s : State) (b : Fin 12) : BankModel :=
  { ws := s.vdr.bank[b].windows
    pulls := ((bankChans b).filter fun c => s.vdr.ch[c].st == .pullIn || (s.vdr.ch[c].st == .pending && !s.vdr.ch[c].unplaced)).map
      fun c => (c, s.vdr.ch[c].startAt, s.vdr.ch[c].pullEnd) }

/-- The arbitration FE predicts for channel `c` due at `d` in these windows (R194). -/
def grantIn (s : State) (ws : List Win) (c : Fin 96) (d : Tick) : Grant :=
  arbitrateFrom ws (tPull s c.val) (tPullMin s c.val) (ws.length + 1) d

/-- The model after a demand has been arbitrated (R194, R195); a bank that is not in AUTO has no windows (R199). -/
def modelStep (s : State) (m : BankModel) (p : Tick × Fin 96) : BankModel :=
  let direct : BankModel := { m with pulls := m.pulls ++ [(p.2, p.1, p.1 + tPull s p.2.val)] }
  if feFeed s (bankOf p.2) ≠ 0 then direct
  else
    let g := grantIn s m.ws p.2 p.1
    if g.at_ - p.1 > dMax s ∧ ctxFld s (ctxOf p.2) 3 1 = 1 then direct
    else { ws := if g.opens then insertBy Win.start { start := g.at_, stop := g.at_ + g.len, guard := guardGap s, opener := p.2.val } m.ws else m.ws
           pulls := m.pulls ++ [(p.2, g.at_, g.at_ + g.len)] }

/-- The model of a bank as the demands before a start at `d` leave it. -/
def modelBefore (s : State) (b : Fin 12) (ds : List (Tick × Fin 96)) (d : Tick) (c : Nat) : BankModel :=
  (ds.filter fun p => p.1 * 128 + p.2.val < d * 128 + c).foldl (modelStep s) (modelNow s b)

/-- The arbitration FE predicts for channel `c` due at `d`. -/
def predict (s : State) (ds : List (Tick × Fin 96)) (c : Fin 96) (d : Tick) : Grant :=
  grantIn s (modelBefore s (bankOf c) ds d c.val).ws c d

/-- A placed ON: due postmark, predicted battery feed, START_PRED, and whether it is placement B with a deferral. -/
structure Placed where
  due : Tick
  battery : Bool := false
  pred : Nat := 0
  deferred : Bool := false
deriving DecidableEq, Repr

def Grant.atOnce (g : Grant) (d : Tick) : Bool := g.at_ == d

/-- Postmarks at which what a start meets in a bank can change. -/
def modelEnds (s : State) (b : Fin 12) (ds : List (Tick × Fin 96)) (c : Fin 96) : List Tick :=
  let ws := (ds.foldl (modelStep s) (modelNow s b)).ws
  ds.map (·.1) ++ ws.flatMap fun w => [w.start, w.stop, w.stop + w.guard, w.stop - tPullMin s c.val]

/-- Placement A (R136): the latest postmark from `lo` to before `d` at which the ON would open or join a window. -/
def advance (s : State) (ds : List (Tick × Fin 96)) (c : Fin 96) (lo d : Tick) : Option Tick :=
  let cand := (lo :: (d - 1) :: (modelEnds s (bankOf c) ds c).flatMap fun t => [t - 1, t, t + 1]).filter fun t =>
    lo ≤ t && t < d && (predict s ds c t).atOnce t
  cand.foldl (fun m t => match m with
    | some x => some (max x t)
    | none => some t) none

/-- Placement of an ON of channel `c` wanted at `d` in the frame of edge `e` (R136). -/
def place (s : State) (e : Tick) (ds : List (Tick × Fin 96)) (c : Fin 96) (d : Tick) : Placed :=
  match feFeed s (bankOf c) with
  | 0 =>
    let g := predict s ds c d
    if g.atOnce d then { due := d, pred := if g.opens then 0 else 1 }
    else
      let i := ctxOf c
      let batOk := ctxFld s i 3 1 == 1
      let delta := g.at_ - d
      let toBat := delta > dMax s && batOk
      let diff : Int := (frozenLat s i (latKind false true) : Int) - frozenLat s i (latKind false false)
      let a := advance s ds c (max (d - shiftMax s) (e + 80000)) d
      let dc : Int := (d : Int) - diff
      let cOk : Option Tick :=
        if batOk ∧ dc ≥ (e : Int) + 80000 ∧ (predict s ds c dc.toNat).at_ - dc.toNat > dMax s then some dc.toNat else none
      let errB : Nat := if toBat then diff.natAbs else delta
      let b : Placed := { due := d, battery := toBat, pred := if toBat then 0 else 2, deferred := !toBat }
      match cOk with
      | some t => { due := t, battery := true }
      | none =>
        match a with
        | some t => if d - t ≤ errB then { due := t, pred := if (predict s ds c t).opens then 0 else 1 } else b
        | none => b
  | 2 => { due := d }
  | _ => { due := d, battery := true }

/-- SHIFT of R141: 2 µs, to the nearest, a tie toward zero. Marks: DEDUCED (log 82). -/
def shiftOf (due wanted : Tick) : Int :=
  let x := (due : Int) - wanted
  let m : Int := ((x.natAbs + 79) / 160 : Nat)
  if x < 0 then -m else m

/-- The event of a change placed at `p`. Marks: DEDUCED (log 82). -/
def eventOf (e : Tick) (c : Change) (p : Placed) (rate : Nat) : Ev :=
  { due := p.due, ctx := c.k.val, on := c.on, batPred := c.on && c.k.val < 96 && p.battery,
    startPred := if c.on ∧ c.k.val < 96 then p.pred else 3, cause := c.cause, shift := shiftOf p.due c.due,
    frame := frameNo e, rate := rate }

/-- The class FE predicts for the feed of an OFF due at the scan-interval start: that of the tick on which its decay will
start, the end of the pull-in the channel is predicted in there (R127, R200). -/
def offBattery (s : State) (e : Tick) (c : Fin 96) : Bool :=
  let b := bankOf c
  let t := e + 80000
  let d := match (modelBefore s b (bankDemands s b t) t 128).pulls.find? fun p => p.1 == c && inWindow p.2.1 p.2.2 t with
    | some p => p.2.2
    | none => t
  match feFeed s b with
  | 0 => !((modelBefore s b (bankDemands s b d) d 128).ws.any fun w => inWindow w.start w.stop d)
  | 2 => false
  | _ => true

/-- A bank's changes of a frame: those that get a credit, and those that do not (R142). The credits are those the bank
has at the commit, when what falls due before it has executed. OFFs go first, then ONs by wanted due postmark and CTX
index; an OFF beyond the commit interval waits for its frame and takes none. Marks: DEDUCED (log 48). -/
def grantCredits (s : State) (e : Tick) (b : Fin 12) (cs : List Change) : List Change × List Change :=
  let mine := cs.filter fun c => c.k.val / 8 == b.val && c.k.val < 96 && (c.on || c.due < e + 120000)
  let order := (mine.filter fun c => !c.on) ++ (mine.filter (·.on)).foldl (fun l c => insertBy (fun x => x.due * 256 + x.k.val) c l) []
  let n := 32 - (s.vdr.bank[b].queue.filter fun ev => e + 32000 ≤ ev.due).length
  (order.take n, order.drop n)

/-- Place a bank's granted changes in order; those beyond the commit interval are left for the next frame (R127, R136). -/
def placeBank (s : State) (e : Tick) (b : Fin 12) (cs : List Change) (rate : Fin 160 → Nat) : List (Ev × Change × Bool) :=
  (cs.foldl (fun (acc : List (Tick × Fin 96) × List (Ev × Change × Bool)) c =>
    match idx? 96 c.k.val with
    | none => acc
    | some ch =>
      let p : Placed := if c.on then place s e acc.1 ch c.due else { due := c.due, pred := 3 }
      if p.due ≥ e + 120000 then acc
      else ((if c.on && !p.battery then insertBy (fun q => q.1 * 128 + q.2.val) (p.due, ch) acc.1 else acc.1),
            acc.2 ++ [(eventOf e c p (rate c.k), c, p.deferred)]))
    (bankDemands s b (e + 120000 + shiftMax s), [])).2

end Sys2Proof.Machine
end

