-- ==== Sys2Proof/Machine/FieldPaint.lean ====
section
/-! DEFINITION. FE's painting from measured postmarks and the section runs of the as-applied log (R167 to R170, R180). -/

namespace Sys2Proof.Machine

/-! ### Where a context's product fell (R168, R169) -/

/-- What painting needs of a context: the active set, the trail, the coverage cell. -/
structure PaintView where
  i : ImplSet
  k : Nat
  trail : List Pose
  cell : Nat

/-- The impact point of product released exactly at a pose of the trail. -/
def impactOf (v : PaintView) (p : Pose) : Impact := impactAt v.i p.est.fine p.angles v.k 0

/-- The poses at and after a postmark, newest first, with the last one at or before it; none before the oldest. -/
def bracket (t : Tick) : List Pose → Option (Pose × Option Pose)
  | [] => none
  | p :: l => if p.pm ≤ t then some (p, none) else match bracket t l with
    | some (q, none) => some (q, some p)
    | r => r

/-- The impact point of product released at `t`: interpolated between the two poses that bracket it (R169). Marks:
DEDUCED (log 49). -/
def paintPoint (v : PaintView) (t : Tick) : Option Impact :=
  match bracket t v.trail with
  | none => none
  | some (p, none) => some (impactOf v p)
  | some (p, some q) =>
    let a := impactOf v p
    let b := impactOf v q
    let d : Int := (q.pm - p.pm : Nat)
    let x : Int := (t - p.pm : Nat)
    some { a with e := a.e + (b.e - a.e) * x / d, n := a.n + (b.n - a.n) * x / d, axis := a.axis + turnDiff b.axis a.axis * x / d }

/-- The instants at which a stretch is cut: its ends and the poses between. Marks: DEDUCED (log 49). -/
def cutPoints (trail : List Pose) (t0 t1 : Tick) : List Tick :=
  t0 :: ((trail.filter fun p => t0 < p.pm && p.pm < t1).map (·.pm)).reverse ++ [t1]

/-- Cells swept over a stretch [t0, t1) (R168). -/
def stretchCells (v : PaintView) (t0 t1 : Tick) : List (Int × Int) :=
  let w : Int := 65536 * v.i.ctxN v.k 128 16
  let l : Int := 65536 * v.i.ctxN v.k 144 16
  if t1 ≤ t0 then []
  else
    let pts := (cutPoints v.trail t0 t1).filterMap (paintPoint v)
    (List.zip pts (pts.drop 1)).flatMap fun x => sweptCells v.cell w l x.1 x.2

/-! ### A context's run (R167) -/

/-- What a member does to its section's run: its own run begins at a place, with a rate and from a commanded edge or not; it has
painted and been open; its run ends at a place, by a closing that was placed or not. -/
inductive RunWhat where
  | start (place : Int × Int) (rate : Nat) (commanded : Bool)
  | count (area quantity : Nat) (commanded : Bool)
  | stop (place : Int × Int) (unmeasured : Bool)
deriving DecidableEq, Repr

/-- One such step of context `k` of a layer at postmark `at_`. -/
structure RunStep where
  at_ : Tick
  k : Nat
  layer : Nat
  what : RunWhat
deriving DecidableEq, Repr

/-- Painting of one context in a frame, as it goes along; `area` and `quantity` are those since the last step counted. -/
structure PaintAcc where
  x : FeCtx
  cells : List (Int × Int) := []
  area : Nat := 0
  quantity : Nat := 0
  commanded : Bool := false
  steps : List RunStep := []
  /-- the stretch before the oldest pose kept -/
  gap : Option (Tick × Tick) := none

/-- mm of a place in 2⁻¹⁶ mm. -/
def mmOf (x : Int) : Int := x / 65536

/-- The oldest pose kept. -/
def oldestPose (v : PaintView) : Option Tick := v.trail.getLast?.map (·.pm)

/-- Paint on to `t`, but no further than the newest pose, each cell once in a run, counting the area; what lies before
the oldest pose is a gap (R168, R169). Marks: DEDUCED (log 49). -/
def paintTo (v : PaintView) (t : Tick) (a : PaintAcc) : PaintAcc :=
  let t0 := a.x.paintTo
  let t1 := match v.trail with
    | p :: _ => min t p.pm
    | [] => t
  if t1 ≤ t0 then a
  else
    let old := (oldestPose v).getD t1
    let from_ := max t0 (min old t1)
    let cs := ((stretchCells v from_ t1).eraseDups).filter fun c => !a.x.painted.contains c
    { a with x := { a.x with paintTo := t1, painted := cs ++ a.x.painted }, cells := a.cells ++ cs
             area := a.area + cs.length * v.cell * v.cell
             gap := if from_ > t0 then some ((a.gap.map (·.1)).getD t0, from_) else a.gap }

/-- Count open time up to `t1` into the quantity. -/
def countOpen (t1 : Tick) (still : Bool) (a : PaintAcc) : PaintAcc :=
  match a.x.openFrom with
  | none => a
  | some t0 =>
    { a with x := { a.x with openFrom := if still then some (max t0 t1) else none }
             quantity := a.quantity + (t1 - t0) * a.x.qf }

/-- The place product released at `t` fell on, 2⁻¹⁶ mm. -/
def placeOf (v : PaintView) (t : Tick) : Int × Int := match paintPoint v t with
  | some p => (p.e, p.n)
  | none => (0, 0)

/-- A step of the context's section run at `t`. -/
def PaintAcc.step (v : PaintView) (t : Tick) (w : RunWhat) (a : PaintAcc) : PaintAcc :=
  { a with steps := a.steps ++ [{ at_ := t, k := v.k, layer := v.i.ctxN v.k 16 2, what := w }] }

/-- What has been painted and counted goes into the section's run at `t`. -/
def PaintAcc.flush (v : PaintView) (t : Tick) (a : PaintAcc) : PaintAcc :=
  { a.step v t (.count a.area a.quantity a.commanded) with area := 0, quantity := 0, commanded := false }

/-- A run begins at a measured opening (R167, R180). -/
def beginRun (v : PaintView) (t : Tick) (commanded : Bool) (a : PaintAcc) : PaintAcc :=
  { a.step v t (.start (placeOf v t) a.x.rate commanded) with
    x := { a.x with runFrom := some t, paintTo := t, painted := [], openFrom := some t, closed := none, unmeasured := false } }

/-- A run ends at `t` (R167, R180). -/
def finishRun (v : PaintView) (t : Tick) (a : PaintAcc) : PaintAcc :=
  { (a.flush v t).step v t (.stop (placeOf v t) a.x.unmeasured) with
    x := { a.x with runFrom := none, painted := [], openFrom := none, closed := none } }

/-- One edge of a context, `off` the learned off-latency that places an unmeasured closing (R167). The first opening after an
ON event begins a run, and ends one still open at its last closing. `held` marks an edge of a remote context that was placed
from its command (R170). -/
def takeEdge (v : PaintView) (off : Firing → Tick) (a : PaintAcc) (f : Firing) : PaintAcc :=
  let byCommand := decide (f.ctx ≥ 96) && f.held
  if !f.closing then
    if f.noSig then
      (if a.x.runFrom.isSome then finishRun v (a.x.closed.getD a.x.paintTo) a else a)
    else match a.x.runFrom, a.x.closed, f.fresh with
      | none, _, _ => beginRun v f.pm byCommand a
      | some _, some cl, true => beginRun v f.pm byCommand (finishRun v cl (paintTo v cl a))
      | some _, _, _ =>
        let b := paintTo v f.pm a
        { b with x := { b.x with closed := none, openFrom := some f.pm } }
  else
    match a.x.runFrom with
    | none => a
    | some _ =>
      let cl := if f.noSig then f.pm + off f else f.pm
      let b := countOpen cl false (paintTo v cl a)
      { b with x := { b.x with closed := some cl, unmeasured := f.noSig }, commanded := b.commanded || byCommand }

/-- A postmark the bank store has discarded cuts an open run: it is painted to its last closing, else to the postmark,
and ends there; the next stored opening begins a new one (R14). Marks: DEDUCED (log 49). -/
def cutRun (v : PaintView) (lost : Option Tick) (a : PaintAcc) : PaintAcc :=
  match lost, a.x.runFrom, a.x.closed with
  | some _, some _, some cl => finishRun v cl (paintTo v cl a)
  | some d, some _, none => finishRun v d (countOpen (max d a.x.paintTo) false (paintTo v d a))
  | _, _, _ => a

/-- A context's painting up to `e`. `lost` is the first postmark of it that the bank store has discarded; `decay` the start
of a decay of its channel that has not been reported yet; `beyond`: its generator makes no further opening and its
channel is off (R167, R168). A closing placed beyond the edge is painted up to as the poses come. -/
def paintCtx (v : PaintView) (e : Tick) (off : Firing → Tick) (lost decay : Option Tick) (beyond : Bool)
    (edges : List Firing) (a0 : PaintAcc) : PaintAcc :=
  let a := edges.foldl (takeEdge v off) (cutRun v lost a0)
  match a.x.runFrom with
  | none => a
  | some _ =>
    match a.x.closed with
    | none =>
      let stop := match decay with
        | some d => min d e
        | none => e
      (countOpen (max stop a.x.paintTo) true (paintTo v stop a)).flush v e
    | some cl =>
      let b := paintTo v cl a
      if beyond ∧ cl ≤ e then finishRun v cl b else b.flush v e

/-! ### All contexts of a frame -/

/-- Section group of a context in the run table: 32 for contexts without a section. Marks: DEDUCED (log 44). -/
def runSlot (i : ImplSet) (k : Nat) : Fin 33 := ⟨min (i.ctxN k 8 8) 32, by omega⟩

/-- A remote edge waits while an earlier event of its context has neither been reported nor painted from its command
(R346). Marks: DEDUCED (log 80). -/
def remoteWaits (s : State) (f : Firing) : Bool :=
  decide (96 ≤ f.ctx) && s.can.rowEvents.any fun r => r.ctx == f.ctx && r.slot.isNone && decide (r.due < f.pm - f.latency)

/-- The edges of a context in [`t0`, `e`): those of its bank store, or the remote ones. -/
def edgesOfCtx (s : State) (t0 e : Tick) (k : Fin 160) : List Firing :=
  match idx? 96 k.val with
  | some c => s.vdr.bank[bankOf c].store.filter fun f => f.ctx == k.val && t0 ≤ f.pm && f.pm < e
  | none => s.fe.remote.filter fun f => f.ctx == k.val && t0 ≤ f.pm && f.pm < e && !remoteWaits s f

/-- The mark of a context's first discarded postmark in [`t0`, `e`) (R14). -/
def lostOf (s : State) (t0 e : Tick) (k : Fin 160) : Option Tick :=
  match idx? 96 k.val with
  | some c => (s.vdr.bank[bankOf c].dropped.find? fun f => f.ctx == k.val && t0 ≤ f.pm && f.pm < e).map (·.pm)
  | none => none

/-- A decay in progress whose closing is not reported. -/
def decayOf (s : State) (k : Fin 160) : Option Tick :=
  match idx? 96 k.val with
  | some c => if s.vdr.ch[c].st = .decay then some s.vdr.ch[c].offPm else none
  | none => none

/-- The generator makes no further opening and the channel is off. -/
def runOver (s : State) (k : Fin 160) : Bool :=
  match idx? 96 k.val with
  | some c => !s.pwu.noz[c].running && s.vdr.ch[c].st == .off
  | none => true

/-! ### Section runs (R180) -/

/-- INDEX of a run record: the section, or 0xFF (R179). -/
def runIndex (j : Fin 33) : Nat := if j.val < 32 then j.val else 0xFF

/-- The RUN_START record of a section run (R179). -/
def runStart (i : ImplSet) (j : Fin 33) (q : Quality) (r : SecRun) (place : Int × Int) (rate : Nat) : BitVec 256 :=
  let tag := if j.val < 32 then bits (i.get 1 j.val) 16 16 else 0
  logRecord 0x01 (runIndex j) (r.layer ||| b2n r.commanded <<< 2) r.from_
    (uint 32 (mmOf place.1) ||| uint 32 (mmOf place.2) <<< 32 ||| tag <<< 64 ||| satU 16 rate <<< 80 ||| qualityCode q <<< 96)

/-- The RUN_END record of a section run that ends at `t` (R179). -/
def runEnd (j : Fin 33) (r : SecRun) (t : Tick) (place : Int × Int) : BitVec 256 :=
  logRecord 0x02 (runIndex j) (r.layer ||| b2n r.commanded <<< 2 ||| b2n r.unmeasured <<< 3) t
    (uint 32 (mmOf place.1) ||| uint 32 (mmOf place.2) <<< 32 ||| satU 32 (r.area / 10000) <<< 64
      ||| satU 32 (r.quantity / 314572800000000) <<< 96)

/-- A section's run after a step of a member, with the records it writes: it lasts from the first member's start to
the last member's end, the latest of their ends (R180). Marks: DEDUCED (log 49). -/
def secStep (i : ImplSet) (j : Fin 33) (q : Quality) (a : Option SecRun × List (BitVec 256)) (x : RunStep) :
    Option SecRun × List (BitVec 256) :=
  match x.what, a.1 with
  | .start p rate c, none =>
    let r : SecRun := { from_ := x.at_, layer := x.layer, commanded := c, members := [x.k] }
    (some r, a.2 ++ [runStart i j q r p rate])
  | .start _ _ _, some r => (some { r with members := x.k :: r.members.filter (· != x.k) }, a.2)
  | _, none => a
  | .count area quantity c, some r =>
    if r.members.contains x.k then
      (some { r with area := r.area + area, quantity := r.quantity + quantity, commanded := r.commanded || c }, a.2)
    else a
  | .stop p u, some r =>
    if !r.members.contains x.k then a
    else
      let r1 := { r with members := r.members.filter (· != x.k) }
      let r2 := if r.endAt ≤ x.at_ then { r1 with endAt := x.at_, endPlace := p, unmeasured := u } else r1
      if r2.members = [] then (none, a.2 ++ [runEnd j r2 r2.endAt r2.endPlace]) else (some r2, a.2)

/-- Steps in order of time; at one postmark beginnings first, then counts, then ends. Marks: DEDUCED (log 49). -/
def RunStep.order (x : RunStep) : Nat := 4 * x.at_ + (match x.what with
  | .start _ _ _ => 0
  | .count _ _ _ => 1
  | .stop _ _ => 2)

/-- What painting forms over a frame. -/
structure FramePaint where
  ctx : Vector FeCtx 160
  sec : Vector (Option SecRun) 33
  steps : List RunStep := []
  paints : List Paint := []
  recs : List (BitVec 256) := []
  gaps : List (Nat × Tick × Tick × Nat) := []

/-- The gap a context's painting leaves before the oldest pose kept: the first and last postmark lost and their
number; a stretch that runs on through it counts its start (R169). Marks: DEDUCED (log 49). -/
def trailGap (v : PaintView) (edges : List Firing) (a : PaintAcc) : Option (Tick × Tick × Nat) :=
  let lost : List Firing := match oldestPose v with
    | some o => edges.filter fun f => f.pm < o
    | none => edges
  match lost, a.gap with
  | f :: l, _ => some (f.pm, ((f :: l).getLast?.map (·.pm)).getD f.pm, l.length + 1)
  | [], some g => some (g.1, g.1, 1)
  | [], none => none

/-- Painting of one context from `t0` up to `e` into the frame's. -/
def paintOne (s : State) (t0 e : Tick) (i : ImplSet) (k : Fin 160) (acc : FramePaint) : FramePaint :=
  let edges := edgesOfCtx s t0 e k
  let x := acc.ctx[k]
  if !i.ctxOn k.val ∨ (edges = [] ∧ x.runFrom.isNone) then acc
  else
    let layer := i.ctxN k.val 16 2
    let v : PaintView := { i := i, k := k.val, trail := s.pos.trail, cell := cellMm s layer }
    let off (f : Firing) : Tick := frozenLat s k (latKind true f.battery)
    let a := paintCtx v e off (lostOf s t0 e k) (decayOf s k) (runOver s k) edges { x := x }
    { acc with
      ctx := acc.ctx.set k a.x
      steps := acc.steps ++ a.steps
      paints := if a.cells = [] then acc.paints else acc.paints ++ [{ ctx := k.val, layer := layer, cells := a.cells }]
      gaps := match trailGap v edges a with
        | some g => acc.gaps ++ [(if k.val < 96 then k.val / 8 else 0xFF, g)]
        | none => acc.gaps }

/-- The section runs after the steps of their members, in order of time (R180). -/
def runSteps (i : ImplSet) (q : Quality) (f : FramePaint) : FramePaint :=
  let steps := f.steps.foldl (fun l x => insertBy RunStep.order x l) []
  let runs := Vector.ofFn fun (j : Fin 33) => (steps.filter fun x => runSlot i x.k == j).foldl (secStep i j q) (f.sec[j], [])
  { f with sec := vmap runs (·.1), recs := f.recs ++ (vlist runs).flatMap (·.2), steps := [] }

/-- Painting from `t0` up to `e`, in CTX order, and the section runs it makes. -/
def paintSpan (s : State) (t0 e : Tick) (i : ImplSet) (f : FramePaint) : FramePaint :=
  runSteps i s.pos.pose.quality ((List.finRange 160).foldl (fun acc k => paintOne s t0 e i k acc) f)

/-- The place at which a section's run stands at `t`: that of its first open member. -/
def runPlace (s : State) (i : ImplSet) (r : SecRun) (t : Tick) : Int × Int :=
  match r.members.foldl (fun (m : Option Nat) k => some (min k (m.getD k))) none with
  | some k => placeOf { i := i, k := k, trail := s.pos.trail, cell := 100 } t
  | none => r.endPlace

/-- RUN_END of every section run still open at `t` (R180). -/
def runEnds (s : State) (i : ImplSet) (sec : Vector (Option SecRun) 33) (t : Tick) : List (BitVec 256) :=
  (List.finRange 33).filterMap fun j => sec[j].map fun r => runEnd j r t (runPlace s i r t)

/-- Section runs end where drive was left (R180). -/
def endSections (s : State) (i : ImplSet) (t : Tick) (f : FramePaint) : FramePaint :=
  { f with recs := f.recs ++ runEnds s i f.sec t, sec := Vector.replicate 33 none }

/-- Where drive was left by edge `e`, the instant. -/
def endBy (s : State) (e : Tick) : Option Tick := s.fe.ending.bind fun t => if t ≤ e then some t else none

/-- Painting of a frame: up to where drive was left, whose runs end there, then to the frame's edge (R168, R180). -/
def paintFrame (s : State) (e : Tick) (i : ImplSet) (cs : Vector FeCtx 160) : FramePaint :=
  let f : FramePaint := { ctx := cs, sec := s.fe.secRun }
  match endBy s e with
  | some t => paintSpan s t e i (endSections s i t (paintSpan s 0 t i f))
  | none => paintSpan s 0 e i f

/-- A paint's lines are demanded; it is applied, or stays pending (R165). -/
def demandPaint (p : Paint) (s : State) : State × Bool :=
  let r := demandLines ((p.cells.filterMap fun c =>
    if (findSwatch s.map p.layer (tileOf 256 c.1) (tileOf 256 c.2)).isSome then some (coverLine s p.layer c.1 c.2) else none).eraseDups) s
  (meetFetched s r.1, r.2)

/-- Sort a frame's paints into those applied and those left pending. -/
def demandPaints (ps : List Paint) (s : State) : State × List Paint × List Paint :=
  ps.foldl (fun (r : State × List Paint × List Paint) p =>
    let d := demandPaint p r.1
    if d.2 then (d.1, r.2.1 ++ [p], r.2.2) else (d.1, r.2.1, r.2.2 ++ [p])) (s, [], [])

/-- Apply paints; what found no page yet stays pending (R159, R165). -/
def applyPaints (ps : List Paint) (s : State) : State × List Paint :=
  ps.foldl (fun (r : State × List Paint) p =>
    let d := paint p.layer p.cells r.1
    (d.1, if d.2 = [] then r.2 else r.2 ++ [{ p with cells := d.2 }])) (s, [])

/-- The runs still open when the device leaves ARMED or MANUAL are ended at that frame edge (R180), also those whose
opening FE has not taken yet: it paints and counts up to the edge in its next frame. Marks: DEDUCED (log 86). -/
def endRuns (e : Tick) (s : State) : State :=
  s.onFe fun f => { f with ending := f.ending.or (some e) }

/-- A section's run with the open time of its members up to `t` counted. -/
def countedTo (i : ImplSet) (cs : Vector FeCtx 160) (t : Tick) (j : Fin 33) (r : SecRun) : SecRun :=
  ((List.finRange 160).filter fun k => runSlot i k.val == j && r.members.contains k.val).foldl (fun (r : SecRun) k => match cs[k].openFrom with
    | some t0 => { r with quantity := r.quantity + (t - t0) * cs[k].qf }
    | none => r) r

/-- The runs still open where FE goes on no more are ended at once (R180). Marks: DEDUCED (log 86). -/
def endRunsNow (t : Tick) (s : State) : State :=
  match s.impl.active with
  | none => s
  | some i =>
    let sec := vmapIdx s.fe.secRun fun j r => r.map (countedTo i s.fe.ctx t j)
    (runEnds s i sec t).foldl (fun u r => writeLog r u) (s.onFe fun f => { f with secRun := Vector.replicate 33 none, ending := none })

end Sys2Proof.Machine
end

