-- ==== Sys2Proof/Machine/Position.lean ====
section
/-! DEFINITION. POS (04): the frame's pose, quality levels, integrity, odometry sources, integer ambiguities, origin.
The filter's arithmetic is free (Config); what it is given, in which order, and what is read from it is here. The pose is that
of the carrier reference point on the axes of R79 (R78); the DR window is that of R95, the notices those of R99 and R100. -/

namespace Sys2Proof.Machine

/-! ### Parameters (R103) -/

def drTimeLimit (s : State) : Tick := 800000 * s.act.fld .pos 0 16
def drErrLimit (s : State) : Nat := s.act.fld .pos 16 16
def imuOnlyLimit (s : State) : Tick := 800000 * s.act.fld .pos 32 8
def fixRatio (s : State) : Nat := s.act.fld .pos 40 8
def fixConfirm (s : State) : Nat := s.act.fld .pos 48 8
def zuptEnable (s : State) : Bool := s.act.flag .pos 161
def nhcEnable (s : State) : Bool := s.act.flag .pos 162
def headingRestoreEn (s : State) : Bool := s.act.flag .pos 163

def modOdo (k : Fin 4) (f : Odo → Odo) (s : State) : State := s.onPos fun p => { p with odo := vmod p.odo k f }

/-! ### The carrier and the IMU (R79, R82, R83) -/

/-- Bits of the active machine description; zero while no set is active. -/
def machN (s : State) (lo w : Nat) : Nat :=
  match s.impl.active with
  | some i => bits i.mach.toNat lo w
  | none => 0
def machS (s : State) (lo : Nat) : Int := sint 32 (machN s lo 32)

/-- The carrier's geometry (R82). -/
def carrierOf (s : State) : Carrier :=
  { ant := (machS s 0, machS s 32, machS s 64), mod := (machS s 96, machS s 128, machS s 160) }

/-- Carrier directions, x forward, y right, z down: what `f` of MOD_ORIENT counts, and the list `r` indexes (R82). -/
def zDirs : List (Int × Int × Int) := [(0, 0, 1), (0, 0, -1), (1, 0, 0), (-1, 0, 0), (0, 1, 0), (0, -1, 0)]
def xDirs : List (Int × Int × Int) := [(1, 0, 0), (0, 1, 0), (-1, 0, 0), (0, -1, 0), (0, 0, 1), (0, 0, -1)]

def dot3 (a b : Int × Int × Int) : Int := a.1 * b.1 + a.2.1 * b.2.1 + a.2.2 * b.2.2
def cross3 (a b : Int × Int × Int) : Int × Int × Int :=
  (a.2.1 * b.2.2 - a.2.2 * b.2.1, a.2.2 * b.1 - a.1 * b.2.2, a.1 * b.2.1 - a.2.1 * b.1)

/-- A vector on the module's axes turned to the carrier's, by MOD_ORIENT = 4 × f + r (R82). -/
def toCarrier (orient : Nat) (v : Int × Int × Int) : Int × Int × Int :=
  let z := zDirs.getD (orient / 4) (0, 0, 1)
  let x := (xDirs.filter fun d => dot3 d z == 0).getD (orient % 4) (1, 0, 0)
  let y := cross3 z x
  (v.1 * x.1 + v.2.1 * y.1 + v.2.2 * z.1, v.1 * x.2.1 + v.2.1 * y.2.1 + v.2.2 * z.2.1, v.1 * x.2.2 + v.2.1 * y.2.2 + v.2.2 * z.2.2)

/-- Something holds of each of the newest `n` increments, of which there are as many. -/
def newestAll (n : Nat) (p : ImuRec → Bool) (l : List ImuRec) : Bool := decide (n ≤ l.length) && (l.take n).all p

/-- IMU_FAULT: the self-check fails, samples are stuck for 5 ms, or saturated for 20 ms (R102). -/
def imuFault (fail : Bool) (l : List ImuRec) : Bool :=
  fail || newestAll 80 (·.inc.sat) l || (match l with
    | a :: _ => newestAll 20 (fun r => r.inc.ang == a.inc.ang && r.inc.vel == a.inc.vel) l
    | [] => false)

/-- The increments of the frame of edge `e`, at their midpoints, put before those of the last 0.5 s (R83, R88). -/
def imuNow (e : Tick) (f : Freeze) (l : List ImuRec) : List ImuRec :=
  let raw : List ImuRec := { pm := e - 10000, inc := f.imu1 } :: { pm := e - 30000, inc := f.imu0 } :: l
  let ok := !imuFault f.imuFail raw
  ({ pm := e - 10000, inc := f.imu1, ok := ok } :: { pm := e - 30000, inc := f.imu0, ok := ok } :: l).take 2000

/-- A component of the increments has a standard deviation below `lim`. -/
def steady (lim : Nat) (l : List Int) : Bool :=
  decide (l.length * (l.map fun x => x * x).sum < l.sum * l.sum + (l.length * lim) * (l.length * lim))

/-- Specific force varies by less than 0.05 m/s² and angular rate by less than 0.1 °/s, 1σ over 0.5 s (R88). -/
def imuStill (l : List ImuRec) : Bool :=
  decide (2000 ≤ l.length)
    && [(·.inc.vel.1), (·.inc.vel.2.1), (·.inc.vel.2.2)].all (fun f => steady 12500 (l.map f))
    && [(·.inc.ang.1), (·.inc.ang.2.1), (·.inc.ang.2.2)].all (fun f => steady 25000 (l.map f))

/-! ### Odometry sources (R82, R84 to R88, R125, R338) -/

def odoFld (s : State) (k : Fin 4) (lo w : Nat) : Nat := machN s (160 * k.val + 384 + lo) w

def odoType (s : State) (k : Fin 4) : Nat := odoFld s k 0 8
/-- Scale factor, 2⁻¹⁶: counts per metre, the calibrated factor or the nominal one; of a message, its calibrated ratio or 1
(R86). -/
def odoScale (s : State) (k : Fin 4) : Nat :=
  if s.pd0.odoCal[k] then s.pd0.odoScale[k] else if odoType s k ≥ 3 then 65536 else odoFld s k 16 32
def odoLag (s : State) (k : Fin 4) : Tick := 8000 * odoFld s k 112 16

/-- A source that could be used: present, scaled, not stale, not slipping. -/
def odoUsable (s : State) (k : Fin 4) : Bool :=
  odoType s k != 0 && odoScale s k != 0 && !(odoType s k ≥ 3 && s.pos.odo[k].stale) && !s.pos.odo[k].slipping

/-- The pose in force at a postmark. Marks: DEDUCED (log 36). -/
def poseAt (s : State) (t : Tick) : PoseEst :=
  match s.pos.trail.find? fun p => p.pm ≤ t with
  | some p => p.est
  | none => s.pos.pose.est

/-- Forward speed of the pose in force at a postmark, 1 mm/s. Marks: DEDUCED (log 36). -/
def speedAt (s : State) (t : Tick) : Int := (poseAt s t).speed

/-- Speed magnitude of a frequency input at the freeze of edge `e`, 2⁻¹⁶ count/s: the pulses since the last update
over their time, or the last speed, limited to one pulse in the time since LAST_PM; 0 once stopped (R82, R280). Marks:
DEDUCED (log 36). -/
def pulseRate (e : Tick) (seen : Option (BitVec 32 × Tick)) (v : FreqVals) (old : Nat) : Nat :=
  if v.stopped then 0
  else match seen with
    | some a =>
      let n := (v.pulses - a.1).toNat
      if n ≠ 0 ∧ a.2 < v.lastPm then n * 5242880000000 / (v.lastPm - a.2) else min old (5242880000000 / max 1 (e - v.lastPm))
    | none => 0

/-- What a source measures at the freeze of edge `e`: speed in mm/s and the postmark it stands for (R84, R86). Marks:
DEDUCED (log 36). -/
def odoRead (e : Tick) (s : State) (k : Fin 4) : Int × Tick :=
  let lag := odoLag s k
  let sign (v : Int) (t : Tick) : Int := if speedAt s t < 0 then -v else v
  match odoType s k with
  | 1 => match idx? 4 (odoFld s k 8 8) with
    | some i =>
      let v := s.pif.enc[i]
      ((v.speed * 4096000).tdiv (odoScale s k), (if v.speed = 0 then e else v.taken.lastPm) - lag)
    | none => (0, e - lag)
  | 2 => match idx? 16 (odoFld s k 8 8) with
    | some i =>
      let v := s.pif.freq[i].taken
      let r := pulseRate e s.pos.odo[k].seen v (s.pos.odo[k].speed.natAbs * odoScale s k / 1000)
      let t := (if r = 0 then e else v.lastPm) - lag
      (sign (r * 1000 / odoScale s k : Nat) t, t)
    | none => (0, e - lag)
  | _ => let o := s.pos.odo[k]
         let t := o.lastPm - lag
         let v := (o.speed * 65536).tdiv (odoScale s k)
         (if o.signed then v else sign v t, t)

/-- The turn term ω·y of a source, 1 mm/s: y in mm, ω in 0.01 °/s (R86). -/
def turnTerm (s : State) (k : Fin 4) (yaw : Int) : Int := (sint 32 (odoFld s k 80 32) * yaw * 3141592654).tdiv 18000000000000

/-- Forward speed of the CRP as a source gives it, with its postmark (R86). -/
def odoForward (e : Tick) (s : State) (k : Fin 4) : Int × Tick :=
  let r := odoRead e s k
  (r.1 + turnTerm s k (poseAt s r.2).yawRate, r.2)

/-- The frequency input of a source, as taken at the freeze. -/
def odoSeen (s : State) (k : Fin 4) : Option (BitVec 32 × Tick) :=
  if odoType s k = 2 then (idx? 16 (odoFld s k 8 8)).map fun i => (s.pif.freq[i].taken.pulses, s.pif.freq[i].taken.lastPm) else none

/-- A factor that the filter knows to 0.1 % is stored after 200 m at FIX (R86). Marks: DEDUCED (log 36). -/
def calibrates (f : FilterSt) (k : Fin 4) (dist : Nat) : Bool := decide (200000000 ≤ dist) && decide (f.scaleSd[k] ≤ 100)

/-- One source at a 100 Hz update at edge `e` (R86, R87); `f` is the filter's state at the edge before. A source that
cannot be read is not slipping. Marks: DEDUCED (log 36). -/
def odoUpdate (e : Tick) (fix : Bool) (f : FilterSt) (k : Fin 4) (s : State) : State :=
  let o := s.pos.odo[k]
  let t := odoType s k
  if t = 0 ∨ (t ≥ 3 ∧ o.stale) ∨ odoScale s k = 0 then
    modOdo k (fun o => { o with slipSince := none, okSince := none, slipping := false, seen := odoSeen s k }) s
  else
    let r := odoForward e s k
    let fused := speedAt s r.2
    let slip := 100 * (r.1 - fused).natAbs > 30000 + 5 * fused.natAbs
    let since : Option Tick := if slip then some (o.slipSince.getD e) else none
    let okFrom : Option Tick := if slip then none else some (o.okSince.getD e)
    let slipping := match since, okFrom with
      | some a, _ => o.slipping || decide (a + 4000000 ≤ e)
      | none, some b => o.slipping && !decide (b + 80000000 ≤ e)
      | none, none => o.slipping
    let dist := o.dist + 10 * r.1.natAbs
    let cal := fix && calibrates f k dist
    let s1 := modOdo k (fun o => { o with slipSince := since, okSince := okFrom, slipping := slipping, seen := odoSeen s k,
                                          dist := if cal then 0 else dist, speed := if t ≤ 2 then (odoRead e s k).1 else o.speed }) s
    if cal then s1.onPd0 fun d => { d with odoScale := d.odoScale.set k f.scale[k], odoCal := d.odoCal.set k true } else s1

/-- A speed message for sources of a type: speed, whether its direction is valid, its source address and postmark. -/
def odoMessage (type : Nat) (v : Int) (signed : Bool) (sa : Nat) (at_ : Tick) (s : State) : State :=
  let only := s.act.fld .can 768 8
  (List.finRange 4).foldl (fun t k =>
    let o := t.pos.odo[k]
    let wanted := if only = 0xFF then o.stale || o.sa.isNone || o.sa == some sa else sa == only
    if odoType t k = type ∧ wanted then
      modOdo k (fun o => { o with stale := false, lastPm := at_, speed := v, signed := signed, sa := some sa }) t
    else t) s

/-- ODO_STALE: no message for 300 ms (R87). -/
def execOdoStale (k : Fin 4) (s : State) : Result :=
  let o := s.pos.odo[k]
  if odoType s k ≥ 3 ∧ !o.stale ∧ o.lastPm + 24000000 ≤ s.pm then .next (modOdo k (fun o => { o with stale := true, sa := none }) s)
  else .next s

/-- Every usable source reports zero speed (R88). Marks: DESIGN CHOICE (log 35). -/
def odoZero (e : Tick) (s : State) : Bool := (List.finRange 4).all fun k => !odoUsable s k || (odoRead e s k).1 == 0

def anyOdo (s : State) : Bool := (List.finRange 4).any (odoUsable s)

/-- ODO_STATE (R104). -/
def odoState (s : State) : Nat :=
  ((List.finRange 4).map fun k =>
    let o := s.pos.odo[k]
    let t := odoType s k
    let st := if t = 0 then 0 else if t ≥ 3 ∧ o.stale then 2 else if o.slipping then 3 else if odoUsable s k then 1 else 0
    (st + 4 * b2n s.pd0.odoCal[k]) <<< (4 * k.val)).sum

/-- The odometry in use: corrected speed of the first usable source (R70, R84). -/
def odoInUse (e : Tick) (s : State) : Option Int :=
  ((List.finRange 4).find? (odoUsable s)).map fun k => (odoForward e s k).1

/-! ### The filter (R83 to R86) -/

/-- The IMU increments as inputs: on carrier axes, or none with IMU_FAULT (R82, R83, R97). -/
def imuEvents (s : State) : List FilterEv :=
  let o := machN s 192 8
  s.pos.imu.map fun r =>
    { pm := r.pm, input := if r.ok then .imu (toCarrier o r.inc.ang) (toCarrier o r.inc.vel) else .coast }

/-- An input put in postmark order; those of one postmark by rank (R84). -/
def insertEv (a : FilterEv) : List FilterEv → List FilterEv
  | [] => [a]
  | b :: l => if a.pm < b.pm ∨ (a.pm = b.pm ∧ a.rank < b.rank) then a :: b :: l else b :: insertEv a l

/-- Inputs in postmark order. -/
def inOrder (l : List FilterEv) : List FilterEv := l.foldl (fun acc a => insertEv a acc) []

/-- Position and heading are held at standstill, and the error does not grow (R88, R101). Marks: DESIGN CHOICE (log
35). -/
def holdState (old f : FilterSt) : FilterSt :=
  { f with lat := old.lat, lon := old.lon, h := old.h, heading := old.heading
           varE := min old.varE f.varE, varN := min old.varN f.varN }

/-- One input applied: what R88 and R92 set is set, every other input is the filter's. Marks: DESIGN CHOICE (log 35).
-/
def applyInput (c : Carrier) (f : FilterSt) : FilterIn → FilterSt
  | .heading h sd => { f with heading := h.getD f.heading, headSd := sd }
  | .hold old => holdState old f
  | i => Config.filter c f i

/-- The filter's state after the inputs of `(t0, t]`, in order. -/
def advanceFilter (c : Carrier) (evs : List FilterEv) (f : FilterSt) (t0 t : Tick) : FilterSt :=
  ((inOrder evs).filter fun a => decide (t0 < a.pm) && decide (a.pm ≤ t)).foldl (fun f a => applyInput c f a.input) f

/-- The newest kept state before a postmark, else the oldest kept; that of reset where none is (R85). -/
def keptBefore (s : State) (t : Tick) : Tick × FilterSt :=
  ((s.pos.kept.find? fun k => k.1 < t).or s.pos.kept.getLast?).getD (0, {})

/-- The states at edges, given in order, from a state at `t0`: newest first. -/
def replay (c : Carrier) (evs : List FilterEv) : Tick × FilterSt → List Tick → List (Tick × FilterSt)
  | _, [] => []
  | b, e :: l =>
    let f := advanceFilter c evs b.2 b.1 e
    replay c evs (e, f) l ++ [(e, f)]

/-- New inputs reach the filter at edge `e`: back to the kept state before the earliest of them, and propagated again
from there (R84, R85). The states kept afterwards, newest first. Marks: DESIGN CHOICE (log 35). -/
def runFilter (e : Tick) (new : List FilterEv) (s : State) : List (Tick × FilterSt) :=
  let evs := imuEvents s ++ s.pos.inputs ++ new
  let from_ := new.foldl (fun t a => min t a.pm) (((s.pos.kept.head?.map (·.1)).getD 0) + 1)
  let base := keptBefore s from_
  let older := s.pos.kept.filter fun k => decide (k.1 ≤ base.1)
  let edges := ((s.pos.kept.filter fun k => decide (base.1 < k.1)).map (·.1)).reverse ++ [e]
  (replay (carrierOf s) evs base edges ++ older).take 16

/-- The state the inputs so far give at a postmark (R93). -/
def stateAt (s : State) (t : Tick) : FilterSt :=
  let b := keptBefore s t
  advanceFilter (carrierOf s) (imuEvents s ++ s.pos.inputs) b.2 b.1 t

/-- An update referred to a postmark older than the kept states is applied at the oldest of them (R84, R85). Marks:
DESIGN CHOICE (log 35). -/
def clampPm (s : State) (t : Tick) : Tick := max t ((s.pos.kept.getLast?.map (·.1 + 1)).getD 0)

/-! ### Integer ambiguities (R89, R90, R96) -/

/-- AMBIGUITY_CANDIDATE: the pair returns a set whose ratio is at least FIX_RATIO; it is applied at the next edge. -/
def execAmbiguityCandidate (sats : BitVec 32) (ints : List Int) (ratio : Nat) (s : State) : Result :=
  if ratio ≥ fixRatio s ∧ !s.restarting .pair then .next (s.onPos fun p => { p with candNew := some (sats, ints) }) else .next s

/-- How many bits are set. -/
def popCount (w : BitVec 32) : Nat := ((List.range 32).filter w.getLsbD).length

/-- The PRNs of the epoch's satellites that meet a test. -/
def prnMask (l : List MSat) (p : MSat → Bool) : BitVec 32 := BitVec.ofNat 32 (bitWord 32 fun k => l.any fun x => x.prn == k && p x)

/-- What POS learns from an epoch taken at a freeze. -/
structure EpochView where
  taken : Bool := false
  late : Bool := false
  pm : Tick := 0
  innovationOk : Bool := true
  accepted : Bool := false
  used : Nat := 0
  common : Nat := 0
  slips : BitVec 32 := 0
deriving DecidableEq, Repr, Inhabited

/-- The epoch was taken and not discarded (R85). -/
def EpochView.fresh (v : EpochView) : Bool := v.taken && !v.late

/-- The 1004 messages of the base epoch paired with the record. -/
def baseMsgs (s : State) : List (List Byte) :=
  match s.gnss.paired with
  | some b => b.msgs
  | none => []

/-- The record complete before edge `e`, where one waits (R67, R85, R93, R94). -/
def epochView (e : Tick) (s : State) : EpochView :=
  match s.gnss.recAt with
  | some c =>
    if c < e then
      let used := (s.gnss.sats.filter fun x => x.code && !x.excluded).length
      let late := decide (s.gnss.epochPm + 640000 < e)
      let ok := Config.innovationOk (carrierOf s) (stateAt s s.gnss.epochPm) s.gnss.record
      { taken := true, late := late, pm := s.gnss.epochPm, used := used, innovationOk := ok, accepted := !late && ok && decide (1 ≤ used)
        common := match s.gnss.paired with
          | some b => (s.gnss.sats.filter fun x => x.phase && !x.excluded && b.prns.contains x.prn).length
          | none => 0
        slips := prnMask s.gnss.sats (·.slip) }
    else {}
  | none => {}

/-- The satellites of a set whose phase residual of the epoch, with these integers, lies beyond 0.25 cycle (R89, R96). -/
def badPhase (s : State) (sats : BitVec 32) (ints : List Int) : BitVec 32 :=
  let f := stateAt s s.gnss.epochPm
  BitVec.ofNat 32 (bitWord 32 fun k => sats.getLsbD k &&
    decide (64 < (Config.phaseResidual (carrierOf s) f s.gnss.record (baseMsgs s) ints k).natAbs))

/-- The candidate after an epoch, and the set it confirms (R89, R93); one with a residual beyond 0.25 cycle is
discarded. Marks: DEDUCED (log 36), DESIGN CHOICE (log 89). -/
def candAfter (s : State) (v : EpochView) : Option (BitVec 32 × List Int × Nat) → Option (BitVec 32 × List Int × Nat) × Option (BitVec 32 × List Int)
  | none => (none, none)
  | some (w, z, n) =>
    if w &&& v.slips ≠ 0 then (some (w, z, 0), none)
    else if !v.accepted then (some (w, z, n), none)
    else if badPhase s w z ≠ 0 then (none, none)
    else if n + 1 ≥ fixConfirm s then (if s.gnss.anom = 0 then (none, some (w, z)) else (some (w, z, n), none))
    else (some (w, z, n + 1), none)

/-- The candidate under confirmation as a new one comes in: the same set goes on, another takes its place and counts
afresh (R89). Marks: DESIGN CHOICE (log 89). -/
def candWith (new : Option (BitVec 32 × List Int)) (old : Option (BitVec 32 × List Int × Nat)) : Option (BitVec 32 × List Int × Nat) :=
  match new, old with
  | none, o => o
  | some a, some b => if a.1 = b.1 ∧ a.2 = b.2.1 then some b else some (a.1, a.2, 0)
  | some a, none => some (a.1, a.2, 0)

/-- The ambiguities at the freeze of edge `e`: base change, pair restart, candidate, slips and WRONG_FIX. The second
component is the set confirmed, the third says that the set in use was discarded. Marks: DESIGN CHOICE (log 89). -/
def ambiguities (e : Tick) (v : EpochView) (s : State) : State × Option (BitVec 32 × List Int) × Bool :=
  let p := s.pos
  let fresh := s.gnss.baseChanged
  let drop := fresh || s.restarting .pair
  let cand0 := if drop then none else candWith p.candNew p.cand
  let fixed0 := if fresh then 0 else if v.fresh then p.fixed &&& ~~~v.slips else p.fixed
  let bad := if v.fresh then badPhase s fixed0 p.ints else p.badPrev
  let wrong := v.fresh && p.pose.quality == .fix && (bad &&& p.badPrev != 0 || (fixed0 != 0
    && !Config.phaseOk (carrierOf s) (stateAt s s.gnss.epochPm) s.gnss.record (baseMsgs s) fixed0))
  let c := if v.fresh then candAfter s v cand0 else (cand0, none)
  let s1 := (s.onGnss fun g => { g with baseChanged := false }).onPos fun q => { q with
    cand := c.1, candNew := none, fixed := if wrong then 0 else fixed0, badPrev := if wrong then 0 else bad
    wrongFixUntil := if wrong then e + 800000000 else q.wrongFixUntil }
  (s1, c.2, fresh || wrong)

/-! ### Quality (R91 to R97) -/

def qLe (a b : Quality) : Bool := qualityCode a ≤ qualityCode b
def qMin (a b : Quality) : Quality := if qLe a b then a else b

/-- The downward transitions whose condition holds, as the levels they lead to (R94, R97). -/
def qDown (e : Tick) (s : State) (q : Quality) (v : EpochView) (aligned imuBad discarded : Bool) (hErr : Nat) : List Quality :=
  let p := s.pos
  let out := match p.lastAcc with
    | some a => decide (a + 20000000 ≤ e)
    | none => true
  let gone := match p.lastAcc with
    | some a => decide (a + drTimeLimit s ≤ e)
    | none => true
  let noOdo := match p.noOdoSince with
    | some a => decide (a + imuOnlyLimit s ≤ e)
    | none => false
  let gnssGrade := q == .fix || q == .float || q == .solo
  let rtk := q == .fix || q == .float
  (if q != .lost && !aligned then [.lost] else [])
  ++ (if q == .dr && (gone || hErr ≥ drErrLimit s || noOdo || imuBad) then [.lost] else [])
  ++ (if gnssGrade && out then [if imuBad then .lost else .dr] else [])
  ++ (if rtk && (imuBad || (v.fresh && (s.gnss.paired.isNone || s.gnss.rtkRange || v.common < 5))) then [.solo] else [])
  ++ (if q == .fix && (popCount p.fixed < 5 || discarded) then [.float] else [])

/-- The level an upward transition leads to (R94). -/
def qUp (s : State) (q : Quality) (v : EpochView) (aligned imuBad : Bool) (confirmed : Option (BitVec 32 × List Int)) : Quality :=
  let floatOk := v.accepted && s.gnss.paired.isSome && v.common ≥ 5 && !s.gnss.rtkRange && !imuBad
  match q with
  | .dr | .lost => if aligned && v.accepted && s.pos.accRun ≥ 2 then (if floatOk then .float else .solo) else q
  | .solo => if floatOk then .float else .solo
  | .float => match confirmed with
    | some w => if popCount w.1 ≥ 5 ∧ !imuBad then .fix else .float
    | none => .float
  | .fix => .fix

/-! ### The pose record (R102, R104) -/

/-- SIDE_SLIP: lateral velocity above 0.5 m/s for 100 ms (R102). -/
def sideSlip (e : Tick) (s : State) : Bool :=
  match s.pos.sideSince with
  | some a => decide (a + 8000000 ≤ e)
  | none => false

/-- INTEGRITY (R102). -/
def integrity (e : Tick) (bad sat : Bool) (hErr : Nat) (s : State) (q : Quality) (late : Bool) : Nat :=
  let p := s.pos
  let alert := match q with
    | .fix => s.act.fld .pos 192 16
    | .float => s.act.fld .pos 208 16
    | .solo => s.act.fld .pos 224 16
    | _ => drErrLimit s
  bitWord 12 fun b => match b with
    | 0 => p.rejected | 1 => e < p.wrongFixUntil | 2 => vany p.odo fun o => o.slipping | 3 => !anyOdo s
    | 4 => bad | 5 => sat | 6 => sideSlip e s | 7 => p.corrStale | 8 => p.rtkRange | 9 => p.anomaly
    | 10 => hErr > alert && q != .lost | _ => late

/-- The 96 bytes of a pose record (R104). Marks: DEDUCED (log 34), DESIGN CHOICE (log 92). -/
def Pose.bytes (p : Pose) : List Byte :=
  let x := p.est
  leBytes 8 p.pm ++ leBytes 4 (frameNo p.pm)
  ++ leBytes 4 (qualityCode p.quality ||| b2n p.aligned <<< 3 ||| b2n p.step <<< 4 ||| b2n p.stationary <<< 5
      ||| b2n p.headingRestored <<< 6 ||| b2n p.imuOnly <<< 7 ||| satU 8 p.satsUsed <<< 8 ||| satU 8 p.fixedAmb <<< 16)
  ++ leBytes 2 p.integrity.toNat ++ leBytes 2 p.drTime
  ++ leBytes 4 (uint 32 x.east) ++ leBytes 4 (uint 32 x.north) ++ leBytes 4 (uint 32 x.up)
  ++ leBytes 2 (uint 16 x.velE) ++ leBytes 2 (uint 16 x.velN) ++ leBytes 2 (uint 16 x.velU) ++ leBytes 2 (uint 16 x.speed)
  ++ leBytes 2 (uint 16 x.roll) ++ leBytes 2 (uint 16 x.pitch) ++ leBytes 2 (uint 16 x.heading) ++ leBytes 2 (uint 16 x.yawRate)
  ++ leBytes 2 (satU 16 x.hErr) ++ leBytes 2 (satU 16 x.vErr) ++ leBytes 2 (satU 16 x.headingErr)
  ++ leBytes 2 p.corrAge ++ leBytes 2 p.odoState.toNat ++ leBytes 2 (satU 16 p.stepMm) ++ leBytes 4 0
  ++ leBytes 8 (uint 64 x.lat) ++ leBytes 8 (uint 64 x.lon) ++ leBytes 4 (uint 32 x.height) ++ List.replicate 12 0

/-- POS_GET. Marks: DEDUCED (log 34). -/
def opPosGet (_e : Env) (s : State) : State × Answer := doneWith s.pos.pose.bytes s

/-! ### The origin (R80, R81) -/

/-- The ORIGIN fields and ORIGIN_SET in both copies of PB.POS. -/
def putOrigin (o : Origin) (p : Params) : Params :=
  (((p.put .pos 64 32 (uint 32 o.lat)).put .pos 96 32 (uint 32 o.lon)).put .pos 128 32 (uint 32 o.h)).put .pos 160 1 1

/-- A new origin from edge `e`, with its notice; a change by the host queues ORIGIN_STALE. One set automatically
leaves in the shadow an origin the host has written and not committed (R80, R81, R175). Marks: DEDUCED (log 37). -/
def setOrigin (o : Origin) (auto : Bool) (e : Tick) (s : State) : State :=
  let s0 := changeOrigin o ((s.onAct (putOrigin o)).onShd fun p => if auto && !p.flag .pos 160 then putOrigin o p else p.put .pos 160 1 1)
  let s1 := if auto then s0 else notice .map 0x0C 0xFFFF [] s0
  noticeAt .pos 0x02 0xFFFF e (leBytes 4 (uint 32 o.lat) ++ leBytes 4 (uint 32 o.lon) ++ leBytes 4 (uint 32 o.h) ++ leBytes 4 (b2n auto)) s1

/-- 10⁻¹³° to 10⁻⁷°, rounded to the nearest 10⁻⁵°. -/
def originCoord (v : Int) : Int := 100 * roundDiv v 100000000

/-- The first position at SOLO or better sets an origin that is not set (R80). Marks: DEDUCED (log 37). -/
def autoOrigin (e : Tick) (q : Quality) (f : FilterSt) (s : State) : State :=
  if s.pos.origin.isNone ∧ qLe .solo q then setOrigin { lat := originCoord f.lat, lon := originCoord f.lon, h := 0 } true e s else s

/-! ### From the filter to the pose (R79, R80, R86, R101, R104) -/

/-- Sine and cosine of an angle in 2⁻³² turn, weight 2⁻⁸⁰. -/
def sin32 (a : Int) : Int := sinW (a * 4294967296)
def cos32 (a : Int) : Int := cosW (a * 4294967296)

/-- Velocity along carrier x, forward, and y, to the right, 2⁻¹⁶ mm/s (R79). -/
def forwardOf (f : FilterSt) : Int :=
  mulW (mulW f.vel.1 (sin32 f.heading) + mulW f.vel.2.1 (cos32 f.heading)) (cos32 f.pitch) + mulW f.vel.2.2 (sin32 f.pitch)
def lateralOf (f : FilterSt) : Int :=
  let along := mulW f.vel.1 (sin32 f.heading) + mulW f.vel.2.1 (cos32 f.heading)
  let across := mulW f.vel.1 (cos32 f.heading) - mulW f.vel.2.1 (sin32 f.heading)
  mulW across (cos32 f.roll) + mulW (mulW along (sin32 f.pitch)) (sin32 f.roll) - mulW (mulW f.vel.2.2 (cos32 f.pitch)) (sin32 f.roll)

/-- Twice the root of the sum of the east and north variances (R101). -/
def hErrOf (f : FilterSt) : Nat := isqrt (4 * (f.varE + f.varN))
/-- 2σ error of the heading, 0.001° (R91). -/
def headErrOf (f : FilterSt) : Nat := 2 * f.headSd

/-- The pose of a filter state in the plane of an origin (R80, R86). -/
def poseOf (o : Origin) (f : FilterSt) : PoseEst :=
  let p := localOf o.lat o.lon o.h (f.lat, f.lon, f.h)
  { east := roundDiv p.1 65536, north := roundDiv p.2.1 65536, up := roundDiv p.2.2 65536
    velE := roundDiv f.vel.1 65536, velN := roundDiv f.vel.2.1 65536, velU := roundDiv f.vel.2.2 65536
    speed := roundDiv (forwardOf f) 65536, lateral := roundDiv (lateralOf f) 65536
    roll := roundDiv f.roll 65536, pitch := roundDiv f.pitch 65536, heading := roundDiv f.heading 65536
    yawRate := roundDiv (f.yaw * 36000) 4294967296
    hErr := hErrOf f, vErr := isqrt (4 * f.varU), headingErr := headErrOf f
    lat := roundDiv f.lat 1000, lon := roundDiv f.lon 1000, height := roundDiv f.h 65536
    fine := { e := p.1, n := p.2.1, heading := f.heading, roll := f.roll, pitch := f.pitch, speed := forwardOf f, accel := f.accel, yaw := f.yaw } }

/-- Horizontal distance in 1 mm from a position to another, both as latitude and longitude in 10⁻¹³ ° (R92, R98).
Marks: DESIGN CHOICE (log 35). -/
def levelDist (lat lon : Int) (f : FilterSt) : Nat :=
  let d := enuTurn f.lat f.lon (ecefDiff (ecefOf lat lon f.h) (ecefOf f.lat f.lon f.h))
  isqrt (d.1 * d.1 + d.2.1 * d.2.1).toNat / 65536

/-! ### The frame (R84 to R102) -/

/-- Since when a condition has held, at edge `e`. -/
def sinceIf (c : Bool) (e : Tick) (o : Option Tick) : Option Tick := if c then some (o.getD e) else none

/-- What the epoch leaves in POS (R93, R102). -/
def takeEpoch (v : EpochView) (s : State) : State :=
  if !v.taken then s
  else
    let s0 := s.onGnss fun g => { g with recAt := none }
    if v.late then s0
    else s0.onPos fun p =>
      let next := match p.lastAcc with
        | some a => decide (v.pm < a + 12000000)
        | none => false
      { p with
        rejected := !v.innovationOk, corrStale := s.gnss.paired.isNone, rtkRange := s.gnss.rtkRange, anomaly := s.gnss.anom != 0
        accRun := if v.accepted ∧ v.used ≥ 4 then (if next then p.accRun + 1 else 1) else 0
        lastAcc := if v.accepted then some v.pm else p.lastAcc }

/-- The IMU increments of the frame of edge `e` are taken; FE at a restart keeps them too (R83, R425). -/
def takeImu (e : Tick) (f : Freeze) (s : State) : State := s.onPos fun p => { p with imu := imuNow e f p.imu }

/-- A 100 Hz update falls on this edge (R84). -/
def tenthFrame (e : Tick) : Bool := e / 40000 % 20 == 0

/-- The odometry sources at a 100 Hz update (R84, R87). -/
def odoAll (e : Tick) (s : State) : State :=
  if tenthFrame e then
    let f := (keptBefore s e).2
    let s1 := (List.finRange 4).foldl (fun t k => odoUpdate e (s.pos.pose.quality == .fix) f k t) s
    s1.onPos fun p => { p with odoSpeed := odoInUse e s1 }
  else s

/-- Standstill at edge `e`: the odometry and the IMU (R88). -/
def standstill (e : Tick) (s : State) : State :=
  let still := odoZero e s
  let s1 := s.onPos fun p => { p with stillSince := sinceIf still e p.stillSince, noOdoSince := sinceIf (!anyOdo s) e p.noOdoSince }
  s1

/-- STATIONARY (R88). -/
def stationaryAt (e : Tick) (s : State) : Bool :=
  imuStill s.pos.imu && (match s.pos.stillSince with
    | some t => decide (t + 40000000 ≤ e)
    | none => false)

/-- Horizontal speed, 1 mm/s, whatever the heading. Marks: DESIGN CHOICE (log 35). -/
def groundSpeed (e n : Int) : Nat := isqrt (e * e + n * n).toNat

/-- A distance driven in a line, 0.5 µm: at 0.5 m/s or more and 2 °/s or less, at SOLO grade (R91). -/
def lineStep (solo : Bool) (p : PoseEst) (d : Nat) : Nat :=
  let v := groundSpeed p.velE p.velN
  if solo ∧ 500 ≤ v ∧ p.yawRate.natAbs ≤ 200 then d + v else 0

/-- GNSS of SOLO grade: epochs in a row accepted with four satellites (R91, R94). -/
def soloGrade (s : State) : Bool := s.pos.accRun ≥ 2

/-- The inputs beside the IMU that reach the filter at edge `e`, with their postmarks and ranks (R84): the epoch where
it is accepted, odometry and constraints at 100 Hz, the course of a line driven, ambiguities released, a set
confirmed. Marks: DESIGN CHOICE (log 35). -/
def newInputs (e : Tick) (v : EpochView) (confirmed : Option (BitVec 32 × List Int)) (released : BitVec 32) (still : Bool) (s : State) : List FilterEv :=
  let ev : List FilterEv := if v.accepted then [{ pm := clampPm s v.pm, rank := 1, input := .epoch s.gnss.record (baseMsgs s) }] else []
  let odo : List FilterEv := if tenthFrame e then ((List.finRange 4).filter (odoUsable s)).map fun k =>
      { pm := min e (clampPm s (odoRead e s k).2), rank := 2,
        input := .odo k (odoRead e s k).1 (odoScale s k) (sint 32 (odoFld s k 48 32)) (sint 32 (odoFld s k 80 32)) (odoFld s k 128 8) } else []
  let nhc : List FilterEv := if tenthFrame e ∧ nhcEnable s ∧ 500 ≤ s.pos.pose.est.speed.natAbs ∧ !sideSlip e s then [{ pm := e, rank := 3, input := .nhc }] else []
  let zupt : List FilterEv := if tenthFrame e ∧ still ∧ zuptEnable s then [{ pm := e, rank := 4, input := .zupt }] else []
  let rest : List FilterEv := if tenthFrame e ∧ still then [{ pm := e, rank := 5, input := .still }] else []
  let line : List FilterEv := if s.pos.lineDist ≥ 20000000 ∧ !s.pos.pose.aligned then [{ pm := e, rank := 6, input := .align }] else []
  let free : List FilterEv := if released = 0 then [] else [{ pm := e, rank := 0, input := .release released }]
  let fix : List FilterEv := match confirmed with
    | some w => [{ pm := e, rank := 7, input := .fix w.1 w.2 }]
    | none => []
  free ++ ev ++ odo ++ nhc ++ zupt ++ rest ++ line ++ fix

/-- The state at the newest edge is replaced. -/
def setNewest (f : FilterSt) : List (Tick × FilterSt) → List (Tick × FilterSt)
  | [] => []
  | k :: l => (k.1, f) :: l

/-- The newest state. -/
def newestState (l : List (Tick × FilterSt)) : FilterSt := (l.head?.map (·.2)).getD {}

/-- Horizontal correction of the epoch in the state at edge `e`, 1 mm: against the same inputs without it (R98). -/
def correctionOf (e : Tick) (v : EpochView) (new : List FilterEv) (f : FilterSt) (s : State) : Nat :=
  if v.accepted then
    let g := newestState (runFilter e (new.filter fun a => a.rank != 1) s)
    levelDist g.lat g.lon f
  else 0

/-- The heading restore and its check (R92): what is to be set of the heading, and the state. The stored heading with
a 2σ error of 0.5° at the first SOLO position within 1.0 m of the stored one; after 10 m a course more than 3.0° off
ends the alignment. Marks: DESIGN CHOICE (log 35). -/
def headingRestore (f : FilterSt) (s : State) : List FilterIn × State :=
  let p := s.pos
  let v := (roundDiv f.vel.1 65536, roundDiv f.vel.2.1 65536)
  if !p.restoreTried ∧ soloGrade s then
    match s.pd0.pose with
    | some x =>
      if headingRestoreEn s ∧ levelDist (1000 * x.est.lat) (1000 * x.est.lon) f ≤ 1000 then
        ([.heading (some x.est.fine.heading) 250], s.onPos fun p => { p with restoreTried := true, restored := true, restoredDist := 0 })
      else ([], s.onPos fun p => { p with restoreTried := true })
    | none => ([], s.onPos fun p => { p with restoreTried := true })
  else if p.restored then
    let d := p.restoredDist + groundSpeed v.1 v.2
    if d < 20000000 then ([], s.onPos fun p => { p with restoredDist := d })
    else
      let along := mulW f.vel.1 (sin32 f.heading) + mulW f.vel.2.1 (cos32 f.heading)
      let across := mulW f.vel.1 (cos32 f.heading) - mulW f.vel.2.1 (sin32 f.heading)
      let s1 := s.onPos fun p => { p with restored := false, restoredDist := d }
      if 1000000000 * across.natAbs > 52407779 * along.natAbs then ([.heading none 180000], s1.onPos fun p => { p with lineDist := 0 }) else ([], s1)
  else ([], s)

/-- The fault of cause 0x21 follows IMU_FAULT, WRONG_FIX, PL_EXCEEDED and LOST (R426, R434). Marks: DEDUCED (log 36).
-/
def positionFault (bad : Bool) (s : State) : State :=
  if bad && !s.pos.faulty then logFault 0x21 .pos 0xFFFF reactReport 0 0x01 (s.onPos fun p => { p with faulty := true })
  else if !bad && s.pos.faulty then endFault 0x21 0xFFFF (s.onPos fun p => { p with faulty := false })
  else s

/-- ALIGNED of this frame: set at a 2σ error of 1.0°, cleared above 3.0° (R91). -/
def alignedNow (f : FilterSt) (s : State) : Bool :=
  if headErrOf f > 3000 then false else s.pos.pose.aligned || decide (headErrOf f ≤ 1000)

/-- What the filter has made of a frame: the epoch it took, the set confirmed, whether the set in use was discarded, the
correction of the epoch, STATIONARY. -/
structure Fused where
  view : EpochView := {}
  confirmed : Option (BitVec 32 × List Int) := none
  discarded : Bool := false
  correction : Nat := 0
  stationary : Bool := false

/-- The filter at the freeze of edge `e`: the inputs of the frame, in order, and the states kept (R83 to R88, R92). A correction
above 20 mm is applied at standstill too (R98). -/
def fuse (e : Tick) (s : State) : State × Fused :=
  let v := epochView e s
  let a := ambiguities e v (takeEpoch v s)
  let s1 := standstill e (odoAll e a.1)
  let still := stationaryAt e s1
  let s2 := s1.onPos fun p => { p with lineDist := lineStep (soloGrade s1) p.pose.est p.lineDist }
  let new := newInputs e v a.2.1 (s.pos.fixed &&& ~~~a.1.pos.fixed) still s2
  let run := runFilter e new s2
  let corr := correctionOf e v new (newestState run) s2
  let held : List FilterIn := if still && s2.pos.pose.stationary && decide (corr ≤ 20) then [.hold (newestState s2.pos.kept)] else []
  let f0 := held.foldl (applyInput (carrierOf s2)) (newestState run)
  let r := headingRestore f0 s2
  let f := r.1.foldl (applyInput (carrierOf s2)) f0
  let set : List FilterEv := (held ++ r.1).map fun i => { pm := e, rank := 8, input := i }
  let s3 := r.2.onPos fun p => { p with
    kept := setNewest f run, inputs := (set ++ new ++ p.inputs).filter fun x => decide (e < x.pm + 640000)
    sideSince := sinceIf (decide ((roundDiv (lateralOf f) 65536).natAbs > 500)) e p.sideSince }
  (s3, { view := v, confirmed := a.2.1, discarded := a.2.2, correction := corr, stationary := still })

/-- POS at the freeze of edge `e`. Marks: DESIGN CHOICE (log 35). -/
def posFreeze (e : Tick) (fz0 : Freeze) (s0 : State) : State :=
  let fz := { fz0 with imuFail := fz0.imuFail || s0.pos.selfFail }
  let s := takeImu e fz s0
  if s.restarting .field then s
  else
    let old := s.pos.pose
    let bad := imuFault fz.imuFail s.pos.imu
    let r := fuse e s
    let s4 := r.1
    let u := r.2
    let v := u.view
    let f := newestState s4.pos.kept
    let aligned := alignedNow f s4
    let down := qDown e s4 old.quality v aligned bad u.discarded (hErrOf f)
    let q := match down with
      | [] => qUp s4 old.quality v aligned bad u.confirmed
      | x :: l => l.foldl qMin x
    let fixedNow : BitVec 32 × List Int := if q = .fix then u.confirmed.getD (s4.pos.fixed, s4.pos.ints)
      else if q = .float then (s4.pos.fixed, s4.pos.ints) else (0, [])
    let word := integrity e bad (fz.imu0.sat || fz.imu1.sat) (hErrOf f) s4 q v.late
    let dr := match s4.pos.lastAcc with
      | some t => if q = .dr then satU 16 ((e - t) / 800000) else 0
      | none => 0
    let step := v.accepted && u.correction > 20
    let s5 := autoOrigin e q f s4
    let pose : Pose :=
      { pm := e, quality := q, aligned := aligned, step := step, stationary := u.stationary, headingRestored := s5.pos.restored,
        imuOnly := !anyOdo s5, satsUsed := if v.accepted then v.used else old.satsUsed, fixedAmb := popCount fixedNow.1,
        integrity := BitVec.ofNat 16 word, drTime := dr, est := poseOf (originOf s5) f, corrAge := s5.gnss.corrAge,
        odoState := BitVec.ofNat 16 (odoState s5), stepMm := if step then u.correction else 0,
        angles := vmap s5.impl.body (·.angle) }
    let lost := s4.pos.fixed &&& ~~~fixedNow.1
    let freed : List FilterEv := if lost = 0 then [] else [{ pm := e + 1, rank := 0, input := .release lost }]
    let s6 := s5.onPos fun p => { p with pose := pose, fixed := fixedNow.1, ints := fixedNow.2, trail := (pose :: p.trail).take 512,
                                                  inputs := freed ++ p.inputs }
    let s7 := if q ≠ old.quality then
        writeLog (logRecord 0x04 0 (qualityCode old.quality ||| qualityCode q <<< 3) e (word ||| satU 16 (hErrOf f) <<< 16))
          (noticeNow .pos 0x01 0xFFFF e (leBytes 2 (qualityCode old.quality ||| qualityCode q <<< 3) ++ leBytes 2 word
            ++ leBytes 2 (satU 16 (hErrOf f)) ++ leBytes 2 0) s6)
      else s6
    let s8 := if step then noticeAt .pos 0x03 0xFFFF e (leBytes 2 (satU 16 u.correction) ++ leBytes 2 (qualityCode q)) s7 else s7
    positionFault (bad || bitN word 1 || bitN word 10 || q == .lost) s8

end Sys2Proof.Machine
end

