-- ==== Sys2Proof/Machine/FieldEngine.lean ====
section
/-! DEFINITION. FE's frame: DIRECTED records, the decision phase, the batch the lanes commit, prefetch, phases (06). -/

namespace Sys2Proof.Machine

/-! ### DIRECTED records (R144, R145, R390) -/

/-- A DIRECTED record of 16 bytes. -/
def readDirected (r : List Byte) : Directed :=
  { ground := recN r 0 64, section_ := recN r 64 8, on := recN r 72 1 == 1,
    rate := if recN r 73 1 = 1 then some (recN r 80 16) else none }

/-- Records merged in order of GROUND_PM; one of the same section and postmark is replaced. -/
def mergeDirected (l : List Directed) (r : Directed) : List Directed :=
  insertBy Directed.ground r (l.filter fun x => !(x.ground == r.ground && x.section_ == r.section_))

/-- Is a DIRECTED record refused, with what status (R144, R375)? -/
def directedBad (s : State) (arrival : Tick) (held : List Directed) (b : List Byte) : Option Status :=
  let r := readDirected b
  firstBad [
    (recN b 74 6 != 0 || recN b 96 32 != 0, .badParam),
    (r.section_ ≥ 32, .range),
    (r.ground > arrival + 800000000, .range),
    ((mergeDirected (held.foldl mergeDirected (s.fe.directed.filter fun x => !bitN s.fe.clearMask x.section_)) r).length > 64, .busy)]

/-- All the records of a request, or the index and status of the first refused. -/
def takeDirected (s : State) (arrival : Tick) : Nat → List (List Byte) → List Directed → Except (Nat × Status) (List Directed)
  | _, [], acc => .ok acc
  | k, b :: bs, acc =>
    match directedBad s arrival acc b with
    | some st => .error (k, st)
    | none => takeDirected s arrival (k + 1) bs (acc ++ [readDirected b])

/-- FE_DIRECTED. -/
def opFeDirected (e : Env) (s : State) : State × Answer :=
  if feMode s ≠ 1 then (s, { status := .state, data := [0xFF] })
  else match takeDirected s e.firstPm 0 (entries e 0 16) s.fe.waiting with
    | .error (k, st) => (s, { status := st, data := leBytes 1 k })
    | .ok l => (s.onFe fun f => { f with waiting := l }, { data := [0xFF] })

/-- FE_DIRECTED_CLEAR: what is not taken yet is dropped now, what is held at the next freeze. -/
def opFeDirectedClear (e : Env) (s : State) : State × Answer :=
  let w := arg e 0 32
  let hit (r : Directed) : Bool := bitN w r.section_
  let held := s.fe.directed.filter fun r => hit r && !bitN s.fe.clearMask r.section_
  let n := held.length + (s.fe.waiting.filter hit).length
  doneWith (leBytes 1 n) (s.onFe fun f => { f with waiting := f.waiting.filter fun r => !hit r, clearMask := f.clearMask ||| w })

/-- DIRECTED at the freeze: pending clears, then the records that arrived (R35, R145). Marks: DESIGN CHOICE (log 10).
-/
def directedFreeze (s : State) : State :=
  s.onFe fun f => { f with
    directed := f.waiting.foldl mergeDirected (f.directed.filter fun r => !bitN f.clearMask r.section_)
    waiting := [], clearMask := 0 }

/-- Every section's DIRECTED state goes off (R145). -/
def directedOff (s : State) : State :=
  s.onFe fun f => { f with
    secOn := Vector.replicate 32 false, secGround := Vector.replicate 32 none, secRate := Vector.replicate 32 none
    ctx := vmap f.ctx fun x => { x with acted := none } }

/-! ### Scheduled states (R127, R146, R149) -/

/-- What the edge of the latest due postmark says; of those due together, the last. -/
def latestEdge (l : List (Tick × Bool)) : Option Bool :=
  (l.foldl (fun (a : Option (Tick × Bool)) x => match a with
    | some m => if m.1 ≤ x.1 then some x else a
    | none => some x) none).map (·.2)

/-- A context's scheduled state as VDR, its queue and the row messages show it. -/
def schedOf (s : State) (k : Fin 160) : Bool :=
  match idx? 96 k.val with
  | some c =>
    match (s.vdr.bank[bankOf c].queue.filter fun ev => ev.ctx == c.val).getLast? with
    | some ev => ev.on
    | none => s.pwu.noz[c].running || s.vdr.ch[c].st == .pending || s.vdr.ch[c].st == .hold || (s.vdr.ch[c].st == .pullIn && !s.vdr.ch[c].held)
  | none =>
    match latestEdge ((s.can.rowEvents.filterMap fun r => if r.ctx = k.val then some (r.due, r.on) else none)
        ++ s.fe.rowEvents.filterMap fun r => if r.ctx = k.val then some (r.due, r.on) else none) with
    | some on => on
    | none => match s.impl.active with
      | some i => match idx? 32 (i.ctxN k.val 18 5) with
        | some n => s.can.node[n].rowOn.getLsbD (i.ctxN k.val 188 4)
        | none => false
      | none => false

/-- FE starts deciding afresh at edge `e`: scheduled states from the outputs, every test having reached both levels
(R130, R146, R149). Marks: DEDUCED (log 45), DEDUCED (log 46), DESIGN CHOICE (log 83). -/
def feStart (s : State) : State :=
  s.onFe fun f => { f with
    ctx := vmapIdx f.ctx fun k x => { x with sched := schedOf s k, cov := {}, bnd := {}, exc := {}, lastEval := none, conds := 0, wants := none } }

/-! ### The decision phase (R133) -/

/-- FE decides in ARMED, and in a COAST left from it while FE itself runs (R24, R148, R425). Marks: DEDUCED (log 45).
-/
def feDecides (s : State) : Bool :=
  (s.sys.dev == .armed || (s.sys.dev == .coast && s.sys.coastFromArmed)) && !s.restarting .field

/-- FE runs: it projects and paints. -/
def feRuns (s : State) : Bool :=
  (s.sys.dev == .standby || s.sys.dev == .armed || s.sys.dev == .manual || s.sys.dev == .coast || s.sys.dev == .safe)
    && !s.restarting .field

/-- The lanes work on the frame of edge `e`: FE has run since its freeze (R13, R15). -/
def feWorks (s : State) (e : Tick) : Bool := feRuns s && s.fe.work == some e

/-- How FE looks at the frame of edge `e`. -/
def feView (s : State) (e : Tick) (i : ImplSet) : FeView :=
  let p := s.pos.pose
  let dir := feMode s == 1
  { e := e, i := i, f := p.est.fine, ang := p.angles, pol := policyOf s p.quality,
    guarded := policyOf s p.quality == 1 && p.est.hErr ≥ onErrLimit s, directed := dir, masks := !dir || directedMasks s,
    arming := s.fe.armedAt == some e }

/-- All contexts of a frame: state, contexts, changes, notices. -/
structure FrameEval where
  st : State
  ctx : Vector FeCtx 160
  changes : List Change := []
  notes : List Notice := []

/-- Evaluate or only rate one context into the frame; turn stop is judged where FE decides (R139). Marks: DEDUCED (log
46). -/
def evalOne (v : FeView) (decides : Bool) (k : Fin 160) (a : FrameEval) : FrameEval :=
  if !v.i.ctxOn k.val then { a with ctx := a.ctx.set k { a.ctx[k] with sched := false } }
  else
    let t := readTint v k.val a.st
    let errs := t.2.map fun adr => feNote 0x08 k.val (leBytes 4 adr)
    if decides then
      let off := match idx? 96 k.val with
        | some c => offBattery t.1 v.e c
        | none => false
      let r := evalCtx v k off a.ctx[k] t.1
      { st := r.1, ctx := a.ctx.set k r.2.1, changes := a.changes ++ r.2.2.1.toList, notes := a.notes ++ errs ++ r.2.2.2 }
    else { a with st := t.1, notes := a.notes ++ errs,
                  ctx := a.ctx.set k { (rateStep v t.1 k.val none a.ctx[k]).1 with turnStop := a.ctx[k].turnStop } }

/-- The notice of a late edge (R137, R145). Marks: DEDUCED (log 43). -/
def lateNote (c : Change) : List Notice :=
  match c.late with
  | some t => if t = 0 then [] else [feNote (if c.directed then 0x06 else 0x01) c.k.val (leBytes 4 t)]
  | none => []

/-- Events of a frame with their changes, and the notices of placement (R136, R142). -/
def placeFrame (s : State) (e : Tick) (rate : Fin 160 → Nat) (cs : List Change) : List (Ev × Change) × List Notice :=
  let local_ := (List.finRange 12).map fun b =>
    let g := grantCredits s e b cs
    let p := placeBank s e b g.1 rate
    (p.map fun x => (x.1, x.2.1),
     (if g.2 = [] then [] else [feNote 0x02 b.val []])
     ++ (p.filter fun x => x.2.2).map fun x => feNote 0x09 x.2.1.k.val [])
  let remote := (cs.filter fun c => c.k.val ≥ 96 && c.due < e + 120000).map fun c =>
    (eventOf e c { due := c.due, pred := 3 } (rate c.k), c)
  ((local_.flatMap (·.1)) ++ remote, local_.flatMap (·.2))

/-- Scheduled states, and the DIRECTED records acted on, once the frame's events are committed. -/
def schedAfter (evs : List (Ev × Change)) (cs : Vector FeCtx 160) : Vector FeCtx 160 :=
  evs.foldl (fun v p => vmod v p.2.k fun x => { x with sched := p.2.on, acted := p.2.record.or x.acted }) cs

/-- Flow demand of a layer: the contexts scheduled on at the edge of frame n+2 (R140), thousandths per minute. Marks:
DEDUCED (log 47). -/
def layerDemand (s : State) (e : Tick) (i : ImplSet) (before : Vector FeCtx 160) (evs : List (Ev × Change)) (j : Nat) : Nat :=
  let on (k : Fin 160) : Bool :=
    match evs.find? fun p => p.2.k == k && p.1.due == e + 80000 with
    | some p => p.2.on
    | none => before[k].sched
  let d := (((List.finRange 160).filter fun k => k.val < 96 && i.ctxOn k.val && i.ctxN k.val 16 2 == j && on k).map fun k => before[k].duty).sum
  satU 32 (d * qfOf s j / 4294967296)

/-- The sections once the records due by the scan start for every member have been applied (R145). -/
structure Sections where
  on : Vector Bool 32
  ground : Vector (Option Tick) 32
  rate : Vector (Option Nat) 32
  left : List Directed
deriving DecidableEq, Repr

/-- The sections as they stand. -/
def sectionsNow (s : State) : Sections := { on := s.fe.secOn, ground := s.fe.secGround, rate := s.fe.secRate, left := s.fe.directed }

/-- The state of a section once its records due by the scan start have been applied, and the records left (R145).
Marks: DEDUCED (log 44). -/
def directedAfter (v : FeView) (s : State) : Sections :=
  let members (sec : Nat) : List (Fin 160) := (List.finRange 160).filter fun k => v.i.ctxOn k.val && v.section_ k.val == sec
  let isDone (r : Directed) : Bool := (members r.section_).all fun k =>
    directedDue s k false (transport v.i k.val (siOf v s k.val (v.impact k.val v.start)).natAbs) r ≤ v.start
      && directedDue s k true (transport v.i k.val (siOf v s k.val (v.impact k.val v.start)).natAbs) r ≤ v.start
  s.fe.directed.foldl (fun (a : Sections) r =>
    match idx? 32 r.section_ with
    | some c =>
      if isDone r ∧ !(a.left.any fun x => x.section_ == r.section_) then
        { a with on := a.on.set c r.on, ground := a.ground.set c (some r.ground), rate := a.rate.set c r.rate }
      else { a with left := a.left ++ [r] }
    | none => a) { sectionsNow s with left := [] }

/-- The steps of a context's projected path within PREFETCH_MS, 10 ms each (R166). Marks: DESIGN CHOICE (log 22). -/
def pathSteps (s : State) (v : FeView) (k : Nat) : List (Impact × Impact) :=
  let ms := s.act.fld .map 144 16
  (List.range ((ms + 9) / 10)).map fun t => (v.impact k (v.e + 800000 * t), v.impact k (v.e + 80000 * min ms (10 * t + 10)))

/-- The corners of a footprint. -/
def corners (v : FeView) (k : Nat) (p : Impact) : List (Int × Int) :=
  let w : Int := 32768 * v.i.ctxN k 128 16
  let l : Int := 32768 * v.i.ctxN k 144 16
  [footPoint p l w, footPoint p l (-w), footPoint p (-l) w, footPoint p (-l) (-w)]

/-- Two sets of points lie apart along an axis. -/
def apart (axis : Int) (ps qs : List (Int × Int)) : Bool :=
  let f (l : List (Int × Int)) : List Int := l.map fun p => along axis p (0, 0)
  (f ps).all (fun x => (f qs).all fun y => x < y) || (f ps).all fun x => (f qs).all fun y => y < x

/-- The footprint reaches the box between two corners on a step of its path: nothing holds them apart along the
plane's axes, the footprint's at either end, or across the way. Marks: DESIGN CHOICE (log 22). -/
def reachesBox (v : FeView) (k : Nat) (st : Impact × Impact) (lo hi : Int × Int) : Bool :=
  let hull := corners v k st.1 ++ corners v k st.2
  let box := [lo, (lo.1, hi.2), (hi.1, lo.2), hi]
  !([0, 1073741824, st.1.axis, st.1.axis + 1073741824, st.2.axis, st.2.axis + 1073741824].any fun a => apart a hull box)

/-- The tiles of 256 cells of `mm`, and which half or page of `rows` cells each, that a context's footprint reaches along its
projected path (R166). -/
def reachedParts (s : State) (v : FeView) (k mm rows : Nat) : List (Int × Int × Nat) :=
  let u : Int := 65536 * mm
  ((pathSteps s v k).flatMap fun st =>
    let ps := corners v k st.1 ++ corners v k st.2
    let xs := ps.map fun p => p.1 / u
    let ys := ps.map fun p => p.2 / u
    let x0 := tileOf 256 (xs.foldl min (xs.headD 0))
    let x1 := tileOf 256 (xs.foldl max (xs.headD 0))
    let y0 := ys.foldl min (ys.headD 0) / (rows : Int)
    let y1 := ys.foldl max (ys.headD 0) / (rows : Int)
    (List.range (x1 - x0 + 1).toNat).flatMap fun (i : Nat) => (List.range (y1 - y0 + 1).toNat).filterMap fun (j : Nat) =>
      let tx := x0 + i
      let y := y0 + j
      let n : Int := 256 / rows
      if reachesBox v k st (256 * tx * u, rows * y * u) (256 * (tx + 1) * u, rows * (y + 1) * u)
      then some (tx, y / n, (y % n).toNat) else none).eraseDups

/-- The cache lines a context's footprint reaches: coverage pages of its layer that are allocated, halves of paged mask
tiles. -/
def reachedLines (s : State) (v : FeView) (k : Nat) : List LineKey :=
  let j := v.layer k
  ((reachedParts s v k (cellMm s j) (256 / depthOf s j)).filterMap fun p =>
    if (findSwatch s.map j p.1 p.2.1).isSome then some (.cover j p.1 p.2.1 p.2.2) else none)
  ++ (reachedParts s v k (maskCellMm s.map.mask.cell) 128).filterMap fun p =>
    if s.map.mask.tiles.contains (p.1, p.2.1) then some (.mask p.1 p.2.1 p.2.2) else none

/-- A line is named by prefetch, where it is cached (R166). -/
def nameLine (k : LineKey) (s : State) : State :=
  s.onMap fun m => { m with cache := m.cache.map fun l => if l.key = k then { l with named := s.pm } else l }

/-- Prefetch at the end of a decision phase: pages and mask tile halves within reach are named, then those not yet cached are
fetched (R166). -/
def prefetch (v : FeView) (s : State) : State :=
  let ks := (((List.finRange 160).filter fun k => v.i.ctxOn k.val).flatMap fun k => reachedLines s v k.val).eraseDups
  let s1 := meetFetched s (ks.foldl (fun t k => nameLine k (touchLine k false t)) (ks.foldl (fun t k => nameLine k t) s))
  s1.onMap fun m => { m with swatches := m.swatches.map fun w => if ks.any (fun k => match k with
      | .cover j tx ty _ => w.is j tx ty
      | .mask _ _ _ => false) then { w with named := s.pm } else w }

/-- Enabled contexts whose duty THS reduces: their generator runs, or they are scheduled on (R151, R216). Marks:
DEDUCED (log 47). -/
def reducedCtx (s : State) (i : ImplSet) (cs : Vector FeCtx 160) : List (Fin 96) :=
  (List.finRange 96).filter fun c => i.ctxOn c.val && (s.pwu.noz[c].running || cs[ctxOf c].sched) && decide (s.pwu.grid[bankOf c].scale < 65536)

/-- What the lanes form from the frame of edge `e`: decisions, duties, demands and painting. Marks: DEDUCED (log 48).
-/
def formBatch (e : Tick) (i : ImplSet) (s : State) : State × Batch :=
  let v := feView s e i
  let decides := feDecides s && decide (s.fe.armedAt.getD 0 ≤ e)
  let ev := (List.finRange 160).foldl (fun a k => evalOne v decides k a) { st := s.onMap (fun m => { m with misses := 0 }), ctx := s.fe.ctx }
  let s1 := ev.st
  let rate (k : Fin 160) : Nat := ev.ctx[k].rate * rateScale v (v.layer k.val) * 100 / 65536
  let pl := if decides then placeFrame s1 e rate ev.changes else ([], [])
  let before := ev.ctx
  let after := schedAfter pl.1 before
  let fp := paintFrame s1 e i after
  let dp := demandPaints (s1.fe.paints ++ fp.paints) s1
  let s2 := if dp.2.2 = [] then dp.1 else notice .map 0x04 0xFFFF [] dp.1
  let dirs := if decides then directedAfter v s1 else sectionsNow s
  let thermal := reducedCtx s i before
  (prefetch v s2,
   { edge := e, events := pl.1.map (·.1)
     duties := if decides then ((List.finRange 96).filter fun c => i.ctxOn c.val
         && (s.fe.armedAt.isSome || after[ctxOf c].duty != s.fe.ctx[ctxOf c].duty)).map fun c => (c.val, after[ctxOf c].duty) else []
     demand := if decides then Vector.ofFn fun j => layerDemand s e i before pl.1 j.val else s.fe.demand
     ctx := fp.ctx, paints := dp.2.1, waiting := dp.2.2
     taken := ((vlist s.vdr.bank).flatMap (·.store) ++ s.fe.remote).filter fun f => f.pm < e && !remoteWaits s f
     cut := (vlist s.vdr.bank).flatMap fun k => k.dropped.filter fun f => f.pm < e
     ending := endBy s e
     gaps := fp.gaps
     notices := ev.notes ++ pl.2 ++ ((pl.1.filter fun p => p.1.ctx < 96).flatMap fun p => lateNote p.2) ++ (thermal.take 1).map fun c => feNote 0x03 c.val []
     lates := (pl.1.filter fun p => 96 ≤ p.1.ctx).flatMap fun p => (lateNote p.2).map fun n => (p.1.ctx, n)
     records := fp.recs, secRun := fp.sec, secOn := dirs.on, secGround := dirs.ground, secRate := dirs.rate, directed := dirs.left })

/-- DECISION_PHASE: due once in a frame, from offset 4,000; FE forms its batch where a set is active (R15, R133). -/
def execDecisionPhase (s : State) : Result :=
  match s.sys.lastEdge with
  | some e =>
    if s.sys.phase = some .freeze ∧ e + 20000 ≤ s.pm ∧ s.pm < e + 32000 then
      let s1 := s.onSys fun y => { y with phase := some .decision }
      if feWorks s e then
        match s.impl.active with
        | some i => let r := formBatch e i s1; .next (r.1.onFe fun f => { f with batch := some r.2 })
        | none => .next (s1.onFe fun f => { f with batch := some { edge := e, ctx := f.ctx, demand := f.demand,
                                                                    waiting := f.paints, secRun := f.secRun, secOn := f.secOn, secGround := f.secGround,
                                                                    secRate := f.secRate, directed := f.directed } })
      else .next s1
    else .next s
  | none => .next s

/-! ### Bank queues (R201) -/

/-- Put an event into its bank's queue, in order of due postmark, CTX, and FE before the host (R189, R201). -/
def enqueueEv (ev : Ev) (s : State) : State :=
  match idx? 96 ev.ctx with
  | some c => modBank (bankOf c) (fun k => { k with
      queue := insertBy (fun x => (x.due * 256 + x.ctx) * 2 + b2n x.host) { ev with at_ := s.pm } k.queue }) s
  | none => s

/-! ### PWM phases (R135) -/

/-- PHASE of a context after staggering: floor(256·r / N) over the enabled contexts of the bank (R135). Marks: DEDUCED
(log 39). -/
def staggered (s : State) (i : ImplSet) : ImplSet :=
  if !s.act.flag .fe 2 then i
  else (List.range 12).foldl (fun (j : ImplSet) b =>
    let on := ((List.range 8).map fun m => 8 * b + m).filter i.ctxOn
    (List.zip (List.range on.length) on).foldl (fun (j : ImplSet) x =>
      if i.ctxN x.2 2 1 = 1 then j else j.put 0 x.2 (setBits (j.get 0 x.2) 24 8 (256 * x.1 / on.length))) j) i

/-- A set with the PHASE values FE assigned in another: they read back in the context descriptions (R135). Marks:
DEDUCED (log 39). -/
def withPhases (s : State) (i j : ImplSet) : ImplSet :=
  if !s.act.flag .fe 2 then j
  else (List.range 96).foldl (fun (j : ImplSet) k =>
    if i.ctxOn k && i.ctxN k 2 1 != 1 then j.put 0 k (setBits (j.get 0 k) 24 8 (i.ctxN k 24 8)) else j) j

/-- At a commit of IMPL or PB.FE at edge `e`: stagger, store the set with its phases, hand them to PWU, report crowded
banks (R107, R135, R238). Marks: DEDUCED (log 39). -/
def commitPhases (e : Tick) (s : State) : State :=
  match s.impl.active with
  | none => s
  | some i0 =>
    let i := staggered s i0
    let s0 := (s.onImpl fun v => { v with active := some i, shadow := withPhases s i v.shadow }).onNor fun m => { m with impl := i }
    let s1 := s0.onPwu fun v => { v with
      grid := vmapIdx v.grid fun b g =>
        let ph : Vector Nat 8 := Vector.ofFn fun m => i.ctxN (8 * b.val + m.val) 24 8
        { g with waitPhases := g.waitPhases ++ [(e, ph)] } }
    if s.act.flag .fe 2 then
      (List.finRange 12).foldl (fun t b =>
        let on := ((List.range 8).map fun m => 8 * b.val + m).filter i.ctxOn
        let pull := ((List.range 8).map fun m => tPull s (8 * b.val + m)).foldl max 0
        let need := on.length * (pull + guardGap s)
        if on ≠ [] ∧ s.act.fld .pwu (32 * b.val) 32 < need then notice .fe 0x07 b.val [] t else t) s1
    else s1

end Sys2Proof.Machine
end

