-- ==== Sys2Proof/Machine/Can.lean ====
section
/-! DEFINITION. The CAN controllers (15): filters and receive records, transmit slots, error confinement, the ISO 11783
address claim and the row nodes. -/

namespace Sys2Proof.Machine

def modCtl (x : Fin 3) (f : CanCtl → CanCtl) (s : State) : State := s.onCan fun v => { v with ctl := vmod v.ctl x f }
def modSlot (x : Fin 3) (k : Fin 32) (f : Slot → Slot) (s : State) : State := modCtl x (fun c => { c with slots := vmod c.slots k f }) s
def modNode (n : Fin 32) (f : Node → Node) (s : State) : State := s.onCan fun v => { v with node := vmod v.node n f }

/-! ### Parameters (R327, R373) -/

def canEnable (s : State) (x : Fin 3) : Bool := s.act.flag .can (256 * x.val)
/-- The controller sends and receives FD frames: never CAN0 (R324, R327). -/
def fdEn (s : State) (x : Fin 3) : Bool := x != 0 && s.act.flag .can (256 * x.val + 1)
def brsEn (s : State) (x : Fin 3) : Bool := s.act.flag .can (256 * x.val + 2)
def tdcEn (s : State) (x : Fin 3) : Bool := s.act.flag .can (256 * x.val + 3)
def busoffAuto (s : State) (x : Fin 3) : Bool := s.act.flag .can (256 * x.val + 4)
def listen (s : State) (x : Fin 3) : Bool := s.act.flag .can (256 * x.val + 5)
def selfRx (s : State) (x : Fin 3) : Bool := s.act.flag .can (256 * x.val + 6)
def tdcOffset (s : State) (x : Fin 3) : Nat := s.act.fld .can (256 * x.val + 80) 7
/-- Ticks of a bit of the nominal phase (R325). -/
def bitTicks (s : State) (x : Fin 3) : Tick :=
  s.act.fld .can (256 * x.val + 8) 6 * (1 + s.act.fld .can (256 * x.val + 16) 9 + s.act.fld .can (256 * x.val + 32) 7)
def isoEn (s : State) : Bool := s.act.flag .can 776
def rowEn (s : State) : Bool := s.act.flag .can 777
def rowBase (s : State) : Nat := s.act.fld .can 784 11
def rowSlots (s : State) : Nat := s.act.fld .can 800 8
def syncInterval (s : State) : Tick := 800000 * s.act.fld .can 808 8
def rowTimeout (s : State) : Tick := msTicks (s.act.fld .can 816 16)
def reportWait (s : State) : Tick := msTicks (s.act.fld .can 832 16)
/-- TUN_CTRL of PB.HOST: the controller of the tunnel, where one is set (0 none, 1 CAN0, 2 CAN1). -/
def tunCtl (s : State) : Option (Fin 3) :=
  match s.act.fld .host 2 2 with
  | 1 => some 0 | 2 => some 1 | _ => none
def tunPh (s : State) : Nat := s.act.fld .host 32 8
def tunSlot (s : State) : Nat := s.act.fld .host 40 5
def tunIde (s : State) : Bool := s.act.flag .host 45
def tunFd (s : State) : Bool := s.act.flag .host 46
def tunRxId (s : State) : Nat := s.act.fld .host 48 29
def tunTxId (s : State) : Nat := s.act.fld .host 80 29

/-- The controllers run: they are off in START and LATCHED (R347), and with the device. -/
def canRuns (s : State) : Bool := s.sys.dev != .off && s.sys.dev != .start && s.sys.dev != .latched

/-- The controller takes part in traffic. -/
def onBus (s : State) (x : Fin 3) : Bool :=
  let st := s.can.ctl[x].st
  canRuns s && (st == .active || st == .warning || st == .passive)

/-! ### Notices (R347): INDEX holds the controller and, from bit 8 on, the object -/

/-- Marks: DEDUCED (log 78). -/
def canNote (x : Fin 3) (code obj : Nat) (body : List Byte) (s : State) : State := notice .can code (x.val + 256 * obj) body s

/-- Body of an error state notice: both counters (R335). -/
def counterBody (c : CanCtl) : List Byte := leBytes 2 c.tec ++ leBytes 2 c.rec_

/-! ### Reserved pigeonholes and slots (R324, R338, R339, R350) -/

/-- Is a pigeonhole reserved? -/
def phReserved (s : State) (x : Fin 3) (ph : Nat) : Bool :=
  (x == 0 && isoEn s && 252 ≤ ph) || (x == 1 && rowEn s && 224 ≤ ph) || (tunCtl s == some x && tunPh s == ph)

/-- Is a transmit slot reserved? -/
def slotReserved (s : State) (x : Fin 3) (k : Nat) : Bool :=
  (x == 0 && isoEn s && k == 31) || (x == 1 && rowEn s && 31 - rowSlots s ≤ k) || (tunCtl s == some x && tunSlot s == k)

/-- PDU format, PDU specific, data page bits and source address of a 29-bit identifier. -/
def pduFormat (f : CanFrame) : Nat := bits f.id.toNat 16 8
def pduSpecific (f : CanFrame) : Nat := bits f.id.toNat 8 8
def sourceAddr (f : CanFrame) : Nat := bits f.id.toNat 0 8
def isPage0 (f : CanFrame) : Bool := f.ide && bits f.id.toNat 24 2 == 0

/-- The reserved pigeonhole a frame goes to. Marks: PRESUMED (log 79). -/
def reservedHole (s : State) (x : Fin 3) (f : CanFrame) : Option Nat :=
  if tunCtl s = some x ∧ f.ide = tunIde s ∧ f.id.toNat % (if tunIde s then 2 ^ 29 else 2 ^ 11) = tunRxId s % (if tunIde s then 2 ^ 29 else 2 ^ 11)
  then some (tunPh s)
  else if x = 0 ∧ isoEn s ∧ isPage0 f then
    (if pduFormat f = 238 then some 252 else if pduFormat f = 234 then some 253
     else if pduFormat f = 254 ∧ pduSpecific f = 0x48 then some 254
     else if pduFormat f = 254 ∧ pduSpecific f = 0x49 then some 255 else none)
  else if x = 1 ∧ rowEn s ∧ !f.ide ∧ rowBase s + 0xC0 ≤ f.id.toNat ∧ f.id.toNat < rowBase s + 0xE0 then
    some (224 + (f.id.toNat - rowBase s - 0xC0))
  else none

/-- The filter in force at a postmark (R395). -/
def Pigeon.at_ (p : Pigeon) (t : Tick) : Nat := if t < p.since then p.prev.toNat else p.filter.toNat

/-- Does a filter pass a frame (R328)? -/
def filterPasses (w : Nat) (f : CanFrame) : Bool :=
  let m := bits w 32 29
  let diff := (f.id.toNat ^^^ bits w 0 29) &&& m
  bitN w 31 && (bitN w 29 == f.ide) && (if f.ide then diff else diff % 2 ^ 11) == 0

/-- The pigeonhole a frame is stored in: reserved ones first, then the others in index order (R328). -/
def holeFor (s : State) (x : Fin 3) (f : CanFrame) : Option Nat :=
  match reservedHole s x f with
  | some k => some k
  | none => (s.can.ctl[x].holes.find? fun p => !phReserved s x p.ix && filterPasses (p.at_ f.sofPm) f).map (·.ix)

/-! ### Receive records (R329) -/

/-- Length in bytes of a DLC. -/
def dlcBytes (fdf : Bool) (dlc : Nat) : Nat :=
  if dlc ≤ 8 then dlc else if !fdf then 8
  else match dlc with | 9 => 12 | 10 => 16 | 11 => 20 | 12 => 24 | 13 => 32 | 14 => 48 | _ => 64

/-- The smallest FD code that holds `n` bytes. -/
def dlcFor (n : Nat) : Nat :=
  if n ≤ 8 then n else if n ≤ 12 then 9 else if n ≤ 16 then 10 else if n ≤ 20 then 11 else if n ≤ 24 then 12
  else if n ≤ 32 then 13 else if n ≤ 48 then 14 else 15

/-- The record of a frame stored over another. -/
def recordOf (old : Nat) (f : CanFrame) : BitVec 672 :=
  let new := bitN old 101
  let lost := bitN old 102 || new
  let beyond := (bits old 128 16 + b2n new) % 65536
  BitVec.ofNat 672 (bits f.sofPm 0 64 ||| f.id.toNat <<< 64 ||| b2n f.ide <<< 93 ||| b2n f.fdf <<< 94 ||| b2n f.brs <<< 95
    ||| b2n f.esi <<< 96 ||| f.dlc.toNat <<< 97 ||| 1 <<< 101 ||| b2n lost <<< 102 ||| beyond <<< 128
    ||| leNat (f.data.take (dlcBytes f.fdf f.dlc.toNat)) <<< 160)

/-- Pigeonhole `k` of a controller, at reset values where it has not been used. -/
def holeAt (c : CanCtl) (k : Nat) : Pigeon := (c.holes.find? fun p => p.ix == k).getD { ix := k }

/-- Put a pigeonhole back, in index order. -/
def putHole (p : Pigeon) (c : CanCtl) : CanCtl := { c with holes := insertBy Pigeon.ix p (c.holes.filter fun q => q.ix != p.ix) }

/-- Store a frame; a pigeonhole that turns NEW is reported under NOTIFY. -/
def storeFrame (x : Fin 3) (k : Nat) (f : CanFrame) (s : State) : State :=
  modCtl x (fun c =>
    let p := holeAt c k
    let fresh := p.fresh || (!bitN p.record.toNat 101 && bitN p.filter.toNat 30)
    putHole { p with record := recordOf p.record.toNat f, fresh := fresh, storedAt := some s.pm } c) s

/-- The record as read, then NEW and LOST cleared (R329). -/
def readHole (x : Fin 3) (k : Nat) (s : State) : Nat × State :=
  let p := holeAt s.can.ctl[x] k
  (p.record.toNat, modCtl x (fun c => putHole { p with record := BitVec.ofNat 672 (setBits p.record.toNat 101 2 0) } c) s)

/-- A host's read: a frame stored on its very tick comes with LOST set (R20, R329). -/
def hostRead (x : Fin 3) (k : Nat) (s : State) : Nat × State :=
  let r := readHole x k s
  (if (holeAt s.can.ctl[x] k).storedAt = some s.pm then setBits r.1 102 1 1 else r.1, r.2)

/-- RX notices of the logging phase: one per controller, with a map of the pigeonholes that turned NEW (R329). -/
def rxNotices (t : Tick) (s : State) : State :=
  (List.finRange 3).foldl (fun u x =>
    let new := u.can.ctl[x].holes.filter (·.fresh)
    if new = [] then u
    else noticeNow .can 0x01 x.val t (leBytes 32 (bitWord 256 fun k => new.any fun p => p.ix == k))
      (modCtl x (fun c => { c with holes := c.holes.map fun p => { p with fresh := false } }) u)) s

/-! ### Transmit slots (R330 to R334, R397) -/

def slotId (d : Nat) : Nat := bits d 0 29
def slotDeadline (d : Nat) : Tick := bits d 64 64

/-- How a slot's arbitration field ranks: the lower wins (R331). -/
def arbKey (d : Nat) : Nat :=
  if bitN d 29 then (bits d 18 11) * 2 ^ 20 + 2 ^ 19 + bits d 0 18 else bits d 0 11 * 2 ^ 20

/-- Load a slot and make it PENDING. -/
def loadSlot (x : Fin 3) (k : Fin 32) (owner : SlotOwner) (d : Nat) (s : State) : State :=
  modSlot x k (fun _ => { st := .pending, desc := BitVec.ofNat 640 d, subAt := s.pm, owner := owner }) s

/-- A descriptor (R330). -/
def descOf (id : Nat) (ide fdf brs : Bool) (dlc retry : Nat) (deadline : Tick) (data : List Byte) : Nat :=
  bits id 0 29 ||| b2n ide <<< 29 ||| b2n fdf <<< 30 ||| b2n brs <<< 31 ||| dlc <<< 32 ||| retry <<< 36 ||| deadline <<< 64
    ||| leNat data <<< 128

/-- Outcomes of R397. -/
inductive TxOutcome where
  | sent | exhausted | expired | aborted
deriving DecidableEq, Repr, Inhabited

def outcomeCode : TxOutcome → Nat
  | .sent => 0 | .exhausted => 1 | .expired => 2 | .aborted => 3

/-- The completion record (R397). -/
def completion (k : Nat) (l : Slot) (o : TxOutcome) (eof : Tick) : List Byte :=
  leBytes 8 (k ||| outcomeCode o <<< 5 ||| b2n l.collision <<< 8 ||| min l.errors 15 <<< 16) ++ leBytes 8 l.sofPm ++ leBytes 8 eof

/-- Row traffic runs (R340, R344). -/
def rowRuns (s : State) : Bool := rowEn s && canRuns s && s.sys.dev != .quarantine

/-- A free slot of the row messages. -/
def freeRowSlot (s : State) : Option (Fin 32) :=
  (List.finRange 32).find? fun k => 31 - rowSlots s ≤ k.val && k.val < 31 && s.can.ctl[(1 : Fin 3)].slots[k].st == .free

/-- Load a ROW_CMD of a node into slot `k`, with the rate entries it carries (R341, R342). -/
def loadRowCmd (k : Fin 32) (n : Fin 32) (e : Tick) (allOff : Bool) (deadline : Tick) (entries : List (List Byte))
    (rates : List (Fin 64 × Nat × Nat)) (s : State) : State :=
  let head := leBytes 8 (frameNo e ||| n.val <<< 32 ||| entries.length <<< 40 ||| b2n allOff <<< 44)
  let len := 8 + 8 * entries.length
  (loadSlot 1 k .row (descOf (rowBase s + 0x80 + n.val) false true (brsEn s 1) (dlcFor len) 3 deadline (head ++ entries.flatten)) s).onCan
    fun v => { v with rowMsgs := v.rowMsgs ++ [{ slot := k.val, node := n.val, at_ := s.pm, rates := rates }] }

/-- Send ALL_OFF to the nodes that wait for it, as slots allow (R344). -/
def sendAllOff (s : State) : State :=
  s.can.allOffWait.foldl (fun t n =>
    match freeRowSlot t, idx? 32 n with
    | some k, some m => loadRowCmd k m (edgeOf t.pm) true 0 [] [] (t.onCan fun v => { v with allOffWait := v.allOffWait.filter (· != n) })
    | _, _ => t) s

/-- ALL_OFF goes on to the nodes that wait for it, in STANDBY and SAFE, as slots become free (R344). -/
def moreAllOff (s : State) : State := if (s.sys.dev = .standby ∨ s.sys.dev = .safe) ∧ rowRuns s then sendAllOff s else s

/-- The events of a row message that was not delivered go back to FE at the next freeze (R343). -/
def rowUndelivered (k : Nat) (s : State) : State :=
  s.onCan fun v => { v with failed := v.failed ++ v.rowEvents.filter fun r => r.slot == some k
                            rowEvents := v.rowEvents.filter fun r => r.slot != some k }

/-- A row message has been sent: its events are on their way, its node has had a ROW_CMD, its rate entries are the
values last sent (R342). Marks: DEDUCED (log 80). -/
def rowSent (k : Nat) (eof : Tick) (s : State) : State :=
  let s1 := s.onCan fun v => { v with rowEvents := v.rowEvents.map fun r => if r.slot = some k then { r with slot := none } else r }
  match s.can.rowMsgs.find? fun m => m.slot == k with
  | none => s1
  | some m =>
    let s2 := s1.onCan fun v => { v with
      rowRate := m.rates.foldl (fun w p => w.set p.1 { rate := p.2.1, speed := p.2.2, at_ := some eof }) v.rowRate }
    match idx? 32 m.node with
    | some n => modNode n (fun d => { d with lastCmd := eof }) s2
    | none => s2

/-- What a row frame's end brings: FOLLOW_UP after SYNC, events on their way, lateness (R340, R343). -/
def rowDone (k : Fin 32) (l : Slot) (o : TxOutcome) (eof : Tick) (s : State) : State :=
  let d := l.desc.toNat
  if k.val = 31 then
    (if o = .sent ∧ slotId d = rowBase s then
      loadSlot 1 31 .row (descOf (rowBase s + 1) false true (brsEn s 1) 9 3 0 (leBytes 1 (bits d 128 8) ++ leBytes 8 l.sofPm ++ leBytes 3 0)) s
     else s)
  else
    let ended (u : State) : State := moreAllOff (u.onCan fun v => { v with rowMsgs := v.rowMsgs.filter fun m => m.slot != k.val })
    if o = .sent then
      let s1 := ended (rowSent k.val eof s)
      let dl := slotDeadline d
      if dl ≠ 0 ∧ eof > dl then canNote 1 0x08 (slotId d - rowBase s - 0x80) (leBytes 4 (eof - dl)) s1 else s1
    else ended (rowUndelivered k.val s)

/-- Claim frame of the device from a source address: PGN 60928 to all, priority 6, with ISO_NAME (R337). Marks: DESIGN
CHOICE (log 93). -/
def isoName (s : State) : Nat := match s.impl.active with
  | some i => bits i.mach.toNat 256 64
  | none => 0

/-- Marks: PRESUMED (log 79). -/
def claimDesc (s : State) (sa : Nat) : Nat := descOf (0x18EEFF00 + sa) true false false 8 15 0 (leBytes 8 (isoName s))

/-- Send the claim from slot 31, once it is not on the wire. -/
def sendClaim (s : State) : State :=
  if s.can.ctl[(0 : Fin 3)].slots[(31 : Fin 32)].st = .active then s.onCan fun v => { v with claimWait := true }
  else loadSlot 0 31 .iso (claimDesc s s.can.cand) (s.onCan fun v => { v with claimWait := false })

/-- A claim that was sent starts the 250 ms of R337. -/
def isoDone (l : Slot) (o : TxOutcome) (eof : Tick) (s : State) : State :=
  let s1 := if o = .sent ∧ bits l.desc.toNat 0 8 = s.can.cand ∧ s.can.cand ≠ 0xFE then s.onCan fun v => { v with claimAt := some eof } else s
  if s1.can.claimWait then sendClaim s1 else s1

/-- A slot ends: FREE, its completion record, and what its owner makes of it. -/
def endSlot (x : Fin 3) (k : Fin 32) (o : TxOutcome) (eof : Tick) (s : State) : State :=
  let l := s.can.ctl[x].slots[k]
  let s1 := modSlot x k (fun l => { l with st := .free, aborting := false }) s
  let s2 := if o ≠ .sent ∨ l.owner = .host then canNote x 0x02 k.val (completion k.val l o eof) s1 else s1
  match l.owner with
  | .row => rowDone k l o eof s2
  | .iso => isoDone l o eof s2
  | _ => s2

/-- The PENDING slot that wins the bus: not one of this tick, nor one whose deadline has passed, nor an FD frame where
FD_EN forbids it (R327, R331, R333). Marks: DEDUCED (log 78). -/
def winner (s : State) (x : Fin 3) : Option (Fin 32) :=
  (List.finRange 32).foldl (fun m k =>
    let l := s.can.ctl[x].slots[k]
    let d := slotDeadline l.desc.toNat
    if l.st ≠ .pending ∨ l.subAt = s.pm ∨ (d ≠ 0 ∧ d ≤ s.pm) ∨ (bitN l.desc.toNat 30 ∧ !fdEn s x) then m
    else match m with
      | none => some k
      | some j => if arbKey l.desc.toNat < arbKey s.can.ctl[x].slots[j].desc.toNat then some k else m) none

def hasActive (s : State) (x : Fin 3) : Option (Fin 32) := (List.finRange 32).find? fun k => s.can.ctl[x].slots[k].st == .active

/-- CAN_TX_START: with the bus free the winning PENDING slot becomes ACTIVE (R331). -/
def execCanTxStart (x : Fin 3) (s : State) : Result :=
  if onBus s x ∧ !listen s x ∧ (hasActive s x).isNone then
    match winner s x with
    | some k => .next (modSlot x k (fun l => { l with st := .active }) s)
    | none => .next s
  else .next s

/-! ### Error confinement (R335, R336) -/

/-- The state the counters give. -/
def confine (tec rc : Nat) : CanState :=
  if tec > 255 then .busOff else if tec ≥ 128 ∨ rc ≥ 128 then .passive else if tec ≥ 96 ∨ rc ≥ 96 then .warning else .active

/-- A bus-off: recovery starts at once under BUSOFF_AUTO; SAFE hears of it (R336, R426, R429). -/
def enterBusOff (x : Fin 3) (s : State) : State :=
  let s1 := modCtl x (fun c => { c with st := if busoffAuto s x then .recovering else .busOff, busOffAt := s.pm }) s
  if x = 1 ∧ rowEn s ∧ (s.sys.dev = .armed ∨ s.sys.dev = .manual) then
    s1.onCan fun v => { v with graceFrom := some (v.graceFrom.getD s.pm) }
  else
    let s2 := logFault 0x1D .can x.val reactReport 0 0x03 s1
    if x = 0 then s2.onPos fun p => { p with odo := vmapIdx p.odo fun k o => if odoType s k ≥ 3 then { o with stale := true, sa := none } else o }
    else s2

/-- New counters: the state they give, with its notice. Marks: DEDUCED (log 78). -/
def setCounters (x : Fin 3) (tec rc : Nat) (s : State) : State :=
  let c := s.can.ctl[x]
  let st := confine tec rc
  let s1 := modCtl x (fun c => { c with tec := min tec 256, rec_ := min rc 255 }) s
  if c.st = st ∨ c.st = .offBus ∨ c.st = .busOff ∨ c.st = .recovering then s1
  else
    let s2 := if st = .busOff then enterBusOff x s1 else modCtl x (fun c => { c with st := st }) s1
    canNote x 0x03 0 (counterBody s1.can.ctl[x]) s2

/-- RECEIVE_ERROR. -/
def execReceiveError (x : Fin 3) (recUp : Nat) (s : State) : Result :=
  if onBus s x then .next (setCounters x s.can.ctl[x].tec (s.can.ctl[x].rec_ + recUp) s) else .next s

/-- BUSOFF_RECOVERY_COMPLETE: 128 times 11 recessive bits have passed since recovery started; both counters are 0 and
the controller is ERROR_ACTIVE (R336). Marks: DEDUCED (log 78). -/
def execBusoffRecoveryComplete (x : Fin 3) (s : State) : Result :=
  if s.can.ctl[x].st = .recovering ∧ canRuns s ∧ s.can.ctl[x].busOffAt + 1408 * bitTicks s x ≤ s.pm then
    let s1 := modCtl x (fun c => { c with st := .active, tec := 0, rec_ := 0 }) s
    let s2 := canNote x 0x04 0 (counterBody s1.can.ctl[x]) (canNote x 0x03 0 (counterBody s1.can.ctl[x]) s1)
    let s3 := if x = 1 then endFault 0x1C 1 (s2.onCan fun v => { v with graceFrom := none }) else s2
    .next (endFault 0x1D x.val s3)
  else .next s

/-- BUS_REJOIN: after 11 recessive bits an enabled controller that was taken off the bus takes part again; one that is in
bus-off recovers at once under BUSOFF_AUTO (R325, R336). -/
def execBusRejoin (x : Fin 3) (s : State) : Result :=
  if canRuns s ∧ canEnable s x ∧ s.can.ctl[x].st = .offBus then
    let back (c : CanCtl) : CanCtl :=
      if confine c.tec c.rec_ = .busOff ∧ busoffAuto s x then { c with st := .recovering, busOffAt := s.pm }
      else { c with st := confine c.tec c.rec_ }
    let s1 := modCtl x back s
    .next (canNote x 0x03 0 (counterBody s1.can.ctl[x]) s1)
  else .next s

/-- The attempt on the wire ends as its controller leaves the bus: a slot told to abort is aborted, one past its
deadline expires, any other waits again (R325, R333). Marks: DEDUCED (log 78). -/
def dropActive (x : Fin 3) (s : State) : State :=
  match hasActive s x with
  | none => s
  | some k =>
    let l := s.can.ctl[x].slots[k]
    let d := slotDeadline l.desc.toNat
    if l.aborting then endSlot x k .aborted 0 s
    else if d ≠ 0 ∧ d ≤ s.pm then endSlot x k .expired 0 s
    else modSlot x k (fun l => { l with st := .pending }) s

/-- A controller is taken off the bus; pending slots keep their contents (R325). -/
def takeOff (x : Fin 3) (s : State) : State := modCtl x (fun c => { c with st := .offBus }) (dropActive x s)

/-- A commit of PB.CAN: a controller whose timing or ENABLE changed is taken off the bus; BUSOFF_AUTO set in bus-off starts the
recovery (R325, R336). -/
def commitCan (old : Params) (s : State) : State :=
  (List.finRange 3).foldl (fun t x =>
    let f (lo w : Nat) : Bool := old.fld .can (256 * x.val + lo) w != s.act.fld .can (256 * x.val + lo) w
    if f 0 1 || f 3 1 || f 8 6 || f 16 9 || f 32 7 || f 40 7 || f 48 6 || f 56 6 || f 64 5 || f 72 5 || f 80 7 then
      takeOff x t
    else if t.can.ctl[x].st = .busOff ∧ busoffAuto t x then modCtl x (fun c => { c with st := .recovering, busOffAt := t.pm }) t
    else t) s

/-! ### The end of a transmission (R332, R333, R334) -/

/-- An attempt that failed: the slot is aborted, expires, is exhausted, or waits again. Marks: DEDUCED (log 78). -/
def retrySlot (x : Fin 3) (k : Fin 32) (s : State) : State :=
  let l := s.can.ctl[x].slots[k]
  let d := l.desc.toNat
  let spent := if bitN d 40 then l.collision && l.errors - l.collAt ≥ 15 else l.errors ≥ 1 + bits d 36 4
  if spent then endSlot x k .exhausted 0 s
  else if l.aborting then endSlot x k .aborted 0 s
  else if slotDeadline d ≠ 0 ∧ slotDeadline d ≤ s.pm then endSlot x k .expired 0 s
  else modSlot x k (fun l => { l with st := .pending, subAt := 0 }) s

/-- The transmitter delay measured in an FD frame with BRS, where TDC is on (R326): that of slot `k`. -/
def takeTdc (x : Fin 3) (k : Fin 32) (t : Option Nat) (s : State) : State :=
  let d := s.can.ctl[x].slots[k].desc.toNat
  match t with
  | none => s
  | some v =>
    if tdcEn s x ∧ bitN d 30 ∧ bitN d 31 then
      let sat := v + tdcOffset s x > 127
      let s1 := modCtl x (fun c => { c with tdcv := min v 127, tdcSat := sat }) s
      if sat ∧ !s.can.ctl[x].tdcSat then canNote x 0x06 0 [] s1 else s1
    else s

/-- A frame as its own slot's descriptor gives it. -/
def frameOf (d : Nat) (sof : Tick) : CanFrame :=
  { id := BitVec.ofNat 29 (slotId d), ide := bitN d 29, fdf := bitN d 30, brs := bitN d 31, dlc := BitVec.ofNat 4 (bits d 32 4),
    data := leBytes 64 (bits d 128 512), sofPm := sof }

/-- CAN_TX_END. -/
def execCanTxEnd (x : Fin 3) (r : TxResult) (s : State) : Result :=
  match hasActive s x with
  | none => .next s
  | some k =>
    match r with
    | .sent sof eof tdcv =>
      let l := s.can.ctl[x].slots[k]
      let s1 := takeTdc x k tdcv (modSlot x k (fun l => { l with sofPm := sof }) s)
      let s2 := endSlot x k .sent eof (setCounters x (s.can.ctl[x].tec - 1) s.can.ctl[x].rec_ s1)
      let f := frameOf l.desc.toNat sof
      if selfRx s x then
        (match holeFor s x f with
         | some h => .next (storeFrame x h f s2)
         | none => .next s2)
      else .next s2
    | .arbLost => .next (retrySlot x k s)
    | .error sof data up tdcv =>
      let l := s.can.ctl[x].slots[k]
      let n := l.dataErrs + b2n data
      let hit := data && n == 2
      let s1 := modSlot x k (fun l => { l with
        sofPm := sof, errors := l.errors + 1, dataErrs := n, collision := l.collision || hit
        collAt := if hit then l.errors + 1 else l.collAt }) (takeTdc x k tdcv s)
      let s2 := if hit then canNote x 0x05 k.val (leBytes 4 (slotId l.desc.toNat)) s1 else s1
      .next (retrySlot x k (setCounters x (s.can.ctl[x].tec + up) s.can.ctl[x].rec_ s2))

/-- CAN_DEADLINE_EXPIRY: a PENDING slot's deadline has passed (R333). -/
def execCanDeadlineExpiry (x : Fin 3) (slot : Fin 32) (s : State) : Result :=
  let l := s.can.ctl[x].slots[slot]
  let d := slotDeadline l.desc.toNat
  if l.st = .pending ∧ d ≠ 0 ∧ d ≤ s.pm then .next (endSlot x slot .expired 0 s) else .next s

/-! ### Frames received -/

/-- The device's address is claimed anew, or given up (R337). -/
def claimNext (s : State) : State :=
  let free := (List.range 120).map (· + 128) |>.find? fun a => !s.can.heard.contains a
  if bitN (isoName s) 63 then
    sendClaim (s.onCan fun v => { v with cand := free.getD 0xFE, claimAt := none, addr := 0xFE })
  else sendClaim (s.onCan fun v => { v with cand := 0xFE, claimAt := none, addr := 0xFE })

/-- The ADDRESS notice where the reported address changed, or where a claim was lost for good (R337). -/
def addressNote (old : Nat) (s : State) : State :=
  if s.can.addr = old ∧ s.can.cand ≠ 0xFE then s else canNote 0 0x07 0 (leBytes 4 s.can.addr) s

/-- Another node's claim (R337): the lower NAME takes the address, else the device claims again. Marks: PRESUMED (log
79). -/
def takeClaim (f : CanFrame) (s : State) : State :=
  let sa := sourceAddr f
  let s0 := s.onCan fun v => { v with heard := if sa < 254 then sa :: v.heard.filter (· != sa) else v.heard }
  if s.can.claimed ∧ s.can.cand ≠ 0xFE ∧ sa = s.can.cand then
    (if leNat (f.data.take 8) < isoName s then addressNote s.can.addr (claimNext s0)
     else sendClaim (s0.onCan fun v => { v with heard := v.heard.filter (· != sa) }))
  else s0

/-- A request for address claim directed to the device or to all (R337). Marks: PRESUMED (log 79). -/
def takeRequest (f : CanFrame) (s : State) : State :=
  if s.can.claimed ∧ leNat (f.data.take 3) = 0xEE00 ∧ (pduSpecific f = 255 ∨ pduSpecific f = s.can.addr) then sendClaim s else s

/-- A speed message (R338): speed of bytes 1 and 2, direction of byte 8. Marks: PRESUMED (log 79). -/
def takeSpeed (type : Nat) (f : CanFrame) (s : State) : State :=
  let v := leNat (f.data.take 2)
  let dir := (f.data.getD 7 0).toNat % 4
  if v ≥ 0xFB00 then s
  else odoMessage type (if dir = 0 then -(v : Int) else v) (decide (dir ≤ 1)) (sourceAddr f) f.sofPm s

/-- A tunnel frame (R350): its stream bytes pass to the receiver; a counter gap drops the envelope in progress. -/
def takeSegment (f : CanFrame) (lost : Bool) (s : State) : State :=
  let data := f.data.take (dlcBytes f.fdf f.dlc.toNat)
  let seg : BitVec 4 := (data.headD 0).setWidth 4
  s.onHost fun h => { h with port := vmod h.port 2 fun q =>
    let inOrder := match q.tunRx with
      | some n => n == seg
      | none => true
    let goes := inOrder && !lost
    { q with tunRx := some (seg + 1), tunBytes := if goes then q.tunBytes ++ data.drop 1 else data.drop 1, tunHead := goes && q.tunHead } }

/-- What the device itself does with a frame of a reserved pigeonhole; row reports wait for the freeze (R346). -/
def useReserved (x : Fin 3) (k : Nat) (f : CanFrame) (s : State) : State :=
  if tunCtl s = some x ∧ k = tunPh s then (let r := readHole x k s; takeSegment f (bitN r.1 102) r.2)
  else if x = 0 ∧ isoEn s then
    let s1 := (readHole x k s).2
    match k with
    | 252 => takeClaim f s1
    | 253 => takeRequest f s1
    | 254 => takeSpeed 3 f s1
    | 255 => takeSpeed 4 f s1
    | _ => s
  else s

/-- A received frame is filtered into a pigeonhole, or counted in UNMATCHED; FD frames only where FD_EN allows them
(R324, R327, R328). A good reception lowers REC (ISO 11898-1). Marks: DEDUCED (log 78). -/
def canFrameReceive (x : Fin 3) (f : CanFrame) (s : State) : State :=
  if onBus s x && (!f.fdf || fdEn s x) then
    let rc := s.can.ctl[x].rec_
    let big := decide (rc > 127)
    let rc' := if big then 119 + Config.freeNat s.free % 9 else rc - 1
    let s0 := setCounters x s.can.ctl[x].tec rc' (if big then { s with free := s.free + 1 } else s)
    match holeFor s x f with
    | none => modCtl x (fun c => { c with unmatched := c.unmatched + 1 }) s0
    | some k =>
      let s1 := storeFrame x k f s0
      if phReserved s x k then useReserved x k f s1 else s1
  else s

/-! ### Address claim (R337) -/

/-- ADDRESS_CLAIM: CAN0 first reaches ERROR_ACTIVE in STANDBY or later. Marks: DESIGN CHOICE (log 93). -/
def execAddressClaim (s : State) : Result :=
  if isoEn s ∧ canRuns s ∧ s.sys.dev ≠ .quarantine ∧ s.can.ctl[(0 : Fin 3)].st = .active ∧ !s.can.claimed then
    let sa := match s.impl.active with
      | some i => bits i.mach.toNat 200 8
      | none => 0x80
    .next (sendClaim (s.onCan fun v => { v with claimed := true, cand := sa }))
  else .next s

/-- ADDRESS_CLAIM_TIMER: 250 ms after the claim the address is used. -/
def execAddressClaimTimer (s : State) : Result :=
  match s.can.claimAt with
  | some t =>
    if t + 20000000 ≤ s.pm then
      .next (addressNote s.can.addr (s.onCan fun v => { v with addr := v.cand, claimAt := none }))
    else .next s
  | none => .next s

/-! ### Row nodes (R339 to R346) -/

/-- SYNC at a multiple of SYNC_INTERVAL. Marks: DEDUCED (log 80). -/
def execSync (s : State) : Result :=
  let due := s.pm / syncInterval s * syncInterval s
  if rowRuns s ∧ s.can.syncAt < due then
    let s1 := s.onCan fun v => { v with syncAt := due }
    if s.can.ctl[(1 : Fin 3)].slots[(31 : Fin 32)].st = .free then
      let q := s.can.syncSeq + 1
      .next (loadSlot 1 31 .row (descOf (rowBase s) false true (brsEn s 1) 1 3 0 (leBytes 1 q.toNat)) (s1.onCan fun v => { v with syncSeq := q }))
    else .next s1
  else .next s

/-- Contexts of a node that are enabled. -/
def nodeCtxs (s : State) (n : Fin 32) : List (Fin 160) :=
  match s.impl.active with
  | some i => (List.finRange 160).filter fun k => k.val ≥ 96 && i.ctxOn k.val && i.ctxN k.val 18 5 == n.val
  | none => []

/-- ALL_OFF to every node, now: those that still wait for the last one first (R344). Marks: DEDUCED (log 80). -/
def startAllOff (s : State) : State :=
  if rowRuns s then
    sendAllOff (s.onCan fun v => { v with
      allOffAt := some s.pm, allOffWait := v.allOffWait ++ (List.range 32).filter fun n => !v.allOffWait.contains n })
  else s

/-- ALL_OFF_REPEAT. -/
def execAllOffRepeat (s : State) : Result :=
  if (s.sys.dev = .standby ∨ s.sys.dev = .safe) ∧ rowRuns s then
    match s.can.allOffAt with
    | some t => if t + 8000000 ≤ s.pm then .next (startAllOff s) else .next s
    | none => .next (startAllOff s)
  else .next s

/-- An event entry and a rate entry (R341). -/
def eventEntry (row : Nat) (on : Bool) (seq : Nat) (due : Tick) : List Byte :=
  leBytes 8 (row <<< 1 ||| b2n (!on) <<< 5 ||| seq <<< 8 ||| (due % 2 ^ 32) <<< 16)
def rateEntry (row rate speed : Nat) : List Byte := leBytes 8 (1 ||| row <<< 1 ||| satU 24 rate <<< 8 ||| satU 16 speed <<< 32)

/-- Two values differ by more than 1/256 of the one last sent. -/
def rateMoved (old new : Nat) : Bool := 256 * ((old : Int) - new).natAbs > old

/-- Rate and footprint speed of a remote context as FE has them: 0.01 unit per hectare, 1 mm/s (R341, R342). -/
def rowRateOf (s : State) (k : Fin 160) (host : Option Nat) : Nat × Nat :=
  match s.impl.active with
  | none => (0, 0)
  | some i =>
    let p := s.pos.pose
    let im := impactAt i p.est.fine p.angles k.val 80000
    let si := if turnComp s then footSpeed i p.est.fine p.angles k.val im else p.est.fine.speed
    (host.getD (s.fe.ctx[k].rate * bits (i.get 4 0) (64 * i.ctxN k.val 16 2 + 96) 32 * 100 / 65536), (si / 65536).toNat)

/-- The values last sent for a remote context, those on their way among them (R342). Marks: DEDUCED (log 80). -/
def lastRate (s : State) (j : Fin 64) : RowRate :=
  s.can.rowMsgs.foldl (fun (w : RowRate) m => match m.rates.find? fun p => p.1 == j with
    | some p => { rate := p.2.1, speed := p.2.2, at_ := some m.at_ }
    | none => w) s.can.rowRate[j]

/-- When a node was last sent a ROW_CMD, or one was loaded that is on its way (R342). Marks: DEDUCED (log 80). -/
def cmdAt (s : State) (n : Fin 32) : Tick :=
  s.can.rowMsgs.foldl (fun t m => if m.node = n.val then max t m.at_ else t) s.can.node[n].lastCmd

/-- The ROW_CMD of one node in a commit phase of edge `e`: the events that found no place are the second component
(R142, R143, R342); `acted` the DIRECTED records acted on before them. -/
def nodeCmd (e : Tick) (n : Fin 32) (acted : Nat → Option (Tick × Bool)) (evs : List Ev) (s : State) : State × List Ev :=
  let ks := nodeCtxs s n
  let mine := (evs.filter fun v => ks.any fun k => k.val == v.ctx).foldl (fun l v => insertBy Ev.due v l) []
  let i := s.impl.active
  let row (c : Nat) : Nat := match i with
    | some a => a.ctxN c 188 4
    | none => 0
  let taken := mine.take 7
  let rates := (ks.filterMap fun k =>
    match idx? 64 (k.val - 96) with
    | none => none
    | some j =>
      let last := lastRate s j
      let host := (mine.find? fun v => v.ctx == k.val && v.host).map (·.rate)
      let now := if s.sys.dev = .manual ∧ host.isNone then (last.rate, (rowRateOf s k none).2) else rowRateOf s k host
      let old := match last.at_ with
        | some t => decide (t + 8000000 ≤ s.pm)
        | none => true
      if rateMoved last.rate now.1 || rateMoved last.speed now.2 || old then some (j, now) else none).take (7 - taken.length)
  if taken = [] ∧ rates = [] ∧ (ks = [] ∨ s.pm < cmdAt s n + 8000000) then (s, mine)
  else match freeRowSlot s with
    | none => (if mine = [] then s else notice .fe 0x02 n.val [] s, mine)
    | some k =>
      let seq0 := s.can.node[n].seq
      let numbered := List.zip (List.range taken.length) taken
      let seqOf (j : Nat) : Nat := (seq0 + BitVec.ofNat 8 (j + 1)).toNat
      let es := numbered.map fun p => eventEntry (row p.2.ctx) p.2.on (seqOf p.1) p.2.due
      let rs := rates.map fun p => rateEntry (row (p.1.val + 96)) p.2.1 p.2.2
      let dl := match taken with
        | [] => 0
        | v :: _ => v.due - 4000
      let s1 := loadRowCmd k n e false dl (es ++ rs) rates s
      let s2 := modNode n (fun d => { d with seq := seq0 + BitVec.ofNat 8 taken.length }) s1
      let s3 := s2.onCan fun c => { c with
        rowEvents := c.rowEvents ++ numbered.map fun p =>
          { node := n.val, row := row p.2.ctx, ctx := p.2.ctx, seq := seqOf p.1, due := p.2.due, on := p.2.on, slot := some k.val
            cause := p.2.cause, acted := acted p.2.ctx } }
      (if mine.length > 7 then notice .fe 0x02 n.val [] s3 else s3, mine.drop 7)

/-- The row messages of a commit phase; the events left out are the second component. Marks: DEDUCED (log 80). -/
def rowCommands (e : Tick) (acted : Nat → Option (Tick × Bool)) (evs : List Ev) (s : State) : State × List Ev :=
  if !rowRuns s then (s, evs)
  else (List.finRange 32).foldl (fun (r : State × List Ev) n => let c := nodeCmd e n acted evs r.1; (c.1, r.2 ++ c.2)) (s, [])

/-- Latency with which a commanded edge of a remote context is placed (R170). -/
def rowLat (s : State) (ctx : Nat) (on : Bool) : Tick :=
  match idx? 160 ctx with
  | some i => latTicks s i (latKind (!on) false)
  | none => 0

/-- An event painted from its command (R346). -/
def commandedEdge (s : State) (r : RowEv) : Firing :=
  { pm := r.due + rowLat s r.ctx r.on, ctx := r.ctx, closing := !r.on, held := true }

/-- The full postmark of low 32 bits nearest to the device's (R341). -/
def fullPm (now low : Nat) : Tick :=
  let c := now / 2 ^ 32 * 2 ^ 32 + low
  if c > now + 2 ^ 31 then c - 2 ^ 32 else if c + 2 ^ 31 < now then c + 2 ^ 32 else c

/-- A remote start without motion, or with it (R213, R215). -/
def remoteMotion (i : Fin 160) (noSig : Bool) (s : State) : State :=
  if noSig then
    let run := s.vdr.lat[i].missRun + 1
    let s1 := modLat i (fun l => { l with missRun := min run 4, misses := incMod 32 l.misses 1, noMotion := l.noMotion || decide (run = 4) }) s
    if run = 4 then logFault 0x1F .vdr i.val reactReport 0 0x02 (notice .vdr 0x02 i.val [] s1) else s1
  else
    let s1 := modLat i (fun l => { l with missRun := 0, noMotion := false, openings := incMod 32 l.openings 1 }) s
    if s.vdr.lat[i].noMotion then endFault 0x1F i.val s1 else s1

/-- One entry of a report received at `at_`; after REPORT_WAIT its event is painted from its command (R345, R346).
Marks: DEDUCED (log 80). -/
def reportEntry (n : Fin 32) (at_ : Tick) (synced measures : Bool) (s : State) (b : Nat) : State :=
  match s.can.rowEvents.find? fun r => r.node == n.val && r.seq == bits b 40 8 && r.row == bits b 32 4 with
  | none => s
  | some r =>
    if !synced || !measures || decide (r.due + reportWait s ≤ at_) then s
    else
      let pm := fullPm s.pm (bits b 0 32)
      let noSig := bitN b 37
      let late := bitN b 38
      let s1 := (s.onCan fun v => { v with rowEvents := v.rowEvents.filter (· != r) }).onFe fun f => { f with
        remote := f.remote ++ [{ pm := if noSig then r.due else pm, ctx := r.ctx, closing := !r.on, noSig := noSig, latency := pm - r.due }] }
      match idx? 160 r.ctx with
      | none => s1
      | some i =>
        let s2 := if r.on then remoteMotion i noSig s1 else s1
        if noSig || late then s2 else learn i (latKind (!r.on) false) (pm - r.due) s2

/-- A node's report held in its pigeonhole (R345, R346). Marks: DEDUCED (log 80). -/
def takeReport (n : Fin 32) (s : State) : State :=
  let p := holeAt s.can.ctl[(1 : Fin 3)] (224 + n.val)
  if !bitN p.record.toNat 101 then s
  else
    let r := readHole 1 (224 + n.val) s
    let d := bits r.1 160 512
    let synced := bitN d 12
    let measures := bitN d 13
    let fault := bitN d 14
    let s1 := modNode n (fun m => { m with synced := synced, measures := measures, fault := fault, seen := true, lost := false,
                                           lastReport := bits r.1 0 64, rowOn := BitVec.ofNat 16 (bits d 16 16) }) r.2
    let s2 := if fault && !s.can.node[n].fault then logFault 0x1F .can n.val reactReport 0 0 s1
      else if !fault && s.can.node[n].fault then endFault 0x1F n.val s1 else s1
    ((List.range (min 7 (bits d 8 4))).map fun j => bits d (64 + 64 * j) 64).foldl (reportEntry n (bits r.1 0 64) synced measures) s2

/-- Events to be painted from their commands: `late` past REPORT_WAIT, or due on a node that does not measure (R346). -/
def commandUnreported (e : Tick) (s : State) : State :=
  let hit (r : RowEv) : Bool := r.slot.isNone && (match idx? 32 r.node with
    | some n => decide (r.due + reportWait s ≤ e) || (decide (r.due ≤ e) && s.can.node[n].seen && !(s.can.node[n].synced && s.can.node[n].measures))
    | none => true)
  let out := s.can.rowEvents.filter hit
  (s.onCan fun v => { v with rowEvents := v.rowEvents.filter fun r => !hit r }).onFe fun f =>
    { f with remote := f.remote ++ out.map (commandedEdge s) }

/-- The reports held in the pigeonholes are taken (R346). -/
def takeReports (s : State) : State := (List.finRange 32).foldl (fun u n => takeReport n u) s

/-- REPORT_WAIT_EXPIRY: what a report held says goes first. -/
def execReportWaitExpiry (s : State) : Result :=
  if rowEn s ∧ s.can.rowEvents.any (fun r => r.slot.isNone && decide (r.due + reportWait s ≤ s.pm)) then
    .next (commandUnreported s.pm (takeReports s))
  else .next s

/-- ROW_NODE_LOST: no report for ROW_TIMEOUT; the node's rows are off from then and its runs end there (R346). -/
def execRowNodeLost (n : Fin 32) (s0 : State) : Result :=
  let s := if rowRuns s0 then takeReport n s0 else s0
  let d := s.can.node[n]
  let t := d.lastReport + rowTimeout s
  if rowRuns s ∧ d.seen ∧ !d.lost ∧ t ≤ s.pm then
    let s1 := canNote 1 0x09 n.val [] (modNode n (fun m => { m with lost := true, rowOn := 0 }) s)
    .next ((nodeCtxs s n).foldl (fun u k => u.onFe fun f => { f with
      ctx := vmod f.ctx k fun x => { x with sched := false }
      remote := if f.ctx[k].runFrom.isSome then f.remote ++ [{ pm := t, ctx := k.val, closing := true, held := true }] else f.remote }) s1)
  else .next s0

/-- Slots that hold a ROW_CMD still to be sent. -/
def rowWaiting (s : State) : List (Fin 32) :=
  (List.finRange 32).filter fun k => k.val ≠ 31 && s.can.ctl[(1 : Fin 3)].slots[k].owner == .row && s.can.ctl[(1 : Fin 3)].slots[k].st == .pending

/-- In the ROW_BUS grace window the ROW_CMD messages that wait cannot be sent: they end as expired (R343, R429).
Marks: DEDUCED (log 80). -/
def expireInGrace (s : State) : State :=
  if s.can.graceFrom.isSome then (rowWaiting s).foldl (fun t k => endSlot 1 k .expired 0 t) s else s

/-- A failed event was never committed (R343): where no later event of its context was sent and no earlier one failed, its
context stands as before it, and still wants it of its cause. -/
def uncommit (s : State) (r : RowEv) (u : State) : State :=
  let first : Bool := !(s.can.rowEvents.any fun q => q.ctx == r.ctx && decide (r.due ≤ q.due))
    && !(s.can.failed.any fun q => q.ctx == r.ctx && decide (q.due < r.due) && !(s.can.rowEvents.any fun p => p.ctx == r.ctx && decide (q.due ≤ p.due)))
  match idx? 160 r.ctx with
  | some k => if first then
      u.onFe fun f => { f with ctx := vmod f.ctx k fun x => { x with sched := !r.on, acted := r.acted, wants := some r.cause } }
    else u
  | none => u

/-- Row traffic at the freeze of edge `e`: messages not delivered, reports, unreported events (R343, R346, R429). -/
def rowFreeze (e : Tick) (s0 : State) : State :=
  if !rowEn s0 then s0
  else
    let s := expireInGrace s0
    let s1 := s.can.failed.foldl (fun u r => uncommit s r u) (s.onCan fun v => { v with failed := [] })
    commandUnreported e (takeReports s1)

/-! ### Bus commands (R395) -/

/-- CTRL of a bus command. -/
def ctlOf (e : Env) : Option (Fin 3) := idx? 3 (arg e 0 2)

/-- CAN_PH_CONFIG. -/
def opCanPhConfig (e : Env) (s : State) : State × Answer :=
  match ctlOf e with
  | none => deny .badParam s
  | some x =>
    match firstBad [
        (arg e 2 6 != 0 || arg e 16 16 != 0 || arg e 93 3 != 0, .badParam),
        (phReserved s x (arg e 8 8), .state)] with
    | some st => deny st s
    | none => doneEdge s (waitEdge 0x0900 e [.canFilter x (arg e 8 8) (BitVec.ofNat 64 (arg e 32 64))] s)

/-- A filter takes effect at edge `e`. -/
def applyFilter (x : Fin 3) (k : Nat) (w : BitVec 64) (e : Tick) (s : State) : State :=
  modCtl x (fun c => let p := holeAt c k; putHole { p with prev := p.filter, filter := w, since := e } c) s

/-- CAN_RX_READ. Marks: DEDUCED (log 78). -/
def opCanRxRead (e : Env) (s : State) : State × Answer :=
  match ctlOf e with
  | none => deny .badParam s
  | some x => if arg e 2 6 ≠ 0 then deny .badParam s else (let r := hostRead x (arg e 8 8) s; doneWith (leBytes 84 r.1) r.2)

/-- CAN_TX. Marks: DEDUCED (log 78). -/
def opCanTx (e : Env) (s : State) : State × Answer :=
  match ctlOf e with
  | none => deny .badParam s
  | some x =>
    let d := arg e 32 640
    let k : Fin 32 := ⟨arg e 8 5 % 32, Nat.mod_lt _ (by decide)⟩
    match firstBad [
        (arg e 2 6 != 0 || arg e 13 19 != 0 || bits d 41 23 != 0, .badParam),
        ((bitN d 30 && !fdEn s x) || (bits d 32 4 > 8 && !bitN d 30), .badParam),
        (slotReserved s x k.val || !canEnable s x || listen s x, .state),
        (s.can.ctl[x].slots[k].st != .free, .busy)] with
    | some st => deny st s
    | none => done (loadSlot x k .host d s)

/-- CAN_TX_ABORT. -/
def opCanTxAbort (e : Env) (s : State) : State × Answer :=
  match ctlOf e with
  | none => deny .badParam s
  | some x =>
    let k : Fin 32 := ⟨arg e 8 5 % 32, Nat.mod_lt _ (by decide)⟩
    if arg e 2 6 ≠ 0 ∨ arg e 13 3 ≠ 0 then deny .badParam s
    else match s.can.ctl[x].slots[k].st with
      | .free => deny .state s
      | .pending => done (endSlot x k .aborted 0 s)
      | .active => done (modSlot x k (fun l => { l with aborting := true }) s)

/-- CAN_RECOVER. -/
def opCanRecover (e : Env) (s : State) : State × Answer :=
  match ctlOf e with
  | none => deny .badParam s
  | some x =>
    if arg e 2 6 ≠ 0 then deny .badParam s
    else if s.can.ctl[x].st = .busOff ∧ !busoffAuto s x then done (modCtl x (fun c => { c with st := .recovering, busOffAt := s.pm }) s)
    else deny .state s

/-! ### Commit checks (R325, R327, R351) -/

/-- Conditions between fields of a PB.CAN image: the timing limits (RANGE), then FD use (BAD_PARAM). -/
def canCheck (p : Params) : Option Status :=
  let f (x lo w : Nat) : Nat := p.fld .can (256 * x + lo) w
  let nom (x : Nat) : Nat := f x 8 6 * (1 + f x 16 9 + f x 32 7)
  let dat (x : Nat) : Nat := f x 48 6 * (1 + f x 56 6 + f x 64 5)
  let bad := (List.range 3).any fun x =>
    nom x < 80 || (x == 0 && nom x > 8000) || (x != 0 && (dat x < 10 || dat x > nom x)) || f x 40 7 > f x 32 7 || f x 72 5 > f x 64 5
  if bad then some .range
  else if p.flag .can 1 || (p.flag .can 777 && !p.flag .can 257) then some .badParam
  else none

/-- CAN status (R396). -/
def canStatus (s : State) (x : Fin 3) : List Byte :=
  let c := s.can.ctl[x]
  let st := match c.st with
    | .active => 0 | .warning => 1 | .passive => 2 | .busOff => 3 | .recovering => 4 | .offBus => 5
  let count (t : SlotState) : Nat := vcount c.slots fun l => l.st == t
  let nodes (p : Node → Bool) : Nat := if x = 1 then bitWord 32 fun k => match idx? 32 k with
    | some n => p s.can.node[n]
    | none => false else 0
  leBytes 4 (st ||| c.tec <<< 8 ||| c.rec_ <<< 24)
  ++ leBytes 4 (c.tdcv ||| b2n c.tdcSat <<< 7 ||| count .free <<< 8 ||| count .pending <<< 14 ||| count .active <<< 20)
  ++ leBytes 4 c.unmatched.toNat ++ leBytes 4 (if x = 0 then s.can.addr else 0)
  ++ leBytes 4 (nodes (·.synced)) ++ leBytes 4 (nodes fun n => n.seen && !n.lost)

end Sys2Proof.Machine
end

