-- ==== Sys2Proof/Machine/Time.lean ====
section
/-! DEFINITION. Device time: the GNSS time model, TIME states, PPS, steps, the TCXO model, and the time requests (02,
R319, R393). A slew or a step changes only the model (R48); the notices are those of R50. -/

namespace Sys2Proof.Machine

/-- A GNSS week in ps. -/
def weekPs : Nat := 604800000000000000

/-! ### The model (R38) -/

/-- Converted time of a postmark in ps since week 0. -/
def TimeModel.total (m : TimeModel) (pm : Tick) : Int :=
  let ns : Int := ((pm : Int) - m.refPm) * 12500
  (m.week * weekPs + m.tow : Nat) + ns + ns * (m.rate + m.slew) / (2 ^ 40 : Nat)

/-- The same model anchored at a postmark with another rate and slew (R39). -/
def TimeModel.reanchor (m : TimeModel) (pm : Tick) (rate slew : Int) : TimeModel :=
  let t := (m.total pm).toNat
  { refPm := pm, tow := t % weekPs, week := t / weekPs, rate := rate, slew := slew }

/-- The tick whose converted time is nearest `target`, the earlier of two as near (R43). Marks: DEDUCED (log 29). -/
def TimeModel.tickOf (m : TimeModel) (target : Int) : Tick :=
  let d := (target - (m.week * weekPs + m.tow : Nat)) * (2 ^ 40 : Nat) / (12500 * ((2 ^ 40 : Nat) + m.rate + m.slew))
  let base := ((m.refPm : Int) + d).toNat
  let dist (t : Tick) : Nat := (m.total t - target).natAbs
  ([base - 1, base, base + 1, base + 2].foldl (fun b t => if dist t < dist b then t else b) (base - 2))

/-- The latest multiple of `unit` ps that falls on a tick at or before `pm`, with its tick. -/
def TimeModel.latest (m : TimeModel) (unit : Nat) (pm : Tick) : Nat × Tick :=
  let k := (m.total pm).toNat / unit
  let t := m.tickOf ((k + 1) * unit : Nat)
  if t ≤ pm then (k + 1, t) else (k, m.tickOf (k * unit : Nat))

/-- The first multiple of `unit` ps whose tick is at or after `pm`. -/
def TimeModel.first (m : TimeModel) (unit : Nat) (pm : Tick) : Nat × Tick :=
  let k := (m.total pm).toNat / unit
  let t := m.tickOf (k * unit : Nat)
  if pm ≤ t then (k, t) else (k + 1, m.tickOf ((k + 1) * unit : Nat))

def second : Nat := 1000000000000

def TimeModel.bytes (m : TimeModel) : List Byte :=
  leBytes 8 m.refPm ++ leBytes 8 m.tow ++ leBytes 2 m.week ++ leBytes 2 0 ++ leBytes 4 (uint 32 m.rate) ++ leBytes 4 (uint 32 m.slew)
    ++ leBytes 4 0

/-! ### States (R40) -/

def tCode : TState → Nat
  | .unset => 0 | .locked => 1 | .holdover => 2 | .free => 3

/-- A TIME_MODEL record (R179, R180). -/
def logModel (step : Bool) (stepPs : Int) (s : State) : State :=
  let m := s.time.model
  writeLog (logRecord 0x03 0 (b2n step) m.refPm (m.tow ||| m.week <<< 64 ||| uint 64 stepPs <<< 96)) s

/-- A change of TIME state, with its notice; every entry to LOCKED is logged. -/
def setTState (t : TState) (pm : Tick) (s : State) : State :=
  if s.time.st = t then s
  else
    let s1 := noticeAt .time 0x03 0xFFFF pm (leBytes 4 (tCode s.time.st ||| tCode t <<< 2)) (s.onTime fun v => { v with st := t })
    if t = .locked then logModel false 0 s1 else s1

def stepGate (s : State) : Bool := s.act.flag .time 51
def ppsEnable (s : State) : Bool := s.act.flag .time 48
def ppsLow (s : State) : Bool := s.act.flag .time 49
def ppsFree (s : State) : Bool := s.act.flag .time 50
def ppsWidth (s : State) : Tick := 800 * s.act.fld .time 32 16
def holdoverLimit (s : State) : Tick := msTicks (s.act.fld .time 0 32)

/-- UNCAL (R41): 20 min LOCKED in total, with a baseplate span of 10 K. -/
def Tcxo.uncal (t : Tcxo) : Bool :=
  match t.minT, t.maxT with
  | some lo, some hi => t.learned < 96000000000 || hi - lo < 100
  | _, _ => true

/-- Time from the last accepted epoch to postmark `pm`, 1 ms; 0 when LOCKED or before the first. -/
def holdoverMsAt (s : State) (pm : Tick) : Nat :=
  match s.time.st with
  | .holdover | .free => (pm - s.time.lastGood) / 80000
  | _ => 0

/-- HOLDOVER_MS now. -/
def holdoverMs (s : State) : Nat := holdoverMsAt s s.pm

/-- SLEW that removes a remaining error of `e` ps (R45). Marks: DEDUCED (log 29). -/
def slewFor (e : Int) : Int := if e.natAbs ≤ 1000 then 0 else clampI (-109951) 109951 ((-e * (2 ^ 40 : Nat)).tdiv second)

/-- Pulses may start again 100 ms after an acceptance that ended UNSET, or FREE without PPS_FREE (R42); the acceptance
is the tick the epoch is taken on. Marks: DESIGN CHOICE (log 88). -/
def restartPps (s0 s : State) : State :=
  if s0.time.st = .unset ∨ (s0.time.st = .free ∧ !ppsFree s0) then s.onTime fun v => { v with ppsFrom := s.pm + 8000000 } else s

/-- PD0's real-time clock follows an accepted solution. -/
def setRtc (s : State) : State :=
  s.onPd0 fun d => { d with rtc := some ((s.time.model.total s.pm).toNat / 1000000000, d.now) }

/-- A clock solution is accepted at epoch `pm`: `sol` is its GNSS time in ps since week 0 (R40, R45 to R47). The
return error is taken at the epoch; the postmark of acceptance is the tick the epoch is taken on. While a step that
nothing holds waits, a further return error above 1 µs changes nothing; a SLEW that has come to 0 stays 0 until the
next return. Marks: DESIGN CHOICE (log 88). -/
def acceptClock (pm : Tick) (sol : Nat) (drift : Int) (s : State) : State :=
  let s1 := s.onTime fun v => { v with lastGood := pm }
  let good : TimeModel := { refPm := pm, tow := sol % weekPs, week := sol / weekPs, rate := drift, slew := 0 }
  let e := s.time.model.total pm - sol
  match s.time.st with
  | .unset => setRtc (restartPps s (setTState .locked s.pm (s1.onTime fun v => { v with model := good })))
  | .locked => setRtc (s1.onTime fun v => { v with model := v.model.reanchor pm drift (if v.model.slew = 0 then 0 else slewFor e) })
  | _ =>
    if e.natAbs ≤ 1000000 then
      setRtc (restartPps s (setTState .locked s.pm (s1.onTime fun v => { v with model := v.model.reanchor pm drift (slewFor e), step := none })))
    else
      let keep := match s.time.step with
        | some st => !st.held
        | none => false
      if keep then s
      else
        let st : Step := { err := e, model := good, held := stepGate s, earliest := s.pm + 8000000 }
        noticeNow .time 0x04 0xFFFF s.pm (leBytes 8 (uint 64 (-e)) ++ leBytes 8 (b2n st.held)) (s1.onTime fun v => { v with
          step := some st, lastGood := s.time.lastGood })

/-- Valid clock estimates in a row with one at `pm`; they count as 100 ms apart while they are no more than 9,000,000
ticks apart (R40). Marks: DESIGN CHOICE (log 88). -/
def validRun (pm : Tick) (s : State) : Nat :=
  if s.time.goodEpochs ≠ 0 ∧ pm ≤ s.time.lastValid + 9000000 then s.time.goodEpochs + 1 else 1

/-- A measurement epoch at `pm` reaches TIME: three valid estimates in a row, 100 ms apart, are a clock solution
unless a clock consistency anomaly bars it, in which case the next without one completes the run (R40, R71); after
HOLDOVER or FREE a run determines one return error. In LOCKED a valid estimate carries the solution on after a lost
set too, so that a single one never starts holdover. A valid estimate brings the model's error with it. `sol` is the
solution in ps since week 0. Marks: DESIGN CHOICE (log 30), DESIGN CHOICE (log 88). -/
def timeEpoch (pm : Tick) (m : EpochIn) (sol : Nat) (barred : Bool) (s : State) : State :=
  if m.clockValid then
    let run := validRun pm s
    let s1 := s.onTime fun v => { v with errNs := m.errNs, goodEpochs := if barred then min run 2 else run, lastValid := pm }
    if barred then s1
    else
      let s2 := s1.onTime fun v => { v with lastClear := pm }
      if s.time.st = .locked ∨ (if s.time.st = .unset then run ≥ 3 else run = 3) then acceptClock pm sol m.clkDrift s2 else s2
  else s.onTime fun v => { v with goodEpochs := 0 }

/-- HOLDOVER_ENTRY: 250 ms without a clock solution (R40). -/
def execHoldoverEntry (s : State) : Result :=
  if s.time.st = .locked ∧ s.time.lastGood + 20000000 ≤ s.pm then .next (setTState .holdover (s.time.lastGood + 20000000) s) else .next s

/-- HOLDOVER_LIMIT_EXPIRY: the window [L, L + HOLDOVER_LIMIT) closes (R40). -/
def execHoldoverLimitExpiry (s : State) : Result :=
  if s.time.st = .holdover ∧ s.time.lastGood + holdoverLimit s ≤ s.pm then
    .next (setTState .free (s.time.lastGood + holdoverLimit s) s)
  else .next s

/-! ### PPS (R42 to R47) -/

/-- PPS_OUT goes inactive (R42). -/
def ppsInactive (s : State) : State := s.onTime fun v => { v with ppsOut := false }

/-- PB.TIME: PPS_ENABLE = 0 holds PPS_OUT inactive; another change waits for the next leading edge (R42, R43). -/
def commitTime (s : State) : State := if ppsEnable s then s else ppsInactive s

/-- Pulses are emitted in this state (R42). -/
def ppsRuns (s : State) : Bool :=
  ppsEnable s && (match s.sys.dev with
    | .off | .start | .quarantine | .latched => false
    | _ => true) &&
  (match s.time.st with
    | .locked | .holdover => true
    | .free => ppsFree s
    | .unset => false)

/-- The time message of a pulse (R44). -/
def timeMessage (s : State) (sec : Nat) (tick : Tick) (stepPs : Int) : List Byte :=
  let v := s.time
  let q := v.model.total tick - (sec * second : Nat)
  let flags := tCode v.st ||| b2n (stepPs != 0) <<< 2 ||| b2n v.step.isSome <<< 3 ||| b2n (v.model.slew != 0) <<< 4
    ||| b2n s.pd0.tcxo.uncal <<< 5 ||| b2n v.leapValid <<< 6 ||| b2n (bits s.gnss.anom.toNat 6 3 != 0) <<< 7
  leBytes 8 tick ++ leBytes 4 (sec % 604800) ++ leBytes 2 (sec / 604800) ++ leBytes 2 flags ++ leBytes 2 (uint 16 q)
    ++ leBytes 1 (uint 8 v.leap) ++ leBytes 1 0 ++ leBytes 4 v.errNs.toNat ++ leBytes 4 (uint 32 v.model.rate)
    ++ leBytes 4 (holdoverMsAt s tick) ++ leBytes 8 (uint 64 stepPs) ++ leBytes 4 v.pulses.toNat

/-- A pulse for whole second `sec` on `tick`; PULSE_COUNT of its message counts it (R44). Marks: DESIGN CHOICE (log
88). -/
def emitPulse (sec : Nat) (tick : Tick) (stepPs : Int) (s : State) : State :=
  let s1 := s.onTime fun v => { v with ppsOut := true, ppsLow := ppsLow s, ppsEnd := tick + ppsWidth s, ppsSec := some sec,
                                       pulses := v.pulses + 1 }
  s1.onTime fun v => { v with msgs := v.msgs ++ [{ pm := tick, bytes := timeMessage s1 sec tick stepPs }] }

/-- The stepped pulse's second and tick: the first whole second of the corrected model at or after the earliest
postmark (R46). Marks: DEDUCED (log 29). -/
def stepPulse (st : Step) : Nat × Tick := st.model.first second st.earliest

/-- PPS_PULSE: the leading edge of a whole second, or the pulse a step takes effect with (R42, R43, R46); the old
model places no pulse of the stepped second or of a later one. From the step on, the last accepted epoch is the last
valid one that came while it waited. Marks: DEDUCED (log 2), DEDUCED (log 29), DESIGN CHOICE (log 88). -/
def execPpsPulse (s : State) : Result :=
  let go (sec : Nat) (t : Tick) : Bool :=
    decide (s.time.ppsFrom ≤ t) && (match s.time.ppsSec with
      | some p => decide (p < sec)
      | none => true)
  let old := s.time.model.latest second s.pm
  let plain (s : State) : Result := if ppsRuns s && go old.1 old.2 then .next (emitPulse old.1 old.2 0 s) else .next s
  match s.time.step with
  | none => plain s
  | some st =>
    if st.held then plain s
    else
      let p := stepPulse st
      if p.2 ≤ s.pm then
        let s1 := setTState .locked p.2 (s.onTime fun v => { v with
          model := st.model, step := none, lastGood := max st.model.refPm v.lastClear })
        let s2 := logModel true (-st.err) s1
        let s3 := noticeNow .time 0x02 0xFFFF p.2 (leBytes 8 p.2 ++ leBytes 8 (uint 64 (-st.err))) s2
        .next (setRtc (if ppsRuns s3 then emitPulse p.1 p.2 (-st.err) s3 else s3))
      else if old.1 < p.1 then plain s else .next s

/-- PPS_PULSE_END: PPS_WIDTH after the leading edge. -/
def execPpsPulseEnd (s : State) : Result :=
  if s.time.ppsOut ∧ s.time.ppsEnd ≤ s.pm then .next (s.onTime fun v => { v with ppsOut := false }) else .next s

/-- Time messages of the pulses up to the logging phase that begins at `t` (R44). -/
def sendTimeMessages (t : Tick) (s : State) : State :=
  let out := s.time.msgs.filter fun m => m.pm ≤ t
  out.foldl (fun u m => noticeNow .time 0x01 0xFFFF m.pm m.bytes u) (s.onTime fun v => { v with msgs := v.msgs.filter fun m => decide (t < m.pm) })

/-! ### The TCXO model (R319, R41) -/

/-- Bin of a temperature in 0.1 °C. -/
def tcxoBin (t : Int) : Option (Fin 192) := let k := t / 10 + 50; if k < 0 then none else idx? 192 k.toNat

/-- The mean of a bin's drifts; 0 while it is empty. -/
def binMean (b : Int × Nat) : Int := b.1.tdiv b.2

/-- One epoch's drift is learned at the present TCXO temperature while LOCKED. -/
def learnDrift (drift : Int) (s : State) : State :=
  match s.time.st, tcxoBin s.time.tcxoTemp with
  | .locked, some k => s.onPd0 fun d => { d with tcxo := { d.tcxo with
      age := Config.ageFit d.tcxo.age d.now (drift - binMean d.tcxo.bins[k]), bins := vmod d.tcxo.bins k fun b => (b.1 + drift, b.2 + 1) } }
  | _, _ => s

/-- The filled bins: the middle of each in 0.1 °C, and its mean. -/
def Tcxo.points (m : Tcxo) : List (Int × Int) :=
  (List.finRange 192).filterMap fun k => if m.bins[k].2 = 0 then none else some (10 * ((k.val : Int) - 50) + 5, binMean m.bins[k])

/-- Linear interpolation between points in order of temperature; none beyond them. -/
def betweenPoints (x : Int) : List (Int × Int) → Option Int
  | [] => none
  | [(a, u)] => if x = a then some u else none
  | (a, u) :: (b, w) :: l => if a ≤ x ∧ x ≤ b then some (u + ((w - u) * (x - a)).tdiv (b - a)) else betweenPoints x ((b, w) :: l)

/-- RATE the model gives at a temperature in 0.1 °C and PD0 time `now`: interpolated between the filled bins, from the cubic
fit beyond them, with the ageing term (R319). -/
def Tcxo.rateAt (m : Tcxo) (now : Nat) (x : Int) : Int :=
  (betweenPoints x m.points).getD (Config.cubicFit m.points x) + Config.ageTerm m.age now

/-- TCXO_TEMP_UPDATE: the 100 ms mean. LOCKED time and the baseplate span count towards UNCAL; in HOLDOVER RATE follows the
model, the anchor moves, and no offset is being removed: SLEW is 0 (R38, R39, R41, R319). -/
def execTcxoTempUpdate (t : Int) (s : State) : Result :=
  let s1 := s.onTime fun v => { v with tcxoTemp := t }
  match s.time.st with
  | .locked =>
    let b := s.ths.zone[(9 : Fin 10)].temp
    .next (s1.onPd0 fun d => { d with tcxo := { d.tcxo with
      learned := d.tcxo.learned + 8000000
      minT := some (min b (d.tcxo.minT.getD b))
      maxT := some (max b (d.tcxo.maxT.getD b)) } })
  | .holdover => .next (s1.onTime fun v => { v with model := v.model.reanchor s.pm (s.pd0.tcxo.rateAt s.pd0.now t) 0 })
  | _ => .next s1

/-- The TCXO model is cleared (R321); the operation of TCXO_CLEAR and of a commit of PB.THS that sets it. -/
def clearTcxo (s : State) : State := s.onPd0 fun d => { d with tcxo := {} }

/-! ### Requests (R49, R393) -/

def opTimeGet (e : Env) (s : State) : State × Answer :=
  doneWith (leBytes 8 e.firstPm ++ s.time.model.bytes
    ++ leBytes 4 (tCode s.time.st ||| b2n s.time.step.isSome <<< 2 ||| b2n s.pd0.tcxo.uncal <<< 3) ++ leBytes 4 (holdoverMs s)) s

def opTimeStepConfirm (e : Env) (s : State) : State × Answer :=
  match s.time.step with
  | some st =>
    if !st.held then deny .state s
    else if argS e 0 64 ≠ -st.err then deny .badParam s
    else done (s.onTime fun v => { v with step := some { st with held := false, earliest := s.pm + 8000000 } })
  | none => deny .state s

end Sys2Proof.Machine
end

