-- ==== Sys2Proof/Machine/Gnss.lean ====
section
/-! DEFINITION. The GNSS receiver: antenna, acquisition, tracking, LNAV data, measurement epochs, consistency checks,
RTCM corrections, and its requests (03). The notices are those of R77; the RF front end of R51 reaches the model only
as the measurements of its commands. -/

namespace Sys2Proof.Machine

def modChan (c : Fin 24) (f : GChan → GChan) (s : State) : State := s.onGnss fun v => { v with chan := vmod v.chan c f }
def modEph (p : Fin 32) (f : Eph → Eph) (s : State) : State := s.onGnss fun v => { v with eph := vmod v.eph p f }
def allChan : List (Fin 24) := List.finRange 24

/-- The receiver runs: its domain is powered and the baseband is not restarting. Marks: DEDUCED (log 70). -/
def gnssRuns (s : State) : Bool :=
  (match s.sys.dev with
   | .standby | .armed | .manual | .coast | .safe => true
   | .start => s.pwr.domains.getLsbD 8 && s.pwr.domains.getLsbD 6
   | _ => false) && !s.restarting .gnss

def antBias (s : State) : Nat := s.act.fld .gnss 0 2
def antOpenMa (s : State) : Nat := s.act.fld .gnss 8 8
def antShortMa (s : State) : Nat := s.act.fld .gnss 16 8
def dllSpacing (s : State) : Nat := s.act.fld .gnss 24 6
def elevMask (s : State) : Int := 100 * s.act.fld .gnss 56 8
def cn0Mask (s : State) : Nat := s.act.fld .gnss 64 8
def pllBw (s : State) : Nat := s.act.fld .gnss 32 8
def dllBw (s : State) : Nat := s.act.fld .gnss 40 8
def acqNc (s : State) : Nat := s.act.fld .gnss 48 8
def rtcmMaxAge (s : State) : Nat := 1000 * s.act.fld .gnss 72 8
def anomExclude (s : State) : Bool := s.act.flag .gnss 80
def prnDisabled (s : State) (p : Fin 32) : Bool := s.act.flag .gnss (96 + p.val)

/-! ### Antenna (R52) -/

/-- ANT_OPEN: the current has been below the threshold, or at or above it + 1 mA, for 100 ms. -/
def execAntOpen (ma : Nat) (s : State) : Result :=
  let s1 := s.onGnss fun v => { v with antMa := ma }
  let body (b : Nat) := leBytes 1 b ++ leBytes 1 (min ma 255) ++ leBytes 2 0
  if antBias s ≠ 0 ∧ !s.gnss.antOpen ∧ ma < antOpenMa s then
    .next (notice .gnss 0x01 0xFFFF (body 1) (s1.onGnss fun v => { v with antOpen := true }))
  else if s.gnss.antOpen ∧ ma ≥ antOpenMa s + 1 then
    .next (notice .gnss 0x01 0xFFFF (body 0) (s1.onGnss fun v => { v with antOpen := false }))
  else .next s1

def shortBody (set : Bool) (retries ma : Nat) : List Byte :=
  leBytes 1 (b2n set ||| min retries 127 <<< 1) ++ leBytes 1 (min ma 255) ++ leBytes 2 0

/-- ANT_SHORT: above the threshold for 1 ms, the bias goes off and is retried 1 s later. -/
def execAntShort (ma : Nat) (s : State) : Result :=
  let s1 := s.onGnss fun v => { v with antMa := ma }
  if antBias s ≠ 0 ∧ s.gnss.bias ∧ ma > antShortMa s then
    .next (notice .gnss 0x02 0xFFFF (shortBody true 0 ma) (s1.onGnss fun v => { v with
      bias := false, antShort := true, antRetries := 0, antRetryAt := s.pm + 80000000 }))
  else .next s1

/-- The bias is on RF_IN: switched on, or tried again after a short (R52). -/
def biasDriven (s : State) : Bool :=
  antBias s != 0 && (s.gnss.bias || (s.gnss.antShort && decide (s.gnss.antRetryAt ≤ s.pm)))

/-- ANT_BIAS_RETRY: the bias on since the retry began, the retry succeeds with 100 ms at or below the threshold; 1 ms
above it switches the bias off again, with a notice, and after three failures in a row the interval is 10 s (R52). -/
def execAntBiasRetry (ma : Nat) (s : State) : Result :=
  let v := s.gnss
  if antBias s ≠ 0 ∧ v.antShort ∧ !v.bias ∧ v.antRetryAt ≤ s.pm then
    if ma ≤ antShortMa s then
      if s.pm < v.antRetryAt + 8000000 then .next (s.onGnss fun v => { v with antMa := ma })
      else .next (notice .gnss 0x02 0xFFFF (shortBody false 0 ma) (s.onGnss fun v => { v with
        bias := true, antShort := false, antRetries := 0, antMa := ma }))
    else if s.pm < v.antRetryAt + 80000 then .next (s.onGnss fun v => { v with antMa := ma })
    else
      let n := v.antRetries + 1
      .next (notice .gnss 0x02 0xFFFF (shortBody true n ma) (s.onGnss fun v => { v with
        antRetries := n, antMa := ma, antRetryAt := s.pm + if n ≥ 3 then 800000000 else 80000000 }))
  else .next s

/-! ### Channels (R55, R58, R60, R62) -/

/-- A channel in this stage tracks a signal of its own. -/
def ChanStage.tracks : ChanStage → Bool
  | .fll | .pll | .tracking => true
  | .free | .monitor => false

/-- The channel on which a PRN is tracked, its second signal only where no other is (R58). -/
def tracked (s : State) (p : Fin 32) : Option (Fin 24) :=
  let on (c : Fin 24) : Bool := s.gnss.chan[c].stage.tracks && s.gnss.chan[c].prn == p
  (allChan.find? fun c => on c && !s.gnss.chan[c].duplicate).or (allChan.find? on)

/-- The monitor of a PRN (R62). -/
def monitorOf (s : State) (p : Fin 32) : Option (Fin 24) :=
  allChan.find? fun c => s.gnss.chan[c].stage == .monitor && s.gnss.chan[c].prn == p

/-- Elevation of a PRN as its channel last measured it, 0.01°. -/
def elevOf (s : State) (p : Fin 32) : Int :=
  match tracked s p with
  | some c => s.gnss.chan[c].elev
  | none => -9000

/-- A channel for a new signal: a free one, else the monitor whose PRN stands highest (R58, R62). -/
def roomFor (s : State) : Option (Fin 24) :=
  (allChan.find? fun c => s.gnss.chan[c].stage == .free).or
    ((allChan.filter fun c => s.gnss.chan[c].stage == .monitor).foldl (fun o c => match o with
      | some b => if elevOf s s.gnss.chan[b].prn < elevOf s s.gnss.chan[c].prn then some c else some b
      | none => some c) none)

/-- PRNs tracked with an accepted ephemeris. -/
def trackedValid (s : State) : Nat :=
  (allChan.filter fun c => s.gnss.chan[c].stage.tracks && !s.gnss.chan[c].duplicate && s.gnss.eph[s.gnss.chan[c].prn].valid).length

/-- A verified signal goes to a channel, in FLL pull-in, with its code phase and its Doppler bin; its search is over (R55,
R60). -/
def handOff (c : Fin 24) (v : Search) (dup : Bool) (s : State) : State :=
  (modChan c (fun _ => { prn := v.prn, stage := .fll, since := s.pm, code := v.code, doppler := 1000 * v.bin,
                         duplicate := dup }) s).onGnss
    fun g => { g with firstHandoff := some (g.firstHandoff.getD s.pm), reacq := g.reacq.filter fun r => r.prn != v.prn,
                      search := g.search.filter fun r => r.1 != v.prn }

/-- A detection lies within 2 Hz modulo 1 kHz of a tracked satellite and at least 20 dB below it (R58). -/
def crossCorrelates (v : Search) (cn0 : Nat) (s : State) : Bool :=
  allChan.any fun c =>
    let h := s.gnss.chan[c]
    let d := (1000 * v.doppler - h.doppler) % 1000000
    h.stage.tracks && (decide (d ≤ 2000) || decide (998000 ≤ d)) && decide (cn0 + 80 ≤ h.cn0)

/-- A verified detection: cross-correlation, a second signal of a tracked PRN, or a new satellite (R58). Marks: DESIGN
CHOICE (log 32). -/
def takeVerified (v : Search) (cn0 : Nat) (s : State) : State :=
  if crossCorrelates v cn0 s then s.onGnss fun g => { g with xcorr := g.xcorr + 1 }
  else match tracked s v.prn with
    | none => match roomFor s with
      | some c => handOff c v false s
      | none => s
    | some c =>
      let h := s.gnss.chan[c]
      let dc := ((h.code : Int) - v.code).natAbs
      if 2 < min dc (2046 - dc) ∨ 50000 < (h.doppler - 1000 * v.doppler).natAbs then
        let s1 := s.onGnss fun g => { g with dupRaised := true }
        match roomFor s with
        | some f => handOff f v true s1
        | none => s1
      else s

/-- A channel and the monitors of its PRN become free. -/
def freeChannel (c : Fin 24) (s : State) : State :=
  let p := s.gnss.chan[c].prn
  modChan c (fun _ => {}) (s.onGnss fun g => { g with chan := vmap g.chan fun h =>
    if h.stage == .monitor && h.prn == p then {} else { h with duplicate := h.duplicate && h.prn != p } })

/-- A channel is released; a PRN no channel tracks any more is searched again (R60, R61). -/
def releaseChan (c : Fin 24) (s : State) : State :=
  let h := s.gnss.chan[c]
  let s1 := freeChannel c s
  if (tracked s1 h.prn).isSome then s1
  else s1.onGnss fun g => { g with reacq := g.reacq ++ [{ prn := h.prn, lost := s.pm, doppler := h.doppler, rate := h.dopRate }] }

/-! ### Acquisition (R54 to R57) -/

/-- PD7 is on for a request, or idle since now (R440). -/
def acqBusy (s : State) : State := s.onPwr fun p => { p with domains := p.domains ||| 0x80, acqIdleSince := none }
def acqIdle (s : State) : State := s.onPwr fun p => { p with acqIdleSince := some (p.acqIdleSince.getD s.pm) }

/-- ACQ_IDLE_GATE: no pass to run for 100 ms switches PD7 off (R440). -/
def execAcqIdleGate (s : State) : Result :=
  match s.pwr.acqIdleSince with
  | some t =>
    if s.act.flag .pwr 8 ∧ gnssRuns s ∧ t + 8000000 ≤ s.pm then
      .next (s.onPwr fun p => { p with domains := p.domains &&& 0xF7F, acqIdleSince := none })
    else .next s
  | none => .next s

/-- GNSS time now in ms since week 0, where it is known: the TIME model, or PD0's real-time clock, however long ago it
was set (R56). Marks: DESIGN CHOICE (log 91). -/
def timeKnown (s : State) : Option Nat :=
  if s.time.st = .unset then s.pd0.rtc.map fun r => r.1 + (s.pd0.now - r.2) / 80000
  else some ((s.time.model.total s.pm).toNat / 1000000000)

/-- The position now, or the one kept in PD0, of whatever age (R56). Marks: DESIGN CHOICE (log 91). -/
def posKnown (s : State) : Option (Int × Int) :=
  if s.pos.pose.quality = .lost then s.pd0.pose.map fun p => (p.est.lat, p.est.lon)
  else some (s.pos.pose.est.lat, s.pos.pose.est.lon)

/-- The orbit words held of a PRN: those of the ephemeris in use, else its almanac, of whatever age (R56). Marks:
DESIGN CHOICE (log 91). -/
def orbitOf (s : State) (p : Fin 32) : List Nat :=
  let e := s.gnss.eph[p]
  if e.valid then e.orbit else s.gnss.alm[p].map BitVec.toNat

/-- A prediction put before the first that stands lower. -/
def insertHigh (a : Fin 32 × Int × Int) : List (Fin 32 × Int × Int) → List (Fin 32 × Int × Int)
  | [] => [a]
  | b :: l => if b.2.1 ≤ a.2.1 then a :: b :: l else b :: insertHigh a l

/-- WARM: the PRNs predicted above ELEV_MASK − 5°, the highest first, each with the predicted Doppler; none where an
orbit, the time or the position is not known (R56). Marks: DESIGN CHOICE (log 91). -/
def predicted (s : State) : Option (List (Fin 32 × Int)) :=
  match timeKnown s, posKnown s with
  | some t, some x =>
    let known := (List.finRange 32).filter fun p => orbitOf s p != []
    if known = [] then none
    else
      let all := known.map fun p => (p, Config.satPredict (orbitOf s p) t x)
      let up := all.filter fun a => elevMask s - 500 < a.2.1
      some ((up.foldr insertHigh []).map fun a => (a.1, a.2.2))
  | _, _ => none

/-- The dwells of a search, PRN and lowest Doppler: COLD over [−8,000, +8,000) Hz, WARM over ±4,000 Hz or, with a
learned TCXO model, ±2,000 Hz (R56). Marks: DESIGN CHOICE (log 32). -/
def searchPlan (s : State) : List (Fin 32 × Int) :=
  match predicted s with
  | none => (List.finRange 32).flatMap fun p => [(p, -8000), (p, -4000), (p, 0), (p, 4000)]
  | some l => l.flatMap fun a => if s.pd0.tcxo.uncal then [(a.1, a.2 - 4000), (a.1, a.2)] else [(a.1, a.2 - 2000)]

/-- A PRN is to be searched: not disabled, not tracked (R53, R57). -/
def wanted (s : State) (p : Fin 32) : Bool := !prnDisabled s p && (tracked s p).isNone

/-- The requests and dwells that still stand: REACQ ends 30 s after the loss; COLD or WARM begins again while fewer than
four are tracked with an ephemeris (R56, R57). -/
def acqQueues (s : State) : List Reacq × List (Fin 32 × Int) :=
  let left := s.gnss.search.filter fun r => wanted s r.1
  (s.gnss.reacq.filter fun r => wanted s r.prn && decide (s.pm < r.lost + 2400000000),
   if left = [] ∧ trackedValid s < 4 then (searchPlan s).filter fun r => wanted s r.1 else left)

/-- The next dwell, at a pass boundary: a verification begun, the oldest REACQ request, the search in progress (R57).
An attempt leaves its request behind the others. Marks: DESIGN CHOICE (log 32). -/
def nextDwell (s : State) : Option Dwell × List Reacq × List (Fin 32 × Int) :=
  let q := acqQueues s
  match s.gnss.verify with
  | some v => (some { mode := .verify, prn := v.prn, low := v.bin - 500, start := s.pm, passes := acqNc s }, q)
  | none => match q.1 with
    | r :: l =>
      let d := (r.doppler + r.rate * (s.pm - r.lost : Nat) / 8000000) / 1000
      (some { mode := .reacq, prn := r.prn, low := d - 2000, start := s.pm, passes := 4 }, l ++ [r], q.2)
    | [] => match q.2 with
      | a :: l => (some { prn := a.1, low := a.2, start := s.pm, passes := acqNc s }, [], l)
      | [] => (none, [], [])

/-- The acquisition engine may run passes: a throttled one runs none from r_c = ½ (R316). -/
def acqRuns (s : State) : Bool := gnssRuns s && s.ths.acqShare > 0

/-- The engine takes up its next dwell, where none is in progress (R57, R440). -/
def acqNext (s : State) : State :=
  if acqRuns s ∧ s.gnss.dwell = none then
    let d := nextDwell s
    let s1 := s.onGnss fun g => { g with dwell := d.1, reacq := d.2.1, search := d.2.2 }
    if d.1.isSome then acqBusy s1 else acqIdle s1
  else s

/-- The strongest cell exceeds the mean noise cell by the factor of the dwell and is one of its cells (R55). -/
def dwellDetects (w : Dwell) (d : DwellIn) (s : State) : Bool :=
  decide (Config.acqFactor w.passes * d.noise < 16000 * d.peak) && decide (w.low ≤ d.doppler) && (match w.mode, s.gnss.verify with
    | .verify, some v =>
      let dc := ((v.code : Int) - d.code).natAbs % 2046
      decide (d.doppler < w.low + 1500) && decide (min dc (2046 - dc) ≤ 2)
    | _, _ => decide (d.doppler < w.low + 4000) && decide (d.code < 2046))

/-- ACQ_DWELL_END: ACQ_NC milliseconds after it began; a detection is verified by a second dwell, and a verified one
handed to a channel (R54, R55). Marks: DESIGN CHOICE (log 7), DESIGN CHOICE (log 32). -/
def execAcqDwellEnd (d : DwellIn) (s : State) : Result :=
  match s.gnss.dwell with
  | none => .next (acqNext s)
  | some w =>
    if acqRuns s ∧ w.start + 80000 * w.passes ≤ s.pm then
      let hit := dwellDetects w d s
      let v : Search := { prn := w.prn, code := d.code, doppler := d.doppler, bin := w.low + 500 * ((d.doppler - w.low) / 500) }
      let s1 := s.onGnss fun g => { g with dwell := none, verify := if w.mode ≠ .verify ∧ hit then some v else none }
      .next (acqNext (if w.mode = .verify ∧ hit then takeVerified v d.cn0 s1 else s1))
    else .next s

/-- WARM_SEARCH_TIMER: with four or more tracked, WARM over the untracked predicted PRNs every 10 s (R57). -/
def execWarmSearchTimer (s : State) : Result :=
  if gnssRuns s ∧ trackedValid s ≥ 4 ∧ s.gnss.warmAt + 800000000 ≤ s.pm then
    .next (acqNext (s.onGnss fun g => { g with
      warmAt := s.pm, search := if (predicted s).isSome then (searchPlan s).filter fun r => wanted s r.1 else [] }))
  else .next s

/-- A commit of PB.GNSS: without a bias neither flag is kept; a PRN of PRN_DISABLE is neither searched nor tracked from now
on (R52, R53). -/
def commitGnss (s : State) : State :=
  let s1 := if antBias s = 0 then s.onGnss fun v => { v with bias := false, antOpen := false, antShort := false, antRetries := 0 }
    else if s.gnss.antShort then s else s.onGnss fun v => { v with bias := true }
  let off (p : Fin 32) : Bool := prnDisabled s p
  s1.onGnss fun g => { g with
    chan := vmap g.chan fun h => if h.stage != .free && off h.prn then {} else h
    reacq := g.reacq.filter fun r => !off r.prn, search := g.search.filter fun r => !off r.1
    verify := match g.verify with
      | some v => if off v.prn then none else some v
      | none => none
    dwell := match g.dwell with
      | some w => if off w.prn then none else some w
      | none => none }

/-! ### Tracking (R59 to R61) -/

/-- What a channel runs with (R59, R60): coherent integration in ms, bandwidths in 0.1 Hz and 0.01 Hz, spacing in 1/32 chip,
whether the Doppler aiding of POS is added. -/
structure LoopSet where
  coherentMs : Nat
  pll : Nat
  dll : Nat
  spacing : Nat
  aided : Bool
deriving DecidableEq, Repr

/-- The loops of a channel: 1 ms in pull-in and before bit sync, then 20 ms up to 12.5 Hz and 10 ms above; aided in every
quality but LOST (R60); a monitor at one chip (R62). -/
def chanLoops (s : State) (c : Fin 24) : LoopSet :=
  let h := s.gnss.chan[c]
  { coherentMs := if h.stage = .tracking then (if pllBw s ≤ 125 then 20 else 10) else 1
    pll := if h.stage = .fll then 50 else pllBw s, dll := if h.stage = .fll then 0 else dllBw s
    spacing := if h.stage = .monitor then 32 else dllSpacing s, aided := s.pos.pose.quality != .lost }

/-- PULL_IN_TIMEOUT: 200 ms without pull-in (R60). -/
def execPullInTimeout (c : Fin 24) (s : State) : Result :=
  let h := s.gnss.chan[c]
  if gnssRuns s ∧ h.stage = .fll ∧ h.since + 16000000 ≤ s.pm then .next (acqNext (releaseChan c s)) else .next s

/-- PULL_IN_COMPLETE: frequency error below 5 Hz for 20 ms, before the 200 ms of the pull-in are over (R60, R37). -/
def execPullInComplete (c : Fin 24) (s : State) : Result :=
  let h := s.gnss.chan[c]
  if gnssRuns s ∧ h.stage = .fll ∧ h.since + 1600000 ≤ s.pm ∧ s.pm < h.since + 16000000 then .next (modChan c (fun h => { h with stage := .pll, since := s.pm }) s) else .next s

/-- PHASE_LOCK: the 100 ms mean of cos 2φ, in 0.001; declared at 0.7 after 100 ms of PLL at the earliest, lost below 0.5
(R61). -/
def execPhaseLock (c : Fin 24) (mean : Int) (s : State) : Result :=
  let h := s.gnss.chan[c]
  if gnssRuns s ∧ (h.stage = .pll ∨ h.stage = .tracking) then
    if !h.phaseLock ∧ mean ≥ 700 ∧ h.since + 8000000 ≤ s.pm then
      .next (modChan c (fun h => { h with phaseLock := true, lockAt := s.pm, lockFrom := some s.pm,
                                          stage := if h.bitSync then .tracking else .pll }) s)
    else if h.phaseLock ∧ mean < 500 then
      .next (modChan c (fun h => { h with phaseLock := false, halfCycle := false, lost := true, lockFrom := none, stage := .pll }) s)
    else .next s
  else .next s

/-- BIT_SYNC: over 2,000 prompt periods one of the 20 edge positions holds 60 % and at least 10 of the sign changes
(R63). -/
def execBitSync (c : Fin 24) (changes : List Nat) (s : State) : Result :=
  let h := s.gnss.chan[c]
  let top := changes.foldl max 0
  if gnssRuns s ∧ h.stage = .pll ∧ h.phaseLock ∧ !h.bitSync ∧ h.lockAt + 160000000 ≤ s.pm ∧ changes.length = 20 ∧ top ≥ 10
      ∧ 100 * top ≥ 60 * changes.sum then
    .next (modChan c (fun h => { h with bitSync := true, stage := .tracking }) s)
  else .next s

/-- CHANNEL_LOSS: the C/N0 of the epochs, averaged over 1 s, has stayed below 23 dB-Hz for 2 s (R61). Marks: DESIGN
CHOICE (log 32). -/
def execChannelLoss (c : Fin 24) (s : State) : Result :=
  match s.gnss.chan[c].weakFrom with
  | some t =>
    if gnssRuns s ∧ s.gnss.chan[c].stage.tracks ∧ t + 160000000 ≤ s.pm then .next (acqNext (releaseChan c s)) else .next s
  | none => .next s

/-! ### LNAV (R63 to R66) -/

/-- The data bits d1 to d24 that each parity bit covers (IS-GPS-200). Marks: PRESUMED (log 31). -/
def parityTaps : List (Bool × List Nat) :=
  [(true, [1, 2, 3, 5, 6, 10, 11, 12, 13, 14, 17, 18, 20, 23]), (false, [2, 3, 4, 6, 7, 11, 12, 13, 14, 15, 18, 19, 21, 24]),
   (true, [1, 3, 4, 5, 7, 8, 12, 13, 14, 15, 16, 19, 20, 22]), (false, [2, 4, 5, 6, 8, 9, 13, 14, 15, 16, 17, 20, 21, 23]),
   (false, [1, 3, 5, 6, 7, 9, 10, 14, 15, 16, 17, 18, 21, 22, 24]), (true, [3, 5, 6, 8, 9, 10, 11, 13, 15, 19, 22, 23, 24])]

/-- Data bit `i` of a word, D1 first. -/
def wordBit (w : BitVec 30) (i : Nat) : Bool := w.getLsbD (30 - i)

/-- The 24 source data bits: complemented where D30* is 1. -/
def sourceBits (w : BitVec 30) (d30 : Bool) : BitVec 24 :=
  let d : BitVec 24 := BitVec.ofNat 24 (w.toNat / 64)
  if d30 then ~~~d else d

/-- The six parity bits of the source data, with D29* and D30* of the word before. Marks: PRESUMED (log 31). -/
def parityBits (d : BitVec 24) (d29 d30 : Bool) : List Bool :=
  parityTaps.map fun t => t.2.foldl (fun b i => b != d.getLsbD (24 - i)) (if t.1 then d29 else d30)

def parityOk (w : BitVec 30) (d29 d30 : Bool) : Bool :=
  parityBits (sourceBits w d30) d29 d30 == (List.range 6).map fun k => wordBit w (25 + k)

/-- Source bits `d<first>` to `d<first + w − 1>` of a word, the first the most significant. -/
def dataBits (d : BitVec 24) (first w : Nat) : Nat := bits d.toNat (25 - first - w) w

/-- The first eight bits of a word as received: 0x8B is the preamble, 0x74 its complement (R63). -/
def preambleOf (w : BitVec 30) : Nat := w.toNat / 4194304

/-- The conditions of frame sync (R63). -/
def frameFound (f : FrameIn) : Bool :=
  let id := dataBits (sourceBits f.how f.tlm[0]) 20 3
  (preambleOf f.tlm == 0x8B || preambleOf f.tlm == 0x74) && preambleOf f.again == preambleOf f.tlm
    && parityOk f.tlm f.d29 f.d30 && parityOk f.how f.tlm[1] f.tlm[0] && decide (1 ≤ id) && decide (id ≤ 5)

/-- The receiver's time of week: `ms` at tick `at_`; the week goes on where it has wrapped (R63). -/
def setTow (ms : Nat) (at_ : Tick) (s : State) : State :=
  s.onGnss fun g => { g with tow := some (ms, at_), week := g.week.map fun w => match g.tow with
    | some m => if ms + 302400000 < m.1 then w + 1 else w
    | none => w }

/-- The receiver's own time of week at a tick, ms. -/
def towAt (s : State) (t : Tick) : Option Nat := s.gnss.tow.map fun m => (m.1 + (t - m.2) / 80000) % 604800000

/-- FRAME_SYNC: the preamble stands again 300 bits after a good TLM word and HOW; the data polarity is known, and the
TOW count, that of the subframe that has just begun, sets the time of week (R61, R63). The second preamble has just
ended. Marks: PRESUMED (log 31). -/
def execFrameSync (c : Fin 24) (f : FrameIn) (s : State) : Result :=
  let h := s.gnss.chan[c]
  let inv := preambleOf f.tlm == 0x74
  if gnssRuns s ∧ h.stage = .tracking ∧ h.bitSync ∧ !h.frameSync ∧ frameFound f then
    .next (setTow (6000 * dataBits (sourceBits f.how f.tlm[0]) 1 17 % 604800000) (s.pm - 12800000)
      (modChan c (fun h => { h with frameSync := true, inverted := inv, halfCycle := h.phaseLock, towKnown := true, wordIx := 0,
                                    badRun := 0, words := [], d29 := inv, d30 := inv }) s))
  else .next s

/-- A whole subframe: 1 to 3 are kept for the ephemeris; of 4 and 5 the almanac pages and page 18 of subframe 4, with
the ionosphere coefficients and the GPS–UTC offset (R64, R65). Marks: PRESUMED (log 31). -/
def takeSubframe (c : Fin 24) (ws : List (BitVec 24)) (s : State) : State :=
  let id := dataBits (ws.getD 1 0) 20 3
  let d3 := ws.getD 2 0
  let sv := dataBits d3 3 6
  if 1 ≤ id ∧ id ≤ 3 then modChan c (fun h => { h with subs := match idx? 3 (id - 1) with
    | some k => h.subs.set k ws
    | none => h.subs }) s
  else if id = 4 ∧ sv = 56 then
    let co (w k : Nat) : Int := sint 8 (dataBits (ws.getD w 0) k 8)
    (s.onGnss fun g => { g with iono := [co 2 9, co 2 17, co 3 1, co 3 9, co 3 17, co 4 1, co 4 9, co 4 17] }).onTime
      fun v => { v with leap := co 8 1, leapValid := true }
  else match idx? 32 (sv - 1) with
    | some p => if (id = 4 ∨ id = 5) ∧ 1 ≤ sv then s.onGnss fun g => { g with alm := g.alm.set p (ws.drop 2) } else s
    | none => s

/-- LNAV_WORD: the word's parity, what failed words do to the subframe and to frame sync, and what a whole subframe gives;
after phase lock has come back, a good TLM word fixes the polarity again (R61, R64). -/
def execLnavWord (c : Fin 24) (w : BitVec 30) (s : State) : Result :=
  let h := s.gnss.chan[c]
  if gnssRuns s ∧ h.stage.tracks ∧ h.frameSync then
    let ok := parityOk w h.d29 h.d30
    let got := (if h.wordIx = 0 then [] else h.words) ++ [if ok then some (sourceBits w h.d30) else none]
    let last := h.wordIx == 9
    let bad := got.any (·.isNone)
    let run := if last then (if bad then h.badRun + 1 else 0) else h.badRun
    let fix := decide (h.wordIx = 0) && ok && h.phaseLock && (preambleOf w == 0x8B || preambleOf w == 0x74)
    let s1 := modChan c (fun h => { h with
      d29 := w[1], d30 := w[0], parityFails := if ok then h.parityFails else h.parityFails + 1
      words := got, wordIx := (h.wordIx + 1) % 10, badRun := if run ≥ 3 then 0 else run, frameSync := decide (run < 3)
      inverted := if fix then preambleOf w == 0x74 else h.inverted, halfCycle := h.halfCycle || fix }) s
    .next (if last && !bad then takeSubframe c (got.filterMap id) s1 else s1)
  else .next s

/-- A second signal of the PRN is tracked beside this channel's (R58). -/
def duplicated (s : State) (c : Fin 24) : Bool :=
  allChan.any fun k => k != c && s.gnss.chan[k].stage.tracks && s.gnss.chan[k].prn == s.gnss.chan[c].prn

/-- The anomaly bits the device forms itself: DUPLICATE_PRN, EPH_MISMATCH, EPH_JUMP (R58, R65, R76). -/
def ownChecks (s : State) : BitVec 16 := BitVec.ofNat 16 <|
  b2n (s.gnss.dupRaised || allChan.any fun c => s.gnss.chan[c].stage.tracks && duplicated s c) <<< 9
    ||| b2n (vany s.gnss.eph fun e => e.mismatch.isSome) <<< 10 ||| b2n (vany s.gnss.eph fun e => e.jump.isSome) <<< 11

/-- EPH_JUMP is raised for a PRN (R65). Marks: DEDUCED (log 33). -/
def ephJump (p : Fin 32) (iode dist : Nat) (s : State) : State :=
  notice .gnss 0x06 (p.val + 1) (leBytes 1 (p.val + 1) ++ leBytes 1 iode ++ leBytes 2 0 ++ leBytes 4 dist)
    (modEph p (fun e => { e with jump := some iode }) s)

/-- Bytes as one number, the first the most significant. -/
def beNat (bs : List Byte) : Nat := bs.foldl (fun n b => n * 256 + b.toNat) 0

/-- Bits `[off, off + w)` of a message, the first the most significant. -/
def mbits (msg : List Byte) (off w : Nat) : Nat :=
  if off + w ≤ 8 * msg.length then bits (beNat msg) (8 * msg.length - off - w) w else 0
def mbitsS (msg : List Byte) (off w : Nat) : Int := sint w (mbits msg off w)

/-- The fields of an ephemeris, in one order, read from the 30 words of subframes 1 to 3 (IS-GPS-200): health, URA,
week, code on L2, L2 P data flag, IODC, IODE, t_GD, t_oc, a_f2, a_f1, a_f0, IDOT, C_rs, Δn, M_0, C_uc, e, C_us, √A,
t_oe, C_ic, Ω_0, C_is, i_0, C_rc, ω, Ω̇, fit interval. Marks: PRESUMED (log 31). -/
def lnavFields (ws : List (BitVec 24)) : List Nat :=
  let g (k w first n : Nat) : Nat := dataBits (ws.getD (10 * k + w - 1) 0) first n
  let two (k w : Nat) : Nat := g k w 17 8 * 16777216 + g k (w + 1) 1 24
  [g 0 3 17 6, g 0 3 13 4, g 0 3 1 10, g 0 3 11 2, g 0 4 1 1, g 0 3 23 2 * 256 + g 0 8 1 8, g 1 3 1 8, g 0 7 17 8, g 0 8 9 16,
   g 0 9 1 8, g 0 9 9 16, g 0 10 1 22, g 2 10 9 14, g 1 3 9 16, g 1 4 1 16, two 1 4, g 1 6 1 16, two 1 6, g 1 8 1 16, two 1 8,
   g 1 10 1 16, g 2 3 1 16, two 2 3, g 2 5 1 16, two 2 5, g 2 7 1 16, two 2 7, g 2 9 1 24, g 1 10 17 1]

/-- The same fields read from a 1019 message (RTCM 3). Marks: PRESUMED (log 31). -/
def fields1019 (msg : List Byte) : List Nat :=
  [(480, 6), (28, 4), (18, 10), (32, 2), (486, 1), (118, 10), (48, 8), (472, 8), (56, 16), (72, 8), (80, 16), (96, 22), (34, 14),
   (128, 16), (144, 16), (160, 32), (192, 16), (208, 32), (240, 16), (256, 32), (288, 16), (304, 16), (320, 32), (352, 16),
   (368, 32), (400, 16), (416, 32), (448, 24), (487, 1)].map fun f => mbits msg f.1 f.2

/-- EPH_MISMATCH of a PRN whose newest set has this IODE: raised where LNAV and 1019 give sets of one IODE that differ in
any field; it stays until an ephemeris with a new IODE agrees (R70, R76). -/
def withMismatch (iode : Nat) (e : Eph) : Eph := match e.lnav, e.rtcm with
  | some l, some r =>
    if l.1 ≠ r.1 then e
    else if lnavFields l.2 ≠ fields1019 r.2 then { e with mismatch := some iode }
    else if e.mismatch = some iode then e else { e with mismatch := none }
  | _, _ => e

/-- A new ephemeris of PRN `p` from either source, which `f` notes, under the checks of R65 and R76: it comes into use
unless it lies more than 200 m from the one in use. Marks: DEDUCED (log 33). -/
def acceptEph (p : Fin 32) (iode week10 health ura : Nat) (key : List Nat) (f : Eph → Eph) (s : State) : State :=
  let s1 := modEph p (fun e => withMismatch iode (f e)) s
  let e := s.gnss.eph[p]
  let dist := Config.ephDistance e.orbit key s.pm
  if e.jump = some iode then s1
  else if e.valid ∧ dist > 200 then ephJump p iode dist s1
  else modEph p (fun e => { e with
    valid := true, iode := iode, week10 := week10, health := health, ura := ura, orbit := key, jump := none }) s1

/-- The full week of a 10-bit week: the one congruent to it in [WEEK_REF, WEEK_REF + 1,024) (R66). Marks: DEDUCED (log
33). -/
def fullWeek (ref w10 : Nat) : Nat := ref + (w10 + 1024 - ref % 1024) % 1024

/-- The week PD0's real-time clock holds now. -/
def rtcWeek (s : State) : Option Nat :=
  s.pd0.rtc.map fun r => (r.1 + (s.pd0.now - r.2) / 80000) / 604800000

/-- The week number is resolved; a real-time clock more than a week off queues WEEK_CONFLICT (R66). Marks: DEDUCED
(log 33). -/
def resolveWeek (w10 : Nat) (s : State) : State :=
  let w := fullWeek s.gnss.weekRef w10
  let s1 := s.onGnss fun g => { g with week := some w, tow := (towAt s s.pm).map fun m => (m, s.pm) }
  match rtcWeek s with
  | some r => if r > w + 1 ∨ w > r + 1 then notice .gnss 0x05 0xFFFF (leBytes 2 w ++ leBytes 2 r) s1 else s1
  | none => s1

/-- Words of subframe `k + 1` that a channel holds whole. -/
def subWord (h : GChan) (k : Fin 3) (w : Nat) : BitVec 24 := h.subs[k].getD (w - 1) 0

/-- EPHEMERIS_ACCEPT: a complete set of subframes 1 to 3 of a tracked PRN, all words good; the IODE of subframes 2 and
3 and the low byte of the IODC agree (R65, R66). A subframe 1 received in the week before now is of that week. Marks:
PRESUMED (log 31). -/
def execEphemerisAccept (prn : Fin 32) (s : State) : Result :=
  match tracked s prn with
  | none => .next s
  | some c =>
    let h := s.gnss.chan[c]
    let i := dataBits (subWord h 1 3) 1 8
    let w1 := dataBits (subWord h 0 3) 1 10
    if gnssRuns s ∧ (vlist h.subs).all (·.length = 10) ∧ i = dataBits (subWord h 2 10) 1 8 ∧ i = dataBits (subWord h 0 8) 1 8 then
      let ws := (vlist h.subs).flatten
      let s1 := acceptEph prn i w1 (dataBits (subWord h 0 3) 17 6) (dataBits (subWord h 0 3) 13 4) (ws.map BitVec.toNat)
        (fun e => { e with lnav := some (i, ws) }) s
      let began := 6000 * ((dataBits (subWord h 0 2) 1 17 + 100799) % 100800)
      .next (resolveWeek (if (towAt s s.pm).getD began < began then w1 + 1 else w1) s1)
    else .next s

/-! ### Measurement epochs (R67 to R72) -/

def hasBit (w : BitVec 16) (b : Nat) : Bool := bitN w.toNat b

/-- EPOCH_PM of the epoch now due, where one is (R67). -/
def epochDue (s : State) : Option Tick :=
  match s.time.st with
  | .unset => s.gnss.firstHandoff.bind fun f =>
      let t := f + (s.pm - f) / 8000000 * 8000000
      if f ≤ s.pm ∧ s.gnss.epochPm < t then some t else none
  | _ =>
    let t := (s.time.model.latest 100000000000 s.pm).2
    if s.gnss.epochPm < t ∧ t ≤ s.pm then some t else none

/-- The satellites of an epoch: every tracked channel, with what it measured (R67). -/
def epochSats (s : State) (m : EpochIn) : List SatMeas :=
  (allChan.filter fun c => s.gnss.chan[c].stage.tracks).map fun c => (m.sats.find? fun x => x.channel == c).getD { channel := c }

/-- Epochs in a row, with this one, in which a channel measured more than 55 dB-Hz, and more than 0.5 m/s of range-rate
residual (R70). -/
def hotRun (h : GChan) (x : SatMeas) : Nat := if x.cn0.toNat > 220 then h.hot + 1 else 0
def rateRuns (h : GChan) (x : SatMeas) : Nat := if 500 < x.rateRes.natAbs then h.rateRun + 1 else 0

/-- A satellite of the epoch is ANOMALOUS: the residual checks single it out among six or more used, or a check of its own
names it (R72). -/
def satAnomalous (s : State) (word : BitVec 16) (single : Option (Fin 24)) (x : SatMeas) : Bool :=
  let h := s.gnss.chan[x.channel]
  let e := s.gnss.eph[h.prn]
  ((hasBit word 0 || hasBit word 1) && single == some x.channel) || (hasBit word 2 && decide (x.cn0.toNat > 220)) || e.mismatch.isSome
    || e.jump.isSome || duplicated s x.channel

/-- A satellite not to be used whatever the checks say: below a mask, unhealthy, without a TOW or an ephemeris in use (R65,
R67, R76). -/
def satUnfit (s : State) (x : SatMeas) : Bool :=
  let h := s.gnss.chan[x.channel]
  let e := s.gnss.eph[h.prn]
  decide (x.elev < elevMask s) || decide (x.cn0.toNat < cn0Mask s) || e.health != 0 || decide (e.ura > 11) || e.jump.isSome || !e.valid
    || !h.towKnown

/-- A satellite of the epoch is EXCLUDED (R65, R67, R72). -/
def satExcluded (s : State) (word : BitVec 16) (single : Option (Fin 24)) (x : SatMeas) : Bool :=
  satUnfit s x || (anomExclude s && satAnomalous s word single x)

/-- Satellites the checks of an epoch rest on: those POS may use, by the word before (R70). -/
def checkSats (s : State) (m : EpochIn) : List SatMeas :=
  (epochSats s m).filter fun x => x.codeValid && !satExcluded s s.gnss.anom none x

/-- The one satellite that the residual tests single out, with six or more used (R72). -/
def singledOut (s : State) (m : EpochIn) : Option (Fin 24) :=
  match (checkSats s m).filter (·.suspect) with
  | [x] => if (checkSats s m).length ≥ 6 then some x.channel else none
  | _ => none

/-- GNSS time of the receiver's own solution in ps since week 0: its week is that of the receiver's time of week, else
the one nearest to device time (R66, R75). Marks: DEDUCED (log 33). -/
def solutionPs (s : State) (m : EpochIn) : Nat :=
  let near := (s.time.model.total s.pm).toNat
  let w := match s.gnss.week, s.gnss.tow with
    | some w, some a => if m.towPs / 1000000000 + 302400000 < a.1 then w + 1 else w
    | some w, none => w
    | none, _ => if s.time.st = .unset then 0
        else if m.towPs + weekPs / 2 < near % weekPs then near / weekPs + 1
        else if near % weekPs + weekPs / 2 < m.towPs then near / weekPs - 1 else near / weekPs
  w * weekPs + m.towPs

/-- GNSS time of an epoch at `t`, ms since week 0: the TIME model's, or the receiver's own estimate while UNSET (R68). -/
def epochMs (s : State) (t : Tick) (m : EpochIn) : Nat :=
  if s.time.st ≠ .unset then (s.time.model.total t).toNat / 1000000000 + (if (s.time.model.total t).toNat % 1000000000 ≥ 500000000 then 1 else 0)
  else if m.clockValid then (solutionPs s m + 500000000) / 1000000000
  else s.gnss.week.getD 0 * 604800000 + (towAt s t).getD 0

/-- Mean of C/N0 over an epoch's satellites, 0.25 dB-Hz; 0 without one. -/
def meanCn0 (l : List SatMeas) : Nat := (l.map (·.cn0.toNat)).sum / max 1 l.length

/-- Standard deviation of C/N0 below 1.5 dB, over five or more satellites above 15° (R70). -/
def cn0Uniform (l : List SatMeas) : Bool :=
  let v := (l.filter fun x => decide (1500 < x.elev)).map (·.cn0.toNat)
  decide (v.length ≥ 5) && decide (v.length * (v.map fun x => x * x).sum < v.sum * v.sum + 36 * v.length * v.length)

/-- Three or more satellites have risen by 6 dB or more within 1 s (R70). -/
def cn0Jump (s : State) (l : List SatMeas) : Bool :=
  decide ((l.filter fun x => s.gnss.chan[x.channel].cn0s.any fun o => decide (o + 24 ≤ x.cn0.toNat)).length ≥ 3)

/-- AGC gain 6 dB below its baseline of 10 min while the mean C/N0 has fallen by 6 dB (R70). -/
def jamming (s : State) (agc cn0 : Nat) : Bool :=
  let n := s.gnss.agcHist.length
  n != 0 && decide (n * (agc + 600) ≤ (s.gnss.agcHist.map (·.1)).sum) && decide (n * (cn0 + 24) ≤ (s.gnss.agcHist.map (·.2)).sum)

/-- The error a return from HOLDOVER may show, 0.1 ns: three times the bound of R41 (R70). Marks: DEDUCED (log 33). -/
def returnBound (ms : Nat) : Nat := if ms ≤ 60000 then 30000 else 300000

/-- CLOCK_JUMP's condition (R70). -/
def clockJump (s : State) (t : Tick) (m : EpochIn) : Bool :=
  m.clockValid && (match s.time.st with
    | .unset => false
    | .locked => decide (m.clkBias.natAbs > max 1500 (30 * m.errNs.toNat))
    | _ => !s.pd0.tcxo.uncal && decide (holdoverMsAt s t ≤ 600000) && decide (m.clkBias.natAbs > returnBound (holdoverMsAt s t)))

/-- CLOCK_DRIFT's condition: drift less RATE, averaged over 1 s (R70). -/
def clockDrift (s : State) (l : List Int) : Bool :=
  s.time.st != .unset && decide (l.length = 10) && decide (100000000 * l.sum.natAbs > (if s.pd0.tcxo.uncal then 2000 else 50) * 1099511627776)

/-- ODO_SPEED's condition: more than 0.25 m/s and 3 % of the odometry speed (R70). -/
def odoSpeedOff (s : State) (m : EpochIn) : Bool :=
  match s.pos.odoSpeed with
  | some v => !(vany s.pos.odo fun o => o.slipping) && decide (100 * ((m.speed : Int) - v.natAbs).natAbs > 25000 + 3 * v.natAbs)
  | none => false

/-- The conditions of checks 0 to 8 at an epoch; those of one satellite, for as many epochs as set the bit where it is
not set yet (R70). Marks: DEDUCED (log 33). -/
def checkNow (s : State) (t : Tick) (m : EpochIn) : BitVec 16 := BitVec.ofNat 16 <|
  let need (n b : Nat) : Nat := if hasBit s.gnss.anom b then 1 else n
  let all := epochSats s m
  let used := checkSats s m
  bitWord 9 fun b => match b with
    | 0 => decide (used.length ≥ 5) && decide (Config.residualLimit used.length < m.resStat)
    | 1 => decide (used.length ≥ 5) && used.any fun x => decide (rateRuns s.gnss.chan[x.channel] x ≥ need 3 1)
    | 2 => all.any fun x => decide (hotRun s.gnss.chan[x.channel] x ≥ need 10 2)
    | 3 => cn0Uniform all
    | 4 => cn0Jump s all
    | 5 => jamming s m.agc.toNat (meanCn0 all)
    | 6 => clockJump s t m
    | 7 => clockDrift s ((m.clkDrift - s.time.model.rate) :: s.gnss.driftHist |>.take 10)
    | _ => odoSpeedOff s m

/-- Epochs in a row for which a check's condition must hold; those of one satellite are counted by its channel (R70). -/
def checkNeed : Nat → Nat
  | 3 => 100 | 5 => 10 | 7 => 10 | 8 => 10 | _ => 1

/-- The anomaly word of an epoch at `t`: a check that held is set, a bit clears after 10 s without it; the device's
own bits follow their conditions (R70). Marks: DEDUCED (log 33). -/
def anomalyWord (s : State) (t : Tick) (seen : Vector Tick 16) : BitVec 16 := BitVec.ofNat 16 <|
  (bitWord 9 fun b => match idx? 16 b with
    | some k => decide (seen[k] = t) || (hasBit s.gnss.anom b && decide (t < seen[k] + 800000000))
    | none => false) ||| (ownChecks s).toNat

/-- SLIP of a satellite: phase lock lost since the epoch before, or the carrier more than 0.25 cycle off its prediction
(R61). -/
def satSlip (s : State) (x : SatMeas) : Bool := s.gnss.chan[x.channel].lost || decide (64 < x.innov.natAbs)

/-- PHASE_VALID: phase lock held since the epoch before (R61). -/
def satPhase (s : State) (x : SatMeas) : Bool :=
  let h := s.gnss.chan[x.channel]
  h.phaseLock && !h.lost && decide (h.lockAt ≤ s.gnss.epochPm)

/-- Wide less narrow code of the newest ten epochs, with this one; none without a monitor (R62). -/
def wideNow (s : State) (x : SatMeas) : List Int :=
  let h := s.gnss.chan[x.channel]
  if (monitorOf s h.prn).isSome then (x.wide :: h.wide).take 10 else []

/-- MULTIPATH: the two codes differ by more than 1.5 m averaged over 1 s (R62). -/
def satMultipath (s : State) (x : SatMeas) : Bool :=
  decide ((wideNow s x).length = 10) && decide (15000 < (wideNow s x).sum.natAbs)

/-- LOCK_TIME at `t`, 10 ms: 0 without phase lock (R61, R69). -/
def lockTime (s : State) (t : Tick) (x : SatMeas) : Nat :=
  if satSlip s x then 0 else match s.gnss.chan[x.channel].lockFrom with
    | some a => satU 16 ((t - a) / 800000)
    | none => 0

/-- A satellite block (R69). -/
def satBytes (s : State) (t : Tick) (word : BitVec 16) (single : Option (Fin 24)) (x : SatMeas) : List Byte :=
  let h := s.gnss.chan[x.channel]
  let e := s.gnss.eph[h.prn]
  let slip := satSlip s x
  let flags := b2n x.codeValid ||| b2n (satPhase s x) <<< 1 ||| b2n h.halfCycle <<< 2 ||| b2n slip <<< 3 ||| b2n x.dopplerValid <<< 4
    ||| b2n (satExcluded s word single x) <<< 5 ||| b2n (satMultipath s x) <<< 6 ||| b2n (satAnomalous s word single x) <<< 7
  leBytes 1 (h.prn.val + 1) ++ leBytes 1 x.channel.val ++ leBytes 1 x.cn0.toNat ++ leBytes 1 flags ++ leBytes 5 x.pr.toNat
    ++ leBytes 5 x.carrier.toNat ++ leBytes 4 x.doppler.toNat ++ leBytes 2 (lockTime s t x)
    ++ leBytes 2 (h.slipCount + if slip then 1 else 0).toNat ++ leBytes 2 (uint 16 x.elev) ++ leBytes 2 x.azim.toNat
    ++ leBytes 1 e.iode ++ leBytes 1 (chanLoops s x.channel).spacing ++ leBytes 2 x.prSigma.toNat ++ leBytes 2 (b2n e.valid)

/-- The record's header (R68). -/
def recordHeader (s : State) (t : Tick) (m : EpochIn) (word : BitVec 16) (n : Nat) : List Byte :=
  let aligned := s.time.st != .unset
  leBytes 8 t ++ leBytes 4 (epochMs s t m % 604800000) ++ leBytes 2 (epochMs s t m / 604800000) ++ leBytes 1 n
    ++ leBytes 1 (b2n m.clockValid ||| b2n (word != 0) <<< 1 ||| b2n s.gnss.antOpen <<< 2 ||| b2n s.gnss.antShort <<< 3
      ||| b2n (hasBit word 5) <<< 4 ||| b2n aligned <<< 5)
    ++ leBytes 4 (uint 32 m.clkBias) ++ leBytes 4 (uint 32 m.clkDrift) ++ leBytes 2 m.agc.toNat ++ leBytes 2 (s.gnss.seq + 1).toNat
    ++ leBytes 4 0

/-- The base epoch a rover epoch at GNSS time `gms` pairs with: the newest complete one of age in [−1 s, RTCM_MAX_AGE)
(R75). Marks: DEDUCED (log 34). -/
def pairBase (s : State) (gms : Nat) : Option BaseEpoch :=
  (s.gnss.bases.filter fun b => b.done.isSome && decide (b.gms ≤ gms + 1000) && decide (gms < b.gms + rtcmMaxAge s)).foldl
    (fun o b => match o with
      | some x => if x.gms < b.gms then some b else o
      | none => some b) none

/-- The horizontal distance from the ARP to an antenna exceeds 15 km (R75). -/
def farFromBase (s : State) (ant : Int × Int × Int) : Bool :=
  let b := s.gnss.arp
  let d := enuTurn ant.1 ant.2.1 (ecefDiff (b.1 * 65536 / 10, b.2.1 * 65536 / 10, b.2.2 * 65536 / 10) (ecefOf ant.1 ant.2.1 ant.2.2))
  decide (d.1 * d.1 + d.2.1 * d.2.1 > (15000000 * 65536) * (15000000 * 65536))

/-- A channel after an epoch at `t` (R61, R62, R70). -/
def chanAfter (s : State) (t : Tick) (x : SatMeas) (h : GChan) : GChan :=
  let slip := satSlip s x
  let cn0s := (x.cn0.toNat :: h.cn0s).take 10
  let d := sint 32 x.doppler.toNat
  { h with
    cn0 := x.cn0.toNat, cn0s := cn0s, hot := hotRun h x, rateRun := rateRuns h x
    weakFrom := if cn0s.length = 10 ∧ cn0s.sum < 920 then some (h.weakFrom.getD t) else none, elev := x.elev, wide := wideNow s x, code := x.code
    doppler := if x.dopplerValid then d else h.doppler
    dopRate := if x.dopplerValid && decide (s.gnss.epochPm < t) then (d - h.doppler) * 8000000 / (t - s.gnss.epochPm : Nat) else h.dopRate
    slipCount := if slip then h.slipCount + 1 else h.slipCount
    lockFrom := if slip && h.phaseLock then some t else h.lockFrom, lost := false }

def chansAfter (t : Tick) (sats : List SatMeas) (s : State) : State :=
  sats.foldl (fun u x => modChan x.channel (chanAfter s t x) u) s

/-- Free channels become monitors of the tracked PRNs that have none, the lowest first (R62). Marks: DESIGN CHOICE
(log 32). -/
def placeMonitors (s : State) : State :=
  allChan.foldl (fun u c =>
    let bare := allChan.filter fun k => u.gnss.chan[k].stage.tracks && !u.gnss.chan[k].duplicate && (monitorOf u u.gnss.chan[k].prn).isNone
    let low := bare.foldl (fun o k => match o with
      | some b => if u.gnss.chan[k].elev < u.gnss.chan[b].elev then some k else some b
      | none => some k) none
    match u.gnss.chan[c].stage, low with
    | .free, some k => modChan c (fun _ => { prn := u.gnss.chan[k].prn, stage := .monitor, since := u.pm }) u
    | _, _ => u) s

/-- The clock consistency anomaly has stood alone for 60 s (R71). -/
def clockException (s : State) (t : Tick) : Bool :=
  match s.gnss.clockOnly with
  | some a => decide (a + 4800000000 ≤ t)
  | none => false

/-- What the checks of an epoch give (R70 to R72): the conditions that held, the word, since when the clock anomaly has stood
alone, and whether its solution is accepted all the same. -/
structure Checked where
  run : Vector Nat 16
  seen : Vector Tick 16
  word : BitVec 16
  since : Option Tick
  forced : Bool

/-- The checks of an epoch at `t` (R70, R71). -/
def runChecks (s : State) (t : Tick) (m : EpochIn) : Checked :=
  let now := checkNow s t m
  let run : Vector Nat 16 := Vector.ofFn fun b => if hasBit now b.val then s.gnss.checkRun[b] + 1 else 0
  let seen : Vector Tick 16 := Vector.ofFn fun b => if hasBit now b.val && (checkNeed b.val ≤ run[b] || hasBit s.gnss.anom b.val) then t else s.gnss.anomSeen[b]
  let word0 := anomalyWord s t seen
  let clock := bits word0.toNat 6 3 != 0
  let alone := clock && decide (word0.toNat &&& 0xE3F = 0)
  let forced := alone && clockException s t && m.clockValid && (s.time.st == .locked || decide (3 ≤ validRun t s))
  { run := run, seen := seen, word := if forced then word0 &&& ~~~(0xC0 : BitVec 16) else word0
    since := if alone && !forced then some (s.gnss.clockOnly.getD t) else none, forced := forced }

/-- MEASUREMENT_EPOCH: the checks, the record, the clock solution and the pairing of an epoch (R61, R67 to R72, R75).
Marks: DESIGN CHOICE (log 7), DESIGN CHOICE (log 32). -/
def execMeasurementEpoch (m : EpochIn) (s : State) : Result :=
  if !gnssRuns s then .next s
  else match epochDue s with
    | none => .next s
    | some t =>
      let sats := epochSats s m
      let k := runChecks s t m
      let one := singledOut s m
      let mask : BitVec 32 := BitVec.ofNat 32 (bitWord 32 fun p => sats.any fun x =>
        s.gnss.chan[x.channel].prn.val == p && satAnomalous s k.word one x)
      let gms := epochMs s t m
      let pair := pairBase s gms
      let recBytes := recordHeader s t m k.word sats.length ++ sats.flatMap (satBytes s t k.word one)
      let ms := sats.map fun x => ({ prn := s.gnss.chan[x.channel].prn.val, code := x.codeValid, phase := satPhase s x,
                                     slip := satSlip s x, excluded := satExcluded s k.word one x } : MSat)
      let s1 := (placeMonitors (chansAfter t sats s)).onGnss fun g => { g with
        record := recBytes, recAt := some s.pm, epochPm := t, sats := ms, seq := g.seq + 1, anom := k.word, anomSeen := k.seen
        checkRun := k.run, dupRaised := false, agcHist := ((m.agc.toNat, meanCn0 sats) :: g.agcHist).take 6000
        driftHist := ((m.clkDrift - s.time.model.rate) :: g.driftHist).take 10
        clockOnly := k.since, anomMask := mask, rtkRange := g.station.isSome && farFromBase s m.ant, paired := pair
        corrAge := match pair with
          | some b => satU 16 ((gms - b.gms) / 10)
          | none => 0xFFFF }
      let s2 := if k.word ≠ s.gnss.anom then
          noticeNow .gnss 0x03 0xFFFF t (leBytes 8 t ++ leBytes 2 k.word.toNat ++ leBytes 2 0 ++ leBytes 4 mask.toNat) s1
        else s1
      let s3 := if m.clockValid then learnDrift m.clkDrift s2 else s2
      .next (timeEpoch t m (solutionPs s m) (bits k.word.toNat 6 3 != 0 && !k.forced) s3)

/-! ### RTCM (R73 to R76) -/

/-- CRC-24Q (RTCM 3). Marks: PRESUMED (log 31). -/
def crc24Step (c : Nat) : Nat := if c ≥ 0x800000 then ((c * 2) % 0x1000000) ^^^ 0x864CFB else c * 2
def crc24Byte (c : Nat) (b : Byte) : Nat :=
  crc24Step <| crc24Step <| crc24Step <| crc24Step <| crc24Step <| crc24Step <| crc24Step <| crc24Step (c ^^^ (b.toNat <<< 16))
def crc24q (bs : List Byte) : Nat := bs.foldl crc24Byte 0

/-- What the front of the intake buffer is. -/
inductive FrameRead where
  /-- nothing to be done before more bytes come -/
  | wait
  /-- drop this many bytes; the second value says that a frame was rejected -/
  | skip (n : Nat) (rejected : Bool)
  /-- a good frame: its message, and the bytes it took -/
  | frame (msg : List Byte) (n : Nat)
deriving DecidableEq, Repr

/-- Read the front of the buffer (R73). -/
def readFrame (buf : List Byte) : FrameRead :=
  match buf with
  | [] => .wait
  | b :: l =>
    if b ≠ 0xD3 then .skip 1 false
    else match l with
      | x :: y :: _ =>
        if x.toNat ≥ 4 then .skip 1 true
        else
          let n := x.toNat * 256 + y.toNat
          if buf.length < n + 6 then .wait
          else if crc24q (buf.take (n + 3)) = beNat (slice buf (n + 3) 3) then .frame (slice buf 3 n) (n + 6)
          else .skip 1 true
      | [x] => if x.toNat ≥ 4 then .skip 1 true else .wait
      | [] => .wait

/-- Drop what stands before the first frame or partial frame of the buffer; the number of frames rejected on the way. -/
def dropRejected : Nat → List Byte → Nat → List Byte × Nat
  | 0, buf, k => (buf, k)
  | f + 1, buf, k =>
    match readFrame buf with
    | .skip n r => dropRejected f (buf.drop n) (if r then k + 1 else k)
    | _ => (buf, k)

/-- The intake buffer as the search for a preamble leaves it (R73). -/
def rtcmSearch (buf : List Byte) (s : State) : State :=
  let r := dropRejected buf.length buf 0
  s.onGnss fun g => { g with rtcmBuf := r.1, rtcmCrc := g.rtcmCrc + BitVec.ofNat 32 r.2 }

/-- PRNs of a 1004 message whose L1 code is C/A (R74). Marks: PRESUMED (log 31). -/
def prns1004 (msg : List Byte) : List Nat :=
  (List.range (mbits msg 55 5)).filterMap fun k =>
    if mbits msg (64 + 125 * k + 6) 1 = 1 then none else some (mbits msg (64 + 125 * k) 6 - 1)

/-- The time of a base epoch of time of week `tow` ms, in the week within ±302,400 s of device time `now` ms (R75). -/
def placeTow (now tow : Nat) : Nat :=
  let w := now / 604800000
  let c := w * 604800000 + tow
  if c > now + 302400000 then c - 604800000 else if c + 302400000 < now then c + 604800000 else c

/-- A 1004 of station `id`; while UNSET each base epoch is counted once, and the newest 64 are kept (R74, R75). Marks:
PRESUMED (log 31), DESIGN CHOICE (log 90). -/
def take1004 (msg : List Byte) (s : State) : State :=
  let id := mbits msg 12 12
  let sync := mbits msg 54 1
  if s.gnss.station ≠ some id then s
  else if s.time.st = .unset then s.onGnss fun g =>
    if g.noTimeTow = some (mbits msg 24 30) then g else { g with rtcmNoTime := g.rtcmNoTime + 1, noTimeTow := some (mbits msg 24 30) }
  else
    let gms := placeTow ((s.time.model.total s.pm).toNat / 1000000000) (mbits msg 24 30)
    let done : Option Tick := if sync = 0 then some s.pm else none
    s.onGnss fun g =>
      let closed := g.bases.map fun b => if b.done.isNone && decide (b.gms < gms) then { b with done := some s.pm } else b
      let same := closed.any fun b => b.gms == gms
      let bases := if same then closed.map fun b => if b.gms = gms then { b with prns := b.prns ++ prns1004 msg, msgs := b.msgs ++ [msg], done := b.done.or done } else b
        else closed ++ [{ gms := gms, done := done, prns := prns1004 msg, msgs := [msg] }]
      { g with bases := bases.drop (bases.length - 64) }

/-- A base change: pending base epochs go, ambiguity resolution starts afresh (R75). -/
def baseChange (id : Nat) (arp : Int × Int × Int) (s : State) : State :=
  noticeNow .gnss 0x04 0xFFFF s.pm (leBytes 2 id ++ leBytes 6 0 ++ leBytes 8 (uint 64 arp.1) ++ leBytes 8 (uint 64 arp.2.1) ++ leBytes 8 (uint 64 arp.2.2))
    (s.onGnss fun g => { g with station := some id, arp := arp, bases := [], baseChanged := true })

/-- The ARP moved by more than 0.05 m (units 0.1 mm). -/
def arpMoved (a b : Int × Int × Int) : Bool :=
  decide ((a.1 - b.1) * (a.1 - b.1) + (a.2.1 - b.2.1) * (a.2.1 - b.2.1) + (a.2.2 - b.2.2) * (a.2.2 - b.2.2) > 250000)

/-- A 1005 or 1006; the first one ever defines the base and is no change of it, and a move of no more than 0.05 m
leaves the ARP as it is (R74, R75). Marks: PRESUMED (log 31), DESIGN CHOICE (log 90). -/
def take1005 (msg : List Byte) (s : State) : State :=
  let id := mbits msg 12 12
  let arp := (mbitsS msg 34 38, mbitsS msg 74 38, mbitsS msg 114 38)
  let s1 := if mbits msg 0 12 = 1006 then s.onGnss fun g => { g with antHeight := mbits msg 152 16 } else s
  match s.gnss.station with
  | none => s1.onGnss fun g => { g with station := some id, arp := arp }
  | some k => if k ≠ id ∨ arpMoved s.gnss.arp arp then baseChange id arp s1 else s1

/-- A 1019: a source of ephemerides parallel to LNAV; it gives the week while no subframe 1 has (R74, R76). Marks:
PRESUMED (log 31), DEDUCED (log 33). -/
def take1019 (msg : List Byte) (s : State) : State :=
  let i := mbits msg 48 8
  match idx? 32 (mbits msg 12 6 - 1) with
  | some p => if mbits msg 12 6 = 0 ∨ i ≠ mbits msg 118 10 % 256 then s
      else
        let s1 := acceptEph p i (mbits msg 18 10) (mbits msg 480 6) (mbits msg 28 4) (msg.map BitVec.toNat)
          (fun e => { e with rtcm := some (i, msg) }) s
        s1.onGnss fun g => { g with week := some (g.week.getD (fullWeek g.weekRef (mbits msg 18 10))) }
  | none => s

/-- One good message (R74). Marks: DESIGN CHOICE (log 90). -/
def takeMessage (msg : List Byte) (s : State) : State :=
  match mbits msg 0 12 with
  | 1004 => take1004 msg s
  | 1005 => take1005 msg s
  | 1006 => take1005 msg s
  | 1019 => take1019 msg s
  | 1033 => s.onGnss fun g => { g with antDesc := msg }
  | _ => s.onGnss fun g => { g with rtcmOther := g.rtcmOther + 1 }

/-- RTCM_FRAME: the good frame at the front of the buffer is handled, and the search goes on behind it (R73). -/
def execRtcmFrame (s : State) : Result :=
  if gnssRuns s then
    match readFrame s.gnss.rtcmBuf with
    | .frame m n => .next (rtcmSearch (s.gnss.rtcmBuf.drop n) (takeMessage m s))
    | _ => .next s
  else .next s

/-- RTCM_TIMEOUT: a partial frame without a byte for 2 s (R73). -/
def execRtcmTimeout (s : State) : Result :=
  if s.gnss.rtcmBuf ≠ [] ∧ s.gnss.rtcmLast + 160000000 ≤ s.pm ∧ readFrame s.gnss.rtcmBuf = .wait then
    .next (s.onGnss fun g => { g with rtcmBuf := [], rtcmTimeouts := g.rtcmTimeouts + 1 })
  else .next s

/-- The baseband is down: tracking, search and unread epochs are lost; the ephemerides stay until it runs again (R425). -/
def gnssDown (s : State) : State :=
  s.onGnss fun g => { g with chan := Vector.replicate 24 {}, verify := none, dwell := none, search := [], reacq := [], recAt := none,
                             paired := none, corrAge := 0xFFFF, firstHandoff := none, tow := none, week := none }

/-! ### Requests -/

def opGnssRtcm (e : Env) (s : State) : State × Answer :=
  if s.gnss.rtcmBuf.length + e.payload.length > 8192 then deny .busy s
  else done (rtcmSearch (s.gnss.rtcmBuf ++ e.payload) (s.onGnss fun g => { g with rtcmLast := s.pm }))

def opGnssMeasGet (_e : Env) (s : State) : State × Answer := doneWith s.gnss.record s

end Sys2Proof.Machine
end

