-- ==== Sys2Proof/Machine/LoadSwitch.lean ====
section
/-! DEFINITION. The load switches: profiles, switching, pulse generators, faults and retries, shedding, and the
requests LSW_SET and LSW_CLEAR_FAULT (13). The channels are those of R290. -/

namespace Sys2Proof.Machine

def modLsw (c : Fin 16) (f : Lsw → Lsw) (s : State) : State := s.onLsw fun v => { v with ls := vmod v.ls c f }
def allLsw : List (Fin 16) := List.finRange 16

/-! ### Parameters (R292, R295) -/

def lswLo (c : Fin 16) : Nat := 128 * c.val
def lswType (s : State) (c : Fin 16) : Nat := s.act.fld .lsw (lswLo c) 4
def coastPolicy (s : State) (c : Fin 16) : Nat := s.act.fld .lsw (lswLo c + 4) 2
def forceState (s : State) (c : Fin 16) : Bool := s.act.flag .lsw (lswLo c + 6)
def pulseMode (s : State) (c : Fin 16) : Bool := s.act.flag .lsw (lswLo c + 7)
def safeState (s : State) (c : Fin 16) : Nat := s.act.fld .lsw (lswLo c + 8) 2
def keyOffTimed (s : State) (c : Fin 16) : Bool := s.act.fld .lsw (lswLo c + 10) 2 == 1
def shedClass (s : State) (c : Fin 16) : Nat := s.act.fld .lsw (lswLo c + 12) 2
def offTest (s : State) (c : Fin 16) : Bool := s.act.flag .lsw (lswLo c + 14)
def offAfter (s : State) (c : Fin 16) : Tick := msTicks (s.act.fld .lsw (lswLo c + 32) 16)
def keyOffTime (s : State) (c : Fin 16) : Tick := msTicks (1000 * s.act.fld .lsw (lswLo c + 48) 16)

/-- A user profile's record (R292). -/
def userProfile (s : State) (u : Nat) : Profile :=
  let f (lo w : Nat) := s.act.fld .lsw (128 * u + 2048 + lo) w
  { slew := f 0 8, iLim := f 8 8, iInrush := f 16 8, steps := f 24 3, tStep := f 32 16, tLimit := f 48 16, openMa := f 64 8,
    clamp := f 72 8, retryDelay := f 80 16, retry := f 96 4 }

/-- The built-in profiles, and the user profiles behind TYPE 8 to 15 (R292). -/
def profileOf (s : State) (type : Nat) : Profile :=
  match type with
  | 0 => { slew := 10, iLim := 48, iInrush := 48, steps := 0, tStep := 100, tLimit := 100, openMa := 20, clamp := 0, retryDelay := 100, retry := 3 }
  | 1 => { slew := 5, iLim := 48, iInrush := 160, steps := 4, tStep := 500, tLimit := 200, openMa := 40, clamp := 0, retryDelay := 100, retry := 3 }
  | 2 => { slew := 2, iLim := 48, iInrush := 8, steps := 5, tStep := 200, tLimit := 500, openMa := 20, clamp := 0, retryDelay := 100, retry := 3 }
  | 3 => { slew := 5, iLim := 48, iInrush := 120, steps := 3, tStep := 5000, tLimit := 2000, openMa := 20, clamp := 30, retryDelay := 1000, retry := 2 }
  | 4 => { slew := 20, iLim := 24, iInrush := 24, steps := 0, tStep := 100, tLimit := 100, openMa := 4, clamp := 40, retryDelay := 100, retry := 3 }
  | t => userProfile s (t - 8)

/-- Current limit of an inrush step, 0.25 A (R293). -/
def inrushLimit (p : Profile) (k : Nat) : Int := (p.iInrush : Int) + ((k : Int) * ((p.iLim : Int) - p.iInrush)).tdiv p.steps

/-! ### What a channel should do (R291, R302, R303, R305, R306) -/

/-- Scale of shedding, 1/65,536 (R302). -/
def shedScale (s : State) (c : Fin 16) : Nat :=
  let r := lswR s
  match shedClass s c with
  | 0 => if r < 128 then 65536 - 512 * r else 0
  | 1 => if r < 128 then 65536 else 65536 - 512 * (r - 128)
  | _ => 65536

/-- The clock a channel's instants are in: the postmark counter, PD0's own while TIME is held in reset (R305, R441).
Marks: DEDUCED (log 76). -/
def lswNow (s : State) : Tick := if s.running then s.pm else s.pd0.now

/-- The channel runs on its pulse generator's duty: MODE PULSE, as it was at the transition during a key-off hold. -/
def pulsedMode (s : State) (c : Fin 16) : Bool :=
  if (s.pd0.keyOffHold[c]).isSome then s.lsw.ls[c].holdPulse else pulseMode s c

/-- The state asks the channel on (R303); a key-off hold goes on in every state it does not end in (R305); under reverse
battery RES and LAMP are driven on (R306). -/
def lswWanted (s : State) (c : Fin 16) : Bool :=
  let held := (s.pd0.keyOffHold[c]).isSome
  if s.pwr.reverseBatt then s.lsw.ls[c].resLamp
  else if s.pwr.groundLost || s.lsw.ls[c].gndLoss || s.lsw.ls[c].thermLatch || s.lsw.ls[c].resumeWait then false
  else match s.sys.dev with
    | .quarantine | .latched => false
    | .off | .start => held
    | .standby | .armed | .manual => held || s.pd0.lswOn[c]
    | .coast => held ||
      match coastPolicy s c with
      | 1 => s.pd0.lswOn[c] && decide (s.pm < s.sys.coastEntry + offAfter s c)
      | 2 => forceState s c
      | _ => s.pd0.lswOn[c]
    | .safe => held ||
      match safeState s c with
      | 1 => true
      | 2 => s.lsw.ls[c].safeHold
      | _ => false

/-- Turn on from OFF with the full profile (R293, R294). -/
def lswTurnOn (c : Fin 16) (t : Tick) (s : State) : State :=
  let p := profileOf s (lswType s c)
  modLsw c (fun l => { l with profile := p, step := 0, firstPulse := false,
                              st := if p.steps = 0 then .on else .inrush, stepEnd := t + 800 * p.tStep }) s

/-- Turn off. -/
def lswTurnOff (c : Fin 16) (s : State) : State :=
  modLsw c (fun l => { l with st := if l.st = .latched then .latched else .off, closeAt := none }) s

/-- A scale below 1 begins or ends on a channel that is on; SHED reports its beginning (R302, R308). -/
def noteShed (c : Fin 16) (s : State) : State :=
  let on := shedScale s c < 65536 && lswWanted s c && s.lsw.ls[c].st != .latched
  if on = s.lsw.ls[c].scaled then s
  else (if on then notice .lsw 0x08 c.val [] else id) (modLsw c (fun l => { l with scaled := on }) s)

/-- During COAST, an output that differs from its commanded state is remembered for LOAD_COAST (R304). -/
def noteCoast (c : Fin 16) (s : State) : State :=
  let out := lswWanted s c && s.lsw.ls[c].st != .latched && shedScale s c != 0
  if s.sys.dev = .coast ∧ out ≠ s.pd0.lswOn[c] then modLsw c (fun l => { l with coastDiff := true }) s else s

/-- Bring a channel to what its command, the device state, shedding and its latch ask for. -/
def lswSync (c : Fin 16) (s0 : State) : State :=
  let s := noteCoast c (noteShed c s0)
  let l := s.lsw.ls[c]
  if l.st = .latched then modLsw c (fun l => { l with pulsing := false, closeAt := none }) s
  else if !lswWanted s c || shedScale s c == 0 then modLsw c (fun l => { l with pulsing := false, firstPulse := true }) (lswTurnOff c s)
  else if pulsedMode s c || shedScale s c < 65536 then
    (if l.pulsing then s else modLsw c (fun l => { l with pulsing := true, firstPulse := decide (l.st = .off) }) s)
  else if l.pulsing then
    (let s1 := modLsw c (fun l => { l with pulsing := false, closeAt := none }) s
     if l.st ≠ .off then s1 else if l.firstPulse then lswTurnOn c (lswNow s) s1 else modLsw c (fun l => { l with st := .on }) s1)
  else if l.st = .off then lswTurnOn c (lswNow s) s
  else s

/-- Bring every channel to what is asked of it. -/
def lswSyncAll (s : State) : State := allLsw.foldl (fun t c => lswSync c t) s

/-- LSW at entry to SAFE: a channel keeps the duty in force now, and where its safe state is hold the commanded state
(R303). The duty of a channel that does not pulse is the last one in effect. Marks: DEDUCED (log 76). -/
def lswHoldForSafe (s : State) : State :=
  let hold (c : Fin 16) (l : Lsw) : Lsw :=
    let d := if l.pulsing then l.dutyAct else (latestWrite (fun w => w < s.pm) l.duties).getD l.dutyAct
    { l with safeHold := s.pd0.lswOn[c], dutyAct := d }
  s.onLsw fun v => { v with ls := vmapIdx v.ls hold }

/-- LOAD_COAST notices, in the logging phase after COAST (R304). -/
def reportCoast (s : State) : State :=
  if s.sys.dev = .coast then s
  else allLsw.foldl (fun t c =>
    if t.lsw.ls[c].coastDiff then notice .lsw 0x0A c.val [] (modLsw c (fun l => { l with coastDiff := false }) t) else t) s

/-- INRUSH_STEP: the current-limit step has lasted T_STEP; after the last one I_LIM applies (R293). -/
def execInrushStep (c : Fin 16) (s : State) : Result :=
  let l := s.lsw.ls[c]
  if l.st = .inrush ∧ l.stepEnd ≤ lswNow s then
    .next (modLsw c (fun l => if l.step + 1 < l.profile.steps then { l with step := l.step + 1, stepEnd := l.stepEnd + 800 * l.profile.tStep }
      else { l with st := .on, step := 0 }) s)
  else .next s

/-! ### Pulse generators (R296) -/

/-- The grid of a channel carried to `now`: boundaries pass, and a change is taken at the first boundary after it. -/
def gridTo (now : Tick) : List (Tick × Nat × Nat) → Tick × Nat × Nat → (Tick × Nat × Nat) × List (Tick × Nat × Nat)
  | [], (b, p, ph) => ((b + (now - b) / p * p, p, ph), [])
  | (w, p', ph') :: l, (b, p, ph) =>
    let b' := if w < b then b else b + ((w - b) / p + 1) * p
    if b' ≤ now then gridTo now l (b', p', ph') else ((b + (now - b) / p * p, p, ph), (w, p', ph') :: l)

def Lsw.advance (now : Tick) (l : Lsw) : Lsw :=
  let r := gridTo now l.waitGrid (l.pulseB, l.pulseP, l.pulsePhase)
  { l with pulseB := r.1.1, pulseP := r.1.2.1, pulsePhase := r.1.2.2, waitGrid := r.2 }

/-- Its instants moved to another clock; the latest duty is in force (R291). -/
def Lsw.rebase (f : Tick → Tick) (duty : Nat) (l : Lsw) : Lsw :=
  { l with stepEnd := f l.stepEnd, tripAt := f l.tripAt, thermAt := f l.thermAt, closeAt := l.closeAt.map f, pulseB := f l.pulseB
           lastOpen := f l.lastOpen, waitGrid := [], duties := [], dutyAct := duty }

/-- The switches as TIME leaves reset: the grids begin at postmark 0 (R234, R296), the other instants of a key-off
hold go on in postmarks. Marks: DEDUCED (log 76). -/
def lswTimeBegins (s : State) : State :=
  let f (c : Fin 16) (l : Lsw) : Lsw :=
    { l.rebase (fun t => t - s.pd0.now) s.pd0.lswDuty[c] with
      pulseB := 0, lastOpen := 0, pulseP := s.act.fld .lsw (lswLo c + 64) 32, pulsePhase := s.act.fld .lsw (lswLo c + 16) 8 }
  s.onLsw fun v => { v with ls := vmapIdx v.ls f }

/-- A duty write with its effective tick (R291, R296). -/
def writeLswDuty (c : Fin 16) (w : Tick) (d : Nat) (s : State) : State :=
  (modLsw c (fun l => { l with duties := l.duties ++ [(w, d)] }) s).onPd0 fun p => { p with lswDuty := p.lswDuty.set c d }

/-- The on-time of a pulse that opens at `o`: duties reload at the opening and the scale multiplies them; SAFE holds the
duty in force at entry (R296, R302, R303). -/
def pulseWidth (s : State) (c : Fin 16) (duty : Nat) : Tick :=
  let l := s.lsw.ls[c]
  let d := if pulsedMode s c then duty * shedScale s c / 65536 else shedScale s c
  l.pulseP * d / 65536

/-- LSW_PULSE_OPENING: at the opening of its grid a driven channel turns on, first with its full profile, then under I_LIM
alone; a width below 1,600 ticks gives no pulse, a gap below 1,600 ticks no closing (R293, R296). -/
def execLswPulseOpening (c : Fin 16) (s : State) : Result :=
  let l := s.lsw.ls[c].advance (lswNow s)
  let o := l.pulseB + l.pulsePhase * l.pulseP / 256
  if l.pulsing ∧ l.st ≠ .latched ∧ o ≤ lswNow s ∧ l.lastOpen < o + 1 then
    let hold := s.sys.dev = .safe
    let d := if hold then l.dutyAct else (latestWrite (fun w => w < o) l.duties).getD l.dutyAct
    let l1 := { l with lastOpen := o + 1, dutyAct := d, duties := if hold then l.duties else pendingAfter (fun w => w < o) l.duties }
    let s1 := modLsw c (fun _ => l1) s
    let w := pulseWidth s1 c d
    if w < 1600 then .next (lswTurnOff c s1)
    else
      let s2 := if l1.st = .off then (if l1.firstPulse then lswTurnOn c o s1 else modLsw c (fun l => { l with st := .on }) s1) else s1
      .next (modLsw c (fun l => { l with closeAt := if l.pulseP - w < 1600 then none else some (o + w) }) s2)
  else .next (modLsw c (fun _ => l) s)

/-- LSW_PULSE_CLOSING: the on-time of the pulse has passed (R296). -/
def execLswPulseClosing (c : Fin 16) (s : State) : Result :=
  match s.lsw.ls[c].closeAt with
  | some t => if t ≤ lswNow s ∧ s.lsw.ls[c].pulsing then .next (lswTurnOff c s) else .next s
  | none => .next s

/-! ### Faults (R298 to R301) -/

/-- Does anything hold the channel's fault entry open? -/
def Lsw.faulty (l : Lsw) : Bool := l.openLoad || l.shortBat || l.short || l.overload || l.overtemp || l.aggregate

/-- The channel's fault ends once none of its conditions is left (R434). -/
def lswFaultClear (c : Fin 16) (s : State) : State := if s.lsw.ls[c].faulty then s else endFault 0x20 c.val s

/-- A report of a channel fault: its notice and its entry in the fault log (R308, R426). -/
def lswReport (c : Fin 16) (code : Nat) (s : State) : State :=
  notice .lsw code c.val [] (logFault 0x20 .lsw c.val reactReport 0 code s)

/-- The key-off hold of a channel ends. -/
def endHold (c : Fin 16) (s : State) : State := s.onPd0 fun p => { p with keyOffHold := p.keyOffHold.set c none }

/-- The channel is latched off by a trip (R298); a trip ends a key-off hold with no retry (R305). -/
def lswTrip (c : Fin 16) (code : Nat) (f : Lsw → Lsw) (s : State) : State :=
  lswReport c code (noteCoast c (endHold c
    (modLsw c (fun l => f { l with st := .latched, tripAt := lswNow s, pulsing := false, closeAt := none, scaled := false }) s)))

/-- The output is on. -/
def Lsw.outOn (l : Lsw) : Bool := l.st == .on || l.st == .inrush

/-- The channel is on: its output, or its pulses with the gaps between them. -/
def Lsw.isOn (l : Lsw) : Bool := l.outOn || (l.pulsing && l.st != .latched)

/-- LSW_SHORT (R298). -/
def execLswShort (c : Fin 16) (s : State) : Result :=
  if s.lsw.ls[c].outOn then .next (lswTrip c 0x03 (fun l => { l with short := true }) s) else .next s

/-- LSW_OVERLOAD: T_LIMIT in current limit after the inrush phase, or the 1 s mean, which takes in inrush and the gaps of
pulses (R298); not in a key-off hold (R305). -/
def execLswOverload (c : Fin 16) (s : State) : Result :=
  if s.lsw.ls[c].isOn ∧ (s.pd0.keyOffHold[c]).isNone then .next (lswTrip c 0x04 (fun l => { l with overload := true }) s) else .next s

/-- A channel's switch sensor, in zone Z8 (R309). -/
def lswSensor (c : Fin 16) : Fin 20 := ⟨c.val, by omega⟩

/-- A channel's switch at reading `r`: OVERTEMP and THERM_LATCH from T_TRIP on, the latch released at or below T_TRIP − 20 K
(R298, R310). -/
def lswTemp (c : Fin 16) (r : Int) (s : State) : State :=
  if tTrip s ≤ r ∧ !s.lsw.ls[c].thermLatch then lswTrip c 0x05 (fun l => { l with overtemp := true, thermLatch := true }) s
  else if s.lsw.ls[c].thermLatch ∧ r ≤ tRelease s then
    lswSync c (lswFaultClear c (modLsw c (fun l =>
      { l with thermLatch := false, thermAt := lswNow s, overtemp := l.overtemp && l.st == .latched }) s))
  else s

/-- The off-state diagnosis of a channel runs: its output is off, latched or not; suspended above 36 V and in LOW_SUPPLY
(R298, R463). -/
def offDiagnosed (s : State) (c : Fin 16) : Bool :=
  !s.lsw.ls[c].outOn && offTest s c && !s.pwr.over36 && !s.pwr.lowSupply

/-- LSW_OPEN_LOAD: reported on, or off with OFF_TEST, and clear 100 ms after (R298). -/
def execLswOpenLoad (c : Fin 16) (present : Bool) (s : State) : Result :=
  let l := s.lsw.ls[c]
  let tested := l.st = .on ∨ offDiagnosed s c
  if present ∧ tested ∧ !l.openLoad then .next (lswReport c 0x01 (modLsw c (fun l => { l with openLoad := true }) s))
  else if !present ∧ l.openLoad then .next (lswFaultClear c (modLsw c (fun l => { l with openLoad := false }) s))
  else .next s

/-- LSW_SHORT_BAT: the off output stays at or above 6 V (R298). -/
def execLswShortBat (c : Fin 16) (present : Bool) (s : State) : Result :=
  let l := s.lsw.ls[c]
  if present ∧ offDiagnosed s c ∧ !l.shortBat then
    .next (lswReport c 0x02 (modLsw c (fun l => { l with shortBat := true }) s))
  else if !present ∧ l.shortBat then .next (lswFaultClear c (modLsw c (fun l => { l with shortBat := false }) s))
  else .next s

/-- The channel R300 switches off next: HEATER, then LOAD, then EXEMPT, the highest index first; none in a key-off hold
(R305). -/
def shedNext (s : State) : Option (Fin 16) :=
  let on (k : Nat) := allLsw.reverse.find? fun c => s.lsw.ls[c].isOn && shedClass s c == k && (s.pd0.keyOffHold[c]).isNone
  (on 0).or ((on 1).or (on 2))

/-- One step of AGGREGATE shedding (R300). -/
def shedOne (s : State) : State :=
  match shedNext s with
  | none => s
  | some c => lswReport c 0x06 (noteCoast c (modLsw c (fun l => { l with st := .latched, aggregate := true, pulsing := false, closeAt := none, scaled := false }) s))

/-- AGGREGATE: the 100 ms mean of all currents, mA, is above 80 A (R300). -/
def execAggregate (meanMa : Nat) (s : State) : Result :=
  if meanMa > 80000 ∧ !s.lsw.shedding then .next (shedOne (s.onLsw fun v => { v with shedding := true, lastShed := s.pm })) else .next s

/-- AGGREGATE_SHED_STEP: one more channel 1 ms later, until the 1 ms mean is at or below 76 A (R300). -/
def execAggregateShedStep (meanMa : Nat) (s : State) : Result :=
  if s.lsw.shedding ∧ s.lsw.lastShed + 80000 ≤ s.pm then
    if meanMa ≤ 76000 then .next (s.onLsw fun v => { v with shedding := false })
    else .next (shedOne (s.onLsw fun v => { v with lastShed := s.pm }))
  else .next s

/-- LATCHED_OFF clears; its fault bits go with it. Marks: DEDUCED (log 76). -/
def lswUnlatch (c : Fin 16) (s : State) : State :=
  lswFaultClear c (modLsw c (fun l => { l with st := .off, short := false, overload := false, overtemp := l.thermLatch,
                                               aggregate := false, exhausted := false, firstPulse := true }) s)

/-- LSW_RETRY_DUE: the later of trip + RETRY_DELAY and the thermal release has come (R299). In LATCHED nothing is
retried. -/
def execLswRetryDue (c : Fin 16) (s : State) : Result :=
  let l := s.lsw.ls[c]
  if l.st = .latched ∧ !l.aggregate ∧ !l.thermLatch ∧ !l.exhausted ∧ s.sys.dev ≠ .latched
      ∧ max (l.tripAt + msTicks l.profile.retryDelay) l.thermAt ≤ lswNow s then
    if !s.pd0.lswOn[c] ∨ s.sys.dev = .off then .next (lswSync c (lswUnlatch c s))
    else if s.pd0.lswRetries[c] > 0 then
      .next (lswSync c (lswUnlatch c (s.onPd0 fun p => { p with lswRetries := p.lswRetries.set c (p.lswRetries[c] - 1) })))
    else .next (notice .lsw 0x07 c.val [] (modLsw c (fun l => { l with exhausted := true }) s))
  else .next s

/-! ### Coast and key-off timers (R303, R305) -/

/-- OFF_AFTER_EXPIRY: the window of an OFF_AFTER channel closes in COAST. -/
def execOffAfterExpiry (c : Fin 16) (s : State) : Result :=
  if s.sys.dev = .coast ∧ coastPolicy s c = 1 ∧ s.sys.coastEntry + offAfter s c ≤ s.pm then .next (lswSync c s) else .next s

/-- KEYOFF_HOLD_END: the window of a key-off hold, timed in PD0, closes. -/
def execKeyoffHoldEnd (c : Fin 16) (s : State) : Result :=
  match s.pd0.keyOffHold[c] with
  | some t => if t ≤ s.pd0.now then .next (lswSync c (endHold c s)) else .next s
  | none => .next s

/-! ### Supply (R306) -/

/-- Every channel off under its own ground-loss detector; in COAST one commanded on is remembered for LOAD_COAST (R304). -/
def lswGroundLoss (s : State) : State :=
  let off (t : State) (c : Fin 16) : State := lswTurnOff c (modLsw c (fun l => { l with gndLoss := true, pulsing := false }) t)
  allLsw.foldl (fun t c => notice .lsw 0x09 c.val [] (noteCoast c (off t c))) s

/-- The same while the logic has no supply: there is no frame edge to resume at, so key-off holds end. Marks: DEDUCED
(log 76). -/
def lswGroundLossOff (s : State) : State :=
  (s.onPd0 fun p => { p with keyOffHold := Vector.replicate 16 none }).onLsw fun v => { v with
    ls := vmap v.ls fun l => { l with st := if l.st = .latched then .latched else .off, gndLoss := true, pulsing := false, closeAt := none } }

/-- Ground has been present for 10 ms: channels resume at the frame edge. -/
def lswGroundBack (s : State) : State :=
  lswSyncAll (s.onLsw fun v => { v with ls := vmap v.ls fun l => { l with gndLoss := false, firstPulse := true } })

/-- Reverse battery: RES and LAMP channels are driven on by the protection hardware, every other stays off. Marks:
DEDUCED (log 76). -/
def lswReverse (s : State) : State :=
  s.onLsw fun v => { v with ls := vmap v.ls fun l => { l with st := if l.resLamp then .on else .off, pulsing := false, closeAt := none } }

/-- VLS is positive again: the drive has ended, and every channel is off. -/
def lswReverseEnds (s : State) : State :=
  if s.pwr.reverseBatt then s.onLsw fun v => { v with ls := vmap v.ls fun l => { l with st := .off } } else s

/-! ### Commits of PB.LSW at edge `e` (R294, R296) -/

def commitLsw (e : Tick) (old : Params) (s : State) : State :=
  lswSyncAll (s.onLsw fun v => { v with
    ls := vmapIdx v.ls fun c l =>
      let p := s.act.fld .lsw (lswLo c + 64) 32
      let ph := s.act.fld .lsw (lswLo c + 16) 8
      if old.fld .lsw (lswLo c + 64) 32 ≠ p ∨ old.fld .lsw (lswLo c + 16) 8 ≠ ph then { l with waitGrid := l.waitGrid ++ [(e, p, ph)] }
      else l })

/-! ### Requests (R291, R301, R394) -/

/-- A channel latched off (R301). -/
def lswLatchedOn (s : State) (r : List Byte) : Bool :=
  match idx? 16 (recN r 0 4) with
  | some c => recN r 4 1 == 1 && s.lsw.ls[c].st == .latched
  | none => false

def opLswSet (e : Env) (s : State) : State × Answer :=
  let es := entries e 0 4
  match firstBad [(es.any fun r => recN r 6 10 != 0, .badParam),
                  (!noDup (es.map fun r => recN r 0 4), .badParam),
                  (es.any fun r => recN r 5 1 == 1 && loopDrives s 3 (recN r 0 4), .state)] with
  | some st => (s, { status := st, data := leBytes 2 0 })
  | none =>
    let acts := es.filterMap fun r => (idx? 16 (recN r 0 4)).map fun c =>
      EdgeAct.lswSet c (recN r 4 1 == 1) (if recN r 5 1 = 1 then some (recN r 16 16) else none)
    let bitsOn := bitWord 16 fun c => es.any fun r => recN r 0 4 == c && lswLatchedOn s r
    (waitEdge 0x0800 e acts s, { status := if bitsOn = 0 then .ok else .faulted, effectPm := nextEdge s.pm, data := leBytes 2 bitsOn })

/-- LSW_SET at its frame edge `t`: it ends a key-off hold (R291, R305). -/
def applyLswSet (c : Fin 16) (on : Bool) (duty : Option Nat) (t : Tick) (s : State) : State :=
  let s1 := (endHold c s).onPd0 fun p => { p with lswOn := p.lswOn.set c on }
  let s2 := match duty with
    | some d => writeLswDuty c t d s1
    | none => s1
  lswSync c s2

/-- A cleared channel resumes its commanded state at its frame edge (R301). -/
def applyLswResume (c : Fin 16) (s : State) : State := lswSync c (modLsw c (fun l => { l with resumeWait := false }) s)

/-- The retries a channel reloads (R299). -/
def lswReload (c : Fin 16) (s : State) : State :=
  s.onPd0 fun p => { p with lswRetries := p.lswRetries.set c (profileOf s (lswType s c)).retry }

/-- LSW_CLEAR_FAULT: a channel it unlatches waits for the frame edge (R301). Marks: DEDUCED (log 76). -/
def opLswClearFault (e : Env) (s : State) : State × Answer :=
  match idx? 16 (arg e 0 4) with
  | none => deny .badParam s
  | some c =>
    if arg e 4 4 ≠ 0 then deny .badParam s
    else
      let l := s.lsw.ls[c]
      let s1 := if l.st = .latched then modLsw c (fun l => { l with resumeWait := true }) (lswUnlatch c s) else s
      doneEdge s (waitEdge 0x0801 e [.lswResume c] (lswReload c s1))

end Sys2Proof.Machine
end

