-- ==== Sys2Proof/Machine/Loops.lean ====
section
/-! DEFINITION. The control engine: inputs, evaluation, outputs, misses, flow balance, and its requests (11). The
notices are those of R271. -/

namespace Sys2Proof.Machine

def modLoop (k : Fin 16) (f : Loop → Loop) (s : State) : State := s.onCe fun v => { v with loop := vmod v.loop k f }
def modFlow (j : Fin 4) (f : Flow → Flow) (s : State) : State := s.onCe fun v => { v with flow := vmod v.flow j f }
def allLoops : List (Fin 16) := List.finRange 16

/-! ### Parameters (R253) -/

def ceF (s : State) (k : Fin 16) (lo w : Nat) : Nat := s.act.fld .ce (1024 * k.val + lo) w
def ceS (s : State) (k : Fin 16) (lo : Nat) : Int := s.act.fldS .ce (1024 * k.val + lo) 32
def deadline (s : State) (k : Fin 16) : Tick := ceF s k 128 16
/-- Interval Ts in µs (R251). -/
def tsUs (rate : Nat) : Nat := match rate with | 0 => 500 | 1 => 125 | 2 => 1000 | _ => 2000

/-- Sub-slot `q` of a frame with full count `n` evaluates a loop of these RATE, SLOT and FRAME_PHASE (R251). -/
def slotDue (rate slot phase n q : Nat) : Bool :=
  match rate with
  | 0 => q == slot
  | 1 => true
  | 2 => q == slot && n % 2 == phase
  | _ => q == slot && n % 4 == phase

/-- Loop `k` has a sample instant at `t`, a sub-slot start (R250, R251). -/
def loopDue (s : State) (k : Fin 16) (t : Tick) : Bool :=
  loopMode s k.val ≥ 1 && slotDue (ceF s k 2 2) (ceF s k 4 2) (ceF s k 6 2) (t / 40000) (t % 40000 / 10000)

/-- CE evaluates (R267). -/
def ceRuns (s : State) : Bool :=
  (match s.sys.dev with
   | .standby | .armed | .manual | .coast => true
   | _ => false) && !s.restarting .control

/-! ### Inputs (R254 to R257) -/

/-- Raw feedback at sample instant `t`; none where its source flags it invalid, or is a loop in loop fault (R254,
R264). Marks: DEDUCED (log 74). -/
def feedbackRaw (s : State) (k : Fin 16) (t : Tick) : Option Int :=
  let ix := ceF s k 11 5
  match ceF s k 8 3 with
  | 0 => (idx? 32 ix).bind fun i => let a := s.pif.ain[i].before t; if a.invalid then none else some a.value
  | 1 => (idx? 16 ix).map fun i => (s.pif.freq[i].freq : Int)
  | 2 => (idx? 4 ix).map fun i => s.pif.enc[i].countBefore t
  | 3 => (idx? 4 ix).map fun i => s.pif.enc[i].speed
  | 4 => (idx? 4 ix).bind fun i => if (s.pif.hall[i].before t).invalid then none else some s.pif.hall[i].speed
  | 5 => (idx? 16 ix).bind fun i => if s.ce.loop[i].fault then none else some s.ce.loop[i].output
  | _ => (idx? 4 ix).bind fun i => let h := s.pif.hall[i].before t; if h.invalid then none else some h.count

/-- An analog value as setpoint or feedforward. -/
def analogRaw (s : State) (ix : Nat) (t : Tick) : Option Int :=
  (idx? 32 ix).bind fun i => let a := s.pif.ain[i].before t; if a.invalid then none else some (a.value : Int)

/-- The flow demand of a layer that CE sees in this frame (R257). -/
def demandOf (s : State) (ix : Nat) : Int :=
  match idx? 4 ix with
  | some j => s.fe.demandPrev[j]
  | none => 0

/-- Output of a source loop, and whether it is held. -/
def loopOut (s : State) (ix : Nat) : Int × Bool :=
  match idx? 16 ix with
  | some j => (s.ce.loop[j].output, s.ce.loop[j].fault)
  | none => (0, false)

/-- The setpoint, and whether the last one is held (R255, R257); none where the input is invalid. -/
def setpointOf (s : State) (k : Fin 16) (t : Tick) : Option (Int × Bool) :=
  let l := s.ce.loop[k]
  let v := ceS s k 96
  let ix := ceF s k 19 5
  match ceF s k 16 3 with
  | 0 => some (v, false)
  | 1 => some (l.hostSet.getD v, false)
  | 2 => some (if s.restarting .field then (l.heldSp, true) else (demandOf s ix, false))
  | 3 => let u := loopOut s ix; some (if u.2 then (l.heldSp, true) else ((u.1 * v).tdiv 65536, false))
  | _ => (analogRaw s ix t).map fun raw => ((raw * v).tdiv 65536, false)

/-- The feedforward value, and whether the last one is held (R256, R257). -/
def feedforwardOf (s : State) (k : Fin 16) (t : Tick) : Option (Int × Bool) :=
  let l := s.ce.loop[k]
  let ix := ceF s k 148 5
  match ceF s k 146 2 with
  | 0 => some (0, false)
  | 1 => some (if s.restarting .field then (l.heldFf, true) else (demandOf s ix, false))
  | 2 => (analogRaw s ix t).map fun raw => (raw, false)
  | _ => let u := loopOut s ix; some (if u.2 then (l.heldFf, true) else (u.1, false))

/-! ### Friction and cogging (R259, R260) -/

/-- Linear interpolation in a friction table, points (speed, output) one after the other. -/
def interpolate (x : Int) : List Int → Int
  | [] => 0
  | [_] => 0
  | [_, u] => u
  | a :: u :: b :: w :: l =>
    if x ≤ a then u
    else if x < b then u + ((w - u) * (x - a)).tdiv (b - a)
    else interpolate x (b :: w :: l)
  | [_, u, _] => u

def frictionTerm (s : State) (k : Fin 16) : Int :=
  if ceF s k 153 1 = 0 then 0
  else match idx? 4 (ceF s k 160 2), ceF s k 158 2 with
    | some i, 1 => interpolate s.pif.enc[i].speed s.ce.tables.friction[k]
    | some i, 2 => interpolate s.pif.hall[i].speed s.ce.tables.friction[k]
    | _, _ => 0

/-- COG_SUSPENDED: no index since START or since POSITION_UNCERTAIN. -/
def cogSuspended (s : State) (k : Fin 16) : Bool :=
  ceF s k 154 1 == 1 && match idx? 4 (ceF s k 160 2) with
    | some i => !s.pif.enc[i].idxFresh
    | none => true

def coggingTerm (s : State) (k : Fin 16) (t : Tick) : Int :=
  if ceF s k 154 1 = 0 ∨ cogSuspended s k then 0
  else match idx? 4 (ceF s k 160 2) with
    | some i =>
      let cpr := ceF s k 176 16
      let n := 256 * (s.pif.enc[i].countBefore t % (cpr : Int)).toNat
      let tab := s.ce.tables.cogging[k]
      let a := (tab[n / cpr % 256]?).getD 0
      let b := (tab[(n / cpr + 1) % 256]?).getD 0
      a + ((b - a) * (n % cpr : Nat)).tdiv cpr
    | none => 0

/-! ### The loop (R258 to R262) -/

/-- The gains of region `g` of loop `k` in a set of images. -/
def gainsOf (a : Params) (k : Fin 16) (g : Nat) : Gains :=
  let p (j : Nat) : Int := a.fldS .ce (1024 * k.val + 512 + 128 * g + 32 * j) 32
  { kp := p 0, ki := p 1, kd := p 2, kff := p 3 }
def bound (s : State) (k : Fin 16) (g : Nat) : Int := ceS s k (384 + 32 * (g - 1))

/-- Hysteresis of a boundary: 2 %, at least 1 (R261). -/
def hyst (b : Int) : Int := max 1 (b.natAbs / 50 : Nat)

/-- The region that contains `x`, without hysteresis. -/
def regionOf (s : State) (k : Fin 16) (x : Int) : Nat :=
  if x ≥ bound s k 3 then 3 else if x ≥ bound s k 2 then 2 else if x ≥ bound s k 1 then 1 else 0

/-- One move of the region at most (R261). Marks: DEDUCED (log 74). -/
def nextRegion (s : State) (k : Fin 16) (g : Nat) (x : Int) : Nat :=
  if g < 3 ∧ x ≥ bound s k (g + 1) + hyst (bound s k (g + 1)) then g + 1
  else if g > 0 ∧ x < bound s k g - hyst (bound s k g) then g - 1
  else g

/-- What an evaluation takes. -/
structure LoopIn where
  y : Int := 0
  r : Int := 0
  v : Int := 0
  held : Bool := false
deriving DecidableEq, Repr, Inhabited

/-- The hall interface whose speed the friction term reads is INVALID (R259, R264, R279). -/
def motionInvalid (s : State) (k : Fin 16) (t : Tick) : Bool :=
  ceF s k 153 1 == 1 && ceF s k 158 2 == 2 && match idx? 4 (ceF s k 160 2) with
    | some i => (s.pif.hall[i].before t).invalid
    | none => false

/-- The inputs at sample instant `t`; none for a miss (R254, R264). -/
def loopInputs (s : State) (k : Fin 16) (t : Tick) : Option LoopIn :=
  if loopMode s k.val = 3 ∧ motionInvalid s k t then none
  else match feedbackRaw s k t, setpointOf s k t, feedforwardOf s k t with
  | some raw, some r, some v =>
    some { y := (raw * ceS s k 32) / 65536 + ceS s k 64, r := r.1, v := v.1, held := r.2 || v.2 }
  | _, _, _ => none

/-- The scheduling value (R261). -/
def schedValue (s : State) (k : Fin 16) (x : LoopIn) : Option Int :=
  match ceF s k 144 2 with
  | 0 => none
  | 1 => some x.y
  | 2 => some x.r
  | _ => some x.v

/-- P − D + FF terms with gains `g`, weight 2⁻¹⁶ (R258). -/
def terms (g : Gains) (x : LoopIn) (dy ff : Int) : Int :=
  (g.kp * (x.r - x.y)).tdiv 65536 - (g.kd * dy).tdiv (16777216 * 65536) + (g.kff * x.r).tdiv 65536 + ff

/-- The integrator step over `ts` µs, weight 2⁻³². Marks: DEDUCED (log 74). -/
def integStep (g : Gains) (ts : Nat) (x : LoopIn) : Int :=
  ((g.ki * (x.r - x.y)).tdiv 65536 * 65536 * ts).tdiv 1000000

/-- CMP from an output (R263). -/
def cmpOf (s : State) (g : Fin 8) (u : Int) : Nat :=
  (max 0 u).toNat * fineHMax s g / 65536

/-- The output whose CMP a fine generator holds, the latest written: `u` itself where it gives that CMP. -/
def outputOfCmp (s : State) (g : Fin 8) (u : Int) : Int :=
  let f := s.pwu.fine[g]
  let cmp := (latestWrite (fun _ => true) f.cmpWait).getD f.cmpActive
  if cmpOf s g u = cmp then u else (cmp * 65536 / fineHMax s g : Nat)

/-- The output that the destination of loop `k` holds (R262): what it was last given, by CE or by the host. Marks:
DEDUCED (log 74). -/
def heldOutput (s : State) (k : Fin 16) : Int :=
  let u := s.ce.loop[k].output
  let ix := ceF s k 27 5
  match ceF s k 24 3 with
  | 1 => match idx? 8 ix with
    | some g => outputOfCmp s g u
    | none => u
  | 2 => match idx? 8 ix, idx? 8 (ix + 1) with
    | some g, some h => let a := outputOfCmp s g (max 0 u); let b := outputOfCmp s h (max 0 (-u)); a - b
    | _, _ => u
  | 3 => match idx? 16 ix with
    | some c => if clampI 0 65535 u = (s.pd0.lswDuty[c] : Int) then u else s.pd0.lswDuty[c]
    | none => u
  | _ => u

/-- One evaluation of a CLOSED loop: the loop after it, with the output to be written, and whether I_MIN or I_MAX has
clipped a bumpless step. The first after a start is bumpless from the output the destination holds, 0 after SAFE; a
change of the gains, by the region or by a commit, from the output the old ones give (R258, R262, R267). Marks:
DEDUCED (log 74). -/
def closedEval (s : State) (k : Fin 16) (t : Tick) (x : LoopIn) (l : Loop) : Loop × Bool :=
  let ts := tsUs (ceF s k 2 2)
  let dy := if l.started then Config.firstOrder l.deriv (((x.y - l.feedback) * 65536000000).tdiv ts) (ceF s k 368 16) ts else 0
  let ff := (ceS s k 480 * x.v).tdiv 65536 + frictionTerm s k + coggingTerm s k t
  let iMin := ceS s k 256 * 65536
  let iMax := ceS s k 288 * 65536
  let uMin := ceS s k 192 * 65536
  let uMax := ceS s k 224 * 65536
  let prev := if l.started then l.output else if l.fromZero then 0 else heldOutput s k
  let g0 := l.region
  let sv := schedValue s k x
  let g := match sv with
    | none => 0
    | some z => if l.started then nextRegion s k g0 z else regionOf s k z
  let gOld := l.oldGains.getD (gainsOf s.act k g0)
  let gNew := gainsOf s.act k g
  let tm := terms gNew x dy ff * 65536
  let i0 := l.integ + integStep gOld ts x
  let i1 := if !l.started then prev * 65536 - tm
            else if g ≠ g0 ∨ gOld ≠ gNew then terms gOld x dy ff * 65536 + i0 - tm
            else i0
  let i2 := clampI iMin iMax i1
  let bump := (!l.started || g != g0 || gOld != gNew) && i2 != i1
  let u := tm + i2
  let uc := clampI uMin uMax u
  let i3 := if uc ≠ u ∧ l.started ∧ (gNew.ki * (x.r - x.y)).sign = (u - uc).sign then clampI iMin iMax (i2 - integStep gNew ts x) else i2
  let slew : Int := ceF s k 352 16
  let us := if slew = 0 then uc else clampI ((prev - slew) * 65536) ((prev + slew) * 65536) uc
  let l1 : Loop := {
    l with fromZero := false, oldGains := none, feedback := x.y, setpoint := x.r, output := us.tdiv 65536, integ := i3, deriv := dy, region := g, missRun := 0
           satHi := decide (u > uMax), satLo := decide (u < uMin), iClamp := decide (i3 ≤ iMin) || decide (iMax ≤ i3)
           bumpClamped := l.bumpClamped || bump, cogSuspended := cogSuspended s k, heldSrc := x.held, started := true
           heldSp := x.r, heldFf := x.v, evalFor := some t  }
  (l1, bump)

/-- An evaluation in OPEN or MONITOR: inputs are taken; in OPEN the host's output is clamped and limited by SLEW (R263,
R392). -/
def openEval (s : State) (k : Fin 16) (t : Tick) (x : LoopIn) (l : Loop) : Loop :=
  let raw := l.hostOut.getD l.output
  let target := clampI (ceS s k 192) (ceS s k 224) raw
  let slew : Int := ceF s k 352 16
  let writes := loopMode s k.val = 2 ∧ l.hostOut.isSome
  let u := if writes then (if slew = 0 then target else clampI (l.output - slew) (l.output + slew) target) else l.output
  { l with feedback := x.y, setpoint := x.r, output := u, missRun := 0, heldSrc := x.held, heldSp := x.r, heldFf := x.v
           satHi := if writes then decide (raw > ceS s k 224) else l.satHi
           satLo := if writes then decide (raw < ceS s k 192) else l.satLo
           started := false, fromZero := false, oldGains := none, evalFor := some t }

/-- Write output `u` to the destination of loop `k` (R263). -/
def writeOutput (k : Fin 16) (u : Int) (s : State) : State :=
  let ix := ceF s k 27 5
  match ceF s k 24 3 with
  | 1 => match idx? 8 ix with
    | some g => writeCmp g (cmpOf s g u) s
    | none => s
  | 2 => match idx? 8 ix, idx? 8 (ix + 1) with
    | some g, some h => writeCmp h (cmpOf s h (-u)) (writeCmp g (cmpOf s g u) s)
    | _, _ => s
  | 3 => match idx? 16 ix with
    | some c => writeLswDuty c s.pm (clampI 0 65535 u).toNat s
    | none => s
  | _ => s

/-- Loop `j` has a sample instant at `t` that counts for it. -/
def loopCounts (s : State) (j : Fin 16) (t : Tick) : Bool :=
  loopDue s j t && !s.ce.loop[j].fault && decide (s.ce.loop[j].since ≤ t)

/-- It is the turn of loop `k` in the sub-slot of `t`: CE takes the loops in order of index, so none after it has
completed, and those before it have completed, miss, or were given up after a stall of up to 1,280 ticks each; its
evaluation completes between S + 160 and S + 160 + 320 × (q + 1), later by the stalls (R252, R264, R450). Marks:
DEDUCED (log 74). -/
def loopTurn (s : State) (k : Fin 16) (t : Tick) : Bool :=
  let js := allLoops.filter fun j => decide (j < k) && loopCounts s j t
  let stalled := js.filter fun j => s.ce.loop[j].evalFor != some t && (loopInputs s j t).isSome
  allLoops.all (fun j => !(decide (k < j) && loopDue s j t && s.ce.loop[j].evalFor == some t && s.ce.loop[j].missRun == 0))
    && decide (t + 160 ≤ s.pm) && decide (s.pm ≤ t + 160 + 320 * (js.length + 1) + 1280 * stalled.length)

/-- LOOP_EVALUATION: CE evaluates a loop in the sub-slot it is due in, in its turn, before its deadline; without valid inputs
it does not complete (R250 to R264). -/
def execLoopEvaluation (k : Fin 16) (s : State) : Result :=
  let t := s.pm / 10000 * 10000
  let l := s.ce.loop[k]
  if ceRuns s ∧ loopCounts s k t ∧ l.evalFor ≠ some t ∧ loopTurn s k t ∧ s.pm < t + deadline s k then
    match loopInputs s k t with
    | none => .next s
    | some x =>
      if loopMode s k.val = 3 then
        let r := closedEval s k t x l
        let s1 := writeOutput k r.1.output (modLoop k (fun _ => r.1) s)
        let s2 := if r.2 then notice .ce 0x03 k.val [] s1 else s1
        .next (if r.1.cogSuspended ∧ !l.cogSuspended then notice .ce 0x04 k.val [] s2 else s2)
      else
        let l1 := openEval s k t x l
        let s1 := modLoop k (fun _ => l1) s
        .next (if loopMode s k.val = 2 ∧ l.hostOut.isSome then writeOutput k l1.output s1 else s1)
  else .next s

/-! ### Misses (R264, R265) -/

/-- Sample instant `u` counts for loop `k`, and no evaluation has completed for it. -/
def unmet (s : State) (k : Fin 16) (u : Tick) : Bool :=
  loopCounts s k u && (match s.ce.loop[k].evalFor with | some v => decide (v < u) | none => true)

/-- The sample instant whose deadline has passed without a completed evaluation. -/
def missedInstant (s : State) (k : Fin 16) : Option Tick :=
  let t := s.pm / 10000 * 10000
  let miss (u : Tick) : Bool := unmet s k u && decide (u + deadline s k ≤ s.pm)
  if miss t then some t else if t ≥ 10000 ∧ miss (t - 10000) then some (t - 10000) else none

/-- The frame of edge `f` had an evaluation that missed its deadline, or has one that has not completed (R267). -/
def missedIn (s : State) (f : Tick) : Bool :=
  s.ce.lastMiss.any (f ≤ ·) || allLoops.any fun k => (List.range 4).any fun q => unmet s k (f + 10000 * q)

/-- Output at loop fault (R265): none holds the last value. -/
def faultOutput (s : State) (k : Fin 16) : Option Int :=
  match ceF s k 155 3 with
  | 0 => none
  | 1 => some 0
  | _ => some (ceS s k 320)

/-- One miss at sample instant `t`. The third in a row is a loop fault; its output is written at once, unless MODE is
MONITOR (R263, R265). -/
def countLoopMiss (k : Fin 16) (t : Tick) (s : State) : State :=
  let l := s.ce.loop[k]
  let run := l.missRun + 1
  let s1 := (modLoop k (fun l => { l with miss := true, missRun := min run 3, misses := l.misses + 1, evalFor := some t, fault := decide (run ≥ 3) }) s).onCe
    fun v => { v with lastMiss := some t }
  let s2 := if run = 1 then notice .ce 0x01 k.val [] s1 else s1
  if run ≥ 3 then
    let s3 := notice .ce 0x02 k.val [] s2
    match if loopMode s k.val ≥ 2 then faultOutput s k else none with
    | some u => writeOutput k u (modLoop k (fun l => { l with output := u }) s3)
    | none => s3
  else s2

/-! ### Starts (R262, R266, R267) -/

/-- CE_LOOP_RESET at its edge `e`: the fault clears and evaluation resumes bumplessly. -/
def applyLoopReset (k : Fin 16) (e : Tick) (s : State) : State :=
  endFault 0x1B k.val (modLoop k (fun l => { l with fault := false, missRun := 0, started := false, fromZero := false, since := e }) s)

/-- After a CE restart every loop starts again from the output its destination holds. -/
def restartLoops (s : State) : State :=
  s.onCe fun v => { v with loop := vmap v.loop fun l => { l with started := false, fromZero := false } }

/-- Loops evaluate from edge `t` on, at the entry to STANDBY from START or SAFE; from SAFE a CLOSED loop starts with a
previous output of 0. -/
def loopsFrom (t : Tick) (s : State) : State :=
  let from_ (k : Fin 16) (l : Loop) : Loop :=
    if s.sys.dev = .safe ∧ loopMode s k.val = 3 then { l with since := t, started := false, fromZero := true, output := 0, missRun := 0 }
    else { l with since := t }
  s.onCe fun v => { v with loop := vmapIdx v.loop from_ }

/-- A loop under a commit of PB.CE at edge `e`: it starts afresh where MODE changes; a new schedule counts from E on;
other gains act bumplessly (R251, R262). Marks: DEDUCED (log 74). -/
def commitLoop (e : Tick) (old new : Params) (k : Fin 16) (l : Loop) : Loop :=
  let f (a : Params) (lo w : Nat) : Nat := a.fld .ce (1024 * k.val + lo) w
  let g := gainsOf old k l.region
  let l1 := if f old 0 8 ≠ f new 0 8 then { l with since := e } else l
  if f old 0 2 ≠ f new 0 2 then { l1 with started := false, hostOut := none, oldGains := none }
  else if l.started ∧ g ≠ gainsOf new k l.region ∧ l.oldGains.isNone then { l1 with oldGains := some g }
  else l1

/-- A commit of PB.CE at edge `e`; tables become active with it (R259, R260). -/
def commitCe (e : Tick) (old : Params) (tabs : Option Tables) (s : State) : State :=
  s.onCe fun v => { v with
    tables := tabs.getD v.tables
    loop := vmapIdx v.loop fun k l => commitLoop e old s.act k l }

/-! ### Flow balance (R268, R269) -/

def flowLo (j : Fin 4) : Nat := 64 * j.val + 16384
def flowF (s : State) (j : Fin 4) (lo w : Nat) : Nat := s.act.fld .ce (flowLo j + lo) w

/-- The bound of R269 in 1/1,000 of 1/1,000 layer unit per minute. -/
def flowBound (s : State) (j : Fin 4) (qd : Nat) : Nat := 5 * flowF s j 16 8 * qd + 100000 * flowF s j 24 8

/-- The flow balance of layer `j` at the freeze of edge `e`, in every frame. The demands are kept whether the balance
is on or off; while it is off, or CE restarts, the 2 s of its test begin again. Marks: DEDUCED (log 74). -/
def flowFreeze (e : Tick) (j : Fin 4) (s : State) : State :=
  let f := s.ce.flow[j]
  let hist := (s.fe.demand[j] :: f.hist).take 4003
  if flowF s j 4 1 = 0 ∨ s.restarting .control then
    modFlow j (fun f => { f with hist := hist, overSince := none, underSince := none }) s
  else
    let lag := 20 * flowF s j 8 8
    let qd := (hist[1 + lag]?).getD 0
    let qd0 := (hist[2 + lag]?).getD 0
    let qm : Int := match idx? 16 (flowF s j 0 4) with
      | some i => (s.pif.freq[i].freq * 15000 / flowF s j 32 32 : Nat)
      | none => 0
    let rho := Config.firstOrder f.rho (qm - qd) 1000000 500
    let moved := decide (10 * ((qd : Int) - qd0).natAbs > qd0)
    let until_ := if moved then e + 160000000 else f.suspendUntil
    let held := decide (e < until_)
    let beyond := decide (1000 * rho.natAbs > flowBound s j qd)
    let under := decide (1250 * rho.natAbs < flowBound s j qd)
    modFlow j (fun f => { f with
      rho := rho, hist := hist, suspendUntil := until_
      overSince := if beyond && !held then some (f.overSince.getD e) else none
      underSince := if under && !held then some (f.underSince.getD e) else none }) s

/-- FLOW_IMBALANCE: 2 s above the bound, or 2 s below 80 % of it (R269). -/
def execFlowImbalance (j : Fin 4) (s : State) : Result :=
  let f := s.ce.flow[j]
  let long (o : Option Tick) : Bool := match o with
    | some t => flowF s j 4 1 == 1 && decide (t + 160000000 ≤ s.pm)
    | none => false
  if !f.imbalance ∧ long f.overSince then
    .next (notice .ce 0x05 j.val (leBytes 4 (uint 32 f.rho)) (modFlow j (fun f => { f with imbalance := true }) s))
  else if f.imbalance ∧ long f.underSince then .next (modFlow j (fun f => { f with imbalance := false }) s)
  else .next s

/-! ### Requests (R266, R392) -/

def opCeSetpoint (e : Env) (s : State) : State × Answer :=
  match idx? 16 (arg e 0 4) with
  | some k => if arg e 4 28 ≠ 0 then deny .badParam s else doneEdge s (waitEdge 0x0600 e [.setpoint k (argS e 32 32)] s)
  | none => deny .range s

def opCeOutput (e : Env) (s : State) : State × Answer :=
  let u := argS e 32 32
  match idx? 16 (arg e 0 4), firstBad [(arg e 4 28 ≠ 0, .badParam), (u < -65536 || u > 65536, .range),
                                       (loopMode s (arg e 0 4) ≠ 2, .state)] with
  | some k, none => doneEdge s (waitEdge 0x0601 e [.output k u] s)
  | _, some st => deny st s
  | none, none => deny .range s

def opCeTableWrite (e : Env) (s : State) : State × Answer :=
  let d := e.payload.drop 4
  match idx? 16 (arg e 0 4) with
  | none => deny .range s
  | some k =>
    if arg e 5 27 ≠ 0 then deny .badParam s
    else if argB e 4 then
      done (s.onCe fun v => { v with shadow := { v.shadow with cogging := v.shadow.cogging.set k ((chunks 2 d).map fun c => sint 16 (leNat c)) } })
    else done (s.onCe fun v => { v with shadow := { v.shadow with friction := v.shadow.friction.set k ((chunks 4 d).map fun c => sint 32 (leNat c)) } })

def opCeTableRead (e : Env) (s : State) : State × Answer :=
  match idx? 16 (arg e 0 4) with
  | none => deny .range s
  | some k =>
    if arg e 6 26 ≠ 0 then deny .badParam s
    else
      let t := if argB e 5 then s.ce.shadow else s.ce.tables
      if argB e 4 then doneWith (t.cogging[k].flatMap fun v => leBytes 2 (uint 16 v)) s
      else doneWith (t.friction[k].flatMap fun v => leBytes 4 (uint 32 v)) s

def opCeLoopReset (e : Env) (s : State) : State × Answer :=
  match idx? 16 (arg e 0 4) with
  | some k => if arg e 4 4 ≠ 0 then deny .badParam s else doneEdge s (waitEdge 0x0604 e [.loopReset k] s)
  | none => deny .range s

end Sys2Proof.Machine
end

