-- ==== Sys2Proof/Machine/Security.lean ====
section
/-! DEFINITION. The enclave: measured boot, sessions, service access, images and their trials, attestation (18, R368 to
R370, R398). -/

namespace Sys2Proof.Machine

def modPort (p : Port) (f : PortSt → PortSt) (s : State) : State := s.onHost fun h => { h with port := vmod h.port (portIx p) f }
def modImage (i : Fin 5) (f : Image → Image) (s : State) : State := s.onSec fun v => { v with image := vmod v.image i f }
def portOf (s : State) (p : Port) : PortSt := s.host.port[portIx p]
def allPorts : List Port := [.spi, .uart, .tunnel]

/-! ### The state word (R23) -/

/-- FE_MODE: AUTONOMOUS, DIRECTED or MANUAL. Marks: DESIGN CHOICE (log 87). -/
def feModeWord (s : State) : Nat := if s.sys.dev = .manual then 2 else s.act.fld .fe 0 2

def stateWord (s : State) : Nat :=
  devCode s.sys.dev ||| devCode s.sys.prev <<< 4 ||| feModeWord s <<< 8 ||| b2n s.sys.mapReady <<< 10
    ||| b2n (s.sys.dev == .coast && s.sys.coastFromArmed) <<< 11 ||| b2n (s.sys.dev == .coast && s.sys.coastFromManual) <<< 12
    ||| s.sys.cause <<< 16 ||| s.sys.transitions <<< 24

/-! ### PB.SEC (R405) -/

def ownerX (s : State) : Nat := s.act.fld .sec 0 256
def ownerClaimed (s : State) : Bool := ownerX s != 0
def liveEn (s : State) : Bool := s.act.flag .sec 258
def serviceLock (s : State) : Bool := s.act.flag .sec 259
def trialTicks (s : State) : Tick := msTicks (10000 * s.act.fld .sec 264 8)

/-! ### Measured boot (R407, R408) -/

/-- Extend a measurement register with a value, and log it while the log has room. -/
def extend (k : Fin 8) (kind : Nat) (v : BitVec 256) (s : State) : State :=
  let new := Config.sha256 (leBytes 32 s.sec.mr[k].toNat ++ leBytes 32 v.toNat)
  let pm := if s.running then s.pm else 0
  s.onSec fun c =>
    { c with
      mr := c.mr.set k new
      mlog := if c.mlog.length < 32 then c.mlog ++ [(k.val ||| kind <<< 8 ||| pm <<< 64, v)] else c.mlog
      mlogFull := c.mlogFull || decide (c.mlog.length ≥ 32) }

/-- Draw a free value. Marks: DESIGN CHOICE (log 4). -/
def drawFree (s : State) : State × Nat := ({ s with free := s.free + 1 }, s.free)

/-- Extend with the hash of a record whose bytes the spec does not lay out: a free value (R407). Marks: DESIGN CHOICE
(log 69). -/
def extendOpen (k : Fin 8) (kind : Nat) (s : State) : State :=
  let d := drawFree s
  extend k kind (BitVec.ofNat 256 (Config.freeNat d.2)) d.1

/-! ### Sessions (R368 to R370, R410) -/

/-- A port's session ends. The service port closes with the last service session of scope DEBUG (R402, R410). -/
def closeSession (p : Port) (s : State) : State :=
  match (portOf s p).session with
  | none => s
  | some x =>
    let s1 := notice .host 0x07 (portIx p).val [] (modPort p (fun q => { q with session := none }) s)
    if x.service.isSome then
      let debug := allPorts.any fun q => match (portOf s1 q).session with
        | some y => (match y.service with | some sc => sc.getLsbD 0 | none => false)
        | none => false
      notice .sec 0x08 0xFFFF [] (s1.onSec fun v => { v with svcPort := debug })
    else s1

/-- The session a sealed request names on its port, while it is open (R370). -/
def sessionOf (e : Env) (s : State) : Option Session :=
  if !e.sealedBit ∨ e.session = 0 then none
  else match (portOf s e.port).session with
    | some x => if x.id = e.session then some x else none
    | none => none

/-- The request acts for the sealed world: it came in a sealed envelope whose session is open as it executes (R370). -/
def sealedWorldReq (e : Env) (s : State) : Bool := (sessionOf e s).isSome

/-- The request came in a session with this right of SCOPE (R411). -/
def hasScope (e : Env) (s : State) (bit : Nat) : Bool := ((sessionOf e s).bind (·.service)).any fun sc => sc.getLsbD bit

/-- Open a session on a port: the reply data and the state. The owner session takes K from ECDH with the owner key;
the spec does not say with which key a service session agrees on K, so that K is free, and of SESSION it says that it
is not zero (R368, R410). Marks: DESIGN CHOICE (log 60). -/
def openSession (p : Port) (service : Option (BitVec 32)) (nonce : BitVec 128) (s : State) : State × List Byte :=
  let r0 := drawFree (closeSession p s)
  let r := drawFree r0.1
  let d := Config.rand r0.2
  let q := Config.ephemeralPoint d
  let id := BitVec.ofNat 16 (1 + Config.freeNat r0.2 % 65535)
  let dev := leBytes 16 s.sec.deviceId.toNat
  let n := leBytes 16 nonce.toNat
  let z := Config.ecdh d (BitVec.ofNat 256 (ownerX s)) (s.act.flag .sec 256)
  let key : BitVec 128 := match service with
    | some _ => BitVec.ofNat 128 (Config.freeNat r.2)
    | none => (Config.sha256 (leBytes 32 z.toNat ++ dev ++ n ++ (leBytes 64 q.toNat).take 32)).setWidth 128
  let sig := Config.ecdsaSign attestKey (Config.sha256 (leBytes 64 q.toNat ++ n ++ dev))
  let x : Session := { id := id, key := key, service := service, opened := s.pm }
  (modPort p (fun o => { o with session := some x }) r.1,
   leBytes 64 q.toNat ++ leBytes 2 id.toNat ++ leBytes 2 0 ++ leBytes 64 sig.toNat)

/-- SEC_SESSION_OPEN. Without an owner key there is nothing to agree on: STATE. Marks: DEDUCED (log 27). -/
def opSecSessionOpen (e : Env) (s : State) : State × Answer :=
  if ownerClaimed s then (let r := openSession e.port none (BitVec.ofNat 128 (arg e 0 128)) s; doneWith r.2 r.1)
  else deny .state s

/-- SEC_SESSION_CLOSE. -/
def opSecSessionClose (e : Env) (s : State) : State × Answer := done (closeSession e.port s)

/-- SEC_SERVICE_CHALLENGE. -/
def opSecServiceChallenge (_e : Env) (s : State) : State × Answer :=
  if serviceLock s ∧ ownerClaimed s then deny .state s
  else
    let r := drawFree s
    let n : BitVec 128 := (Config.rand r.2).setWidth 128
    doneWith (leBytes 16 n.toNat) (r.1.onSec fun v => { v with nonce := some (n, s.pm) })

/-- A service key that is not revoked accepts the signature (R404, R410). -/
def serviceOk (s : State) (h : BitVec 256) (sig : BitVec 512) : Bool :=
  [2, 3].any fun k => !s.sec.revoked.getLsbD k && Config.ecdsaOk k h sig

/-- SEC_SERVICE_RESPONSE. Marks: DESIGN CHOICE (log 60). -/
def opSecServiceResponse (e : Env) (s : State) : State × Answer :=
  if arg e 4 28 ≠ 0 then deny .badParam s
  else match s.sec.nonce with
    | none => deny .authFail s
    | some (n, t) =>
      let s0 := s.onSec fun v => { v with nonce := none }
      let h := Config.sha256 (leBytes 16 n.toNat ++ leBytes 16 s.sec.deviceId.toNat ++ leBytes 4 (arg e 0 32))
      if t + 4800000000 ≤ s.pm ∨ !serviceOk s h (BitVec.ofNat 512 (arg e 32 512)) then deny .authFail s0
      else
        let scope := BitVec.ofNat 32 (arg e 0 32)
        let r := openSession e.port (some scope) n s0
        let s1 := r.1.onSec fun v => { v with svcPort := v.svcPort || scope.getLsbD 0 }
        doneWith r.2 (notice .sec 0x07 0xFFFF [] (extendOpen 7 0x05 s1))

/-- SERVICE_SESSION_EXPIRY: four hours after it opened, a service session ends (R410). -/
def execServiceSessionExpiry (s : State) : Result :=
  .next (allPorts.foldl (fun t p => match (portOf t p).session with
    | some x => if x.service.isSome && decide (x.opened + 1152000000000 ≤ t.pm) then closeSession p t else t
    | none => t) s)

/-! ### Images (R413 to R419) -/

def bankSize (i : Fin 5) : Nat := #v[524288, 6291456, 2097152, 1048576, 524288][i]

/-- The running bank, and the other. -/
def Image.run (m : Image) : ImgBank := if m.running then m.bank1 else m.bank0
def Image.other (m : Image) : ImgBank := if m.running then m.bank0 else m.bank1
def Image.modRun (f : ImgBank → ImgBank) (m : Image) : Image :=
  if m.running then { m with bank1 := f m.bank1 } else { m with bank0 := f m.bank0 }
def Image.modOther (f : ImgBank → ImgBank) (m : Image) : Image :=
  if m.running then { m with bank0 := f m.bank0 } else { m with bank1 := f m.bank1 }

/-- The running bank is on trial (R418). -/
def Image.trial (m : Image) : Bool := m.run.ran && !m.run.passed && !m.run.rejected

/-- A header row of a stored image (R414). -/
def headerRows (h : Nat) : List (Nat × Nat × Nat) :=
  ((List.range 32).map fun r => (bits h (96 * r + 512) 3, bits h (96 * r + 544) 32, bits h (96 * r + 576) 32)).filter fun x => x.1 < 5

/-- What the header of a written image gives (R414). -/
def readHeader (data : List Byte) : ImgBank :=
  let h := leNat (data.take 512)
  { version := bits h 64 32, svn := bits h 40 8, keyB := bitN h 35, revokeOther := bitN h 36, stateReset := bitN h 37,
    weekRef := bits h 48 16, partners := headerRows h, digest := BitVec.ofNat 256 (bits h 128 256), bytes := data }

/-- Signature, key, digest, magic and image code of a written bank (R415). -/
def imageAuthentic (s : State) (i : Fin 5) (b : ImgBank) : Bool :=
  let h := leNat (b.bytes.take 512)
  let k := if b.keyB then 1 else 0
  bits h 0 32 == 0x49524C47 && bits h 32 3 == i.val && !s.sec.revoked.getLsbD k
    && Config.ecdsaOk k (Config.sha256 (b.bytes.take 448)) (BitVec.ofNat 512 (bits h 3584 512))
    && Config.sha256 (slice b.bytes 512 (bits h 96 32)) == b.digest

/-- SEC_IMAGE_BEGIN. -/
def opSecImageBegin (e : Env) (s : State) : State × Answer :=
  match idx? 5 (arg e 0 3) with
  | none => deny .badParam s
  | some i =>
    match firstBad [
        (arg e 3 29 != 0, .badParam),
        (arg e 32 32 > bankSize i, .range),
        (s.sec.load.isSome || s.sec.verifying.isSome || s.sec.image[i].trial, .busy)] with
    | some st => deny st s
    | none => done ((modImage i (fun m => m.modOther fun _ => {}) s).onSec fun v =>
        { v with load := some { image := i.val, size := arg e 32 32 } })

/-- SEC_IMAGE_DATA. Marks: DEDUCED (log 68). -/
def opSecImageData (e : Env) (s : State) : State × Answer :=
  match s.sec.load with
  | none => deny .state s
  | some l =>
    let d := e.payload.drop 4
    match firstBad [(arg e 0 32 != l.data.length, .badParam), (l.data.length + d.length > l.size, .range)] with
    | some st => (s, { status := st, data := leBytes 4 l.data.length })
    | none => doneWith (leBytes 4 (l.data.length + d.length)) (s.onSec fun v => { v with load := some { l with data := l.data ++ d } })

/-- SEC_IMAGE_END: the bank holds what was loaded, and its verification begins. -/
def opSecImageEnd (_e : Env) (s : State) : State × Answer :=
  match s.sec.load with
  | none => deny .state s
  | some l =>
    let s1 := match idx? 5 l.image with
      | some i => modImage i (fun m => m.modOther fun _ => readHeader l.data) s
      | none => s
    (s1.onSec fun v => { v with load := none, verifying := some l.image }, { status := .accepted })

/-- IMAGE_VERIFIED: the verification of a loaded bank ends (R415). -/
def execImageVerified (s : State) : Result :=
  match s.sec.verifying with
  | none => .next s
  | some k =>
    let s1 := s.onSec fun v => { v with verifying := none }
    match idx? 5 k with
    | none => .next s1
    | some i =>
      let b := s.sec.image[i].other
      let st : Status := if !imageAuthentic s i b then .authFail else if b.svn < s.sec.image[i].floor then .versionMismatch else .ok
      .next (notice .sec 0x01 i.val (leBytes 4 (statusCode st))
        (modImage i (fun m => m.modOther fun b => { b with verified := decide (st = .ok) }) s1))

/-- A set of banks, one per image, is consistent (R416). -/
def consistent (bs : List ImgBank) : Bool :=
  let vs := List.zip (List.range bs.length) bs
  vs.all fun a => vs.all fun b => a.1 == b.1 || a.2.partners.any fun r => r.1 == b.1 && r.2.1 ≤ b.2.version && b.2.version ≤ r.2.2

/-- SEC_IMAGE_STATUS. -/
def opSecImageStatus (_e : Env) (s : State) : State × Answer :=
  doneWith ((vlist s.sec.image).flatMap fun m =>
    leBytes 4 m.bank0.version ++ leBytes 4 m.bank1.version
      ++ leBytes 8 (b2n m.running ||| b2n m.bank0.verified <<< 1 ||| b2n m.bank1.verified <<< 2)) s

/-- The images a mask names. -/
def named (w : Nat) (i : Nat) : Bool := bitN w i

/-- SEC_ACTIVATE, in the order of R420. In QUARANTINE nothing is live to swap: the next START selects (R417). Marks:
DEDUCED (log 68). -/
def opSecActivate (e : Env) (s : State) : State × Answer :=
  let w := arg e 0 5
  let is := (List.finRange 5).filter fun i => named w i.val
  match firstBad [
      (!liveEn s && (s.sys.dev == .armed || s.sys.dev == .manual), .state),
      (arg e 5 27 != 0, .badParam),
      (is.any fun i => !s.sec.image[i].other.verified, .state),
      (s.sec.activation.isSome || (match s.sec.load with | some l => named w l.image | none => false), .busy),
      (!consistent ((List.finRange 5).map fun i => if named w i.val then s.sec.image[i].other else s.sec.image[i].run),
        .versionMismatch)] with
  | some st => deny st s
  | none =>
    if s.sys.dev = .quarantine then (s, { status := .accepted })
    else (s.onSec fun v => { v with activation := some { images := BitVec.ofNat 5 w, since := s.pm } }, { status := .accepted })

/-- ACTIVATION_PREPARED: the shadow stores are loaded; the switch follows at the next frame edge (R420). -/
def execActivationPrepared (s : State) : Result :=
  .next (s.onSec fun v => { v with activation := v.activation.map fun a => { a with ready := a.ready.or (some s.pm) } })

/-- A fault or a VKEY fall during preparation cancels the activation (R421). -/
def cancelActivation (s : State) : State :=
  match s.sec.activation with
  | some a =>
    if a.switchAt.isSome then s
    else notice .sec 0x03 0xFFFF (leBytes 4 a.images.toNat) (s.onSec fun v => { v with activation := none })
  | none => s

/-- The running bank of an image is rejected (R419); it takes effect at the next START. -/
def rejectBank (i : Fin 5) (s : State) : State :=
  notice .sec 0x04 i.val [] (extendOpen 7 0x08
    (modImage i (fun m => m.modRun fun b => { b with rejected := true, verified := false }) s))

/-- The image an element runs. -/
def imageOf : Element → Fin 5
  | .enclave => 0 | .pair => 1 | .gnss => 2 | .field => 3 | .control => 4

/-- A restart of an element whose bank is on trial: the second one rejects the bank (R419). -/
def trialRestart (el : Element) (s : State) : State :=
  let i := imageOf el
  if s.sec.image[i].trial then
    let s1 := modImage i (fun m => { m with trialRestarts := m.trialRestarts + 1 }) s
    if s1.sec.image[i].trialRestarts ≥ 2 then rejectBank i s1 else s1
  else s

/-- An element fails self-test: its bank is rejected if it is on trial (R419, R427). -/
def failSelftest (el : Element) (s : State) : State := if s.sec.image[imageOf el].trial then rejectBank (imageOf el) s else s

/-- Ticks the running bank of an image has run, counted across STARTs (R418). -/
def trialRun (s : State) (i : Fin 5) : Tick := s.pd0.trialRun[i] + (s.pm - s.sec.image[i].since)

/-- A bank whose key is revoked or whose SVN is below the floor is verified no more (R404, R415). -/
def Image.stillVerified (revoked : BitVec 4) (m : Image) : Image :=
  let keep (b : ImgBank) : ImgBank :=
    { b with verified := b.verified && !revoked.getLsbD (b2n b.keyB) && decide (m.floor ≤ b.svn) }
  { m with bank0 := keep m.bank0, bank1 := keep m.bank1 }

/-- TRIAL_PASSED: the floor rises to the bank's SVN and REVOKE_OTHER is acted on (R418, R404). -/
def execTrialPassed (i : Fin 5) (s : State) : Result :=
  let m := s.sec.image[i]
  if m.trial ∧ trialTicks s ≤ trialRun s i then
    let floor := max m.floor (min 64 m.run.svn)
    let s1 := modImage i (fun m => { m.modRun (fun b => { b with passed := true }) with floor := floor, trialRestarts := 0 }) s
    let s2 := s1.onSec fun v => { v with
      revoked := if m.run.revokeOther then v.revoked ||| (if m.run.keyB then 1 else 2) else v.revoked }
    let s3 := s2.onSec fun v => { v with image := vmap v.image (Image.stillVerified v.revoked) }
    .next (notice .sec 0x06 i.val (leBytes 4 floor) (s3.onPd0 fun d => { d with trialRun := d.trialRun.set i 0 }))
  else .next s

/-- The trial times so far go to PD0, as the running banks stop (R418, R441). -/
def saveTrials (s : State) : State :=
  s.onPd0 fun d => { d with trialRun := vmapIdx d.trialRun fun i t => if s.sec.image[i].trial then trialRun s i else t }

/-! ### Attestation (R409) -/

/-- The report up to SIG. -/
def attestBody (nonce : Nat) (s : State) : List Byte :=
  let svc := allPorts.any fun p => match (portOf s p).session with
    | some x => x.service.isSome
    | none => false
  leBytes 4 0x41524C47 ++ leBytes 2 1 ++ leBytes 1 s.sec.mlog.length
    ++ leBytes 1 (b2n (ownerClaimed s) ||| b2n svc <<< 1 ||| b2n s.sec.mlogFull <<< 2 ||| b2n (vany s.sec.image Image.trial) <<< 3)
    ++ leBytes 16 s.sec.deviceId.toNat ++ leBytes 4 s.pd0.bootCount ++ leBytes 4 (stateWord s) ++ leBytes 8 s.pm
    ++ leBytes 16 nonce ++ ((vlist s.sec.mr).flatMap fun r => leBytes 32 r.toNat)
    ++ ((vlist s.sec.image).flatMap fun m => leBytes 4 m.run.version ++ leBytes 1 (b2n m.running) ++ leBytes 1 m.floor
          ++ leBytes 2 0 ++ leBytes 32 m.run.digest.toNat)
    ++ leBytes 4 (s.pd0.blockSeq + (2 ^ 32 - 1)) ++ leBytes 32 s.pd0.chainHash.toNat
    ++ leBytes 64 Config.attestPub.toNat ++ leBytes 64 Config.logPub.toNat ++ leBytes 64 Config.certificate.toNat
    ++ (s.sec.mlog.flatMap fun x => leBytes 16 x.1 ++ leBytes 32 x.2.toNat)

/-- SEC_ATTEST. -/
def opSecAttest (e : Env) (s : State) : State × Answer :=
  let b := attestBody (arg e 0 128) s
  doneWith (b ++ leBytes 64 (Config.ecdsaSign attestKey (Config.sha256 b)).toNat) s

/-! ### Violations and tampering -/

/-- An access the worlds refuse is counted and reported (R22, R401, R422, R426). Marks: DEDUCED (log 24). -/
def worldViolation (s : State) : State :=
  notice .sec 0x09 0xFFFF [] (logFault 0x25 .sec 0xFFFF reactReport 0 0x09 (s.onSec fun v => { v with worldViolations := v.worldViolations + 1 }))

/-- TAMPER: counted, nothing else (R456). -/
def execTamper (s : State) : Result := .next (s.onPd0 fun d => { d with tamper := d.tamper + 1 })

end Sys2Proof.Machine
end

