-- ==== Sys2Proof/Machine/Transitions.lean ====
section
/-! DEFINITION. Device states: every change of state and what the blocks do at it (R23 to R31, R474, R216, R247, R267,
R303 to R305, R344, R430, R432). -/

namespace Sys2Proof.Machine

/-! ### FAULT_OUT (R432) -/

def faultToggle (s : State) : Bool := s.act.flag .safe 20

/-- The device is in a healthy state. -/
def healthy (s : State) : Bool :=
  match s.sys.dev with
  | .standby | .armed | .manual => true
  | .coast => !s.act.flag .safe 21
  | _ => false

/-- FAULT_OUT follows the state: the fault level at once, the static high level; a toggle waits for its edge. -/
def driveFaultOut (s : State) : State :=
  s.onSafe fun v => { v with faultOut := healthy s && (if faultToggle s then v.faultOut else true) }

/-- The toggle at a frame edge. -/
def toggleFaultOut (s : State) : State :=
  if faultToggle s && healthy s then s.onSafe fun v => { v with faultOut := !v.faultOut } else driveFaultOut s

/-! ### A change of state (R31, R474) -/

/-- STATE, PREV_STATE, CAUSE and TRANSITIONS change; the STATE notice and log record go out; FAULT_OUT follows. Marks:
DEDUCED (log 85). -/
def changeState (d : DevState) (cause : Nat) (t : Tick) (s : State) : State :=
  let w := devCode s.sys.dev ||| devCode d <<< 4
  let s1 := s.onSys fun y => { y with dev := d, prev := y.dev, cause := cause, transitions := incMod 8 y.transitions 1 }
  driveFaultOut (writeLog (logRecord 0x06 0 w t cause) (noticeAt .sys 0x01 0xFFFF t (leBytes 1 w ++ leBytes 1 cause ++ leBytes 2 0) s1))

/-! ### Outputs -/

/-- Queued events are flushed, those FE has formed and not committed with them; their credits return with the room (R142).
What FE has painted stays to be committed. -/
def flushEvents (s : State) : State :=
  (s.onVdr fun v => { v with bank := vmap v.bank fun k => { k with queue := [] } }).onFe fun f => { f with
    rowEvents := [], batch := f.batch.map fun b => { b with events := [], duties := [] } }

/-- A channel leaves the driven states: a reserved or queued start is cancelled, a channel that is on gets an off request
at `t` (R216). -/
def channelOff (c : Fin 96) (t : Tick) (s : State) : State :=
  if s.vdr.ch[c].st = .pending then cancelStart c s else offRequest c t false s

/-- Nozzle generators STOPPED and an off request at `t` to every channel that is on (R216, R247). -/
def valvesOff (t : Tick) (s : State) : State := allCh.foldl (fun u c => channelOff c t u) (stopNozzles (flushEvents s))

/-- Every low side off at once with its clamp, no window left (R431, R464, R465). -/
def valvesCut (t : Tick) (s : State) : State :=
  (allCh.foldl (fun u c => forceOff c t u) s).onVdr fun v => { v with bank := vmap v.bank fun k => { k with windows := [], feed := .bat, onVbst := false, offVbst := t } }

/-- The device drives: in ARMED or MANUAL, or in a COAST entered from them. -/
def drives (s : State) : Bool :=
  s.sys.dev == .armed || s.sys.dev == .manual || (s.sys.dev == .coast && s.sys.coastBack != .standby)

/-- Runs end when the device leaves ARMED and MANUAL, or a COAST entered from them (R180). Marks: DEDUCED (log 86). -/
def leaveDrive (t : Tick) (s : State) : State := if drives s then endRuns t s else s

/-- In STANDBY the converter runs; from START on the feeds are switched on (R202, R221). -/
def convUp (s : State) : State := syncConv (s.onVdr fun v => { v with conv := { v.conv with stopping := false } })

/-- Every bank feed is switched on at `t`. -/
def feedsUp (t : Tick) (s : State) : State := s.onVdr fun v => { v with bank := vmap v.bank fun k => { k with feedAt := t } }

/-! ### The transitions -/

/-- To STANDBY from START, ARMED, MANUAL or SAFE at frame edge `t`. -/
def enterStandby (cause : Nat) (t : Tick) (s : State) : State :=
  let s1 := if s.sys.dev = .safe ∨ s.sys.dev = .start then loopsFrom t s else s
  let s2 := changeState .standby cause t (valvesOff t (leaveDrive t s1))
  startAllOff (lswSyncAll (convUp (s2.onFe fun f => { f with armedAt := none })))

/-- To ARMED at frame edge `t`: FE decides afresh from the frame that begins there, from MANUAL from the one after it,
with every DIRECTED section off (R24, R145, R146). Marks: DEDUCED (log 45). -/
def enterArmed (t : Tick) (s : State) : State :=
  let first := if s.sys.dev = .manual then t + 40000 else t
  let s1 := changeState .armed 0x01 t (if s.sys.dev = .manual then s else trackFrom t s)
  lswSyncAll ((directedOff (feStart s1)).onFe fun f => { f with armedAt := some first })

/-- To MANUAL at frame edge `t`: queued FE events are kept (R24). Marks: DEDUCED (log 86). -/
def enterManual (t : Tick) (s : State) : State :=
  lswSyncAll ((changeState .manual 0x01 t (if s.sys.dev = .armed then s else trackFrom t s)).onFe fun f => { f with armedAt := none })

/-- To COAST now, from STANDBY, ARMED or MANUAL: the window opens, waiting commands are cancelled (R25, R377). -/
def enterCoast (cause : Nat) (s : State) : State :=
  let s1 := (cancelEdges s).onSys fun y => { y with
    coastEntry := s.pm, coastBack := y.dev, coastCause := cause
    coastFromArmed := y.dev == .armed, coastFromManual := y.dev == .manual }
  lswSyncAll (changeState .coast cause s.pm s1)

/-- Back from COAST at frame edge `t` (R26). -/
def leaveCoast (t : Tick) (s : State) : State :=
  let s1 := changeState s.sys.coastBack s.sys.coastCause t (trackFrom t s)
  let s2 := lswSyncAll (s1.onSys fun y => { y with coastFromArmed := false, coastFromManual := false })
  if s2.sys.dev = .standby then startAllOff s2 else s2

/-- To SAFE at postmark `t`: every output class to its safe state, the open log block sealed (R430). -/
def enterSafe (cause : Nat) (t : Tick) (s : State) : State :=
  let s1 := lswHoldForSafe (cancelEdges (cancelActivation (leaveDrive t s)))
  let s2 := changeState .safe cause t (gatesOff (valvesOff t s1))
  let s3 := if s2.restarting .enclave then s2 else sealBlock s2
  startAllOff (lswSyncAll (settleConv (s3.onVdr fun v => { v with conv := { v.conv with stopping := true } })))

/-- The states from which R24 allows SAFE. -/
def safeAllowed (s : State) : Bool :=
  match s.sys.dev with
  | .standby | .armed | .manual | .coast => true
  | _ => false

/-- A fault that leads to SAFE: logged, and SAFE entered where R24 allows it (R423, R427). Marks: DEDUCED (log 11). -/
def safeFault (cause : Nat) (b : Block) (index restarts detail : Nat) (t : Tick) (s : State) : State :=
  if safeAllowed s then enterSafe cause t (logFault cause b index reactSafe restarts detail s)
  else logFault cause b index (if s.sys.dev = .safe then reactSafe else reactReport) restarts detail s

/-- Key-off holds end on entry to QUARANTINE or LATCHED (R305). -/
def endHolds (s : State) : State := s.onPd0 fun p => { p with keyOffHold := Vector.replicate 16 none }

/-- Every controller off the bus; pending slots keep their contents (R325, R347). -/
def canOff (s : State) : State :=
  ((List.finRange 3).foldl (fun t x => takeOff x t) s).onCan fun v => { v with graceFrom := none }

/-- To LATCHED now: all outputs off, PPS_OUT among them, the log sealed (R24, R42, R318). -/
def enterLatched (s0 : State) : State :=
  let s := ppsInactive s0
  let s1 := cancelEdges (cancelActivation (endRunsNow s.pm s))
  let s2 := changeState .latched 0x04 s.pm (trigsOff (gatesOff (valvesCut s.pm (valvesOff s.pm s1))))
  let s3 := if s2.restarting .enclave then s2 else sealBlock s2
  lswSyncAll (canOff (endHolds (s3.onVdr fun v => { v with conv := { v.conv with on := false } })))

/-- To QUARANTINE at `t` (R24, R454). -/
def enterQuarantine (quarCause : Nat) (t : Tick) (s : State) : State :=
  lswSyncAll (endHolds (changeState .quarantine 0x07 t (ppsInactive (s.onSys fun y => { y with quarCause := quarCause }))))

/-! ### OFF and START (R441, R442, R474) -/

/-- Copies made at a transition to OFF: latencies, fault log, TCXO model, odometry, trial times (R214, R434, R441). -/
def saveNor (s : State) : State :=
  s.onNor fun n => { n with
    lat := s.vdr.lat, faultLog := s.pd0.faultLog, tcxo := s.pd0.tcxo, odoScale := s.pd0.odoScale, odoCal := s.pd0.odoCal,
    trialRun := s.pd0.trialRun, bootCount := s.pd0.bootCount }

/-- PD0 as the device goes OFF: the instant, the pose with HEADING_RESTORE (R92), the trial times (R418). Marks:
DESIGN CHOICE (log 35). -/
def savePd0 (s : State) : State :=
  (saveTrials s).onPd0 fun d => { d with offAt := d.now, pose := if s.act.flag .pos 163 then some s.pos.pose else none }

/-- Load switches as the supply of PD11 goes: only a key-off hold goes on, timed by `f` (R305); the duties stand in PD0
(R291, R441). -/
def lswUnpowered (f : Tick → Tick) (s : State) : LswSt :=
  let kept (c : Fin 16) (l : Lsw) : Lsw :=
    if (s.pd0.keyOffHold[c]).isSome then l.rebase f s.pd0.lswDuty[c] else { dutyAct := s.pd0.lswDuty[c] }
  { ls := vmapIdx s.lsw.ls fun c l => { kept c l with resLamp := if s.running then decide (lswType s c ≤ 1) else l.resLamp } }

/-- What no reset reaches: PD0, the NOR, the OTP and the image banks, the pins of the supply, the queue. -/
def keptState (s : State) : State :=
  { pending := s.pending, free := s.free, pd0 := s.pd0, nor := s.nor, lsw := lswUnpowered (fun t => if s.running then t + s.pd0.now - s.pm else t) s
    sec := { image := s.sec.image, deviceId := s.sec.deviceId, revoked := s.sec.revoked }
    pwr := { vkey := s.pwr.vkey, vbatOk := s.pwr.vbatOk, reverseBatt := s.pwr.reverseBatt, lowSupply := s.pwr.lowSupply } }

/-- OFF, as reached by a change of state: only PD0 is powered. It keeps PREV_STATE and CAUSE of that change (R474), and
takes VBAT for below its start band where LOW_SUPPLY held (R463). -/
def offState (s : State) : State :=
  let k := keptState s
  { k with
    sys := { dev := .off, prev := s.sys.prev, cause := s.sys.cause, bootStage := 0 }
    pwr := { k.pwr with domains := 1, lowSupply := false, vbatOk := s.pwr.vbatOk && !s.pwr.lowSupply } }

/-- TIMED channels that are on begin their key-off holds, timed in PD0 (R305). -/
def startHolds (s : State) : State :=
  let starts (c : Fin 16) : Bool := keyOffTimed s c && s.lsw.ls[c].isOn
  let hold (c : Fin 16) (h : Option Nat) : Option Nat := if starts c then some (s.pd0.now + keyOffTime s c) else h
  (s.onLsw fun v => { v with ls := vmapIdx v.ls fun c l => if starts c then { l with holdPulse := pulsedMode s c } else l }).onPd0
    fun d => { d with keyOffHold := vmapIdx d.keyOffHold hold }

/-- To OFF on VKEY low, at a frame edge: the NOR copies are made and TIMED channels that are on begin their holds
(R24, R305). The STATE notice goes out as at every change, and is lost with the ports' power (R31). Marks: DEDUCED
(log 71). -/
def enterOff (s : State) : State := offState (changeState .off 0x03 s.pm (saveNor (savePd0 (startHolds s))))

/-- To OFF on a brown-out: no copies, no holds (R464). Marks: DEDUCED (log 71). -/
def enterOffBrown (s : State) : State := offState (changeState .off 0x02 s.pm (endHolds (savePd0 s)))

/-- The images as a START finds them: the running banks have not run yet in it. -/
def freshImages (v : Vector Image 5) : Vector Image 5 := vmap v fun m => { m with since := 0 }

/-- The entry to START (R442, R452): everything but PD0 is reset, the NOR configuration is loaded, load switches are
commanded off but for holds (R291), the boot count rises. Marks: DESIGN CHOICE (log 5), DEDUCED (log 70). -/
def startState (prev : DevState) (cause startCause : Nat) (s : State) : State :=
  let k := keptState s
  { k with
    pd0 := { (saveTrials s).pd0 with bootCount := s.pd0.bootCount + 1, lswOn := Vector.replicate 16 false, fresh := false }
    nor := { s.nor with bootCount := s.pd0.bootCount + 1 }
    act := s.nor.params, shd := s.nor.params
    impl := { restored := s.nor.impl, shadow := s.nor.impl }
    vdr := { lat := s.nor.lat }
    sec := { k.sec with image := freshImages s.sec.image }
    sys := { dev := .start, prev := prev, cause := cause, startPrev := prev, startCause := cause }
    pwr := { k.pwr with startCause := startCause, wakeAt := s.pd0.now
                        longOff := prev == .off && decide (s.pd0.offAt + 576000000000 ≤ s.pd0.now) && !s.pd0.fresh } }

/-- OFF to START: the first START after PD0 lost power is a power-cycle start, whatever woke the device (R474). -/
def startFromOff (cause startCause : Nat) (s : State) : State :=
  if s.pd0.fresh then startState .off 0x02 0 s else startState .off cause startCause s

end Sys2Proof.Machine
end

