-- ==== Sys2Proof/Machine/Faults.lean ====
section
/-! DEFINITION. SAFE: element faults and restarts, COAST and SAFE, the causes that persist (R423 to R433, R445 to
R451). A crossing between clock domains (R447 to R449) holds nothing the model can see but what a restart flushes
(R451). -/

namespace Sys2Proof.Machine

def modElem (el : Element) (f : ElemSt → ElemSt) (s : State) : State :=
  s.onSafe fun v => { v with elem := vmod v.elem (elemIx el) f }
def elemOf (s : State) (el : Element) : ElemSt := s.safe.elem[elemIx el]
def allElements : List Element := [.enclave, .pair, .field, .control, .gnss]

def restartLimit (s : State) : Nat := s.act.fld .safe 32 4
def restartWindow (s : State) : Tick := msTicks (60000 * s.act.fld .safe 40 8)
def loopSafe (s : State) (k : Fin 16) : Bool := s.act.flag .safe k.val
def safeInEn (s : State) : Bool := s.act.flag .safe 18
def rowGrace (s : State) : Tick := msTicks (s.act.fld .safe 48 16)
def isolLimit (s : State) : Nat := s.act.fld .safe 64 4

/-! ### Restarts (R424, R425, R451) -/

/-- Restarts of an element that began in the window before now (R424). -/
def restartsInWindow (s : State) (el : Element) : Nat :=
  ((elemOf s el).restarts.filter fun t => s.pm ≤ t + restartWindow s && t < s.pm).length

/-- The power domains a flushed crossing of an element lies between (R437, R451). Marks: DESIGN CHOICE (log 16). -/
def crossingOf : Element → Nat
  | .enclave => 1 ||| 2 <<< 8
  | .pair => 2 ||| 10 <<< 8
  | .field => 4 ||| 11 <<< 8
  | .control => 3 ||| 9 <<< 8
  | .gnss => 8 ||| 4 <<< 8

/-- Transfers pending in the crossing of two domains are discarded; how many is a free value (R451). Marks: DESIGN
CHOICE (log 16). -/
def flushCrossing (domains : Nat) (s : State) : State :=
  let d := drawFree s
  notice .pwr 0x01 domains [] (d.1.onPwr fun p => { p with flushed := p.flushed + BitVec.ofNat 32 (Config.freeNat d.2) })

/-- What an element loses as its logic resets (R425's table). -/
def resetElement (el : Element) (s : State) : State :=
  match el with
  | .field => s.onFe fun f => { f with batch := none, work := none }
  | .gnss => gnssDown s
  | .pair => s.onThs fun v => { v with pairMhz := 400 }
  | _ => s

/-- A restart of an element begins (R424, R425): `cause` is what it is held to until its clean frame. -/
def beginRestart (el : Element) (cause : Nat) (s : State) : State :=
  let s1 := modElem el (fun x => { x with restarts := (s.pm :: x.restarts).take 8, cause := some cause, restarting := true,
                                          doneAt := none, clean := false }) s
  trialRestart el (flushCrossing (crossingOf el) (resetElement el s1))

/-- Every die below its SHUTDOWN threshold (R423). -/
def diesCool (s : State) : Bool :=
  (List.finRange 9).all fun (z : Fin 9) =>
    let k : Fin 10 := ⟨z.val, by omega⟩
    decide (s.ths.zone[k].temp < shutdownAt s (zoneClass k))

/-- VBAT in its operating range (R461, R463). -/
def vbatOperating (s : State) : Bool := !s.pwr.lowSupply && !s.pwr.over36

/-- The self-test code a COAST-class fault of START counts as (R453). -/
def startCode (cause : Nat) : Nat :=
  if cause = 0x10 then 0x01 else if cause = 0x11 then 0x02 else if cause = 0x12 then 0x03 else if cause = 0x14 then 0x04
  else if cause = 0x15 then 0x05 else 0x0D

/-- A COAST-class fault of an element (R423, R424, R427, R453). Marks: DEDUCED (log 11), DESIGN CHOICE (log 12),
DESIGN CHOICE (log 14), DEDUCED (log 20). -/
def elementFault (el : Element) (cause : Nat) (b : Block) (s : State) : State :=
  let ix := (elemIx el).val
  let n := restartsInWindow s el
  let beyond := decide (restartLimit s ≤ n)
  let code := if beyond then 0x17 else cause
  let detail := if beyond then cause else 0
  match s.sys.dev with
  | .off => s
  | .start =>
    let s1 := failSelftest el (logFault cause b ix reactReport (n + 1) 0 s)
    if cause = 0x13 then beginRestart el cause s1
    else s1.onSys fun y => { y with selftestFail := if y.selftestFail = 0 then startCode cause else y.selftestFail }
  | .quarantine | .latched => beginRestart el code (logFault code b ix reactReport (n + 1) detail s)
  | .safe => beginRestart el code (logFault code b ix reactSafe (n + 1) detail s)
  | .standby | .armed | .manual | .coast =>
    if !beyond && !s.safe.safeIn && vbatOperating s && diesCool s then
      let s1 := beginRestart el cause (logFault cause b ix reactCoast (n + 1) 0 s)
      if s.sys.dev = .coast then s1 else enterCoast cause (cancelActivation s1)
    else beginRestart el code (safeFault code b ix (n + 1) detail s.pm s)

/-- PAIR_CHECK. -/
def execPairCheck (s : State) : Result := .next (elementFault .pair 0x10 .safe s)
/-- CE_CHECK. -/
def execCeCheck (s : State) : Result := .next (elementFault .control 0x12 .ce s)
/-- GNSS_CHECK. -/
def execGnssCheck (s : State) : Result := .next (elementFault .gnss 0x13 .gnss s)
/-- ENCLAVE_CHECK. -/
def execEnclaveCheck (s : State) : Result := .next (elementFault .enclave 0x14 .sec s)

/-! ### Clocks (R445, R446, R450, R457) -/

/-- A clock's number in the order of R443. Marks: DESIGN CHOICE (log 16). -/
def clockOf : Element → Nat
  | .pair => 2 | .field => 3 | .control => 4 | .enclave => 5 | .gnss => 6

/-- A CLOCK notice: the clock, and whether it failed or is back. Marks: DESIGN CHOICE (log 16). -/
def clockNote (clock : Nat) (restored : Bool) (s : State) : State :=
  notice .pwr 0x03 0xFFFF (leBytes 4 (clock ||| b2n restored <<< 8)) s

/-- CLOCK_ELEMENT: in OFF no clock but BKO runs (R443); else the accesses that stalled until now ended with an error,
in a free number; the element restarts once its PLL has locked again. Marks: DESIGN CHOICE (log 16). -/
def execClockElement (el : Element) (s : State) : Result :=
  if s.sys.dev = .off then .next s
  else
  let d := drawFree s
  let s1 := d.1.onPwr fun p => { p with clkFails := p.clkFails + 1, stallErr := p.stallErr + BitVec.ofNat 32 (Config.freeNat d.2) }
  let s2 := notice .pwr 0x02 0xFFFF [] (clockNote (clockOf el) false s1)
  .next (modElem el (fun x => { x with clockBad := true, relockAt := s.pm }) (elementFault el 0x15 .pwr s2))

/-- PLL_RELOCK: locked, or tried again 1 ms later. -/
def execPllRelock (el : Element) (ok : Bool) (s : State) : Result :=
  if (elemOf s el).clockBad ∧ (elemOf s el).relockAt ≤ s.pm then
    if ok then .next (clockNote (clockOf el) true (modElem el (fun x => { x with clockBad := false }) s))
    else .next (modElem el (fun x => { x with relockAt := s.pm + 80000 }) s)
  else .next s

/-- CLOCK_BASE, but in OFF (R443): the counter goes on, on BKO where TCXO (0) or TB (1) failed; SAFE. Marks: DESIGN
CHOICE (log 12), DESIGN CHOICE (log 16). -/
def execClockBase (clock : BitVec 8) (s : State) : Result :=
  if s.sys.dev = .off then .next s
  else
  let s1 := s.onPwr fun p => { p with
    clkFails := p.clkFails + 1, clkBaseBad := true, clkBase := clock, onBko := p.onBko || decide (clock.toNat ≤ 1) }
  .next (safeFault 0x16 .pwr 0xFFFF 0 0x03 s.pm (clockNote clock.toNat false s1))

/-- CLOCK_BASE_RESTORED: every Base clock in band for 100 ms; the counter returns to TB without a step. -/
def execClockBaseRestored (s : State) : Result :=
  if s.pwr.clkBaseBad then
    .next (endFault 0x16 0xFFFF (clockNote s.pwr.clkBase.toNat true (s.onPwr fun p => { p with clkBaseBad := false, onBko := false })))
  else .next s

/-! ### Clean frames and the return from COAST (R25, R26, R267, R425) -/

/-- The end of the coast window. Marks: DEDUCED (log 20). -/
def coastEnd (s : State) : Tick := s.sys.coastEntry + 16000000

/-- A commit that completes at `t` counts: not at or after the end of the coast window. Marks: DEDUCED (log 13). -/
def countsAt (s : State) (t : Tick) : Bool := s.sys.dev != .coast || decide (t < coastEnd s)

/-- The element has had its clean frame: its fault entries end; outside COAST it is done with. Marks: DEDUCED (log
13), DESIGN CHOICE (log 14). -/
def markElement (el : Element) (s : State) : State :=
  let x := elemOf s el
  match x.cause with
  | none => s
  | some _ =>
    if x.clean then s
    else
      let s1 := [0x10, 0x11, 0x12, 0x13, 0x14, 0x15, 0x17].foldl (fun t c => endFault c (elemIx el).val t)
        (modElem el (fun y => { y with clean := true }) s)
      let s2 := if s.sys.dev = .coast then s1 else modElem el (fun y => { y with cause := none, clean := false }) s1
      if allElements.all fun k => (elemOf s2 k).cause.isNone || (elemOf s2 k).clean then
        endFault 0x18 0xFFFF s2
      else s2

/-- Does the frame that ends at edge `e` make the element clean? The field engine's commit says so itself. Marks:
DEDUCED (log 13). -/
def cleanAt (e : Tick) (s : State) (el : Element) : Bool :=
  let x := elemOf s el
  !x.restarting && x.cause.isSome && (match x.doneAt with
    | none => false
    | some d => match el with
      | .field => false
      | .control => decide (d + 40000 ≤ e) && !missedIn s (e - 40000)
      | _ => decide (d < e))

/-- Clean frames at the edge `e` that ends them. Marks: DEDUCED (log 13). -/
def cleanFrames (e : Tick) (s : State) : State :=
  allElements.foldl (fun t el => if cleanAt e t el && countsAt t (e - 4000) then markElement el t else t) s

/-- Every faulted element has had a clean frame. -/
def allClean (s : State) : Bool := allElements.all fun el => (elemOf s el).cause.isNone || (elemOf s el).clean

/-- The return from COAST at frame edge `e`. -/
def coastReturn (e : Tick) (s : State) : State :=
  if s.sys.dev = .coast ∧ allClean s then
    leaveCoast e (s.onSafe fun v => { v with elem := vmap v.elem fun x => { x with cause := none, clean := false } })
  else s

/-- The first element without a clean frame. -/
def firstUnclean (s : State) : Option Element :=
  allElements.find? fun el => (elemOf s el).cause.isSome && !(elemOf s el).clean

/-- COAST_EXPIRED: the window has closed and an element has no clean frame that counts (R25, R425). An activation of
APP that brought the device here loses its bank (R421). Marks: DEDUCED (log 2), DEDUCED (log 20), DEDUCED (log 68). -/
def execCoastExpired (s : State) : Result :=
  let e := edgeOf (coastEnd s + 3999)
  let t := if e < coastEnd s then e + 40000 else e
  let soon := if t < coastEnd s + 4000 then cleanFrames t s else s
  if s.sys.dev = .coast ∧ coastEnd s ≤ s.pm ∧ !allClean soon then
    let s1 := asAt (coastEnd s) (safeFault 0x18 .safe 0xFFFF 0 s.sys.coastCause (coastEnd s)) s
    .next (if s.sys.coastCause = 0x01 ∧ s.sec.image[(1 : Fin 5)].trial then
        rejectBank 1 (s1.onSec fun v => { v with activation := none }) else s1)
  else .next s

/-! ### SAFE_IN (R431) -/

/-- SAFE_IN: accepted active. The hardware path acts in every state; SAFE follows where R24 allows it. Marks: DESIGN
CHOICE (log 12), DEDUCED (log 17). -/
def execSafeIn (s : State) : Result :=
  if safeInEn s ∧ s.sys.dev ≠ .off then
    let s1 := gatesOff (valvesCut s.pm (s.onSafe fun v => { v with safeIn := true }))
    .next (if s.sys.dev = .start then logFault 0x19 .safe 0xFFFF reactSafe 0 0 (s1.onSafe fun v => { v with safeInStart := true })
           else safeFault 0x19 .safe 0xFFFF 0 0 s.pm s1)
  else .next s

/-- SAFE_IN_RELEASE: the level is inactive again; SAFE is not left. Marks: DEDUCED (log 17). -/
def execSafeInRelease (s : State) : Result :=
  if s.safe.safeIn then .next (endFault 0x19 0xFFFF (s.onSafe fun v => { v with safeIn := false })) else .next s

/-- A SAFE_IN accepted during START takes the device to SAFE at the first frame edge in STANDBY. Marks: DEDUCED (log
17). -/
def safeInAtEdge (e : Tick) (s : State) : State :=
  if s.safe.safeInStart ∧ s.sys.dev = .standby ∧ s.sys.standbyAt < e then
    enterSafe 0x19 e (s.onSafe fun v => { v with safeInStart := false })
  else s

/-! ### ROW_BUS, BOOST (R426, R429) -/

/-- ROW_BUSOFF_GRACE_EXPIRY. Marks: DESIGN CHOICE (log 18). -/
def execRowBusoffGraceExpiry (s : State) : Result :=
  match s.can.graceFrom with
  | some t =>
    if t + rowGrace s ≤ s.pm then
      let s1 := s.onCan fun v => { v with graceFrom := none }
      if s.can.ctl[(1 : Fin 3)].st = .active then .next s1 else .next (safeFault 0x1C .can 1 0 0x03 s.pm s1)
    else .next s
  | none => .next s

/-- BOOST: the converter stops, every bank is treated as BATTERY. -/
def execBoost (s : State) : Result :=
  if s.sys.dev = .off ∨ s.vdr.conv.fault then .next s
  else .next (logFault 0x23 .vdr 0xFFFF reactReport 0 0 (leaveVbst s s.pm <| s.onVdr fun v => { v with
    conv := { v.conv with fault := true, on := false, retryAt := s.pm + 800000000 } }))

/-- BOOST_RETRY: every 10 s the converter is tried again. -/
def execBoostRetry (ok : Bool) (s : State) : Result :=
  if s.vdr.conv.fault ∧ s.vdr.conv.retryAt ≤ s.pm then
    if ok then .next (endFault 0x23 0xFFFF (syncConv (s.onVdr fun v => { v with conv := { v.conv with fault := false } })))
    else .next (s.onVdr fun v => { v with conv := { v.conv with retryAt := v.conv.retryAt + 800000000 } })
  else .next s

/-! ### LOOP (R264, R265, R426) -/

/-- DEADLINE_MISS: a sample instant's deadline has passed without an evaluation, while CE runs (R267). The third in a
row is a loop fault: SAFE where LOOP_SAFE names the loop, else reported. Marks: DEDUCED (log 20). -/
def execDeadlineMiss (k : Fin 16) (s : State) : Result :=
  match missedInstant s k with
  | none => .next s
  | some t =>
    let s1 := countLoopMiss k t s
    if !ceRuns s ∨ s.ce.loop[k].fault ∨ t < (elemOf s .control).doneAt.getD 0 then .next s
    else if !s1.ce.loop[k].fault then .next s1
    else .next (if loopSafe s k then safeFault 0x1B .ce k.val 0 0x02 s.pm s1 else logFault 0x1B .ce k.val reactReport 0 0x02 s1)

/-! ### Persisting causes (R426, R433) -/

/-- An element held to a cause, and not yet clean. -/
def unclean (s : State) (cause : Nat) : Bool := allElements.any fun el => (elemOf s el).cause == some cause && !(elemOf s el).clean

/-- The first cause of the table that persists. Marks: DESIGN CHOICE (log 18). -/
def persistCause (s : State) : Option Nat :=
  let checks : List (Bool × Nat) :=
    ([0x10, 0x11, 0x12, 0x13, 0x14, 0x15].map fun c => (unclean s c, c)) ++
    [(s.pwr.clkBaseBad, 0x16), (unclean s 0x17, 0x17), ((firstUnclean s).isSome, 0x18), (s.safe.safeIn, 0x19),
     (vany s.host.port (·.linkLost), 0x1A), (vany s.ce.loop (·.fault), 0x1B),
     (s.faultActive 0x1C && s.can.ctl[(1 : Fin 3)].st != .active, 0x1C),
     (isolLimit s != 0 && decide (isolLimit s ≤ isolatedBanks s), 0x1E)]
  (checks.find? (·.1)).map (·.2)

end Sys2Proof.Machine
end

