-- ==== Sys2Proof/Machine/ValveDrive.lean ====
section
/-! DEFINITION. The commands of the valve drive: queued events, windows, pull-ins, decays, armature signatures and the
conditions of the VBST rail (08). -/

namespace Sys2Proof.Machine

/-- The tick an event executes on: its due postmark, or the tick after it was enqueued where that is past (R201). -/
def Ev.runAt (v : Ev) : Tick := if v.stale then v.at_ + 1 else v.due

/-- The event of a bank queue that executes first: in order of its tick, then of the queue (R189, R201). -/
def firstEvent : List Ev → Option Ev
  | [] => none
  | ev :: l => some (l.foldl (fun m x => if x.runAt < m.runAt then x else m) ev)

/-- EVENT_EXECUTE: the first event of the bank queue, once due, is handed to the channel sequencer; its credit returns
(R201). An ON starts the generator, whose first request it is (R236); an OFF stops it and asks the channel off (R134).
Marks: DEDUCED (log 2). -/
def execEventExecute (b : Fin 12) (s : State) : Result :=
  match firstEvent s.vdr.bank[b].queue with
  | none => .next s
  | some ev =>
    let d := ev.runAt
    if d ≤ s.pm then
      let s1 := modBank b (fun k => { k with queue := k.queue.erase ev }) s
      let s2 := if ev.stale then notice .vdr 0x04 ev.ctx [] s1 else s1
      match idx? 96 ev.ctx with
      | none => .next s2
      | some c => if ev.on then .next (genOn c d s2) else .next (offRequest c d false (genOff c s2))
    else .next s

/-- After a start has been granted a tick, where its generator runs, the closing follows from it (R236). -/
def afterDecay (c : Fin 96) (r : State × Option Tick) : State :=
  match r.2 with
  | some g => if r.1.pwu.noz[c].running then scheduleClose c g (r.1.pwu.noz[c].nextOpen - 1) r.1 else r.1
  | none => r.1

/-- RESERVED_START: a PENDING channel whose postmark has come begins its pull-in, or has its start arbitrated (R190,
R194, R198). Marks: DEDUCED (log 2). -/
def execReservedStart (c : Fin 96) (s : State) : Result :=
  let h := s.vdr.ch[c]
  if h.st = .pending ∧ h.startAt ≤ s.pm then .next (afterDecay c (dueStart c s)) else .next s

/-- FEED_TO_VBST: from 320 ticks before a window's start the feed is on VBST (R188). -/
def execFeedToVbst (b : Fin 12) (s : State) : Result :=
  if s.vdr.bank[b].feed ≠ .bst ∧ s.vdr.bank[b].isolated = 0
      ∧ s.vdr.bank[b].windows.any (fun w => w.start ≤ s.pm + 320 && s.pm < w.stop) then
    .next (modBank b (fun k => { k with feed := .bst, onVbst := true }) s)
  else .next s

/-- WINDOW_END: the feed returns to VBAT and the guard gap begins (R188). -/
def execWindowEnd (b : Fin 12) (s : State) : Result :=
  if s.vdr.bank[b].feed = .bst ∧ s.vdr.bank[b].windows.any (fun w => w.stop ≤ s.pm)
      ∧ !(s.vdr.bank[b].windows.any fun w => inWindow w.start w.stop s.pm) then
    .next (modBank b (fun k => { k with feed := .guard, onVbst := false }) s)
  else .next s

/-- GUARD_END: end + GUARD has come: the window is done, and the bank is in BAT, or in BST where a window starts there
(R188). -/
def execGuardEnd (b : Fin 12) (s : State) : Result :=
  if s.vdr.bank[b].windows.any (fun w => w.stop + w.guard ≤ s.pm) then
    .next (modBank b (fun k =>
      let ws := k.windows.filter fun w => s.pm < w.stop + w.guard
      let bst := ws.any fun w => inWindow w.start w.stop s.pm
      { k with windows := ws, feed := if bst then .bst else if k.feed = .guard then .bat else k.feed, onVbst := bst || k.onVbst,
               offVbst := k.windows.foldl (fun m w => if w.stop + w.guard ≤ s.pm then max m w.stop else m) k.offVbst }) s)
  else .next s

/-- Inductance of a pull-in, 10 µH: L_REF is learned over the first 16, then 8 low ones in a row are SHORTED_TURNS
(R228). Marks: DEDUCED (log 58). -/
def judgeInductance (c : Fin 96) (l0 : Nat) (s : State) : State :=
  let p := s.vdr.prot[c]
  let ref := lRefOf s c.val
  if ref = 0 then
    if p.lCount + 1 ≥ 16 then
      let mean := min 65535 ((p.lSum + l0) / 16)
      notice .vdr 0x14 c.val (leBytes 4 mean)
        (putCoil (64 * c.val + 6576) mean (modProt c (fun p => { p with lSum := 0, lCount := 0, lowL := 0 }) s))
    else modProt c (fun p => { p with lSum := p.lSum + l0, lCount := p.lCount + 1, lowL := 0 }) s
  else if 100 * l0 < (100 - 5 * s.act.fld .vdr 6540 4) * ref then
    if p.lowL + 1 ≥ 8 ∧ !p.shortedTurns then
      contextFault c 0x13 (notice .vdr 0x13 c.val []
        (modProt c (fun p => { p with lowL := p.lowL + 1, shortedTurns := true, tempValid := false }) s))
    else modProt c (fun p => { p with lowL := p.lowL + 1 }) s
  else modProt c (fun p => { p with lowL := 0 }) s

/-- PULL_IN_END: HOLD, or the decay of an off request held to this tick (R190, R193, R198). -/
def execPullInEnd (c : Fin 96) (l0 : Nat) (s : State) : Result :=
  let h := s.vdr.ch[c]
  if h.st = .pullIn ∧ h.pullEnd ≤ s.pm then
    let s1 := judgeInductance c l0 s
    if h.held then .next (beginDecay c h.pullEnd true false h.faulted s1)
    else .next (modCh c (fun h => { h with st := .hold }) s1)
  else .next s

/-- The fast phase of a decay ends: a recovery's energy is booked whole in this frame (R205). -/
def bookFast (c : Fin 96) (energy : Nat) (s : State) : State :=
  let h := s.vdr.ch[c]
  let s1 := modCh c (fun h => { h with fast := false }) s
  if h.fast && h.recover then s1.onVdr fun v => { v with booked := v.booked + energy } else s1

/-- FAST_DECAY_END: the current has fallen to I_TAIL (R193, R205). With I_TAIL = 0 there is no slow phase: the fast one lasts to
the end of the decay, which books it. -/
def execFastDecayEnd (c : Fin 96) (energy : Nat) (s : State) : Result :=
  if s.vdr.ch[c].st = .decay ∧ s.vdr.ch[c].fast ∧ s.vdr.ch[c].offSet.iTail ≠ 0 then .next (bookFast c energy s) else .next s

/-- DECAY_END: the current has fallen below 5 mA or the closing search has ended, without a signature (R193, R208), no later
than offPm + SIG_OFF_WIN. -/
def execDecayEnd (c : Fin 96) (energy : Nat) (s : State) : Result :=
  let h := s.vdr.ch[c]
  if h.st = .decay then
    .next (afterDecay c (finishDecay c (min s.pm (h.offPm + h.offSet.searchWin)) false
      (writeFiring c (closingRecord h c h.offPm true) (bookFast c energy s))))
  else .next s

/-- A measured opening: recorded, learned where the start is not indeterminate, and the channel moves (R211, R213). -/
def takeOpening (c : Fin 96) (at_ : Tick) (s : State) : State :=
  let h := s.vdr.ch[c]
  let i := ctxOf c
  let m := at_ - h.startAt
  let s1 := writeFiring c { pm := at_, ctx := c.val, battery := h.battery, cut := h.cut, deferred := h.deferred,
                            recommand := h.recommand, overDmax := h.overDmax, latency := m }
    (modCh c (fun h => { h with searching := false, confirmed := true }) s)
  let s2 := modLat i (fun l => { l with openings := incMod 32 l.openings 1 }) s1
  if h.indeterminate || h.faulted || s.vdr.prot[c].openLoad then s2
  else
    let k := latKind false h.battery
    let s3 := modLat i (fun l => { l with missRun := 0, noMotion := false }) s2
    let s4 := if s.vdr.lat[i].noMotion then contextClear c s3 else s3
    if learnAllowed s k then learn i k m s4 else s4

/-- Samples of channel `c` lie at offset 10 × (c mod 8) within each 80-tick microsecond (R206). -/
def sampleOf (c : Fin 96) (t : Tick) : Bool := t % 80 == 10 * (c.val % 8)

/-- The tick of an extremum: the vertex of the parabola through its sample and the two beside it, 80 ticks apart, to the
nearest tick, a tie to the earlier (R207). -/
def vertexAt (g : SigIn) : Tick :=
  let bend := g.before - 2 * g.at_ + g.after
  let num := 40 * (g.before - g.after) * bend.sign
  let den := (bend.natAbs : Int)
  if den = 0 then g.sample else ((g.sample : Int) - (den - 2 * num) / (2 * den)).toNat

/-- A signature of the residual: the extremum lies at least the needed height from the one before it (in half mA), is
followed within 16,000 ticks, now, by a return of at least half that, and nothing forces the current (R206 to R208). -/
def signatureOk (c : Fin 96) (now : Tick) (g : SigIn) (need : Nat) : Bool :=
  let size := (g.prior - g.at_).natAbs
  sampleOf c g.sample && !g.forced && decide (need ≤ 2 * size) && decide (size ≤ 2 * (g.later - g.at_).natAbs)
    && decide (g.sample ≤ now) && decide (now ≤ g.sample + 16000)

/-- The residual at a sample is a minimum between what came before and what follows. -/
def isMin (g : SigIn) : Bool := g.at_ ≤ g.before && g.at_ ≤ g.after && g.at_ < g.prior && g.at_ < g.later
/-- The residual at a sample is a maximum between what came before and what follows. -/
def isMax (g : SigIn) : Bool := g.before ≤ g.at_ && g.after ≤ g.at_ && g.prior < g.at_ && g.later < g.at_

/-- OPENING_SIGNATURE: a minimum of the residual, confirmed now by its rise, inside the opening search (R207). Marks:
DESIGN CHOICE (log 7). -/
def execOpeningSignature (c : Fin 96) (g : SigIn) (s : State) : Result :=
  let h := s.vdr.ch[c]
  if h.searching ∧ (h.st = .pullIn ∨ h.st = .hold) ∧ h.startAt ≤ g.sample ∧ s.pm ≤ h.startAt + h.onSet.searchWin
      ∧ isMin g ∧ signatureOk c s.pm g (10 * h.onSet.sigMin) then
    .next (takeOpening c (max h.startAt (vertexAt g)) s)
  else .next s

/-- A measured closing is recorded and learned (R208, R211). -/
def takeClosing (c : Fin 96) (at_ : Tick) (s : State) : State :=
  let h := s.vdr.ch[c]
  let k := latKind true h.offBattery
  let s1 := writeFiring c (closingRecord h c at_ false) s
  if h.faulted || s.vdr.prot[c].openLoad || !learnAllowed s k then s1 else learn (ctxOf c) k (at_ - h.offPm) s1

/-- CLOSING_SIGNATURE: a maximum of the residual, confirmed now by its fall, inside the closing search. It ends its
own decay (R193, R208); `energy` is what a fast phase still running had recovered. Marks: DESIGN CHOICE (log 7). -/
def execClosingSignature (c : Fin 96) (g : SigIn) (energy : Nat) (s : State) : Result :=
  let h := s.vdr.ch[c]
  if h.st = .decay ∧ h.closeSearch ∧ h.offPm ≤ g.sample ∧ s.pm ≤ h.offPm + h.offSet.searchWin
      ∧ isMax g ∧ signatureOk c s.pm g (5 * h.offSet.sigMin) then
    .next (afterDecay c (finishDecay c s.pm true (takeClosing c (max h.offPm (vertexAt g)) (bookFast c energy s))))
  else .next s

/-- OPENING_SEARCH_END: start + SIG_ON_WIN has come without a signature (R207, R213). -/
def execOpeningSearchEnd (c : Fin 96) (s : State) : Result :=
  let h := s.vdr.ch[c]
  if h.searching ∧ h.startAt + h.onSet.searchWin ≤ s.pm then .next (endSearch c (h.startAt + h.onSet.searchWin) s) else .next s

/-! ### The conditions of R203. Each set and each clear queues a notice. -/

/-- BOOST_LIMIT: the 1 s average output, mW, reaches 40 W × (1 − r_c) of the boost consumer (R315), or falls below 36
W and below that limit. Marks: DEDUCED (log 57). -/
def execBoostLimit (avgMw : Nat) (s : State) : Result :=
  let lim := 40000 * (256 - boostR s) / 256
  if !s.vdr.conv.boostLimit ∧ avgMw ≥ lim then
    .next (notice .vdr 0x05 0xFFFF (leBytes 4 1) (s.onVdr fun v => { v with conv := { v.conv with boostLimit := true } }))
  else if s.vdr.conv.boostLimit ∧ avgMw < min lim 36000 then
    .next (notice .vdr 0x05 0xFFFF (leBytes 4 0) (s.onVdr fun v => { v with conv := { v.conv with boostLimit := false } }))
  else .next s

/-- A measurement of VBST, 10 mV, that a command brings. -/
def sawVbst (v : Nat) (s : State) : State := s.onVdr fun d => { d with conv := { d.conv with vbst := v } }
/-- A measurement of VBAT, 10 mV, that a command brings; VLS is the same net, above 36 V only in a load dump (R298,
R467). Marks: DEDUCED (log 76). -/
def sawVbat (v : Nat) (s : State) : State :=
  (s.onVdr fun d => { d with conv := { d.conv with vbat := v } }).onPwr fun p => { p with over36 := p.loadDump && decide (v > 3600) }

/-- VBST_SAG: VBST (10 mV) has been below target − 6 V for 100 µs, or at or above target − 2 V for 1 ms. -/
def execVbstSag (vbst : Nat) (s0 : State) : Result :=
  let s := sawVbst vbst s0
  let t := vbstTarget s s.vdr.conv.vbat
  if !s.vdr.conv.sag ∧ vbst + 600 < t then
    .next (notice .vdr 0x06 0xFFFF (leBytes 4 1) (s.onVdr fun v => { v with conv := { v.conv with sag := true } }))
  else if s.vdr.conv.sag ∧ vbst + 200 ≥ t then
    .next (notice .vdr 0x06 0xFFFF (leBytes 4 0) (s.onVdr fun v => { v with conv := { v.conv with sag := false } }))
  else .next s

/-- VBAT at or below 35 V for 10 ms ends a load dump and its SUPPLY fault (R203, R467). -/
def loadDumpEnds (vbat : Nat) (s : State) : State :=
  if s.pwr.loadDump ∧ vbat ≤ 3500 then endFault 0x24 2 (s.onPwr fun p => { p with loadDump := false, over36 := false }) else s

/-- RETURN_SUSPENDED: VBAT (10 mV) above 36 V or RETURN_EN = 0, or VBAT at or below 35 V for 10 ms. -/
def execReturnSuspended (vbat : Nat) (s0 : State) : Result :=
  let s := loadDumpEnds vbat (sawVbat vbat s0)
  if !s.vdr.conv.returnSusp ∧ (vbat > 3600 ∨ !returnEn s) then
    .next (notice .vdr 0x07 0xFFFF (leBytes 4 1) (s.onVdr fun v => { v with conv := { v.conv with returnSusp := true } }))
  else if s.vdr.conv.returnSusp ∧ vbat ≤ 3500 ∧ returnEn s then
    .next (notice .vdr 0x07 0xFFFF (leBytes 4 0) (s.onVdr fun v => { v with conv := { v.conv with returnSusp := false } }))
  else .next s

/-- RECOVERY_DIVERT: VBST (10 mV) above target + 6 V, or at or below target + 3 V. -/
def execRecoveryDivert (vbst : Nat) (s0 : State) : Result :=
  let s := sawVbst vbst s0
  let t := vbstTarget s s.vdr.conv.vbat
  if !s.vdr.conv.divert ∧ vbst > t + 600 then
    .next (notice .vdr 0x08 0xFFFF (leBytes 4 1) (s.onVdr fun v => { v with conv := { v.conv with divert := true } }))
  else if s.vdr.conv.divert ∧ vbst ≤ t + 300 then
    .next (notice .vdr 0x08 0xFFFF (leBytes 4 0) (s.onVdr fun v => { v with conv := { v.conv with divert := false } }))
  else .next s

/-! ### The ledger at a frame edge (R204, R205) -/

/-- Fast decays by recovery in progress. -/
def recoveries (s : State) : Nat := vcount s.vdr.ch fun h => h.st == .decay && h.fast && h.recover

/-- The sum of the residuals down to the newest edge with PENDING 0 at least 200 frames back; none while there is no
such edge yet. Marks: DEDUCED (log 57). -/
def sumWindow (e : Tick) : List (Tick × Nat × Int) → Option Int
  | [] => none
  | (p, n, r) :: l => if n = 0 ∧ p + 200 * frameTicks ≤ e then some 0 else (sumWindow e l).map (r + ·)

/-- Drop what no later test can need: everything older than the newest PENDING 0 edge at least 200 frames back. -/
def trimHist (e : Tick) : List (Tick × Nat × Int) → List (Tick × Nat × Int)
  | [] => []
  | (p, n, r) :: l => if n = 0 ∧ p + 200 * frameTicks ≤ e then [(p, n, r)] else (p, n, r) :: trimHist e l

/-- Half of C times the difference of squared voltages, µJ, with C in µF and V in 10 mV. Marks: DEDUCED (log 57). -/
def capEnergy (c v0 v1 : Nat) : Int := ((c : Int) * ((v1 : Int) * v1 - (v0 : Int) * v0)).tdiv 20000

/-- VDR closes the books at frame edge `e`. Marks: DEDUCED (log 57). -/
def closeLedger (e : Tick) (f : Freeze) (s : State) : State :=
  let v0 := s.vdr.ledger.vbst
  let cap := capEnergy (s.act.fld .vdr 144 16) v0 f.vbst
  let res := f.eConv + (s.vdr.booked : Int) - (f.eFeed : Int) - cap
  let pend := recoveries s
  let hist := (e, pend, res) :: s.vdr.hist
  let bad := if pend = 0 then
      match sumWindow e hist with
      | some total => decide (total.natAbs > 1000 * s.act.fld .vdr 128 16)
      | none => s.vdr.ledger.mismatch
    else s.vdr.ledger.mismatch
  let s1 := s.onVdr fun v => { v with
    ledger := { edgePm := e, eConv := f.eConv, eFeed := f.eFeed, eRecover := v.booked, eCap := cap, residual := res,
                pending := pend, mismatch := bad, vbst := f.vbst, vbat := f.vbat }
    conv := { v.conv with vbst := f.vbst, vbat := f.vbat }
    booked := 0, hist := trimHist e hist }
  if bad ∧ pend = 0 then notice .vdr 0x09 0xFFFF [] s1 else s1

/-- LATENCY_SAVE: every 10 min the learned latencies are written to the NOR (R214). -/
def execLatencySave (s : State) : Result :=
  if s.running ∧ s.vdr.latSaved + 48000000000 ≤ s.pm then
    .next ((s.onNor fun n => { n with lat := s.vdr.lat }).onVdr fun v => { v with latSaved := s.pm })
  else .next s

end Sys2Proof.Machine
end

