-- ==== Sys2Proof/Machine/Protection.lean ====
section
/-! DEFINITION. Coil and stage protection: stage faults, isolation and retries, coil resistance and temperature (09). -/

namespace Sys2Proof.Machine

/-! ### Stage faults (R220 to R223, R229, R232, R426) -/

/-- A channel fault is noticed and recorded as a context fault. -/
def channelFault (c : Fin 96) (code : Nat) (s : State) : State :=
  logFault 0x1F .vdr c.val reactReport 0 code (notice .vdr code c.val [] s)

/-- OVERCURRENT: the low side goes off at once and the channel is latched. -/
def tripStage (c : Fin 96) (s : State) : State :=
  channelFault c 0x0C (forceOff c s.pm (modProt c (fun p =>
    { p with overcurrent := true, tripLatch := true, tripAt := s.pm, retrying := false }) s))

/-- OVERCURRENT of a channel whose low side is on. -/
def execOvercurrent (c : Fin 96) (s : State) : Result :=
  if chanOn s.vdr.ch[c] then .next (tripStage c s) else .next s

/-- OVERLOAD: the mean over 100 ms exceeds 1.65 A; a latch that OVERCURRENT has set stands. -/
def execOverload (c : Fin 96) (meanMa : Nat) (s : State) : Result :=
  let p := s.vdr.prot[c]
  if 1650 < meanMa ∧ (!p.tripLatch ∨ !p.overload) then
    .next (channelFault c 0x0E (offRequest c s.pm true (modProt c (fun p =>
      { p with overload := true, tripLatch := true, tripAt := if p.tripLatch then p.tripAt else s.pm, retrying := false }) s)))
  else .next s

/-- A channel's stage sensor: its zone and its index there (R309). -/
def stageSensor (c : Fin 96) : Fin 10 × Fin 20 := (⟨c.val / 16 + 1, by omega⟩, ⟨c.val % 16, by omega⟩)

/-- A channel's stage at reading `r`: STAGE_HOT from T_TRIP on, released at or below T_TRIP − 20 K. -/
def stageTemp (c : Fin 96) (r : Int) (s : State) : State :=
  if tTrip s ≤ r ∧ !s.vdr.prot[c].stageHot then
    channelFault c 0x0F (offRequest c s.pm true (modProt c (fun p => { p with stageHot := true }) s))
  else if r ≤ tRelease s ∧ s.vdr.prot[c].stageHot then contextClear c (modProt c (fun p => { p with stageHot := false }) s)
  else s

/-- A bank is isolated, 1 by SHORT_GND, 2 by FEED_OC; SAFE when the isolated banks reach BANK_ISOL_LIMIT (R222, R426). -/
def isolateFault (b : Fin 12) (cause : Nat) (s : State) : State :=
  let s1 := isolateBank b cause s
  if isolLimit s1 ≠ 0 ∧ isolLimit s1 ≤ isolatedBanks s1 then safeFault 0x1E .vdr b.val 0 0x10 s.pm s1
  else logFault 0x1E .vdr b.val reactReport 0 0x10 s1

/-- A bank feed is tripped. -/
def tripFeed (b : Fin 12) (s : State) : State :=
  if s.vdr.bank[b].isolated = 0 ∨ s.vdr.bank[b].reconnect.isSome then isolateFault b 2 s else s

/-- FEED_OC: a feed's comparator or its mean current; its sensor's samples trip it as well (R310, R311). Marks:
DEDUCED (log 59). -/
def execFeedOc (b : Fin 12) (s : State) : Result := .next (tripFeed b s)

/-- SHORT_GND on a channel. -/
def setShort (c : Fin 96) (s : State) : State :=
  channelFault c 0x0D (modProt c (fun p => { p with shortGnd := true }) s)

/-- OPEN_LOAD on a channel; it stops the context where CTX_FAULT_ACTION says so (R428). -/
def setOpen (c : Fin 96) (s : State) : State :=
  if s.vdr.prot[c].openLoad then s
  else contextFault c 0x0B (notice .vdr 0x0B c.val [] (modProt c (fun p =>
    { p with openLoad := true, onPass := false, openAt := s.pm, offPassFrom := none }) s))

/-- OPEN_LOAD clears once a later on-drive has passed and the off-state test has passed for 100 ms. -/
def clearOpen (c : Fin 96) (s : State) : State :=
  let p := s.vdr.prot[c]
  let passed : Bool := match p.offPassFrom with
    | some t => decide (t + 8000000 ≤ s.pm)
    | none => false
  if p.openLoad && p.onPass && passed then contextClear c (modProt c (fun p => { p with openLoad := false }) s) else s

/-- OPEN_LOAD in the on state: 1 ms of current from 400 µs after the drive's start, with 8 V across the coil. Marks:
DEDUCED (log 58). -/
def execOpenLoad (c : Fin 96) (ma : Nat) (s : State) : Result :=
  let h := s.vdr.ch[c]
  if chanOn h ∧ h.startAt + 112000 ≤ s.pm then
    if ma < s.act.fld .vdr 6528 8 then .next (setOpen c s)
    else .next (clearOpen c (modProt c (fun p => { p with onPass := p.onPass || decide (p.openAt < h.startAt) }) s))
  else .next s

/-- The feed of a bank has been switched on for 50 µs and stands in no feed break (R188, R221): in START, QUARANTINE and
LATCHED no feed is on (R438, R453). -/
def feedSettled (s : State) (b : Fin 12) (for_ : Tick) : Bool :=
  (match s.sys.dev with
   | .standby | .armed | .manual | .coast | .safe => true
   | _ => false)
  && s.vdr.bank[b].isolated == 0 && startsAct s && decide (s.vdr.bank[b].feedAt + 4000 + for_ ≤ s.pm)
  && !(s.vdr.bank[b].windows.any fun w => inWindow w.stop (w.stop + 160) s.pm)

/-- The connection of a reconnection test has settled, and its 1 ms has passed (R230). -/
def reconnectTested (s : State) (b : Fin 12) : Bool :=
  match s.vdr.bank[b].reconnect with
  | some t => decide (t + 84000 ≤ s.pm)
  | none => false

/-- Since when the off-state test of a channel passes: it begins anew once the channel has left OFF or its feed has been off. -/
def passingFrom (s : State) (c : Fin 96) : Tick :=
  match s.vdr.prot[c].offPassFrom with
  | some t => if s.vdr.ch[c].offSince ≤ t ∧ s.vdr.bank[bankOf c].feedAt ≤ t then t else s.pm
  | none => s.pm

/-- OFF_STATE_TEST: OUTm has been below half of BFk for 1 ms, or is above it, with the channel in OFF and its feed on
(R221). Within a reconnection SHORT_GND isolates with the end of the connection (R230). Marks: DEDUCED (log 58). -/
def execOffStateTest (c : Fin 96) (low : Bool) (excessMa : Nat) (s : State) : Result :=
  let b := bankOf c
  let h := s.vdr.ch[c]
  if h.st = .off ∧ (!low ∨ h.offSince + 80000 ≤ s.pm) ∧ feedSettled s b (if low then 80000 else 0) then
    if low then
      let s1 := modProt c (fun p => { p with offPassFrom := none }) s
      .next (if 100 < excessMa then isolateFault b 1 (setShort c s1) else setOpen c s1)
    else .next (clearOpen c (modProt c (fun p => { p with offPassFrom := some (passingFrom s c) }) s))
  else if h.st = .off ∧ low ∧ reconnectTested s b then
    .next (if 100 < excessMa then setShort c s else setOpen c s)
  else .next s

/-- RETRY_RELEASE: 100 ms after the latch a retry is granted, or the latch stays; frozen while LATCHED (R223). -/
def execRetryRelease (r : RetryTarget) (s : State) : Result :=
  if s.sys.dev = .latched then .next s
  else match r with
    | .channel c =>
      if s.vdr.prot[c].tripLatch ∧ s.vdr.prot[c].tripAt + 8000000 ≤ s.pm ∧ 0 < s.pd0.chRetries[c] then
        .next ((modProt c (fun p => { p with tripLatch := false, retrying := true }) s).onPd0 fun d =>
          { d with chRetries := vmod d.chRetries c (· - 1) })
      else .next s
    | .bank b =>
      if s.vdr.bank[b].isolated = 2 ∧ s.vdr.bank[b].isolAt + 8000000 ≤ s.pm ∧ 0 < s.pd0.bankRetries[b] then
        .next (endFault 0x1E b.val ((modBank b (fun k => { k with isolated := 0, feedAt := s.pm }) s).onPd0 fun d =>
          { d with bankRetries := vmod d.bankRetries b (· - 1) }))
      else .next s

/-! ### Coil resistance and temperature (R224 to R228) -/

/-- The coil temperature of a resistance, 0.1 °C, to the nearest (R225). -/
def coilTempOf (r r20 : Nat) : Int := 200 + roundDiv (((r : Int) - r20) * 1000000) (393 * r20)

/-- R20 of a coil that had this resistance at a temperature in 0.1 °C (R225). -/
def r20From (r : Nat) (tb : Int) : Nat := (roundDiv ((r : Int) * 1000000) (1000000 + 393 * (tb - 200)).toNat).toNat

/-- R20 is learned from the first measurement within 60 s of the first on-pulse after a long OFF. -/
def learnR20 (c : Fin 96) (r : Nat) (s : State) : State :=
  let inTime : Bool := match s.vdr.prot[c].firstOn with
    | some t => decide (s.pm < t + 4800000000)
    | none => false
  if r20Of s c.val = 0 ∧ (s.pwr.longOff && inTime) then
    let v := min 65535 (r20From r s.pwr.tbStart)
    notice .vdr 0x14 c.val (leBytes 4 v) (putCoil (64 * c.val + 6560) v s)
  else s

/-- The coil is taken to be at `t`: its flags and the latch clear at their thresholds (R227). -/
def coolCoil (c : Fin 96) (t : Int) (s : State) : State :=
  let s1 := modProt c (fun p => { p with
    coilWarm := p.coilWarm && decide (1250 < t)
    coilHot := p.coilHot && decide (1300 < t)
    coilLatch := p.coilLatch && decide (1300 < t) }) s
  if s.vdr.prot[c].coilHot && decide (t ≤ 1300) then contextClear c s1 else s1

/-- COIL_WARM at 130 °C and COIL_HOT at 155 °C (R227). -/
def heatCoil (c : Fin 96) (t : Int) (s : State) : State :=
  let s1 := if 1300 ≤ t ∧ !s.vdr.prot[c].coilWarm then
      notice .vdr 0x11 c.val [] (modProt c (fun p => { p with coilWarm := true }) s) else s
  if 1550 ≤ t ∧ !s1.vdr.prot[c].coilHot then
    let s2 := channelFault c 0x12 (modProt c (fun p => { p with coilHot := true }) s1)
    if s.act.flag .vdr 6552 then offRequest c s.pm true (modProt c (fun p => { p with coilLatch := true }) s2) else s2
  else s1

/-- SHORTED_TURNS by resistance: three measurements in a row below 0.7642 × R20 (R228). -/
def judgeResistance (c : Fin 96) (r r20 : Nat) (s : State) : State :=
  if 10000 * r < 7642 * r20 then
    let n := s.vdr.prot[c].lowR + 1
    let s1 := modProt c (fun p => { p with lowR := n }) s
    if 3 ≤ n ∧ !s.vdr.prot[c].shortedTurns then
      contextFault c 0x13 (notice .vdr 0x13 c.val [] (modProt c (fun p => { p with shortedTurns := true }) s1))
    else s1
  else modProt c (fun p => { p with lowR := 0 }) s

/-- The feed of a bank has been on VBAT throughout [t − 80,000, t), breaks apart (R224). -/
def onVbatThroughout (s : State) (b : Fin 12) (t : Tick) : Bool :=
  feedMode s b != 2 && s.vdr.bank[b].isolated == 0 && decide (s.vdr.bank[b].offVbst + 80160 ≤ t)
    && !(s.vdr.bank[b].windows.any fun w => w.start < t + 320 && t < w.stop + 80160)

/-- The pulse qualifies (R224): 5 ms long, at its decay start or at a multiple of 100 ms of on-time, on VBAT throughout, its
opening confirmed or none to be had, the two half-window means within 1 %. -/
def measures (s : State) (c : Fin 96) (first second : Nat) : Bool :=
  let h := s.vdr.ch[c]
  let atPoint := (h.st == .hold && s.pm != h.startAt && (s.pm - h.startAt) % 8000000 == 0) || (h.st == .decay && h.offPm == s.pm)
  atPoint && decide (h.startAt + 400000 ≤ s.pm) && onVbatThroughout s (bankOf c) s.pm
    && (h.confirmed || !h.onSet.sig || s.vdr.prot[c].rMeas == 0)
    && decide (100 * (max first second - min first second) ≤ max first second)

/-- COIL_RESISTANCE_MEASURE of `r`, 2 mΩ, with the mean currents of the two halves of the window. Marks: DESIGN CHOICE
(log 7), DEDUCED (log 58). -/
def execCoilResistanceMeasure (c : Fin 96) (r first second : Nat) (s : State) : Result :=
  if measures s c first second then
    let s1 := learnR20 c r (modProt c (fun p => { p with rMeas := min r 65535 }) s)
    let r20 := r20Of s1 c.val
    if r20 = 0 then .next s1
    else
      let t := coilTempOf r r20
      let s2 := judgeResistance c r r20 s1
      .next (heatCoil c t (coolCoil c t (modProt c (fun p => { p with
        tempValid := !p.shortedTurns, tempSeen := true, coilTemp := satS 16 t, coolTime := 0, tempAt := s.pm, coilHeld := satS 16 t }) s2)))
  else .next s

/-- COIL_COOLED: what the estimate of a channel that is off has fallen to is judged (R226, R227). Marks: DEDUCED (log
58), DEDUCED (log 58). -/
def execCoilCooled (c : Fin 96) (s : State) : Result :=
  if !chanOn s.vdr.ch[c] ∧ r20Of s c.val ≠ 0 ∧ s.vdr.prot[c].tempSeen then .next (coolCoil c (coilEstimate s c s.pm) s) else .next s

/-- R of the coil model of a firing, 2 mΩ: the latest R_MEAS, R20 corrected to the baseplate, or none, where it is fitted to the
first 500 µs of the pull-in (R206, R225). -/
def coilModelR (s : State) (c : Fin 96) : Option Nat :=
  if s.vdr.prot[c].rMeas ≠ 0 then some s.vdr.prot[c].rMeas
  else if r20Of s c.val ≠ 0 then some (roundDiv ((r20Of s c.val : Int) * (1000000 + 393 * (s.ths.zone[(9 : Fin 10)].temp - 200))) 1000000).toNat
  else none

/-- RELEARN: R20 and L_REF are zero and learned afresh, and no R_MEAS exists (R219, R225). -/
def relearn (c : Fin 96) (s : State) : State :=
  putCoil (64 * c.val + 6560) 0 (putCoil (64 * c.val + 6576) 0
    (modProt c (fun p => { p with lSum := 0, lCount := 0, lowL := 0, lowR := 0, tempValid := false, rMeas := 0 }) s))

/-- RELEARN as a command of its own. -/
def execRelearn (c : Fin 96) (s : State) : Result := .next (relearn c s)

/-! ### ACT_CLEAR_FAULT (R230, R428) -/

/-- A channel's trips clear and its retries are loaded. -/
def clearChannel (c : Fin 96) (s : State) : State :=
  contextClear c ((modProt c (fun p =>
    { p with overcurrent := false, overload := false, shortGnd := false, tripLatch := false, retrying := false }) s).onPd0 fun d =>
    { d with chRetries := d.chRetries.set c (s.act.fld .vdr 6536 4) })

/-- A channel named by ACT_CLEAR_FAULT: a stopped context runs again, with NO_MOTION and MISS_RUN cleared (R428). -/
def clearContext (c : Fin 96) (s : State) : State :=
  let s1 := modLat (ctxOf c) (fun l => { l with noMotion := false, missRun := 0 }) s
  clearChannel c (s1.onFe fun f => { f with stopped := f.stopped.set c false })

/-- A bank named by ACT_CLEAR_FAULT. -/
def clearBank (b : Fin 12) (s : State) : State :=
  let s1 := (bankChans b).foldl (fun t c => clearChannel c t) s
  s1.onPd0 fun d => { d with bankRetries := d.bankRetries.set b (s.act.fld .vdr 6536 4) }

/-- The reconnection test of an isolated bank begins. -/
def beginReconnect (b : Fin 12) (s : State) : State := modBank b (fun k => { k with reconnect := some s.pm }) s

/-- The reconnection test has found no short: the bank is connected (R187). -/
def reconnected (b : Fin 12) (s : State) : State :=
  endFault 0x1E b.val (modBank b (fun k => { k with isolated := 0, reconnect := none, feedAt := s.pm }) s)

/-- The off-state test has found a channel of the bank shorted to ground within the connection (R221, R230). -/
def bankShorted (s : State) (b : Fin 12) : Bool := (bankChans b).any fun c => s.vdr.prot[c].shortGnd

/-- The reconnection test has found channel `j` of the bank shorted to ground. -/
def reisolated (b : Fin 12) (j : Fin 8) (s : State) : State :=
  isolateFault b 1 (setShort ⟨8 * b.val + j.val, by omega⟩ s)

end Sys2Proof.Machine
end

