-- ==== Sys2Proof/Machine/Thermal.lean ====
section
/-! DEFINITION. The thermal supervisor: zone values, warnings, throttling and its consumers, broken sensors, rate
trips, the latched shutdown (14). The correction of R320 precedes the readings the commands carry. -/

namespace Sys2Proof.Machine

def modZone (z : Fin 10) (f : Zone → Zone) (s : State) : State := s.onThs fun v => { v with zone := vmod v.zone z f }

/-- THS samples while its power die is on. -/
def thsRuns (s : State) : Bool := s.sys.dev != .off && s.pwr.domains.getLsbD 11

/-! ### A zone's value (R309, R314) -/

/-- The zone value: the highest current reading among its sensors, a replaced one for a broken sensor, and the sensor
that gives it; none before the first sample. Marks: DEDUCED (log 77). -/
def zoneValue (s : State) (z : Fin 10) : Option (Nat × Int) :=
  (List.range (sensorCount z)).foldl (fun best k =>
    match (idx? 20 k).bind fun j => if s.ths.zone[z].sens[j].broken then some (standsFor s z k) else s.ths.zone[z].sens[j].valid with
    | none => best
    | some v => match best with
      | some w => if w.2 < v then some (k, v) else best
      | none => some (k, v)) none

/-- A THS notice carries the zone and the sensor (R323). -/
def thsNote (code : Nat) (z : Fin 10) (sensor : Nat) (s : State) : State :=
  notice .ths code z.val (leBytes 4 sensor) s

/-! ### Consumers (R216, R302, R315 to R317) -/

/-- The duty scale of a bank at a reduction of 1/65,536: 1 − 1.5 (r − 2/3) from r = 2/3 (R216). -/
def dutyScale (r : Nat) : Nat := if 131072 ≤ 3 * r then 65536 - (3 * r - 131072) / 2 else 65536

/-- The grid of a bank takes a scale from this sample on (R237, R315). -/
def setScale (k now : Nat) (g : Grid) : Grid :=
  if g.scale = k then g else { g with scale := k, scaleAt := now, scalePrev := g.scale }

/-- The share of acquisition passes, 1/256, and the pair's clock, MHz (R316). -/
def acqShareOf (r : Nat) : Nat := 256 - 2 * min r 128
def pairMhzOf (r : Nat) : Nat := if r < 128 then 400 else max 200 (400 * (384 - min r 256) / 256 / 25 * 25)

/-- Every consumer takes its share; a restart of the pair runs at 400 MHz (R316). -/
def throttleAll (s : State) : State :=
  let shed : Vector Nat 6 := Vector.ofFn fun d => 256 * valveR s d
  let s1 := s.onVdr fun v => { v with shed := shed }
  let s2 := s1.onPwu fun v => { v with grid := vmapIdx v.grid fun b g => setScale (dutyScale shed[dieOf b]) s.pm g }
  lswSyncAll (s2.onThs fun v => { v with acqShare := acqShareOf (logicR s), pairMhz := if s.restarting .pair then 400 else pairMhzOf (logicR s) })

/-! ### A sample (R311, R313, R315) -/

/-- The zone's record after a value. -/
def sampled (s : State) (z : Fin 10) (hot : Nat) (t : Int) (x : Zone) : Zone :=
  let c := zoneClass z
  { x with
    temp := t
    hotSensor := hot
    reduction := appliedReduction s c x.reduction t
    warn := match warnAt s c with
      | some w => if w ≤ t then true else if t < w - 20 then false else x.warn
      | none => false
    throttling := decide (throttleAt s c ≤ t)
    fast := x.sens.toList.any (·.fast)
    hotRun := if z ≠ 9 ∧ shutdownAt s c ≤ t then x.hotRun + 1 else 0 }

/-- The notices a sample calls for. -/
def sampleNotes (z : Fin 10) (x y : Zone) (s : State) : State :=
  let s1 := if x.warn != y.warn then thsNote 0x01 z y.hotSensor s else s
  if (!x.throttling && y.throttling) || (x.reduction != 0 && y.reduction == 0) then thsNote 0x02 z y.hotSensor s1 else s1

/-- The zone takes its value: flags, reduction, consumers. -/
def zoneSample (z : Fin 10) (s : State) : State :=
  match zoneValue s z with
  | none => s
  | some v =>
    let x := s.ths.zone[z]
    let s1 := modZone z (sampled s z v.1 v.2) s
    throttleAll (sampleNotes z x s1.ths.zone[z] s1)

/-- A sensor is found broken: its reading is replaced until the next START (R314). -/
def breakSensor (z : Fin 10) (k : Fin 20) (s : State) : State :=
  if s.ths.zone[z].sens[k].broken then s
  else thsNote 0x03 z k.val (modZone z (fun x => { x with
    sens := x.sens.set k { x.sens[k] with broken := true, fast := true }, broken := true, brokenCount := x.brokenCount + 1 }) s)

/-- A reading of a sensor enters; outside −60 °C to +210 °C the sensor is broken (R311, R314). -/
def takeReading (z : Fin 10) (k : Fin 20) (t : Int) (s : State) : State :=
  let s1 := modZone z (fun x => { x with sens := x.sens.set k (x.sens[k].sample s.pm (throttleAt s (zoneClass z)) t) }) s
  if t < -600 ∨ 2100 < t then breakSensor z k s1 else s1

/-- The second consecutive sample of a die zone at SHUTDOWN: the latch record, and LATCHED (R318). Marks: DEDUCED (log
77). -/
def shutDown (z : Fin 10) (s : State) : State :=
  let x := s.ths.zone[z]
  if 2 ≤ x.hotRun ∧ s.sys.dev ≠ .latched then
    let rec_ : ThermLatch := { zone := z.val, sensor := x.hotSensor, temp := x.temp, pm := s.pm, boot := s.pd0.bootCount }
    enterLatched (logFault 0x04 .ths z.val reactLatched 0 0x05 (s.onPd0 fun d => { d with latch := some rec_ }))
  else s

/-! ### Stage trips (R310, R312) -/

/-- What a sensor of a power die sits on: a valve channel, a bank feed, a load switch (R309). -/
inductive Stage where
  | channel (c : Fin 96)
  | feed (b : Fin 12)
  | switch (c : Fin 16)
deriving DecidableEq, Repr

def stageOf (z : Fin 10) (k : Fin 20) : Option Stage :=
  if z = 0 ∨ z = 7 ∨ z = 9 then none
  else if z = 8 then (idx? 16 k.val).map .switch
  else if k.val < 16 then (idx? 96 (16 * (z.val - 1) + k.val)).map .channel
  else (idx? 12 (2 * (z.val - 1) + (k.val - 16) / 2)).map .feed

/-- The stage at a reading `r` of its sensor: STAGE_HOT, FEED_OC and OVERTEMP act at T_TRIP (R310). Marks: DEDUCED
(log 77). -/
def stageAt (z : Fin 10) (k : Fin 20) (r : Int) (s : State) : State :=
  match stageOf z k with
  | some (.channel c) => stageTemp c r s
  | some (.feed b) => if tTrip s ≤ r then tripFeed b s else s
  | some (.switch c) => lswTemp c r s
  | none => s

/-- The stage trips as a short (R312). -/
def rateTripStage (z : Fin 10) (k : Fin 20) (s : State) : State :=
  match stageOf z k with
  | some (.channel c) => tripStage c s
  | some (.feed b) => tripFeed b s
  | some (.switch c) => if s.lsw.ls[c].st = .latched then s else lswTrip c 0x03 (fun l => { l with short := true }) s
  | none => s

/-- A sample more than 10 K above that of 1 ms before trips its stage, unless the sensor is broken (R312). `was` is
the state before the sample. Marks: DEDUCED (log 77). -/
def rateTest (z : Fin 10) (k : Fin 20) (t : Int) (was s : State) : State :=
  if (stageOf z k).isSome ∧ was.ths.zone[z].sens[k].rises s.pm t ∧ !s.ths.zone[z].sens[k].broken then
    rateTripStage z k (thsNote 0x04 z k.val (modZone z (fun y => { y with rateTrips := incMod 16 y.rateTrips 1 }) s))
  else s

/-- A sample of a load switch's sensor is the TEMP of its channel (R307). -/
def switchTemp (z : Fin 10) (k : Fin 20) (t : Int) (s : State) : State :=
  match stageOf z k with
  | some (.switch c) => modLsw c (fun l => { l with temp := t }) s
  | _ => s

/-- One sample of a sensor: the rate test, the trip of its stage and every threshold of its zone are made on it; the
trip is recorded even where the device enters LATCHED (R311, R318). Marks: DEDUCED (log 77). -/
def sensorSample (z : Fin 10) (k : Fin 20) (t : Int) (s : State) : State :=
  let s1 := switchTemp z k t (takeReading z k t s)
  let s2 := rateTest z k t s s1
  shutDown z (zoneSample z (stageAt z k (reading s2 z k t) s2))

/-- THS takes a sample of this sensor. -/
def thsTakes (s : State) (z : Fin 10) (k : Fin 20) : Bool := thsRuns s && decide (k.val < sensorCount z)

/-- WARN: a sample that takes its zone to its WARN threshold or below it (R313). -/
def execWarn (z : Fin 10) (k : Fin 20) (t : Int) (s : State) : Result :=
  if thsTakes s z k then .next (sensorSample z k t s) else .next s

/-- THROTTLE: a sample that changes a reduction (R315). -/
def execThrottle (z : Fin 10) (k : Fin 20) (t : Int) (s : State) : Result :=
  if thsTakes s z k then .next (sensorSample z k t s) else .next s

/-- SENSOR_BROKEN: its self-check has failed twice in a row (R314). -/
def execSensorBroken (z : Fin 10) (k : Fin 20) (s : State) : Result :=
  if thsTakes s z k then
    let s1 := breakSensor z k s
    .next (shutDown z (zoneSample z (stageAt z k (standsFor s1 z k.val) s1)))
  else .next s

/-- STAGE_HOT: a sample of a channel's stage sensor at T_TRIP (R220, R310). -/
def execStageHot (c : Fin 96) (t : Int) (s : State) : Result :=
  let x := stageSensor c
  if thsTakes s x.1 x.2 then .next (sensorSample x.1 x.2 t s) else .next s

/-- STAGE_HOT_RELEASE: one at or below T_TRIP − 20 K (R220). -/
def execStageHotRelease (c : Fin 96) (t : Int) (s : State) : Result :=
  let x := stageSensor c
  if thsTakes s x.1 x.2 then .next (sensorSample x.1 x.2 t s) else .next s

/-- LSW_OVERTEMP: a sample of a load switch's sensor at T_TRIP. In OFF it is that channel's own, for a key-off hold
(R298, R305, R310). Marks: DEDUCED (log 77). -/
def execLswOvertemp (c : Fin 16) (t : Int) (s : State) : Result :=
  if thsTakes s 8 (lswSensor c) then .next (sensorSample 8 (lswSensor c) t s)
  else if s.sys.dev = .off then .next (lswTemp c t s)
  else .next s

/-- THERM_LATCH_RELEASE: one at or below T_TRIP − 20 K (R298). -/
def execThermLatchRelease (c : Fin 16) (t : Int) (s : State) : Result :=
  if thsTakes s 8 (lswSensor c) then .next (sensorSample 8 (lswSensor c) t s)
  else if s.sys.dev = .off then .next (lswTemp c t s)
  else .next s

/-- RATE_TRIP: a sample more than 10 K above that of 1 ms before (R312). -/
def execRateTrip (z : Fin 10) (k : Fin 20) (t : Int) (s : State) : Result :=
  if thsTakes s z k then .next (sensorSample z k t s) else .next s

/-! ### The latched shutdown (R318) -/

/-- SHUTDOWN: a sample at its die's SHUTDOWN threshold, the second in a row (R318). Marks: DEDUCED (log 77). -/
def execShutdown (z : Fin 10) (k : Fin 20) (t : Int) (s : State) : Result :=
  if thsTakes s z k then .next (sensorSample z k t s) else .next s

/-- The first START after a latched shutdown reports it (R323). Marks: DEDUCED (log 77). -/
def reportLatch (s : State) : State :=
  match s.pd0.latch with
  | some l =>
    if l.reported then s
    else notice .ths 0x05 l.zone (leBytes 4 l.sensor) (s.onPd0 fun d => { d with latch := some { l with reported := true } })
  | none => s

end Sys2Proof.Machine
end

