-- ==== Sys2Proof/Machine/Startup.lean ====
section
/-! DEFINITION. Supply, key, power domains and START (R24, R30, R437 to R442, R452 to R455, R463 to R468). ROM applies
the world map of R400 before any open code runs; until PD8 is on the core runs from BKO (R444). -/

namespace Sys2Proof.Machine

/-! ### Domains (R437 to R439) -/

/-- The domains R438 has on; PD7 stands as R440 has it. Marks: DEDUCED (log 72). -/
def requiredDomains (s : State) : Nat :=
  match s.sys.dev with
  | .off => 1
  | .start => s.pwr.domains.toNat
  | .quarantine => 0xD07
  | .latched => if s.pwr.vkey then 0xD27 else 1
  | _ => 0xF7F ||| (s.pwr.domains.toNat &&& 0x80)

/-- What a domain's reset takes with it. Marks: DEDUCED (log 72). -/
def resetDomain (d : Nat) (s : State) : State :=
  match d with
  | 1 => { s with sec := { image := s.sec.image, deviceId := s.sec.deviceId, revoked := s.sec.revoked } }
  | 2 => { s with impl := { restored := s.nor.impl, shadow := s.nor.impl } }
  | 3 => { s with ce := {} }
  | 4 => { s with fe := {}, pos := {} }
  | 5 => { s with map := {} }
  | 6 => s.onGnss fun g => { g with bias := false }
  | 7 => s.onGnss fun g => { g with verify := none, dwell := none }
  | 8 => { s with time := {}, gnss := {}, running := false }
  | 9 => { s with pwu := {}, pif := {} }
  | 10 => { s with host := {}, can := {} }
  | 11 => { s with vdr := { lat := s.nor.lat }, lsw := lswUnpowered id s, ths := {} }
  | _ => s

/-- The other side of the crossing that a domain's reset flushes: PD2, for PD2 itself PD10 (R451). Marks: DESIGN
CHOICE (log 16). -/
def flushedWith (d : Nat) : Nat := d ||| (if d = 2 then 10 else 2) <<< 8

/-- POWER_DOMAIN_SWITCH: a switch that the state calls for is complete; a domain switched off is reset, its crossings
flushed (R439, R451). Marks: DEDUCED (log 72). -/
def execPowerDomainSwitch (d : Fin 12) (on : Bool) (s : State) : Result :=
  if bitN (requiredDomains s) d.val = on ∧ s.pwr.domains.getLsbD d.val ≠ on then
    let s1 := s.onPwr fun p => { p with domains := p.domains ^^^ BitVec.ofNat 12 (2 ^ d.val) }
    .next (if on then s1 else resetDomain d.val (flushCrossing (flushedWith d.val) s1))
  else .next s

/-! ### Key and wake (R24, R30, R452) -/

/-- VKEY_HIGH: VKEY accepted high. -/
def execVkeyHigh (s : State) : Result :=
  let s1 := s.onPwr fun p => { p with vkey := true, vkeyLowAt := none }
  match s.sys.dev with
  | .off => .next (if s.pwr.vbatOk then startFromOff 0x03 1 s1 else s1)
  | .latched => .next (if s.pwr.domains = 1 then startState .latched 0x03 1 s1 else s1)
  | _ => .next s1

/-- VKEY_LOW: VKEY accepted low; an activation in preparation is cancelled, the open log block sealed (R181, R421). The
transition to STANDBY falls on the next frame edge. -/
def execVkeyLow (s : State) : Result :=
  if s.pwr.vkey then
    let s1 := s.onPwr fun p => { p with vkey := false, vkeyLowAt := some s.pm }
    let s2 := cancelActivation s1
    .next (if s2.restarting .enclave ∨ s.sys.dev = .off then s2 else sealBlock s2)
  else .next s

/-- The transition VKEY low drives at a frame edge: it precedes the commands that wait (R29, R377). -/
def vkeyAtEdge (e : Tick) (s : State) : State :=
  if s.pwr.vkeyLowAt.isSome ∧ (s.sys.dev = .armed ∨ s.sys.dev = .manual) then enterStandby 0x03 e (cancelEdges s) else s

def keyOffDelay (s : State) : Tick := msTicks (s.act.fld .sys 0 16)

/-- KEY_OFF_DELAY_EXPIRY: OFF begins at a frame edge once the delay has passed (R21). Marks: DEDUCED (log 2). -/
def execKeyOffDelayExpiry (s : State) : Result :=
  match s.pwr.vkeyLowAt with
  | some t =>
    if (s.sys.dev = .standby ∨ s.sys.dev = .quarantine ∨ s.sys.dev = .safe) ∧ t + keyOffDelay s ≤ s.pm ∧ s.pm % 40000 = 0 then
      .next (enterOff s)
    else .next s
  | none => .next s

/-- WAKE_ALARM: it starts the device from OFF; while the device is not OFF it is discarded (R379). -/
def execWakeAlarm (s : State) : Result :=
  match s.pd0.wakeAlarm with
  | some t =>
    if t ≤ s.pd0.now then
      let s1 := s.onPd0 fun d => { d with wakeAlarm := none }
      .next (if s.sys.dev = .off ∧ s.pwr.vbatOk then startFromOff 0x05 2 s1 else s1)
    else .next s
  | none => .next s

/-- VBAT_START_BAND: VBAT has been at or above 8.0 V for VKEY_FILTER. -/
def execVbatStartBand (s : State) : Result :=
  if s.sys.dev = .off then
    let s1 := (lswReverseEnds s).onPwr fun p => { p with vbatOk := true, reverseBatt := false }
    .next (if s.pwr.vkey then startFromOff 0x03 1 s1 else s1)
  else .next s

/-! ### Supply (R463 to R468) -/

/-- BROWN_OUT: VBAT below 5.5 V for 500 µs. -/
def execBrownOut (s : State) : Result :=
  if s.sys.dev = .off then .next (s.onPwr fun p => { p with vbatOk := false })
  else .next (enterOffBrown (s.onPwr fun p => { p with vbatOk := false }))

/-- LOW_SUPPLY: VBAT below 8.0 V for 100 µs. In OFF the supply has left its start band (R24, R463). -/
def execLowSupply (s : State) : Result :=
  if s.sys.dev = .off then .next (s.onPwr fun p => { p with vbatOk := false })
  else if s.pwr.lowSupply then .next s
  else .next (logFault 0x24 .pwr 3 reactReport 0 0 (s.onPwr fun p => { p with lowSupply := true }))

/-- LOW_SUPPLY_EXIT: VBAT at or above 8.0 V for 10 ms. -/
def execLowSupplyExit (s : State) : Result :=
  if s.pwr.lowSupply then .next (endFault 0x24 3 (s.onPwr fun p => { p with lowSupply := false })) else .next s

/-- LOSS_OF_GROUND: every output off within its 100 µs, in OFF the switches of key-off holds (R216, R247, R306, R465). -/
def execLossOfGround (s : State) : Result :=
  if s.sys.dev = .off then .next (lswGroundLossOff s)
  else if s.pwr.groundLost then .next (s.onPwr fun p => { p with groundBack := none })
  else
    let s1 := s.onPwr fun p => { p with groundLost := true, groundBack := none }
    .next (logFault 0x24 .pwr 0 reactReport 0 0 (lswGroundLoss (gatesOff (valvesCut s.pm s1))))

/-- GROUND_RESTORED: ground has been present for 10 ms; outputs act again from the next frame edge. -/
def execGroundRestored (s : State) : Result :=
  if s.pwr.groundLost then .next (s.onPwr fun p => { p with groundBack := some s.pm }) else .next s

/-- Ground counts again at a frame edge. -/
def groundAtEdge (e : Tick) (s : State) : State :=
  match s.pwr.groundBack with
  | some t =>
    if t < e then endFault 0x24 0 (lswGroundBack (feedsUp e (s.onPwr fun p => { p with groundLost := false, groundBack := none }))) else s
  | none => s

/-- REVERSE_BATTERY: the feeds block, RES and LAMP switches are driven on; the logic has lost its supply (R306, R466).
Marks: DESIGN CHOICE (log 18), DEDUCED (log 71). -/
def execReverseBattery (s : State) : Result :=
  let s1 := logFault 0x24 .pwr 1 reactReport 0 0 s
  let s2 := (if s.sys.dev = .off then s1 else enterOffBrown s1).onPwr fun p => { p with reverseBatt := true, vbatOk := false }
  .next (lswReverse s2)

/-- LOAD_DUMP: VBAT above 36 V (R203, R467). -/
def execLoadDump (s : State) : Result :=
  if s.sys.dev = .off ∨ s.pwr.loadDump then .next s
  else .next (logFault 0x24 .pwr 2 reactReport 0 0 (s.onPwr fun p => { p with loadDump := true, over36 := true }))

/-- POWER_CYCLE: VBAT and VRTC below 3 V for 100 ms; PD0 is lost, what the NOR holds of it is restored, the thermal
latch clears and every retry count is loaded (R30, R223, R299, R441, R442). Marks: DEDUCED (log 76). -/
def execPowerCycle (s : State) : Result :=
  let d : Pd0St :=
    { bootCount := s.nor.bootCount, tcxo := s.nor.tcxo, odoScale := s.nor.odoScale, odoCal := s.nor.odoCal
      trialRun := s.nor.trialRun, faultLog := s.nor.faultLog, fresh := true
      chRetries := Vector.replicate 96 (s.nor.params.fld .vdr 6536 4)
      bankRetries := Vector.replicate 12 (s.nor.params.fld .vdr 6536 4)
      lswRetries := Vector.ofFn fun c => (profileOf { s with act := s.nor.params } (lswType { s with act := s.nor.params } c)).retry }
  let s1 := offState (changeState .off 0x02 s.pm { s with pd0 := d, lsw := {} })
  .next (s1.onPwr fun p => { p with vbatOk := false, reverseBatt := false })

/-! ### START (R417, R452, R453) -/

/-- BOOT_PROGRESS, exempt from the rate limit (R380). Marks: DEDUCED (log 70). -/
def bootNote (stage : Nat) (t : Tick) (s : State) : State := noticeNow .sys 0x02 0xFFFF t (leBytes 4 stage) s

/-- ROM starts the verified SECURE bank with the higher version; after a retry, the other one (R417). -/
def romSelect (s : State) : State :=
  let m := s.sec.image[(0 : Fin 5)]
  if s.pwr.secureTried then s
  else modImage 0 (fun m0 => { m0 with running := if m.bank0.verified && m.bank1.verified then decide (m.bank0.version < m.bank1.version)
    else m.bank1.verified }) s

/-- TIME_RESET_RELEASE: ROM has measured SECURE; PD8 is on, frame 0 begins, the world map is applied and measured. -/
def execTimeResetRelease (s : State) : Result :=
  if s.sys.dev = .start ∧ !s.running ∧ s.sys.bootStage = 1 then
    let s1 := romSelect s
    let s2 := extend 0 0x01 s1.sec.image[(0 : Fin 5)].run.digest s1
    let s3 := { lswTimeBegins s2 with pm := 0, running := true }
    .next (extendOpen 1 0x02 ((s3.onPwr fun p => { p with domains := p.domains ||| 0x102 }).onSys fun y => { y with bootStage := 2 }))
  else .next s

/-- A bank's verdict at START (R415): its bytes are checked where the model holds them, those of a bank written before
power-on are the operand's to judge; an empty or rejected bank is never verified. Marks: DESIGN CHOICE (log 69). -/
def verdict (s : State) (i : Fin 5) (m : Image) (b : ImgBank) (v : BankVerdict) : ImgBank :=
  let sound := if b.bytes = [] then v.sigOk && v.imageOk && b.ran else imageAuthentic s i b
  { b with verified := sound && !b.rejected && decide (m.floor ≤ b.svn) }

/-- The choices of banks for images 1 to 4, as (APP, GNSS, FIELD, CTRL). -/
def combos : List (List Bool) :=
  (List.range 16).map fun k => [bitN k 0, bitN k 1, bitN k 2, bitN k 3]

def bankOfImage (m : Image) (b : Bool) : ImgBank := if b then m.bank1 else m.bank0

/-- The banks of a choice, SECURE first. -/
def setOf (s : State) (c : List Bool) : List ImgBank :=
  s.sec.image[(0 : Fin 5)].run :: (List.zip ((vlist s.sec.image).drop 1) c).map fun p => bankOfImage p.1 p.2

/-- The order of R417: APP, FIELD, CTRL, GNSS. -/
def setKey (s : State) (c : List Bool) : Nat :=
  match (setOf s c).map (·.version) with
  | [_, app, gnss, field, ctrl] => ((app * 2 ^ 32 + field) * 2 ^ 32 + ctrl) * 2 ^ 32 + gnss
  | _ => 0

/-- The highest consistent set of verified banks. -/
def selectSet (s : State) : Option (List Bool) :=
  (combos.filter fun c => (setOf s c).all (·.verified) && consistent (setOf s c)).foldl (fun best c => match best with
    | none => some c
    | some b => if setKey s b < setKey s c then some c else some b) none

/-- The selected set runs: register extensions, trials, SET_CHANGED (R407, R417, R418). -/
def runSet (c : List Bool) (s : State) : State :=
  let same := (vlist s.sec.image).map (·.lastRun) == s.sec.image[(0 : Fin 5)].running :: c
  let s1 := s.onSec fun v => { v with image := vmapIdx v.image fun i m =>
    if i.val = 0 then { m with lastRun := m.running } else { m with running := c.getD (i.val - 1) false, lastRun := c.getD (i.val - 1) false } }
  let s2 := (List.finRange 5).foldl (fun t i =>
    let b := t.sec.image[i].run
    let t1 := modImage i (fun m => (if b.ran then m else { m with trialRestarts := 0 }).modRun fun b => { b with ran := true }) t
    let t2 := if b.ran then t1 else t1.onPd0 fun d => { d with trialRun := d.trialRun.set i 0 }
    if i.val = 0 then t2 else extend ⟨(i.val + 1) % 8, Nat.mod_lt _ (by decide)⟩ 0x01 b.digest t2) s1
  let s3 := s2.onGnss fun g => { g with weekRef := s2.sec.image[(2 : Fin 5)].run.weekRef }
  if same then s3 else notice .sec 0x05 0xFFFF [] s3

/-- IMAGE_SET_SELECT: with no consistent set, START runs once more on the other SECURE bank, or leads to QUARANTINE at the
next frame edge (R417). -/
def execImageSetSelect (v0 v1 : Vector BankVerdict 5) (s : State) : Result :=
  if s.sys.dev = .start ∧ s.running ∧ s.sys.bootStage = 2 ∧ !s.sys.imagesOk ∧ s.sys.quarCause = 0 then
    let s1 := s.onSec fun c => { c with image := vmapIdx c.image fun i m =>
      { m with bank0 := verdict s i m m.bank0 v0[i], bank1 := verdict s i m m.bank1 v1[i] } }
    match selectSet s1 with
    | some c => .next (extendOpen 6 0x03 (runSet c (s1.onSys fun y => { y with imagesOk := true })))
    | none =>
      if s1.sec.image[(0 : Fin 5)].other.verified ∧ !s.pwr.secureTried then
        let s2 := modImage 0 (fun m => { m with running := !m.running }) s1
        let s3 := startState s.sys.prev s.sys.cause 4 s2
        .next (s3.onPwr fun p => { p with secureTried := true, wakeAt := s.pwr.wakeAt })
      else .next (extendOpen 6 0x03 (s1.onSys fun y => { y with quarCause := 2 }))
  else .next s

/-- DOMAIN_POWER_UP: the remaining domains are on and self-test begins; a set thermal latch leads to LATCHED instead, with
the domains of that state (R452). -/
def execDomainPowerUp (s : State) : Result :=
  if s.sys.dev = .start ∧ s.sys.bootStage = 2 ∧ (s.sys.imagesOk ∨ s.sys.quarCause = 2) ∧ !s.sys.powered then
    let s1 := s.onSys fun y => { y with powered := true, bootStage := 3, stageAt := s.pm }
    match s.pd0.latch with
    | some _ => .next (enterLatched (s1.onPwr fun p => { p with domains := if p.vkey then 0xD27 else 1 }))
    | none => .next (s1.onPwr fun p => { p with domains := if s.sys.imagesOk then 0xFFF else 0xD07 })
  else .next s

/-- The STATE notice of the change to START, queued once a port can take it (R31, R474). Marks: DEDUCED (log 70). -/
def startNote (s : State) : State :=
  noticeAt .sys 0x01 0xFFFF 0
    (leBytes 1 (devCode s.sys.startPrev ||| devCode .start <<< 4) ++ leBytes 1 s.sys.startCause ++ leBytes 2 0) s

/-- HOST_PORT_ALIVE: the ports answer; the change to START and the boot stages reached so far are reported (R31, R372,
R452). Marks: DEDUCED (log 70). -/
def execHostPortAlive (s : State) : Result :=
  if s.sys.powered ∧ !s.sys.hostAlive then
    .next (bootNote 3 s.sys.stageAt (bootNote 2 0 (bootNote 1 0 (reportLatch (startNote (s.onSys fun y => { y with hostAlive := true }))))))
  else .next s

/-- Codes of the self-tests that lead to QUARANTINE. -/
def quarantineTest (c : Nat) : Bool := decide (1 ≤ c ∧ c ≤ 0x0A)

/-- The element a self-test belongs to. -/
def testedElement (c : Nat) : Option Element :=
  if c = 1 then some .pair else if c = 2 then some .field else if c = 3 then some .control else if c = 4 then some .enclave else none

/-- A bank on trial whose element fails self-test is rejected (R419). -/
def selftestRejects (codes : List Nat) (s : State) : State :=
  codes.foldl (fun t c => match testedElement c with
    | some el => failSelftest el t
    | none => t) s

/-- The device is in STANDBY for the first time in this START (R452, R153, R225). -/
def startComplete (s : State) : State :=
  let s1 := s.onSys fun y => { y with bootStage := 4, standbyAt := s.pm, selftested := true }
  let s2 := s1.onPwr fun p => { p with
    bootUs := (s.pd0.now - p.wakeAt) / 80 % 2 ^ 32, tbStart := s.ths.zone[(9 : Fin 10)].temp, acqIdleSince := none }
  bootNote 4 s.pm (enterStandby 0x06 s.pm (feedsUp s.pm s2))

/-- SELFTEST_COMPLETE, on a frame edge: STANDBY, or QUARANTINE with the first failed test (R453). -/
def execSelftestComplete (failed : List Nat) (s : State) : Result :=
  if s.sys.dev = .start ∧ s.sys.powered ∧ s.sys.imagesOk ∧ s.pm % 40000 = 0 then
    let codes := (if s.sys.selftestFail = 0 then [] else [s.sys.selftestFail]) ++ failed.filter quarantineTest
    match codes with
    | [] => .next (startComplete (s.onPos fun p => { p with selfFail := p.selfFail || failed.contains 0x0C }))
    | c :: _ => .next (enterQuarantine 1 s.pm (selftestRejects codes (s.onSys fun y => { y with selftestFail := c, selftested := true })))
  else .next s

/-- QUARANTINE for want of a consistent set begins at a frame edge, once the domains are on. Marks: DEDUCED (log 70).
-/
def quarantineAtEdge (e : Tick) (s : State) : State :=
  if s.sys.dev = .start ∧ s.sys.quarCause = 2 ∧ s.sys.powered then enterQuarantine 2 e s else s

/-! ### The background DRAM test (R153, R178, R455) -/

/-- Pages the test retires in a pool. Marks: DESIGN CHOICE (log 51). -/
def retirePages (n : Nat) (p : Pool) : Pool := { p with retired := List.range n }

/-- DRAM_TEST_DONE: failing pages are retired, then the map is ready. -/
def execDramTestDone (retired : Vector Nat 3) (s : State) : Result :=
  if s.sys.bootStage = 4 ∧ !s.sys.mapReady ∧ s.sys.dev ≠ .latched then
    let n := retired[0] + retired[1] + retired[2]
    let s1 := s.onMap fun m => { m with
      cov := retirePages retired[0] m.cov, tint := retirePages retired[1] m.tint, maskPool := retirePages retired[2] m.maskPool }
    let s2 := if n = 0 then s1 else notice .map 0x07 0xFFFF [] s1
    let s3 := if retired[0] > 61 then notice .map 0x0D 0xFFFF [] s2 else s2
    .next (notice .pwr 0x04 0xFFFF (leBytes 4 (satU 16 n)) (mapBecomesReady (poolLow s3)))
  else .next s

end Sys2Proof.Machine
end

