-- ==== Sys2Proof/Machine/ParamBlocks.lean ====
section
/-! DEFINITION. Parameter blocks: reading, writing, committing and reverting them, and what a commit sets in motion at its
frame edge (R7 to R9, R12, R186, R381 to R383, R405, R406, R412). -/

namespace Sys2Proof.Machine

/-! ### Reading (R7, R381, R382, R456) -/

/-- Status a read of a block overlays on its image: read-only fields report the device. -/
def statusOverlay (s : State) (b : Block) (n : Nat) : Nat :=
  match b with
  | .pwr =>
    let n1 := setBits (setBits n 16 12 s.pwr.domains.toNat) 32 4 s.pwr.startCause
    let n2 := setBits (setBits n1 40 8 s.sys.selftestFail) 64 32 s.pwr.flushed.toNat
    let n3 := setBits (setBits n2 96 32 s.pwr.stallErr.toNat) 128 16 s.pwr.clkFails.toNat
    setBits (setBits n3 144 16 s.pd0.tamper.toNat) 160 32 s.pwr.bootUs
  | .sec => setBits n 257 1 (b2n (ownerClaimed s))
  | .pos => setBits n 160 1 (b2n (s.act.flag .pos 160))
  | _ => n

/-- An image as it reads: a write-only field reads 0 (R7). Marks: DEDUCED (log 28). -/
def asRead (b : Block) (n : Nat) : Nat := ((fieldsOf b).filter fun f => f.acc == .wo).foldl (fun n f => setBits n f.lo f.w 0) n

/-- The block an ID names, where it has a parameter block (R12, R381). -/
def paramBlock (id : Nat) : Option Block :=
  match blockOfId id with
  | some .impl => none
  | b => b

/-- PB_READ. The world map lets the open world read every field of a parameter block (R22, R400). Marks: DEDUCED (log
24), DEDUCED (log 28). -/
def opPbRead (e : Env) (s : State) : State × Answer :=
  let off := arg e 16 16
  let len := arg e 32 16
  match paramBlock (arg e 0 8) with
  | none => deny .badParam s
  | some b =>
    match firstBad [(arg e 9 7 ≠ 0, .badParam), (len = 0 || len > 4084 || off + len > pbBytes b, .range)] with
    | some st => deny st s
    | none =>
      let n := statusOverlay s b (asRead b ((if argB e 8 then s.shd else s.act).image b))
      doneWith (leBytes len (n >>> (8 * off))) s

/-! ### Writing the shadow copy (R8, R9, R382) -/

/-- The bits of an image that some field of a list covers. -/
def fieldMask (fs : List Field) : Nat := fs.foldl (fun m f => m ||| (2 ^ f.w - 1) <<< f.lo) 0

/-- Reserved bits inside a wider field: bits 0 and 19 to 31 of each NOTICE_MASK (R8). -/
def innerReserved : Block → Nat
  | .host => (0xFFF80001 <<< 224) ||| (0xFFF80001 <<< 256) ||| (0xFFF80001 <<< 288)
  | _ => 0

/-- A field meets the bit range `[lo, hi)`, and lies wholly within it. Marks: DESIGN CHOICE (log 25). -/
def Field.meets (f : Field) (lo hi : Nat) : Bool := decide (f.lo < hi) && decide (lo < f.lo + f.w)
/-- Marks: DESIGN CHOICE (log 25). -/
def Field.within (f : Field) (lo hi : Nat) : Bool := decide (lo ≤ f.lo) && decide (f.lo + f.w ≤ hi)

/-- A value is none of a field's encodings. -/
def Field.undefinedIn (f : Field) (n : Nat) : Bool :=
  match f.chk with
  | .enc l => !l.contains (bits n f.lo f.w)
  | _ => false

/-- A value is outside a field's range. -/
def Field.outside (f : Field) (n : Nat) : Bool :=
  match f.chk with
  | .nat lo hi => decide (bits n f.lo f.w < lo) || decide (hi < bits n f.lo f.w)
  | .sgn lo hi => decide (sint f.w (bits n f.lo f.w) < lo) || decide (hi < sint f.w (bits n f.lo f.w))
  | _ => false

/-- Do two images differ in a field? -/
def Field.differs (f : Field) (m n : Nat) : Bool := bits m f.lo f.w != bits n f.lo f.w

/-- An image with the fields of `fs` taken from another. -/
def copyFields (fs : List Field) (src dst : Nat) : Nat := fs.foldl (fun n f => setBits n f.lo f.w (bits src f.lo f.w)) dst

def fieldsWith (a : Access) (b : Block) : List Field := (fieldsOf b).filter fun f => f.acc == a

/-- PB_WRITE: a write that an open-world request may not make counts as a world violation (R9, R401); one of the
origin counts at its commit even where it changes nothing (R81). Marks: DEDUCED (log 24), DESIGN CHOICE (log 25). -/
def opPbWrite (e : Env) (s : State) : State × Answer :=
  let off := arg e 16 16
  let d := e.payload.drop 4
  match paramBlock (arg e 0 8) with
  | none => deny .badParam s
  | some b =>
    let lo := 8 * off
    let hi := 8 * (off + d.length)
    let fs := (fieldsOf b).filter fun f => f.meets lo hi
    let old := s.shd.image b
    let raw := setBits old lo (8 * d.length) (leNat d)
    let new := copyFields (fs.filter fun f => f.acc == .ro) old raw
    let w := min (8 * d.length) (8 * pbBytes b - lo)
    let spare := bits raw lo w &&& (innerReserved b >>> lo ||| ((fieldMask fs >>> lo) ^^^ (2 ^ w - 1)))
    match firstBad [
        (arg e 8 8 ≠ 0 || fs.any (fun f => !f.within lo hi) || spare ≠ 0 || fs.any (fun f => f.acc != .ro && f.undefinedIn new),
          .badParam),
        (off + d.length > pbBytes b || fs.any fun f => f.acc != .ro && f.outside new, .range)] with
    | some st => deny st s
    | none =>
      if !sealedWorldReq e s && fs.any (fun f => f.acc == .rws && f.differs old new) then deny .sealedWorld (worldViolation s)
      else
        done (s.onShd fun p => p.setImage b (if b = .pos ∧ lo < 160 ∧ 64 < hi then setBits new 160 1 1 else new))

/-! ### Conditions between fields, checked at PB_COMMIT (R382, R383) -/

/-- Signed and unsigned fields of an image. -/
def imgN (n lo w : Nat) : Nat := bits n lo w
def imgS (n lo w : Nat) : Int := sint w (bits n lo w)

/-- The largest index of a loop's source or destination; none where the index is ignored (R254 to R256, R263). -/
def fbLimit : Nat → Option Nat
  | 0 => some 31 | 1 => some 15 | 5 => some 15 | _ => some 3
def spLimit : Nat → Option Nat
  | 2 => some 3 | 3 => some 15 | 4 => some 31 | _ => none
def ffLimit : Nat → Option Nat
  | 1 => some 3 | 2 => some 31 | 3 => some 15 | _ => none
def destLimit : Nat → Option Nat
  | 1 => some 7 | 2 => some 7 | 3 => some 15 | _ => none

def beyond (limit : Option Nat) (ix : Nat) : Bool :=
  match limit with
  | some m => decide (m < ix)
  | none => false

/-- The range conditions of one loop (R251, R253). Marks: DEDUCED (log 26). -/
def loopRangeBad (n k : Nat) : Bool :=
  let f (lo w : Nat) : Nat := imgN n (1024 * k + lo) w
  let g (lo : Nat) : Int := imgS n (1024 * k + lo) 32
  beyond (fbLimit (f 8 3)) (f 11 5) || beyond (spLimit (f 16 3)) (f 19 5) || beyond (ffLimit (f 146 2)) (f 148 5)
    || beyond (destLimit (f 24 3)) (f 27 5) || (f 24 3 == 2 && f 27 5 % 2 == 1)
    || (decide (f 2 2 ≤ 1) && f 6 2 != 0) || (f 2 2 == 2 && decide (1 < f 6 2))
    || decide (g 224 ≤ g 192) || decide (g 288 < g 256) || decide (g 416 ≤ g 384) || decide (g 448 ≤ g 416)
    || (f 154 1 == 1 && f 176 16 == 0)

/-- The loops of an image that a sub-slot evaluates, in order (R251, R252). -/
def slotLoops (n frame q : Nat) : List Nat :=
  (List.range 16).filter fun k =>
    imgN n (1024 * k) 2 != 0 && slotDue (imgN n (1024 * k + 2) 2) (imgN n (1024 * k + 4) 2) (imgN n (1024 * k + 6) 2) frame q

/-- Some loop of some sub-slot cannot complete by its deadline (R252). -/
def deadlineBad (n : Nat) : Bool :=
  (List.range 4).any fun fr => (List.range 4).any fun q =>
    let ks := slotLoops n fr q
    (List.zip (List.range ks.length) ks).any fun x => decide (imgN n (1024 * x.2 + 128) 16 < 160 + 320 * (x.1 + 1) + 1)

/-- The fine generators and pulse generators a loop writes to (R263), the latter from 64 on. Marks: DEDUCED (log 26).
-/
def loopDests (n k : Nat) : List Nat :=
  let ix := imgN n (1024 * k + 27) 5
  match imgN n (1024 * k + 24) 3 with
  | 1 => [ix]
  | 2 => [ix, ix + 1]
  | 3 => [64 + ix]
  | _ => []

/-- Speeds of a friction table rise (R259). -/
def rising : List Int → Bool
  | a :: _ :: c :: l => decide (a < c) && rising (c :: l)
  | _ => true

/-- Marks: DEDUCED (log 26), DEDUCED (log 74). -/
def ceCheck (n : Nat) (t : Tables) : Option Status :=
  firstBad [
    (!noDup ((List.range 16).flatMap (loopDests n))
      || (List.finRange 16).any (fun k => imgN n (1024 * k.val + 153) 1 == 1 && !rising t.friction[k]), .badParam),
    ((List.range 16).any (loopRangeBad n) || deadlineBad n
      || (List.range 4).any (fun j => imgN n (64 * j + 16388) 1 == 1 && imgN n (64 * j + 16416) 32 == 0), .range)]

/-- INDEX of a trigger output against its KIND (R246). -/
def trigLimit : Nat → Option Nat
  | 1 => some 7 | 2 => some 7 | 3 => some 7 | 4 => some 95 | 5 => some 95 | 6 => some 11 | _ => none

def pwuCheck (n : Nat) : Option Status :=
  if (List.range 8).any (fun g => decide (imgN n (128 * g + 432) 16 < imgN n (128 * g + 416) 16))
      || (List.range 4).any (fun j => beyond (trigLimit (imgN n (32 * j + 1408) 3)) (imgN n (32 * j + 1412) 7)) then some .range
  else none

def pifCheck (n : Nat) : Option Status :=
  if (List.range 2).any (fun x => imgN n (128 * x + 1408) 2 == 2 && imgN n (128 * x + 1456) 16 == 0)
      || (List.range 32).any (fun k => decide (imgN n (64 * k + 1696) 16 < imgN n (64 * k + 1680) 16)) then some .range
  else none

/-- Ranges of PB.THS that name another field (R321). -/
def thsCheck (n : Nat) : Option Status :=
  let f (lo : Nat) : Nat := imgN n lo 8
  if f 8 < f 0 + 1 ∨ f 16 < f 8 + 5 ∨ f 32 < f 24 + 1 ∨ f 40 < f 32 + 5 ∨ f 56 < f 48 + 5 then some .range else none

/-- The tunnel (R351): CAN1 alone carries FD frames, and no object that ISO or row functions reserve. -/
def hostCheck (s : State) (n : Nat) : Option Status :=
  let free := { s with act := s.act.put .host 2 2 0 }
  match idx? 3 (imgN n 2 2 - 1) with
  | some x =>
    if imgN n 2 2 ≠ 0 ∧ ((x = 0 ∧ imgN n 46 1 = 1) ∨ phReserved free x (imgN n 32 8) ∨ slotReserved free x (imgN n 40 5)) then
      some .badParam
    else none
  | none => none

/-- MAP: cells and depths only of an empty layer, tint cells only without tints (R157). -/
def mapCheck (s : State) (n : Nat) : Option Status :=
  let bad := (List.range 4).any fun j =>
    ((imgN n (8 * j) 3 != s.act.fld .map (8 * j) 3) && s.map.swatches.any fun w => w.layer == j)
      || ((imgN n (4 * j + 32) 4 != s.act.fld .map (4 * j + 32) 4) && s.map.tints.any fun w => w.layer == j)
  if bad then some .state else none

/-- The session of a request is a service session. -/
def inService (e : Env) (s : State) : Bool :=
  ((sessionOf e s).bind (·.service)).isSome

/-- A commit of RWS fields must come from the sealed world (R9). Marks: DEDUCED (log 27). -/
def worldCheck (e : Env) (s : State) (b : Block) (n : Nat) : Option Status :=
  if !sealedWorldReq e s && (fieldsWith .rws b).any (fun f => f.differs (s.act.image b) n) then some .sealedWorld else none

/-- The owner key (R406, R411). Marks: DEDUCED (log 27). -/
def ownerCheck (e : Env) (s : State) (n : Nat) : Option Status :=
  if imgN n 0 257 = s.act.fld .sec 0 257 then none
  else firstBad [
    (imgN n 0 256 = 0 && !hasScope e s 1, .badParam),
    (imgN n 0 256 ≠ 0 && !Config.isPointX (BitVec.ofNat 256 (imgN n 0 256)), .badParam),
    (inService e s && !hasScope e s 1, .sealedWorld)]

/-- Does an image raise a limit (R412, R436)? -/
def raises (s : State) (b : Block) (n : Nat) : Bool :=
  let up (lo w : Nat) : Bool := decide (s.act.fld b lo w < imgN n lo w)
  let down (lo w : Nat) : Bool := decide (imgN n lo w < s.act.fld b lo w)
  match b with
  | .ths => up 0 8 || up 8 8 || up 16 8 || up 24 8 || up 32 8 || up 40 8
  | .safe => down 18 1 || up 19 1 || down 19 1 || up 24 8 || up 32 4 || down 40 8
  | _ => false

/-- The image changes the safety limit set. -/
def limitsChange (s : State) (b : Block) (n : Nat) : Bool :=
  (b == .ths || b == .safe) && (fieldsWith .rws b).any fun f => f.differs (s.act.image b) n

/-- The safety limit set: a service session needs scope LIMITS, an owner session may only lower (R411, R412). Marks:
DEDUCED (log 27). -/
def limitCheck (e : Env) (s : State) (b : Block) (n : Nat) : Option Status :=
  if limitsChange s b n && !hasScope e s 2 && (inService e s || raises s b n) then some .sealedWorld else none

/-- The conditions between the fields of one block. -/
def blockCheck (e : Env) (s : State) (b : Block) : Option Status :=
  let n := s.shd.image b
  let own : Option Status := match b with
    | .fe => if imgN n 144 16 ≤ imgN n 128 16 then some .range else none
    | .vdr => if (List.range 96).any fun m => decide (imgN n (64 * m + 384) 16 < imgN n (64 * m + 400) 16) then some .range else none
    | .pwu => pwuCheck n
    | .ce => ceCheck n s.ce.shadow
    | .pif => pifCheck n
    | .ths => thsCheck n
    | .can => canCheck s.shd
    | .host => hostCheck s n
    | .map => mapCheck s n
    | .sec => ownerCheck e s n
    | _ => none
  (own.orElse fun _ => worldCheck e s b n).orElse fun _ => limitCheck e s b n

/-- Blocks a MASK names, in ID order. -/
def maskBlocks (w : Nat) : List Block := allBlocks.filter fun b => b != .impl && bitN w (blockId b)

/-- MASK has a bit of no parameter block. -/
def maskBad (w : Nat) : Bool := w &&& 0xFFF80021 != 0

/-- A commit of the block waits for its commit point. -/
def commitWaits (s : State) (b : Block) : Bool :=
  (b == .host && s.host.applyWait.isSome) || s.sys.edgeQ.any fun i => match i.act with
    | .commit l _ => l.any fun x => x.1 == b
    | _ => false

/-- A field committed only in STANDBY differs outside STANDBY, or an origin written waits (R81). -/
def standbyBad (s : State) (b : Block) : Bool :=
  s.sys.dev != .standby && ((b == .pos && s.shd.flag .pos 160 && !s.act.flag .pos 160) || (standbyOnly b).any fun f => s.shd.fld b f.1 f.2 != s.act.fld b f.1 f.2)

/-- PB_COMMIT (R383, R373): the shadow images are taken now. An open-world request that would change an RWS field
counts as a world violation (R22, R401). Marks: DEDUCED (log 24). -/
def opPbCommit (e : Env) (s : State) : State × Answer :=
  let w := arg e 0 32
  let bs := maskBlocks w
  match firstBad [(w = 0 || maskBad w, .badParam), (bs.any (commitWaits s), .busy), (bs.any (standbyBad s), .state)] with
  | some st => deny st s
  | none =>
    match bs.findSome? (blockCheck e s) with
    | some st => deny st (if st = .sealedWorld ∧ !sealedWorldReq e s then worldViolation s else s)
    | none =>
      let s1 := if bs.contains .host then s.onHost fun h => { h with applyWait := some (e.port, s.shd.image .host) } else s
      let edge := bs.filter (· != .host)
      if edge = [] then done s1
      else doneEdge s (waitEdge 0x0102 e
        [.commit (edge.map fun b => (b, s.shd.image b)) (if edge.contains .ce then some s.ce.shadow else none)] s1)

/-- PB_REVERT. Marks: DEDUCED (log 26). -/
def opPbRevert (e : Env) (s : State) : State × Answer :=
  let w := arg e 0 32
  if maskBad w then deny .badParam s
  else
    done (s.onShd fun p => (maskBlocks w).foldl (fun q b => q.setImage b (s.act.image b)) p)

/-! ### The commit point -/

/-- An image becomes active: read-only fields stay as the device has them, write-only fields act and read 0 in both
copies (R382, R383). Marks: DEDUCED (log 28). -/
def putActive (b : Block) (n : Nat) (s : State) : State :=
  let old := s.act.image b
  let wo := fieldsWith .wo b
  let n1 := copyFields wo 0 (copyFields (fieldsWith .ro b) old n)
  (s.onAct fun p => p.setImage b n1).onShd fun p => p.setImage b (copyFields wo 0 (p.image b))

/-- PB.POS: origin fields written set the origin (R81). Marks: DEDUCED (log 37). -/
def commitPos (e : Tick) (old : Params) (img : Nat) (s : State) : State :=
  if bitN img 160 && (!old.flag .pos 160 || (standbyOnly .pos).any fun f => old.fld .pos f.1 f.2 != s.act.fld .pos f.1 f.2) then
    setOrigin { lat := s.act.fldS .pos 64 32, lon := s.act.fldS .pos 96 32, h := s.act.fldS .pos 128 32 } false e s
  else s

/-- PB.MAP: a new MASK_CELL starts a rebuild (R157). -/
def commitMap (old : Params) (s : State) : State :=
  if old.fld .map 48 2 ≠ s.act.fld .map 48 2 then startBuild s else s

/-- PB.FE: phases are staggered afresh, and a change of MODE to DIRECTED puts every section off (R135, R145). -/
def commitFe (e : Tick) (old : Params) (s : State) : State :=
  let s1 := if old.fld .fe 0 2 ≠ 1 ∧ s.act.fld .fe 0 2 = 1 then directedOff s else s
  commitPhases e s1

/-- PB.VDR: RELEARN acts, the coil references are stored in the NOR, a coil whose R20 is 0 has no valid temperature,
L_REF is learned and judged afresh where it changes, a bank leaves VBST where its mode says so, and the converter
follows BOOST_EN (R187, R202, R219, R225, R228). Marks: DEDUCED (log 58). -/
def commitVdr (e : Tick) (old : Params) (img : Nat) (s : State) : State :=
  let s1 := s.onNor fun m => { m with params := m.params.put .vdr 6560 6144 (s.act.fld .vdr 6560 6144) }
  let s2 := (allCh.filter fun c => bitN img (64 * c.val + 6592)).foldl (fun t c => relearn c t) s1
  let s3 := leaveVbst (s.onAct fun _ => old) e s2
  let committed (c : Fin 96) (p : Prot) : Prot :=
    let q := { p with tempValid := p.tempValid && r20Of s3 c.val != 0 }
    if old.fld .vdr (64 * c.val + 6576) 16 ≠ lRefOf s3 c.val then { q with lSum := 0, lCount := 0, lowL := 0 } else q
  syncConv (s3.onVdr fun v => { v with prot := vmapIdx v.prot committed })

/-- PB.THS: TCXO_CLEAR acts (R321). -/
def commitThs (img : Nat) (s : State) : State := if bitN img 64 then clearTcxo s else s

/-- A new owner key is measured and every owner session closes (R406); PB.SEC is stored in the sealed NOR. -/
def commitSec (old : Params) (s : State) : State :=
  let s1 := s.onNor fun m => { m with params := m.params.setImage .sec (s.act.image .sec) }
  if old.fld .sec 0 257 = s.act.fld .sec 0 257 then s1
  else allPorts.foldl (fun t p => match (portOf t p).session with
    | some x => if x.service.isNone then closeSession p t else t
    | none => t) (extendOpen 7 0x06 s1)

/-- What a block does at the commit of its image. -/
def commitBlock (e : Tick) (old : Params) (tabs : Option Tables) (b : Block) (img : Nat) (s : State) : State :=
  match b with
  | .gnss => commitGnss s
  | .time => commitTime s
  | .pos => commitPos e old img s
  | .fe => commitFe e old s
  | .map => commitMap old s
  | .vdr => commitVdr e old img s
  | .pwu => commitPwu e old s
  | .ce => commitCe e old tabs s
  | .pif => commitPif e old s
  | .lsw => commitLsw e old s
  | .ths => commitThs img s
  | .can => commitCan old s
  | .sec => commitSec old s
  | .sys | .impl | .host | .safe | .pwr => s

/-- The commit of a set of images at edge `e` (R383); a commit of the limit set is measured (R412). -/
def applyCommit (e : Tick) (images : List (Block × Nat)) (tabs : Option Tables) (s : State) : State :=
  let old := s.act
  let limits := images.any fun x => limitsChange s x.1 x.2
  let s1 := images.foldl (fun t x => putActive x.1 x.2 t) s
  let s2 := images.foldl (fun t x => commitBlock e old tabs x.1 x.2 t) s1
  if limits then extendOpen 7 0x07 s2 else s2

/-- TCXO_CLEAR as a command of its own: it acts in STANDBY alone (R321). -/
def execTcxoClear (s : State) : Result := if s.sys.dev = .standby then .next (clearTcxo s) else .next s

end Sys2Proof.Machine
end

