-- ==== Sys2Proof/Machine/Flags.lean ====
section
/-! DEFINITION. Status words and records as telemetry and diagnostics show them (R141, R204, R210, R231, R248, R270, R288,
R307, R318, R322, R365, R399, R434). -/

namespace Sys2Proof.Machine

/-! ### Valve drive (08, 09) -/

/-- The VBST ledger record (R204). -/
def ledgerBytes (s : State) : List Byte :=
  let l := s.vdr.ledger
  let c := s.vdr.conv
  leBytes 8 l.edgePm ++ leBytes 4 (uint 32 l.eConv) ++ leBytes 4 l.eFeed ++ leBytes 4 l.eRecover ++ leBytes 4 (uint 32 l.eCap)
    ++ leBytes 4 (uint 32 l.residual)
    ++ leBytes 2 (satU 8 l.pending ||| b2n c.boostLimit <<< 8 ||| b2n c.sag <<< 9 ||| b2n c.returnSusp <<< 10 ||| b2n l.mismatch <<< 11)
    ++ leBytes 2 l.vbst

/-- The learned-latency record of a context (R210). -/
def latBytes (l : Lat) : List Byte :=
  let four (v : Vector Nat 4) (w : Nat) : Nat := v[0] ||| v[1] <<< w ||| v[2] <<< (2 * w) ||| v[3] <<< (3 * w)
  let drift := four (vmap l.drift b2n) 1
  ((vlist l.val).flatMap fun v => leBytes 4 v)
    ++ leBytes 4 (four l.driftRun 4 ||| l.missRun <<< 16 ||| b2n l.noMotion <<< 19 ||| drift <<< 20)
    ++ leBytes 4 l.openings ++ leBytes 4 l.misses ++ leBytes 4 0

/-- The channel protection word (R231). -/
def protWord (s : State) (c : Fin 96) : Nat :=
  let p := s.vdr.prot[c]
  b2n p.openLoad ||| b2n p.overcurrent <<< 1 ||| b2n p.shortGnd <<< 2 ||| b2n p.overload <<< 3 ||| b2n p.stageHot <<< 4
    ||| b2n p.coilWarm <<< 5 ||| b2n p.coilHot <<< 6 ||| b2n p.shortedTurns <<< 7 ||| b2n (latchedOff s c) <<< 8
    ||| b2n (s.vdr.bank[bankOf c].isolated != 0) <<< 9 ||| b2n p.tempValid <<< 10 ||| s.pd0.chRetries[c] <<< 16
    ||| uint 16 (satS 16 (coilEstimate s c s.pm)) <<< 32 ||| p.rMeas <<< 48

/-- An event record (R141). -/
def evBytes (e : Ev) : List Byte :=
  let w := e.ctx ||| b2n (!e.on) <<< 8 ||| b2n e.batPred <<< 9 ||| (e.startPred % 4) <<< 10 ||| (e.cause % 16) <<< 12
  leBytes 8 e.due ++ leBytes 2 w ++ leBytes 2 (uint 16 e.shift) ++ leBytes 4 e.frame

/-- A bank queue: its events in order, unused entries 0 (R399). -/
def queueBytes (k : Bank) : List Byte := (padTo 512 0 (k.queue.flatMap evBytes)).take 512

/-! ### PWM unit (10) -/

/-- Nozzle channel status (R248). -/
def nozWord (s : State) (c : Fin 96) : Nat :=
  let n := s.pwu.noz[c]
  let shadow := match n.writes.getLast? with
    | some w => w.2
    | none => n.duty
  n.scaledDuty ||| shadow <<< 16 ||| n.acc <<< 32 ||| b2n n.running <<< 36 ||| b2n n.merged <<< 37 ||| b2n n.scaled <<< 38

/-- Fine generator status (R248). -/
def fineBytes (f : Fine) : List Byte :=
  leBytes 4 f.cmpActive
    ++ leBytes 4 (f.periodActive ||| b2n (f.pairWait != []) <<< 24 ||| b2n (f.cmpWait != []) <<< 25 ||| b2n f.splitUpdate <<< 26
        ||| b2n f.bootRefresh <<< 27 ||| b2n f.noCross <<< 28)
    ++ leBytes 2 f.dtFall ++ leBytes 2 f.dtRise ++ leBytes 4 f.periods

/-! ### Control engine (11) -/

/-- Loop status (R270). -/
def loopBytes (s : State) (k : Fin 16) : List Byte :=
  let l := s.ce.loop[k]
  let imb := match idx? 4 k.val with
    | some j => s.ce.flow[j].imbalance
    | none => false
  leBytes 4 (uint 32 l.feedback) ++ leBytes 4 (uint 32 l.setpoint) ++ leBytes 4 (uint 32 l.output)
    ++ leBytes 4 (uint 32 (l.integ.tdiv 65536))
    ++ leBytes 4 (l.region ||| b2n l.miss <<< 2 ||| l.missRun <<< 3 ||| b2n l.fault <<< 5 ||| b2n l.satHi <<< 6 ||| b2n l.satLo <<< 7
        ||| b2n l.iClamp <<< 8 ||| b2n l.bumpClamped <<< 9 ||| b2n l.cogSuspended <<< 10 ||| b2n l.heldSrc <<< 11 ||| b2n imb <<< 12)
    ++ leBytes 4 l.misses.toNat

/-! ### Position inputs (12) -/

/-- Encoder and hall status as of the last freeze (R288). Marks: DEDUCED (log 75). -/
def encBytes (x : Enc) : List Byte :=
  let v := x.taken
  leBytes 4 (uint 32 v.count) ++ leBytes 4 (uint 32 x.speed) ++ leBytes 8 v.lastPm ++ leBytes 4 (uint 32 v.indexCount)
    ++ leBytes 8 v.indexPm ++ leBytes 2 v.illegal.toNat
    ++ leBytes 2 (b2n v.uncertain ||| b2n v.indexSeen <<< 1 ||| b2n v.stopped <<< 2 ||| b2n v.hallSkip <<< 3 ||| b2n v.hallIllegal <<< 4
        ||| b2n v.invalid <<< 5 ||| v.state <<< 8)

/-- Frequency input status as of the last freeze (R288). -/
def freqBytes (x : Freq) : List Byte :=
  leBytes 4 x.freq ++ leBytes 4 x.taken.pulses.toNat ++ leBytes 8 x.taken.lastPm
    ++ leBytes 4 (b2n x.taken.stopped ||| b2n x.taken.overrange <<< 1)

/-- Analog input status as of the last freeze (R288). -/
def ainBytes (x : Ain) : List Byte := leBytes 8 x.taken.pm ++ leBytes 2 x.taken.value ++ leBytes 2 (b2n x.taken.invalid)

/-- Emulation status as of the last freeze (R288). -/
def emuBytes (x : Emu) : List Byte :=
  let v := x.taken
  leBytes 4 (uint 32 v.count) ++ leBytes 4 (satU 16 v.deficit ||| b2n v.sat <<< 16 ||| b2n v.noSpeed <<< 17) ++ leBytes 4 v.dropped.toNat

/-! ### Load switches and zones (13, 14) -/

/-- STATE of a load switch: a commanded channel that COAST, SAFE or shedding keeps off is held off; one between its
pulses is pulsing. Marks: DEDUCED (log 76). -/
def lswStateCode (s : State) (c : Fin 16) : Nat :=
  match s.lsw.ls[c].st with
  | .off =>
    let l := s.lsw.ls[c]
    let policy := s.sys.dev == .coast || s.sys.dev == .safe || shedScale s c == 0
    if l.pulsing then 3 else if s.pd0.lswOn[c] && policy && !l.gndLoss && !l.resumeWait then 5 else 0
  | .inrush => 1
  | .on => if s.lsw.ls[c].pulsing then 3 else 2
  | .latched => 4

/-- Load switch status (R307). -/
def lswWord (s : State) (c : Fin 16) : Nat :=
  let l := s.lsw.ls[c]
  lswStateCode s c ||| b2n s.pd0.lswOn[c] <<< 3 ||| b2n l.openLoad <<< 4 ||| b2n l.shortBat <<< 5 ||| b2n l.short <<< 6
    ||| b2n l.overload <<< 7 ||| b2n l.overtemp <<< 8 ||| b2n l.thermLatch <<< 9 ||| b2n l.aggregate <<< 10 ||| b2n l.scaled <<< 11
    ||| b2n l.gndLoss <<< 12 ||| s.pd0.lswRetries[c] <<< 16 ||| satU 16 l.current <<< 32 ||| uint 16 l.temp <<< 48

/-- Zone status (R322). -/
def zoneWord (z : Zone) : Nat :=
  uint 16 z.temp ||| z.reduction <<< 16 ||| b2n z.warn <<< 25 ||| b2n z.throttling <<< 26 ||| b2n z.fast <<< 27 ||| b2n z.broken <<< 28
    ||| z.hotSensor <<< 32 ||| satU 8 z.brokenCount <<< 40 ||| z.rateTrips <<< 48

/-! ### Items (R365, R399) -/

/-- Bytes per index and instances of an item; item 0x0D has no fixed bytes per index. -/
def itemShape : Nat → Option (Nat × Nat)
  | 0x01 => some (96, 1) | 0x02 => some (32, 1) | 0x03 => some (8, 96) | 0x04 => some (16, 8) | 0x05 => some (24, 16)
  | 0x06 => some (4, 4) | 0x07 => some (8, 96) | 0x08 => some (8, 16) | 0x09 => some (8, 10) | 0x0A => some (32, 8)
  | 0x0B => some (32, 160) | 0x0C => some (4, 1) | 0x0D => some (16, 96) | 0x10 => some (24, 3) | 0x11 => some (512, 12)
  | 0x12 => some (20, 16) | 0x13 => some (12, 32) | 0x14 => some (12, 2) | 0x15 => some (8, 1) | 0x16 => some (24, 1)
  | 0x17 => some (32, 64) | _ => none

/-- The thermal latch record (R399). -/
def latchBytes (s : State) : List Byte :=
  match s.pd0.latch with
  | some l => leBytes 1 l.zone ++ leBytes 1 l.sensor ++ leBytes 2 (uint 16 l.temp) ++ leBytes 8 l.pm ++ leBytes 4 l.boot ++ leBytes 8 1
  | none => List.replicate 24 0

/-- One indexed object of a class of `n`, as bytes. -/
def atIx (n k : Nat) (f : Fin n → List Byte) : List Byte :=
  match idx? n k with
  | some i => f i
  | none => []

/-- Instance `k` of an item as it stands now. -/
def itemBytes (s : State) (item k : Nat) : List Byte :=
  match item with
  | 0x01 => s.pos.pose.bytes
  | 0x02 => ledgerBytes s
  | 0x03 => atIx 96 k fun c => leBytes 8 (nozWord s c)
  | 0x04 => atIx 8 k fun g => fineBytes s.pwu.fine[g]
  | 0x05 => atIx 16 k fun l => loopBytes s l
  | 0x06 => atIx 4 k fun j => leBytes 4 (uint 32 (satS 32 s.ce.flow[j].rho))
  | 0x07 => atIx 96 k fun c => leBytes 8 (protWord s c)
  | 0x08 => atIx 16 k fun c => leBytes 8 (lswWord s c)
  | 0x09 => atIx 10 k fun z => leBytes 8 (zoneWord s.ths.zone[z])
  | 0x0A => if k < 4 then atIx 4 k (fun i => encBytes s.pif.enc[i]) else atIx 4 (k - 4) fun i => encBytes s.pif.hall[i]
  | 0x0B => atIx 160 k fun i => latBytes s.vdr.lat[i]
  | 0x0C => leBytes 4 (stateWord s)
  | 0x10 => atIx 3 k fun x => canStatus s x
  | 0x11 => atIx 12 k fun b => queueBytes s.vdr.bank[b]
  | 0x12 => atIx 16 k fun i => freqBytes s.pif.freq[i]
  | 0x13 => atIx 32 k fun i => ainBytes s.pif.ain[i]
  | 0x14 => atIx 2 k fun x => emuBytes s.pif.emu[x]
  | 0x15 => leBytes 4 s.gnss.anom.toNat ++ leBytes 4 s.gnss.anomMask.toNat
  | 0x16 => latchBytes s
  | 0x17 => match s.pd0.faultLog[k]? with
    | some f => f.bytes
    | none => List.replicate 32 0
  | _ => []

/-- Instances `first` to `first + count − 1` of an item. -/
def itemsBytes (s : State) (item first count : Nat) : List Byte := (List.range count).flatMap fun k => itemBytes s item (first + k)

/-- DIAG_READ. -/
def opDiagRead (e : Env) (s : State) : State × Answer :=
  let item := arg e 0 8
  let first := arg e 8 8
  let count := arg e 16 8
  match itemShape item with
  | none => deny .badParam s
  | some sh =>
    if item = 0x0D then deny .badParam s
    else if count = 0 ∨ first + count > sh.2 ∨ count * sh.1 > 4084 then deny .range s
    else doneWith (itemsBytes s item first count) s


end Sys2Proof.Machine
end

