-- ==== Sys2Proof/Machine/HostPort.lean ====
section
/-! DEFINITION. The host port hardware: envelopes, the checks of a header, credits, replies, notice envelopes, the link
timer (R348 to R374). -/

namespace Sys2Proof.Machine

/-! ### Ports -/

/-- The port is on in PB.HOST (R373). -/
def portEnabled (s : State) (p : Port) : Bool :=
  match p with
  | .spi => s.act.flag .host 0
  | .uart => s.act.flag .host 1
  | .tunnel => (tunCtl s).isSome

/-- The port takes envelopes: it is on, and the port hardware lives (R372, R437). -/
def portListens (s : State) (p : Port) : Bool := portEnabled s p && s.sys.hostAlive && s.pwr.domains.getLsbD 10

/-- LINK_TIMEOUT of a port. -/
def linkTimeout (s : State) (p : Port) : Tick := msTicks (s.act.fld .host (32 * (portIx p).val + 128) 16)
/-- LINK_ACTION of a port is SAFE. -/
def linkSafe (s : State) (p : Port) : Bool := s.act.flag .host (32 * (portIx p).val + 144)

/-- A HOST notice; INDEX is the port (R374). -/
def hostNote (p : Port) (code : Nat) (s : State) : State := notice .host code (portIx p).val [] s

/-! ### Envelopes (R352, R353) -/

/-- Bytes 0 to 13 of a header. -/
def headerBytes (version flags : Nat) (opcode seq : BitVec 16) (len : Nat) (session : BitVec 16) (grant rsvd : Nat) : List Byte :=
  leBytes 2 0x4C47 ++ leBytes 1 version ++ leBytes 1 flags ++ leBytes 2 opcode.toNat ++ leBytes 2 seq.toNat ++ leBytes 2 len
    ++ leBytes 2 session.toNat ++ leBytes 1 grant ++ leBytes 1 rsvd

/-- Bytes 0 to 13 of a request's header. -/
def requestHeader (op : BitVec 16) (e : Env) : List Byte :=
  headerBytes e.version.toNat
    (b2n e.sealedBit ||| b2n e.noticeBit <<< 1 ||| b2n e.moreBit <<< 2 ||| e.rsvdA.toNat <<< 3)
    op e.seq e.payload.length e.session e.grant.toNat e.rsvdB.toNat

/-- The payload of an outbound envelope (R356, R361, R366). -/
def OutBody.payload : OutBody → List Byte
  | .reply st pm d => leBytes 1 (statusCode st) ++ leBytes 3 0 ++ leBytes 8 pm ++ d
  | .more d => d
  | .notices rs => rs.flatMap Notice.bytes
  | .telemetry _ d => d

/-- Is it a telemetry delivery? -/
def OutBody.telemetric : OutBody → Bool
  | .telemetry _ _ => true
  | _ => false

/-- The subscription of a telemetry delivery. -/
def OutBody.subscription : OutBody → Option Nat
  | .telemetry k _ => some k
  | _ => none

/-- NOTICE: a notice or telemetry envelope. -/
def OutBody.unasked : OutBody → Bool
  | .reply _ _ _ | .more _ => false
  | .notices _ | .telemetry _ _ => true

/-- Bytes 0 to 13 of an outbound header. -/
def OutEnv.header (o : OutEnv) : List Byte :=
  headerBytes 1 (b2n o.sealedBit ||| b2n o.body.unasked <<< 1 ||| b2n o.moreBit <<< 2) o.opcode o.seq o.body.payload.length
    o.session o.grant 0

/-- An outbound envelope as it is sent. -/
def OutEnv.bytes (o : OutEnv) : List Byte :=
  o.header ++ leBytes 2 (crc16 o.header) ++ o.body.payload ++ leBytes 4 (payloadCrc o.body.payload)
    ++ (if o.sealedBit then leBytes 16 o.tag.toNat else [])

/-! ### Franking (R369) -/

/-- The tag over a direction byte, a counter, a header and a payload. Marks: DESIGN CHOICE (log 60). -/
def frankTag (key : BitVec 128) (dir : Byte) (counter : Nat) (hdr payload : List Byte) : BitVec 128 :=
  Config.cmac key (dir :: (leBytes 4 counter ++ hdr ++ payload))

/-- Seal an outbound envelope as the `n`-th of its session. -/
def OutEnv.frank (x : Session) (n : Nat) (o : OutEnv) : OutEnv :=
  let o1 := { o with session := x.id, sealedBit := true }
  { o1 with tag := frankTag x.key 1 n o1.header o1.body.payload }

/-- Seal envelopes one after the other, from counter `n` on. -/
def frankAll (x : Session) : Nat → List OutEnv → List OutEnv
  | _, [] => []
  | n, o :: os => o.frank x n :: frankAll x (n + 1) os

/-- The session has sent `n` more sealed envelopes. -/
def countSealed (x : Session) (n : Nat) (q : PortSt) : PortSt :=
  { q with session := q.session.map fun y => if y.id = x.id then { y with txCount := y.txCount + n } else y }

/-! ### The outbound path (R363) -/

/-- Put envelopes in a port's path, before any telemetry. Marks: DEDUCED (log 65). -/
def PortSt.send (os : List OutEnv) (q : PortSt) : PortSt :=
  { q with out := q.out.takeWhile (fun o => !o.body.telemetric) ++ os ++ q.out.dropWhile (fun o => !o.body.telemetric) }

/-- The envelopes of a reply: a chain where it does not fit in one; the credit returns with the last (R356, R359). -/
def replyChain (op : BitVec 16) (e : Env) (a : Answer) (grant credit : Nat) : List OutEnv :=
  let base : OutEnv := { opcode := op, seq := e.seq, session := e.session }
  if a.data.length ≤ 4084 then [{ base with grant := grant, credit := credit, body := .reply a.status a.effectPm a.data }]
  else
    let rest := chunks 4096 (a.data.drop 4084)
    { base with moreBit := true, body := .reply a.status a.effectPm (a.data.take 4084) }
      :: (rest.dropLast.map fun d => { base with moreBit := true, body := .more d })
      ++ [{ base with grant := grant, credit := credit, body := .more (rest.getLast?.getD []) }]

/-- The envelopes of a reply, sealed under the session of the request where it has one. Marks: DEDUCED (log 61). -/
def replyEnvs (x : Option Session) (op : BitVec 16) (e : Env) (a : Answer) (grant credit : Nat) : List OutEnv :=
  match x with
  | some y => frankAll y y.txCount (replyChain op e a grant credit)
  | none => replyChain op e a grant credit

/-- Queue a reply on its port (R355). -/
def sendReply (x : Option Session) (op : BitVec 16) (e : Env) (a : Answer) (grant credit : Nat) (s : State) : State :=
  let os := replyEnvs x op e a grant credit
  modPort e.port (fun q => (match x with | some y => countSealed y os.length q | none => q).send os) s

/-- A port has a reply to send, or notices and a notice credit (R363). -/
def portCalls (s : State) (p : Port) : Bool :=
  let q := portOf s p
  q.out.any (fun o => !o.body.unasked) || (q.out.any fun o => match o.body with | .notices _ => true | _ => false)
    || (decide (0 < q.noticeCredits) && (q.notices != [] || q.noticesLost != 0))

/-- The level of IRQ_OUT (R363). -/
def irqOut (s : State) : Bool :=
  let active := s.sys.hostAlive && allPorts.any fun p => s.act.flag .host (5 + (portIx p).val) && portCalls s p
  active == s.act.flag .host 4

/-! ### Headers (R354, R371) -/

/-- A header that fails rows 1 and 2 of the checks. -/
def countBadHeader (p : Port) (s : State) : State :=
  if portListens s p then hostNote p 0x03 (modPort p (fun q => { q with badHeader := q.badHeader + 1 }) s) else s

/-- BAD_HEADER. -/
def execBadHeader (p : Port) (s : State) : Result := .next (countBadHeader p s)

/-- A valid header: the link window restarts, LINK_LOST ends, notice credits arrive (R360, R371). Marks: DEDUCED (log
62), DEDUCED (log 63). -/
def validHeader (e : Env) (s : State) : State :=
  let lost := (portOf s e.port).linkLost
  let s1 := modPort e.port (fun q => { q with
    linkArmed := true, linkFrom := s.pm, linkLost := false, noticeCredits := min 255 (q.noticeCredits + e.grant.toNat) }) s
  if lost then hostNote e.port 0x06 (endFault 0x1A (portIx e.port).val s1) else s1

/-- LINK_LOST: the window [H, H + LINK_TIMEOUT) closes (R371). Marks: DEDUCED (log 2), DESIGN CHOICE (log 12), DEDUCED
(log 63), DEDUCED (log 85). -/
def execLinkLost (p : Port) (s : State) : Result :=
  let q := portOf s p
  let t := q.linkFrom + linkTimeout s p
  if portListens s p ∧ q.linkArmed ∧ !q.linkLost ∧ t ≤ s.pm then
    let s1 := hostNote p 0x05 (modPort p (fun q => { q with linkLost := true }) s)
    let driving := s.sys.dev == .armed || s.sys.dev == .manual || (s.sys.dev == .coast && (s.sys.coastFromArmed || s.sys.coastFromManual))
    .next (if linkSafe s p && driving then safeFault 0x1A .host (portIx p).val 0 0x05 t s1
      else logFault 0x1A .host (portIx p).val reactReport 0 0x05 s1)
  else .next s

/-! ### Notice envelopes (R361, R362) -/

/-- A record of a sealed service: the SEC block and the MAP log codes. -/
def Notice.fromSealed (n : Notice) : Bool := n.blk == blockId .sec || (n.blk == blockId .map && (n.code == 0x0A || n.code == 0x0B))

/-- The records from the front that may go together and fit in `room` bytes (R361). -/
def packRecords (ok : Notice → Bool) : Nat → List Notice → List Notice
  | _, [] => []
  | room, n :: ns => if ok n && decide (n.size ≤ room) then n :: packRecords ok (room - n.size) ns else []

/-- The records the next notice envelope of a port carries, how many of them come from its queue, and whether it is
sealed. A NOTICES_LOST record goes first; records of sealed services go apart while a session is open (R362). Marks:
DEDUCED (log 65). -/
def nextRecords (s : State) (p : Port) : List Notice × Nat × Bool :=
  let q := portOf s p
  let head : List Notice := if q.noticesLost = 0 then [] else
    [{ blk := blockId .host, code := 0x01, pm := q.lostPm, count := q.noticesLost, idx := (portIx p).val }]
  let kind := q.session.isSome && head.isEmpty && (q.notices.head?.map Notice.fromSealed).getD false
  let body := packRecords (fun n => q.session.isNone || n.fromSealed == kind) (4096 - noticesSize head) q.notices
  (head ++ body, body.length, kind)

/-- NOTICE_ENVELOPE: with a notice credit and no envelope before it but telemetry, the port sends its next records. -/
def execNoticeEnvelope (p : Port) (s : State) : Result :=
  let q := portOf s p
  if portListens s p ∧ 0 < q.noticeCredits ∧ (q.notices ≠ [] ∨ q.noticesLost ≠ 0) ∧ q.out.all (fun o => o.body.telemetric) then
    let r := nextRecords s p
    let o : OutEnv := { opcode := 0x00F0, seq := q.outSeq, body := .notices r.1 }
    .next (modPort p (fun q =>
      let q1 : PortSt := match q.session with
        | some x => if r.2.2 then countSealed x 1 (q.send [o.frank x x.txCount]) else q.send [o]
        | none => q.send [o]
      { q1 with notices := q.notices.drop r.2.1, noticesLost := 0, noticeCredits := q.noticeCredits - 1, outSeq := q.outSeq + 1 }) s)
  else .next s

/-! ### Effects that wait for a reply to leave (R373, R379) -/

/-- Bytes of a tunnel envelope wait for a frame, or ride in one not sent yet (R350). -/
def tunnelBusy (s : State) : Bool :=
  !(s.host.port[(2 : Fin 3)].tunOut.isEmpty) || (match tunCtl s, idx? 32 (tunSlot s) with
    | some x, some k => s.can.ctl[x].slots[k].st != .free && s.can.ctl[x].slots[k].owner == .tunnel
    | _, _ => false)

/-- No envelope of this reply is left in the port's path. -/
def replyGone (s : State) (p : Port) (op : BitVec 16) : Bool :=
  (portOf s p).out.all (fun o => o.body.unasked || o.opcode != op) && !(p == .tunnel && tunnelBusy s)

/-- The port's outbound path still holds a delivery of the subscription (R366). -/
def holdsDelivery (s : State) (p : Port) (k : Nat) : Bool :=
  let q := portOf s p
  q.out.any (fun o => o.body.subscription == some k) || (p == .tunnel && q.tunSub == some k && tunnelBusy s)

/-- PB_HOST_APPLY: PB.HOST takes effect once the reply to its PB_COMMIT has left (R349, R373). -/
def execPbHostApply (s : State) : Result :=
  match s.host.applyWait with
  | some (p, img) =>
    if replyGone s p 0x0102 then .next (putActive .host img (s.onHost fun h => { h with applyWait := none })) else .next s
  | none => .next s

/-- RESET_AFTER_REPLY: START begins at the first frame edge once the reply to SYS_RESET has left (R21, R379). -/
def execResetAfterReply (s : State) : Result :=
  match s.host.resetWait with
  | some p => if s.sys.dev = .quarantine ∧ replyGone s p 0x0008 ∧ (!s.running ∨ s.pm % 40000 = 0) then .next (startState .quarantine 0x01 3 s) else .next s
  | none => .next s

end Sys2Proof.Machine
end

