-- ==== Sys2Proof/Machine/Requests.lean ====
section
/-! DEFINITION. Requests: what the system and actuation commands do, the opcode map with its gates, and what becomes of a
request envelope (R354 to R360, R369, R370, R372, R375 to R379, R390 to R399). -/

namespace Sys2Proof.Machine

/-! ### System commands (R379) -/

/-- SYS_NOP. -/
def opSysNop (_e : Env) (s : State) : State × Answer := done s

/-- The 24 bytes of SYS_STATUS. -/
def sysStatusBytes (s : State) : List Byte :=
  leBytes 4 (stateWord s) ++ leBytes 4 s.pd0.bootCount ++ leBytes 8 s.pm ++ leBytes 1 s.sys.bootStage ++ leBytes 1 s.sys.quarCause
    ++ leBytes 1 s.sys.dramTest ++ leBytes 1 s.sys.selftestFail ++ leBytes 4 0

/-- SYS_STATUS. -/
def opSysStatus (_e : Env) (s : State) : State × Answer := doneWith (sysStatusBytes s) s

/-- "GLR-6340-AQ" padded with one 0x00. -/
def orderCode : List Byte := [0x47, 0x4C, 0x52, 0x2D, 0x36, 0x33, 0x34, 0x30, 0x2D, 0x41, 0x51, 0x00]

/-- SYS_IDENTITY. -/
def opSysIdentity (_e : Env) (s : State) : State × Answer :=
  doneWith (leBytes 16 s.sec.deviceId.toNat ++ leBytes 4 Config.hwRev.toNat ++ leBytes 4 s.pd0.bootCount ++ orderCode) s

/-- SYS_LINK_RESET: the host holds every credit, the requests held for the port are discarded, notice credits are 0
and the session closes (R359, R360, R370). Marks: DEDUCED (log 64). -/
def opSysLinkReset (e : Env) (s : State) : State × Answer :=
  let s1 := modPort e.port (fun q => { q with credits := 8, held := [], noticeCredits := 0 }) (closeSession e.port s)
  done (s1.onHost fun h => { h with awaiting := h.awaiting.filter fun a => a.2.env.port != e.port })

/-- A fault that leads to SAFE persists (R423, R426): the "unmasked fault" of R24. Marks: DESIGN CHOICE (log 18),
DEDUCED (log 19). -/
def unmaskedFault (s : State) : Bool :=
  s.pwr.clkBaseBad || (allElements.any fun el => (elemOf s el).cause.isSome && !(elemOf s el).clean)
    || (allPorts.any fun p => (portOf s p).linkLost && linkSafe s p)
    || ((List.finRange 16).any fun k => s.ce.loop[k].fault && loopSafe s k)
    || (s.faultActive 0x1C && s.can.ctl[(1 : Fin 3)].st != .active)
    || (isolLimit s != 0 && decide (isolLimit s ≤ isolatedBanks s))

/-- An implement set has been committed since START, or its commit waits (R107, R377). -/
def implReady (s : State) : Bool := s.impl.active.isSome || implWaiting s

/-- The conditions R24 sets on leaving STANDBY for ARMED or MANUAL. Marks: DEDUCED (log 19). -/
def mayDrive (s : State) : Bool := implReady s && !s.safe.safeIn && !unmaskedFault s

/-- SYS_ARM (R24, R28). -/
def opSysArm (e : Env) (s : State) : State × Answer :=
  match firstBad [(!s.sys.mapReady, .busy), (!mayDrive s || decide (s.act.fld .fe 0 2 > 1), .state)] with
  | some st => deny st s
  | none => doneEdge s (waitEdge 0x0004 e [.arm] s)

/-- SYS_MANUAL (R24). -/
def opSysManual (e : Env) (s : State) : State × Answer :=
  if s.sys.dev = .standby ∧ !mayDrive s then deny .state s
  else doneEdge s (waitEdge 0x0005 e [.manual] s)

/-- SYS_DISARM. -/
def opSysDisarm (e : Env) (s : State) : State × Answer := doneEdge s (waitEdge 0x0006 e [.disarm] s)

/-- SYS_CLEAR_FAULT: refused while a cause persists, which the reply names (R379, R433). -/
def opSysClearFault (e : Env) (s : State) : State × Answer :=
  match persistCause s with
  | some c => (s, { status := .faulted, data := leBytes 1 c })
  | none => (waitEdge 0x0007 e [.clearFault] s, { effectPm := nextEdge s.pm, data := leBytes 1 0 })

/-- SYS_RESET: START follows the reply (R379). -/
def opSysReset (e : Env) (s : State) : State × Answer := done (s.onHost fun h => { h with resetWait := some e.port })

/-- Bytes per second of a subscription on the UART port, as a fraction (R367). -/
def subRate (b : Sub) : Nat × Nat :=
  let n := if b.item = 0x0D then 64 * 16 else match itemShape b.item with
    | some sh => b.count * sh.1
    | none => 0
  ((44 + n) * 2000, max 1 b.decim)

/-- The enabled subscriptions need more than 80 % of the UART's bytes (R367). -/
def uartOverrun (baud : Nat) (l : List Sub) : Bool :=
  let r := (l.filter (·.enable)).foldl (fun (a : Nat × Nat) b => let x := subRate b; (a.1 * x.2 + x.1 * a.2, a.2 * x.2)) (0, 1)
  8 * baud * r.2 < 100 * r.1

/-- The subscriptions of a port with those that wait for their edge (R364). -/
def subsAhead (s : State) (p : Port) : Vector Sub 16 :=
  s.sys.edgeQ.foldl (fun v i => match i.act with
    | .subscribe q k b => if q = p then v.set k b else v
    | _ => v) (portOf s p).subs

/-- SYS_SUBSCRIBE (R364, R365, R367). Marks: DEDUCED (log 66). -/
def opSysSubscribe (e : Env) (s : State) : State × Answer :=
  let k : Fin 16 := ⟨arg e 0 4 % 16, Nat.mod_lt _ (by decide)⟩
  let b : Sub := { enable := argB e 4, item := arg e 8 8, first := arg e 16 8, count := arg e 24 8, decim := arg e 32 16 }
  let inst := match itemShape b.item with
    | some sh => sh.2
    | none => 0
  match firstBad [
      (arg e 5 3 != 0 || arg e 48 16 != 0 || b.item = 0 || b.item > 0x0D, .badParam),
      (b.count = 0 || b.count > 96 || b.first + b.count > inst || b.decim = 0, .range),
      (e.port == .uart && uartOverrun (s.act.fld .host 8 24) (vlist ((subsAhead s .uart).set k b)), .range)] with
  | some st => deny st s
  | none => doneEdge s (waitEdge 0x0009 e [.subscribe e.port k b] s)

/-- A subscription takes effect: its counters go on, and the kept firing records stay while it asks for the same ones.
Marks: DEDUCED (log 66). -/
def applySubscribe (p : Port) (k : Fin 16) (b : Sub) (s : State) : State :=
  modPort p (fun q => { q with subs := vmod q.subs k fun o =>
    let same := o.enable && b.enable && o.item == b.item && o.first == b.first && o.count == b.count
    { b with skipped := o.skipped, traceLost := o.traceLost, records := if same then o.records else [] } }) s

/-- SYS_WAKE_SET: 0 cancels the alarm. -/
def opSysWakeSet (e : Env) (s : State) : State × Answer :=
  let w := arg e 0 32
  if w = 0 then doneWith (leBytes 4 0) (s.onPd0 fun d => { d with wakeAlarm := none })
  else if w < 60 ∨ 2592000 < w then deny .range s
  else doneWith (leBytes 4 w) (s.onPd0 fun d => { d with wakeAlarm := some (d.now + 80000000 * w) })

/-! ### Actuation commands (R391, R230) -/

/-- The first entry that meets a test. -/
def firstEntry (p : List Byte → Bool) (l : List (List Byte)) : Option Nat := l.findIdx? p

/-- The entries of a list that repeat an earlier one's key. -/
def firstRepeat (key : List Byte → Nat) : List Nat → Nat → List (List Byte) → Option Nat
  | _, _, [] => none
  | seen, i, r :: rs => if seen.contains (key r) then some i else firstRepeat key (key r :: seen) (i + 1) rs

/-- The first of a list of checks over entries that names one. -/
def firstNamed : List (Option Nat × Status) → Option (Nat × Status)
  | [] => none
  | (some i, st) :: _ => some (i, st)
  | (none, _) :: l => firstNamed l

/-- The first entry whose bank has no credit left for it (R142). -/
def firstShort (s : State) : Vector Nat 12 → Nat → List (List Byte) → Option Nat
  | _, _, [] => none
  | used, i, r :: rs => match idx? 96 (recN r 64 8) with
    | none => firstShort s used (i + 1) rs
    | some c =>
      let b := bankOf c
      if s.vdr.bank[b].queue.length + used[b] < 32 then firstShort s (used.set b (used[b] + 1)) (i + 1) rs else some i

/-- A host event (R141): FEED_PRED, START_PRED and CAUSE of a host event are free where the record's rules give none.
Marks: DEDUCED (log 67). -/
def hostEv (r : List Byte) (n : Nat) (s : State) : Ev :=
  let on := recN r 72 1 == 0
  let ctx := recN r 64 8
  let pred := on && decide (ctx < 96)
  { due := recN r 0 64, ctx := ctx, on := on, batPred := pred && bitN n 0, startPred := if pred then n / 2 % 4 else 3,
    cause := n / 8 % 16, frame := frameNo s.pm, host := true, stale := decide (recN r 0 64 < s.pm), rate := recN r 96 24 }

/-- One entry of ACT_EVENT is taken: local into its bank queue, remote until the next freeze. -/
def takeHostEvent (s : State) (r : List Byte) : State :=
  let d := drawFree s
  let ev := hostEv r (Config.freeNat d.2) s
  if ev.ctx < 96 then enqueueEv ev d.1 else d.1.onFe fun f => { f with rowEvents := f.rowEvents ++ [ev] }

/-- Context `k` is enabled in the active implement set. -/
def enabledCtx (s : State) (k : Nat) : Bool := match s.impl.active with
  | some i => i.ctxOn k
  | none => false

/-- ACT_EVENT: all entries or none; a due postmark is judged from the request's arrival (R391). Marks: DEDUCED (log
67). -/
def opActEvent (e : Env) (s : State) : State × Answer :=
  let es := entries e 0 16
  match firstNamed [
      (firstEntry (fun r => recN r 73 23 != 0 || recN r 120 8 != 0) es, .badParam),
      (firstEntry (fun r => recN r 64 8 > 159) es, .range),
      (firstEntry (fun r => recN r 0 64 > e.firstPm + 800000000) es, .range),
      (firstEntry (fun r => 96 ≤ recN r 64 8 && !enabledCtx s (recN r 64 8)) es, .badParam),
      (firstRepeat (fun r => recN r 0 72) [] 0 es, .badParam),
      (firstShort s (Vector.replicate 12 0) 0 es, .busy)] with
  | some (i, st) => (s, { status := st, data := leBytes 1 i })
  | none => doneWith [0xFF] (es.foldl takeHostEvent s)

/-- ACT_DUTY: the duties wait for the frame edge that is their effective tick (R237). Marks: DEDUCED (log 67). -/
def opActDuty (e : Env) (s : State) : State × Answer :=
  let es := entries e 0 4
  match firstNamed [
      (firstEntry (fun r => recN r 8 8 != 0) es, .badParam),
      (firstEntry (fun r => recN r 0 8 > 95) es, .range),
      (firstRepeat (fun r => recN r 0 8) [] 0 es, .badParam)] with
  | some (_, st) => deny st s
  | none => doneEdge s (waitEdge 0x0501 e (es.filterMap fun r => (idx? 96 (recN r 0 8)).map fun c => .duty c (recN r 16 16)) s)

/-- ACT_FINE_CMP: not for a generator bound to a loop (R263). -/
def opActFineCmp (e : Env) (s : State) : State × Answer :=
  let g : Fin 8 := ⟨arg e 0 3 % 8, Nat.mod_lt _ (by decide)⟩
  match firstBad [(arg e 3 29 != 0, .badParam), (loopDrives s 1 g.val, .state)] with
  | some st => deny st s
  | none => done (writeCmp g (arg e 32 32) s)

/-- ACT_CLEAR_FAULT: the reply for an isolated bank follows its reconnection test (R230). Marks: DEDUCED (log 59). -/
def opActClearFault (e : Env) (s : State) : State × Answer :=
  let ix := arg e 8 8
  if arg e 0 8 > 1 then deny .badParam s
  else if arg e 0 8 = 0 then
    match idx? 96 ix with
    | none => deny .range s
    | some c => done (clearContext c s)
  else match idx? 12 ix with
    | none => deny .range s
    | some b =>
      if s.vdr.bank[b].reconnect.isSome then deny .busy s
      else if s.vdr.bank[b].isolated = 0 then done (clearBank b s)
      else (beginReconnect b (clearBank b s), { wait := some b })

/-! ### Opcodes (R375, R376) -/

/-- Payload of `n` bytes. -/
def lenIs (n : Nat) (e : Env) : Bool := e.payload.length == n

/-- A fixed part of `f` bytes and `lo` to `hi` items of `size` bytes. -/
def lenItems (f size lo hi : Nat) (e : Env) : Bool :=
  let n := e.payload.length - f
  decide (f ≤ e.payload.length) && n % size == 0 && decide (lo ≤ n / size) && decide (n / size ≤ hi)

/-- IMPL_WRITE: COUNT records of the TYPE's size; a TYPE not defined is refused later. -/
def lenImplWrite (e : Env) : Bool :=
  decide (4 ≤ e.payload.length) && decide (0 < arg e 16 8) && (decide (arg e 0 8 > 5) || e.payload.length == 4 + arg e 16 8 * recSize (arg e 0 8))

/-- CE_TABLE_WRITE: 256 bytes of friction or 512 of cogging (R392). -/
def lenCeTable (e : Env) : Bool := decide (4 ≤ e.payload.length) && e.payload.length == (if argB e 4 then 516 else 260)

/-- A command: the states and world that may send it, its payload length, its effect. -/
structure OpInfo where
  states : List DevState
  sealedOnly : Bool := false
  len : Env → Bool
  run : Env → State → State × Answer

/-- START, QUARANTINE and what follows: all eight states. -/
def inAll : List DevState := [.start, .quarantine, .standby, .armed, .manual, .coast, .safe, .latched]
def inQBAMCFL : List DevState := [.quarantine, .standby, .armed, .manual, .coast, .safe, .latched]
def inBAMCFL : List DevState := [.standby, .armed, .manual, .coast, .safe, .latched]
def inQBAMCF : List DevState := [.quarantine, .standby, .armed, .manual, .coast, .safe]
def inBAMCF : List DevState := [.standby, .armed, .manual, .coast, .safe]
def inQBAMF : List DevState := [.quarantine, .standby, .armed, .manual, .safe]
def inBAMF : List DevState := [.standby, .armed, .manual, .safe]
def inBAM : List DevState := [.standby, .armed, .manual]
def inBMF : List DevState := [.standby, .manual, .safe]

/-- The system family. -/
def opSys : Nat → Option OpInfo
  | 0x00 => some { states := inAll, len := lenIs 0, run := opSysNop }
  | 0x01 => some { states := inAll, len := lenIs 0, run := opSysStatus }
  | 0x02 => some { states := inQBAMCFL, len := lenIs 0, run := opSysIdentity }
  | 0x03 => some { states := inAll, len := lenIs 0, run := opSysLinkReset }
  | 0x04 => some { states := [.standby, .manual], len := lenIs 0, run := opSysArm }
  | 0x05 => some { states := [.standby, .armed], len := lenIs 0, run := opSysManual }
  | 0x06 => some { states := [.armed, .manual], len := lenIs 0, run := opSysDisarm }
  | 0x07 => some { states := [.safe], len := lenIs 0, run := opSysClearFault }
  | 0x08 => some { states := [.quarantine], len := lenIs 0, run := opSysReset }
  | 0x09 => some { states := inBAMCF, len := lenIs 8, run := opSysSubscribe }
  | 0x0A => some { states := inBAMF, len := lenIs 4, run := opSysWakeSet }
  | _ => none

/-- Parameter blocks. -/
def opPb : Nat → Option OpInfo
  | 0x00 => some { states := inBAMCFL, len := lenIs 6, run := opPbRead }
  | 0x01 => some { states := inBAMCF, len := lenItems 4 1 1 4092, run := opPbWrite }
  | 0x02 => some { states := inBAMF, len := lenIs 4, run := opPbCommit }
  | 0x03 => some { states := inBAMCF, len := lenIs 4, run := opPbRevert }
  | _ => none

/-- Implement. -/
def opImpl : Nat → Option OpInfo
  | 0x00 => some { states := inBAMF, len := lenImplWrite, run := opImplWrite }
  | 0x01 => some { states := inBAMCFL, len := lenIs 4, run := opImplRead }
  | 0x02 => some { states := inBAM, len := lenIs 0, run := opImplCommit }
  | 0x03 => some { states := inBAMF, len := lenIs 0, run := opImplRevert }
  | _ => none

/-- Map. -/
def opMap : Nat → Option OpInfo
  | 0x00 => some { states := inBAMCFL, len := lenIs 0, run := opMapStatus }
  | 0x01 => some { states := inBAMF, len := lenIs 64, run := opMapLoadBegin }
  | 0x02 => some { states := inBAMCF, len := lenItems 4 1 1 4092, run := opMapLoadData }
  | 0x03 => some { states := inBAMF, len := lenIs 0, run := opMapLoadEnd }
  | 0x04 => some { states := inBAMCF, len := lenIs 0, run := opMapLoadAbort }
  | 0x05 => some { states := inBAMF, len := lenIs 4, run := opMapExportBegin }
  | 0x06 => some { states := inBAMCF, len := lenIs 6, run := opMapExportRead }
  | 0x07 => some { states := inBAMCF, len := lenIs 8, run := opMapExportAck }
  | 0x08 => some { states := inBAMF, len := lenIs 4, run := opMapClear }
  | 0x09 => some { states := inBAMCFL, len := lenIs 4, run := opMapLogRead }
  | 0x0A => some { states := inBAMCFL, len := lenIs 4, run := opMapLogAck }
  | _ => none

/-- Field. -/
def opFe : Nat → Option OpInfo
  | 0x00 => some { states := [.standby, .armed], len := lenItems 0 16 1 16, run := opFeDirected }
  | 0x01 => some { states := [.standby, .armed], len := lenIs 4, run := opFeDirectedClear }
  | _ => none

/-- Actuation. -/
def opAct : Nat → Option OpInfo
  | 0x00 => some { states := [.manual], len := lenItems 0 16 1 32, run := opActEvent }
  | 0x01 => some { states := [.manual], len := lenItems 0 4 1 96, run := opActDuty }
  | 0x02 => some { states := inBAM, len := lenIs 8, run := opActFineCmp }
  | 0x03 => some { states := inBMF, len := lenIs 2, run := opActClearFault }
  | _ => none

/-- Control. -/
def opCe : Nat → Option OpInfo
  | 0x00 => some { states := inBAMF, len := lenIs 8, run := opCeSetpoint }
  | 0x01 => some { states := inBAM, len := lenIs 8, run := opCeOutput }
  | 0x02 => some { states := inBAMF, len := lenCeTable, run := opCeTableWrite }
  | 0x03 => some { states := inBAMCFL, len := lenIs 4, run := opCeTableRead }
  | 0x04 => some { states := inBAMF, len := lenIs 1, run := opCeLoopReset }
  | _ => none

/-- GNSS and time. -/
def opTime : Nat → Option OpInfo
  | 0x00 => some { states := inBAMCF, len := lenIs 0, run := opTimeGet }
  | 0x01 => some { states := inBAMCF, len := lenIs 8, run := opTimeStepConfirm }
  | 0x02 => some { states := inBAMCF, len := lenItems 0 1 1 4096, run := opGnssRtcm }
  | 0x03 => some { states := inBAMCF, len := lenIs 0, run := opGnssMeasGet }
  | 0x04 => some { states := inBAMCF, len := lenIs 0, run := opPosGet }
  | _ => none

/-- I/O. -/
def opIo : Nat → Option OpInfo
  | 0x00 => some { states := inBAMF, len := lenItems 0 4 1 16, run := opLswSet }
  | 0x01 => some { states := inBAMF, len := lenIs 1, run := opLswClearFault }
  | 0x02 => some { states := inBAMF, len := lenIs 8, run := opPifEncSet }
  | 0x03 => some { states := inBAMCF, len := lenIs 2, run := opPifEventsRead }
  | _ => none

/-- Buses. -/
def opCan : Nat → Option OpInfo
  | 0x00 => some { states := inBAMCF, len := lenIs 12, run := opCanPhConfig }
  | 0x01 => some { states := inBAMCF, len := lenIs 2, run := opCanRxRead }
  | 0x02 => some { states := inBAMCF, len := lenIs 84, run := opCanTx }
  | 0x03 => some { states := inBAMCF, len := lenIs 2, run := opCanTxAbort }
  | 0x04 => some { states := inBAMCF, len := lenIs 1, run := opCanRecover }
  | _ => none

/-- Security and update. -/
def opSec : Nat → Option OpInfo
  | 0x00 => some { states := inQBAMCF, len := lenIs 16, run := opSecSessionOpen }
  | 0x01 => some { states := inQBAMCF, sealedOnly := true, len := lenIs 0, run := opSecSessionClose }
  | 0x02 => some { states := [.quarantine, .standby], len := lenIs 0, run := opSecServiceChallenge }
  | 0x03 => some { states := [.quarantine, .standby], len := lenIs 68, run := opSecServiceResponse }
  | 0x04 => some { states := inQBAMCFL, len := lenIs 16, run := opSecAttest }
  | 0x05 => some { states := inQBAMF, len := lenIs 8, run := opSecImageBegin }
  | 0x06 => some { states := inQBAMCF, len := lenItems 4 1 1 4092, run := opSecImageData }
  | 0x07 => some { states := inQBAMF, len := lenIs 0, run := opSecImageEnd }
  | 0x08 => some { states := .quarantine :: inBAM, sealedOnly := true, len := lenIs 4, run := opSecActivate }
  | 0x09 => some { states := inQBAMCFL, len := lenIs 0, run := opSecImageStatus }
  | _ => none

/-- Diagnostics. -/
def opDiag : Nat → Option OpInfo
  | 0x00 => some { states := inBAMCFL, len := lenIs 3, run := opDiagRead }
  | _ => none

/-- The command of an opcode: the family in the high byte. -/
def opInfo (op : BitVec 16) : Option OpInfo :=
  match op.toNat / 256 with
  | 0x00 => opSys (op.toNat % 256)
  | 0x01 => opPb (op.toNat % 256)
  | 0x02 => opImpl (op.toNat % 256)
  | 0x03 => opMap (op.toNat % 256)
  | 0x04 => opFe (op.toNat % 256)
  | 0x05 => opAct (op.toNat % 256)
  | 0x06 => opCe (op.toNat % 256)
  | 0x07 => opTime (op.toNat % 256)
  | 0x08 => opIo (op.toNat % 256)
  | 0x09 => opCan (op.toNat % 256)
  | 0x0A => opSec (op.toNat % 256)
  | 0x0B => opDiag (op.toNat % 256)
  | _ => none

/-! ### The interpreter (R354 rows 8 and 9, R372, R375) -/

/-- Served before STANDBY: SYS_NOP, SYS_STATUS, SYS_LINK_RESET. -/
def servedInStart (op : BitVec 16) : Bool := op == 0x0000 || op == 0x0001 || op == 0x0003
/-- Families served in QUARANTINE. -/
def servedInQuarantine (op : BitVec 16) : Bool := op.toNat / 256 == 0x00 || op.toNat / 256 == 0x0A

/-- The gates of R375, first to third. Marks: DEDUCED (log 81). -/
def gate (op : BitVec 16) (i : OpInfo) (e : Env) (s : State) : Option Status :=
  firstBad [
    (s.sys.dev == .start && !servedInStart op, .state),
    (s.sys.dev == .quarantine && !servedInQuarantine op, .quarantined),
    (i.sealedOnly && (sessionOf e s).isNone, .sealedWorld),
    (!i.states.contains s.sys.dev, .state)]

/-- Judge and execute a request. Marks: DEDUCED (log 81). -/
def interpret (op : BitVec 16) (e : Env) (s : State) : State × Answer :=
  match opInfo op with
  | none => deny .badOpcode s
  | some i =>
    if !i.len e then deny .badLength s
    else match gate op i e s with
      | some st => deny st s
      | none => i.run e s

/-! ### Retransmissions and order (R357) -/

/-- SEQUENCE, header CRC and payload CRC are those of a recorded request. -/
def Replay.sameAs (r : Replay) (e : Env) : Bool := r.seq == e.seq && r.hdrCrc == e.hdrCrc && r.payCrc == e.payCrc

/-- The record of a request already executed on its port. Marks: DEDUCED (log 62). -/
def replayOf (e : Env) (s : State) : Option Replay := (portOf s e.port).replay.find? fun r => r.sameAs e

/-- The original is held, or waits for its bank's reconnection test. -/
def stillHeld (e : Env) (s : State) : Bool :=
  let same (h : HeldReq) : Bool := h.env.port == e.port && h.env.seq == e.seq && h.env.hdrCrc == e.hdrCrc && h.env.payCrc == e.payCrc
  (portOf s e.port).held.any same || s.host.awaiting.any fun a => same a.2

/-- SEQUENCE against the previous request's: a gap is counted and reported. -/
def checkSeq (e : Env) (s : State) : State :=
  let q := portOf s e.port
  let gap := match q.lastSeq with
    | some l => e.seq != l + 1
    | none => false
  let s1 := modPort e.port (fun q => { q with lastSeq := some e.seq, seqGap := q.seqGap + b2n gap }) s
  if gap then hostNote e.port 0x02 s1 else s1

/-- A recorded reply goes out again with CREDIT_GRANT 1; for a chained one the answer is BUSY. `c` is the credit the
retransmission took. Marks: DEDUCED (log 62). -/
def replyAgain (op : BitVec 16) (e : Env) (c : Nat) (r : Replay) (s : State) : State :=
  match r.reply with
  | some o => modPort e.port (fun q => q.send [{ o with grant := 1, credit := c }]) s
  | none => sendReply (sessionOf e s) op e { status := .busy } 1 c s

/-- A retransmission whose original's final reply has not left the port reuses the credit that reply brings back
(R357). Marks: DEDUCED (log 62). -/
def reusesCredit (op : BitVec 16) (e : Env) (s : State) : Bool :=
  (replayOf e s).isSome && (portOf s e.port).out.any fun o => !o.body.unasked && o.opcode == op && o.seq == e.seq && o.credit == 1

/-! ### The end of a request (R356, R357) -/

/-- The reply goes out and the request is recorded; the reply to SYS_LINK_RESET grants all 8 credits (R359). Marks:
DEDUCED (log 64). -/
def answer (x : Option Session) (op : BitVec 16) (e : Env) (n : Nat) (a : Answer) (s : State) : State :=
  let grant := if op = 0x0003 then 8 else 1
  let credit := if op = 0x0003 then 0 else 1
  let kept := match replyEnvs x op e a grant credit with
    | [o] => some o
    | _ => none
  let r : Replay := { seq := e.seq, hdrCrc := e.hdrCrc, payCrc := e.payCrc, counter := n, reply := kept }
  sendReply x op e a grant credit (modPort e.port (fun q => { q with replay := (r :: q.replay).take 8 }) s)

/-- Execute a request and answer it; the reply of a bank's reconnection waits for its test. -/
def runRequest (op : BitVec 16) (e : Env) (n : Nat) (s : State) : State :=
  let r := interpret op e s
  match r.2.wait with
  | some b => r.1.onHost fun h => { h with awaiting := h.awaiting ++ [(b, { opcode := op, env := e, counter := n, at_ := s.pm })] }
  | none => answer (sessionOf e s) op e n r.2 r.1

/-! ### Holding through a restart (R358, R425) -/

/-- A request the enclave serves. -/
def sealedService (op : BitVec 16) : Bool := op.toNat / 256 == 0x0A || op == 0x0309 || op == 0x030A

/-- The request waits for an element that restarts. -/
def mustWait (op : BitVec 16) (s : State) : Bool := s.restarting .pair || (s.restarting .enclave && sealedService op)

/-- Held in its credit buffer. -/
def hold (op : BitVec 16) (e : Env) (n : Nat) (s : State) : State :=
  modPort e.port (fun q => { q with held := q.held ++ [{ opcode := op, env := e, counter := n, at_ := s.pm }] }) s

/-- One held request, where it is still held and need not wait: it leaves its buffer and runs. -/
def runOne (s : State) (h : HeldReq) : State :=
  if (portOf s h.env.port).held.contains h ∧ !mustWait h.opcode s then
    runRequest h.opcode h.env h.counter (modPort h.env.port (fun q => { q with held := q.held.erase h }) s)
  else s

/-- Held requests in order of arrival, ports in order on one tick (R355). -/
def heldInOrder (s : State) : List HeldReq :=
  (allPorts.flatMap fun p => (portOf s p).held).foldl (fun l h => insertBy (fun x => 3 * x.at_ + (portIx x.env.port).val) h l) []

/-- What was held runs. Marks: DEDUCED (log 81). -/
def runHeld (s : State) : State := (heldInOrder s).foldl runOne s

/-! ### Franking of requests (R369, R370) -/

/-- The smallest counter above the last accepted one that is congruent to SEQUENCE. -/
def nextCounter (last : Option Nat) (seq : BitVec 16) : Nat :=
  match last with
  | none => seq.toNat
  | some l =>
    let c := l / 65536 * 65536 + seq.toNat
    if l < c then c else c + 65536

/-- The counter under which a request's tag verifies; none where it fails row 7. Marks: DEDUCED (log 61). -/
def tagCounter (op : BitVec 16) (e : Env) (s : State) : Option Nat :=
  if !e.sealedBit then some 0
  else match sessionOf e s with
    | none => none
    | some x =>
      let n := match replayOf e s with
        | some r => r.counter
        | none => nextCounter x.rxLast e.seq
      if frankTag x.key 0 n (requestHeader op e) e.payload = e.tag then some n else none

/-- AUTH_FAIL: counted; the eighth in a row closes the session (R370). Marks: DEDUCED (log 61). -/
def authFail (op : BitVec 16) (e : Env) (c : Nat) (s : State) : State :=
  let s1 := hostNote e.port 0x04 (modPort e.port (fun q => { q with authFails := q.authFails + 1 }) s)
  let s2 := sendReply none op e { status := .authFail } 1 c s1
  if (portOf s2 e.port).authFails ≥ 8 then modPort e.port (fun q => { q with authFails := 0 }) (closeSession e.port s2) else s2

/-- Row 7 passed: the failures in a row end, and the session's counter stands at this request's. Marks: DEDUCED (log
61). -/
def passTag (e : Env) (n : Nat) (s : State) : State :=
  modPort e.port (fun q => { q with
    authFails := 0
    session := if e.sealedBit then q.session.map fun x => { x with rxLast := some (max n (x.rxLast.getD 0)) } else q.session }) s

/-! ### A request envelope (R354) -/

/-- A credit of the port is taken. -/
def takeCredit (p : Port) (s : State) : State := modPort p (fun q => { q with credits := q.credits - 1 }) s

/-- The port has no credit. -/
def noCredit (p : Port) (s : State) : Bool := (portOf s p).credits == 0

/-- Rows 3 and 4: refused; where a credit was free it goes back with the reply. Marks: DEDUCED (log 62). -/
def refuseHeader (op : BitVec 16) (e : Env) (st : Status) (s : State) : State :=
  if noCredit e.port s then sendReply (sessionOf e s) op e { status := st } 0 0 s
  else sendReply (sessionOf e s) op e { status := st } 1 1 (takeCredit e.port s)

/-- A request past the checks of the port: sent again, held, or executed; `c` is the credit it took. Marks: DEDUCED
(log 62). -/
def accept (op : BitVec 16) (e : Env) (c n : Nat) (s : State) : State :=
  match replayOf e s with
  | some r => replyAgain op e c r s
  | none => if mustWait op s then hold op e n (checkSeq e s) else runRequest op e n (checkSeq e s)

/-- Rows 6 and 7; `c` is the credit the request has taken. Marks: DEDUCED (log 62). -/
def checkBody (op : BitVec 16) (e : Env) (c : Nat) (s : State) : State :=
  if payloadCrc e.payload ≠ e.payCrc.toNat then sendReply (sessionOf e s) op e { status := .badCrc } 1 c s
  else match tagCounter op e s with
    | none => authFail op e c s
    | some n => accept op e c n (passTag e n s)

/-- Rows 3 to 5. Marks: DEDUCED (log 62). -/
def checkHeader (op : BitVec 16) (e : Env) (s : State) : State :=
  if e.noticeBit || e.moreBit || e.rsvdA != 0 || e.rsvdB != 0 then refuseHeader op e .badParam s
  else if e.version ≠ 1 then refuseHeader op e .versionMismatch s
  else if stillHeld e s then s
  else if reusesCredit op e s then checkBody op e 0 s
  else if noCredit e.port s then sendReply (sessionOf e s) op e { status := .noCredit } 0 0 s
  else checkBody op e 1 (takeCredit e.port s)

/-- Rows 1 and 2 fail. -/
def headerBad (op : BitVec 16) (e : Env) : Bool := crc16 (requestHeader op e) != e.hdrCrc.toNat || decide (4096 < e.payload.length)

/-- A request envelope arrives whole at its port. -/
def receive (op : BitVec 16) (e : Env) (s : State) : State :=
  if !portListens s e.port then s
  else if headerBad op e then countBadHeader e.port s
  else checkHeader op e (validHeader e s)

/-! ### Replies that wait for a reconnection test (R230) -/

/-- The replies that wait for a bank's test go out. -/
def answerBank (b : Fin 12) (st : Status) (s : State) : State :=
  let mine := s.host.awaiting.filter fun a => a.1 == b
  mine.foldl (fun t a => answer (sessionOf a.2.env t) a.2.opcode a.2.env a.2.counter { status := st } t)
    (s.onHost fun h => { h with awaiting := h.awaiting.filter fun a => a.1 != b })

/-- BANK_RECONNECT_TEST_END: 84,000 ticks after the connection the test is judged; a feed that tripped meanwhile has
failed it. Marks: DEDUCED (log 59). -/
def execBankReconnectTestEnd (b : Fin 12) (short : Option (Fin 8)) (s : State) : Result :=
  match s.vdr.bank[b].reconnect with
  | some t =>
    if t + 84000 ≤ s.pm then
      match short with
      | none => .next (if bankShorted s b then answerBank b .faulted (isolateFault b 1 s) else answerBank b .ok (reconnected b s))
      | some j => .next (answerBank b .faulted (reisolated b j s))
    else .next s
  | none => .next (answerBank b .faulted s)

/-! ### Tunnel reception (R350) -/

/-- A request read from stream bytes: the header, then LENGTH bytes, the payload CRC and the tag. -/
def envOf (h : Nat) (rest : List Byte) (at_ : Tick) : Env :=
  let n := bits h 64 16
  { port := .tunnel, version := BitVec.ofNat 8 (bits h 16 8), sealedBit := bitN h 24, noticeBit := bitN h 25, moreBit := bitN h 26,
    rsvdA := BitVec.ofNat 5 (bits h 27 5), seq := BitVec.ofNat 16 (bits h 48 16), session := BitVec.ofNat 16 (bits h 80 16),
    grant := BitVec.ofNat 8 (bits h 96 8), rsvdB := BitVec.ofNat 8 (bits h 104 8), hdrCrc := BitVec.ofNat 16 (bits h 112 16),
    payload := rest.take n, payCrc := BitVec.ofNat 32 (leNat (slice rest n 4)),
    tag := if bitN h 24 then BitVec.ofNat 128 (leNat (slice rest (n + 4) 16)) else 0, firstPm := at_ }

/-- The stream bytes from the first sync on. -/
def huntSync : List Byte → List Byte
  | [] => []
  | b :: bs => if b = 0x47 ∧ (bs = [] ∨ bs.head? = some 0x4C) then b :: bs else huntSync bs

/-- The header of the tunnel's envelope in progress is valid: it counts once, also where the envelope is dropped later
(R354). Marks: DEDUCED (log 63). -/
def tunnelHeader (e : Env) (s : State) : State :=
  if portListens s .tunnel ∧ !(portOf s .tunnel).tunHead then modPort .tunnel (fun q => { q with tunHead := true }) (validHeader e s)
  else s

/-- The whole envelope behind a header that has counted. -/
def tunnelBody (op : BitVec 16) (e : Env) (s : State) : State :=
  if portListens s .tunnel then checkHeader op e (modPort .tunnel (fun q => { q with tunHead := false }) s) else s

/-- Serve every whole envelope in the tunnel's stream (R354). -/
def tunnelServe (at_ : Tick) : Nat → State → State
  | 0, s => s
  | f + 1, s =>
    let bs := huntSync s.host.port[(2 : Fin 3)].tunBytes
    let keep (l : List Byte) (t : State) : State := modPort .tunnel (fun q => { q with tunBytes := l }) t
    if bs.length < 16 then keep bs s
    else
      let h := leNat (bs.take 16)
      let n := bits h 64 16
      if crc16 (bs.take 14) ≠ bits h 112 16 ∨ 4096 < n then tunnelServe at_ f (countBadHeader .tunnel (keep (bs.drop 1) s))
      else
        let total := 16 + n + 4 + (if bitN h 24 then 16 else 0)
        let e := envOf h (bs.drop 16) at_
        let t := tunnelHeader e s
        if bs.length < total then keep bs t
        else tunnelServe at_ f (tunnelBody (BitVec.ofNat 16 (bits h 32 16)) e (keep (bs.drop total) t))

/-- CAN_FRAME_RECEIVE: the frame is filtered and stored; what a tunnel frame completes is served at once. -/
def execCanFrameReceive (x : Fin 3) (f : CanFrame) (s : State) : Result :=
  let t := canFrameReceive x f s
  .next (if tunCtl s = some x then tunnelServe f.sofPm (t.host.port[(2 : Fin 3)].tunBytes.length + 1) t else t)

/-! ### The rows -/

/-- SYS_NOP. -/
def execSysNop (e : Env) (s : State) : Result := .next (receive 0x0000 e s)
/-- SYS_STATUS. -/
def execSysStatus (e : Env) (s : State) : Result := .next (receive 0x0001 e s)
/-- SYS_IDENTITY. -/
def execSysIdentity (e : Env) (s : State) : Result := .next (receive 0x0002 e s)
/-- SYS_LINK_RESET. -/
def execSysLinkReset (e : Env) (s : State) : Result := .next (receive 0x0003 e s)
/-- SYS_ARM. -/
def execSysArm (e : Env) (s : State) : Result := .next (receive 0x0004 e s)
/-- SYS_MANUAL. -/
def execSysManual (e : Env) (s : State) : Result := .next (receive 0x0005 e s)
/-- SYS_DISARM. -/
def execSysDisarm (e : Env) (s : State) : Result := .next (receive 0x0006 e s)
/-- SYS_CLEAR_FAULT. -/
def execSysClearFault (e : Env) (s : State) : Result := .next (receive 0x0007 e s)
/-- SYS_RESET. -/
def execSysReset (e : Env) (s : State) : Result := .next (receive 0x0008 e s)
/-- SYS_SUBSCRIBE. -/
def execSysSubscribe (e : Env) (s : State) : Result := .next (receive 0x0009 e s)
/-- SYS_WAKE_SET. -/
def execSysWakeSet (e : Env) (s : State) : Result := .next (receive 0x000A e s)
/-- PB_READ. -/
def execPbRead (e : Env) (s : State) : Result := .next (receive 0x0100 e s)
/-- PB_WRITE. -/
def execPbWrite (e : Env) (s : State) : Result := .next (receive 0x0101 e s)
/-- PB_COMMIT. -/
def execPbCommit (e : Env) (s : State) : Result := .next (receive 0x0102 e s)
/-- PB_REVERT. -/
def execPbRevert (e : Env) (s : State) : Result := .next (receive 0x0103 e s)
/-- IMPL_WRITE. -/
def execImplWrite (e : Env) (s : State) : Result := .next (receive 0x0200 e s)
/-- IMPL_READ. -/
def execImplRead (e : Env) (s : State) : Result := .next (receive 0x0201 e s)
/-- IMPL_COMMIT. -/
def execImplCommit (e : Env) (s : State) : Result := .next (receive 0x0202 e s)
/-- IMPL_REVERT. -/
def execImplRevert (e : Env) (s : State) : Result := .next (receive 0x0203 e s)
/-- MAP_STATUS. -/
def execMapStatus (e : Env) (s : State) : Result := .next (receive 0x0300 e s)
/-- MAP_LOAD_BEGIN. -/
def execMapLoadBegin (e : Env) (s : State) : Result := .next (receive 0x0301 e s)
/-- MAP_LOAD_DATA. -/
def execMapLoadData (e : Env) (s : State) : Result := .next (receive 0x0302 e s)
/-- MAP_LOAD_END. -/
def execMapLoadEnd (e : Env) (s : State) : Result := .next (receive 0x0303 e s)
/-- MAP_LOAD_ABORT. -/
def execMapLoadAbort (e : Env) (s : State) : Result := .next (receive 0x0304 e s)
/-- MAP_EXPORT_BEGIN. -/
def execMapExportBegin (e : Env) (s : State) : Result := .next (receive 0x0305 e s)
/-- MAP_EXPORT_READ. -/
def execMapExportRead (e : Env) (s : State) : Result := .next (receive 0x0306 e s)
/-- MAP_EXPORT_ACK. -/
def execMapExportAck (e : Env) (s : State) : Result := .next (receive 0x0307 e s)
/-- MAP_CLEAR. -/
def execMapClear (e : Env) (s : State) : Result := .next (receive 0x0308 e s)
/-- MAP_LOG_READ. -/
def execMapLogRead (e : Env) (s : State) : Result := .next (receive 0x0309 e s)
/-- MAP_LOG_ACK. -/
def execMapLogAck (e : Env) (s : State) : Result := .next (receive 0x030A e s)
/-- FE_DIRECTED. -/
def execFeDirected (e : Env) (s : State) : Result := .next (receive 0x0400 e s)
/-- FE_DIRECTED_CLEAR. -/
def execFeDirectedClear (e : Env) (s : State) : Result := .next (receive 0x0401 e s)
/-- ACT_EVENT. -/
def execActEvent (e : Env) (s : State) : Result := .next (receive 0x0500 e s)
/-- ACT_DUTY. -/
def execActDuty (e : Env) (s : State) : Result := .next (receive 0x0501 e s)
/-- ACT_FINE_CMP. -/
def execActFineCmp (e : Env) (s : State) : Result := .next (receive 0x0502 e s)
/-- ACT_CLEAR_FAULT. -/
def execActClearFault (e : Env) (s : State) : Result := .next (receive 0x0503 e s)
/-- CE_SETPOINT. -/
def execCeSetpoint (e : Env) (s : State) : Result := .next (receive 0x0600 e s)
/-- CE_OUTPUT. -/
def execCeOutput (e : Env) (s : State) : Result := .next (receive 0x0601 e s)
/-- CE_TABLE_WRITE. -/
def execCeTableWrite (e : Env) (s : State) : Result := .next (receive 0x0602 e s)
/-- CE_TABLE_READ. -/
def execCeTableRead (e : Env) (s : State) : Result := .next (receive 0x0603 e s)
/-- CE_LOOP_RESET. -/
def execCeLoopReset (e : Env) (s : State) : Result := .next (receive 0x0604 e s)
/-- TIME_GET. -/
def execTimeGet (e : Env) (s : State) : Result := .next (receive 0x0700 e s)
/-- TIME_STEP_CONFIRM. -/
def execTimeStepConfirm (e : Env) (s : State) : Result := .next (receive 0x0701 e s)
/-- GNSS_RTCM. -/
def execGnssRtcm (e : Env) (s : State) : Result := .next (receive 0x0702 e s)
/-- GNSS_MEAS_GET. -/
def execGnssMeasGet (e : Env) (s : State) : Result := .next (receive 0x0703 e s)
/-- POS_GET. -/
def execPosGet (e : Env) (s : State) : Result := .next (receive 0x0704 e s)
/-- LSW_SET. -/
def execLswSet (e : Env) (s : State) : Result := .next (receive 0x0800 e s)
/-- LSW_CLEAR_FAULT. -/
def execLswClearFault (e : Env) (s : State) : Result := .next (receive 0x0801 e s)
/-- PIF_ENC_SET. -/
def execPifEncSet (e : Env) (s : State) : Result := .next (receive 0x0802 e s)
/-- PIF_EVENTS_READ. -/
def execPifEventsRead (e : Env) (s : State) : Result := .next (receive 0x0803 e s)
/-- CAN_PH_CONFIG. -/
def execCanPhConfig (e : Env) (s : State) : Result := .next (receive 0x0900 e s)
/-- CAN_RX_READ. -/
def execCanRxRead (e : Env) (s : State) : Result := .next (receive 0x0901 e s)
/-- CAN_TX. -/
def execCanTx (e : Env) (s : State) : Result := .next (receive 0x0902 e s)
/-- CAN_TX_ABORT. -/
def execCanTxAbort (e : Env) (s : State) : Result := .next (receive 0x0903 e s)
/-- CAN_RECOVER. -/
def execCanRecover (e : Env) (s : State) : Result := .next (receive 0x0904 e s)
/-- SEC_SESSION_OPEN. -/
def execSecSessionOpen (e : Env) (s : State) : Result := .next (receive 0x0A00 e s)
/-- SEC_SESSION_CLOSE. -/
def execSecSessionClose (e : Env) (s : State) : Result := .next (receive 0x0A01 e s)
/-- SEC_SERVICE_CHALLENGE. -/
def execSecServiceChallenge (e : Env) (s : State) : Result := .next (receive 0x0A02 e s)
/-- SEC_SERVICE_RESPONSE. -/
def execSecServiceResponse (e : Env) (s : State) : Result := .next (receive 0x0A03 e s)
/-- SEC_ATTEST. -/
def execSecAttest (e : Env) (s : State) : Result := .next (receive 0x0A04 e s)
/-- SEC_IMAGE_BEGIN. -/
def execSecImageBegin (e : Env) (s : State) : Result := .next (receive 0x0A05 e s)
/-- SEC_IMAGE_DATA. -/
def execSecImageData (e : Env) (s : State) : Result := .next (receive 0x0A06 e s)
/-- SEC_IMAGE_END. -/
def execSecImageEnd (e : Env) (s : State) : Result := .next (receive 0x0A07 e s)
/-- SEC_ACTIVATE. -/
def execSecActivate (e : Env) (s : State) : Result := .next (receive 0x0A08 e s)
/-- SEC_IMAGE_STATUS. -/
def execSecImageStatus (e : Env) (s : State) : Result := .next (receive 0x0A09 e s)
/-- DIAG_READ. -/
def execDiagRead (e : Env) (s : State) : Result := .next (receive 0x0B00 e s)
/-- BAD_OPCODE: an envelope whose OPCODE is not defined. -/
def execBadOpcode (op : BitVec 16) (e : Env) (s : State) : Result := .next (receive op e s)

end Sys2Proof.Machine
end

