-- ==== Sys2Proof/Machine/Frame.lean ====
section
/-! DEFINITION. The field frame: its edge, its commit phase, its logging phase, and the end of an element's restart
(R15, R17, R21, R26, R29, R149, R358, R366, R377, R420, R421). Events committed in frame n execute in frame n + 2
(R16): a due postmark is at least E + 80,000. -/

namespace Sys2Proof.Machine

/-! ### Effects that waited for the edge (R21, R29, R377) -/

/-- The CMD_CANCELLED notice of a waiting effect (R380). -/
def cancelNote (i : EdgeItem) (s : State) : State :=
  noticeNow .sys 0x03 0xFFFF i.edge (leBytes 2 i.opcode.toNat ++ leBytes 2 i.seq.toNat) s

/-- A waiting transition acts where R24 allows it, else it is cancelled. Marks: DEDUCED (log 21). -/
def ifAllowed (ok : Bool) (i : EdgeItem) (f : State → State) (s : State) : State := if ok then f s else cancelNote i s

/-- One waiting effect acts. -/
def applyEdge (i : EdgeItem) (s : State) : State :=
  match i.act with
  | .arm => ifAllowed (s.sys.dev == .standby || s.sys.dev == .manual) i (enterArmed i.edge) s
  | .manual => ifAllowed (s.sys.dev == .standby || s.sys.dev == .armed) i (enterManual i.edge) s
  | .disarm => ifAllowed (s.sys.dev == .armed || s.sys.dev == .manual) i (enterStandby 0x01 i.edge) s
  | .clearFault => ifAllowed (s.sys.dev == .safe && (persistCause s).isNone) i (enterStandby 0x01 i.edge) s
  | .commit images tabs => applyCommit i.edge images tabs s
  | .implCommit n => commitPhases i.edge (applyImpl n s)
  | .subscribe p k b => applySubscribe p k b s
  | .mapClear t layer => applyClear t layer s
  | .mapApply => applyImport s
  | .expFix => fixExport s
  | .setpoint k v => modLoop k (fun l => { l with hostSet := some v }) s
  | .output k v => modLoop k (fun l => { l with hostOut := some v }) s
  | .loopReset k => applyLoopReset k i.edge s
  | .lswSet c on d => applyLswSet c on d i.edge s
  | .lswResume c => applyLswResume c s
  | .duty c v => writeDuty c i.edge v s
  | .encSet k v => applyEncSet k v i.edge s
  | .canFilter x k w => applyFilter x k w i.edge s

/-- The effects due at edge `e` act in execution order; one that an earlier one's transition has cancelled is gone.
Marks: DEDUCED (log 21). -/
def applyEdges (e : Tick) : Nat → State → State
  | 0, s => s
  | f + 1, s =>
    match takeFirst (fun i : EdgeItem => decide (i.edge ≤ e)) s.sys.edgeQ with
    | none => s
    | some (i, rest) => applyEdges e f (applyEdge i (s.onSys fun y => { y with edgeQ := rest }))

/-! ### Live activation (R420, R421) -/

/-- The element an image runs on, for the images that switch live. -/
def elementOf : Fin 5 → Option Element
  | 1 => some .pair
  | 2 => some .gnss
  | 3 => some .field
  | 4 => some .control
  | _ => none

/-- One image switches at edge `e`: the trial time of the bank that stops is kept, the other bank runs, its register is
extended, its trial begins or goes on; the GNSS image brings its WEEK_REF (R66, R407, R418). -/
def switchImage (e : Tick) (i : Fin 5) (s : State) : State :=
  let b := s.sec.image[i].other
  let s0 := if s.sec.image[i].trial then s.onPd0 fun d => { d with trialRun := d.trialRun.set i (trialRun s i) } else s
  let s1 := modImage i (fun m => { ({ m with running := !m.running, lastRun := !m.running }.modRun fun x => { x with ran := true }) with
    since := e, trialRestarts := if b.ran then m.trialRestarts else 0 }) s0
  let s2 := if b.ran then s1 else s1.onPd0 fun d => { d with trialRun := d.trialRun.set i 0 }
  let s3 := if i = 2 then s2.onGnss fun g => { g with weekRef := b.weekRef } else s2
  extend ⟨(i.val + 1) % 8, Nat.mod_lt _ (by decide)⟩ 0x04 b.digest s3

/-- The element restarts by command, not by a fault. Marks: DEDUCED (log 20). -/
def commandRestart (el : Element) (s : State) : State :=
  modElem el (fun x => { x with restarts := (s.pm :: x.restarts).take 8, cause := some 0x01, restarting := true, doneAt := none,
                                clean := false }) (flushCrossing (crossingOf el) (resetElement el s))

/-- A commanded restart under COAST. -/
def restartInCoast (el : Element) (s : State) : State :=
  if s.sys.dev = .coast then commandRestart el s else enterCoast 0x01 (commandRestart el s)

/-- What the switch of an image does to its element. Marks: DEDUCED (log 20), DEDUCED (log 68). -/
def switchElement (i : Fin 5) (s : State) : State :=
  let fresh := s.sec.image[i].run.stateReset
  match elementOf i with
  | some .pair => restartInCoast .pair s
  | some .gnss => modElem .gnss (fun x => { x with restarts := (s.pm :: x.restarts).take 8, restarting := true, doneAt := none }) (flushCrossing (crossingOf .gnss) (resetElement .gnss s))
  | some .field => if fresh then restartInCoast .field s else s
  | some .control => if fresh then restartLoops s else s
  | _ => s

/-- Preparation was complete before edge `e`: when ACTIVATION_PREPARED said so, or 4,000,000 ticks after acceptance
(R420). -/
def Activation.prepared (e : Tick) (a : Activation) : Bool := decide (a.ready.getD (a.since + 4000000) < e)

/-- A prepared activation switches at edge `e`, its APP image last, since that opens the coast window. -/
def activationEdge (e : Tick) (s : State) : State :=
  match s.sec.activation with
  | some a =>
    if a.prepared e ∧ a.switchAt.isNone then
      let is : List (Fin 5) := ([2, 3, 4, 1] : List (Fin 5)).filter fun i => a.images.getLsbD i.val
      let s1 := s.onSec fun v => { v with activation := some { a with switchAt := some e, waits := is.filterMap elementOf } }
      is.foldl (fun t i => switchElement i (switchImage e i t)) s1
    else s
  | none => s

/-- Elements that have had a clean frame since the switch, at the edge `e` that ends it; FIELD's is its commit. -/
def settled (e : Tick) (s : State) (at_ : Tick) (el : Element) : Bool :=
  let x := elemOf s el
  match el with
  | .field => false
  | .control => !x.restarting && decide (at_ + 40000 ≤ e) && !missedIn s (e - 40000)
  | _ => !x.restarting && (match x.doneAt with
      | some d => decide (at_ ≤ d) && decide (d < e)
      | none => false)

/-- Drop the elements that have settled from an activation's list. -/
def settleActivation (e : Tick) (s : State) : State :=
  s.onSec fun v => { v with activation := v.activation.map fun a => match a.switchAt with
    | some t => { a with waits := a.waits.filter fun el => !settled e s t el }
    | none => a }

/-- ACTIVATED, once every switched element has had a clean frame (R421). Marks: DEDUCED (log 68). -/
def activationDone (s : State) : State :=
  match s.sec.activation with
  | some a => match a.switchAt with
    | some t => if a.waits = [] then noticeAt .sec 0x02 0xFFFF t (leBytes 4 a.images.toNat) (s.onSec fun v => { v with activation := none }) else s
    | none => s
  | none => s

/-! ### The edge (R15, R29, R34, R35) -/

/-- The states in which the field frame's blocks work. -/
def framesRun (s : State) : Bool :=
  match s.sys.dev with
  | .standby | .armed | .manual | .coast | .safe => true
  | _ => false

/-- The state changes of edge `e`, in the order of R29: the return from COAST, SAFE_IN and the supply, QUARANTINE,
VKEY, then the commands. Marks: DEDUCED (log 21). -/
def edgeStates (e : Tick) (s : State) : State :=
  let s1 := coastReturn e (cleanFrames e s)
  let s2 := vkeyAtEdge e (quarantineAtEdge e (groundAtEdge e (safeInAtEdge e s1)))
  applyEdges e s2.sys.edgeQ.length s2

/-- Local contexts stopped from this freeze (R428). -/
def stopFreeze (s : State) : State :=
  if s.act.fld .safe 16 2 ≠ 1 then s
  else s.onFe fun f => { f with stopped := vmapIdx f.stopped fun c b =>
    b || s.vdr.lat[ctxOf c].noMotion || s.vdr.prot[c].shortedTurns || s.vdr.prot[c].openLoad }

/-- The load switches' internal measurements as frozen. Marks: DEDUCED (log 76). -/
def lswFreeze (f : Freeze) (s : State) : State :=
  s.onLsw fun v => { v with ls := vmapIdx v.ls fun c l => { l with current := f.lsw[c].1, temp := f.lsw[c].2 } }

/-- A mask whose build is complete comes into force (R164): its raster takes the lowest pages that are not retired,
and those of the old one that it does not write over wait to be zeroed. Marks: DESIGN CHOICE (log 51). -/
def maskEdge (s : State) : State :=
  noteRetired s.map <| s.onMap fun m => match m.built with
    | some k =>
      let ps := (freePages m.maskPool.retired 256 k.tiles.length []).getD []
      { forgetErrors (fun x => x.region == .mask) m with
        mask := { k with pages := ps }, built := none
        maskPool := let q := m.maskPool.free (m.mask.pages.filter fun p => !ps.contains p)
          { q with zeroing := q.zeroing.filter fun p => !ps.contains p } }
    | none => m

/-- CE takes the flow balance of each layer; its loops see the demand committed in the frame before (R257, R268). -/
def flowEdge (e : Tick) (s : State) : State :=
  (List.finRange 4).foldl (fun t j => flowFreeze e j t) (s.onFe fun f => { f with demandPrev := f.demand })

/-- The error of the timebase while the counter runs on BKO (R446). Marks: DESIGN CHOICE (log 30). -/
def bkoError (s : State) : State := if s.pwr.onBko then s.onTime fun v => { v with errNs := BitVec.ofNat 32 (min 0xFFFFFFFF (v.errNs.toNat + 15000)) } else s

/-- The end of the commit phase of the frame of edge `e`, which the lanes have not committed in agreement: a lane fault at
its last instant (R17, R31). -/
def laneEnd (e : Tick) (s : State) : State :=
  if feWorks s e then asAt (e + 36000) (elementFault .field 0x11 .fe) (s.onFe fun f => { f with batch := none, work := none }) else s

/-- What FE reads of VDR and CE at a freeze (R126, R127, R139). -/
def feFrozen (s : State) : FeFrozen :=
  { lat := vmap s.vdr.lat (·.val), feed := Vector.ofFn fun b => feedMode s b, press := vmap s.ce.loop (·.feedback)
    latched := Vector.ofFn fun c => latchedOff s c }

/-- FE takes up the frame of edge `e`, where it runs (R13, R15). -/
def feBegin (e : Tick) (s : State) : State :=
  s.onFe fun f => { f with work := if feRuns s then some e else none, batch := none, frz := feFrozen s }

/-- The frame before `e` has ended: its commit phase, where no LOGGING_PHASE of it has said so, and the copy of a page
(R17, R161). -/
def lastFrameEnd (e : Tick) (s : State) : State :=
  match s.sys.lastEdge with
  | some l => if l < e then finishMigration (laneEnd l s) else s
  | none => s

/-- The freeze of edge `e`: inputs, pose, records, row reports, emulation, ledger, map. -/
def freezeFrame (e : Tick) (f : Freeze) (s0 : State) : State :=
  let s := feBegin e s0
  let s1 := implFreeze e (pifFreeze e (lswFreeze f s))
  let s2 := rowFreeze e (directedFreeze (acqNext (posFreeze e f s1)))
  let s3 := closeLedger e f (flowEdge e (stopFreeze s2))
  let s4 := (maskEdge s3).onMap fun m => { m with upsets := m.upsets ++ f.upsets }
  poolLow (zeroPages (snapshotExport (emuAtEdge e s4)))

/-- FRAME_EDGE, once for each edge after TIME has left reset. Marks: DEDUCED (log 2), DESIGN CHOICE (log 7). -/
def execFrameEdge (f : Freeze) (s : State) : Result :=
  let e := edgeOf s.pm
  let fresh : Bool := match s.sys.lastEdge with
    | some l => decide (l < e)
    | none => true
  if s.running ∧ s.sys.dev ≠ .off ∧ fresh then
    let s1 := settleActivation e (edgeStates e ((lastFrameEnd e s).onSys fun y => { y with lastEdge := some e, phase := some .freeze }))
    let s2 := (toggleFaultOut (trigSource 7 0 e 0 (bkoError (activationEdge e s1)))).onLsw fun v => { v with sel := f.sel }
    .next (if framesRun s2 then freezeFrame e f s2 else s2)
  else .next s

/-! ### Commit (R17, R142, R149) -/

/-- A firing is among those the batch painted. -/
def Batch.took (b : Batch) (f : Firing) : Bool := b.taken.contains f

/-- The events of a batch and the host's remote events accepted before its edge: local ones into their bank queues,
remote ones into row messages, at the rates of this frame (R342); a remote edge is reported late only if it has gone
out (R137, R143). FE decides those left out afresh; the host's wait for the next frame. Marks: DEDUCED (log 67). -/
def commitEvents (b : Batch) (s : State) : State × Vector FeCtx 160 :=
  let s1 := (b.events.filter fun v => v.ctx < 96).foldl (fun t v => enqueueEv v t) s
  let host := s.fe.rowEvents.filter fun v => v.frame ≠ frameNo b.edge
  let acted (c : Nat) : Option (Tick × Bool) := (idx? 160 c).bind fun k => s.fe.ctx[k].acted
  let r := rowCommands b.edge acted ((b.events.filter fun v => 96 ≤ v.ctx) ++ host) (s1.onFe fun f => { f with
    ctx := b.ctx, rowEvents := f.rowEvents.filter fun v => v.frame = frameNo b.edge })
  let ctx := (r.2.filter fun v => !v.host).foldl (fun (c : Vector FeCtx 160) v => match idx? 160 v.ctx with
    | some k => vmod c k fun x => { x with sched := !v.on, acted := s.fe.ctx[k].acted }
    | none => c) b.ctx
  let sent := b.lates.filter fun l => !(r.2.any fun v => v.ctx == l.1 && !v.host)
  (sent.foldl (fun t l => noticeAt .fe l.2.code l.2.idx s.pm l.2.body t) (r.1.onFe fun f => { f with rowEvents := r.2.filter (·.host) ++ f.rowEvents }), ctx)

/-- Agreed results take effect. -/
def commitBatch (b : Batch) (s : State) : State :=
  let r := commitEvents b s
  let s1 := b.duties.foldl (fun t d => match idx? 96 d.1 with
    | some c => writeDuty c (b.edge + 80000) d.2 t
    | none => t) r.1
  let p := applyPaints b.paints s1
  let s2 := p.1.onVdr fun v => { v with bank := vmap v.bank fun k => { k with
    store := k.store.filter (fun f => !b.took f), dropped := k.dropped.filter fun f => !(b.took f || b.cut.contains f) } }
  let s3 := s2.onFe fun f => { f with
    ctx := r.2, batch := none, demand := b.demand, secRun := b.secRun, secOn := b.secOn, secGround := b.secGround, secRate := b.secRate
    directed := b.directed, paints := b.waiting ++ p.2, remote := f.remote.filter fun x => !b.took x
    records := f.records ++ b.records
    ending := if f.ending = b.ending then none else f.ending
    armedAt := match f.armedAt with
      | some t => if t ≤ b.edge then none else some t
      | none => none }
  let s4 := b.notices.foldl (fun t n => noticeAt .fe n.code n.idx s.pm n.body t) s3
  b.gaps.foldl (fun t g => paintGap g.1 1 g.2.1 g.2.2.1 g.2.2.2 t) s4

/-- The field engine's clean frame is a commit on which the lanes agree (R26), where it counts (R25). Marks: DEDUCED
(log 13). -/
def fieldClean (e : Tick) (s : State) : State :=
  let s1 := if countsAt s (e + 36000) then markElement .field s else s
  s1.onSec fun v => { v with activation := v.activation.map fun a => if a.switchAt.isSome then { a with waits := a.waits.filter (· != .field) } else a }

/-- COMMIT_PHASE: where the lanes agree on a schedule it is committed; else nothing is, and the lane fault follows at
the end of the phase (R17). Marks: DESIGN CHOICE (log 7), DEDUCED (log 67). -/
def execCommitPhase (agree : Bool) (s : State) : Result :=
  match s.sys.lastEdge with
  | some e =>
    if s.sys.phase = some .decision ∧ e + 32000 ≤ s.pm ∧ s.pm < e + 36000 then
      let s1 := s.onSys fun y => { y with phase := some .commit }
      if !feWorks s e then .next s1
      else match s.fe.batch with
        | some b =>
          .next (if agree then fieldClean e ((commitBatch b s1).onFe fun f => { f with work := none })
            else s1.onFe fun f => { f with batch := none })
        | none => .next s1
    else .next s
  | none => .next s

/-! ### Logging (R15, R366) -/

/-- The telemetry head (R366). Marks: DEDUCED (log 66). -/
def telemetryHead (e : Tick) (k : Nat) (b : Sub) (count : Nat) : List Byte :=
  leBytes 8 e ++ leBytes 4 (frameNo e) ++ leBytes 1 k ++ leBytes 1 b.item ++ leBytes 1 b.first ++ leBytes 1 count
    ++ leBytes 4 b.skipped ++ leBytes 4 (if b.item = 0x0D then b.traceLost else 0)

/-- One subscription of a port in its frame: delivered, or skipped without a notice credit or behind its last
delivery. Marks: DEDUCED (log 66). -/
def deliver (e : Tick) (p : Port) (k : Fin 16) (s : State) : State :=
  let q := portOf s p
  let b := q.subs[k]
  if !b.enable ∨ e / 40000 % b.decim ≠ 0 then s
  else if q.noticeCredits = 0 ∨ holdsDelivery s p k.val then
    modPort p (fun q => { q with subs := vmod q.subs k fun b => { b with skipped := incMod 32 b.skipped 1 } }) s
  else
    let recs := if b.item = 0x0D then b.records.take 64 else []
    let count := if b.item = 0x0D then recs.length else b.count
    let data := if b.item = 0x0D then recs.flatMap fun r => leBytes 16 r.toNat else itemsBytes s b.item b.first b.count
    let o : OutEnv := { opcode := 0x00F1, seq := q.outSeq, body := .telemetry k.val (telemetryHead e k.val b count ++ data) }
    modPort p (fun q => { q with
      out := q.out ++ [o], noticeCredits := q.noticeCredits - 1, outSeq := q.outSeq + 1
      subs := vmod q.subs k fun b => { b with records := b.records.drop recs.length } }) s

/-- Telemetry of a frame: every listening port, subscriptions in order. -/
def telemetry (e : Tick) (s : State) : State :=
  allPorts.foldl (fun t p => if portListens t p then (List.finRange 16).foldl (fun u k => deliver e p k u) t else t) s

/-- LOGGING_PHASE: the end of the commit phase, as-applied records, notices of the frame, the copy of a page that is
to be retired (R161), telemetry. Marks: DEDUCED (log 67). -/
def execLoggingPhase (s : State) : Result :=
  match s.sys.lastEdge with
  | some e =>
    if s.sys.phase ≠ some .logging ∧ e + 36000 ≤ s.pm ∧ s.pm < e + 40000 then
      let s1 := (laneEnd e s).onSys fun y => { y with phase := some .logging }
      let s2 := s.fe.records.foldl (fun t r => writeLog r t) (s1.onFe fun f => { f with records := [] })
      let s3 := activationDone (startMigration (reportCoast (eventNotices e (rxNotices s.pm (sendTimeMessages (e + 36000) s2)))))
      .next (flushNotices (telemetry e s3))
    else .next s
  | none => .next s

/-! ### The end of a restart (R13, R358, R425) -/

/-- What follows the end of an element's restart. Marks: DESIGN CHOICE (log 83). -/
def afterRestart (el : Element) (s : State) : State :=
  match el with
  | .pair => runHeld (s.onThs fun v => { v with pairMhz := pairMhzOf (logicR s) })
  | .enclave => runHeld (drainStage s)
  | .control => restartLoops s
  | .field => feStart s
  | .gnss => s

/-- ELEMENT_RESTART_COMPLETE: the element runs again, on a clock that is in band. -/
def execElementRestartComplete (el : Element) (s : State) : Result :=
  let x := elemOf s el
  if x.restarting ∧ !x.clockBad then
    .next (afterRestart el (modElem el (fun x => { x with restarting := false, doneAt := some s.pm }) s))
  else .next s

end Sys2Proof.Machine
end

