-- ==== Sys2Proof/Machine/Dispatch.lean ====
section
/-! DEFINITION. The effect of each command on everything but the queue: one arm per row of the table. -/

namespace Sys2Proof.Machine

/-- The effect of a command (the rule of each row is cited at its meaning). -/
def exec (i : Instr) (s : State) : Host.Outcome State Fault Refusal :=
  match i with
  | .sysNop e => Sys2Proof.Machine.execSysNop e s
  | .sysStatus e => Sys2Proof.Machine.execSysStatus e s
  | .sysIdentity e => Sys2Proof.Machine.execSysIdentity e s
  | .sysLinkReset e => Sys2Proof.Machine.execSysLinkReset e s
  | .sysArm e => Sys2Proof.Machine.execSysArm e s
  | .sysManual e => Sys2Proof.Machine.execSysManual e s
  | .sysDisarm e => Sys2Proof.Machine.execSysDisarm e s
  | .sysClearFault e => Sys2Proof.Machine.execSysClearFault e s
  | .sysReset e => Sys2Proof.Machine.execSysReset e s
  | .sysSubscribe e => Sys2Proof.Machine.execSysSubscribe e s
  | .sysWakeSet e => Sys2Proof.Machine.execSysWakeSet e s
  | .pbRead e => Sys2Proof.Machine.execPbRead e s
  | .pbWrite e => Sys2Proof.Machine.execPbWrite e s
  | .pbCommit e => Sys2Proof.Machine.execPbCommit e s
  | .pbRevert e => Sys2Proof.Machine.execPbRevert e s
  | .tcxoClear => Sys2Proof.Machine.execTcxoClear s
  | .relearn c => Sys2Proof.Machine.execRelearn c s
  | .implWrite e => Sys2Proof.Machine.execImplWrite e s
  | .implRead e => Sys2Proof.Machine.execImplRead e s
  | .implCommit e => Sys2Proof.Machine.execImplCommit e s
  | .implRevert e => Sys2Proof.Machine.execImplRevert e s
  | .mapStatus e => Sys2Proof.Machine.execMapStatus e s
  | .mapLoadBegin e => Sys2Proof.Machine.execMapLoadBegin e s
  | .mapLoadData e => Sys2Proof.Machine.execMapLoadData e s
  | .mapLoadEnd e => Sys2Proof.Machine.execMapLoadEnd e s
  | .mapLoadAbort e => Sys2Proof.Machine.execMapLoadAbort e s
  | .mapExportBegin e => Sys2Proof.Machine.execMapExportBegin e s
  | .mapExportRead e => Sys2Proof.Machine.execMapExportRead e s
  | .mapExportAck e => Sys2Proof.Machine.execMapExportAck e s
  | .mapClear e => Sys2Proof.Machine.execMapClear e s
  | .mapLogRead e => Sys2Proof.Machine.execMapLogRead e s
  | .mapLogAck e => Sys2Proof.Machine.execMapLogAck e s
  | .feDirected e => Sys2Proof.Machine.execFeDirected e s
  | .feDirectedClear e => Sys2Proof.Machine.execFeDirectedClear e s
  | .actEvent e => Sys2Proof.Machine.execActEvent e s
  | .actDuty e => Sys2Proof.Machine.execActDuty e s
  | .actFineCmp e => Sys2Proof.Machine.execActFineCmp e s
  | .actClearFault e => Sys2Proof.Machine.execActClearFault e s
  | .ceSetpoint e => Sys2Proof.Machine.execCeSetpoint e s
  | .ceOutput e => Sys2Proof.Machine.execCeOutput e s
  | .ceTableWrite e => Sys2Proof.Machine.execCeTableWrite e s
  | .ceTableRead e => Sys2Proof.Machine.execCeTableRead e s
  | .ceLoopReset e => Sys2Proof.Machine.execCeLoopReset e s
  | .timeGet e => Sys2Proof.Machine.execTimeGet e s
  | .timeStepConfirm e => Sys2Proof.Machine.execTimeStepConfirm e s
  | .gnssRtcm e => Sys2Proof.Machine.execGnssRtcm e s
  | .gnssMeasGet e => Sys2Proof.Machine.execGnssMeasGet e s
  | .posGet e => Sys2Proof.Machine.execPosGet e s
  | .lswSet e => Sys2Proof.Machine.execLswSet e s
  | .lswClearFault e => Sys2Proof.Machine.execLswClearFault e s
  | .pifEncSet e => Sys2Proof.Machine.execPifEncSet e s
  | .pifEventsRead e => Sys2Proof.Machine.execPifEventsRead e s
  | .canPhConfig e => Sys2Proof.Machine.execCanPhConfig e s
  | .canRxRead e => Sys2Proof.Machine.execCanRxRead e s
  | .canTx e => Sys2Proof.Machine.execCanTx e s
  | .canTxAbort e => Sys2Proof.Machine.execCanTxAbort e s
  | .canRecover e => Sys2Proof.Machine.execCanRecover e s
  | .secSessionOpen e => Sys2Proof.Machine.execSecSessionOpen e s
  | .secSessionClose e => Sys2Proof.Machine.execSecSessionClose e s
  | .secServiceChallenge e => Sys2Proof.Machine.execSecServiceChallenge e s
  | .secServiceResponse e => Sys2Proof.Machine.execSecServiceResponse e s
  | .secAttest e => Sys2Proof.Machine.execSecAttest e s
  | .secImageBegin e => Sys2Proof.Machine.execSecImageBegin e s
  | .secImageData e => Sys2Proof.Machine.execSecImageData e s
  | .secImageEnd e => Sys2Proof.Machine.execSecImageEnd e s
  | .secActivate e => Sys2Proof.Machine.execSecActivate e s
  | .secImageStatus e => Sys2Proof.Machine.execSecImageStatus e s
  | .diagRead e => Sys2Proof.Machine.execDiagRead e s
  | .badHeader p => Sys2Proof.Machine.execBadHeader p s
  | .noticeEnvelope p => Sys2Proof.Machine.execNoticeEnvelope p s
  | .linkLost p => Sys2Proof.Machine.execLinkLost p s
  | .pbHostApply => Sys2Proof.Machine.execPbHostApply s
  | .resetAfterReply => Sys2Proof.Machine.execResetAfterReply s
  | .frameEdge f => Sys2Proof.Machine.execFrameEdge f s
  | .decisionPhase => Sys2Proof.Machine.execDecisionPhase s
  | .commitPhase agree => Sys2Proof.Machine.execCommitPhase agree s
  | .loggingPhase => Sys2Proof.Machine.execLoggingPhase s
  | .vkeyHigh => Sys2Proof.Machine.execVkeyHigh s
  | .vkeyLow => Sys2Proof.Machine.execVkeyLow s
  | .keyOffDelayExpiry => Sys2Proof.Machine.execKeyOffDelayExpiry s
  | .wakeAlarm => Sys2Proof.Machine.execWakeAlarm s
  | .vbatStartBand => Sys2Proof.Machine.execVbatStartBand s
  | .brownOut => Sys2Proof.Machine.execBrownOut s
  | .lowSupply => Sys2Proof.Machine.execLowSupply s
  | .lowSupplyExit => Sys2Proof.Machine.execLowSupplyExit s
  | .powerCycle => Sys2Proof.Machine.execPowerCycle s
  | .lossOfGround => Sys2Proof.Machine.execLossOfGround s
  | .groundRestored => Sys2Proof.Machine.execGroundRestored s
  | .reverseBattery => Sys2Proof.Machine.execReverseBattery s
  | .loadDump => Sys2Proof.Machine.execLoadDump s
  | .timeResetRelease => Sys2Proof.Machine.execTimeResetRelease s
  | .imageSetSelect v0 v1 => Sys2Proof.Machine.execImageSetSelect v0 v1 s
  | .domainPowerUp => Sys2Proof.Machine.execDomainPowerUp s
  | .hostPortAlive => Sys2Proof.Machine.execHostPortAlive s
  | .selftestComplete failed => Sys2Proof.Machine.execSelftestComplete failed s
  | .powerDomainSwitch d on => Sys2Proof.Machine.execPowerDomainSwitch d on s
  | .dramTestDone retired => Sys2Proof.Machine.execDramTestDone retired s
  | .pairCheck => Sys2Proof.Machine.execPairCheck s
  | .ceCheck => Sys2Proof.Machine.execCeCheck s
  | .gnssCheck => Sys2Proof.Machine.execGnssCheck s
  | .enclaveCheck => Sys2Proof.Machine.execEnclaveCheck s
  | .clockElement el => Sys2Proof.Machine.execClockElement el s
  | .clockBase clock => Sys2Proof.Machine.execClockBase clock s
  | .clockBaseRestored => Sys2Proof.Machine.execClockBaseRestored s
  | .pllRelock el ok => Sys2Proof.Machine.execPllRelock el ok s
  | .coastExpired => Sys2Proof.Machine.execCoastExpired s
  | .elementRestartComplete el => Sys2Proof.Machine.execElementRestartComplete el s
  | .safeIn => Sys2Proof.Machine.execSafeIn s
  | .rowBusoffGraceExpiry => Sys2Proof.Machine.execRowBusoffGraceExpiry s
  | .boost => Sys2Proof.Machine.execBoost s
  | .boostRetry ok => Sys2Proof.Machine.execBoostRetry ok s
  | .measurementEpoch m => Sys2Proof.Machine.execMeasurementEpoch m s
  | .holdoverEntry => Sys2Proof.Machine.execHoldoverEntry s
  | .holdoverLimitExpiry => Sys2Proof.Machine.execHoldoverLimitExpiry s
  | .ppsPulse => Sys2Proof.Machine.execPpsPulse s
  | .ppsPulseEnd => Sys2Proof.Machine.execPpsPulseEnd s
  | .tcxoTempUpdate t => Sys2Proof.Machine.execTcxoTempUpdate t s
  | .acqDwellEnd d => Sys2Proof.Machine.execAcqDwellEnd d s
  | .warmSearchTimer => Sys2Proof.Machine.execWarmSearchTimer s
  | .pullInTimeout c => Sys2Proof.Machine.execPullInTimeout c s
  | .bitSync c changes => Sys2Proof.Machine.execBitSync c changes s
  | .frameSync c f => Sys2Proof.Machine.execFrameSync c f s
  | .lnavWord c w => Sys2Proof.Machine.execLnavWord c w s
  | .ephemerisAccept prn => Sys2Proof.Machine.execEphemerisAccept prn s
  | .channelLoss c => Sys2Proof.Machine.execChannelLoss c s
  | .antOpen ma => Sys2Proof.Machine.execAntOpen ma s
  | .antShort ma => Sys2Proof.Machine.execAntShort ma s
  | .antBiasRetry ma => Sys2Proof.Machine.execAntBiasRetry ma s
  | .rtcmFrame => Sys2Proof.Machine.execRtcmFrame s
  | .rtcmTimeout => Sys2Proof.Machine.execRtcmTimeout s
  | .ambiguityCandidate sats ints ratio => Sys2Proof.Machine.execAmbiguityCandidate sats ints ratio s
  | .odoStale k => Sys2Proof.Machine.execOdoStale k s
  | .eventExecute b => Sys2Proof.Machine.execEventExecute b s
  | .reservedStart c => Sys2Proof.Machine.execReservedStart c s
  | .feedToVbst b => Sys2Proof.Machine.execFeedToVbst b s
  | .windowEnd b => Sys2Proof.Machine.execWindowEnd b s
  | .guardEnd b => Sys2Proof.Machine.execGuardEnd b s
  | .pullInEnd c l0 => Sys2Proof.Machine.execPullInEnd c l0 s
  | .fastDecayEnd c energy => Sys2Proof.Machine.execFastDecayEnd c energy s
  | .decayEnd c energy => Sys2Proof.Machine.execDecayEnd c energy s
  | .openingSignature c g => Sys2Proof.Machine.execOpeningSignature c g s
  | .closingSignature c g energy => Sys2Proof.Machine.execClosingSignature c g energy s
  | .openingSearchEnd c => Sys2Proof.Machine.execOpeningSearchEnd c s
  | .boostLimit avgMw => Sys2Proof.Machine.execBoostLimit avgMw s
  | .vbstSag vbst => Sys2Proof.Machine.execVbstSag vbst s
  | .returnSuspended vbat => Sys2Proof.Machine.execReturnSuspended vbat s
  | .recoveryDivert vbst => Sys2Proof.Machine.execRecoveryDivert vbst s
  | .openLoad c ma => Sys2Proof.Machine.execOpenLoad c ma s
  | .offStateTest c low excessMa => Sys2Proof.Machine.execOffStateTest c low excessMa s
  | .overcurrent c => Sys2Proof.Machine.execOvercurrent c s
  | .overload c meanMa => Sys2Proof.Machine.execOverload c meanMa s
  | .stageHot c t => Sys2Proof.Machine.execStageHot c t s
  | .feedOc b => Sys2Proof.Machine.execFeedOc b s
  | .retryRelease t => Sys2Proof.Machine.execRetryRelease t s
  | .coilResistanceMeasure c r first second => Sys2Proof.Machine.execCoilResistanceMeasure c r first second s
  | .coilCooled c => Sys2Proof.Machine.execCoilCooled c s
  | .bankReconnectTestEnd b short => Sys2Proof.Machine.execBankReconnectTestEnd b short s
  | .bankBoundary b => Sys2Proof.Machine.execBankBoundary b s
  | .gridOpening c => Sys2Proof.Machine.execGridOpening c s
  | .gridClosing c => Sys2Proof.Machine.execGridClosing c s
  | .finePeriodStart g => Sys2Proof.Machine.execFinePeriodStart g s
  | .gateTransition g rising cross => Sys2Proof.Machine.execGateTransition g rising cross s
  | .trigOutPulse j => Sys2Proof.Machine.execTrigOutPulse j s
  | .trigOutPulseEnd j => Sys2Proof.Machine.execTrigOutPulseEnd j s
  | .loopEvaluation k => Sys2Proof.Machine.execLoopEvaluation k s
  | .deadlineMiss k => Sys2Proof.Machine.execDeadlineMiss k s
  | .flowImbalance j => Sys2Proof.Machine.execFlowImbalance j s
  | .encoderTransition j ba => Sys2Proof.Machine.execEncoderTransition j ba s
  | .index j ba => Sys2Proof.Machine.execIndex j ba s
  | .hallTransition j wvu => Sys2Proof.Machine.execHallTransition j wvu s
  | .hallIllegal j => Sys2Proof.Machine.execHallIllegal j s
  | .freqEdge j => Sys2Proof.Machine.execFreqEdge j s
  | .eventEdge j falling => Sys2Proof.Machine.execEventEdge j falling s
  | .analogConversion j mv => Sys2Proof.Machine.execAnalogConversion j mv s
  | .emuOutputStep x => Sys2Proof.Machine.execEmuOutputStep x s
  | .inrushStep c => Sys2Proof.Machine.execInrushStep c s
  | .lswOpenLoad c present => Sys2Proof.Machine.execLswOpenLoad c present s
  | .lswShortBat c present => Sys2Proof.Machine.execLswShortBat c present s
  | .lswShort c => Sys2Proof.Machine.execLswShort c s
  | .lswOverload c => Sys2Proof.Machine.execLswOverload c s
  | .lswOvertemp c t => Sys2Proof.Machine.execLswOvertemp c t s
  | .thermLatchRelease c t => Sys2Proof.Machine.execThermLatchRelease c t s
  | .aggregate meanMa => Sys2Proof.Machine.execAggregate meanMa s
  | .aggregateShedStep meanMa => Sys2Proof.Machine.execAggregateShedStep meanMa s
  | .lswRetryDue c => Sys2Proof.Machine.execLswRetryDue c s
  | .lswPulseOpening c => Sys2Proof.Machine.execLswPulseOpening c s
  | .lswPulseClosing c => Sys2Proof.Machine.execLswPulseClosing c s
  | .offAfterExpiry c => Sys2Proof.Machine.execOffAfterExpiry c s
  | .keyoffHoldEnd c => Sys2Proof.Machine.execKeyoffHoldEnd c s
  | .warn z sensor t => Sys2Proof.Machine.execWarn z sensor t s
  | .throttle z sensor t => Sys2Proof.Machine.execThrottle z sensor t s
  | .sensorBroken z sensor => Sys2Proof.Machine.execSensorBroken z sensor s
  | .rateTrip z sensor t => Sys2Proof.Machine.execRateTrip z sensor t s
  | .shutdown z sensor t => Sys2Proof.Machine.execShutdown z sensor t s
  | .canFrameReceive x f => Sys2Proof.Machine.execCanFrameReceive x f s
  | .canTxStart x => Sys2Proof.Machine.execCanTxStart x s
  | .canTxEnd x r => Sys2Proof.Machine.execCanTxEnd x r s
  | .canDeadlineExpiry x slot => Sys2Proof.Machine.execCanDeadlineExpiry x slot s
  | .busoffRecoveryComplete x => Sys2Proof.Machine.execBusoffRecoveryComplete x s
  | .busRejoin x => Sys2Proof.Machine.execBusRejoin x s
  | .addressClaim => Sys2Proof.Machine.execAddressClaim s
  | .addressClaimTimer => Sys2Proof.Machine.execAddressClaimTimer s
  | .sync => Sys2Proof.Machine.execSync s
  | .allOffRepeat => Sys2Proof.Machine.execAllOffRepeat s
  | .reportWaitExpiry => Sys2Proof.Machine.execReportWaitExpiry s
  | .rowNodeLost n => Sys2Proof.Machine.execRowNodeLost n s
  | .scrub errs => Sys2Proof.Machine.execScrub errs s
  | .dirtyWriteback => Sys2Proof.Machine.execDirtyWriteback s
  | .maskBuilt => Sys2Proof.Machine.execMaskBuilt s
  | .loadTimeout => Sys2Proof.Machine.execLoadTimeout s
  | .exportTimeout => Sys2Proof.Machine.execExportTimeout s
  | .logSeal => Sys2Proof.Machine.execLogSeal s
  | .trackRecord => Sys2Proof.Machine.execTrackRecord s
  | .latencySave => Sys2Proof.Machine.execLatencySave s
  | .activationPrepared => Sys2Proof.Machine.execActivationPrepared s
  | .trialPassed j => Sys2Proof.Machine.execTrialPassed j s
  | .serviceSessionExpiry => Sys2Proof.Machine.execServiceSessionExpiry s
  | .tamper => Sys2Proof.Machine.execTamper s
  | .safeInRelease => Sys2Proof.Machine.execSafeInRelease s
  | .badOpcode op e => Sys2Proof.Machine.execBadOpcode op e s
  | .imageVerified => Sys2Proof.Machine.execImageVerified s
  | .stageHotRelease c t => Sys2Proof.Machine.execStageHotRelease c t s
  | .pullInComplete c => Sys2Proof.Machine.execPullInComplete c s
  | .phaseLock c mean => Sys2Proof.Machine.execPhaseLock c mean s
  | .receiveError x recUp => Sys2Proof.Machine.execReceiveError x recUp s
  | .acqIdleGate => Sys2Proof.Machine.execAcqIdleGate s

end Sys2Proof.Machine
end

