-- ==== Sys2Proof/Machine/Tick.lean ====
section
/-! DEFINITION. A tick of the clock with no command waiting (log entry 1). -/

namespace Sys2Proof.Machine

/-- A port sends the front of its outbound path; its own credit comes back with it (R357, R359). Marks: DESIGN CHOICE
(log 1). -/
def PortSt.sendFront (q : PortSt) : PortSt :=
  match q.out with
  | [] => q
  | o :: os => { q with out := os, credits := min 8 (q.credits + o.credit) }

/-- The tunnel takes the front of its path apart once the bytes before it are in frames (R350). Marks: DESIGN CHOICE
(log 1). -/
def PortSt.tunnelFront (q : PortSt) : PortSt :=
  match q.out with
  | [] => q
  | o :: _ => if q.tunOut = [] then { q.sendFront with tunOut := o.bytes, tunSub := o.body.subscription } else q

/-- The next tunnel frame goes into its slot, where that is free: 7 stream bytes, or 63 in an FD frame; what the DLC
holds beyond the last byte is fill (R350, R354). Marks: DESIGN CHOICE (log 1). -/
def tunnelSend (s : State) : State :=
  let q := s.host.port[(2 : Fin 3)]
  match tunCtl s, idx? 32 (tunSlot s) with
  | some x, some k =>
    if q.tunOut = [] ∨ s.can.ctl[x].slots[k].st ≠ .free ∨ !onBus s x then s
    else
      let n := if tunFd s then 63 else 7
      let data := leBytes 1 q.tunTx.toNat ++ q.tunOut.take n
      let d := descOf (tunTxId s) (tunIde s) (tunFd s) (tunFd s && brsEn s x) (dlcFor data.length) 15 0 data
      loadSlot x k .tunnel d (modPort .tunnel (fun q => { q with tunOut := q.tunOut.drop n, tunTx := q.tunTx + 1 }) s)
  | _, _ => s

/-- The clocks: PD0's always, the postmark counter once TIME has left reset (R32). Marks: DESIGN CHOICE (log 1),
DEDUCED (log 8). -/
def runClocks (s : State) : State :=
  { s with pd0 := { s.pd0 with now := s.pd0.now + 1 }, pm := if s.running then s.pm + 1 else s.pm }

/-- Every port's outbound path moves on. Marks: DESIGN CHOICE (log 1). -/
def sendPorts (s : State) : State :=
  s.onHost fun h => { h with port := vmapIdx h.port fun k q => if k = 2 then q.tunnelFront else q.sendFront }

/-- One tick: the ports send, the clocks advance. Marks: DESIGN CHOICE (log 1). -/
def tick (s : State) : State := runClocks (tunnelSend (sendPorts s))

end Sys2Proof.Machine
end

