-- ==== Sys2Proof/Safety.lean ====
section
/-! DEFINITION. The terms claims are stated in: the parts of the state and what a command may change. -/

namespace Sys2Proof.Machine

/-- The parts of the state: its fields. -/
inductive Part where
  | pending | pm | running | free | sys | pwr | pd0 | nor | act | shd | host | safe | time | gnss | pos | impl | fe | map | vdr
  | pwu | ce | pif | lsw | ths | can | sec
deriving DecidableEq, Repr

/-- A part is the same in two states. -/
def Part.same : Part → State → State → Prop
  | .pending, s, t => t.pending = s.pending
  | .pm, s, t => t.pm = s.pm
  | .running, s, t => t.running = s.running
  | .free, s, t => t.free = s.free
  | .sys, s, t => t.sys = s.sys
  | .pwr, s, t => t.pwr = s.pwr
  | .pd0, s, t => t.pd0 = s.pd0
  | .nor, s, t => t.nor = s.nor
  | .act, s, t => t.act = s.act
  | .shd, s, t => t.shd = s.shd
  | .host, s, t => t.host = s.host
  | .safe, s, t => t.safe = s.safe
  | .time, s, t => t.time = s.time
  | .gnss, s, t => t.gnss = s.gnss
  | .pos, s, t => t.pos = s.pos
  | .impl, s, t => t.impl = s.impl
  | .fe, s, t => t.fe = s.fe
  | .map, s, t => t.map = s.map
  | .vdr, s, t => t.vdr = s.vdr
  | .pwu, s, t => t.pwu = s.pwu
  | .ce, s, t => t.ce = s.ce
  | .pif, s, t => t.pif = s.pif
  | .lsw, s, t => t.lsw = s.lsw
  | .ths, s, t => t.ths = s.ths
  | .can, s, t => t.can = s.can
  | .sec, s, t => t.sec = s.sec

/-- Nothing but the listed parts differs between two states. -/
structure Only (l : List Part) (s t : State) : Prop where
  same : ∀ p, p ∉ l → p.same s t

/-! ### Reports -/

/-- Two states differ by reports only: the notice limiter, the notices queued at the ports and what they
count as lost, and the fault log. -/
structure Noted (s t : State) : Prop where
  only : Only [.sys, .pd0, .host] s t
  sys : t.sys = { s.sys with limiter := t.sys.limiter }
  pd0 : t.pd0 = { s.pd0 with faultLog := t.pd0.faultLog }
  host : t.host = { s.host with port := t.host.port }
  port : ∀ p : Port, portOf t p = { portOf s p with
    notices := (portOf t p).notices, noticesLost := (portOf t p).noticesLost, lostPm := (portOf t p).lostPm }

/-- The fault log of PD0 holds a record of a cause at an index. -/
def Logged (cause index : Nat) (s : State) : Prop := ∃ f ∈ s.pd0.faultLog, f.cause = cause ∧ f.index = index

/-- The records of a cause at an index that were active carry END_PM now; the others stand as they were. -/
def Ended (cause index : Nat) (s t : State) : Prop := t.pd0.faultLog = s.pd0.faultLog.map (FaultEntry.endFor cause index s.pm)

/-- The device is in a state, coming from one, for a cause (R27). -/
def Entered (d prev : DevState) (cause : Nat) (s : State) : Prop := s.sys.dev = d ∧ s.sys.prev = prev ∧ s.sys.cause = cause

/-- The device did not come to ARMED or MANUAL straight from SAFE, QUARANTINE or LATCHED (R27). -/
def DriveEntered (s : State) : Prop :=
  s.sys.dev = .armed ∨ s.sys.dev = .manual → s.sys.prev ≠ .safe ∧ s.sys.prev ≠ .quarantine ∧ s.sys.prev ≠ .latched

/-- The commands that may change the device's state (R24): faults that lead to COAST, SAFE or LATCHED, supply events, START,
frame edges, the ends of COAST and of a fault's conditions. No request does: its transition waits for a frame edge. -/
def changesState : Instr → Bool
  | .linkLost _ | .resetAfterReply | .frameEdge _ | .loggingPhase | .vkeyHigh | .keyOffDelayExpiry | .wakeAlarm
  | .vbatStartBand | .brownOut | .powerCycle | .reverseBattery | .imageSetSelect _ _ | .domainPowerUp
  | .selftestComplete _ | .pairCheck | .ceCheck | .gnssCheck | .enclaveCheck | .clockElement _ | .clockBase _
  | .coastExpired | .safeIn | .rowBusoffGraceExpiry | .offStateTest _ _ _ | .feedOc _ | .bankReconnectTestEnd _ _
  | .deadlineMiss _ | .warn _ _ _ | .throttle _ _ _ | .sensorBroken _ _ | .rateTrip _ _ _ | .shutdown _ _ _ => true
  | _ => false

/-! ### What every step keeps -/

/-- A port: at most 8 credits (R356), 255 notice credits, 8 recorded requests (R357) and 16 KiB of queued notices (R362). -/
def PortInv (q : PortSt) : Prop :=
  q.credits ≤ 8 ∧ q.noticeCredits ≤ 255 ∧ q.replay.length ≤ 8 ∧ noticesSize q.notices ≤ 16384

/-- Every host port. -/
def HostInv (h : HostSt) : Prop := ∀ p : Fin 3, PortInv h.port[p]

/-- The as-applied log: at most 128 staged appends (19), at most 124 records in the open block (R181), at most 512 blocks,
and a place for the open one (R183). -/
def MapInv (m : MapSt) : Prop :=
  m.stage.length ≤ 128 ∧ m.log.length < 124 ∧ m.ring.length ≤ 512 ∧ (m.log ≠ [] → m.ring.length < 512)

/-- The stores of the device keep within their sizes; both fault logs hold at most 64 entries (R434). -/
structure Inv (s : State) : Prop where
  pd0 : s.pd0.faultLog.length ≤ 64
  nor : s.nor.faultLog.length ≤ 64
  host : HostInv s.host
  map : MapInv s.map

/-! ### Requests -/

/-- A request envelope passes every check of R354 and is new to its port: its port listens (R353), header CRC and length
are good (rows 1 and 2), no bit the device reserves is set and the version is 1 (rows 3 and 4), a credit is free (row 5), the
payload CRC agrees (row 6), its tag verifies with counter `n` (row 7; 0 for an unsealed one), it repeats no request held or
recorded (R357), and no element it needs restarts (R358). -/
structure Accepted (op : BitVec 16) (e : Env) (n : Nat) (s : State) : Prop where
  listens : portListens s e.port = true
  header : headerBad op e = false
  bits : e.noticeBit = false ∧ e.moreBit = false ∧ e.rsvdA = 0 ∧ e.rsvdB = 0
  version : e.version = 1
  credit : (portOf s e.port).credits ≠ 0
  crc : payloadCrc e.payload = e.payCrc.toNat
  tag : tagCounter op e s = some n
  unheld : stillHeld e s = false
  new : replayOf e s = none
  ready : mustWait op s = false

/-- The state in which an accepted request executes: the link supervised, a credit taken, tag and SEQUENCE noted. -/
def admitted (e : Env) (n : Nat) (s : State) : State := checkSeq e (passTag e n (takeCredit e.port (validHeader e s)))

/-- A request executed with an effect and answered at once. -/
def finish (op : BitVec 16) (e : Env) (n : Nat) (s : State) (f : State → State × Answer) : State :=
  answer (sessionOf e (admitted e n s)) op e n (f (admitted e n s)).2 (f (admitted e n s)).1

/-! ### What a command may change -/

/-- The parts of the state a command may change; every other part it leaves as it is. A request may change what its port
does with any request (`host`, the limiter in `sys`, LINK_LOST's entry in `pd0`, a session's debug port in `sec`) and what
its own effect names. -/
def partsOf : Instr → List Part
  | .sysNop _ => [.sys, .pd0, .host, .sec]
  | .sysStatus _ => [.sys, .pd0, .host, .sec]
  | .sysIdentity _ => [.sys, .pd0, .host, .sec]
  | .sysLinkReset _ => [.sys, .pd0, .host, .sec]
  | .sysArm _ => [.sys, .pd0, .host, .sec]
  | .sysManual _ => [.sys, .pd0, .host, .sec]
  | .sysDisarm _ => [.sys, .pd0, .host, .sec]
  | .sysClearFault _ => [.sys, .pd0, .host, .sec]
  | .sysReset _ => [.sys, .pd0, .host, .sec]
  | .sysSubscribe _ => [.sys, .pd0, .host, .sec]
  | .sysWakeSet _ => [.sys, .pd0, .host, .sec]
  | .pbRead _ => [.sys, .pd0, .host, .sec]
  | .pbWrite _ => [.sys, .pd0, .shd, .host, .sec]
  | .pbCommit _ => [.sys, .pd0, .host, .sec]
  | .pbRevert _ => [.sys, .pd0, .shd, .host, .sec]
  | .tcxoClear => [.pd0]
  | .relearn _ => [.nor, .act, .shd, .vdr]
  | .implWrite _ => [.sys, .pd0, .host, .impl, .sec]
  | .implRead _ => [.sys, .pd0, .host, .sec]
  | .implCommit _ => [.sys, .pd0, .host, .sec]
  | .implRevert _ => [.sys, .pd0, .host, .impl, .sec]
  | .mapStatus _ => [.sys, .pd0, .host, .sec]
  | .mapLoadBegin _ => [.sys, .pd0, .host, .map, .sec]
  | .mapLoadData _ => [.sys, .pd0, .host, .map, .sec]
  | .mapLoadEnd _ => [.sys, .pd0, .host, .map, .sec]
  | .mapLoadAbort _ => [.sys, .pd0, .host, .map, .sec]
  | .mapExportBegin _ => [.sys, .pd0, .host, .map, .sec]
  | .mapExportRead _ => [.sys, .pd0, .host, .map, .sec]
  | .mapExportAck _ => [.sys, .pd0, .host, .map, .sec]
  | .mapClear _ => [.sys, .pd0, .host, .sec]
  | .mapLogRead _ => [.sys, .pd0, .host, .map, .sec]
  | .mapLogAck _ => [.sys, .pd0, .host, .map, .sec]
  | .feDirected _ => [.sys, .pd0, .host, .fe, .sec]
  | .feDirectedClear _ => [.sys, .pd0, .host, .fe, .sec]
  | .actEvent _ => [.free, .sys, .pd0, .host, .fe, .vdr, .sec]
  | .actDuty _ => [.sys, .pd0, .host, .sec]
  | .actFineCmp _ => [.sys, .pd0, .host, .pwu, .sec]
  | .actClearFault _ => [.sys, .pd0, .host, .fe, .vdr, .sec]
  | .ceSetpoint _ => [.sys, .pd0, .host, .sec]
  | .ceOutput _ => [.sys, .pd0, .host, .sec]
  | .ceTableWrite _ => [.sys, .pd0, .host, .ce, .sec]
  | .ceTableRead _ => [.sys, .pd0, .host, .sec]
  | .ceLoopReset _ => [.sys, .pd0, .host, .sec]
  | .timeGet _ => [.sys, .pd0, .host, .sec]
  | .timeStepConfirm _ => [.sys, .pd0, .host, .time, .sec]
  | .gnssRtcm _ => [.sys, .pd0, .host, .gnss, .sec]
  | .gnssMeasGet _ => [.sys, .pd0, .host, .sec]
  | .posGet _ => [.sys, .pd0, .host, .sec]
  | .lswSet _ => [.sys, .pd0, .host, .sec]
  | .lswClearFault _ => [.sys, .pd0, .host, .lsw, .sec]
  | .pifEncSet _ => [.sys, .pd0, .host, .sec]
  | .pifEventsRead _ => [.sys, .pd0, .host, .pif, .sec]
  | .canPhConfig _ => [.sys, .pd0, .host, .sec]
  | .canRxRead _ => [.sys, .pd0, .host, .can, .sec]
  | .canTx _ => [.sys, .pd0, .host, .can, .sec]
  | .canTxAbort _ => [.sys, .pd0, .host, .can, .sec]
  | .canRecover _ => [.sys, .pd0, .host, .can, .sec]
  | .secSessionOpen _ => [.free, .sys, .pd0, .host, .sec]
  | .secSessionClose _ => [.sys, .pd0, .host, .sec]
  | .secServiceChallenge _ => [.free, .sys, .pd0, .host, .sec]
  | .secServiceResponse _ => [.free, .sys, .pd0, .host, .sec]
  | .secAttest _ => [.sys, .pd0, .host, .sec]
  | .secImageBegin _ => [.sys, .pd0, .host, .sec]
  | .secImageData _ => [.sys, .pd0, .host, .sec]
  | .secImageEnd _ => [.sys, .pd0, .host, .sec]
  | .secActivate _ => [.sys, .pd0, .host, .sec]
  | .secImageStatus _ => [.sys, .pd0, .host, .sec]
  | .diagRead _ => [.sys, .pd0, .host, .sec]
  | .badHeader _ => [.sys, .host]
  | .noticeEnvelope _ => [.host]
  | .linkLost _ => [.sys, .pd0, .host, .safe, .fe, .map, .vdr, .pwu, .lsw, .can, .sec]
  | .pbHostApply => [.act, .shd, .host]
  | .resetAfterReply => [.pm, .running, .sys, .pwr, .pd0, .nor, .act, .shd, .host, .safe, .time, .gnss, .pos, .impl, .fe, .map, .vdr, .pwu, .ce, .pif, .lsw, .ths, .can, .sec]
  | .frameEdge _ => [.free, .sys, .pwr, .pd0, .nor, .act, .shd, .host, .safe, .time, .gnss, .pos, .impl, .fe, .map, .vdr, .pwu, .ce, .pif, .lsw, .ths, .can, .sec]
  | .decisionPhase => [.sys, .pd0, .host, .fe, .map]
  | .commitPhase _ => [.sys, .pd0, .host, .safe, .fe, .map, .vdr, .pwu, .can, .sec]
  | .loggingPhase => [.free, .sys, .pwr, .pd0, .host, .safe, .time, .gnss, .fe, .map, .vdr, .pwu, .pif, .lsw, .ths, .can, .sec]
  | .vkeyHigh => [.pm, .running, .sys, .pwr, .pd0, .nor, .act, .shd, .host, .safe, .time, .gnss, .pos, .impl, .fe, .map, .vdr, .pwu, .ce, .pif, .lsw, .ths, .can, .sec]
  | .vkeyLow => [.sys, .pwr, .pd0, .host, .map, .sec]
  | .keyOffDelayExpiry => [.pm, .running, .sys, .pwr, .pd0, .nor, .act, .shd, .host, .safe, .time, .gnss, .pos, .impl, .fe, .map, .vdr, .pwu, .ce, .pif, .lsw, .ths, .can, .sec]
  | .wakeAlarm => [.pm, .running, .sys, .pwr, .pd0, .nor, .act, .shd, .host, .safe, .time, .gnss, .pos, .impl, .fe, .map, .vdr, .pwu, .ce, .pif, .lsw, .ths, .can, .sec]
  | .vbatStartBand => [.pm, .running, .sys, .pwr, .pd0, .nor, .act, .shd, .host, .safe, .time, .gnss, .pos, .impl, .fe, .map, .vdr, .pwu, .ce, .pif, .lsw, .ths, .can, .sec]
  | .brownOut => [.pm, .running, .sys, .pwr, .pd0, .act, .shd, .host, .safe, .time, .gnss, .pos, .impl, .fe, .map, .vdr, .pwu, .ce, .pif, .lsw, .ths, .can, .sec]
  | .lowSupply => [.sys, .pwr, .pd0, .host]
  | .lowSupplyExit => [.sys, .pwr, .pd0, .host]
  | .powerCycle => [.pm, .running, .sys, .pwr, .pd0, .act, .shd, .host, .safe, .time, .gnss, .pos, .impl, .fe, .map, .vdr, .pwu, .ce, .pif, .lsw, .ths, .can, .sec]
  | .lossOfGround => [.sys, .pwr, .pd0, .host, .map, .vdr, .pwu, .lsw]
  | .groundRestored => [.pwr]
  | .reverseBattery => [.pm, .running, .sys, .pwr, .pd0, .act, .shd, .host, .safe, .time, .gnss, .pos, .impl, .fe, .map, .vdr, .pwu, .ce, .pif, .lsw, .ths, .can, .sec]
  | .loadDump => [.sys, .pwr, .pd0, .host]
  | .timeResetRelease => [.pm, .running, .free, .sys, .pwr, .lsw, .sec]
  | .imageSetSelect _ _ => [.pm, .running, .free, .sys, .pwr, .pd0, .nor, .act, .shd, .host, .safe, .time, .gnss, .pos, .impl, .fe, .map, .vdr, .pwu, .ce, .pif, .lsw, .ths, .can, .sec]
  | .domainPowerUp => [.sys, .pwr, .pd0, .host, .safe, .time, .fe, .map, .vdr, .pwu, .lsw, .can, .sec]
  | .hostPortAlive => [.sys, .pd0, .host]
  | .selftestComplete _ => [.free, .sys, .pwr, .pd0, .host, .safe, .time, .pos, .fe, .map, .vdr, .pwu, .ce, .lsw, .can, .sec]
  | .powerDomainSwitch _ _ => [.free, .running, .sys, .pwr, .host, .time, .gnss, .pos, .impl, .fe, .map, .vdr, .pwu, .ce, .pif, .lsw, .ths, .can, .sec]
  | .dramTestDone _ => [.sys, .pd0, .host, .map]
  | .pairCheck => [.free, .sys, .pwr, .pd0, .host, .safe, .gnss, .fe, .map, .vdr, .pwu, .lsw, .ths, .can, .sec]
  | .ceCheck => [.free, .sys, .pwr, .pd0, .host, .safe, .gnss, .fe, .map, .vdr, .pwu, .lsw, .ths, .can, .sec]
  | .gnssCheck => [.free, .sys, .pwr, .pd0, .host, .safe, .gnss, .fe, .map, .vdr, .pwu, .lsw, .ths, .can, .sec]
  | .enclaveCheck => [.free, .sys, .pwr, .pd0, .host, .safe, .gnss, .fe, .map, .vdr, .pwu, .lsw, .ths, .can, .sec]
  | .clockElement _ => [.free, .sys, .pwr, .pd0, .host, .safe, .gnss, .fe, .map, .vdr, .pwu, .lsw, .ths, .can, .sec]
  | .clockBase _ => [.sys, .pwr, .pd0, .host, .safe, .fe, .map, .vdr, .pwu, .lsw, .can, .sec]
  | .clockBaseRestored => [.sys, .pwr, .pd0, .host]
  | .pllRelock _ _ => [.sys, .host, .safe]
  | .coastExpired => [.free, .sys, .pd0, .host, .safe, .fe, .map, .vdr, .pwu, .lsw, .can, .sec]
  | .elementRestartComplete _ => [.free, .sys, .pd0, .shd, .host, .safe, .time, .gnss, .impl, .fe, .map, .vdr, .pwu, .ce, .pif, .lsw, .ths, .can, .sec]
  | .safeIn => [.sys, .pd0, .host, .safe, .fe, .map, .vdr, .pwu, .lsw, .can, .sec]
  | .rowBusoffGraceExpiry => [.sys, .pd0, .host, .safe, .fe, .map, .vdr, .pwu, .lsw, .can, .sec]
  | .boost => [.sys, .pd0, .host, .vdr]
  | .boostRetry _ => [.sys, .pd0, .host, .vdr]
  | .measurementEpoch _ => [.sys, .pd0, .host, .time, .gnss, .map]
  | .holdoverEntry => [.sys, .pd0, .host, .time, .map]
  | .holdoverLimitExpiry => [.sys, .pd0, .host, .time, .map]
  | .ppsPulse => [.sys, .pd0, .host, .time, .map]
  | .ppsPulseEnd => [.time]
  | .tcxoTempUpdate _ => [.pd0, .time]
  | .acqDwellEnd _ => [.pwr, .gnss]
  | .warmSearchTimer => [.pwr, .gnss]
  | .pullInTimeout _ => [.pwr, .gnss]
  | .bitSync _ _ => [.gnss]
  | .frameSync _ _ => [.gnss]
  | .lnavWord _ _ => [.time, .gnss]
  | .ephemerisAccept _ => [.sys, .host, .gnss]
  | .channelLoss _ => [.pwr, .gnss]
  | .antOpen _ => [.sys, .host, .gnss]
  | .antShort _ => [.sys, .host, .gnss]
  | .antBiasRetry _ => [.sys, .host, .gnss]
  | .rtcmFrame => [.sys, .host, .gnss]
  | .rtcmTimeout => [.gnss]
  | .ambiguityCandidate _ _ _ => [.pos]
  | .odoStale _ => [.pos]
  | .eventExecute _ => [.sys, .pd0, .host, .time, .map, .vdr, .pwu]
  | .reservedStart _ => [.sys, .pd0, .host, .time, .map, .vdr, .pwu]
  | .feedToVbst _ => [.vdr]
  | .windowEnd _ => [.vdr]
  | .guardEnd _ => [.vdr]
  | .pullInEnd _ _ => [.sys, .pd0, .nor, .act, .shd, .host, .map, .vdr]
  | .fastDecayEnd _ _ => [.vdr]
  | .decayEnd _ _ => [.sys, .pd0, .host, .time, .map, .vdr, .pwu]
  | .openingSignature _ _ => [.sys, .pd0, .host, .map, .vdr]
  | .closingSignature _ _ _ => [.sys, .pd0, .host, .time, .map, .vdr, .pwu]
  | .openingSearchEnd _ => [.sys, .pd0, .host, .map, .vdr]
  | .boostLimit _ => [.sys, .host, .vdr]
  | .vbstSag _ => [.sys, .host, .vdr]
  | .returnSuspended _ => [.sys, .pwr, .pd0, .host, .vdr]
  | .recoveryDivert _ => [.sys, .host, .vdr]
  | .openLoad _ _ => [.sys, .pd0, .host, .vdr]
  | .offStateTest _ _ _ => [.sys, .pd0, .host, .safe, .fe, .map, .vdr, .pwu, .lsw, .can, .sec]
  | .overcurrent _ => [.sys, .pd0, .host, .map, .vdr]
  | .overload _ _ => [.sys, .pd0, .host, .map, .vdr]
  | .stageHot _ _ => [.sys, .pd0, .host, .safe, .time, .fe, .map, .vdr, .pwu, .lsw, .ths, .can, .sec]
  | .feedOc _ => [.sys, .pd0, .host, .safe, .fe, .map, .vdr, .pwu, .lsw, .can, .sec]
  | .retryRelease _ => [.sys, .pd0, .host, .vdr]
  | .coilResistanceMeasure _ _ _ _ => [.sys, .pd0, .nor, .act, .shd, .host, .map, .vdr]
  | .coilCooled _ => [.sys, .pd0, .host, .vdr]
  | .bankReconnectTestEnd _ _ => [.sys, .pd0, .host, .safe, .fe, .map, .vdr, .pwu, .lsw, .can, .sec]
  | .bankBoundary _ => [.sys, .host, .pwu]
  | .gridOpening _ => [.sys, .pd0, .host, .time, .map, .vdr, .pwu]
  | .gridClosing _ => [.sys, .pd0, .host, .map, .vdr, .pwu]
  | .finePeriodStart _ => [.sys, .host, .pwu]
  | .gateTransition _ _ _ => [.sys, .host, .pwu]
  | .trigOutPulse _ => [.sys, .host, .pwu]
  | .trigOutPulseEnd _ => [.pwu]
  | .loopEvaluation _ => [.sys, .pd0, .host, .pwu, .ce, .lsw]
  | .deadlineMiss _ => [.sys, .pd0, .host, .safe, .fe, .map, .vdr, .pwu, .ce, .lsw, .can, .sec]
  | .flowImbalance _ => [.sys, .host, .ce]
  | .encoderTransition _ _ => [.sys, .host, .pif]
  | .index _ _ => [.sys, .host, .pif]
  | .hallTransition _ _ => [.sys, .host, .pif]
  | .hallIllegal _ => [.sys, .host, .pif]
  | .freqEdge _ => [.sys, .host, .pif]
  | .eventEdge _ _ => [.sys, .host, .pif]
  | .analogConversion _ _ => [.sys, .host, .pwu, .pif]
  | .emuOutputStep _ => [.sys, .host, .pif]
  | .inrushStep _ => [.lsw]
  | .lswOpenLoad _ _ => [.sys, .pd0, .host, .lsw]
  | .lswShortBat _ _ => [.sys, .pd0, .host, .lsw]
  | .lswShort _ => [.sys, .pd0, .host, .lsw]
  | .lswOverload _ => [.sys, .pd0, .host, .lsw]
  | .lswOvertemp _ _ => [.sys, .pd0, .host, .safe, .time, .fe, .map, .vdr, .pwu, .lsw, .ths, .can, .sec]
  | .thermLatchRelease _ _ => [.sys, .pd0, .host, .safe, .time, .fe, .map, .vdr, .pwu, .lsw, .ths, .can, .sec]
  | .aggregate _ => [.sys, .pd0, .host, .lsw]
  | .aggregateShedStep _ => [.sys, .pd0, .host, .lsw]
  | .lswRetryDue _ => [.sys, .pd0, .host, .lsw]
  | .lswPulseOpening _ => [.host, .lsw]
  | .lswPulseClosing _ => [.lsw]
  | .offAfterExpiry _ => [.sys, .host, .lsw]
  | .keyoffHoldEnd _ => [.sys, .pd0, .host, .lsw]
  | .warn _ _ _ => [.sys, .pd0, .host, .safe, .time, .fe, .map, .vdr, .pwu, .lsw, .ths, .can, .sec]
  | .throttle _ _ _ => [.sys, .pd0, .host, .safe, .time, .fe, .map, .vdr, .pwu, .lsw, .ths, .can, .sec]
  | .sensorBroken _ _ => [.sys, .pd0, .host, .safe, .time, .fe, .map, .vdr, .pwu, .lsw, .ths, .can, .sec]
  | .rateTrip _ _ _ => [.sys, .pd0, .host, .safe, .time, .fe, .map, .vdr, .pwu, .lsw, .ths, .can, .sec]
  | .shutdown _ _ _ => [.sys, .pd0, .host, .safe, .time, .fe, .map, .vdr, .pwu, .lsw, .ths, .can, .sec]
  | .canFrameReceive _ _ => [.free, .sys, .pd0, .shd, .host, .time, .gnss, .pos, .impl, .fe, .map, .vdr, .pwu, .ce, .pif, .lsw, .can, .sec]
  | .canTxStart _ => [.can]
  | .canTxEnd _ _ => [.sys, .pd0, .host, .pos, .can]
  | .canDeadlineExpiry _ _ => [.sys, .host, .can]
  | .busoffRecoveryComplete _ => [.sys, .pd0, .host, .can]
  | .busRejoin _ => [.sys, .host, .can]
  | .addressClaim => [.can]
  | .addressClaimTimer => [.sys, .host, .can]
  | .sync => [.can]
  | .allOffRepeat => [.can]
  | .reportWaitExpiry => [.sys, .pd0, .host, .fe, .vdr, .can]
  | .rowNodeLost _ => [.sys, .pd0, .host, .fe, .vdr, .can]
  | .scrub _ => [.sys, .pd0, .host, .map]
  | .dirtyWriteback => [.map]
  | .maskBuilt => [.sys, .pd0, .host, .map]
  | .loadTimeout => [.sys, .host, .map]
  | .exportTimeout => [.map]
  | .logSeal => [.sys, .pd0, .host, .map]
  | .trackRecord => [.sys, .pd0, .host, .map]
  | .latencySave => [.nor, .vdr]
  | .activationPrepared => [.sec]
  | .trialPassed _ => [.sys, .pd0, .host, .sec]
  | .serviceSessionExpiry => [.sys, .host, .sec]
  | .tamper => [.pd0]
  | .safeInRelease => [.sys, .pd0, .host, .safe]
  | .badOpcode _ _ => [.free, .sys, .pd0, .shd, .host, .time, .gnss, .impl, .fe, .map, .vdr, .pwu, .ce, .pif, .lsw, .can, .sec]
  | .imageVerified => [.sys, .host, .sec]
  | .stageHotRelease _ _ => [.sys, .pd0, .host, .safe, .time, .fe, .map, .vdr, .pwu, .lsw, .ths, .can, .sec]
  | .pullInComplete _ => [.gnss]
  | .phaseLock _ _ => [.gnss]
  | .receiveError _ _ => [.sys, .pd0, .host, .pos, .can]
  | .acqIdleGate => [.pwr]

end Sys2Proof.Machine
end

