-- ==== Sys2Proof/WellFormed.lean ====
section
/-! DEFINITION. Which commands are well formed: the operands a sender can give. The meanings do not ask for it; a term that
fails it describes no envelope, frame or measurement the spec knows. -/

namespace Sys2Proof

/-- Commands of each opcode family (R354 row 8, 17_command_reference). -/
def familySize : Nat → Nat
  | 0x00 => 11 | 0x01 => 4 | 0x02 => 4 | 0x03 => 11 | 0x04 => 2 | 0x05 => 4 | 0x06 => 5 | 0x07 => 5 | 0x08 => 4 | 0x09 => 5
  | 0x0A => 10 | 0x0B => 1 | _ => 0

/-- The opcode is defined. -/
def definedOpcode (op : BitVec 16) : Bool := decide (op.toNat % 256 < familySize (op.toNat / 256))

/-- An envelope: LENGTH fits in its 16 bits, and only a sealed one carries a tag (R352). -/
def Env.wellFormed (e : Env) : Bool := decide (e.payload.length < 65536) && (e.sealedBit || e.tag == 0)

/-- Data bytes of a DLC (ISO 11898-1). -/
def CanFrame.room (f : CanFrame) : Nat :=
  if f.dlc.toNat ≤ 8 then f.dlc.toNat else if !f.fdf then 8
  else match f.dlc.toNat with | 9 => 12 | 10 => 16 | 11 => 20 | 12 => 24 | 13 => 32 | 14 => 48 | _ => 64

/-- A frame: its data fill the DLC, a base identifier has 11 bits, only an FD frame switches its rate. -/
def CanFrame.wellFormed (f : CanFrame) : Bool :=
  decide (f.data.length = f.room) && (f.ide || decide (f.id.toNat < 2048)) && (f.fdf || !f.brs && !f.esi)

/-- A measurement epoch: at most 24 satellites on channels of their own, a time of week within the week (R67, R68). -/
def EpochIn.wellFormed (m : EpochIn) : Bool :=
  decide (m.sats.length ≤ 24) && decide ((m.sats.map (·.channel)).Nodup) && decide (m.towPs < 604800000000000000)

/-- Frozen inputs: voltages in 16 bits of 10 mV. -/
def Freeze.wellFormed (f : Freeze) : Bool := decide (f.vbst < 65536) && decide (f.vbat < 65536)

/-- The end of a transmission: the end of frame follows its start. -/
def TxResult.wellFormed : TxResult → Bool
  | .sent sof eof _ => decide (sof < eof)
  | .arbLost => true
  | .error _ _ up _ => decide (up ≤ 8)

/-- Dies whose temperature is a sensor's: within what the sensor code carries, 0.1 °C in 16 bits (R309). -/
def tempOk (t : Int) : Bool := decide (-32768 ≤ t) && decide (t ≤ 32767)

/-- The envelope a request row carries. -/
def Instr.env? : Instr → Option Env
  | .sysNop e | .sysStatus e | .sysIdentity e | .sysLinkReset e | .sysArm e | .sysManual e | .sysDisarm e | .sysClearFault e
  | .sysReset e | .sysSubscribe e | .sysWakeSet e | .pbRead e | .pbWrite e | .pbCommit e | .pbRevert e | .implWrite e
  | .implRead e | .implCommit e | .implRevert e | .mapStatus e | .mapLoadBegin e | .mapLoadData e | .mapLoadEnd e
  | .mapLoadAbort e | .mapExportBegin e | .mapExportRead e | .mapExportAck e | .mapClear e | .mapLogRead e | .mapLogAck e
  | .feDirected e | .feDirectedClear e | .actEvent e | .actDuty e | .actFineCmp e | .actClearFault e | .ceSetpoint e
  | .ceOutput e | .ceTableWrite e | .ceTableRead e | .ceLoopReset e | .timeGet e | .timeStepConfirm e | .gnssRtcm e
  | .gnssMeasGet e | .posGet e | .lswSet e | .lswClearFault e | .pifEncSet e | .pifEventsRead e | .canPhConfig e
  | .canRxRead e | .canTx e | .canTxAbort e | .canRecover e | .secSessionOpen e | .secSessionClose e
  | .secServiceChallenge e | .secServiceResponse e | .secAttest e | .secImageBegin e | .secImageData e | .secImageEnd e
  | .secActivate e | .secImageStatus e | .diagRead e | .badOpcode _ e => some e
  | _ => none

/-- The opcode a request row carries. -/
def Instr.opcode? : Instr → Option (BitVec 16)
  | .sysNop _ => some 0x0000 | .sysStatus _ => some 0x0001 | .sysIdentity _ => some 0x0002 | .sysLinkReset _ => some 0x0003
  | .sysArm _ => some 0x0004 | .sysManual _ => some 0x0005 | .sysDisarm _ => some 0x0006 | .sysClearFault _ => some 0x0007
  | .sysReset _ => some 0x0008 | .sysSubscribe _ => some 0x0009 | .sysWakeSet _ => some 0x000A
  | .pbRead _ => some 0x0100 | .pbWrite _ => some 0x0101 | .pbCommit _ => some 0x0102 | .pbRevert _ => some 0x0103
  | .implWrite _ => some 0x0200 | .implRead _ => some 0x0201 | .implCommit _ => some 0x0202 | .implRevert _ => some 0x0203
  | .mapStatus _ => some 0x0300 | .mapLoadBegin _ => some 0x0301 | .mapLoadData _ => some 0x0302 | .mapLoadEnd _ => some 0x0303
  | .mapLoadAbort _ => some 0x0304 | .mapExportBegin _ => some 0x0305 | .mapExportRead _ => some 0x0306
  | .mapExportAck _ => some 0x0307 | .mapClear _ => some 0x0308 | .mapLogRead _ => some 0x0309 | .mapLogAck _ => some 0x030A
  | .feDirected _ => some 0x0400 | .feDirectedClear _ => some 0x0401
  | .actEvent _ => some 0x0500 | .actDuty _ => some 0x0501 | .actFineCmp _ => some 0x0502 | .actClearFault _ => some 0x0503
  | .ceSetpoint _ => some 0x0600 | .ceOutput _ => some 0x0601 | .ceTableWrite _ => some 0x0602 | .ceTableRead _ => some 0x0603
  | .ceLoopReset _ => some 0x0604
  | .timeGet _ => some 0x0700 | .timeStepConfirm _ => some 0x0701 | .gnssRtcm _ => some 0x0702 | .gnssMeasGet _ => some 0x0703
  | .posGet _ => some 0x0704
  | .lswSet _ => some 0x0800 | .lswClearFault _ => some 0x0801 | .pifEncSet _ => some 0x0802 | .pifEventsRead _ => some 0x0803
  | .canPhConfig _ => some 0x0900 | .canRxRead _ => some 0x0901 | .canTx _ => some 0x0902 | .canTxAbort _ => some 0x0903
  | .canRecover _ => some 0x0904
  | .secSessionOpen _ => some 0x0A00 | .secSessionClose _ => some 0x0A01 | .secServiceChallenge _ => some 0x0A02
  | .secServiceResponse _ => some 0x0A03 | .secAttest _ => some 0x0A04 | .secImageBegin _ => some 0x0A05
  | .secImageData _ => some 0x0A06 | .secImageEnd _ => some 0x0A07 | .secActivate _ => some 0x0A08
  | .secImageStatus _ => some 0x0A09 | .diagRead _ => some 0x0B00 | .badOpcode op _ => some op
  | _ => none

/-- The operands of the rows that report the outside world. -/
def Instr.eventOk : Instr → Bool
  | .frameEdge f => f.wellFormed
  | .clockBase c => decide (c.toNat ≤ 9)
  | .selftestComplete l => l.all fun c => decide (0 < c ∧ c < 256)
  | .dramTestDone r => decide (r[0] ≤ 6144) && decide (r[1] ≤ 1024) && decide (r[2] ≤ 256)
  | .measurementEpoch m => m.wellFormed
  | .canFrameReceive _ f => f.wellFormed
  | .canTxEnd _ r => r.wellFormed
  | .receiveError _ up => decide (1 ≤ up ∧ up ≤ 9)
  | .bitSync _ l => decide (l.length = 20)
  | .tcxoTempUpdate t | .stageHot _ t | .stageHotRelease _ t | .lswOvertemp _ t | .thermLatchRelease _ t
  | .warn _ _ t | .throttle _ _ t | .rateTrip _ _ t | .shutdown _ _ t => tempOk t
  | .badOpcode op _ => !definedOpcode op
  | _ => true

/-- A well-formed command. -/
def Instr.wellFormed (i : Instr) : Bool :=
  (match i.env? with
    | some e => e.wellFormed
    | none => true) && i.eventOk

end Sys2Proof
end

