-- ==== Sys2Proof/Certificates/Slice0/Obligations.lean ====
section
/-! DEFINITION. The statements. -/

open Sys2Proof Sys2Proof.Machine

/-- Every system request completes with its own effect (R24, R28, R364, R370, R375, R379, 17_command_reference.md). Where the spec is open or silent it states the model's choices: log entries 19, 64, 66. -/
def Obligations.SystemRequestsExecute : Prop :=
  (∀ e n s, Accepted 0x0000 e n s → e.payload.length = 0 → s.sys.dev ∈ inAll →
    exec (.sysNop e) s = .next (finish 0x0000 e n s fun u => (u, {}))) ∧
  (∀ e n s, Accepted 0x0001 e n s → e.payload.length = 0 → s.sys.dev ∈ inAll →
    exec (.sysStatus e) s = .next (finish 0x0001 e n s fun u => (u, { data := sysStatusBytes u }))) ∧
  (∀ e n s, Accepted 0x0002 e n s → e.payload.length = 0 → s.sys.dev ∈ inQBAMCFL →
    exec (.sysIdentity e) s = .next (finish 0x0002 e n s fun u => (u, { data := leBytes 16 s.sec.deviceId.toNat ++ leBytes 4 Config.hwRev.toNat ++ leBytes 4 s.pd0.bootCount ++ orderCode }))) ∧
  (∀ e n s, Accepted 0x0003 e n s → e.payload.length = 0 → s.sys.dev ∈ inAll →
    exec (.sysLinkReset e) s = .next (finish 0x0003 e n s fun u => ((modPort e.port (fun q => { q with credits := 8, held := [], noticeCredits := 0 }) (closeSession e.port u)).onHost fun h =>
      { h with awaiting := h.awaiting.filter fun a => a.2.env.port != e.port }, {}))) ∧
  (∀ e n s, Accepted 0x0004 e n s → e.payload.length = 0 → s.sys.dev ∈ [.standby, .manual] → s.sys.mapReady = true → mayDrive (admitted e n s) = true → s.act.fld .fe 0 2 ≤ 1 →
    exec (.sysArm e) s = .next (finish 0x0004 e n s fun u => (waitEdge 0x0004 e [.arm] u, { effectPm := nextEdge s.pm }))) ∧
  (∀ e n s, Accepted 0x0005 e n s → e.payload.length = 0 → s.sys.dev ∈ [.standby, .armed] → (s.sys.dev = .standby → mayDrive (admitted e n s) = true) →
    exec (.sysManual e) s = .next (finish 0x0005 e n s fun u => (waitEdge 0x0005 e [.manual] u, { effectPm := nextEdge s.pm }))) ∧
  (∀ e n s, Accepted 0x0006 e n s → e.payload.length = 0 → s.sys.dev ∈ [.armed, .manual] →
    exec (.sysDisarm e) s = .next (finish 0x0006 e n s fun u => (waitEdge 0x0006 e [.disarm] u, { effectPm := nextEdge s.pm }))) ∧
  (∀ e n s, Accepted 0x0007 e n s → e.payload.length = 0 → s.sys.dev ∈ [.safe] → persistCause (admitted e n s) = none →
    exec (.sysClearFault e) s = .next (finish 0x0007 e n s fun u => (waitEdge 0x0007 e [.clearFault] u, { effectPm := nextEdge s.pm, data := leBytes 1 0 }))) ∧
  (∀ e n s, Accepted 0x0008 e n s → e.payload.length = 0 → s.sys.dev ∈ [.quarantine] →
    exec (.sysReset e) s = .next (finish 0x0008 e n s fun u => (u.onHost fun h => { h with resetWait := some e.port }, {}))) ∧
  (∀ (e : Env) (n : Nat) (s : State) (k : Fin 16) (b : Sub) (inst : Nat), Accepted 0x0009 e n s → e.payload.length = 8 → s.sys.dev ∈ inBAMCF →
    k.val = arg e 0 4 → b = ({ enable := argB e 4, item := arg e 8 8, first := arg e 16 8, count := arg e 24 8, decim := arg e 32 16 } : Sub) →
    arg e 5 3 = 0 → arg e 48 16 = 0 → (∃ m, itemShape b.item = some (m, inst)) → 0 < b.item → b.item ≤ 0x0D → 0 < b.count → b.count ≤ 96 →
    b.first + b.count ≤ inst → 0 < b.decim →
    (e.port = .uart → uartOverrun (s.act.fld .host 8 24) (vlist ((subsAhead (admitted e n s) .uart).set k b)) = false) →
    exec (.sysSubscribe e) s = .next (finish 0x0009 e n s fun u => (waitEdge 0x0009 e [.subscribe e.port k b] u, { effectPm := nextEdge s.pm }))) ∧
  (∀ e n s, Accepted 0x000A e n s → e.payload.length = 4 → s.sys.dev ∈ inBAMF → arg e 0 32 = 0 →
    exec (.sysWakeSet e) s = .next (finish 0x000A e n s fun u => (u.onPd0 fun d => { d with wakeAlarm := none }, { data := leBytes 4 0 }))) ∧
  (∀ e n s, Accepted 0x000A e n s → e.payload.length = 4 → s.sys.dev ∈ inBAMF → 60 ≤ arg e 0 32 → arg e 0 32 ≤ 2592000 →
    exec (.sysWakeSet e) s = .next (finish 0x000A e n s fun u => (u.onPd0 fun d => { d with wakeAlarm := some (d.now + 80000000 * arg e 0 32) }, { data := leBytes 4 (arg e 0 32) })))

/-- Parameter block requests read, stage, commit and revert (R380, R381, R382, R383, 17_command_reference.md). Where the spec is open or silent it states the model's choices: log entries 25, 26, 27, 28. -/
def Obligations.ParameterRequestsExecute : Prop :=
  (∀ e n s b, Accepted 0x0100 e n s → e.payload.length = 6 → s.sys.dev ∈ inBAMCFL → paramBlock (arg e 0 8) = some b → arg e 9 7 = 0 →
    0 < arg e 32 16 → arg e 32 16 ≤ 4084 → arg e 16 16 + arg e 32 16 ≤ pbBytes b →
    exec (.pbRead e) s = .next (finish 0x0100 e n s fun u =>
      (u, { data := leBytes (arg e 32 16) (statusOverlay u b (asRead b ((if argB e 8 then u.shd else u.act).image b)) >>> (8 * arg e 16 16)) }))) ∧
  (∀ e n s b lo hi fs new, Accepted 0x0101 e n s → 4 < e.payload.length → e.payload.length ≤ 4096 → s.sys.dev ∈ inBAMCF →
    paramBlock (arg e 0 8) = some b → arg e 8 8 = 0 → lo = 8 * arg e 16 16 → hi = 8 * (arg e 16 16 + (e.payload.length - 4)) →
    fs = ((fieldsOf b).filter fun f => f.meets lo hi) → (∀ f ∈ fs, f.within lo hi = true) →
    new = copyFields (fs.filter fun f => f.acc == .ro) (s.shd.image b)
      (setBits (s.shd.image b) lo (8 * (e.payload.length - 4)) (leNat (e.payload.drop 4))) →
    bits (setBits (s.shd.image b) lo (8 * (e.payload.length - 4)) (leNat (e.payload.drop 4))) lo (8 * (e.payload.length - 4))
      &&& (innerReserved b >>> lo ||| ((fieldMask fs >>> lo) ^^^ (2 ^ (8 * (e.payload.length - 4)) - 1))) = 0 →
    (∀ f ∈ fs, f.acc ≠ .ro → f.undefinedIn new = false ∧ f.outside new = false) → arg e 16 16 + (e.payload.length - 4) ≤ pbBytes b →
    (sealedWorldReq e (admitted e n s) = false → ∀ f ∈ fs, f.acc = .rws → f.differs (s.shd.image b) new = false) →
    exec (.pbWrite e) s = .next (finish 0x0101 e n s fun u =>
      (u.onShd fun p => p.setImage b (if b = .pos ∧ lo < 160 ∧ 64 < hi then setBits new 160 1 1 else new), {}))) ∧
  (∀ e n s, Accepted 0x0102 e n s → e.payload.length = 4 → s.sys.dev ∈ inBAMF → arg e 0 32 ≠ 0 → maskBad (arg e 0 32) = false →
    (∀ b ∈ maskBlocks (arg e 0 32), commitWaits (admitted e n s) b = false ∧ standbyBad (admitted e n s) b = false ∧
      blockCheck e (admitted e n s) b = none) → (∃ b ∈ maskBlocks (arg e 0 32), b ≠ .host) →
    exec (.pbCommit e) s = .next (finish 0x0102 e n s fun u =>
      (waitEdge 0x0102 e [.commit (((maskBlocks (arg e 0 32)).filter (· != .host)).map fun b => (b, s.shd.image b))
          (if ((maskBlocks (arg e 0 32)).filter (· != .host)).contains .ce then some s.ce.shadow else none)]
        (if (maskBlocks (arg e 0 32)).contains .host then u.onHost fun h => { h with applyWait := some (e.port, s.shd.image .host) } else u),
       { effectPm := nextEdge s.pm }))) ∧
  (∀ e n s, Accepted 0x0102 e n s → e.payload.length = 4 → s.sys.dev ∈ inBAMF → maskBad (arg e 0 32) = false →
    maskBlocks (arg e 0 32) = [.host] → arg e 0 32 ≠ 0 → commitWaits (admitted e n s) .host = false → standbyBad (admitted e n s) .host = false →
    blockCheck e (admitted e n s) .host = none →
    exec (.pbCommit e) s = .next (finish 0x0102 e n s fun u =>
      (u.onHost fun h => { h with applyWait := some (e.port, s.shd.image .host) }, {}))) ∧
  (∀ e n s, Accepted 0x0103 e n s → e.payload.length = 4 → s.sys.dev ∈ inBAMCF → maskBad (arg e 0 32) = false →
    exec (.pbRevert e) s = .next (finish 0x0103 e n s fun u => (u.onShd fun p => (maskBlocks (arg e 0 32)).foldl (fun q b => q.setImage b (s.act.image b)) p, {})))

/-- Implement requests write the shadow, read, commit and revert (R107, R384, 17_command_reference.md). Where the spec is open or silent it states the model's choices: log entries 38, 39. -/
def Obligations.ImplementRequestsExecute : Prop :=
  (∀ e n s, Accepted 0x0200 e n s → lenImplWrite e = true → s.sys.dev ∈ inBAMF → arg e 24 8 = 0 → arg e 0 8 ≤ 5 →
    (∀ r ∈ entries e 4 (recSize (arg e 0 8)), ∀ f ∈ recReserved (arg e 0 8), recN r f.1 f.2 = 0) →
    arg e 8 8 + arg e 16 8 ≤ recCount (arg e 0 8) →
    exec (.implWrite e) s = .next (finish 0x0200 e n s fun u =>
      (u.onImpl fun v => { v with shadow := writeRecords (arg e 0 8) (arg e 8 8) (entries e 4 (recSize (arg e 0 8))) v.shadow }, {}))) ∧
  (∀ e n s i, Accepted 0x0201 e n s → e.payload.length = 4 → s.sys.dev ∈ inBAMCFL → arg e 25 7 = 0 → arg e 0 8 ≤ 5 →
    arg e 8 8 + arg e 16 8 ≤ recCount (arg e 0 8) → arg e 16 8 * recSize (arg e 0 8) ≤ 4084 →
    (if argB e 24 then some s.impl.shadow else s.impl.active) = some i →
    exec (.implRead e) s = .next (finish 0x0201 e n s fun u =>
      (u, { data := (List.range (arg e 16 8)).flatMap fun k => leBytes (recSize (arg e 0 8)) (i.get (arg e 0 8) (arg e 8 8 + k)) }))) ∧
  (∀ e n s, Accepted 0x0202 e n s → e.payload.length = 0 → s.sys.dev ∈ inBAM → implWaiting (admitted e n s) = false → implCheck (admitted e n s) = none →
    exec (.implCommit e) s = .next (finish 0x0202 e n s fun u => (waitEdge 0x0202 e [.implCommit s.impl.shadow.computed] u, { effectPm := nextEdge s.pm, data := [0xFF, 0xFF] }))) ∧
  (∀ e n s, Accepted 0x0203 e n s → e.payload.length = 0 → s.sys.dev ∈ inBAMF →
    exec (.implRevert e) s = .next (finish 0x0203 e n s fun u => (u.onImpl fun v => { v with shadow := v.active.getD v.restored }, {})))

/-- Map requests load, export, clear and read the log (R171, R173, R174, R183, R386, R387, R388, R389, 17_command_reference.md). Where the spec is open or silent it states the model's choices: log entries 37, 51, 52, 53. -/
def Obligations.MapRequestsExecute : Prop :=
  (∀ e n s, Accepted 0x0300 e n s → e.payload.length = 0 → s.sys.dev ∈ inBAMCFL →
    exec (.mapStatus e) s = .next (finish 0x0300 e n s fun u => (u, { data := mapStatusBytes u }))) ∧
  (∀ e n s, Accepted 0x0301 e n s → e.payload.length = 64 → s.sys.dev ∈ inBAMF → loadBeginBad e (admitted e n s) = none →
    exec (.mapLoadBegin e) s = .next (finish 0x0301 e n s fun u => (u.onMap fun m => { m with load := some { header := e.payload, lastPm := s.pm } }, {}))) ∧
  (∀ e n s l, Accepted 0x0302 e n s → 4 < e.payload.length → e.payload.length ≤ 4096 → s.sys.dev ∈ inBAMCF → s.sys.mapReady = true →
    s.map.load = some l → l.ending = false → arg e 0 32 = l.data.length →
    exec (.mapLoadData e) s = .next (finish 0x0302 e n s fun u =>
      (u.onMap fun m => { m with load := some { l with data := l.data ++ e.payload.drop 4, lastPm := s.pm } },
       { data := leBytes 4 (l.data ++ e.payload.drop 4).length }))) ∧
  (∀ e n s l t, Accepted 0x0303 e n s → e.payload.length = 0 → s.sys.dev ∈ inBAMF → s.sys.mapReady = true →
    s.map.load = some l → l.ending = false → importAllowed l.header s = true → importResult l (admitted e n s) = .ok t →
    exec (.mapLoadEnd e) s = .next (finish 0x0303 e n s fun u =>
      (waitEdge 0x0303 e [.mapApply] (u.onMap fun m => { m with load := some { l with ending := true } }),
       { status := if recN l.header 48 8 = 3 then .accepted else .ok, effectPm := nextEdge s.pm, data := leBytes 4 0xFFFFFFFF }))) ∧
  (∀ e n s, Accepted 0x0304 e n s → e.payload.length = 0 → s.sys.dev ∈ inBAMCF → s.sys.mapReady = true → s.map.load.isSome = true →
    exec (.mapLoadAbort e) s = .next (finish 0x0304 e n s fun u => ((u.onSys fun y => { y with edgeQ := y.edgeQ.filter fun i => i.act != .mapApply }).onMap fun m => { m with load := none }, {}))) ∧
  (∀ e n s kind layer dirty keys h, Accepted 0x0305 e n s → e.payload.length = 4 → s.sys.dev ∈ inBAMF → s.sys.mapReady = true →
    s.map.exp = none → arg e 11 21 = 0 → kind = arg e 0 8 → layer = arg e 8 2 → dirty = argB e 10 → 0 < kind → kind ≤ 4 →
    (dirty = true → kind = 1) → keys = exportKeys (admitted e n s) kind layer dirty →
    h = streamHeader kind (if kind = 1 ∨ kind = 2 then layer else 0) (if kind = 1 then depthOf s layer - 1 else 0) 0
      (streamCell (admitted e n s) kind layer) (originOf s) keys.length (nextEdge s.pm) s.pd0.bootCount →
    exec (.mapExportBegin e) s = .next (finish 0x0305 e n s fun u =>
      (waitEdge 0x0305 e [.expFix] (u.onMap fun m => { m with exp := (some
        { kind := kind, layer := layer, dirtyOnly := dirty, created := nextEdge s.pm, header := h, keys := keys, lastPm := s.pm }) }),
       { effectPm := nextEdge s.pm, data := h ++ leBytes 4 (keys.map (exportSize (admitted e n s) kind layer)).sum }))) ∧
  (∀ e n s x starts ks x1, Accepted 0x0306 e n s → e.payload.length = 6 → s.sys.dev ∈ inBAMCF → s.sys.mapReady = true → s.map.exp = some x →
    x.fixed = true → 0 < arg e 32 16 → arg e 32 16 ≤ 4084 → arg e 0 32 + arg e 32 16 ≤ (x.edgeTiles.map List.length).sum →
    starts = recordStarts (x.edgeTiles.map List.length) 0 →
    ks = ((List.range starts.length).filter fun k => match starts[k]? with
      | some (o, l) => decide (o < arg e 0 32 + arg e 32 16) && decide (arg e 0 32 < o + l)
      | none => false) →
    x1 = ({ x with lastPm := s.pm,
                   copied := copyTiles { x with edgeTiles := (readTiles x ks (admitted e n s)).2 } (edgeOf s.pm) ks } : Exp) →
    exec (.mapExportRead e) s = .next (finish 0x0306 e n s fun u =>
      ((readTiles x ks u).1.onMap fun m => { m with exp := some x1 },
       { data := slice ((List.range starts.length).flatMap fun k => match x1.copied.find? fun t => t.1 == k with
          | some t => t.2.1
          | none => (x.edgeTiles[k]?).getD []) (arg e 0 32) (arg e 32 16) }))) ∧
  (∀ e n s x, Accepted 0x0307 e n s → e.payload.length = 8 → s.sys.dev ∈ inBAMCF → s.sys.mapReady = true → s.map.exp = some x →
    (arg e 0 64 = 0 ∨ arg e 0 64 = x.created) →
    exec (.mapExportAck e) s = .next (finish 0x0307 e n s fun u =>
      ((if arg e 0 64 = 0 then u else markClean x u).onMap fun m => { m with exp := none }, {}))) ∧
  (∀ e n s, Accepted 0x0308 e n s → e.payload.length = 4 → s.sys.dev ∈ inBAMF → s.sys.mapReady = true → arg e 10 22 = 0 → 0 < arg e 0 8 → arg e 0 8 ≤ 3 → (s.sys.dev = .standby ∨ arg e 0 8 = 2) →
    exec (.mapClear e) s = .next (finish 0x0308 e n s fun u => (waitEdge 0x0308 e [.mapClear (arg e 0 8) (arg e 8 2)] u, { effectPm := nextEdge s.pm }))) ∧
  (∀ e n s b, Accepted 0x0309 e n s → e.payload.length = 4 → s.sys.dev ∈ inBAMCFL → s.sys.mapReady = true →
    (if arg e 0 32 = 0xFFFFFFFF then s.map.ring.find? fun b => !b.acked else s.map.ring.find? fun b => b.seq == arg e 0 32) = some b →
    exec (.mapLogRead e) s = .next (finish 0x0309 e n s fun u =>
      ((meetErrors (fun x => x.region == .log && x.word == b.seq) u).1,
       { data := (((meetErrors (fun x => x.region == .log && x.word == b.seq) u).1.map.ring.find? fun c => c.seq == b.seq).getD b).bytes }))) ∧
  (∀ e n s, Accepted 0x030A e n s → e.payload.length = 4 → s.sys.dev ∈ inBAMCFL → s.sys.mapReady = true →
    (∃ b ∈ s.map.ring, b.seq = arg e 0 32) →
    exec (.mapLogAck e) s = .next (finish 0x030A e n s fun u =>
      (u.onMap fun m => { m with ring := (m.ring.takeWhile fun b => b.seq != arg e 0 32).map (fun b => { b with acked := true })
        ++ (match m.ring.dropWhile fun b => b.seq != arg e 0 32 with
            | b :: l => { b with acked := true } :: l
            | [] => []) }, {})))

/-- Field and actuation requests place their records, events, duties and comparisons (R144, R141, R237, R263, R230, R390, R391, 17_command_reference.md). Where the spec is open or silent it states the model's choices: log entries 44, 59, 67. -/
def Obligations.FieldAndActuationRequestsExecute : Prop :=
  (∀ e n s l, Accepted 0x0400 e n s → lenItems 0 16 1 16 e = true → s.sys.dev ∈ [.standby, .armed] → feMode s = 1 →
    takeDirected (admitted e n s) e.firstPm 0 (entries e 0 16) s.fe.waiting = .ok l →
    exec (.feDirected e) s = .next (finish 0x0400 e n s fun u => (u.onFe fun f => { f with waiting := l }, { data := [0xFF] }))) ∧
  (∀ e n s, Accepted 0x0401 e n s → e.payload.length = 4 → s.sys.dev ∈ [.standby, .armed] →
    exec (.feDirectedClear e) s = .next (finish 0x0401 e n s fun u =>
      (u.onFe fun f => { f with waiting := f.waiting.filter fun r => !bitN (arg e 0 32) r.section_, clearMask := f.clearMask ||| arg e 0 32 },
       { data := leBytes 1 ((s.fe.directed.filter fun r => bitN (arg e 0 32) r.section_ && !bitN s.fe.clearMask r.section_).length + (s.fe.waiting.filter fun r => bitN (arg e 0 32) r.section_).length) }))) ∧
  (∀ e n s, Accepted 0x0500 e n s → lenItems 0 16 1 32 e = true → s.sys.dev = .manual →
    (∀ r ∈ entries e 0 16, recN r 73 23 = 0 ∧ recN r 120 8 = 0 ∧ recN r 64 8 ≤ 159 ∧ recN r 0 64 ≤ e.firstPm + 800000000 ∧
      (96 ≤ recN r 64 8 → enabledCtx s (recN r 64 8) = true)) →
    firstRepeat (fun r => recN r 0 72) [] 0 (entries e 0 16) = none →
    firstShort (admitted e n s) (Vector.replicate 12 0) 0 (entries e 0 16) = none →
    exec (.actEvent e) s = .next (finish 0x0500 e n s fun u => ((entries e 0 16).foldl takeHostEvent u, { data := [0xFF] }))) ∧
  (∀ e n s, Accepted 0x0501 e n s → lenItems 0 4 1 96 e = true → s.sys.dev = .manual →
    (∀ r ∈ entries e 0 4, recN r 8 8 = 0 ∧ recN r 0 8 ≤ 95) → firstRepeat (fun r => recN r 0 8) [] 0 (entries e 0 4) = none →
    exec (.actDuty e) s = .next (finish 0x0501 e n s fun u =>
      (waitEdge 0x0501 e ((entries e 0 4).filterMap fun r => (idx? 96 (recN r 0 8)).map fun c => .duty c (recN r 16 16)) u,
       { effectPm := nextEdge s.pm }))) ∧
  (∀ e n s g, Accepted 0x0502 e n s → e.payload.length = 8 → s.sys.dev ∈ inBAM → g.val = arg e 0 3 → arg e 3 29 = 0 → loopDrives s 1 g.val = false →
    exec (.actFineCmp e) s = .next (finish 0x0502 e n s fun u => (writeCmp g (arg e 32 32) u, {}))) ∧
  (∀ e n s c, Accepted 0x0503 e n s → e.payload.length = 2 → s.sys.dev ∈ inBMF → arg e 0 8 = 0 → idx? 96 (arg e 8 8) = some c →
    exec (.actClearFault e) s = .next (finish 0x0503 e n s fun u => (clearContext c u, {}))) ∧
  (∀ e n s b, Accepted 0x0503 e n s → e.payload.length = 2 → s.sys.dev ∈ inBMF → arg e 0 8 = 1 → idx? 12 (arg e 8 8) = some b →
    s.vdr.bank[b].reconnect = none → s.vdr.bank[b].isolated = 0 →
    exec (.actClearFault e) s = .next (finish 0x0503 e n s fun u => (clearBank b u, {}))) ∧
  (∀ e n s b, Accepted 0x0503 e n s → e.payload.length = 2 → s.sys.dev ∈ inBMF → arg e 0 8 = 1 → idx? 12 (arg e 8 8) = some b →
    s.vdr.bank[b].reconnect = none → s.vdr.bank[b].isolated ≠ 0 →
    exec (.actClearFault e) s = .next ((beginReconnect b (clearBank b (admitted e n s))).onHost fun h =>
      { h with awaiting := h.awaiting ++ [(b, { opcode := 0x0503, env := e, counter := n, at_ := s.pm })] }))

/-- Control requests set, drive, load tables and reset loops (R237, R259, R392, 17_command_reference.md). Where the spec is open or silent it states the model's choices: log entries 26, 74. -/
def Obligations.ControlRequestsExecute : Prop :=
  (∀ e n s k, Accepted 0x0600 e n s → e.payload.length = 8 → s.sys.dev ∈ inBAMF → idx? 16 (arg e 0 4) = some k → arg e 4 28 = 0 →
    exec (.ceSetpoint e) s = .next (finish 0x0600 e n s fun u => (waitEdge 0x0600 e [.setpoint k (argS e 32 32)] u, { effectPm := nextEdge s.pm }))) ∧
  (∀ e n s k, Accepted 0x0601 e n s → e.payload.length = 8 → s.sys.dev ∈ inBAM → idx? 16 (arg e 0 4) = some k → arg e 4 28 = 0 →
    -65536 ≤ argS e 32 32 → argS e 32 32 ≤ 65536 → loopMode s (arg e 0 4) = 2 →
    exec (.ceOutput e) s = .next (finish 0x0601 e n s fun u => (waitEdge 0x0601 e [.output k (argS e 32 32)] u, { effectPm := nextEdge s.pm }))) ∧
  (∀ e n s k, Accepted 0x0602 e n s → lenCeTable e = true → s.sys.dev ∈ inBAMF → idx? 16 (arg e 0 4) = some k → arg e 5 27 = 0 →
    exec (.ceTableWrite e) s = .next (finish 0x0602 e n s fun u => (u.onCe fun v => { v with shadow := (
      if argB e 4 then { v.shadow with cogging := v.shadow.cogging.set k ((chunks 2 (e.payload.drop 4)).map fun c => sint 16 (leNat c)) }
      else { v.shadow with friction := v.shadow.friction.set k ((chunks 4 (e.payload.drop 4)).map fun c => sint 32 (leNat c)) }) }, {}))) ∧
  (∀ e n s k, Accepted 0x0603 e n s → e.payload.length = 4 → s.sys.dev ∈ inBAMCFL → idx? 16 (arg e 0 4) = some k → arg e 6 26 = 0 →
    exec (.ceTableRead e) s = .next (finish 0x0603 e n s fun u => (u, { data := (
      if argB e 4 then (if argB e 5 then s.ce.shadow else s.ce.tables).cogging[k].flatMap (fun v => leBytes 2 (uint 16 v))
      else (if argB e 5 then s.ce.shadow else s.ce.tables).friction[k].flatMap fun v => leBytes 4 (uint 32 v)) }))) ∧
  (∀ e n s k, Accepted 0x0604 e n s → e.payload.length = 1 → s.sys.dev ∈ inBAMF → idx? 16 (arg e 0 4) = some k → arg e 4 4 = 0 →
    exec (.ceLoopReset e) s = .next (finish 0x0604 e n s fun u => (waitEdge 0x0604 e [.loopReset k] u, { effectPm := nextEdge s.pm })))

/-- Time, GNSS and position requests (R46, R49, R73, R393, R394, 17_command_reference.md). Where the spec is open or silent it states the model's choices: log entry 34. -/
def Obligations.TimeAndPositionRequestsExecute : Prop :=
  (∀ e n s, Accepted 0x0700 e n s → e.payload.length = 0 → s.sys.dev ∈ inBAMCF →
    exec (.timeGet e) s = .next (finish 0x0700 e n s fun u => (u, { data := leBytes 8 e.firstPm ++ s.time.model.bytes ++ leBytes 4 (tCode s.time.st ||| b2n s.time.step.isSome <<< 2 ||| b2n s.pd0.tcxo.uncal <<< 3) ++ leBytes 4 (holdoverMs u) }))) ∧
  (∀ e n s st, Accepted 0x0701 e n s → e.payload.length = 8 → s.sys.dev ∈ inBAMCF → s.time.step = some st → st.held = true → argS e 0 64 = -st.err →
    exec (.timeStepConfirm e) s = .next (finish 0x0701 e n s fun u =>
      (u.onTime fun v => { v with step := some { st with held := false, earliest := s.pm + 8000000 } }, {}))) ∧
  (∀ e n s, Accepted 0x0702 e n s → 0 < e.payload.length → e.payload.length ≤ 4096 → s.sys.dev ∈ inBAMCF →
    s.gnss.rtcmBuf.length + e.payload.length ≤ 8192 →
    exec (.gnssRtcm e) s = .next (finish 0x0702 e n s fun u => (rtcmSearch (s.gnss.rtcmBuf ++ e.payload) (u.onGnss fun g => { g with rtcmLast := s.pm }), {}))) ∧
  (∀ e n s, Accepted 0x0703 e n s → e.payload.length = 0 → s.sys.dev ∈ inBAMCF →
    exec (.gnssMeasGet e) s = .next (finish 0x0703 e n s fun u => (u, { data := s.gnss.record }))) ∧
  (∀ e n s, Accepted 0x0704 e n s → e.payload.length = 0 → s.sys.dev ∈ inBAMCF →
    exec (.posGet e) s = .next (finish 0x0704 e n s fun u => (u, { data := s.pos.pose.bytes })))

/-- I/O requests (R289, R290, R395, R396, 17_command_reference.md). Where the spec is open or silent it states the model's choices: log entry 76. -/
def Obligations.IoRequestsExecute : Prop :=
  (∀ e n s, Accepted 0x0800 e n s → lenItems 0 4 1 16 e = true → s.sys.dev ∈ inBAMF → (∀ r ∈ entries e 0 4, recN r 6 10 = 0) →
    noDup ((entries e 0 4).map fun r => recN r 0 4) = true → (∀ r ∈ entries e 0 4, recN r 5 1 = 1 → loopDrives s 3 (recN r 0 4) = false) →
    exec (.lswSet e) s = .next (finish 0x0800 e n s fun u =>
      (waitEdge 0x0800 e ((entries e 0 4).filterMap fun r => (idx? 16 (recN r 0 4)).map fun c =>
          EdgeAct.lswSet c (recN r 4 1 == 1) (if recN r 5 1 = 1 then some (recN r 16 16) else none)) u,
       { status := if (bitWord 16 fun c => (entries e 0 4).any fun r => recN r 0 4 == c && lswLatchedOn s r) = 0 then .ok else .faulted, effectPm := nextEdge s.pm,
         data := leBytes 2 (bitWord 16 fun c => (entries e 0 4).any fun r => recN r 0 4 == c && lswLatchedOn s r) }))) ∧
  (∀ e n s c, Accepted 0x0801 e n s → e.payload.length = 1 → s.sys.dev ∈ inBAMF → idx? 16 (arg e 0 4) = some c → arg e 4 4 = 0 →
    exec (.lswClearFault e) s = .next (finish 0x0801 e n s fun u =>
      (waitEdge 0x0801 e [.lswResume c] (lswReload c
        (if s.lsw.ls[c].st = .latched then modLsw c (fun l => { l with resumeWait := true }) (lswUnlatch c u) else u)), { effectPm := nextEdge s.pm }))) ∧
  (∀ e n s i, Accepted 0x0802 e n s → e.payload.length = 8 → s.sys.dev ∈ inBAMF → arg e 3 29 = 0 → idx? 8 (arg e 0 3) = some i →
    exec (.pifEncSet e) s = .next (finish 0x0802 e n s fun u => (waitEdge 0x0802 e [.encSet i (argS e 32 32)] u, { effectPm := nextEdge s.pm }))) ∧
  (∀ e n s i, Accepted 0x0803 e n s → e.payload.length = 2 → s.sys.dev ∈ inBAMCF → arg e 3 5 = 0 → 0 < arg e 8 8 → arg e 8 8 ≤ 32 →
    idx? 8 (arg e 0 3) = some i → evtNotify s i = false →
    exec (.pifEventsRead e) s = .next (finish 0x0803 e n s fun u =>
      (modEvt i (fun v => { v with fifo := v.fifo.drop (arg e 8 8) }) u,
       { data := leBytes 4 (s.pif.evt[i].fifo.take (arg e 8 8)).length ++ (s.pif.evt[i].fifo.take (arg e 8 8)).flatMap EvtRec.bytes })))

/-- Bus requests (R329, R331, R332, R335, R397, 17_command_reference.md). Where the spec is open or silent it states the model's choices: log entry 78. -/
def Obligations.BusRequestsExecute : Prop :=
  (∀ e n s x, Accepted 0x0900 e n s → e.payload.length = 12 → s.sys.dev ∈ inBAMCF → ctlOf e = some x → arg e 2 6 = 0 → arg e 16 16 = 0 → arg e 93 3 = 0 →
    phReserved s x (arg e 8 8) = false →
    exec (.canPhConfig e) s = .next (finish 0x0900 e n s fun u =>
      (waitEdge 0x0900 e [.canFilter x (arg e 8 8) (BitVec.ofNat 64 (arg e 32 64))] u, { effectPm := nextEdge s.pm }))) ∧
  (∀ e n s x, Accepted 0x0901 e n s → e.payload.length = 2 → s.sys.dev ∈ inBAMCF → ctlOf e = some x → arg e 2 6 = 0 →
    exec (.canRxRead e) s = .next (finish 0x0901 e n s fun u =>
      ((hostRead x (arg e 8 8) u).2, { data := leBytes 84 (hostRead x (arg e 8 8) u).1 }))) ∧
  (∀ e n s x k, Accepted 0x0902 e n s → e.payload.length = 84 → s.sys.dev ∈ inBAMCF → ctlOf e = some x → k.val = arg e 8 5 →
    arg e 2 6 = 0 → arg e 13 19 = 0 → bits (arg e 32 640) 41 23 = 0 → (x = 0 → bitN (arg e 32 640) 30 = false) →
    (bitN (arg e 32 640) 30 = false → bits (arg e 32 640) 32 4 ≤ 8) → slotReserved s x k.val = false → canEnable s x = true → listen s x = false →
    s.can.ctl[x].slots[k].st = .free →
    exec (.canTx e) s = .next (finish 0x0902 e n s fun u => (loadSlot x k .host (arg e 32 640) u, {}))) ∧
  (∀ e n s x k, Accepted 0x0903 e n s → e.payload.length = 2 → s.sys.dev ∈ inBAMCF → ctlOf e = some x → k.val = arg e 8 5 →
    arg e 2 6 = 0 → arg e 13 3 = 0 → s.can.ctl[x].slots[k].st = .pending →
    exec (.canTxAbort e) s = .next (finish 0x0903 e n s fun u => (endSlot x k .aborted 0 u, {}))) ∧
  (∀ e n s x k, Accepted 0x0903 e n s → e.payload.length = 2 → s.sys.dev ∈ inBAMCF → ctlOf e = some x → k.val = arg e 8 5 →
    arg e 2 6 = 0 → arg e 13 3 = 0 → s.can.ctl[x].slots[k].st = .active →
    exec (.canTxAbort e) s = .next (finish 0x0903 e n s fun u => (modSlot x k (fun l => { l with aborting := true }) u, {}))) ∧
  (∀ e n s x, Accepted 0x0904 e n s → e.payload.length = 1 → s.sys.dev ∈ inBAMCF → ctlOf e = some x → arg e 2 6 = 0 →
    s.can.ctl[x].st = .busOff → busoffAuto s x = false →
    exec (.canRecover e) s = .next (finish 0x0904 e n s fun u => (modCtl x (fun c => { c with st := .recovering, busOffAt := s.pm }) u, {})))

/-- Security, update and diagnosis requests (R368, R369, R404, R408, R410, R413, R414, R416, R398, 17_command_reference.md). Where the spec is open or silent it states the model's choices: log entries 4, 27, 60, 68, 69. -/
def Obligations.SecurityRequestsExecute : Prop :=
  (∀ e n s, Accepted 0x0A00 e n s → e.payload.length = 16 → s.sys.dev ∈ inQBAMCF → ownerClaimed (admitted e n s) = true →
    exec (.secSessionOpen e) s = .next (finish 0x0A00 e n s fun u => ((openSession e.port none (BitVec.ofNat 128 (arg e 0 128)) u).1, { data := (openSession e.port none (BitVec.ofNat 128 (arg e 0 128)) u).2 }))) ∧
  (∀ e n s, Accepted 0x0A01 e n s → e.payload.length = 0 → s.sys.dev ∈ inQBAMCF → sessionOf e (admitted e n s) ≠ none →
    exec (.secSessionClose e) s = .next (finish 0x0A01 e n s fun u => (closeSession e.port u, {}))) ∧
  (∀ e n s, Accepted 0x0A02 e n s → e.payload.length = 0 → s.sys.dev ∈ [.quarantine, .standby] → ¬(serviceLock (admitted e n s) = true ∧ ownerClaimed (admitted e n s) = true) →
    exec (.secServiceChallenge e) s = .next (finish 0x0A02 e n s fun u => ((drawFree u).1.onSec fun v => { v with nonce := some ((Config.rand (drawFree u).2).setWidth 128, s.pm) },
      { data := leBytes 16 ((Config.rand (drawFree u).2).setWidth 128 : BitVec 128).toNat }))) ∧
  (∀ e n s nonce t h r, Accepted 0x0A03 e n s → e.payload.length = 68 → s.sys.dev ∈ [.quarantine, .standby] → arg e 4 28 = 0 →
    s.sec.nonce = some (nonce, t) → h = Config.sha256 (leBytes 16 nonce.toNat ++ leBytes 16 s.sec.deviceId.toNat ++ leBytes 4 (arg e 0 32)) →
    s.pm < t + 4800000000 →
    r = openSession e.port (some (BitVec.ofNat 32 (arg e 0 32))) nonce ((admitted e n s).onSec fun v => { v with nonce := none }) →
    exec (.secServiceResponse e) s = .next (finish 0x0A03 e n s fun u =>
      if serviceOk u h (BitVec.ofNat 512 (arg e 32 512)) = true then
        (notice .sec 0x07 0xFFFF [] (extendOpen 7 0x05 (r.1.onSec fun v =>
          { v with svcPort := v.svcPort || (BitVec.ofNat 32 (arg e 0 32)).getLsbD 0 })), { data := r.2 })
      else (u.onSec fun v => { v with nonce := none }, { status := .authFail }))) ∧
  (∀ e n s, Accepted 0x0A04 e n s → e.payload.length = 16 → s.sys.dev ∈ inQBAMCFL →
    exec (.secAttest e) s = .next (finish 0x0A04 e n s fun u => (u, { data := attestBody (arg e 0 128) u ++ leBytes 64 (Config.ecdsaSign attestKey (Config.sha256 (attestBody (arg e 0 128) u))).toNat }))) ∧
  (∀ e n s i, Accepted 0x0A05 e n s → e.payload.length = 8 → s.sys.dev ∈ inQBAMF → idx? 5 (arg e 0 3) = some i → arg e 3 29 = 0 →
    arg e 32 32 ≤ bankSize i → s.sec.load = none → s.sec.verifying = none → s.sec.image[i].trial = false →
    exec (.secImageBegin e) s = .next (finish 0x0A05 e n s fun u =>
      ((modImage i (fun m => m.modOther fun _ => {}) u).onSec fun v => { v with load := some { image := i.val, size := arg e 32 32 } }, {}))) ∧
  (∀ e n s l, Accepted 0x0A06 e n s → 4 < e.payload.length → e.payload.length ≤ 4096 → s.sys.dev ∈ inQBAMCF → s.sec.load = some l →
    arg e 0 32 = l.data.length → l.data.length + (e.payload.length - 4) ≤ l.size →
    exec (.secImageData e) s = .next (finish 0x0A06 e n s fun u =>
      (u.onSec fun v => { v with load := some { l with data := l.data ++ e.payload.drop 4 } },
       { data := leBytes 4 (l.data.length + (e.payload.drop 4).length) }))) ∧
  (∀ e n s l i, Accepted 0x0A07 e n s → e.payload.length = 0 → s.sys.dev ∈ inQBAMF → s.sec.load = some l → idx? 5 l.image = some i →
    exec (.secImageEnd e) s = .next (finish 0x0A07 e n s fun u =>
      ((modImage i (fun m => m.modOther fun _ => readHeader l.data) u).onSec fun v => { v with load := none, verifying := some l.image },
       { status := .accepted }))) ∧
  (∀ e n s, Accepted 0x0A08 e n s → e.payload.length = 4 → s.sys.dev ∈ inBAM → sessionOf e (admitted e n s) ≠ none → arg e 5 27 = 0 →
    (liveEn s = true ∨ s.sys.dev = .standby) → (∀ i : Fin 5, named (arg e 0 5) i.val = true → s.sec.image[i].other.verified = true) →
    s.sec.activation = none → (∀ l, s.sec.load = some l → named (arg e 0 5) l.image = false) →
    consistent ((List.finRange 5).map fun i => if named (arg e 0 5) i.val then s.sec.image[i].other else s.sec.image[i].run) = true →
    exec (.secActivate e) s = .next (finish 0x0A08 e n s fun u =>
      (u.onSec fun v => { v with activation := some { images := BitVec.ofNat 5 (arg e 0 5), since := s.pm } }, { status := .accepted }))) ∧
  (∀ e n s, Accepted 0x0A08 e n s → e.payload.length = 4 → s.sys.dev = .quarantine → sessionOf e (admitted e n s) ≠ none → arg e 5 27 = 0 →
    (∀ i : Fin 5, named (arg e 0 5) i.val = true → s.sec.image[i].other.verified = true) →
    s.sec.activation = none → (∀ l, s.sec.load = some l → named (arg e 0 5) l.image = false) →
    consistent ((List.finRange 5).map fun i => if named (arg e 0 5) i.val then s.sec.image[i].other else s.sec.image[i].run) = true →
    exec (.secActivate e) s = .next (finish 0x0A08 e n s fun u => (u, { status := .accepted }))) ∧
  (∀ e n s, Accepted 0x0A09 e n s → e.payload.length = 0 → s.sys.dev ∈ inQBAMCFL →
    exec (.secImageStatus e) s = .next (finish 0x0A09 e n s fun u => (u, { data := (vlist s.sec.image).flatMap fun m => leBytes 4 m.bank0.version ++ leBytes 4 m.bank1.version ++ leBytes 8 (b2n m.running ||| b2n m.bank0.verified <<< 1 ||| b2n m.bank1.verified <<< 2) }))) ∧
  (∀ e n s sh, Accepted 0x0B00 e n s → e.payload.length = 3 → s.sys.dev ∈ inBAMCFL → itemShape (arg e 0 8) = some sh → arg e 0 8 ≠ 0x0D →
    0 < arg e 16 8 → arg e 8 8 + arg e 16 8 ≤ sh.2 → arg e 16 8 * sh.1 ≤ 4084 →
    exec (.diagRead e) s = .next (finish 0x0B00 e n s fun u => (u, { data := itemsBytes u (arg e 0 8) (arg e 8 8) (arg e 16 8) })))

/-- What a host port does beside requests: bad headers, notices, LINK_LOST, PB.HOST after its reply, START after SYS_RESET (R359, R363, R373, R382, R379, R354, R434, 17_command_reference.md). Where the spec is open or silent it states the model's choices: log entries 12, 63, 65. -/
def Obligations.PortEventsExecute : Prop :=
  (∀ (p : Port) (s : State), portListens s p = true → 
    ∃ t, exec (.badHeader p) s = .next t ∧ Noted (modPort p (fun q => { q with badHeader := q.badHeader + 1 }) s) t) ∧
  (∀ (p : Port) (s : State), portListens s p = true → 0 < (portOf s p).noticeCredits → ((portOf s p).notices ≠ [] ∨ (portOf s p).noticesLost ≠ 0) → (portOf s p).out.all (fun o => o.body.telemetric) = true → 
    ∃ t, exec (.noticeEnvelope p) s = .next t ∧ Only [.host] s t ∧ (∀ q, q ≠ p → portOf t q = portOf s q) ∧
      (portOf t p).notices = (portOf s p).notices.drop (nextRecords s p).2.1 ∧ (portOf t p).noticesLost = 0 ∧
      (portOf t p).noticeCredits = (portOf s p).noticeCredits - 1 ∧ (portOf t p).outSeq = (portOf s p).outSeq + 1 ∧
      ∃ o, (portOf t p).out = o :: (portOf s p).out ∧ o.opcode = 0x00F0 ∧ o.seq = (portOf s p).outSeq ∧ o.body = .notices (nextRecords s p).1) ∧
  (∀ (p : Port) (s : State), portListens s p = true → (portOf s p).linkArmed = true → (portOf s p).linkLost = false → (portOf s p).linkFrom + linkTimeout s p ≤ s.pm → (linkSafe s p = false ∨ s.sys.dev ∉ [.armed, .manual, .coast] ∨ (s.sys.dev = .coast ∧ s.sys.coastFromArmed = false ∧ s.sys.coastFromManual = false)) → 
    ∃ t, exec (.linkLost p) s = .next t ∧ Noted (modPort p (fun q => { q with linkLost := true }) s) t ∧ Logged 0x1A (portIx p).val t) ∧
  (∀ (p : Port) (s : State), portListens s p = true → (portOf s p).linkArmed = true → (portOf s p).linkLost = false → (portOf s p).linkFrom + linkTimeout s p ≤ s.pm → linkSafe s p = true → (s.sys.dev = .armed ∨ s.sys.dev = .manual ∨ (s.sys.dev = .coast ∧ (s.sys.coastFromArmed = true ∨ s.sys.coastFromManual = true))) → 
    ∃ t, exec (.linkLost p) s = .next t ∧ Entered .safe s.sys.dev 0x1A t) ∧
  (∀ (p : Port) (img : Nat) (s : State), s.host.applyWait = some (p, img) → replyGone s p 0x0102 = true → 
    exec (.pbHostApply) s = .next (putActive .host img (s.onHost fun h => { h with applyWait := none }))) ∧
  (∀ (p : Port) (s : State), s.host.resetWait = some p → s.sys.dev = .quarantine → replyGone s p 0x0008 = true → (s.running = false ∨ s.pm % 40000 = 0) → 
    ∃ t, exec (.resetAfterReply) s = .next t ∧ Entered .start .quarantine 0x01 t ∧ t.running = false ∧ t.pwr.startCause = 3 ∧ t.pd0.bootCount = s.pd0.bootCount + 1 ∧ t.act = s.nor.params ∧ t.shd = s.nor.params ∧ t.host = {} ∧ t.pending = s.pending) ∧
  (∀ (op : BitVec 16) (e : Env) (n : Nat) (s : State), Accepted op e n s → opInfo op = none →
    exec (.badOpcode op e) s = .next (finish op e n s fun u => (u, { status := .badOpcode })))

/-- The frame edge and the phases of a frame run what the frame holds, in its order (R35, R36, 17_command_reference.md). Where the spec is open or silent it states the model's choices: log entries 10, 30, 67. -/
def Obligations.FramePhasesExecute : Prop :=
  (∀ (f : Freeze) (e : Nat) (u : State) (s : State), e = edgeOf s.pm → s.running = true → s.sys.dev ≠ .off → (∀ l, s.sys.lastEdge = some l → l < edgeOf s.pm) → u = ((toggleFaultOut (trigSource 7 0 e 0 (bkoError (activationEdge e (settleActivation e (edgeStates e ((lastFrameEnd e s).onSys fun y => { y with lastEdge := some e, phase := some .freeze }))))))).onLsw fun v => { v with sel := f.sel }) → framesRun u = true → 
    exec (.frameEdge f) s = .next (freezeFrame e f u)) ∧
  (∀ (f : Freeze) (e : Nat) (u : State) (s : State), e = edgeOf s.pm → s.running = true → s.sys.dev ≠ .off → (∀ l, s.sys.lastEdge = some l → l < edgeOf s.pm) → u = ((toggleFaultOut (trigSource 7 0 e 0 (bkoError (activationEdge e (settleActivation e (edgeStates e ((lastFrameEnd e s).onSys fun y => { y with lastEdge := some e, phase := some .freeze }))))))).onLsw fun v => { v with sel := f.sel }) → framesRun u = false → 
    exec (.frameEdge f) s = .next (u)) ∧
  (∀ (e : Nat) (i : ImplSet) (s : State), s.sys.lastEdge = some e → s.sys.phase = some .freeze → e + 20000 ≤ s.pm → s.pm < e + 32000 → feWorks s e = true → s.impl.active = some i → 
    ∃ t, exec (.decisionPhase) s = .next t ∧ t.fe.batch = some (formBatch e i (s.onSys fun y => { y with phase := some .decision })).2 ∧ t.impl = s.impl ∧ t.act = s.act ∧ t.vdr = s.vdr ∧ t.pwu = s.pwu) ∧
  (∀ (e : Nat) (s : State), s.sys.lastEdge = some e → s.sys.phase = some .freeze → e + 20000 ≤ s.pm → s.pm < e + 32000 → feWorks s e = true → s.impl.active = none → 
    ∃ t, exec (.decisionPhase) s = .next t ∧ ∃ b, t.fe.batch = some b ∧ b.edge = e ∧ b.events = [] ∧ b.duties = [] ∧ b.paints = [] ∧ t.sys.phase = some .decision ∧ Only [.sys, .fe] s t) ∧
  (∀ (e : Nat) (s : State), s.sys.lastEdge = some e → s.sys.phase = some .freeze → e + 20000 ≤ s.pm → s.pm < e + 32000 → feWorks s e = false → 
    exec (.decisionPhase) s = .next (s.onSys fun y => { y with phase := some .decision })) ∧
  (∀ (e : Nat) (b : Batch) (s : State), s.sys.lastEdge = some e → s.sys.phase = some .decision → e + 32000 ≤ s.pm → s.pm < e + 36000 → feWorks s e = true → s.fe.batch = some b → 
    exec (.commitPhase true) s = .next (fieldClean e ((commitBatch b (s.onSys fun y => { y with phase := some .commit })).onFe fun f => { f with work := none }))) ∧
  (∀ (e : Nat) (agree : Bool) (s : State), s.sys.lastEdge = some e → s.sys.phase = some .decision → e + 32000 ≤ s.pm → s.pm < e + 36000 → feWorks s e = false → 
    exec (.commitPhase agree) s = .next (s.onSys fun y => { y with phase := some .commit })) ∧
  (∀ (e : Nat) (s : State), s.sys.lastEdge = some e → s.sys.phase = some .decision → e + 32000 ≤ s.pm → s.pm < e + 36000 → feWorks s e = true → 
    exec (.commitPhase false) s = .next ((s.onSys fun y => { y with phase := some .commit }).onFe fun f => { f with batch := none })) ∧
  (∀ (e : Nat) (s : State), s.sys.lastEdge = some e → s.sys.phase ≠ some .logging → e + 36000 ≤ s.pm → s.pm < e + 40000 → 
    ∃ t, exec (.loggingPhase) s = .next t ∧ t.fe.records = [] ∧ t.sys.phase = some .logging ∧ (feWorks s e = true → t.fe.work = none ∧ t.fe.batch = none))

/-- Key, alarm, supply and ground events (R24, R379, R442, R452, R463, R464, R465, R466, R467, 17_command_reference.md). Where the spec is open or silent it states the model's choices: log entries 3, 16, 18, 71. -/
def Obligations.SupplyEventsExecute : Prop :=
  (∀  (s : State), s.sys.dev = .off → s.pwr.vbatOk = true → s.pd0.fresh = false → 
    ∃ t, exec (.vkeyHigh) s = .next t ∧ Entered .start .off 0x03 t ∧ t.pwr.vkey = true ∧ t.pwr.startCause = 1 ∧ t.running = false ∧ t.pd0.bootCount = s.pd0.bootCount + 1) ∧
  (∀  (s : State), s.sys.dev = .off → s.pwr.vbatOk = true → s.pd0.fresh = true → 
    ∃ t, exec (.vkeyHigh) s = .next t ∧ Entered .start .off 0x02 t ∧ t.pwr.vkey = true ∧ t.pwr.startCause = 0) ∧
  (∀  (s : State), s.sys.dev = .latched → s.pwr.domains = 1 → 
    ∃ t, exec (.vkeyHigh) s = .next t ∧ Entered .start .latched 0x03 t ∧ t.pwr.vkey = true ∧ t.pwr.startCause = 1) ∧
  (∀  (s : State), (s.sys.dev = .off → s.pwr.vbatOk = false) → (s.sys.dev = .latched → s.pwr.domains ≠ 1) → 
    exec (.vkeyHigh) s = .next (s.onPwr fun p => { p with vkey := true, vkeyLowAt := none })) ∧
  (∀  (s : State), s.pwr.vkey = true → 
    ∃ t, exec (.vkeyLow) s = .next t ∧ t.pwr = { s.pwr with vkey := false, vkeyLowAt := some s.pm } ∧ Entered s.sys.dev s.sys.prev s.sys.cause t ∧
      (s.restarting .enclave = false → s.sys.dev ≠ .off → t.map.log = []) ∧ (∀ a, s.sec.activation = some a → a.switchAt = none → t.sec.activation = none)) ∧
  (∀ (t0 : Nat) (s : State), s.pwr.vkeyLowAt = some t0 → (s.sys.dev = .standby ∨ s.sys.dev = .quarantine ∨ s.sys.dev = .safe) → t0 + keyOffDelay s ≤ s.pm → s.pm % 40000 = 0 → 
    ∃ t, exec (.keyOffDelayExpiry) s = .next t ∧ Entered .off s.sys.dev 0x03 t ∧ t.running = false ∧ t.pwr.domains = 1) ∧
  (∀ (t0 : Nat) (s : State), s.pd0.wakeAlarm = some t0 → t0 ≤ s.pd0.now → s.sys.dev = .off → s.pwr.vbatOk = true → s.pd0.fresh = false → 
    ∃ t, exec (.wakeAlarm) s = .next t ∧ Entered .start .off 0x05 t ∧ t.pwr.startCause = 2 ∧ t.pd0.wakeAlarm = none) ∧
  (∀ (t0 : Nat) (s : State), s.pd0.wakeAlarm = some t0 → t0 ≤ s.pd0.now → ¬(s.sys.dev = .off ∧ s.pwr.vbatOk = true) → 
    exec (.wakeAlarm) s = .next (s.onPd0 fun d => { d with wakeAlarm := none })) ∧
  (∀  (s : State), s.sys.dev = .off → s.pwr.vkey = false → 
    exec (.vbatStartBand) s = .next ((lswReverseEnds s).onPwr fun p => { p with vbatOk := true, reverseBatt := false })) ∧
  (∀  (s : State), s.sys.dev = .off → s.pwr.vkey = true → s.pd0.fresh = false → 
    ∃ t, exec (.vbatStartBand) s = .next t ∧ Entered .start .off 0x03 t ∧ t.pwr.vbatOk = true ∧ t.pwr.startCause = 1) ∧
  (∀  (s : State), s.sys.dev = .off → 
    exec (.brownOut) s = .next (s.onPwr fun p => { p with vbatOk := false })) ∧
  (∀  (s : State), s.sys.dev ≠ .off → 
    ∃ t, exec (.brownOut) s = .next t ∧ Entered .off s.sys.dev 0x02 t ∧ t.pwr.vbatOk = false ∧ t.running = false) ∧
  (∀  (s : State), s.sys.dev = .off → 
    exec (.lowSupply) s = .next (s.onPwr fun p => { p with vbatOk := false })) ∧
  (∀  (s : State), s.sys.dev ≠ .off → s.pwr.lowSupply = false → 
    ∃ t, exec (.lowSupply) s = .next t ∧ Noted (s.onPwr fun p => { p with lowSupply := true }) t ∧ Logged 0x24 3 t) ∧
  (∀  (s : State), s.pwr.lowSupply = true → 
    ∃ t, exec (.lowSupplyExit) s = .next t ∧ Noted (s.onPwr fun p => { p with lowSupply := false }) t ∧ Ended 0x24 3 s t) ∧
  (∀  (s : State), 
    ∃ t, exec (.powerCycle) s = .next t ∧ Entered .off s.sys.dev 0x02 t ∧ t.pwr.vbatOk = false ∧ t.pd0.fresh = true ∧ t.pd0.bootCount = s.nor.bootCount ∧ t.pd0.tcxo = s.nor.tcxo ∧
      t.pd0.odoScale = s.nor.odoScale ∧ t.pd0.faultLog = s.nor.faultLog ∧ t.pd0.wakeAlarm = none ∧ t.pd0.latch = none ∧ t.nor = s.nor) ∧
  (∀  (s : State), s.sys.dev ≠ .off → s.pwr.groundLost = false → 
    ∃ t, exec (.lossOfGround) s = .next t ∧ t.pwr = { s.pwr with groundLost := true, groundBack := none } ∧ Logged 0x24 0 t ∧
      (∀ g : Fin 8, t.pwu.fine[g].gh = false ∧ t.pwu.fine[g].gl = false) ∧ (∀ b : Fin 12, t.vdr.bank[b].windows = [] ∧ t.vdr.bank[b].feed = .bat)) ∧
  (∀  (s : State), s.sys.dev ≠ .off → s.pwr.groundLost = true → 
    exec (.lossOfGround) s = .next (s.onPwr fun p => { p with groundBack := none })) ∧
  (∀  (s : State), s.sys.dev = .off → 
    exec (.lossOfGround) s = .next (lswGroundLossOff s)) ∧
  (∀  (s : State), s.pwr.groundLost = true → 
    exec (.groundRestored) s = .next (s.onPwr fun p => { p with groundBack := some s.pm })) ∧
  (∀  (s : State), 
    ∃ t, exec (.reverseBattery) s = .next t ∧ t.sys.dev = .off ∧ t.pwr.reverseBatt = true ∧ t.pwr.vbatOk = false) ∧
  (∀  (s : State), s.sys.dev ≠ .off → s.pwr.loadDump = false → 
    ∃ t, exec (.loadDump) s = .next t ∧ Noted (s.onPwr fun p => { p with loadDump := true, over36 := true }) t ∧ Logged 0x24 2 t)

/-- The steps of START (R372, R417, R439, R452, R453, R455, 17_command_reference.md). Where the spec is open or silent it states the model's choices: log entries 3, 51, 70, 72. -/
def Obligations.StartEventsExecute : Prop :=
  (∀  (s : State), s.sys.dev = .start → s.running = false → s.sys.bootStage = 1 → 
    ∃ t, exec (.timeResetRelease) s = .next t ∧ t.running = true ∧ t.pm = 0 ∧ t.sys = { s.sys with bootStage := 2 } ∧ t.pwr = { s.pwr with domains := s.pwr.domains ||| 0x102 }) ∧
  (∀ (v0 v1 : Vector BankVerdict 5) (c : List Bool) (s : State), s.sys.dev = .start → s.running = true → s.sys.bootStage = 2 → s.sys.imagesOk = false → s.sys.quarCause = 0 → selectSet (s.onSec fun c => { c with image := vmapIdx c.image fun i m => { m with bank0 := verdict s i m m.bank0 v0[i], bank1 := verdict s i m m.bank1 v1[i] } }) = some c → 
    ∃ t, exec (.imageSetSelect v0 v1) s = .next t ∧ t.sys.imagesOk = true ∧ Entered .start s.sys.prev s.sys.cause t) ∧
  (∀ (v0 v1 : Vector BankVerdict 5) (u : State) (s : State), s.sys.dev = .start → s.running = true → s.sys.bootStage = 2 → s.sys.imagesOk = false → s.sys.quarCause = 0 → u = (s.onSec fun c => { c with image := vmapIdx c.image fun i m => { m with bank0 := verdict s i m m.bank0 v0[i], bank1 := verdict s i m m.bank1 v1[i] } }) → selectSet u = none → ¬(u.sec.image[(0 : Fin 5)].other.verified = true ∧ s.pwr.secureTried = false) → 
    ∃ t, exec (.imageSetSelect v0 v1) s = .next t ∧ t = extendOpen 6 0x03 (u.onSys fun y => { y with quarCause := 2 })) ∧
  (∀ (v0 v1 : Vector BankVerdict 5) (u : State) (s : State), s.sys.dev = .start → s.running = true → s.sys.bootStage = 2 → s.sys.imagesOk = false → s.sys.quarCause = 0 → u = (s.onSec fun c => { c with image := vmapIdx c.image fun i m => { m with bank0 := verdict s i m m.bank0 v0[i], bank1 := verdict s i m m.bank1 v1[i] } }) → selectSet u = none → u.sec.image[(0 : Fin 5)].other.verified = true → s.pwr.secureTried = false → 
    ∃ t, exec (.imageSetSelect v0 v1) s = .next t ∧ Entered .start s.sys.prev s.sys.cause t ∧ t.running = false ∧ t.pwr.startCause = 4 ∧ t.pwr.secureTried = true) ∧
  (∀  (s : State), s.sys.dev = .start → s.sys.bootStage = 2 → (s.sys.imagesOk = true ∨ s.sys.quarCause = 2) → s.sys.powered = false → s.pd0.latch = none → 
    exec (.domainPowerUp) s = .next ((s.onSys fun y => { y with powered := true, bootStage := 3, stageAt := s.pm }).onPwr fun p => { p with domains := if s.sys.imagesOk then 0xFFF else 0xD07 })) ∧
  (∀ (l : ThermLatch) (s : State), s.sys.dev = .start → s.sys.bootStage = 2 → (s.sys.imagesOk = true ∨ s.sys.quarCause = 2) → s.sys.powered = false → s.pd0.latch = some l → 
    ∃ t, exec (.domainPowerUp) s = .next t ∧ Entered .latched .start 0x04 t ∧ t.pwr = { s.pwr with domains := if s.pwr.vkey then 0xD27 else 1 }) ∧
  (∀  (s : State), s.sys.powered = true → s.sys.hostAlive = false → 
    ∃ t, exec (.hostPortAlive) s = .next t ∧ t.sys = { s.sys with hostAlive := true, limiter := t.sys.limiter } ∧ t.pd0.latch = s.pd0.latch.map fun l => { l with reported := true }) ∧
  (∀ (failed : List Nat) (s : State), s.sys.dev = .start → s.sys.powered = true → s.sys.imagesOk = true → s.pm % 40000 = 0 → s.sys.selftestFail = 0 → failed.filter quarantineTest = [] → 
    ∃ t, exec (.selftestComplete failed) s = .next t ∧ Entered .standby .start 0x06 t) ∧
  (∀ (failed : List Nat) (s : State), s.sys.dev = .start → s.sys.powered = true → s.sys.imagesOk = true → s.pm % 40000 = 0 → (s.sys.selftestFail ≠ 0 ∨ failed.filter quarantineTest ≠ []) → 
    ∃ t, exec (.selftestComplete failed) s = .next t ∧ Entered .quarantine .start 0x07 t) ∧
  (∀ (d : Fin 12) (s : State), bitN (requiredDomains s) d.val = true → s.pwr.domains.getLsbD d.val = false → 
    exec (.powerDomainSwitch d true) s = .next (s.onPwr fun p => { p with domains := p.domains ^^^ BitVec.ofNat 12 (2 ^ d.val) })) ∧
  (∀ (d : Fin 12) (s : State), bitN (requiredDomains s) d.val = false → s.pwr.domains.getLsbD d.val = true → 
    exec (.powerDomainSwitch d false) s = .next (resetDomain d.val (flushCrossing (flushedWith d.val) (s.onPwr fun p => { p with domains := p.domains ^^^ BitVec.ofNat 12 (2 ^ d.val) })))) ∧
  (∀ (retired : Vector Nat 3) (s : State), s.sys.bootStage = 4 → s.sys.mapReady = false → s.sys.dev ≠ .latched → 
    ∃ t, exec (.dramTestDone retired) s = .next t ∧ t.sys.mapReady = true ∧ t.sys.dramTest = 100 ∧ Entered s.sys.dev s.sys.prev s.sys.cause t)

/-- A failed check of an element restarts it: through COAST, in place, or into SAFE (R445, 17_command_reference.md). Where the spec is open or silent it states the model's choices: log entries 11, 12, 16, 20. -/
def Obligations.ElementChecksExecute : Prop :=
  (∀ (s : State) (el : Element) (x : Instr × Element × Nat), x ∈ ([(.pairCheck, .pair, 0x10), (.ceCheck, .control, 0x12), (.gnssCheck, .gnss, 0x13), (.enclaveCheck, .enclave, 0x14), (.clockElement el, el, 0x15)] : List (Instr × Element × Nat)) → x.2.1 = el → (s.sys.dev = .standby ∨ s.sys.dev = .armed ∨ s.sys.dev = .manual) → restartsInWindow s el < restartLimit s → s.safe.safeIn = false → vbatOperating s = true → diesCool s = true → 
    ∃ t, exec x.1 s = .next t ∧ Entered .coast s.sys.dev x.2.2 t) ∧
  (∀ (s : State) (el : Element) (x : Instr × Element × Nat), x ∈ ([(.pairCheck, .pair, 0x10), (.ceCheck, .control, 0x12), (.gnssCheck, .gnss, 0x13), (.enclaveCheck, .enclave, 0x14), (.clockElement el, el, 0x15)] : List (Instr × Element × Nat)) → x.2.1 = el → s.sys.dev = .coast → restartsInWindow s el < restartLimit s → s.safe.safeIn = false → vbatOperating s = true → diesCool s = true → 
    ∃ t, exec x.1 s = .next t ∧ Entered .coast s.sys.prev s.sys.cause t) ∧
  (∀ (s : State) (el : Element) (x : Instr × Element × Nat), x ∈ ([(.pairCheck, .pair, 0x10), (.ceCheck, .control, 0x12), (.gnssCheck, .gnss, 0x13), (.enclaveCheck, .enclave, 0x14), (.clockElement el, el, 0x15)] : List (Instr × Element × Nat)) → x.2.1 = el → safeAllowed s = true → restartLimit s ≤ restartsInWindow s el → 
    ∃ t, exec x.1 s = .next t ∧ Entered .safe s.sys.dev 0x17 t) ∧
  (∀ (s : State) (el : Element) (x : Instr × Element × Nat), x ∈ ([(.pairCheck, .pair, 0x10), (.ceCheck, .control, 0x12), (.gnssCheck, .gnss, 0x13), (.enclaveCheck, .enclave, 0x14), (.clockElement el, el, 0x15)] : List (Instr × Element × Nat)) → x.2.1 = el → (s.sys.dev = .quarantine ∨ s.sys.dev = .safe ∨ s.sys.dev = .latched ∨ s.sys.dev = .start ∨ s.sys.dev = .off) → 
    ∃ t, exec x.1 s = .next t ∧ Entered s.sys.dev s.sys.prev s.sys.cause t) ∧
  (∀ (el : Element) (s : State), s.sys.dev ≠ .off → 
    ∃ t, exec (.clockElement el) s = .next t ∧ (elemOf t el).clockBad = true ∧ (elemOf t el).relockAt = s.pm)

/-- Clock base, PLL, COAST expiry, element restart, safe input, row bus-off (R25, R425, R429, R431, R446, 17_command_reference.md). Where the spec is open or silent it states the model's choices: log entries 11, 12, 13, 16, 17, 18, 20. -/
def Obligations.ClockAndSafetyEventsExecute : Prop :=
  (∀ (k : BitVec 8) (s : State), safeAllowed s = true → 
    ∃ t, exec (.clockBase k) s = .next t ∧ Entered .safe s.sys.dev 0x16 t ∧
      t.pwr = { s.pwr with clkFails := s.pwr.clkFails + 1, clkBaseBad := true, clkBase := k, onBko := s.pwr.onBko || decide (k.toNat ≤ 1) }) ∧
  (∀ (k : BitVec 8) (s : State), safeAllowed s = false → s.sys.dev ≠ .off → 
    ∃ t, exec (.clockBase k) s = .next t ∧ Noted (s.onPwr fun p => { p with clkFails := p.clkFails + 1, clkBaseBad := true, clkBase := k, onBko := p.onBko || decide (k.toNat ≤ 1) }) t ∧ Logged 0x16 0xFFFF t) ∧
  (∀  (s : State), s.pwr.clkBaseBad = true → 
    ∃ t, exec (.clockBaseRestored) s = .next t ∧ Noted (s.onPwr fun p => { p with clkBaseBad := false, onBko := false }) t ∧ Ended 0x16 0xFFFF s t) ∧
  (∀ (el : Element) (s : State), (elemOf s el).clockBad = true → (elemOf s el).relockAt ≤ s.pm → 
    ∃ t, exec (.pllRelock el true) s = .next t ∧ Noted (modElem el (fun x => { x with clockBad := false }) s) t) ∧
  (∀ (el : Element) (s : State), (elemOf s el).clockBad = true → (elemOf s el).relockAt ≤ s.pm → 
    exec (.pllRelock el false) s = .next (modElem el (fun x => { x with relockAt := s.pm + 80000 }) s)) ∧
  (∀ (e t0 : Nat) (s : State), e = edgeOf (coastEnd s + 3999) → t0 = (if e < coastEnd s then e + 40000 else e) → s.sys.dev = .coast → coastEnd s ≤ s.pm → allClean (if t0 < coastEnd s + 4000 then cleanFrames t0 s else s) = false → 
    ∃ t, exec (.coastExpired) s = .next t ∧ Entered .safe .coast 0x18 t) ∧
  (∀ (el : Element) (s : State), (elemOf s el).restarting = true → (elemOf s el).clockBad = false → 
    exec (.elementRestartComplete el) s = .next (afterRestart el (modElem el (fun x => { x with restarting := false, doneAt := some s.pm }) s))) ∧
  (∀  (s : State), safeInEn s = true → safeAllowed s = true → 
    ∃ t, exec (.safeIn) s = .next t ∧ Entered .safe s.sys.dev 0x19 t ∧ t.safe.safeIn = true) ∧
  (∀  (s : State), safeInEn s = true → s.sys.dev = .start → 
    ∃ t, exec (.safeIn) s = .next t ∧ Noted ((gatesOff (valvesCut s.pm (s.onSafe fun v => { v with safeIn := true }))).onSafe fun v => { v with safeInStart := true }) t ∧ Logged 0x19 0xFFFF t) ∧
  (∀  (s : State), safeInEn s = true → (s.sys.dev = .quarantine ∨ s.sys.dev = .safe ∨ s.sys.dev = .latched) → 
    ∃ t, exec (.safeIn) s = .next t ∧ Noted (gatesOff (valvesCut s.pm (s.onSafe fun v => { v with safeIn := true }))) t ∧ Logged 0x19 0xFFFF t) ∧
  (∀  (s : State), s.safe.safeIn = true → 
    ∃ t, exec (.safeInRelease) s = .next t ∧ Noted (s.onSafe fun v => { v with safeIn := false }) t ∧ Ended 0x19 0xFFFF s t) ∧
  (∀ (t0 : Nat) (s : State), s.can.graceFrom = some t0 → t0 + rowGrace s ≤ s.pm → s.can.ctl[(1 : Fin 3)].st = .active → 
    exec (.rowBusoffGraceExpiry) s = .next (s.onCan fun v => { v with graceFrom := none })) ∧
  (∀ (t0 : Nat) (s : State), s.can.graceFrom = some t0 → t0 + rowGrace s ≤ s.pm → s.can.ctl[(1 : Fin 3)].st ≠ .active → safeAllowed s = true → 
    ∃ t, exec (.rowBusoffGraceExpiry) s = .next t ∧ Entered .safe s.sys.dev 0x1C t) ∧
  (∀ (t0 : Nat) (s : State), s.can.graceFrom = some t0 → t0 + rowGrace s ≤ s.pm → s.can.ctl[(1 : Fin 3)].st ≠ .active → safeAllowed s = false → 
    ∃ t, exec (.rowBusoffGraceExpiry) s = .next t ∧ Noted (s.onCan fun v => { v with graceFrom := none }) t ∧ Logged 0x1C 1 t)

/-- Events of the boost converter (R203, R426, 17_command_reference.md). Where the spec is open or silent it states the model's choices: log entries 12, 57. -/
def Obligations.ConverterEventsExecute : Prop :=
  (∀  (s : State), s.sys.dev ≠ .off → s.vdr.conv.fault = false → 
    ∃ t, exec (.boost) s = .next t ∧ Noted (leaveVbst s s.pm (s.onVdr fun v => { v with conv := { v.conv with fault := true, on := false, retryAt := s.pm + 800000000 } })) t ∧ Logged 0x23 0xFFFF t) ∧
  (∀  (s : State), s.vdr.conv.fault = true → s.vdr.conv.retryAt ≤ s.pm → 
    ∃ t, exec (.boostRetry true) s = .next t ∧ Noted (syncConv (s.onVdr fun v => { v with conv := { v.conv with fault := false } })) t ∧ Ended 0x23 0xFFFF s t) ∧
  (∀  (s : State), s.vdr.conv.fault = true → s.vdr.conv.retryAt ≤ s.pm → 
    exec (.boostRetry false) s = .next (s.onVdr fun v => { v with conv := { v.conv with retryAt := v.conv.retryAt + 800000000 } })) ∧
  (∀ (mw : Nat) (s : State), s.vdr.conv.boostLimit = false → 40000 * (256 - boostR s) / 256 ≤ mw → 
    ∃ t, exec (.boostLimit mw) s = .next t ∧ Noted (s.onVdr fun v => { v with conv := { v.conv with boostLimit := true } }) t) ∧
  (∀ (mw : Nat) (s : State), s.vdr.conv.boostLimit = true → mw < 36000 → mw < 40000 * (256 - boostR s) / 256 → 
    ∃ t, exec (.boostLimit mw) s = .next t ∧ Noted (s.onVdr fun v => { v with conv := { v.conv with boostLimit := false } }) t) ∧
  (∀ (mv : Nat) (s : State), s.vdr.conv.sag = false → mv + 600 < vbstTarget s s.vdr.conv.vbat → 
    ∃ t, exec (.vbstSag mv) s = .next t ∧ Noted (s.onVdr fun v => { v with conv := { v.conv with vbst := mv, sag := true } }) t) ∧
  (∀ (mv : Nat) (s : State), s.vdr.conv.sag = true → vbstTarget s s.vdr.conv.vbat ≤ mv + 200 → 
    ∃ t, exec (.vbstSag mv) s = .next t ∧ Noted (s.onVdr fun v => { v with conv := { v.conv with vbst := mv, sag := false } }) t) ∧
  (∀ (mv : Nat) (s : State), (s.vdr.conv.sag = false → vbstTarget s s.vdr.conv.vbat ≤ mv + 600) → (s.vdr.conv.sag = true → mv + 200 < vbstTarget s s.vdr.conv.vbat) → 
    exec (.vbstSag mv) s = .next (s.onVdr fun v => { v with conv := { v.conv with vbst := mv } })) ∧
  (∀ (mv : Nat) (s : State), s.vdr.conv.returnSusp = false → (3600 < mv ∨ returnEn s = false) → 
    ∃ t, exec (.returnSuspended mv) s = .next t ∧ Noted ((s.onVdr fun v => { v with conv := { v.conv with vbat := mv, returnSusp := true } }).onPwr fun p => { p with loadDump := p.loadDump && decide (3500 < mv), over36 := p.loadDump && decide (3600 < mv) }) t ∧ (s.pwr.loadDump = true → mv ≤ 3500 → Ended 0x24 2 s t)) ∧
  (∀ (mv : Nat) (s : State), s.vdr.conv.returnSusp = true → mv ≤ 3500 → returnEn s = true → 
    ∃ t, exec (.returnSuspended mv) s = .next t ∧ Noted ((s.onVdr fun v => { v with conv := { v.conv with vbat := mv, returnSusp := false } }).onPwr fun p => { p with loadDump := p.loadDump && decide (3500 < mv), over36 := p.loadDump && decide (3600 < mv) }) t ∧ (s.pwr.loadDump = true → mv ≤ 3500 → Ended 0x24 2 s t)) ∧
  (∀ (mv : Nat) (s : State), (s.vdr.conv.returnSusp = false → mv ≤ 3600 ∧ returnEn s = true) → (s.vdr.conv.returnSusp = true → 3500 < mv ∨ returnEn s = false) → 
    ∃ t, exec (.returnSuspended mv) s = .next t ∧ Noted ((s.onVdr fun v => { v with conv := { v.conv with vbat := mv } }).onPwr fun p => { p with loadDump := p.loadDump && decide (3500 < mv), over36 := p.loadDump && decide (3600 < mv) }) t ∧ (s.pwr.loadDump = true → mv ≤ 3500 → Ended 0x24 2 s t)) ∧
  (∀ (mv : Nat) (s : State), s.vdr.conv.divert = false → vbstTarget s s.vdr.conv.vbat + 600 < mv → 
    ∃ t, exec (.recoveryDivert mv) s = .next t ∧ Noted (s.onVdr fun v => { v with conv := { v.conv with vbst := mv, divert := true } }) t) ∧
  (∀ (mv : Nat) (s : State), s.vdr.conv.divert = true → mv ≤ vbstTarget s s.vdr.conv.vbat + 300 → 
    ∃ t, exec (.recoveryDivert mv) s = .next t ∧ Noted (s.onVdr fun v => { v with conv := { v.conv with vbst := mv, divert := false } }) t) ∧
  (∀ (mv : Nat) (s : State), (s.vdr.conv.divert = false → mv ≤ vbstTarget s s.vdr.conv.vbat + 600) → (s.vdr.conv.divert = true → vbstTarget s s.vdr.conv.vbat + 300 < mv) → 
    exec (.recoveryDivert mv) s = .next (s.onVdr fun v => { v with conv := { v.conv with vbst := mv } }))

/-- Time: epochs, holdover, the second pulse, the TCXO (R40, R43, R67, R319, R321, 17_command_reference.md). Where the spec is open or silent it states the model's choices: log entries 29, 30. -/
def Obligations.TimeEventsExecute : Prop :=
  (∀ (m : EpochIn) (t0 : Nat) (s : State), gnssRuns s = true → epochDue s = some t0 → 
    ∃ t, exec (.measurementEpoch m) s = .next t ∧ t.gnss.epochPm = t0 ∧ t.gnss.recAt = some s.pm ∧ t.gnss.seq = s.gnss.seq + 1) ∧
  (∀ (m : EpochIn) (s : State), (gnssRuns s = false ∨ epochDue s = none) → 
    exec (.measurementEpoch m) s = .next (s)) ∧
  (∀  (s : State), s.time.st = .locked → s.time.lastGood + 20000000 ≤ s.pm → 
    ∃ t, exec (.holdoverEntry) s = .next t ∧ Noted (s.onTime fun v => { v with st := .holdover }) t) ∧
  (∀  (s : State), s.time.st = .holdover → s.time.lastGood + holdoverLimit s ≤ s.pm → 
    ∃ t, exec (.holdoverLimitExpiry) s = .next t ∧ Noted (s.onTime fun v => { v with st := .free }) t) ∧
  (∀  (s : State), s.time.step = none → ppsRuns s = true → s.time.ppsFrom ≤ (s.time.model.latest second s.pm).2 → (∀ p, s.time.ppsSec = some p → p < (s.time.model.latest second s.pm).1) → 
    exec (.ppsPulse) s = .next (emitPulse (s.time.model.latest second s.pm).1 (s.time.model.latest second s.pm).2 0 s)) ∧
  (∀  (s : State), s.time.step = none → (ppsRuns s = false ∨ (s.time.model.latest second s.pm).2 < s.time.ppsFrom ∨ ∃ p, s.time.ppsSec = some p ∧ (s.time.model.latest second s.pm).1 ≤ p) → 
    exec (.ppsPulse) s = .next (s)) ∧
  (∀ (st : Step) (s : State), s.time.step = some st → st.held = false → (stepPulse st).2 ≤ s.pm → 
    ∃ t, exec (.ppsPulse) s = .next t ∧ t.time.model = st.model ∧ t.time.step = none ∧ t.time.st = .locked ∧ t.time.lastGood = max st.model.refPm s.time.lastClear) ∧
  (∀ (st : Step) (s : State), s.time.step = some st → st.held = false → s.pm < (stepPulse st).2 → (stepPulse st).1 ≤ (s.time.model.latest second s.pm).1 → 
    exec (.ppsPulse) s = .next (s)) ∧
  (∀  (s : State), s.time.ppsOut = true → s.time.ppsEnd ≤ s.pm → 
    exec (.ppsPulseEnd) s = .next (s.onTime fun v => { v with ppsOut := false })) ∧
  (∀ (x : Int) (s : State), s.time.st = .locked → 
    exec (.tcxoTempUpdate x) s = .next ((s.onTime fun v => { v with tcxoTemp := x }).onPd0 fun d => { d with tcxo := { d.tcxo with
      learned := d.tcxo.learned + 8000000, minT := some (min s.ths.zone[(9 : Fin 10)].temp (d.tcxo.minT.getD s.ths.zone[(9 : Fin 10)].temp)),
      maxT := some (max s.ths.zone[(9 : Fin 10)].temp (d.tcxo.maxT.getD s.ths.zone[(9 : Fin 10)].temp)) } })) ∧
  (∀ (x : Int) (s : State), s.time.st = .holdover → 
    exec (.tcxoTempUpdate x) s = .next (s.onTime fun v => { v with tcxoTemp := x, model := v.model.reanchor s.pm (s.pd0.tcxo.rateAt s.pd0.now x) 0 })) ∧
  (∀ (x : Int) (s : State), s.time.st ≠ .locked → s.time.st ≠ .holdover → 
    exec (.tcxoTempUpdate x) s = .next (s.onTime fun v => { v with tcxoTemp := x })) ∧
  (∀  (s : State), s.sys.dev = .standby → 
    exec (.tcxoClear) s = .next (s.onPd0 fun d => { d with tcxo := {} }))

/-- GNSS acquisition and tracking channels (R55, R57, R60, R61, R63, R64, R65, R440, 17_command_reference.md). Where the spec is open or silent it states the model's choices: log entries 32, 33. -/
def Obligations.GnssChannelEventsExecute : Prop :=
  (∀ (d : DwellIn) (s : State), s.gnss.dwell = none → 
    exec (.acqDwellEnd d) s = .next (acqNext s)) ∧
  (∀ (d : DwellIn) (w : Dwell) (s : State), s.gnss.dwell = some w → (acqRuns s = false ∨ s.pm < w.start + 80000 * w.passes) → 
    exec (.acqDwellEnd d) s = .next (s)) ∧
  (∀ (d : DwellIn) (w : Dwell) (s : State), s.gnss.dwell = some w → acqRuns s = true → w.start + 80000 * w.passes ≤ s.pm → w.mode ≠ .verify → dwellDetects w d s = true → 
    exec (.acqDwellEnd d) s = .next (acqNext (s.onGnss fun g => { g with dwell := none, verify := some { prn := w.prn, code := d.code, doppler := d.doppler, bin := w.low + 500 * ((d.doppler - w.low) / 500) } }))) ∧
  (∀ (d : DwellIn) (w : Dwell) (s : State), s.gnss.dwell = some w → acqRuns s = true → w.start + 80000 * w.passes ≤ s.pm → dwellDetects w d s = false → 
    exec (.acqDwellEnd d) s = .next (acqNext (s.onGnss fun g => { g with dwell := none, verify := none }))) ∧
  (∀ (d : DwellIn) (w : Dwell) (s : State), s.gnss.dwell = some w → acqRuns s = true → w.start + 80000 * w.passes ≤ s.pm → w.mode = .verify → dwellDetects w d s = true → 
    exec (.acqDwellEnd d) s = .next (acqNext (takeVerified { prn := w.prn, code := d.code, doppler := d.doppler, bin := w.low + 500 * ((d.doppler - w.low) / 500) } d.cn0 (s.onGnss fun g => { g with dwell := none, verify := none })))) ∧
  (∀  (s : State), gnssRuns s = true → 4 ≤ trackedValid s → s.gnss.warmAt + 800000000 ≤ s.pm → 
    exec (.warmSearchTimer) s = .next (acqNext (s.onGnss fun g => { g with warmAt := s.pm, search := if (predicted s).isSome then (searchPlan s).filter fun r => wanted s r.1 else [] }))) ∧
  (∀ (c : Fin 24) (s : State), gnssRuns s = true → s.gnss.chan[c].stage = .fll → s.gnss.chan[c].since + 16000000 ≤ s.pm → 
    ∃ t, exec (.pullInTimeout c) s = .next t ∧ t = acqNext (releaseChan c s) ∧ t.gnss.chan[c] = {}) ∧
  (∀ (c : Fin 24) (s : State), gnssRuns s = true → s.gnss.chan[c].stage = .fll → s.gnss.chan[c].since + 1600000 ≤ s.pm → s.pm < s.gnss.chan[c].since + 16000000 → 
    exec (.pullInComplete c) s = .next (modChan c (fun h => { h with stage := .pll, since := s.pm }) s)) ∧
  (∀ (c : Fin 24) (mean : Int) (s : State), gnssRuns s = true → (s.gnss.chan[c].stage = .pll ∨ s.gnss.chan[c].stage = .tracking) → s.gnss.chan[c].phaseLock = false → 700 ≤ mean → s.gnss.chan[c].since + 8000000 ≤ s.pm → 
    exec (.phaseLock c mean) s = .next (modChan c (fun h => { h with phaseLock := true, lockAt := s.pm, lockFrom := some s.pm, stage := if h.bitSync then .tracking else .pll }) s)) ∧
  (∀ (c : Fin 24) (mean : Int) (s : State), gnssRuns s = true → (s.gnss.chan[c].stage = .pll ∨ s.gnss.chan[c].stage = .tracking) → s.gnss.chan[c].phaseLock = true → mean < 500 → 
    exec (.phaseLock c mean) s = .next (modChan c (fun h => { h with phaseLock := false, halfCycle := false, lost := true, lockFrom := none, stage := .pll }) s)) ∧
  (∀ (c : Fin 24) (mean : Int) (s : State), ((s.gnss.chan[c].phaseLock = false ∧ (mean < 700 ∨ s.pm < s.gnss.chan[c].since + 8000000)) ∨ (s.gnss.chan[c].phaseLock = true ∧ 500 ≤ mean)) → 
    exec (.phaseLock c mean) s = .next (s)) ∧
  (∀ (c : Fin 24) (l : List Nat) (s : State), gnssRuns s = true → s.gnss.chan[c].stage = .pll → s.gnss.chan[c].phaseLock = true → s.gnss.chan[c].bitSync = false → s.gnss.chan[c].lockAt + 160000000 ≤ s.pm → l.length = 20 → 10 ≤ l.foldl max 0 → 60 * l.sum ≤ 100 * l.foldl max 0 → 
    exec (.bitSync c l) s = .next (modChan c (fun h => { h with bitSync := true, stage := .tracking }) s)) ∧
  (∀ (c : Fin 24) (f : FrameIn) (s : State), gnssRuns s = true → s.gnss.chan[c].stage = .tracking → s.gnss.chan[c].bitSync = true → s.gnss.chan[c].frameSync = false → frameFound f = true → 
    exec (.frameSync c f) s = .next (setTow (6000 * dataBits (sourceBits f.how f.tlm[0]) 1 17 % 604800000) (s.pm - 12800000)
      (modChan c (fun h => { h with frameSync := true, inverted := preambleOf f.tlm == 0x74, halfCycle := h.phaseLock, towKnown := true, wordIx := 0, badRun := 0, words := [],
                                    d29 := preambleOf f.tlm == 0x74, d30 := preambleOf f.tlm == 0x74 }) s))) ∧
  (∀ (c : Fin 24) (w : BitVec 30) (s : State), gnssRuns s = true → s.gnss.chan[c].stage.tracks = true → s.gnss.chan[c].frameSync = true → 
    ∃ t, exec (.lnavWord c w) s = .next t ∧ Only [.gnss, .time] s t ∧ t.gnss.chan[c].wordIx = (s.gnss.chan[c].wordIx + 1) % 10 ∧
      t.gnss.chan[c].d29 = wordBit w 29 ∧ t.gnss.chan[c].d30 = wordBit w 30 ∧
      t.gnss.chan[c].parityFails = (if parityOk w s.gnss.chan[c].d29 s.gnss.chan[c].d30 then s.gnss.chan[c].parityFails else s.gnss.chan[c].parityFails + 1)) ∧
  (∀ (p : Fin 32) (c : Fin 24) (i w : Nat) (s : State), gnssRuns s = true → tracked s p = some c → (vlist s.gnss.chan[c].subs).all (·.length = 10) = true → i = dataBits (subWord s.gnss.chan[c] 1 3) 1 8 → i = dataBits (subWord s.gnss.chan[c] 2 10) 1 8 → i = dataBits (subWord s.gnss.chan[c] 0 8) 1 8 → w = dataBits (subWord s.gnss.chan[c] 0 3) 1 10 → 
    ∃ t, exec (.ephemerisAccept p) s = .next t ∧ (t.gnss.week = some (fullWeek s.gnss.weekRef w) ∨ t.gnss.week = some (fullWeek s.gnss.weekRef (w + 1))) ∧ t.time = s.time ∧ t.gnss.iono = s.gnss.iono) ∧
  (∀ (c : Fin 24) (t0 : Nat) (s : State), gnssRuns s = true → s.gnss.chan[c].stage.tracks = true → s.gnss.chan[c].weakFrom = some t0 → t0 + 160000000 ≤ s.pm → 
    ∃ t, exec (.channelLoss c) s = .next t ∧ t = acqNext (releaseChan c s) ∧ t.gnss.chan[c] = {}) ∧
  (∀ (t0 : Nat) (s : State), s.pwr.acqIdleSince = some t0 → s.act.flag .pwr 8 = true → gnssRuns s = true → t0 + 8000000 ≤ s.pm → 
    exec (.acqIdleGate) s = .next (s.onPwr fun p => { p with domains := p.domains &&& 0xF7F, acqIdleSince := none }))

/-- Antenna supervision, corrections, ambiguities, odometry staleness (R52, R73, R87, R89, 17_command_reference.md). Where the spec is open or silent it states the model's choices: log entries 31, 36. -/
def Obligations.AntennaAndCorrectionEventsExecute : Prop :=
  (∀ (ma : Nat) (s : State), antBias s ≠ 0 → s.gnss.antOpen = false → ma < antOpenMa s → 
    ∃ t, exec (.antOpen ma) s = .next t ∧ Noted (s.onGnss fun v => { v with antMa := ma, antOpen := true }) t) ∧
  (∀ (ma : Nat) (s : State), s.gnss.antOpen = true → antOpenMa s < ma → 
    ∃ t, exec (.antOpen ma) s = .next t ∧ Noted (s.onGnss fun v => { v with antMa := ma, antOpen := false }) t) ∧
  (∀ (ma : Nat) (s : State), ¬(antBias s ≠ 0 ∧ s.gnss.antOpen = false ∧ ma < antOpenMa s) → ¬(s.gnss.antOpen = true ∧ antOpenMa s < ma) → 
    exec (.antOpen ma) s = .next (s.onGnss fun v => { v with antMa := ma })) ∧
  (∀ (ma : Nat) (s : State), antBias s ≠ 0 → s.gnss.bias = true → antShortMa s < ma → 
    ∃ t, exec (.antShort ma) s = .next t ∧ Noted (s.onGnss fun v => { v with antMa := ma, bias := false, antShort := true, antRetries := 0, antRetryAt := s.pm + 80000000 }) t) ∧
  (∀ (ma : Nat) (s : State), ¬(antBias s ≠ 0 ∧ s.gnss.bias = true ∧ antShortMa s < ma) → 
    exec (.antShort ma) s = .next (s.onGnss fun v => { v with antMa := ma })) ∧
  (∀ (ma : Nat) (s : State), antBias s ≠ 0 → s.gnss.antShort = true → s.gnss.bias = false → s.gnss.antRetryAt + 8000000 ≤ s.pm → ma ≤ antShortMa s → 
    ∃ t, exec (.antBiasRetry ma) s = .next t ∧ Noted (s.onGnss fun v => { v with bias := true, antShort := false, antRetries := 0, antMa := ma }) t) ∧
  (∀ (ma : Nat) (s : State), antBias s ≠ 0 → s.gnss.antShort = true → s.gnss.bias = false → s.gnss.antRetryAt + 80000 ≤ s.pm → antShortMa s < ma → 
    ∃ t, exec (.antBiasRetry ma) s = .next t ∧ Noted (s.onGnss fun v => { v with antRetries := s.gnss.antRetries + 1, antMa := ma, antRetryAt := s.pm + if 3 ≤ s.gnss.antRetries + 1 then 800000000 else 80000000 }) t) ∧
  (∀ (ma : Nat) (s : State), antBias s ≠ 0 → s.gnss.antShort = true → s.gnss.bias = false → s.gnss.antRetryAt ≤ s.pm → (ma ≤ antShortMa s → s.pm < s.gnss.antRetryAt + 8000000) → (antShortMa s < ma → s.pm < s.gnss.antRetryAt + 80000) → 
    exec (.antBiasRetry ma) s = .next (s.onGnss fun v => { v with antMa := ma })) ∧
  (∀ (m : List Byte) (n : Nat) (s : State), gnssRuns s = true → readFrame s.gnss.rtcmBuf = .frame m n → 
    exec (.rtcmFrame) s = .next (rtcmSearch (s.gnss.rtcmBuf.drop n) (takeMessage m s))) ∧
  (∀  (s : State), (gnssRuns s = false ∨ readFrame s.gnss.rtcmBuf = .wait) → 
    exec (.rtcmFrame) s = .next (s)) ∧
  (∀  (s : State), s.gnss.rtcmBuf ≠ [] → s.gnss.rtcmLast + 160000000 ≤ s.pm → readFrame s.gnss.rtcmBuf = .wait → 
    exec (.rtcmTimeout) s = .next (s.onGnss fun g => { g with rtcmBuf := [], rtcmTimeouts := g.rtcmTimeouts + 1 })) ∧
  (∀ (m : BitVec 32) (l : List Int) (q : Nat) (s : State), fixRatio s ≤ q → s.restarting .pair = false → 
    exec (.ambiguityCandidate m l q) s = .next (s.onPos fun p => { p with candNew := some (m, l) })) ∧
  (∀ (k : Fin 4) (s : State), 3 ≤ odoType s k → s.pos.odo[k].stale = false → s.pos.odo[k].lastPm + 24000000 ≤ s.pm → 
    exec (.odoStale k) s = .next (modOdo k (fun o => { o with stale := true, sa := none }) s))

/-- Valve events: queue, pull-in, decay, signatures, boost windows (R188, R190, R191, R193, R201, R207, R208, R213, 17_command_reference.md). Where the spec is open or silent it states the model's choices: log entries 54, 55, 56. -/
def Obligations.ValveEventsExecute : Prop :=
  (∀ (b : Fin 12) (ev : Ev) (c : Fin 96) (s : State), firstEvent s.vdr.bank[b].queue = some ev → ev.stale = false → ev.runAt ≤ s.pm → idx? 96 ev.ctx = some c → ev.on = true → 
    exec (.eventExecute b) s = .next (genOn c ev.runAt (modBank b (fun k => { k with queue := k.queue.erase ev }) s))) ∧
  (∀ (b : Fin 12) (ev : Ev) (c : Fin 96) (s : State), firstEvent s.vdr.bank[b].queue = some ev → ev.stale = false → ev.runAt ≤ s.pm → idx? 96 ev.ctx = some c → ev.on = false → 
    exec (.eventExecute b) s = .next (offRequest c ev.runAt false (genOff c (modBank b (fun k => { k with queue := k.queue.erase ev }) s)))) ∧
  (∀ (b : Fin 12) (ev : Ev) (c : Fin 96) (s : State), firstEvent s.vdr.bank[b].queue = some ev → ev.stale = true → ev.runAt ≤ s.pm → idx? 96 ev.ctx = some c → ev.on = true → 
    exec (.eventExecute b) s = .next (genOn c ev.runAt (notice .vdr 0x04 ev.ctx [] (modBank b (fun k => { k with queue := k.queue.erase ev }) s)))) ∧
  (∀ (b : Fin 12) (ev : Ev) (c : Fin 96) (s : State), firstEvent s.vdr.bank[b].queue = some ev → ev.stale = true → ev.runAt ≤ s.pm → idx? 96 ev.ctx = some c → ev.on = false → 
    exec (.eventExecute b) s = .next (offRequest c ev.runAt false (genOff c (notice .vdr 0x04 ev.ctx [] (modBank b (fun k => { k with queue := k.queue.erase ev }) s))))) ∧
  (∀ (b : Fin 12) (s : State), (∀ ev, firstEvent s.vdr.bank[b].queue = some ev → s.pm < ev.runAt) → 
    exec (.eventExecute b) s = .next (s)) ∧
  (∀ (c : Fin 96) (s : State), s.vdr.ch[c].st = .pending → s.vdr.ch[c].startAt ≤ s.pm → s.vdr.ch[c].unplaced = false → 
    ∃ t, exec (.reservedStart c) s = .next t ∧ t = beginPullIn c s.vdr.ch[c].startAt s ∧ t.vdr.ch[c].st = .pullIn) ∧
  (∀ (c : Fin 96) (s : State), s.vdr.ch[c].st = .pending → s.vdr.ch[c].startAt ≤ s.pm → s.vdr.ch[c].unplaced = true → 
    exec (.reservedStart c) s = .next (afterDecay c (dueStart c s))) ∧
  (∀ (b : Fin 12) (s : State), s.vdr.bank[b].feed ≠ .bst → s.vdr.bank[b].isolated = 0 → s.vdr.bank[b].windows.any (fun w => w.start ≤ s.pm + 320 && s.pm < w.stop) = true → 
    exec (.feedToVbst b) s = .next (modBank b (fun k => { k with feed := .bst, onVbst := true }) s)) ∧
  (∀ (b : Fin 12) (s : State), s.vdr.bank[b].feed = .bst → s.vdr.bank[b].windows.any (fun w => w.stop ≤ s.pm) = true → s.vdr.bank[b].windows.any (fun w => inWindow w.start w.stop s.pm) = false → 
    exec (.windowEnd b) s = .next (modBank b (fun k => { k with feed := .guard, onVbst := false }) s)) ∧
  (∀ (b : Fin 12) (s : State), s.vdr.bank[b].windows.any (fun w => w.stop + w.guard ≤ s.pm) = true → 
    ∃ t, exec (.guardEnd b) s = .next t ∧ Only [.vdr] s t ∧ t.vdr.bank[b].windows = s.vdr.bank[b].windows.filter (fun w => s.pm < w.stop + w.guard) ∧
      t.vdr.bank[b].feed = (if (s.vdr.bank[b].windows.filter (fun w => s.pm < w.stop + w.guard)).any (fun w => inWindow w.start w.stop s.pm) then .bst
        else if s.vdr.bank[b].feed = .guard then .bat else s.vdr.bank[b].feed)) ∧
  (∀ (c : Fin 96) (l0 : Nat) (s : State), s.vdr.ch[c].st = .pullIn → s.vdr.ch[c].pullEnd ≤ s.pm → s.vdr.ch[c].held = false → 
    exec (.pullInEnd c l0) s = .next (modCh c (fun h => { h with st := .hold }) (judgeInductance c l0 s))) ∧
  (∀ (c : Fin 96) (l0 : Nat) (s : State), s.vdr.ch[c].st = .pullIn → s.vdr.ch[c].pullEnd ≤ s.pm → s.vdr.ch[c].held = true → 
    exec (.pullInEnd c l0) s = .next (beginDecay c s.vdr.ch[c].pullEnd true false s.vdr.ch[c].faulted (judgeInductance c l0 s))) ∧
  (∀ (c : Fin 96) (en : Nat) (s : State), s.vdr.ch[c].st = .decay → s.vdr.ch[c].fast = true → s.vdr.ch[c].offSet.iTail ≠ 0 → s.vdr.ch[c].recover = false → 
    exec (.fastDecayEnd c en) s = .next (modCh c (fun h => { h with fast := false }) s)) ∧
  (∀ (c : Fin 96) (en : Nat) (s : State), s.vdr.ch[c].st = .decay → s.vdr.ch[c].fast = true → s.vdr.ch[c].offSet.iTail ≠ 0 → s.vdr.ch[c].recover = true → 
    exec (.fastDecayEnd c en) s = .next ((modCh c (fun h => { h with fast := false }) s).onVdr fun v => { v with booked := v.booked + en })) ∧
  (∀ (c : Fin 96) (en : Nat) (s : State), s.vdr.ch[c].st = .decay → 
    exec (.decayEnd c en) s = .next (afterDecay c (finishDecay c (min s.pm (s.vdr.ch[c].offPm + s.vdr.ch[c].offSet.searchWin)) false (writeFiring c (closingRecord s.vdr.ch[c] c s.vdr.ch[c].offPm true) (bookFast c en s))))) ∧
  (∀ (c : Fin 96) (g : SigIn) (s : State), s.vdr.ch[c].searching = true → (s.vdr.ch[c].st = .pullIn ∨ s.vdr.ch[c].st = .hold) → s.vdr.ch[c].startAt ≤ g.sample → s.pm ≤ s.vdr.ch[c].startAt + s.vdr.ch[c].onSet.searchWin → isMin g = true → signatureOk c s.pm g (10 * s.vdr.ch[c].onSet.sigMin) = true → 
    exec (.openingSignature c g) s = .next (takeOpening c (max s.vdr.ch[c].startAt (vertexAt g)) s)) ∧
  (∀ (c : Fin 96) (g : SigIn) (en : Nat) (s : State), s.vdr.ch[c].st = .decay → s.vdr.ch[c].closeSearch = true → s.vdr.ch[c].offPm ≤ g.sample → s.pm ≤ s.vdr.ch[c].offPm + s.vdr.ch[c].offSet.searchWin → isMax g = true → signatureOk c s.pm g (5 * s.vdr.ch[c].offSet.sigMin) = true → 
    exec (.closingSignature c g en) s = .next (afterDecay c (finishDecay c s.pm true (takeClosing c (max s.vdr.ch[c].offPm (vertexAt g)) (bookFast c en s))))) ∧
  (∀ (c : Fin 96) (s : State), s.vdr.ch[c].searching = true → s.vdr.ch[c].startAt + s.vdr.ch[c].onSet.searchWin ≤ s.pm → 
    exec (.openingSearchEnd c) s = .next (endSearch c (s.vdr.ch[c].startAt + s.vdr.ch[c].onSet.searchWin) s))

/-- Valve protection: loads, stages, feeds, coils, reconnection (R219, R220, R221, R223, R224, R227, R230, 17_command_reference.md). Where the spec is open or silent it states the model's choices: log entries 58, 59. -/
def Obligations.ValveProtectionEventsExecute : Prop :=
  (∀ (c : Fin 96) (ma : Nat) (s : State), chanOn s.vdr.ch[c] = true → s.vdr.ch[c].startAt + 112000 ≤ s.pm → ma < s.act.fld .vdr 6528 8 → 
    exec (.openLoad c ma) s = .next (setOpen c s)) ∧
  (∀ (c : Fin 96) (ma : Nat) (s : State), chanOn s.vdr.ch[c] = true → s.vdr.ch[c].startAt + 112000 ≤ s.pm → s.act.fld .vdr 6528 8 ≤ ma → 
    exec (.openLoad c ma) s = .next (clearOpen c (modProt c (fun p => { p with onPass := p.onPass || decide (p.openAt < s.vdr.ch[c].startAt) }) s))) ∧
  (∀ (c : Fin 96) (ma : Nat) (s : State), s.vdr.ch[c].st = .off → s.vdr.ch[c].offSince + 80000 ≤ s.pm → feedSettled s (bankOf c) 80000 = true → 100 < ma → 
    exec (.offStateTest c true ma) s = .next (isolateFault (bankOf c) 1 (setShort c (modProt c (fun p => { p with offPassFrom := none }) s)))) ∧
  (∀ (c : Fin 96) (ma : Nat) (s : State), s.vdr.ch[c].st = .off → s.vdr.ch[c].offSince + 80000 ≤ s.pm → feedSettled s (bankOf c) 80000 = true → ma ≤ 100 → 
    exec (.offStateTest c true ma) s = .next (setOpen c (modProt c (fun p => { p with offPassFrom := none }) s))) ∧
  (∀ (c : Fin 96) (ma : Nat) (s : State), s.vdr.ch[c].st = .off → (s.pm < s.vdr.ch[c].offSince + 80000 ∨ feedSettled s (bankOf c) 80000 = false) → reconnectTested s (bankOf c) = true → 100 < ma → 
    exec (.offStateTest c true ma) s = .next (setShort c s)) ∧
  (∀ (c : Fin 96) (ma : Nat) (s : State), s.vdr.ch[c].st = .off → (s.pm < s.vdr.ch[c].offSince + 80000 ∨ feedSettled s (bankOf c) 80000 = false) → reconnectTested s (bankOf c) = true → ma ≤ 100 → 
    exec (.offStateTest c true ma) s = .next (setOpen c s)) ∧
  (∀ (c : Fin 96) (ma : Nat) (s : State), s.vdr.ch[c].st = .off → feedSettled s (bankOf c) 0 = true → 
    exec (.offStateTest c false ma) s = .next (clearOpen c (modProt c (fun p => { p with offPassFrom := some (passingFrom s c) }) s))) ∧
  (∀ (c : Fin 96) (ma : Nat) (s : State), (s.vdr.ch[c].st ≠ .off ∨ feedSettled s (bankOf c) 0 = false) → 
    exec (.offStateTest c false ma) s = .next (s)) ∧
  (∀ (c : Fin 96) (ma : Nat) (s : State), (s.pm < s.vdr.ch[c].offSince + 80000 ∨ feedSettled s (bankOf c) 80000 = false) → (s.vdr.ch[c].st ≠ .off ∨ reconnectTested s (bankOf c) = false) → 
    exec (.offStateTest c true ma) s = .next (s)) ∧
  (∀ (c : Fin 96) (s : State), chanOn s.vdr.ch[c] = true → 
    ∃ t, exec (.overcurrent c) s = .next t ∧ t = tripStage c s ∧ Logged 0x1F c.val t) ∧
  (∀ (c : Fin 96) (ma : Nat) (s : State), 1650 < ma → (s.vdr.prot[c].tripLatch = false ∨ s.vdr.prot[c].overload = false) → 
    ∃ t, exec (.overload c ma) s = .next t ∧ Noted (offRequest c s.pm true (modProt c (fun p => { p with overload := true, tripLatch := true, tripAt := if p.tripLatch then p.tripAt else s.pm, retrying := false }) s)) t ∧ Logged 0x1F c.val t) ∧
  (∀ (c : Fin 96) (x : Int) (s : State), thsTakes s (stageSensor c).1 (stageSensor c).2 = true → 
    exec (.stageHot c x) s = .next (sensorSample (stageSensor c).1 (stageSensor c).2 x s)) ∧
  (∀ (c : Fin 96) (x : Int) (s : State), thsTakes s (stageSensor c).1 (stageSensor c).2 = true → 
    exec (.stageHotRelease c x) s = .next (sensorSample (stageSensor c).1 (stageSensor c).2 x s)) ∧
  (∀ (b : Fin 12) (s : State), (s.vdr.bank[b].isolated = 0 ∨ s.vdr.bank[b].reconnect.isSome = true) → 
    exec (.feedOc b) s = .next (isolateFault b 2 s)) ∧
  (∀ (c : Fin 96) (s : State), s.sys.dev ≠ .latched → s.vdr.prot[c].tripLatch = true → s.vdr.prot[c].tripAt + 8000000 ≤ s.pm → 0 < s.pd0.chRetries[c] → 
    exec (.retryRelease (.channel c)) s = .next ((modProt c (fun p => { p with tripLatch := false, retrying := true }) s).onPd0 fun d => { d with chRetries := vmod d.chRetries c (· - 1) })) ∧
  (∀ (b : Fin 12) (s : State), s.sys.dev ≠ .latched → s.vdr.bank[b].isolated = 2 → s.vdr.bank[b].isolAt + 8000000 ≤ s.pm → 0 < s.pd0.bankRetries[b] → 
    ∃ t, exec (.retryRelease (.bank b)) s = .next t ∧ Noted ((modBank b (fun k => { k with isolated := 0, feedAt := s.pm }) s).onPd0 fun d => { d with bankRetries := vmod d.bankRetries b (· - 1) }) t ∧ Ended 0x1E b.val s t) ∧
  (∀ (c : Fin 96) (r a b : Nat) (u : State) (s : State), measures s c a b = true → u = learnR20 c r (modProt c (fun p => { p with rMeas := min r 65535 }) s) → r20Of u c.val = 0 → 
    exec (.coilResistanceMeasure c r a b) s = .next (u)) ∧
  (∀ (c : Fin 96) (r a b : Nat) (u : State) (s : State), measures s c a b = true → u = learnR20 c r (modProt c (fun p => { p with rMeas := min r 65535 }) s) → r20Of u c.val ≠ 0 → 
    exec (.coilResistanceMeasure c r a b) s = .next (heatCoil c (coilTempOf r (r20Of u c.val)) (coolCoil c (coilTempOf r (r20Of u c.val)) (modProt c (fun p => { p with tempValid := !p.shortedTurns, tempSeen := true, coilTemp := satS 16 (coilTempOf r (r20Of u c.val)), coolTime := 0, tempAt := s.pm, coilHeld := satS 16 (coilTempOf r (r20Of u c.val)) }) (judgeResistance c r (r20Of u c.val) u))))) ∧
  (∀ (c : Fin 96) (r a b : Nat) (s : State), measures s c a b = false → 
    exec (.coilResistanceMeasure c r a b) s = .next (s)) ∧
  (∀ (c : Fin 96) (s : State), chanOn s.vdr.ch[c] = false → r20Of s c.val ≠ 0 → s.vdr.prot[c].tempSeen = true → 
    exec (.coilCooled c) s = .next (coolCoil c (coilEstimate s c s.pm) s)) ∧
  (∀ (b : Fin 12) (t0 : Nat) (s : State), s.vdr.bank[b].reconnect = some t0 → t0 + 84000 ≤ s.pm → bankShorted s b = false → 
    exec (.bankReconnectTestEnd b none) s = .next (answerBank b .ok (reconnected b s))) ∧
  (∀ (b : Fin 12) (t0 : Nat) (s : State), s.vdr.bank[b].reconnect = some t0 → t0 + 84000 ≤ s.pm → bankShorted s b = true → 
    exec (.bankReconnectTestEnd b none) s = .next (answerBank b .faulted (isolateFault b 1 s))) ∧
  (∀ (b : Fin 12) (t0 : Nat) (j : Fin 8) (s : State), s.vdr.bank[b].reconnect = some t0 → t0 + 84000 ≤ s.pm → 
    exec (.bankReconnectTestEnd b (some j)) s = .next (answerBank b .faulted (reisolated b j s))) ∧
  (∀ (b : Fin 12) (t0 : Nat) (j : Option (Fin 8)) (s : State), s.vdr.bank[b].reconnect = some t0 → s.pm < t0 + 84000 → 
    exec (.bankReconnectTestEnd b j) s = .next (s)) ∧
  (∀ (b : Fin 12) (j : Option (Fin 8)) (s : State), s.vdr.bank[b].reconnect = none → 
    exec (.bankReconnectTestEnd b j) s = .next (answerBank b .faulted s)) ∧
  (∀ (c : Fin 96) (s : State), 
    exec (.relearn c) s = .next (putCoil (64 * c.val + 6560) 0 (putCoil (64 * c.val + 6576) 0 (modProt c (fun p => { p with lSum := 0, lCount := 0, lowL := 0, lowR := 0, tempValid := false, rMeas := 0 }) s))))

/-- PWM: bank boundaries, grid edges, fine generators, triggers (R234, R236, R240, R241, R246, 17_command_reference.md). Where the spec is open or silent it states the model's choices: log entry 73. -/
def Obligations.PwmEventsExecute : Prop :=
  (∀ (b : Fin 12) (s : State), trigRuns s = true → s.pwu.grid[b].b + s.pwu.grid[b].period ≤ s.pm → 
    ∃ t, exec (.bankBoundary b) s = .next t ∧ t.pwu.grid[b].b = s.pwu.grid[b].b + s.pwu.grid[b].period ∧
      t.pwu.grid[b].period = (latestWrite (fun w => w < s.pwu.grid[b].b + s.pwu.grid[b].period) s.pwu.grid[b].waitPeriod).getD s.pwu.grid[b].period ∧
      t.pwu.grid[b].phases = (latestWrite (fun w => w < s.pwu.grid[b].b + s.pwu.grid[b].period) s.pwu.grid[b].waitPhases).getD s.pwu.grid[b].phases) ∧
  (∀ (c : Fin 96) (u : State) (s : State), s.pwu.noz[c].running = true → s.pwu.noz[c].nextOpen ≤ openingOf s c → openingOf s c ≤ s.pm → u = modNoz c (fun n => { n with nextOpen := openingOf s c + 1, openAt := openingOf s c, closeAt := none }) (reloadNoz c (openingOf s c) false s) → u.pwu.noz[c].onTime ≠ 0 → 
    exec (.gridOpening c) s = .next (trigSource 4 c.val (openingOf s c) 0 (genStart c (openingOf s c) u))) ∧
  (∀ (c : Fin 96) (u : State) (s : State), s.pwu.noz[c].running = true → s.pwu.noz[c].nextOpen ≤ openingOf s c → openingOf s c ≤ s.pm → u = modNoz c (fun n => { n with nextOpen := openingOf s c + 1, openAt := openingOf s c, closeAt := none }) (reloadNoz c (openingOf s c) false s) → u.pwu.noz[c].onTime = 0 → heldByMerge s c = false → 
    exec (.gridOpening c) s = .next (modNoz c (fun n => { n with merged := false }) u)) ∧
  (∀ (c : Fin 96) (u : State) (s : State), s.pwu.noz[c].running = true → s.pwu.noz[c].nextOpen ≤ openingOf s c → openingOf s c ≤ s.pm → u = modNoz c (fun n => { n with nextOpen := openingOf s c + 1, openAt := openingOf s c, closeAt := none }) (reloadNoz c (openingOf s c) false s) → u.pwu.noz[c].onTime = 0 → heldByMerge s c = true → 
    exec (.gridOpening c) s = .next (if merges u c (openingOf s c) then modNoz c (fun n => { n with merged := true }) u else trigSource 5 c.val (openingOf s c) 0 (offRequest c (openingOf s c) false (modNoz c (fun n => { n with merged := false }) u)))) ∧
  (∀ (c : Fin 96) (t0 : Nat) (s : State), s.pwu.noz[c].closeAt = some t0 → s.pwu.noz[c].running = true → t0 ≤ s.pm → merges s c t0 = false → 
    exec (.gridClosing c) s = .next (trigSource 5 c.val t0 0 (offRequest c t0 false (modNoz c (fun n => { n with closeAt := none }) s)))) ∧
  (∀ (c : Fin 96) (t0 : Nat) (s : State), s.pwu.noz[c].closeAt = some t0 → s.pwu.noz[c].running = true → t0 ≤ s.pm → merges s c t0 = true → 
    exec (.gridClosing c) s = .next (modNoz c (fun n => { n with closeAt := none, merged := true }) s)) ∧
  (∀ (g : Fin 8) (s : State), s.pwu.fine[g].running = true → s.pwu.fine[g].startAt + periodCounts s.pwu.fine[g].periodActive s.pwu.fine[g].centre < 5 * (s.pm + 1) → 
    ∃ t, exec (.finePeriodStart g) s = .next t ∧ 
      t.pwu.fine[g].startAt = s.pwu.fine[g].startAt + periodCounts s.pwu.fine[g].periodActive s.pwu.fine[g].centre ∧ t.pwu.fine[g].periods = incMod 32 s.pwu.fine[g].periods 1 ∧
      t.pwu.fine[g].cmpActive = (if s.restarting .control then s.pwu.fine[g].repeated (s.pwu.fine[g].startAt + periodCounts s.pwu.fine[g].periodActive s.pwu.fine[g].centre) else s.pwu.fine[g].reload (s.pwu.fine[g].startAt + periodCounts s.pwu.fine[g].periodActive s.pwu.fine[g].centre)).cmpActive ∧
      t.pwu.fine[g].periodActive = (if s.restarting .control then s.pwu.fine[g].repeated (s.pwu.fine[g].startAt + periodCounts s.pwu.fine[g].periodActive s.pwu.fine[g].centre) else s.pwu.fine[g].reload (s.pwu.fine[g].startAt + periodCounts s.pwu.fine[g].periodActive s.pwu.fine[g].centre)).periodActive) ∧
  (∀ (g : Fin 8) (x : Option Nat) (s : State), s.pwu.fine[g].running = true → gatesAllowed s = true → transitionDue s g true = true → 
    ∃ t, exec (.gateTransition g true x) s = .next t ∧ t.pwu.fine[g].target = true ∧ t.pwu.fine[g].gh = true ∧ t.pwu.fine[g].gl = false ∧ t.pwu.fine[g].dtRise = deadTime s g x ∧ t.pwu.grid = s.pwu.grid ∧ t.pwu.noz = s.pwu.noz) ∧
  (∀ (g : Fin 8) (x : Option Nat) (s : State), s.pwu.fine[g].running = true → gatesAllowed s = false → transitionDue s g true = true → 
    ∃ t, exec (.gateTransition g true x) s = .next t ∧ t.pwu.fine[g].target = true ∧ t.pwu.fine[g].gh = s.pwu.fine[g].gh ∧ t.pwu.fine[g].gl = s.pwu.fine[g].gl) ∧
  (∀ (g : Fin 8) (x : Option Nat) (s : State), s.pwu.fine[g].running = true → gatesAllowed s = true → transitionDue s g false = true → 
    ∃ t, exec (.gateTransition g false x) s = .next t ∧ t.pwu.fine[g].target = false ∧ t.pwu.fine[g].gh = false ∧ t.pwu.fine[g].gl = true ∧ t.pwu.fine[g].dtFall = deadTime s g x) ∧
  (∀ (g : Fin 8) (x : Option Nat) (s : State), s.pwu.fine[g].running = true → gatesAllowed s = false → transitionDue s g false = true → 
    ∃ t, exec (.gateTransition g false x) s = .next t ∧ t.pwu.fine[g].target = false ∧ t.pwu.fine[g].gh = s.pwu.fine[g].gh ∧ t.pwu.fine[g].gl = s.pwu.fine[g].gl) ∧
  (∀ (j : Fin 4) (t0 : Nat) (s : State), (finePeaks s).pwu.trig[j].pulseAt = some t0 → t0 ≤ s.pm → 
    exec (.trigOutPulse j) s = .next (modTrig j (fun o => { o with active := true, pulseAt := none, endAt := t0 + o.width, low := trigLow (finePeaks s) j }) (finePeaks s))) ∧
  (∀ (j : Fin 4) (s : State), s.pwu.trig[j].active = true → s.pwu.trig[j].endAt ≤ s.pm → 
    exec (.trigOutPulseEnd j) s = .next (modTrig j (fun o => { o with active := false }) s))

/-- Control loops and flow balance (R258, R264, R269, 17_command_reference.md). Where the spec is open or silent it states the model's choices: log entries 18, 74. -/
def Obligations.LoopEventsExecute : Prop :=
  (∀ (k : Fin 16) (x : LoopIn) (s : State), ceRuns s = true → loopCounts s k (s.pm / 10000 * 10000) = true → s.ce.loop[k].evalFor ≠ some (s.pm / 10000 * 10000) → loopTurn s k (s.pm / 10000 * 10000) = true → s.pm < s.pm / 10000 * 10000 + deadline s k → loopInputs s k (s.pm / 10000 * 10000) = some x → loopMode s k.val = 3 → 
    ∃ t, exec (.loopEvaluation k) s = .next t ∧ t.ce.loop[k] = (closedEval s k (s.pm / 10000 * 10000) x s.ce.loop[k]).1 ∧
      Only [.sys, .pd0, .host, .pwu, .lsw, .ce] s t) ∧
  (∀ (k : Fin 16) (x : LoopIn) (s : State), ceRuns s = true → loopCounts s k (s.pm / 10000 * 10000) = true → s.ce.loop[k].evalFor ≠ some (s.pm / 10000 * 10000) → loopTurn s k (s.pm / 10000 * 10000) = true → s.pm < s.pm / 10000 * 10000 + deadline s k → loopInputs s k (s.pm / 10000 * 10000) = some x → loopMode s k.val ≠ 3 → 
    ∃ t, exec (.loopEvaluation k) s = .next t ∧ t.ce.loop[k] = openEval s k (s.pm / 10000 * 10000) x s.ce.loop[k] ∧
      Only [.pd0, .pwu, .lsw, .ce] s t) ∧
  (∀ (k : Fin 16) (s : State), loopInputs s k (s.pm / 10000 * 10000) = none → 
    exec (.loopEvaluation k) s = .next (s)) ∧
  (∀ (k : Fin 16) (s : State), missedInstant s k = none → 
    exec (.deadlineMiss k) s = .next (s)) ∧
  (∀ (k : Fin 16) (t0 : Nat) (s : State), missedInstant s k = some t0 → (ceRuns s = false ∨ s.ce.loop[k].fault = true ∨ t0 < (elemOf s .control).doneAt.getD 0) → 
    exec (.deadlineMiss k) s = .next (s)) ∧
  (∀ (k : Fin 16) (t0 : Nat) (s : State), missedInstant s k = some t0 → ceRuns s = true → s.ce.loop[k].fault = false → (elemOf s .control).doneAt.getD 0 ≤ t0 → s.ce.loop[k].missRun < 2 → 
    ∃ t, exec (.deadlineMiss k) s = .next t ∧ 
      t.ce.loop[k].misses = s.ce.loop[k].misses + 1 ∧ t.ce.loop[k].missRun = s.ce.loop[k].missRun + 1 ∧ t.ce.loop[k].fault = false ∧ t.ce.lastMiss = some t0 ∧ Entered s.sys.dev s.sys.prev s.sys.cause t) ∧
  (∀ (k : Fin 16) (t0 : Nat) (s : State), missedInstant s k = some t0 → ceRuns s = true → s.ce.loop[k].fault = false → (elemOf s .control).doneAt.getD 0 ≤ t0 → 2 ≤ s.ce.loop[k].missRun → loopSafe s k = true → safeAllowed s = true → 
    ∃ t, exec (.deadlineMiss k) s = .next t ∧ Entered .safe s.sys.dev 0x1B t) ∧
  (∀ (k : Fin 16) (t0 : Nat) (s : State), missedInstant s k = some t0 → ceRuns s = true → s.ce.loop[k].fault = false → (elemOf s .control).doneAt.getD 0 ≤ t0 → 2 ≤ s.ce.loop[k].missRun → loopSafe s k = false → 
    ∃ t, exec (.deadlineMiss k) s = .next t ∧ Logged 0x1B k.val t ∧ t.ce.loop[k].fault = true) ∧
  (∀ (j : Fin 4) (t0 : Nat) (s : State), flowF s j 4 1 = 1 → s.ce.flow[j].imbalance = false → s.ce.flow[j].overSince = some t0 → t0 + 160000000 ≤ s.pm → 
    ∃ t, exec (.flowImbalance j) s = .next t ∧ Noted (modFlow j (fun f => { f with imbalance := true }) s) t) ∧
  (∀ (j : Fin 4) (t0 : Nat) (s : State), flowF s j 4 1 = 1 → s.ce.flow[j].imbalance = true → s.ce.flow[j].underSince = some t0 → t0 + 160000000 ≤ s.pm → 
    exec (.flowImbalance j) s = .next (modFlow j (fun f => { f with imbalance := false }) s)) ∧
  (∀ (j : Fin 4) (s : State), flowF s j 4 1 = 1 → (s.ce.flow[j].imbalance = false → ∀ t0, s.ce.flow[j].overSince = some t0 → s.pm < t0 + 160000000) → (s.ce.flow[j].imbalance = true → ∀ t0, s.ce.flow[j].underSince = some t0 → s.pm < t0 + 160000000) → 
    exec (.flowImbalance j) s = .next (s)) ∧
  (∀ (j : Fin 4) (s : State), flowF s j 4 1 ≠ 1 → 
    exec (.flowImbalance j) s = .next (s))

/-- Position and frequency inputs, event capture, conversions, stepper emulation (R273, R275, R278, R279, R280, R281, R282, R285, 17_command_reference.md). Where the spec is open or silent it states the model's choices: log entry 75. -/
def Obligations.InputEventsExecute : Prop :=
  (∀ (i : Fin 4) (ba : BitVec 2) (t0 : Nat) (s : State), pifRuns s = true → linesReady s (encFilter s i) (ba.toNat ^^^ s.pif.enc[i].state) s.pif.enc[i].accepted = true → t0 = s.pm - (encFilter s i - 1) → quadPos ba.toNat = quadPos s.pif.enc[i].state → 
    exec (.encoderTransition i ba) s = .next (modEnc i (Enc.note t0) (modEnc i (fun e => { e with state := ba.toNat, accepted := acceptLines s.pm (ba.toNat ^^^ e.state) e.accepted }) s))) ∧
  (∀ (i : Fin 4) (ba : BitVec 2) (t0 : Nat) (s : State), pifRuns s = true → linesReady s (encFilter s i) (ba.toNat ^^^ s.pif.enc[i].state) s.pif.enc[i].accepted = true → t0 = s.pm - (encFilter s i - 1) → (quadPos ba.toNat + 4 - quadPos s.pif.enc[i].state) % 4 = 2 → 
    ∃ t, exec (.encoderTransition i ba) s = .next t ∧ Noted (modEnc i (fun e => (e.drop t0).unsure.note t0) (modEnc i (fun e => { e with state := ba.toNat, accepted := acceptLines s.pm (ba.toNat ^^^ e.state) e.accepted }) s)) t) ∧
  (∀ (i : Fin 4) (ba : BitVec 2) (t0 : Nat) (d : Int) (s : State), pifRuns s = true → linesReady s (encFilter s i) (ba.toNat ^^^ s.pif.enc[i].state) s.pif.enc[i].accepted = true → t0 = s.pm - (encFilter s i - 1) → ((quadPos ba.toNat + 4 - quadPos s.pif.enc[i].state) % 4 = 1 ∧ d = (if encDirInv s i then -1 else 1) ∨ (quadPos ba.toNat + 4 - quadPos s.pif.enc[i].state) % 4 = 3 ∧ d = (if encDirInv s i then 1 else -1)) → 
    exec (.encoderTransition i ba) s = .next (emuFollow i d (modEnc i (fun e => (e.legal t0 d).note t0) (modEnc i (fun e => { e with state := ba.toNat, accepted := acceptLines s.pm (ba.toNat ^^^ e.state) e.accepted }) s)))) ∧
  (∀ (i : Fin 4) (ba : BitVec 2) (t0 : Nat) (s : State), pifRuns s = true → linesReady s (encFilter s i) (ba.toNat ^^^ s.pif.enc[i].state) s.pif.enc[i].accepted = true → lineReady s (2 * encFilter s i) s.pif.enc[i].accepted[(2 : Fin 3)] = true → t0 = s.pm - (encFilter s i - 1) → (indexMode s i = 0 ∨ (gateEn s i = true ∧ gateAb s i ≠ ba.toNat)) → 
    exec (.index i ba) s = .next (modEnc i (fun e => { e with accepted := acceptLines s.pm 4 e.accepted }) (quadStep i t0 ba.toNat s))) ∧
  (∀ (i : Fin 4) (ba : BitVec 2) (t0 : Nat) (s : State), pifRuns s = true → linesReady s (encFilter s i) (ba.toNat ^^^ s.pif.enc[i].state) s.pif.enc[i].accepted = true → lineReady s (2 * encFilter s i) s.pif.enc[i].accepted[(2 : Fin 3)] = true → t0 = s.pm - (encFilter s i - 1) → indexMode s i = 1 → (gateEn s i = false ∨ gateAb s i = ba.toNat) → 
    ∃ t, exec (.index i ba) s = .next t ∧ 
      t = modEnc i (fun e => Enc.note t0 { e with indexCount := e.count, indexPm := t0, indexSeen := true, idxFresh := true, idxArm := false }) (modEnc i (fun e => { e with accepted := acceptLines s.pm 4 e.accepted }) (quadStep i t0 ba.toNat s))) ∧
  (∀ (i : Fin 4) (ba : BitVec 2) (t0 : Nat) (s : State), pifRuns s = true → linesReady s (encFilter s i) (ba.toNat ^^^ s.pif.enc[i].state) s.pif.enc[i].accepted = true → lineReady s (2 * encFilter s i) s.pif.enc[i].accepted[(2 : Fin 3)] = true → t0 = s.pm - (encFilter s i - 1) → (indexMode s i = 2 ∨ (indexMode s i = 3 ∧ (quadStep i t0 ba.toNat s).pif.enc[i].idxArm = true)) → (gateEn s i = false ∨ gateAb s i = ba.toNat) → (∀ a, (quadStep i t0 ba.toNat s).pif.enc[i].setAt = some a → a < t0) → 
    ∃ t, exec (.index i ba) s = .next t ∧ 
      t.pif.enc[i].count = wrap32 (indexValue s i) ∧ t.pif.enc[i].uncertain = false ∧ t.pif.enc[i].indexCount = (quadStep i t0 ba.toNat s).pif.enc[i].count ∧
      t.pif.enc[i].indexPm = t0 ∧ t.pif.enc[i].indexSeen = true ∧ t.pif.enc[i].resetPm = some t0 ∧ t.pif.enc[i].idxArm = false ∧
      t.pif.enc[i].upos = (quadStep i t0 ba.toNat s).pif.enc[i].upos ∧ t.pif.enc[i].accepted[(2 : Fin 3)] = some s.pm ∧ Only [.pif] (quadStep i t0 ba.toNat s) t) ∧
  (∀ (i : Fin 4) (wvu : BitVec 3) (t0 : Nat) (s : State), pifRuns s = true → linesReady s (hallFilter s i) (wvu.toNat ^^^ s.pif.hall[i].state) s.pif.hall[i].accepted = true → t0 = s.pm - (hallFilter s i - 1) → wvu ≠ 0 → wvu ≠ 7 → 
    exec (.hallTransition i wvu) s = .next (hallStep i t0 wvu.toNat (modHall i (fun e => { e with state := wvu.toNat, accepted := acceptLines s.pm (wvu.toNat ^^^ e.state) e.accepted }) s))) ∧
  (∀ (i : Fin 4) (wvu : BitVec 3) (t0 : Nat) (s : State), pifRuns s = true → linesReady s (hallFilter s i) (wvu.toNat ^^^ s.pif.hall[i].state) s.pif.hall[i].accepted = true → t0 = s.pm - (hallFilter s i - 1) → (wvu = 0 ∨ wvu = 7) → s.pif.hall[i].hallIllegal = false → 
    exec (.hallTransition i wvu) s = .next (modHall i (fun e => Enc.note t0 { e.drop t0 with hallIllegal := true, illegalAt := t0 }) (modHall i (fun e => { e with state := wvu.toNat, accepted := acceptLines s.pm (wvu.toNat ^^^ e.state) e.accepted }) s))) ∧
  (∀ (i : Fin 4) (wvu : BitVec 3) (t0 : Nat) (s : State), pifRuns s = true → linesReady s (hallFilter s i) (wvu.toNat ^^^ s.pif.hall[i].state) s.pif.hall[i].accepted = true → t0 = s.pm - (hallFilter s i - 1) → (wvu = 0 ∨ wvu = 7) → s.pif.hall[i].hallIllegal = true → 
    exec (.hallTransition i wvu) s = .next (modHall i (Enc.note t0) (modHall i (fun e => { e with state := wvu.toNat, accepted := acceptLines s.pm (wvu.toNat ^^^ e.state) e.accepted }) s))) ∧
  (∀ (i : Fin 4) (s : State), s.pif.hall[i].hallIllegal = true → s.pif.hall[i].invalid = false → s.pif.hall[i].illegalAt + 80000 ≤ s.pm → 
    ∃ t, exec (.hallIllegal i) s = .next t ∧ Noted (modHall i (fun e => Enc.note s.pm { e with invalid := true }) s) t) ∧
  (∀ (i : Fin 16) (t0 : Nat) (s : State), pifRuns s = true → lineReady s (freqFilter s i) s.pif.freq[i].acceptedAt = true → s.pif.freq[i].level = freqFalling s i → t0 = s.pm - (freqFilter s i - 1) → 
    ∃ t, exec (.freqEdge i) s = .next t ∧ t.pif.freq[i].pulses = s.pif.freq[i].pulses + 1 ∧ t.pif.freq[i].lastPm = t0 ∧ t.pif.freq[i].stopped = false ∧
      t.pif.freq[i].level = (!s.pif.freq[i].level) ∧ t.pif.freq[i].acceptedAt = some s.pm ∧
      (t.pif.freq[i].overrange = true ↔ s.pif.freq[i].overrange = true ∨ ∃ e, s.pif.freq[i].edges.head? = some e ∧ t0 < e + 1600) ∧
      t.pif.enc = s.pif.enc ∧ t.pif.hall = s.pif.hall ∧ t.pif.evt = s.pif.evt ∧ t.pif.ain = s.pif.ain ∧ t.pif.emu = s.pif.emu) ∧
  (∀ (i : Fin 16) (s : State), pifRuns s = true → lineReady s (freqFilter s i) s.pif.freq[i].acceptedAt = true → s.pif.freq[i].level ≠ freqFalling s i → 
    exec (.freqEdge i) s = .next (modFreq i (fun f => { f with level := !f.level, acceptedAt := some s.pm }) s)) ∧
  (∀ (i : Fin 8) (f : Bool) (s : State), pifRuns s = true → lineReady s (evtFilter s i) s.pif.evt[i].acceptedAt = true → bitN (evtEdges s i) (if f then 1 else 0) = true → s.pif.evt[i].fifo.length < 32 → 
    exec (.eventEdge i f) s = .next (modEvt i (fun v => { v with acceptedAt := some s.pm, seq := v.seq + 1, fifo := v.fifo ++ [{ pm := s.pm - (evtFilter s i - 1), input := i.val, falling := f, seq := v.seq + 1 }] }) s)) ∧
  (∀ (i : Fin 8) (f : Bool) (s : State), pifRuns s = true → lineReady s (evtFilter s i) s.pif.evt[i].acceptedAt = true → bitN (evtEdges s i) (if f then 1 else 0) = true → 32 ≤ s.pif.evt[i].fifo.length → 
    ∃ t, exec (.eventEdge i f) s = .next t ∧ Noted (modEvt i (fun v => { v with acceptedAt := some s.pm, seq := v.seq + 1, lost := v.lost + 1 }) s) t) ∧
  (∀ (i : Fin 8) (f : Bool) (s : State), pifRuns s = true → lineReady s (evtFilter s i) s.pif.evt[i].acceptedAt = true → bitN (evtEdges s i) (if f then 1 else 0) = false → 
    exec (.eventEdge i f) s = .next (modEvt i (fun v => { v with acceptedAt := some s.pm }) s)) ∧
  (∀ (i : Fin 32) (mv : BitVec 16) (t0 v : Nat) (c : AinVal) (s : State), pifRuns s = true → (ainTrigEn s i = false ∧ t0 = s.pm / 10000 * 10000 ∨ ainTrigEn s i = true ∧ ∃ g, idx? 8 (ainTrigGen s i) = some g ∧ (finePeaks s).pwu.fine[g].trigAt = some t0) → s.pif.ain[i].since ≤ t0 → (∀ p ∈ s.pif.ain[i].past, p.1 < t0) → v = min mv.toNat (ainTop s i) → c = { pm := t0, value := v, invalid := decide (v < ainLo s i ∨ ainHi s i < v) } → 
    ∃ t, exec (.analogConversion i mv) s = .next t ∧ Noted (modAin i (fun a => { a with cur := c, past := keepRecent t0 40000 ((t0, c) :: a.past) }) (finePeaks s)) t) ∧
  (∀ (x : Fin 2) (m : Emu) (s : State), emuRuns s x = true → (emuUpdate x id s).pif.emu[x] = m → m.whole ≠ 0 → (∀ t0, m.lastStep = some t0 → t0 + 160 ≤ s.pm) → 
    exec (.emuOutputStep x) s = .next (emuUpdate x (fun m => { m with acc := m.acc - m.whole.sign * emuUnit, count := wrap32 (m.count + m.whole.sign * (if emuInv s x then -1 else 1)), steps := m.steps + m.whole.sign * (if emuInv s x then -1 else 1), lastStep := some s.pm }) (emuUpdate x id s))) ∧
  (∀ (x : Fin 2) (m : Emu) (s : State), emuRuns s x = true → (emuUpdate x id s).pif.emu[x] = m → (m.whole = 0 ∨ ∃ t0, m.lastStep = some t0 ∧ s.pm < t0 + 160) → 
    exec (.emuOutputStep x) s = .next (emuUpdate x id s))

/-- Load switches: inrush, faults, thermal latch, retry, shedding, pulses, holds (R293, R296, R298, R299, R300, R303, R305, 17_command_reference.md). Where the spec is open or silent it states the model's choices: log entry 76. -/
def Obligations.LoadSwitchEventsExecute : Prop :=
  (∀ (c : Fin 16) (s : State), s.lsw.ls[c].st = .inrush → s.lsw.ls[c].stepEnd ≤ lswNow s → s.lsw.ls[c].step + 1 < s.lsw.ls[c].profile.steps → 
    exec (.inrushStep c) s = .next (modLsw c (fun l => { l with step := l.step + 1, stepEnd := l.stepEnd + 800 * l.profile.tStep }) s)) ∧
  (∀ (c : Fin 16) (s : State), s.lsw.ls[c].st = .inrush → s.lsw.ls[c].stepEnd ≤ lswNow s → s.lsw.ls[c].profile.steps ≤ s.lsw.ls[c].step + 1 → 
    exec (.inrushStep c) s = .next (modLsw c (fun l => { l with st := .on, step := 0 }) s)) ∧
  (∀ (c : Fin 16) (s : State), (s.lsw.ls[c].st = .on ∨ offDiagnosed s c = true) → s.lsw.ls[c].openLoad = false → 
    ∃ t, exec (.lswOpenLoad c true) s = .next t ∧ Noted (modLsw c (fun l => { l with openLoad := true }) s) t ∧ Logged 0x20 c.val t) ∧
  (∀ (c : Fin 16) (s : State), s.lsw.ls[c].openLoad = true → 
    exec (.lswOpenLoad c false) s = .next (lswFaultClear c (modLsw c (fun l => { l with openLoad := false }) s))) ∧
  (∀ (c : Fin 16) (s : State), offDiagnosed s c = true → s.lsw.ls[c].shortBat = false → 
    ∃ t, exec (.lswShortBat c true) s = .next t ∧ Noted (modLsw c (fun l => { l with shortBat := true }) s) t ∧ Logged 0x20 c.val t) ∧
  (∀ (c : Fin 16) (s : State), s.lsw.ls[c].shortBat = true → 
    exec (.lswShortBat c false) s = .next (lswFaultClear c (modLsw c (fun l => { l with shortBat := false }) s))) ∧
  (∀ (c : Fin 16) (s : State), s.lsw.ls[c].outOn = true → 
    ∃ t, exec (.lswShort c) s = .next t ∧ Noted (noteCoast c (endHold c (modLsw c (fun l => { l with st := .latched, tripAt := lswNow s, pulsing := false, closeAt := none, scaled := false, short := true }) s))) t ∧ Logged 0x20 c.val t) ∧
  (∀ (c : Fin 16) (s : State), s.lsw.ls[c].isOn = true → s.pd0.keyOffHold[c] = none → 
    ∃ t, exec (.lswOverload c) s = .next t ∧ Noted (noteCoast c (endHold c (modLsw c (fun l => { l with st := .latched, tripAt := lswNow s, pulsing := false, closeAt := none, scaled := false, overload := true }) s))) t ∧ Logged 0x20 c.val t) ∧
  (∀ (c : Fin 16) (x : Int) (s : State), thsTakes s 8 (lswSensor c) = true → 
    exec (.lswOvertemp c x) s = .next (sensorSample 8 (lswSensor c) x s)) ∧
  (∀ (c : Fin 16) (x : Int) (s : State), thsTakes s 8 (lswSensor c) = true → tTrip s ≤ x → x ≤ 2100 → s.ths.zone[(8 : Fin 10)].sens[lswSensor c].broken = false → 
    ∃ t, exec (.lswOvertemp c x) s = .next t ∧ t.lsw.ls[c].thermLatch = true ∧ t.lsw.ls[c].temp = x ∧ (s.lsw.ls[c].thermLatch = false → t.lsw.ls[c].overtemp = true ∧ t.lsw.ls[c].st = .latched)) ∧
  (∀ (c : Fin 16) (x : Int) (s : State), thsTakes s 8 (lswSensor c) = false → s.sys.dev = .off → tTrip s ≤ x → s.lsw.ls[c].thermLatch = false → 
    ∃ t, exec (.lswOvertemp c x) s = .next t ∧ Noted (noteCoast c (endHold c (modLsw c (fun l => { l with st := .latched, tripAt := lswNow s, pulsing := false, closeAt := none, scaled := false, overtemp := true, thermLatch := true }) s))) t ∧ Logged 0x20 c.val t) ∧
  (∀ (c : Fin 16) (x : Int) (s : State), thsTakes s 8 (lswSensor c) = false → s.sys.dev = .off → (x < tTrip s ∨ s.lsw.ls[c].thermLatch = true) → (s.lsw.ls[c].thermLatch = false ∨ tRelease s < x) → 
    exec (.lswOvertemp c x) s = .next (s)) ∧
  (∀ (c : Fin 16) (x : Int) (s : State), thsTakes s 8 (lswSensor c) = true → 
    exec (.thermLatchRelease c x) s = .next (sensorSample 8 (lswSensor c) x s)) ∧
  (∀ (c : Fin 16) (x : Int) (s : State), thsTakes s 8 (lswSensor c) = true → x ≤ tRelease s → -600 ≤ x → s.ths.zone[(8 : Fin 10)].sens[lswSensor c].broken = false → 
    ∃ t, exec (.thermLatchRelease c x) s = .next t ∧ t.lsw.ls[c].thermLatch = false ∧ t.lsw.ls[c].temp = x) ∧
  (∀ (c : Fin 16) (x : Int) (s : State), thsTakes s 8 (lswSensor c) = false → s.sys.dev = .off → s.lsw.ls[c].thermLatch = true → x ≤ tRelease s → 
    exec (.thermLatchRelease c x) s = .next (lswSync c (lswFaultClear c (modLsw c (fun l => { l with thermLatch := false, thermAt := lswNow s, overtemp := l.overtemp && l.st == .latched }) s)))) ∧
  (∀ (a : Nat) (s : State), 80000 < a → s.lsw.shedding = false → 
    exec (.aggregate a) s = .next (shedOne (s.onLsw fun v => { v with shedding := true, lastShed := s.pm }))) ∧
  (∀ (a : Nat) (s : State), s.lsw.shedding = true → s.lsw.lastShed + 80000 ≤ s.pm → 76000 < a → 
    exec (.aggregateShedStep a) s = .next (shedOne (s.onLsw fun v => { v with lastShed := s.pm }))) ∧
  (∀ (a : Nat) (s : State), s.lsw.shedding = true → s.lsw.lastShed + 80000 ≤ s.pm → a ≤ 76000 → 
    exec (.aggregateShedStep a) s = .next (s.onLsw fun v => { v with shedding := false })) ∧
  (∀ (c : Fin 16) (s : State), s.lsw.ls[c].st = .latched → s.lsw.ls[c].aggregate = false → s.lsw.ls[c].thermLatch = false → s.lsw.ls[c].exhausted = false → s.sys.dev ≠ .latched → max (s.lsw.ls[c].tripAt + msTicks s.lsw.ls[c].profile.retryDelay) s.lsw.ls[c].thermAt ≤ lswNow s → s.pd0.lswOn[c] = true → s.sys.dev ≠ .off → 0 < s.pd0.lswRetries[c] → 
    exec (.lswRetryDue c) s = .next (
      lswSync c (lswUnlatch c (s.onPd0 fun p => { p with lswRetries := p.lswRetries.set c (p.lswRetries[c] - 1) })))) ∧
  (∀ (c : Fin 16) (s : State), s.lsw.ls[c].st = .latched → s.lsw.ls[c].aggregate = false → s.lsw.ls[c].thermLatch = false → s.lsw.ls[c].exhausted = false → s.sys.dev ≠ .latched → max (s.lsw.ls[c].tripAt + msTicks s.lsw.ls[c].profile.retryDelay) s.lsw.ls[c].thermAt ≤ lswNow s → (s.pd0.lswOn[c] = false ∨ s.sys.dev = .off) → 
    exec (.lswRetryDue c) s = .next (lswSync c (lswUnlatch c s))) ∧
  (∀ (c : Fin 16) (s : State), s.lsw.ls[c].st = .latched → s.lsw.ls[c].aggregate = false → s.lsw.ls[c].thermLatch = false → s.lsw.ls[c].exhausted = false → s.sys.dev ≠ .latched → max (s.lsw.ls[c].tripAt + msTicks s.lsw.ls[c].profile.retryDelay) s.lsw.ls[c].thermAt ≤ lswNow s → s.pd0.lswOn[c] = true → s.sys.dev ≠ .off → s.pd0.lswRetries[c] = 0 → 
    ∃ t, exec (.lswRetryDue c) s = .next t ∧ Noted (modLsw c (fun l => { l with exhausted := true }) s) t) ∧
  (∀ (c : Fin 16) (l : Lsw) (o : Nat) (s : State), l = s.lsw.ls[c].advance (lswNow s) → o = l.pulseB + l.pulsePhase * l.pulseP / 256 → l.pulsing = true → (l.st = .on ∨ (l.st = .off ∧ l.firstPulse = false)) → o ≤ lswNow s → l.lastOpen < o + 1 → s.sys.dev ≠ .safe → 
    ∃ t, exec (.lswPulseOpening c) s = .next t ∧ 
      Only [.lsw] s t ∧ t.lsw.ls[c].lastOpen = o + 1 ∧ t.lsw.ls[c].dutyAct = (latestWrite (fun w => w < o) l.duties).getD l.dutyAct ∧
      t.lsw.ls[c].duties = pendingAfter (fun w => w < o) l.duties ∧
      t.lsw.ls[c].st = (if pulseWidth t c t.lsw.ls[c].dutyAct < 1600 then .off else .on) ∧
      t.lsw.ls[c].closeAt = (if pulseWidth t c t.lsw.ls[c].dutyAct < 1600 ∨ l.pulseP - pulseWidth t c t.lsw.ls[c].dutyAct < 1600 then none
        else some (o + pulseWidth t c t.lsw.ls[c].dutyAct))) ∧
  (∀ (c : Fin 16) (s : State), ((s.lsw.ls[c].advance (lswNow s)).pulsing = false ∨ (s.lsw.ls[c].advance (lswNow s)).st = .latched) → 
    exec (.lswPulseOpening c) s = .next (modLsw c (fun l => l.advance (lswNow s)) s)) ∧
  (∀ (c : Fin 16) (t0 : Nat) (s : State), s.lsw.ls[c].closeAt = some t0 → t0 ≤ lswNow s → s.lsw.ls[c].pulsing = true → 
    exec (.lswPulseClosing c) s = .next (lswTurnOff c s)) ∧
  (∀ (c : Fin 16) (t0 : Nat) (s : State), s.lsw.ls[c].closeAt = some t0 → (lswNow s < t0 ∨ s.lsw.ls[c].pulsing = false) → 
    exec (.lswPulseClosing c) s = .next (s)) ∧
  (∀ (c : Fin 16) (s : State), s.lsw.ls[c].closeAt = none → 
    exec (.lswPulseClosing c) s = .next (s)) ∧
  (∀ (c : Fin 16) (s : State), s.sys.dev = .coast → coastPolicy s c = 1 → s.sys.coastEntry + offAfter s c ≤ s.pm → 
    exec (.offAfterExpiry c) s = .next (lswSync c s)) ∧
  (∀ (c : Fin 16) (t0 : Nat) (s : State), s.pd0.keyOffHold[c] = some t0 → t0 ≤ s.pd0.now → 
    exec (.keyoffHoldEnd c) s = .next (lswSync c (endHold c s))) ∧
  (∀ (c : Fin 16) (s : State), (∀ t0, s.pd0.keyOffHold[c] = some t0 → s.pd0.now < t0) → 
    exec (.keyoffHoldEnd c) s = .next (s))

/-- Thermal: samples, broken sensors, rate trips, shutdown (R312, R313, R314, R315, R318, 17_command_reference.md). Where the spec is open or silent it states the model's choices: log entry 77. -/
def Obligations.ThermalEventsExecute : Prop :=
  (∀ (z : Fin 10) (k : Fin 20) (x : Int) (s : State), thsTakes s z k = true → 
    exec (.warn z k x) s = .next (sensorSample z k x s)) ∧
  (∀ (z : Fin 10) (k : Fin 20) (x : Int) (s : State), thsTakes s z k = true → 
    exec (.throttle z k x) s = .next (sensorSample z k x s)) ∧
  (∀ (z : Fin 10) (k : Fin 20) (x : Int) (v : Nat × Int) (s : State), thsTakes s z k = true → zoneValue (takeReading z k x s) z = some v → (v.2 < shutdownAt s (zoneClass z) ∨ z = 9) → 
    ∃ t, exec (.throttle z k x) s = .next t ∧ t.ths.zone[z].temp = v.2 ∧ t.ths.zone[z].hotSensor = v.1 ∧ t.ths.zone[z].throttling = decide (throttleAt s (zoneClass z) ≤ v.2)) ∧
  (∀ (z : Fin 10) (k : Fin 20) (s : State), thsTakes s z k = true → s.ths.zone[z].sens[k].broken = true → 
    exec (.sensorBroken z k) s = .next (shutDown z (zoneSample z (stageAt z k (standsFor s z k.val) s)))) ∧
  (∀ (z : Fin 10) (k : Fin 20) (s : State), thsTakes s z k = true → s.ths.zone[z].sens[k].broken = false → 
    ∃ t, exec (.sensorBroken z k) s = .next t ∧ ∃ u, t = shutDown z (zoneSample z (stageAt z k (standsFor u z k.val) u)) ∧
      Noted (modZone z (fun x => { x with sens := x.sens.set k { x.sens[k] with broken := true, fast := true }, broken := true, brokenCount := x.brokenCount + 1 }) s) u) ∧
  (∀ (z : Fin 10) (k : Fin 20) (x : Int) (s : State), thsTakes s z k = true → (stageOf z k).isSome = true → s.ths.zone[z].sens[k].rises s.pm x = true → -600 ≤ x → x ≤ 2100 → s.ths.zone[z].sens[k].broken = false → 
    ∃ t, exec (.rateTrip z k x) s = .next t ∧ ∃ u, t = shutDown z (zoneSample z (stageAt z k x (rateTripStage z k u))) ∧
      Noted (modZone z (fun y => { y with rateTrips := incMod 16 y.rateTrips 1 }) (switchTemp z k x (takeReading z k x s))) u) ∧
  (∀ (z : Fin 10) (k : Fin 20) (x : Int) (s : State), thsTakes s z k = true → 
    exec (.rateTrip z k x) s = .next (sensorSample z k x s)) ∧
  (∀ (z : Fin 10) (k : Fin 20) (x : Int) (s : State), thsTakes s z k = true → (stageOf z k = none ∨ s.ths.zone[z].sens[k].rises s.pm x = false) → 
    exec (.rateTrip z k x) s = .next (shutDown z (zoneSample z (stageAt z k (reading (switchTemp z k x (takeReading z k x s)) z k x) (switchTemp z k x (takeReading z k x s)))))) ∧
  (∀ (z : Fin 10) (k : Fin 20) (x : Int) (s : State), thsTakes s z k = true → 
    exec (.shutdown z k x) s = .next (sensorSample z k x s)) ∧
  (∀ (z : Fin 10) (k : Fin 20) (x : Int) (v : Nat × Int) (s : State), thsTakes s z k = true → z ≠ 9 → zoneValue (takeReading z k x s) z = some v → shutdownAt s (zoneClass z) ≤ v.2 → 0 < s.ths.zone[z].hotRun → s.sys.dev ≠ .latched → 
    ∃ t, exec (.shutdown z k x) s = .next t ∧ Entered .latched s.sys.dev 0x04 t ∧
      t.pd0.latch = some { zone := z.val, sensor := v.1, temp := v.2, pm := s.pm, boot := s.pd0.bootCount })

/-- CAN frames, transmissions, deadlines, bus-off recovery (R325, R328, R331, R332, R333, R335, R336, 17_command_reference.md). Where the spec is open or silent it states the model's choices: log entry 78. -/
def Obligations.CanEventsExecute : Prop :=
  (∀ (x : Fin 3) (f : CanFrame) (s : State), onBus s x = true → (f.fdf = false ∨ fdEn s x = true) → tunCtl s ≠ some x → s.can.ctl[x].rec_ ≤ 127 → holeFor s x f = none → 
    exec (.canFrameReceive x f) s = .next (modCtl x (fun c => { c with unmatched := c.unmatched + 1 }) (setCounters x s.can.ctl[x].tec (s.can.ctl[x].rec_ - 1) s))) ∧
  (∀ (x : Fin 3) (f : CanFrame) (k : Nat) (s : State), onBus s x = true → (f.fdf = false ∨ fdEn s x = true) → tunCtl s ≠ some x → s.can.ctl[x].rec_ ≤ 127 → holeFor s x f = some k → phReserved s x k = false → 
    exec (.canFrameReceive x f) s = .next (storeFrame x k f (setCounters x s.can.ctl[x].tec (s.can.ctl[x].rec_ - 1) s))) ∧
  (∀ (x : Fin 3) (f : CanFrame) (s : State), onBus s x = true → (f.fdf = false ∨ fdEn s x = true) → tunCtl s ≠ some x → 127 < s.can.ctl[x].rec_ → holeFor s x f = none → 
    ∃ t, exec (.canFrameReceive x f) s = .next t ∧ ∃ v, 119 ≤ v ∧ v ≤ 127 ∧
      t = modCtl x (fun c => { c with unmatched := c.unmatched + 1 }) (setCounters x s.can.ctl[x].tec v { s with free := s.free + 1 })) ∧
  (∀ (x : Fin 3) (f : CanFrame) (k : Nat) (s : State), onBus s x = true → (f.fdf = false ∨ fdEn s x = true) → tunCtl s ≠ some x → 127 < s.can.ctl[x].rec_ → holeFor s x f = some k → phReserved s x k = false → 
    ∃ t, exec (.canFrameReceive x f) s = .next t ∧ ∃ v, 119 ≤ v ∧ v ≤ 127 ∧
      t = storeFrame x k f (setCounters x s.can.ctl[x].tec v { s with free := s.free + 1 })) ∧
  (∀ (f : CanFrame) (k : Nat) (x : Fin 3) (s : State), onBus s x = true → (f.fdf = false ∨ fdEn s x = true) → tunCtl s ≠ some x → s.can.ctl[x].rec_ ≤ 127 → holeFor s x f = some k → phReserved s x k = true → 
    exec (.canFrameReceive x f) s = .next (useReserved x k f (storeFrame x k f (setCounters x s.can.ctl[x].tec (s.can.ctl[x].rec_ - 1) s)))) ∧
  (∀ (x : Fin 3) (f : CanFrame) (s : State), (onBus s x = false ∨ (f.fdf = true ∧ fdEn s x = false)) → tunCtl s ≠ some x → 
    exec (.canFrameReceive x f) s = .next (s)) ∧
  (∀ (x : Fin 3) (k : Fin 32) (s : State), onBus s x = true → listen s x = false → hasActive s x = none → winner s x = some k → 
    exec (.canTxStart x) s = .next (modSlot x k (fun l => { l with st := .active }) s)) ∧
  (∀ (x : Fin 3) (r : TxResult) (s : State), hasActive s x = none → 
    exec (.canTxEnd x r) s = .next (s)) ∧
  (∀ (x : Fin 3) (k : Fin 32) (sof eof : Nat) (d : Option Nat) (s : State), hasActive s x = some k → selfRx s x = false → 
    exec (.canTxEnd x (.sent sof eof d)) s = .next (endSlot x k .sent eof (setCounters x (s.can.ctl[x].tec - 1) s.can.ctl[x].rec_ (takeTdc x k d (modSlot x k (fun l => { l with sofPm := sof }) s))))) ∧
  (∀ (x : Fin 3) (k : Fin 32) (sof eof : Nat) (d : Option Nat) (s : State), hasActive s x = some k → selfRx s x = true → 
    ∃ t, exec (.canTxEnd x (.sent sof eof d)) s = .next t ∧ ∃ u, u = endSlot x k .sent eof (setCounters x (s.can.ctl[x].tec - 1) s.can.ctl[x].rec_ (takeTdc x k d (modSlot x k (fun l => { l with sofPm := sof }) s))) ∧
      (holeFor s x (frameOf s.can.ctl[x].slots[k].desc.toNat sof) = none → t = u) ∧
      ∀ h, holeFor s x (frameOf s.can.ctl[x].slots[k].desc.toNat sof) = some h → t = storeFrame x h (frameOf s.can.ctl[x].slots[k].desc.toNat sof) u) ∧
  (∀ (x : Fin 3) (k : Fin 32) (s : State), hasActive s x = some k → 
    exec (.canTxEnd x .arbLost) s = .next (retrySlot x k s)) ∧
  (∀ (x : Fin 3) (k : Fin 32) (sof up : Nat) (data : Bool) (tdcv : Option Nat) (s : State), hasActive s x = some k → (data = false ∨ s.can.ctl[x].slots[k].dataErrs ≠ 1) → 
    exec (.canTxEnd x (.error sof data up tdcv)) s = .next (retrySlot x k (setCounters x (s.can.ctl[x].tec + up) s.can.ctl[x].rec_
      (modSlot x k (fun l => { l with sofPm := sof, errors := l.errors + 1, dataErrs := l.dataErrs + b2n data }) (takeTdc x k tdcv s))))) ∧
  (∀ (x : Fin 3) (k : Fin 32) (sof up : Nat) (tdcv : Option Nat) (s : State), hasActive s x = some k → s.can.ctl[x].slots[k].dataErrs = 1 → 
    exec (.canTxEnd x (.error sof true up tdcv)) s = .next (retrySlot x k (setCounters x (s.can.ctl[x].tec + up) s.can.ctl[x].rec_
      (canNote x 0x05 k.val (leBytes 4 (slotId s.can.ctl[x].slots[k].desc.toNat))
        (modSlot x k (fun l => { l with sofPm := sof, errors := l.errors + 1, dataErrs := 2, collision := true, collAt := l.errors + 1 }) (takeTdc x k tdcv s)))))) ∧
  (∀ (x : Fin 3) (k : Fin 32) (s : State), s.can.ctl[x].slots[k].st = .pending → slotDeadline s.can.ctl[x].slots[k].desc.toNat ≠ 0 → slotDeadline s.can.ctl[x].slots[k].desc.toNat ≤ s.pm → 
    exec (.canDeadlineExpiry x k) s = .next (endSlot x k .expired 0 s)) ∧
  (∀ (x : Fin 3) (s : State), s.can.ctl[x].st = .recovering → canRuns s = true → s.can.ctl[x].busOffAt + 1408 * bitTicks s x ≤ s.pm → x ≠ 1 → 
    ∃ t, exec (.busoffRecoveryComplete x) s = .next t ∧ Noted (modCtl x (fun c => { c with st := .active, tec := 0, rec_ := 0 }) s) t ∧ Ended 0x1D x.val s t) ∧
  (∀  (s : State), s.can.ctl[(1 : Fin 3)].st = .recovering → canRuns s = true → s.can.ctl[(1 : Fin 3)].busOffAt + 1408 * bitTicks s 1 ≤ s.pm → 
    ∃ t, exec (.busoffRecoveryComplete 1) s = .next t ∧ Noted ((modCtl 1 (fun c => { c with st := .active, tec := 0, rec_ := 0 }) s).onCan fun v => { v with graceFrom := none }) t) ∧
  (∀ (x : Fin 3) (s : State), canRuns s = true → canEnable s x = true → s.can.ctl[x].st = .offBus → (confine s.can.ctl[x].tec s.can.ctl[x].rec_ ≠ .busOff ∨ busoffAuto s x = false) → 
    ∃ t, exec (.busRejoin x) s = .next t ∧ Noted (modCtl x (fun c => { c with st := confine c.tec c.rec_ }) s) t) ∧
  (∀ (x : Fin 3) (s : State), canRuns s = true → canEnable s x = true → s.can.ctl[x].st = .offBus → confine s.can.ctl[x].tec s.can.ctl[x].rec_ = .busOff → busoffAuto s x = true → 
    ∃ t, exec (.busRejoin x) s = .next t ∧ Noted (modCtl x (fun c => { c with st := .recovering, busOffAt := s.pm }) s) t) ∧
  (∀ (x : Fin 3) (n : Nat) (s : State), onBus s x = true → 
    exec (.receiveError x n) s = .next (setCounters x s.can.ctl[x].tec (s.can.ctl[x].rec_ + n) s))

/-- Machine bus and section bus: claim, synchronisation, ALL_OFF, lost nodes (R337, R340, R344, R346, 17_command_reference.md). Where the spec is open or silent it states the model's choices: log entries 79, 80. -/
def Obligations.NetworkEventsExecute : Prop :=
  (∀  (s : State), isoEn s = true → canRuns s = true → s.sys.dev ≠ .quarantine → s.can.ctl[(0 : Fin 3)].st = .active → s.can.claimed = false → 
    exec (.addressClaim) s = .next (sendClaim (s.onCan fun v => { v with claimed := true, cand := (s.impl.active.map fun i => bits i.mach.toNat 200 8).getD 0x80 }))) ∧
  (∀ (t0 : Nat) (s : State), s.can.claimAt = some t0 → t0 + 20000000 ≤ s.pm → 
    ∃ t, exec (.addressClaimTimer) s = .next t ∧ Noted (s.onCan fun v => { v with addr := v.cand, claimAt := none }) t) ∧
  (∀  (s : State), (∀ t0, s.can.claimAt = some t0 → s.pm < t0 + 20000000) → 
    exec (.addressClaimTimer) s = .next (s)) ∧
  (∀  (s : State), rowRuns s = true → s.can.syncAt < s.pm / syncInterval s * syncInterval s → s.can.ctl[(1 : Fin 3)].slots[(31 : Fin 32)].st = .free → 
    exec (.sync) s = .next (
      loadSlot 1 31 .row (descOf (rowBase s) false true (brsEn s 1) 1 3 0 (leBytes 1 (s.can.syncSeq + 1).toNat))
        (s.onCan fun v => { v with syncAt := s.pm / syncInterval s * syncInterval s, syncSeq := v.syncSeq + 1 }))) ∧
  (∀  (s : State), rowRuns s = true → s.can.syncAt < s.pm / syncInterval s * syncInterval s → s.can.ctl[(1 : Fin 3)].slots[(31 : Fin 32)].st ≠ .free → 
    exec (.sync) s = .next (s.onCan fun v => { v with syncAt := s.pm / syncInterval s * syncInterval s })) ∧
  (∀  (s : State), (s.sys.dev = .standby ∨ s.sys.dev = .safe) → rowRuns s = true → (∀ t0, s.can.allOffAt = some t0 → t0 + 8000000 ≤ s.pm) → 
    exec (.allOffRepeat) s = .next (sendAllOff (s.onCan fun v => { v with allOffAt := some s.pm, allOffWait := v.allOffWait ++ (List.range 32).filter fun n => !v.allOffWait.contains n }))) ∧
  (∀  (s : State), rowEn s = true → (s.can.rowEvents.any fun r => r.slot.isNone && decide (r.due + reportWait s ≤ s.pm)) = true → 
    exec (.reportWaitExpiry) s = .next (commandUnreported s.pm (takeReports s))) ∧
  (∀ (n : Fin 32) (u : State) (s : State), rowRuns s = true → u = takeReport n s → u.can.node[n].seen = true → u.can.node[n].lost = false → u.can.node[n].lastReport + rowTimeout s ≤ s.pm → 
    ∃ t, exec (.rowNodeLost n) s = .next t ∧ t.can.node[n].lost = true ∧ t.can.node[n].rowOn = 0 ∧ t.can.node[n].synced = u.can.node[n].synced ∧
      (∀ k ∈ nodeCtxs s n, t.fe.ctx[k].sched = false ∧ (u.fe.ctx[k].runFrom.isSome = true →
        { pm := u.can.node[n].lastReport + rowTimeout s, ctx := k.val, closing := true, held := true } ∈ t.fe.remote)))

/-- Map store: scrub, write-back, mask build, time-outs, log blocks, track (R164, R165, R176, R180, R181, R214, R387, R388, 17_command_reference.md). Where the spec is open or silent it states the model's choices: log entries 51, 53. -/
def Obligations.StoreEventsExecute : Prop :=
  (∀ (l : List EccIn) (s : State), s.sys.mapReady = true → s.map.lastScrub + msTicks (1000 * s.act.fld .map 160 16) ≤ s.pm → 
    exec (.scrub l) s = .next ((s.map.upsets ++ l).foldl (fun u x => eccWord x u) (s.onMap fun m => { m with lastScrub := s.pm, upsets := [] }))) ∧
  (∀ (x : EccIn) (s : State), s.sys.mapReady = true → s.map.lastScrub + msTicks (1000 * s.act.fld .map 160 16) ≤ s.pm → s.map.upsets = [] → x.double = false → recurs x s = false → 
    ∃ t, exec (.scrub [x]) s = .next t ∧ Noted (s.onMap fun m => { m with lastScrub := s.pm, eccCorr := m.eccCorr + 1, mended := m.mended ++ [{ x with double := false, addr := 0 }] }) t) ∧
  (∀ (x : EccIn) (s : State), s.sys.mapReady = true → s.map.lastScrub + msTicks (1000 * s.act.fld .map 160 16) ≤ s.pm → s.map.upsets = [] → x.double = true → x.region = .polygon → 
    ∃ t, exec (.scrub [x]) s = .next t ∧ Noted (s.onMap fun m => { m with lastScrub := s.pm, eccUnc := m.eccUnc + 1, polyDamaged := true }) t ∧ Logged 0x22 0xFFFF t) ∧
  (∀  (s : State), 
    exec (.dirtyWriteback) s = .next (s.onMap fun m => { m with cache := m.cache.map fun l => { l with dirty := false } })) ∧
  (∀ (m : Mask) (u : State) (s : State), s.map.building = some m → s.restarting .pair = false → u = (meetErrors (fun x => x.region == .polygon) s).1 → u.map.polyDamaged = false → m.tiles.length ≤ 256 - u.map.maskPool.retired.length → m.entries ≤ 16384 → 
    ∃ t, exec (.maskBuilt) s = .next t ∧ Noted (u.onMap fun x => { x with building := none, built := some m }) t) ∧
  (∀ (m : Mask) (u : State) (s : State), s.map.building = some m → s.restarting .pair = false → u = (meetErrors (fun x => x.region == .polygon) s).1 → (u.map.polyDamaged = true ∨ 256 - u.map.maskPool.retired.length < m.tiles.length ∨ 16384 < m.entries) → 
    ∃ t, exec (.maskBuilt) s = .next t ∧ Noted (u.onMap fun x => { x with building := none }) t) ∧
  (∀  (s : State), (s.map.building = none ∨ s.restarting .pair = true) → 
    exec (.maskBuilt) s = .next (s)) ∧
  (∀ (l : Load) (s : State), s.map.load = some l → l.ending = false → l.lastPm + 800000000 ≤ s.pm → 
    ∃ t, exec (.loadTimeout) s = .next t ∧ Noted (s.onMap fun m => { m with load := none }) t) ∧
  (∀  (s : State), (∀ l, s.map.load = some l → l.ending = true ∨ s.pm < l.lastPm + 800000000) → 
    exec (.loadTimeout) s = .next (s)) ∧
  (∀ (x : Exp) (s : State), s.map.exp = some x → x.lastPm + 4800000000 ≤ s.pm → 
    exec (.exportTimeout) s = .next (s.onMap fun m => { m with exp := none })) ∧
  (∀  (s : State), (∀ x, s.map.exp = some x → s.pm < x.lastPm + 4800000000) → 
    exec (.exportTimeout) s = .next (s)) ∧
  (∀  (s : State), s.map.log ≠ [] → s.restarting .enclave = false → s.map.logFirst + msTicks (1000 * s.act.fld .map 176 16) ≤ s.pm → 
    ∃ t, exec (.logSeal) s = .next t ∧ ∃ b, t.map.ring = s.map.ring ++ [b] ∧ b.seq = s.pd0.blockSeq ∧ b.boot = s.pd0.bootCount ∧ b.records = s.map.log ∧
      b.count = s.map.log.length ∧ b.firstPm = s.map.logFirst ∧ b.prevHash = s.pd0.chainHash ∧ b.sig = Config.ecdsaSign logKey (Config.sha256 b.signedBytes) ∧
      t.map.log = [] ∧ t.pd0.chainHash = Config.sha256 b.signedBytes ∧ t.pd0.blockSeq = incMod 32 s.pd0.blockSeq 1) ∧
  (∀ (due : Nat) (s : State), (s.sys.dev = .armed ∨ s.sys.dev = .manual) → due = s.pm / msTicks (10 * s.act.fld .map 192 16) * msTicks (10 * s.act.fld .map 192 16) → s.map.trackAt < due → 
    exec (.trackRecord) s = .next (
      writeLog (logRecord 0x08 0 (qualityCode s.pos.pose.quality) due
        (uint 32 s.pos.pose.est.east ||| uint 32 s.pos.pose.est.north <<< 32 ||| uint 16 s.pos.pose.est.heading <<< 64 ||| satU 16 s.pos.pose.est.hErr <<< 80
          ||| sectionsOn s <<< 96)) (s.onMap fun m => { m with trackAt := due }))) ∧
  (∀  (s : State), (s.sys.dev ≠ .armed ∧ s.sys.dev ≠ .manual ∨ s.pm / msTicks (10 * s.act.fld .map 192 16) * msTicks (10 * s.act.fld .map 192 16) ≤ s.map.trackAt) → 
    exec (.trackRecord) s = .next (s)) ∧
  (∀  (s : State), s.running = true → s.vdr.latSaved + 48000000000 ≤ s.pm → 
    exec (.latencySave) s = .next ((s.onNor fun n => { n with lat := s.vdr.lat }).onVdr fun v => { v with latSaved := s.pm }))

/-- Activation, trial, service session expiry, tamper, image check (R410, R415, R418, R420, R456, 17_command_reference.md). -/
def Obligations.SecurityEventsExecute : Prop :=
  (∀  (s : State), 
    exec (.activationPrepared) s = .next (s.onSec fun v => { v with activation := v.activation.map fun a => { a with ready := a.ready.or (some s.pm) } })) ∧
  (∀ (i : Fin 5) (r : BitVec 4) (s : State), s.sec.image[i].trial = true → trialTicks s ≤ trialRun s i → r = (if s.sec.image[i].run.revokeOther then s.sec.revoked ||| (if s.sec.image[i].run.keyB then 1 else 2) else s.sec.revoked) → 
    ∃ t, exec (.trialPassed i) s = .next t ∧ Noted (((modImage i (fun m => { m.modRun (fun b => { b with passed := true }) with
        floor := max m.floor (min 64 m.run.svn), trialRestarts := 0 }) s).onSec fun v => { v with
      revoked := r, image := vmap v.image (Image.stillVerified r) }).onPd0 fun d =>
        { d with trialRun := d.trialRun.set i 0 }) t) ∧
  (∀  (s : State), 
    ∃ t, exec (.serviceSessionExpiry) s = .next t ∧ ∀ p, ((portOf s p).session = none → (portOf t p).session = none) ∧
      ∀ x, (portOf s p).session = some x → (portOf t p).session = if x.service.isSome ∧ x.opened + 1152000000000 ≤ s.pm then none else some x) ∧
  (∀  (s : State), 
    exec (.tamper) s = .next (s.onPd0 fun d => { d with tamper := d.tamper + 1 })) ∧
  (∀  (s : State), s.sec.verifying = none → 
    exec (.imageVerified) s = .next (s)) ∧
  (∀ (k : Nat) (s : State), s.sec.verifying = some k → idx? 5 k = none → 
    exec (.imageVerified) s = .next (s.onSec fun v => { v with verifying := none })) ∧
  (∀ (k : Nat) (i : Fin 5) (s : State), s.sec.verifying = some k → idx? 5 k = some i → 
    ∃ t, exec (.imageVerified) s = .next t ∧ Noted (modImage i (fun m => m.modOther fun b => { b with
        verified := decide (imageAuthentic s i s.sec.image[i].other = true ∧ s.sec.image[i].floor ≤ s.sec.image[i].other.svn) }) (s.onSec fun v => { v with verifying := none })) t)

/-- Port, frame, supply, start and fault events out of their conditions change nothing (R15, R133, R361, R426, R431, R446, R452, R453, R455, R463, R467, 17_command_reference.md). Where the spec is open or silent it states the model's choices: log entry 2. -/
def Obligations.SupplyAndFaultEventsIdle : Prop :=
  (∀ (p : Port) (s : State), ¬ (portListens s p = true) → exec (.badHeader p) s = .next s) ∧
  (∀ (p : Port) (s : State), ¬ (portListens s p = true ∧ 0 < (portOf s p).noticeCredits ∧ ((portOf s p).notices ≠ [] ∨ (portOf s p).noticesLost ≠ 0) ∧ (portOf s p).out.all (fun o => o.body.telemetric) = true) → exec (.noticeEnvelope p) s = .next s) ∧
  (∀ (p : Port) (s : State), ¬ (portListens s p = true ∧ (portOf s p).linkArmed = true ∧ (portOf s p).linkLost = false ∧ (portOf s p).linkFrom + linkTimeout s p ≤ s.pm) → exec (.linkLost p) s = .next s) ∧
  (∀ (f : Freeze) (s : State), ¬ (s.running = true ∧ s.sys.dev ≠ .off ∧ (∀ l, s.sys.lastEdge = some l → l < edgeOf s.pm)) → exec (.frameEdge f) s = .next s) ∧
  (∀ (s : State), ¬ (s.sys.phase = some .freeze ∧ (∃ e, s.sys.lastEdge = some e ∧ e + 20000 ≤ s.pm ∧ s.pm < e + 32000)) → exec (.decisionPhase) s = .next s) ∧
  (∀ (agree : Bool) (s : State), ¬ (s.sys.phase = some .decision ∧ (∃ e, s.sys.lastEdge = some e ∧ e + 32000 ≤ s.pm ∧ s.pm < e + 36000)) → exec (.commitPhase agree) s = .next s) ∧
  (∀ (s : State), ¬ (s.sys.phase ≠ some .logging ∧ (∃ e, s.sys.lastEdge = some e ∧ e + 36000 ≤ s.pm ∧ s.pm < e + 40000)) → exec (.loggingPhase) s = .next s) ∧
  (∀ (s : State), ¬ (s.pwr.vkey = true) → exec (.vkeyLow) s = .next s) ∧
  (∀ (s : State), ¬ (s.sys.dev = .off) → exec (.vbatStartBand) s = .next s) ∧
  (∀ (s : State), ¬ (s.sys.dev = .off ∨ s.pwr.lowSupply = false) → exec (.lowSupply) s = .next s) ∧
  (∀ (s : State), ¬ (s.pwr.lowSupply = true) → exec (.lowSupplyExit) s = .next s) ∧
  (∀ (s : State), ¬ (s.pwr.groundLost = true) → exec (.groundRestored) s = .next s) ∧
  (∀ (s : State), ¬ (s.sys.dev ≠ .off ∧ s.pwr.loadDump = false) → exec (.loadDump) s = .next s) ∧
  (∀ (s : State), ¬ (s.sys.dev = .start ∧ s.running = false ∧ s.sys.bootStage = 1) → exec (.timeResetRelease) s = .next s) ∧
  (∀ (v0 v1 : Vector BankVerdict 5) (s : State), ¬ (s.sys.dev = .start ∧ s.running = true ∧ s.sys.bootStage = 2 ∧ s.sys.imagesOk = false ∧ s.sys.quarCause = 0) → exec (.imageSetSelect v0 v1) s = .next s) ∧
  (∀ (s : State), ¬ (s.sys.dev = .start ∧ s.sys.bootStage = 2 ∧ (s.sys.imagesOk = true ∨ s.sys.quarCause = 2) ∧ s.sys.powered = false) → exec (.domainPowerUp) s = .next s) ∧
  (∀ (s : State), ¬ (s.sys.powered = true ∧ s.sys.hostAlive = false) → exec (.hostPortAlive) s = .next s) ∧
  (∀ (failed : List Nat) (s : State), ¬ (s.sys.dev = .start ∧ s.sys.powered = true ∧ s.sys.imagesOk = true ∧ s.pm % 40000 = 0) → exec (.selftestComplete failed) s = .next s) ∧
  (∀ (d : Fin 12) (s : State), ¬ (bitN (requiredDomains s) d.val = true ∧ s.pwr.domains.getLsbD d.val = false) → exec (.powerDomainSwitch d true) s = .next s) ∧
  (∀ (d : Fin 12) (s : State), ¬ (bitN (requiredDomains s) d.val = false ∧ s.pwr.domains.getLsbD d.val = true) → exec (.powerDomainSwitch d false) s = .next s) ∧
  (∀ (retired : Vector Nat 3) (s : State), ¬ (s.sys.bootStage = 4 ∧ s.sys.mapReady = false ∧ s.sys.dev ≠ .latched) → exec (.dramTestDone retired) s = .next s) ∧
  (∀ (el : Element) (s : State), ¬ (s.sys.dev ≠ .off) → exec (.clockElement el) s = .next s) ∧
  (∀ (k : BitVec 8) (s : State), ¬ (s.sys.dev ≠ .off) → exec (.clockBase k) s = .next s) ∧
  (∀ (s : State), ¬ (s.pwr.clkBaseBad = true) → exec (.clockBaseRestored) s = .next s) ∧
  (∀ (el : Element) (s : State), ¬ ((elemOf s el).clockBad = true ∧ (elemOf s el).relockAt ≤ s.pm) → exec (.pllRelock el true) s = .next s) ∧
  (∀ (el : Element) (s : State), ¬ ((elemOf s el).clockBad = true ∧ (elemOf s el).relockAt ≤ s.pm) → exec (.pllRelock el false) s = .next s) ∧
  (∀ (el : Element) (s : State), ¬ ((elemOf s el).restarting = true ∧ (elemOf s el).clockBad = false) → exec (.elementRestartComplete el) s = .next s) ∧
  (∀ (s : State), ¬ (safeInEn s = true ∧ s.sys.dev ≠ .off) → exec (.safeIn) s = .next s) ∧
  (∀ (s : State), ¬ (s.safe.safeIn = true) → exec (.safeInRelease) s = .next s) ∧
  (∀ (s : State), ¬ (s.sys.dev ≠ .off ∧ s.vdr.conv.fault = false) → exec (.boost) s = .next s) ∧
  (∀ (s : State), ¬ (s.vdr.conv.fault = true ∧ s.vdr.conv.retryAt ≤ s.pm) → exec (.boostRetry true) s = .next s) ∧
  (∀ (s : State), ¬ (s.vdr.conv.fault = true ∧ s.vdr.conv.retryAt ≤ s.pm) → exec (.boostRetry false) s = .next s)

/-- Time, receiver, antenna and correction events out of their conditions change nothing (R40, R43, R52, R57, R60, R61, R63, R64, R87, R89, R321, 17_command_reference.md). Where the spec is open or silent it states the model's choices: log entry 2. -/
def Obligations.TimeEventsIdle : Prop :=
  (∀ (s : State), ¬ (s.time.st = .locked ∧ s.time.lastGood + 20000000 ≤ s.pm) → exec (.holdoverEntry) s = .next s) ∧
  (∀ (s : State), ¬ (s.time.st = .holdover ∧ s.time.lastGood + holdoverLimit s ≤ s.pm) → exec (.holdoverLimitExpiry) s = .next s) ∧
  (∀ (s : State), ¬ (s.time.ppsOut = true ∧ s.time.ppsEnd ≤ s.pm) → exec (.ppsPulseEnd) s = .next s) ∧
  (∀ (s : State), ¬ (s.sys.dev = .standby) → exec (.tcxoClear) s = .next s) ∧
  (∀ (s : State), ¬ (gnssRuns s = true ∧ 4 ≤ trackedValid s ∧ s.gnss.warmAt + 800000000 ≤ s.pm) → exec (.warmSearchTimer) s = .next s) ∧
  (∀ (c : Fin 24) (s : State), ¬ (gnssRuns s = true ∧ s.gnss.chan[c].stage = .fll ∧ s.gnss.chan[c].since + 16000000 ≤ s.pm) → exec (.pullInTimeout c) s = .next s) ∧
  (∀ (c : Fin 24) (s : State), ¬ (gnssRuns s = true ∧ s.gnss.chan[c].stage = .fll ∧ s.gnss.chan[c].since + 1600000 ≤ s.pm ∧ s.pm < s.gnss.chan[c].since + 16000000) → exec (.pullInComplete c) s = .next s) ∧
  (∀ (c : Fin 24) (l : List Nat) (s : State), ¬ (gnssRuns s = true ∧ s.gnss.chan[c].stage = .pll ∧ s.gnss.chan[c].phaseLock = true ∧ s.gnss.chan[c].bitSync = false ∧ s.gnss.chan[c].lockAt + 160000000 ≤ s.pm ∧ l.length = 20 ∧ 10 ≤ l.foldl max 0 ∧ 60 * l.sum ≤ 100 * l.foldl max 0) → exec (.bitSync c l) s = .next s) ∧
  (∀ (c : Fin 24) (f : FrameIn) (s : State), ¬ (gnssRuns s = true ∧ s.gnss.chan[c].stage = .tracking ∧ s.gnss.chan[c].bitSync = true ∧ s.gnss.chan[c].frameSync = false ∧ frameFound f = true) → exec (.frameSync c f) s = .next s) ∧
  (∀ (c : Fin 24) (w : BitVec 30) (s : State), ¬ (gnssRuns s = true ∧ s.gnss.chan[c].stage.tracks = true ∧ s.gnss.chan[c].frameSync = true) → exec (.lnavWord c w) s = .next s) ∧
  (∀ (c : Fin 24) (s : State), ¬ (gnssRuns s = true ∧ s.gnss.chan[c].stage.tracks = true ∧ (∃ t0, s.gnss.chan[c].weakFrom = some t0 ∧ t0 + 160000000 ≤ s.pm)) → exec (.channelLoss c) s = .next s) ∧
  (∀ (ma : Nat) (s : State), ¬ (antBias s ≠ 0 ∧ s.gnss.antShort = true ∧ s.gnss.bias = false ∧ s.gnss.antRetryAt ≤ s.pm) → exec (.antBiasRetry ma) s = .next s) ∧
  (∀ (s : State), ¬ (s.gnss.rtcmBuf ≠ [] ∧ s.gnss.rtcmLast + 160000000 ≤ s.pm ∧ readFrame s.gnss.rtcmBuf = .wait) → exec (.rtcmTimeout) s = .next s) ∧
  (∀ (m : BitVec 32) (l : List Int) (q : Nat) (s : State), ¬ (fixRatio s ≤ q ∧ s.restarting .pair = false) → exec (.ambiguityCandidate m l q) s = .next s) ∧
  (∀ (k : Fin 4) (s : State), ¬ (3 ≤ odoType s k ∧ s.pos.odo[k].stale = false ∧ s.pos.odo[k].lastPm + 24000000 ≤ s.pm) → exec (.odoStale k) s = .next s)

/-- Valve, PWM and loop events out of their conditions change nothing (R188, R191, R193, R207, R220, R227, R234, R236, R241, R246, R258, 17_command_reference.md). Where the spec is open or silent it states the model's choices: log entry 2. -/
def Obligations.ValveAndLoopEventsIdle : Prop :=
  (∀ (c : Fin 96) (s : State), ¬ (s.vdr.ch[c].st = .pending ∧ s.vdr.ch[c].startAt ≤ s.pm) → exec (.reservedStart c) s = .next s) ∧
  (∀ (b : Fin 12) (s : State), ¬ (s.vdr.bank[b].feed ≠ .bst ∧ s.vdr.bank[b].isolated = 0 ∧ s.vdr.bank[b].windows.any (fun w => w.start ≤ s.pm + 320 && s.pm < w.stop) = true) → exec (.feedToVbst b) s = .next s) ∧
  (∀ (b : Fin 12) (s : State), ¬ (s.vdr.bank[b].feed = .bst ∧ s.vdr.bank[b].windows.any (fun w => w.stop ≤ s.pm) = true ∧ s.vdr.bank[b].windows.any (fun w => inWindow w.start w.stop s.pm) = false) → exec (.windowEnd b) s = .next s) ∧
  (∀ (b : Fin 12) (s : State), ¬ (s.vdr.bank[b].windows.any (fun w => w.stop + w.guard ≤ s.pm) = true) → exec (.guardEnd b) s = .next s) ∧
  (∀ (c : Fin 96) (l0 : Nat) (s : State), ¬ (s.vdr.ch[c].st = .pullIn ∧ s.vdr.ch[c].pullEnd ≤ s.pm) → exec (.pullInEnd c l0) s = .next s) ∧
  (∀ (c : Fin 96) (en : Nat) (s : State), ¬ (s.vdr.ch[c].st = .decay ∧ s.vdr.ch[c].fast = true ∧ s.vdr.ch[c].offSet.iTail ≠ 0) → exec (.fastDecayEnd c en) s = .next s) ∧
  (∀ (c : Fin 96) (en : Nat) (s : State), ¬ (s.vdr.ch[c].st = .decay) → exec (.decayEnd c en) s = .next s) ∧
  (∀ (c : Fin 96) (g : SigIn) (s : State), ¬ (s.vdr.ch[c].searching = true ∧ (s.vdr.ch[c].st = .pullIn ∨ s.vdr.ch[c].st = .hold) ∧ s.vdr.ch[c].startAt ≤ g.sample ∧ s.pm ≤ s.vdr.ch[c].startAt + s.vdr.ch[c].onSet.searchWin ∧ isMin g = true ∧ signatureOk c s.pm g (10 * s.vdr.ch[c].onSet.sigMin) = true) → exec (.openingSignature c g) s = .next s) ∧
  (∀ (c : Fin 96) (g : SigIn) (en : Nat) (s : State), ¬ (s.vdr.ch[c].st = .decay ∧ s.vdr.ch[c].closeSearch = true ∧ s.vdr.ch[c].offPm ≤ g.sample ∧ s.pm ≤ s.vdr.ch[c].offPm + s.vdr.ch[c].offSet.searchWin ∧ isMax g = true ∧ signatureOk c s.pm g (5 * s.vdr.ch[c].offSet.sigMin) = true) → exec (.closingSignature c g en) s = .next s) ∧
  (∀ (c : Fin 96) (s : State), ¬ (s.vdr.ch[c].searching = true ∧ s.vdr.ch[c].startAt + s.vdr.ch[c].onSet.searchWin ≤ s.pm) → exec (.openingSearchEnd c) s = .next s) ∧
  (∀ (c : Fin 96) (ma : Nat) (s : State), ¬ (chanOn s.vdr.ch[c] = true ∧ s.vdr.ch[c].startAt + 112000 ≤ s.pm) → exec (.openLoad c ma) s = .next s) ∧
  (∀ (c : Fin 96) (s : State), ¬ (chanOn s.vdr.ch[c] = true) → exec (.overcurrent c) s = .next s) ∧
  (∀ (c : Fin 96) (ma : Nat) (s : State), ¬ (1650 < ma ∧ (s.vdr.prot[c].tripLatch = false ∨ s.vdr.prot[c].overload = false)) → exec (.overload c ma) s = .next s) ∧
  (∀ (c : Fin 96) (x : Int) (s : State), ¬ (thsTakes s (stageSensor c).1 (stageSensor c).2 = true) → exec (.stageHot c x) s = .next s) ∧
  (∀ (c : Fin 96) (x : Int) (s : State), ¬ (thsTakes s (stageSensor c).1 (stageSensor c).2 = true) → exec (.stageHotRelease c x) s = .next s) ∧
  (∀ (b : Fin 12) (s : State), ¬ ((s.vdr.bank[b].isolated = 0 ∨ s.vdr.bank[b].reconnect.isSome = true)) → exec (.feedOc b) s = .next s) ∧
  (∀ (c : Fin 96) (s : State), ¬ (s.sys.dev ≠ .latched ∧ s.vdr.prot[c].tripLatch = true ∧ s.vdr.prot[c].tripAt + 8000000 ≤ s.pm ∧ 0 < s.pd0.chRetries[c]) → exec (.retryRelease (.channel c)) s = .next s) ∧
  (∀ (b : Fin 12) (s : State), ¬ (s.sys.dev ≠ .latched ∧ s.vdr.bank[b].isolated = 2 ∧ s.vdr.bank[b].isolAt + 8000000 ≤ s.pm ∧ 0 < s.pd0.bankRetries[b]) → exec (.retryRelease (.bank b)) s = .next s) ∧
  (∀ (c : Fin 96) (s : State), ¬ (chanOn s.vdr.ch[c] = false ∧ r20Of s c.val ≠ 0 ∧ s.vdr.prot[c].tempSeen = true) → exec (.coilCooled c) s = .next s) ∧
  (∀ (b : Fin 12) (s : State), ¬ (trigRuns s = true ∧ s.pwu.grid[b].b + s.pwu.grid[b].period ≤ s.pm) → exec (.bankBoundary b) s = .next s) ∧
  (∀ (c : Fin 96) (s : State), ¬ (s.pwu.noz[c].running = true ∧ s.pwu.noz[c].nextOpen ≤ openingOf s c ∧ openingOf s c ≤ s.pm) → exec (.gridOpening c) s = .next s) ∧
  (∀ (g : Fin 8) (s : State), ¬ (s.pwu.fine[g].running = true ∧ s.pwu.fine[g].startAt + periodCounts s.pwu.fine[g].periodActive s.pwu.fine[g].centre < 5 * (s.pm + 1)) → exec (.finePeriodStart g) s = .next s) ∧
  (∀ (g : Fin 8) (x : Option Nat) (s : State), ¬ (s.pwu.fine[g].running = true ∧ transitionDue s g true = true) → exec (.gateTransition g true x) s = .next s) ∧
  (∀ (g : Fin 8) (x : Option Nat) (s : State), ¬ (s.pwu.fine[g].running = true ∧ transitionDue s g false = true) → exec (.gateTransition g false x) s = .next s) ∧
  (∀ (j : Fin 4) (s : State), ¬ (s.pwu.trig[j].active = true ∧ s.pwu.trig[j].endAt ≤ s.pm) → exec (.trigOutPulseEnd j) s = .next s) ∧
  (∀ (k : Fin 16) (s : State), ¬ (ceRuns s = true ∧ loopCounts s k (s.pm / 10000 * 10000) = true ∧ s.ce.loop[k].evalFor ≠ some (s.pm / 10000 * 10000) ∧ loopTurn s k (s.pm / 10000 * 10000) = true ∧ s.pm < s.pm / 10000 * 10000 + deadline s k) → exec (.loopEvaluation k) s = .next s)

/-- Input and load switch events out of their conditions change nothing (R275, R278, R279, R280, R281, R282, R285, R298, R299, R300, R303, 17_command_reference.md). Where the spec is open or silent it states the model's choices: log entry 2. -/
def Obligations.InputAndSwitchEventsIdle : Prop :=
  (∀ (i : Fin 4) (ba : BitVec 2) (s : State), ¬ (pifRuns s = true ∧ linesReady s (encFilter s i) (ba.toNat ^^^ s.pif.enc[i].state) s.pif.enc[i].accepted = true) → exec (.encoderTransition i ba) s = .next s) ∧
  (∀ (i : Fin 4) (ba : BitVec 2) (s : State), ¬ (pifRuns s = true ∧ linesReady s (encFilter s i) (ba.toNat ^^^ s.pif.enc[i].state) s.pif.enc[i].accepted = true ∧ lineReady s (2 * encFilter s i) s.pif.enc[i].accepted[(2 : Fin 3)] = true) → exec (.index i ba) s = .next s) ∧
  (∀ (i : Fin 4) (wvu : BitVec 3) (s : State), ¬ (pifRuns s = true ∧ linesReady s (hallFilter s i) (wvu.toNat ^^^ s.pif.hall[i].state) s.pif.hall[i].accepted = true) → exec (.hallTransition i wvu) s = .next s) ∧
  (∀ (i : Fin 4) (s : State), ¬ (s.pif.hall[i].hallIllegal = true ∧ s.pif.hall[i].invalid = false ∧ s.pif.hall[i].illegalAt + 80000 ≤ s.pm) → exec (.hallIllegal i) s = .next s) ∧
  (∀ (i : Fin 16) (s : State), ¬ (pifRuns s = true ∧ lineReady s (freqFilter s i) s.pif.freq[i].acceptedAt = true) → exec (.freqEdge i) s = .next s) ∧
  (∀ (i : Fin 8) (f : Bool) (s : State), ¬ (pifRuns s = true ∧ lineReady s (evtFilter s i) s.pif.evt[i].acceptedAt = true) → exec (.eventEdge i f) s = .next s) ∧
  (∀ (i : Fin 32) (mv : BitVec 16) (s : State), ¬ (pifRuns s = true ∧ (∃ t0, (ainTrigEn s i = false ∧ t0 = s.pm / 10000 * 10000 ∨ ainTrigEn s i = true ∧ ∃ g, idx? 8 (ainTrigGen s i) = some g ∧ (finePeaks s).pwu.fine[g].trigAt = some t0) ∧ s.pif.ain[i].since ≤ t0 ∧ ∀ p ∈ s.pif.ain[i].past, p.1 < t0)) → exec (.analogConversion i mv) s = .next s) ∧
  (∀ (x : Fin 2) (s : State), ¬ (emuRuns s x = true) → exec (.emuOutputStep x) s = .next s) ∧
  (∀ (c : Fin 16) (s : State), ¬ (s.lsw.ls[c].st = .inrush ∧ s.lsw.ls[c].stepEnd ≤ lswNow s) → exec (.inrushStep c) s = .next s) ∧
  (∀ (c : Fin 16) (s : State), ¬ ((s.lsw.ls[c].st = .on ∨ offDiagnosed s c = true) ∧ s.lsw.ls[c].openLoad = false) → exec (.lswOpenLoad c true) s = .next s) ∧
  (∀ (c : Fin 16) (s : State), ¬ (s.lsw.ls[c].openLoad = true) → exec (.lswOpenLoad c false) s = .next s) ∧
  (∀ (c : Fin 16) (s : State), ¬ (offDiagnosed s c = true ∧ s.lsw.ls[c].shortBat = false) → exec (.lswShortBat c true) s = .next s) ∧
  (∀ (c : Fin 16) (s : State), ¬ (s.lsw.ls[c].shortBat = true) → exec (.lswShortBat c false) s = .next s) ∧
  (∀ (c : Fin 16) (s : State), ¬ (s.lsw.ls[c].outOn = true) → exec (.lswShort c) s = .next s) ∧
  (∀ (c : Fin 16) (s : State), ¬ (s.lsw.ls[c].isOn = true ∧ s.pd0.keyOffHold[c] = none) → exec (.lswOverload c) s = .next s) ∧
  (∀ (c : Fin 16) (x : Int) (s : State), ¬ ((thsTakes s 8 (lswSensor c) = true ∨ s.sys.dev = .off)) → exec (.lswOvertemp c x) s = .next s) ∧
  (∀ (c : Fin 16) (x : Int) (s : State), ¬ ((thsTakes s 8 (lswSensor c) = true ∨ s.sys.dev = .off)) → exec (.thermLatchRelease c x) s = .next s) ∧
  (∀ (a : Nat) (s : State), ¬ (80000 < a ∧ s.lsw.shedding = false) → exec (.aggregate a) s = .next s) ∧
  (∀ (a : Nat) (s : State), ¬ (s.lsw.shedding = true ∧ s.lsw.lastShed + 80000 ≤ s.pm) → exec (.aggregateShedStep a) s = .next s) ∧
  (∀ (c : Fin 16) (s : State), ¬ (s.lsw.ls[c].st = .latched ∧ s.lsw.ls[c].aggregate = false ∧ s.lsw.ls[c].thermLatch = false ∧ s.lsw.ls[c].exhausted = false ∧ s.sys.dev ≠ .latched ∧ max (s.lsw.ls[c].tripAt + msTicks s.lsw.ls[c].profile.retryDelay) s.lsw.ls[c].thermAt ≤ lswNow s) → exec (.lswRetryDue c) s = .next s) ∧
  (∀ (c : Fin 16) (s : State), ¬ (s.sys.dev = .coast ∧ coastPolicy s c = 1 ∧ s.sys.coastEntry + offAfter s c ≤ s.pm) → exec (.offAfterExpiry c) s = .next s)

/-- Thermal, bus, store and security events out of their conditions change nothing (R176, R314, R315, R318, R325, R336, R337, R340, R344, R346, R418, 17_command_reference.md). Where the spec is open or silent it states the model's choices: log entry 2. -/
def Obligations.ThermalBusAndStoreEventsIdle : Prop :=
  (∀ (z : Fin 10) (k : Fin 20) (x : Int) (s : State), ¬ (thsTakes s z k = true) → exec (.warn z k x) s = .next s) ∧
  (∀ (z : Fin 10) (k : Fin 20) (x : Int) (s : State), ¬ (thsTakes s z k = true) → exec (.throttle z k x) s = .next s) ∧
  (∀ (z : Fin 10) (k : Fin 20) (s : State), ¬ (thsTakes s z k = true) → exec (.sensorBroken z k) s = .next s) ∧
  (∀ (z : Fin 10) (k : Fin 20) (x : Int) (s : State), ¬ (thsTakes s z k = true) → exec (.rateTrip z k x) s = .next s) ∧
  (∀ (z : Fin 10) (k : Fin 20) (x : Int) (s : State), ¬ (thsTakes s z k = true) → exec (.shutdown z k x) s = .next s) ∧
  (∀ (x : Fin 3) (s : State), ¬ (onBus s x = true ∧ listen s x = false ∧ hasActive s x = none ∧ (∃ k, winner s x = some k)) → exec (.canTxStart x) s = .next s) ∧
  (∀ (x : Fin 3) (k : Fin 32) (s : State), ¬ (s.can.ctl[x].slots[k].st = .pending ∧ slotDeadline s.can.ctl[x].slots[k].desc.toNat ≠ 0 ∧ slotDeadline s.can.ctl[x].slots[k].desc.toNat ≤ s.pm) → exec (.canDeadlineExpiry x k) s = .next s) ∧
  (∀ (x : Fin 3) (s : State), ¬ (s.can.ctl[x].st = .recovering ∧ canRuns s = true ∧ s.can.ctl[x].busOffAt + 1408 * bitTicks s x ≤ s.pm) → exec (.busoffRecoveryComplete x) s = .next s) ∧
  (∀ (x : Fin 3) (s : State), ¬ (canRuns s = true ∧ canEnable s x = true ∧ s.can.ctl[x].st = .offBus) → exec (.busRejoin x) s = .next s) ∧
  (∀ (x : Fin 3) (n : Nat) (s : State), ¬ (onBus s x = true) → exec (.receiveError x n) s = .next s) ∧
  (∀ (s : State), ¬ (isoEn s = true ∧ canRuns s = true ∧ s.sys.dev ≠ .quarantine ∧ s.can.ctl[(0 : Fin 3)].st = .active ∧ s.can.claimed = false) → exec (.addressClaim) s = .next s) ∧
  (∀ (s : State), ¬ (rowRuns s = true ∧ s.can.syncAt < s.pm / syncInterval s * syncInterval s) → exec (.sync) s = .next s) ∧
  (∀ (s : State), ¬ ((s.sys.dev = .standby ∨ s.sys.dev = .safe) ∧ rowRuns s = true ∧ (∀ t0, s.can.allOffAt = some t0 → t0 + 8000000 ≤ s.pm)) → exec (.allOffRepeat) s = .next s) ∧
  (∀ (s : State), ¬ (rowEn s = true ∧ (s.can.rowEvents.any fun r => r.slot.isNone && decide (r.due + reportWait s ≤ s.pm)) = true) → exec (.reportWaitExpiry) s = .next s) ∧
  (∀ (n : Fin 32) (s : State), ¬ (rowRuns s = true ∧ (takeReport n s).can.node[n].seen = true ∧ (takeReport n s).can.node[n].lost = false ∧ (takeReport n s).can.node[n].lastReport + rowTimeout s ≤ s.pm) → exec (.rowNodeLost n) s = .next s) ∧
  (∀ (l : List EccIn) (s : State), ¬ (s.sys.mapReady = true ∧ s.map.lastScrub + msTicks (1000 * s.act.fld .map 160 16) ≤ s.pm) → exec (.scrub l) s = .next s) ∧
  (∀ (s : State), ¬ (s.map.log ≠ [] ∧ s.restarting .enclave = false ∧ s.map.logFirst + msTicks (1000 * s.act.fld .map 176 16) ≤ s.pm) → exec (.logSeal) s = .next s) ∧
  (∀ (s : State), ¬ (s.running = true ∧ s.vdr.latSaved + 48000000000 ≤ s.pm) → exec (.latencySave) s = .next s) ∧
  (∀ (i : Fin 5) (s : State), ¬ (s.sec.image[i].trial = true ∧ trialTicks s ≤ trialRun s i) → exec (.trialPassed i) s = .next s)

/-- A request on a port that does not listen does nothing; a bad header is counted (R354, 16_host_protocol.md). Where the spec is open or silent it states the model's choices: log entry 70. -/
def Obligations.UnheardAndBadHeadersExecute : Prop :=
  (∀ (i : Instr) (e : Env) (op : BitVec 16) (s : State), i.env? = some e → i.opcode? = some op → portListens s e.port = false → exec i s = .next s) ∧
  (∀ (i : Instr) (e : Env) (op : BitVec 16) (s : State), i.env? = some e → i.opcode? = some op → portListens s e.port = true → headerBad op e = true →
    ∃ t, exec i s = .next t ∧ Noted (modPort e.port (fun q => { q with badHeader := q.badHeader + 1 }) s) t)

/-- Reserved bits, version, held retransmission and credit are checked in the order of the table (R354, R356, R357, 16_host_protocol.md). Where the spec is open or silent it states the model's choices: log entries 62, 63. -/
def Obligations.HeadersRefusedByTheTable : Prop :=
  (∀ (i : Instr) (e : Env) (op : BitVec 16) (s : State), i.env? = some e → i.opcode? = some op → portListens s e.port = true → headerBad op e = false → (e.noticeBit || e.moreBit || e.rsvdA != 0 || e.rsvdB != 0) = true → noCredit e.port (validHeader e s) = false →
    exec i s = .next (sendReply (sessionOf e (validHeader e s)) op e { status := .badParam } 1 1 (takeCredit e.port (validHeader e s)))) ∧
  (∀ (i : Instr) (e : Env) (op : BitVec 16) (s : State), i.env? = some e → i.opcode? = some op → portListens s e.port = true → headerBad op e = false → (e.noticeBit || e.moreBit || e.rsvdA != 0 || e.rsvdB != 0) = true → noCredit e.port (validHeader e s) = true →
    exec i s = .next (sendReply (sessionOf e (validHeader e s)) op e { status := .badParam } 0 0 (validHeader e s))) ∧
  (∀ (i : Instr) (e : Env) (op : BitVec 16) (s : State), i.env? = some e → i.opcode? = some op → portListens s e.port = true → headerBad op e = false → e.noticeBit = false → e.moreBit = false → e.rsvdA = 0 → e.rsvdB = 0 → e.version ≠ 1 → noCredit e.port (validHeader e s) = false →
    exec i s = .next (sendReply (sessionOf e (validHeader e s)) op e { status := .versionMismatch } 1 1 (takeCredit e.port (validHeader e s)))) ∧
  (∀ (i : Instr) (e : Env) (op : BitVec 16) (s : State), i.env? = some e → i.opcode? = some op → portListens s e.port = true → headerBad op e = false → e.noticeBit = false → e.moreBit = false → e.rsvdA = 0 → e.rsvdB = 0 → e.version ≠ 1 → noCredit e.port (validHeader e s) = true →
    exec i s = .next (sendReply (sessionOf e (validHeader e s)) op e { status := .versionMismatch } 0 0 (validHeader e s))) ∧
  (∀ (i : Instr) (e : Env) (op : BitVec 16) (s : State), i.env? = some e → i.opcode? = some op → portListens s e.port = true → headerBad op e = false → e.noticeBit = false → e.moreBit = false → e.rsvdA = 0 → e.rsvdB = 0 → e.version = 1 → stillHeld e (validHeader e s) = true → exec i s = .next (validHeader e s)) ∧
  (∀ (i : Instr) (e : Env) (op : BitVec 16) (s : State), i.env? = some e → i.opcode? = some op → portListens s e.port = true → headerBad op e = false → e.noticeBit = false → e.moreBit = false → e.rsvdA = 0 → e.rsvdB = 0 → e.version = 1 → stillHeld e (validHeader e s) = false → reusesCredit op e (validHeader e s) = false → noCredit e.port (validHeader e s) = true →
    exec i s = .next (sendReply (sessionOf e (validHeader e s)) op e { status := .noCredit } 0 0 (validHeader e s)))

/-- Payload CRC, franking tag, retransmission and holding through a restart (R354, R357, R358, R370, 16_host_protocol.md). Where the spec is open or silent it states the model's choices: log entries 61, 62. -/
def Obligations.BodiesRefusedHeldOrRepeated : Prop :=
  (∀ (i : Instr) (e : Env) (op : BitVec 16) (s w : State) (c : Nat), i.env? = some e → i.opcode? = some op → portListens s e.port = true → headerBad op e = false → e.noticeBit = false → e.moreBit = false → e.rsvdA = 0 → e.rsvdB = 0 → e.version = 1 → stillHeld e (validHeader e s) = false → (reusesCredit op e (validHeader e s) = true ∧ c = 0 ∧ w = (validHeader e s) ∨ reusesCredit op e (validHeader e s) = false ∧ noCredit e.port (validHeader e s) = false ∧ c = 1 ∧ w = takeCredit e.port (validHeader e s)) → payloadCrc e.payload ≠ e.payCrc.toNat → exec i s = .next (sendReply (sessionOf e w) op e { status := .badCrc } 1 c w)) ∧
  (∀ (i : Instr) (e : Env) (op : BitVec 16) (s w : State) (c : Nat), i.env? = some e → i.opcode? = some op → portListens s e.port = true → headerBad op e = false → e.noticeBit = false → e.moreBit = false → e.rsvdA = 0 → e.rsvdB = 0 → e.version = 1 → stillHeld e (validHeader e s) = false → (reusesCredit op e (validHeader e s) = true ∧ c = 0 ∧ w = (validHeader e s) ∨ reusesCredit op e (validHeader e s) = false ∧ noCredit e.port (validHeader e s) = false ∧ c = 1 ∧ w = takeCredit e.port (validHeader e s)) → payloadCrc e.payload = e.payCrc.toNat → tagCounter op e w = none →
    ∃ t, exec i s = .next t ∧ (portOf t e.port).authFails = (if 7 ≤ (portOf s e.port).authFails then 0 else (portOf s e.port).authFails + 1) ∧
      (7 ≤ (portOf s e.port).authFails → (portOf t e.port).session = none) ∧
      ((portOf s e.port).authFails < 7 → (portOf t e.port).session = (portOf s e.port).session) ∧ Only [.sys, .pd0, .host, .sec] s t) ∧
  (∀ (i : Instr) (e : Env) (op : BitVec 16) (s w : State) (n : Nat) (r : Replay) (c : Nat), i.env? = some e → i.opcode? = some op → portListens s e.port = true → headerBad op e = false → e.noticeBit = false → e.moreBit = false → e.rsvdA = 0 → e.rsvdB = 0 → e.version = 1 → stillHeld e (validHeader e s) = false → (reusesCredit op e (validHeader e s) = true ∧ c = 0 ∧ w = (validHeader e s) ∨ reusesCredit op e (validHeader e s) = false ∧ noCredit e.port (validHeader e s) = false ∧ c = 1 ∧ w = takeCredit e.port (validHeader e s)) → payloadCrc e.payload = e.payCrc.toNat → tagCounter op e w = some n →
    replayOf e (passTag e n w) = some r → exec i s = .next (replyAgain op e c r (passTag e n w))) ∧
  (∀ (i : Instr) (e : Env) (op : BitVec 16) (s w : State) (n : Nat) (c : Nat), i.env? = some e → i.opcode? = some op → portListens s e.port = true → headerBad op e = false → e.noticeBit = false → e.moreBit = false → e.rsvdA = 0 → e.rsvdB = 0 → e.version = 1 → stillHeld e (validHeader e s) = false → (reusesCredit op e (validHeader e s) = true ∧ c = 0 ∧ w = (validHeader e s) ∨ reusesCredit op e (validHeader e s) = false ∧ noCredit e.port (validHeader e s) = false ∧ c = 1 ∧ w = takeCredit e.port (validHeader e s)) → payloadCrc e.payload = e.payCrc.toNat → tagCounter op e w = some n →
    replayOf e (passTag e n w) = none → mustWait op s = true → exec i s = .next (hold op e n (checkSeq e (passTag e n w))))

/-- Opcode, length, START and QUARANTINE gates, world and state are judged in their order (R354, R372, R375, R376, 17_command_reference.md). Where the spec is open or silent it states the model's choices: log entry 81. -/
def Obligations.AcceptedRequestsJudgedInOrder : Prop :=
  (∀ (i : Instr) (e : Env) (op : BitVec 16) (n : Nat) (s : State), i.env? = some e → i.opcode? = some op → Accepted op e n s → opInfo op = none → exec i s = .next (finish op e n s fun u => (u, { status := .badOpcode }))) ∧
  (∀ (i : Instr) (e : Env) (op : BitVec 16) (n : Nat) (s : State) (k : OpInfo), i.env? = some e → i.opcode? = some op → Accepted op e n s → opInfo op = some k → k.len e = false → exec i s = .next (finish op e n s fun u => (u, { status := .badLength }))) ∧
  (∀ (i : Instr) (e : Env) (op : BitVec 16) (n : Nat) (s : State) (k : OpInfo), i.env? = some e → i.opcode? = some op → Accepted op e n s → opInfo op = some k → k.len e = true → s.sys.dev = .start → servedInStart op = false → exec i s = .next (finish op e n s fun u => (u, { status := .state }))) ∧
  (∀ (i : Instr) (e : Env) (op : BitVec 16) (n : Nat) (s : State) (k : OpInfo), i.env? = some e → i.opcode? = some op → Accepted op e n s → opInfo op = some k → k.len e = true → s.sys.dev = .quarantine → servedInQuarantine op = false → exec i s = .next (finish op e n s fun u => (u, { status := .quarantined }))) ∧
  (∀ (i : Instr) (e : Env) (op : BitVec 16) (n : Nat) (s : State) (k : OpInfo), i.env? = some e → i.opcode? = some op → Accepted op e n s → opInfo op = some k → k.len e = true → (s.sys.dev = .start → servedInStart op = true) → (s.sys.dev = .quarantine → servedInQuarantine op = true) →
    k.sealedOnly = true → sessionOf e (admitted e n s) = none → exec i s = .next (finish op e n s fun u => (u, { status := .sealedWorld }))) ∧
  (∀ (i : Instr) (e : Env) (op : BitVec 16) (n : Nat) (s : State) (k : OpInfo), i.env? = some e → i.opcode? = some op → Accepted op e n s → opInfo op = some k → k.len e = true → (s.sys.dev = .start → servedInStart op = true) → (s.sys.dev = .quarantine → servedInQuarantine op = true) →
    (k.sealedOnly = true → sessionOf e (admitted e n s) ≠ none) → s.sys.dev ∉ k.states → exec i s = .next (finish op e n s fun u => (u, { status := .state })))

/-- An admitted request takes a credit, restarts the link window and notes its SEQUENCE; its answer is recorded (R356, R357, R371, 16_host_protocol.md). Where the spec is open or silent it states the model's choices: log entries 62, 63. -/
def Obligations.AdmissionAndRecordOfARequest : Prop :=
  (∀ (op : BitVec 16) (e : Env) (n : Nat) (s : State), Accepted op e n s →
    (portOf (admitted e n s) e.port).credits = (portOf s e.port).credits - 1 ∧
    (portOf (admitted e n s) e.port).linkArmed = true ∧ (portOf (admitted e n s) e.port).linkFrom = s.pm ∧
    (portOf (admitted e n s) e.port).linkLost = false ∧
    (portOf (admitted e n s) e.port).noticeCredits = min 255 ((portOf s e.port).noticeCredits + e.grant.toNat) ∧
    (portOf (admitted e n s) e.port).lastSeq = some e.seq ∧
    (portOf (admitted e n s) e.port).seqGap = (portOf s e.port).seqGap +
      (if ∃ l, (portOf s e.port).lastSeq = some l ∧ e.seq ≠ l + 1 then 1 else 0) ∧ Only [.sys, .pd0, .host] s (admitted e n s)) ∧
  (∀ (x : Option Session) (op : BitVec 16) (e : Env) (n : Nat) (a : Answer) (s : State), ∃ r : Replay,
    (portOf (answer x op e n a s) e.port).replay = (r :: (portOf s e.port).replay).take 8 ∧ r.seq = e.seq ∧ r.hdrCrc = e.hdrCrc ∧
    r.payCrc = e.payCrc ∧ r.counter = n ∧ Only [.host] s (answer x op e n a s))

/-- A reply payload begins with STATUS, three reserved bytes and EFFECT_PM; the two CRCs have their check values (R353, R356, 16_host_protocol.md). -/
def Obligations.RepliesBeginWithTheirPrefix : Prop :=
  (∀ (st : Status) (pm : Tick) (d : List Byte), (OutBody.reply st pm d).payload = leBytes 1 (statusCode st) ++ leBytes 3 0 ++ leBytes 8 pm ++ d) ∧
  (∀ (op : BitVec 16) (e : Env) (a : Answer) (g c : Nat), a.data.length ≤ 4084 → ∃ o, replyChain op e a g c = [o] ∧
    o.opcode = op ∧ o.seq = e.seq ∧ o.session = e.session ∧ o.grant = g ∧ o.moreBit = false ∧ o.body = .reply a.status a.effectPm a.data) ∧
  (∀ (op : BitVec 16) (e : Env) (a : Answer) (g c : Nat), ∀ o ∈ replyChain op e a g c, o.opcode = op ∧ o.seq = e.seq ∧ o.session = e.session) ∧
  (crc16 [0x31, 0x32, 0x33, 0x34, 0x35, 0x36, 0x37, 0x38, 0x39] = 0x29B1) ∧
  (payloadCrc [0x31, 0x32, 0x33, 0x34, 0x35, 0x36, 0x37, 0x38, 0x39] = 0xCBF43926) ∧
  (payloadCrc [] = 0)

/-- SYS_ARM while MAP_READY is 0 is refused with status BUSY (R28). -/
def Obligations.SysArmNeedsTheMap : Prop :=
  ∀ (e : Env) (n : Nat) (s : State), Accepted 0x0004 e n s → e.payload.length = 0 → (s.sys.dev = .standby ∨ s.sys.dev = .manual) →
    s.sys.mapReady = false → exec (.sysArm e) s = .next (finish 0x0004 e n s fun u => (u, { status := .busy }))

/-- While an IMPL_COMMIT waits for its frame edge a further one is refused with BUSY (R106). -/
def Obligations.OneImplementCommitWaits : Prop :=
  ∀ (e : Env) (n : Nat) (s : State) (w : EdgeItem) (c : ImplSet), Accepted 0x0202 e n s → e.payload.length = 0 → s.sys.dev ∈ inBAM → w ∈ s.sys.edgeQ →
    w.act = .implCommit c → exec (.implCommit e) s = .next (finish 0x0202 e n s fun u => (u, { status := .busy, data := [0xFF, 0xFF] }))

/-- An off request for a pending channel cancels its start and its own window (R197). -/
def Obligations.OffRequestCancelsAReservedStart : Prop :=
  ∀ (c : Fin 96) (pm : Tick) (stage : Bool) (s : State), s.vdr.ch[c].st = .pending → pm < s.vdr.ch[c].startAt →
    (offRequest c pm stage s).vdr.ch[c].st = .off ∧ (∀ d, d ≠ c → (offRequest c pm stage s).vdr.ch[d] = s.vdr.ch[d]) ∧
    (∀ b, b ≠ bankOf c → (offRequest c pm stage s).vdr.bank[b] = s.vdr.bank[b]) ∧
    (∀ w, w ∈ (offRequest c pm stage s).vdr.bank[bankOf c].windows ↔ w ∈ s.vdr.bank[bankOf c].windows ∧
      ¬ (s.vdr.ch[c].opener = true ∧ s.vdr.ch[c].unplaced = false ∧ w.opener = c.val ∧ w.start = s.vdr.ch[c].startAt ∧ w.joined = 0)) ∧ Only [.vdr] s (offRequest c pm stage s)

/-- The free bus takes the pending slot whose arbitration field wins, the lowest index first (R331). -/
def Obligations.ArbitrationTakesTheWinningSlot : Prop :=
  ∀ (x : Fin 3) (s : State), onBus s x = true → listen s x = false → hasActive s x = none →
    (∀ k : Fin 32, winner s x = some k → s.can.ctl[x].slots[k].st = .pending ∧ s.can.ctl[x].slots[k].subAt ≠ s.pm ∧
      (∀ j : Fin 32, s.can.ctl[x].slots[j].st = .pending → s.can.ctl[x].slots[j].subAt ≠ s.pm →
        arbKey s.can.ctl[x].slots[k].desc.toNat < arbKey s.can.ctl[x].slots[j].desc.toNat ∨
        (arbKey s.can.ctl[x].slots[k].desc.toNat = arbKey s.can.ctl[x].slots[j].desc.toNat ∧ k ≤ j)) ∧
      exec (.canTxStart x) s = .next (modSlot x k (fun l => { l with st := .active }) s)) ∧
    ((∃ j : Fin 32, s.can.ctl[x].slots[j].st = .pending ∧ s.can.ctl[x].slots[j].subAt ≠ s.pm) → ∃ k, winner s x = some k)

/-- A fault writes an entry at the front of 64, or counts in the active entry it repeats (R434, R435, 19_safety_and_faults.md). Where the spec is open or silent it states the model's choices: log entry 15. -/
def Obligations.FaultsAreLogged : Prop :=
  (∀ (c : Nat) (b : Block) (i n d : Nat) (s : State), (s.pd0.faultLog.any fun f => f.activeFor c i) = true →
    logFault c b i reactReport n d s = s.onPd0 fun p => { p with faultLog := p.faultLog.map (FaultEntry.repeatFor c i) }) ∧
  (∀ (c : Nat) (b : Block) (i r n d : Nat) (s : State), (r ≠ reactReport ∨ (s.pd0.faultLog.any fun f => f.activeFor c i) = false) →
    ∃ f : FaultEntry, (logFault c b i r n d s).pd0.faultLog = placeFault f (s.pd0.faultLog.take 63) ∧
      (r ≠ reactReport → (logFault c b i r n d s).pd0.faultLog = f :: s.pd0.faultLog.take 63) ∧ f.cause = c ∧ f.index = i ∧ f.blk = blockId b ∧
      f.pm = s.pm ∧ f.boot = s.pd0.bootCount ∧ f.state = devCode s.sys.dev ∧ f.reaction = r ∧ f.restarts = n ∧ f.detail = d ∧ f.count = 0 ∧
      f.endPm = 0 ∧ Noted s (logFault c b i r n d s)) ∧
  (∀ (c i : Nat) (s : State), Ended c i s (endFault c i s) ∧ Noted s (endFault c i s))

/-- Every command answers a next state and leaves the queue alone (17_command_reference.md, 95_what_each_step_holds.md). -/
def Obligations.EveryCommandAnswersANextState : Prop :=
  ∀ (c : Instr) (s : State), ∃ t, exec c s = .next t ∧ t.pending = s.pending

/-- A command changes only the parts of the state its row names (17_command_reference.md, 95_what_each_step_holds.md). -/
def Obligations.EveryCommandKeepsToItsParts : Prop :=
  ∀ (c : Instr) (s t : State), exec c s = .next t → Only (partsOf c) s t

/-- A step with a command waiting executes it with the rest of the queue (17_command_reference.md, 95_what_each_step_holds.md). Where the spec is open or silent it states the model's choices: log entry 1. -/
def Obligations.StepTakesTheFrontCommand : Prop :=
  ∀ (c : Instr) (l : List Instr) (s : State), step { s with pending := c :: l } = exec c { s with pending := l }

/-- A step with no command waiting is one tick of the clocks (02_field_frame_and_time.md, 95_what_each_step_holds.md). Where the spec is open or silent it states the model's choices: log entry 1. -/
def Obligations.AnEmptyQueueTicks : Prop :=
  ∀ (s : State), s.pending = [] → step s = .next (tick s) ∧ (tick s).pending = [] ∧ (tick s).pd0.now = s.pd0.now + 1 ∧
    (tick s).pm = (if s.running then s.pm + 1 else s.pm) ∧ (tick s).sys = s.sys ∧ (tick s).act = s.act ∧ (tick s).vdr = s.vdr ∧ (tick s).map = s.map

/-- Every step keeps credits, records, notices, fault logs and log blocks within their sizes (R181, R183, R356, R357, R362, R434). -/
def Obligations.StoresKeepTheirSizes : Prop :=
  ∀ (s t : State), Inv s → step s = .next t → Inv t

/-- No step moves the device from SAFE, QUARANTINE or LATCHED directly to ARMED or MANUAL (R27). -/
def Obligations.DriveStatesNeverEnteredFromASafeState : Prop :=
  ∀ (s t : State), DriveEntered s → step s = .next t → DriveEntered t

/-- No request and no other event changes the device state, its cause or the state before it (R24, R31, R377, 01_architecture.md). -/
def Obligations.OtherCommandsLeaveTheDeviceState : Prop :=
  ∀ (c : Instr) (s t : State), changesState c = false → exec c s = .next t → Entered s.sys.dev s.sys.prev s.sys.cause t

/-- At reset the device enters its first START with empty stores, and the invariants hold (R23, R30, R434, R474, 20_power_reset_clocks.md). Where the spec is open or silent it states the model's choices: log entries 3, 5. -/
def Obligations.ResetState : Prop :=
  Inv State.reset ∧ DriveEntered State.reset ∧ State.reset.sys.dev = .start ∧ State.reset.sys.prev = .off ∧ State.reset.sys.cause = 0x02 ∧
  State.reset.sys.transitions = 0 ∧ State.reset.running = false ∧ State.reset.pm = 0 ∧
  State.reset.pending = [] ∧ State.reset.pd0.faultLog = [] ∧ State.reset.nor.faultLog = [] ∧ State.reset.map.swatches = [] ∧ State.reset.map.ring = [] ∧
  (∀ p : Fin 3, State.reset.host.port[p].session = none ∧ State.reset.host.port[p].credits = 8)

/-- Each of the eleven map requests completes under its conditions (R356, R372, R376, R386, R387, R388, R389, 17_command_reference.md). Where the spec is open or silent it states the model's choices: log entries 37, 51, 52, 53. -/
def Obligations.MapRequestsCompleteUnderTheirConditions : Prop :=
  (∀ e n s, Accepted 0x0300 e n s → e.payload.length = 0 → s.sys.dev ∈ inBAMCFL →
    exec (.mapStatus e) s = .next (finish 0x0300 e n s fun u => (u, { data := mapStatusBytes u }))) ∧
  (∀ e n s, Accepted 0x0301 e n s → e.payload.length = 64 → s.sys.dev ∈ inBAMF → loadBeginBad e (admitted e n s) = none →
    exec (.mapLoadBegin e) s = .next (finish 0x0301 e n s fun u => (u.onMap fun m => { m with load := some { header := e.payload, lastPm := s.pm } }, {}))) ∧
  (∀ e n s l, Accepted 0x0302 e n s → 4 < e.payload.length → e.payload.length ≤ 4096 → s.sys.dev ∈ inBAMCF → s.sys.mapReady = true →
    s.map.load = some l → l.ending = false → arg e 0 32 = l.data.length →
    exec (.mapLoadData e) s = .next (finish 0x0302 e n s fun u =>
      (u.onMap fun m => { m with load := some { l with data := l.data ++ e.payload.drop 4, lastPm := s.pm } },
       { data := leBytes 4 (l.data ++ e.payload.drop 4).length }))) ∧
  (∀ e n s l t, Accepted 0x0303 e n s → e.payload.length = 0 → s.sys.dev ∈ inBAMF → s.sys.mapReady = true →
    s.map.load = some l → l.ending = false → importAllowed l.header s = true → importResult l (admitted e n s) = .ok t →
    exec (.mapLoadEnd e) s = .next (finish 0x0303 e n s fun u =>
      (waitEdge 0x0303 e [.mapApply] (u.onMap fun m => { m with load := some { l with ending := true } }),
       { status := if recN l.header 48 8 = 3 then .accepted else .ok, effectPm := nextEdge s.pm, data := leBytes 4 0xFFFFFFFF }))) ∧
  (∀ e n s, Accepted 0x0304 e n s → e.payload.length = 0 → s.sys.dev ∈ inBAMCF → s.sys.mapReady = true → s.map.load.isSome = true →
    exec (.mapLoadAbort e) s = .next (finish 0x0304 e n s fun u => ((u.onSys fun y => { y with edgeQ := y.edgeQ.filter fun i => i.act != .mapApply }).onMap fun m => { m with load := none }, {}))) ∧
  (∀ e n s kind layer dirty keys h, Accepted 0x0305 e n s → e.payload.length = 4 → s.sys.dev ∈ inBAMF → s.sys.mapReady = true →
    s.map.exp = none → arg e 11 21 = 0 → kind = arg e 0 8 → layer = arg e 8 2 → dirty = argB e 10 → 0 < kind → kind ≤ 4 →
    (dirty = true → kind = 1) → keys = exportKeys (admitted e n s) kind layer dirty →
    h = streamHeader kind (if kind = 1 ∨ kind = 2 then layer else 0) (if kind = 1 then depthOf s layer - 1 else 0) 0
      (streamCell (admitted e n s) kind layer) (originOf s) keys.length (nextEdge s.pm) s.pd0.bootCount →
    exec (.mapExportBegin e) s = .next (finish 0x0305 e n s fun u =>
      (waitEdge 0x0305 e [.expFix] (u.onMap fun m => { m with exp := (some
        { kind := kind, layer := layer, dirtyOnly := dirty, created := nextEdge s.pm, header := h, keys := keys, lastPm := s.pm }) }),
       { effectPm := nextEdge s.pm, data := h ++ leBytes 4 (keys.map (exportSize (admitted e n s) kind layer)).sum }))) ∧
  (∀ e n s x starts ks x1, Accepted 0x0306 e n s → e.payload.length = 6 → s.sys.dev ∈ inBAMCF → s.sys.mapReady = true → s.map.exp = some x →
    x.fixed = true → 0 < arg e 32 16 → arg e 32 16 ≤ 4084 → arg e 0 32 + arg e 32 16 ≤ (x.edgeTiles.map List.length).sum →
    starts = recordStarts (x.edgeTiles.map List.length) 0 →
    ks = ((List.range starts.length).filter fun k => match starts[k]? with
      | some (o, l) => decide (o < arg e 0 32 + arg e 32 16) && decide (arg e 0 32 < o + l)
      | none => false) →
    x1 = ({ x with lastPm := s.pm,
                   copied := copyTiles { x with edgeTiles := (readTiles x ks (admitted e n s)).2 } (edgeOf s.pm) ks } : Exp) →
    exec (.mapExportRead e) s = .next (finish 0x0306 e n s fun u =>
      ((readTiles x ks u).1.onMap fun m => { m with exp := some x1 },
       { data := slice ((List.range starts.length).flatMap fun k => match x1.copied.find? fun t => t.1 == k with
          | some t => t.2.1
          | none => (x.edgeTiles[k]?).getD []) (arg e 0 32) (arg e 32 16) }))) ∧
  (∀ e n s x, Accepted 0x0307 e n s → e.payload.length = 8 → s.sys.dev ∈ inBAMCF → s.sys.mapReady = true → s.map.exp = some x →
    (arg e 0 64 = 0 ∨ arg e 0 64 = x.created) →
    exec (.mapExportAck e) s = .next (finish 0x0307 e n s fun u =>
      ((if arg e 0 64 = 0 then u else markClean x u).onMap fun m => { m with exp := none }, {}))) ∧
  (∀ e n s, Accepted 0x0308 e n s → e.payload.length = 4 → s.sys.dev ∈ inBAMF → s.sys.mapReady = true → arg e 10 22 = 0 → 0 < arg e 0 8 → arg e 0 8 ≤ 3 → (s.sys.dev = .standby ∨ arg e 0 8 = 2) →
    exec (.mapClear e) s = .next (finish 0x0308 e n s fun u => (waitEdge 0x0308 e [.mapClear (arg e 0 8) (arg e 8 2)] u, { effectPm := nextEdge s.pm }))) ∧
  (∀ e n s b, Accepted 0x0309 e n s → e.payload.length = 4 → s.sys.dev ∈ inBAMCFL → s.sys.mapReady = true →
    (if arg e 0 32 = 0xFFFFFFFF then s.map.ring.find? fun b => !b.acked else s.map.ring.find? fun b => b.seq == arg e 0 32) = some b →
    exec (.mapLogRead e) s = .next (finish 0x0309 e n s fun u =>
      ((meetErrors (fun x => x.region == .log && x.word == b.seq) u).1,
       { data := (((meetErrors (fun x => x.region == .log && x.word == b.seq) u).1.map.ring.find? fun c => c.seq == b.seq).getD b).bytes }))) ∧
  (∀ e n s, Accepted 0x030A e n s → e.payload.length = 4 → s.sys.dev ∈ inBAMCFL → s.sys.mapReady = true →
    (∃ b ∈ s.map.ring, b.seq = arg e 0 32) →
    exec (.mapLogAck e) s = .next (finish 0x030A e n s fun u =>
      (u.onMap fun m => { m with ring := (m.ring.takeWhile fun b => b.seq != arg e 0 32).map (fun b => { b with acked := true })
        ++ (match m.ring.dropWhile fun b => b.seq != arg e 0 32 with
            | b :: l => { b with acked := true } :: l
            | [] => []) }, {})))

/-- Each request of the field, actuation, control, time, I/O, bus and security families completes under its conditions (R356, R372, R376, 17_command_reference.md). Where the spec is open or silent it states the model's choices: log entries 4, 26, 27, 34, 44, 59, 60, 67, 68, 69, 74, 76, 78. -/
def Obligations.RequestsCompleteUnderTheirConditions : Prop :=
  (∀ e n s l, Accepted 0x0400 e n s → lenItems 0 16 1 16 e = true → s.sys.dev ∈ [.standby, .armed] → feMode s = 1 →
    takeDirected (admitted e n s) e.firstPm 0 (entries e 0 16) s.fe.waiting = .ok l →
    exec (.feDirected e) s = .next (finish 0x0400 e n s fun u => (u.onFe fun f => { f with waiting := l }, { data := [0xFF] }))) ∧
  (∀ e n s, Accepted 0x0401 e n s → e.payload.length = 4 → s.sys.dev ∈ [.standby, .armed] →
    exec (.feDirectedClear e) s = .next (finish 0x0401 e n s fun u =>
      (u.onFe fun f => { f with waiting := f.waiting.filter fun r => !bitN (arg e 0 32) r.section_, clearMask := f.clearMask ||| arg e 0 32 },
       { data := leBytes 1 ((s.fe.directed.filter fun r => bitN (arg e 0 32) r.section_ && !bitN s.fe.clearMask r.section_).length + (s.fe.waiting.filter fun r => bitN (arg e 0 32) r.section_).length) }))) ∧
  (∀ e n s, Accepted 0x0500 e n s → lenItems 0 16 1 32 e = true → s.sys.dev = .manual →
    (∀ r ∈ entries e 0 16, recN r 73 23 = 0 ∧ recN r 120 8 = 0 ∧ recN r 64 8 ≤ 159 ∧ recN r 0 64 ≤ e.firstPm + 800000000 ∧
      (96 ≤ recN r 64 8 → enabledCtx s (recN r 64 8) = true)) →
    firstRepeat (fun r => recN r 0 72) [] 0 (entries e 0 16) = none →
    firstShort (admitted e n s) (Vector.replicate 12 0) 0 (entries e 0 16) = none →
    exec (.actEvent e) s = .next (finish 0x0500 e n s fun u => ((entries e 0 16).foldl takeHostEvent u, { data := [0xFF] }))) ∧
  (∀ e n s, Accepted 0x0501 e n s → lenItems 0 4 1 96 e = true → s.sys.dev = .manual →
    (∀ r ∈ entries e 0 4, recN r 8 8 = 0 ∧ recN r 0 8 ≤ 95) → firstRepeat (fun r => recN r 0 8) [] 0 (entries e 0 4) = none →
    exec (.actDuty e) s = .next (finish 0x0501 e n s fun u =>
      (waitEdge 0x0501 e ((entries e 0 4).filterMap fun r => (idx? 96 (recN r 0 8)).map fun c => .duty c (recN r 16 16)) u,
       { effectPm := nextEdge s.pm }))) ∧
  (∀ e n s g, Accepted 0x0502 e n s → e.payload.length = 8 → s.sys.dev ∈ inBAM → g.val = arg e 0 3 → arg e 3 29 = 0 → loopDrives s 1 g.val = false →
    exec (.actFineCmp e) s = .next (finish 0x0502 e n s fun u => (writeCmp g (arg e 32 32) u, {}))) ∧
  (∀ e n s c, Accepted 0x0503 e n s → e.payload.length = 2 → s.sys.dev ∈ inBMF → arg e 0 8 = 0 → idx? 96 (arg e 8 8) = some c →
    exec (.actClearFault e) s = .next (finish 0x0503 e n s fun u => (clearContext c u, {}))) ∧
  (∀ e n s k, Accepted 0x0600 e n s → e.payload.length = 8 → s.sys.dev ∈ inBAMF → idx? 16 (arg e 0 4) = some k → arg e 4 28 = 0 →
    exec (.ceSetpoint e) s = .next (finish 0x0600 e n s fun u => (waitEdge 0x0600 e [.setpoint k (argS e 32 32)] u, { effectPm := nextEdge s.pm }))) ∧
  (∀ e n s k, Accepted 0x0601 e n s → e.payload.length = 8 → s.sys.dev ∈ inBAM → idx? 16 (arg e 0 4) = some k → arg e 4 28 = 0 →
    -65536 ≤ argS e 32 32 → argS e 32 32 ≤ 65536 → loopMode s (arg e 0 4) = 2 →
    exec (.ceOutput e) s = .next (finish 0x0601 e n s fun u => (waitEdge 0x0601 e [.output k (argS e 32 32)] u, { effectPm := nextEdge s.pm }))) ∧
  (∀ e n s k, Accepted 0x0602 e n s → lenCeTable e = true → s.sys.dev ∈ inBAMF → idx? 16 (arg e 0 4) = some k → arg e 5 27 = 0 →
    exec (.ceTableWrite e) s = .next (finish 0x0602 e n s fun u => (u.onCe fun v => { v with shadow := (
      if argB e 4 then { v.shadow with cogging := v.shadow.cogging.set k ((chunks 2 (e.payload.drop 4)).map fun c => sint 16 (leNat c)) }
      else { v.shadow with friction := v.shadow.friction.set k ((chunks 4 (e.payload.drop 4)).map fun c => sint 32 (leNat c)) }) }, {}))) ∧
  (∀ e n s k, Accepted 0x0603 e n s → e.payload.length = 4 → s.sys.dev ∈ inBAMCFL → idx? 16 (arg e 0 4) = some k → arg e 6 26 = 0 →
    exec (.ceTableRead e) s = .next (finish 0x0603 e n s fun u => (u, { data := (
      if argB e 4 then (if argB e 5 then s.ce.shadow else s.ce.tables).cogging[k].flatMap (fun v => leBytes 2 (uint 16 v))
      else (if argB e 5 then s.ce.shadow else s.ce.tables).friction[k].flatMap fun v => leBytes 4 (uint 32 v)) }))) ∧
  (∀ e n s k, Accepted 0x0604 e n s → e.payload.length = 1 → s.sys.dev ∈ inBAMF → idx? 16 (arg e 0 4) = some k → arg e 4 4 = 0 →
    exec (.ceLoopReset e) s = .next (finish 0x0604 e n s fun u => (waitEdge 0x0604 e [.loopReset k] u, { effectPm := nextEdge s.pm }))) ∧
  (∀ e n s, Accepted 0x0700 e n s → e.payload.length = 0 → s.sys.dev ∈ inBAMCF →
    exec (.timeGet e) s = .next (finish 0x0700 e n s fun u => (u, { data := leBytes 8 e.firstPm ++ s.time.model.bytes ++ leBytes 4 (tCode s.time.st ||| b2n s.time.step.isSome <<< 2 ||| b2n s.pd0.tcxo.uncal <<< 3) ++ leBytes 4 (holdoverMs u) }))) ∧
  (∀ e n s st, Accepted 0x0701 e n s → e.payload.length = 8 → s.sys.dev ∈ inBAMCF → s.time.step = some st → st.held = true → argS e 0 64 = -st.err →
    exec (.timeStepConfirm e) s = .next (finish 0x0701 e n s fun u =>
      (u.onTime fun v => { v with step := some { st with held := false, earliest := s.pm + 8000000 } }, {}))) ∧
  (∀ e n s, Accepted 0x0702 e n s → 0 < e.payload.length → e.payload.length ≤ 4096 → s.sys.dev ∈ inBAMCF →
    s.gnss.rtcmBuf.length + e.payload.length ≤ 8192 →
    exec (.gnssRtcm e) s = .next (finish 0x0702 e n s fun u => (rtcmSearch (s.gnss.rtcmBuf ++ e.payload) (u.onGnss fun g => { g with rtcmLast := s.pm }), {}))) ∧
  (∀ e n s, Accepted 0x0703 e n s → e.payload.length = 0 → s.sys.dev ∈ inBAMCF →
    exec (.gnssMeasGet e) s = .next (finish 0x0703 e n s fun u => (u, { data := s.gnss.record }))) ∧
  (∀ e n s, Accepted 0x0704 e n s → e.payload.length = 0 → s.sys.dev ∈ inBAMCF →
    exec (.posGet e) s = .next (finish 0x0704 e n s fun u => (u, { data := s.pos.pose.bytes }))) ∧
  (∀ e n s, Accepted 0x0800 e n s → lenItems 0 4 1 16 e = true → s.sys.dev ∈ inBAMF → (∀ r ∈ entries e 0 4, recN r 6 10 = 0) →
    noDup ((entries e 0 4).map fun r => recN r 0 4) = true → (∀ r ∈ entries e 0 4, recN r 5 1 = 1 → loopDrives s 3 (recN r 0 4) = false) →
    exec (.lswSet e) s = .next (finish 0x0800 e n s fun u =>
      (waitEdge 0x0800 e ((entries e 0 4).filterMap fun r => (idx? 16 (recN r 0 4)).map fun c =>
          EdgeAct.lswSet c (recN r 4 1 == 1) (if recN r 5 1 = 1 then some (recN r 16 16) else none)) u,
       { status := if (bitWord 16 fun c => (entries e 0 4).any fun r => recN r 0 4 == c && lswLatchedOn s r) = 0 then .ok else .faulted, effectPm := nextEdge s.pm,
         data := leBytes 2 (bitWord 16 fun c => (entries e 0 4).any fun r => recN r 0 4 == c && lswLatchedOn s r) }))) ∧
  (∀ e n s c, Accepted 0x0801 e n s → e.payload.length = 1 → s.sys.dev ∈ inBAMF → idx? 16 (arg e 0 4) = some c → arg e 4 4 = 0 →
    exec (.lswClearFault e) s = .next (finish 0x0801 e n s fun u =>
      (waitEdge 0x0801 e [.lswResume c] (lswReload c
        (if s.lsw.ls[c].st = .latched then modLsw c (fun l => { l with resumeWait := true }) (lswUnlatch c u) else u)), { effectPm := nextEdge s.pm }))) ∧
  (∀ e n s i, Accepted 0x0802 e n s → e.payload.length = 8 → s.sys.dev ∈ inBAMF → arg e 3 29 = 0 → idx? 8 (arg e 0 3) = some i →
    exec (.pifEncSet e) s = .next (finish 0x0802 e n s fun u => (waitEdge 0x0802 e [.encSet i (argS e 32 32)] u, { effectPm := nextEdge s.pm }))) ∧
  (∀ e n s i, Accepted 0x0803 e n s → e.payload.length = 2 → s.sys.dev ∈ inBAMCF → arg e 3 5 = 0 → 0 < arg e 8 8 → arg e 8 8 ≤ 32 →
    idx? 8 (arg e 0 3) = some i → evtNotify s i = false →
    exec (.pifEventsRead e) s = .next (finish 0x0803 e n s fun u =>
      (modEvt i (fun v => { v with fifo := v.fifo.drop (arg e 8 8) }) u,
       { data := leBytes 4 (s.pif.evt[i].fifo.take (arg e 8 8)).length ++ (s.pif.evt[i].fifo.take (arg e 8 8)).flatMap EvtRec.bytes }))) ∧
  (∀ e n s x, Accepted 0x0900 e n s → e.payload.length = 12 → s.sys.dev ∈ inBAMCF → ctlOf e = some x → arg e 2 6 = 0 → arg e 16 16 = 0 → arg e 93 3 = 0 →
    phReserved s x (arg e 8 8) = false →
    exec (.canPhConfig e) s = .next (finish 0x0900 e n s fun u =>
      (waitEdge 0x0900 e [.canFilter x (arg e 8 8) (BitVec.ofNat 64 (arg e 32 64))] u, { effectPm := nextEdge s.pm }))) ∧
  (∀ e n s x, Accepted 0x0901 e n s → e.payload.length = 2 → s.sys.dev ∈ inBAMCF → ctlOf e = some x → arg e 2 6 = 0 →
    exec (.canRxRead e) s = .next (finish 0x0901 e n s fun u =>
      ((hostRead x (arg e 8 8) u).2, { data := leBytes 84 (hostRead x (arg e 8 8) u).1 }))) ∧
  (∀ e n s x k, Accepted 0x0902 e n s → e.payload.length = 84 → s.sys.dev ∈ inBAMCF → ctlOf e = some x → k.val = arg e 8 5 →
    arg e 2 6 = 0 → arg e 13 19 = 0 → bits (arg e 32 640) 41 23 = 0 → (x = 0 → bitN (arg e 32 640) 30 = false) →
    (bitN (arg e 32 640) 30 = false → bits (arg e 32 640) 32 4 ≤ 8) → slotReserved s x k.val = false → canEnable s x = true → listen s x = false →
    s.can.ctl[x].slots[k].st = .free →
    exec (.canTx e) s = .next (finish 0x0902 e n s fun u => (loadSlot x k .host (arg e 32 640) u, {}))) ∧
  (∀ e n s x k, Accepted 0x0903 e n s → e.payload.length = 2 → s.sys.dev ∈ inBAMCF → ctlOf e = some x → k.val = arg e 8 5 →
    arg e 2 6 = 0 → arg e 13 3 = 0 → s.can.ctl[x].slots[k].st = .pending →
    exec (.canTxAbort e) s = .next (finish 0x0903 e n s fun u => (endSlot x k .aborted 0 u, {}))) ∧
  (∀ e n s x, Accepted 0x0904 e n s → e.payload.length = 1 → s.sys.dev ∈ inBAMCF → ctlOf e = some x → arg e 2 6 = 0 →
    s.can.ctl[x].st = .busOff → busoffAuto s x = false →
    exec (.canRecover e) s = .next (finish 0x0904 e n s fun u => (modCtl x (fun c => { c with st := .recovering, busOffAt := s.pm }) u, {}))) ∧
  (∀ e n s, Accepted 0x0A00 e n s → e.payload.length = 16 → s.sys.dev ∈ inQBAMCF → ownerClaimed (admitted e n s) = true →
    exec (.secSessionOpen e) s = .next (finish 0x0A00 e n s fun u => ((openSession e.port none (BitVec.ofNat 128 (arg e 0 128)) u).1, { data := (openSession e.port none (BitVec.ofNat 128 (arg e 0 128)) u).2 }))) ∧
  (∀ e n s, Accepted 0x0A01 e n s → e.payload.length = 0 → s.sys.dev ∈ inQBAMCF → sessionOf e (admitted e n s) ≠ none →
    exec (.secSessionClose e) s = .next (finish 0x0A01 e n s fun u => (closeSession e.port u, {}))) ∧
  (∀ e n s, Accepted 0x0A02 e n s → e.payload.length = 0 → s.sys.dev ∈ [.quarantine, .standby] → ¬(serviceLock (admitted e n s) = true ∧ ownerClaimed (admitted e n s) = true) →
    exec (.secServiceChallenge e) s = .next (finish 0x0A02 e n s fun u => ((drawFree u).1.onSec fun v => { v with nonce := some ((Config.rand (drawFree u).2).setWidth 128, s.pm) },
      { data := leBytes 16 ((Config.rand (drawFree u).2).setWidth 128 : BitVec 128).toNat }))) ∧
  (∀ e n s nonce t h r, Accepted 0x0A03 e n s → e.payload.length = 68 → s.sys.dev ∈ [.quarantine, .standby] → arg e 4 28 = 0 →
    s.sec.nonce = some (nonce, t) → h = Config.sha256 (leBytes 16 nonce.toNat ++ leBytes 16 s.sec.deviceId.toNat ++ leBytes 4 (arg e 0 32)) →
    s.pm < t + 4800000000 →
    r = openSession e.port (some (BitVec.ofNat 32 (arg e 0 32))) nonce ((admitted e n s).onSec fun v => { v with nonce := none }) →
    exec (.secServiceResponse e) s = .next (finish 0x0A03 e n s fun u =>
      if serviceOk u h (BitVec.ofNat 512 (arg e 32 512)) = true then
        (notice .sec 0x07 0xFFFF [] (extendOpen 7 0x05 (r.1.onSec fun v =>
          { v with svcPort := v.svcPort || (BitVec.ofNat 32 (arg e 0 32)).getLsbD 0 })), { data := r.2 })
      else (u.onSec fun v => { v with nonce := none }, { status := .authFail }))) ∧
  (∀ e n s, Accepted 0x0A04 e n s → e.payload.length = 16 → s.sys.dev ∈ inQBAMCFL →
    exec (.secAttest e) s = .next (finish 0x0A04 e n s fun u => (u, { data := attestBody (arg e 0 128) u ++ leBytes 64 (Config.ecdsaSign attestKey (Config.sha256 (attestBody (arg e 0 128) u))).toNat }))) ∧
  (∀ e n s i, Accepted 0x0A05 e n s → e.payload.length = 8 → s.sys.dev ∈ inQBAMF → idx? 5 (arg e 0 3) = some i → arg e 3 29 = 0 →
    arg e 32 32 ≤ bankSize i → s.sec.load = none → s.sec.verifying = none → s.sec.image[i].trial = false →
    exec (.secImageBegin e) s = .next (finish 0x0A05 e n s fun u =>
      ((modImage i (fun m => m.modOther fun _ => {}) u).onSec fun v => { v with load := some { image := i.val, size := arg e 32 32 } }, {}))) ∧
  (∀ e n s l, Accepted 0x0A06 e n s → 4 < e.payload.length → e.payload.length ≤ 4096 → s.sys.dev ∈ inQBAMCF → s.sec.load = some l →
    arg e 0 32 = l.data.length → l.data.length + (e.payload.length - 4) ≤ l.size →
    exec (.secImageData e) s = .next (finish 0x0A06 e n s fun u =>
      (u.onSec fun v => { v with load := some { l with data := l.data ++ e.payload.drop 4 } },
       { data := leBytes 4 (l.data.length + (e.payload.drop 4).length) }))) ∧
  (∀ e n s l i, Accepted 0x0A07 e n s → e.payload.length = 0 → s.sys.dev ∈ inQBAMF → s.sec.load = some l → idx? 5 l.image = some i →
    exec (.secImageEnd e) s = .next (finish 0x0A07 e n s fun u =>
      ((modImage i (fun m => m.modOther fun _ => readHeader l.data) u).onSec fun v => { v with load := none, verifying := some l.image },
       { status := .accepted }))) ∧
  (∀ e n s, Accepted 0x0A08 e n s → e.payload.length = 4 → s.sys.dev ∈ inBAM → sessionOf e (admitted e n s) ≠ none → arg e 5 27 = 0 →
    (liveEn s = true ∨ s.sys.dev = .standby) → (∀ i : Fin 5, named (arg e 0 5) i.val = true → s.sec.image[i].other.verified = true) →
    s.sec.activation = none → (∀ l, s.sec.load = some l → named (arg e 0 5) l.image = false) →
    consistent ((List.finRange 5).map fun i => if named (arg e 0 5) i.val then s.sec.image[i].other else s.sec.image[i].run) = true →
    exec (.secActivate e) s = .next (finish 0x0A08 e n s fun u =>
      (u.onSec fun v => { v with activation := some { images := BitVec.ofNat 5 (arg e 0 5), since := s.pm } }, { status := .accepted }))) ∧
  (∀ e n s, Accepted 0x0A09 e n s → e.payload.length = 0 → s.sys.dev ∈ inQBAMCFL →
    exec (.secImageStatus e) s = .next (finish 0x0A09 e n s fun u => (u, { data := (vlist s.sec.image).flatMap fun m => leBytes 4 m.bank0.version ++ leBytes 4 m.bank1.version ++ leBytes 8 (b2n m.running ||| b2n m.bank0.verified <<< 1 ||| b2n m.bank1.verified <<< 2) }))) ∧
  (∀ e n s sh, Accepted 0x0B00 e n s → e.payload.length = 3 → s.sys.dev ∈ inBAMCFL → itemShape (arg e 0 8) = some sh → arg e 0 8 ≠ 0x0D →
    0 < arg e 16 8 → arg e 8 8 + arg e 16 8 ≤ sh.2 → arg e 16 8 * sh.1 ≤ 4084 →
    exec (.diagRead e) s = .next (finish 0x0B00 e n s fun u => (u, { data := itemsBytes u (arg e 0 8) (arg e 8 8) (arg e 16 8) })))

/-- Each port, frame, supply, start, element, clock, safety, converter and security event completes under its condition (R24, R25, R35, R36, 17_command_reference.md). Where the spec is open or silent it states the model's choices: log entries 3, 10, 11, 12, 13, 16, 17, 18, 20, 30, 51, 57, 63, 65, 67, 70, 71, 72. -/
def Obligations.DeviceEventsCompleteUnderTheirConditions : Prop :=
  (∀ (p : Port) (s : State), portListens s p = true → 
    ∃ t, exec (.badHeader p) s = .next t ∧ Noted (modPort p (fun q => { q with badHeader := q.badHeader + 1 }) s) t) ∧
  (∀ (p : Port) (s : State), portListens s p = true → 0 < (portOf s p).noticeCredits → ((portOf s p).notices ≠ [] ∨ (portOf s p).noticesLost ≠ 0) → (portOf s p).out.all (fun o => o.body.telemetric) = true → 
    ∃ t, exec (.noticeEnvelope p) s = .next t ∧ Only [.host] s t ∧ (∀ q, q ≠ p → portOf t q = portOf s q) ∧
      (portOf t p).notices = (portOf s p).notices.drop (nextRecords s p).2.1 ∧ (portOf t p).noticesLost = 0 ∧
      (portOf t p).noticeCredits = (portOf s p).noticeCredits - 1 ∧ (portOf t p).outSeq = (portOf s p).outSeq + 1 ∧
      ∃ o, (portOf t p).out = o :: (portOf s p).out ∧ o.opcode = 0x00F0 ∧ o.seq = (portOf s p).outSeq ∧ o.body = .notices (nextRecords s p).1) ∧
  (∀ (p : Port) (s : State), portListens s p = true → (portOf s p).linkArmed = true → (portOf s p).linkLost = false → (portOf s p).linkFrom + linkTimeout s p ≤ s.pm → (linkSafe s p = false ∨ s.sys.dev ∉ [.armed, .manual, .coast] ∨ (s.sys.dev = .coast ∧ s.sys.coastFromArmed = false ∧ s.sys.coastFromManual = false)) → 
    ∃ t, exec (.linkLost p) s = .next t ∧ Noted (modPort p (fun q => { q with linkLost := true }) s) t ∧ Logged 0x1A (portIx p).val t) ∧
  (∀ (p : Port) (img : Nat) (s : State), s.host.applyWait = some (p, img) → replyGone s p 0x0102 = true → 
    exec (.pbHostApply) s = .next (putActive .host img (s.onHost fun h => { h with applyWait := none }))) ∧
  (∀ (p : Port) (s : State), s.host.resetWait = some p → s.sys.dev = .quarantine → replyGone s p 0x0008 = true → (s.running = false ∨ s.pm % 40000 = 0) → 
    ∃ t, exec (.resetAfterReply) s = .next t ∧ Entered .start .quarantine 0x01 t ∧ t.running = false ∧ t.pwr.startCause = 3 ∧ t.pd0.bootCount = s.pd0.bootCount + 1 ∧ t.act = s.nor.params ∧ t.shd = s.nor.params ∧ t.host = {} ∧ t.pending = s.pending) ∧
  (∀ (op : BitVec 16) (e : Env) (n : Nat) (s : State), Accepted op e n s → opInfo op = none →
    exec (.badOpcode op e) s = .next (finish op e n s fun u => (u, { status := .badOpcode }))) ∧
  (∀ (f : Freeze) (e : Nat) (u : State) (s : State), e = edgeOf s.pm → s.running = true → s.sys.dev ≠ .off → (∀ l, s.sys.lastEdge = some l → l < edgeOf s.pm) → u = ((toggleFaultOut (trigSource 7 0 e 0 (bkoError (activationEdge e (settleActivation e (edgeStates e ((lastFrameEnd e s).onSys fun y => { y with lastEdge := some e, phase := some .freeze }))))))).onLsw fun v => { v with sel := f.sel }) → framesRun u = true → 
    exec (.frameEdge f) s = .next (freezeFrame e f u)) ∧
  (∀ (e : Nat) (i : ImplSet) (s : State), s.sys.lastEdge = some e → s.sys.phase = some .freeze → e + 20000 ≤ s.pm → s.pm < e + 32000 → feWorks s e = true → s.impl.active = some i → 
    ∃ t, exec (.decisionPhase) s = .next t ∧ t.fe.batch = some (formBatch e i (s.onSys fun y => { y with phase := some .decision })).2 ∧ t.impl = s.impl ∧ t.act = s.act ∧ t.vdr = s.vdr ∧ t.pwu = s.pwu) ∧
  (∀ (e : Nat) (b : Batch) (s : State), s.sys.lastEdge = some e → s.sys.phase = some .decision → e + 32000 ≤ s.pm → s.pm < e + 36000 → feWorks s e = true → s.fe.batch = some b → 
    exec (.commitPhase true) s = .next (fieldClean e ((commitBatch b (s.onSys fun y => { y with phase := some .commit })).onFe fun f => { f with work := none }))) ∧
  (∀ (e : Nat) (s : State), s.sys.lastEdge = some e → s.sys.phase ≠ some .logging → e + 36000 ≤ s.pm → s.pm < e + 40000 → 
    ∃ t, exec (.loggingPhase) s = .next t ∧ t.fe.records = [] ∧ t.sys.phase = some .logging ∧ (feWorks s e = true → t.fe.work = none ∧ t.fe.batch = none)) ∧
  (∀  (s : State), s.sys.dev = .off → s.pwr.vbatOk = true → s.pd0.fresh = false → 
    ∃ t, exec (.vkeyHigh) s = .next t ∧ Entered .start .off 0x03 t ∧ t.pwr.vkey = true ∧ t.pwr.startCause = 1 ∧ t.running = false ∧ t.pd0.bootCount = s.pd0.bootCount + 1) ∧
  (∀  (s : State), s.pwr.vkey = true → 
    ∃ t, exec (.vkeyLow) s = .next t ∧ t.pwr = { s.pwr with vkey := false, vkeyLowAt := some s.pm } ∧ Entered s.sys.dev s.sys.prev s.sys.cause t ∧
      (s.restarting .enclave = false → s.sys.dev ≠ .off → t.map.log = []) ∧ (∀ a, s.sec.activation = some a → a.switchAt = none → t.sec.activation = none)) ∧
  (∀ (t0 : Nat) (s : State), s.pwr.vkeyLowAt = some t0 → (s.sys.dev = .standby ∨ s.sys.dev = .quarantine ∨ s.sys.dev = .safe) → t0 + keyOffDelay s ≤ s.pm → s.pm % 40000 = 0 → 
    ∃ t, exec (.keyOffDelayExpiry) s = .next t ∧ Entered .off s.sys.dev 0x03 t ∧ t.running = false ∧ t.pwr.domains = 1) ∧
  (∀ (t0 : Nat) (s : State), s.pd0.wakeAlarm = some t0 → t0 ≤ s.pd0.now → s.sys.dev = .off → s.pwr.vbatOk = true → s.pd0.fresh = false → 
    ∃ t, exec (.wakeAlarm) s = .next t ∧ Entered .start .off 0x05 t ∧ t.pwr.startCause = 2 ∧ t.pd0.wakeAlarm = none) ∧
  (∀  (s : State), s.sys.dev = .off → s.pwr.vkey = true → s.pd0.fresh = false → 
    ∃ t, exec (.vbatStartBand) s = .next t ∧ Entered .start .off 0x03 t ∧ t.pwr.vbatOk = true ∧ t.pwr.startCause = 1) ∧
  (∀  (s : State), s.sys.dev ≠ .off → 
    ∃ t, exec (.brownOut) s = .next t ∧ Entered .off s.sys.dev 0x02 t ∧ t.pwr.vbatOk = false ∧ t.running = false) ∧
  (∀  (s : State), s.sys.dev ≠ .off → s.pwr.lowSupply = false → 
    ∃ t, exec (.lowSupply) s = .next t ∧ Noted (s.onPwr fun p => { p with lowSupply := true }) t ∧ Logged 0x24 3 t) ∧
  (∀  (s : State), s.pwr.lowSupply = true → 
    ∃ t, exec (.lowSupplyExit) s = .next t ∧ Noted (s.onPwr fun p => { p with lowSupply := false }) t ∧ Ended 0x24 3 s t) ∧
  (∀  (s : State), 
    ∃ t, exec (.powerCycle) s = .next t ∧ Entered .off s.sys.dev 0x02 t ∧ t.pwr.vbatOk = false ∧ t.pd0.fresh = true ∧ t.pd0.bootCount = s.nor.bootCount ∧ t.pd0.tcxo = s.nor.tcxo ∧
      t.pd0.odoScale = s.nor.odoScale ∧ t.pd0.faultLog = s.nor.faultLog ∧ t.pd0.wakeAlarm = none ∧ t.pd0.latch = none ∧ t.nor = s.nor) ∧
  (∀  (s : State), s.sys.dev ≠ .off → s.pwr.groundLost = false → 
    ∃ t, exec (.lossOfGround) s = .next t ∧ t.pwr = { s.pwr with groundLost := true, groundBack := none } ∧ Logged 0x24 0 t ∧
      (∀ g : Fin 8, t.pwu.fine[g].gh = false ∧ t.pwu.fine[g].gl = false) ∧ (∀ b : Fin 12, t.vdr.bank[b].windows = [] ∧ t.vdr.bank[b].feed = .bat)) ∧
  (∀  (s : State), s.pwr.groundLost = true → 
    exec (.groundRestored) s = .next (s.onPwr fun p => { p with groundBack := some s.pm })) ∧
  (∀  (s : State), 
    ∃ t, exec (.reverseBattery) s = .next t ∧ t.sys.dev = .off ∧ t.pwr.reverseBatt = true ∧ t.pwr.vbatOk = false) ∧
  (∀  (s : State), s.sys.dev ≠ .off → s.pwr.loadDump = false → 
    ∃ t, exec (.loadDump) s = .next t ∧ Noted (s.onPwr fun p => { p with loadDump := true, over36 := true }) t ∧ Logged 0x24 2 t) ∧
  (∀  (s : State), s.sys.dev = .start → s.running = false → s.sys.bootStage = 1 → 
    ∃ t, exec (.timeResetRelease) s = .next t ∧ t.running = true ∧ t.pm = 0 ∧ t.sys = { s.sys with bootStage := 2 } ∧ t.pwr = { s.pwr with domains := s.pwr.domains ||| 0x102 }) ∧
  (∀ (v0 v1 : Vector BankVerdict 5) (c : List Bool) (s : State), s.sys.dev = .start → s.running = true → s.sys.bootStage = 2 → s.sys.imagesOk = false → s.sys.quarCause = 0 → selectSet (s.onSec fun c => { c with image := vmapIdx c.image fun i m => { m with bank0 := verdict s i m m.bank0 v0[i], bank1 := verdict s i m m.bank1 v1[i] } }) = some c → 
    ∃ t, exec (.imageSetSelect v0 v1) s = .next t ∧ t.sys.imagesOk = true ∧ Entered .start s.sys.prev s.sys.cause t) ∧
  (∀  (s : State), s.sys.dev = .start → s.sys.bootStage = 2 → (s.sys.imagesOk = true ∨ s.sys.quarCause = 2) → s.sys.powered = false → s.pd0.latch = none → 
    exec (.domainPowerUp) s = .next ((s.onSys fun y => { y with powered := true, bootStage := 3, stageAt := s.pm }).onPwr fun p => { p with domains := if s.sys.imagesOk then 0xFFF else 0xD07 })) ∧
  (∀  (s : State), s.sys.powered = true → s.sys.hostAlive = false → 
    ∃ t, exec (.hostPortAlive) s = .next t ∧ t.sys = { s.sys with hostAlive := true, limiter := t.sys.limiter } ∧ t.pd0.latch = s.pd0.latch.map fun l => { l with reported := true }) ∧
  (∀ (failed : List Nat) (s : State), s.sys.dev = .start → s.sys.powered = true → s.sys.imagesOk = true → s.pm % 40000 = 0 → s.sys.selftestFail = 0 → failed.filter quarantineTest = [] → 
    ∃ t, exec (.selftestComplete failed) s = .next t ∧ Entered .standby .start 0x06 t) ∧
  (∀ (d : Fin 12) (s : State), bitN (requiredDomains s) d.val = true → s.pwr.domains.getLsbD d.val = false → 
    exec (.powerDomainSwitch d true) s = .next (s.onPwr fun p => { p with domains := p.domains ^^^ BitVec.ofNat 12 (2 ^ d.val) })) ∧
  (∀ (retired : Vector Nat 3) (s : State), s.sys.bootStage = 4 → s.sys.mapReady = false → s.sys.dev ≠ .latched → 
    ∃ t, exec (.dramTestDone retired) s = .next t ∧ t.sys.mapReady = true ∧ t.sys.dramTest = 100 ∧ Entered s.sys.dev s.sys.prev s.sys.cause t) ∧
  (∀ (s : State), (s.sys.dev = .standby ∨ s.sys.dev = .armed ∨ s.sys.dev = .manual) → restartsInWindow s .pair < restartLimit s → s.safe.safeIn = false → vbatOperating s = true → diesCool s = true →
    ∃ t, exec (.pairCheck) s = .next t ∧ Entered .coast s.sys.dev 0x10 t) ∧
  (∀ (s : State), (s.sys.dev = .standby ∨ s.sys.dev = .armed ∨ s.sys.dev = .manual) → restartsInWindow s .control < restartLimit s → s.safe.safeIn = false → vbatOperating s = true → diesCool s = true →
    ∃ t, exec (.ceCheck) s = .next t ∧ Entered .coast s.sys.dev 0x12 t) ∧
  (∀ (s : State), (s.sys.dev = .standby ∨ s.sys.dev = .armed ∨ s.sys.dev = .manual) → restartsInWindow s .gnss < restartLimit s → s.safe.safeIn = false → vbatOperating s = true → diesCool s = true →
    ∃ t, exec (.gnssCheck) s = .next t ∧ Entered .coast s.sys.dev 0x13 t) ∧
  (∀ (s : State), (s.sys.dev = .standby ∨ s.sys.dev = .armed ∨ s.sys.dev = .manual) → restartsInWindow s .enclave < restartLimit s → s.safe.safeIn = false → vbatOperating s = true → diesCool s = true →
    ∃ t, exec (.enclaveCheck) s = .next t ∧ Entered .coast s.sys.dev 0x14 t) ∧
  (∀ (el : Element) (s : State), (s.sys.dev = .standby ∨ s.sys.dev = .armed ∨ s.sys.dev = .manual) → restartsInWindow s el < restartLimit s → s.safe.safeIn = false → vbatOperating s = true → diesCool s = true →
    ∃ t, exec (.clockElement el) s = .next t ∧ Entered .coast s.sys.dev 0x15 t) ∧
  (∀ (k : BitVec 8) (s : State), safeAllowed s = true → 
    ∃ t, exec (.clockBase k) s = .next t ∧ Entered .safe s.sys.dev 0x16 t ∧
      t.pwr = { s.pwr with clkFails := s.pwr.clkFails + 1, clkBaseBad := true, clkBase := k, onBko := s.pwr.onBko || decide (k.toNat ≤ 1) }) ∧
  (∀  (s : State), s.pwr.clkBaseBad = true → 
    ∃ t, exec (.clockBaseRestored) s = .next t ∧ Noted (s.onPwr fun p => { p with clkBaseBad := false, onBko := false }) t ∧ Ended 0x16 0xFFFF s t) ∧
  (∀ (el : Element) (s : State), (elemOf s el).clockBad = true → (elemOf s el).relockAt ≤ s.pm → 
    ∃ t, exec (.pllRelock el true) s = .next t ∧ Noted (modElem el (fun x => { x with clockBad := false }) s) t) ∧
  (∀ (e t0 : Nat) (s : State), e = edgeOf (coastEnd s + 3999) → t0 = (if e < coastEnd s then e + 40000 else e) → s.sys.dev = .coast → coastEnd s ≤ s.pm → allClean (if t0 < coastEnd s + 4000 then cleanFrames t0 s else s) = false → 
    ∃ t, exec (.coastExpired) s = .next t ∧ Entered .safe .coast 0x18 t) ∧
  (∀ (el : Element) (s : State), (elemOf s el).restarting = true → (elemOf s el).clockBad = false → 
    exec (.elementRestartComplete el) s = .next (afterRestart el (modElem el (fun x => { x with restarting := false, doneAt := some s.pm }) s))) ∧
  (∀  (s : State), safeInEn s = true → safeAllowed s = true → 
    ∃ t, exec (.safeIn) s = .next t ∧ Entered .safe s.sys.dev 0x19 t ∧ t.safe.safeIn = true) ∧
  (∀  (s : State), s.safe.safeIn = true → 
    ∃ t, exec (.safeInRelease) s = .next t ∧ Noted (s.onSafe fun v => { v with safeIn := false }) t ∧ Ended 0x19 0xFFFF s t) ∧
  (∀ (t0 : Nat) (s : State), s.can.graceFrom = some t0 → t0 + rowGrace s ≤ s.pm → s.can.ctl[(1 : Fin 3)].st = .active → 
    exec (.rowBusoffGraceExpiry) s = .next (s.onCan fun v => { v with graceFrom := none })) ∧
  (∀  (s : State), s.sys.dev ≠ .off → s.vdr.conv.fault = false → 
    ∃ t, exec (.boost) s = .next t ∧ Noted (leaveVbst s s.pm (s.onVdr fun v => { v with conv := { v.conv with fault := true, on := false, retryAt := s.pm + 800000000 } })) t ∧ Logged 0x23 0xFFFF t) ∧
  (∀  (s : State), s.vdr.conv.fault = true → s.vdr.conv.retryAt ≤ s.pm → 
    ∃ t, exec (.boostRetry true) s = .next t ∧ Noted (syncConv (s.onVdr fun v => { v with conv := { v.conv with fault := false } })) t ∧ Ended 0x23 0xFFFF s t) ∧
  (∀ (mw : Nat) (s : State), s.vdr.conv.boostLimit = false → 40000 * (256 - boostR s) / 256 ≤ mw → 
    ∃ t, exec (.boostLimit mw) s = .next t ∧ Noted (s.onVdr fun v => { v with conv := { v.conv with boostLimit := true } }) t) ∧
  (∀ (mv : Nat) (s : State), s.vdr.conv.sag = false → mv + 600 < vbstTarget s s.vdr.conv.vbat → 
    ∃ t, exec (.vbstSag mv) s = .next t ∧ Noted (s.onVdr fun v => { v with conv := { v.conv with vbst := mv, sag := true } }) t) ∧
  (∀ (mv : Nat) (s : State), s.vdr.conv.returnSusp = false → (3600 < mv ∨ returnEn s = false) → 
    ∃ t, exec (.returnSuspended mv) s = .next t ∧ Noted ((s.onVdr fun v => { v with conv := { v.conv with vbat := mv, returnSusp := true } }).onPwr fun p => { p with loadDump := p.loadDump && decide (3500 < mv), over36 := p.loadDump && decide (3600 < mv) }) t ∧ (s.pwr.loadDump = true → mv ≤ 3500 → Ended 0x24 2 s t)) ∧
  (∀ (mv : Nat) (s : State), s.vdr.conv.divert = false → vbstTarget s s.vdr.conv.vbat + 600 < mv → 
    ∃ t, exec (.recoveryDivert mv) s = .next t ∧ Noted (s.onVdr fun v => { v with conv := { v.conv with vbst := mv, divert := true } }) t) ∧
  (∀  (s : State), 
    exec (.activationPrepared) s = .next (s.onSec fun v => { v with activation := v.activation.map fun a => { a with ready := a.ready.or (some s.pm) } })) ∧
  (∀ (i : Fin 5) (r : BitVec 4) (s : State), s.sec.image[i].trial = true → trialTicks s ≤ trialRun s i → r = (if s.sec.image[i].run.revokeOther then s.sec.revoked ||| (if s.sec.image[i].run.keyB then 1 else 2) else s.sec.revoked) → 
    ∃ t, exec (.trialPassed i) s = .next t ∧ Noted (((modImage i (fun m => { m.modRun (fun b => { b with passed := true }) with
        floor := max m.floor (min 64 m.run.svn), trialRestarts := 0 }) s).onSec fun v => { v with
      revoked := r, image := vmap v.image (Image.stillVerified r) }).onPd0 fun d =>
        { d with trialRun := d.trialRun.set i 0 }) t) ∧
  (∀  (s : State), 
    ∃ t, exec (.serviceSessionExpiry) s = .next t ∧ ∀ p, ((portOf s p).session = none → (portOf t p).session = none) ∧
      ∀ x, (portOf s p).session = some x → (portOf t p).session = if x.service.isSome ∧ x.opened + 1152000000000 ≤ s.pm then none else some x) ∧
  (∀  (s : State), 
    exec (.tamper) s = .next (s.onPd0 fun d => { d with tamper := d.tamper + 1 })) ∧
  (∀ (k : Nat) (i : Fin 5) (s : State), s.sec.verifying = some k → idx? 5 k = some i → 
    ∃ t, exec (.imageVerified) s = .next t ∧ Noted (modImage i (fun m => m.modOther fun b => { b with
        verified := decide (imageAuthentic s i s.sec.image[i].other = true ∧ s.sec.image[i].floor ≤ s.sec.image[i].other.svn) }) (s.onSec fun v => { v with verifying := none })) t)

/-- Each time, receiver, valve, PWM and loop event completes under its condition (R40, R60, R190, R198, 17_command_reference.md). Where the spec is open or silent it states the model's choices: log entries 18, 29, 30, 31, 32, 33, 36, 54, 55, 56, 73, 74. -/
def Obligations.ActuationAndReceiverEventsCompleteUnderTheirConditions : Prop :=
  (∀ (m : EpochIn) (t0 : Nat) (s : State), gnssRuns s = true → epochDue s = some t0 → 
    ∃ t, exec (.measurementEpoch m) s = .next t ∧ t.gnss.epochPm = t0 ∧ t.gnss.recAt = some s.pm ∧ t.gnss.seq = s.gnss.seq + 1) ∧
  (∀  (s : State), s.time.st = .locked → s.time.lastGood + 20000000 ≤ s.pm → 
    ∃ t, exec (.holdoverEntry) s = .next t ∧ Noted (s.onTime fun v => { v with st := .holdover }) t) ∧
  (∀  (s : State), s.time.st = .holdover → s.time.lastGood + holdoverLimit s ≤ s.pm → 
    ∃ t, exec (.holdoverLimitExpiry) s = .next t ∧ Noted (s.onTime fun v => { v with st := .free }) t) ∧
  (∀  (s : State), s.time.step = none → ppsRuns s = true → s.time.ppsFrom ≤ (s.time.model.latest second s.pm).2 → (∀ p, s.time.ppsSec = some p → p < (s.time.model.latest second s.pm).1) → 
    exec (.ppsPulse) s = .next (emitPulse (s.time.model.latest second s.pm).1 (s.time.model.latest second s.pm).2 0 s)) ∧
  (∀  (s : State), s.time.ppsOut = true → s.time.ppsEnd ≤ s.pm → 
    exec (.ppsPulseEnd) s = .next (s.onTime fun v => { v with ppsOut := false })) ∧
  (∀ (x : Int) (s : State), s.time.st = .locked → 
    exec (.tcxoTempUpdate x) s = .next ((s.onTime fun v => { v with tcxoTemp := x }).onPd0 fun d => { d with tcxo := { d.tcxo with
      learned := d.tcxo.learned + 8000000, minT := some (min s.ths.zone[(9 : Fin 10)].temp (d.tcxo.minT.getD s.ths.zone[(9 : Fin 10)].temp)),
      maxT := some (max s.ths.zone[(9 : Fin 10)].temp (d.tcxo.maxT.getD s.ths.zone[(9 : Fin 10)].temp)) } })) ∧
  (∀  (s : State), s.sys.dev = .standby → 
    exec (.tcxoClear) s = .next (s.onPd0 fun d => { d with tcxo := {} })) ∧
  (∀ (d : DwellIn) (w : Dwell) (s : State), s.gnss.dwell = some w → acqRuns s = true → w.start + 80000 * w.passes ≤ s.pm → w.mode ≠ .verify → dwellDetects w d s = true → 
    exec (.acqDwellEnd d) s = .next (acqNext (s.onGnss fun g => { g with dwell := none, verify := some { prn := w.prn, code := d.code, doppler := d.doppler, bin := w.low + 500 * ((d.doppler - w.low) / 500) } }))) ∧
  (∀  (s : State), gnssRuns s = true → 4 ≤ trackedValid s → s.gnss.warmAt + 800000000 ≤ s.pm → 
    exec (.warmSearchTimer) s = .next (acqNext (s.onGnss fun g => { g with warmAt := s.pm, search := if (predicted s).isSome then (searchPlan s).filter fun r => wanted s r.1 else [] }))) ∧
  (∀ (c : Fin 24) (s : State), gnssRuns s = true → s.gnss.chan[c].stage = .fll → s.gnss.chan[c].since + 16000000 ≤ s.pm → 
    ∃ t, exec (.pullInTimeout c) s = .next t ∧ t = acqNext (releaseChan c s) ∧ t.gnss.chan[c] = {}) ∧
  (∀ (c : Fin 24) (s : State), gnssRuns s = true → s.gnss.chan[c].stage = .fll → s.gnss.chan[c].since + 1600000 ≤ s.pm → s.pm < s.gnss.chan[c].since + 16000000 → 
    exec (.pullInComplete c) s = .next (modChan c (fun h => { h with stage := .pll, since := s.pm }) s)) ∧
  (∀ (c : Fin 24) (mean : Int) (s : State), gnssRuns s = true → (s.gnss.chan[c].stage = .pll ∨ s.gnss.chan[c].stage = .tracking) → s.gnss.chan[c].phaseLock = false → 700 ≤ mean → s.gnss.chan[c].since + 8000000 ≤ s.pm → 
    exec (.phaseLock c mean) s = .next (modChan c (fun h => { h with phaseLock := true, lockAt := s.pm, lockFrom := some s.pm, stage := if h.bitSync then .tracking else .pll }) s)) ∧
  (∀ (c : Fin 24) (l : List Nat) (s : State), gnssRuns s = true → s.gnss.chan[c].stage = .pll → s.gnss.chan[c].phaseLock = true → s.gnss.chan[c].bitSync = false → s.gnss.chan[c].lockAt + 160000000 ≤ s.pm → l.length = 20 → 10 ≤ l.foldl max 0 → 60 * l.sum ≤ 100 * l.foldl max 0 → 
    exec (.bitSync c l) s = .next (modChan c (fun h => { h with bitSync := true, stage := .tracking }) s)) ∧
  (∀ (c : Fin 24) (f : FrameIn) (s : State), gnssRuns s = true → s.gnss.chan[c].stage = .tracking → s.gnss.chan[c].bitSync = true → s.gnss.chan[c].frameSync = false → frameFound f = true → 
    exec (.frameSync c f) s = .next (setTow (6000 * dataBits (sourceBits f.how f.tlm[0]) 1 17 % 604800000) (s.pm - 12800000)
      (modChan c (fun h => { h with frameSync := true, inverted := preambleOf f.tlm == 0x74, halfCycle := h.phaseLock, towKnown := true, wordIx := 0, badRun := 0, words := [],
                                    d29 := preambleOf f.tlm == 0x74, d30 := preambleOf f.tlm == 0x74 }) s))) ∧
  (∀ (c : Fin 24) (w : BitVec 30) (s : State), gnssRuns s = true → s.gnss.chan[c].stage.tracks = true → s.gnss.chan[c].frameSync = true → 
    ∃ t, exec (.lnavWord c w) s = .next t ∧ Only [.gnss, .time] s t ∧ t.gnss.chan[c].wordIx = (s.gnss.chan[c].wordIx + 1) % 10 ∧
      t.gnss.chan[c].d29 = wordBit w 29 ∧ t.gnss.chan[c].d30 = wordBit w 30 ∧
      t.gnss.chan[c].parityFails = (if parityOk w s.gnss.chan[c].d29 s.gnss.chan[c].d30 then s.gnss.chan[c].parityFails else s.gnss.chan[c].parityFails + 1)) ∧
  (∀ (p : Fin 32) (c : Fin 24) (i w : Nat) (s : State), gnssRuns s = true → tracked s p = some c → (vlist s.gnss.chan[c].subs).all (·.length = 10) = true → i = dataBits (subWord s.gnss.chan[c] 1 3) 1 8 → i = dataBits (subWord s.gnss.chan[c] 2 10) 1 8 → i = dataBits (subWord s.gnss.chan[c] 0 8) 1 8 → w = dataBits (subWord s.gnss.chan[c] 0 3) 1 10 → 
    ∃ t, exec (.ephemerisAccept p) s = .next t ∧ (t.gnss.week = some (fullWeek s.gnss.weekRef w) ∨ t.gnss.week = some (fullWeek s.gnss.weekRef (w + 1))) ∧ t.time = s.time ∧ t.gnss.iono = s.gnss.iono) ∧
  (∀ (c : Fin 24) (t0 : Nat) (s : State), gnssRuns s = true → s.gnss.chan[c].stage.tracks = true → s.gnss.chan[c].weakFrom = some t0 → t0 + 160000000 ≤ s.pm → 
    ∃ t, exec (.channelLoss c) s = .next t ∧ t = acqNext (releaseChan c s) ∧ t.gnss.chan[c] = {}) ∧
  (∀ (t0 : Nat) (s : State), s.pwr.acqIdleSince = some t0 → s.act.flag .pwr 8 = true → gnssRuns s = true → t0 + 8000000 ≤ s.pm → 
    exec (.acqIdleGate) s = .next (s.onPwr fun p => { p with domains := p.domains &&& 0xF7F, acqIdleSince := none })) ∧
  (∀ (ma : Nat) (s : State), antBias s ≠ 0 → s.gnss.antOpen = false → ma < antOpenMa s → 
    ∃ t, exec (.antOpen ma) s = .next t ∧ Noted (s.onGnss fun v => { v with antMa := ma, antOpen := true }) t) ∧
  (∀ (ma : Nat) (s : State), antBias s ≠ 0 → s.gnss.bias = true → antShortMa s < ma → 
    ∃ t, exec (.antShort ma) s = .next t ∧ Noted (s.onGnss fun v => { v with antMa := ma, bias := false, antShort := true, antRetries := 0, antRetryAt := s.pm + 80000000 }) t) ∧
  (∀ (ma : Nat) (s : State), antBias s ≠ 0 → s.gnss.antShort = true → s.gnss.bias = false → s.gnss.antRetryAt + 8000000 ≤ s.pm → ma ≤ antShortMa s → 
    ∃ t, exec (.antBiasRetry ma) s = .next t ∧ Noted (s.onGnss fun v => { v with bias := true, antShort := false, antRetries := 0, antMa := ma }) t) ∧
  (∀ (m : List Byte) (n : Nat) (s : State), gnssRuns s = true → readFrame s.gnss.rtcmBuf = .frame m n → 
    exec (.rtcmFrame) s = .next (rtcmSearch (s.gnss.rtcmBuf.drop n) (takeMessage m s))) ∧
  (∀  (s : State), s.gnss.rtcmBuf ≠ [] → s.gnss.rtcmLast + 160000000 ≤ s.pm → readFrame s.gnss.rtcmBuf = .wait → 
    exec (.rtcmTimeout) s = .next (s.onGnss fun g => { g with rtcmBuf := [], rtcmTimeouts := g.rtcmTimeouts + 1 })) ∧
  (∀ (m : BitVec 32) (l : List Int) (q : Nat) (s : State), fixRatio s ≤ q → s.restarting .pair = false → 
    exec (.ambiguityCandidate m l q) s = .next (s.onPos fun p => { p with candNew := some (m, l) })) ∧
  (∀ (k : Fin 4) (s : State), 3 ≤ odoType s k → s.pos.odo[k].stale = false → s.pos.odo[k].lastPm + 24000000 ≤ s.pm → 
    exec (.odoStale k) s = .next (modOdo k (fun o => { o with stale := true, sa := none }) s)) ∧
  (∀ (b : Fin 12) (ev : Ev) (c : Fin 96) (s : State), firstEvent s.vdr.bank[b].queue = some ev → ev.stale = false → ev.runAt ≤ s.pm → idx? 96 ev.ctx = some c → ev.on = true → 
    exec (.eventExecute b) s = .next (genOn c ev.runAt (modBank b (fun k => { k with queue := k.queue.erase ev }) s))) ∧
  (∀ (c : Fin 96) (s : State), s.vdr.ch[c].st = .pending → s.vdr.ch[c].startAt ≤ s.pm → s.vdr.ch[c].unplaced = false → 
    ∃ t, exec (.reservedStart c) s = .next t ∧ t = beginPullIn c s.vdr.ch[c].startAt s ∧ t.vdr.ch[c].st = .pullIn) ∧
  (∀ (b : Fin 12) (s : State), s.vdr.bank[b].feed ≠ .bst → s.vdr.bank[b].isolated = 0 → s.vdr.bank[b].windows.any (fun w => w.start ≤ s.pm + 320 && s.pm < w.stop) = true → 
    exec (.feedToVbst b) s = .next (modBank b (fun k => { k with feed := .bst, onVbst := true }) s)) ∧
  (∀ (b : Fin 12) (s : State), s.vdr.bank[b].feed = .bst → s.vdr.bank[b].windows.any (fun w => w.stop ≤ s.pm) = true → s.vdr.bank[b].windows.any (fun w => inWindow w.start w.stop s.pm) = false → 
    exec (.windowEnd b) s = .next (modBank b (fun k => { k with feed := .guard, onVbst := false }) s)) ∧
  (∀ (b : Fin 12) (s : State), s.vdr.bank[b].windows.any (fun w => w.stop + w.guard ≤ s.pm) = true → 
    ∃ t, exec (.guardEnd b) s = .next t ∧ Only [.vdr] s t ∧ t.vdr.bank[b].windows = s.vdr.bank[b].windows.filter (fun w => s.pm < w.stop + w.guard) ∧
      t.vdr.bank[b].feed = (if (s.vdr.bank[b].windows.filter (fun w => s.pm < w.stop + w.guard)).any (fun w => inWindow w.start w.stop s.pm) then .bst
        else if s.vdr.bank[b].feed = .guard then .bat else s.vdr.bank[b].feed)) ∧
  (∀ (c : Fin 96) (l0 : Nat) (s : State), s.vdr.ch[c].st = .pullIn → s.vdr.ch[c].pullEnd ≤ s.pm → s.vdr.ch[c].held = false → 
    exec (.pullInEnd c l0) s = .next (modCh c (fun h => { h with st := .hold }) (judgeInductance c l0 s))) ∧
  (∀ (c : Fin 96) (en : Nat) (s : State), s.vdr.ch[c].st = .decay → s.vdr.ch[c].fast = true → s.vdr.ch[c].offSet.iTail ≠ 0 → s.vdr.ch[c].recover = false → 
    exec (.fastDecayEnd c en) s = .next (modCh c (fun h => { h with fast := false }) s)) ∧
  (∀ (c : Fin 96) (en : Nat) (s : State), s.vdr.ch[c].st = .decay → 
    exec (.decayEnd c en) s = .next (afterDecay c (finishDecay c (min s.pm (s.vdr.ch[c].offPm + s.vdr.ch[c].offSet.searchWin)) false (writeFiring c (closingRecord s.vdr.ch[c] c s.vdr.ch[c].offPm true) (bookFast c en s))))) ∧
  (∀ (c : Fin 96) (g : SigIn) (s : State), s.vdr.ch[c].searching = true → (s.vdr.ch[c].st = .pullIn ∨ s.vdr.ch[c].st = .hold) → s.vdr.ch[c].startAt ≤ g.sample → s.pm ≤ s.vdr.ch[c].startAt + s.vdr.ch[c].onSet.searchWin → isMin g = true → signatureOk c s.pm g (10 * s.vdr.ch[c].onSet.sigMin) = true → 
    exec (.openingSignature c g) s = .next (takeOpening c (max s.vdr.ch[c].startAt (vertexAt g)) s)) ∧
  (∀ (c : Fin 96) (g : SigIn) (en : Nat) (s : State), s.vdr.ch[c].st = .decay → s.vdr.ch[c].closeSearch = true → s.vdr.ch[c].offPm ≤ g.sample → s.pm ≤ s.vdr.ch[c].offPm + s.vdr.ch[c].offSet.searchWin → isMax g = true → signatureOk c s.pm g (5 * s.vdr.ch[c].offSet.sigMin) = true → 
    exec (.closingSignature c g en) s = .next (afterDecay c (finishDecay c s.pm true (takeClosing c (max s.vdr.ch[c].offPm (vertexAt g)) (bookFast c en s))))) ∧
  (∀ (c : Fin 96) (s : State), s.vdr.ch[c].searching = true → s.vdr.ch[c].startAt + s.vdr.ch[c].onSet.searchWin ≤ s.pm → 
    exec (.openingSearchEnd c) s = .next (endSearch c (s.vdr.ch[c].startAt + s.vdr.ch[c].onSet.searchWin) s)) ∧
  (∀ (b : Fin 12) (s : State), trigRuns s = true → s.pwu.grid[b].b + s.pwu.grid[b].period ≤ s.pm → 
    ∃ t, exec (.bankBoundary b) s = .next t ∧ t.pwu.grid[b].b = s.pwu.grid[b].b + s.pwu.grid[b].period ∧
      t.pwu.grid[b].period = (latestWrite (fun w => w < s.pwu.grid[b].b + s.pwu.grid[b].period) s.pwu.grid[b].waitPeriod).getD s.pwu.grid[b].period ∧
      t.pwu.grid[b].phases = (latestWrite (fun w => w < s.pwu.grid[b].b + s.pwu.grid[b].period) s.pwu.grid[b].waitPhases).getD s.pwu.grid[b].phases) ∧
  (∀ (c : Fin 96) (u : State) (s : State), s.pwu.noz[c].running = true → s.pwu.noz[c].nextOpen ≤ openingOf s c → openingOf s c ≤ s.pm → u = modNoz c (fun n => { n with nextOpen := openingOf s c + 1, openAt := openingOf s c, closeAt := none }) (reloadNoz c (openingOf s c) false s) → u.pwu.noz[c].onTime ≠ 0 → 
    exec (.gridOpening c) s = .next (trigSource 4 c.val (openingOf s c) 0 (genStart c (openingOf s c) u))) ∧
  (∀ (c : Fin 96) (t0 : Nat) (s : State), s.pwu.noz[c].closeAt = some t0 → s.pwu.noz[c].running = true → t0 ≤ s.pm → merges s c t0 = false → 
    exec (.gridClosing c) s = .next (trigSource 5 c.val t0 0 (offRequest c t0 false (modNoz c (fun n => { n with closeAt := none }) s)))) ∧
  (∀ (g : Fin 8) (s : State), s.pwu.fine[g].running = true → s.pwu.fine[g].startAt + periodCounts s.pwu.fine[g].periodActive s.pwu.fine[g].centre < 5 * (s.pm + 1) → 
    ∃ t, exec (.finePeriodStart g) s = .next t ∧ 
      t.pwu.fine[g].startAt = s.pwu.fine[g].startAt + periodCounts s.pwu.fine[g].periodActive s.pwu.fine[g].centre ∧ t.pwu.fine[g].periods = incMod 32 s.pwu.fine[g].periods 1 ∧
      t.pwu.fine[g].cmpActive = (if s.restarting .control then s.pwu.fine[g].repeated (s.pwu.fine[g].startAt + periodCounts s.pwu.fine[g].periodActive s.pwu.fine[g].centre) else s.pwu.fine[g].reload (s.pwu.fine[g].startAt + periodCounts s.pwu.fine[g].periodActive s.pwu.fine[g].centre)).cmpActive ∧
      t.pwu.fine[g].periodActive = (if s.restarting .control then s.pwu.fine[g].repeated (s.pwu.fine[g].startAt + periodCounts s.pwu.fine[g].periodActive s.pwu.fine[g].centre) else s.pwu.fine[g].reload (s.pwu.fine[g].startAt + periodCounts s.pwu.fine[g].periodActive s.pwu.fine[g].centre)).periodActive) ∧
  (∀ (g : Fin 8) (x : Option Nat) (s : State), s.pwu.fine[g].running = true → gatesAllowed s = true → transitionDue s g true = true → 
    ∃ t, exec (.gateTransition g true x) s = .next t ∧ t.pwu.fine[g].target = true ∧ t.pwu.fine[g].gh = true ∧ t.pwu.fine[g].gl = false ∧ t.pwu.fine[g].dtRise = deadTime s g x ∧ t.pwu.grid = s.pwu.grid ∧ t.pwu.noz = s.pwu.noz) ∧
  (∀ (j : Fin 4) (t0 : Nat) (s : State), (finePeaks s).pwu.trig[j].pulseAt = some t0 → t0 ≤ s.pm → 
    exec (.trigOutPulse j) s = .next (modTrig j (fun o => { o with active := true, pulseAt := none, endAt := t0 + o.width, low := trigLow (finePeaks s) j }) (finePeaks s))) ∧
  (∀ (j : Fin 4) (s : State), s.pwu.trig[j].active = true → s.pwu.trig[j].endAt ≤ s.pm → 
    exec (.trigOutPulseEnd j) s = .next (modTrig j (fun o => { o with active := false }) s)) ∧
  (∀ (k : Fin 16) (x : LoopIn) (s : State), ceRuns s = true → loopCounts s k (s.pm / 10000 * 10000) = true → s.ce.loop[k].evalFor ≠ some (s.pm / 10000 * 10000) → loopTurn s k (s.pm / 10000 * 10000) = true → s.pm < s.pm / 10000 * 10000 + deadline s k → loopInputs s k (s.pm / 10000 * 10000) = some x → loopMode s k.val = 3 → 
    ∃ t, exec (.loopEvaluation k) s = .next t ∧ t.ce.loop[k] = (closedEval s k (s.pm / 10000 * 10000) x s.ce.loop[k]).1 ∧
      Only [.sys, .pd0, .host, .pwu, .lsw, .ce] s t) ∧
  (∀ (k : Fin 16) (t0 : Nat) (s : State), missedInstant s k = some t0 → ceRuns s = true → s.ce.loop[k].fault = false → (elemOf s .control).doneAt.getD 0 ≤ t0 → s.ce.loop[k].missRun < 2 → 
    ∃ t, exec (.deadlineMiss k) s = .next t ∧ 
      t.ce.loop[k].misses = s.ce.loop[k].misses + 1 ∧ t.ce.loop[k].missRun = s.ce.loop[k].missRun + 1 ∧ t.ce.loop[k].fault = false ∧ t.ce.lastMiss = some t0 ∧ Entered s.sys.dev s.sys.prev s.sys.cause t) ∧
  (∀ (j : Fin 4) (t0 : Nat) (s : State), flowF s j 4 1 = 1 → s.ce.flow[j].imbalance = false → s.ce.flow[j].overSince = some t0 → t0 + 160000000 ≤ s.pm → 
    ∃ t, exec (.flowImbalance j) s = .next t ∧ Noted (modFlow j (fun f => { f with imbalance := true }) s) t)

/-- Each input, load switch, thermal, CAN, row network and store event completes under its condition (R33, R297, R331, 17_command_reference.md). Where the spec is open or silent it states the model's choices: log entries 51, 53, 75, 76, 77, 78, 79, 80. -/
def Obligations.InputSwitchBusAndStoreEventsCompleteUnderTheirConditions : Prop :=
  (∀ (i : Fin 4) (ba : BitVec 2) (t0 : Nat) (s : State), pifRuns s = true → linesReady s (encFilter s i) (ba.toNat ^^^ s.pif.enc[i].state) s.pif.enc[i].accepted = true → t0 = s.pm - (encFilter s i - 1) → quadPos ba.toNat = quadPos s.pif.enc[i].state → 
    exec (.encoderTransition i ba) s = .next (modEnc i (Enc.note t0) (modEnc i (fun e => { e with state := ba.toNat, accepted := acceptLines s.pm (ba.toNat ^^^ e.state) e.accepted }) s))) ∧
  (∀ (i : Fin 4) (ba : BitVec 2) (t0 : Nat) (s : State), pifRuns s = true → linesReady s (encFilter s i) (ba.toNat ^^^ s.pif.enc[i].state) s.pif.enc[i].accepted = true → lineReady s (2 * encFilter s i) s.pif.enc[i].accepted[(2 : Fin 3)] = true → t0 = s.pm - (encFilter s i - 1) → (indexMode s i = 0 ∨ (gateEn s i = true ∧ gateAb s i ≠ ba.toNat)) → 
    exec (.index i ba) s = .next (modEnc i (fun e => { e with accepted := acceptLines s.pm 4 e.accepted }) (quadStep i t0 ba.toNat s))) ∧
  (∀ (i : Fin 4) (wvu : BitVec 3) (t0 : Nat) (s : State), pifRuns s = true → linesReady s (hallFilter s i) (wvu.toNat ^^^ s.pif.hall[i].state) s.pif.hall[i].accepted = true → t0 = s.pm - (hallFilter s i - 1) → wvu ≠ 0 → wvu ≠ 7 → 
    exec (.hallTransition i wvu) s = .next (hallStep i t0 wvu.toNat (modHall i (fun e => { e with state := wvu.toNat, accepted := acceptLines s.pm (wvu.toNat ^^^ e.state) e.accepted }) s))) ∧
  (∀ (i : Fin 4) (s : State), s.pif.hall[i].hallIllegal = true → s.pif.hall[i].invalid = false → s.pif.hall[i].illegalAt + 80000 ≤ s.pm → 
    ∃ t, exec (.hallIllegal i) s = .next t ∧ Noted (modHall i (fun e => Enc.note s.pm { e with invalid := true }) s) t) ∧
  (∀ (i : Fin 16) (t0 : Nat) (s : State), pifRuns s = true → lineReady s (freqFilter s i) s.pif.freq[i].acceptedAt = true → s.pif.freq[i].level = freqFalling s i → t0 = s.pm - (freqFilter s i - 1) → 
    ∃ t, exec (.freqEdge i) s = .next t ∧ t.pif.freq[i].pulses = s.pif.freq[i].pulses + 1 ∧ t.pif.freq[i].lastPm = t0 ∧ t.pif.freq[i].stopped = false ∧
      t.pif.freq[i].level = (!s.pif.freq[i].level) ∧ t.pif.freq[i].acceptedAt = some s.pm ∧
      (t.pif.freq[i].overrange = true ↔ s.pif.freq[i].overrange = true ∨ ∃ e, s.pif.freq[i].edges.head? = some e ∧ t0 < e + 1600) ∧
      t.pif.enc = s.pif.enc ∧ t.pif.hall = s.pif.hall ∧ t.pif.evt = s.pif.evt ∧ t.pif.ain = s.pif.ain ∧ t.pif.emu = s.pif.emu) ∧
  (∀ (i : Fin 8) (f : Bool) (s : State), pifRuns s = true → lineReady s (evtFilter s i) s.pif.evt[i].acceptedAt = true → bitN (evtEdges s i) (if f then 1 else 0) = true → s.pif.evt[i].fifo.length < 32 → 
    exec (.eventEdge i f) s = .next (modEvt i (fun v => { v with acceptedAt := some s.pm, seq := v.seq + 1, fifo := v.fifo ++ [{ pm := s.pm - (evtFilter s i - 1), input := i.val, falling := f, seq := v.seq + 1 }] }) s)) ∧
  (∀ (i : Fin 32) (mv : BitVec 16) (t0 v : Nat) (c : AinVal) (s : State), pifRuns s = true → (ainTrigEn s i = false ∧ t0 = s.pm / 10000 * 10000 ∨ ainTrigEn s i = true ∧ ∃ g, idx? 8 (ainTrigGen s i) = some g ∧ (finePeaks s).pwu.fine[g].trigAt = some t0) → s.pif.ain[i].since ≤ t0 → (∀ p ∈ s.pif.ain[i].past, p.1 < t0) → v = min mv.toNat (ainTop s i) → c = { pm := t0, value := v, invalid := decide (v < ainLo s i ∨ ainHi s i < v) } → 
    ∃ t, exec (.analogConversion i mv) s = .next t ∧ Noted (modAin i (fun a => { a with cur := c, past := keepRecent t0 40000 ((t0, c) :: a.past) }) (finePeaks s)) t) ∧
  (∀ (x : Fin 2) (m : Emu) (s : State), emuRuns s x = true → (emuUpdate x id s).pif.emu[x] = m → m.whole ≠ 0 → (∀ t0, m.lastStep = some t0 → t0 + 160 ≤ s.pm) → 
    exec (.emuOutputStep x) s = .next (emuUpdate x (fun m => { m with acc := m.acc - m.whole.sign * emuUnit, count := wrap32 (m.count + m.whole.sign * (if emuInv s x then -1 else 1)), steps := m.steps + m.whole.sign * (if emuInv s x then -1 else 1), lastStep := some s.pm }) (emuUpdate x id s))) ∧
  (∀ (c : Fin 16) (s : State), s.lsw.ls[c].st = .inrush → s.lsw.ls[c].stepEnd ≤ lswNow s → s.lsw.ls[c].step + 1 < s.lsw.ls[c].profile.steps → 
    exec (.inrushStep c) s = .next (modLsw c (fun l => { l with step := l.step + 1, stepEnd := l.stepEnd + 800 * l.profile.tStep }) s)) ∧
  (∀ (c : Fin 16) (s : State), (s.lsw.ls[c].st = .on ∨ offDiagnosed s c = true) → s.lsw.ls[c].openLoad = false → 
    ∃ t, exec (.lswOpenLoad c true) s = .next t ∧ Noted (modLsw c (fun l => { l with openLoad := true }) s) t ∧ Logged 0x20 c.val t) ∧
  (∀ (c : Fin 16) (s : State), offDiagnosed s c = true → s.lsw.ls[c].shortBat = false → 
    ∃ t, exec (.lswShortBat c true) s = .next t ∧ Noted (modLsw c (fun l => { l with shortBat := true }) s) t ∧ Logged 0x20 c.val t) ∧
  (∀ (c : Fin 16) (s : State), s.lsw.ls[c].outOn = true → 
    ∃ t, exec (.lswShort c) s = .next t ∧ Noted (noteCoast c (endHold c (modLsw c (fun l => { l with st := .latched, tripAt := lswNow s, pulsing := false, closeAt := none, scaled := false, short := true }) s))) t ∧ Logged 0x20 c.val t) ∧
  (∀ (c : Fin 16) (s : State), s.lsw.ls[c].isOn = true → s.pd0.keyOffHold[c] = none → 
    ∃ t, exec (.lswOverload c) s = .next t ∧ Noted (noteCoast c (endHold c (modLsw c (fun l => { l with st := .latched, tripAt := lswNow s, pulsing := false, closeAt := none, scaled := false, overload := true }) s))) t ∧ Logged 0x20 c.val t) ∧
  (∀ (c : Fin 16) (x : Int) (s : State), thsTakes s 8 (lswSensor c) = true → 
    exec (.lswOvertemp c x) s = .next (sensorSample 8 (lswSensor c) x s)) ∧
  (∀ (c : Fin 16) (x : Int) (s : State), thsTakes s 8 (lswSensor c) = true → 
    exec (.thermLatchRelease c x) s = .next (sensorSample 8 (lswSensor c) x s)) ∧
  (∀ (a : Nat) (s : State), 80000 < a → s.lsw.shedding = false → 
    exec (.aggregate a) s = .next (shedOne (s.onLsw fun v => { v with shedding := true, lastShed := s.pm }))) ∧
  (∀ (a : Nat) (s : State), s.lsw.shedding = true → s.lsw.lastShed + 80000 ≤ s.pm → 76000 < a → 
    exec (.aggregateShedStep a) s = .next (shedOne (s.onLsw fun v => { v with lastShed := s.pm }))) ∧
  (∀ (c : Fin 16) (s : State), s.lsw.ls[c].st = .latched → s.lsw.ls[c].aggregate = false → s.lsw.ls[c].thermLatch = false → s.lsw.ls[c].exhausted = false → s.sys.dev ≠ .latched → max (s.lsw.ls[c].tripAt + msTicks s.lsw.ls[c].profile.retryDelay) s.lsw.ls[c].thermAt ≤ lswNow s → s.pd0.lswOn[c] = true → s.sys.dev ≠ .off → 0 < s.pd0.lswRetries[c] → 
    exec (.lswRetryDue c) s = .next (
      lswSync c (lswUnlatch c (s.onPd0 fun p => { p with lswRetries := p.lswRetries.set c (p.lswRetries[c] - 1) })))) ∧
  (∀ (c : Fin 16) (l : Lsw) (o : Nat) (s : State), l = s.lsw.ls[c].advance (lswNow s) → o = l.pulseB + l.pulsePhase * l.pulseP / 256 → l.pulsing = true → (l.st = .on ∨ (l.st = .off ∧ l.firstPulse = false)) → o ≤ lswNow s → l.lastOpen < o + 1 → s.sys.dev ≠ .safe → 
    ∃ t, exec (.lswPulseOpening c) s = .next t ∧ 
      Only [.lsw] s t ∧ t.lsw.ls[c].lastOpen = o + 1 ∧ t.lsw.ls[c].dutyAct = (latestWrite (fun w => w < o) l.duties).getD l.dutyAct ∧
      t.lsw.ls[c].duties = pendingAfter (fun w => w < o) l.duties ∧
      t.lsw.ls[c].st = (if pulseWidth t c t.lsw.ls[c].dutyAct < 1600 then .off else .on) ∧
      t.lsw.ls[c].closeAt = (if pulseWidth t c t.lsw.ls[c].dutyAct < 1600 ∨ l.pulseP - pulseWidth t c t.lsw.ls[c].dutyAct < 1600 then none
        else some (o + pulseWidth t c t.lsw.ls[c].dutyAct))) ∧
  (∀ (c : Fin 16) (t0 : Nat) (s : State), s.lsw.ls[c].closeAt = some t0 → t0 ≤ lswNow s → s.lsw.ls[c].pulsing = true → 
    exec (.lswPulseClosing c) s = .next (lswTurnOff c s)) ∧
  (∀ (c : Fin 16) (s : State), s.sys.dev = .coast → coastPolicy s c = 1 → s.sys.coastEntry + offAfter s c ≤ s.pm → 
    exec (.offAfterExpiry c) s = .next (lswSync c s)) ∧
  (∀ (c : Fin 16) (t0 : Nat) (s : State), s.pd0.keyOffHold[c] = some t0 → t0 ≤ s.pd0.now → 
    exec (.keyoffHoldEnd c) s = .next (lswSync c (endHold c s))) ∧
  (∀ (z : Fin 10) (k : Fin 20) (x : Int) (s : State), thsTakes s z k = true → 
    exec (.warn z k x) s = .next (sensorSample z k x s)) ∧
  (∀ (z : Fin 10) (k : Fin 20) (x : Int) (s : State), thsTakes s z k = true → 
    exec (.throttle z k x) s = .next (sensorSample z k x s)) ∧
  (∀ (z : Fin 10) (k : Fin 20) (s : State), thsTakes s z k = true → s.ths.zone[z].sens[k].broken = true → 
    exec (.sensorBroken z k) s = .next (shutDown z (zoneSample z (stageAt z k (standsFor s z k.val) s)))) ∧
  (∀ (z : Fin 10) (k : Fin 20) (x : Int) (s : State), thsTakes s z k = true → (stageOf z k).isSome = true → s.ths.zone[z].sens[k].rises s.pm x = true → -600 ≤ x → x ≤ 2100 → s.ths.zone[z].sens[k].broken = false → 
    ∃ t, exec (.rateTrip z k x) s = .next t ∧ ∃ u, t = shutDown z (zoneSample z (stageAt z k x (rateTripStage z k u))) ∧
      Noted (modZone z (fun y => { y with rateTrips := incMod 16 y.rateTrips 1 }) (switchTemp z k x (takeReading z k x s))) u) ∧
  (∀ (z : Fin 10) (k : Fin 20) (x : Int) (s : State), thsTakes s z k = true → 
    exec (.shutdown z k x) s = .next (sensorSample z k x s)) ∧
  (∀ (x : Fin 3) (f : CanFrame) (s : State), onBus s x = true → (f.fdf = false ∨ fdEn s x = true) → tunCtl s ≠ some x → s.can.ctl[x].rec_ ≤ 127 → holeFor s x f = none → 
    exec (.canFrameReceive x f) s = .next (modCtl x (fun c => { c with unmatched := c.unmatched + 1 }) (setCounters x s.can.ctl[x].tec (s.can.ctl[x].rec_ - 1) s))) ∧
  (∀ (x : Fin 3) (k : Fin 32) (s : State), onBus s x = true → listen s x = false → hasActive s x = none → winner s x = some k → 
    exec (.canTxStart x) s = .next (modSlot x k (fun l => { l with st := .active }) s)) ∧
  (∀ (x : Fin 3) (k : Fin 32) (sof eof : Nat) (d : Option Nat) (s : State), hasActive s x = some k → selfRx s x = false → 
    exec (.canTxEnd x (.sent sof eof d)) s = .next (endSlot x k .sent eof (setCounters x (s.can.ctl[x].tec - 1) s.can.ctl[x].rec_ (takeTdc x k d (modSlot x k (fun l => { l with sofPm := sof }) s))))) ∧
  (∀ (x : Fin 3) (k : Fin 32) (s : State), s.can.ctl[x].slots[k].st = .pending → slotDeadline s.can.ctl[x].slots[k].desc.toNat ≠ 0 → slotDeadline s.can.ctl[x].slots[k].desc.toNat ≤ s.pm → 
    exec (.canDeadlineExpiry x k) s = .next (endSlot x k .expired 0 s)) ∧
  (∀ (x : Fin 3) (s : State), s.can.ctl[x].st = .recovering → canRuns s = true → s.can.ctl[x].busOffAt + 1408 * bitTicks s x ≤ s.pm → x ≠ 1 → 
    ∃ t, exec (.busoffRecoveryComplete x) s = .next t ∧ Noted (modCtl x (fun c => { c with st := .active, tec := 0, rec_ := 0 }) s) t ∧ Ended 0x1D x.val s t) ∧
  (∀ (x : Fin 3) (s : State), canRuns s = true → canEnable s x = true → s.can.ctl[x].st = .offBus → (confine s.can.ctl[x].tec s.can.ctl[x].rec_ ≠ .busOff ∨ busoffAuto s x = false) → 
    ∃ t, exec (.busRejoin x) s = .next t ∧ Noted (modCtl x (fun c => { c with st := confine c.tec c.rec_ }) s) t) ∧
  (∀ (x : Fin 3) (n : Nat) (s : State), onBus s x = true → 
    exec (.receiveError x n) s = .next (setCounters x s.can.ctl[x].tec (s.can.ctl[x].rec_ + n) s)) ∧
  (∀  (s : State), isoEn s = true → canRuns s = true → s.sys.dev ≠ .quarantine → s.can.ctl[(0 : Fin 3)].st = .active → s.can.claimed = false → 
    exec (.addressClaim) s = .next (sendClaim (s.onCan fun v => { v with claimed := true, cand := (s.impl.active.map fun i => bits i.mach.toNat 200 8).getD 0x80 }))) ∧
  (∀ (t0 : Nat) (s : State), s.can.claimAt = some t0 → t0 + 20000000 ≤ s.pm → 
    ∃ t, exec (.addressClaimTimer) s = .next t ∧ Noted (s.onCan fun v => { v with addr := v.cand, claimAt := none }) t) ∧
  (∀  (s : State), rowRuns s = true → s.can.syncAt < s.pm / syncInterval s * syncInterval s → s.can.ctl[(1 : Fin 3)].slots[(31 : Fin 32)].st = .free → 
    exec (.sync) s = .next (
      loadSlot 1 31 .row (descOf (rowBase s) false true (brsEn s 1) 1 3 0 (leBytes 1 (s.can.syncSeq + 1).toNat))
        (s.onCan fun v => { v with syncAt := s.pm / syncInterval s * syncInterval s, syncSeq := v.syncSeq + 1 }))) ∧
  (∀  (s : State), (s.sys.dev = .standby ∨ s.sys.dev = .safe) → rowRuns s = true → (∀ t0, s.can.allOffAt = some t0 → t0 + 8000000 ≤ s.pm) → 
    exec (.allOffRepeat) s = .next (sendAllOff (s.onCan fun v => { v with allOffAt := some s.pm, allOffWait := v.allOffWait ++ (List.range 32).filter fun n => !v.allOffWait.contains n }))) ∧
  (∀  (s : State), rowEn s = true → (s.can.rowEvents.any fun r => r.slot.isNone && decide (r.due + reportWait s ≤ s.pm)) = true → 
    exec (.reportWaitExpiry) s = .next (commandUnreported s.pm (takeReports s))) ∧
  (∀ (n : Fin 32) (u : State) (s : State), rowRuns s = true → u = takeReport n s → u.can.node[n].seen = true → u.can.node[n].lost = false → u.can.node[n].lastReport + rowTimeout s ≤ s.pm → 
    ∃ t, exec (.rowNodeLost n) s = .next t ∧ t.can.node[n].lost = true ∧ t.can.node[n].rowOn = 0 ∧ t.can.node[n].synced = u.can.node[n].synced ∧
      (∀ k ∈ nodeCtxs s n, t.fe.ctx[k].sched = false ∧ (u.fe.ctx[k].runFrom.isSome = true →
        { pm := u.can.node[n].lastReport + rowTimeout s, ctx := k.val, closing := true, held := true } ∈ t.fe.remote))) ∧
  (∀ (l : List EccIn) (s : State), s.sys.mapReady = true → s.map.lastScrub + msTicks (1000 * s.act.fld .map 160 16) ≤ s.pm → 
    exec (.scrub l) s = .next ((s.map.upsets ++ l).foldl (fun u x => eccWord x u) (s.onMap fun m => { m with lastScrub := s.pm, upsets := [] }))) ∧
  (∀  (s : State), 
    exec (.dirtyWriteback) s = .next (s.onMap fun m => { m with cache := m.cache.map fun l => { l with dirty := false } })) ∧
  (∀ (m : Mask) (u : State) (s : State), s.map.building = some m → s.restarting .pair = false → u = (meetErrors (fun x => x.region == .polygon) s).1 → u.map.polyDamaged = false → m.tiles.length ≤ 256 - u.map.maskPool.retired.length → m.entries ≤ 16384 → 
    ∃ t, exec (.maskBuilt) s = .next t ∧ Noted (u.onMap fun x => { x with building := none, built := some m }) t) ∧
  (∀ (l : Load) (s : State), s.map.load = some l → l.ending = false → l.lastPm + 800000000 ≤ s.pm → 
    ∃ t, exec (.loadTimeout) s = .next t ∧ Noted (s.onMap fun m => { m with load := none }) t) ∧
  (∀ (x : Exp) (s : State), s.map.exp = some x → x.lastPm + 4800000000 ≤ s.pm → 
    exec (.exportTimeout) s = .next (s.onMap fun m => { m with exp := none })) ∧
  (∀  (s : State), s.map.log ≠ [] → s.restarting .enclave = false → s.map.logFirst + msTicks (1000 * s.act.fld .map 176 16) ≤ s.pm → 
    ∃ t, exec (.logSeal) s = .next t ∧ ∃ b, t.map.ring = s.map.ring ++ [b] ∧ b.seq = s.pd0.blockSeq ∧ b.boot = s.pd0.bootCount ∧ b.records = s.map.log ∧
      b.count = s.map.log.length ∧ b.firstPm = s.map.logFirst ∧ b.prevHash = s.pd0.chainHash ∧ b.sig = Config.ecdsaSign logKey (Config.sha256 b.signedBytes) ∧
      t.map.log = [] ∧ t.pd0.chainHash = Config.sha256 b.signedBytes ∧ t.pd0.blockSeq = incMod 32 s.pd0.blockSeq 1) ∧
  (∀ (due : Nat) (s : State), (s.sys.dev = .armed ∨ s.sys.dev = .manual) → due = s.pm / msTicks (10 * s.act.fld .map 192 16) * msTicks (10 * s.act.fld .map 192 16) → s.map.trackAt < due → 
    exec (.trackRecord) s = .next (
      writeLog (logRecord 0x08 0 (qualityCode s.pos.pose.quality) due
        (uint 32 s.pos.pose.est.east ||| uint 32 s.pos.pose.est.north <<< 32 ||| uint 16 s.pos.pose.est.heading <<< 64 ||| satU 16 s.pos.pose.est.hErr <<< 80
          ||| sectionsOn s <<< 96)) (s.onMap fun m => { m with trackAt := due }))) ∧
  (∀  (s : State), s.running = true → s.vdr.latSaved + 48000000000 ≤ s.pm → 
    exec (.latencySave) s = .next ((s.onNor fun n => { n with lat := s.vdr.lat }).onVdr fun v => { v with latSaved := s.pm }))
end

