-- ==== Sys2Proof/Laws/State.lean ====
section
/-! SUPPORT. What changing one part of the state does to every part: one lemma per part and update, and how reading a
part goes through a choice and a fold. -/

set_option Elab.async false

namespace Sys2Proof.Machine

variable {s : State}

/-! ### `onSys` -/

@[simp] theorem State.onSys_pending (f : SysSt → SysSt) : (s.onSys f).pending = s.pending := rfl
@[simp] theorem State.onSys_pm (f : SysSt → SysSt) : (s.onSys f).pm = s.pm := rfl
@[simp] theorem State.onSys_running (f : SysSt → SysSt) : (s.onSys f).running = s.running := rfl
@[simp] theorem State.onSys_free (f : SysSt → SysSt) : (s.onSys f).free = s.free := rfl
@[simp] theorem State.onSys_sys (f : SysSt → SysSt) : (s.onSys f).sys = f s.sys := rfl
@[simp] theorem State.onSys_pwr (f : SysSt → SysSt) : (s.onSys f).pwr = s.pwr := rfl
@[simp] theorem State.onSys_pd0 (f : SysSt → SysSt) : (s.onSys f).pd0 = s.pd0 := rfl
@[simp] theorem State.onSys_nor (f : SysSt → SysSt) : (s.onSys f).nor = s.nor := rfl
@[simp] theorem State.onSys_act (f : SysSt → SysSt) : (s.onSys f).act = s.act := rfl
@[simp] theorem State.onSys_shd (f : SysSt → SysSt) : (s.onSys f).shd = s.shd := rfl
@[simp] theorem State.onSys_host (f : SysSt → SysSt) : (s.onSys f).host = s.host := rfl
@[simp] theorem State.onSys_safe (f : SysSt → SysSt) : (s.onSys f).safe = s.safe := rfl
@[simp] theorem State.onSys_time (f : SysSt → SysSt) : (s.onSys f).time = s.time := rfl
@[simp] theorem State.onSys_gnss (f : SysSt → SysSt) : (s.onSys f).gnss = s.gnss := rfl
@[simp] theorem State.onSys_pos (f : SysSt → SysSt) : (s.onSys f).pos = s.pos := rfl
@[simp] theorem State.onSys_impl (f : SysSt → SysSt) : (s.onSys f).impl = s.impl := rfl
@[simp] theorem State.onSys_fe (f : SysSt → SysSt) : (s.onSys f).fe = s.fe := rfl
@[simp] theorem State.onSys_map (f : SysSt → SysSt) : (s.onSys f).map = s.map := rfl
@[simp] theorem State.onSys_vdr (f : SysSt → SysSt) : (s.onSys f).vdr = s.vdr := rfl
@[simp] theorem State.onSys_pwu (f : SysSt → SysSt) : (s.onSys f).pwu = s.pwu := rfl
@[simp] theorem State.onSys_ce (f : SysSt → SysSt) : (s.onSys f).ce = s.ce := rfl
@[simp] theorem State.onSys_pif (f : SysSt → SysSt) : (s.onSys f).pif = s.pif := rfl
@[simp] theorem State.onSys_lsw (f : SysSt → SysSt) : (s.onSys f).lsw = s.lsw := rfl
@[simp] theorem State.onSys_ths (f : SysSt → SysSt) : (s.onSys f).ths = s.ths := rfl
@[simp] theorem State.onSys_can (f : SysSt → SysSt) : (s.onSys f).can = s.can := rfl
@[simp] theorem State.onSys_sec (f : SysSt → SysSt) : (s.onSys f).sec = s.sec := rfl

/-! ### `onPwr` -/

@[simp] theorem State.onPwr_pending (f : PwrSt → PwrSt) : (s.onPwr f).pending = s.pending := rfl
@[simp] theorem State.onPwr_pm (f : PwrSt → PwrSt) : (s.onPwr f).pm = s.pm := rfl
@[simp] theorem State.onPwr_running (f : PwrSt → PwrSt) : (s.onPwr f).running = s.running := rfl
@[simp] theorem State.onPwr_free (f : PwrSt → PwrSt) : (s.onPwr f).free = s.free := rfl
@[simp] theorem State.onPwr_sys (f : PwrSt → PwrSt) : (s.onPwr f).sys = s.sys := rfl
@[simp] theorem State.onPwr_pwr (f : PwrSt → PwrSt) : (s.onPwr f).pwr = f s.pwr := rfl
@[simp] theorem State.onPwr_pd0 (f : PwrSt → PwrSt) : (s.onPwr f).pd0 = s.pd0 := rfl
@[simp] theorem State.onPwr_nor (f : PwrSt → PwrSt) : (s.onPwr f).nor = s.nor := rfl
@[simp] theorem State.onPwr_act (f : PwrSt → PwrSt) : (s.onPwr f).act = s.act := rfl
@[simp] theorem State.onPwr_shd (f : PwrSt → PwrSt) : (s.onPwr f).shd = s.shd := rfl
@[simp] theorem State.onPwr_host (f : PwrSt → PwrSt) : (s.onPwr f).host = s.host := rfl
@[simp] theorem State.onPwr_safe (f : PwrSt → PwrSt) : (s.onPwr f).safe = s.safe := rfl
@[simp] theorem State.onPwr_time (f : PwrSt → PwrSt) : (s.onPwr f).time = s.time := rfl
@[simp] theorem State.onPwr_gnss (f : PwrSt → PwrSt) : (s.onPwr f).gnss = s.gnss := rfl
@[simp] theorem State.onPwr_pos (f : PwrSt → PwrSt) : (s.onPwr f).pos = s.pos := rfl
@[simp] theorem State.onPwr_impl (f : PwrSt → PwrSt) : (s.onPwr f).impl = s.impl := rfl
@[simp] theorem State.onPwr_fe (f : PwrSt → PwrSt) : (s.onPwr f).fe = s.fe := rfl
@[simp] theorem State.onPwr_map (f : PwrSt → PwrSt) : (s.onPwr f).map = s.map := rfl
@[simp] theorem State.onPwr_vdr (f : PwrSt → PwrSt) : (s.onPwr f).vdr = s.vdr := rfl
@[simp] theorem State.onPwr_pwu (f : PwrSt → PwrSt) : (s.onPwr f).pwu = s.pwu := rfl
@[simp] theorem State.onPwr_ce (f : PwrSt → PwrSt) : (s.onPwr f).ce = s.ce := rfl
@[simp] theorem State.onPwr_pif (f : PwrSt → PwrSt) : (s.onPwr f).pif = s.pif := rfl
@[simp] theorem State.onPwr_lsw (f : PwrSt → PwrSt) : (s.onPwr f).lsw = s.lsw := rfl
@[simp] theorem State.onPwr_ths (f : PwrSt → PwrSt) : (s.onPwr f).ths = s.ths := rfl
@[simp] theorem State.onPwr_can (f : PwrSt → PwrSt) : (s.onPwr f).can = s.can := rfl
@[simp] theorem State.onPwr_sec (f : PwrSt → PwrSt) : (s.onPwr f).sec = s.sec := rfl

/-! ### `onPd0` -/

@[simp] theorem State.onPd0_pending (f : Pd0St → Pd0St) : (s.onPd0 f).pending = s.pending := rfl
@[simp] theorem State.onPd0_pm (f : Pd0St → Pd0St) : (s.onPd0 f).pm = s.pm := rfl
@[simp] theorem State.onPd0_running (f : Pd0St → Pd0St) : (s.onPd0 f).running = s.running := rfl
@[simp] theorem State.onPd0_free (f : Pd0St → Pd0St) : (s.onPd0 f).free = s.free := rfl
@[simp] theorem State.onPd0_sys (f : Pd0St → Pd0St) : (s.onPd0 f).sys = s.sys := rfl
@[simp] theorem State.onPd0_pwr (f : Pd0St → Pd0St) : (s.onPd0 f).pwr = s.pwr := rfl
@[simp] theorem State.onPd0_pd0 (f : Pd0St → Pd0St) : (s.onPd0 f).pd0 = f s.pd0 := rfl
@[simp] theorem State.onPd0_nor (f : Pd0St → Pd0St) : (s.onPd0 f).nor = s.nor := rfl
@[simp] theorem State.onPd0_act (f : Pd0St → Pd0St) : (s.onPd0 f).act = s.act := rfl
@[simp] theorem State.onPd0_shd (f : Pd0St → Pd0St) : (s.onPd0 f).shd = s.shd := rfl
@[simp] theorem State.onPd0_host (f : Pd0St → Pd0St) : (s.onPd0 f).host = s.host := rfl
@[simp] theorem State.onPd0_safe (f : Pd0St → Pd0St) : (s.onPd0 f).safe = s.safe := rfl
@[simp] theorem State.onPd0_time (f : Pd0St → Pd0St) : (s.onPd0 f).time = s.time := rfl
@[simp] theorem State.onPd0_gnss (f : Pd0St → Pd0St) : (s.onPd0 f).gnss = s.gnss := rfl
@[simp] theorem State.onPd0_pos (f : Pd0St → Pd0St) : (s.onPd0 f).pos = s.pos := rfl
@[simp] theorem State.onPd0_impl (f : Pd0St → Pd0St) : (s.onPd0 f).impl = s.impl := rfl
@[simp] theorem State.onPd0_fe (f : Pd0St → Pd0St) : (s.onPd0 f).fe = s.fe := rfl
@[simp] theorem State.onPd0_map (f : Pd0St → Pd0St) : (s.onPd0 f).map = s.map := rfl
@[simp] theorem State.onPd0_vdr (f : Pd0St → Pd0St) : (s.onPd0 f).vdr = s.vdr := rfl
@[simp] theorem State.onPd0_pwu (f : Pd0St → Pd0St) : (s.onPd0 f).pwu = s.pwu := rfl
@[simp] theorem State.onPd0_ce (f : Pd0St → Pd0St) : (s.onPd0 f).ce = s.ce := rfl
@[simp] theorem State.onPd0_pif (f : Pd0St → Pd0St) : (s.onPd0 f).pif = s.pif := rfl
@[simp] theorem State.onPd0_lsw (f : Pd0St → Pd0St) : (s.onPd0 f).lsw = s.lsw := rfl
@[simp] theorem State.onPd0_ths (f : Pd0St → Pd0St) : (s.onPd0 f).ths = s.ths := rfl
@[simp] theorem State.onPd0_can (f : Pd0St → Pd0St) : (s.onPd0 f).can = s.can := rfl
@[simp] theorem State.onPd0_sec (f : Pd0St → Pd0St) : (s.onPd0 f).sec = s.sec := rfl

/-! ### `onNor` -/

@[simp] theorem State.onNor_pending (f : NorSt → NorSt) : (s.onNor f).pending = s.pending := rfl
@[simp] theorem State.onNor_pm (f : NorSt → NorSt) : (s.onNor f).pm = s.pm := rfl
@[simp] theorem State.onNor_running (f : NorSt → NorSt) : (s.onNor f).running = s.running := rfl
@[simp] theorem State.onNor_free (f : NorSt → NorSt) : (s.onNor f).free = s.free := rfl
@[simp] theorem State.onNor_sys (f : NorSt → NorSt) : (s.onNor f).sys = s.sys := rfl
@[simp] theorem State.onNor_pwr (f : NorSt → NorSt) : (s.onNor f).pwr = s.pwr := rfl
@[simp] theorem State.onNor_pd0 (f : NorSt → NorSt) : (s.onNor f).pd0 = s.pd0 := rfl
@[simp] theorem State.onNor_nor (f : NorSt → NorSt) : (s.onNor f).nor = f s.nor := rfl
@[simp] theorem State.onNor_act (f : NorSt → NorSt) : (s.onNor f).act = s.act := rfl
@[simp] theorem State.onNor_shd (f : NorSt → NorSt) : (s.onNor f).shd = s.shd := rfl
@[simp] theorem State.onNor_host (f : NorSt → NorSt) : (s.onNor f).host = s.host := rfl
@[simp] theorem State.onNor_safe (f : NorSt → NorSt) : (s.onNor f).safe = s.safe := rfl
@[simp] theorem State.onNor_time (f : NorSt → NorSt) : (s.onNor f).time = s.time := rfl
@[simp] theorem State.onNor_gnss (f : NorSt → NorSt) : (s.onNor f).gnss = s.gnss := rfl
@[simp] theorem State.onNor_pos (f : NorSt → NorSt) : (s.onNor f).pos = s.pos := rfl
@[simp] theorem State.onNor_impl (f : NorSt → NorSt) : (s.onNor f).impl = s.impl := rfl
@[simp] theorem State.onNor_fe (f : NorSt → NorSt) : (s.onNor f).fe = s.fe := rfl
@[simp] theorem State.onNor_map (f : NorSt → NorSt) : (s.onNor f).map = s.map := rfl
@[simp] theorem State.onNor_vdr (f : NorSt → NorSt) : (s.onNor f).vdr = s.vdr := rfl
@[simp] theorem State.onNor_pwu (f : NorSt → NorSt) : (s.onNor f).pwu = s.pwu := rfl
@[simp] theorem State.onNor_ce (f : NorSt → NorSt) : (s.onNor f).ce = s.ce := rfl
@[simp] theorem State.onNor_pif (f : NorSt → NorSt) : (s.onNor f).pif = s.pif := rfl
@[simp] theorem State.onNor_lsw (f : NorSt → NorSt) : (s.onNor f).lsw = s.lsw := rfl
@[simp] theorem State.onNor_ths (f : NorSt → NorSt) : (s.onNor f).ths = s.ths := rfl
@[simp] theorem State.onNor_can (f : NorSt → NorSt) : (s.onNor f).can = s.can := rfl
@[simp] theorem State.onNor_sec (f : NorSt → NorSt) : (s.onNor f).sec = s.sec := rfl

/-! ### `onAct` -/

@[simp] theorem State.onAct_pending (f : Params → Params) : (s.onAct f).pending = s.pending := rfl
@[simp] theorem State.onAct_pm (f : Params → Params) : (s.onAct f).pm = s.pm := rfl
@[simp] theorem State.onAct_running (f : Params → Params) : (s.onAct f).running = s.running := rfl
@[simp] theorem State.onAct_free (f : Params → Params) : (s.onAct f).free = s.free := rfl
@[simp] theorem State.onAct_sys (f : Params → Params) : (s.onAct f).sys = s.sys := rfl
@[simp] theorem State.onAct_pwr (f : Params → Params) : (s.onAct f).pwr = s.pwr := rfl
@[simp] theorem State.onAct_pd0 (f : Params → Params) : (s.onAct f).pd0 = s.pd0 := rfl
@[simp] theorem State.onAct_nor (f : Params → Params) : (s.onAct f).nor = s.nor := rfl
@[simp] theorem State.onAct_act (f : Params → Params) : (s.onAct f).act = f s.act := rfl
@[simp] theorem State.onAct_shd (f : Params → Params) : (s.onAct f).shd = s.shd := rfl
@[simp] theorem State.onAct_host (f : Params → Params) : (s.onAct f).host = s.host := rfl
@[simp] theorem State.onAct_safe (f : Params → Params) : (s.onAct f).safe = s.safe := rfl
@[simp] theorem State.onAct_time (f : Params → Params) : (s.onAct f).time = s.time := rfl
@[simp] theorem State.onAct_gnss (f : Params → Params) : (s.onAct f).gnss = s.gnss := rfl
@[simp] theorem State.onAct_pos (f : Params → Params) : (s.onAct f).pos = s.pos := rfl
@[simp] theorem State.onAct_impl (f : Params → Params) : (s.onAct f).impl = s.impl := rfl
@[simp] theorem State.onAct_fe (f : Params → Params) : (s.onAct f).fe = s.fe := rfl
@[simp] theorem State.onAct_map (f : Params → Params) : (s.onAct f).map = s.map := rfl
@[simp] theorem State.onAct_vdr (f : Params → Params) : (s.onAct f).vdr = s.vdr := rfl
@[simp] theorem State.onAct_pwu (f : Params → Params) : (s.onAct f).pwu = s.pwu := rfl
@[simp] theorem State.onAct_ce (f : Params → Params) : (s.onAct f).ce = s.ce := rfl
@[simp] theorem State.onAct_pif (f : Params → Params) : (s.onAct f).pif = s.pif := rfl
@[simp] theorem State.onAct_lsw (f : Params → Params) : (s.onAct f).lsw = s.lsw := rfl
@[simp] theorem State.onAct_ths (f : Params → Params) : (s.onAct f).ths = s.ths := rfl
@[simp] theorem State.onAct_can (f : Params → Params) : (s.onAct f).can = s.can := rfl
@[simp] theorem State.onAct_sec (f : Params → Params) : (s.onAct f).sec = s.sec := rfl

/-! ### `onShd` -/

@[simp] theorem State.onShd_pending (f : Params → Params) : (s.onShd f).pending = s.pending := rfl
@[simp] theorem State.onShd_pm (f : Params → Params) : (s.onShd f).pm = s.pm := rfl
@[simp] theorem State.onShd_running (f : Params → Params) : (s.onShd f).running = s.running := rfl
@[simp] theorem State.onShd_free (f : Params → Params) : (s.onShd f).free = s.free := rfl
@[simp] theorem State.onShd_sys (f : Params → Params) : (s.onShd f).sys = s.sys := rfl
@[simp] theorem State.onShd_pwr (f : Params → Params) : (s.onShd f).pwr = s.pwr := rfl
@[simp] theorem State.onShd_pd0 (f : Params → Params) : (s.onShd f).pd0 = s.pd0 := rfl
@[simp] theorem State.onShd_nor (f : Params → Params) : (s.onShd f).nor = s.nor := rfl
@[simp] theorem State.onShd_act (f : Params → Params) : (s.onShd f).act = s.act := rfl
@[simp] theorem State.onShd_shd (f : Params → Params) : (s.onShd f).shd = f s.shd := rfl
@[simp] theorem State.onShd_host (f : Params → Params) : (s.onShd f).host = s.host := rfl
@[simp] theorem State.onShd_safe (f : Params → Params) : (s.onShd f).safe = s.safe := rfl
@[simp] theorem State.onShd_time (f : Params → Params) : (s.onShd f).time = s.time := rfl
@[simp] theorem State.onShd_gnss (f : Params → Params) : (s.onShd f).gnss = s.gnss := rfl
@[simp] theorem State.onShd_pos (f : Params → Params) : (s.onShd f).pos = s.pos := rfl
@[simp] theorem State.onShd_impl (f : Params → Params) : (s.onShd f).impl = s.impl := rfl
@[simp] theorem State.onShd_fe (f : Params → Params) : (s.onShd f).fe = s.fe := rfl
@[simp] theorem State.onShd_map (f : Params → Params) : (s.onShd f).map = s.map := rfl
@[simp] theorem State.onShd_vdr (f : Params → Params) : (s.onShd f).vdr = s.vdr := rfl
@[simp] theorem State.onShd_pwu (f : Params → Params) : (s.onShd f).pwu = s.pwu := rfl
@[simp] theorem State.onShd_ce (f : Params → Params) : (s.onShd f).ce = s.ce := rfl
@[simp] theorem State.onShd_pif (f : Params → Params) : (s.onShd f).pif = s.pif := rfl
@[simp] theorem State.onShd_lsw (f : Params → Params) : (s.onShd f).lsw = s.lsw := rfl
@[simp] theorem State.onShd_ths (f : Params → Params) : (s.onShd f).ths = s.ths := rfl
@[simp] theorem State.onShd_can (f : Params → Params) : (s.onShd f).can = s.can := rfl
@[simp] theorem State.onShd_sec (f : Params → Params) : (s.onShd f).sec = s.sec := rfl

/-! ### `onHost` -/

@[simp] theorem State.onHost_pending (f : HostSt → HostSt) : (s.onHost f).pending = s.pending := rfl
@[simp] theorem State.onHost_pm (f : HostSt → HostSt) : (s.onHost f).pm = s.pm := rfl
@[simp] theorem State.onHost_running (f : HostSt → HostSt) : (s.onHost f).running = s.running := rfl
@[simp] theorem State.onHost_free (f : HostSt → HostSt) : (s.onHost f).free = s.free := rfl
@[simp] theorem State.onHost_sys (f : HostSt → HostSt) : (s.onHost f).sys = s.sys := rfl
@[simp] theorem State.onHost_pwr (f : HostSt → HostSt) : (s.onHost f).pwr = s.pwr := rfl
@[simp] theorem State.onHost_pd0 (f : HostSt → HostSt) : (s.onHost f).pd0 = s.pd0 := rfl
@[simp] theorem State.onHost_nor (f : HostSt → HostSt) : (s.onHost f).nor = s.nor := rfl
@[simp] theorem State.onHost_act (f : HostSt → HostSt) : (s.onHost f).act = s.act := rfl
@[simp] theorem State.onHost_shd (f : HostSt → HostSt) : (s.onHost f).shd = s.shd := rfl
@[simp] theorem State.onHost_host (f : HostSt → HostSt) : (s.onHost f).host = f s.host := rfl
@[simp] theorem State.onHost_safe (f : HostSt → HostSt) : (s.onHost f).safe = s.safe := rfl
@[simp] theorem State.onHost_time (f : HostSt → HostSt) : (s.onHost f).time = s.time := rfl
@[simp] theorem State.onHost_gnss (f : HostSt → HostSt) : (s.onHost f).gnss = s.gnss := rfl
@[simp] theorem State.onHost_pos (f : HostSt → HostSt) : (s.onHost f).pos = s.pos := rfl
@[simp] theorem State.onHost_impl (f : HostSt → HostSt) : (s.onHost f).impl = s.impl := rfl
@[simp] theorem State.onHost_fe (f : HostSt → HostSt) : (s.onHost f).fe = s.fe := rfl
@[simp] theorem State.onHost_map (f : HostSt → HostSt) : (s.onHost f).map = s.map := rfl
@[simp] theorem State.onHost_vdr (f : HostSt → HostSt) : (s.onHost f).vdr = s.vdr := rfl
@[simp] theorem State.onHost_pwu (f : HostSt → HostSt) : (s.onHost f).pwu = s.pwu := rfl
@[simp] theorem State.onHost_ce (f : HostSt → HostSt) : (s.onHost f).ce = s.ce := rfl
@[simp] theorem State.onHost_pif (f : HostSt → HostSt) : (s.onHost f).pif = s.pif := rfl
@[simp] theorem State.onHost_lsw (f : HostSt → HostSt) : (s.onHost f).lsw = s.lsw := rfl
@[simp] theorem State.onHost_ths (f : HostSt → HostSt) : (s.onHost f).ths = s.ths := rfl
@[simp] theorem State.onHost_can (f : HostSt → HostSt) : (s.onHost f).can = s.can := rfl
@[simp] theorem State.onHost_sec (f : HostSt → HostSt) : (s.onHost f).sec = s.sec := rfl

/-! ### `onSafe` -/

@[simp] theorem State.onSafe_pending (f : SafeSt → SafeSt) : (s.onSafe f).pending = s.pending := rfl
@[simp] theorem State.onSafe_pm (f : SafeSt → SafeSt) : (s.onSafe f).pm = s.pm := rfl
@[simp] theorem State.onSafe_running (f : SafeSt → SafeSt) : (s.onSafe f).running = s.running := rfl
@[simp] theorem State.onSafe_free (f : SafeSt → SafeSt) : (s.onSafe f).free = s.free := rfl
@[simp] theorem State.onSafe_sys (f : SafeSt → SafeSt) : (s.onSafe f).sys = s.sys := rfl
@[simp] theorem State.onSafe_pwr (f : SafeSt → SafeSt) : (s.onSafe f).pwr = s.pwr := rfl
@[simp] theorem State.onSafe_pd0 (f : SafeSt → SafeSt) : (s.onSafe f).pd0 = s.pd0 := rfl
@[simp] theorem State.onSafe_nor (f : SafeSt → SafeSt) : (s.onSafe f).nor = s.nor := rfl
@[simp] theorem State.onSafe_act (f : SafeSt → SafeSt) : (s.onSafe f).act = s.act := rfl
@[simp] theorem State.onSafe_shd (f : SafeSt → SafeSt) : (s.onSafe f).shd = s.shd := rfl
@[simp] theorem State.onSafe_host (f : SafeSt → SafeSt) : (s.onSafe f).host = s.host := rfl
@[simp] theorem State.onSafe_safe (f : SafeSt → SafeSt) : (s.onSafe f).safe = f s.safe := rfl
@[simp] theorem State.onSafe_time (f : SafeSt → SafeSt) : (s.onSafe f).time = s.time := rfl
@[simp] theorem State.onSafe_gnss (f : SafeSt → SafeSt) : (s.onSafe f).gnss = s.gnss := rfl
@[simp] theorem State.onSafe_pos (f : SafeSt → SafeSt) : (s.onSafe f).pos = s.pos := rfl
@[simp] theorem State.onSafe_impl (f : SafeSt → SafeSt) : (s.onSafe f).impl = s.impl := rfl
@[simp] theorem State.onSafe_fe (f : SafeSt → SafeSt) : (s.onSafe f).fe = s.fe := rfl
@[simp] theorem State.onSafe_map (f : SafeSt → SafeSt) : (s.onSafe f).map = s.map := rfl
@[simp] theorem State.onSafe_vdr (f : SafeSt → SafeSt) : (s.onSafe f).vdr = s.vdr := rfl
@[simp] theorem State.onSafe_pwu (f : SafeSt → SafeSt) : (s.onSafe f).pwu = s.pwu := rfl
@[simp] theorem State.onSafe_ce (f : SafeSt → SafeSt) : (s.onSafe f).ce = s.ce := rfl
@[simp] theorem State.onSafe_pif (f : SafeSt → SafeSt) : (s.onSafe f).pif = s.pif := rfl
@[simp] theorem State.onSafe_lsw (f : SafeSt → SafeSt) : (s.onSafe f).lsw = s.lsw := rfl
@[simp] theorem State.onSafe_ths (f : SafeSt → SafeSt) : (s.onSafe f).ths = s.ths := rfl
@[simp] theorem State.onSafe_can (f : SafeSt → SafeSt) : (s.onSafe f).can = s.can := rfl
@[simp] theorem State.onSafe_sec (f : SafeSt → SafeSt) : (s.onSafe f).sec = s.sec := rfl

/-! ### `onTime` -/

@[simp] theorem State.onTime_pending (f : TimeSt → TimeSt) : (s.onTime f).pending = s.pending := rfl
@[simp] theorem State.onTime_pm (f : TimeSt → TimeSt) : (s.onTime f).pm = s.pm := rfl
@[simp] theorem State.onTime_running (f : TimeSt → TimeSt) : (s.onTime f).running = s.running := rfl
@[simp] theorem State.onTime_free (f : TimeSt → TimeSt) : (s.onTime f).free = s.free := rfl
@[simp] theorem State.onTime_sys (f : TimeSt → TimeSt) : (s.onTime f).sys = s.sys := rfl
@[simp] theorem State.onTime_pwr (f : TimeSt → TimeSt) : (s.onTime f).pwr = s.pwr := rfl
@[simp] theorem State.onTime_pd0 (f : TimeSt → TimeSt) : (s.onTime f).pd0 = s.pd0 := rfl
@[simp] theorem State.onTime_nor (f : TimeSt → TimeSt) : (s.onTime f).nor = s.nor := rfl
@[simp] theorem State.onTime_act (f : TimeSt → TimeSt) : (s.onTime f).act = s.act := rfl
@[simp] theorem State.onTime_shd (f : TimeSt → TimeSt) : (s.onTime f).shd = s.shd := rfl
@[simp] theorem State.onTime_host (f : TimeSt → TimeSt) : (s.onTime f).host = s.host := rfl
@[simp] theorem State.onTime_safe (f : TimeSt → TimeSt) : (s.onTime f).safe = s.safe := rfl
@[simp] theorem State.onTime_time (f : TimeSt → TimeSt) : (s.onTime f).time = f s.time := rfl
@[simp] theorem State.onTime_gnss (f : TimeSt → TimeSt) : (s.onTime f).gnss = s.gnss := rfl
@[simp] theorem State.onTime_pos (f : TimeSt → TimeSt) : (s.onTime f).pos = s.pos := rfl
@[simp] theorem State.onTime_impl (f : TimeSt → TimeSt) : (s.onTime f).impl = s.impl := rfl
@[simp] theorem State.onTime_fe (f : TimeSt → TimeSt) : (s.onTime f).fe = s.fe := rfl
@[simp] theorem State.onTime_map (f : TimeSt → TimeSt) : (s.onTime f).map = s.map := rfl
@[simp] theorem State.onTime_vdr (f : TimeSt → TimeSt) : (s.onTime f).vdr = s.vdr := rfl
@[simp] theorem State.onTime_pwu (f : TimeSt → TimeSt) : (s.onTime f).pwu = s.pwu := rfl
@[simp] theorem State.onTime_ce (f : TimeSt → TimeSt) : (s.onTime f).ce = s.ce := rfl
@[simp] theorem State.onTime_pif (f : TimeSt → TimeSt) : (s.onTime f).pif = s.pif := rfl
@[simp] theorem State.onTime_lsw (f : TimeSt → TimeSt) : (s.onTime f).lsw = s.lsw := rfl
@[simp] theorem State.onTime_ths (f : TimeSt → TimeSt) : (s.onTime f).ths = s.ths := rfl
@[simp] theorem State.onTime_can (f : TimeSt → TimeSt) : (s.onTime f).can = s.can := rfl
@[simp] theorem State.onTime_sec (f : TimeSt → TimeSt) : (s.onTime f).sec = s.sec := rfl

/-! ### `onGnss` -/

@[simp] theorem State.onGnss_pending (f : GnssSt → GnssSt) : (s.onGnss f).pending = s.pending := rfl
@[simp] theorem State.onGnss_pm (f : GnssSt → GnssSt) : (s.onGnss f).pm = s.pm := rfl
@[simp] theorem State.onGnss_running (f : GnssSt → GnssSt) : (s.onGnss f).running = s.running := rfl
@[simp] theorem State.onGnss_free (f : GnssSt → GnssSt) : (s.onGnss f).free = s.free := rfl
@[simp] theorem State.onGnss_sys (f : GnssSt → GnssSt) : (s.onGnss f).sys = s.sys := rfl
@[simp] theorem State.onGnss_pwr (f : GnssSt → GnssSt) : (s.onGnss f).pwr = s.pwr := rfl
@[simp] theorem State.onGnss_pd0 (f : GnssSt → GnssSt) : (s.onGnss f).pd0 = s.pd0 := rfl
@[simp] theorem State.onGnss_nor (f : GnssSt → GnssSt) : (s.onGnss f).nor = s.nor := rfl
@[simp] theorem State.onGnss_act (f : GnssSt → GnssSt) : (s.onGnss f).act = s.act := rfl
@[simp] theorem State.onGnss_shd (f : GnssSt → GnssSt) : (s.onGnss f).shd = s.shd := rfl
@[simp] theorem State.onGnss_host (f : GnssSt → GnssSt) : (s.onGnss f).host = s.host := rfl
@[simp] theorem State.onGnss_safe (f : GnssSt → GnssSt) : (s.onGnss f).safe = s.safe := rfl
@[simp] theorem State.onGnss_time (f : GnssSt → GnssSt) : (s.onGnss f).time = s.time := rfl
@[simp] theorem State.onGnss_gnss (f : GnssSt → GnssSt) : (s.onGnss f).gnss = f s.gnss := rfl
@[simp] theorem State.onGnss_pos (f : GnssSt → GnssSt) : (s.onGnss f).pos = s.pos := rfl
@[simp] theorem State.onGnss_impl (f : GnssSt → GnssSt) : (s.onGnss f).impl = s.impl := rfl
@[simp] theorem State.onGnss_fe (f : GnssSt → GnssSt) : (s.onGnss f).fe = s.fe := rfl
@[simp] theorem State.onGnss_map (f : GnssSt → GnssSt) : (s.onGnss f).map = s.map := rfl
@[simp] theorem State.onGnss_vdr (f : GnssSt → GnssSt) : (s.onGnss f).vdr = s.vdr := rfl
@[simp] theorem State.onGnss_pwu (f : GnssSt → GnssSt) : (s.onGnss f).pwu = s.pwu := rfl
@[simp] theorem State.onGnss_ce (f : GnssSt → GnssSt) : (s.onGnss f).ce = s.ce := rfl
@[simp] theorem State.onGnss_pif (f : GnssSt → GnssSt) : (s.onGnss f).pif = s.pif := rfl
@[simp] theorem State.onGnss_lsw (f : GnssSt → GnssSt) : (s.onGnss f).lsw = s.lsw := rfl
@[simp] theorem State.onGnss_ths (f : GnssSt → GnssSt) : (s.onGnss f).ths = s.ths := rfl
@[simp] theorem State.onGnss_can (f : GnssSt → GnssSt) : (s.onGnss f).can = s.can := rfl
@[simp] theorem State.onGnss_sec (f : GnssSt → GnssSt) : (s.onGnss f).sec = s.sec := rfl

/-! ### `onPos` -/

@[simp] theorem State.onPos_pending (f : PosSt → PosSt) : (s.onPos f).pending = s.pending := rfl
@[simp] theorem State.onPos_pm (f : PosSt → PosSt) : (s.onPos f).pm = s.pm := rfl
@[simp] theorem State.onPos_running (f : PosSt → PosSt) : (s.onPos f).running = s.running := rfl
@[simp] theorem State.onPos_free (f : PosSt → PosSt) : (s.onPos f).free = s.free := rfl
@[simp] theorem State.onPos_sys (f : PosSt → PosSt) : (s.onPos f).sys = s.sys := rfl
@[simp] theorem State.onPos_pwr (f : PosSt → PosSt) : (s.onPos f).pwr = s.pwr := rfl
@[simp] theorem State.onPos_pd0 (f : PosSt → PosSt) : (s.onPos f).pd0 = s.pd0 := rfl
@[simp] theorem State.onPos_nor (f : PosSt → PosSt) : (s.onPos f).nor = s.nor := rfl
@[simp] theorem State.onPos_act (f : PosSt → PosSt) : (s.onPos f).act = s.act := rfl
@[simp] theorem State.onPos_shd (f : PosSt → PosSt) : (s.onPos f).shd = s.shd := rfl
@[simp] theorem State.onPos_host (f : PosSt → PosSt) : (s.onPos f).host = s.host := rfl
@[simp] theorem State.onPos_safe (f : PosSt → PosSt) : (s.onPos f).safe = s.safe := rfl
@[simp] theorem State.onPos_time (f : PosSt → PosSt) : (s.onPos f).time = s.time := rfl
@[simp] theorem State.onPos_gnss (f : PosSt → PosSt) : (s.onPos f).gnss = s.gnss := rfl
@[simp] theorem State.onPos_pos (f : PosSt → PosSt) : (s.onPos f).pos = f s.pos := rfl
@[simp] theorem State.onPos_impl (f : PosSt → PosSt) : (s.onPos f).impl = s.impl := rfl
@[simp] theorem State.onPos_fe (f : PosSt → PosSt) : (s.onPos f).fe = s.fe := rfl
@[simp] theorem State.onPos_map (f : PosSt → PosSt) : (s.onPos f).map = s.map := rfl
@[simp] theorem State.onPos_vdr (f : PosSt → PosSt) : (s.onPos f).vdr = s.vdr := rfl
@[simp] theorem State.onPos_pwu (f : PosSt → PosSt) : (s.onPos f).pwu = s.pwu := rfl
@[simp] theorem State.onPos_ce (f : PosSt → PosSt) : (s.onPos f).ce = s.ce := rfl
@[simp] theorem State.onPos_pif (f : PosSt → PosSt) : (s.onPos f).pif = s.pif := rfl
@[simp] theorem State.onPos_lsw (f : PosSt → PosSt) : (s.onPos f).lsw = s.lsw := rfl
@[simp] theorem State.onPos_ths (f : PosSt → PosSt) : (s.onPos f).ths = s.ths := rfl
@[simp] theorem State.onPos_can (f : PosSt → PosSt) : (s.onPos f).can = s.can := rfl
@[simp] theorem State.onPos_sec (f : PosSt → PosSt) : (s.onPos f).sec = s.sec := rfl

/-! ### `onImpl` -/

@[simp] theorem State.onImpl_pending (f : ImplSt → ImplSt) : (s.onImpl f).pending = s.pending := rfl
@[simp] theorem State.onImpl_pm (f : ImplSt → ImplSt) : (s.onImpl f).pm = s.pm := rfl
@[simp] theorem State.onImpl_running (f : ImplSt → ImplSt) : (s.onImpl f).running = s.running := rfl
@[simp] theorem State.onImpl_free (f : ImplSt → ImplSt) : (s.onImpl f).free = s.free := rfl
@[simp] theorem State.onImpl_sys (f : ImplSt → ImplSt) : (s.onImpl f).sys = s.sys := rfl
@[simp] theorem State.onImpl_pwr (f : ImplSt → ImplSt) : (s.onImpl f).pwr = s.pwr := rfl
@[simp] theorem State.onImpl_pd0 (f : ImplSt → ImplSt) : (s.onImpl f).pd0 = s.pd0 := rfl
@[simp] theorem State.onImpl_nor (f : ImplSt → ImplSt) : (s.onImpl f).nor = s.nor := rfl
@[simp] theorem State.onImpl_act (f : ImplSt → ImplSt) : (s.onImpl f).act = s.act := rfl
@[simp] theorem State.onImpl_shd (f : ImplSt → ImplSt) : (s.onImpl f).shd = s.shd := rfl
@[simp] theorem State.onImpl_host (f : ImplSt → ImplSt) : (s.onImpl f).host = s.host := rfl
@[simp] theorem State.onImpl_safe (f : ImplSt → ImplSt) : (s.onImpl f).safe = s.safe := rfl
@[simp] theorem State.onImpl_time (f : ImplSt → ImplSt) : (s.onImpl f).time = s.time := rfl
@[simp] theorem State.onImpl_gnss (f : ImplSt → ImplSt) : (s.onImpl f).gnss = s.gnss := rfl
@[simp] theorem State.onImpl_pos (f : ImplSt → ImplSt) : (s.onImpl f).pos = s.pos := rfl
@[simp] theorem State.onImpl_impl (f : ImplSt → ImplSt) : (s.onImpl f).impl = f s.impl := rfl
@[simp] theorem State.onImpl_fe (f : ImplSt → ImplSt) : (s.onImpl f).fe = s.fe := rfl
@[simp] theorem State.onImpl_map (f : ImplSt → ImplSt) : (s.onImpl f).map = s.map := rfl
@[simp] theorem State.onImpl_vdr (f : ImplSt → ImplSt) : (s.onImpl f).vdr = s.vdr := rfl
@[simp] theorem State.onImpl_pwu (f : ImplSt → ImplSt) : (s.onImpl f).pwu = s.pwu := rfl
@[simp] theorem State.onImpl_ce (f : ImplSt → ImplSt) : (s.onImpl f).ce = s.ce := rfl
@[simp] theorem State.onImpl_pif (f : ImplSt → ImplSt) : (s.onImpl f).pif = s.pif := rfl
@[simp] theorem State.onImpl_lsw (f : ImplSt → ImplSt) : (s.onImpl f).lsw = s.lsw := rfl
@[simp] theorem State.onImpl_ths (f : ImplSt → ImplSt) : (s.onImpl f).ths = s.ths := rfl
@[simp] theorem State.onImpl_can (f : ImplSt → ImplSt) : (s.onImpl f).can = s.can := rfl
@[simp] theorem State.onImpl_sec (f : ImplSt → ImplSt) : (s.onImpl f).sec = s.sec := rfl

/-! ### `onFe` -/

@[simp] theorem State.onFe_pending (f : FeSt → FeSt) : (s.onFe f).pending = s.pending := rfl
@[simp] theorem State.onFe_pm (f : FeSt → FeSt) : (s.onFe f).pm = s.pm := rfl
@[simp] theorem State.onFe_running (f : FeSt → FeSt) : (s.onFe f).running = s.running := rfl
@[simp] theorem State.onFe_free (f : FeSt → FeSt) : (s.onFe f).free = s.free := rfl
@[simp] theorem State.onFe_sys (f : FeSt → FeSt) : (s.onFe f).sys = s.sys := rfl
@[simp] theorem State.onFe_pwr (f : FeSt → FeSt) : (s.onFe f).pwr = s.pwr := rfl
@[simp] theorem State.onFe_pd0 (f : FeSt → FeSt) : (s.onFe f).pd0 = s.pd0 := rfl
@[simp] theorem State.onFe_nor (f : FeSt → FeSt) : (s.onFe f).nor = s.nor := rfl
@[simp] theorem State.onFe_act (f : FeSt → FeSt) : (s.onFe f).act = s.act := rfl
@[simp] theorem State.onFe_shd (f : FeSt → FeSt) : (s.onFe f).shd = s.shd := rfl
@[simp] theorem State.onFe_host (f : FeSt → FeSt) : (s.onFe f).host = s.host := rfl
@[simp] theorem State.onFe_safe (f : FeSt → FeSt) : (s.onFe f).safe = s.safe := rfl
@[simp] theorem State.onFe_time (f : FeSt → FeSt) : (s.onFe f).time = s.time := rfl
@[simp] theorem State.onFe_gnss (f : FeSt → FeSt) : (s.onFe f).gnss = s.gnss := rfl
@[simp] theorem State.onFe_pos (f : FeSt → FeSt) : (s.onFe f).pos = s.pos := rfl
@[simp] theorem State.onFe_impl (f : FeSt → FeSt) : (s.onFe f).impl = s.impl := rfl
@[simp] theorem State.onFe_fe (f : FeSt → FeSt) : (s.onFe f).fe = f s.fe := rfl
@[simp] theorem State.onFe_map (f : FeSt → FeSt) : (s.onFe f).map = s.map := rfl
@[simp] theorem State.onFe_vdr (f : FeSt → FeSt) : (s.onFe f).vdr = s.vdr := rfl
@[simp] theorem State.onFe_pwu (f : FeSt → FeSt) : (s.onFe f).pwu = s.pwu := rfl
@[simp] theorem State.onFe_ce (f : FeSt → FeSt) : (s.onFe f).ce = s.ce := rfl
@[simp] theorem State.onFe_pif (f : FeSt → FeSt) : (s.onFe f).pif = s.pif := rfl
@[simp] theorem State.onFe_lsw (f : FeSt → FeSt) : (s.onFe f).lsw = s.lsw := rfl
@[simp] theorem State.onFe_ths (f : FeSt → FeSt) : (s.onFe f).ths = s.ths := rfl
@[simp] theorem State.onFe_can (f : FeSt → FeSt) : (s.onFe f).can = s.can := rfl
@[simp] theorem State.onFe_sec (f : FeSt → FeSt) : (s.onFe f).sec = s.sec := rfl

/-! ### `onMap` -/

@[simp] theorem State.onMap_pending (f : MapSt → MapSt) : (s.onMap f).pending = s.pending := rfl
@[simp] theorem State.onMap_pm (f : MapSt → MapSt) : (s.onMap f).pm = s.pm := rfl
@[simp] theorem State.onMap_running (f : MapSt → MapSt) : (s.onMap f).running = s.running := rfl
@[simp] theorem State.onMap_free (f : MapSt → MapSt) : (s.onMap f).free = s.free := rfl
@[simp] theorem State.onMap_sys (f : MapSt → MapSt) : (s.onMap f).sys = s.sys := rfl
@[simp] theorem State.onMap_pwr (f : MapSt → MapSt) : (s.onMap f).pwr = s.pwr := rfl
@[simp] theorem State.onMap_pd0 (f : MapSt → MapSt) : (s.onMap f).pd0 = s.pd0 := rfl
@[simp] theorem State.onMap_nor (f : MapSt → MapSt) : (s.onMap f).nor = s.nor := rfl
@[simp] theorem State.onMap_act (f : MapSt → MapSt) : (s.onMap f).act = s.act := rfl
@[simp] theorem State.onMap_shd (f : MapSt → MapSt) : (s.onMap f).shd = s.shd := rfl
@[simp] theorem State.onMap_host (f : MapSt → MapSt) : (s.onMap f).host = s.host := rfl
@[simp] theorem State.onMap_safe (f : MapSt → MapSt) : (s.onMap f).safe = s.safe := rfl
@[simp] theorem State.onMap_time (f : MapSt → MapSt) : (s.onMap f).time = s.time := rfl
@[simp] theorem State.onMap_gnss (f : MapSt → MapSt) : (s.onMap f).gnss = s.gnss := rfl
@[simp] theorem State.onMap_pos (f : MapSt → MapSt) : (s.onMap f).pos = s.pos := rfl
@[simp] theorem State.onMap_impl (f : MapSt → MapSt) : (s.onMap f).impl = s.impl := rfl
@[simp] theorem State.onMap_fe (f : MapSt → MapSt) : (s.onMap f).fe = s.fe := rfl
@[simp] theorem State.onMap_map (f : MapSt → MapSt) : (s.onMap f).map = f s.map := rfl
@[simp] theorem State.onMap_vdr (f : MapSt → MapSt) : (s.onMap f).vdr = s.vdr := rfl
@[simp] theorem State.onMap_pwu (f : MapSt → MapSt) : (s.onMap f).pwu = s.pwu := rfl
@[simp] theorem State.onMap_ce (f : MapSt → MapSt) : (s.onMap f).ce = s.ce := rfl
@[simp] theorem State.onMap_pif (f : MapSt → MapSt) : (s.onMap f).pif = s.pif := rfl
@[simp] theorem State.onMap_lsw (f : MapSt → MapSt) : (s.onMap f).lsw = s.lsw := rfl
@[simp] theorem State.onMap_ths (f : MapSt → MapSt) : (s.onMap f).ths = s.ths := rfl
@[simp] theorem State.onMap_can (f : MapSt → MapSt) : (s.onMap f).can = s.can := rfl
@[simp] theorem State.onMap_sec (f : MapSt → MapSt) : (s.onMap f).sec = s.sec := rfl

/-! ### `onVdr` -/

@[simp] theorem State.onVdr_pending (f : VdrSt → VdrSt) : (s.onVdr f).pending = s.pending := rfl
@[simp] theorem State.onVdr_pm (f : VdrSt → VdrSt) : (s.onVdr f).pm = s.pm := rfl
@[simp] theorem State.onVdr_running (f : VdrSt → VdrSt) : (s.onVdr f).running = s.running := rfl
@[simp] theorem State.onVdr_free (f : VdrSt → VdrSt) : (s.onVdr f).free = s.free := rfl
@[simp] theorem State.onVdr_sys (f : VdrSt → VdrSt) : (s.onVdr f).sys = s.sys := rfl
@[simp] theorem State.onVdr_pwr (f : VdrSt → VdrSt) : (s.onVdr f).pwr = s.pwr := rfl
@[simp] theorem State.onVdr_pd0 (f : VdrSt → VdrSt) : (s.onVdr f).pd0 = s.pd0 := rfl
@[simp] theorem State.onVdr_nor (f : VdrSt → VdrSt) : (s.onVdr f).nor = s.nor := rfl
@[simp] theorem State.onVdr_act (f : VdrSt → VdrSt) : (s.onVdr f).act = s.act := rfl
@[simp] theorem State.onVdr_shd (f : VdrSt → VdrSt) : (s.onVdr f).shd = s.shd := rfl
@[simp] theorem State.onVdr_host (f : VdrSt → VdrSt) : (s.onVdr f).host = s.host := rfl
@[simp] theorem State.onVdr_safe (f : VdrSt → VdrSt) : (s.onVdr f).safe = s.safe := rfl
@[simp] theorem State.onVdr_time (f : VdrSt → VdrSt) : (s.onVdr f).time = s.time := rfl
@[simp] theorem State.onVdr_gnss (f : VdrSt → VdrSt) : (s.onVdr f).gnss = s.gnss := rfl
@[simp] theorem State.onVdr_pos (f : VdrSt → VdrSt) : (s.onVdr f).pos = s.pos := rfl
@[simp] theorem State.onVdr_impl (f : VdrSt → VdrSt) : (s.onVdr f).impl = s.impl := rfl
@[simp] theorem State.onVdr_fe (f : VdrSt → VdrSt) : (s.onVdr f).fe = s.fe := rfl
@[simp] theorem State.onVdr_map (f : VdrSt → VdrSt) : (s.onVdr f).map = s.map := rfl
@[simp] theorem State.onVdr_vdr (f : VdrSt → VdrSt) : (s.onVdr f).vdr = f s.vdr := rfl
@[simp] theorem State.onVdr_pwu (f : VdrSt → VdrSt) : (s.onVdr f).pwu = s.pwu := rfl
@[simp] theorem State.onVdr_ce (f : VdrSt → VdrSt) : (s.onVdr f).ce = s.ce := rfl
@[simp] theorem State.onVdr_pif (f : VdrSt → VdrSt) : (s.onVdr f).pif = s.pif := rfl
@[simp] theorem State.onVdr_lsw (f : VdrSt → VdrSt) : (s.onVdr f).lsw = s.lsw := rfl
@[simp] theorem State.onVdr_ths (f : VdrSt → VdrSt) : (s.onVdr f).ths = s.ths := rfl
@[simp] theorem State.onVdr_can (f : VdrSt → VdrSt) : (s.onVdr f).can = s.can := rfl
@[simp] theorem State.onVdr_sec (f : VdrSt → VdrSt) : (s.onVdr f).sec = s.sec := rfl

/-! ### `onPwu` -/

@[simp] theorem State.onPwu_pending (f : PwuSt → PwuSt) : (s.onPwu f).pending = s.pending := rfl
@[simp] theorem State.onPwu_pm (f : PwuSt → PwuSt) : (s.onPwu f).pm = s.pm := rfl
@[simp] theorem State.onPwu_running (f : PwuSt → PwuSt) : (s.onPwu f).running = s.running := rfl
@[simp] theorem State.onPwu_free (f : PwuSt → PwuSt) : (s.onPwu f).free = s.free := rfl
@[simp] theorem State.onPwu_sys (f : PwuSt → PwuSt) : (s.onPwu f).sys = s.sys := rfl
@[simp] theorem State.onPwu_pwr (f : PwuSt → PwuSt) : (s.onPwu f).pwr = s.pwr := rfl
@[simp] theorem State.onPwu_pd0 (f : PwuSt → PwuSt) : (s.onPwu f).pd0 = s.pd0 := rfl
@[simp] theorem State.onPwu_nor (f : PwuSt → PwuSt) : (s.onPwu f).nor = s.nor := rfl
@[simp] theorem State.onPwu_act (f : PwuSt → PwuSt) : (s.onPwu f).act = s.act := rfl
@[simp] theorem State.onPwu_shd (f : PwuSt → PwuSt) : (s.onPwu f).shd = s.shd := rfl
@[simp] theorem State.onPwu_host (f : PwuSt → PwuSt) : (s.onPwu f).host = s.host := rfl
@[simp] theorem State.onPwu_safe (f : PwuSt → PwuSt) : (s.onPwu f).safe = s.safe := rfl
@[simp] theorem State.onPwu_time (f : PwuSt → PwuSt) : (s.onPwu f).time = s.time := rfl
@[simp] theorem State.onPwu_gnss (f : PwuSt → PwuSt) : (s.onPwu f).gnss = s.gnss := rfl
@[simp] theorem State.onPwu_pos (f : PwuSt → PwuSt) : (s.onPwu f).pos = s.pos := rfl
@[simp] theorem State.onPwu_impl (f : PwuSt → PwuSt) : (s.onPwu f).impl = s.impl := rfl
@[simp] theorem State.onPwu_fe (f : PwuSt → PwuSt) : (s.onPwu f).fe = s.fe := rfl
@[simp] theorem State.onPwu_map (f : PwuSt → PwuSt) : (s.onPwu f).map = s.map := rfl
@[simp] theorem State.onPwu_vdr (f : PwuSt → PwuSt) : (s.onPwu f).vdr = s.vdr := rfl
@[simp] theorem State.onPwu_pwu (f : PwuSt → PwuSt) : (s.onPwu f).pwu = f s.pwu := rfl
@[simp] theorem State.onPwu_ce (f : PwuSt → PwuSt) : (s.onPwu f).ce = s.ce := rfl
@[simp] theorem State.onPwu_pif (f : PwuSt → PwuSt) : (s.onPwu f).pif = s.pif := rfl
@[simp] theorem State.onPwu_lsw (f : PwuSt → PwuSt) : (s.onPwu f).lsw = s.lsw := rfl
@[simp] theorem State.onPwu_ths (f : PwuSt → PwuSt) : (s.onPwu f).ths = s.ths := rfl
@[simp] theorem State.onPwu_can (f : PwuSt → PwuSt) : (s.onPwu f).can = s.can := rfl
@[simp] theorem State.onPwu_sec (f : PwuSt → PwuSt) : (s.onPwu f).sec = s.sec := rfl

/-! ### `onCe` -/

@[simp] theorem State.onCe_pending (f : CeSt → CeSt) : (s.onCe f).pending = s.pending := rfl
@[simp] theorem State.onCe_pm (f : CeSt → CeSt) : (s.onCe f).pm = s.pm := rfl
@[simp] theorem State.onCe_running (f : CeSt → CeSt) : (s.onCe f).running = s.running := rfl
@[simp] theorem State.onCe_free (f : CeSt → CeSt) : (s.onCe f).free = s.free := rfl
@[simp] theorem State.onCe_sys (f : CeSt → CeSt) : (s.onCe f).sys = s.sys := rfl
@[simp] theorem State.onCe_pwr (f : CeSt → CeSt) : (s.onCe f).pwr = s.pwr := rfl
@[simp] theorem State.onCe_pd0 (f : CeSt → CeSt) : (s.onCe f).pd0 = s.pd0 := rfl
@[simp] theorem State.onCe_nor (f : CeSt → CeSt) : (s.onCe f).nor = s.nor := rfl
@[simp] theorem State.onCe_act (f : CeSt → CeSt) : (s.onCe f).act = s.act := rfl
@[simp] theorem State.onCe_shd (f : CeSt → CeSt) : (s.onCe f).shd = s.shd := rfl
@[simp] theorem State.onCe_host (f : CeSt → CeSt) : (s.onCe f).host = s.host := rfl
@[simp] theorem State.onCe_safe (f : CeSt → CeSt) : (s.onCe f).safe = s.safe := rfl
@[simp] theorem State.onCe_time (f : CeSt → CeSt) : (s.onCe f).time = s.time := rfl
@[simp] theorem State.onCe_gnss (f : CeSt → CeSt) : (s.onCe f).gnss = s.gnss := rfl
@[simp] theorem State.onCe_pos (f : CeSt → CeSt) : (s.onCe f).pos = s.pos := rfl
@[simp] theorem State.onCe_impl (f : CeSt → CeSt) : (s.onCe f).impl = s.impl := rfl
@[simp] theorem State.onCe_fe (f : CeSt → CeSt) : (s.onCe f).fe = s.fe := rfl
@[simp] theorem State.onCe_map (f : CeSt → CeSt) : (s.onCe f).map = s.map := rfl
@[simp] theorem State.onCe_vdr (f : CeSt → CeSt) : (s.onCe f).vdr = s.vdr := rfl
@[simp] theorem State.onCe_pwu (f : CeSt → CeSt) : (s.onCe f).pwu = s.pwu := rfl
@[simp] theorem State.onCe_ce (f : CeSt → CeSt) : (s.onCe f).ce = f s.ce := rfl
@[simp] theorem State.onCe_pif (f : CeSt → CeSt) : (s.onCe f).pif = s.pif := rfl
@[simp] theorem State.onCe_lsw (f : CeSt → CeSt) : (s.onCe f).lsw = s.lsw := rfl
@[simp] theorem State.onCe_ths (f : CeSt → CeSt) : (s.onCe f).ths = s.ths := rfl
@[simp] theorem State.onCe_can (f : CeSt → CeSt) : (s.onCe f).can = s.can := rfl
@[simp] theorem State.onCe_sec (f : CeSt → CeSt) : (s.onCe f).sec = s.sec := rfl

/-! ### `onPif` -/

@[simp] theorem State.onPif_pending (f : PifSt → PifSt) : (s.onPif f).pending = s.pending := rfl
@[simp] theorem State.onPif_pm (f : PifSt → PifSt) : (s.onPif f).pm = s.pm := rfl
@[simp] theorem State.onPif_running (f : PifSt → PifSt) : (s.onPif f).running = s.running := rfl
@[simp] theorem State.onPif_free (f : PifSt → PifSt) : (s.onPif f).free = s.free := rfl
@[simp] theorem State.onPif_sys (f : PifSt → PifSt) : (s.onPif f).sys = s.sys := rfl
@[simp] theorem State.onPif_pwr (f : PifSt → PifSt) : (s.onPif f).pwr = s.pwr := rfl
@[simp] theorem State.onPif_pd0 (f : PifSt → PifSt) : (s.onPif f).pd0 = s.pd0 := rfl
@[simp] theorem State.onPif_nor (f : PifSt → PifSt) : (s.onPif f).nor = s.nor := rfl
@[simp] theorem State.onPif_act (f : PifSt → PifSt) : (s.onPif f).act = s.act := rfl
@[simp] theorem State.onPif_shd (f : PifSt → PifSt) : (s.onPif f).shd = s.shd := rfl
@[simp] theorem State.onPif_host (f : PifSt → PifSt) : (s.onPif f).host = s.host := rfl
@[simp] theorem State.onPif_safe (f : PifSt → PifSt) : (s.onPif f).safe = s.safe := rfl
@[simp] theorem State.onPif_time (f : PifSt → PifSt) : (s.onPif f).time = s.time := rfl
@[simp] theorem State.onPif_gnss (f : PifSt → PifSt) : (s.onPif f).gnss = s.gnss := rfl
@[simp] theorem State.onPif_pos (f : PifSt → PifSt) : (s.onPif f).pos = s.pos := rfl
@[simp] theorem State.onPif_impl (f : PifSt → PifSt) : (s.onPif f).impl = s.impl := rfl
@[simp] theorem State.onPif_fe (f : PifSt → PifSt) : (s.onPif f).fe = s.fe := rfl
@[simp] theorem State.onPif_map (f : PifSt → PifSt) : (s.onPif f).map = s.map := rfl
@[simp] theorem State.onPif_vdr (f : PifSt → PifSt) : (s.onPif f).vdr = s.vdr := rfl
@[simp] theorem State.onPif_pwu (f : PifSt → PifSt) : (s.onPif f).pwu = s.pwu := rfl
@[simp] theorem State.onPif_ce (f : PifSt → PifSt) : (s.onPif f).ce = s.ce := rfl
@[simp] theorem State.onPif_pif (f : PifSt → PifSt) : (s.onPif f).pif = f s.pif := rfl
@[simp] theorem State.onPif_lsw (f : PifSt → PifSt) : (s.onPif f).lsw = s.lsw := rfl
@[simp] theorem State.onPif_ths (f : PifSt → PifSt) : (s.onPif f).ths = s.ths := rfl
@[simp] theorem State.onPif_can (f : PifSt → PifSt) : (s.onPif f).can = s.can := rfl
@[simp] theorem State.onPif_sec (f : PifSt → PifSt) : (s.onPif f).sec = s.sec := rfl

/-! ### `onLsw` -/

@[simp] theorem State.onLsw_pending (f : LswSt → LswSt) : (s.onLsw f).pending = s.pending := rfl
@[simp] theorem State.onLsw_pm (f : LswSt → LswSt) : (s.onLsw f).pm = s.pm := rfl
@[simp] theorem State.onLsw_running (f : LswSt → LswSt) : (s.onLsw f).running = s.running := rfl
@[simp] theorem State.onLsw_free (f : LswSt → LswSt) : (s.onLsw f).free = s.free := rfl
@[simp] theorem State.onLsw_sys (f : LswSt → LswSt) : (s.onLsw f).sys = s.sys := rfl
@[simp] theorem State.onLsw_pwr (f : LswSt → LswSt) : (s.onLsw f).pwr = s.pwr := rfl
@[simp] theorem State.onLsw_pd0 (f : LswSt → LswSt) : (s.onLsw f).pd0 = s.pd0 := rfl
@[simp] theorem State.onLsw_nor (f : LswSt → LswSt) : (s.onLsw f).nor = s.nor := rfl
@[simp] theorem State.onLsw_act (f : LswSt → LswSt) : (s.onLsw f).act = s.act := rfl
@[simp] theorem State.onLsw_shd (f : LswSt → LswSt) : (s.onLsw f).shd = s.shd := rfl
@[simp] theorem State.onLsw_host (f : LswSt → LswSt) : (s.onLsw f).host = s.host := rfl
@[simp] theorem State.onLsw_safe (f : LswSt → LswSt) : (s.onLsw f).safe = s.safe := rfl
@[simp] theorem State.onLsw_time (f : LswSt → LswSt) : (s.onLsw f).time = s.time := rfl
@[simp] theorem State.onLsw_gnss (f : LswSt → LswSt) : (s.onLsw f).gnss = s.gnss := rfl
@[simp] theorem State.onLsw_pos (f : LswSt → LswSt) : (s.onLsw f).pos = s.pos := rfl
@[simp] theorem State.onLsw_impl (f : LswSt → LswSt) : (s.onLsw f).impl = s.impl := rfl
@[simp] theorem State.onLsw_fe (f : LswSt → LswSt) : (s.onLsw f).fe = s.fe := rfl
@[simp] theorem State.onLsw_map (f : LswSt → LswSt) : (s.onLsw f).map = s.map := rfl
@[simp] theorem State.onLsw_vdr (f : LswSt → LswSt) : (s.onLsw f).vdr = s.vdr := rfl
@[simp] theorem State.onLsw_pwu (f : LswSt → LswSt) : (s.onLsw f).pwu = s.pwu := rfl
@[simp] theorem State.onLsw_ce (f : LswSt → LswSt) : (s.onLsw f).ce = s.ce := rfl
@[simp] theorem State.onLsw_pif (f : LswSt → LswSt) : (s.onLsw f).pif = s.pif := rfl
@[simp] theorem State.onLsw_lsw (f : LswSt → LswSt) : (s.onLsw f).lsw = f s.lsw := rfl
@[simp] theorem State.onLsw_ths (f : LswSt → LswSt) : (s.onLsw f).ths = s.ths := rfl
@[simp] theorem State.onLsw_can (f : LswSt → LswSt) : (s.onLsw f).can = s.can := rfl
@[simp] theorem State.onLsw_sec (f : LswSt → LswSt) : (s.onLsw f).sec = s.sec := rfl

/-! ### `onThs` -/

@[simp] theorem State.onThs_pending (f : ThsSt → ThsSt) : (s.onThs f).pending = s.pending := rfl
@[simp] theorem State.onThs_pm (f : ThsSt → ThsSt) : (s.onThs f).pm = s.pm := rfl
@[simp] theorem State.onThs_running (f : ThsSt → ThsSt) : (s.onThs f).running = s.running := rfl
@[simp] theorem State.onThs_free (f : ThsSt → ThsSt) : (s.onThs f).free = s.free := rfl
@[simp] theorem State.onThs_sys (f : ThsSt → ThsSt) : (s.onThs f).sys = s.sys := rfl
@[simp] theorem State.onThs_pwr (f : ThsSt → ThsSt) : (s.onThs f).pwr = s.pwr := rfl
@[simp] theorem State.onThs_pd0 (f : ThsSt → ThsSt) : (s.onThs f).pd0 = s.pd0 := rfl
@[simp] theorem State.onThs_nor (f : ThsSt → ThsSt) : (s.onThs f).nor = s.nor := rfl
@[simp] theorem State.onThs_act (f : ThsSt → ThsSt) : (s.onThs f).act = s.act := rfl
@[simp] theorem State.onThs_shd (f : ThsSt → ThsSt) : (s.onThs f).shd = s.shd := rfl
@[simp] theorem State.onThs_host (f : ThsSt → ThsSt) : (s.onThs f).host = s.host := rfl
@[simp] theorem State.onThs_safe (f : ThsSt → ThsSt) : (s.onThs f).safe = s.safe := rfl
@[simp] theorem State.onThs_time (f : ThsSt → ThsSt) : (s.onThs f).time = s.time := rfl
@[simp] theorem State.onThs_gnss (f : ThsSt → ThsSt) : (s.onThs f).gnss = s.gnss := rfl
@[simp] theorem State.onThs_pos (f : ThsSt → ThsSt) : (s.onThs f).pos = s.pos := rfl
@[simp] theorem State.onThs_impl (f : ThsSt → ThsSt) : (s.onThs f).impl = s.impl := rfl
@[simp] theorem State.onThs_fe (f : ThsSt → ThsSt) : (s.onThs f).fe = s.fe := rfl
@[simp] theorem State.onThs_map (f : ThsSt → ThsSt) : (s.onThs f).map = s.map := rfl
@[simp] theorem State.onThs_vdr (f : ThsSt → ThsSt) : (s.onThs f).vdr = s.vdr := rfl
@[simp] theorem State.onThs_pwu (f : ThsSt → ThsSt) : (s.onThs f).pwu = s.pwu := rfl
@[simp] theorem State.onThs_ce (f : ThsSt → ThsSt) : (s.onThs f).ce = s.ce := rfl
@[simp] theorem State.onThs_pif (f : ThsSt → ThsSt) : (s.onThs f).pif = s.pif := rfl
@[simp] theorem State.onThs_lsw (f : ThsSt → ThsSt) : (s.onThs f).lsw = s.lsw := rfl
@[simp] theorem State.onThs_ths (f : ThsSt → ThsSt) : (s.onThs f).ths = f s.ths := rfl
@[simp] theorem State.onThs_can (f : ThsSt → ThsSt) : (s.onThs f).can = s.can := rfl
@[simp] theorem State.onThs_sec (f : ThsSt → ThsSt) : (s.onThs f).sec = s.sec := rfl

/-! ### `onCan` -/

@[simp] theorem State.onCan_pending (f : CanSt → CanSt) : (s.onCan f).pending = s.pending := rfl
@[simp] theorem State.onCan_pm (f : CanSt → CanSt) : (s.onCan f).pm = s.pm := rfl
@[simp] theorem State.onCan_running (f : CanSt → CanSt) : (s.onCan f).running = s.running := rfl
@[simp] theorem State.onCan_free (f : CanSt → CanSt) : (s.onCan f).free = s.free := rfl
@[simp] theorem State.onCan_sys (f : CanSt → CanSt) : (s.onCan f).sys = s.sys := rfl
@[simp] theorem State.onCan_pwr (f : CanSt → CanSt) : (s.onCan f).pwr = s.pwr := rfl
@[simp] theorem State.onCan_pd0 (f : CanSt → CanSt) : (s.onCan f).pd0 = s.pd0 := rfl
@[simp] theorem State.onCan_nor (f : CanSt → CanSt) : (s.onCan f).nor = s.nor := rfl
@[simp] theorem State.onCan_act (f : CanSt → CanSt) : (s.onCan f).act = s.act := rfl
@[simp] theorem State.onCan_shd (f : CanSt → CanSt) : (s.onCan f).shd = s.shd := rfl
@[simp] theorem State.onCan_host (f : CanSt → CanSt) : (s.onCan f).host = s.host := rfl
@[simp] theorem State.onCan_safe (f : CanSt → CanSt) : (s.onCan f).safe = s.safe := rfl
@[simp] theorem State.onCan_time (f : CanSt → CanSt) : (s.onCan f).time = s.time := rfl
@[simp] theorem State.onCan_gnss (f : CanSt → CanSt) : (s.onCan f).gnss = s.gnss := rfl
@[simp] theorem State.onCan_pos (f : CanSt → CanSt) : (s.onCan f).pos = s.pos := rfl
@[simp] theorem State.onCan_impl (f : CanSt → CanSt) : (s.onCan f).impl = s.impl := rfl
@[simp] theorem State.onCan_fe (f : CanSt → CanSt) : (s.onCan f).fe = s.fe := rfl
@[simp] theorem State.onCan_map (f : CanSt → CanSt) : (s.onCan f).map = s.map := rfl
@[simp] theorem State.onCan_vdr (f : CanSt → CanSt) : (s.onCan f).vdr = s.vdr := rfl
@[simp] theorem State.onCan_pwu (f : CanSt → CanSt) : (s.onCan f).pwu = s.pwu := rfl
@[simp] theorem State.onCan_ce (f : CanSt → CanSt) : (s.onCan f).ce = s.ce := rfl
@[simp] theorem State.onCan_pif (f : CanSt → CanSt) : (s.onCan f).pif = s.pif := rfl
@[simp] theorem State.onCan_lsw (f : CanSt → CanSt) : (s.onCan f).lsw = s.lsw := rfl
@[simp] theorem State.onCan_ths (f : CanSt → CanSt) : (s.onCan f).ths = s.ths := rfl
@[simp] theorem State.onCan_can (f : CanSt → CanSt) : (s.onCan f).can = f s.can := rfl
@[simp] theorem State.onCan_sec (f : CanSt → CanSt) : (s.onCan f).sec = s.sec := rfl

/-! ### `onSec` -/

@[simp] theorem State.onSec_pending (f : SecSt → SecSt) : (s.onSec f).pending = s.pending := rfl
@[simp] theorem State.onSec_pm (f : SecSt → SecSt) : (s.onSec f).pm = s.pm := rfl
@[simp] theorem State.onSec_running (f : SecSt → SecSt) : (s.onSec f).running = s.running := rfl
@[simp] theorem State.onSec_free (f : SecSt → SecSt) : (s.onSec f).free = s.free := rfl
@[simp] theorem State.onSec_sys (f : SecSt → SecSt) : (s.onSec f).sys = s.sys := rfl
@[simp] theorem State.onSec_pwr (f : SecSt → SecSt) : (s.onSec f).pwr = s.pwr := rfl
@[simp] theorem State.onSec_pd0 (f : SecSt → SecSt) : (s.onSec f).pd0 = s.pd0 := rfl
@[simp] theorem State.onSec_nor (f : SecSt → SecSt) : (s.onSec f).nor = s.nor := rfl
@[simp] theorem State.onSec_act (f : SecSt → SecSt) : (s.onSec f).act = s.act := rfl
@[simp] theorem State.onSec_shd (f : SecSt → SecSt) : (s.onSec f).shd = s.shd := rfl
@[simp] theorem State.onSec_host (f : SecSt → SecSt) : (s.onSec f).host = s.host := rfl
@[simp] theorem State.onSec_safe (f : SecSt → SecSt) : (s.onSec f).safe = s.safe := rfl
@[simp] theorem State.onSec_time (f : SecSt → SecSt) : (s.onSec f).time = s.time := rfl
@[simp] theorem State.onSec_gnss (f : SecSt → SecSt) : (s.onSec f).gnss = s.gnss := rfl
@[simp] theorem State.onSec_pos (f : SecSt → SecSt) : (s.onSec f).pos = s.pos := rfl
@[simp] theorem State.onSec_impl (f : SecSt → SecSt) : (s.onSec f).impl = s.impl := rfl
@[simp] theorem State.onSec_fe (f : SecSt → SecSt) : (s.onSec f).fe = s.fe := rfl
@[simp] theorem State.onSec_map (f : SecSt → SecSt) : (s.onSec f).map = s.map := rfl
@[simp] theorem State.onSec_vdr (f : SecSt → SecSt) : (s.onSec f).vdr = s.vdr := rfl
@[simp] theorem State.onSec_pwu (f : SecSt → SecSt) : (s.onSec f).pwu = s.pwu := rfl
@[simp] theorem State.onSec_ce (f : SecSt → SecSt) : (s.onSec f).ce = s.ce := rfl
@[simp] theorem State.onSec_pif (f : SecSt → SecSt) : (s.onSec f).pif = s.pif := rfl
@[simp] theorem State.onSec_lsw (f : SecSt → SecSt) : (s.onSec f).lsw = s.lsw := rfl
@[simp] theorem State.onSec_ths (f : SecSt → SecSt) : (s.onSec f).ths = s.ths := rfl
@[simp] theorem State.onSec_can (f : SecSt → SecSt) : (s.onSec f).can = s.can := rfl
@[simp] theorem State.onSec_sec (f : SecSt → SecSt) : (s.onSec f).sec = f s.sec := rfl

/-! ### Choices, folds and record updates -/

@[simp] theorem State.pending_ite {c : Prop} [Decidable c] (a b : State) : (if c then a else b).pending = if c then a.pending else b.pending := apply_ite State.pending c a b
@[simp] theorem State.pm_ite {c : Prop} [Decidable c] (a b : State) : (if c then a else b).pm = if c then a.pm else b.pm := apply_ite State.pm c a b
@[simp] theorem State.running_ite {c : Prop} [Decidable c] (a b : State) : (if c then a else b).running = if c then a.running else b.running := apply_ite State.running c a b
@[simp] theorem State.free_ite {c : Prop} [Decidable c] (a b : State) : (if c then a else b).free = if c then a.free else b.free := apply_ite State.free c a b
@[simp] theorem State.sys_ite {c : Prop} [Decidable c] (a b : State) : (if c then a else b).sys = if c then a.sys else b.sys := apply_ite State.sys c a b
@[simp] theorem State.pwr_ite {c : Prop} [Decidable c] (a b : State) : (if c then a else b).pwr = if c then a.pwr else b.pwr := apply_ite State.pwr c a b
@[simp] theorem State.pd0_ite {c : Prop} [Decidable c] (a b : State) : (if c then a else b).pd0 = if c then a.pd0 else b.pd0 := apply_ite State.pd0 c a b
@[simp] theorem State.nor_ite {c : Prop} [Decidable c] (a b : State) : (if c then a else b).nor = if c then a.nor else b.nor := apply_ite State.nor c a b
@[simp] theorem State.act_ite {c : Prop} [Decidable c] (a b : State) : (if c then a else b).act = if c then a.act else b.act := apply_ite State.act c a b
@[simp] theorem State.shd_ite {c : Prop} [Decidable c] (a b : State) : (if c then a else b).shd = if c then a.shd else b.shd := apply_ite State.shd c a b
@[simp] theorem State.host_ite {c : Prop} [Decidable c] (a b : State) : (if c then a else b).host = if c then a.host else b.host := apply_ite State.host c a b
@[simp] theorem State.safe_ite {c : Prop} [Decidable c] (a b : State) : (if c then a else b).safe = if c then a.safe else b.safe := apply_ite State.safe c a b
@[simp] theorem State.time_ite {c : Prop} [Decidable c] (a b : State) : (if c then a else b).time = if c then a.time else b.time := apply_ite State.time c a b
@[simp] theorem State.gnss_ite {c : Prop} [Decidable c] (a b : State) : (if c then a else b).gnss = if c then a.gnss else b.gnss := apply_ite State.gnss c a b
@[simp] theorem State.pos_ite {c : Prop} [Decidable c] (a b : State) : (if c then a else b).pos = if c then a.pos else b.pos := apply_ite State.pos c a b
@[simp] theorem State.impl_ite {c : Prop} [Decidable c] (a b : State) : (if c then a else b).impl = if c then a.impl else b.impl := apply_ite State.impl c a b
@[simp] theorem State.fe_ite {c : Prop} [Decidable c] (a b : State) : (if c then a else b).fe = if c then a.fe else b.fe := apply_ite State.fe c a b
@[simp] theorem State.map_ite {c : Prop} [Decidable c] (a b : State) : (if c then a else b).map = if c then a.map else b.map := apply_ite State.map c a b
@[simp] theorem State.vdr_ite {c : Prop} [Decidable c] (a b : State) : (if c then a else b).vdr = if c then a.vdr else b.vdr := apply_ite State.vdr c a b
@[simp] theorem State.pwu_ite {c : Prop} [Decidable c] (a b : State) : (if c then a else b).pwu = if c then a.pwu else b.pwu := apply_ite State.pwu c a b
@[simp] theorem State.ce_ite {c : Prop} [Decidable c] (a b : State) : (if c then a else b).ce = if c then a.ce else b.ce := apply_ite State.ce c a b
@[simp] theorem State.pif_ite {c : Prop} [Decidable c] (a b : State) : (if c then a else b).pif = if c then a.pif else b.pif := apply_ite State.pif c a b
@[simp] theorem State.lsw_ite {c : Prop} [Decidable c] (a b : State) : (if c then a else b).lsw = if c then a.lsw else b.lsw := apply_ite State.lsw c a b
@[simp] theorem State.ths_ite {c : Prop} [Decidable c] (a b : State) : (if c then a else b).ths = if c then a.ths else b.ths := apply_ite State.ths c a b
@[simp] theorem State.can_ite {c : Prop} [Decidable c] (a b : State) : (if c then a else b).can = if c then a.can else b.can := apply_ite State.can c a b
@[simp] theorem State.sec_ite {c : Prop} [Decidable c] (a b : State) : (if c then a else b).sec = if c then a.sec else b.sec := apply_ite State.sec c a b

@[simp] theorem State.pending_foldl {α : Type} (g : State → α → State) (l : List α) (s : State) (h : ∀ t a, (g t a).pending = t.pending) :
    (l.foldl g s).pending = s.pending := by induction l generalizing s with
  | nil => rfl
  | cons a l ih => rw [List.foldl_cons, ih, h]

@[simp] theorem State.pm_foldl {α : Type} (g : State → α → State) (l : List α) (s : State) (h : ∀ t a, (g t a).pm = t.pm) :
    (l.foldl g s).pm = s.pm := by induction l generalizing s with
  | nil => rfl
  | cons a l ih => rw [List.foldl_cons, ih, h]

@[simp] theorem State.running_foldl {α : Type} (g : State → α → State) (l : List α) (s : State) (h : ∀ t a, (g t a).running = t.running) :
    (l.foldl g s).running = s.running := by induction l generalizing s with
  | nil => rfl
  | cons a l ih => rw [List.foldl_cons, ih, h]

@[simp] theorem State.free_foldl {α : Type} (g : State → α → State) (l : List α) (s : State) (h : ∀ t a, (g t a).free = t.free) :
    (l.foldl g s).free = s.free := by induction l generalizing s with
  | nil => rfl
  | cons a l ih => rw [List.foldl_cons, ih, h]

@[simp] theorem State.sys_foldl {α : Type} (g : State → α → State) (l : List α) (s : State) (h : ∀ t a, (g t a).sys = t.sys) :
    (l.foldl g s).sys = s.sys := by induction l generalizing s with
  | nil => rfl
  | cons a l ih => rw [List.foldl_cons, ih, h]

@[simp] theorem State.pwr_foldl {α : Type} (g : State → α → State) (l : List α) (s : State) (h : ∀ t a, (g t a).pwr = t.pwr) :
    (l.foldl g s).pwr = s.pwr := by induction l generalizing s with
  | nil => rfl
  | cons a l ih => rw [List.foldl_cons, ih, h]

@[simp] theorem State.pd0_foldl {α : Type} (g : State → α → State) (l : List α) (s : State) (h : ∀ t a, (g t a).pd0 = t.pd0) :
    (l.foldl g s).pd0 = s.pd0 := by induction l generalizing s with
  | nil => rfl
  | cons a l ih => rw [List.foldl_cons, ih, h]

@[simp] theorem State.nor_foldl {α : Type} (g : State → α → State) (l : List α) (s : State) (h : ∀ t a, (g t a).nor = t.nor) :
    (l.foldl g s).nor = s.nor := by induction l generalizing s with
  | nil => rfl
  | cons a l ih => rw [List.foldl_cons, ih, h]

@[simp] theorem State.act_foldl {α : Type} (g : State → α → State) (l : List α) (s : State) (h : ∀ t a, (g t a).act = t.act) :
    (l.foldl g s).act = s.act := by induction l generalizing s with
  | nil => rfl
  | cons a l ih => rw [List.foldl_cons, ih, h]

@[simp] theorem State.shd_foldl {α : Type} (g : State → α → State) (l : List α) (s : State) (h : ∀ t a, (g t a).shd = t.shd) :
    (l.foldl g s).shd = s.shd := by induction l generalizing s with
  | nil => rfl
  | cons a l ih => rw [List.foldl_cons, ih, h]

@[simp] theorem State.host_foldl {α : Type} (g : State → α → State) (l : List α) (s : State) (h : ∀ t a, (g t a).host = t.host) :
    (l.foldl g s).host = s.host := by induction l generalizing s with
  | nil => rfl
  | cons a l ih => rw [List.foldl_cons, ih, h]

@[simp] theorem State.safe_foldl {α : Type} (g : State → α → State) (l : List α) (s : State) (h : ∀ t a, (g t a).safe = t.safe) :
    (l.foldl g s).safe = s.safe := by induction l generalizing s with
  | nil => rfl
  | cons a l ih => rw [List.foldl_cons, ih, h]

@[simp] theorem State.time_foldl {α : Type} (g : State → α → State) (l : List α) (s : State) (h : ∀ t a, (g t a).time = t.time) :
    (l.foldl g s).time = s.time := by induction l generalizing s with
  | nil => rfl
  | cons a l ih => rw [List.foldl_cons, ih, h]

@[simp] theorem State.gnss_foldl {α : Type} (g : State → α → State) (l : List α) (s : State) (h : ∀ t a, (g t a).gnss = t.gnss) :
    (l.foldl g s).gnss = s.gnss := by induction l generalizing s with
  | nil => rfl
  | cons a l ih => rw [List.foldl_cons, ih, h]

@[simp] theorem State.pos_foldl {α : Type} (g : State → α → State) (l : List α) (s : State) (h : ∀ t a, (g t a).pos = t.pos) :
    (l.foldl g s).pos = s.pos := by induction l generalizing s with
  | nil => rfl
  | cons a l ih => rw [List.foldl_cons, ih, h]

@[simp] theorem State.impl_foldl {α : Type} (g : State → α → State) (l : List α) (s : State) (h : ∀ t a, (g t a).impl = t.impl) :
    (l.foldl g s).impl = s.impl := by induction l generalizing s with
  | nil => rfl
  | cons a l ih => rw [List.foldl_cons, ih, h]

@[simp] theorem State.fe_foldl {α : Type} (g : State → α → State) (l : List α) (s : State) (h : ∀ t a, (g t a).fe = t.fe) :
    (l.foldl g s).fe = s.fe := by induction l generalizing s with
  | nil => rfl
  | cons a l ih => rw [List.foldl_cons, ih, h]

@[simp] theorem State.map_foldl {α : Type} (g : State → α → State) (l : List α) (s : State) (h : ∀ t a, (g t a).map = t.map) :
    (l.foldl g s).map = s.map := by induction l generalizing s with
  | nil => rfl
  | cons a l ih => rw [List.foldl_cons, ih, h]

@[simp] theorem State.vdr_foldl {α : Type} (g : State → α → State) (l : List α) (s : State) (h : ∀ t a, (g t a).vdr = t.vdr) :
    (l.foldl g s).vdr = s.vdr := by induction l generalizing s with
  | nil => rfl
  | cons a l ih => rw [List.foldl_cons, ih, h]

@[simp] theorem State.pwu_foldl {α : Type} (g : State → α → State) (l : List α) (s : State) (h : ∀ t a, (g t a).pwu = t.pwu) :
    (l.foldl g s).pwu = s.pwu := by induction l generalizing s with
  | nil => rfl
  | cons a l ih => rw [List.foldl_cons, ih, h]

@[simp] theorem State.ce_foldl {α : Type} (g : State → α → State) (l : List α) (s : State) (h : ∀ t a, (g t a).ce = t.ce) :
    (l.foldl g s).ce = s.ce := by induction l generalizing s with
  | nil => rfl
  | cons a l ih => rw [List.foldl_cons, ih, h]

@[simp] theorem State.pif_foldl {α : Type} (g : State → α → State) (l : List α) (s : State) (h : ∀ t a, (g t a).pif = t.pif) :
    (l.foldl g s).pif = s.pif := by induction l generalizing s with
  | nil => rfl
  | cons a l ih => rw [List.foldl_cons, ih, h]

@[simp] theorem State.lsw_foldl {α : Type} (g : State → α → State) (l : List α) (s : State) (h : ∀ t a, (g t a).lsw = t.lsw) :
    (l.foldl g s).lsw = s.lsw := by induction l generalizing s with
  | nil => rfl
  | cons a l ih => rw [List.foldl_cons, ih, h]

@[simp] theorem State.ths_foldl {α : Type} (g : State → α → State) (l : List α) (s : State) (h : ∀ t a, (g t a).ths = t.ths) :
    (l.foldl g s).ths = s.ths := by induction l generalizing s with
  | nil => rfl
  | cons a l ih => rw [List.foldl_cons, ih, h]

@[simp] theorem State.can_foldl {α : Type} (g : State → α → State) (l : List α) (s : State) (h : ∀ t a, (g t a).can = t.can) :
    (l.foldl g s).can = s.can := by induction l generalizing s with
  | nil => rfl
  | cons a l ih => rw [List.foldl_cons, ih, h]

@[simp] theorem State.sec_foldl {α : Type} (g : State → α → State) (l : List α) (s : State) (h : ∀ t a, (g t a).sec = t.sec) :
    (l.foldl g s).sec = s.sec := by induction l generalizing s with
  | nil => rfl
  | cons a l ih => rw [List.foldl_cons, ih, h]

end Sys2Proof.Machine
end

