-- ==== Sys2Proof/Laws/Only.lean ====
section
/-! SUPPORT. `Only`: how it composes through choices, folds and the update of one part. -/

set_option Elab.async false

namespace Sys2Proof.Machine

variable {l l' : List Part} {s s0 t : State}

theorem Part.same_refl (p : Part) (s : State) : p.same s s := by cases p <;> rfl

theorem Part.same_trans (p : Part) (h : p.same s0 s) (k : p.same s t) : p.same s0 t := by
  cases p <;> exact Eq.trans k h

theorem Only.refl (l : List Part) (s : State) : Only l s s := ⟨fun p _ => p.same_refl s⟩

/-- What changes only some of the parts may follow what changed only these parts. -/
theorem Only.andThen (h : Only l s0 s) (k : Only l' s t) (hl : l' ⊆ l) : Only l s0 t :=
  ⟨fun p hp => p.same_trans (h.same p hp) (k.same p fun hq => hp (hl hq))⟩

theorem Only.ite {c : Prop} [Decidable c] {a b : State} (ha : Only l s a) (hb : Only l s b) :
    Only l s (if c then a else b) := by split <;> assumption

theorem Only.iteFst {α : Type} {c : Prop} [Decidable c] {a b : State × α} (ha : Only l s a.1) (hb : Only l s b.1) :
    Only l s (if c then a else b).1 := by split <;> assumption

theorem Only.iteSnd {α : Type} {c : Prop} [Decidable c] {a b : α × State} (ha : Only l s a.2) (hb : Only l s b.2) :
    Only l s (if c then a else b).2 := by split <;> assumption

theorem Only.foldl {α : Type} {g : State → α → State} {x : List α} (hg : ∀ t a, Only l t (g t a)) (h : Only l s0 s) :
    Only l s0 (x.foldl g s) := by
  induction x generalizing s with
  | nil => exact h
  | cons a x ih => exact ih (h.andThen (hg s a) (List.Subset.refl l))

/-- A fold whose accumulator carries the state in its first component. -/
theorem Only.foldlFst {α β : Type} {g : State × β → α → State × β} {x : List α} {b : β}
    (hg : ∀ t b a, Only l t (g (t, b) a).1) (h : Only l s0 s) : Only l s0 (x.foldl g (s, b)).1 := by
  induction x generalizing s b with
  | nil => exact h
  | cons a x ih => exact ih (b := (g (s, b) a).2) (h.andThen (hg s b a) (List.Subset.refl l))

/-- The same of an answered step. -/
def OnlyR (l : List Part) (s : State) (r : Result) : Prop := ∀ t, r = .next t → Only l s t

theorem OnlyR.next {a : State} (h : Only l s a) : OnlyR l s (.next a) := fun _ e => by cases e; exact h

theorem OnlyR.ite {c : Prop} [Decidable c] {a b : Result} (ha : OnlyR l s a) (hb : OnlyR l s b) :
    OnlyR l s (if c then a else b) := by split <;> assumption

theorem State.onSys_only (s : State) (f) : Only [.sys] s (s.onSys f) := ⟨fun p hp => by cases p <;> first | rfl | exact absurd (by decide) hp⟩
theorem State.onPwr_only (s : State) (f) : Only [.pwr] s (s.onPwr f) := ⟨fun p hp => by cases p <;> first | rfl | exact absurd (by decide) hp⟩
theorem State.onPd0_only (s : State) (f) : Only [.pd0] s (s.onPd0 f) := ⟨fun p hp => by cases p <;> first | rfl | exact absurd (by decide) hp⟩
theorem State.onNor_only (s : State) (f) : Only [.nor] s (s.onNor f) := ⟨fun p hp => by cases p <;> first | rfl | exact absurd (by decide) hp⟩
theorem State.onAct_only (s : State) (f) : Only [.act] s (s.onAct f) := ⟨fun p hp => by cases p <;> first | rfl | exact absurd (by decide) hp⟩
theorem State.onShd_only (s : State) (f) : Only [.shd] s (s.onShd f) := ⟨fun p hp => by cases p <;> first | rfl | exact absurd (by decide) hp⟩
theorem State.onHost_only (s : State) (f) : Only [.host] s (s.onHost f) := ⟨fun p hp => by cases p <;> first | rfl | exact absurd (by decide) hp⟩
theorem State.onSafe_only (s : State) (f) : Only [.safe] s (s.onSafe f) := ⟨fun p hp => by cases p <;> first | rfl | exact absurd (by decide) hp⟩
theorem State.onTime_only (s : State) (f) : Only [.time] s (s.onTime f) := ⟨fun p hp => by cases p <;> first | rfl | exact absurd (by decide) hp⟩
theorem State.onGnss_only (s : State) (f) : Only [.gnss] s (s.onGnss f) := ⟨fun p hp => by cases p <;> first | rfl | exact absurd (by decide) hp⟩
theorem State.onPos_only (s : State) (f) : Only [.pos] s (s.onPos f) := ⟨fun p hp => by cases p <;> first | rfl | exact absurd (by decide) hp⟩
theorem State.onImpl_only (s : State) (f) : Only [.impl] s (s.onImpl f) := ⟨fun p hp => by cases p <;> first | rfl | exact absurd (by decide) hp⟩
theorem State.onFe_only (s : State) (f) : Only [.fe] s (s.onFe f) := ⟨fun p hp => by cases p <;> first | rfl | exact absurd (by decide) hp⟩
theorem State.onMap_only (s : State) (f) : Only [.map] s (s.onMap f) := ⟨fun p hp => by cases p <;> first | rfl | exact absurd (by decide) hp⟩
theorem State.onVdr_only (s : State) (f) : Only [.vdr] s (s.onVdr f) := ⟨fun p hp => by cases p <;> first | rfl | exact absurd (by decide) hp⟩
theorem State.onPwu_only (s : State) (f) : Only [.pwu] s (s.onPwu f) := ⟨fun p hp => by cases p <;> first | rfl | exact absurd (by decide) hp⟩
theorem State.onCe_only (s : State) (f) : Only [.ce] s (s.onCe f) := ⟨fun p hp => by cases p <;> first | rfl | exact absurd (by decide) hp⟩
theorem State.onPif_only (s : State) (f) : Only [.pif] s (s.onPif f) := ⟨fun p hp => by cases p <;> first | rfl | exact absurd (by decide) hp⟩
theorem State.onLsw_only (s : State) (f) : Only [.lsw] s (s.onLsw f) := ⟨fun p hp => by cases p <;> first | rfl | exact absurd (by decide) hp⟩
theorem State.onThs_only (s : State) (f) : Only [.ths] s (s.onThs f) := ⟨fun p hp => by cases p <;> first | rfl | exact absurd (by decide) hp⟩
theorem State.onCan_only (s : State) (f) : Only [.can] s (s.onCan f) := ⟨fun p hp => by cases p <;> first | rfl | exact absurd (by decide) hp⟩
theorem State.onSec_only (s : State) (f) : Only [.sec] s (s.onSec f) := ⟨fun p hp => by cases p <;> first | rfl | exact absurd (by decide) hp⟩
theorem State.pending_only (s : State) (x) : Only [.pending] s { s with pending := x } := ⟨fun p hp => by cases p <;> first | rfl | exact absurd (by decide) hp⟩
theorem State.pm_only (s : State) (x) : Only [.pm] s { s with pm := x } := ⟨fun p hp => by cases p <;> first | rfl | exact absurd (by decide) hp⟩
theorem State.running_only (s : State) (x) : Only [.running] s { s with running := x } := ⟨fun p hp => by cases p <;> first | rfl | exact absurd (by decide) hp⟩
theorem State.free_only (s : State) (x) : Only [.free] s { s with free := x } := ⟨fun p hp => by cases p <;> first | rfl | exact absurd (by decide) hp⟩
theorem State.sys_only (s : State) (x) : Only [.sys] s { s with sys := x } := ⟨fun p hp => by cases p <;> first | rfl | exact absurd (by decide) hp⟩
theorem State.pwr_only (s : State) (x) : Only [.pwr] s { s with pwr := x } := ⟨fun p hp => by cases p <;> first | rfl | exact absurd (by decide) hp⟩
theorem State.pd0_only (s : State) (x) : Only [.pd0] s { s with pd0 := x } := ⟨fun p hp => by cases p <;> first | rfl | exact absurd (by decide) hp⟩
theorem State.nor_only (s : State) (x) : Only [.nor] s { s with nor := x } := ⟨fun p hp => by cases p <;> first | rfl | exact absurd (by decide) hp⟩
theorem State.act_only (s : State) (x) : Only [.act] s { s with act := x } := ⟨fun p hp => by cases p <;> first | rfl | exact absurd (by decide) hp⟩
theorem State.shd_only (s : State) (x) : Only [.shd] s { s with shd := x } := ⟨fun p hp => by cases p <;> first | rfl | exact absurd (by decide) hp⟩
theorem State.host_only (s : State) (x) : Only [.host] s { s with host := x } := ⟨fun p hp => by cases p <;> first | rfl | exact absurd (by decide) hp⟩
theorem State.safe_only (s : State) (x) : Only [.safe] s { s with safe := x } := ⟨fun p hp => by cases p <;> first | rfl | exact absurd (by decide) hp⟩
theorem State.time_only (s : State) (x) : Only [.time] s { s with time := x } := ⟨fun p hp => by cases p <;> first | rfl | exact absurd (by decide) hp⟩
theorem State.gnss_only (s : State) (x) : Only [.gnss] s { s with gnss := x } := ⟨fun p hp => by cases p <;> first | rfl | exact absurd (by decide) hp⟩
theorem State.pos_only (s : State) (x) : Only [.pos] s { s with pos := x } := ⟨fun p hp => by cases p <;> first | rfl | exact absurd (by decide) hp⟩
theorem State.impl_only (s : State) (x) : Only [.impl] s { s with impl := x } := ⟨fun p hp => by cases p <;> first | rfl | exact absurd (by decide) hp⟩
theorem State.fe_only (s : State) (x) : Only [.fe] s { s with fe := x } := ⟨fun p hp => by cases p <;> first | rfl | exact absurd (by decide) hp⟩
theorem State.map_only (s : State) (x) : Only [.map] s { s with map := x } := ⟨fun p hp => by cases p <;> first | rfl | exact absurd (by decide) hp⟩
theorem State.vdr_only (s : State) (x) : Only [.vdr] s { s with vdr := x } := ⟨fun p hp => by cases p <;> first | rfl | exact absurd (by decide) hp⟩
theorem State.pwu_only (s : State) (x) : Only [.pwu] s { s with pwu := x } := ⟨fun p hp => by cases p <;> first | rfl | exact absurd (by decide) hp⟩
theorem State.ce_only (s : State) (x) : Only [.ce] s { s with ce := x } := ⟨fun p hp => by cases p <;> first | rfl | exact absurd (by decide) hp⟩
theorem State.pif_only (s : State) (x) : Only [.pif] s { s with pif := x } := ⟨fun p hp => by cases p <;> first | rfl | exact absurd (by decide) hp⟩
theorem State.lsw_only (s : State) (x) : Only [.lsw] s { s with lsw := x } := ⟨fun p hp => by cases p <;> first | rfl | exact absurd (by decide) hp⟩
theorem State.ths_only (s : State) (x) : Only [.ths] s { s with ths := x } := ⟨fun p hp => by cases p <;> first | rfl | exact absurd (by decide) hp⟩
theorem State.can_only (s : State) (x) : Only [.can] s { s with can := x } := ⟨fun p hp => by cases p <;> first | rfl | exact absurd (by decide) hp⟩
theorem State.sec_only (s : State) (x) : Only [.sec] s { s with sec := x } := ⟨fun p hp => by cases p <;> first | rfl | exact absurd (by decide) hp⟩

end Sys2Proof.Machine
end

