-- ==== Sys2Proof/Laws/OpsOnly.lean ====
section
/-! SUPPORT. What the operations of Machine/Ops.lean may change: for each the parts beyond which nothing moves. -/

set_option Elab.async false

namespace Sys2Proof.Machine

/-- What is done at an earlier instant changes no more than it does there. -/
theorem asAt_only {l : List Part} (t : Tick) {f : State → State} {s : State} (h : Only l { s with pm := t } (f { s with pm := t })) :
    Only l s (asAt t f s) :=
  ⟨fun p hp => by cases p <;> first | rfl | exact h.same _ hp⟩

theorem queueNotice_only (n : Notice) (s : State) : Only [.host] s (queueNotice n s) := by
  unfold queueNotice
  repeat' first
    | with_reducible exact Only.refl _ _
    | with_reducible refine Only.ite ?_ ?_
    | with_reducible refine Only.andThen ?_ (State.onHost_only _ _) (by decide)

theorem noticeAt_only (b : Block) (code idx : Nat) (pm : Tick) (body : List Byte) (s : State) : Only [.sys, .host] s (noticeAt b code idx pm body s) := by
  unfold noticeAt
  repeat' first
    | with_reducible exact Only.refl _ _
    | with_reducible refine Only.ite ?_ ?_
    | with_reducible refine Only.andThen ?_ (queueNotice_only ..) (by decide)
    | with_reducible refine Only.andThen ?_ (State.onSys_only _ _) (by decide)
    | dsimp only
    | split

theorem notice_only (b : Block) (code idx : Nat) (body : List Byte) (s : State) : Only [.sys, .host] s (notice b code idx body s) := by
  unfold notice
  repeat' first
    | with_reducible exact Only.refl _ _
    | with_reducible refine Only.ite ?_ ?_
    | with_reducible refine Only.andThen ?_ (noticeAt_only ..) (by decide)

theorem noticeNow_only (b : Block) (code idx : Nat) (pm : Tick) (body : List Byte) (s : State) : Only [.host] s (noticeNow b code idx pm body s) := by
  unfold noticeNow
  repeat' first
    | with_reducible exact Only.refl _ _
    | with_reducible refine Only.ite ?_ ?_
    | with_reducible refine Only.andThen ?_ (queueNotice_only ..) (by decide)

theorem flushNotices_only (s : State) : Only [.sys, .host] s (flushNotices s) := by
  unfold flushNotices
  repeat' first
    | with_reducible exact Only.refl _ _
    | with_reducible refine Only.ite ?_ ?_
    | with_reducible refine Only.andThen ?_ (queueNotice_only ..) (by decide)
    | with_reducible refine Only.andThen ?_ (State.onSys_only _ _) (by decide)
    | with_reducible refine Only.foldlFst (fun _ _ _ => ?_) ?_
    | with_reducible refine Only.foldl (fun _ _ => ?_) ?_

theorem logFault_only (cause : Nat) (b : Block) (index reaction restarts detail : Nat) (s : State) : Only [.sys, .pd0, .host] s (logFault cause b index reaction restarts detail s) := by
  unfold logFault
  repeat' first
    | with_reducible exact Only.refl _ _
    | with_reducible refine Only.ite ?_ ?_
    | with_reducible refine Only.andThen ?_ (notice_only ..) (by decide)
    | with_reducible refine Only.andThen ?_ (noticeNow_only ..) (by decide)
    | with_reducible refine Only.andThen ?_ (State.onPd0_only _ _) (by decide)

theorem endFault_only (cause index : Nat) (s : State) : Only [.sys, .pd0, .host] s (endFault cause index s) := by
  unfold endFault
  repeat' first
    | with_reducible exact Only.refl _ _
    | with_reducible refine Only.ite ?_ ?_
    | with_reducible refine Only.andThen ?_ (notice_only ..) (by decide)
    | with_reducible refine Only.andThen ?_ (State.onPd0_only _ _) (by decide)
    | with_reducible refine Only.foldlFst (fun _ _ _ => ?_) ?_
    | with_reducible refine Only.foldl (fun _ _ => ?_) ?_

theorem sealBlock_only (s : State) : Only [.sys, .pd0, .host, .map] s (sealBlock s) := by
  unfold sealBlock
  repeat' first
    | with_reducible exact Only.refl _ _
    | with_reducible refine Only.ite ?_ ?_
    | with_reducible refine Only.andThen ?_ (notice_only ..) (by decide)
    | with_reducible refine Only.andThen ?_ (State.onPd0_only _ _) (by decide)
    | with_reducible refine Only.andThen ?_ (State.onMap_only _ _) (by decide)

theorem openBlock_only (s : State) : Only [.sys, .host, .map] s (openBlock s) := by
  unfold openBlock
  repeat' first
    | with_reducible exact Only.refl _ _
    | with_reducible refine Only.ite ?_ ?_
    | with_reducible refine Only.andThen ?_ (notice_only ..) (by decide)
    | with_reducible refine Only.andThen ?_ (State.onMap_only _ _) (by decide)
    | dsimp only
    | split

theorem appendRecord_only (r : BitVec 256) (s : State) : Only [.sys, .pd0, .host, .map] s (appendRecord r s) := by
  unfold appendRecord
  repeat' first
    | with_reducible exact Only.refl _ _
    | with_reducible refine Only.ite ?_ ?_
    | with_reducible refine Only.andThen ?_ (openBlock_only ..) (by decide)
    | with_reducible refine Only.andThen ?_ (sealBlock_only ..) (by decide)
    | with_reducible refine Only.andThen ?_ (State.onMap_only _ _) (by decide)

theorem writeLog_only (r : BitVec 256) (s : State) : Only [.sys, .pd0, .host, .map] s (writeLog r s) := by
  unfold writeLog
  repeat' first
    | with_reducible exact Only.refl _ _
    | with_reducible refine Only.ite ?_ ?_
    | with_reducible refine Only.andThen ?_ (appendRecord_only ..) (by decide)
    | with_reducible refine Only.andThen ?_ (State.onMap_only _ _) (by decide)

theorem drainStage_only (s : State) : Only [.sys, .pd0, .host, .map] s (drainStage s) := by
  unfold drainStage
  repeat' first
    | with_reducible exact Only.refl _ _
    | with_reducible refine Only.ite ?_ ?_
    | with_reducible refine Only.andThen ?_ (appendRecord_only ..) (by decide)
    | with_reducible refine Only.andThen ?_ (State.onMap_only _ _) (by decide)
    | with_reducible refine Only.foldlFst (fun _ _ _ => ?_) ?_
    | with_reducible refine Only.foldl (fun _ _ => ?_) ?_

theorem paintGap_only (index reason : Nat) (first last count : Nat) (s : State) : Only [.sys, .pd0, .host, .map] s (paintGap index reason first last count s) := by
  unfold paintGap
  repeat' first
    | with_reducible exact Only.refl _ _
    | with_reducible refine Only.ite ?_ ?_
    | with_reducible refine Only.andThen ?_ (writeLog_only ..) (by decide)

theorem waitEdge_only (opcode : BitVec 16) (e : Env) (acts : List EdgeAct) (s : State) : Only [.sys] s (waitEdge opcode e acts s) := by
  unfold waitEdge
  repeat' first
    | with_reducible exact Only.refl _ _
    | with_reducible refine Only.ite ?_ ?_
    | with_reducible refine Only.andThen ?_ (State.onSys_only _ _) (by decide)

theorem cancelEdges_only (s : State) : Only [.sys, .host, .lsw] s (cancelEdges s) := by
  unfold cancelEdges
  repeat' first
    | with_reducible exact Only.refl _ _
    | with_reducible refine Only.ite ?_ ?_
    | with_reducible refine Only.andThen ?_ (noticeNow_only ..) (by decide)
    | with_reducible refine Only.andThen ?_ (State.onSys_only _ _) (by decide)
    | with_reducible refine Only.andThen ?_ (State.onLsw_only _ _) (by decide)
    | with_reducible refine Only.foldlFst (fun _ _ _ => ?_) ?_
    | with_reducible refine Only.foldl (fun _ _ => ?_) ?_
    | dsimp only
    | split

theorem deny_only (st : Status) (s : State) : Only [] s (deny st s).1 := by
  unfold deny
  repeat' first
    | with_reducible exact Only.refl _ _

theorem done_only (s : State) : Only [] s (done s).1 := by
  unfold done
  repeat' first
    | with_reducible exact Only.refl _ _

theorem doneWith_only (d : List Byte) (s : State) : Only [] s (doneWith d s).1 := by
  unfold doneWith
  repeat' first
    | with_reducible exact Only.refl _ _

theorem doneEdge_only (s0 s : State) : Only [] s (doneEdge s0 s).1 := by
  unfold doneEdge
  repeat' first
    | with_reducible exact Only.refl _ _

end Sys2Proof.Machine
end

