-- ==== Sys2Proof/Laws/MapStoreOnly.lean ====
section
/-! SUPPORT. What the operations of Machine/MapStore.lean may change: for each the parts beyond which nothing moves. -/

set_option Elab.async false

namespace Sys2Proof.Machine

theorem onSwatch_only (layer : Nat) (tx ty : Int) (f : Swatch → Swatch) (s : State) : Only [.map] s (onSwatch layer tx ty f s) := by
  unfold onSwatch
  try extract_lets
  repeat' first
    | with_reducible exact Only.refl _ _
    | with_reducible refine Only.ite ?_ ?_
    | (guard_target = Only _ _ (State.onMap ..); with_reducible refine Only.andThen ?_ (State.onMap_only _ _) (by decide))

theorem onTint_only (layer : Nat) (tx ty : Int) (f : Tint → Tint) (s : State) : Only [.map] s (onTint layer tx ty f s) := by
  unfold onTint
  try extract_lets
  repeat' first
    | with_reducible exact Only.refl _ _
    | with_reducible refine Only.ite ?_ ?_
    | (guard_target = Only _ _ (State.onMap ..); with_reducible refine Only.andThen ?_ (State.onMap_only _ _) (by decide))

theorem poolLow_only (s : State) : Only [.sys, .host, .map] s (poolLow s) := by
  unfold poolLow
  try extract_lets
  repeat' first
    | with_reducible exact Only.refl _ _
    | with_reducible refine Only.ite ?_ ?_
    | (guard_target = Only _ _ (notice ..); with_reducible refine Only.andThen ?_ (notice_only ..) (by decide))
    | (guard_target = Only _ _ (State.onMap ..); with_reducible refine Only.andThen ?_ (State.onMap_only _ _) (by decide))
    | extract_lets
    | dsimp only
    | split
    | dsimp +zetaDelta only

theorem allocSwatch_only {layer : Nat} {tx ty : Int} {s t : State} (h : allocSwatch layer tx ty s = some t) :
    Only [.sys, .host, .map] s t := by
  unfold allocSwatch at h
  dsimp only at h
  split at h
  · cases h
  · split at h
    · cases h
    · cases h
      exact Only.andThen (Only.andThen (Only.refl _ _) (State.onMap_only _ _) (by decide)) (poolLow_only ..) (by decide)

theorem touchLine_only (k : LineKey) (dirty : Bool) (s : State) : Only [.map] s (touchLine k dirty s) := by
  unfold touchLine
  try extract_lets
  repeat' first
    | with_reducible exact Only.refl _ _
    | with_reducible refine Only.ite ?_ ?_
    | (guard_target = Only _ _ (State.onMap ..); with_reducible refine Only.andThen ?_ (State.onMap_only _ _) (by decide))
    | with_reducible refine Only.foldl (fun _ _ => ?_) ?_
    | with_reducible refine Only.foldlFst (fun _ _ _ => ?_) ?_
    | extract_lets
    | dsimp only
    | split
    | dsimp +zetaDelta only

theorem demandLine_only (k : LineKey) (s : State) : Only [.map] s (demandLine k s).1 := by
  unfold demandLine
  try extract_lets
  repeat' first
    | with_reducible exact Only.refl _ _
    | with_reducible refine Only.iteFst ?_ ?_
    | with_reducible refine Only.ite ?_ ?_
    | (guard_target = Only _ _ (touchLine ..); with_reducible refine Only.andThen ?_ (touchLine_only ..) (by decide))
    | (guard_target = Only _ _ (State.onMap ..); with_reducible refine Only.andThen ?_ (State.onMap_only _ _) (by decide))

theorem startBuild_only (s : State) : Only [.map] s (startBuild s) := by
  unfold startBuild
  try extract_lets
  repeat' first
    | with_reducible exact Only.refl _ _
    | with_reducible refine Only.ite ?_ ?_
    | (guard_target = Only _ _ (State.onMap ..); with_reducible refine Only.andThen ?_ (State.onMap_only _ _) (by decide))

theorem retirePage_only (x : EccIn) (s : State) : Only [.map] s (retirePage x s) := by
  unfold retirePage
  try extract_lets
  repeat' first
    | with_reducible exact Only.refl _ _
    | with_reducible refine Only.ite ?_ ?_
    | (guard_target = Only _ _ (State.onMap ..); with_reducible refine Only.andThen ?_ (State.onMap_only _ _) (by decide))
    | extract_lets
    | dsimp only
    | split
    | dsimp +zetaDelta only

theorem noteRetired_only (old : MapSt) (s : State) : Only [.sys, .host] s (noteRetired old s) := by
  unfold noteRetired
  try extract_lets
  repeat' first
    | with_reducible exact Only.refl _ _
    | with_reducible refine Only.ite ?_ ?_
    | (guard_target = Only _ _ (notice ..); with_reducible refine Only.andThen ?_ (notice_only ..) (by decide))
    | with_reducible refine Only.foldl (fun _ _ => ?_) ?_
    | with_reducible refine Only.foldlFst (fun _ _ _ => ?_) ?_
    | extract_lets
    | dsimp only
    | split
    | dsimp +zetaDelta only

theorem eccWord_only (x : EccIn) (s : State) : Only [.sys, .pd0, .host, .map] s (eccWord x s) := by
  unfold eccWord
  try extract_lets
  repeat' first
    | with_reducible exact Only.refl _ _
    | with_reducible refine Only.ite ?_ ?_
    | (guard_target = Only _ _ (logFault ..); with_reducible refine Only.andThen ?_ (logFault_only ..) (by decide))
    | (guard_target = Only _ _ (notice ..); with_reducible refine Only.andThen ?_ (notice_only ..) (by decide))
    | (guard_target = Only _ _ (onSwatch ..); with_reducible refine Only.andThen ?_ (onSwatch_only ..) (by decide))
    | (guard_target = Only _ _ (onTint ..); with_reducible refine Only.andThen ?_ (onTint_only ..) (by decide))
    | (guard_target = Only _ _ (retirePage ..); with_reducible refine Only.andThen ?_ (retirePage_only ..) (by decide))
    | (guard_target = Only _ _ (startBuild ..); with_reducible refine Only.andThen ?_ (startBuild_only ..) (by decide))
    | (guard_target = Only _ _ (State.onMap ..); with_reducible refine Only.andThen ?_ (State.onMap_only _ _) (by decide))
    | extract_lets
    | dsimp only
    | split
    | dsimp +zetaDelta only

theorem meetErrors_only (hit : EccIn → Bool) (s : State) : Only [.sys, .pd0, .host, .map] s (meetErrors hit s).1 := by
  unfold meetErrors
  try extract_lets
  repeat' first
    | with_reducible exact Only.refl _ _
    | with_reducible refine Only.iteFst ?_ ?_
    | with_reducible refine Only.ite ?_ ?_
    | (guard_target = Only _ _ (eccWord ..); with_reducible refine Only.andThen ?_ (eccWord_only ..) (by decide))
    | (guard_target = Only _ _ (State.onMap ..); with_reducible refine Only.andThen ?_ (State.onMap_only _ _) (by decide))
    | with_reducible refine Only.foldl (fun _ _ => ?_) ?_
    | with_reducible refine Only.foldlFst (fun _ _ _ => ?_) ?_
    | extract_lets
    | dsimp only
    | split
    | dsimp +zetaDelta only

theorem meetLines_only (old fetched s : State) : Only [.sys, .pd0, .host, .map] s (meetLines old fetched s) := by
  unfold meetLines
  try extract_lets
  repeat' first
    | with_reducible exact Only.refl _ _
    | with_reducible refine Only.ite ?_ ?_
    | (guard_target = Only _ _ (meetErrors ..).1; with_reducible refine Only.andThen ?_ (meetErrors_only ..) (by decide))
    | extract_lets
    | dsimp only
    | split
    | dsimp +zetaDelta only

theorem meetFetched_only (old s : State) : Only [.sys, .pd0, .host, .map] s (meetFetched old s) := by
  unfold meetFetched
  try extract_lets
  repeat' first
    | with_reducible exact Only.refl _ _
    | with_reducible refine Only.ite ?_ ?_
    | (guard_target = Only _ _ (meetLines ..); with_reducible refine Only.andThen ?_ (meetLines_only ..) (by decide))
    | extract_lets
    | dsimp only
    | split
    | dsimp +zetaDelta only

theorem paintInto_only (layer : Nat) (tx ty : Int) (ks : List Nat) (s0 : State) : Only [.sys, .pd0, .host, .map] s0 (paintInto layer tx ty ks s0) := by
  unfold paintInto
  try extract_lets
  repeat' first
    | with_reducible exact Only.refl _ _
    | with_reducible refine Only.ite ?_ ?_
    | (guard_target = Only _ _ (meetErrors ..).1; with_reducible refine Only.andThen ?_ (meetErrors_only ..) (by decide))
    | (guard_target = Only _ _ (onSwatch ..); with_reducible refine Only.andThen ?_ (onSwatch_only ..) (by decide))
    | (guard_target = Only _ _ (touchLine ..); with_reducible refine Only.andThen ?_ (touchLine_only ..) (by decide))
    | with_reducible refine Only.foldl (fun _ _ => ?_) ?_
    | with_reducible refine Only.foldlFst (fun _ _ _ => ?_) ?_
    | extract_lets
    | dsimp only
    | split
    | dsimp +zetaDelta only

theorem evictFor_only (layer d n : Nat) : ∀ {s : State} {freed : List Nat} {r : State × List Nat},
    evictFor layer d n s freed = some r → Only [.sys, .host, .map] s r.1 := by
  induction n with
  | zero => intro s freed r h; cases h
  | succ n ih =>
    intro s freed r h
    unfold evictFor at h
    dsimp only at h
    split at h
    · cases h; exact Only.refl _ _
    · split at h
      · exact Only.andThen (Only.andThen (Only.andThen (Only.refl _ _) (State.onMap_only _ _) (by decide)) (notice_only ..) (by decide))
          (ih h) (by decide)
      · cases h

theorem allocEvicted_only {layer : Nat} {tx ty : Int} {s t : State} (h : allocEvicted layer tx ty s = some t) :
    Only [.sys, .host, .map] s t := by
  unfold allocEvicted at h
  dsimp only at h
  split at h
  · cases h
  · rename_i r hr
    cases h
    have h0 : Only [.sys, .host, .map] s r.1 := by
      split at hr
      · exact evictFor_only _ _ _ hr
      · cases hr
    exact Only.andThen (Only.andThen (Only.andThen h0 (State.onMap_only _ _) (by decide)) (poolLow_only ..) (by decide)) (noteRetired_only ..) (by decide)

theorem paintTile_only (layer : Nat) (tx ty : Int) (ks : List Nat) (s : State) : Only [.sys, .pd0, .host, .map] s (paintTile layer tx ty ks s).1 := by
  unfold paintTile
  try extract_lets
  repeat' first
    | with_reducible exact Only.refl _ _
    | with_reducible refine Only.andThen ?_ (allocEvicted_only ‹_›) (by decide)
    | with_reducible refine Only.iteFst ?_ ?_
    | with_reducible refine Only.ite ?_ ?_
    | with_reducible refine Only.andThen ?_ (allocSwatch_only ‹_›) (by decide)
    | (guard_target = Only _ _ (notice ..); with_reducible refine Only.andThen ?_ (notice_only ..) (by decide))
    | (guard_target = Only _ _ (paintGap ..); with_reducible refine Only.andThen ?_ (paintGap_only ..) (by decide))
    | (guard_target = Only _ _ (paintInto ..); with_reducible refine Only.andThen ?_ (paintInto_only ..) (by decide))
    | (guard_target = Only _ _ (State.onMap ..); with_reducible refine Only.andThen ?_ (State.onMap_only _ _) (by decide))
    | extract_lets
    | dsimp only
    | split

theorem paint_only (layer : Nat) (cells : List (Int × Int)) (s : State) : Only [.sys, .pd0, .host, .map] s (paint layer cells s).1 := by
  unfold paint
  try extract_lets
  repeat' first
    | with_reducible exact Only.refl _ _
    | with_reducible refine Only.iteFst ?_ ?_
    | with_reducible refine Only.ite ?_ ?_
    | (guard_target = Only _ _ (paintTile ..).1; with_reducible refine Only.andThen ?_ (paintTile_only ..) (by decide))
    | (guard_target = Only _ _ (State.onMap ..); with_reducible refine Only.andThen ?_ (State.onMap_only _ _) (by decide))
    | with_reducible refine Only.foldl (fun _ _ => ?_) ?_
    | with_reducible refine Only.foldlFst (fun _ _ _ => ?_) ?_

theorem meetTile_only (layer : Nat) (tx ty : Int) (s : State) : Only [.sys, .pd0, .host, .map] s (meetTile layer tx ty s) := by
  unfold meetTile
  try extract_lets
  repeat' first
    | with_reducible exact Only.refl _ _
    | with_reducible refine Only.ite ?_ ?_
    | (guard_target = Only _ _ (meetErrors ..).1; with_reducible refine Only.andThen ?_ (meetErrors_only ..) (by decide))
    | extract_lets
    | dsimp only
    | split
    | dsimp +zetaDelta only

theorem applyCover_only {layer : Nat} {x : Int × Int × Nat} {s t : State} (h : applyCover layer x s = some t) :
    Only [.sys, .pd0, .host, .map] s t := by
  unfold applyCover at h
  dsimp only at h
  split at h
  · cases h
    exact Only.andThen (meetTile_only ..) (onSwatch_only ..) (by decide)
  · cases ha : allocSwatch layer x.1 x.2.1 s with
    | none => rw [ha] at h; cases h
    | some u =>
      rw [ha] at h
      cases h
      exact Only.andThen (Only.andThen (Only.refl _ _) (allocSwatch_only ha) (by decide)) (onSwatch_only ..) (by decide)

theorem applyTint_only {layer : Nat} {t : Int × Int × Nat} {s u : State} (h : applyTint layer t s = some u) : Only [.map] s u := by
  unfold applyTint at h
  split at h
  · cases h
    exact Only.andThen (State.onMap_only _ _) (onTint_only ..) (by decide)
  · obtain ⟨p, -, rfl⟩ := Option.map_eq_some_iff.1 h
    exact State.onMap_only _ _

theorem applyAll_only {α : Type} {l : List Part} {f : α → State → Option State} (hf : ∀ a s t, f a s = some t → Only l s t)
    {xs : List α} {s t : State} (h : applyAll f xs s = some t) : Only l s t := by
  induction xs generalizing s with
  | nil => cases h; exact Only.refl _ _
  | cons x xs ih =>
    unfold applyAll at h
    split at h
    · exact (hf _ _ _ ‹_›).andThen (ih h) (List.Subset.refl l)
    · cases h

theorem clearCover_only (layer : Nat) (s : State) : Only [.sys, .pd0, .host, .map] s (clearCover layer s) := by
  unfold clearCover
  try extract_lets
  repeat' first
    | with_reducible exact Only.refl _ _
    | with_reducible refine Only.ite ?_ ?_
    | (guard_target = Only _ _ (noteRetired ..); with_reducible refine Only.andThen ?_ (noteRetired_only ..) (by decide))
    | (guard_target = Only _ _ (paintGap ..); with_reducible refine Only.andThen ?_ (paintGap_only ..) (by decide))
    | (guard_target = Only _ _ (State.onMap ..); with_reducible refine Only.andThen ?_ (State.onMap_only _ _) (by decide))
    | extract_lets
    | dsimp only
    | split
    | dsimp +zetaDelta only

theorem clearTint_only (layer : Nat) (s : State) : Only [.sys, .host, .map] s (clearTint layer s) := by
  unfold clearTint
  try extract_lets
  repeat' first
    | with_reducible exact Only.refl _ _
    | with_reducible refine Only.ite ?_ ?_
    | (guard_target = Only _ _ (noteRetired ..); with_reducible refine Only.andThen ?_ (noteRetired_only ..) (by decide))
    | (guard_target = Only _ _ (State.onMap ..); with_reducible refine Only.andThen ?_ (State.onMap_only _ _) (by decide))
    | extract_lets
    | dsimp only
    | split
    | dsimp +zetaDelta only

theorem loadDone_only (st : Status) (s : State) : Only [.sys, .host] s (loadDone st s) := by
  unfold loadDone
  try extract_lets
  repeat' first
    | with_reducible exact Only.refl _ _
    | with_reducible refine Only.ite ?_ ?_
    | (guard_target = Only _ _ (notice ..); with_reducible refine Only.andThen ?_ (notice_only ..) (by decide))

theorem importResult_only {l : Load} {s t : State} (h : importResult l s = .ok t) : Only [.sys, .pd0, .host, .map] s t := by
  unfold importResult at h
  dsimp only at h
  split at h
  · split at h
    · cases h
    · split at h
      · cases h
      · split at h
        · cases h
        · cases h
          exact ((Only.refl _ _).andThen (State.onMap_only _ _) (by decide)).andThen (startBuild_only ..) (by decide)
  · split at h
    · cases h
    · split at h
      · cases h
      · split at h
        · split at h
          · cases h
            refine Only.andThen ?_ (applyAll_only (fun _ _ _ => applyCover_only) ‹_›) (by decide)
            exact Only.ite ((Only.refl _ _).andThen (clearCover_only ..) (by decide)) (Only.refl _ _)
          · cases h
        · split at h
          · cases h
            exact (Only.refl _ _).andThen (applyAll_only (fun _ _ _ => applyTint_only) ‹_›) (by decide)
          · cases h

theorem applyImport_only (s : State) : Only [.sys, .pd0, .host, .map] s (applyImport s) := by
  unfold applyImport
  try extract_lets
  repeat' first
    | with_reducible exact Only.refl _ _
    | with_reducible refine Only.ite ?_ ?_
    | with_reducible refine Only.andThen ?_ (importResult_only ‹_›) (by decide)
    | (guard_target = Only _ _ (loadDone ..); with_reducible refine Only.andThen ?_ (loadDone_only ..) (by decide))
    | (guard_target = Only _ _ (State.onMap ..); with_reducible refine Only.andThen ?_ (State.onMap_only _ _) (by decide))
    | extract_lets
    | dsimp only
    | split

theorem opMapStatus_only (_e : Env) (s : State) : Only [] s (opMapStatus _e s).1 := by
  unfold opMapStatus
  try extract_lets
  repeat' first
    | with_reducible exact Only.refl _ _
    | with_reducible refine Only.iteFst ?_ ?_
    | dsimp only [doneWith]

theorem opMapLoadBegin_only (e : Env) (s : State) : Only [.map] s (opMapLoadBegin e s).1 := by
  unfold opMapLoadBegin
  try extract_lets
  repeat' first
    | with_reducible exact Only.refl _ _
    | with_reducible refine Only.iteFst ?_ ?_
    | dsimp only [deny, done]
    | with_reducible refine Only.ite ?_ ?_
    | (guard_target = Only _ _ (State.onMap ..); with_reducible refine Only.andThen ?_ (State.onMap_only _ _) (by decide))
    | extract_lets
    | dsimp only
    | split

theorem opMapLoadData_only (e : Env) (s : State) : Only [.map] s (opMapLoadData e s).1 := by
  unfold opMapLoadData
  try extract_lets
  repeat' first
    | with_reducible exact Only.refl _ _
    | with_reducible refine Only.iteFst ?_ ?_
    | dsimp only [deny, doneWith]
    | with_reducible refine Only.ite ?_ ?_
    | (guard_target = Only _ _ (State.onMap ..); with_reducible refine Only.andThen ?_ (State.onMap_only _ _) (by decide))
    | extract_lets
    | dsimp only
    | split

theorem opMapLoadEnd_only (e : Env) (s : State) : Only [.sys, .pd0, .host, .map] s (opMapLoadEnd e s).1 := by
  unfold opMapLoadEnd
  try extract_lets
  repeat' first
    | with_reducible exact Only.refl _ _
    | with_reducible refine Only.iteFst ?_ ?_
    | with_reducible refine Only.ite ?_ ?_
    | (guard_target = Only _ _ (loadDone ..); with_reducible refine Only.andThen ?_ (loadDone_only ..) (by decide))
    | (guard_target = Only _ _ (waitEdge ..); with_reducible refine Only.andThen ?_ (waitEdge_only ..) (by decide))
    | (guard_target = Only _ _ (State.onMap ..); with_reducible refine Only.andThen ?_ (State.onMap_only _ _) (by decide))
    | extract_lets
    | dsimp only
    | split

theorem opMapLoadAbort_only (_e : Env) (s : State) : Only [.sys, .map] s (opMapLoadAbort _e s).1 := by
  unfold opMapLoadAbort
  try extract_lets
  repeat' first
    | with_reducible exact Only.refl _ _
    | with_reducible refine Only.iteFst ?_ ?_
    | dsimp only [deny, done]
    | with_reducible refine Only.ite ?_ ?_
    | (guard_target = Only _ _ (State.onSys ..); with_reducible refine Only.andThen ?_ (State.onSys_only _ _) (by decide))
    | (guard_target = Only _ _ (State.onMap ..); with_reducible refine Only.andThen ?_ (State.onMap_only _ _) (by decide))
    | extract_lets
    | dsimp only
    | split

theorem opMapExportBegin_only (e : Env) (s : State) : Only [.sys, .map] s (opMapExportBegin e s).1 := by
  unfold opMapExportBegin
  try extract_lets
  repeat' first
    | with_reducible exact Only.refl _ _
    | with_reducible refine Only.iteFst ?_ ?_
    | dsimp only [deny]
    | with_reducible refine Only.ite ?_ ?_
    | (guard_target = Only _ _ (waitEdge ..); with_reducible refine Only.andThen ?_ (waitEdge_only ..) (by decide))
    | (guard_target = Only _ _ (State.onMap ..); with_reducible refine Only.andThen ?_ (State.onMap_only _ _) (by decide))
    | extract_lets
    | dsimp only
    | split

theorem fixExport_only (s : State) : Only [.map] s (fixExport s) := by
  unfold fixExport
  try extract_lets
  repeat' first
    | with_reducible exact Only.refl _ _
    | with_reducible refine Only.ite ?_ ?_
    | (guard_target = Only _ _ (State.onMap ..); with_reducible refine Only.andThen ?_ (State.onMap_only _ _) (by decide))
    | extract_lets
    | dsimp only
    | split

theorem snapshotExport_only (s : State) : Only [.map] s (snapshotExport s) := by
  unfold snapshotExport
  try extract_lets
  repeat' first
    | with_reducible exact Only.refl _ _
    | with_reducible refine Only.ite ?_ ?_
    | (guard_target = Only _ _ (State.onMap ..); with_reducible refine Only.andThen ?_ (State.onMap_only _ _) (by decide))
    | extract_lets
    | dsimp only
    | split

theorem readTiles_only (x : Exp) (ks : List Nat) (s : State) : Only [.sys, .pd0, .host, .map] s (readTiles x ks s).1 := by
  unfold readTiles
  try extract_lets
  repeat' first
    | with_reducible exact Only.refl _ _
    | with_reducible refine Only.iteFst ?_ ?_
    | with_reducible refine Only.ite ?_ ?_
    | (guard_target = Only _ _ (meetErrors ..).1; with_reducible refine Only.andThen ?_ (meetErrors_only ..) (by decide))
    | with_reducible refine Only.foldl (fun _ _ => ?_) ?_
    | with_reducible refine Only.foldlFst (fun _ _ _ => ?_) ?_
    | extract_lets
    | dsimp only
    | split
    | dsimp +zetaDelta only

theorem opMapExportRead_only (e : Env) (s : State) : Only [.sys, .pd0, .host, .map] s (opMapExportRead e s).1 := by
  unfold opMapExportRead
  try extract_lets
  repeat' first
    | with_reducible exact Only.refl _ _
    | with_reducible refine Only.iteFst ?_ ?_
    | dsimp only [deny, doneWith]
    | with_reducible refine Only.ite ?_ ?_
    | (guard_target = Only _ _ (readTiles ..).1; with_reducible refine Only.andThen ?_ (readTiles_only ..) (by decide))
    | (guard_target = Only _ _ (State.onMap ..); with_reducible refine Only.andThen ?_ (State.onMap_only _ _) (by decide))
    | extract_lets
    | dsimp only
    | split
    | dsimp +zetaDelta only

theorem markClean_only (x : Exp) (s : State) : Only [.map] s (markClean x s) := by
  unfold markClean
  try extract_lets
  repeat' first
    | with_reducible exact Only.refl _ _
    | with_reducible refine Only.ite ?_ ?_
    | (guard_target = Only _ _ (State.onMap ..); with_reducible refine Only.andThen ?_ (State.onMap_only _ _) (by decide))

theorem opMapExportAck_only (e : Env) (s : State) : Only [.map] s (opMapExportAck e s).1 := by
  unfold opMapExportAck
  try extract_lets
  repeat' first
    | with_reducible exact Only.refl _ _
    | with_reducible refine Only.iteFst ?_ ?_
    | dsimp only [deny, done]
    | with_reducible refine Only.ite ?_ ?_
    | (guard_target = Only _ _ (markClean ..); with_reducible refine Only.andThen ?_ (markClean_only ..) (by decide))
    | (guard_target = Only _ _ (State.onMap ..); with_reducible refine Only.andThen ?_ (State.onMap_only _ _) (by decide))
    | extract_lets
    | dsimp only
    | split

theorem opMapClear_only (e : Env) (s : State) : Only [.sys] s (opMapClear e s).1 := by
  unfold opMapClear
  try extract_lets
  repeat' first
    | with_reducible exact Only.refl _ _
    | with_reducible refine Only.iteFst ?_ ?_
    | dsimp only [deny, doneEdge]
    | with_reducible refine Only.ite ?_ ?_
    | (guard_target = Only _ _ (waitEdge ..); with_reducible refine Only.andThen ?_ (waitEdge_only ..) (by decide))
    | extract_lets
    | dsimp only
    | split

theorem applyClear_only (target layer : Nat) (s : State) : Only [.sys, .pd0, .host, .map] s (applyClear target layer s) := by
  unfold applyClear
  try extract_lets
  repeat' first
    | with_reducible exact Only.refl _ _
    | with_reducible refine Only.ite ?_ ?_
    | (guard_target = Only _ _ (clearCover ..); with_reducible refine Only.andThen ?_ (clearCover_only ..) (by decide))
    | (guard_target = Only _ _ (clearTint ..); with_reducible refine Only.andThen ?_ (clearTint_only ..) (by decide))
    | (guard_target = Only _ _ (noteRetired ..); with_reducible refine Only.andThen ?_ (noteRetired_only ..) (by decide))
    | (guard_target = Only _ _ (State.onMap ..); with_reducible refine Only.andThen ?_ (State.onMap_only _ _) (by decide))
    | extract_lets
    | dsimp only
    | split
    | dsimp +zetaDelta only

theorem opMapLogRead_only (e : Env) (s : State) : Only [.sys, .pd0, .host, .map] s (opMapLogRead e s).1 := by
  unfold opMapLogRead
  try extract_lets
  repeat' first
    | with_reducible exact Only.refl _ _
    | with_reducible refine Only.iteFst ?_ ?_
    | dsimp only [deny, doneWith]
    | with_reducible refine Only.ite ?_ ?_
    | (guard_target = Only _ _ (meetErrors ..).1; with_reducible refine Only.andThen ?_ (meetErrors_only ..) (by decide))
    | extract_lets
    | dsimp only
    | split
    | dsimp +zetaDelta only

theorem opMapLogAck_only (e : Env) (s : State) : Only [.map] s (opMapLogAck e s).1 := by
  unfold opMapLogAck
  try extract_lets
  repeat' first
    | with_reducible exact Only.refl _ _
    | with_reducible refine Only.iteFst ?_ ?_
    | dsimp only [deny, done]
    | with_reducible refine Only.ite ?_ ?_
    | (guard_target = Only _ _ (State.onMap ..); with_reducible refine Only.andThen ?_ (State.onMap_only _ _) (by decide))

theorem meetCopied_only (s : State) : Only [.sys, .pd0, .host, .map] s (meetCopied s) := by
  unfold meetCopied
  try extract_lets
  repeat' first
    | with_reducible exact Only.refl _ _
    | with_reducible refine Only.ite ?_ ?_
    | (guard_target = Only _ _ (meetErrors ..).1; with_reducible refine Only.andThen ?_ (meetErrors_only ..) (by decide))
    | extract_lets
    | dsimp only
    | split
    | dsimp +zetaDelta only

theorem startMigration_only (s : State) : Only [.sys, .pd0, .host, .map] s (startMigration s) := by
  unfold startMigration
  try extract_lets
  repeat' first
    | with_reducible exact Only.refl _ _
    | with_reducible refine Only.ite ?_ ?_
    | (guard_target = Only _ _ (meetCopied ..); with_reducible refine Only.andThen ?_ (meetCopied_only ..) (by decide))
    | (guard_target = Only _ _ (poolLow ..); with_reducible refine Only.andThen ?_ (poolLow_only ..) (by decide))
    | (guard_target = Only _ _ (State.onMap ..); with_reducible refine Only.andThen ?_ (State.onMap_only _ _) (by decide))
    | extract_lets
    | dsimp only
    | split
    | dsimp +zetaDelta only

theorem finishMigration_only (s0 : State) : Only [.sys, .host, .map] s0 (finishMigration s0) := by
  unfold finishMigration
  try extract_lets
  repeat' first
    | with_reducible exact Only.refl _ _
    | with_reducible refine Only.ite ?_ ?_
    | (guard_target = Only _ _ (noteRetired ..); with_reducible refine Only.andThen ?_ (noteRetired_only ..) (by decide))
    | (guard_target = Only _ _ (poolLow ..); with_reducible refine Only.andThen ?_ (poolLow_only ..) (by decide))
    | (guard_target = Only _ _ (State.onMap ..); with_reducible refine Only.andThen ?_ (State.onMap_only _ _) (by decide))
    | extract_lets
    | dsimp only
    | split
    | dsimp +zetaDelta only

theorem execScrub_only (errs : List EccIn) (s : State) : OnlyR [.sys, .pd0, .host, .map] s (execScrub errs s) := by
  unfold execScrub
  try extract_lets
  repeat' first
    | with_reducible exact Only.refl _ _
    | with_reducible refine OnlyR.next ?_
    | refine OnlyR.ite ?_ ?_
    | with_reducible refine Only.ite ?_ ?_
    | (guard_target = Only _ _ (meetErrors ..).1; with_reducible refine Only.andThen ?_ (meetErrors_only ..) (by decide))
    | (guard_target = Only _ _ (State.onMap ..); with_reducible refine Only.andThen ?_ (State.onMap_only _ _) (by decide))
    | extract_lets
    | dsimp only
    | split
    | dsimp +zetaDelta only

theorem execDirtyWriteback_only (s : State) : OnlyR [.map] s (execDirtyWriteback s) := by
  unfold execDirtyWriteback
  try extract_lets
  repeat' first
    | with_reducible exact Only.refl _ _
    | with_reducible refine OnlyR.next ?_
    | refine OnlyR.ite ?_ ?_
    | with_reducible refine Only.ite ?_ ?_
    | (guard_target = Only _ _ (State.onMap ..); with_reducible refine Only.andThen ?_ (State.onMap_only _ _) (by decide))

theorem execMaskBuilt_only (s0 : State) : OnlyR [.sys, .pd0, .host, .map] s0 (execMaskBuilt s0) := by
  unfold execMaskBuilt
  try extract_lets
  repeat' first
    | with_reducible exact Only.refl _ _
    | with_reducible refine OnlyR.next ?_
    | refine OnlyR.ite ?_ ?_
    | with_reducible refine Only.ite ?_ ?_
    | (guard_target = Only _ _ (meetErrors ..).1; with_reducible refine Only.andThen ?_ (meetErrors_only ..) (by decide))
    | (guard_target = Only _ _ (notice ..); with_reducible refine Only.andThen ?_ (notice_only ..) (by decide))
    | (guard_target = Only _ _ (State.onMap ..); with_reducible refine Only.andThen ?_ (State.onMap_only _ _) (by decide))
    | extract_lets
    | dsimp only
    | split
    | dsimp +zetaDelta only

theorem execLoadTimeout_only (s : State) : OnlyR [.sys, .host, .map] s (execLoadTimeout s) := by
  unfold execLoadTimeout
  try extract_lets
  repeat' first
    | with_reducible exact Only.refl _ _
    | with_reducible refine OnlyR.next ?_
    | refine OnlyR.ite ?_ ?_
    | with_reducible refine Only.ite ?_ ?_
    | (guard_target = Only _ _ (loadDone ..); with_reducible refine Only.andThen ?_ (loadDone_only ..) (by decide))
    | (guard_target = Only _ _ (State.onMap ..); with_reducible refine Only.andThen ?_ (State.onMap_only _ _) (by decide))
    | extract_lets
    | dsimp only
    | split

theorem execExportTimeout_only (s : State) : OnlyR [.map] s (execExportTimeout s) := by
  unfold execExportTimeout
  try extract_lets
  repeat' first
    | with_reducible exact Only.refl _ _
    | with_reducible refine OnlyR.next ?_
    | refine OnlyR.ite ?_ ?_
    | with_reducible refine Only.ite ?_ ?_
    | (guard_target = Only _ _ (State.onMap ..); with_reducible refine Only.andThen ?_ (State.onMap_only _ _) (by decide))
    | extract_lets
    | dsimp only
    | split

theorem execLogSeal_only (s : State) : OnlyR [.sys, .pd0, .host, .map] s (execLogSeal s) := by
  unfold execLogSeal
  try extract_lets
  repeat' first
    | with_reducible exact Only.refl _ _
    | with_reducible refine OnlyR.next ?_
    | refine OnlyR.ite ?_ ?_
    | with_reducible refine Only.ite ?_ ?_
    | (guard_target = Only _ _ (sealBlock ..); with_reducible refine Only.andThen ?_ (sealBlock_only ..) (by decide))

theorem trackFrom_only (t : Tick) (s : State) : Only [.map] s (trackFrom t s) := by
  unfold trackFrom
  try extract_lets
  repeat' first
    | with_reducible exact Only.refl _ _
    | with_reducible refine Only.ite ?_ ?_
    | (guard_target = Only _ _ (State.onMap ..); with_reducible refine Only.andThen ?_ (State.onMap_only _ _) (by decide))
    | extract_lets
    | dsimp only
    | split
    | dsimp +zetaDelta only

theorem execTrackRecord_only (s : State) : OnlyR [.sys, .pd0, .host, .map] s (execTrackRecord s) := by
  unfold execTrackRecord
  try extract_lets
  repeat' first
    | with_reducible exact Only.refl _ _
    | with_reducible refine OnlyR.next ?_
    | refine OnlyR.ite ?_ ?_
    | with_reducible refine Only.ite ?_ ?_
    | (guard_target = Only _ _ (writeLog ..); with_reducible refine Only.andThen ?_ (writeLog_only ..) (by decide))
    | (guard_target = Only _ _ (State.onMap ..); with_reducible refine Only.andThen ?_ (State.onMap_only _ _) (by decide))

theorem zeroPages_only (s : State) : Only [.map] s (zeroPages s) := by
  unfold zeroPages
  try extract_lets
  repeat' first
    | with_reducible exact Only.refl _ _
    | with_reducible refine Only.ite ?_ ?_
    | (guard_target = Only _ _ (State.onMap ..); with_reducible refine Only.andThen ?_ (State.onMap_only _ _) (by decide))

theorem mapBecomesReady_only (s : State) : Only [.sys, .pd0, .host, .map] s (mapBecomesReady s) := by
  unfold mapBecomesReady
  try extract_lets
  repeat' first
    | with_reducible exact Only.refl _ _
    | with_reducible refine Only.ite ?_ ?_
    | (guard_target = Only _ _ (paintGap ..); with_reducible refine Only.andThen ?_ (paintGap_only ..) (by decide))
    | (guard_target = Only _ _ (State.onSys ..); with_reducible refine Only.andThen ?_ (State.onSys_only _ _) (by decide))
    | (guard_target = Only _ _ (State.onMap ..); with_reducible refine Only.andThen ?_ (State.onMap_only _ _) (by decide))
    | extract_lets
    | dsimp only
    | split

theorem changeOrigin_only (o : Origin) (s : State) : Only [.sys, .pd0, .host, .pos, .map] s (changeOrigin o s) := by
  unfold changeOrigin
  try extract_lets
  repeat' first
    | with_reducible exact Only.refl _ _
    | with_reducible refine Only.ite ?_ ?_
    | (guard_target = Only _ _ (notice ..); with_reducible refine Only.andThen ?_ (notice_only ..) (by decide))
    | (guard_target = Only _ _ (startBuild ..); with_reducible refine Only.andThen ?_ (startBuild_only ..) (by decide))
    | (guard_target = Only _ _ (writeLog ..); with_reducible refine Only.andThen ?_ (writeLog_only ..) (by decide))
    | (guard_target = Only _ _ (State.onPos ..); with_reducible refine Only.andThen ?_ (State.onPos_only _ _) (by decide))
    | (guard_target = Only _ _ (State.onMap ..); with_reducible refine Only.andThen ?_ (State.onMap_only _ _) (by decide))

end Sys2Proof.Machine
end

