-- ==== Sys2Proof/Laws/VdrOnly.lean ====
section
/-! SUPPORT. What the operations of Machine/Vdr.lean may change: for each the parts beyond which nothing moves. -/

set_option Elab.async false

namespace Sys2Proof.Machine

theorem modCh_only (c : Fin 96) (f : Chan → Chan) (s : State) : Only [.vdr] s (modCh c f s) := by
  unfold modCh
  repeat' first
    | with_reducible exact Only.refl _ _
    | with_reducible refine Only.ite ?_ ?_
    | with_reducible refine Only.andThen ?_ (State.onVdr_only _ _) (by decide)

theorem modBank_only (b : Fin 12) (f : Bank → Bank) (s : State) : Only [.vdr] s (modBank b f s) := by
  unfold modBank
  repeat' first
    | with_reducible exact Only.refl _ _
    | with_reducible refine Only.ite ?_ ?_
    | with_reducible refine Only.andThen ?_ (State.onVdr_only _ _) (by decide)

theorem modLat_only (i : Fin 160) (f : Lat → Lat) (s : State) : Only [.vdr] s (modLat i f s) := by
  unfold modLat
  repeat' first
    | with_reducible exact Only.refl _ _
    | with_reducible refine Only.ite ?_ ?_
    | with_reducible refine Only.andThen ?_ (State.onVdr_only _ _) (by decide)

theorem modProt_only (c : Fin 96) (f : Prot → Prot) (s : State) : Only [.vdr] s (modProt c f s) := by
  unfold modProt
  repeat' first
    | with_reducible exact Only.refl _ _
    | with_reducible refine Only.ite ?_ ?_
    | with_reducible refine Only.andThen ?_ (State.onVdr_only _ _) (by decide)

theorem modNoz_only (c : Fin 96) (f : Noz → Noz) (s : State) : Only [.pwu] s (modNoz c f s) := by
  unfold modNoz
  repeat' first
    | with_reducible exact Only.refl _ _
    | with_reducible refine Only.ite ?_ ?_
    | with_reducible refine Only.andThen ?_ (State.onPwu_only _ _) (by decide)

theorem writeFiring_only (c : Fin 96) (f0 : Firing) (s : State) : Only [.sys, .pd0, .host, .map, .vdr] s (writeFiring c f0 s) := by
  unfold writeFiring
  repeat' first
    | with_reducible exact Only.refl _ _
    | with_reducible refine Only.ite ?_ ?_
    | with_reducible refine Only.andThen ?_ (modBank_only ..) (by decide)
    | with_reducible refine Only.andThen ?_ (modCh_only ..) (by decide)
    | with_reducible refine Only.andThen ?_ (notice_only ..) (by decide)
    | with_reducible refine Only.andThen ?_ (paintGap_only ..) (by decide)
    | with_reducible refine Only.andThen ?_ (State.onHost_only _ _) (by decide)
    | dsimp only
    | split

theorem putCoil_only (lo v : Nat) (s : State) : Only [.nor, .act, .shd] s (putCoil lo v s) := by
  unfold putCoil
  repeat' first
    | with_reducible exact Only.refl _ _
    | with_reducible refine Only.ite ?_ ?_
    | with_reducible refine Only.andThen ?_ (State.onNor_only _ _) (by decide)
    | with_reducible refine Only.andThen ?_ (State.onAct_only _ _) (by decide)
    | with_reducible refine Only.andThen ?_ (State.onShd_only _ _) (by decide)

theorem learn_only (i : Fin 160) (k : Fin 4) (m : Nat) (s : State) : Only [.sys, .host, .vdr] s (learn i k m s) := by
  unfold learn
  repeat' first
    | with_reducible exact Only.refl _ _
    | with_reducible refine Only.ite ?_ ?_
    | with_reducible refine Only.andThen ?_ (modLat_only ..) (by decide)
    | with_reducible refine Only.andThen ?_ (notice_only ..) (by decide)

theorem contextFault_only (c : Fin 96) (detail : Nat) (s : State) : Only [.sys, .pd0, .host] s (contextFault c detail s) := by
  unfold contextFault
  repeat' first
    | with_reducible exact Only.refl _ _
    | with_reducible refine Only.ite ?_ ?_
    | with_reducible refine Only.andThen ?_ (logFault_only ..) (by decide)
    | dsimp only
    | split

theorem countMiss_only (c : Fin 96) (s : State) : Only [.sys, .pd0, .host, .vdr] s (countMiss c s) := by
  unfold countMiss
  repeat' first
    | with_reducible exact Only.refl _ _
    | with_reducible refine Only.ite ?_ ?_
    | with_reducible refine Only.andThen ?_ (contextFault_only ..) (by decide)
    | with_reducible refine Only.andThen ?_ (modLat_only ..) (by decide)
    | with_reducible refine Only.andThen ?_ (notice_only ..) (by decide)
    | dsimp only
    | split

theorem endSearch_only (c : Fin 96) (t : Tick) (s : State) : Only [.sys, .pd0, .host, .map, .vdr] s (endSearch c t s) := by
  unfold endSearch
  repeat' first
    | with_reducible exact Only.refl _ _
    | with_reducible refine Only.ite ?_ ?_
    | with_reducible refine Only.andThen ?_ (countMiss_only ..) (by decide)
    | with_reducible refine Only.andThen ?_ (modCh_only ..) (by decide)
    | with_reducible refine Only.andThen ?_ (writeFiring_only ..) (by decide)
    | dsimp only
    | split

theorem beginPullIn_only (c : Fin 96) (t : Tick) (s : State) : Only [.sys, .pd0, .host, .map, .vdr] s (beginPullIn c t s) := by
  unfold beginPullIn
  repeat' first
    | with_reducible exact Only.refl _ _
    | with_reducible refine Only.ite ?_ ?_
    | with_reducible refine Only.andThen ?_ (modCh_only ..) (by decide)
    | with_reducible refine Only.andThen ?_ (modProt_only ..) (by decide)
    | with_reducible refine Only.andThen ?_ (writeFiring_only ..) (by decide)

theorem placeStart_only (c : Fin 96) (d t len : Tick) (battery opener cut beyond recommand indet : Bool) (s : State) : Only [.sys, .pd0, .host, .map, .vdr] s (placeStart c d t len battery opener cut beyond recommand indet s) := by
  unfold placeStart
  repeat' first
    | with_reducible exact Only.refl _ _
    | with_reducible refine Only.ite ?_ ?_
    | with_reducible refine Only.andThen ?_ (beginPullIn_only ..) (by decide)
    | with_reducible refine Only.andThen ?_ (modCh_only ..) (by decide)

theorem startChannel_only (c : Fin 96) (d : Tick) (recommand indet : Bool) (s : State) : Only [.sys, .pd0, .host, .map, .vdr] s (startChannel c d recommand indet s).1 := by
  unfold startChannel
  repeat' first
    | with_reducible exact Only.refl _ _
    | with_reducible refine Only.iteFst ?_ ?_
    | with_reducible refine Only.ite ?_ ?_
    | with_reducible refine Only.andThen ?_ (modBank_only ..) (by decide)
    | with_reducible refine Only.andThen ?_ (notice_only ..) (by decide)
    | with_reducible refine Only.andThen ?_ (placeStart_only ..) (by decide)
    | dsimp only
    | split

theorem beginDecay_only (c : Fin 96) (t : Tick) (wasHeld clamp stage : Bool) (s : State) : Only [.sys, .pd0, .host, .map, .vdr] s (beginDecay c t wasHeld clamp stage s) := by
  unfold beginDecay
  repeat' first
    | with_reducible exact Only.refl _ _
    | with_reducible refine Only.ite ?_ ?_
    | with_reducible refine Only.andThen ?_ (endSearch_only ..) (by decide)
    | with_reducible refine Only.andThen ?_ (modCh_only ..) (by decide)
    | with_reducible refine Only.andThen ?_ (modProt_only ..) (by decide)
    | dsimp only
    | split

theorem cancelStart_only (c : Fin 96) (s : State) : Only [.vdr] s (cancelStart c s) := by
  unfold cancelStart
  repeat' first
    | with_reducible exact Only.refl _ _
    | with_reducible refine Only.ite ?_ ?_
    | with_reducible refine Only.andThen ?_ (modBank_only ..) (by decide)
    | with_reducible refine Only.andThen ?_ (modCh_only ..) (by decide)

theorem dueStart_only (c : Fin 96) (s : State) : Only [.sys, .pd0, .host, .map, .vdr] s (dueStart c s).1 := by
  unfold dueStart
  repeat' first
    | with_reducible exact Only.refl _ _
    | with_reducible refine Only.iteFst ?_ ?_
    | with_reducible refine Only.ite ?_ ?_
    | with_reducible refine Only.andThen ?_ (beginPullIn_only ..) (by decide)
    | with_reducible refine Only.andThen ?_ (modCh_only ..) (by decide)
    | with_reducible refine Only.andThen ?_ (startChannel_only ..) (by decide)
    | dsimp only
    | split

theorem offRequest_only (c : Fin 96) (t : Tick) (stage : Bool) (s : State) : Only [.sys, .pd0, .host, .map, .vdr] s (offRequest c t stage s) := by
  unfold offRequest
  repeat' first
    | with_reducible exact Only.refl _ _
    | with_reducible refine Only.ite ?_ ?_
    | with_reducible refine Only.andThen ?_ (beginDecay_only ..) (by decide)
    | with_reducible refine Only.andThen ?_ (cancelStart_only ..) (by decide)
    | with_reducible refine Only.andThen ?_ (dueStart_only ..) (by decide)
    | with_reducible refine Only.andThen ?_ (modCh_only ..) (by decide)
    | dsimp only
    | split

theorem forceOff_only (c : Fin 96) (t : Tick) (s : State) : Only [.sys, .pd0, .host, .map, .vdr] s (forceOff c t s) := by
  unfold forceOff
  repeat' first
    | with_reducible exact Only.refl _ _
    | with_reducible refine Only.ite ?_ ?_
    | with_reducible refine Only.andThen ?_ (beginDecay_only ..) (by decide)
    | with_reducible refine Only.andThen ?_ (cancelStart_only ..) (by decide)
    | with_reducible refine Only.andThen ?_ (modCh_only ..) (by decide)
    | dsimp only
    | split

theorem startRequest_only (c : Fin 96) (d : Tick) (s : State) : Only [.sys, .pd0, .host, .map, .vdr] s (startRequest c d s).1 := by
  unfold startRequest
  repeat' first
    | with_reducible exact Only.refl _ _
    | with_reducible refine Only.iteFst ?_ ?_
    | with_reducible refine Only.ite ?_ ?_
    | with_reducible refine Only.andThen ?_ (modCh_only ..) (by decide)
    | with_reducible refine Only.andThen ?_ (startChannel_only ..) (by decide)
    | dsimp only
    | split

theorem contextClear_only (c : Fin 96) (s : State) : Only [.sys, .pd0, .host] s (contextClear c s) := by
  unfold contextClear
  repeat' first
    | with_reducible exact Only.refl _ _
    | with_reducible refine Only.ite ?_ ?_
    | with_reducible refine Only.andThen ?_ (endFault_only ..) (by decide)

theorem finishRetry_only (c : Fin 96) (s : State) : Only [.sys, .pd0, .host, .vdr] s (finishRetry c s) := by
  unfold finishRetry
  repeat' first
    | with_reducible exact Only.refl _ _
    | with_reducible refine Only.ite ?_ ?_
    | with_reducible refine Only.andThen ?_ (contextClear_only ..) (by decide)
    | with_reducible refine Only.andThen ?_ (modProt_only ..) (by decide)

theorem syncConv_only (s : State) : Only [.vdr] s (syncConv s) := by
  unfold syncConv
  repeat' first
    | with_reducible exact Only.refl _ _
    | with_reducible refine Only.ite ?_ ?_
    | with_reducible refine Only.andThen ?_ (State.onVdr_only _ _) (by decide)
    | dsimp only
    | split

theorem settleConv_only (s : State) : Only [.vdr] s (settleConv s) := by
  unfold settleConv
  repeat' first
    | with_reducible exact Only.refl _ _
    | with_reducible refine Only.ite ?_ ?_
    | with_reducible refine Only.andThen ?_ (State.onVdr_only _ _) (by decide)
    | dsimp only
    | split

theorem finishDecay_only (c : Fin 96) (t : Tick) (measured : Bool) (s : State) : Only [.sys, .pd0, .host, .map, .vdr] s (finishDecay c t measured s).1 := by
  unfold finishDecay
  repeat' first
    | with_reducible exact Only.refl _ _
    | with_reducible refine Only.iteFst ?_ ?_
    | with_reducible refine Only.ite ?_ ?_
    | with_reducible refine Only.andThen ?_ (finishRetry_only ..) (by decide)
    | with_reducible refine Only.andThen ?_ (modCh_only ..) (by decide)
    | with_reducible refine Only.andThen ?_ (settleConv_only ..) (by decide)
    | with_reducible refine Only.andThen ?_ (startChannel_only ..) (by decide)
    | dsimp only
    | split

theorem leaveVbst_only (was : State) (t : Tick) (s : State) : Only [.vdr] s (leaveVbst was t s) := by
  unfold leaveVbst
  repeat' first
    | with_reducible exact Only.refl _ _
    | with_reducible refine Only.ite ?_ ?_
    | with_reducible refine Only.andThen ?_ (State.onVdr_only _ _) (by decide)
    | dsimp only
    | split

theorem isolateBank_only (b : Fin 12) (cause : Nat) (s : State) : Only [.sys, .pd0, .host, .map, .vdr] s (isolateBank b cause s) := by
  unfold isolateBank
  repeat' first
    | with_reducible exact Only.refl _ _
    | with_reducible refine Only.ite ?_ ?_
    | with_reducible refine Only.andThen ?_ (forceOff_only ..) (by decide)
    | with_reducible refine Only.andThen ?_ (modBank_only ..) (by decide)
    | with_reducible refine Only.andThen ?_ (notice_only ..) (by decide)
    | with_reducible refine Only.foldlFst (fun _ _ _ => ?_) ?_
    | with_reducible refine Only.foldl (fun _ _ => ?_) ?_
    | dsimp only
    | split

end Sys2Proof.Machine
end

