-- ==== Sys2Proof/Laws/PwmOnly.lean ====
section
/-! SUPPORT. What the operations of Machine/Pwm.lean may change: for each the parts beyond which nothing moves. -/

set_option Elab.async false

namespace Sys2Proof.Machine

theorem modGrid_only (b : Fin 12) (f : Grid → Grid) (s : State) : Only [.pwu] s (modGrid b f s) := by
  unfold modGrid
  repeat' first
    | with_reducible exact Only.refl _ _
    | with_reducible refine Only.ite ?_ ?_
    | with_reducible refine Only.andThen ?_ (State.onPwu_only _ _) (by decide)

theorem modFine_only (g : Fin 8) (f : Fine → Fine) (s : State) : Only [.pwu] s (modFine g f s) := by
  unfold modFine
  repeat' first
    | with_reducible exact Only.refl _ _
    | with_reducible refine Only.ite ?_ ?_
    | with_reducible refine Only.andThen ?_ (State.onPwu_only _ _) (by decide)

theorem modTrig_only (j : Fin 4) (f : TrigOut → TrigOut) (s : State) : Only [.pwu] s (modTrig j f s) := by
  unfold modTrig
  repeat' first
    | with_reducible exact Only.refl _ _
    | with_reducible refine Only.ite ?_ ?_
    | with_reducible refine Only.andThen ?_ (State.onPwu_only _ _) (by decide)

theorem trigCount_only (j : Fin 4) (t : Tick) (tap : Nat) (s : State) : Only [.sys, .host, .pwu] s (trigCount j t tap s) := by
  unfold trigCount
  repeat' first
    | with_reducible exact Only.refl _ _
    | with_reducible refine Only.ite ?_ ?_
    | with_reducible refine Only.andThen ?_ (modTrig_only ..) (by decide)
    | with_reducible refine Only.andThen ?_ (notice_only ..) (by decide)
    | dsimp only
    | split

theorem trigSource_only (kind k : Nat) (t : Tick) (tap : Nat) (s : State) : Only [.sys, .host, .pwu] s (trigSource kind k t tap s) := by
  unfold trigSource
  repeat' first
    | with_reducible exact Only.refl _ _
    | with_reducible refine Only.ite ?_ ?_
    | with_reducible refine Only.andThen ?_ (trigCount_only ..) (by decide)
    | with_reducible refine Only.foldlFst (fun _ _ _ => ?_) ?_
    | with_reducible refine Only.foldl (fun _ _ => ?_) ?_
    | dsimp only
    | split

theorem execBankBoundary_only (b : Fin 12) (s : State) : OnlyR [.sys, .host, .pwu] s (execBankBoundary b s) := by
  unfold execBankBoundary
  repeat' first
    | with_reducible exact Only.refl _ _
    | with_reducible refine OnlyR.next ?_
    | refine OnlyR.ite ?_ ?_
    | with_reducible refine Only.ite ?_ ?_
    | with_reducible refine Only.andThen ?_ (modGrid_only ..) (by decide)
    | with_reducible refine Only.andThen ?_ (trigSource_only ..) (by decide)

theorem writeDuty_only (c : Fin 96) (w : Tick) (d : Nat) (s : State) : Only [.pwu] s (writeDuty c w d s) := by
  unfold writeDuty
  repeat' first
    | with_reducible exact Only.refl _ _
    | with_reducible refine Only.ite ?_ ?_
    | with_reducible refine Only.andThen ?_ (modNoz_only ..) (by decide)

theorem reloadNoz_only (c : Fin 96) (t : Tick) (start : Bool) (s : State) : Only [.time, .pwu] s (reloadNoz c t start s) := by
  unfold reloadNoz
  repeat' first
    | with_reducible exact Only.refl _ _
    | with_reducible refine Only.ite ?_ ?_
    | with_reducible refine Only.andThen ?_ (modNoz_only ..) (by decide)

theorem scheduleClose_only (c : Fin 96) (t o : Tick) (s : State) : Only [.time, .pwu] s (scheduleClose c t o s) := by
  unfold scheduleClose
  repeat' first
    | with_reducible exact Only.refl _ _
    | with_reducible refine Only.ite ?_ ?_
    | with_reducible refine Only.andThen ?_ (modNoz_only ..) (by decide)

theorem genStart_only (c : Fin 96) (t : Tick) (s : State) : Only [.sys, .pd0, .host, .time, .map, .vdr, .pwu] s (genStart c t s) := by
  unfold genStart
  repeat' first
    | with_reducible exact Only.refl _ _
    | with_reducible refine Only.ite ?_ ?_
    | with_reducible refine Only.andThen ?_ (modNoz_only ..) (by decide)
    | with_reducible refine Only.andThen ?_ (scheduleClose_only ..) (by decide)
    | with_reducible refine Only.andThen ?_ (startRequest_only ..) (by decide)
    | dsimp only
    | split

theorem genOn_only (c : Fin 96) (d : Tick) (s : State) : Only [.sys, .pd0, .host, .time, .map, .vdr, .pwu] s (genOn c d s) := by
  unfold genOn
  repeat' first
    | with_reducible exact Only.refl _ _
    | with_reducible refine Only.ite ?_ ?_
    | with_reducible refine Only.andThen ?_ (genStart_only ..) (by decide)
    | with_reducible refine Only.andThen ?_ (modCh_only ..) (by decide)
    | with_reducible refine Only.andThen ?_ (modNoz_only ..) (by decide)
    | with_reducible refine Only.andThen ?_ (reloadNoz_only ..) (by decide)
    | dsimp only
    | split

theorem genOff_only (c : Fin 96) (s : State) : Only [.pwu] s (genOff c s) := by
  unfold genOff
  repeat' first
    | with_reducible exact Only.refl _ _
    | with_reducible refine Only.ite ?_ ?_
    | with_reducible refine Only.andThen ?_ (modNoz_only ..) (by decide)

theorem execGridOpening_only (c : Fin 96) (s : State) : OnlyR [.sys, .pd0, .host, .time, .map, .vdr, .pwu] s (execGridOpening c s) := by
  unfold execGridOpening
  repeat' first
    | with_reducible exact Only.refl _ _
    | with_reducible refine OnlyR.next ?_
    | refine OnlyR.ite ?_ ?_
    | with_reducible refine Only.ite ?_ ?_
    | with_reducible refine Only.andThen ?_ (genStart_only ..) (by decide)
    | with_reducible refine Only.andThen ?_ (modNoz_only ..) (by decide)
    | with_reducible refine Only.andThen ?_ (offRequest_only ..) (by decide)
    | with_reducible refine Only.andThen ?_ (reloadNoz_only ..) (by decide)
    | with_reducible refine Only.andThen ?_ (trigSource_only ..) (by decide)
    | with_reducible refine Only.andThen ?_ (State.onTime_only _ _) (by decide)
    | dsimp only
    | split

theorem execGridClosing_only (c : Fin 96) (s : State) : OnlyR [.sys, .pd0, .host, .map, .vdr, .pwu] s (execGridClosing c s) := by
  unfold execGridClosing
  repeat' first
    | with_reducible exact Only.refl _ _
    | with_reducible refine OnlyR.next ?_
    | refine OnlyR.ite ?_ ?_
    | with_reducible refine Only.ite ?_ ?_
    | with_reducible refine Only.andThen ?_ (modNoz_only ..) (by decide)
    | with_reducible refine Only.andThen ?_ (offRequest_only ..) (by decide)
    | with_reducible refine Only.andThen ?_ (trigSource_only ..) (by decide)
    | dsimp only
    | split

theorem fineTrigger_only (g : Fin 8) (kind u : Nat) (s : State) : Only [.sys, .host, .pwu] s (fineTrigger g kind u s) := by
  unfold fineTrigger
  repeat' first
    | with_reducible exact Only.refl _ _
    | with_reducible refine Only.ite ?_ ?_
    | with_reducible refine Only.andThen ?_ (modFine_only ..) (by decide)
    | with_reducible refine Only.andThen ?_ (trigCount_only ..) (by decide)
    | with_reducible refine Only.andThen ?_ (trigSource_only ..) (by decide)
    | dsimp only
    | split

theorem writeCmp_only (g : Fin 8) (v : Nat) (s : State) : Only [.pwu] s (writeCmp g v s) := by
  unfold writeCmp
  repeat' first
    | with_reducible exact Only.refl _ _
    | with_reducible refine Only.ite ?_ ?_
    | with_reducible refine Only.andThen ?_ (modFine_only ..) (by decide)

theorem finePeak_only (g : Fin 8) (s : State) : Only [.sys, .host, .pwu] s (finePeak g s) := by
  unfold finePeak
  repeat' first
    | with_reducible exact Only.refl _ _
    | with_reducible refine Only.ite ?_ ?_
    | with_reducible refine Only.andThen ?_ (fineTrigger_only ..) (by decide)
    | with_reducible refine Only.andThen ?_ (modFine_only ..) (by decide)
    | dsimp only
    | split

theorem finePeaks_only (s : State) : Only [.sys, .host, .pwu] s (finePeaks s) :=
  Only.foldl (fun _ _ => finePeak_only ..) (Only.refl _ _)

theorem execTrigOutPulse_only (j : Fin 4) (s0 : State) : OnlyR [.sys, .host, .pwu] s0 (execTrigOutPulse j s0) := by
  unfold execTrigOutPulse
  extract_lets s
  split
  · exact OnlyR.ite (OnlyR.next (Only.andThen (finePeaks_only s0) (modTrig_only ..) (by decide))) (OnlyR.next (Only.refl _ _))
  · exact OnlyR.next (Only.refl _ _)

theorem execTrigOutPulseEnd_only (j : Fin 4) (s : State) : OnlyR [.pwu] s (execTrigOutPulseEnd j s) := by
  unfold execTrigOutPulseEnd
  repeat' first
    | with_reducible exact Only.refl _ _
    | with_reducible refine OnlyR.next ?_
    | refine OnlyR.ite ?_ ?_
    | with_reducible refine Only.ite ?_ ?_
    | with_reducible refine Only.andThen ?_ (modTrig_only ..) (by decide)

theorem finePeriodBegun_only (g : Fin 8) (was : Fine) (split : Bool) (r : Nat) (s : State) : Only [.sys, .host, .pwu] s (finePeriodBegun g was split r s) := by
  unfold finePeriodBegun
  repeat' first
    | with_reducible exact Only.refl _ _
    | with_reducible refine Only.ite ?_ ?_
    | with_reducible refine Only.andThen ?_ (fineTrigger_only ..) (by decide)
    | with_reducible refine Only.andThen ?_ (notice_only ..) (by decide)
    | dsimp only
    | split

theorem execFinePeriodStart_only (g : Fin 8) (s0 : State) : OnlyR [.sys, .host, .pwu] s0 (execFinePeriodStart g s0) := by
  unfold execFinePeriodStart
  extract_lets s f r f1 split s1 s2
  refine OnlyR.ite (OnlyR.next ?_) (OnlyR.next (Only.refl _ _))
  have h1 : Only [.sys, .host, .pwu] s0 s1 :=
    Only.ite (finePeak_only ..) (Only.andThen (finePeak_only ..) (fineTrigger_only ..) (by decide))
  exact Only.andThen (Only.andThen h1 (modFine_only ..) (by decide)) (finePeriodBegun_only ..) (by decide)

theorem execGateTransition_only (g : Fin 8) (rising : Bool) (cross : Option Nat) (s0 : State) : OnlyR [.sys, .host, .pwu] s0 (execGateTransition g rising cross s0) := by
  unfold execGateTransition
  repeat' first
    | with_reducible exact Only.refl _ _
    | with_reducible refine OnlyR.next ?_
    | refine OnlyR.ite ?_ ?_
    | with_reducible refine Only.ite ?_ ?_
    | with_reducible refine Only.andThen ?_ (finePeak_only ..) (by decide)
    | with_reducible refine Only.andThen ?_ (fineTrigger_only ..) (by decide)
    | with_reducible refine Only.andThen ?_ (modFine_only ..) (by decide)
    | with_reducible refine Only.andThen ?_ (notice_only ..) (by decide)
    | dsimp only
    | split

theorem gatesOff_only (s : State) : Only [.pwu] s (gatesOff s) := by
  unfold gatesOff
  repeat' first
    | with_reducible exact Only.refl _ _
    | with_reducible refine Only.ite ?_ ?_
    | with_reducible refine Only.andThen ?_ (State.onPwu_only _ _) (by decide)

theorem trigsOff_only (s : State) : Only [.pwu] s (trigsOff s) := by
  unfold trigsOff
  repeat' first
    | with_reducible exact Only.refl _ _
    | with_reducible refine Only.ite ?_ ?_
    | with_reducible refine Only.andThen ?_ (State.onPwu_only _ _) (by decide)
    | dsimp only
    | split

theorem stopNozzles_only (s : State) : Only [.pwu] s (stopNozzles s) := by
  unfold stopNozzles
  repeat' first
    | with_reducible exact Only.refl _ _
    | with_reducible refine Only.ite ?_ ?_
    | with_reducible refine Only.andThen ?_ (State.onPwu_only _ _) (by decide)

theorem commitPwu_only (e : Tick) (old : Params) (s : State) : Only [.sys, .host, .pwu] s (commitPwu e old s) := by
  unfold commitPwu
  repeat' first
    | with_reducible exact Only.refl _ _
    | with_reducible refine Only.ite ?_ ?_
    | with_reducible refine Only.andThen ?_ (finePeriodBegun_only ..) (by decide)
    | with_reducible refine Only.andThen ?_ (State.onPwu_only _ _) (by decide)
    | with_reducible refine Only.foldlFst (fun _ _ _ => ?_) ?_
    | with_reducible refine Only.foldl (fun _ _ => ?_) ?_
    | dsimp only
    | split

end Sys2Proof.Machine
end

