-- ==== Sys2Proof/Laws/InputsOnly.lean ====
section
/-! SUPPORT. What the operations of Machine/Inputs.lean may change: for each the parts beyond which nothing moves. -/

set_option Elab.async false

namespace Sys2Proof.Machine

theorem modEnc_only (i : Fin 4) (f : Enc → Enc) (s : State) : Only [.pif] s (modEnc i f s) := by
  unfold modEnc
  repeat' first
    | with_reducible exact Only.refl _ _
    | with_reducible refine Only.ite ?_ ?_
    | with_reducible refine Only.andThen ?_ (State.onPif_only _ _) (by decide)

theorem modHall_only (i : Fin 4) (f : Enc → Enc) (s : State) : Only [.pif] s (modHall i f s) := by
  unfold modHall
  repeat' first
    | with_reducible exact Only.refl _ _
    | with_reducible refine Only.ite ?_ ?_
    | with_reducible refine Only.andThen ?_ (State.onPif_only _ _) (by decide)

theorem modFreq_only (i : Fin 16) (f : Freq → Freq) (s : State) : Only [.pif] s (modFreq i f s) := by
  unfold modFreq
  repeat' first
    | with_reducible exact Only.refl _ _
    | with_reducible refine Only.ite ?_ ?_
    | with_reducible refine Only.andThen ?_ (State.onPif_only _ _) (by decide)

theorem modEvt_only (i : Fin 8) (f : EvtIn → EvtIn) (s : State) : Only [.pif] s (modEvt i f s) := by
  unfold modEvt
  repeat' first
    | with_reducible exact Only.refl _ _
    | with_reducible refine Only.ite ?_ ?_
    | with_reducible refine Only.andThen ?_ (State.onPif_only _ _) (by decide)

theorem modAin_only (i : Fin 32) (f : Ain → Ain) (s : State) : Only [.pif] s (modAin i f s) := by
  unfold modAin
  repeat' first
    | with_reducible exact Only.refl _ _
    | with_reducible refine Only.ite ?_ ?_
    | with_reducible refine Only.andThen ?_ (State.onPif_only _ _) (by decide)

theorem modEmu_only (x : Fin 2) (f : Emu → Emu) (s : State) : Only [.pif] s (modEmu x f s) := by
  unfold modEmu
  repeat' first
    | with_reducible exact Only.refl _ _
    | with_reducible refine Only.ite ?_ ?_
    | with_reducible refine Only.andThen ?_ (State.onPif_only _ _) (by decide)

theorem emuUpdate_only (x : Fin 2) (f : Emu → Emu) (s : State) : Only [.sys, .host, .pif] s (emuUpdate x f s) := by
  unfold emuUpdate
  repeat' first
    | with_reducible exact Only.refl _ _
    | with_reducible refine Only.ite ?_ ?_
    | with_reducible refine Only.andThen ?_ (modEmu_only ..) (by decide)
    | with_reducible refine Only.andThen ?_ (notice_only ..) (by decide)

theorem emuFollow_only (i : Fin 4) (d : Int) (s : State) : Only [.sys, .host, .pif] s (emuFollow i d s) := by
  unfold emuFollow
  repeat' first
    | with_reducible exact Only.refl _ _
    | with_reducible refine Only.ite ?_ ?_
    | with_reducible refine Only.andThen ?_ (emuUpdate_only ..) (by decide)
    | with_reducible refine Only.foldlFst (fun _ _ _ => ?_) ?_
    | with_reducible refine Only.foldl (fun _ _ => ?_) ?_

theorem execEmuOutputStep_only (x : Fin 2) (s : State) : OnlyR [.sys, .host, .pif] s (execEmuOutputStep x s) := by
  unfold execEmuOutputStep
  repeat' first
    | with_reducible exact Only.refl _ _
    | with_reducible refine OnlyR.next ?_
    | refine OnlyR.ite ?_ ?_
    | with_reducible refine Only.ite ?_ ?_
    | with_reducible refine Only.andThen ?_ (emuUpdate_only ..) (by decide)

theorem emuAtEdge_only (e : Tick) (s : State) : Only [.sys, .host, .pif] s (emuAtEdge e s) := by
  unfold emuAtEdge
  repeat' first
    | with_reducible exact Only.refl _ _
    | with_reducible refine Only.ite ?_ ?_
    | with_reducible refine Only.andThen ?_ (modEmu_only ..) (by decide)
    | with_reducible refine Only.andThen ?_ (notice_only ..) (by decide)
    | with_reducible refine Only.foldlFst (fun _ _ _ => ?_) ?_
    | with_reducible refine Only.foldl (fun _ _ => ?_) ?_

theorem emuRestart_only (x : Fin 2) (s : State) : Only [.pif] s (emuRestart x s) := by
  unfold emuRestart
  repeat' first
    | with_reducible exact Only.refl _ _
    | with_reducible refine Only.ite ?_ ?_
    | with_reducible refine Only.andThen ?_ (modEmu_only ..) (by decide)

theorem quadStep_only (i : Fin 4) (t : Tick) (ba : Nat) (s : State) : Only [.sys, .host, .pif] s (quadStep i t ba s) := by
  unfold quadStep
  repeat' first
    | with_reducible exact Only.refl _ _
    | with_reducible refine Only.ite ?_ ?_
    | with_reducible refine Only.andThen ?_ (emuFollow_only ..) (by decide)
    | with_reducible refine Only.andThen ?_ (modEnc_only ..) (by decide)
    | with_reducible refine Only.andThen ?_ (noticeAt_only ..) (by decide)
    | dsimp only
    | split

theorem execEncoderTransition_only (i : Fin 4) (ba : BitVec 2) (s : State) : OnlyR [.sys, .host, .pif] s (execEncoderTransition i ba s) := by
  unfold execEncoderTransition
  repeat' first
    | with_reducible exact Only.refl _ _
    | with_reducible refine OnlyR.next ?_
    | refine OnlyR.ite ?_ ?_
    | with_reducible refine Only.ite ?_ ?_
    | with_reducible refine Only.andThen ?_ (quadStep_only ..) (by decide)

theorem execIndex_only (i : Fin 4) (ba : BitVec 2) (s : State) : OnlyR [.sys, .host, .pif] s (execIndex i ba s) := by
  unfold execIndex
  repeat' first
    | with_reducible exact Only.refl _ _
    | with_reducible refine OnlyR.next ?_
    | refine OnlyR.ite ?_ ?_
    | with_reducible refine Only.ite ?_ ?_
    | with_reducible refine Only.andThen ?_ (modEnc_only ..) (by decide)
    | with_reducible refine Only.andThen ?_ (quadStep_only ..) (by decide)

theorem hallStep_only (i : Fin 4) (at_ : Tick) (w : Nat) (s : State) : Only [.sys, .host, .pif] s (hallStep i at_ w s) := by
  unfold hallStep
  repeat' first
    | with_reducible exact Only.refl _ _
    | with_reducible refine Only.ite ?_ ?_
    | with_reducible refine Only.andThen ?_ (modHall_only ..) (by decide)
    | with_reducible refine Only.andThen ?_ (noticeAt_only ..) (by decide)
    | dsimp only
    | split

theorem execHallTransition_only (i : Fin 4) (wvu : BitVec 3) (s : State) : OnlyR [.sys, .host, .pif] s (execHallTransition i wvu s) := by
  unfold execHallTransition
  repeat' first
    | with_reducible exact Only.refl _ _
    | with_reducible refine OnlyR.next ?_
    | refine OnlyR.ite ?_ ?_
    | with_reducible refine Only.ite ?_ ?_
    | with_reducible refine Only.andThen ?_ (hallStep_only ..) (by decide)
    | with_reducible refine Only.andThen ?_ (modHall_only ..) (by decide)

theorem execHallIllegal_only (i : Fin 4) (s : State) : OnlyR [.sys, .host, .pif] s (execHallIllegal i s) := by
  unfold execHallIllegal
  repeat' first
    | with_reducible exact Only.refl _ _
    | with_reducible refine OnlyR.next ?_
    | refine OnlyR.ite ?_ ?_
    | with_reducible refine Only.ite ?_ ?_
    | with_reducible refine Only.andThen ?_ (modHall_only ..) (by decide)
    | with_reducible refine Only.andThen ?_ (notice_only ..) (by decide)

theorem execFreqEdge_only (i : Fin 16) (s0 : State) : OnlyR [.sys, .host, .pif] s0 (execFreqEdge i s0) := by
  unfold execFreqEdge
  repeat' first
    | with_reducible exact Only.refl _ _
    | with_reducible refine OnlyR.next ?_
    | refine OnlyR.ite ?_ ?_
    | with_reducible refine Only.ite ?_ ?_
    | with_reducible refine Only.andThen ?_ (modFreq_only ..) (by decide)
    | with_reducible refine Only.andThen ?_ (noticeAt_only ..) (by decide)
    | dsimp only
    | split

theorem execEventEdge_only (i : Fin 8) (falling : Bool) (s0 : State) : OnlyR [.sys, .host, .pif] s0 (execEventEdge i falling s0) := by
  unfold execEventEdge
  repeat' first
    | with_reducible exact Only.refl _ _
    | with_reducible refine OnlyR.next ?_
    | refine OnlyR.ite ?_ ?_
    | with_reducible refine Only.ite ?_ ?_
    | with_reducible refine Only.andThen ?_ (modEvt_only ..) (by decide)
    | with_reducible refine Only.andThen ?_ (notice_only ..) (by decide)
    | dsimp only
    | split

theorem eventNotices_only (e : Tick) (s : State) : Only [.host, .pif] s (eventNotices e s) := by
  unfold eventNotices
  repeat' first
    | with_reducible exact Only.refl _ _
    | with_reducible refine Only.ite ?_ ?_
    | with_reducible refine Only.andThen ?_ (modEvt_only ..) (by decide)
    | with_reducible refine Only.andThen ?_ (noticeNow_only ..) (by decide)
    | with_reducible refine Only.foldlFst (fun _ _ _ => ?_) ?_
    | with_reducible refine Only.foldl (fun _ _ => ?_) ?_

theorem execAnalogConversion_only (i : Fin 32) (mv : BitVec 16) (s0 : State) :
    OnlyR [.sys, .host, .pwu, .pif] s0 (execAnalogConversion i mv s0) := by
  unfold execAnalogConversion
  dsimp only
  split
  · refine OnlyR.ite (OnlyR.next ?_) (OnlyR.next (Only.refl _ _))
    have h1 (f) : Only [.sys, .host, .pwu, .pif] s0 (modAin i f (finePeaks s0)) :=
      Only.andThen (Only.andThen (Only.refl _ _) (finePeaks_only s0) (by decide)) (modAin_only ..) (by decide)
    exact Only.ite (Only.andThen (h1 _) (notice_only ..) (by decide)) (h1 _)
  · exact OnlyR.next (Only.refl _ _)

theorem pifFreeze_only (e : Tick) (s : State) : Only [.pif] s (pifFreeze e s) := by
  unfold pifFreeze
  repeat' first
    | with_reducible exact Only.refl _ _
    | with_reducible refine Only.ite ?_ ?_
    | with_reducible refine Only.andThen ?_ (State.onPif_only _ _) (by decide)

theorem commitPif_only (e : Tick) (old : Params) (s : State) : Only [.pif] s (commitPif e old s) := by
  unfold commitPif
  extract_lets other s1
  exact Only.foldl (fun _ _ => Only.ite (emuRestart_only ..) (Only.refl _ _)) (State.onPif_only _ _)

theorem opPifEncSet_only (e : Env) (s : State) : Only [.sys] s (opPifEncSet e s).1 := by
  unfold opPifEncSet
  repeat' first
    | with_reducible exact Only.refl _ _
    | with_reducible refine Only.iteFst ?_ ?_
    | dsimp only [deny, doneEdge]
    | with_reducible refine Only.ite ?_ ?_
    | with_reducible refine Only.andThen ?_ (waitEdge_only ..) (by decide)
    | dsimp only
    | split

theorem applyEncSet_only (i : Fin 8) (v : Int) (e : Tick) (s : State) : Only [.pif] s (applyEncSet i v e s) := by
  unfold applyEncSet
  repeat' first
    | with_reducible exact Only.refl _ _
    | with_reducible refine Only.ite ?_ ?_
    | with_reducible refine Only.andThen ?_ (modEnc_only ..) (by decide)
    | with_reducible refine Only.andThen ?_ (modHall_only ..) (by decide)
    | dsimp only
    | split

theorem opPifEventsRead_only (e : Env) (s : State) : Only [.pif] s (opPifEventsRead e s).1 := by
  unfold opPifEventsRead
  repeat' first
    | with_reducible exact Only.refl _ _
    | with_reducible refine Only.iteFst ?_ ?_
    | dsimp only [deny, doneWith]
    | with_reducible refine Only.ite ?_ ?_
    | with_reducible refine Only.andThen ?_ (modEvt_only ..) (by decide)
    | dsimp only
    | split

end Sys2Proof.Machine
end

