-- ==== Sys2Proof/Laws/ImplementOnly.lean ====
section
/-! SUPPORT. What the operations of Machine/Implement.lean may change: for each the parts beyond which nothing moves. -/

set_option Elab.async false

namespace Sys2Proof.Machine

theorem seedCtx_only (i : Fin 160) (v : List Nat) (s : State) : Only [.sys, .pd0, .host, .vdr] s (seedCtx i v s) := by
  unfold seedCtx
  repeat' first
    | with_reducible exact Only.refl _ _
    | with_reducible refine Only.ite ?_ ?_
    | with_reducible refine Only.andThen ?_ (endFault_only ..) (by decide)
    | with_reducible refine Only.andThen ?_ (contextClear_only ..) (by decide)
    | with_reducible refine Only.andThen ?_ (modLat_only ..) (by decide)
    | dsimp only
    | split

theorem applyImpl_only (n : ImplSet) (s : State) : Only [.sys, .pd0, .nor, .host, .impl, .vdr] s (applyImpl n s) := by
  unfold applyImpl
  repeat' first
    | with_reducible exact Only.refl _ _
    | with_reducible refine Only.ite ?_ ?_
    | with_reducible refine Only.andThen ?_ (seedCtx_only ..) (by decide)
    | with_reducible refine Only.andThen ?_ (State.onNor_only _ _) (by decide)
    | with_reducible refine Only.andThen ?_ (State.onImpl_only _ _) (by decide)
    | with_reducible refine Only.foldlFst (fun _ _ _ => ?_) ?_
    | with_reducible refine Only.foldl (fun _ _ => ?_) ?_

theorem opImplWrite_only (e : Env) (s : State) : Only [.impl] s (opImplWrite e s).1 := by
  unfold opImplWrite
  repeat' first
    | with_reducible exact Only.refl _ _
    | with_reducible refine Only.iteFst ?_ ?_
    | dsimp only [deny, done]
    | with_reducible refine Only.ite ?_ ?_
    | with_reducible refine Only.andThen ?_ (State.onImpl_only _ _) (by decide)
    | dsimp only
    | split

theorem opImplRead_only (e : Env) (s : State) : Only [] s (opImplRead e s).1 := by
  unfold opImplRead
  repeat' first
    | with_reducible exact Only.refl _ _
    | with_reducible refine Only.iteFst ?_ ?_
    | dsimp only [deny, doneWith]
    | with_reducible refine Only.ite ?_ ?_
    | dsimp only
    | split

theorem opImplCommit_only (e : Env) (s : State) : Only [.sys] s (opImplCommit e s).1 := by
  unfold opImplCommit
  repeat' first
    | with_reducible exact Only.refl _ _
    | with_reducible refine Only.iteFst ?_ ?_
    | with_reducible refine Only.ite ?_ ?_
    | with_reducible refine Only.andThen ?_ (waitEdge_only ..) (by decide)
    | dsimp only
    | split

theorem opImplRevert_only (_e : Env) (s : State) : Only [.impl] s (opImplRevert _e s).1 := by
  unfold opImplRevert
  repeat' first
    | with_reducible exact Only.refl _ _
    | with_reducible refine Only.iteFst ?_ ?_
    | dsimp only [done]
    | with_reducible refine Only.ite ?_ ?_
    | with_reducible refine Only.andThen ?_ (State.onImpl_only _ _) (by decide)

theorem bodyFreeze_only (e : Tick) (i : ImplSet) (b : Fin 4) (s : State) : Only [.sys, .host, .impl] s (bodyFreeze e i b s) := by
  unfold bodyFreeze
  repeat' first
    | with_reducible exact Only.refl _ _
    | with_reducible refine Only.ite ?_ ?_
    | with_reducible refine Only.andThen ?_ (noticeAt_only ..) (by decide)
    | with_reducible refine Only.andThen ?_ (State.onImpl_only _ _) (by decide)

theorem implFreeze_only (e : Tick) (s : State) : Only [.sys, .host, .impl] s (implFreeze e s) := by
  unfold implFreeze
  repeat' first
    | with_reducible exact Only.refl _ _
    | with_reducible refine Only.ite ?_ ?_
    | with_reducible refine Only.andThen ?_ (bodyFreeze_only ..) (by decide)
    | with_reducible refine Only.foldlFst (fun _ _ _ => ?_) ?_
    | with_reducible refine Only.foldl (fun _ _ => ?_) ?_
    | dsimp only
    | split

end Sys2Proof.Machine
end

