-- ==== Sys2Proof/Laws/DecideOnly.lean ====
section
/-! SUPPORT. What the operations of Machine/Decide.lean may change: for each the parts beyond which nothing moves. -/

set_option Elab.async false

namespace Sys2Proof.Machine

theorem demandLines_only (ks : List LineKey) (s : State) : Only [.map] s (demandLines ks s).1 := by
  unfold demandLines
  try extract_lets
  repeat' first
    | with_reducible exact Only.refl _ _
    | with_reducible refine Only.iteFst ?_ ?_
    | with_reducible refine Only.ite ?_ ?_
    | with_reducible refine Only.andThen ?_ (demandLine_only ..) (by decide)
    | with_reducible refine Only.foldlFst (fun _ _ _ => ?_) ?_

theorem readFoot_only (v : FeView) (k : Nat) (ps : List Impact) (s : State) : Only [.sys, .pd0, .host, .map] s (readFoot v k ps s).1 := by
  unfold readFoot
  try extract_lets
  repeat' first
    | with_reducible exact Only.refl _ _
    | with_reducible refine Only.iteFst ?_ ?_
    | with_reducible refine Only.ite ?_ ?_
    | with_reducible refine Only.andThen ?_ (meetErrors_only ..) (by decide)
    | extract_lets
    | dsimp only
    | split

theorem readLines_only (before fetched : State) (r : State × List Nat) : Only [.sys, .pd0, .host, .map] r.1 (readLines before fetched r).1 :=
  meetLines_only ..

theorem readTint_only (v : FeView) (k : Nat) (s : State) : Only [.sys, .pd0, .host, .map] s (readTint v k s).1 := by
  unfold readTint
  try extract_lets
  repeat' first
    | with_reducible exact Only.refl _ _
    | with_reducible refine Only.iteFst ?_ ?_
    | with_reducible refine Only.ite ?_ ?_
    | with_reducible refine Only.andThen ?_ (meetErrors_only ..) (by decide)
    | extract_lets
    | dsimp only
    | split

theorem evalCtx_only (v : FeView) (k : Fin 160) (battOff : Bool) (x0 : FeCtx) (s : State) : Only [.sys, .pd0, .host, .map] s (evalCtx v k battOff x0 s).1 := by
  unfold evalCtx
  extract_lets on batt lat ttr sec dirs dirA dirB recA recB r x1 pa pb d0 d a b h ev x2 wa wb moved base cause x3 errs notes c0 late moves cs change
  have h0 : Only [.sys, .pd0, .host, .map] s d0.1 := (Only.refl _ _).andThen (demandLines_only ..) (by decide)
  have hd : Only [.sys, .pd0, .host, .map] s d.1 := (h0.andThen (readFoot_only ..) (by decide)).andThen (readLines_only ..) (by decide)
  clear_value d change notes x3 x2 x1 d0
  with_reducible refine Only.iteFst (Only.refl _ _) (Only.iteFst (Only.refl _ _) (Only.iteFst ?_ ?_))
  · exact Only.andThen (h0.andThen (meetFetched_only ..) (by decide)) (notice_only ..) (by decide)
  · split
    · exact hd
    · extract_lets only dt q d2 d3 w
      have h2 : Only [.sys, .pd0, .host, .map] s d2.1 := hd.andThen (demandLines_only ..) (by decide)
      have h3 : Only [.sys, .pd0, .host, .map] s d3.1 := (h2.andThen (readFoot_only ..) (by decide)).andThen (readLines_only ..) (by decide)
      clear_value d2 d3 q
      with_reducible refine Only.iteFst (Only.iteFst ?_ ?_) ?_
      · exact (h2.andThen (meetFetched_only ..) (by decide)).andThen (notice_only ..) (by decide)
      all_goals assumption

end Sys2Proof.Machine
end

