-- ==== Sys2Proof/Laws/FieldPaintOnly.lean ====
section
/-! SUPPORT. What the operations of Machine/FieldPaint.lean may change: for each the parts beyond which nothing moves. -/

set_option Elab.async false

namespace Sys2Proof.Machine

theorem demandPaint_only (p : Paint) (s : State) : Only [.sys, .pd0, .host, .map] s (demandPaint p s).1 := by
  unfold demandPaint
  try extract_lets
  repeat' first
    | with_reducible exact Only.refl _ _
    | with_reducible refine Only.iteFst ?_ ?_
    | with_reducible refine Only.ite ?_ ?_
    | with_reducible refine Only.andThen ?_ (demandLines_only ..) (by decide)
    | with_reducible refine Only.andThen ?_ (meetFetched_only ..) (by decide)
    | extract_lets
    | dsimp only
    | split

theorem demandPaints_only (ps : List Paint) (s : State) : Only [.sys, .pd0, .host, .map] s (demandPaints ps s).1 := by
  unfold demandPaints
  try extract_lets
  repeat' first
    | with_reducible exact Only.refl _ _
    | with_reducible refine Only.iteFst ?_ ?_
    | with_reducible refine Only.ite ?_ ?_
    | with_reducible refine Only.andThen ?_ (demandPaint_only ..) (by decide)
    | with_reducible refine Only.foldlFst (fun _ _ _ => ?_) ?_
    | with_reducible refine Only.foldl (fun _ _ => ?_) ?_
    | extract_lets
    | dsimp only
    | split

theorem applyPaints_only (ps : List Paint) (s : State) : Only [.sys, .pd0, .host, .map] s (applyPaints ps s).1 := by
  unfold applyPaints
  try extract_lets
  repeat' first
    | with_reducible exact Only.refl _ _
    | with_reducible refine Only.iteFst ?_ ?_
    | with_reducible refine Only.ite ?_ ?_
    | with_reducible refine Only.andThen ?_ (paint_only ..) (by decide)
    | with_reducible refine Only.foldlFst (fun _ _ _ => ?_) ?_

theorem endRuns_only (e : Tick) (s : State) : Only [.fe] s (endRuns e s) := by
  unfold endRuns
  try extract_lets
  repeat' first
    | with_reducible exact Only.refl _ _
    | with_reducible refine Only.ite ?_ ?_
    | with_reducible refine Only.andThen ?_ (State.onFe_only _ _) (by decide)
    | extract_lets
    | dsimp only
    | split

theorem endRunsNow_only (t : Tick) (s : State) : Only [.sys, .pd0, .host, .fe, .map] s (endRunsNow t s) := by
  unfold endRunsNow
  split
  · exact Only.refl _ _
  · exact Only.foldl (fun u r => (Only.refl _ _).andThen (writeLog_only ..) (by decide))
      ((Only.refl _ _).andThen (State.onFe_only _ _) (by decide))

end Sys2Proof.Machine
end

