-- ==== Sys2Proof/Laws/PositionOnly.lean ====
section
/-! SUPPORT. What the operations of Machine/Position.lean may change: for each the parts beyond which nothing moves. -/

set_option Elab.async false

namespace Sys2Proof.Machine

theorem modOdo_only (k : Fin 4) (f : Odo → Odo) (s : State) : Only [.pos] s (modOdo k f s) := by
  unfold modOdo
  try extract_lets
  repeat' first
    | with_reducible exact Only.refl _ _
    | with_reducible refine Only.ite ?_ ?_
    | with_reducible refine Only.andThen ?_ (State.onPos_only _ _) (by decide)

theorem odoUpdate_only (e : Tick) (fix : Bool) (f : FilterSt) (k : Fin 4) (s : State) : Only [.pd0, .pos] s (odoUpdate e fix f k s) := by
  unfold odoUpdate
  extract_lets o t r fused slip since okFrom slipping dist cal s1
  refine Only.ite ((Only.refl _ _).andThen (modOdo_only ..) (by decide)) ?_
  have h1 : Only [.pd0, .pos] s s1 := (Only.refl _ _).andThen (modOdo_only ..) (by decide)
  clear_value s1
  exact Only.ite (h1.andThen (State.onPd0_only _ _) (by decide)) h1

theorem odoMessage_only (type : Nat) (v : Int) (signed : Bool) (sa : Nat) (at_ : Tick) (s : State) : Only [.pos] s (odoMessage type v signed sa at_ s) := by
  unfold odoMessage
  try extract_lets
  repeat' first
    | with_reducible exact Only.refl _ _
    | with_reducible refine Only.ite ?_ ?_
    | with_reducible refine Only.andThen ?_ (modOdo_only ..) (by decide)
    | with_reducible refine Only.foldlFst (fun _ _ _ => ?_) ?_
    | with_reducible refine Only.foldl (fun _ _ => ?_) ?_

theorem execOdoStale_only (k : Fin 4) (s : State) : OnlyR [.pos] s (execOdoStale k s) := by
  unfold execOdoStale
  try extract_lets
  repeat' first
    | with_reducible exact Only.refl _ _
    | with_reducible refine OnlyR.next ?_
    | refine OnlyR.ite ?_ ?_
    | with_reducible refine Only.ite ?_ ?_
    | with_reducible refine Only.andThen ?_ (modOdo_only ..) (by decide)

theorem execAmbiguityCandidate_only (sats : BitVec 32) (ints : List Int) (ratio : Nat) (s : State) : OnlyR [.pos] s (execAmbiguityCandidate sats ints ratio s) := by
  unfold execAmbiguityCandidate
  try extract_lets
  repeat' first
    | with_reducible exact Only.refl _ _
    | with_reducible refine OnlyR.next ?_
    | refine OnlyR.ite ?_ ?_
    | with_reducible refine Only.ite ?_ ?_
    | with_reducible refine Only.andThen ?_ (State.onPos_only _ _) (by decide)
    | extract_lets
    | dsimp only
    | split

theorem ambiguities_only (e : Tick) (v : EpochView) (s : State) : Only [.gnss, .pos] s (ambiguities e v s).1 := by
  unfold ambiguities
  try extract_lets
  repeat' first
    | with_reducible exact Only.refl _ _
    | with_reducible refine Only.iteFst ?_ ?_
    | with_reducible refine Only.ite ?_ ?_
    | with_reducible refine Only.andThen ?_ (State.onGnss_only _ _) (by decide)
    | with_reducible refine Only.andThen ?_ (State.onPos_only _ _) (by decide)
    | extract_lets
    | dsimp only
    | split

theorem opPosGet_only (_e : Env) (s : State) : Only [] s (opPosGet _e s).1 := by
  unfold opPosGet
  try extract_lets
  repeat' first
    | with_reducible exact Only.refl _ _
    | with_reducible refine Only.iteFst ?_ ?_
    | dsimp only [doneWith]

theorem setOrigin_only (o : Origin) (auto : Bool) (e : Tick) (s : State) : Only [.sys, .pd0, .act, .shd, .host, .pos, .map] s (setOrigin o auto e s) := by
  unfold setOrigin
  try extract_lets
  repeat' first
    | with_reducible exact Only.refl _ _
    | (guard_target = Only _ _ (notice ..); with_reducible refine Only.andThen ?_ (notice_only ..) (by decide))
    | with_reducible refine Only.ite ?_ ?_
    | with_reducible refine Only.andThen ?_ (changeOrigin_only ..) (by decide)
    | with_reducible refine Only.andThen ?_ (noticeAt_only ..) (by decide)
    | with_reducible refine Only.andThen ?_ (State.onAct_only _ _) (by decide)
    | with_reducible refine Only.andThen ?_ (State.onShd_only _ _) (by decide)

theorem autoOrigin_only (e : Tick) (q : Quality) (f : FilterSt) (s : State) : Only [.sys, .pd0, .act, .shd, .host, .pos, .map] s (autoOrigin e q f s) := by
  unfold autoOrigin
  try extract_lets
  repeat' first
    | with_reducible exact Only.refl _ _
    | with_reducible refine Only.ite ?_ ?_
    | with_reducible refine Only.andThen ?_ (setOrigin_only ..) (by decide)
    | extract_lets
    | dsimp only
    | split

theorem takeEpoch_only (v : EpochView) (s : State) : Only [.gnss, .pos] s (takeEpoch v s) := by
  unfold takeEpoch
  try extract_lets
  repeat' first
    | with_reducible exact Only.refl _ _
    | with_reducible refine Only.ite ?_ ?_
    | with_reducible refine Only.andThen ?_ (State.onGnss_only _ _) (by decide)
    | with_reducible refine Only.andThen ?_ (State.onPos_only _ _) (by decide)
    | extract_lets
    | dsimp only
    | split

theorem takeImu_only (e : Tick) (f : Freeze) (s : State) : Only [.pos] s (takeImu e f s) := by
  unfold takeImu
  try extract_lets
  repeat' first
    | with_reducible exact Only.refl _ _
    | with_reducible refine Only.ite ?_ ?_
    | with_reducible refine Only.andThen ?_ (State.onPos_only _ _) (by decide)
    | extract_lets
    | dsimp only
    | split

theorem odoAll_only (e : Tick) (s : State) : Only [.pd0, .pos] s (odoAll e s) := by
  unfold odoAll
  try extract_lets
  repeat' first
    | with_reducible exact Only.refl _ _
    | with_reducible refine Only.ite ?_ ?_
    | with_reducible refine Only.andThen ?_ (odoUpdate_only ..) (by decide)
    | with_reducible refine Only.andThen ?_ (State.onPos_only _ _) (by decide)
    | with_reducible refine Only.foldlFst (fun _ _ _ => ?_) ?_
    | with_reducible refine Only.foldl (fun _ _ => ?_) ?_
    | extract_lets
    | dsimp only
    | split

theorem standstill_only (e : Tick) (s : State) : Only [.pos] s (standstill e s) := by
  unfold standstill
  try extract_lets
  repeat' first
    | with_reducible exact Only.refl _ _
    | with_reducible refine Only.ite ?_ ?_
    | with_reducible refine Only.andThen ?_ (State.onPos_only _ _) (by decide)
    | extract_lets
    | dsimp only
    | split

theorem headingRestore_only (f : FilterSt) (s : State) : Only [.pos] s (headingRestore f s).2 := by
  unfold headingRestore
  try extract_lets
  repeat' first
    | with_reducible exact Only.refl _ _
    | with_reducible refine Only.iteSnd ?_ ?_
    | with_reducible refine Only.ite ?_ ?_
    | with_reducible refine Only.andThen ?_ (State.onPos_only _ _) (by decide)
    | extract_lets
    | dsimp only
    | split

theorem positionFault_only (bad : Bool) (s : State) : Only [.sys, .pd0, .host, .pos] s (positionFault bad s) := by
  unfold positionFault
  try extract_lets
  repeat' first
    | with_reducible exact Only.refl _ _
    | with_reducible refine Only.ite ?_ ?_
    | with_reducible refine Only.andThen ?_ (endFault_only ..) (by decide)
    | with_reducible refine Only.andThen ?_ (logFault_only ..) (by decide)
    | with_reducible refine Only.andThen ?_ (State.onPos_only _ _) (by decide)

theorem fuse_only (e : Tick) (s : State) : Only [.pd0, .host, .gnss, .pos] s (fuse e s).1 := by
  unfold fuse
  extract_lets v a s1 still s2 new run corr held f0 r f set s3
  have h1 : Only [.pd0, .host, .gnss, .pos] s s1 :=
    ((((Only.refl _ _).andThen (takeEpoch_only ..) (by decide)).andThen (ambiguities_only ..) (by decide)).andThen
      (odoAll_only ..) (by decide)).andThen (standstill_only ..) (by decide)
  clear_value s1
  have h2 : Only [.pd0, .host, .gnss, .pos] s s2 := h1.andThen (State.onPos_only _ _) (by decide)
  clear_value s2 f0
  have hr : Only [.pd0, .host, .gnss, .pos] s r.2 := h2.andThen (headingRestore_only ..) (by decide)
  clear_value f set
  clear_value r
  have h3 : Only [.pd0, .host, .gnss, .pos] s s3 := hr.andThen (State.onPos_only _ _) (by decide)
  exact h3

theorem posFreeze_only (e : Tick) (fz0 : Freeze) (s0 : State) : Only [.sys, .pd0, .act, .shd, .host, .gnss, .pos, .map] s0 (posFreeze e fz0 s0) := by
  unfold posFreeze
  extract_lets fz s old bad r s4 u v f aligned down q fixedNow word dr step s5 pose lost freed s6 s7 s8
  have h : Only [.sys, .pd0, .act, .shd, .host, .gnss, .pos, .map] s0 s := (Only.refl _ _).andThen (takeImu_only ..) (by decide)
  clear_value s
  refine Only.ite h ?_
  have h4 : Only [.sys, .pd0, .act, .shd, .host, .gnss, .pos, .map] s0 s4 := h.andThen (fuse_only ..) (by decide)
  clear_value s4
  have h5 : Only [.sys, .pd0, .act, .shd, .host, .gnss, .pos, .map] s0 s5 := h4.andThen (autoOrigin_only ..) (by decide)
  clear_value s5 pose freed
  have h6 : Only [.sys, .pd0, .act, .shd, .host, .gnss, .pos, .map] s0 s6 := h5.andThen (State.onPos_only _ _) (by decide)
  clear_value s6
  have h7 : Only [.sys, .pd0, .act, .shd, .host, .gnss, .pos, .map] s0 s7 :=
    Only.ite ((h6.andThen (noticeNow_only ..) (by decide)).andThen (writeLog_only ..) (by decide)) h6
  clear_value s7
  have h8 : Only [.sys, .pd0, .act, .shd, .host, .gnss, .pos, .map] s0 s8 := Only.ite (h7.andThen (noticeAt_only ..) (by decide)) h7
  clear_value s8
  exact h8.andThen (positionFault_only ..) (by decide)

end Sys2Proof.Machine
end

