-- ==== Sys2Proof/Laws/FieldEngineOnly.lean ====
section
/-! SUPPORT. What the operations of Machine/FieldEngine.lean may change: for each the parts beyond which nothing moves. -/

set_option Elab.async false

namespace Sys2Proof.Machine

theorem opFeDirected_only (e : Env) (s : State) : Only [.fe] s (opFeDirected e s).1 := by
  unfold opFeDirected
  try extract_lets
  repeat' first
    | with_reducible exact Only.refl _ _
    | with_reducible refine Only.iteFst ?_ ?_
    | with_reducible refine Only.ite ?_ ?_
    | with_reducible refine Only.andThen ?_ (State.onFe_only _ _) (by decide)
    | extract_lets
    | dsimp only
    | split

theorem opFeDirectedClear_only (e : Env) (s : State) : Only [.fe] s (opFeDirectedClear e s).1 := by
  unfold opFeDirectedClear
  try extract_lets
  repeat' first
    | with_reducible exact Only.refl _ _
    | with_reducible refine Only.iteFst ?_ ?_
    | dsimp only [doneWith]
    | with_reducible refine Only.ite ?_ ?_
    | with_reducible refine Only.andThen ?_ (State.onFe_only _ _) (by decide)

theorem directedFreeze_only (s : State) : Only [.fe] s (directedFreeze s) := by
  unfold directedFreeze
  try extract_lets
  repeat' first
    | with_reducible exact Only.refl _ _
    | with_reducible refine Only.ite ?_ ?_
    | with_reducible refine Only.andThen ?_ (State.onFe_only _ _) (by decide)

theorem directedOff_only (s : State) : Only [.fe] s (directedOff s) := by
  unfold directedOff
  try extract_lets
  repeat' first
    | with_reducible exact Only.refl _ _
    | with_reducible refine Only.ite ?_ ?_
    | with_reducible refine Only.andThen ?_ (State.onFe_only _ _) (by decide)

theorem feStart_only (s : State) : Only [.fe] s (feStart s) := by
  unfold feStart
  try extract_lets
  repeat' first
    | with_reducible exact Only.refl _ _
    | with_reducible refine Only.ite ?_ ?_
    | with_reducible refine Only.andThen ?_ (State.onFe_only _ _) (by decide)

theorem nameLine_only (k : LineKey) (s : State) : Only [.map] s (nameLine k s) := by
  unfold nameLine
  try extract_lets
  repeat' first
    | with_reducible exact Only.refl _ _
    | with_reducible refine Only.ite ?_ ?_
    | with_reducible refine Only.andThen ?_ (State.onMap_only _ _) (by decide)
    | extract_lets
    | dsimp only
    | split

theorem prefetch_only (v : FeView) (s : State) : Only [.sys, .pd0, .host, .map] s (prefetch v s) := by
  unfold prefetch
  extract_lets ks s1
  have h : Only [.sys, .pd0, .host, .map] s s1 :=
    (Only.foldl (fun _ _ => ((Only.refl _ _).andThen (touchLine_only ..) (by decide)).andThen (nameLine_only ..) (by decide))
      (Only.foldl (fun _ _ => (Only.refl _ _).andThen (nameLine_only ..) (by decide)) (Only.refl _ s))).andThen
      (meetFetched_only ..) (by decide)
  clear_value s1
  exact h.andThen (State.onMap_only _ _) (by decide)

theorem evalOne_only (v : FeView) (decides : Bool) (k : Fin 160) (a : FrameEval) :
    Only [.sys, .pd0, .host, .map] a.st (evalOne v decides k a).st := by
  unfold evalOne
  split
  · exact Only.refl _ _
  · extract_lets t errs off r
    have h : Only [.sys, .pd0, .host, .map] a.st t.1 := (Only.refl _ _).andThen (readTint_only v k.val a.st) (by decide)
    clear_value t
    split
    · exact h.andThen (evalCtx_only v k off a.ctx[k] t.1) (by decide)
    · exact h

theorem evalAll_only (v : FeView) (decides : Bool) (ks : List (Fin 160)) (a : FrameEval) :
    Only [.sys, .pd0, .host, .map] a.st (ks.foldl (fun a k => evalOne v decides k a) a).st := by
  induction ks generalizing a with
  | nil => exact Only.refl _ _
  | cons k ks ih => exact (evalOne_only v decides k a).andThen (ih _) (by decide)

theorem formBatch_only (e : Tick) (i : ImplSet) (s : State) : Only [.sys, .pd0, .host, .map] s (formBatch e i s).1 := by
  unfold formBatch
  extract_lets v decides ev s1 rate pl before after fp dp s2 dirs thermal
  have h1 : Only [.sys, .pd0, .host, .map] s s1 :=
    ((Only.refl _ s).andThen (State.onMap_only s fun m => { m with misses := 0 }) (by decide)).andThen
      (evalAll_only v decides (List.finRange 160) { st := s.onMap (fun m => { m with misses := 0 }), ctx := s.fe.ctx }) (by decide)
  clear_value s1 thermal dirs
  have hd : Only [.sys, .pd0, .host, .map] s dp.1 := h1.andThen (demandPaints_only ..) (by decide)
  clear_value dp
  have h2 : Only [.sys, .pd0, .host, .map] s s2 := Only.ite hd (hd.andThen (notice_only ..) (by decide))
  clear_value s2
  exact h2.andThen (prefetch_only ..) (by decide)

theorem execDecisionPhase_only (s : State) : OnlyR [.sys, .pd0, .host, .fe, .map] s (execDecisionPhase s) := by
  unfold execDecisionPhase
  split
  · refine OnlyR.ite ?_ (OnlyR.next (Only.refl _ _))
    extract_lets s1
    have h1 : Only [.sys, .pd0, .host, .fe, .map] s s1 := (Only.refl _ s).andThen (State.onSys_only _ _) (by decide)
    clear_value s1
    refine OnlyR.ite ?_ (OnlyR.next h1)
    split
    · exact OnlyR.next ((h1.andThen (formBatch_only ..) (by decide)).andThen (State.onFe_only _ _) (by decide))
    · exact OnlyR.next (h1.andThen (State.onFe_only _ _) (by decide))
  · exact OnlyR.next (Only.refl _ _)

theorem enqueueEv_only (ev : Ev) (s : State) : Only [.vdr] s (enqueueEv ev s) := by
  unfold enqueueEv
  try extract_lets
  repeat' first
    | with_reducible exact Only.refl _ _
    | with_reducible refine Only.ite ?_ ?_
    | with_reducible refine Only.andThen ?_ (modBank_only ..) (by decide)
    | extract_lets
    | dsimp only
    | split

theorem commitPhases_only (e : Tick) (s : State) : Only [.sys, .nor, .host, .impl, .pwu] s (commitPhases e s) := by
  unfold commitPhases
  try extract_lets
  repeat' first
    | with_reducible exact Only.refl _ _
    | with_reducible refine Only.ite ?_ ?_
    | with_reducible refine Only.andThen ?_ (notice_only ..) (by decide)
    | with_reducible refine Only.andThen ?_ (State.onNor_only _ _) (by decide)
    | with_reducible refine Only.andThen ?_ (State.onImpl_only _ _) (by decide)
    | with_reducible refine Only.andThen ?_ (State.onPwu_only _ _) (by decide)
    | with_reducible refine Only.foldlFst (fun _ _ _ => ?_) ?_
    | with_reducible refine Only.foldl (fun _ _ => ?_) ?_
    | extract_lets
    | dsimp only
    | split

end Sys2Proof.Machine
end

