-- ==== Sys2Proof/Laws/CanOnly.lean ====
section
/-! SUPPORT. What the operations of Machine/Can.lean may change: for each the parts beyond which nothing moves. -/

set_option Elab.async false

namespace Sys2Proof.Machine

theorem modCtl_only (x : Fin 3) (f : CanCtl → CanCtl) (s : State) : Only [.can] s (modCtl x f s) := by
  unfold modCtl
  try extract_lets
  repeat' first
    | with_reducible exact Only.refl _ _
    | with_reducible refine Only.ite ?_ ?_
    | (guard_target = Only _ _ (State.onCan ..); with_reducible refine Only.andThen ?_ (State.onCan_only _ _) (by decide))

theorem modSlot_only (x : Fin 3) (k : Fin 32) (f : Slot → Slot) (s : State) : Only [.can] s (modSlot x k f s) := by
  unfold modSlot
  try extract_lets
  repeat' first
    | with_reducible exact Only.refl _ _
    | with_reducible refine Only.ite ?_ ?_
    | (guard_target = Only _ _ (modCtl ..); with_reducible refine Only.andThen ?_ (modCtl_only ..) (by decide))

theorem modNode_only (n : Fin 32) (f : Node → Node) (s : State) : Only [.can] s (modNode n f s) := by
  unfold modNode
  try extract_lets
  repeat' first
    | with_reducible exact Only.refl _ _
    | with_reducible refine Only.ite ?_ ?_
    | (guard_target = Only _ _ (State.onCan ..); with_reducible refine Only.andThen ?_ (State.onCan_only _ _) (by decide))

theorem canNote_only (x : Fin 3) (code obj : Nat) (body : List Byte) (s : State) : Only [.sys, .host] s (canNote x code obj body s) := by
  unfold canNote
  try extract_lets
  repeat' first
    | with_reducible exact Only.refl _ _
    | with_reducible refine Only.ite ?_ ?_
    | (guard_target = Only _ _ (notice ..); with_reducible refine Only.andThen ?_ (notice_only ..) (by decide))

theorem storeFrame_only (x : Fin 3) (k : Nat) (f : CanFrame) (s : State) : Only [.can] s (storeFrame x k f s) := by
  unfold storeFrame
  try extract_lets
  repeat' first
    | with_reducible exact Only.refl _ _
    | with_reducible refine Only.ite ?_ ?_
    | (guard_target = Only _ _ (modCtl ..); with_reducible refine Only.andThen ?_ (modCtl_only ..) (by decide))

theorem readHole_only (x : Fin 3) (k : Nat) (s : State) : Only [.can] s (readHole x k s).2 := by
  unfold readHole
  try extract_lets
  repeat' first
    | with_reducible exact Only.refl _ _
    | with_reducible refine Only.iteSnd ?_ ?_
    | with_reducible refine Only.ite ?_ ?_
    | (guard_target = Only _ _ (modCtl ..); with_reducible refine Only.andThen ?_ (modCtl_only ..) (by decide))

theorem hostRead_only (x : Fin 3) (k : Nat) (s : State) : Only [.can] s (hostRead x k s).2 := by
  unfold hostRead
  try extract_lets
  repeat' first
    | with_reducible exact Only.refl _ _
    | with_reducible refine Only.iteSnd ?_ ?_
    | with_reducible refine Only.ite ?_ ?_
    | (guard_target = Only _ _ (readHole ..).2; with_reducible refine Only.andThen ?_ (readHole_only ..) (by decide))
    | extract_lets
    | dsimp only
    | split
    | dsimp +zetaDelta only

theorem rxNotices_only (t : Tick) (s : State) : Only [.host, .can] s (rxNotices t s) := by
  unfold rxNotices
  refine Only.foldl (fun u x => ?_) (Only.refl _ _)
  extract_lets new
  exact Only.ite (Only.refl _ _) (((Only.refl _ _).andThen (modCtl_only ..) (by decide)).andThen (noticeNow_only ..) (by decide))

theorem loadSlot_only (x : Fin 3) (k : Fin 32) (owner : SlotOwner) (d : Nat) (s : State) : Only [.can] s (loadSlot x k owner d s) := by
  unfold loadSlot
  try extract_lets
  repeat' first
    | with_reducible exact Only.refl _ _
    | with_reducible refine Only.ite ?_ ?_
    | (guard_target = Only _ _ (modSlot ..); with_reducible refine Only.andThen ?_ (modSlot_only ..) (by decide))

theorem loadRowCmd_only (k : Fin 32) (n : Fin 32) (e : Tick) (allOff : Bool) (deadline : Tick) (entries : List (List Byte)) (rates : List (Fin 64 × Nat × Nat)) (s : State) : Only [.can] s (loadRowCmd k n e allOff deadline entries rates s) := by
  unfold loadRowCmd
  try extract_lets
  repeat' first
    | with_reducible exact Only.refl _ _
    | with_reducible refine Only.ite ?_ ?_
    | (guard_target = Only _ _ (loadSlot ..); with_reducible refine Only.andThen ?_ (loadSlot_only ..) (by decide))
    | (guard_target = Only _ _ (State.onCan ..); with_reducible refine Only.andThen ?_ (State.onCan_only _ _) (by decide))
    | extract_lets
    | dsimp only
    | split
    | dsimp +zetaDelta only

theorem sendAllOff_only (s : State) : Only [.can] s (sendAllOff s) := by
  unfold sendAllOff
  try extract_lets
  repeat' first
    | with_reducible exact Only.refl _ _
    | with_reducible refine Only.ite ?_ ?_
    | (guard_target = Only _ _ (loadRowCmd ..); with_reducible refine Only.andThen ?_ (loadRowCmd_only ..) (by decide))
    | (guard_target = Only _ _ (State.onCan ..); with_reducible refine Only.andThen ?_ (State.onCan_only _ _) (by decide))
    | with_reducible refine Only.foldl (fun _ _ => ?_) ?_
    | with_reducible refine Only.foldlFst (fun _ _ _ => ?_) ?_
    | extract_lets
    | dsimp only
    | split

theorem moreAllOff_only (s : State) : Only [.can] s (moreAllOff s) := by
  unfold moreAllOff
  try extract_lets
  repeat' first
    | with_reducible exact Only.refl _ _
    | with_reducible refine Only.ite ?_ ?_
    | (guard_target = Only _ _ (sendAllOff ..); with_reducible refine Only.andThen ?_ (sendAllOff_only ..) (by decide))
    | extract_lets
    | dsimp only
    | split
    | dsimp +zetaDelta only

theorem rowUndelivered_only (k : Nat) (s : State) : Only [.can] s (rowUndelivered k s) := by
  unfold rowUndelivered
  try extract_lets
  repeat' first
    | with_reducible exact Only.refl _ _
    | with_reducible refine Only.ite ?_ ?_
    | (guard_target = Only _ _ (State.onCan ..); with_reducible refine Only.andThen ?_ (State.onCan_only _ _) (by decide))

theorem rowSent_only (k : Nat) (eof : Tick) (s : State) : Only [.can] s (rowSent k eof s) := by
  unfold rowSent
  try extract_lets
  repeat' first
    | with_reducible exact Only.refl _ _
    | with_reducible refine Only.ite ?_ ?_
    | (guard_target = Only _ _ (modNode ..); with_reducible refine Only.andThen ?_ (modNode_only ..) (by decide))
    | (guard_target = Only _ _ (State.onCan ..); with_reducible refine Only.andThen ?_ (State.onCan_only _ _) (by decide))
    | with_reducible refine Only.foldl (fun _ _ => ?_) ?_
    | with_reducible refine Only.foldlFst (fun _ _ _ => ?_) ?_
    | extract_lets
    | dsimp only
    | split
    | dsimp +zetaDelta only

theorem rowDone_only (k : Fin 32) (l : Slot) (o : TxOutcome) (eof : Tick) (s : State) : Only [.sys, .host, .can] s (rowDone k l o eof s) := by
  unfold rowDone
  try extract_lets
  repeat' first
    | with_reducible exact Only.refl _ _
    | with_reducible refine Only.ite ?_ ?_
    | (guard_target = Only _ _ (canNote ..); with_reducible refine Only.andThen ?_ (canNote_only ..) (by decide))
    | (guard_target = Only _ _ (loadSlot ..); with_reducible refine Only.andThen ?_ (loadSlot_only ..) (by decide))
    | (guard_target = Only _ _ (moreAllOff ..); with_reducible refine Only.andThen ?_ (moreAllOff_only ..) (by decide))
    | (guard_target = Only _ _ (rowSent ..); with_reducible refine Only.andThen ?_ (rowSent_only ..) (by decide))
    | (guard_target = Only _ _ (rowUndelivered ..); with_reducible refine Only.andThen ?_ (rowUndelivered_only ..) (by decide))
    | (guard_target = Only _ _ (State.onCan ..); with_reducible refine Only.andThen ?_ (State.onCan_only _ _) (by decide))
    | extract_lets
    | dsimp only
    | split
    | dsimp +zetaDelta only

theorem sendClaim_only (s : State) : Only [.can] s (sendClaim s) := by
  unfold sendClaim
  try extract_lets
  repeat' first
    | with_reducible exact Only.refl _ _
    | with_reducible refine Only.ite ?_ ?_
    | (guard_target = Only _ _ (loadSlot ..); with_reducible refine Only.andThen ?_ (loadSlot_only ..) (by decide))
    | (guard_target = Only _ _ (State.onCan ..); with_reducible refine Only.andThen ?_ (State.onCan_only _ _) (by decide))

theorem isoDone_only (l : Slot) (o : TxOutcome) (eof : Tick) (s : State) : Only [.can] s (isoDone l o eof s) := by
  unfold isoDone
  try extract_lets
  repeat' first
    | with_reducible exact Only.refl _ _
    | with_reducible refine Only.ite ?_ ?_
    | (guard_target = Only _ _ (sendClaim ..); with_reducible refine Only.andThen ?_ (sendClaim_only ..) (by decide))
    | (guard_target = Only _ _ (State.onCan ..); with_reducible refine Only.andThen ?_ (State.onCan_only _ _) (by decide))

theorem endSlot_only (x : Fin 3) (k : Fin 32) (o : TxOutcome) (eof : Tick) (s : State) : Only [.sys, .host, .can] s (endSlot x k o eof s) := by
  unfold endSlot
  try extract_lets
  repeat' first
    | with_reducible exact Only.refl _ _
    | with_reducible refine Only.ite ?_ ?_
    | (guard_target = Only _ _ (canNote ..); with_reducible refine Only.andThen ?_ (canNote_only ..) (by decide))
    | (guard_target = Only _ _ (isoDone ..); with_reducible refine Only.andThen ?_ (isoDone_only ..) (by decide))
    | (guard_target = Only _ _ (modSlot ..); with_reducible refine Only.andThen ?_ (modSlot_only ..) (by decide))
    | (guard_target = Only _ _ (rowDone ..); with_reducible refine Only.andThen ?_ (rowDone_only ..) (by decide))
    | extract_lets
    | dsimp only
    | split

theorem execCanTxStart_only (x : Fin 3) (s : State) : OnlyR [.can] s (execCanTxStart x s) := by
  unfold execCanTxStart
  try extract_lets
  repeat' first
    | with_reducible exact Only.refl _ _
    | with_reducible refine OnlyR.next ?_
    | refine OnlyR.ite ?_ ?_
    | with_reducible refine Only.ite ?_ ?_
    | (guard_target = Only _ _ (modSlot ..); with_reducible refine Only.andThen ?_ (modSlot_only ..) (by decide))
    | extract_lets
    | dsimp only
    | split

theorem enterBusOff_only (x : Fin 3) (s : State) : Only [.sys, .pd0, .host, .pos, .can] s (enterBusOff x s) := by
  unfold enterBusOff
  try extract_lets
  repeat' first
    | with_reducible exact Only.refl _ _
    | with_reducible refine Only.ite ?_ ?_
    | (guard_target = Only _ _ (logFault ..); with_reducible refine Only.andThen ?_ (logFault_only ..) (by decide))
    | (guard_target = Only _ _ (modCtl ..); with_reducible refine Only.andThen ?_ (modCtl_only ..) (by decide))
    | (guard_target = Only _ _ (State.onPos ..); with_reducible refine Only.andThen ?_ (State.onPos_only _ _) (by decide))
    | (guard_target = Only _ _ (State.onCan ..); with_reducible refine Only.andThen ?_ (State.onCan_only _ _) (by decide))

theorem setCounters_only (x : Fin 3) (tec rc : Nat) (s : State) : Only [.sys, .pd0, .host, .pos, .can] s (setCounters x tec rc s) := by
  unfold setCounters
  try extract_lets
  repeat' first
    | with_reducible exact Only.refl _ _
    | with_reducible refine Only.ite ?_ ?_
    | (guard_target = Only _ _ (canNote ..); with_reducible refine Only.andThen ?_ (canNote_only ..) (by decide))
    | (guard_target = Only _ _ (enterBusOff ..); with_reducible refine Only.andThen ?_ (enterBusOff_only ..) (by decide))
    | (guard_target = Only _ _ (modCtl ..); with_reducible refine Only.andThen ?_ (modCtl_only ..) (by decide))

theorem execReceiveError_only (x : Fin 3) (recUp : Nat) (s : State) : OnlyR [.sys, .pd0, .host, .pos, .can] s (execReceiveError x recUp s) := by
  unfold execReceiveError
  try extract_lets
  repeat' first
    | with_reducible exact Only.refl _ _
    | with_reducible refine OnlyR.next ?_
    | refine OnlyR.ite ?_ ?_
    | with_reducible refine Only.ite ?_ ?_
    | (guard_target = Only _ _ (setCounters ..); with_reducible refine Only.andThen ?_ (setCounters_only ..) (by decide))

theorem execBusoffRecoveryComplete_only (x : Fin 3) (s : State) : OnlyR [.sys, .pd0, .host, .can] s (execBusoffRecoveryComplete x s) := by
  unfold execBusoffRecoveryComplete
  try extract_lets
  repeat' first
    | with_reducible exact Only.refl _ _
    | with_reducible refine OnlyR.next ?_
    | refine OnlyR.ite ?_ ?_
    | with_reducible refine Only.ite ?_ ?_
    | (guard_target = Only _ _ (canNote ..); with_reducible refine Only.andThen ?_ (canNote_only ..) (by decide))
    | (guard_target = Only _ _ (endFault ..); with_reducible refine Only.andThen ?_ (endFault_only ..) (by decide))
    | (guard_target = Only _ _ (modCtl ..); with_reducible refine Only.andThen ?_ (modCtl_only ..) (by decide))
    | (guard_target = Only _ _ (State.onCan ..); with_reducible refine Only.andThen ?_ (State.onCan_only _ _) (by decide))

theorem execBusRejoin_only (x : Fin 3) (s : State) : OnlyR [.sys, .host, .can] s (execBusRejoin x s) := by
  unfold execBusRejoin
  try extract_lets
  repeat' first
    | with_reducible exact Only.refl _ _
    | with_reducible refine OnlyR.next ?_
    | refine OnlyR.ite ?_ ?_
    | with_reducible refine Only.ite ?_ ?_
    | (guard_target = Only _ _ (canNote ..); with_reducible refine Only.andThen ?_ (canNote_only ..) (by decide))
    | (guard_target = Only _ _ (modCtl ..); with_reducible refine Only.andThen ?_ (modCtl_only ..) (by decide))

theorem dropActive_only (x : Fin 3) (s : State) : Only [.sys, .host, .can] s (dropActive x s) := by
  unfold dropActive
  try extract_lets
  repeat' first
    | with_reducible exact Only.refl _ _
    | with_reducible refine Only.ite ?_ ?_
    | (guard_target = Only _ _ (endSlot ..); with_reducible refine Only.andThen ?_ (endSlot_only ..) (by decide))
    | (guard_target = Only _ _ (modSlot ..); with_reducible refine Only.andThen ?_ (modSlot_only ..) (by decide))
    | extract_lets
    | dsimp only
    | split
    | dsimp +zetaDelta only

theorem takeOff_only (x : Fin 3) (s : State) : Only [.sys, .host, .can] s (takeOff x s) := by
  unfold takeOff
  try extract_lets
  repeat' first
    | with_reducible exact Only.refl _ _
    | with_reducible refine Only.ite ?_ ?_
    | (guard_target = Only _ _ (dropActive ..); with_reducible refine Only.andThen ?_ (dropActive_only ..) (by decide))
    | (guard_target = Only _ _ (modCtl ..); with_reducible refine Only.andThen ?_ (modCtl_only ..) (by decide))
    | extract_lets
    | dsimp only
    | split
    | dsimp +zetaDelta only

theorem commitCan_only (old : Params) (s : State) : Only [.sys, .host, .can] s (commitCan old s) := by
  unfold commitCan
  try extract_lets
  repeat' first
    | with_reducible exact Only.refl _ _
    | with_reducible refine Only.ite ?_ ?_
    | (guard_target = Only _ _ (modCtl ..); with_reducible refine Only.andThen ?_ (modCtl_only ..) (by decide))
    | (guard_target = Only _ _ (takeOff ..); with_reducible refine Only.andThen ?_ (takeOff_only ..) (by decide))
    | with_reducible refine Only.foldl (fun _ _ => ?_) ?_
    | with_reducible refine Only.foldlFst (fun _ _ _ => ?_) ?_
    | extract_lets
    | dsimp only
    | split
    | dsimp +zetaDelta only

theorem retrySlot_only (x : Fin 3) (k : Fin 32) (s : State) : Only [.sys, .host, .can] s (retrySlot x k s) := by
  unfold retrySlot
  try extract_lets
  repeat' first
    | with_reducible exact Only.refl _ _
    | with_reducible refine Only.ite ?_ ?_
    | (guard_target = Only _ _ (endSlot ..); with_reducible refine Only.andThen ?_ (endSlot_only ..) (by decide))
    | (guard_target = Only _ _ (modSlot ..); with_reducible refine Only.andThen ?_ (modSlot_only ..) (by decide))

theorem takeTdc_only (x : Fin 3) (k : Fin 32) (t : Option Nat) (s : State) : Only [.sys, .host, .can] s (takeTdc x k t s) := by
  unfold takeTdc
  try extract_lets
  repeat' first
    | with_reducible exact Only.refl _ _
    | with_reducible refine Only.ite ?_ ?_
    | (guard_target = Only _ _ (canNote ..); with_reducible refine Only.andThen ?_ (canNote_only ..) (by decide))
    | (guard_target = Only _ _ (modCtl ..); with_reducible refine Only.andThen ?_ (modCtl_only ..) (by decide))
    | extract_lets
    | dsimp only
    | split
    | dsimp +zetaDelta only

theorem execCanTxEnd_only (x : Fin 3) (r : TxResult) (s : State) : OnlyR [.sys, .pd0, .host, .pos, .can] s (execCanTxEnd x r s) := by
  unfold execCanTxEnd
  split
  · exact OnlyR.next (Only.refl _ _)
  · split
    · extract_lets l s1 s2 f
      have h1 : Only [.sys, .pd0, .host, .pos, .can] s s1 := ((Only.refl _ s).andThen (modSlot_only ..) (by decide)).andThen (takeTdc_only ..) (by decide)
      clear_value s1
      have h2 : Only [.sys, .pd0, .host, .pos, .can] s s2 := (h1.andThen (setCounters_only ..) (by decide)).andThen (endSlot_only ..) (by decide)
      clear_value s2 f
      refine OnlyR.ite ?_ (OnlyR.next h2)
      split
      · exact OnlyR.next (h2.andThen (storeFrame_only ..) (by decide))
      · exact OnlyR.next h2
    · exact OnlyR.next ((Only.refl _ s).andThen (retrySlot_only ..) (by decide))
    · extract_lets l n hit s1 s2
      have h1 : Only [.sys, .pd0, .host, .pos, .can] s s1 := ((Only.refl _ s).andThen (takeTdc_only ..) (by decide)).andThen (modSlot_only ..) (by decide)
      clear_value s1
      have h2 : Only [.sys, .pd0, .host, .pos, .can] s s2 := Only.ite (h1.andThen (canNote_only ..) (by decide)) h1
      clear_value s2
      exact OnlyR.next ((h2.andThen (setCounters_only ..) (by decide)).andThen (retrySlot_only ..) (by decide))

theorem execCanDeadlineExpiry_only (x : Fin 3) (slot : Fin 32) (s : State) : OnlyR [.sys, .host, .can] s (execCanDeadlineExpiry x slot s) := by
  unfold execCanDeadlineExpiry
  try extract_lets
  repeat' first
    | with_reducible exact Only.refl _ _
    | with_reducible refine OnlyR.next ?_
    | refine OnlyR.ite ?_ ?_
    | with_reducible refine Only.ite ?_ ?_
    | (guard_target = Only _ _ (endSlot ..); with_reducible refine Only.andThen ?_ (endSlot_only ..) (by decide))

theorem claimNext_only (s : State) : Only [.can] s (claimNext s) := by
  unfold claimNext
  try extract_lets
  repeat' first
    | with_reducible exact Only.refl _ _
    | with_reducible refine Only.ite ?_ ?_
    | (guard_target = Only _ _ (sendClaim ..); with_reducible refine Only.andThen ?_ (sendClaim_only ..) (by decide))
    | (guard_target = Only _ _ (State.onCan ..); with_reducible refine Only.andThen ?_ (State.onCan_only _ _) (by decide))

theorem addressNote_only (old : Nat) (s : State) : Only [.sys, .host] s (addressNote old s) := by
  unfold addressNote
  try extract_lets
  repeat' first
    | with_reducible exact Only.refl _ _
    | with_reducible refine Only.ite ?_ ?_
    | (guard_target = Only _ _ (canNote ..); with_reducible refine Only.andThen ?_ (canNote_only ..) (by decide))

theorem takeClaim_only (f : CanFrame) (s : State) : Only [.sys, .host, .can] s (takeClaim f s) := by
  unfold takeClaim
  try extract_lets
  repeat' first
    | with_reducible exact Only.refl _ _
    | with_reducible refine Only.ite ?_ ?_
    | (guard_target = Only _ _ (addressNote ..); with_reducible refine Only.andThen ?_ (addressNote_only ..) (by decide))
    | (guard_target = Only _ _ (claimNext ..); with_reducible refine Only.andThen ?_ (claimNext_only ..) (by decide))
    | (guard_target = Only _ _ (sendClaim ..); with_reducible refine Only.andThen ?_ (sendClaim_only ..) (by decide))
    | (guard_target = Only _ _ (State.onCan ..); with_reducible refine Only.andThen ?_ (State.onCan_only _ _) (by decide))

theorem takeRequest_only (f : CanFrame) (s : State) : Only [.can] s (takeRequest f s) := by
  unfold takeRequest
  try extract_lets
  repeat' first
    | with_reducible exact Only.refl _ _
    | with_reducible refine Only.ite ?_ ?_
    | (guard_target = Only _ _ (sendClaim ..); with_reducible refine Only.andThen ?_ (sendClaim_only ..) (by decide))

theorem takeSpeed_only (type : Nat) (f : CanFrame) (s : State) : Only [.pos] s (takeSpeed type f s) := by
  unfold takeSpeed
  try extract_lets
  repeat' first
    | with_reducible exact Only.refl _ _
    | with_reducible refine Only.ite ?_ ?_
    | (guard_target = Only _ _ (odoMessage ..); with_reducible refine Only.andThen ?_ (odoMessage_only ..) (by decide))

theorem takeSegment_only (f : CanFrame) (lost : Bool) (s : State) : Only [.host] s (takeSegment f lost s) := by
  unfold takeSegment
  try extract_lets
  repeat' first
    | with_reducible exact Only.refl _ _
    | with_reducible refine Only.ite ?_ ?_
    | (guard_target = Only _ _ (State.onHost ..); with_reducible refine Only.andThen ?_ (State.onHost_only _ _) (by decide))

theorem useReserved_only (x : Fin 3) (k : Nat) (f : CanFrame) (s : State) : Only [.sys, .host, .pos, .can] s (useReserved x k f s) := by
  unfold useReserved
  try extract_lets
  repeat' first
    | with_reducible exact Only.refl _ _
    | with_reducible refine Only.ite ?_ ?_
    | (guard_target = Only _ _ (readHole ..).2; with_reducible refine Only.andThen ?_ (readHole_only ..) (by decide))
    | (guard_target = Only _ _ (takeClaim ..); with_reducible refine Only.andThen ?_ (takeClaim_only ..) (by decide))
    | (guard_target = Only _ _ (takeRequest ..); with_reducible refine Only.andThen ?_ (takeRequest_only ..) (by decide))
    | (guard_target = Only _ _ (takeSegment ..); with_reducible refine Only.andThen ?_ (takeSegment_only ..) (by decide))
    | (guard_target = Only _ _ (takeSpeed ..); with_reducible refine Only.andThen ?_ (takeSpeed_only ..) (by decide))
    | extract_lets
    | dsimp only
    | split

theorem canFrameReceive_only (x : Fin 3) (f : CanFrame) (s : State) : Only [.free, .sys, .pd0, .host, .pos, .can] s (canFrameReceive x f s) := by
  unfold canFrameReceive
  refine Only.ite ?_ (Only.refl _ _)
  extract_lets rc big rc' s0
  have h0 : Only [.free, .sys, .pd0, .host, .pos, .can] s s0 :=
    Only.andThen (Only.ite ((Only.refl _ s).andThen (State.free_only _ _) (by decide)) (Only.refl _ s)) (setCounters_only ..) (by decide)
  clear_value s0
  split
  · exact h0.andThen (modCtl_only ..) (by decide)
  · extract_lets s1
    have h1 : Only [.free, .sys, .pd0, .host, .pos, .can] s s1 := h0.andThen (storeFrame_only ..) (by decide)
    clear_value s1
    exact Only.ite (h1.andThen (useReserved_only ..) (by decide)) h1

theorem execAddressClaim_only (s : State) : OnlyR [.can] s (execAddressClaim s) := by
  unfold execAddressClaim
  try extract_lets
  repeat' first
    | with_reducible exact Only.refl _ _
    | with_reducible refine OnlyR.next ?_
    | refine OnlyR.ite ?_ ?_
    | with_reducible refine Only.ite ?_ ?_
    | (guard_target = Only _ _ (sendClaim ..); with_reducible refine Only.andThen ?_ (sendClaim_only ..) (by decide))
    | (guard_target = Only _ _ (State.onCan ..); with_reducible refine Only.andThen ?_ (State.onCan_only _ _) (by decide))

theorem execAddressClaimTimer_only (s : State) : OnlyR [.sys, .host, .can] s (execAddressClaimTimer s) := by
  unfold execAddressClaimTimer
  try extract_lets
  repeat' first
    | with_reducible exact Only.refl _ _
    | with_reducible refine OnlyR.next ?_
    | refine OnlyR.ite ?_ ?_
    | with_reducible refine Only.ite ?_ ?_
    | (guard_target = Only _ _ (addressNote ..); with_reducible refine Only.andThen ?_ (addressNote_only ..) (by decide))
    | (guard_target = Only _ _ (State.onCan ..); with_reducible refine Only.andThen ?_ (State.onCan_only _ _) (by decide))
    | extract_lets
    | dsimp only
    | split

theorem execSync_only (s : State) : OnlyR [.can] s (execSync s) := by
  unfold execSync
  try extract_lets
  repeat' first
    | with_reducible exact Only.refl _ _
    | with_reducible refine OnlyR.next ?_
    | refine OnlyR.ite ?_ ?_
    | with_reducible refine Only.ite ?_ ?_
    | (guard_target = Only _ _ (loadSlot ..); with_reducible refine Only.andThen ?_ (loadSlot_only ..) (by decide))
    | (guard_target = Only _ _ (State.onCan ..); with_reducible refine Only.andThen ?_ (State.onCan_only _ _) (by decide))

theorem startAllOff_only (s : State) : Only [.can] s (startAllOff s) := by
  unfold startAllOff
  try extract_lets
  repeat' first
    | with_reducible exact Only.refl _ _
    | with_reducible refine Only.ite ?_ ?_
    | (guard_target = Only _ _ (sendAllOff ..); with_reducible refine Only.andThen ?_ (sendAllOff_only ..) (by decide))
    | (guard_target = Only _ _ (State.onCan ..); with_reducible refine Only.andThen ?_ (State.onCan_only _ _) (by decide))

theorem execAllOffRepeat_only (s : State) : OnlyR [.can] s (execAllOffRepeat s) := by
  unfold execAllOffRepeat
  try extract_lets
  repeat' first
    | with_reducible exact Only.refl _ _
    | with_reducible refine OnlyR.next ?_
    | refine OnlyR.ite ?_ ?_
    | with_reducible refine Only.ite ?_ ?_
    | (guard_target = Only _ _ (startAllOff ..); with_reducible refine Only.andThen ?_ (startAllOff_only ..) (by decide))
    | extract_lets
    | dsimp only
    | split

theorem nodeCmd_only (e : Tick) (n : Fin 32) (acted : Nat → Option (Tick × Bool)) (evs : List Ev) (s : State) : Only [.sys, .host, .can] s (nodeCmd e n acted evs s).1 := by
  unfold nodeCmd
  try extract_lets
  repeat' first
    | with_reducible exact Only.refl _ _
    | with_reducible refine Only.iteFst ?_ ?_
    | with_reducible refine Only.ite ?_ ?_
    | (guard_target = Only _ _ (loadRowCmd ..); with_reducible refine Only.andThen ?_ (loadRowCmd_only ..) (by decide))
    | (guard_target = Only _ _ (modNode ..); with_reducible refine Only.andThen ?_ (modNode_only ..) (by decide))
    | (guard_target = Only _ _ (notice ..); with_reducible refine Only.andThen ?_ (notice_only ..) (by decide))
    | (guard_target = Only _ _ (State.onCan ..); with_reducible refine Only.andThen ?_ (State.onCan_only _ _) (by decide))
    | with_reducible refine Only.foldl (fun _ _ => ?_) ?_
    | with_reducible refine Only.foldlFst (fun _ _ _ => ?_) ?_
    | extract_lets
    | dsimp only
    | split
    | dsimp +zetaDelta only

theorem rowCommands_only (e : Tick) (acted : Nat → Option (Tick × Bool)) (evs : List Ev) (s : State) : Only [.sys, .host, .can] s (rowCommands e acted evs s).1 := by
  unfold rowCommands
  refine Only.iteFst (Only.refl _ _) ?_
  exact Only.foldlFst (fun t b a => (Only.refl _ _).andThen (nodeCmd_only ..) (by decide)) (Only.refl _ _)

theorem remoteMotion_only (i : Fin 160) (noSig : Bool) (s : State) : Only [.sys, .pd0, .host, .vdr] s (remoteMotion i noSig s) := by
  unfold remoteMotion
  try extract_lets
  repeat' first
    | with_reducible exact Only.refl _ _
    | with_reducible refine Only.ite ?_ ?_
    | (guard_target = Only _ _ (endFault ..); with_reducible refine Only.andThen ?_ (endFault_only ..) (by decide))
    | (guard_target = Only _ _ (logFault ..); with_reducible refine Only.andThen ?_ (logFault_only ..) (by decide))
    | (guard_target = Only _ _ (modLat ..); with_reducible refine Only.andThen ?_ (modLat_only ..) (by decide))
    | (guard_target = Only _ _ (notice ..); with_reducible refine Only.andThen ?_ (notice_only ..) (by decide))

theorem reportEntry_only (n : Fin 32) (at_ : Tick) (synced measures : Bool) (s : State) (b : Nat) : Only [.sys, .pd0, .host, .fe, .vdr, .can] s (reportEntry n at_ synced measures s b) := by
  unfold reportEntry
  try extract_lets
  repeat' first
    | with_reducible exact Only.refl _ _
    | with_reducible refine Only.ite ?_ ?_
    | (guard_target = Only _ _ (learn ..); with_reducible refine Only.andThen ?_ (learn_only ..) (by decide))
    | (guard_target = Only _ _ (remoteMotion ..); with_reducible refine Only.andThen ?_ (remoteMotion_only ..) (by decide))
    | (guard_target = Only _ _ (State.onFe ..); with_reducible refine Only.andThen ?_ (State.onFe_only _ _) (by decide))
    | (guard_target = Only _ _ (State.onCan ..); with_reducible refine Only.andThen ?_ (State.onCan_only _ _) (by decide))
    | extract_lets
    | dsimp only
    | split
    | dsimp +zetaDelta only

theorem takeReport_only (n : Fin 32) (s : State) : Only [.sys, .pd0, .host, .fe, .vdr, .can] s (takeReport n s) := by
  unfold takeReport
  try extract_lets
  repeat' first
    | with_reducible exact Only.refl _ _
    | with_reducible refine Only.ite ?_ ?_
    | (guard_target = Only _ _ (endFault ..); with_reducible refine Only.andThen ?_ (endFault_only ..) (by decide))
    | (guard_target = Only _ _ (logFault ..); with_reducible refine Only.andThen ?_ (logFault_only ..) (by decide))
    | (guard_target = Only _ _ (modNode ..); with_reducible refine Only.andThen ?_ (modNode_only ..) (by decide))
    | (guard_target = Only _ _ (readHole ..).2; with_reducible refine Only.andThen ?_ (readHole_only ..) (by decide))
    | (guard_target = Only _ _ (reportEntry ..); with_reducible refine Only.andThen ?_ (reportEntry_only ..) (by decide))
    | with_reducible refine Only.foldl (fun _ _ => ?_) ?_

theorem commandUnreported_only (e : Tick) (s : State) : Only [.fe, .can] s (commandUnreported e s) := by
  unfold commandUnreported
  try extract_lets
  repeat' first
    | with_reducible exact Only.refl _ _
    | with_reducible refine Only.ite ?_ ?_
    | (guard_target = Only _ _ (State.onFe ..); with_reducible refine Only.andThen ?_ (State.onFe_only _ _) (by decide))
    | (guard_target = Only _ _ (State.onCan ..); with_reducible refine Only.andThen ?_ (State.onCan_only _ _) (by decide))

theorem takeReports_only (s : State) : Only [.sys, .pd0, .host, .fe, .vdr, .can] s (takeReports s) := by
  unfold takeReports
  try extract_lets
  repeat' first
    | with_reducible exact Only.refl _ _
    | with_reducible refine Only.ite ?_ ?_
    | (guard_target = Only _ _ (takeReport ..); with_reducible refine Only.andThen ?_ (takeReport_only ..) (by decide))
    | with_reducible refine Only.foldl (fun _ _ => ?_) ?_
    | with_reducible refine Only.foldlFst (fun _ _ _ => ?_) ?_
    | extract_lets
    | dsimp only
    | split
    | dsimp +zetaDelta only

theorem execReportWaitExpiry_only (s : State) : OnlyR [.sys, .pd0, .host, .fe, .vdr, .can] s (execReportWaitExpiry s) := by
  unfold execReportWaitExpiry
  try extract_lets
  repeat' first
    | with_reducible exact Only.refl _ _
    | with_reducible refine OnlyR.next ?_
    | refine OnlyR.ite ?_ ?_
    | with_reducible refine Only.ite ?_ ?_
    | (guard_target = Only _ _ (commandUnreported ..); with_reducible refine Only.andThen ?_ (commandUnreported_only ..) (by decide))
    | (guard_target = Only _ _ (takeReports ..); with_reducible refine Only.andThen ?_ (takeReports_only ..) (by decide))
    | extract_lets
    | dsimp only
    | split
    | dsimp +zetaDelta only

theorem execRowNodeLost_only (n : Fin 32) (s0 : State) : OnlyR [.sys, .pd0, .host, .fe, .vdr, .can] s0 (execRowNodeLost n s0) := by
  unfold execRowNodeLost
  try extract_lets
  repeat' first
    | with_reducible exact Only.refl _ _
    | with_reducible refine OnlyR.next ?_
    | refine OnlyR.ite ?_ ?_
    | with_reducible refine Only.ite ?_ ?_
    | (guard_target = Only _ _ (canNote ..); with_reducible refine Only.andThen ?_ (canNote_only ..) (by decide))
    | (guard_target = Only _ _ (modNode ..); with_reducible refine Only.andThen ?_ (modNode_only ..) (by decide))
    | (guard_target = Only _ _ (takeReport ..); with_reducible refine Only.andThen ?_ (takeReport_only ..) (by decide))
    | (guard_target = Only _ _ (State.onFe ..); with_reducible refine Only.andThen ?_ (State.onFe_only _ _) (by decide))
    | with_reducible refine Only.foldl (fun _ _ => ?_) ?_
    | with_reducible refine Only.foldlFst (fun _ _ _ => ?_) ?_
    | extract_lets
    | dsimp only
    | split
    | dsimp +zetaDelta only

theorem expireInGrace_only (s : State) : Only [.sys, .host, .can] s (expireInGrace s) := by
  unfold expireInGrace
  exact Only.ite (Only.foldl (fun _ _ => (Only.refl _ _).andThen (endSlot_only ..) (by decide)) (Only.refl _ _)) (Only.refl _ _)

theorem uncommit_only (s : State) (r : RowEv) (u : State) : Only [.fe] u (uncommit s r u) := by
  unfold uncommit
  try extract_lets
  repeat' first
    | with_reducible exact Only.refl _ _
    | with_reducible refine Only.ite ?_ ?_
    | (guard_target = Only _ _ (State.onFe ..); with_reducible refine Only.andThen ?_ (State.onFe_only _ _) (by decide))
    | extract_lets
    | dsimp only
    | split
    | dsimp +zetaDelta only

theorem rowFreeze_only (e : Tick) (s0 : State) : Only [.sys, .pd0, .host, .fe, .vdr, .can] s0 (rowFreeze e s0) := by
  unfold rowFreeze
  refine Only.ite (Only.refl _ _) ?_
  extract_lets s s1
  have h0 : Only [.sys, .pd0, .host, .fe, .vdr, .can] s0 s := (Only.refl _ s0).andThen (expireInGrace_only s0) (by decide)
  clear_value s
  have h1 : Only [.sys, .pd0, .host, .fe, .vdr, .can] s0 s1 :=
    Only.foldl (fun _ _ => (Only.refl _ _).andThen (uncommit_only ..) (by decide)) (h0.andThen (State.onCan_only _ _) (by decide))
  clear_value s1
  exact (h1.andThen (takeReports_only ..) (by decide)).andThen (commandUnreported_only ..) (by decide)

theorem opCanPhConfig_only (e : Env) (s : State) : Only [.sys] s (opCanPhConfig e s).1 := by
  unfold opCanPhConfig
  try extract_lets
  repeat' first
    | with_reducible exact Only.refl _ _
    | with_reducible refine Only.iteFst ?_ ?_
    | dsimp only [deny, doneEdge]
    | with_reducible refine Only.ite ?_ ?_
    | (guard_target = Only _ _ (waitEdge ..); with_reducible refine Only.andThen ?_ (waitEdge_only ..) (by decide))
    | extract_lets
    | dsimp only
    | split

theorem applyFilter_only (x : Fin 3) (k : Nat) (w : BitVec 64) (e : Tick) (s : State) : Only [.can] s (applyFilter x k w e s) := by
  unfold applyFilter
  try extract_lets
  repeat' first
    | with_reducible exact Only.refl _ _
    | with_reducible refine Only.ite ?_ ?_
    | (guard_target = Only _ _ (modCtl ..); with_reducible refine Only.andThen ?_ (modCtl_only ..) (by decide))

theorem opCanRxRead_only (e : Env) (s : State) : Only [.can] s (opCanRxRead e s).1 := by
  unfold opCanRxRead
  try extract_lets
  repeat' first
    | with_reducible exact Only.refl _ _
    | with_reducible refine Only.iteFst ?_ ?_
    | dsimp only [deny, doneWith]
    | with_reducible refine Only.ite ?_ ?_
    | (guard_target = Only _ _ (hostRead ..).2; with_reducible refine Only.andThen ?_ (hostRead_only ..) (by decide))
    | extract_lets
    | dsimp only
    | split
    | dsimp +zetaDelta only

theorem opCanTx_only (e : Env) (s : State) : Only [.can] s (opCanTx e s).1 := by
  unfold opCanTx
  try extract_lets
  repeat' first
    | with_reducible exact Only.refl _ _
    | with_reducible refine Only.iteFst ?_ ?_
    | dsimp only [deny, done]
    | with_reducible refine Only.ite ?_ ?_
    | (guard_target = Only _ _ (loadSlot ..); with_reducible refine Only.andThen ?_ (loadSlot_only ..) (by decide))
    | extract_lets
    | dsimp only
    | split

theorem opCanTxAbort_only (e : Env) (s : State) : Only [.sys, .host, .can] s (opCanTxAbort e s).1 := by
  unfold opCanTxAbort
  try extract_lets
  repeat' first
    | with_reducible exact Only.refl _ _
    | with_reducible refine Only.iteFst ?_ ?_
    | dsimp only [deny, done]
    | with_reducible refine Only.ite ?_ ?_
    | (guard_target = Only _ _ (endSlot ..); with_reducible refine Only.andThen ?_ (endSlot_only ..) (by decide))
    | (guard_target = Only _ _ (modSlot ..); with_reducible refine Only.andThen ?_ (modSlot_only ..) (by decide))
    | extract_lets
    | dsimp only
    | split

theorem opCanRecover_only (e : Env) (s : State) : Only [.can] s (opCanRecover e s).1 := by
  unfold opCanRecover
  try extract_lets
  repeat' first
    | with_reducible exact Only.refl _ _
    | with_reducible refine Only.iteFst ?_ ?_
    | dsimp only [deny, done]
    | with_reducible refine Only.ite ?_ ?_
    | (guard_target = Only _ _ (modCtl ..); with_reducible refine Only.andThen ?_ (modCtl_only ..) (by decide))
    | extract_lets
    | dsimp only
    | split

end Sys2Proof.Machine
end

