-- ==== Sys2Proof/Laws/SecurityOnly.lean ====
section
/-! SUPPORT. What the operations of Machine/Security.lean may change: for each the parts beyond which nothing moves. -/

set_option Elab.async false

namespace Sys2Proof.Machine

theorem modPort_only (p : Port) (f : PortSt → PortSt) (s : State) : Only [.host] s (modPort p f s) := by
  unfold modPort
  try extract_lets
  repeat' first
    | with_reducible exact Only.refl _ _
    | with_reducible refine Only.ite ?_ ?_
    | with_reducible refine Only.andThen ?_ (State.onHost_only _ _) (by decide)

theorem modImage_only (i : Fin 5) (f : Image → Image) (s : State) : Only [.sec] s (modImage i f s) := by
  unfold modImage
  try extract_lets
  repeat' first
    | with_reducible exact Only.refl _ _
    | with_reducible refine Only.ite ?_ ?_
    | with_reducible refine Only.andThen ?_ (State.onSec_only _ _) (by decide)

theorem extend_only (k : Fin 8) (kind : Nat) (v : BitVec 256) (s : State) : Only [.sec] s (extend k kind v s) := by
  unfold extend
  try extract_lets
  repeat' first
    | with_reducible exact Only.refl _ _
    | with_reducible refine Only.ite ?_ ?_
    | with_reducible refine Only.andThen ?_ (State.onSec_only _ _) (by decide)

theorem drawFree_only (s : State) : Only [.free] s (drawFree s).1 := by
  unfold drawFree
  try extract_lets
  repeat' first
    | with_reducible exact Only.refl _ _
    | with_reducible refine Only.iteFst ?_ ?_
    | with_reducible refine Only.ite ?_ ?_
    | with_reducible refine Only.andThen ?_ (State.free_only _ _) (by decide)

theorem extendOpen_only (k : Fin 8) (kind : Nat) (s : State) : Only [.free, .sec] s (extendOpen k kind s) := by
  unfold extendOpen
  try extract_lets
  repeat' first
    | with_reducible exact Only.refl _ _
    | with_reducible refine Only.ite ?_ ?_
    | with_reducible refine Only.andThen ?_ (drawFree_only ..) (by decide)
    | with_reducible refine Only.andThen ?_ (extend_only ..) (by decide)

theorem closeSession_only (p : Port) (s : State) : Only [.sys, .host, .sec] s (closeSession p s) := by
  unfold closeSession
  try extract_lets
  repeat' first
    | with_reducible exact Only.refl _ _
    | with_reducible refine Only.ite ?_ ?_
    | with_reducible refine Only.andThen ?_ (modPort_only ..) (by decide)
    | with_reducible refine Only.andThen ?_ (notice_only ..) (by decide)
    | with_reducible refine Only.andThen ?_ (State.onSec_only _ _) (by decide)
    | extract_lets
    | dsimp only
    | split

theorem openSession_only (p : Port) (service : Option (BitVec 32)) (nonce : BitVec 128) (s : State) : Only [.free, .sys, .host, .sec] s (openSession p service nonce s).1 := by
  unfold openSession
  try extract_lets
  repeat' first
    | with_reducible exact Only.refl _ _
    | with_reducible refine Only.iteFst ?_ ?_
    | with_reducible refine Only.ite ?_ ?_
    | with_reducible refine Only.andThen ?_ (closeSession_only ..) (by decide)
    | with_reducible refine Only.andThen ?_ (drawFree_only ..) (by decide)
    | with_reducible refine Only.andThen ?_ (modPort_only ..) (by decide)
    | with_reducible refine Only.andThen ?_ (State.onHost_only _ _) (by decide)

theorem opSecSessionOpen_only (e : Env) (s : State) : Only [.free, .sys, .host, .sec] s (opSecSessionOpen e s).1 := by
  unfold opSecSessionOpen
  try extract_lets
  repeat' first
    | with_reducible exact Only.refl _ _
    | with_reducible refine Only.iteFst ?_ ?_
    | dsimp only [deny, doneWith]
    | with_reducible refine Only.ite ?_ ?_
    | with_reducible refine Only.andThen ?_ (openSession_only ..) (by decide)

theorem opSecSessionClose_only (e : Env) (s : State) : Only [.sys, .host, .sec] s (opSecSessionClose e s).1 := by
  unfold opSecSessionClose
  try extract_lets
  repeat' first
    | with_reducible exact Only.refl _ _
    | with_reducible refine Only.iteFst ?_ ?_
    | dsimp only [done]
    | with_reducible refine Only.ite ?_ ?_
    | with_reducible refine Only.andThen ?_ (closeSession_only ..) (by decide)

theorem opSecServiceChallenge_only (_e : Env) (s : State) : Only [.free, .sec] s (opSecServiceChallenge _e s).1 := by
  unfold opSecServiceChallenge
  try extract_lets
  repeat' first
    | with_reducible exact Only.refl _ _
    | with_reducible refine Only.iteFst ?_ ?_
    | dsimp only [deny, doneWith]
    | with_reducible refine Only.ite ?_ ?_
    | with_reducible refine Only.andThen ?_ (drawFree_only ..) (by decide)
    | with_reducible refine Only.andThen ?_ (State.onSec_only _ _) (by decide)

theorem opSecServiceResponse_only (e : Env) (s : State) : Only [.free, .sys, .host, .sec] s (opSecServiceResponse e s).1 := by
  unfold opSecServiceResponse
  try extract_lets
  repeat' first
    | with_reducible exact Only.refl _ _
    | with_reducible refine Only.iteFst ?_ ?_
    | dsimp only [deny, doneWith]
    | with_reducible refine Only.ite ?_ ?_
    | with_reducible refine Only.andThen ?_ (extendOpen_only ..) (by decide)
    | with_reducible refine Only.andThen ?_ (notice_only ..) (by decide)
    | with_reducible refine Only.andThen ?_ (openSession_only ..) (by decide)
    | with_reducible refine Only.andThen ?_ (State.onSec_only _ _) (by decide)
    | extract_lets
    | dsimp only
    | split

theorem execServiceSessionExpiry_only (s : State) : OnlyR [.sys, .host, .sec] s (execServiceSessionExpiry s) := by
  unfold execServiceSessionExpiry
  try extract_lets
  repeat' first
    | with_reducible exact Only.refl _ _
    | with_reducible refine OnlyR.next ?_
    | refine OnlyR.ite ?_ ?_
    | with_reducible refine Only.ite ?_ ?_
    | with_reducible refine Only.andThen ?_ (closeSession_only ..) (by decide)
    | with_reducible refine Only.foldlFst (fun _ _ _ => ?_) ?_
    | with_reducible refine Only.foldl (fun _ _ => ?_) ?_
    | extract_lets
    | dsimp only
    | split

theorem opSecImageBegin_only (e : Env) (s : State) : Only [.sec] s (opSecImageBegin e s).1 := by
  unfold opSecImageBegin
  try extract_lets
  repeat' first
    | with_reducible exact Only.refl _ _
    | with_reducible refine Only.iteFst ?_ ?_
    | dsimp only [deny, done]
    | with_reducible refine Only.ite ?_ ?_
    | with_reducible refine Only.andThen ?_ (modImage_only ..) (by decide)
    | with_reducible refine Only.andThen ?_ (State.onSec_only _ _) (by decide)
    | extract_lets
    | dsimp only
    | split

theorem opSecImageData_only (e : Env) (s : State) : Only [.sec] s (opSecImageData e s).1 := by
  unfold opSecImageData
  try extract_lets
  repeat' first
    | with_reducible exact Only.refl _ _
    | with_reducible refine Only.iteFst ?_ ?_
    | dsimp only [deny, doneWith]
    | with_reducible refine Only.ite ?_ ?_
    | with_reducible refine Only.andThen ?_ (State.onSec_only _ _) (by decide)
    | extract_lets
    | dsimp only
    | split

theorem opSecImageEnd_only (_e : Env) (s : State) : Only [.sec] s (opSecImageEnd _e s).1 := by
  unfold opSecImageEnd
  try extract_lets
  repeat' first
    | with_reducible exact Only.refl _ _
    | with_reducible refine Only.iteFst ?_ ?_
    | dsimp only [deny]
    | with_reducible refine Only.ite ?_ ?_
    | with_reducible refine Only.andThen ?_ (modImage_only ..) (by decide)
    | with_reducible refine Only.andThen ?_ (State.onSec_only _ _) (by decide)
    | extract_lets
    | dsimp only
    | split

theorem execImageVerified_only (s : State) : OnlyR [.sys, .host, .sec] s (execImageVerified s) := by
  unfold execImageVerified
  try extract_lets
  repeat' first
    | with_reducible exact Only.refl _ _
    | with_reducible refine OnlyR.next ?_
    | refine OnlyR.ite ?_ ?_
    | with_reducible refine Only.ite ?_ ?_
    | with_reducible refine Only.andThen ?_ (modImage_only ..) (by decide)
    | with_reducible refine Only.andThen ?_ (notice_only ..) (by decide)
    | with_reducible refine Only.andThen ?_ (State.onSec_only _ _) (by decide)
    | extract_lets
    | dsimp only
    | split

theorem opSecImageStatus_only (_e : Env) (s : State) : Only [] s (opSecImageStatus _e s).1 := by
  unfold opSecImageStatus
  try extract_lets
  repeat' first
    | with_reducible exact Only.refl _ _
    | with_reducible refine Only.iteFst ?_ ?_
    | dsimp only [doneWith]

theorem opSecActivate_only (e : Env) (s : State) : Only [.sec] s (opSecActivate e s).1 := by
  unfold opSecActivate
  try extract_lets
  repeat' first
    | with_reducible exact Only.refl _ _
    | with_reducible refine Only.iteFst ?_ ?_
    | dsimp only [deny]
    | with_reducible refine Only.ite ?_ ?_
    | with_reducible refine Only.andThen ?_ (State.onSec_only _ _) (by decide)
    | extract_lets
    | dsimp only
    | split

theorem execActivationPrepared_only (s : State) : OnlyR [.sec] s (execActivationPrepared s) := by
  unfold execActivationPrepared
  try extract_lets
  repeat' first
    | with_reducible exact Only.refl _ _
    | with_reducible refine OnlyR.next ?_
    | refine OnlyR.ite ?_ ?_
    | with_reducible refine Only.ite ?_ ?_
    | with_reducible refine Only.andThen ?_ (State.onSec_only _ _) (by decide)

theorem cancelActivation_only (s : State) : Only [.sys, .host, .sec] s (cancelActivation s) := by
  unfold cancelActivation
  try extract_lets
  repeat' first
    | with_reducible exact Only.refl _ _
    | with_reducible refine Only.ite ?_ ?_
    | with_reducible refine Only.andThen ?_ (notice_only ..) (by decide)
    | with_reducible refine Only.andThen ?_ (State.onSec_only _ _) (by decide)
    | extract_lets
    | dsimp only
    | split

theorem rejectBank_only (i : Fin 5) (s : State) : Only [.free, .sys, .host, .sec] s (rejectBank i s) := by
  unfold rejectBank
  try extract_lets
  repeat' first
    | with_reducible exact Only.refl _ _
    | with_reducible refine Only.ite ?_ ?_
    | with_reducible refine Only.andThen ?_ (extendOpen_only ..) (by decide)
    | with_reducible refine Only.andThen ?_ (modImage_only ..) (by decide)
    | with_reducible refine Only.andThen ?_ (notice_only ..) (by decide)

theorem trialRestart_only (el : Element) (s : State) : Only [.free, .sys, .host, .sec] s (trialRestart el s) := by
  unfold trialRestart
  try extract_lets
  repeat' first
    | with_reducible exact Only.refl _ _
    | with_reducible refine Only.ite ?_ ?_
    | with_reducible refine Only.andThen ?_ (modImage_only ..) (by decide)
    | with_reducible refine Only.andThen ?_ (rejectBank_only ..) (by decide)

theorem failSelftest_only (el : Element) (s : State) : Only [.free, .sys, .host, .sec] s (failSelftest el s) := by
  unfold failSelftest
  try extract_lets
  repeat' first
    | with_reducible exact Only.refl _ _
    | with_reducible refine Only.ite ?_ ?_
    | with_reducible refine Only.andThen ?_ (modImage_only ..) (by decide)
    | with_reducible refine Only.andThen ?_ (rejectBank_only ..) (by decide)

theorem execTrialPassed_only (i : Fin 5) (s : State) : OnlyR [.sys, .pd0, .host, .sec] s (execTrialPassed i s) := by
  unfold execTrialPassed
  try extract_lets
  repeat' first
    | with_reducible exact Only.refl _ _
    | with_reducible refine OnlyR.next ?_
    | refine OnlyR.ite ?_ ?_
    | with_reducible refine Only.ite ?_ ?_
    | with_reducible refine Only.andThen ?_ (modImage_only ..) (by decide)
    | with_reducible refine Only.andThen ?_ (notice_only ..) (by decide)
    | with_reducible refine Only.andThen ?_ (State.onPd0_only _ _) (by decide)
    | with_reducible refine Only.andThen ?_ (State.onSec_only _ _) (by decide)

theorem saveTrials_only (s : State) : Only [.pd0] s (saveTrials s) := by
  unfold saveTrials
  try extract_lets
  repeat' first
    | with_reducible exact Only.refl _ _
    | with_reducible refine Only.ite ?_ ?_
    | with_reducible refine Only.andThen ?_ (State.onPd0_only _ _) (by decide)

theorem opSecAttest_only (e : Env) (s : State) : Only [] s (opSecAttest e s).1 := by
  unfold opSecAttest
  try extract_lets
  repeat' first
    | with_reducible exact Only.refl _ _
    | with_reducible refine Only.iteFst ?_ ?_
    | dsimp only [doneWith]

theorem worldViolation_only (s : State) : Only [.sys, .pd0, .host, .sec] s (worldViolation s) := by
  unfold worldViolation
  try extract_lets
  repeat' first
    | with_reducible exact Only.refl _ _
    | with_reducible refine Only.ite ?_ ?_
    | with_reducible refine Only.andThen ?_ (logFault_only ..) (by decide)
    | with_reducible refine Only.andThen ?_ (notice_only ..) (by decide)
    | with_reducible refine Only.andThen ?_ (State.onSec_only _ _) (by decide)

theorem execTamper_only (s : State) : OnlyR [.pd0] s (execTamper s) := by
  unfold execTamper
  try extract_lets
  repeat' first
    | with_reducible exact Only.refl _ _
    | with_reducible refine OnlyR.next ?_
    | refine OnlyR.ite ?_ ?_
    | with_reducible refine Only.ite ?_ ?_
    | with_reducible refine Only.andThen ?_ (State.onPd0_only _ _) (by decide)

end Sys2Proof.Machine
end

