-- ==== Sys2Proof/Laws/TimeOnly.lean ====
section
/-! SUPPORT. What the operations of Machine/Time.lean may change: for each the parts beyond which nothing moves. -/

set_option Elab.async false

namespace Sys2Proof.Machine

theorem logModel_only (step : Bool) (stepPs : Int) (s : State) : Only [.sys, .pd0, .host, .map] s (logModel step stepPs s) := by
  unfold logModel
  try extract_lets
  repeat' first
    | with_reducible exact Only.refl _ _
    | with_reducible refine Only.ite ?_ ?_
    | (guard_target = Only _ _ (writeLog ..); with_reducible refine Only.andThen ?_ (writeLog_only ..) (by decide))

theorem setTState_only (t : TState) (pm : Tick) (s : State) : Only [.sys, .pd0, .host, .time, .map] s (setTState t pm s) := by
  unfold setTState
  try extract_lets
  repeat' first
    | with_reducible exact Only.refl _ _
    | with_reducible refine Only.ite ?_ ?_
    | (guard_target = Only _ _ (logModel ..); with_reducible refine Only.andThen ?_ (logModel_only ..) (by decide))
    | (guard_target = Only _ _ (noticeAt ..); with_reducible refine Only.andThen ?_ (noticeAt_only ..) (by decide))
    | (guard_target = Only _ _ (State.onTime ..); with_reducible refine Only.andThen ?_ (State.onTime_only _ _) (by decide))

theorem restartPps_only (s0 s : State) : Only [.time] s (restartPps s0 s) := by
  unfold restartPps
  try extract_lets
  repeat' first
    | with_reducible exact Only.refl _ _
    | with_reducible refine Only.ite ?_ ?_
    | (guard_target = Only _ _ (State.onTime ..); with_reducible refine Only.andThen ?_ (State.onTime_only _ _) (by decide))

theorem setRtc_only (s : State) : Only [.pd0] s (setRtc s) := by
  unfold setRtc
  try extract_lets
  repeat' first
    | with_reducible exact Only.refl _ _
    | with_reducible refine Only.ite ?_ ?_
    | (guard_target = Only _ _ (State.onPd0 ..); with_reducible refine Only.andThen ?_ (State.onPd0_only _ _) (by decide))

theorem acceptClock_only (pm : Tick) (sol : Nat) (drift : Int) (s : State) : Only [.sys, .pd0, .host, .time, .map] s (acceptClock pm sol drift s) := by
  unfold acceptClock
  try extract_lets
  repeat' first
    | with_reducible exact Only.refl _ _
    | with_reducible refine Only.ite ?_ ?_
    | (guard_target = Only _ _ (noticeNow ..); with_reducible refine Only.andThen ?_ (noticeNow_only ..) (by decide))
    | (guard_target = Only _ _ (restartPps ..); with_reducible refine Only.andThen ?_ (restartPps_only ..) (by decide))
    | (guard_target = Only _ _ (setRtc ..); with_reducible refine Only.andThen ?_ (setRtc_only ..) (by decide))
    | (guard_target = Only _ _ (setTState ..); with_reducible refine Only.andThen ?_ (setTState_only ..) (by decide))
    | (guard_target = Only _ _ (State.onTime ..); with_reducible refine Only.andThen ?_ (State.onTime_only _ _) (by decide))
    | extract_lets
    | dsimp only
    | split

theorem timeEpoch_only (pm : Tick) (m : EpochIn) (sol : Nat) (barred : Bool) (s : State) : Only [.sys, .pd0, .host, .time, .map] s (timeEpoch pm m sol barred s) := by
  unfold timeEpoch
  try extract_lets
  repeat' first
    | with_reducible exact Only.refl _ _
    | with_reducible refine Only.ite ?_ ?_
    | (guard_target = Only _ _ (acceptClock ..); with_reducible refine Only.andThen ?_ (acceptClock_only ..) (by decide))
    | (guard_target = Only _ _ (State.onTime ..); with_reducible refine Only.andThen ?_ (State.onTime_only _ _) (by decide))
    | extract_lets
    | dsimp only
    | split
    | dsimp +zetaDelta only

theorem execHoldoverEntry_only (s : State) : OnlyR [.sys, .pd0, .host, .time, .map] s (execHoldoverEntry s) := by
  unfold execHoldoverEntry
  try extract_lets
  repeat' first
    | with_reducible exact Only.refl _ _
    | with_reducible refine OnlyR.next ?_
    | refine OnlyR.ite ?_ ?_
    | with_reducible refine Only.ite ?_ ?_
    | (guard_target = Only _ _ (setTState ..); with_reducible refine Only.andThen ?_ (setTState_only ..) (by decide))

theorem execHoldoverLimitExpiry_only (s : State) : OnlyR [.sys, .pd0, .host, .time, .map] s (execHoldoverLimitExpiry s) := by
  unfold execHoldoverLimitExpiry
  try extract_lets
  repeat' first
    | with_reducible exact Only.refl _ _
    | with_reducible refine OnlyR.next ?_
    | refine OnlyR.ite ?_ ?_
    | with_reducible refine Only.ite ?_ ?_
    | (guard_target = Only _ _ (setTState ..); with_reducible refine Only.andThen ?_ (setTState_only ..) (by decide))

theorem ppsInactive_only (s : State) : Only [.time] s (ppsInactive s) := by
  unfold ppsInactive
  try extract_lets
  repeat' first
    | with_reducible exact Only.refl _ _
    | with_reducible refine Only.ite ?_ ?_
    | (guard_target = Only _ _ (State.onTime ..); with_reducible refine Only.andThen ?_ (State.onTime_only _ _) (by decide))
    | extract_lets
    | dsimp only
    | split
    | dsimp +zetaDelta only

theorem commitTime_only (s : State) : Only [.time] s (commitTime s) := by
  unfold commitTime
  try extract_lets
  repeat' first
    | with_reducible exact Only.refl _ _
    | with_reducible refine Only.ite ?_ ?_
    | (guard_target = Only _ _ (ppsInactive ..); with_reducible refine Only.andThen ?_ (ppsInactive_only ..) (by decide))
    | extract_lets
    | dsimp only
    | split
    | dsimp +zetaDelta only

theorem emitPulse_only (sec : Nat) (tick : Tick) (stepPs : Int) (s : State) : Only [.time] s (emitPulse sec tick stepPs s) := by
  unfold emitPulse
  try extract_lets
  repeat' first
    | with_reducible exact Only.refl _ _
    | with_reducible refine Only.ite ?_ ?_
    | (guard_target = Only _ _ (State.onTime ..); with_reducible refine Only.andThen ?_ (State.onTime_only _ _) (by decide))
    | extract_lets
    | dsimp only
    | split
    | dsimp +zetaDelta only

theorem execPpsPulse_only (s : State) : OnlyR [.sys, .pd0, .host, .time, .map] s (execPpsPulse s) := by
  unfold execPpsPulse
  try extract_lets
  repeat' first
    | with_reducible exact Only.refl _ _
    | with_reducible refine OnlyR.next ?_
    | refine OnlyR.ite ?_ ?_
    | with_reducible refine Only.ite ?_ ?_
    | (guard_target = Only _ _ (emitPulse ..); with_reducible refine Only.andThen ?_ (emitPulse_only ..) (by decide))
    | (guard_target = Only _ _ (logModel ..); with_reducible refine Only.andThen ?_ (logModel_only ..) (by decide))
    | (guard_target = Only _ _ (noticeNow ..); with_reducible refine Only.andThen ?_ (noticeNow_only ..) (by decide))
    | (guard_target = Only _ _ (setRtc ..); with_reducible refine Only.andThen ?_ (setRtc_only ..) (by decide))
    | (guard_target = Only _ _ (setTState ..); with_reducible refine Only.andThen ?_ (setTState_only ..) (by decide))
    | (guard_target = Only _ _ (State.onTime ..); with_reducible refine Only.andThen ?_ (State.onTime_only _ _) (by decide))
    | extract_lets
    | dsimp only
    | split
    | dsimp +zetaDelta only

theorem execPpsPulseEnd_only (s : State) : OnlyR [.time] s (execPpsPulseEnd s) := by
  unfold execPpsPulseEnd
  try extract_lets
  repeat' first
    | with_reducible exact Only.refl _ _
    | with_reducible refine OnlyR.next ?_
    | refine OnlyR.ite ?_ ?_
    | with_reducible refine Only.ite ?_ ?_
    | (guard_target = Only _ _ (State.onTime ..); with_reducible refine Only.andThen ?_ (State.onTime_only _ _) (by decide))

theorem sendTimeMessages_only (t : Tick) (s : State) : Only [.host, .time] s (sendTimeMessages t s) := by
  unfold sendTimeMessages
  try extract_lets
  repeat' first
    | with_reducible exact Only.refl _ _
    | with_reducible refine Only.ite ?_ ?_
    | (guard_target = Only _ _ (noticeNow ..); with_reducible refine Only.andThen ?_ (noticeNow_only ..) (by decide))
    | (guard_target = Only _ _ (State.onTime ..); with_reducible refine Only.andThen ?_ (State.onTime_only _ _) (by decide))
    | with_reducible refine Only.foldl (fun _ _ => ?_) ?_

theorem learnDrift_only (drift : Int) (s : State) : Only [.pd0] s (learnDrift drift s) := by
  unfold learnDrift
  try extract_lets
  repeat' first
    | with_reducible exact Only.refl _ _
    | with_reducible refine Only.ite ?_ ?_
    | (guard_target = Only _ _ (State.onPd0 ..); with_reducible refine Only.andThen ?_ (State.onPd0_only _ _) (by decide))
    | extract_lets
    | dsimp only
    | split

theorem execTcxoTempUpdate_only (t : Int) (s : State) : OnlyR [.pd0, .time] s (execTcxoTempUpdate t s) := by
  unfold execTcxoTempUpdate
  try extract_lets
  repeat' first
    | with_reducible exact Only.refl _ _
    | with_reducible refine OnlyR.next ?_
    | refine OnlyR.ite ?_ ?_
    | with_reducible refine Only.ite ?_ ?_
    | (guard_target = Only _ _ (State.onPd0 ..); with_reducible refine Only.andThen ?_ (State.onPd0_only _ _) (by decide))
    | (guard_target = Only _ _ (State.onTime ..); with_reducible refine Only.andThen ?_ (State.onTime_only _ _) (by decide))
    | extract_lets
    | dsimp only
    | split

theorem clearTcxo_only (s : State) : Only [.pd0] s (clearTcxo s) := by
  unfold clearTcxo
  try extract_lets
  repeat' first
    | with_reducible exact Only.refl _ _
    | with_reducible refine Only.ite ?_ ?_
    | (guard_target = Only _ _ (State.onPd0 ..); with_reducible refine Only.andThen ?_ (State.onPd0_only _ _) (by decide))

theorem opTimeGet_only (e : Env) (s : State) : Only [] s (opTimeGet e s).1 := by
  unfold opTimeGet
  try extract_lets
  repeat' first
    | with_reducible exact Only.refl _ _
    | with_reducible refine Only.iteFst ?_ ?_
    | dsimp only [doneWith]

theorem opTimeStepConfirm_only (e : Env) (s : State) : Only [.time] s (opTimeStepConfirm e s).1 := by
  unfold opTimeStepConfirm
  try extract_lets
  repeat' first
    | with_reducible exact Only.refl _ _
    | with_reducible refine Only.iteFst ?_ ?_
    | dsimp only [deny, done]
    | with_reducible refine Only.ite ?_ ?_
    | (guard_target = Only _ _ (State.onTime ..); with_reducible refine Only.andThen ?_ (State.onTime_only _ _) (by decide))
    | extract_lets
    | dsimp only
    | split

end Sys2Proof.Machine
end

