-- ==== Sys2Proof/Laws/LoadSwitchOnly.lean ====
section
/-! SUPPORT. What the operations of Machine/LoadSwitch.lean may change: for each the parts beyond which nothing moves. -/

set_option Elab.async false

namespace Sys2Proof.Machine

theorem modLsw_only (c : Fin 16) (f : Lsw → Lsw) (s : State) : Only [.lsw] s (modLsw c f s) := by
  unfold modLsw
  try extract_lets
  repeat' first
    | with_reducible exact Only.refl _ _
    | with_reducible refine Only.ite ?_ ?_
    | with_reducible refine Only.andThen ?_ (State.onLsw_only _ _) (by decide)

theorem lswTurnOn_only (c : Fin 16) (t : Tick) (s : State) : Only [.lsw] s (lswTurnOn c t s) := by
  unfold lswTurnOn
  try extract_lets
  repeat' first
    | with_reducible exact Only.refl _ _
    | with_reducible refine Only.ite ?_ ?_
    | (guard_target = Only _ _ (modLsw ..); with_reducible refine Only.andThen ?_ (modLsw_only ..) (by decide))

theorem lswTurnOff_only (c : Fin 16) (s : State) : Only [.lsw] s (lswTurnOff c s) := by
  unfold lswTurnOff
  try extract_lets
  repeat' first
    | with_reducible exact Only.refl _ _
    | with_reducible refine Only.ite ?_ ?_
    | (guard_target = Only _ _ (modLsw ..); with_reducible refine Only.andThen ?_ (modLsw_only ..) (by decide))

theorem noteShed_only (c : Fin 16) (s : State) : Only [.sys, .host, .lsw] s (noteShed c s) := by
  unfold noteShed
  try extract_lets
  repeat' first
    | with_reducible exact Only.refl _ _
    | dsimp only [id]
    | with_reducible refine Only.ite ?_ ?_
    | (guard_target = Only _ _ (modLsw ..); with_reducible refine Only.andThen ?_ (modLsw_only ..) (by decide))
    | (guard_target = Only _ _ (notice ..); with_reducible refine Only.andThen ?_ (notice_only ..) (by decide))
    | extract_lets
    | dsimp only
    | split

theorem noteCoast_only (c : Fin 16) (s : State) : Only [.lsw] s (noteCoast c s) := by
  unfold noteCoast
  try extract_lets
  repeat' first
    | with_reducible exact Only.refl _ _
    | with_reducible refine Only.ite ?_ ?_
    | (guard_target = Only _ _ (modLsw ..); with_reducible refine Only.andThen ?_ (modLsw_only ..) (by decide))

theorem lswSync_only (c : Fin 16) (s0 : State) : Only [.sys, .host, .lsw] s0 (lswSync c s0) := by
  unfold lswSync
  try extract_lets
  repeat' first
    | with_reducible exact Only.refl _ _
    | with_reducible refine Only.ite ?_ ?_
    | (guard_target = Only _ _ (lswTurnOff ..); with_reducible refine Only.andThen ?_ (lswTurnOff_only ..) (by decide))
    | (guard_target = Only _ _ (lswTurnOn ..); with_reducible refine Only.andThen ?_ (lswTurnOn_only ..) (by decide))
    | (guard_target = Only _ _ (modLsw ..); with_reducible refine Only.andThen ?_ (modLsw_only ..) (by decide))
    | (guard_target = Only _ _ (noteCoast ..); with_reducible refine Only.andThen ?_ (noteCoast_only ..) (by decide))
    | (guard_target = Only _ _ (noteShed ..); with_reducible refine Only.andThen ?_ (noteShed_only ..) (by decide))

theorem lswSyncAll_only (s : State) : Only [.sys, .host, .lsw] s (lswSyncAll s) := by
  unfold lswSyncAll
  try extract_lets
  repeat' first
    | with_reducible exact Only.refl _ _
    | with_reducible refine Only.ite ?_ ?_
    | (guard_target = Only _ _ (lswSync ..); with_reducible refine Only.andThen ?_ (lswSync_only ..) (by decide))
    | with_reducible refine Only.foldl (fun _ _ => ?_) ?_

theorem lswHoldForSafe_only (s : State) : Only [.host, .lsw] s (lswHoldForSafe s) := by
  unfold lswHoldForSafe
  try extract_lets
  repeat' first
    | with_reducible exact Only.refl _ _
    | with_reducible refine Only.ite ?_ ?_
    | with_reducible refine Only.andThen ?_ (State.onLsw_only _ _) (by decide)
    | extract_lets
    | dsimp only
    | split
    | dsimp +zetaDelta only

theorem reportCoast_only (s : State) : Only [.sys, .host, .lsw] s (reportCoast s) := by
  unfold reportCoast
  try extract_lets
  repeat' first
    | with_reducible exact Only.refl _ _
    | with_reducible refine Only.ite ?_ ?_
    | (guard_target = Only _ _ (modLsw ..); with_reducible refine Only.andThen ?_ (modLsw_only ..) (by decide))
    | (guard_target = Only _ _ (notice ..); with_reducible refine Only.andThen ?_ (notice_only ..) (by decide))
    | with_reducible refine Only.foldl (fun _ _ => ?_) ?_

theorem execInrushStep_only (c : Fin 16) (s : State) : OnlyR [.lsw] s (execInrushStep c s) := by
  unfold execInrushStep
  try extract_lets
  repeat' first
    | with_reducible exact Only.refl _ _
    | with_reducible refine OnlyR.next ?_
    | refine OnlyR.ite ?_ ?_
    | with_reducible refine Only.ite ?_ ?_
    | (guard_target = Only _ _ (modLsw ..); with_reducible refine Only.andThen ?_ (modLsw_only ..) (by decide))

theorem lswTimeBegins_only (s : State) : Only [.lsw] s (lswTimeBegins s) := by
  unfold lswTimeBegins
  try extract_lets
  repeat' first
    | with_reducible exact Only.refl _ _
    | with_reducible refine Only.ite ?_ ?_
    | with_reducible refine Only.andThen ?_ (State.onLsw_only _ _) (by decide)
    | extract_lets
    | dsimp only
    | split
    | dsimp +zetaDelta only

theorem writeLswDuty_only (c : Fin 16) (w : Tick) (d : Nat) (s : State) : Only [.pd0, .lsw] s (writeLswDuty c w d s) := by
  unfold writeLswDuty
  try extract_lets
  repeat' first
    | with_reducible exact Only.refl _ _
    | with_reducible refine Only.ite ?_ ?_
    | (guard_target = Only _ _ (modLsw ..); with_reducible refine Only.andThen ?_ (modLsw_only ..) (by decide))
    | with_reducible refine Only.andThen ?_ (State.onPd0_only _ _) (by decide)

theorem execLswPulseOpening_only (c : Fin 16) (s : State) : OnlyR [.host, .lsw] s (execLswPulseOpening c s) := by
  unfold execLswPulseOpening
  try extract_lets
  repeat' first
    | with_reducible exact Only.refl _ _
    | with_reducible refine OnlyR.next ?_
    | refine OnlyR.ite ?_ ?_
    | with_reducible refine Only.ite ?_ ?_
    | (guard_target = Only _ _ (lswTurnOff ..); with_reducible refine Only.andThen ?_ (lswTurnOff_only ..) (by decide))
    | (guard_target = Only _ _ (lswTurnOn ..); with_reducible refine Only.andThen ?_ (lswTurnOn_only ..) (by decide))
    | (guard_target = Only _ _ (modLsw ..); with_reducible refine Only.andThen ?_ (modLsw_only ..) (by decide))

theorem execLswPulseClosing_only (c : Fin 16) (s : State) : OnlyR [.lsw] s (execLswPulseClosing c s) := by
  unfold execLswPulseClosing
  try extract_lets
  repeat' first
    | with_reducible exact Only.refl _ _
    | with_reducible refine OnlyR.next ?_
    | refine OnlyR.ite ?_ ?_
    | with_reducible refine Only.ite ?_ ?_
    | (guard_target = Only _ _ (lswTurnOff ..); with_reducible refine Only.andThen ?_ (lswTurnOff_only ..) (by decide))
    | extract_lets
    | dsimp only
    | split

theorem lswFaultClear_only (c : Fin 16) (s : State) : Only [.sys, .pd0, .host] s (lswFaultClear c s) := by
  unfold lswFaultClear
  try extract_lets
  repeat' first
    | with_reducible exact Only.refl _ _
    | with_reducible refine Only.ite ?_ ?_
    | (guard_target = Only _ _ (endFault ..); with_reducible refine Only.andThen ?_ (endFault_only ..) (by decide))

theorem lswReport_only (c : Fin 16) (code : Nat) (s : State) : Only [.sys, .pd0, .host] s (lswReport c code s) := by
  unfold lswReport
  try extract_lets
  repeat' first
    | with_reducible exact Only.refl _ _
    | with_reducible refine Only.ite ?_ ?_
    | (guard_target = Only _ _ (logFault ..); with_reducible refine Only.andThen ?_ (logFault_only ..) (by decide))
    | (guard_target = Only _ _ (notice ..); with_reducible refine Only.andThen ?_ (notice_only ..) (by decide))

theorem endHold_only (c : Fin 16) (s : State) : Only [.pd0] s (endHold c s) := by
  unfold endHold
  try extract_lets
  repeat' first
    | with_reducible exact Only.refl _ _
    | with_reducible refine Only.ite ?_ ?_
    | with_reducible refine Only.andThen ?_ (State.onPd0_only _ _) (by decide)

theorem lswTrip_only (c : Fin 16) (code : Nat) (f : Lsw → Lsw) (s : State) : Only [.sys, .pd0, .host, .lsw] s (lswTrip c code f s) := by
  unfold lswTrip
  try extract_lets
  repeat' first
    | with_reducible exact Only.refl _ _
    | with_reducible refine Only.ite ?_ ?_
    | (guard_target = Only _ _ (endHold ..); with_reducible refine Only.andThen ?_ (endHold_only ..) (by decide))
    | (guard_target = Only _ _ (lswReport ..); with_reducible refine Only.andThen ?_ (lswReport_only ..) (by decide))
    | (guard_target = Only _ _ (modLsw ..); with_reducible refine Only.andThen ?_ (modLsw_only ..) (by decide))
    | (guard_target = Only _ _ (noteCoast ..); with_reducible refine Only.andThen ?_ (noteCoast_only ..) (by decide))
    | extract_lets
    | dsimp only
    | split
    | dsimp +zetaDelta only

theorem execLswShort_only (c : Fin 16) (s : State) : OnlyR [.sys, .pd0, .host, .lsw] s (execLswShort c s) := by
  unfold execLswShort
  try extract_lets
  repeat' first
    | with_reducible exact Only.refl _ _
    | with_reducible refine OnlyR.next ?_
    | refine OnlyR.ite ?_ ?_
    | with_reducible refine Only.ite ?_ ?_
    | (guard_target = Only _ _ (lswTrip ..); with_reducible refine Only.andThen ?_ (lswTrip_only ..) (by decide))

theorem execLswOverload_only (c : Fin 16) (s : State) : OnlyR [.sys, .pd0, .host, .lsw] s (execLswOverload c s) := by
  unfold execLswOverload
  try extract_lets
  repeat' first
    | with_reducible exact Only.refl _ _
    | with_reducible refine OnlyR.next ?_
    | refine OnlyR.ite ?_ ?_
    | with_reducible refine Only.ite ?_ ?_
    | (guard_target = Only _ _ (lswTrip ..); with_reducible refine Only.andThen ?_ (lswTrip_only ..) (by decide))

theorem lswTemp_only (c : Fin 16) (r : Int) (s : State) : Only [.sys, .pd0, .host, .lsw] s (lswTemp c r s) := by
  unfold lswTemp
  try extract_lets
  repeat' first
    | with_reducible exact Only.refl _ _
    | with_reducible refine Only.ite ?_ ?_
    | (guard_target = Only _ _ (lswFaultClear ..); with_reducible refine Only.andThen ?_ (lswFaultClear_only ..) (by decide))
    | (guard_target = Only _ _ (lswSync ..); with_reducible refine Only.andThen ?_ (lswSync_only ..) (by decide))
    | (guard_target = Only _ _ (lswTrip ..); with_reducible refine Only.andThen ?_ (lswTrip_only ..) (by decide))
    | (guard_target = Only _ _ (modLsw ..); with_reducible refine Only.andThen ?_ (modLsw_only ..) (by decide))
    | extract_lets
    | dsimp only
    | split
    | dsimp +zetaDelta only

theorem execLswOpenLoad_only (c : Fin 16) (present : Bool) (s : State) : OnlyR [.sys, .pd0, .host, .lsw] s (execLswOpenLoad c present s) := by
  unfold execLswOpenLoad
  try extract_lets
  repeat' first
    | with_reducible exact Only.refl _ _
    | with_reducible refine OnlyR.next ?_
    | refine OnlyR.ite ?_ ?_
    | with_reducible refine Only.ite ?_ ?_
    | (guard_target = Only _ _ (lswFaultClear ..); with_reducible refine Only.andThen ?_ (lswFaultClear_only ..) (by decide))
    | (guard_target = Only _ _ (lswReport ..); with_reducible refine Only.andThen ?_ (lswReport_only ..) (by decide))
    | (guard_target = Only _ _ (modLsw ..); with_reducible refine Only.andThen ?_ (modLsw_only ..) (by decide))

theorem execLswShortBat_only (c : Fin 16) (present : Bool) (s : State) : OnlyR [.sys, .pd0, .host, .lsw] s (execLswShortBat c present s) := by
  unfold execLswShortBat
  try extract_lets
  repeat' first
    | with_reducible exact Only.refl _ _
    | with_reducible refine OnlyR.next ?_
    | refine OnlyR.ite ?_ ?_
    | with_reducible refine Only.ite ?_ ?_
    | (guard_target = Only _ _ (lswFaultClear ..); with_reducible refine Only.andThen ?_ (lswFaultClear_only ..) (by decide))
    | (guard_target = Only _ _ (lswReport ..); with_reducible refine Only.andThen ?_ (lswReport_only ..) (by decide))
    | (guard_target = Only _ _ (modLsw ..); with_reducible refine Only.andThen ?_ (modLsw_only ..) (by decide))

theorem shedOne_only (s : State) : Only [.sys, .pd0, .host, .lsw] s (shedOne s) := by
  unfold shedOne
  try extract_lets
  repeat' first
    | with_reducible exact Only.refl _ _
    | with_reducible refine Only.ite ?_ ?_
    | (guard_target = Only _ _ (lswReport ..); with_reducible refine Only.andThen ?_ (lswReport_only ..) (by decide))
    | (guard_target = Only _ _ (modLsw ..); with_reducible refine Only.andThen ?_ (modLsw_only ..) (by decide))
    | (guard_target = Only _ _ (noteCoast ..); with_reducible refine Only.andThen ?_ (noteCoast_only ..) (by decide))
    | extract_lets
    | dsimp only
    | split
    | dsimp +zetaDelta only

theorem execAggregate_only (meanMa : Nat) (s : State) : OnlyR [.sys, .pd0, .host, .lsw] s (execAggregate meanMa s) := by
  unfold execAggregate
  try extract_lets
  repeat' first
    | with_reducible exact Only.refl _ _
    | with_reducible refine OnlyR.next ?_
    | refine OnlyR.ite ?_ ?_
    | with_reducible refine Only.ite ?_ ?_
    | (guard_target = Only _ _ (shedOne ..); with_reducible refine Only.andThen ?_ (shedOne_only ..) (by decide))
    | with_reducible refine Only.andThen ?_ (State.onLsw_only _ _) (by decide)

theorem execAggregateShedStep_only (meanMa : Nat) (s : State) : OnlyR [.sys, .pd0, .host, .lsw] s (execAggregateShedStep meanMa s) := by
  unfold execAggregateShedStep
  try extract_lets
  repeat' first
    | with_reducible exact Only.refl _ _
    | with_reducible refine OnlyR.next ?_
    | refine OnlyR.ite ?_ ?_
    | with_reducible refine Only.ite ?_ ?_
    | (guard_target = Only _ _ (shedOne ..); with_reducible refine Only.andThen ?_ (shedOne_only ..) (by decide))
    | with_reducible refine Only.andThen ?_ (State.onLsw_only _ _) (by decide)

theorem lswUnlatch_only (c : Fin 16) (s : State) : Only [.sys, .pd0, .host, .lsw] s (lswUnlatch c s) := by
  unfold lswUnlatch
  try extract_lets
  repeat' first
    | with_reducible exact Only.refl _ _
    | with_reducible refine Only.ite ?_ ?_
    | (guard_target = Only _ _ (lswFaultClear ..); with_reducible refine Only.andThen ?_ (lswFaultClear_only ..) (by decide))
    | (guard_target = Only _ _ (modLsw ..); with_reducible refine Only.andThen ?_ (modLsw_only ..) (by decide))

theorem execLswRetryDue_only (c : Fin 16) (s : State) : OnlyR [.sys, .pd0, .host, .lsw] s (execLswRetryDue c s) := by
  unfold execLswRetryDue
  try extract_lets
  repeat' first
    | with_reducible exact Only.refl _ _
    | with_reducible refine OnlyR.next ?_
    | refine OnlyR.ite ?_ ?_
    | with_reducible refine Only.ite ?_ ?_
    | (guard_target = Only _ _ (lswSync ..); with_reducible refine Only.andThen ?_ (lswSync_only ..) (by decide))
    | (guard_target = Only _ _ (lswUnlatch ..); with_reducible refine Only.andThen ?_ (lswUnlatch_only ..) (by decide))
    | (guard_target = Only _ _ (modLsw ..); with_reducible refine Only.andThen ?_ (modLsw_only ..) (by decide))
    | (guard_target = Only _ _ (notice ..); with_reducible refine Only.andThen ?_ (notice_only ..) (by decide))
    | with_reducible refine Only.andThen ?_ (State.onPd0_only _ _) (by decide)

theorem execOffAfterExpiry_only (c : Fin 16) (s : State) : OnlyR [.sys, .host, .lsw] s (execOffAfterExpiry c s) := by
  unfold execOffAfterExpiry
  try extract_lets
  repeat' first
    | with_reducible exact Only.refl _ _
    | with_reducible refine OnlyR.next ?_
    | refine OnlyR.ite ?_ ?_
    | with_reducible refine Only.ite ?_ ?_
    | (guard_target = Only _ _ (lswSync ..); with_reducible refine Only.andThen ?_ (lswSync_only ..) (by decide))

theorem execKeyoffHoldEnd_only (c : Fin 16) (s : State) : OnlyR [.sys, .pd0, .host, .lsw] s (execKeyoffHoldEnd c s) := by
  unfold execKeyoffHoldEnd
  try extract_lets
  repeat' first
    | with_reducible exact Only.refl _ _
    | with_reducible refine OnlyR.next ?_
    | refine OnlyR.ite ?_ ?_
    | with_reducible refine Only.ite ?_ ?_
    | (guard_target = Only _ _ (endHold ..); with_reducible refine Only.andThen ?_ (endHold_only ..) (by decide))
    | (guard_target = Only _ _ (lswSync ..); with_reducible refine Only.andThen ?_ (lswSync_only ..) (by decide))
    | extract_lets
    | dsimp only
    | split

theorem lswGroundLoss_only (s : State) : Only [.sys, .host, .lsw] s (lswGroundLoss s) := by
  unfold lswGroundLoss
  try extract_lets
  repeat' first
    | with_reducible exact Only.refl _ _
    | with_reducible refine Only.ite ?_ ?_
    | (guard_target = Only _ _ (lswTurnOff ..); with_reducible refine Only.andThen ?_ (lswTurnOff_only ..) (by decide))
    | (guard_target = Only _ _ (modLsw ..); with_reducible refine Only.andThen ?_ (modLsw_only ..) (by decide))
    | (guard_target = Only _ _ (noteCoast ..); with_reducible refine Only.andThen ?_ (noteCoast_only ..) (by decide))
    | (guard_target = Only _ _ (notice ..); with_reducible refine Only.andThen ?_ (notice_only ..) (by decide))
    | with_reducible refine Only.foldl (fun _ _ => ?_) ?_
    | with_reducible refine Only.foldlFst (fun _ _ _ => ?_) ?_
    | extract_lets
    | dsimp only
    | split
    | dsimp +zetaDelta only

theorem lswGroundLossOff_only (s : State) : Only [.pd0, .lsw] s (lswGroundLossOff s) := by
  unfold lswGroundLossOff
  try extract_lets
  repeat' first
    | with_reducible exact Only.refl _ _
    | with_reducible refine Only.ite ?_ ?_
    | with_reducible refine Only.andThen ?_ (State.onPd0_only _ _) (by decide)
    | with_reducible refine Only.andThen ?_ (State.onLsw_only _ _) (by decide)
    | extract_lets
    | dsimp only
    | split
    | dsimp +zetaDelta only

theorem lswGroundBack_only (s : State) : Only [.sys, .host, .lsw] s (lswGroundBack s) := by
  unfold lswGroundBack
  try extract_lets
  repeat' first
    | with_reducible exact Only.refl _ _
    | with_reducible refine Only.ite ?_ ?_
    | (guard_target = Only _ _ (lswSyncAll ..); with_reducible refine Only.andThen ?_ (lswSyncAll_only ..) (by decide))
    | with_reducible refine Only.andThen ?_ (State.onLsw_only _ _) (by decide)

theorem lswReverse_only (s : State) : Only [.lsw] s (lswReverse s) := by
  unfold lswReverse
  try extract_lets
  repeat' first
    | with_reducible exact Only.refl _ _
    | with_reducible refine Only.ite ?_ ?_
    | with_reducible refine Only.andThen ?_ (State.onLsw_only _ _) (by decide)

theorem lswReverseEnds_only (s : State) : Only [.lsw] s (lswReverseEnds s) := by
  unfold lswReverseEnds
  try extract_lets
  repeat' first
    | with_reducible exact Only.refl _ _
    | with_reducible refine Only.ite ?_ ?_
    | with_reducible refine Only.andThen ?_ (State.onLsw_only _ _) (by decide)
    | extract_lets
    | dsimp only
    | split
    | dsimp +zetaDelta only

theorem commitLsw_only (e : Tick) (old : Params) (s : State) : Only [.sys, .host, .lsw] s (commitLsw e old s) := by
  unfold commitLsw
  try extract_lets
  repeat' first
    | with_reducible exact Only.refl _ _
    | with_reducible refine Only.ite ?_ ?_
    | (guard_target = Only _ _ (lswSyncAll ..); with_reducible refine Only.andThen ?_ (lswSyncAll_only ..) (by decide))
    | with_reducible refine Only.andThen ?_ (State.onLsw_only _ _) (by decide)

theorem opLswSet_only (e : Env) (s : State) : Only [.sys] s (opLswSet e s).1 := by
  unfold opLswSet
  try extract_lets
  repeat' first
    | with_reducible exact Only.refl _ _
    | with_reducible refine Only.iteFst ?_ ?_
    | with_reducible refine Only.ite ?_ ?_
    | (guard_target = Only _ _ (waitEdge ..); with_reducible refine Only.andThen ?_ (waitEdge_only ..) (by decide))
    | extract_lets
    | dsimp only
    | split

theorem applyLswSet_only (c : Fin 16) (on : Bool) (duty : Option Nat) (t : Tick) (s : State) : Only [.sys, .pd0, .host, .lsw] s (applyLswSet c on duty t s) := by
  unfold applyLswSet
  try extract_lets
  repeat' first
    | with_reducible exact Only.refl _ _
    | with_reducible refine Only.ite ?_ ?_
    | (guard_target = Only _ _ (endHold ..); with_reducible refine Only.andThen ?_ (endHold_only ..) (by decide))
    | (guard_target = Only _ _ (lswSync ..); with_reducible refine Only.andThen ?_ (lswSync_only ..) (by decide))
    | (guard_target = Only _ _ (writeLswDuty ..); with_reducible refine Only.andThen ?_ (writeLswDuty_only ..) (by decide))
    | with_reducible refine Only.andThen ?_ (State.onPd0_only _ _) (by decide)
    | extract_lets
    | dsimp only
    | split
    | dsimp +zetaDelta only

theorem applyLswResume_only (c : Fin 16) (s : State) : Only [.sys, .host, .lsw] s (applyLswResume c s) := by
  unfold applyLswResume
  try extract_lets
  repeat' first
    | with_reducible exact Only.refl _ _
    | with_reducible refine Only.ite ?_ ?_
    | (guard_target = Only _ _ (lswSync ..); with_reducible refine Only.andThen ?_ (lswSync_only ..) (by decide))
    | (guard_target = Only _ _ (modLsw ..); with_reducible refine Only.andThen ?_ (modLsw_only ..) (by decide))

theorem lswReload_only (c : Fin 16) (s : State) : Only [.pd0] s (lswReload c s) := by
  unfold lswReload
  try extract_lets
  repeat' first
    | with_reducible exact Only.refl _ _
    | with_reducible refine Only.ite ?_ ?_
    | with_reducible refine Only.andThen ?_ (State.onPd0_only _ _) (by decide)

theorem opLswClearFault_only (e : Env) (s : State) : Only [.sys, .pd0, .host, .lsw] s (opLswClearFault e s).1 := by
  unfold opLswClearFault
  try extract_lets
  repeat' first
    | with_reducible exact Only.refl _ _
    | with_reducible refine Only.iteFst ?_ ?_
    | dsimp only [deny, doneEdge]
    | with_reducible refine Only.ite ?_ ?_
    | (guard_target = Only _ _ (lswReload ..); with_reducible refine Only.andThen ?_ (lswReload_only ..) (by decide))
    | (guard_target = Only _ _ (lswUnlatch ..); with_reducible refine Only.andThen ?_ (lswUnlatch_only ..) (by decide))
    | (guard_target = Only _ _ (modLsw ..); with_reducible refine Only.andThen ?_ (modLsw_only ..) (by decide))
    | (guard_target = Only _ _ (waitEdge ..); with_reducible refine Only.andThen ?_ (waitEdge_only ..) (by decide))
    | extract_lets
    | dsimp only
    | split

end Sys2Proof.Machine
end

