-- ==== Sys2Proof/Laws/LoopsOnly.lean ====
section
/-! SUPPORT. What the operations of Machine/Loops.lean may change: for each the parts beyond which nothing moves. -/

set_option Elab.async false

namespace Sys2Proof.Machine

theorem modLoop_only (k : Fin 16) (f : Loop → Loop) (s : State) : Only [.ce] s (modLoop k f s) := by
  unfold modLoop
  try extract_lets
  repeat' first
    | with_reducible exact Only.refl _ _
    | with_reducible refine Only.ite ?_ ?_
    | with_reducible refine Only.andThen ?_ (State.onCe_only _ _) (by decide)

theorem modFlow_only (j : Fin 4) (f : Flow → Flow) (s : State) : Only [.ce] s (modFlow j f s) := by
  unfold modFlow
  try extract_lets
  repeat' first
    | with_reducible exact Only.refl _ _
    | with_reducible refine Only.ite ?_ ?_
    | with_reducible refine Only.andThen ?_ (State.onCe_only _ _) (by decide)

theorem writeOutput_only (k : Fin 16) (u : Int) (s : State) : Only [.pd0, .pwu, .lsw] s (writeOutput k u s) := by
  unfold writeOutput
  try extract_lets
  repeat' first
    | with_reducible exact Only.refl _ _
    | with_reducible refine Only.ite ?_ ?_
    | (guard_target = Only _ _ (writeCmp ..); with_reducible refine Only.andThen ?_ (writeCmp_only ..) (by decide))
    | (guard_target = Only _ _ (writeLswDuty ..); with_reducible refine Only.andThen ?_ (writeLswDuty_only ..) (by decide))
    | extract_lets
    | dsimp only
    | split

theorem execLoopEvaluation_only (k : Fin 16) (s : State) : OnlyR [.sys, .pd0, .host, .pwu, .ce, .lsw] s (execLoopEvaluation k s) := by
  unfold execLoopEvaluation
  try extract_lets
  repeat' first
    | with_reducible exact Only.refl _ _
    | with_reducible refine OnlyR.next ?_
    | refine OnlyR.ite ?_ ?_
    | with_reducible refine Only.ite ?_ ?_
    | (guard_target = Only _ _ (modLoop ..); with_reducible refine Only.andThen ?_ (modLoop_only ..) (by decide))
    | (guard_target = Only _ _ (notice ..); with_reducible refine Only.andThen ?_ (notice_only ..) (by decide))
    | (guard_target = Only _ _ (writeOutput ..); with_reducible refine Only.andThen ?_ (writeOutput_only ..) (by decide))
    | extract_lets
    | dsimp only
    | split

theorem countLoopMiss_only (k : Fin 16) (t : Tick) (s : State) : Only [.sys, .pd0, .host, .pwu, .ce, .lsw] s (countLoopMiss k t s) := by
  unfold countLoopMiss
  try extract_lets
  repeat' first
    | with_reducible exact Only.refl _ _
    | with_reducible refine Only.ite ?_ ?_
    | (guard_target = Only _ _ (modLoop ..); with_reducible refine Only.andThen ?_ (modLoop_only ..) (by decide))
    | (guard_target = Only _ _ (notice ..); with_reducible refine Only.andThen ?_ (notice_only ..) (by decide))
    | (guard_target = Only _ _ (writeOutput ..); with_reducible refine Only.andThen ?_ (writeOutput_only ..) (by decide))
    | with_reducible refine Only.andThen ?_ (State.onCe_only _ _) (by decide)
    | extract_lets
    | dsimp only
    | split

theorem applyLoopReset_only (k : Fin 16) (e : Tick) (s : State) : Only [.sys, .pd0, .host, .ce] s (applyLoopReset k e s) := by
  unfold applyLoopReset
  try extract_lets
  repeat' first
    | with_reducible exact Only.refl _ _
    | with_reducible refine Only.ite ?_ ?_
    | (guard_target = Only _ _ (endFault ..); with_reducible refine Only.andThen ?_ (endFault_only ..) (by decide))
    | (guard_target = Only _ _ (modLoop ..); with_reducible refine Only.andThen ?_ (modLoop_only ..) (by decide))
    | extract_lets
    | dsimp only
    | split
    | dsimp +zetaDelta only

theorem restartLoops_only (s : State) : Only [.ce] s (restartLoops s) := by
  unfold restartLoops
  try extract_lets
  repeat' first
    | with_reducible exact Only.refl _ _
    | with_reducible refine Only.ite ?_ ?_
    | with_reducible refine Only.andThen ?_ (State.onCe_only _ _) (by decide)

theorem loopsFrom_only (t : Tick) (s : State) : Only [.ce] s (loopsFrom t s) := by
  unfold loopsFrom
  try extract_lets
  repeat' first
    | with_reducible exact Only.refl _ _
    | with_reducible refine Only.ite ?_ ?_
    | with_reducible refine Only.andThen ?_ (State.onCe_only _ _) (by decide)
    | extract_lets
    | dsimp only
    | split
    | dsimp +zetaDelta only

theorem commitCe_only (e : Tick) (old : Params) (tabs : Option Tables) (s : State) : Only [.ce] s (commitCe e old tabs s) := by
  unfold commitCe
  try extract_lets
  repeat' first
    | with_reducible exact Only.refl _ _
    | with_reducible refine Only.ite ?_ ?_
    | with_reducible refine Only.andThen ?_ (State.onCe_only _ _) (by decide)
    | extract_lets
    | dsimp only
    | split
    | dsimp +zetaDelta only

theorem flowFreeze_only (e : Tick) (j : Fin 4) (s : State) : Only [.ce] s (flowFreeze e j s) := by
  unfold flowFreeze
  try extract_lets
  repeat' first
    | with_reducible exact Only.refl _ _
    | with_reducible refine Only.ite ?_ ?_
    | (guard_target = Only _ _ (modFlow ..); with_reducible refine Only.andThen ?_ (modFlow_only ..) (by decide))

theorem execFlowImbalance_only (j : Fin 4) (s : State) : OnlyR [.sys, .host, .ce] s (execFlowImbalance j s) := by
  unfold execFlowImbalance
  try extract_lets
  repeat' first
    | with_reducible exact Only.refl _ _
    | with_reducible refine OnlyR.next ?_
    | refine OnlyR.ite ?_ ?_
    | with_reducible refine Only.ite ?_ ?_
    | (guard_target = Only _ _ (modFlow ..); with_reducible refine Only.andThen ?_ (modFlow_only ..) (by decide))
    | (guard_target = Only _ _ (notice ..); with_reducible refine Only.andThen ?_ (notice_only ..) (by decide))

theorem opCeSetpoint_only (e : Env) (s : State) : Only [.sys] s (opCeSetpoint e s).1 := by
  unfold opCeSetpoint
  try extract_lets
  repeat' first
    | with_reducible exact Only.refl _ _
    | with_reducible refine Only.iteFst ?_ ?_
    | dsimp only [deny, doneEdge]
    | with_reducible refine Only.ite ?_ ?_
    | (guard_target = Only _ _ (waitEdge ..); with_reducible refine Only.andThen ?_ (waitEdge_only ..) (by decide))
    | extract_lets
    | dsimp only
    | split

theorem opCeOutput_only (e : Env) (s : State) : Only [.sys] s (opCeOutput e s).1 := by
  unfold opCeOutput
  try extract_lets
  repeat' first
    | with_reducible exact Only.refl _ _
    | with_reducible refine Only.iteFst ?_ ?_
    | dsimp only [deny, doneEdge]
    | with_reducible refine Only.ite ?_ ?_
    | (guard_target = Only _ _ (waitEdge ..); with_reducible refine Only.andThen ?_ (waitEdge_only ..) (by decide))
    | extract_lets
    | dsimp only
    | split

theorem opCeTableWrite_only (e : Env) (s : State) : Only [.ce] s (opCeTableWrite e s).1 := by
  unfold opCeTableWrite
  try extract_lets
  repeat' first
    | with_reducible exact Only.refl _ _
    | with_reducible refine Only.iteFst ?_ ?_
    | dsimp only [deny, done]
    | with_reducible refine Only.ite ?_ ?_
    | with_reducible refine Only.andThen ?_ (State.onCe_only _ _) (by decide)
    | extract_lets
    | dsimp only
    | split

theorem opCeTableRead_only (e : Env) (s : State) : Only [] s (opCeTableRead e s).1 := by
  unfold opCeTableRead
  try extract_lets
  repeat' first
    | with_reducible exact Only.refl _ _
    | with_reducible refine Only.iteFst ?_ ?_
    | dsimp only [deny, doneWith]
    | with_reducible refine Only.ite ?_ ?_
    | extract_lets
    | dsimp only
    | split

theorem opCeLoopReset_only (e : Env) (s : State) : Only [.sys] s (opCeLoopReset e s).1 := by
  unfold opCeLoopReset
  try extract_lets
  repeat' first
    | with_reducible exact Only.refl _ _
    | with_reducible refine Only.iteFst ?_ ?_
    | dsimp only [deny, doneEdge]
    | with_reducible refine Only.ite ?_ ?_
    | (guard_target = Only _ _ (waitEdge ..); with_reducible refine Only.andThen ?_ (waitEdge_only ..) (by decide))
    | extract_lets
    | dsimp only
    | split

end Sys2Proof.Machine
end

