-- ==== Sys2Proof/Laws/TransitionsOnly.lean ====
section
/-! SUPPORT. What the operations of Machine/Transitions.lean may change: for each the parts beyond which nothing moves. -/

set_option Elab.async false

namespace Sys2Proof.Machine

theorem driveFaultOut_only (s : State) : Only [.safe] s (driveFaultOut s) := by
  unfold driveFaultOut
  try extract_lets
  repeat' first
    | with_reducible exact Only.refl _ _
    | with_reducible refine Only.ite ?_ ?_
    | (guard_target = Only _ _ (State.onSafe ..); with_reducible refine Only.andThen ?_ (State.onSafe_only _ _) (by decide))

theorem toggleFaultOut_only (s : State) : Only [.safe] s (toggleFaultOut s) := by
  unfold toggleFaultOut
  try extract_lets
  repeat' first
    | with_reducible exact Only.refl _ _
    | with_reducible refine Only.ite ?_ ?_
    | (guard_target = Only _ _ (driveFaultOut ..); with_reducible refine Only.andThen ?_ (driveFaultOut_only ..) (by decide))
    | (guard_target = Only _ _ (State.onSafe ..); with_reducible refine Only.andThen ?_ (State.onSafe_only _ _) (by decide))

theorem changeState_only (d : DevState) (cause : Nat) (t : Tick) (s : State) : Only [.sys, .pd0, .host, .safe, .map] s (changeState d cause t s) := by
  unfold changeState
  try extract_lets
  repeat' first
    | with_reducible exact Only.refl _ _
    | with_reducible refine Only.ite ?_ ?_
    | (guard_target = Only _ _ (driveFaultOut ..); with_reducible refine Only.andThen ?_ (driveFaultOut_only ..) (by decide))
    | (guard_target = Only _ _ (noticeAt ..); with_reducible refine Only.andThen ?_ (noticeAt_only ..) (by decide))
    | (guard_target = Only _ _ (writeLog ..); with_reducible refine Only.andThen ?_ (writeLog_only ..) (by decide))
    | (guard_target = Only _ _ (State.onSys ..); with_reducible refine Only.andThen ?_ (State.onSys_only _ _) (by decide))

theorem flushEvents_only (s : State) : Only [.fe, .vdr] s (flushEvents s) := by
  unfold flushEvents
  try extract_lets
  repeat' first
    | with_reducible exact Only.refl _ _
    | with_reducible refine Only.ite ?_ ?_
    | (guard_target = Only _ _ (State.onFe ..); with_reducible refine Only.andThen ?_ (State.onFe_only _ _) (by decide))
    | (guard_target = Only _ _ (State.onVdr ..); with_reducible refine Only.andThen ?_ (State.onVdr_only _ _) (by decide))

theorem channelOff_only (c : Fin 96) (t : Tick) (s : State) : Only [.sys, .pd0, .host, .map, .vdr] s (channelOff c t s) := by
  unfold channelOff
  try extract_lets
  repeat' first
    | with_reducible exact Only.refl _ _
    | with_reducible refine Only.ite ?_ ?_
    | (guard_target = Only _ _ (cancelStart ..); with_reducible refine Only.andThen ?_ (cancelStart_only ..) (by decide))
    | (guard_target = Only _ _ (offRequest ..); with_reducible refine Only.andThen ?_ (offRequest_only ..) (by decide))
    | extract_lets
    | dsimp only
    | split
    | dsimp +zetaDelta only

theorem valvesOff_only (t : Tick) (s : State) : Only [.sys, .pd0, .host, .fe, .map, .vdr, .pwu] s (valvesOff t s) := by
  unfold valvesOff
  try extract_lets
  repeat' first
    | with_reducible exact Only.refl _ _
    | with_reducible refine Only.ite ?_ ?_
    | (guard_target = Only _ _ (channelOff ..); with_reducible refine Only.andThen ?_ (channelOff_only ..) (by decide))
    | (guard_target = Only _ _ (flushEvents ..); with_reducible refine Only.andThen ?_ (flushEvents_only ..) (by decide))
    | (guard_target = Only _ _ (stopNozzles ..); with_reducible refine Only.andThen ?_ (stopNozzles_only ..) (by decide))
    | with_reducible refine Only.foldl (fun _ _ => ?_) ?_
    | with_reducible refine Only.foldlFst (fun _ _ _ => ?_) ?_
    | extract_lets
    | dsimp only
    | split
    | dsimp +zetaDelta only

theorem valvesCut_only (t : Tick) (s : State) : Only [.sys, .pd0, .host, .map, .vdr] s (valvesCut t s) := by
  unfold valvesCut
  try extract_lets
  repeat' first
    | with_reducible exact Only.refl _ _
    | with_reducible refine Only.ite ?_ ?_
    | (guard_target = Only _ _ (forceOff ..); with_reducible refine Only.andThen ?_ (forceOff_only ..) (by decide))
    | (guard_target = Only _ _ (State.onVdr ..); with_reducible refine Only.andThen ?_ (State.onVdr_only _ _) (by decide))
    | with_reducible refine Only.foldl (fun _ _ => ?_) ?_
    | with_reducible refine Only.foldlFst (fun _ _ _ => ?_) ?_
    | extract_lets
    | dsimp only
    | split
    | dsimp +zetaDelta only

theorem leaveDrive_only (t : Tick) (s : State) : Only [.fe] s (leaveDrive t s) := by
  unfold leaveDrive
  try extract_lets
  repeat' first
    | with_reducible exact Only.refl _ _
    | with_reducible refine Only.ite ?_ ?_
    | (guard_target = Only _ _ (endRuns ..); with_reducible refine Only.andThen ?_ (endRuns_only ..) (by decide))
    | extract_lets
    | dsimp only
    | split
    | dsimp +zetaDelta only

theorem convUp_only (s : State) : Only [.vdr] s (convUp s) := by
  unfold convUp
  try extract_lets
  repeat' first
    | with_reducible exact Only.refl _ _
    | with_reducible refine Only.ite ?_ ?_
    | (guard_target = Only _ _ (syncConv ..); with_reducible refine Only.andThen ?_ (syncConv_only ..) (by decide))
    | (guard_target = Only _ _ (State.onVdr ..); with_reducible refine Only.andThen ?_ (State.onVdr_only _ _) (by decide))
    | extract_lets
    | dsimp only
    | split
    | dsimp +zetaDelta only

theorem feedsUp_only (t : Tick) (s : State) : Only [.vdr] s (feedsUp t s) := by
  unfold feedsUp
  try extract_lets
  repeat' first
    | with_reducible exact Only.refl _ _
    | with_reducible refine Only.ite ?_ ?_
    | (guard_target = Only _ _ (State.onVdr ..); with_reducible refine Only.andThen ?_ (State.onVdr_only _ _) (by decide))
    | extract_lets
    | dsimp only
    | split
    | dsimp +zetaDelta only

theorem enterStandby_only (cause : Nat) (t : Tick) (s : State) : Only [.sys, .pd0, .host, .safe, .fe, .map, .vdr, .pwu, .ce, .lsw, .can] s (enterStandby cause t s) := by
  unfold enterStandby
  try extract_lets
  repeat' first
    | with_reducible exact Only.refl _ _
    | with_reducible refine Only.ite ?_ ?_
    | (guard_target = Only _ _ (changeState ..); with_reducible refine Only.andThen ?_ (changeState_only ..) (by decide))
    | (guard_target = Only _ _ (convUp ..); with_reducible refine Only.andThen ?_ (convUp_only ..) (by decide))
    | (guard_target = Only _ _ (leaveDrive ..); with_reducible refine Only.andThen ?_ (leaveDrive_only ..) (by decide))
    | (guard_target = Only _ _ (loopsFrom ..); with_reducible refine Only.andThen ?_ (loopsFrom_only ..) (by decide))
    | (guard_target = Only _ _ (lswSyncAll ..); with_reducible refine Only.andThen ?_ (lswSyncAll_only ..) (by decide))
    | (guard_target = Only _ _ (startAllOff ..); with_reducible refine Only.andThen ?_ (startAllOff_only ..) (by decide))
    | (guard_target = Only _ _ (valvesOff ..); with_reducible refine Only.andThen ?_ (valvesOff_only ..) (by decide))
    | (guard_target = Only _ _ (State.onFe ..); with_reducible refine Only.andThen ?_ (State.onFe_only _ _) (by decide))
    | extract_lets
    | dsimp only
    | split
    | dsimp +zetaDelta only

theorem enterArmed_only (t : Tick) (s : State) : Only [.sys, .pd0, .host, .safe, .fe, .map, .lsw] s (enterArmed t s) := by
  unfold enterArmed
  try extract_lets
  repeat' first
    | with_reducible exact Only.refl _ _
    | with_reducible refine Only.ite ?_ ?_
    | (guard_target = Only _ _ (changeState ..); with_reducible refine Only.andThen ?_ (changeState_only ..) (by decide))
    | (guard_target = Only _ _ (directedOff ..); with_reducible refine Only.andThen ?_ (directedOff_only ..) (by decide))
    | (guard_target = Only _ _ (feStart ..); with_reducible refine Only.andThen ?_ (feStart_only ..) (by decide))
    | (guard_target = Only _ _ (lswSyncAll ..); with_reducible refine Only.andThen ?_ (lswSyncAll_only ..) (by decide))
    | (guard_target = Only _ _ (trackFrom ..); with_reducible refine Only.andThen ?_ (trackFrom_only ..) (by decide))
    | (guard_target = Only _ _ (State.onFe ..); with_reducible refine Only.andThen ?_ (State.onFe_only _ _) (by decide))
    | extract_lets
    | dsimp only
    | split
    | dsimp +zetaDelta only

theorem enterManual_only (t : Tick) (s : State) : Only [.sys, .pd0, .host, .safe, .fe, .map, .lsw] s (enterManual t s) := by
  unfold enterManual
  try extract_lets
  repeat' first
    | with_reducible exact Only.refl _ _
    | with_reducible refine Only.ite ?_ ?_
    | (guard_target = Only _ _ (changeState ..); with_reducible refine Only.andThen ?_ (changeState_only ..) (by decide))
    | (guard_target = Only _ _ (lswSyncAll ..); with_reducible refine Only.andThen ?_ (lswSyncAll_only ..) (by decide))
    | (guard_target = Only _ _ (trackFrom ..); with_reducible refine Only.andThen ?_ (trackFrom_only ..) (by decide))
    | (guard_target = Only _ _ (State.onFe ..); with_reducible refine Only.andThen ?_ (State.onFe_only _ _) (by decide))
    | extract_lets
    | dsimp only
    | split
    | dsimp +zetaDelta only

theorem enterCoast_only (cause : Nat) (s : State) : Only [.sys, .pd0, .host, .safe, .map, .lsw] s (enterCoast cause s) := by
  unfold enterCoast
  try extract_lets
  repeat' first
    | with_reducible exact Only.refl _ _
    | with_reducible refine Only.ite ?_ ?_
    | (guard_target = Only _ _ (cancelEdges ..); with_reducible refine Only.andThen ?_ (cancelEdges_only ..) (by decide))
    | (guard_target = Only _ _ (changeState ..); with_reducible refine Only.andThen ?_ (changeState_only ..) (by decide))
    | (guard_target = Only _ _ (lswSyncAll ..); with_reducible refine Only.andThen ?_ (lswSyncAll_only ..) (by decide))
    | (guard_target = Only _ _ (State.onSys ..); with_reducible refine Only.andThen ?_ (State.onSys_only _ _) (by decide))

theorem leaveCoast_only (t : Tick) (s : State) : Only [.sys, .pd0, .host, .safe, .map, .lsw, .can] s (leaveCoast t s) := by
  unfold leaveCoast
  try extract_lets
  repeat' first
    | with_reducible exact Only.refl _ _
    | with_reducible refine Only.ite ?_ ?_
    | (guard_target = Only _ _ (changeState ..); with_reducible refine Only.andThen ?_ (changeState_only ..) (by decide))
    | (guard_target = Only _ _ (lswSyncAll ..); with_reducible refine Only.andThen ?_ (lswSyncAll_only ..) (by decide))
    | (guard_target = Only _ _ (startAllOff ..); with_reducible refine Only.andThen ?_ (startAllOff_only ..) (by decide))
    | (guard_target = Only _ _ (trackFrom ..); with_reducible refine Only.andThen ?_ (trackFrom_only ..) (by decide))
    | (guard_target = Only _ _ (State.onSys ..); with_reducible refine Only.andThen ?_ (State.onSys_only _ _) (by decide))
    | extract_lets
    | dsimp only
    | split
    | dsimp +zetaDelta only

theorem enterSafe_only (cause : Nat) (t : Tick) (s : State) : Only [.sys, .pd0, .host, .safe, .fe, .map, .vdr, .pwu, .lsw, .can, .sec] s (enterSafe cause t s) := by
  unfold enterSafe
  try extract_lets
  repeat' first
    | with_reducible exact Only.refl _ _
    | with_reducible refine Only.ite ?_ ?_
    | (guard_target = Only _ _ (cancelActivation ..); with_reducible refine Only.andThen ?_ (cancelActivation_only ..) (by decide))
    | (guard_target = Only _ _ (cancelEdges ..); with_reducible refine Only.andThen ?_ (cancelEdges_only ..) (by decide))
    | (guard_target = Only _ _ (changeState ..); with_reducible refine Only.andThen ?_ (changeState_only ..) (by decide))
    | (guard_target = Only _ _ (gatesOff ..); with_reducible refine Only.andThen ?_ (gatesOff_only ..) (by decide))
    | (guard_target = Only _ _ (leaveDrive ..); with_reducible refine Only.andThen ?_ (leaveDrive_only ..) (by decide))
    | (guard_target = Only _ _ (lswHoldForSafe ..); with_reducible refine Only.andThen ?_ (lswHoldForSafe_only ..) (by decide))
    | (guard_target = Only _ _ (lswSyncAll ..); with_reducible refine Only.andThen ?_ (lswSyncAll_only ..) (by decide))
    | (guard_target = Only _ _ (sealBlock ..); with_reducible refine Only.andThen ?_ (sealBlock_only ..) (by decide))
    | (guard_target = Only _ _ (settleConv ..); with_reducible refine Only.andThen ?_ (settleConv_only ..) (by decide))
    | (guard_target = Only _ _ (startAllOff ..); with_reducible refine Only.andThen ?_ (startAllOff_only ..) (by decide))
    | (guard_target = Only _ _ (valvesOff ..); with_reducible refine Only.andThen ?_ (valvesOff_only ..) (by decide))
    | (guard_target = Only _ _ (State.onVdr ..); with_reducible refine Only.andThen ?_ (State.onVdr_only _ _) (by decide))
    | extract_lets
    | dsimp only
    | split
    | dsimp +zetaDelta only

theorem safeFault_only (cause : Nat) (b : Block) (index restarts detail : Nat) (t : Tick) (s : State) : Only [.sys, .pd0, .host, .safe, .fe, .map, .vdr, .pwu, .lsw, .can, .sec] s (safeFault cause b index restarts detail t s) := by
  unfold safeFault
  try extract_lets
  repeat' first
    | with_reducible exact Only.refl _ _
    | with_reducible refine Only.ite ?_ ?_
    | (guard_target = Only _ _ (enterSafe ..); with_reducible refine Only.andThen ?_ (enterSafe_only ..) (by decide))
    | (guard_target = Only _ _ (logFault ..); with_reducible refine Only.andThen ?_ (logFault_only ..) (by decide))

theorem endHolds_only (s : State) : Only [.pd0] s (endHolds s) := by
  unfold endHolds
  try extract_lets
  repeat' first
    | with_reducible exact Only.refl _ _
    | with_reducible refine Only.ite ?_ ?_
    | (guard_target = Only _ _ (State.onPd0 ..); with_reducible refine Only.andThen ?_ (State.onPd0_only _ _) (by decide))

theorem canOff_only (s : State) : Only [.sys, .host, .can] s (canOff s) := by
  unfold canOff
  try extract_lets
  repeat' first
    | with_reducible exact Only.refl _ _
    | with_reducible refine Only.ite ?_ ?_
    | (guard_target = Only _ _ (takeOff ..); with_reducible refine Only.andThen ?_ (takeOff_only ..) (by decide))
    | (guard_target = Only _ _ (State.onCan ..); with_reducible refine Only.andThen ?_ (State.onCan_only _ _) (by decide))
    | with_reducible refine Only.foldl (fun _ _ => ?_) ?_
    | with_reducible refine Only.foldlFst (fun _ _ _ => ?_) ?_
    | extract_lets
    | dsimp only
    | split
    | dsimp +zetaDelta only

theorem enterLatched_only (s0 : State) : Only [.sys, .pd0, .host, .safe, .time, .fe, .map, .vdr, .pwu, .lsw, .can, .sec] s0 (enterLatched s0) := by
  unfold enterLatched
  try extract_lets
  repeat' first
    | with_reducible exact Only.refl _ _
    | with_reducible refine Only.ite ?_ ?_
    | (guard_target = Only _ _ (canOff ..); with_reducible refine Only.andThen ?_ (canOff_only ..) (by decide))
    | (guard_target = Only _ _ (cancelActivation ..); with_reducible refine Only.andThen ?_ (cancelActivation_only ..) (by decide))
    | (guard_target = Only _ _ (cancelEdges ..); with_reducible refine Only.andThen ?_ (cancelEdges_only ..) (by decide))
    | (guard_target = Only _ _ (changeState ..); with_reducible refine Only.andThen ?_ (changeState_only ..) (by decide))
    | (guard_target = Only _ _ (endHolds ..); with_reducible refine Only.andThen ?_ (endHolds_only ..) (by decide))
    | (guard_target = Only _ _ (endRunsNow ..); with_reducible refine Only.andThen ?_ (endRunsNow_only ..) (by decide))
    | (guard_target = Only _ _ (gatesOff ..); with_reducible refine Only.andThen ?_ (gatesOff_only ..) (by decide))
    | (guard_target = Only _ _ (lswSyncAll ..); with_reducible refine Only.andThen ?_ (lswSyncAll_only ..) (by decide))
    | (guard_target = Only _ _ (ppsInactive ..); with_reducible refine Only.andThen ?_ (ppsInactive_only ..) (by decide))
    | (guard_target = Only _ _ (sealBlock ..); with_reducible refine Only.andThen ?_ (sealBlock_only ..) (by decide))
    | (guard_target = Only _ _ (trigsOff ..); with_reducible refine Only.andThen ?_ (trigsOff_only ..) (by decide))
    | (guard_target = Only _ _ (valvesCut ..); with_reducible refine Only.andThen ?_ (valvesCut_only ..) (by decide))
    | (guard_target = Only _ _ (valvesOff ..); with_reducible refine Only.andThen ?_ (valvesOff_only ..) (by decide))
    | (guard_target = Only _ _ (State.onVdr ..); with_reducible refine Only.andThen ?_ (State.onVdr_only _ _) (by decide))
    | extract_lets
    | dsimp only
    | split
    | dsimp +zetaDelta only

theorem enterQuarantine_only (quarCause : Nat) (t : Tick) (s : State) : Only [.sys, .pd0, .host, .safe, .time, .map, .lsw] s (enterQuarantine quarCause t s) := by
  unfold enterQuarantine
  try extract_lets
  repeat' first
    | with_reducible exact Only.refl _ _
    | with_reducible refine Only.ite ?_ ?_
    | (guard_target = Only _ _ (changeState ..); with_reducible refine Only.andThen ?_ (changeState_only ..) (by decide))
    | (guard_target = Only _ _ (endHolds ..); with_reducible refine Only.andThen ?_ (endHolds_only ..) (by decide))
    | (guard_target = Only _ _ (lswSyncAll ..); with_reducible refine Only.andThen ?_ (lswSyncAll_only ..) (by decide))
    | (guard_target = Only _ _ (ppsInactive ..); with_reducible refine Only.andThen ?_ (ppsInactive_only ..) (by decide))
    | (guard_target = Only _ _ (State.onSys ..); with_reducible refine Only.andThen ?_ (State.onSys_only _ _) (by decide))
    | extract_lets
    | dsimp only
    | split
    | dsimp +zetaDelta only

theorem saveNor_only (s : State) : Only [.nor] s (saveNor s) := by
  unfold saveNor
  try extract_lets
  repeat' first
    | with_reducible exact Only.refl _ _
    | with_reducible refine Only.ite ?_ ?_
    | (guard_target = Only _ _ (State.onNor ..); with_reducible refine Only.andThen ?_ (State.onNor_only _ _) (by decide))

theorem savePd0_only (s : State) : Only [.pd0] s (savePd0 s) := by
  unfold savePd0
  try extract_lets
  repeat' first
    | with_reducible exact Only.refl _ _
    | with_reducible refine Only.ite ?_ ?_
    | (guard_target = Only _ _ (saveTrials ..); with_reducible refine Only.andThen ?_ (saveTrials_only ..) (by decide))
    | (guard_target = Only _ _ (State.onPd0 ..); with_reducible refine Only.andThen ?_ (State.onPd0_only _ _) (by decide))

theorem keptState_only (s : State) : Only [.pm, .running, .sys, .pwr, .act, .shd, .host, .safe, .time, .gnss, .pos, .impl, .fe, .map, .vdr, .pwu, .ce, .pif, .lsw, .ths, .can, .sec] s (keptState s) := by
  unfold keptState
  try extract_lets
  repeat' first
    | with_reducible exact Only.refl _ _
    | with_reducible refine Only.ite ?_ ?_
    | with_reducible refine Only.andThen ?_ (State.pm_only _ _) (by decide)
    | with_reducible refine Only.andThen ?_ (State.sys_only _ _) (by decide)
    | exact ⟨fun p hp => by cases p <;> first | rfl | exact absurd (by decide) hp⟩

theorem offState_only (s : State) : Only [.pm, .running, .sys, .pwr, .act, .shd, .host, .safe, .time, .gnss, .pos, .impl, .fe, .map, .vdr, .pwu, .ce, .pif, .lsw, .ths, .can, .sec] s (offState s) := by
  unfold offState
  try extract_lets
  repeat' first
    | with_reducible exact Only.refl _ _
    | with_reducible refine Only.ite ?_ ?_
    | with_reducible refine Only.andThen ?_ (State.sys_only _ _) (by decide)
    | with_reducible refine Only.andThen ?_ (State.pwr_only _ _) (by decide)
    | exact ⟨fun p hp => by cases p <;> first | rfl | exact absurd (by decide) hp⟩

theorem startHolds_only (s : State) : Only [.pd0, .host, .lsw] s (startHolds s) := by
  unfold startHolds
  try extract_lets
  repeat' first
    | with_reducible exact Only.refl _ _
    | with_reducible refine Only.ite ?_ ?_
    | (guard_target = Only _ _ (State.onPd0 ..); with_reducible refine Only.andThen ?_ (State.onPd0_only _ _) (by decide))
    | (guard_target = Only _ _ (State.onLsw ..); with_reducible refine Only.andThen ?_ (State.onLsw_only _ _) (by decide))
    | extract_lets
    | dsimp only
    | split
    | dsimp +zetaDelta only

theorem enterOff_only (s : State) : Only [.pm, .running, .sys, .pwr, .pd0, .nor, .act, .shd, .host, .safe, .time, .gnss, .pos, .impl, .fe, .map, .vdr, .pwu, .ce, .pif, .lsw, .ths, .can, .sec] s (enterOff s) := by
  unfold enterOff
  try extract_lets
  repeat' first
    | with_reducible exact Only.refl _ _
    | with_reducible refine Only.ite ?_ ?_
    | (guard_target = Only _ _ (changeState ..); with_reducible refine Only.andThen ?_ (changeState_only ..) (by decide))
    | (guard_target = Only _ _ (offState ..); with_reducible refine Only.andThen ?_ (offState_only ..) (by decide))
    | (guard_target = Only _ _ (saveNor ..); with_reducible refine Only.andThen ?_ (saveNor_only ..) (by decide))
    | (guard_target = Only _ _ (savePd0 ..); with_reducible refine Only.andThen ?_ (savePd0_only ..) (by decide))
    | (guard_target = Only _ _ (startHolds ..); with_reducible refine Only.andThen ?_ (startHolds_only ..) (by decide))
    | extract_lets
    | dsimp only
    | split
    | dsimp +zetaDelta only

theorem enterOffBrown_only (s : State) : Only [.pm, .running, .sys, .pwr, .pd0, .act, .shd, .host, .safe, .time, .gnss, .pos, .impl, .fe, .map, .vdr, .pwu, .ce, .pif, .lsw, .ths, .can, .sec] s (enterOffBrown s) := by
  unfold enterOffBrown
  try extract_lets
  repeat' first
    | with_reducible exact Only.refl _ _
    | with_reducible refine Only.ite ?_ ?_
    | (guard_target = Only _ _ (changeState ..); with_reducible refine Only.andThen ?_ (changeState_only ..) (by decide))
    | (guard_target = Only _ _ (endHolds ..); with_reducible refine Only.andThen ?_ (endHolds_only ..) (by decide))
    | (guard_target = Only _ _ (offState ..); with_reducible refine Only.andThen ?_ (offState_only ..) (by decide))
    | (guard_target = Only _ _ (savePd0 ..); with_reducible refine Only.andThen ?_ (savePd0_only ..) (by decide))
    | with_reducible refine Only.andThen ?_ (State.lsw_only _ _) (by decide)
    | extract_lets
    | dsimp only
    | split
    | dsimp +zetaDelta only

theorem startState_only (prev : DevState) (cause startCause : Nat) (s : State) : Only [.pm, .running, .sys, .pwr, .pd0, .nor, .act, .shd, .host, .safe, .time, .gnss, .pos, .impl, .fe, .map, .vdr, .pwu, .ce, .pif, .lsw, .ths, .can, .sec] s (startState prev cause startCause s) := by
  unfold startState
  try extract_lets
  repeat' first
    | with_reducible exact Only.refl _ _
    | with_reducible refine Only.ite ?_ ?_
    | with_reducible refine Only.andThen ?_ (State.sys_only _ _) (by decide)
    | with_reducible refine Only.andThen ?_ (State.pwr_only _ _) (by decide)
    | with_reducible refine Only.andThen ?_ (State.pd0_only _ _) (by decide)
    | with_reducible refine Only.andThen ?_ (State.nor_only _ _) (by decide)
    | with_reducible refine Only.andThen ?_ (State.act_only _ _) (by decide)
    | with_reducible refine Only.andThen ?_ (State.shd_only _ _) (by decide)
    | with_reducible refine Only.andThen ?_ (State.impl_only _ _) (by decide)
    | with_reducible refine Only.andThen ?_ (State.vdr_only _ _) (by decide)
    | with_reducible refine Only.andThen ?_ (State.sec_only _ _) (by decide)
    | exact ⟨fun p hp => by cases p <;> first | rfl | exact absurd (by decide) hp⟩

theorem startFromOff_only (cause startCause : Nat) (s : State) : Only [.pm, .running, .sys, .pwr, .pd0, .nor, .act, .shd, .host, .safe, .time, .gnss, .pos, .impl, .fe, .map, .vdr, .pwu, .ce, .pif, .lsw, .ths, .can, .sec] s (startFromOff cause startCause s) := by
  unfold startFromOff
  try extract_lets
  repeat' first
    | with_reducible exact Only.refl _ _
    | with_reducible refine Only.ite ?_ ?_
    | (guard_target = Only _ _ (startState ..); with_reducible refine Only.andThen ?_ (startState_only ..) (by decide))

end Sys2Proof.Machine
end

