-- ==== Sys2Proof/Laws/GnssOnly.lean ====
section
/-! SUPPORT. What the operations of Machine/Gnss.lean may change: for each the parts beyond which nothing moves. -/

set_option Elab.async false

namespace Sys2Proof.Machine

theorem modChan_only (c : Fin 24) (f : GChan → GChan) (s : State) : Only [.gnss] s (modChan c f s) := by
  unfold modChan
  try extract_lets
  repeat' first
    | with_reducible exact Only.refl _ _
    | with_reducible refine Only.ite ?_ ?_
    | (guard_target = Only _ _ (State.onGnss ..); with_reducible refine Only.andThen ?_ (State.onGnss_only _ _) (by decide))

theorem modEph_only (p : Fin 32) (f : Eph → Eph) (s : State) : Only [.gnss] s (modEph p f s) := by
  unfold modEph
  try extract_lets
  repeat' first
    | with_reducible exact Only.refl _ _
    | with_reducible refine Only.ite ?_ ?_
    | (guard_target = Only _ _ (State.onGnss ..); with_reducible refine Only.andThen ?_ (State.onGnss_only _ _) (by decide))

theorem execAntOpen_only (ma : Nat) (s : State) : OnlyR [.sys, .host, .gnss] s (execAntOpen ma s) := by
  unfold execAntOpen
  try extract_lets
  repeat' first
    | with_reducible exact Only.refl _ _
    | with_reducible refine OnlyR.next ?_
    | refine OnlyR.ite ?_ ?_
    | with_reducible refine Only.ite ?_ ?_
    | (guard_target = Only _ _ (notice ..); with_reducible refine Only.andThen ?_ (notice_only ..) (by decide))
    | (guard_target = Only _ _ (State.onGnss ..); with_reducible refine Only.andThen ?_ (State.onGnss_only _ _) (by decide))

theorem execAntShort_only (ma : Nat) (s : State) : OnlyR [.sys, .host, .gnss] s (execAntShort ma s) := by
  unfold execAntShort
  try extract_lets
  repeat' first
    | with_reducible exact Only.refl _ _
    | with_reducible refine OnlyR.next ?_
    | refine OnlyR.ite ?_ ?_
    | with_reducible refine Only.ite ?_ ?_
    | (guard_target = Only _ _ (notice ..); with_reducible refine Only.andThen ?_ (notice_only ..) (by decide))
    | (guard_target = Only _ _ (State.onGnss ..); with_reducible refine Only.andThen ?_ (State.onGnss_only _ _) (by decide))

theorem execAntBiasRetry_only (ma : Nat) (s : State) : OnlyR [.sys, .host, .gnss] s (execAntBiasRetry ma s) := by
  unfold execAntBiasRetry
  try extract_lets
  repeat' first
    | with_reducible exact Only.refl _ _
    | with_reducible refine OnlyR.next ?_
    | refine OnlyR.ite ?_ ?_
    | with_reducible refine Only.ite ?_ ?_
    | (guard_target = Only _ _ (notice ..); with_reducible refine Only.andThen ?_ (notice_only ..) (by decide))
    | (guard_target = Only _ _ (State.onGnss ..); with_reducible refine Only.andThen ?_ (State.onGnss_only _ _) (by decide))

theorem handOff_only (c : Fin 24) (v : Search) (dup : Bool) (s : State) : Only [.gnss] s (handOff c v dup s) := by
  unfold handOff
  try extract_lets
  repeat' first
    | with_reducible exact Only.refl _ _
    | with_reducible refine Only.ite ?_ ?_
    | (guard_target = Only _ _ (modChan ..); with_reducible refine Only.andThen ?_ (modChan_only ..) (by decide))
    | (guard_target = Only _ _ (State.onGnss ..); with_reducible refine Only.andThen ?_ (State.onGnss_only _ _) (by decide))

theorem takeVerified_only (v : Search) (cn0 : Nat) (s : State) : Only [.gnss] s (takeVerified v cn0 s) := by
  unfold takeVerified
  try extract_lets
  repeat' first
    | with_reducible exact Only.refl _ _
    | with_reducible refine Only.ite ?_ ?_
    | (guard_target = Only _ _ (handOff ..); with_reducible refine Only.andThen ?_ (handOff_only ..) (by decide))
    | (guard_target = Only _ _ (State.onGnss ..); with_reducible refine Only.andThen ?_ (State.onGnss_only _ _) (by decide))
    | extract_lets
    | dsimp only
    | split
    | dsimp +zetaDelta only

theorem freeChannel_only (c : Fin 24) (s : State) : Only [.gnss] s (freeChannel c s) := by
  unfold freeChannel
  try extract_lets
  repeat' first
    | with_reducible exact Only.refl _ _
    | with_reducible refine Only.ite ?_ ?_
    | (guard_target = Only _ _ (modChan ..); with_reducible refine Only.andThen ?_ (modChan_only ..) (by decide))
    | (guard_target = Only _ _ (State.onGnss ..); with_reducible refine Only.andThen ?_ (State.onGnss_only _ _) (by decide))
    | extract_lets
    | dsimp only
    | split
    | dsimp +zetaDelta only

theorem releaseChan_only (c : Fin 24) (s : State) : Only [.gnss] s (releaseChan c s) := by
  unfold releaseChan
  try extract_lets
  repeat' first
    | with_reducible exact Only.refl _ _
    | with_reducible refine Only.ite ?_ ?_
    | (guard_target = Only _ _ (freeChannel ..); with_reducible refine Only.andThen ?_ (freeChannel_only ..) (by decide))
    | (guard_target = Only _ _ (State.onGnss ..); with_reducible refine Only.andThen ?_ (State.onGnss_only _ _) (by decide))
    | extract_lets
    | dsimp only
    | split
    | dsimp +zetaDelta only

theorem acqBusy_only (s : State) : Only [.pwr] s (acqBusy s) := by
  unfold acqBusy
  try extract_lets
  repeat' first
    | with_reducible exact Only.refl _ _
    | with_reducible refine Only.ite ?_ ?_
    | (guard_target = Only _ _ (State.onPwr ..); with_reducible refine Only.andThen ?_ (State.onPwr_only _ _) (by decide))

theorem acqIdle_only (s : State) : Only [.pwr] s (acqIdle s) := by
  unfold acqIdle
  try extract_lets
  repeat' first
    | with_reducible exact Only.refl _ _
    | with_reducible refine Only.ite ?_ ?_
    | (guard_target = Only _ _ (State.onPwr ..); with_reducible refine Only.andThen ?_ (State.onPwr_only _ _) (by decide))

theorem execAcqIdleGate_only (s : State) : OnlyR [.pwr] s (execAcqIdleGate s) := by
  unfold execAcqIdleGate
  try extract_lets
  repeat' first
    | with_reducible exact Only.refl _ _
    | with_reducible refine OnlyR.next ?_
    | refine OnlyR.ite ?_ ?_
    | with_reducible refine Only.ite ?_ ?_
    | (guard_target = Only _ _ (State.onPwr ..); with_reducible refine Only.andThen ?_ (State.onPwr_only _ _) (by decide))
    | extract_lets
    | dsimp only
    | split

theorem acqNext_only (s : State) : Only [.pwr, .gnss] s (acqNext s) := by
  unfold acqNext
  try extract_lets
  repeat' first
    | with_reducible exact Only.refl _ _
    | with_reducible refine Only.ite ?_ ?_
    | (guard_target = Only _ _ (acqBusy ..); with_reducible refine Only.andThen ?_ (acqBusy_only ..) (by decide))
    | (guard_target = Only _ _ (acqIdle ..); with_reducible refine Only.andThen ?_ (acqIdle_only ..) (by decide))
    | (guard_target = Only _ _ (State.onGnss ..); with_reducible refine Only.andThen ?_ (State.onGnss_only _ _) (by decide))
    | extract_lets
    | dsimp only
    | split
    | dsimp +zetaDelta only

theorem execAcqDwellEnd_only (d : DwellIn) (s : State) : OnlyR [.pwr, .gnss] s (execAcqDwellEnd d s) := by
  unfold execAcqDwellEnd
  try extract_lets
  repeat' first
    | with_reducible exact Only.refl _ _
    | with_reducible refine OnlyR.next ?_
    | refine OnlyR.ite ?_ ?_
    | with_reducible refine Only.ite ?_ ?_
    | (guard_target = Only _ _ (acqNext ..); with_reducible refine Only.andThen ?_ (acqNext_only ..) (by decide))
    | (guard_target = Only _ _ (takeVerified ..); with_reducible refine Only.andThen ?_ (takeVerified_only ..) (by decide))
    | (guard_target = Only _ _ (State.onGnss ..); with_reducible refine Only.andThen ?_ (State.onGnss_only _ _) (by decide))
    | extract_lets
    | dsimp only
    | split
    | dsimp +zetaDelta only

theorem execWarmSearchTimer_only (s : State) : OnlyR [.pwr, .gnss] s (execWarmSearchTimer s) := by
  unfold execWarmSearchTimer
  try extract_lets
  repeat' first
    | with_reducible exact Only.refl _ _
    | with_reducible refine OnlyR.next ?_
    | refine OnlyR.ite ?_ ?_
    | with_reducible refine Only.ite ?_ ?_
    | (guard_target = Only _ _ (acqNext ..); with_reducible refine Only.andThen ?_ (acqNext_only ..) (by decide))
    | (guard_target = Only _ _ (State.onGnss ..); with_reducible refine Only.andThen ?_ (State.onGnss_only _ _) (by decide))
    | extract_lets
    | dsimp only
    | split
    | dsimp +zetaDelta only

theorem commitGnss_only (s : State) : Only [.gnss] s (commitGnss s) := by
  unfold commitGnss
  try extract_lets
  repeat' first
    | with_reducible exact Only.refl _ _
    | with_reducible refine Only.ite ?_ ?_
    | (guard_target = Only _ _ (State.onGnss ..); with_reducible refine Only.andThen ?_ (State.onGnss_only _ _) (by decide))

theorem execPullInTimeout_only (c : Fin 24) (s : State) : OnlyR [.pwr, .gnss] s (execPullInTimeout c s) := by
  unfold execPullInTimeout
  try extract_lets
  repeat' first
    | with_reducible exact Only.refl _ _
    | with_reducible refine OnlyR.next ?_
    | refine OnlyR.ite ?_ ?_
    | with_reducible refine Only.ite ?_ ?_
    | (guard_target = Only _ _ (acqNext ..); with_reducible refine Only.andThen ?_ (acqNext_only ..) (by decide))
    | (guard_target = Only _ _ (releaseChan ..); with_reducible refine Only.andThen ?_ (releaseChan_only ..) (by decide))
    | extract_lets
    | dsimp only
    | split
    | dsimp +zetaDelta only

theorem execPullInComplete_only (c : Fin 24) (s : State) : OnlyR [.gnss] s (execPullInComplete c s) := by
  unfold execPullInComplete
  try extract_lets
  repeat' first
    | with_reducible exact Only.refl _ _
    | with_reducible refine OnlyR.next ?_
    | refine OnlyR.ite ?_ ?_
    | with_reducible refine Only.ite ?_ ?_
    | (guard_target = Only _ _ (modChan ..); with_reducible refine Only.andThen ?_ (modChan_only ..) (by decide))

theorem execPhaseLock_only (c : Fin 24) (mean : Int) (s : State) : OnlyR [.gnss] s (execPhaseLock c mean s) := by
  unfold execPhaseLock
  try extract_lets
  repeat' first
    | with_reducible exact Only.refl _ _
    | with_reducible refine OnlyR.next ?_
    | refine OnlyR.ite ?_ ?_
    | with_reducible refine Only.ite ?_ ?_
    | (guard_target = Only _ _ (modChan ..); with_reducible refine Only.andThen ?_ (modChan_only ..) (by decide))

theorem execBitSync_only (c : Fin 24) (changes : List Nat) (s : State) : OnlyR [.gnss] s (execBitSync c changes s) := by
  unfold execBitSync
  try extract_lets
  repeat' first
    | with_reducible exact Only.refl _ _
    | with_reducible refine OnlyR.next ?_
    | refine OnlyR.ite ?_ ?_
    | with_reducible refine Only.ite ?_ ?_
    | (guard_target = Only _ _ (modChan ..); with_reducible refine Only.andThen ?_ (modChan_only ..) (by decide))

theorem execChannelLoss_only (c : Fin 24) (s : State) : OnlyR [.pwr, .gnss] s (execChannelLoss c s) := by
  unfold execChannelLoss
  try extract_lets
  repeat' first
    | with_reducible exact Only.refl _ _
    | with_reducible refine OnlyR.next ?_
    | refine OnlyR.ite ?_ ?_
    | with_reducible refine Only.ite ?_ ?_
    | (guard_target = Only _ _ (acqNext ..); with_reducible refine Only.andThen ?_ (acqNext_only ..) (by decide))
    | (guard_target = Only _ _ (releaseChan ..); with_reducible refine Only.andThen ?_ (releaseChan_only ..) (by decide))
    | extract_lets
    | dsimp only
    | split
    | dsimp +zetaDelta only

theorem setTow_only (ms : Nat) (at_ : Tick) (s : State) : Only [.gnss] s (setTow ms at_ s) := by
  unfold setTow
  try extract_lets
  repeat' first
    | with_reducible exact Only.refl _ _
    | with_reducible refine Only.ite ?_ ?_
    | (guard_target = Only _ _ (State.onGnss ..); with_reducible refine Only.andThen ?_ (State.onGnss_only _ _) (by decide))
    | extract_lets
    | dsimp only
    | split
    | dsimp +zetaDelta only

theorem execFrameSync_only (c : Fin 24) (f : FrameIn) (s : State) : OnlyR [.gnss] s (execFrameSync c f s) := by
  unfold execFrameSync
  try extract_lets
  repeat' first
    | with_reducible exact Only.refl _ _
    | with_reducible refine OnlyR.next ?_
    | refine OnlyR.ite ?_ ?_
    | with_reducible refine Only.ite ?_ ?_
    | (guard_target = Only _ _ (modChan ..); with_reducible refine Only.andThen ?_ (modChan_only ..) (by decide))
    | (guard_target = Only _ _ (setTow ..); with_reducible refine Only.andThen ?_ (setTow_only ..) (by decide))
    | extract_lets
    | dsimp only
    | split
    | dsimp +zetaDelta only

theorem takeSubframe_only (c : Fin 24) (ws : List (BitVec 24)) (s : State) : Only [.time, .gnss] s (takeSubframe c ws s) := by
  unfold takeSubframe
  try extract_lets
  repeat' first
    | with_reducible exact Only.refl _ _
    | dsimp only [id]
    | with_reducible refine Only.ite ?_ ?_
    | (guard_target = Only _ _ (modChan ..); with_reducible refine Only.andThen ?_ (modChan_only ..) (by decide))
    | (guard_target = Only _ _ (State.onTime ..); with_reducible refine Only.andThen ?_ (State.onTime_only _ _) (by decide))
    | (guard_target = Only _ _ (State.onGnss ..); with_reducible refine Only.andThen ?_ (State.onGnss_only _ _) (by decide))
    | extract_lets
    | dsimp only
    | split
    | dsimp +zetaDelta only

theorem execLnavWord_only (c : Fin 24) (w : BitVec 30) (s : State) : OnlyR [.time, .gnss] s (execLnavWord c w s) := by
  unfold execLnavWord
  try extract_lets
  repeat' first
    | with_reducible exact Only.refl _ _
    | with_reducible refine OnlyR.next ?_
    | refine OnlyR.ite ?_ ?_
    | dsimp only [id]
    | with_reducible refine Only.ite ?_ ?_
    | (guard_target = Only _ _ (modChan ..); with_reducible refine Only.andThen ?_ (modChan_only ..) (by decide))
    | (guard_target = Only _ _ (takeSubframe ..); with_reducible refine Only.andThen ?_ (takeSubframe_only ..) (by decide))
    | extract_lets
    | dsimp only
    | split
    | dsimp +zetaDelta only

theorem ephJump_only (p : Fin 32) (iode dist : Nat) (s : State) : Only [.sys, .host, .gnss] s (ephJump p iode dist s) := by
  unfold ephJump
  try extract_lets
  repeat' first
    | with_reducible exact Only.refl _ _
    | with_reducible refine Only.ite ?_ ?_
    | (guard_target = Only _ _ (modEph ..); with_reducible refine Only.andThen ?_ (modEph_only ..) (by decide))
    | (guard_target = Only _ _ (notice ..); with_reducible refine Only.andThen ?_ (notice_only ..) (by decide))

theorem acceptEph_only (p : Fin 32) (iode week10 health ura : Nat) (key : List Nat) (f : Eph → Eph) (s : State) : Only [.sys, .host, .gnss] s (acceptEph p iode week10 health ura key f s) := by
  unfold acceptEph
  try extract_lets
  repeat' first
    | with_reducible exact Only.refl _ _
    | with_reducible refine Only.ite ?_ ?_
    | (guard_target = Only _ _ (ephJump ..); with_reducible refine Only.andThen ?_ (ephJump_only ..) (by decide))
    | (guard_target = Only _ _ (modEph ..); with_reducible refine Only.andThen ?_ (modEph_only ..) (by decide))

theorem resolveWeek_only (w10 : Nat) (s : State) : Only [.sys, .host, .gnss] s (resolveWeek w10 s) := by
  unfold resolveWeek
  try extract_lets
  repeat' first
    | with_reducible exact Only.refl _ _
    | with_reducible refine Only.ite ?_ ?_
    | (guard_target = Only _ _ (notice ..); with_reducible refine Only.andThen ?_ (notice_only ..) (by decide))
    | (guard_target = Only _ _ (State.onGnss ..); with_reducible refine Only.andThen ?_ (State.onGnss_only _ _) (by decide))
    | extract_lets
    | dsimp only
    | split

theorem execEphemerisAccept_only (prn : Fin 32) (s : State) : OnlyR [.sys, .host, .gnss] s (execEphemerisAccept prn s) := by
  unfold execEphemerisAccept
  try extract_lets
  repeat' first
    | with_reducible exact Only.refl _ _
    | with_reducible refine OnlyR.next ?_
    | refine OnlyR.ite ?_ ?_
    | with_reducible refine Only.ite ?_ ?_
    | (guard_target = Only _ _ (acceptEph ..); with_reducible refine Only.andThen ?_ (acceptEph_only ..) (by decide))
    | (guard_target = Only _ _ (resolveWeek ..); with_reducible refine Only.andThen ?_ (resolveWeek_only ..) (by decide))
    | extract_lets
    | dsimp only
    | split
    | dsimp +zetaDelta only

theorem chansAfter_only (t : Tick) (sats : List SatMeas) (s : State) : Only [.gnss] s (chansAfter t sats s) := by
  unfold chansAfter
  try extract_lets
  repeat' first
    | with_reducible exact Only.refl _ _
    | with_reducible refine Only.ite ?_ ?_
    | (guard_target = Only _ _ (modChan ..); with_reducible refine Only.andThen ?_ (modChan_only ..) (by decide))
    | with_reducible refine Only.foldl (fun _ _ => ?_) ?_

theorem placeMonitors_only (s : State) : Only [.gnss] s (placeMonitors s) := by
  unfold placeMonitors
  try extract_lets
  repeat' first
    | with_reducible exact Only.refl _ _
    | with_reducible refine Only.ite ?_ ?_
    | (guard_target = Only _ _ (modChan ..); with_reducible refine Only.andThen ?_ (modChan_only ..) (by decide))
    | with_reducible refine Only.foldl (fun _ _ => ?_) ?_
    | with_reducible refine Only.foldlFst (fun _ _ _ => ?_) ?_
    | extract_lets
    | dsimp only
    | split
    | dsimp +zetaDelta only

theorem execMeasurementEpoch_only (m : EpochIn) (s : State) : OnlyR [.sys, .pd0, .host, .time, .gnss, .map] s (execMeasurementEpoch m s) := by
  unfold execMeasurementEpoch
  try extract_lets
  repeat' first
    | with_reducible exact Only.refl _ _
    | with_reducible refine OnlyR.next ?_
    | refine OnlyR.ite ?_ ?_
    | with_reducible refine Only.ite ?_ ?_
    | (guard_target = Only _ _ (chansAfter ..); with_reducible refine Only.andThen ?_ (chansAfter_only ..) (by decide))
    | (guard_target = Only _ _ (learnDrift ..); with_reducible refine Only.andThen ?_ (learnDrift_only ..) (by decide))
    | (guard_target = Only _ _ (noticeNow ..); with_reducible refine Only.andThen ?_ (noticeNow_only ..) (by decide))
    | (guard_target = Only _ _ (placeMonitors ..); with_reducible refine Only.andThen ?_ (placeMonitors_only ..) (by decide))
    | (guard_target = Only _ _ (timeEpoch ..); with_reducible refine Only.andThen ?_ (timeEpoch_only ..) (by decide))
    | (guard_target = Only _ _ (State.onGnss ..); with_reducible refine Only.andThen ?_ (State.onGnss_only _ _) (by decide))
    | extract_lets
    | dsimp only
    | split
    | dsimp +zetaDelta only

theorem rtcmSearch_only (buf : List Byte) (s : State) : Only [.gnss] s (rtcmSearch buf s) := by
  unfold rtcmSearch
  try extract_lets
  repeat' first
    | with_reducible exact Only.refl _ _
    | with_reducible refine Only.ite ?_ ?_
    | (guard_target = Only _ _ (State.onGnss ..); with_reducible refine Only.andThen ?_ (State.onGnss_only _ _) (by decide))
    | extract_lets
    | dsimp only
    | split
    | dsimp +zetaDelta only

theorem take1004_only (msg : List Byte) (s : State) : Only [.gnss] s (take1004 msg s) := by
  unfold take1004
  try extract_lets
  repeat' first
    | with_reducible exact Only.refl _ _
    | dsimp only [id]
    | with_reducible refine Only.ite ?_ ?_
    | (guard_target = Only _ _ (State.onGnss ..); with_reducible refine Only.andThen ?_ (State.onGnss_only _ _) (by decide))

theorem baseChange_only (id : Nat) (arp : Int × Int × Int) (s : State) : Only [.host, .gnss] s (baseChange id arp s) := by
  unfold baseChange
  try extract_lets
  repeat' first
    | with_reducible exact Only.refl _ _
    | dsimp only [id]
    | with_reducible refine Only.ite ?_ ?_
    | (guard_target = Only _ _ (noticeNow ..); with_reducible refine Only.andThen ?_ (noticeNow_only ..) (by decide))
    | (guard_target = Only _ _ (State.onGnss ..); with_reducible refine Only.andThen ?_ (State.onGnss_only _ _) (by decide))

theorem take1005_only (msg : List Byte) (s : State) : Only [.host, .gnss] s (take1005 msg s) := by
  unfold take1005
  try extract_lets
  repeat' first
    | with_reducible exact Only.refl _ _
    | dsimp only [id]
    | with_reducible refine Only.ite ?_ ?_
    | (guard_target = Only _ _ (baseChange ..); with_reducible refine Only.andThen ?_ (baseChange_only ..) (by decide))
    | (guard_target = Only _ _ (State.onGnss ..); with_reducible refine Only.andThen ?_ (State.onGnss_only _ _) (by decide))
    | extract_lets
    | dsimp only
    | split

theorem take1019_only (msg : List Byte) (s : State) : Only [.sys, .host, .gnss] s (take1019 msg s) := by
  unfold take1019
  try extract_lets
  repeat' first
    | with_reducible exact Only.refl _ _
    | with_reducible refine Only.ite ?_ ?_
    | (guard_target = Only _ _ (acceptEph ..); with_reducible refine Only.andThen ?_ (acceptEph_only ..) (by decide))
    | (guard_target = Only _ _ (State.onGnss ..); with_reducible refine Only.andThen ?_ (State.onGnss_only _ _) (by decide))
    | extract_lets
    | dsimp only
    | split
    | dsimp +zetaDelta only

theorem takeMessage_only (msg : List Byte) (s : State) : Only [.sys, .host, .gnss] s (takeMessage msg s) := by
  unfold takeMessage
  try extract_lets
  repeat' first
    | with_reducible exact Only.refl _ _
    | with_reducible refine Only.ite ?_ ?_
    | (guard_target = Only _ _ (take1004 ..); with_reducible refine Only.andThen ?_ (take1004_only ..) (by decide))
    | (guard_target = Only _ _ (take1005 ..); with_reducible refine Only.andThen ?_ (take1005_only ..) (by decide))
    | (guard_target = Only _ _ (take1019 ..); with_reducible refine Only.andThen ?_ (take1019_only ..) (by decide))
    | (guard_target = Only _ _ (State.onGnss ..); with_reducible refine Only.andThen ?_ (State.onGnss_only _ _) (by decide))
    | extract_lets
    | dsimp only
    | split

theorem execRtcmFrame_only (s : State) : OnlyR [.sys, .host, .gnss] s (execRtcmFrame s) := by
  unfold execRtcmFrame
  try extract_lets
  repeat' first
    | with_reducible exact Only.refl _ _
    | with_reducible refine OnlyR.next ?_
    | refine OnlyR.ite ?_ ?_
    | with_reducible refine Only.ite ?_ ?_
    | (guard_target = Only _ _ (rtcmSearch ..); with_reducible refine Only.andThen ?_ (rtcmSearch_only ..) (by decide))
    | (guard_target = Only _ _ (takeMessage ..); with_reducible refine Only.andThen ?_ (takeMessage_only ..) (by decide))
    | extract_lets
    | dsimp only
    | split
    | dsimp +zetaDelta only

theorem execRtcmTimeout_only (s : State) : OnlyR [.gnss] s (execRtcmTimeout s) := by
  unfold execRtcmTimeout
  try extract_lets
  repeat' first
    | with_reducible exact Only.refl _ _
    | with_reducible refine OnlyR.next ?_
    | refine OnlyR.ite ?_ ?_
    | with_reducible refine Only.ite ?_ ?_
    | (guard_target = Only _ _ (State.onGnss ..); with_reducible refine Only.andThen ?_ (State.onGnss_only _ _) (by decide))

theorem gnssDown_only (s : State) : Only [.gnss] s (gnssDown s) := by
  unfold gnssDown
  try extract_lets
  repeat' first
    | with_reducible exact Only.refl _ _
    | with_reducible refine Only.ite ?_ ?_
    | (guard_target = Only _ _ (State.onGnss ..); with_reducible refine Only.andThen ?_ (State.onGnss_only _ _) (by decide))

theorem opGnssRtcm_only (e : Env) (s : State) : Only [.gnss] s (opGnssRtcm e s).1 := by
  unfold opGnssRtcm
  try extract_lets
  repeat' first
    | with_reducible exact Only.refl _ _
    | with_reducible refine Only.iteFst ?_ ?_
    | dsimp only [deny, done]
    | with_reducible refine Only.ite ?_ ?_
    | (guard_target = Only _ _ (rtcmSearch ..); with_reducible refine Only.andThen ?_ (rtcmSearch_only ..) (by decide))
    | (guard_target = Only _ _ (State.onGnss ..); with_reducible refine Only.andThen ?_ (State.onGnss_only _ _) (by decide))
    | extract_lets
    | dsimp only
    | split
    | dsimp +zetaDelta only

theorem opGnssMeasGet_only (_e : Env) (s : State) : Only [] s (opGnssMeasGet _e s).1 := by
  unfold opGnssMeasGet
  try extract_lets
  repeat' first
    | with_reducible exact Only.refl _ _
    | with_reducible refine Only.iteFst ?_ ?_
    | dsimp only [doneWith]

end Sys2Proof.Machine
end

