-- ==== Sys2Proof/Laws/FaultsOnly.lean ====
section
/-! SUPPORT. What the operations of Machine/Faults.lean may change: for each the parts beyond which nothing moves. -/

set_option Elab.async false

namespace Sys2Proof.Machine

theorem modElem_only (el : Element) (f : ElemSt → ElemSt) (s : State) : Only [.safe] s (modElem el f s) := by
  unfold modElem
  try extract_lets
  repeat' first
    | with_reducible exact Only.refl _ _
    | with_reducible refine Only.ite ?_ ?_
    | (guard_target = Only _ _ (State.onSafe ..); with_reducible refine Only.andThen ?_ (State.onSafe_only _ _) (by decide))

theorem flushCrossing_only (n : Nat) (s : State) : Only [.free, .sys, .pwr, .host] s (flushCrossing n s) := by
  unfold flushCrossing
  try extract_lets
  repeat' first
    | with_reducible exact Only.refl _ _
    | with_reducible refine Only.ite ?_ ?_
    | (guard_target = Only _ _ (drawFree ..).1; with_reducible refine Only.andThen ?_ (drawFree_only ..) (by decide))
    | (guard_target = Only _ _ (notice ..); with_reducible refine Only.andThen ?_ (notice_only ..) (by decide))
    | (guard_target = Only _ _ (State.onPwr ..); with_reducible refine Only.andThen ?_ (State.onPwr_only _ _) (by decide))

theorem resetElement_only (el : Element) (s : State) : Only [.gnss, .fe, .ths] s (resetElement el s) := by
  unfold resetElement
  try extract_lets
  repeat' first
    | with_reducible exact Only.refl _ _
    | with_reducible refine Only.ite ?_ ?_
    | (guard_target = Only _ _ (gnssDown ..); with_reducible refine Only.andThen ?_ (gnssDown_only ..) (by decide))
    | (guard_target = Only _ _ (State.onFe ..); with_reducible refine Only.andThen ?_ (State.onFe_only _ _) (by decide))
    | (guard_target = Only _ _ (State.onThs ..); with_reducible refine Only.andThen ?_ (State.onThs_only _ _) (by decide))
    | extract_lets
    | dsimp only
    | split
    | dsimp +zetaDelta only

theorem beginRestart_only (el : Element) (cause : Nat) (s : State) : Only [.free, .sys, .pwr, .host, .safe, .gnss, .fe, .ths, .sec] s (beginRestart el cause s) := by
  unfold beginRestart
  try extract_lets
  repeat' first
    | with_reducible exact Only.refl _ _
    | with_reducible refine Only.ite ?_ ?_
    | (guard_target = Only _ _ (flushCrossing ..); with_reducible refine Only.andThen ?_ (flushCrossing_only ..) (by decide))
    | (guard_target = Only _ _ (modElem ..); with_reducible refine Only.andThen ?_ (modElem_only ..) (by decide))
    | (guard_target = Only _ _ (resetElement ..); with_reducible refine Only.andThen ?_ (resetElement_only ..) (by decide))
    | (guard_target = Only _ _ (trialRestart ..); with_reducible refine Only.andThen ?_ (trialRestart_only ..) (by decide))
    | extract_lets
    | dsimp only
    | split
    | dsimp +zetaDelta only

theorem elementFault_only (el : Element) (cause : Nat) (b : Block) (s : State) : Only [.free, .sys, .pwr, .pd0, .host, .safe, .gnss, .fe, .map, .vdr, .pwu, .lsw, .ths, .can, .sec] s (elementFault el cause b s) := by
  unfold elementFault
  try extract_lets
  repeat' first
    | with_reducible exact Only.refl _ _
    | with_reducible refine Only.ite ?_ ?_
    | (guard_target = Only _ _ (beginRestart ..); with_reducible refine Only.andThen ?_ (beginRestart_only ..) (by decide))
    | (guard_target = Only _ _ (cancelActivation ..); with_reducible refine Only.andThen ?_ (cancelActivation_only ..) (by decide))
    | (guard_target = Only _ _ (enterCoast ..); with_reducible refine Only.andThen ?_ (enterCoast_only ..) (by decide))
    | (guard_target = Only _ _ (failSelftest ..); with_reducible refine Only.andThen ?_ (failSelftest_only ..) (by decide))
    | (guard_target = Only _ _ (logFault ..); with_reducible refine Only.andThen ?_ (logFault_only ..) (by decide))
    | (guard_target = Only _ _ (safeFault ..); with_reducible refine Only.andThen ?_ (safeFault_only ..) (by decide))
    | (guard_target = Only _ _ (State.onSys ..); with_reducible refine Only.andThen ?_ (State.onSys_only _ _) (by decide))
    | extract_lets
    | dsimp only
    | split
    | dsimp +zetaDelta only

theorem execPairCheck_only (s : State) : OnlyR [.free, .sys, .pwr, .pd0, .host, .safe, .gnss, .fe, .map, .vdr, .pwu, .lsw, .ths, .can, .sec] s (execPairCheck s) := by
  unfold execPairCheck
  try extract_lets
  repeat' first
    | with_reducible exact Only.refl _ _
    | with_reducible refine OnlyR.next ?_
    | refine OnlyR.ite ?_ ?_
    | with_reducible refine Only.ite ?_ ?_
    | (guard_target = Only _ _ (elementFault ..); with_reducible refine Only.andThen ?_ (elementFault_only ..) (by decide))
    | extract_lets
    | dsimp only
    | split
    | dsimp +zetaDelta only

theorem execCeCheck_only (s : State) : OnlyR [.free, .sys, .pwr, .pd0, .host, .safe, .gnss, .fe, .map, .vdr, .pwu, .lsw, .ths, .can, .sec] s (execCeCheck s) := by
  unfold execCeCheck
  try extract_lets
  repeat' first
    | with_reducible exact Only.refl _ _
    | with_reducible refine OnlyR.next ?_
    | refine OnlyR.ite ?_ ?_
    | with_reducible refine Only.ite ?_ ?_
    | (guard_target = Only _ _ (elementFault ..); with_reducible refine Only.andThen ?_ (elementFault_only ..) (by decide))
    | extract_lets
    | dsimp only
    | split
    | dsimp +zetaDelta only

theorem execGnssCheck_only (s : State) : OnlyR [.free, .sys, .pwr, .pd0, .host, .safe, .gnss, .fe, .map, .vdr, .pwu, .lsw, .ths, .can, .sec] s (execGnssCheck s) := by
  unfold execGnssCheck
  try extract_lets
  repeat' first
    | with_reducible exact Only.refl _ _
    | with_reducible refine OnlyR.next ?_
    | refine OnlyR.ite ?_ ?_
    | with_reducible refine Only.ite ?_ ?_
    | (guard_target = Only _ _ (elementFault ..); with_reducible refine Only.andThen ?_ (elementFault_only ..) (by decide))
    | extract_lets
    | dsimp only
    | split
    | dsimp +zetaDelta only

theorem execEnclaveCheck_only (s : State) : OnlyR [.free, .sys, .pwr, .pd0, .host, .safe, .gnss, .fe, .map, .vdr, .pwu, .lsw, .ths, .can, .sec] s (execEnclaveCheck s) := by
  unfold execEnclaveCheck
  try extract_lets
  repeat' first
    | with_reducible exact Only.refl _ _
    | with_reducible refine OnlyR.next ?_
    | refine OnlyR.ite ?_ ?_
    | with_reducible refine Only.ite ?_ ?_
    | (guard_target = Only _ _ (elementFault ..); with_reducible refine Only.andThen ?_ (elementFault_only ..) (by decide))
    | extract_lets
    | dsimp only
    | split
    | dsimp +zetaDelta only

theorem clockNote_only (clock : Nat) (restored : Bool) (s : State) : Only [.sys, .host] s (clockNote clock restored s) := by
  unfold clockNote
  try extract_lets
  repeat' first
    | with_reducible exact Only.refl _ _
    | with_reducible refine Only.ite ?_ ?_
    | (guard_target = Only _ _ (notice ..); with_reducible refine Only.andThen ?_ (notice_only ..) (by decide))

theorem execClockElement_only (el : Element) (s : State) : OnlyR [.free, .sys, .pwr, .pd0, .host, .safe, .gnss, .fe, .map, .vdr, .pwu, .lsw, .ths, .can, .sec] s (execClockElement el s) := by
  unfold execClockElement
  try extract_lets
  repeat' first
    | with_reducible exact Only.refl _ _
    | with_reducible refine OnlyR.next ?_
    | refine OnlyR.ite ?_ ?_
    | with_reducible refine Only.ite ?_ ?_
    | (guard_target = Only _ _ (clockNote ..); with_reducible refine Only.andThen ?_ (clockNote_only ..) (by decide))
    | (guard_target = Only _ _ (drawFree ..).1; with_reducible refine Only.andThen ?_ (drawFree_only ..) (by decide))
    | (guard_target = Only _ _ (elementFault ..); with_reducible refine Only.andThen ?_ (elementFault_only ..) (by decide))
    | (guard_target = Only _ _ (modElem ..); with_reducible refine Only.andThen ?_ (modElem_only ..) (by decide))
    | (guard_target = Only _ _ (notice ..); with_reducible refine Only.andThen ?_ (notice_only ..) (by decide))
    | (guard_target = Only _ _ (State.onPwr ..); with_reducible refine Only.andThen ?_ (State.onPwr_only _ _) (by decide))
    | extract_lets
    | dsimp only
    | split
    | dsimp +zetaDelta only

theorem execPllRelock_only (el : Element) (ok : Bool) (s : State) : OnlyR [.sys, .host, .safe] s (execPllRelock el ok s) := by
  unfold execPllRelock
  try extract_lets
  repeat' first
    | with_reducible exact Only.refl _ _
    | with_reducible refine OnlyR.next ?_
    | refine OnlyR.ite ?_ ?_
    | with_reducible refine Only.ite ?_ ?_
    | (guard_target = Only _ _ (clockNote ..); with_reducible refine Only.andThen ?_ (clockNote_only ..) (by decide))
    | (guard_target = Only _ _ (modElem ..); with_reducible refine Only.andThen ?_ (modElem_only ..) (by decide))

theorem execClockBase_only (clock : BitVec 8) (s : State) : OnlyR [.sys, .pwr, .pd0, .host, .safe, .fe, .map, .vdr, .pwu, .lsw, .can, .sec] s (execClockBase clock s) := by
  unfold execClockBase
  try extract_lets
  repeat' first
    | with_reducible exact Only.refl _ _
    | with_reducible refine OnlyR.next ?_
    | refine OnlyR.ite ?_ ?_
    | with_reducible refine Only.ite ?_ ?_
    | (guard_target = Only _ _ (clockNote ..); with_reducible refine Only.andThen ?_ (clockNote_only ..) (by decide))
    | (guard_target = Only _ _ (safeFault ..); with_reducible refine Only.andThen ?_ (safeFault_only ..) (by decide))
    | (guard_target = Only _ _ (State.onPwr ..); with_reducible refine Only.andThen ?_ (State.onPwr_only _ _) (by decide))

theorem execClockBaseRestored_only (s : State) : OnlyR [.sys, .pwr, .pd0, .host] s (execClockBaseRestored s) := by
  unfold execClockBaseRestored
  try extract_lets
  repeat' first
    | with_reducible exact Only.refl _ _
    | with_reducible refine OnlyR.next ?_
    | refine OnlyR.ite ?_ ?_
    | with_reducible refine Only.ite ?_ ?_
    | (guard_target = Only _ _ (clockNote ..); with_reducible refine Only.andThen ?_ (clockNote_only ..) (by decide))
    | (guard_target = Only _ _ (endFault ..); with_reducible refine Only.andThen ?_ (endFault_only ..) (by decide))
    | (guard_target = Only _ _ (State.onPwr ..); with_reducible refine Only.andThen ?_ (State.onPwr_only _ _) (by decide))

theorem markElement_only (el : Element) (s : State) : Only [.sys, .pd0, .host, .safe] s (markElement el s) := by
  unfold markElement
  try extract_lets
  repeat' first
    | with_reducible exact Only.refl _ _
    | with_reducible refine Only.ite ?_ ?_
    | (guard_target = Only _ _ (endFault ..); with_reducible refine Only.andThen ?_ (endFault_only ..) (by decide))
    | (guard_target = Only _ _ (modElem ..); with_reducible refine Only.andThen ?_ (modElem_only ..) (by decide))
    | with_reducible refine Only.foldl (fun _ _ => ?_) ?_
    | with_reducible refine Only.foldlFst (fun _ _ _ => ?_) ?_
    | extract_lets
    | dsimp only
    | split

theorem cleanFrames_only (e : Tick) (s : State) : Only [.sys, .pd0, .host, .safe] s (cleanFrames e s) := by
  unfold cleanFrames
  try extract_lets
  repeat' first
    | with_reducible exact Only.refl _ _
    | with_reducible refine Only.ite ?_ ?_
    | (guard_target = Only _ _ (markElement ..); with_reducible refine Only.andThen ?_ (markElement_only ..) (by decide))
    | with_reducible refine Only.foldl (fun _ _ => ?_) ?_

theorem coastReturn_only (e : Tick) (s : State) : Only [.sys, .pd0, .host, .safe, .map, .lsw, .can] s (coastReturn e s) := by
  unfold coastReturn
  try extract_lets
  repeat' first
    | with_reducible exact Only.refl _ _
    | with_reducible refine Only.ite ?_ ?_
    | (guard_target = Only _ _ (leaveCoast ..); with_reducible refine Only.andThen ?_ (leaveCoast_only ..) (by decide))
    | (guard_target = Only _ _ (State.onSafe ..); with_reducible refine Only.andThen ?_ (State.onSafe_only _ _) (by decide))
    | extract_lets
    | dsimp only
    | split
    | dsimp +zetaDelta only

theorem execCoastExpired_only (s : State) : OnlyR [.free, .sys, .pd0, .host, .safe, .fe, .map, .vdr, .pwu, .lsw, .can, .sec] s (execCoastExpired s) := by
  unfold execCoastExpired
  extract_lets e t soon s1
  have h1 : Only [.free, .sys, .pd0, .host, .safe, .fe, .map, .vdr, .pwu, .lsw, .can, .sec] s s1 :=
    asAt_only _ ((Only.refl _ _).andThen (safeFault_only ..) (by decide))
  clear_value s1
  refine OnlyR.ite (OnlyR.next (Only.ite ?_ h1)) (OnlyR.next (Only.refl _ _))
  exact (h1.andThen (State.onSec_only _ _) (by decide)).andThen (rejectBank_only ..) (by decide)

theorem execSafeIn_only (s : State) : OnlyR [.sys, .pd0, .host, .safe, .fe, .map, .vdr, .pwu, .lsw, .can, .sec] s (execSafeIn s) := by
  unfold execSafeIn
  try extract_lets
  repeat' first
    | with_reducible exact Only.refl _ _
    | (guard_target = Only _ _ (logFault ..); with_reducible refine Only.andThen ?_ (logFault_only ..) (by decide))
    | with_reducible refine OnlyR.next ?_
    | refine OnlyR.ite ?_ ?_
    | with_reducible refine Only.ite ?_ ?_
    | (guard_target = Only _ _ (gatesOff ..); with_reducible refine Only.andThen ?_ (gatesOff_only ..) (by decide))
    | (guard_target = Only _ _ (safeFault ..); with_reducible refine Only.andThen ?_ (safeFault_only ..) (by decide))
    | (guard_target = Only _ _ (valvesCut ..); with_reducible refine Only.andThen ?_ (valvesCut_only ..) (by decide))
    | (guard_target = Only _ _ (State.onSafe ..); with_reducible refine Only.andThen ?_ (State.onSafe_only _ _) (by decide))

theorem execSafeInRelease_only (s : State) : OnlyR [.sys, .pd0, .host, .safe] s (execSafeInRelease s) := by
  unfold execSafeInRelease
  try extract_lets
  repeat' first
    | with_reducible exact Only.refl _ _
    | with_reducible refine OnlyR.next ?_
    | refine OnlyR.ite ?_ ?_
    | with_reducible refine Only.ite ?_ ?_
    | (guard_target = Only _ _ (endFault ..); with_reducible refine Only.andThen ?_ (endFault_only ..) (by decide))
    | (guard_target = Only _ _ (State.onSafe ..); with_reducible refine Only.andThen ?_ (State.onSafe_only _ _) (by decide))

theorem safeInAtEdge_only (e : Tick) (s : State) : Only [.sys, .pd0, .host, .safe, .fe, .map, .vdr, .pwu, .lsw, .can, .sec] s (safeInAtEdge e s) := by
  unfold safeInAtEdge
  try extract_lets
  repeat' first
    | with_reducible exact Only.refl _ _
    | (guard_target = Only _ _ (enterSafe ..); with_reducible refine Only.andThen ?_ (enterSafe_only ..) (by decide))
    | (guard_target = Only _ _ (State.onSafe ..); with_reducible refine Only.andThen ?_ (State.onSafe_only _ _) (by decide))
    | with_reducible refine Only.ite ?_ ?_
    | (guard_target = Only _ _ (safeFault ..); with_reducible refine Only.andThen ?_ (safeFault_only ..) (by decide))

theorem execRowBusoffGraceExpiry_only (s : State) : OnlyR [.sys, .pd0, .host, .safe, .fe, .map, .vdr, .pwu, .lsw, .can, .sec] s (execRowBusoffGraceExpiry s) := by
  unfold execRowBusoffGraceExpiry
  try extract_lets
  repeat' first
    | with_reducible exact Only.refl _ _
    | with_reducible refine OnlyR.next ?_
    | refine OnlyR.ite ?_ ?_
    | with_reducible refine Only.ite ?_ ?_
    | (guard_target = Only _ _ (safeFault ..); with_reducible refine Only.andThen ?_ (safeFault_only ..) (by decide))
    | (guard_target = Only _ _ (State.onCan ..); with_reducible refine Only.andThen ?_ (State.onCan_only _ _) (by decide))
    | extract_lets
    | dsimp only
    | split

theorem execBoost_only (s : State) : OnlyR [.sys, .pd0, .host, .vdr] s (execBoost s) := by
  unfold execBoost
  try extract_lets
  repeat' first
    | with_reducible exact Only.refl _ _
    | with_reducible refine OnlyR.next ?_
    | refine OnlyR.ite ?_ ?_
    | with_reducible refine Only.ite ?_ ?_
    | (guard_target = Only _ _ (leaveVbst ..); with_reducible refine Only.andThen ?_ (leaveVbst_only ..) (by decide))
    | (guard_target = Only _ _ (logFault ..); with_reducible refine Only.andThen ?_ (logFault_only ..) (by decide))
    | (guard_target = Only _ _ (State.onVdr ..); with_reducible refine Only.andThen ?_ (State.onVdr_only _ _) (by decide))
    | extract_lets
    | dsimp only
    | split
    | dsimp +zetaDelta only

theorem execBoostRetry_only (ok : Bool) (s : State) : OnlyR [.sys, .pd0, .host, .vdr] s (execBoostRetry ok s) := by
  unfold execBoostRetry
  try extract_lets
  repeat' first
    | with_reducible exact Only.refl _ _
    | with_reducible refine OnlyR.next ?_
    | refine OnlyR.ite ?_ ?_
    | with_reducible refine Only.ite ?_ ?_
    | (guard_target = Only _ _ (endFault ..); with_reducible refine Only.andThen ?_ (endFault_only ..) (by decide))
    | (guard_target = Only _ _ (syncConv ..); with_reducible refine Only.andThen ?_ (syncConv_only ..) (by decide))
    | (guard_target = Only _ _ (State.onVdr ..); with_reducible refine Only.andThen ?_ (State.onVdr_only _ _) (by decide))
    | extract_lets
    | dsimp only
    | split
    | dsimp +zetaDelta only

theorem execDeadlineMiss_only (k : Fin 16) (s : State) : OnlyR [.sys, .pd0, .host, .safe, .fe, .map, .vdr, .pwu, .ce, .lsw, .can, .sec] s (execDeadlineMiss k s) := by
  unfold execDeadlineMiss
  try extract_lets
  repeat' first
    | with_reducible exact Only.refl _ _
    | with_reducible refine OnlyR.next ?_
    | refine OnlyR.ite ?_ ?_
    | with_reducible refine Only.ite ?_ ?_
    | (guard_target = Only _ _ (countLoopMiss ..); with_reducible refine Only.andThen ?_ (countLoopMiss_only ..) (by decide))
    | (guard_target = Only _ _ (logFault ..); with_reducible refine Only.andThen ?_ (logFault_only ..) (by decide))
    | (guard_target = Only _ _ (safeFault ..); with_reducible refine Only.andThen ?_ (safeFault_only ..) (by decide))
    | extract_lets
    | dsimp only
    | split

end Sys2Proof.Machine
end

