-- ==== Sys2Proof/Laws/ValveDriveOnly.lean ====
section
/-! SUPPORT. What the operations of Machine/ValveDrive.lean may change: for each the parts beyond which nothing moves. -/

set_option Elab.async false

namespace Sys2Proof.Machine

theorem execEventExecute_only (b : Fin 12) (s : State) : OnlyR [.sys, .pd0, .host, .time, .map, .vdr, .pwu] s (execEventExecute b s) := by
  unfold execEventExecute
  try extract_lets
  repeat' first
    | with_reducible exact Only.refl _ _
    | with_reducible refine OnlyR.next ?_
    | refine OnlyR.ite ?_ ?_
    | with_reducible refine Only.ite ?_ ?_
    | (guard_target = Only _ _ (genOff ..); with_reducible refine Only.andThen ?_ (genOff_only ..) (by decide))
    | (guard_target = Only _ _ (genOn ..); with_reducible refine Only.andThen ?_ (genOn_only ..) (by decide))
    | (guard_target = Only _ _ (modBank ..); with_reducible refine Only.andThen ?_ (modBank_only ..) (by decide))
    | (guard_target = Only _ _ (notice ..); with_reducible refine Only.andThen ?_ (notice_only ..) (by decide))
    | (guard_target = Only _ _ (offRequest ..); with_reducible refine Only.andThen ?_ (offRequest_only ..) (by decide))
    | extract_lets
    | dsimp only
    | split
    | dsimp +zetaDelta only

theorem afterDecay_only (c : Fin 96) (r : State × Option Tick) : Only [.time, .pwu] r.1 (afterDecay c r) := by
  unfold afterDecay
  split
  · exact Only.ite ((Only.refl _ _).andThen (scheduleClose_only ..) (by decide)) (Only.refl _ _)
  · exact Only.refl _ _

theorem execReservedStart_only (c : Fin 96) (s : State) : OnlyR [.sys, .pd0, .host, .time, .map, .vdr, .pwu] s (execReservedStart c s) := by
  unfold execReservedStart
  try extract_lets
  repeat' first
    | with_reducible exact Only.refl _ _
    | with_reducible refine OnlyR.next ?_
    | refine OnlyR.ite ?_ ?_
    | with_reducible refine Only.ite ?_ ?_
    | (guard_target = Only _ _ (afterDecay ..); with_reducible refine Only.andThen ?_ (afterDecay_only ..) (by decide))
    | (guard_target = Only _ _ (dueStart ..).1; with_reducible refine Only.andThen ?_ (dueStart_only ..) (by decide))
    | extract_lets
    | dsimp only
    | split
    | dsimp +zetaDelta only

theorem execFeedToVbst_only (b : Fin 12) (s : State) : OnlyR [.vdr] s (execFeedToVbst b s) := by
  unfold execFeedToVbst
  try extract_lets
  repeat' first
    | with_reducible exact Only.refl _ _
    | with_reducible refine OnlyR.next ?_
    | refine OnlyR.ite ?_ ?_
    | with_reducible refine Only.ite ?_ ?_
    | (guard_target = Only _ _ (modBank ..); with_reducible refine Only.andThen ?_ (modBank_only ..) (by decide))

theorem execWindowEnd_only (b : Fin 12) (s : State) : OnlyR [.vdr] s (execWindowEnd b s) := by
  unfold execWindowEnd
  try extract_lets
  repeat' first
    | with_reducible exact Only.refl _ _
    | with_reducible refine OnlyR.next ?_
    | refine OnlyR.ite ?_ ?_
    | with_reducible refine Only.ite ?_ ?_
    | (guard_target = Only _ _ (modBank ..); with_reducible refine Only.andThen ?_ (modBank_only ..) (by decide))

theorem execGuardEnd_only (b : Fin 12) (s : State) : OnlyR [.vdr] s (execGuardEnd b s) := by
  unfold execGuardEnd
  try extract_lets
  repeat' first
    | with_reducible exact Only.refl _ _
    | with_reducible refine OnlyR.next ?_
    | refine OnlyR.ite ?_ ?_
    | with_reducible refine Only.ite ?_ ?_
    | (guard_target = Only _ _ (modBank ..); with_reducible refine Only.andThen ?_ (modBank_only ..) (by decide))

theorem judgeInductance_only (c : Fin 96) (l0 : Nat) (s : State) : Only [.sys, .pd0, .nor, .act, .shd, .host, .vdr] s (judgeInductance c l0 s) := by
  unfold judgeInductance
  try extract_lets
  repeat' first
    | with_reducible exact Only.refl _ _
    | with_reducible refine Only.ite ?_ ?_
    | (guard_target = Only _ _ (contextFault ..); with_reducible refine Only.andThen ?_ (contextFault_only ..) (by decide))
    | (guard_target = Only _ _ (modProt ..); with_reducible refine Only.andThen ?_ (modProt_only ..) (by decide))
    | (guard_target = Only _ _ (notice ..); with_reducible refine Only.andThen ?_ (notice_only ..) (by decide))
    | (guard_target = Only _ _ (putCoil ..); with_reducible refine Only.andThen ?_ (putCoil_only ..) (by decide))
    | extract_lets
    | dsimp only
    | split
    | dsimp +zetaDelta only

theorem execPullInEnd_only (c : Fin 96) (l0 : Nat) (s : State) : OnlyR [.sys, .pd0, .nor, .act, .shd, .host, .map, .vdr] s (execPullInEnd c l0 s) := by
  unfold execPullInEnd
  try extract_lets
  repeat' first
    | with_reducible exact Only.refl _ _
    | with_reducible refine OnlyR.next ?_
    | refine OnlyR.ite ?_ ?_
    | with_reducible refine Only.ite ?_ ?_
    | (guard_target = Only _ _ (beginDecay ..); with_reducible refine Only.andThen ?_ (beginDecay_only ..) (by decide))
    | (guard_target = Only _ _ (judgeInductance ..); with_reducible refine Only.andThen ?_ (judgeInductance_only ..) (by decide))
    | (guard_target = Only _ _ (modCh ..); with_reducible refine Only.andThen ?_ (modCh_only ..) (by decide))
    | extract_lets
    | dsimp only
    | split
    | dsimp +zetaDelta only

theorem bookFast_only (c : Fin 96) (energy : Nat) (s : State) : Only [.vdr] s (bookFast c energy s) := by
  unfold bookFast
  try extract_lets
  repeat' first
    | with_reducible exact Only.refl _ _
    | with_reducible refine Only.ite ?_ ?_
    | (guard_target = Only _ _ (modCh ..); with_reducible refine Only.andThen ?_ (modCh_only ..) (by decide))
    | (guard_target = Only _ _ (State.onVdr ..); with_reducible refine Only.andThen ?_ (State.onVdr_only _ _) (by decide))
    | extract_lets
    | dsimp only
    | split
    | dsimp +zetaDelta only

theorem execFastDecayEnd_only (c : Fin 96) (energy : Nat) (s : State) : OnlyR [.vdr] s (execFastDecayEnd c energy s) := by
  unfold execFastDecayEnd
  try extract_lets
  repeat' first
    | with_reducible exact Only.refl _ _
    | with_reducible refine OnlyR.next ?_
    | refine OnlyR.ite ?_ ?_
    | with_reducible refine Only.ite ?_ ?_
    | (guard_target = Only _ _ (bookFast ..); with_reducible refine Only.andThen ?_ (bookFast_only ..) (by decide))
    | extract_lets
    | dsimp only
    | split
    | dsimp +zetaDelta only

theorem execDecayEnd_only (c : Fin 96) (energy : Nat) (s : State) : OnlyR [.sys, .pd0, .host, .time, .map, .vdr, .pwu] s (execDecayEnd c energy s) := by
  unfold execDecayEnd
  try extract_lets
  repeat' first
    | with_reducible exact Only.refl _ _
    | with_reducible refine OnlyR.next ?_
    | refine OnlyR.ite ?_ ?_
    | with_reducible refine Only.ite ?_ ?_
    | (guard_target = Only _ _ (afterDecay ..); with_reducible refine Only.andThen ?_ (afterDecay_only ..) (by decide))
    | (guard_target = Only _ _ (bookFast ..); with_reducible refine Only.andThen ?_ (bookFast_only ..) (by decide))
    | (guard_target = Only _ _ (finishDecay ..).1; with_reducible refine Only.andThen ?_ (finishDecay_only ..) (by decide))
    | (guard_target = Only _ _ (writeFiring ..); with_reducible refine Only.andThen ?_ (writeFiring_only ..) (by decide))
    | extract_lets
    | dsimp only
    | split
    | dsimp +zetaDelta only

theorem takeOpening_only (c : Fin 96) (at_ : Tick) (s : State) : Only [.sys, .pd0, .host, .map, .vdr] s (takeOpening c at_ s) := by
  unfold takeOpening
  try extract_lets
  repeat' first
    | with_reducible exact Only.refl _ _
    | with_reducible refine Only.ite ?_ ?_
    | (guard_target = Only _ _ (contextClear ..); with_reducible refine Only.andThen ?_ (contextClear_only ..) (by decide))
    | (guard_target = Only _ _ (learn ..); with_reducible refine Only.andThen ?_ (learn_only ..) (by decide))
    | (guard_target = Only _ _ (modCh ..); with_reducible refine Only.andThen ?_ (modCh_only ..) (by decide))
    | (guard_target = Only _ _ (modLat ..); with_reducible refine Only.andThen ?_ (modLat_only ..) (by decide))
    | (guard_target = Only _ _ (writeFiring ..); with_reducible refine Only.andThen ?_ (writeFiring_only ..) (by decide))

theorem execOpeningSignature_only (c : Fin 96) (g : SigIn) (s : State) : OnlyR [.sys, .pd0, .host, .map, .vdr] s (execOpeningSignature c g s) := by
  unfold execOpeningSignature
  try extract_lets
  repeat' first
    | with_reducible exact Only.refl _ _
    | with_reducible refine OnlyR.next ?_
    | refine OnlyR.ite ?_ ?_
    | with_reducible refine Only.ite ?_ ?_
    | (guard_target = Only _ _ (takeOpening ..); with_reducible refine Only.andThen ?_ (takeOpening_only ..) (by decide))
    | extract_lets
    | dsimp only
    | split
    | dsimp +zetaDelta only

theorem takeClosing_only (c : Fin 96) (at_ : Tick) (s : State) : Only [.sys, .pd0, .host, .map, .vdr] s (takeClosing c at_ s) := by
  unfold takeClosing
  try extract_lets
  repeat' first
    | with_reducible exact Only.refl _ _
    | with_reducible refine Only.ite ?_ ?_
    | (guard_target = Only _ _ (learn ..); with_reducible refine Only.andThen ?_ (learn_only ..) (by decide))
    | (guard_target = Only _ _ (writeFiring ..); with_reducible refine Only.andThen ?_ (writeFiring_only ..) (by decide))

theorem execClosingSignature_only (c : Fin 96) (g : SigIn) (energy : Nat) (s : State) : OnlyR [.sys, .pd0, .host, .time, .map, .vdr, .pwu] s (execClosingSignature c g energy s) := by
  unfold execClosingSignature
  try extract_lets
  repeat' first
    | with_reducible exact Only.refl _ _
    | with_reducible refine OnlyR.next ?_
    | refine OnlyR.ite ?_ ?_
    | with_reducible refine Only.ite ?_ ?_
    | (guard_target = Only _ _ (afterDecay ..); with_reducible refine Only.andThen ?_ (afterDecay_only ..) (by decide))
    | (guard_target = Only _ _ (bookFast ..); with_reducible refine Only.andThen ?_ (bookFast_only ..) (by decide))
    | (guard_target = Only _ _ (finishDecay ..).1; with_reducible refine Only.andThen ?_ (finishDecay_only ..) (by decide))
    | (guard_target = Only _ _ (takeClosing ..); with_reducible refine Only.andThen ?_ (takeClosing_only ..) (by decide))
    | extract_lets
    | dsimp only
    | split
    | dsimp +zetaDelta only

theorem execOpeningSearchEnd_only (c : Fin 96) (s : State) : OnlyR [.sys, .pd0, .host, .map, .vdr] s (execOpeningSearchEnd c s) := by
  unfold execOpeningSearchEnd
  try extract_lets
  repeat' first
    | with_reducible exact Only.refl _ _
    | with_reducible refine OnlyR.next ?_
    | refine OnlyR.ite ?_ ?_
    | with_reducible refine Only.ite ?_ ?_
    | (guard_target = Only _ _ (endSearch ..); with_reducible refine Only.andThen ?_ (endSearch_only ..) (by decide))
    | extract_lets
    | dsimp only
    | split
    | dsimp +zetaDelta only

theorem execBoostLimit_only (avgMw : Nat) (s : State) : OnlyR [.sys, .host, .vdr] s (execBoostLimit avgMw s) := by
  unfold execBoostLimit
  try extract_lets
  repeat' first
    | with_reducible exact Only.refl _ _
    | with_reducible refine OnlyR.next ?_
    | refine OnlyR.ite ?_ ?_
    | with_reducible refine Only.ite ?_ ?_
    | (guard_target = Only _ _ (notice ..); with_reducible refine Only.andThen ?_ (notice_only ..) (by decide))
    | (guard_target = Only _ _ (State.onVdr ..); with_reducible refine Only.andThen ?_ (State.onVdr_only _ _) (by decide))

theorem sawVbst_only (v : Nat) (s : State) : Only [.vdr] s (sawVbst v s) := by
  unfold sawVbst
  try extract_lets
  repeat' first
    | with_reducible exact Only.refl _ _
    | with_reducible refine Only.ite ?_ ?_
    | (guard_target = Only _ _ (State.onVdr ..); with_reducible refine Only.andThen ?_ (State.onVdr_only _ _) (by decide))
    | extract_lets
    | dsimp only
    | split
    | dsimp +zetaDelta only

theorem sawVbat_only (v : Nat) (s : State) : Only [.pwr, .vdr] s (sawVbat v s) := by
  unfold sawVbat
  try extract_lets
  repeat' first
    | with_reducible exact Only.refl _ _
    | with_reducible refine Only.ite ?_ ?_
    | (guard_target = Only _ _ (State.onPwr ..); with_reducible refine Only.andThen ?_ (State.onPwr_only _ _) (by decide))
    | (guard_target = Only _ _ (State.onVdr ..); with_reducible refine Only.andThen ?_ (State.onVdr_only _ _) (by decide))
    | extract_lets
    | dsimp only
    | split
    | dsimp +zetaDelta only

theorem execVbstSag_only (vbst : Nat) (s0 : State) : OnlyR [.sys, .host, .vdr] s0 (execVbstSag vbst s0) := by
  unfold execVbstSag
  try extract_lets
  repeat' first
    | with_reducible exact Only.refl _ _
    | with_reducible refine OnlyR.next ?_
    | refine OnlyR.ite ?_ ?_
    | with_reducible refine Only.ite ?_ ?_
    | (guard_target = Only _ _ (notice ..); with_reducible refine Only.andThen ?_ (notice_only ..) (by decide))
    | (guard_target = Only _ _ (sawVbst ..); with_reducible refine Only.andThen ?_ (sawVbst_only ..) (by decide))
    | (guard_target = Only _ _ (State.onVdr ..); with_reducible refine Only.andThen ?_ (State.onVdr_only _ _) (by decide))
    | extract_lets
    | dsimp only
    | split
    | dsimp +zetaDelta only

theorem loadDumpEnds_only (vbat : Nat) (s : State) : Only [.sys, .pwr, .pd0, .host] s (loadDumpEnds vbat s) := by
  unfold loadDumpEnds
  try extract_lets
  repeat' first
    | with_reducible exact Only.refl _ _
    | with_reducible refine Only.ite ?_ ?_
    | (guard_target = Only _ _ (endFault ..); with_reducible refine Only.andThen ?_ (endFault_only ..) (by decide))
    | (guard_target = Only _ _ (State.onPwr ..); with_reducible refine Only.andThen ?_ (State.onPwr_only _ _) (by decide))
    | extract_lets
    | dsimp only
    | split
    | dsimp +zetaDelta only

theorem execReturnSuspended_only (vbat : Nat) (s0 : State) : OnlyR [.sys, .pwr, .pd0, .host, .vdr] s0 (execReturnSuspended vbat s0) := by
  unfold execReturnSuspended
  try extract_lets
  repeat' first
    | with_reducible exact Only.refl _ _
    | with_reducible refine OnlyR.next ?_
    | refine OnlyR.ite ?_ ?_
    | with_reducible refine Only.ite ?_ ?_
    | (guard_target = Only _ _ (loadDumpEnds ..); with_reducible refine Only.andThen ?_ (loadDumpEnds_only ..) (by decide))
    | (guard_target = Only _ _ (notice ..); with_reducible refine Only.andThen ?_ (notice_only ..) (by decide))
    | (guard_target = Only _ _ (sawVbat ..); with_reducible refine Only.andThen ?_ (sawVbat_only ..) (by decide))
    | (guard_target = Only _ _ (State.onVdr ..); with_reducible refine Only.andThen ?_ (State.onVdr_only _ _) (by decide))
    | extract_lets
    | dsimp only
    | split
    | dsimp +zetaDelta only

theorem execRecoveryDivert_only (vbst : Nat) (s0 : State) : OnlyR [.sys, .host, .vdr] s0 (execRecoveryDivert vbst s0) := by
  unfold execRecoveryDivert
  try extract_lets
  repeat' first
    | with_reducible exact Only.refl _ _
    | with_reducible refine OnlyR.next ?_
    | refine OnlyR.ite ?_ ?_
    | with_reducible refine Only.ite ?_ ?_
    | (guard_target = Only _ _ (notice ..); with_reducible refine Only.andThen ?_ (notice_only ..) (by decide))
    | (guard_target = Only _ _ (sawVbst ..); with_reducible refine Only.andThen ?_ (sawVbst_only ..) (by decide))
    | (guard_target = Only _ _ (State.onVdr ..); with_reducible refine Only.andThen ?_ (State.onVdr_only _ _) (by decide))
    | extract_lets
    | dsimp only
    | split
    | dsimp +zetaDelta only

theorem closeLedger_only (e : Tick) (f : Freeze) (s : State) : Only [.sys, .host, .vdr] s (closeLedger e f s) := by
  unfold closeLedger
  try extract_lets
  repeat' first
    | with_reducible exact Only.refl _ _
    | with_reducible refine Only.ite ?_ ?_
    | (guard_target = Only _ _ (notice ..); with_reducible refine Only.andThen ?_ (notice_only ..) (by decide))
    | (guard_target = Only _ _ (State.onVdr ..); with_reducible refine Only.andThen ?_ (State.onVdr_only _ _) (by decide))

theorem execLatencySave_only (s : State) : OnlyR [.nor, .vdr] s (execLatencySave s) := by
  unfold execLatencySave
  try extract_lets
  repeat' first
    | with_reducible exact Only.refl _ _
    | with_reducible refine OnlyR.next ?_
    | refine OnlyR.ite ?_ ?_
    | with_reducible refine Only.ite ?_ ?_
    | (guard_target = Only _ _ (State.onNor ..); with_reducible refine Only.andThen ?_ (State.onNor_only _ _) (by decide))
    | (guard_target = Only _ _ (State.onVdr ..); with_reducible refine Only.andThen ?_ (State.onVdr_only _ _) (by decide))

end Sys2Proof.Machine
end

