-- ==== Sys2Proof/Laws/ProtectionOnly.lean ====
section
/-! SUPPORT. What the operations of Machine/Protection.lean may change: for each the parts beyond which nothing moves. -/

set_option Elab.async false

namespace Sys2Proof.Machine

theorem channelFault_only (c : Fin 96) (code : Nat) (s : State) : Only [.sys, .pd0, .host] s (channelFault c code s) := by
  unfold channelFault
  try extract_lets
  repeat' first
    | with_reducible exact Only.refl _ _
    | with_reducible refine Only.ite ?_ ?_
    | (guard_target = Only _ _ (logFault ..); with_reducible refine Only.andThen ?_ (logFault_only ..) (by decide))
    | (guard_target = Only _ _ (notice ..); with_reducible refine Only.andThen ?_ (notice_only ..) (by decide))

theorem tripStage_only (c : Fin 96) (s : State) : Only [.sys, .pd0, .host, .map, .vdr] s (tripStage c s) := by
  unfold tripStage
  try extract_lets
  repeat' first
    | with_reducible exact Only.refl _ _
    | with_reducible refine Only.ite ?_ ?_
    | (guard_target = Only _ _ (channelFault ..); with_reducible refine Only.andThen ?_ (channelFault_only ..) (by decide))
    | (guard_target = Only _ _ (forceOff ..); with_reducible refine Only.andThen ?_ (forceOff_only ..) (by decide))
    | (guard_target = Only _ _ (modProt ..); with_reducible refine Only.andThen ?_ (modProt_only ..) (by decide))
    | extract_lets
    | dsimp only
    | split
    | dsimp +zetaDelta only

theorem execOvercurrent_only (c : Fin 96) (s : State) : OnlyR [.sys, .pd0, .host, .map, .vdr] s (execOvercurrent c s) := by
  unfold execOvercurrent
  try extract_lets
  repeat' first
    | with_reducible exact Only.refl _ _
    | with_reducible refine OnlyR.next ?_
    | refine OnlyR.ite ?_ ?_
    | with_reducible refine Only.ite ?_ ?_
    | (guard_target = Only _ _ (tripStage ..); with_reducible refine Only.andThen ?_ (tripStage_only ..) (by decide))
    | extract_lets
    | dsimp only
    | split
    | dsimp +zetaDelta only

theorem execOverload_only (c : Fin 96) (meanMa : Nat) (s : State) : OnlyR [.sys, .pd0, .host, .map, .vdr] s (execOverload c meanMa s) := by
  unfold execOverload
  try extract_lets
  repeat' first
    | with_reducible exact Only.refl _ _
    | with_reducible refine OnlyR.next ?_
    | refine OnlyR.ite ?_ ?_
    | with_reducible refine Only.ite ?_ ?_
    | (guard_target = Only _ _ (channelFault ..); with_reducible refine Only.andThen ?_ (channelFault_only ..) (by decide))
    | (guard_target = Only _ _ (modProt ..); with_reducible refine Only.andThen ?_ (modProt_only ..) (by decide))
    | (guard_target = Only _ _ (offRequest ..); with_reducible refine Only.andThen ?_ (offRequest_only ..) (by decide))
    | extract_lets
    | dsimp only
    | split
    | dsimp +zetaDelta only

theorem stageTemp_only (c : Fin 96) (r : Int) (s : State) : Only [.sys, .pd0, .host, .map, .vdr] s (stageTemp c r s) := by
  unfold stageTemp
  try extract_lets
  repeat' first
    | with_reducible exact Only.refl _ _
    | with_reducible refine Only.ite ?_ ?_
    | (guard_target = Only _ _ (channelFault ..); with_reducible refine Only.andThen ?_ (channelFault_only ..) (by decide))
    | (guard_target = Only _ _ (contextClear ..); with_reducible refine Only.andThen ?_ (contextClear_only ..) (by decide))
    | (guard_target = Only _ _ (modProt ..); with_reducible refine Only.andThen ?_ (modProt_only ..) (by decide))
    | (guard_target = Only _ _ (offRequest ..); with_reducible refine Only.andThen ?_ (offRequest_only ..) (by decide))
    | extract_lets
    | dsimp only
    | split
    | dsimp +zetaDelta only

theorem isolateFault_only (b : Fin 12) (cause : Nat) (s : State) : Only [.sys, .pd0, .host, .safe, .fe, .map, .vdr, .pwu, .lsw, .can, .sec] s (isolateFault b cause s) := by
  unfold isolateFault
  try extract_lets
  repeat' first
    | with_reducible exact Only.refl _ _
    | with_reducible refine Only.ite ?_ ?_
    | (guard_target = Only _ _ (isolateBank ..); with_reducible refine Only.andThen ?_ (isolateBank_only ..) (by decide))
    | (guard_target = Only _ _ (logFault ..); with_reducible refine Only.andThen ?_ (logFault_only ..) (by decide))
    | (guard_target = Only _ _ (safeFault ..); with_reducible refine Only.andThen ?_ (safeFault_only ..) (by decide))

theorem tripFeed_only (b : Fin 12) (s : State) : Only [.sys, .pd0, .host, .safe, .fe, .map, .vdr, .pwu, .lsw, .can, .sec] s (tripFeed b s) := by
  unfold tripFeed
  try extract_lets
  repeat' first
    | with_reducible exact Only.refl _ _
    | with_reducible refine Only.ite ?_ ?_
    | (guard_target = Only _ _ (isolateFault ..); with_reducible refine Only.andThen ?_ (isolateFault_only ..) (by decide))

theorem execFeedOc_only (b : Fin 12) (s : State) : OnlyR [.sys, .pd0, .host, .safe, .fe, .map, .vdr, .pwu, .lsw, .can, .sec] s (execFeedOc b s) := by
  unfold execFeedOc
  try extract_lets
  repeat' first
    | with_reducible exact Only.refl _ _
    | with_reducible refine OnlyR.next ?_
    | refine OnlyR.ite ?_ ?_
    | with_reducible refine Only.ite ?_ ?_
    | (guard_target = Only _ _ (tripFeed ..); with_reducible refine Only.andThen ?_ (tripFeed_only ..) (by decide))

theorem setShort_only (c : Fin 96) (s : State) : Only [.sys, .pd0, .host, .vdr] s (setShort c s) := by
  unfold setShort
  try extract_lets
  repeat' first
    | with_reducible exact Only.refl _ _
    | with_reducible refine Only.ite ?_ ?_
    | (guard_target = Only _ _ (channelFault ..); with_reducible refine Only.andThen ?_ (channelFault_only ..) (by decide))
    | (guard_target = Only _ _ (modProt ..); with_reducible refine Only.andThen ?_ (modProt_only ..) (by decide))

theorem setOpen_only (c : Fin 96) (s : State) : Only [.sys, .pd0, .host, .vdr] s (setOpen c s) := by
  unfold setOpen
  try extract_lets
  repeat' first
    | with_reducible exact Only.refl _ _
    | with_reducible refine Only.ite ?_ ?_
    | (guard_target = Only _ _ (contextFault ..); with_reducible refine Only.andThen ?_ (contextFault_only ..) (by decide))
    | (guard_target = Only _ _ (modProt ..); with_reducible refine Only.andThen ?_ (modProt_only ..) (by decide))
    | (guard_target = Only _ _ (notice ..); with_reducible refine Only.andThen ?_ (notice_only ..) (by decide))
    | extract_lets
    | dsimp only
    | split
    | dsimp +zetaDelta only

theorem clearOpen_only (c : Fin 96) (s : State) : Only [.sys, .pd0, .host, .vdr] s (clearOpen c s) := by
  unfold clearOpen
  try extract_lets
  repeat' first
    | with_reducible exact Only.refl _ _
    | with_reducible refine Only.ite ?_ ?_
    | (guard_target = Only _ _ (contextClear ..); with_reducible refine Only.andThen ?_ (contextClear_only ..) (by decide))
    | (guard_target = Only _ _ (modProt ..); with_reducible refine Only.andThen ?_ (modProt_only ..) (by decide))

theorem execOpenLoad_only (c : Fin 96) (ma : Nat) (s : State) : OnlyR [.sys, .pd0, .host, .vdr] s (execOpenLoad c ma s) := by
  unfold execOpenLoad
  try extract_lets
  repeat' first
    | with_reducible exact Only.refl _ _
    | with_reducible refine OnlyR.next ?_
    | refine OnlyR.ite ?_ ?_
    | with_reducible refine Only.ite ?_ ?_
    | (guard_target = Only _ _ (clearOpen ..); with_reducible refine Only.andThen ?_ (clearOpen_only ..) (by decide))
    | (guard_target = Only _ _ (modProt ..); with_reducible refine Only.andThen ?_ (modProt_only ..) (by decide))
    | (guard_target = Only _ _ (setOpen ..); with_reducible refine Only.andThen ?_ (setOpen_only ..) (by decide))
    | extract_lets
    | dsimp only
    | split
    | dsimp +zetaDelta only

theorem execOffStateTest_only (c : Fin 96) (low : Bool) (excessMa : Nat) (s : State) : OnlyR [.sys, .pd0, .host, .safe, .fe, .map, .vdr, .pwu, .lsw, .can, .sec] s (execOffStateTest c low excessMa s) := by
  unfold execOffStateTest
  try extract_lets
  repeat' first
    | with_reducible exact Only.refl _ _
    | with_reducible refine OnlyR.next ?_
    | refine OnlyR.ite ?_ ?_
    | with_reducible refine Only.ite ?_ ?_
    | (guard_target = Only _ _ (clearOpen ..); with_reducible refine Only.andThen ?_ (clearOpen_only ..) (by decide))
    | (guard_target = Only _ _ (isolateFault ..); with_reducible refine Only.andThen ?_ (isolateFault_only ..) (by decide))
    | (guard_target = Only _ _ (modProt ..); with_reducible refine Only.andThen ?_ (modProt_only ..) (by decide))
    | (guard_target = Only _ _ (setOpen ..); with_reducible refine Only.andThen ?_ (setOpen_only ..) (by decide))
    | (guard_target = Only _ _ (setShort ..); with_reducible refine Only.andThen ?_ (setShort_only ..) (by decide))

theorem execRetryRelease_only (r : RetryTarget) (s : State) : OnlyR [.sys, .pd0, .host, .vdr] s (execRetryRelease r s) := by
  unfold execRetryRelease
  try extract_lets
  repeat' first
    | with_reducible exact Only.refl _ _
    | with_reducible refine OnlyR.next ?_
    | refine OnlyR.ite ?_ ?_
    | with_reducible refine Only.ite ?_ ?_
    | (guard_target = Only _ _ (endFault ..); with_reducible refine Only.andThen ?_ (endFault_only ..) (by decide))
    | (guard_target = Only _ _ (modBank ..); with_reducible refine Only.andThen ?_ (modBank_only ..) (by decide))
    | (guard_target = Only _ _ (modProt ..); with_reducible refine Only.andThen ?_ (modProt_only ..) (by decide))
    | (guard_target = Only _ _ (State.onPd0 ..); with_reducible refine Only.andThen ?_ (State.onPd0_only _ _) (by decide))
    | extract_lets
    | dsimp only
    | split

theorem learnR20_only (c : Fin 96) (r : Nat) (s : State) : Only [.sys, .nor, .act, .shd, .host] s (learnR20 c r s) := by
  unfold learnR20
  try extract_lets
  repeat' first
    | with_reducible exact Only.refl _ _
    | with_reducible refine Only.ite ?_ ?_
    | (guard_target = Only _ _ (notice ..); with_reducible refine Only.andThen ?_ (notice_only ..) (by decide))
    | (guard_target = Only _ _ (putCoil ..); with_reducible refine Only.andThen ?_ (putCoil_only ..) (by decide))

theorem coolCoil_only (c : Fin 96) (t : Int) (s : State) : Only [.sys, .pd0, .host, .vdr] s (coolCoil c t s) := by
  unfold coolCoil
  try extract_lets
  repeat' first
    | with_reducible exact Only.refl _ _
    | with_reducible refine Only.ite ?_ ?_
    | (guard_target = Only _ _ (contextClear ..); with_reducible refine Only.andThen ?_ (contextClear_only ..) (by decide))
    | (guard_target = Only _ _ (modProt ..); with_reducible refine Only.andThen ?_ (modProt_only ..) (by decide))

theorem heatCoil_only (c : Fin 96) (t : Int) (s : State) : Only [.sys, .pd0, .host, .map, .vdr] s (heatCoil c t s) := by
  unfold heatCoil
  try extract_lets
  repeat' first
    | with_reducible exact Only.refl _ _
    | with_reducible refine Only.ite ?_ ?_
    | (guard_target = Only _ _ (channelFault ..); with_reducible refine Only.andThen ?_ (channelFault_only ..) (by decide))
    | (guard_target = Only _ _ (modProt ..); with_reducible refine Only.andThen ?_ (modProt_only ..) (by decide))
    | (guard_target = Only _ _ (notice ..); with_reducible refine Only.andThen ?_ (notice_only ..) (by decide))
    | (guard_target = Only _ _ (offRequest ..); with_reducible refine Only.andThen ?_ (offRequest_only ..) (by decide))
    | extract_lets
    | dsimp only
    | split
    | dsimp +zetaDelta only

theorem judgeResistance_only (c : Fin 96) (r r20 : Nat) (s : State) : Only [.sys, .pd0, .host, .vdr] s (judgeResistance c r r20 s) := by
  unfold judgeResistance
  try extract_lets
  repeat' first
    | with_reducible exact Only.refl _ _
    | with_reducible refine Only.ite ?_ ?_
    | (guard_target = Only _ _ (contextFault ..); with_reducible refine Only.andThen ?_ (contextFault_only ..) (by decide))
    | (guard_target = Only _ _ (modProt ..); with_reducible refine Only.andThen ?_ (modProt_only ..) (by decide))
    | (guard_target = Only _ _ (notice ..); with_reducible refine Only.andThen ?_ (notice_only ..) (by decide))
    | extract_lets
    | dsimp only
    | split
    | dsimp +zetaDelta only

theorem execCoilResistanceMeasure_only (c : Fin 96) (r first second : Nat) (s : State) : OnlyR [.sys, .pd0, .nor, .act, .shd, .host, .map, .vdr] s (execCoilResistanceMeasure c r first second s) := by
  unfold execCoilResistanceMeasure
  try extract_lets
  repeat' first
    | with_reducible exact Only.refl _ _
    | with_reducible refine OnlyR.next ?_
    | refine OnlyR.ite ?_ ?_
    | with_reducible refine Only.ite ?_ ?_
    | (guard_target = Only _ _ (coolCoil ..); with_reducible refine Only.andThen ?_ (coolCoil_only ..) (by decide))
    | (guard_target = Only _ _ (heatCoil ..); with_reducible refine Only.andThen ?_ (heatCoil_only ..) (by decide))
    | (guard_target = Only _ _ (judgeResistance ..); with_reducible refine Only.andThen ?_ (judgeResistance_only ..) (by decide))
    | (guard_target = Only _ _ (learnR20 ..); with_reducible refine Only.andThen ?_ (learnR20_only ..) (by decide))
    | (guard_target = Only _ _ (modProt ..); with_reducible refine Only.andThen ?_ (modProt_only ..) (by decide))
    | extract_lets
    | dsimp only
    | split
    | dsimp +zetaDelta only

theorem execCoilCooled_only (c : Fin 96) (s : State) : OnlyR [.sys, .pd0, .host, .vdr] s (execCoilCooled c s) := by
  unfold execCoilCooled
  try extract_lets
  repeat' first
    | with_reducible exact Only.refl _ _
    | with_reducible refine OnlyR.next ?_
    | refine OnlyR.ite ?_ ?_
    | with_reducible refine Only.ite ?_ ?_
    | (guard_target = Only _ _ (coolCoil ..); with_reducible refine Only.andThen ?_ (coolCoil_only ..) (by decide))
    | extract_lets
    | dsimp only
    | split
    | dsimp +zetaDelta only

theorem relearn_only (c : Fin 96) (s : State) : Only [.nor, .act, .shd, .vdr] s (relearn c s) := by
  unfold relearn
  try extract_lets
  repeat' first
    | with_reducible exact Only.refl _ _
    | with_reducible refine Only.ite ?_ ?_
    | (guard_target = Only _ _ (modProt ..); with_reducible refine Only.andThen ?_ (modProt_only ..) (by decide))
    | (guard_target = Only _ _ (putCoil ..); with_reducible refine Only.andThen ?_ (putCoil_only ..) (by decide))

theorem execRelearn_only (c : Fin 96) (s : State) : OnlyR [.nor, .act, .shd, .vdr] s (execRelearn c s) := by
  unfold execRelearn
  try extract_lets
  repeat' first
    | with_reducible exact Only.refl _ _
    | with_reducible refine OnlyR.next ?_
    | refine OnlyR.ite ?_ ?_
    | with_reducible refine Only.ite ?_ ?_
    | (guard_target = Only _ _ (relearn ..); with_reducible refine Only.andThen ?_ (relearn_only ..) (by decide))

theorem clearChannel_only (c : Fin 96) (s : State) : Only [.sys, .pd0, .host, .vdr] s (clearChannel c s) := by
  unfold clearChannel
  try extract_lets
  repeat' first
    | with_reducible exact Only.refl _ _
    | with_reducible refine Only.ite ?_ ?_
    | (guard_target = Only _ _ (contextClear ..); with_reducible refine Only.andThen ?_ (contextClear_only ..) (by decide))
    | (guard_target = Only _ _ (modProt ..); with_reducible refine Only.andThen ?_ (modProt_only ..) (by decide))
    | (guard_target = Only _ _ (State.onPd0 ..); with_reducible refine Only.andThen ?_ (State.onPd0_only _ _) (by decide))

theorem clearContext_only (c : Fin 96) (s : State) : Only [.sys, .pd0, .host, .fe, .vdr] s (clearContext c s) := by
  unfold clearContext
  try extract_lets
  repeat' first
    | with_reducible exact Only.refl _ _
    | with_reducible refine Only.ite ?_ ?_
    | (guard_target = Only _ _ (clearChannel ..); with_reducible refine Only.andThen ?_ (clearChannel_only ..) (by decide))
    | (guard_target = Only _ _ (modLat ..); with_reducible refine Only.andThen ?_ (modLat_only ..) (by decide))
    | (guard_target = Only _ _ (State.onFe ..); with_reducible refine Only.andThen ?_ (State.onFe_only _ _) (by decide))

theorem clearBank_only (b : Fin 12) (s : State) : Only [.sys, .pd0, .host, .vdr] s (clearBank b s) := by
  unfold clearBank
  try extract_lets
  repeat' first
    | with_reducible exact Only.refl _ _
    | with_reducible refine Only.ite ?_ ?_
    | (guard_target = Only _ _ (clearChannel ..); with_reducible refine Only.andThen ?_ (clearChannel_only ..) (by decide))
    | (guard_target = Only _ _ (State.onPd0 ..); with_reducible refine Only.andThen ?_ (State.onPd0_only _ _) (by decide))
    | with_reducible refine Only.foldl (fun _ _ => ?_) ?_

theorem beginReconnect_only (b : Fin 12) (s : State) : Only [.vdr] s (beginReconnect b s) := by
  unfold beginReconnect
  try extract_lets
  repeat' first
    | with_reducible exact Only.refl _ _
    | with_reducible refine Only.ite ?_ ?_
    | (guard_target = Only _ _ (modBank ..); with_reducible refine Only.andThen ?_ (modBank_only ..) (by decide))

theorem reconnected_only (b : Fin 12) (s : State) : Only [.sys, .pd0, .host, .vdr] s (reconnected b s) := by
  unfold reconnected
  try extract_lets
  repeat' first
    | with_reducible exact Only.refl _ _
    | with_reducible refine Only.ite ?_ ?_
    | (guard_target = Only _ _ (endFault ..); with_reducible refine Only.andThen ?_ (endFault_only ..) (by decide))
    | (guard_target = Only _ _ (modBank ..); with_reducible refine Only.andThen ?_ (modBank_only ..) (by decide))

theorem reisolated_only (b : Fin 12) (j : Fin 8) (s : State) : Only [.sys, .pd0, .host, .safe, .fe, .map, .vdr, .pwu, .lsw, .can, .sec] s (reisolated b j s) := by
  unfold reisolated
  try extract_lets
  repeat' first
    | with_reducible exact Only.refl _ _
    | with_reducible refine Only.ite ?_ ?_
    | (guard_target = Only _ _ (isolateFault ..); with_reducible refine Only.andThen ?_ (isolateFault_only ..) (by decide))
    | (guard_target = Only _ _ (setShort ..); with_reducible refine Only.andThen ?_ (setShort_only ..) (by decide))

end Sys2Proof.Machine
end

