-- ==== Sys2Proof/Laws/ThermalOnly.lean ====
section
/-! SUPPORT. What the operations of Machine/Thermal.lean may change: for each the parts beyond which nothing moves. -/

set_option Elab.async false

namespace Sys2Proof.Machine

theorem modZone_only (z : Fin 10) (f : Zone → Zone) (s : State) : Only [.ths] s (modZone z f s) := by
  unfold modZone
  try extract_lets
  repeat' first
    | with_reducible exact Only.refl _ _
    | with_reducible refine Only.ite ?_ ?_
    | (guard_target = Only _ _ (State.onThs ..); with_reducible refine Only.andThen ?_ (State.onThs_only _ _) (by decide))

theorem thsNote_only (code : Nat) (z : Fin 10) (sensor : Nat) (s : State) : Only [.sys, .host] s (thsNote code z sensor s) := by
  unfold thsNote
  try extract_lets
  repeat' first
    | with_reducible exact Only.refl _ _
    | with_reducible refine Only.ite ?_ ?_
    | (guard_target = Only _ _ (notice ..); with_reducible refine Only.andThen ?_ (notice_only ..) (by decide))

theorem throttleAll_only (s : State) : Only [.sys, .host, .vdr, .pwu, .lsw, .ths] s (throttleAll s) := by
  unfold throttleAll
  try extract_lets
  repeat' first
    | with_reducible exact Only.refl _ _
    | with_reducible refine Only.ite ?_ ?_
    | (guard_target = Only _ _ (lswSyncAll ..); with_reducible refine Only.andThen ?_ (lswSyncAll_only ..) (by decide))
    | (guard_target = Only _ _ (State.onVdr ..); with_reducible refine Only.andThen ?_ (State.onVdr_only _ _) (by decide))
    | (guard_target = Only _ _ (State.onPwu ..); with_reducible refine Only.andThen ?_ (State.onPwu_only _ _) (by decide))
    | (guard_target = Only _ _ (State.onThs ..); with_reducible refine Only.andThen ?_ (State.onThs_only _ _) (by decide))

theorem sampleNotes_only (z : Fin 10) (x y : Zone) (s : State) : Only [.sys, .host] s (sampleNotes z x y s) := by
  unfold sampleNotes
  try extract_lets
  repeat' first
    | with_reducible exact Only.refl _ _
    | with_reducible refine Only.ite ?_ ?_
    | (guard_target = Only _ _ (thsNote ..); with_reducible refine Only.andThen ?_ (thsNote_only ..) (by decide))

theorem zoneSample_only (z : Fin 10) (s : State) : Only [.sys, .host, .vdr, .pwu, .lsw, .ths] s (zoneSample z s) := by
  unfold zoneSample
  try extract_lets
  repeat' first
    | with_reducible exact Only.refl _ _
    | with_reducible refine Only.ite ?_ ?_
    | (guard_target = Only _ _ (modZone ..); with_reducible refine Only.andThen ?_ (modZone_only ..) (by decide))
    | (guard_target = Only _ _ (sampleNotes ..); with_reducible refine Only.andThen ?_ (sampleNotes_only ..) (by decide))
    | (guard_target = Only _ _ (throttleAll ..); with_reducible refine Only.andThen ?_ (throttleAll_only ..) (by decide))
    | extract_lets
    | dsimp only
    | split
    | dsimp +zetaDelta only

theorem breakSensor_only (z : Fin 10) (k : Fin 20) (s : State) : Only [.sys, .host, .ths] s (breakSensor z k s) := by
  unfold breakSensor
  try extract_lets
  repeat' first
    | with_reducible exact Only.refl _ _
    | with_reducible refine Only.ite ?_ ?_
    | (guard_target = Only _ _ (modZone ..); with_reducible refine Only.andThen ?_ (modZone_only ..) (by decide))
    | (guard_target = Only _ _ (thsNote ..); with_reducible refine Only.andThen ?_ (thsNote_only ..) (by decide))
    | extract_lets
    | dsimp only
    | split
    | dsimp +zetaDelta only

theorem takeReading_only (z : Fin 10) (k : Fin 20) (t : Int) (s : State) : Only [.sys, .host, .ths] s (takeReading z k t s) := by
  unfold takeReading
  try extract_lets
  repeat' first
    | with_reducible exact Only.refl _ _
    | with_reducible refine Only.ite ?_ ?_
    | (guard_target = Only _ _ (breakSensor ..); with_reducible refine Only.andThen ?_ (breakSensor_only ..) (by decide))
    | (guard_target = Only _ _ (modZone ..); with_reducible refine Only.andThen ?_ (modZone_only ..) (by decide))
    | extract_lets
    | dsimp only
    | split
    | dsimp +zetaDelta only

theorem shutDown_only (z : Fin 10) (s : State) : Only [.sys, .pd0, .host, .safe, .time, .fe, .map, .vdr, .pwu, .lsw, .can, .sec] s (shutDown z s) := by
  unfold shutDown
  try extract_lets
  repeat' first
    | with_reducible exact Only.refl _ _
    | with_reducible refine Only.ite ?_ ?_
    | (guard_target = Only _ _ (enterLatched ..); with_reducible refine Only.andThen ?_ (enterLatched_only ..) (by decide))
    | (guard_target = Only _ _ (logFault ..); with_reducible refine Only.andThen ?_ (logFault_only ..) (by decide))
    | (guard_target = Only _ _ (State.onPd0 ..); with_reducible refine Only.andThen ?_ (State.onPd0_only _ _) (by decide))
    | extract_lets
    | dsimp only
    | split
    | dsimp +zetaDelta only

theorem stageAt_only (z : Fin 10) (k : Fin 20) (r : Int) (s : State) : Only [.sys, .pd0, .host, .safe, .fe, .map, .vdr, .pwu, .lsw, .can, .sec] s (stageAt z k r s) := by
  unfold stageAt
  try extract_lets
  repeat' first
    | with_reducible exact Only.refl _ _
    | with_reducible refine Only.ite ?_ ?_
    | (guard_target = Only _ _ (lswTemp ..); with_reducible refine Only.andThen ?_ (lswTemp_only ..) (by decide))
    | (guard_target = Only _ _ (stageTemp ..); with_reducible refine Only.andThen ?_ (stageTemp_only ..) (by decide))
    | (guard_target = Only _ _ (tripFeed ..); with_reducible refine Only.andThen ?_ (tripFeed_only ..) (by decide))
    | extract_lets
    | dsimp only
    | split
    | dsimp +zetaDelta only

theorem rateTripStage_only (z : Fin 10) (k : Fin 20) (s : State) : Only [.sys, .pd0, .host, .safe, .fe, .map, .vdr, .pwu, .lsw, .can, .sec] s (rateTripStage z k s) := by
  unfold rateTripStage
  try extract_lets
  repeat' first
    | with_reducible exact Only.refl _ _
    | with_reducible refine Only.ite ?_ ?_
    | (guard_target = Only _ _ (lswTrip ..); with_reducible refine Only.andThen ?_ (lswTrip_only ..) (by decide))
    | (guard_target = Only _ _ (tripFeed ..); with_reducible refine Only.andThen ?_ (tripFeed_only ..) (by decide))
    | (guard_target = Only _ _ (tripStage ..); with_reducible refine Only.andThen ?_ (tripStage_only ..) (by decide))
    | extract_lets
    | dsimp only
    | split
    | dsimp +zetaDelta only

theorem rateTest_only (z : Fin 10) (k : Fin 20) (t : Int) (was s : State) : Only [.sys, .pd0, .host, .safe, .fe, .map, .vdr, .pwu, .lsw, .ths, .can, .sec] s (rateTest z k t was s) := by
  unfold rateTest
  try extract_lets
  repeat' first
    | with_reducible exact Only.refl _ _
    | with_reducible refine Only.ite ?_ ?_
    | (guard_target = Only _ _ (modZone ..); with_reducible refine Only.andThen ?_ (modZone_only ..) (by decide))
    | (guard_target = Only _ _ (rateTripStage ..); with_reducible refine Only.andThen ?_ (rateTripStage_only ..) (by decide))
    | (guard_target = Only _ _ (thsNote ..); with_reducible refine Only.andThen ?_ (thsNote_only ..) (by decide))
    | extract_lets
    | dsimp only
    | split
    | dsimp +zetaDelta only

theorem switchTemp_only (z : Fin 10) (k : Fin 20) (t : Int) (s : State) : Only [.lsw] s (switchTemp z k t s) := by
  unfold switchTemp
  try extract_lets
  repeat' first
    | with_reducible exact Only.refl _ _
    | with_reducible refine Only.ite ?_ ?_
    | (guard_target = Only _ _ (modLsw ..); with_reducible refine Only.andThen ?_ (modLsw_only ..) (by decide))
    | extract_lets
    | dsimp only
    | split
    | dsimp +zetaDelta only

theorem sensorSample_only (z : Fin 10) (k : Fin 20) (t : Int) (s : State) : Only [.sys, .pd0, .host, .safe, .time, .fe, .map, .vdr, .pwu, .lsw, .ths, .can, .sec] s (sensorSample z k t s) := by
  unfold sensorSample
  try extract_lets
  repeat' first
    | with_reducible exact Only.refl _ _
    | with_reducible refine Only.ite ?_ ?_
    | (guard_target = Only _ _ (rateTest ..); with_reducible refine Only.andThen ?_ (rateTest_only ..) (by decide))
    | (guard_target = Only _ _ (shutDown ..); with_reducible refine Only.andThen ?_ (shutDown_only ..) (by decide))
    | (guard_target = Only _ _ (stageAt ..); with_reducible refine Only.andThen ?_ (stageAt_only ..) (by decide))
    | (guard_target = Only _ _ (switchTemp ..); with_reducible refine Only.andThen ?_ (switchTemp_only ..) (by decide))
    | (guard_target = Only _ _ (takeReading ..); with_reducible refine Only.andThen ?_ (takeReading_only ..) (by decide))
    | (guard_target = Only _ _ (zoneSample ..); with_reducible refine Only.andThen ?_ (zoneSample_only ..) (by decide))
    | extract_lets
    | dsimp only
    | split
    | dsimp +zetaDelta only

theorem execWarn_only (z : Fin 10) (k : Fin 20) (t : Int) (s : State) : OnlyR [.sys, .pd0, .host, .safe, .time, .fe, .map, .vdr, .pwu, .lsw, .ths, .can, .sec] s (execWarn z k t s) := by
  unfold execWarn
  try extract_lets
  repeat' first
    | with_reducible exact Only.refl _ _
    | with_reducible refine OnlyR.next ?_
    | refine OnlyR.ite ?_ ?_
    | with_reducible refine Only.ite ?_ ?_
    | (guard_target = Only _ _ (sensorSample ..); with_reducible refine Only.andThen ?_ (sensorSample_only ..) (by decide))
    | extract_lets
    | dsimp only
    | split
    | dsimp +zetaDelta only

theorem execThrottle_only (z : Fin 10) (k : Fin 20) (t : Int) (s : State) : OnlyR [.sys, .pd0, .host, .safe, .time, .fe, .map, .vdr, .pwu, .lsw, .ths, .can, .sec] s (execThrottle z k t s) := by
  unfold execThrottle
  try extract_lets
  repeat' first
    | with_reducible exact Only.refl _ _
    | with_reducible refine OnlyR.next ?_
    | refine OnlyR.ite ?_ ?_
    | with_reducible refine Only.ite ?_ ?_
    | (guard_target = Only _ _ (sensorSample ..); with_reducible refine Only.andThen ?_ (sensorSample_only ..) (by decide))
    | extract_lets
    | dsimp only
    | split
    | dsimp +zetaDelta only

theorem execSensorBroken_only (z : Fin 10) (k : Fin 20) (s : State) : OnlyR [.sys, .pd0, .host, .safe, .time, .fe, .map, .vdr, .pwu, .lsw, .ths, .can, .sec] s (execSensorBroken z k s) := by
  unfold execSensorBroken
  try extract_lets
  repeat' first
    | with_reducible exact Only.refl _ _
    | with_reducible refine OnlyR.next ?_
    | refine OnlyR.ite ?_ ?_
    | with_reducible refine Only.ite ?_ ?_
    | (guard_target = Only _ _ (breakSensor ..); with_reducible refine Only.andThen ?_ (breakSensor_only ..) (by decide))
    | (guard_target = Only _ _ (shutDown ..); with_reducible refine Only.andThen ?_ (shutDown_only ..) (by decide))
    | (guard_target = Only _ _ (stageAt ..); with_reducible refine Only.andThen ?_ (stageAt_only ..) (by decide))
    | (guard_target = Only _ _ (zoneSample ..); with_reducible refine Only.andThen ?_ (zoneSample_only ..) (by decide))
    | extract_lets
    | dsimp only
    | split
    | dsimp +zetaDelta only

theorem execStageHot_only (c : Fin 96) (t : Int) (s : State) : OnlyR [.sys, .pd0, .host, .safe, .time, .fe, .map, .vdr, .pwu, .lsw, .ths, .can, .sec] s (execStageHot c t s) := by
  unfold execStageHot
  try extract_lets
  repeat' first
    | with_reducible exact Only.refl _ _
    | with_reducible refine OnlyR.next ?_
    | refine OnlyR.ite ?_ ?_
    | with_reducible refine Only.ite ?_ ?_
    | (guard_target = Only _ _ (sensorSample ..); with_reducible refine Only.andThen ?_ (sensorSample_only ..) (by decide))
    | extract_lets
    | dsimp only
    | split
    | dsimp +zetaDelta only

theorem execStageHotRelease_only (c : Fin 96) (t : Int) (s : State) : OnlyR [.sys, .pd0, .host, .safe, .time, .fe, .map, .vdr, .pwu, .lsw, .ths, .can, .sec] s (execStageHotRelease c t s) := by
  unfold execStageHotRelease
  try extract_lets
  repeat' first
    | with_reducible exact Only.refl _ _
    | with_reducible refine OnlyR.next ?_
    | refine OnlyR.ite ?_ ?_
    | with_reducible refine Only.ite ?_ ?_
    | (guard_target = Only _ _ (sensorSample ..); with_reducible refine Only.andThen ?_ (sensorSample_only ..) (by decide))
    | extract_lets
    | dsimp only
    | split
    | dsimp +zetaDelta only

theorem execLswOvertemp_only (c : Fin 16) (t : Int) (s : State) : OnlyR [.sys, .pd0, .host, .safe, .time, .fe, .map, .vdr, .pwu, .lsw, .ths, .can, .sec] s (execLswOvertemp c t s) := by
  unfold execLswOvertemp
  try extract_lets
  repeat' first
    | with_reducible exact Only.refl _ _
    | with_reducible refine OnlyR.next ?_
    | refine OnlyR.ite ?_ ?_
    | with_reducible refine Only.ite ?_ ?_
    | (guard_target = Only _ _ (lswTemp ..); with_reducible refine Only.andThen ?_ (lswTemp_only ..) (by decide))
    | (guard_target = Only _ _ (sensorSample ..); with_reducible refine Only.andThen ?_ (sensorSample_only ..) (by decide))
    | extract_lets
    | dsimp only
    | split
    | dsimp +zetaDelta only

theorem execThermLatchRelease_only (c : Fin 16) (t : Int) (s : State) : OnlyR [.sys, .pd0, .host, .safe, .time, .fe, .map, .vdr, .pwu, .lsw, .ths, .can, .sec] s (execThermLatchRelease c t s) := by
  unfold execThermLatchRelease
  try extract_lets
  repeat' first
    | with_reducible exact Only.refl _ _
    | with_reducible refine OnlyR.next ?_
    | refine OnlyR.ite ?_ ?_
    | with_reducible refine Only.ite ?_ ?_
    | (guard_target = Only _ _ (lswTemp ..); with_reducible refine Only.andThen ?_ (lswTemp_only ..) (by decide))
    | (guard_target = Only _ _ (sensorSample ..); with_reducible refine Only.andThen ?_ (sensorSample_only ..) (by decide))
    | extract_lets
    | dsimp only
    | split
    | dsimp +zetaDelta only

theorem execRateTrip_only (z : Fin 10) (k : Fin 20) (t : Int) (s : State) : OnlyR [.sys, .pd0, .host, .safe, .time, .fe, .map, .vdr, .pwu, .lsw, .ths, .can, .sec] s (execRateTrip z k t s) := by
  unfold execRateTrip
  try extract_lets
  repeat' first
    | with_reducible exact Only.refl _ _
    | with_reducible refine OnlyR.next ?_
    | refine OnlyR.ite ?_ ?_
    | with_reducible refine Only.ite ?_ ?_
    | (guard_target = Only _ _ (modZone ..); with_reducible refine Only.andThen ?_ (modZone_only ..) (by decide))
    | (guard_target = Only _ _ (rateTripStage ..); with_reducible refine Only.andThen ?_ (rateTripStage_only ..) (by decide))
    | (guard_target = Only _ _ (sensorSample ..); with_reducible refine Only.andThen ?_ (sensorSample_only ..) (by decide))
    | (guard_target = Only _ _ (thsNote ..); with_reducible refine Only.andThen ?_ (thsNote_only ..) (by decide))
    | extract_lets
    | dsimp only
    | split
    | dsimp +zetaDelta only

theorem execShutdown_only (z : Fin 10) (k : Fin 20) (t : Int) (s : State) : OnlyR [.sys, .pd0, .host, .safe, .time, .fe, .map, .vdr, .pwu, .lsw, .ths, .can, .sec] s (execShutdown z k t s) := by
  unfold execShutdown
  try extract_lets
  repeat' first
    | with_reducible exact Only.refl _ _
    | with_reducible refine OnlyR.next ?_
    | refine OnlyR.ite ?_ ?_
    | with_reducible refine Only.ite ?_ ?_
    | (guard_target = Only _ _ (sensorSample ..); with_reducible refine Only.andThen ?_ (sensorSample_only ..) (by decide))
    | extract_lets
    | dsimp only
    | split
    | dsimp +zetaDelta only

theorem reportLatch_only (s : State) : Only [.sys, .pd0, .host] s (reportLatch s) := by
  unfold reportLatch
  try extract_lets
  repeat' first
    | with_reducible exact Only.refl _ _
    | with_reducible refine Only.ite ?_ ?_
    | (guard_target = Only _ _ (notice ..); with_reducible refine Only.andThen ?_ (notice_only ..) (by decide))
    | (guard_target = Only _ _ (State.onPd0 ..); with_reducible refine Only.andThen ?_ (State.onPd0_only _ _) (by decide))
    | extract_lets
    | dsimp only
    | split

end Sys2Proof.Machine
end

