-- ==== Sys2Proof/Laws/StartupOnly.lean ====
section
/-! SUPPORT. What the operations of Machine/Startup.lean may change: for each the parts beyond which nothing moves. -/

set_option Elab.async false

namespace Sys2Proof.Machine

theorem resetDomain_only (d : Nat) (s : State) : Only [.running, .host, .time, .gnss, .pos, .impl, .fe, .map, .vdr, .pwu, .ce, .pif, .lsw, .ths, .can, .sec] s (resetDomain d s) := by
  unfold resetDomain
  split <;> first
    | exact Only.refl _ _
    | exact ⟨fun p hp => by cases p <;> first | rfl | exact absurd (by decide) hp⟩

theorem execPowerDomainSwitch_only (d : Fin 12) (on : Bool) (s : State) : OnlyR [.free, .running, .sys, .pwr, .host, .time, .gnss, .pos, .impl, .fe, .map, .vdr, .pwu, .ce, .pif, .lsw, .ths, .can, .sec] s (execPowerDomainSwitch d on s) := by
  unfold execPowerDomainSwitch
  try extract_lets
  repeat' first
    | with_reducible exact Only.refl _ _
    | with_reducible refine OnlyR.next ?_
    | refine OnlyR.ite ?_ ?_
    | with_reducible refine Only.ite ?_ ?_
    | (guard_target = Only _ _ (flushCrossing ..); with_reducible refine Only.andThen ?_ (flushCrossing_only ..) (by decide))
    | (guard_target = Only _ _ (resetDomain ..); with_reducible refine Only.andThen ?_ (resetDomain_only ..) (by decide))
    | (guard_target = Only _ _ (State.onPwr ..); with_reducible refine Only.andThen ?_ (State.onPwr_only _ _) (by decide))

theorem execVkeyHigh_only (s : State) : OnlyR [.pm, .running, .sys, .pwr, .pd0, .nor, .act, .shd, .host, .safe, .time, .gnss, .pos, .impl, .fe, .map, .vdr, .pwu, .ce, .pif, .lsw, .ths, .can, .sec] s (execVkeyHigh s) := by
  unfold execVkeyHigh
  try extract_lets
  repeat' first
    | with_reducible exact Only.refl _ _
    | with_reducible refine OnlyR.next ?_
    | refine OnlyR.ite ?_ ?_
    | with_reducible refine Only.ite ?_ ?_
    | (guard_target = Only _ _ (startFromOff ..); with_reducible refine Only.andThen ?_ (startFromOff_only ..) (by decide))
    | (guard_target = Only _ _ (startState ..); with_reducible refine Only.andThen ?_ (startState_only ..) (by decide))
    | (guard_target = Only _ _ (State.onPwr ..); with_reducible refine Only.andThen ?_ (State.onPwr_only _ _) (by decide))
    | extract_lets
    | dsimp only
    | split

theorem execVkeyLow_only (s : State) : OnlyR [.sys, .pwr, .pd0, .host, .map, .sec] s (execVkeyLow s) := by
  unfold execVkeyLow
  try extract_lets
  repeat' first
    | with_reducible exact Only.refl _ _
    | with_reducible refine OnlyR.next ?_
    | refine OnlyR.ite ?_ ?_
    | with_reducible refine Only.ite ?_ ?_
    | (guard_target = Only _ _ (cancelActivation ..); with_reducible refine Only.andThen ?_ (cancelActivation_only ..) (by decide))
    | (guard_target = Only _ _ (sealBlock ..); with_reducible refine Only.andThen ?_ (sealBlock_only ..) (by decide))
    | (guard_target = Only _ _ (State.onPwr ..); with_reducible refine Only.andThen ?_ (State.onPwr_only _ _) (by decide))

theorem vkeyAtEdge_only (e : Tick) (s : State) : Only [.sys, .pd0, .host, .safe, .fe, .map, .vdr, .pwu, .ce, .lsw, .can] s (vkeyAtEdge e s) := by
  unfold vkeyAtEdge
  try extract_lets
  repeat' first
    | with_reducible exact Only.refl _ _
    | with_reducible refine Only.ite ?_ ?_
    | (guard_target = Only _ _ (cancelEdges ..); with_reducible refine Only.andThen ?_ (cancelEdges_only ..) (by decide))
    | (guard_target = Only _ _ (enterStandby ..); with_reducible refine Only.andThen ?_ (enterStandby_only ..) (by decide))

theorem execKeyOffDelayExpiry_only (s : State) : OnlyR [.pm, .running, .sys, .pwr, .pd0, .nor, .act, .shd, .host, .safe, .time, .gnss, .pos, .impl, .fe, .map, .vdr, .pwu, .ce, .pif, .lsw, .ths, .can, .sec] s (execKeyOffDelayExpiry s) := by
  unfold execKeyOffDelayExpiry
  try extract_lets
  repeat' first
    | with_reducible exact Only.refl _ _
    | with_reducible refine OnlyR.next ?_
    | refine OnlyR.ite ?_ ?_
    | with_reducible refine Only.ite ?_ ?_
    | (guard_target = Only _ _ (enterOff ..); with_reducible refine Only.andThen ?_ (enterOff_only ..) (by decide))
    | extract_lets
    | dsimp only
    | split

theorem execWakeAlarm_only (s : State) : OnlyR [.pm, .running, .sys, .pwr, .pd0, .nor, .act, .shd, .host, .safe, .time, .gnss, .pos, .impl, .fe, .map, .vdr, .pwu, .ce, .pif, .lsw, .ths, .can, .sec] s (execWakeAlarm s) := by
  unfold execWakeAlarm
  try extract_lets
  repeat' first
    | with_reducible exact Only.refl _ _
    | with_reducible refine OnlyR.next ?_
    | refine OnlyR.ite ?_ ?_
    | with_reducible refine Only.ite ?_ ?_
    | (guard_target = Only _ _ (startFromOff ..); with_reducible refine Only.andThen ?_ (startFromOff_only ..) (by decide))
    | (guard_target = Only _ _ (State.onPd0 ..); with_reducible refine Only.andThen ?_ (State.onPd0_only _ _) (by decide))
    | extract_lets
    | dsimp only
    | split

theorem execVbatStartBand_only (s : State) : OnlyR [.pm, .running, .sys, .pwr, .pd0, .nor, .act, .shd, .host, .safe, .time, .gnss, .pos, .impl, .fe, .map, .vdr, .pwu, .ce, .pif, .lsw, .ths, .can, .sec] s (execVbatStartBand s) := by
  unfold execVbatStartBand
  try extract_lets
  repeat' first
    | with_reducible exact Only.refl _ _
    | with_reducible refine OnlyR.next ?_
    | refine OnlyR.ite ?_ ?_
    | with_reducible refine Only.ite ?_ ?_
    | (guard_target = Only _ _ (lswReverseEnds ..); with_reducible refine Only.andThen ?_ (lswReverseEnds_only ..) (by decide))
    | (guard_target = Only _ _ (startFromOff ..); with_reducible refine Only.andThen ?_ (startFromOff_only ..) (by decide))
    | (guard_target = Only _ _ (State.onPwr ..); with_reducible refine Only.andThen ?_ (State.onPwr_only _ _) (by decide))
    | extract_lets
    | dsimp only
    | split
    | dsimp +zetaDelta only

theorem execBrownOut_only (s : State) : OnlyR [.pm, .running, .sys, .pwr, .pd0, .act, .shd, .host, .safe, .time, .gnss, .pos, .impl, .fe, .map, .vdr, .pwu, .ce, .pif, .lsw, .ths, .can, .sec] s (execBrownOut s) := by
  unfold execBrownOut
  try extract_lets
  repeat' first
    | with_reducible exact Only.refl _ _
    | with_reducible refine OnlyR.next ?_
    | refine OnlyR.ite ?_ ?_
    | with_reducible refine Only.ite ?_ ?_
    | (guard_target = Only _ _ (enterOffBrown ..); with_reducible refine Only.andThen ?_ (enterOffBrown_only ..) (by decide))
    | (guard_target = Only _ _ (State.onPwr ..); with_reducible refine Only.andThen ?_ (State.onPwr_only _ _) (by decide))

theorem execLowSupply_only (s : State) : OnlyR [.sys, .pwr, .pd0, .host] s (execLowSupply s) := by
  unfold execLowSupply
  try extract_lets
  repeat' first
    | with_reducible exact Only.refl _ _
    | with_reducible refine OnlyR.next ?_
    | refine OnlyR.ite ?_ ?_
    | with_reducible refine Only.ite ?_ ?_
    | (guard_target = Only _ _ (logFault ..); with_reducible refine Only.andThen ?_ (logFault_only ..) (by decide))
    | (guard_target = Only _ _ (State.onPwr ..); with_reducible refine Only.andThen ?_ (State.onPwr_only _ _) (by decide))

theorem execLowSupplyExit_only (s : State) : OnlyR [.sys, .pwr, .pd0, .host] s (execLowSupplyExit s) := by
  unfold execLowSupplyExit
  try extract_lets
  repeat' first
    | with_reducible exact Only.refl _ _
    | with_reducible refine OnlyR.next ?_
    | refine OnlyR.ite ?_ ?_
    | with_reducible refine Only.ite ?_ ?_
    | (guard_target = Only _ _ (endFault ..); with_reducible refine Only.andThen ?_ (endFault_only ..) (by decide))
    | (guard_target = Only _ _ (State.onPwr ..); with_reducible refine Only.andThen ?_ (State.onPwr_only _ _) (by decide))

theorem execLossOfGround_only (s : State) : OnlyR [.sys, .pwr, .pd0, .host, .map, .vdr, .pwu, .lsw] s (execLossOfGround s) := by
  unfold execLossOfGround
  try extract_lets
  repeat' first
    | with_reducible exact Only.refl _ _
    | with_reducible refine OnlyR.next ?_
    | refine OnlyR.ite ?_ ?_
    | with_reducible refine Only.ite ?_ ?_
    | (guard_target = Only _ _ (gatesOff ..); with_reducible refine Only.andThen ?_ (gatesOff_only ..) (by decide))
    | (guard_target = Only _ _ (logFault ..); with_reducible refine Only.andThen ?_ (logFault_only ..) (by decide))
    | (guard_target = Only _ _ (lswGroundLoss ..); with_reducible refine Only.andThen ?_ (lswGroundLoss_only ..) (by decide))
    | (guard_target = Only _ _ (lswGroundLossOff ..); with_reducible refine Only.andThen ?_ (lswGroundLossOff_only ..) (by decide))
    | (guard_target = Only _ _ (valvesCut ..); with_reducible refine Only.andThen ?_ (valvesCut_only ..) (by decide))
    | (guard_target = Only _ _ (State.onPwr ..); with_reducible refine Only.andThen ?_ (State.onPwr_only _ _) (by decide))
    | extract_lets
    | dsimp only
    | split
    | dsimp +zetaDelta only

theorem execGroundRestored_only (s : State) : OnlyR [.pwr] s (execGroundRestored s) := by
  unfold execGroundRestored
  try extract_lets
  repeat' first
    | with_reducible exact Only.refl _ _
    | with_reducible refine OnlyR.next ?_
    | refine OnlyR.ite ?_ ?_
    | with_reducible refine Only.ite ?_ ?_
    | (guard_target = Only _ _ (State.onPwr ..); with_reducible refine Only.andThen ?_ (State.onPwr_only _ _) (by decide))

theorem groundAtEdge_only (e : Tick) (s : State) : Only [.sys, .pwr, .pd0, .host, .vdr, .lsw] s (groundAtEdge e s) := by
  unfold groundAtEdge
  try extract_lets
  repeat' first
    | with_reducible exact Only.refl _ _
    | with_reducible refine Only.ite ?_ ?_
    | (guard_target = Only _ _ (endFault ..); with_reducible refine Only.andThen ?_ (endFault_only ..) (by decide))
    | (guard_target = Only _ _ (feedsUp ..); with_reducible refine Only.andThen ?_ (feedsUp_only ..) (by decide))
    | (guard_target = Only _ _ (lswGroundBack ..); with_reducible refine Only.andThen ?_ (lswGroundBack_only ..) (by decide))
    | (guard_target = Only _ _ (State.onPwr ..); with_reducible refine Only.andThen ?_ (State.onPwr_only _ _) (by decide))
    | extract_lets
    | dsimp only
    | split
    | dsimp +zetaDelta only

theorem execReverseBattery_only (s : State) : OnlyR [.pm, .running, .sys, .pwr, .pd0, .act, .shd, .host, .safe, .time, .gnss, .pos, .impl, .fe, .map, .vdr, .pwu, .ce, .pif, .lsw, .ths, .can, .sec] s (execReverseBattery s) := by
  unfold execReverseBattery
  try extract_lets
  repeat' first
    | with_reducible exact Only.refl _ _
    | with_reducible refine OnlyR.next ?_
    | refine OnlyR.ite ?_ ?_
    | with_reducible refine Only.ite ?_ ?_
    | (guard_target = Only _ _ (enterOffBrown ..); with_reducible refine Only.andThen ?_ (enterOffBrown_only ..) (by decide))
    | (guard_target = Only _ _ (logFault ..); with_reducible refine Only.andThen ?_ (logFault_only ..) (by decide))
    | (guard_target = Only _ _ (lswReverse ..); with_reducible refine Only.andThen ?_ (lswReverse_only ..) (by decide))
    | (guard_target = Only _ _ (State.onPwr ..); with_reducible refine Only.andThen ?_ (State.onPwr_only _ _) (by decide))

theorem execLoadDump_only (s : State) : OnlyR [.sys, .pwr, .pd0, .host] s (execLoadDump s) := by
  unfold execLoadDump
  try extract_lets
  repeat' first
    | with_reducible exact Only.refl _ _
    | with_reducible refine OnlyR.next ?_
    | refine OnlyR.ite ?_ ?_
    | with_reducible refine Only.ite ?_ ?_
    | (guard_target = Only _ _ (logFault ..); with_reducible refine Only.andThen ?_ (logFault_only ..) (by decide))
    | (guard_target = Only _ _ (State.onPwr ..); with_reducible refine Only.andThen ?_ (State.onPwr_only _ _) (by decide))

theorem execPowerCycle_only (s : State) : OnlyR [.pm, .running, .sys, .pwr, .pd0, .act, .shd, .host, .safe, .time, .gnss, .pos, .impl, .fe, .map, .vdr, .pwu, .ce, .pif, .lsw, .ths, .can, .sec] s (execPowerCycle s) := by
  unfold execPowerCycle
  try extract_lets
  repeat' first
    | with_reducible exact Only.refl _ _
    | with_reducible refine OnlyR.next ?_
    | refine OnlyR.ite ?_ ?_
    | with_reducible refine Only.ite ?_ ?_
    | (guard_target = Only _ _ (changeState ..); with_reducible refine Only.andThen ?_ (changeState_only ..) (by decide))
    | (guard_target = Only _ _ (offState ..); with_reducible refine Only.andThen ?_ (offState_only ..) (by decide))
    | (guard_target = Only _ _ (State.onPwr ..); with_reducible refine Only.andThen ?_ (State.onPwr_only _ _) (by decide))
    | with_reducible refine Only.andThen ?_ (State.pd0_only _ _) (by decide)
    | with_reducible refine Only.andThen ?_ (State.act_only _ _) (by decide)
    | with_reducible refine Only.andThen ?_ (State.lsw_only _ _) (by decide)
    | exact ⟨fun p hp => by cases p <;> first | rfl | exact absurd (by decide) hp⟩
    | extract_lets
    | dsimp only
    | split
    | dsimp +zetaDelta only

theorem bootNote_only (stage : Nat) (t : Tick) (s : State) : Only [.host] s (bootNote stage t s) := by
  unfold bootNote
  try extract_lets
  repeat' first
    | with_reducible exact Only.refl _ _
    | with_reducible refine Only.ite ?_ ?_
    | (guard_target = Only _ _ (noticeNow ..); with_reducible refine Only.andThen ?_ (noticeNow_only ..) (by decide))

theorem romSelect_only (s : State) : Only [.sec] s (romSelect s) := by
  unfold romSelect
  try extract_lets
  repeat' first
    | with_reducible exact Only.refl _ _
    | with_reducible refine Only.ite ?_ ?_
    | (guard_target = Only _ _ (modImage ..); with_reducible refine Only.andThen ?_ (modImage_only ..) (by decide))

theorem execTimeResetRelease_only (s : State) : OnlyR [.pm, .running, .free, .sys, .pwr, .lsw, .sec] s (execTimeResetRelease s) := by
  unfold execTimeResetRelease
  refine OnlyR.ite ?_ (OnlyR.next (Only.refl _ _))
  extract_lets s1 s2 t s3
  have h1 : Only [.pm, .running, .free, .sys, .pwr, .lsw, .sec] s s1 := (Only.refl _ s).andThen (romSelect_only ..) (by decide)
  clear_value s1
  have h2 : Only [.pm, .running, .free, .sys, .pwr, .lsw, .sec] s s2 := h1.andThen (extend_only ..) (by decide)
  clear_value s2
  have ht : Only [.pm, .running, .free, .sys, .pwr, .lsw, .sec] s t := h2.andThen (lswTimeBegins_only ..) (by decide)
  clear_value t
  have h3 : Only [.pm, .running, .free, .sys, .pwr, .lsw, .sec] s s3 := (ht.andThen (State.pm_only _ 0) (by decide)).andThen (State.running_only _ true) (by decide)
  clear_value s3
  exact OnlyR.next (((h3.andThen (State.onPwr_only _ _) (by decide)).andThen (State.onSys_only _ _) (by decide)).andThen
    (extendOpen_only ..) (by decide))

theorem runSet_only (c : List Bool) (s : State) : Only [.sys, .pd0, .host, .gnss, .sec] s (runSet c s) := by
  unfold runSet
  try extract_lets
  repeat' first
    | with_reducible exact Only.refl _ _
    | with_reducible refine Only.ite ?_ ?_
    | (guard_target = Only _ _ (extend ..); with_reducible refine Only.andThen ?_ (extend_only ..) (by decide))
    | (guard_target = Only _ _ (modImage ..); with_reducible refine Only.andThen ?_ (modImage_only ..) (by decide))
    | (guard_target = Only _ _ (notice ..); with_reducible refine Only.andThen ?_ (notice_only ..) (by decide))
    | (guard_target = Only _ _ (State.onPd0 ..); with_reducible refine Only.andThen ?_ (State.onPd0_only _ _) (by decide))
    | (guard_target = Only _ _ (State.onGnss ..); with_reducible refine Only.andThen ?_ (State.onGnss_only _ _) (by decide))
    | (guard_target = Only _ _ (State.onSec ..); with_reducible refine Only.andThen ?_ (State.onSec_only _ _) (by decide))
    | with_reducible refine Only.foldl (fun _ _ => ?_) ?_

theorem execImageSetSelect_only (v0 v1 : Vector BankVerdict 5) (s : State) : OnlyR [.pm, .running, .free, .sys, .pwr, .pd0, .nor, .act, .shd, .host, .safe, .time, .gnss, .pos, .impl, .fe, .map, .vdr, .pwu, .ce, .pif, .lsw, .ths, .can, .sec] s (execImageSetSelect v0 v1 s) := by
  unfold execImageSetSelect
  try extract_lets
  repeat' first
    | with_reducible exact Only.refl _ _
    | with_reducible refine OnlyR.next ?_
    | refine OnlyR.ite ?_ ?_
    | with_reducible refine Only.ite ?_ ?_
    | (guard_target = Only _ _ (extendOpen ..); with_reducible refine Only.andThen ?_ (extendOpen_only ..) (by decide))
    | (guard_target = Only _ _ (modImage ..); with_reducible refine Only.andThen ?_ (modImage_only ..) (by decide))
    | (guard_target = Only _ _ (runSet ..); with_reducible refine Only.andThen ?_ (runSet_only ..) (by decide))
    | (guard_target = Only _ _ (startState ..); with_reducible refine Only.andThen ?_ (startState_only ..) (by decide))
    | (guard_target = Only _ _ (State.onSys ..); with_reducible refine Only.andThen ?_ (State.onSys_only _ _) (by decide))
    | (guard_target = Only _ _ (State.onPwr ..); with_reducible refine Only.andThen ?_ (State.onPwr_only _ _) (by decide))
    | (guard_target = Only _ _ (State.onSec ..); with_reducible refine Only.andThen ?_ (State.onSec_only _ _) (by decide))
    | extract_lets
    | dsimp only
    | split

theorem execDomainPowerUp_only (s : State) : OnlyR [.sys, .pwr, .pd0, .host, .safe, .time, .fe, .map, .vdr, .pwu, .lsw, .can, .sec] s (execDomainPowerUp s) := by
  unfold execDomainPowerUp
  try extract_lets
  repeat' first
    | with_reducible exact Only.refl _ _
    | with_reducible refine OnlyR.next ?_
    | refine OnlyR.ite ?_ ?_
    | with_reducible refine Only.ite ?_ ?_
    | (guard_target = Only _ _ (enterLatched ..); with_reducible refine Only.andThen ?_ (enterLatched_only ..) (by decide))
    | (guard_target = Only _ _ (State.onSys ..); with_reducible refine Only.andThen ?_ (State.onSys_only _ _) (by decide))
    | (guard_target = Only _ _ (State.onPwr ..); with_reducible refine Only.andThen ?_ (State.onPwr_only _ _) (by decide))
    | extract_lets
    | dsimp only
    | split
    | dsimp +zetaDelta only

theorem startNote_only (s : State) : Only [.sys, .host] s (startNote s) := by
  unfold startNote
  try extract_lets
  repeat' first
    | with_reducible exact Only.refl _ _
    | with_reducible refine Only.ite ?_ ?_
    | (guard_target = Only _ _ (noticeAt ..); with_reducible refine Only.andThen ?_ (noticeAt_only ..) (by decide))
    | extract_lets
    | dsimp only
    | split
    | dsimp +zetaDelta only

theorem execHostPortAlive_only (s : State) : OnlyR [.sys, .pd0, .host] s (execHostPortAlive s) := by
  unfold execHostPortAlive
  try extract_lets
  repeat' first
    | with_reducible exact Only.refl _ _
    | with_reducible refine OnlyR.next ?_
    | refine OnlyR.ite ?_ ?_
    | with_reducible refine Only.ite ?_ ?_
    | (guard_target = Only _ _ (bootNote ..); with_reducible refine Only.andThen ?_ (bootNote_only ..) (by decide))
    | (guard_target = Only _ _ (reportLatch ..); with_reducible refine Only.andThen ?_ (reportLatch_only ..) (by decide))
    | (guard_target = Only _ _ (startNote ..); with_reducible refine Only.andThen ?_ (startNote_only ..) (by decide))
    | (guard_target = Only _ _ (State.onSys ..); with_reducible refine Only.andThen ?_ (State.onSys_only _ _) (by decide))
    | extract_lets
    | dsimp only
    | split
    | dsimp +zetaDelta only

theorem selftestRejects_only (codes : List Nat) (s : State) : Only [.free, .sys, .host, .sec] s (selftestRejects codes s) := by
  unfold selftestRejects
  try extract_lets
  repeat' first
    | with_reducible exact Only.refl _ _
    | with_reducible refine Only.ite ?_ ?_
    | (guard_target = Only _ _ (failSelftest ..); with_reducible refine Only.andThen ?_ (failSelftest_only ..) (by decide))
    | with_reducible refine Only.foldl (fun _ _ => ?_) ?_
    | with_reducible refine Only.foldlFst (fun _ _ _ => ?_) ?_
    | extract_lets
    | dsimp only
    | split

theorem startComplete_only (s : State) : Only [.sys, .pwr, .pd0, .host, .safe, .fe, .map, .vdr, .pwu, .ce, .lsw, .can] s (startComplete s) := by
  unfold startComplete
  try extract_lets
  repeat' first
    | with_reducible exact Only.refl _ _
    | with_reducible refine Only.ite ?_ ?_
    | (guard_target = Only _ _ (bootNote ..); with_reducible refine Only.andThen ?_ (bootNote_only ..) (by decide))
    | (guard_target = Only _ _ (enterStandby ..); with_reducible refine Only.andThen ?_ (enterStandby_only ..) (by decide))
    | (guard_target = Only _ _ (feedsUp ..); with_reducible refine Only.andThen ?_ (feedsUp_only ..) (by decide))
    | (guard_target = Only _ _ (State.onSys ..); with_reducible refine Only.andThen ?_ (State.onSys_only _ _) (by decide))
    | (guard_target = Only _ _ (State.onPwr ..); with_reducible refine Only.andThen ?_ (State.onPwr_only _ _) (by decide))
    | extract_lets
    | dsimp only
    | split
    | dsimp +zetaDelta only

theorem execSelftestComplete_only (failed : List Nat) (s : State) : OnlyR [.free, .sys, .pwr, .pd0, .host, .safe, .time, .pos, .fe, .map, .vdr, .pwu, .ce, .lsw, .can, .sec] s (execSelftestComplete failed s) := by
  unfold execSelftestComplete
  try extract_lets
  repeat' first
    | with_reducible exact Only.refl _ _
    | with_reducible refine OnlyR.next ?_
    | refine OnlyR.ite ?_ ?_
    | with_reducible refine Only.ite ?_ ?_
    | (guard_target = Only _ _ (enterQuarantine ..); with_reducible refine Only.andThen ?_ (enterQuarantine_only ..) (by decide))
    | (guard_target = Only _ _ (selftestRejects ..); with_reducible refine Only.andThen ?_ (selftestRejects_only ..) (by decide))
    | (guard_target = Only _ _ (startComplete ..); with_reducible refine Only.andThen ?_ (startComplete_only ..) (by decide))
    | (guard_target = Only _ _ (State.onSys ..); with_reducible refine Only.andThen ?_ (State.onSys_only _ _) (by decide))
    | (guard_target = Only _ _ (State.onPos ..); with_reducible refine Only.andThen ?_ (State.onPos_only _ _) (by decide))
    | extract_lets
    | dsimp only
    | split
    | dsimp +zetaDelta only

theorem quarantineAtEdge_only (e : Tick) (s : State) : Only [.sys, .pd0, .host, .safe, .time, .map, .lsw] s (quarantineAtEdge e s) := by
  unfold quarantineAtEdge
  try extract_lets
  repeat' first
    | with_reducible exact Only.refl _ _
    | with_reducible refine Only.ite ?_ ?_
    | (guard_target = Only _ _ (enterQuarantine ..); with_reducible refine Only.andThen ?_ (enterQuarantine_only ..) (by decide))
    | extract_lets
    | dsimp only
    | split
    | dsimp +zetaDelta only

theorem execDramTestDone_only (retired : Vector Nat 3) (s : State) : OnlyR [.sys, .pd0, .host, .map] s (execDramTestDone retired s) := by
  unfold execDramTestDone
  try extract_lets
  repeat' first
    | with_reducible exact Only.refl _ _
    | with_reducible refine OnlyR.next ?_
    | refine OnlyR.ite ?_ ?_
    | with_reducible refine Only.ite ?_ ?_
    | (guard_target = Only _ _ (mapBecomesReady ..); with_reducible refine Only.andThen ?_ (mapBecomesReady_only ..) (by decide))
    | (guard_target = Only _ _ (notice ..); with_reducible refine Only.andThen ?_ (notice_only ..) (by decide))
    | (guard_target = Only _ _ (poolLow ..); with_reducible refine Only.andThen ?_ (poolLow_only ..) (by decide))
    | (guard_target = Only _ _ (State.onMap ..); with_reducible refine Only.andThen ?_ (State.onMap_only _ _) (by decide))
    | extract_lets
    | dsimp only
    | split
    | dsimp +zetaDelta only

end Sys2Proof.Machine
end

