-- ==== Sys2Proof/Laws/ParamBlocksOnly.lean ====
section
/-! SUPPORT. What the operations of Machine/ParamBlocks.lean may change: for each the parts beyond which nothing moves. -/

set_option Elab.async false

namespace Sys2Proof.Machine

theorem opPbRead_only (e : Env) (s : State) : Only [] s (opPbRead e s).1 := by
  unfold opPbRead
  try extract_lets
  repeat' first
    | with_reducible exact Only.refl _ _
    | with_reducible refine Only.iteFst ?_ ?_
    | dsimp only [deny, doneWith]
    | with_reducible refine Only.ite ?_ ?_
    | extract_lets
    | dsimp only
    | split

theorem opPbWrite_only (e : Env) (s : State) : Only [.sys, .pd0, .shd, .host, .sec] s (opPbWrite e s).1 := by
  unfold opPbWrite
  try extract_lets
  repeat' first
    | with_reducible exact Only.refl _ _
    | with_reducible refine Only.iteFst ?_ ?_
    | dsimp only [deny, done]
    | with_reducible refine Only.ite ?_ ?_
    | (guard_target = Only _ _ (worldViolation ..); with_reducible refine Only.andThen ?_ (worldViolation_only ..) (by decide))
    | (guard_target = Only _ _ (State.onShd ..); with_reducible refine Only.andThen ?_ (State.onShd_only _ _) (by decide))
    | extract_lets
    | dsimp only
    | split
    | dsimp +zetaDelta only

theorem opPbCommit_only (e : Env) (s : State) : Only [.sys, .pd0, .host, .sec] s (opPbCommit e s).1 := by
  unfold opPbCommit
  try extract_lets
  repeat' first
    | with_reducible exact Only.refl _ _
    | with_reducible refine Only.iteFst ?_ ?_
    | dsimp only [deny, done, doneEdge]
    | with_reducible refine Only.ite ?_ ?_
    | (guard_target = Only _ _ (waitEdge ..); with_reducible refine Only.andThen ?_ (waitEdge_only ..) (by decide))
    | (guard_target = Only _ _ (worldViolation ..); with_reducible refine Only.andThen ?_ (worldViolation_only ..) (by decide))
    | (guard_target = Only _ _ (State.onHost ..); with_reducible refine Only.andThen ?_ (State.onHost_only _ _) (by decide))
    | extract_lets
    | dsimp only
    | split
    | dsimp +zetaDelta only

theorem opPbRevert_only (e : Env) (s : State) : Only [.shd] s (opPbRevert e s).1 := by
  unfold opPbRevert
  try extract_lets
  repeat' first
    | with_reducible exact Only.refl _ _
    | with_reducible refine Only.iteFst ?_ ?_
    | dsimp only [deny, done]
    | with_reducible refine Only.ite ?_ ?_
    | (guard_target = Only _ _ (State.onShd ..); with_reducible refine Only.andThen ?_ (State.onShd_only _ _) (by decide))
    | with_reducible refine Only.foldl (fun _ _ => ?_) ?_
    | with_reducible refine Only.foldlFst (fun _ _ _ => ?_) ?_
    | extract_lets
    | dsimp only
    | split
    | dsimp +zetaDelta only

theorem putActive_only (b : Block) (n : Nat) (s : State) : Only [.act, .shd] s (putActive b n s) := by
  unfold putActive
  try extract_lets
  repeat' first
    | with_reducible exact Only.refl _ _
    | with_reducible refine Only.ite ?_ ?_
    | (guard_target = Only _ _ (State.onAct ..); with_reducible refine Only.andThen ?_ (State.onAct_only _ _) (by decide))
    | (guard_target = Only _ _ (State.onShd ..); with_reducible refine Only.andThen ?_ (State.onShd_only _ _) (by decide))

theorem commitPos_only (e : Tick) (old : Params) (img : Nat) (s : State) : Only [.sys, .pd0, .act, .shd, .host, .pos, .map] s (commitPos e old img s) := by
  unfold commitPos
  try extract_lets
  repeat' first
    | with_reducible exact Only.refl _ _
    | with_reducible refine Only.ite ?_ ?_
    | (guard_target = Only _ _ (setOrigin ..); with_reducible refine Only.andThen ?_ (setOrigin_only ..) (by decide))
    | extract_lets
    | dsimp only
    | split
    | dsimp +zetaDelta only

theorem commitMap_only (old : Params) (s : State) : Only [.map] s (commitMap old s) := by
  unfold commitMap
  try extract_lets
  repeat' first
    | with_reducible exact Only.refl _ _
    | with_reducible refine Only.ite ?_ ?_
    | (guard_target = Only _ _ (startBuild ..); with_reducible refine Only.andThen ?_ (startBuild_only ..) (by decide))

theorem commitFe_only (e : Tick) (old : Params) (s : State) : Only [.sys, .nor, .host, .impl, .fe, .pwu] s (commitFe e old s) := by
  unfold commitFe
  try extract_lets
  repeat' first
    | with_reducible exact Only.refl _ _
    | with_reducible refine Only.ite ?_ ?_
    | (guard_target = Only _ _ (commitPhases ..); with_reducible refine Only.andThen ?_ (commitPhases_only ..) (by decide))
    | (guard_target = Only _ _ (directedOff ..); with_reducible refine Only.andThen ?_ (directedOff_only ..) (by decide))
    | extract_lets
    | dsimp only
    | split
    | dsimp +zetaDelta only

theorem commitVdr_only (e : Tick) (old : Params) (img : Nat) (s : State) : Only [.nor, .act, .shd, .vdr] s (commitVdr e old img s) := by
  unfold commitVdr
  try extract_lets
  repeat' first
    | with_reducible exact Only.refl _ _
    | with_reducible refine Only.ite ?_ ?_
    | (guard_target = Only _ _ (leaveVbst ..); with_reducible refine Only.andThen ?_ (leaveVbst_only ..) (by decide))
    | (guard_target = Only _ _ (relearn ..); with_reducible refine Only.andThen ?_ (relearn_only ..) (by decide))
    | (guard_target = Only _ _ (syncConv ..); with_reducible refine Only.andThen ?_ (syncConv_only ..) (by decide))
    | (guard_target = Only _ _ (State.onNor ..); with_reducible refine Only.andThen ?_ (State.onNor_only _ _) (by decide))
    | (guard_target = Only _ _ (State.onAct ..); with_reducible refine Only.andThen ?_ (State.onAct_only _ _) (by decide))
    | (guard_target = Only _ _ (State.onVdr ..); with_reducible refine Only.andThen ?_ (State.onVdr_only _ _) (by decide))
    | with_reducible refine Only.foldl (fun _ _ => ?_) ?_
    | with_reducible refine Only.foldlFst (fun _ _ _ => ?_) ?_
    | extract_lets
    | dsimp only
    | split
    | dsimp +zetaDelta only

theorem commitThs_only (img : Nat) (s : State) : Only [.pd0] s (commitThs img s) := by
  unfold commitThs
  try extract_lets
  repeat' first
    | with_reducible exact Only.refl _ _
    | with_reducible refine Only.ite ?_ ?_
    | (guard_target = Only _ _ (clearTcxo ..); with_reducible refine Only.andThen ?_ (clearTcxo_only ..) (by decide))

theorem commitSec_only (old : Params) (s : State) : Only [.free, .sys, .nor, .host, .sec] s (commitSec old s) := by
  unfold commitSec
  try extract_lets
  repeat' first
    | with_reducible exact Only.refl _ _
    | with_reducible refine Only.ite ?_ ?_
    | (guard_target = Only _ _ (closeSession ..); with_reducible refine Only.andThen ?_ (closeSession_only ..) (by decide))
    | (guard_target = Only _ _ (extendOpen ..); with_reducible refine Only.andThen ?_ (extendOpen_only ..) (by decide))
    | (guard_target = Only _ _ (State.onNor ..); with_reducible refine Only.andThen ?_ (State.onNor_only _ _) (by decide))
    | with_reducible refine Only.foldl (fun _ _ => ?_) ?_
    | with_reducible refine Only.foldlFst (fun _ _ _ => ?_) ?_
    | extract_lets
    | dsimp only
    | split

theorem commitBlock_only (e : Tick) (old : Params) (tabs : Option Tables) (b : Block) (img : Nat) (s : State) : Only [.free, .sys, .pd0, .nor, .act, .shd, .host, .time, .gnss, .pos, .impl, .fe, .map, .vdr, .pwu, .ce, .pif, .lsw, .can, .sec] s (commitBlock e old tabs b img s) := by
  unfold commitBlock
  try extract_lets
  repeat' first
    | with_reducible exact Only.refl _ _
    | with_reducible refine Only.ite ?_ ?_
    | (guard_target = Only _ _ (commitCan ..); with_reducible refine Only.andThen ?_ (commitCan_only ..) (by decide))
    | (guard_target = Only _ _ (commitCe ..); with_reducible refine Only.andThen ?_ (commitCe_only ..) (by decide))
    | (guard_target = Only _ _ (commitFe ..); with_reducible refine Only.andThen ?_ (commitFe_only ..) (by decide))
    | (guard_target = Only _ _ (commitGnss ..); with_reducible refine Only.andThen ?_ (commitGnss_only ..) (by decide))
    | (guard_target = Only _ _ (commitLsw ..); with_reducible refine Only.andThen ?_ (commitLsw_only ..) (by decide))
    | (guard_target = Only _ _ (commitMap ..); with_reducible refine Only.andThen ?_ (commitMap_only ..) (by decide))
    | (guard_target = Only _ _ (commitPif ..); with_reducible refine Only.andThen ?_ (commitPif_only ..) (by decide))
    | (guard_target = Only _ _ (commitPos ..); with_reducible refine Only.andThen ?_ (commitPos_only ..) (by decide))
    | (guard_target = Only _ _ (commitPwu ..); with_reducible refine Only.andThen ?_ (commitPwu_only ..) (by decide))
    | (guard_target = Only _ _ (commitSec ..); with_reducible refine Only.andThen ?_ (commitSec_only ..) (by decide))
    | (guard_target = Only _ _ (commitThs ..); with_reducible refine Only.andThen ?_ (commitThs_only ..) (by decide))
    | (guard_target = Only _ _ (commitTime ..); with_reducible refine Only.andThen ?_ (commitTime_only ..) (by decide))
    | (guard_target = Only _ _ (commitVdr ..); with_reducible refine Only.andThen ?_ (commitVdr_only ..) (by decide))
    | extract_lets
    | dsimp only
    | split
    | dsimp +zetaDelta only

theorem applyCommit_only (e : Tick) (images : List (Block × Nat)) (tabs : Option Tables) (s : State) : Only [.free, .sys, .pd0, .nor, .act, .shd, .host, .time, .gnss, .pos, .impl, .fe, .map, .vdr, .pwu, .ce, .pif, .lsw, .can, .sec] s (applyCommit e images tabs s) := by
  unfold applyCommit
  try extract_lets
  repeat' first
    | with_reducible exact Only.refl _ _
    | with_reducible refine Only.ite ?_ ?_
    | (guard_target = Only _ _ (commitBlock ..); with_reducible refine Only.andThen ?_ (commitBlock_only ..) (by decide))
    | (guard_target = Only _ _ (extendOpen ..); with_reducible refine Only.andThen ?_ (extendOpen_only ..) (by decide))
    | (guard_target = Only _ _ (putActive ..); with_reducible refine Only.andThen ?_ (putActive_only ..) (by decide))
    | with_reducible refine Only.foldl (fun _ _ => ?_) ?_
    | with_reducible refine Only.foldlFst (fun _ _ _ => ?_) ?_
    | extract_lets
    | dsimp only
    | split
    | dsimp +zetaDelta only

theorem execTcxoClear_only (s : State) : OnlyR [.pd0] s (execTcxoClear s) := by
  unfold execTcxoClear
  try extract_lets
  repeat' first
    | with_reducible exact Only.refl _ _
    | with_reducible refine OnlyR.next ?_
    | refine OnlyR.ite ?_ ?_
    | with_reducible refine Only.ite ?_ ?_
    | (guard_target = Only _ _ (clearTcxo ..); with_reducible refine Only.andThen ?_ (clearTcxo_only ..) (by decide))

end Sys2Proof.Machine
end

