-- ==== Sys2Proof/Laws/FlagsOnly.lean ====
section
/-! SUPPORT. What the operations of Machine/Flags.lean may change: for each the parts beyond which nothing moves. -/

set_option Elab.async false

namespace Sys2Proof.Machine

theorem opDiagRead_only (e : Env) (s : State) : Only [] s (opDiagRead e s).1 := by
  unfold opDiagRead
  try extract_lets
  repeat' first
    | with_reducible exact Only.refl _ _
    | with_reducible refine Only.iteFst ?_ ?_
    | dsimp only [deny, doneWith]
    | with_reducible refine Only.ite ?_ ?_
    | extract_lets
    | dsimp only
    | split

end Sys2Proof.Machine
end

