-- ==== Sys2Proof/Laws/HostPortOnly.lean ====
section
/-! SUPPORT. What the operations of Machine/HostPort.lean may change: for each the parts beyond which nothing moves. -/

set_option Elab.async false

namespace Sys2Proof.Machine

theorem hostNote_only (p : Port) (code : Nat) (s : State) : Only [.sys, .host] s (hostNote p code s) := by
  unfold hostNote
  try extract_lets
  repeat' first
    | with_reducible exact Only.refl _ _
    | with_reducible refine Only.ite ?_ ?_
    | (guard_target = Only _ _ (notice ..); with_reducible refine Only.andThen ?_ (notice_only ..) (by decide))

theorem sendReply_only (x : Option Session) (op : BitVec 16) (e : Env) (a : Answer) (grant credit : Nat) (s : State) : Only [.host] s (sendReply x op e a grant credit s) := by
  unfold sendReply
  try extract_lets
  repeat' first
    | with_reducible exact Only.refl _ _
    | with_reducible refine Only.ite ?_ ?_
    | (guard_target = Only _ _ (modPort ..); with_reducible refine Only.andThen ?_ (modPort_only ..) (by decide))

theorem countBadHeader_only (p : Port) (s : State) : Only [.sys, .host] s (countBadHeader p s) := by
  unfold countBadHeader
  try extract_lets
  repeat' first
    | with_reducible exact Only.refl _ _
    | with_reducible refine Only.ite ?_ ?_
    | (guard_target = Only _ _ (hostNote ..); with_reducible refine Only.andThen ?_ (hostNote_only ..) (by decide))
    | (guard_target = Only _ _ (modPort ..); with_reducible refine Only.andThen ?_ (modPort_only ..) (by decide))

theorem execBadHeader_only (p : Port) (s : State) : OnlyR [.sys, .host] s (execBadHeader p s) := by
  unfold execBadHeader
  try extract_lets
  repeat' first
    | with_reducible exact Only.refl _ _
    | with_reducible refine OnlyR.next ?_
    | refine OnlyR.ite ?_ ?_
    | with_reducible refine Only.ite ?_ ?_
    | (guard_target = Only _ _ (countBadHeader ..); with_reducible refine Only.andThen ?_ (countBadHeader_only ..) (by decide))

theorem validHeader_only (e : Env) (s : State) : Only [.sys, .pd0, .host] s (validHeader e s) := by
  unfold validHeader
  try extract_lets
  repeat' first
    | with_reducible exact Only.refl _ _
    | with_reducible refine Only.ite ?_ ?_
    | (guard_target = Only _ _ (endFault ..); with_reducible refine Only.andThen ?_ (endFault_only ..) (by decide))
    | (guard_target = Only _ _ (hostNote ..); with_reducible refine Only.andThen ?_ (hostNote_only ..) (by decide))
    | (guard_target = Only _ _ (modPort ..); with_reducible refine Only.andThen ?_ (modPort_only ..) (by decide))

theorem execLinkLost_only (p : Port) (s : State) : OnlyR [.sys, .pd0, .host, .safe, .fe, .map, .vdr, .pwu, .lsw, .can, .sec] s (execLinkLost p s) := by
  unfold execLinkLost
  try extract_lets
  repeat' first
    | with_reducible exact Only.refl _ _
    | with_reducible refine OnlyR.next ?_
    | refine OnlyR.ite ?_ ?_
    | with_reducible refine Only.ite ?_ ?_
    | (guard_target = Only _ _ (hostNote ..); with_reducible refine Only.andThen ?_ (hostNote_only ..) (by decide))
    | (guard_target = Only _ _ (logFault ..); with_reducible refine Only.andThen ?_ (logFault_only ..) (by decide))
    | (guard_target = Only _ _ (modPort ..); with_reducible refine Only.andThen ?_ (modPort_only ..) (by decide))
    | (guard_target = Only _ _ (safeFault ..); with_reducible refine Only.andThen ?_ (safeFault_only ..) (by decide))

theorem execNoticeEnvelope_only (p : Port) (s : State) : OnlyR [.host] s (execNoticeEnvelope p s) := by
  unfold execNoticeEnvelope
  try extract_lets
  repeat' first
    | with_reducible exact Only.refl _ _
    | with_reducible refine OnlyR.next ?_
    | refine OnlyR.ite ?_ ?_
    | with_reducible refine Only.ite ?_ ?_
    | (guard_target = Only _ _ (modPort ..); with_reducible refine Only.andThen ?_ (modPort_only ..) (by decide))

theorem execPbHostApply_only (s : State) : OnlyR [.act, .shd, .host] s (execPbHostApply s) := by
  unfold execPbHostApply
  try extract_lets
  repeat' first
    | with_reducible exact Only.refl _ _
    | with_reducible refine OnlyR.next ?_
    | refine OnlyR.ite ?_ ?_
    | with_reducible refine Only.ite ?_ ?_
    | (guard_target = Only _ _ (putActive ..); with_reducible refine Only.andThen ?_ (putActive_only ..) (by decide))
    | (guard_target = Only _ _ (State.onHost ..); with_reducible refine Only.andThen ?_ (State.onHost_only _ _) (by decide))
    | extract_lets
    | dsimp only
    | split

theorem execResetAfterReply_only (s : State) : OnlyR [.pm, .running, .sys, .pwr, .pd0, .nor, .act, .shd, .host, .safe, .time, .gnss, .pos, .impl, .fe, .map, .vdr, .pwu, .ce, .pif, .lsw, .ths, .can, .sec] s (execResetAfterReply s) := by
  unfold execResetAfterReply
  try extract_lets
  repeat' first
    | with_reducible exact Only.refl _ _
    | with_reducible refine OnlyR.next ?_
    | refine OnlyR.ite ?_ ?_
    | with_reducible refine Only.ite ?_ ?_
    | (guard_target = Only _ _ (startState ..); with_reducible refine Only.andThen ?_ (startState_only ..) (by decide))
    | extract_lets
    | dsimp only
    | split

end Sys2Proof.Machine
end

