-- ==== Sys2Proof/Laws/RequestsOnly.lean ====
section
/-! SUPPORT. What the operations of Machine/Requests.lean may change: for each the parts beyond which nothing moves. -/

set_option Elab.async false

namespace Sys2Proof.Machine

theorem opSysNop_only (_e : Env) (s : State) : Only [] s (opSysNop _e s).1 := by
  unfold opSysNop
  try extract_lets
  repeat' first
    | with_reducible exact Only.refl _ _
    | with_reducible refine Only.iteFst ?_ ?_
    | dsimp only [done]

theorem opSysStatus_only (_e : Env) (s : State) : Only [] s (opSysStatus _e s).1 := by
  unfold opSysStatus
  try extract_lets
  repeat' first
    | with_reducible exact Only.refl _ _
    | with_reducible refine Only.iteFst ?_ ?_
    | dsimp only [doneWith]

theorem opSysIdentity_only (_e : Env) (s : State) : Only [] s (opSysIdentity _e s).1 := by
  unfold opSysIdentity
  try extract_lets
  repeat' first
    | with_reducible exact Only.refl _ _
    | with_reducible refine Only.iteFst ?_ ?_
    | dsimp only [doneWith]

theorem opSysLinkReset_only (e : Env) (s : State) : Only [.sys, .host, .sec] s (opSysLinkReset e s).1 := by
  unfold opSysLinkReset
  try extract_lets
  repeat' first
    | with_reducible exact Only.refl _ _
    | with_reducible refine Only.iteFst ?_ ?_
    | dsimp only [done]
    | with_reducible refine Only.ite ?_ ?_
    | (guard_target = Only _ _ (closeSession ..); with_reducible refine Only.andThen ?_ (closeSession_only ..) (by decide))
    | (guard_target = Only _ _ (modPort ..); with_reducible refine Only.andThen ?_ (modPort_only ..) (by decide))
    | (guard_target = Only _ _ (State.onHost ..); with_reducible refine Only.andThen ?_ (State.onHost_only _ _) (by decide))

theorem opSysArm_only (e : Env) (s : State) : Only [.sys] s (opSysArm e s).1 := by
  unfold opSysArm
  try extract_lets
  repeat' first
    | with_reducible exact Only.refl _ _
    | with_reducible refine Only.iteFst ?_ ?_
    | dsimp only [deny, doneEdge]
    | with_reducible refine Only.ite ?_ ?_
    | (guard_target = Only _ _ (waitEdge ..); with_reducible refine Only.andThen ?_ (waitEdge_only ..) (by decide))
    | extract_lets
    | dsimp only
    | split

theorem opSysManual_only (e : Env) (s : State) : Only [.sys] s (opSysManual e s).1 := by
  unfold opSysManual
  try extract_lets
  repeat' first
    | with_reducible exact Only.refl _ _
    | with_reducible refine Only.iteFst ?_ ?_
    | dsimp only [deny, doneEdge]
    | with_reducible refine Only.ite ?_ ?_
    | (guard_target = Only _ _ (waitEdge ..); with_reducible refine Only.andThen ?_ (waitEdge_only ..) (by decide))

theorem opSysDisarm_only (e : Env) (s : State) : Only [.sys] s (opSysDisarm e s).1 := by
  unfold opSysDisarm
  try extract_lets
  repeat' first
    | with_reducible exact Only.refl _ _
    | with_reducible refine Only.iteFst ?_ ?_
    | dsimp only [doneEdge]
    | with_reducible refine Only.ite ?_ ?_
    | (guard_target = Only _ _ (waitEdge ..); with_reducible refine Only.andThen ?_ (waitEdge_only ..) (by decide))

theorem opSysClearFault_only (e : Env) (s : State) : Only [.sys] s (opSysClearFault e s).1 := by
  unfold opSysClearFault
  try extract_lets
  repeat' first
    | with_reducible exact Only.refl _ _
    | with_reducible refine Only.iteFst ?_ ?_
    | with_reducible refine Only.ite ?_ ?_
    | (guard_target = Only _ _ (waitEdge ..); with_reducible refine Only.andThen ?_ (waitEdge_only ..) (by decide))
    | extract_lets
    | dsimp only
    | split

theorem opSysReset_only (e : Env) (s : State) : Only [.host] s (opSysReset e s).1 := by
  unfold opSysReset
  try extract_lets
  repeat' first
    | with_reducible exact Only.refl _ _
    | with_reducible refine Only.iteFst ?_ ?_
    | dsimp only [done]
    | with_reducible refine Only.ite ?_ ?_
    | (guard_target = Only _ _ (State.onHost ..); with_reducible refine Only.andThen ?_ (State.onHost_only _ _) (by decide))

theorem opSysSubscribe_only (e : Env) (s : State) : Only [.sys] s (opSysSubscribe e s).1 := by
  unfold opSysSubscribe
  try extract_lets
  repeat' first
    | with_reducible exact Only.refl _ _
    | with_reducible refine Only.iteFst ?_ ?_
    | dsimp only [deny, doneEdge]
    | with_reducible refine Only.ite ?_ ?_
    | (guard_target = Only _ _ (waitEdge ..); with_reducible refine Only.andThen ?_ (waitEdge_only ..) (by decide))
    | extract_lets
    | dsimp only
    | split

theorem applySubscribe_only (p : Port) (k : Fin 16) (b : Sub) (s : State) : Only [.host] s (applySubscribe p k b s) := by
  unfold applySubscribe
  try extract_lets
  repeat' first
    | with_reducible exact Only.refl _ _
    | with_reducible refine Only.ite ?_ ?_
    | (guard_target = Only _ _ (modPort ..); with_reducible refine Only.andThen ?_ (modPort_only ..) (by decide))

theorem opSysWakeSet_only (e : Env) (s : State) : Only [.pd0] s (opSysWakeSet e s).1 := by
  unfold opSysWakeSet
  try extract_lets
  repeat' first
    | with_reducible exact Only.refl _ _
    | with_reducible refine Only.iteFst ?_ ?_
    | dsimp only [deny, doneWith]
    | with_reducible refine Only.ite ?_ ?_
    | (guard_target = Only _ _ (State.onPd0 ..); with_reducible refine Only.andThen ?_ (State.onPd0_only _ _) (by decide))

theorem takeHostEvent_only (s : State) (r : List Byte) : Only [.free, .fe, .vdr] s (takeHostEvent s r) := by
  unfold takeHostEvent
  try extract_lets
  repeat' first
    | with_reducible exact Only.refl _ _
    | with_reducible refine Only.ite ?_ ?_
    | (guard_target = Only _ _ (drawFree ..).1; with_reducible refine Only.andThen ?_ (drawFree_only ..) (by decide))
    | (guard_target = Only _ _ (enqueueEv ..); with_reducible refine Only.andThen ?_ (enqueueEv_only ..) (by decide))
    | (guard_target = Only _ _ (State.onFe ..); with_reducible refine Only.andThen ?_ (State.onFe_only _ _) (by decide))

theorem opActEvent_only (e : Env) (s : State) : Only [.free, .fe, .vdr] s (opActEvent e s).1 := by
  unfold opActEvent
  try extract_lets
  repeat' first
    | with_reducible exact Only.refl _ _
    | with_reducible refine Only.iteFst ?_ ?_
    | dsimp only [doneWith]
    | with_reducible refine Only.ite ?_ ?_
    | (guard_target = Only _ _ (takeHostEvent ..); with_reducible refine Only.andThen ?_ (takeHostEvent_only ..) (by decide))
    | with_reducible refine Only.foldl (fun _ _ => ?_) ?_
    | with_reducible refine Only.foldlFst (fun _ _ _ => ?_) ?_
    | extract_lets
    | dsimp only
    | split

theorem opActDuty_only (e : Env) (s : State) : Only [.sys] s (opActDuty e s).1 := by
  unfold opActDuty
  try extract_lets
  repeat' first
    | with_reducible exact Only.refl _ _
    | with_reducible refine Only.iteFst ?_ ?_
    | dsimp only [deny, doneEdge]
    | with_reducible refine Only.ite ?_ ?_
    | (guard_target = Only _ _ (waitEdge ..); with_reducible refine Only.andThen ?_ (waitEdge_only ..) (by decide))
    | extract_lets
    | dsimp only
    | split

theorem opActFineCmp_only (e : Env) (s : State) : Only [.pwu] s (opActFineCmp e s).1 := by
  unfold opActFineCmp
  try extract_lets
  repeat' first
    | with_reducible exact Only.refl _ _
    | with_reducible refine Only.iteFst ?_ ?_
    | dsimp only [deny, done]
    | with_reducible refine Only.ite ?_ ?_
    | (guard_target = Only _ _ (writeCmp ..); with_reducible refine Only.andThen ?_ (writeCmp_only ..) (by decide))
    | extract_lets
    | dsimp only
    | split

theorem opActClearFault_only (e : Env) (s : State) : Only [.sys, .pd0, .host, .fe, .vdr] s (opActClearFault e s).1 := by
  unfold opActClearFault
  try extract_lets
  repeat' first
    | with_reducible exact Only.refl _ _
    | with_reducible refine Only.iteFst ?_ ?_
    | dsimp only [deny, done]
    | with_reducible refine Only.ite ?_ ?_
    | (guard_target = Only _ _ (beginReconnect ..); with_reducible refine Only.andThen ?_ (beginReconnect_only ..) (by decide))
    | (guard_target = Only _ _ (clearBank ..); with_reducible refine Only.andThen ?_ (clearBank_only ..) (by decide))
    | (guard_target = Only _ _ (clearContext ..); with_reducible refine Only.andThen ?_ (clearContext_only ..) (by decide))
    | extract_lets
    | dsimp only
    | split

theorem opSys_only {n : Nat} {i : OpInfo} (h : opSys n = some i) (e : Env) (s : State) : Only [.free, .sys, .pd0, .shd, .host, .time, .gnss, .impl, .fe, .map, .vdr, .pwu, .ce, .pif, .lsw, .can, .sec] s (i.run e s).1 := by
  unfold opSys at h
  split at h
  · cases h; exact (Only.refl _ _).andThen (opSysNop_only e s) (by decide)
  · cases h; exact (Only.refl _ _).andThen (opSysStatus_only e s) (by decide)
  · cases h; exact (Only.refl _ _).andThen (opSysIdentity_only e s) (by decide)
  · cases h; exact (Only.refl _ _).andThen (opSysLinkReset_only e s) (by decide)
  · cases h; exact (Only.refl _ _).andThen (opSysArm_only e s) (by decide)
  · cases h; exact (Only.refl _ _).andThen (opSysManual_only e s) (by decide)
  · cases h; exact (Only.refl _ _).andThen (opSysDisarm_only e s) (by decide)
  · cases h; exact (Only.refl _ _).andThen (opSysClearFault_only e s) (by decide)
  · cases h; exact (Only.refl _ _).andThen (opSysReset_only e s) (by decide)
  · cases h; exact (Only.refl _ _).andThen (opSysSubscribe_only e s) (by decide)
  · cases h; exact (Only.refl _ _).andThen (opSysWakeSet_only e s) (by decide)
  · cases h

theorem opPb_only {n : Nat} {i : OpInfo} (h : opPb n = some i) (e : Env) (s : State) : Only [.free, .sys, .pd0, .shd, .host, .time, .gnss, .impl, .fe, .map, .vdr, .pwu, .ce, .pif, .lsw, .can, .sec] s (i.run e s).1 := by
  unfold opPb at h
  split at h
  · cases h; exact (Only.refl _ _).andThen (opPbRead_only e s) (by decide)
  · cases h; exact (Only.refl _ _).andThen (opPbWrite_only e s) (by decide)
  · cases h; exact (Only.refl _ _).andThen (opPbCommit_only e s) (by decide)
  · cases h; exact (Only.refl _ _).andThen (opPbRevert_only e s) (by decide)
  · cases h

theorem opImpl_only {n : Nat} {i : OpInfo} (h : opImpl n = some i) (e : Env) (s : State) : Only [.free, .sys, .pd0, .shd, .host, .time, .gnss, .impl, .fe, .map, .vdr, .pwu, .ce, .pif, .lsw, .can, .sec] s (i.run e s).1 := by
  unfold opImpl at h
  split at h
  · cases h; exact (Only.refl _ _).andThen (opImplWrite_only e s) (by decide)
  · cases h; exact (Only.refl _ _).andThen (opImplRead_only e s) (by decide)
  · cases h; exact (Only.refl _ _).andThen (opImplCommit_only e s) (by decide)
  · cases h; exact (Only.refl _ _).andThen (opImplRevert_only e s) (by decide)
  · cases h

theorem opMap_only {n : Nat} {i : OpInfo} (h : opMap n = some i) (e : Env) (s : State) : Only [.free, .sys, .pd0, .shd, .host, .time, .gnss, .impl, .fe, .map, .vdr, .pwu, .ce, .pif, .lsw, .can, .sec] s (i.run e s).1 := by
  unfold opMap at h
  split at h
  · cases h; exact (Only.refl _ _).andThen (opMapStatus_only e s) (by decide)
  · cases h; exact (Only.refl _ _).andThen (opMapLoadBegin_only e s) (by decide)
  · cases h; exact (Only.refl _ _).andThen (opMapLoadData_only e s) (by decide)
  · cases h; exact (Only.refl _ _).andThen (opMapLoadEnd_only e s) (by decide)
  · cases h; exact (Only.refl _ _).andThen (opMapLoadAbort_only e s) (by decide)
  · cases h; exact (Only.refl _ _).andThen (opMapExportBegin_only e s) (by decide)
  · cases h; exact (Only.refl _ _).andThen (opMapExportRead_only e s) (by decide)
  · cases h; exact (Only.refl _ _).andThen (opMapExportAck_only e s) (by decide)
  · cases h; exact (Only.refl _ _).andThen (opMapClear_only e s) (by decide)
  · cases h; exact (Only.refl _ _).andThen (opMapLogRead_only e s) (by decide)
  · cases h; exact (Only.refl _ _).andThen (opMapLogAck_only e s) (by decide)
  · cases h

theorem opFe_only {n : Nat} {i : OpInfo} (h : opFe n = some i) (e : Env) (s : State) : Only [.free, .sys, .pd0, .shd, .host, .time, .gnss, .impl, .fe, .map, .vdr, .pwu, .ce, .pif, .lsw, .can, .sec] s (i.run e s).1 := by
  unfold opFe at h
  split at h
  · cases h; exact (Only.refl _ _).andThen (opFeDirected_only e s) (by decide)
  · cases h; exact (Only.refl _ _).andThen (opFeDirectedClear_only e s) (by decide)
  · cases h

theorem opAct_only {n : Nat} {i : OpInfo} (h : opAct n = some i) (e : Env) (s : State) : Only [.free, .sys, .pd0, .shd, .host, .time, .gnss, .impl, .fe, .map, .vdr, .pwu, .ce, .pif, .lsw, .can, .sec] s (i.run e s).1 := by
  unfold opAct at h
  split at h
  · cases h; exact (Only.refl _ _).andThen (opActEvent_only e s) (by decide)
  · cases h; exact (Only.refl _ _).andThen (opActDuty_only e s) (by decide)
  · cases h; exact (Only.refl _ _).andThen (opActFineCmp_only e s) (by decide)
  · cases h; exact (Only.refl _ _).andThen (opActClearFault_only e s) (by decide)
  · cases h

theorem opCe_only {n : Nat} {i : OpInfo} (h : opCe n = some i) (e : Env) (s : State) : Only [.free, .sys, .pd0, .shd, .host, .time, .gnss, .impl, .fe, .map, .vdr, .pwu, .ce, .pif, .lsw, .can, .sec] s (i.run e s).1 := by
  unfold opCe at h
  split at h
  · cases h; exact (Only.refl _ _).andThen (opCeSetpoint_only e s) (by decide)
  · cases h; exact (Only.refl _ _).andThen (opCeOutput_only e s) (by decide)
  · cases h; exact (Only.refl _ _).andThen (opCeTableWrite_only e s) (by decide)
  · cases h; exact (Only.refl _ _).andThen (opCeTableRead_only e s) (by decide)
  · cases h; exact (Only.refl _ _).andThen (opCeLoopReset_only e s) (by decide)
  · cases h

theorem opTime_only {n : Nat} {i : OpInfo} (h : opTime n = some i) (e : Env) (s : State) : Only [.free, .sys, .pd0, .shd, .host, .time, .gnss, .impl, .fe, .map, .vdr, .pwu, .ce, .pif, .lsw, .can, .sec] s (i.run e s).1 := by
  unfold opTime at h
  split at h
  · cases h; exact (Only.refl _ _).andThen (opTimeGet_only e s) (by decide)
  · cases h; exact (Only.refl _ _).andThen (opTimeStepConfirm_only e s) (by decide)
  · cases h; exact (Only.refl _ _).andThen (opGnssRtcm_only e s) (by decide)
  · cases h; exact (Only.refl _ _).andThen (opGnssMeasGet_only e s) (by decide)
  · cases h; exact (Only.refl _ _).andThen (opPosGet_only e s) (by decide)
  · cases h

theorem opIo_only {n : Nat} {i : OpInfo} (h : opIo n = some i) (e : Env) (s : State) : Only [.free, .sys, .pd0, .shd, .host, .time, .gnss, .impl, .fe, .map, .vdr, .pwu, .ce, .pif, .lsw, .can, .sec] s (i.run e s).1 := by
  unfold opIo at h
  split at h
  · cases h; exact (Only.refl _ _).andThen (opLswSet_only e s) (by decide)
  · cases h; exact (Only.refl _ _).andThen (opLswClearFault_only e s) (by decide)
  · cases h; exact (Only.refl _ _).andThen (opPifEncSet_only e s) (by decide)
  · cases h; exact (Only.refl _ _).andThen (opPifEventsRead_only e s) (by decide)
  · cases h

theorem opCan_only {n : Nat} {i : OpInfo} (h : opCan n = some i) (e : Env) (s : State) : Only [.free, .sys, .pd0, .shd, .host, .time, .gnss, .impl, .fe, .map, .vdr, .pwu, .ce, .pif, .lsw, .can, .sec] s (i.run e s).1 := by
  unfold opCan at h
  split at h
  · cases h; exact (Only.refl _ _).andThen (opCanPhConfig_only e s) (by decide)
  · cases h; exact (Only.refl _ _).andThen (opCanRxRead_only e s) (by decide)
  · cases h; exact (Only.refl _ _).andThen (opCanTx_only e s) (by decide)
  · cases h; exact (Only.refl _ _).andThen (opCanTxAbort_only e s) (by decide)
  · cases h; exact (Only.refl _ _).andThen (opCanRecover_only e s) (by decide)
  · cases h

theorem opSec_only {n : Nat} {i : OpInfo} (h : opSec n = some i) (e : Env) (s : State) : Only [.free, .sys, .pd0, .shd, .host, .time, .gnss, .impl, .fe, .map, .vdr, .pwu, .ce, .pif, .lsw, .can, .sec] s (i.run e s).1 := by
  unfold opSec at h
  split at h
  · cases h; exact (Only.refl _ _).andThen (opSecSessionOpen_only e s) (by decide)
  · cases h; exact (Only.refl _ _).andThen (opSecSessionClose_only e s) (by decide)
  · cases h; exact (Only.refl _ _).andThen (opSecServiceChallenge_only e s) (by decide)
  · cases h; exact (Only.refl _ _).andThen (opSecServiceResponse_only e s) (by decide)
  · cases h; exact (Only.refl _ _).andThen (opSecAttest_only e s) (by decide)
  · cases h; exact (Only.refl _ _).andThen (opSecImageBegin_only e s) (by decide)
  · cases h; exact (Only.refl _ _).andThen (opSecImageData_only e s) (by decide)
  · cases h; exact (Only.refl _ _).andThen (opSecImageEnd_only e s) (by decide)
  · cases h; exact (Only.refl _ _).andThen (opSecActivate_only e s) (by decide)
  · cases h; exact (Only.refl _ _).andThen (opSecImageStatus_only e s) (by decide)
  · cases h

theorem opDiag_only {n : Nat} {i : OpInfo} (h : opDiag n = some i) (e : Env) (s : State) : Only [.free, .sys, .pd0, .shd, .host, .time, .gnss, .impl, .fe, .map, .vdr, .pwu, .ce, .pif, .lsw, .can, .sec] s (i.run e s).1 := by
  unfold opDiag at h
  split at h
  · cases h; exact (Only.refl _ _).andThen (opDiagRead_only e s) (by decide)
  · cases h

theorem opInfo_only {op : BitVec 16} {i : OpInfo} (h : opInfo op = some i) (e : Env) (s : State) : Only [.free, .sys, .pd0, .shd, .host, .time, .gnss, .impl, .fe, .map, .vdr, .pwu, .ce, .pif, .lsw, .can, .sec] s (i.run e s).1 := by
  unfold opInfo at h
  split at h
  · exact opSys_only h e s
  · exact opPb_only h e s
  · exact opImpl_only h e s
  · exact opMap_only h e s
  · exact opFe_only h e s
  · exact opAct_only h e s
  · exact opCe_only h e s
  · exact opTime_only h e s
  · exact opIo_only h e s
  · exact opCan_only h e s
  · exact opSec_only h e s
  · exact opDiag_only h e s
  · cases h

theorem interpret_only (op : BitVec 16) (e : Env) (s : State) : Only [.free, .sys, .pd0, .shd, .host, .time, .gnss, .impl, .fe, .map, .vdr, .pwu, .ce, .pif, .lsw, .can, .sec] s (interpret op e s).1 := by
  unfold interpret
  split
  · exact Only.refl _ _
  · refine Only.iteFst (Only.refl _ _) ?_
    split
    · exact Only.refl _ _
    · exact opInfo_only ‹_› e s

theorem checkSeq_only (e : Env) (s : State) : Only [.sys, .host] s (checkSeq e s) := by
  unfold checkSeq
  try extract_lets
  repeat' first
    | with_reducible exact Only.refl _ _
    | with_reducible refine Only.ite ?_ ?_
    | (guard_target = Only _ _ (hostNote ..); with_reducible refine Only.andThen ?_ (hostNote_only ..) (by decide))
    | (guard_target = Only _ _ (modPort ..); with_reducible refine Only.andThen ?_ (modPort_only ..) (by decide))

theorem replyAgain_only (op : BitVec 16) (e : Env) (c : Nat) (r : Replay) (s : State) : Only [.host] s (replyAgain op e c r s) := by
  unfold replyAgain
  try extract_lets
  repeat' first
    | with_reducible exact Only.refl _ _
    | with_reducible refine Only.ite ?_ ?_
    | (guard_target = Only _ _ (modPort ..); with_reducible refine Only.andThen ?_ (modPort_only ..) (by decide))
    | (guard_target = Only _ _ (sendReply ..); with_reducible refine Only.andThen ?_ (sendReply_only ..) (by decide))
    | extract_lets
    | dsimp only
    | split
    | dsimp +zetaDelta only

theorem answer_only (x : Option Session) (op : BitVec 16) (e : Env) (n : Nat) (a : Answer) (s : State) : Only [.host] s (answer x op e n a s) := by
  unfold answer
  try extract_lets
  repeat' first
    | with_reducible exact Only.refl _ _
    | with_reducible refine Only.ite ?_ ?_
    | (guard_target = Only _ _ (modPort ..); with_reducible refine Only.andThen ?_ (modPort_only ..) (by decide))
    | (guard_target = Only _ _ (sendReply ..); with_reducible refine Only.andThen ?_ (sendReply_only ..) (by decide))

theorem interpret_onlyOf {l : List Part} {op : BitVec 16} {i : OpInfo} (hi : opInfo op = some i)
    (h : ∀ e s, Only l s (i.run e s).1) (e : Env) (s : State) : Only l s (interpret op e s).1 := by
  unfold interpret
  rw [hi]
  refine Only.iteFst (Only.refl _ _) ?_
  split
  · exact Only.refl _ _
  · exact h e s

theorem runRequest_onlyOf {l : List Part} {op : BitVec 16} (h : ∀ e s, Only l s (interpret op e s).1) (hb : [.sys, .pd0, .host, .sec] ⊆ l)
    (e : Env) (n : Nat) (s : State) : Only l s (runRequest op e n s) := by
  unfold runRequest
  extract_lets r
  have hr : Only l s r.1 := h e s
  split
  · exact hr.andThen (State.onHost_only _ _) (List.Subset.trans (by decide) hb)
  · exact hr.andThen (answer_only ..) (List.Subset.trans (by decide) hb)

theorem runRequest_only (op : BitVec 16) (e : Env) (n : Nat) (s : State) : Only [.free, .sys, .pd0, .shd, .host, .time, .gnss, .impl, .fe, .map, .vdr, .pwu, .ce, .pif, .lsw, .can, .sec] s (runRequest op e n s) :=
  runRequest_onlyOf (interpret_only op) (by decide) e n s

theorem hold_only (op : BitVec 16) (e : Env) (n : Nat) (s : State) : Only [.host] s (hold op e n s) := by
  unfold hold
  try extract_lets
  repeat' first
    | with_reducible exact Only.refl _ _
    | with_reducible refine Only.ite ?_ ?_
    | (guard_target = Only _ _ (modPort ..); with_reducible refine Only.andThen ?_ (modPort_only ..) (by decide))

theorem runOne_only (s : State) (h : HeldReq) : Only [.free, .sys, .pd0, .shd, .host, .time, .gnss, .impl, .fe, .map, .vdr, .pwu, .ce, .pif, .lsw, .can, .sec] s (runOne s h) := by
  unfold runOne
  try extract_lets
  repeat' first
    | with_reducible exact Only.refl _ _
    | with_reducible refine Only.ite ?_ ?_
    | (guard_target = Only _ _ (modPort ..); with_reducible refine Only.andThen ?_ (modPort_only ..) (by decide))
    | (guard_target = Only _ _ (runRequest ..); with_reducible refine Only.andThen ?_ (runRequest_only ..) (by decide))
    | extract_lets
    | dsimp only
    | split
    | dsimp +zetaDelta only

theorem runHeld_only (s : State) : Only [.free, .sys, .pd0, .shd, .host, .time, .gnss, .impl, .fe, .map, .vdr, .pwu, .ce, .pif, .lsw, .can, .sec] s (runHeld s) := by
  unfold runHeld
  try extract_lets
  repeat' first
    | with_reducible exact Only.refl _ _
    | with_reducible refine Only.ite ?_ ?_
    | (guard_target = Only _ _ (runOne ..); with_reducible refine Only.andThen ?_ (runOne_only ..) (by decide))
    | with_reducible refine Only.foldl (fun _ _ => ?_) ?_
    | with_reducible refine Only.foldlFst (fun _ _ _ => ?_) ?_
    | extract_lets
    | dsimp only
    | split
    | dsimp +zetaDelta only

theorem authFail_only (op : BitVec 16) (e : Env) (c : Nat) (s : State) : Only [.sys, .host, .sec] s (authFail op e c s) := by
  unfold authFail
  try extract_lets
  repeat' first
    | with_reducible exact Only.refl _ _
    | with_reducible refine Only.ite ?_ ?_
    | (guard_target = Only _ _ (closeSession ..); with_reducible refine Only.andThen ?_ (closeSession_only ..) (by decide))
    | (guard_target = Only _ _ (hostNote ..); with_reducible refine Only.andThen ?_ (hostNote_only ..) (by decide))
    | (guard_target = Only _ _ (modPort ..); with_reducible refine Only.andThen ?_ (modPort_only ..) (by decide))
    | (guard_target = Only _ _ (sendReply ..); with_reducible refine Only.andThen ?_ (sendReply_only ..) (by decide))
    | extract_lets
    | dsimp only
    | split
    | dsimp +zetaDelta only

theorem passTag_only (e : Env) (n : Nat) (s : State) : Only [.host] s (passTag e n s) := by
  unfold passTag
  try extract_lets
  repeat' first
    | with_reducible exact Only.refl _ _
    | with_reducible refine Only.ite ?_ ?_
    | (guard_target = Only _ _ (modPort ..); with_reducible refine Only.andThen ?_ (modPort_only ..) (by decide))

theorem takeCredit_only (p : Port) (s : State) : Only [.host] s (takeCredit p s) := by
  unfold takeCredit
  try extract_lets
  repeat' first
    | with_reducible exact Only.refl _ _
    | with_reducible refine Only.ite ?_ ?_
    | (guard_target = Only _ _ (modPort ..); with_reducible refine Only.andThen ?_ (modPort_only ..) (by decide))

theorem refuseHeader_only (op : BitVec 16) (e : Env) (st : Status) (s : State) : Only [.host] s (refuseHeader op e st s) := by
  unfold refuseHeader
  try extract_lets
  repeat' first
    | with_reducible exact Only.refl _ _
    | with_reducible refine Only.ite ?_ ?_
    | (guard_target = Only _ _ (sendReply ..); with_reducible refine Only.andThen ?_ (sendReply_only ..) (by decide))
    | (guard_target = Only _ _ (takeCredit ..); with_reducible refine Only.andThen ?_ (takeCredit_only ..) (by decide))

theorem accept_onlyOf {l : List Part} {op : BitVec 16} (h : ∀ e s, Only l s (interpret op e s).1) (hb : [.sys, .pd0, .host, .sec] ⊆ l)
    (e : Env) (c n : Nat) (s : State) : Only l s (accept op e c n s) := by
  unfold accept
  have hc : Only l s (checkSeq e s) := (Only.refl _ s).andThen (checkSeq_only ..) (List.Subset.trans (by decide) hb)
  split
  · exact (Only.refl _ s).andThen (replyAgain_only ..) (List.Subset.trans (by decide) hb)
  · refine Only.ite (hc.andThen (hold_only ..) (List.Subset.trans (by decide) hb)) ?_
    exact hc.andThen (runRequest_onlyOf h hb e n _) (List.Subset.refl l)

theorem accept_only (op : BitVec 16) (e : Env) (c n : Nat) (s : State) : Only [.free, .sys, .pd0, .shd, .host, .time, .gnss, .impl, .fe, .map, .vdr, .pwu, .ce, .pif, .lsw, .can, .sec] s (accept op e c n s) :=
  accept_onlyOf (interpret_only op) (by decide) e c n s

theorem checkBody_onlyOf {l : List Part} {op : BitVec 16} (h : ∀ e s, Only l s (interpret op e s).1) (hb : [.sys, .pd0, .host, .sec] ⊆ l)
    (e : Env) (c : Nat) (s : State) : Only l s (checkBody op e c s) := by
  unfold checkBody
  refine Only.ite ((Only.refl _ s).andThen (sendReply_only ..) (List.Subset.trans (by decide) hb)) ?_
  split
  · exact (Only.refl _ s).andThen (authFail_only ..) (List.Subset.trans (by decide) hb)
  · exact ((Only.refl _ s).andThen (passTag_only ..) (List.Subset.trans (by decide) hb)).andThen (accept_onlyOf h hb e c _ _) (List.Subset.refl l)

theorem checkBody_only (op : BitVec 16) (e : Env) (c : Nat) (s : State) : Only [.free, .sys, .pd0, .shd, .host, .time, .gnss, .impl, .fe, .map, .vdr, .pwu, .ce, .pif, .lsw, .can, .sec] s (checkBody op e c s) :=
  checkBody_onlyOf (interpret_only op) (by decide) e c s

theorem checkHeader_onlyOf {l : List Part} {op : BitVec 16} (h : ∀ e s, Only l s (interpret op e s).1) (hb : [.sys, .pd0, .host, .sec] ⊆ l)
    (e : Env) (s : State) : Only l s (checkHeader op e s) := by
  have hr (st : Status) : Only l s (refuseHeader op e st s) :=
    (Only.refl _ s).andThen (refuseHeader_only ..) (List.Subset.trans (by decide) hb)
  unfold checkHeader
  refine Only.ite (hr _) (Only.ite (hr _) (Only.ite (Only.refl _ s) (Only.ite (checkBody_onlyOf h hb e 0 s)
    (Only.ite ((Only.refl _ s).andThen (sendReply_only ..) (List.Subset.trans (by decide) hb)) ?_))))
  exact ((Only.refl _ s).andThen (takeCredit_only ..) (List.Subset.trans (by decide) hb)).andThen (checkBody_onlyOf h hb e 1 _) (List.Subset.refl l)

theorem checkHeader_only (op : BitVec 16) (e : Env) (s : State) : Only [.free, .sys, .pd0, .shd, .host, .time, .gnss, .impl, .fe, .map, .vdr, .pwu, .ce, .pif, .lsw, .can, .sec] s (checkHeader op e s) :=
  checkHeader_onlyOf (interpret_only op) (by decide) e s

theorem receive_onlyOf {l : List Part} {op : BitVec 16} (h : ∀ e s, Only l s (interpret op e s).1) (hb : [.sys, .pd0, .host, .sec] ⊆ l)
    (e : Env) (s : State) : Only l s (receive op e s) := by
  unfold receive
  refine Only.ite (Only.refl _ s) (Only.ite ((Only.refl _ s).andThen (countBadHeader_only ..) (List.Subset.trans (by decide) hb)) ?_)
  exact ((Only.refl _ s).andThen (validHeader_only ..) (List.Subset.trans (by decide) hb)).andThen (checkHeader_onlyOf h hb e _) (List.Subset.refl l)

theorem receive_only (op : BitVec 16) (e : Env) (s : State) : Only [.free, .sys, .pd0, .shd, .host, .time, .gnss, .impl, .fe, .map, .vdr, .pwu, .ce, .pif, .lsw, .can, .sec] s (receive op e s) :=
  receive_onlyOf (interpret_only op) (by decide) e s

theorem answerBank_only (b : Fin 12) (st : Status) (s : State) : Only [.host] s (answerBank b st s) := by
  unfold answerBank
  try extract_lets
  repeat' first
    | with_reducible exact Only.refl _ _
    | with_reducible refine Only.ite ?_ ?_
    | (guard_target = Only _ _ (answer ..); with_reducible refine Only.andThen ?_ (answer_only ..) (by decide))
    | (guard_target = Only _ _ (State.onHost ..); with_reducible refine Only.andThen ?_ (State.onHost_only _ _) (by decide))
    | with_reducible refine Only.foldl (fun _ _ => ?_) ?_

theorem execBankReconnectTestEnd_only (b : Fin 12) (short : Option (Fin 8)) (s : State) : OnlyR [.sys, .pd0, .host, .safe, .fe, .map, .vdr, .pwu, .lsw, .can, .sec] s (execBankReconnectTestEnd b short s) := by
  unfold execBankReconnectTestEnd
  try extract_lets
  repeat' first
    | with_reducible exact Only.refl _ _
    | with_reducible refine OnlyR.next ?_
    | refine OnlyR.ite ?_ ?_
    | with_reducible refine Only.ite ?_ ?_
    | (guard_target = Only _ _ (answerBank ..); with_reducible refine Only.andThen ?_ (answerBank_only ..) (by decide))
    | (guard_target = Only _ _ (isolateFault ..); with_reducible refine Only.andThen ?_ (isolateFault_only ..) (by decide))
    | (guard_target = Only _ _ (reconnected ..); with_reducible refine Only.andThen ?_ (reconnected_only ..) (by decide))
    | (guard_target = Only _ _ (reisolated ..); with_reducible refine Only.andThen ?_ (reisolated_only ..) (by decide))
    | extract_lets
    | dsimp only
    | split
    | dsimp +zetaDelta only

theorem tunnelHeader_only (e : Env) (s : State) : Only [.sys, .pd0, .host] s (tunnelHeader e s) := by
  unfold tunnelHeader
  try extract_lets
  repeat' first
    | with_reducible exact Only.refl _ _
    | with_reducible refine Only.ite ?_ ?_
    | (guard_target = Only _ _ (modPort ..); with_reducible refine Only.andThen ?_ (modPort_only ..) (by decide))
    | (guard_target = Only _ _ (validHeader ..); with_reducible refine Only.andThen ?_ (validHeader_only ..) (by decide))
    | extract_lets
    | dsimp only
    | split
    | dsimp +zetaDelta only

theorem tunnelBody_only (op : BitVec 16) (e : Env) (s : State) : Only [.free, .sys, .pd0, .shd, .host, .time, .gnss, .impl, .fe, .map, .vdr, .pwu, .ce, .pif, .lsw, .can, .sec] s (tunnelBody op e s) := by
  unfold tunnelBody
  try extract_lets
  repeat' first
    | with_reducible exact Only.refl _ _
    | with_reducible refine Only.ite ?_ ?_
    | (guard_target = Only _ _ (checkHeader ..); with_reducible refine Only.andThen ?_ (checkHeader_only ..) (by decide))
    | (guard_target = Only _ _ (modPort ..); with_reducible refine Only.andThen ?_ (modPort_only ..) (by decide))
    | extract_lets
    | dsimp only
    | split
    | dsimp +zetaDelta only

theorem tunnelServe_only (at_ : Tick) (n : Nat) (s : State) : Only [.free, .sys, .pd0, .shd, .host, .time, .gnss, .impl, .fe, .map, .vdr, .pwu, .ce, .pif, .lsw, .can, .sec] s (tunnelServe at_ n s) := by
  induction n generalizing s with
  | zero => exact Only.refl _ _
  | succ n ih =>
    unfold tunnelServe
    extract_lets bs keep h m total e t
    have hk (l : List Byte) (t : State) : Only [.free, .sys, .pd0, .shd, .host, .time, .gnss, .impl, .fe, .map, .vdr, .pwu, .ce, .pif, .lsw, .can, .sec] t (keep l t) := (Only.refl _ _).andThen (modPort_only ..) (by decide)
    have ht : Only [.free, .sys, .pd0, .shd, .host, .time, .gnss, .impl, .fe, .map, .vdr, .pwu, .ce, .pif, .lsw, .can, .sec] s t := (Only.refl _ _).andThen (tunnelHeader_only ..) (by decide)
    clear_value keep t e
    refine Only.ite ((Only.refl _ _).andThen (hk ..) (by decide)) (Only.ite ?_ (Only.ite (ht.andThen (hk ..) (by decide)) ?_))
    · exact (((Only.refl _ s).andThen (hk ..) (by decide)).andThen (countBadHeader_only ..) (by decide)).andThen (ih _) (by decide)
    · exact ((ht.andThen (hk ..) (by decide)).andThen (tunnelBody_only ..) (by decide)).andThen (ih _) (by decide)

theorem execCanFrameReceive_only (x : Fin 3) (f : CanFrame) (s : State) : OnlyR [.free, .sys, .pd0, .shd, .host, .time, .gnss, .pos, .impl, .fe, .map, .vdr, .pwu, .ce, .pif, .lsw, .can, .sec] s (execCanFrameReceive x f s) := by
  unfold execCanFrameReceive
  try extract_lets
  repeat' first
    | with_reducible exact Only.refl _ _
    | with_reducible refine OnlyR.next ?_
    | refine OnlyR.ite ?_ ?_
    | with_reducible refine Only.ite ?_ ?_
    | (guard_target = Only _ _ (canFrameReceive ..); with_reducible refine Only.andThen ?_ (canFrameReceive_only ..) (by decide))
    | (guard_target = Only _ _ (tunnelServe ..); with_reducible refine Only.andThen ?_ (tunnelServe_only ..) (by decide))

theorem execSysNop_only (e : Env) (s : State) : OnlyR [.sys, .pd0, .host, .sec] s (execSysNop e s) :=
  OnlyR.next (receive_onlyOf (interpret_onlyOf rfl fun e s => (Only.refl _ _).andThen (opSysNop_only e s) (by decide)) (by decide) e s)

theorem execSysStatus_only (e : Env) (s : State) : OnlyR [.sys, .pd0, .host, .sec] s (execSysStatus e s) :=
  OnlyR.next (receive_onlyOf (interpret_onlyOf rfl fun e s => (Only.refl _ _).andThen (opSysStatus_only e s) (by decide)) (by decide) e s)

theorem execSysIdentity_only (e : Env) (s : State) : OnlyR [.sys, .pd0, .host, .sec] s (execSysIdentity e s) :=
  OnlyR.next (receive_onlyOf (interpret_onlyOf rfl fun e s => (Only.refl _ _).andThen (opSysIdentity_only e s) (by decide)) (by decide) e s)

theorem execSysLinkReset_only (e : Env) (s : State) : OnlyR [.sys, .pd0, .host, .sec] s (execSysLinkReset e s) :=
  OnlyR.next (receive_onlyOf (interpret_onlyOf rfl fun e s => (Only.refl _ _).andThen (opSysLinkReset_only e s) (by decide)) (by decide) e s)

theorem execSysArm_only (e : Env) (s : State) : OnlyR [.sys, .pd0, .host, .sec] s (execSysArm e s) :=
  OnlyR.next (receive_onlyOf (interpret_onlyOf rfl fun e s => (Only.refl _ _).andThen (opSysArm_only e s) (by decide)) (by decide) e s)

theorem execSysManual_only (e : Env) (s : State) : OnlyR [.sys, .pd0, .host, .sec] s (execSysManual e s) :=
  OnlyR.next (receive_onlyOf (interpret_onlyOf rfl fun e s => (Only.refl _ _).andThen (opSysManual_only e s) (by decide)) (by decide) e s)

theorem execSysDisarm_only (e : Env) (s : State) : OnlyR [.sys, .pd0, .host, .sec] s (execSysDisarm e s) :=
  OnlyR.next (receive_onlyOf (interpret_onlyOf rfl fun e s => (Only.refl _ _).andThen (opSysDisarm_only e s) (by decide)) (by decide) e s)

theorem execSysClearFault_only (e : Env) (s : State) : OnlyR [.sys, .pd0, .host, .sec] s (execSysClearFault e s) :=
  OnlyR.next (receive_onlyOf (interpret_onlyOf rfl fun e s => (Only.refl _ _).andThen (opSysClearFault_only e s) (by decide)) (by decide) e s)

theorem execSysReset_only (e : Env) (s : State) : OnlyR [.sys, .pd0, .host, .sec] s (execSysReset e s) :=
  OnlyR.next (receive_onlyOf (interpret_onlyOf rfl fun e s => (Only.refl _ _).andThen (opSysReset_only e s) (by decide)) (by decide) e s)

theorem execSysSubscribe_only (e : Env) (s : State) : OnlyR [.sys, .pd0, .host, .sec] s (execSysSubscribe e s) :=
  OnlyR.next (receive_onlyOf (interpret_onlyOf rfl fun e s => (Only.refl _ _).andThen (opSysSubscribe_only e s) (by decide)) (by decide) e s)

theorem execSysWakeSet_only (e : Env) (s : State) : OnlyR [.sys, .pd0, .host, .sec] s (execSysWakeSet e s) :=
  OnlyR.next (receive_onlyOf (interpret_onlyOf rfl fun e s => (Only.refl _ _).andThen (opSysWakeSet_only e s) (by decide)) (by decide) e s)

theorem execPbRead_only (e : Env) (s : State) : OnlyR [.sys, .pd0, .host, .sec] s (execPbRead e s) :=
  OnlyR.next (receive_onlyOf (interpret_onlyOf rfl fun e s => (Only.refl _ _).andThen (opPbRead_only e s) (by decide)) (by decide) e s)

theorem execPbWrite_only (e : Env) (s : State) : OnlyR [.sys, .pd0, .shd, .host, .pos, .sec] s (execPbWrite e s) :=
  OnlyR.next (receive_onlyOf (interpret_onlyOf rfl fun e s => (Only.refl _ _).andThen (opPbWrite_only e s) (by decide)) (by decide) e s)

theorem execPbCommit_only (e : Env) (s : State) : OnlyR [.sys, .pd0, .host, .sec] s (execPbCommit e s) :=
  OnlyR.next (receive_onlyOf (interpret_onlyOf rfl fun e s => (Only.refl _ _).andThen (opPbCommit_only e s) (by decide)) (by decide) e s)

theorem execPbRevert_only (e : Env) (s : State) : OnlyR [.sys, .pd0, .shd, .host, .pos, .sec] s (execPbRevert e s) :=
  OnlyR.next (receive_onlyOf (interpret_onlyOf rfl fun e s => (Only.refl _ _).andThen (opPbRevert_only e s) (by decide)) (by decide) e s)

theorem execImplWrite_only (e : Env) (s : State) : OnlyR [.sys, .pd0, .host, .impl, .sec] s (execImplWrite e s) :=
  OnlyR.next (receive_onlyOf (interpret_onlyOf rfl fun e s => (Only.refl _ _).andThen (opImplWrite_only e s) (by decide)) (by decide) e s)

theorem execImplRead_only (e : Env) (s : State) : OnlyR [.sys, .pd0, .host, .sec] s (execImplRead e s) :=
  OnlyR.next (receive_onlyOf (interpret_onlyOf rfl fun e s => (Only.refl _ _).andThen (opImplRead_only e s) (by decide)) (by decide) e s)

theorem execImplCommit_only (e : Env) (s : State) : OnlyR [.sys, .pd0, .host, .sec] s (execImplCommit e s) :=
  OnlyR.next (receive_onlyOf (interpret_onlyOf rfl fun e s => (Only.refl _ _).andThen (opImplCommit_only e s) (by decide)) (by decide) e s)

theorem execImplRevert_only (e : Env) (s : State) : OnlyR [.sys, .pd0, .host, .impl, .sec] s (execImplRevert e s) :=
  OnlyR.next (receive_onlyOf (interpret_onlyOf rfl fun e s => (Only.refl _ _).andThen (opImplRevert_only e s) (by decide)) (by decide) e s)

theorem execMapStatus_only (e : Env) (s : State) : OnlyR [.sys, .pd0, .host, .sec] s (execMapStatus e s) :=
  OnlyR.next (receive_onlyOf (interpret_onlyOf rfl fun e s => (Only.refl _ _).andThen (opMapStatus_only e s) (by decide)) (by decide) e s)

theorem execMapLoadBegin_only (e : Env) (s : State) : OnlyR [.sys, .pd0, .host, .map, .sec] s (execMapLoadBegin e s) :=
  OnlyR.next (receive_onlyOf (interpret_onlyOf rfl fun e s => (Only.refl _ _).andThen (opMapLoadBegin_only e s) (by decide)) (by decide) e s)

theorem execMapLoadData_only (e : Env) (s : State) : OnlyR [.sys, .pd0, .host, .map, .sec] s (execMapLoadData e s) :=
  OnlyR.next (receive_onlyOf (interpret_onlyOf rfl fun e s => (Only.refl _ _).andThen (opMapLoadData_only e s) (by decide)) (by decide) e s)

theorem execMapLoadEnd_only (e : Env) (s : State) : OnlyR [.sys, .pd0, .host, .map, .sec] s (execMapLoadEnd e s) :=
  OnlyR.next (receive_onlyOf (interpret_onlyOf rfl fun e s => (Only.refl _ _).andThen (opMapLoadEnd_only e s) (by decide)) (by decide) e s)

theorem execMapLoadAbort_only (e : Env) (s : State) : OnlyR [.sys, .pd0, .host, .map, .sec] s (execMapLoadAbort e s) :=
  OnlyR.next (receive_onlyOf (interpret_onlyOf rfl fun e s => (Only.refl _ _).andThen (opMapLoadAbort_only e s) (by decide)) (by decide) e s)

theorem execMapExportBegin_only (e : Env) (s : State) : OnlyR [.sys, .pd0, .host, .map, .sec] s (execMapExportBegin e s) :=
  OnlyR.next (receive_onlyOf (interpret_onlyOf rfl fun e s => (Only.refl _ _).andThen (opMapExportBegin_only e s) (by decide)) (by decide) e s)

theorem execMapExportRead_only (e : Env) (s : State) : OnlyR [.sys, .pd0, .host, .map, .sec] s (execMapExportRead e s) :=
  OnlyR.next (receive_onlyOf (interpret_onlyOf rfl fun e s => (Only.refl _ _).andThen (opMapExportRead_only e s) (by decide)) (by decide) e s)

theorem execMapExportAck_only (e : Env) (s : State) : OnlyR [.sys, .pd0, .host, .map, .sec] s (execMapExportAck e s) :=
  OnlyR.next (receive_onlyOf (interpret_onlyOf rfl fun e s => (Only.refl _ _).andThen (opMapExportAck_only e s) (by decide)) (by decide) e s)

theorem execMapClear_only (e : Env) (s : State) : OnlyR [.sys, .pd0, .host, .sec] s (execMapClear e s) :=
  OnlyR.next (receive_onlyOf (interpret_onlyOf rfl fun e s => (Only.refl _ _).andThen (opMapClear_only e s) (by decide)) (by decide) e s)

theorem execMapLogRead_only (e : Env) (s : State) : OnlyR [.sys, .pd0, .host, .map, .sec] s (execMapLogRead e s) :=
  OnlyR.next (receive_onlyOf (interpret_onlyOf rfl fun e s => (Only.refl _ _).andThen (opMapLogRead_only e s) (by decide)) (by decide) e s)

theorem execMapLogAck_only (e : Env) (s : State) : OnlyR [.sys, .pd0, .host, .map, .sec] s (execMapLogAck e s) :=
  OnlyR.next (receive_onlyOf (interpret_onlyOf rfl fun e s => (Only.refl _ _).andThen (opMapLogAck_only e s) (by decide)) (by decide) e s)

theorem execFeDirected_only (e : Env) (s : State) : OnlyR [.sys, .pd0, .host, .fe, .sec] s (execFeDirected e s) :=
  OnlyR.next (receive_onlyOf (interpret_onlyOf rfl fun e s => (Only.refl _ _).andThen (opFeDirected_only e s) (by decide)) (by decide) e s)

theorem execFeDirectedClear_only (e : Env) (s : State) : OnlyR [.sys, .pd0, .host, .fe, .sec] s (execFeDirectedClear e s) :=
  OnlyR.next (receive_onlyOf (interpret_onlyOf rfl fun e s => (Only.refl _ _).andThen (opFeDirectedClear_only e s) (by decide)) (by decide) e s)

theorem execActEvent_only (e : Env) (s : State) : OnlyR [.free, .sys, .pd0, .host, .fe, .vdr, .sec] s (execActEvent e s) :=
  OnlyR.next (receive_onlyOf (interpret_onlyOf rfl fun e s => (Only.refl _ _).andThen (opActEvent_only e s) (by decide)) (by decide) e s)

theorem execActDuty_only (e : Env) (s : State) : OnlyR [.sys, .pd0, .host, .sec] s (execActDuty e s) :=
  OnlyR.next (receive_onlyOf (interpret_onlyOf rfl fun e s => (Only.refl _ _).andThen (opActDuty_only e s) (by decide)) (by decide) e s)

theorem execActFineCmp_only (e : Env) (s : State) : OnlyR [.sys, .pd0, .host, .pwu, .sec] s (execActFineCmp e s) :=
  OnlyR.next (receive_onlyOf (interpret_onlyOf rfl fun e s => (Only.refl _ _).andThen (opActFineCmp_only e s) (by decide)) (by decide) e s)

theorem execActClearFault_only (e : Env) (s : State) : OnlyR [.sys, .pd0, .host, .fe, .vdr, .sec] s (execActClearFault e s) :=
  OnlyR.next (receive_onlyOf (interpret_onlyOf rfl fun e s => (Only.refl _ _).andThen (opActClearFault_only e s) (by decide)) (by decide) e s)

theorem execCeSetpoint_only (e : Env) (s : State) : OnlyR [.sys, .pd0, .host, .sec] s (execCeSetpoint e s) :=
  OnlyR.next (receive_onlyOf (interpret_onlyOf rfl fun e s => (Only.refl _ _).andThen (opCeSetpoint_only e s) (by decide)) (by decide) e s)

theorem execCeOutput_only (e : Env) (s : State) : OnlyR [.sys, .pd0, .host, .sec] s (execCeOutput e s) :=
  OnlyR.next (receive_onlyOf (interpret_onlyOf rfl fun e s => (Only.refl _ _).andThen (opCeOutput_only e s) (by decide)) (by decide) e s)

theorem execCeTableWrite_only (e : Env) (s : State) : OnlyR [.sys, .pd0, .host, .ce, .sec] s (execCeTableWrite e s) :=
  OnlyR.next (receive_onlyOf (interpret_onlyOf rfl fun e s => (Only.refl _ _).andThen (opCeTableWrite_only e s) (by decide)) (by decide) e s)

theorem execCeTableRead_only (e : Env) (s : State) : OnlyR [.sys, .pd0, .host, .sec] s (execCeTableRead e s) :=
  OnlyR.next (receive_onlyOf (interpret_onlyOf rfl fun e s => (Only.refl _ _).andThen (opCeTableRead_only e s) (by decide)) (by decide) e s)

theorem execCeLoopReset_only (e : Env) (s : State) : OnlyR [.sys, .pd0, .host, .sec] s (execCeLoopReset e s) :=
  OnlyR.next (receive_onlyOf (interpret_onlyOf rfl fun e s => (Only.refl _ _).andThen (opCeLoopReset_only e s) (by decide)) (by decide) e s)

theorem execTimeGet_only (e : Env) (s : State) : OnlyR [.sys, .pd0, .host, .sec] s (execTimeGet e s) :=
  OnlyR.next (receive_onlyOf (interpret_onlyOf rfl fun e s => (Only.refl _ _).andThen (opTimeGet_only e s) (by decide)) (by decide) e s)

theorem execTimeStepConfirm_only (e : Env) (s : State) : OnlyR [.sys, .pd0, .host, .time, .sec] s (execTimeStepConfirm e s) :=
  OnlyR.next (receive_onlyOf (interpret_onlyOf rfl fun e s => (Only.refl _ _).andThen (opTimeStepConfirm_only e s) (by decide)) (by decide) e s)

theorem execGnssRtcm_only (e : Env) (s : State) : OnlyR [.sys, .pd0, .host, .gnss, .sec] s (execGnssRtcm e s) :=
  OnlyR.next (receive_onlyOf (interpret_onlyOf rfl fun e s => (Only.refl _ _).andThen (opGnssRtcm_only e s) (by decide)) (by decide) e s)

theorem execGnssMeasGet_only (e : Env) (s : State) : OnlyR [.sys, .pd0, .host, .sec] s (execGnssMeasGet e s) :=
  OnlyR.next (receive_onlyOf (interpret_onlyOf rfl fun e s => (Only.refl _ _).andThen (opGnssMeasGet_only e s) (by decide)) (by decide) e s)

theorem execPosGet_only (e : Env) (s : State) : OnlyR [.sys, .pd0, .host, .sec] s (execPosGet e s) :=
  OnlyR.next (receive_onlyOf (interpret_onlyOf rfl fun e s => (Only.refl _ _).andThen (opPosGet_only e s) (by decide)) (by decide) e s)

theorem execLswSet_only (e : Env) (s : State) : OnlyR [.sys, .pd0, .host, .sec] s (execLswSet e s) :=
  OnlyR.next (receive_onlyOf (interpret_onlyOf rfl fun e s => (Only.refl _ _).andThen (opLswSet_only e s) (by decide)) (by decide) e s)

theorem execLswClearFault_only (e : Env) (s : State) : OnlyR [.sys, .pd0, .host, .lsw, .sec] s (execLswClearFault e s) :=
  OnlyR.next (receive_onlyOf (interpret_onlyOf rfl fun e s => (Only.refl _ _).andThen (opLswClearFault_only e s) (by decide)) (by decide) e s)

theorem execPifEncSet_only (e : Env) (s : State) : OnlyR [.sys, .pd0, .host, .sec] s (execPifEncSet e s) :=
  OnlyR.next (receive_onlyOf (interpret_onlyOf rfl fun e s => (Only.refl _ _).andThen (opPifEncSet_only e s) (by decide)) (by decide) e s)

theorem execPifEventsRead_only (e : Env) (s : State) : OnlyR [.sys, .pd0, .host, .pif, .sec] s (execPifEventsRead e s) :=
  OnlyR.next (receive_onlyOf (interpret_onlyOf rfl fun e s => (Only.refl _ _).andThen (opPifEventsRead_only e s) (by decide)) (by decide) e s)

theorem execCanPhConfig_only (e : Env) (s : State) : OnlyR [.sys, .pd0, .host, .sec] s (execCanPhConfig e s) :=
  OnlyR.next (receive_onlyOf (interpret_onlyOf rfl fun e s => (Only.refl _ _).andThen (opCanPhConfig_only e s) (by decide)) (by decide) e s)

theorem execCanRxRead_only (e : Env) (s : State) : OnlyR [.sys, .pd0, .host, .can, .sec] s (execCanRxRead e s) :=
  OnlyR.next (receive_onlyOf (interpret_onlyOf rfl fun e s => (Only.refl _ _).andThen (opCanRxRead_only e s) (by decide)) (by decide) e s)

theorem execCanTx_only (e : Env) (s : State) : OnlyR [.sys, .pd0, .host, .can, .sec] s (execCanTx e s) :=
  OnlyR.next (receive_onlyOf (interpret_onlyOf rfl fun e s => (Only.refl _ _).andThen (opCanTx_only e s) (by decide)) (by decide) e s)

theorem execCanTxAbort_only (e : Env) (s : State) : OnlyR [.sys, .pd0, .host, .can, .sec] s (execCanTxAbort e s) :=
  OnlyR.next (receive_onlyOf (interpret_onlyOf rfl fun e s => (Only.refl _ _).andThen (opCanTxAbort_only e s) (by decide)) (by decide) e s)

theorem execCanRecover_only (e : Env) (s : State) : OnlyR [.sys, .pd0, .host, .can, .sec] s (execCanRecover e s) :=
  OnlyR.next (receive_onlyOf (interpret_onlyOf rfl fun e s => (Only.refl _ _).andThen (opCanRecover_only e s) (by decide)) (by decide) e s)

theorem execSecSessionOpen_only (e : Env) (s : State) : OnlyR [.free, .sys, .pd0, .host, .sec] s (execSecSessionOpen e s) :=
  OnlyR.next (receive_onlyOf (interpret_onlyOf rfl fun e s => (Only.refl _ _).andThen (opSecSessionOpen_only e s) (by decide)) (by decide) e s)

theorem execSecSessionClose_only (e : Env) (s : State) : OnlyR [.sys, .pd0, .host, .sec] s (execSecSessionClose e s) :=
  OnlyR.next (receive_onlyOf (interpret_onlyOf rfl fun e s => (Only.refl _ _).andThen (opSecSessionClose_only e s) (by decide)) (by decide) e s)

theorem execSecServiceChallenge_only (e : Env) (s : State) : OnlyR [.free, .sys, .pd0, .host, .sec] s (execSecServiceChallenge e s) :=
  OnlyR.next (receive_onlyOf (interpret_onlyOf rfl fun e s => (Only.refl _ _).andThen (opSecServiceChallenge_only e s) (by decide)) (by decide) e s)

theorem execSecServiceResponse_only (e : Env) (s : State) : OnlyR [.free, .sys, .pd0, .host, .sec] s (execSecServiceResponse e s) :=
  OnlyR.next (receive_onlyOf (interpret_onlyOf rfl fun e s => (Only.refl _ _).andThen (opSecServiceResponse_only e s) (by decide)) (by decide) e s)

theorem execSecAttest_only (e : Env) (s : State) : OnlyR [.sys, .pd0, .host, .sec] s (execSecAttest e s) :=
  OnlyR.next (receive_onlyOf (interpret_onlyOf rfl fun e s => (Only.refl _ _).andThen (opSecAttest_only e s) (by decide)) (by decide) e s)

theorem execSecImageBegin_only (e : Env) (s : State) : OnlyR [.sys, .pd0, .host, .sec] s (execSecImageBegin e s) :=
  OnlyR.next (receive_onlyOf (interpret_onlyOf rfl fun e s => (Only.refl _ _).andThen (opSecImageBegin_only e s) (by decide)) (by decide) e s)

theorem execSecImageData_only (e : Env) (s : State) : OnlyR [.sys, .pd0, .host, .sec] s (execSecImageData e s) :=
  OnlyR.next (receive_onlyOf (interpret_onlyOf rfl fun e s => (Only.refl _ _).andThen (opSecImageData_only e s) (by decide)) (by decide) e s)

theorem execSecImageEnd_only (e : Env) (s : State) : OnlyR [.sys, .pd0, .host, .sec] s (execSecImageEnd e s) :=
  OnlyR.next (receive_onlyOf (interpret_onlyOf rfl fun e s => (Only.refl _ _).andThen (opSecImageEnd_only e s) (by decide)) (by decide) e s)

theorem execSecActivate_only (e : Env) (s : State) : OnlyR [.sys, .pd0, .host, .sec] s (execSecActivate e s) :=
  OnlyR.next (receive_onlyOf (interpret_onlyOf rfl fun e s => (Only.refl _ _).andThen (opSecActivate_only e s) (by decide)) (by decide) e s)

theorem execSecImageStatus_only (e : Env) (s : State) : OnlyR [.sys, .pd0, .host, .sec] s (execSecImageStatus e s) :=
  OnlyR.next (receive_onlyOf (interpret_onlyOf rfl fun e s => (Only.refl _ _).andThen (opSecImageStatus_only e s) (by decide)) (by decide) e s)

theorem execDiagRead_only (e : Env) (s : State) : OnlyR [.sys, .pd0, .host, .sec] s (execDiagRead e s) :=
  OnlyR.next (receive_onlyOf (interpret_onlyOf rfl fun e s => (Only.refl _ _).andThen (opDiagRead_only e s) (by decide)) (by decide) e s)

theorem execBadOpcode_only (op : BitVec 16) (e : Env) (s : State) : OnlyR [.free, .sys, .pd0, .shd, .host, .time, .gnss, .impl, .fe, .map, .vdr, .pwu, .ce, .pif, .lsw, .can, .sec] s (execBadOpcode op e s) := by
  unfold execBadOpcode
  try extract_lets
  repeat' first
    | with_reducible exact Only.refl _ _
    | with_reducible refine OnlyR.next ?_
    | refine OnlyR.ite ?_ ?_
    | with_reducible refine Only.ite ?_ ?_
    | (guard_target = Only _ _ (receive ..); with_reducible refine Only.andThen ?_ (receive_only ..) (by decide))
    | extract_lets
    | dsimp only
    | split
    | dsimp +zetaDelta only

end Sys2Proof.Machine
end

