-- ==== Sys2Proof/Laws/FrameOnly.lean ====
section
/-! SUPPORT. What the operations of Machine/Frame.lean may change: for each the parts beyond which nothing moves. -/

set_option Elab.async false

namespace Sys2Proof.Machine

theorem cancelNote_only (i : EdgeItem) (s : State) : Only [.host] s (cancelNote i s) := by
  unfold cancelNote
  try extract_lets
  repeat' first
    | with_reducible exact Only.refl _ _
    | with_reducible refine Only.ite ?_ ?_
    | (guard_target = Only _ _ (noticeNow ..); with_reducible refine Only.andThen ?_ (noticeNow_only ..) (by decide))

theorem ifAllowed_only {l : List Part} (ok : Bool) (i : EdgeItem) (f : State → State) (s : State) (hf : Only l s (f s))
    (hl : [.host] ⊆ l) : Only l s (ifAllowed ok i f s) := by
  unfold ifAllowed
  exact Only.ite hf ((Only.refl _ s).andThen (noticeNow_only ..) hl)

theorem applyEdge_only (i : EdgeItem) (s : State) : Only [.free, .sys, .pd0, .nor, .act, .shd, .host, .safe, .time, .gnss, .pos, .impl, .fe, .map, .vdr, .pwu, .ce, .pif, .lsw, .can, .sec] s (applyEdge i s) := by
  unfold applyEdge
  split
  · exact ifAllowed_only _ _ _ _ ((Only.refl _ s).andThen (enterArmed_only ..) (by decide)) (by decide)
  · exact ifAllowed_only _ _ _ _ ((Only.refl _ s).andThen (enterManual_only ..) (by decide)) (by decide)
  · exact ifAllowed_only _ _ _ _ ((Only.refl _ s).andThen (enterStandby_only ..) (by decide)) (by decide)
  · exact ifAllowed_only _ _ _ _ ((Only.refl _ s).andThen (enterStandby_only ..) (by decide)) (by decide)
  · exact (Only.refl _ s).andThen (applyCommit_only ..) (by decide)
  · exact ((Only.refl _ s).andThen (applyImpl_only ..) (by decide)).andThen (commitPhases_only ..) (by decide)
  · exact (Only.refl _ s).andThen (applySubscribe_only ..) (by decide)
  · exact (Only.refl _ s).andThen (applyClear_only ..) (by decide)
  · exact (Only.refl _ s).andThen (applyImport_only ..) (by decide)
  · exact (Only.refl _ s).andThen (fixExport_only ..) (by decide)
  · exact (Only.refl _ s).andThen (modLoop_only ..) (by decide)
  · exact (Only.refl _ s).andThen (modLoop_only ..) (by decide)
  · exact (Only.refl _ s).andThen (applyLoopReset_only ..) (by decide)
  · exact (Only.refl _ s).andThen (applyLswSet_only ..) (by decide)
  · exact (Only.refl _ s).andThen (applyLswResume_only ..) (by decide)
  · exact (Only.refl _ s).andThen (writeDuty_only ..) (by decide)
  · exact (Only.refl _ s).andThen (applyEncSet_only ..) (by decide)
  · exact (Only.refl _ s).andThen (applyFilter_only ..) (by decide)

theorem applyEdges_only (e : Tick) (n : Nat) (s : State) : Only [.free, .sys, .pd0, .nor, .act, .shd, .host, .safe, .time, .gnss, .pos, .impl, .fe, .map, .vdr, .pwu, .ce, .pif, .lsw, .can, .sec] s (applyEdges e n s) := by
  induction n generalizing s with
  | zero => exact Only.refl _ _
  | succ n ih =>
    unfold applyEdges
    split
    · exact Only.refl _ _
    · exact (((Only.refl _ s).andThen (State.onSys_only _ _) (by decide)).andThen (applyEdge_only ..) (by decide)).andThen (ih _)
        (by decide)

theorem switchImage_only (e : Tick) (i : Fin 5) (s : State) : Only [.pd0, .gnss, .sec] s (switchImage e i s) := by
  unfold switchImage
  try extract_lets
  repeat' first
    | with_reducible exact Only.refl _ _
    | with_reducible refine Only.ite ?_ ?_
    | (guard_target = Only _ _ (extend ..); with_reducible refine Only.andThen ?_ (extend_only ..) (by decide))
    | (guard_target = Only _ _ (modImage ..); with_reducible refine Only.andThen ?_ (modImage_only ..) (by decide))
    | (guard_target = Only _ _ (State.onPd0 ..); with_reducible refine Only.andThen ?_ (State.onPd0_only _ _) (by decide))
    | (guard_target = Only _ _ (State.onGnss ..); with_reducible refine Only.andThen ?_ (State.onGnss_only _ _) (by decide))
    | extract_lets
    | dsimp only
    | split
    | dsimp +zetaDelta only

theorem commandRestart_only (el : Element) (s : State) : Only [.free, .sys, .pwr, .host, .safe, .gnss, .fe, .ths] s (commandRestart el s) := by
  unfold commandRestart
  try extract_lets
  repeat' first
    | with_reducible exact Only.refl _ _
    | with_reducible refine Only.ite ?_ ?_
    | (guard_target = Only _ _ (flushCrossing ..); with_reducible refine Only.andThen ?_ (flushCrossing_only ..) (by decide))
    | (guard_target = Only _ _ (modElem ..); with_reducible refine Only.andThen ?_ (modElem_only ..) (by decide))
    | (guard_target = Only _ _ (resetElement ..); with_reducible refine Only.andThen ?_ (resetElement_only ..) (by decide))
    | extract_lets
    | dsimp only
    | split
    | dsimp +zetaDelta only

theorem restartInCoast_only (el : Element) (s : State) : Only [.free, .sys, .pwr, .pd0, .host, .safe, .gnss, .fe, .map, .lsw, .ths] s (restartInCoast el s) := by
  unfold restartInCoast
  try extract_lets
  repeat' first
    | with_reducible exact Only.refl _ _
    | with_reducible refine Only.ite ?_ ?_
    | (guard_target = Only _ _ (commandRestart ..); with_reducible refine Only.andThen ?_ (commandRestart_only ..) (by decide))
    | (guard_target = Only _ _ (enterCoast ..); with_reducible refine Only.andThen ?_ (enterCoast_only ..) (by decide))
    | extract_lets
    | dsimp only
    | split
    | dsimp +zetaDelta only

theorem switchElement_only (i : Fin 5) (s : State) : Only [.free, .sys, .pwr, .pd0, .host, .safe, .gnss, .fe, .map, .ce, .lsw, .ths] s (switchElement i s) := by
  unfold switchElement
  try extract_lets
  repeat' first
    | with_reducible exact Only.refl _ _
    | with_reducible refine Only.ite ?_ ?_
    | (guard_target = Only _ _ (flushCrossing ..); with_reducible refine Only.andThen ?_ (flushCrossing_only ..) (by decide))
    | (guard_target = Only _ _ (modElem ..); with_reducible refine Only.andThen ?_ (modElem_only ..) (by decide))
    | (guard_target = Only _ _ (resetElement ..); with_reducible refine Only.andThen ?_ (resetElement_only ..) (by decide))
    | (guard_target = Only _ _ (restartInCoast ..); with_reducible refine Only.andThen ?_ (restartInCoast_only ..) (by decide))
    | (guard_target = Only _ _ (restartLoops ..); with_reducible refine Only.andThen ?_ (restartLoops_only ..) (by decide))
    | extract_lets
    | dsimp only
    | split
    | dsimp +zetaDelta only

theorem activationEdge_only (e : Tick) (s : State) : Only [.free, .sys, .pwr, .pd0, .host, .safe, .gnss, .fe, .map, .ce, .lsw, .ths, .sec] s (activationEdge e s) := by
  unfold activationEdge
  try extract_lets
  repeat' first
    | with_reducible exact Only.refl _ _
    | with_reducible refine Only.ite ?_ ?_
    | (guard_target = Only _ _ (switchElement ..); with_reducible refine Only.andThen ?_ (switchElement_only ..) (by decide))
    | (guard_target = Only _ _ (switchImage ..); with_reducible refine Only.andThen ?_ (switchImage_only ..) (by decide))
    | (guard_target = Only _ _ (State.onSec ..); with_reducible refine Only.andThen ?_ (State.onSec_only _ _) (by decide))
    | with_reducible refine Only.foldl (fun _ _ => ?_) ?_
    | with_reducible refine Only.foldlFst (fun _ _ _ => ?_) ?_
    | extract_lets
    | dsimp only
    | split
    | dsimp +zetaDelta only

theorem settleActivation_only (e : Tick) (s : State) : Only [.sec] s (settleActivation e s) := by
  unfold settleActivation
  try extract_lets
  repeat' first
    | with_reducible exact Only.refl _ _
    | with_reducible refine Only.ite ?_ ?_
    | (guard_target = Only _ _ (State.onSec ..); with_reducible refine Only.andThen ?_ (State.onSec_only _ _) (by decide))

theorem activationDone_only (s : State) : Only [.sys, .host, .sec] s (activationDone s) := by
  unfold activationDone
  try extract_lets
  repeat' first
    | with_reducible exact Only.refl _ _
    | with_reducible refine Only.ite ?_ ?_
    | (guard_target = Only _ _ (noticeAt ..); with_reducible refine Only.andThen ?_ (noticeAt_only ..) (by decide))
    | (guard_target = Only _ _ (State.onSec ..); with_reducible refine Only.andThen ?_ (State.onSec_only _ _) (by decide))
    | extract_lets
    | dsimp only
    | split

theorem edgeStates_only (e : Tick) (s : State) : Only [.free, .sys, .pwr, .pd0, .nor, .act, .shd, .host, .safe, .time, .gnss, .pos, .impl, .fe, .map, .vdr, .pwu, .ce, .pif, .lsw, .can, .sec] s (edgeStates e s) := by
  unfold edgeStates
  try extract_lets
  repeat' first
    | with_reducible exact Only.refl _ _
    | with_reducible refine Only.ite ?_ ?_
    | (guard_target = Only _ _ (applyEdges ..); with_reducible refine Only.andThen ?_ (applyEdges_only ..) (by decide))
    | (guard_target = Only _ _ (cleanFrames ..); with_reducible refine Only.andThen ?_ (cleanFrames_only ..) (by decide))
    | (guard_target = Only _ _ (coastReturn ..); with_reducible refine Only.andThen ?_ (coastReturn_only ..) (by decide))
    | (guard_target = Only _ _ (groundAtEdge ..); with_reducible refine Only.andThen ?_ (groundAtEdge_only ..) (by decide))
    | (guard_target = Only _ _ (quarantineAtEdge ..); with_reducible refine Only.andThen ?_ (quarantineAtEdge_only ..) (by decide))
    | (guard_target = Only _ _ (safeInAtEdge ..); with_reducible refine Only.andThen ?_ (safeInAtEdge_only ..) (by decide))
    | (guard_target = Only _ _ (vkeyAtEdge ..); with_reducible refine Only.andThen ?_ (vkeyAtEdge_only ..) (by decide))
    | extract_lets
    | dsimp only
    | split
    | dsimp +zetaDelta only

theorem stopFreeze_only (s : State) : Only [.fe] s (stopFreeze s) := by
  unfold stopFreeze
  try extract_lets
  repeat' first
    | with_reducible exact Only.refl _ _
    | with_reducible refine Only.ite ?_ ?_
    | (guard_target = Only _ _ (State.onFe ..); with_reducible refine Only.andThen ?_ (State.onFe_only _ _) (by decide))

theorem lswFreeze_only (f : Freeze) (s : State) : Only [.lsw] s (lswFreeze f s) := by
  unfold lswFreeze
  try extract_lets
  repeat' first
    | with_reducible exact Only.refl _ _
    | with_reducible refine Only.ite ?_ ?_
    | (guard_target = Only _ _ (State.onLsw ..); with_reducible refine Only.andThen ?_ (State.onLsw_only _ _) (by decide))

theorem maskEdge_only (s : State) : Only [.sys, .host, .map] s (maskEdge s) := by
  unfold maskEdge
  try extract_lets
  repeat' first
    | with_reducible exact Only.refl _ _
    | with_reducible refine Only.ite ?_ ?_
    | (guard_target = Only _ _ (noteRetired ..); with_reducible refine Only.andThen ?_ (noteRetired_only ..) (by decide))
    | (guard_target = Only _ _ (State.onMap ..); with_reducible refine Only.andThen ?_ (State.onMap_only _ _) (by decide))
    | extract_lets
    | dsimp only
    | split
    | dsimp +zetaDelta only

theorem flowEdge_only (e : Tick) (s : State) : Only [.fe, .ce] s (flowEdge e s) := by
  unfold flowEdge
  try extract_lets
  repeat' first
    | with_reducible exact Only.refl _ _
    | with_reducible refine Only.ite ?_ ?_
    | (guard_target = Only _ _ (flowFreeze ..); with_reducible refine Only.andThen ?_ (flowFreeze_only ..) (by decide))
    | (guard_target = Only _ _ (State.onFe ..); with_reducible refine Only.andThen ?_ (State.onFe_only _ _) (by decide))
    | with_reducible refine Only.foldl (fun _ _ => ?_) ?_

theorem bkoError_only (s : State) : Only [.time] s (bkoError s) := by
  unfold bkoError
  try extract_lets
  repeat' first
    | with_reducible exact Only.refl _ _
    | with_reducible refine Only.ite ?_ ?_
    | (guard_target = Only _ _ (State.onTime ..); with_reducible refine Only.andThen ?_ (State.onTime_only _ _) (by decide))

theorem laneEnd_only (e : Tick) (s : State) : Only [.free, .sys, .pwr, .pd0, .host, .safe, .gnss, .fe, .map, .vdr, .pwu, .lsw, .ths, .can, .sec] s (laneEnd e s) := by
  unfold laneEnd
  refine Only.ite ?_ (Only.refl _ _)
  have h1 : Only [.free, .sys, .pwr, .pd0, .host, .safe, .gnss, .fe, .map, .vdr, .pwu, .lsw, .ths, .can, .sec] s (s.onFe fun f => { f with batch := none, work := none }) :=
    (Only.refl _ _).andThen (State.onFe_only _ _) (by decide)
  exact h1.andThen (asAt_only _ (elementFault_only ..)) (by decide)

theorem feBegin_only (e : Tick) (s : State) : Only [.fe] s (feBegin e s) := by
  unfold feBegin
  try extract_lets
  repeat' first
    | with_reducible exact Only.refl _ _
    | with_reducible refine Only.ite ?_ ?_
    | (guard_target = Only _ _ (State.onFe ..); with_reducible refine Only.andThen ?_ (State.onFe_only _ _) (by decide))
    | extract_lets
    | dsimp only
    | split
    | dsimp +zetaDelta only

theorem lastFrameEnd_only (e : Tick) (s : State) : Only [.free, .sys, .pwr, .pd0, .host, .safe, .gnss, .fe, .map, .vdr, .pwu, .lsw, .ths, .can, .sec] s (lastFrameEnd e s) := by
  unfold lastFrameEnd
  try extract_lets
  repeat' first
    | with_reducible exact Only.refl _ _
    | with_reducible refine Only.ite ?_ ?_
    | (guard_target = Only _ _ (finishMigration ..); with_reducible refine Only.andThen ?_ (finishMigration_only ..) (by decide))
    | (guard_target = Only _ _ (laneEnd ..); with_reducible refine Only.andThen ?_ (laneEnd_only ..) (by decide))
    | extract_lets
    | dsimp only
    | split
    | dsimp +zetaDelta only

theorem freezeFrame_only (e : Tick) (f : Freeze) (s0 : State) : Only [.sys, .pwr, .pd0, .act, .shd, .host, .gnss, .pos, .impl, .fe, .map, .vdr, .ce, .pif, .lsw, .can] s0 (freezeFrame e f s0) := by
  unfold freezeFrame
  try extract_lets
  repeat' first
    | with_reducible exact Only.refl _ _
    | with_reducible refine Only.ite ?_ ?_
    | (guard_target = Only _ _ (acqNext ..); with_reducible refine Only.andThen ?_ (acqNext_only ..) (by decide))
    | (guard_target = Only _ _ (closeLedger ..); with_reducible refine Only.andThen ?_ (closeLedger_only ..) (by decide))
    | (guard_target = Only _ _ (directedFreeze ..); with_reducible refine Only.andThen ?_ (directedFreeze_only ..) (by decide))
    | (guard_target = Only _ _ (emuAtEdge ..); with_reducible refine Only.andThen ?_ (emuAtEdge_only ..) (by decide))
    | (guard_target = Only _ _ (feBegin ..); with_reducible refine Only.andThen ?_ (feBegin_only ..) (by decide))
    | (guard_target = Only _ _ (flowEdge ..); with_reducible refine Only.andThen ?_ (flowEdge_only ..) (by decide))
    | (guard_target = Only _ _ (implFreeze ..); with_reducible refine Only.andThen ?_ (implFreeze_only ..) (by decide))
    | (guard_target = Only _ _ (lswFreeze ..); with_reducible refine Only.andThen ?_ (lswFreeze_only ..) (by decide))
    | (guard_target = Only _ _ (maskEdge ..); with_reducible refine Only.andThen ?_ (maskEdge_only ..) (by decide))
    | (guard_target = Only _ _ (pifFreeze ..); with_reducible refine Only.andThen ?_ (pifFreeze_only ..) (by decide))
    | (guard_target = Only _ _ (poolLow ..); with_reducible refine Only.andThen ?_ (poolLow_only ..) (by decide))
    | (guard_target = Only _ _ (posFreeze ..); with_reducible refine Only.andThen ?_ (posFreeze_only ..) (by decide))
    | (guard_target = Only _ _ (rowFreeze ..); with_reducible refine Only.andThen ?_ (rowFreeze_only ..) (by decide))
    | (guard_target = Only _ _ (snapshotExport ..); with_reducible refine Only.andThen ?_ (snapshotExport_only ..) (by decide))
    | (guard_target = Only _ _ (stopFreeze ..); with_reducible refine Only.andThen ?_ (stopFreeze_only ..) (by decide))
    | (guard_target = Only _ _ (zeroPages ..); with_reducible refine Only.andThen ?_ (zeroPages_only ..) (by decide))
    | (guard_target = Only _ _ (State.onMap ..); with_reducible refine Only.andThen ?_ (State.onMap_only _ _) (by decide))
    | extract_lets
    | dsimp only
    | split
    | dsimp +zetaDelta only

theorem execFrameEdge_only (f : Freeze) (s : State) : OnlyR [.free, .sys, .pwr, .pd0, .nor, .act, .shd, .host, .safe, .time, .gnss, .pos, .impl, .fe, .map, .vdr, .pwu, .ce, .pif, .lsw, .ths, .can, .sec] s (execFrameEdge f s) := by
  unfold execFrameEdge
  try extract_lets
  repeat' first
    | with_reducible exact Only.refl _ _
    | with_reducible refine OnlyR.next ?_
    | refine OnlyR.ite ?_ ?_
    | with_reducible refine Only.ite ?_ ?_
    | (guard_target = Only _ _ (activationEdge ..); with_reducible refine Only.andThen ?_ (activationEdge_only ..) (by decide))
    | (guard_target = Only _ _ (bkoError ..); with_reducible refine Only.andThen ?_ (bkoError_only ..) (by decide))
    | (guard_target = Only _ _ (edgeStates ..); with_reducible refine Only.andThen ?_ (edgeStates_only ..) (by decide))
    | (guard_target = Only _ _ (freezeFrame ..); with_reducible refine Only.andThen ?_ (freezeFrame_only ..) (by decide))
    | (guard_target = Only _ _ (lastFrameEnd ..); with_reducible refine Only.andThen ?_ (lastFrameEnd_only ..) (by decide))
    | (guard_target = Only _ _ (settleActivation ..); with_reducible refine Only.andThen ?_ (settleActivation_only ..) (by decide))
    | (guard_target = Only _ _ (toggleFaultOut ..); with_reducible refine Only.andThen ?_ (toggleFaultOut_only ..) (by decide))
    | (guard_target = Only _ _ (trigSource ..); with_reducible refine Only.andThen ?_ (trigSource_only ..) (by decide))
    | (guard_target = Only _ _ (State.onSys ..); with_reducible refine Only.andThen ?_ (State.onSys_only _ _) (by decide))
    | (guard_target = Only _ _ (State.onLsw ..); with_reducible refine Only.andThen ?_ (State.onLsw_only _ _) (by decide))
    | extract_lets
    | dsimp only
    | split
    | dsimp +zetaDelta only

theorem commitEvents_only (b : Batch) (s : State) : Only [.sys, .host, .fe, .vdr, .can] s (commitEvents b s).1 := by
  unfold commitEvents
  try extract_lets
  repeat' first
    | with_reducible exact Only.refl _ _
    | with_reducible refine Only.iteFst ?_ ?_
    | with_reducible refine Only.ite ?_ ?_
    | (guard_target = Only _ _ (enqueueEv ..); with_reducible refine Only.andThen ?_ (enqueueEv_only ..) (by decide))
    | (guard_target = Only _ _ (noticeAt ..); with_reducible refine Only.andThen ?_ (noticeAt_only ..) (by decide))
    | (guard_target = Only _ _ (rowCommands ..).1; with_reducible refine Only.andThen ?_ (rowCommands_only ..) (by decide))
    | (guard_target = Only _ _ (State.onFe ..); with_reducible refine Only.andThen ?_ (State.onFe_only _ _) (by decide))
    | with_reducible refine Only.foldl (fun _ _ => ?_) ?_
    | with_reducible refine Only.foldlFst (fun _ _ _ => ?_) ?_
    | extract_lets
    | dsimp only
    | split
    | dsimp +zetaDelta only

theorem commitBatch_only (b : Batch) (s : State) : Only [.sys, .pd0, .host, .fe, .map, .vdr, .pwu, .can] s (commitBatch b s) := by
  unfold commitBatch
  try extract_lets
  repeat' first
    | with_reducible exact Only.refl _ _
    | with_reducible refine Only.ite ?_ ?_
    | (guard_target = Only _ _ (applyPaints ..).1; with_reducible refine Only.andThen ?_ (applyPaints_only ..) (by decide))
    | (guard_target = Only _ _ (commitEvents ..).1; with_reducible refine Only.andThen ?_ (commitEvents_only ..) (by decide))
    | (guard_target = Only _ _ (noticeAt ..); with_reducible refine Only.andThen ?_ (noticeAt_only ..) (by decide))
    | (guard_target = Only _ _ (paintGap ..); with_reducible refine Only.andThen ?_ (paintGap_only ..) (by decide))
    | (guard_target = Only _ _ (writeDuty ..); with_reducible refine Only.andThen ?_ (writeDuty_only ..) (by decide))
    | (guard_target = Only _ _ (State.onFe ..); with_reducible refine Only.andThen ?_ (State.onFe_only _ _) (by decide))
    | (guard_target = Only _ _ (State.onVdr ..); with_reducible refine Only.andThen ?_ (State.onVdr_only _ _) (by decide))
    | with_reducible refine Only.foldl (fun _ _ => ?_) ?_
    | with_reducible refine Only.foldlFst (fun _ _ _ => ?_) ?_
    | extract_lets
    | dsimp only
    | split

theorem fieldClean_only (e : Tick) (s : State) : Only [.sys, .pd0, .host, .safe, .sec] s (fieldClean e s) := by
  unfold fieldClean
  try extract_lets
  repeat' first
    | with_reducible exact Only.refl _ _
    | with_reducible refine Only.ite ?_ ?_
    | (guard_target = Only _ _ (markElement ..); with_reducible refine Only.andThen ?_ (markElement_only ..) (by decide))
    | (guard_target = Only _ _ (State.onSec ..); with_reducible refine Only.andThen ?_ (State.onSec_only _ _) (by decide))

theorem execCommitPhase_only (agree : Bool) (s : State) : OnlyR [.sys, .pd0, .host, .safe, .fe, .map, .vdr, .pwu, .can, .sec] s (execCommitPhase agree s) := by
  unfold execCommitPhase
  try extract_lets
  repeat' first
    | with_reducible exact Only.refl _ _
    | with_reducible refine OnlyR.next ?_
    | refine OnlyR.ite ?_ ?_
    | with_reducible refine Only.ite ?_ ?_
    | (guard_target = Only _ _ (commitBatch ..); with_reducible refine Only.andThen ?_ (commitBatch_only ..) (by decide))
    | (guard_target = Only _ _ (fieldClean ..); with_reducible refine Only.andThen ?_ (fieldClean_only ..) (by decide))
    | (guard_target = Only _ _ (State.onSys ..); with_reducible refine Only.andThen ?_ (State.onSys_only _ _) (by decide))
    | (guard_target = Only _ _ (State.onFe ..); with_reducible refine Only.andThen ?_ (State.onFe_only _ _) (by decide))
    | extract_lets
    | dsimp only
    | split
    | dsimp +zetaDelta only

theorem deliver_only (e : Tick) (p : Port) (k : Fin 16) (s : State) : Only [.host] s (deliver e p k s) := by
  unfold deliver
  try extract_lets
  repeat' first
    | with_reducible exact Only.refl _ _
    | with_reducible refine Only.ite ?_ ?_
    | (guard_target = Only _ _ (modPort ..); with_reducible refine Only.andThen ?_ (modPort_only ..) (by decide))

theorem telemetry_only (e : Tick) (s : State) : Only [.host] s (telemetry e s) := by
  unfold telemetry
  try extract_lets
  repeat' first
    | with_reducible exact Only.refl _ _
    | with_reducible refine Only.ite ?_ ?_
    | (guard_target = Only _ _ (deliver ..); with_reducible refine Only.andThen ?_ (deliver_only ..) (by decide))
    | with_reducible refine Only.foldl (fun _ _ => ?_) ?_

theorem execLoggingPhase_only (s : State) : OnlyR [.free, .sys, .pwr, .pd0, .host, .safe, .time, .gnss, .fe, .map, .vdr, .pwu, .pif, .lsw, .ths, .can, .sec] s (execLoggingPhase s) := by
  unfold execLoggingPhase
  try extract_lets
  repeat' first
    | with_reducible exact Only.refl _ _
    | with_reducible refine OnlyR.next ?_
    | refine OnlyR.ite ?_ ?_
    | with_reducible refine Only.ite ?_ ?_
    | (guard_target = Only _ _ (activationDone ..); with_reducible refine Only.andThen ?_ (activationDone_only ..) (by decide))
    | (guard_target = Only _ _ (eventNotices ..); with_reducible refine Only.andThen ?_ (eventNotices_only ..) (by decide))
    | (guard_target = Only _ _ (flushNotices ..); with_reducible refine Only.andThen ?_ (flushNotices_only ..) (by decide))
    | (guard_target = Only _ _ (laneEnd ..); with_reducible refine Only.andThen ?_ (laneEnd_only ..) (by decide))
    | (guard_target = Only _ _ (reportCoast ..); with_reducible refine Only.andThen ?_ (reportCoast_only ..) (by decide))
    | (guard_target = Only _ _ (rxNotices ..); with_reducible refine Only.andThen ?_ (rxNotices_only ..) (by decide))
    | (guard_target = Only _ _ (sendTimeMessages ..); with_reducible refine Only.andThen ?_ (sendTimeMessages_only ..) (by decide))
    | (guard_target = Only _ _ (startMigration ..); with_reducible refine Only.andThen ?_ (startMigration_only ..) (by decide))
    | (guard_target = Only _ _ (telemetry ..); with_reducible refine Only.andThen ?_ (telemetry_only ..) (by decide))
    | (guard_target = Only _ _ (writeLog ..); with_reducible refine Only.andThen ?_ (writeLog_only ..) (by decide))
    | (guard_target = Only _ _ (State.onSys ..); with_reducible refine Only.andThen ?_ (State.onSys_only _ _) (by decide))
    | (guard_target = Only _ _ (State.onFe ..); with_reducible refine Only.andThen ?_ (State.onFe_only _ _) (by decide))
    | with_reducible refine Only.foldl (fun _ _ => ?_) ?_
    | with_reducible refine Only.foldlFst (fun _ _ _ => ?_) ?_
    | extract_lets
    | dsimp only
    | split
    | dsimp +zetaDelta only

theorem afterRestart_only (el : Element) (s : State) : Only [.free, .sys, .pd0, .shd, .host, .time, .gnss, .impl, .fe, .map, .vdr, .pwu, .ce, .pif, .lsw, .ths, .can, .sec] s (afterRestart el s) := by
  unfold afterRestart
  try extract_lets
  repeat' first
    | with_reducible exact Only.refl _ _
    | with_reducible refine Only.ite ?_ ?_
    | (guard_target = Only _ _ (drainStage ..); with_reducible refine Only.andThen ?_ (drainStage_only ..) (by decide))
    | (guard_target = Only _ _ (feStart ..); with_reducible refine Only.andThen ?_ (feStart_only ..) (by decide))
    | (guard_target = Only _ _ (restartLoops ..); with_reducible refine Only.andThen ?_ (restartLoops_only ..) (by decide))
    | (guard_target = Only _ _ (runHeld ..); with_reducible refine Only.andThen ?_ (runHeld_only ..) (by decide))
    | (guard_target = Only _ _ (State.onThs ..); with_reducible refine Only.andThen ?_ (State.onThs_only _ _) (by decide))
    | extract_lets
    | dsimp only
    | split
    | dsimp +zetaDelta only

theorem execElementRestartComplete_only (el : Element) (s : State) : OnlyR [.free, .sys, .pd0, .shd, .host, .safe, .time, .gnss, .impl, .fe, .map, .vdr, .pwu, .ce, .pif, .lsw, .ths, .can, .sec] s (execElementRestartComplete el s) := by
  unfold execElementRestartComplete
  try extract_lets
  repeat' first
    | with_reducible exact Only.refl _ _
    | with_reducible refine OnlyR.next ?_
    | refine OnlyR.ite ?_ ?_
    | with_reducible refine Only.ite ?_ ?_
    | (guard_target = Only _ _ (afterRestart ..); with_reducible refine Only.andThen ?_ (afterRestart_only ..) (by decide))
    | (guard_target = Only _ _ (modElem ..); with_reducible refine Only.andThen ?_ (modElem_only ..) (by decide))
    | extract_lets
    | dsimp only
    | split
    | dsimp +zetaDelta only

end Sys2Proof.Machine
end

