-- ==== Sys2Proof/Laws/TickOnly.lean ====
section
/-! SUPPORT. What the operations of Machine/Tick.lean may change: for each the parts beyond which nothing moves. -/

set_option Elab.async false

namespace Sys2Proof.Machine

theorem tunnelSend_only (s : State) : Only [.host, .can] s (tunnelSend s) := by
  unfold tunnelSend
  try extract_lets
  repeat' first
    | with_reducible exact Only.refl _ _
    | with_reducible refine Only.ite ?_ ?_
    | (guard_target = Only _ _ (loadSlot ..); with_reducible refine Only.andThen ?_ (loadSlot_only ..) (by decide))
    | (guard_target = Only _ _ (modPort ..); with_reducible refine Only.andThen ?_ (modPort_only ..) (by decide))
    | extract_lets
    | dsimp only
    | split

theorem runClocks_only (s : State) : Only [.pm, .pd0] s (runClocks s) := by
  unfold runClocks
  try extract_lets
  repeat' first
    | with_reducible exact Only.refl _ _
    | with_reducible refine Only.ite ?_ ?_
    | with_reducible refine Only.andThen ?_ (State.pm_only _ _) (by decide)
    | with_reducible refine Only.andThen ?_ (State.pd0_only _ _) (by decide)
    | exact ⟨fun p hp => by cases p <;> first | rfl | exact absurd (by decide) hp⟩

theorem sendPorts_only (s : State) : Only [.host] s (sendPorts s) := by
  unfold sendPorts
  try extract_lets
  repeat' first
    | with_reducible exact Only.refl _ _
    | with_reducible refine Only.ite ?_ ?_
    | (guard_target = Only _ _ (State.onHost ..); with_reducible refine Only.andThen ?_ (State.onHost_only _ _) (by decide))

theorem tick_only (s : State) : Only [.pm, .pd0, .host, .can] s (tick s) := by
  unfold tick
  try extract_lets
  repeat' first
    | with_reducible exact Only.refl _ _
    | with_reducible refine Only.ite ?_ ?_
    | (guard_target = Only _ _ (runClocks ..); with_reducible refine Only.andThen ?_ (runClocks_only ..) (by decide))
    | (guard_target = Only _ _ (sendPorts ..); with_reducible refine Only.andThen ?_ (sendPorts_only ..) (by decide))
    | (guard_target = Only _ _ (tunnelSend ..); with_reducible refine Only.andThen ?_ (tunnelSend_only ..) (by decide))

end Sys2Proof.Machine
end

