-- ==== Sys2Proof/Laws/Inv.lean ====
section
/-! SUPPORT. `Inv`: how it goes through choices, folds and the update of one part. -/

set_option Elab.async false

namespace Sys2Proof.Machine

variable {s t : State}

theorem Inv.ofOnly {l : List Part} (h : Inv s) (k : Only l s t)
    (hl : Part.pd0 ∉ l ∧ Part.nor ∉ l ∧ Part.host ∉ l ∧ Part.map ∉ l := by decide) : Inv t := by
  obtain ⟨h1, h2, h3, h4⟩ := hl
  have e1 : t.pd0 = s.pd0 := k.same _ h1
  have e2 : t.nor = s.nor := k.same _ h2
  have e3 : t.host = s.host := k.same _ h3
  have e4 : t.map = s.map := k.same _ h4
  exact ⟨e1 ▸ h.pd0, e2 ▸ h.nor, e3 ▸ h.host, e4 ▸ h.map⟩

theorem Inv.ite {c : Prop} [Decidable c] {a b : State} (ha : Inv a) (hb : Inv b) : Inv (if c then a else b) := by
  split <;> assumption

theorem Inv.iteFst {α : Type} {c : Prop} [Decidable c] {a b : State × α} (ha : Inv a.1) (hb : Inv b.1) :
    Inv (if c then a else b).1 := by split <;> assumption

theorem Inv.iteSnd {α : Type} {c : Prop} [Decidable c] {a b : α × State} (ha : Inv a.2) (hb : Inv b.2) :
    Inv (if c then a else b).2 := by split <;> assumption

theorem Inv.foldl {α : Type} {g : State → α → State} {x : List α} (hg : ∀ t a, Inv t → Inv (g t a)) (h : Inv s) :
    Inv (x.foldl g s) := by
  induction x generalizing s with
  | nil => exact h
  | cons a x ih => exact ih (hg s a h)

theorem Inv.foldlFst {α β : Type} {g : State × β → α → State × β} {x : List α} {b : β}
    (hg : ∀ t b a, Inv t → Inv (g (t, b) a).1) (h : Inv s) : Inv (x.foldl g (s, b)).1 := by
  induction x generalizing s b with
  | nil => exact h
  | cons a x ih => exact ih (b := (g (s, b) a).2) (hg s b a h)

theorem Inv.onPd0 {f : Pd0St → Pd0St} (h : Inv s) (hf : ∀ d, d.faultLog.length ≤ 64 → (f d).faultLog.length ≤ 64) : Inv (s.onPd0 f) :=
  ⟨hf _ h.pd0, h.nor, h.host, h.map⟩

theorem Inv.onNor {f : NorSt → NorSt} (h : Inv s) (hf : ∀ d, d.faultLog.length ≤ 64 → (f d).faultLog.length ≤ 64) : Inv (s.onNor f) :=
  ⟨h.pd0, hf _ h.nor, h.host, h.map⟩

theorem Inv.onHost {f : HostSt → HostSt} (h : Inv s) (hf : ∀ d, HostInv d → HostInv (f d)) : Inv (s.onHost f) :=
  ⟨h.pd0, h.nor, hf _ h.host, h.map⟩

theorem Inv.onMap {f : MapSt → MapSt} (h : Inv s) (hf : ∀ d, MapInv d → MapInv (f d)) : Inv (s.onMap f) :=
  ⟨h.pd0, h.nor, h.host, hf _ h.map⟩

theorem HostInv.vmap {h : HostSt} {f : PortSt → PortSt} (hf : ∀ q, PortInv q → PortInv (f q)) (hh : HostInv h) :
    HostInv { h with port := vmap h.port f } := by
  intro p
  simp only [Sys2Proof.Machine.vmap, Fin.getElem_fin, Vector.getElem_ofFn]
  exact hf _ (hh p)

theorem HostInv.vmod {h : HostSt} {k : Fin 3} {f : PortSt → PortSt} (hf : ∀ q, PortInv q → PortInv (f q)) (hh : HostInv h) :
    HostInv { h with port := vmod h.port k f } := by
  intro p
  simp only [Sys2Proof.Machine.vmod, Fin.getElem_fin, Vector.getElem_set]
  split
  · exact hf _ (hh k)
  · exact hh p

theorem HostInv.fresh : HostInv {} := by
  intro p
  simp only [Fin.getElem_fin, Vector.getElem_replicate]
  exact ⟨by decide, by decide, by decide, by decide⟩

theorem MapInv.fresh : MapInv {} := ⟨by decide, by decide, by decide, fun h => absurd rfl h⟩

/-- The same of an answered step. -/
def InvR (r : Result) : Prop := ∀ t, r = .next t → Inv t

theorem InvR.next {a : State} (h : Inv a) : InvR (.next a) := fun _ e => by cases e; exact h

theorem InvR.ite {c : Prop} [Decidable c] {a b : Result} (ha : InvR a) (hb : InvR b) : InvR (if c then a else b) := by
  split <;> assumption

end Sys2Proof.Machine
end

