-- ==== Sys2Proof/Laws/OpsInv.lean ====
section
/-! SUPPORT. What the operations of Machine/Ops.lean keep: the invariant `Inv`. -/

set_option Elab.async false

namespace Sys2Proof.Machine

/-- What is done at an earlier instant keeps what it keeps there. -/
theorem asAt_inv (t : Tick) {f : State → State} {s : State} (hf : ∀ u, Inv u → Inv (f u)) (hI : Inv s) : Inv (asAt t f s) := by
  have h := hf _ (hI.ofOnly (State.pm_only s t))
  exact ⟨h.pd0, h.nor, h.host, h.map⟩

theorem PortSt.take_inv (n : Notice) (now : Tick) {q : PortSt} (h : PortInv q) : PortInv (q.take now n) := by
  unfold PortSt.take
  split
  · refine ⟨h.1, h.2.1, h.2.2.1, ?_⟩
    simpa [noticesSize] using ‹noticesSize q.notices + n.size ≤ 16384›
  · exact h

theorem queueNotice_inv (n : Notice) {s : State} (h : Inv s) : Inv (queueNotice n s) := by
  refine Inv.onHost h fun d hd p => ?_
  simp only [vmapIdx, Fin.getElem_fin, Vector.getElem_ofFn]
  split
  · exact PortSt.take_inv n s.pm (hd p)
  · exact hd p

theorem noticeAt_inv (b : Block) (code idx : Nat) (pm : Tick) (body : List Byte) {s : State} (hI : Inv s) : Inv (noticeAt b code idx pm body s) := by
  unfold noticeAt
  try extract_lets
  repeat' first
    | with_reducible assumption
    | with_reducible refine Inv.ite ?_ ?_
    | (guard_target = Inv (queueNotice ..); with_reducible apply queueNotice_inv)
    | (guard_target = Inv (State.onSys ..); with_reducible refine Inv.ofOnly ?_ (State.onSys_only ..))
    | extract_lets
    | dsimp only
    | split

theorem notice_inv (b : Block) (code idx : Nat) (body : List Byte) {s : State} (hI : Inv s) : Inv (notice b code idx body s) := by
  unfold notice
  try extract_lets
  repeat' first
    | with_reducible assumption
    | with_reducible refine Inv.ite ?_ ?_
    | (guard_target = Inv (noticeAt ..); with_reducible apply noticeAt_inv)

theorem noticeNow_inv (b : Block) (code idx : Nat) (pm : Tick) (body : List Byte) {s : State} (hI : Inv s) : Inv (noticeNow b code idx pm body s) := by
  unfold noticeNow
  try extract_lets
  repeat' first
    | with_reducible assumption
    | with_reducible refine Inv.ite ?_ ?_
    | (guard_target = Inv (queueNotice ..); with_reducible apply queueNotice_inv)

theorem flushNotices_inv  {s : State} (hI : Inv s) : Inv (flushNotices s) := by
  unfold flushNotices
  try extract_lets
  repeat' first
    | with_reducible assumption
    | with_reducible refine Inv.ite ?_ ?_
    | (guard_target = Inv (queueNotice ..); with_reducible apply queueNotice_inv)
    | (guard_target = Inv (State.onSys ..); with_reducible refine Inv.ofOnly ?_ (State.onSys_only ..))
    | with_reducible refine Inv.foldl (fun _ _ _ => ?_) ?_

theorem placeFault_length (f : FaultEntry) (l : List FaultEntry) : (placeFault f l).length = l.length + 1 := by
  induction l with
  | nil => rfl
  | cons g l ih => unfold placeFault; split <;> simp [ih]

theorem logFault_inv (cause : Nat) (b : Block) (index reaction restarts detail : Nat) {s : State} (hI : Inv s) : Inv (logFault cause b index reaction restarts detail s) := by
  unfold logFault
  try extract_lets
  repeat' first
    | with_reducible assumption
    | with_reducible refine Inv.ite ?_ ?_
    | (guard_target = Inv (notice ..); with_reducible apply notice_inv)
    | (guard_target = Inv (noticeNow ..); with_reducible apply noticeNow_inv)
    | (guard_target = Inv (State.onPd0 ..); refine Inv.onPd0 ?_ fun d hd => by simp only [List.length_map, List.length_take, placeFault_length]; omega)

theorem endFault_inv (cause index : Nat) {s : State} (hI : Inv s) : Inv (endFault cause index s) := by
  unfold endFault
  try extract_lets
  repeat' first
    | with_reducible assumption
    | with_reducible refine Inv.ite ?_ ?_
    | (guard_target = Inv (notice ..); with_reducible apply notice_inv)
    | (guard_target = Inv (State.onPd0 ..); refine Inv.onPd0 ?_ fun _ h => h)
    | (guard_target = Inv (State.onPd0 ..); refine Inv.onPd0 ?_ fun d hd => by simp only [List.length_map, List.length_take, List.length_cons]; omega)
    | with_reducible refine Inv.foldl (fun _ _ _ => ?_) ?_
    | with_reducible refine Inv.foldlFst (fun _ _ _ _ => ?_) ?_
    | extract_lets
    | dsimp only
    | split
    | dsimp +zetaDelta only

/-- Sealing: the open block may be full. -/
theorem sealBlock_inv_full {s : State} (h1 : s.pd0.faultLog.length ≤ 64) (h2 : s.nor.faultLog.length ≤ 64) (h3 : HostInv s.host)
    (h4 : s.map.stage.length ≤ 128) (h5 : s.map.ring.length ≤ 512) (h6 : s.map.log ≠ [] → s.map.ring.length < 512) :
    Inv (sealBlock s) := by
  unfold sealBlock
  split
  · exact ⟨h1, h2, h3, h4, by simp [*], h5, h6⟩
  · extract_lets b0 h b s1
    have hs : Inv s1 := by
      refine ⟨h1, h2, h3, h4, Nat.zero_lt_succ _, ?_, fun hn => absurd rfl hn⟩
      have := h6 ‹_›
      show (s.map.ring ++ [b]).length ≤ 512
      simp only [List.length_append, List.length_singleton]
      omega
    exact Inv.ite (notice_inv _ _ _ _ hs) hs

theorem sealBlock_inv {s : State} (h : Inv s) : Inv (sealBlock s) :=
  sealBlock_inv_full h.pd0 h.nor h.host h.map.1 h.map.2.2.1 h.map.2.2.2

theorem openBlock_inv {s : State} (h : Inv s) : Inv (openBlock s) ∧ (openBlock s).map.ring.length < 512 := by
  unfold openBlock
  split
  · refine ⟨h, ?_⟩
    rw [‹s.map.ring = []›]
    exact Nat.zero_lt_succ _
  · rename_i b bs hr
    have hl := h.map.2.2.1
    split
    · exact ⟨h, ‹_›⟩
    · extract_lets s1
      rw [hr, List.length_cons] at hl
      have hs : Inv s1 := ⟨h.pd0, h.nor, h.host, h.map.1, h.map.2.1, Nat.le_of_succ_le hl, fun _ => hl⟩
      refine ⟨Inv.ite hs (notice_inv _ _ _ _ hs), ?_⟩
      have hn : (notice .map 0x0B 0xFFFF [] s1).map = s1.map := (notice_only ..).same .map (by decide)
      split
      · exact hl
      · rw [hn]
        exact hl

theorem appendRecord_inv (r : BitVec 256) {s : State} (h : Inv s) : Inv (appendRecord r s) := by
  unfold appendRecord
  extract_lets s0 s1
  have h0 : Inv s0 ∧ s0.map.ring.length < 512 := by
    by_cases hl : s.map.log = []
    · have e : s0 = openBlock s := if_pos hl
      rw [e]
      exact openBlock_inv h
    · have e : s0 = s := if_neg hl
      rw [e]
      exact ⟨h, h.map.2.2.2 hl⟩
  split
  · exact sealBlock_inv_full h0.1.pd0 h0.1.nor h0.1.host h0.1.map.1 h0.1.map.2.2.1 fun _ => h0.2
  · rename_i hn
    exact ⟨h0.1.pd0, h0.1.nor, h0.1.host, h0.1.map.1, Nat.lt_of_not_le hn, h0.1.map.2.2.1, fun _ => h0.2⟩

theorem writeLog_inv (r : BitVec 256) {s : State} (hI : Inv s) : Inv (writeLog r s) := by
  have h := hI
  unfold writeLog
  refine Inv.ite h (Inv.ite ?_ (appendRecord_inv r h))
  split
  · refine ⟨h.pd0, h.nor, h.host, ?_, h.map.2⟩
    show (s.map.stage ++ [r]).length ≤ 128
    simp only [List.length_append, List.length_singleton]
    omega
  · exact h

theorem drainStage_inv  {s : State} (hI : Inv s) : Inv (drainStage s) := by
  have h := hI
  unfold drainStage
  exact Inv.foldl (fun _ _ ht => appendRecord_inv _ ht) ⟨h.pd0, h.nor, h.host, Nat.zero_le _, h.map.2⟩

theorem paintGap_inv (index reason : Nat) (first last count : Nat) {s : State} (hI : Inv s) : Inv (paintGap index reason first last count s) := by
  unfold paintGap
  try extract_lets
  repeat' first
    | with_reducible assumption
    | with_reducible refine Inv.ite ?_ ?_
    | (guard_target = Inv (writeLog ..); with_reducible apply writeLog_inv)

theorem cancelEdges_inv  {s : State} (hI : Inv s) : Inv (cancelEdges s) := by
  unfold cancelEdges
  try extract_lets
  repeat' first
    | with_reducible assumption
    | with_reducible refine Inv.ite ?_ ?_
    | (guard_target = Inv (noticeNow ..); with_reducible apply noticeNow_inv)
    | (guard_target = Inv (State.onSys ..); with_reducible refine Inv.ofOnly ?_ (State.onSys_only ..))
    | (guard_target = Inv (State.onLsw ..); with_reducible refine Inv.ofOnly ?_ (State.onLsw_only ..))
    | with_reducible refine Inv.foldl (fun _ _ _ => ?_) ?_
    | with_reducible refine Inv.foldlFst (fun _ _ _ _ => ?_) ?_
    | extract_lets
    | dsimp only
    | split
    | dsimp +zetaDelta only

end Sys2Proof.Machine
end

