-- ==== Sys2Proof/Laws/MapStoreInv.lean ====
section
/-! SUPPORT. What the operations of Machine/MapStore.lean keep: the invariant `Inv`. -/

set_option Elab.async false

namespace Sys2Proof.Machine

theorem onSwatch_inv (layer : Nat) (tx ty : Int) (f : Swatch → Swatch) {s : State} (hI : Inv s) : Inv (onSwatch layer tx ty f s) := by
  unfold onSwatch
  try extract_lets
  repeat' first
    | with_reducible assumption
    | with_reducible refine Inv.ite ?_ ?_
    | (guard_target = Inv (State.onMap ..); refine Inv.onMap ?_ fun _ h => h)

theorem onTint_inv (layer : Nat) (tx ty : Int) (f : Tint → Tint) {s : State} (hI : Inv s) : Inv (onTint layer tx ty f s) := by
  unfold onTint
  try extract_lets
  repeat' first
    | with_reducible assumption
    | with_reducible refine Inv.ite ?_ ?_
    | (guard_target = Inv (State.onMap ..); refine Inv.onMap ?_ fun _ h => h)

theorem poolLow_inv  {s : State} (hI : Inv s) : Inv (poolLow s) := by
  unfold poolLow
  try extract_lets
  repeat' first
    | with_reducible assumption
    | with_reducible refine Inv.ite ?_ ?_
    | (guard_target = Inv (notice ..); with_reducible apply notice_inv)
    | (guard_target = Inv (State.onMap ..); refine Inv.onMap ?_ fun _ h => h)
    | extract_lets
    | dsimp only
    | split
    | dsimp +zetaDelta only

theorem MapInv.ring {m : MapSt} (h : MapInv m) {r : List LogBlock} (hr : r.length = m.ring.length) : MapInv { m with ring := r } :=
  ⟨h.1, h.2.1, hr ▸ h.2.2.1, fun hn => hr ▸ h.2.2.2 hn⟩

theorem allocSwatch_inv {layer : Nat} {tx ty : Int} {s t : State} (h : allocSwatch layer tx ty s = some t) (hs : Inv s) : Inv t := by
  unfold allocSwatch at h
  dsimp only at h
  split at h
  · cases h
  · split at h
    · cases h
    · cases h
      exact poolLow_inv (Inv.onMap hs fun _ h => h)

theorem touchLine_inv (k : LineKey) (dirty : Bool) {s : State} (hI : Inv s) : Inv (touchLine k dirty s) := by
  unfold touchLine
  try extract_lets
  repeat' first
    | with_reducible assumption
    | with_reducible refine Inv.ite ?_ ?_
    | (guard_target = Inv (State.onMap ..); refine Inv.onMap ?_ fun _ h => h)
    | with_reducible refine Inv.foldl (fun _ _ _ => ?_) ?_
    | with_reducible refine Inv.foldlFst (fun _ _ _ _ => ?_) ?_
    | extract_lets
    | dsimp only
    | split
    | dsimp +zetaDelta only

theorem demandLine_inv (k : LineKey) {s : State} (hI : Inv s) : Inv (demandLine k s).1 := by
  unfold demandLine
  try extract_lets
  repeat' first
    | with_reducible assumption
    | with_reducible refine Inv.iteFst ?_ ?_
    | with_reducible refine Inv.ite ?_ ?_
    | (guard_target = Inv (touchLine ..); with_reducible apply touchLine_inv)
    | (guard_target = Inv (State.onMap ..); refine Inv.onMap ?_ fun _ h => h)

theorem startBuild_inv  {s : State} (hI : Inv s) : Inv (startBuild s) := by
  unfold startBuild
  try extract_lets
  repeat' first
    | with_reducible assumption
    | with_reducible refine Inv.ite ?_ ?_
    | (guard_target = Inv (State.onMap ..); refine Inv.onMap ?_ fun _ h => h)

theorem retirePage_inv (x : EccIn) {s : State} (hI : Inv s) : Inv (retirePage x s) := by
  unfold retirePage
  try extract_lets
  repeat' first
    | with_reducible assumption
    | with_reducible refine Inv.ite ?_ ?_
    | (guard_target = Inv (State.onMap ..); refine Inv.onMap ?_ fun _ h => h)
    | extract_lets
    | dsimp only
    | split
    | dsimp +zetaDelta only

theorem noteRetired_inv (old : MapSt) {s : State} (hI : Inv s) : Inv (noteRetired old s) := by
  unfold noteRetired
  try extract_lets
  repeat' first
    | with_reducible assumption
    | with_reducible refine Inv.ite ?_ ?_
    | (guard_target = Inv (notice ..); with_reducible apply notice_inv)
    | with_reducible refine Inv.foldl (fun _ _ _ => ?_) ?_
    | with_reducible refine Inv.foldlFst (fun _ _ _ _ => ?_) ?_
    | extract_lets
    | dsimp only
    | split
    | dsimp +zetaDelta only

theorem eccWord_inv (x : EccIn) {s : State} (hI : Inv s) : Inv (eccWord x s) := by
  unfold eccWord
  split
  · extract_lets s1
    have h1 : Inv s1 := notice_inv _ _ _ _ (Inv.onMap hI fun _ h => h)
    clear_value s1
    exact Inv.ite (retirePage_inv _ (Inv.onMap h1 fun _ h => h)) (Inv.onMap h1 fun _ h => h)
  · extract_lets s1 s2
    have h1 : Inv s1 := notice_inv _ _ _ _ (logFault_inv _ _ _ _ _ _ (Inv.onMap hI fun _ h => h))
    clear_value s1
    have h2 : Inv s2 := retirePage_inv _ h1
    clear_value s2
    split
    · exact onSwatch_inv _ _ _ _ h2
    · exact onTint_inv _ _ _ _ h2
    · exact startBuild_inv (Inv.onMap h2 fun _ h => h)
    · exact Inv.onMap h2 fun _ h => h
    · exact Inv.onMap h2 fun m hm => hm.ring (List.length_map ..)

theorem meetErrors_inv (hit : EccIn → Bool) {s : State} (hI : Inv s) : Inv (meetErrors hit s).1 := by
  unfold meetErrors
  try extract_lets
  repeat' first
    | with_reducible assumption
    | with_reducible refine Inv.iteFst ?_ ?_
    | with_reducible refine Inv.ite ?_ ?_
    | (guard_target = Inv (eccWord ..); with_reducible apply eccWord_inv)
    | (guard_target = Inv (State.onMap ..); refine Inv.onMap ?_ fun _ h => h)
    | with_reducible refine Inv.foldl (fun _ _ _ => ?_) ?_
    | with_reducible refine Inv.foldlFst (fun _ _ _ _ => ?_) ?_
    | extract_lets
    | dsimp only
    | split
    | dsimp +zetaDelta only

theorem meetLines_inv (old fetched s : State) (hI : Inv s) : Inv (meetLines old fetched s) := by
  unfold meetLines
  try extract_lets
  repeat' first
    | with_reducible assumption
    | with_reducible refine Inv.ite ?_ ?_
    | (guard_target = Inv (meetErrors ..).1; with_reducible apply meetErrors_inv)
    | extract_lets
    | dsimp only
    | split
    | dsimp +zetaDelta only

theorem meetFetched_inv (old s : State) (hI : Inv s) : Inv (meetFetched old s) := by
  unfold meetFetched
  try extract_lets
  repeat' first
    | with_reducible assumption
    | with_reducible refine Inv.ite ?_ ?_
    | (guard_target = Inv (meetLines ..); with_reducible apply meetLines_inv)
    | extract_lets
    | dsimp only
    | split
    | dsimp +zetaDelta only

theorem paintInto_inv (layer : Nat) (tx ty : Int) (ks : List Nat) {s0 : State} (hI : Inv s0) : Inv (paintInto layer tx ty ks s0) := by
  unfold paintInto
  try extract_lets
  repeat' first
    | with_reducible assumption
    | with_reducible refine Inv.ite ?_ ?_
    | (guard_target = Inv (meetErrors ..).1; with_reducible apply meetErrors_inv)
    | (guard_target = Inv (onSwatch ..); with_reducible apply onSwatch_inv)
    | (guard_target = Inv (touchLine ..); with_reducible apply touchLine_inv)
    | with_reducible refine Inv.foldl (fun _ _ _ => ?_) ?_
    | with_reducible refine Inv.foldlFst (fun _ _ _ _ => ?_) ?_
    | extract_lets
    | dsimp only
    | split
    | dsimp +zetaDelta only

theorem evictFor_inv (layer d n : Nat) : ∀ {s : State} {freed : List Nat} {r : State × List Nat},
    evictFor layer d n s freed = some r → Inv s → Inv r.1 := by
  induction n with
  | zero => intro s freed r h; cases h
  | succ n ih =>
    intro s freed r h hs
    unfold evictFor at h
    dsimp only at h
    split at h
    · cases h; exact hs
    · split at h
      · exact ih h (notice_inv _ _ _ _ (Inv.onMap hs fun _ h => h))
      · cases h

theorem allocEvicted_inv {layer : Nat} {tx ty : Int} {s t : State} (h : allocEvicted layer tx ty s = some t) (hs : Inv s) : Inv t := by
  unfold allocEvicted at h
  dsimp only at h
  split at h
  · cases h
  · rename_i r hr
    cases h
    split at hr
    · exact noteRetired_inv _ (poolLow_inv (Inv.onMap (evictFor_inv _ _ _ hr hs) fun _ h => h))
    · cases hr

theorem paintTile_inv (layer : Nat) (tx ty : Int) (ks : List Nat) {s : State} (hI : Inv s) : Inv (paintTile layer tx ty ks s).1 := by
  unfold paintTile
  try extract_lets
  repeat' first
    | with_reducible assumption
    | with_reducible refine allocEvicted_inv ‹_› ?_
    | with_reducible refine Inv.iteFst ?_ ?_
    | with_reducible refine Inv.ite ?_ ?_
    | with_reducible refine allocSwatch_inv ‹_› ?_
    | (guard_target = Inv (notice ..); with_reducible apply notice_inv)
    | (guard_target = Inv (paintGap ..); with_reducible apply paintGap_inv)
    | (guard_target = Inv (paintInto ..); with_reducible apply paintInto_inv)
    | (guard_target = Inv (State.onMap ..); refine Inv.onMap ?_ fun _ h => h)
    | extract_lets
    | dsimp only
    | split

theorem paint_inv (layer : Nat) (cells : List (Int × Int)) {s : State} (hI : Inv s) : Inv (paint layer cells s).1 := by
  unfold paint
  try extract_lets
  repeat' first
    | with_reducible assumption
    | with_reducible refine Inv.iteFst ?_ ?_
    | with_reducible refine Inv.ite ?_ ?_
    | (guard_target = Inv (paintTile ..).1; with_reducible apply paintTile_inv)
    | (guard_target = Inv (State.onMap ..); refine Inv.onMap ?_ fun _ h => h)
    | with_reducible refine Inv.foldl (fun _ _ _ => ?_) ?_
    | with_reducible refine Inv.foldlFst (fun _ _ _ _ => ?_) ?_
    | extract_lets
    | dsimp only

theorem meetTile_inv (layer : Nat) (tx ty : Int) {s : State} (hI : Inv s) : Inv (meetTile layer tx ty s) := by
  unfold meetTile
  try extract_lets
  repeat' first
    | with_reducible assumption
    | with_reducible refine Inv.ite ?_ ?_
    | (guard_target = Inv (meetErrors ..).1; with_reducible apply meetErrors_inv)
    | extract_lets
    | dsimp only
    | split
    | dsimp +zetaDelta only

theorem applyCover_inv {layer : Nat} {x : Int × Int × Nat} {s t : State} (h : applyCover layer x s = some t) (hs : Inv s) : Inv t := by
  unfold applyCover at h
  dsimp only at h
  split at h
  · cases h
    exact onSwatch_inv _ _ _ _ (meetTile_inv _ _ _ hs)
  · cases ha : allocSwatch layer x.1 x.2.1 s with
    | none => rw [ha] at h; cases h
    | some u =>
      rw [ha] at h
      cases h
      exact onSwatch_inv _ _ _ _ (allocSwatch_inv ha hs)

theorem applyTint_inv {layer : Nat} {t : Int × Int × Nat} {s u : State} (h : applyTint layer t s = some u) (hs : Inv s) : Inv u := by
  unfold applyTint at h
  split at h
  · cases h
    exact onTint_inv _ _ _ _ (Inv.onMap hs fun _ h => h)
  · obtain ⟨p, -, rfl⟩ := Option.map_eq_some_iff.1 h
    exact Inv.onMap hs fun _ h => h

theorem clearCover_inv (layer : Nat) {s : State} (hI : Inv s) : Inv (clearCover layer s) := by
  unfold clearCover
  extract_lets freed g s1
  have h1 : Inv s1 := noteRetired_inv _ (Inv.onMap (Inv.onMap hI fun _ h => h) fun _ h => h)
  clear_value s1 g
  split
  · exact paintGap_inv _ _ _ _ _ h1
  · exact h1

theorem clearTint_inv (layer : Nat) {s : State} (hI : Inv s) : Inv (clearTint layer s) := by
  unfold clearTint
  try extract_lets
  repeat' first
    | with_reducible assumption
    | with_reducible refine Inv.ite ?_ ?_
    | (guard_target = Inv (noteRetired ..); with_reducible apply noteRetired_inv)
    | (guard_target = Inv (State.onMap ..); refine Inv.onMap ?_ fun _ h => h)
    | extract_lets
    | dsimp only
    | split
    | dsimp +zetaDelta only

theorem loadDone_inv (st : Status) {s : State} (hI : Inv s) : Inv (loadDone st s) := by
  unfold loadDone
  try extract_lets
  repeat' first
    | with_reducible assumption
    | with_reducible refine Inv.ite ?_ ?_
    | (guard_target = Inv (notice ..); with_reducible apply notice_inv)

theorem applyAll_inv {α : Type} {f : α → State → Option State} (hf : ∀ a s t, f a s = some t → Inv s → Inv t)
    {xs : List α} {s t : State} (h : applyAll f xs s = some t) (hs : Inv s) : Inv t := by
  induction xs generalizing s with
  | nil => cases h; exact hs
  | cons x xs ih =>
    unfold applyAll at h
    split at h
    · exact ih h (hf _ _ _ ‹_› hs)
    · cases h

theorem importResult_inv {l : Load} {s t : State} (h : importResult l s = .ok t) (hs : Inv s) : Inv t := by
  unfold importResult at h
  dsimp only at h
  split at h
  · split at h
    · cases h
    · split at h
      · cases h
      · split at h
        · cases h
        · cases h
          exact startBuild_inv (Inv.onMap hs fun _ h => h)
  · split at h
    · cases h
    · split at h
      · cases h
      · split at h
        · split at h
          · cases h
            refine applyAll_inv (fun _ _ _ => applyCover_inv) ‹_› ?_
            exact Inv.ite (clearCover_inv _ hs) hs
          · cases h
        · split at h
          · cases h
            exact applyAll_inv (fun _ _ _ => applyTint_inv) ‹_› hs
          · cases h

theorem applyImport_inv  {s : State} (hI : Inv s) : Inv (applyImport s) := by
  unfold applyImport
  try extract_lets
  repeat' first
    | with_reducible assumption
    | with_reducible refine Inv.ite ?_ ?_
    | with_reducible refine importResult_inv ‹_› ?_
    | (guard_target = Inv (loadDone ..); with_reducible apply loadDone_inv)
    | (guard_target = Inv (State.onMap ..); refine Inv.onMap ?_ fun _ h => h)
    | extract_lets
    | dsimp only
    | split

theorem opMapLoadBegin_inv (e : Env) {s : State} (hI : Inv s) : Inv (opMapLoadBegin e s).1 := by
  unfold opMapLoadBegin
  try extract_lets
  repeat' first
    | with_reducible assumption
    | with_reducible refine Inv.iteFst ?_ ?_
    | with_reducible refine Inv.ite ?_ ?_
    | dsimp only [deny, done]
    | (guard_target = Inv (State.onMap ..); refine Inv.onMap ?_ fun _ h => h)
    | extract_lets
    | dsimp only
    | split

theorem opMapLoadData_inv (e : Env) {s : State} (hI : Inv s) : Inv (opMapLoadData e s).1 := by
  unfold opMapLoadData
  try extract_lets
  repeat' first
    | with_reducible assumption
    | with_reducible refine Inv.iteFst ?_ ?_
    | with_reducible refine Inv.ite ?_ ?_
    | dsimp only [deny, doneWith]
    | (guard_target = Inv (State.onMap ..); refine Inv.onMap ?_ fun _ h => h)
    | extract_lets
    | dsimp only
    | split

theorem opMapLoadEnd_inv (e : Env) {s : State} (hI : Inv s) : Inv (opMapLoadEnd e s).1 := by
  unfold opMapLoadEnd
  try extract_lets
  repeat' first
    | with_reducible assumption
    | with_reducible refine Inv.iteFst ?_ ?_
    | with_reducible refine Inv.ite ?_ ?_
    | with_reducible refine importResult_inv ‹_› ?_
    | (guard_target = Inv (loadDone ..); with_reducible apply loadDone_inv)
    | (guard_target = Inv (waitEdge ..); with_reducible refine Inv.ofOnly ?_ (waitEdge_only ..))
    | (guard_target = Inv (State.onMap ..); refine Inv.onMap ?_ fun _ h => h)
    | extract_lets
    | dsimp only
    | split

theorem opMapLoadAbort_inv (_e : Env) {s : State} (hI : Inv s) : Inv (opMapLoadAbort _e s).1 := by
  unfold opMapLoadAbort
  try extract_lets
  repeat' first
    | with_reducible assumption
    | with_reducible refine Inv.iteFst ?_ ?_
    | with_reducible refine Inv.ite ?_ ?_
    | dsimp only [deny, done]
    | (guard_target = Inv (State.onSys ..); with_reducible refine Inv.ofOnly ?_ (State.onSys_only ..))
    | (guard_target = Inv (State.onMap ..); refine Inv.onMap ?_ fun _ h => h)
    | extract_lets
    | dsimp only
    | split

theorem opMapExportBegin_inv (e : Env) {s : State} (hI : Inv s) : Inv (opMapExportBegin e s).1 := by
  unfold opMapExportBegin
  try extract_lets
  repeat' first
    | with_reducible assumption
    | with_reducible refine Inv.iteFst ?_ ?_
    | with_reducible refine Inv.ite ?_ ?_
    | dsimp only [deny]
    | (guard_target = Inv (waitEdge ..); with_reducible refine Inv.ofOnly ?_ (waitEdge_only ..))
    | (guard_target = Inv (State.onMap ..); refine Inv.onMap ?_ fun _ h => h)
    | extract_lets
    | dsimp only
    | split

theorem fixExport_inv  {s : State} (hI : Inv s) : Inv (fixExport s) := by
  unfold fixExport
  try extract_lets
  repeat' first
    | with_reducible assumption
    | with_reducible refine Inv.ite ?_ ?_
    | (guard_target = Inv (State.onMap ..); refine Inv.onMap ?_ fun _ h => h)
    | extract_lets
    | dsimp only
    | split

theorem snapshotExport_inv  {s : State} (hI : Inv s) : Inv (snapshotExport s) := by
  unfold snapshotExport
  try extract_lets
  repeat' first
    | with_reducible assumption
    | with_reducible refine Inv.ite ?_ ?_
    | (guard_target = Inv (State.onMap ..); refine Inv.onMap ?_ fun _ h => h)
    | extract_lets
    | dsimp only
    | split

theorem readTiles_inv (x : Exp) (ks : List Nat) {s : State} (hI : Inv s) : Inv (readTiles x ks s).1 := by
  unfold readTiles
  try extract_lets
  repeat' first
    | with_reducible assumption
    | with_reducible refine Inv.iteFst ?_ ?_
    | with_reducible refine Inv.ite ?_ ?_
    | (guard_target = Inv (meetErrors ..).1; with_reducible apply meetErrors_inv)
    | with_reducible refine Inv.foldl (fun _ _ _ => ?_) ?_
    | with_reducible refine Inv.foldlFst (fun _ _ _ _ => ?_) ?_
    | extract_lets
    | dsimp only
    | split
    | dsimp +zetaDelta only

theorem opMapExportRead_inv (e : Env) {s : State} (hI : Inv s) : Inv (opMapExportRead e s).1 := by
  unfold opMapExportRead
  try extract_lets
  repeat' first
    | with_reducible assumption
    | with_reducible refine Inv.iteFst ?_ ?_
    | with_reducible refine Inv.ite ?_ ?_
    | dsimp only [deny, doneWith]
    | (guard_target = Inv (readTiles ..).1; with_reducible apply readTiles_inv)
    | (guard_target = Inv (State.onMap ..); refine Inv.onMap ?_ fun _ h => h)
    | extract_lets
    | dsimp only
    | split
    | dsimp +zetaDelta only

theorem markClean_inv (x : Exp) {s : State} (hI : Inv s) : Inv (markClean x s) := by
  unfold markClean
  try extract_lets
  repeat' first
    | with_reducible assumption
    | with_reducible refine Inv.ite ?_ ?_
    | (guard_target = Inv (State.onMap ..); refine Inv.onMap ?_ fun _ h => h)

theorem opMapExportAck_inv (e : Env) {s : State} (hI : Inv s) : Inv (opMapExportAck e s).1 := by
  unfold opMapExportAck
  try extract_lets
  repeat' first
    | with_reducible assumption
    | with_reducible refine Inv.iteFst ?_ ?_
    | with_reducible refine Inv.ite ?_ ?_
    | dsimp only [deny, done]
    | (guard_target = Inv (markClean ..); with_reducible apply markClean_inv)
    | (guard_target = Inv (State.onMap ..); refine Inv.onMap ?_ fun _ h => h)
    | extract_lets
    | dsimp only
    | split

theorem applyClear_inv (target layer : Nat) {s : State} (hI : Inv s) : Inv (applyClear target layer s) := by
  unfold applyClear
  try extract_lets
  repeat' first
    | with_reducible assumption
    | with_reducible refine Inv.ite ?_ ?_
    | (guard_target = Inv (clearCover ..); with_reducible apply clearCover_inv)
    | (guard_target = Inv (clearTint ..); with_reducible apply clearTint_inv)
    | (guard_target = Inv (noteRetired ..); with_reducible apply noteRetired_inv)
    | (guard_target = Inv (State.onMap ..); refine Inv.onMap ?_ fun _ h => h)
    | extract_lets
    | dsimp only
    | split
    | dsimp +zetaDelta only

theorem opMapLogRead_inv (e : Env) {s : State} (hI : Inv s) : Inv (opMapLogRead e s).1 := by
  unfold opMapLogRead
  try extract_lets
  repeat' first
    | with_reducible assumption
    | with_reducible refine Inv.iteFst ?_ ?_
    | with_reducible refine Inv.ite ?_ ?_
    | dsimp only [deny, doneWith]
    | (guard_target = Inv (meetErrors ..).1; with_reducible apply meetErrors_inv)
    | extract_lets
    | dsimp only
    | split
    | dsimp +zetaDelta only

theorem ackUpTo_length (q : Nat) (l : List LogBlock) :
    ((l.takeWhile fun b => b.seq != q).map (fun b => { b with acked := true })
      ++ (match l.dropWhile fun b => b.seq != q with
          | b :: l => { b with acked := true } :: l
          | [] => [])).length = l.length := by
  have h : (l.takeWhile fun b => b.seq != q).length + (l.dropWhile fun b => b.seq != q).length = l.length := by
    rw [← List.length_append, List.takeWhile_append_dropWhile]
  rw [List.length_append, List.length_map]
  split <;> rename_i e <;> rw [e] at h <;> simpa using h

theorem opMapLogAck_inv (e : Env) {s : State} (hI : Inv s) : Inv (opMapLogAck e s).1 := by
  unfold opMapLogAck
  extract_lets q
  refine Inv.iteFst hI (Inv.iteFst ?_ hI)
  exact Inv.onMap hI fun m hm => hm.ring (ackUpTo_length q m.ring)

theorem meetCopied_inv  {s : State} (hI : Inv s) : Inv (meetCopied s) := by
  unfold meetCopied
  try extract_lets
  repeat' first
    | with_reducible assumption
    | with_reducible refine Inv.ite ?_ ?_
    | (guard_target = Inv (meetErrors ..).1; with_reducible apply meetErrors_inv)
    | extract_lets
    | dsimp only
    | split
    | dsimp +zetaDelta only

theorem startMigration_inv  {s : State} (hI : Inv s) : Inv (startMigration s) := by
  unfold startMigration
  try extract_lets
  repeat' first
    | with_reducible assumption
    | with_reducible refine Inv.ite ?_ ?_
    | (guard_target = Inv (meetCopied ..); with_reducible apply meetCopied_inv)
    | (guard_target = Inv (poolLow ..); with_reducible apply poolLow_inv)
    | (guard_target = Inv (State.onMap ..); refine Inv.onMap ?_ fun _ h => h)
    | extract_lets
    | dsimp only
    | split
    | dsimp +zetaDelta only

theorem finishMigration_inv  {s0 : State} (hI : Inv s0) : Inv (finishMigration s0) := by
  unfold finishMigration
  try extract_lets
  repeat' first
    | with_reducible assumption
    | with_reducible refine Inv.ite ?_ ?_
    | (guard_target = Inv (noteRetired ..); with_reducible apply noteRetired_inv)
    | (guard_target = Inv (poolLow ..); with_reducible apply poolLow_inv)
    | (guard_target = Inv (State.onMap ..); refine Inv.onMap ?_ fun _ h => h)
    | extract_lets
    | dsimp only
    | split
    | dsimp +zetaDelta only

theorem execScrub_inv (errs : List EccIn) {s : State} (hI : Inv s) : InvR (execScrub errs s) := by
  unfold execScrub
  try extract_lets
  repeat' first
    | with_reducible assumption
    | with_reducible refine InvR.next ?_
    | with_reducible refine InvR.ite ?_ ?_
    | with_reducible refine Inv.ite ?_ ?_
    | (guard_target = Inv (meetErrors ..).1; with_reducible apply meetErrors_inv)
    | (guard_target = Inv (State.onMap ..); refine Inv.onMap ?_ fun _ h => h)
    | extract_lets
    | dsimp only
    | split
    | dsimp +zetaDelta only

theorem execDirtyWriteback_inv  {s : State} (hI : Inv s) : InvR (execDirtyWriteback s) := by
  unfold execDirtyWriteback
  try extract_lets
  repeat' first
    | with_reducible assumption
    | with_reducible refine InvR.next ?_
    | with_reducible refine InvR.ite ?_ ?_
    | with_reducible refine Inv.ite ?_ ?_
    | (guard_target = Inv (State.onMap ..); refine Inv.onMap ?_ fun _ h => h)

theorem execMaskBuilt_inv  {s0 : State} (hI : Inv s0) : InvR (execMaskBuilt s0) := by
  unfold execMaskBuilt
  try extract_lets
  repeat' first
    | with_reducible assumption
    | with_reducible refine InvR.next ?_
    | with_reducible refine InvR.ite ?_ ?_
    | with_reducible refine Inv.ite ?_ ?_
    | (guard_target = Inv (meetErrors ..).1; with_reducible apply meetErrors_inv)
    | (guard_target = Inv (notice ..); with_reducible apply notice_inv)
    | (guard_target = Inv (State.onMap ..); refine Inv.onMap ?_ fun _ h => h)
    | extract_lets
    | dsimp only
    | split
    | dsimp +zetaDelta only

theorem execLoadTimeout_inv  {s : State} (hI : Inv s) : InvR (execLoadTimeout s) := by
  unfold execLoadTimeout
  try extract_lets
  repeat' first
    | with_reducible assumption
    | with_reducible refine InvR.next ?_
    | with_reducible refine InvR.ite ?_ ?_
    | with_reducible refine Inv.ite ?_ ?_
    | (guard_target = Inv (loadDone ..); with_reducible apply loadDone_inv)
    | (guard_target = Inv (State.onMap ..); refine Inv.onMap ?_ fun _ h => h)
    | extract_lets
    | dsimp only
    | split

theorem execExportTimeout_inv  {s : State} (hI : Inv s) : InvR (execExportTimeout s) := by
  unfold execExportTimeout
  try extract_lets
  repeat' first
    | with_reducible assumption
    | with_reducible refine InvR.next ?_
    | with_reducible refine InvR.ite ?_ ?_
    | with_reducible refine Inv.ite ?_ ?_
    | (guard_target = Inv (State.onMap ..); refine Inv.onMap ?_ fun _ h => h)
    | extract_lets
    | dsimp only
    | split

theorem execLogSeal_inv  {s : State} (hI : Inv s) : InvR (execLogSeal s) := by
  unfold execLogSeal
  try extract_lets
  repeat' first
    | with_reducible assumption
    | with_reducible refine InvR.next ?_
    | with_reducible refine InvR.ite ?_ ?_
    | with_reducible refine Inv.ite ?_ ?_
    | (guard_target = Inv (sealBlock ..); with_reducible apply sealBlock_inv)

theorem trackFrom_inv (t : Tick) {s : State} (hI : Inv s) : Inv (trackFrom t s) := by
  unfold trackFrom
  try extract_lets
  repeat' first
    | with_reducible assumption
    | with_reducible refine Inv.ite ?_ ?_
    | (guard_target = Inv (State.onMap ..); refine Inv.onMap ?_ fun _ h => h)
    | extract_lets
    | dsimp only
    | split
    | dsimp +zetaDelta only

theorem execTrackRecord_inv  {s : State} (hI : Inv s) : InvR (execTrackRecord s) := by
  unfold execTrackRecord
  try extract_lets
  repeat' first
    | with_reducible assumption
    | with_reducible refine InvR.next ?_
    | with_reducible refine InvR.ite ?_ ?_
    | with_reducible refine Inv.ite ?_ ?_
    | (guard_target = Inv (writeLog ..); with_reducible apply writeLog_inv)
    | (guard_target = Inv (State.onMap ..); refine Inv.onMap ?_ fun _ h => h)

theorem zeroPages_inv  {s : State} (hI : Inv s) : Inv (zeroPages s) := by
  unfold zeroPages
  try extract_lets
  repeat' first
    | with_reducible assumption
    | with_reducible refine Inv.ite ?_ ?_
    | (guard_target = Inv (State.onMap ..); refine Inv.onMap ?_ fun _ h => h)

theorem mapBecomesReady_inv  {s : State} (hI : Inv s) : Inv (mapBecomesReady s) := by
  unfold mapBecomesReady
  try extract_lets
  repeat' first
    | with_reducible assumption
    | with_reducible refine Inv.ite ?_ ?_
    | (guard_target = Inv (paintGap ..); with_reducible apply paintGap_inv)
    | (guard_target = Inv (State.onSys ..); with_reducible refine Inv.ofOnly ?_ (State.onSys_only ..))
    | (guard_target = Inv (State.onMap ..); refine Inv.onMap ?_ fun _ h => h)
    | extract_lets
    | dsimp only
    | split

theorem changeOrigin_inv (o : Origin) {s : State} (hI : Inv s) : Inv (changeOrigin o s) := by
  unfold changeOrigin
  try extract_lets
  repeat' first
    | with_reducible assumption
    | with_reducible refine Inv.ite ?_ ?_
    | (guard_target = Inv (notice ..); with_reducible apply notice_inv)
    | (guard_target = Inv (startBuild ..); with_reducible apply startBuild_inv)
    | (guard_target = Inv (writeLog ..); with_reducible apply writeLog_inv)
    | (guard_target = Inv (State.onPos ..); with_reducible refine Inv.ofOnly ?_ (State.onPos_only ..))
    | (guard_target = Inv (State.onMap ..); refine Inv.onMap ?_ fun _ h => h)

end Sys2Proof.Machine
end

