-- ==== Sys2Proof/Laws/VdrInv.lean ====
section
/-! SUPPORT. What the operations of Machine/Vdr.lean keep: the invariant `Inv`. -/

set_option Elab.async false

namespace Sys2Proof.Machine

theorem writeFiring_inv (c : Fin 96) (f0 : Firing) {s : State} (hI : Inv s) : Inv (writeFiring c f0 s) := by
  unfold writeFiring
  extract_lets b st f s0 s1 s2
  have h0 : Inv s0 := Inv.ite (Inv.ofOnly hI (modCh_only ..)) hI
  clear_value s0 st f
  have h1 : Inv s1 := Inv.ofOnly h0 (modBank_only ..)
  clear_value s1
  have h2 : Inv s2 := Inv.onHost h1 fun _ hd => HostInv.vmap (f := fun q => { q with subs := vmap q.subs (Sub.trace f) }) (fun _ hq => hq) hd
  clear_value s2
  cases st with
  | nil => exact h2
  | cons o l => exact Inv.ite h2 (paintGap_inv _ _ _ _ _ (notice_inv _ _ _ _ h2))

theorem putCoil_inv (lo v : Nat) {s : State} (hI : Inv s) : Inv (putCoil lo v s) := by
  unfold putCoil
  try extract_lets
  repeat' first
    | with_reducible assumption
    | with_reducible refine Inv.ite ?_ ?_
    | (guard_target = Inv (State.onNor ..); refine Inv.onNor ?_ fun _ h => h)
    | (guard_target = Inv (State.onAct ..); with_reducible refine Inv.ofOnly ?_ (State.onAct_only ..))
    | (guard_target = Inv (State.onShd ..); with_reducible refine Inv.ofOnly ?_ (State.onShd_only ..))

theorem learn_inv (i : Fin 160) (k : Fin 4) (m : Nat) {s : State} (hI : Inv s) : Inv (learn i k m s) := by
  unfold learn
  try extract_lets
  repeat' first
    | with_reducible assumption
    | with_reducible refine Inv.ite ?_ ?_
    | (guard_target = Inv (modLat ..); with_reducible refine Inv.ofOnly ?_ (modLat_only ..))
    | (guard_target = Inv (notice ..); with_reducible apply notice_inv)

theorem contextFault_inv (c : Fin 96) (detail : Nat) {s : State} (hI : Inv s) : Inv (contextFault c detail s) := by
  unfold contextFault
  try extract_lets
  repeat' first
    | with_reducible assumption
    | with_reducible refine Inv.ite ?_ ?_
    | (guard_target = Inv (logFault ..); with_reducible apply logFault_inv)
    | (guard_target = Inv (State.onFe ..); with_reducible refine Inv.ofOnly ?_ (State.onFe_only ..))

theorem countMiss_inv (c : Fin 96) {s : State} (hI : Inv s) : Inv (countMiss c s) := by
  unfold countMiss
  try extract_lets
  repeat' first
    | with_reducible assumption
    | with_reducible refine Inv.ite ?_ ?_
    | (guard_target = Inv (contextFault ..); with_reducible apply contextFault_inv)
    | (guard_target = Inv (modLat ..); with_reducible refine Inv.ofOnly ?_ (modLat_only ..))
    | (guard_target = Inv (notice ..); with_reducible apply notice_inv)

theorem endSearch_inv (c : Fin 96) (t : Tick) {s : State} (hI : Inv s) : Inv (endSearch c t s) := by
  unfold endSearch
  try extract_lets
  repeat' first
    | with_reducible assumption
    | with_reducible refine Inv.ite ?_ ?_
    | (guard_target = Inv (countMiss ..); with_reducible apply countMiss_inv)
    | (guard_target = Inv (modCh ..); with_reducible refine Inv.ofOnly ?_ (modCh_only ..))
    | (guard_target = Inv (writeFiring ..); with_reducible apply writeFiring_inv)

theorem beginPullIn_inv (c : Fin 96) (t : Tick) {s : State} (hI : Inv s) : Inv (beginPullIn c t s) := by
  unfold beginPullIn
  try extract_lets
  repeat' first
    | with_reducible assumption
    | with_reducible refine Inv.ite ?_ ?_
    | (guard_target = Inv (modCh ..); with_reducible refine Inv.ofOnly ?_ (modCh_only ..))
    | (guard_target = Inv (modProt ..); with_reducible refine Inv.ofOnly ?_ (modProt_only ..))
    | (guard_target = Inv (writeFiring ..); with_reducible apply writeFiring_inv)

theorem placeStart_inv (c : Fin 96) (d t len : Tick) (battery opener cut beyond recommand indet : Bool) {s : State} (hI : Inv s) : Inv (placeStart c d t len battery opener cut beyond recommand indet s) := by
  unfold placeStart
  try extract_lets
  repeat' first
    | with_reducible assumption
    | with_reducible refine Inv.ite ?_ ?_
    | (guard_target = Inv (beginPullIn ..); with_reducible apply beginPullIn_inv)
    | (guard_target = Inv (modCh ..); with_reducible refine Inv.ofOnly ?_ (modCh_only ..))

theorem startChannel_inv (c : Fin 96) (d : Tick) (recommand indet : Bool) {s : State} (hI : Inv s) : Inv (startChannel c d recommand indet s).1 := by
  unfold startChannel
  try extract_lets
  repeat' first
    | with_reducible assumption
    | with_reducible refine Inv.iteFst ?_ ?_
    | with_reducible refine Inv.ite ?_ ?_
    | (guard_target = Inv (modBank ..); with_reducible refine Inv.ofOnly ?_ (modBank_only ..))
    | (guard_target = Inv (notice ..); with_reducible apply notice_inv)
    | (guard_target = Inv (placeStart ..); with_reducible apply placeStart_inv)
    | extract_lets
    | dsimp only
    | split

theorem beginDecay_inv (c : Fin 96) (t : Tick) (wasHeld clamp stage : Bool) {s : State} (hI : Inv s) : Inv (beginDecay c t wasHeld clamp stage s) := by
  unfold beginDecay
  try extract_lets
  repeat' first
    | with_reducible assumption
    | with_reducible refine Inv.ite ?_ ?_
    | (guard_target = Inv (endSearch ..); with_reducible apply endSearch_inv)
    | (guard_target = Inv (modCh ..); with_reducible refine Inv.ofOnly ?_ (modCh_only ..))
    | (guard_target = Inv (modProt ..); with_reducible refine Inv.ofOnly ?_ (modProt_only ..))
    | extract_lets
    | dsimp only
    | split
    | dsimp +zetaDelta only

theorem dueStart_inv (c : Fin 96) {s : State} (hI : Inv s) : Inv (dueStart c s).1 := by
  unfold dueStart
  try extract_lets
  repeat' first
    | with_reducible assumption
    | with_reducible refine Inv.iteFst ?_ ?_
    | with_reducible refine Inv.ite ?_ ?_
    | (guard_target = Inv (beginPullIn ..); with_reducible apply beginPullIn_inv)
    | (guard_target = Inv (modCh ..); with_reducible refine Inv.ofOnly ?_ (modCh_only ..))
    | (guard_target = Inv (startChannel ..).1; with_reducible apply startChannel_inv)
    | extract_lets
    | dsimp only
    | split
    | dsimp +zetaDelta only

theorem offRequest_inv (c : Fin 96) (t : Tick) (stage : Bool) {s : State} (hI : Inv s) : Inv (offRequest c t stage s) := by
  unfold offRequest
  try extract_lets
  repeat' first
    | with_reducible assumption
    | with_reducible refine Inv.ite ?_ ?_
    | (guard_target = Inv (beginDecay ..); with_reducible apply beginDecay_inv)
    | (guard_target = Inv (cancelStart ..); with_reducible refine Inv.ofOnly ?_ (cancelStart_only ..))
    | (guard_target = Inv (dueStart ..).1; with_reducible apply dueStart_inv)
    | (guard_target = Inv (modCh ..); with_reducible refine Inv.ofOnly ?_ (modCh_only ..))
    | extract_lets
    | dsimp only
    | split
    | dsimp +zetaDelta only

theorem forceOff_inv (c : Fin 96) (t : Tick) {s : State} (hI : Inv s) : Inv (forceOff c t s) := by
  unfold forceOff
  try extract_lets
  repeat' first
    | with_reducible assumption
    | with_reducible refine Inv.ite ?_ ?_
    | (guard_target = Inv (beginDecay ..); with_reducible apply beginDecay_inv)
    | (guard_target = Inv (cancelStart ..); with_reducible refine Inv.ofOnly ?_ (cancelStart_only ..))
    | (guard_target = Inv (modCh ..); with_reducible refine Inv.ofOnly ?_ (modCh_only ..))
    | extract_lets
    | dsimp only
    | split

theorem startRequest_inv (c : Fin 96) (d : Tick) {s : State} (hI : Inv s) : Inv (startRequest c d s).1 := by
  unfold startRequest
  try extract_lets
  repeat' first
    | with_reducible assumption
    | with_reducible refine Inv.iteFst ?_ ?_
    | with_reducible refine Inv.ite ?_ ?_
    | (guard_target = Inv (modCh ..); with_reducible refine Inv.ofOnly ?_ (modCh_only ..))
    | (guard_target = Inv (startChannel ..).1; with_reducible apply startChannel_inv)
    | extract_lets
    | dsimp only
    | split

theorem contextClear_inv (c : Fin 96) {s : State} (hI : Inv s) : Inv (contextClear c s) := by
  unfold contextClear
  try extract_lets
  repeat' first
    | with_reducible assumption
    | with_reducible refine Inv.ite ?_ ?_
    | (guard_target = Inv (endFault ..); with_reducible apply endFault_inv)

theorem finishRetry_inv (c : Fin 96) {s : State} (hI : Inv s) : Inv (finishRetry c s) := by
  unfold finishRetry
  try extract_lets
  repeat' first
    | with_reducible assumption
    | with_reducible refine Inv.ite ?_ ?_
    | (guard_target = Inv (contextClear ..); with_reducible apply contextClear_inv)
    | (guard_target = Inv (modProt ..); with_reducible refine Inv.ofOnly ?_ (modProt_only ..))

theorem finishDecay_inv (c : Fin 96) (t : Tick) (measured : Bool) {s : State} (hI : Inv s) : Inv (finishDecay c t measured s).1 := by
  unfold finishDecay
  try extract_lets
  repeat' first
    | with_reducible assumption
    | with_reducible refine Inv.iteFst ?_ ?_
    | with_reducible refine Inv.ite ?_ ?_
    | (guard_target = Inv (finishRetry ..); with_reducible apply finishRetry_inv)
    | (guard_target = Inv (modCh ..); with_reducible refine Inv.ofOnly ?_ (modCh_only ..))
    | (guard_target = Inv (settleConv ..); with_reducible refine Inv.ofOnly ?_ (settleConv_only ..))
    | (guard_target = Inv (startChannel ..).1; with_reducible apply startChannel_inv)
    | extract_lets
    | dsimp only
    | split
    | dsimp +zetaDelta only

theorem isolateBank_inv (b : Fin 12) (cause : Nat) {s : State} (hI : Inv s) : Inv (isolateBank b cause s) := by
  unfold isolateBank
  try extract_lets
  repeat' first
    | with_reducible assumption
    | with_reducible refine Inv.ite ?_ ?_
    | (guard_target = Inv (forceOff ..); with_reducible apply forceOff_inv)
    | (guard_target = Inv (modBank ..); with_reducible refine Inv.ofOnly ?_ (modBank_only ..))
    | (guard_target = Inv (notice ..); with_reducible apply notice_inv)
    | with_reducible refine Inv.foldl (fun _ _ _ => ?_) ?_

end Sys2Proof.Machine
end

