-- ==== Sys2Proof/Laws/PwmInv.lean ====
section
/-! SUPPORT. What the operations of Machine/Pwm.lean keep: the invariant `Inv`. -/

set_option Elab.async false

namespace Sys2Proof.Machine

theorem trigCount_inv (j : Fin 4) (t : Tick) (tap : Nat) {s : State} (hI : Inv s) : Inv (trigCount j t tap s) := by
  unfold trigCount
  try extract_lets
  repeat' first
    | with_reducible assumption
    | with_reducible refine Inv.ite ?_ ?_
    | (guard_target = Inv (modTrig ..); with_reducible refine Inv.ofOnly ?_ (modTrig_only ..))
    | (guard_target = Inv (notice ..); with_reducible apply notice_inv)
    | extract_lets
    | dsimp only
    | split
    | dsimp +zetaDelta only

theorem trigSource_inv (kind k : Nat) (t : Tick) (tap : Nat) {s : State} (hI : Inv s) : Inv (trigSource kind k t tap s) := by
  unfold trigSource
  try extract_lets
  repeat' first
    | with_reducible assumption
    | with_reducible refine Inv.ite ?_ ?_
    | (guard_target = Inv (trigCount ..); with_reducible apply trigCount_inv)
    | with_reducible refine Inv.foldl (fun _ _ _ => ?_) ?_
    | with_reducible refine Inv.foldlFst (fun _ _ _ _ => ?_) ?_
    | extract_lets
    | dsimp only
    | split
    | dsimp +zetaDelta only

theorem execBankBoundary_inv (b : Fin 12) {s : State} (hI : Inv s) : InvR (execBankBoundary b s) := by
  unfold execBankBoundary
  try extract_lets
  repeat' first
    | with_reducible assumption
    | with_reducible refine InvR.next ?_
    | with_reducible refine InvR.ite ?_ ?_
    | with_reducible refine Inv.ite ?_ ?_
    | (guard_target = Inv (modGrid ..); with_reducible refine Inv.ofOnly ?_ (modGrid_only ..))
    | (guard_target = Inv (trigSource ..); with_reducible apply trigSource_inv)

theorem genStart_inv (c : Fin 96) (t : Tick) {s : State} (hI : Inv s) : Inv (genStart c t s) := by
  unfold genStart
  try extract_lets
  repeat' first
    | with_reducible assumption
    | with_reducible refine Inv.ite ?_ ?_
    | (guard_target = Inv (modNoz ..); with_reducible refine Inv.ofOnly ?_ (modNoz_only ..))
    | (guard_target = Inv (scheduleClose ..); with_reducible refine Inv.ofOnly ?_ (scheduleClose_only ..))
    | (guard_target = Inv (startRequest ..).1; with_reducible apply startRequest_inv)
    | extract_lets
    | dsimp only
    | split

theorem genOn_inv (c : Fin 96) (d : Tick) {s : State} (hI : Inv s) : Inv (genOn c d s) := by
  unfold genOn
  try extract_lets
  repeat' first
    | with_reducible assumption
    | with_reducible refine Inv.ite ?_ ?_
    | (guard_target = Inv (genStart ..); with_reducible apply genStart_inv)
    | (guard_target = Inv (modCh ..); with_reducible refine Inv.ofOnly ?_ (modCh_only ..))
    | (guard_target = Inv (modNoz ..); with_reducible refine Inv.ofOnly ?_ (modNoz_only ..))
    | (guard_target = Inv (reloadNoz ..); with_reducible refine Inv.ofOnly ?_ (reloadNoz_only ..))
    | extract_lets
    | dsimp only
    | split
    | dsimp +zetaDelta only

theorem execGridOpening_inv (c : Fin 96) {s : State} (hI : Inv s) : InvR (execGridOpening c s) := by
  unfold execGridOpening
  try extract_lets
  repeat' first
    | with_reducible assumption
    | with_reducible refine InvR.next ?_
    | with_reducible refine InvR.ite ?_ ?_
    | with_reducible refine Inv.ite ?_ ?_
    | (guard_target = Inv (genStart ..); with_reducible apply genStart_inv)
    | (guard_target = Inv (modNoz ..); with_reducible refine Inv.ofOnly ?_ (modNoz_only ..))
    | (guard_target = Inv (offRequest ..); with_reducible apply offRequest_inv)
    | (guard_target = Inv (reloadNoz ..); with_reducible refine Inv.ofOnly ?_ (reloadNoz_only ..))
    | (guard_target = Inv (trigSource ..); with_reducible apply trigSource_inv)

theorem execGridClosing_inv (c : Fin 96) {s : State} (hI : Inv s) : InvR (execGridClosing c s) := by
  unfold execGridClosing
  try extract_lets
  repeat' first
    | with_reducible assumption
    | with_reducible refine InvR.next ?_
    | with_reducible refine InvR.ite ?_ ?_
    | with_reducible refine Inv.ite ?_ ?_
    | (guard_target = Inv (modNoz ..); with_reducible refine Inv.ofOnly ?_ (modNoz_only ..))
    | (guard_target = Inv (offRequest ..); with_reducible apply offRequest_inv)
    | (guard_target = Inv (trigSource ..); with_reducible apply trigSource_inv)
    | extract_lets
    | dsimp only
    | split

theorem fineTrigger_inv (g : Fin 8) (kind u : Nat) {s : State} (hI : Inv s) : Inv (fineTrigger g kind u s) := by
  unfold fineTrigger
  try extract_lets
  repeat' first
    | with_reducible assumption
    | with_reducible refine Inv.ite ?_ ?_
    | (guard_target = Inv (modFine ..); with_reducible refine Inv.ofOnly ?_ (modFine_only ..))
    | (guard_target = Inv (trigCount ..); with_reducible apply trigCount_inv)
    | (guard_target = Inv (trigSource ..); with_reducible apply trigSource_inv)
    | extract_lets
    | dsimp only
    | split
    | dsimp +zetaDelta only

theorem finePeak_inv (g : Fin 8) {s : State} (hI : Inv s) : Inv (finePeak g s) := by
  unfold finePeak
  try extract_lets
  repeat' first
    | with_reducible assumption
    | with_reducible refine Inv.ite ?_ ?_
    | (guard_target = Inv (fineTrigger ..); with_reducible apply fineTrigger_inv)
    | (guard_target = Inv (modFine ..); with_reducible refine Inv.ofOnly ?_ (modFine_only ..))
    | extract_lets
    | dsimp only
    | split
    | dsimp +zetaDelta only

theorem finePeaks_inv  {s : State} (hI : Inv s) : Inv (finePeaks s) := by
  unfold finePeaks
  try extract_lets
  repeat' first
    | with_reducible assumption
    | with_reducible refine Inv.ite ?_ ?_
    | (guard_target = Inv (finePeak ..); with_reducible apply finePeak_inv)
    | with_reducible refine Inv.foldl (fun _ _ _ => ?_) ?_
    | with_reducible refine Inv.foldlFst (fun _ _ _ _ => ?_) ?_
    | extract_lets
    | dsimp only
    | split
    | dsimp +zetaDelta only

theorem execTrigOutPulse_inv (j : Fin 4) {s0 : State} (hI : Inv s0) : InvR (execTrigOutPulse j s0) := by
  unfold execTrigOutPulse
  try extract_lets
  repeat' first
    | with_reducible assumption
    | with_reducible refine InvR.next ?_
    | with_reducible refine InvR.ite ?_ ?_
    | with_reducible refine Inv.ite ?_ ?_
    | (guard_target = Inv (finePeaks ..); with_reducible apply finePeaks_inv)
    | (guard_target = Inv (modTrig ..); with_reducible refine Inv.ofOnly ?_ (modTrig_only ..))
    | extract_lets
    | dsimp only
    | split
    | dsimp +zetaDelta only

theorem finePeriodBegun_inv (g : Fin 8) (was : Fine) (split : Bool) (r : Nat) {s : State} (hI : Inv s) : Inv (finePeriodBegun g was split r s) := by
  unfold finePeriodBegun
  try extract_lets
  repeat' first
    | with_reducible assumption
    | with_reducible refine Inv.ite ?_ ?_
    | (guard_target = Inv (fineTrigger ..); with_reducible apply fineTrigger_inv)
    | (guard_target = Inv (notice ..); with_reducible apply notice_inv)
    | extract_lets
    | dsimp only
    | split
    | dsimp +zetaDelta only

theorem execFinePeriodStart_inv (g : Fin 8) {s0 : State} (hI : Inv s0) : InvR (execFinePeriodStart g s0) := by
  unfold execFinePeriodStart
  try extract_lets
  repeat' first
    | with_reducible assumption
    | with_reducible refine InvR.next ?_
    | with_reducible refine InvR.ite ?_ ?_
    | with_reducible refine Inv.ite ?_ ?_
    | (guard_target = Inv (finePeak ..); with_reducible apply finePeak_inv)
    | (guard_target = Inv (finePeriodBegun ..); with_reducible apply finePeriodBegun_inv)
    | (guard_target = Inv (fineTrigger ..); with_reducible apply fineTrigger_inv)
    | (guard_target = Inv (modFine ..); with_reducible refine Inv.ofOnly ?_ (modFine_only ..))
    | (guard_target = Inv (trigCount ..); with_reducible apply trigCount_inv)
    | extract_lets
    | dsimp only
    | split
    | dsimp +zetaDelta only

theorem execGateTransition_inv (g : Fin 8) (rising : Bool) (cross : Option Nat) {s0 : State} (hI : Inv s0) : InvR (execGateTransition g rising cross s0) := by
  unfold execGateTransition
  try extract_lets
  repeat' first
    | with_reducible assumption
    | with_reducible refine InvR.next ?_
    | with_reducible refine InvR.ite ?_ ?_
    | with_reducible refine Inv.ite ?_ ?_
    | (guard_target = Inv (finePeak ..); with_reducible apply finePeak_inv)
    | (guard_target = Inv (fineTrigger ..); with_reducible apply fineTrigger_inv)
    | (guard_target = Inv (modFine ..); with_reducible refine Inv.ofOnly ?_ (modFine_only ..))
    | (guard_target = Inv (notice ..); with_reducible apply notice_inv)
    | extract_lets
    | dsimp only
    | split
    | dsimp +zetaDelta only

theorem commitPwu_inv (e : Tick) (old : Params) {s : State} (hI : Inv s) : Inv (commitPwu e old s) := by
  unfold commitPwu
  try extract_lets
  repeat' first
    | with_reducible assumption
    | with_reducible refine Inv.ite ?_ ?_
    | (guard_target = Inv (finePeriodBegun ..); with_reducible apply finePeriodBegun_inv)
    | (guard_target = Inv (State.onPwu ..); with_reducible refine Inv.ofOnly ?_ (State.onPwu_only ..))
    | with_reducible refine Inv.foldl (fun _ _ _ => ?_) ?_
    | with_reducible refine Inv.foldlFst (fun _ _ _ _ => ?_) ?_
    | extract_lets
    | dsimp only
    | split
    | dsimp +zetaDelta only

end Sys2Proof.Machine
end

