-- ==== Sys2Proof/Laws/InputsInv.lean ====
section
/-! SUPPORT. What the operations of Machine/Inputs.lean keep: the invariant `Inv`. -/

set_option Elab.async false

namespace Sys2Proof.Machine

theorem emuUpdate_inv (x : Fin 2) (f : Emu → Emu) {s : State} (hI : Inv s) : Inv (emuUpdate x f s) := by
  unfold emuUpdate
  try extract_lets
  repeat' first
    | with_reducible assumption
    | with_reducible refine Inv.ite ?_ ?_
    | (guard_target = Inv (modEmu ..); with_reducible refine Inv.ofOnly ?_ (modEmu_only ..))
    | (guard_target = Inv (notice ..); with_reducible apply notice_inv)

theorem emuFollow_inv (i : Fin 4) (d : Int) {s : State} (hI : Inv s) : Inv (emuFollow i d s) := by
  unfold emuFollow
  try extract_lets
  repeat' first
    | with_reducible assumption
    | with_reducible refine Inv.ite ?_ ?_
    | (guard_target = Inv (emuUpdate ..); with_reducible apply emuUpdate_inv)
    | with_reducible refine Inv.foldl (fun _ _ _ => ?_) ?_

theorem execEmuOutputStep_inv (x : Fin 2) {s : State} (hI : Inv s) : InvR (execEmuOutputStep x s) := by
  unfold execEmuOutputStep
  try extract_lets
  repeat' first
    | with_reducible assumption
    | with_reducible refine InvR.next ?_
    | with_reducible refine InvR.ite ?_ ?_
    | dsimp only [id]
    | with_reducible refine Inv.ite ?_ ?_
    | (guard_target = Inv (emuUpdate ..); with_reducible apply emuUpdate_inv)

theorem emuAtEdge_inv (e : Tick) {s : State} (hI : Inv s) : Inv (emuAtEdge e s) := by
  unfold emuAtEdge
  try extract_lets
  repeat' first
    | with_reducible assumption
    | with_reducible refine Inv.ite ?_ ?_
    | (guard_target = Inv (modEmu ..); with_reducible refine Inv.ofOnly ?_ (modEmu_only ..))
    | (guard_target = Inv (notice ..); with_reducible apply notice_inv)
    | with_reducible refine Inv.foldl (fun _ _ _ => ?_) ?_

theorem quadStep_inv (i : Fin 4) (t : Tick) (ba : Nat) {s : State} (hI : Inv s) : Inv (quadStep i t ba s) := by
  unfold quadStep
  try extract_lets
  repeat' first
    | with_reducible assumption
    | with_reducible refine Inv.ite ?_ ?_
    | (guard_target = Inv (emuFollow ..); with_reducible apply emuFollow_inv)
    | (guard_target = Inv (modEnc ..); with_reducible refine Inv.ofOnly ?_ (modEnc_only ..))
    | (guard_target = Inv (noticeAt ..); with_reducible apply noticeAt_inv)
    | extract_lets
    | dsimp only
    | split
    | dsimp +zetaDelta only

theorem execEncoderTransition_inv (i : Fin 4) (ba : BitVec 2) {s : State} (hI : Inv s) : InvR (execEncoderTransition i ba s) := by
  unfold execEncoderTransition
  try extract_lets
  repeat' first
    | with_reducible assumption
    | with_reducible refine InvR.next ?_
    | with_reducible refine InvR.ite ?_ ?_
    | with_reducible refine Inv.ite ?_ ?_
    | (guard_target = Inv (quadStep ..); with_reducible apply quadStep_inv)

theorem execIndex_inv (i : Fin 4) (ba : BitVec 2) {s : State} (hI : Inv s) : InvR (execIndex i ba s) := by
  unfold execIndex
  try extract_lets
  repeat' first
    | with_reducible assumption
    | with_reducible refine InvR.next ?_
    | with_reducible refine InvR.ite ?_ ?_
    | with_reducible refine Inv.ite ?_ ?_
    | (guard_target = Inv (modEnc ..); with_reducible refine Inv.ofOnly ?_ (modEnc_only ..))
    | (guard_target = Inv (quadStep ..); with_reducible apply quadStep_inv)

theorem hallStep_inv (i : Fin 4) (at_ : Tick) (w : Nat) {s : State} (hI : Inv s) : Inv (hallStep i at_ w s) := by
  unfold hallStep
  try extract_lets
  repeat' first
    | with_reducible assumption
    | with_reducible refine Inv.ite ?_ ?_
    | (guard_target = Inv (modHall ..); with_reducible refine Inv.ofOnly ?_ (modHall_only ..))
    | (guard_target = Inv (noticeAt ..); with_reducible apply noticeAt_inv)
    | extract_lets
    | dsimp only
    | split
    | dsimp +zetaDelta only

theorem execHallTransition_inv (i : Fin 4) (wvu : BitVec 3) {s : State} (hI : Inv s) : InvR (execHallTransition i wvu s) := by
  unfold execHallTransition
  try extract_lets
  repeat' first
    | with_reducible assumption
    | with_reducible refine InvR.next ?_
    | with_reducible refine InvR.ite ?_ ?_
    | with_reducible refine Inv.ite ?_ ?_
    | (guard_target = Inv (hallStep ..); with_reducible apply hallStep_inv)
    | (guard_target = Inv (modHall ..); with_reducible refine Inv.ofOnly ?_ (modHall_only ..))

theorem execHallIllegal_inv (i : Fin 4) {s : State} (hI : Inv s) : InvR (execHallIllegal i s) := by
  unfold execHallIllegal
  try extract_lets
  repeat' first
    | with_reducible assumption
    | with_reducible refine InvR.next ?_
    | with_reducible refine InvR.ite ?_ ?_
    | with_reducible refine Inv.ite ?_ ?_
    | (guard_target = Inv (modHall ..); with_reducible refine Inv.ofOnly ?_ (modHall_only ..))
    | (guard_target = Inv (notice ..); with_reducible apply notice_inv)

theorem execFreqEdge_inv (i : Fin 16) {s0 : State} (hI : Inv s0) : InvR (execFreqEdge i s0) := by
  unfold execFreqEdge
  try extract_lets
  repeat' first
    | with_reducible assumption
    | with_reducible refine InvR.next ?_
    | with_reducible refine InvR.ite ?_ ?_
    | with_reducible refine Inv.ite ?_ ?_
    | (guard_target = Inv (modFreq ..); with_reducible refine Inv.ofOnly ?_ (modFreq_only ..))
    | (guard_target = Inv (noticeAt ..); with_reducible apply noticeAt_inv)
    | extract_lets
    | dsimp only
    | split
    | dsimp +zetaDelta only

theorem execEventEdge_inv (i : Fin 8) (falling : Bool) {s0 : State} (hI : Inv s0) : InvR (execEventEdge i falling s0) := by
  unfold execEventEdge
  try extract_lets
  repeat' first
    | with_reducible assumption
    | with_reducible refine InvR.next ?_
    | with_reducible refine InvR.ite ?_ ?_
    | with_reducible refine Inv.ite ?_ ?_
    | (guard_target = Inv (modEvt ..); with_reducible refine Inv.ofOnly ?_ (modEvt_only ..))
    | (guard_target = Inv (notice ..); with_reducible apply notice_inv)
    | extract_lets
    | dsimp only
    | split
    | dsimp +zetaDelta only

theorem eventNotices_inv (e : Tick) {s : State} (hI : Inv s) : Inv (eventNotices e s) := by
  unfold eventNotices
  try extract_lets
  repeat' first
    | with_reducible assumption
    | with_reducible refine Inv.ite ?_ ?_
    | (guard_target = Inv (modEvt ..); with_reducible refine Inv.ofOnly ?_ (modEvt_only ..))
    | (guard_target = Inv (noticeNow ..); with_reducible apply noticeNow_inv)
    | with_reducible refine Inv.foldl (fun _ _ _ => ?_) ?_

theorem execAnalogConversion_inv (i : Fin 32) (mv : BitVec 16) {s0 : State} (hI : Inv s0) : InvR (execAnalogConversion i mv s0) := by
  unfold execAnalogConversion
  dsimp only
  split
  · refine InvR.ite (InvR.next ?_) (InvR.next hI)
    have h1 (f) : Inv (modAin i f (finePeaks s0)) := (finePeaks_inv hI).ofOnly (modAin_only ..)
    exact Inv.ite (notice_inv _ _ _ _ (h1 _)) (h1 _)
  · exact InvR.next hI

end Sys2Proof.Machine
end

