-- ==== Sys2Proof/Laws/ImplementInv.lean ====
section
/-! SUPPORT. What the operations of Machine/Implement.lean keep: the invariant `Inv`. -/

set_option Elab.async false

namespace Sys2Proof.Machine

theorem seedCtx_inv (i : Fin 160) (v : List Nat) {s : State} (hI : Inv s) : Inv (seedCtx i v s) := by
  unfold seedCtx
  try extract_lets
  repeat' first
    | with_reducible assumption
    | with_reducible refine Inv.ite ?_ ?_
    | (guard_target = Inv (endFault ..); with_reducible apply endFault_inv)
    | (guard_target = Inv (contextClear ..); with_reducible apply contextClear_inv)
    | (guard_target = Inv (modLat ..); with_reducible refine Inv.ofOnly ?_ (modLat_only ..))
    | extract_lets
    | dsimp only
    | split

theorem applyImpl_inv (n : ImplSet) {s : State} (hI : Inv s) : Inv (applyImpl n s) := by
  unfold applyImpl
  try extract_lets
  repeat' first
    | with_reducible assumption
    | with_reducible refine Inv.ite ?_ ?_
    | (guard_target = Inv (seedCtx ..); with_reducible apply seedCtx_inv)
    | (guard_target = Inv (State.onNor ..); refine Inv.onNor ?_ fun _ h => h)
    | (guard_target = Inv (State.onImpl ..); with_reducible refine Inv.ofOnly ?_ (State.onImpl_only ..))
    | with_reducible refine Inv.foldl (fun _ _ _ => ?_) ?_

theorem bodyFreeze_inv (e : Tick) (i : ImplSet) (b : Fin 4) {s : State} (hI : Inv s) : Inv (bodyFreeze e i b s) := by
  unfold bodyFreeze
  try extract_lets
  repeat' first
    | with_reducible assumption
    | with_reducible refine Inv.ite ?_ ?_
    | (guard_target = Inv (noticeAt ..); with_reducible apply noticeAt_inv)
    | (guard_target = Inv (State.onImpl ..); with_reducible refine Inv.ofOnly ?_ (State.onImpl_only ..))

theorem implFreeze_inv (e : Tick) {s : State} (hI : Inv s) : Inv (implFreeze e s) := by
  unfold implFreeze
  try extract_lets
  repeat' first
    | with_reducible assumption
    | with_reducible refine Inv.ite ?_ ?_
    | (guard_target = Inv (bodyFreeze ..); with_reducible apply bodyFreeze_inv)
    | with_reducible refine Inv.foldl (fun _ _ _ => ?_) ?_
    | with_reducible refine Inv.foldlFst (fun _ _ _ _ => ?_) ?_
    | extract_lets
    | dsimp only
    | split

end Sys2Proof.Machine
end

