-- ==== Sys2Proof/Laws/DecideInv.lean ====
section
/-! SUPPORT. What the operations of Machine/Decide.lean keep: the invariant `Inv`. -/

set_option Elab.async false

namespace Sys2Proof.Machine

theorem demandLines_inv (ks : List LineKey) {s : State} (hI : Inv s) : Inv (demandLines ks s).1 := by
  unfold demandLines
  try extract_lets
  repeat' first
    | with_reducible assumption
    | with_reducible refine Inv.iteFst ?_ ?_
    | with_reducible refine Inv.ite ?_ ?_
    | (guard_target = Inv (demandLine ..).1; with_reducible apply demandLine_inv)
    | with_reducible refine Inv.foldl (fun _ _ _ => ?_) ?_
    | with_reducible refine Inv.foldlFst (fun _ _ _ _ => ?_) ?_

theorem readFoot_inv (v : FeView) (k : Nat) (ps : List Impact) {s : State} (hI : Inv s) : Inv (readFoot v k ps s).1 := by
  unfold readFoot
  try extract_lets
  repeat' first
    | with_reducible assumption
    | with_reducible refine Inv.iteFst ?_ ?_
    | with_reducible refine Inv.ite ?_ ?_
    | (guard_target = Inv (meetErrors ..).1; with_reducible apply meetErrors_inv)
    | extract_lets
    | dsimp only
    | split
    | dsimp +zetaDelta only

theorem readLines_inv (before fetched : State) {r : State × List Nat} (hr : Inv r.1) : Inv (readLines before fetched r).1 :=
  meetLines_inv _ _ _ hr

theorem readTint_inv (v : FeView) (k : Nat) {s : State} (hI : Inv s) : Inv (readTint v k s).1 := by
  unfold readTint
  try extract_lets
  repeat' first
    | with_reducible assumption
    | with_reducible refine Inv.iteFst ?_ ?_
    | with_reducible refine Inv.ite ?_ ?_
    | (guard_target = Inv (meetErrors ..).1; with_reducible apply meetErrors_inv)
    | extract_lets
    | dsimp only
    | split
    | dsimp +zetaDelta only

theorem evalCtx_inv (v : FeView) (k : Fin 160) (battOff : Bool) (x0 : FeCtx) {s : State} (hI : Inv s) : Inv (evalCtx v k battOff x0 s).1 := by
  unfold evalCtx
  extract_lets on batt lat ttr sec dirs dirA dirB recA recB r x1 pa pb d0 d a b h ev x2 wa wb moved base cause x3 errs notes c0 late moves cs change
  have h0 : Inv d0.1 := demandLines_inv _ hI
  have hd : Inv d.1 := readLines_inv _ _ (readFoot_inv _ _ _ h0)
  clear_value d change notes x3 x2 x1 d0
  with_reducible refine Inv.iteFst hI (Inv.iteFst hI (Inv.iteFst ?_ ?_))
  · exact notice_inv _ _ _ _ (meetFetched_inv _ _ h0)
  · split
    · exact hd
    · extract_lets only dt q d2 d3 w
      have h2 : Inv d2.1 := demandLines_inv _ hd
      have h3 : Inv d3.1 := readLines_inv _ _ (readFoot_inv _ _ _ h2)
      clear_value d2 d3 q
      with_reducible refine Inv.iteFst (Inv.iteFst ?_ ?_) ?_
      · exact notice_inv _ _ _ _ (meetFetched_inv _ _ h2)
      all_goals assumption

end Sys2Proof.Machine
end

