-- ==== Sys2Proof/Laws/FieldPaintInv.lean ====
section
/-! SUPPORT. What the operations of Machine/FieldPaint.lean keep: the invariant `Inv`. -/

set_option Elab.async false

namespace Sys2Proof.Machine

theorem demandPaint_inv (p : Paint) {s : State} (hI : Inv s) : Inv (demandPaint p s).1 := by
  unfold demandPaint
  try extract_lets
  repeat' first
    | with_reducible assumption
    | with_reducible refine Inv.iteFst ?_ ?_
    | with_reducible refine Inv.ite ?_ ?_
    | (guard_target = Inv (demandLines ..).1; with_reducible apply demandLines_inv)
    | (guard_target = Inv (meetFetched ..); with_reducible apply meetFetched_inv)
    | extract_lets
    | dsimp only
    | split
    | dsimp +zetaDelta only

theorem demandPaints_inv (ps : List Paint) {s : State} (hI : Inv s) : Inv (demandPaints ps s).1 := by
  unfold demandPaints
  try extract_lets
  repeat' first
    | with_reducible assumption
    | with_reducible refine Inv.iteFst ?_ ?_
    | with_reducible refine Inv.ite ?_ ?_
    | (guard_target = Inv (demandPaint ..).1; with_reducible apply demandPaint_inv)
    | with_reducible refine Inv.foldl (fun _ _ _ => ?_) ?_
    | with_reducible refine Inv.foldlFst (fun _ _ _ _ => ?_) ?_

theorem applyPaints_inv (ps : List Paint) {s : State} (hI : Inv s) : Inv (applyPaints ps s).1 := by
  unfold applyPaints
  try extract_lets
  repeat' first
    | with_reducible assumption
    | with_reducible refine Inv.iteFst ?_ ?_
    | with_reducible refine Inv.ite ?_ ?_
    | (guard_target = Inv (paint ..).1; with_reducible apply paint_inv)
    | with_reducible refine Inv.foldl (fun _ _ _ => ?_) ?_
    | with_reducible refine Inv.foldlFst (fun _ _ _ _ => ?_) ?_

theorem endRunsNow_inv (t : Tick) {s : State} (hI : Inv s) : Inv (endRunsNow t s) := by
  unfold endRunsNow
  try extract_lets
  repeat' first
    | with_reducible assumption
    | with_reducible refine Inv.ite ?_ ?_
    | (guard_target = Inv (writeLog ..); with_reducible apply writeLog_inv)
    | (guard_target = Inv (State.onFe ..); with_reducible refine Inv.ofOnly ?_ (State.onFe_only ..))
    | with_reducible refine Inv.foldl (fun _ _ _ => ?_) ?_
    | with_reducible refine Inv.foldlFst (fun _ _ _ _ => ?_) ?_
    | extract_lets
    | dsimp only
    | split
    | dsimp +zetaDelta only

end Sys2Proof.Machine
end

