-- ==== Sys2Proof/Laws/PositionInv.lean ====
section
/-! SUPPORT. What the operations of Machine/Position.lean keep: the invariant `Inv`. -/

set_option Elab.async false

namespace Sys2Proof.Machine

theorem odoUpdate_inv (e : Tick) (fix : Bool) (f : FilterSt) (k : Fin 4) {s : State} (hI : Inv s) : Inv (odoUpdate e fix f k s) := by
  unfold odoUpdate
  extract_lets o t r fused slip since okFrom slipping dist cal s1
  refine Inv.ite (hI.ofOnly (modOdo_only ..)) ?_
  have h1 : Inv s1 := hI.ofOnly (modOdo_only ..)
  clear_value s1
  exact Inv.ite (Inv.onPd0 h1 fun _ h => h) h1

theorem setOrigin_inv (o : Origin) (auto : Bool) (e : Tick) {s : State} (hI : Inv s) : Inv (setOrigin o auto e s) := by
  unfold setOrigin
  try extract_lets
  repeat' first
    | with_reducible assumption
    | (guard_target = Inv (notice ..); with_reducible apply notice_inv)
    | with_reducible refine Inv.ite ?_ ?_
    | (guard_target = Inv (changeOrigin ..); with_reducible apply changeOrigin_inv)
    | (guard_target = Inv (noticeAt ..); with_reducible apply noticeAt_inv)
    | (guard_target = Inv (State.onAct ..); with_reducible refine Inv.ofOnly ?_ (State.onAct_only ..))
    | (guard_target = Inv (State.onShd ..); with_reducible refine Inv.ofOnly ?_ (State.onShd_only ..))

theorem autoOrigin_inv (e : Tick) (q : Quality) (f : FilterSt) {s : State} (hI : Inv s) : Inv (autoOrigin e q f s) := by
  unfold autoOrigin
  try extract_lets
  repeat' first
    | with_reducible assumption
    | with_reducible refine Inv.ite ?_ ?_
    | (guard_target = Inv (setOrigin ..); with_reducible apply setOrigin_inv)
    | extract_lets
    | dsimp only
    | split
    | dsimp +zetaDelta only

theorem odoAll_inv (e : Tick) {s : State} (hI : Inv s) : Inv (odoAll e s) := by
  unfold odoAll
  try extract_lets
  repeat' first
    | with_reducible assumption
    | with_reducible refine Inv.ite ?_ ?_
    | (guard_target = Inv (odoUpdate ..); with_reducible apply odoUpdate_inv)
    | (guard_target = Inv (State.onPos ..); with_reducible refine Inv.ofOnly ?_ (State.onPos_only ..))
    | with_reducible refine Inv.foldl (fun _ _ _ => ?_) ?_
    | with_reducible refine Inv.foldlFst (fun _ _ _ _ => ?_) ?_
    | extract_lets
    | dsimp only
    | split
    | dsimp +zetaDelta only

theorem positionFault_inv (bad : Bool) {s : State} (hI : Inv s) : Inv (positionFault bad s) := by
  unfold positionFault
  try extract_lets
  repeat' first
    | with_reducible assumption
    | with_reducible refine Inv.ite ?_ ?_
    | (guard_target = Inv (endFault ..); with_reducible apply endFault_inv)
    | (guard_target = Inv (logFault ..); with_reducible apply logFault_inv)
    | (guard_target = Inv (State.onPos ..); with_reducible refine Inv.ofOnly ?_ (State.onPos_only ..))

theorem fuse_inv (e : Tick) {s : State} (hI : Inv s) : Inv (fuse e s).1 := by
  unfold fuse
  try extract_lets
  repeat' first
    | with_reducible assumption
    | with_reducible refine Inv.iteFst ?_ ?_
    | with_reducible refine Inv.ite ?_ ?_
    | (guard_target = Inv (ambiguities ..).1; with_reducible refine Inv.ofOnly ?_ (ambiguities_only ..))
    | (guard_target = Inv (headingRestore ..).2; with_reducible refine Inv.ofOnly ?_ (headingRestore_only ..))
    | (guard_target = Inv (odoAll ..); with_reducible apply odoAll_inv)
    | (guard_target = Inv (standstill ..); with_reducible refine Inv.ofOnly ?_ (standstill_only ..))
    | (guard_target = Inv (takeEpoch ..); with_reducible refine Inv.ofOnly ?_ (takeEpoch_only ..))
    | (guard_target = Inv (State.onPos ..); with_reducible refine Inv.ofOnly ?_ (State.onPos_only ..))
    | extract_lets
    | dsimp only
    | split
    | dsimp +zetaDelta only

theorem posFreeze_inv (e : Tick) (fz0 : Freeze) {s0 : State} (hI : Inv s0) : Inv (posFreeze e fz0 s0) := by
  unfold posFreeze
  extract_lets fz s old bad r s4 u v f aligned down q fixedNow word dr step s5 pose lost freed s6 s7 s8
  have h : Inv s := hI.ofOnly (takeImu_only ..)
  clear_value s
  refine Inv.ite h ?_
  have h4 : Inv s4 := fuse_inv _ h
  clear_value s4
  have h5 : Inv s5 := autoOrigin_inv _ _ _ h4
  clear_value s5 pose
  have h6 : Inv s6 := h5.ofOnly (State.onPos_only _ _)
  clear_value s6
  have h7 : Inv s7 := Inv.ite (writeLog_inv _ (noticeNow_inv _ _ _ _ _ h6)) h6
  clear_value s7
  have h8 : Inv s8 := Inv.ite (noticeAt_inv _ _ _ _ _ h7) h7
  clear_value s8
  exact positionFault_inv _ h8

end Sys2Proof.Machine
end

