-- ==== Sys2Proof/Laws/FieldEngineInv.lean ====
section
/-! SUPPORT. What the operations of Machine/FieldEngine.lean keep: the invariant `Inv`. -/

set_option Elab.async false

namespace Sys2Proof.Machine

theorem nameLine_inv (k : LineKey) {s : State} (hI : Inv s) : Inv (nameLine k s) := by
  unfold nameLine
  try extract_lets
  repeat' first
    | with_reducible assumption
    | with_reducible refine Inv.ite ?_ ?_
    | (guard_target = Inv (State.onMap ..); refine Inv.onMap ?_ fun _ h => h)
    | extract_lets
    | dsimp only
    | split
    | dsimp +zetaDelta only

theorem prefetch_inv (v : FeView) {s : State} (hI : Inv s) : Inv (prefetch v s) := by
  unfold prefetch
  try extract_lets
  repeat' first
    | with_reducible assumption
    | with_reducible refine Inv.ite ?_ ?_
    | (guard_target = Inv (meetFetched ..); with_reducible apply meetFetched_inv)
    | (guard_target = Inv (nameLine ..); with_reducible apply nameLine_inv)
    | (guard_target = Inv (touchLine ..); with_reducible apply touchLine_inv)
    | (guard_target = Inv (State.onMap ..); refine Inv.onMap ?_ fun _ h => h)
    | with_reducible refine Inv.foldl (fun _ _ _ => ?_) ?_
    | with_reducible refine Inv.foldlFst (fun _ _ _ _ => ?_) ?_
    | extract_lets
    | dsimp only
    | split
    | dsimp +zetaDelta only

theorem evalOne_inv (v : FeView) (decides : Bool) (k : Fin 160) {a : FrameEval} (h : Inv a.st) : Inv (evalOne v decides k a).st := by
  unfold evalOne
  split
  · exact h
  · extract_lets t errs off r
    have ht : Inv t.1 := readTint_inv _ _ h
    clear_value t
    split
    · exact evalCtx_inv v k off a.ctx[k] ht
    · exact ht

theorem evalAll_inv (v : FeView) (decides : Bool) (ks : List (Fin 160)) {a : FrameEval} (h : Inv a.st) :
    Inv (ks.foldl (fun a k => evalOne v decides k a) a).st := by
  induction ks generalizing a with
  | nil => exact h
  | cons k ks ih => exact ih (evalOne_inv v decides k h)

theorem formBatch_inv (e : Tick) (i : ImplSet) {s : State} (hI : Inv s) : Inv (formBatch e i s).1 := by
  unfold formBatch
  extract_lets v decides ev s1 rate pl before after fp dp s2 dirs thermal
  have h1 : Inv s1 := evalAll_inv v decides (List.finRange 160)
    (a := { st := s.onMap (fun m => { m with misses := 0 }), ctx := s.fe.ctx }) (Inv.onMap hI (f := fun m => { m with misses := 0 }) fun _ hx => hx)
  clear_value s1 thermal dirs
  have hd : Inv dp.1 := demandPaints_inv _ h1
  clear_value dp
  have h2 : Inv s2 := Inv.ite hd (notice_inv _ _ _ _ hd)
  clear_value s2
  exact prefetch_inv _ h2

theorem execDecisionPhase_inv  {s : State} (hI : Inv s) : InvR (execDecisionPhase s) := by
  unfold execDecisionPhase
  split
  · refine InvR.ite ?_ (InvR.next hI)
    extract_lets s1
    have h1 : Inv s1 := (hI.ofOnly (State.onSys_only _ _))
    clear_value s1
    refine InvR.ite ?_ (InvR.next h1)
    split
    · exact InvR.next ((((formBatch_inv (hI := h1) ..)).ofOnly (State.onFe_only _ _)))
    · exact InvR.next ((h1.ofOnly (State.onFe_only _ _)))
  · exact InvR.next hI

theorem commitPhases_inv (e : Tick) {s : State} (hI : Inv s) : Inv (commitPhases e s) := by
  unfold commitPhases
  try extract_lets
  repeat' first
    | with_reducible assumption
    | with_reducible refine Inv.ite ?_ ?_
    | (guard_target = Inv (notice ..); with_reducible apply notice_inv)
    | (guard_target = Inv (State.onNor ..); refine Inv.onNor ?_ fun _ h => h)
    | (guard_target = Inv (State.onImpl ..); with_reducible refine Inv.ofOnly ?_ (State.onImpl_only ..))
    | (guard_target = Inv (State.onPwu ..); with_reducible refine Inv.ofOnly ?_ (State.onPwu_only ..))
    | with_reducible refine Inv.foldl (fun _ _ _ => ?_) ?_
    | with_reducible refine Inv.foldlFst (fun _ _ _ _ => ?_) ?_
    | extract_lets
    | dsimp only
    | split
    | dsimp +zetaDelta only

end Sys2Proof.Machine
end

