-- ==== Sys2Proof/Laws/CanInv.lean ====
section
/-! SUPPORT. What the operations of Machine/Can.lean keep: the invariant `Inv`. -/

set_option Elab.async false

namespace Sys2Proof.Machine

theorem canNote_inv (x : Fin 3) (code obj : Nat) (body : List Byte) {s : State} (hI : Inv s) : Inv (canNote x code obj body s) := by
  unfold canNote
  try extract_lets
  repeat' first
    | with_reducible assumption
    | with_reducible refine Inv.ite ?_ ?_
    | (guard_target = Inv (notice ..); with_reducible apply notice_inv)

theorem rxNotices_inv (t : Tick) {s : State} (hI : Inv s) : Inv (rxNotices t s) := by
  unfold rxNotices
  refine Inv.foldl (fun u x hx => ?_) hI
  extract_lets new
  exact Inv.ite hx (noticeNow_inv _ _ _ _ _ (hx.ofOnly (modCtl_only ..)))

theorem rowDone_inv (k : Fin 32) (l : Slot) (o : TxOutcome) (eof : Tick) {s : State} (hI : Inv s) : Inv (rowDone k l o eof s) := by
  unfold rowDone
  try extract_lets
  repeat' first
    | with_reducible assumption
    | with_reducible refine Inv.ite ?_ ?_
    | (guard_target = Inv (canNote ..); with_reducible apply canNote_inv)
    | (guard_target = Inv (loadSlot ..); with_reducible refine Inv.ofOnly ?_ (loadSlot_only ..))
    | (guard_target = Inv (moreAllOff ..); with_reducible refine Inv.ofOnly ?_ (moreAllOff_only ..))
    | (guard_target = Inv (rowSent ..); with_reducible refine Inv.ofOnly ?_ (rowSent_only ..))
    | (guard_target = Inv (rowUndelivered ..); with_reducible refine Inv.ofOnly ?_ (rowUndelivered_only ..))
    | (guard_target = Inv (State.onCan ..); with_reducible refine Inv.ofOnly ?_ (State.onCan_only ..))
    | extract_lets
    | dsimp only
    | split
    | dsimp +zetaDelta only

theorem endSlot_inv (x : Fin 3) (k : Fin 32) (o : TxOutcome) (eof : Tick) {s : State} (hI : Inv s) : Inv (endSlot x k o eof s) := by
  unfold endSlot
  try extract_lets
  repeat' first
    | with_reducible assumption
    | with_reducible refine Inv.ite ?_ ?_
    | (guard_target = Inv (canNote ..); with_reducible apply canNote_inv)
    | (guard_target = Inv (isoDone ..); with_reducible refine Inv.ofOnly ?_ (isoDone_only ..))
    | (guard_target = Inv (modSlot ..); with_reducible refine Inv.ofOnly ?_ (modSlot_only ..))
    | (guard_target = Inv (rowDone ..); with_reducible apply rowDone_inv)
    | extract_lets
    | dsimp only
    | split

theorem enterBusOff_inv (x : Fin 3) {s : State} (hI : Inv s) : Inv (enterBusOff x s) := by
  unfold enterBusOff
  try extract_lets
  repeat' first
    | with_reducible assumption
    | with_reducible refine Inv.ite ?_ ?_
    | (guard_target = Inv (logFault ..); with_reducible apply logFault_inv)
    | (guard_target = Inv (modCtl ..); with_reducible refine Inv.ofOnly ?_ (modCtl_only ..))
    | (guard_target = Inv (State.onPos ..); with_reducible refine Inv.ofOnly ?_ (State.onPos_only ..))
    | (guard_target = Inv (State.onCan ..); with_reducible refine Inv.ofOnly ?_ (State.onCan_only ..))

theorem setCounters_inv (x : Fin 3) (tec rc : Nat) {s : State} (hI : Inv s) : Inv (setCounters x tec rc s) := by
  unfold setCounters
  try extract_lets
  repeat' first
    | with_reducible assumption
    | with_reducible refine Inv.ite ?_ ?_
    | (guard_target = Inv (canNote ..); with_reducible apply canNote_inv)
    | (guard_target = Inv (enterBusOff ..); with_reducible apply enterBusOff_inv)
    | (guard_target = Inv (modCtl ..); with_reducible refine Inv.ofOnly ?_ (modCtl_only ..))

theorem execReceiveError_inv (x : Fin 3) (recUp : Nat) {s : State} (hI : Inv s) : InvR (execReceiveError x recUp s) := by
  unfold execReceiveError
  try extract_lets
  repeat' first
    | with_reducible assumption
    | with_reducible refine InvR.next ?_
    | with_reducible refine InvR.ite ?_ ?_
    | with_reducible refine Inv.ite ?_ ?_
    | (guard_target = Inv (setCounters ..); with_reducible apply setCounters_inv)

theorem execBusoffRecoveryComplete_inv (x : Fin 3) {s : State} (hI : Inv s) : InvR (execBusoffRecoveryComplete x s) := by
  unfold execBusoffRecoveryComplete
  try extract_lets
  repeat' first
    | with_reducible assumption
    | with_reducible refine InvR.next ?_
    | with_reducible refine InvR.ite ?_ ?_
    | with_reducible refine Inv.ite ?_ ?_
    | (guard_target = Inv (canNote ..); with_reducible apply canNote_inv)
    | (guard_target = Inv (endFault ..); with_reducible apply endFault_inv)
    | (guard_target = Inv (modCtl ..); with_reducible refine Inv.ofOnly ?_ (modCtl_only ..))
    | (guard_target = Inv (State.onCan ..); with_reducible refine Inv.ofOnly ?_ (State.onCan_only ..))

theorem execBusRejoin_inv (x : Fin 3) {s : State} (hI : Inv s) : InvR (execBusRejoin x s) := by
  unfold execBusRejoin
  try extract_lets
  repeat' first
    | with_reducible assumption
    | with_reducible refine InvR.next ?_
    | with_reducible refine InvR.ite ?_ ?_
    | with_reducible refine Inv.ite ?_ ?_
    | (guard_target = Inv (canNote ..); with_reducible apply canNote_inv)
    | (guard_target = Inv (modCtl ..); with_reducible refine Inv.ofOnly ?_ (modCtl_only ..))

theorem dropActive_inv (x : Fin 3) {s : State} (hI : Inv s) : Inv (dropActive x s) := by
  unfold dropActive
  try extract_lets
  repeat' first
    | with_reducible assumption
    | with_reducible refine Inv.ite ?_ ?_
    | (guard_target = Inv (endSlot ..); with_reducible apply endSlot_inv)
    | (guard_target = Inv (modSlot ..); with_reducible refine Inv.ofOnly ?_ (modSlot_only ..))
    | extract_lets
    | dsimp only
    | split
    | dsimp +zetaDelta only

theorem takeOff_inv (x : Fin 3) {s : State} (hI : Inv s) : Inv (takeOff x s) := by
  unfold takeOff
  try extract_lets
  repeat' first
    | with_reducible assumption
    | with_reducible refine Inv.ite ?_ ?_
    | (guard_target = Inv (dropActive ..); with_reducible apply dropActive_inv)
    | (guard_target = Inv (modCtl ..); with_reducible refine Inv.ofOnly ?_ (modCtl_only ..))
    | extract_lets
    | dsimp only
    | split
    | dsimp +zetaDelta only

theorem commitCan_inv (old : Params) {s : State} (hI : Inv s) : Inv (commitCan old s) := by
  unfold commitCan
  try extract_lets
  repeat' first
    | with_reducible assumption
    | with_reducible refine Inv.ite ?_ ?_
    | (guard_target = Inv (modCtl ..); with_reducible refine Inv.ofOnly ?_ (modCtl_only ..))
    | (guard_target = Inv (takeOff ..); with_reducible apply takeOff_inv)
    | with_reducible refine Inv.foldl (fun _ _ _ => ?_) ?_
    | with_reducible refine Inv.foldlFst (fun _ _ _ _ => ?_) ?_
    | extract_lets
    | dsimp only
    | split
    | dsimp +zetaDelta only

theorem retrySlot_inv (x : Fin 3) (k : Fin 32) {s : State} (hI : Inv s) : Inv (retrySlot x k s) := by
  unfold retrySlot
  try extract_lets
  repeat' first
    | with_reducible assumption
    | with_reducible refine Inv.ite ?_ ?_
    | (guard_target = Inv (endSlot ..); with_reducible apply endSlot_inv)
    | (guard_target = Inv (modSlot ..); with_reducible refine Inv.ofOnly ?_ (modSlot_only ..))

theorem takeTdc_inv (x : Fin 3) (k : Fin 32) (t : Option Nat) {s : State} (hI : Inv s) : Inv (takeTdc x k t s) := by
  unfold takeTdc
  try extract_lets
  repeat' first
    | with_reducible assumption
    | with_reducible refine Inv.ite ?_ ?_
    | (guard_target = Inv (canNote ..); with_reducible apply canNote_inv)
    | (guard_target = Inv (modCtl ..); with_reducible refine Inv.ofOnly ?_ (modCtl_only ..))
    | extract_lets
    | dsimp only
    | split
    | dsimp +zetaDelta only

theorem execCanTxEnd_inv (x : Fin 3) (r : TxResult) {s : State} (hI : Inv s) : InvR (execCanTxEnd x r s) := by
  unfold execCanTxEnd
  split
  · exact InvR.next hI
  · split
    · extract_lets l s1 s2 f
      have h1 : Inv s1 := takeTdc_inv _ _ _ (hI.ofOnly (modSlot_only ..))
      clear_value s1
      have h2 : Inv s2 := endSlot_inv _ _ _ _ (setCounters_inv _ _ _ h1)
      clear_value s2 f
      refine InvR.ite ?_ (InvR.next h2)
      split
      · exact InvR.next (h2.ofOnly (storeFrame_only ..))
      · exact InvR.next h2
    · exact InvR.next (retrySlot_inv _ _ hI)
    · extract_lets l n hit s1 s2
      have h1 : Inv s1 := (takeTdc_inv _ _ _ hI).ofOnly (modSlot_only ..)
      clear_value s1
      have h2 : Inv s2 := Inv.ite (canNote_inv _ _ _ _ h1) h1
      clear_value s2
      exact InvR.next (retrySlot_inv _ _ (setCounters_inv _ _ _ h2))

theorem execCanDeadlineExpiry_inv (x : Fin 3) (slot : Fin 32) {s : State} (hI : Inv s) : InvR (execCanDeadlineExpiry x slot s) := by
  unfold execCanDeadlineExpiry
  try extract_lets
  repeat' first
    | with_reducible assumption
    | with_reducible refine InvR.next ?_
    | with_reducible refine InvR.ite ?_ ?_
    | with_reducible refine Inv.ite ?_ ?_
    | (guard_target = Inv (endSlot ..); with_reducible apply endSlot_inv)

theorem addressNote_inv (old : Nat) {s : State} (hI : Inv s) : Inv (addressNote old s) := by
  unfold addressNote
  try extract_lets
  repeat' first
    | with_reducible assumption
    | with_reducible refine Inv.ite ?_ ?_
    | (guard_target = Inv (canNote ..); with_reducible apply canNote_inv)

theorem takeClaim_inv (f : CanFrame) {s : State} (hI : Inv s) : Inv (takeClaim f s) := by
  unfold takeClaim
  try extract_lets
  repeat' first
    | with_reducible assumption
    | with_reducible refine Inv.ite ?_ ?_
    | (guard_target = Inv (addressNote ..); with_reducible apply addressNote_inv)
    | (guard_target = Inv (claimNext ..); with_reducible refine Inv.ofOnly ?_ (claimNext_only ..))
    | (guard_target = Inv (sendClaim ..); with_reducible refine Inv.ofOnly ?_ (sendClaim_only ..))
    | (guard_target = Inv (State.onCan ..); with_reducible refine Inv.ofOnly ?_ (State.onCan_only ..))

theorem takeSegment_inv (f : CanFrame) (lost : Bool) {s : State} (hI : Inv s) : Inv (takeSegment f lost s) := by
  unfold takeSegment
  try extract_lets
  repeat' first
    | with_reducible assumption
    | with_reducible refine Inv.ite ?_ ?_
    | (guard_target = Inv (State.onHost ..); refine Inv.onHost ?_ fun _ hd => HostInv.vmod (fun _ hq => hq) hd)

theorem useReserved_inv (x : Fin 3) (k : Nat) (f : CanFrame) {s : State} (hI : Inv s) : Inv (useReserved x k f s) := by
  unfold useReserved
  try extract_lets
  repeat' first
    | with_reducible assumption
    | with_reducible refine Inv.ite ?_ ?_
    | (guard_target = Inv (readHole ..).2; with_reducible refine Inv.ofOnly ?_ (readHole_only ..))
    | (guard_target = Inv (takeClaim ..); with_reducible apply takeClaim_inv)
    | (guard_target = Inv (takeRequest ..); with_reducible refine Inv.ofOnly ?_ (takeRequest_only ..))
    | (guard_target = Inv (takeSegment ..); with_reducible apply takeSegment_inv)
    | (guard_target = Inv (takeSpeed ..); with_reducible refine Inv.ofOnly ?_ (takeSpeed_only ..))
    | extract_lets
    | dsimp only
    | split

theorem canFrameReceive_inv (x : Fin 3) (f : CanFrame) {s : State} (hI : Inv s) : Inv (canFrameReceive x f s) := by
  unfold canFrameReceive
  refine Inv.ite ?_ hI
  extract_lets rc big rc' s0
  have h0 : Inv s0 := setCounters_inv _ _ _ (Inv.ite (hI.ofOnly (State.free_only _ _)) hI)
  clear_value s0
  split
  · exact h0.ofOnly (modCtl_only ..)
  · extract_lets s1
    have h1 : Inv s1 := h0.ofOnly (storeFrame_only ..)
    clear_value s1
    exact Inv.ite (useReserved_inv _ _ _ h1) h1

theorem execAddressClaimTimer_inv  {s : State} (hI : Inv s) : InvR (execAddressClaimTimer s) := by
  unfold execAddressClaimTimer
  try extract_lets
  repeat' first
    | with_reducible assumption
    | with_reducible refine InvR.next ?_
    | with_reducible refine InvR.ite ?_ ?_
    | with_reducible refine Inv.ite ?_ ?_
    | (guard_target = Inv (addressNote ..); with_reducible apply addressNote_inv)
    | (guard_target = Inv (State.onCan ..); with_reducible refine Inv.ofOnly ?_ (State.onCan_only ..))
    | extract_lets
    | dsimp only
    | split

theorem nodeCmd_inv (e : Tick) (n : Fin 32) (acted : Nat → Option (Tick × Bool)) (evs : List Ev) {s : State} (hI : Inv s) : Inv (nodeCmd e n acted evs s).1 := by
  unfold nodeCmd
  try extract_lets
  repeat' first
    | with_reducible assumption
    | with_reducible refine Inv.iteFst ?_ ?_
    | with_reducible refine Inv.ite ?_ ?_
    | (guard_target = Inv (loadRowCmd ..); with_reducible refine Inv.ofOnly ?_ (loadRowCmd_only ..))
    | (guard_target = Inv (modNode ..); with_reducible refine Inv.ofOnly ?_ (modNode_only ..))
    | (guard_target = Inv (notice ..); with_reducible apply notice_inv)
    | (guard_target = Inv (State.onCan ..); with_reducible refine Inv.ofOnly ?_ (State.onCan_only ..))
    | with_reducible refine Inv.foldl (fun _ _ _ => ?_) ?_
    | with_reducible refine Inv.foldlFst (fun _ _ _ _ => ?_) ?_
    | extract_lets
    | dsimp only
    | split
    | dsimp +zetaDelta only

theorem rowCommands_inv (e : Tick) (acted : Nat → Option (Tick × Bool)) (evs : List Ev) {s : State} (hI : Inv s) : Inv (rowCommands e acted evs s).1 := by
  unfold rowCommands
  refine Inv.iteFst hI ?_
  exact Inv.foldlFst (fun t b a hx => nodeCmd_inv _ _ _ _ hx) hI

theorem remoteMotion_inv (i : Fin 160) (noSig : Bool) {s : State} (hI : Inv s) : Inv (remoteMotion i noSig s) := by
  unfold remoteMotion
  try extract_lets
  repeat' first
    | with_reducible assumption
    | with_reducible refine Inv.ite ?_ ?_
    | (guard_target = Inv (endFault ..); with_reducible apply endFault_inv)
    | (guard_target = Inv (logFault ..); with_reducible apply logFault_inv)
    | (guard_target = Inv (modLat ..); with_reducible refine Inv.ofOnly ?_ (modLat_only ..))
    | (guard_target = Inv (notice ..); with_reducible apply notice_inv)

theorem reportEntry_inv (n : Fin 32) (at_ : Tick) (synced measures : Bool) (b : Nat) {s : State} (hI : Inv s) : Inv (reportEntry n at_ synced measures s b) := by
  unfold reportEntry
  try extract_lets
  repeat' first
    | with_reducible assumption
    | with_reducible refine Inv.ite ?_ ?_
    | (guard_target = Inv (learn ..); with_reducible apply learn_inv)
    | (guard_target = Inv (remoteMotion ..); with_reducible apply remoteMotion_inv)
    | (guard_target = Inv (State.onFe ..); with_reducible refine Inv.ofOnly ?_ (State.onFe_only ..))
    | (guard_target = Inv (State.onCan ..); with_reducible refine Inv.ofOnly ?_ (State.onCan_only ..))
    | extract_lets
    | dsimp only
    | split
    | dsimp +zetaDelta only

theorem takeReport_inv (n : Fin 32) {s : State} (hI : Inv s) : Inv (takeReport n s) := by
  unfold takeReport
  try extract_lets
  repeat' first
    | with_reducible assumption
    | with_reducible refine Inv.ite ?_ ?_
    | (guard_target = Inv (endFault ..); with_reducible apply endFault_inv)
    | (guard_target = Inv (logFault ..); with_reducible apply logFault_inv)
    | (guard_target = Inv (modNode ..); with_reducible refine Inv.ofOnly ?_ (modNode_only ..))
    | (guard_target = Inv (readHole ..).2; with_reducible refine Inv.ofOnly ?_ (readHole_only ..))
    | (guard_target = Inv (reportEntry ..); with_reducible apply reportEntry_inv)
    | with_reducible refine Inv.foldl (fun _ _ _ => ?_) ?_

theorem takeReports_inv  {s : State} (hI : Inv s) : Inv (takeReports s) := by
  unfold takeReports
  try extract_lets
  repeat' first
    | with_reducible assumption
    | with_reducible refine Inv.ite ?_ ?_
    | (guard_target = Inv (takeReport ..); with_reducible apply takeReport_inv)
    | with_reducible refine Inv.foldl (fun _ _ _ => ?_) ?_
    | with_reducible refine Inv.foldlFst (fun _ _ _ _ => ?_) ?_
    | extract_lets
    | dsimp only
    | split
    | dsimp +zetaDelta only

theorem execReportWaitExpiry_inv  {s : State} (hI : Inv s) : InvR (execReportWaitExpiry s) := by
  unfold execReportWaitExpiry
  try extract_lets
  repeat' first
    | with_reducible assumption
    | with_reducible refine InvR.next ?_
    | with_reducible refine InvR.ite ?_ ?_
    | with_reducible refine Inv.ite ?_ ?_
    | (guard_target = Inv (commandUnreported ..); with_reducible refine Inv.ofOnly ?_ (commandUnreported_only ..))
    | (guard_target = Inv (takeReports ..); with_reducible apply takeReports_inv)
    | extract_lets
    | dsimp only
    | split
    | dsimp +zetaDelta only

theorem execRowNodeLost_inv (n : Fin 32) {s0 : State} (hI : Inv s0) : InvR (execRowNodeLost n s0) := by
  unfold execRowNodeLost
  try extract_lets
  repeat' first
    | with_reducible assumption
    | with_reducible refine InvR.next ?_
    | with_reducible refine InvR.ite ?_ ?_
    | with_reducible refine Inv.ite ?_ ?_
    | (guard_target = Inv (canNote ..); with_reducible apply canNote_inv)
    | (guard_target = Inv (modNode ..); with_reducible refine Inv.ofOnly ?_ (modNode_only ..))
    | (guard_target = Inv (takeReport ..); with_reducible apply takeReport_inv)
    | (guard_target = Inv (State.onFe ..); with_reducible refine Inv.ofOnly ?_ (State.onFe_only ..))
    | with_reducible refine Inv.foldl (fun _ _ _ => ?_) ?_
    | with_reducible refine Inv.foldlFst (fun _ _ _ _ => ?_) ?_
    | extract_lets
    | dsimp only
    | split
    | dsimp +zetaDelta only

theorem expireInGrace_inv {s : State} (hI : Inv s) : Inv (expireInGrace s) := by
  unfold expireInGrace
  exact Inv.ite (Inv.foldl (fun _ _ hx => endSlot_inv _ _ _ _ hx) hI) hI

theorem rowFreeze_inv (e : Tick) {s0 : State} (hI0 : Inv s0) : Inv (rowFreeze e s0) := by
  unfold rowFreeze
  refine Inv.ite hI0 ?_
  extract_lets s s1
  have hI : Inv s := expireInGrace_inv hI0
  clear_value s
  have h1 : Inv s1 := Inv.foldl (fun _ _ hx => hx.ofOnly (uncommit_only ..)) (hI.ofOnly (State.onCan_only _ _))
  clear_value s1
  exact (takeReports_inv h1).ofOnly (commandUnreported_only ..)

theorem opCanTxAbort_inv (e : Env) {s : State} (hI : Inv s) : Inv (opCanTxAbort e s).1 := by
  unfold opCanTxAbort
  try extract_lets
  repeat' first
    | with_reducible assumption
    | with_reducible refine Inv.iteFst ?_ ?_
    | with_reducible refine Inv.ite ?_ ?_
    | dsimp only [deny, done]
    | (guard_target = Inv (endSlot ..); with_reducible apply endSlot_inv)
    | (guard_target = Inv (modSlot ..); with_reducible refine Inv.ofOnly ?_ (modSlot_only ..))
    | extract_lets
    | dsimp only
    | split

end Sys2Proof.Machine
end

