-- ==== Sys2Proof/Laws/SecurityInv.lean ====
section
/-! SUPPORT. What the operations of Machine/Security.lean keep: the invariant `Inv`. -/

set_option Elab.async false

namespace Sys2Proof.Machine

theorem modPort_inv (p : Port) {f : PortSt → PortSt} (hf : ∀ q, PortInv q → PortInv (f q)) {s : State} (h : Inv s) :
    Inv (modPort p f s) := Inv.onHost h fun _ hh => HostInv.vmod hf hh

theorem closeSession_inv (p : Port) {s : State} (hI : Inv s) : Inv (closeSession p s) := by
  unfold closeSession
  try extract_lets
  repeat' first
    | with_reducible assumption
    | with_reducible refine Inv.ite ?_ ?_
    | (guard_target = Inv (modPort ..); refine modPort_inv _ (by exact fun _ hq => hq) ?_)
    | (guard_target = Inv (notice ..); with_reducible apply notice_inv)
    | (guard_target = Inv (State.onSec ..); with_reducible refine Inv.ofOnly ?_ (State.onSec_only ..))
    | extract_lets
    | dsimp only
    | split

theorem openSession_inv (p : Port) (service : Option (BitVec 32)) (nonce : BitVec 128) {s : State} (hI : Inv s) : Inv (openSession p service nonce s).1 := by
  unfold openSession
  try extract_lets
  repeat' first
    | with_reducible assumption
    | with_reducible refine Inv.iteFst ?_ ?_
    | dsimp only [id]
    | with_reducible refine Inv.ite ?_ ?_
    | (guard_target = Inv (closeSession ..); with_reducible apply closeSession_inv)
    | (guard_target = Inv (drawFree ..).1; with_reducible refine Inv.ofOnly ?_ (drawFree_only ..))
    | (guard_target = Inv (modPort ..); refine modPort_inv _ (by exact fun _ hq => hq) ?_)
    | (guard_target = Inv (State.onHost ..); refine Inv.onHost ?_ fun _ h => h)

theorem opSecSessionOpen_inv (e : Env) {s : State} (hI : Inv s) : Inv (opSecSessionOpen e s).1 := by
  unfold opSecSessionOpen
  try extract_lets
  repeat' first
    | with_reducible assumption
    | with_reducible refine Inv.iteFst ?_ ?_
    | with_reducible refine Inv.ite ?_ ?_
    | dsimp only [deny, doneWith]
    | (guard_target = Inv (openSession ..).1; with_reducible apply openSession_inv)

theorem opSecSessionClose_inv (e : Env) {s : State} (hI : Inv s) : Inv (opSecSessionClose e s).1 := by
  unfold opSecSessionClose
  try extract_lets
  repeat' first
    | with_reducible assumption
    | with_reducible refine Inv.iteFst ?_ ?_
    | with_reducible refine Inv.ite ?_ ?_
    | dsimp only [done]
    | (guard_target = Inv (closeSession ..); with_reducible apply closeSession_inv)

theorem opSecServiceResponse_inv (e : Env) {s : State} (hI : Inv s) : Inv (opSecServiceResponse e s).1 := by
  unfold opSecServiceResponse
  try extract_lets
  repeat' first
    | with_reducible assumption
    | with_reducible refine Inv.iteFst ?_ ?_
    | with_reducible refine Inv.ite ?_ ?_
    | dsimp only [deny, doneWith]
    | (guard_target = Inv (extendOpen ..); with_reducible refine Inv.ofOnly ?_ (extendOpen_only ..))
    | (guard_target = Inv (notice ..); with_reducible apply notice_inv)
    | (guard_target = Inv (openSession ..).1; with_reducible apply openSession_inv)
    | (guard_target = Inv (State.onSec ..); with_reducible refine Inv.ofOnly ?_ (State.onSec_only ..))
    | extract_lets
    | dsimp only
    | split

theorem execServiceSessionExpiry_inv  {s : State} (hI : Inv s) : InvR (execServiceSessionExpiry s) := by
  unfold execServiceSessionExpiry
  try extract_lets
  repeat' first
    | with_reducible assumption
    | with_reducible refine InvR.next ?_
    | with_reducible refine InvR.ite ?_ ?_
    | with_reducible refine Inv.ite ?_ ?_
    | (guard_target = Inv (closeSession ..); with_reducible apply closeSession_inv)
    | with_reducible refine Inv.foldl (fun _ _ _ => ?_) ?_
    | with_reducible refine Inv.foldlFst (fun _ _ _ _ => ?_) ?_
    | extract_lets
    | dsimp only
    | split

theorem execImageVerified_inv  {s : State} (hI : Inv s) : InvR (execImageVerified s) := by
  unfold execImageVerified
  try extract_lets
  repeat' first
    | with_reducible assumption
    | with_reducible refine InvR.next ?_
    | with_reducible refine InvR.ite ?_ ?_
    | with_reducible refine Inv.ite ?_ ?_
    | (guard_target = Inv (modImage ..); with_reducible refine Inv.ofOnly ?_ (modImage_only ..))
    | (guard_target = Inv (notice ..); with_reducible apply notice_inv)
    | (guard_target = Inv (State.onSec ..); with_reducible refine Inv.ofOnly ?_ (State.onSec_only ..))
    | extract_lets
    | dsimp only
    | split

theorem cancelActivation_inv  {s : State} (hI : Inv s) : Inv (cancelActivation s) := by
  unfold cancelActivation
  try extract_lets
  repeat' first
    | with_reducible assumption
    | with_reducible refine Inv.ite ?_ ?_
    | (guard_target = Inv (notice ..); with_reducible apply notice_inv)
    | (guard_target = Inv (State.onSec ..); with_reducible refine Inv.ofOnly ?_ (State.onSec_only ..))
    | extract_lets
    | dsimp only
    | split

theorem rejectBank_inv (i : Fin 5) {s : State} (hI : Inv s) : Inv (rejectBank i s) := by
  unfold rejectBank
  try extract_lets
  repeat' first
    | with_reducible assumption
    | with_reducible refine Inv.ite ?_ ?_
    | (guard_target = Inv (extendOpen ..); with_reducible refine Inv.ofOnly ?_ (extendOpen_only ..))
    | (guard_target = Inv (modImage ..); with_reducible refine Inv.ofOnly ?_ (modImage_only ..))
    | (guard_target = Inv (notice ..); with_reducible apply notice_inv)

theorem trialRestart_inv (el : Element) {s : State} (hI : Inv s) : Inv (trialRestart el s) := by
  unfold trialRestart
  try extract_lets
  repeat' first
    | with_reducible assumption
    | with_reducible refine Inv.ite ?_ ?_
    | (guard_target = Inv (modImage ..); with_reducible refine Inv.ofOnly ?_ (modImage_only ..))
    | (guard_target = Inv (rejectBank ..); with_reducible apply rejectBank_inv)

theorem failSelftest_inv (el : Element) {s : State} (hI : Inv s) : Inv (failSelftest el s) := by
  unfold failSelftest
  try extract_lets
  repeat' first
    | with_reducible assumption
    | with_reducible refine Inv.ite ?_ ?_
    | (guard_target = Inv (modImage ..); with_reducible refine Inv.ofOnly ?_ (modImage_only ..))
    | (guard_target = Inv (rejectBank ..); with_reducible apply rejectBank_inv)

theorem execTrialPassed_inv (i : Fin 5) {s : State} (hI : Inv s) : InvR (execTrialPassed i s) := by
  unfold execTrialPassed
  try extract_lets
  repeat' first
    | with_reducible assumption
    | with_reducible refine InvR.next ?_
    | with_reducible refine InvR.ite ?_ ?_
    | with_reducible refine Inv.ite ?_ ?_
    | (guard_target = Inv (modImage ..); with_reducible refine Inv.ofOnly ?_ (modImage_only ..))
    | (guard_target = Inv (notice ..); with_reducible apply notice_inv)
    | (guard_target = Inv (State.onPd0 ..); refine Inv.onPd0 ?_ fun _ h => h)
    | (guard_target = Inv (State.onSec ..); with_reducible refine Inv.ofOnly ?_ (State.onSec_only ..))

theorem saveTrials_inv  {s : State} (hI : Inv s) : Inv (saveTrials s) := by
  unfold saveTrials
  try extract_lets
  repeat' first
    | with_reducible assumption
    | with_reducible refine Inv.ite ?_ ?_
    | (guard_target = Inv (State.onPd0 ..); refine Inv.onPd0 ?_ fun _ h => h)

theorem worldViolation_inv  {s : State} (hI : Inv s) : Inv (worldViolation s) := by
  unfold worldViolation
  try extract_lets
  repeat' first
    | with_reducible assumption
    | with_reducible refine Inv.ite ?_ ?_
    | (guard_target = Inv (logFault ..); with_reducible apply logFault_inv)
    | (guard_target = Inv (notice ..); with_reducible apply notice_inv)
    | (guard_target = Inv (State.onSec ..); with_reducible refine Inv.ofOnly ?_ (State.onSec_only ..))

theorem execTamper_inv  {s : State} (hI : Inv s) : InvR (execTamper s) := by
  unfold execTamper
  try extract_lets
  repeat' first
    | with_reducible assumption
    | with_reducible refine InvR.next ?_
    | with_reducible refine InvR.ite ?_ ?_
    | with_reducible refine Inv.ite ?_ ?_
    | (guard_target = Inv (State.onPd0 ..); refine Inv.onPd0 ?_ fun _ h => h)

end Sys2Proof.Machine
end

