-- ==== Sys2Proof/Laws/TimeInv.lean ====
section
/-! SUPPORT. What the operations of Machine/Time.lean keep: the invariant `Inv`. -/

set_option Elab.async false

namespace Sys2Proof.Machine

theorem logModel_inv (step : Bool) (stepPs : Int) {s : State} (hI : Inv s) : Inv (logModel step stepPs s) := by
  unfold logModel
  try extract_lets
  repeat' first
    | with_reducible assumption
    | with_reducible refine Inv.ite ?_ ?_
    | (guard_target = Inv (writeLog ..); with_reducible apply writeLog_inv)

theorem setTState_inv (t : TState) (pm : Tick) {s : State} (hI : Inv s) : Inv (setTState t pm s) := by
  unfold setTState
  try extract_lets
  repeat' first
    | with_reducible assumption
    | with_reducible refine Inv.ite ?_ ?_
    | (guard_target = Inv (logModel ..); with_reducible apply logModel_inv)
    | (guard_target = Inv (noticeAt ..); with_reducible apply noticeAt_inv)
    | (guard_target = Inv (State.onTime ..); with_reducible refine Inv.ofOnly ?_ (State.onTime_only ..))

theorem setRtc_inv  {s : State} (hI : Inv s) : Inv (setRtc s) := by
  unfold setRtc
  try extract_lets
  repeat' first
    | with_reducible assumption
    | with_reducible refine Inv.ite ?_ ?_
    | (guard_target = Inv (State.onPd0 ..); refine Inv.onPd0 ?_ fun _ h => h)

theorem acceptClock_inv (pm : Tick) (sol : Nat) (drift : Int) {s : State} (hI : Inv s) : Inv (acceptClock pm sol drift s) := by
  unfold acceptClock
  try extract_lets
  repeat' first
    | with_reducible assumption
    | with_reducible refine Inv.ite ?_ ?_
    | (guard_target = Inv (noticeNow ..); with_reducible apply noticeNow_inv)
    | (guard_target = Inv (restartPps ..); with_reducible refine Inv.ofOnly ?_ (restartPps_only ..))
    | (guard_target = Inv (setRtc ..); with_reducible apply setRtc_inv)
    | (guard_target = Inv (setTState ..); with_reducible apply setTState_inv)
    | (guard_target = Inv (State.onTime ..); with_reducible refine Inv.ofOnly ?_ (State.onTime_only ..))
    | extract_lets
    | dsimp only
    | split

theorem timeEpoch_inv (pm : Tick) (m : EpochIn) (sol : Nat) (barred : Bool) {s : State} (hI : Inv s) : Inv (timeEpoch pm m sol barred s) := by
  unfold timeEpoch
  try extract_lets
  repeat' first
    | with_reducible assumption
    | with_reducible refine Inv.ite ?_ ?_
    | (guard_target = Inv (acceptClock ..); with_reducible apply acceptClock_inv)
    | (guard_target = Inv (State.onTime ..); with_reducible refine Inv.ofOnly ?_ (State.onTime_only ..))
    | extract_lets
    | dsimp only
    | split
    | dsimp +zetaDelta only

theorem execHoldoverEntry_inv  {s : State} (hI : Inv s) : InvR (execHoldoverEntry s) := by
  unfold execHoldoverEntry
  try extract_lets
  repeat' first
    | with_reducible assumption
    | with_reducible refine InvR.next ?_
    | with_reducible refine InvR.ite ?_ ?_
    | with_reducible refine Inv.ite ?_ ?_
    | (guard_target = Inv (setTState ..); with_reducible apply setTState_inv)

theorem execHoldoverLimitExpiry_inv  {s : State} (hI : Inv s) : InvR (execHoldoverLimitExpiry s) := by
  unfold execHoldoverLimitExpiry
  try extract_lets
  repeat' first
    | with_reducible assumption
    | with_reducible refine InvR.next ?_
    | with_reducible refine InvR.ite ?_ ?_
    | with_reducible refine Inv.ite ?_ ?_
    | (guard_target = Inv (setTState ..); with_reducible apply setTState_inv)

theorem execPpsPulse_inv  {s : State} (hI : Inv s) : InvR (execPpsPulse s) := by
  unfold execPpsPulse
  try extract_lets
  repeat' first
    | with_reducible assumption
    | with_reducible refine InvR.next ?_
    | with_reducible refine InvR.ite ?_ ?_
    | with_reducible refine Inv.ite ?_ ?_
    | (guard_target = Inv (emitPulse ..); with_reducible refine Inv.ofOnly ?_ (emitPulse_only ..))
    | (guard_target = Inv (logModel ..); with_reducible apply logModel_inv)
    | (guard_target = Inv (noticeNow ..); with_reducible apply noticeNow_inv)
    | (guard_target = Inv (setRtc ..); with_reducible apply setRtc_inv)
    | (guard_target = Inv (setTState ..); with_reducible apply setTState_inv)
    | (guard_target = Inv (State.onTime ..); with_reducible refine Inv.ofOnly ?_ (State.onTime_only ..))
    | extract_lets
    | dsimp only
    | split
    | dsimp +zetaDelta only

theorem sendTimeMessages_inv (t : Tick) {s : State} (hI : Inv s) : Inv (sendTimeMessages t s) := by
  unfold sendTimeMessages
  try extract_lets
  repeat' first
    | with_reducible assumption
    | with_reducible refine Inv.ite ?_ ?_
    | (guard_target = Inv (noticeNow ..); with_reducible apply noticeNow_inv)
    | (guard_target = Inv (State.onTime ..); with_reducible refine Inv.ofOnly ?_ (State.onTime_only ..))
    | with_reducible refine Inv.foldl (fun _ _ _ => ?_) ?_

theorem learnDrift_inv (drift : Int) {s : State} (hI : Inv s) : Inv (learnDrift drift s) := by
  unfold learnDrift
  try extract_lets
  repeat' first
    | with_reducible assumption
    | with_reducible refine Inv.ite ?_ ?_
    | (guard_target = Inv (State.onPd0 ..); refine Inv.onPd0 ?_ fun _ h => h)
    | extract_lets
    | dsimp only
    | split

theorem execTcxoTempUpdate_inv (t : Int) {s : State} (hI : Inv s) : InvR (execTcxoTempUpdate t s) := by
  unfold execTcxoTempUpdate
  try extract_lets
  repeat' first
    | with_reducible assumption
    | with_reducible refine InvR.next ?_
    | with_reducible refine InvR.ite ?_ ?_
    | with_reducible refine Inv.ite ?_ ?_
    | (guard_target = Inv (State.onPd0 ..); refine Inv.onPd0 ?_ fun _ h => h)
    | (guard_target = Inv (State.onTime ..); with_reducible refine Inv.ofOnly ?_ (State.onTime_only ..))
    | extract_lets
    | dsimp only
    | split

theorem clearTcxo_inv  {s : State} (hI : Inv s) : Inv (clearTcxo s) := by
  unfold clearTcxo
  try extract_lets
  repeat' first
    | with_reducible assumption
    | with_reducible refine Inv.ite ?_ ?_
    | (guard_target = Inv (State.onPd0 ..); refine Inv.onPd0 ?_ fun _ h => h)

end Sys2Proof.Machine
end

