-- ==== Sys2Proof/Laws/LoadSwitchInv.lean ====
section
/-! SUPPORT. What the operations of Machine/LoadSwitch.lean keep: the invariant `Inv`. -/

set_option Elab.async false

namespace Sys2Proof.Machine

theorem noteShed_inv (c : Fin 16) {s : State} (hI : Inv s) : Inv (noteShed c s) := by
  unfold noteShed
  try extract_lets
  repeat' first
    | with_reducible assumption
    | dsimp only [id]
    | with_reducible refine Inv.ite ?_ ?_
    | (guard_target = Inv (modLsw ..); with_reducible refine Inv.ofOnly ?_ (modLsw_only ..))
    | (guard_target = Inv (notice ..); with_reducible apply notice_inv)
    | extract_lets
    | dsimp only
    | split

theorem lswSync_inv (c : Fin 16) {s0 : State} (hI : Inv s0) : Inv (lswSync c s0) := by
  unfold lswSync
  try extract_lets
  repeat' first
    | with_reducible assumption
    | with_reducible refine Inv.ite ?_ ?_
    | (guard_target = Inv (lswTurnOff ..); with_reducible refine Inv.ofOnly ?_ (lswTurnOff_only ..))
    | (guard_target = Inv (lswTurnOn ..); with_reducible refine Inv.ofOnly ?_ (lswTurnOn_only ..))
    | (guard_target = Inv (modLsw ..); with_reducible refine Inv.ofOnly ?_ (modLsw_only ..))
    | (guard_target = Inv (noteCoast ..); with_reducible refine Inv.ofOnly ?_ (noteCoast_only ..))
    | (guard_target = Inv (noteShed ..); with_reducible apply noteShed_inv)

theorem lswSyncAll_inv  {s : State} (hI : Inv s) : Inv (lswSyncAll s) := by
  unfold lswSyncAll
  try extract_lets
  repeat' first
    | with_reducible assumption
    | with_reducible refine Inv.ite ?_ ?_
    | (guard_target = Inv (lswSync ..); with_reducible apply lswSync_inv)
    | with_reducible refine Inv.foldl (fun _ _ _ => ?_) ?_

theorem lswHoldForSafe_inv  {s : State} (hI : Inv s) : Inv (lswHoldForSafe s) := by
  unfold lswHoldForSafe
  try extract_lets
  repeat' first
    | with_reducible assumption
    | with_reducible refine Inv.ite ?_ ?_
    | (guard_target = Inv (State.onLsw ..); with_reducible refine Inv.ofOnly ?_ (State.onLsw_only ..))
    | extract_lets
    | dsimp only
    | split
    | dsimp +zetaDelta only

theorem reportCoast_inv  {s : State} (hI : Inv s) : Inv (reportCoast s) := by
  unfold reportCoast
  try extract_lets
  repeat' first
    | with_reducible assumption
    | with_reducible refine Inv.ite ?_ ?_
    | (guard_target = Inv (modLsw ..); with_reducible refine Inv.ofOnly ?_ (modLsw_only ..))
    | (guard_target = Inv (notice ..); with_reducible apply notice_inv)
    | with_reducible refine Inv.foldl (fun _ _ _ => ?_) ?_

theorem writeLswDuty_inv (c : Fin 16) (w : Tick) (d : Nat) {s : State} (hI : Inv s) : Inv (writeLswDuty c w d s) := by
  unfold writeLswDuty
  try extract_lets
  repeat' first
    | with_reducible assumption
    | with_reducible refine Inv.ite ?_ ?_
    | (guard_target = Inv (modLsw ..); with_reducible refine Inv.ofOnly ?_ (modLsw_only ..))
    | (guard_target = Inv (State.onPd0 ..); refine Inv.onPd0 ?_ fun _ h => h)

theorem execLswPulseOpening_inv (c : Fin 16) {s : State} (hI : Inv s) : InvR (execLswPulseOpening c s) := by
  unfold execLswPulseOpening
  try extract_lets
  repeat' first
    | with_reducible assumption
    | with_reducible refine InvR.next ?_
    | with_reducible refine InvR.ite ?_ ?_
    | with_reducible refine Inv.ite ?_ ?_
    | (guard_target = Inv (lswTurnOff ..); with_reducible refine Inv.ofOnly ?_ (lswTurnOff_only ..))
    | (guard_target = Inv (lswTurnOn ..); with_reducible refine Inv.ofOnly ?_ (lswTurnOn_only ..))
    | (guard_target = Inv (modLsw ..); with_reducible refine Inv.ofOnly ?_ (modLsw_only ..))

theorem lswFaultClear_inv (c : Fin 16) {s : State} (hI : Inv s) : Inv (lswFaultClear c s) := by
  unfold lswFaultClear
  try extract_lets
  repeat' first
    | with_reducible assumption
    | with_reducible refine Inv.ite ?_ ?_
    | (guard_target = Inv (endFault ..); with_reducible apply endFault_inv)

theorem lswReport_inv (c : Fin 16) (code : Nat) {s : State} (hI : Inv s) : Inv (lswReport c code s) := by
  unfold lswReport
  try extract_lets
  repeat' first
    | with_reducible assumption
    | with_reducible refine Inv.ite ?_ ?_
    | (guard_target = Inv (logFault ..); with_reducible apply logFault_inv)
    | (guard_target = Inv (notice ..); with_reducible apply notice_inv)

theorem endHold_inv (c : Fin 16) {s : State} (hI : Inv s) : Inv (endHold c s) := by
  unfold endHold
  try extract_lets
  repeat' first
    | with_reducible assumption
    | with_reducible refine Inv.ite ?_ ?_
    | (guard_target = Inv (State.onPd0 ..); refine Inv.onPd0 ?_ fun _ h => h)

theorem lswTrip_inv (c : Fin 16) (code : Nat) (f : Lsw → Lsw) {s : State} (hI : Inv s) : Inv (lswTrip c code f s) := by
  unfold lswTrip
  try extract_lets
  repeat' first
    | with_reducible assumption
    | with_reducible refine Inv.ite ?_ ?_
    | (guard_target = Inv (endHold ..); with_reducible apply endHold_inv)
    | (guard_target = Inv (lswReport ..); with_reducible apply lswReport_inv)
    | (guard_target = Inv (modLsw ..); with_reducible refine Inv.ofOnly ?_ (modLsw_only ..))
    | (guard_target = Inv (noteCoast ..); with_reducible refine Inv.ofOnly ?_ (noteCoast_only ..))
    | extract_lets
    | dsimp only
    | split
    | dsimp +zetaDelta only

theorem execLswShort_inv (c : Fin 16) {s : State} (hI : Inv s) : InvR (execLswShort c s) := by
  unfold execLswShort
  try extract_lets
  repeat' first
    | with_reducible assumption
    | with_reducible refine InvR.next ?_
    | with_reducible refine InvR.ite ?_ ?_
    | with_reducible refine Inv.ite ?_ ?_
    | (guard_target = Inv (lswTrip ..); with_reducible apply lswTrip_inv)

theorem execLswOverload_inv (c : Fin 16) {s : State} (hI : Inv s) : InvR (execLswOverload c s) := by
  unfold execLswOverload
  try extract_lets
  repeat' first
    | with_reducible assumption
    | with_reducible refine InvR.next ?_
    | with_reducible refine InvR.ite ?_ ?_
    | with_reducible refine Inv.ite ?_ ?_
    | (guard_target = Inv (lswTrip ..); with_reducible apply lswTrip_inv)

theorem lswTemp_inv (c : Fin 16) (r : Int) {s : State} (hI : Inv s) : Inv (lswTemp c r s) := by
  unfold lswTemp
  try extract_lets
  repeat' first
    | with_reducible assumption
    | with_reducible refine Inv.ite ?_ ?_
    | (guard_target = Inv (lswFaultClear ..); with_reducible apply lswFaultClear_inv)
    | (guard_target = Inv (lswSync ..); with_reducible apply lswSync_inv)
    | (guard_target = Inv (lswTrip ..); with_reducible apply lswTrip_inv)
    | (guard_target = Inv (modLsw ..); with_reducible refine Inv.ofOnly ?_ (modLsw_only ..))
    | extract_lets
    | dsimp only
    | split
    | dsimp +zetaDelta only

theorem execLswOpenLoad_inv (c : Fin 16) (present : Bool) {s : State} (hI : Inv s) : InvR (execLswOpenLoad c present s) := by
  unfold execLswOpenLoad
  try extract_lets
  repeat' first
    | with_reducible assumption
    | with_reducible refine InvR.next ?_
    | with_reducible refine InvR.ite ?_ ?_
    | with_reducible refine Inv.ite ?_ ?_
    | (guard_target = Inv (lswFaultClear ..); with_reducible apply lswFaultClear_inv)
    | (guard_target = Inv (lswReport ..); with_reducible apply lswReport_inv)
    | (guard_target = Inv (modLsw ..); with_reducible refine Inv.ofOnly ?_ (modLsw_only ..))

theorem execLswShortBat_inv (c : Fin 16) (present : Bool) {s : State} (hI : Inv s) : InvR (execLswShortBat c present s) := by
  unfold execLswShortBat
  try extract_lets
  repeat' first
    | with_reducible assumption
    | with_reducible refine InvR.next ?_
    | with_reducible refine InvR.ite ?_ ?_
    | with_reducible refine Inv.ite ?_ ?_
    | (guard_target = Inv (lswFaultClear ..); with_reducible apply lswFaultClear_inv)
    | (guard_target = Inv (lswReport ..); with_reducible apply lswReport_inv)
    | (guard_target = Inv (modLsw ..); with_reducible refine Inv.ofOnly ?_ (modLsw_only ..))

theorem shedOne_inv  {s : State} (hI : Inv s) : Inv (shedOne s) := by
  unfold shedOne
  try extract_lets
  repeat' first
    | with_reducible assumption
    | with_reducible refine Inv.ite ?_ ?_
    | (guard_target = Inv (lswReport ..); with_reducible apply lswReport_inv)
    | (guard_target = Inv (modLsw ..); with_reducible refine Inv.ofOnly ?_ (modLsw_only ..))
    | (guard_target = Inv (noteCoast ..); with_reducible refine Inv.ofOnly ?_ (noteCoast_only ..))
    | extract_lets
    | dsimp only
    | split
    | dsimp +zetaDelta only

theorem execAggregate_inv (meanMa : Nat) {s : State} (hI : Inv s) : InvR (execAggregate meanMa s) := by
  unfold execAggregate
  try extract_lets
  repeat' first
    | with_reducible assumption
    | with_reducible refine InvR.next ?_
    | with_reducible refine InvR.ite ?_ ?_
    | with_reducible refine Inv.ite ?_ ?_
    | (guard_target = Inv (shedOne ..); with_reducible apply shedOne_inv)
    | (guard_target = Inv (State.onLsw ..); with_reducible refine Inv.ofOnly ?_ (State.onLsw_only ..))

theorem execAggregateShedStep_inv (meanMa : Nat) {s : State} (hI : Inv s) : InvR (execAggregateShedStep meanMa s) := by
  unfold execAggregateShedStep
  try extract_lets
  repeat' first
    | with_reducible assumption
    | with_reducible refine InvR.next ?_
    | with_reducible refine InvR.ite ?_ ?_
    | with_reducible refine Inv.ite ?_ ?_
    | (guard_target = Inv (shedOne ..); with_reducible apply shedOne_inv)
    | (guard_target = Inv (State.onLsw ..); with_reducible refine Inv.ofOnly ?_ (State.onLsw_only ..))

theorem lswUnlatch_inv (c : Fin 16) {s : State} (hI : Inv s) : Inv (lswUnlatch c s) := by
  unfold lswUnlatch
  try extract_lets
  repeat' first
    | with_reducible assumption
    | with_reducible refine Inv.ite ?_ ?_
    | (guard_target = Inv (lswFaultClear ..); with_reducible apply lswFaultClear_inv)
    | (guard_target = Inv (modLsw ..); with_reducible refine Inv.ofOnly ?_ (modLsw_only ..))

theorem execLswRetryDue_inv (c : Fin 16) {s : State} (hI : Inv s) : InvR (execLswRetryDue c s) := by
  unfold execLswRetryDue
  try extract_lets
  repeat' first
    | with_reducible assumption
    | with_reducible refine InvR.next ?_
    | with_reducible refine InvR.ite ?_ ?_
    | with_reducible refine Inv.ite ?_ ?_
    | (guard_target = Inv (lswSync ..); with_reducible apply lswSync_inv)
    | (guard_target = Inv (lswUnlatch ..); with_reducible apply lswUnlatch_inv)
    | (guard_target = Inv (modLsw ..); with_reducible refine Inv.ofOnly ?_ (modLsw_only ..))
    | (guard_target = Inv (notice ..); with_reducible apply notice_inv)
    | (guard_target = Inv (State.onPd0 ..); refine Inv.onPd0 ?_ fun _ h => h)

theorem execOffAfterExpiry_inv (c : Fin 16) {s : State} (hI : Inv s) : InvR (execOffAfterExpiry c s) := by
  unfold execOffAfterExpiry
  try extract_lets
  repeat' first
    | with_reducible assumption
    | with_reducible refine InvR.next ?_
    | with_reducible refine InvR.ite ?_ ?_
    | with_reducible refine Inv.ite ?_ ?_
    | (guard_target = Inv (lswSync ..); with_reducible apply lswSync_inv)

theorem execKeyoffHoldEnd_inv (c : Fin 16) {s : State} (hI : Inv s) : InvR (execKeyoffHoldEnd c s) := by
  unfold execKeyoffHoldEnd
  try extract_lets
  repeat' first
    | with_reducible assumption
    | with_reducible refine InvR.next ?_
    | with_reducible refine InvR.ite ?_ ?_
    | with_reducible refine Inv.ite ?_ ?_
    | (guard_target = Inv (endHold ..); with_reducible apply endHold_inv)
    | (guard_target = Inv (lswSync ..); with_reducible apply lswSync_inv)
    | extract_lets
    | dsimp only
    | split

theorem lswGroundLoss_inv  {s : State} (hI : Inv s) : Inv (lswGroundLoss s) := by
  unfold lswGroundLoss
  try extract_lets
  repeat' first
    | with_reducible assumption
    | with_reducible refine Inv.ite ?_ ?_
    | (guard_target = Inv (lswTurnOff ..); with_reducible refine Inv.ofOnly ?_ (lswTurnOff_only ..))
    | (guard_target = Inv (modLsw ..); with_reducible refine Inv.ofOnly ?_ (modLsw_only ..))
    | (guard_target = Inv (noteCoast ..); with_reducible refine Inv.ofOnly ?_ (noteCoast_only ..))
    | (guard_target = Inv (notice ..); with_reducible apply notice_inv)
    | with_reducible refine Inv.foldl (fun _ _ _ => ?_) ?_
    | with_reducible refine Inv.foldlFst (fun _ _ _ _ => ?_) ?_
    | extract_lets
    | dsimp only
    | split
    | dsimp +zetaDelta only

theorem lswGroundLossOff_inv  {s : State} (hI : Inv s) : Inv (lswGroundLossOff s) := by
  unfold lswGroundLossOff
  try extract_lets
  repeat' first
    | with_reducible assumption
    | with_reducible refine Inv.ite ?_ ?_
    | (guard_target = Inv (State.onPd0 ..); refine Inv.onPd0 ?_ fun _ h => h)
    | (guard_target = Inv (State.onPd0 ..); refine Inv.onPd0 ?_ fun d hd => by simp only [List.length_map, List.length_take, List.length_cons]; omega)
    | (guard_target = Inv (State.onLsw ..); with_reducible refine Inv.ofOnly ?_ (State.onLsw_only ..))
    | extract_lets
    | dsimp only
    | split
    | dsimp +zetaDelta only

theorem lswGroundBack_inv  {s : State} (hI : Inv s) : Inv (lswGroundBack s) := by
  unfold lswGroundBack
  try extract_lets
  repeat' first
    | with_reducible assumption
    | with_reducible refine Inv.ite ?_ ?_
    | (guard_target = Inv (lswSyncAll ..); with_reducible apply lswSyncAll_inv)
    | (guard_target = Inv (State.onLsw ..); with_reducible refine Inv.ofOnly ?_ (State.onLsw_only ..))

theorem commitLsw_inv (e : Tick) (old : Params) {s : State} (hI : Inv s) : Inv (commitLsw e old s) := by
  unfold commitLsw
  try extract_lets
  repeat' first
    | with_reducible assumption
    | with_reducible refine Inv.ite ?_ ?_
    | (guard_target = Inv (lswSyncAll ..); with_reducible apply lswSyncAll_inv)
    | (guard_target = Inv (State.onLsw ..); with_reducible refine Inv.ofOnly ?_ (State.onLsw_only ..))

theorem applyLswSet_inv (c : Fin 16) (on : Bool) (duty : Option Nat) (t : Tick) {s : State} (hI : Inv s) : Inv (applyLswSet c on duty t s) := by
  unfold applyLswSet
  try extract_lets
  repeat' first
    | with_reducible assumption
    | with_reducible refine Inv.ite ?_ ?_
    | (guard_target = Inv (endHold ..); with_reducible apply endHold_inv)
    | (guard_target = Inv (lswSync ..); with_reducible apply lswSync_inv)
    | (guard_target = Inv (writeLswDuty ..); with_reducible apply writeLswDuty_inv)
    | (guard_target = Inv (State.onPd0 ..); refine Inv.onPd0 ?_ fun _ h => h)
    | extract_lets
    | dsimp only
    | split
    | dsimp +zetaDelta only

theorem applyLswResume_inv (c : Fin 16) {s : State} (hI : Inv s) : Inv (applyLswResume c s) := by
  unfold applyLswResume
  try extract_lets
  repeat' first
    | with_reducible assumption
    | with_reducible refine Inv.ite ?_ ?_
    | (guard_target = Inv (lswSync ..); with_reducible apply lswSync_inv)
    | (guard_target = Inv (modLsw ..); with_reducible refine Inv.ofOnly ?_ (modLsw_only ..))

theorem lswReload_inv (c : Fin 16) {s : State} (hI : Inv s) : Inv (lswReload c s) := by
  unfold lswReload
  try extract_lets
  repeat' first
    | with_reducible assumption
    | with_reducible refine Inv.ite ?_ ?_
    | (guard_target = Inv (State.onPd0 ..); refine Inv.onPd0 ?_ fun _ h => h)

theorem opLswClearFault_inv (e : Env) {s : State} (hI : Inv s) : Inv (opLswClearFault e s).1 := by
  unfold opLswClearFault
  try extract_lets
  repeat' first
    | with_reducible assumption
    | with_reducible refine Inv.iteFst ?_ ?_
    | with_reducible refine Inv.ite ?_ ?_
    | dsimp only [deny, doneEdge]
    | (guard_target = Inv (lswReload ..); with_reducible apply lswReload_inv)
    | (guard_target = Inv (lswUnlatch ..); with_reducible apply lswUnlatch_inv)
    | (guard_target = Inv (modLsw ..); with_reducible refine Inv.ofOnly ?_ (modLsw_only ..))
    | (guard_target = Inv (waitEdge ..); with_reducible refine Inv.ofOnly ?_ (waitEdge_only ..))
    | extract_lets
    | dsimp only
    | split

end Sys2Proof.Machine
end

