-- ==== Sys2Proof/Laws/LoopsInv.lean ====
section
/-! SUPPORT. What the operations of Machine/Loops.lean keep: the invariant `Inv`. -/

set_option Elab.async false

namespace Sys2Proof.Machine

theorem writeOutput_inv (k : Fin 16) (u : Int) {s : State} (hI : Inv s) : Inv (writeOutput k u s) := by
  unfold writeOutput
  try extract_lets
  repeat' first
    | with_reducible assumption
    | with_reducible refine Inv.ite ?_ ?_
    | (guard_target = Inv (writeCmp ..); with_reducible refine Inv.ofOnly ?_ (writeCmp_only ..))
    | (guard_target = Inv (writeLswDuty ..); with_reducible apply writeLswDuty_inv)
    | extract_lets
    | dsimp only
    | split

theorem execLoopEvaluation_inv (k : Fin 16) {s : State} (hI : Inv s) : InvR (execLoopEvaluation k s) := by
  unfold execLoopEvaluation
  try extract_lets
  repeat' first
    | with_reducible assumption
    | with_reducible refine InvR.next ?_
    | with_reducible refine InvR.ite ?_ ?_
    | with_reducible refine Inv.ite ?_ ?_
    | (guard_target = Inv (modLoop ..); with_reducible refine Inv.ofOnly ?_ (modLoop_only ..))
    | (guard_target = Inv (notice ..); with_reducible apply notice_inv)
    | (guard_target = Inv (writeOutput ..); with_reducible apply writeOutput_inv)
    | extract_lets
    | dsimp only
    | split

theorem countLoopMiss_inv (k : Fin 16) (t : Tick) {s : State} (hI : Inv s) : Inv (countLoopMiss k t s) := by
  unfold countLoopMiss
  try extract_lets
  repeat' first
    | with_reducible assumption
    | with_reducible refine Inv.ite ?_ ?_
    | (guard_target = Inv (modLoop ..); with_reducible refine Inv.ofOnly ?_ (modLoop_only ..))
    | (guard_target = Inv (notice ..); with_reducible apply notice_inv)
    | (guard_target = Inv (writeOutput ..); with_reducible apply writeOutput_inv)
    | (guard_target = Inv (State.onCe ..); with_reducible refine Inv.ofOnly ?_ (State.onCe_only ..))
    | extract_lets
    | dsimp only
    | split

theorem applyLoopReset_inv (k : Fin 16) (e : Tick) {s : State} (hI : Inv s) : Inv (applyLoopReset k e s) := by
  unfold applyLoopReset
  try extract_lets
  repeat' first
    | with_reducible assumption
    | with_reducible refine Inv.ite ?_ ?_
    | (guard_target = Inv (endFault ..); with_reducible apply endFault_inv)
    | (guard_target = Inv (modLoop ..); with_reducible refine Inv.ofOnly ?_ (modLoop_only ..))
    | extract_lets
    | dsimp only
    | split
    | dsimp +zetaDelta only

theorem execFlowImbalance_inv (j : Fin 4) {s : State} (hI : Inv s) : InvR (execFlowImbalance j s) := by
  unfold execFlowImbalance
  try extract_lets
  repeat' first
    | with_reducible assumption
    | with_reducible refine InvR.next ?_
    | with_reducible refine InvR.ite ?_ ?_
    | with_reducible refine Inv.ite ?_ ?_
    | (guard_target = Inv (modFlow ..); with_reducible refine Inv.ofOnly ?_ (modFlow_only ..))
    | (guard_target = Inv (notice ..); with_reducible apply notice_inv)

end Sys2Proof.Machine
end

