-- ==== Sys2Proof/Laws/TransitionsInv.lean ====
section
/-! SUPPORT. What the operations of Machine/Transitions.lean keep: the invariant `Inv`. -/

set_option Elab.async false

namespace Sys2Proof.Machine

theorem changeState_inv (d : DevState) (cause : Nat) (t : Tick) {s : State} (hI : Inv s) : Inv (changeState d cause t s) := by
  unfold changeState
  try extract_lets
  repeat' first
    | with_reducible assumption
    | with_reducible refine Inv.ite ?_ ?_
    | (guard_target = Inv (driveFaultOut ..); with_reducible refine Inv.ofOnly ?_ (driveFaultOut_only ..))
    | (guard_target = Inv (noticeAt ..); with_reducible apply noticeAt_inv)
    | (guard_target = Inv (writeLog ..); with_reducible apply writeLog_inv)
    | (guard_target = Inv (State.onSys ..); with_reducible refine Inv.ofOnly ?_ (State.onSys_only ..))

theorem channelOff_inv (c : Fin 96) (t : Tick) {s : State} (hI : Inv s) : Inv (channelOff c t s) := by
  unfold channelOff
  try extract_lets
  repeat' first
    | with_reducible assumption
    | with_reducible refine Inv.ite ?_ ?_
    | (guard_target = Inv (cancelStart ..); with_reducible refine Inv.ofOnly ?_ (cancelStart_only ..))
    | (guard_target = Inv (offRequest ..); with_reducible apply offRequest_inv)
    | extract_lets
    | dsimp only
    | split
    | dsimp +zetaDelta only

theorem valvesOff_inv (t : Tick) {s : State} (hI : Inv s) : Inv (valvesOff t s) := by
  unfold valvesOff
  try extract_lets
  repeat' first
    | with_reducible assumption
    | with_reducible refine Inv.ite ?_ ?_
    | (guard_target = Inv (channelOff ..); with_reducible apply channelOff_inv)
    | (guard_target = Inv (flushEvents ..); with_reducible refine Inv.ofOnly ?_ (flushEvents_only ..))
    | (guard_target = Inv (stopNozzles ..); with_reducible refine Inv.ofOnly ?_ (stopNozzles_only ..))
    | with_reducible refine Inv.foldl (fun _ _ _ => ?_) ?_
    | with_reducible refine Inv.foldlFst (fun _ _ _ _ => ?_) ?_
    | extract_lets
    | dsimp only
    | split
    | dsimp +zetaDelta only

theorem valvesCut_inv (t : Tick) {s : State} (hI : Inv s) : Inv (valvesCut t s) := by
  unfold valvesCut
  try extract_lets
  repeat' first
    | with_reducible assumption
    | with_reducible refine Inv.ite ?_ ?_
    | (guard_target = Inv (forceOff ..); with_reducible apply forceOff_inv)
    | (guard_target = Inv (State.onVdr ..); with_reducible refine Inv.ofOnly ?_ (State.onVdr_only ..))
    | with_reducible refine Inv.foldl (fun _ _ _ => ?_) ?_

theorem enterStandby_inv (cause : Nat) (t : Tick) {s : State} (hI : Inv s) : Inv (enterStandby cause t s) := by
  unfold enterStandby
  try extract_lets
  repeat' first
    | with_reducible assumption
    | with_reducible refine Inv.ite ?_ ?_
    | (guard_target = Inv (changeState ..); with_reducible apply changeState_inv)
    | (guard_target = Inv (convUp ..); with_reducible refine Inv.ofOnly ?_ (convUp_only ..))
    | (guard_target = Inv (leaveDrive ..); with_reducible refine Inv.ofOnly ?_ (leaveDrive_only ..))
    | (guard_target = Inv (loopsFrom ..); with_reducible refine Inv.ofOnly ?_ (loopsFrom_only ..))
    | (guard_target = Inv (lswSyncAll ..); with_reducible apply lswSyncAll_inv)
    | (guard_target = Inv (startAllOff ..); with_reducible refine Inv.ofOnly ?_ (startAllOff_only ..))
    | (guard_target = Inv (valvesOff ..); with_reducible apply valvesOff_inv)
    | (guard_target = Inv (State.onFe ..); with_reducible refine Inv.ofOnly ?_ (State.onFe_only ..))
    | extract_lets
    | dsimp only
    | split
    | dsimp +zetaDelta only

theorem enterArmed_inv (t : Tick) {s : State} (hI : Inv s) : Inv (enterArmed t s) := by
  unfold enterArmed
  try extract_lets
  repeat' first
    | with_reducible assumption
    | with_reducible refine Inv.ite ?_ ?_
    | (guard_target = Inv (changeState ..); with_reducible apply changeState_inv)
    | (guard_target = Inv (directedOff ..); with_reducible refine Inv.ofOnly ?_ (directedOff_only ..))
    | (guard_target = Inv (feStart ..); with_reducible refine Inv.ofOnly ?_ (feStart_only ..))
    | (guard_target = Inv (lswSyncAll ..); with_reducible apply lswSyncAll_inv)
    | (guard_target = Inv (trackFrom ..); with_reducible apply trackFrom_inv)
    | (guard_target = Inv (State.onFe ..); with_reducible refine Inv.ofOnly ?_ (State.onFe_only ..))
    | extract_lets
    | dsimp only
    | split
    | dsimp +zetaDelta only

theorem enterManual_inv (t : Tick) {s : State} (hI : Inv s) : Inv (enterManual t s) := by
  unfold enterManual
  try extract_lets
  repeat' first
    | with_reducible assumption
    | with_reducible refine Inv.ite ?_ ?_
    | (guard_target = Inv (changeState ..); with_reducible apply changeState_inv)
    | (guard_target = Inv (lswSyncAll ..); with_reducible apply lswSyncAll_inv)
    | (guard_target = Inv (trackFrom ..); with_reducible apply trackFrom_inv)
    | (guard_target = Inv (State.onFe ..); with_reducible refine Inv.ofOnly ?_ (State.onFe_only ..))
    | extract_lets
    | dsimp only
    | split
    | dsimp +zetaDelta only

theorem enterCoast_inv (cause : Nat) {s : State} (hI : Inv s) : Inv (enterCoast cause s) := by
  unfold enterCoast
  try extract_lets
  repeat' first
    | with_reducible assumption
    | with_reducible refine Inv.ite ?_ ?_
    | (guard_target = Inv (cancelEdges ..); with_reducible apply cancelEdges_inv)
    | (guard_target = Inv (changeState ..); with_reducible apply changeState_inv)
    | (guard_target = Inv (lswSyncAll ..); with_reducible apply lswSyncAll_inv)
    | (guard_target = Inv (State.onSys ..); with_reducible refine Inv.ofOnly ?_ (State.onSys_only ..))

theorem leaveCoast_inv (t : Tick) {s : State} (hI : Inv s) : Inv (leaveCoast t s) := by
  unfold leaveCoast
  try extract_lets
  repeat' first
    | with_reducible assumption
    | with_reducible refine Inv.ite ?_ ?_
    | (guard_target = Inv (changeState ..); with_reducible apply changeState_inv)
    | (guard_target = Inv (lswSyncAll ..); with_reducible apply lswSyncAll_inv)
    | (guard_target = Inv (startAllOff ..); with_reducible refine Inv.ofOnly ?_ (startAllOff_only ..))
    | (guard_target = Inv (trackFrom ..); with_reducible apply trackFrom_inv)
    | (guard_target = Inv (State.onSys ..); with_reducible refine Inv.ofOnly ?_ (State.onSys_only ..))
    | extract_lets
    | dsimp only
    | split
    | dsimp +zetaDelta only

theorem enterSafe_inv (cause : Nat) (t : Tick) {s : State} (hI : Inv s) : Inv (enterSafe cause t s) := by
  unfold enterSafe
  try extract_lets
  repeat' first
    | with_reducible assumption
    | with_reducible refine Inv.ite ?_ ?_
    | (guard_target = Inv (cancelActivation ..); with_reducible apply cancelActivation_inv)
    | (guard_target = Inv (cancelEdges ..); with_reducible apply cancelEdges_inv)
    | (guard_target = Inv (changeState ..); with_reducible apply changeState_inv)
    | (guard_target = Inv (gatesOff ..); with_reducible refine Inv.ofOnly ?_ (gatesOff_only ..))
    | (guard_target = Inv (leaveDrive ..); with_reducible refine Inv.ofOnly ?_ (leaveDrive_only ..))
    | (guard_target = Inv (lswHoldForSafe ..); with_reducible apply lswHoldForSafe_inv)
    | (guard_target = Inv (lswSyncAll ..); with_reducible apply lswSyncAll_inv)
    | (guard_target = Inv (sealBlock ..); with_reducible apply sealBlock_inv)
    | (guard_target = Inv (settleConv ..); with_reducible refine Inv.ofOnly ?_ (settleConv_only ..))
    | (guard_target = Inv (startAllOff ..); with_reducible refine Inv.ofOnly ?_ (startAllOff_only ..))
    | (guard_target = Inv (valvesOff ..); with_reducible apply valvesOff_inv)
    | (guard_target = Inv (State.onVdr ..); with_reducible refine Inv.ofOnly ?_ (State.onVdr_only ..))
    | extract_lets
    | dsimp only
    | split
    | dsimp +zetaDelta only

theorem safeFault_inv (cause : Nat) (b : Block) (index restarts detail : Nat) (t : Tick) {s : State} (hI : Inv s) : Inv (safeFault cause b index restarts detail t s) := by
  unfold safeFault
  try extract_lets
  repeat' first
    | with_reducible assumption
    | with_reducible refine Inv.ite ?_ ?_
    | (guard_target = Inv (enterSafe ..); with_reducible apply enterSafe_inv)
    | (guard_target = Inv (logFault ..); with_reducible apply logFault_inv)

theorem endHolds_inv  {s : State} (hI : Inv s) : Inv (endHolds s) := by
  unfold endHolds
  try extract_lets
  repeat' first
    | with_reducible assumption
    | with_reducible refine Inv.ite ?_ ?_
    | (guard_target = Inv (State.onPd0 ..); refine Inv.onPd0 ?_ fun _ h => h)

theorem canOff_inv  {s : State} (hI : Inv s) : Inv (canOff s) := by
  unfold canOff
  try extract_lets
  repeat' first
    | with_reducible assumption
    | with_reducible refine Inv.ite ?_ ?_
    | (guard_target = Inv (takeOff ..); with_reducible apply takeOff_inv)
    | (guard_target = Inv (State.onCan ..); with_reducible refine Inv.ofOnly ?_ (State.onCan_only ..))
    | with_reducible refine Inv.foldl (fun _ _ _ => ?_) ?_
    | with_reducible refine Inv.foldlFst (fun _ _ _ _ => ?_) ?_
    | extract_lets
    | dsimp only
    | split
    | dsimp +zetaDelta only

theorem enterLatched_inv  {s0 : State} (hI : Inv s0) : Inv (enterLatched s0) := by
  unfold enterLatched
  try extract_lets
  repeat' first
    | with_reducible assumption
    | with_reducible refine Inv.ite ?_ ?_
    | (guard_target = Inv (canOff ..); with_reducible apply canOff_inv)
    | (guard_target = Inv (cancelActivation ..); with_reducible apply cancelActivation_inv)
    | (guard_target = Inv (cancelEdges ..); with_reducible apply cancelEdges_inv)
    | (guard_target = Inv (changeState ..); with_reducible apply changeState_inv)
    | (guard_target = Inv (endHolds ..); with_reducible apply endHolds_inv)
    | (guard_target = Inv (endRunsNow ..); with_reducible apply endRunsNow_inv)
    | (guard_target = Inv (gatesOff ..); with_reducible refine Inv.ofOnly ?_ (gatesOff_only ..))
    | (guard_target = Inv (lswSyncAll ..); with_reducible apply lswSyncAll_inv)
    | (guard_target = Inv (ppsInactive ..); with_reducible refine Inv.ofOnly ?_ (ppsInactive_only ..))
    | (guard_target = Inv (sealBlock ..); with_reducible apply sealBlock_inv)
    | (guard_target = Inv (trigsOff ..); with_reducible refine Inv.ofOnly ?_ (trigsOff_only ..))
    | (guard_target = Inv (valvesCut ..); with_reducible apply valvesCut_inv)
    | (guard_target = Inv (valvesOff ..); with_reducible apply valvesOff_inv)
    | (guard_target = Inv (State.onVdr ..); with_reducible refine Inv.ofOnly ?_ (State.onVdr_only ..))
    | extract_lets
    | dsimp only
    | split
    | dsimp +zetaDelta only

theorem enterQuarantine_inv (quarCause : Nat) (t : Tick) {s : State} (hI : Inv s) : Inv (enterQuarantine quarCause t s) := by
  unfold enterQuarantine
  try extract_lets
  repeat' first
    | with_reducible assumption
    | with_reducible refine Inv.ite ?_ ?_
    | (guard_target = Inv (changeState ..); with_reducible apply changeState_inv)
    | (guard_target = Inv (endHolds ..); with_reducible apply endHolds_inv)
    | (guard_target = Inv (lswSyncAll ..); with_reducible apply lswSyncAll_inv)
    | (guard_target = Inv (ppsInactive ..); with_reducible refine Inv.ofOnly ?_ (ppsInactive_only ..))
    | (guard_target = Inv (State.onSys ..); with_reducible refine Inv.ofOnly ?_ (State.onSys_only ..))
    | extract_lets
    | dsimp only
    | split
    | dsimp +zetaDelta only

theorem saveNor_inv  {s : State} (hI : Inv s) : Inv (saveNor s) := by
  exact Inv.onNor hI fun _ _ => hI.pd0

theorem savePd0_inv  {s : State} (hI : Inv s) : Inv (savePd0 s) := by
  unfold savePd0
  try extract_lets
  repeat' first
    | with_reducible assumption
    | with_reducible refine Inv.ite ?_ ?_
    | (guard_target = Inv (saveTrials ..); with_reducible apply saveTrials_inv)
    | (guard_target = Inv (State.onPd0 ..); refine Inv.onPd0 ?_ fun _ h => h)

theorem keptState_inv  {s : State} (hI : Inv s) : Inv (keptState s) := by
  exact ⟨hI.pd0, hI.nor, HostInv.fresh, MapInv.fresh⟩

theorem offState_inv  {s : State} (hI : Inv s) : Inv (offState s) := by
  exact ⟨hI.pd0, hI.nor, HostInv.fresh, MapInv.fresh⟩

theorem startHolds_inv  {s : State} (hI : Inv s) : Inv (startHolds s) := by
  unfold startHolds
  try extract_lets
  repeat' first
    | with_reducible assumption
    | with_reducible refine Inv.ite ?_ ?_
    | (guard_target = Inv (State.onPd0 ..); refine Inv.onPd0 ?_ fun _ h => h)
    | (guard_target = Inv (State.onPd0 ..); refine Inv.onPd0 ?_ fun d hd => by simp only [List.length_map, List.length_take, List.length_cons]; omega)
    | (guard_target = Inv (State.onLsw ..); with_reducible refine Inv.ofOnly ?_ (State.onLsw_only ..))
    | extract_lets
    | dsimp only
    | split
    | dsimp +zetaDelta only

theorem enterOff_inv  {s : State} (hI : Inv s) : Inv (enterOff s) := by
  unfold enterOff
  try extract_lets
  repeat' first
    | with_reducible assumption
    | with_reducible refine Inv.ite ?_ ?_
    | (guard_target = Inv (changeState ..); with_reducible apply changeState_inv)
    | (guard_target = Inv (offState ..); with_reducible apply offState_inv)
    | (guard_target = Inv (saveNor ..); with_reducible apply saveNor_inv)
    | (guard_target = Inv (savePd0 ..); with_reducible apply savePd0_inv)
    | (guard_target = Inv (startHolds ..); with_reducible apply startHolds_inv)
    | extract_lets
    | dsimp only
    | split
    | dsimp +zetaDelta only

theorem enterOffBrown_inv {s : State} (hI : Inv s) : Inv (enterOffBrown s) := by
  unfold enterOffBrown
  exact offState_inv ((changeState_inv _ _ _ (endHolds_inv (savePd0_inv hI))).ofOnly (State.lsw_only _ _))

theorem startState_inv (prev : DevState) (cause startCause : Nat) {s : State} (hI : Inv s) : Inv (startState prev cause startCause s) := by
  exact ⟨hI.pd0, hI.nor, HostInv.fresh, MapInv.fresh⟩

theorem startFromOff_inv (cause startCause : Nat) {s : State} (hI : Inv s) : Inv (startFromOff cause startCause s) := by
  unfold startFromOff
  try extract_lets
  repeat' first
    | with_reducible assumption
    | with_reducible refine Inv.ite ?_ ?_
    | (guard_target = Inv (startState ..); with_reducible apply startState_inv)

end Sys2Proof.Machine
end

