-- ==== Sys2Proof/Laws/GnssInv.lean ====
section
/-! SUPPORT. What the operations of Machine/Gnss.lean keep: the invariant `Inv`. -/

set_option Elab.async false

namespace Sys2Proof.Machine

theorem execAntOpen_inv (ma : Nat) {s : State} (hI : Inv s) : InvR (execAntOpen ma s) := by
  unfold execAntOpen
  try extract_lets
  repeat' first
    | with_reducible assumption
    | with_reducible refine InvR.next ?_
    | with_reducible refine InvR.ite ?_ ?_
    | with_reducible refine Inv.ite ?_ ?_
    | (guard_target = Inv (notice ..); with_reducible apply notice_inv)
    | (guard_target = Inv (State.onGnss ..); with_reducible refine Inv.ofOnly ?_ (State.onGnss_only ..))

theorem execAntShort_inv (ma : Nat) {s : State} (hI : Inv s) : InvR (execAntShort ma s) := by
  unfold execAntShort
  try extract_lets
  repeat' first
    | with_reducible assumption
    | with_reducible refine InvR.next ?_
    | with_reducible refine InvR.ite ?_ ?_
    | with_reducible refine Inv.ite ?_ ?_
    | (guard_target = Inv (notice ..); with_reducible apply notice_inv)
    | (guard_target = Inv (State.onGnss ..); with_reducible refine Inv.ofOnly ?_ (State.onGnss_only ..))

theorem execAntBiasRetry_inv (ma : Nat) {s : State} (hI : Inv s) : InvR (execAntBiasRetry ma s) := by
  unfold execAntBiasRetry
  try extract_lets
  repeat' first
    | with_reducible assumption
    | with_reducible refine InvR.next ?_
    | with_reducible refine InvR.ite ?_ ?_
    | with_reducible refine Inv.ite ?_ ?_
    | (guard_target = Inv (notice ..); with_reducible apply notice_inv)
    | (guard_target = Inv (State.onGnss ..); with_reducible refine Inv.ofOnly ?_ (State.onGnss_only ..))

theorem ephJump_inv (p : Fin 32) (iode dist : Nat) {s : State} (hI : Inv s) : Inv (ephJump p iode dist s) := by
  unfold ephJump
  try extract_lets
  repeat' first
    | with_reducible assumption
    | with_reducible refine Inv.ite ?_ ?_
    | (guard_target = Inv (modEph ..); with_reducible refine Inv.ofOnly ?_ (modEph_only ..))
    | (guard_target = Inv (notice ..); with_reducible apply notice_inv)

theorem acceptEph_inv (p : Fin 32) (iode week10 health ura : Nat) (key : List Nat) (f : Eph → Eph) {s : State} (hI : Inv s) : Inv (acceptEph p iode week10 health ura key f s) := by
  unfold acceptEph
  try extract_lets
  repeat' first
    | with_reducible assumption
    | with_reducible refine Inv.ite ?_ ?_
    | (guard_target = Inv (ephJump ..); with_reducible apply ephJump_inv)
    | (guard_target = Inv (modEph ..); with_reducible refine Inv.ofOnly ?_ (modEph_only ..))

theorem resolveWeek_inv (w10 : Nat) {s : State} (hI : Inv s) : Inv (resolveWeek w10 s) := by
  unfold resolveWeek
  try extract_lets
  repeat' first
    | with_reducible assumption
    | with_reducible refine Inv.ite ?_ ?_
    | (guard_target = Inv (notice ..); with_reducible apply notice_inv)
    | (guard_target = Inv (State.onGnss ..); with_reducible refine Inv.ofOnly ?_ (State.onGnss_only ..))
    | extract_lets
    | dsimp only
    | split

theorem execEphemerisAccept_inv (prn : Fin 32) {s : State} (hI : Inv s) : InvR (execEphemerisAccept prn s) := by
  unfold execEphemerisAccept
  try extract_lets
  repeat' first
    | with_reducible assumption
    | with_reducible refine InvR.next ?_
    | with_reducible refine InvR.ite ?_ ?_
    | with_reducible refine Inv.ite ?_ ?_
    | (guard_target = Inv (acceptEph ..); with_reducible apply acceptEph_inv)
    | (guard_target = Inv (resolveWeek ..); with_reducible apply resolveWeek_inv)
    | extract_lets
    | dsimp only
    | split
    | dsimp +zetaDelta only

theorem execMeasurementEpoch_inv (m : EpochIn) {s : State} (hI : Inv s) : InvR (execMeasurementEpoch m s) := by
  unfold execMeasurementEpoch
  try extract_lets
  repeat' first
    | with_reducible assumption
    | with_reducible refine InvR.next ?_
    | with_reducible refine InvR.ite ?_ ?_
    | with_reducible refine Inv.ite ?_ ?_
    | (guard_target = Inv (chansAfter ..); with_reducible refine Inv.ofOnly ?_ (chansAfter_only ..))
    | (guard_target = Inv (learnDrift ..); with_reducible apply learnDrift_inv)
    | (guard_target = Inv (noticeNow ..); with_reducible apply noticeNow_inv)
    | (guard_target = Inv (placeMonitors ..); with_reducible refine Inv.ofOnly ?_ (placeMonitors_only ..))
    | (guard_target = Inv (timeEpoch ..); with_reducible apply timeEpoch_inv)
    | (guard_target = Inv (State.onGnss ..); with_reducible refine Inv.ofOnly ?_ (State.onGnss_only ..))
    | extract_lets
    | dsimp only
    | split
    | dsimp +zetaDelta only

theorem baseChange_inv (id : Nat) (arp : Int × Int × Int) {s : State} (hI : Inv s) : Inv (baseChange id arp s) := by
  unfold baseChange
  try extract_lets
  repeat' first
    | with_reducible assumption
    | dsimp only [id]
    | with_reducible refine Inv.ite ?_ ?_
    | (guard_target = Inv (noticeNow ..); with_reducible apply noticeNow_inv)
    | (guard_target = Inv (State.onGnss ..); with_reducible refine Inv.ofOnly ?_ (State.onGnss_only ..))

theorem take1005_inv (msg : List Byte) {s : State} (hI : Inv s) : Inv (take1005 msg s) := by
  unfold take1005
  try extract_lets
  repeat' first
    | with_reducible assumption
    | dsimp only [id]
    | with_reducible refine Inv.ite ?_ ?_
    | (guard_target = Inv (baseChange ..); with_reducible apply baseChange_inv)
    | (guard_target = Inv (State.onGnss ..); with_reducible refine Inv.ofOnly ?_ (State.onGnss_only ..))
    | extract_lets
    | dsimp only
    | split

theorem take1019_inv (msg : List Byte) {s : State} (hI : Inv s) : Inv (take1019 msg s) := by
  unfold take1019
  try extract_lets
  repeat' first
    | with_reducible assumption
    | with_reducible refine Inv.ite ?_ ?_
    | (guard_target = Inv (acceptEph ..); with_reducible apply acceptEph_inv)
    | (guard_target = Inv (State.onGnss ..); with_reducible refine Inv.ofOnly ?_ (State.onGnss_only ..))
    | extract_lets
    | dsimp only
    | split
    | dsimp +zetaDelta only

theorem takeMessage_inv (msg : List Byte) {s : State} (hI : Inv s) : Inv (takeMessage msg s) := by
  unfold takeMessage
  try extract_lets
  repeat' first
    | with_reducible assumption
    | with_reducible refine Inv.ite ?_ ?_
    | (guard_target = Inv (take1004 ..); with_reducible refine Inv.ofOnly ?_ (take1004_only ..))
    | (guard_target = Inv (take1005 ..); with_reducible apply take1005_inv)
    | (guard_target = Inv (take1019 ..); with_reducible apply take1019_inv)
    | (guard_target = Inv (State.onGnss ..); with_reducible refine Inv.ofOnly ?_ (State.onGnss_only ..))
    | extract_lets
    | dsimp only
    | split

theorem execRtcmFrame_inv  {s : State} (hI : Inv s) : InvR (execRtcmFrame s) := by
  unfold execRtcmFrame
  try extract_lets
  repeat' first
    | with_reducible assumption
    | with_reducible refine InvR.next ?_
    | with_reducible refine InvR.ite ?_ ?_
    | with_reducible refine Inv.ite ?_ ?_
    | (guard_target = Inv (rtcmSearch ..); with_reducible refine Inv.ofOnly ?_ (rtcmSearch_only ..))
    | (guard_target = Inv (takeMessage ..); with_reducible apply takeMessage_inv)
    | extract_lets
    | dsimp only
    | split
    | dsimp +zetaDelta only

end Sys2Proof.Machine
end

