-- ==== Sys2Proof/Laws/FaultsInv.lean ====
section
/-! SUPPORT. What the operations of Machine/Faults.lean keep: the invariant `Inv`. -/

set_option Elab.async false

namespace Sys2Proof.Machine

theorem flushCrossing_inv (n : Nat) {s : State} (hI : Inv s) : Inv (flushCrossing n s) := by
  unfold flushCrossing
  try extract_lets
  repeat' first
    | with_reducible assumption
    | with_reducible refine Inv.ite ?_ ?_
    | (guard_target = Inv (drawFree ..).1; with_reducible refine Inv.ofOnly ?_ (drawFree_only ..))
    | (guard_target = Inv (notice ..); with_reducible apply notice_inv)
    | (guard_target = Inv (State.onPwr ..); with_reducible refine Inv.ofOnly ?_ (State.onPwr_only ..))

theorem beginRestart_inv (el : Element) (cause : Nat) {s : State} (hI : Inv s) : Inv (beginRestart el cause s) := by
  unfold beginRestart
  try extract_lets
  repeat' first
    | with_reducible assumption
    | with_reducible refine Inv.ite ?_ ?_
    | (guard_target = Inv (flushCrossing ..); with_reducible apply flushCrossing_inv)
    | (guard_target = Inv (modElem ..); with_reducible refine Inv.ofOnly ?_ (modElem_only ..))
    | (guard_target = Inv (resetElement ..); with_reducible refine Inv.ofOnly ?_ (resetElement_only ..))
    | (guard_target = Inv (trialRestart ..); with_reducible apply trialRestart_inv)

theorem elementFault_inv (el : Element) (cause : Nat) (b : Block) {s : State} (hI : Inv s) : Inv (elementFault el cause b s) := by
  unfold elementFault
  try extract_lets
  repeat' first
    | with_reducible assumption
    | with_reducible refine Inv.ite ?_ ?_
    | (guard_target = Inv (beginRestart ..); with_reducible apply beginRestart_inv)
    | (guard_target = Inv (cancelActivation ..); with_reducible apply cancelActivation_inv)
    | (guard_target = Inv (enterCoast ..); with_reducible apply enterCoast_inv)
    | (guard_target = Inv (failSelftest ..); with_reducible apply failSelftest_inv)
    | (guard_target = Inv (logFault ..); with_reducible apply logFault_inv)
    | (guard_target = Inv (safeFault ..); with_reducible apply safeFault_inv)
    | (guard_target = Inv (State.onSys ..); with_reducible refine Inv.ofOnly ?_ (State.onSys_only ..))
    | extract_lets
    | dsimp only
    | split

theorem execPairCheck_inv  {s : State} (hI : Inv s) : InvR (execPairCheck s) := by
  unfold execPairCheck
  try extract_lets
  repeat' first
    | with_reducible assumption
    | with_reducible refine InvR.next ?_
    | with_reducible refine InvR.ite ?_ ?_
    | with_reducible refine Inv.ite ?_ ?_
    | (guard_target = Inv (elementFault ..); with_reducible apply elementFault_inv)

theorem execCeCheck_inv  {s : State} (hI : Inv s) : InvR (execCeCheck s) := by
  unfold execCeCheck
  try extract_lets
  repeat' first
    | with_reducible assumption
    | with_reducible refine InvR.next ?_
    | with_reducible refine InvR.ite ?_ ?_
    | with_reducible refine Inv.ite ?_ ?_
    | (guard_target = Inv (elementFault ..); with_reducible apply elementFault_inv)

theorem execGnssCheck_inv  {s : State} (hI : Inv s) : InvR (execGnssCheck s) := by
  unfold execGnssCheck
  try extract_lets
  repeat' first
    | with_reducible assumption
    | with_reducible refine InvR.next ?_
    | with_reducible refine InvR.ite ?_ ?_
    | with_reducible refine Inv.ite ?_ ?_
    | (guard_target = Inv (elementFault ..); with_reducible apply elementFault_inv)

theorem execEnclaveCheck_inv  {s : State} (hI : Inv s) : InvR (execEnclaveCheck s) := by
  unfold execEnclaveCheck
  try extract_lets
  repeat' first
    | with_reducible assumption
    | with_reducible refine InvR.next ?_
    | with_reducible refine InvR.ite ?_ ?_
    | with_reducible refine Inv.ite ?_ ?_
    | (guard_target = Inv (elementFault ..); with_reducible apply elementFault_inv)

theorem clockNote_inv (clock : Nat) (restored : Bool) {s : State} (hI : Inv s) : Inv (clockNote clock restored s) := by
  unfold clockNote
  try extract_lets
  repeat' first
    | with_reducible assumption
    | with_reducible refine Inv.ite ?_ ?_
    | (guard_target = Inv (notice ..); with_reducible apply notice_inv)

theorem execClockElement_inv (el : Element) {s : State} (hI : Inv s) : InvR (execClockElement el s) := by
  unfold execClockElement
  try extract_lets
  repeat' first
    | with_reducible assumption
    | with_reducible refine InvR.next ?_
    | with_reducible refine InvR.ite ?_ ?_
    | with_reducible refine Inv.ite ?_ ?_
    | (guard_target = Inv (clockNote ..); with_reducible apply clockNote_inv)
    | (guard_target = Inv (drawFree ..).1; with_reducible refine Inv.ofOnly ?_ (drawFree_only ..))
    | (guard_target = Inv (elementFault ..); with_reducible apply elementFault_inv)
    | (guard_target = Inv (modElem ..); with_reducible refine Inv.ofOnly ?_ (modElem_only ..))
    | (guard_target = Inv (notice ..); with_reducible apply notice_inv)
    | (guard_target = Inv (State.onPwr ..); with_reducible refine Inv.ofOnly ?_ (State.onPwr_only ..))

theorem execPllRelock_inv (el : Element) (ok : Bool) {s : State} (hI : Inv s) : InvR (execPllRelock el ok s) := by
  unfold execPllRelock
  try extract_lets
  repeat' first
    | with_reducible assumption
    | with_reducible refine InvR.next ?_
    | with_reducible refine InvR.ite ?_ ?_
    | with_reducible refine Inv.ite ?_ ?_
    | (guard_target = Inv (clockNote ..); with_reducible apply clockNote_inv)
    | (guard_target = Inv (modElem ..); with_reducible refine Inv.ofOnly ?_ (modElem_only ..))

theorem execClockBase_inv (clock : BitVec 8) {s : State} (hI : Inv s) : InvR (execClockBase clock s) := by
  unfold execClockBase
  try extract_lets
  repeat' first
    | with_reducible assumption
    | with_reducible refine InvR.next ?_
    | with_reducible refine InvR.ite ?_ ?_
    | with_reducible refine Inv.ite ?_ ?_
    | (guard_target = Inv (clockNote ..); with_reducible apply clockNote_inv)
    | (guard_target = Inv (safeFault ..); with_reducible apply safeFault_inv)
    | (guard_target = Inv (State.onPwr ..); with_reducible refine Inv.ofOnly ?_ (State.onPwr_only ..))

theorem execClockBaseRestored_inv  {s : State} (hI : Inv s) : InvR (execClockBaseRestored s) := by
  unfold execClockBaseRestored
  try extract_lets
  repeat' first
    | with_reducible assumption
    | with_reducible refine InvR.next ?_
    | with_reducible refine InvR.ite ?_ ?_
    | with_reducible refine Inv.ite ?_ ?_
    | (guard_target = Inv (clockNote ..); with_reducible apply clockNote_inv)
    | (guard_target = Inv (endFault ..); with_reducible apply endFault_inv)
    | (guard_target = Inv (State.onPwr ..); with_reducible refine Inv.ofOnly ?_ (State.onPwr_only ..))

theorem markElement_inv (el : Element) {s : State} (hI : Inv s) : Inv (markElement el s) := by
  unfold markElement
  try extract_lets
  repeat' first
    | with_reducible assumption
    | with_reducible refine Inv.ite ?_ ?_
    | (guard_target = Inv (endFault ..); with_reducible apply endFault_inv)
    | (guard_target = Inv (modElem ..); with_reducible refine Inv.ofOnly ?_ (modElem_only ..))
    | with_reducible refine Inv.foldl (fun _ _ _ => ?_) ?_
    | with_reducible refine Inv.foldlFst (fun _ _ _ _ => ?_) ?_
    | extract_lets
    | dsimp only
    | split

theorem cleanFrames_inv (e : Tick) {s : State} (hI : Inv s) : Inv (cleanFrames e s) := by
  unfold cleanFrames
  try extract_lets
  repeat' first
    | with_reducible assumption
    | with_reducible refine Inv.ite ?_ ?_
    | (guard_target = Inv (markElement ..); with_reducible apply markElement_inv)
    | with_reducible refine Inv.foldl (fun _ _ _ => ?_) ?_

theorem coastReturn_inv (e : Tick) {s : State} (hI : Inv s) : Inv (coastReturn e s) := by
  unfold coastReturn
  try extract_lets
  repeat' first
    | with_reducible assumption
    | with_reducible refine Inv.ite ?_ ?_
    | (guard_target = Inv (leaveCoast ..); with_reducible apply leaveCoast_inv)
    | (guard_target = Inv (State.onSafe ..); with_reducible refine Inv.ofOnly ?_ (State.onSafe_only ..))

theorem execCoastExpired_inv {s : State} (hI : Inv s) : InvR (execCoastExpired s) := by
  unfold execCoastExpired
  extract_lets e t soon s1
  have h1 : Inv s1 := asAt_inv _ (fun _ h => safeFault_inv _ _ _ _ _ _ h) hI
  clear_value s1
  exact InvR.ite (InvR.next (Inv.ite (rejectBank_inv _ (h1.ofOnly (State.onSec_only ..))) h1)) (InvR.next hI)

theorem execSafeIn_inv  {s : State} (hI : Inv s) : InvR (execSafeIn s) := by
  unfold execSafeIn
  try extract_lets
  repeat' first
    | with_reducible assumption
    | (guard_target = Inv (logFault ..); with_reducible apply logFault_inv)
    | with_reducible refine InvR.next ?_
    | with_reducible refine InvR.ite ?_ ?_
    | with_reducible refine Inv.ite ?_ ?_
    | (guard_target = Inv (gatesOff ..); with_reducible refine Inv.ofOnly ?_ (gatesOff_only ..))
    | (guard_target = Inv (safeFault ..); with_reducible apply safeFault_inv)
    | (guard_target = Inv (valvesCut ..); with_reducible apply valvesCut_inv)
    | (guard_target = Inv (State.onSafe ..); with_reducible refine Inv.ofOnly ?_ (State.onSafe_only ..))

theorem execSafeInRelease_inv  {s : State} (hI : Inv s) : InvR (execSafeInRelease s) := by
  unfold execSafeInRelease
  try extract_lets
  repeat' first
    | with_reducible assumption
    | with_reducible refine InvR.next ?_
    | with_reducible refine InvR.ite ?_ ?_
    | with_reducible refine Inv.ite ?_ ?_
    | (guard_target = Inv (endFault ..); with_reducible apply endFault_inv)
    | (guard_target = Inv (State.onSafe ..); with_reducible refine Inv.ofOnly ?_ (State.onSafe_only ..))

theorem safeInAtEdge_inv (e : Tick) {s : State} (hI : Inv s) : Inv (safeInAtEdge e s) := by
  unfold safeInAtEdge
  try extract_lets
  repeat' first
    | with_reducible assumption
    | (guard_target = Inv (enterSafe ..); with_reducible apply enterSafe_inv)
    | (guard_target = Inv (State.onSafe ..); with_reducible refine Inv.ofOnly ?_ (State.onSafe_only ..))
    | with_reducible refine Inv.ite ?_ ?_
    | (guard_target = Inv (safeFault ..); with_reducible apply safeFault_inv)

theorem execRowBusoffGraceExpiry_inv  {s : State} (hI : Inv s) : InvR (execRowBusoffGraceExpiry s) := by
  unfold execRowBusoffGraceExpiry
  try extract_lets
  repeat' first
    | with_reducible assumption
    | with_reducible refine InvR.next ?_
    | with_reducible refine InvR.ite ?_ ?_
    | with_reducible refine Inv.ite ?_ ?_
    | (guard_target = Inv (safeFault ..); with_reducible apply safeFault_inv)
    | (guard_target = Inv (State.onCan ..); with_reducible refine Inv.ofOnly ?_ (State.onCan_only ..))
    | extract_lets
    | dsimp only
    | split

theorem execBoost_inv  {s : State} (hI : Inv s) : InvR (execBoost s) := by
  unfold execBoost
  try extract_lets
  repeat' first
    | with_reducible assumption
    | with_reducible refine InvR.next ?_
    | with_reducible refine InvR.ite ?_ ?_
    | with_reducible refine Inv.ite ?_ ?_
    | (guard_target = Inv (leaveVbst ..); with_reducible refine Inv.ofOnly ?_ (leaveVbst_only ..))
    | (guard_target = Inv (logFault ..); with_reducible apply logFault_inv)
    | (guard_target = Inv (State.onVdr ..); with_reducible refine Inv.ofOnly ?_ (State.onVdr_only ..))
    | extract_lets
    | dsimp only
    | split
    | dsimp +zetaDelta only

theorem execBoostRetry_inv (ok : Bool) {s : State} (hI : Inv s) : InvR (execBoostRetry ok s) := by
  unfold execBoostRetry
  try extract_lets
  repeat' first
    | with_reducible assumption
    | with_reducible refine InvR.next ?_
    | with_reducible refine InvR.ite ?_ ?_
    | with_reducible refine Inv.ite ?_ ?_
    | (guard_target = Inv (endFault ..); with_reducible apply endFault_inv)
    | (guard_target = Inv (syncConv ..); with_reducible refine Inv.ofOnly ?_ (syncConv_only ..))
    | (guard_target = Inv (State.onVdr ..); with_reducible refine Inv.ofOnly ?_ (State.onVdr_only ..))
    | extract_lets
    | dsimp only
    | split
    | dsimp +zetaDelta only

theorem execDeadlineMiss_inv (k : Fin 16) {s : State} (hI : Inv s) : InvR (execDeadlineMiss k s) := by
  unfold execDeadlineMiss
  try extract_lets
  repeat' first
    | with_reducible assumption
    | with_reducible refine InvR.next ?_
    | with_reducible refine InvR.ite ?_ ?_
    | with_reducible refine Inv.ite ?_ ?_
    | (guard_target = Inv (countLoopMiss ..); with_reducible apply countLoopMiss_inv)
    | (guard_target = Inv (logFault ..); with_reducible apply logFault_inv)
    | (guard_target = Inv (safeFault ..); with_reducible apply safeFault_inv)
    | extract_lets
    | dsimp only
    | split

end Sys2Proof.Machine
end

