-- ==== Sys2Proof/Laws/ValveDriveInv.lean ====
section
/-! SUPPORT. What the operations of Machine/ValveDrive.lean keep: the invariant `Inv`. -/

set_option Elab.async false

namespace Sys2Proof.Machine

theorem execEventExecute_inv (b : Fin 12) {s : State} (hI : Inv s) : InvR (execEventExecute b s) := by
  unfold execEventExecute
  try extract_lets
  repeat' first
    | with_reducible assumption
    | with_reducible refine InvR.next ?_
    | with_reducible refine InvR.ite ?_ ?_
    | with_reducible refine Inv.ite ?_ ?_
    | (guard_target = Inv (genOff ..); with_reducible refine Inv.ofOnly ?_ (genOff_only ..))
    | (guard_target = Inv (genOn ..); with_reducible apply genOn_inv)
    | (guard_target = Inv (modBank ..); with_reducible refine Inv.ofOnly ?_ (modBank_only ..))
    | (guard_target = Inv (notice ..); with_reducible apply notice_inv)
    | (guard_target = Inv (offRequest ..); with_reducible apply offRequest_inv)
    | extract_lets
    | dsimp only
    | split

theorem execReservedStart_inv (c : Fin 96) {s : State} (hI : Inv s) : InvR (execReservedStart c s) := by
  unfold execReservedStart
  try extract_lets
  repeat' first
    | with_reducible assumption
    | with_reducible refine InvR.next ?_
    | with_reducible refine InvR.ite ?_ ?_
    | with_reducible refine Inv.ite ?_ ?_
    | (guard_target = Inv (afterDecay ..); with_reducible refine Inv.ofOnly ?_ (afterDecay_only ..))
    | (guard_target = Inv (dueStart ..).1; with_reducible apply dueStart_inv)
    | extract_lets
    | dsimp only
    | split
    | dsimp +zetaDelta only

theorem judgeInductance_inv (c : Fin 96) (l0 : Nat) {s : State} (hI : Inv s) : Inv (judgeInductance c l0 s) := by
  unfold judgeInductance
  try extract_lets
  repeat' first
    | with_reducible assumption
    | with_reducible refine Inv.ite ?_ ?_
    | (guard_target = Inv (contextFault ..); with_reducible apply contextFault_inv)
    | (guard_target = Inv (modProt ..); with_reducible refine Inv.ofOnly ?_ (modProt_only ..))
    | (guard_target = Inv (notice ..); with_reducible apply notice_inv)
    | (guard_target = Inv (putCoil ..); with_reducible apply putCoil_inv)

theorem execPullInEnd_inv (c : Fin 96) (l0 : Nat) {s : State} (hI : Inv s) : InvR (execPullInEnd c l0 s) := by
  unfold execPullInEnd
  try extract_lets
  repeat' first
    | with_reducible assumption
    | with_reducible refine InvR.next ?_
    | with_reducible refine InvR.ite ?_ ?_
    | with_reducible refine Inv.ite ?_ ?_
    | (guard_target = Inv (beginDecay ..); with_reducible apply beginDecay_inv)
    | (guard_target = Inv (judgeInductance ..); with_reducible apply judgeInductance_inv)
    | (guard_target = Inv (modCh ..); with_reducible refine Inv.ofOnly ?_ (modCh_only ..))

theorem execDecayEnd_inv (c : Fin 96) (energy : Nat) {s : State} (hI : Inv s) : InvR (execDecayEnd c energy s) := by
  unfold execDecayEnd
  try extract_lets
  repeat' first
    | with_reducible assumption
    | with_reducible refine InvR.next ?_
    | with_reducible refine InvR.ite ?_ ?_
    | with_reducible refine Inv.ite ?_ ?_
    | (guard_target = Inv (afterDecay ..); with_reducible refine Inv.ofOnly ?_ (afterDecay_only ..))
    | (guard_target = Inv (bookFast ..); with_reducible refine Inv.ofOnly ?_ (bookFast_only ..))
    | (guard_target = Inv (finishDecay ..).1; with_reducible apply finishDecay_inv)
    | (guard_target = Inv (writeFiring ..); with_reducible apply writeFiring_inv)
    | extract_lets
    | dsimp only
    | split
    | dsimp +zetaDelta only

theorem takeOpening_inv (c : Fin 96) (at_ : Tick) {s : State} (hI : Inv s) : Inv (takeOpening c at_ s) := by
  unfold takeOpening
  try extract_lets
  repeat' first
    | with_reducible assumption
    | with_reducible refine Inv.ite ?_ ?_
    | (guard_target = Inv (contextClear ..); with_reducible apply contextClear_inv)
    | (guard_target = Inv (learn ..); with_reducible apply learn_inv)
    | (guard_target = Inv (modCh ..); with_reducible refine Inv.ofOnly ?_ (modCh_only ..))
    | (guard_target = Inv (modLat ..); with_reducible refine Inv.ofOnly ?_ (modLat_only ..))
    | (guard_target = Inv (writeFiring ..); with_reducible apply writeFiring_inv)

theorem execOpeningSignature_inv (c : Fin 96) (g : SigIn) {s : State} (hI : Inv s) : InvR (execOpeningSignature c g s) := by
  unfold execOpeningSignature
  try extract_lets
  repeat' first
    | with_reducible assumption
    | with_reducible refine InvR.next ?_
    | with_reducible refine InvR.ite ?_ ?_
    | with_reducible refine Inv.ite ?_ ?_
    | (guard_target = Inv (takeOpening ..); with_reducible apply takeOpening_inv)
    | extract_lets
    | dsimp only
    | split
    | dsimp +zetaDelta only

theorem takeClosing_inv (c : Fin 96) (at_ : Tick) {s : State} (hI : Inv s) : Inv (takeClosing c at_ s) := by
  unfold takeClosing
  try extract_lets
  repeat' first
    | with_reducible assumption
    | with_reducible refine Inv.ite ?_ ?_
    | (guard_target = Inv (learn ..); with_reducible apply learn_inv)
    | (guard_target = Inv (writeFiring ..); with_reducible apply writeFiring_inv)

theorem execClosingSignature_inv (c : Fin 96) (g : SigIn) (energy : Nat) {s : State} (hI : Inv s) : InvR (execClosingSignature c g energy s) := by
  unfold execClosingSignature
  try extract_lets
  repeat' first
    | with_reducible assumption
    | with_reducible refine InvR.next ?_
    | with_reducible refine InvR.ite ?_ ?_
    | with_reducible refine Inv.ite ?_ ?_
    | (guard_target = Inv (afterDecay ..); with_reducible refine Inv.ofOnly ?_ (afterDecay_only ..))
    | (guard_target = Inv (bookFast ..); with_reducible refine Inv.ofOnly ?_ (bookFast_only ..))
    | (guard_target = Inv (finishDecay ..).1; with_reducible apply finishDecay_inv)
    | (guard_target = Inv (takeClosing ..); with_reducible apply takeClosing_inv)
    | extract_lets
    | dsimp only
    | split
    | dsimp +zetaDelta only

theorem execOpeningSearchEnd_inv (c : Fin 96) {s : State} (hI : Inv s) : InvR (execOpeningSearchEnd c s) := by
  unfold execOpeningSearchEnd
  try extract_lets
  repeat' first
    | with_reducible assumption
    | with_reducible refine InvR.next ?_
    | with_reducible refine InvR.ite ?_ ?_
    | with_reducible refine Inv.ite ?_ ?_
    | (guard_target = Inv (endSearch ..); with_reducible apply endSearch_inv)

theorem execBoostLimit_inv (avgMw : Nat) {s : State} (hI : Inv s) : InvR (execBoostLimit avgMw s) := by
  unfold execBoostLimit
  try extract_lets
  repeat' first
    | with_reducible assumption
    | with_reducible refine InvR.next ?_
    | with_reducible refine InvR.ite ?_ ?_
    | with_reducible refine Inv.ite ?_ ?_
    | (guard_target = Inv (notice ..); with_reducible apply notice_inv)
    | (guard_target = Inv (State.onVdr ..); with_reducible refine Inv.ofOnly ?_ (State.onVdr_only ..))

theorem execVbstSag_inv (vbst : Nat) {s0 : State} (hI : Inv s0) : InvR (execVbstSag vbst s0) := by
  unfold execVbstSag
  try extract_lets
  repeat' first
    | with_reducible assumption
    | with_reducible refine InvR.next ?_
    | with_reducible refine InvR.ite ?_ ?_
    | with_reducible refine Inv.ite ?_ ?_
    | (guard_target = Inv (notice ..); with_reducible apply notice_inv)
    | (guard_target = Inv (sawVbst ..); with_reducible refine Inv.ofOnly ?_ (sawVbst_only ..))
    | (guard_target = Inv (State.onVdr ..); with_reducible refine Inv.ofOnly ?_ (State.onVdr_only ..))
    | extract_lets
    | dsimp only
    | split
    | dsimp +zetaDelta only

theorem loadDumpEnds_inv (vbat : Nat) {s : State} (hI : Inv s) : Inv (loadDumpEnds vbat s) := by
  unfold loadDumpEnds
  try extract_lets
  repeat' first
    | with_reducible assumption
    | with_reducible refine Inv.ite ?_ ?_
    | (guard_target = Inv (endFault ..); with_reducible apply endFault_inv)
    | (guard_target = Inv (State.onPwr ..); with_reducible refine Inv.ofOnly ?_ (State.onPwr_only ..))
    | extract_lets
    | dsimp only
    | split
    | dsimp +zetaDelta only

theorem execReturnSuspended_inv (vbat : Nat) {s0 : State} (hI : Inv s0) : InvR (execReturnSuspended vbat s0) := by
  unfold execReturnSuspended
  try extract_lets
  repeat' first
    | with_reducible assumption
    | with_reducible refine InvR.next ?_
    | with_reducible refine InvR.ite ?_ ?_
    | with_reducible refine Inv.ite ?_ ?_
    | (guard_target = Inv (loadDumpEnds ..); with_reducible apply loadDumpEnds_inv)
    | (guard_target = Inv (notice ..); with_reducible apply notice_inv)
    | (guard_target = Inv (sawVbat ..); with_reducible refine Inv.ofOnly ?_ (sawVbat_only ..))
    | (guard_target = Inv (State.onVdr ..); with_reducible refine Inv.ofOnly ?_ (State.onVdr_only ..))
    | extract_lets
    | dsimp only
    | split
    | dsimp +zetaDelta only

theorem execRecoveryDivert_inv (vbst : Nat) {s0 : State} (hI : Inv s0) : InvR (execRecoveryDivert vbst s0) := by
  unfold execRecoveryDivert
  try extract_lets
  repeat' first
    | with_reducible assumption
    | with_reducible refine InvR.next ?_
    | with_reducible refine InvR.ite ?_ ?_
    | with_reducible refine Inv.ite ?_ ?_
    | (guard_target = Inv (notice ..); with_reducible apply notice_inv)
    | (guard_target = Inv (sawVbst ..); with_reducible refine Inv.ofOnly ?_ (sawVbst_only ..))
    | (guard_target = Inv (State.onVdr ..); with_reducible refine Inv.ofOnly ?_ (State.onVdr_only ..))
    | extract_lets
    | dsimp only
    | split
    | dsimp +zetaDelta only

theorem closeLedger_inv (e : Tick) (f : Freeze) {s : State} (hI : Inv s) : Inv (closeLedger e f s) := by
  unfold closeLedger
  try extract_lets
  repeat' first
    | with_reducible assumption
    | with_reducible refine Inv.ite ?_ ?_
    | (guard_target = Inv (notice ..); with_reducible apply notice_inv)
    | (guard_target = Inv (State.onVdr ..); with_reducible refine Inv.ofOnly ?_ (State.onVdr_only ..))

theorem execLatencySave_inv  {s : State} (hI : Inv s) : InvR (execLatencySave s) := by
  unfold execLatencySave
  try extract_lets
  repeat' first
    | with_reducible assumption
    | with_reducible refine InvR.next ?_
    | with_reducible refine InvR.ite ?_ ?_
    | with_reducible refine Inv.ite ?_ ?_
    | (guard_target = Inv (State.onNor ..); refine Inv.onNor ?_ fun _ h => h)
    | (guard_target = Inv (State.onVdr ..); with_reducible refine Inv.ofOnly ?_ (State.onVdr_only ..))

end Sys2Proof.Machine
end

