-- ==== Sys2Proof/Laws/ProtectionInv.lean ====
section
/-! SUPPORT. What the operations of Machine/Protection.lean keep: the invariant `Inv`. -/

set_option Elab.async false

namespace Sys2Proof.Machine

theorem channelFault_inv (c : Fin 96) (code : Nat) {s : State} (hI : Inv s) : Inv (channelFault c code s) := by
  unfold channelFault
  try extract_lets
  repeat' first
    | with_reducible assumption
    | with_reducible refine Inv.ite ?_ ?_
    | (guard_target = Inv (logFault ..); with_reducible apply logFault_inv)
    | (guard_target = Inv (notice ..); with_reducible apply notice_inv)

theorem tripStage_inv (c : Fin 96) {s : State} (hI : Inv s) : Inv (tripStage c s) := by
  unfold tripStage
  try extract_lets
  repeat' first
    | with_reducible assumption
    | with_reducible refine Inv.ite ?_ ?_
    | (guard_target = Inv (channelFault ..); with_reducible apply channelFault_inv)
    | (guard_target = Inv (forceOff ..); with_reducible apply forceOff_inv)
    | (guard_target = Inv (modProt ..); with_reducible refine Inv.ofOnly ?_ (modProt_only ..))

theorem execOvercurrent_inv (c : Fin 96) {s : State} (hI : Inv s) : InvR (execOvercurrent c s) := by
  unfold execOvercurrent
  try extract_lets
  repeat' first
    | with_reducible assumption
    | with_reducible refine InvR.next ?_
    | with_reducible refine InvR.ite ?_ ?_
    | with_reducible refine Inv.ite ?_ ?_
    | (guard_target = Inv (tripStage ..); with_reducible apply tripStage_inv)

theorem execOverload_inv (c : Fin 96) (meanMa : Nat) {s : State} (hI : Inv s) : InvR (execOverload c meanMa s) := by
  unfold execOverload
  try extract_lets
  repeat' first
    | with_reducible assumption
    | with_reducible refine InvR.next ?_
    | with_reducible refine InvR.ite ?_ ?_
    | with_reducible refine Inv.ite ?_ ?_
    | (guard_target = Inv (channelFault ..); with_reducible apply channelFault_inv)
    | (guard_target = Inv (modProt ..); with_reducible refine Inv.ofOnly ?_ (modProt_only ..))
    | (guard_target = Inv (offRequest ..); with_reducible apply offRequest_inv)

theorem stageTemp_inv (c : Fin 96) (r : Int) {s : State} (hI : Inv s) : Inv (stageTemp c r s) := by
  unfold stageTemp
  try extract_lets
  repeat' first
    | with_reducible assumption
    | with_reducible refine Inv.ite ?_ ?_
    | (guard_target = Inv (channelFault ..); with_reducible apply channelFault_inv)
    | (guard_target = Inv (contextClear ..); with_reducible apply contextClear_inv)
    | (guard_target = Inv (modProt ..); with_reducible refine Inv.ofOnly ?_ (modProt_only ..))
    | (guard_target = Inv (offRequest ..); with_reducible apply offRequest_inv)
    | extract_lets
    | dsimp only
    | split
    | dsimp +zetaDelta only

theorem isolateFault_inv (b : Fin 12) (cause : Nat) {s : State} (hI : Inv s) : Inv (isolateFault b cause s) := by
  unfold isolateFault
  try extract_lets
  repeat' first
    | with_reducible assumption
    | with_reducible refine Inv.ite ?_ ?_
    | (guard_target = Inv (isolateBank ..); with_reducible apply isolateBank_inv)
    | (guard_target = Inv (logFault ..); with_reducible apply logFault_inv)
    | (guard_target = Inv (safeFault ..); with_reducible apply safeFault_inv)

theorem tripFeed_inv (b : Fin 12) {s : State} (hI : Inv s) : Inv (tripFeed b s) := by
  unfold tripFeed
  try extract_lets
  repeat' first
    | with_reducible assumption
    | with_reducible refine Inv.ite ?_ ?_
    | (guard_target = Inv (isolateFault ..); with_reducible apply isolateFault_inv)

theorem execFeedOc_inv (b : Fin 12) {s : State} (hI : Inv s) : InvR (execFeedOc b s) := by
  unfold execFeedOc
  try extract_lets
  repeat' first
    | with_reducible assumption
    | with_reducible refine InvR.next ?_
    | with_reducible refine InvR.ite ?_ ?_
    | with_reducible refine Inv.ite ?_ ?_
    | (guard_target = Inv (tripFeed ..); with_reducible apply tripFeed_inv)

theorem setShort_inv (c : Fin 96) {s : State} (hI : Inv s) : Inv (setShort c s) := by
  unfold setShort
  try extract_lets
  repeat' first
    | with_reducible assumption
    | with_reducible refine Inv.ite ?_ ?_
    | (guard_target = Inv (channelFault ..); with_reducible apply channelFault_inv)
    | (guard_target = Inv (modProt ..); with_reducible refine Inv.ofOnly ?_ (modProt_only ..))

theorem setOpen_inv (c : Fin 96) {s : State} (hI : Inv s) : Inv (setOpen c s) := by
  unfold setOpen
  try extract_lets
  repeat' first
    | with_reducible assumption
    | with_reducible refine Inv.ite ?_ ?_
    | (guard_target = Inv (contextFault ..); with_reducible apply contextFault_inv)
    | (guard_target = Inv (modProt ..); with_reducible refine Inv.ofOnly ?_ (modProt_only ..))
    | (guard_target = Inv (notice ..); with_reducible apply notice_inv)

theorem clearOpen_inv (c : Fin 96) {s : State} (hI : Inv s) : Inv (clearOpen c s) := by
  unfold clearOpen
  try extract_lets
  repeat' first
    | with_reducible assumption
    | with_reducible refine Inv.ite ?_ ?_
    | (guard_target = Inv (contextClear ..); with_reducible apply contextClear_inv)
    | (guard_target = Inv (modProt ..); with_reducible refine Inv.ofOnly ?_ (modProt_only ..))

theorem execOpenLoad_inv (c : Fin 96) (ma : Nat) {s : State} (hI : Inv s) : InvR (execOpenLoad c ma s) := by
  unfold execOpenLoad
  try extract_lets
  repeat' first
    | with_reducible assumption
    | with_reducible refine InvR.next ?_
    | with_reducible refine InvR.ite ?_ ?_
    | with_reducible refine Inv.ite ?_ ?_
    | (guard_target = Inv (clearOpen ..); with_reducible apply clearOpen_inv)
    | (guard_target = Inv (modProt ..); with_reducible refine Inv.ofOnly ?_ (modProt_only ..))
    | (guard_target = Inv (setOpen ..); with_reducible apply setOpen_inv)

theorem execOffStateTest_inv (c : Fin 96) (low : Bool) (excessMa : Nat) {s : State} (hI : Inv s) : InvR (execOffStateTest c low excessMa s) := by
  unfold execOffStateTest
  try extract_lets
  repeat' first
    | with_reducible assumption
    | with_reducible refine InvR.next ?_
    | with_reducible refine InvR.ite ?_ ?_
    | with_reducible refine Inv.ite ?_ ?_
    | (guard_target = Inv (clearOpen ..); with_reducible apply clearOpen_inv)
    | (guard_target = Inv (isolateFault ..); with_reducible apply isolateFault_inv)
    | (guard_target = Inv (modProt ..); with_reducible refine Inv.ofOnly ?_ (modProt_only ..))
    | (guard_target = Inv (setOpen ..); with_reducible apply setOpen_inv)
    | (guard_target = Inv (setShort ..); with_reducible apply setShort_inv)

theorem execRetryRelease_inv (r : RetryTarget) {s : State} (hI : Inv s) : InvR (execRetryRelease r s) := by
  unfold execRetryRelease
  try extract_lets
  repeat' first
    | with_reducible assumption
    | with_reducible refine InvR.next ?_
    | with_reducible refine InvR.ite ?_ ?_
    | with_reducible refine Inv.ite ?_ ?_
    | (guard_target = Inv (endFault ..); with_reducible apply endFault_inv)
    | (guard_target = Inv (modBank ..); with_reducible refine Inv.ofOnly ?_ (modBank_only ..))
    | (guard_target = Inv (modProt ..); with_reducible refine Inv.ofOnly ?_ (modProt_only ..))
    | (guard_target = Inv (State.onPd0 ..); refine Inv.onPd0 ?_ fun _ h => h)
    | extract_lets
    | dsimp only
    | split

theorem learnR20_inv (c : Fin 96) (r : Nat) {s : State} (hI : Inv s) : Inv (learnR20 c r s) := by
  unfold learnR20
  try extract_lets
  repeat' first
    | with_reducible assumption
    | with_reducible refine Inv.ite ?_ ?_
    | (guard_target = Inv (notice ..); with_reducible apply notice_inv)
    | (guard_target = Inv (putCoil ..); with_reducible apply putCoil_inv)

theorem coolCoil_inv (c : Fin 96) (t : Int) {s : State} (hI : Inv s) : Inv (coolCoil c t s) := by
  unfold coolCoil
  try extract_lets
  repeat' first
    | with_reducible assumption
    | with_reducible refine Inv.ite ?_ ?_
    | (guard_target = Inv (contextClear ..); with_reducible apply contextClear_inv)
    | (guard_target = Inv (modProt ..); with_reducible refine Inv.ofOnly ?_ (modProt_only ..))

theorem heatCoil_inv (c : Fin 96) (t : Int) {s : State} (hI : Inv s) : Inv (heatCoil c t s) := by
  unfold heatCoil
  try extract_lets
  repeat' first
    | with_reducible assumption
    | with_reducible refine Inv.ite ?_ ?_
    | (guard_target = Inv (channelFault ..); with_reducible apply channelFault_inv)
    | (guard_target = Inv (modProt ..); with_reducible refine Inv.ofOnly ?_ (modProt_only ..))
    | (guard_target = Inv (notice ..); with_reducible apply notice_inv)
    | (guard_target = Inv (offRequest ..); with_reducible apply offRequest_inv)

theorem judgeResistance_inv (c : Fin 96) (r r20 : Nat) {s : State} (hI : Inv s) : Inv (judgeResistance c r r20 s) := by
  unfold judgeResistance
  try extract_lets
  repeat' first
    | with_reducible assumption
    | with_reducible refine Inv.ite ?_ ?_
    | (guard_target = Inv (contextFault ..); with_reducible apply contextFault_inv)
    | (guard_target = Inv (modProt ..); with_reducible refine Inv.ofOnly ?_ (modProt_only ..))
    | (guard_target = Inv (notice ..); with_reducible apply notice_inv)

theorem execCoilResistanceMeasure_inv (c : Fin 96) (r first second : Nat) {s : State} (hI : Inv s) : InvR (execCoilResistanceMeasure c r first second s) := by
  unfold execCoilResistanceMeasure
  try extract_lets
  repeat' first
    | with_reducible assumption
    | with_reducible refine InvR.next ?_
    | with_reducible refine InvR.ite ?_ ?_
    | with_reducible refine Inv.ite ?_ ?_
    | (guard_target = Inv (coolCoil ..); with_reducible apply coolCoil_inv)
    | (guard_target = Inv (heatCoil ..); with_reducible apply heatCoil_inv)
    | (guard_target = Inv (judgeResistance ..); with_reducible apply judgeResistance_inv)
    | (guard_target = Inv (learnR20 ..); with_reducible apply learnR20_inv)
    | (guard_target = Inv (modProt ..); with_reducible refine Inv.ofOnly ?_ (modProt_only ..))
    | extract_lets
    | dsimp only
    | split
    | dsimp +zetaDelta only

theorem execCoilCooled_inv (c : Fin 96) {s : State} (hI : Inv s) : InvR (execCoilCooled c s) := by
  unfold execCoilCooled
  try extract_lets
  repeat' first
    | with_reducible assumption
    | with_reducible refine InvR.next ?_
    | with_reducible refine InvR.ite ?_ ?_
    | with_reducible refine Inv.ite ?_ ?_
    | (guard_target = Inv (coolCoil ..); with_reducible apply coolCoil_inv)
    | extract_lets
    | dsimp only
    | split
    | dsimp +zetaDelta only

theorem relearn_inv (c : Fin 96) {s : State} (hI : Inv s) : Inv (relearn c s) := by
  unfold relearn
  try extract_lets
  repeat' first
    | with_reducible assumption
    | with_reducible refine Inv.ite ?_ ?_
    | (guard_target = Inv (modProt ..); with_reducible refine Inv.ofOnly ?_ (modProt_only ..))
    | (guard_target = Inv (putCoil ..); with_reducible apply putCoil_inv)

theorem execRelearn_inv (c : Fin 96) {s : State} (hI : Inv s) : InvR (execRelearn c s) := by
  unfold execRelearn
  try extract_lets
  repeat' first
    | with_reducible assumption
    | with_reducible refine InvR.next ?_
    | with_reducible refine InvR.ite ?_ ?_
    | with_reducible refine Inv.ite ?_ ?_
    | (guard_target = Inv (relearn ..); with_reducible apply relearn_inv)

theorem clearChannel_inv (c : Fin 96) {s : State} (hI : Inv s) : Inv (clearChannel c s) := by
  unfold clearChannel
  try extract_lets
  repeat' first
    | with_reducible assumption
    | with_reducible refine Inv.ite ?_ ?_
    | (guard_target = Inv (contextClear ..); with_reducible apply contextClear_inv)
    | (guard_target = Inv (modProt ..); with_reducible refine Inv.ofOnly ?_ (modProt_only ..))
    | (guard_target = Inv (State.onPd0 ..); refine Inv.onPd0 ?_ fun _ h => h)

theorem clearContext_inv (c : Fin 96) {s : State} (hI : Inv s) : Inv (clearContext c s) := by
  unfold clearContext
  try extract_lets
  repeat' first
    | with_reducible assumption
    | with_reducible refine Inv.ite ?_ ?_
    | (guard_target = Inv (clearChannel ..); with_reducible apply clearChannel_inv)
    | (guard_target = Inv (modLat ..); with_reducible refine Inv.ofOnly ?_ (modLat_only ..))
    | (guard_target = Inv (State.onFe ..); with_reducible refine Inv.ofOnly ?_ (State.onFe_only ..))

theorem clearBank_inv (b : Fin 12) {s : State} (hI : Inv s) : Inv (clearBank b s) := by
  unfold clearBank
  try extract_lets
  repeat' first
    | with_reducible assumption
    | with_reducible refine Inv.ite ?_ ?_
    | (guard_target = Inv (clearChannel ..); with_reducible apply clearChannel_inv)
    | (guard_target = Inv (State.onPd0 ..); refine Inv.onPd0 ?_ fun _ h => h)
    | with_reducible refine Inv.foldl (fun _ _ _ => ?_) ?_

theorem reconnected_inv (b : Fin 12) {s : State} (hI : Inv s) : Inv (reconnected b s) := by
  unfold reconnected
  try extract_lets
  repeat' first
    | with_reducible assumption
    | with_reducible refine Inv.ite ?_ ?_
    | (guard_target = Inv (endFault ..); with_reducible apply endFault_inv)
    | (guard_target = Inv (modBank ..); with_reducible refine Inv.ofOnly ?_ (modBank_only ..))

theorem reisolated_inv (b : Fin 12) (j : Fin 8) {s : State} (hI : Inv s) : Inv (reisolated b j s) := by
  unfold reisolated
  try extract_lets
  repeat' first
    | with_reducible assumption
    | with_reducible refine Inv.ite ?_ ?_
    | (guard_target = Inv (isolateFault ..); with_reducible apply isolateFault_inv)
    | (guard_target = Inv (setShort ..); with_reducible apply setShort_inv)

end Sys2Proof.Machine
end

