-- ==== Sys2Proof/Laws/ThermalInv.lean ====
section
/-! SUPPORT. What the operations of Machine/Thermal.lean keep: the invariant `Inv`. -/

set_option Elab.async false

namespace Sys2Proof.Machine

theorem thsNote_inv (code : Nat) (z : Fin 10) (sensor : Nat) {s : State} (hI : Inv s) : Inv (thsNote code z sensor s) := by
  unfold thsNote
  try extract_lets
  repeat' first
    | with_reducible assumption
    | with_reducible refine Inv.ite ?_ ?_
    | (guard_target = Inv (notice ..); with_reducible apply notice_inv)

theorem throttleAll_inv  {s : State} (hI : Inv s) : Inv (throttleAll s) := by
  unfold throttleAll
  try extract_lets
  repeat' first
    | with_reducible assumption
    | with_reducible refine Inv.ite ?_ ?_
    | (guard_target = Inv (lswSyncAll ..); with_reducible apply lswSyncAll_inv)
    | (guard_target = Inv (State.onVdr ..); with_reducible refine Inv.ofOnly ?_ (State.onVdr_only ..))
    | (guard_target = Inv (State.onPwu ..); with_reducible refine Inv.ofOnly ?_ (State.onPwu_only ..))
    | (guard_target = Inv (State.onThs ..); with_reducible refine Inv.ofOnly ?_ (State.onThs_only ..))

theorem sampleNotes_inv (z : Fin 10) (x y : Zone) {s : State} (hI : Inv s) : Inv (sampleNotes z x y s) := by
  unfold sampleNotes
  try extract_lets
  repeat' first
    | with_reducible assumption
    | with_reducible refine Inv.ite ?_ ?_
    | (guard_target = Inv (thsNote ..); with_reducible apply thsNote_inv)

theorem zoneSample_inv (z : Fin 10) {s : State} (hI : Inv s) : Inv (zoneSample z s) := by
  unfold zoneSample
  try extract_lets
  repeat' first
    | with_reducible assumption
    | with_reducible refine Inv.ite ?_ ?_
    | (guard_target = Inv (modZone ..); with_reducible refine Inv.ofOnly ?_ (modZone_only ..))
    | (guard_target = Inv (sampleNotes ..); with_reducible apply sampleNotes_inv)
    | (guard_target = Inv (throttleAll ..); with_reducible apply throttleAll_inv)
    | extract_lets
    | dsimp only
    | split
    | dsimp +zetaDelta only

theorem breakSensor_inv (z : Fin 10) (k : Fin 20) {s : State} (hI : Inv s) : Inv (breakSensor z k s) := by
  unfold breakSensor
  try extract_lets
  repeat' first
    | with_reducible assumption
    | with_reducible refine Inv.ite ?_ ?_
    | (guard_target = Inv (modZone ..); with_reducible refine Inv.ofOnly ?_ (modZone_only ..))
    | (guard_target = Inv (thsNote ..); with_reducible apply thsNote_inv)
    | extract_lets
    | dsimp only
    | split
    | dsimp +zetaDelta only

theorem takeReading_inv (z : Fin 10) (k : Fin 20) (t : Int) {s : State} (hI : Inv s) : Inv (takeReading z k t s) := by
  unfold takeReading
  try extract_lets
  repeat' first
    | with_reducible assumption
    | with_reducible refine Inv.ite ?_ ?_
    | (guard_target = Inv (breakSensor ..); with_reducible apply breakSensor_inv)
    | (guard_target = Inv (modZone ..); with_reducible refine Inv.ofOnly ?_ (modZone_only ..))
    | extract_lets
    | dsimp only
    | split
    | dsimp +zetaDelta only

theorem shutDown_inv (z : Fin 10) {s : State} (hI : Inv s) : Inv (shutDown z s) := by
  unfold shutDown
  try extract_lets
  repeat' first
    | with_reducible assumption
    | with_reducible refine Inv.ite ?_ ?_
    | (guard_target = Inv (enterLatched ..); with_reducible apply enterLatched_inv)
    | (guard_target = Inv (logFault ..); with_reducible apply logFault_inv)
    | (guard_target = Inv (State.onPd0 ..); refine Inv.onPd0 ?_ fun _ h => h)
    | (guard_target = Inv (State.onPd0 ..); refine Inv.onPd0 ?_ fun d hd => by simp only [List.length_map, List.length_take, List.length_cons]; omega)
    | extract_lets
    | dsimp only
    | split
    | dsimp +zetaDelta only

theorem stageAt_inv (z : Fin 10) (k : Fin 20) (r : Int) {s : State} (hI : Inv s) : Inv (stageAt z k r s) := by
  unfold stageAt
  try extract_lets
  repeat' first
    | with_reducible assumption
    | with_reducible refine Inv.ite ?_ ?_
    | (guard_target = Inv (lswTemp ..); with_reducible apply lswTemp_inv)
    | (guard_target = Inv (stageTemp ..); with_reducible apply stageTemp_inv)
    | (guard_target = Inv (tripFeed ..); with_reducible apply tripFeed_inv)
    | extract_lets
    | dsimp only
    | split
    | dsimp +zetaDelta only

theorem rateTripStage_inv (z : Fin 10) (k : Fin 20) {s : State} (hI : Inv s) : Inv (rateTripStage z k s) := by
  unfold rateTripStage
  try extract_lets
  repeat' first
    | with_reducible assumption
    | with_reducible refine Inv.ite ?_ ?_
    | (guard_target = Inv (lswTrip ..); with_reducible apply lswTrip_inv)
    | (guard_target = Inv (tripFeed ..); with_reducible apply tripFeed_inv)
    | (guard_target = Inv (tripStage ..); with_reducible apply tripStage_inv)
    | extract_lets
    | dsimp only
    | split
    | dsimp +zetaDelta only

theorem rateTest_inv (z : Fin 10) (k : Fin 20) (t : Int) (was s : State) (hI : Inv s) : Inv (rateTest z k t was s) := by
  unfold rateTest
  try extract_lets
  repeat' first
    | with_reducible assumption
    | with_reducible refine Inv.ite ?_ ?_
    | (guard_target = Inv (modZone ..); with_reducible refine Inv.ofOnly ?_ (modZone_only ..))
    | (guard_target = Inv (rateTripStage ..); with_reducible apply rateTripStage_inv)
    | (guard_target = Inv (thsNote ..); with_reducible apply thsNote_inv)
    | extract_lets
    | dsimp only
    | split
    | dsimp +zetaDelta only

theorem sensorSample_inv (z : Fin 10) (k : Fin 20) (t : Int) {s : State} (hI : Inv s) : Inv (sensorSample z k t s) := by
  unfold sensorSample
  try extract_lets
  repeat' first
    | with_reducible assumption
    | with_reducible refine Inv.ite ?_ ?_
    | (guard_target = Inv (rateTest ..); with_reducible apply rateTest_inv)
    | (guard_target = Inv (shutDown ..); with_reducible apply shutDown_inv)
    | (guard_target = Inv (stageAt ..); with_reducible apply stageAt_inv)
    | (guard_target = Inv (switchTemp ..); with_reducible refine Inv.ofOnly ?_ (switchTemp_only ..))
    | (guard_target = Inv (takeReading ..); with_reducible apply takeReading_inv)
    | (guard_target = Inv (zoneSample ..); with_reducible apply zoneSample_inv)
    | extract_lets
    | dsimp only
    | split
    | dsimp +zetaDelta only

theorem execWarn_inv (z : Fin 10) (k : Fin 20) (t : Int) {s : State} (hI : Inv s) : InvR (execWarn z k t s) := by
  unfold execWarn
  try extract_lets
  repeat' first
    | with_reducible assumption
    | with_reducible refine InvR.next ?_
    | with_reducible refine InvR.ite ?_ ?_
    | with_reducible refine Inv.ite ?_ ?_
    | (guard_target = Inv (sensorSample ..); with_reducible apply sensorSample_inv)
    | extract_lets
    | dsimp only
    | split
    | dsimp +zetaDelta only

theorem execThrottle_inv (z : Fin 10) (k : Fin 20) (t : Int) {s : State} (hI : Inv s) : InvR (execThrottle z k t s) := by
  unfold execThrottle
  try extract_lets
  repeat' first
    | with_reducible assumption
    | with_reducible refine InvR.next ?_
    | with_reducible refine InvR.ite ?_ ?_
    | with_reducible refine Inv.ite ?_ ?_
    | (guard_target = Inv (sensorSample ..); with_reducible apply sensorSample_inv)
    | extract_lets
    | dsimp only
    | split
    | dsimp +zetaDelta only

theorem execSensorBroken_inv (z : Fin 10) (k : Fin 20) {s : State} (hI : Inv s) : InvR (execSensorBroken z k s) := by
  unfold execSensorBroken
  try extract_lets
  repeat' first
    | with_reducible assumption
    | with_reducible refine InvR.next ?_
    | with_reducible refine InvR.ite ?_ ?_
    | with_reducible refine Inv.ite ?_ ?_
    | (guard_target = Inv (breakSensor ..); with_reducible apply breakSensor_inv)
    | (guard_target = Inv (shutDown ..); with_reducible apply shutDown_inv)
    | (guard_target = Inv (stageAt ..); with_reducible apply stageAt_inv)
    | (guard_target = Inv (zoneSample ..); with_reducible apply zoneSample_inv)
    | extract_lets
    | dsimp only
    | split
    | dsimp +zetaDelta only

theorem execStageHot_inv (c : Fin 96) (t : Int) {s : State} (hI : Inv s) : InvR (execStageHot c t s) := by
  unfold execStageHot
  try extract_lets
  repeat' first
    | with_reducible assumption
    | with_reducible refine InvR.next ?_
    | with_reducible refine InvR.ite ?_ ?_
    | with_reducible refine Inv.ite ?_ ?_
    | (guard_target = Inv (sensorSample ..); with_reducible apply sensorSample_inv)
    | extract_lets
    | dsimp only
    | split
    | dsimp +zetaDelta only

theorem execStageHotRelease_inv (c : Fin 96) (t : Int) {s : State} (hI : Inv s) : InvR (execStageHotRelease c t s) := by
  unfold execStageHotRelease
  try extract_lets
  repeat' first
    | with_reducible assumption
    | with_reducible refine InvR.next ?_
    | with_reducible refine InvR.ite ?_ ?_
    | with_reducible refine Inv.ite ?_ ?_
    | (guard_target = Inv (sensorSample ..); with_reducible apply sensorSample_inv)
    | extract_lets
    | dsimp only
    | split
    | dsimp +zetaDelta only

theorem execLswOvertemp_inv (c : Fin 16) (t : Int) {s : State} (hI : Inv s) : InvR (execLswOvertemp c t s) := by
  unfold execLswOvertemp
  try extract_lets
  repeat' first
    | with_reducible assumption
    | with_reducible refine InvR.next ?_
    | with_reducible refine InvR.ite ?_ ?_
    | with_reducible refine Inv.ite ?_ ?_
    | (guard_target = Inv (lswTemp ..); with_reducible apply lswTemp_inv)
    | (guard_target = Inv (sensorSample ..); with_reducible apply sensorSample_inv)
    | extract_lets
    | dsimp only
    | split
    | dsimp +zetaDelta only

theorem execThermLatchRelease_inv (c : Fin 16) (t : Int) {s : State} (hI : Inv s) : InvR (execThermLatchRelease c t s) := by
  unfold execThermLatchRelease
  try extract_lets
  repeat' first
    | with_reducible assumption
    | with_reducible refine InvR.next ?_
    | with_reducible refine InvR.ite ?_ ?_
    | with_reducible refine Inv.ite ?_ ?_
    | (guard_target = Inv (lswTemp ..); with_reducible apply lswTemp_inv)
    | (guard_target = Inv (sensorSample ..); with_reducible apply sensorSample_inv)
    | extract_lets
    | dsimp only
    | split
    | dsimp +zetaDelta only

theorem execRateTrip_inv (z : Fin 10) (k : Fin 20) (t : Int) {s : State} (hI : Inv s) : InvR (execRateTrip z k t s) := by
  unfold execRateTrip
  try extract_lets
  repeat' first
    | with_reducible assumption
    | with_reducible refine InvR.next ?_
    | with_reducible refine InvR.ite ?_ ?_
    | with_reducible refine Inv.ite ?_ ?_
    | (guard_target = Inv (modZone ..); with_reducible refine Inv.ofOnly ?_ (modZone_only ..))
    | (guard_target = Inv (rateTripStage ..); with_reducible apply rateTripStage_inv)
    | (guard_target = Inv (sensorSample ..); with_reducible apply sensorSample_inv)
    | (guard_target = Inv (thsNote ..); with_reducible apply thsNote_inv)
    | extract_lets
    | dsimp only
    | split
    | dsimp +zetaDelta only

theorem execShutdown_inv (z : Fin 10) (k : Fin 20) (t : Int) {s : State} (hI : Inv s) : InvR (execShutdown z k t s) := by
  unfold execShutdown
  try extract_lets
  repeat' first
    | with_reducible assumption
    | with_reducible refine InvR.next ?_
    | with_reducible refine InvR.ite ?_ ?_
    | with_reducible refine Inv.ite ?_ ?_
    | (guard_target = Inv (sensorSample ..); with_reducible apply sensorSample_inv)
    | extract_lets
    | dsimp only
    | split
    | dsimp +zetaDelta only

theorem reportLatch_inv  {s : State} (hI : Inv s) : Inv (reportLatch s) := by
  unfold reportLatch
  try extract_lets
  repeat' first
    | with_reducible assumption
    | with_reducible refine Inv.ite ?_ ?_
    | (guard_target = Inv (notice ..); with_reducible apply notice_inv)
    | (guard_target = Inv (State.onPd0 ..); refine Inv.onPd0 ?_ fun _ h => h)
    | extract_lets
    | dsimp only
    | split

end Sys2Proof.Machine
end

