-- ==== Sys2Proof/Laws/StartupInv.lean ====
section
/-! SUPPORT. What the operations of Machine/Startup.lean keep: the invariant `Inv`. -/

set_option Elab.async false

namespace Sys2Proof.Machine

theorem resetDomain_inv (d : Nat) {s : State} (h : Inv s) : Inv (resetDomain d s) := by
  unfold resetDomain
  split <;> first
    | exact h
    | exact ⟨h.pd0, h.nor, h.host, h.map⟩
    | exact ⟨h.pd0, h.nor, HostInv.fresh, h.map⟩
    | exact ⟨h.pd0, h.nor, h.host, MapInv.fresh⟩

theorem execPowerDomainSwitch_inv (d : Fin 12) (on : Bool) {s : State} (hI : Inv s) : InvR (execPowerDomainSwitch d on s) := by
  unfold execPowerDomainSwitch
  try extract_lets
  repeat' first
    | with_reducible assumption
    | with_reducible refine InvR.next ?_
    | with_reducible refine InvR.ite ?_ ?_
    | with_reducible refine Inv.ite ?_ ?_
    | (guard_target = Inv (flushCrossing ..); with_reducible apply flushCrossing_inv)
    | (guard_target = Inv (resetDomain ..); with_reducible apply resetDomain_inv)
    | (guard_target = Inv (State.onPwr ..); with_reducible refine Inv.ofOnly ?_ (State.onPwr_only ..))

theorem execVkeyHigh_inv  {s : State} (hI : Inv s) : InvR (execVkeyHigh s) := by
  unfold execVkeyHigh
  try extract_lets
  repeat' first
    | with_reducible assumption
    | with_reducible refine InvR.next ?_
    | with_reducible refine InvR.ite ?_ ?_
    | with_reducible refine Inv.ite ?_ ?_
    | (guard_target = Inv (startFromOff ..); with_reducible apply startFromOff_inv)
    | (guard_target = Inv (startState ..); with_reducible apply startState_inv)
    | (guard_target = Inv (State.onPwr ..); with_reducible refine Inv.ofOnly ?_ (State.onPwr_only ..))
    | extract_lets
    | dsimp only
    | split

theorem execVkeyLow_inv  {s : State} (hI : Inv s) : InvR (execVkeyLow s) := by
  unfold execVkeyLow
  try extract_lets
  repeat' first
    | with_reducible assumption
    | with_reducible refine InvR.next ?_
    | with_reducible refine InvR.ite ?_ ?_
    | with_reducible refine Inv.ite ?_ ?_
    | (guard_target = Inv (cancelActivation ..); with_reducible apply cancelActivation_inv)
    | (guard_target = Inv (sealBlock ..); with_reducible apply sealBlock_inv)
    | (guard_target = Inv (State.onPwr ..); with_reducible refine Inv.ofOnly ?_ (State.onPwr_only ..))

theorem vkeyAtEdge_inv (e : Tick) {s : State} (hI : Inv s) : Inv (vkeyAtEdge e s) := by
  unfold vkeyAtEdge
  try extract_lets
  repeat' first
    | with_reducible assumption
    | with_reducible refine Inv.ite ?_ ?_
    | (guard_target = Inv (cancelEdges ..); with_reducible apply cancelEdges_inv)
    | (guard_target = Inv (enterStandby ..); with_reducible apply enterStandby_inv)

theorem execKeyOffDelayExpiry_inv  {s : State} (hI : Inv s) : InvR (execKeyOffDelayExpiry s) := by
  unfold execKeyOffDelayExpiry
  try extract_lets
  repeat' first
    | with_reducible assumption
    | with_reducible refine InvR.next ?_
    | with_reducible refine InvR.ite ?_ ?_
    | with_reducible refine Inv.ite ?_ ?_
    | (guard_target = Inv (enterOff ..); with_reducible apply enterOff_inv)
    | extract_lets
    | dsimp only
    | split

theorem execWakeAlarm_inv  {s : State} (hI : Inv s) : InvR (execWakeAlarm s) := by
  unfold execWakeAlarm
  try extract_lets
  repeat' first
    | with_reducible assumption
    | with_reducible refine InvR.next ?_
    | with_reducible refine InvR.ite ?_ ?_
    | with_reducible refine Inv.ite ?_ ?_
    | (guard_target = Inv (startFromOff ..); with_reducible apply startFromOff_inv)
    | (guard_target = Inv (State.onPd0 ..); refine Inv.onPd0 ?_ fun _ h => h)
    | extract_lets
    | dsimp only
    | split

theorem execVbatStartBand_inv  {s : State} (hI : Inv s) : InvR (execVbatStartBand s) := by
  unfold execVbatStartBand
  try extract_lets
  repeat' first
    | with_reducible assumption
    | with_reducible refine InvR.next ?_
    | with_reducible refine InvR.ite ?_ ?_
    | with_reducible refine Inv.ite ?_ ?_
    | (guard_target = Inv (lswReverseEnds ..); with_reducible refine Inv.ofOnly ?_ (lswReverseEnds_only ..))
    | (guard_target = Inv (startFromOff ..); with_reducible apply startFromOff_inv)
    | (guard_target = Inv (State.onPwr ..); with_reducible refine Inv.ofOnly ?_ (State.onPwr_only ..))
    | extract_lets
    | dsimp only
    | split
    | dsimp +zetaDelta only

theorem execBrownOut_inv  {s : State} (hI : Inv s) : InvR (execBrownOut s) := by
  unfold execBrownOut
  try extract_lets
  repeat' first
    | with_reducible assumption
    | with_reducible refine InvR.next ?_
    | with_reducible refine InvR.ite ?_ ?_
    | with_reducible refine Inv.ite ?_ ?_
    | (guard_target = Inv (enterOffBrown ..); with_reducible apply enterOffBrown_inv)
    | (guard_target = Inv (State.onPwr ..); with_reducible refine Inv.ofOnly ?_ (State.onPwr_only ..))

theorem execLowSupply_inv  {s : State} (hI : Inv s) : InvR (execLowSupply s) := by
  unfold execLowSupply
  try extract_lets
  repeat' first
    | with_reducible assumption
    | with_reducible refine InvR.next ?_
    | with_reducible refine InvR.ite ?_ ?_
    | with_reducible refine Inv.ite ?_ ?_
    | (guard_target = Inv (logFault ..); with_reducible apply logFault_inv)
    | (guard_target = Inv (State.onPwr ..); with_reducible refine Inv.ofOnly ?_ (State.onPwr_only ..))

theorem execLowSupplyExit_inv  {s : State} (hI : Inv s) : InvR (execLowSupplyExit s) := by
  unfold execLowSupplyExit
  try extract_lets
  repeat' first
    | with_reducible assumption
    | with_reducible refine InvR.next ?_
    | with_reducible refine InvR.ite ?_ ?_
    | with_reducible refine Inv.ite ?_ ?_
    | (guard_target = Inv (endFault ..); with_reducible apply endFault_inv)
    | (guard_target = Inv (State.onPwr ..); with_reducible refine Inv.ofOnly ?_ (State.onPwr_only ..))

theorem execLossOfGround_inv  {s : State} (hI : Inv s) : InvR (execLossOfGround s) := by
  unfold execLossOfGround
  try extract_lets
  repeat' first
    | with_reducible assumption
    | with_reducible refine InvR.next ?_
    | with_reducible refine InvR.ite ?_ ?_
    | with_reducible refine Inv.ite ?_ ?_
    | (guard_target = Inv (gatesOff ..); with_reducible refine Inv.ofOnly ?_ (gatesOff_only ..))
    | (guard_target = Inv (logFault ..); with_reducible apply logFault_inv)
    | (guard_target = Inv (lswGroundLoss ..); with_reducible apply lswGroundLoss_inv)
    | (guard_target = Inv (lswGroundLossOff ..); with_reducible apply lswGroundLossOff_inv)
    | (guard_target = Inv (valvesCut ..); with_reducible apply valvesCut_inv)
    | (guard_target = Inv (State.onPwr ..); with_reducible refine Inv.ofOnly ?_ (State.onPwr_only ..))
    | extract_lets
    | dsimp only
    | split
    | dsimp +zetaDelta only

theorem groundAtEdge_inv (e : Tick) {s : State} (hI : Inv s) : Inv (groundAtEdge e s) := by
  unfold groundAtEdge
  try extract_lets
  repeat' first
    | with_reducible assumption
    | with_reducible refine Inv.ite ?_ ?_
    | (guard_target = Inv (endFault ..); with_reducible apply endFault_inv)
    | (guard_target = Inv (feedsUp ..); with_reducible refine Inv.ofOnly ?_ (feedsUp_only ..))
    | (guard_target = Inv (lswGroundBack ..); with_reducible apply lswGroundBack_inv)
    | (guard_target = Inv (State.onPwr ..); with_reducible refine Inv.ofOnly ?_ (State.onPwr_only ..))
    | extract_lets
    | dsimp only
    | split
    | dsimp +zetaDelta only

theorem execReverseBattery_inv  {s : State} (hI : Inv s) : InvR (execReverseBattery s) := by
  unfold execReverseBattery
  try extract_lets
  repeat' first
    | with_reducible assumption
    | with_reducible refine InvR.next ?_
    | with_reducible refine InvR.ite ?_ ?_
    | with_reducible refine Inv.ite ?_ ?_
    | (guard_target = Inv (enterOffBrown ..); with_reducible apply enterOffBrown_inv)
    | (guard_target = Inv (logFault ..); with_reducible apply logFault_inv)
    | (guard_target = Inv (lswReverse ..); with_reducible refine Inv.ofOnly ?_ (lswReverse_only ..))
    | (guard_target = Inv (State.onPwr ..); with_reducible refine Inv.ofOnly ?_ (State.onPwr_only ..))

theorem execLoadDump_inv  {s : State} (hI : Inv s) : InvR (execLoadDump s) := by
  unfold execLoadDump
  try extract_lets
  repeat' first
    | with_reducible assumption
    | with_reducible refine InvR.next ?_
    | with_reducible refine InvR.ite ?_ ?_
    | with_reducible refine Inv.ite ?_ ?_
    | (guard_target = Inv (logFault ..); with_reducible apply logFault_inv)
    | (guard_target = Inv (State.onPwr ..); with_reducible refine Inv.ofOnly ?_ (State.onPwr_only ..))

theorem execPowerCycle_inv {s : State} (hI : Inv s) : InvR (execPowerCycle s) := by
  unfold execPowerCycle
  extract_lets d s1
  have h1 : Inv s1 := offState_inv (changeState_inv _ _ _ ⟨hI.nor, hI.nor, hI.host, hI.map⟩)
  exact InvR.next (h1.ofOnly (State.onPwr_only ..))

theorem bootNote_inv (stage : Nat) (t : Tick) {s : State} (hI : Inv s) : Inv (bootNote stage t s) := by
  unfold bootNote
  try extract_lets
  repeat' first
    | with_reducible assumption
    | with_reducible refine Inv.ite ?_ ?_
    | (guard_target = Inv (noticeNow ..); with_reducible apply noticeNow_inv)

theorem runSet_inv (c : List Bool) {s : State} (hI : Inv s) : Inv (runSet c s) := by
  unfold runSet
  try extract_lets
  repeat' first
    | with_reducible assumption
    | with_reducible refine Inv.ite ?_ ?_
    | (guard_target = Inv (extend ..); with_reducible refine Inv.ofOnly ?_ (extend_only ..))
    | (guard_target = Inv (modImage ..); with_reducible refine Inv.ofOnly ?_ (modImage_only ..))
    | (guard_target = Inv (notice ..); with_reducible apply notice_inv)
    | (guard_target = Inv (State.onPd0 ..); refine Inv.onPd0 ?_ fun _ h => h)
    | (guard_target = Inv (State.onGnss ..); with_reducible refine Inv.ofOnly ?_ (State.onGnss_only ..))
    | (guard_target = Inv (State.onSec ..); with_reducible refine Inv.ofOnly ?_ (State.onSec_only ..))
    | with_reducible refine Inv.foldl (fun _ _ _ => ?_) ?_

theorem execImageSetSelect_inv (v0 v1 : Vector BankVerdict 5) {s : State} (hI : Inv s) : InvR (execImageSetSelect v0 v1 s) := by
  unfold execImageSetSelect
  try extract_lets
  repeat' first
    | with_reducible assumption
    | with_reducible refine InvR.next ?_
    | with_reducible refine InvR.ite ?_ ?_
    | with_reducible refine Inv.ite ?_ ?_
    | (guard_target = Inv (extendOpen ..); with_reducible refine Inv.ofOnly ?_ (extendOpen_only ..))
    | (guard_target = Inv (modImage ..); with_reducible refine Inv.ofOnly ?_ (modImage_only ..))
    | (guard_target = Inv (runSet ..); with_reducible apply runSet_inv)
    | (guard_target = Inv (startState ..); with_reducible apply startState_inv)
    | (guard_target = Inv (State.onSys ..); with_reducible refine Inv.ofOnly ?_ (State.onSys_only ..))
    | (guard_target = Inv (State.onPwr ..); with_reducible refine Inv.ofOnly ?_ (State.onPwr_only ..))
    | (guard_target = Inv (State.onSec ..); with_reducible refine Inv.ofOnly ?_ (State.onSec_only ..))
    | extract_lets
    | dsimp only
    | split

theorem execDomainPowerUp_inv  {s : State} (hI : Inv s) : InvR (execDomainPowerUp s) := by
  unfold execDomainPowerUp
  try extract_lets
  repeat' first
    | with_reducible assumption
    | with_reducible refine InvR.next ?_
    | with_reducible refine InvR.ite ?_ ?_
    | with_reducible refine Inv.ite ?_ ?_
    | (guard_target = Inv (enterLatched ..); with_reducible apply enterLatched_inv)
    | (guard_target = Inv (State.onSys ..); with_reducible refine Inv.ofOnly ?_ (State.onSys_only ..))
    | (guard_target = Inv (State.onPwr ..); with_reducible refine Inv.ofOnly ?_ (State.onPwr_only ..))
    | extract_lets
    | dsimp only
    | split

theorem startNote_inv  {s : State} (hI : Inv s) : Inv (startNote s) := by
  unfold startNote
  try extract_lets
  repeat' first
    | with_reducible assumption
    | with_reducible refine Inv.ite ?_ ?_
    | (guard_target = Inv (noticeAt ..); with_reducible apply noticeAt_inv)
    | extract_lets
    | dsimp only
    | split
    | dsimp +zetaDelta only

theorem execHostPortAlive_inv  {s : State} (hI : Inv s) : InvR (execHostPortAlive s) := by
  unfold execHostPortAlive
  try extract_lets
  repeat' first
    | with_reducible assumption
    | with_reducible refine InvR.next ?_
    | with_reducible refine InvR.ite ?_ ?_
    | with_reducible refine Inv.ite ?_ ?_
    | (guard_target = Inv (bootNote ..); with_reducible apply bootNote_inv)
    | (guard_target = Inv (reportLatch ..); with_reducible apply reportLatch_inv)
    | (guard_target = Inv (startNote ..); with_reducible apply startNote_inv)
    | (guard_target = Inv (State.onSys ..); with_reducible refine Inv.ofOnly ?_ (State.onSys_only ..))
    | extract_lets
    | dsimp only
    | split
    | dsimp +zetaDelta only

theorem selftestRejects_inv (codes : List Nat) {s : State} (hI : Inv s) : Inv (selftestRejects codes s) := by
  unfold selftestRejects
  try extract_lets
  repeat' first
    | with_reducible assumption
    | with_reducible refine Inv.ite ?_ ?_
    | (guard_target = Inv (failSelftest ..); with_reducible apply failSelftest_inv)
    | with_reducible refine Inv.foldl (fun _ _ _ => ?_) ?_
    | with_reducible refine Inv.foldlFst (fun _ _ _ _ => ?_) ?_
    | extract_lets
    | dsimp only
    | split

theorem startComplete_inv  {s : State} (hI : Inv s) : Inv (startComplete s) := by
  unfold startComplete
  try extract_lets
  repeat' first
    | with_reducible assumption
    | with_reducible refine Inv.ite ?_ ?_
    | (guard_target = Inv (bootNote ..); with_reducible apply bootNote_inv)
    | (guard_target = Inv (enterStandby ..); with_reducible apply enterStandby_inv)
    | (guard_target = Inv (feedsUp ..); with_reducible refine Inv.ofOnly ?_ (feedsUp_only ..))
    | (guard_target = Inv (State.onSys ..); with_reducible refine Inv.ofOnly ?_ (State.onSys_only ..))
    | (guard_target = Inv (State.onPwr ..); with_reducible refine Inv.ofOnly ?_ (State.onPwr_only ..))
    | extract_lets
    | dsimp only
    | split
    | dsimp +zetaDelta only

theorem execSelftestComplete_inv (failed : List Nat) {s : State} (hI : Inv s) : InvR (execSelftestComplete failed s) := by
  unfold execSelftestComplete
  try extract_lets
  repeat' first
    | with_reducible assumption
    | with_reducible refine InvR.next ?_
    | with_reducible refine InvR.ite ?_ ?_
    | with_reducible refine Inv.ite ?_ ?_
    | (guard_target = Inv (enterQuarantine ..); with_reducible apply enterQuarantine_inv)
    | (guard_target = Inv (selftestRejects ..); with_reducible apply selftestRejects_inv)
    | (guard_target = Inv (startComplete ..); with_reducible apply startComplete_inv)
    | (guard_target = Inv (State.onSys ..); with_reducible refine Inv.ofOnly ?_ (State.onSys_only ..))
    | (guard_target = Inv (State.onPos ..); with_reducible refine Inv.ofOnly ?_ (State.onPos_only ..))
    | extract_lets
    | dsimp only
    | split
    | dsimp +zetaDelta only

theorem quarantineAtEdge_inv (e : Tick) {s : State} (hI : Inv s) : Inv (quarantineAtEdge e s) := by
  unfold quarantineAtEdge
  try extract_lets
  repeat' first
    | with_reducible assumption
    | with_reducible refine Inv.ite ?_ ?_
    | (guard_target = Inv (enterQuarantine ..); with_reducible apply enterQuarantine_inv)

theorem execDramTestDone_inv (retired : Vector Nat 3) {s : State} (hI : Inv s) : InvR (execDramTestDone retired s) := by
  unfold execDramTestDone
  try extract_lets
  repeat' first
    | with_reducible assumption
    | with_reducible refine InvR.next ?_
    | with_reducible refine InvR.ite ?_ ?_
    | with_reducible refine Inv.ite ?_ ?_
    | (guard_target = Inv (mapBecomesReady ..); with_reducible apply mapBecomesReady_inv)
    | (guard_target = Inv (notice ..); with_reducible apply notice_inv)
    | (guard_target = Inv (poolLow ..); with_reducible apply poolLow_inv)
    | (guard_target = Inv (State.onMap ..); refine Inv.onMap ?_ fun _ h => h)
    | extract_lets
    | dsimp only
    | split
    | dsimp +zetaDelta only

end Sys2Proof.Machine
end

