-- ==== Sys2Proof/Laws/ParamBlocksInv.lean ====
section
/-! SUPPORT. What the operations of Machine/ParamBlocks.lean keep: the invariant `Inv`. -/

set_option Elab.async false

namespace Sys2Proof.Machine

theorem opPbWrite_inv (e : Env) {s : State} (hI : Inv s) : Inv (opPbWrite e s).1 := by
  unfold opPbWrite
  try extract_lets
  repeat' first
    | with_reducible assumption
    | with_reducible refine Inv.iteFst ?_ ?_
    | with_reducible refine Inv.ite ?_ ?_
    | dsimp only [deny, done]
    | (guard_target = Inv (worldViolation ..); with_reducible apply worldViolation_inv)
    | (guard_target = Inv (State.onShd ..); with_reducible refine Inv.ofOnly ?_ (State.onShd_only ..))
    | (guard_target = Inv (State.onPos ..); with_reducible refine Inv.ofOnly ?_ (State.onPos_only ..))
    | extract_lets
    | dsimp only
    | split
    | dsimp +zetaDelta only

theorem opPbCommit_inv (e : Env) {s : State} (hI : Inv s) : Inv (opPbCommit e s).1 := by
  unfold opPbCommit
  try extract_lets
  repeat' first
    | with_reducible assumption
    | with_reducible refine Inv.iteFst ?_ ?_
    | with_reducible refine Inv.ite ?_ ?_
    | dsimp only [deny, done, doneEdge]
    | (guard_target = Inv (waitEdge ..); with_reducible refine Inv.ofOnly ?_ (waitEdge_only ..))
    | (guard_target = Inv (worldViolation ..); with_reducible apply worldViolation_inv)
    | (guard_target = Inv (State.onHost ..); refine Inv.onHost ?_ fun _ h => h)
    | extract_lets
    | dsimp only
    | split
    | dsimp +zetaDelta only

theorem commitPos_inv (e : Tick) (old : Params) (img : Nat) {s : State} (hI : Inv s) : Inv (commitPos e old img s) := by
  unfold commitPos
  try extract_lets
  repeat' first
    | with_reducible assumption
    | with_reducible refine Inv.ite ?_ ?_
    | (guard_target = Inv (setOrigin ..); with_reducible apply setOrigin_inv)
    | extract_lets
    | dsimp only
    | split
    | dsimp +zetaDelta only

theorem commitMap_inv (old : Params) {s : State} (hI : Inv s) : Inv (commitMap old s) := by
  unfold commitMap
  try extract_lets
  repeat' first
    | with_reducible assumption
    | with_reducible refine Inv.ite ?_ ?_
    | (guard_target = Inv (startBuild ..); with_reducible apply startBuild_inv)

theorem commitFe_inv (e : Tick) (old : Params) {s : State} (hI : Inv s) : Inv (commitFe e old s) := by
  unfold commitFe
  try extract_lets
  repeat' first
    | with_reducible assumption
    | with_reducible refine Inv.ite ?_ ?_
    | (guard_target = Inv (commitPhases ..); with_reducible apply commitPhases_inv)
    | (guard_target = Inv (directedOff ..); with_reducible refine Inv.ofOnly ?_ (directedOff_only ..))

theorem commitVdr_inv (e : Tick) (old : Params) (img : Nat) {s : State} (hI : Inv s) : Inv (commitVdr e old img s) := by
  unfold commitVdr
  try extract_lets
  repeat' first
    | with_reducible assumption
    | with_reducible refine Inv.ite ?_ ?_
    | (guard_target = Inv (leaveVbst ..); with_reducible refine Inv.ofOnly ?_ (leaveVbst_only ..))
    | (guard_target = Inv (relearn ..); with_reducible apply relearn_inv)
    | (guard_target = Inv (syncConv ..); with_reducible refine Inv.ofOnly ?_ (syncConv_only ..))
    | (guard_target = Inv (State.onNor ..); refine Inv.onNor ?_ fun _ h => h)
    | (guard_target = Inv (State.onAct ..); with_reducible refine Inv.ofOnly ?_ (State.onAct_only ..))
    | (guard_target = Inv (State.onVdr ..); with_reducible refine Inv.ofOnly ?_ (State.onVdr_only ..))
    | with_reducible refine Inv.foldl (fun _ _ _ => ?_) ?_
    | with_reducible refine Inv.foldlFst (fun _ _ _ _ => ?_) ?_
    | extract_lets
    | dsimp only
    | split
    | dsimp +zetaDelta only

theorem commitThs_inv (img : Nat) {s : State} (hI : Inv s) : Inv (commitThs img s) := by
  unfold commitThs
  try extract_lets
  repeat' first
    | with_reducible assumption
    | with_reducible refine Inv.ite ?_ ?_
    | (guard_target = Inv (clearTcxo ..); with_reducible apply clearTcxo_inv)

theorem commitSec_inv (old : Params) {s : State} (hI : Inv s) : Inv (commitSec old s) := by
  unfold commitSec
  try extract_lets
  repeat' first
    | with_reducible assumption
    | with_reducible refine Inv.ite ?_ ?_
    | (guard_target = Inv (closeSession ..); with_reducible apply closeSession_inv)
    | (guard_target = Inv (extendOpen ..); with_reducible refine Inv.ofOnly ?_ (extendOpen_only ..))
    | (guard_target = Inv (State.onNor ..); refine Inv.onNor ?_ fun _ h => h)
    | with_reducible refine Inv.foldl (fun _ _ _ => ?_) ?_
    | with_reducible refine Inv.foldlFst (fun _ _ _ _ => ?_) ?_
    | extract_lets
    | dsimp only
    | split

theorem commitBlock_inv (e : Tick) (old : Params) (tabs : Option Tables) (b : Block) (img : Nat) {s : State} (hI : Inv s) : Inv (commitBlock e old tabs b img s) := by
  unfold commitBlock
  try extract_lets
  repeat' first
    | with_reducible assumption
    | with_reducible refine Inv.ite ?_ ?_
    | (guard_target = Inv (commitCan ..); with_reducible apply commitCan_inv)
    | (guard_target = Inv (commitCe ..); with_reducible refine Inv.ofOnly ?_ (commitCe_only ..))
    | (guard_target = Inv (commitFe ..); with_reducible apply commitFe_inv)
    | (guard_target = Inv (commitGnss ..); with_reducible refine Inv.ofOnly ?_ (commitGnss_only ..))
    | (guard_target = Inv (commitLsw ..); with_reducible apply commitLsw_inv)
    | (guard_target = Inv (commitMap ..); with_reducible apply commitMap_inv)
    | (guard_target = Inv (commitPif ..); with_reducible refine Inv.ofOnly ?_ (commitPif_only ..))
    | (guard_target = Inv (commitPos ..); with_reducible apply commitPos_inv)
    | (guard_target = Inv (commitPwu ..); with_reducible apply commitPwu_inv)
    | (guard_target = Inv (commitSec ..); with_reducible apply commitSec_inv)
    | (guard_target = Inv (commitThs ..); with_reducible apply commitThs_inv)
    | (guard_target = Inv (commitTime ..); with_reducible refine Inv.ofOnly ?_ (commitTime_only ..))
    | (guard_target = Inv (commitVdr ..); with_reducible apply commitVdr_inv)
    | extract_lets
    | dsimp only
    | split
    | dsimp +zetaDelta only

theorem applyCommit_inv (e : Tick) (images : List (Block × Nat)) (tabs : Option Tables) {s : State} (hI : Inv s) : Inv (applyCommit e images tabs s) := by
  unfold applyCommit
  try extract_lets
  repeat' first
    | with_reducible assumption
    | with_reducible refine Inv.ite ?_ ?_
    | (guard_target = Inv (commitBlock ..); with_reducible apply commitBlock_inv)
    | (guard_target = Inv (extendOpen ..); with_reducible refine Inv.ofOnly ?_ (extendOpen_only ..))
    | (guard_target = Inv (putActive ..); with_reducible refine Inv.ofOnly ?_ (putActive_only ..))
    | with_reducible refine Inv.foldl (fun _ _ _ => ?_) ?_

theorem execTcxoClear_inv  {s : State} (hI : Inv s) : InvR (execTcxoClear s) := by
  unfold execTcxoClear
  try extract_lets
  repeat' first
    | with_reducible assumption
    | with_reducible refine InvR.next ?_
    | with_reducible refine InvR.ite ?_ ?_
    | with_reducible refine Inv.ite ?_ ?_
    | (guard_target = Inv (clearTcxo ..); with_reducible apply clearTcxo_inv)

end Sys2Proof.Machine
end

