-- ==== Sys2Proof/Laws/HostPortInv.lean ====
section
/-! SUPPORT. What the operations of Machine/HostPort.lean keep: the invariant `Inv`. -/

set_option Elab.async false

namespace Sys2Proof.Machine

theorem hostNote_inv (p : Port) (code : Nat) {s : State} (hI : Inv s) : Inv (hostNote p code s) := by
  unfold hostNote
  try extract_lets
  repeat' first
    | with_reducible assumption
    | with_reducible refine Inv.ite ?_ ?_
    | (guard_target = Inv (notice ..); with_reducible apply notice_inv)

theorem sendReply_inv (x : Option Session) (op : BitVec 16) (e : Env) (a : Answer) (grant credit : Nat) {s : State} (hI : Inv s) : Inv (sendReply x op e a grant credit s) := by
  unfold sendReply
  try extract_lets
  repeat' first
    | with_reducible assumption
    | with_reducible refine Inv.ite ?_ ?_
    | (guard_target = Inv (modPort ..); refine modPort_inv _ (by exact fun _ hq => hq) ?_)
    | extract_lets
    | dsimp only
    | split

theorem countBadHeader_inv (p : Port) {s : State} (hI : Inv s) : Inv (countBadHeader p s) := by
  unfold countBadHeader
  try extract_lets
  repeat' first
    | with_reducible assumption
    | with_reducible refine Inv.ite ?_ ?_
    | (guard_target = Inv (hostNote ..); with_reducible apply hostNote_inv)
    | (guard_target = Inv (modPort ..); refine modPort_inv _ (by exact fun _ hq => hq) ?_)

theorem execBadHeader_inv (p : Port) {s : State} (hI : Inv s) : InvR (execBadHeader p s) := by
  unfold execBadHeader
  try extract_lets
  repeat' first
    | with_reducible assumption
    | with_reducible refine InvR.next ?_
    | with_reducible refine InvR.ite ?_ ?_
    | with_reducible refine Inv.ite ?_ ?_
    | (guard_target = Inv (countBadHeader ..); with_reducible apply countBadHeader_inv)

theorem validHeader_inv (e : Env) {s : State} (hI : Inv s) : Inv (validHeader e s) := by
  unfold validHeader
  extract_lets lost s1
  have h1 : Inv s1 := modPort_inv _ (by exact fun q hq => ⟨hq.1, Nat.min_le_left .., hq.2.2⟩) hI
  clear_value s1
  exact Inv.ite (hostNote_inv _ _ (endFault_inv _ _ h1)) h1

theorem execLinkLost_inv (p : Port) {s : State} (hI : Inv s) : InvR (execLinkLost p s) := by
  unfold execLinkLost
  try extract_lets
  repeat' first
    | with_reducible assumption
    | with_reducible refine InvR.next ?_
    | with_reducible refine InvR.ite ?_ ?_
    | with_reducible refine Inv.ite ?_ ?_
    | (guard_target = Inv (hostNote ..); with_reducible apply hostNote_inv)
    | (guard_target = Inv (logFault ..); with_reducible apply logFault_inv)
    | (guard_target = Inv (modPort ..); refine modPort_inv _ (by exact fun _ hq => hq) ?_)
    | (guard_target = Inv (safeFault ..); with_reducible apply safeFault_inv)

theorem noticesSize_drop (n : Nat) (l : List Notice) : noticesSize (l.drop n) ≤ noticesSize l := by
  induction l generalizing n with
  | nil => simp
  | cons a l ih =>
    cases n with
    | zero => exact Nat.le_refl _
    | succ n =>
      have := ih n
      simp only [noticesSize, List.map_cons, List.sum_cons, List.drop_succ_cons] at *
      omega

theorem PortInv.sent {q q1 : PortSt} (h : PortInv q) (c : q1.credits = q.credits) (r : q1.replay = q.replay) (n k : Nat) :
    PortInv { q1 with notices := q.notices.drop n, noticesLost := 0, noticeCredits := q.noticeCredits - 1, outSeq := k } :=
  ⟨c ▸ h.1, Nat.le_trans (Nat.sub_le ..) h.2.1, r ▸ h.2.2.1, Nat.le_trans (noticesSize_drop ..) h.2.2.2⟩

theorem execNoticeEnvelope_inv (p : Port) {s : State} (hI : Inv s) : InvR (execNoticeEnvelope p s) := by
  unfold execNoticeEnvelope
  extract_lets q0 r o
  refine InvR.ite (InvR.next (modPort_inv _ (fun q hq => ?_) hI)) (InvR.next hI)
  refine hq.sent ?_ ?_ _ _
  all_goals
    split
    · split <;> rfl
    · rfl

theorem execPbHostApply_inv  {s : State} (hI : Inv s) : InvR (execPbHostApply s) := by
  unfold execPbHostApply
  try extract_lets
  repeat' first
    | with_reducible assumption
    | with_reducible refine InvR.next ?_
    | with_reducible refine InvR.ite ?_ ?_
    | with_reducible refine Inv.ite ?_ ?_
    | (guard_target = Inv (putActive ..); with_reducible refine Inv.ofOnly ?_ (putActive_only ..))
    | (guard_target = Inv (State.onHost ..); refine Inv.onHost ?_ fun _ h => h)
    | extract_lets
    | dsimp only
    | split

theorem execResetAfterReply_inv  {s : State} (hI : Inv s) : InvR (execResetAfterReply s) := by
  unfold execResetAfterReply
  try extract_lets
  repeat' first
    | with_reducible assumption
    | with_reducible refine InvR.next ?_
    | with_reducible refine InvR.ite ?_ ?_
    | with_reducible refine Inv.ite ?_ ?_
    | (guard_target = Inv (startState ..); with_reducible apply startState_inv)
    | extract_lets
    | dsimp only
    | split

end Sys2Proof.Machine
end

