-- ==== Sys2Proof/Laws/RequestsInv.lean ====
section
/-! SUPPORT. What the operations of Machine/Requests.lean keep: the invariant `Inv`. -/

set_option Elab.async false

namespace Sys2Proof.Machine

theorem opSysLinkReset_inv (e : Env) {s : State} (hI : Inv s) : Inv (opSysLinkReset e s).1 := by
  unfold opSysLinkReset
  extract_lets s1
  have h1 : Inv s1 :=
    modPort_inv _ (by exact fun q hq => ⟨Nat.le_refl 8, Nat.zero_le _, hq.2.2⟩) (closeSession_inv _ hI)
  clear_value s1
  exact Inv.onHost h1 (f := fun h => { h with awaiting := h.awaiting.filter fun a => a.2.env.port != e.port }) fun _ hd => hd

theorem opSysReset_inv (e : Env) {s : State} (hI : Inv s) : Inv (opSysReset e s).1 := by
  unfold opSysReset
  try extract_lets
  repeat' first
    | with_reducible assumption
    | with_reducible refine Inv.iteFst ?_ ?_
    | with_reducible refine Inv.ite ?_ ?_
    | dsimp only [done]
    | (guard_target = Inv (State.onHost ..); refine Inv.onHost ?_ fun _ h => h)

theorem applySubscribe_inv (p : Port) (k : Fin 16) (b : Sub) {s : State} (hI : Inv s) : Inv (applySubscribe p k b s) := by
  unfold applySubscribe
  try extract_lets
  repeat' first
    | with_reducible assumption
    | with_reducible refine Inv.ite ?_ ?_
    | (guard_target = Inv (modPort ..); refine modPort_inv _ (by exact fun _ hq => hq) ?_)

theorem opSysWakeSet_inv (e : Env) {s : State} (hI : Inv s) : Inv (opSysWakeSet e s).1 := by
  unfold opSysWakeSet
  try extract_lets
  repeat' first
    | with_reducible assumption
    | with_reducible refine Inv.iteFst ?_ ?_
    | with_reducible refine Inv.ite ?_ ?_
    | dsimp only [deny, doneWith]
    | (guard_target = Inv (State.onPd0 ..); refine Inv.onPd0 ?_ fun _ h => h)

theorem opActClearFault_inv (e : Env) {s : State} (hI : Inv s) : Inv (opActClearFault e s).1 := by
  unfold opActClearFault
  try extract_lets
  repeat' first
    | with_reducible assumption
    | with_reducible refine Inv.iteFst ?_ ?_
    | with_reducible refine Inv.ite ?_ ?_
    | dsimp only [deny, done]
    | (guard_target = Inv (beginReconnect ..); with_reducible refine Inv.ofOnly ?_ (beginReconnect_only ..))
    | (guard_target = Inv (clearBank ..); with_reducible apply clearBank_inv)
    | (guard_target = Inv (clearContext ..); with_reducible apply clearContext_inv)
    | extract_lets
    | dsimp only
    | split

theorem opSys_inv {n : Nat} {i : OpInfo} (h : opSys n = some i) (e : Env) {s : State} (hs : Inv s) : Inv (i.run e s).1 := by
  unfold opSys at h
  split at h
  · cases h; exact hs.ofOnly (opSysNop_only e s)
  · cases h; exact hs.ofOnly (opSysStatus_only e s)
  · cases h; exact hs.ofOnly (opSysIdentity_only e s)
  · cases h; exact opSysLinkReset_inv e hs
  · cases h; exact hs.ofOnly (opSysArm_only e s)
  · cases h; exact hs.ofOnly (opSysManual_only e s)
  · cases h; exact hs.ofOnly (opSysDisarm_only e s)
  · cases h; exact hs.ofOnly (opSysClearFault_only e s)
  · cases h; exact opSysReset_inv e hs
  · cases h; exact hs.ofOnly (opSysSubscribe_only e s)
  · cases h; exact opSysWakeSet_inv e hs
  · cases h

theorem opPb_inv {n : Nat} {i : OpInfo} (h : opPb n = some i) (e : Env) {s : State} (hs : Inv s) : Inv (i.run e s).1 := by
  unfold opPb at h
  split at h
  · cases h; exact hs.ofOnly (opPbRead_only e s)
  · cases h; exact opPbWrite_inv e hs
  · cases h; exact opPbCommit_inv e hs
  · cases h; exact hs.ofOnly (opPbRevert_only e s)
  · cases h

theorem opImpl_inv {n : Nat} {i : OpInfo} (h : opImpl n = some i) (e : Env) {s : State} (hs : Inv s) : Inv (i.run e s).1 := by
  unfold opImpl at h
  split at h
  · cases h; exact hs.ofOnly (opImplWrite_only e s)
  · cases h; exact hs.ofOnly (opImplRead_only e s)
  · cases h; exact hs.ofOnly (opImplCommit_only e s)
  · cases h; exact hs.ofOnly (opImplRevert_only e s)
  · cases h

theorem opMap_inv {n : Nat} {i : OpInfo} (h : opMap n = some i) (e : Env) {s : State} (hs : Inv s) : Inv (i.run e s).1 := by
  unfold opMap at h
  split at h
  · cases h; exact hs.ofOnly (opMapStatus_only e s)
  · cases h; exact opMapLoadBegin_inv e hs
  · cases h; exact opMapLoadData_inv e hs
  · cases h; exact opMapLoadEnd_inv e hs
  · cases h; exact opMapLoadAbort_inv e hs
  · cases h; exact opMapExportBegin_inv e hs
  · cases h; exact opMapExportRead_inv e hs
  · cases h; exact opMapExportAck_inv e hs
  · cases h; exact hs.ofOnly (opMapClear_only e s)
  · cases h; exact opMapLogRead_inv e hs
  · cases h; exact opMapLogAck_inv e hs
  · cases h

theorem opFe_inv {n : Nat} {i : OpInfo} (h : opFe n = some i) (e : Env) {s : State} (hs : Inv s) : Inv (i.run e s).1 := by
  unfold opFe at h
  split at h
  · cases h; exact hs.ofOnly (opFeDirected_only e s)
  · cases h; exact hs.ofOnly (opFeDirectedClear_only e s)
  · cases h

theorem opAct_inv {n : Nat} {i : OpInfo} (h : opAct n = some i) (e : Env) {s : State} (hs : Inv s) : Inv (i.run e s).1 := by
  unfold opAct at h
  split at h
  · cases h; exact hs.ofOnly (opActEvent_only e s)
  · cases h; exact hs.ofOnly (opActDuty_only e s)
  · cases h; exact hs.ofOnly (opActFineCmp_only e s)
  · cases h; exact opActClearFault_inv e hs
  · cases h

theorem opCe_inv {n : Nat} {i : OpInfo} (h : opCe n = some i) (e : Env) {s : State} (hs : Inv s) : Inv (i.run e s).1 := by
  unfold opCe at h
  split at h
  · cases h; exact hs.ofOnly (opCeSetpoint_only e s)
  · cases h; exact hs.ofOnly (opCeOutput_only e s)
  · cases h; exact hs.ofOnly (opCeTableWrite_only e s)
  · cases h; exact hs.ofOnly (opCeTableRead_only e s)
  · cases h; exact hs.ofOnly (opCeLoopReset_only e s)
  · cases h

theorem opTime_inv {n : Nat} {i : OpInfo} (h : opTime n = some i) (e : Env) {s : State} (hs : Inv s) : Inv (i.run e s).1 := by
  unfold opTime at h
  split at h
  · cases h; exact hs.ofOnly (opTimeGet_only e s)
  · cases h; exact hs.ofOnly (opTimeStepConfirm_only e s)
  · cases h; exact hs.ofOnly (opGnssRtcm_only e s)
  · cases h; exact hs.ofOnly (opGnssMeasGet_only e s)
  · cases h; exact hs.ofOnly (opPosGet_only e s)
  · cases h

theorem opIo_inv {n : Nat} {i : OpInfo} (h : opIo n = some i) (e : Env) {s : State} (hs : Inv s) : Inv (i.run e s).1 := by
  unfold opIo at h
  split at h
  · cases h; exact hs.ofOnly (opLswSet_only e s)
  · cases h; exact opLswClearFault_inv e hs
  · cases h; exact hs.ofOnly (opPifEncSet_only e s)
  · cases h; exact hs.ofOnly (opPifEventsRead_only e s)
  · cases h

theorem opCan_inv {n : Nat} {i : OpInfo} (h : opCan n = some i) (e : Env) {s : State} (hs : Inv s) : Inv (i.run e s).1 := by
  unfold opCan at h
  split at h
  · cases h; exact hs.ofOnly (opCanPhConfig_only e s)
  · cases h; exact hs.ofOnly (opCanRxRead_only e s)
  · cases h; exact hs.ofOnly (opCanTx_only e s)
  · cases h; exact opCanTxAbort_inv e hs
  · cases h; exact hs.ofOnly (opCanRecover_only e s)
  · cases h

theorem opSec_inv {n : Nat} {i : OpInfo} (h : opSec n = some i) (e : Env) {s : State} (hs : Inv s) : Inv (i.run e s).1 := by
  unfold opSec at h
  split at h
  · cases h; exact opSecSessionOpen_inv e hs
  · cases h; exact opSecSessionClose_inv e hs
  · cases h; exact hs.ofOnly (opSecServiceChallenge_only e s)
  · cases h; exact opSecServiceResponse_inv e hs
  · cases h; exact hs.ofOnly (opSecAttest_only e s)
  · cases h; exact hs.ofOnly (opSecImageBegin_only e s)
  · cases h; exact hs.ofOnly (opSecImageData_only e s)
  · cases h; exact hs.ofOnly (opSecImageEnd_only e s)
  · cases h; exact hs.ofOnly (opSecActivate_only e s)
  · cases h; exact hs.ofOnly (opSecImageStatus_only e s)
  · cases h

theorem opDiag_inv {n : Nat} {i : OpInfo} (h : opDiag n = some i) (e : Env) {s : State} (hs : Inv s) : Inv (i.run e s).1 := by
  unfold opDiag at h
  split at h
  · cases h; exact hs.ofOnly (opDiagRead_only e s)
  · cases h

theorem opInfo_inv {op : BitVec 16} {i : OpInfo} (h : opInfo op = some i) (e : Env) {s : State} (hs : Inv s) : Inv (i.run e s).1 := by
  unfold opInfo at h
  split at h
  · exact opSys_inv h e hs
  · exact opPb_inv h e hs
  · exact opImpl_inv h e hs
  · exact opMap_inv h e hs
  · exact opFe_inv h e hs
  · exact opAct_inv h e hs
  · exact opCe_inv h e hs
  · exact opTime_inv h e hs
  · exact opIo_inv h e hs
  · exact opCan_inv h e hs
  · exact opSec_inv h e hs
  · exact opDiag_inv h e hs
  · cases h

theorem interpret_inv (op : BitVec 16) (e : Env) {s : State} (hs : Inv s) : Inv (interpret op e s).1 := by
  unfold interpret
  split
  · exact hs
  · refine Inv.iteFst hs ?_
    split
    · exact hs
    · exact opInfo_inv ‹_› e hs

theorem checkSeq_inv (e : Env) {s : State} (hI : Inv s) : Inv (checkSeq e s) := by
  unfold checkSeq
  try extract_lets
  repeat' first
    | with_reducible assumption
    | with_reducible refine Inv.ite ?_ ?_
    | (guard_target = Inv (hostNote ..); with_reducible apply hostNote_inv)
    | (guard_target = Inv (modPort ..); refine modPort_inv _ (by exact fun _ hq => hq) ?_)

theorem replyAgain_inv (op : BitVec 16) (e : Env) (c : Nat) (r : Replay) {s : State} (hI : Inv s) : Inv (replyAgain op e c r s) := by
  unfold replyAgain
  try extract_lets
  repeat' first
    | with_reducible assumption
    | with_reducible refine Inv.ite ?_ ?_
    | (guard_target = Inv (modPort ..); refine modPort_inv _ (by exact fun _ hq => hq) ?_)
    | (guard_target = Inv (sendReply ..); with_reducible apply sendReply_inv)
    | extract_lets
    | dsimp only
    | split
    | dsimp +zetaDelta only

theorem answer_inv (x : Option Session) (op : BitVec 16) (e : Env) (n : Nat) (a : Answer) {s : State} (hI : Inv s) : Inv (answer x op e n a s) := by
  unfold answer
  extract_lets grant credit kept r
  exact sendReply_inv _ _ _ _ _ _
    (modPort_inv _ (by exact fun q hq => ⟨hq.1, hq.2.1, List.length_take_le .., hq.2.2.2⟩) hI)

theorem runRequest_inv (op : BitVec 16) (e : Env) (n : Nat) {s : State} (hI : Inv s) : Inv (runRequest op e n s) := by
  unfold runRequest
  try extract_lets
  repeat' first
    | with_reducible assumption
    | with_reducible refine Inv.ite ?_ ?_
    | (guard_target = Inv (answer ..); with_reducible apply answer_inv)
    | (guard_target = Inv (interpret ..).1; with_reducible apply interpret_inv)
    | (guard_target = Inv (State.onHost ..); refine Inv.onHost ?_ fun _ h => h)
    | extract_lets
    | dsimp only
    | split

theorem hold_inv (op : BitVec 16) (e : Env) (n : Nat) {s : State} (hI : Inv s) : Inv (hold op e n s) := by
  unfold hold
  try extract_lets
  repeat' first
    | with_reducible assumption
    | with_reducible refine Inv.ite ?_ ?_
    | (guard_target = Inv (modPort ..); refine modPort_inv _ (by exact fun _ hq => hq) ?_)

theorem runOne_inv (h : HeldReq) {s : State} (hI : Inv s) : Inv (runOne s h) := by
  unfold runOne
  try extract_lets
  repeat' first
    | with_reducible assumption
    | with_reducible refine Inv.ite ?_ ?_
    | (guard_target = Inv (modPort ..); refine modPort_inv _ (by exact fun _ hq => hq) ?_)
    | (guard_target = Inv (runRequest ..); with_reducible apply runRequest_inv)

theorem runHeld_inv  {s : State} (hI : Inv s) : Inv (runHeld s) := by
  unfold runHeld
  try extract_lets
  repeat' first
    | with_reducible assumption
    | with_reducible refine Inv.ite ?_ ?_
    | (guard_target = Inv (runOne ..); with_reducible apply runOne_inv)
    | with_reducible refine Inv.foldl (fun _ _ _ => ?_) ?_

theorem authFail_inv (op : BitVec 16) (e : Env) (c : Nat) {s : State} (hI : Inv s) : Inv (authFail op e c s) := by
  unfold authFail
  try extract_lets
  repeat' first
    | with_reducible assumption
    | with_reducible refine Inv.ite ?_ ?_
    | (guard_target = Inv (closeSession ..); with_reducible apply closeSession_inv)
    | (guard_target = Inv (hostNote ..); with_reducible apply hostNote_inv)
    | (guard_target = Inv (modPort ..); refine modPort_inv _ (by exact fun _ hq => hq) ?_)
    | (guard_target = Inv (sendReply ..); with_reducible apply sendReply_inv)
    | extract_lets
    | dsimp only
    | split
    | dsimp +zetaDelta only

theorem passTag_inv (e : Env) (n : Nat) {s : State} (hI : Inv s) : Inv (passTag e n s) := by
  unfold passTag
  try extract_lets
  repeat' first
    | with_reducible assumption
    | with_reducible refine Inv.ite ?_ ?_
    | (guard_target = Inv (modPort ..); refine modPort_inv _ (by exact fun _ hq => hq) ?_)

theorem takeCredit_inv (p : Port) {s : State} (hI : Inv s) : Inv (takeCredit p s) := by
  exact modPort_inv _ (by exact fun q hq => ⟨Nat.le_trans (Nat.sub_le ..) hq.1, hq.2⟩) hI

theorem refuseHeader_inv (op : BitVec 16) (e : Env) (st : Status) {s : State} (hI : Inv s) : Inv (refuseHeader op e st s) := by
  unfold refuseHeader
  try extract_lets
  repeat' first
    | with_reducible assumption
    | with_reducible refine Inv.ite ?_ ?_
    | (guard_target = Inv (sendReply ..); with_reducible apply sendReply_inv)
    | (guard_target = Inv (takeCredit ..); with_reducible apply takeCredit_inv)

theorem accept_inv (op : BitVec 16) (e : Env) (c n : Nat) {s : State} (hI : Inv s) : Inv (accept op e c n s) := by
  unfold accept
  try extract_lets
  repeat' first
    | with_reducible assumption
    | with_reducible refine Inv.ite ?_ ?_
    | (guard_target = Inv (checkSeq ..); with_reducible apply checkSeq_inv)
    | (guard_target = Inv (hold ..); with_reducible apply hold_inv)
    | (guard_target = Inv (replyAgain ..); with_reducible apply replyAgain_inv)
    | (guard_target = Inv (runRequest ..); with_reducible apply runRequest_inv)
    | extract_lets
    | dsimp only
    | split
    | dsimp +zetaDelta only

theorem checkBody_inv (op : BitVec 16) (e : Env) (c : Nat) {s : State} (hI : Inv s) : Inv (checkBody op e c s) := by
  unfold checkBody
  try extract_lets
  repeat' first
    | with_reducible assumption
    | with_reducible refine Inv.ite ?_ ?_
    | (guard_target = Inv (accept ..); with_reducible apply accept_inv)
    | (guard_target = Inv (authFail ..); with_reducible apply authFail_inv)
    | (guard_target = Inv (passTag ..); with_reducible apply passTag_inv)
    | (guard_target = Inv (sendReply ..); with_reducible apply sendReply_inv)
    | extract_lets
    | dsimp only
    | split
    | dsimp +zetaDelta only

theorem checkHeader_inv (op : BitVec 16) (e : Env) {s : State} (hI : Inv s) : Inv (checkHeader op e s) := by
  unfold checkHeader
  try extract_lets
  repeat' first
    | with_reducible assumption
    | with_reducible refine Inv.ite ?_ ?_
    | (guard_target = Inv (checkBody ..); with_reducible apply checkBody_inv)
    | (guard_target = Inv (refuseHeader ..); with_reducible apply refuseHeader_inv)
    | (guard_target = Inv (sendReply ..); with_reducible apply sendReply_inv)
    | (guard_target = Inv (takeCredit ..); with_reducible apply takeCredit_inv)

theorem receive_inv (op : BitVec 16) (e : Env) {s : State} (hI : Inv s) : Inv (receive op e s) := by
  unfold receive
  try extract_lets
  repeat' first
    | with_reducible assumption
    | with_reducible refine Inv.ite ?_ ?_
    | (guard_target = Inv (checkHeader ..); with_reducible apply checkHeader_inv)
    | (guard_target = Inv (countBadHeader ..); with_reducible apply countBadHeader_inv)
    | (guard_target = Inv (validHeader ..); with_reducible apply validHeader_inv)

theorem answerBank_inv (b : Fin 12) (st : Status) {s : State} (hI : Inv s) : Inv (answerBank b st s) := by
  unfold answerBank
  try extract_lets
  repeat' first
    | with_reducible assumption
    | with_reducible refine Inv.ite ?_ ?_
    | (guard_target = Inv (answer ..); with_reducible apply answer_inv)
    | (guard_target = Inv (State.onHost ..); refine Inv.onHost ?_ fun _ h => h)
    | with_reducible refine Inv.foldl (fun _ _ _ => ?_) ?_

theorem execBankReconnectTestEnd_inv (b : Fin 12) (short : Option (Fin 8)) {s : State} (hI : Inv s) : InvR (execBankReconnectTestEnd b short s) := by
  unfold execBankReconnectTestEnd
  try extract_lets
  repeat' first
    | with_reducible assumption
    | with_reducible refine InvR.next ?_
    | with_reducible refine InvR.ite ?_ ?_
    | with_reducible refine Inv.ite ?_ ?_
    | (guard_target = Inv (answerBank ..); with_reducible apply answerBank_inv)
    | (guard_target = Inv (isolateFault ..); with_reducible apply isolateFault_inv)
    | (guard_target = Inv (reconnected ..); with_reducible apply reconnected_inv)
    | (guard_target = Inv (reisolated ..); with_reducible apply reisolated_inv)
    | extract_lets
    | dsimp only
    | split
    | dsimp +zetaDelta only

theorem tunnelHeader_inv (e : Env) {s : State} (hI : Inv s) : Inv (tunnelHeader e s) := by
  unfold tunnelHeader
  try extract_lets
  repeat' first
    | with_reducible assumption
    | with_reducible refine Inv.ite ?_ ?_
    | (guard_target = Inv (modPort ..); refine modPort_inv _ (by exact fun _ hq => hq) ?_)
    | (guard_target = Inv (validHeader ..); with_reducible apply validHeader_inv)
    | extract_lets
    | dsimp only
    | split
    | dsimp +zetaDelta only

theorem tunnelBody_inv (op : BitVec 16) (e : Env) {s : State} (hI : Inv s) : Inv (tunnelBody op e s) := by
  unfold tunnelBody
  try extract_lets
  repeat' first
    | with_reducible assumption
    | with_reducible refine Inv.ite ?_ ?_
    | (guard_target = Inv (checkHeader ..); with_reducible apply checkHeader_inv)
    | (guard_target = Inv (modPort ..); refine modPort_inv _ (by exact fun _ hq => hq) ?_)
    | extract_lets
    | dsimp only
    | split
    | dsimp +zetaDelta only

theorem tunnelServe_inv (at_ : Tick) (n : Nat) {s : State} (h : Inv s) : Inv (tunnelServe at_ n s) := by
  induction n generalizing s with
  | zero => exact h
  | succ n ih =>
    unfold tunnelServe
    extract_lets bs keep hd m total e t
    have hk (l : List Byte) {t : State} (ht : Inv t) : Inv (keep l t) := modPort_inv .tunnel (f := fun q => { q with tunBytes := l }) (fun _ hx => hx) ht
    have ht : Inv t := tunnelHeader_inv _ h
    clear_value keep t e
    exact Inv.ite (hk _ h) (Inv.ite (ih (countBadHeader_inv _ (hk _ h))) (Inv.ite (hk _ ht) (ih (tunnelBody_inv _ _ (hk _ ht)))))

theorem execCanFrameReceive_inv (x : Fin 3) (f : CanFrame) {s : State} (hI : Inv s) : InvR (execCanFrameReceive x f s) := by
  unfold execCanFrameReceive
  try extract_lets
  repeat' first
    | with_reducible assumption
    | with_reducible refine InvR.next ?_
    | with_reducible refine InvR.ite ?_ ?_
    | with_reducible refine Inv.ite ?_ ?_
    | (guard_target = Inv (canFrameReceive ..); with_reducible apply canFrameReceive_inv)
    | (guard_target = Inv (tunnelServe ..); with_reducible apply tunnelServe_inv)

theorem execSysNop_inv (e : Env) {s : State} (hI : Inv s) : InvR (execSysNop e s) := by
  unfold execSysNop
  try extract_lets
  repeat' first
    | with_reducible assumption
    | with_reducible refine InvR.next ?_
    | with_reducible refine InvR.ite ?_ ?_
    | with_reducible refine Inv.ite ?_ ?_
    | (guard_target = Inv (receive ..); with_reducible apply receive_inv)

theorem execSysStatus_inv (e : Env) {s : State} (hI : Inv s) : InvR (execSysStatus e s) := by
  unfold execSysStatus
  try extract_lets
  repeat' first
    | with_reducible assumption
    | with_reducible refine InvR.next ?_
    | with_reducible refine InvR.ite ?_ ?_
    | with_reducible refine Inv.ite ?_ ?_
    | (guard_target = Inv (receive ..); with_reducible apply receive_inv)

theorem execSysIdentity_inv (e : Env) {s : State} (hI : Inv s) : InvR (execSysIdentity e s) := by
  unfold execSysIdentity
  try extract_lets
  repeat' first
    | with_reducible assumption
    | with_reducible refine InvR.next ?_
    | with_reducible refine InvR.ite ?_ ?_
    | with_reducible refine Inv.ite ?_ ?_
    | (guard_target = Inv (receive ..); with_reducible apply receive_inv)

theorem execSysLinkReset_inv (e : Env) {s : State} (hI : Inv s) : InvR (execSysLinkReset e s) := by
  unfold execSysLinkReset
  try extract_lets
  repeat' first
    | with_reducible assumption
    | with_reducible refine InvR.next ?_
    | with_reducible refine InvR.ite ?_ ?_
    | with_reducible refine Inv.ite ?_ ?_
    | (guard_target = Inv (receive ..); with_reducible apply receive_inv)

theorem execSysArm_inv (e : Env) {s : State} (hI : Inv s) : InvR (execSysArm e s) := by
  unfold execSysArm
  try extract_lets
  repeat' first
    | with_reducible assumption
    | with_reducible refine InvR.next ?_
    | with_reducible refine InvR.ite ?_ ?_
    | with_reducible refine Inv.ite ?_ ?_
    | (guard_target = Inv (receive ..); with_reducible apply receive_inv)

theorem execSysManual_inv (e : Env) {s : State} (hI : Inv s) : InvR (execSysManual e s) := by
  unfold execSysManual
  try extract_lets
  repeat' first
    | with_reducible assumption
    | with_reducible refine InvR.next ?_
    | with_reducible refine InvR.ite ?_ ?_
    | with_reducible refine Inv.ite ?_ ?_
    | (guard_target = Inv (receive ..); with_reducible apply receive_inv)

theorem execSysDisarm_inv (e : Env) {s : State} (hI : Inv s) : InvR (execSysDisarm e s) := by
  unfold execSysDisarm
  try extract_lets
  repeat' first
    | with_reducible assumption
    | with_reducible refine InvR.next ?_
    | with_reducible refine InvR.ite ?_ ?_
    | with_reducible refine Inv.ite ?_ ?_
    | (guard_target = Inv (receive ..); with_reducible apply receive_inv)

theorem execSysClearFault_inv (e : Env) {s : State} (hI : Inv s) : InvR (execSysClearFault e s) := by
  unfold execSysClearFault
  try extract_lets
  repeat' first
    | with_reducible assumption
    | with_reducible refine InvR.next ?_
    | with_reducible refine InvR.ite ?_ ?_
    | with_reducible refine Inv.ite ?_ ?_
    | (guard_target = Inv (receive ..); with_reducible apply receive_inv)

theorem execSysReset_inv (e : Env) {s : State} (hI : Inv s) : InvR (execSysReset e s) := by
  unfold execSysReset
  try extract_lets
  repeat' first
    | with_reducible assumption
    | with_reducible refine InvR.next ?_
    | with_reducible refine InvR.ite ?_ ?_
    | with_reducible refine Inv.ite ?_ ?_
    | (guard_target = Inv (receive ..); with_reducible apply receive_inv)

theorem execSysSubscribe_inv (e : Env) {s : State} (hI : Inv s) : InvR (execSysSubscribe e s) := by
  unfold execSysSubscribe
  try extract_lets
  repeat' first
    | with_reducible assumption
    | with_reducible refine InvR.next ?_
    | with_reducible refine InvR.ite ?_ ?_
    | with_reducible refine Inv.ite ?_ ?_
    | (guard_target = Inv (receive ..); with_reducible apply receive_inv)

theorem execSysWakeSet_inv (e : Env) {s : State} (hI : Inv s) : InvR (execSysWakeSet e s) := by
  unfold execSysWakeSet
  try extract_lets
  repeat' first
    | with_reducible assumption
    | with_reducible refine InvR.next ?_
    | with_reducible refine InvR.ite ?_ ?_
    | with_reducible refine Inv.ite ?_ ?_
    | (guard_target = Inv (receive ..); with_reducible apply receive_inv)

theorem execPbRead_inv (e : Env) {s : State} (hI : Inv s) : InvR (execPbRead e s) := by
  unfold execPbRead
  try extract_lets
  repeat' first
    | with_reducible assumption
    | with_reducible refine InvR.next ?_
    | with_reducible refine InvR.ite ?_ ?_
    | with_reducible refine Inv.ite ?_ ?_
    | (guard_target = Inv (receive ..); with_reducible apply receive_inv)

theorem execPbWrite_inv (e : Env) {s : State} (hI : Inv s) : InvR (execPbWrite e s) := by
  unfold execPbWrite
  try extract_lets
  repeat' first
    | with_reducible assumption
    | with_reducible refine InvR.next ?_
    | with_reducible refine InvR.ite ?_ ?_
    | with_reducible refine Inv.ite ?_ ?_
    | (guard_target = Inv (receive ..); with_reducible apply receive_inv)

theorem execPbCommit_inv (e : Env) {s : State} (hI : Inv s) : InvR (execPbCommit e s) := by
  unfold execPbCommit
  try extract_lets
  repeat' first
    | with_reducible assumption
    | with_reducible refine InvR.next ?_
    | with_reducible refine InvR.ite ?_ ?_
    | with_reducible refine Inv.ite ?_ ?_
    | (guard_target = Inv (receive ..); with_reducible apply receive_inv)

theorem execPbRevert_inv (e : Env) {s : State} (hI : Inv s) : InvR (execPbRevert e s) := by
  unfold execPbRevert
  try extract_lets
  repeat' first
    | with_reducible assumption
    | with_reducible refine InvR.next ?_
    | with_reducible refine InvR.ite ?_ ?_
    | with_reducible refine Inv.ite ?_ ?_
    | (guard_target = Inv (receive ..); with_reducible apply receive_inv)

theorem execImplWrite_inv (e : Env) {s : State} (hI : Inv s) : InvR (execImplWrite e s) := by
  unfold execImplWrite
  try extract_lets
  repeat' first
    | with_reducible assumption
    | with_reducible refine InvR.next ?_
    | with_reducible refine InvR.ite ?_ ?_
    | with_reducible refine Inv.ite ?_ ?_
    | (guard_target = Inv (receive ..); with_reducible apply receive_inv)

theorem execImplRead_inv (e : Env) {s : State} (hI : Inv s) : InvR (execImplRead e s) := by
  unfold execImplRead
  try extract_lets
  repeat' first
    | with_reducible assumption
    | with_reducible refine InvR.next ?_
    | with_reducible refine InvR.ite ?_ ?_
    | with_reducible refine Inv.ite ?_ ?_
    | (guard_target = Inv (receive ..); with_reducible apply receive_inv)

theorem execImplCommit_inv (e : Env) {s : State} (hI : Inv s) : InvR (execImplCommit e s) := by
  unfold execImplCommit
  try extract_lets
  repeat' first
    | with_reducible assumption
    | with_reducible refine InvR.next ?_
    | with_reducible refine InvR.ite ?_ ?_
    | with_reducible refine Inv.ite ?_ ?_
    | (guard_target = Inv (receive ..); with_reducible apply receive_inv)

theorem execImplRevert_inv (e : Env) {s : State} (hI : Inv s) : InvR (execImplRevert e s) := by
  unfold execImplRevert
  try extract_lets
  repeat' first
    | with_reducible assumption
    | with_reducible refine InvR.next ?_
    | with_reducible refine InvR.ite ?_ ?_
    | with_reducible refine Inv.ite ?_ ?_
    | (guard_target = Inv (receive ..); with_reducible apply receive_inv)

theorem execMapStatus_inv (e : Env) {s : State} (hI : Inv s) : InvR (execMapStatus e s) := by
  unfold execMapStatus
  try extract_lets
  repeat' first
    | with_reducible assumption
    | with_reducible refine InvR.next ?_
    | with_reducible refine InvR.ite ?_ ?_
    | with_reducible refine Inv.ite ?_ ?_
    | (guard_target = Inv (receive ..); with_reducible apply receive_inv)

theorem execMapLoadBegin_inv (e : Env) {s : State} (hI : Inv s) : InvR (execMapLoadBegin e s) := by
  unfold execMapLoadBegin
  try extract_lets
  repeat' first
    | with_reducible assumption
    | with_reducible refine InvR.next ?_
    | with_reducible refine InvR.ite ?_ ?_
    | with_reducible refine Inv.ite ?_ ?_
    | (guard_target = Inv (receive ..); with_reducible apply receive_inv)

theorem execMapLoadData_inv (e : Env) {s : State} (hI : Inv s) : InvR (execMapLoadData e s) := by
  unfold execMapLoadData
  try extract_lets
  repeat' first
    | with_reducible assumption
    | with_reducible refine InvR.next ?_
    | with_reducible refine InvR.ite ?_ ?_
    | with_reducible refine Inv.ite ?_ ?_
    | (guard_target = Inv (receive ..); with_reducible apply receive_inv)

theorem execMapLoadEnd_inv (e : Env) {s : State} (hI : Inv s) : InvR (execMapLoadEnd e s) := by
  unfold execMapLoadEnd
  try extract_lets
  repeat' first
    | with_reducible assumption
    | with_reducible refine InvR.next ?_
    | with_reducible refine InvR.ite ?_ ?_
    | with_reducible refine Inv.ite ?_ ?_
    | (guard_target = Inv (receive ..); with_reducible apply receive_inv)

theorem execMapLoadAbort_inv (e : Env) {s : State} (hI : Inv s) : InvR (execMapLoadAbort e s) := by
  unfold execMapLoadAbort
  try extract_lets
  repeat' first
    | with_reducible assumption
    | with_reducible refine InvR.next ?_
    | with_reducible refine InvR.ite ?_ ?_
    | with_reducible refine Inv.ite ?_ ?_
    | (guard_target = Inv (receive ..); with_reducible apply receive_inv)

theorem execMapExportBegin_inv (e : Env) {s : State} (hI : Inv s) : InvR (execMapExportBegin e s) := by
  unfold execMapExportBegin
  try extract_lets
  repeat' first
    | with_reducible assumption
    | with_reducible refine InvR.next ?_
    | with_reducible refine InvR.ite ?_ ?_
    | with_reducible refine Inv.ite ?_ ?_
    | (guard_target = Inv (receive ..); with_reducible apply receive_inv)

theorem execMapExportRead_inv (e : Env) {s : State} (hI : Inv s) : InvR (execMapExportRead e s) := by
  unfold execMapExportRead
  try extract_lets
  repeat' first
    | with_reducible assumption
    | with_reducible refine InvR.next ?_
    | with_reducible refine InvR.ite ?_ ?_
    | with_reducible refine Inv.ite ?_ ?_
    | (guard_target = Inv (receive ..); with_reducible apply receive_inv)

theorem execMapExportAck_inv (e : Env) {s : State} (hI : Inv s) : InvR (execMapExportAck e s) := by
  unfold execMapExportAck
  try extract_lets
  repeat' first
    | with_reducible assumption
    | with_reducible refine InvR.next ?_
    | with_reducible refine InvR.ite ?_ ?_
    | with_reducible refine Inv.ite ?_ ?_
    | (guard_target = Inv (receive ..); with_reducible apply receive_inv)

theorem execMapClear_inv (e : Env) {s : State} (hI : Inv s) : InvR (execMapClear e s) := by
  unfold execMapClear
  try extract_lets
  repeat' first
    | with_reducible assumption
    | with_reducible refine InvR.next ?_
    | with_reducible refine InvR.ite ?_ ?_
    | with_reducible refine Inv.ite ?_ ?_
    | (guard_target = Inv (receive ..); with_reducible apply receive_inv)

theorem execMapLogRead_inv (e : Env) {s : State} (hI : Inv s) : InvR (execMapLogRead e s) := by
  unfold execMapLogRead
  try extract_lets
  repeat' first
    | with_reducible assumption
    | with_reducible refine InvR.next ?_
    | with_reducible refine InvR.ite ?_ ?_
    | with_reducible refine Inv.ite ?_ ?_
    | (guard_target = Inv (receive ..); with_reducible apply receive_inv)

theorem execMapLogAck_inv (e : Env) {s : State} (hI : Inv s) : InvR (execMapLogAck e s) := by
  unfold execMapLogAck
  try extract_lets
  repeat' first
    | with_reducible assumption
    | with_reducible refine InvR.next ?_
    | with_reducible refine InvR.ite ?_ ?_
    | with_reducible refine Inv.ite ?_ ?_
    | (guard_target = Inv (receive ..); with_reducible apply receive_inv)

theorem execFeDirected_inv (e : Env) {s : State} (hI : Inv s) : InvR (execFeDirected e s) := by
  unfold execFeDirected
  try extract_lets
  repeat' first
    | with_reducible assumption
    | with_reducible refine InvR.next ?_
    | with_reducible refine InvR.ite ?_ ?_
    | with_reducible refine Inv.ite ?_ ?_
    | (guard_target = Inv (receive ..); with_reducible apply receive_inv)

theorem execFeDirectedClear_inv (e : Env) {s : State} (hI : Inv s) : InvR (execFeDirectedClear e s) := by
  unfold execFeDirectedClear
  try extract_lets
  repeat' first
    | with_reducible assumption
    | with_reducible refine InvR.next ?_
    | with_reducible refine InvR.ite ?_ ?_
    | with_reducible refine Inv.ite ?_ ?_
    | (guard_target = Inv (receive ..); with_reducible apply receive_inv)

theorem execActEvent_inv (e : Env) {s : State} (hI : Inv s) : InvR (execActEvent e s) := by
  unfold execActEvent
  try extract_lets
  repeat' first
    | with_reducible assumption
    | with_reducible refine InvR.next ?_
    | with_reducible refine InvR.ite ?_ ?_
    | with_reducible refine Inv.ite ?_ ?_
    | (guard_target = Inv (receive ..); with_reducible apply receive_inv)

theorem execActDuty_inv (e : Env) {s : State} (hI : Inv s) : InvR (execActDuty e s) := by
  unfold execActDuty
  try extract_lets
  repeat' first
    | with_reducible assumption
    | with_reducible refine InvR.next ?_
    | with_reducible refine InvR.ite ?_ ?_
    | with_reducible refine Inv.ite ?_ ?_
    | (guard_target = Inv (receive ..); with_reducible apply receive_inv)

theorem execActFineCmp_inv (e : Env) {s : State} (hI : Inv s) : InvR (execActFineCmp e s) := by
  unfold execActFineCmp
  try extract_lets
  repeat' first
    | with_reducible assumption
    | with_reducible refine InvR.next ?_
    | with_reducible refine InvR.ite ?_ ?_
    | with_reducible refine Inv.ite ?_ ?_
    | (guard_target = Inv (receive ..); with_reducible apply receive_inv)

theorem execActClearFault_inv (e : Env) {s : State} (hI : Inv s) : InvR (execActClearFault e s) := by
  unfold execActClearFault
  try extract_lets
  repeat' first
    | with_reducible assumption
    | with_reducible refine InvR.next ?_
    | with_reducible refine InvR.ite ?_ ?_
    | with_reducible refine Inv.ite ?_ ?_
    | (guard_target = Inv (receive ..); with_reducible apply receive_inv)

theorem execCeSetpoint_inv (e : Env) {s : State} (hI : Inv s) : InvR (execCeSetpoint e s) := by
  unfold execCeSetpoint
  try extract_lets
  repeat' first
    | with_reducible assumption
    | with_reducible refine InvR.next ?_
    | with_reducible refine InvR.ite ?_ ?_
    | with_reducible refine Inv.ite ?_ ?_
    | (guard_target = Inv (receive ..); with_reducible apply receive_inv)

theorem execCeOutput_inv (e : Env) {s : State} (hI : Inv s) : InvR (execCeOutput e s) := by
  unfold execCeOutput
  try extract_lets
  repeat' first
    | with_reducible assumption
    | with_reducible refine InvR.next ?_
    | with_reducible refine InvR.ite ?_ ?_
    | with_reducible refine Inv.ite ?_ ?_
    | (guard_target = Inv (receive ..); with_reducible apply receive_inv)

theorem execCeTableWrite_inv (e : Env) {s : State} (hI : Inv s) : InvR (execCeTableWrite e s) := by
  unfold execCeTableWrite
  try extract_lets
  repeat' first
    | with_reducible assumption
    | with_reducible refine InvR.next ?_
    | with_reducible refine InvR.ite ?_ ?_
    | with_reducible refine Inv.ite ?_ ?_
    | (guard_target = Inv (receive ..); with_reducible apply receive_inv)

theorem execCeTableRead_inv (e : Env) {s : State} (hI : Inv s) : InvR (execCeTableRead e s) := by
  unfold execCeTableRead
  try extract_lets
  repeat' first
    | with_reducible assumption
    | with_reducible refine InvR.next ?_
    | with_reducible refine InvR.ite ?_ ?_
    | with_reducible refine Inv.ite ?_ ?_
    | (guard_target = Inv (receive ..); with_reducible apply receive_inv)

theorem execCeLoopReset_inv (e : Env) {s : State} (hI : Inv s) : InvR (execCeLoopReset e s) := by
  unfold execCeLoopReset
  try extract_lets
  repeat' first
    | with_reducible assumption
    | with_reducible refine InvR.next ?_
    | with_reducible refine InvR.ite ?_ ?_
    | with_reducible refine Inv.ite ?_ ?_
    | (guard_target = Inv (receive ..); with_reducible apply receive_inv)

theorem execTimeGet_inv (e : Env) {s : State} (hI : Inv s) : InvR (execTimeGet e s) := by
  unfold execTimeGet
  try extract_lets
  repeat' first
    | with_reducible assumption
    | with_reducible refine InvR.next ?_
    | with_reducible refine InvR.ite ?_ ?_
    | with_reducible refine Inv.ite ?_ ?_
    | (guard_target = Inv (receive ..); with_reducible apply receive_inv)

theorem execTimeStepConfirm_inv (e : Env) {s : State} (hI : Inv s) : InvR (execTimeStepConfirm e s) := by
  unfold execTimeStepConfirm
  try extract_lets
  repeat' first
    | with_reducible assumption
    | with_reducible refine InvR.next ?_
    | with_reducible refine InvR.ite ?_ ?_
    | with_reducible refine Inv.ite ?_ ?_
    | (guard_target = Inv (receive ..); with_reducible apply receive_inv)

theorem execGnssRtcm_inv (e : Env) {s : State} (hI : Inv s) : InvR (execGnssRtcm e s) := by
  unfold execGnssRtcm
  try extract_lets
  repeat' first
    | with_reducible assumption
    | with_reducible refine InvR.next ?_
    | with_reducible refine InvR.ite ?_ ?_
    | with_reducible refine Inv.ite ?_ ?_
    | (guard_target = Inv (receive ..); with_reducible apply receive_inv)

theorem execGnssMeasGet_inv (e : Env) {s : State} (hI : Inv s) : InvR (execGnssMeasGet e s) := by
  unfold execGnssMeasGet
  try extract_lets
  repeat' first
    | with_reducible assumption
    | with_reducible refine InvR.next ?_
    | with_reducible refine InvR.ite ?_ ?_
    | with_reducible refine Inv.ite ?_ ?_
    | (guard_target = Inv (receive ..); with_reducible apply receive_inv)

theorem execPosGet_inv (e : Env) {s : State} (hI : Inv s) : InvR (execPosGet e s) := by
  unfold execPosGet
  try extract_lets
  repeat' first
    | with_reducible assumption
    | with_reducible refine InvR.next ?_
    | with_reducible refine InvR.ite ?_ ?_
    | with_reducible refine Inv.ite ?_ ?_
    | (guard_target = Inv (receive ..); with_reducible apply receive_inv)

theorem execLswSet_inv (e : Env) {s : State} (hI : Inv s) : InvR (execLswSet e s) := by
  unfold execLswSet
  try extract_lets
  repeat' first
    | with_reducible assumption
    | with_reducible refine InvR.next ?_
    | with_reducible refine InvR.ite ?_ ?_
    | with_reducible refine Inv.ite ?_ ?_
    | (guard_target = Inv (receive ..); with_reducible apply receive_inv)

theorem execLswClearFault_inv (e : Env) {s : State} (hI : Inv s) : InvR (execLswClearFault e s) := by
  unfold execLswClearFault
  try extract_lets
  repeat' first
    | with_reducible assumption
    | with_reducible refine InvR.next ?_
    | with_reducible refine InvR.ite ?_ ?_
    | with_reducible refine Inv.ite ?_ ?_
    | (guard_target = Inv (receive ..); with_reducible apply receive_inv)

theorem execPifEncSet_inv (e : Env) {s : State} (hI : Inv s) : InvR (execPifEncSet e s) := by
  unfold execPifEncSet
  try extract_lets
  repeat' first
    | with_reducible assumption
    | with_reducible refine InvR.next ?_
    | with_reducible refine InvR.ite ?_ ?_
    | with_reducible refine Inv.ite ?_ ?_
    | (guard_target = Inv (receive ..); with_reducible apply receive_inv)

theorem execPifEventsRead_inv (e : Env) {s : State} (hI : Inv s) : InvR (execPifEventsRead e s) := by
  unfold execPifEventsRead
  try extract_lets
  repeat' first
    | with_reducible assumption
    | with_reducible refine InvR.next ?_
    | with_reducible refine InvR.ite ?_ ?_
    | with_reducible refine Inv.ite ?_ ?_
    | (guard_target = Inv (receive ..); with_reducible apply receive_inv)

theorem execCanPhConfig_inv (e : Env) {s : State} (hI : Inv s) : InvR (execCanPhConfig e s) := by
  unfold execCanPhConfig
  try extract_lets
  repeat' first
    | with_reducible assumption
    | with_reducible refine InvR.next ?_
    | with_reducible refine InvR.ite ?_ ?_
    | with_reducible refine Inv.ite ?_ ?_
    | (guard_target = Inv (receive ..); with_reducible apply receive_inv)

theorem execCanRxRead_inv (e : Env) {s : State} (hI : Inv s) : InvR (execCanRxRead e s) := by
  unfold execCanRxRead
  try extract_lets
  repeat' first
    | with_reducible assumption
    | with_reducible refine InvR.next ?_
    | with_reducible refine InvR.ite ?_ ?_
    | with_reducible refine Inv.ite ?_ ?_
    | (guard_target = Inv (receive ..); with_reducible apply receive_inv)

theorem execCanTx_inv (e : Env) {s : State} (hI : Inv s) : InvR (execCanTx e s) := by
  unfold execCanTx
  try extract_lets
  repeat' first
    | with_reducible assumption
    | with_reducible refine InvR.next ?_
    | with_reducible refine InvR.ite ?_ ?_
    | with_reducible refine Inv.ite ?_ ?_
    | (guard_target = Inv (receive ..); with_reducible apply receive_inv)

theorem execCanTxAbort_inv (e : Env) {s : State} (hI : Inv s) : InvR (execCanTxAbort e s) := by
  unfold execCanTxAbort
  try extract_lets
  repeat' first
    | with_reducible assumption
    | with_reducible refine InvR.next ?_
    | with_reducible refine InvR.ite ?_ ?_
    | with_reducible refine Inv.ite ?_ ?_
    | (guard_target = Inv (receive ..); with_reducible apply receive_inv)

theorem execCanRecover_inv (e : Env) {s : State} (hI : Inv s) : InvR (execCanRecover e s) := by
  unfold execCanRecover
  try extract_lets
  repeat' first
    | with_reducible assumption
    | with_reducible refine InvR.next ?_
    | with_reducible refine InvR.ite ?_ ?_
    | with_reducible refine Inv.ite ?_ ?_
    | (guard_target = Inv (receive ..); with_reducible apply receive_inv)

theorem execSecSessionOpen_inv (e : Env) {s : State} (hI : Inv s) : InvR (execSecSessionOpen e s) := by
  unfold execSecSessionOpen
  try extract_lets
  repeat' first
    | with_reducible assumption
    | with_reducible refine InvR.next ?_
    | with_reducible refine InvR.ite ?_ ?_
    | with_reducible refine Inv.ite ?_ ?_
    | (guard_target = Inv (receive ..); with_reducible apply receive_inv)

theorem execSecSessionClose_inv (e : Env) {s : State} (hI : Inv s) : InvR (execSecSessionClose e s) := by
  unfold execSecSessionClose
  try extract_lets
  repeat' first
    | with_reducible assumption
    | with_reducible refine InvR.next ?_
    | with_reducible refine InvR.ite ?_ ?_
    | with_reducible refine Inv.ite ?_ ?_
    | (guard_target = Inv (receive ..); with_reducible apply receive_inv)

theorem execSecServiceChallenge_inv (e : Env) {s : State} (hI : Inv s) : InvR (execSecServiceChallenge e s) := by
  unfold execSecServiceChallenge
  try extract_lets
  repeat' first
    | with_reducible assumption
    | with_reducible refine InvR.next ?_
    | with_reducible refine InvR.ite ?_ ?_
    | with_reducible refine Inv.ite ?_ ?_
    | (guard_target = Inv (receive ..); with_reducible apply receive_inv)

theorem execSecServiceResponse_inv (e : Env) {s : State} (hI : Inv s) : InvR (execSecServiceResponse e s) := by
  unfold execSecServiceResponse
  try extract_lets
  repeat' first
    | with_reducible assumption
    | with_reducible refine InvR.next ?_
    | with_reducible refine InvR.ite ?_ ?_
    | with_reducible refine Inv.ite ?_ ?_
    | (guard_target = Inv (receive ..); with_reducible apply receive_inv)

theorem execSecAttest_inv (e : Env) {s : State} (hI : Inv s) : InvR (execSecAttest e s) := by
  unfold execSecAttest
  try extract_lets
  repeat' first
    | with_reducible assumption
    | with_reducible refine InvR.next ?_
    | with_reducible refine InvR.ite ?_ ?_
    | with_reducible refine Inv.ite ?_ ?_
    | (guard_target = Inv (receive ..); with_reducible apply receive_inv)

theorem execSecImageBegin_inv (e : Env) {s : State} (hI : Inv s) : InvR (execSecImageBegin e s) := by
  unfold execSecImageBegin
  try extract_lets
  repeat' first
    | with_reducible assumption
    | with_reducible refine InvR.next ?_
    | with_reducible refine InvR.ite ?_ ?_
    | with_reducible refine Inv.ite ?_ ?_
    | (guard_target = Inv (receive ..); with_reducible apply receive_inv)

theorem execSecImageData_inv (e : Env) {s : State} (hI : Inv s) : InvR (execSecImageData e s) := by
  unfold execSecImageData
  try extract_lets
  repeat' first
    | with_reducible assumption
    | with_reducible refine InvR.next ?_
    | with_reducible refine InvR.ite ?_ ?_
    | with_reducible refine Inv.ite ?_ ?_
    | (guard_target = Inv (receive ..); with_reducible apply receive_inv)

theorem execSecImageEnd_inv (e : Env) {s : State} (hI : Inv s) : InvR (execSecImageEnd e s) := by
  unfold execSecImageEnd
  try extract_lets
  repeat' first
    | with_reducible assumption
    | with_reducible refine InvR.next ?_
    | with_reducible refine InvR.ite ?_ ?_
    | with_reducible refine Inv.ite ?_ ?_
    | (guard_target = Inv (receive ..); with_reducible apply receive_inv)

theorem execSecActivate_inv (e : Env) {s : State} (hI : Inv s) : InvR (execSecActivate e s) := by
  unfold execSecActivate
  try extract_lets
  repeat' first
    | with_reducible assumption
    | with_reducible refine InvR.next ?_
    | with_reducible refine InvR.ite ?_ ?_
    | with_reducible refine Inv.ite ?_ ?_
    | (guard_target = Inv (receive ..); with_reducible apply receive_inv)

theorem execSecImageStatus_inv (e : Env) {s : State} (hI : Inv s) : InvR (execSecImageStatus e s) := by
  unfold execSecImageStatus
  try extract_lets
  repeat' first
    | with_reducible assumption
    | with_reducible refine InvR.next ?_
    | with_reducible refine InvR.ite ?_ ?_
    | with_reducible refine Inv.ite ?_ ?_
    | (guard_target = Inv (receive ..); with_reducible apply receive_inv)

theorem execDiagRead_inv (e : Env) {s : State} (hI : Inv s) : InvR (execDiagRead e s) := by
  unfold execDiagRead
  try extract_lets
  repeat' first
    | with_reducible assumption
    | with_reducible refine InvR.next ?_
    | with_reducible refine InvR.ite ?_ ?_
    | with_reducible refine Inv.ite ?_ ?_
    | (guard_target = Inv (receive ..); with_reducible apply receive_inv)

theorem execBadOpcode_inv (op : BitVec 16) (e : Env) {s : State} (hI : Inv s) : InvR (execBadOpcode op e s) := by
  unfold execBadOpcode
  try extract_lets
  repeat' first
    | with_reducible assumption
    | with_reducible refine InvR.next ?_
    | with_reducible refine InvR.ite ?_ ?_
    | with_reducible refine Inv.ite ?_ ?_
    | (guard_target = Inv (receive ..); with_reducible apply receive_inv)

end Sys2Proof.Machine
end

