-- ==== Sys2Proof/Laws/FrameInv.lean ====
section
/-! SUPPORT. What the operations of Machine/Frame.lean keep: the invariant `Inv`. -/

set_option Elab.async false

namespace Sys2Proof.Machine

theorem cancelNote_inv (i : EdgeItem) {s : State} (hI : Inv s) : Inv (cancelNote i s) := by
  unfold cancelNote
  try extract_lets
  repeat' first
    | with_reducible assumption
    | with_reducible refine Inv.ite ?_ ?_
    | (guard_target = Inv (noticeNow ..); with_reducible apply noticeNow_inv)

theorem ifAllowed_inv (ok : Bool) (i : EdgeItem) {f : State → State} {s : State} (hs : Inv s) (hf : Inv (f s)) :
    Inv (ifAllowed ok i f s) := Inv.ite hf (cancelNote_inv _ hs)

theorem applyEdge_inv (i : EdgeItem) {s : State} (hI : Inv s) : Inv (applyEdge i s) := by
  unfold applyEdge
  try extract_lets
  repeat' first
    | with_reducible assumption
    | with_reducible refine Inv.ite ?_ ?_
    | (guard_target = Inv (applyClear ..); with_reducible apply applyClear_inv)
    | (guard_target = Inv (applyCommit ..); with_reducible apply applyCommit_inv)
    | (guard_target = Inv (applyEncSet ..); with_reducible refine Inv.ofOnly ?_ (applyEncSet_only ..))
    | (guard_target = Inv (applyFilter ..); with_reducible refine Inv.ofOnly ?_ (applyFilter_only ..))
    | (guard_target = Inv (applyImpl ..); with_reducible apply applyImpl_inv)
    | (guard_target = Inv (applyImport ..); with_reducible apply applyImport_inv)
    | (guard_target = Inv (applyLoopReset ..); with_reducible apply applyLoopReset_inv)
    | (guard_target = Inv (applyLswResume ..); with_reducible apply applyLswResume_inv)
    | (guard_target = Inv (applyLswSet ..); with_reducible apply applyLswSet_inv)
    | (guard_target = Inv (applySubscribe ..); with_reducible apply applySubscribe_inv)
    | (guard_target = Inv (commitPhases ..); with_reducible apply commitPhases_inv)
    | (guard_target = Inv (enterArmed ..); with_reducible apply enterArmed_inv)
    | (guard_target = Inv (enterManual ..); with_reducible apply enterManual_inv)
    | (guard_target = Inv (enterStandby ..); with_reducible apply enterStandby_inv)
    | (guard_target = Inv (fixExport ..); with_reducible apply fixExport_inv)
    | (guard_target = Inv (ifAllowed ..); with_reducible apply ifAllowed_inv)
    | (guard_target = Inv (modLoop ..); with_reducible refine Inv.ofOnly ?_ (modLoop_only ..))
    | (guard_target = Inv (writeDuty ..); with_reducible refine Inv.ofOnly ?_ (writeDuty_only ..))
    | extract_lets
    | dsimp only
    | split

theorem applyEdges_inv (e : Tick) (n : Nat) {s : State} (h : Inv s) : Inv (applyEdges e n s) := by
  induction n generalizing s with
  | zero => exact h
  | succ n ih =>
    unfold applyEdges
    split
    · exact h
    · exact ih (applyEdge_inv _ (h.ofOnly (State.onSys_only _ _)))

theorem switchImage_inv (e : Tick) (i : Fin 5) {s : State} (hI : Inv s) : Inv (switchImage e i s) := by
  unfold switchImage
  try extract_lets
  repeat' first
    | with_reducible assumption
    | with_reducible refine Inv.ite ?_ ?_
    | (guard_target = Inv (extend ..); with_reducible refine Inv.ofOnly ?_ (extend_only ..))
    | (guard_target = Inv (modImage ..); with_reducible refine Inv.ofOnly ?_ (modImage_only ..))
    | (guard_target = Inv (State.onPd0 ..); refine Inv.onPd0 ?_ fun _ h => h)
    | (guard_target = Inv (State.onPd0 ..); refine Inv.onPd0 ?_ fun d hd => by simp only [List.length_map, List.length_take, List.length_cons]; omega)
    | (guard_target = Inv (State.onGnss ..); with_reducible refine Inv.ofOnly ?_ (State.onGnss_only ..))
    | extract_lets
    | dsimp only
    | split
    | dsimp +zetaDelta only

theorem commandRestart_inv (el : Element) {s : State} (hI : Inv s) : Inv (commandRestart el s) := by
  unfold commandRestart
  try extract_lets
  repeat' first
    | with_reducible assumption
    | with_reducible refine Inv.ite ?_ ?_
    | (guard_target = Inv (flushCrossing ..); with_reducible apply flushCrossing_inv)
    | (guard_target = Inv (modElem ..); with_reducible refine Inv.ofOnly ?_ (modElem_only ..))
    | (guard_target = Inv (resetElement ..); with_reducible refine Inv.ofOnly ?_ (resetElement_only ..))

theorem restartInCoast_inv (el : Element) {s : State} (hI : Inv s) : Inv (restartInCoast el s) := by
  unfold restartInCoast
  try extract_lets
  repeat' first
    | with_reducible assumption
    | with_reducible refine Inv.ite ?_ ?_
    | (guard_target = Inv (commandRestart ..); with_reducible apply commandRestart_inv)
    | (guard_target = Inv (enterCoast ..); with_reducible apply enterCoast_inv)

theorem switchElement_inv (i : Fin 5) {s : State} (hI : Inv s) : Inv (switchElement i s) := by
  unfold switchElement
  try extract_lets
  repeat' first
    | with_reducible assumption
    | with_reducible refine Inv.ite ?_ ?_
    | (guard_target = Inv (flushCrossing ..); with_reducible apply flushCrossing_inv)
    | (guard_target = Inv (modElem ..); with_reducible refine Inv.ofOnly ?_ (modElem_only ..))
    | (guard_target = Inv (resetElement ..); with_reducible refine Inv.ofOnly ?_ (resetElement_only ..))
    | (guard_target = Inv (restartInCoast ..); with_reducible apply restartInCoast_inv)
    | (guard_target = Inv (restartLoops ..); with_reducible refine Inv.ofOnly ?_ (restartLoops_only ..))
    | extract_lets
    | dsimp only
    | split

theorem activationEdge_inv (e : Tick) {s : State} (hI : Inv s) : Inv (activationEdge e s) := by
  unfold activationEdge
  try extract_lets
  repeat' first
    | with_reducible assumption
    | with_reducible refine Inv.ite ?_ ?_
    | (guard_target = Inv (switchElement ..); with_reducible apply switchElement_inv)
    | (guard_target = Inv (switchImage ..); with_reducible apply switchImage_inv)
    | (guard_target = Inv (State.onSec ..); with_reducible refine Inv.ofOnly ?_ (State.onSec_only ..))
    | with_reducible refine Inv.foldl (fun _ _ _ => ?_) ?_
    | with_reducible refine Inv.foldlFst (fun _ _ _ _ => ?_) ?_
    | extract_lets
    | dsimp only
    | split

theorem activationDone_inv  {s : State} (hI : Inv s) : Inv (activationDone s) := by
  unfold activationDone
  try extract_lets
  repeat' first
    | with_reducible assumption
    | with_reducible refine Inv.ite ?_ ?_
    | (guard_target = Inv (noticeAt ..); with_reducible apply noticeAt_inv)
    | (guard_target = Inv (State.onSec ..); with_reducible refine Inv.ofOnly ?_ (State.onSec_only ..))
    | extract_lets
    | dsimp only
    | split

theorem edgeStates_inv (e : Tick) {s : State} (hI : Inv s) : Inv (edgeStates e s) := by
  unfold edgeStates
  try extract_lets
  repeat' first
    | with_reducible assumption
    | with_reducible refine Inv.ite ?_ ?_
    | (guard_target = Inv (applyEdges ..); with_reducible apply applyEdges_inv)
    | (guard_target = Inv (cleanFrames ..); with_reducible apply cleanFrames_inv)
    | (guard_target = Inv (coastReturn ..); with_reducible apply coastReturn_inv)
    | (guard_target = Inv (groundAtEdge ..); with_reducible apply groundAtEdge_inv)
    | (guard_target = Inv (quarantineAtEdge ..); with_reducible apply quarantineAtEdge_inv)
    | (guard_target = Inv (safeInAtEdge ..); with_reducible apply safeInAtEdge_inv)
    | (guard_target = Inv (vkeyAtEdge ..); with_reducible apply vkeyAtEdge_inv)

theorem maskEdge_inv {s : State} (hI : Inv s) : Inv (maskEdge s) := by
  unfold maskEdge
  refine noteRetired_inv _ (Inv.onMap hI fun m hm => ?_)
  split <;> exact hm

theorem laneEnd_inv (e : Tick) {s : State} (hI : Inv s) : Inv (laneEnd e s) := by
  unfold laneEnd
  exact Inv.ite (asAt_inv _ (fun _ h => elementFault_inv _ _ _ h) (hI.ofOnly (State.onFe_only ..))) hI

theorem lastFrameEnd_inv (e : Tick) {s : State} (hI : Inv s) : Inv (lastFrameEnd e s) := by
  unfold lastFrameEnd
  try extract_lets
  repeat' first
    | with_reducible assumption
    | with_reducible refine Inv.ite ?_ ?_
    | (guard_target = Inv (finishMigration ..); with_reducible apply finishMigration_inv)
    | (guard_target = Inv (laneEnd ..); with_reducible apply laneEnd_inv)
    | extract_lets
    | dsimp only
    | split
    | dsimp +zetaDelta only

theorem freezeFrame_inv (e : Tick) (f : Freeze) {s0 : State} (hI : Inv s0) : Inv (freezeFrame e f s0) := by
  unfold freezeFrame
  try extract_lets
  repeat' first
    | with_reducible assumption
    | with_reducible refine Inv.ite ?_ ?_
    | (guard_target = Inv (acqNext ..); with_reducible refine Inv.ofOnly ?_ (acqNext_only ..))
    | (guard_target = Inv (closeLedger ..); with_reducible apply closeLedger_inv)
    | (guard_target = Inv (directedFreeze ..); with_reducible refine Inv.ofOnly ?_ (directedFreeze_only ..))
    | (guard_target = Inv (emuAtEdge ..); with_reducible apply emuAtEdge_inv)
    | (guard_target = Inv (feBegin ..); with_reducible refine Inv.ofOnly ?_ (feBegin_only ..))
    | (guard_target = Inv (flowEdge ..); with_reducible refine Inv.ofOnly ?_ (flowEdge_only ..))
    | (guard_target = Inv (implFreeze ..); with_reducible apply implFreeze_inv)
    | (guard_target = Inv (lswFreeze ..); with_reducible refine Inv.ofOnly ?_ (lswFreeze_only ..))
    | (guard_target = Inv (maskEdge ..); with_reducible apply maskEdge_inv)
    | (guard_target = Inv (pifFreeze ..); with_reducible refine Inv.ofOnly ?_ (pifFreeze_only ..))
    | (guard_target = Inv (poolLow ..); with_reducible apply poolLow_inv)
    | (guard_target = Inv (posFreeze ..); with_reducible apply posFreeze_inv)
    | (guard_target = Inv (rowFreeze ..); with_reducible apply rowFreeze_inv)
    | (guard_target = Inv (snapshotExport ..); with_reducible apply snapshotExport_inv)
    | (guard_target = Inv (stopFreeze ..); with_reducible refine Inv.ofOnly ?_ (stopFreeze_only ..))
    | (guard_target = Inv (zeroPages ..); with_reducible apply zeroPages_inv)
    | (guard_target = Inv (State.onMap ..); refine Inv.onMap ?_ fun _ h => h)
    | extract_lets
    | dsimp only
    | split
    | dsimp +zetaDelta only

theorem execFrameEdge_inv (f : Freeze) {s : State} (hI : Inv s) : InvR (execFrameEdge f s) := by
  unfold execFrameEdge
  try extract_lets
  repeat' first
    | with_reducible assumption
    | with_reducible refine InvR.next ?_
    | with_reducible refine InvR.ite ?_ ?_
    | with_reducible refine Inv.ite ?_ ?_
    | (guard_target = Inv (activationEdge ..); with_reducible apply activationEdge_inv)
    | (guard_target = Inv (bkoError ..); with_reducible refine Inv.ofOnly ?_ (bkoError_only ..))
    | (guard_target = Inv (edgeStates ..); with_reducible apply edgeStates_inv)
    | (guard_target = Inv (freezeFrame ..); with_reducible apply freezeFrame_inv)
    | (guard_target = Inv (lastFrameEnd ..); with_reducible apply lastFrameEnd_inv)
    | (guard_target = Inv (settleActivation ..); with_reducible refine Inv.ofOnly ?_ (settleActivation_only ..))
    | (guard_target = Inv (toggleFaultOut ..); with_reducible refine Inv.ofOnly ?_ (toggleFaultOut_only ..))
    | (guard_target = Inv (trigSource ..); with_reducible apply trigSource_inv)
    | (guard_target = Inv (State.onSys ..); with_reducible refine Inv.ofOnly ?_ (State.onSys_only ..))
    | (guard_target = Inv (State.onLsw ..); with_reducible refine Inv.ofOnly ?_ (State.onLsw_only ..))
    | extract_lets
    | dsimp only
    | split
    | dsimp +zetaDelta only

theorem commitEvents_inv (b : Batch) {s : State} (hI : Inv s) : Inv (commitEvents b s).1 := by
  unfold commitEvents
  try extract_lets
  repeat' first
    | with_reducible assumption
    | with_reducible refine Inv.iteFst ?_ ?_
    | with_reducible refine Inv.ite ?_ ?_
    | (guard_target = Inv (enqueueEv ..); with_reducible refine Inv.ofOnly ?_ (enqueueEv_only ..))
    | (guard_target = Inv (noticeAt ..); with_reducible apply noticeAt_inv)
    | (guard_target = Inv (rowCommands ..).1; with_reducible apply rowCommands_inv)
    | (guard_target = Inv (State.onFe ..); with_reducible refine Inv.ofOnly ?_ (State.onFe_only ..))
    | with_reducible refine Inv.foldl (fun _ _ _ => ?_) ?_
    | with_reducible refine Inv.foldlFst (fun _ _ _ _ => ?_) ?_
    | extract_lets
    | dsimp only
    | split
    | dsimp +zetaDelta only

theorem commitBatch_inv (b : Batch) {s : State} (hI : Inv s) : Inv (commitBatch b s) := by
  unfold commitBatch
  try extract_lets
  repeat' first
    | with_reducible assumption
    | with_reducible refine Inv.ite ?_ ?_
    | (guard_target = Inv (applyPaints ..).1; with_reducible apply applyPaints_inv)
    | (guard_target = Inv (commitEvents ..).1; with_reducible apply commitEvents_inv)
    | (guard_target = Inv (noticeAt ..); with_reducible apply noticeAt_inv)
    | (guard_target = Inv (paintGap ..); with_reducible apply paintGap_inv)
    | (guard_target = Inv (writeDuty ..); with_reducible refine Inv.ofOnly ?_ (writeDuty_only ..))
    | (guard_target = Inv (State.onFe ..); with_reducible refine Inv.ofOnly ?_ (State.onFe_only ..))
    | (guard_target = Inv (State.onVdr ..); with_reducible refine Inv.ofOnly ?_ (State.onVdr_only ..))
    | with_reducible refine Inv.foldl (fun _ _ _ => ?_) ?_
    | with_reducible refine Inv.foldlFst (fun _ _ _ _ => ?_) ?_
    | extract_lets
    | dsimp only
    | split

theorem fieldClean_inv (e : Tick) {s : State} (hI : Inv s) : Inv (fieldClean e s) := by
  unfold fieldClean
  try extract_lets
  repeat' first
    | with_reducible assumption
    | with_reducible refine Inv.ite ?_ ?_
    | (guard_target = Inv (markElement ..); with_reducible apply markElement_inv)
    | (guard_target = Inv (State.onSec ..); with_reducible refine Inv.ofOnly ?_ (State.onSec_only ..))

theorem execCommitPhase_inv (agree : Bool) {s : State} (hI : Inv s) : InvR (execCommitPhase agree s) := by
  unfold execCommitPhase
  try extract_lets
  repeat' first
    | with_reducible assumption
    | with_reducible refine InvR.next ?_
    | with_reducible refine InvR.ite ?_ ?_
    | with_reducible refine Inv.ite ?_ ?_
    | (guard_target = Inv (commitBatch ..); with_reducible apply commitBatch_inv)
    | (guard_target = Inv (elementFault ..); with_reducible apply elementFault_inv)
    | (guard_target = Inv (fieldClean ..); with_reducible apply fieldClean_inv)
    | (guard_target = Inv (State.onSys ..); with_reducible refine Inv.ofOnly ?_ (State.onSys_only ..))
    | (guard_target = Inv (State.onFe ..); with_reducible refine Inv.ofOnly ?_ (State.onFe_only ..))
    | extract_lets
    | dsimp only
    | split

theorem deliver_inv (e : Tick) (p : Port) (k : Fin 16) {s : State} (hI : Inv s) : Inv (deliver e p k s) := by
  unfold deliver
  extract_lets q b recs count data o
  refine Inv.ite hI (Inv.ite (modPort_inv _ (by exact fun _ hq => hq) hI) ?_)
  exact modPort_inv _ (by exact fun q hq => ⟨hq.1, Nat.le_trans (Nat.sub_le ..) hq.2.1, hq.2.2⟩) hI

theorem telemetry_inv (e : Tick) {s : State} (hI : Inv s) : Inv (telemetry e s) := by
  unfold telemetry
  try extract_lets
  repeat' first
    | with_reducible assumption
    | with_reducible refine Inv.ite ?_ ?_
    | (guard_target = Inv (deliver ..); with_reducible apply deliver_inv)
    | with_reducible refine Inv.foldl (fun _ _ _ => ?_) ?_

theorem execLoggingPhase_inv  {s : State} (hI : Inv s) : InvR (execLoggingPhase s) := by
  unfold execLoggingPhase
  try extract_lets
  repeat' first
    | with_reducible assumption
    | with_reducible refine InvR.next ?_
    | with_reducible refine InvR.ite ?_ ?_
    | with_reducible refine Inv.ite ?_ ?_
    | (guard_target = Inv (activationDone ..); with_reducible apply activationDone_inv)
    | (guard_target = Inv (eventNotices ..); with_reducible apply eventNotices_inv)
    | (guard_target = Inv (flushNotices ..); with_reducible apply flushNotices_inv)
    | (guard_target = Inv (laneEnd ..); with_reducible apply laneEnd_inv)
    | (guard_target = Inv (reportCoast ..); with_reducible apply reportCoast_inv)
    | (guard_target = Inv (rxNotices ..); with_reducible apply rxNotices_inv)
    | (guard_target = Inv (sendTimeMessages ..); with_reducible apply sendTimeMessages_inv)
    | (guard_target = Inv (startMigration ..); with_reducible apply startMigration_inv)
    | (guard_target = Inv (telemetry ..); with_reducible apply telemetry_inv)
    | (guard_target = Inv (writeLog ..); with_reducible apply writeLog_inv)
    | (guard_target = Inv (State.onSys ..); with_reducible refine Inv.ofOnly ?_ (State.onSys_only ..))
    | (guard_target = Inv (State.onFe ..); with_reducible refine Inv.ofOnly ?_ (State.onFe_only ..))
    | with_reducible refine Inv.foldl (fun _ _ _ => ?_) ?_
    | with_reducible refine Inv.foldlFst (fun _ _ _ _ => ?_) ?_
    | extract_lets
    | dsimp only
    | split
    | dsimp +zetaDelta only

theorem afterRestart_inv (el : Element) {s : State} (hI : Inv s) : Inv (afterRestart el s) := by
  unfold afterRestart
  try extract_lets
  repeat' first
    | with_reducible assumption
    | with_reducible refine Inv.ite ?_ ?_
    | (guard_target = Inv (drainStage ..); with_reducible apply drainStage_inv)
    | (guard_target = Inv (feStart ..); with_reducible refine Inv.ofOnly ?_ (feStart_only ..))
    | (guard_target = Inv (restartLoops ..); with_reducible refine Inv.ofOnly ?_ (restartLoops_only ..))
    | (guard_target = Inv (runHeld ..); with_reducible apply runHeld_inv)
    | (guard_target = Inv (State.onThs ..); with_reducible refine Inv.ofOnly ?_ (State.onThs_only ..))
    | extract_lets
    | dsimp only
    | split
    | dsimp +zetaDelta only

theorem execElementRestartComplete_inv (el : Element) {s : State} (hI : Inv s) : InvR (execElementRestartComplete el s) := by
  unfold execElementRestartComplete
  try extract_lets
  repeat' first
    | with_reducible assumption
    | with_reducible refine InvR.next ?_
    | with_reducible refine InvR.ite ?_ ?_
    | with_reducible refine Inv.ite ?_ ?_
    | (guard_target = Inv (afterRestart ..); with_reducible apply afterRestart_inv)
    | (guard_target = Inv (modElem ..); with_reducible refine Inv.ofOnly ?_ (modElem_only ..))

end Sys2Proof.Machine
end

