-- ==== Sys2Proof/Laws/TickInv.lean ====
section
/-! SUPPORT. What the operations of Machine/Tick.lean keep: the invariant `Inv`. -/

set_option Elab.async false

namespace Sys2Proof.Machine

theorem tunnelSend_inv  {s : State} (hI : Inv s) : Inv (tunnelSend s) := by
  unfold tunnelSend
  extract_lets q
  split
  · refine Inv.ite hI ?_
    exact (modPort_inv _ (by exact fun _ hq => hq) hI).ofOnly (loadSlot_only ..)
  · exact hI

theorem runClocks_inv  {s : State} (hI : Inv s) : Inv (runClocks s) := by
  exact ⟨hI.pd0, hI.nor, hI.host, hI.map⟩

theorem PortSt.sendFront_inv {q : PortSt} (h : PortInv q) : PortInv q.sendFront := by
  unfold PortSt.sendFront
  split
  · exact h
  · exact ⟨Nat.min_le_left .., h.2⟩

theorem PortSt.tunnelFront_inv {q : PortSt} (h : PortInv q) : PortInv q.tunnelFront := by
  unfold PortSt.tunnelFront
  split
  · exact h
  · split
    · exact PortSt.sendFront_inv h
    · exact h

theorem sendPorts_inv {s : State} (hI : Inv s) : Inv (sendPorts s) := by
  refine Inv.onHost hI fun d hd p => ?_
  simp only [vmapIdx, Fin.getElem_fin, Vector.getElem_ofFn]
  split
  · exact PortSt.tunnelFront_inv (hd p)
  · exact PortSt.sendFront_inv (hd p)

theorem tick_inv  {s : State} (hI : Inv s) : Inv (tick s) := by
  unfold tick
  try extract_lets
  repeat' first
    | with_reducible assumption
    | with_reducible refine Inv.ite ?_ ?_
    | (guard_target = Inv (runClocks ..); with_reducible apply runClocks_inv)
    | (guard_target = Inv (sendPorts ..); with_reducible apply sendPorts_inv)
    | (guard_target = Inv (tunnelSend ..); with_reducible apply tunnelSend_inv)

end Sys2Proof.Machine
end

