-- ==== Sys2Proof/Laws/Reports.lean ====
section
/-! SUPPORT. What a report changes: the notice limiter, the queued notices, the fault log. -/

set_option Elab.async false

namespace Sys2Proof.Machine

theorem Noted.refl (s : State) : Noted s s := ⟨Only.refl _ _, rfl, rfl, rfl, fun _ => rfl⟩

theorem Noted.trans {a b c : State} (h : Noted a b) (k : Noted b c) : Noted a c := by
  refine ⟨h.only.andThen k.only (List.Subset.refl _), ?_, ?_, ?_, fun p => ?_⟩
  · rw [k.sys, h.sys]
  · rw [k.pd0, h.pd0]
  · rw [k.host, h.host]
  · rw [k.port p, h.port p]

theorem queueNotice_noted (n : Notice) (s : State) : Noted s (queueNotice n s) := by
  refine ⟨(queueNotice_only n s).andThen (Only.refl [] _) (by decide) |> fun h => (Only.refl [.sys, .pd0, .host] s).andThen h (by decide),
    rfl, rfl, rfl, fun p => ?_⟩
  unfold queueNotice portOf PortSt.take
  simp only [State.onHost_host, vmapIdx, Fin.getElem_fin, Vector.getElem_ofFn]
  repeat' split
  all_goals rfl

theorem onSysLimiter_noted (l : List Limiter) (s : State) : Noted s (s.onSys fun y => { y with limiter := l }) :=
  ⟨(Only.refl [.sys, .pd0, .host] s).andThen (State.onSys_only _ _) (by decide), rfl, rfl, rfl, fun _ => rfl⟩

theorem noticeAt_noted (b : Block) (code idx : Nat) (pm : Tick) (body : List Byte) (s : State) :
    Noted s (noticeAt b code idx pm body s) := by
  unfold noticeAt
  extract_lets n r s1
  split
  · exact onSysLimiter_noted _ _
  · exact (onSysLimiter_noted _ _).trans (queueNotice_noted _ _)

theorem notice_noted (b : Block) (code idx : Nat) (body : List Byte) (s : State) : Noted s (notice b code idx body s) :=
  noticeAt_noted ..

theorem foldl_noted {α : Type} {g : State → α → State} (hg : ∀ t a, Noted t (g t a)) (l : List α) (s : State) :
    Noted s (l.foldl g s) := by
  induction l generalizing s with
  | nil => exact Noted.refl s
  | cons a l ih => exact (hg s a).trans (ih _)

theorem endFault_noted (cause index : Nat) (s : State) : Noted s (endFault cause index s) := by
  unfold endFault
  extract_lets ended s1
  have h1 : Noted s s1 := ⟨(Only.refl [.sys, .pd0, .host] s).andThen (State.onPd0_only _ _) (by decide), rfl, rfl, rfl, fun _ => rfl⟩
  exact h1.trans (foldl_noted (fun _ _ => notice_noted ..) _ _)


theorem queueNotice_pd0 (n : Notice) (s : State) : (queueNotice n s).pd0 = s.pd0 := rfl
theorem noticeNow_noted (b : Block) (code idx : Nat) (pm : Tick) (body : List Byte) (s : State) :
    Noted s (noticeNow b code idx pm body s) := queueNotice_noted ..
theorem noticeAt_pd0 (b : Block) (code idx : Nat) (pm : Tick) (body : List Byte) (s : State) :
    (noticeAt b code idx pm body s).pd0 = s.pd0 := by
  unfold noticeAt
  extract_lets n r s1
  split <;> rfl
@[simp] theorem notice_pd0 (b : Block) (code idx : Nat) (body : List Byte) (s : State) : (notice b code idx body s).pd0 = s.pd0 :=
  noticeAt_pd0 ..
@[simp] theorem noticeNow_pd0 (b : Block) (code idx : Nat) (pm : Tick) (body : List Byte) (s : State) :
    (noticeNow b code idx pm body s).pd0 = s.pd0 := rfl

theorem onFaultLog_noted (f : List FaultEntry → List FaultEntry) (s : State) :
    Noted s (s.onPd0 fun d => { d with faultLog := f d.faultLog }) :=
  ⟨(Only.refl [.sys, .pd0, .host] s).andThen (State.onPd0_only _ _) (by decide), rfl, rfl, rfl, fun _ => rfl⟩

/-- A record is a report. -/
theorem logFault_noted (cause : Nat) (b : Block) (index reaction restarts detail : Nat) (s : State) :
    Noted s (logFault cause b index reaction restarts detail s) := by
  unfold logFault
  split
  · exact onFaultLog_noted _ _
  · extract_lets f s1
    have h : Noted s s1 := onFaultLog_noted (fun l => placeFault f (l.take 63)) s
    split
    · exact h.trans (noticeNow_noted ..)
    · exact h.trans (notice_noted ..)

theorem FaultEntry.repeatFor_key (c i : Nat) (f : FaultEntry) : (f.repeatFor c i).cause = f.cause ∧ (f.repeatFor c i).index = f.index := by
  unfold FaultEntry.repeatFor
  split <;> exact ⟨rfl, rfl⟩

theorem mem_placeFault (f : FaultEntry) (l : List FaultEntry) : f ∈ placeFault f l := by
  induction l with
  | nil => exact List.mem_singleton_self f
  | cons g l ih => unfold placeFault; split <;> simp [ih]

/-- A record is in the log. -/
theorem logFault_logged (cause : Nat) (b : Block) (index reaction restarts detail : Nat) (s : State) :
    Logged cause index (logFault cause b index reaction restarts detail s) := by
  unfold logFault
  split
  · rename_i h
    obtain ⟨f, hf, ha⟩ := List.any_eq_true.1 h.2
    refine ⟨f.repeatFor cause index, List.mem_map_of_mem hf, ?_⟩
    obtain ⟨h1, h2⟩ := FaultEntry.repeatFor_key cause index f
    simp only [FaultEntry.activeFor, Bool.and_eq_true, beq_iff_eq] at ha
    grind
  · extract_lets f s1
    have h : f ∈ s1.pd0.faultLog := mem_placeFault ..
    split
    · exact ⟨f, h, rfl, rfl⟩
    · exact ⟨f, by simpa using h, rfl, rfl⟩

/-- An end writes END_PM. -/
theorem endFault_ended (cause index : Nat) (s : State) : Ended cause index s (endFault cause index s) := by
  unfold Ended endFault
  extract_lets ended s1
  have h : ∀ (l : List FaultEntry) (t : State), (l.foldl (fun t f => notice .safe 0x02 index f.bytes t) t).pd0 = t.pd0 := by
    intro l
    induction l with
    | nil => exact fun _ => rfl
    | cons a l ih => exact fun t => (ih _).trans (notice_pd0 ..)
  rw [h]
  rfl

theorem Noted.same {s t : State} (h : Noted s t) (p : Part) (hp : p ∉ [Part.sys, .pd0, .host]) : p.same s t := h.only.same p hp

end Sys2Proof.Machine
end

