-- ==== Sys2Proof/Laws/Entered.lean ====
section
/-! SUPPORT. The operations that leave the device's state, the state before it and its cause as they are. -/

set_option Elab.async false

namespace Sys2Proof.Machine

variable {s t : State} {d p : DevState} {k : Nat}

theorem Entered.ofOnly {l : List Part} (h : Entered d p k s) (o : Only l s t) (hl : Part.sys ∉ l := by decide) : Entered d p k t := by
  have e : t.sys = s.sys := o.same _ hl
  unfold Entered
  rw [e]
  exact h

theorem Entered.ite {c : Prop} [Decidable c] {a b : State} (ha : Entered d p k a) (hb : Entered d p k b) :
    Entered d p k (if c then a else b) := by split <;> assumption

theorem Entered.iteFst {α : Type} {c : Prop} [Decidable c] {a b : State × α} (ha : Entered d p k a.1) (hb : Entered d p k b.1) :
    Entered d p k (if c then a else b).1 := by split <;> assumption

theorem Entered.iteSnd {α : Type} {c : Prop} [Decidable c] {a b : α × State} (ha : Entered d p k a.2) (hb : Entered d p k b.2) :
    Entered d p k (if c then a else b).2 := by split <;> assumption

theorem Entered.foldl {α : Type} {g : State → α → State} {x : List α} (hg : ∀ t a, Entered d p k t → Entered d p k (g t a))
    (h : Entered d p k s) : Entered d p k (x.foldl g s) := by
  induction x generalizing s with
  | nil => exact h
  | cons a x ih => exact ih (hg s a h)

theorem Entered.foldlFst {α β : Type} {g : State × β → α → State × β} {x : List α} {b : β}
    (hg : ∀ t b a, Entered d p k t → Entered d p k (g (t, b) a).1) (h : Entered d p k s) : Entered d p k (x.foldl g (s, b)).1 := by
  induction x generalizing s b with
  | nil => exact h
  | cons a x ih => exact ih (b := (g (s, b) a).2) (hg s b a h)

theorem Entered.onSys {f : SysSt → SysSt} (h : Entered d p k s)
    (hf : ∀ y, (f y).dev = y.dev ∧ (f y).prev = y.prev ∧ (f y).cause = y.cause) : Entered d p k (s.onSys f) := by
  obtain ⟨h1, h2, h3⟩ := hf s.sys
  exact ⟨h1.trans h.1, h2.trans h.2.1, h3.trans h.2.2⟩

theorem Noted.entered (h : Noted s t) (e : Entered d p k s) : Entered d p k t := by
  unfold Entered
  rw [h.sys]
  exact e

/-- The same of an answered step. -/
def EnteredR (d p : DevState) (k : Nat) (r : Result) : Prop := ∀ t, r = .next t → Entered d p k t

theorem EnteredR.next {a : State} (h : Entered d p k a) : EnteredR d p k (.next a) := fun _ e => by cases e; exact h

theorem EnteredR.ite {c : Prop} [Decidable c] {a b : Result} (ha : EnteredR d p k a) (hb : EnteredR d p k b) :
    EnteredR d p k (if c then a else b) := by split <;> assumption

theorem noticeAt_entered {dv pv : DevState} {kv : Nat} (b : Block) (code idx : Nat) (pm : Tick) (body : List Byte) {s : State} (hI : Entered dv pv kv s) : Entered dv pv kv (noticeAt b code idx pm body s) := by
  unfold noticeAt
  try extract_lets
  repeat' first
    | with_reducible assumption
    | with_reducible refine Entered.ite ?_ ?_
    | (guard_target = Entered _ _ _ (queueNotice ..); with_reducible refine Entered.ofOnly ?_ (queueNotice_only ..))
    | (guard_target = Entered _ _ _ (State.onSys ..); refine Entered.onSys ?_ fun _ => ⟨rfl, rfl, rfl⟩)
    | extract_lets
    | dsimp only
    | split
    | dsimp +zetaDelta only

theorem notice_entered {dv pv : DevState} {kv : Nat} (b : Block) (code idx : Nat) (body : List Byte) {s : State} (hI : Entered dv pv kv s) : Entered dv pv kv (notice b code idx body s) := by
  unfold notice
  try extract_lets
  repeat' first
    | with_reducible assumption
    | with_reducible refine Entered.ite ?_ ?_
    | (guard_target = Entered _ _ _ (noticeAt ..); with_reducible apply noticeAt_entered)
    | extract_lets
    | dsimp only
    | split
    | dsimp +zetaDelta only

theorem flushNotices_entered {dv pv : DevState} {kv : Nat}  {s : State} (hI : Entered dv pv kv s) : Entered dv pv kv (flushNotices s) := by
  unfold flushNotices
  try extract_lets
  repeat' first
    | with_reducible assumption
    | with_reducible refine Entered.ite ?_ ?_
    | (guard_target = Entered _ _ _ (queueNotice ..); with_reducible refine Entered.ofOnly ?_ (queueNotice_only ..))
    | (guard_target = Entered _ _ _ (State.onSys ..); refine Entered.onSys ?_ fun _ => ⟨rfl, rfl, rfl⟩)
    | with_reducible refine Entered.foldl (fun _ _ _ => ?_) ?_
    | with_reducible refine Entered.foldlFst (fun _ _ _ _ => ?_) ?_
    | extract_lets
    | dsimp only
    | split
    | dsimp +zetaDelta only

theorem logFault_entered {dv pv : DevState} {kv : Nat} (cause : Nat) (b : Block) (index reaction restarts detail : Nat) {s : State} (hI : Entered dv pv kv s) : Entered dv pv kv (logFault cause b index reaction restarts detail s) := by
  unfold logFault
  try extract_lets
  repeat' first
    | with_reducible assumption
    | with_reducible refine Entered.ite ?_ ?_
    | (guard_target = Entered _ _ _ (notice ..); with_reducible apply notice_entered)
    | (guard_target = Entered _ _ _ (noticeNow ..); with_reducible refine Entered.ofOnly ?_ (noticeNow_only ..))
    | (guard_target = Entered _ _ _ (State.onPd0 ..); refine Inv.onPd0 ?_ fun d hd => by simp only [List.length_map, List.length_take, List.length_cons]; omega)
    | (guard_target = Entered _ _ _ (State.onPd0 ..); with_reducible refine Entered.ofOnly ?_ (State.onPd0_only ..))
    | extract_lets
    | dsimp only
    | split
    | dsimp +zetaDelta only

theorem endFault_entered {dv pv : DevState} {kv : Nat} (cause index : Nat) {s : State} (hI : Entered dv pv kv s) : Entered dv pv kv (endFault cause index s) := by
  unfold endFault
  try extract_lets
  repeat' first
    | with_reducible assumption
    | with_reducible refine Entered.ite ?_ ?_
    | (guard_target = Entered _ _ _ (notice ..); with_reducible apply notice_entered)
    | (guard_target = Entered _ _ _ (State.onPd0 ..); refine Inv.onPd0 ?_ fun d hd => by simp only [List.length_map, List.length_take, List.length_cons]; omega)
    | (guard_target = Entered _ _ _ (State.onPd0 ..); with_reducible refine Entered.ofOnly ?_ (State.onPd0_only ..))
    | with_reducible refine Entered.foldl (fun _ _ _ => ?_) ?_
    | with_reducible refine Entered.foldlFst (fun _ _ _ _ => ?_) ?_
    | extract_lets
    | dsimp only
    | split
    | dsimp +zetaDelta only

theorem sealBlock_entered {dv pv : DevState} {kv : Nat}  {s : State} (hI : Entered dv pv kv s) : Entered dv pv kv (sealBlock s) := by
  unfold sealBlock
  try extract_lets
  repeat' first
    | with_reducible assumption
    | with_reducible refine Entered.ite ?_ ?_
    | (guard_target = Entered _ _ _ (notice ..); with_reducible apply notice_entered)
    | (guard_target = Entered _ _ _ (State.onPd0 ..); refine Inv.onPd0 ?_ fun d hd => by simp only [List.length_map, List.length_take, List.length_cons]; omega)
    | (guard_target = Entered _ _ _ (State.onPd0 ..); with_reducible refine Entered.ofOnly ?_ (State.onPd0_only ..))
    | (guard_target = Entered _ _ _ (State.onMap ..); with_reducible refine Entered.ofOnly ?_ (State.onMap_only ..))
    | extract_lets
    | dsimp only
    | split
    | dsimp +zetaDelta only

theorem openBlock_entered {dv pv : DevState} {kv : Nat}  {s : State} (hI : Entered dv pv kv s) : Entered dv pv kv (openBlock s) := by
  unfold openBlock
  try extract_lets
  repeat' first
    | with_reducible assumption
    | with_reducible refine Entered.ite ?_ ?_
    | (guard_target = Entered _ _ _ (notice ..); with_reducible apply notice_entered)
    | (guard_target = Entered _ _ _ (State.onMap ..); with_reducible refine Entered.ofOnly ?_ (State.onMap_only ..))
    | extract_lets
    | dsimp only
    | split
    | dsimp +zetaDelta only

theorem appendRecord_entered {dv pv : DevState} {kv : Nat} (r : BitVec 256) {s : State} (hI : Entered dv pv kv s) : Entered dv pv kv (appendRecord r s) := by
  unfold appendRecord
  try extract_lets
  repeat' first
    | with_reducible assumption
    | with_reducible refine Entered.ite ?_ ?_
    | (guard_target = Entered _ _ _ (openBlock ..); with_reducible apply openBlock_entered)
    | (guard_target = Entered _ _ _ (sealBlock ..); with_reducible apply sealBlock_entered)
    | (guard_target = Entered _ _ _ (State.onMap ..); with_reducible refine Entered.ofOnly ?_ (State.onMap_only ..))
    | extract_lets
    | dsimp only
    | split
    | dsimp +zetaDelta only

theorem writeLog_entered {dv pv : DevState} {kv : Nat} (r : BitVec 256) {s : State} (hI : Entered dv pv kv s) : Entered dv pv kv (writeLog r s) := by
  unfold writeLog
  try extract_lets
  repeat' first
    | with_reducible assumption
    | with_reducible refine Entered.ite ?_ ?_
    | (guard_target = Entered _ _ _ (appendRecord ..); with_reducible apply appendRecord_entered)
    | (guard_target = Entered _ _ _ (State.onMap ..); with_reducible refine Entered.ofOnly ?_ (State.onMap_only ..))
    | extract_lets
    | dsimp only
    | split
    | dsimp +zetaDelta only

theorem drainStage_entered {dv pv : DevState} {kv : Nat}  {s : State} (hI : Entered dv pv kv s) : Entered dv pv kv (drainStage s) := by
  unfold drainStage
  try extract_lets
  repeat' first
    | with_reducible assumption
    | with_reducible refine Entered.ite ?_ ?_
    | (guard_target = Entered _ _ _ (appendRecord ..); with_reducible apply appendRecord_entered)
    | (guard_target = Entered _ _ _ (State.onMap ..); with_reducible refine Entered.ofOnly ?_ (State.onMap_only ..))
    | with_reducible refine Entered.foldl (fun _ _ _ => ?_) ?_
    | with_reducible refine Entered.foldlFst (fun _ _ _ _ => ?_) ?_
    | extract_lets
    | dsimp only
    | split
    | dsimp +zetaDelta only

theorem paintGap_entered {dv pv : DevState} {kv : Nat} (index reason : Nat) (first last count : Nat) {s : State} (hI : Entered dv pv kv s) : Entered dv pv kv (paintGap index reason first last count s) := by
  unfold paintGap
  try extract_lets
  repeat' first
    | with_reducible assumption
    | with_reducible refine Entered.ite ?_ ?_
    | (guard_target = Entered _ _ _ (writeLog ..); with_reducible apply writeLog_entered)
    | extract_lets
    | dsimp only
    | split
    | dsimp +zetaDelta only

theorem waitEdge_entered {dv pv : DevState} {kv : Nat} (opcode : BitVec 16) (e : Env) (acts : List EdgeAct) {s : State} (hI : Entered dv pv kv s) : Entered dv pv kv (waitEdge opcode e acts s) := by
  unfold waitEdge
  try extract_lets
  repeat' first
    | with_reducible assumption
    | with_reducible refine Entered.ite ?_ ?_
    | (guard_target = Entered _ _ _ (State.onSys ..); refine Entered.onSys ?_ fun _ => ⟨rfl, rfl, rfl⟩)
    | extract_lets
    | dsimp only
    | split
    | dsimp +zetaDelta only

theorem cancelEdges_entered {dv pv : DevState} {kv : Nat}  {s : State} (hI : Entered dv pv kv s) : Entered dv pv kv (cancelEdges s) := by
  unfold cancelEdges
  try extract_lets
  repeat' first
    | with_reducible assumption
    | with_reducible refine Entered.ite ?_ ?_
    | (guard_target = Entered _ _ _ (noticeNow ..); with_reducible refine Entered.ofOnly ?_ (noticeNow_only ..))
    | (guard_target = Entered _ _ _ (State.onSys ..); refine Entered.onSys ?_ fun _ => ⟨rfl, rfl, rfl⟩)
    | (guard_target = Entered _ _ _ (State.onLsw ..); with_reducible refine Entered.ofOnly ?_ (State.onLsw_only ..))
    | with_reducible refine Entered.foldl (fun _ _ _ => ?_) ?_
    | with_reducible refine Entered.foldlFst (fun _ _ _ _ => ?_) ?_
    | extract_lets
    | dsimp only
    | split
    | dsimp +zetaDelta only

theorem poolLow_entered {dv pv : DevState} {kv : Nat}  {s : State} (hI : Entered dv pv kv s) : Entered dv pv kv (poolLow s) := by
  unfold poolLow
  try extract_lets
  repeat' first
    | with_reducible assumption
    | with_reducible refine Entered.ite ?_ ?_
    | (guard_target = Entered _ _ _ (notice ..); with_reducible apply notice_entered)
    | (guard_target = Entered _ _ _ (State.onMap ..); with_reducible refine Entered.ofOnly ?_ (State.onMap_only ..))
    | extract_lets
    | dsimp only
    | split
    | dsimp +zetaDelta only

theorem noteRetired_entered {dv pv : DevState} {kv : Nat} (old : MapSt) {s : State} (hI : Entered dv pv kv s) : Entered dv pv kv (noteRetired old s) := by
  unfold noteRetired
  try extract_lets
  repeat' first
    | with_reducible assumption
    | with_reducible refine Entered.ite ?_ ?_
    | (guard_target = Entered _ _ _ (notice ..); with_reducible apply notice_entered)
    | with_reducible refine Entered.foldl (fun _ _ _ => ?_) ?_
    | with_reducible refine Entered.foldlFst (fun _ _ _ _ => ?_) ?_
    | extract_lets
    | dsimp only
    | split
    | dsimp +zetaDelta only

theorem eccWord_entered {dv pv : DevState} {kv : Nat} (x : EccIn) {s : State} (hI : Entered dv pv kv s) : Entered dv pv kv (eccWord x s) := by
  unfold eccWord
  try extract_lets
  repeat' first
    | with_reducible assumption
    | with_reducible refine Entered.ite ?_ ?_
    | (guard_target = Entered _ _ _ (logFault ..); with_reducible apply logFault_entered)
    | (guard_target = Entered _ _ _ (notice ..); with_reducible apply notice_entered)
    | (guard_target = Entered _ _ _ (onSwatch ..); with_reducible refine Entered.ofOnly ?_ (onSwatch_only ..))
    | (guard_target = Entered _ _ _ (onTint ..); with_reducible refine Entered.ofOnly ?_ (onTint_only ..))
    | (guard_target = Entered _ _ _ (retirePage ..); with_reducible refine Entered.ofOnly ?_ (retirePage_only ..))
    | (guard_target = Entered _ _ _ (startBuild ..); with_reducible refine Entered.ofOnly ?_ (startBuild_only ..))
    | (guard_target = Entered _ _ _ (State.onMap ..); with_reducible refine Entered.ofOnly ?_ (State.onMap_only ..))
    | extract_lets
    | dsimp only
    | split
    | dsimp +zetaDelta only

theorem meetErrors_entered {dv pv : DevState} {kv : Nat} (hit : EccIn → Bool) {s : State} (hI : Entered dv pv kv s) : Entered dv pv kv (meetErrors hit s).1 := by
  unfold meetErrors
  try extract_lets
  repeat' first
    | with_reducible assumption
    | with_reducible refine Entered.iteFst ?_ ?_
    | with_reducible refine Entered.ite ?_ ?_
    | (guard_target = Entered _ _ _ (eccWord ..); with_reducible apply eccWord_entered)
    | (guard_target = Entered _ _ _ (State.onMap ..); with_reducible refine Entered.ofOnly ?_ (State.onMap_only ..))
    | with_reducible refine Entered.foldl (fun _ _ _ => ?_) ?_
    | with_reducible refine Entered.foldlFst (fun _ _ _ _ => ?_) ?_
    | extract_lets
    | dsimp only
    | split
    | dsimp +zetaDelta only

theorem meetLines_entered {dv pv : DevState} {kv : Nat} (old fetched s : State) (hI : Entered dv pv kv s) : Entered dv pv kv (meetLines old fetched s) := by
  unfold meetLines
  try extract_lets
  repeat' first
    | with_reducible assumption
    | with_reducible refine Entered.ite ?_ ?_
    | (guard_target = Entered _ _ _ (meetErrors ..).1; with_reducible apply meetErrors_entered)
    | extract_lets
    | dsimp only
    | split
    | dsimp +zetaDelta only

theorem meetFetched_entered {dv pv : DevState} {kv : Nat} (old s : State) (hI : Entered dv pv kv s) : Entered dv pv kv (meetFetched old s) := by
  unfold meetFetched
  try extract_lets
  repeat' first
    | with_reducible assumption
    | with_reducible refine Entered.ite ?_ ?_
    | (guard_target = Entered _ _ _ (meetLines ..); with_reducible apply meetLines_entered)
    | extract_lets
    | dsimp only
    | split
    | dsimp +zetaDelta only

theorem paintInto_entered {dv pv : DevState} {kv : Nat} (layer : Nat) (tx ty : Int) (ks : List Nat) {s0 : State} (hI : Entered dv pv kv s0) : Entered dv pv kv (paintInto layer tx ty ks s0) := by
  unfold paintInto
  try extract_lets
  repeat' first
    | with_reducible assumption
    | with_reducible refine Entered.ite ?_ ?_
    | (guard_target = Entered _ _ _ (meetErrors ..).1; with_reducible apply meetErrors_entered)
    | (guard_target = Entered _ _ _ (onSwatch ..); with_reducible refine Entered.ofOnly ?_ (onSwatch_only ..))
    | (guard_target = Entered _ _ _ (touchLine ..); with_reducible refine Entered.ofOnly ?_ (touchLine_only ..))
    | with_reducible refine Entered.foldl (fun _ _ _ => ?_) ?_
    | with_reducible refine Entered.foldlFst (fun _ _ _ _ => ?_) ?_
    | extract_lets
    | dsimp only
    | split
    | dsimp +zetaDelta only

theorem allocSwatch_entered {dv pv : DevState} {kv : Nat} {layer : Nat} {tx ty : Int} {s t : State} (h : allocSwatch layer tx ty s = some t)
    (hs : Entered dv pv kv s) : Entered dv pv kv t := by
  unfold allocSwatch at h
  dsimp only at h
  split at h
  · cases h
  · split at h
    · cases h
    · cases h
      exact poolLow_entered (Entered.ofOnly hs (State.onMap_only ..))

theorem evictFor_entered {dv pv : DevState} {kv : Nat} (layer d n : Nat) : ∀ {s : State} {freed : List Nat} {r : State × List Nat},
    evictFor layer d n s freed = some r → Entered dv pv kv s → Entered dv pv kv r.1 := by
  induction n with
  | zero => intro s freed r h; cases h
  | succ n ih =>
    intro s freed r h hs
    unfold evictFor at h
    dsimp only at h
    split at h
    · cases h; exact hs
    · split at h
      · exact ih h (notice_entered _ _ _ _ (Entered.ofOnly hs (State.onMap_only ..)))
      · cases h

theorem allocEvicted_entered {dv pv : DevState} {kv : Nat} {layer : Nat} {tx ty : Int} {s t : State} (h : allocEvicted layer tx ty s = some t)
    (hs : Entered dv pv kv s) : Entered dv pv kv t := by
  unfold allocEvicted at h
  dsimp only at h
  split at h
  · cases h
  · rename_i r hr
    cases h
    split at hr
    · exact noteRetired_entered _ (poolLow_entered (Entered.ofOnly (evictFor_entered _ _ _ hr hs) (State.onMap_only ..)))
    · cases hr

theorem paintTile_entered {dv pv : DevState} {kv : Nat} (layer : Nat) (tx ty : Int) (ks : List Nat) {s : State} (hI : Entered dv pv kv s) : Entered dv pv kv (paintTile layer tx ty ks s).1 := by
  unfold paintTile
  try extract_lets
  repeat' first
    | with_reducible assumption
    | with_reducible refine allocEvicted_entered ‹_› ?_
    | with_reducible refine Entered.iteFst ?_ ?_
    | with_reducible refine Entered.ite ?_ ?_
    | with_reducible refine allocSwatch_entered ‹_› ?_
    | (guard_target = Entered _ _ _ (notice ..); with_reducible apply notice_entered)
    | (guard_target = Entered _ _ _ (paintGap ..); with_reducible apply paintGap_entered)
    | (guard_target = Entered _ _ _ (paintInto ..); with_reducible apply paintInto_entered)
    | (guard_target = Entered _ _ _ (State.onMap ..); with_reducible refine Entered.ofOnly ?_ (State.onMap_only ..))
    | extract_lets
    | dsimp only
    | split

theorem paint_entered {dv pv : DevState} {kv : Nat} (layer : Nat) (cells : List (Int × Int)) {s : State} (hI : Entered dv pv kv s) : Entered dv pv kv (paint layer cells s).1 := by
  unfold paint
  try extract_lets
  repeat' first
    | with_reducible assumption
    | with_reducible refine Entered.iteFst ?_ ?_
    | with_reducible refine Entered.ite ?_ ?_
    | (guard_target = Entered _ _ _ (paintTile ..).1; with_reducible apply paintTile_entered)
    | (guard_target = Entered _ _ _ (State.onMap ..); with_reducible refine Entered.ofOnly ?_ (State.onMap_only ..))
    | with_reducible refine Entered.foldl (fun _ _ _ => ?_) ?_
    | with_reducible refine Entered.foldlFst (fun _ _ _ _ => ?_) ?_
    | extract_lets
    | dsimp only
    | split
    | dsimp +zetaDelta only

theorem meetTile_entered {dv pv : DevState} {kv : Nat} (layer : Nat) (tx ty : Int) {s : State} (hI : Entered dv pv kv s) : Entered dv pv kv (meetTile layer tx ty s) := by
  unfold meetTile
  try extract_lets
  repeat' first
    | with_reducible assumption
    | with_reducible refine Entered.ite ?_ ?_
    | (guard_target = Entered _ _ _ (meetErrors ..).1; with_reducible apply meetErrors_entered)
    | extract_lets
    | dsimp only
    | split
    | dsimp +zetaDelta only

theorem clearCover_entered {dv pv : DevState} {kv : Nat} (layer : Nat) {s : State} (hI : Entered dv pv kv s) : Entered dv pv kv (clearCover layer s) := by
  unfold clearCover
  try extract_lets
  repeat' first
    | with_reducible assumption
    | with_reducible refine Entered.ite ?_ ?_
    | (guard_target = Entered _ _ _ (noteRetired ..); with_reducible apply noteRetired_entered)
    | (guard_target = Entered _ _ _ (paintGap ..); with_reducible apply paintGap_entered)
    | (guard_target = Entered _ _ _ (State.onMap ..); with_reducible refine Entered.ofOnly ?_ (State.onMap_only ..))
    | extract_lets
    | dsimp only
    | split
    | dsimp +zetaDelta only

theorem clearTint_entered {dv pv : DevState} {kv : Nat} (layer : Nat) {s : State} (hI : Entered dv pv kv s) : Entered dv pv kv (clearTint layer s) := by
  unfold clearTint
  try extract_lets
  repeat' first
    | with_reducible assumption
    | with_reducible refine Entered.ite ?_ ?_
    | (guard_target = Entered _ _ _ (noteRetired ..); with_reducible apply noteRetired_entered)
    | (guard_target = Entered _ _ _ (State.onMap ..); with_reducible refine Entered.ofOnly ?_ (State.onMap_only ..))
    | extract_lets
    | dsimp only
    | split
    | dsimp +zetaDelta only

theorem loadDone_entered {dv pv : DevState} {kv : Nat} (st : Status) {s : State} (hI : Entered dv pv kv s) : Entered dv pv kv (loadDone st s) := by
  unfold loadDone
  try extract_lets
  repeat' first
    | with_reducible assumption
    | with_reducible refine Entered.ite ?_ ?_
    | (guard_target = Entered _ _ _ (notice ..); with_reducible apply notice_entered)
    | extract_lets
    | dsimp only
    | split
    | dsimp +zetaDelta only

theorem applyCover_entered {dv pv : DevState} {kv : Nat} {layer : Nat} {x : Int × Int × Nat} {s t : State} (h : applyCover layer x s = some t) (hs : Entered dv pv kv s) : Entered dv pv kv t := by
  unfold applyCover at h
  dsimp only at h
  split at h
  · cases h
    exact (meetTile_entered _ _ _ hs).ofOnly (onSwatch_only ..)
  · cases ha : allocSwatch layer x.1 x.2.1 s with
    | none => rw [ha] at h; cases h
    | some u =>
      rw [ha] at h
      cases h
      exact (allocSwatch_entered ha hs).ofOnly (onSwatch_only ..)

theorem applyTint_entered {dv pv : DevState} {kv : Nat} {layer : Nat} {t : Int × Int × Nat} {s u : State} (h : applyTint layer t s = some u) (hs : Entered dv pv kv s) : Entered dv pv kv u := by
  unfold applyTint at h
  split at h
  · cases h
    exact (hs.ofOnly (State.onMap_only ..)).ofOnly (onTint_only ..)
  · obtain ⟨p, -, rfl⟩ := Option.map_eq_some_iff.1 h
    exact hs.ofOnly (State.onMap_only ..)

theorem applyAll_entered {dv pv : DevState} {kv : Nat} {α : Type} {f : α → State → Option State} (hf : ∀ a s t, f a s = some t → Entered dv pv kv s → Entered dv pv kv t)
    {xs : List α} {s t : State} (h : applyAll f xs s = some t) (hs : Entered dv pv kv s) : Entered dv pv kv t := by
  induction xs generalizing s with
  | nil => cases h; exact hs
  | cons x xs ih =>
    unfold applyAll at h
    split at h
    · exact ih h (hf _ _ _ ‹_› hs)
    · cases h

theorem importResult_entered {dv pv : DevState} {kv : Nat} {l : Load} {s t : State} (h : importResult l s = .ok t) (hs : Entered dv pv kv s) : Entered dv pv kv t := by
  unfold importResult at h
  dsimp only at h
  split at h
  · split at h
    · cases h
    · split at h
      · cases h
      · split at h
        · cases h
        · cases h
          exact (hs.ofOnly (State.onMap_only ..)).ofOnly (startBuild_only ..)
  · split at h
    · cases h
    · split at h
      · cases h
      · split at h
        · split at h
          · cases h
            refine applyAll_entered (fun _ _ _ => applyCover_entered) ‹_› ?_
            exact Entered.ite (clearCover_entered _ hs) hs
          · cases h
        · split at h
          · cases h
            exact applyAll_entered (fun _ _ _ => applyTint_entered) ‹_› hs
          · cases h

theorem applyImport_entered {dv pv : DevState} {kv : Nat}  {s : State} (hI : Entered dv pv kv s) : Entered dv pv kv (applyImport s) := by
  unfold applyImport
  try extract_lets
  repeat' first
    | with_reducible assumption
    | with_reducible refine Entered.ite ?_ ?_
    | with_reducible refine importResult_entered ‹_› ?_
    | (guard_target = Entered _ _ _ (loadDone ..); with_reducible apply loadDone_entered)
    | (guard_target = Entered _ _ _ (State.onMap ..); with_reducible refine Entered.ofOnly ?_ (State.onMap_only ..))
    | extract_lets
    | dsimp only
    | split

theorem opMapLoadEnd_entered {dv pv : DevState} {kv : Nat} (e : Env) {s : State} (hI : Entered dv pv kv s) : Entered dv pv kv (opMapLoadEnd e s).1 := by
  unfold opMapLoadEnd
  try extract_lets
  repeat' first
    | with_reducible assumption
    | with_reducible refine Entered.iteFst ?_ ?_
    | with_reducible refine Entered.ite ?_ ?_
    | with_reducible refine importResult_entered ‹_› ?_
    | (guard_target = Entered _ _ _ (loadDone ..); with_reducible apply loadDone_entered)
    | (guard_target = Entered _ _ _ (waitEdge ..); with_reducible apply waitEdge_entered)
    | (guard_target = Entered _ _ _ (State.onMap ..); with_reducible refine Entered.ofOnly ?_ (State.onMap_only ..))
    | extract_lets
    | dsimp only
    | split
    | dsimp +zetaDelta only

theorem opMapLoadAbort_entered {dv pv : DevState} {kv : Nat} (_e : Env) {s : State} (hI : Entered dv pv kv s) : Entered dv pv kv (opMapLoadAbort _e s).1 := by
  unfold opMapLoadAbort
  try extract_lets
  repeat' first
    | with_reducible assumption
    | with_reducible refine Entered.iteFst ?_ ?_
    | with_reducible refine Entered.ite ?_ ?_
    | dsimp only [deny, done]
    | (guard_target = Entered _ _ _ (State.onSys ..); refine Entered.onSys ?_ fun _ => ⟨rfl, rfl, rfl⟩)
    | (guard_target = Entered _ _ _ (State.onMap ..); with_reducible refine Entered.ofOnly ?_ (State.onMap_only ..))
    | extract_lets
    | dsimp only
    | split
    | dsimp +zetaDelta only

theorem opMapExportBegin_entered {dv pv : DevState} {kv : Nat} (e : Env) {s : State} (hI : Entered dv pv kv s) : Entered dv pv kv (opMapExportBegin e s).1 := by
  unfold opMapExportBegin
  try extract_lets
  repeat' first
    | with_reducible assumption
    | with_reducible refine Entered.iteFst ?_ ?_
    | with_reducible refine Entered.ite ?_ ?_
    | dsimp only [deny]
    | (guard_target = Entered _ _ _ (waitEdge ..); with_reducible apply waitEdge_entered)
    | (guard_target = Entered _ _ _ (State.onMap ..); with_reducible refine Entered.ofOnly ?_ (State.onMap_only ..))
    | extract_lets
    | dsimp only
    | split
    | dsimp +zetaDelta only

theorem readTiles_entered {dv pv : DevState} {kv : Nat} (x : Exp) (ks : List Nat) {s : State} (hI : Entered dv pv kv s) : Entered dv pv kv (readTiles x ks s).1 := by
  unfold readTiles
  try extract_lets
  repeat' first
    | with_reducible assumption
    | with_reducible refine Entered.iteFst ?_ ?_
    | with_reducible refine Entered.ite ?_ ?_
    | (guard_target = Entered _ _ _ (meetErrors ..).1; with_reducible apply meetErrors_entered)
    | with_reducible refine Entered.foldl (fun _ _ _ => ?_) ?_
    | with_reducible refine Entered.foldlFst (fun _ _ _ _ => ?_) ?_
    | extract_lets
    | dsimp only
    | split
    | dsimp +zetaDelta only

theorem opMapExportRead_entered {dv pv : DevState} {kv : Nat} (e : Env) {s : State} (hI : Entered dv pv kv s) : Entered dv pv kv (opMapExportRead e s).1 := by
  unfold opMapExportRead
  try extract_lets
  repeat' first
    | with_reducible assumption
    | with_reducible refine Entered.iteFst ?_ ?_
    | with_reducible refine Entered.ite ?_ ?_
    | dsimp only [deny, doneWith]
    | (guard_target = Entered _ _ _ (readTiles ..).1; with_reducible apply readTiles_entered)
    | (guard_target = Entered _ _ _ (State.onMap ..); with_reducible refine Entered.ofOnly ?_ (State.onMap_only ..))
    | extract_lets
    | dsimp only
    | split
    | dsimp +zetaDelta only

theorem opMapClear_entered {dv pv : DevState} {kv : Nat} (e : Env) {s : State} (hI : Entered dv pv kv s) : Entered dv pv kv (opMapClear e s).1 := by
  unfold opMapClear
  try extract_lets
  repeat' first
    | with_reducible assumption
    | with_reducible refine Entered.iteFst ?_ ?_
    | with_reducible refine Entered.ite ?_ ?_
    | dsimp only [deny, doneEdge]
    | (guard_target = Entered _ _ _ (waitEdge ..); with_reducible apply waitEdge_entered)
    | extract_lets
    | dsimp only
    | split
    | dsimp +zetaDelta only

theorem applyClear_entered {dv pv : DevState} {kv : Nat} (target layer : Nat) {s : State} (hI : Entered dv pv kv s) : Entered dv pv kv (applyClear target layer s) := by
  unfold applyClear
  try extract_lets
  repeat' first
    | with_reducible assumption
    | with_reducible refine Entered.ite ?_ ?_
    | (guard_target = Entered _ _ _ (clearCover ..); with_reducible apply clearCover_entered)
    | (guard_target = Entered _ _ _ (clearTint ..); with_reducible apply clearTint_entered)
    | (guard_target = Entered _ _ _ (noteRetired ..); with_reducible apply noteRetired_entered)
    | (guard_target = Entered _ _ _ (State.onMap ..); with_reducible refine Entered.ofOnly ?_ (State.onMap_only ..))
    | extract_lets
    | dsimp only
    | split
    | dsimp +zetaDelta only

theorem opMapLogRead_entered {dv pv : DevState} {kv : Nat} (e : Env) {s : State} (hI : Entered dv pv kv s) : Entered dv pv kv (opMapLogRead e s).1 := by
  unfold opMapLogRead
  try extract_lets
  repeat' first
    | with_reducible assumption
    | with_reducible refine Entered.iteFst ?_ ?_
    | with_reducible refine Entered.ite ?_ ?_
    | dsimp only [deny, doneWith]
    | (guard_target = Entered _ _ _ (meetErrors ..).1; with_reducible apply meetErrors_entered)
    | extract_lets
    | dsimp only
    | split
    | dsimp +zetaDelta only

theorem meetCopied_entered {dv pv : DevState} {kv : Nat}  {s : State} (hI : Entered dv pv kv s) : Entered dv pv kv (meetCopied s) := by
  unfold meetCopied
  try extract_lets
  repeat' first
    | with_reducible assumption
    | with_reducible refine Entered.ite ?_ ?_
    | (guard_target = Entered _ _ _ (meetErrors ..).1; with_reducible apply meetErrors_entered)
    | extract_lets
    | dsimp only
    | split
    | dsimp +zetaDelta only

theorem startMigration_entered {dv pv : DevState} {kv : Nat}  {s : State} (hI : Entered dv pv kv s) : Entered dv pv kv (startMigration s) := by
  unfold startMigration
  try extract_lets
  repeat' first
    | with_reducible assumption
    | with_reducible refine Entered.ite ?_ ?_
    | (guard_target = Entered _ _ _ (meetCopied ..); with_reducible apply meetCopied_entered)
    | (guard_target = Entered _ _ _ (poolLow ..); with_reducible apply poolLow_entered)
    | (guard_target = Entered _ _ _ (State.onMap ..); with_reducible refine Entered.ofOnly ?_ (State.onMap_only ..))
    | extract_lets
    | dsimp only
    | split
    | dsimp +zetaDelta only

theorem finishMigration_entered {dv pv : DevState} {kv : Nat}  {s0 : State} (hI : Entered dv pv kv s0) : Entered dv pv kv (finishMigration s0) := by
  unfold finishMigration
  try extract_lets
  repeat' first
    | with_reducible assumption
    | with_reducible refine Entered.ite ?_ ?_
    | (guard_target = Entered _ _ _ (noteRetired ..); with_reducible apply noteRetired_entered)
    | (guard_target = Entered _ _ _ (poolLow ..); with_reducible apply poolLow_entered)
    | (guard_target = Entered _ _ _ (State.onMap ..); with_reducible refine Entered.ofOnly ?_ (State.onMap_only ..))
    | extract_lets
    | dsimp only
    | split
    | dsimp +zetaDelta only

theorem execScrub_entered {dv pv : DevState} {kv : Nat} (errs : List EccIn) {s : State} (hI : Entered dv pv kv s) : EnteredR dv pv kv (execScrub errs s) := by
  unfold execScrub
  try extract_lets
  repeat' first
    | with_reducible assumption
    | with_reducible refine EnteredR.next ?_
    | with_reducible refine EnteredR.ite ?_ ?_
    | with_reducible refine Entered.ite ?_ ?_
    | (guard_target = Entered _ _ _ (meetErrors ..).1; with_reducible apply meetErrors_entered)
    | (guard_target = Entered _ _ _ (State.onMap ..); with_reducible refine Entered.ofOnly ?_ (State.onMap_only ..))
    | extract_lets
    | dsimp only
    | split
    | dsimp +zetaDelta only

theorem execMaskBuilt_entered {dv pv : DevState} {kv : Nat}  {s0 : State} (hI : Entered dv pv kv s0) : EnteredR dv pv kv (execMaskBuilt s0) := by
  unfold execMaskBuilt
  try extract_lets
  repeat' first
    | with_reducible assumption
    | with_reducible refine EnteredR.next ?_
    | with_reducible refine EnteredR.ite ?_ ?_
    | with_reducible refine Entered.ite ?_ ?_
    | (guard_target = Entered _ _ _ (meetErrors ..).1; with_reducible apply meetErrors_entered)
    | (guard_target = Entered _ _ _ (notice ..); with_reducible apply notice_entered)
    | (guard_target = Entered _ _ _ (State.onMap ..); with_reducible refine Entered.ofOnly ?_ (State.onMap_only ..))
    | extract_lets
    | dsimp only
    | split
    | dsimp +zetaDelta only

theorem execLoadTimeout_entered {dv pv : DevState} {kv : Nat}  {s : State} (hI : Entered dv pv kv s) : EnteredR dv pv kv (execLoadTimeout s) := by
  unfold execLoadTimeout
  try extract_lets
  repeat' first
    | with_reducible assumption
    | with_reducible refine EnteredR.next ?_
    | with_reducible refine EnteredR.ite ?_ ?_
    | with_reducible refine Entered.ite ?_ ?_
    | (guard_target = Entered _ _ _ (loadDone ..); with_reducible apply loadDone_entered)
    | (guard_target = Entered _ _ _ (State.onMap ..); with_reducible refine Entered.ofOnly ?_ (State.onMap_only ..))
    | extract_lets
    | dsimp only
    | split
    | dsimp +zetaDelta only

theorem execLogSeal_entered {dv pv : DevState} {kv : Nat}  {s : State} (hI : Entered dv pv kv s) : EnteredR dv pv kv (execLogSeal s) := by
  unfold execLogSeal
  try extract_lets
  repeat' first
    | with_reducible assumption
    | with_reducible refine EnteredR.next ?_
    | with_reducible refine EnteredR.ite ?_ ?_
    | with_reducible refine Entered.ite ?_ ?_
    | (guard_target = Entered _ _ _ (sealBlock ..); with_reducible apply sealBlock_entered)
    | extract_lets
    | dsimp only
    | split
    | dsimp +zetaDelta only

theorem execTrackRecord_entered {dv pv : DevState} {kv : Nat}  {s : State} (hI : Entered dv pv kv s) : EnteredR dv pv kv (execTrackRecord s) := by
  unfold execTrackRecord
  try extract_lets
  repeat' first
    | with_reducible assumption
    | with_reducible refine EnteredR.next ?_
    | with_reducible refine EnteredR.ite ?_ ?_
    | with_reducible refine Entered.ite ?_ ?_
    | (guard_target = Entered _ _ _ (writeLog ..); with_reducible apply writeLog_entered)
    | (guard_target = Entered _ _ _ (State.onMap ..); with_reducible refine Entered.ofOnly ?_ (State.onMap_only ..))
    | extract_lets
    | dsimp only
    | split
    | dsimp +zetaDelta only

theorem mapBecomesReady_entered {dv pv : DevState} {kv : Nat}  {s : State} (hI : Entered dv pv kv s) : Entered dv pv kv (mapBecomesReady s) := by
  unfold mapBecomesReady
  try extract_lets
  repeat' first
    | with_reducible assumption
    | with_reducible refine Entered.ite ?_ ?_
    | (guard_target = Entered _ _ _ (paintGap ..); with_reducible apply paintGap_entered)
    | (guard_target = Entered _ _ _ (State.onSys ..); refine Entered.onSys ?_ fun _ => ⟨rfl, rfl, rfl⟩)
    | (guard_target = Entered _ _ _ (State.onMap ..); with_reducible refine Entered.ofOnly ?_ (State.onMap_only ..))
    | extract_lets
    | dsimp only
    | split
    | dsimp +zetaDelta only

theorem changeOrigin_entered {dv pv : DevState} {kv : Nat} (o : Origin) {s : State} (hI : Entered dv pv kv s) : Entered dv pv kv (changeOrigin o s) := by
  unfold changeOrigin
  try extract_lets
  repeat' first
    | with_reducible assumption
    | with_reducible refine Entered.ite ?_ ?_
    | (guard_target = Entered _ _ _ (notice ..); with_reducible apply notice_entered)
    | (guard_target = Entered _ _ _ (startBuild ..); with_reducible refine Entered.ofOnly ?_ (startBuild_only ..))
    | (guard_target = Entered _ _ _ (writeLog ..); with_reducible apply writeLog_entered)
    | (guard_target = Entered _ _ _ (State.onPos ..); with_reducible refine Entered.ofOnly ?_ (State.onPos_only ..))
    | (guard_target = Entered _ _ _ (State.onMap ..); with_reducible refine Entered.ofOnly ?_ (State.onMap_only ..))
    | extract_lets
    | dsimp only
    | split
    | dsimp +zetaDelta only

theorem writeFiring_entered {dv pv : DevState} {kv : Nat} (c : Fin 96) (f0 : Firing) {s : State} (hI : Entered dv pv kv s) : Entered dv pv kv (writeFiring c f0 s) := by
  unfold writeFiring
  extract_lets b st f s0 s1 s2
  have h0 : Entered dv pv kv s0 := Entered.ite (Entered.ofOnly hI (modCh_only ..)) hI
  clear_value s0 st f
  have h1 : Entered dv pv kv s1 := Entered.ofOnly h0 (modBank_only ..)
  clear_value s1
  have h2 : Entered dv pv kv s2 := h1.ofOnly (State.onHost_only ..)
  clear_value s2
  cases st with
  | nil => exact h2
  | cons o l => exact Entered.ite h2 (paintGap_entered _ _ _ _ _ (notice_entered _ _ _ _ h2))

theorem learn_entered {dv pv : DevState} {kv : Nat} (i : Fin 160) (k : Fin 4) (m : Nat) {s : State} (hI : Entered dv pv kv s) : Entered dv pv kv (learn i k m s) := by
  unfold learn
  try extract_lets
  repeat' first
    | with_reducible assumption
    | with_reducible refine Entered.ite ?_ ?_
    | (guard_target = Entered _ _ _ (modLat ..); with_reducible refine Entered.ofOnly ?_ (modLat_only ..))
    | (guard_target = Entered _ _ _ (notice ..); with_reducible apply notice_entered)
    | extract_lets
    | dsimp only
    | split
    | dsimp +zetaDelta only

theorem contextFault_entered {dv pv : DevState} {kv : Nat} (c : Fin 96) (detail : Nat) {s : State} (hI : Entered dv pv kv s) : Entered dv pv kv (contextFault c detail s) := by
  unfold contextFault
  try extract_lets
  repeat' first
    | with_reducible assumption
    | with_reducible refine Entered.ite ?_ ?_
    | (guard_target = Entered _ _ _ (logFault ..); with_reducible apply logFault_entered)
    | (guard_target = Entered _ _ _ (State.onFe ..); with_reducible refine Entered.ofOnly ?_ (State.onFe_only ..))
    | extract_lets
    | dsimp only
    | split
    | dsimp +zetaDelta only

theorem countMiss_entered {dv pv : DevState} {kv : Nat} (c : Fin 96) {s : State} (hI : Entered dv pv kv s) : Entered dv pv kv (countMiss c s) := by
  unfold countMiss
  try extract_lets
  repeat' first
    | with_reducible assumption
    | with_reducible refine Entered.ite ?_ ?_
    | (guard_target = Entered _ _ _ (contextFault ..); with_reducible apply contextFault_entered)
    | (guard_target = Entered _ _ _ (modLat ..); with_reducible refine Entered.ofOnly ?_ (modLat_only ..))
    | (guard_target = Entered _ _ _ (notice ..); with_reducible apply notice_entered)
    | extract_lets
    | dsimp only
    | split
    | dsimp +zetaDelta only

theorem endSearch_entered {dv pv : DevState} {kv : Nat} (c : Fin 96) (t : Tick) {s : State} (hI : Entered dv pv kv s) : Entered dv pv kv (endSearch c t s) := by
  unfold endSearch
  try extract_lets
  repeat' first
    | with_reducible assumption
    | with_reducible refine Entered.ite ?_ ?_
    | (guard_target = Entered _ _ _ (countMiss ..); with_reducible apply countMiss_entered)
    | (guard_target = Entered _ _ _ (modCh ..); with_reducible refine Entered.ofOnly ?_ (modCh_only ..))
    | (guard_target = Entered _ _ _ (writeFiring ..); with_reducible apply writeFiring_entered)
    | extract_lets
    | dsimp only
    | split
    | dsimp +zetaDelta only

theorem beginPullIn_entered {dv pv : DevState} {kv : Nat} (c : Fin 96) (t : Tick) {s : State} (hI : Entered dv pv kv s) : Entered dv pv kv (beginPullIn c t s) := by
  unfold beginPullIn
  try extract_lets
  repeat' first
    | with_reducible assumption
    | with_reducible refine Entered.ite ?_ ?_
    | (guard_target = Entered _ _ _ (modCh ..); with_reducible refine Entered.ofOnly ?_ (modCh_only ..))
    | (guard_target = Entered _ _ _ (modProt ..); with_reducible refine Entered.ofOnly ?_ (modProt_only ..))
    | (guard_target = Entered _ _ _ (writeFiring ..); with_reducible apply writeFiring_entered)
    | extract_lets
    | dsimp only
    | split
    | dsimp +zetaDelta only

theorem placeStart_entered {dv pv : DevState} {kv : Nat} (c : Fin 96) (d t len : Tick) (battery opener cut beyond recommand indet : Bool) {s : State} (hI : Entered dv pv kv s) : Entered dv pv kv (placeStart c d t len battery opener cut beyond recommand indet s) := by
  unfold placeStart
  try extract_lets
  repeat' first
    | with_reducible assumption
    | with_reducible refine Entered.ite ?_ ?_
    | (guard_target = Entered _ _ _ (beginPullIn ..); with_reducible apply beginPullIn_entered)
    | (guard_target = Entered _ _ _ (modCh ..); with_reducible refine Entered.ofOnly ?_ (modCh_only ..))
    | extract_lets
    | dsimp only
    | split
    | dsimp +zetaDelta only

theorem startChannel_entered {dv pv : DevState} {kv : Nat} (c : Fin 96) (d : Tick) (recommand indet : Bool) {s : State} (hI : Entered dv pv kv s) : Entered dv pv kv (startChannel c d recommand indet s).1 := by
  unfold startChannel
  try extract_lets
  repeat' first
    | with_reducible assumption
    | with_reducible refine Entered.iteFst ?_ ?_
    | with_reducible refine Entered.ite ?_ ?_
    | (guard_target = Entered _ _ _ (modBank ..); with_reducible refine Entered.ofOnly ?_ (modBank_only ..))
    | (guard_target = Entered _ _ _ (notice ..); with_reducible apply notice_entered)
    | (guard_target = Entered _ _ _ (placeStart ..); with_reducible apply placeStart_entered)
    | extract_lets
    | dsimp only
    | split
    | dsimp +zetaDelta only

theorem beginDecay_entered {dv pv : DevState} {kv : Nat} (c : Fin 96) (t : Tick) (wasHeld clamp stage : Bool) {s : State} (hI : Entered dv pv kv s) : Entered dv pv kv (beginDecay c t wasHeld clamp stage s) := by
  unfold beginDecay
  try extract_lets
  repeat' first
    | with_reducible assumption
    | with_reducible refine Entered.ite ?_ ?_
    | (guard_target = Entered _ _ _ (endSearch ..); with_reducible apply endSearch_entered)
    | (guard_target = Entered _ _ _ (modCh ..); with_reducible refine Entered.ofOnly ?_ (modCh_only ..))
    | (guard_target = Entered _ _ _ (modProt ..); with_reducible refine Entered.ofOnly ?_ (modProt_only ..))
    | extract_lets
    | dsimp only
    | split
    | dsimp +zetaDelta only

theorem dueStart_entered {dv pv : DevState} {kv : Nat} (c : Fin 96) {s : State} (hI : Entered dv pv kv s) : Entered dv pv kv (dueStart c s).1 := by
  unfold dueStart
  try extract_lets
  repeat' first
    | with_reducible assumption
    | with_reducible refine Entered.iteFst ?_ ?_
    | with_reducible refine Entered.ite ?_ ?_
    | (guard_target = Entered _ _ _ (beginPullIn ..); with_reducible apply beginPullIn_entered)
    | (guard_target = Entered _ _ _ (modCh ..); with_reducible refine Entered.ofOnly ?_ (modCh_only ..))
    | (guard_target = Entered _ _ _ (startChannel ..).1; with_reducible apply startChannel_entered)
    | extract_lets
    | dsimp only
    | split
    | dsimp +zetaDelta only

theorem offRequest_entered {dv pv : DevState} {kv : Nat} (c : Fin 96) (t : Tick) (stage : Bool) {s : State} (hI : Entered dv pv kv s) : Entered dv pv kv (offRequest c t stage s) := by
  unfold offRequest
  try extract_lets
  repeat' first
    | with_reducible assumption
    | with_reducible refine Entered.ite ?_ ?_
    | (guard_target = Entered _ _ _ (beginDecay ..); with_reducible apply beginDecay_entered)
    | (guard_target = Entered _ _ _ (cancelStart ..); with_reducible refine Entered.ofOnly ?_ (cancelStart_only ..))
    | (guard_target = Entered _ _ _ (dueStart ..).1; with_reducible apply dueStart_entered)
    | (guard_target = Entered _ _ _ (hold ..); with_reducible refine Entered.ofOnly ?_ (hold_only ..))
    | (guard_target = Entered _ _ _ (modCh ..); with_reducible refine Entered.ofOnly ?_ (modCh_only ..))
    | extract_lets
    | dsimp only
    | split
    | dsimp +zetaDelta only

theorem forceOff_entered {dv pv : DevState} {kv : Nat} (c : Fin 96) (t : Tick) {s : State} (hI : Entered dv pv kv s) : Entered dv pv kv (forceOff c t s) := by
  unfold forceOff
  try extract_lets
  repeat' first
    | with_reducible assumption
    | with_reducible refine Entered.ite ?_ ?_
    | (guard_target = Entered _ _ _ (beginDecay ..); with_reducible apply beginDecay_entered)
    | (guard_target = Entered _ _ _ (cancelStart ..); with_reducible refine Entered.ofOnly ?_ (cancelStart_only ..))
    | (guard_target = Entered _ _ _ (hold ..); with_reducible refine Entered.ofOnly ?_ (hold_only ..))
    | (guard_target = Entered _ _ _ (modCh ..); with_reducible refine Entered.ofOnly ?_ (modCh_only ..))
    | extract_lets
    | dsimp only
    | split
    | dsimp +zetaDelta only

theorem startRequest_entered {dv pv : DevState} {kv : Nat} (c : Fin 96) (d : Tick) {s : State} (hI : Entered dv pv kv s) : Entered dv pv kv (startRequest c d s).1 := by
  unfold startRequest
  try extract_lets
  repeat' first
    | with_reducible assumption
    | with_reducible refine Entered.iteFst ?_ ?_
    | with_reducible refine Entered.ite ?_ ?_
    | (guard_target = Entered _ _ _ (hold ..); with_reducible refine Entered.ofOnly ?_ (hold_only ..))
    | (guard_target = Entered _ _ _ (modCh ..); with_reducible refine Entered.ofOnly ?_ (modCh_only ..))
    | (guard_target = Entered _ _ _ (startChannel ..).1; with_reducible apply startChannel_entered)
    | extract_lets
    | dsimp only
    | split
    | dsimp +zetaDelta only

theorem contextClear_entered {dv pv : DevState} {kv : Nat} (c : Fin 96) {s : State} (hI : Entered dv pv kv s) : Entered dv pv kv (contextClear c s) := by
  unfold contextClear
  try extract_lets
  repeat' first
    | with_reducible assumption
    | with_reducible refine Entered.ite ?_ ?_
    | (guard_target = Entered _ _ _ (endFault ..); with_reducible apply endFault_entered)
    | extract_lets
    | dsimp only
    | split
    | dsimp +zetaDelta only

theorem finishRetry_entered {dv pv : DevState} {kv : Nat} (c : Fin 96) {s : State} (hI : Entered dv pv kv s) : Entered dv pv kv (finishRetry c s) := by
  unfold finishRetry
  try extract_lets
  repeat' first
    | with_reducible assumption
    | with_reducible refine Entered.ite ?_ ?_
    | (guard_target = Entered _ _ _ (contextClear ..); with_reducible apply contextClear_entered)
    | (guard_target = Entered _ _ _ (modProt ..); with_reducible refine Entered.ofOnly ?_ (modProt_only ..))
    | extract_lets
    | dsimp only
    | split
    | dsimp +zetaDelta only

theorem finishDecay_entered {dv pv : DevState} {kv : Nat} (c : Fin 96) (t : Tick) (measured : Bool) {s : State} (hI : Entered dv pv kv s) : Entered dv pv kv (finishDecay c t measured s).1 := by
  unfold finishDecay
  try extract_lets
  repeat' first
    | with_reducible assumption
    | with_reducible refine Entered.iteFst ?_ ?_
    | with_reducible refine Entered.ite ?_ ?_
    | (guard_target = Entered _ _ _ (finishRetry ..); with_reducible apply finishRetry_entered)
    | (guard_target = Entered _ _ _ (modCh ..); with_reducible refine Entered.ofOnly ?_ (modCh_only ..))
    | (guard_target = Entered _ _ _ (settleConv ..); with_reducible refine Entered.ofOnly ?_ (settleConv_only ..))
    | (guard_target = Entered _ _ _ (startChannel ..).1; with_reducible apply startChannel_entered)
    | extract_lets
    | dsimp only
    | split
    | dsimp +zetaDelta only

theorem isolateBank_entered {dv pv : DevState} {kv : Nat} (b : Fin 12) (cause : Nat) {s : State} (hI : Entered dv pv kv s) : Entered dv pv kv (isolateBank b cause s) := by
  unfold isolateBank
  try extract_lets
  repeat' first
    | with_reducible assumption
    | with_reducible refine Entered.ite ?_ ?_
    | (guard_target = Entered _ _ _ (forceOff ..); with_reducible apply forceOff_entered)
    | (guard_target = Entered _ _ _ (modBank ..); with_reducible refine Entered.ofOnly ?_ (modBank_only ..))
    | (guard_target = Entered _ _ _ (notice ..); with_reducible apply notice_entered)
    | with_reducible refine Entered.foldl (fun _ _ _ => ?_) ?_
    | with_reducible refine Entered.foldlFst (fun _ _ _ _ => ?_) ?_
    | extract_lets
    | dsimp only
    | split
    | dsimp +zetaDelta only

theorem trigCount_entered {dv pv : DevState} {kv : Nat} (j : Fin 4) (t : Tick) (tap : Nat) {s : State} (hI : Entered dv pv kv s) : Entered dv pv kv (trigCount j t tap s) := by
  unfold trigCount
  try extract_lets
  repeat' first
    | with_reducible assumption
    | with_reducible refine Entered.ite ?_ ?_
    | (guard_target = Entered _ _ _ (modTrig ..); with_reducible refine Entered.ofOnly ?_ (modTrig_only ..))
    | (guard_target = Entered _ _ _ (notice ..); with_reducible apply notice_entered)
    | extract_lets
    | dsimp only
    | split
    | dsimp +zetaDelta only

theorem trigSource_entered {dv pv : DevState} {kv : Nat} (kind k : Nat) (t : Tick) (tap : Nat) {s : State} (hI : Entered dv pv kv s) : Entered dv pv kv (trigSource kind k t tap s) := by
  unfold trigSource
  try extract_lets
  repeat' first
    | with_reducible assumption
    | with_reducible refine Entered.ite ?_ ?_
    | (guard_target = Entered _ _ _ (trigCount ..); with_reducible apply trigCount_entered)
    | with_reducible refine Entered.foldl (fun _ _ _ => ?_) ?_
    | with_reducible refine Entered.foldlFst (fun _ _ _ _ => ?_) ?_
    | extract_lets
    | dsimp only
    | split
    | dsimp +zetaDelta only

theorem execBankBoundary_entered {dv pv : DevState} {kv : Nat} (b : Fin 12) {s : State} (hI : Entered dv pv kv s) : EnteredR dv pv kv (execBankBoundary b s) := by
  unfold execBankBoundary
  try extract_lets
  repeat' first
    | with_reducible assumption
    | with_reducible refine EnteredR.next ?_
    | with_reducible refine EnteredR.ite ?_ ?_
    | with_reducible refine Entered.ite ?_ ?_
    | (guard_target = Entered _ _ _ (modGrid ..); with_reducible refine Entered.ofOnly ?_ (modGrid_only ..))
    | (guard_target = Entered _ _ _ (trigSource ..); with_reducible apply trigSource_entered)
    | extract_lets
    | dsimp only
    | split
    | dsimp +zetaDelta only

theorem genStart_entered {dv pv : DevState} {kv : Nat} (c : Fin 96) (t : Tick) {s : State} (hI : Entered dv pv kv s) : Entered dv pv kv (genStart c t s) := by
  unfold genStart
  try extract_lets
  repeat' first
    | with_reducible assumption
    | with_reducible refine Entered.ite ?_ ?_
    | (guard_target = Entered _ _ _ (modNoz ..); with_reducible refine Entered.ofOnly ?_ (modNoz_only ..))
    | (guard_target = Entered _ _ _ (scheduleClose ..); with_reducible refine Entered.ofOnly ?_ (scheduleClose_only ..))
    | (guard_target = Entered _ _ _ (startRequest ..).1; with_reducible apply startRequest_entered)
    | extract_lets
    | dsimp only
    | split
    | dsimp +zetaDelta only

theorem genOn_entered {dv pv : DevState} {kv : Nat} (c : Fin 96) (d : Tick) {s : State} (hI : Entered dv pv kv s) : Entered dv pv kv (genOn c d s) := by
  unfold genOn
  try extract_lets
  repeat' first
    | with_reducible assumption
    | with_reducible refine Entered.ite ?_ ?_
    | (guard_target = Entered _ _ _ (genStart ..); with_reducible apply genStart_entered)
    | (guard_target = Entered _ _ _ (hold ..); with_reducible refine Entered.ofOnly ?_ (hold_only ..))
    | (guard_target = Entered _ _ _ (modCh ..); with_reducible refine Entered.ofOnly ?_ (modCh_only ..))
    | (guard_target = Entered _ _ _ (modNoz ..); with_reducible refine Entered.ofOnly ?_ (modNoz_only ..))
    | (guard_target = Entered _ _ _ (reloadNoz ..); with_reducible refine Entered.ofOnly ?_ (reloadNoz_only ..))
    | extract_lets
    | dsimp only
    | split
    | dsimp +zetaDelta only

theorem execGridOpening_entered {dv pv : DevState} {kv : Nat} (c : Fin 96) {s : State} (hI : Entered dv pv kv s) : EnteredR dv pv kv (execGridOpening c s) := by
  unfold execGridOpening
  try extract_lets
  repeat' first
    | with_reducible assumption
    | with_reducible refine EnteredR.next ?_
    | with_reducible refine EnteredR.ite ?_ ?_
    | with_reducible refine Entered.ite ?_ ?_
    | (guard_target = Entered _ _ _ (genStart ..); with_reducible apply genStart_entered)
    | (guard_target = Entered _ _ _ (modNoz ..); with_reducible refine Entered.ofOnly ?_ (modNoz_only ..))
    | (guard_target = Entered _ _ _ (offRequest ..); with_reducible apply offRequest_entered)
    | (guard_target = Entered _ _ _ (reloadNoz ..); with_reducible refine Entered.ofOnly ?_ (reloadNoz_only ..))
    | (guard_target = Entered _ _ _ (trigSource ..); with_reducible apply trigSource_entered)
    | (guard_target = Entered _ _ _ (State.onTime ..); with_reducible refine Entered.ofOnly ?_ (State.onTime_only ..))
    | extract_lets
    | dsimp only
    | split
    | dsimp +zetaDelta only

theorem execGridClosing_entered {dv pv : DevState} {kv : Nat} (c : Fin 96) {s : State} (hI : Entered dv pv kv s) : EnteredR dv pv kv (execGridClosing c s) := by
  unfold execGridClosing
  try extract_lets
  repeat' first
    | with_reducible assumption
    | with_reducible refine EnteredR.next ?_
    | with_reducible refine EnteredR.ite ?_ ?_
    | with_reducible refine Entered.ite ?_ ?_
    | (guard_target = Entered _ _ _ (modNoz ..); with_reducible refine Entered.ofOnly ?_ (modNoz_only ..))
    | (guard_target = Entered _ _ _ (offRequest ..); with_reducible apply offRequest_entered)
    | (guard_target = Entered _ _ _ (trigSource ..); with_reducible apply trigSource_entered)
    | extract_lets
    | dsimp only
    | split
    | dsimp +zetaDelta only

theorem fineTrigger_entered {dv pv : DevState} {kv : Nat} (g : Fin 8) (kind u : Nat) {s : State} (hI : Entered dv pv kv s) : Entered dv pv kv (fineTrigger g kind u s) := by
  unfold fineTrigger
  try extract_lets
  repeat' first
    | with_reducible assumption
    | with_reducible refine Entered.ite ?_ ?_
    | (guard_target = Entered _ _ _ (modFine ..); with_reducible refine Entered.ofOnly ?_ (modFine_only ..))
    | (guard_target = Entered _ _ _ (trigCount ..); with_reducible apply trigCount_entered)
    | (guard_target = Entered _ _ _ (trigSource ..); with_reducible apply trigSource_entered)
    | extract_lets
    | dsimp only
    | split
    | dsimp +zetaDelta only

theorem finePeak_entered {dv pv : DevState} {kv : Nat} (g : Fin 8) {s : State} (hI : Entered dv pv kv s) : Entered dv pv kv (finePeak g s) := by
  unfold finePeak
  try extract_lets
  repeat' first
    | with_reducible assumption
    | with_reducible refine Entered.ite ?_ ?_
    | (guard_target = Entered _ _ _ (fineTrigger ..); with_reducible apply fineTrigger_entered)
    | (guard_target = Entered _ _ _ (modFine ..); with_reducible refine Entered.ofOnly ?_ (modFine_only ..))
    | extract_lets
    | dsimp only
    | split
    | dsimp +zetaDelta only

theorem finePeaks_entered {dv pv : DevState} {kv : Nat}  {s : State} (hI : Entered dv pv kv s) : Entered dv pv kv (finePeaks s) := by
  unfold finePeaks
  try extract_lets
  repeat' first
    | with_reducible assumption
    | with_reducible refine Entered.ite ?_ ?_
    | (guard_target = Entered _ _ _ (finePeak ..); with_reducible apply finePeak_entered)
    | with_reducible refine Entered.foldl (fun _ _ _ => ?_) ?_
    | with_reducible refine Entered.foldlFst (fun _ _ _ _ => ?_) ?_
    | extract_lets
    | dsimp only
    | split
    | dsimp +zetaDelta only

theorem execTrigOutPulse_entered {dv pv : DevState} {kv : Nat} (j : Fin 4) {s0 : State} (hI : Entered dv pv kv s0) : EnteredR dv pv kv (execTrigOutPulse j s0) := by
  unfold execTrigOutPulse
  try extract_lets
  repeat' first
    | with_reducible assumption
    | with_reducible refine EnteredR.next ?_
    | with_reducible refine EnteredR.ite ?_ ?_
    | with_reducible refine Entered.ite ?_ ?_
    | (guard_target = Entered _ _ _ (finePeaks ..); with_reducible apply finePeaks_entered)
    | (guard_target = Entered _ _ _ (modTrig ..); with_reducible refine Entered.ofOnly ?_ (modTrig_only ..))
    | extract_lets
    | dsimp only
    | split
    | dsimp +zetaDelta only

theorem finePeriodBegun_entered {dv pv : DevState} {kv : Nat} (g : Fin 8) (was : Fine) (split : Bool) (r : Nat) {s : State} (hI : Entered dv pv kv s) : Entered dv pv kv (finePeriodBegun g was split r s) := by
  unfold finePeriodBegun
  try extract_lets
  repeat' first
    | with_reducible assumption
    | with_reducible refine Entered.ite ?_ ?_
    | (guard_target = Entered _ _ _ (fineTrigger ..); with_reducible apply fineTrigger_entered)
    | (guard_target = Entered _ _ _ (notice ..); with_reducible apply notice_entered)
    | extract_lets
    | dsimp only
    | split
    | dsimp +zetaDelta only

theorem execFinePeriodStart_entered {dv pv : DevState} {kv : Nat} (g : Fin 8) {s0 : State} (hI : Entered dv pv kv s0) : EnteredR dv pv kv (execFinePeriodStart g s0) := by
  unfold execFinePeriodStart
  try extract_lets
  repeat' first
    | with_reducible assumption
    | with_reducible refine EnteredR.next ?_
    | with_reducible refine EnteredR.ite ?_ ?_
    | with_reducible refine Entered.ite ?_ ?_
    | (guard_target = Entered _ _ _ (finePeak ..); with_reducible apply finePeak_entered)
    | (guard_target = Entered _ _ _ (finePeriodBegun ..); with_reducible apply finePeriodBegun_entered)
    | (guard_target = Entered _ _ _ (fineTrigger ..); with_reducible apply fineTrigger_entered)
    | (guard_target = Entered _ _ _ (modFine ..); with_reducible refine Entered.ofOnly ?_ (modFine_only ..))
    | (guard_target = Entered _ _ _ (trigCount ..); with_reducible apply trigCount_entered)
    | extract_lets
    | dsimp only
    | split
    | dsimp +zetaDelta only

theorem execGateTransition_entered {dv pv : DevState} {kv : Nat} (g : Fin 8) (rising : Bool) (cross : Option Nat) {s0 : State} (hI : Entered dv pv kv s0) : EnteredR dv pv kv (execGateTransition g rising cross s0) := by
  unfold execGateTransition
  try extract_lets
  repeat' first
    | with_reducible assumption
    | with_reducible refine EnteredR.next ?_
    | with_reducible refine EnteredR.ite ?_ ?_
    | with_reducible refine Entered.ite ?_ ?_
    | (guard_target = Entered _ _ _ (finePeak ..); with_reducible apply finePeak_entered)
    | (guard_target = Entered _ _ _ (fineTrigger ..); with_reducible apply fineTrigger_entered)
    | (guard_target = Entered _ _ _ (modFine ..); with_reducible refine Entered.ofOnly ?_ (modFine_only ..))
    | (guard_target = Entered _ _ _ (notice ..); with_reducible apply notice_entered)
    | extract_lets
    | dsimp only
    | split
    | dsimp +zetaDelta only

theorem commitPwu_entered {dv pv : DevState} {kv : Nat} (e : Tick) (old : Params) {s : State} (hI : Entered dv pv kv s) : Entered dv pv kv (commitPwu e old s) := by
  unfold commitPwu
  try extract_lets
  repeat' first
    | with_reducible assumption
    | with_reducible refine Entered.ite ?_ ?_
    | (guard_target = Entered _ _ _ (finePeriodBegun ..); with_reducible apply finePeriodBegun_entered)
    | (guard_target = Entered _ _ _ (State.onPwu ..); with_reducible refine Entered.ofOnly ?_ (State.onPwu_only ..))
    | with_reducible refine Entered.foldl (fun _ _ _ => ?_) ?_
    | with_reducible refine Entered.foldlFst (fun _ _ _ _ => ?_) ?_
    | extract_lets
    | dsimp only
    | split
    | dsimp +zetaDelta only

theorem emuUpdate_entered {dv pv : DevState} {kv : Nat} (x : Fin 2) (f : Emu → Emu) {s : State} (hI : Entered dv pv kv s) : Entered dv pv kv (emuUpdate x f s) := by
  unfold emuUpdate
  try extract_lets
  repeat' first
    | with_reducible assumption
    | with_reducible refine Entered.ite ?_ ?_
    | (guard_target = Entered _ _ _ (modEmu ..); with_reducible refine Entered.ofOnly ?_ (modEmu_only ..))
    | (guard_target = Entered _ _ _ (notice ..); with_reducible apply notice_entered)
    | extract_lets
    | dsimp only
    | split
    | dsimp +zetaDelta only

theorem emuFollow_entered {dv pv : DevState} {kv : Nat} (i : Fin 4) (d : Int) {s : State} (hI : Entered dv pv kv s) : Entered dv pv kv (emuFollow i d s) := by
  unfold emuFollow
  try extract_lets
  repeat' first
    | with_reducible assumption
    | with_reducible refine Entered.ite ?_ ?_
    | (guard_target = Entered _ _ _ (emuUpdate ..); with_reducible apply emuUpdate_entered)
    | with_reducible refine Entered.foldl (fun _ _ _ => ?_) ?_
    | with_reducible refine Entered.foldlFst (fun _ _ _ _ => ?_) ?_
    | extract_lets
    | dsimp only
    | split
    | dsimp +zetaDelta only

theorem execEmuOutputStep_entered {dv pv : DevState} {kv : Nat} (x : Fin 2) {s : State} (hI : Entered dv pv kv s) : EnteredR dv pv kv (execEmuOutputStep x s) := by
  unfold execEmuOutputStep
  try extract_lets
  repeat' first
    | with_reducible assumption
    | with_reducible refine EnteredR.next ?_
    | with_reducible refine EnteredR.ite ?_ ?_
    | dsimp only [id]
    | with_reducible refine Entered.ite ?_ ?_
    | (guard_target = Entered _ _ _ (emuUpdate ..); with_reducible apply emuUpdate_entered)
    | extract_lets
    | dsimp only
    | split
    | dsimp +zetaDelta only

theorem emuAtEdge_entered {dv pv : DevState} {kv : Nat} (e : Tick) {s : State} (hI : Entered dv pv kv s) : Entered dv pv kv (emuAtEdge e s) := by
  unfold emuAtEdge
  try extract_lets
  repeat' first
    | with_reducible assumption
    | with_reducible refine Entered.ite ?_ ?_
    | (guard_target = Entered _ _ _ (modEmu ..); with_reducible refine Entered.ofOnly ?_ (modEmu_only ..))
    | (guard_target = Entered _ _ _ (notice ..); with_reducible apply notice_entered)
    | with_reducible refine Entered.foldl (fun _ _ _ => ?_) ?_
    | with_reducible refine Entered.foldlFst (fun _ _ _ _ => ?_) ?_
    | extract_lets
    | dsimp only
    | split
    | dsimp +zetaDelta only

theorem quadStep_entered {dv pv : DevState} {kv : Nat} (i : Fin 4) (t : Tick) (ba : Nat) {s : State} (hI : Entered dv pv kv s) : Entered dv pv kv (quadStep i t ba s) := by
  unfold quadStep
  try extract_lets
  repeat' first
    | with_reducible assumption
    | with_reducible refine Entered.ite ?_ ?_
    | (guard_target = Entered _ _ _ (emuFollow ..); with_reducible apply emuFollow_entered)
    | (guard_target = Entered _ _ _ (modEnc ..); with_reducible refine Entered.ofOnly ?_ (modEnc_only ..))
    | (guard_target = Entered _ _ _ (noticeAt ..); with_reducible apply noticeAt_entered)
    | extract_lets
    | dsimp only
    | split
    | dsimp +zetaDelta only

theorem execEncoderTransition_entered {dv pv : DevState} {kv : Nat} (i : Fin 4) (ba : BitVec 2) {s : State} (hI : Entered dv pv kv s) : EnteredR dv pv kv (execEncoderTransition i ba s) := by
  unfold execEncoderTransition
  try extract_lets
  repeat' first
    | with_reducible assumption
    | with_reducible refine EnteredR.next ?_
    | with_reducible refine EnteredR.ite ?_ ?_
    | with_reducible refine Entered.ite ?_ ?_
    | (guard_target = Entered _ _ _ (quadStep ..); with_reducible apply quadStep_entered)
    | extract_lets
    | dsimp only
    | split
    | dsimp +zetaDelta only

theorem execIndex_entered {dv pv : DevState} {kv : Nat} (i : Fin 4) (ba : BitVec 2) {s : State} (hI : Entered dv pv kv s) : EnteredR dv pv kv (execIndex i ba s) := by
  unfold execIndex
  try extract_lets
  repeat' first
    | with_reducible assumption
    | with_reducible refine EnteredR.next ?_
    | with_reducible refine EnteredR.ite ?_ ?_
    | with_reducible refine Entered.ite ?_ ?_
    | (guard_target = Entered _ _ _ (modEnc ..); with_reducible refine Entered.ofOnly ?_ (modEnc_only ..))
    | (guard_target = Entered _ _ _ (quadStep ..); with_reducible apply quadStep_entered)
    | extract_lets
    | dsimp only
    | split
    | dsimp +zetaDelta only

theorem hallStep_entered {dv pv : DevState} {kv : Nat} (i : Fin 4) (at_ : Tick) (w : Nat) {s : State} (hI : Entered dv pv kv s) : Entered dv pv kv (hallStep i at_ w s) := by
  unfold hallStep
  try extract_lets
  repeat' first
    | with_reducible assumption
    | with_reducible refine Entered.ite ?_ ?_
    | (guard_target = Entered _ _ _ (modHall ..); with_reducible refine Entered.ofOnly ?_ (modHall_only ..))
    | (guard_target = Entered _ _ _ (noticeAt ..); with_reducible apply noticeAt_entered)
    | extract_lets
    | dsimp only
    | split
    | dsimp +zetaDelta only

theorem execHallTransition_entered {dv pv : DevState} {kv : Nat} (i : Fin 4) (wvu : BitVec 3) {s : State} (hI : Entered dv pv kv s) : EnteredR dv pv kv (execHallTransition i wvu s) := by
  unfold execHallTransition
  try extract_lets
  repeat' first
    | with_reducible assumption
    | with_reducible refine EnteredR.next ?_
    | with_reducible refine EnteredR.ite ?_ ?_
    | with_reducible refine Entered.ite ?_ ?_
    | (guard_target = Entered _ _ _ (hallStep ..); with_reducible apply hallStep_entered)
    | (guard_target = Entered _ _ _ (modHall ..); with_reducible refine Entered.ofOnly ?_ (modHall_only ..))
    | extract_lets
    | dsimp only
    | split
    | dsimp +zetaDelta only

theorem execHallIllegal_entered {dv pv : DevState} {kv : Nat} (i : Fin 4) {s : State} (hI : Entered dv pv kv s) : EnteredR dv pv kv (execHallIllegal i s) := by
  unfold execHallIllegal
  try extract_lets
  repeat' first
    | with_reducible assumption
    | with_reducible refine EnteredR.next ?_
    | with_reducible refine EnteredR.ite ?_ ?_
    | with_reducible refine Entered.ite ?_ ?_
    | (guard_target = Entered _ _ _ (modHall ..); with_reducible refine Entered.ofOnly ?_ (modHall_only ..))
    | (guard_target = Entered _ _ _ (notice ..); with_reducible apply notice_entered)
    | extract_lets
    | dsimp only
    | split
    | dsimp +zetaDelta only

theorem execFreqEdge_entered {dv pv : DevState} {kv : Nat} (i : Fin 16) {s0 : State} (hI : Entered dv pv kv s0) : EnteredR dv pv kv (execFreqEdge i s0) := by
  unfold execFreqEdge
  try extract_lets
  repeat' first
    | with_reducible assumption
    | with_reducible refine EnteredR.next ?_
    | with_reducible refine EnteredR.ite ?_ ?_
    | with_reducible refine Entered.ite ?_ ?_
    | (guard_target = Entered _ _ _ (modFreq ..); with_reducible refine Entered.ofOnly ?_ (modFreq_only ..))
    | (guard_target = Entered _ _ _ (noticeAt ..); with_reducible apply noticeAt_entered)
    | extract_lets
    | dsimp only
    | split
    | dsimp +zetaDelta only

theorem execEventEdge_entered {dv pv : DevState} {kv : Nat} (i : Fin 8) (falling : Bool) {s0 : State} (hI : Entered dv pv kv s0) : EnteredR dv pv kv (execEventEdge i falling s0) := by
  unfold execEventEdge
  try extract_lets
  repeat' first
    | with_reducible assumption
    | with_reducible refine EnteredR.next ?_
    | with_reducible refine EnteredR.ite ?_ ?_
    | with_reducible refine Entered.ite ?_ ?_
    | (guard_target = Entered _ _ _ (modEvt ..); with_reducible refine Entered.ofOnly ?_ (modEvt_only ..))
    | (guard_target = Entered _ _ _ (notice ..); with_reducible apply notice_entered)
    | extract_lets
    | dsimp only
    | split
    | dsimp +zetaDelta only

theorem execAnalogConversion_entered {dv pv : DevState} {kv : Nat} (i : Fin 32) (mv : BitVec 16) {s0 : State} (hI : Entered dv pv kv s0) : EnteredR dv pv kv (execAnalogConversion i mv s0) := by
  unfold execAnalogConversion
  dsimp only
  split
  · refine EnteredR.ite (EnteredR.next ?_) (EnteredR.next hI)
    have h1 (f) : Entered dv pv kv (modAin i f (finePeaks s0)) := (finePeaks_entered hI).ofOnly (modAin_only ..)
    exact Entered.ite (notice_entered _ _ _ _ (h1 _)) (h1 _)
  · exact EnteredR.next hI

theorem opPifEncSet_entered {dv pv : DevState} {kv : Nat} (e : Env) {s : State} (hI : Entered dv pv kv s) : Entered dv pv kv (opPifEncSet e s).1 := by
  unfold opPifEncSet
  try extract_lets
  repeat' first
    | with_reducible assumption
    | with_reducible refine Entered.iteFst ?_ ?_
    | with_reducible refine Entered.ite ?_ ?_
    | dsimp only [deny, doneEdge]
    | (guard_target = Entered _ _ _ (waitEdge ..); with_reducible apply waitEdge_entered)
    | extract_lets
    | dsimp only
    | split
    | dsimp +zetaDelta only

theorem seedCtx_entered {dv pv : DevState} {kv : Nat} (i : Fin 160) (v : List Nat) {s : State} (hI : Entered dv pv kv s) : Entered dv pv kv (seedCtx i v s) := by
  unfold seedCtx
  try extract_lets
  repeat' first
    | with_reducible assumption
    | with_reducible refine Entered.ite ?_ ?_
    | (guard_target = Entered _ _ _ (endFault ..); with_reducible apply endFault_entered)
    | (guard_target = Entered _ _ _ (contextClear ..); with_reducible apply contextClear_entered)
    | (guard_target = Entered _ _ _ (modLat ..); with_reducible refine Entered.ofOnly ?_ (modLat_only ..))
    | extract_lets
    | dsimp only
    | split
    | dsimp +zetaDelta only

theorem applyImpl_entered {dv pv : DevState} {kv : Nat} (n : ImplSet) {s : State} (hI : Entered dv pv kv s) : Entered dv pv kv (applyImpl n s) := by
  unfold applyImpl
  try extract_lets
  repeat' first
    | with_reducible assumption
    | with_reducible refine Entered.ite ?_ ?_
    | (guard_target = Entered _ _ _ (seedCtx ..); with_reducible apply seedCtx_entered)
    | (guard_target = Entered _ _ _ (State.onNor ..); with_reducible refine Entered.ofOnly ?_ (State.onNor_only ..))
    | (guard_target = Entered _ _ _ (State.onImpl ..); with_reducible refine Entered.ofOnly ?_ (State.onImpl_only ..))
    | with_reducible refine Entered.foldl (fun _ _ _ => ?_) ?_
    | with_reducible refine Entered.foldlFst (fun _ _ _ _ => ?_) ?_
    | extract_lets
    | dsimp only
    | split
    | dsimp +zetaDelta only

theorem opImplCommit_entered {dv pv : DevState} {kv : Nat} (e : Env) {s : State} (hI : Entered dv pv kv s) : Entered dv pv kv (opImplCommit e s).1 := by
  unfold opImplCommit
  try extract_lets
  repeat' first
    | with_reducible assumption
    | with_reducible refine Entered.iteFst ?_ ?_
    | with_reducible refine Entered.ite ?_ ?_
    | (guard_target = Entered _ _ _ (waitEdge ..); with_reducible apply waitEdge_entered)
    | extract_lets
    | dsimp only
    | split
    | dsimp +zetaDelta only

theorem bodyFreeze_entered {dv pv : DevState} {kv : Nat} (e : Tick) (i : ImplSet) (b : Fin 4) {s : State} (hI : Entered dv pv kv s) : Entered dv pv kv (bodyFreeze e i b s) := by
  unfold bodyFreeze
  try extract_lets
  repeat' first
    | with_reducible assumption
    | with_reducible refine Entered.ite ?_ ?_
    | (guard_target = Entered _ _ _ (hold ..); with_reducible refine Entered.ofOnly ?_ (hold_only ..))
    | (guard_target = Entered _ _ _ (noticeAt ..); with_reducible apply noticeAt_entered)
    | (guard_target = Entered _ _ _ (State.onImpl ..); with_reducible refine Entered.ofOnly ?_ (State.onImpl_only ..))
    | extract_lets
    | dsimp only
    | split
    | dsimp +zetaDelta only

theorem implFreeze_entered {dv pv : DevState} {kv : Nat} (e : Tick) {s : State} (hI : Entered dv pv kv s) : Entered dv pv kv (implFreeze e s) := by
  unfold implFreeze
  try extract_lets
  repeat' first
    | with_reducible assumption
    | with_reducible refine Entered.ite ?_ ?_
    | (guard_target = Entered _ _ _ (bodyFreeze ..); with_reducible apply bodyFreeze_entered)
    | with_reducible refine Entered.foldl (fun _ _ _ => ?_) ?_
    | with_reducible refine Entered.foldlFst (fun _ _ _ _ => ?_) ?_
    | extract_lets
    | dsimp only
    | split
    | dsimp +zetaDelta only

theorem readFoot_entered {dv pv : DevState} {kv : Nat} (v : FeView) (k : Nat) (ps : List Impact) {s : State} (hI : Entered dv pv kv s) : Entered dv pv kv (readFoot v k ps s).1 := by
  unfold readFoot
  try extract_lets
  repeat' first
    | with_reducible assumption
    | with_reducible refine Entered.iteFst ?_ ?_
    | with_reducible refine Entered.ite ?_ ?_
    | (guard_target = Entered _ _ _ (meetErrors ..).1; with_reducible apply meetErrors_entered)
    | extract_lets
    | dsimp only
    | split
    | dsimp +zetaDelta only

theorem readLines_entered {dv pv : DevState} {kv : Nat} (before fetched : State) {r : State × List Nat} (hr : Entered dv pv kv r.1) : Entered dv pv kv (readLines before fetched r).1 :=
  meetLines_entered _ _ _ hr

theorem readTint_entered {dv pv : DevState} {kv : Nat} (v : FeView) (k : Nat) {s : State} (hI : Entered dv pv kv s) : Entered dv pv kv (readTint v k s).1 := by
  unfold readTint
  try extract_lets
  repeat' first
    | with_reducible assumption
    | with_reducible refine Entered.iteFst ?_ ?_
    | with_reducible refine Entered.ite ?_ ?_
    | (guard_target = Entered _ _ _ (meetErrors ..).1; with_reducible apply meetErrors_entered)
    | extract_lets
    | dsimp only
    | split
    | dsimp +zetaDelta only

theorem evalCtx_entered {dv pv : DevState} {kv : Nat} (v : FeView) (k : Fin 160) (battOff : Bool) (x0 : FeCtx) {s : State} (hI : Entered dv pv kv s) : Entered dv pv kv (evalCtx v k battOff x0 s).1 := by
  unfold evalCtx
  extract_lets on batt lat ttr sec dirs dirA dirB recA recB r x1 pa pb d0 d a b h ev x2 wa wb moved base cause x3 errs notes c0 late moves cs change
  have h0 : Entered dv pv kv d0.1 := hI.ofOnly (demandLines_only ..)
  have hd : Entered dv pv kv d.1 := readLines_entered _ _ (readFoot_entered _ _ _ h0)
  clear_value d change notes x3 x2 x1 d0
  with_reducible refine Entered.iteFst hI (Entered.iteFst hI (Entered.iteFst ?_ ?_))
  · exact notice_entered _ _ _ _ (meetFetched_entered _ _ h0)
  · split
    · exact hd
    · extract_lets only dt q d2 d3 w
      have h2 : Entered dv pv kv d2.1 := hd.ofOnly (demandLines_only ..)
      have h3 : Entered dv pv kv d3.1 := readLines_entered _ _ (readFoot_entered _ _ _ h2)
      clear_value d2 d3 q
      with_reducible refine Entered.iteFst (Entered.iteFst ?_ ?_) ?_
      · exact notice_entered _ _ _ _ (meetFetched_entered _ _ h2)
      all_goals assumption

theorem demandPaint_entered {dv pv : DevState} {kv : Nat} (p : Paint) {s : State} (hI : Entered dv pv kv s) : Entered dv pv kv (demandPaint p s).1 := by
  unfold demandPaint
  try extract_lets
  repeat' first
    | with_reducible assumption
    | with_reducible refine Entered.iteFst ?_ ?_
    | with_reducible refine Entered.ite ?_ ?_
    | (guard_target = Entered _ _ _ (demandLines ..).1; with_reducible refine Entered.ofOnly ?_ (demandLines_only ..))
    | (guard_target = Entered _ _ _ (meetFetched ..); with_reducible apply meetFetched_entered)
    | extract_lets
    | dsimp only
    | split
    | dsimp +zetaDelta only

theorem demandPaints_entered {dv pv : DevState} {kv : Nat} (ps : List Paint) {s : State} (hI : Entered dv pv kv s) : Entered dv pv kv (demandPaints ps s).1 := by
  unfold demandPaints
  try extract_lets
  repeat' first
    | with_reducible assumption
    | with_reducible refine Entered.iteFst ?_ ?_
    | with_reducible refine Entered.ite ?_ ?_
    | (guard_target = Entered _ _ _ (demandPaint ..).1; with_reducible apply demandPaint_entered)
    | with_reducible refine Entered.foldl (fun _ _ _ => ?_) ?_
    | with_reducible refine Entered.foldlFst (fun _ _ _ _ => ?_) ?_
    | extract_lets
    | dsimp only
    | split
    | dsimp +zetaDelta only

theorem applyPaints_entered {dv pv : DevState} {kv : Nat} (ps : List Paint) {s : State} (hI : Entered dv pv kv s) : Entered dv pv kv (applyPaints ps s).1 := by
  unfold applyPaints
  try extract_lets
  repeat' first
    | with_reducible assumption
    | with_reducible refine Entered.iteFst ?_ ?_
    | with_reducible refine Entered.ite ?_ ?_
    | (guard_target = Entered _ _ _ (paint ..).1; with_reducible apply paint_entered)
    | with_reducible refine Entered.foldl (fun _ _ _ => ?_) ?_
    | with_reducible refine Entered.foldlFst (fun _ _ _ _ => ?_) ?_
    | extract_lets
    | dsimp only
    | split
    | dsimp +zetaDelta only

theorem endRunsNow_entered {dv pv : DevState} {kv : Nat} (t : Tick) {s : State} (hI : Entered dv pv kv s) : Entered dv pv kv (endRunsNow t s) := by
  unfold endRunsNow
  try extract_lets
  repeat' first
    | with_reducible assumption
    | with_reducible refine Entered.ite ?_ ?_
    | (guard_target = Entered _ _ _ (writeLog ..); with_reducible apply writeLog_entered)
    | (guard_target = Entered _ _ _ (State.onFe ..); with_reducible refine Entered.ofOnly ?_ (State.onFe_only ..))
    | with_reducible refine Entered.foldl (fun _ _ _ => ?_) ?_
    | with_reducible refine Entered.foldlFst (fun _ _ _ _ => ?_) ?_
    | extract_lets
    | dsimp only
    | split
    | dsimp +zetaDelta only

theorem setOrigin_entered {dv pv : DevState} {kv : Nat} (o : Origin) (auto : Bool) (e : Tick) {s : State} (hI : Entered dv pv kv s) : Entered dv pv kv (setOrigin o auto e s) := by
  unfold setOrigin
  try extract_lets
  repeat' first
    | with_reducible assumption
    | (guard_target = Entered _ _ _ (notice ..); with_reducible apply notice_entered)
    | with_reducible refine Entered.ite ?_ ?_
    | (guard_target = Entered _ _ _ (changeOrigin ..); with_reducible apply changeOrigin_entered)
    | (guard_target = Entered _ _ _ (noticeAt ..); with_reducible apply noticeAt_entered)
    | (guard_target = Entered _ _ _ (State.onAct ..); with_reducible refine Entered.ofOnly ?_ (State.onAct_only ..))
    | (guard_target = Entered _ _ _ (State.onShd ..); with_reducible refine Entered.ofOnly ?_ (State.onShd_only ..))
    | extract_lets
    | dsimp only
    | split
    | dsimp +zetaDelta only

theorem autoOrigin_entered {dv pv : DevState} {kv : Nat} (e : Tick) (q : Quality) (f : FilterSt) {s : State} (hI : Entered dv pv kv s) : Entered dv pv kv (autoOrigin e q f s) := by
  unfold autoOrigin
  try extract_lets
  repeat' first
    | with_reducible assumption
    | with_reducible refine Entered.ite ?_ ?_
    | (guard_target = Entered _ _ _ (setOrigin ..); with_reducible apply setOrigin_entered)
    | extract_lets
    | dsimp only
    | split
    | dsimp +zetaDelta only

theorem positionFault_entered {dv pv : DevState} {kv : Nat} (bad : Bool) {s : State} (hI : Entered dv pv kv s) : Entered dv pv kv (positionFault bad s) := by
  unfold positionFault
  try extract_lets
  repeat' first
    | with_reducible assumption
    | with_reducible refine Entered.ite ?_ ?_
    | (guard_target = Entered _ _ _ (endFault ..); with_reducible apply endFault_entered)
    | (guard_target = Entered _ _ _ (logFault ..); with_reducible apply logFault_entered)
    | (guard_target = Entered _ _ _ (State.onPos ..); with_reducible refine Entered.ofOnly ?_ (State.onPos_only ..))
    | extract_lets
    | dsimp only
    | split
    | dsimp +zetaDelta only

theorem posFreeze_entered {dv pv : DevState} {kv : Nat} (e : Tick) (fz0 : Freeze) {s0 : State} (hI : Entered dv pv kv s0) : Entered dv pv kv (posFreeze e fz0 s0) := by
  unfold posFreeze
  try extract_lets
  repeat' first
    | with_reducible assumption
    | with_reducible refine Entered.ite ?_ ?_
    | (guard_target = Entered _ _ _ (autoOrigin ..); with_reducible apply autoOrigin_entered)
    | (guard_target = Entered _ _ _ (fuse ..).1; with_reducible refine Entered.ofOnly ?_ (fuse_only ..))
    | (guard_target = Entered _ _ _ (noticeAt ..); with_reducible apply noticeAt_entered)
    | (guard_target = Entered _ _ _ (noticeNow ..); with_reducible refine Entered.ofOnly ?_ (noticeNow_only ..))
    | (guard_target = Entered _ _ _ (positionFault ..); with_reducible apply positionFault_entered)
    | (guard_target = Entered _ _ _ (takeImu ..); with_reducible refine Entered.ofOnly ?_ (takeImu_only ..))
    | (guard_target = Entered _ _ _ (writeLog ..); with_reducible apply writeLog_entered)
    | (guard_target = Entered _ _ _ (State.onPos ..); with_reducible refine Entered.ofOnly ?_ (State.onPos_only ..))
    | with_reducible refine Entered.foldl (fun _ _ _ => ?_) ?_
    | with_reducible refine Entered.foldlFst (fun _ _ _ _ => ?_) ?_
    | extract_lets
    | dsimp only
    | split
    | dsimp +zetaDelta only

theorem prefetch_entered {dv pv : DevState} {kv : Nat} (v : FeView) {s : State} (hI : Entered dv pv kv s) : Entered dv pv kv (prefetch v s) := by
  unfold prefetch
  try extract_lets
  repeat' first
    | with_reducible assumption
    | with_reducible refine Entered.ite ?_ ?_
    | (guard_target = Entered _ _ _ (meetFetched ..); with_reducible apply meetFetched_entered)
    | (guard_target = Entered _ _ _ (nameLine ..); with_reducible refine Entered.ofOnly ?_ (nameLine_only ..))
    | (guard_target = Entered _ _ _ (touchLine ..); with_reducible refine Entered.ofOnly ?_ (touchLine_only ..))
    | (guard_target = Entered _ _ _ (State.onMap ..); with_reducible refine Entered.ofOnly ?_ (State.onMap_only ..))
    | with_reducible refine Entered.foldl (fun _ _ _ => ?_) ?_
    | with_reducible refine Entered.foldlFst (fun _ _ _ _ => ?_) ?_
    | extract_lets
    | dsimp only
    | split
    | dsimp +zetaDelta only

theorem evalOne_entered {dv pv : DevState} {kv : Nat} (v : FeView) (decides : Bool) (k : Fin 160) {a : FrameEval} (h : Entered dv pv kv a.st) : Entered dv pv kv (evalOne v decides k a).st := by
  unfold evalOne
  split
  · exact h
  · extract_lets t errs off r
    have ht : Entered dv pv kv t.1 := readTint_entered _ _ h
    clear_value t
    split
    · exact evalCtx_entered v k off a.ctx[k] ht
    · exact ht

theorem evalAll_entered {dv pv : DevState} {kv : Nat} (v : FeView) (decides : Bool) (ks : List (Fin 160)) {a : FrameEval} (h : Entered dv pv kv a.st) :
    Entered dv pv kv (ks.foldl (fun a k => evalOne v decides k a) a).st := by
  induction ks generalizing a with
  | nil => exact h
  | cons k ks ih => exact ih (evalOne_entered v decides k h)

theorem formBatch_entered {dv pv : DevState} {kv : Nat} (e : Tick) (i : ImplSet) {s : State} (hI : Entered dv pv kv s) : Entered dv pv kv (formBatch e i s).1 := by
  unfold formBatch
  extract_lets v decides ev s1 rate pl before after fp dp s2 dirs thermal
  have h1 : Entered dv pv kv s1 := evalAll_entered v decides (List.finRange 160)
    (a := { st := s.onMap (fun m => { m with misses := 0 }), ctx := s.fe.ctx }) (hI.ofOnly (State.onMap_only s fun m => { m with misses := 0 }))
  clear_value s1 thermal dirs
  have hd : Entered dv pv kv dp.1 := demandPaints_entered _ h1
  clear_value dp
  have h2 : Entered dv pv kv s2 := Entered.ite hd (notice_entered _ _ _ _ hd)
  clear_value s2
  exact prefetch_entered _ h2

theorem execDecisionPhase_entered {dv pv : DevState} {kv : Nat}  {s : State} (hI : Entered dv pv kv s) : EnteredR dv pv kv (execDecisionPhase s) := by
  unfold execDecisionPhase
  try extract_lets
  repeat' first
    | with_reducible assumption
    | with_reducible refine EnteredR.next ?_
    | with_reducible refine EnteredR.ite ?_ ?_
    | with_reducible refine Entered.ite ?_ ?_
    | (guard_target = Entered _ _ _ (formBatch ..).1; with_reducible apply formBatch_entered)
    | (guard_target = Entered _ _ _ (State.onSys ..); refine Entered.onSys ?_ fun _ => ⟨rfl, rfl, rfl⟩)
    | (guard_target = Entered _ _ _ (State.onFe ..); with_reducible refine Entered.ofOnly ?_ (State.onFe_only ..))
    | extract_lets
    | dsimp only
    | split
    | dsimp +zetaDelta only

theorem commitPhases_entered {dv pv : DevState} {kv : Nat} (e : Tick) {s : State} (hI : Entered dv pv kv s) : Entered dv pv kv (commitPhases e s) := by
  unfold commitPhases
  try extract_lets
  repeat' first
    | with_reducible assumption
    | with_reducible refine Entered.ite ?_ ?_
    | (guard_target = Entered _ _ _ (notice ..); with_reducible apply notice_entered)
    | (guard_target = Entered _ _ _ (State.onNor ..); with_reducible refine Entered.ofOnly ?_ (State.onNor_only ..))
    | (guard_target = Entered _ _ _ (State.onImpl ..); with_reducible refine Entered.ofOnly ?_ (State.onImpl_only ..))
    | (guard_target = Entered _ _ _ (State.onPwu ..); with_reducible refine Entered.ofOnly ?_ (State.onPwu_only ..))
    | with_reducible refine Entered.foldl (fun _ _ _ => ?_) ?_
    | with_reducible refine Entered.foldlFst (fun _ _ _ _ => ?_) ?_
    | extract_lets
    | dsimp only
    | split
    | dsimp +zetaDelta only

theorem canNote_entered {dv pv : DevState} {kv : Nat} (x : Fin 3) (code obj : Nat) (body : List Byte) {s : State} (hI : Entered dv pv kv s) : Entered dv pv kv (canNote x code obj body s) := by
  unfold canNote
  try extract_lets
  repeat' first
    | with_reducible assumption
    | with_reducible refine Entered.ite ?_ ?_
    | (guard_target = Entered _ _ _ (notice ..); with_reducible apply notice_entered)
    | extract_lets
    | dsimp only
    | split
    | dsimp +zetaDelta only

theorem rowDone_entered {dv pv : DevState} {kv : Nat} (k : Fin 32) (l : Slot) (o : TxOutcome) (eof : Tick) {s : State} (hI : Entered dv pv kv s) : Entered dv pv kv (rowDone k l o eof s) := by
  unfold rowDone
  try extract_lets
  repeat' first
    | with_reducible assumption
    | with_reducible refine Entered.ite ?_ ?_
    | (guard_target = Entered _ _ _ (canNote ..); with_reducible apply canNote_entered)
    | (guard_target = Entered _ _ _ (loadSlot ..); with_reducible refine Entered.ofOnly ?_ (loadSlot_only ..))
    | (guard_target = Entered _ _ _ (moreAllOff ..); with_reducible refine Entered.ofOnly ?_ (moreAllOff_only ..))
    | (guard_target = Entered _ _ _ (rowSent ..); with_reducible refine Entered.ofOnly ?_ (rowSent_only ..))
    | (guard_target = Entered _ _ _ (rowUndelivered ..); with_reducible refine Entered.ofOnly ?_ (rowUndelivered_only ..))
    | (guard_target = Entered _ _ _ (State.onCan ..); with_reducible refine Entered.ofOnly ?_ (State.onCan_only ..))
    | extract_lets
    | dsimp only
    | split
    | dsimp +zetaDelta only

theorem endSlot_entered {dv pv : DevState} {kv : Nat} (x : Fin 3) (k : Fin 32) (o : TxOutcome) (eof : Tick) {s : State} (hI : Entered dv pv kv s) : Entered dv pv kv (endSlot x k o eof s) := by
  unfold endSlot
  try extract_lets
  repeat' first
    | with_reducible assumption
    | with_reducible refine Entered.ite ?_ ?_
    | (guard_target = Entered _ _ _ (canNote ..); with_reducible apply canNote_entered)
    | (guard_target = Entered _ _ _ (isoDone ..); with_reducible refine Entered.ofOnly ?_ (isoDone_only ..))
    | (guard_target = Entered _ _ _ (modSlot ..); with_reducible refine Entered.ofOnly ?_ (modSlot_only ..))
    | (guard_target = Entered _ _ _ (rowDone ..); with_reducible apply rowDone_entered)
    | extract_lets
    | dsimp only
    | split
    | dsimp +zetaDelta only

theorem enterBusOff_entered {dv pv : DevState} {kv : Nat} (x : Fin 3) {s : State} (hI : Entered dv pv kv s) : Entered dv pv kv (enterBusOff x s) := by
  unfold enterBusOff
  try extract_lets
  repeat' first
    | with_reducible assumption
    | with_reducible refine Entered.ite ?_ ?_
    | (guard_target = Entered _ _ _ (logFault ..); with_reducible apply logFault_entered)
    | (guard_target = Entered _ _ _ (modCtl ..); with_reducible refine Entered.ofOnly ?_ (modCtl_only ..))
    | (guard_target = Entered _ _ _ (State.onPos ..); with_reducible refine Entered.ofOnly ?_ (State.onPos_only ..))
    | (guard_target = Entered _ _ _ (State.onCan ..); with_reducible refine Entered.ofOnly ?_ (State.onCan_only ..))
    | extract_lets
    | dsimp only
    | split
    | dsimp +zetaDelta only

theorem setCounters_entered {dv pv : DevState} {kv : Nat} (x : Fin 3) (tec rc : Nat) {s : State} (hI : Entered dv pv kv s) : Entered dv pv kv (setCounters x tec rc s) := by
  unfold setCounters
  try extract_lets
  repeat' first
    | with_reducible assumption
    | with_reducible refine Entered.ite ?_ ?_
    | (guard_target = Entered _ _ _ (canNote ..); with_reducible apply canNote_entered)
    | (guard_target = Entered _ _ _ (enterBusOff ..); with_reducible apply enterBusOff_entered)
    | (guard_target = Entered _ _ _ (modCtl ..); with_reducible refine Entered.ofOnly ?_ (modCtl_only ..))
    | extract_lets
    | dsimp only
    | split
    | dsimp +zetaDelta only

theorem execReceiveError_entered {dv pv : DevState} {kv : Nat} (x : Fin 3) (recUp : Nat) {s : State} (hI : Entered dv pv kv s) : EnteredR dv pv kv (execReceiveError x recUp s) := by
  unfold execReceiveError
  try extract_lets
  repeat' first
    | with_reducible assumption
    | with_reducible refine EnteredR.next ?_
    | with_reducible refine EnteredR.ite ?_ ?_
    | with_reducible refine Entered.ite ?_ ?_
    | (guard_target = Entered _ _ _ (setCounters ..); with_reducible apply setCounters_entered)
    | extract_lets
    | dsimp only
    | split
    | dsimp +zetaDelta only

theorem execBusoffRecoveryComplete_entered {dv pv : DevState} {kv : Nat} (x : Fin 3) {s : State} (hI : Entered dv pv kv s) : EnteredR dv pv kv (execBusoffRecoveryComplete x s) := by
  unfold execBusoffRecoveryComplete
  try extract_lets
  repeat' first
    | with_reducible assumption
    | with_reducible refine EnteredR.next ?_
    | with_reducible refine EnteredR.ite ?_ ?_
    | with_reducible refine Entered.ite ?_ ?_
    | (guard_target = Entered _ _ _ (canNote ..); with_reducible apply canNote_entered)
    | (guard_target = Entered _ _ _ (endFault ..); with_reducible apply endFault_entered)
    | (guard_target = Entered _ _ _ (modCtl ..); with_reducible refine Entered.ofOnly ?_ (modCtl_only ..))
    | (guard_target = Entered _ _ _ (State.onCan ..); with_reducible refine Entered.ofOnly ?_ (State.onCan_only ..))
    | extract_lets
    | dsimp only
    | split
    | dsimp +zetaDelta only

theorem execBusRejoin_entered {dv pv : DevState} {kv : Nat} (x : Fin 3) {s : State} (hI : Entered dv pv kv s) : EnteredR dv pv kv (execBusRejoin x s) := by
  unfold execBusRejoin
  try extract_lets
  repeat' first
    | with_reducible assumption
    | with_reducible refine EnteredR.next ?_
    | with_reducible refine EnteredR.ite ?_ ?_
    | with_reducible refine Entered.ite ?_ ?_
    | (guard_target = Entered _ _ _ (canNote ..); with_reducible apply canNote_entered)
    | (guard_target = Entered _ _ _ (modCtl ..); with_reducible refine Entered.ofOnly ?_ (modCtl_only ..))
    | extract_lets
    | dsimp only
    | split
    | dsimp +zetaDelta only

theorem dropActive_entered {dv pv : DevState} {kv : Nat} (x : Fin 3) {s : State} (hI : Entered dv pv kv s) : Entered dv pv kv (dropActive x s) := by
  unfold dropActive
  try extract_lets
  repeat' first
    | with_reducible assumption
    | with_reducible refine Entered.ite ?_ ?_
    | (guard_target = Entered _ _ _ (endSlot ..); with_reducible apply endSlot_entered)
    | (guard_target = Entered _ _ _ (modSlot ..); with_reducible refine Entered.ofOnly ?_ (modSlot_only ..))
    | extract_lets
    | dsimp only
    | split
    | dsimp +zetaDelta only

theorem takeOff_entered {dv pv : DevState} {kv : Nat} (x : Fin 3) {s : State} (hI : Entered dv pv kv s) : Entered dv pv kv (takeOff x s) := by
  unfold takeOff
  try extract_lets
  repeat' first
    | with_reducible assumption
    | with_reducible refine Entered.ite ?_ ?_
    | (guard_target = Entered _ _ _ (dropActive ..); with_reducible apply dropActive_entered)
    | (guard_target = Entered _ _ _ (modCtl ..); with_reducible refine Entered.ofOnly ?_ (modCtl_only ..))
    | extract_lets
    | dsimp only
    | split
    | dsimp +zetaDelta only

theorem commitCan_entered {dv pv : DevState} {kv : Nat} (old : Params) {s : State} (hI : Entered dv pv kv s) : Entered dv pv kv (commitCan old s) := by
  unfold commitCan
  try extract_lets
  repeat' first
    | with_reducible assumption
    | with_reducible refine Entered.ite ?_ ?_
    | (guard_target = Entered _ _ _ (modCtl ..); with_reducible refine Entered.ofOnly ?_ (modCtl_only ..))
    | (guard_target = Entered _ _ _ (takeOff ..); with_reducible apply takeOff_entered)
    | with_reducible refine Entered.foldl (fun _ _ _ => ?_) ?_
    | with_reducible refine Entered.foldlFst (fun _ _ _ _ => ?_) ?_
    | extract_lets
    | dsimp only
    | split
    | dsimp +zetaDelta only

theorem retrySlot_entered {dv pv : DevState} {kv : Nat} (x : Fin 3) (k : Fin 32) {s : State} (hI : Entered dv pv kv s) : Entered dv pv kv (retrySlot x k s) := by
  unfold retrySlot
  try extract_lets
  repeat' first
    | with_reducible assumption
    | with_reducible refine Entered.ite ?_ ?_
    | (guard_target = Entered _ _ _ (endSlot ..); with_reducible apply endSlot_entered)
    | (guard_target = Entered _ _ _ (modSlot ..); with_reducible refine Entered.ofOnly ?_ (modSlot_only ..))
    | extract_lets
    | dsimp only
    | split
    | dsimp +zetaDelta only

theorem takeTdc_entered {dv pv : DevState} {kv : Nat} (x : Fin 3) (k : Fin 32) (t : Option Nat) {s : State} (hI : Entered dv pv kv s) : Entered dv pv kv (takeTdc x k t s) := by
  unfold takeTdc
  try extract_lets
  repeat' first
    | with_reducible assumption
    | with_reducible refine Entered.ite ?_ ?_
    | (guard_target = Entered _ _ _ (canNote ..); with_reducible apply canNote_entered)
    | (guard_target = Entered _ _ _ (modCtl ..); with_reducible refine Entered.ofOnly ?_ (modCtl_only ..))
    | extract_lets
    | dsimp only
    | split
    | dsimp +zetaDelta only

theorem execCanTxEnd_entered {dv pv : DevState} {kv : Nat} (x : Fin 3) (r : TxResult) {s : State} (hI : Entered dv pv kv s) : EnteredR dv pv kv (execCanTxEnd x r s) := by
  unfold execCanTxEnd
  try extract_lets
  repeat' first
    | with_reducible assumption
    | with_reducible refine EnteredR.next ?_
    | with_reducible refine EnteredR.ite ?_ ?_
    | with_reducible refine Entered.ite ?_ ?_
    | (guard_target = Entered _ _ _ (canNote ..); with_reducible apply canNote_entered)
    | (guard_target = Entered _ _ _ (endSlot ..); with_reducible apply endSlot_entered)
    | (guard_target = Entered _ _ _ (modSlot ..); with_reducible refine Entered.ofOnly ?_ (modSlot_only ..))
    | (guard_target = Entered _ _ _ (retrySlot ..); with_reducible apply retrySlot_entered)
    | (guard_target = Entered _ _ _ (setCounters ..); with_reducible apply setCounters_entered)
    | (guard_target = Entered _ _ _ (storeFrame ..); with_reducible refine Entered.ofOnly ?_ (storeFrame_only ..))
    | (guard_target = Entered _ _ _ (takeTdc ..); with_reducible apply takeTdc_entered)
    | extract_lets
    | dsimp only
    | split
    | dsimp +zetaDelta only

theorem execCanDeadlineExpiry_entered {dv pv : DevState} {kv : Nat} (x : Fin 3) (slot : Fin 32) {s : State} (hI : Entered dv pv kv s) : EnteredR dv pv kv (execCanDeadlineExpiry x slot s) := by
  unfold execCanDeadlineExpiry
  try extract_lets
  repeat' first
    | with_reducible assumption
    | with_reducible refine EnteredR.next ?_
    | with_reducible refine EnteredR.ite ?_ ?_
    | with_reducible refine Entered.ite ?_ ?_
    | (guard_target = Entered _ _ _ (endSlot ..); with_reducible apply endSlot_entered)
    | extract_lets
    | dsimp only
    | split
    | dsimp +zetaDelta only

theorem addressNote_entered {dv pv : DevState} {kv : Nat} (old : Nat) {s : State} (hI : Entered dv pv kv s) : Entered dv pv kv (addressNote old s) := by
  unfold addressNote
  try extract_lets
  repeat' first
    | with_reducible assumption
    | with_reducible refine Entered.ite ?_ ?_
    | (guard_target = Entered _ _ _ (canNote ..); with_reducible apply canNote_entered)
    | extract_lets
    | dsimp only
    | split
    | dsimp +zetaDelta only

theorem takeClaim_entered {dv pv : DevState} {kv : Nat} (f : CanFrame) {s : State} (hI : Entered dv pv kv s) : Entered dv pv kv (takeClaim f s) := by
  unfold takeClaim
  try extract_lets
  repeat' first
    | with_reducible assumption
    | with_reducible refine Entered.ite ?_ ?_
    | (guard_target = Entered _ _ _ (addressNote ..); with_reducible apply addressNote_entered)
    | (guard_target = Entered _ _ _ (claimNext ..); with_reducible refine Entered.ofOnly ?_ (claimNext_only ..))
    | (guard_target = Entered _ _ _ (sendClaim ..); with_reducible refine Entered.ofOnly ?_ (sendClaim_only ..))
    | (guard_target = Entered _ _ _ (State.onCan ..); with_reducible refine Entered.ofOnly ?_ (State.onCan_only ..))
    | extract_lets
    | dsimp only
    | split
    | dsimp +zetaDelta only

theorem useReserved_entered {dv pv : DevState} {kv : Nat} (x : Fin 3) (k : Nat) (f : CanFrame) {s : State} (hI : Entered dv pv kv s) : Entered dv pv kv (useReserved x k f s) := by
  unfold useReserved
  try extract_lets
  repeat' first
    | with_reducible assumption
    | with_reducible refine Entered.ite ?_ ?_
    | (guard_target = Entered _ _ _ (readHole ..).2; with_reducible refine Entered.ofOnly ?_ (readHole_only ..))
    | (guard_target = Entered _ _ _ (takeClaim ..); with_reducible apply takeClaim_entered)
    | (guard_target = Entered _ _ _ (takeRequest ..); with_reducible refine Entered.ofOnly ?_ (takeRequest_only ..))
    | (guard_target = Entered _ _ _ (takeSegment ..); with_reducible refine Entered.ofOnly ?_ (takeSegment_only ..))
    | (guard_target = Entered _ _ _ (takeSpeed ..); with_reducible refine Entered.ofOnly ?_ (takeSpeed_only ..))
    | extract_lets
    | dsimp only
    | split
    | dsimp +zetaDelta only

theorem canFrameReceive_entered {dv pv : DevState} {kv : Nat} (x : Fin 3) (f : CanFrame) {s : State} (hI : Entered dv pv kv s) : Entered dv pv kv (canFrameReceive x f s) := by
  unfold canFrameReceive
  refine Entered.ite ?_ hI
  extract_lets rc big rc' s0
  have h0 : Entered dv pv kv s0 := setCounters_entered _ _ _ (Entered.ite (hI.ofOnly (State.free_only _ _)) hI)
  clear_value s0
  split
  · exact h0.ofOnly (modCtl_only ..)
  · extract_lets s1
    have h1 : Entered dv pv kv s1 := h0.ofOnly (storeFrame_only ..)
    clear_value s1
    exact Entered.ite (useReserved_entered _ _ _ h1) h1

theorem execAddressClaimTimer_entered {dv pv : DevState} {kv : Nat}  {s : State} (hI : Entered dv pv kv s) : EnteredR dv pv kv (execAddressClaimTimer s) := by
  unfold execAddressClaimTimer
  try extract_lets
  repeat' first
    | with_reducible assumption
    | with_reducible refine EnteredR.next ?_
    | with_reducible refine EnteredR.ite ?_ ?_
    | with_reducible refine Entered.ite ?_ ?_
    | (guard_target = Entered _ _ _ (addressNote ..); with_reducible apply addressNote_entered)
    | (guard_target = Entered _ _ _ (State.onCan ..); with_reducible refine Entered.ofOnly ?_ (State.onCan_only ..))
    | extract_lets
    | dsimp only
    | split
    | dsimp +zetaDelta only

theorem nodeCmd_entered {dv pv : DevState} {kv : Nat} (e : Tick) (n : Fin 32) (acted : Nat → Option (Tick × Bool)) (evs : List Ev) {s : State} (hI : Entered dv pv kv s) : Entered dv pv kv (nodeCmd e n acted evs s).1 := by
  unfold nodeCmd
  try extract_lets
  repeat' first
    | with_reducible assumption
    | with_reducible refine Entered.iteFst ?_ ?_
    | with_reducible refine Entered.ite ?_ ?_
    | (guard_target = Entered _ _ _ (loadRowCmd ..); with_reducible refine Entered.ofOnly ?_ (loadRowCmd_only ..))
    | (guard_target = Entered _ _ _ (modNode ..); with_reducible refine Entered.ofOnly ?_ (modNode_only ..))
    | (guard_target = Entered _ _ _ (notice ..); with_reducible apply notice_entered)
    | (guard_target = Entered _ _ _ (State.onCan ..); with_reducible refine Entered.ofOnly ?_ (State.onCan_only ..))
    | with_reducible refine Entered.foldl (fun _ _ _ => ?_) ?_
    | with_reducible refine Entered.foldlFst (fun _ _ _ _ => ?_) ?_
    | extract_lets
    | dsimp only
    | split
    | dsimp +zetaDelta only

theorem rowCommands_entered {dv pv : DevState} {kv : Nat} (e : Tick) (acted : Nat → Option (Tick × Bool)) (evs : List Ev) {s : State} (hI : Entered dv pv kv s) : Entered dv pv kv (rowCommands e acted evs s).1 := by
  unfold rowCommands
  try extract_lets
  repeat' first
    | with_reducible assumption
    | with_reducible refine Entered.iteFst ?_ ?_
    | with_reducible refine Entered.ite ?_ ?_
    | (guard_target = Entered _ _ _ (nodeCmd ..).1; with_reducible apply nodeCmd_entered)
    | with_reducible refine Entered.foldl (fun _ _ _ => ?_) ?_
    | with_reducible refine Entered.foldlFst (fun _ _ _ _ => ?_) ?_
    | extract_lets
    | dsimp only
    | split
    | dsimp +zetaDelta only

theorem remoteMotion_entered {dv pv : DevState} {kv : Nat} (i : Fin 160) (noSig : Bool) {s : State} (hI : Entered dv pv kv s) : Entered dv pv kv (remoteMotion i noSig s) := by
  unfold remoteMotion
  try extract_lets
  repeat' first
    | with_reducible assumption
    | with_reducible refine Entered.ite ?_ ?_
    | (guard_target = Entered _ _ _ (endFault ..); with_reducible apply endFault_entered)
    | (guard_target = Entered _ _ _ (logFault ..); with_reducible apply logFault_entered)
    | (guard_target = Entered _ _ _ (modLat ..); with_reducible refine Entered.ofOnly ?_ (modLat_only ..))
    | (guard_target = Entered _ _ _ (notice ..); with_reducible apply notice_entered)
    | extract_lets
    | dsimp only
    | split
    | dsimp +zetaDelta only

theorem reportEntry_entered {dv pv : DevState} {kv : Nat} (n : Fin 32) (at_ : Tick) (synced measures : Bool) (b : Nat) {s : State} (hI : Entered dv pv kv s) : Entered dv pv kv (reportEntry n at_ synced measures s b) := by
  unfold reportEntry
  try extract_lets
  repeat' first
    | with_reducible assumption
    | with_reducible refine Entered.ite ?_ ?_
    | (guard_target = Entered _ _ _ (learn ..); with_reducible apply learn_entered)
    | (guard_target = Entered _ _ _ (remoteMotion ..); with_reducible apply remoteMotion_entered)
    | (guard_target = Entered _ _ _ (State.onFe ..); with_reducible refine Entered.ofOnly ?_ (State.onFe_only ..))
    | (guard_target = Entered _ _ _ (State.onCan ..); with_reducible refine Entered.ofOnly ?_ (State.onCan_only ..))
    | extract_lets
    | dsimp only
    | split
    | dsimp +zetaDelta only

theorem takeReport_entered {dv pv : DevState} {kv : Nat} (n : Fin 32) {s : State} (hI : Entered dv pv kv s) : Entered dv pv kv (takeReport n s) := by
  unfold takeReport
  try extract_lets
  repeat' first
    | with_reducible assumption
    | with_reducible refine Entered.ite ?_ ?_
    | (guard_target = Entered _ _ _ (endFault ..); with_reducible apply endFault_entered)
    | (guard_target = Entered _ _ _ (logFault ..); with_reducible apply logFault_entered)
    | (guard_target = Entered _ _ _ (modNode ..); with_reducible refine Entered.ofOnly ?_ (modNode_only ..))
    | (guard_target = Entered _ _ _ (readHole ..).2; with_reducible refine Entered.ofOnly ?_ (readHole_only ..))
    | (guard_target = Entered _ _ _ (reportEntry ..); with_reducible apply reportEntry_entered)
    | with_reducible refine Entered.foldl (fun _ _ _ => ?_) ?_
    | with_reducible refine Entered.foldlFst (fun _ _ _ _ => ?_) ?_
    | extract_lets
    | dsimp only
    | split
    | dsimp +zetaDelta only

theorem takeReports_entered {dv pv : DevState} {kv : Nat}  {s : State} (hI : Entered dv pv kv s) : Entered dv pv kv (takeReports s) := by
  unfold takeReports
  try extract_lets
  repeat' first
    | with_reducible assumption
    | with_reducible refine Entered.ite ?_ ?_
    | (guard_target = Entered _ _ _ (takeReport ..); with_reducible apply takeReport_entered)
    | with_reducible refine Entered.foldl (fun _ _ _ => ?_) ?_
    | with_reducible refine Entered.foldlFst (fun _ _ _ _ => ?_) ?_
    | extract_lets
    | dsimp only
    | split
    | dsimp +zetaDelta only

theorem execReportWaitExpiry_entered {dv pv : DevState} {kv : Nat}  {s : State} (hI : Entered dv pv kv s) : EnteredR dv pv kv (execReportWaitExpiry s) := by
  unfold execReportWaitExpiry
  try extract_lets
  repeat' first
    | with_reducible assumption
    | with_reducible refine EnteredR.next ?_
    | with_reducible refine EnteredR.ite ?_ ?_
    | with_reducible refine Entered.ite ?_ ?_
    | (guard_target = Entered _ _ _ (commandUnreported ..); with_reducible refine Entered.ofOnly ?_ (commandUnreported_only ..))
    | (guard_target = Entered _ _ _ (takeReports ..); with_reducible apply takeReports_entered)
    | extract_lets
    | dsimp only
    | split
    | dsimp +zetaDelta only

theorem execRowNodeLost_entered {dv pv : DevState} {kv : Nat} (n : Fin 32) {s0 : State} (hI : Entered dv pv kv s0) : EnteredR dv pv kv (execRowNodeLost n s0) := by
  unfold execRowNodeLost
  try extract_lets
  repeat' first
    | with_reducible assumption
    | with_reducible refine EnteredR.next ?_
    | with_reducible refine EnteredR.ite ?_ ?_
    | with_reducible refine Entered.ite ?_ ?_
    | (guard_target = Entered _ _ _ (canNote ..); with_reducible apply canNote_entered)
    | (guard_target = Entered _ _ _ (modNode ..); with_reducible refine Entered.ofOnly ?_ (modNode_only ..))
    | (guard_target = Entered _ _ _ (takeReport ..); with_reducible apply takeReport_entered)
    | (guard_target = Entered _ _ _ (State.onFe ..); with_reducible refine Entered.ofOnly ?_ (State.onFe_only ..))
    | with_reducible refine Entered.foldl (fun _ _ _ => ?_) ?_
    | with_reducible refine Entered.foldlFst (fun _ _ _ _ => ?_) ?_
    | extract_lets
    | dsimp only
    | split
    | dsimp +zetaDelta only

theorem expireInGrace_entered {dv pv : DevState} {kv : Nat} {s : State} (hI : Entered dv pv kv s) : Entered dv pv kv (expireInGrace s) := by
  unfold expireInGrace
  exact Entered.ite (Entered.foldl (fun _ _ hx => endSlot_entered _ _ _ _ hx) hI) hI

theorem rowFreeze_entered {dv pv : DevState} {kv : Nat} (e : Tick) {s0 : State} (hI : Entered dv pv kv s0) : Entered dv pv kv (rowFreeze e s0) := by
  unfold rowFreeze
  try extract_lets
  repeat' first
    | with_reducible assumption
    | with_reducible refine Entered.ite ?_ ?_
    | (guard_target = Entered _ _ _ (commandUnreported ..); with_reducible refine Entered.ofOnly ?_ (commandUnreported_only ..))
    | (guard_target = Entered _ _ _ (expireInGrace ..); with_reducible apply expireInGrace_entered)
    | (guard_target = Entered _ _ _ (takeReports ..); with_reducible apply takeReports_entered)
    | (guard_target = Entered _ _ _ (uncommit ..); with_reducible refine Entered.ofOnly ?_ (uncommit_only ..))
    | (guard_target = Entered _ _ _ (State.onCan ..); with_reducible refine Entered.ofOnly ?_ (State.onCan_only ..))
    | with_reducible refine Entered.foldl (fun _ _ _ => ?_) ?_
    | with_reducible refine Entered.foldlFst (fun _ _ _ _ => ?_) ?_
    | extract_lets
    | dsimp only
    | split
    | dsimp +zetaDelta only

theorem opCanPhConfig_entered {dv pv : DevState} {kv : Nat} (e : Env) {s : State} (hI : Entered dv pv kv s) : Entered dv pv kv (opCanPhConfig e s).1 := by
  unfold opCanPhConfig
  try extract_lets
  repeat' first
    | with_reducible assumption
    | with_reducible refine Entered.iteFst ?_ ?_
    | with_reducible refine Entered.ite ?_ ?_
    | dsimp only [deny, doneEdge]
    | (guard_target = Entered _ _ _ (waitEdge ..); with_reducible apply waitEdge_entered)
    | extract_lets
    | dsimp only
    | split
    | dsimp +zetaDelta only

theorem opCanTxAbort_entered {dv pv : DevState} {kv : Nat} (e : Env) {s : State} (hI : Entered dv pv kv s) : Entered dv pv kv (opCanTxAbort e s).1 := by
  unfold opCanTxAbort
  try extract_lets
  repeat' first
    | with_reducible assumption
    | with_reducible refine Entered.iteFst ?_ ?_
    | with_reducible refine Entered.ite ?_ ?_
    | dsimp only [deny, done]
    | (guard_target = Entered _ _ _ (endSlot ..); with_reducible apply endSlot_entered)
    | (guard_target = Entered _ _ _ (modSlot ..); with_reducible refine Entered.ofOnly ?_ (modSlot_only ..))
    | extract_lets
    | dsimp only
    | split
    | dsimp +zetaDelta only

theorem closeSession_entered {dv pv : DevState} {kv : Nat} (p : Port) {s : State} (hI : Entered dv pv kv s) : Entered dv pv kv (closeSession p s) := by
  unfold closeSession
  try extract_lets
  repeat' first
    | with_reducible assumption
    | with_reducible refine Entered.ite ?_ ?_
    | (guard_target = Entered _ _ _ (modPort ..); with_reducible refine Entered.ofOnly ?_ (modPort_only ..))
    | (guard_target = Entered _ _ _ (notice ..); with_reducible apply notice_entered)
    | (guard_target = Entered _ _ _ (State.onSec ..); with_reducible refine Entered.ofOnly ?_ (State.onSec_only ..))
    | extract_lets
    | dsimp only
    | split

theorem openSession_entered {dv pv : DevState} {kv : Nat} (p : Port) (service : Option (BitVec 32)) (nonce : BitVec 128) {s : State} (hI : Entered dv pv kv s) : Entered dv pv kv (openSession p service nonce s).1 := by
  unfold openSession
  try extract_lets
  repeat' first
    | with_reducible assumption
    | with_reducible refine Entered.iteFst ?_ ?_
    | dsimp only [id]
    | with_reducible refine Entered.ite ?_ ?_
    | (guard_target = Entered _ _ _ (closeSession ..); with_reducible apply closeSession_entered)
    | (guard_target = Entered _ _ _ (drawFree ..).1; with_reducible refine Entered.ofOnly ?_ (drawFree_only ..))
    | (guard_target = Entered _ _ _ (modPort ..); with_reducible refine Entered.ofOnly ?_ (modPort_only ..))
    | (guard_target = Entered _ _ _ (State.onHost ..); with_reducible refine Entered.ofOnly ?_ (State.onHost_only ..))

theorem opSecSessionOpen_entered {dv pv : DevState} {kv : Nat} (e : Env) {s : State} (hI : Entered dv pv kv s) : Entered dv pv kv (opSecSessionOpen e s).1 := by
  unfold opSecSessionOpen
  try extract_lets
  repeat' first
    | with_reducible assumption
    | with_reducible refine Entered.iteFst ?_ ?_
    | with_reducible refine Entered.ite ?_ ?_
    | dsimp only [deny, doneWith]
    | (guard_target = Entered _ _ _ (openSession ..).1; with_reducible apply openSession_entered)
    | extract_lets
    | dsimp only
    | split
    | dsimp +zetaDelta only

theorem opSecSessionClose_entered {dv pv : DevState} {kv : Nat} (e : Env) {s : State} (hI : Entered dv pv kv s) : Entered dv pv kv (opSecSessionClose e s).1 := by
  unfold opSecSessionClose
  try extract_lets
  repeat' first
    | with_reducible assumption
    | with_reducible refine Entered.iteFst ?_ ?_
    | with_reducible refine Entered.ite ?_ ?_
    | dsimp only [done]
    | (guard_target = Entered _ _ _ (closeSession ..); with_reducible apply closeSession_entered)
    | extract_lets
    | dsimp only
    | split
    | dsimp +zetaDelta only

theorem opSecServiceResponse_entered {dv pv : DevState} {kv : Nat} (e : Env) {s : State} (hI : Entered dv pv kv s) : Entered dv pv kv (opSecServiceResponse e s).1 := by
  unfold opSecServiceResponse
  try extract_lets
  repeat' first
    | with_reducible assumption
    | with_reducible refine Entered.iteFst ?_ ?_
    | with_reducible refine Entered.ite ?_ ?_
    | dsimp only [deny, doneWith]
    | (guard_target = Entered _ _ _ (extendOpen ..); with_reducible refine Entered.ofOnly ?_ (extendOpen_only ..))
    | (guard_target = Entered _ _ _ (notice ..); with_reducible apply notice_entered)
    | (guard_target = Entered _ _ _ (openSession ..).1; with_reducible apply openSession_entered)
    | (guard_target = Entered _ _ _ (State.onSec ..); with_reducible refine Entered.ofOnly ?_ (State.onSec_only ..))
    | extract_lets
    | dsimp only
    | split
    | dsimp +zetaDelta only

theorem execServiceSessionExpiry_entered {dv pv : DevState} {kv : Nat}  {s : State} (hI : Entered dv pv kv s) : EnteredR dv pv kv (execServiceSessionExpiry s) := by
  unfold execServiceSessionExpiry
  try extract_lets
  repeat' first
    | with_reducible assumption
    | with_reducible refine EnteredR.next ?_
    | with_reducible refine EnteredR.ite ?_ ?_
    | with_reducible refine Entered.ite ?_ ?_
    | (guard_target = Entered _ _ _ (closeSession ..); with_reducible apply closeSession_entered)
    | with_reducible refine Entered.foldl (fun _ _ _ => ?_) ?_
    | with_reducible refine Entered.foldlFst (fun _ _ _ _ => ?_) ?_
    | extract_lets
    | dsimp only
    | split
    | dsimp +zetaDelta only

theorem execImageVerified_entered {dv pv : DevState} {kv : Nat}  {s : State} (hI : Entered dv pv kv s) : EnteredR dv pv kv (execImageVerified s) := by
  unfold execImageVerified
  try extract_lets
  repeat' first
    | with_reducible assumption
    | with_reducible refine EnteredR.next ?_
    | with_reducible refine EnteredR.ite ?_ ?_
    | with_reducible refine Entered.ite ?_ ?_
    | (guard_target = Entered _ _ _ (modImage ..); with_reducible refine Entered.ofOnly ?_ (modImage_only ..))
    | (guard_target = Entered _ _ _ (notice ..); with_reducible apply notice_entered)
    | (guard_target = Entered _ _ _ (State.onSec ..); with_reducible refine Entered.ofOnly ?_ (State.onSec_only ..))
    | extract_lets
    | dsimp only
    | split
    | dsimp +zetaDelta only

theorem cancelActivation_entered {dv pv : DevState} {kv : Nat}  {s : State} (hI : Entered dv pv kv s) : Entered dv pv kv (cancelActivation s) := by
  unfold cancelActivation
  try extract_lets
  repeat' first
    | with_reducible assumption
    | with_reducible refine Entered.ite ?_ ?_
    | (guard_target = Entered _ _ _ (notice ..); with_reducible apply notice_entered)
    | (guard_target = Entered _ _ _ (State.onSec ..); with_reducible refine Entered.ofOnly ?_ (State.onSec_only ..))
    | extract_lets
    | dsimp only
    | split
    | dsimp +zetaDelta only

theorem rejectBank_entered {dv pv : DevState} {kv : Nat} (i : Fin 5) {s : State} (hI : Entered dv pv kv s) : Entered dv pv kv (rejectBank i s) := by
  unfold rejectBank
  try extract_lets
  repeat' first
    | with_reducible assumption
    | with_reducible refine Entered.ite ?_ ?_
    | (guard_target = Entered _ _ _ (extendOpen ..); with_reducible refine Entered.ofOnly ?_ (extendOpen_only ..))
    | (guard_target = Entered _ _ _ (modImage ..); with_reducible refine Entered.ofOnly ?_ (modImage_only ..))
    | (guard_target = Entered _ _ _ (notice ..); with_reducible apply notice_entered)
    | extract_lets
    | dsimp only
    | split
    | dsimp +zetaDelta only

theorem trialRestart_entered {dv pv : DevState} {kv : Nat} (el : Element) {s : State} (hI : Entered dv pv kv s) : Entered dv pv kv (trialRestart el s) := by
  unfold trialRestart
  try extract_lets
  repeat' first
    | with_reducible assumption
    | with_reducible refine Entered.ite ?_ ?_
    | (guard_target = Entered _ _ _ (modImage ..); with_reducible refine Entered.ofOnly ?_ (modImage_only ..))
    | (guard_target = Entered _ _ _ (rejectBank ..); with_reducible apply rejectBank_entered)
    | extract_lets
    | dsimp only
    | split
    | dsimp +zetaDelta only

theorem failSelftest_entered {dv pv : DevState} {kv : Nat} (el : Element) {s : State} (hI : Entered dv pv kv s) : Entered dv pv kv (failSelftest el s) := by
  unfold failSelftest
  try extract_lets
  repeat' first
    | with_reducible assumption
    | with_reducible refine Entered.ite ?_ ?_
    | (guard_target = Entered _ _ _ (modImage ..); with_reducible refine Entered.ofOnly ?_ (modImage_only ..))
    | (guard_target = Entered _ _ _ (rejectBank ..); with_reducible apply rejectBank_entered)
    | extract_lets
    | dsimp only
    | split
    | dsimp +zetaDelta only

theorem execTrialPassed_entered {dv pv : DevState} {kv : Nat} (i : Fin 5) {s : State} (hI : Entered dv pv kv s) : EnteredR dv pv kv (execTrialPassed i s) := by
  unfold execTrialPassed
  try extract_lets
  repeat' first
    | with_reducible assumption
    | with_reducible refine EnteredR.next ?_
    | with_reducible refine EnteredR.ite ?_ ?_
    | with_reducible refine Entered.ite ?_ ?_
    | (guard_target = Entered _ _ _ (modImage ..); with_reducible refine Entered.ofOnly ?_ (modImage_only ..))
    | (guard_target = Entered _ _ _ (notice ..); with_reducible apply notice_entered)
    | (guard_target = Entered _ _ _ (State.onPd0 ..); refine Inv.onPd0 ?_ fun d hd => by simp only [List.length_map, List.length_take, List.length_cons]; omega)
    | (guard_target = Entered _ _ _ (State.onPd0 ..); with_reducible refine Entered.ofOnly ?_ (State.onPd0_only ..))
    | (guard_target = Entered _ _ _ (State.onSec ..); with_reducible refine Entered.ofOnly ?_ (State.onSec_only ..))
    | extract_lets
    | dsimp only
    | split
    | dsimp +zetaDelta only

theorem worldViolation_entered {dv pv : DevState} {kv : Nat}  {s : State} (hI : Entered dv pv kv s) : Entered dv pv kv (worldViolation s) := by
  unfold worldViolation
  try extract_lets
  repeat' first
    | with_reducible assumption
    | with_reducible refine Entered.ite ?_ ?_
    | (guard_target = Entered _ _ _ (logFault ..); with_reducible apply logFault_entered)
    | (guard_target = Entered _ _ _ (notice ..); with_reducible apply notice_entered)
    | (guard_target = Entered _ _ _ (State.onSec ..); with_reducible refine Entered.ofOnly ?_ (State.onSec_only ..))
    | extract_lets
    | dsimp only
    | split
    | dsimp +zetaDelta only

theorem logModel_entered {dv pv : DevState} {kv : Nat} (step : Bool) (stepPs : Int) {s : State} (hI : Entered dv pv kv s) : Entered dv pv kv (logModel step stepPs s) := by
  unfold logModel
  try extract_lets
  repeat' first
    | with_reducible assumption
    | with_reducible refine Entered.ite ?_ ?_
    | (guard_target = Entered _ _ _ (writeLog ..); with_reducible apply writeLog_entered)
    | extract_lets
    | dsimp only
    | split
    | dsimp +zetaDelta only

theorem setTState_entered {dv pv : DevState} {kv : Nat} (t : TState) (pm : Tick) {s : State} (hI : Entered dv pv kv s) : Entered dv pv kv (setTState t pm s) := by
  unfold setTState
  try extract_lets
  repeat' first
    | with_reducible assumption
    | with_reducible refine Entered.ite ?_ ?_
    | (guard_target = Entered _ _ _ (logModel ..); with_reducible apply logModel_entered)
    | (guard_target = Entered _ _ _ (noticeAt ..); with_reducible apply noticeAt_entered)
    | (guard_target = Entered _ _ _ (State.onTime ..); with_reducible refine Entered.ofOnly ?_ (State.onTime_only ..))
    | extract_lets
    | dsimp only
    | split
    | dsimp +zetaDelta only

theorem acceptClock_entered {dv pv : DevState} {kv : Nat} (pm : Tick) (sol : Nat) (drift : Int) {s : State} (hI : Entered dv pv kv s) : Entered dv pv kv (acceptClock pm sol drift s) := by
  unfold acceptClock
  try extract_lets
  repeat' first
    | with_reducible assumption
    | with_reducible refine Entered.ite ?_ ?_
    | (guard_target = Entered _ _ _ (noticeNow ..); with_reducible refine Entered.ofOnly ?_ (noticeNow_only ..))
    | (guard_target = Entered _ _ _ (restartPps ..); with_reducible refine Entered.ofOnly ?_ (restartPps_only ..))
    | (guard_target = Entered _ _ _ (setRtc ..); with_reducible refine Entered.ofOnly ?_ (setRtc_only ..))
    | (guard_target = Entered _ _ _ (setTState ..); with_reducible apply setTState_entered)
    | (guard_target = Entered _ _ _ (State.onTime ..); with_reducible refine Entered.ofOnly ?_ (State.onTime_only ..))
    | extract_lets
    | dsimp only
    | split
    | dsimp +zetaDelta only

theorem timeEpoch_entered {dv pv : DevState} {kv : Nat} (pm : Tick) (m : EpochIn) (sol : Nat) (barred : Bool) {s : State} (hI : Entered dv pv kv s) : Entered dv pv kv (timeEpoch pm m sol barred s) := by
  unfold timeEpoch
  try extract_lets
  repeat' first
    | with_reducible assumption
    | with_reducible refine Entered.ite ?_ ?_
    | (guard_target = Entered _ _ _ (acceptClock ..); with_reducible apply acceptClock_entered)
    | (guard_target = Entered _ _ _ (State.onTime ..); with_reducible refine Entered.ofOnly ?_ (State.onTime_only ..))
    | extract_lets
    | dsimp only
    | split
    | dsimp +zetaDelta only

theorem execHoldoverEntry_entered {dv pv : DevState} {kv : Nat}  {s : State} (hI : Entered dv pv kv s) : EnteredR dv pv kv (execHoldoverEntry s) := by
  unfold execHoldoverEntry
  try extract_lets
  repeat' first
    | with_reducible assumption
    | with_reducible refine EnteredR.next ?_
    | with_reducible refine EnteredR.ite ?_ ?_
    | with_reducible refine Entered.ite ?_ ?_
    | (guard_target = Entered _ _ _ (setTState ..); with_reducible apply setTState_entered)
    | extract_lets
    | dsimp only
    | split
    | dsimp +zetaDelta only

theorem execHoldoverLimitExpiry_entered {dv pv : DevState} {kv : Nat}  {s : State} (hI : Entered dv pv kv s) : EnteredR dv pv kv (execHoldoverLimitExpiry s) := by
  unfold execHoldoverLimitExpiry
  try extract_lets
  repeat' first
    | with_reducible assumption
    | with_reducible refine EnteredR.next ?_
    | with_reducible refine EnteredR.ite ?_ ?_
    | with_reducible refine Entered.ite ?_ ?_
    | (guard_target = Entered _ _ _ (setTState ..); with_reducible apply setTState_entered)
    | extract_lets
    | dsimp only
    | split
    | dsimp +zetaDelta only

theorem execPpsPulse_entered {dv pv : DevState} {kv : Nat}  {s : State} (hI : Entered dv pv kv s) : EnteredR dv pv kv (execPpsPulse s) := by
  unfold execPpsPulse
  try extract_lets
  repeat' first
    | with_reducible assumption
    | with_reducible refine EnteredR.next ?_
    | with_reducible refine EnteredR.ite ?_ ?_
    | with_reducible refine Entered.ite ?_ ?_
    | (guard_target = Entered _ _ _ (emitPulse ..); with_reducible refine Entered.ofOnly ?_ (emitPulse_only ..))
    | (guard_target = Entered _ _ _ (logModel ..); with_reducible apply logModel_entered)
    | (guard_target = Entered _ _ _ (noticeNow ..); with_reducible refine Entered.ofOnly ?_ (noticeNow_only ..))
    | (guard_target = Entered _ _ _ (setRtc ..); with_reducible refine Entered.ofOnly ?_ (setRtc_only ..))
    | (guard_target = Entered _ _ _ (setTState ..); with_reducible apply setTState_entered)
    | (guard_target = Entered _ _ _ (State.onTime ..); with_reducible refine Entered.ofOnly ?_ (State.onTime_only ..))
    | extract_lets
    | dsimp only
    | split
    | dsimp +zetaDelta only

theorem noteShed_entered {dv pv : DevState} {kv : Nat} (c : Fin 16) {s : State} (hI : Entered dv pv kv s) : Entered dv pv kv (noteShed c s) := by
  unfold noteShed
  try extract_lets
  repeat' first
    | with_reducible assumption
    | dsimp only [id]
    | with_reducible refine Entered.ite ?_ ?_
    | (guard_target = Entered _ _ _ (modLsw ..); with_reducible refine Entered.ofOnly ?_ (modLsw_only ..))
    | (guard_target = Entered _ _ _ (notice ..); with_reducible apply notice_entered)
    | extract_lets
    | dsimp only
    | split
    | dsimp +zetaDelta only

theorem lswSync_entered {dv pv : DevState} {kv : Nat} (c : Fin 16) {s0 : State} (hI : Entered dv pv kv s0) : Entered dv pv kv (lswSync c s0) := by
  unfold lswSync
  try extract_lets
  repeat' first
    | with_reducible assumption
    | with_reducible refine Entered.ite ?_ ?_
    | (guard_target = Entered _ _ _ (lswTurnOff ..); with_reducible refine Entered.ofOnly ?_ (lswTurnOff_only ..))
    | (guard_target = Entered _ _ _ (lswTurnOn ..); with_reducible refine Entered.ofOnly ?_ (lswTurnOn_only ..))
    | (guard_target = Entered _ _ _ (modLsw ..); with_reducible refine Entered.ofOnly ?_ (modLsw_only ..))
    | (guard_target = Entered _ _ _ (noteCoast ..); with_reducible refine Entered.ofOnly ?_ (noteCoast_only ..))
    | (guard_target = Entered _ _ _ (noteShed ..); with_reducible apply noteShed_entered)
    | extract_lets
    | dsimp only
    | split
    | dsimp +zetaDelta only

theorem lswSyncAll_entered {dv pv : DevState} {kv : Nat}  {s : State} (hI : Entered dv pv kv s) : Entered dv pv kv (lswSyncAll s) := by
  unfold lswSyncAll
  try extract_lets
  repeat' first
    | with_reducible assumption
    | with_reducible refine Entered.ite ?_ ?_
    | (guard_target = Entered _ _ _ (lswSync ..); with_reducible apply lswSync_entered)
    | with_reducible refine Entered.foldl (fun _ _ _ => ?_) ?_
    | with_reducible refine Entered.foldlFst (fun _ _ _ _ => ?_) ?_
    | extract_lets
    | dsimp only
    | split
    | dsimp +zetaDelta only

theorem reportCoast_entered {dv pv : DevState} {kv : Nat}  {s : State} (hI : Entered dv pv kv s) : Entered dv pv kv (reportCoast s) := by
  unfold reportCoast
  try extract_lets
  repeat' first
    | with_reducible assumption
    | with_reducible refine Entered.ite ?_ ?_
    | (guard_target = Entered _ _ _ (modLsw ..); with_reducible refine Entered.ofOnly ?_ (modLsw_only ..))
    | (guard_target = Entered _ _ _ (notice ..); with_reducible apply notice_entered)
    | with_reducible refine Entered.foldl (fun _ _ _ => ?_) ?_
    | with_reducible refine Entered.foldlFst (fun _ _ _ _ => ?_) ?_
    | extract_lets
    | dsimp only
    | split
    | dsimp +zetaDelta only

theorem lswFaultClear_entered {dv pv : DevState} {kv : Nat} (c : Fin 16) {s : State} (hI : Entered dv pv kv s) : Entered dv pv kv (lswFaultClear c s) := by
  unfold lswFaultClear
  try extract_lets
  repeat' first
    | with_reducible assumption
    | with_reducible refine Entered.ite ?_ ?_
    | (guard_target = Entered _ _ _ (endFault ..); with_reducible apply endFault_entered)
    | extract_lets
    | dsimp only
    | split
    | dsimp +zetaDelta only

theorem lswReport_entered {dv pv : DevState} {kv : Nat} (c : Fin 16) (code : Nat) {s : State} (hI : Entered dv pv kv s) : Entered dv pv kv (lswReport c code s) := by
  unfold lswReport
  try extract_lets
  repeat' first
    | with_reducible assumption
    | with_reducible refine Entered.ite ?_ ?_
    | (guard_target = Entered _ _ _ (logFault ..); with_reducible apply logFault_entered)
    | (guard_target = Entered _ _ _ (notice ..); with_reducible apply notice_entered)
    | extract_lets
    | dsimp only
    | split
    | dsimp +zetaDelta only

theorem lswTrip_entered {dv pv : DevState} {kv : Nat} (c : Fin 16) (code : Nat) (f : Lsw → Lsw) {s : State} (hI : Entered dv pv kv s) : Entered dv pv kv (lswTrip c code f s) := by
  unfold lswTrip
  try extract_lets
  repeat' first
    | with_reducible assumption
    | with_reducible refine Entered.ite ?_ ?_
    | (guard_target = Entered _ _ _ (endHold ..); with_reducible refine Entered.ofOnly ?_ (endHold_only ..))
    | (guard_target = Entered _ _ _ (hold ..); with_reducible refine Entered.ofOnly ?_ (hold_only ..))
    | (guard_target = Entered _ _ _ (lswReport ..); with_reducible apply lswReport_entered)
    | (guard_target = Entered _ _ _ (modLsw ..); with_reducible refine Entered.ofOnly ?_ (modLsw_only ..))
    | (guard_target = Entered _ _ _ (noteCoast ..); with_reducible refine Entered.ofOnly ?_ (noteCoast_only ..))
    | extract_lets
    | dsimp only
    | split
    | dsimp +zetaDelta only

theorem execLswShort_entered {dv pv : DevState} {kv : Nat} (c : Fin 16) {s : State} (hI : Entered dv pv kv s) : EnteredR dv pv kv (execLswShort c s) := by
  unfold execLswShort
  try extract_lets
  repeat' first
    | with_reducible assumption
    | with_reducible refine EnteredR.next ?_
    | with_reducible refine EnteredR.ite ?_ ?_
    | with_reducible refine Entered.ite ?_ ?_
    | (guard_target = Entered _ _ _ (lswTrip ..); with_reducible apply lswTrip_entered)
    | extract_lets
    | dsimp only
    | split
    | dsimp +zetaDelta only

theorem execLswOverload_entered {dv pv : DevState} {kv : Nat} (c : Fin 16) {s : State} (hI : Entered dv pv kv s) : EnteredR dv pv kv (execLswOverload c s) := by
  unfold execLswOverload
  try extract_lets
  repeat' first
    | with_reducible assumption
    | with_reducible refine EnteredR.next ?_
    | with_reducible refine EnteredR.ite ?_ ?_
    | with_reducible refine Entered.ite ?_ ?_
    | (guard_target = Entered _ _ _ (lswTrip ..); with_reducible apply lswTrip_entered)
    | extract_lets
    | dsimp only
    | split
    | dsimp +zetaDelta only

theorem lswTemp_entered {dv pv : DevState} {kv : Nat} (c : Fin 16) (r : Int) {s : State} (hI : Entered dv pv kv s) : Entered dv pv kv (lswTemp c r s) := by
  unfold lswTemp
  try extract_lets
  repeat' first
    | with_reducible assumption
    | with_reducible refine Entered.ite ?_ ?_
    | (guard_target = Entered _ _ _ (lswFaultClear ..); with_reducible apply lswFaultClear_entered)
    | (guard_target = Entered _ _ _ (lswSync ..); with_reducible apply lswSync_entered)
    | (guard_target = Entered _ _ _ (lswTrip ..); with_reducible apply lswTrip_entered)
    | (guard_target = Entered _ _ _ (modLsw ..); with_reducible refine Entered.ofOnly ?_ (modLsw_only ..))
    | extract_lets
    | dsimp only
    | split
    | dsimp +zetaDelta only

theorem execLswOpenLoad_entered {dv pv : DevState} {kv : Nat} (c : Fin 16) (present : Bool) {s : State} (hI : Entered dv pv kv s) : EnteredR dv pv kv (execLswOpenLoad c present s) := by
  unfold execLswOpenLoad
  try extract_lets
  repeat' first
    | with_reducible assumption
    | with_reducible refine EnteredR.next ?_
    | with_reducible refine EnteredR.ite ?_ ?_
    | with_reducible refine Entered.ite ?_ ?_
    | (guard_target = Entered _ _ _ (lswFaultClear ..); with_reducible apply lswFaultClear_entered)
    | (guard_target = Entered _ _ _ (lswReport ..); with_reducible apply lswReport_entered)
    | (guard_target = Entered _ _ _ (modLsw ..); with_reducible refine Entered.ofOnly ?_ (modLsw_only ..))
    | extract_lets
    | dsimp only
    | split
    | dsimp +zetaDelta only

theorem execLswShortBat_entered {dv pv : DevState} {kv : Nat} (c : Fin 16) (present : Bool) {s : State} (hI : Entered dv pv kv s) : EnteredR dv pv kv (execLswShortBat c present s) := by
  unfold execLswShortBat
  try extract_lets
  repeat' first
    | with_reducible assumption
    | with_reducible refine EnteredR.next ?_
    | with_reducible refine EnteredR.ite ?_ ?_
    | with_reducible refine Entered.ite ?_ ?_
    | (guard_target = Entered _ _ _ (lswFaultClear ..); with_reducible apply lswFaultClear_entered)
    | (guard_target = Entered _ _ _ (lswReport ..); with_reducible apply lswReport_entered)
    | (guard_target = Entered _ _ _ (modLsw ..); with_reducible refine Entered.ofOnly ?_ (modLsw_only ..))
    | extract_lets
    | dsimp only
    | split
    | dsimp +zetaDelta only

theorem shedOne_entered {dv pv : DevState} {kv : Nat}  {s : State} (hI : Entered dv pv kv s) : Entered dv pv kv (shedOne s) := by
  unfold shedOne
  try extract_lets
  repeat' first
    | with_reducible assumption
    | with_reducible refine Entered.ite ?_ ?_
    | (guard_target = Entered _ _ _ (lswReport ..); with_reducible apply lswReport_entered)
    | (guard_target = Entered _ _ _ (modLsw ..); with_reducible refine Entered.ofOnly ?_ (modLsw_only ..))
    | (guard_target = Entered _ _ _ (noteCoast ..); with_reducible refine Entered.ofOnly ?_ (noteCoast_only ..))
    | extract_lets
    | dsimp only
    | split
    | dsimp +zetaDelta only

theorem execAggregate_entered {dv pv : DevState} {kv : Nat} (meanMa : Nat) {s : State} (hI : Entered dv pv kv s) : EnteredR dv pv kv (execAggregate meanMa s) := by
  unfold execAggregate
  try extract_lets
  repeat' first
    | with_reducible assumption
    | with_reducible refine EnteredR.next ?_
    | with_reducible refine EnteredR.ite ?_ ?_
    | with_reducible refine Entered.ite ?_ ?_
    | (guard_target = Entered _ _ _ (shedOne ..); with_reducible apply shedOne_entered)
    | (guard_target = Entered _ _ _ (State.onLsw ..); with_reducible refine Entered.ofOnly ?_ (State.onLsw_only ..))
    | extract_lets
    | dsimp only
    | split
    | dsimp +zetaDelta only

theorem execAggregateShedStep_entered {dv pv : DevState} {kv : Nat} (meanMa : Nat) {s : State} (hI : Entered dv pv kv s) : EnteredR dv pv kv (execAggregateShedStep meanMa s) := by
  unfold execAggregateShedStep
  try extract_lets
  repeat' first
    | with_reducible assumption
    | with_reducible refine EnteredR.next ?_
    | with_reducible refine EnteredR.ite ?_ ?_
    | with_reducible refine Entered.ite ?_ ?_
    | (guard_target = Entered _ _ _ (shedOne ..); with_reducible apply shedOne_entered)
    | (guard_target = Entered _ _ _ (State.onLsw ..); with_reducible refine Entered.ofOnly ?_ (State.onLsw_only ..))
    | extract_lets
    | dsimp only
    | split
    | dsimp +zetaDelta only

theorem lswUnlatch_entered {dv pv : DevState} {kv : Nat} (c : Fin 16) {s : State} (hI : Entered dv pv kv s) : Entered dv pv kv (lswUnlatch c s) := by
  unfold lswUnlatch
  try extract_lets
  repeat' first
    | with_reducible assumption
    | with_reducible refine Entered.ite ?_ ?_
    | (guard_target = Entered _ _ _ (lswFaultClear ..); with_reducible apply lswFaultClear_entered)
    | (guard_target = Entered _ _ _ (modLsw ..); with_reducible refine Entered.ofOnly ?_ (modLsw_only ..))
    | extract_lets
    | dsimp only
    | split
    | dsimp +zetaDelta only

theorem execLswRetryDue_entered {dv pv : DevState} {kv : Nat} (c : Fin 16) {s : State} (hI : Entered dv pv kv s) : EnteredR dv pv kv (execLswRetryDue c s) := by
  unfold execLswRetryDue
  try extract_lets
  repeat' first
    | with_reducible assumption
    | with_reducible refine EnteredR.next ?_
    | with_reducible refine EnteredR.ite ?_ ?_
    | with_reducible refine Entered.ite ?_ ?_
    | (guard_target = Entered _ _ _ (lswSync ..); with_reducible apply lswSync_entered)
    | (guard_target = Entered _ _ _ (lswUnlatch ..); with_reducible apply lswUnlatch_entered)
    | (guard_target = Entered _ _ _ (modLsw ..); with_reducible refine Entered.ofOnly ?_ (modLsw_only ..))
    | (guard_target = Entered _ _ _ (notice ..); with_reducible apply notice_entered)
    | (guard_target = Entered _ _ _ (State.onPd0 ..); refine Inv.onPd0 ?_ fun d hd => by simp only [List.length_map, List.length_take, List.length_cons]; omega)
    | (guard_target = Entered _ _ _ (State.onPd0 ..); with_reducible refine Entered.ofOnly ?_ (State.onPd0_only ..))
    | extract_lets
    | dsimp only
    | split
    | dsimp +zetaDelta only

theorem execOffAfterExpiry_entered {dv pv : DevState} {kv : Nat} (c : Fin 16) {s : State} (hI : Entered dv pv kv s) : EnteredR dv pv kv (execOffAfterExpiry c s) := by
  unfold execOffAfterExpiry
  try extract_lets
  repeat' first
    | with_reducible assumption
    | with_reducible refine EnteredR.next ?_
    | with_reducible refine EnteredR.ite ?_ ?_
    | with_reducible refine Entered.ite ?_ ?_
    | (guard_target = Entered _ _ _ (lswSync ..); with_reducible apply lswSync_entered)
    | extract_lets
    | dsimp only
    | split
    | dsimp +zetaDelta only

theorem execKeyoffHoldEnd_entered {dv pv : DevState} {kv : Nat} (c : Fin 16) {s : State} (hI : Entered dv pv kv s) : EnteredR dv pv kv (execKeyoffHoldEnd c s) := by
  unfold execKeyoffHoldEnd
  try extract_lets
  repeat' first
    | with_reducible assumption
    | with_reducible refine EnteredR.next ?_
    | with_reducible refine EnteredR.ite ?_ ?_
    | with_reducible refine Entered.ite ?_ ?_
    | (guard_target = Entered _ _ _ (endHold ..); with_reducible refine Entered.ofOnly ?_ (endHold_only ..))
    | (guard_target = Entered _ _ _ (lswSync ..); with_reducible apply lswSync_entered)
    | extract_lets
    | dsimp only
    | split
    | dsimp +zetaDelta only

theorem lswGroundLoss_entered {dv pv : DevState} {kv : Nat}  {s : State} (hI : Entered dv pv kv s) : Entered dv pv kv (lswGroundLoss s) := by
  unfold lswGroundLoss
  try extract_lets
  repeat' first
    | with_reducible assumption
    | with_reducible refine Entered.ite ?_ ?_
    | (guard_target = Entered _ _ _ (lswTurnOff ..); with_reducible refine Entered.ofOnly ?_ (lswTurnOff_only ..))
    | (guard_target = Entered _ _ _ (modLsw ..); with_reducible refine Entered.ofOnly ?_ (modLsw_only ..))
    | (guard_target = Entered _ _ _ (noteCoast ..); with_reducible refine Entered.ofOnly ?_ (noteCoast_only ..))
    | (guard_target = Entered _ _ _ (notice ..); with_reducible apply notice_entered)
    | with_reducible refine Entered.foldl (fun _ _ _ => ?_) ?_
    | with_reducible refine Entered.foldlFst (fun _ _ _ _ => ?_) ?_
    | extract_lets
    | dsimp only
    | split
    | dsimp +zetaDelta only

theorem lswGroundBack_entered {dv pv : DevState} {kv : Nat}  {s : State} (hI : Entered dv pv kv s) : Entered dv pv kv (lswGroundBack s) := by
  unfold lswGroundBack
  try extract_lets
  repeat' first
    | with_reducible assumption
    | with_reducible refine Entered.ite ?_ ?_
    | (guard_target = Entered _ _ _ (lswSyncAll ..); with_reducible apply lswSyncAll_entered)
    | (guard_target = Entered _ _ _ (State.onLsw ..); with_reducible refine Entered.ofOnly ?_ (State.onLsw_only ..))
    | extract_lets
    | dsimp only
    | split
    | dsimp +zetaDelta only

theorem commitLsw_entered {dv pv : DevState} {kv : Nat} (e : Tick) (old : Params) {s : State} (hI : Entered dv pv kv s) : Entered dv pv kv (commitLsw e old s) := by
  unfold commitLsw
  try extract_lets
  repeat' first
    | with_reducible assumption
    | with_reducible refine Entered.ite ?_ ?_
    | (guard_target = Entered _ _ _ (lswSyncAll ..); with_reducible apply lswSyncAll_entered)
    | (guard_target = Entered _ _ _ (State.onLsw ..); with_reducible refine Entered.ofOnly ?_ (State.onLsw_only ..))
    | extract_lets
    | dsimp only
    | split
    | dsimp +zetaDelta only

theorem opLswSet_entered {dv pv : DevState} {kv : Nat} (e : Env) {s : State} (hI : Entered dv pv kv s) : Entered dv pv kv (opLswSet e s).1 := by
  unfold opLswSet
  try extract_lets
  repeat' first
    | with_reducible assumption
    | with_reducible refine Entered.iteFst ?_ ?_
    | with_reducible refine Entered.ite ?_ ?_
    | (guard_target = Entered _ _ _ (waitEdge ..); with_reducible apply waitEdge_entered)
    | extract_lets
    | dsimp only
    | split
    | dsimp +zetaDelta only

theorem applyLswSet_entered {dv pv : DevState} {kv : Nat} (c : Fin 16) (on : Bool) (duty : Option Nat) (t : Tick) {s : State} (hI : Entered dv pv kv s) : Entered dv pv kv (applyLswSet c on duty t s) := by
  unfold applyLswSet
  try extract_lets
  repeat' first
    | with_reducible assumption
    | with_reducible refine Entered.ite ?_ ?_
    | (guard_target = Entered _ _ _ (endHold ..); with_reducible refine Entered.ofOnly ?_ (endHold_only ..))
    | (guard_target = Entered _ _ _ (lswSync ..); with_reducible apply lswSync_entered)
    | (guard_target = Entered _ _ _ (writeLswDuty ..); with_reducible refine Entered.ofOnly ?_ (writeLswDuty_only ..))
    | (guard_target = Entered _ _ _ (State.onPd0 ..); refine Inv.onPd0 ?_ fun d hd => by simp only [List.length_map, List.length_take, List.length_cons]; omega)
    | (guard_target = Entered _ _ _ (State.onPd0 ..); with_reducible refine Entered.ofOnly ?_ (State.onPd0_only ..))
    | extract_lets
    | dsimp only
    | split
    | dsimp +zetaDelta only

theorem applyLswResume_entered {dv pv : DevState} {kv : Nat} (c : Fin 16) {s : State} (hI : Entered dv pv kv s) : Entered dv pv kv (applyLswResume c s) := by
  unfold applyLswResume
  try extract_lets
  repeat' first
    | with_reducible assumption
    | with_reducible refine Entered.ite ?_ ?_
    | (guard_target = Entered _ _ _ (lswSync ..); with_reducible apply lswSync_entered)
    | (guard_target = Entered _ _ _ (modLsw ..); with_reducible refine Entered.ofOnly ?_ (modLsw_only ..))
    | extract_lets
    | dsimp only
    | split
    | dsimp +zetaDelta only

theorem opLswClearFault_entered {dv pv : DevState} {kv : Nat} (e : Env) {s : State} (hI : Entered dv pv kv s) : Entered dv pv kv (opLswClearFault e s).1 := by
  unfold opLswClearFault
  try extract_lets
  repeat' first
    | with_reducible assumption
    | with_reducible refine Entered.iteFst ?_ ?_
    | with_reducible refine Entered.ite ?_ ?_
    | dsimp only [deny, doneEdge]
    | (guard_target = Entered _ _ _ (lswReload ..); with_reducible refine Entered.ofOnly ?_ (lswReload_only ..))
    | (guard_target = Entered _ _ _ (lswUnlatch ..); with_reducible apply lswUnlatch_entered)
    | (guard_target = Entered _ _ _ (modLsw ..); with_reducible refine Entered.ofOnly ?_ (modLsw_only ..))
    | (guard_target = Entered _ _ _ (waitEdge ..); with_reducible apply waitEdge_entered)
    | extract_lets
    | dsimp only
    | split
    | dsimp +zetaDelta only

theorem execLoopEvaluation_entered {dv pv : DevState} {kv : Nat} (k : Fin 16) {s : State} (hI : Entered dv pv kv s) : EnteredR dv pv kv (execLoopEvaluation k s) := by
  unfold execLoopEvaluation
  try extract_lets
  repeat' first
    | with_reducible assumption
    | with_reducible refine EnteredR.next ?_
    | with_reducible refine EnteredR.ite ?_ ?_
    | with_reducible refine Entered.ite ?_ ?_
    | (guard_target = Entered _ _ _ (modLoop ..); with_reducible refine Entered.ofOnly ?_ (modLoop_only ..))
    | (guard_target = Entered _ _ _ (notice ..); with_reducible apply notice_entered)
    | (guard_target = Entered _ _ _ (writeOutput ..); with_reducible refine Entered.ofOnly ?_ (writeOutput_only ..))
    | extract_lets
    | dsimp only
    | split
    | dsimp +zetaDelta only

theorem countLoopMiss_entered {dv pv : DevState} {kv : Nat} (k : Fin 16) (t : Tick) {s : State} (hI : Entered dv pv kv s) : Entered dv pv kv (countLoopMiss k t s) := by
  unfold countLoopMiss
  try extract_lets
  repeat' first
    | with_reducible assumption
    | with_reducible refine Entered.ite ?_ ?_
    | (guard_target = Entered _ _ _ (modLoop ..); with_reducible refine Entered.ofOnly ?_ (modLoop_only ..))
    | (guard_target = Entered _ _ _ (notice ..); with_reducible apply notice_entered)
    | (guard_target = Entered _ _ _ (writeOutput ..); with_reducible refine Entered.ofOnly ?_ (writeOutput_only ..))
    | (guard_target = Entered _ _ _ (State.onCe ..); with_reducible refine Entered.ofOnly ?_ (State.onCe_only ..))
    | extract_lets
    | dsimp only
    | split
    | dsimp +zetaDelta only

theorem applyLoopReset_entered {dv pv : DevState} {kv : Nat} (k : Fin 16) (e : Tick) {s : State} (hI : Entered dv pv kv s) : Entered dv pv kv (applyLoopReset k e s) := by
  unfold applyLoopReset
  try extract_lets
  repeat' first
    | with_reducible assumption
    | with_reducible refine Entered.ite ?_ ?_
    | (guard_target = Entered _ _ _ (endFault ..); with_reducible apply endFault_entered)
    | (guard_target = Entered _ _ _ (modLoop ..); with_reducible refine Entered.ofOnly ?_ (modLoop_only ..))
    | extract_lets
    | dsimp only
    | split
    | dsimp +zetaDelta only

theorem execFlowImbalance_entered {dv pv : DevState} {kv : Nat} (j : Fin 4) {s : State} (hI : Entered dv pv kv s) : EnteredR dv pv kv (execFlowImbalance j s) := by
  unfold execFlowImbalance
  try extract_lets
  repeat' first
    | with_reducible assumption
    | with_reducible refine EnteredR.next ?_
    | with_reducible refine EnteredR.ite ?_ ?_
    | with_reducible refine Entered.ite ?_ ?_
    | (guard_target = Entered _ _ _ (modFlow ..); with_reducible refine Entered.ofOnly ?_ (modFlow_only ..))
    | (guard_target = Entered _ _ _ (notice ..); with_reducible apply notice_entered)
    | extract_lets
    | dsimp only
    | split
    | dsimp +zetaDelta only

theorem opCeSetpoint_entered {dv pv : DevState} {kv : Nat} (e : Env) {s : State} (hI : Entered dv pv kv s) : Entered dv pv kv (opCeSetpoint e s).1 := by
  unfold opCeSetpoint
  try extract_lets
  repeat' first
    | with_reducible assumption
    | with_reducible refine Entered.iteFst ?_ ?_
    | with_reducible refine Entered.ite ?_ ?_
    | dsimp only [deny, doneEdge]
    | (guard_target = Entered _ _ _ (waitEdge ..); with_reducible apply waitEdge_entered)
    | extract_lets
    | dsimp only
    | split
    | dsimp +zetaDelta only

theorem opCeOutput_entered {dv pv : DevState} {kv : Nat} (e : Env) {s : State} (hI : Entered dv pv kv s) : Entered dv pv kv (opCeOutput e s).1 := by
  unfold opCeOutput
  try extract_lets
  repeat' first
    | with_reducible assumption
    | with_reducible refine Entered.iteFst ?_ ?_
    | with_reducible refine Entered.ite ?_ ?_
    | dsimp only [deny, doneEdge]
    | (guard_target = Entered _ _ _ (waitEdge ..); with_reducible apply waitEdge_entered)
    | extract_lets
    | dsimp only
    | split
    | dsimp +zetaDelta only

theorem opCeLoopReset_entered {dv pv : DevState} {kv : Nat} (e : Env) {s : State} (hI : Entered dv pv kv s) : Entered dv pv kv (opCeLoopReset e s).1 := by
  unfold opCeLoopReset
  try extract_lets
  repeat' first
    | with_reducible assumption
    | with_reducible refine Entered.iteFst ?_ ?_
    | with_reducible refine Entered.ite ?_ ?_
    | dsimp only [deny, doneEdge]
    | (guard_target = Entered _ _ _ (waitEdge ..); with_reducible apply waitEdge_entered)
    | extract_lets
    | dsimp only
    | split
    | dsimp +zetaDelta only

theorem channelOff_entered {dv pv : DevState} {kv : Nat} (c : Fin 96) (t : Tick) {s : State} (hI : Entered dv pv kv s) : Entered dv pv kv (channelOff c t s) := by
  unfold channelOff
  try extract_lets
  repeat' first
    | with_reducible assumption
    | with_reducible refine Entered.ite ?_ ?_
    | (guard_target = Entered _ _ _ (cancelStart ..); with_reducible refine Entered.ofOnly ?_ (cancelStart_only ..))
    | (guard_target = Entered _ _ _ (offRequest ..); with_reducible apply offRequest_entered)
    | extract_lets
    | dsimp only
    | split
    | dsimp +zetaDelta only

theorem valvesOff_entered {dv pv : DevState} {kv : Nat} (t : Tick) {s : State} (hI : Entered dv pv kv s) : Entered dv pv kv (valvesOff t s) := by
  unfold valvesOff
  try extract_lets
  repeat' first
    | with_reducible assumption
    | with_reducible refine Entered.ite ?_ ?_
    | (guard_target = Entered _ _ _ (channelOff ..); with_reducible apply channelOff_entered)
    | (guard_target = Entered _ _ _ (flushEvents ..); with_reducible refine Entered.ofOnly ?_ (flushEvents_only ..))
    | (guard_target = Entered _ _ _ (stopNozzles ..); with_reducible refine Entered.ofOnly ?_ (stopNozzles_only ..))
    | with_reducible refine Entered.foldl (fun _ _ _ => ?_) ?_
    | with_reducible refine Entered.foldlFst (fun _ _ _ _ => ?_) ?_
    | extract_lets
    | dsimp only
    | split
    | dsimp +zetaDelta only

theorem valvesCut_entered {dv pv : DevState} {kv : Nat} (t : Tick) {s : State} (hI : Entered dv pv kv s) : Entered dv pv kv (valvesCut t s) := by
  unfold valvesCut
  try extract_lets
  repeat' first
    | with_reducible assumption
    | with_reducible refine Entered.ite ?_ ?_
    | (guard_target = Entered _ _ _ (forceOff ..); with_reducible apply forceOff_entered)
    | (guard_target = Entered _ _ _ (State.onVdr ..); with_reducible refine Entered.ofOnly ?_ (State.onVdr_only ..))
    | with_reducible refine Entered.foldl (fun _ _ _ => ?_) ?_
    | with_reducible refine Entered.foldlFst (fun _ _ _ _ => ?_) ?_
    | extract_lets
    | dsimp only
    | split
    | dsimp +zetaDelta only

theorem canOff_entered {dv pv : DevState} {kv : Nat}  {s : State} (hI : Entered dv pv kv s) : Entered dv pv kv (canOff s) := by
  unfold canOff
  try extract_lets
  repeat' first
    | with_reducible assumption
    | with_reducible refine Entered.ite ?_ ?_
    | (guard_target = Entered _ _ _ (takeOff ..); with_reducible apply takeOff_entered)
    | (guard_target = Entered _ _ _ (State.onCan ..); with_reducible refine Entered.ofOnly ?_ (State.onCan_only ..))
    | with_reducible refine Entered.foldl (fun _ _ _ => ?_) ?_
    | with_reducible refine Entered.foldlFst (fun _ _ _ _ => ?_) ?_
    | extract_lets
    | dsimp only
    | split
    | dsimp +zetaDelta only

theorem execAntOpen_entered {dv pv : DevState} {kv : Nat} (ma : Nat) {s : State} (hI : Entered dv pv kv s) : EnteredR dv pv kv (execAntOpen ma s) := by
  unfold execAntOpen
  try extract_lets
  repeat' first
    | with_reducible assumption
    | with_reducible refine EnteredR.next ?_
    | with_reducible refine EnteredR.ite ?_ ?_
    | with_reducible refine Entered.ite ?_ ?_
    | (guard_target = Entered _ _ _ (notice ..); with_reducible apply notice_entered)
    | (guard_target = Entered _ _ _ (State.onGnss ..); with_reducible refine Entered.ofOnly ?_ (State.onGnss_only ..))
    | extract_lets
    | dsimp only
    | split
    | dsimp +zetaDelta only

theorem execAntShort_entered {dv pv : DevState} {kv : Nat} (ma : Nat) {s : State} (hI : Entered dv pv kv s) : EnteredR dv pv kv (execAntShort ma s) := by
  unfold execAntShort
  try extract_lets
  repeat' first
    | with_reducible assumption
    | with_reducible refine EnteredR.next ?_
    | with_reducible refine EnteredR.ite ?_ ?_
    | with_reducible refine Entered.ite ?_ ?_
    | (guard_target = Entered _ _ _ (notice ..); with_reducible apply notice_entered)
    | (guard_target = Entered _ _ _ (State.onGnss ..); with_reducible refine Entered.ofOnly ?_ (State.onGnss_only ..))
    | extract_lets
    | dsimp only
    | split
    | dsimp +zetaDelta only

theorem execAntBiasRetry_entered {dv pv : DevState} {kv : Nat} (ma : Nat) {s : State} (hI : Entered dv pv kv s) : EnteredR dv pv kv (execAntBiasRetry ma s) := by
  unfold execAntBiasRetry
  try extract_lets
  repeat' first
    | with_reducible assumption
    | with_reducible refine EnteredR.next ?_
    | with_reducible refine EnteredR.ite ?_ ?_
    | with_reducible refine Entered.ite ?_ ?_
    | (guard_target = Entered _ _ _ (notice ..); with_reducible apply notice_entered)
    | (guard_target = Entered _ _ _ (State.onGnss ..); with_reducible refine Entered.ofOnly ?_ (State.onGnss_only ..))
    | extract_lets
    | dsimp only
    | split
    | dsimp +zetaDelta only

theorem ephJump_entered {dv pv : DevState} {kv : Nat} (p : Fin 32) (iode dist : Nat) {s : State} (hI : Entered dv pv kv s) : Entered dv pv kv (ephJump p iode dist s) := by
  unfold ephJump
  try extract_lets
  repeat' first
    | with_reducible assumption
    | with_reducible refine Entered.ite ?_ ?_
    | (guard_target = Entered _ _ _ (modEph ..); with_reducible refine Entered.ofOnly ?_ (modEph_only ..))
    | (guard_target = Entered _ _ _ (notice ..); with_reducible apply notice_entered)
    | extract_lets
    | dsimp only
    | split
    | dsimp +zetaDelta only

theorem acceptEph_entered {dv pv : DevState} {kv : Nat} (p : Fin 32) (iode week10 health ura : Nat) (key : List Nat) (f : Eph → Eph) {s : State} (hI : Entered dv pv kv s) : Entered dv pv kv (acceptEph p iode week10 health ura key f s) := by
  unfold acceptEph
  try extract_lets
  repeat' first
    | with_reducible assumption
    | with_reducible refine Entered.ite ?_ ?_
    | (guard_target = Entered _ _ _ (ephJump ..); with_reducible apply ephJump_entered)
    | (guard_target = Entered _ _ _ (modEph ..); with_reducible refine Entered.ofOnly ?_ (modEph_only ..))
    | extract_lets
    | dsimp only
    | split
    | dsimp +zetaDelta only

theorem resolveWeek_entered {dv pv : DevState} {kv : Nat} (w10 : Nat) {s : State} (hI : Entered dv pv kv s) : Entered dv pv kv (resolveWeek w10 s) := by
  unfold resolveWeek
  try extract_lets
  repeat' first
    | with_reducible assumption
    | with_reducible refine Entered.ite ?_ ?_
    | (guard_target = Entered _ _ _ (notice ..); with_reducible apply notice_entered)
    | (guard_target = Entered _ _ _ (State.onGnss ..); with_reducible refine Entered.ofOnly ?_ (State.onGnss_only ..))
    | extract_lets
    | dsimp only
    | split
    | dsimp +zetaDelta only

theorem execEphemerisAccept_entered {dv pv : DevState} {kv : Nat} (prn : Fin 32) {s : State} (hI : Entered dv pv kv s) : EnteredR dv pv kv (execEphemerisAccept prn s) := by
  unfold execEphemerisAccept
  try extract_lets
  repeat' first
    | with_reducible assumption
    | with_reducible refine EnteredR.next ?_
    | with_reducible refine EnteredR.ite ?_ ?_
    | with_reducible refine Entered.ite ?_ ?_
    | (guard_target = Entered _ _ _ (acceptEph ..); with_reducible apply acceptEph_entered)
    | (guard_target = Entered _ _ _ (resolveWeek ..); with_reducible apply resolveWeek_entered)
    | extract_lets
    | dsimp only
    | split
    | dsimp +zetaDelta only

theorem execMeasurementEpoch_entered {dv pv : DevState} {kv : Nat} (m : EpochIn) {s : State} (hI : Entered dv pv kv s) : EnteredR dv pv kv (execMeasurementEpoch m s) := by
  unfold execMeasurementEpoch
  try extract_lets
  repeat' first
    | with_reducible assumption
    | with_reducible refine EnteredR.next ?_
    | with_reducible refine EnteredR.ite ?_ ?_
    | with_reducible refine Entered.ite ?_ ?_
    | (guard_target = Entered _ _ _ (chansAfter ..); with_reducible refine Entered.ofOnly ?_ (chansAfter_only ..))
    | (guard_target = Entered _ _ _ (learnDrift ..); with_reducible refine Entered.ofOnly ?_ (learnDrift_only ..))
    | (guard_target = Entered _ _ _ (noticeNow ..); with_reducible refine Entered.ofOnly ?_ (noticeNow_only ..))
    | (guard_target = Entered _ _ _ (placeMonitors ..); with_reducible refine Entered.ofOnly ?_ (placeMonitors_only ..))
    | (guard_target = Entered _ _ _ (timeEpoch ..); with_reducible apply timeEpoch_entered)
    | (guard_target = Entered _ _ _ (State.onGnss ..); with_reducible refine Entered.ofOnly ?_ (State.onGnss_only ..))
    | extract_lets
    | dsimp only
    | split
    | dsimp +zetaDelta only

theorem take1019_entered {dv pv : DevState} {kv : Nat} (msg : List Byte) {s : State} (hI : Entered dv pv kv s) : Entered dv pv kv (take1019 msg s) := by
  unfold take1019
  try extract_lets
  repeat' first
    | with_reducible assumption
    | with_reducible refine Entered.ite ?_ ?_
    | (guard_target = Entered _ _ _ (acceptEph ..); with_reducible apply acceptEph_entered)
    | (guard_target = Entered _ _ _ (State.onGnss ..); with_reducible refine Entered.ofOnly ?_ (State.onGnss_only ..))
    | extract_lets
    | dsimp only
    | split
    | dsimp +zetaDelta only

theorem takeMessage_entered {dv pv : DevState} {kv : Nat} (msg : List Byte) {s : State} (hI : Entered dv pv kv s) : Entered dv pv kv (takeMessage msg s) := by
  unfold takeMessage
  try extract_lets
  repeat' first
    | with_reducible assumption
    | with_reducible refine Entered.ite ?_ ?_
    | (guard_target = Entered _ _ _ (take1004 ..); with_reducible refine Entered.ofOnly ?_ (take1004_only ..))
    | (guard_target = Entered _ _ _ (take1005 ..); with_reducible refine Entered.ofOnly ?_ (take1005_only ..))
    | (guard_target = Entered _ _ _ (take1019 ..); with_reducible apply take1019_entered)
    | (guard_target = Entered _ _ _ (State.onGnss ..); with_reducible refine Entered.ofOnly ?_ (State.onGnss_only ..))
    | extract_lets
    | dsimp only
    | split
    | dsimp +zetaDelta only

theorem execRtcmFrame_entered {dv pv : DevState} {kv : Nat}  {s : State} (hI : Entered dv pv kv s) : EnteredR dv pv kv (execRtcmFrame s) := by
  unfold execRtcmFrame
  try extract_lets
  repeat' first
    | with_reducible assumption
    | with_reducible refine EnteredR.next ?_
    | with_reducible refine EnteredR.ite ?_ ?_
    | with_reducible refine Entered.ite ?_ ?_
    | (guard_target = Entered _ _ _ (rtcmSearch ..); with_reducible refine Entered.ofOnly ?_ (rtcmSearch_only ..))
    | (guard_target = Entered _ _ _ (takeMessage ..); with_reducible apply takeMessage_entered)
    | extract_lets
    | dsimp only
    | split
    | dsimp +zetaDelta only

theorem flushCrossing_entered {dv pv : DevState} {kv : Nat} (n : Nat) {s : State} (hI : Entered dv pv kv s) : Entered dv pv kv (flushCrossing n s) := by
  unfold flushCrossing
  try extract_lets
  repeat' first
    | with_reducible assumption
    | with_reducible refine Entered.ite ?_ ?_
    | (guard_target = Entered _ _ _ (drawFree ..).1; with_reducible refine Entered.ofOnly ?_ (drawFree_only ..))
    | (guard_target = Entered _ _ _ (notice ..); with_reducible apply notice_entered)
    | (guard_target = Entered _ _ _ (State.onPwr ..); with_reducible refine Entered.ofOnly ?_ (State.onPwr_only ..))
    | extract_lets
    | dsimp only
    | split
    | dsimp +zetaDelta only

theorem beginRestart_entered {dv pv : DevState} {kv : Nat} (el : Element) (cause : Nat) {s : State} (hI : Entered dv pv kv s) : Entered dv pv kv (beginRestart el cause s) := by
  unfold beginRestart
  try extract_lets
  repeat' first
    | with_reducible assumption
    | with_reducible refine Entered.ite ?_ ?_
    | (guard_target = Entered _ _ _ (flushCrossing ..); with_reducible apply flushCrossing_entered)
    | (guard_target = Entered _ _ _ (modElem ..); with_reducible refine Entered.ofOnly ?_ (modElem_only ..))
    | (guard_target = Entered _ _ _ (resetElement ..); with_reducible refine Entered.ofOnly ?_ (resetElement_only ..))
    | (guard_target = Entered _ _ _ (trialRestart ..); with_reducible apply trialRestart_entered)
    | extract_lets
    | dsimp only
    | split
    | dsimp +zetaDelta only

theorem clockNote_entered {dv pv : DevState} {kv : Nat} (clock : Nat) (restored : Bool) {s : State} (hI : Entered dv pv kv s) : Entered dv pv kv (clockNote clock restored s) := by
  unfold clockNote
  try extract_lets
  repeat' first
    | with_reducible assumption
    | with_reducible refine Entered.ite ?_ ?_
    | (guard_target = Entered _ _ _ (notice ..); with_reducible apply notice_entered)
    | extract_lets
    | dsimp only
    | split
    | dsimp +zetaDelta only

theorem execPllRelock_entered {dv pv : DevState} {kv : Nat} (el : Element) (ok : Bool) {s : State} (hI : Entered dv pv kv s) : EnteredR dv pv kv (execPllRelock el ok s) := by
  unfold execPllRelock
  try extract_lets
  repeat' first
    | with_reducible assumption
    | with_reducible refine EnteredR.next ?_
    | with_reducible refine EnteredR.ite ?_ ?_
    | with_reducible refine Entered.ite ?_ ?_
    | (guard_target = Entered _ _ _ (clockNote ..); with_reducible apply clockNote_entered)
    | (guard_target = Entered _ _ _ (modElem ..); with_reducible refine Entered.ofOnly ?_ (modElem_only ..))
    | extract_lets
    | dsimp only
    | split
    | dsimp +zetaDelta only

theorem execClockBaseRestored_entered {dv pv : DevState} {kv : Nat}  {s : State} (hI : Entered dv pv kv s) : EnteredR dv pv kv (execClockBaseRestored s) := by
  unfold execClockBaseRestored
  try extract_lets
  repeat' first
    | with_reducible assumption
    | with_reducible refine EnteredR.next ?_
    | with_reducible refine EnteredR.ite ?_ ?_
    | with_reducible refine Entered.ite ?_ ?_
    | (guard_target = Entered _ _ _ (clockNote ..); with_reducible apply clockNote_entered)
    | (guard_target = Entered _ _ _ (endFault ..); with_reducible apply endFault_entered)
    | (guard_target = Entered _ _ _ (State.onPwr ..); with_reducible refine Entered.ofOnly ?_ (State.onPwr_only ..))
    | extract_lets
    | dsimp only
    | split
    | dsimp +zetaDelta only

theorem markElement_entered {dv pv : DevState} {kv : Nat} (el : Element) {s : State} (hI : Entered dv pv kv s) : Entered dv pv kv (markElement el s) := by
  unfold markElement
  try extract_lets
  repeat' first
    | with_reducible assumption
    | with_reducible refine Entered.ite ?_ ?_
    | (guard_target = Entered _ _ _ (endFault ..); with_reducible apply endFault_entered)
    | (guard_target = Entered _ _ _ (modElem ..); with_reducible refine Entered.ofOnly ?_ (modElem_only ..))
    | with_reducible refine Entered.foldl (fun _ _ _ => ?_) ?_
    | with_reducible refine Entered.foldlFst (fun _ _ _ _ => ?_) ?_
    | extract_lets
    | dsimp only
    | split
    | dsimp +zetaDelta only

theorem cleanFrames_entered {dv pv : DevState} {kv : Nat} (e : Tick) {s : State} (hI : Entered dv pv kv s) : Entered dv pv kv (cleanFrames e s) := by
  unfold cleanFrames
  try extract_lets
  repeat' first
    | with_reducible assumption
    | with_reducible refine Entered.ite ?_ ?_
    | (guard_target = Entered _ _ _ (markElement ..); with_reducible apply markElement_entered)
    | with_reducible refine Entered.foldl (fun _ _ _ => ?_) ?_
    | with_reducible refine Entered.foldlFst (fun _ _ _ _ => ?_) ?_
    | extract_lets
    | dsimp only
    | split
    | dsimp +zetaDelta only

theorem execSafeInRelease_entered {dv pv : DevState} {kv : Nat}  {s : State} (hI : Entered dv pv kv s) : EnteredR dv pv kv (execSafeInRelease s) := by
  unfold execSafeInRelease
  try extract_lets
  repeat' first
    | with_reducible assumption
    | with_reducible refine EnteredR.next ?_
    | with_reducible refine EnteredR.ite ?_ ?_
    | with_reducible refine Entered.ite ?_ ?_
    | (guard_target = Entered _ _ _ (endFault ..); with_reducible apply endFault_entered)
    | (guard_target = Entered _ _ _ (State.onSafe ..); with_reducible refine Entered.ofOnly ?_ (State.onSafe_only ..))
    | extract_lets
    | dsimp only
    | split
    | dsimp +zetaDelta only

theorem execBoost_entered {dv pv : DevState} {kv : Nat}  {s : State} (hI : Entered dv pv kv s) : EnteredR dv pv kv (execBoost s) := by
  unfold execBoost
  try extract_lets
  repeat' first
    | with_reducible assumption
    | with_reducible refine EnteredR.next ?_
    | with_reducible refine EnteredR.ite ?_ ?_
    | with_reducible refine Entered.ite ?_ ?_
    | (guard_target = Entered _ _ _ (leaveVbst ..); with_reducible refine Entered.ofOnly ?_ (leaveVbst_only ..))
    | (guard_target = Entered _ _ _ (logFault ..); with_reducible apply logFault_entered)
    | (guard_target = Entered _ _ _ (State.onVdr ..); with_reducible refine Entered.ofOnly ?_ (State.onVdr_only ..))
    | extract_lets
    | dsimp only
    | split
    | dsimp +zetaDelta only

theorem execBoostRetry_entered {dv pv : DevState} {kv : Nat} (ok : Bool) {s : State} (hI : Entered dv pv kv s) : EnteredR dv pv kv (execBoostRetry ok s) := by
  unfold execBoostRetry
  try extract_lets
  repeat' first
    | with_reducible assumption
    | with_reducible refine EnteredR.next ?_
    | with_reducible refine EnteredR.ite ?_ ?_
    | with_reducible refine Entered.ite ?_ ?_
    | (guard_target = Entered _ _ _ (endFault ..); with_reducible apply endFault_entered)
    | (guard_target = Entered _ _ _ (syncConv ..); with_reducible refine Entered.ofOnly ?_ (syncConv_only ..))
    | (guard_target = Entered _ _ _ (State.onVdr ..); with_reducible refine Entered.ofOnly ?_ (State.onVdr_only ..))
    | extract_lets
    | dsimp only
    | split
    | dsimp +zetaDelta only

theorem execEventExecute_entered {dv pv : DevState} {kv : Nat} (b : Fin 12) {s : State} (hI : Entered dv pv kv s) : EnteredR dv pv kv (execEventExecute b s) := by
  unfold execEventExecute
  try extract_lets
  repeat' first
    | with_reducible assumption
    | with_reducible refine EnteredR.next ?_
    | with_reducible refine EnteredR.ite ?_ ?_
    | with_reducible refine Entered.ite ?_ ?_
    | (guard_target = Entered _ _ _ (genOff ..); with_reducible refine Entered.ofOnly ?_ (genOff_only ..))
    | (guard_target = Entered _ _ _ (genOn ..); with_reducible apply genOn_entered)
    | (guard_target = Entered _ _ _ (modBank ..); with_reducible refine Entered.ofOnly ?_ (modBank_only ..))
    | (guard_target = Entered _ _ _ (notice ..); with_reducible apply notice_entered)
    | (guard_target = Entered _ _ _ (offRequest ..); with_reducible apply offRequest_entered)
    | extract_lets
    | dsimp only
    | split
    | dsimp +zetaDelta only

theorem execReservedStart_entered {dv pv : DevState} {kv : Nat} (c : Fin 96) {s : State} (hI : Entered dv pv kv s) : EnteredR dv pv kv (execReservedStart c s) := by
  unfold execReservedStart
  try extract_lets
  repeat' first
    | with_reducible assumption
    | with_reducible refine EnteredR.next ?_
    | with_reducible refine EnteredR.ite ?_ ?_
    | with_reducible refine Entered.ite ?_ ?_
    | (guard_target = Entered _ _ _ (afterDecay ..); with_reducible refine Entered.ofOnly ?_ (afterDecay_only ..))
    | (guard_target = Entered _ _ _ (dueStart ..).1; with_reducible apply dueStart_entered)
    | extract_lets
    | dsimp only
    | split
    | dsimp +zetaDelta only

theorem judgeInductance_entered {dv pv : DevState} {kv : Nat} (c : Fin 96) (l0 : Nat) {s : State} (hI : Entered dv pv kv s) : Entered dv pv kv (judgeInductance c l0 s) := by
  unfold judgeInductance
  try extract_lets
  repeat' first
    | with_reducible assumption
    | with_reducible refine Entered.ite ?_ ?_
    | (guard_target = Entered _ _ _ (contextFault ..); with_reducible apply contextFault_entered)
    | (guard_target = Entered _ _ _ (modProt ..); with_reducible refine Entered.ofOnly ?_ (modProt_only ..))
    | (guard_target = Entered _ _ _ (notice ..); with_reducible apply notice_entered)
    | (guard_target = Entered _ _ _ (putCoil ..); with_reducible refine Entered.ofOnly ?_ (putCoil_only ..))
    | extract_lets
    | dsimp only
    | split
    | dsimp +zetaDelta only

theorem execPullInEnd_entered {dv pv : DevState} {kv : Nat} (c : Fin 96) (l0 : Nat) {s : State} (hI : Entered dv pv kv s) : EnteredR dv pv kv (execPullInEnd c l0 s) := by
  unfold execPullInEnd
  try extract_lets
  repeat' first
    | with_reducible assumption
    | with_reducible refine EnteredR.next ?_
    | with_reducible refine EnteredR.ite ?_ ?_
    | with_reducible refine Entered.ite ?_ ?_
    | (guard_target = Entered _ _ _ (beginDecay ..); with_reducible apply beginDecay_entered)
    | (guard_target = Entered _ _ _ (hold ..); with_reducible refine Entered.ofOnly ?_ (hold_only ..))
    | (guard_target = Entered _ _ _ (judgeInductance ..); with_reducible apply judgeInductance_entered)
    | (guard_target = Entered _ _ _ (modCh ..); with_reducible refine Entered.ofOnly ?_ (modCh_only ..))
    | extract_lets
    | dsimp only
    | split
    | dsimp +zetaDelta only

theorem execDecayEnd_entered {dv pv : DevState} {kv : Nat} (c : Fin 96) (energy : Nat) {s : State} (hI : Entered dv pv kv s) : EnteredR dv pv kv (execDecayEnd c energy s) := by
  unfold execDecayEnd
  try extract_lets
  repeat' first
    | with_reducible assumption
    | with_reducible refine EnteredR.next ?_
    | with_reducible refine EnteredR.ite ?_ ?_
    | with_reducible refine Entered.ite ?_ ?_
    | (guard_target = Entered _ _ _ (afterDecay ..); with_reducible refine Entered.ofOnly ?_ (afterDecay_only ..))
    | (guard_target = Entered _ _ _ (bookFast ..); with_reducible refine Entered.ofOnly ?_ (bookFast_only ..))
    | (guard_target = Entered _ _ _ (finishDecay ..).1; with_reducible apply finishDecay_entered)
    | (guard_target = Entered _ _ _ (writeFiring ..); with_reducible apply writeFiring_entered)
    | extract_lets
    | dsimp only
    | split
    | dsimp +zetaDelta only

theorem takeOpening_entered {dv pv : DevState} {kv : Nat} (c : Fin 96) (at_ : Tick) {s : State} (hI : Entered dv pv kv s) : Entered dv pv kv (takeOpening c at_ s) := by
  unfold takeOpening
  try extract_lets
  repeat' first
    | with_reducible assumption
    | with_reducible refine Entered.ite ?_ ?_
    | (guard_target = Entered _ _ _ (contextClear ..); with_reducible apply contextClear_entered)
    | (guard_target = Entered _ _ _ (learn ..); with_reducible apply learn_entered)
    | (guard_target = Entered _ _ _ (modCh ..); with_reducible refine Entered.ofOnly ?_ (modCh_only ..))
    | (guard_target = Entered _ _ _ (modLat ..); with_reducible refine Entered.ofOnly ?_ (modLat_only ..))
    | (guard_target = Entered _ _ _ (writeFiring ..); with_reducible apply writeFiring_entered)
    | extract_lets
    | dsimp only
    | split
    | dsimp +zetaDelta only

theorem execOpeningSignature_entered {dv pv : DevState} {kv : Nat} (c : Fin 96) (g : SigIn) {s : State} (hI : Entered dv pv kv s) : EnteredR dv pv kv (execOpeningSignature c g s) := by
  unfold execOpeningSignature
  try extract_lets
  repeat' first
    | with_reducible assumption
    | with_reducible refine EnteredR.next ?_
    | with_reducible refine EnteredR.ite ?_ ?_
    | with_reducible refine Entered.ite ?_ ?_
    | (guard_target = Entered _ _ _ (hold ..); with_reducible refine Entered.ofOnly ?_ (hold_only ..))
    | (guard_target = Entered _ _ _ (takeOpening ..); with_reducible apply takeOpening_entered)
    | extract_lets
    | dsimp only
    | split
    | dsimp +zetaDelta only

theorem takeClosing_entered {dv pv : DevState} {kv : Nat} (c : Fin 96) (at_ : Tick) {s : State} (hI : Entered dv pv kv s) : Entered dv pv kv (takeClosing c at_ s) := by
  unfold takeClosing
  try extract_lets
  repeat' first
    | with_reducible assumption
    | with_reducible refine Entered.ite ?_ ?_
    | (guard_target = Entered _ _ _ (learn ..); with_reducible apply learn_entered)
    | (guard_target = Entered _ _ _ (writeFiring ..); with_reducible apply writeFiring_entered)
    | extract_lets
    | dsimp only
    | split
    | dsimp +zetaDelta only

theorem execClosingSignature_entered {dv pv : DevState} {kv : Nat} (c : Fin 96) (g : SigIn) (energy : Nat) {s : State} (hI : Entered dv pv kv s) : EnteredR dv pv kv (execClosingSignature c g energy s) := by
  unfold execClosingSignature
  try extract_lets
  repeat' first
    | with_reducible assumption
    | with_reducible refine EnteredR.next ?_
    | with_reducible refine EnteredR.ite ?_ ?_
    | with_reducible refine Entered.ite ?_ ?_
    | (guard_target = Entered _ _ _ (afterDecay ..); with_reducible refine Entered.ofOnly ?_ (afterDecay_only ..))
    | (guard_target = Entered _ _ _ (bookFast ..); with_reducible refine Entered.ofOnly ?_ (bookFast_only ..))
    | (guard_target = Entered _ _ _ (finishDecay ..).1; with_reducible apply finishDecay_entered)
    | (guard_target = Entered _ _ _ (takeClosing ..); with_reducible apply takeClosing_entered)
    | extract_lets
    | dsimp only
    | split
    | dsimp +zetaDelta only

theorem execOpeningSearchEnd_entered {dv pv : DevState} {kv : Nat} (c : Fin 96) {s : State} (hI : Entered dv pv kv s) : EnteredR dv pv kv (execOpeningSearchEnd c s) := by
  unfold execOpeningSearchEnd
  try extract_lets
  repeat' first
    | with_reducible assumption
    | with_reducible refine EnteredR.next ?_
    | with_reducible refine EnteredR.ite ?_ ?_
    | with_reducible refine Entered.ite ?_ ?_
    | (guard_target = Entered _ _ _ (endSearch ..); with_reducible apply endSearch_entered)
    | extract_lets
    | dsimp only
    | split
    | dsimp +zetaDelta only

theorem execBoostLimit_entered {dv pv : DevState} {kv : Nat} (avgMw : Nat) {s : State} (hI : Entered dv pv kv s) : EnteredR dv pv kv (execBoostLimit avgMw s) := by
  unfold execBoostLimit
  try extract_lets
  repeat' first
    | with_reducible assumption
    | with_reducible refine EnteredR.next ?_
    | with_reducible refine EnteredR.ite ?_ ?_
    | with_reducible refine Entered.ite ?_ ?_
    | (guard_target = Entered _ _ _ (notice ..); with_reducible apply notice_entered)
    | (guard_target = Entered _ _ _ (State.onVdr ..); with_reducible refine Entered.ofOnly ?_ (State.onVdr_only ..))
    | extract_lets
    | dsimp only
    | split
    | dsimp +zetaDelta only

theorem execVbstSag_entered {dv pv : DevState} {kv : Nat} (vbst : Nat) {s0 : State} (hI : Entered dv pv kv s0) : EnteredR dv pv kv (execVbstSag vbst s0) := by
  unfold execVbstSag
  try extract_lets
  repeat' first
    | with_reducible assumption
    | with_reducible refine EnteredR.next ?_
    | with_reducible refine EnteredR.ite ?_ ?_
    | with_reducible refine Entered.ite ?_ ?_
    | (guard_target = Entered _ _ _ (notice ..); with_reducible apply notice_entered)
    | (guard_target = Entered _ _ _ (sawVbst ..); with_reducible refine Entered.ofOnly ?_ (sawVbst_only ..))
    | (guard_target = Entered _ _ _ (State.onVdr ..); with_reducible refine Entered.ofOnly ?_ (State.onVdr_only ..))
    | extract_lets
    | dsimp only
    | split
    | dsimp +zetaDelta only

theorem loadDumpEnds_entered {dv pv : DevState} {kv : Nat} (vbat : Nat) {s : State} (hI : Entered dv pv kv s) : Entered dv pv kv (loadDumpEnds vbat s) := by
  unfold loadDumpEnds
  try extract_lets
  repeat' first
    | with_reducible assumption
    | with_reducible refine Entered.ite ?_ ?_
    | (guard_target = Entered _ _ _ (endFault ..); with_reducible apply endFault_entered)
    | (guard_target = Entered _ _ _ (State.onPwr ..); with_reducible refine Entered.ofOnly ?_ (State.onPwr_only ..))
    | extract_lets
    | dsimp only
    | split
    | dsimp +zetaDelta only

theorem execReturnSuspended_entered {dv pv : DevState} {kv : Nat} (vbat : Nat) {s0 : State} (hI : Entered dv pv kv s0) : EnteredR dv pv kv (execReturnSuspended vbat s0) := by
  unfold execReturnSuspended
  try extract_lets
  repeat' first
    | with_reducible assumption
    | with_reducible refine EnteredR.next ?_
    | with_reducible refine EnteredR.ite ?_ ?_
    | with_reducible refine Entered.ite ?_ ?_
    | (guard_target = Entered _ _ _ (loadDumpEnds ..); with_reducible apply loadDumpEnds_entered)
    | (guard_target = Entered _ _ _ (notice ..); with_reducible apply notice_entered)
    | (guard_target = Entered _ _ _ (sawVbat ..); with_reducible refine Entered.ofOnly ?_ (sawVbat_only ..))
    | (guard_target = Entered _ _ _ (State.onVdr ..); with_reducible refine Entered.ofOnly ?_ (State.onVdr_only ..))
    | extract_lets
    | dsimp only
    | split
    | dsimp +zetaDelta only

theorem execRecoveryDivert_entered {dv pv : DevState} {kv : Nat} (vbst : Nat) {s0 : State} (hI : Entered dv pv kv s0) : EnteredR dv pv kv (execRecoveryDivert vbst s0) := by
  unfold execRecoveryDivert
  try extract_lets
  repeat' first
    | with_reducible assumption
    | with_reducible refine EnteredR.next ?_
    | with_reducible refine EnteredR.ite ?_ ?_
    | with_reducible refine Entered.ite ?_ ?_
    | (guard_target = Entered _ _ _ (notice ..); with_reducible apply notice_entered)
    | (guard_target = Entered _ _ _ (sawVbst ..); with_reducible refine Entered.ofOnly ?_ (sawVbst_only ..))
    | (guard_target = Entered _ _ _ (State.onVdr ..); with_reducible refine Entered.ofOnly ?_ (State.onVdr_only ..))
    | extract_lets
    | dsimp only
    | split
    | dsimp +zetaDelta only

theorem closeLedger_entered {dv pv : DevState} {kv : Nat} (e : Tick) (f : Freeze) {s : State} (hI : Entered dv pv kv s) : Entered dv pv kv (closeLedger e f s) := by
  unfold closeLedger
  try extract_lets
  repeat' first
    | with_reducible assumption
    | with_reducible refine Entered.ite ?_ ?_
    | (guard_target = Entered _ _ _ (notice ..); with_reducible apply notice_entered)
    | (guard_target = Entered _ _ _ (State.onVdr ..); with_reducible refine Entered.ofOnly ?_ (State.onVdr_only ..))
    | extract_lets
    | dsimp only
    | split
    | dsimp +zetaDelta only

theorem channelFault_entered {dv pv : DevState} {kv : Nat} (c : Fin 96) (code : Nat) {s : State} (hI : Entered dv pv kv s) : Entered dv pv kv (channelFault c code s) := by
  unfold channelFault
  try extract_lets
  repeat' first
    | with_reducible assumption
    | with_reducible refine Entered.ite ?_ ?_
    | (guard_target = Entered _ _ _ (logFault ..); with_reducible apply logFault_entered)
    | (guard_target = Entered _ _ _ (notice ..); with_reducible apply notice_entered)
    | extract_lets
    | dsimp only
    | split
    | dsimp +zetaDelta only

theorem tripStage_entered {dv pv : DevState} {kv : Nat} (c : Fin 96) {s : State} (hI : Entered dv pv kv s) : Entered dv pv kv (tripStage c s) := by
  unfold tripStage
  try extract_lets
  repeat' first
    | with_reducible assumption
    | with_reducible refine Entered.ite ?_ ?_
    | (guard_target = Entered _ _ _ (channelFault ..); with_reducible apply channelFault_entered)
    | (guard_target = Entered _ _ _ (forceOff ..); with_reducible apply forceOff_entered)
    | (guard_target = Entered _ _ _ (modProt ..); with_reducible refine Entered.ofOnly ?_ (modProt_only ..))
    | extract_lets
    | dsimp only
    | split
    | dsimp +zetaDelta only

theorem execOvercurrent_entered {dv pv : DevState} {kv : Nat} (c : Fin 96) {s : State} (hI : Entered dv pv kv s) : EnteredR dv pv kv (execOvercurrent c s) := by
  unfold execOvercurrent
  try extract_lets
  repeat' first
    | with_reducible assumption
    | with_reducible refine EnteredR.next ?_
    | with_reducible refine EnteredR.ite ?_ ?_
    | with_reducible refine Entered.ite ?_ ?_
    | (guard_target = Entered _ _ _ (tripStage ..); with_reducible apply tripStage_entered)
    | extract_lets
    | dsimp only
    | split
    | dsimp +zetaDelta only

theorem execOverload_entered {dv pv : DevState} {kv : Nat} (c : Fin 96) (meanMa : Nat) {s : State} (hI : Entered dv pv kv s) : EnteredR dv pv kv (execOverload c meanMa s) := by
  unfold execOverload
  try extract_lets
  repeat' first
    | with_reducible assumption
    | with_reducible refine EnteredR.next ?_
    | with_reducible refine EnteredR.ite ?_ ?_
    | with_reducible refine Entered.ite ?_ ?_
    | (guard_target = Entered _ _ _ (channelFault ..); with_reducible apply channelFault_entered)
    | (guard_target = Entered _ _ _ (modProt ..); with_reducible refine Entered.ofOnly ?_ (modProt_only ..))
    | (guard_target = Entered _ _ _ (offRequest ..); with_reducible apply offRequest_entered)
    | extract_lets
    | dsimp only
    | split
    | dsimp +zetaDelta only

theorem stageTemp_entered {dv pv : DevState} {kv : Nat} (c : Fin 96) (r : Int) {s : State} (hI : Entered dv pv kv s) : Entered dv pv kv (stageTemp c r s) := by
  unfold stageTemp
  try extract_lets
  repeat' first
    | with_reducible assumption
    | with_reducible refine Entered.ite ?_ ?_
    | (guard_target = Entered _ _ _ (channelFault ..); with_reducible apply channelFault_entered)
    | (guard_target = Entered _ _ _ (contextClear ..); with_reducible apply contextClear_entered)
    | (guard_target = Entered _ _ _ (modProt ..); with_reducible refine Entered.ofOnly ?_ (modProt_only ..))
    | (guard_target = Entered _ _ _ (offRequest ..); with_reducible apply offRequest_entered)
    | extract_lets
    | dsimp only
    | split
    | dsimp +zetaDelta only

theorem setShort_entered {dv pv : DevState} {kv : Nat} (c : Fin 96) {s : State} (hI : Entered dv pv kv s) : Entered dv pv kv (setShort c s) := by
  unfold setShort
  try extract_lets
  repeat' first
    | with_reducible assumption
    | with_reducible refine Entered.ite ?_ ?_
    | (guard_target = Entered _ _ _ (channelFault ..); with_reducible apply channelFault_entered)
    | (guard_target = Entered _ _ _ (modProt ..); with_reducible refine Entered.ofOnly ?_ (modProt_only ..))
    | extract_lets
    | dsimp only
    | split
    | dsimp +zetaDelta only

theorem setOpen_entered {dv pv : DevState} {kv : Nat} (c : Fin 96) {s : State} (hI : Entered dv pv kv s) : Entered dv pv kv (setOpen c s) := by
  unfold setOpen
  try extract_lets
  repeat' first
    | with_reducible assumption
    | with_reducible refine Entered.ite ?_ ?_
    | (guard_target = Entered _ _ _ (contextFault ..); with_reducible apply contextFault_entered)
    | (guard_target = Entered _ _ _ (modProt ..); with_reducible refine Entered.ofOnly ?_ (modProt_only ..))
    | (guard_target = Entered _ _ _ (notice ..); with_reducible apply notice_entered)
    | extract_lets
    | dsimp only
    | split
    | dsimp +zetaDelta only

theorem clearOpen_entered {dv pv : DevState} {kv : Nat} (c : Fin 96) {s : State} (hI : Entered dv pv kv s) : Entered dv pv kv (clearOpen c s) := by
  unfold clearOpen
  try extract_lets
  repeat' first
    | with_reducible assumption
    | with_reducible refine Entered.ite ?_ ?_
    | (guard_target = Entered _ _ _ (contextClear ..); with_reducible apply contextClear_entered)
    | (guard_target = Entered _ _ _ (modProt ..); with_reducible refine Entered.ofOnly ?_ (modProt_only ..))
    | extract_lets
    | dsimp only
    | split
    | dsimp +zetaDelta only

theorem execOpenLoad_entered {dv pv : DevState} {kv : Nat} (c : Fin 96) (ma : Nat) {s : State} (hI : Entered dv pv kv s) : EnteredR dv pv kv (execOpenLoad c ma s) := by
  unfold execOpenLoad
  try extract_lets
  repeat' first
    | with_reducible assumption
    | with_reducible refine EnteredR.next ?_
    | with_reducible refine EnteredR.ite ?_ ?_
    | with_reducible refine Entered.ite ?_ ?_
    | (guard_target = Entered _ _ _ (clearOpen ..); with_reducible apply clearOpen_entered)
    | (guard_target = Entered _ _ _ (modProt ..); with_reducible refine Entered.ofOnly ?_ (modProt_only ..))
    | (guard_target = Entered _ _ _ (setOpen ..); with_reducible apply setOpen_entered)
    | extract_lets
    | dsimp only
    | split
    | dsimp +zetaDelta only

theorem execRetryRelease_entered {dv pv : DevState} {kv : Nat} (r : RetryTarget) {s : State} (hI : Entered dv pv kv s) : EnteredR dv pv kv (execRetryRelease r s) := by
  unfold execRetryRelease
  try extract_lets
  repeat' first
    | with_reducible assumption
    | with_reducible refine EnteredR.next ?_
    | with_reducible refine EnteredR.ite ?_ ?_
    | with_reducible refine Entered.ite ?_ ?_
    | (guard_target = Entered _ _ _ (endFault ..); with_reducible apply endFault_entered)
    | (guard_target = Entered _ _ _ (modBank ..); with_reducible refine Entered.ofOnly ?_ (modBank_only ..))
    | (guard_target = Entered _ _ _ (modProt ..); with_reducible refine Entered.ofOnly ?_ (modProt_only ..))
    | (guard_target = Entered _ _ _ (State.onPd0 ..); refine Inv.onPd0 ?_ fun d hd => by simp only [List.length_map, List.length_take, List.length_cons]; omega)
    | (guard_target = Entered _ _ _ (State.onPd0 ..); with_reducible refine Entered.ofOnly ?_ (State.onPd0_only ..))
    | extract_lets
    | dsimp only
    | split
    | dsimp +zetaDelta only

theorem learnR20_entered {dv pv : DevState} {kv : Nat} (c : Fin 96) (r : Nat) {s : State} (hI : Entered dv pv kv s) : Entered dv pv kv (learnR20 c r s) := by
  unfold learnR20
  try extract_lets
  repeat' first
    | with_reducible assumption
    | with_reducible refine Entered.ite ?_ ?_
    | (guard_target = Entered _ _ _ (notice ..); with_reducible apply notice_entered)
    | (guard_target = Entered _ _ _ (putCoil ..); with_reducible refine Entered.ofOnly ?_ (putCoil_only ..))
    | extract_lets
    | dsimp only
    | split
    | dsimp +zetaDelta only

theorem coolCoil_entered {dv pv : DevState} {kv : Nat} (c : Fin 96) (t : Int) {s : State} (hI : Entered dv pv kv s) : Entered dv pv kv (coolCoil c t s) := by
  unfold coolCoil
  try extract_lets
  repeat' first
    | with_reducible assumption
    | with_reducible refine Entered.ite ?_ ?_
    | (guard_target = Entered _ _ _ (contextClear ..); with_reducible apply contextClear_entered)
    | (guard_target = Entered _ _ _ (modProt ..); with_reducible refine Entered.ofOnly ?_ (modProt_only ..))
    | extract_lets
    | dsimp only
    | split
    | dsimp +zetaDelta only

theorem heatCoil_entered {dv pv : DevState} {kv : Nat} (c : Fin 96) (t : Int) {s : State} (hI : Entered dv pv kv s) : Entered dv pv kv (heatCoil c t s) := by
  unfold heatCoil
  try extract_lets
  repeat' first
    | with_reducible assumption
    | with_reducible refine Entered.ite ?_ ?_
    | (guard_target = Entered _ _ _ (channelFault ..); with_reducible apply channelFault_entered)
    | (guard_target = Entered _ _ _ (modProt ..); with_reducible refine Entered.ofOnly ?_ (modProt_only ..))
    | (guard_target = Entered _ _ _ (notice ..); with_reducible apply notice_entered)
    | (guard_target = Entered _ _ _ (offRequest ..); with_reducible apply offRequest_entered)
    | extract_lets
    | dsimp only
    | split
    | dsimp +zetaDelta only

theorem judgeResistance_entered {dv pv : DevState} {kv : Nat} (c : Fin 96) (r r20 : Nat) {s : State} (hI : Entered dv pv kv s) : Entered dv pv kv (judgeResistance c r r20 s) := by
  unfold judgeResistance
  try extract_lets
  repeat' first
    | with_reducible assumption
    | with_reducible refine Entered.ite ?_ ?_
    | (guard_target = Entered _ _ _ (contextFault ..); with_reducible apply contextFault_entered)
    | (guard_target = Entered _ _ _ (modProt ..); with_reducible refine Entered.ofOnly ?_ (modProt_only ..))
    | (guard_target = Entered _ _ _ (notice ..); with_reducible apply notice_entered)
    | extract_lets
    | dsimp only
    | split
    | dsimp +zetaDelta only

theorem execCoilResistanceMeasure_entered {dv pv : DevState} {kv : Nat} (c : Fin 96) (r first second : Nat) {s : State} (hI : Entered dv pv kv s) : EnteredR dv pv kv (execCoilResistanceMeasure c r first second s) := by
  unfold execCoilResistanceMeasure
  try extract_lets
  repeat' first
    | with_reducible assumption
    | with_reducible refine EnteredR.next ?_
    | with_reducible refine EnteredR.ite ?_ ?_
    | with_reducible refine Entered.ite ?_ ?_
    | (guard_target = Entered _ _ _ (coolCoil ..); with_reducible apply coolCoil_entered)
    | (guard_target = Entered _ _ _ (heatCoil ..); with_reducible apply heatCoil_entered)
    | (guard_target = Entered _ _ _ (judgeResistance ..); with_reducible apply judgeResistance_entered)
    | (guard_target = Entered _ _ _ (learnR20 ..); with_reducible apply learnR20_entered)
    | (guard_target = Entered _ _ _ (modProt ..); with_reducible refine Entered.ofOnly ?_ (modProt_only ..))
    | extract_lets
    | dsimp only
    | split
    | dsimp +zetaDelta only

theorem execCoilCooled_entered {dv pv : DevState} {kv : Nat} (c : Fin 96) {s : State} (hI : Entered dv pv kv s) : EnteredR dv pv kv (execCoilCooled c s) := by
  unfold execCoilCooled
  try extract_lets
  repeat' first
    | with_reducible assumption
    | with_reducible refine EnteredR.next ?_
    | with_reducible refine EnteredR.ite ?_ ?_
    | with_reducible refine Entered.ite ?_ ?_
    | (guard_target = Entered _ _ _ (coolCoil ..); with_reducible apply coolCoil_entered)
    | extract_lets
    | dsimp only
    | split
    | dsimp +zetaDelta only

theorem clearChannel_entered {dv pv : DevState} {kv : Nat} (c : Fin 96) {s : State} (hI : Entered dv pv kv s) : Entered dv pv kv (clearChannel c s) := by
  unfold clearChannel
  try extract_lets
  repeat' first
    | with_reducible assumption
    | with_reducible refine Entered.ite ?_ ?_
    | (guard_target = Entered _ _ _ (contextClear ..); with_reducible apply contextClear_entered)
    | (guard_target = Entered _ _ _ (modProt ..); with_reducible refine Entered.ofOnly ?_ (modProt_only ..))
    | (guard_target = Entered _ _ _ (State.onPd0 ..); refine Inv.onPd0 ?_ fun d hd => by simp only [List.length_map, List.length_take, List.length_cons]; omega)
    | (guard_target = Entered _ _ _ (State.onPd0 ..); with_reducible refine Entered.ofOnly ?_ (State.onPd0_only ..))
    | extract_lets
    | dsimp only
    | split
    | dsimp +zetaDelta only

theorem clearContext_entered {dv pv : DevState} {kv : Nat} (c : Fin 96) {s : State} (hI : Entered dv pv kv s) : Entered dv pv kv (clearContext c s) := by
  unfold clearContext
  try extract_lets
  repeat' first
    | with_reducible assumption
    | with_reducible refine Entered.ite ?_ ?_
    | (guard_target = Entered _ _ _ (clearChannel ..); with_reducible apply clearChannel_entered)
    | (guard_target = Entered _ _ _ (modLat ..); with_reducible refine Entered.ofOnly ?_ (modLat_only ..))
    | (guard_target = Entered _ _ _ (State.onFe ..); with_reducible refine Entered.ofOnly ?_ (State.onFe_only ..))
    | extract_lets
    | dsimp only
    | split
    | dsimp +zetaDelta only

theorem clearBank_entered {dv pv : DevState} {kv : Nat} (b : Fin 12) {s : State} (hI : Entered dv pv kv s) : Entered dv pv kv (clearBank b s) := by
  unfold clearBank
  try extract_lets
  repeat' first
    | with_reducible assumption
    | with_reducible refine Entered.ite ?_ ?_
    | (guard_target = Entered _ _ _ (clearChannel ..); with_reducible apply clearChannel_entered)
    | (guard_target = Entered _ _ _ (State.onPd0 ..); refine Inv.onPd0 ?_ fun d hd => by simp only [List.length_map, List.length_take, List.length_cons]; omega)
    | (guard_target = Entered _ _ _ (State.onPd0 ..); with_reducible refine Entered.ofOnly ?_ (State.onPd0_only ..))
    | with_reducible refine Entered.foldl (fun _ _ _ => ?_) ?_
    | with_reducible refine Entered.foldlFst (fun _ _ _ _ => ?_) ?_
    | extract_lets
    | dsimp only
    | split
    | dsimp +zetaDelta only

theorem reconnected_entered {dv pv : DevState} {kv : Nat} (b : Fin 12) {s : State} (hI : Entered dv pv kv s) : Entered dv pv kv (reconnected b s) := by
  unfold reconnected
  try extract_lets
  repeat' first
    | with_reducible assumption
    | with_reducible refine Entered.ite ?_ ?_
    | (guard_target = Entered _ _ _ (endFault ..); with_reducible apply endFault_entered)
    | (guard_target = Entered _ _ _ (modBank ..); with_reducible refine Entered.ofOnly ?_ (modBank_only ..))
    | extract_lets
    | dsimp only
    | split
    | dsimp +zetaDelta only

theorem thsNote_entered {dv pv : DevState} {kv : Nat} (code : Nat) (z : Fin 10) (sensor : Nat) {s : State} (hI : Entered dv pv kv s) : Entered dv pv kv (thsNote code z sensor s) := by
  unfold thsNote
  try extract_lets
  repeat' first
    | with_reducible assumption
    | with_reducible refine Entered.ite ?_ ?_
    | (guard_target = Entered _ _ _ (notice ..); with_reducible apply notice_entered)
    | extract_lets
    | dsimp only
    | split
    | dsimp +zetaDelta only

theorem throttleAll_entered {dv pv : DevState} {kv : Nat}  {s : State} (hI : Entered dv pv kv s) : Entered dv pv kv (throttleAll s) := by
  unfold throttleAll
  try extract_lets
  repeat' first
    | with_reducible assumption
    | with_reducible refine Entered.ite ?_ ?_
    | (guard_target = Entered _ _ _ (lswSyncAll ..); with_reducible apply lswSyncAll_entered)
    | (guard_target = Entered _ _ _ (State.onVdr ..); with_reducible refine Entered.ofOnly ?_ (State.onVdr_only ..))
    | (guard_target = Entered _ _ _ (State.onPwu ..); with_reducible refine Entered.ofOnly ?_ (State.onPwu_only ..))
    | (guard_target = Entered _ _ _ (State.onThs ..); with_reducible refine Entered.ofOnly ?_ (State.onThs_only ..))
    | extract_lets
    | dsimp only
    | split
    | dsimp +zetaDelta only

theorem sampleNotes_entered {dv pv : DevState} {kv : Nat} (z : Fin 10) (x y : Zone) {s : State} (hI : Entered dv pv kv s) : Entered dv pv kv (sampleNotes z x y s) := by
  unfold sampleNotes
  try extract_lets
  repeat' first
    | with_reducible assumption
    | with_reducible refine Entered.ite ?_ ?_
    | (guard_target = Entered _ _ _ (thsNote ..); with_reducible apply thsNote_entered)
    | extract_lets
    | dsimp only
    | split
    | dsimp +zetaDelta only

theorem zoneSample_entered {dv pv : DevState} {kv : Nat} (z : Fin 10) {s : State} (hI : Entered dv pv kv s) : Entered dv pv kv (zoneSample z s) := by
  unfold zoneSample
  try extract_lets
  repeat' first
    | with_reducible assumption
    | with_reducible refine Entered.ite ?_ ?_
    | (guard_target = Entered _ _ _ (modZone ..); with_reducible refine Entered.ofOnly ?_ (modZone_only ..))
    | (guard_target = Entered _ _ _ (sampleNotes ..); with_reducible apply sampleNotes_entered)
    | (guard_target = Entered _ _ _ (throttleAll ..); with_reducible apply throttleAll_entered)
    | extract_lets
    | dsimp only
    | split
    | dsimp +zetaDelta only

theorem breakSensor_entered {dv pv : DevState} {kv : Nat} (z : Fin 10) (k : Fin 20) {s : State} (hI : Entered dv pv kv s) : Entered dv pv kv (breakSensor z k s) := by
  unfold breakSensor
  try extract_lets
  repeat' first
    | with_reducible assumption
    | with_reducible refine Entered.ite ?_ ?_
    | (guard_target = Entered _ _ _ (modZone ..); with_reducible refine Entered.ofOnly ?_ (modZone_only ..))
    | (guard_target = Entered _ _ _ (thsNote ..); with_reducible apply thsNote_entered)
    | extract_lets
    | dsimp only
    | split
    | dsimp +zetaDelta only

theorem takeReading_entered {dv pv : DevState} {kv : Nat} (z : Fin 10) (k : Fin 20) (t : Int) {s : State} (hI : Entered dv pv kv s) : Entered dv pv kv (takeReading z k t s) := by
  unfold takeReading
  try extract_lets
  repeat' first
    | with_reducible assumption
    | with_reducible refine Entered.ite ?_ ?_
    | (guard_target = Entered _ _ _ (breakSensor ..); with_reducible apply breakSensor_entered)
    | (guard_target = Entered _ _ _ (modZone ..); with_reducible refine Entered.ofOnly ?_ (modZone_only ..))
    | extract_lets
    | dsimp only
    | split
    | dsimp +zetaDelta only

theorem reportLatch_entered {dv pv : DevState} {kv : Nat}  {s : State} (hI : Entered dv pv kv s) : Entered dv pv kv (reportLatch s) := by
  unfold reportLatch
  try extract_lets
  repeat' first
    | with_reducible assumption
    | with_reducible refine Entered.ite ?_ ?_
    | (guard_target = Entered _ _ _ (notice ..); with_reducible apply notice_entered)
    | (guard_target = Entered _ _ _ (State.onPd0 ..); refine Inv.onPd0 ?_ fun d hd => by simp only [List.length_map, List.length_take, List.length_cons]; omega)
    | (guard_target = Entered _ _ _ (State.onPd0 ..); with_reducible refine Entered.ofOnly ?_ (State.onPd0_only ..))
    | extract_lets
    | dsimp only
    | split
    | dsimp +zetaDelta only

theorem execVkeyLow_entered {dv pv : DevState} {kv : Nat}  {s : State} (hI : Entered dv pv kv s) : EnteredR dv pv kv (execVkeyLow s) := by
  unfold execVkeyLow
  try extract_lets
  repeat' first
    | with_reducible assumption
    | with_reducible refine EnteredR.next ?_
    | with_reducible refine EnteredR.ite ?_ ?_
    | with_reducible refine Entered.ite ?_ ?_
    | (guard_target = Entered _ _ _ (cancelActivation ..); with_reducible apply cancelActivation_entered)
    | (guard_target = Entered _ _ _ (sealBlock ..); with_reducible apply sealBlock_entered)
    | (guard_target = Entered _ _ _ (State.onPwr ..); with_reducible refine Entered.ofOnly ?_ (State.onPwr_only ..))
    | extract_lets
    | dsimp only
    | split
    | dsimp +zetaDelta only

theorem execLowSupply_entered {dv pv : DevState} {kv : Nat}  {s : State} (hI : Entered dv pv kv s) : EnteredR dv pv kv (execLowSupply s) := by
  unfold execLowSupply
  try extract_lets
  repeat' first
    | with_reducible assumption
    | with_reducible refine EnteredR.next ?_
    | with_reducible refine EnteredR.ite ?_ ?_
    | with_reducible refine Entered.ite ?_ ?_
    | (guard_target = Entered _ _ _ (logFault ..); with_reducible apply logFault_entered)
    | (guard_target = Entered _ _ _ (State.onPwr ..); with_reducible refine Entered.ofOnly ?_ (State.onPwr_only ..))
    | extract_lets
    | dsimp only
    | split
    | dsimp +zetaDelta only

theorem execLowSupplyExit_entered {dv pv : DevState} {kv : Nat}  {s : State} (hI : Entered dv pv kv s) : EnteredR dv pv kv (execLowSupplyExit s) := by
  unfold execLowSupplyExit
  try extract_lets
  repeat' first
    | with_reducible assumption
    | with_reducible refine EnteredR.next ?_
    | with_reducible refine EnteredR.ite ?_ ?_
    | with_reducible refine Entered.ite ?_ ?_
    | (guard_target = Entered _ _ _ (endFault ..); with_reducible apply endFault_entered)
    | (guard_target = Entered _ _ _ (State.onPwr ..); with_reducible refine Entered.ofOnly ?_ (State.onPwr_only ..))
    | extract_lets
    | dsimp only
    | split
    | dsimp +zetaDelta only

theorem execLossOfGround_entered {dv pv : DevState} {kv : Nat}  {s : State} (hI : Entered dv pv kv s) : EnteredR dv pv kv (execLossOfGround s) := by
  unfold execLossOfGround
  try extract_lets
  repeat' first
    | with_reducible assumption
    | with_reducible refine EnteredR.next ?_
    | with_reducible refine EnteredR.ite ?_ ?_
    | with_reducible refine Entered.ite ?_ ?_
    | (guard_target = Entered _ _ _ (gatesOff ..); with_reducible refine Entered.ofOnly ?_ (gatesOff_only ..))
    | (guard_target = Entered _ _ _ (logFault ..); with_reducible apply logFault_entered)
    | (guard_target = Entered _ _ _ (lswGroundLoss ..); with_reducible apply lswGroundLoss_entered)
    | (guard_target = Entered _ _ _ (lswGroundLossOff ..); with_reducible refine Entered.ofOnly ?_ (lswGroundLossOff_only ..))
    | (guard_target = Entered _ _ _ (valvesCut ..); with_reducible apply valvesCut_entered)
    | (guard_target = Entered _ _ _ (State.onPwr ..); with_reducible refine Entered.ofOnly ?_ (State.onPwr_only ..))
    | extract_lets
    | dsimp only
    | split
    | dsimp +zetaDelta only

theorem groundAtEdge_entered {dv pv : DevState} {kv : Nat} (e : Tick) {s : State} (hI : Entered dv pv kv s) : Entered dv pv kv (groundAtEdge e s) := by
  unfold groundAtEdge
  try extract_lets
  repeat' first
    | with_reducible assumption
    | with_reducible refine Entered.ite ?_ ?_
    | (guard_target = Entered _ _ _ (endFault ..); with_reducible apply endFault_entered)
    | (guard_target = Entered _ _ _ (feedsUp ..); with_reducible refine Entered.ofOnly ?_ (feedsUp_only ..))
    | (guard_target = Entered _ _ _ (lswGroundBack ..); with_reducible apply lswGroundBack_entered)
    | (guard_target = Entered _ _ _ (State.onPwr ..); with_reducible refine Entered.ofOnly ?_ (State.onPwr_only ..))
    | extract_lets
    | dsimp only
    | split
    | dsimp +zetaDelta only

theorem execLoadDump_entered {dv pv : DevState} {kv : Nat}  {s : State} (hI : Entered dv pv kv s) : EnteredR dv pv kv (execLoadDump s) := by
  unfold execLoadDump
  try extract_lets
  repeat' first
    | with_reducible assumption
    | with_reducible refine EnteredR.next ?_
    | with_reducible refine EnteredR.ite ?_ ?_
    | with_reducible refine Entered.ite ?_ ?_
    | (guard_target = Entered _ _ _ (logFault ..); with_reducible apply logFault_entered)
    | (guard_target = Entered _ _ _ (State.onPwr ..); with_reducible refine Entered.ofOnly ?_ (State.onPwr_only ..))
    | extract_lets
    | dsimp only
    | split
    | dsimp +zetaDelta only

theorem execTimeResetRelease_entered {dv pv : DevState} {kv : Nat} {s : State} (hI : Entered dv pv kv s) :
    EnteredR dv pv kv (execTimeResetRelease s) := by
  unfold execTimeResetRelease
  refine EnteredR.ite ?_ (.next hI)
  extract_lets s1 s2 t s3
  have ht : Entered dv pv kv t := ((hI.ofOnly (romSelect_only ..)).ofOnly (extend_only ..)).ofOnly (lswTimeBegins_only ..)
  have h3 : Entered dv pv kv s3 := ⟨ht.1, ht.2.1, ht.2.2⟩
  clear_value s3
  exact .next (Entered.ofOnly (Entered.onSys (h3.ofOnly (State.onPwr_only ..)) (f := fun y => { y with bootStage := 2 }) fun _ => ⟨rfl, rfl, rfl⟩) (extendOpen_only ..))

theorem runSet_entered {dv pv : DevState} {kv : Nat} (c : List Bool) {s : State} (hI : Entered dv pv kv s) : Entered dv pv kv (runSet c s) := by
  unfold runSet
  try extract_lets
  repeat' first
    | with_reducible assumption
    | with_reducible refine Entered.ite ?_ ?_
    | (guard_target = Entered _ _ _ (extend ..); with_reducible refine Entered.ofOnly ?_ (extend_only ..))
    | (guard_target = Entered _ _ _ (modImage ..); with_reducible refine Entered.ofOnly ?_ (modImage_only ..))
    | (guard_target = Entered _ _ _ (notice ..); with_reducible apply notice_entered)
    | (guard_target = Entered _ _ _ (State.onPd0 ..); refine Inv.onPd0 ?_ fun d hd => by simp only [List.length_map, List.length_take, List.length_cons]; omega)
    | (guard_target = Entered _ _ _ (State.onPd0 ..); with_reducible refine Entered.ofOnly ?_ (State.onPd0_only ..))
    | (guard_target = Entered _ _ _ (State.onGnss ..); with_reducible refine Entered.ofOnly ?_ (State.onGnss_only ..))
    | (guard_target = Entered _ _ _ (State.onSec ..); with_reducible refine Entered.ofOnly ?_ (State.onSec_only ..))
    | with_reducible refine Entered.foldl (fun _ _ _ => ?_) ?_
    | with_reducible refine Entered.foldlFst (fun _ _ _ _ => ?_) ?_
    | extract_lets
    | dsimp only
    | split
    | dsimp +zetaDelta only

theorem startNote_entered {dv pv : DevState} {kv : Nat}  {s : State} (hI : Entered dv pv kv s) : Entered dv pv kv (startNote s) := by
  unfold startNote
  try extract_lets
  repeat' first
    | with_reducible assumption
    | with_reducible refine Entered.ite ?_ ?_
    | (guard_target = Entered _ _ _ (noticeAt ..); with_reducible apply noticeAt_entered)
    | extract_lets
    | dsimp only
    | split
    | dsimp +zetaDelta only

theorem execHostPortAlive_entered {dv pv : DevState} {kv : Nat}  {s : State} (hI : Entered dv pv kv s) : EnteredR dv pv kv (execHostPortAlive s) := by
  unfold execHostPortAlive
  try extract_lets
  repeat' first
    | with_reducible assumption
    | with_reducible refine EnteredR.next ?_
    | with_reducible refine EnteredR.ite ?_ ?_
    | with_reducible refine Entered.ite ?_ ?_
    | (guard_target = Entered _ _ _ (bootNote ..); with_reducible refine Entered.ofOnly ?_ (bootNote_only ..))
    | (guard_target = Entered _ _ _ (reportLatch ..); with_reducible apply reportLatch_entered)
    | (guard_target = Entered _ _ _ (startNote ..); with_reducible apply startNote_entered)
    | (guard_target = Entered _ _ _ (State.onSys ..); refine Entered.onSys ?_ fun _ => ⟨rfl, rfl, rfl⟩)
    | extract_lets
    | dsimp only
    | split
    | dsimp +zetaDelta only

theorem selftestRejects_entered {dv pv : DevState} {kv : Nat} (codes : List Nat) {s : State} (hI : Entered dv pv kv s) : Entered dv pv kv (selftestRejects codes s) := by
  unfold selftestRejects
  try extract_lets
  repeat' first
    | with_reducible assumption
    | with_reducible refine Entered.ite ?_ ?_
    | (guard_target = Entered _ _ _ (failSelftest ..); with_reducible apply failSelftest_entered)
    | with_reducible refine Entered.foldl (fun _ _ _ => ?_) ?_
    | with_reducible refine Entered.foldlFst (fun _ _ _ _ => ?_) ?_
    | extract_lets
    | dsimp only
    | split
    | dsimp +zetaDelta only

theorem execDramTestDone_entered {dv pv : DevState} {kv : Nat} (retired : Vector Nat 3) {s : State} (hI : Entered dv pv kv s) : EnteredR dv pv kv (execDramTestDone retired s) := by
  unfold execDramTestDone
  try extract_lets
  repeat' first
    | with_reducible assumption
    | with_reducible refine EnteredR.next ?_
    | with_reducible refine EnteredR.ite ?_ ?_
    | with_reducible refine Entered.ite ?_ ?_
    | (guard_target = Entered _ _ _ (mapBecomesReady ..); with_reducible apply mapBecomesReady_entered)
    | (guard_target = Entered _ _ _ (notice ..); with_reducible apply notice_entered)
    | (guard_target = Entered _ _ _ (poolLow ..); with_reducible apply poolLow_entered)
    | (guard_target = Entered _ _ _ (State.onMap ..); with_reducible refine Entered.ofOnly ?_ (State.onMap_only ..))
    | extract_lets
    | dsimp only
    | split
    | dsimp +zetaDelta only

theorem opPbWrite_entered {dv pv : DevState} {kv : Nat} (e : Env) {s : State} (hI : Entered dv pv kv s) : Entered dv pv kv (opPbWrite e s).1 := by
  unfold opPbWrite
  try extract_lets
  repeat' first
    | with_reducible assumption
    | with_reducible refine Entered.iteFst ?_ ?_
    | with_reducible refine Entered.ite ?_ ?_
    | dsimp only [deny, done]
    | (guard_target = Entered _ _ _ (worldViolation ..); with_reducible apply worldViolation_entered)
    | (guard_target = Entered _ _ _ (State.onShd ..); with_reducible refine Entered.ofOnly ?_ (State.onShd_only ..))
    | (guard_target = Entered _ _ _ (State.onPos ..); with_reducible refine Entered.ofOnly ?_ (State.onPos_only ..))
    | extract_lets
    | dsimp only
    | split
    | dsimp +zetaDelta only

theorem opPbCommit_entered {dv pv : DevState} {kv : Nat} (e : Env) {s : State} (hI : Entered dv pv kv s) : Entered dv pv kv (opPbCommit e s).1 := by
  unfold opPbCommit
  try extract_lets
  repeat' first
    | with_reducible assumption
    | with_reducible refine Entered.iteFst ?_ ?_
    | with_reducible refine Entered.ite ?_ ?_
    | dsimp only [deny, done, doneEdge]
    | (guard_target = Entered _ _ _ (waitEdge ..); with_reducible apply waitEdge_entered)
    | (guard_target = Entered _ _ _ (worldViolation ..); with_reducible apply worldViolation_entered)
    | (guard_target = Entered _ _ _ (State.onHost ..); with_reducible refine Entered.ofOnly ?_ (State.onHost_only ..))
    | extract_lets
    | dsimp only
    | split
    | dsimp +zetaDelta only

theorem commitPos_entered {dv pv : DevState} {kv : Nat} (e : Tick) (old : Params) (img : Nat) {s : State} (hI : Entered dv pv kv s) : Entered dv pv kv (commitPos e old img s) := by
  unfold commitPos
  try extract_lets
  repeat' first
    | with_reducible assumption
    | with_reducible refine Entered.ite ?_ ?_
    | (guard_target = Entered _ _ _ (setOrigin ..); with_reducible apply setOrigin_entered)
    | extract_lets
    | dsimp only
    | split
    | dsimp +zetaDelta only

theorem commitFe_entered {dv pv : DevState} {kv : Nat} (e : Tick) (old : Params) {s : State} (hI : Entered dv pv kv s) : Entered dv pv kv (commitFe e old s) := by
  unfold commitFe
  try extract_lets
  repeat' first
    | with_reducible assumption
    | with_reducible refine Entered.ite ?_ ?_
    | (guard_target = Entered _ _ _ (commitPhases ..); with_reducible apply commitPhases_entered)
    | (guard_target = Entered _ _ _ (directedOff ..); with_reducible refine Entered.ofOnly ?_ (directedOff_only ..))
    | extract_lets
    | dsimp only
    | split
    | dsimp +zetaDelta only

theorem commitSec_entered {dv pv : DevState} {kv : Nat} (old : Params) {s : State} (hI : Entered dv pv kv s) : Entered dv pv kv (commitSec old s) := by
  unfold commitSec
  try extract_lets
  repeat' first
    | with_reducible assumption
    | with_reducible refine Entered.ite ?_ ?_
    | (guard_target = Entered _ _ _ (closeSession ..); with_reducible apply closeSession_entered)
    | (guard_target = Entered _ _ _ (extendOpen ..); with_reducible refine Entered.ofOnly ?_ (extendOpen_only ..))
    | (guard_target = Entered _ _ _ (State.onNor ..); with_reducible refine Entered.ofOnly ?_ (State.onNor_only ..))
    | with_reducible refine Entered.foldl (fun _ _ _ => ?_) ?_
    | with_reducible refine Entered.foldlFst (fun _ _ _ _ => ?_) ?_
    | extract_lets
    | dsimp only
    | split
    | dsimp +zetaDelta only

theorem commitBlock_entered {dv pv : DevState} {kv : Nat} (e : Tick) (old : Params) (tabs : Option Tables) (b : Block) (img : Nat) {s : State} (hI : Entered dv pv kv s) : Entered dv pv kv (commitBlock e old tabs b img s) := by
  unfold commitBlock
  try extract_lets
  repeat' first
    | with_reducible assumption
    | with_reducible refine Entered.ite ?_ ?_
    | (guard_target = Entered _ _ _ (commitCan ..); with_reducible apply commitCan_entered)
    | (guard_target = Entered _ _ _ (commitCe ..); with_reducible refine Entered.ofOnly ?_ (commitCe_only ..))
    | (guard_target = Entered _ _ _ (commitFe ..); with_reducible apply commitFe_entered)
    | (guard_target = Entered _ _ _ (commitGnss ..); with_reducible refine Entered.ofOnly ?_ (commitGnss_only ..))
    | (guard_target = Entered _ _ _ (commitLsw ..); with_reducible apply commitLsw_entered)
    | (guard_target = Entered _ _ _ (commitMap ..); with_reducible refine Entered.ofOnly ?_ (commitMap_only ..))
    | (guard_target = Entered _ _ _ (commitPif ..); with_reducible refine Entered.ofOnly ?_ (commitPif_only ..))
    | (guard_target = Entered _ _ _ (commitPos ..); with_reducible apply commitPos_entered)
    | (guard_target = Entered _ _ _ (commitPwu ..); with_reducible apply commitPwu_entered)
    | (guard_target = Entered _ _ _ (commitSec ..); with_reducible apply commitSec_entered)
    | (guard_target = Entered _ _ _ (commitThs ..); with_reducible refine Entered.ofOnly ?_ (commitThs_only ..))
    | (guard_target = Entered _ _ _ (commitTime ..); with_reducible refine Entered.ofOnly ?_ (commitTime_only ..))
    | (guard_target = Entered _ _ _ (commitVdr ..); with_reducible refine Entered.ofOnly ?_ (commitVdr_only ..))
    | extract_lets
    | dsimp only
    | split
    | dsimp +zetaDelta only

theorem applyCommit_entered {dv pv : DevState} {kv : Nat} (e : Tick) (images : List (Block × Nat)) (tabs : Option Tables) {s : State} (hI : Entered dv pv kv s) : Entered dv pv kv (applyCommit e images tabs s) := by
  unfold applyCommit
  try extract_lets
  repeat' first
    | with_reducible assumption
    | with_reducible refine Entered.ite ?_ ?_
    | (guard_target = Entered _ _ _ (commitBlock ..); with_reducible apply commitBlock_entered)
    | (guard_target = Entered _ _ _ (extendOpen ..); with_reducible refine Entered.ofOnly ?_ (extendOpen_only ..))
    | (guard_target = Entered _ _ _ (putActive ..); with_reducible refine Entered.ofOnly ?_ (putActive_only ..))
    | with_reducible refine Entered.foldl (fun _ _ _ => ?_) ?_
    | with_reducible refine Entered.foldlFst (fun _ _ _ _ => ?_) ?_
    | extract_lets
    | dsimp only
    | split
    | dsimp +zetaDelta only

theorem hostNote_entered {dv pv : DevState} {kv : Nat} (p : Port) (code : Nat) {s : State} (hI : Entered dv pv kv s) : Entered dv pv kv (hostNote p code s) := by
  unfold hostNote
  try extract_lets
  repeat' first
    | with_reducible assumption
    | with_reducible refine Entered.ite ?_ ?_
    | (guard_target = Entered _ _ _ (notice ..); with_reducible apply notice_entered)
    | extract_lets
    | dsimp only
    | split
    | dsimp +zetaDelta only

theorem countBadHeader_entered {dv pv : DevState} {kv : Nat} (p : Port) {s : State} (hI : Entered dv pv kv s) : Entered dv pv kv (countBadHeader p s) := by
  unfold countBadHeader
  try extract_lets
  repeat' first
    | with_reducible assumption
    | with_reducible refine Entered.ite ?_ ?_
    | (guard_target = Entered _ _ _ (hostNote ..); with_reducible apply hostNote_entered)
    | (guard_target = Entered _ _ _ (modPort ..); with_reducible refine Entered.ofOnly ?_ (modPort_only ..))

theorem execBadHeader_entered {dv pv : DevState} {kv : Nat} (p : Port) {s : State} (hI : Entered dv pv kv s) : EnteredR dv pv kv (execBadHeader p s) := by
  unfold execBadHeader
  try extract_lets
  repeat' first
    | with_reducible assumption
    | with_reducible refine EnteredR.next ?_
    | with_reducible refine EnteredR.ite ?_ ?_
    | with_reducible refine Entered.ite ?_ ?_
    | (guard_target = Entered _ _ _ (countBadHeader ..); with_reducible apply countBadHeader_entered)
    | extract_lets
    | dsimp only
    | split
    | dsimp +zetaDelta only

theorem validHeader_entered {dv pv : DevState} {kv : Nat} (e : Env) {s : State} (hI : Entered dv pv kv s) : Entered dv pv kv (validHeader e s) := by
  unfold validHeader
  extract_lets lost s1
  have h1 : Entered dv pv kv s1 := hI.ofOnly (modPort_only ..)
  clear_value s1
  exact Entered.ite (hostNote_entered _ _ (endFault_entered _ _ h1)) h1

theorem opSysLinkReset_entered {dv pv : DevState} {kv : Nat} (e : Env) {s : State} (hI : Entered dv pv kv s) : Entered dv pv kv (opSysLinkReset e s).1 := by
  unfold opSysLinkReset
  extract_lets s1
  have h1 : Entered dv pv kv s1 := (closeSession_entered _ hI).ofOnly (modPort_only ..)
  clear_value s1
  exact h1.ofOnly (State.onHost_only s1 fun h => { h with awaiting := h.awaiting.filter fun a => a.2.env.port != e.port })

theorem opSysArm_entered {dv pv : DevState} {kv : Nat} (e : Env) {s : State} (hI : Entered dv pv kv s) : Entered dv pv kv (opSysArm e s).1 := by
  unfold opSysArm
  try extract_lets
  repeat' first
    | with_reducible assumption
    | with_reducible refine Entered.iteFst ?_ ?_
    | with_reducible refine Entered.ite ?_ ?_
    | dsimp only [deny, doneEdge]
    | (guard_target = Entered _ _ _ (waitEdge ..); with_reducible apply waitEdge_entered)
    | extract_lets
    | dsimp only
    | split
    | dsimp +zetaDelta only

theorem opSysManual_entered {dv pv : DevState} {kv : Nat} (e : Env) {s : State} (hI : Entered dv pv kv s) : Entered dv pv kv (opSysManual e s).1 := by
  unfold opSysManual
  try extract_lets
  repeat' first
    | with_reducible assumption
    | with_reducible refine Entered.iteFst ?_ ?_
    | with_reducible refine Entered.ite ?_ ?_
    | dsimp only [deny, doneEdge]
    | (guard_target = Entered _ _ _ (waitEdge ..); with_reducible apply waitEdge_entered)
    | extract_lets
    | dsimp only
    | split
    | dsimp +zetaDelta only

theorem opSysDisarm_entered {dv pv : DevState} {kv : Nat} (e : Env) {s : State} (hI : Entered dv pv kv s) : Entered dv pv kv (opSysDisarm e s).1 := by
  unfold opSysDisarm
  try extract_lets
  repeat' first
    | with_reducible assumption
    | with_reducible refine Entered.iteFst ?_ ?_
    | with_reducible refine Entered.ite ?_ ?_
    | dsimp only [doneEdge]
    | (guard_target = Entered _ _ _ (waitEdge ..); with_reducible apply waitEdge_entered)
    | extract_lets
    | dsimp only
    | split
    | dsimp +zetaDelta only

theorem opSysClearFault_entered {dv pv : DevState} {kv : Nat} (e : Env) {s : State} (hI : Entered dv pv kv s) : Entered dv pv kv (opSysClearFault e s).1 := by
  unfold opSysClearFault
  try extract_lets
  repeat' first
    | with_reducible assumption
    | with_reducible refine Entered.iteFst ?_ ?_
    | with_reducible refine Entered.ite ?_ ?_
    | (guard_target = Entered _ _ _ (waitEdge ..); with_reducible apply waitEdge_entered)
    | extract_lets
    | dsimp only
    | split
    | dsimp +zetaDelta only

theorem opSysSubscribe_entered {dv pv : DevState} {kv : Nat} (e : Env) {s : State} (hI : Entered dv pv kv s) : Entered dv pv kv (opSysSubscribe e s).1 := by
  unfold opSysSubscribe
  try extract_lets
  repeat' first
    | with_reducible assumption
    | with_reducible refine Entered.iteFst ?_ ?_
    | with_reducible refine Entered.ite ?_ ?_
    | dsimp only [deny, doneEdge]
    | (guard_target = Entered _ _ _ (waitEdge ..); with_reducible apply waitEdge_entered)
    | extract_lets
    | dsimp only
    | split
    | dsimp +zetaDelta only

theorem opActDuty_entered {dv pv : DevState} {kv : Nat} (e : Env) {s : State} (hI : Entered dv pv kv s) : Entered dv pv kv (opActDuty e s).1 := by
  unfold opActDuty
  try extract_lets
  repeat' first
    | with_reducible assumption
    | with_reducible refine Entered.iteFst ?_ ?_
    | with_reducible refine Entered.ite ?_ ?_
    | dsimp only [deny, doneEdge]
    | (guard_target = Entered _ _ _ (waitEdge ..); with_reducible apply waitEdge_entered)
    | extract_lets
    | dsimp only
    | split
    | dsimp +zetaDelta only

theorem opActClearFault_entered {dv pv : DevState} {kv : Nat} (e : Env) {s : State} (hI : Entered dv pv kv s) : Entered dv pv kv (opActClearFault e s).1 := by
  unfold opActClearFault
  try extract_lets
  repeat' first
    | with_reducible assumption
    | with_reducible refine Entered.iteFst ?_ ?_
    | with_reducible refine Entered.ite ?_ ?_
    | dsimp only [deny, done]
    | (guard_target = Entered _ _ _ (beginReconnect ..); with_reducible refine Entered.ofOnly ?_ (beginReconnect_only ..))
    | (guard_target = Entered _ _ _ (clearBank ..); with_reducible apply clearBank_entered)
    | (guard_target = Entered _ _ _ (clearContext ..); with_reducible apply clearContext_entered)
    | extract_lets
    | dsimp only
    | split
    | dsimp +zetaDelta only

theorem opSys_entered {dv pv : DevState} {kv : Nat} {n : Nat} {i : OpInfo} (h : opSys n = some i) (e : Env) {s : State} (hs : Entered dv pv kv s) : Entered dv pv kv (i.run e s).1 := by
  unfold opSys at h
  split at h
  · cases h; exact hs.ofOnly (opSysNop_only e s)
  · cases h; exact hs.ofOnly (opSysStatus_only e s)
  · cases h; exact hs.ofOnly (opSysIdentity_only e s)
  · cases h; exact opSysLinkReset_entered e hs
  · cases h; exact opSysArm_entered e hs
  · cases h; exact opSysManual_entered e hs
  · cases h; exact opSysDisarm_entered e hs
  · cases h; exact opSysClearFault_entered e hs
  · cases h; exact hs.ofOnly (opSysReset_only e s)
  · cases h; exact opSysSubscribe_entered e hs
  · cases h; exact hs.ofOnly (opSysWakeSet_only e s)
  · cases h

theorem opPb_entered {dv pv : DevState} {kv : Nat} {n : Nat} {i : OpInfo} (h : opPb n = some i) (e : Env) {s : State} (hs : Entered dv pv kv s) : Entered dv pv kv (i.run e s).1 := by
  unfold opPb at h
  split at h
  · cases h; exact hs.ofOnly (opPbRead_only e s)
  · cases h; exact opPbWrite_entered e hs
  · cases h; exact opPbCommit_entered e hs
  · cases h; exact hs.ofOnly (opPbRevert_only e s)
  · cases h

theorem opImpl_entered {dv pv : DevState} {kv : Nat} {n : Nat} {i : OpInfo} (h : opImpl n = some i) (e : Env) {s : State} (hs : Entered dv pv kv s) : Entered dv pv kv (i.run e s).1 := by
  unfold opImpl at h
  split at h
  · cases h; exact hs.ofOnly (opImplWrite_only e s)
  · cases h; exact hs.ofOnly (opImplRead_only e s)
  · cases h; exact opImplCommit_entered e hs
  · cases h; exact hs.ofOnly (opImplRevert_only e s)
  · cases h

theorem opMap_entered {dv pv : DevState} {kv : Nat} {n : Nat} {i : OpInfo} (h : opMap n = some i) (e : Env) {s : State} (hs : Entered dv pv kv s) : Entered dv pv kv (i.run e s).1 := by
  unfold opMap at h
  split at h
  · cases h; exact hs.ofOnly (opMapStatus_only e s)
  · cases h; exact hs.ofOnly (opMapLoadBegin_only e s)
  · cases h; exact hs.ofOnly (opMapLoadData_only e s)
  · cases h; exact opMapLoadEnd_entered e hs
  · cases h; exact opMapLoadAbort_entered e hs
  · cases h; exact opMapExportBegin_entered e hs
  · cases h; exact opMapExportRead_entered e hs
  · cases h; exact hs.ofOnly (opMapExportAck_only e s)
  · cases h; exact opMapClear_entered e hs
  · cases h; exact opMapLogRead_entered e hs
  · cases h; exact hs.ofOnly (opMapLogAck_only e s)
  · cases h

theorem opFe_entered {dv pv : DevState} {kv : Nat} {n : Nat} {i : OpInfo} (h : opFe n = some i) (e : Env) {s : State} (hs : Entered dv pv kv s) : Entered dv pv kv (i.run e s).1 := by
  unfold opFe at h
  split at h
  · cases h; exact hs.ofOnly (opFeDirected_only e s)
  · cases h; exact hs.ofOnly (opFeDirectedClear_only e s)
  · cases h

theorem opAct_entered {dv pv : DevState} {kv : Nat} {n : Nat} {i : OpInfo} (h : opAct n = some i) (e : Env) {s : State} (hs : Entered dv pv kv s) : Entered dv pv kv (i.run e s).1 := by
  unfold opAct at h
  split at h
  · cases h; exact hs.ofOnly (opActEvent_only e s)
  · cases h; exact opActDuty_entered e hs
  · cases h; exact hs.ofOnly (opActFineCmp_only e s)
  · cases h; exact opActClearFault_entered e hs
  · cases h

theorem opCe_entered {dv pv : DevState} {kv : Nat} {n : Nat} {i : OpInfo} (h : opCe n = some i) (e : Env) {s : State} (hs : Entered dv pv kv s) : Entered dv pv kv (i.run e s).1 := by
  unfold opCe at h
  split at h
  · cases h; exact opCeSetpoint_entered e hs
  · cases h; exact opCeOutput_entered e hs
  · cases h; exact hs.ofOnly (opCeTableWrite_only e s)
  · cases h; exact hs.ofOnly (opCeTableRead_only e s)
  · cases h; exact opCeLoopReset_entered e hs
  · cases h

theorem opTime_entered {dv pv : DevState} {kv : Nat} {n : Nat} {i : OpInfo} (h : opTime n = some i) (e : Env) {s : State} (hs : Entered dv pv kv s) : Entered dv pv kv (i.run e s).1 := by
  unfold opTime at h
  split at h
  · cases h; exact hs.ofOnly (opTimeGet_only e s)
  · cases h; exact hs.ofOnly (opTimeStepConfirm_only e s)
  · cases h; exact hs.ofOnly (opGnssRtcm_only e s)
  · cases h; exact hs.ofOnly (opGnssMeasGet_only e s)
  · cases h; exact hs.ofOnly (opPosGet_only e s)
  · cases h

theorem opIo_entered {dv pv : DevState} {kv : Nat} {n : Nat} {i : OpInfo} (h : opIo n = some i) (e : Env) {s : State} (hs : Entered dv pv kv s) : Entered dv pv kv (i.run e s).1 := by
  unfold opIo at h
  split at h
  · cases h; exact opLswSet_entered e hs
  · cases h; exact opLswClearFault_entered e hs
  · cases h; exact opPifEncSet_entered e hs
  · cases h; exact hs.ofOnly (opPifEventsRead_only e s)
  · cases h

theorem opCan_entered {dv pv : DevState} {kv : Nat} {n : Nat} {i : OpInfo} (h : opCan n = some i) (e : Env) {s : State} (hs : Entered dv pv kv s) : Entered dv pv kv (i.run e s).1 := by
  unfold opCan at h
  split at h
  · cases h; exact opCanPhConfig_entered e hs
  · cases h; exact hs.ofOnly (opCanRxRead_only e s)
  · cases h; exact hs.ofOnly (opCanTx_only e s)
  · cases h; exact opCanTxAbort_entered e hs
  · cases h; exact hs.ofOnly (opCanRecover_only e s)
  · cases h

theorem opSec_entered {dv pv : DevState} {kv : Nat} {n : Nat} {i : OpInfo} (h : opSec n = some i) (e : Env) {s : State} (hs : Entered dv pv kv s) : Entered dv pv kv (i.run e s).1 := by
  unfold opSec at h
  split at h
  · cases h; exact opSecSessionOpen_entered e hs
  · cases h; exact opSecSessionClose_entered e hs
  · cases h; exact hs.ofOnly (opSecServiceChallenge_only e s)
  · cases h; exact opSecServiceResponse_entered e hs
  · cases h; exact hs.ofOnly (opSecAttest_only e s)
  · cases h; exact hs.ofOnly (opSecImageBegin_only e s)
  · cases h; exact hs.ofOnly (opSecImageData_only e s)
  · cases h; exact hs.ofOnly (opSecImageEnd_only e s)
  · cases h; exact hs.ofOnly (opSecActivate_only e s)
  · cases h; exact hs.ofOnly (opSecImageStatus_only e s)
  · cases h

theorem opDiag_entered {dv pv : DevState} {kv : Nat} {n : Nat} {i : OpInfo} (h : opDiag n = some i) (e : Env) {s : State} (hs : Entered dv pv kv s) : Entered dv pv kv (i.run e s).1 := by
  unfold opDiag at h
  split at h
  · cases h; exact hs.ofOnly (opDiagRead_only e s)
  · cases h

theorem opInfo_entered {dv pv : DevState} {kv : Nat} {op : BitVec 16} {i : OpInfo} (h : opInfo op = some i) (e : Env) {s : State} (hs : Entered dv pv kv s) : Entered dv pv kv (i.run e s).1 := by
  unfold opInfo at h
  split at h
  · exact opSys_entered h e hs
  · exact opPb_entered h e hs
  · exact opImpl_entered h e hs
  · exact opMap_entered h e hs
  · exact opFe_entered h e hs
  · exact opAct_entered h e hs
  · exact opCe_entered h e hs
  · exact opTime_entered h e hs
  · exact opIo_entered h e hs
  · exact opCan_entered h e hs
  · exact opSec_entered h e hs
  · exact opDiag_entered h e hs
  · cases h

theorem interpret_entered {dv pv : DevState} {kv : Nat} (op : BitVec 16) (e : Env) {s : State} (hs : Entered dv pv kv s) : Entered dv pv kv (interpret op e s).1 := by
  unfold interpret
  split
  · exact hs
  · refine Entered.iteFst hs ?_
    split
    · exact hs
    · exact opInfo_entered ‹_› e hs

theorem checkSeq_entered {dv pv : DevState} {kv : Nat} (e : Env) {s : State} (hI : Entered dv pv kv s) : Entered dv pv kv (checkSeq e s) := by
  unfold checkSeq
  try extract_lets
  repeat' first
    | with_reducible assumption
    | with_reducible refine Entered.ite ?_ ?_
    | (guard_target = Entered _ _ _ (hostNote ..); with_reducible apply hostNote_entered)
    | (guard_target = Entered _ _ _ (modPort ..); with_reducible refine Entered.ofOnly ?_ (modPort_only ..))

theorem runRequest_entered {dv pv : DevState} {kv : Nat} (op : BitVec 16) (e : Env) (n : Nat) {s : State} (hI : Entered dv pv kv s) : Entered dv pv kv (runRequest op e n s) := by
  unfold runRequest
  try extract_lets
  repeat' first
    | with_reducible assumption
    | with_reducible refine Entered.ite ?_ ?_
    | (guard_target = Entered _ _ _ (answer ..); with_reducible refine Entered.ofOnly ?_ (answer_only ..))
    | (guard_target = Entered _ _ _ (interpret ..).1; with_reducible apply interpret_entered)
    | (guard_target = Entered _ _ _ (State.onHost ..); with_reducible refine Entered.ofOnly ?_ (State.onHost_only ..))
    | extract_lets
    | dsimp only
    | split
    | dsimp +zetaDelta only

theorem runOne_entered {dv pv : DevState} {kv : Nat} (h : HeldReq) {s : State} (hI : Entered dv pv kv s) : Entered dv pv kv (runOne s h) := by
  unfold runOne
  try extract_lets
  repeat' first
    | with_reducible assumption
    | with_reducible refine Entered.ite ?_ ?_
    | (guard_target = Entered _ _ _ (modPort ..); with_reducible refine Entered.ofOnly ?_ (modPort_only ..))
    | (guard_target = Entered _ _ _ (runRequest ..); with_reducible apply runRequest_entered)

theorem runHeld_entered {dv pv : DevState} {kv : Nat}  {s : State} (hI : Entered dv pv kv s) : Entered dv pv kv (runHeld s) := by
  unfold runHeld
  try extract_lets
  repeat' first
    | with_reducible assumption
    | with_reducible refine Entered.ite ?_ ?_
    | (guard_target = Entered _ _ _ (runOne ..); with_reducible apply runOne_entered)
    | with_reducible refine Entered.foldl (fun _ _ _ => ?_) ?_
    | with_reducible refine Entered.foldlFst (fun _ _ _ _ => ?_) ?_
    | extract_lets
    | dsimp only
    | split
    | dsimp +zetaDelta only

theorem authFail_entered {dv pv : DevState} {kv : Nat} (op : BitVec 16) (e : Env) (c : Nat) {s : State} (hI : Entered dv pv kv s) : Entered dv pv kv (authFail op e c s) := by
  unfold authFail
  try extract_lets
  repeat' first
    | with_reducible assumption
    | with_reducible refine Entered.ite ?_ ?_
    | (guard_target = Entered _ _ _ (closeSession ..); with_reducible apply closeSession_entered)
    | (guard_target = Entered _ _ _ (hostNote ..); with_reducible apply hostNote_entered)
    | (guard_target = Entered _ _ _ (modPort ..); with_reducible refine Entered.ofOnly ?_ (modPort_only ..))
    | (guard_target = Entered _ _ _ (sendReply ..); with_reducible refine Entered.ofOnly ?_ (sendReply_only ..))
    | extract_lets
    | dsimp only
    | split
    | dsimp +zetaDelta only

theorem accept_entered {dv pv : DevState} {kv : Nat} (op : BitVec 16) (e : Env) (c n : Nat) {s : State} (hI : Entered dv pv kv s) : Entered dv pv kv (accept op e c n s) := by
  unfold accept
  try extract_lets
  repeat' first
    | with_reducible assumption
    | with_reducible refine Entered.ite ?_ ?_
    | (guard_target = Entered _ _ _ (checkSeq ..); with_reducible apply checkSeq_entered)
    | (guard_target = Entered _ _ _ (hold ..); with_reducible refine Entered.ofOnly ?_ (hold_only ..))
    | (guard_target = Entered _ _ _ (replyAgain ..); with_reducible refine Entered.ofOnly ?_ (replyAgain_only ..))
    | (guard_target = Entered _ _ _ (runRequest ..); with_reducible apply runRequest_entered)
    | extract_lets
    | dsimp only
    | split
    | dsimp +zetaDelta only

theorem checkBody_entered {dv pv : DevState} {kv : Nat} (op : BitVec 16) (e : Env) (c : Nat) {s : State} (hI : Entered dv pv kv s) : Entered dv pv kv (checkBody op e c s) := by
  unfold checkBody
  refine Entered.ite (hI.ofOnly (sendReply_only ..)) ?_
  split
  · exact authFail_entered _ _ _ hI
  · exact accept_entered _ _ _ _ (hI.ofOnly (passTag_only ..))

theorem checkHeader_entered {dv pv : DevState} {kv : Nat} (op : BitVec 16) (e : Env) {s : State} (hI : Entered dv pv kv s) : Entered dv pv kv (checkHeader op e s) := by
  unfold checkHeader
  try extract_lets
  repeat' first
    | with_reducible assumption
    | with_reducible refine Entered.ite ?_ ?_
    | (guard_target = Entered _ _ _ (checkBody ..); with_reducible apply checkBody_entered)
    | (guard_target = Entered _ _ _ (refuseHeader ..); with_reducible refine Entered.ofOnly ?_ (refuseHeader_only ..))
    | (guard_target = Entered _ _ _ (sendReply ..); with_reducible refine Entered.ofOnly ?_ (sendReply_only ..))
    | (guard_target = Entered _ _ _ (takeCredit ..); with_reducible refine Entered.ofOnly ?_ (takeCredit_only ..))
    | extract_lets
    | dsimp only
    | split
    | dsimp +zetaDelta only

theorem receive_entered {dv pv : DevState} {kv : Nat} (op : BitVec 16) (e : Env) {s : State} (hI : Entered dv pv kv s) : Entered dv pv kv (receive op e s) := by
  unfold receive
  try extract_lets
  repeat' first
    | with_reducible assumption
    | with_reducible refine Entered.ite ?_ ?_
    | (guard_target = Entered _ _ _ (checkHeader ..); with_reducible apply checkHeader_entered)
    | (guard_target = Entered _ _ _ (countBadHeader ..); with_reducible apply countBadHeader_entered)
    | (guard_target = Entered _ _ _ (validHeader ..); with_reducible apply validHeader_entered)
    | extract_lets
    | dsimp only
    | split
    | dsimp +zetaDelta only

theorem tunnelHeader_entered {dv pv : DevState} {kv : Nat} (e : Env) {s : State} (hI : Entered dv pv kv s) : Entered dv pv kv (tunnelHeader e s) := by
  unfold tunnelHeader
  exact Entered.ite ((validHeader_entered _ hI).ofOnly (modPort_only ..)) hI

theorem tunnelBody_entered {dv pv : DevState} {kv : Nat} (op : BitVec 16) (e : Env) {s : State} (hI : Entered dv pv kv s) : Entered dv pv kv (tunnelBody op e s) := by
  unfold tunnelBody
  exact Entered.ite (checkHeader_entered _ _ (hI.ofOnly (modPort_only ..))) hI

theorem tunnelServe_entered {dv pv : DevState} {kv : Nat} (at_ : Tick) (n : Nat) {s : State} (h : Entered dv pv kv s) :
    Entered dv pv kv (tunnelServe at_ n s) := by
  induction n generalizing s with
  | zero => exact h
  | succ n ih =>
    unfold tunnelServe
    extract_lets bs keep hd m total e t
    have hk (l : List Byte) {t : State} (ht : Entered dv pv kv t) : Entered dv pv kv (keep l t) := ht.ofOnly (modPort_only ..)
    have ht : Entered dv pv kv t := tunnelHeader_entered _ h
    clear_value keep t e
    exact Entered.ite (hk _ h) (Entered.ite (ih (countBadHeader_entered _ (hk _ h))) (Entered.ite (hk _ ht) (ih (tunnelBody_entered _ _ (hk _ ht)))))

theorem execCanFrameReceive_entered {dv pv : DevState} {kv : Nat} (x : Fin 3) (f : CanFrame) {s : State} (hI : Entered dv pv kv s) :
    EnteredR dv pv kv (execCanFrameReceive x f s) := by
  unfold execCanFrameReceive
  have h1 := canFrameReceive_entered x f hI
  exact .next (Entered.ite (tunnelServe_entered _ _ h1) h1)

theorem execSysNop_entered {dv pv : DevState} {kv : Nat} (e : Env) {s : State} (hI : Entered dv pv kv s) : EnteredR dv pv kv (execSysNop e s) := by
  unfold execSysNop
  try extract_lets
  repeat' first
    | with_reducible assumption
    | with_reducible refine EnteredR.next ?_
    | with_reducible refine EnteredR.ite ?_ ?_
    | with_reducible refine Entered.ite ?_ ?_
    | (guard_target = Entered _ _ _ (receive ..); with_reducible apply receive_entered)
    | extract_lets
    | dsimp only
    | split
    | dsimp +zetaDelta only

theorem execSysStatus_entered {dv pv : DevState} {kv : Nat} (e : Env) {s : State} (hI : Entered dv pv kv s) : EnteredR dv pv kv (execSysStatus e s) := by
  unfold execSysStatus
  try extract_lets
  repeat' first
    | with_reducible assumption
    | with_reducible refine EnteredR.next ?_
    | with_reducible refine EnteredR.ite ?_ ?_
    | with_reducible refine Entered.ite ?_ ?_
    | (guard_target = Entered _ _ _ (receive ..); with_reducible apply receive_entered)
    | extract_lets
    | dsimp only
    | split
    | dsimp +zetaDelta only

theorem execSysIdentity_entered {dv pv : DevState} {kv : Nat} (e : Env) {s : State} (hI : Entered dv pv kv s) : EnteredR dv pv kv (execSysIdentity e s) := by
  unfold execSysIdentity
  try extract_lets
  repeat' first
    | with_reducible assumption
    | with_reducible refine EnteredR.next ?_
    | with_reducible refine EnteredR.ite ?_ ?_
    | with_reducible refine Entered.ite ?_ ?_
    | (guard_target = Entered _ _ _ (receive ..); with_reducible apply receive_entered)
    | extract_lets
    | dsimp only
    | split
    | dsimp +zetaDelta only

theorem execSysLinkReset_entered {dv pv : DevState} {kv : Nat} (e : Env) {s : State} (hI : Entered dv pv kv s) : EnteredR dv pv kv (execSysLinkReset e s) := by
  unfold execSysLinkReset
  try extract_lets
  repeat' first
    | with_reducible assumption
    | with_reducible refine EnteredR.next ?_
    | with_reducible refine EnteredR.ite ?_ ?_
    | with_reducible refine Entered.ite ?_ ?_
    | (guard_target = Entered _ _ _ (receive ..); with_reducible apply receive_entered)
    | extract_lets
    | dsimp only
    | split
    | dsimp +zetaDelta only

theorem execSysArm_entered {dv pv : DevState} {kv : Nat} (e : Env) {s : State} (hI : Entered dv pv kv s) : EnteredR dv pv kv (execSysArm e s) := by
  unfold execSysArm
  try extract_lets
  repeat' first
    | with_reducible assumption
    | with_reducible refine EnteredR.next ?_
    | with_reducible refine EnteredR.ite ?_ ?_
    | with_reducible refine Entered.ite ?_ ?_
    | (guard_target = Entered _ _ _ (receive ..); with_reducible apply receive_entered)
    | extract_lets
    | dsimp only
    | split
    | dsimp +zetaDelta only

theorem execSysManual_entered {dv pv : DevState} {kv : Nat} (e : Env) {s : State} (hI : Entered dv pv kv s) : EnteredR dv pv kv (execSysManual e s) := by
  unfold execSysManual
  try extract_lets
  repeat' first
    | with_reducible assumption
    | with_reducible refine EnteredR.next ?_
    | with_reducible refine EnteredR.ite ?_ ?_
    | with_reducible refine Entered.ite ?_ ?_
    | (guard_target = Entered _ _ _ (receive ..); with_reducible apply receive_entered)
    | extract_lets
    | dsimp only
    | split
    | dsimp +zetaDelta only

theorem execSysDisarm_entered {dv pv : DevState} {kv : Nat} (e : Env) {s : State} (hI : Entered dv pv kv s) : EnteredR dv pv kv (execSysDisarm e s) := by
  unfold execSysDisarm
  try extract_lets
  repeat' first
    | with_reducible assumption
    | with_reducible refine EnteredR.next ?_
    | with_reducible refine EnteredR.ite ?_ ?_
    | with_reducible refine Entered.ite ?_ ?_
    | (guard_target = Entered _ _ _ (receive ..); with_reducible apply receive_entered)
    | extract_lets
    | dsimp only
    | split
    | dsimp +zetaDelta only

theorem execSysClearFault_entered {dv pv : DevState} {kv : Nat} (e : Env) {s : State} (hI : Entered dv pv kv s) : EnteredR dv pv kv (execSysClearFault e s) := by
  unfold execSysClearFault
  try extract_lets
  repeat' first
    | with_reducible assumption
    | with_reducible refine EnteredR.next ?_
    | with_reducible refine EnteredR.ite ?_ ?_
    | with_reducible refine Entered.ite ?_ ?_
    | (guard_target = Entered _ _ _ (receive ..); with_reducible apply receive_entered)
    | extract_lets
    | dsimp only
    | split
    | dsimp +zetaDelta only

theorem execSysReset_entered {dv pv : DevState} {kv : Nat} (e : Env) {s : State} (hI : Entered dv pv kv s) : EnteredR dv pv kv (execSysReset e s) := by
  unfold execSysReset
  try extract_lets
  repeat' first
    | with_reducible assumption
    | with_reducible refine EnteredR.next ?_
    | with_reducible refine EnteredR.ite ?_ ?_
    | with_reducible refine Entered.ite ?_ ?_
    | (guard_target = Entered _ _ _ (receive ..); with_reducible apply receive_entered)
    | extract_lets
    | dsimp only
    | split
    | dsimp +zetaDelta only

theorem execSysSubscribe_entered {dv pv : DevState} {kv : Nat} (e : Env) {s : State} (hI : Entered dv pv kv s) : EnteredR dv pv kv (execSysSubscribe e s) := by
  unfold execSysSubscribe
  try extract_lets
  repeat' first
    | with_reducible assumption
    | with_reducible refine EnteredR.next ?_
    | with_reducible refine EnteredR.ite ?_ ?_
    | with_reducible refine Entered.ite ?_ ?_
    | (guard_target = Entered _ _ _ (receive ..); with_reducible apply receive_entered)
    | extract_lets
    | dsimp only
    | split
    | dsimp +zetaDelta only

theorem execSysWakeSet_entered {dv pv : DevState} {kv : Nat} (e : Env) {s : State} (hI : Entered dv pv kv s) : EnteredR dv pv kv (execSysWakeSet e s) := by
  unfold execSysWakeSet
  try extract_lets
  repeat' first
    | with_reducible assumption
    | with_reducible refine EnteredR.next ?_
    | with_reducible refine EnteredR.ite ?_ ?_
    | with_reducible refine Entered.ite ?_ ?_
    | (guard_target = Entered _ _ _ (receive ..); with_reducible apply receive_entered)
    | extract_lets
    | dsimp only
    | split
    | dsimp +zetaDelta only

theorem execPbRead_entered {dv pv : DevState} {kv : Nat} (e : Env) {s : State} (hI : Entered dv pv kv s) : EnteredR dv pv kv (execPbRead e s) := by
  unfold execPbRead
  try extract_lets
  repeat' first
    | with_reducible assumption
    | with_reducible refine EnteredR.next ?_
    | with_reducible refine EnteredR.ite ?_ ?_
    | with_reducible refine Entered.ite ?_ ?_
    | (guard_target = Entered _ _ _ (receive ..); with_reducible apply receive_entered)
    | extract_lets
    | dsimp only
    | split
    | dsimp +zetaDelta only

theorem execPbWrite_entered {dv pv : DevState} {kv : Nat} (e : Env) {s : State} (hI : Entered dv pv kv s) : EnteredR dv pv kv (execPbWrite e s) := by
  unfold execPbWrite
  try extract_lets
  repeat' first
    | with_reducible assumption
    | with_reducible refine EnteredR.next ?_
    | with_reducible refine EnteredR.ite ?_ ?_
    | with_reducible refine Entered.ite ?_ ?_
    | (guard_target = Entered _ _ _ (receive ..); with_reducible apply receive_entered)
    | extract_lets
    | dsimp only
    | split
    | dsimp +zetaDelta only

theorem execPbCommit_entered {dv pv : DevState} {kv : Nat} (e : Env) {s : State} (hI : Entered dv pv kv s) : EnteredR dv pv kv (execPbCommit e s) := by
  unfold execPbCommit
  try extract_lets
  repeat' first
    | with_reducible assumption
    | with_reducible refine EnteredR.next ?_
    | with_reducible refine EnteredR.ite ?_ ?_
    | with_reducible refine Entered.ite ?_ ?_
    | (guard_target = Entered _ _ _ (receive ..); with_reducible apply receive_entered)
    | extract_lets
    | dsimp only
    | split
    | dsimp +zetaDelta only

theorem execPbRevert_entered {dv pv : DevState} {kv : Nat} (e : Env) {s : State} (hI : Entered dv pv kv s) : EnteredR dv pv kv (execPbRevert e s) := by
  unfold execPbRevert
  try extract_lets
  repeat' first
    | with_reducible assumption
    | with_reducible refine EnteredR.next ?_
    | with_reducible refine EnteredR.ite ?_ ?_
    | with_reducible refine Entered.ite ?_ ?_
    | (guard_target = Entered _ _ _ (receive ..); with_reducible apply receive_entered)
    | extract_lets
    | dsimp only
    | split
    | dsimp +zetaDelta only

theorem execImplWrite_entered {dv pv : DevState} {kv : Nat} (e : Env) {s : State} (hI : Entered dv pv kv s) : EnteredR dv pv kv (execImplWrite e s) := by
  unfold execImplWrite
  try extract_lets
  repeat' first
    | with_reducible assumption
    | with_reducible refine EnteredR.next ?_
    | with_reducible refine EnteredR.ite ?_ ?_
    | with_reducible refine Entered.ite ?_ ?_
    | (guard_target = Entered _ _ _ (receive ..); with_reducible apply receive_entered)
    | extract_lets
    | dsimp only
    | split
    | dsimp +zetaDelta only

theorem execImplRead_entered {dv pv : DevState} {kv : Nat} (e : Env) {s : State} (hI : Entered dv pv kv s) : EnteredR dv pv kv (execImplRead e s) := by
  unfold execImplRead
  try extract_lets
  repeat' first
    | with_reducible assumption
    | with_reducible refine EnteredR.next ?_
    | with_reducible refine EnteredR.ite ?_ ?_
    | with_reducible refine Entered.ite ?_ ?_
    | (guard_target = Entered _ _ _ (receive ..); with_reducible apply receive_entered)
    | extract_lets
    | dsimp only
    | split
    | dsimp +zetaDelta only

theorem execImplCommit_entered {dv pv : DevState} {kv : Nat} (e : Env) {s : State} (hI : Entered dv pv kv s) : EnteredR dv pv kv (execImplCommit e s) := by
  unfold execImplCommit
  try extract_lets
  repeat' first
    | with_reducible assumption
    | with_reducible refine EnteredR.next ?_
    | with_reducible refine EnteredR.ite ?_ ?_
    | with_reducible refine Entered.ite ?_ ?_
    | (guard_target = Entered _ _ _ (receive ..); with_reducible apply receive_entered)
    | extract_lets
    | dsimp only
    | split
    | dsimp +zetaDelta only

theorem execImplRevert_entered {dv pv : DevState} {kv : Nat} (e : Env) {s : State} (hI : Entered dv pv kv s) : EnteredR dv pv kv (execImplRevert e s) := by
  unfold execImplRevert
  try extract_lets
  repeat' first
    | with_reducible assumption
    | with_reducible refine EnteredR.next ?_
    | with_reducible refine EnteredR.ite ?_ ?_
    | with_reducible refine Entered.ite ?_ ?_
    | (guard_target = Entered _ _ _ (receive ..); with_reducible apply receive_entered)
    | extract_lets
    | dsimp only
    | split
    | dsimp +zetaDelta only

theorem execMapStatus_entered {dv pv : DevState} {kv : Nat} (e : Env) {s : State} (hI : Entered dv pv kv s) : EnteredR dv pv kv (execMapStatus e s) := by
  unfold execMapStatus
  try extract_lets
  repeat' first
    | with_reducible assumption
    | with_reducible refine EnteredR.next ?_
    | with_reducible refine EnteredR.ite ?_ ?_
    | with_reducible refine Entered.ite ?_ ?_
    | (guard_target = Entered _ _ _ (receive ..); with_reducible apply receive_entered)
    | extract_lets
    | dsimp only
    | split
    | dsimp +zetaDelta only

theorem execMapLoadBegin_entered {dv pv : DevState} {kv : Nat} (e : Env) {s : State} (hI : Entered dv pv kv s) : EnteredR dv pv kv (execMapLoadBegin e s) := by
  unfold execMapLoadBegin
  try extract_lets
  repeat' first
    | with_reducible assumption
    | with_reducible refine EnteredR.next ?_
    | with_reducible refine EnteredR.ite ?_ ?_
    | with_reducible refine Entered.ite ?_ ?_
    | (guard_target = Entered _ _ _ (receive ..); with_reducible apply receive_entered)
    | extract_lets
    | dsimp only
    | split
    | dsimp +zetaDelta only

theorem execMapLoadData_entered {dv pv : DevState} {kv : Nat} (e : Env) {s : State} (hI : Entered dv pv kv s) : EnteredR dv pv kv (execMapLoadData e s) := by
  unfold execMapLoadData
  try extract_lets
  repeat' first
    | with_reducible assumption
    | with_reducible refine EnteredR.next ?_
    | with_reducible refine EnteredR.ite ?_ ?_
    | with_reducible refine Entered.ite ?_ ?_
    | (guard_target = Entered _ _ _ (receive ..); with_reducible apply receive_entered)
    | extract_lets
    | dsimp only
    | split
    | dsimp +zetaDelta only

theorem execMapLoadEnd_entered {dv pv : DevState} {kv : Nat} (e : Env) {s : State} (hI : Entered dv pv kv s) : EnteredR dv pv kv (execMapLoadEnd e s) := by
  unfold execMapLoadEnd
  try extract_lets
  repeat' first
    | with_reducible assumption
    | with_reducible refine EnteredR.next ?_
    | with_reducible refine EnteredR.ite ?_ ?_
    | with_reducible refine Entered.ite ?_ ?_
    | (guard_target = Entered _ _ _ (receive ..); with_reducible apply receive_entered)
    | extract_lets
    | dsimp only
    | split
    | dsimp +zetaDelta only

theorem execMapLoadAbort_entered {dv pv : DevState} {kv : Nat} (e : Env) {s : State} (hI : Entered dv pv kv s) : EnteredR dv pv kv (execMapLoadAbort e s) := by
  unfold execMapLoadAbort
  try extract_lets
  repeat' first
    | with_reducible assumption
    | with_reducible refine EnteredR.next ?_
    | with_reducible refine EnteredR.ite ?_ ?_
    | with_reducible refine Entered.ite ?_ ?_
    | (guard_target = Entered _ _ _ (receive ..); with_reducible apply receive_entered)
    | extract_lets
    | dsimp only
    | split
    | dsimp +zetaDelta only

theorem execMapExportBegin_entered {dv pv : DevState} {kv : Nat} (e : Env) {s : State} (hI : Entered dv pv kv s) : EnteredR dv pv kv (execMapExportBegin e s) := by
  unfold execMapExportBegin
  try extract_lets
  repeat' first
    | with_reducible assumption
    | with_reducible refine EnteredR.next ?_
    | with_reducible refine EnteredR.ite ?_ ?_
    | with_reducible refine Entered.ite ?_ ?_
    | (guard_target = Entered _ _ _ (receive ..); with_reducible apply receive_entered)
    | extract_lets
    | dsimp only
    | split
    | dsimp +zetaDelta only

theorem execMapExportRead_entered {dv pv : DevState} {kv : Nat} (e : Env) {s : State} (hI : Entered dv pv kv s) : EnteredR dv pv kv (execMapExportRead e s) := by
  unfold execMapExportRead
  try extract_lets
  repeat' first
    | with_reducible assumption
    | with_reducible refine EnteredR.next ?_
    | with_reducible refine EnteredR.ite ?_ ?_
    | with_reducible refine Entered.ite ?_ ?_
    | (guard_target = Entered _ _ _ (receive ..); with_reducible apply receive_entered)
    | extract_lets
    | dsimp only
    | split
    | dsimp +zetaDelta only

theorem execMapExportAck_entered {dv pv : DevState} {kv : Nat} (e : Env) {s : State} (hI : Entered dv pv kv s) : EnteredR dv pv kv (execMapExportAck e s) := by
  unfold execMapExportAck
  try extract_lets
  repeat' first
    | with_reducible assumption
    | with_reducible refine EnteredR.next ?_
    | with_reducible refine EnteredR.ite ?_ ?_
    | with_reducible refine Entered.ite ?_ ?_
    | (guard_target = Entered _ _ _ (receive ..); with_reducible apply receive_entered)
    | extract_lets
    | dsimp only
    | split
    | dsimp +zetaDelta only

theorem execMapClear_entered {dv pv : DevState} {kv : Nat} (e : Env) {s : State} (hI : Entered dv pv kv s) : EnteredR dv pv kv (execMapClear e s) := by
  unfold execMapClear
  try extract_lets
  repeat' first
    | with_reducible assumption
    | with_reducible refine EnteredR.next ?_
    | with_reducible refine EnteredR.ite ?_ ?_
    | with_reducible refine Entered.ite ?_ ?_
    | (guard_target = Entered _ _ _ (receive ..); with_reducible apply receive_entered)
    | extract_lets
    | dsimp only
    | split
    | dsimp +zetaDelta only

theorem execMapLogRead_entered {dv pv : DevState} {kv : Nat} (e : Env) {s : State} (hI : Entered dv pv kv s) : EnteredR dv pv kv (execMapLogRead e s) := by
  unfold execMapLogRead
  try extract_lets
  repeat' first
    | with_reducible assumption
    | with_reducible refine EnteredR.next ?_
    | with_reducible refine EnteredR.ite ?_ ?_
    | with_reducible refine Entered.ite ?_ ?_
    | (guard_target = Entered _ _ _ (receive ..); with_reducible apply receive_entered)
    | extract_lets
    | dsimp only
    | split
    | dsimp +zetaDelta only

theorem execMapLogAck_entered {dv pv : DevState} {kv : Nat} (e : Env) {s : State} (hI : Entered dv pv kv s) : EnteredR dv pv kv (execMapLogAck e s) := by
  unfold execMapLogAck
  try extract_lets
  repeat' first
    | with_reducible assumption
    | with_reducible refine EnteredR.next ?_
    | with_reducible refine EnteredR.ite ?_ ?_
    | with_reducible refine Entered.ite ?_ ?_
    | (guard_target = Entered _ _ _ (receive ..); with_reducible apply receive_entered)
    | extract_lets
    | dsimp only
    | split
    | dsimp +zetaDelta only

theorem execFeDirected_entered {dv pv : DevState} {kv : Nat} (e : Env) {s : State} (hI : Entered dv pv kv s) : EnteredR dv pv kv (execFeDirected e s) := by
  unfold execFeDirected
  try extract_lets
  repeat' first
    | with_reducible assumption
    | with_reducible refine EnteredR.next ?_
    | with_reducible refine EnteredR.ite ?_ ?_
    | with_reducible refine Entered.ite ?_ ?_
    | (guard_target = Entered _ _ _ (receive ..); with_reducible apply receive_entered)
    | extract_lets
    | dsimp only
    | split
    | dsimp +zetaDelta only

theorem execFeDirectedClear_entered {dv pv : DevState} {kv : Nat} (e : Env) {s : State} (hI : Entered dv pv kv s) : EnteredR dv pv kv (execFeDirectedClear e s) := by
  unfold execFeDirectedClear
  try extract_lets
  repeat' first
    | with_reducible assumption
    | with_reducible refine EnteredR.next ?_
    | with_reducible refine EnteredR.ite ?_ ?_
    | with_reducible refine Entered.ite ?_ ?_
    | (guard_target = Entered _ _ _ (receive ..); with_reducible apply receive_entered)
    | extract_lets
    | dsimp only
    | split
    | dsimp +zetaDelta only

theorem execActEvent_entered {dv pv : DevState} {kv : Nat} (e : Env) {s : State} (hI : Entered dv pv kv s) : EnteredR dv pv kv (execActEvent e s) := by
  unfold execActEvent
  try extract_lets
  repeat' first
    | with_reducible assumption
    | with_reducible refine EnteredR.next ?_
    | with_reducible refine EnteredR.ite ?_ ?_
    | with_reducible refine Entered.ite ?_ ?_
    | (guard_target = Entered _ _ _ (receive ..); with_reducible apply receive_entered)
    | extract_lets
    | dsimp only
    | split
    | dsimp +zetaDelta only

theorem execActDuty_entered {dv pv : DevState} {kv : Nat} (e : Env) {s : State} (hI : Entered dv pv kv s) : EnteredR dv pv kv (execActDuty e s) := by
  unfold execActDuty
  try extract_lets
  repeat' first
    | with_reducible assumption
    | with_reducible refine EnteredR.next ?_
    | with_reducible refine EnteredR.ite ?_ ?_
    | with_reducible refine Entered.ite ?_ ?_
    | (guard_target = Entered _ _ _ (receive ..); with_reducible apply receive_entered)
    | extract_lets
    | dsimp only
    | split
    | dsimp +zetaDelta only

theorem execActFineCmp_entered {dv pv : DevState} {kv : Nat} (e : Env) {s : State} (hI : Entered dv pv kv s) : EnteredR dv pv kv (execActFineCmp e s) := by
  unfold execActFineCmp
  try extract_lets
  repeat' first
    | with_reducible assumption
    | with_reducible refine EnteredR.next ?_
    | with_reducible refine EnteredR.ite ?_ ?_
    | with_reducible refine Entered.ite ?_ ?_
    | (guard_target = Entered _ _ _ (receive ..); with_reducible apply receive_entered)
    | extract_lets
    | dsimp only
    | split
    | dsimp +zetaDelta only

theorem execActClearFault_entered {dv pv : DevState} {kv : Nat} (e : Env) {s : State} (hI : Entered dv pv kv s) : EnteredR dv pv kv (execActClearFault e s) := by
  unfold execActClearFault
  try extract_lets
  repeat' first
    | with_reducible assumption
    | with_reducible refine EnteredR.next ?_
    | with_reducible refine EnteredR.ite ?_ ?_
    | with_reducible refine Entered.ite ?_ ?_
    | (guard_target = Entered _ _ _ (receive ..); with_reducible apply receive_entered)
    | extract_lets
    | dsimp only
    | split
    | dsimp +zetaDelta only

theorem execCeSetpoint_entered {dv pv : DevState} {kv : Nat} (e : Env) {s : State} (hI : Entered dv pv kv s) : EnteredR dv pv kv (execCeSetpoint e s) := by
  unfold execCeSetpoint
  try extract_lets
  repeat' first
    | with_reducible assumption
    | with_reducible refine EnteredR.next ?_
    | with_reducible refine EnteredR.ite ?_ ?_
    | with_reducible refine Entered.ite ?_ ?_
    | (guard_target = Entered _ _ _ (receive ..); with_reducible apply receive_entered)
    | extract_lets
    | dsimp only
    | split
    | dsimp +zetaDelta only

theorem execCeOutput_entered {dv pv : DevState} {kv : Nat} (e : Env) {s : State} (hI : Entered dv pv kv s) : EnteredR dv pv kv (execCeOutput e s) := by
  unfold execCeOutput
  try extract_lets
  repeat' first
    | with_reducible assumption
    | with_reducible refine EnteredR.next ?_
    | with_reducible refine EnteredR.ite ?_ ?_
    | with_reducible refine Entered.ite ?_ ?_
    | (guard_target = Entered _ _ _ (receive ..); with_reducible apply receive_entered)
    | extract_lets
    | dsimp only
    | split
    | dsimp +zetaDelta only

theorem execCeTableWrite_entered {dv pv : DevState} {kv : Nat} (e : Env) {s : State} (hI : Entered dv pv kv s) : EnteredR dv pv kv (execCeTableWrite e s) := by
  unfold execCeTableWrite
  try extract_lets
  repeat' first
    | with_reducible assumption
    | with_reducible refine EnteredR.next ?_
    | with_reducible refine EnteredR.ite ?_ ?_
    | with_reducible refine Entered.ite ?_ ?_
    | (guard_target = Entered _ _ _ (receive ..); with_reducible apply receive_entered)
    | extract_lets
    | dsimp only
    | split
    | dsimp +zetaDelta only

theorem execCeTableRead_entered {dv pv : DevState} {kv : Nat} (e : Env) {s : State} (hI : Entered dv pv kv s) : EnteredR dv pv kv (execCeTableRead e s) := by
  unfold execCeTableRead
  try extract_lets
  repeat' first
    | with_reducible assumption
    | with_reducible refine EnteredR.next ?_
    | with_reducible refine EnteredR.ite ?_ ?_
    | with_reducible refine Entered.ite ?_ ?_
    | (guard_target = Entered _ _ _ (receive ..); with_reducible apply receive_entered)
    | extract_lets
    | dsimp only
    | split
    | dsimp +zetaDelta only

theorem execCeLoopReset_entered {dv pv : DevState} {kv : Nat} (e : Env) {s : State} (hI : Entered dv pv kv s) : EnteredR dv pv kv (execCeLoopReset e s) := by
  unfold execCeLoopReset
  try extract_lets
  repeat' first
    | with_reducible assumption
    | with_reducible refine EnteredR.next ?_
    | with_reducible refine EnteredR.ite ?_ ?_
    | with_reducible refine Entered.ite ?_ ?_
    | (guard_target = Entered _ _ _ (receive ..); with_reducible apply receive_entered)
    | extract_lets
    | dsimp only
    | split
    | dsimp +zetaDelta only

theorem execTimeGet_entered {dv pv : DevState} {kv : Nat} (e : Env) {s : State} (hI : Entered dv pv kv s) : EnteredR dv pv kv (execTimeGet e s) := by
  unfold execTimeGet
  try extract_lets
  repeat' first
    | with_reducible assumption
    | with_reducible refine EnteredR.next ?_
    | with_reducible refine EnteredR.ite ?_ ?_
    | with_reducible refine Entered.ite ?_ ?_
    | (guard_target = Entered _ _ _ (receive ..); with_reducible apply receive_entered)
    | extract_lets
    | dsimp only
    | split
    | dsimp +zetaDelta only

theorem execTimeStepConfirm_entered {dv pv : DevState} {kv : Nat} (e : Env) {s : State} (hI : Entered dv pv kv s) : EnteredR dv pv kv (execTimeStepConfirm e s) := by
  unfold execTimeStepConfirm
  try extract_lets
  repeat' first
    | with_reducible assumption
    | with_reducible refine EnteredR.next ?_
    | with_reducible refine EnteredR.ite ?_ ?_
    | with_reducible refine Entered.ite ?_ ?_
    | (guard_target = Entered _ _ _ (receive ..); with_reducible apply receive_entered)
    | extract_lets
    | dsimp only
    | split
    | dsimp +zetaDelta only

theorem execGnssRtcm_entered {dv pv : DevState} {kv : Nat} (e : Env) {s : State} (hI : Entered dv pv kv s) : EnteredR dv pv kv (execGnssRtcm e s) := by
  unfold execGnssRtcm
  try extract_lets
  repeat' first
    | with_reducible assumption
    | with_reducible refine EnteredR.next ?_
    | with_reducible refine EnteredR.ite ?_ ?_
    | with_reducible refine Entered.ite ?_ ?_
    | (guard_target = Entered _ _ _ (receive ..); with_reducible apply receive_entered)
    | extract_lets
    | dsimp only
    | split
    | dsimp +zetaDelta only

theorem execGnssMeasGet_entered {dv pv : DevState} {kv : Nat} (e : Env) {s : State} (hI : Entered dv pv kv s) : EnteredR dv pv kv (execGnssMeasGet e s) := by
  unfold execGnssMeasGet
  try extract_lets
  repeat' first
    | with_reducible assumption
    | with_reducible refine EnteredR.next ?_
    | with_reducible refine EnteredR.ite ?_ ?_
    | with_reducible refine Entered.ite ?_ ?_
    | (guard_target = Entered _ _ _ (receive ..); with_reducible apply receive_entered)
    | extract_lets
    | dsimp only
    | split
    | dsimp +zetaDelta only

theorem execPosGet_entered {dv pv : DevState} {kv : Nat} (e : Env) {s : State} (hI : Entered dv pv kv s) : EnteredR dv pv kv (execPosGet e s) := by
  unfold execPosGet
  try extract_lets
  repeat' first
    | with_reducible assumption
    | with_reducible refine EnteredR.next ?_
    | with_reducible refine EnteredR.ite ?_ ?_
    | with_reducible refine Entered.ite ?_ ?_
    | (guard_target = Entered _ _ _ (receive ..); with_reducible apply receive_entered)
    | extract_lets
    | dsimp only
    | split
    | dsimp +zetaDelta only

theorem execLswSet_entered {dv pv : DevState} {kv : Nat} (e : Env) {s : State} (hI : Entered dv pv kv s) : EnteredR dv pv kv (execLswSet e s) := by
  unfold execLswSet
  try extract_lets
  repeat' first
    | with_reducible assumption
    | with_reducible refine EnteredR.next ?_
    | with_reducible refine EnteredR.ite ?_ ?_
    | with_reducible refine Entered.ite ?_ ?_
    | (guard_target = Entered _ _ _ (receive ..); with_reducible apply receive_entered)
    | extract_lets
    | dsimp only
    | split
    | dsimp +zetaDelta only

theorem execLswClearFault_entered {dv pv : DevState} {kv : Nat} (e : Env) {s : State} (hI : Entered dv pv kv s) : EnteredR dv pv kv (execLswClearFault e s) := by
  unfold execLswClearFault
  try extract_lets
  repeat' first
    | with_reducible assumption
    | with_reducible refine EnteredR.next ?_
    | with_reducible refine EnteredR.ite ?_ ?_
    | with_reducible refine Entered.ite ?_ ?_
    | (guard_target = Entered _ _ _ (receive ..); with_reducible apply receive_entered)
    | extract_lets
    | dsimp only
    | split
    | dsimp +zetaDelta only

theorem execPifEncSet_entered {dv pv : DevState} {kv : Nat} (e : Env) {s : State} (hI : Entered dv pv kv s) : EnteredR dv pv kv (execPifEncSet e s) := by
  unfold execPifEncSet
  try extract_lets
  repeat' first
    | with_reducible assumption
    | with_reducible refine EnteredR.next ?_
    | with_reducible refine EnteredR.ite ?_ ?_
    | with_reducible refine Entered.ite ?_ ?_
    | (guard_target = Entered _ _ _ (receive ..); with_reducible apply receive_entered)
    | extract_lets
    | dsimp only
    | split
    | dsimp +zetaDelta only

theorem execPifEventsRead_entered {dv pv : DevState} {kv : Nat} (e : Env) {s : State} (hI : Entered dv pv kv s) : EnteredR dv pv kv (execPifEventsRead e s) := by
  unfold execPifEventsRead
  try extract_lets
  repeat' first
    | with_reducible assumption
    | with_reducible refine EnteredR.next ?_
    | with_reducible refine EnteredR.ite ?_ ?_
    | with_reducible refine Entered.ite ?_ ?_
    | (guard_target = Entered _ _ _ (receive ..); with_reducible apply receive_entered)
    | extract_lets
    | dsimp only
    | split
    | dsimp +zetaDelta only

theorem execCanPhConfig_entered {dv pv : DevState} {kv : Nat} (e : Env) {s : State} (hI : Entered dv pv kv s) : EnteredR dv pv kv (execCanPhConfig e s) := by
  unfold execCanPhConfig
  try extract_lets
  repeat' first
    | with_reducible assumption
    | with_reducible refine EnteredR.next ?_
    | with_reducible refine EnteredR.ite ?_ ?_
    | with_reducible refine Entered.ite ?_ ?_
    | (guard_target = Entered _ _ _ (receive ..); with_reducible apply receive_entered)
    | extract_lets
    | dsimp only
    | split
    | dsimp +zetaDelta only

theorem execCanRxRead_entered {dv pv : DevState} {kv : Nat} (e : Env) {s : State} (hI : Entered dv pv kv s) : EnteredR dv pv kv (execCanRxRead e s) := by
  unfold execCanRxRead
  try extract_lets
  repeat' first
    | with_reducible assumption
    | with_reducible refine EnteredR.next ?_
    | with_reducible refine EnteredR.ite ?_ ?_
    | with_reducible refine Entered.ite ?_ ?_
    | (guard_target = Entered _ _ _ (receive ..); with_reducible apply receive_entered)
    | extract_lets
    | dsimp only
    | split
    | dsimp +zetaDelta only

theorem execCanTx_entered {dv pv : DevState} {kv : Nat} (e : Env) {s : State} (hI : Entered dv pv kv s) : EnteredR dv pv kv (execCanTx e s) := by
  unfold execCanTx
  try extract_lets
  repeat' first
    | with_reducible assumption
    | with_reducible refine EnteredR.next ?_
    | with_reducible refine EnteredR.ite ?_ ?_
    | with_reducible refine Entered.ite ?_ ?_
    | (guard_target = Entered _ _ _ (receive ..); with_reducible apply receive_entered)
    | extract_lets
    | dsimp only
    | split
    | dsimp +zetaDelta only

theorem execCanTxAbort_entered {dv pv : DevState} {kv : Nat} (e : Env) {s : State} (hI : Entered dv pv kv s) : EnteredR dv pv kv (execCanTxAbort e s) := by
  unfold execCanTxAbort
  try extract_lets
  repeat' first
    | with_reducible assumption
    | with_reducible refine EnteredR.next ?_
    | with_reducible refine EnteredR.ite ?_ ?_
    | with_reducible refine Entered.ite ?_ ?_
    | (guard_target = Entered _ _ _ (receive ..); with_reducible apply receive_entered)
    | extract_lets
    | dsimp only
    | split
    | dsimp +zetaDelta only

theorem execCanRecover_entered {dv pv : DevState} {kv : Nat} (e : Env) {s : State} (hI : Entered dv pv kv s) : EnteredR dv pv kv (execCanRecover e s) := by
  unfold execCanRecover
  try extract_lets
  repeat' first
    | with_reducible assumption
    | with_reducible refine EnteredR.next ?_
    | with_reducible refine EnteredR.ite ?_ ?_
    | with_reducible refine Entered.ite ?_ ?_
    | (guard_target = Entered _ _ _ (receive ..); with_reducible apply receive_entered)
    | extract_lets
    | dsimp only
    | split
    | dsimp +zetaDelta only

theorem execSecSessionOpen_entered {dv pv : DevState} {kv : Nat} (e : Env) {s : State} (hI : Entered dv pv kv s) : EnteredR dv pv kv (execSecSessionOpen e s) := by
  unfold execSecSessionOpen
  try extract_lets
  repeat' first
    | with_reducible assumption
    | with_reducible refine EnteredR.next ?_
    | with_reducible refine EnteredR.ite ?_ ?_
    | with_reducible refine Entered.ite ?_ ?_
    | (guard_target = Entered _ _ _ (receive ..); with_reducible apply receive_entered)
    | extract_lets
    | dsimp only
    | split
    | dsimp +zetaDelta only

theorem execSecSessionClose_entered {dv pv : DevState} {kv : Nat} (e : Env) {s : State} (hI : Entered dv pv kv s) : EnteredR dv pv kv (execSecSessionClose e s) := by
  unfold execSecSessionClose
  try extract_lets
  repeat' first
    | with_reducible assumption
    | with_reducible refine EnteredR.next ?_
    | with_reducible refine EnteredR.ite ?_ ?_
    | with_reducible refine Entered.ite ?_ ?_
    | (guard_target = Entered _ _ _ (receive ..); with_reducible apply receive_entered)
    | extract_lets
    | dsimp only
    | split
    | dsimp +zetaDelta only

theorem execSecServiceChallenge_entered {dv pv : DevState} {kv : Nat} (e : Env) {s : State} (hI : Entered dv pv kv s) : EnteredR dv pv kv (execSecServiceChallenge e s) := by
  unfold execSecServiceChallenge
  try extract_lets
  repeat' first
    | with_reducible assumption
    | with_reducible refine EnteredR.next ?_
    | with_reducible refine EnteredR.ite ?_ ?_
    | with_reducible refine Entered.ite ?_ ?_
    | (guard_target = Entered _ _ _ (receive ..); with_reducible apply receive_entered)
    | extract_lets
    | dsimp only
    | split
    | dsimp +zetaDelta only

theorem execSecServiceResponse_entered {dv pv : DevState} {kv : Nat} (e : Env) {s : State} (hI : Entered dv pv kv s) : EnteredR dv pv kv (execSecServiceResponse e s) := by
  unfold execSecServiceResponse
  try extract_lets
  repeat' first
    | with_reducible assumption
    | with_reducible refine EnteredR.next ?_
    | with_reducible refine EnteredR.ite ?_ ?_
    | with_reducible refine Entered.ite ?_ ?_
    | (guard_target = Entered _ _ _ (receive ..); with_reducible apply receive_entered)
    | extract_lets
    | dsimp only
    | split
    | dsimp +zetaDelta only

theorem execSecAttest_entered {dv pv : DevState} {kv : Nat} (e : Env) {s : State} (hI : Entered dv pv kv s) : EnteredR dv pv kv (execSecAttest e s) := by
  unfold execSecAttest
  try extract_lets
  repeat' first
    | with_reducible assumption
    | with_reducible refine EnteredR.next ?_
    | with_reducible refine EnteredR.ite ?_ ?_
    | with_reducible refine Entered.ite ?_ ?_
    | (guard_target = Entered _ _ _ (receive ..); with_reducible apply receive_entered)
    | extract_lets
    | dsimp only
    | split
    | dsimp +zetaDelta only

theorem execSecImageBegin_entered {dv pv : DevState} {kv : Nat} (e : Env) {s : State} (hI : Entered dv pv kv s) : EnteredR dv pv kv (execSecImageBegin e s) := by
  unfold execSecImageBegin
  try extract_lets
  repeat' first
    | with_reducible assumption
    | with_reducible refine EnteredR.next ?_
    | with_reducible refine EnteredR.ite ?_ ?_
    | with_reducible refine Entered.ite ?_ ?_
    | (guard_target = Entered _ _ _ (receive ..); with_reducible apply receive_entered)
    | extract_lets
    | dsimp only
    | split
    | dsimp +zetaDelta only

theorem execSecImageData_entered {dv pv : DevState} {kv : Nat} (e : Env) {s : State} (hI : Entered dv pv kv s) : EnteredR dv pv kv (execSecImageData e s) := by
  unfold execSecImageData
  try extract_lets
  repeat' first
    | with_reducible assumption
    | with_reducible refine EnteredR.next ?_
    | with_reducible refine EnteredR.ite ?_ ?_
    | with_reducible refine Entered.ite ?_ ?_
    | (guard_target = Entered _ _ _ (receive ..); with_reducible apply receive_entered)
    | extract_lets
    | dsimp only
    | split
    | dsimp +zetaDelta only

theorem execSecImageEnd_entered {dv pv : DevState} {kv : Nat} (e : Env) {s : State} (hI : Entered dv pv kv s) : EnteredR dv pv kv (execSecImageEnd e s) := by
  unfold execSecImageEnd
  try extract_lets
  repeat' first
    | with_reducible assumption
    | with_reducible refine EnteredR.next ?_
    | with_reducible refine EnteredR.ite ?_ ?_
    | with_reducible refine Entered.ite ?_ ?_
    | (guard_target = Entered _ _ _ (receive ..); with_reducible apply receive_entered)
    | extract_lets
    | dsimp only
    | split
    | dsimp +zetaDelta only

theorem execSecActivate_entered {dv pv : DevState} {kv : Nat} (e : Env) {s : State} (hI : Entered dv pv kv s) : EnteredR dv pv kv (execSecActivate e s) := by
  unfold execSecActivate
  try extract_lets
  repeat' first
    | with_reducible assumption
    | with_reducible refine EnteredR.next ?_
    | with_reducible refine EnteredR.ite ?_ ?_
    | with_reducible refine Entered.ite ?_ ?_
    | (guard_target = Entered _ _ _ (receive ..); with_reducible apply receive_entered)
    | extract_lets
    | dsimp only
    | split
    | dsimp +zetaDelta only

theorem execSecImageStatus_entered {dv pv : DevState} {kv : Nat} (e : Env) {s : State} (hI : Entered dv pv kv s) : EnteredR dv pv kv (execSecImageStatus e s) := by
  unfold execSecImageStatus
  try extract_lets
  repeat' first
    | with_reducible assumption
    | with_reducible refine EnteredR.next ?_
    | with_reducible refine EnteredR.ite ?_ ?_
    | with_reducible refine Entered.ite ?_ ?_
    | (guard_target = Entered _ _ _ (receive ..); with_reducible apply receive_entered)
    | extract_lets
    | dsimp only
    | split
    | dsimp +zetaDelta only

theorem execDiagRead_entered {dv pv : DevState} {kv : Nat} (e : Env) {s : State} (hI : Entered dv pv kv s) : EnteredR dv pv kv (execDiagRead e s) := by
  unfold execDiagRead
  try extract_lets
  repeat' first
    | with_reducible assumption
    | with_reducible refine EnteredR.next ?_
    | with_reducible refine EnteredR.ite ?_ ?_
    | with_reducible refine Entered.ite ?_ ?_
    | (guard_target = Entered _ _ _ (receive ..); with_reducible apply receive_entered)
    | extract_lets
    | dsimp only
    | split
    | dsimp +zetaDelta only

theorem execBadOpcode_entered {dv pv : DevState} {kv : Nat} (op : BitVec 16) (e : Env) {s : State} (hI : Entered dv pv kv s) : EnteredR dv pv kv (execBadOpcode op e s) := by
  unfold execBadOpcode
  try extract_lets
  repeat' first
    | with_reducible assumption
    | with_reducible refine EnteredR.next ?_
    | with_reducible refine EnteredR.ite ?_ ?_
    | with_reducible refine Entered.ite ?_ ?_
    | (guard_target = Entered _ _ _ (receive ..); with_reducible apply receive_entered)
    | extract_lets
    | dsimp only
    | split
    | dsimp +zetaDelta only

theorem commandRestart_entered {dv pv : DevState} {kv : Nat} (el : Element) {s : State} (hI : Entered dv pv kv s) : Entered dv pv kv (commandRestart el s) := by
  unfold commandRestart
  try extract_lets
  repeat' first
    | with_reducible assumption
    | with_reducible refine Entered.ite ?_ ?_
    | (guard_target = Entered _ _ _ (flushCrossing ..); with_reducible apply flushCrossing_entered)
    | (guard_target = Entered _ _ _ (modElem ..); with_reducible refine Entered.ofOnly ?_ (modElem_only ..))
    | (guard_target = Entered _ _ _ (resetElement ..); with_reducible refine Entered.ofOnly ?_ (resetElement_only ..))
    | extract_lets
    | dsimp only
    | split
    | dsimp +zetaDelta only

theorem activationDone_entered {dv pv : DevState} {kv : Nat}  {s : State} (hI : Entered dv pv kv s) : Entered dv pv kv (activationDone s) := by
  unfold activationDone
  try extract_lets
  repeat' first
    | with_reducible assumption
    | with_reducible refine Entered.ite ?_ ?_
    | (guard_target = Entered _ _ _ (noticeAt ..); with_reducible apply noticeAt_entered)
    | (guard_target = Entered _ _ _ (State.onSec ..); with_reducible refine Entered.ofOnly ?_ (State.onSec_only ..))
    | extract_lets
    | dsimp only
    | split
    | dsimp +zetaDelta only

theorem maskEdge_entered {dv pv : DevState} {kv : Nat}  {s : State} (hI : Entered dv pv kv s) : Entered dv pv kv (maskEdge s) := by
  unfold maskEdge
  try extract_lets
  repeat' first
    | with_reducible assumption
    | with_reducible refine Entered.ite ?_ ?_
    | (guard_target = Entered _ _ _ (noteRetired ..); with_reducible apply noteRetired_entered)
    | (guard_target = Entered _ _ _ (State.onMap ..); with_reducible refine Entered.ofOnly ?_ (State.onMap_only ..))
    | extract_lets
    | dsimp only
    | split
    | dsimp +zetaDelta only

theorem freezeFrame_entered {dv pv : DevState} {kv : Nat} (e : Tick) (f : Freeze) {s0 : State} (hI : Entered dv pv kv s0) : Entered dv pv kv (freezeFrame e f s0) := by
  unfold freezeFrame
  try extract_lets
  repeat' first
    | with_reducible assumption
    | with_reducible refine Entered.ite ?_ ?_
    | (guard_target = Entered _ _ _ (acqNext ..); with_reducible refine Entered.ofOnly ?_ (acqNext_only ..))
    | (guard_target = Entered _ _ _ (closeLedger ..); with_reducible apply closeLedger_entered)
    | (guard_target = Entered _ _ _ (directedFreeze ..); with_reducible refine Entered.ofOnly ?_ (directedFreeze_only ..))
    | (guard_target = Entered _ _ _ (emuAtEdge ..); with_reducible apply emuAtEdge_entered)
    | (guard_target = Entered _ _ _ (feBegin ..); with_reducible refine Entered.ofOnly ?_ (feBegin_only ..))
    | (guard_target = Entered _ _ _ (flowEdge ..); with_reducible refine Entered.ofOnly ?_ (flowEdge_only ..))
    | (guard_target = Entered _ _ _ (implFreeze ..); with_reducible apply implFreeze_entered)
    | (guard_target = Entered _ _ _ (lswFreeze ..); with_reducible refine Entered.ofOnly ?_ (lswFreeze_only ..))
    | (guard_target = Entered _ _ _ (maskEdge ..); with_reducible apply maskEdge_entered)
    | (guard_target = Entered _ _ _ (pifFreeze ..); with_reducible refine Entered.ofOnly ?_ (pifFreeze_only ..))
    | (guard_target = Entered _ _ _ (poolLow ..); with_reducible apply poolLow_entered)
    | (guard_target = Entered _ _ _ (posFreeze ..); with_reducible apply posFreeze_entered)
    | (guard_target = Entered _ _ _ (rowFreeze ..); with_reducible apply rowFreeze_entered)
    | (guard_target = Entered _ _ _ (snapshotExport ..); with_reducible refine Entered.ofOnly ?_ (snapshotExport_only ..))
    | (guard_target = Entered _ _ _ (stopFreeze ..); with_reducible refine Entered.ofOnly ?_ (stopFreeze_only ..))
    | (guard_target = Entered _ _ _ (zeroPages ..); with_reducible refine Entered.ofOnly ?_ (zeroPages_only ..))
    | (guard_target = Entered _ _ _ (State.onMap ..); with_reducible refine Entered.ofOnly ?_ (State.onMap_only ..))
    | extract_lets
    | dsimp only
    | split
    | dsimp +zetaDelta only

theorem commitEvents_entered {dv pv : DevState} {kv : Nat} (b : Batch) {s : State} (hI : Entered dv pv kv s) : Entered dv pv kv (commitEvents b s).1 := by
  unfold commitEvents
  try extract_lets
  repeat' first
    | with_reducible assumption
    | with_reducible refine Entered.iteFst ?_ ?_
    | with_reducible refine Entered.ite ?_ ?_
    | (guard_target = Entered _ _ _ (enqueueEv ..); with_reducible refine Entered.ofOnly ?_ (enqueueEv_only ..))
    | (guard_target = Entered _ _ _ (noticeAt ..); with_reducible apply noticeAt_entered)
    | (guard_target = Entered _ _ _ (rowCommands ..).1; with_reducible apply rowCommands_entered)
    | (guard_target = Entered _ _ _ (State.onFe ..); with_reducible refine Entered.ofOnly ?_ (State.onFe_only ..))
    | with_reducible refine Entered.foldl (fun _ _ _ => ?_) ?_
    | with_reducible refine Entered.foldlFst (fun _ _ _ _ => ?_) ?_
    | extract_lets
    | dsimp only
    | split
    | dsimp +zetaDelta only

theorem commitBatch_entered {dv pv : DevState} {kv : Nat} (b : Batch) {s : State} (hI : Entered dv pv kv s) : Entered dv pv kv (commitBatch b s) := by
  unfold commitBatch
  try extract_lets
  repeat' first
    | with_reducible assumption
    | with_reducible refine Entered.ite ?_ ?_
    | (guard_target = Entered _ _ _ (applyPaints ..).1; with_reducible apply applyPaints_entered)
    | (guard_target = Entered _ _ _ (commitEvents ..).1; with_reducible apply commitEvents_entered)
    | (guard_target = Entered _ _ _ (noticeAt ..); with_reducible apply noticeAt_entered)
    | (guard_target = Entered _ _ _ (paintGap ..); with_reducible apply paintGap_entered)
    | (guard_target = Entered _ _ _ (writeDuty ..); with_reducible refine Entered.ofOnly ?_ (writeDuty_only ..))
    | (guard_target = Entered _ _ _ (State.onFe ..); with_reducible refine Entered.ofOnly ?_ (State.onFe_only ..))
    | (guard_target = Entered _ _ _ (State.onVdr ..); with_reducible refine Entered.ofOnly ?_ (State.onVdr_only ..))
    | with_reducible refine Entered.foldl (fun _ _ _ => ?_) ?_
    | with_reducible refine Entered.foldlFst (fun _ _ _ _ => ?_) ?_
    | extract_lets
    | dsimp only
    | split
    | dsimp +zetaDelta only

theorem fieldClean_entered {dv pv : DevState} {kv : Nat} (e : Tick) {s : State} (hI : Entered dv pv kv s) : Entered dv pv kv (fieldClean e s) := by
  unfold fieldClean
  try extract_lets
  repeat' first
    | with_reducible assumption
    | with_reducible refine Entered.ite ?_ ?_
    | (guard_target = Entered _ _ _ (markElement ..); with_reducible apply markElement_entered)
    | (guard_target = Entered _ _ _ (State.onSec ..); with_reducible refine Entered.ofOnly ?_ (State.onSec_only ..))
    | extract_lets
    | dsimp only
    | split
    | dsimp +zetaDelta only

theorem execCommitPhase_entered {dv pv : DevState} {kv : Nat} (agree : Bool) {s : State} (hI : Entered dv pv kv s) : EnteredR dv pv kv (execCommitPhase agree s) := by
  unfold execCommitPhase
  try extract_lets
  repeat' first
    | with_reducible assumption
    | with_reducible refine EnteredR.next ?_
    | with_reducible refine EnteredR.ite ?_ ?_
    | with_reducible refine Entered.ite ?_ ?_
    | (guard_target = Entered _ _ _ (commitBatch ..); with_reducible apply commitBatch_entered)
    | (guard_target = Entered _ _ _ (fieldClean ..); with_reducible apply fieldClean_entered)
    | (guard_target = Entered _ _ _ (State.onSys ..); refine Entered.onSys ?_ fun _ => ⟨rfl, rfl, rfl⟩)
    | (guard_target = Entered _ _ _ (State.onFe ..); with_reducible refine Entered.ofOnly ?_ (State.onFe_only ..))
    | extract_lets
    | dsimp only
    | split
    | dsimp +zetaDelta only

theorem afterRestart_entered {dv pv : DevState} {kv : Nat} (el : Element) {s : State} (hI : Entered dv pv kv s) : Entered dv pv kv (afterRestart el s) := by
  unfold afterRestart
  try extract_lets
  repeat' first
    | with_reducible assumption
    | with_reducible refine Entered.ite ?_ ?_
    | (guard_target = Entered _ _ _ (drainStage ..); with_reducible apply drainStage_entered)
    | (guard_target = Entered _ _ _ (feStart ..); with_reducible refine Entered.ofOnly ?_ (feStart_only ..))
    | (guard_target = Entered _ _ _ (restartLoops ..); with_reducible refine Entered.ofOnly ?_ (restartLoops_only ..))
    | (guard_target = Entered _ _ _ (runHeld ..); with_reducible apply runHeld_entered)
    | (guard_target = Entered _ _ _ (State.onThs ..); with_reducible refine Entered.ofOnly ?_ (State.onThs_only ..))
    | extract_lets
    | dsimp only
    | split
    | dsimp +zetaDelta only

theorem execElementRestartComplete_entered {dv pv : DevState} {kv : Nat} (el : Element) {s : State} (hI : Entered dv pv kv s) : EnteredR dv pv kv (execElementRestartComplete el s) := by
  unfold execElementRestartComplete
  try extract_lets
  repeat' first
    | with_reducible assumption
    | with_reducible refine EnteredR.next ?_
    | with_reducible refine EnteredR.ite ?_ ?_
    | with_reducible refine Entered.ite ?_ ?_
    | (guard_target = Entered _ _ _ (afterRestart ..); with_reducible apply afterRestart_entered)
    | (guard_target = Entered _ _ _ (modElem ..); with_reducible refine Entered.ofOnly ?_ (modElem_only ..))
    | extract_lets
    | dsimp only
    | split
    | dsimp +zetaDelta only

/-- A change of state. -/
theorem changeState_entered (d : DevState) (cause : Nat) (t : Tick) (s : State) :
    Entered d s.sys.dev cause (changeState d cause t s) := by
  unfold changeState
  extract_lets w s1
  exact Entered.ofOnly (writeLog_entered _ (noticeAt_entered _ _ _ _ _ ⟨rfl, rfl, rfl⟩)) (driveFaultOut_only ..)

/-- A change of state after what leaves the state alone. -/
theorem changeState_entered_of (d : DevState) (cause : Nat) (t : Tick) {s : State} {d0 p : DevState} {k : Nat}
    (h : Entered d0 p k s) : Entered d d0 cause (changeState d cause t s) := by
  have := changeState_entered d cause t s
  rwa [h.1] at this

theorem Entered.here (s : State) : Entered s.sys.dev s.sys.prev s.sys.cause s := ⟨rfl, rfl, rfl⟩

/-- SAFE. -/
theorem enterSafe_entered (cause : Nat) (t : Tick) (s : State) : Entered .safe s.sys.dev cause (enterSafe cause t s) := by
  unfold enterSafe
  extract_lets s1 s2 s3
  have h1 : Entered s.sys.dev s.sys.prev s.sys.cause s1 := by
    refine Entered.ofOnly (cancelEdges_entered (cancelActivation_entered ((Entered.here s).ofOnly (leaveDrive_only ..)))) (lswHoldForSafe_only ..)
  have h2 : Entered .safe s.sys.dev cause s2 :=
    changeState_entered_of _ _ _ ((valvesOff_entered _ h1).ofOnly (gatesOff_only ..))
  have h3 : Entered .safe s.sys.dev cause s3 := Entered.ite h2 (sealBlock_entered h2)
  exact (lswSyncAll_entered ((h3.ofOnly (State.onVdr_only ..)).ofOnly (settleConv_only ..))).ofOnly (startAllOff_only ..)

/-- COAST. -/
theorem enterCoast_entered (cause : Nat) (s : State) : Entered .coast s.sys.dev cause (enterCoast cause s) := by
  unfold enterCoast
  extract_lets s1
  exact lswSyncAll_entered (changeState_entered_of _ _ _ ((cancelEdges_entered (Entered.here s)).onSys fun _ => ⟨rfl, rfl, rfl⟩))

/-- LATCHED_OFF. -/
theorem enterLatched_entered (s : State) : Entered .latched s.sys.dev 0x04 (enterLatched s) := by
  unfold enterLatched
  extract_lets u s1 s2 s3
  have h0 : Entered s.sys.dev s.sys.prev s.sys.cause u := (Entered.here s).ofOnly (ppsInactive_only ..)
  have h1 : Entered s.sys.dev s.sys.prev s.sys.cause s1 :=
    cancelEdges_entered (cancelActivation_entered (endRunsNow_entered _ h0))
  have h2 : Entered .latched s.sys.dev 0x04 s2 :=
    changeState_entered_of _ _ _ (((valvesCut_entered _ (valvesOff_entered _ h1)).ofOnly (gatesOff_only ..)).ofOnly (trigsOff_only ..))
  have h3 : Entered .latched s.sys.dev 0x04 s3 := Entered.ite h2 (sealBlock_entered h2)
  exact lswSyncAll_entered (canOff_entered ((h3.ofOnly (State.onVdr_only ..)).ofOnly (endHolds_only ..)))

/-- QUARANTINE. -/
theorem enterQuarantine_entered (quarCause : Nat) (t : Tick) (s : State) :
    Entered .quarantine s.sys.dev 0x07 (enterQuarantine quarCause t s) := by
  unfold enterQuarantine
  have h1 : Entered s.sys.dev s.sys.prev s.sys.cause (s.onSys fun y => { y with quarCause := quarCause }) := ⟨rfl, rfl, rfl⟩
  exact lswSyncAll_entered ((changeState_entered_of .quarantine 0x07 t (h1.ofOnly (ppsInactive_only ..))).ofOnly (endHolds_only ..))

/-- STANDBY. -/
theorem enterStandby_entered (cause : Nat) (t : Tick) (s : State) : Entered .standby s.sys.dev cause (enterStandby cause t s) := by
  unfold enterStandby
  extract_lets s1 s2
  have h1 : Entered s.sys.dev s.sys.prev s.sys.cause s1 := Entered.ite ((Entered.here s).ofOnly (loopsFrom_only ..)) (Entered.here s)
  have h2 : Entered .standby s.sys.dev cause s2 := changeState_entered_of _ _ _ (valvesOff_entered _ (h1.ofOnly (leaveDrive_only ..)))
  exact (lswSyncAll_entered ((h2.ofOnly (State.onFe_only ..)).ofOnly (convUp_only ..))).ofOnly (startAllOff_only ..)

/-- A fault that leads to SAFE, where SAFE may be entered. -/
theorem safeFault_entered (cause : Nat) (b : Block) (index restarts detail : Nat) (t : Tick) {s : State} (h : safeAllowed s = true) :
    Entered .safe s.sys.dev cause (safeFault cause b index restarts detail t s) := by
  unfold safeFault
  rw [if_pos h]
  have := enterSafe_entered cause t (logFault cause b index reactSafe restarts detail s)
  rwa [(logFault_entered _ _ _ _ _ _ (Entered.here s)).1] at this

/-- A fault that leads to SAFE, where SAFE may not be entered, is recorded. -/
theorem safeFault_noted (cause : Nat) (b : Block) (index restarts detail : Nat) (t : Tick) {s : State} (h : safeAllowed s = false) :
    Noted s (safeFault cause b index restarts detail t s) ∧ Logged cause index (safeFault cause b index restarts detail t s) := by
  unfold safeFault
  rw [if_neg (by simp [h])]
  exact ⟨logFault_noted .., logFault_logged ..⟩

end Sys2Proof.Machine
end

