-- ==== Sys2Proof/Laws/DriveEntered.lean ====
section
/-! SUPPORT. `DriveEntered` (R27) through the operations that change the device's state. -/

set_option Elab.async false

namespace Sys2Proof.Machine

variable {s t : State}

theorem DriveEntered.keep (h : DriveEntered s) (e : Entered s.sys.dev s.sys.prev s.sys.cause t) : DriveEntered t := by
  unfold DriveEntered
  rw [e.1, e.2.1]
  exact h

theorem DriveEntered.ofOnly {l : List Part} (h : DriveEntered s) (o : Only l s t) (hl : Part.sys ∉ l := by decide) : DriveEntered t :=
  h.keep ((Entered.here s).ofOnly o hl)

theorem DriveEntered.onSys {f : SysSt → SysSt} (h : DriveEntered s) (hf : ∀ y, (f y).dev = y.dev ∧ (f y).prev = y.prev) : DriveEntered (s.onSys f) := by
  obtain ⟨h1, h2⟩ := hf s.sys
  unfold DriveEntered
  show (f s.sys).dev = _ ∨ (f s.sys).dev = _ → (f s.sys).prev ≠ _ ∧ (f s.sys).prev ≠ _ ∧ (f s.sys).prev ≠ _
  rw [h1, h2]
  exact h

theorem DriveEntered.from {d p : DevState} {k : Nat} (e : Entered d p k t) (h : p ≠ .safe ∧ p ≠ .quarantine ∧ p ≠ .latched) : DriveEntered t := by
  intro _
  rw [e.2.1]
  exact h

theorem DriveEntered.enter {d p : DevState} {k : Nat} (e : Entered d p k t) (h1 : d ≠ .armed) (h2 : d ≠ .manual) : DriveEntered t := by
  rintro (h | h)
  · exact absurd (e.1.symm.trans h) h1
  · exact absurd (e.1.symm.trans h) h2

theorem DriveEntered.ite {c : Prop} [Decidable c] {a b : State} (ha : DriveEntered a) (hb : DriveEntered b) : DriveEntered (if c then a else b) := by
  split <;> assumption

theorem DriveEntered.iteOf {c : Prop} [Decidable c] {a b : State} (ha : c → DriveEntered a) (hb : DriveEntered b) : DriveEntered (if c then a else b) := by
  split
  · exact ha ‹_›
  · exact hb

theorem DriveEntered.foldl {α : Type} {g : State → α → State} {x : List α} (hg : ∀ t a, DriveEntered t → DriveEntered (g t a)) (h : DriveEntered s) :
    DriveEntered (x.foldl g s) := by
  induction x generalizing s with
  | nil => exact h
  | cons a x ih => exact ih (hg s a h)

/-- The same of an answered step. -/
def DriveEnteredR (r : Result) : Prop := ∀ t, r = .next t → DriveEntered t

theorem DriveEnteredR.next {a : State} (h : DriveEntered a) : DriveEnteredR (.next a) := fun _ e => by cases e; exact h

theorem DriveEnteredR.ite {c : Prop} [Decidable c] {a b : Result} (ha : DriveEnteredR a) (hb : DriveEnteredR b) : DriveEnteredR (if c then a else b) := by
  split <;> assumption

theorem enterStandby_drive (cause : Nat) (t : Tick) {s : State} (_ : DriveEntered s) : DriveEntered (enterStandby cause t s) := DriveEntered.enter (enterStandby_entered ..) (by decide) (by decide)

/-- A change of state after the track's start is noted. -/
theorem changeState_trackFrom (d : DevState) (cause : Nat) (t u : Tick) (s : State) :
    Entered d s.sys.dev cause (changeState d cause t (trackFrom u s)) :=
  changeState_entered_of _ _ _ ((Entered.here s).ofOnly (trackFrom_only ..))

theorem enterArmed_drive (t : Tick) {s : State} (h : s.sys.dev ≠ .safe ∧ s.sys.dev ≠ .quarantine ∧ s.sys.dev ≠ .latched) :
    DriveEntered (enterArmed t s) := by
  unfold enterArmed
  extract_lets first s1
  have h1 : Entered .armed s.sys.dev 0x01 s1 := by
    unfold s1
    split
    · exact changeState_entered ..
    · exact changeState_trackFrom ..
  exact DriveEntered.from (lswSyncAll_entered ((Entered.ofOnly (h1.ofOnly (feStart_only ..)) (directedOff_only ..)).ofOnly (State.onFe_only ..))) h

theorem enterManual_drive (t : Tick) {s : State} (h : s.sys.dev ≠ .safe ∧ s.sys.dev ≠ .quarantine ∧ s.sys.dev ≠ .latched) :
    DriveEntered (enterManual t s) := by
  unfold enterManual
  have h1 : Entered .manual s.sys.dev 0x01 (changeState .manual 0x01 t (if s.sys.dev = .armed then s else trackFrom t s)) := by
    split
    · exact changeState_entered ..
    · exact changeState_trackFrom ..
  exact DriveEntered.from (lswSyncAll_entered (h1.ofOnly (State.onFe_only ..))) h

theorem enterCoast_drive (cause : Nat) {s : State} (_ : DriveEntered s) : DriveEntered (enterCoast cause s) := DriveEntered.enter (enterCoast_entered ..) (by decide) (by decide)

theorem leaveCoast_drive (t : Tick) {s : State} (h : s.sys.dev = .coast) : DriveEntered (leaveCoast t s) := by
  unfold leaveCoast
  extract_lets s1 s2
  have h1 : Entered s.sys.coastBack s.sys.dev s.sys.coastCause s1 := changeState_trackFrom ..
  have h2 : DriveEntered s2 := by
    refine DriveEntered.from (lswSyncAll_entered (h1.onSys fun _ => ⟨rfl, rfl, rfl⟩)) ?_
    rw [h]
    decide
  exact DriveEntered.ite (h2.ofOnly (startAllOff_only ..)) h2

theorem enterSafe_drive (cause : Nat) (t : Tick) {s : State} (_ : DriveEntered s) : DriveEntered (enterSafe cause t s) := DriveEntered.enter (enterSafe_entered ..) (by decide) (by decide)

theorem safeFault_drive (cause : Nat) (b : Block) (index restarts detail : Nat) (t : Tick) {s : State} (hI : DriveEntered s) : DriveEntered (safeFault cause b index restarts detail t s) := by
  unfold safeFault
  try extract_lets
  repeat' first
    | with_reducible assumption
    | with_reducible refine DriveEntered.ite ?_ ?_
    | (guard_target = DriveEntered (enterSafe ..); with_reducible apply enterSafe_drive)
    | (guard_target = DriveEntered (logFault ..); with_reducible refine DriveEntered.keep ?_ (logFault_entered (hI := Entered.here _) ..))
    | extract_lets
    | dsimp only
    | split
    | dsimp +zetaDelta only

theorem enterLatched_drive  {s : State} (_ : DriveEntered s) : DriveEntered (enterLatched s) := DriveEntered.enter (enterLatched_entered ..) (by decide) (by decide)

theorem enterQuarantine_drive (quarCause : Nat) (t : Tick) {s : State} (_ : DriveEntered s) : DriveEntered (enterQuarantine quarCause t s) := DriveEntered.enter (enterQuarantine_entered ..) (by decide) (by decide)

theorem offState_drive {s : State} (_ : DriveEntered s) : DriveEntered (offState s) := by rintro (h | h) <;> cases h

theorem enterOff_drive  {s : State} (_ : DriveEntered s) : DriveEntered (enterOff s) :=
  offState_drive (DriveEntered.enter (changeState_entered ..) (by decide) (by decide))

theorem enterOffBrown_drive {s : State} (_ : DriveEntered s) : DriveEntered (enterOffBrown s) :=
  offState_drive (DriveEntered.enter ((changeState_entered ..).ofOnly (State.lsw_only _ _)) (by decide) (by decide))

theorem startState_drive (prev : DevState) (cause startCause : Nat) {s : State} (_ : DriveEntered s) : DriveEntered (startState prev cause startCause s) := by rintro (h | h) <;> cases h

theorem startFromOff_drive (cause startCause : Nat) {s : State} (hI : DriveEntered s) : DriveEntered (startFromOff cause startCause s) := by
  unfold startFromOff
  try extract_lets
  repeat' first
    | with_reducible assumption
    | with_reducible refine DriveEntered.ite ?_ ?_
    | (guard_target = DriveEntered (startState ..); with_reducible apply startState_drive)
    | extract_lets
    | dsimp only
    | split
    | dsimp +zetaDelta only

theorem elementFault_drive (el : Element) (cause : Nat) (b : Block) {s : State} (hI : DriveEntered s) : DriveEntered (elementFault el cause b s) := by
  unfold elementFault
  try extract_lets
  repeat' first
    | with_reducible assumption
    | with_reducible refine DriveEntered.ite ?_ ?_
    | (guard_target = DriveEntered (beginRestart ..); with_reducible refine DriveEntered.keep ?_ (beginRestart_entered (hI := Entered.here _) ..))
    | (guard_target = DriveEntered (cancelActivation ..); with_reducible refine DriveEntered.keep ?_ (cancelActivation_entered (hI := Entered.here _) ..))
    | (guard_target = DriveEntered (enterCoast ..); with_reducible apply enterCoast_drive)
    | (guard_target = DriveEntered (failSelftest ..); with_reducible refine DriveEntered.keep ?_ (failSelftest_entered (hI := Entered.here _) ..))
    | (guard_target = DriveEntered (logFault ..); with_reducible refine DriveEntered.keep ?_ (logFault_entered (hI := Entered.here _) ..))
    | (guard_target = DriveEntered (safeFault ..); with_reducible apply safeFault_drive)
    | (guard_target = DriveEntered (State.onSys ..); refine DriveEntered.onSys ?_ fun _ => ⟨rfl, rfl⟩)
    | extract_lets
    | dsimp only
    | split
    | dsimp +zetaDelta only

theorem execPairCheck_drive  {s : State} (hI : DriveEntered s) : DriveEnteredR (execPairCheck s) := by
  unfold execPairCheck
  try extract_lets
  repeat' first
    | with_reducible assumption
    | with_reducible refine DriveEnteredR.next ?_
    | with_reducible refine DriveEnteredR.ite ?_ ?_
    | with_reducible refine DriveEntered.ite ?_ ?_
    | (guard_target = DriveEntered (elementFault ..); with_reducible apply elementFault_drive)
    | extract_lets
    | dsimp only
    | split
    | dsimp +zetaDelta only

theorem execCeCheck_drive  {s : State} (hI : DriveEntered s) : DriveEnteredR (execCeCheck s) := by
  unfold execCeCheck
  try extract_lets
  repeat' first
    | with_reducible assumption
    | with_reducible refine DriveEnteredR.next ?_
    | with_reducible refine DriveEnteredR.ite ?_ ?_
    | with_reducible refine DriveEntered.ite ?_ ?_
    | (guard_target = DriveEntered (elementFault ..); with_reducible apply elementFault_drive)
    | extract_lets
    | dsimp only
    | split
    | dsimp +zetaDelta only

theorem execGnssCheck_drive  {s : State} (hI : DriveEntered s) : DriveEnteredR (execGnssCheck s) := by
  unfold execGnssCheck
  try extract_lets
  repeat' first
    | with_reducible assumption
    | with_reducible refine DriveEnteredR.next ?_
    | with_reducible refine DriveEnteredR.ite ?_ ?_
    | with_reducible refine DriveEntered.ite ?_ ?_
    | (guard_target = DriveEntered (elementFault ..); with_reducible apply elementFault_drive)
    | extract_lets
    | dsimp only
    | split
    | dsimp +zetaDelta only

theorem execEnclaveCheck_drive  {s : State} (hI : DriveEntered s) : DriveEnteredR (execEnclaveCheck s) := by
  unfold execEnclaveCheck
  try extract_lets
  repeat' first
    | with_reducible assumption
    | with_reducible refine DriveEnteredR.next ?_
    | with_reducible refine DriveEnteredR.ite ?_ ?_
    | with_reducible refine DriveEntered.ite ?_ ?_
    | (guard_target = DriveEntered (elementFault ..); with_reducible apply elementFault_drive)
    | extract_lets
    | dsimp only
    | split
    | dsimp +zetaDelta only

theorem execClockElement_drive (el : Element) {s : State} (hI : DriveEntered s) : DriveEnteredR (execClockElement el s) := by
  unfold execClockElement
  try extract_lets
  repeat' first
    | with_reducible assumption
    | with_reducible refine DriveEnteredR.next ?_
    | with_reducible refine DriveEnteredR.ite ?_ ?_
    | with_reducible refine DriveEntered.ite ?_ ?_
    | (guard_target = DriveEntered (clockNote ..); with_reducible refine DriveEntered.keep ?_ (clockNote_entered (hI := Entered.here _) ..))
    | (guard_target = DriveEntered (drawFree ..).1; with_reducible refine DriveEntered.ofOnly ?_ (drawFree_only ..))
    | (guard_target = DriveEntered (elementFault ..); with_reducible apply elementFault_drive)
    | (guard_target = DriveEntered (modElem ..); with_reducible refine DriveEntered.ofOnly ?_ (modElem_only ..))
    | (guard_target = DriveEntered (notice ..); with_reducible refine DriveEntered.keep ?_ (notice_entered (hI := Entered.here _) ..))
    | (guard_target = DriveEntered (State.onPwr ..); with_reducible refine DriveEntered.ofOnly ?_ (State.onPwr_only ..))
    | extract_lets
    | dsimp only
    | split
    | dsimp +zetaDelta only

theorem execClockBase_drive (clock : BitVec 8) {s : State} (hI : DriveEntered s) : DriveEnteredR (execClockBase clock s) := by
  unfold execClockBase
  try extract_lets
  repeat' first
    | with_reducible assumption
    | with_reducible refine DriveEnteredR.next ?_
    | with_reducible refine DriveEnteredR.ite ?_ ?_
    | with_reducible refine DriveEntered.ite ?_ ?_
    | (guard_target = DriveEntered (clockNote ..); with_reducible refine DriveEntered.keep ?_ (clockNote_entered (hI := Entered.here _) ..))
    | (guard_target = DriveEntered (safeFault ..); with_reducible apply safeFault_drive)
    | (guard_target = DriveEntered (State.onPwr ..); with_reducible refine DriveEntered.ofOnly ?_ (State.onPwr_only ..))
    | extract_lets
    | dsimp only
    | split
    | dsimp +zetaDelta only

theorem coastReturn_drive (e : Tick) {s : State} (hI : DriveEntered s) : DriveEntered (coastReturn e s) := by
  unfold coastReturn
  split
  · rename_i h
    exact leaveCoast_drive _ h.1
  · exact hI

theorem asAt_drive (t : Tick) {f : State → State} {s : State} (hf : ∀ u, DriveEntered u → DriveEntered (f u)) (hI : DriveEntered s) :
    DriveEntered (asAt t f s) := hf _ (hI.ofOnly (State.pm_only s t))

theorem execCoastExpired_drive  {s : State} (hI : DriveEntered s) : DriveEnteredR (execCoastExpired s) := by
  unfold execCoastExpired
  extract_lets e t soon s1
  have h1 : DriveEntered s1 := asAt_drive _ (fun _ h => safeFault_drive _ _ _ _ _ _ h) hI
  clear_value s1
  refine DriveEnteredR.ite (DriveEnteredR.next (DriveEntered.ite ?_ h1)) (DriveEnteredR.next hI)
  exact DriveEntered.keep (h1.ofOnly (State.onSec_only ..)) (rejectBank_entered (hI := Entered.here _) ..)

theorem execSafeIn_drive  {s : State} (hI : DriveEntered s) : DriveEnteredR (execSafeIn s) := by
  unfold execSafeIn
  try extract_lets
  repeat' first
    | with_reducible assumption
    | (guard_target = DriveEntered (logFault ..); with_reducible refine DriveEntered.keep ?_ (logFault_entered (hI := Entered.here _) ..))
    | with_reducible refine DriveEnteredR.next ?_
    | with_reducible refine DriveEnteredR.ite ?_ ?_
    | with_reducible refine DriveEntered.ite ?_ ?_
    | (guard_target = DriveEntered (gatesOff ..); with_reducible refine DriveEntered.ofOnly ?_ (gatesOff_only ..))
    | (guard_target = DriveEntered (safeFault ..); with_reducible apply safeFault_drive)
    | (guard_target = DriveEntered (valvesCut ..); with_reducible refine DriveEntered.keep ?_ (valvesCut_entered (hI := Entered.here _) ..))
    | (guard_target = DriveEntered (State.onSafe ..); with_reducible refine DriveEntered.ofOnly ?_ (State.onSafe_only ..))
    | extract_lets
    | dsimp only
    | split
    | dsimp +zetaDelta only

theorem safeInAtEdge_drive (e : Tick) {s : State} (hI : DriveEntered s) : DriveEntered (safeInAtEdge e s) := by
  unfold safeInAtEdge
  try extract_lets
  repeat' first
    | with_reducible assumption
    | (guard_target = DriveEntered (enterSafe ..); with_reducible apply enterSafe_drive)
    | (guard_target = DriveEntered (State.onSafe ..); with_reducible refine DriveEntered.ofOnly ?_ (State.onSafe_only ..))
    | with_reducible refine DriveEntered.ite ?_ ?_
    | (guard_target = DriveEntered (safeFault ..); with_reducible apply safeFault_drive)
    | extract_lets
    | dsimp only
    | split
    | dsimp +zetaDelta only

theorem execRowBusoffGraceExpiry_drive  {s : State} (hI : DriveEntered s) : DriveEnteredR (execRowBusoffGraceExpiry s) := by
  unfold execRowBusoffGraceExpiry
  try extract_lets
  repeat' first
    | with_reducible assumption
    | with_reducible refine DriveEnteredR.next ?_
    | with_reducible refine DriveEnteredR.ite ?_ ?_
    | with_reducible refine DriveEntered.ite ?_ ?_
    | (guard_target = DriveEntered (safeFault ..); with_reducible apply safeFault_drive)
    | (guard_target = DriveEntered (State.onCan ..); with_reducible refine DriveEntered.ofOnly ?_ (State.onCan_only ..))
    | extract_lets
    | dsimp only
    | split
    | dsimp +zetaDelta only

theorem execDeadlineMiss_drive (k : Fin 16) {s : State} (hI : DriveEntered s) : DriveEnteredR (execDeadlineMiss k s) := by
  unfold execDeadlineMiss
  try extract_lets
  repeat' first
    | with_reducible assumption
    | with_reducible refine DriveEnteredR.next ?_
    | with_reducible refine DriveEnteredR.ite ?_ ?_
    | with_reducible refine DriveEntered.ite ?_ ?_
    | (guard_target = DriveEntered (countLoopMiss ..); with_reducible refine DriveEntered.keep ?_ (countLoopMiss_entered (hI := Entered.here _) ..))
    | (guard_target = DriveEntered (logFault ..); with_reducible refine DriveEntered.keep ?_ (logFault_entered (hI := Entered.here _) ..))
    | (guard_target = DriveEntered (safeFault ..); with_reducible apply safeFault_drive)
    | extract_lets
    | dsimp only
    | split
    | dsimp +zetaDelta only

theorem isolateFault_drive (b : Fin 12) (cause : Nat) {s : State} (hI : DriveEntered s) : DriveEntered (isolateFault b cause s) := by
  unfold isolateFault
  try extract_lets
  repeat' first
    | with_reducible assumption
    | with_reducible refine DriveEntered.ite ?_ ?_
    | (guard_target = DriveEntered (isolateBank ..); with_reducible refine DriveEntered.keep ?_ (isolateBank_entered (hI := Entered.here _) ..))
    | (guard_target = DriveEntered (logFault ..); with_reducible refine DriveEntered.keep ?_ (logFault_entered (hI := Entered.here _) ..))
    | (guard_target = DriveEntered (safeFault ..); with_reducible apply safeFault_drive)
    | extract_lets
    | dsimp only
    | split
    | dsimp +zetaDelta only

theorem tripFeed_drive (b : Fin 12) {s : State} (hI : DriveEntered s) : DriveEntered (tripFeed b s) := by
  unfold tripFeed
  try extract_lets
  repeat' first
    | with_reducible assumption
    | with_reducible refine DriveEntered.ite ?_ ?_
    | (guard_target = DriveEntered (isolateFault ..); with_reducible apply isolateFault_drive)
    | extract_lets
    | dsimp only
    | split
    | dsimp +zetaDelta only

theorem execFeedOc_drive (b : Fin 12) {s : State} (hI : DriveEntered s) : DriveEnteredR (execFeedOc b s) := by
  unfold execFeedOc
  try extract_lets
  repeat' first
    | with_reducible assumption
    | with_reducible refine DriveEnteredR.next ?_
    | with_reducible refine DriveEnteredR.ite ?_ ?_
    | with_reducible refine DriveEntered.ite ?_ ?_
    | (guard_target = DriveEntered (tripFeed ..); with_reducible apply tripFeed_drive)
    | extract_lets
    | dsimp only
    | split
    | dsimp +zetaDelta only

theorem execOffStateTest_drive (c : Fin 96) (low : Bool) (excessMa : Nat) {s : State} (hI : DriveEntered s) : DriveEnteredR (execOffStateTest c low excessMa s) := by
  unfold execOffStateTest
  try extract_lets
  repeat' first
    | with_reducible assumption
    | with_reducible refine DriveEnteredR.next ?_
    | with_reducible refine DriveEnteredR.ite ?_ ?_
    | with_reducible refine DriveEntered.ite ?_ ?_
    | (guard_target = DriveEntered (clearOpen ..); with_reducible refine DriveEntered.keep ?_ (clearOpen_entered (hI := Entered.here _) ..))
    | (guard_target = DriveEntered (isolateFault ..); with_reducible apply isolateFault_drive)
    | (guard_target = DriveEntered (modProt ..); with_reducible refine DriveEntered.ofOnly ?_ (modProt_only ..))
    | (guard_target = DriveEntered (setOpen ..); with_reducible refine DriveEntered.keep ?_ (setOpen_entered (hI := Entered.here _) ..))
    | (guard_target = DriveEntered (setShort ..); with_reducible refine DriveEntered.keep ?_ (setShort_entered (hI := Entered.here _) ..))
    | extract_lets
    | dsimp only
    | split
    | dsimp +zetaDelta only

theorem reisolated_drive (b : Fin 12) (j : Fin 8) {s : State} (hI : DriveEntered s) : DriveEntered (reisolated b j s) := by
  unfold reisolated
  try extract_lets
  repeat' first
    | with_reducible assumption
    | with_reducible refine DriveEntered.ite ?_ ?_
    | (guard_target = DriveEntered (isolateFault ..); with_reducible apply isolateFault_drive)
    | (guard_target = DriveEntered (setShort ..); with_reducible refine DriveEntered.keep ?_ (setShort_entered (hI := Entered.here _) ..))
    | extract_lets
    | dsimp only
    | split
    | dsimp +zetaDelta only

theorem shutDown_drive (z : Fin 10) {s : State} (hI : DriveEntered s) : DriveEntered (shutDown z s) := by
  unfold shutDown
  try extract_lets
  repeat' first
    | with_reducible assumption
    | with_reducible refine DriveEntered.ite ?_ ?_
    | (guard_target = DriveEntered (enterLatched ..); with_reducible apply enterLatched_drive)
    | (guard_target = DriveEntered (logFault ..); with_reducible refine DriveEntered.keep ?_ (logFault_entered (hI := Entered.here _) ..))
    | (guard_target = DriveEntered (State.onPd0 ..); with_reducible refine DriveEntered.ofOnly ?_ (State.onPd0_only ..))
    | extract_lets
    | dsimp only
    | split
    | dsimp +zetaDelta only

theorem rateTripStage_drive (z : Fin 10) (k : Fin 20) {s : State} (hI : DriveEntered s) : DriveEntered (rateTripStage z k s) := by
  unfold rateTripStage
  try extract_lets
  repeat' first
    | with_reducible assumption
    | with_reducible refine DriveEntered.ite ?_ ?_
    | (guard_target = DriveEntered (lswTrip ..); with_reducible refine DriveEntered.keep ?_ (lswTrip_entered (hI := Entered.here _) ..))
    | (guard_target = DriveEntered (tripStage ..); with_reducible refine DriveEntered.keep ?_ (tripStage_entered (hI := Entered.here _) ..))
    | (guard_target = DriveEntered (tripFeed ..); with_reducible apply tripFeed_drive)
    | extract_lets
    | dsimp only
    | split
    | dsimp +zetaDelta only

theorem rateTest_drive (z : Fin 10) (k : Fin 20) (t : Int) (was : State) {s : State} (hI : DriveEntered s) : DriveEntered (rateTest z k t was s) := by
  unfold rateTest
  exact DriveEntered.ite (rateTripStage_drive _ _ ((hI.ofOnly (modZone_only ..)).keep (thsNote_entered (hI := Entered.here _) ..))) hI

theorem stageAt_drive (z : Fin 10) (k : Fin 20) (r : Int) {s : State} (hI : DriveEntered s) : DriveEntered (stageAt z k r s) := by
  unfold stageAt
  split
  · exact hI.keep (stageTemp_entered (hI := Entered.here _) ..)
  · exact DriveEntered.ite (tripFeed_drive _ hI) hI
  · exact hI.keep (lswTemp_entered (hI := Entered.here _) ..)
  · exact hI

theorem sensorSample_drive (z : Fin 10) (k : Fin 20) (t : Int) {s : State} (hI : DriveEntered s) : DriveEntered (sensorSample z k t s) := by
  unfold sensorSample
  extract_lets s1 s2
  have h1 : DriveEntered s1 := (hI.keep (takeReading_entered _ _ _ (Entered.here s))).ofOnly (switchTemp_only ..)
  clear_value s1
  have h2 : DriveEntered s2 := rateTest_drive _ _ _ _ h1
  clear_value s2
  exact shutDown_drive _ ((stageAt_drive _ _ _ h2).keep (zoneSample_entered (hI := Entered.here _) ..))

theorem execWarn_drive (z : Fin 10) (k : Fin 20) (t : Int) {s : State} (hI : DriveEntered s) : DriveEnteredR (execWarn z k t s) := by
  unfold execWarn
  try extract_lets
  repeat' first
    | with_reducible assumption
    | with_reducible refine DriveEnteredR.next ?_
    | with_reducible refine DriveEnteredR.ite ?_ ?_
    | with_reducible refine DriveEntered.ite ?_ ?_
    | (guard_target = DriveEntered (sensorSample ..); with_reducible apply sensorSample_drive)
    | extract_lets
    | dsimp only
    | split
    | dsimp +zetaDelta only

theorem execThrottle_drive (z : Fin 10) (k : Fin 20) (t : Int) {s : State} (hI : DriveEntered s) : DriveEnteredR (execThrottle z k t s) := by
  unfold execThrottle
  try extract_lets
  repeat' first
    | with_reducible assumption
    | with_reducible refine DriveEnteredR.next ?_
    | with_reducible refine DriveEnteredR.ite ?_ ?_
    | with_reducible refine DriveEntered.ite ?_ ?_
    | (guard_target = DriveEntered (sensorSample ..); with_reducible apply sensorSample_drive)
    | extract_lets
    | dsimp only
    | split
    | dsimp +zetaDelta only

theorem execSensorBroken_drive (z : Fin 10) (k : Fin 20) {s : State} (hI : DriveEntered s) : DriveEnteredR (execSensorBroken z k s) := by
  unfold execSensorBroken
  refine DriveEnteredR.ite ?_ (DriveEnteredR.next hI)
  extract_lets s1
  have h1 : DriveEntered s1 := hI.keep (breakSensor_entered (hI := Entered.here _) ..)
  clear_value s1
  exact DriveEnteredR.next (shutDown_drive _ ((stageAt_drive _ _ _ h1).keep (zoneSample_entered (hI := Entered.here _) ..)))

theorem execStageHot_drive (c : Fin 96) (t : Int) {s : State} (hI : DriveEntered s) : DriveEnteredR (execStageHot c t s) := by
  unfold execStageHot
  exact DriveEnteredR.ite (DriveEnteredR.next (sensorSample_drive _ _ _ hI)) (DriveEnteredR.next hI)

theorem execStageHotRelease_drive (c : Fin 96) (t : Int) {s : State} (hI : DriveEntered s) : DriveEnteredR (execStageHotRelease c t s) := by
  unfold execStageHotRelease
  exact DriveEnteredR.ite (DriveEnteredR.next (sensorSample_drive _ _ _ hI)) (DriveEnteredR.next hI)

theorem execLswOvertemp_drive (c : Fin 16) (t : Int) {s : State} (hI : DriveEntered s) : DriveEnteredR (execLswOvertemp c t s) := by
  unfold execLswOvertemp
  exact DriveEnteredR.ite (DriveEnteredR.next (sensorSample_drive _ _ _ hI)) 
    (DriveEnteredR.ite (DriveEnteredR.next (hI.keep (lswTemp_entered (hI := Entered.here _) ..))) (DriveEnteredR.next hI))

theorem execThermLatchRelease_drive (c : Fin 16) (t : Int) {s : State} (hI : DriveEntered s) : DriveEnteredR (execThermLatchRelease c t s) := by
  unfold execThermLatchRelease
  exact DriveEnteredR.ite (DriveEnteredR.next (sensorSample_drive _ _ _ hI)) 
    (DriveEnteredR.ite (DriveEnteredR.next (hI.keep (lswTemp_entered (hI := Entered.here _) ..))) (DriveEnteredR.next hI))

theorem execRateTrip_drive (z : Fin 10) (k : Fin 20) (t : Int) {s : State} (hI : DriveEntered s) : DriveEnteredR (execRateTrip z k t s) := by
  unfold execRateTrip
  try extract_lets
  repeat' first
    | with_reducible assumption
    | with_reducible refine DriveEnteredR.next ?_
    | with_reducible refine DriveEnteredR.ite ?_ ?_
    | with_reducible refine DriveEntered.ite ?_ ?_
    | (guard_target = DriveEntered (sensorSample ..); with_reducible apply sensorSample_drive)
    | (guard_target = DriveEntered (rateTripStage ..); with_reducible apply rateTripStage_drive)
    | (guard_target = DriveEntered (thsNote ..); with_reducible refine DriveEntered.keep ?_ (thsNote_entered (hI := Entered.here _) ..))
    | (guard_target = DriveEntered (modZone ..); with_reducible refine DriveEntered.ofOnly ?_ (modZone_only ..))
    | extract_lets
    | dsimp only
    | split
    | dsimp +zetaDelta only

theorem execShutdown_drive (z : Fin 10) (k : Fin 20) (t : Int) {s : State} (hI : DriveEntered s) : DriveEnteredR (execShutdown z k t s) := by
  unfold execShutdown
  try extract_lets
  repeat' first
    | with_reducible assumption
    | with_reducible refine DriveEnteredR.next ?_
    | with_reducible refine DriveEnteredR.ite ?_ ?_
    | with_reducible refine DriveEntered.ite ?_ ?_
    | (guard_target = DriveEntered (sensorSample ..); with_reducible apply sensorSample_drive)
    | extract_lets
    | dsimp only
    | split
    | dsimp +zetaDelta only

theorem execVkeyHigh_drive  {s : State} (hI : DriveEntered s) : DriveEnteredR (execVkeyHigh s) := by
  unfold execVkeyHigh
  try extract_lets
  repeat' first
    | with_reducible assumption
    | with_reducible refine DriveEnteredR.next ?_
    | with_reducible refine DriveEnteredR.ite ?_ ?_
    | with_reducible refine DriveEntered.ite ?_ ?_
    | (guard_target = DriveEntered (startFromOff ..); with_reducible apply startFromOff_drive)
    | (guard_target = DriveEntered (startState ..); with_reducible apply startState_drive)
    | (guard_target = DriveEntered (State.onPwr ..); with_reducible refine DriveEntered.ofOnly ?_ (State.onPwr_only ..))
    | extract_lets
    | dsimp only
    | split
    | dsimp +zetaDelta only

theorem vkeyAtEdge_drive (e : Tick) {s : State} (hI : DriveEntered s) : DriveEntered (vkeyAtEdge e s) := by
  unfold vkeyAtEdge
  try extract_lets
  repeat' first
    | with_reducible assumption
    | with_reducible refine DriveEntered.ite ?_ ?_
    | (guard_target = DriveEntered (cancelEdges ..); with_reducible refine DriveEntered.keep ?_ (cancelEdges_entered (hI := Entered.here _) ..))
    | (guard_target = DriveEntered (enterStandby ..); with_reducible apply enterStandby_drive)
    | extract_lets
    | dsimp only
    | split
    | dsimp +zetaDelta only

theorem execKeyOffDelayExpiry_drive  {s : State} (hI : DriveEntered s) : DriveEnteredR (execKeyOffDelayExpiry s) := by
  unfold execKeyOffDelayExpiry
  try extract_lets
  repeat' first
    | with_reducible assumption
    | with_reducible refine DriveEnteredR.next ?_
    | with_reducible refine DriveEnteredR.ite ?_ ?_
    | with_reducible refine DriveEntered.ite ?_ ?_
    | (guard_target = DriveEntered (enterOff ..); with_reducible apply enterOff_drive)
    | extract_lets
    | dsimp only
    | split
    | dsimp +zetaDelta only

theorem execWakeAlarm_drive  {s : State} (hI : DriveEntered s) : DriveEnteredR (execWakeAlarm s) := by
  unfold execWakeAlarm
  try extract_lets
  repeat' first
    | with_reducible assumption
    | with_reducible refine DriveEnteredR.next ?_
    | with_reducible refine DriveEnteredR.ite ?_ ?_
    | with_reducible refine DriveEntered.ite ?_ ?_
    | (guard_target = DriveEntered (startFromOff ..); with_reducible apply startFromOff_drive)
    | (guard_target = DriveEntered (State.onPd0 ..); with_reducible refine DriveEntered.ofOnly ?_ (State.onPd0_only ..))
    | extract_lets
    | dsimp only
    | split
    | dsimp +zetaDelta only

theorem execVbatStartBand_drive  {s : State} (hI : DriveEntered s) : DriveEnteredR (execVbatStartBand s) := by
  unfold execVbatStartBand
  try extract_lets
  repeat' first
    | with_reducible assumption
    | with_reducible refine DriveEnteredR.next ?_
    | with_reducible refine DriveEnteredR.ite ?_ ?_
    | with_reducible refine DriveEntered.ite ?_ ?_
    | (guard_target = DriveEntered (startFromOff ..); with_reducible apply startFromOff_drive)
    | (guard_target = DriveEntered (lswReverseEnds ..); with_reducible refine DriveEntered.ofOnly ?_ (lswReverseEnds_only ..))
    | (guard_target = DriveEntered (State.onPwr ..); with_reducible refine DriveEntered.ofOnly ?_ (State.onPwr_only ..))
    | extract_lets
    | dsimp only
    | split
    | dsimp +zetaDelta only

theorem execBrownOut_drive  {s : State} (hI : DriveEntered s) : DriveEnteredR (execBrownOut s) := by
  unfold execBrownOut
  try extract_lets
  repeat' first
    | with_reducible assumption
    | with_reducible refine DriveEnteredR.next ?_
    | with_reducible refine DriveEnteredR.ite ?_ ?_
    | with_reducible refine DriveEntered.ite ?_ ?_
    | (guard_target = DriveEntered (enterOffBrown ..); with_reducible apply enterOffBrown_drive)
    | (guard_target = DriveEntered (State.onPwr ..); with_reducible refine DriveEntered.ofOnly ?_ (State.onPwr_only ..))
    | extract_lets
    | dsimp only
    | split
    | dsimp +zetaDelta only

theorem execReverseBattery_drive  {s : State} (hI : DriveEntered s) : DriveEnteredR (execReverseBattery s) := by
  unfold execReverseBattery
  try extract_lets
  repeat' first
    | with_reducible assumption
    | with_reducible refine DriveEnteredR.next ?_
    | with_reducible refine DriveEnteredR.ite ?_ ?_
    | with_reducible refine DriveEntered.ite ?_ ?_
    | (guard_target = DriveEntered (enterOffBrown ..); with_reducible apply enterOffBrown_drive)
    | (guard_target = DriveEntered (logFault ..); with_reducible refine DriveEntered.keep ?_ (logFault_entered (hI := Entered.here _) ..))
    | (guard_target = DriveEntered (lswReverse ..); with_reducible refine DriveEntered.ofOnly ?_ (lswReverse_only ..))
    | (guard_target = DriveEntered (State.onPwr ..); with_reducible refine DriveEntered.ofOnly ?_ (State.onPwr_only ..))
    | extract_lets
    | dsimp only
    | split
    | dsimp +zetaDelta only

theorem execPowerCycle_drive {s : State} (_ : DriveEntered s) : DriveEnteredR (execPowerCycle s) := by
  unfold execPowerCycle
  exact DriveEnteredR.next (by rintro (h | h) <;> cases h)

theorem execImageSetSelect_drive (v0 v1 : Vector BankVerdict 5) {s : State} (hI : DriveEntered s) : DriveEnteredR (execImageSetSelect v0 v1 s) := by
  unfold execImageSetSelect
  try extract_lets
  repeat' first
    | with_reducible assumption
    | with_reducible refine DriveEnteredR.next ?_
    | with_reducible refine DriveEnteredR.ite ?_ ?_
    | with_reducible refine DriveEntered.ite ?_ ?_
    | (guard_target = DriveEntered (extendOpen ..); with_reducible refine DriveEntered.ofOnly ?_ (extendOpen_only ..))
    | (guard_target = DriveEntered (modImage ..); with_reducible refine DriveEntered.ofOnly ?_ (modImage_only ..))
    | (guard_target = DriveEntered (runSet ..); with_reducible refine DriveEntered.keep ?_ (runSet_entered (hI := Entered.here _) ..))
    | (guard_target = DriveEntered (startState ..); with_reducible apply startState_drive)
    | (guard_target = DriveEntered (State.onSys ..); refine DriveEntered.onSys ?_ fun _ => ⟨rfl, rfl⟩)
    | (guard_target = DriveEntered (State.onPwr ..); with_reducible refine DriveEntered.ofOnly ?_ (State.onPwr_only ..))
    | (guard_target = DriveEntered (State.onSec ..); with_reducible refine DriveEntered.ofOnly ?_ (State.onSec_only ..))
    | extract_lets
    | dsimp only
    | split
    | dsimp +zetaDelta only

theorem execDomainPowerUp_drive  {s : State} (hI : DriveEntered s) : DriveEnteredR (execDomainPowerUp s) := by
  unfold execDomainPowerUp
  try extract_lets
  repeat' first
    | with_reducible assumption
    | with_reducible refine DriveEnteredR.next ?_
    | with_reducible refine DriveEnteredR.ite ?_ ?_
    | with_reducible refine DriveEntered.ite ?_ ?_
    | (guard_target = DriveEntered (enterLatched ..); with_reducible apply enterLatched_drive)
    | (guard_target = DriveEntered (State.onSys ..); refine DriveEntered.onSys ?_ fun _ => ⟨rfl, rfl⟩)
    | (guard_target = DriveEntered (State.onPwr ..); with_reducible refine DriveEntered.ofOnly ?_ (State.onPwr_only ..))
    | extract_lets
    | dsimp only
    | split
    | dsimp +zetaDelta only

theorem startComplete_drive  {s : State} (hI : DriveEntered s) : DriveEntered (startComplete s) := by
  unfold startComplete
  try extract_lets
  repeat' first
    | with_reducible assumption
    | with_reducible refine DriveEntered.ite ?_ ?_
    | (guard_target = DriveEntered (bootNote ..); with_reducible refine DriveEntered.ofOnly ?_ (bootNote_only ..))
    | (guard_target = DriveEntered (enterStandby ..); with_reducible apply enterStandby_drive)
    | (guard_target = DriveEntered (State.onSys ..); refine DriveEntered.onSys ?_ fun _ => ⟨rfl, rfl⟩)
    | (guard_target = DriveEntered (State.onPwr ..); with_reducible refine DriveEntered.ofOnly ?_ (State.onPwr_only ..))
    | (guard_target = DriveEntered (feedsUp ..); with_reducible refine DriveEntered.ofOnly ?_ (feedsUp_only ..))
    | extract_lets
    | dsimp only
    | split
    | dsimp +zetaDelta only

theorem execSelftestComplete_drive (failed : List Nat) {s : State} (hI : DriveEntered s) : DriveEnteredR (execSelftestComplete failed s) := by
  unfold execSelftestComplete
  try extract_lets
  repeat' first
    | with_reducible assumption
    | with_reducible refine DriveEnteredR.next ?_
    | with_reducible refine DriveEnteredR.ite ?_ ?_
    | with_reducible refine DriveEntered.ite ?_ ?_
    | (guard_target = DriveEntered (enterQuarantine ..); with_reducible apply enterQuarantine_drive)
    | (guard_target = DriveEntered (selftestRejects ..); with_reducible refine DriveEntered.keep ?_ (selftestRejects_entered (hI := Entered.here _) ..))
    | (guard_target = DriveEntered (startComplete ..); with_reducible apply startComplete_drive)
    | (guard_target = DriveEntered (State.onPos ..); with_reducible refine DriveEntered.ofOnly ?_ (State.onPos_only ..))
    | (guard_target = DriveEntered (State.onSys ..); refine DriveEntered.onSys ?_ fun _ => ⟨rfl, rfl⟩)
    | extract_lets
    | dsimp only
    | split
    | dsimp +zetaDelta only

theorem quarantineAtEdge_drive (e : Tick) {s : State} (hI : DriveEntered s) : DriveEntered (quarantineAtEdge e s) := by
  unfold quarantineAtEdge
  try extract_lets
  repeat' first
    | with_reducible assumption
    | with_reducible refine DriveEntered.ite ?_ ?_
    | (guard_target = DriveEntered (enterQuarantine ..); with_reducible apply enterQuarantine_drive)
    | extract_lets
    | dsimp only
    | split
    | dsimp +zetaDelta only

theorem execLinkLost_drive (p : Port) {s : State} (hI : DriveEntered s) : DriveEnteredR (execLinkLost p s) := by
  unfold execLinkLost
  try extract_lets
  repeat' first
    | with_reducible assumption
    | with_reducible refine DriveEnteredR.next ?_
    | with_reducible refine DriveEnteredR.ite ?_ ?_
    | with_reducible refine DriveEntered.ite ?_ ?_
    | (guard_target = DriveEntered (hostNote ..); with_reducible refine DriveEntered.keep ?_ (hostNote_entered (hI := Entered.here _) ..))
    | (guard_target = DriveEntered (logFault ..); with_reducible refine DriveEntered.keep ?_ (logFault_entered (hI := Entered.here _) ..))
    | (guard_target = DriveEntered (modPort ..); with_reducible refine DriveEntered.ofOnly ?_ (modPort_only ..))
    | (guard_target = DriveEntered (safeFault ..); with_reducible apply safeFault_drive)
    | extract_lets
    | dsimp only
    | split
    | dsimp +zetaDelta only

theorem execResetAfterReply_drive  {s : State} (hI : DriveEntered s) : DriveEnteredR (execResetAfterReply s) := by
  unfold execResetAfterReply
  try extract_lets
  repeat' first
    | with_reducible assumption
    | with_reducible refine DriveEnteredR.next ?_
    | with_reducible refine DriveEnteredR.ite ?_ ?_
    | with_reducible refine DriveEntered.ite ?_ ?_
    | (guard_target = DriveEntered (startState ..); with_reducible apply startState_drive)
    | extract_lets
    | dsimp only
    | split
    | dsimp +zetaDelta only

theorem execBankReconnectTestEnd_drive (b : Fin 12) (short : Option (Fin 8)) {s : State} (hI : DriveEntered s) : DriveEnteredR (execBankReconnectTestEnd b short s) := by
  unfold execBankReconnectTestEnd
  try extract_lets
  repeat' first
    | with_reducible assumption
    | with_reducible refine DriveEnteredR.next ?_
    | with_reducible refine DriveEnteredR.ite ?_ ?_
    | with_reducible refine DriveEntered.ite ?_ ?_
    | (guard_target = DriveEntered (answerBank ..); with_reducible refine DriveEntered.ofOnly ?_ (answerBank_only ..))
    | (guard_target = DriveEntered (reconnected ..); with_reducible refine DriveEntered.keep ?_ (reconnected_entered (hI := Entered.here _) ..))
    | (guard_target = DriveEntered (isolateFault ..); with_reducible apply isolateFault_drive)
    | (guard_target = DriveEntered (reisolated ..); with_reducible apply reisolated_drive)
    | extract_lets
    | dsimp only
    | split
    | dsimp +zetaDelta only

theorem applyEdge_drive (i : EdgeItem) {s : State} (hI : DriveEntered s) : DriveEntered (applyEdge i s) := by
  have keep : ∀ {t : State}, Entered s.sys.dev s.sys.prev s.sys.cause t → DriveEntered t := fun h => DriveEntered.keep hI h
  have hc : DriveEntered (cancelNote i s) := hI.ofOnly (cancelNote_only ..)
  unfold applyEdge ifAllowed
  split
  · refine DriveEntered.iteOf (fun h => enterArmed_drive _ ?_) hc
    rcases Bool.or_eq_true_iff.mp h with h | h <;> rw [eq_of_beq h] <;> decide
  · refine DriveEntered.iteOf (fun h => enterManual_drive _ ?_) hc
    rcases Bool.or_eq_true_iff.mp h with h | h <;> rw [eq_of_beq h] <;> decide
  · exact DriveEntered.ite (enterStandby_drive _ _ hI) hc
  · exact DriveEntered.ite (enterStandby_drive _ _ hI) hc
  · exact keep (applyCommit_entered (hI := Entered.here s) ..)
  · exact keep (commitPhases_entered (hI := (applyImpl_entered (hI := Entered.here s) ..)) ..)
  · exact hI.ofOnly (applySubscribe_only ..)
  · exact keep (applyClear_entered (hI := Entered.here s) ..)
  · exact keep (applyImport_entered (hI := Entered.here s) ..)
  · exact hI.ofOnly (fixExport_only ..)
  · exact hI.ofOnly (modLoop_only ..)
  · exact hI.ofOnly (modLoop_only ..)
  · exact keep (applyLoopReset_entered (hI := Entered.here s) ..)
  · exact keep (applyLswSet_entered (hI := Entered.here s) ..)
  · exact keep (applyLswResume_entered (hI := Entered.here s) ..)
  · exact hI.ofOnly (writeDuty_only ..)
  · exact hI.ofOnly (applyEncSet_only ..)
  · exact hI.ofOnly (applyFilter_only ..)

theorem applyEdges_drive (e : Tick) (f : Nat) {s : State} (hI : DriveEntered s) : DriveEntered (applyEdges e f s) := by
  induction f generalizing s with
  | zero => exact hI
  | succ f ih =>
    unfold applyEdges
    split
    · exact hI
    · rename_i i rest _
      exact ih (applyEdge_drive _ (DriveEntered.onSys hI (f := fun y => { y with edgeQ := rest }) fun _ => ⟨rfl, rfl⟩))

theorem restartInCoast_drive (el : Element) {s : State} (hI : DriveEntered s) : DriveEntered (restartInCoast el s) := by
  unfold restartInCoast
  try extract_lets
  repeat' first
    | with_reducible assumption
    | with_reducible refine DriveEntered.ite ?_ ?_
    | (guard_target = DriveEntered (commandRestart ..); with_reducible refine DriveEntered.keep ?_ (commandRestart_entered (hI := Entered.here _) ..))
    | (guard_target = DriveEntered (enterCoast ..); with_reducible apply enterCoast_drive)
    | extract_lets
    | dsimp only
    | split
    | dsimp +zetaDelta only

theorem switchElement_drive (i : Fin 5) {s : State} (hI : DriveEntered s) : DriveEntered (switchElement i s) := by
  unfold switchElement
  try extract_lets
  repeat' first
    | with_reducible assumption
    | with_reducible refine DriveEntered.ite ?_ ?_
    | (guard_target = DriveEntered (flushCrossing ..); with_reducible refine DriveEntered.keep ?_ (flushCrossing_entered (hI := Entered.here _) ..))
    | (guard_target = DriveEntered (modElem ..); with_reducible refine DriveEntered.ofOnly ?_ (modElem_only ..))
    | (guard_target = DriveEntered (resetElement ..); with_reducible refine DriveEntered.ofOnly ?_ (resetElement_only ..))
    | (guard_target = DriveEntered (restartInCoast ..); with_reducible apply restartInCoast_drive)
    | (guard_target = DriveEntered (restartLoops ..); with_reducible refine DriveEntered.ofOnly ?_ (restartLoops_only ..))
    | extract_lets
    | dsimp only
    | split
    | dsimp +zetaDelta only

theorem activationEdge_drive (e : Tick) {s : State} (hI : DriveEntered s) : DriveEntered (activationEdge e s) := by
  unfold activationEdge
  try extract_lets
  repeat' first
    | with_reducible assumption
    | with_reducible refine DriveEntered.ite ?_ ?_
    | (guard_target = DriveEntered (switchElement ..); with_reducible apply switchElement_drive)
    | (guard_target = DriveEntered (switchImage ..); with_reducible refine DriveEntered.ofOnly ?_ (switchImage_only ..))
    | (guard_target = DriveEntered (State.onSec ..); with_reducible refine DriveEntered.ofOnly ?_ (State.onSec_only ..))
    | with_reducible refine DriveEntered.foldl (fun _ _ _ => ?_) ?_
    | extract_lets
    | dsimp only
    | split
    | dsimp +zetaDelta only

theorem edgeStates_drive (e : Tick) {s : State} (hI : DriveEntered s) : DriveEntered (edgeStates e s) := by
  unfold edgeStates
  try extract_lets
  repeat' first
    | with_reducible assumption
    | with_reducible refine DriveEntered.ite ?_ ?_
    | (guard_target = DriveEntered (applyEdges ..); with_reducible apply applyEdges_drive)
    | (guard_target = DriveEntered (cleanFrames ..); with_reducible refine DriveEntered.keep ?_ (cleanFrames_entered (hI := Entered.here _) ..))
    | (guard_target = DriveEntered (coastReturn ..); with_reducible apply coastReturn_drive)
    | (guard_target = DriveEntered (groundAtEdge ..); with_reducible refine DriveEntered.keep ?_ (groundAtEdge_entered (hI := Entered.here _) ..))
    | (guard_target = DriveEntered (quarantineAtEdge ..); with_reducible apply quarantineAtEdge_drive)
    | (guard_target = DriveEntered (safeInAtEdge ..); with_reducible apply safeInAtEdge_drive)
    | (guard_target = DriveEntered (vkeyAtEdge ..); with_reducible apply vkeyAtEdge_drive)
    | extract_lets
    | dsimp only
    | split
    | dsimp +zetaDelta only

theorem laneEnd_drive (e : Tick) {s : State} (hI : DriveEntered s) : DriveEntered (laneEnd e s) := by
  unfold laneEnd
  exact DriveEntered.ite (asAt_drive _ (fun _ h => elementFault_drive _ _ _ h) (hI.ofOnly (State.onFe_only ..))) hI

theorem lastFrameEnd_drive (e : Tick) {s : State} (hI : DriveEntered s) : DriveEntered (lastFrameEnd e s) := by
  unfold lastFrameEnd
  try extract_lets
  repeat' first
    | with_reducible assumption
    | with_reducible refine DriveEntered.ite ?_ ?_
    | (guard_target = DriveEntered (laneEnd ..); with_reducible apply laneEnd_drive)
    | (guard_target = DriveEntered (finishMigration ..); with_reducible refine DriveEntered.keep ?_ (finishMigration_entered (hI := Entered.here _) ..))
    | extract_lets
    | dsimp only
    | split
    | dsimp +zetaDelta only

theorem execFrameEdge_drive (f : Freeze) {s : State} (hI : DriveEntered s) : DriveEnteredR (execFrameEdge f s) := by
  unfold execFrameEdge
  try extract_lets
  repeat' first
    | with_reducible assumption
    | with_reducible refine DriveEnteredR.next ?_
    | with_reducible refine DriveEnteredR.ite ?_ ?_
    | with_reducible refine DriveEntered.ite ?_ ?_
    | (guard_target = DriveEntered (activationEdge ..); with_reducible apply activationEdge_drive)
    | (guard_target = DriveEntered (bkoError ..); with_reducible refine DriveEntered.ofOnly ?_ (bkoError_only ..))
    | (guard_target = DriveEntered (edgeStates ..); with_reducible apply edgeStates_drive)
    | (guard_target = DriveEntered (freezeFrame ..); with_reducible refine DriveEntered.keep ?_ (freezeFrame_entered (hI := Entered.here _) ..))
    | (guard_target = DriveEntered (lastFrameEnd ..); with_reducible apply lastFrameEnd_drive)
    | (guard_target = DriveEntered (settleActivation ..); with_reducible refine DriveEntered.ofOnly ?_ (settleActivation_only ..))
    | (guard_target = DriveEntered (toggleFaultOut ..); with_reducible refine DriveEntered.ofOnly ?_ (toggleFaultOut_only ..))
    | (guard_target = DriveEntered (trigSource ..); with_reducible refine DriveEntered.keep ?_ (trigSource_entered (hI := Entered.here _) ..))
    | (guard_target = DriveEntered (State.onLsw ..); with_reducible refine DriveEntered.ofOnly ?_ (State.onLsw_only ..))
    | (guard_target = DriveEntered (State.onSys ..); refine DriveEntered.onSys ?_ fun _ => ⟨rfl, rfl⟩)
    | extract_lets
    | dsimp only
    | split
    | dsimp +zetaDelta only

theorem execLoggingPhase_drive {s : State} (hI : DriveEntered s) : DriveEnteredR (execLoggingPhase s) := by
  unfold execLoggingPhase
  try extract_lets
  repeat' first
    | with_reducible assumption
    | with_reducible refine DriveEnteredR.next ?_
    | with_reducible refine DriveEnteredR.ite ?_ ?_
    | with_reducible refine DriveEntered.ite ?_ ?_
    | (guard_target = DriveEntered (laneEnd ..); with_reducible apply laneEnd_drive)
    | (guard_target = DriveEntered (flushNotices ..); with_reducible refine DriveEntered.keep ?_ (flushNotices_entered (hI := Entered.here _) ..))
    | (guard_target = DriveEntered (activationDone ..); with_reducible refine DriveEntered.keep ?_ (activationDone_entered (hI := Entered.here _) ..))
    | (guard_target = DriveEntered (reportCoast ..); with_reducible refine DriveEntered.keep ?_ (reportCoast_entered (hI := Entered.here _) ..))
    | (guard_target = DriveEntered (eventNotices ..); with_reducible refine DriveEntered.ofOnly ?_ (eventNotices_only ..))
    | (guard_target = DriveEntered (rxNotices ..); with_reducible refine DriveEntered.ofOnly ?_ (rxNotices_only ..))
    | (guard_target = DriveEntered (writeLog ..); with_reducible refine DriveEntered.keep ?_ (writeLog_entered (hI := Entered.here _) ..))
    | (guard_target = DriveEntered (telemetry ..); with_reducible refine DriveEntered.ofOnly ?_ (telemetry_only ..))
    | (guard_target = DriveEntered (startMigration ..); with_reducible refine DriveEntered.keep ?_ (startMigration_entered (hI := Entered.here _) ..))
    | (guard_target = DriveEntered (sendTimeMessages ..); with_reducible refine DriveEntered.ofOnly ?_ (sendTimeMessages_only ..))
    | (guard_target = DriveEntered (State.onFe ..); with_reducible refine DriveEntered.ofOnly ?_ (State.onFe_only ..))
    | (guard_target = DriveEntered (State.onSys ..); refine DriveEntered.onSys ?_ fun _ => ⟨rfl, rfl⟩)
    | with_reducible refine DriveEntered.foldl (fun _ _ _ => ?_) ?_
    | extract_lets
    | dsimp only
    | split
    | dsimp +zetaDelta only

end Sys2Proof.Machine
end

