-- ==== Sys2Proof/Laws/Notes.lean ====
section
/-! SUPPORT. The reports of the blocks change what a report changes. -/

set_option Elab.async false

namespace Sys2Proof.Machine

/-- What the fault log shows survives a notice. -/
theorem logged_noticeAt {c i : Nat} {s : State} (h : Logged c i s) (b : Block) (code idx : Nat) (pm : Tick) (body : List Byte) :
    Logged c i (noticeAt b code idx pm body s) := by
  unfold Logged at *
  rw [noticeAt_pd0]
  exact h

theorem lswReport_noted (c : Fin 16) (code : Nat) (s : State) : Noted s (lswReport c code s) :=
  (logFault_noted ..).trans (notice_noted ..)
theorem lswReport_logged (c : Fin 16) (code : Nat) (s : State) : Logged 0x20 c.val (lswReport c code s) :=
  logged_noticeAt (logFault_logged ..) ..
theorem thsNote_noted (code : Nat) (z : Fin 10) (sensor : Nat) (s : State) : Noted s (thsNote code z sensor s) := notice_noted ..
theorem canNote_noted (x : Fin 3) (code obj : Nat) (body : List Byte) (s : State) : Noted s (canNote x code obj body s) := notice_noted ..
theorem loadDone_noted (st : Status) (s : State) : Noted s (loadDone st s) := notice_noted ..
theorem addressNote_noted (old : Nat) (s : State) : Noted s (addressNote old s) := by
  unfold addressNote
  split
  · exact Noted.refl _
  · exact canNote_noted ..
theorem sampleNotes_noted (z : Fin 10) (x y : Zone) (s : State) : Noted s (sampleNotes z x y s) := by
  unfold sampleNotes
  dsimp only
  split <;> split <;> first
    | exact (thsNote_noted ..).trans (thsNote_noted ..)
    | exact thsNote_noted ..
    | exact Noted.refl _

end Sys2Proof.Machine
end

