-- ==== Sys2Proof/Laws/PerInstr.lean ====
section
/-! SUPPORT. For every command: it carries an envelope exactly where it carries an opcode, and a defined one but for the row of
undefined opcodes. -/

set_option Elab.async false

namespace Sys2Proof.Laws.Request

/-- A command is a request, with its envelope and its defined opcode (R379), or it is no request. -/
def Statement (i : Instr) : Prop :=
  i.env?.isSome = i.opcode?.isSome ∧ ((∀ op e, i ≠ .badOpcode op e) → ∀ op, i.opcode? = some op → definedOpcode op = true)

theorem sysNop (e : Env) : Statement (.sysNop e) := ⟨rfl, fun _ _ h => by cases h; decide⟩
theorem sysStatus (e : Env) : Statement (.sysStatus e) := ⟨rfl, fun _ _ h => by cases h; decide⟩
theorem sysIdentity (e : Env) : Statement (.sysIdentity e) := ⟨rfl, fun _ _ h => by cases h; decide⟩
theorem sysLinkReset (e : Env) : Statement (.sysLinkReset e) := ⟨rfl, fun _ _ h => by cases h; decide⟩
theorem sysArm (e : Env) : Statement (.sysArm e) := ⟨rfl, fun _ _ h => by cases h; decide⟩
theorem sysManual (e : Env) : Statement (.sysManual e) := ⟨rfl, fun _ _ h => by cases h; decide⟩
theorem sysDisarm (e : Env) : Statement (.sysDisarm e) := ⟨rfl, fun _ _ h => by cases h; decide⟩
theorem sysClearFault (e : Env) : Statement (.sysClearFault e) := ⟨rfl, fun _ _ h => by cases h; decide⟩
theorem sysReset (e : Env) : Statement (.sysReset e) := ⟨rfl, fun _ _ h => by cases h; decide⟩
theorem sysSubscribe (e : Env) : Statement (.sysSubscribe e) := ⟨rfl, fun _ _ h => by cases h; decide⟩
theorem sysWakeSet (e : Env) : Statement (.sysWakeSet e) := ⟨rfl, fun _ _ h => by cases h; decide⟩
theorem pbRead (e : Env) : Statement (.pbRead e) := ⟨rfl, fun _ _ h => by cases h; decide⟩
theorem pbWrite (e : Env) : Statement (.pbWrite e) := ⟨rfl, fun _ _ h => by cases h; decide⟩
theorem pbCommit (e : Env) : Statement (.pbCommit e) := ⟨rfl, fun _ _ h => by cases h; decide⟩
theorem pbRevert (e : Env) : Statement (.pbRevert e) := ⟨rfl, fun _ _ h => by cases h; decide⟩
theorem tcxoClear : Statement .tcxoClear := ⟨rfl, fun _ _ h => nomatch h⟩
theorem relearn (c : Fin 96) : Statement (.relearn c) := ⟨rfl, fun _ _ h => nomatch h⟩
theorem implWrite (e : Env) : Statement (.implWrite e) := ⟨rfl, fun _ _ h => by cases h; decide⟩
theorem implRead (e : Env) : Statement (.implRead e) := ⟨rfl, fun _ _ h => by cases h; decide⟩
theorem implCommit (e : Env) : Statement (.implCommit e) := ⟨rfl, fun _ _ h => by cases h; decide⟩
theorem implRevert (e : Env) : Statement (.implRevert e) := ⟨rfl, fun _ _ h => by cases h; decide⟩
theorem mapStatus (e : Env) : Statement (.mapStatus e) := ⟨rfl, fun _ _ h => by cases h; decide⟩
theorem mapLoadBegin (e : Env) : Statement (.mapLoadBegin e) := ⟨rfl, fun _ _ h => by cases h; decide⟩
theorem mapLoadData (e : Env) : Statement (.mapLoadData e) := ⟨rfl, fun _ _ h => by cases h; decide⟩
theorem mapLoadEnd (e : Env) : Statement (.mapLoadEnd e) := ⟨rfl, fun _ _ h => by cases h; decide⟩
theorem mapLoadAbort (e : Env) : Statement (.mapLoadAbort e) := ⟨rfl, fun _ _ h => by cases h; decide⟩
theorem mapExportBegin (e : Env) : Statement (.mapExportBegin e) := ⟨rfl, fun _ _ h => by cases h; decide⟩
theorem mapExportRead (e : Env) : Statement (.mapExportRead e) := ⟨rfl, fun _ _ h => by cases h; decide⟩
theorem mapExportAck (e : Env) : Statement (.mapExportAck e) := ⟨rfl, fun _ _ h => by cases h; decide⟩
theorem mapClear (e : Env) : Statement (.mapClear e) := ⟨rfl, fun _ _ h => by cases h; decide⟩
theorem mapLogRead (e : Env) : Statement (.mapLogRead e) := ⟨rfl, fun _ _ h => by cases h; decide⟩
theorem mapLogAck (e : Env) : Statement (.mapLogAck e) := ⟨rfl, fun _ _ h => by cases h; decide⟩
theorem feDirected (e : Env) : Statement (.feDirected e) := ⟨rfl, fun _ _ h => by cases h; decide⟩
theorem feDirectedClear (e : Env) : Statement (.feDirectedClear e) := ⟨rfl, fun _ _ h => by cases h; decide⟩
theorem actEvent (e : Env) : Statement (.actEvent e) := ⟨rfl, fun _ _ h => by cases h; decide⟩
theorem actDuty (e : Env) : Statement (.actDuty e) := ⟨rfl, fun _ _ h => by cases h; decide⟩
theorem actFineCmp (e : Env) : Statement (.actFineCmp e) := ⟨rfl, fun _ _ h => by cases h; decide⟩
theorem actClearFault (e : Env) : Statement (.actClearFault e) := ⟨rfl, fun _ _ h => by cases h; decide⟩
theorem ceSetpoint (e : Env) : Statement (.ceSetpoint e) := ⟨rfl, fun _ _ h => by cases h; decide⟩
theorem ceOutput (e : Env) : Statement (.ceOutput e) := ⟨rfl, fun _ _ h => by cases h; decide⟩
theorem ceTableWrite (e : Env) : Statement (.ceTableWrite e) := ⟨rfl, fun _ _ h => by cases h; decide⟩
theorem ceTableRead (e : Env) : Statement (.ceTableRead e) := ⟨rfl, fun _ _ h => by cases h; decide⟩
theorem ceLoopReset (e : Env) : Statement (.ceLoopReset e) := ⟨rfl, fun _ _ h => by cases h; decide⟩
theorem timeGet (e : Env) : Statement (.timeGet e) := ⟨rfl, fun _ _ h => by cases h; decide⟩
theorem timeStepConfirm (e : Env) : Statement (.timeStepConfirm e) := ⟨rfl, fun _ _ h => by cases h; decide⟩
theorem gnssRtcm (e : Env) : Statement (.gnssRtcm e) := ⟨rfl, fun _ _ h => by cases h; decide⟩
theorem gnssMeasGet (e : Env) : Statement (.gnssMeasGet e) := ⟨rfl, fun _ _ h => by cases h; decide⟩
theorem posGet (e : Env) : Statement (.posGet e) := ⟨rfl, fun _ _ h => by cases h; decide⟩
theorem lswSet (e : Env) : Statement (.lswSet e) := ⟨rfl, fun _ _ h => by cases h; decide⟩
theorem lswClearFault (e : Env) : Statement (.lswClearFault e) := ⟨rfl, fun _ _ h => by cases h; decide⟩
theorem pifEncSet (e : Env) : Statement (.pifEncSet e) := ⟨rfl, fun _ _ h => by cases h; decide⟩
theorem pifEventsRead (e : Env) : Statement (.pifEventsRead e) := ⟨rfl, fun _ _ h => by cases h; decide⟩
theorem canPhConfig (e : Env) : Statement (.canPhConfig e) := ⟨rfl, fun _ _ h => by cases h; decide⟩
theorem canRxRead (e : Env) : Statement (.canRxRead e) := ⟨rfl, fun _ _ h => by cases h; decide⟩
theorem canTx (e : Env) : Statement (.canTx e) := ⟨rfl, fun _ _ h => by cases h; decide⟩
theorem canTxAbort (e : Env) : Statement (.canTxAbort e) := ⟨rfl, fun _ _ h => by cases h; decide⟩
theorem canRecover (e : Env) : Statement (.canRecover e) := ⟨rfl, fun _ _ h => by cases h; decide⟩
theorem secSessionOpen (e : Env) : Statement (.secSessionOpen e) := ⟨rfl, fun _ _ h => by cases h; decide⟩
theorem secSessionClose (e : Env) : Statement (.secSessionClose e) := ⟨rfl, fun _ _ h => by cases h; decide⟩
theorem secServiceChallenge (e : Env) : Statement (.secServiceChallenge e) := ⟨rfl, fun _ _ h => by cases h; decide⟩
theorem secServiceResponse (e : Env) : Statement (.secServiceResponse e) := ⟨rfl, fun _ _ h => by cases h; decide⟩
theorem secAttest (e : Env) : Statement (.secAttest e) := ⟨rfl, fun _ _ h => by cases h; decide⟩
theorem secImageBegin (e : Env) : Statement (.secImageBegin e) := ⟨rfl, fun _ _ h => by cases h; decide⟩
theorem secImageData (e : Env) : Statement (.secImageData e) := ⟨rfl, fun _ _ h => by cases h; decide⟩
theorem secImageEnd (e : Env) : Statement (.secImageEnd e) := ⟨rfl, fun _ _ h => by cases h; decide⟩
theorem secActivate (e : Env) : Statement (.secActivate e) := ⟨rfl, fun _ _ h => by cases h; decide⟩
theorem secImageStatus (e : Env) : Statement (.secImageStatus e) := ⟨rfl, fun _ _ h => by cases h; decide⟩
theorem diagRead (e : Env) : Statement (.diagRead e) := ⟨rfl, fun _ _ h => by cases h; decide⟩
theorem badHeader (p : Port) : Statement (.badHeader p) := ⟨rfl, fun _ _ h => nomatch h⟩
theorem noticeEnvelope (p : Port) : Statement (.noticeEnvelope p) := ⟨rfl, fun _ _ h => nomatch h⟩
theorem linkLost (p : Port) : Statement (.linkLost p) := ⟨rfl, fun _ _ h => nomatch h⟩
theorem pbHostApply : Statement .pbHostApply := ⟨rfl, fun _ _ h => nomatch h⟩
theorem resetAfterReply : Statement .resetAfterReply := ⟨rfl, fun _ _ h => nomatch h⟩
theorem frameEdge (f : Freeze) : Statement (.frameEdge f) := ⟨rfl, fun _ _ h => nomatch h⟩
theorem decisionPhase : Statement .decisionPhase := ⟨rfl, fun _ _ h => nomatch h⟩
theorem commitPhase (agree : Bool) : Statement (.commitPhase agree) := ⟨rfl, fun _ _ h => nomatch h⟩
theorem loggingPhase : Statement .loggingPhase := ⟨rfl, fun _ _ h => nomatch h⟩
theorem vkeyHigh : Statement .vkeyHigh := ⟨rfl, fun _ _ h => nomatch h⟩
theorem vkeyLow : Statement .vkeyLow := ⟨rfl, fun _ _ h => nomatch h⟩
theorem keyOffDelayExpiry : Statement .keyOffDelayExpiry := ⟨rfl, fun _ _ h => nomatch h⟩
theorem wakeAlarm : Statement .wakeAlarm := ⟨rfl, fun _ _ h => nomatch h⟩
theorem vbatStartBand : Statement .vbatStartBand := ⟨rfl, fun _ _ h => nomatch h⟩
theorem brownOut : Statement .brownOut := ⟨rfl, fun _ _ h => nomatch h⟩
theorem lowSupply : Statement .lowSupply := ⟨rfl, fun _ _ h => nomatch h⟩
theorem lowSupplyExit : Statement .lowSupplyExit := ⟨rfl, fun _ _ h => nomatch h⟩
theorem powerCycle : Statement .powerCycle := ⟨rfl, fun _ _ h => nomatch h⟩
theorem lossOfGround : Statement .lossOfGround := ⟨rfl, fun _ _ h => nomatch h⟩
theorem groundRestored : Statement .groundRestored := ⟨rfl, fun _ _ h => nomatch h⟩
theorem reverseBattery : Statement .reverseBattery := ⟨rfl, fun _ _ h => nomatch h⟩
theorem loadDump : Statement .loadDump := ⟨rfl, fun _ _ h => nomatch h⟩
theorem timeResetRelease : Statement .timeResetRelease := ⟨rfl, fun _ _ h => nomatch h⟩
theorem imageSetSelect (v0 v1 : Vector BankVerdict 5) : Statement (.imageSetSelect v0 v1) := ⟨rfl, fun _ _ h => nomatch h⟩
theorem domainPowerUp : Statement .domainPowerUp := ⟨rfl, fun _ _ h => nomatch h⟩
theorem hostPortAlive : Statement .hostPortAlive := ⟨rfl, fun _ _ h => nomatch h⟩
theorem selftestComplete (failed : List Nat) : Statement (.selftestComplete failed) := ⟨rfl, fun _ _ h => nomatch h⟩
theorem powerDomainSwitch (d : Fin 12) (on : Bool) : Statement (.powerDomainSwitch d on) := ⟨rfl, fun _ _ h => nomatch h⟩
theorem dramTestDone (retired : Vector Nat 3) : Statement (.dramTestDone retired) := ⟨rfl, fun _ _ h => nomatch h⟩
theorem pairCheck : Statement .pairCheck := ⟨rfl, fun _ _ h => nomatch h⟩
theorem ceCheck : Statement .ceCheck := ⟨rfl, fun _ _ h => nomatch h⟩
theorem gnssCheck : Statement .gnssCheck := ⟨rfl, fun _ _ h => nomatch h⟩
theorem enclaveCheck : Statement .enclaveCheck := ⟨rfl, fun _ _ h => nomatch h⟩
theorem clockElement (el : Element) : Statement (.clockElement el) := ⟨rfl, fun _ _ h => nomatch h⟩
theorem clockBase (clock : BitVec 8) : Statement (.clockBase clock) := ⟨rfl, fun _ _ h => nomatch h⟩
theorem clockBaseRestored : Statement .clockBaseRestored := ⟨rfl, fun _ _ h => nomatch h⟩
theorem pllRelock (el : Element) (ok : Bool) : Statement (.pllRelock el ok) := ⟨rfl, fun _ _ h => nomatch h⟩
theorem coastExpired : Statement .coastExpired := ⟨rfl, fun _ _ h => nomatch h⟩
theorem elementRestartComplete (el : Element) : Statement (.elementRestartComplete el) := ⟨rfl, fun _ _ h => nomatch h⟩
theorem safeIn : Statement .safeIn := ⟨rfl, fun _ _ h => nomatch h⟩
theorem rowBusoffGraceExpiry : Statement .rowBusoffGraceExpiry := ⟨rfl, fun _ _ h => nomatch h⟩
theorem boost : Statement .boost := ⟨rfl, fun _ _ h => nomatch h⟩
theorem boostRetry (ok : Bool) : Statement (.boostRetry ok) := ⟨rfl, fun _ _ h => nomatch h⟩
theorem measurementEpoch (m : EpochIn) : Statement (.measurementEpoch m) := ⟨rfl, fun _ _ h => nomatch h⟩
theorem holdoverEntry : Statement .holdoverEntry := ⟨rfl, fun _ _ h => nomatch h⟩
theorem holdoverLimitExpiry : Statement .holdoverLimitExpiry := ⟨rfl, fun _ _ h => nomatch h⟩
theorem ppsPulse : Statement .ppsPulse := ⟨rfl, fun _ _ h => nomatch h⟩
theorem ppsPulseEnd : Statement .ppsPulseEnd := ⟨rfl, fun _ _ h => nomatch h⟩
theorem tcxoTempUpdate (t : Int) : Statement (.tcxoTempUpdate t) := ⟨rfl, fun _ _ h => nomatch h⟩
theorem acqDwellEnd (d : DwellIn) : Statement (.acqDwellEnd d) := ⟨rfl, fun _ _ h => nomatch h⟩
theorem warmSearchTimer : Statement .warmSearchTimer := ⟨rfl, fun _ _ h => nomatch h⟩
theorem pullInTimeout (c : Fin 24) : Statement (.pullInTimeout c) := ⟨rfl, fun _ _ h => nomatch h⟩
theorem bitSync (c : Fin 24) (changes : List Nat) : Statement (.bitSync c changes) := ⟨rfl, fun _ _ h => nomatch h⟩
theorem frameSync (c : Fin 24) (f : FrameIn) : Statement (.frameSync c f) := ⟨rfl, fun _ _ h => nomatch h⟩
theorem lnavWord (c : Fin 24) (w : BitVec 30) : Statement (.lnavWord c w) := ⟨rfl, fun _ _ h => nomatch h⟩
theorem ephemerisAccept (prn : Fin 32) : Statement (.ephemerisAccept prn) := ⟨rfl, fun _ _ h => nomatch h⟩
theorem channelLoss (c : Fin 24) : Statement (.channelLoss c) := ⟨rfl, fun _ _ h => nomatch h⟩
theorem antOpen (ma : Nat) : Statement (.antOpen ma) := ⟨rfl, fun _ _ h => nomatch h⟩
theorem antShort (ma : Nat) : Statement (.antShort ma) := ⟨rfl, fun _ _ h => nomatch h⟩
theorem antBiasRetry (ma : Nat) : Statement (.antBiasRetry ma) := ⟨rfl, fun _ _ h => nomatch h⟩
theorem rtcmFrame : Statement .rtcmFrame := ⟨rfl, fun _ _ h => nomatch h⟩
theorem rtcmTimeout : Statement .rtcmTimeout := ⟨rfl, fun _ _ h => nomatch h⟩
theorem ambiguityCandidate (sats : BitVec 32) (ints : List Int) (ratio : Nat) : Statement (.ambiguityCandidate sats ints ratio) := ⟨rfl, fun _ _ h => nomatch h⟩
theorem odoStale (k : Fin 4) : Statement (.odoStale k) := ⟨rfl, fun _ _ h => nomatch h⟩
theorem eventExecute (b : Fin 12) : Statement (.eventExecute b) := ⟨rfl, fun _ _ h => nomatch h⟩
theorem reservedStart (c : Fin 96) : Statement (.reservedStart c) := ⟨rfl, fun _ _ h => nomatch h⟩
theorem feedToVbst (b : Fin 12) : Statement (.feedToVbst b) := ⟨rfl, fun _ _ h => nomatch h⟩
theorem windowEnd (b : Fin 12) : Statement (.windowEnd b) := ⟨rfl, fun _ _ h => nomatch h⟩
theorem guardEnd (b : Fin 12) : Statement (.guardEnd b) := ⟨rfl, fun _ _ h => nomatch h⟩
theorem pullInEnd (c : Fin 96) (l0 : Nat) : Statement (.pullInEnd c l0) := ⟨rfl, fun _ _ h => nomatch h⟩
theorem fastDecayEnd (c : Fin 96) (energy : Nat) : Statement (.fastDecayEnd c energy) := ⟨rfl, fun _ _ h => nomatch h⟩
theorem decayEnd (c : Fin 96) (energy : Nat) : Statement (.decayEnd c energy) := ⟨rfl, fun _ _ h => nomatch h⟩
theorem openingSignature (c : Fin 96) (g : SigIn) : Statement (.openingSignature c g) := ⟨rfl, fun _ _ h => nomatch h⟩
theorem closingSignature (c : Fin 96) (g : SigIn) (energy : Nat) : Statement (.closingSignature c g energy) := ⟨rfl, fun _ _ h => nomatch h⟩
theorem openingSearchEnd (c : Fin 96) : Statement (.openingSearchEnd c) := ⟨rfl, fun _ _ h => nomatch h⟩
theorem boostLimit (avgMw : Nat) : Statement (.boostLimit avgMw) := ⟨rfl, fun _ _ h => nomatch h⟩
theorem vbstSag (vbst : Nat) : Statement (.vbstSag vbst) := ⟨rfl, fun _ _ h => nomatch h⟩
theorem returnSuspended (vbat : Nat) : Statement (.returnSuspended vbat) := ⟨rfl, fun _ _ h => nomatch h⟩
theorem recoveryDivert (vbst : Nat) : Statement (.recoveryDivert vbst) := ⟨rfl, fun _ _ h => nomatch h⟩
theorem openLoad (c : Fin 96) (ma : Nat) : Statement (.openLoad c ma) := ⟨rfl, fun _ _ h => nomatch h⟩
theorem offStateTest (c : Fin 96) (low : Bool) (excessMa : Nat) : Statement (.offStateTest c low excessMa) := ⟨rfl, fun _ _ h => nomatch h⟩
theorem overcurrent (c : Fin 96) : Statement (.overcurrent c) := ⟨rfl, fun _ _ h => nomatch h⟩
theorem overload (c : Fin 96) (meanMa : Nat) : Statement (.overload c meanMa) := ⟨rfl, fun _ _ h => nomatch h⟩
theorem stageHot (c : Fin 96) (t : Int) : Statement (.stageHot c t) := ⟨rfl, fun _ _ h => nomatch h⟩
theorem feedOc (b : Fin 12) : Statement (.feedOc b) := ⟨rfl, fun _ _ h => nomatch h⟩
theorem retryRelease (t : RetryTarget) : Statement (.retryRelease t) := ⟨rfl, fun _ _ h => nomatch h⟩
theorem coilResistanceMeasure (c : Fin 96) (r first second : Nat) : Statement (.coilResistanceMeasure c r first second) := ⟨rfl, fun _ _ h => nomatch h⟩
theorem coilCooled (c : Fin 96) : Statement (.coilCooled c) := ⟨rfl, fun _ _ h => nomatch h⟩
theorem bankReconnectTestEnd (b : Fin 12) (short : Option (Fin 8)) : Statement (.bankReconnectTestEnd b short) := ⟨rfl, fun _ _ h => nomatch h⟩
theorem bankBoundary (b : Fin 12) : Statement (.bankBoundary b) := ⟨rfl, fun _ _ h => nomatch h⟩
theorem gridOpening (c : Fin 96) : Statement (.gridOpening c) := ⟨rfl, fun _ _ h => nomatch h⟩
theorem gridClosing (c : Fin 96) : Statement (.gridClosing c) := ⟨rfl, fun _ _ h => nomatch h⟩
theorem finePeriodStart (g : Fin 8) : Statement (.finePeriodStart g) := ⟨rfl, fun _ _ h => nomatch h⟩
theorem gateTransition (g : Fin 8) (rising : Bool) (cross : Option Nat) : Statement (.gateTransition g rising cross) := ⟨rfl, fun _ _ h => nomatch h⟩
theorem trigOutPulse (j : Fin 4) : Statement (.trigOutPulse j) := ⟨rfl, fun _ _ h => nomatch h⟩
theorem trigOutPulseEnd (j : Fin 4) : Statement (.trigOutPulseEnd j) := ⟨rfl, fun _ _ h => nomatch h⟩
theorem loopEvaluation (k : Fin 16) : Statement (.loopEvaluation k) := ⟨rfl, fun _ _ h => nomatch h⟩
theorem deadlineMiss (k : Fin 16) : Statement (.deadlineMiss k) := ⟨rfl, fun _ _ h => nomatch h⟩
theorem flowImbalance (j : Fin 4) : Statement (.flowImbalance j) := ⟨rfl, fun _ _ h => nomatch h⟩
theorem encoderTransition (i : Fin 4) (ba : BitVec 2) : Statement (.encoderTransition i ba) := ⟨rfl, fun _ _ h => nomatch h⟩
theorem index (i : Fin 4) (ba : BitVec 2) : Statement (.index i ba) := ⟨rfl, fun _ _ h => nomatch h⟩
theorem hallTransition (i : Fin 4) (wvu : BitVec 3) : Statement (.hallTransition i wvu) := ⟨rfl, fun _ _ h => nomatch h⟩
theorem hallIllegal (i : Fin 4) : Statement (.hallIllegal i) := ⟨rfl, fun _ _ h => nomatch h⟩
theorem freqEdge (i : Fin 16) : Statement (.freqEdge i) := ⟨rfl, fun _ _ h => nomatch h⟩
theorem eventEdge (i : Fin 8) (falling : Bool) : Statement (.eventEdge i falling) := ⟨rfl, fun _ _ h => nomatch h⟩
theorem analogConversion (i : Fin 32) (mv : BitVec 16) : Statement (.analogConversion i mv) := ⟨rfl, fun _ _ h => nomatch h⟩
theorem emuOutputStep (x : Fin 2) : Statement (.emuOutputStep x) := ⟨rfl, fun _ _ h => nomatch h⟩
theorem inrushStep (c : Fin 16) : Statement (.inrushStep c) := ⟨rfl, fun _ _ h => nomatch h⟩
theorem lswOpenLoad (c : Fin 16) (present : Bool) : Statement (.lswOpenLoad c present) := ⟨rfl, fun _ _ h => nomatch h⟩
theorem lswShortBat (c : Fin 16) (present : Bool) : Statement (.lswShortBat c present) := ⟨rfl, fun _ _ h => nomatch h⟩
theorem lswShort (c : Fin 16) : Statement (.lswShort c) := ⟨rfl, fun _ _ h => nomatch h⟩
theorem lswOverload (c : Fin 16) : Statement (.lswOverload c) := ⟨rfl, fun _ _ h => nomatch h⟩
theorem lswOvertemp (c : Fin 16) (t : Int) : Statement (.lswOvertemp c t) := ⟨rfl, fun _ _ h => nomatch h⟩
theorem thermLatchRelease (c : Fin 16) (t : Int) : Statement (.thermLatchRelease c t) := ⟨rfl, fun _ _ h => nomatch h⟩
theorem aggregate (meanMa : Nat) : Statement (.aggregate meanMa) := ⟨rfl, fun _ _ h => nomatch h⟩
theorem aggregateShedStep (meanMa : Nat) : Statement (.aggregateShedStep meanMa) := ⟨rfl, fun _ _ h => nomatch h⟩
theorem lswRetryDue (c : Fin 16) : Statement (.lswRetryDue c) := ⟨rfl, fun _ _ h => nomatch h⟩
theorem lswPulseOpening (c : Fin 16) : Statement (.lswPulseOpening c) := ⟨rfl, fun _ _ h => nomatch h⟩
theorem lswPulseClosing (c : Fin 16) : Statement (.lswPulseClosing c) := ⟨rfl, fun _ _ h => nomatch h⟩
theorem offAfterExpiry (c : Fin 16) : Statement (.offAfterExpiry c) := ⟨rfl, fun _ _ h => nomatch h⟩
theorem keyoffHoldEnd (c : Fin 16) : Statement (.keyoffHoldEnd c) := ⟨rfl, fun _ _ h => nomatch h⟩
theorem warn (z : Fin 10) (sensor : Fin 20) (t : Int) : Statement (.warn z sensor t) := ⟨rfl, fun _ _ h => nomatch h⟩
theorem throttle (z : Fin 10) (sensor : Fin 20) (t : Int) : Statement (.throttle z sensor t) := ⟨rfl, fun _ _ h => nomatch h⟩
theorem sensorBroken (z : Fin 10) (sensor : Fin 20) : Statement (.sensorBroken z sensor) := ⟨rfl, fun _ _ h => nomatch h⟩
theorem rateTrip (z : Fin 10) (sensor : Fin 20) (t : Int) : Statement (.rateTrip z sensor t) := ⟨rfl, fun _ _ h => nomatch h⟩
theorem shutdown (z : Fin 10) (sensor : Fin 20) (t : Int) : Statement (.shutdown z sensor t) := ⟨rfl, fun _ _ h => nomatch h⟩
theorem canFrameReceive (x : Fin 3) (f : CanFrame) : Statement (.canFrameReceive x f) := ⟨rfl, fun _ _ h => nomatch h⟩
theorem canTxStart (x : Fin 3) : Statement (.canTxStart x) := ⟨rfl, fun _ _ h => nomatch h⟩
theorem canTxEnd (x : Fin 3) (r : TxResult) : Statement (.canTxEnd x r) := ⟨rfl, fun _ _ h => nomatch h⟩
theorem canDeadlineExpiry (x : Fin 3) (slot : Fin 32) : Statement (.canDeadlineExpiry x slot) := ⟨rfl, fun _ _ h => nomatch h⟩
theorem busoffRecoveryComplete (x : Fin 3) : Statement (.busoffRecoveryComplete x) := ⟨rfl, fun _ _ h => nomatch h⟩
theorem busRejoin (x : Fin 3) : Statement (.busRejoin x) := ⟨rfl, fun _ _ h => nomatch h⟩
theorem addressClaim : Statement .addressClaim := ⟨rfl, fun _ _ h => nomatch h⟩
theorem addressClaimTimer : Statement .addressClaimTimer := ⟨rfl, fun _ _ h => nomatch h⟩
theorem sync : Statement .sync := ⟨rfl, fun _ _ h => nomatch h⟩
theorem allOffRepeat : Statement .allOffRepeat := ⟨rfl, fun _ _ h => nomatch h⟩
theorem reportWaitExpiry : Statement .reportWaitExpiry := ⟨rfl, fun _ _ h => nomatch h⟩
theorem rowNodeLost (n : Fin 32) : Statement (.rowNodeLost n) := ⟨rfl, fun _ _ h => nomatch h⟩
theorem scrub (errs : List EccIn) : Statement (.scrub errs) := ⟨rfl, fun _ _ h => nomatch h⟩
theorem dirtyWriteback : Statement .dirtyWriteback := ⟨rfl, fun _ _ h => nomatch h⟩
theorem maskBuilt : Statement .maskBuilt := ⟨rfl, fun _ _ h => nomatch h⟩
theorem loadTimeout : Statement .loadTimeout := ⟨rfl, fun _ _ h => nomatch h⟩
theorem exportTimeout : Statement .exportTimeout := ⟨rfl, fun _ _ h => nomatch h⟩
theorem logSeal : Statement .logSeal := ⟨rfl, fun _ _ h => nomatch h⟩
theorem trackRecord : Statement .trackRecord := ⟨rfl, fun _ _ h => nomatch h⟩
theorem latencySave : Statement .latencySave := ⟨rfl, fun _ _ h => nomatch h⟩
theorem activationPrepared : Statement .activationPrepared := ⟨rfl, fun _ _ h => nomatch h⟩
theorem trialPassed (i : Fin 5) : Statement (.trialPassed i) := ⟨rfl, fun _ _ h => nomatch h⟩
theorem serviceSessionExpiry : Statement .serviceSessionExpiry := ⟨rfl, fun _ _ h => nomatch h⟩
theorem tamper : Statement .tamper := ⟨rfl, fun _ _ h => nomatch h⟩
theorem safeInRelease : Statement .safeInRelease := ⟨rfl, fun _ _ h => nomatch h⟩
theorem badOpcode (op : BitVec 16) (e : Env) : Statement (.badOpcode op e) := ⟨rfl, fun h => absurd rfl (h _ _)⟩
theorem imageVerified : Statement .imageVerified := ⟨rfl, fun _ _ h => nomatch h⟩
theorem stageHotRelease (c : Fin 96) (t : Int) : Statement (.stageHotRelease c t) := ⟨rfl, fun _ _ h => nomatch h⟩
theorem pullInComplete (c : Fin 24) : Statement (.pullInComplete c) := ⟨rfl, fun _ _ h => nomatch h⟩
theorem phaseLock (c : Fin 24) (mean : Int) : Statement (.phaseLock c mean) := ⟨rfl, fun _ _ h => nomatch h⟩
theorem receiveError (x : Fin 3) (recUp : Nat) : Statement (.receiveError x recUp) := ⟨rfl, fun _ _ h => nomatch h⟩
theorem acqIdleGate : Statement .acqIdleGate := ⟨rfl, fun _ _ h => nomatch h⟩

end Sys2Proof.Laws.Request
end

