-- ==== Sys2Proof/Laws/Requests.lean ====
section
/-! SUPPORT. What a request that passes the port's checks meets: the state it executes in, and its end. -/

set_option Elab.async false

namespace Sys2Proof.Machine

/-! ### One port -/

@[simp] theorem portOf_modPort (p : Port) (f : PortSt → PortSt) (s : State) : portOf (modPort p f s) p = f (portOf s p) := by
  simp only [portOf, modPort, State.onHost_host, vmod, Fin.getElem_fin, Vector.getElem_set_self]

theorem modPort_only_host (p : Port) (f : PortSt → PortSt) (s : State) : Only [.host] s (modPort p f s) := modPort_only ..

@[simp] theorem awaiting_modPort (p : Port) (f : PortSt → PortSt) (s : State) : (modPort p f s).host.awaiting = s.host.awaiting := rfl

/-! ### Checks do not disturb what they check -/

theorem validHeader_port (e : Env) (s : State) : ∃ ns nl lp, portOf (validHeader e s) e.port =
    { portOf s e.port with linkArmed := true, linkFrom := s.pm, linkLost := false,
                           noticeCredits := min 255 ((portOf s e.port).noticeCredits + e.grant.toNat), notices := ns,
                           noticesLost := nl, lostPm := lp } := by
  unfold validHeader
  extract_lets lost s1
  split
  · have h := ((endFault_noted 0x1A (portIx e.port).val s1).trans (notice_noted .host 0x06 (portIx e.port).val [] _)).port e.port
    rw [portOf_modPort] at h
    exact ⟨_, _, _, h⟩
  · exact ⟨_, _, _, portOf_modPort ..⟩

theorem validHeader_awaiting (e : Env) (s : State) : (validHeader e s).host.awaiting = s.host.awaiting := by
  unfold validHeader
  extract_lets lost s1
  split
  · have h := ((endFault_noted 0x1A (portIx e.port).val s1).trans (notice_noted .host 0x06 (portIx e.port).val [] _)).host
    exact (congrArg HostSt.awaiting h).trans rfl
  · rfl

theorem stillHeld_validHeader (e : Env) (s : State) : stillHeld e (validHeader e s) = stillHeld e s := by
  obtain ⟨ns, nl, lp, h⟩ := validHeader_port e s
  simp only [stillHeld, h, validHeader_awaiting]

theorem noCredit_validHeader (e : Env) (s : State) : noCredit e.port (validHeader e s) = noCredit e.port s := by
  obtain ⟨ns, nl, lp, h⟩ := validHeader_port e s
  simp only [noCredit, h]

theorem reusesCredit_validHeader (op : BitVec 16) {e : Env} {s : State} (h : replayOf e s = none) :
    reusesCredit op e (validHeader e s) = false := by
  have hr : replayOf e (validHeader e s) = none := by
    obtain ⟨ns, nl, lp, hv⟩ := validHeader_port e s
    simpa only [replayOf, hv] using h
  simp only [reusesCredit, hr, Option.isSome_none, Bool.false_and]

theorem replayOf_takeCredit (e : Env) (s : State) : replayOf e (takeCredit e.port (validHeader e s)) = replayOf e s := by
  obtain ⟨ns, nl, lp, h⟩ := validHeader_port e s
  simp only [replayOf, takeCredit, portOf_modPort, h]

theorem replayOf_passTag (e : Env) (n : Nat) (s : State) : replayOf e (passTag e n s) = replayOf e s := by
  simp only [replayOf, passTag, portOf_modPort]

theorem sessionOf_takeCredit (e : Env) (s : State) : sessionOf e (takeCredit e.port (validHeader e s)) = sessionOf e s := by
  obtain ⟨ns, nl, lp, h⟩ := validHeader_port e s
  simp only [sessionOf, takeCredit, portOf_modPort, h]

theorem tagCounter_takeCredit (op : BitVec 16) (e : Env) (s : State) :
    tagCounter op e (takeCredit e.port (validHeader e s)) = tagCounter op e s := by
  simp only [tagCounter, sessionOf_takeCredit, replayOf_takeCredit]

/-- What admitting a request may change. -/
theorem admitted_only (e : Env) (n : Nat) (s : State) : Only [.sys, .pd0, .host] s (admitted e n s) :=
  ((((Only.refl _ s).andThen (validHeader_only ..) (by decide)).andThen (takeCredit_only ..) (by decide)).andThen
    (passTag_only ..) (by decide)).andThen (checkSeq_only ..) (by decide)

theorem mustWait_passTag (op : BitVec 16) (e : Env) (n : Nat) (s : State) :
    mustWait op (passTag e n (takeCredit e.port (validHeader e s))) = mustWait op s := by
  have h : (passTag e n (takeCredit e.port (validHeader e s))).safe = s.safe :=
    ((((Only.refl [.sys, .pd0, .host] s).andThen (validHeader_only ..) (by decide)).andThen (takeCredit_only ..) (by decide)).andThen
      (passTag_only ..) (by decide)).same .safe (by decide)
  simp only [mustWait, State.restarting, h]

/-- An accepted request executes. -/
theorem receive_accepted {op : BitVec 16} {e : Env} {n : Nat} {s : State} (h : Accepted op e n s) :
    receive op e s = runRequest op e n (admitted e n s) := by
  have hc : noCredit e.port s = false := by
    simpa [noCredit] using h.credit
  obtain ⟨b1, b2, b3, b4⟩ := h.bits
  simp only [receive, h.listens, h.header, checkHeader, b1, b2, b3, b4, h.version, stillHeld_validHeader, h.unheld,
    reusesCredit_validHeader op h.new, noCredit_validHeader, hc, checkBody, h.crc, tagCounter_takeCredit, h.tag, accept, replayOf_passTag, replayOf_takeCredit, h.new,
    mustWait_passTag, h.ready, admitted]
  simp

/-! ### The state in which a request executes -/

@[simp] theorem admitted_pm (e : Env) (n : Nat) (s : State) : (admitted e n s).pm = s.pm := (admitted_only e n s).same .pm (by decide)
@[simp] theorem admitted_free (e : Env) (n : Nat) (s : State) : (admitted e n s).free = s.free := (admitted_only e n s).same .free (by decide)
@[simp] theorem admitted_pwr (e : Env) (n : Nat) (s : State) : (admitted e n s).pwr = s.pwr := (admitted_only e n s).same .pwr (by decide)
@[simp] theorem admitted_nor (e : Env) (n : Nat) (s : State) : (admitted e n s).nor = s.nor := (admitted_only e n s).same .nor (by decide)
@[simp] theorem admitted_act (e : Env) (n : Nat) (s : State) : (admitted e n s).act = s.act := (admitted_only e n s).same .act (by decide)
@[simp] theorem admitted_shd (e : Env) (n : Nat) (s : State) : (admitted e n s).shd = s.shd := (admitted_only e n s).same .shd (by decide)
@[simp] theorem admitted_safe (e : Env) (n : Nat) (s : State) : (admitted e n s).safe = s.safe := (admitted_only e n s).same .safe (by decide)
@[simp] theorem admitted_time (e : Env) (n : Nat) (s : State) : (admitted e n s).time = s.time := (admitted_only e n s).same .time (by decide)
@[simp] theorem admitted_gnss (e : Env) (n : Nat) (s : State) : (admitted e n s).gnss = s.gnss := (admitted_only e n s).same .gnss (by decide)
@[simp] theorem admitted_pos (e : Env) (n : Nat) (s : State) : (admitted e n s).pos = s.pos := (admitted_only e n s).same .pos (by decide)
@[simp] theorem admitted_impl (e : Env) (n : Nat) (s : State) : (admitted e n s).impl = s.impl := (admitted_only e n s).same .impl (by decide)
@[simp] theorem admitted_fe (e : Env) (n : Nat) (s : State) : (admitted e n s).fe = s.fe := (admitted_only e n s).same .fe (by decide)
@[simp] theorem admitted_map (e : Env) (n : Nat) (s : State) : (admitted e n s).map = s.map := (admitted_only e n s).same .map (by decide)
@[simp] theorem admitted_vdr (e : Env) (n : Nat) (s : State) : (admitted e n s).vdr = s.vdr := (admitted_only e n s).same .vdr (by decide)
@[simp] theorem admitted_pwu (e : Env) (n : Nat) (s : State) : (admitted e n s).pwu = s.pwu := (admitted_only e n s).same .pwu (by decide)
@[simp] theorem admitted_ce (e : Env) (n : Nat) (s : State) : (admitted e n s).ce = s.ce := (admitted_only e n s).same .ce (by decide)
@[simp] theorem admitted_pif (e : Env) (n : Nat) (s : State) : (admitted e n s).pif = s.pif := (admitted_only e n s).same .pif (by decide)
@[simp] theorem admitted_lsw (e : Env) (n : Nat) (s : State) : (admitted e n s).lsw = s.lsw := (admitted_only e n s).same .lsw (by decide)
@[simp] theorem admitted_ths (e : Env) (n : Nat) (s : State) : (admitted e n s).ths = s.ths := (admitted_only e n s).same .ths (by decide)
@[simp] theorem admitted_can (e : Env) (n : Nat) (s : State) : (admitted e n s).can = s.can := (admitted_only e n s).same .can (by decide)
@[simp] theorem admitted_sec (e : Env) (n : Nat) (s : State) : (admitted e n s).sec = s.sec := (admitted_only e n s).same .sec (by decide)

theorem modPort_sys (p : Port) (f : PortSt → PortSt) (s : State) : (modPort p f s).sys = s.sys := rfl
theorem modPort_pd0 (p : Port) (f : PortSt → PortSt) (s : State) : (modPort p f s).pd0 = s.pd0 := rfl

/-- Of the system registers admitting a request touches the notice limiter only. -/
theorem admitted_sys (e : Env) (n : Nat) (s : State) : (admitted e n s).sys = { s.sys with limiter := (admitted e n s).sys.limiter } := by
  have hv : (validHeader e s).sys = { s.sys with limiter := (validHeader e s).sys.limiter } := by
    unfold validHeader
    extract_lets lost s1
    split
    · have h := ((endFault_noted 0x1A (portIx e.port).val s1).trans (notice_noted .host 0x06 (portIx e.port).val [] _)).sys
      exact h
    · rfl
  unfold admitted checkSeq
  extract_lets q gap s1
  have h1 : s1.sys = (validHeader e s).sys := rfl
  split
  · have h := (notice_noted .host 0x02 (portIx e.port).val [] s1).sys
    rw [h1, hv] at h
    exact h
  · rw [h1, hv]

/-- Of the registers of PD0 admitting a request touches the fault log only (LINK_LOST ends). -/
theorem admitted_pd0 (e : Env) (n : Nat) (s : State) : (admitted e n s).pd0 = { s.pd0 with faultLog := (admitted e n s).pd0.faultLog } := by
  have hv : (validHeader e s).pd0 = { s.pd0 with faultLog := (validHeader e s).pd0.faultLog } := by
    unfold validHeader
    extract_lets lost s1
    split
    · have h := ((endFault_noted 0x1A (portIx e.port).val s1).trans (notice_noted .host 0x06 (portIx e.port).val [] _)).pd0
      exact h
    · rfl
  unfold admitted checkSeq
  extract_lets q gap s1
  have h1 : s1.pd0 = (validHeader e s).pd0 := rfl
  split
  · have h := (notice_noted .host 0x02 (portIx e.port).val [] s1).pd0
    rw [h1, hv] at h
    exact h
  · rw [h1, hv]

@[simp] theorem admitted_dev (e : Env) (n : Nat) (s : State) : (admitted e n s).sys.dev = s.sys.dev := by rw [admitted_sys]
@[simp] theorem admitted_mapReady (e : Env) (n : Nat) (s : State) : (admitted e n s).sys.mapReady = s.sys.mapReady := by rw [admitted_sys]
@[simp] theorem admitted_bootCount (e : Env) (n : Nat) (s : State) : (admitted e n s).pd0.bootCount = s.pd0.bootCount := by
  rw [admitted_pd0]
@[simp] theorem admitted_now (e : Env) (n : Nat) (s : State) : (admitted e n s).pd0.now = s.pd0.now := by rw [admitted_pd0]
@[simp] theorem admitted_edgeQ (e : Env) (n : Nat) (s : State) : (admitted e n s).sys.edgeQ = s.sys.edgeQ := by rw [admitted_sys]

/-- No check bad, no status. -/
theorem firstBad_none {l : List (Bool × Status)} (h : ∀ p ∈ l, p.1 = false) : firstBad l = none := by
  induction l with
  | nil => rfl
  | cons a l ih => rw [firstBad, h a List.mem_cons_self]; exact ih fun p hp => h p (List.mem_cons_of_mem _ hp)

/-- No entry named, no status. -/
theorem firstNamed_none {l : List (Option Nat × Status)} (h : ∀ p ∈ l, p.1 = none) : firstNamed l = none := by
  induction l with
  | nil => rfl
  | cons a l ih =>
    obtain ⟨x, st⟩ := a
    have : x = none := h _ List.mem_cons_self
    subst this
    exact ih fun p hp => h p (List.mem_cons_of_mem _ hp)

/-- No entry meets a test. -/
theorem firstEntry_none {p : List Byte → Bool} {l : List (List Byte)} (h : ∀ r ∈ l, p r = false) : firstEntry p l = none := by
  simpa [firstEntry, List.findIdx?_eq_none_iff] using h

/-! ### The end -/

/-- An accepted request that its opcode's gate lets through, and whose reply does not wait, ends as `finish` says. -/
theorem receive_finish {op : BitVec 16} {e : Env} {n : Nat} {s : State} {i : OpInfo} {f : State → State × Answer}
    (h : Accepted op e n s) (ho : opInfo op = some i) (hl : i.len e = true) (hg : gate op i e (admitted e n s) = none)
    (hf : i.run e (admitted e n s) = f (admitted e n s)) (hw : (f (admitted e n s)).2.wait = none) :
    receive op e s = finish op e n s f := by
  have hi : interpret op e (admitted e n s) = f (admitted e n s) := by
    simp only [interpret, ho, hl, hg, hf]
    rfl
  rw [receive_accepted h, runRequest, finish]
  simp only [hi, hw]

/-- The gate is open in the states of the command, outside START and QUARANTINE or where these serve it. -/
theorem gate_open {op : BitVec 16} {i : OpInfo} {e : Env} {n : Nat} {s : State} (hd : s.sys.dev ∈ i.states)
    (hs : s.sys.dev = .start → servedInStart op = true) (hq : s.sys.dev = .quarantine → servedInQuarantine op = true)
    (hw : i.sealedOnly = true → sessionOf e (admitted e n s) ≠ none) : gate op i e (admitted e n s) = none := by
  have h1 : (s.sys.dev == .start && !servedInStart op) = false := by
    cases hx : s.sys.dev == .start with
    | false => rfl
    | true => rw [hs (beq_iff_eq.1 hx)]; rfl
  have h2 : (s.sys.dev == .quarantine && !servedInQuarantine op) = false := by
    cases hx : s.sys.dev == .quarantine with
    | false => rfl
    | true => rw [hq (beq_iff_eq.1 hx)]; rfl
  have h3 : (i.sealedOnly && (sessionOf e (admitted e n s)).isNone) = false := by
    cases hx : i.sealedOnly with
    | false => rfl
    | true =>
      cases hy : sessionOf e (admitted e n s) with
      | none => exact absurd hy (hw hx)
      | some _ => rfl
  have h4 : (!i.states.contains s.sys.dev) = false := by
    rw [List.contains_iff_mem.2 hd]
    rfl
  simp only [gate, admitted_dev, h1, h2, h3, h4]
  rfl

/-- A request row is its opcode received with its envelope (R354). -/
theorem exec_request {i : Instr} {e : Env} {op : BitVec 16} {s : State} (h1 : i.env? = some e) (h2 : i.opcode? = some op) :
    exec i s = .next (receive op e s) := by
  cases i <;> first | (cases h1; done) | (cases h1; cases h2; rfl)

end Sys2Proof.Machine
end

