-- ==== Sys2Proof/Machine/Outputs.lean ====
section
/-! DEFINITION. What the pins and power stages do in a state, as functions of what the state holds: the drive of a valve
channel, the converter, the load switches, the IS pin, PPS_OUT, TRIG_OUT, the emulated encoders (R185, R187, R190 to R193, R196, R202, R285, R286, R297, R42). -/

namespace Sys2Proof.Machine

/-! ### Valve channels (R190 to R193, R196) -/

/-- The drive of a coil (R190). Current limits in 20 mA, hold current in 10 mA, clamp voltage in V. -/
inductive CoilDrive where
  /-- low side, freewheel and clamp off -/
  | off
  /-- low side on from the feed, limited, with slow decay through the freewheel switch (R191) -/
  | feed (limit : Nat)
  /-- battery-equivalent: low side fully on with the feed on VBAT, chopped at `num / den` of the time on VBST (R196) -/
  | equivalent (limit : Option Nat) (num den : Nat)
  /-- regulation at the hold current, chopped at 20 kHz (R192) -/
  | regulate (hold : Nat)
  /-- the current recovered into VBST, clamped, or freewheeling (R193) -/
  | recover
  | clamp (volts : Nat)
  | slow
deriving DecidableEq, Repr

/-- The battery-equivalent drive of a channel: duty V_BAT / V_BST while its feed is on VBST, both as last measured (R196). -/
def equivalentDrive (s : State) (b : Fin 12) (limit : Option Nat) : CoilDrive :=
  if feedOnVbst s b s.pm then .equivalent limit s.vdr.conv.vbat s.vdr.conv.vbst else .equivalent limit 1 1

/-- What drives the coil of channel `c` now. Settle lasts as long as the opening is searched; hold takes a commit at once (R186,
R192). -/
def coilDrive (s : State) (c : Fin 96) : CoilDrive :=
  let h := s.vdr.ch[c]
  match h.st with
  | .off | .pending => .off
  | .pullIn => if h.battery then equivalentDrive s (bankOf c) (some h.onSet.iPull) else .feed h.onSet.iPull
  | .hold =>
    if h.searching then equivalentDrive s (bankOf c) (some (iPull s c.val))
    else if holdFull s c.val then equivalentDrive s (bankOf c) none
    else .regulate (iHold s c.val)
  | .decay => if !h.fast then .slow else if h.recover && !h.clampNow then .recover else .clamp h.offSet.clampV

/-! ### The converter (R202) -/

/-- What the converter does with VBST (R202). -/
inductive ConvFlow where
  | stopped | regulating | returning | discharging
deriving DecidableEq, Repr

/-- It returns energy above target + RETURN_BAND while it may; where it is off and the device has left operation, VBST is
discharged (R202, R203). -/
def convFlow (s : State) : ConvFlow :=
  let v := s.vdr.conv
  if v.on then
    (if returnEn s && !v.returnSusp && decide (vbstTarget s v.vbat + 10 * s.act.fld .vdr 8 8 < v.vbst) then .returning else .regulating)
  else match s.sys.dev with
    | .start | .quarantine | .latched | .safe => .discharging
    | _ => .stopped

/-! ### Load switches (R292, R293) -/

/-- The limit of a channel's current, 0.25 A: that of its inrush step, then I_LIM; none while it is off (R293). -/
def lswLimit (s : State) (c : Fin 16) : Option Int :=
  let l := s.lsw.ls[c]
  match l.st with
  | .inrush => some (inrushLimit l.profile l.step)
  | .on => some l.profile.iLim
  | _ => none

/-- The slew rate of its edges, 0.1 V/µs, and the voltage below ground at which its current decays at turn-off, V (R292, R293). -/
def lswEdges (s : State) (c : Fin 16) : Nat × Nat := (s.lsw.ls[c].profile.slew, s.lsw.ls[c].profile.clamp)

/-! ### IS (R297) -/

/-- The level of the IS pin (R297). -/
inductive IsLevel where
  /-- the channel is off without a fault: at most 10 µA -/
  | idle
  /-- the channel's current divided by 5,000, µA -/
  | sense (ua : Nat)
  /-- at least 5.0 mA -/
  | fault
deriving DecidableEq, Repr

/-- IS while SEL3 to SEL0 name channel `sel`, a path without a clock: that channel's current over 5,000, or the fault
level while it is LATCHED_OFF, has THERM_LATCH set or has ground loss (R297). Currents are held in 10 mA. Marks:
DEDUCED (log 76). -/
def isLevelAt (s : State) (sel : Fin 16) : IsLevel :=
  let l := s.lsw.ls[sel]
  if l.st = .latched ∨ l.thermLatch ∨ l.gndLoss then .fault
  else if l.st = .off then .idle
  else .sense (2 * l.current)

/-- The channel that SEL3 to SEL0 name, as the last FRAME_EDGE brought them. -/
def selChannel (s : State) : Fin 16 := s.lsw.sel.toFin
/-- Marks: DEDUCED (log 76). -/
def isLevel (s : State) : IsLevel := isLevelAt s (selChannel s)

/-! ### Level and supply pins (R462) -/

/-- CANx_STB is high while its controller is off the bus. -/
def canStb (s : State) (x : Fin 3) : Bool := s.can.ctl[x].st == .offBus

/-- VSENS0, VSENS1 and VIO_OUT are on whenever PD11 is powered. -/
def supplyOutputs (s : State) : Bool := s.pwr.domains.getLsbD 11

/-! ### PPS_OUT and the emulated encoders (R42, R43, R285, R286) -/

/-- The level of PPS_OUT: active during a pulse, in the polarity that pulse began with (R42, R43). -/
def ppsPin (s : State) : Bool := if s.time.ppsOut then !s.time.ppsLow else ppsLow s

/-- The level of TRIG_OUTj, in the polarity of POL; a pulse keeps the one it began with (R246). -/
def trigPin (s : State) (j : Fin 4) : Bool := if s.pwu.trig[j].active then !s.pwu.trig[j].low else trigLow s j

/-- A, B and Z of an emulation output: the quadrature state of its steps; Z during state 0b00 of every INDEX_DIV-th cycle;
all low while it does not run (R285, R286). -/
def emuPins (s : State) (x : Fin 2) : Bool × Bool × Bool :=
  let m := s.pif.emu[x]
  let q := m.steps % 4
  if emuRuns s x then
    (q == 1 || q == 2, q == 2 || q == 3, q == 0 && emuIndexDiv s x != 0 && m.steps / 4 % emuIndexDiv s x == 0)
  else (false, false, false)

end Sys2Proof.Machine
end

