-- ==== Sys2Proof/Tests/Slice0.lean ====
section
/-! SUPPORT. The model's own tests: for each statement with hypotheses a state and operands that meet them, for each check of
WellFormed a term it refuses, and a few results the spec's worked examples give. -/

set_option Elab.async false
set_option linter.unusedVariables false

namespace Sys2Proof.Tests

open Sys2Proof.Machine

/-- A running device in STANDBY. -/
def w0 : State :=
  { State.reset with
    running := true, pm := 100000000000
    sys := { dev := .standby, hostAlive := true, bootStage := 4, mapReady := true, imagesOk := true, powered := true, selftested := true }
    pwr := { State.reset.pwr with domains := 0xFFF, vkey := true, vbatOk := true }
    pd0 := { State.reset.pd0 with now := 100000000000, fresh := false }
    can := { State.reset.can with ctl := Vector.replicate 3 { st := .active } } }

def inDev (d : DevState) (s : State) : State := s.onSys fun y => { y with dev := d }

/-- A field of an active parameter block set. -/
def withP (b : Block) (lo w v : Nat) (s : State) : State := s.onAct fun p => p.setImage b (setBits (p.image b) lo w v)

/-- A request with its payload and both CRCs right. -/
def mkReq (op : BitVec 16) (p : List Byte) : Env :=
  let e : Env := { payload := p, payCrc := BitVec.ofNat 32 (payloadCrc p) }
  { e with hdrCrc := BitVec.ofNat 16 (crc16 (requestHeader op e)) }

/-- A request with its header CRC right. -/
def fixHdr (op : BitVec 16) (e : Env) : Env := { e with hdrCrc := BitVec.ofNat 16 (crc16 (requestHeader op e)) }

/-- A request with its header CRC right and tagged under the key zero with counter 0. -/
def sealUp (op : BitVec 16) (e : Env) : Env :=
  { e with hdrCrc := BitVec.ofNat 16 (crc16 (requestHeader op e)), tag := frankTag 0 0 0 (requestHeader op e) e.payload }

/-- A request sealed in session 1. -/
def mkSealed (op : BitVec 16) (p : List Byte) : Env :=
  sealUp op { sealedBit := true, session := 1, payload := p, payCrc := BitVec.ofNat 32 (payloadCrc p) }

theorem sealUp_tag (op : BitVec 16) (e : Env) :
    (sealUp op e).tag = frankTag 0 0 0 (requestHeader op (sealUp op e)) (sealUp op e).payload := by
  have h (x : BitVec 16) (t : BitVec 128) : requestHeader op { e with hdrCrc := x, tag := t } = requestHeader op e := rfl
  exact (congrArg (fun l => frankTag 0 0 0 l e.payload) (h _ _)).symm

/-- A device whose SPI port holds session 1. -/
def withSession (s : State) : State := modPort .spi (fun q => { q with session := some { id := 1 } }) s

/-- A device with an active implement set. -/
def withSet (s : State) : State :=
  s.onImpl fun v => { v with active := some v.shadow }

/-- A shadow implement set whose translation tables rise. -/
def withTables (s : State) : State :=
  s.onImpl fun v => { v with shadow := { v.shadow with tt := v.shadow.tt.map fun _ => BitVec.ofNat 128 (2 ^ 32 + 2 ^ 65 + 3 * 2 ^ 96) } }

theorem tag_right (op : BitVec 16) (e : Env) (s : State) (x : Session) (h : e.sealedBit = true) (hs : sessionOf e s = some x)
    (hr : replayOf e s = none) (ht : e.tag = frankTag x.key 0 (nextCounter x.rxLast e.seq) (requestHeader op e) e.payload) :
    tagCounter op e s = some (nextCounter x.rxLast e.seq) := by
  simp [tagCounter, h, hs, hr, ht]

theorem tag_sealed (op : BitVec 16) (p : List Byte) (s : State) (hs : sessionOf (mkSealed op p) s = some { id := 1 })
    (hr : replayOf (mkSealed op p) s = none) : tagCounter op (mkSealed op p) s = some 0 :=
  tag_right op _ s { id := 1 } rfl hs hr (sealUp_tag op _)

theorem crc32Step_lt {c : Nat} (h : c < 2 ^ 32) : crc32Step c < 2 ^ 32 := by
  unfold crc32Step
  split
  · exact Nat.xor_lt_two_pow (by omega) (by decide)
  · omega

theorem crc32Byte_lt {c : Nat} (b : Byte) (h : c < 2 ^ 32) : crc32Byte c b < 2 ^ 32 := by
  unfold crc32Byte
  iterate 8 apply crc32Step_lt
  exact Nat.xor_lt_two_pow h (Nat.lt_trans b.isLt (by decide))

theorem crc32Fold_lt (bs : List Byte) : ∀ {c : Nat}, c < 2 ^ 32 → bs.foldl crc32Byte c < 2 ^ 32 := by
  induction bs with
  | nil => intro c h; exact h
  | cons b bs ih => intro c h; exact ih (crc32Byte_lt b h)

theorem mkReq_crc (op : BitVec 16) (p : List Byte) : payloadCrc p = (mkReq op p).payCrc.toNat := by
  have h : payloadCrc p < 2 ^ 32 := by
    unfold payloadCrc
    split
    · decide
    · exact Nat.xor_lt_two_pow (crc32Fold_lt p (by decide)) (by decide)
  exact (Nat.mod_eq_of_lt h).symm

/-- The checks of `Accepted` that evaluate: all but the payload CRC and the tag. -/
def fits (op : BitVec 16) (e : Env) (s : State) : Bool :=
  portListens s e.port && !headerBad op e && !e.noticeBit && !e.moreBit && e.rsvdA == 0 && e.rsvdB == 0 && e.version == 1 &&
    (portOf s e.port).credits != 0 && !stillHeld e s && (replayOf e s).isNone && !mustWait op s

theorem accepted_of {op : BitVec 16} {e : Env} {n : Nat} {s : State} (h : fits op e s = true)
    (hc : payloadCrc e.payload = e.payCrc.toNat) (ht : tagCounter op e s = some n) : Accepted op e n s := by
  simp only [fits, Bool.and_eq_true, Bool.not_eq_true', beq_iff_eq, bne_iff_ne, Option.isNone_iff_eq_none] at h
  obtain ⟨⟨⟨⟨⟨⟨⟨⟨⟨⟨hl, hh⟩, hn⟩, hm⟩, ha⟩, hb⟩, hv⟩, hk⟩, hs⟩, hr⟩, hw⟩ := h
  exact ⟨hl, hh, ⟨hn, hm, ha, hb⟩, hv, hk, hc, ht, hs, hr, hw⟩

/-- A device with an import under way, and the request that ends it. -/
def anImport : Load := { header := streamHeader 3 0 0 0 0 {} 0 0 0 }
def importing : State := w0.onMap fun y => { y with load := some anImport }
def importEnd : Env := mkReq 0x0303 []

theorem ok_of {α β : Type} {x : Except α β} (h : x.isOk = true) : ∃ t, x = .ok t := by
  cases x with
  | error a => cases h
  | ok t => exact ⟨t, rfl⟩

theorem import_ends : ∃ t, importResult anImport (admitted importEnd 0 importing) = .ok t := ok_of (by decide +kernel)

/-! ### Every completion row is met somewhere -/

theorem test_meets_SystemRequestsExecute :
    (∃ e n s, Accepted 0x0000 e n s ∧ e.payload.length = 0 ∧ s.sys.dev ∈ inAll) ∧
    (∃ e n s, Accepted 0x0001 e n s ∧ e.payload.length = 0 ∧ s.sys.dev ∈ inAll) ∧
    (∃ e n s, Accepted 0x0002 e n s ∧ e.payload.length = 0 ∧ s.sys.dev ∈ inQBAMCFL) ∧
    (∃ e n s, Accepted 0x0003 e n s ∧ e.payload.length = 0 ∧ s.sys.dev ∈ inAll) ∧
    (∃ e n s, Accepted 0x0004 e n s ∧ e.payload.length = 0 ∧ s.sys.dev ∈ [.standby, .manual] ∧ s.sys.mapReady = true ∧ mayDrive (admitted e n s) = true ∧ s.act.fld .fe 0 2 ≤ 1) ∧
    (∃ e n s, Accepted 0x0005 e n s ∧ e.payload.length = 0 ∧ s.sys.dev ∈ [.standby, .armed] ∧ (s.sys.dev = .standby → mayDrive (admitted e n s) = true)) ∧
    (∃ e n s, Accepted 0x0006 e n s ∧ e.payload.length = 0 ∧ s.sys.dev ∈ [.armed, .manual]) ∧
    (∃ e n s, Accepted 0x0007 e n s ∧ e.payload.length = 0 ∧ s.sys.dev ∈ [.safe] ∧ persistCause (admitted e n s) = none) ∧
    (∃ e n s, Accepted 0x0008 e n s ∧ e.payload.length = 0 ∧ s.sys.dev ∈ [.quarantine]) ∧
    (∃ (e : Env) (n : Nat) (s : State) (k : Fin 16) (b : Sub) (inst : Nat), Accepted 0x0009 e n s ∧ e.payload.length = 8 ∧ s.sys.dev ∈ inBAMCF ∧ k.val = arg e 0 4 ∧ b = ({ enable := argB e 4, item := arg e 8 8, first := arg e 16 8, count := arg e 24 8, decim := arg e 32 16 } : Sub) ∧ arg e 5 3 = 0 ∧ arg e 48 16 = 0 ∧ (∃ m, itemShape b.item = some (m, inst)) ∧ 0 < b.item ∧ b.item ≤ 0x0D ∧ 0 < b.count ∧ b.count ≤ 96 ∧ b.first + b.count ≤ inst ∧ 0 < b.decim ∧ (e.port = .uart → uartOverrun (s.act.fld .host 8 24) (vlist ((subsAhead (admitted e n s) .uart).set k b)) = false)) ∧
    (∃ e n s, Accepted 0x000A e n s ∧ e.payload.length = 4 ∧ s.sys.dev ∈ inBAMF ∧ arg e 0 32 = 0) ∧
    (∃ e n s, Accepted 0x000A e n s ∧ e.payload.length = 4 ∧ s.sys.dev ∈ inBAMF ∧ 60 ≤ arg e 0 32 ∧ arg e 0 32 ≤ 2592000) :=
  ⟨⟨(mkReq 0x0000 ([])), (0), (w0),
   accepted_of (by decide +kernel) (by decide +kernel) (by decide +kernel),
   by decide +kernel⟩,
   ⟨(mkReq 0x0001 ([])), (0), (w0),
   accepted_of (by decide +kernel) (by decide +kernel) (by decide +kernel),
   by decide +kernel⟩,
   ⟨(mkReq 0x0002 ([])), (0), (w0),
   accepted_of (by decide +kernel) (by decide +kernel) (by decide +kernel),
   by decide +kernel⟩,
   ⟨(mkReq 0x0003 ([])), (0), (w0),
   accepted_of (by decide +kernel) (by decide +kernel) (by decide +kernel),
   by decide +kernel⟩,
   ⟨(mkReq 0x0004 ([])), (0), (withSet (w0)),
   accepted_of (by decide +kernel) (by decide +kernel) (by decide +kernel),
   by decide +kernel⟩,
   ⟨(mkReq 0x0005 ([])), (0), (withSet (w0)),
   accepted_of (by decide +kernel) (by decide +kernel) (by decide +kernel),
   by decide +kernel⟩,
   ⟨(mkReq 0x0006 ([])), (0), (inDev .armed (w0)),
   accepted_of (by decide +kernel) (by decide +kernel) (by decide +kernel),
   by decide +kernel⟩,
   ⟨(mkReq 0x0007 ([])), (0), (inDev .safe (w0)),
   accepted_of (by decide +kernel) (by decide +kernel) (by decide +kernel),
   by decide +kernel⟩,
   ⟨(mkReq 0x0008 ([])), (0), (inDev .quarantine (w0)),
   accepted_of (by decide +kernel) (by decide +kernel) (by decide +kernel),
   by decide +kernel⟩,
   ⟨(mkReq 0x0009 ([0x11, 1, 0, 1, 1, 0, 0, 0])), (0), (w0), (1), ({ enable := true, item := 1, first := 0, count := 1, decim := 1 }), (1),
   accepted_of (by decide +kernel) (by decide +kernel) (by decide +kernel),
   by decide +kernel,
   by decide +kernel,
   by decide +kernel,
   by decide +kernel,
   by decide +kernel,
   by decide +kernel,
   ⟨96, rfl⟩,
   by decide +kernel,
   by decide +kernel,
   by decide +kernel,
   by decide +kernel,
   by decide +kernel,
   by decide +kernel,
   fun h => by cases h⟩,
   ⟨(mkReq 0x000A ([0, 0, 0, 0])), (0), (w0),
   accepted_of (by decide +kernel) (by decide +kernel) (by decide +kernel),
   by decide +kernel⟩,
   ⟨(mkReq 0x000A ([60, 0, 0, 0])), (0), (w0),
   accepted_of (by decide +kernel) (by decide +kernel) (by decide +kernel),
   by decide +kernel⟩⟩

theorem test_meets_ParameterRequestsExecute :
    (∃ e n s b, Accepted 0x0100 e n s ∧ e.payload.length = 6 ∧ s.sys.dev ∈ inBAMCFL ∧ paramBlock (arg e 0 8) = some b ∧ arg e 9 7 = 0 ∧ 0 < arg e 32 16 ∧ arg e 32 16 ≤ 4084 ∧ arg e 16 16 + arg e 32 16 ≤ pbBytes b) ∧
    (∃ e n s b lo hi fs new, Accepted 0x0101 e n s ∧ 4 < e.payload.length ∧ e.payload.length ≤ 4096 ∧ s.sys.dev ∈ inBAMCF ∧ paramBlock (arg e 0 8) = some b ∧ arg e 8 8 = 0 ∧ lo = 8 * arg e 16 16 ∧ hi = 8 * (arg e 16 16 + (e.payload.length - 4)) ∧ fs = ((fieldsOf b).filter fun f => f.meets lo hi) ∧ (∀ f ∈ fs, f.within lo hi = true) ∧ new = copyFields (fs.filter fun f => f.acc == .ro) (s.shd.image b) (setBits (s.shd.image b) lo (8 * (e.payload.length - 4)) (leNat (e.payload.drop 4))) ∧ bits (setBits (s.shd.image b) lo (8 * (e.payload.length - 4)) (leNat (e.payload.drop 4))) lo (8 * (e.payload.length - 4)) &&& (innerReserved b >>> lo ||| ((fieldMask fs >>> lo) ^^^ (2 ^ (8 * (e.payload.length - 4)) - 1))) = 0 ∧ (∀ f ∈ fs, f.acc ≠ .ro → f.undefinedIn new = false ∧ f.outside new = false) ∧ arg e 16 16 + (e.payload.length - 4) ≤ pbBytes b ∧ (sealedWorldReq e (admitted e n s) = false → ∀ f ∈ fs, f.acc = .rws → f.differs (s.shd.image b) new = false)) ∧
    (∃ e n s, Accepted 0x0102 e n s ∧ e.payload.length = 4 ∧ s.sys.dev ∈ inBAMF ∧ arg e 0 32 ≠ 0 ∧ maskBad (arg e 0 32) = false ∧ (∀ b ∈ maskBlocks (arg e 0 32), commitWaits (admitted e n s) b = false ∧ standbyBad (admitted e n s) b = false ∧ blockCheck e (admitted e n s) b = none) ∧ (∃ b ∈ maskBlocks (arg e 0 32), b ≠ .host)) ∧
    (∃ e n s, Accepted 0x0102 e n s ∧ e.payload.length = 4 ∧ s.sys.dev ∈ inBAMF ∧ maskBad (arg e 0 32) = false ∧ maskBlocks (arg e 0 32) = [.host] ∧ arg e 0 32 ≠ 0 ∧ commitWaits (admitted e n s) .host = false ∧ standbyBad (admitted e n s) .host = false ∧ blockCheck e (admitted e n s) .host = none) ∧
    (∃ e n s, Accepted 0x0103 e n s ∧ e.payload.length = 4 ∧ s.sys.dev ∈ inBAMCF ∧ maskBad (arg e 0 32) = false) :=
  ⟨⟨(mkReq 0x0100 ([8, 0, 0, 0, 4, 0])), (0), (w0), _,
   accepted_of (by decide +kernel) (by decide +kernel) (by decide +kernel),
   by decide +kernel,
   by decide +kernel,
   rfl,
   by decide +kernel⟩,
   ⟨(mkReq 0x0101 ([8, 0, 0, 0, 96])), (0), (w0), _, _, _, _, _,
   accepted_of (by decide +kernel) (by decide +kernel) (by decide +kernel),
   by decide +kernel,
   by decide +kernel,
   by decide +kernel,
   rfl,
   by decide +kernel,
   rfl,
   rfl,
   rfl,
   by decide +kernel,
   rfl,
   by decide +kernel⟩,
   ⟨(mkReq 0x0102 ([0, 1, 0, 0])), (0), (w0),
   accepted_of (by decide +kernel) (by decide +kernel) (by decide +kernel),
   by decide +kernel⟩,
   ⟨(mkReq 0x0102 ([0, 128, 0, 0])), (0), (w0),
   accepted_of (by decide +kernel) (by decide +kernel) (by decide +kernel),
   by decide +kernel⟩,
   ⟨(mkReq 0x0103 ([2, 0, 0, 0])), (0), (w0),
   accepted_of (by decide +kernel) (by decide +kernel) (by decide +kernel),
   by decide +kernel⟩⟩

theorem test_meets_ImplementRequestsExecute :
    (∃ e n s, Accepted 0x0200 e n s ∧ lenImplWrite e = true ∧ s.sys.dev ∈ inBAMF ∧ arg e 24 8 = 0 ∧ arg e 0 8 ≤ 5 ∧ (∀ r ∈ entries e 4 (recSize (arg e 0 8)), ∀ f ∈ recReserved (arg e 0 8), recN r f.1 f.2 = 0) ∧ arg e 8 8 + arg e 16 8 ≤ recCount (arg e 0 8)) ∧
    (∃ e n s i, Accepted 0x0201 e n s ∧ e.payload.length = 4 ∧ s.sys.dev ∈ inBAMCFL ∧ arg e 25 7 = 0 ∧ arg e 0 8 ≤ 5 ∧ arg e 8 8 + arg e 16 8 ≤ recCount (arg e 0 8) ∧ arg e 16 8 * recSize (arg e 0 8) ≤ 4084 ∧ (if argB e 24 then some s.impl.shadow else s.impl.active) = some i) ∧
    (∃ e n s, Accepted 0x0202 e n s ∧ e.payload.length = 0 ∧ s.sys.dev ∈ inBAM ∧ implWaiting (admitted e n s) = false ∧ implCheck (admitted e n s) = none) ∧
    (∃ e n s, Accepted 0x0203 e n s ∧ e.payload.length = 0 ∧ s.sys.dev ∈ inBAMF) :=
  ⟨⟨(mkReq 0x0200 ([1, 0, 1, 0] ++ List.replicate 8 0)), (0), (w0),
   accepted_of (by decide +kernel) (by decide +kernel) (by decide +kernel),
   by decide +kernel⟩,
   ⟨(mkReq 0x0201 ([1, 0, 1, 1])), (0), (w0), _,
   accepted_of (by decide +kernel) (by decide +kernel) (by decide +kernel),
   by decide +kernel,
   by decide +kernel,
   by decide +kernel,
   by decide +kernel,
   by decide +kernel,
   by decide +kernel,
   rfl⟩,
   ⟨(mkReq 0x0202 ([])), (0), (withTables (w0)),
   accepted_of (by decide +kernel) (by decide +kernel) (by decide +kernel),
   by decide +kernel⟩,
   ⟨(mkReq 0x0203 ([])), (0), (w0),
   accepted_of (by decide +kernel) (by decide +kernel) (by decide +kernel),
   by decide +kernel⟩⟩

theorem test_meets_MapRequestsExecute :
    (∃ e n s, Accepted 0x0300 e n s ∧ e.payload.length = 0 ∧ s.sys.dev ∈ inBAMCFL) ∧
    (∃ e n s, Accepted 0x0301 e n s ∧ e.payload.length = 64 ∧ s.sys.dev ∈ inBAMF ∧ loadBeginBad e (admitted e n s) = none) ∧
    (∃ e n s l, Accepted 0x0302 e n s ∧ 4 < e.payload.length ∧ e.payload.length ≤ 4096 ∧ s.sys.dev ∈ inBAMCF ∧ s.sys.mapReady = true ∧ s.map.load = some l ∧ l.ending = false ∧ arg e 0 32 = l.data.length) ∧
    (∃ e n s l t, Accepted 0x0303 e n s ∧ e.payload.length = 0 ∧ s.sys.dev ∈ inBAMF ∧ s.sys.mapReady = true ∧ s.map.load = some l ∧ l.ending = false ∧ importAllowed l.header s = true ∧ importResult l (admitted e n s) = .ok t) ∧
    (∃ e n s, Accepted 0x0304 e n s ∧ e.payload.length = 0 ∧ s.sys.dev ∈ inBAMCF ∧ s.sys.mapReady = true ∧ s.map.load.isSome = true) ∧
    (∃ e n s kind layer dirty keys h, Accepted 0x0305 e n s ∧ e.payload.length = 4 ∧ s.sys.dev ∈ inBAMF ∧ s.sys.mapReady = true ∧ s.map.exp = none ∧ arg e 11 21 = 0 ∧ kind = arg e 0 8 ∧ layer = arg e 8 2 ∧ dirty = argB e 10 ∧ 0 < kind ∧ kind ≤ 4 ∧ (dirty = true → kind = 1) ∧ keys = exportKeys (admitted e n s) kind layer dirty ∧ h = streamHeader kind (if kind = 1 ∨ kind = 2 then layer else 0) (if kind = 1 then depthOf s layer - 1 else 0) 0 (streamCell (admitted e n s) kind layer) (originOf s) keys.length (nextEdge s.pm) s.pd0.bootCount) ∧
    (∃ e n s x starts ks x1, Accepted 0x0306 e n s ∧ e.payload.length = 6 ∧ s.sys.dev ∈ inBAMCF ∧ s.sys.mapReady = true ∧ s.map.exp = some x ∧ x.fixed = true ∧ 0 < arg e 32 16 ∧ arg e 32 16 ≤ 4084 ∧ arg e 0 32 + arg e 32 16 ≤ (x.edgeTiles.map List.length).sum ∧ starts = recordStarts (x.edgeTiles.map List.length) 0 ∧ ks = ((List.range starts.length).filter fun k => match starts[k]? with | some (o, l) => decide (o < arg e 0 32 + arg e 32 16) && decide (arg e 0 32 < o + l) | none => false) ∧ x1 = ({ x with lastPm := s.pm, copied := copyTiles { x with edgeTiles := (readTiles x ks (admitted e n s)).2 } (edgeOf s.pm) ks } : Exp)) ∧
    (∃ e n s x, Accepted 0x0307 e n s ∧ e.payload.length = 8 ∧ s.sys.dev ∈ inBAMCF ∧ s.sys.mapReady = true ∧ s.map.exp = some x ∧ (arg e 0 64 = 0 ∨ arg e 0 64 = x.created)) ∧
    (∃ e n s, Accepted 0x0308 e n s ∧ e.payload.length = 4 ∧ s.sys.dev ∈ inBAMF ∧ s.sys.mapReady = true ∧ arg e 10 22 = 0 ∧ 0 < arg e 0 8 ∧ arg e 0 8 ≤ 3 ∧ (s.sys.dev = .standby ∨ arg e 0 8 = 2)) ∧
    (∃ e n s b, Accepted 0x0309 e n s ∧ e.payload.length = 4 ∧ s.sys.dev ∈ inBAMCFL ∧ s.sys.mapReady = true ∧ (if arg e 0 32 = 0xFFFFFFFF then s.map.ring.find? fun b => !b.acked else s.map.ring.find? fun b => b.seq == arg e 0 32) = some b) ∧
    (∃ e n s, Accepted 0x030A e n s ∧ e.payload.length = 4 ∧ s.sys.dev ∈ inBAMCFL ∧ s.sys.mapReady = true ∧ (∃ b ∈ s.map.ring, b.seq = arg e 0 32)) :=
  ⟨⟨(mkReq 0x0300 ([])), (0), (w0),
   accepted_of (by decide +kernel) (by decide +kernel) (by decide +kernel),
   by decide +kernel⟩,
   ⟨(mkReq 0x0301 (streamHeader 3 0 0 0 0 {} 0 0 0)), (0), ((fun s => s.onPos fun y => { y with origin := some {} }) (w0)),
   accepted_of (by decide +kernel) (by decide +kernel) (by decide +kernel),
   by decide +kernel⟩,
   ⟨(mkReq 0x0302 ([0, 0, 0, 0, 1])), (0), ((fun s => s.onMap fun y => { y with load := some { header := streamHeader 3 0 0 0 0 {} 0 0 0 } }) (w0)), ({ header := streamHeader 3 0 0 0 0 {} 0 0 0 }),
   accepted_of (by decide +kernel) (by decide +kernel) (by decide +kernel),
   by decide +kernel⟩,
   (match import_ends with
   | ⟨t, ht⟩ => ⟨(importEnd), (0), (importing), (anImport), (t),
   accepted_of (by decide +kernel) (by decide +kernel) (by decide +kernel),
   by decide +kernel,
   by decide +kernel,
   by decide +kernel,
   by decide +kernel,
   by decide +kernel,
   by decide +kernel,
   ht⟩),
   ⟨(mkReq 0x0304 ([])), (0), ((fun s => s.onMap fun y => { y with load := some { header := streamHeader 3 0 0 0 0 {} 0 0 0 } }) (w0)),
   accepted_of (by decide +kernel) (by decide +kernel) (by decide +kernel),
   by decide +kernel⟩,
   ⟨(mkReq 0x0305 ([4, 0, 0, 0])), (0), (w0), _, _, _, _, _,
   accepted_of (by decide +kernel) (by decide +kernel) (by decide +kernel),
   by decide +kernel,
   by decide +kernel,
   by decide +kernel,
   by decide +kernel,
   by decide +kernel,
   rfl,
   rfl,
   rfl,
   by decide +kernel,
   by decide +kernel,
   by decide +kernel,
   rfl,
   rfl⟩,
   ⟨(mkReq 0x0306 ([0, 0, 0, 0, 1, 0])), (0), ((fun s => s.onMap fun y => { y with exp := some { fixed := true, edgeTiles := [[1]] } }) (w0)), ({ fixed := true, edgeTiles := [[1]] }), _, _, _,
   accepted_of (by decide +kernel) (by decide +kernel) (by decide +kernel),
   by decide +kernel,
   by decide +kernel,
   by decide +kernel,
   by decide +kernel,
   by decide +kernel,
   by decide +kernel,
   by decide +kernel,
   by decide +kernel,
   rfl,
   rfl,
   rfl⟩,
   ⟨(mkReq 0x0307 (List.replicate 8 0)), (0), ((fun s => s.onMap fun y => { y with exp := some { fixed := true, edgeTiles := [[1]] } }) (w0)), ({ fixed := true, edgeTiles := [[1]] }),
   accepted_of (by decide +kernel) (by decide +kernel) (by decide +kernel),
   by decide +kernel⟩,
   ⟨(mkReq 0x0308 ([2, 0, 0, 0])), (0), (w0),
   accepted_of (by decide +kernel) (by decide +kernel) (by decide +kernel),
   by decide +kernel⟩,
   ⟨(mkReq 0x0309 ([1, 0, 0, 0])), (0), ((fun s => s.onMap fun y => { y with ring := [{ seq := 1 }] }) (w0)), ({ seq := 1 }),
   accepted_of (by decide +kernel) (by decide +kernel) (by decide +kernel),
   by decide +kernel⟩,
   ⟨(mkReq 0x030A ([1, 0, 0, 0])), (0), ((fun s => s.onMap fun y => { y with ring := [{ seq := 1 }] }) (w0)),
   accepted_of (by decide +kernel) (by decide +kernel) (by decide +kernel),
   by decide +kernel⟩⟩

theorem test_meets_FieldAndActuationRequestsExecute :
    (∃ e n s l, Accepted 0x0400 e n s ∧ lenItems 0 16 1 16 e = true ∧ s.sys.dev ∈ [.standby, .armed] ∧ feMode s = 1 ∧ takeDirected (admitted e n s) e.firstPm 0 (entries e 0 16) s.fe.waiting = .ok l) ∧
    (∃ e n s, Accepted 0x0401 e n s ∧ e.payload.length = 4 ∧ s.sys.dev ∈ [.standby, .armed]) ∧
    (∃ e n s, Accepted 0x0500 e n s ∧ lenItems 0 16 1 32 e = true ∧ s.sys.dev = .manual ∧ (∀ r ∈ entries e 0 16, recN r 73 23 = 0 ∧ recN r 120 8 = 0 ∧ recN r 64 8 ≤ 159 ∧ recN r 0 64 ≤ e.firstPm + 800000000 ∧ (96 ≤ recN r 64 8 → enabledCtx s (recN r 64 8) = true)) ∧ firstRepeat (fun r => recN r 0 72) [] 0 (entries e 0 16) = none ∧ firstShort (admitted e n s) (Vector.replicate 12 0) 0 (entries e 0 16) = none) ∧
    (∃ e n s, Accepted 0x0501 e n s ∧ lenItems 0 4 1 96 e = true ∧ s.sys.dev = .manual ∧ (∀ r ∈ entries e 0 4, recN r 8 8 = 0 ∧ recN r 0 8 ≤ 95) ∧ firstRepeat (fun r => recN r 0 8) [] 0 (entries e 0 4) = none) ∧
    (∃ (e : Env) (n : Nat) (s : State) (g : Fin 8), Accepted 0x0502 e n s ∧ e.payload.length = 8 ∧ s.sys.dev ∈ inBAM ∧ g.val = arg e 0 3 ∧ arg e 3 29 = 0 ∧ loopDrives s 1 g.val = false) ∧
    (∃ e n s c, Accepted 0x0503 e n s ∧ e.payload.length = 2 ∧ s.sys.dev ∈ inBMF ∧ arg e 0 8 = 0 ∧ idx? 96 (arg e 8 8) = some c) ∧
    (∃ e n s b, Accepted 0x0503 e n s ∧ e.payload.length = 2 ∧ s.sys.dev ∈ inBMF ∧ arg e 0 8 = 1 ∧ idx? 12 (arg e 8 8) = some b ∧ s.vdr.bank[b].reconnect = none ∧ s.vdr.bank[b].isolated = 0) ∧
    (∃ e n s b, Accepted 0x0503 e n s ∧ e.payload.length = 2 ∧ s.sys.dev ∈ inBMF ∧ arg e 0 8 = 1 ∧ idx? 12 (arg e 8 8) = some b ∧ s.vdr.bank[b].reconnect = none ∧ s.vdr.bank[b].isolated ≠ 0) :=
  ⟨⟨(mkReq 0x0400 (List.replicate 16 0)), (0), (withP .fe 0 2 1 (w0)), _,
   accepted_of (by decide +kernel) (by decide +kernel) (by decide +kernel),
   by decide +kernel,
   by decide +kernel,
   by decide +kernel,
   rfl⟩,
   ⟨(mkReq 0x0401 ([1, 0, 0, 0])), (0), (w0),
   accepted_of (by decide +kernel) (by decide +kernel) (by decide +kernel),
   by decide +kernel⟩,
   ⟨(mkReq 0x0500 (List.replicate 16 0)), (0), (inDev .manual (w0)),
   accepted_of (by decide +kernel) (by decide +kernel) (by decide +kernel),
   by decide +kernel⟩,
   ⟨(mkReq 0x0501 (List.replicate 4 0)), (0), (inDev .manual (w0)),
   accepted_of (by decide +kernel) (by decide +kernel) (by decide +kernel),
   by decide +kernel⟩,
   ⟨(mkReq 0x0502 (List.replicate 8 0)), (0), (w0), (0),
   accepted_of (by decide +kernel) (by decide +kernel) (by decide +kernel),
   by decide +kernel⟩,
   ⟨(mkReq 0x0503 ([0, 5])), (0), (w0), (5),
   accepted_of (by decide +kernel) (by decide +kernel) (by decide +kernel),
   by decide +kernel⟩,
   ⟨(mkReq 0x0503 ([1, 5])), (0), (w0), (5),
   accepted_of (by decide +kernel) (by decide +kernel) (by decide +kernel),
   by decide +kernel⟩,
   ⟨(mkReq 0x0503 ([1, 5])), (0), (modBank 5 (fun x => { x with isolated := 1 }) (w0)), (5),
   accepted_of (by decide +kernel) (by decide +kernel) (by decide +kernel),
   by decide +kernel⟩⟩

theorem test_meets_ControlRequestsExecute :
    (∃ e n s k, Accepted 0x0600 e n s ∧ e.payload.length = 8 ∧ s.sys.dev ∈ inBAMF ∧ idx? 16 (arg e 0 4) = some k ∧ arg e 4 28 = 0) ∧
    (∃ e n s k, Accepted 0x0601 e n s ∧ e.payload.length = 8 ∧ s.sys.dev ∈ inBAM ∧ idx? 16 (arg e 0 4) = some k ∧ arg e 4 28 = 0 ∧ -65536 ≤ argS e 32 32 ∧ argS e 32 32 ≤ 65536 ∧ loopMode s (arg e 0 4) = 2) ∧
    (∃ e n s k, Accepted 0x0602 e n s ∧ lenCeTable e = true ∧ s.sys.dev ∈ inBAMF ∧ idx? 16 (arg e 0 4) = some k ∧ arg e 5 27 = 0) ∧
    (∃ e n s k, Accepted 0x0603 e n s ∧ e.payload.length = 4 ∧ s.sys.dev ∈ inBAMCFL ∧ idx? 16 (arg e 0 4) = some k ∧ arg e 6 26 = 0) ∧
    (∃ e n s k, Accepted 0x0604 e n s ∧ e.payload.length = 1 ∧ s.sys.dev ∈ inBAMF ∧ idx? 16 (arg e 0 4) = some k ∧ arg e 4 4 = 0) :=
  ⟨⟨(mkReq 0x0600 ([3, 0, 0, 0, 0, 0, 1, 0])), (0), (w0), (3),
   accepted_of (by decide +kernel) (by decide +kernel) (by decide +kernel),
   by decide +kernel⟩,
   ⟨(mkReq 0x0601 ([3, 0, 0, 0, 0, 0, 1, 0])), (0), (withP .ce 3072 2 2 (w0)), (3),
   accepted_of (by decide +kernel) (by decide +kernel) (by decide +kernel),
   by decide +kernel⟩,
   ⟨(mkReq 0x0602 (3 :: List.replicate 259 0)), (0), (w0), (3),
   accepted_of (by decide +kernel) (mkReq_crc _ _) (by decide +kernel),
   by decide +kernel⟩,
   ⟨(mkReq 0x0603 ([3, 0, 0, 0])), (0), (w0), (3),
   accepted_of (by decide +kernel) (by decide +kernel) (by decide +kernel),
   by decide +kernel⟩,
   ⟨(mkReq 0x0604 ([3])), (0), (w0), (3),
   accepted_of (by decide +kernel) (by decide +kernel) (by decide +kernel),
   by decide +kernel⟩⟩

theorem test_meets_TimeAndPositionRequestsExecute :
    (∃ e n s, Accepted 0x0700 e n s ∧ e.payload.length = 0 ∧ s.sys.dev ∈ inBAMCF) ∧
    (∃ e n s st, Accepted 0x0701 e n s ∧ e.payload.length = 8 ∧ s.sys.dev ∈ inBAMCF ∧ s.time.step = some st ∧ st.held = true ∧ argS e 0 64 = -st.err) ∧
    (∃ e n s, Accepted 0x0702 e n s ∧ 0 < e.payload.length ∧ e.payload.length ≤ 4096 ∧ s.sys.dev ∈ inBAMCF ∧ s.gnss.rtcmBuf.length + e.payload.length ≤ 8192) ∧
    (∃ e n s, Accepted 0x0703 e n s ∧ e.payload.length = 0 ∧ s.sys.dev ∈ inBAMCF) ∧
    (∃ e n s, Accepted 0x0704 e n s ∧ e.payload.length = 0 ∧ s.sys.dev ∈ inBAMCF) :=
  ⟨⟨(mkReq 0x0700 ([])), (0), (w0),
   accepted_of (by decide +kernel) (by decide +kernel) (by decide +kernel),
   by decide +kernel⟩,
   ⟨(mkReq 0x0701 (List.replicate 8 0)), (0), ((fun s => s.onTime fun y => { y with step := some { held := true } }) (w0)), ({ held := true }),
   accepted_of (by decide +kernel) (by decide +kernel) (by decide +kernel),
   by decide +kernel⟩,
   ⟨(mkReq 0x0702 ([1])), (0), (w0),
   accepted_of (by decide +kernel) (by decide +kernel) (by decide +kernel),
   by decide +kernel⟩,
   ⟨(mkReq 0x0703 ([])), (0), (w0),
   accepted_of (by decide +kernel) (by decide +kernel) (by decide +kernel),
   by decide +kernel⟩,
   ⟨(mkReq 0x0704 ([])), (0), (w0),
   accepted_of (by decide +kernel) (by decide +kernel) (by decide +kernel),
   by decide +kernel⟩⟩

theorem test_meets_IoRequestsExecute :
    (∃ e n s, Accepted 0x0800 e n s ∧ lenItems 0 4 1 16 e = true ∧ s.sys.dev ∈ inBAMF ∧ (∀ r ∈ entries e 0 4, recN r 6 10 = 0) ∧ noDup ((entries e 0 4).map fun r => recN r 0 4) = true ∧ (∀ r ∈ entries e 0 4, recN r 5 1 = 1 → loopDrives s 3 (recN r 0 4) = false)) ∧
    (∃ e n s c, Accepted 0x0801 e n s ∧ e.payload.length = 1 ∧ s.sys.dev ∈ inBAMF ∧ idx? 16 (arg e 0 4) = some c ∧ arg e 4 4 = 0) ∧
    (∃ e n s i, Accepted 0x0802 e n s ∧ e.payload.length = 8 ∧ s.sys.dev ∈ inBAMF ∧ arg e 3 29 = 0 ∧ idx? 8 (arg e 0 3) = some i) ∧
    (∃ e n s i, Accepted 0x0803 e n s ∧ e.payload.length = 2 ∧ s.sys.dev ∈ inBAMCF ∧ arg e 3 5 = 0 ∧ 0 < arg e 8 8 ∧ arg e 8 8 ≤ 32 ∧ idx? 8 (arg e 0 3) = some i ∧ evtNotify s i = false) :=
  ⟨⟨(mkReq 0x0800 (List.replicate 4 0)), (0), (w0),
   accepted_of (by decide +kernel) (by decide +kernel) (by decide +kernel),
   by decide +kernel⟩,
   ⟨(mkReq 0x0801 ([3])), (0), (w0), (3),
   accepted_of (by decide +kernel) (by decide +kernel) (by decide +kernel),
   by decide +kernel⟩,
   ⟨(mkReq 0x0802 (List.replicate 8 0)), (0), (w0), (0),
   accepted_of (by decide +kernel) (by decide +kernel) (by decide +kernel),
   by decide +kernel⟩,
   ⟨(mkReq 0x0803 ([0, 1])), (0), (withP .pif 1290 1 0 (w0)), (0),
   accepted_of (by decide +kernel) (by decide +kernel) (by decide +kernel),
   by decide +kernel⟩⟩

theorem test_meets_BusRequestsExecute :
    (∃ e n s x, Accepted 0x0900 e n s ∧ e.payload.length = 12 ∧ s.sys.dev ∈ inBAMCF ∧ ctlOf e = some x ∧ arg e 2 6 = 0 ∧ arg e 16 16 = 0 ∧ arg e 93 3 = 0 ∧ phReserved s x (arg e 8 8) = false) ∧
    (∃ e n s x, Accepted 0x0901 e n s ∧ e.payload.length = 2 ∧ s.sys.dev ∈ inBAMCF ∧ ctlOf e = some x ∧ arg e 2 6 = 0) ∧
    (∃ (e : Env) (n : Nat) (s : State) (x : Fin 3) (k : Fin 32), Accepted 0x0902 e n s ∧ e.payload.length = 84 ∧ s.sys.dev ∈ inBAMCF ∧ ctlOf e = some x ∧ k.val = arg e 8 5 ∧ arg e 2 6 = 0 ∧ arg e 13 19 = 0 ∧ bits (arg e 32 640) 41 23 = 0 ∧ (x = 0 → bitN (arg e 32 640) 30 = false) ∧ (bitN (arg e 32 640) 30 = false → bits (arg e 32 640) 32 4 ≤ 8) ∧ slotReserved s x k.val = false ∧ canEnable s x = true ∧ listen s x = false ∧ s.can.ctl[x].slots[k].st = .free) ∧
    (∃ (e : Env) (n : Nat) (s : State) (x : Fin 3) (k : Fin 32), Accepted 0x0903 e n s ∧ e.payload.length = 2 ∧ s.sys.dev ∈ inBAMCF ∧ ctlOf e = some x ∧ k.val = arg e 8 5 ∧ arg e 2 6 = 0 ∧ arg e 13 3 = 0 ∧ s.can.ctl[x].slots[k].st = .pending) ∧
    (∃ (e : Env) (n : Nat) (s : State) (x : Fin 3) (k : Fin 32), Accepted 0x0903 e n s ∧ e.payload.length = 2 ∧ s.sys.dev ∈ inBAMCF ∧ ctlOf e = some x ∧ k.val = arg e 8 5 ∧ arg e 2 6 = 0 ∧ arg e 13 3 = 0 ∧ s.can.ctl[x].slots[k].st = .active) ∧
    (∃ e n s x, Accepted 0x0904 e n s ∧ e.payload.length = 1 ∧ s.sys.dev ∈ inBAMCF ∧ ctlOf e = some x ∧ arg e 2 6 = 0 ∧ s.can.ctl[x].st = .busOff ∧ busoffAuto s x = false) :=
  ⟨⟨(mkReq 0x0900 (List.replicate 12 0)), (0), (w0), (0),
   accepted_of (by decide +kernel) (by decide +kernel) (by decide +kernel),
   by decide +kernel⟩,
   ⟨(mkReq 0x0901 ([0, 1])), (0), (w0), (0),
   accepted_of (by decide +kernel) (by decide +kernel) (by decide +kernel),
   by decide +kernel⟩,
   ⟨(mkReq 0x0902 (List.replicate 84 0)), (0), (withP .can 0 1 1 (w0)), (0), (0),
   accepted_of (by decide +kernel) (by decide +kernel) (by decide +kernel),
   by decide +kernel⟩,
   ⟨(mkReq 0x0903 ([0, 0])), (0), (modSlot 0 0 (fun l => { l with st := .pending }) (w0)), (0), (0),
   accepted_of (by decide +kernel) (by decide +kernel) (by decide +kernel),
   by decide +kernel⟩,
   ⟨(mkReq 0x0903 ([0, 0])), (0), (modSlot 0 0 (fun l => { l with st := .active }) (w0)), (0), (0),
   accepted_of (by decide +kernel) (by decide +kernel) (by decide +kernel),
   by decide +kernel⟩,
   ⟨(mkReq 0x0904 ([1])), (0), (withP .can 260 1 0 (modCtl 1 (fun c => { c with st := .busOff }) (w0))), (1),
   accepted_of (by decide +kernel) (by decide +kernel) (by decide +kernel),
   by decide +kernel⟩⟩

theorem test_meets_SecurityRequestsExecute :
    (∃ e n s, Accepted 0x0A00 e n s ∧ e.payload.length = 16 ∧ s.sys.dev ∈ inQBAMCF ∧ ownerClaimed (admitted e n s) = true) ∧
    (∃ e n s, Accepted 0x0A01 e n s ∧ e.payload.length = 0 ∧ s.sys.dev ∈ inQBAMCF ∧ sessionOf e (admitted e n s) ≠ none) ∧
    (∃ e n s, Accepted 0x0A02 e n s ∧ e.payload.length = 0 ∧ s.sys.dev ∈ [.quarantine, .standby] ∧ ¬(serviceLock (admitted e n s) = true ∧ ownerClaimed (admitted e n s) = true)) ∧
    (∃ e n s nonce t h r, Accepted 0x0A03 e n s ∧ e.payload.length = 68 ∧ s.sys.dev ∈ [.quarantine, .standby] ∧ arg e 4 28 = 0 ∧ s.sec.nonce = some (nonce, t) ∧ h = Config.sha256 (leBytes 16 nonce.toNat ++ leBytes 16 s.sec.deviceId.toNat ++ leBytes 4 (arg e 0 32)) ∧ s.pm < t + 4800000000 ∧ r = openSession e.port (some (BitVec.ofNat 32 (arg e 0 32))) nonce ((admitted e n s).onSec fun v => { v with nonce := none })) ∧
    (∃ e n s, Accepted 0x0A04 e n s ∧ e.payload.length = 16 ∧ s.sys.dev ∈ inQBAMCFL) ∧
    (∃ e n s i, Accepted 0x0A05 e n s ∧ e.payload.length = 8 ∧ s.sys.dev ∈ inQBAMF ∧ idx? 5 (arg e 0 3) = some i ∧ arg e 3 29 = 0 ∧ arg e 32 32 ≤ bankSize i ∧ s.sec.load = none ∧ s.sec.verifying = none ∧ s.sec.image[i].trial = false) ∧
    (∃ e n s l, Accepted 0x0A06 e n s ∧ 4 < e.payload.length ∧ e.payload.length ≤ 4096 ∧ s.sys.dev ∈ inQBAMCF ∧ s.sec.load = some l ∧ arg e 0 32 = l.data.length ∧ l.data.length + (e.payload.length - 4) ≤ l.size) ∧
    (∃ e n s l i, Accepted 0x0A07 e n s ∧ e.payload.length = 0 ∧ s.sys.dev ∈ inQBAMF ∧ s.sec.load = some l ∧ idx? 5 l.image = some i) ∧
    (∃ e n s, Accepted 0x0A08 e n s ∧ e.payload.length = 4 ∧ s.sys.dev ∈ inBAM ∧ sessionOf e (admitted e n s) ≠ none ∧ arg e 5 27 = 0 ∧ (liveEn s = true ∨ s.sys.dev = .standby) ∧ (∀ i : Fin 5, named (arg e 0 5) i.val = true → s.sec.image[i].other.verified = true) ∧ s.sec.activation = none ∧ (∀ l, s.sec.load = some l → named (arg e 0 5) l.image = false) ∧ consistent ((List.finRange 5).map fun i => if named (arg e 0 5) i.val then s.sec.image[i].other else s.sec.image[i].run) = true) ∧
    (∃ e n s, Accepted 0x0A08 e n s ∧ e.payload.length = 4 ∧ s.sys.dev = .quarantine ∧ sessionOf e (admitted e n s) ≠ none ∧ arg e 5 27 = 0 ∧ (∀ i : Fin 5, named (arg e 0 5) i.val = true → s.sec.image[i].other.verified = true) ∧ s.sec.activation = none ∧ (∀ l, s.sec.load = some l → named (arg e 0 5) l.image = false) ∧ consistent ((List.finRange 5).map fun i => if named (arg e 0 5) i.val then s.sec.image[i].other else s.sec.image[i].run) = true) ∧
    (∃ e n s, Accepted 0x0A09 e n s ∧ e.payload.length = 0 ∧ s.sys.dev ∈ inQBAMCFL) ∧
    (∃ e n s sh, Accepted 0x0B00 e n s ∧ e.payload.length = 3 ∧ s.sys.dev ∈ inBAMCFL ∧ itemShape (arg e 0 8) = some sh ∧ arg e 0 8 ≠ 0x0D ∧ 0 < arg e 16 8 ∧ arg e 8 8 + arg e 16 8 ≤ sh.2 ∧ arg e 16 8 * sh.1 ≤ 4084) :=
  ⟨⟨(mkReq 0x0A00 (List.replicate 16 0)), (0), (withP .sec 0 256 1 (w0)),
   accepted_of (by decide +kernel) (by decide +kernel) (by decide +kernel),
   by decide +kernel⟩,
   ⟨(mkSealed 0x0A01 ([])), (0), (withSession w0),
   accepted_of (by decide +kernel) (by decide +kernel) (tag_sealed _ _ _ (by decide +kernel) (by decide +kernel)),
   by decide +kernel⟩,
   ⟨(mkReq 0x0A02 ([])), (0), (w0),
   accepted_of (by decide +kernel) (by decide +kernel) (by decide +kernel),
   by decide +kernel⟩,
   ⟨(mkReq 0x0A03 (List.replicate 68 0)), (0), ((fun s => s.onSec fun y => { y with nonce := some (0, 100000000000) }) (w0)), (0), (100000000000), _, _,
   accepted_of (by decide +kernel) (by decide +kernel) (by decide +kernel),
   by decide +kernel,
   by decide +kernel,
   by decide +kernel,
   by decide +kernel,
   rfl,
   by decide +kernel,
   rfl⟩,
   ⟨(mkReq 0x0A04 (List.replicate 16 0)), (0), (w0),
   accepted_of (by decide +kernel) (by decide +kernel) (by decide +kernel),
   by decide +kernel⟩,
   ⟨(mkReq 0x0A05 (List.replicate 8 0)), (0), (w0), (0),
   accepted_of (by decide +kernel) (by decide +kernel) (by decide +kernel),
   by decide +kernel⟩,
   ⟨(mkReq 0x0A06 ([0, 0, 0, 0, 1])), (0), ((fun s => s.onSec fun y => { y with load := some { image := 0, size := 1 } }) (w0)), ({ image := 0, size := 1 }),
   accepted_of (by decide +kernel) (by decide +kernel) (by decide +kernel),
   by decide +kernel⟩,
   ⟨(mkReq 0x0A07 ([])), (0), ((fun s => s.onSec fun y => { y with load := some { image := 0, size := 1 } }) (w0)), ({ image := 0, size := 1 }), (0),
   accepted_of (by decide +kernel) (by decide +kernel) (by decide +kernel),
   by decide +kernel⟩,
   ⟨(mkSealed 0x0A08 ([1, 0, 0, 0])), (0), (modImage 0 (fun m => { m with bank1 := ImgBank.factory }) (withSession w0)),
   accepted_of (by decide +kernel) (by decide +kernel) (tag_sealed _ _ _ (by decide +kernel) (by decide +kernel)),
   by decide +kernel⟩,
   ⟨(mkSealed 0x0A08 ([1, 0, 0, 0])), (0), (modImage 0 (fun m => { m with bank1 := ImgBank.factory }) (inDev .quarantine (withSession w0))),
   accepted_of (by decide +kernel) (by decide +kernel) (tag_sealed _ _ _ (by decide +kernel) (by decide +kernel)),
   by decide +kernel⟩,
   ⟨(mkReq 0x0A09 ([])), (0), (w0),
   accepted_of (by decide +kernel) (by decide +kernel) (by decide +kernel),
   by decide +kernel⟩,
   ⟨(mkReq 0x0B00 ([1, 0, 1])), (0), (w0), ((96, 1)),
   accepted_of (by decide +kernel) (by decide +kernel) (by decide +kernel),
   by decide +kernel⟩⟩

theorem test_meets_PortEventsExecute :
    (∃ (p : Port) (s : State), portListens s p = true) ∧
    (∃ (p : Port) (s : State), portListens s p = true ∧ 0 < (portOf s p).noticeCredits ∧ ((portOf s p).notices ≠ [] ∨ (portOf s p).noticesLost ≠ 0) ∧ (portOf s p).out.all (fun o => o.body.telemetric) = true) ∧
    (∃ (p : Port) (s : State), portListens s p = true ∧ (portOf s p).linkArmed = true ∧ (portOf s p).linkLost = false ∧ (portOf s p).linkFrom + linkTimeout s p ≤ s.pm ∧ (linkSafe s p = false ∨ s.sys.dev ∉ [.armed, .manual, .coast] ∨ (s.sys.dev = .coast ∧ s.sys.coastFromArmed = false ∧ s.sys.coastFromManual = false))) ∧
    (∃ (p : Port) (s : State), portListens s p = true ∧ (portOf s p).linkArmed = true ∧ (portOf s p).linkLost = false ∧ (portOf s p).linkFrom + linkTimeout s p ≤ s.pm ∧ linkSafe s p = true ∧ (s.sys.dev = .armed ∨ s.sys.dev = .manual ∨ (s.sys.dev = .coast ∧ (s.sys.coastFromArmed = true ∨ s.sys.coastFromManual = true)))) ∧
    (∃ (p : Port) (img : Nat) (s : State), s.host.applyWait = some (p, img) ∧ replyGone s p 0x0102 = true) ∧
    (∃ (p : Port) (s : State), s.host.resetWait = some p ∧ s.sys.dev = .quarantine ∧ replyGone s p 0x0008 = true ∧ (s.running = false ∨ s.pm % 40000 = 0)) ∧
    (∃ (op : BitVec 16) (e : Env) (n : Nat) (s : State), Accepted op e n s ∧ opInfo op = none) :=
  ⟨⟨.spi, w0,
   by decide +kernel⟩,
   ⟨.spi, modPort .spi (fun x => { x with noticeCredits := 1, noticesLost := 1 }) (w0),
   by decide +kernel⟩,
   ⟨.spi, modPort .spi (fun x => { x with linkLost := false }) (modPort .spi (fun x => { x with linkArmed := true }) (w0)),
   by decide +kernel⟩,
   ⟨.spi, inDev .armed (modPort .spi (fun x => { x with linkLost := false }) (modPort .spi (fun x => { x with linkArmed := true }) (w0))),
   by decide +kernel⟩,
   ⟨.spi, 0, (fun s => s.onHost fun x => { x with applyWait := (some (.spi, 0)) }) (w0),
   by decide +kernel⟩,
   ⟨.spi, (fun s => s.onSys fun x => { x with dev := .quarantine }) ((fun s => s.onHost fun x => { x with resetWait := some .spi }) (w0)),
   by decide +kernel⟩,
   ⟨(0x0F00), (mkReq 0x0F00 ([])), (0), (w0),
   accepted_of (by decide +kernel) (by decide +kernel) (by decide +kernel),
   by decide +kernel⟩⟩

theorem test_meets_FramePhasesExecute :
    (∃ (f : Freeze) (e : Nat) (u : State) (s : State), e = edgeOf s.pm ∧ s.running = true ∧ s.sys.dev ≠ .off ∧ (∀ l, s.sys.lastEdge = some l → l < edgeOf s.pm) ∧ u = ((toggleFaultOut (trigSource 7 0 e 0 (bkoError (activationEdge e (settleActivation e (edgeStates e ((lastFrameEnd e s).onSys fun y => { y with lastEdge := some e, phase := some .freeze }))))))).onLsw fun v => { v with sel := f.sel }) ∧ framesRun u = true) ∧
    (∃ (f : Freeze) (e : Nat) (u : State) (s : State), e = edgeOf s.pm ∧ s.running = true ∧ s.sys.dev ≠ .off ∧ (∀ l, s.sys.lastEdge = some l → l < edgeOf s.pm) ∧ u = ((toggleFaultOut (trigSource 7 0 e 0 (bkoError (activationEdge e (settleActivation e (edgeStates e ((lastFrameEnd e s).onSys fun y => { y with lastEdge := some e, phase := some .freeze }))))))).onLsw fun v => { v with sel := f.sel }) ∧ framesRun u = false) ∧
    (∃ (e : Nat) (i : ImplSet) (s : State), s.sys.lastEdge = some e ∧ s.sys.phase = some .freeze ∧ e + 20000 ≤ s.pm ∧ s.pm < e + 32000 ∧ feWorks s e = true ∧ s.impl.active = some i) ∧
    (∃ (e : Nat) (s : State), s.sys.lastEdge = some e ∧ s.sys.phase = some .freeze ∧ e + 20000 ≤ s.pm ∧ s.pm < e + 32000 ∧ feWorks s e = true ∧ s.impl.active = none) ∧
    (∃ (e : Nat) (s : State), s.sys.lastEdge = some e ∧ s.sys.phase = some .freeze ∧ e + 20000 ≤ s.pm ∧ s.pm < e + 32000 ∧ feWorks s e = false) ∧
    (∃ (e : Nat) (b : Batch) (s : State), s.sys.lastEdge = some e ∧ s.sys.phase = some .decision ∧ e + 32000 ≤ s.pm ∧ s.pm < e + 36000 ∧ feWorks s e = true ∧ s.fe.batch = some b) ∧
    (∃ (e : Nat) (agree : Bool) (s : State), s.sys.lastEdge = some e ∧ s.sys.phase = some .decision ∧ e + 32000 ≤ s.pm ∧ s.pm < e + 36000 ∧ feWorks s e = false) ∧
    (∃ (e : Nat) (s : State), s.sys.lastEdge = some e ∧ s.sys.phase = some .decision ∧ e + 32000 ≤ s.pm ∧ s.pm < e + 36000 ∧ feWorks s e = true) ∧
    (∃ (e : Nat) (s : State), s.sys.lastEdge = some e ∧ s.sys.phase ≠ some .logging ∧ e + 36000 ≤ s.pm ∧ s.pm < e + 40000) :=
  ⟨⟨({} : Freeze), _, _, (fun s => { s with running := true }) (w0),
   rfl,
   by decide +kernel,
   by decide +kernel,
   by decide +kernel,
   rfl,
   by decide +kernel⟩,
   ⟨({} : Freeze), _, _, inDev .start ((fun s => { s with running := true }) (w0)),
   rfl,
   by decide +kernel,
   by decide +kernel,
   by decide +kernel,
   rfl,
   by decide +kernel⟩,
   ⟨100000000000, State.reset.impl.shadow, (fun s => s.onFe fun y => { y with work := some 100000000000 }) ((fun s => { s with pm := 100000000000 + 20000 }) ((fun s => s.onImpl fun x => { x with active := (some State.reset.impl.shadow) }) ((fun s => s.onSys fun x => { x with phase := some .freeze }) ((fun s => s.onSys fun x => { x with lastEdge := (some 100000000000) }) (w0))))),
   by decide +kernel⟩,
   ⟨100000000000, (fun s => s.onFe fun y => { y with work := some 100000000000 }) ((fun s => { s with pm := 100000000000 + 20000 }) ((fun s => s.onImpl fun x => { x with active := none }) ((fun s => s.onSys fun x => { x with phase := some .freeze }) ((fun s => s.onSys fun x => { x with lastEdge := (some 100000000000) }) (w0))))),
   by decide +kernel⟩,
   ⟨100000000000, (fun s => { s with pm := 100000000000 + 20000 }) ((fun s => s.onSys fun x => { x with phase := some .freeze }) ((fun s => s.onSys fun x => { x with lastEdge := (some 100000000000) }) (w0))),
   by decide +kernel⟩,
   ⟨100000000000, ({ edge := 100000000000 } : Batch), (fun s => s.onFe fun y => { y with work := some 100000000000 }) ((fun s => { s with pm := 100000000000 + 32000 }) ((fun s => s.onFe fun x => { x with batch := (some ({ edge := 100000000000 } : Batch)) }) ((fun s => s.onSys fun x => { x with phase := some .decision }) ((fun s => s.onSys fun x => { x with lastEdge := (some 100000000000) }) (w0))))),
   by decide +kernel⟩,
   ⟨100000000000, false, (fun s => { s with pm := 100000000000 + 32000 }) ((fun s => s.onSys fun x => { x with phase := some .decision }) ((fun s => s.onSys fun x => { x with lastEdge := (some 100000000000) }) (w0))),
   by decide +kernel⟩,
   ⟨100000000000, (fun s => s.onFe fun y => { y with work := some 100000000000 }) ((fun s => { s with pm := 100000000000 + 32000 }) ((fun s => s.onSys fun x => { x with phase := some .decision }) ((fun s => s.onSys fun x => { x with lastEdge := (some 100000000000) }) (w0)))),
   by decide +kernel⟩,
   ⟨100000000000, (fun s => { s with pm := 100000000000 + 36000 }) ((fun s => s.onSys fun x => { x with lastEdge := (some 100000000000) }) (w0)),
   by decide +kernel⟩⟩

theorem test_meets_SupplyEventsExecute :
    (∃ (s : State), s.sys.dev = .off ∧ s.pwr.vbatOk = true ∧ s.pd0.fresh = false) ∧
    (∃ (s : State), s.sys.dev = .off ∧ s.pwr.vbatOk = true ∧ s.pd0.fresh = true) ∧
    (∃ (s : State), s.sys.dev = .latched ∧ s.pwr.domains = 1) ∧
    (∃ (s : State), (s.sys.dev = .off → s.pwr.vbatOk = false) ∧ (s.sys.dev = .latched → s.pwr.domains ≠ 1)) ∧
    (∃ (s : State), s.pwr.vkey = true) ∧
    (∃ (t0 : Nat) (s : State), s.pwr.vkeyLowAt = some t0 ∧ (s.sys.dev = .standby ∨ s.sys.dev = .quarantine ∨ s.sys.dev = .safe) ∧ t0 + keyOffDelay s ≤ s.pm ∧ s.pm % 40000 = 0) ∧
    (∃ (t0 : Nat) (s : State), s.pd0.wakeAlarm = some t0 ∧ t0 ≤ s.pd0.now ∧ s.sys.dev = .off ∧ s.pwr.vbatOk = true ∧ s.pd0.fresh = false) ∧
    (∃ (t0 : Nat) (s : State), s.pd0.wakeAlarm = some t0 ∧ t0 ≤ s.pd0.now ∧ ¬(s.sys.dev = .off ∧ s.pwr.vbatOk = true)) ∧
    (∃ (s : State), s.sys.dev = .off ∧ s.pwr.vkey = false) ∧
    (∃ (s : State), s.sys.dev = .off ∧ s.pwr.vkey = true ∧ s.pd0.fresh = false) ∧
    (∃ (s : State), s.sys.dev = .off) ∧
    (∃ (s : State), s.sys.dev ≠ .off) ∧
    (∃ (s : State), s.sys.dev = .off) ∧
    (∃ (s : State), s.sys.dev ≠ .off ∧ s.pwr.lowSupply = false) ∧
    (∃ (s : State), s.pwr.lowSupply = true) ∧
    (∃ (s : State), True) ∧
    (∃ (s : State), s.sys.dev ≠ .off ∧ s.pwr.groundLost = false) ∧
    (∃ (s : State), s.sys.dev ≠ .off ∧ s.pwr.groundLost = true) ∧
    (∃ (s : State), s.sys.dev = .off) ∧
    (∃ (s : State), s.pwr.groundLost = true) ∧
    (∃ (s : State), True) ∧
    (∃ (s : State), s.sys.dev ≠ .off ∧ s.pwr.loadDump = false) :=
  ⟨⟨(fun s => s.onPd0 fun x => { x with fresh := false }) ((fun s => s.onPwr fun x => { x with vbatOk := true }) ((fun s => s.onSys fun x => { x with dev := .off }) (w0))),
   by decide +kernel⟩,
   ⟨(fun s => s.onPd0 fun x => { x with fresh := true }) ((fun s => s.onPwr fun x => { x with vbatOk := true }) ((fun s => s.onSys fun x => { x with dev := .off }) (w0))),
   by decide +kernel⟩,
   ⟨(fun s => s.onPwr fun x => { x with domains := 1 }) ((fun s => s.onSys fun x => { x with dev := .latched }) (w0)),
   by decide +kernel⟩,
   ⟨w0,
   by decide +kernel⟩,
   ⟨(fun s => s.onPwr fun x => { x with vkey := true }) (w0),
   by decide +kernel⟩,
   ⟨0, (fun s => s.onPwr fun x => { x with vkeyLowAt := (some 0) }) (w0),
   by decide +kernel⟩,
   ⟨0, (fun s => s.onPd0 fun x => { x with fresh := false }) ((fun s => s.onPwr fun x => { x with vbatOk := true }) ((fun s => s.onSys fun x => { x with dev := .off }) ((fun s => s.onPd0 fun x => { x with wakeAlarm := (some 0) }) (w0)))),
   by decide +kernel⟩,
   ⟨0, (fun s => s.onPd0 fun x => { x with wakeAlarm := (some 0) }) (w0),
   by decide +kernel⟩,
   ⟨(fun s => s.onPwr fun x => { x with vkey := false }) ((fun s => s.onSys fun x => { x with dev := .off }) (w0)),
   by decide +kernel⟩,
   ⟨(fun s => s.onPd0 fun x => { x with fresh := false }) ((fun s => s.onPwr fun x => { x with vkey := true }) ((fun s => s.onSys fun x => { x with dev := .off }) (w0))),
   by decide +kernel⟩,
   ⟨(fun s => s.onSys fun x => { x with dev := .off }) (w0),
   by decide +kernel⟩,
   ⟨w0,
   by decide +kernel⟩,
   ⟨(fun s => s.onSys fun x => { x with dev := .off }) (w0),
   by decide +kernel⟩,
   ⟨(fun s => s.onPwr fun x => { x with lowSupply := false }) (w0),
   by decide +kernel⟩,
   ⟨(fun s => s.onPwr fun x => { x with lowSupply := true }) (w0),
   by decide +kernel⟩,
   ⟨w0,
   trivial⟩,
   ⟨(fun s => s.onPwr fun x => { x with groundLost := false }) (w0),
   by decide +kernel⟩,
   ⟨(fun s => s.onPwr fun x => { x with groundLost := true }) (w0),
   by decide +kernel⟩,
   ⟨(fun s => s.onSys fun x => { x with dev := .off }) (w0),
   by decide +kernel⟩,
   ⟨(fun s => s.onPwr fun x => { x with groundLost := true }) (w0),
   by decide +kernel⟩,
   ⟨w0,
   trivial⟩,
   ⟨(fun s => s.onPwr fun x => { x with loadDump := false }) (w0),
   by decide +kernel⟩⟩

theorem test_meets_StartEventsExecute :
    (∃ (s : State), s.sys.dev = .start ∧ s.running = false ∧ s.sys.bootStage = 1) ∧
    (∃ (v0 : Vector BankVerdict 5) (v1 : Vector BankVerdict 5) (c : List Bool) (s : State), s.sys.dev = .start ∧ s.running = true ∧ s.sys.bootStage = 2 ∧ s.sys.imagesOk = false ∧ s.sys.quarCause = 0 ∧ selectSet (s.onSec fun c => { c with image := vmapIdx c.image fun i m => { m with bank0 := verdict s i m m.bank0 v0[i], bank1 := verdict s i m m.bank1 v1[i] } }) = some c) ∧
    (∃ (v0 : Vector BankVerdict 5) (v1 : Vector BankVerdict 5) (u : State) (s : State), s.sys.dev = .start ∧ s.running = true ∧ s.sys.bootStage = 2 ∧ s.sys.imagesOk = false ∧ s.sys.quarCause = 0 ∧ u = (s.onSec fun c => { c with image := vmapIdx c.image fun i m => { m with bank0 := verdict s i m m.bank0 v0[i], bank1 := verdict s i m m.bank1 v1[i] } }) ∧ selectSet u = none ∧ ¬(u.sec.image[(0 : Fin 5)].other.verified = true ∧ s.pwr.secureTried = false)) ∧
    (∃ (v0 : Vector BankVerdict 5) (v1 : Vector BankVerdict 5) (u : State) (s : State), s.sys.dev = .start ∧ s.running = true ∧ s.sys.bootStage = 2 ∧ s.sys.imagesOk = false ∧ s.sys.quarCause = 0 ∧ u = (s.onSec fun c => { c with image := vmapIdx c.image fun i m => { m with bank0 := verdict s i m m.bank0 v0[i], bank1 := verdict s i m m.bank1 v1[i] } }) ∧ selectSet u = none ∧ u.sec.image[(0 : Fin 5)].other.verified = true ∧ s.pwr.secureTried = false) ∧
    (∃ (s : State), s.sys.dev = .start ∧ s.sys.bootStage = 2 ∧ (s.sys.imagesOk = true ∨ s.sys.quarCause = 2) ∧ s.sys.powered = false ∧ s.pd0.latch = none) ∧
    (∃ (l : ThermLatch) (s : State), s.sys.dev = .start ∧ s.sys.bootStage = 2 ∧ (s.sys.imagesOk = true ∨ s.sys.quarCause = 2) ∧ s.sys.powered = false ∧ s.pd0.latch = some l) ∧
    (∃ (s : State), s.sys.powered = true ∧ s.sys.hostAlive = false) ∧
    (∃ (failed : List Nat) (s : State), s.sys.dev = .start ∧ s.sys.powered = true ∧ s.sys.imagesOk = true ∧ s.pm % 40000 = 0 ∧ s.sys.selftestFail = 0 ∧ failed.filter quarantineTest = []) ∧
    (∃ (failed : List Nat) (s : State), s.sys.dev = .start ∧ s.sys.powered = true ∧ s.sys.imagesOk = true ∧ s.pm % 40000 = 0 ∧ (s.sys.selftestFail ≠ 0 ∨ failed.filter quarantineTest ≠ [])) ∧
    (∃ (d : Fin 12) (s : State), bitN (requiredDomains s) d.val = true ∧ s.pwr.domains.getLsbD d.val = false) ∧
    (∃ (d : Fin 12) (s : State), bitN (requiredDomains s) d.val = false ∧ s.pwr.domains.getLsbD d.val = true) ∧
    (∃ (retired : Vector Nat 3) (s : State), s.sys.bootStage = 4 ∧ s.sys.mapReady = false ∧ s.sys.dev ≠ .latched) :=
  ⟨⟨(fun s => s.onSys fun x => { x with bootStage := 1 }) ((fun s => { s with running := false }) ((fun s => s.onSys fun x => { x with dev := .start }) (w0))),
   by decide +kernel⟩,
   ⟨(Vector.replicate 5 {} : Vector BankVerdict 5), (Vector.replicate 5 {} : Vector BankVerdict 5), [false, false, false, false], (fun s => s.onSys fun x => { x with quarCause := 0 }) ((fun s => s.onSys fun x => { x with imagesOk := false }) ((fun s => s.onSys fun x => { x with bootStage := 2 }) ((fun s => { s with running := true }) ((fun s => s.onSys fun x => { x with dev := .start }) (w0))))),
   by decide +kernel⟩,
   ⟨(Vector.replicate 5 { sigOk := false } : Vector BankVerdict 5), (Vector.replicate 5 { sigOk := false } : Vector BankVerdict 5), _, (fun s => s.onSys fun x => { x with quarCause := 0 }) ((fun s => s.onSys fun x => { x with imagesOk := false }) ((fun s => s.onSys fun x => { x with bootStage := 2 }) ((fun s => { s with running := true }) ((fun s => s.onSys fun x => { x with dev := .start }) (w0))))),
   by decide +kernel,
   by decide +kernel,
   by decide +kernel,
   by decide +kernel,
   by decide +kernel,
   rfl,
   by decide +kernel⟩,
   ⟨(Vector.replicate 5 { sigOk := false } : Vector BankVerdict 5), (Vector.replicate 5 {} : Vector BankVerdict 5), _, (fun s => s.onPwr fun y => { y with secureTried := false }) (modImage 0 (fun m => { m with bank1 := ImgBank.factory }) ((fun s => s.onPwr fun x => { x with secureTried := false }) ((fun s => s.onSys fun x => { x with quarCause := 0 }) ((fun s => s.onSys fun x => { x with imagesOk := false }) ((fun s => s.onSys fun x => { x with bootStage := 2 }) ((fun s => { s with running := true }) ((fun s => s.onSys fun x => { x with dev := .start }) (w0)))))))),
   by decide +kernel,
   by decide +kernel,
   by decide +kernel,
   by decide +kernel,
   by decide +kernel,
   rfl,
   by decide +kernel⟩,
   ⟨(fun s => s.onPd0 fun x => { x with latch := none }) ((fun s => s.onSys fun x => { x with powered := false }) ((fun s => s.onSys fun x => { x with bootStage := 2 }) ((fun s => s.onSys fun x => { x with dev := .start }) (w0)))),
   by decide +kernel⟩,
   ⟨({} : ThermLatch), (fun s => s.onPd0 fun x => { x with latch := (some ({} : ThermLatch)) }) ((fun s => s.onSys fun x => { x with powered := false }) ((fun s => s.onSys fun x => { x with bootStage := 2 }) ((fun s => s.onSys fun x => { x with dev := .start }) (w0)))),
   by decide +kernel⟩,
   ⟨(fun s => s.onSys fun x => { x with hostAlive := false }) ((fun s => s.onSys fun x => { x with powered := true }) (w0)),
   by decide +kernel⟩,
   ⟨[], (fun s => s.onSys fun x => { x with selftestFail := 0 }) ((fun s => s.onSys fun x => { x with imagesOk := true }) ((fun s => s.onSys fun x => { x with powered := true }) ((fun s => s.onSys fun x => { x with dev := .start }) (w0)))),
   by decide +kernel⟩,
   ⟨[], (fun s => s.onSys fun y => { y with selftestFail := 1 }) ((fun s => s.onSys fun x => { x with imagesOk := true }) ((fun s => s.onSys fun x => { x with powered := true }) ((fun s => s.onSys fun x => { x with dev := .start }) (w0)))),
   by decide +kernel⟩,
   ⟨(0 : Fin 12), (fun s => s.onPwr fun y => { y with domains := 0 }) (w0),
   by decide +kernel⟩,
   ⟨(3 : Fin 12), inDev .quarantine (w0),
   by decide +kernel⟩,
   ⟨default, (fun s => s.onSys fun x => { x with mapReady := false }) ((fun s => s.onSys fun x => { x with bootStage := 4 }) (w0)),
   by decide +kernel⟩⟩

theorem test_meets_ElementChecksExecute :
    (∃ (s : State) (el : Element) (x : Instr × Element × Nat), x ∈ ([(.pairCheck, .pair, 0x10), (.ceCheck, .control, 0x12), (.gnssCheck, .gnss, 0x13), (.enclaveCheck, .enclave, 0x14), (.clockElement el, el, 0x15)] : List (Instr × Element × Nat)) ∧ x.2.1 = el ∧ (s.sys.dev = .standby ∨ s.sys.dev = .armed ∨ s.sys.dev = .manual) ∧ restartsInWindow s el < restartLimit s ∧ s.safe.safeIn = false ∧ vbatOperating s = true ∧ diesCool s = true) ∧
    (∃ (s : State) (el : Element) (x : Instr × Element × Nat), x ∈ ([(.pairCheck, .pair, 0x10), (.ceCheck, .control, 0x12), (.gnssCheck, .gnss, 0x13), (.enclaveCheck, .enclave, 0x14), (.clockElement el, el, 0x15)] : List (Instr × Element × Nat)) ∧ x.2.1 = el ∧ s.sys.dev = .coast ∧ restartsInWindow s el < restartLimit s ∧ s.safe.safeIn = false ∧ vbatOperating s = true ∧ diesCool s = true) ∧
    (∃ (s : State) (el : Element) (x : Instr × Element × Nat), x ∈ ([(.pairCheck, .pair, 0x10), (.ceCheck, .control, 0x12), (.gnssCheck, .gnss, 0x13), (.enclaveCheck, .enclave, 0x14), (.clockElement el, el, 0x15)] : List (Instr × Element × Nat)) ∧ x.2.1 = el ∧ safeAllowed s = true ∧ restartLimit s ≤ restartsInWindow s el) ∧
    (∃ (s : State) (el : Element) (x : Instr × Element × Nat), x ∈ ([(.pairCheck, .pair, 0x10), (.ceCheck, .control, 0x12), (.gnssCheck, .gnss, 0x13), (.enclaveCheck, .enclave, 0x14), (.clockElement el, el, 0x15)] : List (Instr × Element × Nat)) ∧ x.2.1 = el ∧ (s.sys.dev = .quarantine ∨ s.sys.dev = .safe ∨ s.sys.dev = .latched ∨ s.sys.dev = .start ∨ s.sys.dev = .off)) ∧
    (∃ (el : Element) (s : State), s.sys.dev ≠ .off) :=
  ⟨⟨w0, .pair, (.pairCheck, .pair, 0x10),
   by decide +kernel⟩,
   ⟨inDev .coast w0, .control, (.ceCheck, .control, 0x12),
   by decide +kernel⟩,
   ⟨modElem .gnss (fun x => { x with restarts := List.replicate 9 99999999999 }) w0, .gnss, (.gnssCheck, .gnss, 0x13),
   by decide +kernel⟩,
   ⟨inDev .quarantine w0, .gnss, (.clockElement .gnss, .gnss, 0x15),
   by decide +kernel⟩,
   ⟨.gnss, w0,
   by decide +kernel⟩⟩

theorem test_meets_ClockAndSafetyEventsExecute :
    (∃ (k : BitVec 8) (s : State), safeAllowed s = true) ∧
    (∃ (k : BitVec 8) (s : State), safeAllowed s = false ∧ s.sys.dev ≠ .off) ∧
    (∃ (s : State), s.pwr.clkBaseBad = true) ∧
    (∃ (el : Element) (s : State), (elemOf s el).clockBad = true ∧ (elemOf s el).relockAt ≤ s.pm) ∧
    (∃ (el : Element) (s : State), (elemOf s el).clockBad = true ∧ (elemOf s el).relockAt ≤ s.pm) ∧
    (∃ (e : Nat) (t0 : Nat) (s : State), e = edgeOf (coastEnd s + 3999) ∧ t0 = (if e < coastEnd s then e + 40000 else e) ∧ s.sys.dev = .coast ∧ coastEnd s ≤ s.pm ∧ allClean (if t0 < coastEnd s + 4000 then cleanFrames t0 s else s) = false) ∧
    (∃ (el : Element) (s : State), (elemOf s el).restarting = true ∧ (elemOf s el).clockBad = false) ∧
    (∃ (s : State), safeInEn s = true ∧ safeAllowed s = true) ∧
    (∃ (s : State), safeInEn s = true ∧ s.sys.dev = .start) ∧
    (∃ (s : State), safeInEn s = true ∧ (s.sys.dev = .quarantine ∨ s.sys.dev = .safe ∨ s.sys.dev = .latched)) ∧
    (∃ (s : State), s.safe.safeIn = true) ∧
    (∃ (t0 : Nat) (s : State), s.can.graceFrom = some t0 ∧ t0 + rowGrace s ≤ s.pm ∧ s.can.ctl[(1 : Fin 3)].st = .active) ∧
    (∃ (t0 : Nat) (s : State), s.can.graceFrom = some t0 ∧ t0 + rowGrace s ≤ s.pm ∧ s.can.ctl[(1 : Fin 3)].st ≠ .active ∧ safeAllowed s = true) ∧
    (∃ (t0 : Nat) (s : State), s.can.graceFrom = some t0 ∧ t0 + rowGrace s ≤ s.pm ∧ s.can.ctl[(1 : Fin 3)].st ≠ .active ∧ safeAllowed s = false) :=
  ⟨⟨(0 : BitVec 8), w0,
   by decide +kernel⟩,
   ⟨(0 : BitVec 8), inDev .start (w0),
   by decide +kernel⟩,
   ⟨(fun s => s.onPwr fun x => { x with clkBaseBad := true }) (w0),
   by decide +kernel⟩,
   ⟨.gnss, modElem .gnss (fun x => { x with clockBad := true }) (w0),
   by decide +kernel⟩,
   ⟨.gnss, modElem .gnss (fun x => { x with clockBad := true }) (w0),
   by decide +kernel⟩,
   ⟨_, _, modElem .pair (fun x => { x with cause := some 0x10, clean := false }) ((fun s => s.onSys fun x => { x with dev := .coast }) (w0)),
   rfl,
   rfl,
   by decide +kernel⟩,
   ⟨.gnss, modElem .gnss (fun x => { x with clockBad := false }) (modElem .gnss (fun x => { x with restarting := true }) (w0)),
   by decide +kernel⟩,
   ⟨w0,
   by decide +kernel⟩,
   ⟨(fun s => s.onSys fun x => { x with dev := .start }) (w0),
   by decide +kernel⟩,
   ⟨inDev .safe (w0),
   by decide +kernel⟩,
   ⟨(fun s => s.onSafe fun x => { x with safeIn := true }) (w0),
   by decide +kernel⟩,
   ⟨0, modCtl ((1 : Fin 3)) (fun x => { x with st := .active }) ((fun s => s.onCan fun x => { x with graceFrom := (some 0) }) (w0)),
   by decide +kernel⟩,
   ⟨0, modCtl 1 (fun c => { c with st := .busOff }) ((fun s => s.onCan fun x => { x with graceFrom := (some 0) }) (w0)),
   by decide +kernel⟩,
   ⟨0, inDev .safe (modCtl 1 (fun c => { c with st := .busOff }) ((fun s => s.onCan fun x => { x with graceFrom := (some 0) }) (w0))),
   by decide +kernel⟩⟩

theorem test_meets_ConverterEventsExecute :
    (∃ (s : State), s.sys.dev ≠ .off ∧ s.vdr.conv.fault = false) ∧
    (∃ (s : State), s.vdr.conv.fault = true ∧ s.vdr.conv.retryAt ≤ s.pm) ∧
    (∃ (s : State), s.vdr.conv.fault = true ∧ s.vdr.conv.retryAt ≤ s.pm) ∧
    (∃ (mw : Nat) (s : State), s.vdr.conv.boostLimit = false ∧ 40000 * (256 - boostR s) / 256 ≤ mw) ∧
    (∃ (mw : Nat) (s : State), s.vdr.conv.boostLimit = true ∧ mw < 36000 ∧ mw < 40000 * (256 - boostR s) / 256) ∧
    (∃ (mv : Nat) (s : State), s.vdr.conv.sag = false ∧ mv + 600 < vbstTarget s s.vdr.conv.vbat) ∧
    (∃ (mv : Nat) (s : State), s.vdr.conv.sag = true ∧ vbstTarget s s.vdr.conv.vbat ≤ mv + 200) ∧
    (∃ (mv : Nat) (s : State), (s.vdr.conv.sag = false → vbstTarget s s.vdr.conv.vbat ≤ mv + 600) ∧ (s.vdr.conv.sag = true → mv + 200 < vbstTarget s s.vdr.conv.vbat)) ∧
    (∃ (mv : Nat) (s : State), s.vdr.conv.returnSusp = false ∧ (3600 < mv ∨ returnEn s = false)) ∧
    (∃ (mv : Nat) (s : State), s.vdr.conv.returnSusp = true ∧ mv ≤ 3500 ∧ returnEn s = true) ∧
    (∃ (mv : Nat) (s : State), (s.vdr.conv.returnSusp = false → mv ≤ 3600 ∧ returnEn s = true) ∧ (s.vdr.conv.returnSusp = true → 3500 < mv ∨ returnEn s = false)) ∧
    (∃ (mv : Nat) (s : State), s.vdr.conv.divert = false ∧ vbstTarget s s.vdr.conv.vbat + 600 < mv) ∧
    (∃ (mv : Nat) (s : State), s.vdr.conv.divert = true ∧ mv ≤ vbstTarget s s.vdr.conv.vbat + 300) ∧
    (∃ (mv : Nat) (s : State), (s.vdr.conv.divert = false → mv ≤ vbstTarget s s.vdr.conv.vbat + 600) ∧ (s.vdr.conv.divert = true → vbstTarget s s.vdr.conv.vbat + 300 < mv)) :=
  ⟨⟨(fun s => s.onVdr fun x => { x with conv.fault := false }) (w0),
   by decide +kernel⟩,
   ⟨(fun s => s.onVdr fun x => { x with conv.fault := true }) (w0),
   by decide +kernel⟩,
   ⟨(fun s => s.onVdr fun x => { x with conv.fault := true }) (w0),
   by decide +kernel⟩,
   ⟨50000, (fun s => s.onVdr fun x => { x with conv.boostLimit := false }) (w0),
   by decide +kernel⟩,
   ⟨0, (fun s => s.onVdr fun x => { x with conv.boostLimit := true }) (w0),
   by decide +kernel⟩,
   ⟨0, (fun s => s.onVdr fun x => { x with conv.sag := false }) (w0),
   by decide +kernel⟩,
   ⟨60000, (fun s => s.onVdr fun x => { x with conv.sag := true }) (w0),
   by decide +kernel⟩,
   ⟨6000, (fun s => s.onVdr fun y => { y with conv := { y.conv with sag := false } }) (w0),
   by decide +kernel⟩,
   ⟨60000, (fun s => s.onVdr fun x => { x with conv.returnSusp := false }) (w0),
   by decide +kernel⟩,
   ⟨0, (fun s => s.onVdr fun x => { x with conv.returnSusp := true }) (w0),
   by decide +kernel⟩,
   ⟨0, (fun s => s.onVdr fun y => { y with conv := { y.conv with returnSusp := false } }) (w0),
   by decide +kernel⟩,
   ⟨60000, (fun s => s.onVdr fun x => { x with conv.divert := false }) (w0),
   by decide +kernel⟩,
   ⟨0, (fun s => s.onVdr fun x => { x with conv.divert := true }) (w0),
   by decide +kernel⟩,
   ⟨0, (fun s => s.onVdr fun y => { y with conv := { y.conv with divert := false } }) (w0),
   by decide +kernel⟩⟩

theorem test_meets_TimeEventsExecute :
    (∃ (m : EpochIn) (t0 : Nat) (s : State), gnssRuns s = true ∧ epochDue s = some t0) ∧
    (∃ (m : EpochIn) (s : State), (gnssRuns s = false ∨ epochDue s = none)) ∧
    (∃ (s : State), s.time.st = .locked ∧ s.time.lastGood + 20000000 ≤ s.pm) ∧
    (∃ (s : State), s.time.st = .holdover ∧ s.time.lastGood + holdoverLimit s ≤ s.pm) ∧
    (∃ (s : State), s.time.step = none ∧ ppsRuns s = true ∧ s.time.ppsFrom ≤ (s.time.model.latest second s.pm).2 ∧ (∀ p, s.time.ppsSec = some p → p < (s.time.model.latest second s.pm).1)) ∧
    (∃ (s : State), s.time.step = none ∧ (ppsRuns s = false ∨ (s.time.model.latest second s.pm).2 < s.time.ppsFrom ∨ ∃ p, s.time.ppsSec = some p ∧ (s.time.model.latest second s.pm).1 ≤ p)) ∧
    (∃ (st : Step) (s : State), s.time.step = some st ∧ st.held = false ∧ (stepPulse st).2 ≤ s.pm) ∧
    (∃ (st : Step) (s : State), s.time.step = some st ∧ st.held = false ∧ s.pm < (stepPulse st).2 ∧ (stepPulse st).1 ≤ (s.time.model.latest second s.pm).1) ∧
    (∃ (s : State), s.time.ppsOut = true ∧ s.time.ppsEnd ≤ s.pm) ∧
    (∃ (x : Int) (s : State), s.time.st = .locked) ∧
    (∃ (x : Int) (s : State), s.time.st = .holdover) ∧
    (∃ (x : Int) (s : State), s.time.st ≠ .locked ∧ s.time.st ≠ .holdover) ∧
    (∃ (s : State), s.sys.dev = .standby) :=
  ⟨⟨({} : EpochIn), 100000000000, (fun s => s.onGnss fun g => { g with firstHandoff := some 0 }) (w0),
   by decide +kernel⟩,
   ⟨({} : EpochIn), w0,
   by decide +kernel⟩,
   ⟨(fun s => s.onTime fun x => { x with st := .locked }) (w0),
   by decide +kernel⟩,
   ⟨(fun s => s.onTime fun x => { x with st := .holdover }) (w0),
   by decide +kernel⟩,
   ⟨(fun s => s.onTime fun y => { y with st := .locked }) ((fun s => s.onTime fun x => { x with step := none }) (w0)),
   by decide +kernel⟩,
   ⟨(fun s => s.onTime fun x => { x with step := none }) (w0),
   by decide +kernel⟩,
   ⟨({} : Step), (fun s => s.onTime fun x => { x with step := (some ({} : Step)) }) (w0),
   by decide +kernel⟩,
   ⟨({ earliest := 100000000001 } : Step), (fun s => s.onTime fun y => { y with model := { y.model with tow := 10 * second } }) ((fun s => s.onTime fun x => { x with step := (some ({ earliest := 100000000001 } : Step)) }) (w0)),
   by decide +kernel⟩,
   ⟨(fun s => s.onTime fun x => { x with ppsOut := true }) (w0),
   by decide +kernel⟩,
   ⟨0, (fun s => s.onTime fun x => { x with st := .locked }) (w0),
   by decide +kernel⟩,
   ⟨0, (fun s => s.onTime fun x => { x with st := .holdover }) (w0),
   by decide +kernel⟩,
   ⟨0, w0,
   by decide +kernel⟩,
   ⟨(fun s => s.onSys fun x => { x with dev := .standby }) (w0),
   by decide +kernel⟩⟩

theorem test_meets_GnssChannelEventsExecute :
    (∃ (d : DwellIn) (s : State), s.gnss.dwell = none) ∧
    (∃ (d : DwellIn) (w : Dwell) (s : State), s.gnss.dwell = some w ∧ (acqRuns s = false ∨ s.pm < w.start + 80000 * w.passes)) ∧
    (∃ (d : DwellIn) (w : Dwell) (s : State), s.gnss.dwell = some w ∧ acqRuns s = true ∧ w.start + 80000 * w.passes ≤ s.pm ∧ w.mode ≠ .verify ∧ dwellDetects w d s = true) ∧
    (∃ (d : DwellIn) (w : Dwell) (s : State), s.gnss.dwell = some w ∧ acqRuns s = true ∧ w.start + 80000 * w.passes ≤ s.pm ∧ dwellDetects w d s = false) ∧
    (∃ (d : DwellIn) (w : Dwell) (s : State), s.gnss.dwell = some w ∧ acqRuns s = true ∧ w.start + 80000 * w.passes ≤ s.pm ∧ w.mode = .verify ∧ dwellDetects w d s = true) ∧
    (∃ (s : State), gnssRuns s = true ∧ 4 ≤ trackedValid s ∧ s.gnss.warmAt + 800000000 ≤ s.pm) ∧
    (∃ (c : Fin 24) (s : State), gnssRuns s = true ∧ s.gnss.chan[c].stage = .fll ∧ s.gnss.chan[c].since + 16000000 ≤ s.pm) ∧
    (∃ (c : Fin 24) (s : State), gnssRuns s = true ∧ s.gnss.chan[c].stage = .fll ∧ s.gnss.chan[c].since + 1600000 ≤ s.pm ∧ s.pm < s.gnss.chan[c].since + 16000000) ∧
    (∃ (c : Fin 24) (mean : Int) (s : State), gnssRuns s = true ∧ (s.gnss.chan[c].stage = .pll ∨ s.gnss.chan[c].stage = .tracking) ∧ s.gnss.chan[c].phaseLock = false ∧ 700 ≤ mean ∧ s.gnss.chan[c].since + 8000000 ≤ s.pm) ∧
    (∃ (c : Fin 24) (mean : Int) (s : State), gnssRuns s = true ∧ (s.gnss.chan[c].stage = .pll ∨ s.gnss.chan[c].stage = .tracking) ∧ s.gnss.chan[c].phaseLock = true ∧ mean < 500) ∧
    (∃ (c : Fin 24) (mean : Int) (s : State), ((s.gnss.chan[c].phaseLock = false ∧ (mean < 700 ∨ s.pm < s.gnss.chan[c].since + 8000000)) ∨ (s.gnss.chan[c].phaseLock = true ∧ 500 ≤ mean))) ∧
    (∃ (c : Fin 24) (l : List Nat) (s : State), gnssRuns s = true ∧ s.gnss.chan[c].stage = .pll ∧ s.gnss.chan[c].phaseLock = true ∧ s.gnss.chan[c].bitSync = false ∧ s.gnss.chan[c].lockAt + 160000000 ≤ s.pm ∧ l.length = 20 ∧ 10 ≤ l.foldl max 0 ∧ 60 * l.sum ≤ 100 * l.foldl max 0) ∧
    (∃ (c : Fin 24) (f : FrameIn) (s : State), gnssRuns s = true ∧ s.gnss.chan[c].stage = .tracking ∧ s.gnss.chan[c].bitSync = true ∧ s.gnss.chan[c].frameSync = false ∧ frameFound f = true) ∧
    (∃ (c : Fin 24) (w : BitVec 30) (s : State), gnssRuns s = true ∧ s.gnss.chan[c].stage.tracks = true ∧ s.gnss.chan[c].frameSync = true) ∧
    (∃ (p : Fin 32) (c : Fin 24) (i : Nat) (w : Nat) (s : State), gnssRuns s = true ∧ tracked s p = some c ∧ (vlist s.gnss.chan[c].subs).all (·.length = 10) = true ∧ i = dataBits (subWord s.gnss.chan[c] 1 3) 1 8 ∧ i = dataBits (subWord s.gnss.chan[c] 2 10) 1 8 ∧ i = dataBits (subWord s.gnss.chan[c] 0 8) 1 8 ∧ w = dataBits (subWord s.gnss.chan[c] 0 3) 1 10) ∧
    (∃ (c : Fin 24) (t0 : Nat) (s : State), gnssRuns s = true ∧ s.gnss.chan[c].stage.tracks = true ∧ s.gnss.chan[c].weakFrom = some t0 ∧ t0 + 160000000 ≤ s.pm) ∧
    (∃ (t0 : Nat) (s : State), s.pwr.acqIdleSince = some t0 ∧ s.act.flag .pwr 8 = true ∧ gnssRuns s = true ∧ t0 + 8000000 ≤ s.pm) :=
  ⟨⟨({} : DwellIn), (fun s => s.onGnss fun x => { x with dwell := none }) (w0),
   by decide +kernel⟩,
   ⟨({} : DwellIn), ({ start := 2 ^ 60 } : Dwell), (fun s => s.onGnss fun x => { x with dwell := (some ({ start := 2 ^ 60 } : Dwell)) }) (w0),
   by decide +kernel,
   Or.inr (by decide +kernel)⟩,
   ⟨({ peak := 1 } : DwellIn), ({} : Dwell), (fun s => s.onGnss fun x => { x with dwell := (some ({} : Dwell)) }) (w0),
   by decide +kernel⟩,
   ⟨({} : DwellIn), ({} : Dwell), (fun s => s.onGnss fun x => { x with dwell := (some ({} : Dwell)) }) (w0),
   by decide +kernel⟩,
   ⟨({ peak := 1 } : DwellIn), ({ mode := .verify } : Dwell), (fun s => s.onGnss fun y => { y with verify := some {} }) ((fun s => s.onGnss fun x => { x with dwell := (some ({ mode := .verify } : Dwell)) }) (w0)),
   by decide +kernel⟩,
   ⟨(fun s => s.onGnss fun y => { y with chan := y.chan.map fun x => { x with stage := .tracking }, eph := Vector.replicate 32 { valid := true } }) (w0),
   by decide +kernel⟩,
   ⟨(0 : Fin 24), modChan (0 : Fin 24) (fun x => { x with stage := .fll }) (w0),
   by decide +kernel⟩,
   ⟨(0 : Fin 24), modChan 0 (fun x => { x with since := 99990000000 }) (modChan (0 : Fin 24) (fun x => { x with stage := .fll }) (w0)),
   by decide +kernel⟩,
   ⟨(0 : Fin 24), 700, modChan 0 (fun x => { x with stage := .pll }) (modChan (0 : Fin 24) (fun x => { x with phaseLock := false }) (w0)),
   by decide +kernel⟩,
   ⟨(0 : Fin 24), 0, modChan 0 (fun x => { x with stage := .tracking }) (modChan (0 : Fin 24) (fun x => { x with phaseLock := true }) (w0)),
   by decide +kernel⟩,
   ⟨(0 : Fin 24), 0, w0,
   by decide +kernel⟩,
   ⟨(0 : Fin 24), [10, 0, 0, 0, 0, 0, 0, 0, 0, 0, 0, 0, 0, 0, 0, 0, 0, 0, 0, 0], modChan (0 : Fin 24) (fun x => { x with bitSync := false }) (modChan (0 : Fin 24) (fun x => { x with phaseLock := true }) (modChan (0 : Fin 24) (fun x => { x with stage := .pll }) (w0))),
   by decide +kernel⟩,
   ⟨(0 : Fin 24), ({ tlm := 0x22C00012, how := 0xC8134, again := 0x22C00012 } : FrameIn), modChan (0 : Fin 24) (fun x => { x with frameSync := false }) (modChan (0 : Fin 24) (fun x => { x with bitSync := true }) (modChan (0 : Fin 24) (fun x => { x with stage := .tracking }) (w0))),
   by decide +kernel⟩,
   ⟨(0 : Fin 24), (0 : BitVec 30), modChan 0 (fun x => { x with stage := .tracking }) (modChan (0 : Fin 24) (fun x => { x with frameSync := true }) (w0)),
   by decide +kernel⟩,
   ⟨(0 : Fin 32), (0 : Fin 24), _, _, modChan 0 (fun x => { x with stage := .tracking, subs := Vector.replicate 3 (List.replicate 10 0) }) (w0),
   by decide +kernel,
   by decide +kernel,
   by decide +kernel,
   rfl,
   by decide +kernel,
   by decide +kernel,
   rfl⟩,
   ⟨(0 : Fin 24), 0, modChan 0 (fun x => { x with stage := .pll }) (modChan (0 : Fin 24) (fun x => { x with weakFrom := (some 0) }) (w0)),
   by decide +kernel⟩,
   ⟨0, (fun s => s.onPwr fun x => { x with acqIdleSince := (some 0) }) (w0),
   by decide +kernel⟩⟩

theorem test_meets_AntennaAndCorrectionEventsExecute :
    (∃ (ma : Nat) (s : State), antBias s ≠ 0 ∧ s.gnss.antOpen = false ∧ ma < antOpenMa s) ∧
    (∃ (ma : Nat) (s : State), s.gnss.antOpen = true ∧ antOpenMa s < ma) ∧
    (∃ (ma : Nat) (s : State), ¬(antBias s ≠ 0 ∧ s.gnss.antOpen = false ∧ ma < antOpenMa s) ∧ ¬(s.gnss.antOpen = true ∧ antOpenMa s < ma)) ∧
    (∃ (ma : Nat) (s : State), antBias s ≠ 0 ∧ s.gnss.bias = true ∧ antShortMa s < ma) ∧
    (∃ (ma : Nat) (s : State), ¬(antBias s ≠ 0 ∧ s.gnss.bias = true ∧ antShortMa s < ma)) ∧
    (∃ (ma : Nat) (s : State), antBias s ≠ 0 ∧ s.gnss.antShort = true ∧ s.gnss.bias = false ∧ s.gnss.antRetryAt + 8000000 ≤ s.pm ∧ ma ≤ antShortMa s) ∧
    (∃ (ma : Nat) (s : State), antBias s ≠ 0 ∧ s.gnss.antShort = true ∧ s.gnss.bias = false ∧ s.gnss.antRetryAt + 80000 ≤ s.pm ∧ antShortMa s < ma) ∧
    (∃ (ma : Nat) (s : State), antBias s ≠ 0 ∧ s.gnss.antShort = true ∧ s.gnss.bias = false ∧ s.gnss.antRetryAt ≤ s.pm ∧ (ma ≤ antShortMa s → s.pm < s.gnss.antRetryAt + 8000000) ∧ (antShortMa s < ma → s.pm < s.gnss.antRetryAt + 80000)) ∧
    (∃ (m : List Byte) (n : Nat) (s : State), gnssRuns s = true ∧ readFrame s.gnss.rtcmBuf = .frame m n) ∧
    (∃ (s : State), (gnssRuns s = false ∨ readFrame s.gnss.rtcmBuf = .wait)) ∧
    (∃ (s : State), s.gnss.rtcmBuf ≠ [] ∧ s.gnss.rtcmLast + 160000000 ≤ s.pm ∧ readFrame s.gnss.rtcmBuf = .wait) ∧
    (∃ (m : BitVec 32) (l : List Int) (q : Nat) (s : State), fixRatio s ≤ q ∧ s.restarting .pair = false) ∧
    (∃ (k : Fin 4) (s : State), 3 ≤ odoType s k ∧ s.pos.odo[k].stale = false ∧ s.pos.odo[k].lastPm + 24000000 ≤ s.pm) :=
  ⟨⟨0, (fun s => s.onGnss fun x => { x with antOpen := false }) (w0),
   by decide +kernel⟩,
   ⟨100000, (fun s => s.onGnss fun x => { x with antOpen := true }) (w0),
   by decide +kernel⟩,
   ⟨1000, w0,
   by decide +kernel⟩,
   ⟨100000, (fun s => s.onGnss fun x => { x with bias := true }) (w0),
   by decide +kernel⟩,
   ⟨0, w0,
   by decide +kernel⟩,
   ⟨0, (fun s => s.onGnss fun x => { x with bias := false }) ((fun s => s.onGnss fun x => { x with antShort := true }) (w0)),
   by decide +kernel⟩,
   ⟨100000, (fun s => s.onGnss fun x => { x with bias := false }) ((fun s => s.onGnss fun x => { x with antShort := true }) (w0)),
   by decide +kernel⟩,
   ⟨1000, (fun s => s.onGnss fun y => { y with antRetryAt := 100000000000 }) (withP .gnss 0 2 1 ((fun s => s.onGnss fun x => { x with bias := false }) ((fun s => s.onGnss fun x => { x with antShort := true }) (w0)))),
   by decide +kernel⟩,
   ⟨[], 6, (fun s => s.onGnss fun y => { y with rtcmBuf := [0xD3, 0, 0, 0x47, 0xEA, 0x4B] }) (w0),
   by decide +kernel⟩,
   ⟨inDev .quarantine (w0),
   by decide +kernel⟩,
   ⟨(fun s => s.onGnss fun y => { y with rtcmBuf := [0xD3] }) (w0),
   by decide +kernel⟩,
   ⟨(0 : BitVec 32), [], 255, w0,
   by decide +kernel⟩,
   ⟨(0 : Fin 4), (fun s => s.onImpl fun y => { y with active := some { y.shadow with mach := BitVec.ofNat 1024 (2 ^ 384 * 3) } }) ((fun s => s.onPos fun y => { y with odo := Vector.replicate 4 { stale := false } }) (w0)),
   by decide +kernel⟩⟩

theorem test_meets_ValveEventsExecute :
    (∃ (b : Fin 12) (ev : Ev) (c : Fin 96) (s : State), firstEvent s.vdr.bank[b].queue = some ev ∧ ev.stale = false ∧ ev.runAt ≤ s.pm ∧ idx? 96 ev.ctx = some c ∧ ev.on = true) ∧
    (∃ (b : Fin 12) (ev : Ev) (c : Fin 96) (s : State), firstEvent s.vdr.bank[b].queue = some ev ∧ ev.stale = false ∧ ev.runAt ≤ s.pm ∧ idx? 96 ev.ctx = some c ∧ ev.on = false) ∧
    (∃ (b : Fin 12) (ev : Ev) (c : Fin 96) (s : State), firstEvent s.vdr.bank[b].queue = some ev ∧ ev.stale = true ∧ ev.runAt ≤ s.pm ∧ idx? 96 ev.ctx = some c ∧ ev.on = true) ∧
    (∃ (b : Fin 12) (ev : Ev) (c : Fin 96) (s : State), firstEvent s.vdr.bank[b].queue = some ev ∧ ev.stale = true ∧ ev.runAt ≤ s.pm ∧ idx? 96 ev.ctx = some c ∧ ev.on = false) ∧
    (∃ (b : Fin 12) (s : State), (∀ ev, firstEvent s.vdr.bank[b].queue = some ev → s.pm < ev.runAt)) ∧
    (∃ (c : Fin 96) (s : State), s.vdr.ch[c].st = .pending ∧ s.vdr.ch[c].startAt ≤ s.pm ∧ s.vdr.ch[c].unplaced = false) ∧
    (∃ (c : Fin 96) (s : State), s.vdr.ch[c].st = .pending ∧ s.vdr.ch[c].startAt ≤ s.pm ∧ s.vdr.ch[c].unplaced = true) ∧
    (∃ (b : Fin 12) (s : State), s.vdr.bank[b].feed ≠ .bst ∧ s.vdr.bank[b].isolated = 0 ∧ s.vdr.bank[b].windows.any (fun w => w.start ≤ s.pm + 320 && s.pm < w.stop) = true) ∧
    (∃ (b : Fin 12) (s : State), s.vdr.bank[b].feed = .bst ∧ s.vdr.bank[b].windows.any (fun w => w.stop ≤ s.pm) = true ∧ s.vdr.bank[b].windows.any (fun w => inWindow w.start w.stop s.pm) = false) ∧
    (∃ (b : Fin 12) (s : State), s.vdr.bank[b].windows.any (fun w => w.stop + w.guard ≤ s.pm) = true) ∧
    (∃ (c : Fin 96) (l0 : Nat) (s : State), s.vdr.ch[c].st = .pullIn ∧ s.vdr.ch[c].pullEnd ≤ s.pm ∧ s.vdr.ch[c].held = false) ∧
    (∃ (c : Fin 96) (l0 : Nat) (s : State), s.vdr.ch[c].st = .pullIn ∧ s.vdr.ch[c].pullEnd ≤ s.pm ∧ s.vdr.ch[c].held = true) ∧
    (∃ (c : Fin 96) (en : Nat) (s : State), s.vdr.ch[c].st = .decay ∧ s.vdr.ch[c].fast = true ∧ s.vdr.ch[c].offSet.iTail ≠ 0 ∧ s.vdr.ch[c].recover = false) ∧
    (∃ (c : Fin 96) (en : Nat) (s : State), s.vdr.ch[c].st = .decay ∧ s.vdr.ch[c].fast = true ∧ s.vdr.ch[c].offSet.iTail ≠ 0 ∧ s.vdr.ch[c].recover = true) ∧
    (∃ (c : Fin 96) (en : Nat) (s : State), s.vdr.ch[c].st = .decay) ∧
    (∃ (c : Fin 96) (g : SigIn) (s : State), s.vdr.ch[c].searching = true ∧ (s.vdr.ch[c].st = .pullIn ∨ s.vdr.ch[c].st = .hold) ∧ s.vdr.ch[c].startAt ≤ g.sample ∧ s.pm ≤ s.vdr.ch[c].startAt + s.vdr.ch[c].onSet.searchWin ∧ isMin g = true ∧ signatureOk c s.pm g (10 * s.vdr.ch[c].onSet.sigMin) = true) ∧
    (∃ (c : Fin 96) (g : SigIn) (en : Nat) (s : State), s.vdr.ch[c].st = .decay ∧ s.vdr.ch[c].closeSearch = true ∧ s.vdr.ch[c].offPm ≤ g.sample ∧ s.pm ≤ s.vdr.ch[c].offPm + s.vdr.ch[c].offSet.searchWin ∧ isMax g = true ∧ signatureOk c s.pm g (5 * s.vdr.ch[c].offSet.sigMin) = true) ∧
    (∃ (c : Fin 96) (s : State), s.vdr.ch[c].searching = true ∧ s.vdr.ch[c].startAt + s.vdr.ch[c].onSet.searchWin ≤ s.pm) :=
  ⟨⟨(0 : Fin 12), ({ stale := false, on := true } : Ev), (0 : Fin 96), modBank 0 (fun x => { x with queue := [{ stale := false, on := true }] }) (w0),
   by decide +kernel⟩,
   ⟨(0 : Fin 12), ({ stale := false, on := false } : Ev), (0 : Fin 96), modBank 0 (fun x => { x with queue := [{ stale := false, on := false }] }) (w0),
   by decide +kernel⟩,
   ⟨(0 : Fin 12), ({ stale := true, on := true } : Ev), (0 : Fin 96), modBank 0 (fun x => { x with queue := [{ stale := true, on := true }] }) (w0),
   by decide +kernel⟩,
   ⟨(0 : Fin 12), ({ stale := true, on := false } : Ev), (0 : Fin 96), modBank 0 (fun x => { x with queue := [{ stale := true, on := false }] }) (w0),
   by decide +kernel⟩,
   ⟨(0 : Fin 12), w0,
   by intro _ h; cases h⟩,
   ⟨(0 : Fin 96), modCh (0 : Fin 96) (fun x => { x with unplaced := false }) (modCh (0 : Fin 96) (fun x => { x with st := .pending }) (w0)),
   by decide +kernel⟩,
   ⟨(0 : Fin 96), modCh (0 : Fin 96) (fun x => { x with unplaced := true }) (modCh (0 : Fin 96) (fun x => { x with st := .pending }) (w0)),
   by decide +kernel⟩,
   ⟨(0 : Fin 12), modBank 0 (fun x => { x with windows := [{ start := 0, stop := 200000000000 }] }) (modBank (0 : Fin 12) (fun x => { x with isolated := 0 }) (w0)),
   by decide +kernel⟩,
   ⟨(0 : Fin 12), modBank 0 (fun x => { x with windows := [{}] }) (modBank (0 : Fin 12) (fun x => { x with feed := .bst }) (w0)),
   by decide +kernel⟩,
   ⟨(0 : Fin 12), modBank 0 (fun x => { x with windows := [{}] }) (w0),
   by decide +kernel⟩,
   ⟨(0 : Fin 96), 0, modCh (0 : Fin 96) (fun x => { x with held := false }) (modCh (0 : Fin 96) (fun x => { x with st := .pullIn }) (w0)),
   by decide +kernel⟩,
   ⟨(0 : Fin 96), 0, modCh (0 : Fin 96) (fun x => { x with held := true }) (modCh (0 : Fin 96) (fun x => { x with st := .pullIn }) (w0)),
   by decide +kernel⟩,
   ⟨(0 : Fin 96), 0, modCh 0 (fun x => { x with st := .decay, fast := true, recover := false, offSet := { iTail := 1 } }) (modCh (0 : Fin 96) (fun x => { x with recover := false }) (modCh (0 : Fin 96) (fun x => { x with fast := true }) (modCh (0 : Fin 96) (fun x => { x with st := .decay }) (w0)))),
   by decide +kernel⟩,
   ⟨(0 : Fin 96), 0, modCh 0 (fun x => { x with st := .decay, fast := true, recover := true, offSet := { iTail := 1 } }) (modCh (0 : Fin 96) (fun x => { x with recover := true }) (modCh (0 : Fin 96) (fun x => { x with fast := true }) (modCh (0 : Fin 96) (fun x => { x with st := .decay }) (w0)))),
   by decide +kernel⟩,
   ⟨(0 : Fin 96), 0, modCh (0 : Fin 96) (fun x => { x with st := .decay }) (w0),
   by decide +kernel⟩,
   ⟨(0 : Fin 96), ({ sample := 99999998400, prior := 100, before := 1, at_ := 0, after := 1, later := 100 } : SigIn), modCh 0 (fun x => { x with st := .hold, startAt := 99999998400, onSet := { searchWin := 100000, sigMin := 1 } }) (modCh (0 : Fin 96) (fun x => { x with searching := true }) (w0)),
   by decide +kernel⟩,
   ⟨(0 : Fin 96), ({ sample := 99999998400, prior := 0, before := 99, at_ := 100, after := 99, later := 0 } : SigIn), 0, modCh 0 (fun x => { x with offPm := 99999998400, offSet := { searchWin := 100000, sigMin := 1 } }) (modCh (0 : Fin 96) (fun x => { x with closeSearch := true }) (modCh (0 : Fin 96) (fun x => { x with st := .decay }) (w0))),
   by decide +kernel⟩,
   ⟨(0 : Fin 96), modCh (0 : Fin 96) (fun x => { x with searching := true }) (w0),
   by decide +kernel⟩⟩

theorem test_meets_ValveProtectionEventsExecute :
    (∃ (c : Fin 96) (ma : Nat) (s : State), chanOn s.vdr.ch[c] = true ∧ s.vdr.ch[c].startAt + 112000 ≤ s.pm ∧ ma < s.act.fld .vdr 6528 8) ∧
    (∃ (c : Fin 96) (ma : Nat) (s : State), chanOn s.vdr.ch[c] = true ∧ s.vdr.ch[c].startAt + 112000 ≤ s.pm ∧ s.act.fld .vdr 6528 8 ≤ ma) ∧
    (∃ (c : Fin 96) (ma : Nat) (s : State), s.vdr.ch[c].st = .off ∧ s.vdr.ch[c].offSince + 80000 ≤ s.pm ∧ feedSettled s (bankOf c) 80000 = true ∧ 100 < ma) ∧
    (∃ (c : Fin 96) (ma : Nat) (s : State), s.vdr.ch[c].st = .off ∧ s.vdr.ch[c].offSince + 80000 ≤ s.pm ∧ feedSettled s (bankOf c) 80000 = true ∧ ma ≤ 100) ∧
    (∃ (c : Fin 96) (ma : Nat) (s : State), s.vdr.ch[c].st = .off ∧ (s.pm < s.vdr.ch[c].offSince + 80000 ∨ feedSettled s (bankOf c) 80000 = false) ∧ reconnectTested s (bankOf c) = true ∧ 100 < ma) ∧
    (∃ (c : Fin 96) (ma : Nat) (s : State), s.vdr.ch[c].st = .off ∧ (s.pm < s.vdr.ch[c].offSince + 80000 ∨ feedSettled s (bankOf c) 80000 = false) ∧ reconnectTested s (bankOf c) = true ∧ ma ≤ 100) ∧
    (∃ (c : Fin 96) (ma : Nat) (s : State), s.vdr.ch[c].st = .off ∧ feedSettled s (bankOf c) 0 = true) ∧
    (∃ (c : Fin 96) (ma : Nat) (s : State), (s.vdr.ch[c].st ≠ .off ∨ feedSettled s (bankOf c) 0 = false)) ∧
    (∃ (c : Fin 96) (ma : Nat) (s : State), (s.pm < s.vdr.ch[c].offSince + 80000 ∨ feedSettled s (bankOf c) 80000 = false) ∧ (s.vdr.ch[c].st ≠ .off ∨ reconnectTested s (bankOf c) = false)) ∧
    (∃ (c : Fin 96) (s : State), chanOn s.vdr.ch[c] = true) ∧
    (∃ (c : Fin 96) (ma : Nat) (s : State), 1650 < ma ∧ (s.vdr.prot[c].tripLatch = false ∨ s.vdr.prot[c].overload = false)) ∧
    (∃ (c : Fin 96) (x : Int) (s : State), thsTakes s (stageSensor c).1 (stageSensor c).2 = true) ∧
    (∃ (c : Fin 96) (x : Int) (s : State), thsTakes s (stageSensor c).1 (stageSensor c).2 = true) ∧
    (∃ (b : Fin 12) (s : State), (s.vdr.bank[b].isolated = 0 ∨ s.vdr.bank[b].reconnect.isSome = true)) ∧
    (∃ (c : Fin 96) (s : State), s.sys.dev ≠ .latched ∧ s.vdr.prot[c].tripLatch = true ∧ s.vdr.prot[c].tripAt + 8000000 ≤ s.pm ∧ 0 < s.pd0.chRetries[c]) ∧
    (∃ (b : Fin 12) (s : State), s.sys.dev ≠ .latched ∧ s.vdr.bank[b].isolated = 2 ∧ s.vdr.bank[b].isolAt + 8000000 ≤ s.pm ∧ 0 < s.pd0.bankRetries[b]) ∧
    (∃ (c : Fin 96) (r : Nat) (a : Nat) (b : Nat) (u : State) (s : State), measures s c a b = true ∧ u = learnR20 c r (modProt c (fun p => { p with rMeas := min r 65535 }) s) ∧ r20Of u c.val = 0) ∧
    (∃ (c : Fin 96) (r : Nat) (a : Nat) (b : Nat) (u : State) (s : State), measures s c a b = true ∧ u = learnR20 c r (modProt c (fun p => { p with rMeas := min r 65535 }) s) ∧ r20Of u c.val ≠ 0) ∧
    (∃ (c : Fin 96) (r : Nat) (a : Nat) (b : Nat) (s : State), measures s c a b = false) ∧
    (∃ (c : Fin 96) (s : State), chanOn s.vdr.ch[c] = false ∧ r20Of s c.val ≠ 0 ∧ s.vdr.prot[c].tempSeen = true) ∧
    (∃ (b : Fin 12) (t0 : Nat) (s : State), s.vdr.bank[b].reconnect = some t0 ∧ t0 + 84000 ≤ s.pm ∧ bankShorted s b = false) ∧
    (∃ (b : Fin 12) (t0 : Nat) (s : State), s.vdr.bank[b].reconnect = some t0 ∧ t0 + 84000 ≤ s.pm ∧ bankShorted s b = true) ∧
    (∃ (b : Fin 12) (t0 : Nat) (j : Fin 8) (s : State), s.vdr.bank[b].reconnect = some t0 ∧ t0 + 84000 ≤ s.pm) ∧
    (∃ (b : Fin 12) (t0 : Nat) (j : Option (Fin 8)) (s : State), s.vdr.bank[b].reconnect = some t0 ∧ s.pm < t0 + 84000) ∧
    (∃ (b : Fin 12) (j : Option (Fin 8)) (s : State), s.vdr.bank[b].reconnect = none) ∧
    (∃ (c : Fin 96) (s : State), True) :=
  ⟨⟨(0 : Fin 96), 0, modCh 0 (fun x => { x with st := .hold }) (w0),
   by decide +kernel⟩,
   ⟨(0 : Fin 96), 255, modCh 0 (fun x => { x with st := .hold }) (w0),
   by decide +kernel⟩,
   ⟨(0 : Fin 96), 101, modBank 0 (fun x => { x with isolated := 0 }) (modCh (0 : Fin 96) (fun x => { x with st := .off }) (w0)),
   by decide +kernel⟩,
   ⟨(0 : Fin 96), 0, modBank 0 (fun x => { x with isolated := 0 }) (modCh (0 : Fin 96) (fun x => { x with st := .off }) (w0)),
   by decide +kernel⟩,
   ⟨(0 : Fin 96), 101, modBank 0 (fun x => { x with isolated := 1, reconnect := some 99999900000 }) (modCh (0 : Fin 96) (fun x => { x with st := .off }) (w0)),
   by decide +kernel⟩,
   ⟨(0 : Fin 96), 100, modBank 0 (fun x => { x with isolated := 1, reconnect := some 99999900000 }) (modCh (0 : Fin 96) (fun x => { x with st := .off }) (w0)),
   by decide +kernel⟩,
   ⟨(0 : Fin 96), 0, modBank 0 (fun x => { x with isolated := 0 }) (modCh (0 : Fin 96) (fun x => { x with st := .off }) (w0)),
   by decide +kernel⟩,
   ⟨(0 : Fin 96), 0, modCh 0 (fun x => { x with st := .hold }) (w0),
   by decide +kernel⟩,
   ⟨(0 : Fin 96), 100, modBank 0 (fun x => { x with isolated := 1 }) (w0),
   Or.inr (by decide +kernel),
   Or.inr (by decide +kernel)⟩,
   ⟨(0 : Fin 96), modCh 0 (fun x => { x with st := .hold }) (w0),
   by decide +kernel⟩,
   ⟨(0 : Fin 96), 1651, w0,
   by decide +kernel⟩,
   ⟨(0 : Fin 96), 1600, w0,
   by decide +kernel⟩,
   ⟨(0 : Fin 96), 0, w0,
   by decide +kernel⟩,
   ⟨(0 : Fin 12), w0,
   by decide +kernel⟩,
   ⟨(0 : Fin 96), modProt (0 : Fin 96) (fun x => { x with tripLatch := true }) (w0),
   by decide +kernel⟩,
   ⟨(0 : Fin 12), modBank (0 : Fin 12) (fun x => { x with isolated := 2 }) (w0),
   by decide +kernel⟩,
   ⟨(0 : Fin 96), 0, 0, 0, _, modCh 0 (fun x => { x with st := .hold, confirmed := true }) (w0),
   by decide +kernel,
   rfl,
   by decide +kernel⟩,
   ⟨(0 : Fin 96), 1, 0, 0, _, withP .vdr 6560 16 1000 (modCh 0 (fun x => { x with st := .hold, confirmed := true }) (w0)),
   by decide +kernel,
   rfl,
   by decide +kernel⟩,
   ⟨(0 : Fin 96), 0, 0, 0, w0,
   by decide +kernel⟩,
   ⟨(0 : Fin 96), modProt 0 (fun x => { x with rMeas := 1 }) (withP .vdr 6560 16 1000 (modProt (0 : Fin 96) (fun x => { x with tempSeen := true }) (w0))),
   by decide +kernel⟩,
   ⟨(0 : Fin 12), 0, modBank (0 : Fin 12) (fun x => { x with reconnect := (some 0) }) (w0),
   by decide +kernel⟩,
   ⟨(0 : Fin 12), 0, modProt 0 (fun x => { x with shortGnd := true }) (modBank (0 : Fin 12) (fun x => { x with reconnect := (some 0) }) (w0)),
   by decide +kernel⟩,
   ⟨(0 : Fin 12), 0, (0 : Fin 8), modBank (0 : Fin 12) (fun x => { x with reconnect := (some 0) }) (w0),
   by decide +kernel⟩,
   ⟨(0 : Fin 12), 100000000000, none, modBank (0 : Fin 12) (fun x => { x with reconnect := (some 100000000000) }) (w0),
   by decide +kernel⟩,
   ⟨(0 : Fin 12), none, modBank (0 : Fin 12) (fun x => { x with reconnect := none }) (w0),
   by decide +kernel⟩,
   ⟨(0 : Fin 96), w0,
   trivial⟩⟩

theorem test_meets_PwmEventsExecute :
    (∃ (b : Fin 12) (s : State), trigRuns s = true ∧ s.pwu.grid[b].b + s.pwu.grid[b].period ≤ s.pm) ∧
    (∃ (c : Fin 96) (u : State) (s : State), s.pwu.noz[c].running = true ∧ s.pwu.noz[c].nextOpen ≤ openingOf s c ∧ openingOf s c ≤ s.pm ∧ u = modNoz c (fun n => { n with nextOpen := openingOf s c + 1, openAt := openingOf s c, closeAt := none }) (reloadNoz c (openingOf s c) false s) ∧ u.pwu.noz[c].onTime ≠ 0) ∧
    (∃ (c : Fin 96) (u : State) (s : State), s.pwu.noz[c].running = true ∧ s.pwu.noz[c].nextOpen ≤ openingOf s c ∧ openingOf s c ≤ s.pm ∧ u = modNoz c (fun n => { n with nextOpen := openingOf s c + 1, openAt := openingOf s c, closeAt := none }) (reloadNoz c (openingOf s c) false s) ∧ u.pwu.noz[c].onTime = 0 ∧ heldByMerge s c = false) ∧
    (∃ (c : Fin 96) (u : State) (s : State), s.pwu.noz[c].running = true ∧ s.pwu.noz[c].nextOpen ≤ openingOf s c ∧ openingOf s c ≤ s.pm ∧ u = modNoz c (fun n => { n with nextOpen := openingOf s c + 1, openAt := openingOf s c, closeAt := none }) (reloadNoz c (openingOf s c) false s) ∧ u.pwu.noz[c].onTime = 0 ∧ heldByMerge s c = true) ∧
    (∃ (c : Fin 96) (t0 : Nat) (s : State), s.pwu.noz[c].closeAt = some t0 ∧ s.pwu.noz[c].running = true ∧ t0 ≤ s.pm ∧ merges s c t0 = false) ∧
    (∃ (c : Fin 96) (t0 : Nat) (s : State), s.pwu.noz[c].closeAt = some t0 ∧ s.pwu.noz[c].running = true ∧ t0 ≤ s.pm ∧ merges s c t0 = true) ∧
    (∃ (g : Fin 8) (s : State), s.pwu.fine[g].running = true ∧ s.pwu.fine[g].startAt + periodCounts s.pwu.fine[g].periodActive s.pwu.fine[g].centre < 5 * (s.pm + 1)) ∧
    (∃ (g : Fin 8) (x : Option Nat) (s : State), s.pwu.fine[g].running = true ∧ gatesAllowed s = true ∧ transitionDue s g true = true) ∧
    (∃ (g : Fin 8) (x : Option Nat) (s : State), s.pwu.fine[g].running = true ∧ gatesAllowed s = false ∧ transitionDue s g true = true) ∧
    (∃ (g : Fin 8) (x : Option Nat) (s : State), s.pwu.fine[g].running = true ∧ gatesAllowed s = true ∧ transitionDue s g false = true) ∧
    (∃ (g : Fin 8) (x : Option Nat) (s : State), s.pwu.fine[g].running = true ∧ gatesAllowed s = false ∧ transitionDue s g false = true) ∧
    (∃ (j : Fin 4) (t0 : Nat) (s : State), (finePeaks s).pwu.trig[j].pulseAt = some t0 ∧ t0 ≤ s.pm) ∧
    (∃ (j : Fin 4) (s : State), s.pwu.trig[j].active = true ∧ s.pwu.trig[j].endAt ≤ s.pm) :=
  ⟨⟨(0 : Fin 12), w0,
   by decide +kernel⟩,
   ⟨(0 : Fin 96), _, modNoz 0 (fun x => { x with active := 65535 }) (modNoz (0 : Fin 96) (fun x => { x with running := true }) (w0)),
   by decide +kernel,
   by decide +kernel,
   by decide +kernel,
   rfl,
   by decide +kernel⟩,
   ⟨(0 : Fin 96), _, modNoz (0 : Fin 96) (fun x => { x with running := true }) (w0),
   by decide +kernel,
   by decide +kernel,
   by decide +kernel,
   rfl,
   by decide +kernel⟩,
   ⟨(0 : Fin 96), _, modCh 0 (fun x => { x with st := .hold }) (modNoz 0 (fun x => { x with merged := true }) (modNoz (0 : Fin 96) (fun x => { x with running := true }) (w0))),
   by decide +kernel,
   by decide +kernel,
   by decide +kernel,
   rfl,
   by decide +kernel⟩,
   ⟨(0 : Fin 96), 0, modNoz (0 : Fin 96) (fun x => { x with running := true }) (modNoz (0 : Fin 96) (fun x => { x with closeAt := (some 0) }) (w0)),
   by decide +kernel⟩,
   ⟨(0 : Fin 96), 100000000000, modNoz 0 (fun x => { x with openAt := 99994666666 }) (modNoz (0 : Fin 96) (fun x => { x with running := true }) (modNoz (0 : Fin 96) (fun x => { x with closeAt := (some 100000000000) }) (w0))),
   by decide +kernel⟩,
   ⟨(0 : Fin 8), modFine (0 : Fin 8) (fun x => { x with running := true }) (w0),
   by decide +kernel⟩,
   ⟨(0 : Fin 8), none, modFine 0 (fun x => { x with running := true, periodActive := 20000, startAt := 500000000000, cmpActive := 10000 }) (modFine (0 : Fin 8) (fun x => { x with running := true }) (w0)),
   by decide +kernel⟩,
   ⟨(0 : Fin 8), none, inDev .safe (modFine 0 (fun x => { x with running := true, periodActive := 20000, startAt := 500000000000, cmpActive := 10000 }) (modFine (0 : Fin 8) (fun x => { x with running := true }) (w0))),
   by decide +kernel⟩,
   ⟨(0 : Fin 8), none, modFine 0 (fun x => { x with running := true, periodActive := 20000, startAt := 499999990000, cmpActive := 5000, target := true }) (modFine (0 : Fin 8) (fun x => { x with running := true }) (w0)),
   by decide +kernel⟩,
   ⟨(0 : Fin 8), none, inDev .safe (modFine 0 (fun x => { x with running := true, periodActive := 20000, startAt := 499999990000, cmpActive := 5000, target := true }) (modFine (0 : Fin 8) (fun x => { x with running := true }) (w0))),
   by decide +kernel⟩,
   ⟨(0 : Fin 4), 0, modTrig 0 (fun x => { x with pulseAt := some 0 }) (w0),
   by decide +kernel⟩,
   ⟨(0 : Fin 4), modTrig (0 : Fin 4) (fun x => { x with active := true }) (w0),
   by decide +kernel⟩⟩

theorem test_meets_LoopEventsExecute :
    (∃ (k : Fin 16) (x : LoopIn) (s : State), ceRuns s = true ∧ loopCounts s k (s.pm / 10000 * 10000) = true ∧ s.ce.loop[k].evalFor ≠ some (s.pm / 10000 * 10000) ∧ loopTurn s k (s.pm / 10000 * 10000) = true ∧ s.pm < s.pm / 10000 * 10000 + deadline s k ∧ loopInputs s k (s.pm / 10000 * 10000) = some x ∧ loopMode s k.val = 3) ∧
    (∃ (k : Fin 16) (x : LoopIn) (s : State), ceRuns s = true ∧ loopCounts s k (s.pm / 10000 * 10000) = true ∧ s.ce.loop[k].evalFor ≠ some (s.pm / 10000 * 10000) ∧ loopTurn s k (s.pm / 10000 * 10000) = true ∧ s.pm < s.pm / 10000 * 10000 + deadline s k ∧ loopInputs s k (s.pm / 10000 * 10000) = some x ∧ loopMode s k.val ≠ 3) ∧
    (∃ (k : Fin 16) (s : State), loopInputs s k (s.pm / 10000 * 10000) = none) ∧
    (∃ (k : Fin 16) (s : State), missedInstant s k = none) ∧
    (∃ (k : Fin 16) (t0 : Nat) (s : State), missedInstant s k = some t0 ∧ (ceRuns s = false ∨ s.ce.loop[k].fault = true ∨ t0 < (elemOf s .control).doneAt.getD 0)) ∧
    (∃ (k : Fin 16) (t0 : Nat) (s : State), missedInstant s k = some t0 ∧ ceRuns s = true ∧ s.ce.loop[k].fault = false ∧ (elemOf s .control).doneAt.getD 0 ≤ t0 ∧ s.ce.loop[k].missRun < 2) ∧
    (∃ (k : Fin 16) (t0 : Nat) (s : State), missedInstant s k = some t0 ∧ ceRuns s = true ∧ s.ce.loop[k].fault = false ∧ (elemOf s .control).doneAt.getD 0 ≤ t0 ∧ 2 ≤ s.ce.loop[k].missRun ∧ loopSafe s k = true ∧ safeAllowed s = true) ∧
    (∃ (k : Fin 16) (t0 : Nat) (s : State), missedInstant s k = some t0 ∧ ceRuns s = true ∧ s.ce.loop[k].fault = false ∧ (elemOf s .control).doneAt.getD 0 ≤ t0 ∧ 2 ≤ s.ce.loop[k].missRun ∧ loopSafe s k = false) ∧
    (∃ (j : Fin 4) (t0 : Nat) (s : State), flowF s j 4 1 = 1 ∧ s.ce.flow[j].imbalance = false ∧ s.ce.flow[j].overSince = some t0 ∧ t0 + 160000000 ≤ s.pm) ∧
    (∃ (j : Fin 4) (t0 : Nat) (s : State), flowF s j 4 1 = 1 ∧ s.ce.flow[j].imbalance = true ∧ s.ce.flow[j].underSince = some t0 ∧ t0 + 160000000 ≤ s.pm) ∧
    (∃ (j : Fin 4) (s : State), flowF s j 4 1 = 1 ∧ (s.ce.flow[j].imbalance = false → ∀ t0, s.ce.flow[j].overSince = some t0 → s.pm < t0 + 160000000) ∧ (s.ce.flow[j].imbalance = true → ∀ t0, s.ce.flow[j].underSince = some t0 → s.pm < t0 + 160000000)) ∧
    (∃ (j : Fin 4) (s : State), flowF s j 4 1 ≠ 1) :=
  ⟨⟨(0 : Fin 16), { y := 0, r := 0, v := 0, held := false }, (fun s => { s with pm := 100000000160 }) (withP .ce 0 2 3 (w0)),
   by decide +kernel⟩,
   ⟨(0 : Fin 16), { y := 0, r := 0, v := 0, held := false }, (fun s => { s with pm := 100000000160 }) (withP .ce 0 2 1 (w0)),
   by decide +kernel⟩,
   ⟨(0 : Fin 16), modAin 0 (fun x => { x with cur := { pm := 0, invalid := true }, past := [(0, { pm := 0, invalid := true })] }) (w0),
   by decide +kernel⟩,
   ⟨(0 : Fin 16), w0,
   by decide +kernel⟩,
   ⟨(0 : Fin 16), 100000000000, inDev .safe ((fun s => { s with pm := 100000007000 }) (withP .ce 0 2 3 (w0))),
   by decide +kernel⟩,
   ⟨(0 : Fin 16), 100000000000, (fun s => { s with pm := 100000007000 }) (withP .ce 0 2 3 (modLoop (0 : Fin 16) (fun x => { x with fault := false }) (w0))),
   by decide +kernel⟩,
   ⟨(0 : Fin 16), 100000000000, withP .safe 0 1 1 (modLoop 0 (fun x => { x with missRun := 2 }) ((fun s => { s with pm := 100000007000 }) (withP .ce 0 2 3 (modLoop (0 : Fin 16) (fun x => { x with fault := false }) (w0))))),
   by decide +kernel⟩,
   ⟨(0 : Fin 16), 100000000000, modLoop 0 (fun x => { x with missRun := 2 }) ((fun s => { s with pm := 100000007000 }) (withP .ce 0 2 3 (modLoop (0 : Fin 16) (fun x => { x with fault := false }) (w0)))),
   by decide +kernel⟩,
   ⟨(0 : Fin 4), 0, withP .ce 16388 1 1 (modFlow (0 : Fin 4) (fun x => { x with overSince := (some 0) }) (modFlow (0 : Fin 4) (fun x => { x with imbalance := false }) (w0))),
   by decide +kernel⟩,
   ⟨(0 : Fin 4), 0, withP .ce 16388 1 1 (modFlow (0 : Fin 4) (fun x => { x with underSince := (some 0) }) (modFlow (0 : Fin 4) (fun x => { x with imbalance := true }) (w0))),
   by decide +kernel⟩,
   ⟨(0 : Fin 4), withP .ce 16388 1 1 (w0),
   by decide +kernel⟩,
   ⟨(0 : Fin 4), w0,
   by decide +kernel⟩⟩

theorem test_meets_InputEventsExecute :
    (∃ (i : Fin 4) (ba : BitVec 2) (t0 : Nat) (s : State), pifRuns s = true ∧ linesReady s (encFilter s i) (ba.toNat ^^^ s.pif.enc[i].state) s.pif.enc[i].accepted = true ∧ t0 = s.pm - (encFilter s i - 1) ∧ quadPos ba.toNat = quadPos s.pif.enc[i].state) ∧
    (∃ (i : Fin 4) (ba : BitVec 2) (t0 : Nat) (s : State), pifRuns s = true ∧ linesReady s (encFilter s i) (ba.toNat ^^^ s.pif.enc[i].state) s.pif.enc[i].accepted = true ∧ t0 = s.pm - (encFilter s i - 1) ∧ (quadPos ba.toNat + 4 - quadPos s.pif.enc[i].state) % 4 = 2) ∧
    (∃ (i : Fin 4) (ba : BitVec 2) (t0 : Nat) (d : Int) (s : State), pifRuns s = true ∧ linesReady s (encFilter s i) (ba.toNat ^^^ s.pif.enc[i].state) s.pif.enc[i].accepted = true ∧ t0 = s.pm - (encFilter s i - 1) ∧ ((quadPos ba.toNat + 4 - quadPos s.pif.enc[i].state) % 4 = 1 ∧ d = (if encDirInv s i then -1 else 1) ∨ (quadPos ba.toNat + 4 - quadPos s.pif.enc[i].state) % 4 = 3 ∧ d = (if encDirInv s i then 1 else -1))) ∧
    (∃ (i : Fin 4) (ba : BitVec 2) (t0 : Nat) (s : State), pifRuns s = true ∧ linesReady s (encFilter s i) (ba.toNat ^^^ s.pif.enc[i].state) s.pif.enc[i].accepted = true ∧ lineReady s (2 * encFilter s i) s.pif.enc[i].accepted[(2 : Fin 3)] = true ∧ t0 = s.pm - (encFilter s i - 1) ∧ (indexMode s i = 0 ∨ (gateEn s i = true ∧ gateAb s i ≠ ba.toNat))) ∧
    (∃ (i : Fin 4) (ba : BitVec 2) (t0 : Nat) (s : State), pifRuns s = true ∧ linesReady s (encFilter s i) (ba.toNat ^^^ s.pif.enc[i].state) s.pif.enc[i].accepted = true ∧ lineReady s (2 * encFilter s i) s.pif.enc[i].accepted[(2 : Fin 3)] = true ∧ t0 = s.pm - (encFilter s i - 1) ∧ indexMode s i = 1 ∧ (gateEn s i = false ∨ gateAb s i = ba.toNat)) ∧
    (∃ (i : Fin 4) (ba : BitVec 2) (t0 : Nat) (s : State), pifRuns s = true ∧ linesReady s (encFilter s i) (ba.toNat ^^^ s.pif.enc[i].state) s.pif.enc[i].accepted = true ∧ lineReady s (2 * encFilter s i) s.pif.enc[i].accepted[(2 : Fin 3)] = true ∧ t0 = s.pm - (encFilter s i - 1) ∧ (indexMode s i = 2 ∨ (indexMode s i = 3 ∧ (quadStep i t0 ba.toNat s).pif.enc[i].idxArm = true)) ∧ (gateEn s i = false ∨ gateAb s i = ba.toNat) ∧ (∀ a, (quadStep i t0 ba.toNat s).pif.enc[i].setAt = some a → a < t0)) ∧
    (∃ (i : Fin 4) (wvu : BitVec 3) (t0 : Nat) (s : State), pifRuns s = true ∧ linesReady s (hallFilter s i) (wvu.toNat ^^^ s.pif.hall[i].state) s.pif.hall[i].accepted = true ∧ t0 = s.pm - (hallFilter s i - 1) ∧ wvu ≠ 0 ∧ wvu ≠ 7) ∧
    (∃ (i : Fin 4) (wvu : BitVec 3) (t0 : Nat) (s : State), pifRuns s = true ∧ linesReady s (hallFilter s i) (wvu.toNat ^^^ s.pif.hall[i].state) s.pif.hall[i].accepted = true ∧ t0 = s.pm - (hallFilter s i - 1) ∧ (wvu = 0 ∨ wvu = 7) ∧ s.pif.hall[i].hallIllegal = false) ∧
    (∃ (i : Fin 4) (wvu : BitVec 3) (t0 : Nat) (s : State), pifRuns s = true ∧ linesReady s (hallFilter s i) (wvu.toNat ^^^ s.pif.hall[i].state) s.pif.hall[i].accepted = true ∧ t0 = s.pm - (hallFilter s i - 1) ∧ (wvu = 0 ∨ wvu = 7) ∧ s.pif.hall[i].hallIllegal = true) ∧
    (∃ (i : Fin 4) (s : State), s.pif.hall[i].hallIllegal = true ∧ s.pif.hall[i].invalid = false ∧ s.pif.hall[i].illegalAt + 80000 ≤ s.pm) ∧
    (∃ (i : Fin 16) (t0 : Nat) (s : State), pifRuns s = true ∧ lineReady s (freqFilter s i) s.pif.freq[i].acceptedAt = true ∧ s.pif.freq[i].level = freqFalling s i ∧ t0 = s.pm - (freqFilter s i - 1)) ∧
    (∃ (i : Fin 16) (s : State), pifRuns s = true ∧ lineReady s (freqFilter s i) s.pif.freq[i].acceptedAt = true ∧ s.pif.freq[i].level ≠ freqFalling s i) ∧
    (∃ (i : Fin 8) (f : Bool) (s : State), pifRuns s = true ∧ lineReady s (evtFilter s i) s.pif.evt[i].acceptedAt = true ∧ bitN (evtEdges s i) (if f then 1 else 0) = true ∧ s.pif.evt[i].fifo.length < 32) ∧
    (∃ (i : Fin 8) (f : Bool) (s : State), pifRuns s = true ∧ lineReady s (evtFilter s i) s.pif.evt[i].acceptedAt = true ∧ bitN (evtEdges s i) (if f then 1 else 0) = true ∧ 32 ≤ s.pif.evt[i].fifo.length) ∧
    (∃ (i : Fin 8) (f : Bool) (s : State), pifRuns s = true ∧ lineReady s (evtFilter s i) s.pif.evt[i].acceptedAt = true ∧ bitN (evtEdges s i) (if f then 1 else 0) = false) ∧
    (∃ (i : Fin 32) (mv : BitVec 16) (t0 : Nat) (v : Nat) (c : AinVal) (s : State), pifRuns s = true ∧ (ainTrigEn s i = false ∧ t0 = s.pm / 10000 * 10000 ∨ ainTrigEn s i = true ∧ ∃ g, idx? 8 (ainTrigGen s i) = some g ∧ (finePeaks s).pwu.fine[g].trigAt = some t0) ∧ s.pif.ain[i].since ≤ t0 ∧ (∀ p ∈ s.pif.ain[i].past, p.1 < t0) ∧ v = min mv.toNat (ainTop s i) ∧ c = { pm := t0, value := v, invalid := decide (v < ainLo s i ∨ ainHi s i < v) }) ∧
    (∃ (x : Fin 2) (m : Emu) (s : State), emuRuns s x = true ∧ (emuUpdate x id s).pif.emu[x] = m ∧ m.whole ≠ 0 ∧ (∀ t0, m.lastStep = some t0 → t0 + 160 ≤ s.pm)) ∧
    (∃ (x : Fin 2) (m : Emu) (s : State), emuRuns s x = true ∧ (emuUpdate x id s).pif.emu[x] = m ∧ (m.whole = 0 ∨ ∃ t0, m.lastStep = some t0 ∧ s.pm < t0 + 160)) :=
  ⟨⟨(0 : Fin 4), (0 : BitVec 2), _, w0,
   by decide +kernel,
   by decide +kernel,
   rfl,
   by decide +kernel⟩,
   ⟨(0 : Fin 4), (3 : BitVec 2), _, w0,
   by decide +kernel,
   by decide +kernel,
   rfl,
   by decide +kernel⟩,
   ⟨(0 : Fin 4), (1 : BitVec 2), _, 1, w0,
   by decide +kernel,
   by decide +kernel,
   rfl,
   by decide +kernel⟩,
   ⟨(0 : Fin 4), (0 : BitVec 2), _, w0,
   by decide +kernel,
   by decide +kernel,
   by decide +kernel,
   rfl,
   by decide +kernel⟩,
   ⟨(0 : Fin 4), (0 : BitVec 2), _, withP .pif 9 2 1 (w0),
   by decide +kernel,
   by decide +kernel,
   by decide +kernel,
   rfl,
   by decide +kernel⟩,
   ⟨(0 : Fin 4), (0 : BitVec 2), _, withP .pif 9 2 2 (w0),
   by decide +kernel,
   by decide +kernel,
   by decide +kernel,
   rfl,
   by decide +kernel⟩,
   ⟨(0 : Fin 4), (1 : BitVec 3), _, w0,
   by decide +kernel,
   by decide +kernel,
   rfl,
   by decide +kernel⟩,
   ⟨(0 : Fin 4), (0 : BitVec 3), _, modHall (0 : Fin 4) (fun x => { x with hallIllegal := false }) (w0),
   by decide +kernel,
   by decide +kernel,
   rfl,
   by decide +kernel⟩,
   ⟨(0 : Fin 4), (0 : BitVec 3), _, modHall (0 : Fin 4) (fun x => { x with hallIllegal := true }) (w0),
   by decide +kernel,
   by decide +kernel,
   rfl,
   by decide +kernel⟩,
   ⟨(0 : Fin 4), modHall (0 : Fin 4) (fun x => { x with invalid := false }) (modHall (0 : Fin 4) (fun x => { x with hallIllegal := true }) (w0)),
   by decide +kernel⟩,
   ⟨(0 : Fin 16), _, w0,
   by decide +kernel,
   by decide +kernel,
   by decide +kernel,
   rfl⟩,
   ⟨(0 : Fin 16), modFreq 0 (fun x => { x with level := true }) (w0),
   by decide +kernel⟩,
   ⟨(0 : Fin 8), false, withP .pif 1288 2 1 (w0),
   by decide +kernel⟩,
   ⟨(0 : Fin 8), false, modEvt 0 (fun x => { x with fifo := List.replicate 32 {} }) (withP .pif 1288 2 1 (w0)),
   by decide +kernel⟩,
   ⟨(0 : Fin 8), false, w0,
   by decide +kernel⟩,
   ⟨(0 : Fin 32), (0 : BitVec 16), 100000000000, _, _, w0,
   by decide +kernel,
   by decide +kernel,
   by decide +kernel,
   by decide +kernel,
   rfl,
   rfl⟩,
   ⟨(0 : Fin 2), _, modEmu 0 (fun x => { x with acc := 2 ^ 70 }) (withP .pif 1408 2 1 (w0)),
   by decide +kernel,
   rfl,
   by decide +kernel⟩,
   ⟨(0 : Fin 2), _, withP .pif 1408 2 1 (w0),
   by decide +kernel,
   rfl,
   by decide +kernel⟩⟩

theorem test_meets_LoadSwitchEventsExecute :
    (∃ (c : Fin 16) (s : State), s.lsw.ls[c].st = .inrush ∧ s.lsw.ls[c].stepEnd ≤ lswNow s ∧ s.lsw.ls[c].step + 1 < s.lsw.ls[c].profile.steps) ∧
    (∃ (c : Fin 16) (s : State), s.lsw.ls[c].st = .inrush ∧ s.lsw.ls[c].stepEnd ≤ lswNow s ∧ s.lsw.ls[c].profile.steps ≤ s.lsw.ls[c].step + 1) ∧
    (∃ (c : Fin 16) (s : State), (s.lsw.ls[c].st = .on ∨ offDiagnosed s c = true) ∧ s.lsw.ls[c].openLoad = false) ∧
    (∃ (c : Fin 16) (s : State), s.lsw.ls[c].openLoad = true) ∧
    (∃ (c : Fin 16) (s : State), offDiagnosed s c = true ∧ s.lsw.ls[c].shortBat = false) ∧
    (∃ (c : Fin 16) (s : State), s.lsw.ls[c].shortBat = true) ∧
    (∃ (c : Fin 16) (s : State), s.lsw.ls[c].outOn = true) ∧
    (∃ (c : Fin 16) (s : State), s.lsw.ls[c].isOn = true ∧ s.pd0.keyOffHold[c] = none) ∧
    (∃ (c : Fin 16) (x : Int) (s : State), thsTakes s 8 (lswSensor c) = true) ∧
    (∃ (c : Fin 16) (x : Int) (s : State), thsTakes s 8 (lswSensor c) = true ∧ tTrip s ≤ x ∧ x ≤ 2100 ∧ s.ths.zone[(8 : Fin 10)].sens[lswSensor c].broken = false) ∧
    (∃ (c : Fin 16) (x : Int) (s : State), thsTakes s 8 (lswSensor c) = false ∧ s.sys.dev = .off ∧ tTrip s ≤ x ∧ s.lsw.ls[c].thermLatch = false) ∧
    (∃ (c : Fin 16) (x : Int) (s : State), thsTakes s 8 (lswSensor c) = false ∧ s.sys.dev = .off ∧ (x < tTrip s ∨ s.lsw.ls[c].thermLatch = true) ∧ (s.lsw.ls[c].thermLatch = false ∨ tRelease s < x)) ∧
    (∃ (c : Fin 16) (x : Int) (s : State), thsTakes s 8 (lswSensor c) = true) ∧
    (∃ (c : Fin 16) (x : Int) (s : State), thsTakes s 8 (lswSensor c) = true ∧ x ≤ tRelease s ∧ -600 ≤ x ∧ s.ths.zone[(8 : Fin 10)].sens[lswSensor c].broken = false) ∧
    (∃ (c : Fin 16) (x : Int) (s : State), thsTakes s 8 (lswSensor c) = false ∧ s.sys.dev = .off ∧ s.lsw.ls[c].thermLatch = true ∧ x ≤ tRelease s) ∧
    (∃ (a : Nat) (s : State), 80000 < a ∧ s.lsw.shedding = false) ∧
    (∃ (a : Nat) (s : State), s.lsw.shedding = true ∧ s.lsw.lastShed + 80000 ≤ s.pm ∧ 76000 < a) ∧
    (∃ (a : Nat) (s : State), s.lsw.shedding = true ∧ s.lsw.lastShed + 80000 ≤ s.pm ∧ a ≤ 76000) ∧
    (∃ (c : Fin 16) (s : State), s.lsw.ls[c].st = .latched ∧ s.lsw.ls[c].aggregate = false ∧ s.lsw.ls[c].thermLatch = false ∧ s.lsw.ls[c].exhausted = false ∧ s.sys.dev ≠ .latched ∧ max (s.lsw.ls[c].tripAt + msTicks s.lsw.ls[c].profile.retryDelay) s.lsw.ls[c].thermAt ≤ lswNow s ∧ s.pd0.lswOn[c] = true ∧ s.sys.dev ≠ .off ∧ 0 < s.pd0.lswRetries[c]) ∧
    (∃ (c : Fin 16) (s : State), s.lsw.ls[c].st = .latched ∧ s.lsw.ls[c].aggregate = false ∧ s.lsw.ls[c].thermLatch = false ∧ s.lsw.ls[c].exhausted = false ∧ s.sys.dev ≠ .latched ∧ max (s.lsw.ls[c].tripAt + msTicks s.lsw.ls[c].profile.retryDelay) s.lsw.ls[c].thermAt ≤ lswNow s ∧ (s.pd0.lswOn[c] = false ∨ s.sys.dev = .off)) ∧
    (∃ (c : Fin 16) (s : State), s.lsw.ls[c].st = .latched ∧ s.lsw.ls[c].aggregate = false ∧ s.lsw.ls[c].thermLatch = false ∧ s.lsw.ls[c].exhausted = false ∧ s.sys.dev ≠ .latched ∧ max (s.lsw.ls[c].tripAt + msTicks s.lsw.ls[c].profile.retryDelay) s.lsw.ls[c].thermAt ≤ lswNow s ∧ s.pd0.lswOn[c] = true ∧ s.sys.dev ≠ .off ∧ s.pd0.lswRetries[c] = 0) ∧
    (∃ (c : Fin 16) (l : Lsw) (o : Nat) (s : State), l = s.lsw.ls[c].advance (lswNow s) ∧ o = l.pulseB + l.pulsePhase * l.pulseP / 256 ∧ l.pulsing = true ∧ (l.st = .on ∨ (l.st = .off ∧ l.firstPulse = false)) ∧ o ≤ lswNow s ∧ l.lastOpen < o + 1 ∧ s.sys.dev ≠ .safe) ∧
    (∃ (c : Fin 16) (s : State), ((s.lsw.ls[c].advance (lswNow s)).pulsing = false ∨ (s.lsw.ls[c].advance (lswNow s)).st = .latched)) ∧
    (∃ (c : Fin 16) (t0 : Nat) (s : State), s.lsw.ls[c].closeAt = some t0 ∧ t0 ≤ lswNow s ∧ s.lsw.ls[c].pulsing = true) ∧
    (∃ (c : Fin 16) (t0 : Nat) (s : State), s.lsw.ls[c].closeAt = some t0 ∧ (lswNow s < t0 ∨ s.lsw.ls[c].pulsing = false)) ∧
    (∃ (c : Fin 16) (s : State), s.lsw.ls[c].closeAt = none) ∧
    (∃ (c : Fin 16) (s : State), s.sys.dev = .coast ∧ coastPolicy s c = 1 ∧ s.sys.coastEntry + offAfter s c ≤ s.pm) ∧
    (∃ (c : Fin 16) (t0 : Nat) (s : State), s.pd0.keyOffHold[c] = some t0 ∧ t0 ≤ s.pd0.now) ∧
    (∃ (c : Fin 16) (s : State), (∀ t0, s.pd0.keyOffHold[c] = some t0 → s.pd0.now < t0)) :=
  ⟨⟨(0 : Fin 16), modLsw (0 : Fin 16) (fun x => { x with profile := { steps := 3 } }) (modLsw (0 : Fin 16) (fun x => { x with st := .inrush }) (w0)),
   by decide +kernel⟩,
   ⟨(0 : Fin 16), modLsw (0 : Fin 16) (fun x => { x with st := .inrush }) (w0),
   by decide +kernel⟩,
   ⟨(0 : Fin 16), modLsw (0 : Fin 16) (fun x => { x with st := .on }) (modLsw (0 : Fin 16) (fun x => { x with openLoad := false }) (w0)),
   Or.inl (by decide +kernel),
   by decide +kernel⟩,
   ⟨(0 : Fin 16), modLsw (0 : Fin 16) (fun x => { x with openLoad := true }) (w0),
   by decide +kernel⟩,
   ⟨(0 : Fin 16), withP .lsw 14 1 1 (modLsw (0 : Fin 16) (fun x => { x with shortBat := false }) (w0)),
   by decide +kernel⟩,
   ⟨(0 : Fin 16), modLsw (0 : Fin 16) (fun x => { x with shortBat := true }) (w0),
   by decide +kernel⟩,
   ⟨(0 : Fin 16), modLsw (0 : Fin 16) (fun x => { x with st := .on }) (w0),
   by decide +kernel⟩,
   ⟨(0 : Fin 16), modLsw (0 : Fin 16) (fun x => { x with st := .on }) ((fun s => s.onPd0 fun x => { x with keyOffHold := vmod x.keyOffHold (0 : Fin 16) (fun _ => none) }) (w0)),
   by decide +kernel⟩,
   ⟨(0 : Fin 16), 100000, (fun s => s.onPd0 fun y => { y with keyOffHold := vmod y.keyOffHold 0 (fun _ => (some 0)) }) (w0),
   by decide +kernel⟩,
   ⟨(0 : Fin 16), 1900, w0,
   by decide +kernel⟩,
   ⟨(0 : Fin 16), 100000, modLsw (0 : Fin 16) (fun x => { x with thermLatch := false }) ((fun s => s.onSys fun x => { x with dev := .off }) (w0)),
   by decide +kernel⟩,
   ⟨(0 : Fin 16), (-100000), (fun s => s.onSys fun x => { x with dev := .off }) (w0),
   by decide +kernel⟩,
   ⟨(0 : Fin 16), 0, w0,
   by decide +kernel⟩,
   ⟨(0 : Fin 16), 0, w0,
   by decide +kernel⟩,
   ⟨(0 : Fin 16), (-100000), modLsw (0 : Fin 16) (fun x => { x with thermLatch := true }) ((fun s => s.onSys fun x => { x with dev := .off }) (w0)),
   by decide +kernel⟩,
   ⟨80001, (fun s => s.onLsw fun x => { x with shedding := false }) (w0),
   by decide +kernel⟩,
   ⟨76001, (fun s => s.onLsw fun x => { x with shedding := true }) (w0),
   by decide +kernel⟩,
   ⟨0, (fun s => s.onLsw fun x => { x with shedding := true }) (w0),
   by decide +kernel⟩,
   ⟨(0 : Fin 16), (fun s => s.onPd0 fun y => { y with lswOn := vmod y.lswOn 0 (fun _ => true) }) (modLsw (0 : Fin 16) (fun x => { x with st := .latched }) ((fun s => s.onPd0 fun x => { x with lswOn := vmod x.lswOn (0 : Fin 16) (fun _ => true) }) (modLsw (0 : Fin 16) (fun x => { x with exhausted := false }) (modLsw (0 : Fin 16) (fun x => { x with thermLatch := false }) (modLsw (0 : Fin 16) (fun x => { x with aggregate := false }) (modLsw (0 : Fin 16) (fun x => { x with st := .latched }) (w0))))))),
   by decide +kernel⟩,
   ⟨(0 : Fin 16), modLsw (0 : Fin 16) (fun x => { x with st := .latched }) (modLsw (0 : Fin 16) (fun x => { x with exhausted := false }) (modLsw (0 : Fin 16) (fun x => { x with thermLatch := false }) (modLsw (0 : Fin 16) (fun x => { x with aggregate := false }) (modLsw (0 : Fin 16) (fun x => { x with st := .latched }) (w0))))),
   by decide +kernel⟩,
   ⟨(0 : Fin 16), (fun s => s.onPd0 fun y => { y with lswOn := vmod y.lswOn 0 (fun _ => true), lswRetries := vmod y.lswRetries 0 (fun _ => 0) }) (modLsw (0 : Fin 16) (fun x => { x with st := .latched }) ((fun s => s.onPd0 fun x => { x with lswRetries := vmod x.lswRetries (0 : Fin 16) (fun _ => 0) }) ((fun s => s.onPd0 fun x => { x with lswOn := vmod x.lswOn (0 : Fin 16) (fun _ => true) }) (modLsw (0 : Fin 16) (fun x => { x with exhausted := false }) (modLsw (0 : Fin 16) (fun x => { x with thermLatch := false }) (modLsw (0 : Fin 16) (fun x => { x with aggregate := false }) (modLsw (0 : Fin 16) (fun x => { x with st := .latched }) (w0)))))))),
   by decide +kernel⟩,
   ⟨(0 : Fin 16), _, _, modLsw (0 : Fin 16) (fun x => { x with st := .on, pulsing := true }) (w0),
   rfl,
   rfl,
   by decide +kernel⟩,
   ⟨(0 : Fin 16), w0,
   by decide +kernel⟩,
   ⟨(0 : Fin 16), 0, modLsw (0 : Fin 16) (fun x => { x with pulsing := true }) (modLsw (0 : Fin 16) (fun x => { x with closeAt := (some 0) }) (w0)),
   by decide +kernel⟩,
   ⟨(0 : Fin 16), 0, modLsw (0 : Fin 16) (fun x => { x with closeAt := (some 0) }) (w0),
   by decide +kernel⟩,
   ⟨(0 : Fin 16), modLsw (0 : Fin 16) (fun x => { x with closeAt := none }) (w0),
   by decide +kernel⟩,
   ⟨(0 : Fin 16), withP .lsw 4 2 1 (inDev .coast ((fun s => s.onSys fun x => { x with dev := .coast }) (w0))),
   by decide +kernel⟩,
   ⟨(0 : Fin 16), 0, (fun s => s.onPd0 fun y => { y with keyOffHold := vmod y.keyOffHold 0 (fun _ => (some 0)) }) ((fun s => s.onPd0 fun x => { x with keyOffHold := vmod x.keyOffHold (0 : Fin 16) (fun _ => (some 0)) }) (w0)),
   by decide +kernel⟩,
   ⟨(0 : Fin 16), w0,
   by decide +kernel⟩⟩

theorem test_meets_ThermalEventsExecute :
    (∃ (z : Fin 10) (k : Fin 20) (x : Int) (s : State), thsTakes s z k = true) ∧
    (∃ (z : Fin 10) (k : Fin 20) (x : Int) (s : State), thsTakes s z k = true) ∧
    (∃ (z : Fin 10) (k : Fin 20) (x : Int) (v : Nat × Int) (s : State), thsTakes s z k = true ∧ zoneValue (takeReading z k x s) z = some v ∧ (v.2 < shutdownAt s (zoneClass z) ∨ z = 9)) ∧
    (∃ (z : Fin 10) (k : Fin 20) (s : State), thsTakes s z k = true ∧ s.ths.zone[z].sens[k].broken = true) ∧
    (∃ (z : Fin 10) (k : Fin 20) (s : State), thsTakes s z k = true ∧ s.ths.zone[z].sens[k].broken = false) ∧
    (∃ (z : Fin 10) (k : Fin 20) (x : Int) (s : State), thsTakes s z k = true ∧ (stageOf z k).isSome = true ∧ s.ths.zone[z].sens[k].rises s.pm x = true ∧ -600 ≤ x ∧ x ≤ 2100 ∧ s.ths.zone[z].sens[k].broken = false) ∧
    (∃ (z : Fin 10) (k : Fin 20) (x : Int) (s : State), thsTakes s z k = true) ∧
    (∃ (z : Fin 10) (k : Fin 20) (x : Int) (s : State), thsTakes s z k = true ∧ (stageOf z k = none ∨ s.ths.zone[z].sens[k].rises s.pm x = false)) ∧
    (∃ (z : Fin 10) (k : Fin 20) (x : Int) (s : State), thsTakes s z k = true) ∧
    (∃ (z : Fin 10) (k : Fin 20) (x : Int) (v : Nat × Int) (s : State), thsTakes s z k = true ∧ z ≠ 9 ∧ zoneValue (takeReading z k x s) z = some v ∧ shutdownAt s (zoneClass z) ≤ v.2 ∧ 0 < s.ths.zone[z].hotRun ∧ s.sys.dev ≠ .latched) :=
  ⟨⟨(0 : Fin 10), (0 : Fin 20), 0, w0,
   by decide +kernel⟩,
   ⟨(0 : Fin 10), (0 : Fin 20), 0, w0,
   by decide +kernel⟩,
   ⟨(0 : Fin 10), (0 : Fin 20), 0, ((0, 0) : Nat × Int), w0,
   by decide +kernel⟩,
   ⟨(1 : Fin 10), (0 : Fin 20), modZone 1 (fun x => { x with sens := x.sens.set (0 : Fin 20) { x.sens[(0 : Fin 20)] with broken := true } }) (w0),
   by decide +kernel⟩,
   ⟨(1 : Fin 10), (0 : Fin 20), w0,
   by decide +kernel⟩,
   ⟨(1 : Fin 10), (0 : Fin 20), 500, modZone 1 (fun x => { x with sens := x.sens.set (0 : Fin 20) { x.sens[(0 : Fin 20)] with hist := [(0, 100)] } }) (w0),
   by decide +kernel⟩,
   ⟨(0 : Fin 10), (0 : Fin 20), 0, w0,
   by decide +kernel⟩,
   ⟨(0 : Fin 10), (0 : Fin 20), 0, w0,
   by decide +kernel⟩,
   ⟨(0 : Fin 10), (0 : Fin 20), 0, w0,
   by decide +kernel⟩,
   ⟨(1 : Fin 10), (0 : Fin 20), 1900, ((0, 1900) : Nat × Int), modZone 1 (fun x => { x with hotRun := 1 }) (w0),
   by decide +kernel⟩⟩

theorem test_meets_CanEventsExecute :
    (∃ (x : Fin 3) (f : CanFrame) (s : State), onBus s x = true ∧ (f.fdf = false ∨ fdEn s x = true) ∧ tunCtl s ≠ some x ∧ s.can.ctl[x].rec_ ≤ 127 ∧ holeFor s x f = none) ∧
    (∃ (x : Fin 3) (f : CanFrame) (k : Nat) (s : State), onBus s x = true ∧ (f.fdf = false ∨ fdEn s x = true) ∧ tunCtl s ≠ some x ∧ s.can.ctl[x].rec_ ≤ 127 ∧ holeFor s x f = some k ∧ phReserved s x k = false) ∧
    (∃ (x : Fin 3) (f : CanFrame) (s : State), onBus s x = true ∧ (f.fdf = false ∨ fdEn s x = true) ∧ tunCtl s ≠ some x ∧ 127 < s.can.ctl[x].rec_ ∧ holeFor s x f = none) ∧
    (∃ (x : Fin 3) (f : CanFrame) (k : Nat) (s : State), onBus s x = true ∧ (f.fdf = false ∨ fdEn s x = true) ∧ tunCtl s ≠ some x ∧ 127 < s.can.ctl[x].rec_ ∧ holeFor s x f = some k ∧ phReserved s x k = false) ∧
    (∃ (f : CanFrame) (k : Nat) (x : Fin 3) (s : State), onBus s x = true ∧ (f.fdf = false ∨ fdEn s x = true) ∧ tunCtl s ≠ some x ∧ s.can.ctl[x].rec_ ≤ 127 ∧ holeFor s x f = some k ∧ phReserved s x k = true) ∧
    (∃ (x : Fin 3) (f : CanFrame) (s : State), (onBus s x = false ∨ (f.fdf = true ∧ fdEn s x = false)) ∧ tunCtl s ≠ some x) ∧
    (∃ (x : Fin 3) (k : Fin 32) (s : State), onBus s x = true ∧ listen s x = false ∧ hasActive s x = none ∧ winner s x = some k) ∧
    (∃ (x : Fin 3) (r : TxResult) (s : State), hasActive s x = none) ∧
    (∃ (x : Fin 3) (k : Fin 32) (sof : Nat) (eof : Nat) (d : Option Nat) (s : State), hasActive s x = some k ∧ selfRx s x = false) ∧
    (∃ (x : Fin 3) (k : Fin 32) (sof : Nat) (eof : Nat) (d : Option Nat) (s : State), hasActive s x = some k ∧ selfRx s x = true) ∧
    (∃ (x : Fin 3) (k : Fin 32) (s : State), hasActive s x = some k) ∧
    (∃ (x : Fin 3) (k : Fin 32) (sof : Nat) (up : Nat) (data : Bool) (tdcv : Option Nat) (s : State), hasActive s x = some k ∧ (data = false ∨ s.can.ctl[x].slots[k].dataErrs ≠ 1)) ∧
    (∃ (x : Fin 3) (k : Fin 32) (sof : Nat) (up : Nat) (tdcv : Option Nat) (s : State), hasActive s x = some k ∧ s.can.ctl[x].slots[k].dataErrs = 1) ∧
    (∃ (x : Fin 3) (k : Fin 32) (s : State), s.can.ctl[x].slots[k].st = .pending ∧ slotDeadline s.can.ctl[x].slots[k].desc.toNat ≠ 0 ∧ slotDeadline s.can.ctl[x].slots[k].desc.toNat ≤ s.pm) ∧
    (∃ (x : Fin 3) (s : State), s.can.ctl[x].st = .recovering ∧ canRuns s = true ∧ s.can.ctl[x].busOffAt + 1408 * bitTicks s x ≤ s.pm ∧ x ≠ 1) ∧
    (∃ (s : State), s.can.ctl[(1 : Fin 3)].st = .recovering ∧ canRuns s = true ∧ s.can.ctl[(1 : Fin 3)].busOffAt + 1408 * bitTicks s 1 ≤ s.pm) ∧
    (∃ (x : Fin 3) (s : State), canRuns s = true ∧ canEnable s x = true ∧ s.can.ctl[x].st = .offBus ∧ (confine s.can.ctl[x].tec s.can.ctl[x].rec_ ≠ .busOff ∨ busoffAuto s x = false)) ∧
    (∃ (x : Fin 3) (s : State), canRuns s = true ∧ canEnable s x = true ∧ s.can.ctl[x].st = .offBus ∧ confine s.can.ctl[x].tec s.can.ctl[x].rec_ = .busOff ∧ busoffAuto s x = true) ∧
    (∃ (x : Fin 3) (n : Nat) (s : State), onBus s x = true) :=
  ⟨⟨(0 : Fin 3), ({} : CanFrame), w0,
   by decide +kernel⟩,
   ⟨(0 : Fin 3), ({} : CanFrame), 0, modCtl 0 (fun c => { c with holes := [{ ix := 0, filter := BitVec.ofNat 64 (2 ^ 31) }] }) (w0),
   by decide +kernel⟩,
   ⟨(0 : Fin 3), ({} : CanFrame), modCtl 0 (fun c => { c with rec_ := 128 }) (w0),
   by decide +kernel⟩,
   ⟨(0 : Fin 3), ({} : CanFrame), 0, modCtl 0 (fun c => { c with rec_ := 128 }) (modCtl 0 (fun c => { c with holes := [{ ix := 0, filter := BitVec.ofNat 64 (2 ^ 31) }] }) (w0)),
   by decide +kernel⟩,
   ⟨{ ide := true, id := 0x18EEFF80 }, 252, (0 : Fin 3), withP .can 776 1 1 (w0),
   by decide +kernel⟩,
   ⟨(0 : Fin 3), ({} : CanFrame), modCtl 0 (fun c => { c with st := .offBus }) (w0),
   by decide +kernel⟩,
   ⟨(0 : Fin 3), (0 : Fin 32), modSlot 0 0 (fun l => { l with st := .pending }) (w0),
   by decide +kernel⟩,
   ⟨(0 : Fin 3), .arbLost, w0,
   by decide +kernel⟩,
   ⟨(0 : Fin 3), (0 : Fin 32), 0, 0, none, modSlot 0 0 (fun l => { l with st := .active }) (w0),
   by decide +kernel⟩,
   ⟨(0 : Fin 3), (0 : Fin 32), 0, 0, none, withP .can 6 1 1 (modSlot 0 0 (fun l => { l with st := .active }) (w0)),
   by decide +kernel⟩,
   ⟨(0 : Fin 3), (0 : Fin 32), modSlot 0 0 (fun l => { l with st := .active }) (w0),
   by decide +kernel⟩,
   ⟨(0 : Fin 3), (0 : Fin 32), 0, 0, false, none, modSlot 0 0 (fun l => { l with st := .active }) (w0),
   by decide +kernel⟩,
   ⟨(0 : Fin 3), (0 : Fin 32), 0, 0, none, modSlot 0 0 (fun l => { l with st := .active }) (modSlot (0 : Fin 3) (0 : Fin 32) (fun x => { x with dataErrs := 1 }) (w0)),
   by decide +kernel⟩,
   ⟨(0 : Fin 3), (0 : Fin 32), modSlot 0 0 (fun l => { l with st := .pending, desc := BitVec.ofNat 640 (2 ^ 64) }) (modSlot (0 : Fin 3) (0 : Fin 32) (fun x => { x with st := .pending }) (w0)),
   by decide +kernel⟩,
   ⟨(0 : Fin 3), modCtl (0 : Fin 3) (fun x => { x with st := .recovering }) (w0),
   by decide +kernel⟩,
   ⟨modCtl ((1 : Fin 3)) (fun x => { x with st := .recovering }) (w0),
   by decide +kernel⟩,
   ⟨(0 : Fin 3), withP .can 0 1 1 (modCtl 0 (fun c => { c with st := .offBus }) (modCtl (0 : Fin 3) (fun x => { x with st := .offBus }) (w0))),
   by decide +kernel⟩,
   ⟨(0 : Fin 3), withP .can 3 1 1 (withP .can 0 1 1 (modCtl 0 (fun c => { c with st := .offBus, tec := 256 }) (modCtl (0 : Fin 3) (fun x => { x with st := .offBus }) (w0)))),
   by decide +kernel⟩,
   ⟨(0 : Fin 3), 0, w0,
   by decide +kernel⟩⟩

theorem test_meets_NetworkEventsExecute :
    (∃ (s : State), isoEn s = true ∧ canRuns s = true ∧ s.sys.dev ≠ .quarantine ∧ s.can.ctl[(0 : Fin 3)].st = .active ∧ s.can.claimed = false) ∧
    (∃ (t0 : Nat) (s : State), s.can.claimAt = some t0 ∧ t0 + 20000000 ≤ s.pm) ∧
    (∃ (s : State), (∀ t0, s.can.claimAt = some t0 → s.pm < t0 + 20000000)) ∧
    (∃ (s : State), rowRuns s = true ∧ s.can.syncAt < s.pm / syncInterval s * syncInterval s ∧ s.can.ctl[(1 : Fin 3)].slots[(31 : Fin 32)].st = .free) ∧
    (∃ (s : State), rowRuns s = true ∧ s.can.syncAt < s.pm / syncInterval s * syncInterval s ∧ s.can.ctl[(1 : Fin 3)].slots[(31 : Fin 32)].st ≠ .free) ∧
    (∃ (s : State), (s.sys.dev = .standby ∨ s.sys.dev = .safe) ∧ rowRuns s = true ∧ (∀ t0, s.can.allOffAt = some t0 → t0 + 8000000 ≤ s.pm)) ∧
    (∃ (s : State), rowEn s = true ∧ (s.can.rowEvents.any fun r => r.slot.isNone && decide (r.due + reportWait s ≤ s.pm)) = true) ∧
    (∃ (n : Fin 32) (u : State) (s : State), rowRuns s = true ∧ u = takeReport n s ∧ u.can.node[n].seen = true ∧ u.can.node[n].lost = false ∧ u.can.node[n].lastReport + rowTimeout s ≤ s.pm) :=
  ⟨⟨withP .can 776 1 1 ((fun s => s.onCan fun x => { x with claimed := false }) (modCtl ((0 : Fin 3)) (fun x => { x with st := .active }) (w0))),
   by decide +kernel⟩,
   ⟨0, (fun s => s.onCan fun x => { x with claimAt := (some 0) }) (w0),
   by decide +kernel⟩,
   ⟨w0,
   by decide +kernel⟩,
   ⟨withP .can 808 8 1 (withP .can 777 1 1 (modSlot (1 : Fin 3) (31 : Fin 32) (fun x => { x with st := .free }) (w0))),
   by decide +kernel⟩,
   ⟨modSlot 1 31 (fun l => { l with st := .active }) (withP .can 808 8 1 (withP .can 777 1 1 (w0))),
   by decide +kernel⟩,
   ⟨withP .can 777 1 1 (w0),
   by decide +kernel⟩,
   ⟨(fun s => s.onCan fun y => { y with rowEvents := [{}] }) (withP .can 777 1 1 (w0)),
   by decide +kernel⟩,
   ⟨(0 : Fin 32), _, modNode 0 (fun x => { x with seen := true }) (withP .can 777 1 1 (w0)),
   by decide +kernel,
   rfl,
   by decide +kernel⟩⟩

theorem test_meets_StoreEventsExecute :
    (∃ (l : List EccIn) (s : State), s.sys.mapReady = true ∧ s.map.lastScrub + msTicks (1000 * s.act.fld .map 160 16) ≤ s.pm) ∧
    (∃ (x : EccIn) (s : State), s.sys.mapReady = true ∧ s.map.lastScrub + msTicks (1000 * s.act.fld .map 160 16) ≤ s.pm ∧ s.map.upsets = [] ∧ x.double = false ∧ recurs x s = false) ∧
    (∃ (x : EccIn) (s : State), s.sys.mapReady = true ∧ s.map.lastScrub + msTicks (1000 * s.act.fld .map 160 16) ≤ s.pm ∧ s.map.upsets = [] ∧ x.double = true ∧ x.region = .polygon) ∧
    (∃ (s : State), True) ∧
    (∃ (m : Mask) (u : State) (s : State), s.map.building = some m ∧ s.restarting .pair = false ∧ u = (meetErrors (fun x => x.region == .polygon) s).1 ∧ u.map.polyDamaged = false ∧ m.tiles.length ≤ 256 - u.map.maskPool.retired.length ∧ m.entries ≤ 16384) ∧
    (∃ (m : Mask) (u : State) (s : State), s.map.building = some m ∧ s.restarting .pair = false ∧ u = (meetErrors (fun x => x.region == .polygon) s).1 ∧ (u.map.polyDamaged = true ∨ 256 - u.map.maskPool.retired.length < m.tiles.length ∨ 16384 < m.entries)) ∧
    (∃ (s : State), (s.map.building = none ∨ s.restarting .pair = true)) ∧
    (∃ (l : Load) (s : State), s.map.load = some l ∧ l.ending = false ∧ l.lastPm + 800000000 ≤ s.pm) ∧
    (∃ (s : State), (∀ l, s.map.load = some l → l.ending = true ∨ s.pm < l.lastPm + 800000000)) ∧
    (∃ (x : Exp) (s : State), s.map.exp = some x ∧ x.lastPm + 4800000000 ≤ s.pm) ∧
    (∃ (s : State), (∀ x, s.map.exp = some x → s.pm < x.lastPm + 4800000000)) ∧
    (∃ (s : State), s.map.log ≠ [] ∧ s.restarting .enclave = false ∧ s.map.logFirst + msTicks (1000 * s.act.fld .map 176 16) ≤ s.pm) ∧
    (∃ (due : Nat) (s : State), (s.sys.dev = .armed ∨ s.sys.dev = .manual) ∧ due = s.pm / msTicks (10 * s.act.fld .map 192 16) * msTicks (10 * s.act.fld .map 192 16) ∧ s.map.trackAt < due) ∧
    (∃ (s : State), (s.sys.dev ≠ .armed ∧ s.sys.dev ≠ .manual ∨ s.pm / msTicks (10 * s.act.fld .map 192 16) * msTicks (10 * s.act.fld .map 192 16) ≤ s.map.trackAt)) ∧
    (∃ (s : State), s.running = true ∧ s.vdr.latSaved + 48000000000 ≤ s.pm) :=
  ⟨⟨[], (fun s => s.onSys fun x => { x with mapReady := true }) (w0),
   by decide +kernel⟩,
   ⟨({} : EccIn), (fun s => s.onMap fun x => { x with upsets := [] }) ((fun s => s.onSys fun x => { x with mapReady := true }) (w0)),
   by decide +kernel⟩,
   ⟨{ double := true, region := .polygon }, (fun s => s.onMap fun x => { x with upsets := [] }) ((fun s => s.onSys fun x => { x with mapReady := true }) (w0)),
   by decide +kernel⟩,
   ⟨w0,
   trivial⟩,
   ⟨({} : Mask), _, (fun s => s.onMap fun x => { x with building := (some ({} : Mask)) }) (w0),
   by decide +kernel,
   by decide +kernel,
   rfl,
   by decide +kernel⟩,
   ⟨({} : Mask), _, (fun s => s.onMap fun y => { y with polyDamaged := true }) ((fun s => s.onMap fun x => { x with building := (some ({} : Mask)) }) (w0)),
   by decide +kernel,
   by decide +kernel,
   rfl,
   by decide +kernel⟩,
   ⟨w0,
   by decide +kernel⟩,
   ⟨({} : Load), (fun s => s.onMap fun x => { x with load := (some ({} : Load)) }) (w0),
   by decide +kernel⟩,
   ⟨w0,
   by decide +kernel⟩,
   ⟨({} : Exp), (fun s => s.onMap fun x => { x with exp := (some ({} : Exp)) }) (w0),
   by decide +kernel⟩,
   ⟨w0,
   by decide +kernel⟩,
   ⟨(fun s => s.onMap fun y => { y with log := [0] }) (w0),
   by decide +kernel⟩,
   ⟨_, inDev .armed (w0),
   by decide +kernel,
   rfl,
   by decide +kernel⟩,
   ⟨w0,
   by decide +kernel⟩,
   ⟨(fun s => { s with running := true }) (w0),
   by decide +kernel⟩⟩

theorem test_meets_SecurityEventsExecute :
    (∃ (s : State), True) ∧
    (∃ (i : Fin 5) (r : BitVec 4) (s : State), s.sec.image[i].trial = true ∧ trialTicks s ≤ trialRun s i ∧ r = (if s.sec.image[i].run.revokeOther then s.sec.revoked ||| (if s.sec.image[i].run.keyB then 1 else 2) else s.sec.revoked)) ∧
    (∃ (s : State), True) ∧
    (∃ (s : State), True) ∧
    (∃ (s : State), s.sec.verifying = none) ∧
    (∃ (k : Nat) (s : State), s.sec.verifying = some k ∧ idx? 5 k = none) ∧
    (∃ (k : Nat) (i : Fin 5) (s : State), s.sec.verifying = some k ∧ idx? 5 k = some i) :=
  ⟨⟨w0,
   trivial⟩,
   ⟨(0 : Fin 5), _, withP .sec 264 8 0 (modImage 0 (fun m => { m with bank0 := { m.bank0 with passed := false } }) (w0)),
   by decide +kernel,
   by decide +kernel,
   rfl⟩,
   ⟨w0,
   trivial⟩,
   ⟨w0,
   trivial⟩,
   ⟨(fun s => s.onSec fun x => { x with verifying := none }) (w0),
   by decide +kernel⟩,
   ⟨9, (fun s => s.onSec fun x => { x with verifying := (some 9) }) (w0),
   by decide +kernel⟩,
   ⟨0, (0 : Fin 5), (fun s => s.onSec fun x => { x with verifying := (some 0) }) (w0),
   by decide +kernel⟩⟩

/-! ### Every idle row is met somewhere -/

theorem test_meets_SupplyAndFaultEventsIdle :
    (∃ (p : Port) (s : State), ¬ (portListens s p = true)) ∧
    (∃ (p : Port) (s : State), ¬ (portListens s p = true ∧ 0 < (portOf s p).noticeCredits ∧ ((portOf s p).notices ≠ [] ∨ (portOf s p).noticesLost ≠ 0) ∧ (portOf s p).out.all (fun o => o.body.telemetric) = true)) ∧
    (∃ (p : Port) (s : State), ¬ (portListens s p = true ∧ (portOf s p).linkArmed = true ∧ (portOf s p).linkLost = false ∧ (portOf s p).linkFrom + linkTimeout s p ≤ s.pm)) ∧
    (∃ (f : Freeze) (s : State), ¬ (s.running = true ∧ s.sys.dev ≠ .off ∧ (∀ l, s.sys.lastEdge = some l → l < edgeOf s.pm))) ∧
    (∃ (s : State), ¬ (s.sys.phase = some .freeze ∧ (∃ e, s.sys.lastEdge = some e ∧ e + 20000 ≤ s.pm ∧ s.pm < e + 32000))) ∧
    (∃ (agree : Bool) (s : State), ¬ (s.sys.phase = some .decision ∧ (∃ e, s.sys.lastEdge = some e ∧ e + 32000 ≤ s.pm ∧ s.pm < e + 36000))) ∧
    (∃ (s : State), ¬ (s.sys.phase ≠ some .logging ∧ (∃ e, s.sys.lastEdge = some e ∧ e + 36000 ≤ s.pm ∧ s.pm < e + 40000))) ∧
    (∃ (s : State), ¬ (s.pwr.vkey = true)) ∧
    (∃ (s : State), ¬ (s.sys.dev = .off)) ∧
    (∃ (s : State), ¬ (s.sys.dev = .off ∨ s.pwr.lowSupply = false)) ∧
    (∃ (s : State), ¬ (s.pwr.lowSupply = true)) ∧
    (∃ (s : State), ¬ (s.pwr.groundLost = true)) ∧
    (∃ (s : State), ¬ (s.sys.dev ≠ .off ∧ s.pwr.loadDump = false)) ∧
    (∃ (s : State), ¬ (s.sys.dev = .start ∧ s.running = false ∧ s.sys.bootStage = 1)) ∧
    (∃ (v0 v1 : Vector BankVerdict 5) (s : State), ¬ (s.sys.dev = .start ∧ s.running = true ∧ s.sys.bootStage = 2 ∧ s.sys.imagesOk = false ∧ s.sys.quarCause = 0)) ∧
    (∃ (s : State), ¬ (s.sys.dev = .start ∧ s.sys.bootStage = 2 ∧ (s.sys.imagesOk = true ∨ s.sys.quarCause = 2) ∧ s.sys.powered = false)) ∧
    (∃ (s : State), ¬ (s.sys.powered = true ∧ s.sys.hostAlive = false)) ∧
    (∃ (failed : List Nat) (s : State), ¬ (s.sys.dev = .start ∧ s.sys.powered = true ∧ s.sys.imagesOk = true ∧ s.pm % 40000 = 0)) ∧
    (∃ (d : Fin 12) (s : State), ¬ (bitN (requiredDomains s) d.val = true ∧ s.pwr.domains.getLsbD d.val = false)) ∧
    (∃ (d : Fin 12) (s : State), ¬ (bitN (requiredDomains s) d.val = false ∧ s.pwr.domains.getLsbD d.val = true)) ∧
    (∃ (retired : Vector Nat 3) (s : State), ¬ (s.sys.bootStage = 4 ∧ s.sys.mapReady = false ∧ s.sys.dev ≠ .latched)) ∧
    (∃ (el : Element) (s : State), ¬ (s.sys.dev ≠ .off)) ∧
    (∃ (k : BitVec 8) (s : State), ¬ (s.sys.dev ≠ .off)) ∧
    (∃ (s : State), ¬ (s.pwr.clkBaseBad = true)) ∧
    (∃ (el : Element) (s : State), ¬ ((elemOf s el).clockBad = true ∧ (elemOf s el).relockAt ≤ s.pm)) ∧
    (∃ (el : Element) (s : State), ¬ ((elemOf s el).clockBad = true ∧ (elemOf s el).relockAt ≤ s.pm)) ∧
    (∃ (el : Element) (s : State), ¬ ((elemOf s el).restarting = true ∧ (elemOf s el).clockBad = false)) ∧
    (∃ (s : State), ¬ (safeInEn s = true ∧ s.sys.dev ≠ .off)) ∧
    (∃ (s : State), ¬ (s.safe.safeIn = true)) ∧
    (∃ (s : State), ¬ (s.sys.dev ≠ .off ∧ s.vdr.conv.fault = false)) ∧
    (∃ (s : State), ¬ (s.vdr.conv.fault = true ∧ s.vdr.conv.retryAt ≤ s.pm)) ∧
    (∃ (s : State), ¬ (s.vdr.conv.fault = true ∧ s.vdr.conv.retryAt ≤ s.pm)) :=
  ⟨⟨.spi, State.reset, by decide +kernel⟩,
   ⟨.spi, w0, by decide +kernel⟩,
   ⟨.spi, w0, by decide +kernel⟩,
   ⟨({} : Freeze), State.reset, by decide +kernel⟩,
   ⟨w0, by decide +kernel⟩,
   ⟨false, w0, by decide +kernel⟩,
   ⟨w0, by decide +kernel⟩,
   ⟨(w0.onPwr fun y => { y with vkey := false }), by decide +kernel⟩,
   ⟨w0, by decide +kernel⟩,
   ⟨(w0.onPwr fun y => { y with lowSupply := true }), by decide +kernel⟩,
   ⟨w0, by decide +kernel⟩,
   ⟨w0, by decide +kernel⟩,
   ⟨inDev .off w0, by decide +kernel⟩,
   ⟨w0, by decide +kernel⟩,
   ⟨(Vector.replicate _ default : Vector BankVerdict 5), (Vector.replicate _ default : Vector BankVerdict 5), w0, by decide +kernel⟩,
   ⟨w0, by decide +kernel⟩,
   ⟨w0, by decide +kernel⟩,
   ⟨[], w0, by decide +kernel⟩,
   ⟨(0 : Fin 12), w0, by decide +kernel⟩,
   ⟨(0 : Fin 12), w0, by decide +kernel⟩,
   ⟨(Vector.replicate _ default : Vector Nat 3), w0, by decide +kernel⟩,
   (by
       first
     | (refine ⟨.gnss, w0, ?_⟩; decide +kernel)
     | (refine ⟨.gnss, State.reset, ?_⟩; decide +kernel)
     | (refine ⟨.gnss, inDev .off w0, ?_⟩; decide +kernel)
     | (refine ⟨.gnss, inDev .armed w0, ?_⟩; decide +kernel)),
   (by
       first
     | (refine ⟨(0 : BitVec 8), w0, ?_⟩; decide +kernel)
     | (refine ⟨(0 : BitVec 8), State.reset, ?_⟩; decide +kernel)
     | (refine ⟨(0 : BitVec 8), inDev .off w0, ?_⟩; decide +kernel)
     | (refine ⟨(0 : BitVec 8), inDev .armed w0, ?_⟩; decide +kernel)),
   ⟨w0, by decide +kernel⟩,
   ⟨.gnss, w0, by decide +kernel⟩,
   ⟨.gnss, w0, by decide +kernel⟩,
   ⟨.gnss, w0, by decide +kernel⟩,
   ⟨inDev .off w0, by decide +kernel⟩,
   ⟨w0, by decide +kernel⟩,
   ⟨inDev .off w0, by decide +kernel⟩,
   ⟨w0, by decide +kernel⟩,
   ⟨w0, by decide +kernel⟩⟩

theorem test_meets_TimeEventsIdle :
    (∃ (s : State), ¬ (s.time.st = .locked ∧ s.time.lastGood + 20000000 ≤ s.pm)) ∧
    (∃ (s : State), ¬ (s.time.st = .holdover ∧ s.time.lastGood + holdoverLimit s ≤ s.pm)) ∧
    (∃ (s : State), ¬ (s.time.ppsOut = true ∧ s.time.ppsEnd ≤ s.pm)) ∧
    (∃ (s : State), ¬ (s.sys.dev = .standby)) ∧
    (∃ (s : State), ¬ (gnssRuns s = true ∧ 4 ≤ trackedValid s ∧ s.gnss.warmAt + 800000000 ≤ s.pm)) ∧
    (∃ (c : Fin 24) (s : State), ¬ (gnssRuns s = true ∧ s.gnss.chan[c].stage = .fll ∧ s.gnss.chan[c].since + 16000000 ≤ s.pm)) ∧
    (∃ (c : Fin 24) (s : State), ¬ (gnssRuns s = true ∧ s.gnss.chan[c].stage = .fll ∧ s.gnss.chan[c].since + 1600000 ≤ s.pm ∧ s.pm < s.gnss.chan[c].since + 16000000)) ∧
    (∃ (c : Fin 24) (l : List Nat) (s : State), ¬ (gnssRuns s = true ∧ s.gnss.chan[c].stage = .pll ∧ s.gnss.chan[c].phaseLock = true ∧ s.gnss.chan[c].bitSync = false ∧ s.gnss.chan[c].lockAt + 160000000 ≤ s.pm ∧ l.length = 20 ∧ 10 ≤ l.foldl max 0 ∧ 60 * l.sum ≤ 100 * l.foldl max 0)) ∧
    (∃ (c : Fin 24) (f : FrameIn) (s : State), ¬ (gnssRuns s = true ∧ s.gnss.chan[c].stage = .tracking ∧ s.gnss.chan[c].bitSync = true ∧ s.gnss.chan[c].frameSync = false ∧ frameFound f = true)) ∧
    (∃ (c : Fin 24) (w : BitVec 30) (s : State), ¬ (gnssRuns s = true ∧ s.gnss.chan[c].stage.tracks = true ∧ s.gnss.chan[c].frameSync = true)) ∧
    (∃ (c : Fin 24) (s : State), ¬ (gnssRuns s = true ∧ s.gnss.chan[c].stage.tracks = true ∧ (∃ t0, s.gnss.chan[c].weakFrom = some t0 ∧ t0 + 160000000 ≤ s.pm))) ∧
    (∃ (ma : Nat) (s : State), ¬ (antBias s ≠ 0 ∧ s.gnss.antShort = true ∧ s.gnss.bias = false ∧ s.gnss.antRetryAt ≤ s.pm)) ∧
    (∃ (s : State), ¬ (s.gnss.rtcmBuf ≠ [] ∧ s.gnss.rtcmLast + 160000000 ≤ s.pm ∧ readFrame s.gnss.rtcmBuf = .wait)) ∧
    (∃ (m : BitVec 32) (l : List Int) (q : Nat) (s : State), ¬ (fixRatio s ≤ q ∧ s.restarting .pair = false)) ∧
    (∃ (k : Fin 4) (s : State), ¬ (3 ≤ odoType s k ∧ s.pos.odo[k].stale = false ∧ s.pos.odo[k].lastPm + 24000000 ≤ s.pm)) :=
  ⟨⟨w0, by decide +kernel⟩,
   ⟨w0, by decide +kernel⟩,
   ⟨w0, by decide +kernel⟩,
   ⟨State.reset, by decide +kernel⟩,
   ⟨w0, by decide +kernel⟩,
   ⟨(0 : Fin 24), w0, by decide +kernel⟩,
   ⟨(0 : Fin 24), w0, by decide +kernel⟩,
   ⟨(0 : Fin 24), [], w0, by decide +kernel⟩,
   ⟨(0 : Fin 24), ({} : FrameIn), w0, by decide +kernel⟩,
   ⟨(0 : Fin 24), (0 : BitVec 30), w0, by decide +kernel⟩,
   ⟨(0 : Fin 24), w0, by decide +kernel⟩,
   ⟨0, w0, by decide +kernel⟩,
   ⟨w0, by decide +kernel⟩,
   ⟨(0 : BitVec 32), [], 0, w0, by decide +kernel⟩,
   ⟨(0 : Fin 4), w0, by decide +kernel⟩⟩

theorem test_meets_ValveAndLoopEventsIdle :
    (∃ (c : Fin 96) (s : State), ¬ (s.vdr.ch[c].st = .pending ∧ s.vdr.ch[c].startAt ≤ s.pm)) ∧
    (∃ (b : Fin 12) (s : State), ¬ (s.vdr.bank[b].feed ≠ .bst ∧ s.vdr.bank[b].isolated = 0 ∧ s.vdr.bank[b].windows.any (fun w => w.start ≤ s.pm + 320 && s.pm < w.stop) = true)) ∧
    (∃ (b : Fin 12) (s : State), ¬ (s.vdr.bank[b].feed = .bst ∧ s.vdr.bank[b].windows.any (fun w => w.stop ≤ s.pm) = true ∧ s.vdr.bank[b].windows.any (fun w => inWindow w.start w.stop s.pm) = false)) ∧
    (∃ (b : Fin 12) (s : State), ¬ (s.vdr.bank[b].windows.any (fun w => w.stop + w.guard ≤ s.pm) = true)) ∧
    (∃ (c : Fin 96) (l0 : Nat) (s : State), ¬ (s.vdr.ch[c].st = .pullIn ∧ s.vdr.ch[c].pullEnd ≤ s.pm)) ∧
    (∃ (c : Fin 96) (en : Nat) (s : State), ¬ (s.vdr.ch[c].st = .decay ∧ s.vdr.ch[c].fast = true ∧ s.vdr.ch[c].offSet.iTail ≠ 0)) ∧
    (∃ (c : Fin 96) (en : Nat) (s : State), ¬ (s.vdr.ch[c].st = .decay)) ∧
    (∃ (c : Fin 96) (g : SigIn) (s : State), ¬ (s.vdr.ch[c].searching = true ∧ (s.vdr.ch[c].st = .pullIn ∨ s.vdr.ch[c].st = .hold) ∧ s.vdr.ch[c].startAt ≤ g.sample ∧ s.pm ≤ s.vdr.ch[c].startAt + s.vdr.ch[c].onSet.searchWin ∧ isMin g = true ∧ signatureOk c s.pm g (10 * s.vdr.ch[c].onSet.sigMin) = true)) ∧
    (∃ (c : Fin 96) (g : SigIn) (en : Nat) (s : State), ¬ (s.vdr.ch[c].st = .decay ∧ s.vdr.ch[c].closeSearch = true ∧ s.vdr.ch[c].offPm ≤ g.sample ∧ s.pm ≤ s.vdr.ch[c].offPm + s.vdr.ch[c].offSet.searchWin ∧ isMax g = true ∧ signatureOk c s.pm g (5 * s.vdr.ch[c].offSet.sigMin) = true)) ∧
    (∃ (c : Fin 96) (s : State), ¬ (s.vdr.ch[c].searching = true ∧ s.vdr.ch[c].startAt + s.vdr.ch[c].onSet.searchWin ≤ s.pm)) ∧
    (∃ (c : Fin 96) (ma : Nat) (s : State), ¬ (chanOn s.vdr.ch[c] = true ∧ s.vdr.ch[c].startAt + 112000 ≤ s.pm)) ∧
    (∃ (c : Fin 96) (s : State), ¬ (chanOn s.vdr.ch[c] = true)) ∧
    (∃ (c : Fin 96) (ma : Nat) (s : State), ¬ (1650 < ma ∧ (s.vdr.prot[c].tripLatch = false ∨ s.vdr.prot[c].overload = false))) ∧
    (∃ (c : Fin 96) (x : Int) (s : State), ¬ (thsTakes s (stageSensor c).1 (stageSensor c).2 = true)) ∧
    (∃ (c : Fin 96) (x : Int) (s : State), ¬ (thsTakes s (stageSensor c).1 (stageSensor c).2 = true)) ∧
    (∃ (b : Fin 12) (s : State), ¬ ((s.vdr.bank[b].isolated = 0 ∨ s.vdr.bank[b].reconnect.isSome = true))) ∧
    (∃ (c : Fin 96) (s : State), ¬ (s.sys.dev ≠ .latched ∧ s.vdr.prot[c].tripLatch = true ∧ s.vdr.prot[c].tripAt + 8000000 ≤ s.pm ∧ 0 < s.pd0.chRetries[c])) ∧
    (∃ (b : Fin 12) (s : State), ¬ (s.sys.dev ≠ .latched ∧ s.vdr.bank[b].isolated = 2 ∧ s.vdr.bank[b].isolAt + 8000000 ≤ s.pm ∧ 0 < s.pd0.bankRetries[b])) ∧
    (∃ (c : Fin 96) (s : State), ¬ (chanOn s.vdr.ch[c] = false ∧ r20Of s c.val ≠ 0 ∧ s.vdr.prot[c].tempSeen = true)) ∧
    (∃ (b : Fin 12) (s : State), ¬ (trigRuns s = true ∧ s.pwu.grid[b].b + s.pwu.grid[b].period ≤ s.pm)) ∧
    (∃ (c : Fin 96) (s : State), ¬ (s.pwu.noz[c].running = true ∧ s.pwu.noz[c].nextOpen ≤ openingOf s c ∧ openingOf s c ≤ s.pm)) ∧
    (∃ (g : Fin 8) (s : State), ¬ (s.pwu.fine[g].running = true ∧ s.pwu.fine[g].startAt + periodCounts s.pwu.fine[g].periodActive s.pwu.fine[g].centre < 5 * (s.pm + 1))) ∧
    (∃ (g : Fin 8) (x : Option Nat) (s : State), ¬ (s.pwu.fine[g].running = true ∧ transitionDue s g true = true)) ∧
    (∃ (g : Fin 8) (x : Option Nat) (s : State), ¬ (s.pwu.fine[g].running = true ∧ transitionDue s g false = true)) ∧
    (∃ (j : Fin 4) (s : State), ¬ (s.pwu.trig[j].active = true ∧ s.pwu.trig[j].endAt ≤ s.pm)) ∧
    (∃ (k : Fin 16) (s : State), ¬ (ceRuns s = true ∧ loopCounts s k (s.pm / 10000 * 10000) = true ∧ s.ce.loop[k].evalFor ≠ some (s.pm / 10000 * 10000) ∧ loopTurn s k (s.pm / 10000 * 10000) = true ∧ s.pm < s.pm / 10000 * 10000 + deadline s k)) :=
  ⟨⟨(0 : Fin 96), w0, by decide +kernel⟩,
   ⟨(0 : Fin 12), w0, by decide +kernel⟩,
   ⟨(0 : Fin 12), w0, by decide +kernel⟩,
   ⟨(0 : Fin 12), w0, by decide +kernel⟩,
   ⟨(0 : Fin 96), 0, w0, by decide +kernel⟩,
   ⟨(0 : Fin 96), 0, w0, by decide +kernel⟩,
   ⟨(0 : Fin 96), 0, w0, by decide +kernel⟩,
   ⟨(0 : Fin 96), ({} : SigIn), w0, by decide +kernel⟩,
   ⟨(0 : Fin 96), ({} : SigIn), 0, w0, by decide +kernel⟩,
   ⟨(0 : Fin 96), w0, by decide +kernel⟩,
   ⟨(0 : Fin 96), 0, w0, by decide +kernel⟩,
   ⟨(0 : Fin 96), w0, by decide +kernel⟩,
   ⟨(0 : Fin 96), 0, w0, by decide +kernel⟩,
   ⟨(0 : Fin 96), 0, State.reset, by decide +kernel⟩,
   ⟨(0 : Fin 96), 0, State.reset, by decide +kernel⟩,
   ⟨(0 : Fin 12), modBank 0 (fun x => { x with isolated := 1 }) w0, by decide +kernel⟩,
   ⟨(0 : Fin 96), w0, by decide +kernel⟩,
   ⟨(0 : Fin 12), w0, by decide +kernel⟩,
   ⟨(0 : Fin 96), w0, by decide +kernel⟩,
   ⟨(0 : Fin 12), State.reset, by decide +kernel⟩,
   ⟨(0 : Fin 96), w0, by decide +kernel⟩,
   ⟨(0 : Fin 8), w0, by decide +kernel⟩,
   ⟨(0 : Fin 8), none, w0, by decide +kernel⟩,
   ⟨(0 : Fin 8), none, w0, by decide +kernel⟩,
   ⟨(0 : Fin 4), w0, by decide +kernel⟩,
   ⟨(0 : Fin 16), w0, by decide +kernel⟩⟩

theorem test_meets_InputAndSwitchEventsIdle :
    (∃ (i : Fin 4) (ba : BitVec 2) (s : State), ¬ (pifRuns s = true ∧ linesReady s (encFilter s i) (ba.toNat ^^^ s.pif.enc[i].state) s.pif.enc[i].accepted = true)) ∧
    (∃ (i : Fin 4) (ba : BitVec 2) (s : State), ¬ (pifRuns s = true ∧ linesReady s (encFilter s i) (ba.toNat ^^^ s.pif.enc[i].state) s.pif.enc[i].accepted = true ∧ lineReady s (2 * encFilter s i) s.pif.enc[i].accepted[(2 : Fin 3)] = true)) ∧
    (∃ (i : Fin 4) (wvu : BitVec 3) (s : State), ¬ (pifRuns s = true ∧ linesReady s (hallFilter s i) (wvu.toNat ^^^ s.pif.hall[i].state) s.pif.hall[i].accepted = true)) ∧
    (∃ (i : Fin 4) (s : State), ¬ (s.pif.hall[i].hallIllegal = true ∧ s.pif.hall[i].invalid = false ∧ s.pif.hall[i].illegalAt + 80000 ≤ s.pm)) ∧
    (∃ (i : Fin 16) (s : State), ¬ (pifRuns s = true ∧ lineReady s (freqFilter s i) s.pif.freq[i].acceptedAt = true)) ∧
    (∃ (i : Fin 8) (f : Bool) (s : State), ¬ (pifRuns s = true ∧ lineReady s (evtFilter s i) s.pif.evt[i].acceptedAt = true)) ∧
    (∃ (i : Fin 32) (mv : BitVec 16) (s : State), ¬ (pifRuns s = true ∧ (∃ t0, (ainTrigEn s i = false ∧ t0 = s.pm / 10000 * 10000 ∨ ainTrigEn s i = true ∧ ∃ g, idx? 8 (ainTrigGen s i) = some g ∧ (finePeaks s).pwu.fine[g].trigAt = some t0) ∧ s.pif.ain[i].since ≤ t0 ∧ ∀ p ∈ s.pif.ain[i].past, p.1 < t0))) ∧
    (∃ (x : Fin 2) (s : State), ¬ (emuRuns s x = true)) ∧
    (∃ (c : Fin 16) (s : State), ¬ (s.lsw.ls[c].st = .inrush ∧ s.lsw.ls[c].stepEnd ≤ lswNow s)) ∧
    (∃ (c : Fin 16) (s : State), ¬ ((s.lsw.ls[c].st = .on ∨ offDiagnosed s c = true) ∧ s.lsw.ls[c].openLoad = false)) ∧
    (∃ (c : Fin 16) (s : State), ¬ (s.lsw.ls[c].openLoad = true)) ∧
    (∃ (c : Fin 16) (s : State), ¬ (offDiagnosed s c = true ∧ s.lsw.ls[c].shortBat = false)) ∧
    (∃ (c : Fin 16) (s : State), ¬ (s.lsw.ls[c].shortBat = true)) ∧
    (∃ (c : Fin 16) (s : State), ¬ (s.lsw.ls[c].outOn = true)) ∧
    (∃ (c : Fin 16) (s : State), ¬ (s.lsw.ls[c].isOn = true ∧ s.pd0.keyOffHold[c] = none)) ∧
    (∃ (c : Fin 16) (x : Int) (s : State), ¬ ((thsTakes s 8 (lswSensor c) = true ∨ s.sys.dev = .off))) ∧
    (∃ (c : Fin 16) (x : Int) (s : State), ¬ ((thsTakes s 8 (lswSensor c) = true ∨ s.sys.dev = .off))) ∧
    (∃ (a : Nat) (s : State), ¬ (80000 < a ∧ s.lsw.shedding = false)) ∧
    (∃ (a : Nat) (s : State), ¬ (s.lsw.shedding = true ∧ s.lsw.lastShed + 80000 ≤ s.pm)) ∧
    (∃ (c : Fin 16) (s : State), ¬ (s.lsw.ls[c].st = .latched ∧ s.lsw.ls[c].aggregate = false ∧ s.lsw.ls[c].thermLatch = false ∧ s.lsw.ls[c].exhausted = false ∧ s.sys.dev ≠ .latched ∧ max (s.lsw.ls[c].tripAt + msTicks s.lsw.ls[c].profile.retryDelay) s.lsw.ls[c].thermAt ≤ lswNow s)) ∧
    (∃ (c : Fin 16) (s : State), ¬ (s.sys.dev = .coast ∧ coastPolicy s c = 1 ∧ s.sys.coastEntry + offAfter s c ≤ s.pm)) :=
  ⟨⟨(0 : Fin 4), (0 : BitVec 2), State.reset, by decide +kernel⟩,
   ⟨(0 : Fin 4), (0 : BitVec 2), State.reset, by decide +kernel⟩,
   ⟨(0 : Fin 4), (0 : BitVec 3), State.reset, by decide +kernel⟩,
   ⟨(0 : Fin 4), w0, by decide +kernel⟩,
   ⟨(0 : Fin 16), State.reset, by decide +kernel⟩,
   ⟨(0 : Fin 8), false, State.reset, by decide +kernel⟩,
   ⟨(0 : Fin 32), (0 : BitVec 16), inDev .off w0, by intro h; exact absurd h.1 (by decide +kernel)⟩,
   ⟨(0 : Fin 2), w0, by decide +kernel⟩,
   ⟨(0 : Fin 16), w0, by decide +kernel⟩,
   ⟨(0 : Fin 16), w0, by decide +kernel⟩,
   ⟨(0 : Fin 16), w0, by decide +kernel⟩,
   ⟨(0 : Fin 16), w0, by decide +kernel⟩,
   ⟨(0 : Fin 16), w0, by decide +kernel⟩,
   ⟨(0 : Fin 16), w0, by decide +kernel⟩,
   ⟨(0 : Fin 16), w0, by decide +kernel⟩,
   ⟨(0 : Fin 16), 0, State.reset, by decide +kernel⟩,
   ⟨(0 : Fin 16), 0, State.reset, by decide +kernel⟩,
   ⟨0, w0, by decide +kernel⟩,
   ⟨0, w0, by decide +kernel⟩,
   ⟨(0 : Fin 16), w0, by decide +kernel⟩,
   ⟨(0 : Fin 16), w0, by decide +kernel⟩⟩

theorem test_meets_ThermalBusAndStoreEventsIdle :
    (∃ (z : Fin 10) (k : Fin 20) (x : Int) (s : State), ¬ (thsTakes s z k = true)) ∧
    (∃ (z : Fin 10) (k : Fin 20) (x : Int) (s : State), ¬ (thsTakes s z k = true)) ∧
    (∃ (z : Fin 10) (k : Fin 20) (s : State), ¬ (thsTakes s z k = true)) ∧
    (∃ (z : Fin 10) (k : Fin 20) (x : Int) (s : State), ¬ (thsTakes s z k = true)) ∧
    (∃ (z : Fin 10) (k : Fin 20) (x : Int) (s : State), ¬ (thsTakes s z k = true)) ∧
    (∃ (x : Fin 3) (s : State), ¬ (onBus s x = true ∧ listen s x = false ∧ hasActive s x = none ∧ (∃ k, winner s x = some k))) ∧
    (∃ (x : Fin 3) (k : Fin 32) (s : State), ¬ (s.can.ctl[x].slots[k].st = .pending ∧ slotDeadline s.can.ctl[x].slots[k].desc.toNat ≠ 0 ∧ slotDeadline s.can.ctl[x].slots[k].desc.toNat ≤ s.pm)) ∧
    (∃ (x : Fin 3) (s : State), ¬ (s.can.ctl[x].st = .recovering ∧ canRuns s = true ∧ s.can.ctl[x].busOffAt + 1408 * bitTicks s x ≤ s.pm)) ∧
    (∃ (x : Fin 3) (s : State), ¬ (canRuns s = true ∧ canEnable s x = true ∧ s.can.ctl[x].st = .offBus)) ∧
    (∃ (x : Fin 3) (n : Nat) (s : State), ¬ (onBus s x = true)) ∧
    (∃ (s : State), ¬ (isoEn s = true ∧ canRuns s = true ∧ s.sys.dev ≠ .quarantine ∧ s.can.ctl[(0 : Fin 3)].st = .active ∧ s.can.claimed = false)) ∧
    (∃ (s : State), ¬ (rowRuns s = true ∧ s.can.syncAt < s.pm / syncInterval s * syncInterval s)) ∧
    (∃ (s : State), ¬ ((s.sys.dev = .standby ∨ s.sys.dev = .safe) ∧ rowRuns s = true ∧ (∀ t0, s.can.allOffAt = some t0 → t0 + 8000000 ≤ s.pm))) ∧
    (∃ (s : State), ¬ (rowEn s = true ∧ (s.can.rowEvents.any fun r => r.slot.isNone && decide (r.due + reportWait s ≤ s.pm)) = true)) ∧
    (∃ (n : Fin 32) (s : State), ¬ (rowRuns s = true ∧ (takeReport n s).can.node[n].seen = true ∧ (takeReport n s).can.node[n].lost = false ∧ (takeReport n s).can.node[n].lastReport + rowTimeout s ≤ s.pm)) ∧
    (∃ (l : List EccIn) (s : State), ¬ (s.sys.mapReady = true ∧ s.map.lastScrub + msTicks (1000 * s.act.fld .map 160 16) ≤ s.pm)) ∧
    (∃ (s : State), ¬ (s.map.log ≠ [] ∧ s.restarting .enclave = false ∧ s.map.logFirst + msTicks (1000 * s.act.fld .map 176 16) ≤ s.pm)) ∧
    (∃ (s : State), ¬ (s.running = true ∧ s.vdr.latSaved + 48000000000 ≤ s.pm)) ∧
    (∃ (i : Fin 5) (s : State), ¬ (s.sec.image[i].trial = true ∧ trialTicks s ≤ trialRun s i)) :=
  ⟨⟨(0 : Fin 10), (0 : Fin 20), 0, State.reset, by decide +kernel⟩,
   ⟨(0 : Fin 10), (0 : Fin 20), 0, State.reset, by decide +kernel⟩,
   ⟨(0 : Fin 10), (0 : Fin 20), State.reset, by decide +kernel⟩,
   ⟨(0 : Fin 10), (0 : Fin 20), 0, State.reset, by decide +kernel⟩,
   ⟨(0 : Fin 10), (0 : Fin 20), 0, State.reset, by decide +kernel⟩,
   ⟨(0 : Fin 3), w0, by decide +kernel⟩,
   ⟨(0 : Fin 3), (0 : Fin 32), w0, by decide +kernel⟩,
   ⟨(0 : Fin 3), w0, by decide +kernel⟩,
   ⟨(0 : Fin 3), w0, by decide +kernel⟩,
   ⟨(0 : Fin 3), 0, State.reset, by decide +kernel⟩,
   ⟨w0, by decide +kernel⟩,
   ⟨w0, by decide +kernel⟩,
   ⟨w0, by decide +kernel⟩,
   ⟨w0, by decide +kernel⟩,
   ⟨(0 : Fin 32), w0, by decide +kernel⟩,
   ⟨[], State.reset, by decide +kernel⟩,
   ⟨w0, by decide +kernel⟩,
   ⟨State.reset, by decide +kernel⟩,
   ⟨(0 : Fin 5), w0, by decide +kernel⟩⟩

/-! ### The completion clauses of all families are met where their family's are -/

theorem test_meets_MapRequestsCompleteUnderTheirConditions :
    (∃ e n s, Accepted 0x0300 e n s ∧ e.payload.length = 0 ∧ s.sys.dev ∈ inBAMCFL) ∧
    (∃ e n s, Accepted 0x0301 e n s ∧ e.payload.length = 64 ∧ s.sys.dev ∈ inBAMF ∧ loadBeginBad e (admitted e n s) = none) ∧
    (∃ e n s l, Accepted 0x0302 e n s ∧ 4 < e.payload.length ∧ e.payload.length ≤ 4096 ∧ s.sys.dev ∈ inBAMCF ∧ s.sys.mapReady = true ∧ s.map.load = some l ∧ l.ending = false ∧ arg e 0 32 = l.data.length) ∧
    (∃ e n s l t, Accepted 0x0303 e n s ∧ e.payload.length = 0 ∧ s.sys.dev ∈ inBAMF ∧ s.sys.mapReady = true ∧ s.map.load = some l ∧ l.ending = false ∧ importAllowed l.header s = true ∧ importResult l (admitted e n s) = .ok t) ∧
    (∃ e n s, Accepted 0x0304 e n s ∧ e.payload.length = 0 ∧ s.sys.dev ∈ inBAMCF ∧ s.sys.mapReady = true ∧ s.map.load.isSome = true) ∧
    (∃ e n s kind layer dirty keys h, Accepted 0x0305 e n s ∧ e.payload.length = 4 ∧ s.sys.dev ∈ inBAMF ∧ s.sys.mapReady = true ∧ s.map.exp = none ∧ arg e 11 21 = 0 ∧ kind = arg e 0 8 ∧ layer = arg e 8 2 ∧ dirty = argB e 10 ∧ 0 < kind ∧ kind ≤ 4 ∧ (dirty = true → kind = 1) ∧ keys = exportKeys (admitted e n s) kind layer dirty ∧ h = streamHeader kind (if kind = 1 ∨ kind = 2 then layer else 0) (if kind = 1 then depthOf s layer - 1 else 0) 0 (streamCell (admitted e n s) kind layer) (originOf s) keys.length (nextEdge s.pm) s.pd0.bootCount) ∧
    (∃ e n s x starts ks x1, Accepted 0x0306 e n s ∧ e.payload.length = 6 ∧ s.sys.dev ∈ inBAMCF ∧ s.sys.mapReady = true ∧ s.map.exp = some x ∧ x.fixed = true ∧ 0 < arg e 32 16 ∧ arg e 32 16 ≤ 4084 ∧ arg e 0 32 + arg e 32 16 ≤ (x.edgeTiles.map List.length).sum ∧ starts = recordStarts (x.edgeTiles.map List.length) 0 ∧ ks = ((List.range starts.length).filter fun k => match starts[k]? with | some (o, l) => decide (o < arg e 0 32 + arg e 32 16) && decide (arg e 0 32 < o + l) | none => false) ∧ x1 = ({ x with lastPm := s.pm, copied := copyTiles { x with edgeTiles := (readTiles x ks (admitted e n s)).2 } (edgeOf s.pm) ks } : Exp)) ∧
    (∃ e n s x, Accepted 0x0307 e n s ∧ e.payload.length = 8 ∧ s.sys.dev ∈ inBAMCF ∧ s.sys.mapReady = true ∧ s.map.exp = some x ∧ (arg e 0 64 = 0 ∨ arg e 0 64 = x.created)) ∧
    (∃ e n s, Accepted 0x0308 e n s ∧ e.payload.length = 4 ∧ s.sys.dev ∈ inBAMF ∧ s.sys.mapReady = true ∧ arg e 10 22 = 0 ∧ 0 < arg e 0 8 ∧ arg e 0 8 ≤ 3 ∧ (s.sys.dev = .standby ∨ arg e 0 8 = 2)) ∧
    (∃ e n s b, Accepted 0x0309 e n s ∧ e.payload.length = 4 ∧ s.sys.dev ∈ inBAMCFL ∧ s.sys.mapReady = true ∧ (if arg e 0 32 = 0xFFFFFFFF then s.map.ring.find? fun b => !b.acked else s.map.ring.find? fun b => b.seq == arg e 0 32) = some b) ∧
    (∃ e n s, Accepted 0x030A e n s ∧ e.payload.length = 4 ∧ s.sys.dev ∈ inBAMCFL ∧ s.sys.mapReady = true ∧ (∃ b ∈ s.map.ring, b.seq = arg e 0 32)) :=
  ⟨test_meets_MapRequestsExecute.1,
   test_meets_MapRequestsExecute.2.1,
   test_meets_MapRequestsExecute.2.2.1,
   test_meets_MapRequestsExecute.2.2.2.1,
   test_meets_MapRequestsExecute.2.2.2.2.1,
   test_meets_MapRequestsExecute.2.2.2.2.2.1,
   test_meets_MapRequestsExecute.2.2.2.2.2.2.1,
   test_meets_MapRequestsExecute.2.2.2.2.2.2.2.1,
   test_meets_MapRequestsExecute.2.2.2.2.2.2.2.2.1,
   test_meets_MapRequestsExecute.2.2.2.2.2.2.2.2.2.1,
   test_meets_MapRequestsExecute.2.2.2.2.2.2.2.2.2.2⟩

theorem test_meets_RequestsCompleteUnderTheirConditions :
    (∃ e n s l, Accepted 0x0400 e n s ∧ lenItems 0 16 1 16 e = true ∧ s.sys.dev ∈ [.standby, .armed] ∧ feMode s = 1 ∧ takeDirected (admitted e n s) e.firstPm 0 (entries e 0 16) s.fe.waiting = .ok l) ∧
    (∃ e n s, Accepted 0x0401 e n s ∧ e.payload.length = 4 ∧ s.sys.dev ∈ [.standby, .armed]) ∧
    (∃ e n s, Accepted 0x0500 e n s ∧ lenItems 0 16 1 32 e = true ∧ s.sys.dev = .manual ∧ (∀ r ∈ entries e 0 16, recN r 73 23 = 0 ∧ recN r 120 8 = 0 ∧ recN r 64 8 ≤ 159 ∧ recN r 0 64 ≤ e.firstPm + 800000000 ∧ (96 ≤ recN r 64 8 → enabledCtx s (recN r 64 8) = true)) ∧ firstRepeat (fun r => recN r 0 72) [] 0 (entries e 0 16) = none ∧ firstShort (admitted e n s) (Vector.replicate 12 0) 0 (entries e 0 16) = none) ∧
    (∃ e n s, Accepted 0x0501 e n s ∧ lenItems 0 4 1 96 e = true ∧ s.sys.dev = .manual ∧ (∀ r ∈ entries e 0 4, recN r 8 8 = 0 ∧ recN r 0 8 ≤ 95) ∧ firstRepeat (fun r => recN r 0 8) [] 0 (entries e 0 4) = none) ∧
    (∃ (e : Env) (n : Nat) (s : State) (g : Fin 8), Accepted 0x0502 e n s ∧ e.payload.length = 8 ∧ s.sys.dev ∈ inBAM ∧ g.val = arg e 0 3 ∧ arg e 3 29 = 0 ∧ loopDrives s 1 g.val = false) ∧
    (∃ e n s c, Accepted 0x0503 e n s ∧ e.payload.length = 2 ∧ s.sys.dev ∈ inBMF ∧ arg e 0 8 = 0 ∧ idx? 96 (arg e 8 8) = some c) ∧
    (∃ e n s k, Accepted 0x0600 e n s ∧ e.payload.length = 8 ∧ s.sys.dev ∈ inBAMF ∧ idx? 16 (arg e 0 4) = some k ∧ arg e 4 28 = 0) ∧
    (∃ e n s k, Accepted 0x0601 e n s ∧ e.payload.length = 8 ∧ s.sys.dev ∈ inBAM ∧ idx? 16 (arg e 0 4) = some k ∧ arg e 4 28 = 0 ∧ -65536 ≤ argS e 32 32 ∧ argS e 32 32 ≤ 65536 ∧ loopMode s (arg e 0 4) = 2) ∧
    (∃ e n s k, Accepted 0x0602 e n s ∧ lenCeTable e = true ∧ s.sys.dev ∈ inBAMF ∧ idx? 16 (arg e 0 4) = some k ∧ arg e 5 27 = 0) ∧
    (∃ e n s k, Accepted 0x0603 e n s ∧ e.payload.length = 4 ∧ s.sys.dev ∈ inBAMCFL ∧ idx? 16 (arg e 0 4) = some k ∧ arg e 6 26 = 0) ∧
    (∃ e n s k, Accepted 0x0604 e n s ∧ e.payload.length = 1 ∧ s.sys.dev ∈ inBAMF ∧ idx? 16 (arg e 0 4) = some k ∧ arg e 4 4 = 0) ∧
    (∃ e n s, Accepted 0x0700 e n s ∧ e.payload.length = 0 ∧ s.sys.dev ∈ inBAMCF) ∧
    (∃ e n s st, Accepted 0x0701 e n s ∧ e.payload.length = 8 ∧ s.sys.dev ∈ inBAMCF ∧ s.time.step = some st ∧ st.held = true ∧ argS e 0 64 = -st.err) ∧
    (∃ e n s, Accepted 0x0702 e n s ∧ 0 < e.payload.length ∧ e.payload.length ≤ 4096 ∧ s.sys.dev ∈ inBAMCF ∧ s.gnss.rtcmBuf.length + e.payload.length ≤ 8192) ∧
    (∃ e n s, Accepted 0x0703 e n s ∧ e.payload.length = 0 ∧ s.sys.dev ∈ inBAMCF) ∧
    (∃ e n s, Accepted 0x0704 e n s ∧ e.payload.length = 0 ∧ s.sys.dev ∈ inBAMCF) ∧
    (∃ e n s, Accepted 0x0800 e n s ∧ lenItems 0 4 1 16 e = true ∧ s.sys.dev ∈ inBAMF ∧ (∀ r ∈ entries e 0 4, recN r 6 10 = 0) ∧ noDup ((entries e 0 4).map fun r => recN r 0 4) = true ∧ (∀ r ∈ entries e 0 4, recN r 5 1 = 1 → loopDrives s 3 (recN r 0 4) = false)) ∧
    (∃ e n s c, Accepted 0x0801 e n s ∧ e.payload.length = 1 ∧ s.sys.dev ∈ inBAMF ∧ idx? 16 (arg e 0 4) = some c ∧ arg e 4 4 = 0) ∧
    (∃ e n s i, Accepted 0x0802 e n s ∧ e.payload.length = 8 ∧ s.sys.dev ∈ inBAMF ∧ arg e 3 29 = 0 ∧ idx? 8 (arg e 0 3) = some i) ∧
    (∃ e n s i, Accepted 0x0803 e n s ∧ e.payload.length = 2 ∧ s.sys.dev ∈ inBAMCF ∧ arg e 3 5 = 0 ∧ 0 < arg e 8 8 ∧ arg e 8 8 ≤ 32 ∧ idx? 8 (arg e 0 3) = some i ∧ evtNotify s i = false) ∧
    (∃ e n s x, Accepted 0x0900 e n s ∧ e.payload.length = 12 ∧ s.sys.dev ∈ inBAMCF ∧ ctlOf e = some x ∧ arg e 2 6 = 0 ∧ arg e 16 16 = 0 ∧ arg e 93 3 = 0 ∧ phReserved s x (arg e 8 8) = false) ∧
    (∃ e n s x, Accepted 0x0901 e n s ∧ e.payload.length = 2 ∧ s.sys.dev ∈ inBAMCF ∧ ctlOf e = some x ∧ arg e 2 6 = 0) ∧
    (∃ (e : Env) (n : Nat) (s : State) (x : Fin 3) (k : Fin 32), Accepted 0x0902 e n s ∧ e.payload.length = 84 ∧ s.sys.dev ∈ inBAMCF ∧ ctlOf e = some x ∧ k.val = arg e 8 5 ∧ arg e 2 6 = 0 ∧ arg e 13 19 = 0 ∧ bits (arg e 32 640) 41 23 = 0 ∧ (x = 0 → bitN (arg e 32 640) 30 = false) ∧ (bitN (arg e 32 640) 30 = false → bits (arg e 32 640) 32 4 ≤ 8) ∧ slotReserved s x k.val = false ∧ canEnable s x = true ∧ listen s x = false ∧ s.can.ctl[x].slots[k].st = .free) ∧
    (∃ (e : Env) (n : Nat) (s : State) (x : Fin 3) (k : Fin 32), Accepted 0x0903 e n s ∧ e.payload.length = 2 ∧ s.sys.dev ∈ inBAMCF ∧ ctlOf e = some x ∧ k.val = arg e 8 5 ∧ arg e 2 6 = 0 ∧ arg e 13 3 = 0 ∧ s.can.ctl[x].slots[k].st = .pending) ∧
    (∃ e n s x, Accepted 0x0904 e n s ∧ e.payload.length = 1 ∧ s.sys.dev ∈ inBAMCF ∧ ctlOf e = some x ∧ arg e 2 6 = 0 ∧ s.can.ctl[x].st = .busOff ∧ busoffAuto s x = false) ∧
    (∃ e n s, Accepted 0x0A00 e n s ∧ e.payload.length = 16 ∧ s.sys.dev ∈ inQBAMCF ∧ ownerClaimed (admitted e n s) = true) ∧
    (∃ e n s, Accepted 0x0A01 e n s ∧ e.payload.length = 0 ∧ s.sys.dev ∈ inQBAMCF ∧ sessionOf e (admitted e n s) ≠ none) ∧
    (∃ e n s, Accepted 0x0A02 e n s ∧ e.payload.length = 0 ∧ s.sys.dev ∈ [.quarantine, .standby] ∧ ¬(serviceLock (admitted e n s) = true ∧ ownerClaimed (admitted e n s) = true)) ∧
    (∃ e n s nonce t h r, Accepted 0x0A03 e n s ∧ e.payload.length = 68 ∧ s.sys.dev ∈ [.quarantine, .standby] ∧ arg e 4 28 = 0 ∧ s.sec.nonce = some (nonce, t) ∧ h = Config.sha256 (leBytes 16 nonce.toNat ++ leBytes 16 s.sec.deviceId.toNat ++ leBytes 4 (arg e 0 32)) ∧ s.pm < t + 4800000000 ∧ r = openSession e.port (some (BitVec.ofNat 32 (arg e 0 32))) nonce ((admitted e n s).onSec fun v => { v with nonce := none })) ∧
    (∃ e n s, Accepted 0x0A04 e n s ∧ e.payload.length = 16 ∧ s.sys.dev ∈ inQBAMCFL) ∧
    (∃ e n s i, Accepted 0x0A05 e n s ∧ e.payload.length = 8 ∧ s.sys.dev ∈ inQBAMF ∧ idx? 5 (arg e 0 3) = some i ∧ arg e 3 29 = 0 ∧ arg e 32 32 ≤ bankSize i ∧ s.sec.load = none ∧ s.sec.verifying = none ∧ s.sec.image[i].trial = false) ∧
    (∃ e n s l, Accepted 0x0A06 e n s ∧ 4 < e.payload.length ∧ e.payload.length ≤ 4096 ∧ s.sys.dev ∈ inQBAMCF ∧ s.sec.load = some l ∧ arg e 0 32 = l.data.length ∧ l.data.length + (e.payload.length - 4) ≤ l.size) ∧
    (∃ e n s l i, Accepted 0x0A07 e n s ∧ e.payload.length = 0 ∧ s.sys.dev ∈ inQBAMF ∧ s.sec.load = some l ∧ idx? 5 l.image = some i) ∧
    (∃ e n s, Accepted 0x0A08 e n s ∧ e.payload.length = 4 ∧ s.sys.dev ∈ inBAM ∧ sessionOf e (admitted e n s) ≠ none ∧ arg e 5 27 = 0 ∧ (liveEn s = true ∨ s.sys.dev = .standby) ∧ (∀ i : Fin 5, named (arg e 0 5) i.val = true → s.sec.image[i].other.verified = true) ∧ s.sec.activation = none ∧ (∀ l, s.sec.load = some l → named (arg e 0 5) l.image = false) ∧ consistent ((List.finRange 5).map fun i => if named (arg e 0 5) i.val then s.sec.image[i].other else s.sec.image[i].run) = true) ∧
    (∃ e n s, Accepted 0x0A09 e n s ∧ e.payload.length = 0 ∧ s.sys.dev ∈ inQBAMCFL) ∧
    (∃ e n s sh, Accepted 0x0B00 e n s ∧ e.payload.length = 3 ∧ s.sys.dev ∈ inBAMCFL ∧ itemShape (arg e 0 8) = some sh ∧ arg e 0 8 ≠ 0x0D ∧ 0 < arg e 16 8 ∧ arg e 8 8 + arg e 16 8 ≤ sh.2 ∧ arg e 16 8 * sh.1 ≤ 4084) :=
  ⟨test_meets_FieldAndActuationRequestsExecute.1,
   test_meets_FieldAndActuationRequestsExecute.2.1,
   test_meets_FieldAndActuationRequestsExecute.2.2.1,
   test_meets_FieldAndActuationRequestsExecute.2.2.2.1,
   test_meets_FieldAndActuationRequestsExecute.2.2.2.2.1,
   test_meets_FieldAndActuationRequestsExecute.2.2.2.2.2.1,
   test_meets_ControlRequestsExecute.1,
   test_meets_ControlRequestsExecute.2.1,
   test_meets_ControlRequestsExecute.2.2.1,
   test_meets_ControlRequestsExecute.2.2.2.1,
   test_meets_ControlRequestsExecute.2.2.2.2,
   test_meets_TimeAndPositionRequestsExecute.1,
   test_meets_TimeAndPositionRequestsExecute.2.1,
   test_meets_TimeAndPositionRequestsExecute.2.2.1,
   test_meets_TimeAndPositionRequestsExecute.2.2.2.1,
   test_meets_TimeAndPositionRequestsExecute.2.2.2.2,
   test_meets_IoRequestsExecute.1,
   test_meets_IoRequestsExecute.2.1,
   test_meets_IoRequestsExecute.2.2.1,
   test_meets_IoRequestsExecute.2.2.2,
   test_meets_BusRequestsExecute.1,
   test_meets_BusRequestsExecute.2.1,
   test_meets_BusRequestsExecute.2.2.1,
   test_meets_BusRequestsExecute.2.2.2.1,
   test_meets_BusRequestsExecute.2.2.2.2.2,
   test_meets_SecurityRequestsExecute.1,
   test_meets_SecurityRequestsExecute.2.1,
   test_meets_SecurityRequestsExecute.2.2.1,
   test_meets_SecurityRequestsExecute.2.2.2.1,
   test_meets_SecurityRequestsExecute.2.2.2.2.1,
   test_meets_SecurityRequestsExecute.2.2.2.2.2.1,
   test_meets_SecurityRequestsExecute.2.2.2.2.2.2.1,
   test_meets_SecurityRequestsExecute.2.2.2.2.2.2.2.1,
   test_meets_SecurityRequestsExecute.2.2.2.2.2.2.2.2.1,
   test_meets_SecurityRequestsExecute.2.2.2.2.2.2.2.2.2.2.1,
   test_meets_SecurityRequestsExecute.2.2.2.2.2.2.2.2.2.2.2⟩

theorem test_meets_DeviceEventsCompleteUnderTheirConditions :
    (∃ (p : Port) (s : State), portListens s p = true) ∧
    (∃ (p : Port) (s : State), portListens s p = true ∧ 0 < (portOf s p).noticeCredits ∧ ((portOf s p).notices ≠ [] ∨ (portOf s p).noticesLost ≠ 0) ∧ (portOf s p).out.all (fun o => o.body.telemetric) = true) ∧
    (∃ (p : Port) (s : State), portListens s p = true ∧ (portOf s p).linkArmed = true ∧ (portOf s p).linkLost = false ∧ (portOf s p).linkFrom + linkTimeout s p ≤ s.pm ∧ (linkSafe s p = false ∨ s.sys.dev ∉ [.armed, .manual, .coast] ∨ (s.sys.dev = .coast ∧ s.sys.coastFromArmed = false ∧ s.sys.coastFromManual = false))) ∧
    (∃ (p : Port) (img : Nat) (s : State), s.host.applyWait = some (p, img) ∧ replyGone s p 0x0102 = true) ∧
    (∃ (p : Port) (s : State), s.host.resetWait = some p ∧ s.sys.dev = .quarantine ∧ replyGone s p 0x0008 = true ∧ (s.running = false ∨ s.pm % 40000 = 0)) ∧
    (∃ (op : BitVec 16) (e : Env) (n : Nat) (s : State), Accepted op e n s ∧ opInfo op = none) ∧
    (∃ (f : Freeze) (e : Nat) (u : State) (s : State), e = edgeOf s.pm ∧ s.running = true ∧ s.sys.dev ≠ .off ∧ (∀ l, s.sys.lastEdge = some l → l < edgeOf s.pm) ∧ u = ((toggleFaultOut (trigSource 7 0 e 0 (bkoError (activationEdge e (settleActivation e (edgeStates e ((lastFrameEnd e s).onSys fun y => { y with lastEdge := some e, phase := some .freeze }))))))).onLsw fun v => { v with sel := f.sel }) ∧ framesRun u = true) ∧
    (∃ (e : Nat) (i : ImplSet) (s : State), s.sys.lastEdge = some e ∧ s.sys.phase = some .freeze ∧ e + 20000 ≤ s.pm ∧ s.pm < e + 32000 ∧ feWorks s e = true ∧ s.impl.active = some i) ∧
    (∃ (e : Nat) (b : Batch) (s : State), s.sys.lastEdge = some e ∧ s.sys.phase = some .decision ∧ e + 32000 ≤ s.pm ∧ s.pm < e + 36000 ∧ feWorks s e = true ∧ s.fe.batch = some b) ∧
    (∃ (e : Nat) (s : State), s.sys.lastEdge = some e ∧ s.sys.phase ≠ some .logging ∧ e + 36000 ≤ s.pm ∧ s.pm < e + 40000) ∧
    (∃ (s : State), s.sys.dev = .off ∧ s.pwr.vbatOk = true ∧ s.pd0.fresh = false) ∧
    (∃ (s : State), s.pwr.vkey = true) ∧
    (∃ (t0 : Nat) (s : State), s.pwr.vkeyLowAt = some t0 ∧ (s.sys.dev = .standby ∨ s.sys.dev = .quarantine ∨ s.sys.dev = .safe) ∧ t0 + keyOffDelay s ≤ s.pm ∧ s.pm % 40000 = 0) ∧
    (∃ (t0 : Nat) (s : State), s.pd0.wakeAlarm = some t0 ∧ t0 ≤ s.pd0.now ∧ s.sys.dev = .off ∧ s.pwr.vbatOk = true ∧ s.pd0.fresh = false) ∧
    (∃ (s : State), s.sys.dev = .off ∧ s.pwr.vkey = true ∧ s.pd0.fresh = false) ∧
    (∃ (s : State), s.sys.dev ≠ .off) ∧
    (∃ (s : State), s.sys.dev ≠ .off ∧ s.pwr.lowSupply = false) ∧
    (∃ (s : State), s.pwr.lowSupply = true) ∧
    (∃ (s : State), True) ∧
    (∃ (s : State), s.sys.dev ≠ .off ∧ s.pwr.groundLost = false) ∧
    (∃ (s : State), s.pwr.groundLost = true) ∧
    (∃ (s : State), True) ∧
    (∃ (s : State), s.sys.dev ≠ .off ∧ s.pwr.loadDump = false) ∧
    (∃ (s : State), s.sys.dev = .start ∧ s.running = false ∧ s.sys.bootStage = 1) ∧
    (∃ (v0 : Vector BankVerdict 5) (v1 : Vector BankVerdict 5) (c : List Bool) (s : State), s.sys.dev = .start ∧ s.running = true ∧ s.sys.bootStage = 2 ∧ s.sys.imagesOk = false ∧ s.sys.quarCause = 0 ∧ selectSet (s.onSec fun c => { c with image := vmapIdx c.image fun i m => { m with bank0 := verdict s i m m.bank0 v0[i], bank1 := verdict s i m m.bank1 v1[i] } }) = some c) ∧
    (∃ (s : State), s.sys.dev = .start ∧ s.sys.bootStage = 2 ∧ (s.sys.imagesOk = true ∨ s.sys.quarCause = 2) ∧ s.sys.powered = false ∧ s.pd0.latch = none) ∧
    (∃ (s : State), s.sys.powered = true ∧ s.sys.hostAlive = false) ∧
    (∃ (failed : List Nat) (s : State), s.sys.dev = .start ∧ s.sys.powered = true ∧ s.sys.imagesOk = true ∧ s.pm % 40000 = 0 ∧ s.sys.selftestFail = 0 ∧ failed.filter quarantineTest = []) ∧
    (∃ (d : Fin 12) (s : State), bitN (requiredDomains s) d.val = true ∧ s.pwr.domains.getLsbD d.val = false) ∧
    (∃ (retired : Vector Nat 3) (s : State), s.sys.bootStage = 4 ∧ s.sys.mapReady = false ∧ s.sys.dev ≠ .latched) ∧
    (∃ (s : State), (s.sys.dev = .standby ∨ s.sys.dev = .armed ∨ s.sys.dev = .manual) ∧ restartsInWindow s .pair < restartLimit s ∧ s.safe.safeIn = false ∧
    vbatOperating s = true ∧ diesCool s = true) ∧
    (∃ (s : State), (s.sys.dev = .standby ∨ s.sys.dev = .armed ∨ s.sys.dev = .manual) ∧ restartsInWindow s .control < restartLimit s ∧ s.safe.safeIn = false ∧
    vbatOperating s = true ∧ diesCool s = true) ∧
    (∃ (s : State), (s.sys.dev = .standby ∨ s.sys.dev = .armed ∨ s.sys.dev = .manual) ∧ restartsInWindow s .gnss < restartLimit s ∧ s.safe.safeIn = false ∧
    vbatOperating s = true ∧ diesCool s = true) ∧
    (∃ (s : State), (s.sys.dev = .standby ∨ s.sys.dev = .armed ∨ s.sys.dev = .manual) ∧ restartsInWindow s .enclave < restartLimit s ∧ s.safe.safeIn = false ∧
    vbatOperating s = true ∧ diesCool s = true) ∧
    (∃ (el : Element) (s : State), (s.sys.dev = .standby ∨ s.sys.dev = .armed ∨ s.sys.dev = .manual) ∧ restartsInWindow s el < restartLimit s ∧ s.safe.safeIn = false ∧
    vbatOperating s = true ∧ diesCool s = true) ∧
    (∃ (k : BitVec 8) (s : State), safeAllowed s = true) ∧
    (∃ (s : State), s.pwr.clkBaseBad = true) ∧
    (∃ (el : Element) (s : State), (elemOf s el).clockBad = true ∧ (elemOf s el).relockAt ≤ s.pm) ∧
    (∃ (e : Nat) (t0 : Nat) (s : State), e = edgeOf (coastEnd s + 3999) ∧ t0 = (if e < coastEnd s then e + 40000 else e) ∧ s.sys.dev = .coast ∧ coastEnd s ≤ s.pm ∧ allClean (if t0 < coastEnd s + 4000 then cleanFrames t0 s else s) = false) ∧
    (∃ (el : Element) (s : State), (elemOf s el).restarting = true ∧ (elemOf s el).clockBad = false) ∧
    (∃ (s : State), safeInEn s = true ∧ safeAllowed s = true) ∧
    (∃ (s : State), s.safe.safeIn = true) ∧
    (∃ (t0 : Nat) (s : State), s.can.graceFrom = some t0 ∧ t0 + rowGrace s ≤ s.pm ∧ s.can.ctl[(1 : Fin 3)].st = .active) ∧
    (∃ (s : State), s.sys.dev ≠ .off ∧ s.vdr.conv.fault = false) ∧
    (∃ (s : State), s.vdr.conv.fault = true ∧ s.vdr.conv.retryAt ≤ s.pm) ∧
    (∃ (mw : Nat) (s : State), s.vdr.conv.boostLimit = false ∧ 40000 * (256 - boostR s) / 256 ≤ mw) ∧
    (∃ (mv : Nat) (s : State), s.vdr.conv.sag = false ∧ mv + 600 < vbstTarget s s.vdr.conv.vbat) ∧
    (∃ (mv : Nat) (s : State), s.vdr.conv.returnSusp = false ∧ (3600 < mv ∨ returnEn s = false)) ∧
    (∃ (mv : Nat) (s : State), s.vdr.conv.divert = false ∧ vbstTarget s s.vdr.conv.vbat + 600 < mv) ∧
    (∃ (s : State), True) ∧
    (∃ (i : Fin 5) (r : BitVec 4) (s : State), s.sec.image[i].trial = true ∧ trialTicks s ≤ trialRun s i ∧ r = (if s.sec.image[i].run.revokeOther then s.sec.revoked ||| (if s.sec.image[i].run.keyB then 1 else 2) else s.sec.revoked)) ∧
    (∃ (s : State), True) ∧
    (∃ (s : State), True) ∧
    (∃ (k : Nat) (i : Fin 5) (s : State), s.sec.verifying = some k ∧ idx? 5 k = some i) :=
  ⟨test_meets_PortEventsExecute.1,
   test_meets_PortEventsExecute.2.1,
   test_meets_PortEventsExecute.2.2.1,
   test_meets_PortEventsExecute.2.2.2.2.1,
   test_meets_PortEventsExecute.2.2.2.2.2.1,
   test_meets_PortEventsExecute.2.2.2.2.2.2,
   test_meets_FramePhasesExecute.1,
   test_meets_FramePhasesExecute.2.2.1,
   test_meets_FramePhasesExecute.2.2.2.2.2.1,
   test_meets_FramePhasesExecute.2.2.2.2.2.2.2.2,
   test_meets_SupplyEventsExecute.1,
   test_meets_SupplyEventsExecute.2.2.2.2.1,
   test_meets_SupplyEventsExecute.2.2.2.2.2.1,
   test_meets_SupplyEventsExecute.2.2.2.2.2.2.1,
   test_meets_SupplyEventsExecute.2.2.2.2.2.2.2.2.2.1,
   test_meets_SupplyEventsExecute.2.2.2.2.2.2.2.2.2.2.2.1,
   test_meets_SupplyEventsExecute.2.2.2.2.2.2.2.2.2.2.2.2.2.1,
   test_meets_SupplyEventsExecute.2.2.2.2.2.2.2.2.2.2.2.2.2.2.1,
   test_meets_SupplyEventsExecute.2.2.2.2.2.2.2.2.2.2.2.2.2.2.2.1,
   test_meets_SupplyEventsExecute.2.2.2.2.2.2.2.2.2.2.2.2.2.2.2.2.1,
   test_meets_SupplyEventsExecute.2.2.2.2.2.2.2.2.2.2.2.2.2.2.2.2.2.2.2.1,
   test_meets_SupplyEventsExecute.2.2.2.2.2.2.2.2.2.2.2.2.2.2.2.2.2.2.2.2.1,
   test_meets_SupplyEventsExecute.2.2.2.2.2.2.2.2.2.2.2.2.2.2.2.2.2.2.2.2.2,
   test_meets_StartEventsExecute.1,
   test_meets_StartEventsExecute.2.1,
   test_meets_StartEventsExecute.2.2.2.2.1,
   test_meets_StartEventsExecute.2.2.2.2.2.2.1,
   test_meets_StartEventsExecute.2.2.2.2.2.2.2.1,
   test_meets_StartEventsExecute.2.2.2.2.2.2.2.2.2.1,
   test_meets_StartEventsExecute.2.2.2.2.2.2.2.2.2.2.2,
   ⟨w0, by decide +kernel⟩,
   ⟨w0, by decide +kernel⟩,
   ⟨w0, by decide +kernel⟩,
   ⟨w0, by decide +kernel⟩,
   ⟨.gnss, w0, by decide +kernel⟩,
   test_meets_ClockAndSafetyEventsExecute.1,
   test_meets_ClockAndSafetyEventsExecute.2.2.1,
   test_meets_ClockAndSafetyEventsExecute.2.2.2.1,
   test_meets_ClockAndSafetyEventsExecute.2.2.2.2.2.1,
   test_meets_ClockAndSafetyEventsExecute.2.2.2.2.2.2.1,
   test_meets_ClockAndSafetyEventsExecute.2.2.2.2.2.2.2.1,
   test_meets_ClockAndSafetyEventsExecute.2.2.2.2.2.2.2.2.2.2.1,
   test_meets_ClockAndSafetyEventsExecute.2.2.2.2.2.2.2.2.2.2.2.1,
   test_meets_ConverterEventsExecute.1,
   test_meets_ConverterEventsExecute.2.1,
   test_meets_ConverterEventsExecute.2.2.2.1,
   test_meets_ConverterEventsExecute.2.2.2.2.2.1,
   test_meets_ConverterEventsExecute.2.2.2.2.2.2.2.2.1,
   test_meets_ConverterEventsExecute.2.2.2.2.2.2.2.2.2.2.2.1,
   test_meets_SecurityEventsExecute.1,
   test_meets_SecurityEventsExecute.2.1,
   test_meets_SecurityEventsExecute.2.2.1,
   test_meets_SecurityEventsExecute.2.2.2.1,
   test_meets_SecurityEventsExecute.2.2.2.2.2.2⟩

theorem test_meets_ActuationAndReceiverEventsCompleteUnderTheirConditions :
    (∃ (m : EpochIn) (t0 : Nat) (s : State), gnssRuns s = true ∧ epochDue s = some t0) ∧
    (∃ (s : State), s.time.st = .locked ∧ s.time.lastGood + 20000000 ≤ s.pm) ∧
    (∃ (s : State), s.time.st = .holdover ∧ s.time.lastGood + holdoverLimit s ≤ s.pm) ∧
    (∃ (s : State), s.time.step = none ∧ ppsRuns s = true ∧ s.time.ppsFrom ≤ (s.time.model.latest second s.pm).2 ∧ (∀ p, s.time.ppsSec = some p → p < (s.time.model.latest second s.pm).1)) ∧
    (∃ (s : State), s.time.ppsOut = true ∧ s.time.ppsEnd ≤ s.pm) ∧
    (∃ (x : Int) (s : State), s.time.st = .locked) ∧
    (∃ (s : State), s.sys.dev = .standby) ∧
    (∃ (d : DwellIn) (w : Dwell) (s : State), s.gnss.dwell = some w ∧ acqRuns s = true ∧ w.start + 80000 * w.passes ≤ s.pm ∧ w.mode ≠ .verify ∧ dwellDetects w d s = true) ∧
    (∃ (s : State), gnssRuns s = true ∧ 4 ≤ trackedValid s ∧ s.gnss.warmAt + 800000000 ≤ s.pm) ∧
    (∃ (c : Fin 24) (s : State), gnssRuns s = true ∧ s.gnss.chan[c].stage = .fll ∧ s.gnss.chan[c].since + 16000000 ≤ s.pm) ∧
    (∃ (c : Fin 24) (s : State), gnssRuns s = true ∧ s.gnss.chan[c].stage = .fll ∧ s.gnss.chan[c].since + 1600000 ≤ s.pm ∧ s.pm < s.gnss.chan[c].since + 16000000) ∧
    (∃ (c : Fin 24) (mean : Int) (s : State), gnssRuns s = true ∧ (s.gnss.chan[c].stage = .pll ∨ s.gnss.chan[c].stage = .tracking) ∧ s.gnss.chan[c].phaseLock = false ∧ 700 ≤ mean ∧ s.gnss.chan[c].since + 8000000 ≤ s.pm) ∧
    (∃ (c : Fin 24) (l : List Nat) (s : State), gnssRuns s = true ∧ s.gnss.chan[c].stage = .pll ∧ s.gnss.chan[c].phaseLock = true ∧ s.gnss.chan[c].bitSync = false ∧ s.gnss.chan[c].lockAt + 160000000 ≤ s.pm ∧ l.length = 20 ∧ 10 ≤ l.foldl max 0 ∧ 60 * l.sum ≤ 100 * l.foldl max 0) ∧
    (∃ (c : Fin 24) (f : FrameIn) (s : State), gnssRuns s = true ∧ s.gnss.chan[c].stage = .tracking ∧ s.gnss.chan[c].bitSync = true ∧ s.gnss.chan[c].frameSync = false ∧ frameFound f = true) ∧
    (∃ (c : Fin 24) (w : BitVec 30) (s : State), gnssRuns s = true ∧ s.gnss.chan[c].stage.tracks = true ∧ s.gnss.chan[c].frameSync = true) ∧
    (∃ (p : Fin 32) (c : Fin 24) (i : Nat) (w : Nat) (s : State), gnssRuns s = true ∧ tracked s p = some c ∧ (vlist s.gnss.chan[c].subs).all (·.length = 10) = true ∧ i = dataBits (subWord s.gnss.chan[c] 1 3) 1 8 ∧ i = dataBits (subWord s.gnss.chan[c] 2 10) 1 8 ∧ i = dataBits (subWord s.gnss.chan[c] 0 8) 1 8 ∧ w = dataBits (subWord s.gnss.chan[c] 0 3) 1 10) ∧
    (∃ (c : Fin 24) (t0 : Nat) (s : State), gnssRuns s = true ∧ s.gnss.chan[c].stage.tracks = true ∧ s.gnss.chan[c].weakFrom = some t0 ∧ t0 + 160000000 ≤ s.pm) ∧
    (∃ (t0 : Nat) (s : State), s.pwr.acqIdleSince = some t0 ∧ s.act.flag .pwr 8 = true ∧ gnssRuns s = true ∧ t0 + 8000000 ≤ s.pm) ∧
    (∃ (ma : Nat) (s : State), antBias s ≠ 0 ∧ s.gnss.antOpen = false ∧ ma < antOpenMa s) ∧
    (∃ (ma : Nat) (s : State), antBias s ≠ 0 ∧ s.gnss.bias = true ∧ antShortMa s < ma) ∧
    (∃ (ma : Nat) (s : State), antBias s ≠ 0 ∧ s.gnss.antShort = true ∧ s.gnss.bias = false ∧ s.gnss.antRetryAt + 8000000 ≤ s.pm ∧ ma ≤ antShortMa s) ∧
    (∃ (m : List Byte) (n : Nat) (s : State), gnssRuns s = true ∧ readFrame s.gnss.rtcmBuf = .frame m n) ∧
    (∃ (s : State), s.gnss.rtcmBuf ≠ [] ∧ s.gnss.rtcmLast + 160000000 ≤ s.pm ∧ readFrame s.gnss.rtcmBuf = .wait) ∧
    (∃ (m : BitVec 32) (l : List Int) (q : Nat) (s : State), fixRatio s ≤ q ∧ s.restarting .pair = false) ∧
    (∃ (k : Fin 4) (s : State), 3 ≤ odoType s k ∧ s.pos.odo[k].stale = false ∧ s.pos.odo[k].lastPm + 24000000 ≤ s.pm) ∧
    (∃ (b : Fin 12) (ev : Ev) (c : Fin 96) (s : State), firstEvent s.vdr.bank[b].queue = some ev ∧ ev.stale = false ∧ ev.runAt ≤ s.pm ∧ idx? 96 ev.ctx = some c ∧ ev.on = true) ∧
    (∃ (c : Fin 96) (s : State), s.vdr.ch[c].st = .pending ∧ s.vdr.ch[c].startAt ≤ s.pm ∧ s.vdr.ch[c].unplaced = false) ∧
    (∃ (b : Fin 12) (s : State), s.vdr.bank[b].feed ≠ .bst ∧ s.vdr.bank[b].isolated = 0 ∧ s.vdr.bank[b].windows.any (fun w => w.start ≤ s.pm + 320 && s.pm < w.stop) = true) ∧
    (∃ (b : Fin 12) (s : State), s.vdr.bank[b].feed = .bst ∧ s.vdr.bank[b].windows.any (fun w => w.stop ≤ s.pm) = true ∧ s.vdr.bank[b].windows.any (fun w => inWindow w.start w.stop s.pm) = false) ∧
    (∃ (b : Fin 12) (s : State), s.vdr.bank[b].windows.any (fun w => w.stop + w.guard ≤ s.pm) = true) ∧
    (∃ (c : Fin 96) (l0 : Nat) (s : State), s.vdr.ch[c].st = .pullIn ∧ s.vdr.ch[c].pullEnd ≤ s.pm ∧ s.vdr.ch[c].held = false) ∧
    (∃ (c : Fin 96) (en : Nat) (s : State), s.vdr.ch[c].st = .decay ∧ s.vdr.ch[c].fast = true ∧ s.vdr.ch[c].offSet.iTail ≠ 0 ∧ s.vdr.ch[c].recover = false) ∧
    (∃ (c : Fin 96) (en : Nat) (s : State), s.vdr.ch[c].st = .decay) ∧
    (∃ (c : Fin 96) (g : SigIn) (s : State), s.vdr.ch[c].searching = true ∧ (s.vdr.ch[c].st = .pullIn ∨ s.vdr.ch[c].st = .hold) ∧ s.vdr.ch[c].startAt ≤ g.sample ∧ s.pm ≤ s.vdr.ch[c].startAt + s.vdr.ch[c].onSet.searchWin ∧ isMin g = true ∧ signatureOk c s.pm g (10 * s.vdr.ch[c].onSet.sigMin) = true) ∧
    (∃ (c : Fin 96) (g : SigIn) (en : Nat) (s : State), s.vdr.ch[c].st = .decay ∧ s.vdr.ch[c].closeSearch = true ∧ s.vdr.ch[c].offPm ≤ g.sample ∧ s.pm ≤ s.vdr.ch[c].offPm + s.vdr.ch[c].offSet.searchWin ∧ isMax g = true ∧ signatureOk c s.pm g (5 * s.vdr.ch[c].offSet.sigMin) = true) ∧
    (∃ (c : Fin 96) (s : State), s.vdr.ch[c].searching = true ∧ s.vdr.ch[c].startAt + s.vdr.ch[c].onSet.searchWin ≤ s.pm) ∧
    (∃ (b : Fin 12) (s : State), trigRuns s = true ∧ s.pwu.grid[b].b + s.pwu.grid[b].period ≤ s.pm) ∧
    (∃ (c : Fin 96) (u : State) (s : State), s.pwu.noz[c].running = true ∧ s.pwu.noz[c].nextOpen ≤ openingOf s c ∧ openingOf s c ≤ s.pm ∧ u = modNoz c (fun n => { n with nextOpen := openingOf s c + 1, openAt := openingOf s c, closeAt := none }) (reloadNoz c (openingOf s c) false s) ∧ u.pwu.noz[c].onTime ≠ 0) ∧
    (∃ (c : Fin 96) (t0 : Nat) (s : State), s.pwu.noz[c].closeAt = some t0 ∧ s.pwu.noz[c].running = true ∧ t0 ≤ s.pm ∧ merges s c t0 = false) ∧
    (∃ (g : Fin 8) (s : State), s.pwu.fine[g].running = true ∧ s.pwu.fine[g].startAt + periodCounts s.pwu.fine[g].periodActive s.pwu.fine[g].centre < 5 * (s.pm + 1)) ∧
    (∃ (g : Fin 8) (x : Option Nat) (s : State), s.pwu.fine[g].running = true ∧ gatesAllowed s = true ∧ transitionDue s g true = true) ∧
    (∃ (j : Fin 4) (t0 : Nat) (s : State), (finePeaks s).pwu.trig[j].pulseAt = some t0 ∧ t0 ≤ s.pm) ∧
    (∃ (j : Fin 4) (s : State), s.pwu.trig[j].active = true ∧ s.pwu.trig[j].endAt ≤ s.pm) ∧
    (∃ (k : Fin 16) (x : LoopIn) (s : State), ceRuns s = true ∧ loopCounts s k (s.pm / 10000 * 10000) = true ∧ s.ce.loop[k].evalFor ≠ some (s.pm / 10000 * 10000) ∧ loopTurn s k (s.pm / 10000 * 10000) = true ∧ s.pm < s.pm / 10000 * 10000 + deadline s k ∧ loopInputs s k (s.pm / 10000 * 10000) = some x ∧ loopMode s k.val = 3) ∧
    (∃ (k : Fin 16) (t0 : Nat) (s : State), missedInstant s k = some t0 ∧ ceRuns s = true ∧ s.ce.loop[k].fault = false ∧ (elemOf s .control).doneAt.getD 0 ≤ t0 ∧ s.ce.loop[k].missRun < 2) ∧
    (∃ (j : Fin 4) (t0 : Nat) (s : State), flowF s j 4 1 = 1 ∧ s.ce.flow[j].imbalance = false ∧ s.ce.flow[j].overSince = some t0 ∧ t0 + 160000000 ≤ s.pm) :=
  ⟨test_meets_TimeEventsExecute.1,
   test_meets_TimeEventsExecute.2.2.1,
   test_meets_TimeEventsExecute.2.2.2.1,
   test_meets_TimeEventsExecute.2.2.2.2.1,
   test_meets_TimeEventsExecute.2.2.2.2.2.2.2.2.1,
   test_meets_TimeEventsExecute.2.2.2.2.2.2.2.2.2.1,
   test_meets_TimeEventsExecute.2.2.2.2.2.2.2.2.2.2.2.2,
   test_meets_GnssChannelEventsExecute.2.2.1,
   test_meets_GnssChannelEventsExecute.2.2.2.2.2.1,
   test_meets_GnssChannelEventsExecute.2.2.2.2.2.2.1,
   test_meets_GnssChannelEventsExecute.2.2.2.2.2.2.2.1,
   test_meets_GnssChannelEventsExecute.2.2.2.2.2.2.2.2.1,
   test_meets_GnssChannelEventsExecute.2.2.2.2.2.2.2.2.2.2.2.1,
   test_meets_GnssChannelEventsExecute.2.2.2.2.2.2.2.2.2.2.2.2.1,
   test_meets_GnssChannelEventsExecute.2.2.2.2.2.2.2.2.2.2.2.2.2.1,
   test_meets_GnssChannelEventsExecute.2.2.2.2.2.2.2.2.2.2.2.2.2.2.1,
   test_meets_GnssChannelEventsExecute.2.2.2.2.2.2.2.2.2.2.2.2.2.2.2.1,
   test_meets_GnssChannelEventsExecute.2.2.2.2.2.2.2.2.2.2.2.2.2.2.2.2,
   test_meets_AntennaAndCorrectionEventsExecute.1,
   test_meets_AntennaAndCorrectionEventsExecute.2.2.2.1,
   test_meets_AntennaAndCorrectionEventsExecute.2.2.2.2.2.1,
   test_meets_AntennaAndCorrectionEventsExecute.2.2.2.2.2.2.2.2.1,
   test_meets_AntennaAndCorrectionEventsExecute.2.2.2.2.2.2.2.2.2.2.1,
   test_meets_AntennaAndCorrectionEventsExecute.2.2.2.2.2.2.2.2.2.2.2.1,
   test_meets_AntennaAndCorrectionEventsExecute.2.2.2.2.2.2.2.2.2.2.2.2,
   test_meets_ValveEventsExecute.1,
   test_meets_ValveEventsExecute.2.2.2.2.2.1,
   test_meets_ValveEventsExecute.2.2.2.2.2.2.2.1,
   test_meets_ValveEventsExecute.2.2.2.2.2.2.2.2.1,
   test_meets_ValveEventsExecute.2.2.2.2.2.2.2.2.2.1,
   test_meets_ValveEventsExecute.2.2.2.2.2.2.2.2.2.2.1,
   test_meets_ValveEventsExecute.2.2.2.2.2.2.2.2.2.2.2.2.1,
   test_meets_ValveEventsExecute.2.2.2.2.2.2.2.2.2.2.2.2.2.2.1,
   test_meets_ValveEventsExecute.2.2.2.2.2.2.2.2.2.2.2.2.2.2.2.1,
   test_meets_ValveEventsExecute.2.2.2.2.2.2.2.2.2.2.2.2.2.2.2.2.1,
   test_meets_ValveEventsExecute.2.2.2.2.2.2.2.2.2.2.2.2.2.2.2.2.2,
   test_meets_PwmEventsExecute.1,
   test_meets_PwmEventsExecute.2.1,
   test_meets_PwmEventsExecute.2.2.2.2.1,
   test_meets_PwmEventsExecute.2.2.2.2.2.2.1,
   test_meets_PwmEventsExecute.2.2.2.2.2.2.2.1,
   test_meets_PwmEventsExecute.2.2.2.2.2.2.2.2.2.2.2.1,
   test_meets_PwmEventsExecute.2.2.2.2.2.2.2.2.2.2.2.2,
   test_meets_LoopEventsExecute.1,
   test_meets_LoopEventsExecute.2.2.2.2.2.1,
   test_meets_LoopEventsExecute.2.2.2.2.2.2.2.2.1⟩

theorem test_meets_InputSwitchBusAndStoreEventsCompleteUnderTheirConditions :
    (∃ (i : Fin 4) (ba : BitVec 2) (t0 : Nat) (s : State), pifRuns s = true ∧ linesReady s (encFilter s i) (ba.toNat ^^^ s.pif.enc[i].state) s.pif.enc[i].accepted = true ∧ t0 = s.pm - (encFilter s i - 1) ∧ quadPos ba.toNat = quadPos s.pif.enc[i].state) ∧
    (∃ (i : Fin 4) (ba : BitVec 2) (t0 : Nat) (s : State), pifRuns s = true ∧ linesReady s (encFilter s i) (ba.toNat ^^^ s.pif.enc[i].state) s.pif.enc[i].accepted = true ∧ lineReady s (2 * encFilter s i) s.pif.enc[i].accepted[(2 : Fin 3)] = true ∧ t0 = s.pm - (encFilter s i - 1) ∧ (indexMode s i = 0 ∨ (gateEn s i = true ∧ gateAb s i ≠ ba.toNat))) ∧
    (∃ (i : Fin 4) (wvu : BitVec 3) (t0 : Nat) (s : State), pifRuns s = true ∧ linesReady s (hallFilter s i) (wvu.toNat ^^^ s.pif.hall[i].state) s.pif.hall[i].accepted = true ∧ t0 = s.pm - (hallFilter s i - 1) ∧ wvu ≠ 0 ∧ wvu ≠ 7) ∧
    (∃ (i : Fin 4) (s : State), s.pif.hall[i].hallIllegal = true ∧ s.pif.hall[i].invalid = false ∧ s.pif.hall[i].illegalAt + 80000 ≤ s.pm) ∧
    (∃ (i : Fin 16) (t0 : Nat) (s : State), pifRuns s = true ∧ lineReady s (freqFilter s i) s.pif.freq[i].acceptedAt = true ∧ s.pif.freq[i].level = freqFalling s i ∧ t0 = s.pm - (freqFilter s i - 1)) ∧
    (∃ (i : Fin 8) (f : Bool) (s : State), pifRuns s = true ∧ lineReady s (evtFilter s i) s.pif.evt[i].acceptedAt = true ∧ bitN (evtEdges s i) (if f then 1 else 0) = true ∧ s.pif.evt[i].fifo.length < 32) ∧
    (∃ (i : Fin 32) (mv : BitVec 16) (t0 : Nat) (v : Nat) (c : AinVal) (s : State), pifRuns s = true ∧ (ainTrigEn s i = false ∧ t0 = s.pm / 10000 * 10000 ∨ ainTrigEn s i = true ∧ ∃ g, idx? 8 (ainTrigGen s i) = some g ∧ (finePeaks s).pwu.fine[g].trigAt = some t0) ∧ s.pif.ain[i].since ≤ t0 ∧ (∀ p ∈ s.pif.ain[i].past, p.1 < t0) ∧ v = min mv.toNat (ainTop s i) ∧ c = { pm := t0, value := v, invalid := decide (v < ainLo s i ∨ ainHi s i < v) }) ∧
    (∃ (x : Fin 2) (m : Emu) (s : State), emuRuns s x = true ∧ (emuUpdate x id s).pif.emu[x] = m ∧ m.whole ≠ 0 ∧ (∀ t0, m.lastStep = some t0 → t0 + 160 ≤ s.pm)) ∧
    (∃ (c : Fin 16) (s : State), s.lsw.ls[c].st = .inrush ∧ s.lsw.ls[c].stepEnd ≤ lswNow s ∧ s.lsw.ls[c].step + 1 < s.lsw.ls[c].profile.steps) ∧
    (∃ (c : Fin 16) (s : State), (s.lsw.ls[c].st = .on ∨ offDiagnosed s c = true) ∧ s.lsw.ls[c].openLoad = false) ∧
    (∃ (c : Fin 16) (s : State), offDiagnosed s c = true ∧ s.lsw.ls[c].shortBat = false) ∧
    (∃ (c : Fin 16) (s : State), s.lsw.ls[c].outOn = true) ∧
    (∃ (c : Fin 16) (s : State), s.lsw.ls[c].isOn = true ∧ s.pd0.keyOffHold[c] = none) ∧
    (∃ (c : Fin 16) (x : Int) (s : State), thsTakes s 8 (lswSensor c) = true) ∧
    (∃ (c : Fin 16) (x : Int) (s : State), thsTakes s 8 (lswSensor c) = true) ∧
    (∃ (a : Nat) (s : State), 80000 < a ∧ s.lsw.shedding = false) ∧
    (∃ (a : Nat) (s : State), s.lsw.shedding = true ∧ s.lsw.lastShed + 80000 ≤ s.pm ∧ 76000 < a) ∧
    (∃ (c : Fin 16) (s : State), s.lsw.ls[c].st = .latched ∧ s.lsw.ls[c].aggregate = false ∧ s.lsw.ls[c].thermLatch = false ∧ s.lsw.ls[c].exhausted = false ∧ s.sys.dev ≠ .latched ∧ max (s.lsw.ls[c].tripAt + msTicks s.lsw.ls[c].profile.retryDelay) s.lsw.ls[c].thermAt ≤ lswNow s ∧ s.pd0.lswOn[c] = true ∧ s.sys.dev ≠ .off ∧ 0 < s.pd0.lswRetries[c]) ∧
    (∃ (c : Fin 16) (l : Lsw) (o : Nat) (s : State), l = s.lsw.ls[c].advance (lswNow s) ∧ o = l.pulseB + l.pulsePhase * l.pulseP / 256 ∧ l.pulsing = true ∧ (l.st = .on ∨ (l.st = .off ∧ l.firstPulse = false)) ∧ o ≤ lswNow s ∧ l.lastOpen < o + 1 ∧ s.sys.dev ≠ .safe) ∧
    (∃ (c : Fin 16) (t0 : Nat) (s : State), s.lsw.ls[c].closeAt = some t0 ∧ t0 ≤ lswNow s ∧ s.lsw.ls[c].pulsing = true) ∧
    (∃ (c : Fin 16) (s : State), s.sys.dev = .coast ∧ coastPolicy s c = 1 ∧ s.sys.coastEntry + offAfter s c ≤ s.pm) ∧
    (∃ (c : Fin 16) (t0 : Nat) (s : State), s.pd0.keyOffHold[c] = some t0 ∧ t0 ≤ s.pd0.now) ∧
    (∃ (z : Fin 10) (k : Fin 20) (x : Int) (s : State), thsTakes s z k = true) ∧
    (∃ (z : Fin 10) (k : Fin 20) (x : Int) (s : State), thsTakes s z k = true) ∧
    (∃ (z : Fin 10) (k : Fin 20) (s : State), thsTakes s z k = true ∧ s.ths.zone[z].sens[k].broken = true) ∧
    (∃ (z : Fin 10) (k : Fin 20) (x : Int) (s : State), thsTakes s z k = true ∧ (stageOf z k).isSome = true ∧ s.ths.zone[z].sens[k].rises s.pm x = true ∧ -600 ≤ x ∧ x ≤ 2100 ∧ s.ths.zone[z].sens[k].broken = false) ∧
    (∃ (z : Fin 10) (k : Fin 20) (x : Int) (s : State), thsTakes s z k = true) ∧
    (∃ (x : Fin 3) (f : CanFrame) (s : State), onBus s x = true ∧ (f.fdf = false ∨ fdEn s x = true) ∧ tunCtl s ≠ some x ∧ s.can.ctl[x].rec_ ≤ 127 ∧ holeFor s x f = none) ∧
    (∃ (x : Fin 3) (k : Fin 32) (s : State), onBus s x = true ∧ listen s x = false ∧ hasActive s x = none ∧ winner s x = some k) ∧
    (∃ (x : Fin 3) (k : Fin 32) (sof : Nat) (eof : Nat) (d : Option Nat) (s : State), hasActive s x = some k ∧ selfRx s x = false) ∧
    (∃ (x : Fin 3) (k : Fin 32) (s : State), s.can.ctl[x].slots[k].st = .pending ∧ slotDeadline s.can.ctl[x].slots[k].desc.toNat ≠ 0 ∧ slotDeadline s.can.ctl[x].slots[k].desc.toNat ≤ s.pm) ∧
    (∃ (x : Fin 3) (s : State), s.can.ctl[x].st = .recovering ∧ canRuns s = true ∧ s.can.ctl[x].busOffAt + 1408 * bitTicks s x ≤ s.pm ∧ x ≠ 1) ∧
    (∃ (x : Fin 3) (s : State), canRuns s = true ∧ canEnable s x = true ∧ s.can.ctl[x].st = .offBus ∧ (confine s.can.ctl[x].tec s.can.ctl[x].rec_ ≠ .busOff ∨ busoffAuto s x = false)) ∧
    (∃ (x : Fin 3) (n : Nat) (s : State), onBus s x = true) ∧
    (∃ (s : State), isoEn s = true ∧ canRuns s = true ∧ s.sys.dev ≠ .quarantine ∧ s.can.ctl[(0 : Fin 3)].st = .active ∧ s.can.claimed = false) ∧
    (∃ (t0 : Nat) (s : State), s.can.claimAt = some t0 ∧ t0 + 20000000 ≤ s.pm) ∧
    (∃ (s : State), rowRuns s = true ∧ s.can.syncAt < s.pm / syncInterval s * syncInterval s ∧ s.can.ctl[(1 : Fin 3)].slots[(31 : Fin 32)].st = .free) ∧
    (∃ (s : State), (s.sys.dev = .standby ∨ s.sys.dev = .safe) ∧ rowRuns s = true ∧ (∀ t0, s.can.allOffAt = some t0 → t0 + 8000000 ≤ s.pm)) ∧
    (∃ (s : State), rowEn s = true ∧ (s.can.rowEvents.any fun r => r.slot.isNone && decide (r.due + reportWait s ≤ s.pm)) = true) ∧
    (∃ (n : Fin 32) (u : State) (s : State), rowRuns s = true ∧ u = takeReport n s ∧ u.can.node[n].seen = true ∧ u.can.node[n].lost = false ∧ u.can.node[n].lastReport + rowTimeout s ≤ s.pm) ∧
    (∃ (l : List EccIn) (s : State), s.sys.mapReady = true ∧ s.map.lastScrub + msTicks (1000 * s.act.fld .map 160 16) ≤ s.pm) ∧
    (∃ (s : State), True) ∧
    (∃ (m : Mask) (u : State) (s : State), s.map.building = some m ∧ s.restarting .pair = false ∧ u = (meetErrors (fun x => x.region == .polygon) s).1 ∧ u.map.polyDamaged = false ∧ m.tiles.length ≤ 256 - u.map.maskPool.retired.length ∧ m.entries ≤ 16384) ∧
    (∃ (l : Load) (s : State), s.map.load = some l ∧ l.ending = false ∧ l.lastPm + 800000000 ≤ s.pm) ∧
    (∃ (x : Exp) (s : State), s.map.exp = some x ∧ x.lastPm + 4800000000 ≤ s.pm) ∧
    (∃ (s : State), s.map.log ≠ [] ∧ s.restarting .enclave = false ∧ s.map.logFirst + msTicks (1000 * s.act.fld .map 176 16) ≤ s.pm) ∧
    (∃ (due : Nat) (s : State), (s.sys.dev = .armed ∨ s.sys.dev = .manual) ∧ due = s.pm / msTicks (10 * s.act.fld .map 192 16) * msTicks (10 * s.act.fld .map 192 16) ∧ s.map.trackAt < due) ∧
    (∃ (s : State), s.running = true ∧ s.vdr.latSaved + 48000000000 ≤ s.pm) :=
  ⟨test_meets_InputEventsExecute.1,
   test_meets_InputEventsExecute.2.2.2.1,
   test_meets_InputEventsExecute.2.2.2.2.2.2.1,
   test_meets_InputEventsExecute.2.2.2.2.2.2.2.2.2.1,
   test_meets_InputEventsExecute.2.2.2.2.2.2.2.2.2.2.1,
   test_meets_InputEventsExecute.2.2.2.2.2.2.2.2.2.2.2.2.1,
   test_meets_InputEventsExecute.2.2.2.2.2.2.2.2.2.2.2.2.2.2.2.1,
   test_meets_InputEventsExecute.2.2.2.2.2.2.2.2.2.2.2.2.2.2.2.2.1,
   test_meets_LoadSwitchEventsExecute.1,
   test_meets_LoadSwitchEventsExecute.2.2.1,
   test_meets_LoadSwitchEventsExecute.2.2.2.2.1,
   test_meets_LoadSwitchEventsExecute.2.2.2.2.2.2.1,
   test_meets_LoadSwitchEventsExecute.2.2.2.2.2.2.2.1,
   test_meets_LoadSwitchEventsExecute.2.2.2.2.2.2.2.2.1,
   test_meets_LoadSwitchEventsExecute.2.2.2.2.2.2.2.2.2.2.2.2.1,
   test_meets_LoadSwitchEventsExecute.2.2.2.2.2.2.2.2.2.2.2.2.2.2.2.1,
   test_meets_LoadSwitchEventsExecute.2.2.2.2.2.2.2.2.2.2.2.2.2.2.2.2.1,
   test_meets_LoadSwitchEventsExecute.2.2.2.2.2.2.2.2.2.2.2.2.2.2.2.2.2.2.1,
   test_meets_LoadSwitchEventsExecute.2.2.2.2.2.2.2.2.2.2.2.2.2.2.2.2.2.2.2.2.2.1,
   test_meets_LoadSwitchEventsExecute.2.2.2.2.2.2.2.2.2.2.2.2.2.2.2.2.2.2.2.2.2.2.2.1,
   test_meets_LoadSwitchEventsExecute.2.2.2.2.2.2.2.2.2.2.2.2.2.2.2.2.2.2.2.2.2.2.2.2.2.2.1,
   test_meets_LoadSwitchEventsExecute.2.2.2.2.2.2.2.2.2.2.2.2.2.2.2.2.2.2.2.2.2.2.2.2.2.2.2.1,
   test_meets_ThermalEventsExecute.1,
   test_meets_ThermalEventsExecute.2.1,
   test_meets_ThermalEventsExecute.2.2.2.1,
   test_meets_ThermalEventsExecute.2.2.2.2.2.1,
   test_meets_ThermalEventsExecute.2.2.2.2.2.2.2.2.1,
   test_meets_CanEventsExecute.1,
   test_meets_CanEventsExecute.2.2.2.2.2.2.1,
   test_meets_CanEventsExecute.2.2.2.2.2.2.2.2.1,
   test_meets_CanEventsExecute.2.2.2.2.2.2.2.2.2.2.2.2.2.1,
   test_meets_CanEventsExecute.2.2.2.2.2.2.2.2.2.2.2.2.2.2.1,
   test_meets_CanEventsExecute.2.2.2.2.2.2.2.2.2.2.2.2.2.2.2.2.1,
   test_meets_CanEventsExecute.2.2.2.2.2.2.2.2.2.2.2.2.2.2.2.2.2.2,
   test_meets_NetworkEventsExecute.1,
   test_meets_NetworkEventsExecute.2.1,
   test_meets_NetworkEventsExecute.2.2.2.1,
   test_meets_NetworkEventsExecute.2.2.2.2.2.1,
   test_meets_NetworkEventsExecute.2.2.2.2.2.2.1,
   test_meets_NetworkEventsExecute.2.2.2.2.2.2.2,
   test_meets_StoreEventsExecute.1,
   test_meets_StoreEventsExecute.2.2.2.1,
   test_meets_StoreEventsExecute.2.2.2.2.1,
   test_meets_StoreEventsExecute.2.2.2.2.2.2.2.1,
   test_meets_StoreEventsExecute.2.2.2.2.2.2.2.2.2.1,
   test_meets_StoreEventsExecute.2.2.2.2.2.2.2.2.2.2.2.1,
   test_meets_StoreEventsExecute.2.2.2.2.2.2.2.2.2.2.2.2.1,
   test_meets_StoreEventsExecute.2.2.2.2.2.2.2.2.2.2.2.2.2.2⟩

/-! ### The general statements -/

theorem test_meets_UnheardAndBadHeadersExecute :
    (∃ (i : Instr) (e : Env) (op : BitVec 16) (s : State), i.env? = some e ∧ i.opcode? = some op ∧ portListens s e.port = false) ∧
    (∃ (i : Instr) (e : Env) (op : BitVec 16) (s : State), i.env? = some e ∧ i.opcode? = some op ∧ portListens s e.port = true ∧ headerBad op e = true) :=
  ⟨⟨(.sysNop (mkReq 0x0000 [])), (mkReq 0x0000 []), 0x0000, (State.reset),
    rfl,
    rfl,
    by decide +kernel⟩,
   ⟨(.sysNop ({ mkReq 0x0000 [] with hdrCrc := 0 })), ({ mkReq 0x0000 [] with hdrCrc := 0 }), 0x0000, (w0),
    rfl,
    rfl,
    by decide +kernel⟩⟩

theorem test_meets_HeadersRefusedByTheTable :
    (∃ (i : Instr) (e : Env) (op : BitVec 16) (s : State), i.env? = some e ∧ i.opcode? = some op ∧ portListens s e.port = true ∧ headerBad op e = false ∧ (e.noticeBit || e.moreBit || e.rsvdA != 0 || e.rsvdB != 0) = true ∧ noCredit e.port (validHeader e s) = false) ∧
    (∃ (i : Instr) (e : Env) (op : BitVec 16) (s : State), i.env? = some e ∧ i.opcode? = some op ∧ portListens s e.port = true ∧ headerBad op e = false ∧ (e.noticeBit || e.moreBit || e.rsvdA != 0 || e.rsvdB != 0) = true ∧ noCredit e.port (validHeader e s) = true) ∧
    (∃ (i : Instr) (e : Env) (op : BitVec 16) (s : State), i.env? = some e ∧ i.opcode? = some op ∧ portListens s e.port = true ∧ headerBad op e = false ∧ e.noticeBit = false ∧ e.moreBit = false ∧ e.rsvdA = 0 ∧ e.rsvdB = 0 ∧ e.version ≠ 1 ∧ noCredit e.port (validHeader e s) = false) ∧
    (∃ (i : Instr) (e : Env) (op : BitVec 16) (s : State), i.env? = some e ∧ i.opcode? = some op ∧ portListens s e.port = true ∧ headerBad op e = false ∧ e.noticeBit = false ∧ e.moreBit = false ∧ e.rsvdA = 0 ∧ e.rsvdB = 0 ∧ e.version ≠ 1 ∧ noCredit e.port (validHeader e s) = true) ∧
    (∃ (i : Instr) (e : Env) (op : BitVec 16) (s : State), i.env? = some e ∧ i.opcode? = some op ∧ portListens s e.port = true ∧ headerBad op e = false ∧ e.noticeBit = false ∧ e.moreBit = false ∧ e.rsvdA = 0 ∧ e.rsvdB = 0 ∧ e.version = 1 ∧ stillHeld e (validHeader e s) = true) ∧
    (∃ (i : Instr) (e : Env) (op : BitVec 16) (s : State), i.env? = some e ∧ i.opcode? = some op ∧ portListens s e.port = true ∧ headerBad op e = false ∧ e.noticeBit = false ∧ e.moreBit = false ∧ e.rsvdA = 0 ∧ e.rsvdB = 0 ∧ e.version = 1 ∧ stillHeld e (validHeader e s) = false ∧ reusesCredit op e (validHeader e s) = false ∧ noCredit e.port (validHeader e s) = true) :=
  ⟨⟨(.sysNop (fixHdr 0x0000 { mkReq 0x0000 [] with noticeBit := true })), (fixHdr 0x0000 { mkReq 0x0000 [] with noticeBit := true }), 0x0000, (w0),
    rfl,
    rfl,
    by decide +kernel⟩,
   ⟨(.sysNop (fixHdr 0x0000 { mkReq 0x0000 [] with noticeBit := true })), (fixHdr 0x0000 { mkReq 0x0000 [] with noticeBit := true }), 0x0000, (modPort .spi (fun q => { q with credits := 0 }) w0),
    rfl,
    rfl,
    by decide +kernel⟩,
   ⟨(.sysNop (fixHdr 0x0000 { mkReq 0x0000 [] with version := 2 })), (fixHdr 0x0000 { mkReq 0x0000 [] with version := 2 }), 0x0000, (w0),
    rfl,
    rfl,
    by decide +kernel⟩,
   ⟨(.sysNop (fixHdr 0x0000 { mkReq 0x0000 [] with version := 2 })), (fixHdr 0x0000 { mkReq 0x0000 [] with version := 2 }), 0x0000, (modPort .spi (fun q => { q with credits := 0 }) w0),
    rfl,
    rfl,
    by decide +kernel⟩,
   ⟨(.sysNop (mkReq 0x0000 [])), (mkReq 0x0000 []), 0x0000, (modPort .spi (fun q => { q with held := [{ env := mkReq 0x0000 [] }] }) w0),
    rfl,
    rfl,
    by decide +kernel⟩,
   ⟨(.sysNop (mkReq 0x0000 [])), (mkReq 0x0000 []), 0x0000, (modPort .spi (fun q => { q with credits := 0 }) w0),
    rfl,
    rfl,
    by decide +kernel⟩⟩

theorem test_meets_BodiesRefusedHeldOrRepeated :
    (∃ (i : Instr) (e : Env) (op : BitVec 16) (s w : State) (c : Nat), i.env? = some e ∧ i.opcode? = some op ∧ portListens s e.port = true ∧ headerBad op e = false ∧ e.noticeBit = false ∧ e.moreBit = false ∧ e.rsvdA = 0 ∧ e.rsvdB = 0 ∧ e.version = 1 ∧ stillHeld e (validHeader e s) = false ∧ (reusesCredit op e (validHeader e s) = true ∧ c = 0 ∧ w = (validHeader e s) ∨ reusesCredit op e (validHeader e s) = false ∧ noCredit e.port (validHeader e s) = false ∧ c = 1 ∧ w = takeCredit e.port (validHeader e s)) ∧ payloadCrc e.payload ≠ e.payCrc.toNat) ∧
    (∃ (i : Instr) (e : Env) (op : BitVec 16) (s w : State) (c : Nat), i.env? = some e ∧ i.opcode? = some op ∧ portListens s e.port = true ∧ headerBad op e = false ∧ e.noticeBit = false ∧ e.moreBit = false ∧ e.rsvdA = 0 ∧ e.rsvdB = 0 ∧ e.version = 1 ∧ stillHeld e (validHeader e s) = false ∧ (reusesCredit op e (validHeader e s) = true ∧ c = 0 ∧ w = (validHeader e s) ∨ reusesCredit op e (validHeader e s) = false ∧ noCredit e.port (validHeader e s) = false ∧ c = 1 ∧ w = takeCredit e.port (validHeader e s)) ∧ payloadCrc e.payload = e.payCrc.toNat ∧ tagCounter op e w = none) ∧
    (∃ (i : Instr) (e : Env) (op : BitVec 16) (s w : State) (n : Nat) (r : Replay) (c : Nat), i.env? = some e ∧ i.opcode? = some op ∧ portListens s e.port = true ∧ headerBad op e = false ∧ e.noticeBit = false ∧ e.moreBit = false ∧ e.rsvdA = 0 ∧ e.rsvdB = 0 ∧ e.version = 1 ∧ stillHeld e (validHeader e s) = false ∧ (reusesCredit op e (validHeader e s) = true ∧ c = 0 ∧ w = (validHeader e s) ∨ reusesCredit op e (validHeader e s) = false ∧ noCredit e.port (validHeader e s) = false ∧ c = 1 ∧ w = takeCredit e.port (validHeader e s)) ∧ payloadCrc e.payload = e.payCrc.toNat ∧ tagCounter op e w = some n ∧ replayOf e (passTag e n w) = some r) ∧
    (∃ (i : Instr) (e : Env) (op : BitVec 16) (s w : State) (n : Nat) (c : Nat), i.env? = some e ∧ i.opcode? = some op ∧ portListens s e.port = true ∧ headerBad op e = false ∧ e.noticeBit = false ∧ e.moreBit = false ∧ e.rsvdA = 0 ∧ e.rsvdB = 0 ∧ e.version = 1 ∧ stillHeld e (validHeader e s) = false ∧ (reusesCredit op e (validHeader e s) = true ∧ c = 0 ∧ w = (validHeader e s) ∨ reusesCredit op e (validHeader e s) = false ∧ noCredit e.port (validHeader e s) = false ∧ c = 1 ∧ w = takeCredit e.port (validHeader e s)) ∧ payloadCrc e.payload = e.payCrc.toNat ∧ tagCounter op e w = some n ∧ replayOf e (passTag e n w) = none ∧ mustWait op s = true) :=
  ⟨⟨(.sysNop (fixHdr 0x0000 { mkReq 0x0000 [] with payCrc := 1 })), (fixHdr 0x0000 { mkReq 0x0000 [] with payCrc := 1 }), 0x0000, (w0), (takeCredit (fixHdr 0x0000 { mkReq 0x0000 [] with payCrc := 1 }).port (validHeader (fixHdr 0x0000 { mkReq 0x0000 [] with payCrc := 1 }) (w0))), 1,
    rfl,
    rfl,
    by decide +kernel,
    by decide +kernel,
    by decide +kernel,
    by decide +kernel,
    by decide +kernel,
    by decide +kernel,
    by decide +kernel,
    by decide +kernel,
    Or.inr ⟨by decide +kernel, by decide +kernel, rfl, rfl⟩,
    by decide +kernel⟩,
   ⟨(.sysNop (fixHdr 0x0000 { mkReq 0x0000 [] with sealedBit := true })), (fixHdr 0x0000 { mkReq 0x0000 [] with sealedBit := true }), 0x0000, (w0), (takeCredit (fixHdr 0x0000 { mkReq 0x0000 [] with sealedBit := true }).port (validHeader (fixHdr 0x0000 { mkReq 0x0000 [] with sealedBit := true }) (w0))), 1,
    rfl,
    rfl,
    by decide +kernel,
    by decide +kernel,
    by decide +kernel,
    by decide +kernel,
    by decide +kernel,
    by decide +kernel,
    by decide +kernel,
    by decide +kernel,
    Or.inr ⟨by decide +kernel, by decide +kernel, rfl, rfl⟩,
    by decide +kernel⟩,
   ⟨(.sysNop (mkReq 0x0000 [])), (mkReq 0x0000 []), 0x0000, (modPort .spi (fun q => { q with replay := [{ hdrCrc := (mkReq 0x0000 []).hdrCrc }] }) w0), (takeCredit (mkReq 0x0000 []).port (validHeader (mkReq 0x0000 []) (modPort .spi (fun q => { q with replay := [{ hdrCrc := (mkReq 0x0000 []).hdrCrc }] }) w0))), 0, { hdrCrc := (mkReq 0x0000 []).hdrCrc }, 1,
    rfl,
    rfl,
    by decide +kernel,
    by decide +kernel,
    by decide +kernel,
    by decide +kernel,
    by decide +kernel,
    by decide +kernel,
    by decide +kernel,
    by decide +kernel,
    Or.inr ⟨by decide +kernel, by decide +kernel, rfl, rfl⟩,
    by decide +kernel⟩,
   ⟨(.sysNop (mkReq 0x0000 [])), (mkReq 0x0000 []), 0x0000, (modElem .pair (fun x => { x with restarting := true }) w0), (takeCredit (mkReq 0x0000 []).port (validHeader (mkReq 0x0000 []) (modElem .pair (fun x => { x with restarting := true }) w0))), 0, 1,
    rfl,
    rfl,
    by decide +kernel,
    by decide +kernel,
    by decide +kernel,
    by decide +kernel,
    by decide +kernel,
    by decide +kernel,
    by decide +kernel,
    by decide +kernel,
    Or.inr ⟨by decide +kernel, by decide +kernel, rfl, rfl⟩,
    by decide +kernel⟩⟩

theorem test_meets_AcceptedRequestsJudgedInOrder :
    (∃ (i : Instr) (e : Env) (op : BitVec 16) (n : Nat) (s : State), i.env? = some e ∧ i.opcode? = some op ∧ Accepted op e n s ∧ opInfo op = none) ∧
    (∃ (i : Instr) (e : Env) (op : BitVec 16) (n : Nat) (s : State) (k : OpInfo), i.env? = some e ∧ i.opcode? = some op ∧ Accepted op e n s ∧ opInfo op = some k ∧ k.len e = false) ∧
    (∃ (i : Instr) (e : Env) (op : BitVec 16) (n : Nat) (s : State) (k : OpInfo), i.env? = some e ∧ i.opcode? = some op ∧ Accepted op e n s ∧ opInfo op = some k ∧ k.len e = true ∧ s.sys.dev = .start ∧ servedInStart op = false) ∧
    (∃ (i : Instr) (e : Env) (op : BitVec 16) (n : Nat) (s : State) (k : OpInfo), i.env? = some e ∧ i.opcode? = some op ∧ Accepted op e n s ∧ opInfo op = some k ∧ k.len e = true ∧ s.sys.dev = .quarantine ∧ servedInQuarantine op = false) ∧
    (∃ (i : Instr) (e : Env) (op : BitVec 16) (n : Nat) (s : State) (k : OpInfo), i.env? = some e ∧ i.opcode? = some op ∧ Accepted op e n s ∧ opInfo op = some k ∧ k.len e = true ∧ (s.sys.dev = .start → servedInStart op = true) ∧ (s.sys.dev = .quarantine → servedInQuarantine op = true) ∧ k.sealedOnly = true ∧ sessionOf e (admitted e n s) = none) ∧
    (∃ (i : Instr) (e : Env) (op : BitVec 16) (n : Nat) (s : State) (k : OpInfo), i.env? = some e ∧ i.opcode? = some op ∧ Accepted op e n s ∧ opInfo op = some k ∧ k.len e = true ∧ (s.sys.dev = .start → servedInStart op = true) ∧ (s.sys.dev = .quarantine → servedInQuarantine op = true) ∧ (k.sealedOnly = true → sessionOf e (admitted e n s) ≠ none) ∧ s.sys.dev ∉ k.states) :=
  ⟨⟨(.badOpcode 0x0F00 (mkReq 0x0F00 [])), (mkReq 0x0F00 []), 0x0F00, 0, (w0),
    rfl,
    rfl,
    accepted_of (by decide +kernel) (by decide +kernel) (by decide +kernel),
    by decide +kernel⟩,
   ⟨(.sysNop (mkReq 0x0000 [1])), (mkReq 0x0000 [1]), 0x0000, 0, (w0), _,
    rfl,
    rfl,
    accepted_of (by decide +kernel) (by decide +kernel) (by decide +kernel),
    rfl,
    by decide +kernel⟩,
   ⟨(.sysIdentity (mkReq 0x0002 [])), (mkReq 0x0002 []), 0x0002, 0, (inDev .start w0), _,
    rfl,
    rfl,
    accepted_of (by decide +kernel) (by decide +kernel) (by decide +kernel),
    rfl,
    by decide +kernel⟩,
   ⟨(.timeGet (mkReq 0x0700 [])), (mkReq 0x0700 []), 0x0700, 0, (inDev .quarantine w0), _,
    rfl,
    rfl,
    accepted_of (by decide +kernel) (by decide +kernel) (by decide +kernel),
    rfl,
    by decide +kernel⟩,
   ⟨(.secSessionClose (mkReq 0x0A01 [])), (mkReq 0x0A01 []), 0x0A01, 0, (w0), _,
    rfl,
    rfl,
    accepted_of (by decide +kernel) (by decide +kernel) (by decide +kernel),
    rfl,
    by decide +kernel⟩,
   ⟨(.sysDisarm (mkReq 0x0006 [])), (mkReq 0x0006 []), 0x0006, 0, (w0), _,
    rfl,
    rfl,
    accepted_of (by decide +kernel) (by decide +kernel) (by decide +kernel),
    rfl,
    by decide +kernel⟩⟩

theorem test_meets_SysArmNeedsTheMap :
    (∃ (e : Env) (n : Nat) (s : State), Accepted 0x0004 e n s ∧ e.payload.length = 0 ∧ (s.sys.dev = .standby ∨ s.sys.dev = .manual) ∧ s.sys.mapReady = false) :=
  ⟨(mkReq 0x0004 []), 0, (w0.onSys fun y => { y with mapReady := false }),
    accepted_of (by decide +kernel) (by decide +kernel) (by decide +kernel),
    by decide +kernel⟩

theorem test_meets_OneImplementCommitWaits :
    (∃ (e : Env) (n : Nat) (s : State) (w : EdgeItem) (c : ImplSet), Accepted 0x0202 e n s ∧ e.payload.length = 0 ∧ s.sys.dev ∈ inBAM ∧ w ∈ s.sys.edgeQ ∧ w.act = .implCommit c) :=
  ⟨(mkReq 0x0202 []), 0, (w0.onSys fun y => { y with edgeQ := [{ act := .implCommit State.reset.impl.shadow }] }), { act := .implCommit State.reset.impl.shadow }, State.reset.impl.shadow,
    accepted_of (by decide +kernel) (by decide +kernel) (by decide +kernel),
    by decide +kernel,
    by decide +kernel,
    by simp [State.onSys],
    rfl⟩

theorem test_meets_AdmissionAndRecordOfARequest :
    (∃ (op : BitVec 16) (e : Env) (n : Nat) (s : State), Accepted op e n s) :=
  ⟨0x0000, (mkReq 0x0000 []), 0, w0,
    accepted_of (by decide +kernel) (by decide +kernel) (by decide +kernel)⟩

theorem test_meets_ArbitrationTakesTheWinningSlot : ∃ (x : Fin 3) (s : State) (k : Fin 32), onBus s x = true ∧ listen s x = false ∧
    hasActive s x = none ∧ winner s x = some k ∧ s.can.ctl[x].slots[k].st = .pending ∧ s.can.ctl[x].slots[k].subAt ≠ s.pm :=
  ⟨0, modSlot 0 0 (fun l => { l with st := .pending }) (modSlot 0 3 (fun l => { l with st := .pending }) w0), 0,
   by decide +kernel, by decide +kernel, by decide +kernel, by decide +kernel, by decide +kernel, by decide +kernel⟩

theorem test_meets_OffRequestCancelsAReservedStart : ∃ (c d : Fin 96) (b : Fin 12) (s : State), s.vdr.ch[c].st = .pending ∧
    s.pm < s.vdr.ch[c].startAt ∧ d ≠ c ∧ b ≠ bankOf c :=
  ⟨0, 1, 1, modCh 0 (fun x => { x with st := .pending, startAt := w0.pm + 1 }) w0, by decide +kernel, by decide +kernel, by decide,
   by decide +kernel⟩

theorem test_meets_RepliesBeginWithTheirPrefix : ∃ (a : Answer) (op : BitVec 16) (e : Env) (o : OutEnv), a.data.length ≤ 4084 ∧ o ∈ replyChain op e a 1 1 :=
  ⟨{}, 0, {}, ((replyChain 0 {} {} 1 1).headD default), by decide, by simp [replyChain]⟩

theorem test_meets_FaultsAreLogged :
    (∃ (c i : Nat) (s : State), (s.pd0.faultLog.any fun f => f.activeFor c i) = true) ∧
    (∃ (c i r : Nat) (s : State), r ≠ reactReport ∨ (s.pd0.faultLog.any fun f => f.activeFor c i) = false) :=
  ⟨⟨0x10, 1, w0.onPd0 fun p => { p with faultLog := [{ cause := 0x10, index := 1 }] }, by decide +kernel⟩,
   ⟨0x10, 1, reactReport, w0, Or.inr (by decide +kernel)⟩⟩

theorem an_error : exec (.receiveError 0 1) w0 =
    .next (setCounters 0 w0.can.ctl[(0 : Fin 3)].tec (w0.can.ctl[(0 : Fin 3)].rec_ + 1) w0) := by
  show execReceiveError 0 1 w0 = _
  rw [execReceiveError, if_pos (by decide +kernel)]

theorem test_meets_EveryCommandKeepsToItsParts : ∃ (c : Instr) (s t : State), exec c s = .next t :=
  ⟨_, _, _, an_error⟩

theorem test_meets_AnEmptyQueueTicks : ∃ s : State, s.pending = [] ∧ s.running = true := ⟨w0, rfl, rfl⟩

theorem test_meets_OtherCommandsLeaveTheDeviceState : ∃ (c : Instr) (s t : State), changesState c = false ∧ exec c s = .next t :=
  ⟨_, _, _, rfl, an_error⟩

theorem reset_inv : Inv State.reset :=
  ⟨by decide +kernel, by decide +kernel, by unfold HostInv PortInv; decide +kernel, by unfold MapInv; decide +kernel⟩

theorem test_meets_StoresKeepTheirSizes : ∃ s t : State, Inv s ∧ step s = .next t :=
  ⟨State.reset, _, reset_inv, rfl⟩

theorem test_meets_DriveStatesNeverEnteredFromASafeState : ∃ s t : State, s.sys.dev = .armed ∧ DriveEntered s ∧ step s = .next t :=
  ⟨inDev .armed w0, _, by decide +kernel, by unfold DriveEntered; decide +kernel, rfl⟩

/-! ### Ill-formed terms -/

theorem test_payload_too_long (l : List Byte) (h : l.length = 65536) : ({ payload := l } : Env).wellFormed = false := by
  unfold Env.wellFormed
  rw [h]
  rfl

theorem test_tag_without_seal : ({ tag := 1 } : Env).wellFormed = false := by decide

theorem test_frame_data_short : ({ dlc := 8 } : CanFrame).wellFormed = false := by decide

theorem test_frame_base_identifier : ({ id := 2048 } : CanFrame).wellFormed = false := by decide

theorem test_frame_rate_switch : ({ brs := true } : CanFrame).wellFormed = false := by decide

theorem test_epoch_channels : ({ sats := [{}, {}] } : EpochIn).wellFormed = false := by decide

theorem test_epoch_many : ({ sats := List.replicate 25 {} } : EpochIn).wellFormed = false := by decide

theorem test_epoch_time_of_week : ({ towPs := 604800000000000000 } : EpochIn).wellFormed = false := by decide

theorem test_freeze_voltage : ({ vbst := 65536 } : Freeze).wellFormed = false := by decide

theorem test_freeze_supply : ({ vbat := 65536 } : Freeze).wellFormed = false := by decide

theorem test_sent_backwards : (TxResult.sent 5 5 none).wellFormed = false := by decide

theorem test_error_step : (TxResult.error 0 false 9 none).wellFormed = false := by decide

theorem test_clock_code : (Instr.clockBase 10).wellFormed = false := by decide

theorem test_selftest_code : (Instr.selftestComplete [256]).wellFormed = false := by decide

theorem test_retired_pages : (Instr.dramTestDone #v[6145, 0, 0]).wellFormed = false := by decide

theorem test_receive_error_step : (Instr.receiveError 0 0).wellFormed = false := by decide

theorem test_bit_sync_length : (Instr.bitSync 0 []).wellFormed = false := by decide

theorem test_temperature_code : (Instr.tcxoTempUpdate 32768).wellFormed = false := by decide

theorem test_defined_opcode : (Instr.badOpcode 0x0000 {}).wellFormed = false := by decide

theorem test_request_well_formed : (Instr.sysNop (mkReq 0x0000 [])).wellFormed = true := by decide +kernel

/-! ### Results the spec gives -/

/-- The example of 10_pwm_unit.md: D12 = 2,730, D4 = 11 and the two on-times. -/
theorem test_on_times : onTime 5333333 0 43691 = (3554687, 11) ∧ onTime 5333333 11 43691 = (3555989, 6) := by decide

/-- BANK8 with CTX71 at phase 224, as the example of 10_pwm_unit.md has it. -/
def pwmExample : State :=
  modGrid 8 (fun g => { g with b := 47999997000, period := 5333333, phases := g.phases.set 7 224, waitPeriod := [(48000000000, 4000000)] }) w0

/-- CTX71 opens on the old grid, then on the new one (10_pwm_unit.md). -/
theorem test_period_change : openingOf pwmExample 71 = 48004663666 ∧ nextOpening pwmExample 71 48004663666 = 48008830333 := by
  decide +kernel

/-- Learning moves a latency by one sixteenth of the gap (the firing of 08_valve_drive.md). -/
theorem test_learning : learnValue (16 * 256000) 258400 = 16 * 256150 ∧ learnValue (16 * 144000) 145600 = 16 * 144100 := by decide

/-- R20 learned at 12.0 °C and the temperature that gives it back (09_valve_protection.md). -/
theorem test_coil_r20 : r20From 8233 120 = 8500 ∧ coilTempOf 8233 8500 = 120 := by decide

/-- No row of the table gives bits, so no word spells a command. -/
theorem test_no_word_spells (n w : Nat) : decodeTableWord n w = none := rfl

end Sys2Proof.Tests
end

section
/-! PROOFS. The device's state over a step: which rows leave it alone, and which states a step can come to. -/

namespace Sys2Proof.Machine

variable {s : State} {d p : DevState} {k : Nat}

/-- A row that does not touch the system registers leaves the device's state alone. -/
theorem OnlyR.entered {l : List Part} {r : Result} (o : OnlyR l s r) (h : Entered d p k s) (hl : Part.sys ∉ l := by decide) :
    EnteredR d p k r := fun t e => h.ofOnly (o t e) hl

/-- A power domain that is switched touches no state of the device (R439). -/
theorem execPowerDomainSwitch_entered (n : Fin 12) (on : Bool) (h : Entered d p k s) :
    EnteredR d p k (execPowerDomainSwitch n on s) := by
  unfold execPowerDomainSwitch
  extract_lets s1
  have h1 : Entered d p k s1 := h.ofOnly (State.onPwr_only ..)
  exact EnteredR.ite (EnteredR.next (Entered.ite h1 ((flushCrossing_entered _ h1).ofOnly (resetDomain_only ..)))) (EnteredR.next h)

/-- The rows that bring the sample of a stage's own sensor: each is compared with every threshold of its zone (R310, R311). -/
def sampleOfStage : Instr → Bool
  | .stageHot _ _ | .lswOvertemp _ _ | .thermLatchRelease _ _ | .stageHotRelease _ _ => true
  | _ => false

/-- Outside the rows that may change the device's state, and the samples of a stage's sensor, every row leaves it alone. -/
theorem exec_entered (c : Instr) (hc : changesState c = false) (hs : sampleOfStage c = false) (h : Entered d p k s) :
    EnteredR d p k (exec c s) := by
  cases c with
  | sysNop _ | sysStatus _ | sysIdentity _ | sysLinkReset _ | sysArm _ | sysManual _ | sysDisarm _ | sysClearFault _
  | sysReset _ | sysSubscribe _ | sysWakeSet _ | pbRead _ | pbWrite _ | pbCommit _ | pbRevert _ | implWrite _
  | implRead _ | implCommit _ | implRevert _ | mapStatus _ | mapLoadBegin _ | mapLoadData _ | mapLoadEnd _
  | mapLoadAbort _ | mapExportBegin _ | mapExportRead _ | mapExportAck _ | mapClear _ | mapLogRead _ | mapLogAck _
  | feDirected _ | feDirectedClear _ | actEvent _ | actDuty _ | actFineCmp _ | actClearFault _ | ceSetpoint _
  | ceOutput _ | ceTableWrite _ | ceTableRead _ | ceLoopReset _ | timeGet _ | timeStepConfirm _ | gnssRtcm _
  | gnssMeasGet _ | posGet _ | lswSet _ | lswClearFault _ | pifEncSet _ | pifEventsRead _ | canPhConfig _
  | canRxRead _ | canTx _ | canTxAbort _ | canRecover _ | secSessionOpen _ | secSessionClose _
  | secServiceChallenge _ | secServiceResponse _ | secAttest _ | secImageBegin _ | secImageData _ | secImageEnd _
  | secActivate _ | secImageStatus _ | diagRead _ | badOpcode _ _ =>
    exact EnteredR.next (receive_entered _ _ h)
  | linkLost _ | resetAfterReply | frameEdge _ | loggingPhase | vkeyHigh | keyOffDelayExpiry | wakeAlarm
  | vbatStartBand | brownOut | powerCycle | reverseBattery | imageSetSelect _ _ | domainPowerUp | selftestComplete _
  | pairCheck | ceCheck | gnssCheck | enclaveCheck | clockElement _ | clockBase _ | coastExpired | safeIn
  | rowBusoffGraceExpiry | offStateTest _ _ _ | feedOc _ | bankReconnectTestEnd _ _ | deadlineMiss _ | warn _ _ _
  | throttle _ _ _ | sensorBroken _ _ | rateTrip _ _ _ | shutdown _ _ _ => cases hc
  | stageHot _ _ | lswOvertemp _ _ | thermLatchRelease _ _ | stageHotRelease _ _ => cases hs
  | tcxoClear => exact OnlyR.entered (execTcxoClear_only s) h
  | relearn _ => exact OnlyR.entered (execRelearn_only _ s) h
  | badHeader _ => exact execBadHeader_entered _ h
  | noticeEnvelope _ => exact OnlyR.entered (execNoticeEnvelope_only _ s) h
  | pbHostApply => exact OnlyR.entered (execPbHostApply_only s) h
  | decisionPhase => exact execDecisionPhase_entered h
  | commitPhase _ => exact execCommitPhase_entered _ h
  | vkeyLow => exact execVkeyLow_entered h
  | lowSupply => exact execLowSupply_entered h
  | lowSupplyExit => exact execLowSupplyExit_entered h
  | lossOfGround => exact execLossOfGround_entered h
  | groundRestored => exact OnlyR.entered (execGroundRestored_only s) h
  | loadDump => exact execLoadDump_entered h
  | timeResetRelease => exact execTimeResetRelease_entered h
  | hostPortAlive => exact execHostPortAlive_entered h
  | powerDomainSwitch _ _ => exact execPowerDomainSwitch_entered _ _ h
  | dramTestDone _ => exact execDramTestDone_entered _ h
  | clockBaseRestored => exact execClockBaseRestored_entered h
  | pllRelock _ _ => exact execPllRelock_entered _ _ h
  | elementRestartComplete _ => exact execElementRestartComplete_entered _ h
  | boost => exact execBoost_entered h
  | boostRetry _ => exact execBoostRetry_entered _ h
  | measurementEpoch _ => exact execMeasurementEpoch_entered _ h
  | holdoverEntry => exact execHoldoverEntry_entered h
  | holdoverLimitExpiry => exact execHoldoverLimitExpiry_entered h
  | ppsPulse => exact execPpsPulse_entered h
  | ppsPulseEnd => exact OnlyR.entered (execPpsPulseEnd_only s) h
  | tcxoTempUpdate _ => exact OnlyR.entered (execTcxoTempUpdate_only _ s) h
  | acqDwellEnd _ => exact OnlyR.entered (execAcqDwellEnd_only _ s) h
  | warmSearchTimer => exact OnlyR.entered (execWarmSearchTimer_only s) h
  | pullInTimeout _ => exact OnlyR.entered (execPullInTimeout_only _ s) h
  | bitSync _ _ => exact OnlyR.entered (execBitSync_only _ _ s) h
  | frameSync _ _ => exact OnlyR.entered (execFrameSync_only _ _ s) h
  | lnavWord _ _ => exact OnlyR.entered (execLnavWord_only _ _ s) h
  | ephemerisAccept _ => exact execEphemerisAccept_entered _ h
  | channelLoss _ => exact OnlyR.entered (execChannelLoss_only _ s) h
  | antOpen _ => exact execAntOpen_entered _ h
  | antShort _ => exact execAntShort_entered _ h
  | antBiasRetry _ => exact execAntBiasRetry_entered _ h
  | rtcmFrame => exact execRtcmFrame_entered h
  | rtcmTimeout => exact OnlyR.entered (execRtcmTimeout_only s) h
  | ambiguityCandidate _ _ _ => exact OnlyR.entered (execAmbiguityCandidate_only _ _ _ s) h
  | odoStale _ => exact OnlyR.entered (execOdoStale_only _ s) h
  | eventExecute _ => exact execEventExecute_entered _ h
  | reservedStart _ => exact execReservedStart_entered _ h
  | feedToVbst _ => exact OnlyR.entered (execFeedToVbst_only _ s) h
  | windowEnd _ => exact OnlyR.entered (execWindowEnd_only _ s) h
  | guardEnd _ => exact OnlyR.entered (execGuardEnd_only _ s) h
  | pullInEnd _ _ => exact execPullInEnd_entered _ _ h
  | fastDecayEnd _ _ => exact OnlyR.entered (execFastDecayEnd_only _ _ s) h
  | decayEnd _ _ => exact execDecayEnd_entered _ _ h
  | openingSignature _ _ => exact execOpeningSignature_entered _ _ h
  | closingSignature _ _ _ => exact execClosingSignature_entered _ _ _ h
  | openingSearchEnd _ => exact execOpeningSearchEnd_entered _ h
  | boostLimit _ => exact execBoostLimit_entered _ h
  | vbstSag _ => exact execVbstSag_entered _ h
  | returnSuspended _ => exact execReturnSuspended_entered _ h
  | recoveryDivert _ => exact execRecoveryDivert_entered _ h
  | openLoad _ _ => exact execOpenLoad_entered _ _ h
  | overcurrent _ => exact execOvercurrent_entered _ h
  | overload _ _ => exact execOverload_entered _ _ h
  | retryRelease _ => exact execRetryRelease_entered _ h
  | coilResistanceMeasure _ _ _ _ => exact execCoilResistanceMeasure_entered _ _ _ _ h
  | coilCooled _ => exact execCoilCooled_entered _ h
  | bankBoundary _ => exact execBankBoundary_entered _ h
  | gridOpening _ => exact execGridOpening_entered _ h
  | gridClosing _ => exact execGridClosing_entered _ h
  | finePeriodStart _ => exact execFinePeriodStart_entered _ h
  | gateTransition _ _ _ => exact execGateTransition_entered _ _ _ h
  | trigOutPulse j =>
    have e := execTrigOutPulse_entered j h
    exact e
  | trigOutPulseEnd _ => exact OnlyR.entered (execTrigOutPulseEnd_only _ s) h
  | loopEvaluation _ => exact execLoopEvaluation_entered _ h
  | flowImbalance _ => exact execFlowImbalance_entered _ h
  | encoderTransition _ _ => exact execEncoderTransition_entered _ _ h
  | index _ _ => exact execIndex_entered _ _ h
  | hallTransition _ _ => exact execHallTransition_entered _ _ h
  | hallIllegal _ => exact execHallIllegal_entered _ h
  | freqEdge _ => exact execFreqEdge_entered _ h
  | eventEdge _ _ => exact execEventEdge_entered _ _ h
  | analogConversion _ _ => exact execAnalogConversion_entered _ _ h
  | emuOutputStep _ => exact execEmuOutputStep_entered _ h
  | inrushStep _ => exact OnlyR.entered (execInrushStep_only _ s) h
  | lswOpenLoad _ _ => exact execLswOpenLoad_entered _ _ h
  | lswShortBat _ _ => exact execLswShortBat_entered _ _ h
  | lswShort _ => exact execLswShort_entered _ h
  | lswOverload _ => exact execLswOverload_entered _ h
  | aggregate _ => exact execAggregate_entered _ h
  | aggregateShedStep _ => exact execAggregateShedStep_entered _ h
  | lswRetryDue _ => exact execLswRetryDue_entered _ h
  | lswPulseOpening _ => exact OnlyR.entered (execLswPulseOpening_only _ s) h
  | lswPulseClosing _ => exact OnlyR.entered (execLswPulseClosing_only _ s) h
  | offAfterExpiry _ => exact execOffAfterExpiry_entered _ h
  | keyoffHoldEnd _ => exact execKeyoffHoldEnd_entered _ h
  | canFrameReceive _ _ => exact execCanFrameReceive_entered _ _ h
  | canTxStart _ => exact OnlyR.entered (execCanTxStart_only _ s) h
  | canTxEnd _ _ => exact execCanTxEnd_entered _ _ h
  | canDeadlineExpiry _ _ => exact execCanDeadlineExpiry_entered _ _ h
  | busoffRecoveryComplete _ => exact execBusoffRecoveryComplete_entered _ h
  | busRejoin _ => exact execBusRejoin_entered _ h
  | addressClaim => exact OnlyR.entered (execAddressClaim_only s) h
  | addressClaimTimer => exact execAddressClaimTimer_entered h
  | sync => exact OnlyR.entered (execSync_only s) h
  | allOffRepeat => exact OnlyR.entered (execAllOffRepeat_only s) h
  | reportWaitExpiry => exact execReportWaitExpiry_entered h
  | rowNodeLost _ => exact execRowNodeLost_entered _ h
  | scrub _ => exact execScrub_entered _ h
  | dirtyWriteback => exact OnlyR.entered (execDirtyWriteback_only s) h
  | maskBuilt => exact execMaskBuilt_entered h
  | loadTimeout => exact execLoadTimeout_entered h
  | exportTimeout => exact OnlyR.entered (execExportTimeout_only s) h
  | logSeal => exact execLogSeal_entered h
  | trackRecord => exact execTrackRecord_entered h
  | latencySave => exact OnlyR.entered (execLatencySave_only s) h
  | activationPrepared => exact OnlyR.entered (execActivationPrepared_only s) h
  | trialPassed _ => exact execTrialPassed_entered _ h
  | serviceSessionExpiry => exact execServiceSessionExpiry_entered h
  | tamper => exact OnlyR.entered (execTamper_only s) h
  | safeInRelease => exact execSafeInRelease_entered h
  | imageVerified => exact execImageVerified_entered h
  | pullInComplete _ => exact OnlyR.entered (execPullInComplete_only _ s) h
  | phaseLock _ _ => exact OnlyR.entered (execPhaseLock_only _ _ s) h
  | receiveError _ _ => exact execReceiveError_entered _ _ h
  | acqIdleGate => exact OnlyR.entered (execAcqIdleGate_only s) h

/-- Every row keeps the device from coming to ARMED or MANUAL straight from SAFE, QUARANTINE or LATCHED (R27). -/
theorem exec_drive (c : Instr) (h : DriveEntered s) : DriveEnteredR (exec c s) := by
  cases c with
  | linkLost _ => exact execLinkLost_drive _ h
  | resetAfterReply => exact execResetAfterReply_drive h
  | frameEdge _ => exact execFrameEdge_drive _ h
  | loggingPhase => exact execLoggingPhase_drive h
  | vkeyHigh => exact execVkeyHigh_drive h
  | keyOffDelayExpiry => exact execKeyOffDelayExpiry_drive h
  | wakeAlarm => exact execWakeAlarm_drive h
  | vbatStartBand => exact execVbatStartBand_drive h
  | brownOut => exact execBrownOut_drive h
  | powerCycle => exact execPowerCycle_drive h
  | reverseBattery => exact execReverseBattery_drive h
  | imageSetSelect _ _ => exact execImageSetSelect_drive _ _ h
  | domainPowerUp => exact execDomainPowerUp_drive h
  | selftestComplete _ => exact execSelftestComplete_drive _ h
  | pairCheck => exact execPairCheck_drive h
  | ceCheck => exact execCeCheck_drive h
  | gnssCheck => exact execGnssCheck_drive h
  | enclaveCheck => exact execEnclaveCheck_drive h
  | clockElement _ => exact execClockElement_drive _ h
  | clockBase _ => exact execClockBase_drive _ h
  | coastExpired => exact execCoastExpired_drive h
  | safeIn => exact execSafeIn_drive h
  | rowBusoffGraceExpiry => exact execRowBusoffGraceExpiry_drive h
  | offStateTest _ _ _ => exact execOffStateTest_drive _ _ _ h
  | stageHot _ _ => exact execStageHot_drive _ _ h
  | feedOc _ => exact execFeedOc_drive _ h
  | bankReconnectTestEnd _ _ => exact execBankReconnectTestEnd_drive _ _ h
  | deadlineMiss _ => exact execDeadlineMiss_drive _ h
  | lswOvertemp _ _ => exact execLswOvertemp_drive _ _ h
  | thermLatchRelease _ _ => exact execThermLatchRelease_drive _ _ h
  | warn _ _ _ => exact execWarn_drive _ _ _ h
  | throttle _ _ _ => exact execThrottle_drive _ _ _ h
  | sensorBroken _ _ => exact execSensorBroken_drive _ _ h
  | rateTrip _ _ _ => exact execRateTrip_drive _ _ _ h
  | shutdown _ _ _ => exact execShutdown_drive _ _ _ h
  | stageHotRelease _ _ => exact execStageHotRelease_drive _ _ h
  | _ => exact fun t e => h.keep (exec_entered _ rfl rfl (Entered.here s) t e)

/-- Settles O53: a step is a tick, which touches no system register, or a row, each of which keeps R27. -/
theorem driveStatesNeverEnteredFromASafeState : Obligations.DriveStatesNeverEnteredFromASafeState := by
  intro s t h e
  unfold step at e
  split at e
  · cases e
    exact h.ofOnly (tick_only s)
  · exact exec_drive _ (h.ofOnly (State.pending_only s _)) t e

/-- A device in STANDBY with its power domains on, whose zones have had one sample at their SHUTDOWN threshold. -/
def onceHot : State :=
  { State.reset with
    sys := { dev := .standby }, pwr := { domains := 0xFFF }, ths := { zone := Vector.replicate 10 { hotRun := 1 } } }

/-- The sample of 200 °C that a stage sensor of a valve die brings. -/
def secondHot : State := sensorSample (stageSensor 0).1 (stageSensor 0).2 2000 onceHot

/-- THS takes the sample: its power die is on, and the die has this sensor. -/
theorem exec_stageHot_onceHot : exec (.stageHot 0 2000) onceHot = .next secondHot := by
  change execStageHot 0 2000 onceHot = _
  unfold execStageHot
  exact if_pos (by decide +kernel)

/-- It is its zone's second sample in a row at SHUTDOWN: the device latches (R318). -/
theorem secondHot_latched : secondHot.sys.dev = .latched := by decide +kernel

/-- Refutes O54: STAGE_HOT is one sample of its zone's sensor (R311), and the second sample in a row at SHUTDOWN leads to
LATCHED (R318), but `changesState` does not list the row. -/
theorem not_otherCommandsLeaveTheDeviceState : ¬ Obligations.OtherCommandsLeaveTheDeviceState := by
  intro h
  obtain ⟨hk, -⟩ := h (.stageHot 0 2000) onceHot _ rfl exec_stageHot_onceHot
  exact absurd (hk.symm.trans secondHot_latched) (by decide)

end Sys2Proof.Machine
end

section
/-! PROOFS. The reset state, and the requests of the system family. -/

namespace Sys2Proof.Machine

/-! ### Reset (R23, R30, R474) -/

/-- Nothing is stored at reset. -/
theorem reset_inv : Inv State.reset where
  pd0 := by decide
  nor := by decide
  host := by unfold HostInv PortInv; decide +kernel
  map := by unfold MapInv; decide

/-- It is START. -/
theorem reset_driveEntered : DriveEntered State.reset := by rintro (h | h) <;> cases h

/-- Settles O55: every field of the reset state holds its default. -/
theorem resetState : Obligations.ResetState :=
  ⟨reset_inv, reset_driveEntered, rfl, rfl, rfl, rfl, rfl, rfl, rfl, rfl, rfl, rfl, rfl, by decide +kernel⟩

/-! ### System requests (R375, R379) -/

variable {op : BitVec 16} {e : Env} {n : Nat} {s : State}

/-- A request of a row without a sealed world: accepted, of its length, in a state of its column, it ends as its effect `f`
says. START and QUARANTINE serve the row where its column names them (R372). -/
theorem request_completes {i : Instr} {o : OpInfo} {f : State → State × Answer} (ho : opInfo op = some o)
    (h : Accepted op e n s) (hd : s.sys.dev ∈ o.states) (hl : o.len e = true) (hf : o.run e (admitted e n s) = f (admitted e n s)) (hw : (f (admitted e n s)).2.wait = none)
    (h1 : i.env? = some e := by rfl) (h2 : i.opcode? = some op := by rfl)
    (hs : .start ∈ o.states → servedInStart op = true := by decide)
    (hq : .quarantine ∈ o.states → servedInQuarantine op = true := by decide) (hu : o.sealedOnly = false := by rfl) :
    exec i s = .next (finish op e n s f) := by
  have hg : gate op o e (admitted e n s) = none :=
    gate_open hd (fun x => hs (x ▸ hd)) (fun x => hq (x ▸ hd)) fun x => absurd (hu.symm.trans x) (by decide)
  rw [exec_request h1 h2, receive_finish h ho hl hg hf hw]

theorem lenIs_of {m : Nat} (h : e.payload.length = m) : lenIs m e = true := beq_iff_eq.2 h

/-- SYS_ARM where R24 and R28 allow it. -/
theorem opSysArm_admitted (hr : s.sys.mapReady = true) (hm : mayDrive (admitted e n s) = true) (hf : s.act.fld .fe 0 2 ≤ 1) :
    opSysArm e (admitted e n s) = (waitEdge 0x0004 e [.arm] (admitted e n s), { effectPm := nextEdge s.pm }) := by
  simp [opSysArm, doneEdge, firstBad, hr, hm, Nat.not_lt.2 hf]

/-- SYS_ARM before the map is ready (R28). -/
theorem opSysArm_busy (hr : s.sys.mapReady = false) : opSysArm e (admitted e n s) = (admitted e n s, { status := .busy }) := by
  simp [opSysArm, deny, firstBad, hr]

/-- SYS_MANUAL where R24 allows it. -/
theorem opSysManual_admitted (hm : s.sys.dev = .standby → mayDrive (admitted e n s) = true) :
    opSysManual e (admitted e n s) = (waitEdge 0x0005 e [.manual] (admitted e n s), { effectPm := nextEdge s.pm }) := by
  have : ¬ (s.sys.dev = .standby ∧ mayDrive (admitted e n s) = false) := fun ⟨h1, h2⟩ => by simp [hm h1] at h2
  simp [opSysManual, doneEdge, this]

/-- SYS_CLEAR_FAULT where no cause persists. -/
theorem opSysClearFault_admitted (hp : persistCause (admitted e n s) = none) : opSysClearFault e (admitted e n s) =
    (waitEdge 0x0007 e [.clearFault] (admitted e n s), { effectPm := nextEdge s.pm, data := leBytes 1 0 }) := by
  simp [opSysClearFault, hp]

/-- SYS_SUBSCRIBE whose subscription passes the checks of R364, R365 and R367. -/
theorem opSysSubscribe_admitted {k : Fin 16} {b : Sub} {inst : Nat} (hk : k.val = arg e 0 4)
    (hb : b = { enable := argB e 4, item := arg e 8 8, first := arg e 16 8, count := arg e 24 8, decim := arg e 32 16 })
    (h5 : arg e 5 3 = 0) (h48 : arg e 48 16 = 0) (hi : ∃ m, itemShape b.item = some (m, inst)) (h0 : 0 < b.item)
    (hD : b.item ≤ 0x0D) (hc : 0 < b.count) (h96 : b.count ≤ 96) (hn : b.first + b.count ≤ inst) (hd : 0 < b.decim)
    (hu : e.port = .uart →
      uartOverrun (s.act.fld .host 8 24) (vlist ((subsAhead (admitted e n s) .uart).set k b)) = false) :
    opSysSubscribe e (admitted e n s) =
      (waitEdge 0x0009 e [.subscribe e.port k b] (admitted e n s), { effectPm := nextEdge s.pm }) := by
  obtain ⟨m, hm⟩ := hi
  obtain rfl : k = ⟨arg e 0 4 % 16, Nat.mod_lt _ (by decide)⟩ := Fin.ext (by simp only [← hk]; omega)
  subst hb
  dsimp only at hm h0 hD hc h96 hn hd
  have hport : ¬ (e.port = .uart ∧ _) := fun ⟨h1, h2⟩ => Bool.false_ne_true ((hu h1).symm.trans h2)
  simp [opSysSubscribe, firstBad, doneEdge, hm, h5, h48, Nat.ne_of_gt h0, Nat.ne_of_gt hc, Nat.ne_of_gt hd, hD, h96, hn, Nat.not_lt.2, hport]

/-- SYS_WAKE_SET of 0 (R379). -/
theorem opSysWakeSet_cancel (h : arg e 0 32 = 0) :
    opSysWakeSet e s = (s.onPd0 fun d => { d with wakeAlarm := none }, { data := leBytes 4 0 }) := by
  simp [opSysWakeSet, h, doneWith]

/-- SYS_WAKE_SET within its range (R379). -/
theorem opSysWakeSet_set (h1 : 60 ≤ arg e 0 32) (h2 : arg e 0 32 ≤ 2592000) :
    opSysWakeSet e s = (s.onPd0 fun d => { d with wakeAlarm := some (d.now + 80000000 * arg e 0 32) }, { data := leBytes 4 (arg e 0 32) }) := by
  have h : ¬ (arg e 0 32 < 60 ∨ 2592000 < arg e 0 32) := by omega
  simp only [opSysWakeSet, show arg e 0 32 ≠ 0 by omega, if_false, h, doneWith]

/-- Settles O1: each row passes its gate and ends with the effect of its own operation. -/
theorem systemRequestsExecute : Obligations.SystemRequestsExecute := by
  refine ⟨?nop, ?status, ?identity, ?linkReset, ?arm, ?manual, ?disarm, ?clearFault, ?reset, ?subscribe, ?wakeCancel, ?wakeSet⟩
  case nop => exact fun e n s h hl hd => request_completes rfl h hd (lenIs_of hl) rfl rfl
  case status => exact fun e n s h hl hd => request_completes rfl h hd (lenIs_of hl) rfl rfl
  case identity => exact fun e n s h hl hd => request_completes rfl h hd (lenIs_of hl) (by simp only [opSysIdentity, doneWith, admitted_sec, admitted_bootCount]) rfl
  case linkReset => exact fun e n s h hl hd => request_completes rfl h hd (lenIs_of hl) rfl rfl
  case arm => exact fun e n s h hl hd hr hm hf => request_completes rfl h hd (lenIs_of hl) (opSysArm_admitted hr hm hf) rfl
  case manual => exact fun e n s h hl hd hm => request_completes rfl h hd (lenIs_of hl) (opSysManual_admitted hm) rfl
  case disarm => exact fun e n s h hl hd => request_completes rfl h hd (lenIs_of hl) (by simp only [opSysDisarm, doneEdge, admitted_pm]) rfl
  case clearFault => exact fun e n s h hl hd hp => request_completes rfl h hd (lenIs_of hl) (opSysClearFault_admitted hp) rfl
  case reset => exact fun e n s h hl hd => request_completes rfl h hd (lenIs_of hl) rfl rfl
  case subscribe => exact fun e n s k b inst h hl hd hk hb h5 h48 hi h0 hD hc h96 hn hdec hu =>
      request_completes rfl h hd (lenIs_of hl) (opSysSubscribe_admitted hk hb h5 h48 hi h0 hD hc h96 hn hdec hu) rfl
  case wakeCancel => exact fun e n s h hl hd hz => request_completes rfl h hd (lenIs_of hl) (opSysWakeSet_cancel hz) rfl
  case wakeSet => exact fun e n s h hl hd h1 h2 => request_completes rfl h hd (lenIs_of hl) (opSysWakeSet_set h1 h2) rfl

/-- Settles O43: the check of MAP_READY is SYS_ARM's first (R28). -/
theorem sysArmNeedsTheMap : Obligations.SysArmNeedsTheMap := by
  intro e n s h hl hd hr
  exact request_completes rfl h (by simpa using hd) (lenIs_of hl) (opSysArm_busy hr) rfl

end Sys2Proof.Machine
end

section
/-! PROOFS. The port, frame, supply, start, element, clock and converter rows out of their conditions (log entry 2). -/

namespace Sys2Proof.Machine

variable {s : State}

/-! ### The field frame (R15) -/

/-- The edge of now is a new one, as FRAME_EDGE reads it: it has its effect once for each (R34). -/
def edgeFresh (s : State) : Bool := match s.sys.lastEdge with
  | some l => decide (l < edgeOf s.pm)
  | none => true

theorem edgeFresh_iff (s : State) : edgeFresh s = true ↔ ∀ l, s.sys.lastEdge = some l → l < edgeOf s.pm := by
  unfold edgeFresh
  cases s.sys.lastEdge <;> simp

/-- FRAME_EDGE outside TIME, in OFF, or at an edge that has been. -/
theorem frameEdge_idle (f : Freeze)
    (h : ¬ (s.running = true ∧ s.sys.dev ≠ .off ∧ ∀ l, s.sys.lastEdge = some l → l < edgeOf s.pm)) : execFrameEdge f s = .next s := by
  rw [← edgeFresh_iff] at h
  exact if_neg h

/-- DECISION_PHASE away from its place in the frame. -/
theorem decisionPhase_idle (h : ¬ (s.sys.phase = some .freeze ∧ ∃ e, s.sys.lastEdge = some e ∧ e + 20000 ≤ s.pm ∧ s.pm < e + 32000)) :
    execDecisionPhase s = .next s := by
  unfold execDecisionPhase
  cases hl : s.sys.lastEdge with
  | none => rfl
  | some e => exact if_neg fun ⟨h1, h2, h3⟩ => h ⟨h1, e, hl, h2, h3⟩

/-- COMMIT_PHASE away from its place in the frame. -/
theorem commitPhase_idle (agree : Bool)
    (h : ¬ (s.sys.phase = some .decision ∧ ∃ e, s.sys.lastEdge = some e ∧ e + 32000 ≤ s.pm ∧ s.pm < e + 36000)) :
    execCommitPhase agree s = .next s := by
  unfold execCommitPhase
  cases hl : s.sys.lastEdge with
  | none => rfl
  | some e => exact if_neg fun ⟨h1, h2, h3⟩ => h ⟨h1, e, hl, h2, h3⟩

/-- LOGGING_PHASE away from its place in the frame, or once more. -/
theorem loggingPhase_idle (h : ¬ (s.sys.phase ≠ some .logging ∧ ∃ e, s.sys.lastEdge = some e ∧ e + 36000 ≤ s.pm ∧ s.pm < e + 40000)) :
    execLoggingPhase s = .next s := by
  unfold execLoggingPhase
  cases hl : s.sys.lastEdge with
  | none => rfl
  | some e => exact if_neg fun ⟨h1, h2, h3⟩ => h ⟨h1, e, hl, h2, h3⟩

/-! ### Supply (R463) and power domains (R439) -/

/-- Not outside OFF with the flag clear: in OFF, or the flag is set. -/
theorem off_or_set {b : Bool} (h : ¬ (s.sys.dev ≠ .off ∧ b = false)) : s.sys.dev = .off ∨ b = true :=
  (Decidable.em (s.sys.dev = .off)).imp_right fun hd => eq_true_of_ne_false fun hb => h ⟨hd, hb⟩

/-- LOW_SUPPLY while it holds, outside OFF. -/
theorem lowSupply_idle (h : ¬ (s.sys.dev = .off ∨ s.pwr.lowSupply = false)) : execLowSupply s = .next s := by
  rw [not_or, Bool.not_eq_false] at h
  unfold execLowSupply
  rw [if_neg h.1, if_pos h.2]

/-- LOAD_DUMP in OFF, or while it holds. -/
theorem loadDump_idle (h : ¬ (s.sys.dev ≠ .off ∧ s.pwr.loadDump = false)) : execLoadDump s = .next s :=
  if_pos (off_or_set h)

/-- A switch of a domain that the state does not call for, or that is complete. -/
theorem powerDomainSwitch_idle (d : Fin 12) (on : Bool) (h : ¬ (bitN (requiredDomains s) d.val = on ∧ s.pwr.domains.getLsbD d.val ≠ on)) :
    execPowerDomainSwitch d on s = .next s := if_neg h

/-! ### The converter (R426) -/

/-- BOOST in OFF, or while its fault holds. -/
theorem boost_idle (h : ¬ (s.sys.dev ≠ .off ∧ s.vdr.conv.fault = false)) : execBoost s = .next s :=
  if_pos (off_or_set h)

/-- Settles O32: outside its condition each row takes the branch that answers the state as it is. -/
theorem supplyAndFaultEventsIdle : Obligations.SupplyAndFaultEventsIdle := by
  refine ⟨?badHeader, ?noticeEnvelope, ?linkLost, ?frameEdge, ?decisionPhase, ?commitPhase, ?loggingPhase, ?vkeyLow, ?vbatStartBand,
    ?lowSupply, ?lowSupplyExit, ?groundRestored, ?loadDump, ?timeResetRelease, ?imageSetSelect, ?domainPowerUp, ?hostPortAlive,
    ?selftestComplete, ?switchOn, ?switchOff, ?dramTestDone, ?clockElement, ?clockBase, ?clockBaseRestored, ?relockOk, ?relockNot,
    ?elementRestartComplete, ?safeIn, ?safeInRelease, ?boost, ?boostRetryOk, ?boostRetryNot⟩
  case badHeader => exact fun p s h => congrArg Host.Outcome.next (if_neg h)
  case noticeEnvelope => exact fun p s h => if_neg h
  case linkLost => exact fun p s h => if_neg (by simpa using h)
  case frameEdge => exact fun f s h => frameEdge_idle f h
  case decisionPhase => exact fun s h => decisionPhase_idle h
  case commitPhase => exact fun agree s h => commitPhase_idle agree h
  case loggingPhase => exact fun s h => loggingPhase_idle h
  case vkeyLow => exact fun s h => if_neg h
  case vbatStartBand => exact fun s h => if_neg h
  case lowSupply => exact fun s h => lowSupply_idle h
  case lowSupplyExit => exact fun s h => if_neg h
  case groundRestored => exact fun s h => if_neg h
  case loadDump => exact fun s h => loadDump_idle h
  case timeResetRelease => exact fun s h => if_neg (by simpa using h)
  case imageSetSelect => exact fun v0 v1 s h => if_neg (by simpa using h)
  case domainPowerUp => exact fun s h => if_neg (by simpa using h)
  case hostPortAlive => exact fun s h => if_neg (by simpa using h)
  case selftestComplete => exact fun failed s h => if_neg h
  case switchOn => exact fun d s h => powerDomainSwitch_idle d true (by simpa using h)
  case switchOff => exact fun d s h => powerDomainSwitch_idle d false (by simpa using h)
  case dramTestDone => exact fun retired s h => if_neg (by simpa using h)
  case clockElement => exact fun el s h => if_pos (Decidable.not_not.1 h)
  case clockBase => exact fun k s h => if_pos (Decidable.not_not.1 h)
  case clockBaseRestored => exact fun s h => if_neg h
  case relockOk => exact fun el s h => if_neg h
  case relockNot => exact fun el s h => if_neg h
  case elementRestartComplete => exact fun el s h => if_neg (by simpa using h)
  case safeIn => exact fun s h => if_neg h
  case safeInRelease => exact fun s h => if_neg h
  case boost => exact fun s h => boost_idle h
  case boostRetryOk => exact fun s h => if_neg h
  case boostRetryNot => exact fun s h => if_neg h

end Sys2Proof.Machine
end

section
/-! PROOFS. Facts the device's events share: what reports leave of a part of the state, and what START and OFF begin with. -/

namespace Sys2Proof.Machine

variable {s t u : State} {d p : DevState} {k : Nat}

/-! ### Two states that differ by reports, each changed in one part -/

theorem Noted.onVdr (h : Noted s t) (f : VdrSt → VdrSt) : Noted (s.onVdr f) (t.onVdr f) := by
  refine ⟨⟨fun q hq => ?_⟩, h.sys, h.pd0, h.host, h.port⟩
  cases q with
  | vdr => exact congrArg f (h.same .vdr (by decide))
  | _ => exact h.only.same _ hq

/-- An end that follows what leaves the fault log and the clock alone. -/
theorem Ended.of_eq {c i : Nat} (h : Ended c i u t) (hl : u.pd0.faultLog = s.pd0.faultLog) (hp : u.pm = s.pm) : Ended c i s t := by
  unfold Ended at *
  rw [h, hl, hp]

/-! ### The notice limiter -/

/-- The system registers differ in the notice limiter alone. -/
def LimiterOnly (s t : State) : Prop := t.sys = { s.sys with limiter := t.sys.limiter }

theorem LimiterOnly.trans (h : LimiterOnly s t) (k : LimiterOnly t u) : LimiterOnly s u := by
  unfold LimiterOnly at *
  rw [k, h]

theorem Noted.limiterOnly (h : Noted s t) : LimiterOnly s t := h.sys

theorem Only.limiterOnly {l : List Part} (o : Only l s t) (hl : Part.sys ∉ l := by decide) : LimiterOnly s t := by
  have e : t.sys = s.sys := o.same .sys hl
  unfold LimiterOnly
  rw [e]

theorem LimiterOnly.ite {c : Prop} [Decidable c] (h : LimiterOnly s t) (k : LimiterOnly s u) : LimiterOnly s (if c then t else u) := by
  split <;> assumption

theorem LimiterOnly.foldl {α : Type} {g : State → α → State} (hg : ∀ t a, LimiterOnly t (g t a)) (l : List α) (s : State) :
    LimiterOnly s (l.foldl g s) := by
  induction l generalizing s with
  | nil => rfl
  | cons a l ih => exact (hg s a).trans (ih _)

/-! ### The as-applied log: what a record changes of the system registers and of PD0 (R181, R182) -/

theorem sealBlock_limiterOnly (s : State) : LimiterOnly s (sealBlock s) := by
  unfold sealBlock
  refine LimiterOnly.ite rfl ?_
  extract_lets b0 h b s1
  exact LimiterOnly.ite (notice_noted .map 0x0A 0xFFFF [] s1).limiterOnly rfl

theorem openBlock_limiterOnly (s : State) : LimiterOnly s (openBlock s) := by
  unfold openBlock
  split
  · rfl
  · refine LimiterOnly.ite rfl ?_
    extract_lets s1
    exact LimiterOnly.ite rfl (notice_noted .map 0x0B 0xFFFF [] s1).limiterOnly

theorem appendRecord_limiterOnly (r : BitVec 256) (s : State) : LimiterOnly s (appendRecord r s) := by
  unfold appendRecord
  extract_lets s0 s1
  have h0 : LimiterOnly s s0 := LimiterOnly.ite (openBlock_limiterOnly s) rfl
  exact LimiterOnly.ite (h0.trans (sealBlock_limiterOnly s1)) h0

theorem writeLog_limiterOnly (r : BitVec 256) (s : State) : LimiterOnly s (writeLog r s) := by
  unfold writeLog
  exact LimiterOnly.ite rfl (LimiterOnly.ite (LimiterOnly.ite rfl rfl) (appendRecord_limiterOnly r s))

/-- PD0 differs in the chain of log blocks alone. -/
def ChainOnly (s t : State) : Prop := t.pd0 = { s.pd0 with chainHash := t.pd0.chainHash, blockSeq := t.pd0.blockSeq }

theorem ChainOnly.trans (h : ChainOnly s t) (k : ChainOnly t u) : ChainOnly s u := by
  unfold ChainOnly at *
  rw [k, h]

theorem Only.chainOnly {l : List Part} (o : Only l s t) (hl : Part.pd0 ∉ l := by decide) : ChainOnly s t := by
  have e : t.pd0 = s.pd0 := o.same .pd0 hl
  unfold ChainOnly
  rw [e]

theorem ChainOnly.ite {c : Prop} [Decidable c] (h : ChainOnly s t) (k : ChainOnly s u) : ChainOnly s (if c then t else u) := by
  split <;> assumption

theorem sealBlock_chainOnly (s : State) : ChainOnly s (sealBlock s) := by
  unfold sealBlock
  refine ChainOnly.ite rfl ?_
  extract_lets b0 h b s1
  have h1 : ChainOnly s s1 := rfl
  exact ChainOnly.ite (h1.trans (notice_only ..).chainOnly) h1

theorem appendRecord_chainOnly (r : BitVec 256) (s : State) : ChainOnly s (appendRecord r s) := by
  unfold appendRecord
  extract_lets s0 s1
  have h0 : ChainOnly s s0 := ChainOnly.ite (openBlock_only s).chainOnly rfl
  exact ChainOnly.ite (h0.trans (sealBlock_chainOnly s1)) h0

theorem writeLog_chainOnly (r : BitVec 256) (s : State) : ChainOnly s (writeLog r s) := by
  unfold writeLog
  exact ChainOnly.ite rfl (ChainOnly.ite (ChainOnly.ite rfl rfl) (appendRecord_chainOnly r s))

theorem changeState_chainOnly (x : DevState) (cause : Nat) (pm : Tick) (s : State) : ChainOnly s (changeState x cause pm s) := by
  unfold changeState
  extract_lets w s1
  have h1 : ChainOnly s s1 := rfl
  exact (h1.trans (noticeAt_only ..).chainOnly).trans ((writeLog_chainOnly ..).trans (driveFaultOut_only _).chainOnly)

/-- The enclave's seal leaves no record in the open block. -/
theorem sealBlock_log (s : State) : (sealBlock s).map.log = [] := by
  unfold sealBlock
  split
  · assumption
  · extract_lets b0 h b s1
    have h1 : s1.map.log = [] := rfl
    split
    · exact (congrArg MapSt.log ((notice_only .map 0x0A 0xFFFF [] s1).same .map (by decide))).trans h1
    · exact h1

/-! ### START and OFF (R441, R442, R474) -/

theorem startState_entered (prev : DevState) (cause startCause : Nat) (s : State) :
    Entered .start prev cause (startState prev cause startCause s) := ⟨rfl, rfl, rfl⟩

theorem offState_entered (h : Entered .off p k s) : Entered .off p k (offState s) := ⟨rfl, h.2.1, h.2.2⟩

theorem enterOff_entered (s : State) : Entered .off s.sys.dev 0x03 (enterOff s) := by
  unfold enterOff
  have h : Entered s.sys.dev s.sys.prev s.sys.cause (saveNor (savePd0 (startHolds s))) :=
    (((Entered.here s).ofOnly (startHolds_only s)).ofOnly (savePd0_only _)).ofOnly (saveNor_only _)
  exact offState_entered (changeState_entered_of .off 0x03 _ h)

theorem enterOffBrown_entered (s : State) : Entered .off s.sys.dev 0x02 (enterOffBrown s) := by
  unfold enterOffBrown
  have h : Entered s.sys.dev s.sys.prev s.sys.cause (endHolds (savePd0 s)) :=
    ((Entered.here s).ofOnly (savePd0_only s)).ofOnly (endHolds_only _)
  exact offState_entered (changeState_entered_of .off 0x02 _ h)

/-- OFF takes VBAT for no better than it was. -/
theorem enterOffBrown_vbatOk (h : s.pwr.vbatOk = false) : (enterOffBrown s).pwr.vbatOk = false := by
  unfold enterOffBrown offState keptState
  have e : (changeState .off 0x02 s.pm (endHolds (savePd0 s))).pwr = s.pwr := (changeState_only ..).same .pwr (by decide)
  simp [e, h]

theorem startFromOff_of_fresh (cause startCause : Nat) (h : s.pd0.fresh = true) :
    startFromOff cause startCause s = startState .off 0x02 0 s := if_pos h

theorem startFromOff_of_not_fresh (cause startCause : Nat) (h : s.pd0.fresh = false) :
    startFromOff cause startCause s = startState .off cause startCause s := if_neg (by simp [h])

end Sys2Proof.Machine
end

section
/-! PROOFS. Key, alarm, supply and ground rows under their conditions (R24, R30, R463 to R467). -/

namespace Sys2Proof.Machine

variable {s : State}

/-! ### Key and alarm -/

/-- VKEY rises in OFF, the supply in its start band. -/
theorem vkeyHigh_off (ho : s.sys.dev = .off) (hv : s.pwr.vbatOk = true) :
    exec .vkeyHigh s = .next (startFromOff 0x03 1 (s.onPwr fun p => { p with vkey := true, vkeyLowAt := none })) := by
  change execVkeyHigh s = _
  simp [execVkeyHigh, ho, hv]

theorem vkeyHigh_starts (ho : s.sys.dev = .off) (hv : s.pwr.vbatOk = true) (hf : s.pd0.fresh = false) :
    ∃ t, exec .vkeyHigh s = .next t ∧ Entered .start .off 0x03 t ∧ t.pwr.vkey = true ∧ t.pwr.startCause = 1 ∧ t.running = false ∧
      t.pd0.bootCount = s.pd0.bootCount + 1 := by
  refine ⟨_, vkeyHigh_off ho hv, ?_⟩
  rw [startFromOff_of_not_fresh (s := s.onPwr _) _ _ hf]
  exact ⟨startState_entered .., rfl, rfl, rfl, rfl⟩

/-- The first START after PD0 lost power is a power-cycle start (R474). -/
theorem vkeyHigh_startsFresh (ho : s.sys.dev = .off) (hv : s.pwr.vbatOk = true) (hf : s.pd0.fresh = true) :
    ∃ t, exec .vkeyHigh s = .next t ∧ Entered .start .off 0x02 t ∧ t.pwr.vkey = true ∧ t.pwr.startCause = 0 := by
  refine ⟨_, vkeyHigh_off ho hv, ?_⟩
  rw [startFromOff_of_fresh (s := s.onPwr _) _ _ hf]
  exact ⟨startState_entered .., rfl, rfl⟩

/-- VKEY rises in LATCHED_OFF: the domains are those of LATCHED with VKEY low (R438). -/
theorem vkeyHigh_startsFromLatched (hl : s.sys.dev = .latched) (hd : s.pwr.domains = 1) :
    ∃ t, exec .vkeyHigh s = .next t ∧ Entered .start .latched 0x03 t ∧ t.pwr.vkey = true ∧ t.pwr.startCause = 1 := by
  refine ⟨startState .latched 0x03 1 (s.onPwr fun p => { p with vkey := true, vkeyLowAt := none }), ?_, startState_entered .., rfl, rfl⟩
  change execVkeyHigh s = _
  simp [execVkeyHigh, hl, hd]

theorem vkeyHigh_noted (ho : s.sys.dev = .off → s.pwr.vbatOk = false) (hl : s.sys.dev = .latched → s.pwr.domains ≠ 1) :
    exec .vkeyHigh s = .next (s.onPwr fun p => { p with vkey := true, vkeyLowAt := none }) := by
  change execVkeyHigh s = _
  unfold execVkeyHigh
  cases hd : s.sys.dev with
  | off => exact congrArg Host.Outcome.next (if_neg (by simp [ho hd]))
  | latched => exact congrArg Host.Outcome.next (if_neg (hl hd))
  | _ => rfl

/-- A cancelled activation is gone, where it has not switched (R421). -/
theorem cancelActivation_activation {a : Activation} (ha : s.sec.activation = some a) (hw : a.switchAt = none) :
    (cancelActivation s).sec.activation = none := by
  simp only [cancelActivation, ha, hw]
  exact congrArg SecSt.activation ((notice_only ..).same .sec (by decide))

theorem vkeyLow_completes (hk : s.pwr.vkey = true) :
    ∃ t, exec .vkeyLow s = .next t ∧ t.pwr = { s.pwr with vkey := false, vkeyLowAt := some s.pm } ∧
      Entered s.sys.dev s.sys.prev s.sys.cause t ∧ (s.restarting .enclave = false → s.sys.dev ≠ .off → t.map.log = []) ∧
      ∀ a, s.sec.activation = some a → a.switchAt = none → t.sec.activation = none := by
  let u := cancelActivation (s.onPwr fun p => { p with vkey := false, vkeyLowAt := some s.pm })
  let t := if u.restarting .enclave ∨ s.sys.dev = .off then u else sealBlock u
  have hx : exec .vkeyLow s = .next t := if_pos hk
  have o : Only [.sys, .pd0, .host, .map] u t := Only.ite (Only.refl ..) (sealBlock_only u)
  refine ⟨t, hx, ?_, execVkeyLow_entered (Entered.here s) t hx, fun hr hd => ?_, fun a ha hw => ?_⟩
  · exact (o.same .pwr (by decide)).trans ((cancelActivation_only _).same .pwr (by decide))
  · have hu : u.restarting .enclave = s.restarting .enclave :=
      congrArg (fun v : SafeSt => v.elem[elemIx .enclave].restarting) ((cancelActivation_only _).same .safe (by decide))
    have ht : t = sealBlock u := if_neg (by simp [hu, hr, hd])
    rw [ht]
    exact sealBlock_log u
  · exact (congrArg SecSt.activation (o.same .sec (by decide))).trans (cancelActivation_activation ha hw)

theorem keyOffDelayExpiry_off {t0 : Nat} (h0 : s.pwr.vkeyLowAt = some t0)
    (hd : s.sys.dev = .standby ∨ s.sys.dev = .quarantine ∨ s.sys.dev = .safe) (hp : t0 + keyOffDelay s ≤ s.pm)
    (he : s.pm % 40000 = 0) :
    ∃ t, exec .keyOffDelayExpiry s = .next t ∧ Entered .off s.sys.dev 0x03 t ∧ t.running = false ∧ t.pwr.domains = 1 := by
  refine ⟨enterOff s, ?_, enterOff_entered s, rfl, rfl⟩
  change execKeyOffDelayExpiry s = _
  simp only [execKeyOffDelayExpiry, h0]
  exact if_pos ⟨hd, hp, he⟩

theorem wakeAlarm_due {t0 : Nat} (h0 : s.pd0.wakeAlarm = some t0) (hn : t0 ≤ s.pd0.now) :
    exec .wakeAlarm s = .next (if s.sys.dev = .off ∧ s.pwr.vbatOk then startFromOff 0x05 2 (s.onPd0 fun d => { d with wakeAlarm := none })
      else s.onPd0 fun d => { d with wakeAlarm := none }) := by
  change execWakeAlarm s = _
  simp only [execWakeAlarm, h0]
  exact if_pos hn

theorem wakeAlarm_starts {t0 : Nat} (h0 : s.pd0.wakeAlarm = some t0) (hn : t0 ≤ s.pd0.now) (ho : s.sys.dev = .off)
    (hv : s.pwr.vbatOk = true) (hf : s.pd0.fresh = false) :
    ∃ t, exec .wakeAlarm s = .next t ∧ Entered .start .off 0x05 t ∧ t.pwr.startCause = 2 ∧ t.pd0.wakeAlarm = none := by
  have hd : (s.onPd0 fun d => { d with wakeAlarm := none }).pd0.fresh = false := hf
  refine ⟨_, wakeAlarm_due h0 hn, ?_⟩
  rw [if_pos ⟨ho, hv⟩, startFromOff_of_not_fresh _ _ hd]
  exact ⟨startState_entered .., rfl, rfl⟩

/-! ### Supply -/

/-- VBAT is in its start band, in OFF. -/
theorem vbatStartBand_off (ho : s.sys.dev = .off) :
    exec .vbatStartBand s = .next (if s.pwr.vkey then startFromOff 0x03 1 ((lswReverseEnds s).onPwr fun p => { p with vbatOk := true, reverseBatt := false })
      else (lswReverseEnds s).onPwr fun p => { p with vbatOk := true, reverseBatt := false }) := by
  change execVbatStartBand s = _
  simp [execVbatStartBand, ho]

theorem vbatStartBand_starts (ho : s.sys.dev = .off) (hk : s.pwr.vkey = true) (hf : s.pd0.fresh = false) :
    ∃ t, exec .vbatStartBand s = .next t ∧ Entered .start .off 0x03 t ∧ t.pwr.vbatOk = true ∧ t.pwr.startCause = 1 := by
  refine ⟨_, vbatStartBand_off ho, ?_⟩
  have hd : ((lswReverseEnds s).onPwr fun p => { p with vbatOk := true, reverseBatt := false }).pd0.fresh = false :=
    (congrArg Pd0St.fresh ((lswReverseEnds_only s).same .pd0 (by decide))).trans hf
  rw [if_pos hk, startFromOff_of_not_fresh _ _ hd]
  exact ⟨startState_entered .., rfl, rfl⟩

theorem brownOut_off (hd : s.sys.dev ≠ .off) :
    ∃ t, exec .brownOut s = .next t ∧ Entered .off s.sys.dev 0x02 t ∧ t.pwr.vbatOk = false ∧ t.running = false :=
  ⟨_, if_neg hd, enterOffBrown_entered _, enterOffBrown_vbatOk rfl, rfl⟩

theorem lowSupply_logged (hd : s.sys.dev ≠ .off) (hl : s.pwr.lowSupply = false) :
    ∃ t, exec .lowSupply s = .next t ∧ Noted (s.onPwr fun p => { p with lowSupply := true }) t ∧ Logged 0x24 3 t :=
  ⟨_, (if_neg hd).trans (if_neg (by simp [hl])), logFault_noted .., logFault_logged ..⟩

theorem lowSupplyExit_ended (hl : s.pwr.lowSupply = true) :
    ∃ t, exec .lowSupplyExit s = .next t ∧ Noted (s.onPwr fun p => { p with lowSupply := false }) t ∧ Ended 0x24 3 s t :=
  ⟨_, if_pos hl, endFault_noted .., (endFault_ended 0x24 3 (s.onPwr fun p => { p with lowSupply := false })).of_eq rfl rfl⟩

theorem loadDump_logged (hd : s.sys.dev ≠ .off) (hl : s.pwr.loadDump = false) :
    ∃ t, exec .loadDump s = .next t ∧ Noted (s.onPwr fun p => { p with loadDump := true, over36 := true }) t ∧ Logged 0x24 2 t :=
  ⟨_, if_neg (by simp [hd, hl]), logFault_noted .., logFault_logged ..⟩

/-- Of what PD0 holds a power cycle leaves what the NOR restores (R441). -/
theorem powerCycle_off (s : State) :
    ∃ t, exec .powerCycle s = .next t ∧ Entered .off s.sys.dev 0x02 t ∧ t.pwr.vbatOk = false ∧ t.pd0.fresh = true ∧
      t.pd0.bootCount = s.nor.bootCount ∧ t.pd0.tcxo = s.nor.tcxo ∧ t.pd0.odoScale = s.nor.odoScale ∧ t.pd0.faultLog = s.nor.faultLog ∧
      t.pd0.wakeAlarm = none ∧ t.pd0.latch = none ∧ t.nor = s.nor := by
  change ∃ t, execPowerCycle s = .next t ∧ _
  unfold execPowerCycle
  extract_lets d s1
  have h : Entered .off s.sys.dev 0x02 s1 := offState_entered (changeState_entered .off 0x02 s.pm { s with pd0 := d, lsw := {} })
  have e := changeState_chainOnly .off 0x02 s.pm { s with pd0 := d, lsw := {} }
  refine ⟨_, rfl, ⟨h.1, h.2.1, h.2.2⟩, rfl, ?_⟩
  exact ⟨congrArg Pd0St.fresh e, congrArg Pd0St.bootCount e, congrArg Pd0St.tcxo e, congrArg Pd0St.odoScale e, congrArg Pd0St.faultLog e,
    congrArg Pd0St.wakeAlarm e, congrArg Pd0St.latch e, (changeState_only ..).same .nor (by decide)⟩

theorem reverseBattery_off (s : State) :
    ∃ t, exec .reverseBattery s = .next t ∧ t.sys.dev = .off ∧ t.pwr.reverseBatt = true ∧ t.pwr.vbatOk = false := by
  refine ⟨_, rfl, ?_, ?_⟩
  · rw [(lswReverse_only _).same .sys (by decide)]
    simp only [State.onPwr_sys, State.sys_ite]
    split
    · exact (logFault_entered _ _ _ _ _ _ (Entered.here s)).1.trans ‹_›
    · exact (enterOffBrown_entered _).1
  · rw [(lswReverse_only _).same .pwr (by decide)]
    exact ⟨rfl, rfl⟩

/-! ### Ground -/

/-- The cut leaves no bank a window, and each on the battery feed. -/
theorem valvesCut_bank (k : Tick) (s : State) (b : Fin 12) :
    (valvesCut k s).vdr.bank[b].windows = [] ∧ (valvesCut k s).vdr.bank[b].feed = .bat := by
  unfold valvesCut
  generalize allCh.foldl _ s = u
  simp [vmap]

/-- Loss of ground takes every gate and every low side off, each output under its own detector (R465). -/
theorem lossOfGround_logged (hd : s.sys.dev ≠ .off) (hg : s.pwr.groundLost = false) :
    ∃ t, exec .lossOfGround s = .next t ∧ t.pwr = { s.pwr with groundLost := true, groundBack := none } ∧ Logged 0x24 0 t ∧
      (∀ g : Fin 8, t.pwu.fine[g].gh = false ∧ t.pwu.fine[g].gl = false) ∧
      ∀ b : Fin 12, t.vdr.bank[b].windows = [] ∧ t.vdr.bank[b].feed = .bat := by
  let s1 := s.onPwr fun p => { p with groundLost := true, groundBack := none }
  let v := valvesCut s.pm s1
  let t := logFault 0x24 .pwr 0 reactReport 0 0 (lswGroundLoss (gatesOff v))
  have hx : exec .lossOfGround s = .next t := (if_neg hd).trans (if_neg (by simp [hg]))
  have o : Only [.sys, .pd0, .host, .lsw] (gatesOff v) t :=
    ((Only.refl _ _).andThen (lswGroundLoss_only _) (by decide)).andThen (logFault_only ..) (by decide)
  have hl : Logged 0x24 0 t := logFault_logged ..
  have hp : v.pwr = s1.pwr := (valvesCut_only s.pm s1).same .pwr (by decide)
  have hb : ∀ b : Fin 12, v.vdr.bank[b].windows = [] ∧ v.vdr.bank[b].feed = .bat := valvesCut_bank s.pm s1
  clear_value t v
  refine ⟨t, hx, (o.same .pwr (by decide)).trans hp, hl, fun g => ?_, fun b => ?_⟩
  · rw [o.same .pwu (by decide)]
    simp [gatesOff, vmap]
  · rw [o.same .vdr (by decide)]
    exact hb b

/-- Settles O13, row by row. -/
theorem supplyEventsExecute : Obligations.SupplyEventsExecute := by
  refine ⟨?keyUp, ?keyUpFresh, ?keyUpLatched, ?keyUpElse, ?keyDown, ?keyOff, ?alarmStarts, ?alarmSpent, ?bandKeyLow, ?bandStarts,
    ?brownOutInOff, ?brownOut, ?lowSupplyInOff, ?lowSupply, ?lowSupplyExit, ?powerCycle, ?groundLoss, ?groundLossAgain,
    ?groundLossInOff, ?groundRestored, ?reverseBattery, ?loadDump⟩
  case keyUp => exact fun s => vkeyHigh_starts
  case keyUpFresh => exact fun s => vkeyHigh_startsFresh
  case keyUpLatched => exact fun s => vkeyHigh_startsFromLatched
  case keyUpElse => exact fun s => vkeyHigh_noted
  case keyDown => exact fun s => vkeyLow_completes
  case keyOff => exact fun t0 s => keyOffDelayExpiry_off
  case alarmStarts => exact fun t0 s => wakeAlarm_starts
  case alarmSpent => exact fun t0 s h0 hn h => (wakeAlarm_due h0 hn).trans (congrArg _ (if_neg h))
  case bandKeyLow => exact fun s ho hk => (vbatStartBand_off ho).trans (congrArg _ (if_neg (by simp [hk])))
  case bandStarts => exact fun s => vbatStartBand_starts
  case brownOutInOff => exact fun s ho => if_pos ho
  case brownOut => exact fun s => brownOut_off
  case lowSupplyInOff => exact fun s ho => if_pos ho
  case lowSupply => exact fun s => lowSupply_logged
  case lowSupplyExit => exact fun s => lowSupplyExit_ended
  case powerCycle => exact powerCycle_off
  case groundLoss => exact fun s => lossOfGround_logged
  case groundLossAgain => exact fun s hd hg => (if_neg hd).trans (if_pos hg)
  case groundLossInOff => exact fun s ho => if_pos ho
  case groundRestored => exact fun s hg => if_pos hg
  case reverseBattery => exact reverseBattery_off
  case loadDump => exact fun s => loadDump_logged

end Sys2Proof.Machine
end

section
/-! PROOFS. Clock, PLL, element restart, COAST expiry, safe input and row bus-off under their conditions (R25, R425, R429, R431, R446). -/

namespace Sys2Proof.Machine

variable {s t : State}

/-! ### What the fault path of SAFE reads and leaves -/

theorem Noted.dev (h : Noted s t) : t.sys.dev = s.sys.dev := by rw [h.sys]

theorem safeAllowed_of_dev (h : t.sys.dev = s.sys.dev) : safeAllowed t = safeAllowed s := by
  unfold safeAllowed
  rw [h]

/-- SAFE is not entered from the states that R431 leaves as they are. -/
theorem safeAllowed_eq_false (h : s.sys.dev = .quarantine ∨ s.sys.dev = .safe ∨ s.sys.dev = .latched) : safeAllowed s = false := by
  unfold safeAllowed
  rcases h with h | h | h <;> rw [h]

theorem ne_off_of_safeAllowed (h : safeAllowed s = true) : s.sys.dev ≠ .off := by
  intro h0
  simp [safeAllowed, h0] at h

theorem ne_start_of_safeAllowed (h : safeAllowed s = true) : s.sys.dev ≠ .start := by
  intro h0
  simp [safeAllowed, h0] at h

/-- Of the safety registers a change of state drives FAULT_OUT alone (R432). -/
theorem changeState_safeIn (x : DevState) (cause : Nat) (pm : Tick) (s : State) :
    (changeState x cause pm s).safe.safeIn = s.safe.safeIn := by
  unfold changeState
  extract_lets w s1
  have h1 : s1.safe = s.safe := rfl
  have h2 := (noticeAt_only .sys 0x01 0xFFFF pm (leBytes 1 w ++ leBytes 1 cause ++ leBytes 2 0) s1).same .safe (by decide)
  have h3 := (writeLog_only (logRecord 0x06 0 w pm cause)
    (noticeAt .sys 0x01 0xFFFF pm (leBytes 1 w ++ leBytes 1 cause ++ leBytes 2 0) s1)).same .safe (by decide)
  change (writeLog _ _).safe.safeIn = _
  rw [h3, h2, h1]

theorem enterSafe_safeIn (cause : Nat) (pm : Tick) (s : State) : (enterSafe cause pm s).safe.safeIn = s.safe.safeIn := by
  unfold enterSafe
  extract_lets s1 s2 s3
  have h1 : s1.safe = s.safe :=
    (((((Only.refl [.sys, .host, .fe, .lsw, .sec] s).andThen (leaveDrive_only pm s) (by decide)).andThen (cancelActivation_only _) (by decide)).andThen
      (cancelEdges_only _) (by decide)).andThen (lswHoldForSafe_only _) (by decide)).same .safe (by decide)
  have h2 : s2.safe.safeIn = s1.safe.safeIn := by
    refine (changeState_safeIn ..).trans (congrArg SafeSt.safeIn ?_)
    exact (((Only.refl [.sys, .pd0, .host, .fe, .map, .vdr, .pwu] s1).andThen (valvesOff_only pm s1) (by decide)).andThen
      (gatesOff_only _) (by decide)).same .safe (by decide)
  have h3 : s3.safe = s2.safe := (Only.ite (Only.refl _ _) (sealBlock_only s2)).same .safe (by decide)
  refine (congrArg SafeSt.safeIn (?_ : _ = s3.safe)).trans ((congrArg SafeSt.safeIn h3).trans (h2.trans (congrArg SafeSt.safeIn h1)))
  exact (((((Only.refl [.sys, .host, .vdr, .lsw, .can] s3).andThen (State.onVdr_only s3 _) (by decide)).andThen (settleConv_only _) (by decide)).andThen
    (lswSyncAll_only _) (by decide)).andThen (startAllOff_only _) (by decide)).same .safe (by decide)

theorem safeFault_safeIn (cause : Nat) (b : Block) (index restarts detail : Nat) (pm : Tick) (s : State) :
    (safeFault cause b index restarts detail pm s).safe.safeIn = s.safe.safeIn := by
  have hl (r : Nat) : (logFault cause b index r restarts detail s).safe = s.safe := (logFault_only ..).same .safe (by decide)
  unfold safeFault
  split
  · rw [enterSafe_safeIn, hl]
  · rw [hl]

/-! ### Clocks (R445, R446) -/

theorem clockNote_noted (clock : Nat) (restored : Bool) (s : State) : Noted s (clockNote clock restored s) := notice_noted ..

/-- CLKFAIL_BASE and what follows of it in the power registers (R446). -/
def clockLost (k : BitVec 8) (s : State) : State :=
  s.onPwr fun p => { p with clkFails := p.clkFails + 1, clkBaseBad := true, clkBase := k, onBko := p.onBko || decide (k.toNat ≤ 1) }

theorem clockBase_next (k : BitVec 8) (hd : s.sys.dev ≠ .off) :
    exec (.clockBase k) s = .next (safeFault 0x16 .pwr 0xFFFF 0 0x03 s.pm (clockNote k.toNat false (clockLost k s))) := if_neg hd

theorem clockBase_safe (k : BitVec 8) (ha : safeAllowed s = true) :
    ∃ t, exec (.clockBase k) s = .next t ∧ Entered .safe s.sys.dev 0x16 t ∧
      t.pwr = { s.pwr with clkFails := s.pwr.clkFails + 1, clkBaseBad := true, clkBase := k, onBko := s.pwr.onBko || decide (k.toNat ≤ 1) } := by
  have hn := clockNote_noted k.toNat false (clockLost k s)
  have hd : (clockNote k.toNat false (clockLost k s)).sys.dev = s.sys.dev := hn.dev
  have he := safeFault_entered 0x16 .pwr 0xFFFF 0 0x03 s.pm ((safeAllowed_of_dev hd).trans ha)
  rw [hd] at he
  have hp : (clockNote k.toNat false (clockLost k s)).pwr = (clockLost k s).pwr := hn.same .pwr (by decide)
  exact ⟨_, clockBase_next k (ne_off_of_safeAllowed ha), he, ((safeFault_only ..).same .pwr (by decide)).trans hp⟩

theorem clockBase_logged (k : BitVec 8) (ha : safeAllowed s = false) (ho : s.sys.dev ≠ .off) :
    ∃ t, exec (.clockBase k) s = .next t ∧ Noted (clockLost k s) t ∧ Logged 0x16 0xFFFF t := by
  have hn := clockNote_noted k.toNat false (clockLost k s)
  have hs := safeFault_noted 0x16 .pwr 0xFFFF 0 0x03 s.pm ((safeAllowed_of_dev (s := s) hn.dev).trans ha)
  exact ⟨_, clockBase_next k ho, hn.trans hs.1, hs.2⟩

theorem clockBaseRestored_ended (hb : s.pwr.clkBaseBad = true) :
    ∃ t, exec .clockBaseRestored s = .next t ∧ Noted (s.onPwr fun p => { p with clkBaseBad := false, onBko := false }) t ∧ Ended 0x16 0xFFFF s t := by
  have hn := clockNote_noted s.pwr.clkBase.toNat true (s.onPwr fun p => { p with clkBaseBad := false, onBko := false })
  have hl : (clockNote s.pwr.clkBase.toNat true (s.onPwr fun p => { p with clkBaseBad := false, onBko := false })).pd0.faultLog = s.pd0.faultLog :=
    congrArg Pd0St.faultLog ((clockNote_only ..).same .pd0 (by decide))
  have hp : (clockNote s.pwr.clkBase.toNat true (s.onPwr fun p => { p with clkBaseBad := false, onBko := false })).pm = s.pm :=
    (clockNote_only ..).same .pm (by decide)
  exact ⟨_, if_pos hb, hn.trans (endFault_noted ..), (endFault_ended ..).of_eq hl hp⟩

theorem pllRelock_locks {el : Element} (hb : (elemOf s el).clockBad = true) (ht : (elemOf s el).relockAt ≤ s.pm) :
    ∃ t, exec (.pllRelock el true) s = .next t ∧ Noted (modElem el (fun x => { x with clockBad := false }) s) t :=
  ⟨_, if_pos ⟨hb, ht⟩, clockNote_noted ..⟩

/-! ### COAST (R25, R425) -/

theorem coastExpired_safe {e t0 : Nat} (he : e = edgeOf (coastEnd s + 3999)) (h0 : t0 = (if e < coastEnd s then e + 40000 else e))
    (hd : s.sys.dev = .coast) (hc : coastEnd s ≤ s.pm) (hu : allClean (if t0 < coastEnd s + 4000 then cleanFrames t0 s else s) = false) :
    ∃ t, exec .coastExpired s = .next t ∧ Entered .safe .coast 0x18 t := by
  subst he h0
  let u := asAt (coastEnd s) (safeFault 0x18 .safe 0xFFFF 0 s.sys.coastCause (coastEnd s)) s
  have hx : exec .coastExpired s = .next (if s.sys.coastCause = 0x01 ∧ s.sec.image[(1 : Fin 5)].trial then
      rejectBank 1 (u.onSec fun v => { v with activation := none }) else u) := if_pos ⟨hd, hc, by simp [hu]⟩
  have ha : safeAllowed { s with pm := coastEnd s } = true := by simp [safeAllowed, hd]
  have hs := safeFault_entered 0x18 .safe 0xFFFF 0 s.sys.coastCause (coastEnd s) ha
  rw [show ({ s with pm := coastEnd s } : State).sys.dev = .coast from hd] at hs
  have hu : Entered .safe .coast 0x18 u := ⟨hs.1, hs.2.1, hs.2.2⟩
  exact ⟨_, hx, Entered.ite (rejectBank_entered 1 (hu.ofOnly (State.onSec_only ..))) hu⟩

/-! ### The safe input (R431) -/

/-- SAFE_IN active: the hardware path has acted. -/
def safeInPath (s : State) : State := gatesOff (valvesCut s.pm (s.onSafe fun v => { v with safeIn := true }))

theorem safeInPath_only (s : State) : Only [.sys, .pd0, .host, .map, .vdr, .pwu] (s.onSafe fun v => { v with safeIn := true }) (safeInPath s) :=
  ((Only.refl _ _).andThen (valvesCut_only ..) (by decide)).andThen (gatesOff_only _) (by decide)

theorem safeInPath_dev (s : State) : (safeInPath s).sys.dev = s.sys.dev := by
  have h : Entered s.sys.dev s.sys.prev s.sys.cause (s.onSafe fun v => { v with safeIn := true }) := ⟨rfl, rfl, rfl⟩
  exact ((valvesCut_entered s.pm h).ofOnly (gatesOff_only _)).1

theorem safeIn_next (he : safeInEn s = true) (hd : s.sys.dev ≠ .off) :
    exec .safeIn s = .next (if s.sys.dev = .start then
        logFault 0x19 .safe 0xFFFF reactSafe 0 0 ((safeInPath s).onSafe fun v => { v with safeInStart := true })
      else safeFault 0x19 .safe 0xFFFF 0 0 s.pm (safeInPath s)) := if_pos ⟨he, hd⟩

theorem safeIn_safe (he : safeInEn s = true) (ha : safeAllowed s = true) :
    ∃ t, exec .safeIn s = .next t ∧ Entered .safe s.sys.dev 0x19 t ∧ t.safe.safeIn = true := by
  have hs := safeFault_entered 0x19 .safe 0xFFFF 0 0 s.pm ((safeAllowed_of_dev (safeInPath_dev s)).trans ha)
  rw [safeInPath_dev] at hs
  have hi : (safeInPath s).safe.safeIn = true := congrArg SafeSt.safeIn ((safeInPath_only s).same .safe (by decide))
  refine ⟨_, (safeIn_next he (ne_off_of_safeAllowed ha)).trans (congrArg _ (if_neg (ne_start_of_safeAllowed ha))), hs, ?_⟩
  rw [safeFault_safeIn, hi]

theorem safeIn_start (he : safeInEn s = true) (hd : s.sys.dev = .start) :
    ∃ t, exec .safeIn s = .next t ∧ Noted ((safeInPath s).onSafe fun v => { v with safeInStart := true }) t ∧ Logged 0x19 0xFFFF t :=
  ⟨_, (safeIn_next he (by simp [hd])).trans (congrArg _ (if_pos hd)), logFault_noted .., logFault_logged ..⟩

theorem safeIn_logged (he : safeInEn s = true) (hd : s.sys.dev = .quarantine ∨ s.sys.dev = .safe ∨ s.sys.dev = .latched) :
    ∃ t, exec .safeIn s = .next t ∧ Noted (safeInPath s) t ∧ Logged 0x19 0xFFFF t := by
  have hs := safeFault_noted 0x19 .safe 0xFFFF 0 0 s.pm ((safeAllowed_of_dev (safeInPath_dev s)).trans (safeAllowed_eq_false hd))
  have ho : s.sys.dev ≠ .off ∧ s.sys.dev ≠ .start := by rcases hd with h | h | h <;> simp [h]
  exact ⟨_, (safeIn_next he ho.1).trans (congrArg _ (if_neg ho.2)), hs.1, hs.2⟩

theorem safeInRelease_ended (hi : s.safe.safeIn = true) :
    ∃ t, exec .safeInRelease s = .next t ∧ Noted (s.onSafe fun v => { v with safeIn := false }) t ∧ Ended 0x19 0xFFFF s t :=
  ⟨_, if_pos hi, endFault_noted .., (endFault_ended 0x19 0xFFFF (s.onSafe fun v => { v with safeIn := false })).of_eq rfl rfl⟩

/-! ### Bus-off of the row bus (R429) -/

theorem rowBusoff_due {t0 : Nat} (h0 : s.can.graceFrom = some t0) (ht : t0 + rowGrace s ≤ s.pm) :
    exec .rowBusoffGraceExpiry s = .next (if s.can.ctl[(1 : Fin 3)].st = .active then s.onCan fun v => { v with graceFrom := none }
      else safeFault 0x1C .can 1 0 0x03 s.pm (s.onCan fun v => { v with graceFrom := none })) := by
  change execRowBusoffGraceExpiry s = _
  simp only [execRowBusoffGraceExpiry, h0]
  rw [if_pos ht]
  split <;> rfl

theorem rowBusoff_back {t0 : Nat} (h0 : s.can.graceFrom = some t0) (ht : t0 + rowGrace s ≤ s.pm) (ha : s.can.ctl[(1 : Fin 3)].st = .active) :
    exec .rowBusoffGraceExpiry s = .next (s.onCan fun v => { v with graceFrom := none }) :=
  (rowBusoff_due h0 ht).trans (congrArg _ (if_pos ha))

theorem rowBusoff_safe {t0 : Nat} (h0 : s.can.graceFrom = some t0) (ht : t0 + rowGrace s ≤ s.pm) (hn : s.can.ctl[(1 : Fin 3)].st ≠ .active)
    (ha : safeAllowed s = true) : ∃ t, exec .rowBusoffGraceExpiry s = .next t ∧ Entered .safe s.sys.dev 0x1C t := by
  have h : safeAllowed (s.onCan fun v => { v with graceFrom := none }) = true := ha
  have he := safeFault_entered 0x1C .can 1 0 0x03 s.pm h
  exact ⟨_, (rowBusoff_due h0 ht).trans (congrArg _ (if_neg hn)), he⟩

theorem rowBusoff_logged {t0 : Nat} (h0 : s.can.graceFrom = some t0) (ht : t0 + rowGrace s ≤ s.pm) (hn : s.can.ctl[(1 : Fin 3)].st ≠ .active)
    (ha : safeAllowed s = false) :
    ∃ t, exec .rowBusoffGraceExpiry s = .next t ∧ Noted (s.onCan fun v => { v with graceFrom := none }) t ∧ Logged 0x1C 1 t := by
  have h : safeAllowed (s.onCan fun v => { v with graceFrom := none }) = false := ha
  have hs := safeFault_noted 0x1C .can 1 0 0x03 s.pm h
  exact ⟨_, (rowBusoff_due h0 ht).trans (congrArg _ (if_neg hn)), hs.1, hs.2⟩

/-- Settles O16, row by row. -/
theorem clockAndSafetyEventsExecute : Obligations.ClockAndSafetyEventsExecute := by
  refine ⟨?baseSafe, ?baseLogged, ?baseBack, ?locked, ?notLocked, ?coastExpired, ?restarted, ?safeInSafe, ?safeInStart, ?safeInLogged,
    ?safeInRelease, ?busBack, ?busSafe, ?busLogged⟩
  case baseSafe => exact fun k s => clockBase_safe k
  case baseLogged => exact fun k s => clockBase_logged k
  case baseBack => exact fun s => clockBaseRestored_ended
  case locked => exact fun el s => pllRelock_locks
  case notLocked => exact fun el s hb ht => if_pos ⟨hb, ht⟩
  case coastExpired => exact fun e t0 s => coastExpired_safe
  case restarted => exact fun el s hr hc => if_pos ⟨hr, by simp [hc]⟩
  case safeInSafe => exact fun s => safeIn_safe
  case safeInStart => exact fun s => safeIn_start
  case safeInLogged => exact fun s => safeIn_logged
  case safeInRelease => exact fun s => safeInRelease_ended
  case busBack => exact fun t0 s => rowBusoff_back
  case busSafe => exact fun t0 s => rowBusoff_safe
  case busLogged => exact fun t0 s => rowBusoff_logged

end Sys2Proof.Machine
end

section
/-! PROOFS. A failed check of an element restarts it through COAST (R424, R425, R445), and what it leaves of the frame (R17). -/

namespace Sys2Proof.Machine

variable {s t : State}

/-- What R423 to R427 ask of the device before it coasts for an element: the driven states or STANDBY, a restart left in
its window, SAFE_IN inactive, the supply in its range and the dies cool. -/
structure Coasts (el : Element) (s : State) : Prop where
  dev : s.sys.dev = .standby ∨ s.sys.dev = .armed ∨ s.sys.dev = .manual
  restarts : restartsInWindow s el < restartLimit s
  safeIn : s.safe.safeIn = false
  supply : vbatOperating s = true
  dies : diesCool s = true

theorem elementFault_coast {el : Element} (cause : Nat) (b : Block) (h : Coasts el s) :
    Entered .coast s.sys.dev cause (elementFault el cause b s) := by
  obtain ⟨hd, hr, hs, hv, hc⟩ := h
  have hcond : (!decide (restartLimit s ≤ restartsInWindow s el) && !s.safe.safeIn && vbatOperating s && diesCool s) = true := by
    simp [hr, hs, hv, hc]
  have hne : s.sys.dev ≠ .coast := by rcases hd with h | h | h <;> simp [h]
  have h1 : Entered s.sys.dev s.sys.prev s.sys.cause (cancelActivation (beginRestart el cause
      (logFault cause b (elemIx el).val reactCoast (restartsInWindow s el + 1) 0 s))) :=
    cancelActivation_entered (beginRestart_entered el cause (logFault_entered _ _ _ _ _ _ (Entered.here s)))
  have h2 := enterCoast_entered cause (cancelActivation (beginRestart el cause
    (logFault cause b (elemIx el).val reactCoast (restartsInWindow s el + 1) 0 s)))
  rw [h1.1] at h2
  unfold elementFault
  extract_lets ix n beyond code detail
  have hb : (!beyond && !s.safe.safeIn && vbatOperating s && diesCool s) = true := hcond
  rcases hd with h | h | h <;> simp only [h, if_pos hb] at h2 ⊢ <;> simpa using h2

theorem Coasts.ne_off {el : Element} (h : Coasts el s) : s.sys.dev ≠ .off := by
  rcases h.dev with h | h | h <;> simp [h]

/-- The counts and notices of a failed clock leave what decides on COAST. -/
theorem Coasts.of_only {el : Element} (h : Coasts el s) (o : Only [.free, .sys, .pwr, .host] s t) (hd : t.sys.dev = s.sys.dev)
    (hl : t.pwr.lowSupply = s.pwr.lowSupply) (h36 : t.pwr.over36 = s.pwr.over36) : Coasts el t := by
  have hact : t.act = s.act := o.same .act (by decide)
  have hsafe : t.safe = s.safe := o.same .safe (by decide)
  have hths : t.ths = s.ths := o.same .ths (by decide)
  have hpm : t.pm = s.pm := o.same .pm (by decide)
  obtain ⟨h1, h2, h3, h4, h5⟩ := h
  have hr : restartsInWindow t el = restartsInWindow s el := by
    unfold restartsInWindow restartWindow elemOf
    rw [hact, hsafe, hpm]
  have hm : restartLimit t = restartLimit s := by
    unfold restartLimit
    rw [hact]
  have hv : vbatOperating t = vbatOperating s := by
    unfold vbatOperating
    rw [hl, h36]
  have hc : diesCool t = diesCool s := by
    unfold diesCool shutdownAt
    rw [hact, hths]
  exact ⟨hd ▸ h1, hr ▸ hm ▸ h2, hsafe ▸ h3, hv.trans h4, hc.trans h5⟩

theorem clockElement_coast {el : Element} (h : Coasts el s) :
    ∃ t, exec (.clockElement el) s = .next t ∧ Entered .coast s.sys.dev 0x15 t := by
  let d := drawFree s
  let s1 := d.1.onPwr fun p => { p with clkFails := p.clkFails + 1, stallErr := p.stallErr + BitVec.ofNat 32 (Config.freeNat d.2) }
  let s2 := notice .pwr 0x02 0xFFFF [] (clockNote (clockOf el) false s1)
  have hx : exec (.clockElement el) s = .next (modElem el (fun x => { x with clockBad := true, relockAt := s.pm }) (elementFault el 0x15 .pwr s2)) :=
    if_neg h.ne_off
  have hn : Noted s1 s2 := (notice_noted ..).trans (notice_noted ..)
  have o : Only [.free, .sys, .pwr, .host] s s2 :=
    ((((Only.refl _ s).andThen (drawFree_only s) (by decide)).andThen (State.onPwr_only ..) (by decide)).andThen (notice_only ..) (by decide)).andThen
      (notice_only ..) (by decide)
  have hp : s2.pwr = s1.pwr := hn.same .pwr (by decide)
  have hd : s2.sys.dev = s.sys.dev := hn.dev
  have he := elementFault_coast 0x15 .pwr (h.of_only o hd (hp ▸ rfl) (hp ▸ rfl))
  rw [hd] at he
  exact ⟨_, hx, he.ofOnly (State.onSafe_only ..)⟩

/-! ### A fault of the field lanes drops their frame (R17) -/

/-- The lanes hold no frame and no batch. -/
def NoFrame (s : State) : Prop := s.fe.work = none ∧ s.fe.batch = none

theorem NoFrame.ofOnly {l : List Part} (h : NoFrame s) (o : Only l s t) (hl : Part.fe ∉ l := by decide) : NoFrame t := by
  have e : t.fe = s.fe := o.same .fe hl
  unfold NoFrame
  rwa [e]

theorem beginRestart_field_noFrame (cause : Nat) (s : State) : NoFrame (beginRestart .field cause s) := by
  unfold beginRestart
  extract_lets s1
  have h1 : NoFrame (resetElement .field s1) := ⟨rfl, rfl⟩
  exact (h1.ofOnly (flushCrossing_only ..)).ofOnly (trialRestart_only ..)

theorem elementFault_field_noFrame (cause : Nat) (b : Block) (h : NoFrame s) : NoFrame (elementFault .field cause b s) := by
  unfold elementFault
  extract_lets ix n beyond code detail r c
  split
  · exact h
  · have h1 : NoFrame r := (h.ofOnly (logFault_only ..)).ofOnly (failSelftest_only ..)
    split
    · exact beginRestart_field_noFrame ..
    · exact h1
  · exact beginRestart_field_noFrame ..
  · exact beginRestart_field_noFrame ..
  · exact beginRestart_field_noFrame ..
  case h_9 =>
    split
    · exact beginRestart_field_noFrame ..
    · exact beginRestart_field_noFrame ..
  all_goals
    split
    · have h1 : NoFrame c := beginRestart_field_noFrame ..
      have h2 : NoFrame (enterCoast cause (cancelActivation c)) := (h1.ofOnly (cancelActivation_only ..)).ofOnly (enterCoast_only ..)
      split
      · exact h1
      · exact h2
    · exact beginRestart_field_noFrame ..

/-- Where the lanes worked on the frame of `e`, its end leaves them without it. -/
theorem laneEnd_noFrame {e : Tick} (h : feWorks s e = true) : NoFrame (laneEnd e s) := by
  unfold laneEnd
  rw [if_pos h]
  exact elementFault_field_noFrame (s := { s.onFe (fun f => { f with batch := none, work := none }) with pm := e + 36000 }) 0x11 .fe ⟨rfl, rfl⟩

end Sys2Proof.Machine
end

section
/-! PROOFS. Port events under their conditions (R354, R360 to R363, R371, R373, R379). -/

namespace Sys2Proof.Machine

variable {s t : State} {p : Port}

theorem portIx_injective : Function.Injective portIx := by
  intro p q
  cases p <;> cases q <;> decide

theorem portOf_modPort_of_ne {q : Port} (f : PortSt → PortSt) (s : State) (h : q ≠ p) : portOf (modPort p f s) q = portOf s q := by
  have hi : (portIx p).val ≠ (portIx q).val := fun e => h (portIx_injective (Fin.ext e)).symm
  simp [portOf, modPort, vmod, Vector.getElem_set_ne, hi]

theorem badHeader_counted (hp : portListens s p = true) :
    ∃ t, exec (.badHeader p) s = .next t ∧ Noted (modPort p (fun q => { q with badHeader := q.badHeader + 1 }) s) t :=
  ⟨_, congrArg Host.Outcome.next (if_pos hp), notice_noted ..⟩

/-! ### Notice envelopes (R361, R362) -/

/-- The port after its next notice envelope `o` has gone. -/
def noticesSent (o : OutEnv) (r : List Notice × Nat × Bool) (q : PortSt) : PortSt :=
  let q1 : PortSt := match q.session with
    | some x => if r.2.2 then countSealed x 1 (q.send [o.frank x x.txCount]) else q.send [o]
    | none => q.send [o]
  { q1 with notices := q.notices.drop r.2.1, noticesLost := 0, noticeCredits := q.noticeCredits - 1, outSeq := q.outSeq + 1 }

/-- With nothing but telemetry in the path, what is sent goes first. -/
theorem send_out {q : PortSt} (o : OutEnv) (h : q.out.all (fun o => o.body.telemetric) = true) : (q.send [o]).out = o :: q.out := by
  have ht : q.out.takeWhile (fun o => !o.body.telemetric) = [] := by
    cases hq : q.out with
    | nil => rfl
    | cons x l => rw [hq] at h; simp_all
  have hd : q.out.dropWhile (fun o => !o.body.telemetric) = q.out := by
    have := List.takeWhile_append_dropWhile (p := fun o : OutEnv => !o.body.telemetric) (l := q.out)
    rwa [ht] at this
  simp [PortSt.send, ht, hd]

/-- A seal changes neither opcode nor number nor body. -/
theorem noticesSent_out (o : OutEnv) (r : List Notice × Nat × Bool) {q : PortSt} (h : q.out.all (fun o => o.body.telemetric) = true) :
    ∃ o', (noticesSent o r q).out = o' :: q.out ∧ o'.opcode = o.opcode ∧ o'.seq = o.seq ∧ o'.body = o.body := by
  unfold noticesSent
  cases hs : q.session with
  | none => exact ⟨o, send_out o h, rfl, rfl, rfl⟩
  | some x =>
    cases hr : r.2.2 with
    | false => exact ⟨o, send_out o h, rfl, rfl, rfl⟩
    | true => exact ⟨o.frank x x.txCount, send_out _ h, rfl, rfl, rfl⟩

theorem noticeEnvelope_sent (hl : portListens s p = true) (hc : 0 < (portOf s p).noticeCredits)
    (hn : (portOf s p).notices ≠ [] ∨ (portOf s p).noticesLost ≠ 0) (ho : (portOf s p).out.all (fun o => o.body.telemetric) = true) :
    ∃ t, exec (.noticeEnvelope p) s = .next t ∧ Only [.host] s t ∧ (∀ q, q ≠ p → portOf t q = portOf s q) ∧
      (portOf t p).notices = (portOf s p).notices.drop (nextRecords s p).2.1 ∧ (portOf t p).noticesLost = 0 ∧
      (portOf t p).noticeCredits = (portOf s p).noticeCredits - 1 ∧ (portOf t p).outSeq = (portOf s p).outSeq + 1 ∧
      ∃ o, (portOf t p).out = o :: (portOf s p).out ∧ o.opcode = 0x00F0 ∧ o.seq = (portOf s p).outSeq ∧ o.body = .notices (nextRecords s p).1 := by
  let o : OutEnv := { opcode := 0x00F0, seq := (portOf s p).outSeq, body := .notices (nextRecords s p).1 }
  refine ⟨modPort p (noticesSent o (nextRecords s p)) s, if_pos ⟨hl, hc, hn, ho⟩, modPort_only_host .., fun q hq => portOf_modPort_of_ne _ _ hq, ?_⟩
  rw [portOf_modPort]
  exact ⟨rfl, rfl, rfl, rfl, noticesSent_out o _ ho⟩

/-! ### The link (R371) -/

/-- The window has closed on a device that LINK_SAFE does not stop, or that does not drive. -/
theorem linkLost_logged (hl : portListens s p = true) (ha : (portOf s p).linkArmed = true) (hn : (portOf s p).linkLost = false)
    (ht : (portOf s p).linkFrom + linkTimeout s p ≤ s.pm)
    (hd : linkSafe s p = false ∨ s.sys.dev ∉ [.armed, .manual, .coast] ∨
      (s.sys.dev = .coast ∧ s.sys.coastFromArmed = false ∧ s.sys.coastFromManual = false)) :
    ∃ t, exec (.linkLost p) s = .next t ∧ Noted (modPort p (fun q => { q with linkLost := true }) s) t ∧ Logged 0x1A (portIx p).val t := by
  let s1 := hostNote p 0x05 (modPort p (fun q => { q with linkLost := true }) s)
  have hdrive : (linkSafe s p && (s.sys.dev == .armed || s.sys.dev == .manual ||
      (s.sys.dev == .coast && (s.sys.coastFromArmed || s.sys.coastFromManual)))) = false := by
    rcases hd with h | h | ⟨h, h1, h2⟩
    · simp [h]
    · simp only [List.mem_cons, List.not_mem_nil, or_false, not_or] at h
      simp [h.1, h.2.1, h.2.2]
    · simp [h, h1, h2]
  have hx : exec (.linkLost p) s = .next (logFault 0x1A .host (portIx p).val reactReport 0 0x05 s1) := by
    refine (if_pos ⟨hl, ha, by simp [hn], ht⟩).trans (congrArg Host.Outcome.next (if_neg ?_))
    simp [hdrive]
  exact ⟨_, hx, (notice_noted ..).trans (logFault_noted ..), logFault_logged ..⟩

/-! ### What waits for a reply to leave (R373, R379) -/

theorem pbHostApply_applies {img : Nat} (hw : s.host.applyWait = some (p, img)) (hg : replyGone s p 0x0102 = true) :
    exec .pbHostApply s = .next (putActive .host img (s.onHost fun h => { h with applyWait := none })) := by
  change execPbHostApply s = _
  simp only [execPbHostApply, hw]
  exact if_pos hg

theorem resetAfterReply_starts (hw : s.host.resetWait = some p) (hd : s.sys.dev = .quarantine) (hg : replyGone s p 0x0008 = true)
    (he : s.running = false ∨ s.pm % 40000 = 0) :
    ∃ t, exec .resetAfterReply s = .next t ∧ Entered .start .quarantine 0x01 t ∧ t.running = false ∧ t.pwr.startCause = 3 ∧
      t.pd0.bootCount = s.pd0.bootCount + 1 ∧ t.act = s.nor.params ∧ t.shd = s.nor.params ∧ t.host = {} ∧ t.pending = s.pending := by
  refine ⟨startState .quarantine 0x01 3 s, ?_, startState_entered .., rfl, rfl, rfl, rfl, rfl, rfl, rfl⟩
  change execResetAfterReply s = _
  simp only [execResetAfterReply, hw]
  exact if_pos ⟨hd, hg, by simpa using he⟩

/-! ### Requests of no opcode (R375) -/

theorem badOpcode_answers {op : BitVec 16} {e : Env} {n : Nat} (h : Accepted op e n s) (ho : opInfo op = none) :
    exec (.badOpcode op e) s = .next (finish op e n s fun u => (u, { status := .badOpcode })) := by
  have hi : interpret op e (admitted e n s) = (admitted e n s, { status := .badOpcode }) := by
    simp only [interpret, ho]
    rfl
  change Host.Outcome.next (receive op e s) = _
  rw [receive_accepted h, runRequest, finish]
  simp only [hi]

/-! ### Sessions (R410) -/

theorem Noted.session (h : Noted s t) (q : Port) : (portOf t q).session = (portOf s q).session := by rw [h.port q]

theorem closeSession_session (p : Port) (s : State) (q : Port) :
    (portOf (closeSession p s) q).session = if q = p then none else (portOf s q).session := by
  have hm : (portOf (modPort p (fun q => { q with session := none }) s) q).session = if q = p then none else (portOf s q).session := by
    split
    · next h => rw [h, portOf_modPort]
    · next h => rw [portOf_modPort_of_ne _ _ h]
  unfold closeSession
  split
  · next h =>
    split
    · next hq => rw [hq, h]
    · rfl
  · extract_lets s1 debug
    have h1 : (portOf s1 q).session = (portOf (modPort p (fun q => { q with session := none }) s) q).session := (notice_noted ..).session q
    split
    · exact ((notice_noted ..).session q).trans (h1.trans hm)
    · exact h1.trans hm

/-- What is left of a port's session at `now`: a service session ends four hours after it opened. -/
def sessionLeft (now : Tick) (x : Option Session) : Option Session :=
  x.filter fun x => !(x.service.isSome && decide (x.opened + 1152000000000 ≤ now))

theorem sessionLeft_some (now : Tick) (x : Session) :
    sessionLeft now (some x) = if x.service.isSome && decide (x.opened + 1152000000000 ≤ now) then none else some x := by
  rw [sessionLeft, Option.filter_some]
  cases x.service.isSome && decide (x.opened + 1152000000000 ≤ now) <;> rfl

/-- The expiry of one port's session. -/
def expireSession (t : State) (p : Port) : State := match (portOf t p).session with
  | some x => if x.service.isSome && decide (x.opened + 1152000000000 ≤ t.pm) then closeSession p t else t
  | none => t

theorem expireSession_pm (t : State) (p : Port) : (expireSession t p).pm = t.pm := by
  unfold expireSession
  split
  · exact (Only.ite (closeSession_only ..) (Only.refl ..)).same .pm (by decide)
  · rfl

theorem expireSession_session (t : State) (p q : Port) :
    (portOf (expireSession t p) q).session = if q = p then sessionLeft t.pm (portOf t p).session else (portOf t q).session := by
  unfold expireSession
  split
  · next x hx =>
    rw [hx, sessionLeft_some]
    by_cases hc : x.service.isSome && decide (x.opened + 1152000000000 ≤ t.pm)
    · rw [if_pos hc, if_pos hc, closeSession_session]
    · rw [if_neg hc, if_neg hc]
      split
      · next h => rw [h, hx]
      · rfl
  · next hx =>
    split
    · next h => rw [h, hx]; rfl
    · rfl

theorem serviceSessionExpiry_sessions (s : State) (q : Port) :
    (portOf (allPorts.foldl expireSession s) q).session = sessionLeft s.pm (portOf s q).session := by
  simp only [allPorts, List.foldl_cons, List.foldl_nil, expireSession_session, expireSession_pm]
  cases q <;> simp

theorem serviceSessionExpiry_ends (s : State) :
    ∃ t, exec .serviceSessionExpiry s = .next t ∧ ∀ p, ((portOf s p).session = none → (portOf t p).session = none) ∧
      ∀ x, (portOf s p).session = some x → (portOf t p).session = if x.service.isSome ∧ x.opened + 1152000000000 ≤ s.pm then none else some x := by
  refine ⟨allPorts.foldl expireSession s, rfl, fun p => ⟨fun h => ?_, fun x h => ?_⟩⟩
  · rw [serviceSessionExpiry_sessions, h]
    rfl
  · rw [serviceSessionExpiry_sessions, h, sessionLeft_some]
    simp only [Bool.and_eq_true, decide_eq_true_eq]

end Sys2Proof.Machine
end

section
/-! PROOFS. The phases of the frame under their conditions (R15, R17, R35). -/

namespace Sys2Proof.Machine

variable {s t : State}

/-! ### The end of a frame keeps the system registers but for the limiter -/

theorem eccWord_limiterOnly (x : EccIn) (s : State) : LimiterOnly s (eccWord x s) := by
  unfold eccWord
  refine LimiterOnly.ite ?_ ?_
  · extract_lets s1
    have h1 : LimiterOnly s s1 := (notice_noted .map 0x05 0xFFFF [] (s.onMap fun m => { m with eccCorr := m.eccCorr + 1 })).limiterOnly
    exact LimiterOnly.ite (LimiterOnly.trans (t := s1.onMap _) h1 (retirePage_only x _).limiterOnly) h1
  · extract_lets s1 s2
    have h1 : LimiterOnly s s1 := ((logFault_noted 0x22 .map 0xFFFF reactReport 0 0x06 (s.onMap fun m => { m with eccUnc := m.eccUnc + 1 })).trans
      (notice_noted .map 0x06 0xFFFF (leBytes 4 x.addr.toNat) _)).limiterOnly
    have h2 : LimiterOnly s s2 := h1.trans (retirePage_only ..).limiterOnly
    split
    · exact h2.trans (onSwatch_only ..).limiterOnly
    · exact h2.trans (onTint_only ..).limiterOnly
    · exact h2.trans (startBuild_only _).limiterOnly
    · exact h2
    · exact h2

theorem meetCopied_limiterOnly (s : State) : LimiterOnly s (meetCopied s) := by
  unfold meetCopied meetErrors
  extract_lets hits
  split
  · rfl
  · exact LimiterOnly.trans (t := s.onMap _) rfl (LimiterOnly.foldl (fun t x => eccWord_limiterOnly x t) ..)

theorem poolLow_limiterOnly (s : State) : LimiterOnly s (poolLow s) := by
  unfold poolLow
  extract_lets now s1
  have h1 : LimiterOnly s s1 := rfl
  exact LimiterOnly.ite (h1.trans (notice_noted ..).limiterOnly) h1

theorem startMigration_limiterOnly (s : State) : LimiterOnly s (startMigration s) := by
  unfold startMigration
  refine LimiterOnly.ite rfl ?_
  split
  · exact LimiterOnly.trans (t := s.onMap _) rfl ((poolLow_limiterOnly _).trans (meetCopied_limiterOnly _))
  · exact LimiterOnly.trans (t := s.onMap _) rfl (meetCopied_limiterOnly _)
  · exact LimiterOnly.trans (t := s.onMap _) rfl (meetCopied_limiterOnly _)
  · rfl

theorem reportCoast_limiterOnly (s : State) : LimiterOnly s (reportCoast s) := by
  unfold reportCoast
  exact LimiterOnly.ite rfl (LimiterOnly.foldl (fun t c => LimiterOnly.ite
    (LimiterOnly.trans (modLsw_only c _ t).limiterOnly (notice_noted ..).limiterOnly) rfl) ..)

theorem activationDone_limiterOnly (s : State) : LimiterOnly s (activationDone s) := by
  unfold activationDone
  repeat' split
  · exact LimiterOnly.trans (t := s.onSec _) rfl (noticeAt_noted ..).limiterOnly
  all_goals rfl

theorem flushNotices_limiterOnly (s : State) : LimiterOnly s (flushNotices s) := by
  unfold flushNotices
  extract_lets due ls
  have h1 : LimiterOnly s (s.onSys fun y => { y with limiter := ls }) := rfl
  exact h1.trans (LimiterOnly.foldl (fun t n => (queueNotice_only n t).limiterOnly) ..)

/-- What LOGGING_PHASE does once the lanes have ended the frame of `e`: the records `rs` to the log, the reports of the
frame, telemetry. -/
def logFrame (e now : Tick) (rs : List (BitVec 256)) (s : State) : State :=
  flushNotices (telemetry e (activationDone (startMigration (reportCoast (eventNotices e (rxNotices now (sendTimeMessages (e + 36000)
    (rs.foldl (fun t r => writeLog r t) s))))))))

theorem logFrame_limiterOnly (e now : Tick) (rs : List (BitVec 256)) (s : State) : LimiterOnly s (logFrame e now rs s) := by
  unfold logFrame
  have h1 : LimiterOnly s (rs.foldl (fun t r => writeLog r t) s) := LimiterOnly.foldl (fun t r => writeLog_limiterOnly r t) ..
  have h2 := ((h1.trans (sendTimeMessages_only (e + 36000) _).limiterOnly).trans (rxNotices_only now _).limiterOnly).trans
    (eventNotices_only e _).limiterOnly
  have h3 := ((h2.trans (reportCoast_limiterOnly _)).trans (startMigration_limiterOnly _)).trans (activationDone_limiterOnly _)
  exact (h3.trans (telemetry_only e _).limiterOnly).trans (flushNotices_limiterOnly _)

theorem logFrame_only (e now : Tick) (rs : List (BitVec 256)) (s : State) :
    Only [.sys, .pd0, .host, .time, .map, .lsw, .can, .pif, .sec] s (logFrame e now rs s) := by
  unfold logFrame
  have h1 : Only [.sys, .pd0, .host, .time, .map, .lsw, .can, .pif, .sec] s (rs.foldl (fun t r => writeLog r t) s) :=
    Only.foldl (fun t r => (Only.refl _ t).andThen (writeLog_only r t) (by decide)) (Only.refl _ s)
  have h2 := ((h1.andThen (sendTimeMessages_only (e + 36000) _) (by decide)).andThen (rxNotices_only now _) (by decide)).andThen
    (eventNotices_only e _) (by decide)
  have h3 := ((h2.andThen (reportCoast_only _) (by decide)).andThen (startMigration_only _) (by decide)).andThen (activationDone_only _) (by decide)
  exact (h3.andThen (telemetry_only e _) (by decide)).andThen (flushNotices_only _) (by decide)

/-! ### The phases -/

theorem frameEdge_freezes {f : Freeze} {e : Nat} {u : State} (he : e = edgeOf s.pm) (hr : s.running = true) (hd : s.sys.dev ≠ .off)
    (hl : ∀ l, s.sys.lastEdge = some l → l < edgeOf s.pm)
    (hu : u = ((toggleFaultOut (trigSource 7 0 e 0 (bkoError (activationEdge e (settleActivation e (edgeStates e ((lastFrameEnd e s).onSys fun y =>
      { y with lastEdge := some e, phase := some .freeze }))))))).onLsw fun v => { v with sel := f.sel })) (hf : framesRun u = true) :
    exec (.frameEdge f) s = .next (freezeFrame e f u) := by
  subst he hu
  exact (if_pos ⟨hr, hd, (edgeFresh_iff s).2 hl⟩).trans (congrArg Host.Outcome.next (if_pos hf))

theorem decisionPhase_batch {e : Nat} {i : ImplSet} (hl : s.sys.lastEdge = some e) (hp : s.sys.phase = some .freeze) (h1 : e + 20000 ≤ s.pm)
    (h2 : s.pm < e + 32000) (hw : feWorks s e = true) (hi : s.impl.active = some i) :
    ∃ t, exec .decisionPhase s = .next t ∧ t.fe.batch = some (formBatch e i (s.onSys fun y => { y with phase := some .decision })).2 ∧
      t.impl = s.impl ∧ t.act = s.act ∧ t.vdr = s.vdr ∧ t.pwu = s.pwu := by
  have o := formBatch_only e i (s.onSys fun y => { y with phase := some .decision })
  have hx : exec .decisionPhase s = .next ((formBatch e i (s.onSys fun y => { y with phase := some .decision })).1.onFe fun f =>
      { f with batch := some (formBatch e i (s.onSys fun y => { y with phase := some .decision })).2 }) := by
    change execDecisionPhase s = _
    simp only [execDecisionPhase, hl, hw, hi]
    exact if_pos ⟨hp, h1, h2⟩
  generalize formBatch e i (s.onSys fun y => { y with phase := some .decision }) = r at o hx ⊢
  exact ⟨_, hx, rfl, o.same .impl (by decide), o.same .act (by decide), o.same .vdr (by decide), o.same .pwu (by decide)⟩

theorem commitPhase_commits {e : Nat} {b : Batch} (hl : s.sys.lastEdge = some e) (hp : s.sys.phase = some .decision) (h1 : e + 32000 ≤ s.pm)
    (h2 : s.pm < e + 36000) (hw : feWorks s e = true) (hb : s.fe.batch = some b) :
    exec (.commitPhase true) s = .next (fieldClean e ((commitBatch b (s.onSys fun y => { y with phase := some .commit })).onFe fun f =>
      { f with work := none })) := by
  change execCommitPhase true s = _
  simp only [execCommitPhase, hl, hb]
  rw [if_pos ⟨hp, h1, h2⟩, if_neg (by simp [hw])]
  rfl

theorem loggingPhase_logs {e : Nat} (hl : s.sys.lastEdge = some e) (hp : s.sys.phase ≠ some .logging) (h1 : e + 36000 ≤ s.pm)
    (h2 : s.pm < e + 40000) :
    ∃ t, exec .loggingPhase s = .next t ∧ t.fe.records = [] ∧ t.sys.phase = some .logging ∧ (feWorks s e = true → t.fe.work = none ∧ t.fe.batch = none) := by
  let u := ((laneEnd e s).onSys fun y => { y with phase := some .logging }).onFe fun f => { f with records := [] }
  have hx : exec .loggingPhase s = .next (logFrame e s.pm s.fe.records u) := by
    change execLoggingPhase s = _
    simp only [execLoggingPhase, hl]
    exact if_pos ⟨hp, h1, h2⟩
  have hf : (logFrame e s.pm s.fe.records u).fe = u.fe := (logFrame_only ..).same .fe (by decide)
  have hs := logFrame_limiterOnly e s.pm s.fe.records u
  refine ⟨_, hx, congrArg FeSt.records hf, ?_, fun hw => ?_⟩
  · rw [hs]
    rfl
  · rw [hf]
    exact laneEnd_noFrame hw

end Sys2Proof.Machine
end

section
/-! PROOFS. START, the converter's conditions and the images under their conditions (R203, R404, R415 to R420, R452, R453, R455). -/

namespace Sys2Proof.Machine

variable {s t : State}

/-! ### START (R417, R452, R453, R455) -/

theorem timeResetRelease_begins (hd : s.sys.dev = .start) (hr : s.running = false) (hb : s.sys.bootStage = 1) :
    ∃ t, exec .timeResetRelease s = .next t ∧ t.running = true ∧ t.pm = 0 ∧ t.sys = { s.sys with bootStage := 2 } ∧
      t.pwr = { s.pwr with domains := s.pwr.domains ||| 0x102 } := by
  let s1 := romSelect s
  let s2 := extend 0 0x01 s1.sec.image[(0 : Fin 5)].run.digest s1
  let s3 : State := { lswTimeBegins s2 with pm := 0, running := true }
  let t := extendOpen 1 0x02 ((s3.onPwr fun p => { p with domains := p.domains ||| 0x102 }).onSys fun y => { y with bootStage := 2 })
  have hx : exec .timeResetRelease s = .next t := if_pos ⟨hd, by simp [hr], hb⟩
  have o : Only [.sec, .lsw] s (lswTimeBegins s2) :=
    (((Only.refl _ s).andThen (romSelect_only s) (by decide)).andThen (extend_only ..) (by decide)).andThen (lswTimeBegins_only _) (by decide)
  have hs : (lswTimeBegins s2).sys = s.sys := o.same .sys (by decide)
  have hp : (lswTimeBegins s2).pwr = s.pwr := o.same .pwr (by decide)
  have k := extendOpen_only 1 0x02 ((s3.onPwr fun p => { p with domains := p.domains ||| 0x102 }).onSys fun y => { y with bootStage := 2 })
  refine ⟨t, hx, k.same .running (by decide), k.same .pm (by decide), (k.same .sys (by decide)).trans ?_, (k.same .pwr (by decide)).trans ?_⟩
  · exact congrArg (fun y : SysSt => { y with bootStage := 2 }) hs
  · exact congrArg (fun p : PwrSt => { p with domains := p.domains ||| 0x102 }) hp

/-- The banks of every image as IMAGE_SET_SELECT judges them (R415). -/
def judged (v0 v1 : Vector BankVerdict 5) (s : State) : State := s.onSec fun c => { c with image := vmapIdx c.image fun i m =>
  { m with bank0 := verdict s i m m.bank0 v0[i], bank1 := verdict s i m m.bank1 v1[i] } }

theorem runSet_limiterOnly (c : List Bool) (s : State) : LimiterOnly s (runSet c s) := by
  unfold runSet
  extract_lets same s1 s2 s3
  have h2 : LimiterOnly s1 s2 := by
    refine LimiterOnly.foldl (fun t i => ?_) ..
    extract_lets b t1 t2
    have h1 : LimiterOnly t t1 := (modImage_only ..).limiterOnly
    have h2 : LimiterOnly t t2 := LimiterOnly.ite h1 (h1.trans (State.onPd0_only ..).limiterOnly)
    exact LimiterOnly.ite h2 (h2.trans (extend_only ..).limiterOnly)
  have h3 : LimiterOnly s s3 := ((State.onSec_only ..).limiterOnly.trans h2).trans (State.onGnss_only ..).limiterOnly
  exact LimiterOnly.ite h3 (h3.trans (notice_noted ..).limiterOnly)

theorem imageSetSelect_selects {v0 v1 : Vector BankVerdict 5} {c : List Bool} (hd : s.sys.dev = .start) (hr : s.running = true)
    (hb : s.sys.bootStage = 2) (hi : s.sys.imagesOk = false) (hq : s.sys.quarCause = 0) (hc : selectSet (judged v0 v1 s) = some c) :
    ∃ t, exec (.imageSetSelect v0 v1) s = .next t ∧ t.sys.imagesOk = true ∧ Entered .start s.sys.prev s.sys.cause t := by
  let u := (judged v0 v1 s).onSys fun y => { y with imagesOk := true }
  have hx : exec (.imageSetSelect v0 v1) s = .next (extendOpen 6 0x03 (runSet c u)) := by
    have h0 : exec (.imageSetSelect v0 v1) s = _ := if_pos ⟨hd, hr, hb, by simp [hi], hq⟩
    refine h0.trans ?_
    change (match selectSet (judged v0 v1 s) with | some c => _ | none => _) = _
    rw [hc]
    rfl
  have hs : LimiterOnly u (extendOpen 6 0x03 (runSet c u)) := (runSet_limiterOnly c u).trans (extendOpen_only ..).limiterOnly
  have hu : Entered .start s.sys.prev s.sys.cause u := ⟨hd, rfl, rfl⟩
  refine ⟨_, hx, ?_, (runSet_entered c hu).ofOnly (extendOpen_only ..)⟩
  rw [hs]
  rfl

theorem domainPowerUp_powers (hd : s.sys.dev = .start) (hb : s.sys.bootStage = 2) (hi : s.sys.imagesOk = true ∨ s.sys.quarCause = 2)
    (hp : s.sys.powered = false) (hl : s.pd0.latch = none) :
    exec .domainPowerUp s = .next ((s.onSys fun y => { y with powered := true, bootStage := 3, stageAt := s.pm }).onPwr fun p =>
      { p with domains := if s.sys.imagesOk then 0xFFF else 0xD07 }) := by
  change execDomainPowerUp s = _
  simp only [execDomainPowerUp, hl]
  exact if_pos ⟨hd, hb, hi, by simp [hp]⟩

/-- The latch that is set has been reported. -/
theorem reportLatch_latch (s : State) : (reportLatch s).pd0.latch = s.pd0.latch.map fun l => { l with reported := true } := by
  unfold reportLatch
  split
  · next l hl =>
    split
    · next hr => rw [hl, Option.map_some, ← hr]
    · rw [(notice_only ..).same .pd0 (by decide), hl]
      rfl
  · next hl => rw [hl]; rfl

theorem reportLatch_limiterOnly (s : State) : LimiterOnly s (reportLatch s) := by
  unfold reportLatch
  split
  · refine LimiterOnly.ite rfl (LimiterOnly.trans (t := s.onPd0 _) rfl (notice_noted ..).limiterOnly)
  · rfl

theorem hostPortAlive_reports (hp : s.sys.powered = true) (ha : s.sys.hostAlive = false) :
    ∃ t, exec .hostPortAlive s = .next t ∧ t.sys = { s.sys with hostAlive := true, limiter := t.sys.limiter } ∧
      t.pd0.latch = s.pd0.latch.map fun l => { l with reported := true } := by
  let u := startNote (s.onSys fun y => { y with hostAlive := true })
  have hx : exec .hostPortAlive s = .next (bootNote 3 s.sys.stageAt (bootNote 2 0 (bootNote 1 0 (reportLatch u)))) :=
    if_pos ⟨hp, by simp [ha]⟩
  have o : Only [.host] (reportLatch u) (bootNote 3 s.sys.stageAt (bootNote 2 0 (bootNote 1 0 (reportLatch u)))) :=
    (((Only.refl _ _).andThen (bootNote_only 1 0 _) (by decide)).andThen (bootNote_only 2 0 _) (by decide)).andThen
      (bootNote_only 3 s.sys.stageAt _) (by decide)
  have hu : Noted (s.onSys fun y => { y with hostAlive := true }) u := noticeAt_noted ..
  have hs := (hu.limiterOnly.trans (reportLatch_limiterOnly u)).trans o.limiterOnly
  have hl : u.pd0 = s.pd0 := (startNote_only _).same .pd0 (by decide)
  refine ⟨_, hx, hs, ?_⟩
  rw [o.same .pd0 (by decide), reportLatch_latch, hl]

theorem selftestComplete_standby {failed : List Nat} (hd : s.sys.dev = .start) (hp : s.sys.powered = true) (hi : s.sys.imagesOk = true)
    (he : s.pm % 40000 = 0) (hf : s.sys.selftestFail = 0) (hq : failed.filter quarantineTest = []) :
    ∃ t, exec (.selftestComplete failed) s = .next t ∧ Entered .standby .start 0x06 t := by
  let u := s.onPos fun p => { p with selfFail := p.selfFail || failed.contains 0x0C }
  have hx : exec (.selftestComplete failed) s = .next (startComplete u) := by
    change execSelftestComplete failed s = _
    simp only [execSelftestComplete, hf, hq, if_true, List.nil_append]
    exact if_pos ⟨hd, hp, hi, he⟩
  refine ⟨_, hx, ?_⟩
  unfold startComplete
  extract_lets s1 s2
  have h1 : Entered .start s.sys.prev s.sys.cause (feedsUp u.pm s2) :=
    Entered.ofOnly (s := s2) ⟨hd, rfl, rfl⟩ (feedsUp_only ..)
  have h2 := enterStandby_entered 0x06 u.pm (feedsUp u.pm s2)
  rw [h1.1] at h2
  exact h2.ofOnly (bootNote_only ..)

theorem powerDomainSwitch_on {d : Fin 12} (hr : bitN (requiredDomains s) d.val = true) (hd : s.pwr.domains.getLsbD d.val = false) :
    exec (.powerDomainSwitch d true) s = .next (s.onPwr fun p => { p with domains := p.domains ^^^ BitVec.ofNat 12 (2 ^ d.val) }) := 
  if_pos ⟨hr, by rw [hd]; exact Bool.false_ne_true⟩

theorem mapBecomesReady_sys (s : State) :
    LimiterOnly (s.onSys fun y => { y with mapReady := true, dramTest := 100 }) (mapBecomesReady s) := by
  unfold mapBecomesReady
  extract_lets s1
  split
  · exact LimiterOnly.trans (t := s1.onMap _) rfl (writeLog_limiterOnly ..)
  · rfl

theorem dramTestDone_ready {retired : Vector Nat 3} (hb : s.sys.bootStage = 4) (hm : s.sys.mapReady = false) (hd : s.sys.dev ≠ .latched) :
    ∃ t, exec (.dramTestDone retired) s = .next t ∧ t.sys.mapReady = true ∧ t.sys.dramTest = 100 ∧ Entered s.sys.dev s.sys.prev s.sys.cause t := by
  let n := retired[0] + retired[1] + retired[2]
  let s1 := s.onMap fun m => { m with
    cov := retirePages retired[0] m.cov, tint := retirePages retired[1] m.tint, maskPool := retirePages retired[2] m.maskPool }
  let s2 := if n = 0 then s1 else notice .map 0x07 0xFFFF [] s1
  let s3 := if retired[0] > 61 then notice .map 0x0D 0xFFFF [] s2 else s2
  let t := notice .pwr 0x04 0xFFFF (leBytes 4 (satU 16 n)) (mapBecomesReady (poolLow s3))
  have hx : exec (.dramTestDone retired) s = .next t := if_pos ⟨hb, by simp [hm], hd⟩
  have h2 : Entered s.sys.dev s.sys.prev s.sys.cause s2 := Entered.ite ⟨rfl, rfl, rfl⟩ ((notice_noted ..).entered ⟨rfl, rfl, rfl⟩)
  have h3 : Entered s.sys.dev s.sys.prev s.sys.cause s3 := Entered.ite ((notice_noted ..).entered h2) h2
  have hs := (mapBecomesReady_sys (poolLow s3)).trans (notice_noted .pwr 0x04 0xFFFF (leBytes 4 (satU 16 n)) _).limiterOnly
  refine ⟨t, hx, ?_, ?_, (notice_noted ..).entered (mapBecomesReady_entered (poolLow_entered h3))⟩
  · rw [hs]
    rfl
  · rw [hs]
    rfl

/-! ### The converter (R203, R426) -/

theorem boost_faults (hd : s.sys.dev ≠ .off) (hf : s.vdr.conv.fault = false) :
    ∃ t, exec .boost s = .next t ∧ Noted (leaveVbst s s.pm (s.onVdr fun v => { v with conv := { v.conv with
      fault := true, on := false, retryAt := s.pm + 800000000 } })) t ∧ Logged 0x23 0xFFFF t :=
  ⟨_, if_neg (by simp [hd, hf]), logFault_noted .., logFault_logged ..⟩

theorem boostRetry_ends (hf : s.vdr.conv.fault = true) (ht : s.vdr.conv.retryAt ≤ s.pm) :
    ∃ t, exec (.boostRetry true) s = .next t ∧ Noted (syncConv (s.onVdr fun v => { v with conv := { v.conv with fault := false } })) t ∧
      Ended 0x23 0xFFFF s t := by
  have o : Only [.vdr] s (syncConv (s.onVdr fun v => { v with conv := { v.conv with fault := false } })) :=
    ((Only.refl _ s).andThen (State.onVdr_only ..) (by decide)).andThen (syncConv_only _) (by decide)
  exact ⟨_, if_pos ⟨hf, ht⟩, endFault_noted .., (endFault_ended ..).of_eq (congrArg Pd0St.faultLog (o.same .pd0 (by decide))) (o.same .pm (by decide))⟩

theorem boostLimit_sets {mw : Nat} (hl : s.vdr.conv.boostLimit = false) (hm : 40000 * (256 - boostR s) / 256 ≤ mw) :
    ∃ t, exec (.boostLimit mw) s = .next t ∧ Noted (s.onVdr fun v => { v with conv := { v.conv with boostLimit := true } }) t :=
  ⟨_, if_pos ⟨by simp [hl], hm⟩, notice_noted ..⟩

theorem vbstSag_sets {mv : Nat} (hs : s.vdr.conv.sag = false) (hm : mv + 600 < vbstTarget s s.vdr.conv.vbat) :
    ∃ t, exec (.vbstSag mv) s = .next t ∧ Noted (s.onVdr fun v => { v with conv := { v.conv with vbst := mv, sag := true } }) t :=
  ⟨_, if_pos ⟨by simp [hs, sawVbst], hm⟩, notice_noted ..⟩

theorem recoveryDivert_sets {mv : Nat} (hd : s.vdr.conv.divert = false) (hm : vbstTarget s s.vdr.conv.vbat + 600 < mv) :
    ∃ t, exec (.recoveryDivert mv) s = .next t ∧ Noted (s.onVdr fun v => { v with conv := { v.conv with vbst := mv, divert := true } }) t :=
  ⟨_, if_pos ⟨by simp [hd, sawVbst], hm⟩, notice_noted ..⟩

/-- What a measurement of VBAT says of a load dump (R467). -/
theorem loadDumpEnds_noted (mv : Nat) (s : State) : Noted ((s.onVdr fun v => { v with conv := { v.conv with vbat := mv } }).onPwr fun p =>
    { p with loadDump := p.loadDump && decide (3500 < mv), over36 := p.loadDump && decide (3600 < mv) }) (loadDumpEnds mv (sawVbat mv s)) := by
  unfold loadDumpEnds
  split
  · next h =>
    have hl : s.pwr.loadDump = true := h.1
    have e : ((sawVbat mv s).onPwr fun p => { p with loadDump := false, over36 := false }) =
        ((s.onVdr fun v => { v with conv := { v.conv with vbat := mv } }).onPwr fun p =>
          { p with loadDump := p.loadDump && decide (3500 < mv), over36 := p.loadDump && decide (3600 < mv) }) := by
      simp [sawVbat, State.onPwr, State.onVdr, hl, Nat.not_lt.2 h.2, Nat.not_lt.2 (Nat.le_trans h.2 (by decide : 3500 ≤ 3600))]
    rw [← e]
    exact endFault_noted ..
  · next h =>
    have e : sawVbat mv s = ((s.onVdr fun v => { v with conv := { v.conv with vbat := mv } }).onPwr fun p =>
        { p with loadDump := p.loadDump && decide (3500 < mv), over36 := p.loadDump && decide (3600 < mv) }) := by
      have hl : s.pwr.loadDump = (s.pwr.loadDump && decide (3500 < mv)) := by
        cases hl : s.pwr.loadDump with
        | false => rfl
        | true => simpa using Nat.lt_of_not_le fun hm => h ⟨hl, hm⟩
      simp [sawVbat, State.onPwr, State.onVdr, ← hl]
    rw [← e]
    exact Noted.refl _

theorem loadDumpEnds_ended {mv : Nat} (hl : s.pwr.loadDump = true) (hm : mv ≤ 3500) : Ended 0x24 2 s (loadDumpEnds mv (sawVbat mv s)) := by
  unfold loadDumpEnds
  rw [if_pos ⟨hl, hm⟩]
  exact (endFault_ended 0x24 2 _).of_eq rfl rfl

theorem returnSuspended_sets {mv : Nat} (hr : s.vdr.conv.returnSusp = false) (hm : 3600 < mv ∨ returnEn s = false) :
    ∃ t, exec (.returnSuspended mv) s = .next t ∧
      Noted ((s.onVdr fun v => { v with conv := { v.conv with vbat := mv, returnSusp := true } }).onPwr fun p =>
        { p with loadDump := p.loadDump && decide (3500 < mv), over36 := p.loadDump && decide (3600 < mv) }) t ∧
      (s.pwr.loadDump = true → mv ≤ 3500 → Ended 0x24 2 s t) := by
  have hn := loadDumpEnds_noted mv s
  have hv : (loadDumpEnds mv (sawVbat mv s)).vdr.conv.returnSusp = false := by
    rw [hn.same .vdr (by decide)]
    exact hr
  have ha : (loadDumpEnds mv (sawVbat mv s)).act = s.act := hn.same .act (by decide)
  have hm' : 3600 < mv ∨ (!returnEn (loadDumpEnds mv (sawVbat mv s))) = true := by
    unfold returnEn at hm ⊢
    rw [ha]
    simpa using hm
  refine ⟨_, if_pos ⟨by simp [hv], hm'⟩, ?_, fun hl hd => ?_⟩
  · exact (hn.onVdr fun v => { v with conv := { v.conv with returnSusp := true } }).trans (notice_noted ..)
  · have h := loadDumpEnds_ended hl hd
    unfold Ended at h ⊢
    rw [← h, (notice_only ..).same .pd0 (by decide)]
    rfl

/-! ### Images (R404, R415, R418) -/

/-- What an item becomes depends on the change at that item alone. -/
theorem modImage_congr {i : Fin 5} {f g : Image → Image} (s : State) (h : f s.sec.image[i] = g s.sec.image[i]) : modImage i f s = modImage i g s := by
  simp only [modImage, State.onSec, vmod, h]

theorem trialPassed_passes {i : Fin 5} {r : BitVec 4} (ht : s.sec.image[i].trial = true) (hr : trialTicks s ≤ trialRun s i)
    (hk : r = (if s.sec.image[i].run.revokeOther then s.sec.revoked ||| (if s.sec.image[i].run.keyB then 1 else 2) else s.sec.revoked)) :
    ∃ t, exec (.trialPassed i) s = .next t ∧ Noted (((modImage i (fun m => { m.modRun (fun b => { b with passed := true }) with
        floor := max m.floor (min 64 m.run.svn), trialRestarts := 0 }) s).onSec fun v => { v with
      revoked := r, image := vmap v.image (Image.stillVerified r) }).onPd0 fun d => { d with trialRun := d.trialRun.set i 0 }) t := by
  subst hk
  have e := modImage_congr (i := i) (f := fun m => { m.modRun (fun b => { b with passed := true }) with
      floor := max m.floor (min 64 m.run.svn), trialRestarts := 0 })
    (g := fun m => { m.modRun (fun b => { b with passed := true }) with
      floor := max s.sec.image[i].floor (min 64 s.sec.image[i].run.svn), trialRestarts := 0 }) s rfl
  rw [e]
  exact ⟨_, if_pos ⟨ht, hr⟩, notice_noted ..⟩

/-- The status of a verification is OK where the bank is authentic and not older than the floor (R415). -/
theorem verifyStatus_ok (a : Bool) (svn floor : Nat) :
    decide ((if !a then Status.authFail else if svn < floor then .versionMismatch else .ok) = .ok) = decide (a = true ∧ floor ≤ svn) := by
  cases a with
  | false => rfl
  | true =>
    by_cases h : svn < floor
    · simp [h, Nat.not_le.2 h]
    · simp [h, Nat.le_of_not_lt h]

theorem imageVerified_verdict {k : Nat} {i : Fin 5} (hk : s.sec.verifying = some k) (hi : idx? 5 k = some i) :
    ∃ t, exec .imageVerified s = .next t ∧ Noted (modImage i (fun m => m.modOther fun b => { b with
        verified := decide (imageAuthentic s i s.sec.image[i].other = true ∧ s.sec.image[i].floor ≤ s.sec.image[i].other.svn) })
      (s.onSec fun v => { v with verifying := none })) t := by
  rw [← verifyStatus_ok]
  refine ⟨_, ?_, notice_noted .sec 0x01 i.val (leBytes 4 (statusCode (if !imageAuthentic s i s.sec.image[i].other then Status.authFail
    else if s.sec.image[i].other.svn < s.sec.image[i].floor then .versionMismatch else .ok))) _⟩
  change execImageVerified s = _
  simp only [execImageVerified, hk, hi]

end Sys2Proof.Machine
end

section
/-! PROOFS. The device's events under their conditions, each by the lemma of its row. -/

namespace Sys2Proof.Machine

/-- Settles O58, row by row. -/
theorem deviceEventsCompleteUnderTheirConditions : Obligations.DeviceEventsCompleteUnderTheirConditions := by
  refine ⟨?badHeader, ?noticeEnvelope, ?linkLost, ?pbHostApply, ?resetAfterReply, ?badOpcode, ?frameEdge, ?decisionPhase, ?commitPhase,
    ?loggingPhase, ?vkeyHigh, ?vkeyLow, ?keyOffDelayExpiry, ?wakeAlarm, ?vbatStartBand, ?brownOut, ?lowSupply, ?lowSupplyExit, ?powerCycle,
    ?lossOfGround, ?groundRestored, ?reverseBattery, ?loadDump, ?timeResetRelease, ?imageSetSelect, ?domainPowerUp, ?hostPortAlive,
    ?selftestComplete, ?powerDomainSwitch, ?dramTestDone, ?pairCheck, ?ceCheck, ?gnssCheck, ?enclaveCheck, ?clockElement, ?clockBase,
    ?clockBaseRestored, ?pllRelock, ?coastExpired, ?elementRestart, ?safeIn, ?safeInRelease, ?rowBusoff, ?boost, ?boostRetry, ?boostLimit,
    ?vbstSag, ?returnSuspended, ?recoveryDivert, ?activationPrepared, ?trialPassed, ?sessionExpiry, ?tamper, ?imageVerified⟩
  case badHeader => exact fun p s => badHeader_counted
  case noticeEnvelope => exact fun p s => noticeEnvelope_sent
  case linkLost => exact fun p s => linkLost_logged
  case pbHostApply => exact fun p img s => pbHostApply_applies
  case resetAfterReply => exact fun p s => resetAfterReply_starts
  case badOpcode => exact fun op e n s => badOpcode_answers
  case frameEdge => exact fun f e u s => frameEdge_freezes
  case decisionPhase => exact fun e i s => decisionPhase_batch
  case commitPhase => exact fun e b s => commitPhase_commits
  case loggingPhase => exact fun e s => loggingPhase_logs
  case vkeyHigh => exact fun s => vkeyHigh_starts
  case vkeyLow => exact fun s => vkeyLow_completes
  case keyOffDelayExpiry => exact fun t0 s => keyOffDelayExpiry_off
  case wakeAlarm => exact fun t0 s => wakeAlarm_starts
  case vbatStartBand => exact fun s => vbatStartBand_starts
  case brownOut => exact fun s => brownOut_off
  case lowSupply => exact fun s => lowSupply_logged
  case lowSupplyExit => exact fun s => lowSupplyExit_ended
  case powerCycle => exact powerCycle_off
  case lossOfGround => exact fun s => lossOfGround_logged
  case groundRestored => exact fun s hg => if_pos hg
  case reverseBattery => exact reverseBattery_off
  case loadDump => exact fun s => loadDump_logged
  case timeResetRelease => exact fun s => timeResetRelease_begins
  case imageSetSelect => exact fun v0 v1 c s => imageSetSelect_selects
  case domainPowerUp => exact fun s => domainPowerUp_powers
  case hostPortAlive => exact fun s => hostPortAlive_reports
  case selftestComplete => exact fun failed s => selftestComplete_standby
  case powerDomainSwitch => exact fun d s => powerDomainSwitch_on
  case dramTestDone => exact fun retired s => dramTestDone_ready
  case pairCheck => exact fun s hd hr hs hv hc => ⟨_, rfl, elementFault_coast 0x10 .safe ⟨hd, hr, hs, hv, hc⟩⟩
  case ceCheck => exact fun s hd hr hs hv hc => ⟨_, rfl, elementFault_coast 0x12 .ce ⟨hd, hr, hs, hv, hc⟩⟩
  case gnssCheck => exact fun s hd hr hs hv hc => ⟨_, rfl, elementFault_coast 0x13 .gnss ⟨hd, hr, hs, hv, hc⟩⟩
  case enclaveCheck => exact fun s hd hr hs hv hc => ⟨_, rfl, elementFault_coast 0x14 .sec ⟨hd, hr, hs, hv, hc⟩⟩
  case clockElement => exact fun el s hd hr hs hv hc => clockElement_coast ⟨hd, hr, hs, hv, hc⟩
  case clockBase => exact fun k s => clockBase_safe k
  case clockBaseRestored => exact fun s => clockBaseRestored_ended
  case pllRelock => exact fun el s => pllRelock_locks
  case coastExpired => exact fun e t0 s => coastExpired_safe
  case elementRestart => exact fun el s hr hc => if_pos ⟨hr, by simp [hc]⟩
  case safeIn => exact fun s => safeIn_safe
  case safeInRelease => exact fun s => safeInRelease_ended
  case rowBusoff => exact fun t0 s => rowBusoff_back
  case boost => exact fun s => boost_faults
  case boostRetry => exact fun s => boostRetry_ends
  case boostLimit => exact fun mw s => boostLimit_sets
  case vbstSag => exact fun mv s => vbstSag_sets
  case returnSuspended => exact fun mv s => returnSuspended_sets
  case recoveryDivert => exact fun mv s => recoveryDivert_sets
  case activationPrepared => exact fun s => rfl
  case trialPassed => exact fun i r s => trialPassed_passes
  case sessionExpiry => exact serviceSessionExpiry_ends
  case tamper => exact fun s => rfl
  case imageVerified => exact fun k i s => imageVerified_verdict

end Sys2Proof.Machine
end

section
/-! PROOFS. What the operations on GNSS channels, ephemerides and the week leave of the GNSS registers. -/

namespace Sys2Proof.Machine

/-! ### Channels -/

theorem vmod_get {α : Type} {n : Nat} (v : Vector α n) (i : Fin n) (f : α → α) : (vmod v i f)[i] = f v[i] :=
  Vector.getElem_set_self ..

theorem modChan_chan (c : Fin 24) (f : GChan → GChan) (s : State) : (modChan c f s).gnss.chan[c] = f s.gnss.chan[c] :=
  vmod_get ..

/-- A released channel is a new one, whatever becomes of its PRN. -/
theorem releaseChan_chan (c : Fin 24) (s : State) : (releaseChan c s).gnss.chan[c] = {} := by
  have h : (freeChannel c s).gnss.chan[c] = {} := modChan_chan ..
  unfold releaseChan
  extract_lets
  split
  · exact h
  · exact h

/-- The acquisition engine tracks nothing. -/
theorem acqNext_chan (s : State) : (acqNext s).gnss.chan = s.gnss.chan := by
  unfold acqNext
  extract_lets
  split
  · split <;> rfl
  · rfl

/-- Of its channel a subframe replaces the kept words alone. -/
theorem takeSubframe_chan (c : Fin 24) (ws : List (BitVec 24)) (s : State) :
    ∃ k, (takeSubframe c ws s).gnss.chan[c] = { s.gnss.chan[c] with subs := k } := by
  unfold takeSubframe
  extract_lets
  split
  · exact ⟨_, modChan_chan ..⟩
  · split
    · exact ⟨_, rfl⟩
    · split
      · split <;> exact ⟨_, rfl⟩
      · exact ⟨_, rfl⟩

/-! ### Ephemerides and the week (R65, R66) -/

/-- Of the GNSS registers an accepted ephemeris changes the ephemerides alone. -/
theorem acceptEph_gnss (p : Fin 32) (iode week10 health ura : Nat) (key : List Nat) (f : Eph → Eph) (s : State) :
    ∃ v, (acceptEph p iode week10 health ura key f s).gnss = { s.gnss with eph := v } := by
  unfold acceptEph
  extract_lets s1
  split
  · exact ⟨_, rfl⟩
  · split
    · exact ⟨_, (notice_only ..).same .gnss (by decide)⟩
    · exact ⟨_, rfl⟩

/-- Of the GNSS registers the resolution sets the week and brings the time of week up to now, with a conflict or without. -/
theorem resolveWeek_gnss (w10 : Nat) (s : State) : (resolveWeek w10 s).gnss = { s.gnss with
    week := some (fullWeek s.gnss.weekRef w10), tow := (towAt s s.pm).map fun m => (m, s.pm) } := by
  unfold resolveWeek
  extract_lets w s1
  split
  · split
    · exact (notice_only ..).same .gnss (by decide)
    · rfl
  · rfl

end Sys2Proof.Machine
end

section
/-! PROOFS. Acquisition, tracking and LNAV events under their conditions (R55 to R66, R440). -/

namespace Sys2Proof.Machine

variable {s : State}

/-! ### Acquisition (R54 to R57, R440) -/

/-- What a dwell found, as a search that may be verified (R55). -/
def dwellFinds (w : Dwell) (d : DwellIn) : Search :=
  { prn := w.prn, code := d.code, doppler := d.doppler, bin := w.low + 500 * ((d.doppler - w.low) / 500) }

theorem acqDwellEnd_none {d : DwellIn} (hw : s.gnss.dwell = none) : exec (.acqDwellEnd d) s = .next (acqNext s) := by
  change execAcqDwellEnd d s = _
  simp only [execAcqDwellEnd, hw]

theorem acqDwellEnd_waits {d : DwellIn} {w : Dwell} (hw : s.gnss.dwell = some w)
    (h : acqRuns s = false ∨ s.pm < w.start + 80000 * w.passes) : exec (.acqDwellEnd d) s = .next s := by
  change execAcqDwellEnd d s = _
  simp only [execAcqDwellEnd, hw]
  refine if_neg fun ⟨hr, ht⟩ => ?_
  rcases h with h | h
  · simp [h] at hr
  · exact Nat.not_lt.2 ht h

/-- No dwell is in progress any more, and `v` is to be verified next. -/
def dwellOver (v : Option Search) (s : State) : State := s.onGnss fun g => { g with dwell := none, verify := v }

/-- A dwell at its end: what a verification finds is handed on, what another dwell finds is verified (R55). -/
theorem acqDwellEnd_over {d : DwellIn} {w : Dwell} (hw : s.gnss.dwell = some w) (hr : acqRuns s = true)
    (ht : w.start + 80000 * w.passes ≤ s.pm) : exec (.acqDwellEnd d) s = .next (acqNext
      (if w.mode = .verify ∧ dwellDetects w d s = true then takeVerified (dwellFinds w d) d.cn0 (dwellOver none s)
        else dwellOver (if dwellDetects w d s = true then some (dwellFinds w d) else none) s)) := by
  change execAcqDwellEnd d s = _
  simp only [execAcqDwellEnd, hw]
  rw [if_pos ⟨hr, ht⟩]
  cases dwellDetects w d s with
  | false =>
    simp only [Bool.false_eq_true, and_false, if_false]
    rfl
  | true =>
    by_cases hm : w.mode = .verify
    · simp only [hm, ne_eq, not_true_eq_false, false_and, and_self, if_true, if_false]
      rfl
    · simp only [hm, ne_eq, not_false_eq_true, and_self, false_and, if_true, if_false]
      rfl

theorem acqDwellEnd_verifies {d : DwellIn} {w : Dwell} (hw : s.gnss.dwell = some w) (hr : acqRuns s = true)
    (ht : w.start + 80000 * w.passes ≤ s.pm) (hm : w.mode ≠ .verify) (hd : dwellDetects w d s = true) :
    exec (.acqDwellEnd d) s = .next (acqNext (dwellOver (some (dwellFinds w d)) s)) := by
  rw [acqDwellEnd_over hw hr ht, if_neg fun h => hm h.1, if_pos hd]

theorem acqDwellEnd_ends {d : DwellIn} {w : Dwell} (hw : s.gnss.dwell = some w) (hr : acqRuns s = true)
    (ht : w.start + 80000 * w.passes ≤ s.pm) (hd : dwellDetects w d s = false) :
    exec (.acqDwellEnd d) s = .next (acqNext (dwellOver none s)) := by
  have hn : ¬ dwellDetects w d s = true := ne_true_of_eq_false hd
  rw [acqDwellEnd_over hw hr ht, if_neg fun h => hn h.2, if_neg hn]

theorem acqDwellEnd_handsOver {d : DwellIn} {w : Dwell} (hw : s.gnss.dwell = some w) (hr : acqRuns s = true)
    (ht : w.start + 80000 * w.passes ≤ s.pm) (hm : w.mode = .verify) (hd : dwellDetects w d s = true) :
    exec (.acqDwellEnd d) s = .next (acqNext (takeVerified (dwellFinds w d) d.cn0 (dwellOver none s))) := by
  rw [acqDwellEnd_over hw hr ht, if_pos ⟨hm, hd⟩]

theorem acqIdleGate_gates {t0 : Nat} (h0 : s.pwr.acqIdleSince = some t0) (hf : s.act.flag .pwr 8 = true) (hr : gnssRuns s = true)
    (ht : t0 + 8000000 ≤ s.pm) :
    exec .acqIdleGate s = .next (s.onPwr fun p => { p with domains := p.domains &&& 0xF7F, acqIdleSince := none }) := by
  change execAcqIdleGate s = _
  simp only [execAcqIdleGate, h0]
  exact if_pos ⟨hf, hr, ht⟩

/-! ### Tracking (R60, R61, R63) -/

/-- The channel an event releases is free also once the engine has taken up its next dwell. -/
theorem acqNext_releaseChan_chan (c : Fin 24) (s : State) : (acqNext (releaseChan c s)).gnss.chan[c] = {} := by
  rw [acqNext_chan, releaseChan_chan]

theorem pullInTimeout_releases {c : Fin 24} (hr : gnssRuns s = true) (hs : s.gnss.chan[c].stage = .fll)
    (ht : s.gnss.chan[c].since + 16000000 ≤ s.pm) :
    ∃ t, exec (.pullInTimeout c) s = .next t ∧ t = acqNext (releaseChan c s) ∧ t.gnss.chan[c] = {} :=
  ⟨_, if_pos ⟨hr, hs, ht⟩, rfl, acqNext_releaseChan_chan ..⟩

theorem channelLoss_releases {c : Fin 24} {t0 : Nat} (hr : gnssRuns s = true) (hs : s.gnss.chan[c].stage.tracks = true)
    (h0 : s.gnss.chan[c].weakFrom = some t0) (ht : t0 + 160000000 ≤ s.pm) :
    ∃ t, exec (.channelLoss c) s = .next t ∧ t = acqNext (releaseChan c s) ∧ t.gnss.chan[c] = {} := by
  refine ⟨_, ?_, rfl, acqNext_releaseChan_chan ..⟩
  change execChannelLoss c s = _
  simp only [execChannelLoss, h0]
  exact if_pos ⟨hr, hs, ht⟩

theorem phaseLock_locks {c : Fin 24} {mean : Int} (hr : gnssRuns s = true)
    (hs : s.gnss.chan[c].stage = .pll ∨ s.gnss.chan[c].stage = .tracking) (hp : s.gnss.chan[c].phaseLock = false) (hm : 700 ≤ mean)
    (ht : s.gnss.chan[c].since + 8000000 ≤ s.pm) :
    exec (.phaseLock c mean) s = .next (modChan c (fun h => { h with
      phaseLock := true, lockAt := s.pm, lockFrom := some s.pm, stage := if h.bitSync then .tracking else .pll }) s) :=
  (if_pos ⟨hr, hs⟩).trans (if_pos ⟨congrArg not hp, hm, ht⟩)

theorem phaseLock_loses {c : Fin 24} {mean : Int} (hr : gnssRuns s = true)
    (hs : s.gnss.chan[c].stage = .pll ∨ s.gnss.chan[c].stage = .tracking) (hp : s.gnss.chan[c].phaseLock = true) (hm : mean < 500) :
    exec (.phaseLock c mean) s = .next (modChan c (fun h => { h with
      phaseLock := false, halfCycle := false, lost := true, lockFrom := none, stage := .pll }) s) :=
  (if_pos ⟨hr, hs⟩).trans ((if_neg (by simp [-Fin.getElem_fin, hp])).trans (if_pos ⟨hp, hm⟩))

/-- Between its thresholds the phase lock stays as it is. -/
theorem phaseLock_stays {c : Fin 24} {mean : Int}
    (h : (s.gnss.chan[c].phaseLock = false ∧ (mean < 700 ∨ s.pm < s.gnss.chan[c].since + 8000000)) ∨
      (s.gnss.chan[c].phaseLock = true ∧ 500 ≤ mean)) : exec (.phaseLock c mean) s = .next s := by
  change execPhaseLock c mean s = _
  unfold execPhaseLock
  extract_lets g
  change (g.phaseLock = false ∧ (mean < 700 ∨ s.pm < g.since + 8000000)) ∨ (g.phaseLock = true ∧ 500 ≤ mean) at h
  split
  · rcases h with ⟨hp, h⟩ | ⟨hp, h⟩
    · rw [if_neg, if_neg (by simp [hp])]
      exact fun ⟨_, hm, ht⟩ => h.elim (Int.not_lt.2 hm) (Nat.not_lt.2 ht)
    · rw [if_neg (by simp [hp]), if_neg]
      exact fun ⟨_, hm⟩ => Int.not_lt.2 h hm
  · rfl

theorem bitSync_syncs {c : Fin 24} {l : List Nat} (hr : gnssRuns s = true) (hs : s.gnss.chan[c].stage = .pll)
    (hp : s.gnss.chan[c].phaseLock = true) (hb : s.gnss.chan[c].bitSync = false) (ht : s.gnss.chan[c].lockAt + 160000000 ≤ s.pm)
    (hl : l.length = 20) (h10 : 10 ≤ l.foldl max 0) (h60 : 60 * l.sum ≤ 100 * l.foldl max 0) :
    exec (.bitSync c l) s = .next (modChan c (fun h => { h with bitSync := true, stage := .tracking }) s) :=
  if_pos ⟨hr, hs, hp, congrArg not hb, ht, hl, h10, h60⟩

/-! ### LNAV (R63 to R66) -/

theorem frameSync_syncs {c : Fin 24} {f : FrameIn} (hr : gnssRuns s = true) (hs : s.gnss.chan[c].stage = .tracking)
    (hb : s.gnss.chan[c].bitSync = true) (hn : s.gnss.chan[c].frameSync = false) (hf : frameFound f = true) :
    exec (.frameSync c f) s = .next (setTow (6000 * dataBits (sourceBits f.how f.tlm[0]) 1 17 % 604800000) (s.pm - 12800000)
      (modChan c (fun h => { h with
        frameSync := true, inverted := preambleOf f.tlm == 0x74, halfCycle := h.phaseLock, towKnown := true, wordIx := 0, badRun := 0,
        words := [], d29 := preambleOf f.tlm == 0x74, d30 := preambleOf f.tlm == 0x74 }) s)) :=
  if_pos ⟨hr, hs, hb, congrArg not hn, hf⟩

/-- A word is counted and judged whether or not it ends a subframe: what is taken of a subframe changes neither (R64). -/
theorem lnavWord_counts {c : Fin 24} {w : BitVec 30} (hr : gnssRuns s = true) (hs : s.gnss.chan[c].stage.tracks = true)
    (hf : s.gnss.chan[c].frameSync = true) :
    ∃ t, exec (.lnavWord c w) s = .next t ∧ Only [.gnss, .time] s t ∧ t.gnss.chan[c].wordIx = (s.gnss.chan[c].wordIx + 1) % 10 ∧
      t.gnss.chan[c].d29 = wordBit w 29 ∧ t.gnss.chan[c].d30 = wordBit w 30 ∧
      t.gnss.chan[c].parityFails = (if parityOk w s.gnss.chan[c].d29 s.gnss.chan[c].d30 then s.gnss.chan[c].parityFails
        else s.gnss.chan[c].parityFails + 1) := by
  have o (t : State) (h : execLnavWord c w s = .next t) : Only [.gnss, .time] s t :=
    (Only.refl _ s).andThen (execLnavWord_only c w s t h) (by decide)
  change ∃ t, execLnavWord c w s = .next t ∧ _
  unfold execLnavWord at o ⊢
  extract_lets h ok got last bad run fix s1
  rw [if_pos ⟨hr, hs, hf⟩]
  refine ⟨_, rfl, o _ (if_pos ⟨hr, hs, hf⟩), ?_⟩
  obtain ⟨k, hk⟩ : ∃ k, (if last && !bad then takeSubframe c (got.filterMap id) s1 else s1).gnss.chan[c] =
      { s1.gnss.chan[c] with subs := k } := by
    split
    · exact takeSubframe_chan ..
    · exact ⟨_, rfl⟩
  have h1 : s1.gnss.chan[c] = _ := modChan_chan ..
  rw [hk, h1]
  exact ⟨rfl, rfl, rfl, rfl⟩

/-- The week is that of subframe 1, or the next where subframe 1 came in the week before now (R66). -/
theorem ephemerisAccept_resolves {p : Fin 32} {c : Fin 24} {i w : Nat} (hr : gnssRuns s = true) (hc : tracked s p = some c)
    (hl : (vlist s.gnss.chan[c].subs).all (·.length = 10) = true) (h2 : i = dataBits (subWord s.gnss.chan[c] 1 3) 1 8)
    (h3 : i = dataBits (subWord s.gnss.chan[c] 2 10) 1 8) (h1 : i = dataBits (subWord s.gnss.chan[c] 0 8) 1 8)
    (hw : w = dataBits (subWord s.gnss.chan[c] 0 3) 1 10) :
    ∃ t, exec (.ephemerisAccept p) s = .next t ∧
      (t.gnss.week = some (fullWeek s.gnss.weekRef w) ∨ t.gnss.week = some (fullWeek s.gnss.weekRef (w + 1))) ∧
      t.time = s.time ∧ t.gnss.iono = s.gnss.iono := by
  change ∃ t, execEphemerisAccept p s = .next t ∧ _
  have o := execEphemerisAccept_only p s
  simp only [execEphemerisAccept, hc] at o ⊢
  rw [← h2, ← h3, ← h1, ← hw] at o ⊢
  rw [if_pos ⟨hr, hl, rfl, rfl⟩] at o ⊢
  refine ⟨_, rfl, ?_⟩
  have ht := (o _ rfl).same .time (by decide)
  generalize hu : acceptEph p i w _ _ _ _ s = u at ht ⊢
  obtain ⟨v, hv⟩ := hu ▸ acceptEph_gnss ..
  rw [resolveWeek_gnss, hv]
  refine ⟨?_, ht, rfl⟩
  split
  · exact .inr rfl
  · exact .inl rfl

/-- Settles O19, row by row. -/
theorem gnssChannelEventsExecute : Obligations.GnssChannelEventsExecute := by
  refine ⟨?dwellNone, ?dwellWaits, ?dwellVerifies, ?dwellEnds, ?dwellHandsOver, ?warmSearch, ?pullInTimeout, ?pullInComplete, ?locks, ?loses,
    ?lockStays, ?bitSync, ?frameSync, ?lnavWord, ?ephemerisAccept, ?channelLoss, ?acqIdleGate⟩
  case dwellNone => exact fun d s => acqDwellEnd_none
  case dwellWaits => exact fun d w s => acqDwellEnd_waits
  case dwellVerifies => exact fun d w s => acqDwellEnd_verifies
  case dwellEnds => exact fun d w s => acqDwellEnd_ends
  case dwellHandsOver => exact fun d w s => acqDwellEnd_handsOver
  case warmSearch => exact fun s hr h4 ht => if_pos ⟨hr, h4, ht⟩
  case pullInTimeout => exact fun c s => pullInTimeout_releases
  case pullInComplete => exact fun c s hr hs h20 h200 => if_pos ⟨hr, hs, h20, h200⟩
  case locks => exact fun c mean s => phaseLock_locks
  case loses => exact fun c mean s => phaseLock_loses
  case lockStays => exact fun c mean s => phaseLock_stays
  case bitSync => exact fun c l s => bitSync_syncs
  case frameSync => exact fun c f s => frameSync_syncs
  case lnavWord => exact fun c w s => lnavWord_counts
  case ephemerisAccept => exact fun p c i w s => ephemerisAccept_resolves
  case channelLoss => exact fun c t0 s => channelLoss_releases
  case acqIdleGate => exact fun t0 s => acqIdleGate_gates

end Sys2Proof.Machine
end

section
/-! PROOFS. Antenna, RTCM, ambiguity and odometry events under their conditions (R52, R73, R87, R89). -/

namespace Sys2Proof.Machine

variable {s : State}

/-! ### The antenna (R52) -/

theorem antOpen_opens {ma : Nat} (hb : antBias s ≠ 0) (ho : s.gnss.antOpen = false) (hm : ma < antOpenMa s) :
    ∃ t, exec (.antOpen ma) s = .next t ∧ Noted (s.onGnss fun v => { v with antMa := ma, antOpen := true }) t :=
  ⟨_, if_pos ⟨hb, by simp [ho], hm⟩, notice_noted ..⟩

theorem antOpen_closes {ma : Nat} (ho : s.gnss.antOpen = true) (hm : antOpenMa s < ma) :
    ∃ t, exec (.antOpen ma) s = .next t ∧ Noted (s.onGnss fun v => { v with antMa := ma, antOpen := false }) t :=
  ⟨_, (if_neg (by simp [ho])).trans (if_pos ⟨ho, hm⟩), notice_noted ..⟩

theorem antOpen_stays {ma : Nat} (h1 : ¬ (antBias s ≠ 0 ∧ s.gnss.antOpen = false ∧ ma < antOpenMa s))
    (h2 : ¬ (s.gnss.antOpen = true ∧ antOpenMa s < ma)) :
    exec (.antOpen ma) s = .next (s.onGnss fun v => { v with antMa := ma }) :=
  (if_neg (by simpa using h1)).trans (if_neg h2)

theorem antShort_switchesOff {ma : Nat} (hb : antBias s ≠ 0) (hd : s.gnss.bias = true) (hm : antShortMa s < ma) :
    ∃ t, exec (.antShort ma) s = .next t ∧ Noted (s.onGnss fun v => { v with
      antMa := ma, bias := false, antShort := true, antRetries := 0, antRetryAt := s.pm + 80000000 }) t :=
  ⟨_, if_pos ⟨hb, hd, hm⟩, notice_noted ..⟩

/-- A retry is under way: ANT_BIAS_RETRY reads the current alone (R52). -/
theorem antBiasRetry_due {ma : Nat} (hb : antBias s ≠ 0) (hs : s.gnss.antShort = true) (ho : s.gnss.bias = false)
    (ht : s.gnss.antRetryAt ≤ s.pm) : exec (.antBiasRetry ma) s =
      if ma ≤ antShortMa s then
        if s.pm < s.gnss.antRetryAt + 8000000 then .next (s.onGnss fun v => { v with antMa := ma })
        else .next (notice .gnss 0x02 0xFFFF (shortBody false 0 ma) (s.onGnss fun v => { v with
          bias := true, antShort := false, antRetries := 0, antMa := ma }))
      else if s.pm < s.gnss.antRetryAt + 80000 then .next (s.onGnss fun v => { v with antMa := ma })
      else .next (notice .gnss 0x02 0xFFFF (shortBody true (s.gnss.antRetries + 1) ma) (s.onGnss fun v => { v with
        antRetries := s.gnss.antRetries + 1, antMa := ma
        antRetryAt := s.pm + if 3 ≤ s.gnss.antRetries + 1 then 800000000 else 80000000 })) :=
  if_pos ⟨hb, hs, by simp [ho], ht⟩

theorem antBiasRetry_succeeds {ma : Nat} (hb : antBias s ≠ 0) (hs : s.gnss.antShort = true) (ho : s.gnss.bias = false)
    (ht : s.gnss.antRetryAt + 8000000 ≤ s.pm) (hm : ma ≤ antShortMa s) :
    ∃ t, exec (.antBiasRetry ma) s = .next t ∧
      Noted (s.onGnss fun v => { v with bias := true, antShort := false, antRetries := 0, antMa := ma }) t := by
  rw [antBiasRetry_due hb hs ho (Nat.le_of_add_right_le ht), if_pos hm, if_neg (Nat.not_lt.2 ht)]
  exact ⟨_, rfl, notice_noted ..⟩

theorem antBiasRetry_fails {ma : Nat} (hb : antBias s ≠ 0) (hs : s.gnss.antShort = true) (ho : s.gnss.bias = false)
    (ht : s.gnss.antRetryAt + 80000 ≤ s.pm) (hm : antShortMa s < ma) :
    ∃ t, exec (.antBiasRetry ma) s = .next t ∧ Noted (s.onGnss fun v => { v with
      antRetries := s.gnss.antRetries + 1, antMa := ma, antRetryAt := s.pm + if 3 ≤ s.gnss.antRetries + 1 then 800000000 else 80000000 }) t := by
  rw [antBiasRetry_due hb hs ho (Nat.le_of_add_right_le ht), if_neg (Nat.not_le.2 hm), if_neg (Nat.not_lt.2 ht)]
  exact ⟨_, rfl, notice_noted ..⟩

/-- The retry is neither long enough at or below the threshold nor long enough above it. -/
theorem antBiasRetry_waits {ma : Nat} (hb : antBias s ≠ 0) (hs : s.gnss.antShort = true) (ho : s.gnss.bias = false)
    (ht : s.gnss.antRetryAt ≤ s.pm) (hl : ma ≤ antShortMa s → s.pm < s.gnss.antRetryAt + 8000000)
    (hh : antShortMa s < ma → s.pm < s.gnss.antRetryAt + 80000) :
    exec (.antBiasRetry ma) s = .next (s.onGnss fun v => { v with antMa := ma }) := by
  rw [antBiasRetry_due hb hs ho ht]
  split
  · next hm => exact if_pos (hl hm)
  · next hm => exact if_pos (hh (Nat.lt_of_not_le hm))

/-! ### Corrections (R73) -/

theorem rtcmFrame_takes {m : List Byte} {n : Nat} (hr : gnssRuns s = true) (hf : readFrame s.gnss.rtcmBuf = .frame m n) :
    exec .rtcmFrame s = .next (rtcmSearch (s.gnss.rtcmBuf.drop n) (takeMessage m s)) := by
  change execRtcmFrame s = _
  rw [execRtcmFrame, if_pos hr, hf]

theorem rtcmFrame_waits (h : gnssRuns s = false ∨ readFrame s.gnss.rtcmBuf = .wait) : exec .rtcmFrame s = .next s := by
  change execRtcmFrame s = _
  unfold execRtcmFrame
  rcases h with h | h
  · exact if_neg (by simp [h])
  · rw [h]
    exact ite_self _

/-- Settles O20, row by row. -/
theorem antennaAndCorrectionEventsExecute : Obligations.AntennaAndCorrectionEventsExecute := by
  refine ⟨?opens, ?closes, ?openStays, ?short, ?shortStays, ?retrySucceeds, ?retryFails, ?retryWaits, ?rtcmTakes, ?rtcmWaits, ?rtcmTimeout,
    ?ambiguity, ?odoStale⟩
  case opens => exact fun ma s => antOpen_opens
  case closes => exact fun ma s => antOpen_closes
  case openStays => exact fun ma s => antOpen_stays
  case short => exact fun ma s => antShort_switchesOff
  case shortStays => exact fun ma s h => if_neg h
  case retrySucceeds => exact fun ma s => antBiasRetry_succeeds
  case retryFails => exact fun ma s => antBiasRetry_fails
  case retryWaits => exact fun ma s => antBiasRetry_waits
  case rtcmTakes => exact fun m n s => rtcmFrame_takes
  case rtcmWaits => exact fun s => rtcmFrame_waits
  case rtcmTimeout => exact fun s hb ht hw => if_pos ⟨hb, ht, hw⟩
  case ambiguity => exact fun m l q s hq hr => if_pos ⟨hq, by simp [hr]⟩
  case odoStale => exact fun k s ho hs ht => if_pos ⟨ho, congrArg not hs, ht⟩

end Sys2Proof.Machine
end

section
/-! PROOFS. The requests of the implement family (R106, R107, R384). -/

namespace Sys2Proof.Machine

variable {e : Env} {s : State}

/-- IMPL_WRITE whose records keep their reserved fields 0 and lie within the instances of their TYPE (R384). -/
theorem opImplWrite_writes (h24 : arg e 24 8 = 0) (ht : arg e 0 8 ≤ 5)
    (hr : ∀ r ∈ entries e 4 (recSize (arg e 0 8)), ∀ f ∈ recReserved (arg e 0 8), recN r f.1 f.2 = 0)
    (hn : arg e 8 8 + arg e 16 8 ≤ recCount (arg e 0 8)) :
    opImplWrite e s = (s.onImpl fun v => { v with
      shadow := writeRecords (arg e 0 8) (arg e 8 8) (entries e 4 (recSize (arg e 0 8))) v.shadow }, {}) := by
  have reserved : ((entries e 4 (recSize (arg e 0 8))).any fun r =>
      (recReserved (arg e 0 8)).any fun f => recN r f.1 f.2 != 0) = false := by
    simpa using hr
  simp only [opImplWrite]
  rw [firstBad_none (by simp [h24, reserved, Nat.not_lt.2, ht, hn])]
  rfl

/-- IMPL_READ of instances that exist, of a set that can be read, in a reply that fits one envelope (R384). -/
theorem opImplRead_reads {i : ImplSet} (h25 : arg e 25 7 = 0) (ht : arg e 0 8 ≤ 5)
    (hn : arg e 8 8 + arg e 16 8 ≤ recCount (arg e 0 8)) (hb : arg e 16 8 * recSize (arg e 0 8) ≤ 4084)
    (hi : (if argB e 24 then some s.impl.shadow else s.impl.active) = some i) :
    opImplRead e s = (s, {
      data := (List.range (arg e 16 8)).flatMap fun k => leBytes (recSize (arg e 0 8)) (i.get (arg e 0 8) (arg e 8 8 + k)) }) := by
  simp only [opImplRead]
  rw [firstBad_none (by simp [h25, Nat.not_lt.2, ht, hn, hb])]
  dsimp only
  split at hi
  · next shadow => cases hi; exact if_pos shadow
  · next active => rw [if_neg active, hi]; rfl

/-- IMPL_COMMIT of a set that passes the checks of R110. -/
theorem opImplCommit_waits (hw : implWaiting s = false) (hc : implCheck s = none) : opImplCommit e s =
    (waitEdge 0x0202 e [.implCommit s.impl.shadow.computed] s, { effectPm := nextEdge s.pm, data := [0xFF, 0xFF] }) := by
  simp [opImplCommit, hw, hc]

/-- IMPL_COMMIT while one waits (R106). -/
theorem opImplCommit_busy (hw : implWaiting s = true) :
    opImplCommit e s = (s, { status := .busy, data := [0xFF, 0xFF] }) := if_pos hw

/-- A commit among the effects that wait for the frame edge is a waiting commit. -/
theorem implWaiting_of_mem {w : EdgeItem} {c : ImplSet} (hm : w ∈ s.sys.edgeQ) (ha : w.act = .implCommit c) :
    implWaiting s = true := List.any_eq_true.2 ⟨w, hm, by rw [ha]⟩

/-- Settles O3: each row passes its gate and ends with the effect of its own operation. -/
theorem implementRequestsExecute : Obligations.ImplementRequestsExecute := by
  refine ⟨?write, ?read, ?commit, ?revert⟩
  case write => exact fun e n s h hl hd h24 ht hr hn => request_completes rfl h hd hl (opImplWrite_writes h24 ht hr hn) rfl
  case read => exact fun e n s i h hl hd h25 ht hn hb hi =>
      request_completes rfl h hd (lenIs_of hl) (opImplRead_reads h25 ht hn hb (by simpa only [admitted_impl] using hi)) rfl
  case commit => exact fun e n s h hl hd hw hc =>
      request_completes rfl h hd (lenIs_of hl) (by simp only [opImplCommit_waits hw hc, admitted_impl, admitted_pm]) rfl
  case revert => exact fun e n s h hl hd => request_completes rfl h hd (lenIs_of hl) rfl rfl

/-- Settles O44: the check of a waiting commit is IMPL_COMMIT's first (R106, R110). -/
theorem oneImplementCommitWaits : Obligations.OneImplementCommitWaits := by
  intro e n s w c h hl hd hm ha
  have hw : implWaiting (admitted e n s) = true := implWaiting_of_mem (by rwa [admitted_edgeQ]) ha
  exact request_completes rfl h hd (lenIs_of hl) (opImplCommit_busy hw) rfl

end Sys2Proof.Machine
end

section
/-! PROOFS. The requests of the field and actuation families (R141, R144, R230, R237, R263, R390, R391). -/

namespace Sys2Proof.Machine

variable {op : BitVec 16} {e : Env} {n : Nat} {s : State}

/-! ### Requests whose reply waits for a reconnection test (R230) -/

/-- An accepted request that its opcode's gate lets through, and whose reply waits for bank `b`: its effect stands, the
request is kept until the test ends. -/
theorem receive_awaits {o : OpInfo} {t : State} {b : Fin 12} (h : Accepted op e n s) (ho : opInfo op = some o)
    (hl : o.len e = true) (hg : gate op o e (admitted e n s) = none)
    (hf : o.run e (admitted e n s) = (t, { wait := some b })) : receive op e s =
      t.onHost fun h => { h with awaiting := h.awaiting ++ [(b, { opcode := op, env := e, counter := n, at_ := s.pm })] } := by
  have hi : interpret op e (admitted e n s) = (t, { wait := some b }) := by
    simp only [interpret, ho, hl, hg, hf]
    rfl
  simp only [receive_accepted h, runRequest, hi, admitted_pm]

/-! ### The checks of these rows read the same before and after the checks of R354 -/

theorem admitted_feMode : feMode (admitted e n s) = feMode s := by
  rw [feMode, admitted_act, feMode]

theorem admitted_enabledCtx (k : Nat) : enabledCtx (admitted e n s) k = enabledCtx s k := by
  rw [enabledCtx, admitted_impl, enabledCtx]

theorem admitted_loopDrives (dest ix : Nat) : loopDrives (admitted e n s) dest ix = loopDrives s dest ix := by
  unfold loopDrives loopMode
  rw [admitted_act]

/-! ### Field -/

/-- FE_DIRECTED in mode DIRECTED, every record of which is taken (R144, R390). -/
theorem opFeDirected_takes {l : List Directed} (hm : feMode s = 1)
    (ht : takeDirected s e.firstPm 0 (entries e 0 16) s.fe.waiting = .ok l) :
    opFeDirected e s = (s.onFe fun f => { f with waiting := l }, { data := [0xFF] }) := by
  simp only [opFeDirected, hm, ht, ne_eq, not_true, if_false]

/-! ### Actuation -/

/-- ACT_EVENT whose entries pass the checks of R391, each against the credits of its bank. -/
theorem opActEvent_takes
    (hr : ∀ r ∈ entries e 0 16, recN r 73 23 = 0 ∧ recN r 120 8 = 0 ∧ recN r 64 8 ≤ 159 ∧
      recN r 0 64 ≤ e.firstPm + 800000000 ∧ (96 ≤ recN r 64 8 → enabledCtx s (recN r 64 8) = true))
    (hd : firstRepeat (fun r => recN r 0 72) [] 0 (entries e 0 16) = none)
    (hs : firstShort s (Vector.replicate 12 0) 0 (entries e 0 16) = none) :
    opActEvent e s = ((entries e 0 16).foldl takeHostEvent s, { data := [0xFF] }) := by
  have reserved := firstEntry_none (p := fun r => recN r 73 23 != 0 || recN r 120 8 != 0) fun r m => by
    obtain ⟨h73, h120, -⟩ := hr r m
    simp [h73, h120]
  have context := firstEntry_none (p := fun r => recN r 64 8 > 159) fun r m => by
    obtain ⟨-, -, hc, -⟩ := hr r m
    simpa using hc
  have due := firstEntry_none (p := fun r => recN r 0 64 > e.firstPm + 800000000) fun r m => by
    obtain ⟨-, -, -, hp, -⟩ := hr r m
    simpa using hp
  have enabled := firstEntry_none (p := fun r => 96 ≤ recN r 64 8 && !enabledCtx s (recN r 64 8)) fun r m => by
    obtain ⟨-, -, -, -, hn⟩ := hr r m
    simpa using hn
  simp only [opActEvent]
  rw [firstNamed_none (by simp [reserved, context, due, enabled, hd, hs])]
  rfl

/-- ACT_DUTY for channels that exist, each once (R391). -/
theorem opActDuty_waits (hr : ∀ r ∈ entries e 0 4, recN r 8 8 = 0 ∧ recN r 0 8 ≤ 95)
    (hd : firstRepeat (fun r => recN r 0 8) [] 0 (entries e 0 4) = none) : opActDuty e s =
      (waitEdge 0x0501 e ((entries e 0 4).filterMap fun r => (idx? 96 (recN r 0 8)).map fun c => .duty c (recN r 16 16)) s,
       { effectPm := nextEdge s.pm }) := by
  have reserved := firstEntry_none (p := fun r => recN r 8 8 != 0) (l := entries e 0 4) fun r m => by simp [(hr r m).1]
  have channel := firstEntry_none (p := fun r => recN r 0 8 > 95) (l := entries e 0 4) fun r m => by simpa using (hr r m).2
  simp only [opActDuty]
  rw [firstNamed_none (by simp [reserved, channel, hd])]
  rfl

/-- ACT_FINE_CMP for a generator that no loop drives (R263). -/
theorem opActFineCmp_writes {g : Fin 8} (hg : g.val = arg e 0 3) (h3 : arg e 3 29 = 0) (hd : loopDrives s 1 g.val = false) :
    opActFineCmp e s = (writeCmp g (arg e 32 32) s, {}) := by
  obtain rfl : g = ⟨arg e 0 3 % 8, Nat.mod_lt _ (by decide)⟩ := Fin.ext (by simp only [← hg]; omega)
  simp only [opActFineCmp]
  rw [firstBad_none (by simpa [h3] using hd)]
  rfl

/-- ACT_CLEAR_FAULT of a channel (R230). -/
theorem opActClearFault_channel {c : Fin 96} (h0 : arg e 0 8 = 0) (hc : idx? 96 (arg e 8 8) = some c) :
    opActClearFault e s = (clearContext c s, {}) := by
  simp [opActClearFault, h0, hc, done]

/-- ACT_CLEAR_FAULT of a bank that is connected (R230). -/
theorem opActClearFault_bank {b : Fin 12} (h1 : arg e 0 8 = 1) (hb : idx? 12 (arg e 8 8) = some b)
    (hr : s.vdr.bank[b].reconnect = none) (hi : s.vdr.bank[b].isolated = 0) :
    opActClearFault e s = (clearBank b s, {}) := by
  simp only [opActClearFault, h1, hb, hr, hi]
  rfl

/-- ACT_CLEAR_FAULT of an isolated bank: its test begins, and the reply waits for it (R230). -/
theorem opActClearFault_isolated {b : Fin 12} (h1 : arg e 0 8 = 1) (hb : idx? 12 (arg e 8 8) = some b)
    (hr : s.vdr.bank[b].reconnect = none) (hi : s.vdr.bank[b].isolated ≠ 0) :
    opActClearFault e s = (beginReconnect b (clearBank b s), { wait := some b }) := by
  simp only [opActClearFault, h1, hb, hr, if_neg hi]
  rfl

/-- ACT_CLEAR_FAULT passes its gate in the states of its row. -/
theorem actClearFault_gate (hd : s.sys.dev ∈ inBMF) :
    gate 0x0503 { states := inBMF, len := lenIs 2, run := opActClearFault } e (admitted e n s) = none :=
  gate_open hd (fun x => absurd (x ▸ hd) (by decide)) (fun x => absurd (x ▸ hd) (by decide)) nofun

/-- Settles O5: each row passes its gate and ends with the effect of its own operation; only the reply for a bank to be
reconnected waits. -/
theorem fieldAndActuationRequestsExecute : Obligations.FieldAndActuationRequestsExecute := by
  refine ⟨?directed, ?directedClear, ?event, ?duty, ?fineCmp, ?clearChannel, ?clearBank, ?clearIsolated⟩
  case directed =>
    exact fun e n s l h hl hd hm ht =>
      request_completes rfl h hd hl (opFeDirected_takes (by rwa [admitted_feMode])
        (by rwa [admitted_fe])) rfl
  case directedClear =>
    exact fun e n s h hl hd =>
      request_completes rfl h hd (lenIs_of hl) (by simp only [opFeDirectedClear, doneWith, admitted_fe]) rfl
  case event =>
    exact fun e n s h hl hd hr hk hs =>
      request_completes rfl h (List.mem_singleton.2 hd) hl
        (opActEvent_takes (by simpa only [admitted_enabledCtx] using hr) hk hs) rfl
  case duty =>
    exact fun e n s h hl hd hr hk =>
      request_completes rfl h (List.mem_singleton.2 hd) hl (by simp only [opActDuty_waits hr hk, admitted_pm]) rfl
  case fineCmp =>
    exact fun e n s g h hl hd hg h3 hf =>
      request_completes rfl h hd (lenIs_of hl)
        (opActFineCmp_writes hg h3 (by rwa [admitted_loopDrives])) rfl
  case clearChannel =>
    exact fun e n s c h hl hd h0 hc =>
      request_completes rfl h hd (lenIs_of hl) (opActClearFault_channel h0 hc) rfl
  case clearBank =>
    exact fun e n s b h hl hd h1 hb hr hi =>
      request_completes rfl h hd (lenIs_of hl)
        (opActClearFault_bank h1 hb (by rwa [admitted_vdr]) (by rwa [admitted_vdr])) rfl
  case clearIsolated =>
    exact fun e n s b h hl hd h1 hb hr hi =>
      (exec_request rfl rfl).trans (congrArg Host.Outcome.next (receive_awaits h rfl (lenIs_of hl) (actClearFault_gate hd)
        (opActClearFault_isolated h1 hb (by rwa [admitted_vdr]) (by rwa [admitted_vdr]))))

end Sys2Proof.Machine
end

section
/-! PROOFS. The stores' sizes over a step: every row keeps them, and so does a tick. -/

namespace Sys2Proof.Machine

variable {s : State}

/-- A row that touches no store keeps their sizes. -/
theorem Inv.ofOnlyR {l : List Part} {r : Result} (h : Inv s) (o : OnlyR l s r)
    (hl : Part.pd0 ∉ l ∧ Part.nor ∉ l ∧ Part.host ∉ l ∧ Part.map ∉ l := by decide) : InvR r := fun t e => h.ofOnly (o t e) hl

/-- Every row keeps the stores within their sizes. -/
theorem exec_inv (c : Instr) (h : Inv s) : InvR (exec c s) := by
  cases c with
  | sysNop _ | sysStatus _ | sysIdentity _ | sysLinkReset _ | sysArm _ | sysManual _ | sysDisarm _ | sysClearFault _
  | sysReset _ | sysSubscribe _ | sysWakeSet _ | pbRead _ | pbWrite _ | pbCommit _ | pbRevert _ | implWrite _ | implRead _
  | implCommit _ | implRevert _ | mapStatus _ | mapLoadBegin _ | mapLoadData _ | mapLoadEnd _ | mapLoadAbort _
  | mapExportBegin _ | mapExportRead _ | mapExportAck _ | mapClear _ | mapLogRead _ | mapLogAck _ | feDirected _
  | feDirectedClear _ | actEvent _ | actDuty _ | actFineCmp _ | actClearFault _ | ceSetpoint _ | ceOutput _
  | ceTableWrite _ | ceTableRead _ | ceLoopReset _ | timeGet _ | timeStepConfirm _ | gnssRtcm _ | gnssMeasGet _ | posGet _
  | lswSet _ | lswClearFault _ | pifEncSet _ | pifEventsRead _ | canPhConfig _ | canRxRead _ | canTx _ | canTxAbort _
  | canRecover _ | secSessionOpen _ | secSessionClose _ | secServiceChallenge _ | secServiceResponse _ | secAttest _
  | secImageBegin _ | secImageData _ | secImageEnd _ | secActivate _ | secImageStatus _ | diagRead _ | badOpcode _ _ =>
    exact InvR.next (receive_inv _ _ h)
  | tcxoClear => exact execTcxoClear_inv h
  | relearn _ => exact execRelearn_inv _ h
  | badHeader _ => exact execBadHeader_inv _ h
  | noticeEnvelope _ => exact execNoticeEnvelope_inv _ h
  | linkLost _ => exact execLinkLost_inv _ h
  | pbHostApply => exact execPbHostApply_inv h
  | resetAfterReply => exact execResetAfterReply_inv h
  | frameEdge _ => exact execFrameEdge_inv _ h
  | decisionPhase => exact execDecisionPhase_inv h
  | commitPhase _ => exact execCommitPhase_inv _ h
  | loggingPhase => exact execLoggingPhase_inv h
  | vkeyHigh => exact execVkeyHigh_inv h
  | vkeyLow => exact execVkeyLow_inv h
  | keyOffDelayExpiry => exact execKeyOffDelayExpiry_inv h
  | wakeAlarm => exact execWakeAlarm_inv h
  | vbatStartBand => exact execVbatStartBand_inv h
  | brownOut => exact execBrownOut_inv h
  | lowSupply => exact execLowSupply_inv h
  | lowSupplyExit => exact execLowSupplyExit_inv h
  | powerCycle => exact execPowerCycle_inv h
  | lossOfGround => exact execLossOfGround_inv h
  | groundRestored => exact h.ofOnlyR (execGroundRestored_only s)
  | reverseBattery => exact execReverseBattery_inv h
  | loadDump => exact execLoadDump_inv h
  | timeResetRelease => exact h.ofOnlyR (execTimeResetRelease_only s)
  | imageSetSelect _ _ => exact execImageSetSelect_inv _ _ h
  | domainPowerUp => exact execDomainPowerUp_inv h
  | hostPortAlive => exact execHostPortAlive_inv h
  | selftestComplete _ => exact execSelftestComplete_inv _ h
  | powerDomainSwitch _ _ => exact execPowerDomainSwitch_inv _ _ h
  | dramTestDone _ => exact execDramTestDone_inv _ h
  | pairCheck => exact execPairCheck_inv h
  | ceCheck => exact execCeCheck_inv h
  | gnssCheck => exact execGnssCheck_inv h
  | enclaveCheck => exact execEnclaveCheck_inv h
  | clockElement _ => exact execClockElement_inv _ h
  | clockBase _ => exact execClockBase_inv _ h
  | clockBaseRestored => exact execClockBaseRestored_inv h
  | pllRelock _ _ => exact execPllRelock_inv _ _ h
  | coastExpired => exact execCoastExpired_inv h
  | elementRestartComplete _ => exact execElementRestartComplete_inv _ h
  | safeIn => exact execSafeIn_inv h
  | rowBusoffGraceExpiry => exact execRowBusoffGraceExpiry_inv h
  | boost => exact execBoost_inv h
  | boostRetry _ => exact execBoostRetry_inv _ h
  | measurementEpoch _ => exact execMeasurementEpoch_inv _ h
  | holdoverEntry => exact execHoldoverEntry_inv h
  | holdoverLimitExpiry => exact execHoldoverLimitExpiry_inv h
  | ppsPulse => exact execPpsPulse_inv h
  | ppsPulseEnd => exact h.ofOnlyR (execPpsPulseEnd_only s)
  | tcxoTempUpdate _ => exact execTcxoTempUpdate_inv _ h
  | acqDwellEnd _ => exact h.ofOnlyR (execAcqDwellEnd_only _ s)
  | warmSearchTimer => exact h.ofOnlyR (execWarmSearchTimer_only s)
  | pullInTimeout _ => exact h.ofOnlyR (execPullInTimeout_only _ s)
  | bitSync _ _ => exact h.ofOnlyR (execBitSync_only _ _ s)
  | frameSync _ _ => exact h.ofOnlyR (execFrameSync_only _ _ s)
  | lnavWord _ _ => exact h.ofOnlyR (execLnavWord_only _ _ s)
  | ephemerisAccept _ => exact execEphemerisAccept_inv _ h
  | channelLoss _ => exact h.ofOnlyR (execChannelLoss_only _ s)
  | antOpen _ => exact execAntOpen_inv _ h
  | antShort _ => exact execAntShort_inv _ h
  | antBiasRetry _ => exact execAntBiasRetry_inv _ h
  | rtcmFrame => exact execRtcmFrame_inv h
  | rtcmTimeout => exact h.ofOnlyR (execRtcmTimeout_only s)
  | ambiguityCandidate _ _ _ => exact h.ofOnlyR (execAmbiguityCandidate_only _ _ _ s)
  | odoStale _ => exact h.ofOnlyR (execOdoStale_only _ s)
  | eventExecute _ => exact execEventExecute_inv _ h
  | reservedStart _ => exact execReservedStart_inv _ h
  | feedToVbst _ => exact h.ofOnlyR (execFeedToVbst_only _ s)
  | windowEnd _ => exact h.ofOnlyR (execWindowEnd_only _ s)
  | guardEnd _ => exact h.ofOnlyR (execGuardEnd_only _ s)
  | pullInEnd _ _ => exact execPullInEnd_inv _ _ h
  | fastDecayEnd _ _ => exact h.ofOnlyR (execFastDecayEnd_only _ _ s)
  | decayEnd _ _ => exact execDecayEnd_inv _ _ h
  | openingSignature _ _ => exact execOpeningSignature_inv _ _ h
  | closingSignature _ _ _ => exact execClosingSignature_inv _ _ _ h
  | openingSearchEnd _ => exact execOpeningSearchEnd_inv _ h
  | boostLimit _ => exact execBoostLimit_inv _ h
  | vbstSag _ => exact execVbstSag_inv _ h
  | returnSuspended _ => exact execReturnSuspended_inv _ h
  | recoveryDivert _ => exact execRecoveryDivert_inv _ h
  | openLoad _ _ => exact execOpenLoad_inv _ _ h
  | offStateTest _ _ _ => exact execOffStateTest_inv _ _ _ h
  | overcurrent _ => exact execOvercurrent_inv _ h
  | overload _ _ => exact execOverload_inv _ _ h
  | stageHot _ _ => exact execStageHot_inv _ _ h
  | feedOc _ => exact execFeedOc_inv _ h
  | retryRelease _ => exact execRetryRelease_inv _ h
  | coilResistanceMeasure _ _ _ _ => exact execCoilResistanceMeasure_inv _ _ _ _ h
  | coilCooled _ => exact execCoilCooled_inv _ h
  | bankReconnectTestEnd _ _ => exact execBankReconnectTestEnd_inv _ _ h
  | bankBoundary _ => exact execBankBoundary_inv _ h
  | gridOpening _ => exact execGridOpening_inv _ h
  | gridClosing _ => exact execGridClosing_inv _ h
  | finePeriodStart _ => exact execFinePeriodStart_inv _ h
  | gateTransition _ _ _ => exact execGateTransition_inv _ _ _ h
  | trigOutPulse j => exact (execTrigOutPulse_inv j h :)
  | trigOutPulseEnd _ => exact h.ofOnlyR (execTrigOutPulseEnd_only _ s)
  | loopEvaluation _ => exact execLoopEvaluation_inv _ h
  | deadlineMiss _ => exact execDeadlineMiss_inv _ h
  | flowImbalance _ => exact execFlowImbalance_inv _ h
  | encoderTransition _ _ => exact execEncoderTransition_inv _ _ h
  | index _ _ => exact execIndex_inv _ _ h
  | hallTransition _ _ => exact execHallTransition_inv _ _ h
  | hallIllegal _ => exact execHallIllegal_inv _ h
  | freqEdge _ => exact execFreqEdge_inv _ h
  | eventEdge _ _ => exact execEventEdge_inv _ _ h
  | analogConversion _ _ => exact execAnalogConversion_inv _ _ h
  | emuOutputStep _ => exact execEmuOutputStep_inv _ h
  | inrushStep _ => exact h.ofOnlyR (execInrushStep_only _ s)
  | lswOpenLoad _ _ => exact execLswOpenLoad_inv _ _ h
  | lswShortBat _ _ => exact execLswShortBat_inv _ _ h
  | lswShort _ => exact execLswShort_inv _ h
  | lswOverload _ => exact execLswOverload_inv _ h
  | lswOvertemp _ _ => exact execLswOvertemp_inv _ _ h
  | thermLatchRelease _ _ => exact execThermLatchRelease_inv _ _ h
  | aggregate _ => exact execAggregate_inv _ h
  | aggregateShedStep _ => exact execAggregateShedStep_inv _ h
  | lswRetryDue _ => exact execLswRetryDue_inv _ h
  | lswPulseOpening _ => exact execLswPulseOpening_inv _ h
  | lswPulseClosing _ => exact h.ofOnlyR (execLswPulseClosing_only _ s)
  | offAfterExpiry _ => exact execOffAfterExpiry_inv _ h
  | keyoffHoldEnd _ => exact execKeyoffHoldEnd_inv _ h
  | warn _ _ _ => exact execWarn_inv _ _ _ h
  | throttle _ _ _ => exact execThrottle_inv _ _ _ h
  | sensorBroken _ _ => exact execSensorBroken_inv _ _ h
  | rateTrip _ _ _ => exact execRateTrip_inv _ _ _ h
  | shutdown _ _ _ => exact execShutdown_inv _ _ _ h
  | canFrameReceive _ _ => exact execCanFrameReceive_inv _ _ h
  | canTxStart _ => exact h.ofOnlyR (execCanTxStart_only _ s)
  | canTxEnd _ _ => exact execCanTxEnd_inv _ _ h
  | canDeadlineExpiry _ _ => exact execCanDeadlineExpiry_inv _ _ h
  | busoffRecoveryComplete _ => exact execBusoffRecoveryComplete_inv _ h
  | busRejoin _ => exact execBusRejoin_inv _ h
  | addressClaim => exact h.ofOnlyR (execAddressClaim_only s)
  | addressClaimTimer => exact execAddressClaimTimer_inv h
  | sync => exact h.ofOnlyR (execSync_only s)
  | allOffRepeat => exact h.ofOnlyR (execAllOffRepeat_only s)
  | reportWaitExpiry => exact execReportWaitExpiry_inv h
  | rowNodeLost _ => exact execRowNodeLost_inv _ h
  | scrub _ => exact execScrub_inv _ h
  | dirtyWriteback => exact execDirtyWriteback_inv h
  | maskBuilt => exact execMaskBuilt_inv h
  | loadTimeout => exact execLoadTimeout_inv h
  | exportTimeout => exact execExportTimeout_inv h
  | logSeal => exact execLogSeal_inv h
  | trackRecord => exact execTrackRecord_inv h
  | latencySave => exact execLatencySave_inv h
  | activationPrepared => exact h.ofOnlyR (execActivationPrepared_only s)
  | trialPassed _ => exact execTrialPassed_inv _ h
  | serviceSessionExpiry => exact execServiceSessionExpiry_inv h
  | tamper => exact execTamper_inv h
  | safeInRelease => exact execSafeInRelease_inv h
  | imageVerified => exact execImageVerified_inv h
  | stageHotRelease _ _ => exact execStageHotRelease_inv _ _ h
  | pullInComplete _ => exact h.ofOnlyR (execPullInComplete_only _ s)
  | phaseLock _ _ => exact h.ofOnlyR (execPhaseLock_only _ _ s)
  | receiveError _ _ => exact execReceiveError_inv _ _ h
  | acqIdleGate => exact h.ofOnlyR (execAcqIdleGate_only s)

/-- Settles O52: a step is a tick or a row executed on the rest of the queue, which holds no store. -/
theorem storesKeepTheirSizes : Obligations.StoresKeepTheirSizes := by
  intro s t h e
  unfold step at e
  split at e
  · cases e
    exact tick_inv h
  · exact exec_inv _ (h.ofOnly (State.pending_only s _)) t e

end Sys2Proof.Machine
end

section
/-! PROOFS. The thermal, bus, row node, store and trial rows out of their conditions (log entry 2). -/

namespace Sys2Proof.Machine

variable {s : State}

/-! ### CAN (R325, R331, R337) -/

/-- CAN_TX_START off the bus, while a slot is active, or with no slot to send. -/
theorem canTxStart_idle (x : Fin 3)
    (h : ¬ (onBus s x = true ∧ listen s x = false ∧ hasActive s x = none ∧ ∃ k, winner s x = some k)) :
    execCanTxStart x s = .next s := by
  unfold execCanTxStart
  split
  · next sends =>
    have lone : winner s x = none := Option.eq_none_iff_forall_ne_some.2 fun k hk => h (by simpa [hk] using sends)
    rw [lone]
  · rfl

/-! ### Row nodes (R344, R346) -/

/-- Taking a node's report leaves it to the parameters and the device's state whether the row bus works. -/
theorem rowRuns_takeReport (n : Fin 32) (s : State) : rowRuns (takeReport n s) = rowRuns s := by
  have hact : (takeReport n s).act = s.act := (takeReport_only n s).same .act (by decide)
  have hdev : (takeReport n s).sys.dev = s.sys.dev := (takeReport_entered n (Entered.here s)).1
  simp only [rowRuns, rowEn, canRuns, hact, hdev]

theorem rowTimeout_takeReport (n : Fin 32) (s : State) : rowTimeout (takeReport n s) = rowTimeout s := by
  have hact : (takeReport n s).act = s.act := (takeReport_only n s).same .act (by decide)
  simp only [rowTimeout, hact]

theorem pm_takeReport (n : Fin 32) (s : State) : (takeReport n s).pm = s.pm := (takeReport_only n s).same .pm (by decide)

/-- ALL_OFF before its 100 ms are over, or where the row bus has none to send. -/
theorem allOffRepeat_idle (h : ¬ ((s.sys.dev = .standby ∨ s.sys.dev = .safe) ∧ rowRuns s = true ∧
    ∀ t0, s.can.allOffAt = some t0 → t0 + 8000000 ≤ s.pm)) : execAllOffRepeat s = .next s := by
  unfold execAllOffRepeat
  split
  · next sends =>
    cases h0 : s.can.allOffAt with
    | none => exact absurd ⟨sends.1, sends.2, by simp [h0]⟩ h
    | some t0 => exact if_neg fun ht => h ⟨sends.1, sends.2, by simpa [h0] using ht⟩
  · rfl

/-- ROW_NODE_LOST of a node that reports in time, its report in the pigeonhole counted, that has not been seen, or that is lost. -/
theorem rowNodeLost_idle (n : Fin 32) (h : ¬ (rowRuns s = true ∧ (takeReport n s).can.node[n].seen = true ∧
    (takeReport n s).can.node[n].lost = false ∧ (takeReport n s).can.node[n].lastReport + rowTimeout s ≤ s.pm)) :
    execRowNodeLost n s = .next s := by
  unfold execRowNodeLost
  cases hr : rowRuns s with
  | false => exact if_neg fun hc => Bool.false_ne_true (hr.symm.trans hc.1)
  | true =>
    refine if_neg fun hc => h ?_
    simpa [rowRuns_takeReport, rowTimeout_takeReport, pm_takeReport, hr] using hc

/-- Settles O36: outside its condition each row takes the branch that answers the state as it is. -/
theorem thermalBusAndStoreEventsIdle : Obligations.ThermalBusAndStoreEventsIdle := by
  refine ⟨?warn, ?throttle, ?sensorBroken, ?rateTrip, ?shutdown, ?canTxStart, ?canDeadlineExpiry, ?busoffRecoveryComplete, ?busRejoin,
    ?receiveError, ?addressClaim, ?sync, ?allOffRepeat, ?reportWaitExpiry, ?rowNodeLost, ?scrub, ?logSeal, ?latencySave, ?trialPassed⟩
  case warn => exact fun z k x s h => if_neg h
  case throttle => exact fun z k x s h => if_neg h
  case sensorBroken => exact fun z k s h => if_neg h
  case rateTrip => exact fun z k x s h => if_neg h
  case shutdown => exact fun z k x s h => if_neg h
  case canTxStart => exact fun x s h => canTxStart_idle x h
  case canDeadlineExpiry => exact fun x k s h => if_neg h
  case busoffRecoveryComplete => exact fun x s h => if_neg h
  case busRejoin => exact fun x s h => if_neg h
  case receiveError => exact fun x n s h => if_neg h
  case addressClaim => exact fun s h => if_neg (by simpa using h)
  case sync => exact fun s h => if_neg h
  case allOffRepeat => exact fun s h => allOffRepeat_idle h
  case reportWaitExpiry => exact fun s h => if_neg h
  case rowNodeLost => exact fun n s h => rowNodeLost_idle n h
  case scrub => exact fun l s h => if_neg h
  case logSeal => exact fun s h => if_neg (by simpa using h)
  case latencySave => exact fun s h => if_neg h
  case trialPassed => exact fun i s h => if_neg h

end Sys2Proof.Machine
end

section
/-! PROOFS. The requests of the map family (R171, R173, R174, R183, R386 to R389). -/

namespace Sys2Proof.Machine

variable {e : Env} {n : Nat} {s : State}

/-! ### What these rows check and answer with is the same before and after the checks of R354 -/

theorem admitted_importAllowed (h : List Byte) : importAllowed h (admitted e n s) = importAllowed h s := by
  simp only [importAllowed, admitted_dev]

theorem admitted_depthOf (j : Nat) : depthOf (admitted e n s) j = depthOf s j := by
  simp only [depthOf, admitted_act]

theorem admitted_originOf : originOf (admitted e n s) = originOf s := by
  simp only [originOf, admitted_pos]

/-! ### Loads (R173, R387) -/

/-- MAP_LOAD_BEGIN of a stream that passes its checks. -/
theorem opMapLoadBegin_opens (h : loadBeginBad e (admitted e n s) = none) : opMapLoadBegin e (admitted e n s) =
    ((admitted e n s).onMap fun m => { m with load := some { header := e.payload, lastPm := s.pm } }, {}) := by
  simp only [opMapLoadBegin, h, done, admitted_pm]

/-- The payload of MAP_LOAD_DATA (17_command_reference.md): an offset, then 1 to 4,092 bytes. -/
theorem lenItems_loadData (h4 : 4 < e.payload.length) (h : e.payload.length ≤ 4096) : lenItems 4 1 1 4092 e = true := by
  simp [lenItems]
  omega

/-- MAP_LOAD_DATA at the offset the open load has come to. -/
theorem opMapLoadData_appends {l : Load} (hr : s.sys.mapReady = true) (hm : s.map.load = some l) (he : l.ending = false)
    (ho : arg e 0 32 = l.data.length) : opMapLoadData e (admitted e n s) =
      ((admitted e n s).onMap fun m => { m with load := some { l with data := l.data ++ e.payload.drop 4, lastPm := s.pm } },
       { data := leBytes 4 (l.data ++ e.payload.drop 4).length }) := by
  simp [opMapLoadData, hr, hm, he, ho, doneWith]

/-- MAP_LOAD_END of a load every record of which applies. -/
theorem opMapLoadEnd_waits {l : Load} {t : State} (hr : s.sys.mapReady = true) (hm : s.map.load = some l) (he : l.ending = false)
    (ha : importAllowed l.header s = true) (ht : importResult l (admitted e n s) = .ok t) : opMapLoadEnd e (admitted e n s) =
      (waitEdge 0x0303 e [.mapApply] ((admitted e n s).onMap fun m => { m with load := some { l with ending := true } }),
       { status := if recN l.header 48 8 = 3 then .accepted else .ok, effectPm := nextEdge s.pm, data := leBytes 4 0xFFFFFFFF }) := by
  simp [opMapLoadEnd, hr, hm, he, admitted_importAllowed, ha, ht]

/-- MAP_LOAD_ABORT of an open load: what it left waiting for a frame edge goes with it. -/
theorem opMapLoadAbort_drops (hr : s.sys.mapReady = true) (hm : s.map.load.isSome = true) : opMapLoadAbort e (admitted e n s) =
    (((admitted e n s).onSys fun y => { y with edgeQ := y.edgeQ.filter fun i => i.act != .mapApply }).onMap fun m =>
      { m with load := none }, {}) := by
  obtain ⟨l, hl⟩ := Option.isSome_iff_exists.1 hm
  simp [opMapLoadAbort, hr, hl, done]

/-! ### Exports (R174, R388) -/

/-- MAP_EXPORT_BEGIN of a kind that exists, while none is open. -/
theorem opMapExportBegin_opens {kind layer : Nat} {dirty : Bool} {keys : List (Int × Int)} {h : List Byte}
    (hr : s.sys.mapReady = true) (hx : s.map.exp = none) (h11 : arg e 11 21 = 0) (hk : kind = arg e 0 8) (hl : layer = arg e 8 2)
    (hd : dirty = argB e 10) (h0 : 0 < kind) (h4 : kind ≤ 4) (h1 : dirty = true → kind = 1)
    (hkeys : keys = exportKeys (admitted e n s) kind layer dirty)
    (hh : h = streamHeader kind (if kind = 1 ∨ kind = 2 then layer else 0) (if kind = 1 then depthOf s layer - 1 else 0) 0
      (streamCell (admitted e n s) kind layer) (originOf s) keys.length (nextEdge s.pm) s.pd0.bootCount) :
    opMapExportBegin e (admitted e n s) =
      (waitEdge 0x0305 e [.expFix] ((admitted e n s).onMap fun m => { m with exp := (some
        { kind := kind, layer := layer, dirtyOnly := dirty, created := nextEdge s.pm, header := h, keys := keys, lastPm := s.pm }) }),
       { effectPm := nextEdge s.pm, data := h ++ leBytes 4 (keys.map (exportSize (admitted e n s) kind layer)).sum }) := by
  subst hk hl hd hkeys hh
  simp only [opMapExportBegin]
  rw [firstBad_none (by simpa [h11, hr, hx, Nat.ne_of_gt h0, Nat.not_lt.2 h4] using h1)]
  simp only [admitted_depthOf, admitted_originOf, admitted_pm, admitted_bootCount]

/-- MAP_EXPORT_READ of bytes that the records hold, once their frame edge has fixed them. -/
theorem opMapExportRead_reads {x x1 : Exp} {starts : List (Nat × Nat)} {ks : List Nat} (hr : s.sys.mapReady = true)
    (hx : s.map.exp = some x) (hf : x.fixed = true) (h0 : 0 < arg e 32 16) (h4084 : arg e 32 16 ≤ 4084)
    (ht : arg e 0 32 + arg e 32 16 ≤ (x.edgeTiles.map List.length).sum) (hs : starts = recordStarts (x.edgeTiles.map List.length) 0)
    (hk : ks = (List.range starts.length).filter fun k => match starts[k]? with
      | some (o, l) => decide (o < arg e 0 32 + arg e 32 16) && decide (arg e 0 32 < o + l)
      | none => false)
    (h1 : x1 = { x with
      lastPm := s.pm, copied := copyTiles { x with edgeTiles := (readTiles x ks (admitted e n s)).2 } (edgeOf s.pm) ks }) :
    opMapExportRead e (admitted e n s) = ((readTiles x ks (admitted e n s)).1.onMap fun m => { m with exp := some x1 },
      { data := slice ((List.range starts.length).flatMap fun k => match x1.copied.find? fun t => t.1 == k with
          | some t => t.2.1
          | none => (x.edgeTiles[k]?).getD []) (arg e 0 32) (arg e 32 16) }) := by
  subst hs hk h1
  have range : ¬ (arg e 32 16 = 0 ∨ arg e 32 16 > 4084) := by omega
  simp only [opMapExportRead, admitted_mapReady, admitted_map, admitted_pm, hr, hx, hf, if_neg range, if_neg (Nat.not_lt.2 ht)] <;> rfl

/-- MAP_EXPORT_ACK that names the open one, or none. -/
theorem opMapExportAck_ends {x : Exp} (hr : s.sys.mapReady = true) (hx : s.map.exp = some x)
    (hc : arg e 0 64 = 0 ∨ arg e 0 64 = x.created) : opMapExportAck e (admitted e n s) =
      ((if arg e 0 64 = 0 then admitted e n s else markClean x (admitted e n s)).onMap fun m => { m with exp := none }, {}) := by
  have named : ¬ (arg e 0 64 ≠ 0 ∧ arg e 0 64 ≠ x.created) := fun ⟨h0, h1⟩ => hc.elim h0 h1
  simp [opMapExportAck, hr, hx, if_neg named, done]

/-! ### Clearing and the log (R183, R388, R389) -/

/-- MAP_CLEAR of a target that the device's state lets be cleared. -/
theorem opMapClear_waits (hr : s.sys.mapReady = true) (h10 : arg e 10 22 = 0) (h0 : 0 < arg e 0 8) (h3 : arg e 0 8 ≤ 3)
    (hd : s.sys.dev = .standby ∨ arg e 0 8 = 2) : opMapClear e (admitted e n s) =
      (waitEdge 0x0308 e [.mapClear (arg e 0 8) (arg e 8 2)] (admitted e n s), { effectPm := nextEdge s.pm }) := by
  have state : (arg e 0 8 = 1 ∨ arg e 0 8 = 3) → s.sys.dev = .standby := fun ht => hd.resolve_right (by omega)
  simp only [opMapClear]
  rw [firstBad_none (by simpa [h10, hr, Nat.ne_of_gt h0, Nat.not_lt.2 h3] using state)]
  simp only [doneEdge, admitted_pm]

/-- MAP_LOG_READ of a sealed block. -/
theorem opMapLogRead_reads {b : LogBlock} (hr : s.sys.mapReady = true)
    (hb : (if arg e 0 32 = 0xFFFFFFFF then s.map.ring.find? fun b => !b.acked else s.map.ring.find? fun b => b.seq == arg e 0 32) = some b) :
    opMapLogRead e (admitted e n s) = ((meetErrors (fun x => x.region == .log && x.word == b.seq) (admitted e n s)).1,
      { data := (((meetErrors (fun x => x.region == .log && x.word == b.seq) (admitted e n s)).1.map.ring.find? fun c =>
          c.seq == b.seq).getD b).bytes }) := by
  simp [opMapLogRead, hr, hb, doneWith]

/-- MAP_LOG_ACK of a sealed block. -/
theorem opMapLogAck_marks (hr : s.sys.mapReady = true) (hb : ∃ b ∈ s.map.ring, b.seq = arg e 0 32) :
    opMapLogAck e (admitted e n s) = ((admitted e n s).onMap fun m => { m with
      ring := (m.ring.takeWhile fun b => b.seq != arg e 0 32).map (fun b => { b with acked := true })
        ++ (match m.ring.dropWhile fun b => b.seq != arg e 0 32 with
            | b :: l => { b with acked := true } :: l
            | [] => []) }, {}) := by
  have sealed : ((admitted e n s).map.ring.any fun b => b.seq == arg e 0 32) = true := by
    simpa using hb
  exact (if_neg (by simp [hr])).trans (if_pos sealed)

/-- Settles O4: each row passes its gate and ends with the effect of its own operation. -/
theorem mapRequestsExecute : Obligations.MapRequestsExecute := by
  refine ⟨?status, ?loadBegin, ?loadData, ?loadEnd, ?loadAbort, ?exportBegin, ?exportRead, ?exportAck, ?clear, ?logRead, ?logAck⟩
  case status => exact fun e n s h hl hd => request_completes rfl h hd (lenIs_of hl) rfl rfl
  case loadBegin =>
    exact fun e n s h hl hd hb => request_completes rfl h hd (lenIs_of hl) (opMapLoadBegin_opens hb) rfl
  case loadData =>
    exact fun e n s l h h4 hl hd hr hm he ho =>
      request_completes rfl h hd (lenItems_loadData h4 hl) (opMapLoadData_appends hr hm he ho) rfl
  case loadEnd =>
    exact fun e n s l t h hl hd hr hm he ha ht =>
      request_completes rfl h hd (lenIs_of hl) (opMapLoadEnd_waits hr hm he ha ht) rfl
  case loadAbort =>
    exact fun e n s h hl hd hr hm => request_completes rfl h hd (lenIs_of hl) (opMapLoadAbort_drops hr hm) rfl
  case exportBegin =>
    exact fun e n s kind layer dirty keys b h hl hd hr hx h11 hk hj hdirty h0 h4 h1 hkeys hb =>
      request_completes rfl h hd (lenIs_of hl) (opMapExportBegin_opens hr hx h11 hk hj hdirty h0 h4 h1 hkeys hb) rfl
  case exportRead =>
    exact fun e n s x starts ks x1 h hl hd hr hx hf h0 h4084 ht hs hk h1 =>
      request_completes rfl h hd (lenIs_of hl) (opMapExportRead_reads hr hx hf h0 h4084 ht hs hk h1) rfl
  case exportAck =>
    exact fun e n s x h hl hd hr hx hc => request_completes rfl h hd (lenIs_of hl) (opMapExportAck_ends hr hx hc) rfl
  case clear =>
    exact fun e n s h hl hd hr h10 h0 h3 ht => request_completes rfl h hd (lenIs_of hl) (opMapClear_waits hr h10 h0 h3 ht) rfl
  case logRead =>
    exact fun e n s b h hl hd hr hb => request_completes rfl h hd (lenIs_of hl) (opMapLogRead_reads hr hb) rfl
  case logAck =>
    exact fun e n s h hl hd hr hb => request_completes rfl h hd (lenIs_of hl) (opMapLogAck_marks hr hb) rfl

end Sys2Proof.Machine
end

section
/-! PROOFS. The background rows of the map store (R164, R165, R174, R176, R177, R180, R181, R214, R387, R388). -/

namespace Sys2Proof.Machine

variable {s t : State}

/-! ### The map store of two states that differ by reports -/

theorem Noted.onMap (h : Noted s t) (f : MapSt → MapSt) : Noted (s.onMap f) (t.onMap f) := by
  refine ⟨⟨fun q hq => ?_⟩, h.sys, h.pd0, h.host, h.port⟩
  cases q with
  | map => exact congrArg f (h.same .map (by decide))
  | _ => exact h.only.same _ hq

theorem onMap_congr {f g : MapSt → MapSt} (h : f s.map = g s.map) : s.onMap f = s.onMap g := by
  simp only [State.onMap, h]

/-! ### Words in error (R176, R177) -/

/-- An access to every word meets every error. -/
theorem meetErrors_all (s : State) :
    (meetErrors (fun _ => true) s).1 = s.map.upsets.foldl (fun u x => eccWord x u) (s.onMap fun m => { m with upsets := [] }) := by
  have met : (s.map.upsets.filter fun _ => true) = s.map.upsets := List.filter_eq_self.2 fun _ _ => rfl
  have left : (s.map.upsets.filter fun _ => !true) = [] := List.filter_eq_nil_iff.2 fun _ _ => Bool.false_ne_true
  unfold meetErrors
  rw [met]
  by_cases hu : s.map.upsets = []
  · have same : s.map = { s.map with upsets := [] } := by rw [← hu]
    rw [if_pos hu, hu]
    exact onMap_congr (f := id) same
  · rw [if_neg hu]
    exact congrArg (fun t => s.map.upsets.foldl (fun u x => eccWord x u) t)
      (onMap_congr (congrArg (fun l => { s.map with upsets := l }) left))

/-- A corrected error seen for the first time: counted and remembered. -/
theorem eccWord_corrected (x : EccIn) (hd : x.double = false) (hr : recurs x s = false) :
    Noted (s.onMap fun m => { m with eccCorr := m.eccCorr + 1, mended := m.mended ++ [{ x with double := false, addr := 0 }] }) (eccWord x s) := by
  unfold eccWord
  rw [if_pos (by simp [hd])]
  extract_lets s1
  rw [if_neg (by simp [hr])]
  have counted : Noted (s.onMap fun m => { m with eccCorr := m.eccCorr + 1 }) s1 := notice_noted ..
  exact counted.onMap fun m => { m with mended := m.mended ++ [{ x with double := false, addr := 0 }] }

/-- An uncorrectable error in the polygon store: counted, logged, the store damaged. -/
theorem eccWord_polygon (x : EccIn) (hd : x.double = true) (hr : x.region = .polygon) :
    Noted (s.onMap fun m => { m with eccUnc := m.eccUnc + 1, polyDamaged := true }) (eccWord x s) ∧ Logged 0x22 0xFFFF (eccWord x s) := by
  unfold eccWord
  rw [if_neg (by simp [hd])]
  extract_lets s1 s2
  have counted : Noted (s.onMap fun m => { m with eccUnc := m.eccUnc + 1 }) s1 := (logFault_noted ..).trans (notice_noted ..)
  have logged : Logged 0x22 0xFFFF s1 := logged_noticeAt (logFault_logged ..) ..
  have sound : s2 = s1 := by simp only [s2, retirePage, hr]
  rw [sound, hr]
  exact ⟨counted.onMap fun m => { m with polyDamaged := true }, logged⟩

/-- SCRUB when it is due: it meets the errors it brings and those that no access has met. -/
theorem scrub_meets (l : List EccIn) (hm : s.sys.mapReady = true) (ht : s.map.lastScrub + msTicks (1000 * s.act.fld .map 160 16) ≤ s.pm) :
    exec (.scrub l) s = .next ((s.map.upsets ++ l).foldl (fun u x => eccWord x u) (s.onMap fun m => { m with lastScrub := s.pm, upsets := [] })) :=
  (if_pos ⟨hm, ht⟩).trans (congrArg Host.Outcome.next (meetErrors_all _))

/-- SCRUB of a store whose only error is the one it brings. -/
theorem scrub_meets_one (x : EccIn) (hm : s.sys.mapReady = true) (ht : s.map.lastScrub + msTicks (1000 * s.act.fld .map 160 16) ≤ s.pm)
    (hu : s.map.upsets = []) : exec (.scrub [x]) s = .next (eccWord x (s.onMap fun m => { m with lastScrub := s.pm })) := by
  rw [scrub_meets [x] hm ht, hu]
  exact congrArg (fun u => Host.Outcome.next (eccWord x u)) (onMap_congr (by simp [← hu]))

/-! ### Builds, loads and exports (R164, R174, R387, R388) -/

/-- MASK_BUILT of a mask that fits, from sound polygons: it waits for its frame edge. -/
theorem maskBuilt_takes {m : Mask} {u : State} (hb : s.map.building = some m) (hp : s.restarting .pair = false)
    (hu : u = (meetErrors (fun x => x.region == .polygon) s).1) (hd : u.map.polyDamaged = false)
    (ht : m.tiles.length ≤ 256 - u.map.maskPool.retired.length) (he : m.entries ≤ 16384) :
    ∃ t, exec .maskBuilt s = .next t ∧ Noted (u.onMap fun x => { x with building := none, built := some m }) t := by
  change ∃ t, execMaskBuilt s = .next t ∧ _
  subst hu
  have fits : ¬ (m.tiles.length > 256 - (meetErrors (fun x => x.region == .polygon) s).1.map.maskPool.retired.length ∨
      m.entries > 16384) := by omega
  simp only [execMaskBuilt, hb, hp, hd, if_neg fits]
  exact ⟨_, rfl, notice_noted ..⟩

/-- MASK_BUILT of a mask that does not fit, or from damaged polygons: the old mask stays. -/
theorem maskBuilt_fails {m : Mask} {u : State} (hb : s.map.building = some m) (hp : s.restarting .pair = false)
    (hu : u = (meetErrors (fun x => x.region == .polygon) s).1)
    (hf : u.map.polyDamaged = true ∨ 256 - u.map.maskPool.retired.length < m.tiles.length ∨ 16384 < m.entries) :
    ∃ t, exec .maskBuilt s = .next t ∧ Noted (u.onMap fun x => { x with building := none }) t := by
  change ∃ t, execMaskBuilt s = .next t ∧ _
  subst hu
  simp only [execMaskBuilt, hb, hp]
  cases hd : (meetErrors (fun x => x.region == .polygon) s).1.map.polyDamaged with
  | true => exact ⟨_, rfl, notice_noted ..⟩
  | false =>
    rw [hd] at hf
    have range := hf.resolve_left Bool.false_ne_true
    simp only [if_pos range]
    exact ⟨_, rfl, notice_noted ..⟩

/-- MASK_BUILT with no build, or while the pair restarts. -/
theorem maskBuilt_idle (h : s.map.building = none ∨ s.restarting .pair = true) : exec .maskBuilt s = .next s := by
  change execMaskBuilt s = _
  unfold execMaskBuilt
  cases hb : s.map.building with
  | none => rfl
  | some m => exact if_pos (h.resolve_left (by simp [hb]))

/-- LOAD_TIMEOUT of a load that has been quiet for 10 s. -/
theorem loadTimeout_ends {l : Load} (hl : s.map.load = some l) (he : l.ending = false) (ht : l.lastPm + 800000000 ≤ s.pm) :
    ∃ t, exec .loadTimeout s = .next t ∧ Noted (s.onMap fun m => { m with load := none }) t := by
  refine ⟨_, ?_, loadDone_noted .busy _⟩
  change execLoadTimeout s = _
  simp only [execLoadTimeout, hl]
  exact if_pos ⟨he, ht⟩

theorem loadTimeout_idle (h : ∀ l, s.map.load = some l → l.ending = true ∨ s.pm < l.lastPm + 800000000) : exec .loadTimeout s = .next s := by
  change execLoadTimeout s = _
  unfold execLoadTimeout
  cases hl : s.map.load with
  | none => rfl
  | some l =>
    refine if_neg fun ⟨he, ht⟩ => ?_
    rcases h l hl with h | h
    · exact Bool.false_ne_true (he.symm.trans h)
    · exact Nat.not_le.2 h ht

/-- EXPORT_TIMEOUT after 60 s without a read. -/
theorem exportTimeout_ends {x : Exp} (hx : s.map.exp = some x) (ht : x.lastPm + 4800000000 ≤ s.pm) :
    exec .exportTimeout s = .next (s.onMap fun m => { m with exp := none }) := by
  change execExportTimeout s = _
  simp only [execExportTimeout, hx]
  exact if_pos ht

theorem exportTimeout_idle (h : ∀ x, s.map.exp = some x → s.pm < x.lastPm + 4800000000) : exec .exportTimeout s = .next s := by
  change execExportTimeout s = _
  unfold execExportTimeout
  cases hx : s.map.exp with
  | none => rfl
  | some x => exact if_neg (Nat.not_le.2 (h x hx))

/-! ### The as-applied log (R180, R181) -/

/-- The block as the enclave seals it, chained to the last one. -/
def sealedBlock (s : State) : LogBlock :=
  let b : LogBlock :=
    { seq := s.pd0.blockSeq, boot := s.pd0.bootCount, firstPm := s.map.logFirst, prevHash := s.pd0.chainHash, records := s.map.log,
      lastPm := bits ((s.map.log.getLast?.getD 0).toNat) 32 64, count := s.map.log.length }
  { b with sig := Config.ecdsaSign logKey (Config.sha256 b.signedBytes) }

/-- Sealing moves the open block to the ring and the chain on, and reports LOG_HIGH at most. -/
theorem sealBlock_noted (hl : s.map.log ≠ []) :
    Noted ((s.onMap fun m => { m with log := [], ring := m.ring ++ [sealedBlock s] }).onPd0 fun d =>
      { d with chainHash := Config.sha256 (sealedBlock s).signedBytes, blockSeq := incMod 32 d.blockSeq 1 }) (sealBlock s) := by
  unfold sealBlock
  rw [if_neg hl]
  extract_lets b0 h b s1
  split
  · exact notice_noted .map 0x0A 0xFFFF [] s1
  · exact Noted.refl s1

/-- LOG_SEAL when SEAL_INTERVAL has passed. -/
theorem logSeal_seals (hl : s.map.log ≠ []) (he : s.restarting .enclave = false)
    (ht : s.map.logFirst + msTicks (1000 * s.act.fld .map 176 16) ≤ s.pm) : exec .logSeal s = .next (sealBlock s) :=
  if_pos ⟨hl, by simp [he], ht⟩

/-- TRACK_RECORD when one is due. -/
theorem trackRecord_writes {due : Nat} (hd : s.sys.dev = .armed ∨ s.sys.dev = .manual)
    (he : due = s.pm / msTicks (10 * s.act.fld .map 192 16) * msTicks (10 * s.act.fld .map 192 16)) (ht : s.map.trackAt < due) :
    exec .trackRecord s = .next (writeLog (logRecord 0x08 0 (qualityCode s.pos.pose.quality) due
      (uint 32 s.pos.pose.est.east ||| uint 32 s.pos.pose.est.north <<< 32 ||| uint 16 s.pos.pose.est.heading <<< 64
        ||| satU 16 s.pos.pose.est.hErr <<< 80 ||| sectionsOn s <<< 96)) (s.onMap fun m => { m with trackAt := due })) := by
  subst he
  exact if_pos ⟨hd, ht⟩

theorem trackRecord_idle (h : s.sys.dev ≠ .armed ∧ s.sys.dev ≠ .manual ∨
    s.pm / msTicks (10 * s.act.fld .map 192 16) * msTicks (10 * s.act.fld .map 192 16) ≤ s.map.trackAt) : exec .trackRecord s = .next s := by
  refine if_neg fun ⟨hd, ht⟩ => ?_
  rcases h with ⟨ha, hm⟩ | h
  · exact hd.elim ha hm
  · exact Nat.not_lt.2 h ht

/-- Settles O30: under its condition each row takes the branch that acts; what it reports besides changes no store. -/
theorem storeEventsExecute : Obligations.StoreEventsExecute := by
  refine ⟨?scrub, ?scrubCorrects, ?scrubPolygon, ?writeback, ?maskTaken, ?maskFails, ?maskIdle, ?loadEnds, ?loadIdle, ?exportEnds,
    ?exportIdle, ?logSeal, ?track, ?trackIdle, ?latencySave⟩
  case scrub => exact fun l s hm ht => scrub_meets l hm ht
  case scrubCorrects =>
    exact fun x s hm ht hu hd hr =>
      ⟨_, scrub_meets_one x hm ht hu, eccWord_corrected (s := s.onMap fun m => { m with lastScrub := s.pm }) x hd hr⟩
  case scrubPolygon =>
    exact fun x s hm ht hu hd hr =>
      ⟨_, scrub_meets_one x hm ht hu, eccWord_polygon (s := s.onMap fun m => { m with lastScrub := s.pm }) x hd hr⟩
  case writeback => exact fun s => rfl
  case maskTaken => exact fun m u s hb hp hu hd ht he => maskBuilt_takes hb hp hu hd ht he
  case maskFails => exact fun m u s hb hp hu hf => maskBuilt_fails hb hp hu hf
  case maskIdle => exact fun s h => maskBuilt_idle h
  case loadEnds => exact fun l s hl he ht => loadTimeout_ends hl he ht
  case loadIdle => exact fun s h => loadTimeout_idle h
  case exportEnds => exact fun x s hx ht => exportTimeout_ends hx ht
  case exportIdle => exact fun s h => exportTimeout_idle h
  case logSeal =>
    intro s hl he ht
    have sealed := sealBlock_noted hl
    have hmap := sealed.same .map (by decide)
    have hpd0 := sealed.pd0
    exact ⟨_, logSeal_seals hl he ht, sealedBlock s, congrArg MapSt.ring hmap, rfl, rfl, rfl, rfl, rfl, rfl, rfl, congrArg MapSt.log hmap,
      congrArg Pd0St.chainHash hpd0, congrArg Pd0St.blockSeq hpd0⟩
  case track => exact fun due s hd he ht => trackRecord_writes hd he ht
  case trackIdle => exact fun s h => trackRecord_idle h
  case latencySave => exact fun s hr ht => if_pos ⟨hr, ht⟩

end Sys2Proof.Machine
end

section
/-! PROOFS. Valve channels: a pull-in begins, a reserved start is cancelled (R190, R197, R209). -/

namespace Sys2Proof.Machine

variable {s : State}

/-! ### One item of a vector -/

theorem vmod_get_of_ne {α : Type} {n : Nat} (v : Vector α n) {i j : Fin n} (f : α → α) (h : j ≠ i) : (vmod v i f)[j] = v[j] :=
  Vector.getElem_set_ne _ _ (Fin.val_ne_of_ne h.symm)

theorem modCh_ch (c : Fin 96) (f : Chan → Chan) (s : State) : (modCh c f s).vdr.ch[c] = f s.vdr.ch[c] := vmod_get ..

/-- A change that leaves a channel's state alone leaves every channel's alone. -/
theorem modCh_st (c d : Fin 96) {f : Chan → Chan} (hf : ∀ h, (f h).st = h.st) (s : State) : (modCh c f s).vdr.ch[d].st = s.vdr.ch[d].st := by
  by_cases hd : d = c
  · rw [hd, modCh_ch, hf]
  · exact congrArg Chan.st (vmod_get_of_ne _ _ hd)

theorem modBank_bank (b : Fin 12) (f : Bank → Bank) (s : State) : (modBank b f s).vdr.bank[b] = f s.vdr.bank[b] := vmod_get ..

/-! ### A pull-in begins (R190, R209) -/

/-- A firing record moves no channel. -/
theorem writeFiring_st (c d : Fin 96) (f0 : Firing) (s : State) : (writeFiring c f0 s).vdr.ch[d].st = s.vdr.ch[d].st := by
  unfold writeFiring
  extract_lets b st f s0 s1 s2
  have h0 : s0.vdr.ch[d].st = s.vdr.ch[d].st := by
    unfold s0
    split
    · refine modCh_st c d (fun h => ?_) s
      rfl
    · rfl
  have h2 : s2.vdr.ch[d].st = s.vdr.ch[d].st := h0
  clear_value s2 s1 s0 f st
  cases st with
  | nil => exact h2
  | cons o rest =>
    have lost : Only [.sys, .pd0, .host, .map] s2 (paintGap b.val 0 o.pm o.pm 1 (notice .vdr 0x0A b.val [] s2)) :=
      ((Only.refl _ s2).andThen (notice_only ..) (by decide)).andThen (paintGap_only ..) (by decide)
    exact (congrArg (fun v : VdrSt => v.ch[d].st) ((Only.ite (Only.refl _ s2) lost).same .vdr (by decide))).trans h2

theorem beginPullIn_st (c : Fin 96) (t : Tick) (s : State) : (beginPullIn c t s).vdr.ch[c].st = .pullIn := by
  unfold beginPullIn
  extract_lets h temp s1
  have h1 : s1.vdr.ch[c].st = .pullIn := congrArg Chan.st (modCh_ch ..)
  split
  · exact h1
  · exact (writeFiring_st ..).trans h1

/-! ### A reserved start is cancelled (R197) -/

theorem Bank.dropWindow_windows (k : Bank) (now : Tick) (p : Win → Bool) : (k.dropWindow now p).windows = k.windows.filter fun w => !p w := by
  unfold Bank.dropWindow
  split <;> rfl

/-- The window that a reserved start of channel `c` has opened and nobody joined. -/
def ownWindow (c : Fin 96) (h : Chan) (w : Win) : Bool :=
  h.opener && !h.unplaced && (w.opener == c.val && w.start == h.startAt && w.joined == 0)

theorem ownWindow_iff {c : Fin 96} {h : Chan} {w : Win} : ownWindow c h w = true ↔
    h.opener = true ∧ h.unplaced = false ∧ w.opener = c.val ∧ w.start = h.startAt ∧ w.joined = 0 := by
  simp [ownWindow, and_assoc]

theorem cancelStart_ch (c : Fin 96) (s : State) : (cancelStart c s).vdr.ch =
    vmod s.vdr.ch c fun h => { h with st := .off, queued := false, unplaced := false, offSince := s.pm } := by
  unfold cancelStart
  extract_lets h s1
  split <;> rfl

theorem cancelStart_bank_of_ne {c : Fin 96} {b : Fin 12} (hb : b ≠ bankOf c) : (cancelStart c s).vdr.bank[b] = s.vdr.bank[b] := by
  unfold cancelStart
  extract_lets h s1
  split
  · exact vmod_get_of_ne _ _ hb
  · rfl

theorem cancelStart_windows (c : Fin 96) (s : State) :
    (cancelStart c s).vdr.bank[bankOf c].windows = s.vdr.bank[bankOf c].windows.filter fun w => !ownWindow c s.vdr.ch[c] w := by
  unfold cancelStart ownWindow
  extract_lets h s1
  split
  · next ho =>
    rw [modBank_bank, Bank.dropWindow_windows, ho]
    rfl
  · next ho =>
    refine (List.filter_eq_self.2 fun w _ => ?_).symm
    rw [Bool.eq_false_iff.2 ho]
    rfl

/-- An off request before the reserved start cancels it. -/
theorem offRequest_reserved {c : Fin 96} {pm : Tick} (stage : Bool) (hp : s.vdr.ch[c].st = .pending) (ht : pm < s.vdr.ch[c].startAt) :
    offRequest c pm stage s = cancelStart c s := by
  unfold offRequest
  rw [hp]
  exact if_neg (Nat.not_le.2 ht)

/-- Settles O45: the request is the cancelling, which takes the own window alone. -/
theorem offRequestCancelsAReservedStart : Obligations.OffRequestCancelsAReservedStart := by
  intro c pm stage s hp ht
  rw [offRequest_reserved stage hp ht]
  refine ⟨?off, fun d hd => ?others, fun b hb => cancelStart_bank_of_ne hb, fun w => ?windows, cancelStart_only c s⟩
  case off => rw [cancelStart_ch, vmod_get]
  case others => rw [cancelStart_ch, vmod_get_of_ne _ _ hd]
  case windows =>
    rw [cancelStart_windows, List.mem_filter, Bool.not_eq_true', ← Bool.not_eq_true, ownWindow_iff]

end Sys2Proof.Machine
end

section
/-! PROOFS. The valve, PWM and loop rows out of their conditions (log entry 2). -/

namespace Sys2Proof.Machine

variable {s : State}

/-! ### Fine generators and the peak of a period (R245) -/

theorem trigCount_fine (j : Fin 4) (t : Tick) (tap : Nat) (s : State) : (trigCount j t tap s).pwu.fine = s.pwu.fine := by
  unfold trigCount
  extract_lets o inPulse s1
  split
  · rw [(notice_only ..).same .pwu (by decide)]
    rfl
  · split <;> rfl

theorem trigSource_fine (kind k : Nat) (t : Tick) (tap : Nat) (s : State) : (trigSource kind k t tap s).pwu.fine = s.pwu.fine := by
  unfold trigSource
  refine List.foldlRecOn (motive := fun u : State => u.pwu.fine = s.pwu.fine) _ _ rfl fun u hu j _ => ?_
  split
  · exact (trigCount_fine ..).trans hu
  · exact hu

/-- A generator differs in what it has delivered alone: the prescaler, the last event and the mark of the peak. -/
def DeliveredOnly (f f' : Fine) : Prop :=
  f' = { f with trigCount := f'.trigCount, trigAt := f'.trigAt, trigTap := f'.trigTap, peakDone := f'.peakDone }

theorem fineTrigger_deliveredOnly (g : Fin 8) (kind u : Nat) (s : State) :
    DeliveredOnly s.pwu.fine[g] (fineTrigger g kind u s).pwu.fine[g] := by
  unfold fineTrigger
  extract_lets t s1 f
  have h1 : s1.pwu.fine[g] = s.pwu.fine[g] := congrArg (fun v : Vector Fine 8 => v[g]) (trigSource_fine ..)
  have hm (k : Fine → Fine) (hk : ∀ x, DeliveredOnly x (k x)) : DeliveredOnly s.pwu.fine[g] (modFine g k s1).pwu.fine[g] := by
    rw [← h1, show (modFine g k s1).pwu.fine[g] = k s1.pwu.fine[g] from vmod_get ..]
    exact hk _
  split
  · split
    · exact hm _ fun _ => rfl
    · exact hm _ fun _ => rfl
  · rw [h1]
    rfl

theorem finePeak_deliveredOnly (g : Fin 8) (s : State) : DeliveredOnly s.pwu.fine[g] (finePeak g s).pwu.fine[g] := by
  unfold finePeak
  extract_lets f u
  split
  · have h := fineTrigger_deliveredOnly g 1 u (modFine g (fun f => { f with peakDone := true }) s)
    rw [show (modFine g (fun f => { f with peakDone := true }) s).pwu.fine[g] = _ from vmod_get ..] at h
    exact h
  · rfl

theorem finePeak_pm (g : Fin 8) (s : State) : (finePeak g s).pm = s.pm := (finePeak_only g s).same .pm (by decide)

theorem finePeak_act (g : Fin 8) (s : State) : (finePeak g s).act = s.act := (finePeak_only g s).same .act (by decide)

theorem finePeak_running (g : Fin 8) (s : State) : (finePeak g s).pwu.fine[g].running = s.pwu.fine[g].running := by
  rw [finePeak_deliveredOnly]

/-- The period's end does not depend on the peak. -/
theorem finePeak_end (g : Fin 8) (s : State) :
    (finePeak g s).pwu.fine[g].startAt + periodCounts (finePeak g s).pwu.fine[g].periodActive (finePeak g s).pwu.fine[g].centre =
      s.pwu.fine[g].startAt + periodCounts s.pwu.fine[g].periodActive s.pwu.fine[g].centre := by
  rw [finePeak_deliveredOnly]

theorem finePeak_transitionDue (g : Fin 8) (rising : Bool) (s : State) : transitionDue (finePeak g s) g rising = transitionDue s g rising := by
  unfold transitionDue bootMin
  rw [finePeak_deliveredOnly, finePeak_act, finePeak_pm]
  rfl

/-! ### The rows -/

/-- RETRY_RELEASE of a channel in LATCHED, not latched, before its 100 ms, or with no retry left. -/
theorem retryRelease_channel_idle (c : Fin 96) (h : ¬ (s.sys.dev ≠ .latched ∧ s.vdr.prot[c].tripLatch = true ∧
    s.vdr.prot[c].tripAt + 8000000 ≤ s.pm ∧ 0 < s.pd0.chRetries[c])) : execRetryRelease (.channel c) s = .next s :=
  (Decidable.em (s.sys.dev = .latched)).elim (fun hd => if_pos hd) fun hd => (if_neg hd).trans (if_neg fun hr => h ⟨hd, hr⟩)

/-- RETRY_RELEASE of a bank in LATCHED, not isolated by FEED_OC, before its 100 ms, or with no retry left. -/
theorem retryRelease_bank_idle (b : Fin 12) (h : ¬ (s.sys.dev ≠ .latched ∧ s.vdr.bank[b].isolated = 2 ∧
    s.vdr.bank[b].isolAt + 8000000 ≤ s.pm ∧ 0 < s.pd0.bankRetries[b])) : execRetryRelease (.bank b) s = .next s :=
  (Decidable.em (s.sys.dev = .latched)).elim (fun hd => if_pos hd) fun hd => (if_neg hd).trans (if_neg fun hr => h ⟨hd, hr⟩)

/-- FINE_PERIOD_START of a generator that does not run, or before its period's end; a peak not delivered yet waits too. -/
theorem finePeriodStart_idle (g : Fin 8) (h : ¬ (s.pwu.fine[g].running = true ∧
    s.pwu.fine[g].startAt + periodCounts s.pwu.fine[g].periodActive s.pwu.fine[g].centre < 5 * (s.pm + 1))) :
    exec (.finePeriodStart g) s = .next s :=
  if_neg (by rwa [finePeak_running, finePeak_end, finePeak_pm])

/-- GATE_TRANSITION of a generator that does not run, or with none due; a peak not delivered yet waits too. -/
theorem gateTransition_idle (g : Fin 8) (rising : Bool) (x : Option Nat)
    (h : ¬ (s.pwu.fine[g].running = true ∧ transitionDue s g rising = true)) : exec (.gateTransition g rising x) s = .next s :=
  if_neg (by rwa [finePeak_running, finePeak_transitionDue])

/-- Settles O34: outside its condition each row takes the branch that answers the state as it is. -/
theorem valveAndLoopEventsIdle : Obligations.ValveAndLoopEventsIdle := by
  refine ⟨?reservedStart, ?feedToVbst, ?windowEnd, ?guardEnd, ?pullInEnd, ?fastDecayEnd, ?decayEnd, ?openingSignature, ?closingSignature,
    ?openingSearchEnd, ?openLoad, ?overcurrent, ?overload, ?stageHot, ?stageHotRelease, ?feedOc, ?retryChannel, ?retryBank, ?coilCooled,
    ?bankBoundary, ?gridOpening, ?finePeriodStart, ?gateRises, ?gateFalls, ?trigOutPulseEnd, ?loopEvaluation⟩
  case reservedStart => exact fun c s h => if_neg h
  case feedToVbst => exact fun b s h => if_neg h
  case windowEnd => exact fun b s h => if_neg (by simpa using h)
  case guardEnd => exact fun b s h => if_neg h
  case pullInEnd => exact fun c l0 s h => if_neg h
  case fastDecayEnd => exact fun c en s h => if_neg h
  case decayEnd => exact fun c en s h => if_neg h
  case openingSignature => exact fun c g s h => if_neg h
  case closingSignature => exact fun c g en s h => if_neg h
  case openingSearchEnd => exact fun c s h => if_neg h
  case openLoad => exact fun c ma s h => if_neg h
  case overcurrent => exact fun c s h => if_neg h
  case overload => exact fun c ma s h => if_neg (by simpa using h)
  case stageHot => exact fun c x s h => if_neg h
  case stageHotRelease => exact fun c x s h => if_neg h
  case feedOc => exact fun b s h => congrArg Host.Outcome.next (if_neg h)
  case retryChannel => exact fun c s h => retryRelease_channel_idle c h
  case retryBank => exact fun b s h => retryRelease_bank_idle b h
  case coilCooled => exact fun c s h => if_neg (by simpa using h)
  case bankBoundary => exact fun b s h => if_neg h
  case gridOpening => exact fun c s h => if_neg h
  case finePeriodStart => exact fun g s h => finePeriodStart_idle g h
  case gateRises => exact fun g x s h => gateTransition_idle g true x h
  case gateFalls => exact fun g x s h => gateTransition_idle g false x h
  case trigOutPulseEnd => exact fun j s h => if_neg h
  case loopEvaluation => exact fun k s h => if_neg h

end Sys2Proof.Machine
end

section
/-! PROOFS. Valve events under their conditions (R188, R190, R191, R193, R201, R205, R207, R208). -/

namespace Sys2Proof.Machine

variable {s : State}

/-! ### The bank queue (R201) -/

/-- An event leaves its bank queue, with a notice where it is late. -/
def eventTaken (b : Fin 12) (ev : Ev) (s : State) : State :=
  let s1 := modBank b (fun k => { k with queue := k.queue.erase ev }) s
  if ev.stale then notice .vdr 0x04 ev.ctx [] s1 else s1

theorem eventExecute_due {b : Fin 12} {ev : Ev} {c : Fin 96} (hf : firstEvent s.vdr.bank[b].queue = some ev) (ht : ev.runAt ≤ s.pm)
    (hc : idx? 96 ev.ctx = some c) : exec (.eventExecute b) s = .next (if ev.on then genOn c ev.runAt (eventTaken b ev s)
      else offRequest c ev.runAt false (genOff c (eventTaken b ev s))) := by
  change execEventExecute b s = _
  simp only [execEventExecute, hf, ht, hc, if_true, eventTaken]
  split <;> rfl

theorem eventExecute_starts {b : Fin 12} {ev : Ev} {c : Fin 96} (hf : firstEvent s.vdr.bank[b].queue = some ev) (ht : ev.runAt ≤ s.pm)
    (hc : idx? 96 ev.ctx = some c) (ho : ev.on = true) : exec (.eventExecute b) s = .next (genOn c ev.runAt (eventTaken b ev s)) :=
  (eventExecute_due hf ht hc).trans (congrArg _ (if_pos ho))

theorem eventExecute_stops {b : Fin 12} {ev : Ev} {c : Fin 96} (hf : firstEvent s.vdr.bank[b].queue = some ev) (ht : ev.runAt ≤ s.pm)
    (hc : idx? 96 ev.ctx = some c) (ho : ev.on = false) :
    exec (.eventExecute b) s = .next (offRequest c ev.runAt false (genOff c (eventTaken b ev s))) :=
  (eventExecute_due hf ht hc).trans (congrArg _ (if_neg (by simp [ho])))

theorem eventTaken_onTime (b : Fin 12) {ev : Ev} (h : ev.stale = false) :
    eventTaken b ev s = modBank b (fun k => { k with queue := k.queue.erase ev }) s := if_neg (by simp [h])

theorem eventTaken_late (b : Fin 12) {ev : Ev} (h : ev.stale = true) :
    eventTaken b ev s = notice .vdr 0x04 ev.ctx [] (modBank b (fun k => { k with queue := k.queue.erase ev }) s) := if_pos h

/-- EVENT_EXECUTE before the first event is due, or with none queued. -/
theorem eventExecute_waits {b : Fin 12} (h : ∀ ev, firstEvent s.vdr.bank[b].queue = some ev → s.pm < ev.runAt) :
    exec (.eventExecute b) s = .next s := by
  change execEventExecute b s = _
  unfold execEventExecute
  split
  · rfl
  · next ev hf => exact if_neg (Nat.not_le.2 (h ev hf))

/-! ### Starts and windows (R188, R190, R191) -/

theorem reservedStart_due {c : Fin 96} (hp : s.vdr.ch[c].st = .pending) (ht : s.vdr.ch[c].startAt ≤ s.pm) :
    exec (.reservedStart c) s = .next (afterDecay c (dueStart c s)) := if_pos ⟨hp, ht⟩

theorem dueStart_placed {c : Fin 96} (hu : s.vdr.ch[c].unplaced = false) : dueStart c s = (beginPullIn c s.vdr.ch[c].startAt s, none) :=
  if_neg (Bool.eq_false_iff.1 hu)

theorem reservedStart_pullsIn {c : Fin 96} (hp : s.vdr.ch[c].st = .pending) (ht : s.vdr.ch[c].startAt ≤ s.pm)
    (hu : s.vdr.ch[c].unplaced = false) :
    ∃ t, exec (.reservedStart c) s = .next t ∧ t = beginPullIn c s.vdr.ch[c].startAt s ∧ t.vdr.ch[c].st = .pullIn :=
  ⟨_, by rw [reservedStart_due hp ht, dueStart_placed hu]; rfl, rfl, beginPullIn_st ..⟩

theorem guardEnd_ends {b : Fin 12} (h : s.vdr.bank[b].windows.any (fun w => w.stop + w.guard ≤ s.pm) = true) :
    ∃ t, exec (.guardEnd b) s = .next t ∧ Only [.vdr] s t ∧
      t.vdr.bank[b].windows = s.vdr.bank[b].windows.filter (fun w => s.pm < w.stop + w.guard) ∧
      t.vdr.bank[b].feed = (if (s.vdr.bank[b].windows.filter (fun w => s.pm < w.stop + w.guard)).any (fun w => inWindow w.start w.stop s.pm)
        then .bst else if s.vdr.bank[b].feed = .guard then .bat else s.vdr.bank[b].feed) :=
  ⟨_, if_pos h, modBank_only .., congrArg Bank.windows (modBank_bank ..), congrArg Bank.feed (modBank_bank ..)⟩

/-! ### Pull-in and decay (R190, R193, R205) -/

theorem pullInEnd_holds {c : Fin 96} {l0 : Nat} (hp : s.vdr.ch[c].st = .pullIn) (ht : s.vdr.ch[c].pullEnd ≤ s.pm)
    (hh : s.vdr.ch[c].held = false) :
    exec (.pullInEnd c l0) s = .next (modCh c (fun h => { h with st := .hold }) (judgeInductance c l0 s)) :=
  (if_pos ⟨hp, ht⟩).trans (if_neg (Bool.eq_false_iff.1 hh))

theorem pullInEnd_decays {c : Fin 96} {l0 : Nat} (hp : s.vdr.ch[c].st = .pullIn) (ht : s.vdr.ch[c].pullEnd ≤ s.pm)
    (hh : s.vdr.ch[c].held = true) : exec (.pullInEnd c l0) s =
      .next (beginDecay c s.vdr.ch[c].pullEnd true false s.vdr.ch[c].faulted (judgeInductance c l0 s)) :=
  (if_pos ⟨hp, ht⟩).trans (if_pos hh)

theorem fastDecayEnd_books {c : Fin 96} {en : Nat} (hd : s.vdr.ch[c].st = .decay) (hf : s.vdr.ch[c].fast = true)
    (hi : s.vdr.ch[c].offSet.iTail ≠ 0) : exec (.fastDecayEnd c en) s = .next (bookFast c en s) := if_pos ⟨hd, hf, hi⟩

theorem bookFast_recovered {c : Fin 96} (en : Nat) (hf : s.vdr.ch[c].fast = true) (hr : s.vdr.ch[c].recover = true) :
    bookFast c en s = (modCh c (fun h => { h with fast := false }) s).onVdr fun v => { v with booked := v.booked + en } :=
  if_pos (Bool.and_eq_true_iff.2 ⟨hf, hr⟩)

theorem bookFast_clamped {c : Fin 96} (en : Nat) (hr : s.vdr.ch[c].recover = false) :
    bookFast c en s = modCh c (fun h => { h with fast := false }) s :=
  if_neg fun h => Bool.eq_false_iff.1 hr (Bool.and_eq_true_iff.1 h).2

/-- Settles O21, row by row. -/
theorem valveEventsExecute : Obligations.ValveEventsExecute := by
  refine ⟨?starts, ?stops, ?startsLate, ?stopsLate, ?eventWaits, ?pullsIn, ?arbitrated, ?feedToVbst, ?windowEnd, ?guardEnd, ?holds, ?decays,
    ?fastClamped, ?fastRecovered, ?decayEnd, ?opening, ?closing, ?searchEnd⟩
  case starts => exact fun b ev c s hf hs ht hc ho => eventTaken_onTime b hs ▸ eventExecute_starts hf ht hc ho
  case stops => exact fun b ev c s hf hs ht hc ho => eventTaken_onTime b hs ▸ eventExecute_stops hf ht hc ho
  case startsLate => exact fun b ev c s hf hs ht hc ho => eventTaken_late b hs ▸ eventExecute_starts hf ht hc ho
  case stopsLate => exact fun b ev c s hf hs ht hc ho => eventTaken_late b hs ▸ eventExecute_stops hf ht hc ho
  case eventWaits => exact fun b s => eventExecute_waits
  case pullsIn => exact fun c s => reservedStart_pullsIn
  case arbitrated => exact fun c s hp ht _ => reservedStart_due hp ht
  case feedToVbst => exact fun b s hf hi hw => if_pos ⟨hf, hi, hw⟩
  case windowEnd => exact fun b s hf hw hn => if_pos ⟨hf, hw, congrArg not hn⟩
  case guardEnd => exact fun b s => guardEnd_ends
  case holds => exact fun c l0 s => pullInEnd_holds
  case decays => exact fun c l0 s => pullInEnd_decays
  case fastClamped => exact fun c en s hd hf hi hr => bookFast_clamped en hr ▸ fastDecayEnd_books hd hf hi
  case fastRecovered => exact fun c en s hd hf hi hr => bookFast_recovered en hf hr ▸ fastDecayEnd_books hd hf hi
  case decayEnd => exact fun c en s hd => if_pos hd
  case opening => exact fun c g s hs hp ha ht hm ho => if_pos ⟨hs, hp, ha, ht, hm, ho⟩
  case closing => exact fun c g en s hd hs ha ht hm ho => if_pos ⟨hd, hs, ha, ht, hm, ho⟩
  case searchEnd => exact fun c s hs ht => if_pos ⟨hs, ht⟩

end Sys2Proof.Machine
end

section
/-! PROOFS. The converter's conditions as they clear or stay (R203, R426, R467). -/

namespace Sys2Proof.Machine

variable {s : State}

theorem boostRetry_waits (hf : s.vdr.conv.fault = true) (ht : s.vdr.conv.retryAt ≤ s.pm) : exec (.boostRetry false) s =
    .next (s.onVdr fun v => { v with conv := { v.conv with retryAt := v.conv.retryAt + 800000000 } }) :=
  (if_pos ⟨hf, ht⟩).trans (if_neg Bool.false_ne_true)

theorem boostLimit_clears {mw : Nat} (hl : s.vdr.conv.boostLimit = true) (h36 : mw < 36000) (hm : mw < 40000 * (256 - boostR s) / 256) :
    ∃ t, exec (.boostLimit mw) s = .next t ∧ Noted (s.onVdr fun v => { v with conv := { v.conv with boostLimit := false } }) t :=
  ⟨_, (if_neg (by simp [hl])).trans (if_pos ⟨hl, Nat.lt_min.2 ⟨hm, h36⟩⟩), notice_noted ..⟩

/-! ### VBST (R203) -/

theorem vbstSag_clears {mv : Nat} (hs : s.vdr.conv.sag = true) (hm : vbstTarget s s.vdr.conv.vbat ≤ mv + 200) :
    ∃ t, exec (.vbstSag mv) s = .next t ∧ Noted (s.onVdr fun v => { v with conv := { v.conv with vbst := mv, sag := false } }) t :=
  ⟨_, (if_neg (by simp [sawVbst, hs])).trans (if_pos ⟨hs, hm⟩), notice_noted ..⟩

theorem vbstSag_stays {mv : Nat} (h0 : s.vdr.conv.sag = false → vbstTarget s s.vdr.conv.vbat ≤ mv + 600)
    (h1 : s.vdr.conv.sag = true → mv + 200 < vbstTarget s s.vdr.conv.vbat) :
    exec (.vbstSag mv) s = .next (s.onVdr fun v => { v with conv := { v.conv with vbst := mv } }) := by
  refine (if_neg fun ⟨hs, hm⟩ => ?_).trans (if_neg fun ⟨hs, hm⟩ => ?_)
  · exact Nat.not_lt.2 (h0 (by simpa [sawVbst] using hs)) hm
  · exact Nat.not_le.2 (h1 hs) hm

theorem recoveryDivert_clears {mv : Nat} (hd : s.vdr.conv.divert = true) (hm : mv ≤ vbstTarget s s.vdr.conv.vbat + 300) :
    ∃ t, exec (.recoveryDivert mv) s = .next t ∧ Noted (s.onVdr fun v => { v with conv := { v.conv with vbst := mv, divert := false } }) t :=
  ⟨_, (if_neg (by simp [sawVbst, hd])).trans (if_pos ⟨hd, hm⟩), notice_noted ..⟩

theorem recoveryDivert_stays {mv : Nat} (h0 : s.vdr.conv.divert = false → mv ≤ vbstTarget s s.vdr.conv.vbat + 600)
    (h1 : s.vdr.conv.divert = true → vbstTarget s s.vdr.conv.vbat + 300 < mv) :
    exec (.recoveryDivert mv) s = .next (s.onVdr fun v => { v with conv := { v.conv with vbst := mv } }) := by
  refine (if_neg fun ⟨hd, hm⟩ => ?_).trans (if_neg fun ⟨hd, hm⟩ => ?_)
  · exact Nat.not_lt.2 (h0 (by simpa [sawVbst] using hd)) hm
  · exact Nat.not_le.2 (h1 hd) hm

/-! ### VBAT (R203, R467) -/

theorem loadDumpEnds_returnSusp (mv : Nat) (s : State) : (loadDumpEnds mv (sawVbat mv s)).vdr.conv.returnSusp = s.vdr.conv.returnSusp := by
  rw [(loadDumpEnds_noted mv s).same .vdr (by decide)]
  rfl

theorem loadDumpEnds_returnEn (mv : Nat) (s : State) : returnEn (loadDumpEnds mv (sawVbat mv s)) = returnEn s := by
  unfold returnEn
  rw [show (loadDumpEnds mv (sawVbat mv s)).act = s.act from (loadDumpEnds_noted mv s).same .act (by decide)]

theorem returnSuspended_clears {mv : Nat} (hr : s.vdr.conv.returnSusp = true) (hm : mv ≤ 3500) (he : returnEn s = true) :
    ∃ t, exec (.returnSuspended mv) s = .next t ∧
      Noted ((s.onVdr fun v => { v with conv := { v.conv with vbat := mv, returnSusp := false } }).onPwr fun p =>
        { p with loadDump := p.loadDump && decide (3500 < mv), over36 := p.loadDump && decide (3600 < mv) }) t ∧
      (s.pwr.loadDump = true → mv ≤ 3500 → Ended 0x24 2 s t) := by
  have hv := (loadDumpEnds_returnSusp mv s).trans hr
  refine ⟨_, (if_neg (by simp [hv])).trans (if_pos ⟨hv, hm, (loadDumpEnds_returnEn mv s).trans he⟩), ?_, fun hl hd => ?_⟩
  · exact ((loadDumpEnds_noted mv s).onVdr fun v => { v with conv := { v.conv with returnSusp := false } }).trans (notice_noted ..)
  · exact (congrArg Pd0St.faultLog (notice_pd0 ..)).trans (loadDumpEnds_ended hl hd)

theorem returnSuspended_stays {mv : Nat} (h0 : s.vdr.conv.returnSusp = false → mv ≤ 3600 ∧ returnEn s = true)
    (h1 : s.vdr.conv.returnSusp = true → 3500 < mv ∨ returnEn s = false) :
    ∃ t, exec (.returnSuspended mv) s = .next t ∧
      Noted ((s.onVdr fun v => { v with conv := { v.conv with vbat := mv } }).onPwr fun p =>
        { p with loadDump := p.loadDump && decide (3500 < mv), over36 := p.loadDump && decide (3600 < mv) }) t ∧
      (s.pwr.loadDump = true → mv ≤ 3500 → Ended 0x24 2 s t) := by
  have hx : exec (.returnSuspended mv) s = .next (loadDumpEnds mv (sawVbat mv s)) := by
    refine (if_neg ?sets).trans (if_neg ?clears)
    case sets =>
      rw [loadDumpEnds_returnSusp, loadDumpEnds_returnEn]
      rintro ⟨hr, hm⟩
      obtain ⟨hm', he⟩ := h0 (by simpa using hr)
      exact hm.elim (Nat.not_lt.2 hm') (by simp [he])
    case clears =>
      rw [loadDumpEnds_returnSusp, loadDumpEnds_returnEn]
      rintro ⟨hr, hm, he⟩
      exact (h1 hr).elim (Nat.not_lt.2 hm) (by simp [he])
  exact ⟨_, hx, loadDumpEnds_noted mv s, loadDumpEnds_ended⟩

/-- Settles O17, row by row. -/
theorem converterEventsExecute : Obligations.ConverterEventsExecute := by
  refine ⟨?faults, ?retryEnds, ?retryWaits, ?limitSets, ?limitClears, ?sagSets, ?sagClears, ?sagStays, ?returnSets, ?returnClears, ?returnStays,
    ?divertSets, ?divertClears, ?divertStays⟩
  case faults => exact fun s => boost_faults
  case retryEnds => exact fun s => boostRetry_ends
  case retryWaits => exact fun s => boostRetry_waits
  case limitSets => exact fun mw s => boostLimit_sets
  case limitClears => exact fun mw s => boostLimit_clears
  case sagSets => exact fun mv s => vbstSag_sets
  case sagClears => exact fun mv s => vbstSag_clears
  case sagStays => exact fun mv s => vbstSag_stays
  case returnSets => exact fun mv s => returnSuspended_sets
  case returnClears => exact fun mv s => returnSuspended_clears
  case returnStays => exact fun mv s => returnSuspended_stays
  case divertSets => exact fun mv s => recoveryDivert_sets
  case divertClears => exact fun mv s => recoveryDivert_clears
  case divertStays => exact fun mv s => recoveryDivert_stays

end Sys2Proof.Machine
end

section
/-! PROOFS. Valve protection events under their conditions (R220, R221, R223, R224, R227, R230). -/

namespace Sys2Proof.Machine

variable {s : State}

theorem channelFault_noted (c : Fin 96) (code : Nat) (s : State) : Noted s (channelFault c code s) :=
  (notice_noted ..).trans (logFault_noted ..)

theorem channelFault_logged (c : Fin 96) (code : Nat) (s : State) : Logged 0x1F c.val (channelFault c code s) := logFault_logged ..

/-! ### The load of a driven channel and its stage (R220) -/

theorem openLoad_found {c : Fin 96} {ma : Nat} (hc : chanOn s.vdr.ch[c] = true) (ht : s.vdr.ch[c].startAt + 112000 ≤ s.pm)
    (hm : ma < s.act.fld .vdr 6528 8) : exec (.openLoad c ma) s = .next (setOpen c s) :=
  (if_pos ⟨hc, ht⟩).trans (if_pos hm)

theorem openLoad_passes {c : Fin 96} {ma : Nat} (hc : chanOn s.vdr.ch[c] = true) (ht : s.vdr.ch[c].startAt + 112000 ≤ s.pm)
    (hm : s.act.fld .vdr 6528 8 ≤ ma) : exec (.openLoad c ma) s =
      .next (clearOpen c (modProt c (fun p => { p with onPass := p.onPass || decide (p.openAt < s.vdr.ch[c].startAt) }) s)) :=
  (if_pos ⟨hc, ht⟩).trans (if_neg (Nat.not_lt.2 hm))

theorem overcurrent_trips {c : Fin 96} (hc : chanOn s.vdr.ch[c] = true) :
    ∃ t, exec (.overcurrent c) s = .next t ∧ t = tripStage c s ∧ Logged 0x1F c.val t :=
  ⟨_, if_pos hc, rfl, channelFault_logged ..⟩

theorem overload_trips {c : Fin 96} {ma : Nat} (hm : 1650 < ma)
    (hp : s.vdr.prot[c].tripLatch = false ∨ s.vdr.prot[c].overload = false) :
    ∃ t, exec (.overload c ma) s = .next t ∧ Noted (offRequest c s.pm true (modProt c (fun p =>
      { p with overload := true, tripLatch := true, tripAt := if p.tripLatch then p.tripAt else s.pm, retrying := false }) s)) t ∧
      Logged 0x1F c.val t :=
  ⟨_, if_pos ⟨hm, hp.imp (congrArg not) (congrArg not)⟩, channelFault_noted .., channelFault_logged ..⟩

/-! ### The test of a channel in OFF (R221) -/

/-- The full millisecond of a low output: the excess current tells a short from an open load. -/
theorem offStateTest_judges {c : Fin 96} (ma : Nat) (ho : s.vdr.ch[c].st = .off) (ht : s.vdr.ch[c].offSince + 80000 ≤ s.pm)
    (hf : feedSettled s (bankOf c) 80000 = true) : exec (.offStateTest c true ma) s =
      .next (if 100 < ma then isolateFault (bankOf c) 1 (setShort c (modProt c (fun p => { p with offPassFrom := none }) s))
        else setOpen c (modProt c (fun p => { p with offPassFrom := none }) s)) := if_pos ⟨ho, Or.inr ht, hf⟩

/-- Before the full millisecond the test is the reconnection's, or none. -/
theorem offStateTest_early {c : Fin 96} (ma : Nat)
    (h : s.pm < s.vdr.ch[c].offSince + 80000 ∨ feedSettled s (bankOf c) 80000 = false) : exec (.offStateTest c true ma) s =
      if s.vdr.ch[c].st = .off ∧ true ∧ reconnectTested s (bankOf c) then .next (if 100 < ma then setShort c s else setOpen c s)
      else .next s := by
  refine if_neg ?_
  rintro ⟨-, ht, hf⟩
  exact h.elim (Nat.not_lt.2 (ht.resolve_left Bool.false_ne_true)) fun e => Bool.eq_false_iff.1 e hf

theorem offStateTest_reconnecting {c : Fin 96} (ma : Nat) (ho : s.vdr.ch[c].st = .off)
    (h : s.pm < s.vdr.ch[c].offSince + 80000 ∨ feedSettled s (bankOf c) 80000 = false) (hr : reconnectTested s (bankOf c) = true) :
    exec (.offStateTest c true ma) s = .next (if 100 < ma then setShort c s else setOpen c s) :=
  (offStateTest_early ma h).trans (if_pos ⟨ho, rfl, hr⟩)

theorem offStateTest_untested {c : Fin 96} (ma : Nat)
    (h : s.pm < s.vdr.ch[c].offSince + 80000 ∨ feedSettled s (bankOf c) 80000 = false)
    (hr : s.vdr.ch[c].st ≠ .off ∨ reconnectTested s (bankOf c) = false) : exec (.offStateTest c true ma) s = .next s :=
  (offStateTest_early ma h).trans (if_neg fun ⟨ho, _, hx⟩ => hr.elim (· ho) fun e => Bool.eq_false_iff.1 e hx)

theorem offStateTest_passes {c : Fin 96} (ma : Nat) (ho : s.vdr.ch[c].st = .off) (hf : feedSettled s (bankOf c) 0 = true) :
    exec (.offStateTest c false ma) s =
      .next (clearOpen c (modProt c (fun p => { p with offPassFrom := some (passingFrom s c) }) s)) := if_pos ⟨ho, Or.inl rfl, hf⟩

theorem offStateTest_unsettled {c : Fin 96} (ma : Nat) (h : s.vdr.ch[c].st ≠ .off ∨ feedSettled s (bankOf c) 0 = false) :
    exec (.offStateTest c false ma) s = .next s :=
  (if_neg fun ⟨ho, _, hf⟩ => h.elim (· ho) fun e => Bool.eq_false_iff.1 e hf).trans (if_neg fun ⟨_, hl, _⟩ => Bool.false_ne_true hl)

/-! ### Retries (R223) -/

theorem retryRelease_channel_due {c : Fin 96} (hd : s.sys.dev ≠ .latched) (hl : s.vdr.prot[c].tripLatch = true)
    (ht : s.vdr.prot[c].tripAt + 8000000 ≤ s.pm) (hr : 0 < s.pd0.chRetries[c]) : exec (.retryRelease (.channel c)) s =
      .next ((modProt c (fun p => { p with tripLatch := false, retrying := true }) s).onPd0 fun d =>
        { d with chRetries := vmod d.chRetries c (· - 1) }) := (if_neg hd).trans (if_pos ⟨hl, ht, hr⟩)

theorem retryRelease_bank_due {b : Fin 12} (hd : s.sys.dev ≠ .latched) (hi : s.vdr.bank[b].isolated = 2)
    (ht : s.vdr.bank[b].isolAt + 8000000 ≤ s.pm) (hr : 0 < s.pd0.bankRetries[b]) :
    ∃ t, exec (.retryRelease (.bank b)) s = .next t ∧
      Noted ((modBank b (fun k => { k with isolated := 0, feedAt := s.pm }) s).onPd0 fun d =>
        { d with bankRetries := vmod d.bankRetries b (· - 1) }) t ∧ Ended 0x1E b.val s t :=
  ⟨_, (if_neg hd).trans (if_pos ⟨hi, ht, hr⟩), endFault_noted .., (endFault_ended 0x1E b.val _).of_eq rfl rfl⟩

/-! ### The coil (R224, R225, R226) -/

/-- A measurement is taken, and heats or cools the coil's estimate where there is a reference. -/
theorem coilResistanceMeasure_taken {c : Fin 96} {r a b : Nat} (hm : measures s c a b = true) {u : State}
    (hu : u = learnR20 c r (modProt c (fun p => { p with rMeas := min r 65535 }) s)) : exec (.coilResistanceMeasure c r a b) s =
      if r20Of u c.val = 0 then .next u
      else .next (heatCoil c (coilTempOf r (r20Of u c.val)) (coolCoil c (coilTempOf r (r20Of u c.val)) (modProt c (fun p =>
        { p with tempValid := !p.shortedTurns, tempSeen := true, coilTemp := satS 16 (coilTempOf r (r20Of u c.val)), coolTime := 0,
                 tempAt := s.pm, coilHeld := satS 16 (coilTempOf r (r20Of u c.val)) })
        (judgeResistance c r (r20Of u c.val) u)))) := by
  subst hu
  exact if_pos hm

/-! ### The reconnection test (R230) -/

theorem bankReconnectTestEnd_due {b : Fin 12} {t0 : Nat} (j : Option (Fin 8)) (h : s.vdr.bank[b].reconnect = some t0)
    (ht : t0 + 84000 ≤ s.pm) : exec (.bankReconnectTestEnd b j) s = .next (j.elim
      (if bankShorted s b then answerBank b .faulted (isolateFault b 1 s) else answerBank b .ok (reconnected b s))
      fun k => answerBank b .faulted (reisolated b k s)) := by
  change execBankReconnectTestEnd b j s = _
  simp only [execBankReconnectTestEnd, h, ht, if_true]
  cases j with
  | none => rfl
  | some k => rfl

theorem bankReconnectTestEnd_early {b : Fin 12} {t0 : Nat} (j : Option (Fin 8)) (h : s.vdr.bank[b].reconnect = some t0)
    (ht : s.pm < t0 + 84000) : exec (.bankReconnectTestEnd b j) s = .next s := by
  change execBankReconnectTestEnd b j s = _
  simp only [execBankReconnectTestEnd, h]
  exact if_neg (Nat.not_le.2 ht)

theorem bankReconnectTestEnd_cut {b : Fin 12} (j : Option (Fin 8)) (h : s.vdr.bank[b].reconnect = none) :
    exec (.bankReconnectTestEnd b j) s = .next (answerBank b .faulted s) := by
  change execBankReconnectTestEnd b j s = _
  simp only [execBankReconnectTestEnd, h]

/-- Settles O22, row by row. -/
theorem valveProtectionEventsExecute : Obligations.ValveProtectionEventsExecute := by
  refine ⟨?opens, ?loaded, ?shorted, ?offOpens, ?reconnectShorted, ?reconnectOpens, ?offPasses, ?offUnsettled, ?offUntested, ?overcurrent,
    ?overload, ?stageHot, ?stageHotRelease, ?feedOc, ?retryChannel, ?retryBank, ?measureOnly, ?measureHeats, ?measuresNot, ?coilCooled,
    ?reconnects, ?isolatesAgain, ?shortFound, ?testRuns, ?testCut, ?relearn⟩
  case opens => exact fun c ma s => openLoad_found
  case loaded => exact fun c ma s => openLoad_passes
  case shorted => exact fun c ma s ho ht hf hm => (offStateTest_judges ma ho ht hf).trans (congrArg _ (if_pos hm))
  case offOpens => exact fun c ma s ho ht hf hm => (offStateTest_judges ma ho ht hf).trans (congrArg _ (if_neg (Nat.not_lt.2 hm)))
  case reconnectShorted => exact fun c ma s ho h hr hm => (offStateTest_reconnecting ma ho h hr).trans (congrArg _ (if_pos hm))
  case reconnectOpens =>
    exact fun c ma s ho h hr hm => (offStateTest_reconnecting ma ho h hr).trans (congrArg _ (if_neg (Nat.not_lt.2 hm)))
  case offPasses => exact fun c ma s => offStateTest_passes ma
  case offUnsettled => exact fun c ma s => offStateTest_unsettled ma
  case offUntested => exact fun c ma s => offStateTest_untested ma
  case overcurrent => exact fun c s => overcurrent_trips
  case overload => exact fun c ma s => overload_trips
  case stageHot => exact fun c x s h => if_pos h
  case stageHotRelease => exact fun c x s h => if_pos h
  case feedOc => exact fun b s h => congrArg Host.Outcome.next (if_pos h)
  case retryChannel => exact fun c s => retryRelease_channel_due
  case retryBank => exact fun b s => retryRelease_bank_due
  case measureOnly => exact fun c r a b u s hm hu h0 => (coilResistanceMeasure_taken hm hu).trans (if_pos h0)
  case measureHeats => exact fun c r a b u s hm hu h0 => (coilResistanceMeasure_taken hm hu).trans (if_neg h0)
  case measuresNot => exact fun c r a b s hm => if_neg (Bool.eq_false_iff.1 hm)
  case coilCooled => exact fun c s hc hr ht => if_pos ⟨congrArg not hc, hr, ht⟩
  case reconnects =>
    exact fun b t0 s h ht hs => (bankReconnectTestEnd_due none h ht).trans (congrArg _ (if_neg (Bool.eq_false_iff.1 hs)))
  case isolatesAgain => exact fun b t0 s h ht hs => (bankReconnectTestEnd_due none h ht).trans (congrArg _ (if_pos hs))
  case shortFound => exact fun b t0 j s => bankReconnectTestEnd_due (some j)
  case testRuns => exact fun b t0 j s => bankReconnectTestEnd_early j
  case testCut => exact fun b j s => bankReconnectTestEnd_cut j
  case relearn => exact fun c s => rfl

end Sys2Proof.Machine
end

section
/-! PROOFS. The requests of the control engine (R237, R259, R266, R392). -/

namespace Sys2Proof.Machine

variable {e : Env} {n : Nat} {s : State} {k : Fin 16}

/-- CE_SETPOINT of a loop that exists. -/
theorem opCeSetpoint_waits (hk : idx? 16 (arg e 0 4) = some k) (h4 : arg e 4 28 = 0) :
    opCeSetpoint e s = (waitEdge 0x0600 e [.setpoint k (argS e 32 32)] s, { effectPm := nextEdge s.pm }) := by
  simp only [opCeSetpoint, hk]
  exact if_neg (Decidable.not_not.2 h4)

/-- CE_OUTPUT within ±1 of a loop in mode OPEN (R266). -/
theorem opCeOutput_waits (hk : idx? 16 (arg e 0 4) = some k) (h4 : arg e 4 28 = 0) (hlo : -65536 ≤ argS e 32 32)
    (hhi : argS e 32 32 ≤ 65536) (hm : loopMode s (arg e 0 4) = 2) :
    opCeOutput e s = (waitEdge 0x0601 e [.output k (argS e 32 32)] s, { effectPm := nextEdge s.pm }) := by
  simp only [opCeOutput, hk]
  rw [firstBad_none (by simp [h4, hm, Int.not_lt.2, hlo, hhi])]
  rfl

/-- CE_TABLE_WRITE fills the table it names, in the shadow set (R259). -/
theorem opCeTableWrite_fills (hk : idx? 16 (arg e 0 4) = some k) (h5 : arg e 5 27 = 0) :
    opCeTableWrite e s = (s.onCe fun v => { v with shadow := (
      if argB e 4 then { v.shadow with cogging := v.shadow.cogging.set k ((chunks 2 (e.payload.drop 4)).map fun c => sint 16 (leNat c)) }
      else { v.shadow with friction := v.shadow.friction.set k ((chunks 4 (e.payload.drop 4)).map fun c => sint 32 (leNat c)) }) }, {}) := by
  simp only [opCeTableWrite, hk, if_neg (Decidable.not_not.2 h5)]
  cases argB e 4 with
  | true => rfl
  | false => rfl

/-- CE_TABLE_READ answers the table it names, of the set it names (R259). -/
theorem opCeTableRead_reads (hk : idx? 16 (arg e 0 4) = some k) (h6 : arg e 6 26 = 0) :
    opCeTableRead e s = (s, { data := (
      if argB e 4 then (if argB e 5 then s.ce.shadow else s.ce.tables).cogging[k].flatMap (fun v => leBytes 2 (uint 16 v))
      else (if argB e 5 then s.ce.shadow else s.ce.tables).friction[k].flatMap fun v => leBytes 4 (uint 32 v)) }) := by
  simp only [opCeTableRead, hk, if_neg (Decidable.not_not.2 h6)]
  cases argB e 4 with
  | true => rfl
  | false => rfl

/-- CE_LOOP_RESET of a loop that exists. -/
theorem opCeLoopReset_waits (hk : idx? 16 (arg e 0 4) = some k) (h4 : arg e 4 4 = 0) :
    opCeLoopReset e s = (waitEdge 0x0604 e [.loopReset k] s, { effectPm := nextEdge s.pm }) := by
  simp only [opCeLoopReset, hk]
  exact if_neg (Decidable.not_not.2 h4)

theorem admitted_loopMode (i : Nat) : loopMode (admitted e n s) i = loopMode s i := by
  rw [loopMode, admitted_act, loopMode]

/-- Settles O6: each row passes its gate and ends with the effect of its own operation. -/
theorem controlRequestsExecute : Obligations.ControlRequestsExecute := by
  refine ⟨?setpoint, ?output, ?tableWrite, ?tableRead, ?loopReset⟩
  case setpoint =>
    exact fun e n s k h hl hd hk h4 =>
      request_completes rfl h hd (lenIs_of hl) (by simp only [opCeSetpoint_waits hk h4, admitted_pm]) rfl
  case output =>
    exact fun e n s k h hl hd hk h4 hlo hhi hm =>
      request_completes rfl h hd (lenIs_of hl)
        (by simp only [opCeOutput_waits hk h4 hlo hhi ((admitted_loopMode _).trans hm), admitted_pm]) rfl
  case tableWrite =>
    exact fun e n s k h hl hd hk h5 => request_completes rfl h hd hl (opCeTableWrite_fills hk h5) rfl
  case tableRead =>
    exact fun e n s k h hl hd hk h6 =>
      request_completes rfl h hd (lenIs_of hl) (by simp only [opCeTableRead_reads hk h6, admitted_ce]) rfl
  case loopReset =>
    exact fun e n s k h hl hd hk h4 =>
      request_completes rfl h hd (lenIs_of hl) (by simp only [opCeLoopReset_waits hk h4, admitted_pm]) rfl

end Sys2Proof.Machine
end

section
/-! PROOFS. PWM events under their conditions (R234, R236, R240, R241, R243 to R247). -/

namespace Sys2Proof.Machine

variable {s t u : State} {g : Fin 8}

/-! ### What the trigger outputs leave of PWU (R246) -/

/-- The bank grids and the nozzle generators are as they were. -/
structure NozzlesKept (s t : State) : Prop where
  grid : t.pwu.grid = s.pwu.grid
  noz : t.pwu.noz = s.pwu.noz

theorem NozzlesKept.refl (s : State) : NozzlesKept s s := ⟨rfl, rfl⟩

theorem NozzlesKept.trans (h : NozzlesKept s t) (k : NozzlesKept t u) : NozzlesKept s u :=
  ⟨k.grid.trans h.grid, k.noz.trans h.noz⟩

theorem notice_nozzlesKept (b : Block) (code idx : Nat) (body : List Byte) (s : State) : NozzlesKept s (notice b code idx body s) := by
  have hp : (notice b code idx body s).pwu = s.pwu := (notice_only ..).same .pwu (by decide)
  exact ⟨congrArg PwuSt.grid hp, congrArg PwuSt.noz hp⟩

theorem trigCount_nozzlesKept (j : Fin 4) (at_ : Tick) (tap : Nat) (s : State) : NozzlesKept s (trigCount j at_ tap s) := by
  unfold trigCount
  extract_lets o inPulse s1
  have h1 (f : TrigOut → TrigOut) : NozzlesKept s (modTrig j f s1) := ⟨rfl, rfl⟩
  split
  · exact (h1 _).trans (notice_nozzlesKept ..)
  · split
    · exact h1 _
    · exact ⟨rfl, rfl⟩

theorem trigSource_nozzlesKept (kind k : Nat) (at_ : Tick) (tap : Nat) (s : State) : NozzlesKept s (trigSource kind k at_ tap s) := by
  unfold trigSource
  refine List.foldlRecOn (motive := NozzlesKept s) _ _ (NozzlesKept.refl s) fun u hu j _ => ?_
  split
  · exact hu.trans (trigCount_nozzlesKept ..)
  · exact hu

/-! ### Bank grids (R234, R238) -/

/-- The period that begins at a boundary: its start, period length and phases are those written before it. -/
theorem bankBoundary_begins {b : Fin 12} (hr : trigRuns s = true) (hp : s.pwu.grid[b].b + s.pwu.grid[b].period ≤ s.pm) :
    ∃ t, exec (.bankBoundary b) s = .next t ∧ t.pwu.grid[b].b = s.pwu.grid[b].b + s.pwu.grid[b].period ∧
      t.pwu.grid[b].period = (latestWrite (fun w => w < s.pwu.grid[b].b + s.pwu.grid[b].period) s.pwu.grid[b].waitPeriod).getD s.pwu.grid[b].period ∧
      t.pwu.grid[b].phases = (latestWrite (fun w => w < s.pwu.grid[b].b + s.pwu.grid[b].period) s.pwu.grid[b].waitPhases).getD s.pwu.grid[b].phases := by
  refine ⟨_, if_pos ⟨hr, hp⟩, ?_⟩
  rw [(trigSource_nozzlesKept ..).grid, show (modGrid b _ s).pwu.grid[b] = _ from vmod_get ..]
  exact ⟨rfl, rfl, rfl⟩

/-! ### Nozzle generators (R236, R238) -/

/-- An opening that has come of a running generator: it takes its values, and its on-time decides. -/
theorem gridOpening_due {c : Fin 96} (hr : s.pwu.noz[c].running = true) (hn : s.pwu.noz[c].nextOpen ≤ openingOf s c)
    (ho : openingOf s c ≤ s.pm)
    (hu : u = modNoz c (fun n => { n with nextOpen := openingOf s c + 1, openAt := openingOf s c, closeAt := none })
      (reloadNoz c (openingOf s c) false s)) : exec (.gridOpening c) s =
      if u.pwu.noz[c].onTime = 0 then
        if heldByMerge s c then
          if merges u c (openingOf s c) then .next (modNoz c (fun n => { n with merged := true }) u)
          else .next (trigSource 5 c.val (openingOf s c) 0
            (offRequest c (openingOf s c) false (modNoz c (fun n => { n with merged := false }) u)))
        else .next (modNoz c (fun n => { n with merged := false }) u)
      else .next (trigSource 4 c.val (openingOf s c) 0 (genStart c (openingOf s c) u)) := by
  subst hu
  exact if_pos ⟨hr, hn, ho⟩

/-- A closing that has come of a running generator merges, or its valve is asked off. -/
theorem gridClosing_due {c : Fin 96} {t0 : Nat} (hc : s.pwu.noz[c].closeAt = some t0) (hr : s.pwu.noz[c].running = true)
    (ht : t0 ≤ s.pm) : exec (.gridClosing c) s =
      if merges s c t0 then .next (modNoz c (fun n => { n with closeAt := none, merged := true }) s)
      else .next (trigSource 5 c.val t0 0 (offRequest c t0 false (modNoz c (fun n => { n with closeAt := none }) s))) := by
  change execGridClosing c s = _
  simp only [execGridClosing, hc]
  exact if_pos ⟨hr, ht⟩

/-! ### Fine generators: events delivered (R245) -/

theorem modFine_fine (g : Fin 8) (f : Fine → Fine) (s : State) : (modFine g f s).pwu.fine[g] = f s.pwu.fine[g] := vmod_get ..

theorem modFine_nozzlesKept (g : Fin 8) (f : Fine → Fine) (s : State) : NozzlesKept s (modFine g f s) := ⟨rfl, rfl⟩

theorem DeliveredOnly.trans {f f' f'' : Fine} (h : DeliveredOnly f f') (k : DeliveredOnly f' f'') : DeliveredOnly f f'' := by
  unfold DeliveredOnly at *
  rw [k, h]

/-- Between two states generator `g` has delivered events and changed in nothing else; what the nozzles run on is kept. -/
structure Delivers (g : Fin 8) (s t : State) : Prop where
  fine : DeliveredOnly s.pwu.fine[g] t.pwu.fine[g]
  nozzles : NozzlesKept s t

theorem Delivers.refl (g : Fin 8) (s : State) : Delivers g s s := ⟨rfl, NozzlesKept.refl s⟩

theorem Delivers.trans (h : Delivers g s t) (k : Delivers g t u) : Delivers g s u :=
  ⟨h.fine.trans k.fine, h.nozzles.trans k.nozzles⟩

theorem Delivers.ite {c : Prop} [Decidable c] (h : Delivers g s t) (k : Delivers g s u) : Delivers g s (if c then t else u) := by
  split <;> assumption

theorem notice_delivers (g : Fin 8) (b : Block) (code idx : Nat) (body : List Byte) (s : State) :
    Delivers g s (notice b code idx body s) := by
  have hp : (notice b code idx body s).pwu = s.pwu := (notice_only ..).same .pwu (by decide)
  refine ⟨?_, notice_nozzlesKept ..⟩
  rw [hp]
  rfl

theorem fineTrigger_delivers (g : Fin 8) (kind at_ : Nat) (s : State) : Delivers g s (fineTrigger g kind at_ s) := by
  refine ⟨fineTrigger_deliveredOnly .., ?_⟩
  unfold fineTrigger
  extract_lets t0 s1 f
  have h1 : NozzlesKept s s1 := trigSource_nozzlesKept ..
  split
  · split
    · exact h1.trans (modFine_nozzlesKept ..)
    · exact h1.trans (modFine_nozzlesKept ..)
  · exact h1

theorem finePeak_delivers (g : Fin 8) (s : State) : Delivers g s (finePeak g s) := by
  refine ⟨finePeak_deliveredOnly .., ?_⟩
  unfold finePeak
  extract_lets f at_
  split
  · exact (modFine_nozzlesKept ..).trans (fineTrigger_delivers g 1 at_ _).nozzles
  · exact NozzlesKept.refl s

/-! ### Fine generators: the next period (R240, R243, R244) -/

/-- The generator in the period that begins on count `r`: CE's restart repeats the last values (R247). -/
def Fine.nextPeriod (restarting : Bool) (boot r : Nat) (f : Fine) : Fine :=
  (if restarting then f.repeated r else f.reload r).judged boot

theorem DeliveredOnly.nextPeriod {f f' : Fine} (h : DeliveredOnly f f') (b : Bool) (boot r : Nat) :
    DeliveredOnly (f.nextPeriod b boot r) (f'.nextPeriod b boot r) := by
  rw [h]
  cases b with
  | true => rfl
  | false => rfl

theorem finePeriodBegun_delivers (g : Fin 8) (was : Fine) (split : Bool) (r : Nat) (s : State) :
    Delivers g s (finePeriodBegun g was split r s) := by
  unfold finePeriodBegun
  extract_lets f s1 s2
  have h1 : Delivers g s s1 := Delivers.ite (notice_delivers ..) (Delivers.refl g s)
  have h2 : Delivers g s s2 := Delivers.ite (h1.trans (notice_delivers ..)) h1
  exact h2.trans (fineTrigger_delivers ..)

/-- FINE_PERIOD_START once the period has ended. -/
theorem finePeriodStart_begins (hr : s.pwu.fine[g].running = true) {r : Nat}
    (h0 : r = s.pwu.fine[g].startAt + periodCounts s.pwu.fine[g].periodActive s.pwu.fine[g].centre) (ht : r < 5 * (s.pm + 1)) :
    ∃ t, exec (.finePeriodStart g) s = .next t ∧
      DeliveredOnly (s.pwu.fine[g].nextPeriod (s.restarting .control) (bootMin s g) r) t.pwu.fine[g] := by
  have hsafe : (finePeak g s).safe = s.safe := (finePeak_only g s).same .safe (by decide)
  have hrestart : (finePeak g s).restarting .control = s.restarting .control :=
    congrArg (fun v : SafeSt => v.elem[elemIx .control].restarting) hsafe
  have hboot : bootMin (finePeak g s) g = bootMin s g := by rw [bootMin, finePeak_act, bootMin]
  refine ⟨_, if_pos (by rw [finePeak_running, finePeak_end, finePeak_pm, ← h0]; exact ⟨hr, ht⟩), ?_⟩
  rw [finePeak_end, ← h0]
  refine DeliveredOnly.trans ?_ (finePeriodBegun_delivers ..).fine
  rw [modFine_fine]
  refine ((finePeak_deliveredOnly g s).nextPeriod (s.restarting .control) (bootMin s g) r).trans ?_
  rw [← hrestart, ← hboot]
  rfl

/-! ### Fine generators: the gates (R241, R242, R247) -/

theorem finePeak_gatesAllowed (g : Fin 8) (s : State) : gatesAllowed (finePeak g s) = gatesAllowed s := by
  have hdev : (finePeak g s).sys.dev = s.sys.dev := (finePeak_entered g (Entered.here s)).1
  have hpwr : (finePeak g s).pwr = s.pwr := (finePeak_only g s).same .pwr (by decide)
  simp only [gatesAllowed, startsAct, hdev, hpwr]

theorem finePeak_deadTime (g : Fin 8) (x : Option Nat) (s : State) : deadTime (finePeak g s) g x = deadTime s g x := by
  unfold deadTime adaptEn dtMin dtMax dtMargin
  rw [finePeak_act]

/-- The generator after a transition that drives the gates: one goes off at once, the other on after the dead time `dt`. -/
def Fine.driven (rising : Bool) (at_ dt : Nat) (no : Bool) (f : Fine) : Fine :=
  if rising then { f.targetOnly true at_ with gh := true, gl := false, dtRise := dt, noCross := f.noCross || no }
  else { f.targetOnly false at_ with gh := false, gl := true, dtFall := dt, noCross := f.noCross || no }

theorem DeliveredOnly.driven {f f' : Fine} (h : DeliveredOnly f f') (rising : Bool) (at_ dt : Nat) (no : Bool) :
    DeliveredOnly (f.driven rising at_ dt no) (f'.driven rising at_ dt no) := by
  rw [h]
  cases rising with
  | true => rfl
  | false => rfl

theorem DeliveredOnly.targetOnly {f f' : Fine} (h : DeliveredOnly f f') (rising : Bool) (at_ : Nat) :
    DeliveredOnly (f.targetOnly rising at_) (f'.targetOnly rising at_) := by
  rw [h]
  rfl

/-- A transition is as due before the peak is delivered as after it. -/
theorem finePeak_due {rising : Bool} (hr : s.pwu.fine[g].running = true) (hd : transitionDue s g rising = true) :
    (finePeak g s).pwu.fine[g].running = true ∧ transitionDue (finePeak g s) g rising = true :=
  ⟨(finePeak_running g s).trans hr, (finePeak_transitionDue g rising s).trans hd⟩

/-- A transition that is due, where the gates may switch. -/
theorem gateTransition_drives {rising : Bool} (x : Option Nat) (hr : s.pwu.fine[g].running = true) (ha : gatesAllowed s = true)
    (hd : transitionDue s g rising = true) : ∃ t at_ no, exec (.gateTransition g rising x) s = .next t ∧
      DeliveredOnly (s.pwu.fine[g].driven rising at_ (deadTime s g x) no) t.pwu.fine[g] ∧ NozzlesKept s t := by
  have due := finePeak_due hr hd
  have allowed : gatesAllowed (finePeak g s) = true := (finePeak_gatesAllowed g s).trans ha
  obtain ⟨t, hx⟩ : ∃ t, exec (.gateTransition g rising x) s = .next t := ⟨_, (if_pos due).trans (if_pos allowed)⟩
  have ht : execGateTransition g rising x s = .next t := hx
  unfold execGateTransition at ht
  extract_lets s1 f low at_ fall compare dt no s2 at ht
  rw [if_pos due, if_pos allowed] at ht
  cases ht
  have h2 : s2.pwu.fine[g] = f.driven rising at_ dt no := modFine_fine ..
  have reports : Delivers g s2 (if no then notice .pwu 0x02 g.val [] s2 else s2) :=
    Delivers.ite (notice_delivers ..) (Delivers.refl g s2)
  have compares (t : State) : Delivers g t (compare t) := Delivers.ite (Delivers.refl g t) (fineTrigger_delivers ..)
  have h3 := reports.trans (compares _)
  refine ⟨_, at_, no, hx, DeliveredOnly.trans ?_ h3.fine,
    (finePeak_delivers g s).nozzles.trans ((modFine_nozzlesKept ..).trans h3.nozzles)⟩
  rw [h2, ← finePeak_deadTime]
  exact (finePeak_deliveredOnly g s).driven ..

/-- A transition that is due, where the gates may not switch: the target turns alone. -/
theorem gateTransition_turnsTarget {rising : Bool} (x : Option Nat) (hr : s.pwu.fine[g].running = true)
    (ha : gatesAllowed s = false) (hd : transitionDue s g rising = true) : ∃ t at_, exec (.gateTransition g rising x) s = .next t ∧
      DeliveredOnly (s.pwu.fine[g].targetOnly rising at_) t.pwu.fine[g] := by
  have due := finePeak_due hr hd
  have barred : ¬ gatesAllowed (finePeak g s) = true := by simp [finePeak_gatesAllowed, ha]
  obtain ⟨t, hx⟩ : ∃ t, exec (.gateTransition g rising x) s = .next t := ⟨_, (if_pos due).trans (if_neg barred)⟩
  have ht : execGateTransition g rising x s = .next t := hx
  unfold execGateTransition at ht
  extract_lets s1 f low at_ fall compare at ht
  rw [if_pos due, if_neg barred] at ht
  cases ht
  have compares (t : State) : Delivers g t (compare t) := Delivers.ite (Delivers.refl g t) (fineTrigger_delivers ..)
  refine ⟨_, at_, hx, DeliveredOnly.trans ?_ (compares _).fine⟩
  rw [modFine_fine]
  exact (finePeak_deliveredOnly g s).targetOnly ..

/-! ### Trigger outputs (R246) -/

/-- The row's own meaning, named: unifying through it would evaluate the peaks of every generator. -/
theorem exec_trigOutPulse (j : Fin 4) (s : State) : exec (.trigOutPulse j) s = execTrigOutPulse j s := rfl

/-- A pulse that is due begins, once the peaks that have come are delivered. -/
theorem trigOutPulse_due {j : Fin 4} {t0 : Nat} (hp : (finePeaks s).pwu.trig[j].pulseAt = some t0) (ht : t0 ≤ s.pm) :
    exec (.trigOutPulse j) s = .next (modTrig j (fun o =>
      { o with active := true, pulseAt := none, endAt := t0 + o.width, low := trigLow (finePeaks s) j }) (finePeaks s)) := by
  have due : t0 ≤ (finePeaks s).pm := Nat.le_trans ht (Nat.le_of_eq ((finePeaks_only s).same .pm (by decide)).symm)
  refine (exec_trigOutPulse j s).trans ?_
  unfold execTrigOutPulse
  simp only [hp, due, if_true]

/-- Settles O23, row by row. -/
theorem pwmEventsExecute : Obligations.PwmEventsExecute := by
  refine ⟨?bankBoundary, ?opens, ?zeroOnTime, ?zeroHeld, ?closes, ?closingMerges, ?finePeriod, ?gateRises, ?targetRises, ?gateFalls,
    ?targetFalls, ?pulse, ?pulseEnd⟩
  case bankBoundary => exact fun b s => bankBoundary_begins
  case opens => exact fun c u s hr hn ho hu h0 => (gridOpening_due hr hn ho hu).trans (if_neg h0)
  case zeroOnTime =>
    exact fun c u s hr hn ho hu h0 hh =>
      (gridOpening_due hr hn ho hu).trans ((if_pos h0).trans (if_neg (Bool.eq_false_iff.1 hh)))
  case zeroHeld =>
    exact fun c u s hr hn ho hu h0 hh =>
      (gridOpening_due hr hn ho hu).trans ((if_pos h0).trans ((if_pos hh).trans (apply_ite Host.Outcome.next ..).symm))
  case closes => exact fun c t0 s hc hr ht hm => (gridClosing_due hc hr ht).trans (if_neg (Bool.eq_false_iff.1 hm))
  case closingMerges => exact fun c t0 s hc hr ht hm => (gridClosing_due hc hr ht).trans (if_pos hm)
  case finePeriod =>
    intro g s hr ht
    obtain ⟨t, hx, hf⟩ := finePeriodStart_begins hr rfl ht
    refine ⟨t, hx, ?_⟩
    rw [hf]
    unfold Fine.nextPeriod
    cases s.restarting .control with
    | true => exact ⟨rfl, rfl, rfl, rfl⟩
    | false => exact ⟨rfl, rfl, rfl, rfl⟩
  case gateRises =>
    intro g x s hr ha hd
    obtain ⟨t, at_, no, hx, hf, hgrid, hnoz⟩ := gateTransition_drives x hr ha hd
    refine ⟨t, hx, ?_⟩
    rw [hf]
    exact ⟨rfl, rfl, rfl, rfl, hgrid, hnoz⟩
  case targetRises =>
    intro g x s hr ha hd
    obtain ⟨t, at_, hx, hf⟩ := gateTransition_turnsTarget x hr ha hd
    refine ⟨t, hx, ?_⟩
    rw [hf]
    exact ⟨rfl, rfl, rfl⟩
  case gateFalls =>
    intro g x s hr ha hd
    obtain ⟨t, at_, no, hx, hf, -⟩ := gateTransition_drives x hr ha hd
    refine ⟨t, hx, ?_⟩
    rw [hf]
    exact ⟨rfl, rfl, rfl, rfl⟩
  case targetFalls =>
    intro g x s hr ha hd
    obtain ⟨t, at_, hx, hf⟩ := gateTransition_turnsTarget x hr ha hd
    refine ⟨t, hx, ?_⟩
    rw [hf]
    exact ⟨rfl, rfl, rfl⟩
  case pulse => exact fun j t0 s => trigOutPulse_due
  case pulseEnd => exact fun j s ha he => if_pos ⟨ha, he⟩

end Sys2Proof.Machine
end

section
/-! PROOFS. Control loops, their misses, and flow balance under their conditions (R258, R262 to R267, R269, R426). -/

namespace Sys2Proof.Machine

variable {s t : State} {k : Fin 16} {j : Fin 4} {t0 : Nat}

theorem modLoop_loop (k : Fin 16) (f : Loop → Loop) (s : State) : (modLoop k f s).ce.loop[k] = f s.ce.loop[k] := vmod_get ..

theorem loop_eq_of_only {l : List Part} (o : Only l s t) (hl : Part.ce ∉ l := by decide) : t.ce.loop[k] = s.ce.loop[k] :=
  congrArg (fun v : CeSt => v.loop[k]) (o.same .ce hl)

/-! ### Evaluations (R258, R262, R263, R267) -/

/-- Loop `k` is due in the present sub-slot, CE runs, and it is the loop's turn before its deadline. -/
def EvaluationDue (s : State) (k : Fin 16) : Prop :=
  ceRuns s = true ∧ loopCounts s k (s.pm / 10000 * 10000) = true ∧ s.ce.loop[k].evalFor ≠ some (s.pm / 10000 * 10000) ∧
    loopTurn s k (s.pm / 10000 * 10000) = true ∧ s.pm < s.pm / 10000 * 10000 + deadline s k

/-- A CLOSED loop takes its evaluation; writing the output and reporting touch no loop. -/
theorem loopEvaluation_closed {x : LoopIn} (hd : EvaluationDue s k) (hx : loopInputs s k (s.pm / 10000 * 10000) = some x)
    (hm : loopMode s k.val = 3) :
    ∃ t, exec (.loopEvaluation k) s = .next t ∧ t.ce.loop[k] = (closedEval s k (s.pm / 10000 * 10000) x s.ce.loop[k]).1 ∧
      Only [.sys, .pd0, .host, .pwu, .lsw, .ce] s t := by
  obtain ⟨t, ht, hl⟩ : ∃ t, execLoopEvaluation k s = .next t ∧
      t.ce.loop[k] = (closedEval s k (s.pm / 10000 * 10000) x s.ce.loop[k]).1 := by
    unfold EvaluationDue at hd
    simp only [execLoopEvaluation, if_pos hd, hx, if_pos hm]
    have reported (s1 : State) (c : Prop) [Decidable c] (code : Nat) :
        Only [.sys, .host] s1 (if c then notice .ce code k.val [] s1 else s1) := Only.ite (notice_only ..) (Only.refl ..)
    refine ⟨_, rfl, (loop_eq_of_only (reported ..)).trans ((loop_eq_of_only (reported ..)).trans ?_)⟩
    exact (loop_eq_of_only (writeOutput_only ..)).trans (modLoop_loop ..)
  exact ⟨t, ht, hl, (Only.refl _ s).andThen (execLoopEvaluation_only k s t ht) (by decide)⟩

/-- A loop in OPEN or MONITOR takes its inputs; writing the output touches no loop. -/
theorem loopEvaluation_open {x : LoopIn} (hd : EvaluationDue s k) (hx : loopInputs s k (s.pm / 10000 * 10000) = some x)
    (hm : loopMode s k.val ≠ 3) :
    ∃ t, exec (.loopEvaluation k) s = .next t ∧ t.ce.loop[k] = openEval s k (s.pm / 10000 * 10000) x s.ce.loop[k] ∧
      Only [.pd0, .pwu, .lsw, .ce] s t := by
  change ∃ t, execLoopEvaluation k s = .next t ∧ _
  unfold EvaluationDue at hd
  simp only [execLoopEvaluation, if_pos hd, hx, if_neg hm]
  have written (s1 : State) (c : Prop) [Decidable c] (v : Int) : Only [.pd0, .pwu, .lsw] s1 (if c then writeOutput k v s1 else s1) :=
    Only.ite (writeOutput_only ..) (Only.refl ..)
  refine ⟨_, rfl, (loop_eq_of_only (written ..)).trans (modLoop_loop ..), ?_⟩
  exact ((Only.refl _ s).andThen (modLoop_only ..) (by decide)).andThen (written ..) (by decide)

/-- Without its inputs an evaluation does not complete (R264). -/
theorem loopEvaluation_without_inputs (hx : loopInputs s k (s.pm / 10000 * 10000) = none) : exec (.loopEvaluation k) s = .next s := by
  change execLoopEvaluation k s = _
  simp only [execLoopEvaluation, hx, ite_self]

/-! ### Misses (R264, R265, R267, R426) -/

/-- The loop after one miss at sample instant `t`, with output `u`; the third in a row is a loop fault. -/
def Loop.missed (t : Tick) (u : Int) (l : Loop) : Loop :=
  { l with miss := true, missRun := min (l.missRun + 1) 3, misses := l.misses + 1, evalFor := some t
           fault := decide (l.missRun + 1 ≥ 3), output := u }

/-- A miss is counted in its loop, whose output a loop fault may set besides. -/
theorem countLoopMiss_counts (k : Fin 16) (t : Tick) (s : State) :
    (countLoopMiss k t s).ce.lastMiss = some t ∧ ∃ u, (countLoopMiss k t s).ce.loop[k] = s.ce.loop[k].missed t u := by
  unfold countLoopMiss
  extract_lets l run s1 s2 s3
  have h1 : s1.ce.loop[k] = l.missed t l.output := modLoop_loop ..
  have o2 : Only [.sys, .host] s1 s2 := Only.ite (notice_only ..) (Only.refl ..)
  have o3 : Only [.sys, .host] s1 s3 := o2.andThen (notice_only ..) (by decide)
  split
  · split
    next u _ =>
      have ow := writeOutput_only k u (modLoop k (fun l => { l with output := u }) s3)
      refine ⟨(congrArg CeSt.lastMiss (ow.same .ce (by decide))).trans (congrArg CeSt.lastMiss (o3.same .ce (by decide))), u, ?_⟩
      refine (loop_eq_of_only ow).trans ((modLoop_loop ..).trans ?_)
      exact congrArg (fun l : Loop => { l with output := u }) ((loop_eq_of_only o3).trans h1)
    next => exact ⟨congrArg CeSt.lastMiss (o3.same .ce (by decide)), _, (loop_eq_of_only o3).trans h1⟩
  · exact ⟨congrArg CeSt.lastMiss (o2.same .ce (by decide)), _, (loop_eq_of_only o2).trans h1⟩

theorem deadlineMiss_none (hm : missedInstant s k = none) : exec (.deadlineMiss k) s = .next s := by
  change execDeadlineMiss k s = _
  simp only [execDeadlineMiss, hm]

/-- Before CE counts again, while it does not run, or for a loop in fault, no miss counts. -/
theorem deadlineMiss_uncounted (hm : missedInstant s k = some t0)
    (h : ceRuns s = false ∨ s.ce.loop[k].fault = true ∨ t0 < (elemOf s .control).doneAt.getD 0) : exec (.deadlineMiss k) s = .next s := by
  change execDeadlineMiss k s = _
  simp only [execDeadlineMiss, hm]
  exact if_pos (h.imp_left (congrArg not))

/-- The miss of loop `k` at instant `t` counts: CE has run since before it, and the loop is not in fault. -/
def MissCounts (s : State) (k : Fin 16) (t : Tick) : Prop :=
  missedInstant s k = some t ∧ ceRuns s = true ∧ s.ce.loop[k].fault = false ∧ (elemOf s .control).doneAt.getD 0 ≤ t

/-- A miss that counts: what follows it turns on whether it is a loop fault. -/
theorem deadlineMiss_counted (h : MissCounts s k t0) : exec (.deadlineMiss k) s = .next (
      if s.ce.loop[k].missRun < 2 then countLoopMiss k t0 s
      else if loopSafe s k then safeFault 0x1B .ce k.val 0 0x02 s.pm (countLoopMiss k t0 s)
      else logFault 0x1B .ce k.val reactReport 0 0x02 (countLoopMiss k t0 s)) := by
  obtain ⟨hm, hr, hf, hd⟩ := h
  obtain ⟨-, u, hl⟩ := countLoopMiss_counts k t0 s
  have counts : ¬ ((!ceRuns s) = true ∨ s.ce.loop[k].fault = true ∨ t0 < (elemOf s .control).doneAt.getD 0) := by
    rw [hr, hf]
    simpa using hd
  have fault : (!(countLoopMiss k t0 s).ce.loop[k].fault) = true ↔ s.ce.loop[k].missRun < 2 := by
    rw [hl]
    simp [Loop.missed]
  change execDeadlineMiss k s = _
  simp only [execDeadlineMiss, hm, if_neg counts, fault, apply_ite Host.Outcome.next]

theorem deadlineMiss_short (h : MissCounts s k t0) (h2 : s.ce.loop[k].missRun < 2) :
    ∃ t, exec (.deadlineMiss k) s = .next t ∧ t.ce.loop[k].misses = s.ce.loop[k].misses + 1 ∧
      t.ce.loop[k].missRun = s.ce.loop[k].missRun + 1 ∧ t.ce.loop[k].fault = false ∧ t.ce.lastMiss = some t0 ∧
      Entered s.sys.dev s.sys.prev s.sys.cause t := by
  obtain ⟨hlast, u, hl⟩ := countLoopMiss_counts k t0 s
  refine ⟨_, (deadlineMiss_counted h).trans (congrArg _ (if_pos h2)), ?_⟩
  rw [hl]
  exact ⟨rfl, Nat.min_eq_left (by omega), decide_eq_false (by omega), hlast, countLoopMiss_entered k t0 (Entered.here s)⟩

theorem deadlineMiss_safe (h : MissCounts s k t0) (h2 : 2 ≤ s.ce.loop[k].missRun) (hs : loopSafe s k = true) (ha : safeAllowed s = true) :
    ∃ t, exec (.deadlineMiss k) s = .next t ∧ Entered .safe s.sys.dev 0x1B t := by
  have hdev : (countLoopMiss k t0 s).sys.dev = s.sys.dev := (countLoopMiss_entered k t0 (Entered.here s)).1
  have he := safeFault_entered 0x1B .ce k.val 0 0x02 s.pm ((safeAllowed_of_dev hdev).trans ha)
  rw [hdev] at he
  exact ⟨_, (deadlineMiss_counted h).trans (congrArg _ ((if_neg (Nat.not_lt.2 h2)).trans (if_pos hs))), he⟩

theorem deadlineMiss_reported (h : MissCounts s k t0) (h2 : 2 ≤ s.ce.loop[k].missRun) (hs : loopSafe s k = false) :
    ∃ t, exec (.deadlineMiss k) s = .next t ∧ Logged 0x1B k.val t ∧ t.ce.loop[k].fault = true := by
  obtain ⟨-, u, hl⟩ := countLoopMiss_counts k t0 s
  refine ⟨_, (deadlineMiss_counted h).trans (congrArg _ ((if_neg (Nat.not_lt.2 h2)).trans (if_neg (Bool.eq_false_iff.1 hs)))),
    logFault_logged .., ?_⟩
  rw [loop_eq_of_only (logFault_only ..), hl]
  exact decide_eq_true (by omega)

/-! ### Flow balance (R269) -/

/-- The balance of layer `j` is on, and a test of it holds since `o`, for 2 s or longer. -/
def heldLong (s : State) (j : Fin 4) (o : Option Tick) : Bool :=
  match o with
  | some t => flowF s j 4 1 == 1 && decide (t + 160000000 ≤ s.pm)
  | none => false

theorem heldLong_iff {o : Option Tick} :
    heldLong s j o = true ↔ flowF s j 4 1 = 1 ∧ ∃ t0, o = some t0 ∧ t0 + 160000000 ≤ s.pm := by
  cases o with
  | none => simp [heldLong]
  | some t => simp [heldLong]

theorem exec_flowImbalance (j : Fin 4) (s : State) : exec (.flowImbalance j) s =
    if !s.ce.flow[j].imbalance ∧ heldLong s j s.ce.flow[j].overSince then
      .next (notice .ce 0x05 j.val (leBytes 4 (uint 32 s.ce.flow[j].rho)) (modFlow j (fun f => { f with imbalance := true }) s))
    else if s.ce.flow[j].imbalance ∧ heldLong s j s.ce.flow[j].underSince then .next (modFlow j (fun f => { f with imbalance := false }) s)
    else .next s := rfl

theorem flowImbalance_reported (hb : flowF s j 4 1 = 1) (hi : s.ce.flow[j].imbalance = false) (ho : s.ce.flow[j].overSince = some t0)
    (ht : t0 + 160000000 ≤ s.pm) :
    ∃ t, exec (.flowImbalance j) s = .next t ∧ Noted (modFlow j (fun f => { f with imbalance := true }) s) t :=
  ⟨_, (exec_flowImbalance j s).trans (if_pos ⟨congrArg not hi, heldLong_iff.2 ⟨hb, t0, ho, ht⟩⟩), notice_noted ..⟩

theorem flowImbalance_cleared (hb : flowF s j 4 1 = 1) (hi : s.ce.flow[j].imbalance = true) (hu : s.ce.flow[j].underSince = some t0)
    (ht : t0 + 160000000 ≤ s.pm) : exec (.flowImbalance j) s = .next (modFlow j (fun f => { f with imbalance := false }) s) :=
  (exec_flowImbalance j s).trans ((if_neg fun ⟨hn, _⟩ => Bool.false_ne_true (((Bool.not_eq_true' _).mp hn).symm.trans hi)).trans
    (if_pos ⟨hi, heldLong_iff.2 ⟨hb, t0, hu, ht⟩⟩))

/-- Neither test has held for 2 s where it matters: above the bound while no imbalance stands, below 80 % of it while one does. -/
theorem flowImbalance_idle (ho : s.ce.flow[j].imbalance = false → heldLong s j s.ce.flow[j].overSince ≠ true)
    (hu : s.ce.flow[j].imbalance = true → heldLong s j s.ce.flow[j].underSince ≠ true) : exec (.flowImbalance j) s = .next s :=
  (exec_flowImbalance j s).trans ((if_neg fun ⟨hi, h⟩ => ho ((Bool.not_eq_true' _).mp hi) h).trans (if_neg fun ⟨hi, h⟩ => hu hi h))

theorem heldLong_ne_of_early {o : Option Tick} (h : ∀ t0, o = some t0 → s.pm < t0 + 160000000) : heldLong s j o ≠ true := by
  intro hl
  obtain ⟨-, t0, ho, ht⟩ := heldLong_iff.1 hl
  exact Nat.not_le.2 (h t0 ho) ht

theorem heldLong_ne_of_off {o : Option Tick} (hb : flowF s j 4 1 ≠ 1) : heldLong s j o ≠ true := fun hl => hb (heldLong_iff.1 hl).1

/-- Settles O24, row by row. -/
theorem loopEventsExecute : Obligations.LoopEventsExecute := by
  refine ⟨?closed, ?opens, ?noInputs, ?noMiss, ?uncounted, ?counted, ?safe, ?reported, ?imbalance, ?balanced, ?flowEarly, ?flowOff⟩
  case closed => exact fun k x s hr hc he ht hd => loopEvaluation_closed ⟨hr, hc, he, ht, hd⟩
  case opens => exact fun k x s hr hc he ht hd => loopEvaluation_open ⟨hr, hc, he, ht, hd⟩
  case noInputs => exact fun k s => loopEvaluation_without_inputs
  case noMiss => exact fun k s => deadlineMiss_none
  case uncounted => exact fun k t0 s => deadlineMiss_uncounted
  case counted => exact fun k t0 s hm hr hf hd => deadlineMiss_short ⟨hm, hr, hf, hd⟩
  case safe => exact fun k t0 s hm hr hf hd => deadlineMiss_safe ⟨hm, hr, hf, hd⟩
  case reported => exact fun k t0 s hm hr hf hd => deadlineMiss_reported ⟨hm, hr, hf, hd⟩
  case imbalance => exact fun j t0 s => flowImbalance_reported
  case balanced => exact fun j t0 s => flowImbalance_cleared
  case flowEarly =>
    exact fun j s _ ho hu => flowImbalance_idle (fun hi => heldLong_ne_of_early (ho hi)) fun hi => heldLong_ne_of_early (hu hi)
  case flowOff => exact fun j s hb => flowImbalance_idle (fun _ => heldLong_ne_of_off hb) fun _ => heldLong_ne_of_off hb

end Sys2Proof.Machine
end

section
/-! PROOFS. The input and load switch rows out of their conditions (log entry 2). -/

namespace Sys2Proof.Machine

variable {s : State}

/-! ### Analog conversions (R282) -/

theorem finePeaks_act (s : State) : (finePeaks s).act = s.act := (finePeaks_only s).same .act (by decide)

theorem finePeaks_pm (s : State) : (finePeaks s).pm = s.pm := (finePeaks_only s).same .pm (by decide)

theorem finePeaks_pif (s : State) : (finePeaks s).pif = s.pif := (finePeaks_only s).same .pif (by decide)

theorem pifRuns_finePeaks (s : State) : pifRuns (finePeaks s) = pifRuns s := by
  have hdev : (finePeaks s).sys.dev = s.sys.dev := (finePeaks_entered (Entered.here s)).1
  simp only [pifRuns, trigRuns, hdev]

theorem ainTrigEn_finePeaks (s : State) (i : Fin 32) : ainTrigEn (finePeaks s) i = ainTrigEn s i := by
  rw [ainTrigEn, finePeaks_act, ainTrigEn]

theorem ainTrigGen_finePeaks (s : State) (i : Fin 32) : ainTrigGen (finePeaks s) i = ainTrigGen s i := by
  rw [ainTrigGen, finePeaks_act, ainTrigGen]

/-- The instant an input's conversion is of: the start of the sub-slot, or the last trigger of the fine generator it follows. -/
def conversionAt (s : State) (i : Fin 32) : Option Tick :=
  if ainTrigEn s i then
    match idx? 8 (ainTrigGen s i) with
    | some g => s.pwu.fine[g].trigAt
    | none => none
  else some (s.pm / 10000 * 10000)

theorem conversionAt_eq_some {i : Fin 32} {t0 : Nat} : conversionAt s i = some t0 ↔
    ainTrigEn s i = false ∧ t0 = s.pm / 10000 * 10000 ∨
      ainTrigEn s i = true ∧ ∃ g, idx? 8 (ainTrigGen s i) = some g ∧ s.pwu.fine[g].trigAt = some t0 := by
  unfold conversionAt
  cases ainTrigEn s i with
  | false => simp [eq_comm]
  | true => cases idx? 8 (ainTrigGen s i) <;> simp

theorem conversionAt_finePeaks {i : Fin 32} {t0 : Nat} : conversionAt (finePeaks s) i = some t0 ↔
    ainTrigEn s i = false ∧ t0 = s.pm / 10000 * 10000 ∨
      ainTrigEn s i = true ∧ ∃ g, idx? 8 (ainTrigGen s i) = some g ∧ (finePeaks s).pwu.fine[g].trigAt = some t0 := by
  rw [conversionAt_eq_some, ainTrigEn_finePeaks, ainTrigGen_finePeaks, finePeaks_pm]

/-- The value of the pin at `mv` for `t0`, read over the input's range. -/
def conversionOf (s : State) (i : Fin 32) (mv : BitVec 16) (t0 : Tick) : AinVal :=
  { pm := t0, value := min mv.toNat (ainTop s i),
    invalid := decide (min mv.toNat (ainTop s i) < ainLo s i) || decide (ainHi s i < min mv.toNat (ainTop s i)) }

theorem conversionOf_finePeaks (i : Fin 32) (mv : BitVec 16) (t0 : Tick) (s : State) :
    conversionOf (finePeaks s) i mv t0 = conversionOf s i mv t0 := by
  unfold conversionOf ainTop ainLo ainHi
  rw [finePeaks_act]

/-- A value becomes the current one and enters the history; ANALOG_INVALID is reported at its rise. -/
def takeConversion (i : Fin 32) (c : AinVal) (s : State) : State :=
  let s1 := modAin i (fun a => { a with cur := c, past := keepRecent c.pm 40000 ((c.pm, c) :: a.past) }) s
  if c.invalid ∧ !s.pif.ain[i].cur.invalid then notice .pif 0x08 i.val [] s1 else s1

theorem takeConversion_noted (i : Fin 32) (c : AinVal) (s : State) :
    Noted (modAin i (fun a => { a with cur := c, past := keepRecent c.pm 40000 ((c.pm, c) :: a.past) }) s) (takeConversion i c s) := by
  unfold takeConversion
  split
  · exact notice_noted ..
  · exact Noted.refl _

/-- The row by its instant, with the peaks that have come delivered. The peaks' state has a name: unifying through it would
evaluate the peaks of every generator. -/
theorem exec_analogConversion (i : Fin 32) (mv : BitVec 16) {s u : State} (hu : u = finePeaks s) : exec (.analogConversion i mv) s =
    (conversionAt u i).elim (.next s) fun t0 =>
      if pifRuns u ∧ u.pif.ain[i].since ≤ t0 ∧ u.pif.ain[i].past.all (·.1 < t0) then
        .next (takeConversion i (conversionOf u i mv t0) u)
      else .next s := by
  change execAnalogConversion i mv s = _
  unfold execAnalogConversion
  rw [← hu]
  clear hu
  change (match conversionAt u i with | some t0 => _ | none => _) = _
  cases conversionAt u i with
  | none => rfl
  | some t0 => rfl

/-- An input is to be converted for `t0`: PD9 is on, the input follows this source since, and it holds no conversion of then. -/
def ConversionDue (s : State) (i : Fin 32) (t0 : Tick) : Prop :=
  pifRuns s = true ∧ s.pif.ain[i].since ≤ t0 ∧ ∀ p ∈ s.pif.ain[i].past, p.1 < t0

theorem conversionDue_finePeaks (i : Fin 32) (t0 : Tick) (s : State) : ConversionDue (finePeaks s) i t0 ↔ ConversionDue s i t0 := by
  rw [ConversionDue, finePeaks_pif, pifRuns_finePeaks, ConversionDue]

theorem analogConversion_due {i : Fin 32} {t0 : Nat} (mv : BitVec 16) (h0 : conversionAt (finePeaks s) i = some t0)
    (h : ConversionDue s i t0) : exec (.analogConversion i mv) s = .next (takeConversion i (conversionOf s i mv t0) (finePeaks s)) := by
  rw [← conversionOf_finePeaks]
  rw [← conversionDue_finePeaks] at h
  generalize hu : finePeaks s = u at h0 h ⊢
  obtain ⟨hr, hs, hp⟩ := h
  rw [exec_analogConversion i mv hu.symm, h0]
  exact if_pos ⟨hr, hs, List.all_eq_true.2 fun p hm => decide_eq_true (hp p hm)⟩

theorem analogConversion_idle (i : Fin 32) (mv : BitVec 16)
    (h : ∀ t0, conversionAt (finePeaks s) i = some t0 → ¬ ConversionDue s i t0) : exec (.analogConversion i mv) s = .next s := by
  replace h t0 (h0 : conversionAt (finePeaks s) i = some t0) : ¬ ConversionDue (finePeaks s) i t0 :=
    fun hd => h t0 h0 ((conversionDue_finePeaks ..).1 hd)
  generalize hu : finePeaks s = u at h
  rw [exec_analogConversion i mv hu.symm]
  cases h0 : conversionAt u i with
  | none => rfl
  | some t0 =>
    exact if_neg fun ⟨hr, hs, hp⟩ => h t0 h0 ⟨hr, hs, fun p hm => of_decide_eq_true (List.all_eq_true.1 hp p hm)⟩

/-! ### Load switches (R298 to R300, R310) -/

/-- LSW_OPEN_LOAD of a channel not tested, or reported. -/
theorem lswOpenLoad_present_idle (c : Fin 16) (h : ¬ ((s.lsw.ls[c].st = .on ∨ offDiagnosed s c = true) ∧ s.lsw.ls[c].openLoad = false)) :
    exec (.lswOpenLoad c true) s = .next s :=
  (if_neg fun ⟨_, ht, ho⟩ => h ⟨ht, (Bool.not_eq_true' _).mp ho⟩).trans (if_neg fun ⟨hp, _⟩ => Bool.false_ne_true hp)

theorem lswOpenLoad_absent_idle (c : Fin 16) (h : ¬ s.lsw.ls[c].openLoad = true) : exec (.lswOpenLoad c false) s = .next s :=
  if_neg fun ⟨_, ho⟩ => h ho

/-- LSW_SHORT_BAT of a channel not tested, or reported. -/
theorem lswShortBat_present_idle (c : Fin 16) (h : ¬ (offDiagnosed s c = true ∧ s.lsw.ls[c].shortBat = false)) :
    exec (.lswShortBat c true) s = .next s :=
  (if_neg fun ⟨_, ht, hb⟩ => h ⟨ht, (Bool.not_eq_true' _).mp hb⟩).trans (if_neg fun ⟨hp, _⟩ => Bool.false_ne_true hp)

theorem lswShortBat_absent_idle (c : Fin 16) (h : ¬ s.lsw.ls[c].shortBat = true) : exec (.lswShortBat c false) s = .next s :=
  if_neg fun ⟨_, hb⟩ => h hb

/-- A sample of a switch's sensor that THS does not take, outside OFF. -/
theorem lswOvertemp_idle (c : Fin 16) (x : Int) (h : ¬ (thsTakes s 8 (lswSensor c) = true ∨ s.sys.dev = .off)) :
    exec (.lswOvertemp c x) s = .next s :=
  (if_neg fun ht => h (.inl ht)).trans (if_neg fun hd => h (.inr hd))

theorem thermLatchRelease_idle (c : Fin 16) (x : Int) (h : ¬ (thsTakes s 8 (lswSensor c) = true ∨ s.sys.dev = .off)) :
    exec (.thermLatchRelease c x) s = .next s :=
  (if_neg fun ht => h (.inl ht)).trans (if_neg fun hd => h (.inr hd))

/-- Settles O35: outside its condition each row takes the branch that answers the state as it is. -/
theorem inputAndSwitchEventsIdle : Obligations.InputAndSwitchEventsIdle := by
  refine ⟨?encoderTransition, ?index, ?hallTransition, ?hallIllegal, ?freqEdge, ?eventEdge, ?analogConversion, ?emuOutputStep, ?inrushStep,
    ?openLoad, ?openLoadEnds, ?shortBat, ?shortBatEnds, ?short, ?overload, ?overtemp, ?thermLatchRelease, ?aggregate, ?shedStep, ?retryDue,
    ?offAfterExpiry⟩
  case encoderTransition => exact fun i ba s h => if_neg h
  case index => exact fun i ba s h => if_neg h
  case hallTransition => exact fun i wvu s h => if_neg h
  case hallIllegal => exact fun i s h => if_neg (by simpa using h)
  case freqEdge => exact fun i s h => if_neg h
  case eventEdge => exact fun i f s h => if_neg h
  case analogConversion =>
    exact fun i mv s h =>
      analogConversion_idle i mv fun t0 h0 ⟨hr, hs, hp⟩ => h ⟨hr, t0, conversionAt_finePeaks.1 h0, hs, hp⟩
  case emuOutputStep => exact fun x s h => if_neg h
  case inrushStep => exact fun c s h => if_neg h
  case openLoad => exact fun c s h => lswOpenLoad_present_idle c h
  case openLoadEnds => exact fun c s h => lswOpenLoad_absent_idle c h
  case shortBat => exact fun c s h => lswShortBat_present_idle c h
  case shortBatEnds => exact fun c s h => lswShortBat_absent_idle c h
  case short => exact fun c s h => if_neg h
  case overload => exact fun c s h => if_neg (by simpa using h)
  case overtemp => exact fun c x s h => lswOvertemp_idle c x h
  case thermLatchRelease => exact fun c x s h => thermLatchRelease_idle c x h
  case aggregate => exact fun a s h => if_neg (by simpa using h)
  case shedStep => exact fun a s h => if_neg h
  case retryDue => exact fun c s h => if_neg (by simpa using h)
  case offAfterExpiry => exact fun c s h => if_neg h

end Sys2Proof.Machine
end

section
/-! PROOFS. Input events under their conditions (R272, R273, R275, R278 to R282, R285). -/

namespace Sys2Proof.Machine

variable {s : State} {i : Fin 4} {t0 : Nat}

/-! ### One input changed twice -/

theorem vmod_congr {α : Type} {n : Nat} (v : Vector α n) (i : Fin n) {f g : α → α} (h : f v[i] = g v[i]) : vmod v i f = vmod v i g := by
  unfold vmod
  rw [h]

theorem vmod_vmod {α : Type} {n : Nat} (v : Vector α n) (i : Fin n) (f g : α → α) : vmod (vmod v i f) i g = vmod v i fun x => g (f x) := by
  unfold vmod
  simp

theorem modEnc_enc (i : Fin 4) (f : Enc → Enc) (s : State) : (modEnc i f s).pif.enc[i] = f s.pif.enc[i] := vmod_get ..

theorem modHall_hall (i : Fin 4) (f : Enc → Enc) (s : State) : (modHall i f s).pif.hall[i] = f s.pif.hall[i] := vmod_get ..

theorem modHall_congr (i : Fin 4) {f g : Enc → Enc} (s : State) (h : f s.pif.hall[i] = g s.pif.hall[i]) : modHall i f s = modHall i g s :=
  congrArg (fun v => s.onPif fun p => { p with hall := v }) (vmod_congr _ i h)

theorem modFreq_freq (i : Fin 16) (f : Freq → Freq) (s : State) : (modFreq i f s).pif.freq[i] = f s.pif.freq[i] := vmod_get ..

theorem modFreq_congr (i : Fin 16) {f g : Freq → Freq} (s : State) (h : f s.pif.freq[i] = g s.pif.freq[i]) : modFreq i f s = modFreq i g s :=
  congrArg (fun v => s.onPif fun p => { p with freq := v }) (vmod_congr _ i h)

theorem modEvt_evt (i : Fin 8) (f : EvtIn → EvtIn) (s : State) : (modEvt i f s).pif.evt[i] = f s.pif.evt[i] := vmod_get ..

theorem modEvt_modEvt (i : Fin 8) (f g : EvtIn → EvtIn) (s : State) : modEvt i g (modEvt i f s) = modEvt i (fun v => g (f v)) s :=
  congrArg (fun v => s.onPif fun p => { p with evt := v }) (vmod_vmod _ i f g)

theorem modEvt_congr (i : Fin 8) {f g : EvtIn → EvtIn} (s : State) (h : f s.pif.evt[i] = g s.pif.evt[i]) : modEvt i f s = modEvt i g s :=
  congrArg (fun v => s.onPif fun p => { p with evt := v }) (vmod_congr _ i h)

theorem modEmu_emu (x : Fin 2) (f : Emu → Emu) (s : State) : (modEmu x f s).pif.emu[x] = f s.pif.emu[x] := vmod_get ..

/-! ### Encoders (R273, R274) -/

/-- The encoder takes the state `ba`, and its lines' changes are accepted now. -/
def encTakes (i : Fin 4) (ba : Nat) (s : State) : State :=
  modEnc i (fun e => { e with state := ba, accepted := acceptLines s.pm (ba ^^^ e.state) e.accepted }) s

theorem quadStep_stays {ba : Nat} (h : quadPos ba = quadPos s.pif.enc[i].state) :
    quadStep i t0 ba s = modEnc i (Enc.note t0) (encTakes i ba s) :=
  if_pos (by rw [h, Nat.add_sub_cancel_left])

theorem quadStep_illegal {ba : Nat} (h : (quadPos ba + 4 - quadPos s.pif.enc[i].state) % 4 = 2) :
    quadStep i t0 ba s = noticeAt .pif 0x01 i.val t0 [] (modEnc i (fun e => (e.drop t0).unsure.note t0) (encTakes i ba s)) :=
  (if_neg (by omega)).trans (if_pos h)

theorem quadStep_legal {ba : Nat} {d : Int}
    (h : (quadPos ba + 4 - quadPos s.pif.enc[i].state) % 4 = 1 ∧ d = (if encDirInv s i then -1 else 1) ∨
      (quadPos ba + 4 - quadPos s.pif.enc[i].state) % 4 = 3 ∧ d = (if encDirInv s i then 1 else -1)) :
    quadStep i t0 ba s = emuFollow i d (modEnc i (fun e => (e.legal t0 d).note t0) (encTakes i ba s)) := by
  have hd : d = (if (quadPos ba + 4 - quadPos s.pif.enc[i].state) % 4 = 1 then 1 else -1) * (if encDirInv s i then -1 else 1) := by
    obtain ⟨hk, hd⟩ | ⟨hk, hd⟩ := h
    · rw [hk, hd, if_pos rfl, one_mul]
    · rw [hk, hd]
      cases encDirInv s i with
      | false => rfl
      | true => rfl
  rw [hd]
  exact (if_neg (by omega)).trans (if_neg (by omega))

/-- The lines of encoder `i` have stood long enough for the state `ba`. -/
def EncReady (s : State) (i : Fin 4) (ba : BitVec 2) : Prop :=
  pifRuns s = true ∧ linesReady s (encFilter s i) (ba.toNat ^^^ s.pif.enc[i].state) s.pif.enc[i].accepted = true

theorem encoderTransition_accepted {ba : BitVec 2} (h : EncReady s i ba) (h0 : t0 = acceptedPm s (encFilter s i)) :
    exec (.encoderTransition i ba) s = .next (quadStep i t0 ba.toNat s) := by
  rw [h0]
  exact if_pos h

/-! ### The index (R275) -/

theorem acceptLines_get {now chg : Nat} (v : Vector (Option Tick) 3) {k : Fin 3} (h : bitN chg k.val = true) :
    (acceptLines now chg v)[k] = some now := by
  simp only [acceptLines, vmapIdx, Fin.getElem_fin, Vector.getElem_ofFn, h, if_true]

/-- COUNT is latched at `t`, where the gate lets the index through; mode `mode` may set it to `v`. -/
def Enc.indexed (mode : Nat) (v : Int) (t : Tick) (e : Enc) : Enc :=
  let e1 := { e with indexCount := e.count, indexPm := t, indexSeen := true, idxFresh := true, idxArm := false }
  let e2 := if (mode = 2 ∨ (mode = 3 ∧ e.idxArm)) ∧ !e.setAt.any (t ≤ ·) then { e1.setCount v with resetPm := some t } else e1
  (if mode ≥ 2 then { e2 with uncertain := false } else e2).note t

/-- A mode that sets COUNT sets it, where the host has not set it since (R275, R276). -/
theorem Enc.indexed_sets {mode : Nat} {t : Tick} {e : Enc} (v : Int) (hm : mode = 2 ∨ (mode = 3 ∧ e.idxArm = true))
    (ha : ∀ a, e.setAt = some a → a < t) : e.indexed mode v t = Enc.note t { e with
      indexCount := e.count, indexPm := t, indexSeen := true, idxFresh := true, idxArm := false, count := wrap32 v, resetPm := some t,
      uncertain := false } := by
  have unset : (!e.setAt.any (t ≤ ·)) = true := by
    cases hs : e.setAt with
    | none => rfl
    | some a => simpa using ha a hs
  unfold Enc.indexed
  extract_lets e1 counted e2
  have sets : e2 = { e1.setCount v with resetPm := some t } := if_pos ⟨hm, unset⟩
  rw [if_pos (show mode ≥ 2 by omega), sets]
  rfl

/-- The changes of A and B that come with the index, then the acceptance of Z. -/
def indexLines (i : Fin 4) (t0 : Tick) (ba : Nat) (s : State) : State :=
  modEnc i (fun e => { e with accepted := acceptLines s.pm 4 e.accepted }) (quadStep i t0 ba s)

/-- Z of encoder `i` is accepted at the state `ba`. -/
def IndexReady (s : State) (i : Fin 4) (ba : BitVec 2) : Prop :=
  pifRuns s = true ∧ linesReady s (encFilter s i) (ba.toNat ^^^ s.pif.enc[i].state) s.pif.enc[i].accepted = true ∧
    lineReady s (2 * encFilter s i) s.pif.enc[i].accepted[(2 : Fin 3)] = true

theorem index_closed {ba : BitVec 2} (h : IndexReady s i ba) (h0 : t0 = acceptedPm s (encFilter s i))
    (hg : indexMode s i = 0 ∨ (gateEn s i = true ∧ gateAb s i ≠ ba.toNat)) :
    exec (.index i ba) s = .next (indexLines i t0 ba.toNat s) := by
  rw [h0]
  exact (if_pos h).trans (if_pos hg)

theorem index_open {ba : BitVec 2} (h : IndexReady s i ba) (h0 : t0 = acceptedPm s (encFilter s i)) (hm : indexMode s i ≠ 0)
    (hg : gateEn s i = false ∨ gateAb s i = ba.toNat) : exec (.index i ba) s =
      .next (modEnc i (Enc.indexed (indexMode s i) (indexValue s i) t0) (indexLines i t0 ba.toNat s)) := by
  rw [h0]
  refine (if_pos h).trans (if_neg ?_)
  rintro (hz | ⟨he, hne⟩)
  · exact hm hz
  · exact hg.elim (fun hf => Bool.false_ne_true (hf.symm.trans he)) hne

/-! ### Halls (R278, R279) -/

/-- The hall input takes the state `w`, and its lines' changes are accepted now. -/
def hallTakes (i : Fin 4) (w : Nat) (s : State) : State :=
  modHall i (fun e => { e with state := w, accepted := acceptLines s.pm (w ^^^ e.state) e.accepted }) s

/-- The lines of hall input `i` have stood long enough for the state `wvu`. -/
def HallReady (s : State) (i : Fin 4) (wvu : BitVec 3) : Prop :=
  pifRuns s = true ∧ linesReady s (hallFilter s i) (wvu.toNat ^^^ s.pif.hall[i].state) s.pif.hall[i].accepted = true

/-- HALL_TRANSITION by its new state: none of the lines or all of them make an illegal one (R279). -/
theorem exec_hallTransition {wvu : BitVec 3} (h : HallReady s i wvu) (h0 : t0 = acceptedPm s (hallFilter s i)) :
    exec (.hallTransition i wvu) s =
      if wvu = 0 ∨ wvu = 7 then .next (modHall i (fun e => (if e.hallIllegal then e
        else { e.drop t0 with hallIllegal := true, illegalAt := t0 }).note t0) (hallTakes i wvu.toNat s))
      else .next (hallStep i t0 wvu.toNat (hallTakes i wvu.toNat s)) := by
  rw [h0]
  change execHallTransition i wvu s = _
  unfold execHallTransition
  extract_lets e0 chg now s1
  have takes : s1 = hallTakes i wvu.toNat s := modHall_congr i s rfl
  rw [takes]
  exact if_pos h

theorem hallTakes_hallIllegal (i : Fin 4) (w : Nat) (s : State) : (hallTakes i w s).pif.hall[i].hallIllegal = s.pif.hall[i].hallIllegal := by
  rw [hallTakes, modHall_hall]

theorem hallTransition_illegal {wvu : BitVec 3} (h : HallReady s i wvu) (h0 : t0 = acceptedPm s (hallFilter s i))
    (hw : wvu = 0 ∨ wvu = 7) (hi : s.pif.hall[i].hallIllegal = false) : exec (.hallTransition i wvu) s =
      .next (modHall i (fun e => Enc.note t0 { e.drop t0 with hallIllegal := true, illegalAt := t0 }) (hallTakes i wvu.toNat s)) := by
  have legal : ¬ (hallTakes i wvu.toNat s).pif.hall[i].hallIllegal = true := by
    rw [hallTakes_hallIllegal, hi]
    exact Bool.false_ne_true
  rw [exec_hallTransition h h0, if_pos hw]
  exact congrArg Host.Outcome.next (modHall_congr i _ (congrArg (Enc.note t0) (if_neg legal)))

theorem hallTransition_stillIllegal {wvu : BitVec 3} (h : HallReady s i wvu) (h0 : t0 = acceptedPm s (hallFilter s i))
    (hw : wvu = 0 ∨ wvu = 7) (hi : s.pif.hall[i].hallIllegal = true) :
    exec (.hallTransition i wvu) s = .next (modHall i (Enc.note t0) (hallTakes i wvu.toNat s)) := by
  rw [exec_hallTransition h h0, if_pos hw]
  exact congrArg Host.Outcome.next
    (modHall_congr i _ (congrArg (Enc.note t0) (if_pos ((hallTakes_hallIllegal ..).trans hi))))

/-! ### Frequency inputs (R280) -/

/-- The edge at `now` comes less than 1,600 ticks after the one before. -/
def Freq.fast (now : Tick) (f : Freq) : Bool := match f.edges with
  | t :: _ => decide (now < t + 1600)
  | [] => false

theorem Freq.fast_iff {now : Tick} {f : Freq} : f.fast now = true ↔ ∃ e, f.edges.head? = some e ∧ now < e + 1600 := by
  unfold Freq.fast
  cases f.edges with
  | nil => simp
  | cons t l => simp

/-- An edge of the selected polarity is counted. -/
def Freq.counted (now : Tick) (f : Freq) : Freq :=
  Freq.note now { f with
    pulses := f.pulses + 1, lastPm := now, stopped := false, overrange := f.overrange || f.fast now
    edges := (keepRecent now (longestGate + 1) ((now :: f.edges).map fun t => (t, ()))).map (·.1) }

/-- The line changes its level. -/
def freqTurns (i : Fin 16) (s : State) : State := modFreq i (fun f => { f with level := !f.level, acceptedAt := some s.pm }) s

/-- The line of frequency input `i` has stood long enough. -/
def FreqReady (s : State) (i : Fin 16) : Prop := pifRuns s = true ∧ lineReady s (freqFilter s i) s.pif.freq[i].acceptedAt = true

theorem freqEdge_uncounted {i : Fin 16} (h : FreqReady s i) (hl : s.pif.freq[i].level ≠ freqFalling s i) :
    exec (.freqEdge i) s = .next (freqTurns i s) :=
  (if_pos h).trans (if_pos hl)

/-- OVERRANGE is reported at its rise. -/
theorem exec_freqEdge_counted {i : Fin 16} (h : FreqReady s i) (h0 : t0 = acceptedPm s (freqFilter s i))
    (hl : s.pif.freq[i].level = freqFalling s i) : exec (.freqEdge i) s =
      .next (if s.pif.freq[i].fast t0 ∧ !s.pif.freq[i].overrange then
        noticeAt .pif 0x05 i.val t0 [] (modFreq i (Freq.counted t0) (freqTurns i s))
      else modFreq i (Freq.counted t0) (freqTurns i s)) := by
  rw [h0]
  change execFreqEdge i s = _
  unfold execFreqEdge
  extract_lets f now s1 fast s2
  have counts : s2 = modFreq i (Freq.counted now) s1 := by
    refine modFreq_congr i s1 ?_
    rw [modFreq_freq]
    rfl
  rw [counts]
  exact (if_pos h).trans (if_neg (not_not_intro hl))

theorem freqEdge_counted {i : Fin 16} (h : FreqReady s i) (h0 : t0 = acceptedPm s (freqFilter s i))
    (hl : s.pif.freq[i].level = freqFalling s i) :
    ∃ t, exec (.freqEdge i) s = .next t ∧ Noted (modFreq i (Freq.counted t0) (freqTurns i s)) t := by
  refine ⟨_, exec_freqEdge_counted h h0 hl, ?_⟩
  split
  · exact noticeAt_noted ..
  · exact Noted.refl _

/-! ### Event inputs (R281) -/

/-- The line of event input `i` has stood long enough. -/
def EvtReady (s : State) (i : Fin 8) : Prop := pifRuns s = true ∧ lineReady s (evtFilter s i) s.pif.evt[i].acceptedAt = true

/-- EVENT_EDGE of an edge that EDGES selects: it is stored while an entry is free. -/
theorem exec_eventEdge_selected {i : Fin 8} {f : Bool} (h : EvtReady s i) (he : bitN (evtEdges s i) (if f then 1 else 0) = true) :
    exec (.eventEdge i f) s = if s.pif.evt[i].fifo.length < 32 then
      .next (modEvt i (fun v => { v with acceptedAt := some s.pm, seq := v.seq + 1, fifo := v.fifo ++
        [{ pm := acceptedPm s (evtFilter s i), input := i.val, falling := f, seq := v.seq + 1 }] }) s)
    else .next (notice .pif 0x04 i.val []
      (modEvt i (fun v => { v with acceptedAt := some s.pm, seq := v.seq + 1, lost := v.lost + 1 }) s)) := by
  change execEventEdge i f s = _
  unfold execEventEdge
  extract_lets s1 q s2
  have hv : s1.pif.evt[i] = { s.pif.evt[i] with acceptedAt := some s.pm } := modEvt_evt ..
  have hq : q = s.pif.evt[i].seq + 1 := congrArg (·.seq + 1) hv
  have takes (g : EvtIn → EvtIn) : modEvt i g s2 = modEvt i (fun v => g { v with acceptedAt := some s.pm, seq := v.seq + 1 }) s := by
    rw [modEvt_modEvt, modEvt_modEvt, hq]
    exact modEvt_congr i s rfl
  have selected : ¬ (!bitN (evtEdges s1 i) (if f then 1 else 0)) = true := by
    rw [show evtEdges s1 i = evtEdges s i from rfl, he]
    exact Bool.false_ne_true
  rw [hv, takes, takes, hq]
  refine (if_pos h).trans ((if_neg selected).trans ?_)
  split
  · exact congrArg Host.Outcome.next (modEvt_congr i s rfl)
  · rfl

theorem eventEdge_unselected {i : Fin 8} {f : Bool} (h : EvtReady s i) (he : bitN (evtEdges s i) (if f then 1 else 0) = false) :
    exec (.eventEdge i f) s = .next (modEvt i (fun v => { v with acceptedAt := some s.pm }) s) :=
  (if_pos h).trans (if_pos ((Bool.not_eq_true' _).mpr he))

/-! ### Encoder emulation (R285) -/

theorem Emu.carry_accAt (now : Tick) (m : Emu) : (m.carry now).accAt = now := by
  unfold Emu.carry
  split
  · split <;> rfl
  · rfl

/-- What is carried to `now` gains nothing there. -/
theorem Emu.carry_acc {now : Tick} {m : Emu} (h : m.accAt = now) : (m.carry now).acc = m.acc := by
  unfold Emu.carry
  rw [h, Nat.sub_self]
  split
  · next t r _ =>
    split
    · next ht => simp [Nat.sub_eq_zero_of_le ht, Nat.max_eq_right ht]
    · simp
  · simp

theorem emuUpdate_pm (x : Fin 2) (f : Emu → Emu) (s : State) : (emuUpdate x f s).pm = s.pm := (emuUpdate_only ..).same .pm (by decide)

theorem emuUpdate_emu (x : Fin 2) (f : Emu → Emu) (s : State) :
    (emuUpdate x f s).pif.emu[x] = ((f (s.pif.emu[x].carry s.pm)).settle s.pm).note s.pm := by
  unfold emuUpdate
  extract_lets m m' s1
  have h1 : s1.pif.emu[x] = m' := modEmu_emu ..
  split
  · exact (congrArg (fun v : PifSt => v.emu[x]) ((notice_only ..).same .pif (by decide))).trans h1
  · exact h1

theorem emuUpdate_congr {x : Fin 2} {f g : Emu → Emu} (h : f (s.pif.emu[x].carry s.pm) = g (s.pif.emu[x].carry s.pm)) :
    emuUpdate x f s = emuUpdate x g s := by
  simp only [emuUpdate, h]

/-- One quadrature change of the output, in the direction of what is due. -/
def Emu.stepped (inv : Bool) (now : Tick) (m : Emu) : Emu :=
  { m with acc := m.acc - m.whole.sign * emuUnit, count := wrap32 (m.count + m.whole.sign * (if inv then -1 else 1)),
           steps := m.steps + m.whole.sign * (if inv then -1 else 1), lastStep := some now }

/-- What is due does not change between the two updates of one step. -/
theorem whole_carry_emuUpdate (x : Fin 2) (s : State) :
    ((emuUpdate x id s).pif.emu[x].carry (emuUpdate x id s).pm).whole = (emuUpdate x id s).pif.emu[x].whole := by
  have carried : (emuUpdate x id s).pif.emu[x].accAt = s.pm := by
    rw [emuUpdate_emu]
    exact Emu.carry_accAt ..
  unfold Emu.whole
  rw [emuUpdate_pm, Emu.carry_acc carried]

theorem emuOutputStep_steps {x : Fin 2} {m : Emu} (hr : emuRuns s x = true) (hm : (emuUpdate x id s).pif.emu[x] = m) (hw : m.whole ≠ 0)
    (hf : ∀ t0, m.lastStep = some t0 → t0 + 160 ≤ s.pm) :
    exec (.emuOutputStep x) s = .next (emuUpdate x (Emu.stepped (emuInv s x) s.pm) (emuUpdate x id s)) := by
  subst hm
  change execEmuOutputStep x s = _
  unfold execEmuOutputStep
  extract_lets s1 m free d
  have isFree : free = true := by
    unfold free
    split
    · next t0 h0 => exact decide_eq_true (hf t0 h0)
    · rfl
  rw [if_pos hr, if_pos ⟨hw, isFree⟩]
  refine congrArg Host.Outcome.next (emuUpdate_congr ?_)
  unfold Emu.stepped
  rw [whole_carry_emuUpdate]

theorem emuOutputStep_waits {x : Fin 2} {m : Emu} (hr : emuRuns s x = true) (hm : (emuUpdate x id s).pif.emu[x] = m)
    (hw : m.whole = 0 ∨ ∃ t0, m.lastStep = some t0 ∧ s.pm < t0 + 160) : exec (.emuOutputStep x) s = .next (emuUpdate x id s) := by
  subst hm
  refine (if_pos hr).trans (if_neg ?_)
  rintro ⟨due, isFree⟩
  obtain h0 | ⟨t0, hl, ht⟩ := hw
  · exact due h0
  · rw [hl] at isFree
    exact Nat.not_le.2 ht (of_decide_eq_true isFree)

/-- Settles O25, row by row. -/
theorem inputEventsExecute : Obligations.InputEventsExecute := by
  refine ⟨?encStays, ?encIllegal, ?encCounts, ?indexClosed, ?indexLatches, ?indexSets, ?hallLegal, ?hallIllegalBegins, ?hallIllegalStays,
    ?hallReported, ?freqCounted, ?freqUncounted, ?evtStored, ?evtLost, ?evtUnselected, ?conversion, ?emuSteps, ?emuWaits⟩
  case encStays =>
    exact fun i ba t0 s hr hl h0 hk =>
      (encoderTransition_accepted ⟨hr, hl⟩ h0).trans (congrArg Host.Outcome.next (quadStep_stays hk))
  case encIllegal =>
    intro i ba t0 s hr hl h0 hk
    refine ⟨_, encoderTransition_accepted ⟨hr, hl⟩ h0, ?_⟩
    rw [quadStep_illegal hk]
    exact noticeAt_noted ..
  case encCounts =>
    exact fun i ba t0 d s hr hl h0 hk =>
      (encoderTransition_accepted ⟨hr, hl⟩ h0).trans (congrArg Host.Outcome.next (quadStep_legal hk))
  case indexClosed => exact fun i ba t0 s hr hl hz h0 hg => index_closed ⟨hr, hl, hz⟩ h0 hg
  case indexLatches =>
    intro i ba t0 s hr hl hz h0 hm hg
    refine ⟨_, index_open ⟨hr, hl, hz⟩ h0 (by omega) hg, ?_⟩
    rw [hm]
    rfl
  case indexSets =>
    intro i ba t0 s hr hl hz h0 hm hg ha
    have latched : (indexLines i t0 ba.toNat s).pif.enc[i] = _ := modEnc_enc ..
    have sets := Enc.indexed_sets (e := (indexLines i t0 ba.toNat s).pif.enc[i]) (indexValue s i) (by rwa [latched]) (by rwa [latched])
    refine ⟨_, index_open ⟨hr, hl, hz⟩ h0 (by omega) hg, ?_⟩
    rw [modEnc_enc, sets, latched]
    exact ⟨rfl, rfl, rfl, rfl, rfl, rfl, rfl, rfl, acceptLines_get _ (by decide),
      (modEnc_only ..).andThen (modEnc_only ..) (by decide)⟩
  case hallLegal =>
    exact fun i wvu t0 s hr hl h0 hn0 hn7 => (exec_hallTransition ⟨hr, hl⟩ h0).trans (if_neg fun hw => hw.elim hn0 hn7)
  case hallIllegalBegins => exact fun i wvu t0 s hr hl h0 => hallTransition_illegal ⟨hr, hl⟩ h0
  case hallIllegalStays => exact fun i wvu t0 s hr hl h0 => hallTransition_stillIllegal ⟨hr, hl⟩ h0
  case hallReported =>
    exact fun i s hi hv ht => ⟨_, if_pos ⟨hi, (Bool.not_eq_true' _).mpr hv, ht⟩, notice_noted ..⟩
  case freqCounted =>
    intro i t0 s hr hl hlevel h0
    obtain ⟨t, hx, reports⟩ := freqEdge_counted ⟨hr, hl⟩ h0 hlevel
    have hpif : t.pif = _ := reports.same .pif (by decide)
    refine ⟨t, hx, ?_⟩
    rw [hpif, modFreq_freq, freqTurns, modFreq_freq]
    exact ⟨rfl, rfl, rfl, rfl, rfl, Bool.or_eq_true_iff.trans (or_congr_right Freq.fast_iff), rfl, rfl, rfl, rfl, rfl⟩
  case freqUncounted => exact fun i s hr hl => freqEdge_uncounted ⟨hr, hl⟩
  case evtStored => exact fun i f s hr hl he h32 => (exec_eventEdge_selected ⟨hr, hl⟩ he).trans (if_pos h32)
  case evtLost =>
    exact fun i f s hr hl he h32 => ⟨_, (exec_eventEdge_selected ⟨hr, hl⟩ he).trans (if_neg (Nat.not_lt.2 h32)), notice_noted ..⟩
  case evtUnselected => exact fun i f s hr hl => eventEdge_unselected ⟨hr, hl⟩
  case conversion =>
    rintro i mv t0 _ _ s hr h0 hs hp rfl rfl
    refine ⟨_, analogConversion_due mv (conversionAt_finePeaks.2 h0) ⟨hr, hs, hp⟩, ?_⟩
    rw [Bool.decide_or]
    exact takeConversion_noted i (conversionOf s i mv t0) (finePeaks s)
  case emuSteps => exact fun x m s => emuOutputStep_steps
  case emuWaits => exact fun x m s => emuOutputStep_waits

end Sys2Proof.Machine
end

section
/-! PROOFS. PIF_EVENTS_READ answers the records taken at a freeze alone (R281, R394). -/

namespace Sys2Proof.Machine

variable {op : BitVec 16} {e : Env} {n : Nat} {s : State} {i : Fin 8}

/-- An answer leaves PIF to the effect of the request. -/
theorem finish_pif (op : BitVec 16) (e : Env) (n : Nat) (s : State) (f : State → State × Answer) :
    (finish op e n s f).pif = (f (admitted e n s)).1.pif := (answer_only ..).same .pif (by decide)

/-- The records PIF_EVENTS_READ removes: of those postmarked before the last freeze, the oldest. -/
def eventsTaken (s : State) (i : Fin 8) (m : Nat) : List EvtRec :=
  (s.pif.evt[i].fifo.takeWhile fun r => s.sys.lastEdge.any (r.pm < ·)).take m

/-- PIF_EVENTS_READ of an input that does not notify. -/
theorem opPifEventsRead_takes (h3 : arg e 3 5 = 0) (h0 : 0 < arg e 8 8) (h32 : arg e 8 8 ≤ 32) (hi : idx? 8 (arg e 0 3) = some i)
    (hn : evtNotify s i = false) : opPifEventsRead e s =
      (modEvt i (fun v => { v with fifo := v.fifo.drop (eventsTaken s i (arg e 8 8)).length }) s,
       { data := leBytes 4 (eventsTaken s i (arg e 8 8)).length ++ (eventsTaken s i (arg e 8 8)).flatMap EvtRec.bytes }) := by
  have inRange : ¬ (arg e 8 8 = 0 ∨ arg e 8 8 > 32) := by omega
  simp only [opPifEventsRead, h3, inRange, hi, hn, doneWith, ne_eq, not_true_eq_false, if_false, Bool.false_eq_true]
  exact congrArg (Prod.mk · _) (modEvt_congr i s rfl)

theorem eventsTaken_admitted (e : Env) (n : Nat) (s : State) (i : Fin 8) (m : Nat) :
    eventsTaken (admitted e n s) i m = eventsTaken s i m := by
  unfold eventsTaken
  rw [admitted_pif, admitted_sys]

/-- PIF_EVENTS_READ answers and removes the oldest records of those taken at a freeze. -/
theorem pifEventsRead_completes (h : Accepted 0x0803 e n s) (hl : e.payload.length = 2) (hd : s.sys.dev ∈ inBAMCF) (h3 : arg e 3 5 = 0)
    (h0 : 0 < arg e 8 8) (h32 : arg e 8 8 ≤ 32) (hi : idx? 8 (arg e 0 3) = some i) (hn : evtNotify s i = false) :
    exec (.pifEventsRead e) s = .next (finish 0x0803 e n s fun u =>
      (modEvt i (fun v => { v with fifo := v.fifo.drop (eventsTaken s i (arg e 8 8)).length }) u,
       { data := leBytes 4 (eventsTaken s i (arg e 8 8)).length ++ (eventsTaken s i (arg e 8 8)).flatMap EvtRec.bytes })) := by
  have still : evtNotify (admitted e n s) i = false := by rwa [evtNotify, admitted_act]
  refine request_completes rfl h hd (lenIs_of hl) ((opPifEventsRead_takes h3 h0 h32 hi still).trans ?_) rfl
  rw [eventsTaken_admitted]

/-- A device in STANDBY ten ticks after a frame edge, with an event of input 0, which the host reads, postmarked since. -/
def eventSinceFreeze : State :=
  { State.reset with
    running := true, pm := 40010
    sys := { dev := .standby, hostAlive := true, bootStage := 4, mapReady := true, powered := true, lastEdge := some 40000 }
    pwr := { State.reset.pwr with domains := 0xFFF, vkey := true, vbatOk := true }
    act := State.reset.act.setImage .pif (setBits (State.reset.act.image .pif) 1288 3 1)
    pif := { evt := Vector.replicate 8 { fifo := [{ pm := 40005, seq := 1 }], seq := 1 } } }

/-- The host asks for one event of input 0. -/
def readOneEvent : Env := { payload := [0, 1], payCrc := 0x36DE2269, hdrCrc := 0xB6F1 }

theorem readOneEvent_accepted : Accepted 0x0803 readOneEvent 0 eventSinceFreeze where
  listens := by decide +kernel
  header := by decide +kernel
  bits := by decide
  version := rfl
  credit := by decide +kernel
  crc := by decide +kernel
  tag := by decide +kernel
  unheld := by decide +kernel
  new := by decide +kernel
  ready := by decide +kernel

/-- Its event is not before the edge, so the last freeze has taken none. -/
theorem eventsTaken_eventSinceFreeze : eventsTaken eventSinceFreeze 0 1 = [] := by decide

/-- Refutes O8: PIF_EVENTS_READ answers and removes the records postmarked before the last freeze alone (R281). The event of
`eventSinceFreeze` stays, while the statement removes it. -/
theorem not_ioRequestsExecute : ¬ Obligations.IoRequestsExecute := by
  rintro ⟨-, -, -, reads⟩
  have stated := reads readOneEvent 0 eventSinceFreeze 0 readOneEvent_accepted rfl (by decide) (by decide) (by decide) (by decide) rfl
    (by decide +kernel)
  have meant := pifEventsRead_completes (i := 0) readOneEvent_accepted rfl (by decide) (by decide) (by decide) (by decide) rfl
    (by decide +kernel)
  have same := congrArg State.pif (Host.Outcome.next.inj (meant.symm.trans stated))
  have fifo := congrArg (fun p : PifSt => p.evt[(0 : Fin 8)].fifo) same
  rw [finish_pif, finish_pif, modEvt_evt, modEvt_evt, admitted_pif, show arg readOneEvent 8 8 = 1 by decide,
    eventsTaken_eventSinceFreeze] at fifo
  exact List.cons_ne_nil _ _ fifo

end Sys2Proof.Machine
end

section
/-! PROOFS. Activation, trial, session expiry, tamper and image checks under their conditions (R410, R415, R418, R420, R456). -/

namespace Sys2Proof.Machine

variable {s : State}

theorem imageVerified_none (hv : s.sec.verifying = none) : exec .imageVerified s = .next s := by
  change execImageVerified s = _
  simp only [execImageVerified, hv]

/-- The number of an image that the device does not have ends its verification alone. -/
theorem imageVerified_unknown {k : Nat} (hk : s.sec.verifying = some k) (hi : idx? 5 k = none) :
    exec .imageVerified s = .next (s.onSec fun v => { v with verifying := none }) := by
  change execImageVerified s = _
  simp only [execImageVerified, hk, hi]

/-- Settles O31, row by row. -/
theorem securityEventsExecute : Obligations.SecurityEventsExecute := by
  refine ⟨?activationPrepared, ?trialPassed, ?sessionExpiry, ?tamper, ?noImage, ?unknownImage, ?imageVerified⟩
  case activationPrepared => exact fun s => rfl
  case trialPassed => exact fun i r s => trialPassed_passes
  case sessionExpiry => exact serviceSessionExpiry_ends
  case tamper => exact fun s => rfl
  case noImage => exact fun s => imageVerified_none
  case unknownImage => exact fun k s => imageVerified_unknown
  case imageVerified => exact fun k i s => imageVerified_verdict

end Sys2Proof.Machine
end

section
/-! PROOFS. Failed checks of elements under their conditions (R423 to R427, R445). -/

namespace Sys2Proof.Machine

variable {s u : State} {el : Element}

/-! ### A fault of an element, state by state -/

/-- What R423 to R427 ask, besides the state, of a device that coasts for an element. -/
def coastsFor (s : State) (el : Element) : Bool :=
  !decide (restartLimit s ≤ restartsInWindow s el) && !s.safe.safeIn && vbatOperating s && diesCool s

theorem coastsFor_of (hr : restartsInWindow s el < restartLimit s) (hs : s.safe.safeIn = false) (hv : vbatOperating s = true)
    (hc : diesCool s = true) : coastsFor s el = true := by simp [coastsFor, hr, hs, hv, hc]

/-- In COAST a further fault restarts its element: the window and its cause stay. -/
theorem elementFault_inCoast (cause : Nat) (b : Block) (hd : s.sys.dev = .coast) (hc : coastsFor s el = true) :
    Entered .coast s.sys.prev s.sys.cause (elementFault el cause b s) := by
  have logged : Entered .coast s.sys.prev s.sys.cause (logFault cause b (elemIx el).val reactCoast (restartsInWindow s el + 1) 0 s) :=
    logFault_entered _ _ _ _ _ _ ⟨hd, rfl, rfl⟩
  unfold elementFault
  rw [hd]
  dsimp only
  rw [if_pos (show (_ && _ && _ && _) = true from hc), if_pos rfl]
  exact beginRestart_entered el cause logged

/-- Beyond RESTART_LIMIT the driven states, STANDBY and COAST go to SAFE for 0x17. -/
theorem elementFault_beyond (cause : Nat) (b : Block) (ha : safeAllowed s = true) (hb : restartLimit s ≤ restartsInWindow s el) :
    Entered .safe s.sys.dev 0x17 (elementFault el cause b s) := by
  have safe := beginRestart_entered el 0x17
    (safeFault_entered 0x17 b (elemIx el).val (restartsInWindow s el + 1) cause s.pm ha)
  unfold elementFault
  cases hd : s.sys.dev <;> simp only [safeAllowed, hd] at ha <;> first | contradiction | simpa [hb, hd] using safe

/-- Outside them the state stays. -/
theorem elementFault_stays (cause : Nat) (b : Block) (hd : s.sys.dev = .quarantine ∨ s.sys.dev = .safe ∨ s.sys.dev = .latched ∨
    s.sys.dev = .start ∨ s.sys.dev = .off) : Entered s.sys.dev s.sys.prev s.sys.cause (elementFault el cause b s) := by
  have logged (c r n d : Nat) : Entered s.sys.dev s.sys.prev s.sys.cause (logFault c b (elemIx el).val r n d s) :=
    logFault_entered _ _ _ _ _ _ (Entered.here s)
  unfold elementFault
  rcases hd with h | h | h | h | h <;> rw [h] at logged ⊢ <;> dsimp only
  case inr.inr.inr.inl =>
    have failed := failSelftest_entered el (logged cause reactReport (restartsInWindow s el + 1) 0)
    exact Entered.ite (beginRestart_entered el cause failed) (failed.onSys fun _ => ⟨rfl, rfl, rfl⟩)
  case inr.inr.inr.inr => exact ⟨h, rfl, rfl⟩
  all_goals exact beginRestart_entered el _ (logged ..)

/-! ### The five checks -/

/-- The counts and notices of a failed clock leave what an element's fault turns on. -/
structure ClockCounts (s u : State) : Prop where
  only : Only [.free, .sys, .pwr, .host] s u
  entered : Entered s.sys.dev s.sys.prev s.sys.cause u
  lowSupply : u.pwr.lowSupply = s.pwr.lowSupply
  over36 : u.pwr.over36 = s.pwr.over36

theorem ClockCounts.refl (s : State) : ClockCounts s s := ⟨Only.refl .., Entered.here s, rfl, rfl⟩

theorem ClockCounts.coasts (k : ClockCounts s u) (h : Coasts el s) : Coasts el u :=
  h.of_only k.only k.entered.1 k.lowSupply k.over36

theorem ClockCounts.restarts (k : ClockCounts s u) (el : Element) :
    restartsInWindow u el = restartsInWindow s el ∧ restartLimit u = restartLimit s := by
  have hact : u.act = s.act := k.only.same .act (by decide)
  have hsafe : u.safe = s.safe := k.only.same .safe (by decide)
  have hpm : u.pm = s.pm := k.only.same .pm (by decide)
  unfold restartsInWindow restartWindow restartLimit elemOf
  rw [hact, hsafe, hpm]
  exact ⟨rfl, rfl⟩

theorem ClockCounts.coastsFor (k : ClockCounts s u) (el : Element) : coastsFor u el = coastsFor s el := by
  have hact : u.act = s.act := k.only.same .act (by decide)
  have hsafe : u.safe = s.safe := k.only.same .safe (by decide)
  have hths : u.ths = s.ths := k.only.same .ths (by decide)
  have supply : vbatOperating u = vbatOperating s := by rw [vbatOperating, k.lowSupply, k.over36]; rfl
  have dies : diesCool u = diesCool s := by
    unfold diesCool shutdownAt
    rw [hact, hths]
  obtain ⟨inWindow, limit⟩ := k.restarts el
  unfold Machine.coastsFor
  rw [inWindow, limit, hsafe, supply, dies]

/-- What CLOCK_ELEMENT counts and reports before the element's fault (R445). -/
def clockElementCounts (el : Element) (s : State) : State :=
  notice .pwr 0x02 0xFFFF [] (clockNote (clockOf el) false ((drawFree s).1.onPwr fun p =>
    { p with clkFails := p.clkFails + 1, stallErr := p.stallErr + BitVec.ofNat 32 (Config.freeNat (drawFree s).2) }))

theorem clockElementCounts_counts (el : Element) (s : State) : ClockCounts s (clockElementCounts el s) := by
  let s1 := (drawFree s).1.onPwr fun p =>
    { p with clkFails := p.clkFails + 1, stallErr := p.stallErr + BitVec.ofNat 32 (Config.freeNat (drawFree s).2) }
  have noted : Noted s1 (clockElementCounts el s) := (notice_noted ..).trans (notice_noted ..)
  have drawn : Only [.free, .pwr] s s1 :=
    ((Only.refl _ s).andThen (drawFree_only s) (by decide)).andThen (State.onPwr_only ..) (by decide)
  have hpwr : (clockElementCounts el s).pwr = s1.pwr := noted.same .pwr (by decide)
  refine ⟨?_, noted.entered ((Entered.here s).ofOnly drawn), hpwr ▸ rfl, hpwr ▸ rfl⟩
  exact ((((Only.refl _ s).andThen (drawFree_only s) (by decide)).andThen (State.onPwr_only ..) (by decide)).andThen
    (notice_only ..) (by decide)).andThen (notice_only ..) (by decide)

/-- CLOCK_ELEMENT outside OFF. -/
theorem clockElement_next (el : Element) (hd : s.sys.dev ≠ .off) : exec (.clockElement el) s =
    .next (modElem el (fun x => { x with clockBad := true, relockAt := s.pm }) (elementFault el 0x15 .pwr (clockElementCounts el s))) :=
  if_neg hd

/-- The checks of element `el`: the row, its element and its cause (R423, R445). -/
def elementChecks (el : Element) : List (Instr × Element × Nat) :=
  [(.pairCheck, .pair, 0x10), (.ceCheck, .control, 0x12), (.gnssCheck, .gnss, 0x13), (.enclaveCheck, .enclave, 0x14), (.clockElement el, el, 0x15)]

/-- Each check is a fault of its element, CLOCK_ELEMENT after its counts and before the element's clock is marked. -/
theorem elementCheck_next {x : Instr × Element × Nat} (hx : x ∈ elementChecks el) (he : x.2.1 = el) (hd : s.sys.dev ≠ .off) :
    ∃ b u t, ClockCounts s u ∧ exec x.1 s = .next t ∧ Only [.safe] (elementFault el x.2.2 b u) t := by
  simp only [elementChecks, List.mem_cons, List.not_mem_nil, or_false] at hx
  rcases hx with rfl | rfl | rfl | rfl | rfl
  case inr.inr.inr.inr =>
    exact ⟨.pwr, _, _, clockElementCounts_counts el s, clockElement_next el hd, State.onSafe_only ..⟩
  all_goals
    obtain rfl := he
    exact ⟨_, s, _, ClockCounts.refl s, rfl, Only.refl ..⟩

/-- In OFF, where no clock but BKO runs, a check changes nothing (R443). -/
theorem elementCheck_off {x : Instr × Element × Nat} (hx : x ∈ elementChecks el) (hd : s.sys.dev = .off) : exec x.1 s = .next s := by
  have fault (el : Element) (cause : Nat) (b : Block) : elementFault el cause b s = s := by
    unfold elementFault
    rw [hd]
  simp only [elementChecks, List.mem_cons, List.not_mem_nil, or_false] at hx
  rcases hx with rfl | rfl | rfl | rfl | rfl
  case inr.inr.inr.inr => exact if_pos hd
  all_goals exact congrArg Host.Outcome.next (fault ..)

/-- What holds after the fault of the element holds after its check. -/
theorem elementCheck_entered {x : Instr × Element × Nat} {d p : DevState} {c : Nat} (hx : x ∈ elementChecks el) (he : x.2.1 = el)
    (hd : s.sys.dev ≠ .off) (h : ∀ b u, ClockCounts s u → Entered d p c (elementFault el x.2.2 b u)) :
    ∃ t, exec x.1 s = .next t ∧ Entered d p c t := by
  obtain ⟨b, u, t, counts, next, only⟩ := elementCheck_next hx he hd
  exact ⟨t, next, (h b u counts).ofOnly only⟩

theorem clockElement_marks (el : Element) (hd : s.sys.dev ≠ .off) :
    ∃ t, exec (.clockElement el) s = .next t ∧ (elemOf t el).clockBad = true ∧ (elemOf t el).relockAt = s.pm := by
  refine ⟨_, clockElement_next el hd, ?_⟩
  unfold elemOf modElem
  rw [State.onSafe_safe, vmod_get]
  exact ⟨rfl, rfl⟩

/-- Settles O15: each check is a fault of its element, in every state. -/
theorem elementChecksExecute : Obligations.ElementChecksExecute := by
  refine ⟨?coasts, ?inCoast, ?beyond, ?stays, fun el s => clockElement_marks el⟩
  case coasts =>
    intro s el x hx he hd hr hs hv hc
    have coasts : Coasts el s := ⟨hd, hr, hs, hv, hc⟩
    refine elementCheck_entered hx he coasts.ne_off fun b u counts => ?_
    rw [← counts.entered.1]
    exact elementFault_coast _ b (counts.coasts coasts)
  case inCoast =>
    intro s el x hx he hd hr hs hv hc
    refine elementCheck_entered hx he (by simp [hd]) fun b u counts => ?_
    obtain ⟨dev, prev, cause⟩ := counts.entered
    rw [← prev, ← cause]
    exact elementFault_inCoast _ b (dev.trans hd) ((counts.coastsFor el).trans (coastsFor_of hr hs hv hc))
  case beyond =>
    intro s el x hx he ha hb
    refine elementCheck_entered hx he (ne_off_of_safeAllowed ha) fun b u counts => ?_
    obtain ⟨inWindow, limit⟩ := counts.restarts el
    rw [← counts.entered.1]
    exact elementFault_beyond _ b ((safeAllowed_of_dev counts.entered.1).trans ha) (by rwa [inWindow, limit])
  case stays =>
    intro s el x hx he hd
    by_cases off : s.sys.dev = .off
    · exact ⟨s, elementCheck_off hx off, Entered.here s⟩
    · refine elementCheck_entered hx he off fun b u counts => ?_
      obtain ⟨dev, prev, cause⟩ := counts.entered
      rw [← dev, ← prev, ← cause]
      exact elementFault_stays _ b (by rwa [dev])

end Sys2Proof.Machine
end

section
/-! PROOFS. Port events and the steps of START under the rest of their conditions (R371, R417, R439, R452, R453). -/

namespace Sys2Proof.Machine

variable {s : State} {p : Port}

/-! ### The link (R371) -/

/-- The window has closed on a device that drives, at a port whose LINK_ACTION is SAFE. -/
theorem linkLost_safe (hl : portListens s p = true) (ha : (portOf s p).linkArmed = true) (hn : (portOf s p).linkLost = false)
    (ht : (portOf s p).linkFrom + linkTimeout s p ≤ s.pm) (hs : linkSafe s p = true)
    (hd : s.sys.dev = .armed ∨ s.sys.dev = .manual ∨
      (s.sys.dev = .coast ∧ (s.sys.coastFromArmed = true ∨ s.sys.coastFromManual = true))) :
    ∃ t, exec (.linkLost p) s = .next t ∧ Entered .safe s.sys.dev 0x1A t := by
  let s1 := hostNote p 0x05 (modPort p (fun q => { q with linkLost := true }) s)
  have driving : (linkSafe s p && (s.sys.dev == .armed || s.sys.dev == .manual ||
      (s.sys.dev == .coast && (s.sys.coastFromArmed || s.sys.coastFromManual)))) = true := by
    rcases hd with h | h | ⟨h, h1 | h1⟩ <;> simp [*]
  have allowed : safeAllowed s = true := by
    unfold safeAllowed
    rcases hd with h | h | ⟨h, -⟩ <;> rw [h]
  have noted : Noted (modPort p (fun q => { q with linkLost := true }) s) s1 := notice_noted ..
  have dev : s1.sys.dev = s.sys.dev := noted.dev
  have entered := safeFault_entered 0x1A .host (portIx p).val 0 0x05 ((portOf s p).linkFrom + linkTimeout s p)
    ((safeAllowed_of_dev dev).trans allowed)
  rw [dev] at entered
  exact ⟨_, (if_pos ⟨hl, ha, by simp [hn], ht⟩).trans (congrArg Host.Outcome.next (if_pos driving)), entered⟩

/-- Settles O11, row by row. -/
theorem portEventsExecute : Obligations.PortEventsExecute := by
  refine ⟨?badHeader, ?noticeEnvelope, ?linkLost, ?linkLostSafe, ?pbHostApply, ?resetAfterReply, ?badOpcode⟩
  case badHeader => exact fun p s => badHeader_counted
  case noticeEnvelope => exact fun p s => noticeEnvelope_sent
  case linkLost => exact fun p s => linkLost_logged
  case linkLostSafe => exact fun p s => linkLost_safe
  case pbHostApply => exact fun p img s => pbHostApply_applies
  case resetAfterReply => exact fun p s => resetAfterReply_starts
  case badOpcode => exact fun op e n s => badOpcode_answers

/-! ### START (R417, R452, R453) -/

/-- IMAGE_SET_SELECT where the verified banks hold no consistent set. -/
theorem imageSetSelect_none {v0 v1 : Vector BankVerdict 5} (hd : s.sys.dev = .start) (hr : s.running = true)
    (hb : s.sys.bootStage = 2) (hi : s.sys.imagesOk = false) (hq : s.sys.quarCause = 0) (hc : selectSet (judged v0 v1 s) = none) :
    exec (.imageSetSelect v0 v1) s = .next (
      if (judged v0 v1 s).sec.image[(0 : Fin 5)].other.verified ∧ !s.pwr.secureTried then
        (startState s.sys.prev s.sys.cause 4 (modImage 0 (fun m => { m with running := !m.running }) (judged v0 v1 s))).onPwr fun p =>
          { p with secureTried := true, wakeAt := s.pwr.wakeAt }
      else extendOpen 6 0x03 ((judged v0 v1 s).onSys fun y => { y with quarCause := 2 })) := by
  have due : exec (.imageSetSelect v0 v1) s = _ := if_pos ⟨hd, hr, hb, by simp [hi], hq⟩
  refine due.trans ?_
  change (match selectSet (judged v0 v1 s) with | some c => _ | none => _) = _
  rw [hc]
  exact (apply_ite Host.Outcome.next _ _ _).symm

/-- START runs once more, on the other SECURE bank. -/
theorem imageSetSelect_restarts {v0 v1 : Vector BankVerdict 5} (hd : s.sys.dev = .start) (hr : s.running = true)
    (hb : s.sys.bootStage = 2) (hi : s.sys.imagesOk = false) (hq : s.sys.quarCause = 0) (hc : selectSet (judged v0 v1 s) = none)
    (hv : (judged v0 v1 s).sec.image[(0 : Fin 5)].other.verified = true) (ht : s.pwr.secureTried = false) :
    ∃ t, exec (.imageSetSelect v0 v1) s = .next t ∧ Entered .start s.sys.prev s.sys.cause t ∧ t.running = false ∧
      t.pwr.startCause = 4 ∧ t.pwr.secureTried = true := by
  refine ⟨_, (imageSetSelect_none hd hr hb hi hq hc).trans (congrArg Host.Outcome.next (if_pos ⟨hv, by simp [ht]⟩)), ?_, rfl, rfl, rfl⟩
  exact (startState_entered ..).ofOnly (State.onPwr_only ..)

/-- A set thermal latch leads to LATCHED_OFF, with the domains of that state. -/
theorem domainPowerUp_latched {l : ThermLatch} (hd : s.sys.dev = .start) (hb : s.sys.bootStage = 2)
    (hi : s.sys.imagesOk = true ∨ s.sys.quarCause = 2) (hp : s.sys.powered = false) (hl : s.pd0.latch = some l) :
    ∃ t, exec .domainPowerUp s = .next t ∧ Entered .latched .start 0x04 t ∧
      t.pwr = { s.pwr with domains := if s.pwr.vkey then 0xD27 else 1 } := by
  let u := (s.onSys fun y => { y with powered := true, bootStage := 3, stageAt := s.pm }).onPwr fun p =>
    { p with domains := if p.vkey then 0xD27 else 1 }
  have next : exec .domainPowerUp s = .next (enterLatched u) := by
    change execDomainPowerUp s = _
    simp only [execDomainPowerUp, hl]
    exact if_pos ⟨hd, hb, hi, by simp [hp]⟩
  have dev : u.sys.dev = .start := hd
  refine ⟨_, next, ?_, (enterLatched_only u).same .pwr (by decide)⟩
  rw [← dev]
  exact enterLatched_entered u

/-- A failed test that matters leads to QUARANTINE (R453). -/
theorem selftestComplete_quarantine {failed : List Nat} (hd : s.sys.dev = .start) (hp : s.sys.powered = true)
    (hi : s.sys.imagesOk = true) (he : s.pm % 40000 = 0) (hf : s.sys.selftestFail ≠ 0 ∨ failed.filter quarantineTest ≠ []) :
    ∃ t, exec (.selftestComplete failed) s = .next t ∧ Entered .quarantine .start 0x07 t := by
  have codes : ∃ c l, (if s.sys.selftestFail = 0 then [] else [s.sys.selftestFail]) ++ failed.filter quarantineTest = c :: l := by
    refine List.exists_cons_of_ne_nil fun none => ?_
    obtain ⟨h1, h2⟩ := List.append_eq_nil_iff.1 none
    rcases hf with h | h
    · simp [h] at h1
    · exact h h2
  obtain ⟨c, l, hc⟩ := codes
  have next : exec (.selftestComplete failed) s = .next (enterQuarantine 1 s.pm
      (selftestRejects (c :: l) (s.onSys fun y => { y with selftestFail := c, selftested := true }))) := by
    change execSelftestComplete failed s = _
    simp only [execSelftestComplete, hc]
    exact if_pos ⟨hd, hp, hi, he⟩
  have rejected : Entered s.sys.dev s.sys.prev s.sys.cause
      (selftestRejects (c :: l) (s.onSys fun y => { y with selftestFail := c, selftested := true })) :=
    selftestRejects_entered _ ⟨rfl, rfl, rfl⟩
  have entered := enterQuarantine_entered 1 s.pm
    (selftestRejects (c :: l) (s.onSys fun y => { y with selftestFail := c, selftested := true }))
  rw [rejected.1, hd] at entered
  exact ⟨_, next, entered⟩

/-- A domain that the state does not call for is off, its reset taken and its crossing flushed (R439, R451). -/
theorem powerDomainSwitch_off {d : Fin 12} (hr : bitN (requiredDomains s) d.val = false) (hd : s.pwr.domains.getLsbD d.val = true) :
    exec (.powerDomainSwitch d false) s = .next (resetDomain d.val (flushCrossing (flushedWith d.val) (s.onPwr fun p =>
      { p with domains := p.domains ^^^ BitVec.ofNat 12 (2 ^ d.val) }))) :=
  if_pos ⟨hr, by simp [hd]⟩

/-- Settles O14, row by row. -/
theorem startEventsExecute : Obligations.StartEventsExecute := by
  refine ⟨?timeResetRelease, ?setSelected, ?noSet, ?secureRetried, ?domainPowerUp, ?latched, ?hostPortAlive, ?standby, ?quarantine,
    ?domainOn, ?domainOff, ?dramTestDone⟩
  case timeResetRelease => exact fun s => timeResetRelease_begins
  case setSelected => exact fun v0 v1 c s => imageSetSelect_selects
  case noSet =>
    rintro v0 v1 _ s hd hr hb hi hq rfl hc hv
    exact ⟨_, (imageSetSelect_none hd hr hb hi hq hc).trans (congrArg Host.Outcome.next (if_neg (by simpa [judged] using hv))), rfl⟩
  case secureRetried =>
    rintro v0 v1 _ s hd hr hb hi hq rfl hc
    exact imageSetSelect_restarts hd hr hb hi hq hc
  case domainPowerUp => exact fun s => domainPowerUp_powers
  case latched => exact fun l s => domainPowerUp_latched
  case hostPortAlive => exact fun s => hostPortAlive_reports
  case standby => exact fun failed s => selftestComplete_standby
  case quarantine => exact fun failed s => selftestComplete_quarantine
  case domainOn => exact fun d s => powerDomainSwitch_on
  case domainOff => exact fun d s => powerDomainSwitch_off
  case dramTestDone => exact fun retired s => dramTestDone_ready

end Sys2Proof.Machine
end

section
/-! PROOFS. One step, a tick, the fault log, replies and the arbitration of a bus (R331, R353, R356, R434, R435; log entry 1). -/

namespace Sys2Proof.Machine

variable {s : State}

/-! ### A step (log entry 1) -/

/-- Settles O50: a step takes the front of the queue by definition. -/
theorem stepTakesTheFrontCommand : Obligations.StepTakesTheFrontCommand := fun _ _ _ => rfl

/-- Before the clocks run a tick moves the ports' paths and fills a slot of the tunnel's controller. -/
theorem tunnelSend_sendPorts_only (s : State) : Only [.host, .can] s (tunnelSend (sendPorts s)) :=
  ((Only.refl _ s).andThen (sendPorts_only s) (by decide)).andThen (tunnelSend_only _) (by decide)

/-- Settles O51: the clocks count one, and only the ports and the tunnel's controller move besides. -/
theorem anEmptyQueueTicks : Obligations.AnEmptyQueueTicks := by
  intro s hq
  have sent := tunnelSend_sendPorts_only s
  have pd0 : (tunnelSend (sendPorts s)).pd0 = s.pd0 := sent.same .pd0 (by decide)
  have pm : (tunnelSend (sendPorts s)).pm = s.pm := sent.same .pm (by decide)
  have running : (tunnelSend (sendPorts s)).running = s.running := sent.same .running (by decide)
  refine ⟨?_, (sent.same .pending (by decide)).trans hq, ?_, ?_, sent.same .sys (by decide), sent.same .act (by decide),
    sent.same .vdr (by decide), sent.same .map (by decide)⟩
  · rw [step, hq]
  · exact congrArg (fun d : Pd0St => d.now + 1) pd0
  · change (if (tunnelSend (sendPorts s)).running then (tunnelSend (sendPorts s)).pm + 1 else (tunnelSend (sendPorts s)).pm) = _
    rw [pm, running]

/-! ### The fault log (R434, R435) -/

/-- Settles O47. -/
theorem faultsAreLogged : Obligations.FaultsAreLogged := by
  refine ⟨?repeats, ?writes, fun c i s => ⟨endFault_ended c i s, endFault_noted c i s⟩⟩
  case repeats => exact fun c b i n d s ha => if_pos ⟨rfl, ha⟩
  case writes =>
    intro c b i r n d s hr
    let f : FaultEntry := { cause := c, blk := blockId b, index := i, pm := s.pm, boot := s.pd0.bootCount,
                            state := devCode s.sys.dev, reaction := r, restarts := n, detail := d }
    have log : (logFault c b i r n d s).pd0.faultLog = placeFault f (s.pd0.faultLog.take 63) := by
      unfold logFault
      rw [if_neg (by rintro ⟨h1, h2⟩; rcases hr with h | h <;> simp_all)]
      extract_lets
      split <;> simp only [notice_pd0, noticeNow_pd0] <;> rfl
    refine ⟨f, log, fun h => ?_, rfl, rfl, rfl, rfl, rfl, rfl, rfl, rfl, rfl, rfl, rfl, logFault_noted ..⟩
    rw [log]
    cases s.pd0.faultLog.take 63 with
    | nil => rfl
    | cons g l => exact if_neg fun hp => h hp.1

/-! ### Replies (R353, R356) -/

theorem replyChain_eq_singleton (op : BitVec 16) (e : Env) {a : Answer} (g c : Nat) (h : a.data.length ≤ 4084) :
    replyChain op e a g c = [{ opcode := op, seq := e.seq, session := e.session, grant := g, credit := c,
                               body := .reply a.status a.effectPm a.data }] := if_pos h

/-- Every envelope of a reply names the request it answers. -/
theorem mem_replyChain {op : BitVec 16} {e : Env} {a : Answer} {g c : Nat} {o : OutEnv} (h : o ∈ replyChain op e a g c) :
    o.opcode = op ∧ o.seq = e.seq ∧ o.session = e.session := by
  unfold replyChain at h
  extract_lets base at h
  split at h
  · obtain rfl := List.mem_singleton.1 h
    exact ⟨rfl, rfl, rfl⟩
  · simp only [List.mem_append, List.mem_cons, List.mem_map, List.not_mem_nil, or_false] at h
    rcases h with (rfl | ⟨d, -, rfl⟩) | rfl <;> exact ⟨rfl, rfl, rfl⟩

/-- Settles O42. -/
theorem repliesBeginWithTheirPrefix : Obligations.RepliesBeginWithTheirPrefix := by
  refine ⟨fun st pm d => rfl, fun op e a g c h => ?_, fun op e a g c o => mem_replyChain, by decide +kernel, by decide +kernel, by decide⟩
  exact ⟨_, replyChain_eq_singleton op e g c h, rfl, rfl, rfl, rfl, rfl, rfl⟩

/-! ### Arbitration (R331, R333) -/

/-- A device in STANDBY whose CAN0 is on its bus, with one pending slot, submitted before and past its deadline. -/
def pastDeadline : State :=
  { State.reset with
    running := true, pm := 100, sys := { dev := .standby }
    can := { ctl := Vector.replicate 3 { st := .active, slots := (Vector.replicate 32 {}).set 0 { st := .pending, desc := 1 <<< 64 } } } }

/-- Refutes O46: a slot past its deadline waits for its CAN_DEADLINE_EXPIRY and does not take the bus (R333), but the statement
takes every pending slot of an earlier tick for eligible. -/
theorem not_arbitrationTakesTheWinningSlot : ¬ Obligations.ArbitrationTakesTheWinningSlot := by
  intro h
  obtain ⟨-, eligible⟩ := h 0 pastDeadline (by decide +kernel) (by decide +kernel) (by decide +kernel)
  obtain ⟨k, hk⟩ := eligible ⟨0, by decide +kernel, by decide +kernel⟩
  exact absurd (hk.symm.trans (by decide +kernel : winner pastDeadline 0 = none)) (by simp)

end Sys2Proof.Machine
end

section
/-! PROOFS. Every row ends in a next state, and changes the parts it names alone. -/

namespace Sys2Proof.Machine

variable {s : State}

/-! ### Every row ends in a next state -/

/-- The row ends in a next state. -/
def Answers (r : Result) : Prop := ∃ t, r = .next t

theorem Answers.next (s : State) : Answers (.next s) := ⟨s, rfl⟩

theorem Answers.ite {c : Prop} [Decidable c] {a b : Result} (ha : Answers a) (hb : Answers b) : Answers (if c then a else b) := by
  split <;> assumption

/-- A row is one next state, or a choice among next states: none raises a fault or is refused. The rows that choose stand by the
file of the model that gives them their meaning. -/
theorem exec_answers (c : Instr) (s : State) : Answers (exec c s) := by
  cases c with
  | sysNop _ | sysStatus _ | sysIdentity _ | sysLinkReset _ | sysArm _ | sysManual _ | sysDisarm _ | sysClearFault _
  | sysReset _ | sysSubscribe _ | sysWakeSet _ | pbRead _ | pbWrite _ | pbCommit _ | pbRevert _ | relearn _ | implWrite _
  | implRead _ | implCommit _ | implRevert _ | mapStatus _ | mapLoadBegin _ | mapLoadData _ | mapLoadEnd _ | mapLoadAbort _
  | mapExportBegin _ | mapExportRead _ | mapExportAck _ | mapClear _ | mapLogRead _ | mapLogAck _ | feDirected _
  | feDirectedClear _ | actEvent _ | actDuty _ | actFineCmp _ | actClearFault _ | ceSetpoint _ | ceOutput _ | ceTableWrite _
  | ceTableRead _ | ceLoopReset _ | timeGet _ | timeStepConfirm _ | gnssRtcm _ | gnssMeasGet _ | posGet _ | lswSet _
  | lswClearFault _ | pifEncSet _ | pifEventsRead _ | canPhConfig _ | canRxRead _ | canTx _ | canTxAbort _ | canRecover _
  | secSessionOpen _ | secSessionClose _ | secServiceChallenge _ | secServiceResponse _ | secAttest _ | secImageBegin _
  | secImageData _ | secImageEnd _ | secActivate _ | secImageStatus _ | diagRead _ | badHeader _ | reverseBattery
  | pairCheck | ceCheck | gnssCheck | enclaveCheck | feedOc _ | canFrameReceive _ _ | dirtyWriteback | activationPrepared
  | serviceSessionExpiry | tamper | badOpcode _ _ =>
    exact ⟨_, rfl⟩
  | tcxoClear =>
    simp only [exec]
    delta execTcxoClear
    repeat' first | with_reducible exact Answers.next _ | with_reducible refine Answers.ite ?_ ?_
  | noticeEnvelope _ | linkLost _ | pbHostApply | resetAfterReply =>
    simp only [exec]
    delta execNoticeEnvelope execLinkLost execPbHostApply execResetAfterReply
    repeat' first | with_reducible exact Answers.next _ | with_reducible refine Answers.ite ?_ ?_ | split
  | frameEdge _ | commitPhase _ | loggingPhase | elementRestartComplete _ =>
    simp only [exec]
    delta execFrameEdge execCommitPhase execLoggingPhase execElementRestartComplete
    repeat' first | with_reducible exact Answers.next _ | with_reducible refine Answers.ite ?_ ?_ | split
  | decisionPhase =>
    simp only [exec]
    delta execDecisionPhase
    repeat' first | with_reducible exact Answers.next _ | with_reducible refine Answers.ite ?_ ?_ | split
  | vkeyHigh | vkeyLow | keyOffDelayExpiry | wakeAlarm | vbatStartBand | brownOut | lowSupply | lowSupplyExit | powerCycle
  | lossOfGround | groundRestored | loadDump | timeResetRelease | imageSetSelect _ _ | domainPowerUp | hostPortAlive
  | powerDomainSwitch _ _ | dramTestDone _ =>
    simp only [exec]
    delta execVkeyHigh execVkeyLow execKeyOffDelayExpiry execWakeAlarm execVbatStartBand execBrownOut execLowSupply
      execLowSupplyExit execPowerCycle execLossOfGround execGroundRestored execLoadDump execTimeResetRelease
      execImageSetSelect execDomainPowerUp execHostPortAlive execPowerDomainSwitch execDramTestDone
    repeat' first | with_reducible exact Answers.next _ | with_reducible refine Answers.ite ?_ ?_ | split | extract_lets
  | selftestComplete failed =>
    change Answers (execSelftestComplete failed s)
    unfold execSelftestComplete
    extract_lets codes
    refine Answers.ite ?_ (Answers.next s)
    cases codes <;> exact Answers.next _
  | clockElement _ | clockBase _ | clockBaseRestored | pllRelock _ _ | coastExpired | safeIn | rowBusoffGraceExpiry | boost
  | boostRetry _ | deadlineMiss _ | safeInRelease =>
    simp only [exec]
    delta execClockElement execClockBase execClockBaseRestored execPllRelock execCoastExpired execSafeIn
      execRowBusoffGraceExpiry execBoost execBoostRetry execDeadlineMiss execSafeInRelease
    repeat' first | with_reducible exact Answers.next _ | with_reducible refine Answers.ite ?_ ?_ | split
  | measurementEpoch _ | acqDwellEnd _ | warmSearchTimer | pullInTimeout _ | bitSync _ _ | frameSync _ _ | lnavWord _ _
  | ephemerisAccept _ | channelLoss _ | antOpen _ | antShort _ | antBiasRetry _ | rtcmFrame | rtcmTimeout | pullInComplete _
  | phaseLock _ _ | acqIdleGate =>
    simp only [exec]
    delta execMeasurementEpoch execAcqDwellEnd execWarmSearchTimer execPullInTimeout execBitSync execFrameSync execLnavWord
      execEphemerisAccept execChannelLoss execAntOpen execAntShort execAntBiasRetry execRtcmFrame execRtcmTimeout
      execPullInComplete execPhaseLock execAcqIdleGate
    repeat' first | with_reducible exact Answers.next _ | with_reducible refine Answers.ite ?_ ?_ | split
  | holdoverEntry | holdoverLimitExpiry | ppsPulse | ppsPulseEnd | tcxoTempUpdate _ =>
    simp only [exec]
    delta execHoldoverEntry execHoldoverLimitExpiry execPpsPulse execPpsPulseEnd execTcxoTempUpdate
    repeat' first | with_reducible exact Answers.next _ | with_reducible refine Answers.ite ?_ ?_ | split
  | ambiguityCandidate _ _ _ | odoStale _ =>
    simp only [exec]
    delta execAmbiguityCandidate execOdoStale
    repeat' first | with_reducible exact Answers.next _ | with_reducible refine Answers.ite ?_ ?_
  | eventExecute _ | reservedStart _ | feedToVbst _ | windowEnd _ | guardEnd _ | pullInEnd _ _ | fastDecayEnd _ _
  | decayEnd _ _ | openingSignature _ _ | closingSignature _ _ _ | openingSearchEnd _ | boostLimit _ | vbstSag _
  | returnSuspended _ | recoveryDivert _ | latencySave =>
    simp only [exec]
    delta execEventExecute execReservedStart execFeedToVbst execWindowEnd execGuardEnd execPullInEnd execFastDecayEnd
      execDecayEnd execOpeningSignature execClosingSignature execOpeningSearchEnd execBoostLimit execVbstSag
      execReturnSuspended execRecoveryDivert execLatencySave
    repeat' first | with_reducible exact Answers.next _ | with_reducible refine Answers.ite ?_ ?_ | split
  | openLoad _ _ | offStateTest _ _ _ | overcurrent _ | overload _ _ | retryRelease _ | coilResistanceMeasure _ _ _ _
  | coilCooled _ =>
    simp only [exec]
    delta execOpenLoad execOffStateTest execOvercurrent execOverload execRetryRelease execCoilResistanceMeasure execCoilCooled
    repeat' first | with_reducible exact Answers.next _ | with_reducible refine Answers.ite ?_ ?_ | split
  | stageHot _ _ | lswOvertemp _ _ | thermLatchRelease _ _ | warn _ _ _ | throttle _ _ _ | sensorBroken _ _ | rateTrip _ _ _
  | shutdown _ _ _ | stageHotRelease _ _ =>
    simp only [exec]
    delta execStageHot execLswOvertemp execThermLatchRelease execWarn execThrottle execSensorBroken execRateTrip execShutdown
      execStageHotRelease
    repeat' first | with_reducible exact Answers.next _ | with_reducible refine Answers.ite ?_ ?_
  | bankReconnectTestEnd _ _ =>
    simp only [exec]
    delta execBankReconnectTestEnd
    repeat' first | with_reducible exact Answers.next _ | with_reducible refine Answers.ite ?_ ?_ | split
  | bankBoundary _ | gridOpening _ | gridClosing _ | finePeriodStart _ | gateTransition _ _ _ | trigOutPulse _
  | trigOutPulseEnd _ =>
    simp only [exec]
    delta execBankBoundary execGridOpening execGridClosing execFinePeriodStart execGateTransition execTrigOutPulse
      execTrigOutPulseEnd
    repeat' first | with_reducible exact Answers.next _ | with_reducible refine Answers.ite ?_ ?_ | split | extract_lets
  | loopEvaluation _ | flowImbalance _ =>
    simp only [exec]
    delta execLoopEvaluation execFlowImbalance
    repeat' first | with_reducible exact Answers.next _ | with_reducible refine Answers.ite ?_ ?_ | split
  | encoderTransition _ _ | index _ _ | hallTransition _ _ | hallIllegal _ | freqEdge _ | eventEdge _ _ | emuOutputStep _ =>
    simp only [exec]
    delta execEncoderTransition execIndex execHallTransition execHallIllegal execFreqEdge execEventEdge execEmuOutputStep
    repeat' first | with_reducible exact Answers.next _ | with_reducible refine Answers.ite ?_ ?_
  | analogConversion i mv =>
    rw [exec_analogConversion i mv rfl]
    generalize finePeaks s = u
    cases conversionAt u i with
    | none => exact Answers.next s
    | some t0 => exact Answers.ite (Answers.next _) (Answers.next _)
  | inrushStep _ | lswOpenLoad _ _ | lswShortBat _ _ | lswShort _ | lswOverload _ | aggregate _ | aggregateShedStep _
  | lswRetryDue _ | lswPulseOpening _ | lswPulseClosing _ | offAfterExpiry _ | keyoffHoldEnd _ =>
    simp only [exec]
    delta execInrushStep execLswOpenLoad execLswShortBat execLswShort execLswOverload execAggregate execAggregateShedStep
      execLswRetryDue execLswPulseOpening execLswPulseClosing execOffAfterExpiry execKeyoffHoldEnd
    repeat' first | with_reducible exact Answers.next _ | with_reducible refine Answers.ite ?_ ?_ | split
  | canTxStart _ | canTxEnd _ _ | canDeadlineExpiry _ _ | busoffRecoveryComplete _ | busRejoin _ | addressClaim
  | addressClaimTimer | sync | allOffRepeat | reportWaitExpiry | rowNodeLost _ | receiveError _ _ =>
    simp only [exec]
    delta execCanTxStart execCanTxEnd execCanDeadlineExpiry execBusoffRecoveryComplete execBusRejoin execAddressClaim
      execAddressClaimTimer execSync execAllOffRepeat execReportWaitExpiry execRowNodeLost execReceiveError
    repeat' first | with_reducible exact Answers.next _ | with_reducible refine Answers.ite ?_ ?_ | split
  | scrub _ | maskBuilt | loadTimeout | exportTimeout | logSeal | trackRecord =>
    simp only [exec]
    delta execScrub execMaskBuilt execLoadTimeout execExportTimeout execLogSeal execTrackRecord
    repeat' first | with_reducible exact Answers.next _ | with_reducible refine Answers.ite ?_ ?_ | split
  | trialPassed _ | imageVerified =>
    simp only [exec]
    delta execTrialPassed execImageVerified
    repeat' first | with_reducible exact Answers.next _ | with_reducible refine Answers.ite ?_ ?_ | split

/-! ### What every row leaves alone -/

/-- PB_WRITE changes the shadow images, and what every request may. -/
theorem execPbWrite_onlyShd (e : Env) (s : State) : OnlyR [.sys, .pd0, .shd, .host, .sec] s (execPbWrite e s) :=
  OnlyR.next (receive_onlyOf (interpret_onlyOf rfl fun e s => (Only.refl _ _).andThen (opPbWrite_only e s) (by decide)) (by decide) e s)

/-- So does PB_REVERT. -/
theorem execPbRevert_onlyShd (e : Env) (s : State) : OnlyR [.sys, .pd0, .shd, .host, .sec] s (execPbRevert e s) :=
  OnlyR.next (receive_onlyOf (interpret_onlyOf rfl fun e s => (Only.refl _ _).andThen (opPbRevert_only e s) (by decide)) (by decide) e s)

/-- Every row keeps to its parts. -/
theorem exec_onlyPartsOf (c : Instr) (s : State) : OnlyR (partsOf c) s (exec c s) := by
  cases c with
  | sysNop x => exact execSysNop_only x s
  | sysStatus x => exact execSysStatus_only x s
  | sysIdentity x => exact execSysIdentity_only x s
  | sysLinkReset x => exact execSysLinkReset_only x s
  | sysArm x => exact execSysArm_only x s
  | sysManual x => exact execSysManual_only x s
  | sysDisarm x => exact execSysDisarm_only x s
  | sysClearFault x => exact execSysClearFault_only x s
  | sysReset x => exact execSysReset_only x s
  | sysSubscribe x => exact execSysSubscribe_only x s
  | sysWakeSet x => exact execSysWakeSet_only x s
  | pbRead x => exact execPbRead_only x s
  | pbWrite x => exact execPbWrite_onlyShd x s
  | pbCommit x => exact execPbCommit_only x s
  | pbRevert x => exact execPbRevert_onlyShd x s
  | tcxoClear => exact execTcxoClear_only s
  | relearn x => exact execRelearn_only x s
  | implWrite x => exact execImplWrite_only x s
  | implRead x => exact execImplRead_only x s
  | implCommit x => exact execImplCommit_only x s
  | implRevert x => exact execImplRevert_only x s
  | mapStatus x => exact execMapStatus_only x s
  | mapLoadBegin x => exact execMapLoadBegin_only x s
  | mapLoadData x => exact execMapLoadData_only x s
  | mapLoadEnd x => exact execMapLoadEnd_only x s
  | mapLoadAbort x => exact execMapLoadAbort_only x s
  | mapExportBegin x => exact execMapExportBegin_only x s
  | mapExportRead x => exact execMapExportRead_only x s
  | mapExportAck x => exact execMapExportAck_only x s
  | mapClear x => exact execMapClear_only x s
  | mapLogRead x => exact execMapLogRead_only x s
  | mapLogAck x => exact execMapLogAck_only x s
  | feDirected x => exact execFeDirected_only x s
  | feDirectedClear x => exact execFeDirectedClear_only x s
  | actEvent x => exact execActEvent_only x s
  | actDuty x => exact execActDuty_only x s
  | actFineCmp x => exact execActFineCmp_only x s
  | actClearFault x => exact execActClearFault_only x s
  | ceSetpoint x => exact execCeSetpoint_only x s
  | ceOutput x => exact execCeOutput_only x s
  | ceTableWrite x => exact execCeTableWrite_only x s
  | ceTableRead x => exact execCeTableRead_only x s
  | ceLoopReset x => exact execCeLoopReset_only x s
  | timeGet x => exact execTimeGet_only x s
  | timeStepConfirm x => exact execTimeStepConfirm_only x s
  | gnssRtcm x => exact execGnssRtcm_only x s
  | gnssMeasGet x => exact execGnssMeasGet_only x s
  | posGet x => exact execPosGet_only x s
  | lswSet x => exact execLswSet_only x s
  | lswClearFault x => exact execLswClearFault_only x s
  | pifEncSet x => exact execPifEncSet_only x s
  | pifEventsRead x => exact execPifEventsRead_only x s
  | canPhConfig x => exact execCanPhConfig_only x s
  | canRxRead x => exact execCanRxRead_only x s
  | canTx x => exact execCanTx_only x s
  | canTxAbort x => exact execCanTxAbort_only x s
  | canRecover x => exact execCanRecover_only x s
  | secSessionOpen x => exact execSecSessionOpen_only x s
  | secSessionClose x => exact execSecSessionClose_only x s
  | secServiceChallenge x => exact execSecServiceChallenge_only x s
  | secServiceResponse x => exact execSecServiceResponse_only x s
  | secAttest x => exact execSecAttest_only x s
  | secImageBegin x => exact execSecImageBegin_only x s
  | secImageData x => exact execSecImageData_only x s
  | secImageEnd x => exact execSecImageEnd_only x s
  | secActivate x => exact execSecActivate_only x s
  | secImageStatus x => exact execSecImageStatus_only x s
  | diagRead x => exact execDiagRead_only x s
  | badHeader x => exact execBadHeader_only x s
  | noticeEnvelope x => exact execNoticeEnvelope_only x s
  | linkLost x => exact execLinkLost_only x s
  | pbHostApply => exact execPbHostApply_only s
  | resetAfterReply => exact execResetAfterReply_only s
  | frameEdge x => exact execFrameEdge_only x s
  | decisionPhase => exact execDecisionPhase_only s
  | commitPhase x => exact execCommitPhase_only x s
  | loggingPhase => exact execLoggingPhase_only s
  | vkeyHigh => exact execVkeyHigh_only s
  | vkeyLow => exact execVkeyLow_only s
  | keyOffDelayExpiry => exact execKeyOffDelayExpiry_only s
  | wakeAlarm => exact execWakeAlarm_only s
  | vbatStartBand => exact execVbatStartBand_only s
  | brownOut => exact execBrownOut_only s
  | lowSupply => exact execLowSupply_only s
  | lowSupplyExit => exact execLowSupplyExit_only s
  | powerCycle => exact execPowerCycle_only s
  | lossOfGround => exact execLossOfGround_only s
  | groundRestored => exact execGroundRestored_only s
  | reverseBattery => exact execReverseBattery_only s
  | loadDump => exact execLoadDump_only s
  | timeResetRelease => exact execTimeResetRelease_only s
  | imageSetSelect x y => exact execImageSetSelect_only x y s
  | domainPowerUp => exact execDomainPowerUp_only s
  | hostPortAlive => exact execHostPortAlive_only s
  | selftestComplete x => exact execSelftestComplete_only x s
  | powerDomainSwitch x y => exact execPowerDomainSwitch_only x y s
  | dramTestDone x => exact execDramTestDone_only x s
  | pairCheck => exact execPairCheck_only s
  | ceCheck => exact execCeCheck_only s
  | gnssCheck => exact execGnssCheck_only s
  | enclaveCheck => exact execEnclaveCheck_only s
  | clockElement x => exact execClockElement_only x s
  | clockBase x => exact execClockBase_only x s
  | clockBaseRestored => exact execClockBaseRestored_only s
  | pllRelock x y => exact execPllRelock_only x y s
  | coastExpired => exact execCoastExpired_only s
  | elementRestartComplete x => exact execElementRestartComplete_only x s
  | safeIn => exact execSafeIn_only s
  | rowBusoffGraceExpiry => exact execRowBusoffGraceExpiry_only s
  | boost => exact execBoost_only s
  | boostRetry x => exact execBoostRetry_only x s
  | measurementEpoch x => exact execMeasurementEpoch_only x s
  | holdoverEntry => exact execHoldoverEntry_only s
  | holdoverLimitExpiry => exact execHoldoverLimitExpiry_only s
  | ppsPulse => exact execPpsPulse_only s
  | ppsPulseEnd => exact execPpsPulseEnd_only s
  | tcxoTempUpdate x => exact execTcxoTempUpdate_only x s
  | acqDwellEnd x => exact execAcqDwellEnd_only x s
  | warmSearchTimer => exact execWarmSearchTimer_only s
  | pullInTimeout x => exact execPullInTimeout_only x s
  | bitSync x y => exact execBitSync_only x y s
  | frameSync x y => exact execFrameSync_only x y s
  | lnavWord x y => exact execLnavWord_only x y s
  | ephemerisAccept x => exact execEphemerisAccept_only x s
  | channelLoss x => exact execChannelLoss_only x s
  | antOpen x => exact execAntOpen_only x s
  | antShort x => exact execAntShort_only x s
  | antBiasRetry x => exact execAntBiasRetry_only x s
  | rtcmFrame => exact execRtcmFrame_only s
  | rtcmTimeout => exact execRtcmTimeout_only s
  | ambiguityCandidate x y z => exact execAmbiguityCandidate_only x y z s
  | odoStale x => exact execOdoStale_only x s
  | eventExecute x => exact execEventExecute_only x s
  | reservedStart x => exact execReservedStart_only x s
  | feedToVbst x => exact execFeedToVbst_only x s
  | windowEnd x => exact execWindowEnd_only x s
  | guardEnd x => exact execGuardEnd_only x s
  | pullInEnd x y => exact execPullInEnd_only x y s
  | fastDecayEnd x y => exact execFastDecayEnd_only x y s
  | decayEnd x y => exact execDecayEnd_only x y s
  | openingSignature x y => exact execOpeningSignature_only x y s
  | closingSignature x y z => exact execClosingSignature_only x y z s
  | openingSearchEnd x => exact execOpeningSearchEnd_only x s
  | boostLimit x => exact execBoostLimit_only x s
  | vbstSag x => exact execVbstSag_only x s
  | returnSuspended x => exact execReturnSuspended_only x s
  | recoveryDivert x => exact execRecoveryDivert_only x s
  | openLoad x y => exact execOpenLoad_only x y s
  | offStateTest x y z => exact execOffStateTest_only x y z s
  | overcurrent x => exact execOvercurrent_only x s
  | overload x y => exact execOverload_only x y s
  | stageHot x y => exact execStageHot_only x y s
  | feedOc x => exact execFeedOc_only x s
  | retryRelease x => exact execRetryRelease_only x s
  | coilResistanceMeasure x y z w => exact execCoilResistanceMeasure_only x y z w s
  | coilCooled x => exact execCoilCooled_only x s
  | bankReconnectTestEnd x y => exact execBankReconnectTestEnd_only x y s
  | bankBoundary x => exact execBankBoundary_only x s
  | gridOpening x => exact execGridOpening_only x s
  | gridClosing x => exact execGridClosing_only x s
  | finePeriodStart x => exact execFinePeriodStart_only x s
  | gateTransition x y z => exact execGateTransition_only x y z s
  | trigOutPulse x => exact execTrigOutPulse_only x s
  | trigOutPulseEnd x => exact execTrigOutPulseEnd_only x s
  | loopEvaluation x => exact execLoopEvaluation_only x s
  | deadlineMiss x => exact execDeadlineMiss_only x s
  | flowImbalance x => exact execFlowImbalance_only x s
  | encoderTransition x y => exact execEncoderTransition_only x y s
  | index x y => exact execIndex_only x y s
  | hallTransition x y => exact execHallTransition_only x y s
  | hallIllegal x => exact execHallIllegal_only x s
  | freqEdge x => exact execFreqEdge_only x s
  | eventEdge x y => exact execEventEdge_only x y s
  | analogConversion x y => exact execAnalogConversion_only x y s
  | emuOutputStep x => exact execEmuOutputStep_only x s
  | inrushStep x => exact execInrushStep_only x s
  | lswOpenLoad x y => exact execLswOpenLoad_only x y s
  | lswShortBat x y => exact execLswShortBat_only x y s
  | lswShort x => exact execLswShort_only x s
  | lswOverload x => exact execLswOverload_only x s
  | lswOvertemp x y => exact execLswOvertemp_only x y s
  | thermLatchRelease x y => exact execThermLatchRelease_only x y s
  | aggregate x => exact execAggregate_only x s
  | aggregateShedStep x => exact execAggregateShedStep_only x s
  | lswRetryDue x => exact execLswRetryDue_only x s
  | lswPulseOpening x => exact execLswPulseOpening_only x s
  | lswPulseClosing x => exact execLswPulseClosing_only x s
  | offAfterExpiry x => exact execOffAfterExpiry_only x s
  | keyoffHoldEnd x => exact execKeyoffHoldEnd_only x s
  | warn x y z => exact execWarn_only x y z s
  | throttle x y z => exact execThrottle_only x y z s
  | sensorBroken x y => exact execSensorBroken_only x y s
  | rateTrip x y z => exact execRateTrip_only x y z s
  | shutdown x y z => exact execShutdown_only x y z s
  | canFrameReceive x y => exact execCanFrameReceive_only x y s
  | canTxStart x => exact execCanTxStart_only x s
  | canTxEnd x y => exact execCanTxEnd_only x y s
  | canDeadlineExpiry x y => exact execCanDeadlineExpiry_only x y s
  | busoffRecoveryComplete x => exact execBusoffRecoveryComplete_only x s
  | busRejoin x => exact execBusRejoin_only x s
  | addressClaim => exact execAddressClaim_only s
  | addressClaimTimer => exact execAddressClaimTimer_only s
  | sync => exact execSync_only s
  | allOffRepeat => exact execAllOffRepeat_only s
  | reportWaitExpiry => exact execReportWaitExpiry_only s
  | rowNodeLost x => exact execRowNodeLost_only x s
  | scrub x => exact execScrub_only x s
  | dirtyWriteback => exact execDirtyWriteback_only s
  | maskBuilt => exact execMaskBuilt_only s
  | loadTimeout => exact execLoadTimeout_only s
  | exportTimeout => exact execExportTimeout_only s
  | logSeal => exact execLogSeal_only s
  | trackRecord => exact execTrackRecord_only s
  | latencySave => exact execLatencySave_only s
  | activationPrepared => exact execActivationPrepared_only s
  | trialPassed x => exact execTrialPassed_only x s
  | serviceSessionExpiry => exact execServiceSessionExpiry_only s
  | tamper => exact execTamper_only s
  | safeInRelease => exact execSafeInRelease_only s
  | badOpcode x y => exact execBadOpcode_only x y s
  | imageVerified => exact execImageVerified_only s
  | stageHotRelease x y => exact execStageHotRelease_only x y s
  | pullInComplete x => exact execPullInComplete_only x s
  | phaseLock x y => exact execPhaseLock_only x y s
  | receiveError x y => exact execReceiveError_only x y s
  | acqIdleGate => exact execAcqIdleGate_only s

/-- The queue is no part of a row. -/
theorem pending_notMem_partsOf (c : Instr) : Part.pending ∉ partsOf c := by
  cases c <;> simp [partsOf]

/-- Settles O49. -/
theorem everyCommandKeepsToItsParts : Obligations.EveryCommandKeepsToItsParts := fun c s => exec_onlyPartsOf c s

/-- Settles O48: no row names the queue among its parts. -/
theorem everyCommandAnswersANextState : Obligations.EveryCommandAnswersANextState := by
  intro c s
  obtain ⟨t, ht⟩ := exec_answers c s
  exact ⟨t, ht, (exec_onlyPartsOf c s t ht).same .pending (pending_notMem_partsOf c)⟩

end Sys2Proof.Machine
end

section
/-! PROOFS. The statements that take request families together: the map requests of R386 to R389, and the I/O requests (R281, R394). -/

namespace Sys2Proof.Machine

/-- Settles O56: it has the clauses of O4, row for row. -/
theorem mapRequestsCompleteUnderTheirConditions : Obligations.MapRequestsCompleteUnderTheirConditions := mapRequestsExecute

/-- Refutes O57: its four I/O clauses are the statement O8, refuted by a PIF_EVENTS_READ of an event since the last freeze
(`not_ioRequestsExecute`). -/
theorem not_requestsCompleteUnderTheirConditions : ¬ Obligations.RequestsCompleteUnderTheirConditions := by
  rintro ⟨-, -, -, -, -, -, -, -, -, -, -, -, -, -, -, -, lswSets, lswClears, encSets, eventsRead, -⟩
  exact not_ioRequestsExecute ⟨lswSets, lswClears, encSets, eventsRead⟩

end Sys2Proof.Machine
end

section
/-! PROOFS. The requests of the parameter blocks (R8, R9, R381 to R383). -/

namespace Sys2Proof.Machine

variable {e : Env} {n : Nat} {s : State} {b : Block}

/-- PB_READ of bytes that the block has. -/
theorem opPbRead_reads (hb : paramBlock (arg e 0 8) = some b) (h9 : arg e 9 7 = 0) (h0 : 0 < arg e 32 16) (h4084 : arg e 32 16 ≤ 4084)
    (ht : arg e 16 16 + arg e 32 16 ≤ pbBytes b) : opPbRead e s =
      (s, { data :=
        leBytes (arg e 32 16) (statusOverlay s b (asRead b ((if argB e 8 then s.shd else s.act).image b)) >>> (8 * arg e 16 16)) }) := by
  simp only [opPbRead, hb]
  rw [firstBad_none (by simpa [h9, Nat.not_lt.2 h4084, Nat.not_lt.2 ht] using Nat.ne_of_gt h0)]
  rfl

/-- The bits of a block that PB_WRITE of `m` bytes from byte `off` on covers, where they are the block's. -/
theorem written_width {off m : Nat} (h : off + m ≤ pbBytes b) : min (8 * m) (8 * pbBytes b - 8 * off) = 8 * m := by omega

/-- PB_WRITE of whole fields, in their ranges, that the world of the request may write: into the shadow image. -/
theorem opPbWrite_stores {lo hi : Nat} {fs : List Field} {new : Nat} (hb : paramBlock (arg e 0 8) = some b) (h8 : arg e 8 8 = 0)
    (hlo : lo = 8 * arg e 16 16) (hhi : hi = 8 * (arg e 16 16 + (e.payload.length - 4)))
    (hfs : fs = (fieldsOf b).filter fun f => f.meets lo hi) (hw : ∀ f ∈ fs, f.within lo hi = true)
    (hnew : new = copyFields (fs.filter fun f => f.acc == .ro) (s.shd.image b)
      (setBits (s.shd.image b) lo (8 * (e.payload.length - 4)) (leNat (e.payload.drop 4))))
    (hspare : bits (setBits (s.shd.image b) lo (8 * (e.payload.length - 4)) (leNat (e.payload.drop 4))) lo (8 * (e.payload.length - 4))
      &&& (innerReserved b >>> lo ||| ((fieldMask fs >>> lo) ^^^ (2 ^ (8 * (e.payload.length - 4)) - 1))) = 0)
    (hf : ∀ f ∈ fs, f.acc ≠ .ro → f.undefinedIn new = false ∧ f.outside new = false)
    (ht : arg e 16 16 + (e.payload.length - 4) ≤ pbBytes b)
    (hs : sealedWorldReq e s = false → ∀ f ∈ fs, f.acc = .rws → f.differs (s.shd.image b) new = false) : opPbWrite e s =
      (s.onShd fun p => p.setImage b (if b = .pos ∧ lo < 160 ∧ 64 < hi then setBits new 160 1 1 else new), {}) := by
  subst hlo hhi hfs hnew
  simp only [opPbWrite, hb, List.length_drop, written_width ht]
  rw [firstBad_none, if_neg]
  · rfl
  · intro hc
    obtain ⟨hopen, hchanged⟩ := Bool.and_eq_true_iff.1 hc
    obtain ⟨f, hm, hrws⟩ := List.any_eq_true.1 hchanged
    obtain ⟨hacc, hdiff⟩ := Bool.and_eq_true_iff.1 hrws
    exact Bool.false_ne_true ((hs (by simpa using hopen) f hm (beq_iff_eq.1 hacc)).symm.trans hdiff)
  · have defined := fun f hm ha => (hf f hm ha).1
    have inside := fun f hm ha => (hf f hm ha).2
    simp only [List.forall_mem_cons, Bool.or_eq_false_iff, List.any_eq_false, Bool.and_eq_true, bne_iff_ne, decide_eq_false_iff_not,
      Bool.not_eq_true', not_and, Bool.not_eq_true, Nat.not_lt]
    exact ⟨⟨⟨⟨not_not.2 h8, fun f hm => by simp [hw f hm]⟩, not_not.2 hspare⟩, defined⟩, ⟨ht, inside⟩, nofun⟩

/-- The checks of PB_COMMIT that a MASK passes. -/
structure Commits (e : Env) (s : State) : Prop where
  named : arg e 0 32 ≠ 0
  known : maskBad (arg e 0 32) = false
  free : ∀ b ∈ maskBlocks (arg e 0 32), commitWaits s b = false
  stands : ∀ b ∈ maskBlocks (arg e 0 32), standbyBad s b = false
  sound : ∀ b ∈ maskBlocks (arg e 0 32), blockCheck e s b = none

/-- PB_COMMIT of shadow images that pass their checks: PB.HOST awaits the reply, the others the frame edge. -/
theorem opPbCommit_accepts (h : Commits e s) : opPbCommit e s =
    (let s1 := if (maskBlocks (arg e 0 32)).contains .host then s.onHost fun h => { h with applyWait := some (e.port, s.shd.image .host) } else s
     let edge := (maskBlocks (arg e 0 32)).filter (· != .host)
     if edge = [] then done s1
     else doneEdge s (waitEdge 0x0102 e
       [.commit (edge.map fun b => (b, s.shd.image b)) (if edge.contains .ce then some s.ce.shadow else none)] s1)) := by
  have none_waits : (maskBlocks (arg e 0 32)).any (commitWaits s) = false := List.any_eq_false.2 fun b hm => by simp [h.free b hm]
  have none_late : (maskBlocks (arg e 0 32)).any (standbyBad s) = false := List.any_eq_false.2 fun b hm => by simp [h.stands b hm]
  simp only [opPbCommit]
  rw [firstBad_none (by simp [h.named, h.known, none_waits, none_late]), List.findSome?_eq_none_iff.2 h.sound]

/-- PB_REVERT of a MASK of parameter blocks. -/
theorem opPbRevert_copies (h : maskBad (arg e 0 32) = false) : opPbRevert e s =
    (s.onShd fun p => (maskBlocks (arg e 0 32)).foldl (fun q b => q.setImage b (s.act.image b)) p, {}) :=
  if_neg (by simp [h])

/-- Settles O2: each row passes its gate and ends with the effect of its own operation. -/
theorem parameterRequestsExecute : Obligations.ParameterRequestsExecute := by
  refine ⟨?read, ?write, ?commit, ?commitHost, ?revert⟩
  case read =>
    exact fun e n s b h hl hd hb h9 h0 h4084 ht =>
      request_completes rfl h hd (lenIs_of hl) ((opPbRead_reads hb h9 h0 h4084 ht).trans rfl) rfl
  case write =>
    intro e n s b lo hi fs new h h4 hl hd hb h8 hlo hhi hfs hw hnew hspare hf ht hs
    rw [← admitted_shd e n s] at hnew hspare hs
    exact request_completes rfl h hd (lenItems_loadData h4 hl) (opPbWrite_stores hb h8 hlo hhi hfs hw hnew hspare hf ht hs) rfl
  case commit =>
    intro e n s h hl hd h0 hk hb hx
    obtain ⟨b, hm, hne⟩ := hx
    have commits : Commits e (admitted e n s) :=
      ⟨h0, hk, fun b hm => (hb b hm).1, fun b hm => (hb b hm).2.1, fun b hm => (hb b hm).2.2⟩
    have waits : (maskBlocks (arg e 0 32)).filter (· != .host) ≠ [] :=
      List.ne_nil_of_mem (List.mem_filter.2 ⟨hm, bne_iff_ne.2 hne⟩)
    refine request_completes rfl h hd (lenIs_of hl) ((opPbCommit_accepts commits).trans ((if_neg waits).trans ?_)) rfl
    simp only [doneEdge, admitted_shd, admitted_ce, admitted_pm]
  case commitHost =>
    intro e n s h hl hd hk hm h0 hw hst hc
    have commits : Commits e (admitted e n s) := by
      constructor <;> simp_all
    refine request_completes rfl h hd (lenIs_of hl) ((opPbCommit_accepts commits).trans ?_) rfl
    rw [hm, admitted_shd]
    rfl
  case revert =>
    intro e n s h hl hd hk
    refine request_completes rfl h hd (lenIs_of hl) ((opPbRevert_copies hk).trans ?_) rfl
    rw [admitted_act]

end Sys2Proof.Machine
end

section
/-! PROOFS. The requests of the enclave and of diagnosis (R368, R398, R404, R408 to R411, R413 to R420). -/

namespace Sys2Proof.Machine

variable {op : BitVec 16} {e : Env} {n : Nat} {s : State}

/-- A request that acts in the sealed world alone, in an open session: it ends as its effect `f` says. -/
theorem sealed_request_completes {i : Instr} {o : OpInfo} {f : State → State × Answer} (ho : opInfo op = some o)
    (h : Accepted op e n s) (hd : s.sys.dev ∈ o.states) (hx : sessionOf e (admitted e n s) ≠ none) (hl : o.len e = true)
    (hf : o.run e (admitted e n s) = f (admitted e n s)) (hw : (f (admitted e n s)).2.wait = none)
    (h1 : i.env? = some e := by rfl) (h2 : i.opcode? = some op := by rfl)
    (hs : .start ∈ o.states → servedInStart op = true := by decide)
    (hq : .quarantine ∈ o.states → servedInQuarantine op = true := by decide) : exec i s = .next (finish op e n s f) := by
  have hg : gate op o e (admitted e n s) = none := gate_open hd (fun x => hs (x ▸ hd)) (fun x => hq (x ▸ hd)) fun _ => hx
  rw [exec_request h1 h2, receive_finish h ho hl hg hf hw]

/-! ### Sessions and service access (R368, R410) -/

/-- SEC_SERVICE_CHALLENGE where service access is not locked. -/
theorem opSecServiceChallenge_draws (h : ¬(serviceLock s = true ∧ ownerClaimed s = true)) : opSecServiceChallenge e s =
    ((drawFree s).1.onSec fun v => { v with nonce := some ((Config.rand (drawFree s).2).setWidth 128, s.pm) },
     { data := leBytes 16 ((Config.rand (drawFree s).2).setWidth 128 : BitVec 128).toNat }) := if_neg h

/-- SEC_SERVICE_RESPONSE to a nonce that is not too old: the session of a service key in force, or AUTH_FAIL; the nonce is spent. -/
theorem opSecServiceResponse_answers {nonce : BitVec 128} {t : Tick} {h : BitVec 256} {r : State × List Byte} (h4 : arg e 4 28 = 0)
    (hn : s.sec.nonce = some (nonce, t))
    (hh : h = Config.sha256 (leBytes 16 nonce.toNat ++ leBytes 16 s.sec.deviceId.toNat ++ leBytes 4 (arg e 0 32)))
    (ht : s.pm < t + 4800000000)
    (hr : r = openSession e.port (some (BitVec.ofNat 32 (arg e 0 32))) nonce (s.onSec fun v => { v with nonce := none })) :
    opSecServiceResponse e s = if serviceOk s h (BitVec.ofNat 512 (arg e 32 512)) = true then
      (notice .sec 0x07 0xFFFF [] (extendOpen 7 0x05 (r.1.onSec fun v =>
        { v with svcPort := v.svcPort || (BitVec.ofNat 32 (arg e 0 32)).getLsbD 0 })), { data := r.2 })
    else (s.onSec fun v => { v with nonce := none }, { status := .authFail }) := by
  subst hh hr
  simp only [opSecServiceResponse, h4, hn, Nat.not_le.2 ht, ne_eq, not_true_eq_false, if_false, false_or, Bool.not_eq_true',
    deny, doneWith]
  cases serviceOk s _ (BitVec.ofNat 512 (arg e 32 512)) <;> rfl

/-! ### Images (R413 to R420) -/

/-- SEC_IMAGE_BEGIN while no image is loaded, verified or on trial. -/
theorem opSecImageBegin_opens {i : Fin 5} (hi : idx? 5 (arg e 0 3) = some i) (h3 : arg e 3 29 = 0) (hz : arg e 32 32 ≤ bankSize i)
    (hl : s.sec.load = none) (hv : s.sec.verifying = none) (ht : s.sec.image[i].trial = false) : opSecImageBegin e s =
      ((modImage i (fun m => m.modOther fun _ => {}) s).onSec fun v => { v with load := some { image := i.val, size := arg e 32 32 } }, {}) := by
  simp only [opSecImageBegin, hi]
  rw [firstBad_none (by simpa [h3, Nat.not_lt.2 hz, hl, hv] using ht)]
  rfl

/-- SEC_IMAGE_DATA at the offset the image has come to, within its size. -/
theorem opSecImageData_appends {l : ImgLoad} (hl : s.sec.load = some l) (ho : arg e 0 32 = l.data.length)
    (hz : l.data.length + (e.payload.length - 4) ≤ l.size) : opSecImageData e s =
      (s.onSec fun v => { v with load := some { l with data := l.data ++ e.payload.drop 4 } },
       { data := leBytes 4 (l.data.length + (e.payload.drop 4).length) }) := by
  simp only [opSecImageData, hl]
  rw [firstBad_none (by simp [ho, Nat.not_lt.2 hz])]
  rfl

/-- SEC_IMAGE_END of an open load. -/
theorem opSecImageEnd_verifies {l : ImgLoad} {i : Fin 5} (hl : s.sec.load = some l) (hi : idx? 5 l.image = some i) : opSecImageEnd e s =
    ((modImage i (fun m => m.modOther fun _ => readHeader l.data) s).onSec fun v => { v with load := none, verifying := some l.image },
     { status := .accepted }) := by
  simp only [opSecImageEnd, hl, hi]

/-- The banks a SEC_ACTIVATE would run. -/
def banksToRun (e : Env) (s : State) : List ImgBank :=
  (List.finRange 5).map fun i => if named (arg e 0 5) i.val then s.sec.image[i].other else s.sec.image[i].run

/-- The checks of SEC_ACTIVATE (R420) that a request passes. -/
structure Activates (e : Env) (s : State) : Prop where
  live : (!liveEn s && (s.sys.dev == .armed || s.sys.dev == .manual)) = false
  spare : arg e 5 27 = 0
  verified : ∀ i : Fin 5, named (arg e 0 5) i.val = true → s.sec.image[i].other.verified = true
  idle : s.sec.activation = none
  loaded : ∀ l, s.sec.load = some l → named (arg e 0 5) l.image = false
  consistent : consistent (banksToRun e s) = true

/-- SEC_ACTIVATE of verified banks: named for activation, but in QUARANTINE, where the next START selects (R417). -/
theorem opSecActivate_accepts (h : Activates e s) : opSecActivate e s =
    if s.sys.dev = .quarantine then (s, { status := .accepted })
    else (s.onSec fun v => { v with activation := some { images := BitVec.ofNat 5 (arg e 0 5), since := s.pm } }, { status := .accepted }) := by
  have verified : (((List.finRange 5).filter fun i => named (arg e 0 5) i.val).any fun i => !s.sec.image[i].other.verified) = false :=
    List.any_eq_false.2 fun i hi => by rw [h.verified i (List.mem_filter.1 hi).2]; decide
  have fits := h.consistent
  unfold banksToRun at fits
  simp only [opSecActivate]
  rw [firstBad_none]
  simp only [List.forall_mem_cons, fits, h.idle, h.spare]
  refine ⟨h.live, rfl, verified, ?_, rfl, nofun⟩
  cases hl : s.sec.load with
  | none => rfl
  | some l => exact h.loaded l hl

/-! ### Diagnosis (R398, R399) -/

/-- DIAG_READ of instances that the item has. -/
theorem opDiagRead_reads {sh : Nat × Nat} (hi : itemShape (arg e 0 8) = some sh) (hD : arg e 0 8 ≠ 0x0D) (h0 : 0 < arg e 16 8)
    (ht : arg e 8 8 + arg e 16 8 ≤ sh.2) (h4084 : arg e 16 8 * sh.1 ≤ 4084) :
    opDiagRead e s = (s, { data := itemsBytes s (arg e 0 8) (arg e 8 8) (arg e 16 8) }) := by
  have range : ¬ (arg e 16 8 = 0 ∨ arg e 8 8 + arg e 16 8 > sh.2 ∨ arg e 16 8 * sh.1 > 4084) := by omega
  simp only [opDiagRead, hi, if_neg hD, if_neg range, doneWith]

/-- Settles O10: each row passes its gate and ends with the effect of its own operation. -/
theorem securityRequestsExecute : Obligations.SecurityRequestsExecute := by
  refine ⟨?sessionOpen, ?sessionClose, ?challenge, ?response, ?attest, ?imageBegin, ?imageData, ?imageEnd, ?activate, ?activateQuarantine,
    ?imageStatus, ?diagRead⟩
  case sessionOpen => exact fun e n s h hl hd ho => request_completes rfl h hd (lenIs_of hl) (if_pos ho) rfl
  case sessionClose => exact fun e n s h hl hd hx => sealed_request_completes rfl h hd hx (lenIs_of hl) rfl rfl
  case challenge =>
    intro e n s h hl hd hu
    refine request_completes rfl h hd (lenIs_of hl) ((opSecServiceChallenge_draws (e := e) hu).trans ?_) rfl
    rw [admitted_pm]
  case response =>
    intro e n s nonce t a r h hl hd h4 hn ha ht hr
    rw [← admitted_sec e n s] at hn ha
    rw [← admitted_pm e n s] at ht
    refine request_completes rfl h hd (lenIs_of hl) (opSecServiceResponse_answers h4 hn ha ht hr) ?_
    split <;> rfl
  case attest => exact fun e n s h hl hd => request_completes rfl h hd (lenIs_of hl) rfl rfl
  case imageBegin =>
    intro e n s i h hl hd hi h3 hz hload hv ht
    rw [← admitted_sec e n s] at hload hv ht
    exact request_completes rfl h hd (lenIs_of hl) (opSecImageBegin_opens hi h3 hz hload hv ht) rfl
  case imageData =>
    intro e n s l h h4 hl hd hload ho hz
    rw [← admitted_sec e n s] at hload
    exact request_completes rfl h hd (lenItems_loadData h4 hl) (opSecImageData_appends hload ho hz) rfl
  case imageEnd =>
    intro e n s l i h hl hd hload hi
    rw [← admitted_sec e n s] at hload
    exact request_completes rfl h hd (lenIs_of hl) (opSecImageEnd_verifies (e := e) hload hi) rfl
  case activate =>
    intro e n s h hl hd hx h5 hlive hv ha hload hc
    have served : s.sys.dev ≠ .quarantine := fun hq => by simp [hq, inBAM] at hd
    have live : (!liveEn (admitted e n s) && ((admitted e n s).sys.dev == .armed || (admitted e n s).sys.dev == .manual)) = false := by
      rw [admitted_dev, liveEn, admitted_act]
      rcases hlive with hlive | hlive
      · rw [liveEn] at hlive
        simp [hlive]
      · simp [hlive]
    rw [← admitted_sec e n s] at hv ha hload hc
    refine sealed_request_completes rfl h (List.mem_cons_of_mem _ hd) hx (lenIs_of hl)
      ((opSecActivate_accepts ⟨live, h5, hv, ha, hload, hc⟩).trans ((if_neg (by rwa [admitted_dev])).trans ?_)) rfl
    rw [admitted_pm]
  case activateQuarantine =>
    intro e n s h hl hd hx h5 hv ha hload hc
    rw [← admitted_sec e n s] at hv ha hload hc
    exact sealed_request_completes rfl h (hd ▸ List.mem_cons_self) hx (lenIs_of hl)
      ((opSecActivate_accepts ⟨by simp [hd], h5, hv, ha, hload, hc⟩).trans (if_pos (by rwa [admitted_dev]))) rfl
  case imageStatus =>
    intro e n s h hl hd
    refine request_completes rfl h hd (lenIs_of hl) ?_ rfl
    rw [← admitted_sec e n s]
    rfl
  case diagRead =>
    exact fun e n s sh h hl hd hi hD h0 ht h4084 => request_completes rfl h hd (lenIs_of hl) (opDiagRead_reads hi hD h0 ht h4084) rfl

end Sys2Proof.Machine
end

section
/-! PROOFS. CAN_TX of an FD frame where FD_EN is clear (R327, R395, R397). -/

namespace Sys2Proof.Machine

/-- An answer leaves the controllers to the effect of the request. -/
theorem finish_can (op : BitVec 16) (e : Env) (n : Nat) (s : State) (f : State → State × Answer) :
    (finish op e n s f).can = (f (admitted e n s)).1.can := (answer_only ..).same .can (by decide)

theorem modCtl_ctl (x : Fin 3) (f : CanCtl → CanCtl) (s : State) : (modCtl x f s).can.ctl[x] = f s.can.ctl[x] := vmod_get ..

theorem modSlot_slot (x : Fin 3) (k : Fin 32) (f : Slot → Slot) (s : State) :
    (modSlot x k f s).can.ctl[x].slots[k] = f s.can.ctl[x].slots[k] := by
  rw [modSlot, modCtl_ctl]
  exact vmod_get ..

/-- A loaded slot is pending, and submitted now. -/
theorem loadSlot_slot (x : Fin 3) (k : Fin 32) (o : SlotOwner) (d : Nat) (s : State) : (loadSlot x k o d s).can.ctl[x].slots[k] =
    { st := .pending, desc := BitVec.ofNat 640 d, subAt := s.pm, owner := o } := modSlot_slot ..

/-- A device in STANDBY whose CAN1 is enabled, FD_EN clear. -/
def fdDisabled : State :=
  { State.reset with
    running := true, pm := 100
    sys := { dev := .standby, hostAlive := true, bootStage := 4, mapReady := true, powered := true }
    pwr := { State.reset.pwr with domains := 0xFFF, vkey := true, vbatOk := true }
    act := State.reset.act.setImage .can (setBits (State.reset.act.image .can) 256 2 1) }

/-- The host loads slot 0 of CAN1 with an FD frame. -/
def fdFrame : Env :=
  { payload := [1, 0, 0, 0, 0, 0, 0, 0x40] ++ List.replicate 76 0, payCrc := 0xE0E765D6, hdrCrc := 0xCFE2 }

theorem fdFrame_accepted : Accepted 0x0902 fdFrame 0 fdDisabled where
  listens := by decide +kernel
  header := by decide +kernel
  bits := by decide
  version := rfl
  credit := by decide +kernel
  crc := by decide +kernel
  tag := by decide +kernel
  unheld := by decide +kernel
  new := by decide +kernel
  ready := by decide +kernel

/-- CAN_TX of an FD frame to a controller without FD_EN, with nothing else amiss. -/
theorem opCanTx_refusesFd {e : Env} {s : State} {x : Fin 3} (hx : ctlOf e = some x) (h2 : arg e 2 6 = 0) (h13 : arg e 13 19 = 0)
    (h41 : bits (arg e 32 640) 41 23 = 0) (hfd : bitN (arg e 32 640) 30 = true) (hen : fdEn s x = false) :
    opCanTx e s = (s, { status := .badParam }) := by
  simp [opCanTx, hx, h2, h13, h41, hfd, hen, firstBad, deny]

theorem canTx_refusesFd {e : Env} {n : Nat} {s : State} {x : Fin 3} (h : Accepted 0x0902 e n s) (hl : e.payload.length = 84)
    (hd : s.sys.dev ∈ inBAMCF) (hx : ctlOf e = some x) (h2 : arg e 2 6 = 0) (h13 : arg e 13 19 = 0)
    (h41 : bits (arg e 32 640) 41 23 = 0) (hfd : bitN (arg e 32 640) 30 = true) (hen : fdEn s x = false) :
    exec (.canTx e) s = .next (finish 0x0902 e n s fun u => (u, { status := .badParam })) :=
  request_completes rfl h hd (lenIs_of hl) (opCanTx_refusesFd hx h2 h13 h41 hfd (by rwa [fdEn, admitted_act])) rfl

/-- Refutes O9: CAN_TX answers BAD_PARAM to an FD frame where FD_EN is clear (R327), and loads no slot; the statement, which asks
of such a frame only that its controller is not CAN0, has the slot loaded. -/
theorem not_busRequestsExecute : ¬ Obligations.BusRequestsExecute := by
  rintro ⟨-, -, loads, -⟩
  have stated := loads fdFrame 0 fdDisabled 1 0 fdFrame_accepted rfl (by decide) rfl (by decide) (by decide) (by decide)
    (by decide +kernel) (by decide) (by decide +kernel) (by decide +kernel) (by decide +kernel) (by decide +kernel) (by decide +kernel)
  have meant := canTx_refusesFd (x := 1) fdFrame_accepted rfl (by decide) rfl (by decide) (by decide) (by decide +kernel)
    (by decide +kernel) (by decide +kernel)
  have same := congrArg State.can (Host.Outcome.next.inj (meant.symm.trans stated))
  have slot := congrArg (fun c : CanSt => (c.ctl[(1 : Fin 3)].slots[(0 : Fin 32)]).st) same
  rw [finish_can, finish_can, admitted_can] at slot
  have loaded := congrArg Slot.st (loadSlot_slot 1 0 .host (arg fdFrame 32 640) (admitted fdFrame 0 fdDisabled))
  exact absurd (slot.trans loaded) (by decide)

end Sys2Proof.Machine
end

section
/-! PROOFS. The checks of a request at its port, its judgement and its record (R354, R356 to R358, R370 to R372, R375, R376). -/

namespace Sys2Proof.Machine

variable {op : BitVec 16} {i : Instr} {e : Env} {n c : Nat} {s w : State}

/-! ### What arrives at a port (R354) -/

/-- The request row `i` brings the envelope `e` of opcode `op`. -/
structure Brings (i : Instr) (e : Env) (op : BitVec 16) : Prop where
  env : i.env? = some e
  opcode : i.opcode? = some op

theorem Brings.exec (h : Brings i e op) (s : State) : exec i s = .next (receive op e s) := exec_request h.env h.opcode

theorem receive_unheard (h : portListens s e.port = false) : receive op e s = s := if_pos (by simp [h])

theorem receive_headerBad (h : portListens s e.port = true) (hb : headerBad op e = true) :
    receive op e s = hostNote e.port 0x03 (modPort e.port (fun q => { q with badHeader := q.badHeader + 1 }) s) :=
  (if_neg (by simp [h])).trans ((if_pos hb).trans (if_pos h))

theorem receive_header (h : portListens s e.port = true) (hb : headerBad op e = false) :
    receive op e s = checkHeader op e (validHeader e s) :=
  (if_neg (by simp [h])).trans (if_neg (by simp [hb]))

/-- Settles O37. -/
theorem unheardAndBadHeadersExecute : Obligations.UnheardAndBadHeadersExecute := by
  refine ⟨fun i e op s he ho hp => ?unheard, fun i e op s he ho hp hb => ⟨_, (Brings.mk he ho).exec s, ?badHeader⟩⟩
  case unheard => rw [(Brings.mk he ho).exec, receive_unheard hp]
  case badHeader =>
    rw [receive_headerBad hp hb]
    exact notice_noted ..

/-! ### Rows 3 to 5 (R354, R357) -/

theorem refuseHeader_credit {st : Status} (h : noCredit e.port w = false) : refuseHeader op e st w =
    sendReply (sessionOf e w) op e { status := st } 1 1 (takeCredit e.port w) := if_neg (by simp [h])

theorem refuseHeader_noCredit {st : Status} (h : noCredit e.port w = true) : refuseHeader op e st w =
    sendReply (sessionOf e w) op e { status := st } 0 0 w := if_pos h

theorem checkHeader_reserved (h : (e.noticeBit || e.moreBit || e.rsvdA != 0 || e.rsvdB != 0) = true) :
    checkHeader op e w = refuseHeader op e .badParam w := if_pos h

/-- The bits of a header that must be 0. -/
structure ReservedClear (e : Env) : Prop where
  notice : e.noticeBit = false
  more : e.moreBit = false
  rsvdA : e.rsvdA = 0
  rsvdB : e.rsvdB = 0

theorem ReservedClear.bits (h : ReservedClear e) : ¬ (e.noticeBit || e.moreBit || e.rsvdA != 0 || e.rsvdB != 0) = true := by
  simp [h.notice, h.more, h.rsvdA, h.rsvdB]

theorem checkHeader_version (h : ReservedClear e) (hv : e.version ≠ 1) : checkHeader op e w = refuseHeader op e .versionMismatch w :=
  (if_neg h.bits).trans (if_pos hv)

/-- Past rows 3 and 4. -/
theorem checkHeader_credit (h : ReservedClear e) (hv : e.version = 1) : checkHeader op e w =
    if stillHeld e w then w
    else if reusesCredit op e w then checkBody op e 0 w
    else if noCredit e.port w then sendReply (sessionOf e w) op e { status := .noCredit } 0 0 w
    else checkBody op e 1 (takeCredit e.port w) :=
  (if_neg h.bits).trans (if_neg (not_not.2 hv))

/-- Settles O38: each row of the table, in its order, is one branch of `checkHeader`. -/
theorem headersRefusedByTheTable : Obligations.HeadersRefusedByTheTable := by
  refine ⟨?reserved, ?reservedNoCredit, ?version, ?versionNoCredit, ?held, ?noCredit⟩
  case reserved =>
    intro i e op s he ho hp hb hr hc
    rw [(Brings.mk he ho).exec, receive_header hp hb, checkHeader_reserved hr, refuseHeader_credit hc]
  case reservedNoCredit =>
    intro i e op s he ho hp hb hr hc
    rw [(Brings.mk he ho).exec, receive_header hp hb, checkHeader_reserved hr, refuseHeader_noCredit hc]
  case version =>
    intro i e op s he ho hp hb h1 h2 h3 h4 hv hc
    rw [(Brings.mk he ho).exec, receive_header hp hb, checkHeader_version ⟨h1, h2, h3, h4⟩ hv, refuseHeader_credit hc]
  case versionNoCredit =>
    intro i e op s he ho hp hb h1 h2 h3 h4 hv hc
    rw [(Brings.mk he ho).exec, receive_header hp hb, checkHeader_version ⟨h1, h2, h3, h4⟩ hv, refuseHeader_noCredit hc]
  case held =>
    intro i e op s he ho hp hb h1 h2 h3 h4 hv hh
    rw [(Brings.mk he ho).exec, receive_header hp hb, checkHeader_credit ⟨h1, h2, h3, h4⟩ hv, if_pos hh]
  case noCredit =>
    intro i e op s he ho hp hb h1 h2 h3 h4 hv hh hu hc
    rw [(Brings.mk he ho).exec, receive_header hp hb, checkHeader_credit ⟨h1, h2, h3, h4⟩ hv, if_neg (by simp [hh]), if_neg (by simp [hu]),
      if_pos hc]

/-! ### Rows 6 and 7, retransmissions and holding (R354, R357, R358, R370) -/

/-- A header that passes rows 1 to 5 in `s`: the request has taken `c` credits, and row 6 finds the state `w`. -/
def PassesHeader (op : BitVec 16) (e : Env) (s w : State) (c : Nat) : Prop :=
  reusesCredit op e (validHeader e s) = true ∧ c = 0 ∧ w = validHeader e s ∨
    reusesCredit op e (validHeader e s) = false ∧ noCredit e.port (validHeader e s) = false ∧ c = 1 ∧ w = takeCredit e.port (validHeader e s)

/-- Such a request goes on to row 6. -/
theorem PassesHeader.receive (h : PassesHeader op e s w c) (hp : portListens s e.port = true) (hb : headerBad op e = false)
    (hr : ReservedClear e) (hv : e.version = 1) (hh : stillHeld e (validHeader e s) = false) :
    receive op e s = checkBody op e c w := by
  rw [receive_header hp hb, checkHeader_credit hr hv, if_neg (by simp [hh])]
  rcases h with ⟨hu, rfl, rfl⟩ | ⟨hu, hc, rfl, rfl⟩
  · rw [if_pos hu]
  · rw [if_neg (by simp [hu]), if_neg (by simp [hc])]

theorem PassesHeader.only (h : PassesHeader op e s w c) : Only [.sys, .pd0, .host] s w := by
  have header : Only [.sys, .pd0, .host] s (validHeader e s) := validHeader_only e s
  rcases h with ⟨-, -, rfl⟩ | ⟨-, -, -, rfl⟩
  · exact header
  · exact header.andThen (takeCredit_only ..) (by decide)

/-- Neither its header nor its credit touches the failed tags or the session of its port. -/
theorem PassesHeader.port (h : PassesHeader op e s w c) :
    (portOf w e.port).authFails = (portOf s e.port).authFails ∧ (portOf w e.port).session = (portOf s e.port).session := by
  obtain ⟨ns, nl, lp, hv⟩ := validHeader_port e s
  rcases h with ⟨-, -, rfl⟩ | ⟨-, -, -, rfl⟩
  · rw [hv]
    exact ⟨rfl, rfl⟩
  · rw [takeCredit, portOf_modPort, hv]
    exact ⟨rfl, rfl⟩

theorem checkBody_badCrc (h : payloadCrc e.payload ≠ e.payCrc.toNat) : checkBody op e c w =
    sendReply (sessionOf e w) op e { status := .badCrc } 1 c w := if_pos h

theorem checkBody_tag (h : payloadCrc e.payload = e.payCrc.toNat) (ht : tagCounter op e w = some n) :
    checkBody op e c w = accept op e c n (passTag e n w) := by
  rw [checkBody, if_neg (not_not.2 h), ht]

theorem checkBody_noTag (h : payloadCrc e.payload = e.payCrc.toNat) (ht : tagCounter op e w = none) :
    checkBody op e c w = authFail op e c w := by
  rw [checkBody, if_neg (not_not.2 h), ht]

/-- A failed tag counted and answered. -/
def refuseTag (op : BitVec 16) (e : Env) (c : Nat) (s : State) : State :=
  sendReply none op e { status := .authFail } 1 c (hostNote e.port 0x04 (modPort e.port (fun q => { q with authFails := q.authFails + 1 }) s))

theorem authFail_eq (op : BitVec 16) (e : Env) (c : Nat) (w : State) : authFail op e c w =
    if (portOf (refuseTag op e c w) e.port).authFails ≥ 8 then
      modPort e.port (fun q => { q with authFails := 0 }) (closeSession e.port (refuseTag op e c w))
    else refuseTag op e c w := rfl

theorem refuseTag_port (op : BitVec 16) (e : Env) (c : Nat) (w : State) :
    (portOf (refuseTag op e c w) e.port).authFails = (portOf w e.port).authFails + 1 ∧
    (portOf (refuseTag op e c w) e.port).session = (portOf w e.port).session := by
  have noted := (notice_noted .host 0x04 (portIx e.port).val [] (modPort e.port (fun q => { q with authFails := q.authFails + 1 }) w)).port e.port
  rw [portOf_modPort] at noted
  rw [refuseTag, sendReply, portOf_modPort, hostNote, noted]
  exact ⟨rfl, rfl⟩

/-- The eighth failed tag in a row closes the session; an earlier one counts. -/
theorem authFail_port (op : BitVec 16) (e : Env) (c : Nat) (w : State) :
    (portOf (authFail op e c w) e.port).authFails = (if 7 ≤ (portOf w e.port).authFails then 0 else (portOf w e.port).authFails + 1) ∧
    (7 ≤ (portOf w e.port).authFails → (portOf (authFail op e c w) e.port).session = none) ∧
    ((portOf w e.port).authFails < 7 → (portOf (authFail op e c w) e.port).session = (portOf w e.port).session) := by
  obtain ⟨counted, open_⟩ := refuseTag_port op e c w
  rw [authFail_eq, counted]
  by_cases h : 7 ≤ (portOf w e.port).authFails
  · rw [if_pos (Nat.succ_le_succ h), if_pos h, portOf_modPort]
    refine ⟨rfl, fun _ => ?_, fun hlt => absurd h (Nat.not_le.2 hlt)⟩
    simp [closeSession_session]
  · rw [if_neg (by omega), if_neg h]
    exact ⟨counted, fun h7 => absurd h7 h, fun _ => open_⟩

theorem accept_replay {r : Replay} (h : replayOf e w = some r) : accept op e c n w = replyAgain op e c r w := by
  rw [accept, h]

theorem accept_held (h : replayOf e w = none) (hw : mustWait op w = true) : accept op e c n w = hold op e n (checkSeq e w) := by
  rw [accept, h]
  exact if_pos hw

/-- A request waits for the elements that restart, whatever its port has noted. -/
theorem mustWait_ofOnly {t : State} (h : Only [.sys, .pd0, .host] s t) : mustWait op t = mustWait op s := by
  have safe : t.safe = s.safe := h.same .safe (by decide)
  simp only [mustWait, State.restarting, safe]

/-- Settles O39. -/
theorem bodiesRefusedHeldOrRepeated : Obligations.BodiesRefusedHeldOrRepeated := by
  refine ⟨?badCrc, ?authFail, ?repeated, ?held⟩
  case badCrc =>
    intro i e op s w c he ho hp hb h1 h2 h3 h4 hv hh hc hcrc
    rw [(Brings.mk he ho).exec, PassesHeader.receive hc hp hb ⟨h1, h2, h3, h4⟩ hv hh, checkBody_badCrc hcrc]
  case authFail =>
    intro i e op s w c he ho hp hb h1 h2 h3 h4 hv hh hc hcrc ht
    refine ⟨_, (Brings.mk he ho).exec s, ?_⟩
    rw [PassesHeader.receive hc hp hb ⟨h1, h2, h3, h4⟩ hv hh, checkBody_noTag hcrc ht]
    obtain ⟨fails, session⟩ := PassesHeader.port hc
    rw [← fails, ← session]
    obtain ⟨counted, closed, stays⟩ := authFail_port op e c w
    exact ⟨counted, closed, stays, ((Only.refl _ s).andThen (PassesHeader.only hc) (by decide)).andThen (authFail_only op e c w) (by decide)⟩
  case repeated =>
    intro i e op s w n r c he ho hp hb h1 h2 h3 h4 hv hh hc hcrc ht hr
    rw [(Brings.mk he ho).exec, PassesHeader.receive hc hp hb ⟨h1, h2, h3, h4⟩ hv hh, checkBody_tag hcrc ht, accept_replay hr]
  case held =>
    intro i e op s w n c he ho hp hb h1 h2 h3 h4 hv hh hc hcrc ht hr hw
    have waits : mustWait op (passTag e n w) = true :=
      (mustWait_ofOnly ((PassesHeader.only hc).andThen (passTag_only ..) (by decide))).trans hw
    rw [(Brings.mk he ho).exec, PassesHeader.receive hc hp hb ⟨h1, h2, h3, h4⟩ hv hh, checkBody_tag hcrc ht, accept_held hr waits]

/-! ### The judgement (R354, R372, R375, R376) -/

/-- A request judged before it executes is answered with its status alone. -/
theorem receive_denied {st : Status} (h : Accepted op e n s) (hi : interpret op e (admitted e n s) = deny st (admitted e n s)) :
    receive op e s = finish op e n s fun u => (u, { status := st }) := by
  rw [receive_accepted h, runRequest, hi]
  rfl

theorem interpret_badLength {k : OpInfo} (ho : opInfo op = some k) (hl : k.len e = false) : interpret op e w = deny .badLength w := by
  simp [interpret, ho, hl]

theorem interpret_gated {k : OpInfo} {st : Status} (ho : opInfo op = some k) (hl : k.len e = true) (hg : gate op k e w = some st) :
    interpret op e w = deny st w := by
  simp [interpret, ho, hl, hg]

theorem gate_start {k : OpInfo} (hd : w.sys.dev = .start) (hs : servedInStart op = false) : gate op k e w = some .state := by
  simp [gate, firstBad, hd, hs]

theorem gate_quarantine {k : OpInfo} (hd : w.sys.dev = .quarantine) (hs : servedInQuarantine op = false) :
    gate op k e w = some .quarantined := by
  simp [gate, firstBad, hd, hs]

/-- Past the gates of START and QUARANTINE. -/
theorem gate_served {k : OpInfo} (hs : w.sys.dev = .start → servedInStart op = true)
    (hq : w.sys.dev = .quarantine → servedInQuarantine op = true) : gate op k e w =
      firstBad [(k.sealedOnly && (sessionOf e w).isNone, .sealedWorld), (!k.states.contains w.sys.dev, .state)] := by
  have start : (w.sys.dev == .start && !servedInStart op) = false := by simpa using hs
  have quarantine : (w.sys.dev == .quarantine && !servedInQuarantine op) = false := by simpa using hq
  rw [gate, firstBad, start, firstBad, quarantine]
  rfl

/-- Settles O40: the gates are judged in the order in which `interpret` and `gate` list them. -/
theorem acceptedRequestsJudgedInOrder : Obligations.AcceptedRequestsJudgedInOrder := by
  refine ⟨?opcode, ?length, ?start, ?quarantine, ?world, ?state⟩
  case opcode =>
    intro i e op n s he ho h hk
    rw [(Brings.mk he ho).exec, receive_denied h (by rw [interpret, hk])]
  case length =>
    intro i e op n s k he ho h hk hl
    rw [(Brings.mk he ho).exec, receive_denied h (interpret_badLength hk hl)]
  case start =>
    intro i e op n s k he ho h hk hl hd hs
    rw [(Brings.mk he ho).exec, receive_denied h (interpret_gated hk hl (gate_start ((admitted_dev e n s).trans hd) hs))]
  case quarantine =>
    intro i e op n s k he ho h hk hl hd hs
    rw [(Brings.mk he ho).exec, receive_denied h (interpret_gated hk hl (gate_quarantine ((admitted_dev e n s).trans hd) hs))]
  case world =>
    intro i e op n s k he ho h hk hl hs hq hw hx
    rw [← admitted_dev e n s] at hs hq
    have refused : gate op k e (admitted e n s) = some .sealedWorld := by
      rw [gate_served hs hq, hw, hx]
      rfl
    rw [(Brings.mk he ho).exec, receive_denied h (interpret_gated hk hl refused)]
  case state =>
    intro i e op n s k he ho h hk hl hs hq hw hd
    rw [← admitted_dev e n s] at hs hq hd
    have world : (k.sealedOnly && (sessionOf e (admitted e n s)).isNone) = false := by
      rw [Bool.and_eq_false_imp]
      intro hk
      exact Option.isNone_eq_false_iff.2 (Option.isSome_iff_ne_none.2 (hw hk))
    have refused : gate op k e (admitted e n s) = some .state := by
      rw [gate_served hs hq, firstBad, world]
      simpa [firstBad] using hd
    rw [(Brings.mk he ho).exec, receive_denied h (interpret_gated hk hl refused)]

/-! ### Admission and the record of a request (R356, R357, R371) -/

/-- What SEQUENCE checking notes at the port, its notices apart. -/
theorem checkSeq_port (e : Env) (s : State) : ∃ ns nl lp, portOf (checkSeq e s) e.port =
    { portOf s e.port with
      lastSeq := some e.seq
      seqGap := (portOf s e.port).seqGap + b2n (match (portOf s e.port).lastSeq with
        | some l => e.seq != l + 1
        | none => false)
      notices := ns, noticesLost := nl, lostPm := lp } := by
  unfold checkSeq
  extract_lets q gap s1
  split
  · have h := (notice_noted .host 0x02 (portIx e.port).val [] s1).port e.port
    rw [portOf_modPort] at h
    exact ⟨_, _, _, h⟩
  · exact ⟨_, _, _, portOf_modPort ..⟩

/-- A gap is a SEQUENCE that does not follow the last one. -/
theorem b2n_gap (l : Option (BitVec 16)) (q : BitVec 16) :
    b2n (match l with
      | some x => q != x + 1
      | none => false) = if ∃ x, l = some x ∧ q ≠ x + 1 then 1 else 0 := by
  cases l with
  | none => simp [b2n]
  | some x => simp [b2n]

/-- What admission notes at the port, its notices and its session apart. -/
theorem admitted_port (e : Env) (n : Nat) (s : State) : ∃ x ns nl lp, portOf (admitted e n s) e.port =
    { portOf s e.port with
      credits := (portOf s e.port).credits - 1
      linkArmed := true, linkFrom := s.pm, linkLost := false
      noticeCredits := min 255 ((portOf s e.port).noticeCredits + e.grant.toNat)
      lastSeq := some e.seq
      seqGap := (portOf s e.port).seqGap + if ∃ l, (portOf s e.port).lastSeq = some l ∧ e.seq ≠ l + 1 then 1 else 0
      authFails := 0, session := x, notices := ns, noticesLost := nl, lostPm := lp } := by
  obtain ⟨ns, nl, lp, checked⟩ := checkSeq_port e (passTag e n (takeCredit e.port (validHeader e s)))
  obtain ⟨_, _, _, header⟩ := validHeader_port e s
  refine ⟨(portOf (passTag e n (takeCredit e.port (validHeader e s))) e.port).session, ns, nl, lp, checked.trans ?_⟩
  rw [b2n_gap, passTag, portOf_modPort, takeCredit, portOf_modPort, header]

/-- The envelope of a reply that is not chained. -/
def soleEnv : List OutEnv → Option OutEnv
  | [o] => some o
  | _ => none

/-- The record `answer` keeps of a request: its SEQUENCE and CRCs, its counter, and its reply, where this is one envelope. -/
def replayRecord (x : Option Session) (op : BitVec 16) (e : Env) (n : Nat) (a : Answer) : Replay :=
  { seq := e.seq, hdrCrc := e.hdrCrc, payCrc := e.payCrc, counter := n
    reply := soleEnv (replyEnvs x op e a (if op = 0x0003 then 8 else 1) (if op = 0x0003 then 0 else 1)) }

theorem answer_replay (x : Option Session) (op : BitVec 16) (e : Env) (n : Nat) (a : Answer) (s : State) :
    (portOf (answer x op e n a s) e.port).replay = (replayRecord x op e n a :: (portOf s e.port).replay).take 8 := by
  rw [answer, sendReply, portOf_modPort, portOf_modPort]
  cases x <;> rfl

/-- Settles O41. -/
theorem admissionAndRecordOfARequest : Obligations.AdmissionAndRecordOfARequest := by
  refine ⟨fun op e n s _ => ?admission, fun x op e n a s => ?record⟩
  case admission =>
    obtain ⟨_, _, _, _, port⟩ := admitted_port e n s
    rw [port]
    exact ⟨rfl, rfl, rfl, rfl, rfl, rfl, rfl, admitted_only e n s⟩
  case record => exact ⟨replayRecord x op e n a, answer_replay x op e n a s, rfl, rfl, rfl, rfl, answer_only x op e n a s⟩

end Sys2Proof.Machine
end

section
/-! PROOFS. Frames, transmissions, deadlines and recovery of a CAN controller (R325, R326, R328, R331 to R336). -/

namespace Sys2Proof.Machine

variable {s t : State} {x : Fin 3} {k : Fin 32} {f : CanFrame}

/-! ### The controllers of two states that differ by reports -/

theorem Noted.onCan (h : Noted s t) (g : CanSt → CanSt) : Noted (s.onCan g) (t.onCan g) := by
  refine ⟨⟨fun q hq => ?_⟩, h.sys, h.pd0, h.host, h.port⟩
  cases q with
  | can => exact congrArg g (h.same .can (by decide))
  | _ => exact h.only.same _ hq

theorem modCtl_congr (x : Fin 3) {g h : CanCtl → CanCtl} (s : State) (e : g s.can.ctl[x] = h s.can.ctl[x]) :
    modCtl x g s = modCtl x h s :=
  congrArg (fun v => s.onCan fun c => { c with ctl := v }) (vmod_congr _ x e)

theorem modSlot_congr (x : Fin 3) (k : Fin 32) {g h : Slot → Slot} (s : State)
    (e : g s.can.ctl[x].slots[k] = h s.can.ctl[x].slots[k]) : modSlot x k g s = modSlot x k h s :=
  modCtl_congr x s (congrArg (fun v => { s.can.ctl[x] with slots := v }) (vmod_congr _ k e))

/-! ### Frames received (R324, R325, R328) -/

/-- The controller takes the frame: it is on the bus, and FD_EN allows it. -/
def takesFrame (s : State) (x : Fin 3) (f : CanFrame) : Bool := onBus s x && (!f.fdf || fdEn s x)

theorem takesFrame_iff : takesFrame s x f = true ↔ onBus s x = true ∧ (f.fdf = false ∨ fdEn s x = true) := by
  simp [takesFrame]

/-- What filtering and storing make of a frame once the counters are noted. -/
def storeOrCount (x : Fin 3) (f : CanFrame) (s u : State) : State :=
  match holeFor s x f with
  | none => modCtl x (fun c => { c with unmatched := c.unmatched + 1 }) u
  | some k => if phReserved s x k then useReserved x k f (storeFrame x k f u) else storeFrame x k f u

/-- A good reception: REC goes down by 1, or from above 127 to a free value of 119 to 127. -/
def receivedCounters (x : Fin 3) (s : State) : State :=
  if 127 < s.can.ctl[x].rec_ then
    setCounters x s.can.ctl[x].tec (119 + Config.freeNat s.free % 9) { s with free := s.free + 1 }
  else setCounters x s.can.ctl[x].tec (s.can.ctl[x].rec_ - 1) s

/-- A frame of a controller that is not the tunnel's. -/
theorem exec_canFrameReceive (ht : tunCtl s ≠ some x) : exec (.canFrameReceive x f) s =
    .next (if takesFrame s x f then storeOrCount x f s (receivedCounters x s) else s) := by
  change execCanFrameReceive x f s = _
  refine (congrArg Host.Outcome.next (if_neg ht)).trans (congrArg Host.Outcome.next (if_congr Iff.rfl ?_ rfl))
  unfold storeOrCount receivedCounters
  by_cases h : 127 < s.can.ctl[x].rec_
  · simp only [h, decide_true, if_true] <;> rfl
  · simp only [h, decide_false, if_false, Bool.false_eq_true] <;> rfl

theorem storeOrCount_none {u : State} (h : holeFor s x f = none) :
    storeOrCount x f s u = modCtl x (fun c => { c with unmatched := c.unmatched + 1 }) u := by
  rw [storeOrCount, h]

theorem storeOrCount_open {u : State} {p : Nat} (h : holeFor s x f = some p) (hr : phReserved s x p = false) :
    storeOrCount x f s u = storeFrame x p f u := by
  rw [storeOrCount, h]
  exact if_neg (by simp [hr])

theorem storeOrCount_reserved {u : State} {p : Nat} (h : holeFor s x f = some p) (hr : phReserved s x p = true) :
    storeOrCount x f s u = useReserved x p f (storeFrame x p f u) := by
  rw [storeOrCount, h]
  exact if_pos hr

theorem receivedCounters_low (h : s.can.ctl[x].rec_ ≤ 127) :
    receivedCounters x s = setCounters x s.can.ctl[x].tec (s.can.ctl[x].rec_ - 1) s := if_neg (Nat.not_lt.2 h)

theorem receivedCounters_high (h : 127 < s.can.ctl[x].rec_) : ∃ v, 119 ≤ v ∧ v ≤ 127 ∧
    receivedCounters x s = setCounters x s.can.ctl[x].tec v { s with free := s.free + 1 } :=
  ⟨119 + Config.freeNat s.free % 9, by omega, by omega, if_pos h⟩

theorem canFrameReceive_takes (hb : onBus s x = true) (hf : f.fdf = false ∨ fdEn s x = true) (ht : tunCtl s ≠ some x) :
    exec (.canFrameReceive x f) s = .next (storeOrCount x f s (receivedCounters x s)) :=
  (exec_canFrameReceive ht).trans (congrArg Host.Outcome.next (if_pos (takesFrame_iff.2 ⟨hb, hf⟩)))

theorem canFrameReceive_passes (h : onBus s x = false ∨ f.fdf = true ∧ fdEn s x = false) (ht : tunCtl s ≠ some x) :
    exec (.canFrameReceive x f) s = .next s := by
  refine (exec_canFrameReceive ht).trans (congrArg Host.Outcome.next (if_neg fun hc => ?_))
  obtain ⟨hb, hf⟩ := takesFrame_iff.1 hc
  rcases h with h | ⟨h1, h2⟩
  · exact Bool.false_ne_true (h.symm.trans hb)
  · simp [h1, h2] at hf

/-! ### Transmissions (R331 to R334) -/

theorem canTxStart_sends (hb : onBus s x = true) (hl : listen s x = false) (ha : hasActive s x = none) (hw : winner s x = some k) :
    exec (.canTxStart x) s = .next (modSlot x k (fun l => { l with st := .active }) s) := by
  change execCanTxStart x s = _
  unfold execCanTxStart
  rw [if_pos ⟨hb, by simp [hl], by simp [ha]⟩, hw]

theorem canTxEnd_idle {r : TxResult} (h : hasActive s x = none) : exec (.canTxEnd x r) s = .next s := by
  change execCanTxEnd x r s = _
  rw [execCanTxEnd, h]

/-- The slot of a frame that was sent ends. -/
def sentSlot (x : Fin 3) (k : Fin 32) (sof eof : Tick) (d : Option Nat) (s : State) : State :=
  endSlot x k .sent eof
    (setCounters x (s.can.ctl[x].tec - 1) s.can.ctl[x].rec_ (takeTdc x k d (modSlot x k (fun l => { l with sofPm := sof }) s)))

theorem canTxEnd_sent {sof eof : Tick} {d : Option Nat} (h : hasActive s x = some k) (hs : selfRx s x = false) :
    exec (.canTxEnd x (.sent sof eof d)) s = .next (sentSlot x k sof eof d s) := by
  change execCanTxEnd x (.sent sof eof d) s = _
  rw [execCanTxEnd, h]
  exact if_neg (by simp [hs])

/-- Under SELF_RX the frame comes back to its pigeonhole, where it has one. -/
theorem canTxEnd_sentSelf {sof eof : Tick} {d : Option Nat} (h : hasActive s x = some k) (hs : selfRx s x = true) :
    exec (.canTxEnd x (.sent sof eof d)) s = .next
      ((holeFor s x (frameOf s.can.ctl[x].slots[k].desc.toNat sof)).elim (sentSlot x k sof eof d s) fun p =>
        storeFrame x p (frameOf s.can.ctl[x].slots[k].desc.toNat sof) (sentSlot x k sof eof d s)) := by
  change execCanTxEnd x (.sent sof eof d) s = _
  simp only [execCanTxEnd, h, hs, if_true]
  cases holeFor s x (frameOf s.can.ctl[x].slots[k].desc.toNat sof) <;> rfl

theorem canTxEnd_arbLost (h : hasActive s x = some k) : exec (.canTxEnd x .arbLost) s = .next (retrySlot x k s) := by
  change execCanTxEnd x .arbLost s = _
  rw [execCanTxEnd, h]

/-- A measured transmitter delay changes no slot. -/
theorem takeTdc_slot (x : Fin 3) (k j : Fin 32) (d : Option Nat) (s : State) :
    (takeTdc x k d s).can.ctl[x].slots[j] = s.can.ctl[x].slots[j] := by
  cases d with
  | none => rfl
  | some v =>
    have kept (b : Bool) : (modCtl x (fun c => { c with tdcv := min v 127, tdcSat := b }) s).can.ctl[x].slots[j] = s.can.ctl[x].slots[j] := by
      rw [modCtl_ctl]
    have noted (u : State) : (canNote x 0x06 0 [] u).can.ctl[x].slots[j] = u.can.ctl[x].slots[j] :=
      congrArg (fun c : CanSt => c.ctl[x].slots[j]) ((canNote_only ..).same .can (by decide))
    simp only [takeTdc]
    split
    · split
      · exact (noted _).trans (kept _)
      · exact kept _
    · rfl

/-- An attempt that ends in an error that is not the second in the data: counted. -/
theorem canTxEnd_error {sof up : Nat} {data : Bool} {d : Option Nat} (h : hasActive s x = some k)
    (hd : data = false ∨ s.can.ctl[x].slots[k].dataErrs ≠ 1) : exec (.canTxEnd x (.error sof data up d)) s =
      .next (retrySlot x k (setCounters x (s.can.ctl[x].tec + up) s.can.ctl[x].rec_
        (modSlot x k (fun l => { l with sofPm := sof, errors := l.errors + 1, dataErrs := l.dataErrs + b2n data }) (takeTdc x k d s)))) := by
  have miss : (data && s.can.ctl[x].slots[k].dataErrs + b2n data == 2) = false := by
    rcases hd with rfl | hd
    · rfl
    · cases data with
      | false => rfl
      | true => simpa [b2n] using hd
  change execCanTxEnd x (.error sof data up d) s = _
  simp only [execCanTxEnd, h, miss, Bool.false_eq_true, if_false, Bool.or_false]
  refine congrArg (fun u => Host.Outcome.next (retrySlot x k (setCounters x _ _ u))) (modSlot_congr x k _ ?_)
  rw [takeTdc_slot]

/-- The second error in the data of a frame: an identifier collision (R334). -/
theorem canTxEnd_collides {sof up : Nat} {d : Option Nat} (h : hasActive s x = some k) (hd : s.can.ctl[x].slots[k].dataErrs = 1) :
    exec (.canTxEnd x (.error sof true up d)) s =
      .next (retrySlot x k (setCounters x (s.can.ctl[x].tec + up) s.can.ctl[x].rec_
        (canNote x 0x05 k.val (leBytes 4 (slotId s.can.ctl[x].slots[k].desc.toNat))
          (modSlot x k (fun l => { l with sofPm := sof, errors := l.errors + 1, dataErrs := 2, collision := true, collAt := l.errors + 1 })
            (takeTdc x k d s))))) := by
  change execCanTxEnd x (.error sof true up d) s = _
  simp only [execCanTxEnd, h, hd, b2n, Bool.true_and, if_true, Nat.reduceAdd, BEq.rfl, Bool.or_true]

/-! ### Bus-off and the way back (R325, R336) -/

/-- The controller recovered: active, its counters 0. -/
def recovered (x : Fin 3) (s : State) : State := modCtl x (fun c => { c with st := .active, tec := 0, rec_ := 0 }) s

/-- With its two notices. -/
def recoveryNotes (x : Fin 3) (s : State) : State :=
  canNote x 0x04 0 (counterBody (recovered x s).can.ctl[x]) (canNote x 0x03 0 (counterBody (recovered x s).can.ctl[x]) (recovered x s))

theorem recoveryNotes_noted (x : Fin 3) (s : State) : Noted (recovered x s) (recoveryNotes x s) :=
  (canNote_noted ..).trans (canNote_noted ..)

theorem recoveryNotes_only (x : Fin 3) (s : State) : Only [.sys, .host] (recovered x s) (recoveryNotes x s) :=
  (canNote_only ..).andThen (canNote_only ..) (by decide)

theorem busoffRecoveryComplete_other (hr : s.can.ctl[x].st = .recovering) (hc : canRuns s = true)
    (ht : s.can.ctl[x].busOffAt + 1408 * bitTicks s x ≤ s.pm) (hx : x ≠ 1) :
    ∃ t, exec (.busoffRecoveryComplete x) s = .next t ∧ Noted (recovered x s) t ∧ Ended 0x1D x.val s t := by
  refine ⟨endFault 0x1D x.val (recoveryNotes x s), ?_, (recoveryNotes_noted x s).trans (endFault_noted ..), ?_⟩
  · refine (if_pos ⟨hr, hc, ht⟩).trans ?_
    simp only [hx, if_false]
    rfl
  · have pd0 : (recoveryNotes x s).pd0 = s.pd0 := (recoveryNotes_only x s).same .pd0 (by decide)
    exact (endFault_ended ..).of_eq (by rw [pd0]) ((recoveryNotes_only x s).same .pm (by decide))

theorem busoffRecoveryComplete_row (hr : s.can.ctl[(1 : Fin 3)].st = .recovering) (hc : canRuns s = true)
    (ht : s.can.ctl[(1 : Fin 3)].busOffAt + 1408 * bitTicks s 1 ≤ s.pm) :
    ∃ t, exec (.busoffRecoveryComplete 1) s = .next t ∧ Noted ((recovered 1 s).onCan fun v => { v with graceFrom := none }) t :=
  ⟨_, if_pos ⟨hr, hc, ht⟩,
    ((recoveryNotes_noted 1 s).onCan _).trans ((endFault_noted 0x1C 1 _).trans (endFault_noted 0x1D 1 _))⟩

/-- A controller back on the bus: as its counters say, or recovering from bus-off under BUSOFF_AUTO. -/
def rejoined (x : Fin 3) (s : State) (c : CanCtl) : CanCtl :=
  if confine c.tec c.rec_ = .busOff ∧ busoffAuto s x then { c with st := .recovering, busOffAt := s.pm }
  else { c with st := confine c.tec c.rec_ }

theorem busRejoin_rejoins (hc : canRuns s = true) (he : canEnable s x = true) (ho : s.can.ctl[x].st = .offBus) :
    ∃ t, exec (.busRejoin x) s = .next t ∧ Noted (modCtl x (rejoined x s) s) t :=
  ⟨_, if_pos ⟨hc, he, ho⟩, canNote_noted ..⟩

theorem modCtl_rejoined_confined (h : confine s.can.ctl[x].tec s.can.ctl[x].rec_ ≠ .busOff ∨ busoffAuto s x = false) :
    modCtl x (rejoined x s) s = modCtl x (fun c => { c with st := confine c.tec c.rec_ }) s :=
  modCtl_congr x s (if_neg fun ⟨hb, ha⟩ => h.elim (fun h => h hb) fun h => Bool.false_ne_true (h.symm.trans ha))

theorem modCtl_rejoined_recovers (hb : confine s.can.ctl[x].tec s.can.ctl[x].rec_ = .busOff) (ha : busoffAuto s x = true) :
    modCtl x (rejoined x s) s = modCtl x (fun c => { c with st := .recovering, busOffAt := s.pm }) s :=
  modCtl_congr x s (if_pos ⟨hb, ha⟩)

/-- Settles O28, row by row. -/
theorem canEventsExecute : Obligations.CanEventsExecute := by
  refine ⟨?unmatched, ?stored, ?unmatchedHigh, ?storedHigh, ?reserved, ?passed, ?txStart, ?txEndIdle, ?sent, ?sentSelf, ?arbLost, ?error,
    ?collision, ?deadline, ?recovery, ?recoveryRow, ?rejoin, ?rejoinRecovers, ?receiveError⟩
  case unmatched =>
    intro x f s hb hf ht hr hh
    rw [canFrameReceive_takes hb hf ht, storeOrCount_none hh, receivedCounters_low hr]
  case stored =>
    intro x f k s hb hf ht hr hh hp
    rw [canFrameReceive_takes hb hf ht, storeOrCount_open hh hp, receivedCounters_low hr]
  case unmatchedHigh =>
    intro x f s hb hf ht hr hh
    obtain ⟨v, h119, h127, hv⟩ := receivedCounters_high hr
    exact ⟨_, canFrameReceive_takes hb hf ht, v, h119, h127, by rw [storeOrCount_none hh, hv]⟩
  case storedHigh =>
    intro x f k s hb hf ht hr hh hp
    obtain ⟨v, h119, h127, hv⟩ := receivedCounters_high hr
    exact ⟨_, canFrameReceive_takes hb hf ht, v, h119, h127, by rw [storeOrCount_open hh hp, hv]⟩
  case reserved =>
    intro f k x s hb hf ht hr hh hp
    rw [canFrameReceive_takes hb hf ht, storeOrCount_reserved hh hp, receivedCounters_low hr]
  case passed => exact fun x f s h ht => canFrameReceive_passes h ht
  case txStart => exact fun x k s hb hl ha hw => canTxStart_sends hb hl ha hw
  case txEndIdle => exact fun x r s h => canTxEnd_idle h
  case sent => exact fun x k sof eof d s h hs => canTxEnd_sent h hs
  case sentSelf =>
    intro x k sof eof d s h hs
    refine ⟨_, canTxEnd_sentSelf h hs, _, rfl, fun hh => ?_, fun p hh => ?_⟩
    · rw [hh]
      rfl
    · rw [hh]
      rfl
  case arbLost => exact fun x k s h => canTxEnd_arbLost h
  case error => exact fun x k sof up data d s h hd => canTxEnd_error h hd
  case collision => exact fun x k sof up d s h hd => canTxEnd_collides h hd
  case deadline => exact fun x k s hp h0 ht => if_pos ⟨hp, h0, ht⟩
  case recovery => exact fun x s hr hc ht hx => busoffRecoveryComplete_other hr hc ht hx
  case recoveryRow => exact fun s hr hc ht => busoffRecoveryComplete_row hr hc ht
  case rejoin =>
    intro x s hc he ho hb
    rw [← modCtl_rejoined_confined hb]
    exact busRejoin_rejoins hc he ho
  case rejoinRecovers =>
    intro x s hc he ho hb ha
    rw [← modCtl_rejoined_recovers hb ha]
    exact busRejoin_rejoins hc he ho
  case receiveError => exact fun x n s hb => if_pos hb

end Sys2Proof.Machine
end

section
/-! PROOFS. The machine bus and the section bus: claim, SYNC, ALL_OFF, reports and lost nodes (R337, R340, R344, R346). -/

namespace Sys2Proof.Machine

variable {s : State}

/-! ### Address claim (R337) -/

theorem addressClaim_sends (hi : isoEn s = true) (hc : canRuns s = true) (hd : s.sys.dev ≠ .quarantine)
    (ha : s.can.ctl[(0 : Fin 3)].st = .active) (hn : s.can.claimed = false) : exec .addressClaim s =
      .next (sendClaim (s.onCan fun v => { v with claimed := true, cand := (s.impl.active.map fun i => bits i.mach.toNat 200 8).getD 0x80 })) := by
  refine (if_pos ⟨hi, hc, hd, ha, by simp [hn]⟩).trans ?_
  cases s.impl.active <;> rfl

theorem addressClaimTimer_uses {t0 : Tick} (h0 : s.can.claimAt = some t0) (ht : t0 + 20000000 ≤ s.pm) :
    ∃ t, exec .addressClaimTimer s = .next t ∧ Noted (s.onCan fun v => { v with addr := v.cand, claimAt := none }) t := by
  refine ⟨_, ?_, addressNote_noted s.can.addr _⟩
  change execAddressClaimTimer s = _
  rw [execAddressClaimTimer, h0]
  exact if_pos ht

theorem addressClaimTimer_idle (h : ∀ t0, s.can.claimAt = some t0 → s.pm < t0 + 20000000) : exec .addressClaimTimer s = .next s := by
  change execAddressClaimTimer s = _
  rw [execAddressClaimTimer]
  cases h0 : s.can.claimAt with
  | none => rfl
  | some t0 => exact if_neg (Nat.not_le.2 (h t0 h0))

/-! ### SYNC and ALL_OFF (R340, R344) -/

theorem sync_sends (hr : rowRuns s = true) (hd : s.can.syncAt < s.pm / syncInterval s * syncInterval s)
    (hf : s.can.ctl[(1 : Fin 3)].slots[(31 : Fin 32)].st = .free) : exec .sync s = .next
      (loadSlot 1 31 .row (descOf (rowBase s) false true (brsEn s 1) 1 3 0 (leBytes 1 (s.can.syncSeq + 1).toNat))
        (s.onCan fun v => { v with syncAt := s.pm / syncInterval s * syncInterval s, syncSeq := v.syncSeq + 1 })) :=
  (if_pos ⟨hr, hd⟩).trans (if_pos hf)

theorem sync_skips (hr : rowRuns s = true) (hd : s.can.syncAt < s.pm / syncInterval s * syncInterval s)
    (hf : s.can.ctl[(1 : Fin 3)].slots[(31 : Fin 32)].st ≠ .free) :
    exec .sync s = .next (s.onCan fun v => { v with syncAt := s.pm / syncInterval s * syncInterval s }) :=
  (if_pos ⟨hr, hd⟩).trans (if_neg hf)

theorem allOffRepeat_sends (hd : s.sys.dev = .standby ∨ s.sys.dev = .safe) (hr : rowRuns s = true)
    (ht : ∀ t0, s.can.allOffAt = some t0 → t0 + 8000000 ≤ s.pm) : exec .allOffRepeat s = .next
      (sendAllOff (s.onCan fun v => { v with
        allOffAt := some s.pm, allOffWait := v.allOffWait ++ (List.range 32).filter fun n => !v.allOffWait.contains n })) := by
  change execAllOffRepeat s = _
  have starts : startAllOff s = _ := if_pos hr
  rw [execAllOffRepeat, if_pos ⟨hd, hr⟩, ← starts]
  cases h0 : s.can.allOffAt with
  | none => rfl
  | some t0 => exact if_pos (ht t0 h0)

/-! ### A node that reports no more (R346) -/

/-- A context of a node that is lost: off, and its run ends at `t`. -/
def loseCtx (t : Tick) (u : State) (k : Fin 160) : State :=
  u.onFe fun f => { f with
    ctx := vmod f.ctx k fun x => { x with sched := false }
    remote := if f.ctx[k].runFrom.isSome then f.remote ++ [{ pm := t, ctx := k.val, closing := true, held := true }] else f.remote }

/-- The record of its end. -/
def lostEnd (t : Tick) (k : Fin 160) : Firing := { pm := t, ctx := k.val, closing := true, held := true }

theorem loseCtx_can (t : Tick) (u : State) (k : Fin 160) : (loseCtx t u k).can = u.can := rfl

theorem loseCtx_sched (t : Tick) (u : State) (k : Fin 160) : (loseCtx t u k).fe.ctx[k].sched = false :=
  congrArg (fun c => c.sched) (vmod_get u.fe.ctx k fun x => { x with sched := false })

/-- It turns no context on. -/
theorem loseCtx_sched_of (t : Tick) {u : State} (k : Fin 160) {j : Fin 160} (h : u.fe.ctx[j].sched = false) :
    (loseCtx t u k).fe.ctx[j].sched = false := by
  by_cases hj : j = k
  · rw [hj, loseCtx_sched]
  · exact (congrArg (fun c => c.sched) (vmod_get_of_ne u.fe.ctx _ hj)).trans h

theorem loseCtx_runFrom (t : Tick) (u : State) (k j : Fin 160) : (loseCtx t u k).fe.ctx[j].runFrom = u.fe.ctx[j].runFrom := by
  by_cases hj : j = k
  · rw [hj]
    exact congrArg (fun c => c.runFrom) (vmod_get u.fe.ctx k fun x => { x with sched := false })
  · exact congrArg (fun c => c.runFrom) (vmod_get_of_ne u.fe.ctx _ hj)

theorem mem_remote_loseCtx (t : Tick) {u : State} (k : Fin 160) {f : Firing} (h : f ∈ u.fe.remote) : f ∈ (loseCtx t u k).fe.remote := by
  change f ∈ if u.fe.ctx[k].runFrom.isSome then u.fe.remote ++ [_] else u.fe.remote
  split
  · exact List.mem_append_left _ h
  · exact h

theorem lostEnd_mem_remote_loseCtx (t : Tick) {u : State} {k : Fin 160} (h : u.fe.ctx[k].runFrom.isSome = true) :
    lostEnd t k ∈ (loseCtx t u k).fe.remote := by
  change _ ∈ if u.fe.ctx[k].runFrom.isSome then u.fe.remote ++ [_] else u.fe.remote
  rw [if_pos h]
  exact List.mem_append_right _ List.mem_cons_self

theorem foldl_loseCtx_can (t : Tick) (ks : List (Fin 160)) (u : State) : (ks.foldl (loseCtx t) u).can = u.can := by
  induction ks generalizing u with
  | nil => rfl
  | cons k ks ih => exact ih _

theorem foldl_loseCtx_keeps (t : Tick) (ks : List (Fin 160)) {u : State} :
    (∀ j : Fin 160, u.fe.ctx[j].sched = false → (ks.foldl (loseCtx t) u).fe.ctx[j].sched = false) ∧
    ∀ f ∈ u.fe.remote, f ∈ (ks.foldl (loseCtx t) u).fe.remote := by
  induction ks generalizing u with
  | nil => exact ⟨fun _ h => h, fun _ h => h⟩
  | cons k ks ih => exact ⟨fun j h => ih.1 j (loseCtx_sched_of t k h), fun f h => ih.2 f (mem_remote_loseCtx t k h)⟩

/-- Every context of the list is off, and a run of it has its end. -/
theorem foldl_loseCtx_lost (t : Tick) {ks : List (Fin 160)} {u : State} {k : Fin 160} (h : k ∈ ks) :
    (ks.foldl (loseCtx t) u).fe.ctx[k].sched = false ∧
    (u.fe.ctx[k].runFrom.isSome = true → lostEnd t k ∈ (ks.foldl (loseCtx t) u).fe.remote) := by
  induction ks generalizing u with
  | nil => cases h
  | cons j ks ih =>
    by_cases hj : k = j
    · subst hj
      exact ⟨(foldl_loseCtx_keeps t ks).1 k (loseCtx_sched t u k),
        fun hr => (foldl_loseCtx_keeps t ks).2 _ (lostEnd_mem_remote_loseCtx t hr)⟩
    · have rest := ih (u := loseCtx t u j) ((List.mem_cons.1 h).resolve_left hj)
      rwa [loseCtx_runFrom] at rest

theorem modNode_node (n : Fin 32) (f : Node → Node) (s : State) : (modNode n f s).can.node[n] = f s.can.node[n] := vmod_get ..

/-- A node noted as lost, and reported. -/
def loseNode (n : Fin 32) (u : State) : State := canNote 1 0x09 n.val [] (modNode n (fun m => { m with lost := true, rowOn := 0 }) u)

theorem loseNode_node (n : Fin 32) (u : State) : (loseNode n u).can.node[n] = { u.can.node[n] with lost := true, rowOn := 0 } := by
  have noted : (loseNode n u).can = (modNode n (fun m => { m with lost := true, rowOn := 0 }) u).can :=
    (canNote_only ..).same .can (by decide)
  exact (congrArg (fun c : CanSt => c.node[n]) noted).trans (modNode_node ..)

theorem loseNode_fe (n : Fin 32) (u : State) : (loseNode n u).fe = u.fe :=
  (((Only.refl [.sys, .host, .can] u).andThen (modNode_only ..) (by decide)).andThen (canNote_only ..) (by decide)).same .fe (by decide)

theorem nodeCtxs_takeReport (n m : Fin 32) (s : State) : nodeCtxs (takeReport n s) m = nodeCtxs s m := by
  have impl : (takeReport n s).impl = s.impl := (takeReport_only n s).same .impl (by decide)
  simp only [nodeCtxs, impl]

/-- ROW_NODE_LOST once its report in the pigeonhole has been read. -/
theorem rowNodeLost_loses {n : Fin 32} {u : State} (hr : rowRuns s = true) (hu : u = takeReport n s) (hs : u.can.node[n].seen = true)
    (hl : u.can.node[n].lost = false) (ht : u.can.node[n].lastReport + rowTimeout s ≤ s.pm) : exec (.rowNodeLost n) s =
      .next ((nodeCtxs s n).foldl (loseCtx (u.can.node[n].lastReport + rowTimeout s)) (loseNode n u)) := by
  subst hu
  change execRowNodeLost n s = _
  unfold execRowNodeLost
  rw [if_pos hr]
  refine (if_pos ⟨(rowRuns_takeReport n s).trans hr, hs, by simpa using hl, by rwa [rowTimeout_takeReport, pm_takeReport]⟩).trans ?_
  rw [nodeCtxs_takeReport, rowTimeout_takeReport]
  rfl

/-- Settles O29, row by row. -/
theorem networkEventsExecute : Obligations.NetworkEventsExecute := by
  refine ⟨?claim, ?claimTimer, ?claimTimerIdle, ?sync, ?syncSkips, ?allOff, ?reportWait, ?nodeLost⟩
  case claim => exact fun s hi hc hd ha hn => addressClaim_sends hi hc hd ha hn
  case claimTimer => exact fun t0 s h0 ht => addressClaimTimer_uses h0 ht
  case claimTimerIdle => exact fun s h => addressClaimTimer_idle h
  case sync => exact fun s hr hd hf => sync_sends hr hd hf
  case syncSkips => exact fun s hr hd hf => sync_skips hr hd hf
  case allOff => exact fun s hd hr ht => allOffRepeat_sends hd hr ht
  case reportWait => exact fun s hr he => if_pos ⟨hr, he⟩
  case nodeLost =>
    intro n u s hr hu hs hl ht
    refine ⟨_, rowNodeLost_loses hr hu hs hl ht, ?_⟩
    rw [foldl_loseCtx_can, loseNode_node]
    refine ⟨rfl, rfl, rfl, fun k hk => ?_⟩
    have lost := foldl_loseCtx_lost (u.can.node[n].lastReport + rowTimeout s) (u := loseNode n u) hk
    rwa [loseNode_fe] at lost

end Sys2Proof.Machine
end

section
/-! PROOFS. A sample that trips a bank feed on its way to the thermal shutdown (R222, R310, R311, R318). -/

namespace Sys2Proof.Machine

/-- A device in STANDBY, its zones with one sample each at SHUTDOWN, that one isolated bank takes to SAFE (BANK_ISOL_LIMIT 1). -/
def lastBankHot : State :=
  { State.reset with
    sys := { dev := .standby }, pwr := { domains := 0xFFF }, ths := { zone := Vector.replicate 10 { hotRun := 1 } }
    act := State.reset.act.setImage .safe (setBits (State.reset.act.image .safe) 64 4 1) }

/-- 180 °C at a feed sensor of the first valve die. -/
def feedSample : State := sensorSample 1 16 1800 lastBankHot

theorem exec_shutdown_lastBankHot : exec (.shutdown 1 16 1800) lastBankHot = .next feedSample := by
  change execShutdown 1 16 1800 lastBankHot = _
  unfold execShutdown
  exact if_pos (by decide +kernel)

/-- The feed trips at T_TRIP, which leads to SAFE; the zone's value then leads to LATCHED, from there. -/
theorem feedSample_prev : feedSample.sys.prev = .safe := by decide +kernel

/-- Refutes O27: the sample of a feed sensor trips its feed (R310), and where the isolated banks reach BANK_ISOL_LIMIT this leads to
SAFE (R222) before the sample's zone leads to LATCHED (R318), so that LATCHED is entered from SAFE and not from the state before. -/
theorem not_thermalEventsExecute : ¬ Obligations.ThermalEventsExecute := by
  rintro ⟨-, -, -, -, -, -, -, -, -, latches⟩
  obtain ⟨t, ht, ⟨-, prev, -⟩, -⟩ := latches 1 16 1800 (16, 1800) lastBankHot (by decide +kernel) (by decide) (by decide +kernel)
    (by decide +kernel) (by decide) (by decide)
  have same : t = feedSample := Host.Outcome.next.inj (ht.symm.trans exec_shutdown_lastBankHot)
  rw [same] at prev
  exact absurd (feedSample_prev.symm.trans prev) (by decide)

end Sys2Proof.Machine
end

section
/-! PROOFS. Samples of a load switch's sensor, and what outlives them (R298, R302, R307, R310 to R312, R318). -/

namespace Sys2Proof.Machine

variable {s t u : State} {c : Fin 16}

theorem modLsw_ls (c : Fin 16) (f : Lsw → Lsw) (s : State) : (modLsw c f s).lsw.ls[c] = f s.lsw.ls[c] := vmod_get ..

theorem modLsw_congr (c : Fin 16) {f g : Lsw → Lsw} (s : State) (h : f s.lsw.ls[c] = g s.lsw.ls[c]) : modLsw c f s = modLsw c g s :=
  congrArg (fun v => s.onLsw fun l => { l with ls := v }) (vmod_congr _ c h)

theorem modLsw_modLsw (c : Fin 16) (f g : Lsw → Lsw) (s : State) : modLsw c g (modLsw c f s) = modLsw c (fun l => g (f l)) s :=
  congrArg (fun v => s.onLsw fun l => { l with ls := v }) (vmod_vmod ..)

/-! ### A reading and a thermal trip outlive what follows them -/

/-- A switch keeps its reading, its THERM_LATCH and OVERTEMP, and stays latched where it is. -/
structure Lsw.TripKept (l m : Lsw) : Prop where
  temp : m.temp = l.temp
  thermLatch : m.thermLatch = l.thermLatch
  overtemp : m.overtemp = l.overtemp
  latched : l.st = .latched → m.st = .latched

theorem Lsw.TripKept.refl (l : Lsw) : l.TripKept l := ⟨rfl, rfl, rfl, id⟩

theorem Lsw.TripKept.trans {l m n : Lsw} (h : l.TripKept m) (k : m.TripKept n) : l.TripKept n :=
  ⟨k.temp.trans h.temp, k.thermLatch.trans h.thermLatch, k.overtemp.trans h.overtemp, fun x => k.latched (h.latched x)⟩

/-- So does every switch. -/
def TripsKept (s t : State) : Prop := ∀ d : Fin 16, s.lsw.ls[d].TripKept t.lsw.ls[d]

theorem TripsKept.refl (s : State) : TripsKept s s := fun _ => .refl _

theorem TripsKept.trans (h : TripsKept s t) (k : TripsKept t u) : TripsKept s u := fun d => (h d).trans (k d)

theorem TripsKept.of_lsw (h : t.lsw = s.lsw) : TripsKept s t := fun d => by
  rw [h]
  exact .refl _

/-- What does not touch the load switches keeps every trip. -/
theorem TripsKept.ofOnly {l : List Part} (h : Only l s t) (hl : .lsw ∉ l) : TripsKept s t := .of_lsw (h.same .lsw hl)

theorem TripsKept.foldl {α : Type} {f : State → α → State} (h : ∀ s a, TripsKept s (f s a)) (l : List α) (s : State) :
    TripsKept s (l.foldl f s) := by
  induction l generalizing s with
  | nil => exact .refl s
  | cons a l ih => exact (h s a).trans (ih _)

theorem tripsKept_modLsw {f : Lsw → Lsw} (h : s.lsw.ls[c].TripKept (f s.lsw.ls[c])) : TripsKept s (modLsw c f s) := by
  intro d
  by_cases hd : d = c
  · rw [hd, modLsw_ls]
    exact h
  · have other : (modLsw c f s).lsw.ls[d] = s.lsw.ls[d] := vmod_get_of_ne _ _ hd
    rw [other]
    exact .refl _

theorem tripsKept_lswTurnOn {now : Tick} (h : s.lsw.ls[c].st ≠ .latched) : TripsKept s (lswTurnOn c now s) :=
  tripsKept_modLsw ⟨rfl, rfl, rfl, fun x => absurd x h⟩

theorem tripsKept_lswTurnOff : TripsKept s (lswTurnOff c s) := tripsKept_modLsw ⟨rfl, rfl, rfl, fun x => if_pos x⟩

theorem tripsKept_noteShed : TripsKept s (noteShed c s) := by
  unfold noteShed
  extract_lets on
  have scaled : TripsKept s (modLsw c (fun l => { l with scaled := on }) s) := tripsKept_modLsw ⟨rfl, rfl, rfl, id⟩
  split
  · exact .refl s
  · split
    · exact scaled.trans (.ofOnly (notice_only ..) (by decide))
    · exact scaled

theorem tripsKept_noteCoast : TripsKept s (noteCoast c s) := by
  unfold noteCoast
  extract_lets out
  split
  · exact tripsKept_modLsw ⟨rfl, rfl, rfl, id⟩
  · exact .refl s

theorem tripsKept_lswSync : TripsKept s (lswSync c s) := by
  have noted : TripsKept s (noteCoast c (noteShed c s)) := tripsKept_noteShed.trans tripsKept_noteCoast
  refine noted.trans ?_
  simp only [lswSync]
  generalize noteCoast c (noteShed c s) = w
  have stops : TripsKept w (modLsw c (fun l => { l with pulsing := false, closeAt := none }) w) := tripsKept_modLsw ⟨rfl, rfl, rfl, id⟩
  have stopped : (modLsw c (fun l => { l with pulsing := false, closeAt := none }) w).lsw.ls[c].st = w.lsw.ls[c].st := by rw [modLsw_ls]
  split
  · exact stops
  · next hl =>
    split
    · exact tripsKept_lswTurnOff.trans (tripsKept_modLsw ⟨rfl, rfl, rfl, id⟩)
    · split
      · split
        · exact .refl w
        · exact tripsKept_modLsw ⟨rfl, rfl, rfl, id⟩
      · split
        · split
          · exact stops
          · split
            · exact stops.trans (tripsKept_lswTurnOn (stopped.trans_ne hl))
            · exact stops.trans (tripsKept_modLsw ⟨rfl, rfl, rfl, fun x => absurd (stopped.symm.trans x) hl⟩)
        · split
          · exact tripsKept_lswTurnOn hl
          · exact .refl w

theorem tripsKept_lswSyncAll : TripsKept s (lswSyncAll s) := .foldl (fun _ _ => tripsKept_lswSync) _ s

theorem tripsKept_throttleAll : TripsKept s (throttleAll s) := by
  unfold throttleAll
  extract_lets shed s1 s2
  have scaled : TripsKept s (s2.onThs fun v =>
      { v with acqShare := acqShareOf (logicR s), pairMhz := if s.restarting .pair then 400 else pairMhzOf (logicR s) }) :=
    .ofOnly (l := [.vdr, .pwu, .ths])
      ((((Only.refl _ s).andThen (State.onVdr_only ..) (by decide)).andThen (State.onPwu_only ..) (by decide)).andThen
        (State.onThs_only ..) (by decide)) (by decide)
  exact scaled.trans tripsKept_lswSyncAll

/-- The zone's flags and consumers. -/
theorem tripsKept_zoneSample (z : Fin 10) (s : State) : TripsKept s (zoneSample z s) := by
  unfold zoneSample
  split
  · exact .refl s
  · extract_lets x s1
    have noted : TripsKept s (sampleNotes z x s1.ths.zone[z] s1) :=
      .ofOnly (l := [.sys, .host, .ths])
        (((Only.refl _ s).andThen (modZone_only ..) (by decide)).andThen (sampleNotes_only ..) (by decide)) (by decide)
    exact noted.trans tripsKept_throttleAll

theorem vmap_get {α β : Type} {n : Nat} (v : Vector α n) (f : α → β) (i : Fin n) : (vmap v f)[i] = f v[i] := Vector.getElem_ofFn ..

theorem tripsKept_cancelEdges : TripsKept s (cancelEdges s) := by
  have dropped : TripsKept s ((s.onSys fun y => { y with edgeQ := [] }).onLsw fun v =>
      { v with ls := vmap v.ls fun l => { l with resumeWait := false } }) := by
    intro d
    simp only [State.onLsw_lsw, State.onSys_lsw]
    rw [vmap_get]
    exact ⟨rfl, rfl, rfl, id⟩
  unfold cancelEdges
  exact dropped.trans (.foldl (fun w r => .ofOnly (noticeNow_only ..) (by decide)) _ _)

/-- To LATCHED every output goes off; a switch that a trip latched stays latched by it. -/
theorem tripsKept_enterLatched : TripsKept s (enterLatched s) := by
  unfold enterLatched
  extract_lets w s1 s2 s3
  have toEdges : TripsKept s (cancelActivation (endRunsNow w.pm w)) :=
    .ofOnly (l := [.sys, .pd0, .host, .time, .fe, .map, .sec])
      ((((Only.refl _ s).andThen (ppsInactive_only s) (by decide)).andThen (endRunsNow_only ..) (by decide)).andThen
        (cancelActivation_only _) (by decide)) (by decide)
  have cut : TripsKept s1 s2 :=
    .ofOnly (l := [.sys, .pd0, .host, .safe, .fe, .map, .vdr, .pwu])
      ((((((Only.refl _ s1).andThen (valvesOff_only ..) (by decide)).andThen (valvesCut_only ..) (by decide)).andThen
        (gatesOff_only _) (by decide)).andThen (trigsOff_only _) (by decide)).andThen (changeState_only ..) (by decide)) (by decide)
  have sealed : TripsKept s2 s3 :=
    .ofOnly (l := [.sys, .pd0, .host, .map]) (Only.ite (Only.refl _ s2) ((Only.refl _ s2).andThen (sealBlock_only _) (by decide))) (by decide)
  have off : TripsKept s3 (canOff (endHolds (s3.onVdr fun v => { v with conv := { v.conv with on := false } }))) :=
    .ofOnly (l := [.sys, .pd0, .host, .vdr, .can])
      ((((Only.refl _ s3).andThen (State.onVdr_only ..) (by decide)).andThen (endHolds_only _) (by decide)).andThen
        (canOff_only _) (by decide)) (by decide)
  exact ((toEdges.trans tripsKept_cancelEdges).trans (cut.trans sealed)).trans (off.trans tripsKept_lswSyncAll)

theorem tripsKept_shutDown (z : Fin 10) (s : State) : TripsKept s (shutDown z s) := by
  unfold shutDown
  extract_lets x r
  split
  · have logged : TripsKept s (logFault 0x04 .ths z.val reactLatched 0 0x05 (s.onPd0 fun d => { d with latch := some r })) :=
      .ofOnly (l := [.sys, .pd0, .host])
        (((Only.refl _ s).andThen (State.onPd0_only ..) (by decide)).andThen (logFault_only ..) (by decide)) (by decide)
    exact logged.trans tripsKept_enterLatched
  · exact .refl s

/-! ### Trips (R298) -/

/-- A switch latched off, its condition `f` flagged. -/
def trippedLsw (c : Fin 16) (f : Lsw → Lsw) (s : State) : State :=
  modLsw c (fun l => f { l with st := .latched, tripAt := lswNow s, pulsing := false, closeAt := none, scaled := false }) s

theorem lswTrip_noted (c : Fin 16) (code : Nat) (f : Lsw → Lsw) (s : State) :
    Noted (noteCoast c (endHold c (trippedLsw c f s))) (lswTrip c code f s) := lswReport_noted ..

theorem lswTrip_logged (c : Fin 16) (code : Nat) (f : Lsw → Lsw) (s : State) : Logged 0x20 c.val (lswTrip c code f s) :=
  lswReport_logged ..

theorem tripsKept_lswTrip (c : Fin 16) (code : Nat) (f : Lsw → Lsw) (s : State) : TripsKept (trippedLsw c f s) (lswTrip c code f s) :=
  TripsKept.trans (t := endHold c (trippedLsw c f s)) (.of_lsw rfl)
    (tripsKept_noteCoast.trans (.ofOnly (lswReport_only ..) (by decide)))

/-! ### A sample of a switch's sensor (R307, R310 to R312) -/

theorem idx?_val {n : Nat} (i : Fin n) : idx? n i.val = some i := dif_pos i.isLt

theorem stageOf_lswSensor (c : Fin 16) : stageOf 8 (lswSensor c) = some (.switch c) :=
  congrArg (Option.map Stage.switch) (idx?_val c)

theorem modZone_zone (z : Fin 10) (f : Zone → Zone) (s : State) : (modZone z f s).ths.zone[z] = f s.ths.zone[z] := vmod_get ..

/-- The sensor is not broken. -/
def Unbroken (z : Fin 10) (k : Fin 20) (s : State) : Prop := s.ths.zone[z].sens[k].broken = false

theorem Unbroken.of_ths {z : Fin 10} {k : Fin 20} (h : Unbroken z k s) (e : t.ths = s.ths) : Unbroken z k t := by
  unfold Unbroken
  rw [e]
  exact h

/-- A reading in range breaks no sensor. -/
theorem unbroken_takeReading {z : Fin 10} {k : Fin 20} {x : Int} (h : Unbroken z k s) (hl : -600 ≤ x) (hh : x ≤ 2100) :
    Unbroken z k (takeReading z k x s) := by
  unfold takeReading
  extract_lets s1
  rw [if_neg (by omega)]
  unfold Unbroken
  rw [modZone_zone]
  exact (congrArg Sens.broken (Vector.getElem_set_self _)).trans h

theorem unbroken_rateTest {z : Fin 10} {k : Fin 20} {x : Int} (was : State) (h : Unbroken z k s) : Unbroken z k (rateTest z k x was s) := by
  unfold rateTest
  split
  · have counted : Unbroken z k (modZone z (fun y => { y with rateTrips := incMod 16 y.rateTrips 1 }) s) := by
      unfold Unbroken
      rw [modZone_zone]
      exact h
    refine (counted.of_ths ((thsNote_only ..).same .ths (by decide))).of_ths ((rateTripStage_only ..).same .ths (by decide))
  · exact h

theorem reading_unbroken {z : Fin 10} {k : Fin 20} {x : Int} (h : Unbroken z k s) : reading s z k x = x :=
  if_neg (by rw [h]; decide)

/-- The switch after the reading, before its tests. -/
theorem switchTemp_ls (x : Int) (s : State) : (switchTemp 8 (lswSensor c) x s).lsw.ls[c] = { s.lsw.ls[c] with temp := x } := by
  unfold switchTemp
  rw [stageOf_lswSensor]
  exact modLsw_ls ..

/-- The rate test of a switch trips it at most. -/
theorem tripsKept_rateTest (x : Int) (was s : State) : TripsKept s (rateTest 8 (lswSensor c) x was s) := by
  unfold rateTest
  split
  · have noted : TripsKept s (thsNote 0x04 8 (lswSensor c).val (modZone 8 (fun y => { y with rateTrips := incMod 16 y.rateTrips 1 }) s)) :=
      .ofOnly (l := [.sys, .host, .ths]) (((Only.refl _ s).andThen (modZone_only ..) (by decide)).andThen (thsNote_only ..) (by decide)) (by decide)
    refine noted.trans ?_
    unfold rateTripStage
    rw [stageOf_lswSensor]
    dsimp only
    split
    · exact .refl _
    · exact TripsKept.trans (tripsKept_modLsw ⟨rfl, rfl, rfl, fun _ => rfl⟩) (tripsKept_lswTrip c 0x03 (fun l => { l with short := true }) _)
  · exact .refl s

/-- The state in which a switch's sample meets T_TRIP. -/
def ratedSample (c : Fin 16) (x : Int) (s : State) : State :=
  rateTest 8 (lswSensor c) x s (switchTemp 8 (lswSensor c) x (takeReading 8 (lswSensor c) x s))

theorem ratedSample_act (c : Fin 16) (x : Int) (s : State) : (ratedSample c x s).act = s.act :=
  ((((Only.refl [.sys, .pd0, .host, .safe, .fe, .map, .vdr, .pwu, .lsw, .ths, .can, .sec] s).andThen (takeReading_only ..) (by decide)).andThen
    (switchTemp_only ..) (by decide)).andThen (rateTest_only ..) (by decide)).same .act (by decide)

/-- It has the reading, and the trips it had. -/
theorem ratedSample_ls (c : Fin 16) (x : Int) (s : State) :
    (ratedSample c x s).lsw.ls[c].temp = x ∧ (ratedSample c x s).lsw.ls[c].thermLatch = s.lsw.ls[c].thermLatch := by
  have taken : (takeReading 8 (lswSensor c) x s).lsw = s.lsw := (takeReading_only ..).same .lsw (by decide)
  have kept := tripsKept_rateTest (c := c) x s (switchTemp 8 (lswSensor c) x (takeReading 8 (lswSensor c) x s)) c
  rw [switchTemp_ls, taken] at kept
  exact ⟨kept.temp, kept.thermLatch⟩

theorem sensorSample_lswSensor {x : Int} (h : Unbroken 8 (lswSensor c) s) (hl : -600 ≤ x) (hh : x ≤ 2100) :
    sensorSample 8 (lswSensor c) x s = shutDown 8 (zoneSample 8 (lswTemp c x (ratedSample c x s))) := by
  have unbroken : Unbroken 8 (lswSensor c) (ratedSample c x s) :=
    unbroken_rateTest s ((unbroken_takeReading h hl hh).of_ths ((switchTemp_only ..).same .ths (by decide)))
  change shutDown 8 (zoneSample 8 (stageAt 8 (lswSensor c) (reading (ratedSample c x s) 8 (lswSensor c) x) (ratedSample c x s))) = _
  rw [reading_unbroken unbroken, stageAt, stageOf_lswSensor]

theorem tripsKept_sensorSample {x : Int} (h : Unbroken 8 (lswSensor c) s) (hl : -600 ≤ x) (hh : x ≤ 2100) :
    TripsKept (lswTemp c x (ratedSample c x s)) (sensorSample 8 (lswSensor c) x s) := by
  rw [sensorSample_lswSensor h hl hh]
  exact (tripsKept_zoneSample 8 _).trans (tripsKept_shutDown 8 _)

theorem tTrip_ratedSample (c : Fin 16) (x : Int) (s : State) : tTrip (ratedSample c x s) = tTrip s := by
  simp only [tTrip, shutdownAt, ratedSample_act]

/-- T_TRIP and the release temperature are in the range of a sensor. -/
theorem tTrip_range (s : State) : -100 ≤ tTrip s ∧ tTrip s ≤ 1600 := by
  simp only [tTrip, shutdownAt]
  omega

theorem tRelease_lt (s : State) : tRelease s < tTrip s := by
  unfold tRelease
  omega

/-- A switch at T_TRIP, its THERM_LATCH clear, is latched by it. -/
theorem lswTemp_trips {x : Int} (hx : tTrip s ≤ x) (hn : s.lsw.ls[c].thermLatch = false) :
    lswTemp c x s = lswTrip c 0x05 (fun l => { l with overtemp := true, thermLatch := true }) s :=
  if_pos ⟨hx, by simpa using hn⟩

theorem lswTemp_releases {x : Int} (hx : x ≤ tRelease s) (hn : s.lsw.ls[c].thermLatch = true) : lswTemp c x s =
    lswSync c (lswFaultClear c (modLsw c (fun l =>
      { l with thermLatch := false, thermAt := lswNow s, overtemp := l.overtemp && l.st == .latched }) s)) := by
  have cool := tRelease_lt s
  exact (if_neg fun h => by omega).trans (if_pos ⟨hn, hx⟩)

theorem lswTemp_idle {x : Int} (ht : x < tTrip s ∨ s.lsw.ls[c].thermLatch = true) (hr : s.lsw.ls[c].thermLatch = false ∨ tRelease s < x) :
    lswTemp c x s = s := by
  refine (if_neg fun ⟨hx, hn⟩ => ?_).trans (if_neg fun ⟨hn, hx⟩ => ?_)
  · rcases ht with ht | ht
    · omega
    · rw [ht] at hn
      exact absurd hn (by decide)
  · rcases hr with hr | hr
    · exact Bool.false_ne_true (hr.symm.trans hn)
    · omega

/-- After a sample at T_TRIP the switch has THERM_LATCH; one that had it not is latched off by OVERTEMP. -/
theorem sensorSample_trips {x : Int} (hb : Unbroken 8 (lswSensor c) s) (hx : tTrip s ≤ x) (hh : x ≤ 2100) :
    (sensorSample 8 (lswSensor c) x s).lsw.ls[c].thermLatch = true ∧ (sensorSample 8 (lswSensor c) x s).lsw.ls[c].temp = x ∧
    (s.lsw.ls[c].thermLatch = false → (sensorSample 8 (lswSensor c) x s).lsw.ls[c].overtemp = true ∧
      (sensorSample 8 (lswSensor c) x s).lsw.ls[c].st = .latched) := by
  obtain ⟨low, -⟩ := tTrip_range s
  obtain ⟨temp, latch⟩ := ratedSample_ls c x s
  have kept := tripsKept_sensorSample hb (by omega) hh c
  cases hn : s.lsw.ls[c].thermLatch with
  | true =>
    rw [lswTemp_idle (.inr (latch.trans hn)) (.inr (by have := tRelease_lt (ratedSample c x s); rw [tTrip_ratedSample] at this; omega))] at kept
    exact ⟨kept.thermLatch.trans (latch.trans hn), kept.temp.trans temp, nofun⟩
  | false =>
    rw [lswTemp_trips (by rwa [tTrip_ratedSample]) (latch.trans hn)] at kept
    have tripped := (tripsKept_lswTrip c 0x05 (fun l => { l with overtemp := true, thermLatch := true }) (ratedSample c x s) c).trans kept
    rw [trippedLsw, modLsw_ls] at tripped
    exact ⟨tripped.thermLatch, tripped.temp.trans temp, fun _ => ⟨tripped.overtemp, tripped.latched rfl⟩⟩

/-- After a sample at the release temperature the switch has no THERM_LATCH. -/
theorem sensorSample_releases {x : Int} (hb : Unbroken 8 (lswSensor c) s) (hx : x ≤ tRelease s) (hl : -600 ≤ x) :
    (sensorSample 8 (lswSensor c) x s).lsw.ls[c].thermLatch = false ∧ (sensorSample 8 (lswSensor c) x s).lsw.ls[c].temp = x := by
  obtain ⟨-, high⟩ := tTrip_range s
  have cool := tRelease_lt s
  obtain ⟨temp, latch⟩ := ratedSample_ls c x s
  have kept := tripsKept_sensorSample hb hl (by omega) c
  cases hn : s.lsw.ls[c].thermLatch with
  | false =>
    rw [lswTemp_idle (.inl (by rw [tTrip_ratedSample]; omega)) (.inl (latch.trans hn))] at kept
    exact ⟨kept.thermLatch.trans (latch.trans hn), kept.temp.trans temp⟩
  | true =>
    have release : x ≤ tRelease (ratedSample c x s) := by rwa [tRelease, tTrip_ratedSample]
    rw [lswTemp_releases release (latch.trans hn)] at kept
    have cleared := ((TripsKept.ofOnly (lswFaultClear_only c _) (by decide)).trans tripsKept_lswSync c).trans kept
    rw [modLsw_ls] at cleared
    exact ⟨cleared.thermLatch, cleared.temp.trans temp⟩

end Sys2Proof.Machine
end

section
/-! PROOFS. The rows of the load switches (R293, R296, R298 to R301, R303, R305). -/

namespace Sys2Proof.Machine

variable {s : State} {c : Fin 16}

/-! ### Inrush (R293) -/

theorem inrushStep_next (hs : s.lsw.ls[c].st = .inrush) (ht : s.lsw.ls[c].stepEnd ≤ lswNow s)
    (hn : s.lsw.ls[c].step + 1 < s.lsw.ls[c].profile.steps) : exec (.inrushStep c) s =
      .next (modLsw c (fun l => { l with step := l.step + 1, stepEnd := l.stepEnd + 800 * l.profile.tStep }) s) :=
  (if_pos ⟨hs, ht⟩).trans (congrArg Host.Outcome.next (modLsw_congr c s (if_pos hn)))

theorem inrushStep_ends (hs : s.lsw.ls[c].st = .inrush) (ht : s.lsw.ls[c].stepEnd ≤ lswNow s)
    (hn : s.lsw.ls[c].profile.steps ≤ s.lsw.ls[c].step + 1) : exec (.inrushStep c) s =
      .next (modLsw c (fun l => { l with st := .on, step := 0 }) s) :=
  (if_pos ⟨hs, ht⟩).trans (congrArg Host.Outcome.next (modLsw_congr c s (if_neg (Nat.not_lt.mpr hn))))

/-! ### Faults (R298, R300) -/

theorem lswOpenLoad_reports (ht : s.lsw.ls[c].st = .on ∨ offDiagnosed s c = true) (hn : s.lsw.ls[c].openLoad = false) :
    exec (.lswOpenLoad c true) s = .next (lswReport c 0x01 (modLsw c (fun l => { l with openLoad := true }) s)) :=
  if_pos ⟨rfl, ht, by rw [hn]; rfl⟩

theorem lswOpenLoad_clears (h : s.lsw.ls[c].openLoad = true) :
    exec (.lswOpenLoad c false) s = .next (lswFaultClear c (modLsw c (fun l => { l with openLoad := false }) s)) := by
  change execLswOpenLoad c false s = _
  unfold execLswOpenLoad
  rw [if_neg fun ⟨present, _⟩ => Bool.false_ne_true present, if_pos ⟨rfl, h⟩]

theorem lswShortBat_reports (ht : offDiagnosed s c = true) (hn : s.lsw.ls[c].shortBat = false) :
    exec (.lswShortBat c true) s = .next (lswReport c 0x02 (modLsw c (fun l => { l with shortBat := true }) s)) :=
  if_pos ⟨rfl, ht, by rw [hn]; rfl⟩

theorem lswShortBat_clears (h : s.lsw.ls[c].shortBat = true) :
    exec (.lswShortBat c false) s = .next (lswFaultClear c (modLsw c (fun l => { l with shortBat := false }) s)) := by
  change execLswShortBat c false s = _
  unfold execLswShortBat
  rw [if_neg fun ⟨present, _⟩ => Bool.false_ne_true present, if_pos ⟨rfl, h⟩]

theorem lswShort_trips (hon : s.lsw.ls[c].outOn = true) :
    exec (.lswShort c) s = .next (lswTrip c 0x03 (fun l => { l with short := true }) s) :=
  if_pos hon

theorem lswOverload_trips (hon : s.lsw.ls[c].isOn = true) (hh : s.pd0.keyOffHold[c] = none) :
    exec (.lswOverload c) s = .next (lswTrip c 0x04 (fun l => { l with overload := true }) s) :=
  if_pos ⟨hon, by rw [hh]; rfl⟩

/-- In OFF a sample meets T_TRIP and the release temperature alone (R298). -/
theorem lswOvertemp_off {x : Int} (ht : thsTakes s 8 (lswSensor c) = false) (hd : s.sys.dev = .off) :
    exec (.lswOvertemp c x) s = .next (lswTemp c x s) :=
  (if_neg (Bool.eq_false_iff.mp ht)).trans (if_pos hd)

theorem thermLatchRelease_off {x : Int} (ht : thsTakes s 8 (lswSensor c) = false) (hd : s.sys.dev = .off) :
    exec (.thermLatchRelease c x) s = .next (lswTemp c x s) :=
  (if_neg (Bool.eq_false_iff.mp ht)).trans (if_pos hd)

theorem aggregate_sheds {a : Nat} (ha : 80000 < a) (hn : s.lsw.shedding = false) : exec (.aggregate a) s =
    .next (shedOne (s.onLsw fun v => { v with shedding := true, lastShed := s.pm })) :=
  if_pos ⟨ha, by rw [hn]; rfl⟩

theorem aggregateShedStep_due {a : Nat} (hs : s.lsw.shedding = true) (ht : s.lsw.lastShed + 80000 ≤ s.pm) : exec (.aggregateShedStep a) s =
    if a ≤ 76000 then .next (s.onLsw fun v => { v with shedding := false })
    else .next (shedOne (s.onLsw fun v => { v with lastShed := s.pm })) :=
  if_pos ⟨hs, ht⟩

/-! ### Retries (R299) -/

/-- A trip of the switch has waited for its retry: not AGGREGATE's, not hot and not out of retries. -/
structure RetryWaited (s : State) (c : Fin 16) : Prop where
  latched : s.lsw.ls[c].st = .latched
  own : s.lsw.ls[c].aggregate = false
  cool : s.lsw.ls[c].thermLatch = false
  left : s.lsw.ls[c].exhausted = false
  dev : s.sys.dev ≠ .latched
  waited : max (s.lsw.ls[c].tripAt + msTicks s.lsw.ls[c].profile.retryDelay) s.lsw.ls[c].thermAt ≤ lswNow s

theorem RetryWaited.exec_lswRetryDue (h : RetryWaited s c) : exec (.lswRetryDue c) s =
    if !s.pd0.lswOn[c] ∨ s.sys.dev = .off then .next (lswSync c (lswUnlatch c s))
    else if s.pd0.lswRetries[c] > 0 then
      .next (lswSync c (lswUnlatch c (s.onPd0 fun p => { p with lswRetries := p.lswRetries.set c (p.lswRetries[c] - 1) })))
    else .next (notice .lsw 0x07 c.val [] (modLsw c (fun l => { l with exhausted := true }) s)) :=
  if_pos ⟨h.latched, by rw [h.own]; rfl, by rw [h.cool]; rfl, by rw [h.left]; rfl, h.dev, h.waited⟩

theorem RetryWaited.unwanted (h : RetryWaited s c) (hw : s.pd0.lswOn[c] = false ∨ s.sys.dev = .off) :
    exec (.lswRetryDue c) s = .next (lswSync c (lswUnlatch c s)) :=
  h.exec_lswRetryDue.trans (if_pos (hw.imp_left fun off => by rw [off]; rfl))

theorem not_unwanted (hon : s.pd0.lswOn[c] = true) (hd : s.sys.dev ≠ .off) : ¬ ((!s.pd0.lswOn[c]) = true ∨ s.sys.dev = .off) := by
  rw [hon]
  exact fun h => h.elim nofun hd

theorem RetryWaited.retries (h : RetryWaited s c) (hon : s.pd0.lswOn[c] = true) (hd : s.sys.dev ≠ .off) (hr : 0 < s.pd0.lswRetries[c]) :
    exec (.lswRetryDue c) s =
      .next (lswSync c (lswUnlatch c (s.onPd0 fun p => { p with lswRetries := p.lswRetries.set c (p.lswRetries[c] - 1) }))) :=
  h.exec_lswRetryDue.trans ((if_neg (not_unwanted hon hd)).trans (if_pos hr))

theorem RetryWaited.exhausts (h : RetryWaited s c) (hon : s.pd0.lswOn[c] = true) (hd : s.sys.dev ≠ .off) (hr : s.pd0.lswRetries[c] = 0) :
    exec (.lswRetryDue c) s = .next (notice .lsw 0x07 c.val [] (modLsw c (fun l => { l with exhausted := true }) s)) :=
  h.exec_lswRetryDue.trans ((if_neg (not_unwanted hon hd)).trans (if_neg (by omega)))

/-! ### Pulses (R296) -/

/-- The on-time of a pulse depends on its switch by PULSE_PERIOD and the held mode alone. -/
theorem pulseWidth_modLsw {f : Lsw → Lsw} (d : Nat) (hp : (f s.lsw.ls[c]).pulseP = s.lsw.ls[c].pulseP)
    (hm : (f s.lsw.ls[c]).holdPulse = s.lsw.ls[c].holdPulse) : pulseWidth (modLsw c f s) c d = pulseWidth s c d := by
  have mode : pulsedMode (modLsw c f s) c = pulsedMode s c := by
    simp only [pulsedMode, modLsw_ls, hm]
    rfl
  have scale : shedScale (modLsw c f s) c = shedScale s c := rfl
  simp only [pulseWidth, modLsw_ls, hp, mode, scale]

/-- The opening instant of a switch's grid. -/
def Lsw.opensAt (l : Lsw) : Tick := l.pulseB + l.pulsePhase * l.pulseP / 256

/-- A switch as its pulse opens: the duty written before the instant is in force (R291, R296). -/
def Lsw.opened (l : Lsw) : Lsw :=
  { l with lastOpen := l.opensAt + 1, dutyAct := (latestWrite (fun w => w < l.opensAt) l.duties).getD l.dutyAct,
           duties := pendingAfter (fun w => w < l.opensAt) l.duties }

/-- A switch as its pulse of the on-time `w` opens: no pulse below 1,600 ticks, no closing of a shorter gap (R296). -/
def Lsw.pulsed (w : Tick) (l : Lsw) : Lsw :=
  { l with st := if w < 1600 then .off else .on, closeAt := if w < 1600 ∨ l.pulseP - w < 1600 then none else some (l.opensAt + w) }

/-- The state as the pulse opens. -/
def pulseOpened (c : Fin 16) (l : Lsw) (s : State) : State := modLsw c (fun _ => l.opened) s

theorem pulseOpened_ls (c : Fin 16) (l : Lsw) (s : State) : (pulseOpened c l s).lsw.ls[c] = l.opened := modLsw_ls ..

/-- The pulse of `l` is on, for its on-time. -/
def pulseOn (c : Fin 16) (l : Lsw) (s : State) : State :=
  modLsw c (Lsw.pulsed (pulseWidth (pulseOpened c l s) c l.opened.dutyAct)) (pulseOpened c l s)

theorem lswTurnOff_pulsed {w : Tick} (hw : w < 1600) (hl : s.lsw.ls[c].st ≠ .latched) : lswTurnOff c s = modLsw c (Lsw.pulsed w) s :=
  modLsw_congr c s (by rw [Lsw.pulsed, if_neg hl, if_pos hw, if_pos (.inl hw)])

/-- A pulse after the first turns its switch on under I_LIM alone. -/
theorem turnedOn_pulsed {l : Lsw} {o w : Tick} (hw : ¬ w < 1600) (hc : s.lsw.ls[c] = l) (ho : o = l.opensAt)
    (hs : l.st = .on ∨ (l.st = .off ∧ l.firstPulse = false)) :
    modLsw c (fun l => { l with closeAt := if l.pulseP - w < 1600 then none else some (o + w) })
      (if l.st = .off then (if l.firstPulse then lswTurnOn c o s else modLsw c (fun l => { l with st := .on }) s) else s) =
    modLsw c (Lsw.pulsed w) s := by
  subst hc ho
  have closing : ∀ m : Lsw, m.pulseP = s.lsw.ls[c].pulseP → m.opensAt = s.lsw.ls[c].opensAt →
      { m with st := .on, closeAt := if m.pulseP - w < 1600 then none else some (s.lsw.ls[c].opensAt + w) } = m.pulsed w := by
    intro m hp ho
    simp only [Lsw.pulsed, hw, if_false, false_or, ho]
  rcases hs with on | ⟨off, later⟩
  · rw [if_neg (by rw [on]; decide)]
    refine modLsw_congr c s (Eq.trans ?_ (closing s.lsw.ls[c] rfl rfl))
    rw [← on]
  · rw [if_pos off, if_neg (by rw [later]; decide), modLsw_modLsw]
    exact modLsw_congr c s (closing s.lsw.ls[c] rfl rfl)

theorem lswPulseOpening_opens {l : Lsw} (hl : l = s.lsw.ls[c].advance (lswNow s)) (hp : l.pulsing = true)
    (hs : l.st = .on ∨ (l.st = .off ∧ l.firstPulse = false)) (ho : l.opensAt ≤ lswNow s) (hn : l.lastOpen < l.opensAt + 1)
    (hd : s.sys.dev ≠ .safe) : exec (.lswPulseOpening c) s = .next (pulseOn c l s) := by
  have running : l.st ≠ .latched := fun x => hs.elim (fun y => nomatch x.symm.trans y) fun y => nomatch x.symm.trans y.1
  change execLswPulseOpening c s = _
  simp only [execLswPulseOpening, ← hl]
  refine (if_pos ⟨hp, running, ho, hn⟩).trans ?_
  simp only [if_neg hd]
  have stays : (pulseOpened c l s).lsw.ls[c].st ≠ .latched := by rwa [pulseOpened_ls]
  change (if pulseWidth (pulseOpened c l s) c l.opened.dutyAct < 1600 then _ else _) = _
  split
  · next hw =>
    exact congrArg Host.Outcome.next (lswTurnOff_pulsed hw stays)
  · next hw =>
    exact congrArg Host.Outcome.next (turnedOn_pulsed (l := l.opened) hw (pulseOpened_ls c l s) rfl hs)

theorem lswPulseOpening_idle (h : (s.lsw.ls[c].advance (lswNow s)).pulsing = false ∨ (s.lsw.ls[c].advance (lswNow s)).st = .latched) :
    exec (.lswPulseOpening c) s = .next (modLsw c (fun l => l.advance (lswNow s)) s) := by
  refine (if_neg fun ⟨pulsing, running, _⟩ => ?_).trans (congrArg Host.Outcome.next (modLsw_congr c s rfl))
  exact h.elim (fun stopped => Bool.false_ne_true (stopped.symm.trans pulsing)) running

theorem pulseOn_ls (c : Fin 16) (l : Lsw) (s : State) :
    (pulseOn c l s).lsw.ls[c] = l.opened.pulsed (pulseWidth (pulseOn c l s) c l.opened.dutyAct) := by
  have width : pulseWidth (pulseOn c l s) c l.opened.dutyAct = pulseWidth (pulseOpened c l s) c l.opened.dutyAct :=
    pulseWidth_modLsw _ rfl rfl
  rw [width, pulseOn, modLsw_ls, pulseOpened_ls]

theorem pulseOn_only (c : Fin 16) (l : Lsw) (s : State) : Only [.lsw] s (pulseOn c l s) :=
  ((Only.refl _ s).andThen (modLsw_only ..) (by decide)).andThen (modLsw_only ..) (by decide)

theorem lswPulseClosing_at {t0 : Nat} (h0 : s.lsw.ls[c].closeAt = some t0) : exec (.lswPulseClosing c) s =
    if t0 ≤ lswNow s ∧ s.lsw.ls[c].pulsing then .next (lswTurnOff c s) else .next s := by
  change execLswPulseClosing c s = _
  simp only [execLswPulseClosing, h0]

theorem lswPulseClosing_none (h0 : s.lsw.ls[c].closeAt = none) : exec (.lswPulseClosing c) s = .next s := by
  change execLswPulseClosing c s = _
  simp only [execLswPulseClosing, h0]

theorem lswPulseClosing_idle {t0 : Nat} (h0 : s.lsw.ls[c].closeAt = some t0) (h : lswNow s < t0 ∨ s.lsw.ls[c].pulsing = false) :
    exec (.lswPulseClosing c) s = .next s :=
  (lswPulseClosing_at h0).trans (if_neg fun ⟨due, pulsing⟩ =>
    h.elim (fun early => Nat.not_le.mpr early due) fun stopped => Bool.false_ne_true (stopped.symm.trans pulsing))

/-! ### Key-off holds (R305) -/

theorem keyoffHoldEnd_at {t0 : Nat} (h0 : s.pd0.keyOffHold[c] = some t0) : exec (.keyoffHoldEnd c) s =
    if t0 ≤ s.pd0.now then .next (lswSync c (endHold c s)) else .next s := by
  change execKeyoffHoldEnd c s = _
  simp only [execKeyoffHoldEnd, h0]

theorem keyoffHoldEnd_idle (h : ∀ t0, s.pd0.keyOffHold[c] = some t0 → s.pd0.now < t0) : exec (.keyoffHoldEnd c) s = .next s := by
  cases h0 : s.pd0.keyOffHold[c] with
  | none =>
    change execKeyoffHoldEnd c s = _
    simp only [execKeyoffHoldEnd, h0]
  | some t0 => exact (keyoffHoldEnd_at h0).trans (if_neg (Nat.not_le.mpr (h t0 h0)))

/-- Settles O26, row by row. -/
theorem loadSwitchEventsExecute : Obligations.LoadSwitchEventsExecute := by
  refine ⟨?inrushNext, ?inrushEnds, ?openLoad, ?openLoadClears, ?shortBat, ?shortBatClears, ?short, ?overload, ?overtemp, ?overtempTrips,
    ?overtempOff, ?overtempOffIdle, ?release, ?releases, ?releaseOff, ?aggregate, ?shedStep, ?shedEnds, ?retry, ?retryUnwanted,
    ?retryExhausted, ?pulseOpens, ?pulseIdle, ?pulseCloses, ?pulseClosesNot, ?pulseNoClosing, ?offAfter, ?holdEnds, ?holdIdle⟩
  case inrushNext => exact fun c s hs ht hn => inrushStep_next hs ht hn
  case inrushEnds => exact fun c s hs ht hn => inrushStep_ends hs ht hn
  case openLoad => exact fun c s ht hn => ⟨_, lswOpenLoad_reports ht hn, lswReport_noted .., lswReport_logged ..⟩
  case openLoadClears => exact fun c s h => lswOpenLoad_clears h
  case shortBat => exact fun c s ht hn => ⟨_, lswShortBat_reports ht hn, lswReport_noted .., lswReport_logged ..⟩
  case shortBatClears => exact fun c s h => lswShortBat_clears h
  case short => exact fun c s hon => ⟨_, lswShort_trips hon, lswTrip_noted c 0x03 (fun l => { l with short := true }) s, lswTrip_logged ..⟩
  case overload =>
    exact fun c s hon hh => ⟨_, lswOverload_trips hon hh, lswTrip_noted c 0x04 (fun l => { l with overload := true }) s, lswTrip_logged ..⟩
  case overtemp => exact fun c x s ht => if_pos ht
  case overtempTrips => exact fun c x s ht hx hh hb => ⟨_, if_pos ht, sensorSample_trips hb hx hh⟩
  case overtempOff =>
    intro c x s ht hd hx hn
    refine ⟨_, lswOvertemp_off ht hd, ?_⟩
    rw [lswTemp_trips hx hn]
    exact ⟨lswTrip_noted c 0x05 (fun l => { l with overtemp := true, thermLatch := true }) s, lswTrip_logged ..⟩
  case overtempOffIdle => exact fun c x s ht hd hx hr => (lswOvertemp_off ht hd).trans (congrArg Host.Outcome.next (lswTemp_idle hx hr))
  case release => exact fun c x s ht => if_pos ht
  case releases => exact fun c x s ht hx hl hb => ⟨_, if_pos ht, sensorSample_releases hb hx hl⟩
  case releaseOff =>
    exact fun c x s ht hd hn hx => (thermLatchRelease_off ht hd).trans (congrArg Host.Outcome.next (lswTemp_releases hx hn))
  case aggregate => exact fun a s ha hn => aggregate_sheds ha hn
  case shedStep => exact fun a s hs ht ha => (aggregateShedStep_due hs ht).trans (if_neg (by omega))
  case shedEnds => exact fun a s hs ht ha => (aggregateShedStep_due hs ht).trans (if_pos ha)
  case retry => exact fun c s hl ha hc he hd hw hon ho hr => RetryWaited.retries ⟨hl, ha, hc, he, hd, hw⟩ hon ho hr
  case retryUnwanted => exact fun c s hl ha hc he hd hw hu => RetryWaited.unwanted ⟨hl, ha, hc, he, hd, hw⟩ hu
  case retryExhausted =>
    exact fun c s hl ha hc he hd hw hon ho hr => ⟨_, RetryWaited.exhausts ⟨hl, ha, hc, he, hd, hw⟩ hon ho hr, notice_noted ..⟩
  case pulseOpens =>
    intro c l o s hl ho hp hs ht hn hd
    subst ho
    refine ⟨_, lswPulseOpening_opens hl hp hs ht hn hd, pulseOn_only c l s, ?_⟩
    rw [pulseOn_ls]
    exact ⟨rfl, rfl, rfl, rfl, rfl⟩
  case pulseIdle => exact fun c s h => lswPulseOpening_idle h
  case pulseCloses => exact fun c t0 s h0 ht hp => (lswPulseClosing_at h0).trans (if_pos ⟨ht, hp⟩)
  case pulseClosesNot => exact fun c t0 s h0 h => lswPulseClosing_idle h0 h
  case pulseNoClosing => exact fun c s h0 => lswPulseClosing_none h0
  case offAfter => exact fun c s hd hc ht => if_pos ⟨hd, hc, ht⟩
  case holdEnds => exact fun c t0 s h0 ht => (keyoffHoldEnd_at h0).trans (if_pos ht)
  case holdIdle => exact fun c s h => keyoffHoldEnd_idle h

end Sys2Proof.Machine
end

section
/-! PROOFS. Requests of TIME, GNSS and POS (R46, R49, R73, R104, R393, R394). -/

namespace Sys2Proof.Machine

variable {e : Env} {n : Nat} {s : State}

/-- TIME_STEP_CONFIRM of the error of the step that is held (R46). -/
theorem opTimeStepConfirm_releases {st : Step} (hs : s.time.step = some st) (hh : st.held = true) (he : argS e 0 64 = -st.err) :
    opTimeStepConfirm e s = (s.onTime fun v => { v with step := some { st with held := false, earliest := s.pm + 8000000 } }, {}) := by
  simp only [opTimeStepConfirm, hs]
  rw [if_neg (by simp [hh]), if_neg (Decidable.not_not.2 he)]
  rfl

/-- GNSS_RTCM of bytes that the intake buffer still takes (R73). -/
theorem opGnssRtcm_appends (h : s.gnss.rtcmBuf.length + e.payload.length ≤ 8192) :
    opGnssRtcm e s = (rtcmSearch (s.gnss.rtcmBuf ++ e.payload) (s.onGnss fun g => { g with rtcmLast := s.pm }), {}) :=
  if_neg (Nat.not_lt.2 h)

theorem lenItems_bytes {m : Nat} (h0 : 0 < e.payload.length) (hm : e.payload.length ≤ m) : lenItems 0 1 1 m e = true := by
  simp [lenItems, hm, Nat.succ_le_of_lt h0, Nat.mod_one]

/-- The TCXO model of an admitted request is the one it finds. -/
theorem admitted_tcxo : (admitted e n s).pd0.tcxo = s.pd0.tcxo := by rw [admitted_pd0]

/-- Settles O7: each row passes its gate and ends with the effect of its own operation. -/
theorem timeAndPositionRequestsExecute : Obligations.TimeAndPositionRequestsExecute := by
  refine ⟨?timeGet, ?stepConfirm, ?rtcm, ?measGet, ?posGet⟩
  case timeGet =>
    exact fun e n s h hl hd => request_completes rfl h hd (lenIs_of hl)
      (by simp only [opTimeGet, admitted_time, admitted_tcxo]; rfl) rfl
  case stepConfirm =>
    exact fun e n s st h hl hd hs hh he => request_completes rfl h hd (lenIs_of hl)
      (by simp only [opTimeStepConfirm_releases ((congrArg TimeSt.step (admitted_time e n s)).trans hs) hh he, admitted_pm]) rfl
  case rtcm =>
    exact fun e n s h h0 hm hd hb => request_completes rfl h hd (lenItems_bytes h0 hm)
      (by simp only [opGnssRtcm_appends (s := admitted e n s) (by rwa [admitted_gnss]), admitted_gnss, admitted_pm]) rfl
  case measGet => exact fun e n s h hl hd => request_completes rfl h hd (lenIs_of hl) (by simp only [opGnssMeasGet, admitted_gnss]; rfl) rfl
  case posGet => exact fun e n s h hl hd => request_completes rfl h hd (lenIs_of hl) (by simp only [opPosGet, admitted_pos]; rfl) rfl

end Sys2Proof.Machine
end

section
/-! PROOFS. The remaining phases of the frame (R15, R17, R35). -/

namespace Sys2Proof.Machine

variable {s : State} {e : Nat}

theorem frameEdge_rests {f : Freeze} {u : State} (he : e = edgeOf s.pm) (hr : s.running = true) (hd : s.sys.dev ≠ .off)
    (hl : ∀ l, s.sys.lastEdge = some l → l < edgeOf s.pm)
    (hu : u = ((toggleFaultOut (trigSource 7 0 e 0 (bkoError (activationEdge e (settleActivation e (edgeStates e ((lastFrameEnd e s).onSys fun y =>
      { y with lastEdge := some e, phase := some .freeze }))))))).onLsw fun v => { v with sel := f.sel })) (hf : framesRun u = false) :
    exec (.frameEdge f) s = .next u := by
  subst he hu
  exact (if_pos ⟨hr, hd, (edgeFresh_iff s).2 hl⟩).trans (congrArg Host.Outcome.next (if_neg (by simp [hf])))

/-- The batch of a frame without an active set: what FE holds is carried on (R15). -/
def emptyBatch (e : Tick) (f : FeSt) : Batch :=
  { edge := e, ctx := f.ctx, demand := f.demand, waiting := f.paints, secRun := f.secRun, secOn := f.secOn, secGround := f.secGround
    secRate := f.secRate, directed := f.directed }

/-- Without an active set FE forms a batch in which no context has an edge (R15). -/
theorem decisionPhase_noSet (hl : s.sys.lastEdge = some e) (hp : s.sys.phase = some .freeze) (h1 : e + 20000 ≤ s.pm)
    (h2 : s.pm < e + 32000) (hw : feWorks s e = true) (hi : s.impl.active = none) :
    ∃ t, exec .decisionPhase s = .next t ∧ ∃ b, t.fe.batch = some b ∧ b.edge = e ∧ b.events = [] ∧ b.duties = [] ∧ b.paints = [] ∧
      t.sys.phase = some .decision ∧ Only [.sys, .fe] s t := by
  have hx : exec .decisionPhase s = .next ((s.onSys fun y => { y with phase := some .decision }).onFe fun f =>
      { f with batch := some (emptyBatch e f) }) := by
    change execDecisionPhase s = _
    simp only [execDecisionPhase, hl, hw, hi]
    exact if_pos ⟨hp, h1, h2⟩
  exact ⟨_, hx, _, rfl, rfl, rfl, rfl, rfl, rfl,
    ((Only.refl _ s).andThen (State.onSys_only ..) (by decide)).andThen (State.onFe_only ..) (by decide)⟩

theorem decisionPhase_rests (hl : s.sys.lastEdge = some e) (hp : s.sys.phase = some .freeze) (h1 : e + 20000 ≤ s.pm)
    (h2 : s.pm < e + 32000) (hw : feWorks s e = false) :
    exec .decisionPhase s = .next (s.onSys fun y => { y with phase := some .decision }) := by
  change execDecisionPhase s = _
  simp only [execDecisionPhase, hl, hw]
  exact if_pos ⟨hp, h1, h2⟩

theorem commitPhase_rests (agree : Bool) (hl : s.sys.lastEdge = some e) (hp : s.sys.phase = some .decision) (h1 : e + 32000 ≤ s.pm)
    (h2 : s.pm < e + 36000) (hw : feWorks s e = false) :
    exec (.commitPhase agree) s = .next (s.onSys fun y => { y with phase := some .commit }) := by
  change execCommitPhase agree s = _
  simp only [execCommitPhase, hl, hw]
  exact if_pos ⟨hp, h1, h2⟩

/-- Lanes that disagree leave no batch, whether or not there was one (R17). -/
theorem commitPhase_drops (hl : s.sys.lastEdge = some e) (hp : s.sys.phase = some .decision) (h1 : e + 32000 ≤ s.pm)
    (h2 : s.pm < e + 36000) (hw : feWorks s e = true) :
    exec (.commitPhase false) s =
      .next ((s.onSys fun y => { y with phase := some .commit }).onFe fun f => { f with batch := none }) := by
  change execCommitPhase false s = _
  simp only [execCommitPhase, hl, hw]
  rw [if_pos ⟨hp, h1, h2⟩]
  cases hb : s.fe.batch with
  | some b => rfl
  | none =>
    have same : s.fe = { s.fe with batch := none } := by rw [← hb]
    exact congrArg (fun f => Host.Outcome.next { s.onSys (fun y => { y with phase := some .commit }) with fe := f }) same

/-- Settles O12, phase by phase. -/
theorem framePhasesExecute : Obligations.FramePhasesExecute := by
  refine ⟨?freezes, ?edgeRests, ?batch, ?noSet, ?decisionRests, ?commits, ?commitRests, ?drops, ?logs⟩
  case freezes => exact fun f e u s => frameEdge_freezes
  case edgeRests => exact fun f e u s => frameEdge_rests
  case batch => exact fun e i s => decisionPhase_batch
  case noSet => exact fun e s => decisionPhase_noSet
  case decisionRests => exact fun e s => decisionPhase_rests
  case commits => exact fun e b s => commitPhase_commits
  case commitRests => exact fun e agree s => commitPhase_rests agree
  case drops => exact fun e s => commitPhase_drops
  case logs => exact fun e s => loggingPhase_logs

end Sys2Proof.Machine
end

section
/-! PROOFS. Measurement epochs, holdover, the second pulse and the TCXO under their conditions and out of them (R40, R42 to R46, R52, R60 to R64,
R67, R73, R87, R319, R321; log entry 2). -/

namespace Sys2Proof.Machine

variable {s : State}

/-! ### Changes of the TIME state (R40) -/

/-- A change to a state other than LOCKED makes a notice alone. -/
theorem setTState_noted {x : TState} (pm : Tick) (hs : s.time.st ≠ x) (hx : x ≠ .locked) :
    Noted (s.onTime fun v => { v with st := x }) (setTState x pm s) := by
  unfold setTState
  rw [if_neg hs]
  extract_lets s1
  rw [if_neg hx]
  exact noticeAt_noted ..

theorem setTState_time (x : TState) (pm : Tick) (s : State) : (setTState x pm s).time = { s.time with st := x } := by
  unfold setTState
  split
  · next h => rw [← h]
  · extract_lets s1
    have h1 : s1.time = { s.time with st := x } := (noticeAt_only ..).same .time (by decide)
    split
    · exact ((logModel_only ..).same .time (by decide)).trans h1
    · exact h1

theorem holdoverEntry_enters (hs : s.time.st = .locked) (ht : s.time.lastGood + 20000000 ≤ s.pm) :
    ∃ t, exec .holdoverEntry s = .next t ∧ Noted (s.onTime fun v => { v with st := .holdover }) t :=
  ⟨_, if_pos ⟨hs, ht⟩, setTState_noted _ (by simp [hs]) (by decide)⟩

theorem holdoverLimitExpiry_frees (hs : s.time.st = .holdover) (ht : s.time.lastGood + holdoverLimit s ≤ s.pm) :
    ∃ t, exec .holdoverLimitExpiry s = .next t ∧ Noted (s.onTime fun v => { v with st := .free }) t :=
  ⟨_, if_pos ⟨hs, ht⟩, setTState_noted _ (by simp [hs]) (by decide)⟩

/-! ### Measurement epochs (R61, R62, R67) -/

/-- Of the GNSS registers two states differ in the channels alone. -/
def ChannelsOnly (s t : State) : Prop := ∃ v, t.gnss = { s.gnss with chan := v }

theorem ChannelsOnly.refl (s : State) : ChannelsOnly s s := ⟨_, rfl⟩

theorem ChannelsOnly.modChan {t : State} (h : ChannelsOnly s t) (c : Fin 24) (f : GChan → GChan) : ChannelsOnly s (modChan c f t) := by
  obtain ⟨v, h⟩ := h
  exact ⟨_, congrArg (fun g : GnssSt => { g with chan := vmod g.chan c f }) h⟩

theorem chansAfter_channelsOnly (t : Tick) (sats : List SatMeas) (s : State) : ChannelsOnly s (chansAfter t sats s) :=
  List.foldlRecOn (motive := ChannelsOnly s) _ _ (.refl s) fun _ h _ _ => h.modChan ..

theorem placeMonitors_channelsOnly {t : State} (h : ChannelsOnly s t) : ChannelsOnly s (placeMonitors t) := by
  refine List.foldlRecOn (motive := ChannelsOnly s) _ _ h fun u hu c _ => ?_
  extract_lets bare low
  split
  · exact hu.modChan ..
  · exact hu

/-- An epoch that is due is recorded and counted, whatever TIME makes of it (R67). -/
theorem measurementEpoch_records {m : EpochIn} {t0 : Nat} (hr : gnssRuns s = true) (hd : epochDue s = some t0) :
    ∃ t, exec (.measurementEpoch m) s = .next t ∧ t.gnss.epochPm = t0 ∧ t.gnss.recAt = some s.pm ∧ t.gnss.seq = s.gnss.seq + 1 := by
  change ∃ t, execMeasurementEpoch m s = .next t ∧ _
  unfold execMeasurementEpoch
  rw [if_neg (by simp [hr])]
  split
  · next h => simp [hd] at h
  · next t1 h =>
    obtain rfl : t0 = t1 := Option.some.inj (hd.symm.trans h)
    extract_lets sats k one mask gms pair recBytes ms s1 s2 s3
    have h2 : s2.gnss = s1.gnss := by
      unfold s2
      split
      · exact (noticeNow_only ..).same .gnss (by decide)
      · rfl
    have h3 : s3.gnss = s2.gnss := by
      unfold s3
      split
      · exact (learnDrift_only ..).same .gnss (by decide)
      · rfl
    obtain ⟨v, hv⟩ := placeMonitors_channelsOnly (chansAfter_channelsOnly t0 sats s)
    refine ⟨_, rfl, ?_⟩
    rw [(timeEpoch_only ..).same .gnss (by decide), h3, h2]
    exact ⟨rfl, rfl, (congrArg (fun g : GnssSt => g.seq + 1) hv).trans rfl⟩

theorem measurementEpoch_idle {m : EpochIn} (h : gnssRuns s = false ∨ epochDue s = none) : exec (.measurementEpoch m) s = .next s := by
  change execMeasurementEpoch m s = _
  unfold execMeasurementEpoch
  rcases h with h | h
  · exact if_pos (by simp [h])
  · rw [h]
    exact ite_self _

/-! ### The second pulse (R42, R43, R46) -/

/-- The old model's last whole second has a pulse of its own: pulses may start, and that second had none (R42, R43). -/
def pulseDue (s : State) : Bool :=
  decide (s.time.ppsFrom ≤ (s.time.model.latest second s.pm).2) && (match s.time.ppsSec with
    | some p => decide (p < (s.time.model.latest second s.pm).1)
    | none => true)

theorem pulseDue_iff (s : State) : pulseDue s = true ↔ s.time.ppsFrom ≤ (s.time.model.latest second s.pm).2 ∧
    ∀ p, s.time.ppsSec = some p → p < (s.time.model.latest second s.pm).1 := by
  unfold pulseDue
  cases s.time.ppsSec <;> simp

/-- PPS_PULSE where no step takes effect. -/
theorem ppsPulse_noStep (h : s.time.step = none) : exec .ppsPulse s =
    if ppsRuns s && pulseDue s then .next (emitPulse (s.time.model.latest second s.pm).1 (s.time.model.latest second s.pm).2 0 s)
    else .next s := by
  change execPpsPulse s = _
  simp only [execPpsPulse, h]
  rfl

theorem ppsPulse_emits (hn : s.time.step = none) (hr : ppsRuns s = true) (hf : s.time.ppsFrom ≤ (s.time.model.latest second s.pm).2)
    (hp : ∀ p, s.time.ppsSec = some p → p < (s.time.model.latest second s.pm).1) : exec .ppsPulse s =
      .next (emitPulse (s.time.model.latest second s.pm).1 (s.time.model.latest second s.pm).2 0 s) :=
  (ppsPulse_noStep hn).trans (if_pos (Bool.and_eq_true_iff.2 ⟨hr, (pulseDue_iff s).2 ⟨hf, hp⟩⟩))

theorem ppsPulse_rests (hn : s.time.step = none) (h : ppsRuns s = false ∨ (s.time.model.latest second s.pm).2 < s.time.ppsFrom ∨
    ∃ p, s.time.ppsSec = some p ∧ (s.time.model.latest second s.pm).1 ≤ p) : exec .ppsPulse s = .next s := by
  refine (ppsPulse_noStep hn).trans (if_neg fun hgo => ?_)
  obtain ⟨hr, hd⟩ := Bool.and_eq_true_iff.1 hgo
  obtain ⟨hf, hp⟩ := (pulseDue_iff s).1 hd
  rcases h with h | h | ⟨p, hs, h⟩
  · exact Bool.false_ne_true (h.symm.trans hr)
  · exact Nat.not_lt.2 hf h
  · exact Nat.not_lt.2 h (hp p hs)

/-- A pulse leaves the model, the state and the last epoch of TIME. -/
theorem emitPulse_time (sec : Nat) (tick : Tick) (ps : Int) (s : State) : (emitPulse sec tick ps s).time.model = s.time.model ∧
    (emitPulse sec tick ps s).time.step = s.time.step ∧ (emitPulse sec tick ps s).time.st = s.time.st ∧
    (emitPulse sec tick ps s).time.lastGood = s.time.lastGood := ⟨rfl, rfl, rfl, rfl⟩

/-- A step takes effect with its pulse: its model replaces the old one, and TIME is LOCKED (R46). -/
theorem ppsPulse_steps {st : Step} (hs : s.time.step = some st) (hh : st.held = false) (ht : (stepPulse st).2 ≤ s.pm) :
    ∃ t, exec .ppsPulse s = .next t ∧ t.time.model = st.model ∧ t.time.step = none ∧ t.time.st = .locked ∧
      t.time.lastGood = max st.model.refPm s.time.lastClear := by
  change ∃ t, execPpsPulse s = .next t ∧ _
  simp only [execPpsPulse, hs, hh]
  rw [if_pos ht]
  refine ⟨_, rfl, ?_⟩
  rw [(setRtc_only _).same .time (by decide)]
  generalize hu : noticeNow .time _ _ _ _ _ = u
  have hu : u.time = { s.time with
      model := st.model, step := none, lastGood := max st.model.refPm s.time.lastClear, st := .locked } := by
    rw [← hu, (noticeNow_only ..).same .time (by decide), (logModel_only ..).same .time (by decide), setTState_time]
    rfl
  split
  · obtain ⟨h1, h2, h3, h4⟩ := emitPulse_time (stepPulse st).1 (stepPulse st).2 (-st.err) u
    rw [h1, h2, h3, h4, hu]
    exact ⟨rfl, rfl, rfl, rfl⟩
  · rw [hu]
    exact ⟨rfl, rfl, rfl, rfl⟩

/-- Before the step the old model places no pulse of the stepped second or of a later one (R46). -/
theorem ppsPulse_awaitsStep {st : Step} (hs : s.time.step = some st) (hh : st.held = false) (ht : s.pm < (stepPulse st).2)
    (ho : (stepPulse st).1 ≤ (s.time.model.latest second s.pm).1) : exec .ppsPulse s = .next s := by
  change execPpsPulse s = _
  simp only [execPpsPulse, hs, hh]
  exact (if_neg (Nat.not_le.2 ht)).trans (if_neg (Nat.not_lt.2 ho))

/-! ### The TCXO (R319, R321) -/

theorem tcxoTempUpdate_learns {x : Int} (h : s.time.st = .locked) :
    exec (.tcxoTempUpdate x) s = .next ((s.onTime fun v => { v with tcxoTemp := x }).onPd0 fun d => { d with tcxo := { d.tcxo with
      learned := d.tcxo.learned + 8000000, minT := some (min s.ths.zone[(9 : Fin 10)].temp (d.tcxo.minT.getD s.ths.zone[(9 : Fin 10)].temp)),
      maxT := some (max s.ths.zone[(9 : Fin 10)].temp (d.tcxo.maxT.getD s.ths.zone[(9 : Fin 10)].temp)) } }) := by
  change execTcxoTempUpdate x s = _
  simp only [execTcxoTempUpdate, h]

theorem tcxoTempUpdate_reanchors {x : Int} (h : s.time.st = .holdover) : exec (.tcxoTempUpdate x) s = .next (s.onTime fun v =>
    { v with tcxoTemp := x, model := v.model.reanchor s.pm (s.pd0.tcxo.rateAt s.pd0.now x) 0 }) := by
  change execTcxoTempUpdate x s = _
  simp only [execTcxoTempUpdate, h]
  rfl

theorem tcxoTempUpdate_reads {x : Int} (hl : s.time.st ≠ .locked) (hh : s.time.st ≠ .holdover) :
    exec (.tcxoTempUpdate x) s = .next (s.onTime fun v => { v with tcxoTemp := x }) := by
  change execTcxoTempUpdate x s = _
  cases h : s.time.st with
  | locked => exact absurd h hl
  | holdover => exact absurd h hh
  | free => simp only [execTcxoTempUpdate, h]
  | unset => simp only [execTcxoTempUpdate, h]

/-- Settles O18, row by row. -/
theorem timeEventsExecute : Obligations.TimeEventsExecute := by
  refine ⟨?epoch, ?epochIdle, ?holdover, ?free, ?pulse, ?pulseRests, ?steps, ?awaitsStep, ?pulseEnd, ?learns, ?reanchors, ?reads, ?tcxoClear⟩
  case epoch => exact fun m t0 s => measurementEpoch_records
  case epochIdle => exact fun m s => measurementEpoch_idle
  case holdover => exact fun s => holdoverEntry_enters
  case free => exact fun s => holdoverLimitExpiry_frees
  case pulse => exact fun s => ppsPulse_emits
  case pulseRests => exact fun s => ppsPulse_rests
  case steps => exact fun st s => ppsPulse_steps
  case awaitsStep => exact fun st s => ppsPulse_awaitsStep
  case pulseEnd => exact fun s ho ht => if_pos ⟨ho, ht⟩
  case learns => exact fun x s => tcxoTempUpdate_learns
  case reanchors => exact fun x s => tcxoTempUpdate_reanchors
  case reads => exact fun x s => tcxoTempUpdate_reads
  case tcxoClear => exact fun s hd => if_pos hd

/-! ### Out of their conditions (log entry 2) -/

/-- CHANNEL_LOSS of a channel that is not weak, or not for 2 s. -/
theorem channelLoss_idle {c : Fin 24} (h : ¬ (gnssRuns s = true ∧ s.gnss.chan[c].stage.tracks = true ∧
    (∃ t0, s.gnss.chan[c].weakFrom = some t0 ∧ t0 + 160000000 ≤ s.pm))) : exec (.channelLoss c) s = .next s := by
  change execChannelLoss c s = _
  unfold execChannelLoss
  split
  · next t0 hw => exact if_neg fun ⟨hr, hs, ht⟩ => h ⟨hr, hs, t0, hw, ht⟩
  · rfl

/-- Settles O33: outside its condition each row takes the branch that answers the state as it is. -/
theorem timeEventsIdle : Obligations.TimeEventsIdle := by
  refine ⟨?holdoverEntry, ?holdoverLimit, ?pulseEnd, ?tcxoClear, ?warmSearch, ?pullInTimeout, ?pullInComplete, ?bitSync, ?frameSync,
    ?lnavWord, ?channelLoss, ?biasRetry, ?rtcmTimeout, ?ambiguity, ?odoStale⟩
  case holdoverEntry => exact fun s h => if_neg h
  case holdoverLimit => exact fun s h => if_neg h
  case pulseEnd => exact fun s h => if_neg h
  case tcxoClear => exact fun s h => if_neg h
  case warmSearch => exact fun s h => if_neg h
  case pullInTimeout => exact fun c s h => if_neg h
  case pullInComplete => exact fun c s h => if_neg h
  case bitSync => exact fun c l s h => if_neg (by simpa using h)
  case frameSync => exact fun c f s h => if_neg (by simpa using h)
  case lnavWord => exact fun c w s h => if_neg h
  case channelLoss => exact fun c s => channelLoss_idle
  case biasRetry => exact fun ma s h => if_neg (by simpa using h)
  case rtcmTimeout => exact fun s h => if_neg h
  case ambiguity => exact fun m l q s h => if_neg (by simpa using h)
  case odoStale => exact fun k s h => if_neg (by simpa using h)

end Sys2Proof.Machine
end

section
/-! PROOFS. The rows of time, receiver, valves, PWM and loops taken together (R40, R52, R60, R73, R190, R198, R234 to R246, R258, R264, R269). -/

namespace Sys2Proof.Machine

/-- Settles O59: its clauses are the statements of O18 to O21, O23 and O24 for the condition under which each row acts. -/
theorem actuationAndReceiverEventsCompleteUnderTheirConditions : Obligations.ActuationAndReceiverEventsCompleteUnderTheirConditions := by
  obtain ⟨epoch, -, holdover, free, pulse, -, -, -, pulseEnd, learns, -, -, tcxoClear⟩ := timeEventsExecute
  obtain ⟨-, -, dwell, -, -, warmSearch, pullInTimeout, pullIn, lock, -, -, bitSync, frameSync, word, ephemeris, loss, acqGate⟩ :=
    gnssChannelEventsExecute
  obtain ⟨antOpen, -, -, antShort, -, antRetry, -, -, rtcmFrame, -, rtcmTimeout, ambiguity, odoStale⟩ :=
    antennaAndCorrectionEventsExecute
  obtain ⟨starts, -, -, -, -, pullsIn, -, feedToVbst, windowEnd, guardEnd, holds, -, fastEnd, -, decayEnd, opening, closing, searchEnd⟩ :=
    valveEventsExecute
  obtain ⟨boundary, opens, -, -, closes, -, finePeriod, gateRises, -, -, -, trigger, triggerEnd⟩ := pwmEventsExecute
  obtain ⟨closedLoop, -, -, -, -, miss, -, -, imbalance, -, -, -⟩ := loopEventsExecute
  exact ⟨epoch, holdover, free, pulse, pulseEnd, learns, tcxoClear, dwell, warmSearch, pullInTimeout, pullIn, lock, bitSync, frameSync,
    word, ephemeris, loss, acqGate, antOpen, antShort, antRetry, rtcmFrame, rtcmTimeout, ambiguity, odoStale, starts, pullsIn, feedToVbst,
    windowEnd, guardEnd, holds, fastEnd, decayEnd, opening, closing, searchEnd, boundary, opens, closes, finePeriod, gateRises, trigger,
    triggerEnd, closedLoop, miss, imbalance⟩

end Sys2Proof.Machine
end

section
/-! PROOFS. The rows of inputs, load switches, zones, buses and stores taken together (R273 to R285, R293 to R305, R311 to R318, R325 to R346,
R174 to R181). -/

namespace Sys2Proof.Machine

variable {s : State} {z : Fin 10} {k : Fin 20}

/-! ### Sensors and rate trips (R312, R314) -/

theorem breakSensor_broken (h : s.ths.zone[z].sens[k].broken = true) : breakSensor z k s = s := if_pos h

/-- SENSOR_BROKEN of a sensor that is broken already: what stands for it is one sample more. -/
theorem sensorBroken_again (ht : thsTakes s z k = true) (hb : s.ths.zone[z].sens[k].broken = true) :
    exec (.sensorBroken z k) s = .next (shutDown z (zoneSample z (stageAt z k (standsFor s z k.val) s))) := by
  change execSensorBroken z k s = _
  simp only [execSensorBroken, breakSensor_broken hb]
  exact if_pos ht

/-- A rise of a sound sensor on a stage is counted and noted, and trips the stage. -/
theorem rateTest_trips {x : Int} (was : State) (hst : (stageOf z k).isSome = true) (hr : was.ths.zone[z].sens[k].rises s.pm x = true)
    (hb : Unbroken z k s) : ∃ u, rateTest z k x was s = rateTripStage z k u ∧
      Noted (modZone z (fun y => { y with rateTrips := incMod 16 y.rateTrips 1 }) s) u :=
  ⟨_, if_pos ⟨hst, hr, congrArg not hb⟩, thsNote_noted ..⟩

/-- RATE_TRIP of a rise in range: the stage trips and takes the sample, then the zone (R312). -/
theorem rateTrip_trips {x : Int} (ht : thsTakes s z k = true) (hst : (stageOf z k).isSome = true)
    (hr : s.ths.zone[z].sens[k].rises s.pm x = true) (hl : -600 ≤ x) (hh : x ≤ 2100) (hb : s.ths.zone[z].sens[k].broken = false) :
    ∃ t, exec (.rateTrip z k x) s = .next t ∧ ∃ u, t = shutDown z (zoneSample z (stageAt z k x (rateTripStage z k u))) ∧
      Noted (modZone z (fun y => { y with rateTrips := incMod 16 y.rateTrips 1 }) (switchTemp z k x (takeReading z k x s))) u := by
  let s1 := switchTemp z k x (takeReading z k x s)
  have o : Only [.sys, .host, .ths, .lsw] s s1 :=
    ((Only.refl _ s).andThen (takeReading_only ..) (by decide)).andThen (switchTemp_only ..) (by decide)
  have hpm : s1.pm = s.pm := o.same .pm (by decide)
  have sound : Unbroken z k s1 := (unbroken_takeReading hb hl hh).of_ths ((switchTemp_only ..).same .ths (by decide))
  obtain ⟨u, hu, noted⟩ := rateTest_trips s hst (hpm ▸ hr) sound
  have sampled : reading (rateTest z k x s s1) z k x = x := reading_unbroken (unbroken_rateTest s sound)
  refine ⟨sensorSample z k x s, if_pos ht, u, ?_, noted⟩
  change shutDown z (zoneSample z (stageAt z k (reading (rateTest z k x s s1) z k x) (rateTest z k x s s1))) = _
  rw [sampled, hu]

/-! ### The rows together -/

/-- Settles O60: its clauses are the statements of O25, O26 and O28 to O30 for the condition under which each row acts, with the
samples of the thermal supervisor. -/
theorem inputSwitchBusAndStoreEventsCompleteUnderTheirConditions : Obligations.InputSwitchBusAndStoreEventsCompleteUnderTheirConditions := by
  obtain ⟨encoder, -, -, index, -, -, hall, -, -, hallIllegal, freq, -, event, -, -, analog, emulation, -⟩ := inputEventsExecute
  obtain ⟨inrush, -, openLoad, -, shortBat, -, short, overload, overtemp, -, -, -, release, -, -, aggregate, shedStep, -, retry, -, -,
    pulseOpens, -, pulseCloses, -, -, offAfter, holdEnds, -⟩ := loadSwitchEventsExecute
  obtain ⟨unmatched, -, -, -, -, -, txStart, -, sent, -, -, -, -, deadline, recovery, -, rejoin, -, receiveError⟩ := canEventsExecute
  obtain ⟨claim, claimTimer, -, sync, -, allOff, reportWait, nodeLost⟩ := networkEventsExecute
  obtain ⟨scrub, -, -, writeback, mask, -, -, load, -, exports, -, logSeal, track, -, latencySave⟩ := storeEventsExecute
  refine ⟨encoder, index, hall, hallIllegal, freq, event, analog, emulation, inrush, openLoad, shortBat, short, overload, overtemp, release,
    aggregate, shedStep, retry, pulseOpens, pulseCloses, offAfter, holdEnds, ?warn, ?throttle, ?broken, ?rateTrip, ?shutdown, unmatched,
    txStart, sent, deadline, recovery, rejoin, receiveError, claim, claimTimer, sync, allOff, reportWait, nodeLost, scrub, writeback, mask,
    load, exports, logSeal, track, latencySave⟩
  case warn => exact fun z k x s ht => if_pos ht
  case throttle => exact fun z k x s ht => if_pos ht
  case broken => exact fun z k s => sensorBroken_again
  case rateTrip => exact fun z k x s => rateTrip_trips
  case shutdown => exact fun z k x s ht => if_pos ht

end Sys2Proof.Machine
end
